-- ==== Sys2Proof/Word.lean ====
section
/-! DEFINITION. The word types of the MS9 and the type of a sparse table (a list of key and value pairs). -/
namespace Sys2Proof

/-- One byte. -/
abbrev Byte := BitVec 8
/-- A 16-bit field. -/
abbrev Half := BitVec 16
/-- A register: every register is 32 bits wide (R6). -/
abbrev Word := BitVec 32
/-- A 64-bit value, two consecutive registers (R6). -/
abbrev DWord := BitVec 64
/-- A 32-byte string (an SM3 digest, a measurement, a challenge); byte 0 is bits 7..0 (R456). -/
abbrev Digest := BitVec 256
/-- A codeword of a fabric lane: 2,720 PAM4 symbols, two bits a symbol, its level 0 to 3 from -3 to +3 (R100). -/
abbrev Symbols := BitVec 5440
/-- A training burst: 4,096 symbols (R113). -/
abbrev Burst := BitVec 8192
/-- A 10-bit code group of a service lane; bit 0 is bit a, sent first (R119). -/
abbrev Code := BitVec 10

/-- A sparse table: key and value pairs, keys strictly rising, no entry equal to what an unlisted key reads as. -/
abbrev Tab (α : Type) := List (Nat × α)

end Sys2Proof
end

