-- ==== Sys2Proof/Syntax.lean ====
section
/-! DEFINITION. The commands of the block: one constructor per row of spec/opcode_table.json, with the row's operands. A command from a host names the host port it arrives on; a command that stands for the passing of time carries dt, the nanoseconds of local time that have passed since the command before it; a command that stands for something measured or received carries what was measured or received. -/
namespace Sys2Proof

/-- The two host ports (R381). -/
inductive HPort where
  | ha | hb
  deriving DecidableEq, Repr

/-- A fabric port P0 to P2047, named by its lowest lane. -/
abbrev Port := Fin 2048
/-- A fabric lane L0 to L2047. -/
abbrev LaneNo := Fin 2048

/-- A thread of a binding: the binding ID, the core within the cluster and the thread's index on that core (R282). -/
structure Th where
  bind : BitVec 12
  core : Fin 8
  th : Fin 16
  deriving DecidableEq, Repr

/-- A hardware error that comes with a packet: flipped bits of a table entry (R134), an error in an SRAM bank outside the tables, or one in an engine, corrected in its storage or by replaying a tile operation (R362). -/
inductive Upset where
  | entry (tbl : Nat) (bank : Bool) (index : Nat) (uncorrectable : Bool)
  | sram (bank : Fin 4096) (uncorrectable : Bool)
  | engine (e : Fin 1536) (replayed : Bool)
  deriving DecidableEq, Repr

/-- What a host port's link has trained to (R384): HST_PCIE's SPEED, WIDTH and FLIT. -/
structure PcieLink where
  speed : BitVec 4
  width : BitVec 3
  flit : Bool
  deriving DecidableEq, Repr

/-- A control lane of an optical engine: S(16+2e), or the second one S(17+2e) (R119). -/
structure EngLane where
  e : Fin 32
  second : Bool
  deriving DecidableEq, Repr

/-- A read of BAR0 (R387): 4 bytes of a register, or the aligned 8 bytes of a pair. -/
inductive BusRead where
  | word (off : BitVec 26)
  | pair (off : BitVec 26)
  deriving DecidableEq, Repr
def BusRead.off : BusRead → BitVec 26
  | .word off => off
  | .pair off => off

/-- The commands of the MS9, one per row of the command table, by family. Compiled Lean cannot build a constructor with operands past the first 244 of a type, so a few commands that scripts need least stand behind the families, and those without operands last: a script of any other commands can be compiled as well as proved about. A message on the debug lands (R452) is its characters in pieces, cut where the fields of its payload begin: what arrives is the pieces one after another, wherever the cuts fall. -/
inductive Instr where
  -- Device states (01_architecture.md)
  | quiesce (p : HPort)
  | resume (p : HPort)
  | clrmin (p : HPort)
  | tokrateUpdate (dt : Nat) (rates : List Half)
  -- Security (16_security.md)
  | keyLoad (p : HPort)
  | secverCommit (p : HPort)
  | dbgChallenge (p : HPort)
  | dbgUnlock (p : HPort)
  | dbgLock (p : HPort)
  | challengeExpire (dt : Nat)
  -- The plat (02_plat.md)
  | platLoad (p : HPort) (src : BitVec 2) (district : BitVec 4)
  | platAbort (p : HPort)
  | districtDrainDone (d : Fin 16)
  | replatApplyDone (d : Fin 16)
  | districtTrained (d : Fin 16)
  -- Module (18_module.md)
  | resetIn (lowNs : Nat)
  | sensorSample (dt : Nat) (tj : List Half) (inlet outlet : Half) (vin iin pin : Half) (vcore : List Half)
  | powerGovWithdraw (dt : Nat)
  | powerGovReturn (dt : Nat)
  | clrmax (p : HPort)
  | dbgEnChange (asserted : Bool)
  -- Switch core (06_switch_core.md)
  | packetIngress (port : Port) (bytes : List Byte) (upsets : List Upset)
  | ingressHoldRelease (port : Port) (tc : BitVec 3)
  | policerRelease (dt : Nat) (port : Port)
  | producerEnqueue (i : Nat)
  | replicationResume (i : Nat)
  | transmitOpportunity (dt : Nat) (port : Port)
  | windfallSweep (dt : Nat) (d : Fin 16)
  | sprayCounterRelease (dt : Nat) (d : Fin 16)
  | bucketReturn (dt : Nat) (bundle : Fin 2048) (k : Byte)
  | reorderTimeout (dt : Nat) (d : Fin 16)
  | reorderRetire (dt : Nat) (d : Fin 16)
  | sampleSweep (dt : Nat)
  | qmaxReset (p : HPort) (port : Port) (tc : BitVec 3)
  -- Cezal links (03_cezal_links.md)
  | frameSlot (dt : Nat) (port : Port)
  | linkFrameReceived (port : Port) (lane : Fin 8) (signal : Bool) (rx : Symbols)
  | replayTimeout (dt : Nat) (port : Port)
  | ackProgressTimeout (dt : Nat) (port : Port)
  | hello (port : Port) (lane : Fin 8) (rec : List Byte)
  | config (port : Port) (rec : List Byte)
  | creditInit (port : Port) (rec : List Byte)
  | trainingStateTimeout (dt : Nat) (port : Port)
  | retrainInterval (dt : Nat) (port : Port)
  | helloSend (dt : Nat) (port : Port)
  | laneCtlOff (port : Port) (idx : BitVec 3)
  | offAck (port : Port) (idx : BitVec 3)
  | laneCtlOn (port : Port) (idx : BitVec 3)
  | onAck (port : Port) (idx : BitVec 3)
  | laneCtlRepeat (dt : Nat) (port : Port)
  | laneCtlTimeout (dt : Nat) (port : Port)
  | lnkDisable (p : HPort) (port : Port) (v : Bool)
  | lnkRetrain (p : HPort) (port : Port)
  | skewWindowExpiry (dt : Nat) (port : Port)
  -- Lanes (04_lanes.md)
  | codewordReceived (lane : LaneNo) (signal : Bool) (rx : Symbols)
  | eqRequest (lane : LaneNo) (rx : Symbols)
  | eqTuneEnd (dt : Nat) (port : Port) (lane : Fin 8)
  | idleEnter (rx : LaneNo × Symbols)
  | idleRetainExpire (dt : Nat) (lane : LaneNo)
  | idleExit (port : Port) (lane : Fin 8)
  | recal (p : HPort) (lane : LaneNo)
  | recalPassEnd (dt : Nat) (lane : LaneNo)
  | eyeStart (p : HPort) (chip : Fin 8) (v : Word)
  | eyeAbort (p : HPort) (chip : Fin 8)
  | serviceAlign (s : Fin 80) (bits : List Bool)
  | serviceMessageDiscard (s : Fin 80) (codes : List Code)
  | timeMarker (s : Fin 80) (stamp : Nat)
  | calRead (p : HPort)
  | calWrite (p : HPort) (flashOk : Bool)
  -- Forwarding tables (05_forwarding.md)
  | fwdRead (p : HPort) (tbl : BitVec 4) (bank : Bool)
  | fwdWrite (p : HPort) (tbl : BitVec 4) (bank : Bool)
  | exInsert (p : HPort) (tbl : BitVec 4) (bank : Bool)
  | exDelete (p : HPort) (tbl : BitVec 4) (bank : Bool)
  | exLookup (p : HPort) (tbl : BitVec 4) (bank : Bool)
  | liveInsert (p : HPort)
  | cordonSet (p : HPort)
  | cordonClr (p : HPort)
  | repair (p : HPort) (tbl : BitVec 4) (bank : Bool)
  | flip (p : HPort)
  | confirm (p : HPort)
  | batch (p : HPort)
  | learnRelay (lane : Fin 2) (codes : List Code)
  -- Time base and timetables (07_time_and_timetables.md)
  | tod (lane : Fin 80) (codes : List Code)
  | ppsEdge (dt : Nat)
  | ppsMissing (dt : Nat)
  | todOut (dt : Nat)
  | sync (lane : Fin 2) (codes : List Code)
  | syncSend (dt : Nat)
  | delayReq (lane : Fin 2) (codes : List Code)
  | delayReqSend (dt : Nat) (lane : Fin 2)
  | delayResp (lane : Fin 2) (codes : List Code)
  | elect (lane : Fin 2) (codes : List Code)
  | electSend (dt : Nat)
  | electionWin (dt : Nat)
  | announce (lane : Fin 2) (codes : List Code)
  | announceSend (dt : Nat)
  | probe (lane : Fin 2) (codes : List Code)
  | probeSend (dt : Nat)
  | probeTimeout (dt : Nat)
  | leave (lane : Fin 2) (codes : List Code)
  | syncLossHoldover (dt : Nat)
  | syncLossReelect (dt : Nat)
  | holdoverLimit (dt : Nat)
  | stepAdmitRestore (dt : Nat)
  | tmbLoad (p : HPort)
  | arm (p : HPort) (sel : BitVec 4)
  | activate (p : HPort) (sel : BitVec 4)
  | disarm (p : HPort) (sel : BitVec 4)
  | timetableActivation (dt : Nat)
  | activationGraceEnd (dt : Nat)
  | mapIntervalClose (dt : Nat)
  -- Landings and fences (08_landings.md, 09_collectives_under_change.md)
  | install (p : HPort)
  | uninstall (p : HPort) (ctx : BitVec 18)
  | withdraw (p : HPort) (ctx : BitVec 18)
  | lndQuery (p : HPort) (ctx : BitVec 18)
  | lndTrigger (p : HPort) (ctx : BitVec 18)
  | landingDelivery (packet : List Byte) (port : Port)
  | releaseInstant (dt : Nat) (i : Nat)
  | landingTimeout (dt : Nat) (ctx : BitVec 18)
  | tombstoneExpire (dt : Nat) (ctx : BitVec 18)
  | eaExpire (dt : Nat)
  | fanoutCordonCheck (dt : Nat) (ctx : BitVec 18)
  | contextRestoreDone (ctx : BitVec 18)
  | fenceArm (p : HPort) (msi : Bool)
  | fenceDisarm (p : HPort)
  | fenceQuery (p : HPort)
  | setexp (p : HPort)
  | fenceTimeout (dt : Nat)
  -- The Mill (10_mill_arithmetic.md, 11_mill_programs.md)
  | cbRead (p : HPort) (idx : BitVec 12)
  | cbWrite (p : HPort) (idx : BitVec 12)
  | pgmLoad (p : HPort) (district : Fin 16) (slot : BitVec 9)
  | pgmUnload (p : HPort) (district : Fin 16) (slot : BitVec 9)
  | bind (p : HPort) (id : BitVec 12)
  | unbind (p : HPort) (id : BitVec 12)
  | rebind (p : HPort) (id : BitVec 12)
  | handoverComplete (id : BitVec 12)
  | bindQuery (p : HPort) (id : BitVec 12)
  | restart (p : HPort) (id : BitVec 12)
  | tfWrite (p : HPort) (idx : BitVec 12)
  | tfRead (p : HPort) (idx : BitVec 12)
  | yardFlush (p : HPort) (id : BitVec 12) (yard : BitVec 3)
  | millNop (t : Th)
  | millYield (t : Th)
  | millJmp (t : Th)
  | millBrz (t : Th)
  | millBrnz (t : Th)
  | millMovi (t : Th)
  | millAlu (t : Th)
  | millAlui (t : Th)
  | millLdx (t : Th)
  | millStx (t : Th)
  | millTld (t : Th)
  | millTst (t : Th)
  | millTzero (t : Th)
  | millTmma (t : Th)
  | millTadd (t : Th)
  | millTmul (t : Th)
  | millTscale (t : Th)
  | millTlut (t : Th)
  | millTcvt (t : Th)
  | millTred (t : Th)
  | millTq (t : Th)
  | millTdq (t : Th)
  | millSend (t : Th)
  | millSendt (t : Th)
  | millTrig (t : Th)
  | millDone (t : Th)
  | millBar (t : Th)
  | millStep (t : Th)
  | millYput (t : Th)
  | millYget (t : Th)
  | millYnext (t : Th)
  | millYflush (t : Th)
  | accessComplete (t : Th)
  | yardWaitEnd (t : Th)
  | sliceBoundary (dt : Nat)
  -- Memory-semantic traffic (12_memory_operations.md)
  | teardownStart (p : HPort) (job : BitVec 20)
  | teardownSweepEnd (dt : Nat)
  | teardownRelease (p : HPort) (job : BitVec 20)
  | teardownQuery (p : HPort) (job : BitVec 20)
  -- Optical engine control (13_optical.md)
  | engHello (lane : EngLane) (codes : List Code)
  | engineStatus (lane : EngLane) (codes : List Code)
  | engineAck (e : Fin 32) (second : Bool) (codes : List Code)
  | keepalive (dt : Nat)
  | engineCmdRetry (dt : Nat) (e : Fin 32)
  | engineLost (dt : Nat) (e : Fin 32)
  | dropRingRetry (dt : Nat) (path : Fin 2048)
  | mislock (dt : Nat) (path : Fin 2048) (drop : Bool) (seen : Half)
  | optCal (p : HPort) (path : Fin 2048)
  | optCalPassEnd (dt : Nat) (path : Fin 2048)
  | flySet (p : HPort) (num : Byte)
  | flyClear (p : HPort) (num : Byte)
  | flyoverCut (dt : Nat) (num : Byte)
  | flyOffAckDeadline (dt : Nat) (num : Byte)
  | flyVerify (dt : Nat) (num : Byte) (launchA launchB : Half)
  | flyOffInstant (dt : Nat) (num : Byte)
  | flySwitchTimeout (dt : Nat) (num : Byte)
  -- Leases, cordons, health and recovery (14_resilience.md)
  | leaseGrant (p : HPort)
  | leaseRenew (p : HPort)
  | leaseRelease (p : HPort)
  | leaseExpiry (dt : Nat)
  | partQuery (p : HPort) (kind : BitVec 2) (idx : BitVec 12)
  | partDrain (p : HPort) (kind : BitVec 2) (idx : BitVec 12)
  | partReturn (p : HPort) (kind : BitVec 2) (idx : BitVec 12)
  | partZero (p : HPort) (kind : BitVec 2) (idx : BitVec 12)
  | partTest (p : HPort) (kind : BitVec 2) (idx : BitVec 12)
  | partTestEnd (kind : BitVec 2) (idx : BitVec 12) (passed : Bool)
  | drainwaitRelease (kind : BitVec 2) (idx : BitVec 12)
  | cruiseSave (dt : Nat)
  | fullSelfTest (p : HPort)
  | selfTestEnd (failedEngines failedBanks : List Nat)
  | thermalGovWithdraw (dt : Nat) (d : Fin 16)
  | thermalGovReturn (dt : Nat) (d : Fin 16)
  | pull (p : HPort)
  | spareAbort (p : HPort)
  -- Host ports (15_host.md)
  | perst (p : HPort)
  | perstDeassert (p : HPort) (link : PcieLink) (mps mrrs : BitVec 3)
  | flr (p : HPort)
  | bar0BadAccess (p : HPort) (isWrite : Bool)
  | bar2Access (p : HPort) (off : BitVec 36) (len : Nat) (wdata : Option (List Byte))
  | registerWrite (p : HPort) (off : BitVec 26) (v : Word)
  | lowWordRead (p : HPort) (rd : BusRead)
  | claim (p : HPort)
  | hostRenew (p : HPort)
  | hostYield (p : HPort)
  | force (p : HPort) (nonce : Half)
  | hostLeaseLapse (dt : Nat)
  | dmaProd (p : HPort) (c : Fin 16) (idx : Half)
  | dmaDescriptorDone (p : HPort) (c : Fin 16) (desc : List Byte) (data : List Byte) (started : Nat) (hostErr : Bool)
  | dmaReset (p : HPort) (c : Fin 16)
  | msixHoldoffEnd (dt : Nat) (p : HPort) (src : Fin 32)
  | fwInfo (p : HPort)
  | flashRead (p : HPort)
  | platWrite (p : HPort) (flashOk : Bool)
  | setActive (p : HPort) (flashOk : Bool)
  | partialWrite (p : HPort) (flashOk : Bool)
  | fwWrite (p : HPort) (flashOk : Bool)
  | attest (p : HPort)
  -- Tally (17_tally.md)
  | tlySel (p : HPort) (ev : Word)
  | snapNow (p : HPort) (id : Half)
  | snapAt (p : HPort) (id : Half)
  | blockAt (p : HPort) (id : Half)
  | snapCancel (p : HPort) (id : Half)
  | blockSnap (lane : Fin 2) (codes : List Code)
  | snapshotInstant (dt : Nat)
  -- Debug lands, SMBus, the eye scan, tag records and twin messages (04, 14, 17, 18)
  | calCapture (p : HPort) (adapted : List (Nat × List Byte))
  | jrnl (lane : Fin 2) (codes : List Code)
  | jrnlAck (lane : Fin 2) (codes : List Code)
  | pullRequest (lane : Fin 2) (codes : List Code)
  | hdr (lane : Fin 2) (codes : List Code)
  | twinSnap (lane : Fin 2) (codes : List Code)
  | twinEnd (lane : Fin 2) (codes : List Code)
  | nack (lane : Fin 2) (codes : List Code)
  | mirrorAckSend (dt : Nat) (lane : Fin 2)
  | pullTimeout (dt : Nat)
  | regRead (seq off count : List Code)
  | memRead (seq space addr len : List Code)
  | memWrite (seq space addr data : List Code)
  | halt (seq action : List Code)
  | fwChunk (seq off data : List Code)
  | fwDone (seq len : List Code) (flashOk : Bool)
  | chalReq (codes : List Code)
  | unlock (seq resp : List Code)
  | lock (codes : List Code)
  | smbusBlockRead (cmd : Byte) (isWrite : Bool)
  | eyeScanDone (dt : Nat) (chip : Fin 8) (lane : Byte)
  | tagRecord (core : Fin 128) (rec : List Word)
  -- Commands without operands, of every family
  | trainingComplete
  | quiesceDrainDone
  | powerGood
  | meshEvent
  | supplyGlitch
  | bootPlatLoad
  | vinRise
  | vinLow
  | undervoltage
  | overvoltage
  | overcurrent
  | vinReturn
  | coolOkFall
  | coolOkRise
  | segmentDigest
  | ref10Loss
  | snapshotCopyDone
  deriving DecidableEq, Repr

end Sys2Proof
end

