-- ==== Sys2Proof/Machine/Bits.lean ====
section
/-! DEFINITION. Bit fields, byte order and checksums: what every block uses to read and lay out words, records and images. -/
namespace Sys2Proof.Machine
open Sys2Proof

/-! ### Bits of a natural number -/

/-- Field of `w` bits at bit `lo`. -/
def fld (n lo w : Nat) : Nat := n / 2 ^ lo % 2 ^ w
/-- Bit `i`. -/
def bitAt (n i : Nat) : Bool := n / 2 ^ i % 2 == 1
/-- `n` with its `w`-bit field at `lo` set to `v`. -/
def setFld (n lo w v : Nat) : Nat := n - fld n lo w * 2 ^ lo + v % 2 ^ w * 2 ^ lo
def b2n (b : Bool) : Nat := if b then 1 else 0
/-- How many of the low `w` bits are 1. -/
def popcount (n : Nat) : Nat → Nat
  | 0 => 0
  | w + 1 => b2n (bitAt n w) + popcount n w
/-- The value of `n` read as a `w`-bit two's-complement number. -/
def signed (w n : Nat) : Int :=
  let m := n % 2 ^ w
  if m < 2 ^ (w - 1) then (m : Int) else (m : Int) - ((2 ^ w : Nat) : Int)
/-- The `w`-bit two's-complement pattern of an integer. -/
def unsigned (w : Nat) (i : Int) : Nat := (i % ((2 ^ w : Nat) : Int)).toNat
/-- Sets, or clears, bit `i` of a bit vector. -/
def setBit {w : Nat} (v : BitVec w) (i : Nat) (b : Bool) : BitVec w :=
  if b then v ||| BitVec.ofNat w (2 ^ i) else v &&& ~~~BitVec.ofNat w (2 ^ i)
/-- Saturating at `m`. -/
def sat (m n : Nat) : Nat := if n ≤ m then n else m
def divUp (a b : Nat) : Nat := (a + b - 1) / b
/-- `n` rounded up to a multiple of `m`. -/
def alignUp (n m : Nat) : Nat := divUp n m * m
def isPow2 (n : Nat) : Bool := n != 0 && 2 ^ n.log2 == n

/-! ### Byte strings, little-endian (R456) -/

/-- The value of a byte string, least significant byte first. -/
def leNat : List Byte → Nat
  | [] => 0
  | b :: r => b.toNat + 256 * leNat r
/-- `k` bytes of `n`, least significant first. -/
def toLE : Nat → Nat → List Byte
  | 0, _ => []
  | k + 1, n => BitVec.ofNat 8 n :: toLE k (n / 256)
/-- `k` bytes of `n`, most significant first. -/
def toBE (k n : Nat) : List Byte := (toLE k n).reverse
def beNat (b : List Byte) : Nat := leNat b.reverse
/-- `n` bytes at `off`, zeros past the end. -/
def slice (b : List Byte) (off n : Nat) : List Byte :=
  let r := (b.drop off).take n
  r ++ List.replicate (n - r.length) 0
def leAt (b : List Byte) (off n : Nat) : Nat := leNat (slice b off n)
def u8At (b : List Byte) (off : Nat) : Nat := leAt b off 1
def u16At (b : List Byte) (off : Nat) : Nat := leAt b off 2
def u32At (b : List Byte) (off : Nat) : Nat := leAt b off 4
def u64At (b : List Byte) (off : Nat) : Nat := leAt b off 8
def zeros (n : Nat) : List Byte := List.replicate n 0
def allZero (b : List Byte) : Bool := b.all (· == 0)
/-- `b` with the bytes `v` laid over it at `off`. -/
def overlay (b : List Byte) (off : Nat) (v : List Byte) : List Byte :=
  b.take off ++ v ++ b.drop (off + v.length)
/-- `b` cut or filled with zeros to `n` bytes. -/
def fit (n : Nat) (b : List Byte) : List Byte := slice b 0 n
/-- The digest that 32 bytes spell (R456). -/
def digestOf (b : List Byte) : Digest := BitVec.ofNat 256 (leNat (b.take 32))
def digestBytes (d : Digest) : List Byte := toLE 32 d.toNat
/-- Cuts a byte string into pieces of `n` bytes; `fuel` bounds the pieces. -/
def chop (n : Nat) : Nat → List Byte → List (List Byte)
  | 0, _ => []
  | _, [] => []
  | fuel + 1, b => b.take n :: chop n fuel (b.drop n)
def chopAll (n : Nat) (b : List Byte) : List (List Byte) := chop n (b.length / n + 1) b
/-- The words of a byte string. -/
def wordsOf (b : List Byte) : List Word := (chopAll 4 b).map (fun w => BitVec.ofNat 32 (leNat w))
def bytesOfWords (l : List Word) : List Byte := l.flatMap (fun w => toLE 4 w.toNat)

/-! ### Checksums -/

/-- One bit step of a CRC of `w` bits, most significant bit first. -/
def crcBit (w poly crc : Nat) (b : Bool) : Nat :=
  let top := Nat.xor (crc / 2 ^ (w - 1)) (b2n b) % 2
  let sh := crc * 2 % 2 ^ w
  if top == 1 then Nat.xor sh poly else sh
/-- One byte, most significant bit first. -/
def crcByteM (w poly crc : Nat) (b : Nat) : Nat :=
  [7, 6, 5, 4, 3, 2, 1, 0].foldl (fun c i => crcBit w poly c (bitAt b i)) crc
/-- CRC over bytes, bits most significant first, no reflection. -/
def crcM (w poly init : Nat) (bs : List Byte) : Nat :=
  bs.foldl (fun c b => crcByteM w poly c b.toNat) init
/-- One step of a reflected CRC. -/
def crcStepR (poly c : Nat) : Nat := if c % 2 == 1 then Nat.xor (c / 2) poly else c / 2
/-- Reflected CRC over bytes (polynomial bit-reversed). -/
def crcR (poly init : Nat) (bs : List Byte) : Nat :=
  bs.foldl (fun c b => [0, 1, 2, 3, 4, 5, 6, 7].foldl (fun c _ => crcStepR poly c) (Nat.xor c b.toNat)) init
/-- The CRC-32 of IEEE 802.3 (R72), and CRC-32C (R78). -/
def crc32 (b : List Byte) : Nat := Nat.xor (crcR 0xEDB88320 0xFFFFFFFF b) 0xFFFFFFFF
def crc32c (b : List Byte) : Nat := Nat.xor (crcR 0x82F63B78 0xFFFFFFFF b) 0xFFFFFFFF

/-! ### Lists -/

/-- `l` with entry `i` replaced. -/
def setAt {α : Type} (l : List α) (i : Nat) (v : α) : List α := l.take i ++ v :: l.drop (i + 1)
/-- The numbers from `a`, `n` of them. -/
def rangeFrom (a n : Nat) : List Nat := (List.range n).map (· + a)
def maxOf (l : List Nat) : Nat := l.foldl max 0
def minOf (d : Nat) (l : List Nat) : Nat := l.foldl min d
def sumOf (l : List Nat) : Nat := l.foldl (· + ·) 0
/-- The first place of the list where `p` holds. -/
def findPos {α : Type} (p : α → Bool) : List α → Nat → Option Nat
  | [], _ => none
  | a :: r, i => if p a then some i else findPos p r (i + 1)

end Sys2Proof.Machine
end

