-- ==== Sys2Proof/Machine/EightB.lean ====
section
/-! DEFINITION. The 8b/10b code of the service lanes (R119, R120) and the framing of their messages (R122), as functions of characters. The code tables are those of IEEE 802.3 Clause 36, which the spec names and does not print: PRESUMED (log entry 87). -/
namespace Sys2Proof.Machine
open Sys2Proof

/-! ### Code groups -/

/-- A character: a K-code or a data byte. -/
structure Char10 where
  k : Bool
  byte : Byte
  deriving DecidableEq, Repr
def Char10.comma : Char10 := ⟨true, 0xBC⟩
def Char10.marker : Char10 := ⟨true, 0x3C⟩
def Char10.start : Char10 := ⟨true, 0xFB⟩
def Char10.stop : Char10 := ⟨true, 0xFD⟩
def Char10.abort : Char10 := ⟨true, 0xFE⟩
/-- D16.2, the second character of the idle ordered set. -/
def Char10.idle2 : Char10 := ⟨false, 0x50⟩

/-- The six-bit groups of 0 to 31 at negative running disparity, bit a lowest. -/
def sixTable : List Nat :=
  [57, 46, 45, 35, 43, 37, 38, 7, 39, 41, 42, 11, 44, 13, 14, 58]
    ++ [54, 49, 50, 19, 52, 21, 22, 23, 51, 25, 26, 27, 28, 29, 30, 53]
/-- The four-bit groups of data at negative running disparity, bit f lowest. -/
def fourTable : List Nat := [13, 9, 10, 3, 11, 5, 6, 7]
/-- The four-bit groups of K-codes at negative running disparity. -/
def fourKTable : List Nat := [13, 6, 5, 3, 11, 10, 9, 14]
/-- A group of unequal ones and zeros is complemented at positive disparity; `also` names the balanced groups that are too. -/
def turned (w g : Nat) (also plus : Bool) : Nat :=
  if plus && (also || 2 * popcount g w != w) then 2 ^ w - 1 - g else g
/-- The running disparity after a group (true = positive): its excess, or for 000111, 111000, 0011 and 1100 their form. -/
def rdAfter (w g : Nat) (plus : Bool) : Bool :=
  if w == 6 && g == 56 || w == 4 && g == 12 then true
  else if w == 6 && g == 7 || w == 4 && g == 3 then false
  else if 2 * popcount g w == w then plus else decide (w < 2 * popcount g w)
/-- The six bits of a character. D7 has two balanced forms. -/
def sixOf (k : Bool) (x : Nat) (plus : Bool) : Nat :=
  if k && x == 28 then turned 6 60 false plus else turned 6 (sixTable.getD x 0) (x == 7) plus
/-- Data with y = 7 takes the alternate group where the primary one would make a run of five. -/
def useA7 (x : Nat) (plus : Bool) : Bool :=
  if plus then x == 11 || x == 13 || x == 14 else x == 17 || x == 18 || x == 20
/-- The four bits of a character at the disparity that its six bits leave. D x.3 and every balanced K group have two forms. -/
def fourOf (k : Bool) (x y : Nat) (plus : Bool) : Nat :=
  if k then turned 4 (fourKTable.getD y 0) true plus
  else if y == 7 && useA7 x plus then turned 4 14 false plus
  else turned 4 (fourTable.getD y 0) (y == 3) plus
/-- Encodes a character at a running disparity. -/
def encode10 (plus : Bool) (c : Char10) : Code × Bool :=
  let x := c.byte.toNat % 32
  let y := c.byte.toNat / 32
  let six := sixOf c.k x plus
  let mid := rdAfter 6 six plus
  let four := fourOf c.k x y mid
  (BitVec.ofNat 10 (six + 64 * four), rdAfter 4 four mid)
/-- The K-codes beside K28.0 to K28.7 are K23.7, K27.7, K29.7 and K30.7. -/
def isK7 (x : Nat) : Bool := x == 23 || x == 27 || x == 29 || x == 30
/-- Decodes a code group at a running disparity; none = a code or running-disparity violation (R121). -/
def decode10 (plus : Bool) (g : Code) : Option Char10 :=
  let six := g.toNat % 64
  let four := g.toNat / 64
  let mid := rdAfter 6 six plus
  let char := fun (k : Bool) (x y : Nat) => some (⟨k, BitVec.ofNat 8 (x + 32 * y)⟩ : Char10)
  if six == sixOf true 28 plus then
    match findPos (fun y => four == fourOf true 28 y mid) (List.range 8) 0 with
    | some y => char true 28 y
    | none => none
  else
    match findPos (fun x => six == sixOf false x plus) (List.range 32) 0 with
    | none => none
    | some x =>
      match findPos (fun y => four == fourOf false x y mid) (List.range 8) 0 with
      | some y => char false x y
      | none => if isK7 x && four == fourOf true x 7 mid then char true x 7 else none
/-- The running disparity after any group, valid or not: that of its two parts. -/
def rdAfter10 (plus : Bool) (g : Code) : Bool := rdAfter 4 (g.toNat / 64) (rdAfter 6 (g.toNat % 64) plus)

/-! ### Strings of characters -/

def encodeAll : Bool → List Char10 → List Code × Bool
  | plus, [] => ([], plus)
  | plus, c :: r =>
    let (g, plus) := encode10 plus c
    let (gs, plus) := encodeAll plus r
    (g :: gs, plus)
def decodeAll : Bool → List Code → List (Option Char10) × Bool
  | plus, [] => ([], plus)
  | plus, g :: r =>
    let c := decode10 plus g
    let (cs, plus) := decodeAll (rdAfter10 plus g) r
    (c :: cs, plus)
/-- The idle ordered set (R120), as often as R121 asks between messages. -/
def idlePair : List Char10 := [.comma, .idle2, .comma, .idle2]

/-! ### Messages (R122) -/

/-- Why a message is discarded (R122, R124). -/
inductive SvcDiscard where
  | badChar | kcode | noEnd | crc | abort | reservedType
  deriving DecidableEq, Repr
/-- A message received whole. -/
structure SvcMsg where
  type : Byte
  seq : Byte
  payload : List Byte
  deriving DecidableEq, Repr
/-- The characters of a message. -/
def framed (type seq : Byte) (payload : List Byte) : List Char10 :=
  let b := [type, seq] ++ toLE 2 payload.length ++ payload
  .start :: (b ++ toLE 4 (crc32c b)).map (⟨false, ·⟩) ++ [.stop]
/-- The same with K28.1 behind its K27.7 where it is marked (R123). -/
def msgChars (type seq : Byte) (payload : List Byte) (marked : Bool) : List Char10 :=
  if marked then .start :: .marker :: (framed type seq payload).drop 1 else framed type seq payload
/-- What a lane carries: the users of 0x01 to 0x6F on S0 to S15 (R124), the listed TYPEs on the engines' lanes (R329); 80 stands for the debug lands (R452). -/
def typeOnLane (lane : Nat) (t : Byte) : Bool :=
  if lane < 16 then decide (1 ≤ t.toNat) && decide (t.toNat ≤ 0x6F)
  else if lane < 80 then decide (0x80 ≤ t.toNat) && decide (t.toNat ≤ 0x86) || t == 0x8F
  else decide (0xC0 ≤ t.toNat) && decide (t.toNat ≤ 0xCC)
/-- What characters amount to: no message, one to discard, or one whole. -/
inductive MsgRx where
  | nothing
  | bad (why : SvcDiscard)
  | ok (m : SvcMsg)
  deriving DecidableEq, Repr
/-- The message that characters spell from K27.7 to its end, or the first reason in R122's order why it is discarded. K28.1 is no part of it (R123), and what comes before K27.7 or after its end is none. -/
def parseMsg (lane : Nat) (l : List (Option Char10)) : MsgRx :=
  match l.dropWhile (fun c => c != some .start) with
  | [] => .nothing
  | _ :: l =>
    let l := l.filter (fun c => c != some .marker)
    let b := (l.takeWhile (fun c => match c with | some c => !c.k | none => false)).filterMap (fun c => c.map (·.byte))
    let len := u16At b 2
    match l.drop b.length with
    | [] => .bad .noEnd
    | none :: _ => .bad .badChar
    | some e :: _ =>
      if e == .abort then .bad .abort
      else if e != .stop then .bad .kcode
      else if b.length < 8 || 2048 < len || b.length != 8 + len then .bad .noEnd
      else if u32At b (4 + len) != crc32c (b.take (4 + len)) then .bad .crc
      else
        let m : SvcMsg := ⟨BitVec.ofNat 8 (u8At b 0), BitVec.ofNat 8 (u8At b 1), slice b 4 len⟩
        if typeOnLane lane m.type then .ok m else .bad .reservedType

end Sys2Proof.Machine
end

