-- ==== Sys2Proof/Config.lean ====
section
/-! DEFINITION. What an implementation fixes and the spec does not state: free values, with no body, so that no proof can see what they are, and the functions of the national standards that the spec names without writing them out. Each has a row in notes/assumptions. -/
namespace Sys2Proof.Config

/-- A fresh free value, by the model's own counter `State.fresh`: a NONCE (R391), an LFSR step (R432), a result the spec does not state. -/
opaque freeWord : Nat → DWord
/-- The 32 random bytes of a debug challenge (R416), by the counter. -/
opaque challenge : Nat → Digest

/-- SM3 (R400). -/
opaque sm3 : List Byte → Digest
/-- SM2 verification under a public key (x, y) of a digest (R400). -/
opaque sm2Verify : BitVec 512 → Digest → BitVec 512 → Bool
/-- SM2 signature with the identity key IK of a module (R408), by DEVID. -/
opaque sm2Sign : DWord → Digest → BitVec 512
/-- SM2 decryption with the encryption key EK of a module (R411): C1 || C3 || C2 to the 16-byte key. -/
opaque sm2Decrypt : DWord → List Byte → Option (BitVec 128)
/-- SM4-GCM opening (R40): key, IV, additional data, ciphertext, tag. -/
opaque sm4GcmOpen : BitVec 128 → List Byte → List Byte → List Byte → List Byte → Option (List Byte)
/-- The vendor root public key in ROM (R400). -/
opaque rootKey : BitVec 512
/-- SM3 over the boot ROM (R404). -/
opaque romDigest : Digest
/-- The public half of EK, and the device CA and IDENTITY certificates of a module (R408, R409), by DEVID. -/
opaque ekPub : DWord → BitVec 512
opaque idChain : DWord → BitVec 2560
/-- The revocation list of a firmware image, by its DIGEST (R402). -/
opaque revoked : Digest → DWord → Bool
/-- PLT_FMTCAP.MINMAX of a firmware image (R62). -/
opaque fmtMinMax : Digest → Half
/-- TLY_CATID of a firmware image, the counters of further families in its catalogue, how many of those lie below an event number, and which event number the model's own further family and index has (R422, R424). -/
opaque catId : Digest → Word
opaque moreCounters : Digest → Word
opaque moreBelow : Digest → Word → Nat
opaque moreNumber : Digest → Nat → Option Word
opaque moreFamily : Digest → Word → Option Nat

/-- Which of the unused slots of a bank of EXACT a new EID takes, by the slots in use (R140): the hash and the probe order are not specified. -/
opaque exactSlot : Bool → Word → List Nat → Nat
/-- The SRAM bank that holds a table entry (R134): table ID, bank, index. -/
opaque tableBank : Nat → Bool → Nat → BitVec 12
/-- The partition that a 1 MiB SRAM bank serves (RES_PART_INFO.PART) and its district: not stated. -/
opaque bankPart : Nat → BitVec 3
opaque bankDistrict : Nat → BitVec 4
/-- What an unwritten byte of management-core memory (false) or Hub SRAM (true) reads as (R452). -/
opaque debugByte : Bool → Nat → Byte

/-- LBIAS and LTUNE that an engine takes by itself (R332). -/
opaque engLbias : Nat → Half
opaque engLtune : Nat → Half
/-- The filter over the last 64 SYNC offsets (R193), offsets in 2^-16 ns, newest first. -/
opaque offsetFilter : List Int → Int
/-- The drawing rule of a share table (R306): which engines the entries left over by rounding go to, and the order of the 64 entries, are not stated. Engines in service, operations, draw. -/
opaque shareEntry : List Nat → List Nat → Nat → Nat
/-- The lookup table's value where R286 states none (HI at or below LO, a bound or an entry that is no finite number), as FP32 bits. -/
opaque lutCorner : BitVec 32 → BitVec 32 → BitVec 32 → BitVec 32

/-- The number that a raw byte (FMT 0x00) stands for where arithmetic reads it, as an FP32 pattern, and the raw byte that a number becomes: a finite one (0: sign, m, e of m x 2^e), an infinity (1), a NaN (2). Not stated (R265). -/
opaque rawValue : Byte → BitVec 32
opaque rawByte : Nat → Bool → Nat → Int → Byte
/-- The class of an ACK stage's packet, and its FIRST flag (R211): not stated. -/
opaque ackClass : BitVec 3
opaque ackFirst : Bool

/-- The DEVID of a ring neighbour (true = EAST) of the device with a DEVID: how a device learns it is not stated (R372). -/
opaque neighbour : DWord → Bool → DWord
/-- The PLT_ACTIVE of the device whose mirror a holder keeps, by its DEVID: how the holder learns it is not stated (R372). -/
opaque mirrorDigest : DWord → Digest
/-- The bytes of the flash's active-slot record, by the slot it names and the offset; and what a byte of a flash region that nothing has written reads as, by region and offset: neither is stated (R396). -/
opaque activeRecord : Bool → Nat → Byte
opaque flashByte : Nat → Nat → Byte

end Sys2Proof.Config
end

