-- ==== Sys2Proof/Machine/State.lean ====
section
/-! DEFINITION. The state of the MS9 as plain data: one structure per block of the BAR0 map (R386), the state the module keeps through a reset, the outbox of what the block has sent, and the queue of waiting commands. Fault, Refusal and State.reset stand at the end. -/
namespace Sys2Proof.Machine
open Sys2Proof

/-! ### GLB, 01_architecture.md -/

/-- GLB_STATE.STATE (R21). -/
inductive DevState where
  | reset | boot | unplatted | training | ready | inService | quiesced | cordoned
  deriving DecidableEq, Repr

/-- GLB: identity, versions, global status. -/
structure Glb where
  /-- GLB_STATE.STATE (R21) -/
  state : DevState
  /-- GLB_STATE.REQERR (R21) -/
  reqErr : Bool
  /-- a QUIESCE drain is in progress (R24) -/
  draining : Bool
  /-- GLB_TOKRATE.MIN and NOW (R19) -/
  tokMin : Half
  tokNow : Half
  /-- GLB_DTOKn.MIN and NOW, n = 0 to 15 (R20) -/
  dtokMin : Tab Half
  dtokNow : Tab Half
  deriving DecidableEq, Repr

/-! ### PLT and the structure in force, 02_plat.md -/

/-- GLB_DISTRICTn.STATE (R26). -/
inductive DistState where
  | inService | draining | replat | test | off
  deriving DecidableEq, Repr

/-- A district's partition record, in MiB (R44). -/
structure DistPart where
  obuf : Half
  land : Half
  scratch : Half
  yard : Half
  deriving DecidableEq, Repr

/-- A class record (R47). -/
structure ClassRec where
  age : Half
  limit : Half
  weight : Byte
  deriving DecidableEq, Repr

/-- A district's MILL record (R52). -/
structure MillRec where
  cores : Byte
  fin : Byte
  tf : Byte
  slots : Half
  deriving DecidableEq, Repr

/-- An OPTICS lane entry (R53). -/
structure OptLane where
  oe : BitVec 5
  fibre : BitVec 3
  lambda : BitVec 3
  pilot : BitVec 5
  txId : Half
  elec : Bool
  fly : Bool
  rxId : Half
  deriving DecidableEq, Repr

/-- An OPTICS engine record (R53). -/
structure OptEng where
  present : Bool
  hgain : Byte
  lgain : Byte
  deriving DecidableEq, Repr

/-- TIME (R50). -/
structure TimeSec where
  source : Byte
  role : Byte
  priority : Byte
  todLane : Byte
  blockId : Half
  east : Byte
  west : Byte
  tol : Half
  rttMax : Half
  toutLane : Byte
  deriving DecidableEq, Repr

/-- RESILIENCE (R55): thresholds for lanes, engines, SRAM banks and wavelengths. -/
structure ResSec where
  watchL : Half
  drainL : Half
  watchE : Half
  drainE : Half
  watchB : Half
  drainB : Half
  watchW : Half
  drainW : Half
  twin : Byte
  deriving DecidableEq, Repr

/-- ALARM (R56): level of mesh, glitch, temperature, signatures, debug. -/
structure AlarmSec where
  mesh : Byte
  glitch : Byte
  temp : Byte
  sign : Byte
  debug : Byte
  signN : Byte
  dbgN : Byte
  deriving DecidableEq, Repr

/-- The structure a plat lays out (R41). -/
structure Plat where
  /-- PORTS: the 32-bit entry of each lane (R42) -/
  ports : Tab Word
  /-- PARTITION device record: EAP and SHARE[1..6]; then the district records (R44) -/
  eap : Half
  share : List Byte
  part : Tab DistPart
  /-- CLASSES (R47) -/
  ushare : Byte
  overhead : Byte
  cls : Tab ClassRec
  /-- TABLES (R49) -/
  learn : Byte
  bank : Byte
  cmpPeriod : Half
  learnRate : Word
  time : TimeSec
  mill : Tab MillRec
  opt : Tab OptLane
  eng : Tab OptEng
  res : ResSec
  alarm : AlarmSec
  deriving DecidableEq, Repr

/-- PLT: the plat loader. -/
structure Plt where
  /-- PLT_STATUS -/
  skipped : Byte
  code : Byte
  sect : BitVec 4
  reject : Bool
  busy : Bool
  errOff : Word
  /-- PLT_CTRL.DISTRICT and SRC -/
  ctrlDistrict : BitVec 4
  ctrlSrc : BitVec 2
  /-- PLT_STAGE, PLT_STAGE_LEN -/
  stage : DWord
  stageLen : Word
  /-- the active full plat: DIGEST, GENERATION, whether it is sealed and under which slot -/
  active : Option Digest
  gen : DWord
  sealed : Option Bool
  /-- PLT_BOOT -/
  fallback : Bool
  bootSlot : BitVec 2
  /-- PLT_DDIGESTn and PLT_DGENn of the partial plat governing a district -/
  ddigest : Tab Digest
  dgen : Tab DWord
  /-- GLB_DISTRICTn.STATE -/
  dist : Tab DistState
  /-- the structure in force -/
  plat : Plat
  /-- the district re-plat in progress: its district and the validated container in clear (R63) -/
  op : Option (Nat × List Byte)
  /-- the local instant at which the last full background-compare pass ended (R157) -/
  lastPass : Nat
  deriving DecidableEq, Repr

/-! ### HST, 15_host.md -/

/-- HST_DMAc_STAT.STATE (R398). -/
inductive DmaState where
  | idle | running | stopped
  deriving DecidableEq, Repr

/-- One DMA channel (R393, R398). -/
structure DmaCh where
  ring : DWord
  enable : Bool
  log2 : BitVec 5
  prod : Half
  cons : Half
  st : DmaState
  err : Byte
  done : Bool
  deriving DecidableEq, Repr

/-- HST_IRQ_MAPs (R395), with the holdoff in progress. -/
structure IrqMap where
  en : Bool
  holdoff : Byte
  vector : BitVec 11
  /-- the local instant at which the holdoff in progress ends -/
  holdEnd : Nat
  /-- the source fired during the holdoff -/
  fired : Bool
  deriving DecidableEq, Repr

/-- One MSI-X table entry, laid out as the PCI Express specification gives (R394). -/
structure MsixEntry where
  addr : DWord
  data : Word
  masked : Bool
  deriving DecidableEq, Repr

/-- The capabilities of a host port's function (R382). -/
inductive PciCap where
  | pciExpress | msix | aer | dataLinkFeature | phys16 | phys32 | phys64 | flr
  deriving DecidableEq, Repr

/-- What a host port answers to configuration requests (R382, R385): identity, BARs as log2 of their size with prefetchable or not, tag width, capabilities; and the limits that the host sets, 128 x 2^mps bytes of payload and 128 x 2^mrrs of read request. -/
structure PciCfg where
  vendor : Half
  device : Half
  revision : Byte
  classCode : BitVec 24
  bars : List (Nat × Bool)
  tagBits : Nat
  caps : List PciCap
  mps : BitVec 3
  mrrs : BitVec 3
  deriving DecidableEq, Repr

def PciCfg.reset : PciCfg :=
  ⟨0x1EA7, 0x0309, 0xA1, 0x0B4000, [(26, false), (36, true), (20, false)], 10,
   [.pciExpress, .msix, .aer, .dataLinkFeature, .phys16, .phys32, .phys64, .flr], 0, 2⟩

/-- The per-port registers of one host port (R384, R398). -/
structure HostPort where
  /-- HST_WIN.GIB -/
  win : Byte
  /-- HST_PCIE -/
  speed : BitVec 4
  width : BitVec 3
  flit : Bool
  /-- HST_OWN.DENIED of this port -/
  denied : Bool
  /-- HST_TAKE_STAT -/
  nonce : Half
  takeStatus : Byte
  /-- HST_IRQ_MAPs, s = 0 to 31 -/
  irq : Tab IrqMap
  /-- the MSI-X table and its pending bits -/
  msix : Tab MsixEntry
  pba : Tab Bool
  /-- the 16 DMA channels -/
  dma : Tab DmaCh
  /-- PERST# is asserted -/
  perst : Bool
  /-- the function's configuration space -/
  cfg : PciCfg
  /-- latched high words, by offset of the low word (R6); key 1 holds the fraction latched with TMB_NOW (R188) -/
  rdLatch : Tab Word
  /-- held low words, by offset (R7) -/
  wrLatch : Tab (Option Word)
  deriving DecidableEq, Repr

/-- A pending claim (R391): its nonce and the local instant of the CLAIM. -/
structure Claim where
  port : HPort
  nonce : Half
  since : Nat
  deriving DecidableEq, Repr

/-- HST: the two host ports, the host lease and the mailbox. -/
structure Hst where
  ha : HostPort
  hb : HostPort
  /-- HST_OWN.OWNER -/
  owner : Option HPort
  /-- the local instant at which the host lease ends -/
  leaseEnd : Nat
  /-- HST_OWN.PEND and what the pending claim holds -/
  pend : Option Claim
  /-- HST_MB_ARG0-3, HST_MB_BUF, HST_MB_OUT, HST_MB_STAT -/
  arg0 : Word
  arg1 : Word
  arg2 : Word
  arg3 : Word
  mbBuf : DWord
  mbOut : Word
  mbResult : Byte
  mbReject : Bool
  mbBusy : Bool
  deriving DecidableEq, Repr

/-! ### SEC and the state that a reset keeps, 16_security.md -/

/-- SEC: security. -/
structure Sec where
  /-- SEC_STATUS.SECVER, DBG, KEYLOCK, BOOTSLOT -/
  secver : Byte
  dbg : BitVec 2
  keylock : Bool
  bootSlot : Bool
  /-- SEC_CSTAT -/
  status : Byte
  reject : Bool
  busy : Bool
  /-- SEC_ADDR -/
  addr : DWord
  /-- SEC_ALARM -/
  alarmLast : BitVec 2
  alarmSensor : BitVec 5
  /-- SEC_ACNT -/
  a0 : Half
  a1 : Half
  /-- SEC_FAILS -/
  failsDbg : BitVec 4
  failsSig : BitVec 4
  /-- the valid challenge and the local instant at which it was issued (R416) -/
  chal : Option (Digest × Nat)
  /-- SEC_FWVER and the DIGEST of the running firmware image -/
  fwver : Word
  fwDigest : Digest
  /-- SEC_MEASm: M0 to M7 -/
  meas : Tab Digest
  /-- debug unlocked since reset (R409 FLAGS bit 0) -/
  dbgSince : Bool
  deriving DecidableEq, Repr

/-- One plat-key slot of the key store (R411): the key where present, and KEYGEN. -/
structure KeySlot where
  key : Option (BitVec 128)
  keygen : Word
  deriving DecidableEq, Repr

/-- What the module keeps through a reset: fuses, key store, latches and flash (R11, R388, R396, R403, R407, R408, R411). -/
structure Nv where
  /-- GLB_ID.MEMCFG: true = 128 GB (R1) -/
  mem128 : Bool
  /-- the fused DEVID (R408) -/
  devid : DWord
  /-- SEC_STATUS.FUSEVER, 0 to 64 (R407) -/
  fusever : Byte
  /-- IK and EK are erased (R415); GLB_STATE.KEYS -/
  erased : Bool
  /-- an erasure was interrupted by a power loss (R415) -/
  erasing : Bool
  key0 : KeySlot
  key1 : KeySlot
  /-- the storage-temperature latch (R413) -/
  tempLatch : Bool
  /-- firmware slots 0 and 1, and the slot to try first (R403) -/
  fw0 : List Byte
  fw1 : List Byte
  fwFirst : Bool
  /-- plat slots 0 and 1, the active-slot record, partial-plat entries by district (R59, R396) -/
  plat0 : List Byte
  plat1 : List Byte
  active : Bool
  partials : Tab (List Byte)
  /-- the calibration store (R125) -/
  cal : List Byte
  /-- penalties and replaced SRAM banks as last saved (R365): part to penalty, and banks replaced -/
  savedPen : Tab Nat
  savedBanks : Tab Bool
  deriving DecidableEq, Repr

/-! ### TLY, 17_tally.md -/

/-- A pending snapshot (R427, R430). -/
structure Snap where
  id : Half
  /-- TREQ: the requested instant, 0 for NOW -/
  treq : DWord
  /-- the instant at which it is due -/
  due : DWord
  timed : Bool
  block : Bool
  late : Bool
  merged : Bool
  deriving DecidableEq, Repr

/-- The frozen copy and the image under way (R426, R428). -/
structure SnapImage where
  snap : Snap
  tact : DWord
  stepped : Bool
  lock : BitVec 2
  frozen : Tab DWord
  frozenX : Tab DWord
  deriving DecidableEq, Repr

/-- TLY: Tally. -/
structure Tly where
  /-- the counters of the families of R423 and R424, by event number (R421) -/
  ctr : Tab DWord
  /-- the counters of families that R423 and R424 do not list, by the model's family and index (R424) -/
  ctrX : Tab DWord
  sel : Word
  selValid : Bool
  selIndex : BitVec 20
  at_ : DWord
  imgBase : DWord
  tagBase : DWord
  status : Byte
  reject : Bool
  busy : Bool
  imgSize : Byte
  imgHead : Byte
  imgTail : Byte
  tagEnable : Bool
  tagShift : BitVec 5
  tagDmask : Half
  tagSize : BitVec 20
  tagHead : BitVec 20
  tagTail : BitVec 20
  /-- TLY_EVENT -/
  evTagLost : Bool
  evSnapSkip : Bool
  evSnapDone : Bool
  /-- pending snapshots, oldest request first; at most 8 timed -/
  pend : List Snap
  /-- the copy-out in progress -/
  copying : Option SnapImage
  /-- images written since reset -/
  seq : Word
  /-- the 16-bit tag LFSR of each core (R432) -/
  lfsr : Tab Half
  /-- engine tokens of operations that have ended and are counted, but whose time has not all passed, by engine (R431) -/
  slots : Tab Nat
  /-- SNAPID and instant of the Block snapshot taken or skipped last (R430) -/
  lastSnap : Option (Half × DWord)
  deriving DecidableEq, Repr

/-! ### PWR and the lands, 18_module.md -/

/-- The input stage (R436). -/
inductive Supply where
  | off          -- VIN absent or not yet risen above 39 V
  | on
  | overvolt     -- input stage off until VIN returns to 60 V or below
  | overcurrent  -- off until VIN falls below 30 V and rises again
  deriving DecidableEq, Repr

/-- The trip latch (R444). -/
inductive Trip where
  | none
  | hot     -- tripped, some sensor still above 95 C
  | cooled  -- every sensor has read 95 C or below since the trip
  | cycled  -- VIN then fell below 30 V: the start waits until no sensor reads above 95 C
  deriving DecidableEq, Repr

/-- PWR_SENSn (R455). -/
structure Sens where
  /-- TRIM, and the trim itself in 1/16 C -/
  trim : Bool
  trimBy : Half
  tj : Half
  deriving DecidableEq, Repr

/-- PWR: power and thermal, and the sideband lands. -/
structure Pwr where
  /-- PWR_STATUS -/
  pgov : Bool
  plevel : BitVec 4
  vinlow : Bool
  /-- land levels: COOL_OK, DBG_EN# asserted -/
  coolOk : Bool
  dbgEn : Bool
  /-- PWR_VIN, PWR_PIN, PWR_TCOOL, PWR_TJMAX -/
  iin : Half
  vin : Half
  pinMax : Half
  pinNow : Half
  outlet : Half
  inlet : Half
  tjSensor : BitVec 6
  tjMax : Half
  /-- PWR_LASTRST.CAUSE -/
  cause : BitVec 4
  /-- PWR_EVENT: 5 COOLOK, 4 DELTA, 3 INLET, 2 VINLOW, 1 PGOV, 0 THERM -/
  event : BitVec 6
  sens : Tab Sens
  vcore : Tab Half
  /-- driven lands: PGOOD high, THERMTRIP# asserted, FAULT# asserted -/
  pgood : Bool
  thermtrip : Bool
  faultLand : Bool
  supply : Supply
  trip : Trip
  /-- VIN has been below 30 V since the last power-up began (R449) -/
  vinLost : Bool
  /-- the local instant since which the inlet reads above 40 C, and since which the outlet exceeds it by more than 15 K -/
  inletSince : Option Nat
  deltaSince : Option Nat
  /-- the local instant of the power governor's last step -/
  govLast : Nat
  /-- the management cores are halted (R452 HALT) -/
  halted : Bool
  /-- bytes written over the debug lands: management-core memory, Hub SRAM, and the recovery image -/
  mgmtMem : Tab (Option Byte)
  hubSram : Tab (Option Byte)
  recImage : Tab Byte
  /-- running disparity on the debug lands, received and sent (R452) -/
  dbgRd : Bool
  dbgTxRd : Bool
  deriving DecidableEq, Repr

/-! ### Packets, 03_cezal_links.md -/

/-- A Cezal 3 header (R68): words 0 to 6 as they stand, and WEIGHT. HCRC is computed when the packet is sent. -/
structure Hdr where
  w0 : Word
  w1 : Word
  w2 : Word
  w3 : Word
  w4 : Word
  w5 : Word
  w6 : Word
  weight : Half
  deriving DecidableEq, Repr

/-- A packet inside the MS9. -/
structure Pkt where
  h : Hdr
  payload : List Byte
  /-- the arrival stamp in time-base ns (R27); for a packet the MS9 originates, the enqueue instant -/
  tin : Nat
  /-- the ingress port, or 2,048 + district for a packet the MS9 originates (R421, Ingress) -/
  inPort : Nat
  /-- the packet came from a Cezal 2 port (R94) -/
  c2 : Bool
  /-- the packet counts in FWD_ECNT (R150) -/
  counted : Bool
  /-- the packet still holds the credits of its ingress stage (R86) -/
  cred : Bool := false
  /-- the Mill thread that its SEND or SENDT keeps SWITCHED until a queue takes it: binding x 128 + core x 16 + thread -/
  thread : Option Nat := none
  /-- a result of a Landing (R227): its context, and the chunk's position in the window; 4,096 for an ACK -/
  result : Option (Nat × Nat) := none
  /-- the output of a transform flow (R299): the district of its binding, from which it crosses to egress -/
  flow : Option Nat := none
  /-- one of several copies of a fence marker toward a bundle (R249): which marker -/
  marker : Option Nat := none
  deriving DecidableEq, Repr

/-! ### FWD, 05_forwarding.md -/

/-- FWD_EPOCH.STATE_A and STATE_B (R148). -/
inductive BankState where
  | free | live | draining
  deriving DecidableEq, Repr

/-- An EXACT entry (R140); the key is the EID. -/
structure ExactEnt where
  cordon : Bool
  route : Bool
  nhtype : BitVec 2
  next : BitVec 11
  tag : Word
  /-- the slot that the MS9 chose (R140) -/
  slot : BitVec 22
  deriving DecidableEq, Repr

/-- An entry of two words (TRIE, ROUTE, REPL). -/
structure Ent2 where
  w0 : Word
  w1 : Word
  deriving DecidableEq, Repr

/-- A GROUP entry (R145). -/
structure GroupEnt where
  w0 : Word
  w1 : Word
  w2 : Word
  short : Word
  deriving DecidableEq, Repr

/-- A JOB entry (R144). -/
structure JobEnt where
  valid : Bool
  teardown : Bool
  tflow : Bool
  eaq : Half
  tag : Word
  deriving DecidableEq, Repr

/-- The tables that exist once in each bank (R135). -/
structure Bank where
  trie1 : Tab Ent2
  trie2 : Tab Ent2
  trie3 : Tab Ent2
  trie4 : Tab Ent2
  trie5 : Tab Ent2
  route : Tab Ent2
  exact : Tab (Option ExactEnt)
  deriving DecidableEq, Repr

/-- FWD: forwarding. -/
structure Fwd where
  bankA : Bank
  bankB : Bank
  group : Tab GroupEnt
  repl : Tab Ent2
  job : Tab JobEnt
  /-- uncorrectable entries (R134): key (table x 2 + bank) x 2^32 + index, the EID for EXACT -/
  bad : Tab Bool
  /-- entries with a single-bit error that no read has met yet (R134), by the same keys -/
  soft : Tab Bool
  index : BitVec 23
  data0 : Word
  data1 : Word
  data2 : Word
  data3 : Word
  status : Byte
  reject : Bool
  busy : Bool
  wseq : DWord
  batch : DWord
  batchCnt : Word
  batchDone : Word
  /-- FWD_EPOCH.CUR (false = A), STATE_A, STATE_B -/
  cur : Bool
  stA : BankState
  stB : BankState
  ecntA : Word
  ecntB : Word
  mgmtEid : Word
  lrnBase : DWord
  lrnEnable : Bool
  lrnLog2 : BitVec 5
  lrnHead : BitVec 19
  lrnTail : BitVec 19
  cmpBase : DWord
  cmpPass : Half
  cmpEnable : Bool
  /-- the segment the background compare digests next -/
  cmpNext : Nat
  /-- FWD_EVENT: 3 ECC, 2 LRNLOST, 1 CMPDONE, 0 DRAINED -/
  event : BitVec 4
  eccLog : Word
  /-- the learning filter, newest first: SRC and the instant of its notification (R152); and the notifications of the present second -/
  filter : List (Word × Nat)
  lrnSecond : Nat
  lrnCount : Nat
  deriving DecidableEq, Repr

/-! ### LNK, 03_cezal_links.md -/

/-- LNK_STATUS.STATE (R88). -/
inductive LinkState where
  | down | lock | hello | config | credit | up | degraded
  deriving DecidableEq, Repr

/-- A LANE_CTL frame that waits for its answer (R92). -/
structure LaneCtl where
  /-- true = ON, false = OFF -/
  on : Bool
  idx : BitVec 3
  first : Nat
  last : Nat
  deriving DecidableEq, Repr

/-- A sent DATA frame kept for replay: FSEQ, PKTOFF and body (R78, R82). -/
structure DataFrame where
  fseq : Half
  pktoff : Half
  body : List Byte
  deriving DecidableEq, Repr

/-- One fabric port: its registers (R99) and the state of training, retry and credits. -/
structure Link where
  st : LinkState
  tstat : Byte
  ver : BitVec 4
  caps : BitVec 6
  disable : Bool
  pVermax : BitVec 4
  pVermin : BitVec 4
  pCaps : BitVec 6
  pNode : BitVec 2
  pWidth : BitVec 4
  pPort : BitVec 11
  pid : DWord
  rtt : Half
  retired : Byte
  txact : Byte
  rxact : Byte
  err : Byte
  /-- the local instant at which the present state was entered, and how long DOWN lasts before a retrain -/
  since : Nat
  wait : Nat
  /-- training: lane indices heard, lane of each index, the latest TSEND and its arrival, whether this training has measured the round trip, CONFIG already equal -/
  heard : Byte
  laneOf : Tab Nat
  tsend : DWord
  tsendAt : Nat
  rttNow : Bool
  cfgOk : Bool
  pRetry : Half
  helloAt : Nat
  /-- credits, by class: balance toward the partner, last count seen from it; balance left to the partner, cumulative credits freed and freed counts not yet reported (R85) -/
  txBal : Tab Nat
  seen : Tab (BitVec 13)
  rxBal : Tab Nat
  freed : Tab (BitVec 13)
  told : Tab (BitVec 13)
  repNext : BitVec 3
  /-- transmit: next DATA FSEQ, unacknowledged frames oldest first, frames of the replay in progress still to send, the FSEQ at which it began, when, and how many in a row began there -/
  nextFseq : Half
  unacked : List DataFrame
  replay : List DataFrame
  replayFrom : Half
  replayAt : Nat
  replays : Nat
  ackAt : Nat
  /-- packets waiting to be framed, each with its bytes as they stand on the link, and the rest of the packet begun -/
  txPkts : List (Pkt × List Byte)
  txRest : List Byte
  /-- receive: the next FSEQ in order, NAK set, frames that came early with their arrival, the byte stream not yet taken, and whether the receiver skips to a valid header -/
  expect : Half
  nak : Bool
  early : List (DataFrame × Nat)
  rxStream : List Byte
  skip : Bool
  laneCtl : List LaneCtl
  deriving DecidableEq, Repr

/-! ### SRD, 04_lanes.md -/

/-- SRD_LSTAT.STATE (R129). -/
inductive LaneState where
  | off | idle | hunt | locked | out | recal | retired
  deriving DecidableEq, Repr

/-- SRD_LRECAL.RESULT (R129). -/
inductive RecalResult where
  | none | ok | busyInService | inProgress | notUp | running | failed | aborted
  deriving DecidableEq, Repr

/-- The four transmit taps that are set (R106), two's complement, in 1/64. -/
structure Taps where
  c2 : Byte
  c1 : Byte
  cm1 : Byte
  cm2 : Byte
  deriving DecidableEq, Repr

/-- One fabric lane. -/
structure Lane where
  ctle : Byte
  /-- corrections of recent codewords, newest first: instant and count, 255 = uncorrectable; only those that no newer one exceeds (FECMAX, R129) -/
  fecLog : List (Nat × Nat)
  pol : Bool
  retain : Bool
  sigdet : Bool
  st : LaneState
  passes : BitVec 2
  recal : RecalResult
  taps : Taps
  /-- hunting: the candidate (symbol position and polarity, 0 to 5,439), valid codewords in a row, and the last 64 results (bit = invalid), R104 -/
  cand : Nat
  run : Nat
  hist : BitVec 64
  /-- the last 58 scrambled bits sent and received, oldest first (R100) -/
  txScr : BitVec 58
  rxScr : BitVec 58
  /-- equalisation: DONE of this receiver and of the partner, the last RSEQ applied, whether one was, its STAT, the start point that PRESET returns to, and when tuning began (R107 to R109) -/
  done : Bool
  pDone : Bool
  aecho : BitVec 4
  applied : Bool
  stat : Byte
  start : Taps
  tuneAt : Nat
  /-- this receiver's own requests: the last RSEQ and REQ, whether its echo is awaited, the symbols corrected and the codewords since the last echo, the same of the request before, the requests in a row that failed to lower the rate, and the steps that the partner's taps have made (R109, R112) -/
  rseq : BitVec 4
  req : Byte
  awaiting : Bool
  corrSum : Nat
  corrN : Nat
  lastRate : Option (Nat × Nat)
  fails : Nat
  pTaps : Taps
  /-- the local instant since which the lane idles with retained state, and the retained candidate -/
  idleAt : Nat
  kept : Nat
  /-- a burst has ended at the retained boundary: the codewords checked since, up to 8 (R113) -/
  exit : Option Nat
  /-- the transmitter is in electrical idle -/
  txIdle : Bool
  /-- a calibration has FAILED: the lane stays out of use until its port next retrains (R115, R341) -/
  parked : Bool
  /-- the recalibration pass under way: when it began, its codewords that have met R115 in a row, and whether it has failed -/
  passAt : Nat
  passN : Nat
  passBad : Bool
  deriving DecidableEq, Repr

/-- SRD_SSTAT.STATE (R129). -/
inductive SvcState where
  | off | aligning | aligned
  deriving DecidableEq, Repr

/-- One service lane (R121, R129). -/
structure Svc where
  crc : Bool
  cv : Bool
  abort : Bool
  st : SvcState
  /-- the last ten bits received (bit 0 the oldest) and their place modulo 10, the alignment held or under trial, its consecutive commas, the running disparity of the characters received (true = positive), and the invalid characters of the last 64 -/
  win : BitVec 10
  ph : BitVec 4
  at_ : BitVec 4
  commas : Nat
  rd : Bool
  bad : BitVec 64
  /-- the arrival of the last time marker on the time base, in 2^-16 ns (R123) -/
  marker : Nat
  /-- SEQ of the next message sent, and the running disparity after the characters sent -/
  txSeq : Byte
  txRd : Bool
  deriving DecidableEq, Repr

/-- One chiplet's eye-scan engine (R117, R129). -/
structure Eye where
  dwell : Byte
  eye : BitVec 2
  lane : Byte
  points : BitVec 13
  intr : Bool
  reject : Bool
  done : Bool
  busy : Bool
  res : Tab Word
  /-- the scan in progress: the local instant of START, and the time that a point takes in fs (R117) -/
  startAt : Nat
  ptFs : Nat
  /-- the lane that the scan measures, and the first of the free values that stand for its counts -/
  scan : Nat
  base : Nat
  deriving DecidableEq, Repr

/-! ### SWC, 06_switch_core.md -/

/-- A resolved next hop (R139, R140, R145). -/
inductive Hop where
  | port (n : Nat)
  | bundle (n : Nat)
  | drop
  | toLocal
  deriving DecidableEq, Repr

/-- Where a packet that passed the lookup goes. -/
inductive Dest where
  | hop (h : Hop)
  | group
  /-- diverted to the input yard of a transform flow, with the next hop of its output (R298) -/
  | flow (binding : Nat) (h : Hop)
  /-- the output of a transform flow, with the next hop resolved for its input (R299) -/
  | output (h : Hop)
  deriving DecidableEq, Repr

/-- What a queue holds: a packet, or a drain marker of the fences that its presence counts in (R162, R251). -/
inductive QItem where
  | pkt (p : Pkt)
  /-- a request at the head of a combining entry (R317): the first request and the entry -/
  | comb (p : Pkt) (entry : Nat)
  | marker (fences : List Nat)
  deriving DecidableEq, Repr

/-- One output queue (R160, R168). -/
structure Queue where
  items : List QItem
  /-- SWC_QMAX.MAX, and the largest depth since the previous sweep -/
  maxd : Nat
  smax : Nat
  /-- the finish tag F_q and the start of the head -/
  f : BitVec 48
  headS : BitVec 48
  deriving DecidableEq, Repr

/-- One egress port's scheduler (R167, R168) and its ingress policer (R166); buckets in quarter bytes. -/
structure Sched where
  vS : BitVec 48
  vU : BitVec 48
  g : Nat
  gAt : Nat
  bucket : Nat
  bucketAt : Nat
  deriving DecidableEq, Repr

/-- A packet held at ingress (R161, R166). -/
structure Held where
  pkt : Pkt
  dest : Dest
  /-- held by the policer (true), or at a queue's limit (false) -/
  policed : Bool
  deriving DecidableEq, Repr

/-- A producer inside the MS9 that waits to enqueue a packet (R161). -/
structure Waiting where
  pkt : Pkt
  hop : Hop
  /-- the age starts when the packet is enqueued (R27) -/
  stampAtEnqueue : Bool
  /-- a Landing result may wait for its slot window: earliest time-base instant -/
  notBefore : Nat
  deriving DecidableEq, Repr

/-- A multicast replication that waits at a copy (R161). -/
structure ReplWait where
  pkt : Pkt
  base : Nat
  count : Nat
  idx : Nat
  group : Nat
  deriving DecidableEq, Repr

/-- A spray counter (R170) or, with hashed = true, a flow that started hashed (R171). -/
structure SprayCtr where
  src : Word
  dst : Word
  tc : BitVec 3
  bundle : Nat
  next : Word
  hashed : Bool
  last : Nat
  deriving DecidableEq, Repr

/-- A reorder context (R174). -/
structure Reorder where
  src : Word
  dst : Word
  tc : BitVec 3
  bundle : Nat
  c2 : Bool
  next : Option Word
  first : Word
  /-- JOB and FENCE of the marker released last, where the packet released last was one (R250) -/
  mark : Option (BitVec 20 × BitVec 12)
  /-- packets held, in arrival order, with where each goes and the local instant of arrival -/
  held : List (Pkt × Dest × Nat)
  last : Nat
  deriving DecidableEq, Repr

/-- A hash bucket of a bundle (R171): the port it uses and the local instant of its last use. -/
structure Bucket where
  port : Nat
  last : Nat
  deriving DecidableEq, Repr

/-- SWC: the switch core. -/
structure Swc where
  /-- output queues by 8 x port + class -/
  q : Tab Queue
  sched : Tab Sched
  /-- ingress FIFOs by 8 x port + class -/
  holds : Tab (List Held)
  prod : List Waiting
  repl : List ReplWait
  /-- spray counters and reorder contexts by district -/
  spray : Tab (List SprayCtr)
  reorder : Tab (List Reorder)
  /-- round robin position of each bundle, and hash buckets by 256 x bundle + k -/
  rr : Tab Nat
  bucket : Tab (Option Bucket)
  /-- cells quarantined in a district's reorder store (R363) -/
  quarantined : Tab Nat
  /-- SWC_CTRL -/
  nonempty : Bool
  capture : Bool
  sample : Bool
  tmo : Byte
  period : Half
  smpBase : DWord
  capBase : DWord
  smpSize : BitVec 5
  capSize : BitVec 5
  smpHead : BitVec 24
  smpTail : BitVec 24
  capHead : BitVec 24
  capTail : BitVec 24
  /-- SWC_EVENT: 2 CAPOVR, 1 SMPSKIP, 0 SCHOVF -/
  event : BitVec 3
  capsel : Tab Word
  capflt : Tab Word
  /-- matches of each capture rule -/
  capCnt : Tab Nat
  /-- capture records the host has not yet consumed -/
  capUnread : Nat
  /-- the time-base instant of the last sample sweep in multiples of the period -/
  lastSweep : Nat
  deriving DecidableEq, Repr

/-! ### TMB, 07_time_and_timetables.md -/

/-- TMB_STATUS.LOCK (R186). -/
inductive LockState where
  | free | acquiring | locked | holdover
  deriving DecidableEq, Repr

/-- TMB_STATUS.BLK (R207). -/
inductive BlkState where
  | none | forming | joined | rttExceeded | idMismatch | broken
  deriving DecidableEq, Repr

/-- A timetable entry (R198). -/
structure TtEntry where
  job : BitVec 20
  /-- CLS: false = TC5, true = TC6 -/
  cls : Bool
  src : BitVec 11
  srctype : BitVec 2
  start : Nat
  count : Nat
  budget : Nat
  deriving DecidableEq, Repr

/-- A timetable image as the MS9 holds it (R196, R197). -/
structure Timetable where
  slotcode : Nat
  period : Nat
  ttid : Word
  generation : DWord
  /-- FIRST and COUNT of each directory row -/
  dir : Tab (Nat × Nat)
  entries : List TtEntry
  /-- the activation instant TMB_AT, 0 while not activated -/
  t0 : Nat
  deriving DecidableEq, Repr

/-- Bytes admitted under one entry in one occurrence of a slot (R202). -/
structure SlotUse where
  row : Nat
  entry : Nat
  /-- the occurrence: slots since the activation instant -/
  occ : Nat
  t0 : Nat
  bytes : Nat
  deriving DecidableEq, Repr

/-- What a congestion map counts for one port in the interval (R205). -/
structure MapCnt where
  sched : Nat
  unsched : Nat
  maxDepth : Nat
  /-- ns in which one of the port's queues had HELD = 1 -/
  heldNs : Nat
  viol : Nat
  ovf : Nat
  wind : Nat
  deriving DecidableEq, Repr

/-- One ring lane (R192, R193): 0 = EAST, 1 = WEST. -/
structure RingLane where
  /-- link delay in 2^-16 ns -/
  delay : Nat
  /-- the local instant of the last SYNC and the hops it carried -/
  syncAt : Option Nat
  hops : Byte
  /-- the lane's last DELAY_REQ: T1 -/
  t1 : DWord
  deriving DecidableEq, Repr

/-- TMB: time base, Block and timetables. -/
structure Tmb where
  /-- the time base in units of 2^-16 ns (R185) -/
  tb : Nat
  lock : LockState
  /-- consecutive samples within 1 ns (R186) -/
  good : Nat
  holdSince : Nat
  /-- the local instant of the last step of R193 -/
  stepAt : Option Nat
  /-- TIME_IN: the instant named for the next edge with the message's arrival; and the last edge -/
  todNext : Option (DWord × Nat)
  ppsAt : Option Nat
  /-- the last whole second announced on TOUT_LANE -/
  toutNext : Nat
  blk : BlkState
  members : Byte
  hops : Byte
  master : Bool
  term : Half
  /-- the highest term seen -/
  topTerm : Half
  rtt : Word
  masterId : DWord
  /-- TMB_OFFSET.PS -/
  offset : Word
  /-- the last 64 offsets, newest first, in 2^-16 ns -/
  offsets : List Int
  /-- the correction that the rate still has to make, in 2^-16 ns (R185, R193) -/
  owed : Int
  /-- a first sample has stepped the time base (R186) -/
  stepped : Bool
  ring0 : RingLane
  ring1 : RingLane
  /-- the local instant since which this candidate, not master, has seen no better key (R190) -/
  electing : Option Nat
  /-- a probe is outstanding since this local instant -/
  probeAt : Option Nat
  mapen : Bool
  holdLimit : Half
  stage : DWord
  stageLen : Word
  at_ : DWord
  status : Byte
  reject : Bool
  busy : Bool
  active : Option Timetable
  staged : Option Timetable
  /-- the image before the last activation and the time-base instant at which its grace ends -/
  old : Option (Timetable × Nat)
  armed : Tab (Option Timetable)
  /-- the pending activation: SEL, the image and the instant -/
  pending : Option (Nat × Timetable × Nat)
  vlog : Word
  mapBase : DWord
  fbBase : DWord
  mapSize : BitVec 24
  mapHead : BitVec 24
  mapTail : BitVec 24
  mapPeriod : BitVec 24
  /-- TMB_EVENT: 5 MAPSKIP, 4 ACTIVATED, 3 VIOL, 2 ADMITOFF, 1 HOLD, 0 ELECTED -/
  event : BitVec 6
  /-- ADMIT as it last stood -/
  admOn : Bool
  used : List SlotUse
  mapCnt : Tab MapCnt
  mapStart : Nat
  deriving DecidableEq, Repr

/-! ### LND, 08_landings.md and 09_collectives_under_change.md -/

/-- A stage record (R211). -/
structure Stage where
  op : Byte
  when_ : Byte
  a : Byte
  b : Byte
  c : Word
  d : DWord
  e : Word
  f : Word
  deriving DecidableEq, Repr

/-- An install descriptor (R210). -/
structure Desc where
  ctx : BitVec 18
  job : BitVec 20
  type : Byte
  home : Byte
  rslots : Half
  persist : Bool
  linked : Bool
  opening : Bool
  infmts : Word
  elems : Word
  chunk0 : Half
  chunkElem : Half
  rfmt : Byte
  rmode : Byte
  seed : Word
  tmo : Word
  upeid : Word
  upctx : BitVec 18
  link : BitVec 18
  openid : Word
  stages : List Stage
  members : List Word
  deriving DecidableEq, Repr

/-- One chunk's state: its line (R236) and where its stages stand. -/
structure Chunk where
  /-- the chunk has opened on its first accepted packet, and in a resident line (true) or its backing line (R237) -/
  opened : Bool
  resident : Bool
  /-- accumulator elements as bit patterns of the accumulator format (R220) -/
  acc : List Nat
  /-- member indices whose contribution the chunk holds, in arrival order -/
  from_ : List Nat
  /-- the line is in the format the FINISH program wrote (OUTFMT) -/
  outBytes : Option (Byte × List Nat)
  done : Bool
  relayed : Bool
  corrected : Bool
  /-- the stage that runs (a FINISH awaits DONE), and whether one runs -/
  running : Option Nat
  deriving DecidableEq, Repr

/-- An installed context. -/
structure Ctx where
  d : Desc
  /-- the descriptor's bytes as installed, which the mirror journal carries (R372) -/
  raw : List Byte
  step : Word
  chunks : Tab Chunk
  /-- withdrawn members and CORR (R235) -/
  withdrawn : Tab (Option Word)
  /-- COUNT: members whose LAST has arrived. FANOUT: members that have acknowledged -/
  seen : Tab Bool
  /-- FANOUT: members by which the expected acknowledgements are lowered (R233) -/
  lowered : Tab Bool
  /-- LINKED: the counts, once known (R232) -/
  counts : Option (List Nat)
  short : Word
  nCorrected : Half
  lateRel : Bool
  toFired : Bool
  /-- the local instant of the last acceptance or WITHDRAW, while the timer runs (R229) -/
  timer : Option Nat
  holdOff : Bool
  resident : Bool
  restoring : Bool
  active : Nat
  /-- the window's WHEN 1 stages are running -/
  closing : Bool
  deriving DecidableEq, Repr

/-- A result held in its line until its instant, trigger or slot (R228). -/
structure HeldRes where
  ctx : Nat
  pos : Nat
  /-- the SEND stage, by its place in the list, and the payload -/
  stage : Nat
  payload : List Byte
  /-- its release instant -/
  notBefore : Nat
  hold : Bool
  deriving DecidableEq, Repr

/-- A contribution in the early-arrival pool (R216). -/
structure EaUnit where
  ctx : Nat
  job : BitVec 20
  pkt : Pkt
  at_ : Nat
  /-- it waits for the context's next step (R217) -/
  nextStep : Bool
  deriving DecidableEq, Repr

/-- A tombstoned CTX and the local instant at which it was tombstoned (R215). -/
structure Tomb where
  ctx : Nat
  at_ : Nat
  deriving DecidableEq, Repr

/-- An armed fence (R248 to R252). -/
structure Fence where
  id : Nat
  job : BitVec 20
  tag : BitVec 12
  expect : Half
  tmo : Half
  armedAt : Nat
  msi : Bool
  timedOut : Bool
  marks : Word
  drainq : Word
  oldpre : Word
  flipped : Bool
  oldbank : Bool
  deriving DecidableEq, Repr

/-- A fence marker whose copies have not all left (R249): its number in the model, and the copies awaited. -/
structure MarkWait where
  id : Nat
  copies : Nat
  deriving DecidableEq, Repr

/-- LND: Landings, Openings and fences. -/
structure Lnd where
  ctxs : Tab (Option Ctx)
  held : List HeldRes
  pool : List EaUnit
  tombs : List Tomb
  addr : DWord
  arg : Word
  corr : Word
  status : Byte
  reject : Bool
  busy : Bool
  backBase : DWord
  backSize : DWord
  backUsed : DWord
  tomb : Half
  age : Half
  ringBase : DWord
  ringEnable : Bool
  ringLog2 : BitVec 5
  ringHead : BitVec 20
  ringTail : BitVec 20
  /-- LND_EVENT: 4 RINGOVF, 3 EAEXP, 2 REFUSED, 1 TIMEOUT, 0 RECORD -/
  event : BitVec 5
  /-- slots quarantined by a cruise drain, by district (R363) -/
  quarantined : Tab Nat
  /-- the dedupe store, newest first (R245) -/
  opens : List (BitVec 20 × Word)
  fences : List Fence
  nextFence : Nat
  marks : List MarkWait
  nextMark : Nat
  fncKey : Word
  fncArg : Word
  fncStatus : Byte
  fncReject : Bool
  fncBusy : Bool
  fncMarks : Word
  fncDrainq : Word
  fncOldpre : Word
  deriving DecidableEq, Repr

/-! ### MIL, 10_mill_arithmetic.md and 11_mill_programs.md -/

/-- A codebook table entry (R273): 16 BF16 values, and whether it has been written since reset. -/
structure CbEnt where
  vals : List Half
  written : Bool
  deriving DecidableEq, Repr

/-- A transform-flow table entry (R297). -/
structure TfEnt where
  w0 : Word
  w1 : Word
  w2 : Word
  w3 : Word
  deriving DecidableEq, Repr

/-- A tile register (R283): FMT, orientation, data bytes and side bytes. -/
structure Tile where
  fmt : Byte
  transposed : Bool
  data : Tab Byte
  side : Tab Byte
  deriving DecidableEq, Repr

/-- A thread's state (R281). -/
inductive ThState where
  | ready | switched | yardWait | barrier | saved | stopped
  deriving DecidableEq, Repr

/-- What a SWITCHED or YARD_WAIT thread waits for. -/
inductive Waits where
  | none
  | access
  | fetch (y n : Nat)       -- a fetch of the middle of a yard from LPDDR5X, for a read of n bytes (R288)
  | fetchSlot (y n : Nat)   -- one of the 1,024 fetch slots, for that fetch (R34)
  | output   -- an output queue, or an earlier item's output (R300)
  | yardItem (y : Nat)
  | yardRoom (y : Nat)
  deriving DecidableEq, Repr

/-- One thread context (R282, R284). -/
structure Thread where
  st : ThState
  waits : Waits
  pc : Nat
  x : Tab DWord
  /-- STEP or BAR executed since the last step boundary (R306), and the threads that must issue first after a YIELD (R286) -/
  stepped : Bool
  owe : List Nat
  /-- the claimed item of each yard -/
  item : Tab (Option Nat)
  deriving DecidableEq, Repr

/-- What an item is (R289, R296, R298). -/
inductive ItemKind where
  | plain
  | finish (ctx pos step : Nat)
  | flow (pkt : Pkt) (hop : Hop)
  deriving DecidableEq, Repr

/-- Where a word of a yard lies (R288): in the registers of an end, in the district's YARD partition, or in LPDDR5X. -/
inductive WordAt where
  | regs | sram | lpddr
  deriving DecidableEq, Repr

/-- One yard item (R289). -/
structure YItem where
  id : Nat
  kind : ItemKind
  bytes : List Byte
  /-- every word has been written -/
  complete : Bool
  /-- core x 16 + thread of the claimer -/
  claimed : Option Nat
  /-- bytes already read -/
  rd : Nat
  flushed : Bool
  /-- dropped as aged while claimed (R298) -/
  aged : Bool
  /-- SENDT has been executed -/
  sent : Bool
  /-- where each word lies -/
  loc : List WordAt
  deriving DecidableEq, Repr

/-- An output of a binding that waits for the outputs of items claimed earlier (R300). -/
structure FlowOut where
  item : Nat
  pkt : Option Pkt
  hop : Hop
  deriving DecidableEq, Repr

/-- MIL_BIND_INFO.STATE (R310). -/
inductive BindState where
  | bound | handover | faulted
  deriving DecidableEq, Repr

/-- Where a binding runs (R294). -/
structure Place where
  district : Nat
  cores : Byte
  slot : Nat
  threads : Nat
  kind : Bool
  pin : Bool
  ycap : Word
  deriving DecidableEq, Repr

/-- A binding (R294 to R302). -/
structure Binding where
  st : BindState
  place : Place
  /-- resident cores, bit k -/
  resident : Byte
  /-- threads by 16 x core-in-cluster + thread, and tile registers by 64 x core-in-cluster + register -/
  threads : Tab Thread
  tiles : Tab Tile
  scratch : Tab Byte
  /-- yard items by yard, oldest first -/
  yards : Tab (List YItem)
  nextItem : Nat
  /-- flow items in claim order and the outputs ready (R300) -/
  order : List Nat
  outs : List FlowOut
  /-- threads that have reached BAR since the last barrier -/
  arrived : Tab Bool
  /-- UNBIND in progress: no further claims (R302) -/
  closing : Bool
  /-- the old place of a handover in progress: its threads and items (R301) -/
  oldPlace : Option Place
  oldThreads : Tab Thread
  oldTiles : Tab Tile
  oldScratch : Tab Byte
  oldYards : Tab (List YItem)
  /-- bytes reserved in scratch and in MIL_BACK -/
  scratchRes : Nat
  backRes : Nat
  oldScratchRes : Nat
  oldBackRes : Nat
  deriving DecidableEq, Repr

/-- Per core: engine share table and counts (R306), last binding made resident (R303). -/
structure Core where
  share : Tab Nat
  ops : Tab Nat
  lastMade : Nat
  slicing : Bool
  /-- one past the identity of the thread that issued last; 0 before any has (R279) -/
  lastIssue : Nat
  deriving DecidableEq, Repr

/-- MIL: the Mill. -/
structure Mil where
  cb : Tab CbEnt
  cbStatus : Byte
  cbWritten : Bool
  cbReject : Bool
  cbBusy : Bool
  cbData : Tab Word
  /-- MIL_AEXCn: 4 CBUNSET, 3 SCALENAN, 2 INTWRAP, 1 OVERFLOW, 0 INVALID -/
  aexc : Tab (BitVec 5)
  tf : Tab TfEnt
  tfStatus : Byte
  tfReject : Bool
  tfBusy : Bool
  tfData0 : Word
  tfData1 : Word
  tfData2 : Word
  tfData3 : Word
  /-- program-store images by 512 x district + slot -/
  store : Tab (List Byte)
  pgmAddr : DWord
  pgmLen : Word
  pgmStatus : Byte
  pgmReject : Bool
  pgmBusy : Bool
  arg0 : Word
  arg1 : Word
  bindStatus : Byte
  bindReject : Bool
  bindBusy : Bool
  bindInfo : Word
  binds : Tab (Option Binding)
  cores : Tab Core
  pwinBase : DWord
  pwinSize : DWord
  backBase : DWord
  backSize : DWord
  backUsed : DWord
  /-- MIL_EVENT: 3 TFDOWN, 2 TFOVF, 1 HANDOVER, 0 FAULT -/
  event : BitVec 4
  fault : Word
  faultPc : Word
  /-- engines withdrawn: by index 96 c + 12 k + e, by a drain or a test -/
  withdrawn : Tab Bool
  /-- MIL_CAP.FP4NOW -/
  fp4now : Word
  /-- the last slice boundary, in multiples of 50 us -/
  lastSlice : Nat
  deriving DecidableEq, Repr

/-! ### MEM, 12_memory_operations.md -/

/-- A combining entry (R317): its queue (8 x port + class) and its requests, first first. -/
structure CombEnt where
  id : Nat
  queue : Nat
  reqs : List Pkt
  closed : Bool
  /-- (SRC, DST) pairs written to the queue since the entry opened (condition 3 of R317) -/
  pairs : List (Word × Word)
  deriving DecidableEq, Repr

/-- A job in teardown (R323, R324). -/
structure TdJob where
  job : BitVec 20
  swept : Bool
  notices : Nat
  deriving DecidableEq, Repr

/-- A (JOB, DST) pair of the DEAD_TARGET filter (R322). -/
structure DeadPair where
  job : BitVec 20
  dst : Word
  at_ : Nat
  count : Nat
  /-- SRC, KIND and ingress port of the first request discarded since the pair's last record -/
  first : Word × Nat × Nat
  deriving DecidableEq, Repr

/-- MEM: memory-semantic traffic. -/
structure Mem where
  maxn : Byte
  report : Bool
  combine : Bool
  ents : List CombEnt
  nextEnt : Nat
  status : Byte
  reject : Bool
  busy : Bool
  /-- the sweep in progress: job, the local instant of START, and packets discarded -/
  sweep : Option (BitVec 20 × Nat × Nat)
  jobs : List TdJob
  notices : List (BitVec 20 × Word)
  infoTd : Bool
  infoSwept : Bool
  infoNotices : Half
  dead : List DeadPair
  rptBase : DWord
  rptLog2 : BitVec 5
  rptHead : Half
  rptTail : Half
  /-- MEM_EVENT: 3 NOTLOST, 2 RPTOVF, 1 SWEPT, 0 DEAD -/
  event : BitVec 4
  deriving DecidableEq, Repr

/-! ### OPT, 13_optical.md -/

/-- OPT_PSTAT.TXST and RXST (R350). -/
inductive RingState where
  | off | sweep | verify | locked | mislock | retired | fly | cal
  deriving DecidableEq, Repr

/-- OPT_PSTAT.TXLOSS and RXLOSS as one set of names (R340). -/
inductive LossClass where
  | none | laser | modulator | launch | launchFibre | rxChannel | rxFibre
  deriving DecidableEq, Repr

/-- OPT_PSTAT.CALRES (R350). -/
inductive CalRes where
  | none | ok | busyInService | inProgress | notUp | running | failed | aborted | engine
  deriving DecidableEq, Repr

/-- One optical path (R327, R350). -/
structure OPath where
  txst : RingState
  rxst : RingState
  mislocks : BitVec 2
  txloss : LossClass
  rxloss : LossClass
  /-- the class that the last samples gave and how many in a row gave it (R340) -/
  txCand : LossClass
  txRun : Nat
  rxCand : LossClass
  rxRun : Nat
  /-- samples in a row that did not meet the class that is set -/
  txMiss : Nat
  rxMiss : Nat
  lossAt : Nat
  calres : CalRes
  calPass : Nat
  /-- the pass in progress (R341): its start, the laser's bias still being trimmed, and the rings that have found their identity -/
  calAt : Nat
  calTrim : Bool
  calTx : Bool
  calRx : Bool
  fly : Option Byte
  las : Half
  mod : Half
  launch : Half
  rxin : Half
  rxid : Half
  txid : Half
  txheat : Half
  rxheat : Half
  lbias : Half
  ltune : Half
  /-- the local instants of the last decode that equalled TX_ID and RX_ID (R337) -/
  txMatch : Nat
  rxMatch : Nat
  /-- the states of the two rings that the engine last reported -/
  txEng : Nat
  rxEng : Nat
  /-- the drop ring waits for light (R334) since this local instant, or for the first reading of RXIN -/
  dark : Option Nat
  unread : Bool
  deriving DecidableEq, Repr

/-- OPT_ESTATe.STATE (R350). -/
inductive EngState where
  | absent | waiting | up | lost | mismatch
  deriving DecidableEq, Repr

/-- An engine command not yet acknowledged (R331). -/
structure EngCmd where
  seq : Byte
  type : Byte
  payload : List Byte
  sends : Nat
  at_ : Nat
  /-- the flyover it serves, if any -/
  fly : Option Nat
  deriving DecidableEq, Repr

/-- One optical engine. -/
structure Engine where
  st : EngState
  version : Word
  devid : DWord
  fitted : DWord
  statusAt : Nat
  seq : Byte
  cmds : List EngCmd
  deriving DecidableEq, Repr

/-- OPT_FLYn_A.STATE (R350). -/
inductive FlyState where
  | free | prep | switching | on | offPending | returning
  deriving DecidableEq, Repr

/-- One flyover (R342 to R347). -/
structure Fly where
  st : FlyState
  reason : BitVec 4
  laneA : BitVec 11
  laneB : BitVec 11
  eidA : Word
  eidB : Word
  /-- T_CUT, and the FLY_OFF instant, in time-base ns -/
  tcut : Nat
  offAt : Nat
  /-- OFF_ACK received and partner's OFF answered, on La and on Lb (R344) -/
  ackA : Bool
  ackB : Bool
  poffA : Bool
  poffB : Bool
  /-- both XC_SET acknowledged -/
  crossed : Nat
  /-- LAUNCH below FLOOR since this local instant (R347) -/
  lowSince : Option Nat
  deriving DecidableEq, Repr

/-- OPT: optics. -/
structure Opt where
  path : Tab OPath
  eng : Tab Engine
  fly : Tab Fly
  lanes : Word
  eidA : Word
  eidB : Word
  at_ : DWord
  status : Byte
  reject : Bool
  busy : Bool
  delta : Half
  floor : Half
  /-- OPT_EVENT: 4 ENGLOST, 3 FLYDOWN, 2 LOSS, 1 RETIRED, 0 MISLOCK -/
  event : BitVec 5
  mislog : Word
  deriving DecidableEq, Repr

/-! ### RES, 14_resilience.md -/

/-- RES_PART_INFO.STATE (R380). -/
inductive PartState where
  | inService | watch | drained | drainWait | testing | replaced
  deriving DecidableEq, Repr

/-- The last test of a part (RES_PART_INFO.TEST). -/
inductive PartTest where
  | none | pass | fail | aborted
  deriving DecidableEq, Repr

/-- One scored part (R361): the penalty in units of 10^-9 at the local instant at which it was last computed. -/
structure Part where
  pen : Nat
  penAt : Nat
  st : PartState
  test : PartTest
  /-- the state before the test in progress was DRAINED -/
  wasDrained : Bool
  deriving DecidableEq, Repr

/-- RES_GOVn (R366, R367), with the local instant of the governor's last step. -/
structure Gov where
  stop : Bool
  level : BitVec 4
  tj : Half
  last : Nat
  deriving DecidableEq, Repr

/-- One 32-byte journal record (R372), and whether it records a table command. -/
structure JRec where
  seq : DWord
  tab : Bool
  bytes : List Byte
  deriving DecidableEq, Repr

/-- RES_MIR_STAT.OWN (R380). -/
inductive MirOwn where
  | off | syncing | current | lagging | holderLost
  deriving DecidableEq, Repr

/-- RES_MIR_STAT.EAST and WEST. -/
inductive MirHeld where
  | none | partial_ | complete | full
  deriving DecidableEq, Repr

/-- A mirror held for one ring neighbour, compacted (R373). -/
structure Mirror where
  st : MirHeld
  dev : DWord
  /-- highest record stored, and the highest acknowledged -/
  seq : DWord
  acked : DWord
  ackAt : Nat
  /-- the records kept, oldest first; an install is one with its continuation records -/
  recs : List (List Byte)
  deriving DecidableEq, Repr

/-- A PULL in progress on a spare (R374). -/
structure PullOp where
  /-- HDR has come and its digest matched -/
  hdr : Bool
  /-- RECORDS, the records received so far, and the local instant of the last message -/
  total : DWord
  applied : Nat
  lastRx : Nat
  /-- an install whose continuation records are still awaited, as far as it has come -/
  part : List Byte
  /-- the CRC register over the records so far -/
  crc : Nat
  deriving DecidableEq, Repr

/-- RES: resilience. -/
structure Res where
  leaseStatus : Byte
  leaseReject : Bool
  leaseBusy : Bool
  /-- RES_LEASE_EPOCH, RES_LEASE_CUR, RES_LEASE_DL -/
  epoch : Word
  cur : Word
  dl : DWord
  /-- the lease held: DEADLINE limit in time-base ns and the lease-timer limit in local ns (R353) -/
  lease : Option (Nat × Nat)
  /-- RES_LEASE_END -/
  leaseEnd : DWord
  /-- RES_CORDON and RES_CORDON_T -/
  cause : BitVec 4
  done : Bool
  count : Half
  cordonT : DWord
  /-- RES_CRUISE_CFG.HALF -/
  half : Half
  parts : Tab Part
  partStatus : Byte
  partReject : Bool
  partBusy : Bool
  partInfo : Word
  /-- RES_CRUISE_EVENT and RES_CRUISE_LOG -/
  cruiseEvent : BitVec 5
  cruiseLog : Word
  gov : Tab Gov
  /-- RES_TEST_STAT -/
  testStatus : Byte
  testResult : BitVec 4
  testReject : Bool
  testBusy : Bool
  /-- twin mirroring -/
  mirBase : DWord
  mirSize : DWord
  own : MirOwn
  /-- records sent or waiting and not yet acknowledged, oldest first; the SEQ of the next record -/
  journal : List JRec
  nextSeq : DWord
  mirAck : DWord
  east : Mirror
  west : Mirror
  /-- spare bring-in -/
  spareStatus : Byte
  spareResult : BitVec 4
  spareReject : Bool
  spareBusy : Bool
  spareDev : DWord
  spareHold : DWord
  spareWseq : DWord
  noImage : Half
  refused : Half
  pullOp : Option PullOp
  deriving DecidableEq, Repr

/-! ### What the block sends (the model's own record of it) -/

/-- One thing the MS9 has sent on one of its interfaces. -/
inductive Emission where
  /-- a codeword on a fabric lane: a link frame's, an EQ, an idle-entry or a FILL codeword (R100, R102); and a training burst (R113) -/
  | codeword (lane : Nat) (symbols : Symbols)
  | burst (lane : Nat) (symbols : Burst)
  /-- a message on a service lane, with the idle ordered sets that follow it (R121, R122); and K28.1 at an instant of the time base in ns (R123) -/
  | svc (lane : Nat) (codes : List Code)
  | k281 (lane : Nat) (instant : Nat) (code : Code)
  /-- an MSI-X message (R394) -/
  | msix (p : HPort) (addr : DWord) (data : Word)
  /-- the completion of a host read; none = Unsupported Request (R387) -/
  | hostRead (p : HPort) (data : Option (List Byte))
  /-- the answers of a port to configuration requests, from its PERST# deassertion on (R383) -/
  | config (p : HPort) (cfg : PciCfg)
  /-- a DMA write to host memory, and a descriptor's STATUS written in its ring (R393) -/
  | hostWrite (p : HPort) (addr : DWord) (bytes : List Byte)
  /-- a message on the debug lands (R452), and an answer on the SMBus; none = NACK (R445) -/
  | debug (codes : List Code)
  | smbus (data : Option Word)
  /-- a rising edge on PPS_OUT, at a whole second of the time base in ns (R448) -/
  | ppsOut (instant : Nat)
  deriving DecidableEq, Repr

/-! ### The state -/

/-- The state of the MS9. -/
structure State where
  glb : Glb
  plt : Plt
  hst : Hst
  /-- fabric ports by number, fabric lanes, service lanes, eye-scan engines by chiplet -/
  lnk : Tab Link
  srd : Tab Lane
  svc : Tab Svc
  eye : Tab Eye
  fwd : Fwd
  swc : Swc
  tmb : Tmb
  lnd : Lnd
  mil : Mil
  mem : Mem
  opt : Opt
  res : Res
  sec : Sec
  tly : Tly
  pwr : Pwr
  nv : Nv
  /-- LPDDR5X, by address; a byte not listed reads 0 -/
  ram : Tab Byte
  /-- local time in ns: the time-base unit's own oscillator, which the lease timer counts (R353) -/
  clk : Nat
  /-- the model's own: the counter of free values, and what the block has sent, newest first -/
  fresh : Nat
  out : List Emission
  /-- the commands that wait, first in first out -/
  pending : List Instr
  deriving DecidableEq, Repr

/-! ### What stops the machine -/

/-- Faults. No command of the MS9 stops it: what the spec calls an error is a status, an event or a discard, and the block goes on. The one name stands for a state that cannot be: no meaning raises it (safe). -/
inductive Fault where
  /-- raised by nothing -/
  | impossible
  deriving DecidableEq, Repr

/-- Refusals. -/
inductive Refusal where
  /-- an arm of exec whose command has no meaning yet (safe) -/
  | notModelled (mnemonic : String)
  deriving DecidableEq, Repr

/-! ### Reset -/

def DmaCh.reset : DmaCh := ⟨0, false, 6, 0, 0, .idle, 0, false⟩
def IrqMap.reset (s : Nat) : IrqMap := ⟨false, 0, BitVec.ofNat 11 s, 0, false⟩
def MsixEntry.reset : MsixEntry := ⟨0, 0, true⟩
def HostPort.reset : HostPort :=
  ⟨0, 0, 0, false, false, 0, 0, [], [], [], [], true, .reset, [], []⟩
def Hst.reset : Hst := ⟨.reset, .reset, none, 0, none, 0, 0, 0, 0, 0, 0, 0, false, false⟩
def Glb.reset : Glb := ⟨.reset, false, false, 0xFFFF, 0, [], []⟩
def Sec.reset : Sec :=
  ⟨0, 0, false, false, 0, false, false, 0, 0, 0, 0, 0, 0, 0, none, 0, 0, [], false⟩
def KeySlot.reset : KeySlot := ⟨none, 0⟩
def Nv.reset : Nv :=
  ⟨false, 0, 0, false, false, .reset, .reset, false, [], [], false, [], [], false, [], [], [], []⟩
def Tly.reset : Tly :=
  ⟨[], [], 0, false, 0, 0, 0, 0, 0, false, false, 2, 0, 0, false, 0x10, 0xFFFF, 7, 0, 0, false, false, false, [], none, 0, [], [], none⟩
def Sens.reset : Sens := ⟨false, 0, 0⟩
def Pwr.reset : Pwr :=
  { pgov := false, plevel := 0, vinlow := false, coolOk := false, dbgEn := false, iin := 0, vin := 0, pinMax := 0, pinNow := 0,
    outlet := 0, inlet := 0, tjSensor := 0, tjMax := 0, cause := 0, event := 0, sens := [], vcore := [], pgood := false,
    thermtrip := false, faultLand := false, supply := .off, trip := .none, vinLost := true, inletSince := none,
    deltaSince := none, govLast := 0, halted := false, mgmtMem := [], hubSram := [], recImage := [], dbgRd := false, dbgTxRd := false }

/-- The class defaults of R48, TC0 first. -/
def ClassRec.dflt (tc : Nat) : ClassRec :=
  match tc with
  | 7 => ⟨1000, 16, 64⟩
  | 6 => ⟨200, 128, 128⟩
  | 5 => ⟨500, 96, 96⟩
  | 4 => ⟨1000, 64, 48⟩
  | 3 => ⟨2000, 64, 32⟩
  | 2 => ⟨2000, 48, 16⟩
  | 1 => ⟨2000, 48, 8⟩
  | _ => ⟨10000, 16, 4⟩

def DistPart.dflt : DistPart := ⟨64, 64, 80, 12⟩
def MillRec.none : MillRec := ⟨0, 0, 0, 0⟩
def OptLane.none : OptLane := ⟨0, 0, 0, 0, 0, true, false, 0⟩
def OptEng.none : OptEng := ⟨false, 0, 0⟩
/-- Before a plat is active: no port, no core, no optics, no Block, and the firmware's alarm policy of R57. -/
def Plat.none : Plat :=
  { ports := [], eap := 64, share := [25, 20, 10, 15, 5, 5], part := [], ushare := 25, overhead := 20,
    cls := [], learn := 0, bank := 0, cmpPeriod := 60, learnRate := 10000,
    time := ⟨2, 0, 0, 0, 0, 0, 0, 64, 40, 255⟩, mill := [], opt := [], eng := [],
    res := ⟨600, 300, 600, 300, 600, 300, 600, 300, 0⟩, alarm := ⟨1, 1, 0, 0, 1, 3, 3⟩ }
def Plt.reset : Plt :=
  ⟨0, 0, 0, false, false, 0, 0, 0, 0, 0, Option.none, 0, Option.none, false, 3, [], [], [], .none, Option.none, 0⟩

def Link.reset : Link :=
  { st := .down, tstat := 0, ver := 0, caps := 0, disable := false, pVermax := 0, pVermin := 0, pCaps := 0, pNode := 0,
    pWidth := 0, pPort := 0, pid := 0, rtt := 0, retired := 0, txact := 0, rxact := 0, err := 0, since := 0, wait := 0,
    heard := 0, laneOf := [], tsend := 0, tsendAt := 0, rttNow := false, cfgOk := false, pRetry := 0, helloAt := 0, txBal := [],
    seen := [], rxBal := [], freed := [], told := [], repNext := 0, nextFseq := 0, unacked := [], replay := [],
    replayFrom := 0, replayAt := 0, replays := 0, ackAt := 0, txPkts := [], txRest := [], expect := 0, nak := false,
    early := [], rxStream := [], skip := false, laneCtl := [] }
def Taps.builtin : Taps := ⟨0, BitVec.ofInt 8 (-8), BitVec.ofInt 8 (-4), 0⟩
def Lane.reset : Lane :=
  { ctle := 0, fecLog := [], pol := false, retain := false, sigdet := false, st := .off, passes := 0, recal := .none,
    taps := ⟨0, 0, 0, 0⟩, cand := 0, run := 0, hist := 0, txScr := 0, rxScr := 0, done := false, pDone := false, aecho := 0, applied := false,
    stat := 0, start := ⟨0, 0, 0, 0⟩, tuneAt := 0, rseq := 0, req := 0, awaiting := false, corrSum := 0, corrN := 0, lastRate := none, fails := 0,
    pTaps := ⟨0, 0, 0, 0⟩, idleAt := 0, kept := 0, exit := none, txIdle := false, parked := false, passAt := 0, passN := 0, passBad := false }
def Svc.reset : Svc :=
  { crc := false, cv := false, abort := false, st := .off, win := 0, ph := 0, at_ := 0, commas := 0, rd := false, bad := 0, marker := 0, txSeq := 0, txRd := false }
def Eye.reset : Eye := ⟨0x14, 1, 0, 0, false, false, false, false, [], 0, 0, 0, 0⟩

def Ent2.zero : Ent2 := ⟨0, 0⟩
def GroupEnt.zero : GroupEnt := ⟨0, 0, 0, 0⟩
def JobEnt.zero : JobEnt := ⟨false, false, false, 0, 0⟩
def Bank.reset : Bank := ⟨[], [], [], [], [], [], []⟩
def Fwd.reset : Fwd :=
  { bankA := .reset, bankB := .reset, group := [], repl := [], job := [], bad := [], soft := [], index := 0, data0 := 0, data1 := 0,
    data2 := 0, data3 := 0, status := 0, reject := false, busy := false, wseq := 0, batch := 0, batchCnt := 0,
    batchDone := 0, cur := false, stA := .live, stB := .free, ecntA := 0, ecntB := 0, mgmtEid := 0, lrnBase := 0,
    lrnEnable := false, lrnLog2 := 7, lrnHead := 0, lrnTail := 0, cmpBase := 0, cmpPass := 0, cmpEnable := false,
    cmpNext := 0, event := 0, eccLog := 0, filter := [], lrnSecond := 0, lrnCount := 0 }

def Queue.reset : Queue := ⟨[], 0, 0, 0, 0⟩
def Sched.reset : Sched := ⟨0, 0, 0, 0, 0, 0⟩
def Swc.reset : Swc :=
  { q := [], sched := [], holds := [], prod := [], repl := [], spray := [], reorder := [], rr := [], bucket := [],
    quarantined := [], nonempty := false, capture := false, sample := false, tmo := 8, period := 0x64, smpBase := 0,
    capBase := 0, smpSize := 8, capSize := 6, smpHead := 0, smpTail := 0, capHead := 0, capTail := 0, event := 0,
    capsel := [], capflt := [], capCnt := [], capUnread := 0, lastSweep := 0 }

def RingLane.reset : RingLane := ⟨0, none, 0, 0⟩
def MapCnt.zero : MapCnt := ⟨0, 0, 0, 0, 0, 0, 0⟩
def Tmb.reset : Tmb :=
  { tb := 0, lock := .free, good := 0, holdSince := 0, stepAt := none, todNext := none, ppsAt := none,
    toutNext := 0, blk := .none, members := 0, hops := 0, master := false, term := 0, topTerm := 0,
    rtt := 0, masterId := 0, offset := 0, offsets := [], owed := 0, stepped := false, ring0 := .reset, ring1 := .reset,
    electing := none, probeAt := none, mapen := false, holdLimit := 0x4E20, stage := 0, stageLen := 0, at_ := 0,
    status := 0, reject := false, busy := false, active := none, staged := none, old := none, armed := [],
    pending := none, vlog := 0, mapBase := 0, fbBase := 0, mapSize := 7, mapHead := 0, mapTail := 0, mapPeriod := 0x64,
    event := 0, admOn := false, used := [], mapCnt := [], mapStart := 0 }

def Chunk.reset : Chunk := ⟨false, false, [], [], none, false, false, false, none⟩
def Lnd.reset : Lnd :=
  { ctxs := [], held := [], pool := [], tombs := [], addr := 0, arg := 0, corr := 0, status := 0, reject := false,
    busy := false, backBase := 0, backSize := 0, backUsed := 0, tomb := 0xC, age := 0xA, ringBase := 0,
    ringEnable := false, ringLog2 := 7, ringHead := 0, ringTail := 0, event := 0, quarantined := [], opens := [],
    fences := [], nextFence := 0, marks := [], nextMark := 0, fncKey := 0, fncArg := 0, fncStatus := 0, fncReject := false,
    fncBusy := false, fncMarks := 0, fncDrainq := 0, fncOldpre := 0 }

def CbEnt.reset : CbEnt := ⟨List.replicate 16 0, false⟩
def TfEnt.zero : TfEnt := ⟨0, 0, 0, 0⟩
def Tile.zero : Tile := ⟨0, false, [], []⟩
def Thread.reset : Thread := ⟨.stopped, .none, 0, [], false, [], []⟩
def Core.reset : Core := ⟨[], [], 4095, false, 0⟩
def Mil.reset : Mil :=
  { cb := [], cbStatus := 0, cbWritten := false, cbReject := false, cbBusy := false, cbData := [], aexc := [], tf := [],
    tfStatus := 0, tfReject := false, tfBusy := false, tfData0 := 0, tfData1 := 0, tfData2 := 0, tfData3 := 0,
    store := [], pgmAddr := 0, pgmLen := 0, pgmStatus := 0, pgmReject := false, pgmBusy := false, arg0 := 0,
    arg1 := 0x10000, bindStatus := 0, bindReject := false, bindBusy := false, bindInfo := 0, binds := [], cores := [],
    pwinBase := 0, pwinSize := 0, backBase := 0, backSize := 0, backUsed := 0, event := 0, fault := 0, faultPc := 0,
    withdrawn := [], fp4now := 0, lastSlice := 0 }

def Mem.reset : Mem :=
  { maxn := 0xFF, report := false, combine := false, ents := [], nextEnt := 0, status := 0, reject := false,
    busy := false, sweep := none, jobs := [], notices := [], infoTd := false, infoSwept := false, infoNotices := 0,
    dead := [], rptBase := 0, rptLog2 := 7, rptHead := 0, rptTail := 0, event := 0 }

def OPath.reset : OPath :=
  { txst := .off, rxst := .off, mislocks := 0, txloss := .none, rxloss := .none, txCand := .none, txRun := 0,
    rxCand := .none, rxRun := 0, txMiss := 0, rxMiss := 0, lossAt := 0, calres := .none, calPass := 0, calAt := 0, calTrim := false,
    calTx := false, calRx := false, fly := none, las := 0x8000, mod := 0x8000,
    launch := 0x8000, rxin := 0x8000, rxid := 0, txid := 0, txheat := 0, rxheat := 0, lbias := 0, ltune := 0,
    txMatch := 0, rxMatch := 0, txEng := 0, rxEng := 0, dark := none, unread := false }
def Engine.reset : Engine := ⟨.absent, 0, 0, 0, 0, 0, []⟩
def Fly.reset : Fly := ⟨.free, 0, 0, 0, 0, 0, 0, 0, false, false, false, false, 0, none⟩
def Opt.reset : Opt := ⟨[], [], [], 0, 0, 0, 0, 0, false, false, 0x012C, 0xFA24, 0, 0⟩

def Part.reset : Part := ⟨0, 0, .inService, .none, false⟩
def Gov.reset : Gov := ⟨false, 0, 0, 0⟩
def Mirror.reset : Mirror := ⟨.none, 0, 0, 0, 0, []⟩
def Res.reset : Res :=
  { leaseStatus := 0, leaseReject := false, leaseBusy := false, epoch := 0, cur := 0, dl := 0, lease := none,
    leaseEnd := 0, cause := 0, done := false, count := 0, cordonT := 0, half := 0x18, parts := [], partStatus := 0,
    partReject := false, partBusy := false, partInfo := 0, cruiseEvent := 0, cruiseLog := 0, gov := [],
    testStatus := 0, testResult := 0, testReject := false, testBusy := false, mirBase := 0, mirSize := 0, own := .off,
    journal := [], nextSeq := 1, mirAck := 0, east := .reset, west := .reset, spareStatus := 0, spareResult := 0,
    spareReject := false, spareBusy := false, spareDev := 0, spareHold := 0, spareWseq := 0, noImage := 0, refused := 0,
    pullOp := none }

/-- The MS9 right after reset: every register at the value its table gives, RESET state, nothing in any memory. Where the spec gives no value the log names it. -/
def State.reset : State :=
  { glb := .reset, plt := .reset, hst := .reset, lnk := [], srd := [], svc := [], eye := [], fwd := .reset, swc := .reset,
    tmb := .reset, lnd := .reset, mil := .reset, mem := .reset, opt := .reset, res := .reset, sec := .reset,
    tly := .reset, pwr := .reset, nv := .reset, ram := [], clk := 0, fresh := 0, out := [], pending := [] }

end Sys2Proof.Machine
end

