-- ==== Sys2Proof/Machine/Tab.lean ====
section
/-! DEFINITION. Sparse tables in canonical form: reading and writing an entry, and the form itself. What an unlisted key reads as is the table's default `d`; a write of the default removes the entry. -/
namespace Sys2Proof.Machine
open Sys2Proof

/-- The entry at a key. -/
def tget {α : Type} (d : α) : Tab α → Nat → α
  | [], _ => d
  | (i, v) :: r, k => if k = i then v else tget d r k
/-- Puts an entry at its place. -/
def tins {α : Type} : Tab α → Nat → α → Tab α
  | [], k, v => [(k, v)]
  | (i, u) :: r, k, v => if k < i then (k, v) :: (i, u) :: r else if k = i then (k, v) :: r else (i, u) :: tins r k v
/-- Takes the entry at a key out. -/
def tdel {α : Type} (t : Tab α) (k : Nat) : Tab α := t.filter (fun e => e.1 ≠ k)
/-- Writes the entry at a key, keeping the canonical form. -/
def tset {α : Type} [DecidableEq α] (d : α) (t : Tab α) (k : Nat) (v : α) : Tab α :=
  if v = d then tdel t k else tins t k v
/-- Changes the entry at a key. -/
def tmod {α : Type} [DecidableEq α] (d : α) (t : Tab α) (k : Nat) (f : α → α) : Tab α :=
  tset d t k (f (tget d t k))
/-- Keys strictly rise, from above a bound. -/
def tsorted {α : Type} : Option Nat → Tab α → Bool
  | _, [] => true
  | b, (i, _) :: r => (match b with | none => true | some j => decide (j < i)) && tsorted (some i) r
/-- The canonical form: keys strictly rising, no entry equal to the default. -/
def twf {α : Type} [DecidableEq α] (d : α) (t : Tab α) : Bool :=
  tsorted none t && t.all (fun e => decide (e.2 ≠ d))
/-- Writes consecutive entries from a key. -/
def tsetL {α : Type} [DecidableEq α] (d : α) : Tab α → Nat → List α → Tab α
  | t, _, [] => t
  | t, k, v :: r => tsetL d (tset d t k v) (k + 1) r
/-- Reads consecutive entries from a key. -/
def tgetL {α : Type} (d : α) (t : Tab α) (k : Nat) : Nat → List α
  | 0 => []
  | n + 1 => tget d t k :: tgetL d t (k + 1) n

end Sys2Proof.Machine
end

