-- ==== Sys2Proof/Machine/Ops.lean ====
section
/-! DEFINITION. The named operations over the state that every block shares: time, LPDDR5X, the record of what the block sends, Tally counters, interrupts, device state, and who may write. -/
namespace Sys2Proof.Machine
open Sys2Proof

/-- What a meaning answers. -/
abbrev Out := Host.Outcome State Fault Refusal

/-- `f` for each element, in order. -/
def forEach {α : Type} (l : List α) (f : α → State → State) (s : State) : State :=
  l.foldl (fun s a => f a s) s

/-! ### Parts by number -/

def State.link (s : State) (p : Nat) : Link := tget Link.reset s.lnk p
def State.setLink (s : State) (p : Nat) (l : Link) : State := { s with lnk := tset Link.reset s.lnk p l }
def State.modLink (s : State) (p : Nat) (f : Link → Link) : State := s.setLink p (f (s.link p))
def State.lane (s : State) (n : Nat) : Lane := tget Lane.reset s.srd n
def State.setLane (s : State) (n : Nat) (l : Lane) : State := { s with srd := tset Lane.reset s.srd n l }
def State.modLane (s : State) (n : Nat) (f : Lane → Lane) : State := s.setLane n (f (s.lane n))
def State.svcLane (s : State) (n : Nat) : Svc := tget Svc.reset s.svc n
def State.modSvc (s : State) (n : Nat) (f : Svc → Svc) : State := { s with svc := tset Svc.reset s.svc n (f (s.svcLane n)) }
def State.eyeOf (s : State) (n : Nat) : Eye := tget Eye.reset s.eye n
def State.modEye (s : State) (n : Nat) (f : Eye → Eye) : State := { s with eye := tset Eye.reset s.eye n (f (s.eyeOf n)) }
def State.path (s : State) (n : Nat) : OPath := tget OPath.reset s.opt.path n
def State.modPath (s : State) (n : Nat) (f : OPath → OPath) : State := { s with opt.path := tset OPath.reset s.opt.path n (f (s.path n)) }
def State.engine (s : State) (n : Nat) : Engine := tget Engine.reset s.opt.eng n
def State.modEngine (s : State) (n : Nat) (f : Engine → Engine) : State := { s with opt.eng := tset Engine.reset s.opt.eng n (f (s.engine n)) }
def State.flyOf (s : State) (n : Nat) : Fly := tget Fly.reset s.opt.fly n
def State.modFly (s : State) (n : Nat) (f : Fly → Fly) : State := { s with opt.fly := tset Fly.reset s.opt.fly n (f (s.flyOf n)) }
def State.queue (s : State) (q : Nat) : Queue := tget Queue.reset s.swc.q q
def State.setQueue (s : State) (q : Nat) (v : Queue) : State := { s with swc.q := tset Queue.reset s.swc.q q v }
def State.modQueue (s : State) (q : Nat) (f : Queue → Queue) : State := s.setQueue q (f (s.queue q))
def State.sched (s : State) (p : Nat) : Sched := tget Sched.reset s.swc.sched p
def State.modSched (s : State) (p : Nat) (f : Sched → Sched) : State := { s with swc.sched := tset Sched.reset s.swc.sched p (f (s.sched p)) }
def State.ctx (s : State) (c : Nat) : Option Ctx := tget none s.lnd.ctxs c
def State.setCtx (s : State) (c : Nat) (v : Option Ctx) : State := { s with lnd.ctxs := tset none s.lnd.ctxs c v }
def State.modCtx (s : State) (c : Nat) (f : Ctx → Ctx) : State := s.setCtx c ((s.ctx c).map f)
def State.bindOf (s : State) (b : Nat) : Option Binding := tget none s.mil.binds b
def State.setBind (s : State) (b : Nat) (v : Option Binding) : State := { s with mil.binds := tset none s.mil.binds b v }
def State.modBind (s : State) (b : Nat) (f : Binding → Binding) : State := s.setBind b ((s.bindOf b).map f)
def State.coreOf (s : State) (c : Nat) : Core := tget Core.reset s.mil.cores c
def State.modCore (s : State) (c : Nat) (f : Core → Core) : State := { s with mil.cores := tset Core.reset s.mil.cores c (f (s.coreOf c)) }
def State.host (s : State) : HPort → HostPort
  | .ha => s.hst.ha
  | .hb => s.hst.hb
def State.setHost (s : State) (p : HPort) (h : HostPort) : State :=
  match p with
  | .ha => { s with hst.ha := h }
  | .hb => { s with hst.hb := h }
def State.modHost (s : State) (p : HPort) (f : HostPort → HostPort) : State := s.setHost p (f (s.host p))
def otherPort : HPort → HPort
  | .ha => .hb
  | .hb => .ha
def portIdx : HPort → Nat
  | .ha => 0
  | .hb => 1
/-- The state of a district; OFF before a plat builds it (R26). -/
def State.dist (s : State) (d : Nat) : DistState := tget .off s.plt.dist d
def State.setDist (s : State) (d : Nat) (v : DistState) : State := { s with plt.dist := tset .off s.plt.dist d v }

/-! ### Time -/

/-- TMB_NOW, in ns (R185). -/
def State.now (s : State) : Nat := s.tmb.tb / 65536
/-! ### LPDDR5X (R388) -/

/-- The fitted capacity in bytes. -/
def State.capacity (s : State) : Nat := if s.nv.mem128 then 128 * 10 ^ 9 else 256 * 10 ^ 9
/-- `n` bytes at an address; at or beyond the capacity a byte reads 0. -/
def rdMem (s : State) (a n : Nat) : List Byte :=
  (List.range n).map (fun i => if a + i < s.capacity then tget 0 s.ram (a + i) else 0)
/-- Writes bytes at an address; a byte at or beyond the capacity is discarded. -/
def wrMem (s : State) (a : Nat) (bs : List Byte) : State :=
  { s with ram := tsetL 0 s.ram a (bs.take (s.capacity - a)) }
def rdU64 (s : State) (a : Nat) : Nat := leNat (rdMem s a 8)

/-! ### What the block sends -/

def emit (e : Emission) (s : State) : State := { s with out := e :: s.out }
/-- Sends characters on a service lane, coded on from the lane's running disparity, and two idle ordered sets after them (R121). -/
def sendChars (lane : Nat) (l : List Char10) (s : State) : State :=
  let (g, rd) := encodeAll (s.svcLane lane).txRd (l ++ idlePair)
  emit (.svc lane g) (s.modSvc lane (fun v => { v with txRd := rd }))
/-- Sends a service-lane message (R122); `marked` places K28.1 inside it, behind its K27.7 (R123). -/
def sendMsg (lane : Nat) (type seq : Byte) (payload : List Byte) (marked : Bool) (s : State) : State :=
  sendChars lane (msgChars type seq payload marked) s
/-- SEQ counts the messages sent on the lane (the users that number their own give it). -/
def sendSvc (lane type : Nat) (payload : List Byte) (marked : Bool) (s : State) : State :=
  sendMsg lane (BitVec.ofNat 8 type) (s.svcLane lane).txSeq payload marked (s.modSvc lane (fun v => { v with txSeq := v.txSeq + 1 }))
/-- Sends K28.1 alone, at an instant. -/
def sendK281 (lane instant : Nat) (s : State) : State :=
  let (g, rd) := encode10 (s.svcLane lane).txRd .marker
  emit (.k281 lane instant g) (s.modSvc lane (fun v => { v with txRd := rd }))

/-! ### Free values -/

/-- The next free value, and the state with the counter advanced. -/
def takeFree (s : State) : DWord × State := (Config.freeWord s.fresh, { s with fresh := s.fresh + 1 })
/-- 8 n bytes that the spec does not state. -/
def takeFreeBytes : Nat → State → List Byte × State
  | 0, s => ([], s)
  | n + 1, s =>
    let (w, s) := takeFree s
    let (b, s) := takeFreeBytes n s
    (toLE 8 w.toNat ++ b, s)

/-! ### Tally (R420, R421) -/

def evNo (block code inst : Nat) : Nat := block * 2 ^ 26 + code * 2 ^ 16 + inst
/-- Adds to a counter, modulo 2^64. -/
def countN (ev n : Nat) (s : State) : State :=
  { s with tly.ctr := tmod 0 s.tly.ctr ev (fun v => v + BitVec.ofNat 64 n) }
def count (ev : Nat) (s : State) : State := countN ev 1 s
/-- Adds to a counter of a further family (R424), which the model numbers itself: see Flags.lean. -/
def countXN (fam inst n : Nat) (s : State) : State :=
  { s with tly.ctrX := tmod 0 s.tly.ctrX (fam * 65536 + inst) (fun v => v + BitVec.ofNat 64 n) }
def countX (fam inst : Nat) (s : State) : State := countXN fam inst 1 s
/-- Counts a discard by its DCODE and ingress (R423). -/
def countDiscard (dcode ingress : Nat) (s : State) : State := count (evNo 0 (0x100 + dcode) ingress) s

/-! ### Interrupts (R394, R395) -/

/-- Sends the MSI-X message of a vector, or sets its pending bit where it is masked. -/
def sendVector (p : HPort) (v : Nat) (s : State) : State :=
  let h := s.host p
  let e := tget MsixEntry.reset h.msix v
  if e.masked then s.setHost p { h with pba := tset false h.pba v true }
  else emit (.msix p e.addr e.data) s
/-- The source fires on one port. -/
def fireOn (src : Nat) (p : HPort) (s : State) : State :=
  let h := s.host p
  let m := tget (IrqMap.reset src) h.irq src
  if !m.en then s
  else if s.clk < m.holdEnd then
    s.setHost p { h with irq := tset (IrqMap.reset src) h.irq src { m with fired := true } }
  else
    let m' := { m with holdEnd := if m.holdoff == 0 then 0 else s.clk + m.holdoff.toNat * 1000, fired := false }
    sendVector p m.vector.toNat (s.setHost p { h with irq := tset (IrqMap.reset src) h.irq src m' })
/-- The source fires on each port whose map enables it. -/
def fire (src : Nat) (s : State) : State := fireOn src .hb (fireOn src .ha s)

/-! ### Device state (R21, R23) -/

/-- GLB_STATE.STATE as a number. -/
def DevState.code : DevState → Nat
  | .reset => 0 | .boot => 1 | .unplatted => 2 | .training => 3 | .ready => 4 | .inService => 5 | .quiesced => 6 | .cordoned => 7
/-- UNPLATTED or later. -/
def State.booted (s : State) : Bool := decide (2 ≤ s.glb.state.code)
/-- A change of GLB_STATE.STATE fires source 0. -/
def setDev (d : DevState) (s : State) : State :=
  if s.glb.state = d then s else fire 0 { s with glb.state := d }
/-- GLB_STATE.REQERR; its rising fires source 0. -/
def setReqErr (s : State) : State :=
  if s.glb.reqErr then s else fire 0 { s with glb.reqErr := true }

/-! ### Who may write (R383, R390) -/

/-- A write from a port that does not own the host lease: ignored, counted, DENIED. -/
def denyWrite (p : HPort) (s : State) : State :=
  count (evNo 2 0x000 (portIdx p)) (s.modHost p (fun h => { h with denied := true }))
/-- A write to a device-wide register: carried out for the owner only; before UNPLATTED a write outside GLB is ignored; nothing arrives while PERST# is asserted. -/
def hostWrite (p : HPort) (glb : Bool) (f : State → State) (s : State) : State :=
  if (s.host p).perst then s
  else if !glb && !s.booted then s
  else if s.hst.owner = some p then f s
  else denyWrite p s
/-- A write to a register of the port's own. -/
def portWrite (p : HPort) (f : State → State) (s : State) : State :=
  if (s.host p).perst then s else if s.booted then f s else s

end Sys2Proof.Machine
end

