-- ==== Sys2Proof/Machine/Flags.lean ====
section
/-! DEFINITION. The event registers of the blocks: setting a W1C event bit, whose rising fires the block's interrupt source (R394), and the numbers of the Tally families that the spec counts without listing them (R424). -/
namespace Sys2Proof.Machine
open Sys2Proof

/-- FWD_EVENT: 3 ECC, 2 LRNLOST, 1 CMPDONE, 0 DRAINED; source 3. -/
def raiseFwd (i : Nat) (s : State) : State :=
  if s.fwd.event.getLsbD i then s else fire 3 { s with fwd.event := setBit s.fwd.event i true }
/-- SWC_EVENT: 2 CAPOVR, 1 SMPSKIP, 0 SCHOVF; source 4. -/
def raiseSwc (i : Nat) (s : State) : State :=
  if s.swc.event.getLsbD i then s else fire 4 { s with swc.event := setBit s.swc.event i true }
/-- TMB_EVENT; source 5. -/
def raiseTmb (i : Nat) (s : State) : State :=
  if s.tmb.event.getLsbD i then s else fire 5 { s with tmb.event := setBit s.tmb.event i true }
/-- LND_EVENT: it has no source of its own; source 6 fires on NOTIFY and on fence records. -/
def raiseLnd (i : Nat) (s : State) : State := { s with lnd.event := setBit s.lnd.event i true }
/-- MIL_EVENT; source 7. -/
def raiseMil (i : Nat) (s : State) : State :=
  if s.mil.event.getLsbD i then s else fire 7 { s with mil.event := setBit s.mil.event i true }
/-- MEM_EVENT; source 8. -/
def raiseMem (i : Nat) (s : State) : State :=
  if s.mem.event.getLsbD i then s else fire 8 { s with mem.event := setBit s.mem.event i true }
/-- OPT_EVENT; source 9. -/
def raiseOpt (i : Nat) (s : State) : State :=
  if s.opt.event.getLsbD i then s else fire 9 { s with opt.event := setBit s.opt.event i true }
/-- RES_CRUISE_EVENT: 4 TESTDONE, 3 NOREPAIR, 2 DRAINWAIT, 1 DRAIN, 0 WATCH; source 10. -/
def raiseCruise (i : Nat) (s : State) : State :=
  if s.res.cruiseEvent.getLsbD i then s else fire 10 { s with res.cruiseEvent := setBit s.res.cruiseEvent i true }
/-- PWR_EVENT. -/
def raisePwr (i : Nat) (s : State) : State := { s with pwr.event := setBit s.pwr.event i true }
/-- LNK_ERR of a port: 7 LOST, 6 HOPS, 5 REPLAY, 4 CREDIT, 3 PROTO, 2 PCRC, 1 HCRC, 0 FRAME. -/
def setLnkErr (p i : Nat) (s : State) : State := s.modLink p (fun l => { l with err := setBit l.err i true })

/-! ### Further Tally families, by the model's own index -/

def xfTableCorrected : Nat := 0
def xfLearnLost : Nat := 1
def xfExcInvalid : Nat := 2
def xfExcOverflow : Nat := 3
def xfExcIntwrap : Nat := 4
def xfExcScalenan : Nat := 5
def xfExcCbunset : Nat := 6
def xfReportLost : Nat := 7
def xfNoticeLost : Nat := 8
def xfBlockId : Nat := 9
def xfSnapSkip : Nat := 10
def xfFrameBad : Nat := 11
def xfReplayLimit : Nat := 12

end Sys2Proof.Machine
end

