-- ==== Sys2Proof/Machine/Operands.lean ====
section
/-! DEFINITION. The Cezal packet: header fields, sizes, checksums and wire forms (R68 to R73, R93 to R95), and the control packets the MS9 sends (R76). -/
namespace Sys2Proof.Machine
open Sys2Proof

/-! ### Header fields (R68) -/

def Hdr.ver (h : Hdr) : Nat := fld h.w0.toNat 28 4
def Hdr.kind (h : Hdr) : Nat := fld h.w0.toNat 24 4
def Hdr.tc (h : Hdr) : Nat := fld h.w0.toNat 21 3
def Hdr.epoch (h : Hdr) : Bool := bitAt h.w0.toNat 20
def Hdr.hops (h : Hdr) : Nat := fld h.w0.toNat 16 4
def Hdr.len (h : Hdr) : Nat := fld h.w0.toNat 0 16
def Hdr.dst (h : Hdr) : Word := h.w1
def Hdr.src (h : Hdr) : Word := h.w2
def Hdr.job (h : Hdr) : BitVec 20 := BitVec.ofNat 20 (fld h.w3.toNat 12 20)
def Hdr.fence (h : Hdr) : BitVec 12 := BitVec.ofNat 12 h.w3.toNat
def Hdr.ctx (h : Hdr) : Nat := fld h.w4.toNat 14 18
def Hdr.first (h : Hdr) : Bool := bitAt h.w4.toNat 13
def Hdr.last (h : Hdr) : Bool := bitAt h.w4.toNat 12
def Hdr.schedFlag (h : Hdr) : Bool := bitAt h.w4.toNat 11
def Hdr.mirror (h : Hdr) : Bool := bitAt h.w4.toNat 10
def Hdr.degraded (h : Hdr) : Bool := bitAt h.w4.toNat 9
def Hdr.flag8 (h : Hdr) : Bool := bitAt h.w4.toNat 8
def Hdr.fmt (h : Hdr) : Nat := fld h.w4.toNat 0 8
def Hdr.seq (h : Hdr) : Word := h.w5
def Hdr.slot (h : Hdr) : Nat := fld h.w6.toNat 16 16
def Hdr.chunk (h : Hdr) : Nat := fld h.w6.toNat 0 16
/-- ADDR[63:0] of a memory kind: words 5 and 6 (R68). -/
def Hdr.addr (h : Hdr) : Nat := h.w5.toNat + fld h.w6.toNat 0 16 * 2 ^ 32 + fld h.w6.toNat 16 16 * 2 ^ 48
/-- KIND 4 to 7. -/
def Hdr.isMem (h : Hdr) : Bool := decide (4 ≤ h.kind) && decide (h.kind ≤ 7)
/-- TC5 or TC6. -/
def Hdr.isSched (h : Hdr) : Bool := h.tc == 5 || h.tc == 6

def putFld (w : Word) (lo n v : Nat) : Word := BitVec.ofNat 32 (setFld w.toNat lo n v)
def Hdr.setHops (h : Hdr) (v : Nat) : Hdr := { h with w0 := putFld h.w0 16 4 v }
def Hdr.setTc (h : Hdr) (v : Nat) : Hdr := { h with w0 := putFld h.w0 21 3 v }
def Hdr.setEpoch (h : Hdr) (b : Bool) : Hdr := { h with w0 := putFld h.w0 20 1 (b2n b) }
def Hdr.setLen (h : Hdr) (v : Nat) : Hdr := { h with w0 := putFld h.w0 0 16 v }
def Hdr.setSeq (h : Hdr) (v : Word) : Hdr := { h with w5 := v }
def Hdr.setDegraded (h : Hdr) : Hdr := { h with w4 := putFld h.w4 9 1 1 }
def Hdr.setMirror (h : Hdr) : Hdr := { h with w4 := putFld h.w4 10 1 1 }
/-- SCHED = 0, and with it SLOT = 0 (R68). -/
def Hdr.unsched (h : Hdr) : Hdr := { h with w4 := putFld h.w4 11 1 0, w6 := if h.isMem then h.w6 else putFld h.w6 16 16 0 }
def Hdr.setFlags (h : Hdr) (first last : Bool) : Hdr :=
  { h with w4 := putFld (putFld h.w4 13 1 (b2n first)) 12 1 (b2n last) }
def Hdr.setSlot (h : Hdr) (v : Nat) : Hdr := { h with w4 := putFld h.w4 11 1 1, w6 := putFld h.w6 16 16 v }

/-- A header from its fields; the flags are bits 13 to 8. -/
def mkHdr (kind tc : Nat) (epoch : Bool) (len : Nat) (dst src : Word) (job fence ctx flags fmt : Nat) (seq : Word) (slot chunk weight : Nat) : Hdr :=
  { w0 := BitVec.ofNat 32 (3 * 2 ^ 28 + kind % 16 * 2 ^ 24 + tc % 8 * 2 ^ 21 + b2n epoch * 2 ^ 20 + len % 65536),
    w1 := dst, w2 := src,
    w3 := BitVec.ofNat 32 (job % 2 ^ 20 * 4096 + fence % 4096),
    w4 := BitVec.ofNat 32 (ctx % 2 ^ 18 * 2 ^ 14 + flags % 64 * 256 + fmt % 256),
    w5 := seq, w6 := BitVec.ofNat 32 (slot % 65536 * 65536 + chunk % 65536), weight := BitVec.ofNat 16 weight }

/-! ### Checksums (R72, R171) -/

def crc16 (b : List Byte) : Nat := crcM 16 0x1021 0xFFFF b
/-- CRC-32C over words, each fed least significant byte first (R171). -/
def hashWords (l : List Word) : Nat := crc32c (bytesOfWords l)

/-! ### Sizes (R73, R84, R160) -/

/-- The bytes a packet occupies: header, payload rounded up to 4, PCRC, at least 64. -/
def sizeOf' (hdrLen len : Nat) : Nat := max 64 (hdrLen + alignUp len 4 + 4)
def Hdr.size (h : Hdr) : Nat := sizeOf' 32 h.len
def Pkt.size (p : Pkt) : Nat := p.h.size
def Pkt.cells (p : Pkt) : Nat := divUp p.size 256
def creditsOf (size : Nat) : Nat := divUp size 128
/-- Payload bytes that a memory kind carries more on a Cezal 2 link (R93). -/
def c2Extra (kind : Nat) : Nat := if kind == 4 then 12 else if 5 ≤ kind ∧ kind ≤ 7 then 8 else 0
/-- The bytes the packet occupied on the link it came by. -/
def Pkt.inSize (p : Pkt) : Nat := if p.c2 then sizeOf' 24 (p.h.len + c2Extra p.h.kind) else p.size

/-! ### Wire forms -/

/-- Header bytes 0 to 27 (R70). -/
def Hdr.bytes28 (h : Hdr) : List Byte := bytesOfWords [h.w0, h.w1, h.w2, h.w3, h.w4, h.w5, h.w6]
/-- The 32 header bytes with HCRC generated afresh (R72, R74). -/
def Hdr.bytes (h : Hdr) : List Byte :=
  h.bytes28 ++ toLE 2 (crc16 h.bytes28) ++ toLE 2 h.weight.toNat
/-- Payload, padding, PCRC, and zeros up to 64 bytes. -/
def finishWire (hdr payload : List Byte) : List Byte :=
  let body := hdr ++ payload ++ zeros (alignUp payload.length 4 - payload.length) ++ toLE 4 (crc32 payload)
  body ++ zeros (64 - body.length)
def Pkt.wire3 (p : Pkt) : List Byte := finishWire p.h.bytes p.payload
/-- The Cezal 2 form (R93, R95): VER 2, SLOT and WEIGHT dropped, DEGRADED and SCHED cleared, ADDR and read length in the payload. A memory packet has no SEQ: its 16-bit field is sent as 0 (the spec does not say; log entry 90). -/
def Pkt.wire2 (p : Pkt) : List Byte :=
  let h := p.h
  let extra := if h.isMem then toLE 8 h.addr ++ (if h.kind == 4 then toLE 4 h.ctx else []) else []
  let payload := extra ++ p.payload
  let w0 := putFld (putFld h.w0 28 4 2) 0 16 payload.length
  let w4 := putFld (putFld (putFld h.w4 11 1 0) 9 1 0) 8 1 0
  let w4 := if h.kind == 4 then putFld w4 14 18 0 else w4
  let f16 := if h.kind == 2 || h.kind == 3 then h.chunk else if h.isMem then 0 else h.seq.toNat % 65536
  let b20 := bytesOfWords [w0, h.w1, h.w2, h.w3, w4]
  finishWire (b20 ++ toLE 2 (crc16 b20) ++ toLE 2 f16) payload

/-- The header that 32 bytes spell. -/
def hdrOf (b : List Byte) : Hdr :=
  let w := fun i => BitVec.ofNat 32 (u32At b (4 * i))
  { w0 := w 0, w1 := w 1, w2 := w 2, w3 := w 3, w4 := w 4, w5 := w 5, w6 := w 6, weight := BitVec.ofNat 16 (u16At b 30) }
/-- HCRC of a Cezal 3 header holds. -/
def hcrcOk3 (b : List Byte) : Bool := u16At b 28 == crc16 (slice b 0 28)
/-- HCRC of a Cezal 2 header holds: over bytes 0 to 19, in word 5 [15:0]. -/
def hcrcOk2 (b : List Byte) : Bool := u16At b 20 == crc16 (slice b 0 20)

/-- The Cezal 3 packet that a Cezal 2 header and payload translate to (R94). -/
def translate2 (b payload : List Byte) : Hdr × List Byte :=
  let w := fun i => BitVec.ofNat 32 (u32At b (4 * i))
  let w0 := putFld (w 0) 28 4 3
  let f16 := u16At b 22
  let kind := fld (w 0).toNat 24 4
  let base : Hdr := { w0 := w0, w1 := w 1, w2 := w 2, w3 := w 3, w4 := w 4, w5 := 0, w6 := 0, weight := 0 }
  if kind == 2 || kind == 3 then ({ base with w6 := BitVec.ofNat 32 f16 }, payload)
  else if 4 ≤ kind ∧ kind ≤ 7 then
    let a := leNat (payload.take 8)
    let x := c2Extra kind
    let h := { base with
      w5 := BitVec.ofNat 32 a, w6 := BitVec.ofNat 32 (fld a 48 16 * 65536 + fld a 32 16),
      w0 := putFld w0 0 16 (fld w0.toNat 0 16 - x) }
    let h := if kind == 4 then { h with w4 := putFld h.w4 14 18 (u32At payload 8) } else h
    (h, payload.drop x)
  else ({ base with w5 := BitVec.ofNat 32 f16 }, payload)

/-! ### Control packets (R76) -/

/-- FLY_PREP, FLY_ON or FLY_OFF (R76). -/
def Pkt.isFly (p : Pkt) : Bool :=
  p.h.kind == 8 && decide (0x10 ≤ fld (u32At p.payload 0) 16 16) && decide (fld (u32At p.payload 0) 16 16 ≤ 0x12)
/-- The six payload words of a control packet. -/
def ctlPayload (opcode arg ctx job instant : Nat) : List Byte :=
  toLE 4 (opcode * 65536) ++ toLE 4 arg ++ toLE 4 ctx ++ toLE 4 job ++ toLE 8 instant
/-- The header of a control packet from the management EID: JOB 0 and FENCE 0. -/
def ctlHdr (s : State) (dst : Word) : Hdr :=
  mkHdr 8 7 s.fwd.cur 24 dst s.fwd.mgmtEid 0 0 0 0x30 0 0 0 0 0

end Sys2Proof.Machine
end

