-- ==== Sys2Proof/Machine/Geom.lean ====
section
/-! DEFINITION. What the structure in force builds: ports, lanes, bundles, districts, class limits and partitions (R12, R42 to R48, R160, R163). -/
namespace Sys2Proof.Machine
open Sys2Proof

/-- The number of lanes that a PORTS entry begins; 0 where it begins no port (R42). -/
def entryWidth (e : Word) : Nat :=
  match fld e.toNat 28 4 with
  | 1 => 1 | 2 => 2 | 3 => 4 | 4 => 8 | _ => 0
def State.entry (s : State) (l : Nat) : Word := tget 0 s.plt.plat.ports l
/-- Built lanes of the port that begins at a lane, 0 if none. -/
def State.width (s : State) (p : Nat) : Nat := entryWidth (s.entry p)
def State.portBuilt (s : State) (p : Nat) : Bool := decide (0 < s.width p)
/-- The port that a lane belongs to. -/
def State.portOfLane (s : State) (l : Nat) : Option Nat :=
  if s.portBuilt l then some l
  else [2, 4, 8].findSome? (fun w =>
    let p := l / w * w
    if decide (w ≤ s.width p) && decide (l < p + s.width p) then some p else none)
def State.laneBuilt (s : State) (l : Nat) : Bool := (s.portOfLane l).isSome
/-- CEZAL, CAPS and BUNDLE of a port. -/
def State.cezal (s : State) (p : Nat) : Nat := fld (s.entry p).toNat 26 2
def State.offered (s : State) (p : Nat) : Nat := fld (s.entry p).toNat 20 6
def State.bundle (s : State) (p : Nat) : Nat := fld (s.entry p).toNat 0 16
/-- The ports that the plat builds, ascending. -/
def State.ports (s : State) : List Nat := (s.plt.plat.ports.filter (fun e => decide (0 < entryWidth e.2))).map (·.1)
/-- The ports of a bundle, ascending; bundles are numbered from 1 (R139). -/
def State.bundlePorts (s : State) (b : Nat) : List Nat := if b == 0 then [] else s.ports.filter (fun p => s.bundle p == b)
def districtOf (p : Nat) : Nat := p / 128
def State.distPorts (s : State) (d : Nat) : List Nat := s.ports.filter (fun p => districtOf p == d)

/-- A port is UP or DEGRADED. -/
def Link.isUp (l : Link) : Bool := l.st == .up || l.st == .degraded
def State.up (s : State) (p : Nat) : Bool := s.portBuilt p && (s.link p).isUp
/-- The number of active transmit and receive lanes. -/
def State.txLanes (s : State) (p : Nat) : Nat := popcount (s.link p).txact.toNat 8
def State.rxLanes (s : State) (p : Nat) : Nat := popcount (s.link p).rxact.toNat 8
/-- A negotiated capability: 0 timetables, 1 Landing contributions, 2 CB4, 3 combining, 4 flyover signalling, 5 lane degrade (R91). -/
def State.cap (s : State) (p i : Nat) : Bool := (s.link p).caps.getLsbD i
def State.isC2 (s : State) (p : Nat) : Bool := (s.link p).ver == 2

/-- The district that a 1 MiB SRAM bank serves: ST0's banks 0 to 2,047 serve D0 to D7, ST1's serve D8 to D15 (R10); which of the eight is not stated. -/
def bankDistrict (i : Nat) : Nat := 8 * (i / 2048 % 2) + (Config.bankDistrict i).toNat % 8
/-- The bank of a table entry: the tables are striped across both dies (R10), entry by entry (log entry 91); which bank of the die is not stated. -/
def tableBank (tbl : Nat) (b : Bool) (i : Nat) : Nat := 2048 * (i % 2) + (Config.tableBank tbl b i).toNat % 2048
/-- A class record (R47). -/
def State.cls (s : State) (tc : Nat) : ClassRec := tget (ClassRec.dflt tc) s.plt.plat.cls tc
/-- AGE of a class in ns. -/
def State.ageNs (s : State) (tc : Nat) : Nat := (s.cls tc).age.toNat * 1000
/-- The largest AGE, in ns. -/
def State.maxAge (s : State) : Nat := maxOf ((List.range 8).map s.ageNs)
/-- The static limit of a queue in cells: w x LIMIT x 4 (R160). -/
def State.limit (s : State) (p tc : Nat) : Nat := s.width p * (s.cls tc).limit.toNat * 4
def queueKey (p tc : Nat) : Nat := 8 * p + tc

/-- A district's partition record; the defaults before a plat (R45). -/
def State.part (s : State) (d : Nat) : DistPart := tget DistPart.dflt s.plt.plat.part d
/-- The reorder store of a district in cells (R163), less 4,096 for each quarantined bank (R184). -/
def State.reorderCells (s : State) (d : Nat) : Nat :=
  let obuf := (s.part d).obuf.toNat * 4096
  let used := sumOf ((s.distPorts d).map (fun p => sumOf ((List.range 8).map (s.limit p))))
  obuf - used - 4096 * tget 0 s.swc.quarantined d
/-- Resident context slots of a district: 16 for each MiB of LAND, less those quarantined (R236, R363). -/
def State.landSlots (s : State) (d : Nat) : Nat := (s.part d).land.toNat * 16 - tget 0 s.lnd.quarantined d

def State.millRec (s : State) (d : Nat) : MillRec := tget MillRec.none s.plt.plat.mill d
/-- A core, 8 x cluster + core, is enabled (R52). -/
def State.coreOn (s : State) (c : Nat) : Bool := (s.millRec (c / 8)).cores.getLsbD (c % 8)
def State.optLane (s : State) (l : Nat) : OptLane := tget OptLane.none s.plt.plat.opt l

/-- The physical path of a lane with optics (R327). -/
def OptLane.path (o : OptLane) : Nat := 64 * o.oe.toNat + 8 * o.fibre.toNat + o.lambda.toNat
def State.pathOf (s : State) (l : Nat) : Option Nat :=
  let o := s.optLane l
  if o.elec then none else some o.path
/-- The lane that a physical path carries. -/
def State.laneOfPath (s : State) (p : Nat) : Option Nat :=
  (s.plt.plat.opt.find? (fun e => !e.2.elec && e.2.path == p)).map (·.1)
/-- The path of a lane, as reset where it has none. -/
def State.lanePath (s : State) (l : Nat) : OPath :=
  match s.pathOf l with
  | some p => s.path p
  | none => OPath.reset

/-- CRC-32C hash over (SRC, DST, TC) (R171, R173). -/
def flowHash (src dst : Word) (tc : Nat) : Nat := hashWords [src, dst, BitVec.ofNat 32 tc]

end Sys2Proof.Machine
end

