-- ==== Sys2Proof/Machine/LineCode.lean ====
section
/-! DEFINITION. The 212.5 Gb/s lane code (R100 to R103): blocks, 257-bit units, the scrambler, RS(544,514) and PAM4, as functions of a codeword, and the training burst (R113). A bit string is a number whose bit 0 is the first bit; a symbol string is a number with two bits a symbol, its level 0 to 3 from -3 to +3. -/
namespace Sys2Proof.Machine
open Sys2Proof

/-! ### PAM4 (R100 stage 5, R104) -/

/-- Bit 0 of each of `n` symbols. -/
def lowBits (n : Nat) : Nat := (4 ^ n - 1) / 3
/-- The bits of `n` symbols: the first of a pair is the level's upper half, the pair follows the Gray order 00, 01, 11, 10. -/
def pamBits (n x : Nat) : Nat :=
  let hi := Nat.land (x >>> 1) (lowBits n)
  let lo := Nat.land x (lowBits n)
  Nat.lor hi (Nat.xor hi lo <<< 1)
/-- The symbols of a bit string of `n` pairs. -/
def pamLevels (n x : Nat) : Nat :=
  let first := Nat.land x (lowBits n)
  let second := Nat.land (x >>> 1) (lowBits n)
  Nat.lor (Nat.xor first second) (first <<< 1)
/-- The bits of a received codeword; an inverted polarity exchanges -3 with +3 and -1 with +1. -/
def rxBits (inverted : Bool) (x : Symbols) : Nat :=
  pamBits 2720 (if inverted then Nat.xor x.toNat (2 ^ 5440 - 1) else x.toNat)

/-! ### RS(544,514) over GF(2^10) (R100 stage 4) -/

/-- Multiplication by the field's generator; the field polynomial is x^10 + x^3 + 1. PRESUMED (log entry 86): IEEE 802.3 Clause 91's. -/
def gfDouble (a : Nat) : Nat := if a < 512 then 2 * a else Nat.xor (2 * a) 0x409
def gfMulBits (a b : Nat) : Nat → Nat
  | 0 => 0
  | i + 1 => Nat.xor (gfDouble (gfMulBits a b i)) (if bitAt b (9 - i) then a else 0)
/-- The product of two field elements. -/
def gfMul (a b : Nat) : Nat := gfMulBits a b 10
def gfPow (a : Nat) : Nat → Nat
  | 0 => 1
  | n + 1 => gfMul a (gfPow a n)
/-- The inverse of a nonzero element: its power 1,022, by squares. -/
def gfInv (a : Nat) : Nat :=
  let sq := fun x => gfMul x x
  let r := [0, 1, 2, 3, 4, 5, 6, 7, 8].foldl (fun (e : Nat × Nat) _ => (sq e.1, gfMul e.2 (sq e.1))) (a, 1)
  r.2
/-- A power of the generator. -/
def gfExp : Nat → Nat
  | 0 => 1
  | n + 1 => gfDouble (gfExp n)
/-- Multiplication by the generator of 30 elements packed in 300 bits. -/
def gfDouble30 (v : Nat) : Nat :=
  let ones := (2 ^ 300 - 1) / 1023
  let top := Nat.land (v >>> 9) ones
  Nat.xor (Nat.xor (Nat.xor v (top <<< 9) <<< 1) top) (top <<< 3)
/-- The generator polynomial, product of (x - a^j) for j = 0 to 29, but its leading 1: the coefficient of x^29 first. -/
def rsGenerator : Nat := 0x82F422009E2E47F620C198B145A7737DFAE605EFB405E212513E51A8D46C00628398BB8A23F
/-- A field element times the generator polynomial; the powers of the generator are its rows. -/
def rsRows (f row : Nat) : Nat → Nat
  | 0 => 0
  | n + 1 => Nat.xor (if f % 2 == 1 then row else 0) (rsRows (f / 2) (gfDouble30 row) n)
def rsTimes (f : Nat) : Nat := rsRows f rsGenerator 10
/-- One data symbol through the encoder. -/
def rsStep (r d : Nat) : Nat := Nat.xor (r >>> 10) (rsTimes (Nat.xor d (r % 1024)))
def rsRun (data r : Nat) : Nat → Nat
  | 0 => r
  | n + 1 => rsRun (data >>> 10) (rsStep r (data % 1024)) n
/-- The 300 parity bits of 5,140 data bits; symbols and their bits in the order sent, a symbol's least significant bit first. -/
def rsParity (data : Nat) : Nat := rsRun data 0 514
/-- The polynomial that a list spells, lowest coefficient first, at a point. -/
def polyAt (p : List Nat) (x : Nat) : Nat := p.foldr (fun c a => Nat.xor c (gfMul a x)) 0
def polyAdd : List Nat → List Nat → List Nat
  | [], q => q
  | p, [] => p
  | a :: p, b :: q => Nat.xor a b :: polyAdd p q
def polyScale (c : Nat) (p : List Nat) : List Nat := p.map (gfMul c)
/-- Berlekamp and Massey: the error locator of the syndromes, with its register length. -/
structure Locator where
  c : List Nat
  b : List Nat
  len : Nat
  last : Nat
  deriving DecidableEq, Repr
def locatorStep (syn : List Nat) (n : Nat) (k : Locator) : Locator :=
  let d := (List.range (k.len + 1)).foldl (fun a i => Nat.xor a (gfMul (k.c.getD i 0) (syn.getD (n - i) 0))) 0
  let b := 0 :: k.b
  if d == 0 then { k with b := b }
  else
    let c := polyAdd k.c (polyScale (gfMul d (gfInv k.last)) b)
    if 2 * k.len ≤ n then ⟨c, k.c, n + 1 - k.len, d⟩ else { k with c := c, b := b }
def locator (syn : List Nat) : Locator := (List.range 30).foldl (fun k n => locatorStep syn n k) ⟨[1], [1], 0, 1⟩
/-- The errors of a received codeword from the remainder that its division leaves: (power of x, value), where there are at most 15. -/
def rsErrors (rem : Nat) : Option (List (Nat × Nat)) :=
  let r := (List.range 30).map (fun i => rem / 2 ^ (10 * (29 - i)) % 1024)
  let syn := (List.range 30).map (fun j => polyAt r (gfExp j))
  let k := locator syn
  let omega := (List.range 30).map (fun n => (List.range (n + 1)).foldl (fun a i => Nat.xor a (gfMul (k.c.getD i 0) (syn.getD (n - i) 0))) 0)
  let slope := (List.range 15).flatMap (fun i => [k.c.getD (2 * i + 1) 0, 0])
  let at_ := (List.range 544).filter (fun i => polyAt k.c (gfExp (1023 - i)) == 0)
  if k.len ≤ 15 && at_.length == k.len then
    some (at_.map (fun i =>
      let x := gfExp (1023 - i)
      (i, gfMul (gfExp i) (gfMul (polyAt omega x) (gfInv (polyAt slope x))))))
  else none
/-- The data bits of a received codeword and how many symbols were corrected; none = more than 15 symbols are wrong (R103). -/
def rsDecode (cw : Nat) : Option (Nat × Nat) :=
  let data := cw % 2 ^ 5140
  let rem := Nat.xor (rsParity data) (cw >>> 5140)
  if rem == 0 then some (data, 0)
  else
    match rsErrors rem with
    | none => none
    | some l =>
      let c := l.foldl (fun c e => Nat.xor c (e.2 <<< (10 * (543 - e.1)))) cw
      let d := c % 2 ^ 5140
      if rsParity d == c >>> 5140 && decide (l.length ≤ 15) then some (d, l.length) else none

/-! ### The scrambler 1 + x^39 + x^58 (R100 stage 3) -/

/-- Descrambles `n` bits that follow the 58 bits `h`, oldest first. -/
def descramble (h x n : Nat) : Nat :=
  let y := Nat.lor h (x <<< 58)
  Nat.xor (Nat.xor x y) (y >>> 19) % 2 ^ n
/-- Scrambles 32 bits at a time after the last 58 scrambled bits: what leaves, and the last 58 of it. -/
def scrambleFrom (h x acc : Nat) : Nat → Nat × Nat
  | 0 => (acc, h)
  | n + 1 =>
    let o := Nat.xor (Nat.xor x h) (h >>> 19) % 2 ^ 32
    let (r, h) := scrambleFrom (Nat.lor h (o <<< 58) >>> 32) (x >>> 32) acc n
    (Nat.lor o (r <<< 32), h)
/-- 5,120 bits, the scrambled bits of one codeword. -/
def scramble (h x : Nat) : Nat × Nat := scrambleFrom h x 0 160

/-! ### Blocks and units (R101, R102) -/

/-- A 64b/66b block: its sync header (control or data) and its 64 bits. -/
structure Block where
  ctl : Bool
  bits : DWord
  deriving DecidableEq, Repr
def Block.data (b : List Byte) : Block := ⟨false, BitVec.ofNat 64 (leNat b)⟩
def Block.fill : Block := ⟨true, 0xF0⟩
def Block.idleEnter : Block := ⟨true, 0xF1⟩
/-- The block type of R102. -/
def Block.legal (b : Block) : Bool := !b.ctl || decide (0xF0 ≤ b.bits.toNat % 256 ∧ b.bits.toNat % 256 ≤ 0xF2)
/-- The payloads of a unit's blocks from the first on, the first control block's type shortened to four bits. -/
def packBlocks : List Block → Bool → Nat
  | [], _ => 0
  | b :: r, short =>
    if b.ctl && short then b.bits.toNat % 16 + b.bits.toNat / 256 * 16 + packBlocks r false <<< 60
    else b.bits.toNat + packBlocks r short <<< 64
/-- Bits [256:1] of the unit of four blocks, and H. -/
def unitOf (l : List Block) : Bool × Nat :=
  if l.all (fun b => !b.ctl) then (true, packBlocks l false)
  else
    let flags := sumOf ((List.range 4).map (fun i => if (l.getD i Block.fill).ctl then 0 else 2 ^ i))
    (false, flags + packBlocks l true <<< 4)
def unpackBlocks (flags x : Nat) (short : Bool) : Nat → List Block
  | 0 => []
  | n + 1 =>
    let ctl := flags % 2 == 0
    if ctl && short then
      ⟨true, BitVec.ofNat 64 (0xF0 + x % 16 + x / 16 % 2 ^ 56 * 256)⟩ :: unpackBlocks (flags / 2) (x >>> 60) false n
    else ⟨ctl, BitVec.ofNat 64 x⟩ :: unpackBlocks (flags / 2) (x >>> 64) short n
/-- The four blocks of a unit; none where it is invalid (R101, R103). -/
def blocksOf (h : Bool) (x : Nat) : Option (List Block) :=
  if h then some (unpackBlocks 15 x false 4)
  else if x % 16 == 15 then none
  else
    let l := unpackBlocks (x % 16) (x >>> 4) true 4
    if l.all Block.legal then some l else none
def packUnits (h : Nat) : List (List Block) → Nat × Nat
  | [] => (0, 0)
  | u :: r =>
    let (hb, x) := unitOf u
    let (hs, xs) := packUnits h r
    (b2n hb + 2 * hs, x + xs <<< 256)
/-- Units interleaved for FEC: H, then 256 scrambled bits. -/
def weave (hs x : Nat) : Nat → Nat
  | 0 => 0
  | n + 1 => hs % 2 + (x % 2 ^ 256) * 2 + weave (hs / 2) (x >>> 256) n <<< 257
def unweave (x : Nat) : Nat → Nat × Nat
  | 0 => (0, 0)
  | n + 1 => let (hs, xs) := unweave (x >>> 257) n; (x % 2 + 2 * hs, x / 2 % 2 ^ 256 + xs <<< 256)
def fours {α : Type} : Nat → List α → List (List α)
  | 0, _ => []
  | n + 1, l => l.take 4 :: fours n (l.drop 4)
/-- Codeword bits of 80 blocks after the last 58 scrambled bits, and those that follow. -/
def encodeBits (h : Nat) (blocks : List Block) : Nat × Nat :=
  let (hs, x) := packUnits h (fours 20 blocks)
  let (y, h) := scramble h x
  let d := weave hs y 20
  (d + rsParity d <<< 5140, h)
/-- The symbols of 80 blocks. -/
def encodeCw (h : BitVec 58) (blocks : List Block) : Symbols × BitVec 58 :=
  let (c, n) := encodeBits h.toNat blocks
  (BitVec.ofNat 5440 (pamLevels 2720 c), BitVec.ofNat 58 n)
def unitsOf (hs x : Nat) : Nat → Option (List Block)
  | 0 => some []
  | n + 1 =>
    match blocksOf (hs % 2 == 1) (x % 2 ^ 256), unitsOf (hs / 2) (x >>> 256) n with
    | some a, some b => some (a ++ b)
    | _, _ => none
/-- What codeword bits carry: their blocks, none if the codeword is invalid (R103), the symbols corrected, and the last 58 scrambled bits. -/
def decodeBits (h c : Nat) : Option (List Block) × Nat × Nat :=
  match rsDecode c with
  | none => (none, 0, (unweave (c % 2 ^ 5140) 20).2 >>> 5062)
  | some (d, n) =>
    let (hs, y) := unweave d 20
    (unitsOf hs (descramble h y 5120) 20, n, y >>> 5062)

/-! ### What a codeword carries (R100, R102) -/

inductive Content where
  /-- the 640 bytes of a link frame -/
  | frame (bytes : List Byte)
  /-- an EQ codeword's control block -/
  | eq (block : DWord)
  /-- an idle-entry codeword -/
  | idle
  /-- another valid codeword: FILL, or blocks mixed as no transmitter mixes them -/
  | other
  | invalid
  deriving DecidableEq, Repr
def contentOf : Option (List Block) → Content
  | none => .invalid
  | some l =>
    if l.all (fun b => !b.ctl) then .frame (l.flatMap (fun b => toLE 8 b.bits.toNat))
    else if l.all (· == Block.idleEnter) then .idle
    else
      match l with
      | b :: r => if b.ctl && b.bits.toNat % 256 == 0xF2 && r.all (· == Block.fill) then .eq b.bits else .other
      | [] => .other
/-- The blocks of a link frame's codeword. -/
def frameBlocks (bytes : List Byte) : List Block := (List.range 80).map (fun i => Block.data (slice bytes (8 * i) 8))
def eqBlocks (b : DWord) : List Block := ⟨true, b⟩ :: List.replicate 79 Block.fill
def idleBlocks : List Block := List.replicate 80 Block.idleEnter
def fillBlocks : List Block := List.replicate 80 Block.fill

/-! ### The training burst (R113) -/

/-- PRBS13 as 13 bits of state, oldest first, give the next bit: x^13 + x^12 + x^2 + x + 1. -/
def prbs13 (s acc : Nat) : Nat → Nat
  | 0 => acc
  | n + 1 =>
    let b := b2n (bitAt s 0 != (bitAt s 1 != (bitAt s 11 != bitAt s 12)))
    b + prbs13 (s / 2 + b * 4096) acc n <<< 1
/-- 3,584 UI of -3 and +3 in turn, then the first 1,024 bits of PRBS13 from a seed of ones (log entry 86: the seed itself is not sent). -/
def trainingBurst : Burst :=
  BitVec.ofNat 8192 ((4 ^ 3584 - 1) / 15 * 12 + pamLevels 512 (prbs13 0x1FFF 0 1024) <<< 7168)

end Sys2Proof.Machine
end

