-- ==== Sys2Proof/Machine/LinkPrim.lean ====
section
/-! DEFINITION. Codewords sent (R100, R102), link frames (R78 to R80) and the lane-control exchange (R92): what other blocks need of a fabric port. -/
namespace Sys2Proof.Machine
open Sys2Proof

/-- A 640-byte link frame (R78): the two credit returns rotate over the classes (R85). -/
def frameBytes (l : Link) (ftype fseq pktoff : Nat) (body : List Byte) : List Byte :=
  let ta := l.repNext.toNat
  let tb := (ta + 1) % 8
  let w0 := ftype * 2 ^ 28 + fseq
  let w1 := (l.expect - 1).toNat * 65536 + b2n l.nak
  let w2 := ta * 2 ^ 29 + (tget 0 l.freed ta).toNat * 65536 + tb * 8192 + (tget 0 l.freed tb).toNat
  let b := toLE 4 w0 ++ toLE 4 w1 ++ toLE 4 w2 ++ toLE 4 (pktoff * 65536) ++ fit 620 body
  b ++ toLE 4 (crc32c b)
/-- A class's freed credits are reported: the balance that the partner may draw on grows by them (R85, R87). -/
def Link.report (tc : Nat) (l : Link) : Link :=
  let d := (tget 0 l.freed tc - tget 0 l.told tc).toNat
  { l with told := tset 0 l.told tc (tget 0 l.freed tc), rxBal := tmod 0 l.rxBal tc (· + d) }
/-- What a frame just sent leaves: its two classes have been reported, and the next two follow. -/
def Link.reported (l : Link) : Link :=
  let ta := l.repNext.toNat
  { (l.report ta).report ((ta + 1) % 8) with repNext := l.repNext + 2 }

/-- Sends 80 blocks as a codeword on a lane, through the scrambler that runs on from the lane's last. -/
def sendBlocks (k : Nat) (blocks : List Block) (s : State) : State :=
  let (c, h) := encodeCw (s.lane k).txScr blocks
  emit (.codeword k c) (s.modLane k (fun v => { v with txScr := h }))
/-- Sends one frame on a lane of a port. -/
def sendFrame (p i ftype fseq pktoff : Nat) (body : List Byte) (s : State) : State :=
  let l := s.link p
  sendBlocks (p + i) (frameBlocks (frameBytes l ftype fseq pktoff body)) (s.setLink p l.reported)
/-- The EQ control block that a lane sends (R108). The spec leaves to the receiver when to ask for PRESET; the MS9 never does (log entry 88). -/
def Lane.eqBlock (v : Lane) : DWord :=
  BitVec.ofNat 64 (0xF2 + b2n v.done * 2 ^ 8 + v.rseq.toNat * 2 ^ 10 + v.aecho.toNat * 2 ^ 14 + v.req.toNat * 2 ^ 18 + v.stat.toNat * 2 ^ 26)
/-- Sends one EQ codeword on a lane. -/
def sendEq (k : Nat) (s : State) : State := sendBlocks k (eqBlocks (s.lane k).eqBlock) s
/-- The indices of the lanes in use for transmit, ascending. -/
def Link.txList (l : Link) : List Nat := (List.range 8).filter (fun i => l.txact.getLsbD i)
def Link.rxList (l : Link) : List Nat := (List.range 8).filter (fun i => l.rxact.getLsbD i)
/-- A LANE_CTL frame (FTYPE 3) on every lane in use for transmit but one. -/
def sendLaneCtlFrames (p action idx except : Nat) (s : State) : State :=
  let l := s.link p
  forEach (l.txList.filter (· != except)) (fun i => sendFrame p i 3 l.nextFseq.toNat 0xFFFF [BitVec.ofNat 8 action, BitVec.ofNat 8 idx]) s
/-- The LANEIDX that the partner sends on a receive lane. -/
def Link.partnerIdx (l : Link) (i : Nat) : Nat :=
  match (List.range 8).find? (fun k => tget k l.laneOf k == i) with
  | some k => k
  | none => i
/-- The receive lane that carries the partner's LANEIDX. -/
def Link.laneFor (l : Link) (idx : Nat) : Nat := tget idx l.laneOf idx
/-- The receiver stops reading lane i and sends LANE_CTL OFF for it on its other lanes, to be repeated until answered (R92 steps 1 and 2). -/
def rxLaneOff (p i : Nat) (s : State) : State :=
  let idx := (s.link p).partnerIdx i
  let s := s.modLink p (fun l => { l with
    rxact := setBit l.rxact i false,
    laneCtl := l.laneCtl.filter (fun c => c.idx.toNat != idx) ++ [⟨false, BitVec.ofNat 3 idx, s.clk, s.clk⟩] })
  sendLaneCtlFrames p 1 idx i (s.modLane (p + i) (fun v => { v with st := if v.st == .retired then .retired else .out }))
/-- The receiver asks for lane i back: LANE_CTL ON. -/
def rxLaneOn (p i : Nat) (s : State) : State :=
  let idx := (s.link p).partnerIdx i
  let s := s.modLink p (fun l => { l with
    laneCtl := l.laneCtl.filter (fun c => c.idx.toNat != idx) ++ [⟨true, BitVec.ofNat 3 idx, s.clk, s.clk⟩] })
  sendLaneCtlFrames p 3 idx i s
/-- The transmitter sends one idle-entry codeword on a lane and goes to electrical idle (R111). -/
def txIdle (lane : Nat) (s : State) : State :=
  if (s.lane lane).txIdle then s
  else (sendBlocks lane idleBlocks s).modLane lane (fun v => { v with txIdle := true })
/-- The port runs on fewer lanes than it was built with in at least one direction: STATE is DEGRADED, otherwise UP (R88). -/
def settleUp (p : Nat) (s : State) : State :=
  let l := s.link p
  if !l.isUp then s
  else
    let full := s.txLanes p == s.width p && s.rxLanes p == s.width p
    let st : LinkState := if full then .up else .degraded
    if l.st == st then s else fire 15 (s.setLink p { l with st := st })
/-- Case A of R114 for a lane of a port. -/
def State.caseA (s : State) (p i : Nat) : Bool :=
  let l := s.link p
  l.isUp && s.cap p 5 && (l.txList.any (· != i)) && (l.rxList.any (· != i))

end Sys2Proof.Machine
end

