-- ==== Sys2Proof/Machine/Health.lean ====
section
/-! DEFINITION. Cruise scores (R361 to R365): penalties, their decay, and what a score below WATCH or DRAIN does to a part. -/
namespace Sys2Proof.Machine
open Sys2Proof

/-- 2^64 x 2^(-1/2^k), rounded down, for k = 1 to 32. -/
def halfPowers : List Nat :=
  [13043817825332782212, 15511800964685064948, 16915738899553466670, 17664662643191237676,
   18051468387014017850, 18248035989933441396, 18347121020861646923, 18396865112328554661,
   18421787711448657617, 18434261669329232139, 18440501815349552981, 18443622680442407997,
   18445183311048607332, 18445963675871538003, 18446353870663572145, 18446548971154807802,
   18446646522174239825, 18446695297877410579, 18446719685777359790, 18446731879739425374,
   18446737976723480912, 18446741025216264368, 18446742549462845018, 18446743311586182573,
   18446743692647863158, 18446743883178706403, 18446743978444128763, 18446744026076840128,
   18446744049893195856, 18446744061801373732, 18446744067755462673, 18446744070732507144]
/-- Penalty after `dt` ns at a half-life of `half` ns: whole half-lives by halving, the fraction of one to 32 binary places, rounded down (DESIGN CHOICE, log entry 12). -/
def decay (pen dt half : Nat) : Nat :=
  let n := dt / half
  if 64 ≤ n then 0
  else
    let frac := dt % half * 2 ^ 32 / half
    let p := (List.zip (List.range 32) halfPowers).foldl
      (fun p e => if bitAt frac (31 - e.1) then p * e.2 / 2 ^ 64 else p) pen
    p / 2 ^ n
/-- RES_CRUISE_CFG.HALF in ns; 0 is treated as 1. -/
def State.halfLife (s : State) : Nat := (max 1 s.res.half.toNat) * 3600 * 10 ^ 9

/-- The parts by kind: 0 lane, 1 engine, 2 SRAM bank, 3 wavelength (R361, R380). -/
def partKey (kind idx : Nat) : Nat := kind * 4096 + idx
def State.partOf (s : State) (kind idx : Nat) : Part := tget Part.reset s.res.parts (partKey kind idx)
def State.modPart (s : State) (kind idx : Nat) (f : Part → Part) : State :=
  { s with res.parts := tset Part.reset s.res.parts (partKey kind idx) (f (s.partOf kind idx)) }
/-- The penalty at this instant, in 10^-9. -/
def State.penalty (s : State) (kind idx : Nat) : Nat :=
  let p := s.partOf kind idx
  decay p.pen (s.clk - p.penAt) s.halfLife
/-- The cruise score: 1,000 less the penalty rounded up, at least 0 (R361). -/
def scoreOf (pen : Nat) : Nat := 1000 - divUp pen (10 ^ 9)
def State.score (s : State) (kind idx : Nat) : Nat := scoreOf (s.penalty kind idx)
/-- The plat's WATCH and DRAIN for a kind (R55). -/
def State.watchAt (s : State) (kind : Nat) : Nat :=
  let r := s.plt.plat.res
  (match kind with | 0 => r.watchL | 1 => r.watchE | 2 => r.watchB | _ => r.watchW).toNat
def State.drainAt (s : State) (kind : Nat) : Nat :=
  let r := s.plt.plat.res
  (match kind with | 0 => r.drainL | 1 => r.drainE | 2 => r.drainB | _ => r.drainW).toNat

/-- Firmware saves every penalty and the list of replaced banks (R365). -/
def saveScores (s : State) : State :=
  { s with
    nv.savedPen := s.res.parts.filterMap (fun e =>
      let p := decay e.2.pen (s.clk - e.2.penAt) s.halfLife
      if p = 0 then none else some (e.1, p)),
    nv.savedBanks := (s.res.parts.filter (fun e => e.2.st == .replaced)).map (fun e => (e.1 - partKey 2 0, true)) }

/-- The port and lane of a lane part can leave service now (R363). -/
def State.laneDrainable (s : State) (l : Nat) : Bool :=
  match s.portOfLane l with
  | none => false
  | some p =>
    s.caseA p (l - p) && (s.lane l).st != .recal && (s.lanePath l).fly == none && (s.lanePath l).calres != .running
      && !((s.opt.fly.any (fun f => f.2.st != .free && (f.2.laneA.toNat == l || f.2.laneB.toNat == l))))
/-- The lane leaves its receive direction by LANE_CTL OFF, and its transmit direction enters electrical idle. -/
def drainLane (l : Nat) (s : State) : State :=
  match s.portOfLane l with
  | none => s
  | some p =>
    let i := l - p
    let s := if (s.link p).rxact.getLsbD i then rxLaneOff p i s else s
    txIdle l (s.modLink p (fun k => { k with txact := setBit k.txact i false }))
/-- Whether a part can be drained now. -/
def State.drainable (s : State) (kind idx : Nat) : Bool :=
  match kind with
  | 0 => s.laneDrainable idx
  | 3 => (match s.laneOfPath idx with | some l => s.laneDrainable l | none => false)
  | 1 => true
  | _ =>
    match (Config.bankPart idx).toNat with
    | 0 => decide (8192 ≤ s.reorderCells (bankDistrict idx))
    | 1 => true
    | 3 => true
    | 4 => true
    | _ => false
/-- Takes a part out of service (R363). -/
def drainNow (kind idx : Nat) (s : State) : State :=
  match kind with
  | 0 => drainLane idx s
  | 3 => (match s.laneOfPath idx with | some l => drainLane l s | none => s)
  | 1 => { s with mil.withdrawn := tset false s.mil.withdrawn idx true }
  | _ =>
    let d := bankDistrict idx
    match (Config.bankPart idx).toNat with
    | 0 => { s with swc.quarantined := tmod 0 s.swc.quarantined d (· + 1) }
    | 1 => { s with lnd.quarantined := tmod 0 s.lnd.quarantined d (· + 16) }
    | _ => s
def cruiseLogOf (level kind idx : Nat) : Word := BitVec.ofNat 32 (level * 2 ^ 30 + kind * 2 ^ 28 + idx)
/-- Drains a part, or holds it in DRAINWAIT until its condition is met. -/
def drainPart (kind idx : Nat) (s : State) : State :=
  if s.drainable kind idx then
    raiseCruise 1 (drainNow kind idx (s.modPart kind idx (fun p => { p with st := .drained })))
  else raiseCruise 2 (s.modPart kind idx (fun p => { p with st := .drainWait }))
/-- What a penalty just raised does: a score that falls below WATCH or DRAIN marks or drains the part. -/
def crossed (kind idx before after : Nat) (s : State) : State :=
  let p := s.partOf kind idx
  let s := if after < s.watchAt kind ∧ s.watchAt kind ≤ before then
      raiseCruise 0 { (s.modPart kind idx (fun p => if p.st == .inService then { p with st := .watch } else p)) with
        res.cruiseLog := cruiseLogOf 1 kind idx }
    else s
  if after < s.drainAt kind ∧ s.drainAt kind ≤ before then
    let s := { s with res.cruiseLog := cruiseLogOf 2 kind idx }
    saveScores (if p.st == .drained || p.st == .replaced then s else drainPart kind idx s)
  else s
/-- An event of R362 adds its weight, in 10^-9. -/
def addPenalty (kind idx w : Nat) (s : State) : State :=
  let before := s.score kind idx
  let pen := s.penalty kind idx + w
  crossed kind idx before (scoreOf pen) (s.modPart kind idx (fun p => { p with pen := pen, penAt := s.clk }))
/-- A failed test, or the third mislock, sets the score to 0. -/
def zeroScore (kind idx : Nat) (s : State) : State :=
  let before := s.score kind idx
  crossed kind idx before 0 (s.modPart kind idx (fun p => { p with pen := max (s.penalty kind idx) (1000 * 10 ^ 9), penAt := s.clk }))

end Sys2Proof.Machine
end

