-- ==== Sys2Proof/Machine/Journal.lean ====
section
/-! DEFINITION. Service-lane ring messages and the twin's mirror journal (R371, R372): what a change to the mirrored state sends to the holder. -/
namespace Sys2Proof.Machine
open Sys2Proof

/-- The service lane of a ring direction: false = EAST, true = WEST (R50). -/
def State.ringLane (s : State) (west : Bool) : Nat := (if west then s.plt.plat.time.west else s.plt.plat.time.east).toNat
/-- TIME.ROLE is not 0: the device has ring lanes. -/
def State.inBlock (s : State) : Bool := s.plt.plat.time.role != 0
def sendRing (west : Bool) (type : Nat) (payload : List Byte) (s : State) : State :=
  if s.inBlock then sendSvc (s.ringLane west) type payload false s else s

/-- The common 24 bytes of a twin message (R372). -/
def twinHead (src dst : DWord) (hops : Nat) : List Byte := toLE 8 src.toNat ++ toLE 8 dst.toNat ++ toLE 1 hops ++ zeros 7
/-- The plat names a twin: 1 = EAST, 2 = WEST (R55). -/
def State.twin (s : State) : Nat := s.plt.plat.res.twin.toNat
/-- One JRNL message, with consecutive records, to the holder. -/
def sendJrnl (l : List JRec) (s : State) : State :=
  let west := s.twin == 2
  match l with
  | [] => s
  | r :: _ =>
    sendRing west 0x40 (twinHead s.nv.devid (Config.neighbour s.nv.devid (!west)) 0
      ++ toLE 8 r.seq.toNat ++ toLE 2 l.length ++ zeros 6 ++ l.flatMap (·.bytes)) s
/-- A record of 32 bytes: RKIND, WSEQ and the body. -/
def recBytes (rkind wseq : Nat) (body : List Byte) : List Byte := toLE 1 rkind ++ zeros 3 ++ toLE 4 wseq ++ fit 24 body
/-- Appends a record to the journal and sends it (R371). With 2^21 unacknowledged the mirror is LAGGING, until a full snapshot replaces what it lacks (R373). -/
def journalRec (tab : Bool) (bytes : List Byte) (s : State) : State :=
  if s.twin == 0 || s.res.own == .off || s.res.own == .lagging then s
  else if 2 ^ 21 ≤ s.res.journal.length then { s with res.own := .lagging }
  else
    let r : JRec := ⟨s.res.nextSeq, tab, fit 32 bytes⟩
    sendJrnl [r] { s with res.journal := s.res.journal ++ [r], res.nextSeq := s.res.nextSeq + 1 }
/-- A continuation record. -/
def journalRaw (bytes : List Byte) (s : State) : State := journalRec false bytes s
/-- Journals one accepted change. -/
def journal (rkind : Nat) (wseq : Nat) (body : List Byte) (s : State) : State := journalRec (rkind == 1) (recBytes rkind wseq body) s

end Sys2Proof.Machine
end

