-- ==== Sys2Proof/Machine/FenceOps.lean ====
section
/-! DEFINITION. The Landing completion ring (R230), and what every block does to the fences: their records, their counts of markers and of old-epoch packets, and their completion (R248 to R255). -/
namespace Sys2Proof.Machine
open Sys2Proof

/-- Writes a 32-byte record at LND_RING_HEAD, or loses it where the ring is full or disabled (R230, R255). -/
def lndRecord (words : List Nat) (msi : Bool) (s : State) : State :=
  let n := 2 ^ s.lnd.ringLog2.toNat
  let h := s.lnd.ringHead.toNat
  if !s.lnd.ringEnable || (h + 1) % n == s.lnd.ringTail.toNat % n then
    raiseLnd 4 (count (evNo 24 0x006 0) s)
  else
    let s := wrMem s (s.lnd.ringBase.toNat + 32 * h) (words.flatMap (toLE 4))
    let s := raiseLnd 0 { s with lnd.ringHead := BitVec.ofNat 20 ((h + 1) % n) }
    if msi then fire 6 s else s

/-- A fence record (R255): 4 FENCE_DONE, 5 FENCE_TIMEOUT, 6 FENCE_ABORT. -/
def fenceRecord (event : Nat) (f : Fence) (s : State) : State :=
  let t := s.now
  lndRecord [event * 2 ^ 24 + f.tag.toNat, f.job.toNat, f.marks.toNat, f.expect.toNat,
    b2n f.flipped * 2 ^ 31 + b2n f.oldbank * 2 ^ 30 + sat 0xFFFFF f.drainq.toNat, f.oldpre.toNat,
    t % 2 ^ 32, t / 2 ^ 32 % 2 ^ 32] f.msi s
/-- R252: MARKS at least EXPECT, DRAINQ 0 and OLDPRE 0. -/
def Fence.complete (f : Fence) : Bool := decide (f.expect.toNat ≤ f.marks.toNat) && f.drainq == 0 && f.oldpre == 0
/-- Every fence that is now complete writes FENCE_DONE and is disarmed. -/
def settleFences (s : State) : State :=
  let done := s.lnd.fences.filter Fence.complete
  forEach done (fenceRecord 4) { s with lnd.fences := s.lnd.fences.filter (fun f => !f.complete) }
def modFences (f : Fence → Fence) (s : State) : State := { s with lnd.fences := s.lnd.fences.map f }
/-- A drain marker is consumed at the head of its queue: DRAINQ of each fence it counts in falls (R251). -/
def consumeMarker (ids : List Nat) (s : State) : State :=
  settleFences (modFences (fun f => if ids.contains f.id then { f with drainq := f.drainq - 1 } else f) s)
/-- The fences that follow a packet: armed for its job, while its bank is DRAINING. -/
def State.bankState (s : State) (b : Bool) : BankState := if b then s.fwd.stB else s.fwd.stA
def State.fencesOf (s : State) (p : Pkt) : List Nat :=
  if s.bankState p.h.epoch == .draining then (s.lnd.fences.filter (fun f => f.job == p.h.job)).map (·.id) else []
/-- A packet stamped with the DRAINING bank begins its lookup: it counts in OLDPRE (R251 step 3). -/
def preEnter (p : Pkt) (s : State) : State :=
  let ids := s.fencesOf p
  modFences (fun f => if ids.contains f.id then { f with oldpre := f.oldpre + 1, flipped := true, oldbank := p.h.epoch } else f) s
/-- A packet leaves OLDPRE. -/
def preLeave (p : Pkt) (s : State) : State :=
  if !p.counted then s
  else
    let ids := s.fencesOf p
    settleFences (modFences (fun f => if ids.contains f.id then { f with oldpre := f.oldpre - 1 } else f) s)
/-- One more marker is counted toward a fence (R249, R252). -/
def fenceMark (job : BitVec 20) (tag : BitVec 12) (s : State) : State :=
  match s.lnd.fences.find? (fun f => f.job == job && f.tag == tag) with
  | none => count (evNo 24 0x004 0) s
  | some f =>
    if f.expect.toNat ≤ f.marks.toNat then count (evNo 24 0x005 0) s
    else settleFences (modFences (fun g => if g.id == f.id then { g with marks := g.marks + 1 } else g) s)

end Sys2Proof.Machine
end

