-- ==== Sys2Proof/Machine/Threads.lean ====
section
/-! DEFINITION. What the Mill's threads stand at: program images in the store, the side of a binding that its threads run on, instruction words, tiles that instructions wait for, engines in service, and the top-down slots of Tally (R279 to R285, R292, R306, R431). -/
namespace Sys2Proof.Machine
open Sys2Proof

/-! ### Images (R292) -/

def storeKey (d slot : Nat) : Nat := 512 * d + slot
def State.image (s : State) (d slot : Nat) : List Byte := tget [] s.mil.store (storeKey d slot)
def imgTregs (b : List Byte) : Nat := u8At b 6
def imgWyards (b : List Byte) : Nat := u8At b 7
def imgCode (b : List Byte) : Nat := u32At b 8
def imgData (b : List Byte) : Nat := u32At b 12
def imgSegment (b : List Byte) : Nat := u32At b 16
def imgEntry (b : List Byte) : Nat := u32At b 20
def imgWycap (b : List Byte) : Nat := u32At b 24
def imgKinds (b : List Byte) : Nat := u8At b 28
/-- The initial data of an image. -/
def imgInit (b : List Byte) : List Byte := slice b (64 + 8 * imgCode b) (imgData b)
def State.placeImage (s : State) (p : Place) : List Byte := s.image p.district p.slot

/-! ### The side of a binding that its threads run on -/

/-- During a handover the old threads work in the old yards; the new ones have not started (R301). -/
structure Side where
  place : Place
  threads : Tab Thread
  tiles : Tab Tile
  scratch : Tab Byte
  yards : Tab (List YItem)
def Binding.side (b : Binding) : Side :=
  match b.oldPlace with
  | some p => ⟨p, b.oldThreads, b.oldTiles, b.oldScratch, b.oldYards⟩
  | none => ⟨b.place, b.threads, b.tiles, b.scratch, b.yards⟩
def State.side (s : State) (bid : Nat) : Option Side := (s.bindOf bid).map Binding.side
def Side.yard (v : Side) (y : Nat) : List YItem := tget [] v.yards y

/-! ### Threads (R281, R282, R284) -/

def thBid (t : Th) : Nat := t.bind.toNat
/-- The thread's key within its binding, and within the device. -/
def thKey (t : Th) : Nat := 16 * t.core.val + t.th.val
def thId (t : Th) : Nat := 128 * thBid t + thKey t
def State.thread (s : State) (t : Th) : Thread :=
  match s.side (thBid t) with
  | some v => tget Thread.reset v.threads (thKey t)
  | none => Thread.reset
/-- A scalar register; X0 reads 0. -/
def State.xr (s : State) (t : Th) (n : Nat) : Nat := if n == 0 then 0 else (tget 0 (s.thread t).x n).toNat
/-- The core of a thread, as 8 x cluster + core. -/
def State.gcore (s : State) (t : Th) : Nat :=
  match s.side (thBid t) with
  | some v => 8 * v.place.district + t.core.val
  | none => 0
def State.residentOn (s : State) (bid c : Nat) : Bool :=
  match s.bindOf bid with
  | some b => b.resident.getLsbD c
  | none => false
/-- The bindings that have threads on a core of the device. -/
def State.bindsOn (s : State) (g : Nat) : List (Nat × Binding) :=
  s.mil.binds.filterMap (fun e => match e.2 with
    | some b => if b.side.place.district == g / 8 && b.side.place.cores.getLsbD (g % 8) then some (e.1, b) else none
    | none => none)

/-! ### Instruction words, and the tiles that they wait for (R280, R285, R286) -/

/-- The fields of an instruction word. -/
structure Ins where
  d : Nat
  s1 : Nat
  s2 : Nat
  s3 : Nat
  fmt : Nat
  mod : Nat
  imm : Nat
  deriving DecidableEq, Repr
def insOf (w : Nat) : Ins := ⟨fld w 50 6, fld w 44 6, fld w 38 6, fld w 32 6, fld w 24 8, fld w 16 8, fld w 0 16⟩
/-- The instruction word of a thread at a place relative to its pc: opcode and fields; none beyond the image. -/
def Side.insAt (s : State) (v : Side) (pc : Nat) : Option (Nat × Ins) :=
  let img := s.placeImage v.place
  if pc < imgCode img then some (fld (u64At img (64 + 8 * pc)) 56 8, insOf (u64At img (64 + 8 * pc))) else none
/-- The tile registers that an instruction reads, and those that it writes (R286). -/
def tileUse (o : Nat) (i : Ins) : List Nat × List Nat :=
  let n := fld i.imm 0 4 + 1
  match o with
  | 0x20 => ([], [i.d])
  | 0x21 => ([i.s1], [])
  | 0x22 => ([], [i.d])
  | 0x30 => (rangeFrom i.s1 n ++ rangeFrom i.s2 n, [i.d])
  | 0x40 => ([i.s1, i.s2], [i.d])
  | 0x41 => ([i.s1, i.s2], [i.d])
  | 0x42 => (i.s1 :: (if bitAt i.mod 0 then [i.s2] else []), [i.d])
  | 0x43 => ([i.s1], [i.d])
  | 0x44 => ([i.s1], [i.d])
  | 0x50 => ([i.s1], [i.d])
  | 0x60 => (i.s1 :: (if i.fmt == 0x0C && !bitAt i.mod 6 then [i.s2] else []), [i.d])
  | 0x61 => ([i.s1], [i.d])
  | 0x70 => (rangeFrom i.s2 n, [])
  | 0x71 => (rangeFrom i.s2 n, [])
  | _ => ([], [])
/-- The instructions of a core's threads that are not complete: those of threads switched out until their access, or their packet's acceptance, completes. -/
def Side.inFlight (s : State) (v : Side) (core : Nat) : List (Nat × Ins) :=
  (v.threads.filter (fun e => e.1 / 16 == core && e.2.st == .switched && (e.2.waits == .access || e.2.waits == .output))).filterMap
    (fun e => v.insAt s (e.2.pc - 1))
/-- The thread waits on a tile (R280): an incomplete instruction of its binding writes one of its source or destination tiles, or reads its destination tile. -/
def State.tileWaits (s : State) (id : Nat) : Bool :=
  match s.side (id / 128) with
  | none => false
  | some v =>
    match v.insAt s (tget Thread.reset v.threads (id % 128)).pc with
    | none => false
    | some (o, i) =>
      let (rd, wr) := tileUse o i
      (v.inFlight s (id % 128 / 16)).any (fun e =>
        let (rd', wr') := tileUse e.1 e.2
        wr'.any (rd ++ wr).contains || rd'.any wr.contains)

/-! ### Engines (R263, R306) -/

/-- Engines per core that the governors withdraw, highest-numbered first: an engine that both take counts once (R35, R366). -/
def State.govLevel (s : State) (d : Nat) : Nat := max s.pwr.plevel.toNat (tget Gov.reset s.res.gov d).level.toNat
/-- An engine of a core is withdrawn: by a drain or a test, or by a governor. -/
def State.engineOut (s : State) (g e : Nat) : Bool :=
  tget false s.mil.withdrawn (12 * g + e) || decide (12 ≤ e + s.govLevel (g / 8))
/-- The engines in service of a core, by number on it. -/
def State.engines (s : State) (g : Nat) : List Nat :=
  if s.coreOn g then (List.range 12).filter (fun e => !s.engineOut g e) else []
/-- MIL_ARITH.ENGINES: engines in service device-wide (R278). -/
def State.enginesNow (s : State) : Nat := sumOf ((List.range 128).map (fun g => (s.engines g).length))
/-- The engine that an entry of a core's share table names; an engine out of service has lost its entries. -/
def State.engineFor (s : State) (g i : Nat) : Option Nat :=
  let l := s.engines g
  let c := s.coreOf g
  let e := tget 0 c.share i
  if e != 0 && l.contains (e - 1) then some (e - 1)
  else l[Config.shareEntry l (l.map (fun e => tget 0 c.ops e)) i % max 1 l.length]?

/-! ### Top-down slots (R431) -/

/-- Tokens that a district's logic counts in the next `dt` ns, at its measured rate (R20). -/
def State.tokensIn (s : State) (d dt : Nat) : Nat :=
  let r := (tget 0 s.glb.dtokNow d).toNat
  r * (s.clk + dt) / 1000 - r * s.clk / 1000
/-- The engines of a core in whose share table entries a TMMA waits on operands: its thread stands there, and waits on a tile or on its own access. -/
def State.wanted (s : State) (g : Nat) : List Nat :=
  (s.bindsOn g).flatMap (fun e =>
    let v := e.2.side
    let here := v.threads.filter (fun h => h.1 / 16 == g % 8 && e.2.resident.getLsbD (g % 8))
    here.filterMap (fun h =>
      match v.insAt s h.2.pc with
      | some (0x30, i) =>
        if (h.2.st == .switched && h.2.waits == .access) || (h.2.st == .ready && s.tileWaits (128 * e.1 + h.1))
        then s.engineFor g ((if i.s3 == 0 then 0 else (tget 0 h.2.x i.s3).toNat) % 64) else none
      | _ => none))
/-- An engine's slots in `tok` tokens: those of operations that ended before their time had passed are counted already; the others are idle, starved-back where a TMMA waits for the engine, and starved-front otherwise. -/
def engineSlots (g tok : Nat) (wanted : Bool) (e : Nat) (s : State) : State :=
  let busy := tget 0 s.tly.slots (12 * g + e)
  let s := { s with tly.slots := tset 0 s.tly.slots (12 * g + e) (busy - tok) }
  if tok ≤ busy then s else countN (evNo 28 (if wanted then 0x003 else 0x002) g) (tok - busy) s
/-- The slots of the engines in service of a core. -/
def coreSlots (dt g : Nat) (s : State) : State :=
  let tok := s.tokensIn (g / 8) dt
  if tok == 0 then s
  else
    let w := s.wanted g
    forEach (s.engines g) (fun e s => engineSlots g tok (w.contains e) e s) s
/-- Every core counts its slots of the next `dt` ns. -/
def topDown (dt : Nat) (s : State) : State := forEach (List.range 128) (coreSlots dt) s
/-- An operation of `tok` tokens ends on an engine: its slots are retired, or wasted where its result is discarded. -/
def opSlots (g e tok : Nat) (wasted : Bool) (s : State) : State :=
  countN (evNo 28 (if wasted then 0x001 else 0x000) g) tok { s with tly.slots := tmod 0 s.tly.slots (12 * g + e) (· + tok) }

end Sys2Proof.Machine
end

