-- ==== Sys2Proof/Machine/SwcOps.lean ====
section
/-! DEFINITION. The switch core's shared operations (R160 to R182): ages, credits, the epoch count, discards, header capture, writing to output queues, spraying, and the packets the MS9 originates. -/
namespace Sys2Proof.Machine
open Sys2Proof

/-- The port that a next hop names by itself. -/
def Hop.port? : Hop → Option Nat
  | .port n => some n
  | _ => none

/-! ### Age, epoch count and credits -/

/-- The age of a packet in ns (R27). -/
def State.age (s : State) (p : Pkt) : Nat := s.now - p.tin
/-- The age exceeds AGE of the class (R164). -/
def State.aged (s : State) (p : Pkt) : Bool := decide (s.ageNs p.h.tc < s.age p)
/-- A packet enters the count of its epoch (R150). -/
def enterCount (b : Bool) (s : State) : State :=
  if b then { s with fwd.ecntB := s.fwd.ecntB + 1 } else { s with fwd.ecntA := s.fwd.ecntA + 1 }
def State.ecnt (s : State) (b : Bool) : Word := if b then s.fwd.ecntB else s.fwd.ecntA
/-- A bank is DRAINING and its count is 0 (R150). -/
def State.drained (s : State) : Bool :=
  (s.fwd.stA == .draining && s.fwd.ecntA == 0) || (s.fwd.stB == .draining && s.fwd.ecntB == 0)
/-- A packet leaves the count of its epoch; DRAINED may rise. -/
def leaveCount (p : Pkt) (s : State) : State :=
  if !p.counted then s
  else
    let s := if p.h.epoch then { s with fwd.ecntB := s.fwd.ecntB - 1 } else { s with fwd.ecntA := s.fwd.ecntA - 1 }
    if s.bankState p.h.epoch == .draining && s.ecnt p.h.epoch == 0 then raiseFwd 0 s else s
/-- The classes that carry credits (R84). -/
def creditClass (tc : Nat) : Bool := tc != 5 && tc != 6
/-- The ingress port returns the credits that a packet still holds (R86). Those of a packet held across a retrain of its port go to the link as newly trained, whose counts began afresh (log entry 89). -/
def returnCredit (p : Pkt) (s : State) : State :=
  if !p.cred || 2048 ≤ p.inPort || !creditClass p.h.tc then s
  else
    let n := creditsOf p.inSize
    s.modLink p.inPort (fun l => { l with
      freed := tmod 0 l.freed p.h.tc (fun v => v + BitVec.ofNat 13 n) })

/-! ### Queues -/

def QItem.cells : QItem → Nat
  | .pkt p => p.cells
  | .comb p _ => p.cells
  | .marker _ => 0
def QItem.isPkt : QItem → Bool
  | .marker _ => false
  | _ => true
def QItem.pkt? : QItem → Option Pkt
  | .pkt p => some p
  | .comb p _ => some p
  | .marker _ => none
/-- Cells that a queue holds (R160). -/
def Queue.depth (q : Queue) : Nat := sumOf (q.items.map QItem.cells)
def State.depth (s : State) (p tc : Nat) : Nat := (s.queue (queueKey p tc)).depth
/-- The queue accepts a packet of this many cells: its count stays at or below its limit. -/
def State.roomFor (s : State) (p tc cells : Nat) : Bool := decide (s.depth p tc + cells ≤ s.limit p tc)
/-- The group virtual time of a class: TC6 and TC5, or the rest (R168). -/
def Sched.v (c : Sched) (tc : Nat) : BitVec 48 := if tc == 5 || tc == 6 then c.vS else c.vU
/-- The later of two virtual times, compared modulo 2^48. -/
def laterOf (a b : BitVec 48) : BitVec 48 := if (a - b).toNat < 2 ^ 47 then a else b
/-- A packet of `size` bytes becomes the head: its start and finish tags (R168). -/
def headTag (s : State) (p tc : Nat) (wasEmpty : Bool) (size : Nat) (q : Queue) : Queue :=
  let st := if wasEmpty then laterOf q.f ((s.sched p).v tc) else q.f
  let w := (s.cls tc).weight.toNat
  let step := (size + s.plt.plat.overhead.toNat) * 256 / max 1 w
  { q with headS := st, f := st + BitVec.ofNat 48 step }
/-- Splits off the drain markers at the front. -/
def frontMarkers : List QItem → List Nat × List QItem
  | .marker ids :: r => let (a, b) := frontMarkers r; (ids ++ a, b)
  | l => ([], l)
/-- Markers that stand at the head are consumed (R162). -/
def consumeFront (key : Nat) (s : State) : State :=
  let q := s.queue key
  let (ids, rest) := frontMarkers q.items
  if ids.isEmpty && rest.length == q.items.length then s
  else forEach ids (fun i => consumeMarker [i]) (s.setQueue key { q with items := rest })
/-- The queue's items after a removal: markers now at the head are consumed and a new head packet takes its tags. -/
def settleQueue (p tc : Nat) (items : List QItem) (newHead : Bool) (s : State) : State :=
  let key := queueKey p tc
  let s := consumeFront key (s.modQueue key (fun q => { q with items := items }))
  match (s.queue key).items.findSome? QItem.pkt? with
  | some k => if newHead then s.modQueue key (headTag s p tc false k.size) else s
  | none => s
/-- What a congestion map counts for a port (R205). -/
def modMap (p : Nat) (f : MapCnt → MapCnt) (s : State) : State :=
  { s with tmb.mapCnt := tset MapCnt.zero s.tmb.mapCnt p (f (tget MapCnt.zero s.tmb.mapCnt p)) }
/-- Appends an item at the tail. -/
def pushItem (p tc : Nat) (it : QItem) (s : State) : State :=
  let key := queueKey p tc
  let q := s.queue key
  let empty := !(q.items.any QItem.isPkt)
  let q := { q with items := q.items ++ [it] }
  let d := q.depth
  let q := { q with maxd := max q.maxd d, smax := max q.smax d }
  let s := if tc == 5 || tc == 6 then s else modMap p (fun m => { m with maxDepth := max m.maxDepth d }) s
  let q := match it.pkt? with
    | some k => if empty then headTag s p tc true k.size q else q
    | none => q
  s.setQueue key q
/-- A drain marker at the tail of a queue: with no packet ahead of it, it is consumed at once. -/
def pushMarker (p tc : Nat) (ids : List Nat) (s : State) : State :=
  if ids.isEmpty then s
  else
    let s := modFences (fun f => if ids.contains f.id then { f with drainq := f.drainq + 1, flipped := true } else f) s
    consumeFront (queueKey p tc) (pushItem p tc (.marker ids) s)

/-! ### Header capture (R179 to R182) -/

/-- The reasons of R181: passed, windfall, other discard. -/
inductive Fate where
  | pass | windfall | discard
  deriving DecidableEq, Repr
def Fate.code : Fate → Nat
  | .pass => 0 | .windfall => 1 | .discard => 2
/-- A capture rule selects the packet. -/
def ruleMatches (s : State) (n : Nat) (fate : Fate) (p : Pkt) (out : Option Nat) : Bool :=
  let sel := (tget 0 s.swc.capsel n).toNat
  let flt := (tget 0x80000000 s.swc.capflt n).toNat
  let port := fld sel 0 11
  bitAt sel 31
    && bitAt sel (match fate with | .windfall => 30 | .discard => 29 | .pass => 28)
    && bitAt sel (20 + p.h.tc)
    && (bitAt sel 19 || (if bitAt sel 18 then p.inPort == port else out == some port))
    && (bitAt flt 31 || fld flt 0 20 == p.h.job.toNat)
/-- One capture record in the ring, which always wraps (R180). -/
def writeCapture (rule : Nat) (fate : Fate) (dcode : Nat) (p : Pkt) (out : Option Nat) (depth : Nat) (s : State) : State :=
  let size := 2 ^ s.swc.capSize.toNat
  let bytes := p.h.bytes ++ toLE 8 p.tin ++ toLE 8 s.now
    ++ toLE 2 (if p.inPort < 2048 then p.inPort else 0xFFFF) ++ toLE 2 (out.getD 0xFFFF)
    ++ toLE 4 depth ++ toLE 1 fate.code ++ toLE 1 dcode ++ toLE 1 rule ++ zeros 5
  let h := s.swc.capHead.toNat % size
  let s := wrMem s (s.swc.capBase.toNat + 64 * h) bytes
  let full := decide (size ≤ s.swc.capUnread)
  let s := { s with swc.capHead := BitVec.ofNat 24 ((h + 1) % size), swc.capUnread := if full then size else s.swc.capUnread + 1 }
  if full then raiseSwc 2 (count (evNo 16 0x020 0) s) else s
/-- The lowest-numbered matching rule takes the packet, one match in 2^SHIFT (R179); the rule that has recorded it. -/
def record (fate : Fate) (dcode : Nat) (p : Pkt) (out : Option Nat) (s : State) : State × Option Nat :=
  if !s.swc.capture then (s, none)
  else
    match (List.range 16).find? (fun n => ruleMatches s n fate p out) with
    | none => (s, none)
    | some n =>
      let k := tget 0 s.swc.capCnt n
      let s := { s with swc.capCnt := tset 0 s.swc.capCnt n (k + 1) }
      if k % 2 ^ fld (tget 0 s.swc.capsel n).toNat 13 4 != 0 then (s, none)
      else
        let depth := match out with | some q => s.depth q p.h.tc | none => 0
        (writeCapture n fate dcode p out depth s, some n)
/-- A copy to MPORT in TC0 with MIRROR = 1, or a MIRROR_DROP (R182). A copy that is dropped is recorded where a rule selects it, and is not itself mirrored; one that is written makes no record (log entry 93). -/
def mirrorCopy (rule : Nat) (p : Pkt) (s : State) : State :=
  let mport := fld (tget 0x80000000 s.swc.capflt rule).toNat 20 11
  let c : Pkt := { p with h := (p.h.unsched.setTc 0).setMirror, counted := false, cred := false, thread := none, marker := none }
  if s.glb.state == .cordoned then s
  else if s.roomFor mport 0 c.cells then
    countN (evNo 16 0x001 (queueKey mport 0)) c.cells (count (evNo 16 0x000 (queueKey mport 0)) (pushItem mport 0 (.pkt c) s))
  else (record .discard 20 c (some mport) (countDiscard 20 p.inPort s)).1
/-- A packet's fate is decided: a record, and a copy where its rule mirrors (R179, R182). -/
def capture (fate : Fate) (dcode : Nat) (p : Pkt) (out : Option Nat) (s : State) : State :=
  match record fate dcode p out s with
  | (s, some n) => if bitAt (tget 0 s.swc.capsel n).toNat 17 then mirrorCopy n p s else s
  | (s, none) => s

/-! ### Discards -/

/-- A packet is discarded for a reason other than age: counted (R423), captured where a DROP rule selects it, its credits returned, out of the epoch count and OLDPRE. -/
def discard (dcode : Nat) (p : Pkt) (out : Option Nat) (s : State) : State :=
  returnCredit p (leaveCount p (preLeave p (capture .discard dcode p out (countDiscard dcode p.inPort s))))
/-- A discard from an output queue: the packet counts no longer in OLDPRE. -/
def discardQ (dcode : Nat) (p : Pkt) (port : Nat) (s : State) : State :=
  leaveCount p (capture .discard dcode p (some port) (countDiscard dcode p.inPort s))
/-- Windfall (R164), counted per port and class where the egress port is resolved. -/
def windfall (p : Pkt) (out : Option Nat) (queued : Bool) (s : State) : State :=
  let s := countDiscard 1 p.inPort s
  let s := match out with
    | some q => modMap q (fun m => { m with wind := m.wind + 1 }) (count (evNo 16 0x002 (queueKey q p.h.tc)) s)
    | none => s
  let s := capture .windfall 1 p out s
  returnCredit p (leaveCount p (if queued then s else preLeave p s))

/-! ### Writing to an output queue -/

/-- Writes an item that carries a packet to an output queue: counters, credits, capture by PASS rules, and the drain marker that counts in the named fences behind it (R86, R150, R251). -/
def putQueue (port : Nat) (mk : Pkt → QItem) (pre : List Nat) (p : Pkt) (s : State) : State :=
  let tc := p.h.tc
  let key := queueKey port tc
  let s := returnCredit p (if p.counted then s else enterCount p.h.epoch s)
  let p' : Pkt := { p with counted := true, cred := false, thread := none }
  let s := pushItem port tc (mk p') s
  let s := countN (evNo 16 0x001 key) p.cells (count (evNo 16 0x000 key) s)
  let s := capture .pass 0 p' (some port) s
  preLeave p (pushMarker port tc pre s)

/-! ### Combining (R316 to R321) -/

def State.combOf (s : State) (id : Nat) : Option CombEnt := s.mem.ents.find? (fun e => e.id == id)
def modComb (id : Nat) (f : CombEnt → CombEnt) (s : State) : State :=
  { s with mem.ents := s.mem.ents.map (fun e => if e.id == id then f e else e) }
/-- The entry is freed when its request begins transmission or is discarded (R318). -/
def freeComb (id : Nat) (s : State) : State := { s with mem.ents := s.mem.ents.filter (fun e => e.id != id) }
/-- Operand width of an atomic in bytes. -/
def Hdr.atomWidth (h : Hdr) : Nat := fld h.fmt 0 4
/-- Bytes of the target that a request touches: first, and one past the last. -/
def Hdr.span (h : Hdr) : Nat × Nat :=
  (h.addr, h.addr + (if h.kind == 4 then h.ctx else if h.kind == 5 then h.len else h.atomWidth))
def Hdr.isRequest (h : Hdr) : Bool := decide (4 ≤ h.kind) && decide (h.kind ≤ 6)
/-- Two requests touch overlapping bytes of one target. -/
def overlaps (a b : Hdr) : Bool :=
  a.dst == b.dst && decide (a.span.1 < b.span.2) && decide (b.span.1 < a.span.2)
/-- R316, for a packet about to be written to a port's queue. -/
def combinable (s : State) (port : Nat) (p : Pkt) : Bool :=
  let h := p.h
  let w := h.atomWidth
  let op := fld h.fmt 4 4
  s.mem.combine && !h.mirror && h.tc == 4 && h.epoch == s.fwd.cur && decide (p.inPort < 2048) && s.cap p.inPort 3
    && s.cap port 3 && !s.isC2 port
    && ((h.kind == 4 && h.len == 0)
      || (h.kind == 6 && (op == 0 || op == 1 || op == 2 || op == 5) && (w == 4 || w == 8) && h.addr % w == 0 && h.len == w))
/-- MEM_CTRL.MAXN; 0 and 1 are treated as 2. -/
def State.maxn (s : State) : Nat := max 2 s.mem.maxn.toNat
/-- Condition 1 of R317: the same DST, JOB, KIND, ADDR and EPOCH, and the same read length, or operation and width. -/
def sameRequest (a b : Hdr) : Bool :=
  a.dst == b.dst && a.job == b.job && a.kind == b.kind && a.addr == b.addr && a.epoch == b.epoch
    && (if a.kind == 4 then a.ctx == b.ctx else a.fmt == b.fmt)
/-- The open entry of this queue that the request merges into (R317). -/
def mergeEntry (s : State) (port : Nat) (p : Pkt) : Option CombEnt :=
  if !combinable s port p then none
  else s.mem.ents.find? (fun e =>
    !e.closed && e.queue == queueKey port 4 && decide (e.reqs.length < s.maxn)
      && !e.pairs.contains (p.h.src, p.h.dst)
      && (match e.reqs with | r :: _ => sameRequest r.h p.h | [] => false))
/-- The combined request of an entry (R319). -/
def combinedPkt (s : State) (e : CombEnt) : Option Pkt :=
  match e.reqs with
  | [] => none
  | r :: _ =>
    let h := r.h
    let n := e.reqs.length
    let hd := mkHdr h.kind 4 h.epoch (16 + 16 * n) h.dst s.fwd.mgmtEid h.job.toNat 0 h.ctx 48 h.fmt h.w5 (fld h.addr 48 16) (fld h.addr 32 16) 0
    let recs := e.reqs.flatMap (fun q =>
      toLE 4 q.h.src.toNat ++ toLE 2 q.h.fence.toNat ++ zeros 2 ++ (if h.kind == 4 then zeros 8 else fit 8 (q.payload.take h.atomWidth)))
    some { h := hd.setHops (maxOf (e.reqs.map (fun q => q.h.hops))), payload := toLE 2 n ++ toLE 1 1 ++ zeros 13 ++ recs,
           tin := minOf r.tin (e.reqs.map (·.tin)), inPort := 2048 + districtOf (e.queue / 8), c2 := false, counted := true }
/-- What an item would send: an open entry of two or more requests, their combined request. -/
def State.itemPkt (s : State) (it : QItem) : Option Pkt :=
  match it with
  | .marker _ => none
  | .pkt p => some p
  | .comb p id =>
    match s.combOf id with
    | some e => if !e.closed && 2 ≤ e.reqs.length then combinedPkt s e else some p
    | none => some p
/-- An entry closes (R318): with two or more requests its item becomes the combined request, which without a management EID is not sent (R132). -/
def closeComb (id : Nat) (s : State) : State :=
  match s.combOf id with
  | none => s
  | some e =>
    if e.closed then s
    else if e.reqs.length < 2 then modComb id (fun e => { e with closed := true }) s
    else
      match combinedPkt s e with
      | none => s
      | some c =>
        let q := s.queue e.queue
        let isIt := fun (it : QItem) => match it with | .comb _ i => i == id | _ => false
        if s.fwd.mgmtEid == 0 then
          let head := ((q.items.find? QItem.isPkt).map isIt).getD false
          discardQ 27 c (e.queue / 8) (freeComb id (settleQueue (e.queue / 8) (e.queue % 8) (q.items.filter (fun it => !isIt it)) head s))
        else
          let q := { q with items := q.items.map (fun it => if isIt it then .comb c id else it) }
          let q := { q with maxd := max q.maxd q.depth, smax := max q.smax q.depth }
          modComb id (fun e => { e with closed := true }) (s.setQueue e.queue q)
/-- A request merges: its credits return, it leaves the epoch count, and the entry closes at MAXN (R317, R318). -/
def mergeInto (e : CombEnt) (port : Nat) (p : Pkt) (s : State) : State :=
  let s := returnCredit p (leaveCount p (preLeave p (count (evNo 32 0x002 port) s)))
  let s := modComb e.id (fun e => { e with reqs := e.reqs ++ [{ p with cred := false, counted := false }] }) s
  if s.maxn ≤ e.reqs.length + 1 then closeComb e.id s else s
/-- A packet is written behind the queue's open entries: overlapping ones close, and its pair is noted in the rest (R317 conditions 3 and 4). -/
def noteWrite (port : Nat) (p : Pkt) (s : State) : State :=
  let key := queueKey port p.h.tc
  let s := if p.h.isRequest then
      forEach (s.mem.ents.filter (fun e => !e.closed && e.queue == key && (e.reqs.any (fun r => overlaps r.h p.h)))) (fun e s => closeComb e.id s) s
    else s
  { s with mem.ents := s.mem.ents.map (fun e =>
      if !e.closed && e.queue == key && !e.pairs.contains (p.h.src, p.h.dst) then { e with pairs := (p.h.src, p.h.dst) :: e.pairs } else e) }
/-- Writes a packet to the output queue of a port, or merges it into an entry that waits there. -/
def writeQueue (port : Nat) (p : Pkt) (s : State) : State :=
  let pre := if p.counted then s.fencesOf p else []
  match mergeEntry s port p with
  | some e => mergeInto e port p s
  | none =>
    let s := noteWrite port p s
    if !combinable s port p then putQueue port .pkt pre p s
    else if 65536 ≤ s.mem.ents.length then putQueue port .pkt pre p (count (evNo 32 0x000 port) s)
    else
      let id := s.mem.nextEnt
      let s := count (evNo 32 0x001 port) { s with
        mem.nextEnt := id + 1,
        mem.ents := s.mem.ents ++ [⟨id, queueKey port 4, [{ p with cred := false }], false, []⟩] }
      putQueue port (fun p => .comb p id) pre p s

/-! ### Bundles: spraying and hashing (R170 to R173) -/

/-- The bundle is one of Cezal 2 ports. -/
def State.bundleC2 (s : State) (b : Nat) : Bool :=
  match (s.bundlePorts b).filter s.up with
  | p :: _ => s.isC2 p
  | [] => (s.bundlePorts b).any (fun p => s.cezal p == 2)
/-- The ports of the bundle that are UP or DEGRADED. -/
def State.bundleUp (s : State) (b : Nat) : List Nat := (s.bundlePorts b).filter s.up
/-- The UP port whose queue for the class holds the fewest cells per active transmit lane; ties round robin after the port chosen last. -/
def sprayPort (s : State) (b tc : Nat) : Option Nat :=
  let ups := s.bundleUp b
  let last := tget 0 s.swc.rr b
  let order := ups.filter (fun p => decide (last < p)) ++ ups.filter (fun p => decide (p ≤ last))
  order.foldl (fun best p =>
    match best with
    | none => some p
    | some q => if s.depth p tc * max 1 (s.txLanes q) < s.depth q tc * max 1 (s.txLanes p) then some p else best) none
/-- The port that bucket k of a bundle uses now (R171): its own while that is UP; the buckets of a port that is not pass, in order, round robin to the remaining ones. -/
def bucketPort (s : State) (b k : Nat) : Option Nat :=
  let all := s.bundlePorts b
  let ups := s.bundleUp b
  let home := all.getD (k % max 1 all.length) 0
  let own := match tget none s.swc.bucket (256 * b + k) with | some r => r.port | none => home
  if ups.contains own then some own else ups[k / max 1 all.length % max 1 ups.length]?
/-- Notes the use of a bucket that is away from its home port. -/
def useBucket (b k port : Nat) (s : State) : State :=
  let all := s.bundlePorts b
  let home := all.getD (k % max 1 all.length) 0
  if port == home && tget none s.swc.bucket (256 * b + k) == none then s
  else { s with swc.bucket := tset none s.swc.bucket (256 * b + k) (some ⟨port, s.clk⟩) }
/-- The hash key of a packet that takes one hashed link whatever the counters hold (R171). -/
def hashKey (s : State) (b : Nat) (h : Hdr) : Option Nat :=
  if h.isMem then some (hashWords [h.src, h.dst])
  else if (h.kind == 2 || h.kind == 3) && s.bundleC2 b then some (hashWords [h.src, h.dst, BitVec.ofNat 32 h.ctx])
  else none
def sprayOf (s : State) (d : Nat) (h : Hdr) (b : Nat) : Option SprayCtr :=
  (tget [] s.swc.spray d).find? (fun c => c.src == h.src && c.dst == h.dst && c.tc.toNat == h.tc && c.bundle == b)
/-- The counters of a district in use (R175). -/
def sprayUsed (s : State) (d : Nat) : Nat := ((tget [] s.swc.spray d).filter (fun c => !c.hashed)).length
/-- The flow's spray counter; a new flow that finds the table full starts hashed. -/
def openSpray (d : Nat) (h : Hdr) (b : Nat) (s : State) : State × SprayCtr :=
  match sprayOf s d h b with
  | some c => (s, c)
  | none =>
    let full := decide (65536 ≤ sprayUsed s d)
    let c : SprayCtr := ⟨h.src, h.dst, BitVec.ofNat 3 h.tc, b, 0, full, s.clk⟩
    let s := { s with swc.spray := tmod [] s.swc.spray d (fun l => l ++ [c]) }
    (if full then count (evNo 16 0x014 d) s else s, c)
def sameSpray (c e : SprayCtr) : Bool := c.src == e.src && c.dst == e.dst && c.tc == e.tc && c.bundle == e.bundle
/-- Takes the next SEQ of a flow: 0, 1, 2 and so on, wrapping to 1 (R170). -/
def nextSeq (d : Nat) (c : SprayCtr) (c2 : Bool) (s : State) : State × Word :=
  let top : Word := if c2 then 0xFFFF else 0xFFFFFFFF
  let cur := ((tget [] s.swc.spray d).find? (sameSpray c)).getD c
  let nx := if cur.next == top then 1 else cur.next + 1
  ({ s with swc.spray := tmod [] s.swc.spray d (fun l => l.map (fun e => if sameSpray c e then { e with next := nx, last := s.clk } else e)) }, cur.next)
/-- The flow of a packet toward a bundle takes one hashed link, or would if it opened a counter now (R171). -/
def State.flowHashed (s : State) (spoint b : Nat) (h : Hdr) : Bool :=
  match sprayOf s spoint h b with
  | some c => c.hashed
  | none => decide (65536 ≤ sprayUsed s spoint)
/-- The port that a packet toward a hop would take now. -/
def chosenPort (s : State) (spoint : Nat) (hop : Hop) (h : Hdr) : Option Nat :=
  match hop with
  | .port n => some n
  | .bundle b =>
    match hashKey s b h with
    | some k => bucketPort s b (k % 256)
    | none =>
      if s.flowHashed spoint b h then bucketPort s b (flowHash h.src h.dst h.tc % 256) else sprayPort s b h.tc
  | _ => none
/-- The link that a packet toward a hop would take lies in a district that is DRAINING (R63, R146). -/
def State.hopDraining (s : State) (spoint : Nat) (hop : Hop) (h : Hdr) : Bool :=
  match chosenPort s spoint hop h with
  | some n => s.dist (districtOf n) == .draining
  | none => false
/-- Writes a packet to the queue of the chosen port of its hop, with SEQ rewritten toward a sprayed bundle (R74, R170, R171). -/
def writeHop (spoint : Nat) (hop : Hop) (port : Nat) (p : Pkt) (s : State) : State :=
  match hop with
  | .bundle b =>
    match hashKey s b p.h with
    | some k => writeQueue port p (useBucket b (k % 256) port s)
    | none =>
      let (s, c) := openSpray spoint p.h b s
      if c.hashed then
        let s := { s with swc.spray := tmod [] s.swc.spray spoint (fun l => l.map (fun e => if sameSpray c e then { e with last := s.clk } else e)) }
        writeQueue port { p with h := p.h.setSeq 0 } (useBucket b (flowHash p.h.src p.h.dst p.h.tc % 256) port s)
      else
        let (s, seq) := nextSeq spoint c (s.bundleC2 b) s
        writeQueue port { p with h := p.h.setSeq seq } { s with swc.rr := tset 0 s.swc.rr b port }
  | _ => writeQueue port p s
/-- A scheduled packet or copy that finds its queue at the limit is discarded as SCHED_OVERFLOW (R161). -/
def schedOverflow (port : Nat) (p : Pkt) (s : State) : State :=
  discard 19 p (some port) (raiseSwc 0 (modMap port (fun m => { m with ovf := m.ovf + 1 }) (count (evNo 16 0x003 (queueKey port p.h.tc)) s)))
/-- The bundle over which a packet goes as one copy on each UP port: a fence marker of a sprayed flow (R249). -/
def State.copiesOver (s : State) (spoint : Nat) (hop : Hop) (h : Hdr) : Option Nat :=
  match hop with
  | .bundle b => if h.kind == 9 && !s.flowHashed spoint b h then some b else none
  | _ => none
/-- The ports on which a packet toward a hop needs room now. -/
def State.portsFor (s : State) (spoint : Nat) (hop : Hop) (h : Hdr) : List Nat :=
  match s.copiesOver spoint hop h with
  | some b => s.bundleUp b
  | none => (chosenPort s spoint hop h).toList
/-- A fence marker toward a bundle: one copy on each UP port, each with the next SEQ; the marker counts when the last copy leaves (R249). A copy toward a district that is DRAINING is discarded (R63). -/
def writeMarkerCopies (spoint b : Nat) (p : Pkt) (s : State) : State :=
  let (s, c) := openSpray spoint p.h b s
  let ups := s.bundleUp b
  let id := s.lnd.nextMark
  let s := { s with lnd.marks := s.lnd.marks ++ [⟨id, ups.length⟩], lnd.nextMark := id + 1 }
  let pre := if p.counted then s.fencesOf p else []
  let s := forEach ups (fun port s =>
    let (s, seq) := nextSeq spoint c (s.bundleC2 b) s
    let k := { p with h := p.h.setSeq seq, counted := false, cred := false, marker := some id }
    if s.dist (districtOf port) == .draining then discard 23 k (some port) s
    else if s.roomFor port k.h.tc k.cells then putQueue port .pkt pre k (noteWrite port k s)
    else schedOverflow port k s) s
  returnCredit p (leaveCount p (preLeave p s))

/-! ### Packets the MS9 originates (R132, R161) -/

/-- An originated packet can be written now: every queue it needs has room, or it merges. -/
def State.canWrite (s : State) (spoint : Nat) (hop : Hop) (p : Pkt) : Option Nat :=
  match chosenPort s spoint hop p.h with
  | some port =>
    if (s.portsFor spoint hop p.h).all (fun q => s.roomFor q p.h.tc p.cells) || (mergeEntry s port p).isSome then some port else none
  | none => none
/-- Writes a packet for which there is room: to the queue of the chosen port, or as the copies of a marker. -/
def writeOut (spoint : Nat) (hop : Hop) (port : Nat) (p : Pkt) (s : State) : State :=
  match s.copiesOver spoint hop p.h with
  | some b => writeMarkerCopies spoint b p s
  | none => writeHop spoint hop port p s
/-- A packet waits in its producer: its lookup is over, so it is in the epoch count, and in OLDPRE where a fence follows its bank (R150, R251). -/
def waitProd (stampAtEnqueue : Bool) (notBefore : Nat) (hop : Hop) (p : Pkt) (s : State) : State :=
  let s := if p.counted then s else preEnter p (enterCount p.h.epoch s)
  { s with swc.prod := s.swc.prod ++ [⟨{ p with counted := true }, hop, stampAtEnqueue, notBefore⟩] }
/-- The district whose crossbar port a packet uses as its spray point: that of the transform flow whose output it is, the ingress port's, or the originating one. -/
def Pkt.district (p : Pkt) : Nat :=
  match p.flow with
  | some d => d
  | none => if p.inPort < 2048 then districtOf p.inPort else p.inPort - 2048
/-- The port that a packet toward a hop would take lies in a district that is DRAINING, so the packet goes no further (R63 step 3); each copy of a marker is tested on its own. -/
def State.hopCut (s : State) (spoint : Nat) (hop : Hop) (h : Hdr) : Bool :=
  (s.copiesOver spoint hop h).isNone && s.hopDraining spoint hop h
/-- A packet that the MS9 originates: with FWD_MGMT_EID 0 it is counted and not sent; toward a DRAINING district it is discarded; its producer waits where the queue has no room or its window has not opened. -/
def originate (stampAtEnqueue : Bool) (notBefore : Nat) (hop : Hop) (p : Pkt) (s : State) : State :=
  if 2048 ≤ p.inPort && s.fwd.mgmtEid == 0 then discard 27 p none s
  else if s.glb.state == .cordoned then s
  else if s.hopCut p.district hop p.h then discard 23 p (chosenPort s p.district hop p.h) s
  else
    match (if notBefore ≤ s.now then s.canWrite p.district hop p else none) with
    | some port => writeOut p.district hop port (if stampAtEnqueue then { p with tin := s.now } else p) s
    | none => waitProd stampAtEnqueue notBefore hop p s

/-! ### Time -/

/-- A packet held at the head of an ingress FIFO, or a producer, waits because queue (p, tc) is at its limit: HELD (R184). -/
def State.queueHeld (s : State) (p tc : Nat) : Bool :=
  let waits := fun (spoint : Nat) (hop : Hop) (k : Pkt) =>
    k.h.tc == tc && (s.portsFor spoint hop k.h).contains p && !s.roomFor p tc k.cells
  s.swc.holds.any (fun e => e.1 % 8 == tc && (match e.2 with
    | h :: _ => !h.policed && (match h.dest with | .hop hop => waits h.pkt.district hop h.pkt | _ => false)
    | [] => false))
    || s.swc.prod.any (fun w => decide (w.notBefore ≤ s.now) && waits w.pkt.district w.hop w.pkt)
/-- The ports that have a queue with HELD = 1. -/
def State.heldPorts (s : State) : List Nat :=
  if s.swc.holds.isEmpty && s.swc.prod.isEmpty then [] else s.ports.filter (fun p => (List.range 8).any (s.queueHeld p))
/-- The part of the owed correction that the rate makes in `dt` ns, in 2^-16 ns: at most 1 ns in 100 µs, either way (R193). -/
def State.rateTrim (s : State) (dt : Nat) : Int :=
  let lim : Int := ((dt * 65536 / 100000 : Nat) : Int)
  max (-lim) (min lim s.tmb.owed)
/-- PPS_OUT: a rising edge at each whole second that the time base passes in `dt` ns while it is LOCKED or HOLDOVER (R448). -/
def ppsOuts (dt : Nat) (s : State) : State :=
  if s.tmb.lock == .locked || s.tmb.lock == .holdover then
    let a := s.now / 10 ^ 9
    let b := (s.tmb.tb + (((dt * 65536 : Nat) : Int) + s.rateTrim dt).toNat) / 65536 / 10 ^ 9
    forEach (rangeFrom (a + 1) (b - a)) (fun n s => emit (.ppsOut (n * 10 ^ 9)) s) s
  else s
/-- `dt` ns of local time pass: the local clock advances, the time base at its disciplined rate, never backward (R185), the congestion map counts the time in which queues are HELD (R205), the cores count their slots (R431), and PPS_OUT marks whole seconds. -/
def elapse (dt : Nat) (s : State) : State :=
  let s := ppsOuts dt (topDown dt s)
  let s := forEach s.heldPorts (fun p => modMap p (fun m => { m with heldNs := m.heldNs + dt })) s
  let t := s.rateTrim dt
  { s with clk := s.clk + dt, tmb.tb := s.tmb.tb + (((dt * 65536 : Nat) : Int) + t).toNat, tmb.owed := s.tmb.owed - t }

end Sys2Proof.Machine
end

