-- ==== Sys2Proof/Machine/FwdOps.lean ====
section
/-! DEFINITION. The forwarding tables: entries and their words (R135 to R145), the trie walk (R138), and the lookup of a packet (R133, R134). -/
namespace Sys2Proof.Machine
open Sys2Proof

def State.bank (s : State) (b : Bool) : Bank := if b then s.fwd.bankB else s.fwd.bankA
def State.setBank (s : State) (b : Bool) (v : Bank) : State :=
  if b then { s with fwd.bankB := v } else { s with fwd.bankA := v }
def State.exact (s : State) (b : Bool) (eid : Word) : Option ExactEnt := tget none (s.bank b).exact eid.toNat
def State.setExact (s : State) (b : Bool) (eid : Word) (v : Option ExactEnt) : State :=
  s.setBank b { s.bank b with exact := tset none (s.bank b).exact eid.toNat v }
/-- The entries that a bank of EXACT holds. -/
def Bank.count (b : Bank) : Nat := b.exact.length

/-! ### Entries as words -/

/-- Word 1 of an EXACT entry (R140). -/
def exactWord1 (e : ExactEnt) : Nat :=
  2 ^ 31 + b2n e.cordon * 2 ^ 30 + b2n e.route * 2 ^ 29 + e.nhtype.toNat * 2 ^ 26 + e.next.toNat
/-- The entry that words 1 and 2 of a command give, in a slot. -/
def exactOf (w1 tag : Word) (cordon : Bool) (slot : Nat) : ExactEnt :=
  ⟨cordon, bitAt w1.toNat 29, BitVec.ofNat 2 (fld w1.toNat 26 2), BitVec.ofNat 11 w1.toNat, tag, BitVec.ofNat 22 slot⟩
/-- The slots of a bank of EXACT that hold entries, ascending. -/
def Bank.slots (b : Bank) : List Nat :=
  (b.exact.filterMap (fun e => e.2.map (fun x => x.slot.toNat))).mergeSort (fun a b => decide (a ≤ b))
/-- The j-th number that an ascending list does not hold. -/
def unused (used : List Nat) (j : Nat) : Nat := used.foldl (fun j u => if u ≤ j then j + 1 else j) j
/-- The slot of an EID in a bank: its entry's, or the unused one that a new entry takes (R140). -/
def State.slotOf (s : State) (b : Bool) (eid : Word) : Nat :=
  match s.exact b eid with
  | some e => e.slot.toNat
  | none =>
    let used := (s.bank b).slots
    unused used (Config.exactSlot b eid used % (4194304 - used.length))
def exactWords (eid : Word) : Option ExactEnt → List Word
  | none => [0, 0, 0, 0]
  | some e => [eid, BitVec.ofNat 32 (exactWord1 e), e.tag, 0]
def jobWord0 (e : JobEnt) : Nat := b2n e.valid * 2 ^ 31 + b2n e.teardown * 2 ^ 30 + b2n e.tflow * 2 ^ 29 + e.eaq.toNat
/-- A next hop from NHTYPE and NEXT (R139). -/
def hopOf (nhtype next : Nat) : Hop :=
  match nhtype with
  | 0 => .port next
  | 1 => .bundle next
  | 2 => .drop
  | _ => .toLocal
/-- A table entry as it reads by index; EXACT by EID reads elsewhere. -/
def tableWords (s : State) (tbl : Nat) (b : Bool) (i : Nat) : List Word :=
  let k := s.bank b
  let two := fun (e : Ent2) => [e.w0, e.w1, 0, 0]
  match tbl with
  | 0 => two (tget Ent2.zero k.trie1 i)
  | 1 => two (tget Ent2.zero k.trie2 i)
  | 2 => two (tget Ent2.zero k.trie3 i)
  | 3 => two (tget Ent2.zero k.trie4 i)
  | 4 => two (tget Ent2.zero k.trie5 i)
  | 5 => two (tget Ent2.zero k.route i)
  | 8 => let g := tget GroupEnt.zero s.fwd.group i; [g.w0, g.w1, g.w2, g.short]
  | 9 => two (tget Ent2.zero s.fwd.repl i)
  | 10 => let j := tget JobEnt.zero s.fwd.job i; [BitVec.ofNat 32 (jobWord0 j), j.tag, 0, 0]
  | _ => [0, 0, 0, 0]
/-- The entries of a table; 0 for an ID that is not used (R135). -/
def tableSize (tbl : Nat) : Nat :=
  match tbl with
  | 0 => 4096 | 1 => 32768 * 64 | 2 => 65536 * 64 | 3 => 131072 * 16 | 4 => 262144 * 16
  | 5 => 4194304 | 6 => 4194304 | 8 => 65536 | 9 => 4194304 | 10 => 1048576 | _ => 0
def banked (tbl : Nat) : Bool := decide (tbl ≤ 6)

/-! ### Uncorrectable entries (R134) -/

def badKey (tbl : Nat) (b : Bool) (i : Nat) : Nat := (tbl * 2 + b2n (banked tbl && b)) * 2 ^ 32 + i
/-- The entry is uncorrectable. -/
def State.badAt (s : State) (tbl : Nat) (b : Bool) (i : Nat) : Bool := tget false s.fwd.bad (badKey tbl b i)
/-- The entry has a single-bit error. -/
def State.softAt (s : State) (tbl : Nat) (b : Bool) (i : Nat) : Bool := tget false s.fwd.soft (badKey tbl b i)
/-- The SRAM bank that holds an entry. -/
def bankOfEntry (tbl : Nat) (b : Bool) (i : Nat) : Nat := tableBank tbl b i
/-- FWD_ECCLOG: TBL [31:28], BANK [27], INDEX [22:0]; the slot for EXACT. -/
def eccLogOf (s : State) (tbl : Nat) (b : Bool) (i : Nat) : Word :=
  let ix := if tbl == 6 then s.slotOf b (BitVec.ofNat 32 i) else i
  BitVec.ofNat 32 (tbl * 2 ^ 28 + b2n (banked tbl && b) * 2 ^ 27 + ix)
/-- An uncorrectable entry is read: logged, FWD_EVENT.ECC, 300 on its SRAM bank (R134, R362). -/
def eccError (tbl : Nat) (b : Bool) (i : Nat) (s : State) : State :=
  addPenalty 2 (bankOfEntry tbl b i) (300 * 10 ^ 9) (raiseFwd 3 { s with fwd.eccLog := eccLogOf s tbl b i })
/-- Bits of an entry flip: it stays uncorrectable until it is rewritten, or the next read of it corrects the one bit. An error in another SRAM bank, or in an engine, adds its weight (R362). -/
def applyUpset (u : Upset) (s : State) : State :=
  match u with
  | .entry tbl bank index uncorrectable =>
    let k := badKey tbl bank index
    if uncorrectable then { s with fwd.bad := tset false s.fwd.bad k true } else { s with fwd.soft := tset false s.fwd.soft k true }
  | .sram bank uncorrectable => addPenalty 2 bank.val (if uncorrectable then 300 * 10 ^ 9 else 10 ^ 9) s
  | .engine e replayed => addPenalty 1 e.val (if replayed then 10 * 10 ^ 9 else 10 ^ 9) s
/-- A write of an entry clears its marks. -/
def clearBad (tbl : Nat) (b : Bool) (i : Nat) (s : State) : State :=
  { s with fwd.bad := tset false s.fwd.bad (badKey tbl b i) false, fwd.soft := tset false s.fwd.soft (badKey tbl b i) false }
/-- A single-bit error met in a read is corrected, counted and charged to the SRAM bank (R134, R362). -/
def correctAt (tbl : Nat) (b : Bool) (i : Nat) (s : State) : State :=
  if s.softAt tbl b i then
    addPenalty 2 (bankOfEntry tbl b i) (10 ^ 9) (countX xfTableCorrected 0 { s with fwd.soft := tset false s.fwd.soft (badKey tbl b i) false })
  else s
/-- Reads of entries of a bank, as (table, index), in order, up to the first that is uncorrectable; false where one is (R134). -/
def readEnts (b : Bool) : List (Nat × Nat) → State → State × Bool
  | [], s => (s, true)
  | (t, i) :: r, s => if s.badAt t b i then (eccError t b i s, false) else readEnts b r (correctAt t b i s)

/-! ### The trie (R136 to R138) -/

/-- What a walk has met: the best route, its reads as (table, index), and trie errors. -/
structure Walk where
  best : Option Nat
  reads : List (Nat × Nat)
  errs : Nat

/-- The stage's entry index for a node. -/
def trieIndex (stage node : Nat) (eid : Nat) : Nat :=
  match stage with
  | 0 => fld eid 20 12
  | 1 => node * 64 + fld eid 14 6
  | 2 => node * 64 + fld eid 8 6
  | 3 => node * 16 + fld eid 4 4
  | _ => node * 16 + fld eid 0 4
/-- The nodes of the pool that a child of this stage lies in. -/
def poolNodes (stage : Nat) : Nat :=
  match stage with
  | 0 => 32768 | 1 => 65536 | 2 => 131072 | _ => 262144
/-- The walk from a stage on; `fuel` is the stages left. -/
def walkFrom (s : State) (b : Bool) (eid : Nat) : Nat → Nat → Nat → Walk → Walk
  | 0, _, _, w => w
  | fuel + 1, stage, node, w =>
    let i := trieIndex stage node eid
    let e := (tableWords s stage b i)
    let w0 := (e.getD 0 0).toNat
    let w1 := (e.getD 1 0).toNat
    let w := { w with reads := w.reads ++ [(stage, i)] }
    match fld w0 30 2 with
    | 2 => { w with best := some (fld w0 0 22) }
    | 0 => w
    | 3 => { w with errs := w.errs + 1 }
    | _ =>
      let w := if bitAt w1 31 then { w with best := some (fld w1 0 22) } else w
      if stage == 4 then w
      else if poolNodes stage ≤ fld w0 0 22 then { w with errs := w.errs + 1 }
      else walkFrom s b eid fuel (stage + 1) (fld w0 0 22) w
def trieWalk (s : State) (b : Bool) (eid : Word) : Walk := walkFrom s b eid.toNat 5 0 0 ⟨none, [], 0⟩
/-- The hop of a ROUTE entry; none where VALID = 0. -/
def routeHop (s : State) (b : Bool) (i : Nat) : Option Hop :=
  let w0 := ((tableWords s 5 b i).getD 0 0).toNat
  if bitAt w0 31 then some (hopOf (fld w0 26 2) (fld w0 0 11)) else none
/-- The next hop of an EID by the trie, with what its reads meet: trie errors count for the district whose pipeline walks. An uncorrectable entry on the way ends it without an answer. -/
def readTrie (b : Bool) (eid : Word) (district : Nat) (s : State) : State × Option (Option Hop) :=
  let w := trieWalk s b eid
  match readEnts b w.reads s with
  | (s, false) => (s, none)
  | (s, true) =>
    let s := countN (evNo 12 0x011 district) w.errs s
    match w.best with
    | none => (s, some none)
    | some i =>
      match readEnts b [(5, i)] s with
      | (s, false) => (s, none)
      | (s, true) => (s, some (routeHop s b i))
/-- The next hop of an EID in a bank, by exact match then trie. -/
def resolve (b : Bool) (eid : Word) (district : Nat) (s : State) : State × Option (Option Hop) :=
  match readEnts b [(6, eid.toNat)] s with
  | (s, false) => (s, none)
  | (s, true) =>
    match s.exact b eid with
    | some e => if e.route then (s, some (some (hopOf e.nhtype.toNat e.next.toNat))) else readTrie b eid district s
    | none => readTrie b eid district s

/-- What a replication reads at an entry of its list: an uncorrectable entry, no member, or a member with its cordon and its next hop (R134, R146). -/
inductive Member where
  | ecc
  | skip
  | at_ (eid : Word) (cordoned : Bool) (hop : Hop)
/-- Reads a REPL entry, and its member in EXACT. -/
def readMember (b : Bool) (i : Nat) (s : State) : State × Member :=
  match readEnts b [(9, i)] s with
  | (s, false) => (s, .ecc)
  | (s, true) =>
    let r := tget Ent2.zero s.fwd.repl i
    if !bitAt r.w1.toNat 31 then (s, .skip)
    else
      match readEnts b [(6, r.w0.toNat)] s with
      | (s, false) => (s, .ecc)
      | (s, true) => (s, .at_ r.w0 (((s.exact b r.w0).map (·.cordon)) == some true) (hopOf (fld r.w1.toNat 26 2) (fld r.w1.toNat 0 11)))

/-! ### The lookup (R133) -/

/-- What a lookup answers; a failure names the egress port where it has resolved one. -/
inductive Look where
  | fail (dcode : Nat) (out : Option Nat)
  | dest (d : Dest)

def reservedEid (w : Word) : Bool := w == 0 || w == 0xFFFFFFFF
/-- A hop is a port that is UP, or a bundle with a port UP (R133 step 11). -/
def State.hopUp (s : State) : Hop → Bool
  | .port n => s.up n
  | .bundle b => !(s.bundleUp b).isEmpty
  | _ => true
/-- Steps 8 to 11 for a resolved hop. -/
def checkHop (s : State) (kind : Nat) (hop : Option Hop) : Look :=
  match hop with
  | none => .fail 9 none
  | some .drop => .fail 10 none
  | some .toLocal => if kind == 2 || kind == 8 || kind == 11 then .dest (.hop .toLocal) else .fail 11 none
  | some h => if s.hopUp h then .dest (.hop h) else .fail 12 h.port?
/-- Step 7 onward for a unicast destination. -/
def lookupDst (s : State) (b : Bool) (h : Hdr) (district : Nat) : State × Look :=
  match readEnts b [(6, h.dst.toNat)] s with
  | (s, false) => (s, .fail 13 none)
  | (s, true) =>
    if ((s.exact b h.dst).map (·.cordon)) == some true then (s, .fail 8 none)
    else
      match resolve b h.dst district s with
      | (s, none) => (s, .fail 13 none)
      | (s, some hop) => (s, checkHop s h.kind hop)
/-- Steps 5 onward: the source's cordon, then the group or the destination. -/
def lookupSrc (s : State) (b : Bool) (h : Hdr) (district : Nat) : State × Look :=
  match readEnts b [(6, h.src.toNat)] s with
  | (s, false) => (s, .fail 13 none)
  | (s, true) =>
    if ((s.exact b h.src).map (·.cordon)) == some true then (s, .fail 6 none)
    else if h.kind == 1 then
      let g := h.ctx % 65536
      match readEnts b [(8, g)] s with
      | (s, false) => (s, .fail 13 none)
      | (s, true) =>
        let e := tget GroupEnt.zero s.fwd.group g
        if bitAt e.w0.toNat 31 && fld e.w2.toNat 0 20 == h.job.toNat then (s, .dest .group) else (s, .fail 7 none)
    else lookupDst s b h district
/-- The checks of R133 in order. -/
def lookup (s : State) (h : Hdr) (district : Nat) : State × Look :=
  let b := h.epoch
  if reservedEid h.src || (h.kind != 1 && reservedEid h.dst) then (s, .fail 2 none)
  else if s.bankState b == .free then (s, .fail 3 none)
  else if h.job == 0 then lookupSrc s b h district
  else
    match readEnts b [(10, h.job.toNat)] s with
    | (s, false) => (s, .fail 13 none)
    | (s, true) =>
      let j := tget JobEnt.zero s.fwd.job h.job.toNat
      if !j.valid then (s, .fail 4 none)
      else if j.teardown then (s, .fail 5 none)
      else lookupSrc s b h district

/-- A control packet from the management EID to a destination, looked up in the LIVE bank: counted as a discard where it finds no way (R76, R132). -/
def sendControl (district : Nat) (dst : Word) (opcode arg ctx job instant : Nat) (s : State) : State :=
  let p : Pkt := { h := ctlHdr s dst, payload := ctlPayload opcode arg ctx job instant, tin := s.now, inPort := 2048 + district, c2 := false, counted := false }
  if s.glb.state == .cordoned then s
  else if s.fwd.mgmtEid == 0 then discard 27 p none s
  else
    match lookup s p.h district with
    | (s, .fail c o) => discard c p o s
    | (s, .dest (.hop .toLocal)) => s
    | (s, .dest (.hop hop)) => originate true 0 hop p s
    | (s, .dest _) => s

end Sys2Proof.Machine
end

