-- ==== Sys2Proof/Machine/SvcOps.lean ====
section
/-! DEFINITION. Service-lane receivers (R121 to R124): alignment by commas, characters, and the messages that reach their users. -/
namespace Sys2Proof.Machine
open Sys2Proof

/-- One aligned character: its violation is seen, and four invalid characters within 64 lose alignment (R121). -/
def Svc.takeChar (v : Svc) (g : Code) : Svc :=
  let ok := (decode10 v.rd g).isSome
  let bad := (v.bad <<< 1) ||| (if ok then 0 else 1)
  let v := { v with rd := rdAfter10 v.rd g, bad := bad, cv := v.cv || !ok }
  if 4 ≤ popcount bad.toNat 64 then { v with st := .aligning, commas := 0, bad := 0 } else v
/-- K28.5 in either form. -/
def isComma (g : Code) : Bool := g == (encode10 false .comma).1 || g == (encode10 true .comma).1
/-- One bit while the receiver aligns: a third comma at one alignment, with no invalid character between, aligns. -/
def Svc.tryAlign (v : Svc) : Svc :=
  let due := v.commas != 0 && v.ph == v.at_
  let ok := (decode10 v.rd v.win).isSome
  let v := if due then { v with rd := rdAfter10 v.rd v.win, cv := v.cv || !ok, commas := if ok then v.commas else 0 } else v
  if isComma v.win then
    let n := if due && ok then v.commas + 1 else 1
    if 3 ≤ n then { v with st := .aligned, commas := 0, bad := 0 }
    else { v with commas := n, at_ := v.ph, rd := rdAfter10 false v.win }
  else v
/-- One bit received. -/
def Svc.takeBit (v : Svc) (b : Bool) : Svc :=
  let v := { v with win := (v.win >>> 1) ||| (if b then 512 else 0), ph := if v.ph == 9 then 0 else v.ph + 1 }
  match v.st with
  | .off => v
  | .aligned => if v.ph == v.at_ then v.takeChar v.win else v
  | .aligning => v.tryAlign

/-- A service lane that is powered down sees nothing. -/
def State.svcOn (s : State) (n : Nat) : Bool := (s.svcLane n).st != .off
/-- A message is discarded: counted, with its bit of SRD_SSTAT. -/
def discardSvc (n : Nat) (why : SvcDiscard) (s : State) : State :=
  let s := count (evNo 8 0x100 n) s
  match why with
  | .crc => s.modSvc n (fun v => { v with crc := true })
  | .abort => s.modSvc n (fun v => { v with abort := true })
  | _ => s
/-- What the characters of a message amount to on a lane. -/
def State.heard (s : State) (n : Nat) (codes : List Code) : MsgRx := parseMsg n (decodeAll (s.svcLane n).rd codes).1
/-- The characters of a message come in on an aligned lane, and `f` does what they amount to. -/
def svcMessage (n : Nat) (codes : List Code) (f : MsgRx → State → State) (s : State) : State :=
  if (s.svcLane n).st != .aligned then s
  else f (s.heard n codes) (s.modSvc n (fun v => codes.foldl Svc.takeChar v))
/-- A message of one TYPE goes to its user; one to discard is discarded; one of another TYPE is another command's. -/
def onMessage (n : Nat) (type : Byte) (codes : List Code) (f : SvcMsg → State → State) (s : State) : State :=
  svcMessage n codes (fun m =>
    match m with
    | .ok m => if m.type == type then f m else id
    | .bad why => discardSvc n why
    | .nothing => id) s
/-- The lane of a message: EAST = 0, WEST = 1. -/
def isWest (lane : Fin 2) : Bool := lane.val == 1
/-- A message of one TYPE on a ring lane; a device with no ring lanes hears none. -/
def onRing (lane : Fin 2) (type : Byte) (codes : List Code) (f : List Byte → State → State) (s : State) : State :=
  if s.inBlock then onMessage (s.ringLane (isWest lane)) type codes (fun m => f m.payload) s else s
/-- A message of one TYPE from an engine, on one lane of its pair. -/
def onEngine (e : Fin 32) (second : Bool) (type : Byte) (codes : List Code) (f : SvcMsg → State → State) (s : State) : State :=
  onMessage (16 + 2 * e.val + b2n second) type codes f s

end Sys2Proof.Machine
end

