-- ==== Sys2Proof/Machine/Forwarding.lean ====
section
/-! DEFINITION. The commands on the forwarding tables, the routing epochs, learning relays and the background compare (05_forwarding.md). -/
namespace Sys2Proof.Machine
open Sys2Proof

/-- FWD_CSTAT.STATUS; a refusal is counted by status (R424). -/
def fwdStatus (st : Nat) (s : State) : State :=
  let s := { s with fwd.status := BitVec.ofNat 8 st }
  if st == 0 then s else count (evNo 12 0x002 st) s
/-- A command through FWD_CMD: from the owner, not while BUSY, and from TRAINING onward (R158). -/
def fwdCommand (p : HPort) (f : State → State) (s : State) : State :=
  hostWrite p false (fun s =>
    if s.fwd.busy then { s with fwd.reject := true }
    else if s.glb.state.code < 3 then fwdStatus 9 s
    else f s) s

/-- What a table command is given: OP, table, bank, index and the four words. -/
structure FwdArg where
  op : Nat
  tbl : Nat
  bank : Bool
  index : Nat
  d0 : Word
  d1 : Word
  d2 : Word
  d3 : Word
/-- What it answers: status, the index, and the words a READ or EX_LOOKUP returns. -/
structure FwdRes where
  st : Nat
  index : Nat
  data : Option (List Word)

/-- FWD_CMD as accepted (R158). -/
def cmdWord (a : FwdArg) : Nat := a.op * 2 ^ 28 + a.tbl * 2 ^ 24 + b2n a.bank * 2 ^ 23
/-- An accepted change to a table: FWD_WSEQ, and the mirror journal (R157, R371). -/
def tableChanged (a : FwdArg) (index : Nat) (s : State) : State :=
  let s := { s with fwd.wseq := s.fwd.wseq + 1 }
  journal 1 (s.fwd.wseq.toNat % 2 ^ 32)
    (toLE 4 (cmdWord a) ++ toLE 4 index ++ bytesOfWords [a.d0, a.d1, a.d2, a.d3]) s
/-- Writes an indexed entry; the MS9's own fields TEARDOWN and SHORT are kept and set to 0 (R144, R145). -/
def putEntry (tbl : Nat) (b : Bool) (i : Nat) (d0 d1 d2 : Word) (s : State) : State :=
  let k := s.bank b
  let e : Ent2 := ⟨d0, d1⟩
  let s := match tbl with
    | 0 => s.setBank b { k with trie1 := tset Ent2.zero k.trie1 i e }
    | 1 => s.setBank b { k with trie2 := tset Ent2.zero k.trie2 i e }
    | 2 => s.setBank b { k with trie3 := tset Ent2.zero k.trie3 i e }
    | 3 => s.setBank b { k with trie4 := tset Ent2.zero k.trie4 i e }
    | 4 => s.setBank b { k with trie5 := tset Ent2.zero k.trie5 i e }
    | 5 => s.setBank b { k with route := tset Ent2.zero k.route i e }
    | 8 => { s with fwd.group := tset GroupEnt.zero s.fwd.group i ⟨d0, d1, d2, 0⟩ }
    | 9 => { s with fwd.repl := tset Ent2.zero s.fwd.repl i e }
    | 10 =>
      let old := tget JobEnt.zero s.fwd.job i
      let e := (JobEnt.mk (bitAt d0.toNat 31) old.teardown (bitAt d0.toNat 29) (BitVec.ofNat 16 d0.toNat) d1)
      { s with fwd.job := tset JobEnt.zero s.fwd.job i e }
    | _ => s
  clearBad tbl b i s
/-- The checks on an indexed entry to be written: 0 where it is allowed (R135, R145). -/
def entryStatus (a : FwdArg) : Nat :=
  let count := fld a.d1.toNat 0 12
  if tableSize a.tbl == 0 || a.tbl == 6 then 5
  else if a.tbl == 8 && bitAt a.d0.toNat 31 && (count == 0 || decide (2048 < count)) then 5
  else if tableSize a.tbl ≤ a.index then 4
  else if a.tbl == 9 && decide (2 ≤ fld a.d1.toNat 26 2) then 5
  else if a.tbl == 8 && bitAt a.d0.toNat 31 && decide (4194304 < fld a.d0.toNat 0 22 + count) then 4
  else 0

/-- READ (R158, R140). -/
def fwdDoRead (a : FwdArg) (s : State) : State × FwdRes :=
  if tableSize a.tbl == 0 then (s, ⟨5, a.index, none⟩)
  else if tableSize a.tbl ≤ a.index then (s, ⟨4, a.index, none⟩)
  else if a.tbl == 6 then
    let hit := (s.bank a.bank).exact.find? (fun e => (e.2.map (fun x => x.slot.toNat)) == some a.index)
    match hit with
    | none => (s, ⟨0, a.index, some [0, 0, 0, 0]⟩)
    | some (eid, e) =>
      match readEnts a.bank [(6, eid)] s with
      | (s, false) => (s, ⟨10, a.index, none⟩)
      | (s, true) => (s, ⟨0, a.index, some (exactWords (BitVec.ofNat 32 eid) e)⟩)
  else
    match readEnts a.bank [(a.tbl, a.index)] s with
    | (s, false) => (s, ⟨10, a.index, none⟩)
    | (s, true) => (s, ⟨0, a.index, some (tableWords s a.tbl a.bank a.index)⟩)
/-- WRITE (R148, R158). -/
def fwdDoWrite (a : FwdArg) (s : State) : State × FwdRes :=
  let st := entryStatus a
  if st != 0 then (s, ⟨st, a.index, none⟩)
  else if banked a.tbl && s.bankState a.bank != .free then (s, ⟨1, a.index, none⟩)
  else (tableChanged a a.index (putEntry a.tbl a.bank a.index a.d0 a.d1 a.d2 s), ⟨0, a.index, none⟩)
/-- EX_INSERT: creates or replaces an entry and keeps its CORDON (R141, R142). -/
def fwdDoInsert (a : FwdArg) (s : State) : State × FwdRes :=
  if a.tbl != 6 then (s, ⟨5, a.index, none⟩)
  else if s.bankState a.bank != .free then (s, ⟨1, a.index, none⟩)
  else
    let old := s.exact a.bank a.d0
    if old == none && decide (1048576 ≤ (s.bank a.bank).count) then (s, ⟨2, a.index, none⟩)
    else
      let cordon := (old.map (·.cordon)).getD false
      let i := s.slotOf a.bank a.d0
      (tableChanged a i (clearBad 6 a.bank a.d0.toNat (s.setExact a.bank a.d0 (some (exactOf a.d1 a.d2 cordon i)))), ⟨0, i, none⟩)
/-- EX_DELETE: a cordoned entry keeps its place with ROUTE = 0 (R142). -/
def fwdDoDelete (a : FwdArg) (s : State) : State × FwdRes :=
  if a.tbl != 6 then (s, ⟨5, a.index, none⟩)
  else if s.bankState a.bank != .free then (s, ⟨1, a.index, none⟩)
  else
    match s.exact a.bank a.d0 with
    | none => (s, ⟨3, a.index, none⟩)
    | some e =>
      let i := s.slotOf a.bank a.d0
      let v := if e.cordon then some { e with route := false } else none
      (tableChanged a i (clearBad 6 a.bank a.d0.toNat (s.setExact a.bank a.d0 v)), ⟨0, i, none⟩)
/-- EX_LOOKUP (R158). -/
def fwdDoLookup (a : FwdArg) (s : State) : State × FwdRes :=
  if a.tbl != 6 then (s, ⟨5, a.index, none⟩)
  else
    match readEnts a.bank [(6, a.d0.toNat)] s with
    | (s, false) => (s, ⟨10, s.slotOf a.bank a.d0, none⟩)
    | (s, true) =>
      match s.exact a.bank a.d0 with
      | none => (s, ⟨3, a.index, none⟩)
      | some e => (s, ⟨0, s.slotOf a.bank a.d0, some (exactWords a.d0 (some e))⟩)
/-- What a LIVE_INSERT finds of its EID in the banks in use: no route anywhere (0), a route (NOT_MISSING), or an uncorrectable entry on the way (ECC). -/
def missingStatus (eid : Word) : List Bool → State → State × Nat
  | [], s => (s, 0)
  | b :: r, s =>
    if s.bankState b == .free then missingStatus eid r s
    else
      match resolve b eid 0 s with
      | (s, none) => (s, 10)
      | (s, some (some _)) => (s, 6)
      | (s, some none) => missingStatus eid r s
/-- LIVE_INSERT: a routed entry in both banks, for an EID that resolves to no route in any bank in use (R151). The trie errors of its walk count for district 0, and an uncorrectable entry that it reads answers ECC (log entry 92). -/
def fwdDoLive (a : FwdArg) (s : State) : State × FwdRes :=
  let (s, st) := missingStatus a.d0 [false, true] s
  if st != 0 then (s, ⟨st, a.index, none⟩)
  else if [false, true].any (fun b => s.exact b a.d0 == none && decide (1048576 ≤ (s.bank b).count)) then (s, ⟨2, a.index, none⟩)
  else
    let put := fun b (s : State) =>
      let cordon := ((s.exact b a.d0).map (·.cordon)).getD false
      clearBad 6 b a.d0.toNat (s.setExact b a.d0 (some { exactOf a.d1 a.d2 cordon (s.slotOf b a.d0) with route := true }))
    let i := s.slotOf s.fwd.cur a.d0
    (tableChanged a i (put true (put false s)), ⟨0, i, none⟩)
/-- CORDON_SET: both banks at one instant, creating cordon-only entries within the reserve (R141, R142). -/
def fwdDoCordon (a : FwdArg) (s : State) : State × FwdRes :=
  if [false, true].any (fun b => s.exact b a.d0 == none && decide (1114112 ≤ (s.bank b).count)) then (s, ⟨2, a.index, none⟩)
  else
    let put := fun b (s : State) =>
      s.setExact b a.d0 (some (match s.exact b a.d0 with
        | some e => { e with cordon := true }
        | none => ⟨true, false, 0, 0, 0, BitVec.ofNat 22 (s.slotOf b a.d0)⟩))
    let i := s.slotOf s.fwd.cur a.d0
    (tableChanged a i (put true (put false s)), ⟨0, i, none⟩)
/-- CORDON_CLR: both banks; an entry with ROUTE = 0 is removed (R142). -/
def fwdDoUncordon (a : FwdArg) (s : State) : State × FwdRes :=
  if s.exact false a.d0 == none && s.exact true a.d0 == none then (s, ⟨3, a.index, none⟩)
  else
    let put := fun b (s : State) =>
      s.setExact b a.d0 (match s.exact b a.d0 with
        | some e => if e.route then some { e with cordon := false } else none
        | none => none)
    let i := s.slotOf s.fwd.cur a.d0
    (tableChanged a i (put true (put false s)), ⟨0, i, none⟩)
/-- REPAIR: one entry of any table in any bank; EXACT by EID, CORDON as given (R151). -/
def fwdDoRepair (a : FwdArg) (s : State) : State × FwdRes :=
  if a.tbl == 6 then
    let i := s.slotOf a.bank a.d0
    if bitAt a.d1.toNat 31 then
      if s.exact a.bank a.d0 == none && decide (1114112 ≤ (s.bank a.bank).count) then (s, ⟨2, a.index, none⟩)
      else (tableChanged a i (clearBad 6 a.bank a.d0.toNat (s.setExact a.bank a.d0 (some (exactOf a.d1 a.d2 (bitAt a.d1.toNat 30) i)))), ⟨0, i, none⟩)
    else (tableChanged a i (clearBad 6 a.bank a.d0.toNat (s.setExact a.bank a.d0 none)), ⟨0, i, none⟩)
  else
    let st := entryStatus a
    if st != 0 then (s, ⟨st, a.index, none⟩)
    else (tableChanged a a.index (putEntry a.tbl a.bank a.index a.d0 a.d1 a.d2 s), ⟨0, a.index, none⟩)
/-- OP 1 to 9 of FWD_CMD, as a command or as a batch record; any other OP is BAD_FIELD. -/
def fwdRun (a : FwdArg) (s : State) : State × FwdRes :=
  match a.op with
  | 1 => fwdDoRead a s
  | 2 => fwdDoWrite a s
  | 3 => fwdDoInsert a s
  | 4 => fwdDoDelete a s
  | 5 => fwdDoLookup a s
  | 6 => fwdDoLive a s
  | 7 => fwdDoCordon a s
  | 8 => fwdDoUncordon a s
  | 9 => fwdDoRepair a s
  | _ => (s, ⟨5, a.index, none⟩)
/-- A single command: its operands from FWD_INDEX and FWD_DATA, its answer back into them and FWD_CSTAT. -/
def fwdOne (op : Nat) (tbl : Nat) (b : Bool) (s : State) : State :=
  let (s, r) := fwdRun ⟨op, tbl, b, s.fwd.index.toNat, s.fwd.data0, s.fwd.data1, s.fwd.data2, s.fwd.data3⟩ s
  let s := { s with fwd.index := BitVec.ofNat 23 r.index }
  let s := match r.data with
    | some w => { s with fwd.data0 := w.getD 0 0, fwd.data1 := w.getD 1 0, fwd.data2 := w.getD 2 0, fwd.data3 := w.getD 3 0 }
    | none => s
  fwdStatus r.st s

def execFwdRead (p : HPort) (tbl : BitVec 4) (bank : Bool) (s : State) : Out := .next (fwdCommand p (fwdOne 1 tbl.toNat bank) s)
def execFwdWrite (p : HPort) (tbl : BitVec 4) (bank : Bool) (s : State) : Out := .next (fwdCommand p (fwdOne 2 tbl.toNat bank) s)
def execExInsert (p : HPort) (tbl : BitVec 4) (bank : Bool) (s : State) : Out := .next (fwdCommand p (fwdOne 3 tbl.toNat bank) s)
def execExDelete (p : HPort) (tbl : BitVec 4) (bank : Bool) (s : State) : Out := .next (fwdCommand p (fwdOne 4 tbl.toNat bank) s)
def execExLookup (p : HPort) (tbl : BitVec 4) (bank : Bool) (s : State) : Out := .next (fwdCommand p (fwdOne 5 tbl.toNat bank) s)
def execLiveInsert (p : HPort) (s : State) : Out := .next (fwdCommand p (fwdOne 6 6 false) s)
def execCordonSet (p : HPort) (s : State) : Out := .next (fwdCommand p (fwdOne 7 6 false) s)
def execCordonClr (p : HPort) (s : State) : Out := .next (fwdCommand p (fwdOne 8 6 false) s)
def execRepair (p : HPort) (tbl : BitVec 4) (bank : Bool) (s : State) : Out := .next (fwdCommand p (fwdOne 9 tbl.toNat bank) s)

/-! ### Epochs (R149 to R151, R251) -/

/-- The packets inside the MS9 that are in no output queue (R251): ingress holds, reorder stores, waiting replications and producers, transform-flow yards. -/
def State.prePackets (s : State) : List Pkt :=
  let yardPkts := fun (y : Tab (List YItem)) => y.flatMap (fun e => e.2.filterMap (fun i => match i.kind with | .flow p _ => if i.sent || i.flushed || i.aged then none else some p | _ => none))
  let ofBind := fun (b : Binding) => yardPkts b.yards ++ yardPkts b.oldYards ++ b.outs.filterMap (·.pkt)
  (s.swc.holds.flatMap (fun e => e.2.map (·.pkt))
    ++ s.swc.reorder.flatMap (fun e => e.2.flatMap (fun c => c.held.map (·.1)))
    ++ s.swc.repl.map (·.pkt) ++ s.swc.prod.map (·.pkt)
    ++ s.mil.binds.flatMap (fun e => match e.2 with | some b => ofBind b | none => [])).filter (·.counted)
/-- At a FLIP or an ARM, for one job: a drain marker in each queue that holds a packet of the job stamped with the bank, counting in the named fences, and OLDPRE for each of them (R251 steps 1 and 2). -/
def placeMarkers (bank : Bool) (job : BitVec 20) (ids : List Nat) (s : State) : State :=
  let keys := (s.swc.q.filter (fun e => e.2.items.any (fun i =>
    match i.pkt? with | some k => k.h.job == job && k.h.epoch == bank | none => false))).map (·.1)
  let pre := (s.prePackets.filter (fun k => k.h.job == job && k.h.epoch == bank)).length
  let s := modFences (fun f => if ids.contains f.id then
    { f with oldpre := BitVec.ofNat 32 pre, flipped := f.flipped || decide (0 < pre), oldbank := bank } else f) s
  forEach keys (fun key s => pushMarker (key / 8) (key % 8) ids s) s
/-- The jobs that have a fence armed, each once. -/
def fenceJobs (l : List Fence) : List (BitVec 20) :=
  l.foldl (fun acc f => if acc.contains f.job then acc else acc ++ [f.job]) []
/-- For every job that has a fence armed: its markers and OLDPRE (R251). -/
def placeAll (bank : Bool) (s : State) : State :=
  forEach (fenceJobs s.lnd.fences) (fun j s => placeMarkers bank j ((s.lnd.fences.filter (fun f => f.job == j)).map (·.id)) s) s
/-- The FREE bank becomes LIVE and the LIVE bank DRAINING (R149). -/
def doFlip (s : State) : State :=
  let old := s.fwd.cur
  let s := if old then { s with fwd.cur := false, fwd.stA := .live, fwd.stB := .draining }
    else { s with fwd.cur := true, fwd.stB := .live, fwd.stA := .draining }
  let s := placeAll old s
  if s.drained then raiseFwd 0 s else s
def execFlip (p : HPort) (s : State) : Out :=
  .next (fwdCommand p (fun s =>
    if s.fwd.stA == .draining || s.fwd.stB == .draining then fwdStatus 7 s else fwdStatus 0 (doFlip s)) s)
def execConfirm (p : HPort) (s : State) : Out :=
  .next (fwdCommand p (fun s =>
    if !s.drained then fwdStatus 8 s
    else
      let s := if s.fwd.stA == .draining then { s with fwd.stA := .free } else { s with fwd.stB := .free }
      fwdStatus 0 s) s)

/-! ### BATCH (R159) -/

/-- One record: the command word, the index and DATA0 to DATA3. -/
def batchArg (b : List Byte) : FwdArg :=
  let c := u32At b 0
  ⟨fld c 28 4, fld c 24 4, bitAt c 23, fld (u32At b 4) 0 23,
    BitVec.ofNat 32 (u32At b 8), BitVec.ofNat 32 (u32At b 12), BitVec.ofNat 32 (u32At b 16), BitVec.ofNat 32 (u32At b 20)⟩
/-- Runs records in order from the i-th; stops at the first whose status is not OK. -/
def runBatch : Nat → Nat → State → State
  | 0, i, s => fwdStatus 0 { s with fwd.batchDone := BitVec.ofNat 32 i }
  | fuel + 1, i, s =>
    let (s, r) := fwdRun (batchArg (rdMem s (s.fwd.batch.toNat + 32 * i) 32)) s
    if r.st == 0 then runBatch fuel (i + 1) s
    else fwdStatus r.st { s with fwd.batchDone := BitVec.ofNat 32 i }
def execBatch (p : HPort) (s : State) : Out :=
  .next (fwdCommand p (fun s => runBatch s.fwd.batchCnt.toNat 0 s) s)

/-! ### Background compare (R156, R157) -/

/-- The table, bank and place within the table of a segment. -/
def segmentOf (n : Nat) : Nat × Bool × Nat :=
  let inBank := fun (b : Bool) (k : Nat) =>
    if k == 0 then (0, b, 0)
    else if k ≤ 512 then (1, b, k - 1)
    else if k ≤ 1536 then (2, b, k - 513)
    else if k ≤ 2048 then (3, b, k - 1537)
    else if k ≤ 3072 then (4, b, k - 2049)
    else if k ≤ 4096 then (5, b, k - 3073)
    else (6, b, k - 4097)
  if n ≤ 8192 then inBank false n
  else if n ≤ 16385 then inBank true (n - 8193)
  else if n ≤ 16401 then (8, false, n - 16386)
  else if n ≤ 17425 then (9, false, n - 16402)
  else (10, false, n - 17426)
/-- D(e): the first 8 bytes of SM3 over table, bank, index and the entry's bytes. -/
def entryDigest (tbl : Nat) (b : Bool) (index : Nat) (bytes : List Byte) : Nat :=
  leNat ((digestBytes (Config.sm3 (toLE 1 tbl ++ toLE 1 (b2n b) ++ toLE 4 index ++ bytes))).take 8)
/-- The entry counts in a digest: PRESENT, VALID or a non-zero TYPE. -/
def entryLive (tbl : Nat) (w : List Word) : Bool :=
  let w0 := (w.getD 0 0).toNat
  if tbl ≤ 4 then fld w0 30 2 != 0
  else if tbl == 9 then bitAt (w.getD 1 0).toNat 31
  else bitAt w0 31
/-- The bytes of an entry that its digest covers: TEARDOWN and SHORT as 0. -/
def digestBytesOf (tbl : Nat) (w : List Word) : List Byte :=
  match tbl with
  | 8 => bytesOfWords [w.getD 0 0, w.getD 1 0, w.getD 2 0, 0]
  | 10 => bytesOfWords [putFld (w.getD 0 0) 30 1 0, w.getD 1 0, 0, 0]
  | _ => bytesOfWords (w.take 2)
/-- The keys listed in an indexed table. -/
def tableKeys (s : State) (tbl : Nat) (b : Bool) : List Nat :=
  let k := s.bank b
  match tbl with
  | 0 => k.trie1.map (·.1) | 1 => k.trie2.map (·.1) | 2 => k.trie3.map (·.1)
  | 3 => k.trie4.map (·.1) | 4 => k.trie5.map (·.1) | 5 => k.route.map (·.1)
  | 8 => s.fwd.group.map (·.1) | 9 => s.fwd.repl.map (·.1) | 10 => s.fwd.job.map (·.1)
  | _ => []
/-- A segment's digest: the sum modulo 2^64 of D(e) over its entries. -/
def segDigest (s : State) (n : Nat) : Nat :=
  let (tbl, b, k) := segmentOf n
  if tbl == 6 then
    sumOf (((s.bank b).exact.filter (fun e => e.1 / 2 ^ 20 == k)).map (fun e =>
      entryDigest 6 b 0 (bytesOfWords (exactWords (BitVec.ofNat 32 e.1) e.2)))) % 2 ^ 64
  else
    sumOf (((tableKeys s tbl b).filter (fun i => i / 4096 == k)).map (fun i =>
      let w := tableWords s tbl b i
      if entryLive tbl w then entryDigest tbl b i (digestBytesOf tbl w) else 0)) % 2 ^ 64
/-- The indices of a segment that hold an error, the EIDs for EXACT. -/
def segMarked (t : Tab Bool) (n : Nat) : List Nat :=
  let (tbl, b, k) := segmentOf n
  let at_ := fun (i : Nat) => if tbl == 6 then i / 2 ^ 20 else i / 4096
  (t.filter (fun e => e.2 && e.1 / 2 ^ 32 == badKey tbl b 0 / 2 ^ 32 && at_ (e.1 % 2 ^ 32) == k)).map (fun e => e.1 % 2 ^ 32)
/-- The compare reads a segment: single-bit errors are corrected, each uncorrectable entry is logged, and what the segment then digests to is not stated (R134; log entry 92). -/
def readSegment (n : Nat) (s : State) : State × Nat :=
  let (tbl, b, _) := segmentOf n
  let bad := segMarked s.fwd.bad n
  let s := forEach (segMarked s.fwd.soft n) (correctAt tbl b) s
  let s := forEach bad (eccError tbl b) s
  if bad.isEmpty then (s, segDigest s n) else let (f, s) := takeFree s; (s, f.toNat)
/-- SEGMENT_DIGEST: one segment's record; at the end of a pass PASS and CMPDONE. -/
def segmentDigest (s : State) : State :=
  if !s.fwd.cmpEnable then s
  else
    let n := s.fwd.cmpNext
    let (s, dig) := readSegment n s
    let s := wrMem s (s.fwd.cmpBase.toNat + 16 * n) (toLE 8 dig ++ toLE 8 s.fwd.wseq.toNat)
    if n < 17681 then { s with fwd.cmpNext := n + 1 }
    else raiseFwd 1 { s with fwd.cmpNext := 0, fwd.cmpPass := s.fwd.cmpPass + 1, plt.lastPass := s.clk }
def execSegmentDigest (s : State) : Out := .next (segmentDigest s)

/-! ### Learning (R152 to R155) -/

/-- The ring can take a record (R154). -/
def State.learnRingOpen (s : State) : Bool :=
  let n := 2 ^ s.fwd.lrnLog2.toNat
  s.fwd.lrnEnable && s.hst.owner.isSome && (s.fwd.lrnHead.toNat + 1) % n != s.fwd.lrnTail.toNat % n
/-- Writes a record to the notification ring; source 2. -/
def writeLearn (note : List Byte) (s : State) : State :=
  let n := 2 ^ s.fwd.lrnLog2.toNat
  let h := s.fwd.lrnHead.toNat
  let s := wrMem s (s.fwd.lrnBase.toNat + 32 * h) note
  fire 2 { s with fwd.lrnHead := BitVec.ofNat 19 ((h + 1) % n) }
/-- Sets ORIGIN in a record. -/
def relayed (note : List Byte) : List Byte := overlay note 4 (toLE 4 (setFld (u32At note 4) 23 1 1))
/-- Delivers a record that this MS9 has seen: to its ring, or relayed on EAST, or lost (R154, R155). -/
def deliverLearn (note : List Byte) (s : State) : State :=
  if s.learnRingOpen then writeLearn note s
  else if s.inBlock then sendRing false 0x60 (relayed note ++ zeros 4) s
  else raiseFwd 2 (countX xfLearnLost 0 s)
/-- The reason of R152 for where a source resolves to, none where that is where the packet came from. -/
def learnReason (s : State) (port : Nat) : Option Hop → Option Nat
  | none => some 1
  | some .drop => some 2
  | some .toLocal => some 3
  | some (.port n) => if n == port then none else some 2
  | some (.bundle k) => if s.bundle port == k then none else some 2
/-- Step 12 of R133: at most one notification per source in 100 ms and LEARN_RATE per second. An uncorrectable entry met here is logged; the step never discards, so the packet goes on, without a notification (log entry 92). -/
def learnCheck (port : Nat) (p : Pkt) (s : State) : State :=
  if s.plt.plat.learn != 1 || s.glb.state == .cordoned then s
  else
    let (s, hop) := resolve p.h.epoch p.h.src p.district s
    match hop.bind (learnReason s port) with
    | none => s
    | some reason =>
      let src := p.h.src
      match s.fwd.filter.find? (fun e => e.1 == src) with
      | some e =>
        if s.clk - e.2 < 100000000 then s else go port p reason src s
      | none => go port p reason src s
where
  go (port : Nat) (p : Pkt) (reason : Nat) (src : Word) (s : State) : State :=
    let sec := s.clk / 10 ^ 9
    let s := if s.fwd.lrnSecond == sec then s else { s with fwd.lrnSecond := sec, fwd.lrnCount := 0 }
    if s.plt.plat.learnRate.toNat ≤ s.fwd.lrnCount then count (evNo 12 0x010 0) s
    else
      let s := { s with fwd.lrnCount := s.fwd.lrnCount + 1,
                        fwd.filter := ((src, s.clk) :: s.fwd.filter.filter (fun e => e.1 != src)).take 16384 }
      let note := toLE 4 src.toNat ++ toLE 4 (reason * 2 ^ 24 + port) ++ toLE 4 p.h.job.toNat ++ toLE 8 p.tin ++ toLE 8 s.nv.devid.toNat ++ zeros 4
      deliverLearn note s
/-- LEARN_RELAY: a relay on a ring lane. -/
def takeLearnRelay (msg : List Byte) (s : State) : State :=
  if u64At msg 20 == s.nv.devid.toNat then s
  else if s.learnRingOpen then writeLearn (fit 32 msg) s
  else sendRing false 0x60 (fit 32 msg ++ toLE 1 (u8At msg 32 + 1) ++ zeros 3) s
def execLearnRelay (lane : Fin 2) (codes : List Code) (s : State) : Out := .next (onRing lane 0x60 codes takeLearnRelay s)

end Sys2Proof.Machine
end

