-- ==== Sys2Proof/Machine/Arith.lean ====
section
/-! DEFINITION. Element formats, exact values, conversion and rounding (R264 to R272, R275, R276): the arithmetic that Landings and the Mill share. -/
namespace Sys2Proof.Machine
open Sys2Proof

/-- An exact value: NaN, an infinity, or (-1)^neg x m x 2^e; m = 0 is a signed zero. -/
inductive FV where
  | nan
  | inf (neg : Bool)
  | fin (neg : Bool) (m : Nat) (e : Int)
  deriving DecidableEq, Repr

def FV.zero : FV := .fin false 0 0
def FV.isNan : FV → Bool
  | .nan => true
  | _ => false
def FV.isZero : FV → Bool
  | .fin _ 0 _ => true
  | _ => false
def FV.isFin : FV → Bool
  | .fin .. => true
  | _ => false
def FV.ofInt (i : Int) : FV := .fin (decide (i < 0)) i.natAbs 0
def FV.negate : FV → FV
  | .nan => .nan
  | .inf n => .inf (!n)
  | .fin n m e => .fin (!n) m e
/-- Scales by a power of two, exactly. -/
def FV.scale (v : FV) (k : Int) : FV :=
  match v with
  | .fin n m e => .fin n m (e + k)
  | v => v

/-- Two finite values as integers at one exponent. -/
def commonInt (n1 : Bool) (m1 : Nat) (e1 : Int) (n2 : Bool) (m2 : Nat) (e2 : Int) : Int × Int × Int :=
  let e := min e1 e2
  let a : Int := (m1 * 2 ^ (e1 - e).toNat : Nat)
  let b : Int := (m2 * 2 ^ (e2 - e).toNat : Nat)
  (if n1 then -a else a, if n2 then -b else b, e)
/-- The exact sum; an exact zero from opposite signs is +0; opposite infinities give NaN. -/
def FV.add : FV → FV → FV
  | .nan, _ => .nan
  | _, .nan => .nan
  | .inf a, .inf b => if a == b then .inf a else .nan
  | .inf a, _ => .inf a
  | _, .inf b => .inf b
  | .fin n1 m1 e1, .fin n2 m2 e2 =>
    if m1 = 0 ∧ m2 = 0 then .fin (n1 && n2) 0 0
    else
      let (a, b, e) := commonInt n1 m1 e1 n2 m2 e2
      let c := a + b
      .fin (decide (c < 0)) c.natAbs e
/-- The exact product; 0 times an infinity gives NaN. -/
def FV.mul : FV → FV → FV
  | .nan, _ => .nan
  | _, .nan => .nan
  | .inf a, .inf b => .inf (a != b)
  | .inf a, .fin n m _ => if m = 0 then .nan else .inf (a != n)
  | .fin n m _, .inf b => if m = 0 then .nan else .inf (n != b)
  | .fin n1 m1 e1, .fin n2 m2 e2 => .fin (n1 != n2) (m1 * m2) (e1 + e2)
/-- Order of two values that are not NaN, −0 below +0. -/
def FV.lt : FV → FV → Bool
  | .nan, _ => false
  | _, .nan => false
  | .inf a, .inf b => a && !b
  | .inf a, _ => a
  | _, .inf b => !b
  | .fin n1 m1 e1, .fin n2 m2 e2 =>
    let (a, b, _) := commonInt n1 m1 e1 n2 m2 e2
    if a == b then n1 && !n2 else decide (a < b)
/-- minimumNumber and maximumNumber of IEEE 754-2019 (R208). -/
def FV.minNum (a b : FV) : FV := if a.isNan then b else if b.isNan then a else if b.lt a then b else a
def FV.maxNum (a b : FV) : FV := if a.isNan then b else if b.isNan then a else if a.lt b then b else a
/-- A NaN arose from operands that are not NaN. -/
def madeNan (r : FV) (ops : List FV) : Bool := r.isNan && !(ops.any FV.isNan)
/-- NaNs that arise where products are added to a value: one for each product of 0 and an infinity, one where infinities of both signs meet in the sum (R274). -/
def nansMade (c : FV) (l : List (FV × FV)) : Nat :=
  let ps := l.map (fun p => p.1.mul p.2)
  let met := (c :: ps).contains (.inf false) && (c :: ps).contains (.inf true)
  (l.filter (fun p => madeNan (p.1.mul p.2) [p.1, p.2])).length + b2n met

/-- A floating-point format (R266): exponent bits, mantissa bits, bias, and whether infinities and NaNs exist. -/
structure FFmt where
  ebits : Nat
  mbits : Nat
  bias : Nat
  inf : Bool
  /-- E4M3: the one NaN pattern is all ones below the sign, and the exponent 15 is otherwise finite -/
  e4m3 : Bool
  deriving DecidableEq, Repr
def fmtFP64 : FFmt := ⟨11, 52, 1023, true, false⟩
def fmtFP32 : FFmt := ⟨8, 23, 127, true, false⟩
def fmtBF16 : FFmt := ⟨8, 7, 127, true, false⟩
def fmtFP16 : FFmt := ⟨5, 10, 15, true, false⟩
def fmtE5M2 : FFmt := ⟨5, 2, 15, true, false⟩
def fmtE4M3 : FFmt := ⟨4, 3, 7, false, true⟩
def fmtE3M2 : FFmt := ⟨3, 2, 3, false, false⟩
def fmtE2M1 : FFmt := ⟨2, 1, 1, false, false⟩
/-- EXT80 as a format of 63 fraction bits; its explicit leading bit is laid out apart (R266). -/
def fmtEXT80 : FFmt := ⟨15, 63, 16383, true, false⟩

/-- The value of a pattern with an implicit leading bit. -/
def ffDecode (f : FFmt) (b : Nat) : FV :=
  let neg := bitAt b (f.ebits + f.mbits)
  let ex := fld b f.mbits f.ebits
  let m := fld b 0 f.mbits
  let top := 2 ^ f.ebits - 1
  if f.inf && ex == top then (if m == 0 then .inf neg else .nan)
  else if f.e4m3 && ex == top && m == 2 ^ f.mbits - 1 then .nan
  else if ex == 0 then .fin neg m (1 - (f.bias : Int) - f.mbits)
  else .fin neg (2 ^ f.mbits + m) ((ex : Int) - f.bias - f.mbits)

/-- Rounding modes (R275): nearest even, toward zero, stochastic with a 32-bit draw (R276). -/
inductive RMode where
  | rne | rtz
  | sr (r : Nat)
  deriving DecidableEq, Repr
/-- m / 2^k rounded to an integer under a mode. -/
def roundShift (rm : RMode) (m k : Nat) : Nat :=
  let q := m / 2 ^ k
  let r := m % 2 ^ k
  match rm with
  | .rtz => q
  | .rne => if 2 ^ k < 2 * r ∨ (2 * r = 2 ^ k ∧ q % 2 = 1) then q + 1 else q
  | .sr d => if 2 ^ 24 ≤ r * 2 ^ 24 / 2 ^ k + d / 256 then q + 1 else q
/-- The largest finite value of a format: mantissa and exponent. -/
def FFmt.maxFin (f : FFmt) : Nat × Int :=
  let top : Int := (2 ^ f.ebits - 1 : Nat)
  if f.inf then (2 ^ (f.mbits + 1) - 1, top - 1 - f.bias - f.mbits)
  else if f.e4m3 then (2 ^ (f.mbits + 1) - 2, top - f.bias - f.mbits)
  else (2 ^ (f.mbits + 1) - 1, top - f.bias - f.mbits)
/-- m x 2^e rounded to the format's precision and range below: q x 2^u with q below 2^(mbits+1). -/
def ffRound (f : FFmt) (rm : RMode) (m : Nat) (e : Int) : Nat × Int :=
  let lg : Int := (m.log2 : Int) + e
  let emin : Int := 1 - (f.bias : Int)
  let u := max lg emin - f.mbits
  let q := if u ≤ e then m * 2 ^ (e - u).toNat else roundShift rm m (u - e).toNat
  if q == 2 ^ (f.mbits + 1) then (2 ^ f.mbits, u + 1) else (q, u)
/-- q1 x 2^u1 exceeds q2 x 2^u2. -/
def exceeds (q1 : Nat) (u1 : Int) (q2 : Nat) (u2 : Int) : Bool :=
  let (a, b, _) := commonInt false q1 u1 false q2 u2
  decide (b < a)
/-- The pattern of a value in a format, and whether the conversion overflowed or saturated (R223, R275). -/
def ffEncode (f : FFmt) (rm : RMode) (v : FV) : Nat × Bool :=
  let sgn := fun (n : Bool) => b2n n * 2 ^ (f.ebits + f.mbits)
  let pack := fun (n : Bool) (q : Nat) (u : Int) =>
    if q < 2 ^ f.mbits then sgn n + q
    else sgn n + (u + f.mbits + f.bias).toNat * 2 ^ f.mbits + (q - 2 ^ f.mbits)
  let (mq, mu) := f.maxFin
  match v with
  | .nan =>
    if f.inf then ((2 ^ f.ebits - 1) * 2 ^ f.mbits + 2 ^ (f.mbits - 1), false)
    else if f.e4m3 then (2 ^ (f.ebits + f.mbits) - 1, false)
    else (0, false)
  | .inf n => if f.inf then (sgn n + (2 ^ f.ebits - 1) * 2 ^ f.mbits, false) else (pack n mq mu, true)
  | .fin n m e =>
    if m = 0 then (sgn n, false)
    else
      let (q, u) := ffRound f rm m e
      if exceeds q u mq mu then
        if f.inf && rm != .rtz then (sgn n + (2 ^ f.ebits - 1) * 2 ^ f.mbits, true) else (pack n mq mu, true)
      else (pack n q u, false)
/-- Rounding to nearest even within a format, as a value. -/
def ffRne (f : FFmt) (v : FV) : FV := ffDecode f (ffEncode f .rne v).1

/-- EXT80 with its explicit leading bit: sign bit 79, exponent [78:64], significand [63:0]. -/
def extDecode (b : Nat) : FV :=
  let neg := bitAt b 79
  let ex := fld b 64 15
  let sig := fld b 0 64
  if ex == 0x7FFF then (if fld sig 0 63 == 0 then .inf neg else .nan)
  else .fin neg sig ((max ex 1 : Nat) - (16383 : Int) - 63)
def extEncode (v : FV) : Nat :=
  let (p, _) := ffEncode fmtEXT80 .rne v
  let neg := bitAt p 78
  let ex := fld p 63 15
  let m := fld p 0 63
  b2n neg * 2 ^ 79 + ex * 2 ^ 64 + (if ex == 0 then 0 else 2 ^ 63) + m

/-- A value rounded to an integer under a mode, saturated to `w` bits of two's complement; NaN gives 0. With it: saturated, and NaN or not. -/
def toIntSat (w : Nat) (rm : RMode) (v : FV) : Int × Bool × Bool :=
  let hi : Int := 2 ^ (w - 1) - 1
  let lo : Int := -(2 ^ (w - 1))
  match v with
  | .nan => (0, false, true)
  | .inf n => (if n then lo else hi, true, false)
  | .fin n m e =>
    let q : Nat := if 0 ≤ e then m * 2 ^ e.toNat else roundShift rm m (-e).toNat
    let i : Int := if n then -(q : Int) else q
    if hi < i then (hi, true, false) else if i < lo then (lo, true, false) else (i, false, false)

/-- The draw of R276 from SEED, position and index. -/
def draw (seed p i : Nat) : Nat :=
  let m := fun n => n % 2 ^ 32
  let h := Nat.xor (Nat.xor (m seed) (m (p * 0x9E3779B9))) (m (i * 0x85EBCA6B))
  let h := Nat.xor h (h / 2 ^ 16)
  let h := m (h * 0x7FEB352D)
  let h := Nat.xor h (h / 2 ^ 15)
  let h := m (h * 0x846CA68B)
  Nat.xor h (h / 2 ^ 16)
/-- The mode of code 0, 1 or 2 for an element. -/
def modeOf (code seed p i : Nat) : RMode :=
  match code with
  | 0 => .rne
  | 1 => .rtz
  | _ => .sr (draw seed p i)

/-- Occurrences of each arithmetic exception (MIL_AEXCn). -/
structure Exc where
  inv : Nat
  ovf : Nat
  wrap : Nat
  snan : Nat
  cbu : Nat
  deriving DecidableEq, Repr
def Exc.none : Exc := ⟨0, 0, 0, 0, 0⟩
def Exc.plus (a b : Exc) : Exc := ⟨a.inv + b.inv, a.ovf + b.ovf, a.wrap + b.wrap, a.snan + b.snan, a.cbu + b.cbu⟩
def excInv (b : Bool) : Exc := ⟨b2n b, 0, 0, 0, 0⟩
def excOvf (b : Bool) : Exc := ⟨0, b2n b, 0, 0, 0⟩
def excSum (l : List Exc) : Exc := l.foldl Exc.plus Exc.none

/-! ### Formats by FMT code (R69, R264, R265) -/

/-- Bits of one packed element, without scales. -/
def elemBits (fmt : Nat) : Nat :=
  match fmt with
  | 0x00 => 8 | 0x01 => 32 | 0x02 => 16 | 0x03 => 16 | 0x04 => 8 | 0x05 => 8 | 0x06 => 8 | 0x07 => 6
  | 0x08 => 4 | 0x09 => 8 | 0x0A => 8 | 0x0B => 4 | 0x0C => 4 | 0x0D => 64 | 0x0E => 32 | _ => 8
def isMX (fmt : Nat) : Bool := fmt == 6 || fmt == 7 || fmt == 8 || fmt == 10
/-- The floating-point element format of a code. -/
def elemFmt (fmt : Nat) : Option FFmt :=
  match fmt with
  | 0x01 => some fmtFP32 | 0x02 => some fmtBF16 | 0x03 => some fmtFP16 | 0x04 => some fmtE4M3 | 0x05 => some fmtE5M2
  | 0x06 => some fmtE4M3 | 0x07 => some fmtE3M2 | 0x08 => some fmtE2M1 | 0x0D => some fmtFP64 | _ => none
def isIntFmt (fmt : Nat) : Bool := fmt == 9 || fmt == 11 || fmt == 14
/-- The bytes that n elements take (R265); `named` for CB4 with named codebooks. -/
def encSize (fmt n : Nat) (named : Bool) : Nat :=
  match fmt with
  | 0x00 => n | 0x01 => 4 * n | 0x02 => 2 * n | 0x03 => 2 * n | 0x04 => n | 0x05 => n
  | 0x06 => n / 32 + n | 0x07 => n / 32 + 3 * n / 4 | 0x08 => n / 32 + n / 2
  | 0x09 => n | 0x0A => n / 32 + n | 0x0B => divUp n 2
  | 0x0C => 4 + (if named then 128 else 160) * (n / 256)
  | 0x0D => 8 * n | 0x0E => 4 * n | _ => n
/-- Element i of a packed string of w-bit elements (R264). -/
def packedAt (str : Nat) (w i : Nat) : Nat := fld str (w * i) w
/-- Packs w-bit patterns into bytes, the last byte filled with zeros. -/
def packBits (w : Nat) (l : List Nat) : List Byte :=
  let n := l.foldr (fun v acc => v % 2 ^ w + acc * 2 ^ w) 0
  toLE (divUp (w * l.length) 8) n
/-- The value of one element pattern; MXINT8 without its block scale. -/
def elemValue (fmt b : Nat) : FV :=
  match elemFmt fmt with
  | some f => ffDecode f b
  | none =>
    match fmt with
    | 0x0A => (FV.ofInt (signed 8 b)).scale (-6)
    | 0x09 => FV.ofInt (signed 8 b)
    | 0x0B => FV.ofInt (signed 4 b)
    | 0x0E => FV.ofInt (signed 32 b)
    | _ => ffDecode fmtFP32 (Config.rawValue (BitVec.ofNat 8 b)).toNat
/-- A block scale (R268): the exponent, or none for NaN. -/
def scaleOf (x : Nat) : Option Int := if x == 0xFF then none else some ((x : Int) - 127)
/-- A decoded array: its values, the exceptions met, and whether the encoding is valid. -/
structure Decoded where
  vals : List FV
  exc : Exc
  ok : Bool
/-- The 16 values of a codebook entry, none where it has never been written. -/
abbrev CbLook := Nat → Option (List Half)
def cbValue (book : List Half) (ix : Nat) : FV := ffDecode fmtBF16 (book.getD ix 0).toNat
/-- Decodes n elements of a format (R264 to R272). A named entry never written decodes as zeros with CBUNSET. -/
def decodeArr (fmt n : Nat) (b : List Byte) (cb : CbLook) : Decoded :=
  if isMX fmt then
    let ns := n / 32
    let str := leNat (b.drop ns)
    let w := elemBits fmt
    let vals := (List.range n).map (fun i =>
      match scaleOf (u8At b (i / 32)) with
      | none => FV.nan
      | some k => (elemValue fmt (packedAt str w i)).scale k)
    ⟨vals, ⟨0, 0, 0, ((b.take ns).filter (· == 0xFF)).length, 0⟩, true⟩
  else if fmt == 0x0C then
    let cbw := u32At b 0
    let named := bitAt cbw 31
    let step := bitAt cbw 30
    let base := fld cbw 0 12
    let ok := fld cbw 12 18 == 0 && (named || (!step && base == 0))
    let nb := n / 256
    let blocks := (List.range nb).map (fun j =>
      if named then
        let str := leNat (slice b (4 + 128 * j) 128)
        match cb ((if step then base + j else base) % 4096) with
        | some book => ((List.range 256).map (fun i => cbValue book (packedAt str 4 i)), 0)
        | none => (List.replicate 256 FV.zero, 1)
      else
        let book := (List.range 16).map (fun i => BitVec.ofNat 16 (u16At b (4 + 160 * j + 2 * i)))
        let str := leNat (slice b (4 + 160 * j + 32) 128)
        ((List.range 256).map (fun i => cbValue book (packedAt str 4 i)), 0))
    ⟨blocks.flatMap (·.1), ⟨0, 0, 0, 0, sumOf (blocks.map (·.2))⟩, ok⟩
  else
    let str := leNat b
    let w := elemBits fmt
    ⟨(List.range n).map (fun i => elemValue fmt (packedAt str w i)), Exc.none, true⟩

/-! ### Conversion and quantisation (R270, R272, R275) -/

/-- One value as an element pattern of a format that is neither MX nor CB4, with its exceptions. -/
def encElem (fmt : Nat) (rm : RMode) (v : FV) : Nat × Exc :=
  match elemFmt fmt with
  | some f => let (p, o) := ffEncode f rm v; (p, excOvf o)
  | none =>
    if fmt == 0 then (match v with
      | .nan => ((Config.rawByte 2 false 0 0).toNat, Exc.none)
      | .inf n => ((Config.rawByte 1 n 0 0).toNat, Exc.none)
      | .fin n m e => ((Config.rawByte 0 n m e).toNat, Exc.none))
    else
    let w := elemBits fmt
    let (i, o, n) := toIntSat w rm v
    (unsigned w i, (excOvf o).plus (excInv n))
def emaxOf (fmt : Nat) : Int :=
  match fmt with
  | 0x06 => 8 | 0x07 => 4 | 0x08 => 2 | _ => 0
/-- Floor of log2 of a finite non-zero magnitude. -/
def FV.lg : FV → Int
  | .fin _ m e => (m.log2 : Int) + e
  | _ => 0
def FV.magLt : FV → FV → Bool
  | .fin _ m1 e1, .fin _ m2 e2 => exceeds m2 e2 m1 e1
  | _, _ => false
/-- Quantises a block of 32 values (R270): scale byte, element patterns, exceptions. -/
def quantBlock (fmt : Nat) (rm : Nat → RMode) (v : List FV) : Nat × List Nat × Exc :=
  if v.any (fun x => !x.isFin) then (0xFF, v.map (fun _ => 0), ⟨0, 0, 0, 1, 0⟩)
  else if v.all FV.isZero then (127, v.map (fun _ => 0), Exc.none)
  else
    let a := v.foldl (fun a x => if a.magLt x then x else a) FV.zero
    let sh := a.lg - emaxOf fmt
    let raw := sh + 127
    let x : Nat := if raw < 0 then 0 else if 254 < raw then 254 else raw.toNat
    let k : Int := (x : Int) - 127
    let els := v.mapIdx (fun i e =>
      let q := e.scale (-k)
      if fmt == 0x0A then
        let (n, o, _) := toIntSat 8 (rm i) (q.scale 6)
        (unsigned 8 n, o)
      else match elemFmt fmt with
        | some f => ffEncode f (rm i) q
        | none => (0, false))
    (x, els.map (·.1), excOvf (decide (254 < raw) && els.any (·.2)))
/-- Encodes values in a format other than CB4: bytes and exceptions; `rm i` is the mode of element i. -/
def encodeArr (fmt : Nat) (rm : Nat → RMode) (v : List FV) : List Byte × Exc :=
  if isMX fmt then
    let nb := v.length / 32
    let bl := (List.range nb).map (fun j => quantBlock fmt (fun i => rm (32 * j + i)) ((v.drop (32 * j)).take 32))
    (bl.map (fun x => BitVec.ofNat 8 x.1) ++ packBits (elemBits fmt) (bl.flatMap (fun x => x.2.1)), excSum (bl.map (fun x => x.2.2)))
  else
    let els := v.mapIdx (fun i x => encElem fmt (rm i) x)
    (packBits (elemBits fmt) (els.map (·.1)), excSum (els.map (·.2)))
/-- The nearest finite entry of a codebook; ties to the lower index (R272). -/
def quantCb (book : List Half) (v : FV) : Nat × Exc :=
  let vals := book.map (fun h => ffDecode fmtBF16 h.toNat)
  match v with
  | .nan =>
    match findPos FV.isNan vals 0 with
    | some i => (i, Exc.none)
    | none => (0, excInv true)
  | _ =>
    let dist := fun (x : FV) => match v, x with
      | .inf n, .fin .. => if n then x else x.negate
      | _, _ => match v.add x.negate with
        | .fin _ m e => .fin false m e
        | o => o
    let best := (vals.zipIdx).foldl (fun (acc : Option (Nat × FV)) e =>
      if !e.1.isFin then acc
      else match acc with
        | none => some (e.2, dist e.1)
        | some a => if (dist e.1).lt a.2 then some (e.2, dist e.1) else some a) none
    ((best.map (·.1)).getD 0, Exc.none)

end Sys2Proof.Machine
end

