-- ==== Sys2Proof/Machine/TtOps.lean ====
section
/-! DEFINITION. Green-wave timetables in force (R196 to R204): slot arithmetic, admission of a scheduled packet, and when a scheduled packet that the MS9 originates may leave. -/
namespace Sys2Proof.Machine
open Sys2Proof

/-- Slot length in ns (R197). -/
def Timetable.len (t : Timetable) : Nat := 256 * t.slotcode
/-- Start of an occurrence: occurrences are slots counted from the activation instant (R199). -/
def Timetable.start (t : Timetable) (o : Nat) : Nat := t.t0 + o * t.len
/-- TOL in ns. -/
def State.tol (s : State) : Nat := s.plt.plat.time.tol.toNat
/-- R202: what holds while ADMIT is 1. -/
def State.admitOn (s : State) : Bool :=
  s.tmb.active.isSome && s.plt.plat.time.source != 2
    && (s.tmb.lock == .locked || (s.tmb.lock == .holdover && decide (s.clk - s.tmb.holdSince ≤ s.tmb.holdLimit.toNat * 1000)))
    && (match s.tmb.stepAt with | none => true | some t => decide (1000000 ≤ s.clk - t))

/-- The slots of a period whose low 16 bits equal SLOT (R202). -/
def slotsNamed (t : Timetable) (slot : Nat) : List Nat :=
  ((List.range 16).map (fun j => slot + 65536 * j)).filter (fun i => decide (i < t.period))
/-- Distance of an instant from an occurrence. -/
def slotDist (t : Timetable) (o at_ : Nat) : Nat :=
  if at_ < t.start o then t.start o - at_ else at_ - (t.start o + t.len)
/-- The occurrence nearest to an instant of a slot whose low 16 bits equal SLOT; the earlier one on a tie. -/
def nearestOcc (t : Timetable) (slot at_ : Nat) : Option Nat :=
  let k := (at_ - t.t0) / t.len / t.period
  let cand := [k - 1, k, k + 1].flatMap (fun k => (slotsNamed t slot).map (fun i => k * t.period + i))
  cand.foldl (fun best o =>
    match best with
    | none => some o
    | some b => if slotDist t o at_ < slotDist t b at_ ∨ (slotDist t o at_ = slotDist t b at_ ∧ o < b) then some o else best) none
/-- The next occurrence, after one, of a slot whose low 16 bits equal SLOT. -/
def nextOcc (t : Timetable) (slot o : Nat) : Option Nat :=
  let k := o / t.period
  let cand := [k, k + 1].flatMap (fun k => (slotsNamed t slot).map (fun i => k * t.period + i))
  (cand.filter (fun x => decide (o < x))).foldl (fun best x =>
    match best with | none => some x | some b => some (min b x)) none

/-- The directory row of a next hop (R197). -/
def rowOf : Hop → Nat
  | .port n => n
  | .bundle b => 2048 + b
  | _ => 4112
def deliveryRow (d : Nat) : Nat := 4096 + d
/-- The row exists in the image, and its port, bundle or district is built (R202, R206). -/
def State.rowOk (s : State) (t : Timetable) (row : Nat) : Bool :=
  (tget (0, 0) t.dir row).2 != 0
    && (if row < 2048 then s.portBuilt row else if row < 4096 then !(s.bundlePorts (row - 2048)).isEmpty else true)
/-- The packet's source matches SRCTYPE and SRC (R198); the output of a transform flow is originated in its binding's district (R203). -/
def srcMatches (s : State) (e : TtEntry) (p : Pkt) : Bool :=
  match e.srctype.toNat with
  | 0 => p.flow.isNone && p.inPort == e.src.toNat
  | 1 => p.flow.isNone && decide (p.inPort < 2048) && e.src.toNat != 0 && s.bundle p.inPort == e.src.toNat
  | 2 => (p.flow.isSome || decide (2048 ≤ p.inPort)) && p.district == e.src.toNat
  | _ => true
/-- The first entry of a row that covers a slot and matches the packet, by its index in the image. -/
def entryFor (s : State) (t : Timetable) (row slot : Nat) (p : Pkt) : Option (Nat × TtEntry) :=
  let (first, count) := tget (0, 0) t.dir row
  let tagged := (((t.entries.drop first).take count).zipIdx).map (fun e => (first + e.2, e.1))
  tagged.find? (fun e =>
    decide (e.2.start ≤ slot) && decide (slot < e.2.start + e.2.count) && e.2.job == p.h.job
      && e.2.cls == (p.h.tc == 6) && srcMatches s e.2 p)
/-- Bytes already admitted under an entry in an occurrence. -/
def usedBytes (s : State) (t : Timetable) (row entry occ : Nat) : Nat :=
  match s.tmb.used.find? (fun u => u.row == row && u.entry == entry && u.occ == occ && u.t0 == t.t0) with
  | some u => u.bytes
  | none => 0
def addUsed (t : Timetable) (row entry occ n : Nat) (s : State) : State :=
  let same := fun (u : SlotUse) => u.row == row && u.entry == entry && u.occ == occ && u.t0 == t.t0
  let b := usedBytes s t row entry occ + n
  { s with tmb.used := ⟨row, entry, occ, t.t0, b⟩ :: s.tmb.used.filter (fun u => !same u) }

/-- What an image says of a packet at an instant: a violation, or the entry and occurrence it is admitted under. -/
inductive SlotAns where
  | viol (reason : Nat)
  | ok (entry occ : Nat)
  deriving DecidableEq, Repr
/-- The checks of R202 from NO_PORT on, against one image. -/
def slotCheck (s : State) (t : Timetable) (row : Nat) (p : Pkt) (at_ : Nat) : SlotAns :=
  if !s.rowOk t row then .viol 3
  else
    match nearestOcc t p.h.slot at_ with
    | none => .viol 6
    | some o =>
      if at_ + s.tol < t.start o then .viol 4
      else if t.start o + t.len + s.tol < at_ then .viol 5
      else
        match entryFor s t row (o % t.period) p with
        | none => .viol 6
        | some (i, e) => if usedBytes s t row i o + p.size ≤ e.budget * 64 then .ok i o else .viol 7
/-- The old image while its grace lasts (R201). -/
def State.oldImage (s : State) : Option Timetable :=
  match s.tmb.old with
  | some (t, e) => if s.now ≤ e then some t else none
  | none => none
/-- What TMB_VLOG records of a violation. -/
def vlogWord (reason row inPort : Nat) : Word := BitVec.ofNat 32 (reason * 2 ^ 28 + row * 2 ^ 13 + inPort % 2048)
def setVlog (w : Word) (s : State) : State := { s with tmb.vlog := w }
/-- A violation is counted per row and reason, logged, and VIOL rises (R202). -/
def violation (reason row : Nat) (p : Pkt) (s : State) : State :=
  let s := setVlog (vlogWord reason row p.inPort) (count (evNo 20 reason row) s)
  raiseTmb 3 (if row < 2048 then modMap row (fun m => { m with viol := m.viol + 1 }) s else s)
/-- Admission of a scheduled packet toward a row (R202); with `none` it is admitted and its bytes are charged. -/
def admitPkt (row : Nat) (p : Pkt) (s : State) : State × Option Nat :=
  let bad := fun (r : Nat) (s : State) => (violation r row p s, some r)
  if !s.admitOn then bad 1 s
  else if !p.h.schedFlag then bad 2 s
  else
    match s.tmb.active with
    | none => bad 1 s
    | some t =>
      match slotCheck s t row p p.tin with
      | .ok i o => (addUsed t row i o p.size s, none)
      | .viol r =>
        match s.oldImage with
        | none => bad r s
        | some t' =>
          match slotCheck s t' row p p.tin with
          | .ok i o => (addUsed t' row i o p.size s, none)
          | .viol _ => bad r s

/-- What R203 makes of a scheduled packet that the MS9 originates. -/
inductive OrigAns where
  /-- within its window and its entry's budget: the image, entry and occurrence -/
  | now (t : Timetable) (entry occ : Nat)
  /-- sent as TC3 with SCHED = 0, counted under a reason -/
  | demote (reason : Nat)
  /-- the producer waits until this instant -/
  | wait (until_ : Nat)
  deriving DecidableEq, Repr
/-- R203 against one image at this instant; `fuel` bounds the occurrences tried. -/
def origTry (s : State) (t : Timetable) (row : Nat) (p : Pkt) : Nat → Nat → OrigAns
  | 0, _ => .wait s.now
  | fuel + 1, o =>
    if s.now + s.tol < t.start o then .wait (t.start o - s.tol)
    else
      let ok := match (if s.rowOk t row then entryFor s t row (o % t.period) p else none) with
        | some (i, e) => if usedBytes s t row i o + p.size ≤ e.budget * 64 then some i else none
        | none => none
      match ok with
      | some i => .now t i o
      | none =>
        match nextOcc t p.h.slot o with
        | none => .wait s.now
        | some o' => origTry s t row p fuel o'
def origAns (s : State) (row : Nat) (p : Pkt) : OrigAns :=
  match (if s.admitOn then s.tmb.active else none) with
  | none => .demote 1
  | some t =>
    match nearestOcc t p.h.slot s.now with
    | none => .wait s.now
    | some o => if t.start o + t.len + s.tol < s.now then .demote 5 else origTry s t row p 4 o
/-- A packet that the MS9 originates, in any class: unscheduled ones by `originate`, scheduled ones by R203. -/
def originateAny (stampAtEnqueue : Bool) (notBefore : Nat) (hop : Hop) (p : Pkt) (s : State) : State :=
  if !(p.h.isSched && p.h.schedFlag) then originate stampAtEnqueue notBefore hop p s
  else if (2048 ≤ p.inPort && s.fwd.mgmtEid == 0) || s.glb.state == .cordoned then originate stampAtEnqueue notBefore hop p s
  else if s.hopCut p.district hop p.h then originate stampAtEnqueue notBefore hop p s
  else if s.now < notBefore then waitProd stampAtEnqueue notBefore hop p s
  else
    match origAns s (rowOf hop) p with
    | .demote r => originate stampAtEnqueue notBefore hop { p with h := p.h.unsched.setTc 3 } (count (evNo 20 r (rowOf hop)) s)
    | .wait u => waitProd stampAtEnqueue u hop p s
    | .now t i o =>
      match s.canWrite p.district hop p with
      | some _ => originate stampAtEnqueue notBefore hop p (addUsed t (rowOf hop) i o p.size s)
      | none => waitProd stampAtEnqueue notBefore hop p s

end Sys2Proof.Machine
end

