-- ==== Sys2Proof/Machine/YardOps.lean ====
section
/-! DEFINITION. What Landings and the switch core need of the Mill: program images in the store, yards and their items (R288 to R298), codebooks, and the exception flags of a district (R278). -/
namespace Sys2Proof.Machine
open Sys2Proof

/-! ### Arithmetic exceptions and codebooks -/

/-- MIL_AEXCn and Tally, per district and cause (R277, R278). -/
def addExc (d : Nat) (e : Exc) (s : State) : State :=
  if e == Exc.none then s
  else
    let old := tget 0 s.mil.aexc d
    let put := fun (v : BitVec 5) (i n : Nat) => if n == 0 then v else setBit v i true
    let v := put (put (put (put (put old 0 e.inv) 1 e.ovf) 2 e.wrap) 3 e.snan) 4 e.cbu
    let s := { s with mil.aexc := tset 0 s.mil.aexc d v }
    countXN xfExcInvalid d e.inv (countXN xfExcOverflow d e.ovf (countXN xfExcIntwrap d e.wrap
      (countXN xfExcScalenan d e.snan (countXN xfExcCbunset d e.cbu s))))
/-- A codebook entry, none where it has not been written since reset (R272, R273). -/
def State.cbLook (s : State) : CbLook := fun i =>
  let e := tget CbEnt.reset s.mil.cb i
  if e.written then some e.vals else none

/-! ### Yards -/

/-- An item that has been dropped while claimed: its thread's next read receives FLUSHED. -/
def YItem.gone (i : YItem) : Bool := i.flushed || i.aged
/-- Bytes of capacity that an item still takes: whole words not yet read, none once it has been dropped. -/
def YItem.room (i : YItem) : Nat := if i.gone then 0 else alignUp i.bytes.length 8 - alignUp i.rd 8
def yardUsed (l : List YItem) : Nat := sumOf (l.map YItem.room)
/-- The capacity of a yard of a place (R288). -/
def State.yardCap (s : State) (p : Place) (y : Nat) : Nat :=
  if y == 0 then p.ycap.toNat else imgWycap (s.placeImage p)
def Binding.yard (b : Binding) (y : Nat) : List YItem := tget [] b.yards y

/-! ### The middle of a yard (R288) -/

/-- Words of an item that have been read, at least in part. -/
def YItem.wordsRead (i : YItem) : Nat := divUp i.rd 8
/-- Where the words not yet read lie. -/
def YItem.left (i : YItem) : List WordAt := if i.gone then [] else i.loc.drop i.wordsRead
def sramWords (l : List YItem) : Nat := sumOf (l.map (fun i => (i.left.filter (· == .sram)).length))
/-- Bytes of the YARD partition of a district that yard middles take. -/
def State.yardSram (s : State) (d : Nat) : Nat :=
  8 * sumOf (s.mil.binds.map (fun e => match e.2 with
    | some b => (if b.place.district == d then sumOf (b.yards.map (fun y => sramWords y.2)) else 0)
        + (if (b.oldPlace.map (·.district)) == some d then sumOf (b.oldYards.map (fun y => sramWords y.2)) else 0)
    | none => 0))
/-- Bytes of a district's SRAM partition that drained banks take away (R356), by the code of RES_PART_INFO.PART. -/
def State.bankLost (s : State) (d part : Nat) : Nat :=
  (s.res.parts.filter (fun e => e.1 / 4096 == 2 && (e.2.st == .drained || e.2.st == .testing)
    && Config.bankPart (e.1 % 4096) == BitVec.ofNat 3 part && bankDistrict (e.1 % 4096) == d)).length * 2 ^ 20
/-- Words that the YARD partition of a district still has room for. -/
def State.yardFree (s : State) (d : Nat) : Nat := ((s.part d).yard.toNat * 2 ^ 20 - s.bankLost d 4 - s.yardSram d) / 8
/-- The items' words not yet read lie as a list gives them, in order. -/
def layWords : List WordAt → List YItem → List YItem
  | _, [] => []
  | w, i :: r =>
    let n := i.left.length
    { i with loc := i.loc.take i.wordsRead ++ w.take n ++ i.loc.drop (i.wordsRead + n) } :: layWords (w.drop n) r
/-- Words beyond the 64 of the tail spill, oldest first: to Stack SRAM while it has room, and to LPDDR5X beyond; while nothing has spilled, the 64 words of the head lie before those of the tail. -/
def spill (room : Nat) (l : List YItem) : List YItem :=
  let w := l.flatMap YItem.left
  let behind := (w.reverse.takeWhile (· == .regs)).length
  let tail := if behind == w.length then behind - 64 else behind
  let from_ := w.length - tail
  layWords (w.mapIdx (fun k x =>
    if from_ ≤ k && k < from_ + (tail - 64) then (if k - from_ < room then .sram else .lpddr) else x)) l
/-- Puts a whole item at the end of a yard. -/
def putItem (bid y : Nat) (kind : ItemKind) (bytes : List Byte) (s : State) : State :=
  s.modBind bid (fun b =>
    let it : YItem := ⟨b.nextItem, kind, bytes, true, none, 0, false, false, false, List.replicate (divUp bytes.length 8) .regs⟩
    { b with nextItem := b.nextItem + 1, yards := tset [] b.yards y (spill (s.yardFree b.place.district) (b.yard y ++ [it])) })
/-- The 32-byte descriptor of a FINISH stage (R296). -/
def finishDesc (ctx job step chunk pos n afmt outfmt seed : Nat) : List Byte :=
  toLE 4 ctx ++ toLE 4 job ++ toLE 4 step ++ toLE 2 chunk ++ toLE 2 pos ++ toLE 2 n ++ toLE 1 afmt ++ toLE 1 outfmt
    ++ toLE 4 (ctx * 4096 + pos) ++ toLE 4 seed ++ toLE 4 0

end Sys2Proof.Machine
end

