-- ==== Sys2Proof/Machine/LandOps.lean ====
section
/-! DEFINITION. Landings (R208 to R246): windows and sizes, accumulators and their arithmetic, residency, results, stages, completion of chunks and windows, and the delivery of a contribution. -/
namespace Sys2Proof.Machine
open Sys2Proof

/-! ### Windows and sizes (R210, R220, R221, R236) -/

def Desc.isFanout (d : Desc) : Bool := d.type == 8
def Desc.isCount (d : Desc) : Bool := d.type == 7
def Desc.isBarrier (d : Desc) : Bool := d.type == 6
def Desc.isBits (d : Desc) : Bool := d.type == 4 || d.type == 5
def Desc.nch (d : Desc) : Nat := if d.isBarrier then 1 else divUp d.elems.toNat d.chunkElem.toNat
/-- Elements of the chunk at a position of the window. -/
def Desc.elemsOf (d : Desc) (k : Nat) : Nat := if d.isBarrier then 0 else min d.chunkElem.toNat (d.elems.toNat - k * d.chunkElem.toNat)
def Desc.chunkVal (d : Desc) (k : Nat) : Nat := d.chunk0.toNat + k
def Desc.hasRelay (d : Desc) : Bool := d.stages.any (fun t => t.op != 0 && t.when_ == 3)
/-- Accepted format codes. -/
def Desc.inFmts (d : Desc) : List Nat := (List.range 15).filter (fun f => bitAt d.infmts.toNat f)
/-- Elements with a short last block of MX or CB4 filled. -/
def padded (fmt n : Nat) : Nat := if isMX fmt then alignUp n 32 else if fmt == 0x0C then alignUp n 256 else n
/-- Bytes of n elements, a short last block of MX or CB4 counted whole. -/
def encBytes (fmt n : Nat) (named : Bool) : Nat := encSize fmt (padded fmt n) named
/-- The accumulator format, coded as QUERY codes it (0x10 EXT80, 0x11 INT64); none where INFMTS is refused (R220). -/
def Desc.afmt? (d : Desc) : Option Nat :=
  let fs := d.inFmts
  let has := fun f => fs.contains f
  let intMix := has 0x0E && fs.any (fun f => !isIntFmt f && f != 0)
  if d.isFanout || d.isBarrier then some 0
  else if intMix || fs.isEmpty then none
  else if d.isCount then some 0x11
  else if d.isBits then
    if fs.all (fun f => (f == 0 || f == 9 || f == 0x0E) && elemBits f == elemBits (fs.headD 0)) then
      some (if has 0x0E then 0x0E else if has 9 then 9 else 0)
    else none
  else if has 0x0E then some 0x11
  else if has 0x0D then some 0x10
  else if has 0x01 then some 0x0D
  else some 0x01
def Desc.afmt (d : Desc) : Nat := d.afmt?.getD 0
def accBytes (code : Nat) : Nat :=
  match code with
  | 0x01 => 4 | 0x0D => 8 | 0x10 => 16 | 0x11 => 8 | 0x0E => 4 | _ => 1
/-- LINE, one chunk's state (R236). -/
def Desc.line (d : Desc) : Nat :=
  alignUp (d.chunkElem.toNat * accBytes d.afmt + 64 + (if d.isCount then 0 else divUp d.members.length 8)) 64
/-- The backing window (R236). -/
def Desc.backing (d : Desc) : Nat := alignUp (4096 + d.nch * d.line) 16384
/-- Resident lines (R236). -/
def Desc.lines (d : Desc) : Nat := (d.rslots.toNat * 65536 - 4096) / d.line

/-! ### Accumulators (R222) -/

def accDecode (code b : Nat) : FV :=
  match code with
  | 0x10 => extDecode b
  | 0x11 => FV.ofInt (signed 64 b)
  | c => elemValue c b
/-- A value rounded to the accumulator format to nearest even; INT64 wraps. -/
def accEncode (code : Nat) (v : FV) : Nat :=
  match code with
  | 0x10 => extEncode v
  | 0x11 =>
    match v with
    | .fin n m e =>
      let q : Nat := if 0 ≤ e then m * 2 ^ e.toNat else roundShift .rne m (-e).toNat
      unsigned 64 (if n then -(q : Int) else q)
    | _ => unsigned 64 (toIntSat 64 .rne v).1
  | c => (encElem c .rne v).1
/-- A value converted to the accumulator format under a mode (R275, R296): INT64 saturates. -/
def accConvert (code : Nat) (rm : RMode) (v : FV) : Nat × Exc :=
  match code with
  | 0x10 =>
    let (p, o) := ffEncode fmtEXT80 rm v
    (extEncode (ffDecode fmtEXT80 p), excOvf o)
  | 0x11 =>
    let (i, o, n) := toIntSat 64 rm v
    (unsigned 64 i, (excOvf o).plus (excInv n))
  | c => encElem c rm v
/-- Combines one contribution element, given as a value and as a pattern, into the accumulator element (R208, R222). -/
def combineElem (type code : Nat) (w : FV) (first : Bool) (a : Nat) (x : FV) (xb : Nat) : Nat × Exc :=
  let av := accDecode code a
  match type with
  | 0 => let r := av.add x; (accEncode code r, excInv (madeNan r [av, x]))
  | 1 =>
    let p := w.mul x
    let r := av.add p
    (accEncode code r, excInv (madeNan p [w, x] || madeNan r [av, p]))
  | 2 => (accEncode code (if first then x else av.minNum x), Exc.none)
  | 3 => (accEncode code (if first then x else av.maxNum x), Exc.none)
  | 4 => (if first then xb else Nat.land a xb, Exc.none)
  | 5 => (Nat.lor a xb, Exc.none)
  | _ => (a, Exc.none)
/-- An MX element beyond the largest finite FP32 value becomes a signed infinity (R269). -/
def clampMx (fmt : Nat) (v : FV) : FV × Bool :=
  match v with
  | .fin n m e => if isMX fmt && exceeds m e (2 ^ 24 - 1) 104 then (.inf n, true) else (v, false)
  | v => (v, false)
/-- The elements of a contribution: values, patterns, exceptions. -/
def contribution (s : State) (fmt n : Nat) (payload : List Byte) : List (FV × Nat) × Exc :=
  let dec := decodeArr fmt (padded fmt n) payload s.cbLook
  let str := leNat payload
  let w := elemBits fmt
  let els := (dec.vals.take n).mapIdx (fun i v =>
    let (v', o) := clampMx fmt v
    (v', packedAt str w i, o))
  (els.map (fun e => (e.1, e.2.1)), dec.exc.plus ⟨0, (els.filter (fun e => e.2.2)).length, 0, 0, 0⟩)
/-- The accumulator elements of a chunk; not yet opened, they are zeros. -/
def Ctx.accOf (c : Ctx) (k : Nat) : List Nat :=
  let ch := tget Chunk.reset c.chunks k
  if ch.acc.isEmpty then List.replicate (c.d.elemsOf k) 0 else ch.acc
def Ctx.chunk (c : Ctx) (k : Nat) : Chunk := tget Chunk.reset c.chunks k
def Ctx.setChunk (c : Ctx) (k : Nat) (ch : Chunk) : Ctx := { c with chunks := tset Chunk.reset c.chunks k ch }
def modChunk (cid k : Nat) (f : Chunk → Chunk) (s : State) : State := s.modCtx cid (fun c => c.setChunk k (f (c.chunk k)))
/-- The chunk in RFMT, by its ROUND stage (R223): bytes and exceptions. -/
def roundedBytes (s : State) (c : Ctx) (k : Nat) : List Byte × Exc :=
  let d := c.d
  let n := d.elemsOf k
  let rf := d.rfmt.toNat
  let ch := c.chunk k
  let whole := padded rf n
  let enc := fun (vals : List FV) =>
    encodeArr rf (modeOf d.rmode.toNat d.seed.toNat (d.chunkVal k)) (vals ++ List.replicate (whole - n) FV.zero)
  match ch.outBytes with
  | some (f, b) =>
    let bytes := b.map (BitVec.ofNat 8)
    if f.toNat == rf then (bytes, Exc.none)
    else
      let dec := decodeArr f.toNat (padded f.toNat n) bytes s.cbLook
      let (o, e) := enc (dec.vals.take n)
      (o, dec.exc.plus e)
  | none =>
    if d.isBits && elemBits rf == 8 * accBytes d.afmt && (rf == 0 || rf == 9 || rf == 0x0E) then (packBits (elemBits rf) (c.accOf k), Exc.none)
    else enc ((c.accOf k).map (accDecode d.afmt))

/-! ### Members and completion (R208, R226, R231 to R235) -/

def Ctx.isWithdrawn (c : Ctx) (i : Nat) : Bool := (tget none c.withdrawn i).isSome
def Ctx.hasSeen (c : Ctx) (i : Nat) : Bool := tget false c.seen i
/-- The member's acknowledgement or LAST is no longer awaited. -/
def Ctx.memberDone (c : Ctx) (i : Nat) : Bool := c.hasSeen i || c.isWithdrawn i || tget false c.lowered i
def Ctx.allMembers (c : Ctx) : List Nat := List.range c.d.members.length
/-- The chunk has every contribution it waits for. -/
def Ctx.chunkReady (c : Ctx) (k : Nat) : Bool :=
  let d := c.d
  if d.isFanout then (c.chunk k).done
  else if d.isCount then c.allMembers.all (fun i => c.hasSeen i || c.isWithdrawn i)
  else if d.linked then
    match c.counts with
    | none => false
    | some l => decide (min (l.getD k 0) d.members.length ≤ (c.chunk k).from_.length)
  else c.allMembers.all (fun i => (c.chunk k).from_.contains i || c.isWithdrawn i)
/-- The count of a linked chunk is known and 0 (R232). -/
def Ctx.countZero (c : Ctx) (k : Nat) : Bool := c.d.linked && (match c.counts with | some l => l.getD k 0 == 0 | none => false)
/-- The chunk has completed: its WHEN 0 stages run or are done, or, of a FANOUT context, it has been relayed. -/
def Ctx.chunkComplete (c : Ctx) (k : Nat) : Bool := (c.chunk k).done || (c.chunk k).running.isSome
def Ctx.completeCount (c : Ctx) : Nat := ((List.range c.d.nch).filter c.chunkComplete).length

/-! ### Residency (R237) -/

def State.slotsUsed (s : State) (d : Nat) : Nat :=
  sumOf (s.lnd.ctxs.map (fun e => match e.2 with
    | some c => if c.d.home.toNat == d && (c.resident || c.restoring) then c.d.rslots.toNat else 0
    | none => 0))
/-- Results of a context that are held, or that wait for queue room or their slot: those of one chunk, or of any. -/
def State.unsent (s : State) (cid : Nat) (k : Option Nat) : Bool :=
  let mine := fun (c j : Nat) => c == cid && (match k with | some n => j == n | none => true)
  s.lnd.held.any (fun h => mine h.ctx h.pos) || s.swc.prod.any (fun w => match w.pkt.result with | some r => mine r.1 r.2 | none => false)
/-- A resident context that may be evicted: no stage running, no held result. -/
def State.evictable (s : State) (cid : Nat) (c : Ctx) : Bool :=
  c.resident && !(c.chunks.any (fun e => e.2.running.isSome)) && !(s.unsent cid none)
/-- The evictable contexts of a district, least recently active first. -/
def State.evictList (s : State) (d : Nat) : List (Nat × Nat × Nat) :=
  let l := s.lnd.ctxs.filterMap (fun e => match e.2 with
    | some c => if c.d.home.toNat == d && s.evictable e.1 c then some (e.1, c.active, c.d.rslots.toNat) else none
    | none => none)
  l.mergeSort (fun a b => decide (a.2.1 ≤ b.2.1))
/-- Evicts contexts in order until `need` slots are free. -/
def evictFor (d : Nat) : List (Nat × Nat × Nat) → Nat → State → State
  | [], _, s => s
  | (cid, _, r) :: rest, need, s =>
    if need == 0 then s
    else evictFor d rest (need - r) (count (evNo 24 0x000 d) (s.modCtx cid (fun c => { c with resident := false })))
/-- A packet for a context makes it the most recently active; one that is not resident starts its restore where slots can be found. -/
def touchCtx (cid : Nat) (s : State) : State :=
  match s.ctx cid with
  | none => s
  | some c =>
    let s := s.setCtx cid (some { c with active := s.clk })
    if c.resident || c.restoring then s
    else
      let d := c.d.home.toNat
      let need := c.d.rslots.toNat - (s.landSlots d - s.slotsUsed d)
      let l := s.evictList d
      if sumOf (l.map (·.2.2)) < need then s
      else (evictFor d l need s).modCtx cid (fun c => { c with restoring := true })
/-- Resident lines in use: a chunk's until it is done, and as long as a result of it is held (R228). -/
def State.linesUsed (s : State) (cid : Nat) (c : Ctx) : Nat :=
  (c.chunks.filter (fun e => e.2.opened && e.2.resident && (!e.2.done || s.unsent cid (some e.1)))).length
/-- A chunk opens on its first accepted packet, in a resident line if one is free. -/
def openChunk (cid k : Nat) (s : State) : State :=
  match s.ctx cid with
  | none => s
  | some c =>
    if (c.chunk k).opened then s
    else
      let res := c.resident && decide (s.linesUsed cid c < c.d.lines)
      s.setCtx cid (some (c.setChunk k { c.chunk k with opened := true, resident := res }))
/-- The timer restarts (R229); while the device is QUIESCED it holds the time already run (R240). -/
def restartTimer (s : State) (c : Ctx) : Ctx := { c with timer := some (if s.glb.state == .quiesced then 0 else s.clk) }

/-! ### Records (R230) -/

/-- A completion record of a context: 1 DONE, 2 TIMEOUT, 3 LATE_RELEASE. -/
def ctxRecord (event cid : Nat) (msi : Bool) (s : State) : State :=
  match s.ctx cid with
  | none => s
  | some c =>
    let open_ := (List.range c.d.nch).filter (fun k => !c.chunkComplete k)
    let firstCh := open_.headD 0xFFFF
    let missing :=
      if c.d.linked then 0xFFFF
      else if c.d.isFanout || c.d.isCount then ((c.allMembers.find? (fun i => !c.memberDone i)).getD 0xFFFF)
      else match open_ with
        | [] => 0xFFFF
        | k :: _ => ((c.allMembers.find? (fun i => !(c.chunk k).from_.contains i && !c.isWithdrawn i)).getD 0xFFFF)
    lndRecord [event * 2 ^ 24 + cid, c.d.job.toNat, c.step.toNat, c.short.toNat,
      open_.length * 65536 + c.nCorrected.toNat, firstCh * 65536 + missing, s.now % 2 ^ 32, s.now / 2 ^ 32 % 2 ^ 32] msi s

/-! ### Results (R227, R228) -/

def satWord (n : Nat) : Word := BitVec.ofNat 32 (sat 0xFFFFFFFF n)
/-- One copy of a Landing's replication is not written: Tally, the group's SHORT and the window's SHORT (R146, R227). -/
def shortCopy (cid group : Nat) (p : Pkt) (out : Option Nat) (s : State) : State :=
  let s := capture .discard 29 p out (countDiscard 29 p.inPort s)
  let s := { s with fwd.group := tmod GroupEnt.zero s.fwd.group group (fun g => { g with short := satWord (g.short.toNat + 1) }) }
  s.modCtx cid (fun c => { c with short := satWord (c.short.toNat + 1) })
/-- The header of a result packet. -/
def resultHdr (s : State) (c : Ctx) (k : Nat) (t : Stage) (dst : Word) (len : Nat) : Hdr :=
  let d := c.d
  let dest := t.a.toNat
  let sched := bitAt t.b.toNat 3
  let per := max 1 (fld t.e.toNat 20 12)
  mkHdr (if dest ≤ 1 then 3 else 2) (fld t.b.toNat 0 3) s.fwd.cur len dst s.fwd.mgmtEid d.job.toNat 0
    (if dest == 2 then d.upctx.toNat else d.ctx.toNat)
    (b2n (k == 0) * 32 + b2n (k + 1 == d.nch) * 16 + b2n sched * 8) d.rfmt.toNat 0
    (if sched then (fld t.e.toNat 0 20 + k / per) % 65536 else 0) (d.chunkVal k)
    (if dest == 2 then fld t.f.toNat 0 16 else 0)
def resultPkt (s : State) (c : Ctx) (k : Nat) (h : Hdr) (payload : List Byte) : Pkt :=
  { h := h, payload := payload, tin := s.now, inPort := 2048 + c.d.home.toNat, c2 := false, counted := false, result := some (c.d.ctx.toNat, k) }
/-- The copies of a DEST 0 or DEST 3 SEND, one per VALID member of the group (R146, R227). -/
def sendGroup (cid k : Nat) (t : Stage) (payload : List Byte) (s : State) : State :=
  match s.ctx cid with
  | none => s
  | some c =>
    let home := c.d.home.toNat
    let gi := t.c.toNat % 65536
    let pkt := fun (s : State) (dst : Word) => resultPkt s c k (resultHdr s c k t dst payload.length) payload
    match readEnts s.fwd.cur [(8, gi)] s with
    | (s, false) => discard 13 (pkt s 0) none s
    | (s, true) =>
      let g := tget GroupEnt.zero s.fwd.group gi
      if !bitAt g.w0.toNat 31 then discard 7 (pkt s 0) none s
      else
        forEach (rangeFrom (fld g.w0.toNat 0 22) (fld g.w1.toNat 0 12)) (fun i s =>
          match readMember s.fwd.cur i s with
          | (s, .ecc) => discard 13 (pkt s 0) none s
          | (s, .skip) => s
          | (s, .at_ eid cordoned hop) =>
            let p := pkt s eid
            if cordoned || s.hopDraining home hop p.h then shortCopy cid gi p (chosenPort s home hop p.h) s
            else if !s.hopUp hop then discard 12 p hop.port? s
            else originateAny true 0 hop p s) s
/-- A packet to UPEID, by lookup; one that resolves to this MS9 is delivered here. -/
def sendUp (home : Nat) (p : Pkt) (s : State) : State × List Pkt :=
  match lookup s p.h home with
  | (s, .fail c o) => (discard c p o s, [])
  | (s, .dest (.hop .toLocal)) => (s, [p])
  | (s, .dest (.hop hop)) => (originateAny true 0 hop p s, [])
  | (s, .dest _) => (s, [])
/-- A SEND that nothing holds any longer. -/
def sendNow (cid k : Nat) (t : Stage) (payload : List Byte) (s : State) : State × List Pkt :=
  match s.ctx cid with
  | none => (s, [])
  | some c =>
    if t.a == 0 || t.a == 3 then (sendGroup cid k t payload s, [])
    else
      let p := resultPkt s c k (resultHdr s c k t c.d.upeid payload.length) payload
      if s.fwd.mgmtEid == 0 then (discard 27 p none s, []) else sendUp c.d.home.toNat p s
/-- A SEND stage: at once, or held until its instant or trigger; a result ready after its instant writes one LATE_RELEASE record per window. -/
def sendStage (cid k i : Nat) (payload : List Byte) (s : State) : State × List Pkt :=
  match s.ctx cid with
  | none => (s, [])
  | some c =>
    match c.d.stages[i]? with
    | none => (s, [])
    | some t =>
      let hold := bitAt t.b.toNat 4 && !c.holdOff
      let late := t.d != 0 && decide (t.d.toNat < s.now) && !c.lateRel
      let s := if late then ctxRecord 3 cid false (s.modCtx cid (fun c => { c with lateRel := true })) else s
      if hold || decide (s.now < t.d.toNat) then
        ({ s with lnd.held := s.lnd.held ++ [⟨cid, k, i, payload, t.d.toNat, hold⟩] }, [])
      else sendNow cid k t payload s
/-! ### Stages (R226) -/

/-- The stages of one WHEN, as places in the list. -/
def Desc.stagesOf (d : Desc) (w : Byte) : List Nat :=
  (List.range d.stages.length).filter (fun i => match d.stages[i]? with | some t => t.op != 0 && t.when_ == w | none => false)
/-- Runs WHEN 0 stages of a chunk in order; a FINISH, and a SEND whose result waits, leave the chunk running at that stage. -/
def runStages (cid k : Nat) : List Nat → State → State × List Pkt
  | [], s => (modChunk cid k (fun ch => { ch with running := none, done := true }) s, [])
  | i :: rest, s =>
    match s.ctx cid with
    | none => (s, [])
    | some c =>
      match c.d.stages[i]? with
      | none => (s, [])
      | some t =>
        match t.op.toNat with
        | 1 =>
          let desc := finishDesc cid c.d.job.toNat c.step.toNat (c.d.chunkVal k) k (c.d.elemsOf k) c.d.afmt t.a.toNat c.d.seed.toNat
          let s := modChunk cid k (fun ch => { ch with running := some i }) s
          (putItem (t.c.toNat % 4096) 0 (.finish cid k c.step.toNat) desc s, [])
        | 2 =>
          let (b, e) := roundedBytes s c k
          let s := addExc c.d.home.toNat e (modChunk cid k (fun ch => { ch with outBytes := some (c.d.rfmt, b.map (·.toNat)) }) s)
          runStages cid k rest s
        | 3 =>
          let payload := match (c.chunk k).outBytes with | some (_, b) => b.map (BitVec.ofNat 8) | none => []
          let (s, loc) := sendStage cid k i payload (modChunk cid k (fun ch => { ch with running := some i }) s)
          if s.unsent cid (some k) then (s, loc)
          else
            let (s, loc') := runStages cid k rest s
            (s, loc ++ loc')
        | _ => runStages cid k rest s
/-- The withdrawal correction at a chunk's first stage (R235). -/
def correctChunk (cid k : Nat) (s : State) : State :=
  match s.ctx cid with
  | none => s
  | some c =>
    let ws := c.withdrawn.filterMap (fun e => match e.2 with
      | some w => if (c.chunk k).from_.contains e.1 || (c.d.isCount && c.hasSeen e.1) then none else some w
      | none => none)
    if ws.isEmpty || c.d.isFanout then s
    else
      let times := fun (w : Word) (r : List Nat × Exc) =>
        let f := ffDecode fmtFP32 w.toNat
        let vs := r.1.map (accDecode c.d.afmt)
        (vs.map (fun v => accEncode c.d.afmt (v.mul f)), r.2.plus ⟨(vs.filter (fun v => madeNan (v.mul f) [v, f])).length, 0, 0, 0, 0⟩)
      let (acc, e) := if c.d.isBits || c.d.isBarrier then (c.accOf k, Exc.none)
        else ws.foldl (fun r w => times w r) (c.accOf k, Exc.none)
      addExc c.d.home.toNat e
        (s.setCtx cid (some { (c.setChunk k { c.chunk k with acc := acc }) with nCorrected := c.nCorrected + 1 }))

/-! ### What follows an event: chunks, windows, and what they set off elsewhere -/

/-- What remains to be done after an event in a Landing. -/
inductive LTask where
  | deliver (p : Pkt)
  | progress (cid : Nat)
  | trigger (cid : Nat)
  deriving DecidableEq, Repr
def localTasks (l : List Pkt) : List LTask := l.map .deliver
/-- FANOUT: the expected acknowledgements fall by each cordoned member not yet acknowledged (R233). -/
def cordonCheck (cid : Nat) (s : State) : State :=
  match s.ctx cid with
  | none => s
  | some c =>
    if !c.d.isFanout then s
    else
      let low := c.allMembers.filter (fun i =>
        !c.memberDone i && ((s.exact s.fwd.cur (c.d.members.getD i 0)).map (·.cordon)) == some true)
      s.setCtx cid (some { c with lowered := low.foldl (fun t i => tset false t i true) c.lowered })
/-- A chunk that is complete starts its stages; one whose result waited goes on. A FANOUT chunk is relayed when the last copy of it has left its producer: its replication ends, and the cordons are looked at (R208, R233). -/
def progressChunk (cid k : Nat) (s : State) : State × List LTask :=
  match s.ctx cid with
  | none => (s, [])
  | some c =>
    let ch := c.chunk k
    if ch.done then (s, [])
    else if c.d.isFanout then
      if ch.relayed && !s.unsent cid (some k) then (cordonCheck cid (modChunk cid k (fun ch => { ch with done := true }) s), [])
      else (s, [])
    else
      match ch.running with
      | some i =>
        let isSend := match c.d.stages[i]? with | some t => t.op == 3 | none => false
        if isSend && !s.unsent cid (some k) then
          let (s, loc) := runStages cid k ((c.d.stagesOf 0).filter (fun j => decide (i < j))) s
          (s, localTasks loc)
        else (s, [])
      | none =>
        if c.chunkReady k then
          let s := modChunk cid k (fun ch => { ch with opened := true, acc := if c.countZero k then [] else ch.acc }) s
          let s := correctChunk cid k s
          let (s, loc) := runStages cid k (c.d.stagesOf 0) s
          (s, localTasks loc)
        else (s, [])
def progressChunks (cid : Nat) : List Nat → State → State × List LTask
  | [], s => (s, [])
  | k :: rest, s =>
    let (s, t) := progressChunk cid k s
    let (s, t') := progressChunks cid rest s
    (s, t ++ t')
/-- The COUNT vector as INT32 with saturation (R231). -/
def countVector (c : Ctx) : List Nat :=
  ((List.range c.d.nch).flatMap c.accOf).map (fun a =>
    let v := (toIntSat 32 .rne (FV.ofInt (signed 64 a))).1
    v.toNat)
/-- A COUNT context that completes gives its vector to every context that names it in LINK, before its stages run (R232). -/
def copyCounts (cid : Nat) (s : State) : State × List LTask :=
  match s.ctx cid with
  | none => (s, [])
  | some c =>
    if !c.d.isCount || !c.chunkReady 0 || c.chunkComplete 0 then (s, [])
    else
      let v := countVector c
      let ids := s.lnd.ctxs.filterMap (fun e => match e.2 with
        | some x => if x.d.linked && x.d.link.toNat == cid && x.counts == none then some e.1 else none
        | none => none)
      (forEach ids (fun i s => s.modCtx i (fun x => { x with counts := some v })) s, ids.map LTask.progress)
/-- R226 step 3. -/
def windowComplete (s : State) (cid : Nat) (c : Ctx) : Bool :=
  let ks := List.range c.d.nch
  (if c.d.isFanout then ks.all (fun k => (c.chunk k).done) && c.allMembers.all c.memberDone
   else ks.all (fun k => (c.chunk k).done) && (!c.d.hasRelay || ks.all (fun k => (c.chunk k).relayed)))
    && !(ks.any (fun k => s.unsent cid (some k)))
/-- ACK to UPCTX at UPEID (R211). -/
def ackUp (c : Ctx) (s : State) : State × List Pkt :=
  let h := mkHdr 2 Config.ackClass.toNat s.fwd.cur 0 c.d.upeid s.fwd.mgmtEid c.d.job.toNat 0 c.d.upctx.toNat
    (b2n Config.ackFirst * 32 + 16) 0 0 0 c.d.chunk0.toNat 0
  let p := resultPkt s c 4096 h []
  if s.fwd.mgmtEid == 0 then (discard 27 p none s, []) else sendUp c.d.home.toNat p s
/-- One stage of WHEN 1 or WHEN 2. -/
def eventStage (event cid : Nat) (i : Nat) (s : State) : State × List LTask :=
  match s.ctx cid with
  | none => (s, [])
  | some c =>
    match c.d.stages[i]? with
    | none => (s, [])
    | some t =>
      match t.op.toNat with
      | 4 => let (s, l) := ackUp c s; (s, localTasks l)
      | 5 => (ctxRecord event cid (t.a.getLsbD 0) s, [])
      | 6 => (s, [.trigger (t.c.toNat % 2 ^ 18)])
      | _ => (s, [])
def eventStages (event cid : Nat) : List Nat → State → State × List LTask
  | [], s => (s, [])
  | i :: rest, s =>
    let (s, t) := eventStage event cid i s
    let (s, t') := eventStages event cid rest s
    (s, t ++ t')
/-- Enters a pair in the dedupe store (R245). -/
def enterOpening (job : BitVec 20) (openid : Word) (s : State) : State :=
  let rest := s.lnd.opens.filter (fun e => !(e.1 == job && e.2 == openid))
  let l := (job, openid) :: rest
  let s := { s with lnd.opens := l.take 4096 }
  if 4096 < l.length then count (evNo 24 0x003 0) s else s
/-- A context goes away: its reservation is freed, its held results and next-step pool entries are dropped, its CTX is tombstoned (R215, R240, R257). -/
def removeCtx (cid : Nat) (s : State) : State :=
  match s.ctx cid with
  | none => s
  | some c =>
    let s := s.setCtx cid none
    let lost := s.lnd.pool.filter (fun u => u.ctx == cid && u.nextStep)
    let s := { s with
      lnd.backUsed := s.lnd.backUsed - BitVec.ofNat 64 c.d.backing,
      lnd.held := s.lnd.held.filter (fun h => h.ctx != cid),
      lnd.pool := s.lnd.pool.filter (fun u => !(u.ctx == cid && u.nextStep)),
      lnd.tombs := s.lnd.tombs.filter (fun t => t.ctx != cid) ++ [⟨cid, s.clk⟩] }
    let s := journal 5 0 (toLE 4 cid) s
    forEach lost (fun u s => discard 32 u.pkt none s) s
/-- A PERSIST context rearms for its next step and takes its next-step pool entries (R226 step 5). -/
def rearmCtx (cid : Nat) (s : State) : State × List LTask :=
  let s := s.modCtx cid (fun c => { c with
    step := c.step + 1, chunks := [], seen := [], lowered := [], counts := none, short := 0, nCorrected := 0,
    lateRel := false, toFired := false, timer := none, holdOff := false, closing := false })
  let mine := s.lnd.pool.filter (fun u => u.ctx == cid)
  ({ s with lnd.pool := s.lnd.pool.filter (fun u => u.ctx != cid) }, mine.map (fun u => .deliver u.pkt))
/-- Chunks, then the window, of one context. -/
def progressCtx (cid : Nat) (s : State) : State × List LTask :=
  let (s, t0) := copyCounts cid s
  let (s, t1) := progressChunks cid (match s.ctx cid with | some c => List.range c.d.nch | none => []) s
  match s.ctx cid with
  | none => (s, t0 ++ t1)
  | some c =>
    if !windowComplete s cid c then (s, t0 ++ t1)
    else
      let (s, t2) := eventStages 1 cid (c.d.stagesOf 1) (s.setCtx cid (some { c with closing := true }))
      let s := if c.d.opening then enterOpening c.d.job c.d.openid s else s
      if c.d.persist then
        let (s, t3) := rearmCtx cid s
        (s, t0 ++ t1 ++ t2 ++ t3)
      else (removeCtx cid s, t0 ++ t1 ++ t2)
/-- A held result whose hold has ended and whose instant has come is sent. -/
def releaseHeld (h : HeldRes) (s : State) : State × List Pkt :=
  match s.ctx h.ctx with
  | none => (s, [])
  | some c =>
    match c.d.stages[h.stage]? with
    | none => (s, [])
    | some t => sendNow h.ctx h.pos t h.payload s
def releaseAll : List HeldRes → State → State × List Pkt
  | [], s => (s, [])
  | h :: rest, s =>
    let (s, l) := releaseHeld h s
    let (s, l') := releaseAll rest s
    (s, l ++ l')
/-- TRIGGER: the context's hold ends for the rest of the step (R228). -/
def triggerCtx (cid : Nat) (s : State) : State × List LTask :=
  match s.ctx cid with
  | none => (s, [])
  | some _ =>
    let s := s.modCtx cid (fun c => { c with holdOff := true })
    let freed := s.lnd.held.map (fun h => if h.ctx == cid then { h with hold := false } else h)
    let due := freed.filter (fun h => h.ctx == cid && decide (h.notBefore ≤ s.now))
    let s := { s with lnd.held := freed.filter (fun h => !(h.ctx == cid && decide (h.notBefore ≤ s.now))) }
    let (s, loc) := releaseAll due s
    (s, localTasks loc ++ [.progress cid])

/-! ### Delivery (R216 to R219, R231) -/

/-- REFUSED to the packet's SRC (R76). -/
def sendRefused (district arg : Nat) (p : Pkt) (s : State) : State :=
  sendControl district p.h.src 1 (p.h.chunk * 65536 + arg) p.h.ctx p.h.job.toNat 0 s
/-- An accepted or pooled packet returns its credits and leaves the epoch count (R86, R150). -/
def takenLand (p : Pkt) (s : State) : State := returnCredit p (leaveCount p (preLeave p s))
def State.eaq (s : State) (job : BitVec 20) : Nat :=
  if job == 0 then 0 else (tget JobEnt.zero s.fwd.job job.toNat).eaq.toNat
def State.poolUnits (s : State) : Nat := s.plt.plat.eap.toNat * 256
/-- The early-arrival pool, under the job's quota (R216). -/
def toPool (p : Pkt) (nextStep : Bool) (s : State) : State :=
  let used := (s.lnd.pool.filter (fun u => u.job == p.h.job)).length
  if s.eaq p.h.job ≤ used ∨ s.poolUnits ≤ s.lnd.pool.length then
    raiseLnd 2 (sendRefused p.district 1 p (discard 43 p none s))
  else
    let s := takenLand p s
    { s with lnd.pool := s.lnd.pool ++ [⟨p.h.ctx, p.h.job, { p with counted := false, cred := false }, s.clk, nextStep⟩] }
/-- What the home district's checks answer. -/
inductive LCheck where
  | drop (dcode : Nat) (refuse : Option Nat)
  | next
  | relay (k : Nat)
  | ack (i : Nat)
  | counts (i : Nat)
  | contrib (i k : Nat)
/-- A CB4 contribution's control word and its codebooks (R271, R272). -/
def cbBad (s : State) (p : Pkt) : Bool :=
  let cbw := u32At p.payload 0
  let named := bitAt cbw 31
  let nb := (p.h.len - 4) / 128
  !(decodeArr 0x0C 0 p.payload s.cbLook).ok
    || (named && (List.range nb).any (fun j => (s.cbLook ((if bitAt cbw 30 then fld cbw 0 12 + j else fld cbw 0 12) % 4096)).isNone))
/-- Steps 8 to 11 of R219. -/
def checkChunk (c : Ctx) (p : Pkt) (i : Option Nat) : LCheck :=
  let d := c.d
  let v := p.h.chunk
  let k := v - d.chunk0.toNat
  let dup := fun (b : Bool) (ok : LCheck) => if b then (if d.persist then .next else .drop 41 none) else ok
  match i with
  | none =>
    let named := bitAt (u32At p.payload 0) 31
    let want := if d.isFanout then d.elemsOf k else encBytes d.rfmt.toNat (d.elemsOf k) named
    if v < d.chunk0.toNat ∨ d.nch ≤ k then .drop 39 none
    else if p.h.len != want then .drop 40 none
    else dup (c.chunk k).relayed (.relay k)
  | some i =>
    if d.isCount then
      if v != d.chunk0.toNat then .drop 39 none
      else if p.h.len % 8 != 0 || p.h.len < 8 || 4096 < p.h.len then .drop 40 none
      else dup (c.hasSeen i) (.counts i)
    else if d.isFanout then
      if v != d.chunk0.toNat then .drop 39 none else dup (c.hasSeen i) (.ack i)
    else
      let named := bitAt (u32At p.payload 0) 31
      if v < d.chunk0.toNat ∨ d.nch ≤ k then .drop 39 none
      else if !d.isBarrier && p.h.len != encBytes p.h.fmt (d.elemsOf k) named then .drop 40 none
      else if (c.chunk k).from_.contains i then (if d.persist then .next else .drop 41 none)
      else
        let full := match c.counts with
          | some l => d.linked && decide (min (l.getD k 0) d.members.length ≤ (c.chunk k).from_.length)
          | none => false
        if full then .drop 42 none else .contrib i k
/-- Steps 2 to 11 of R219, for an installed context. -/
def checkLand (s : State) (c : Ctx) (p : Pkt) : LCheck :=
  let d := c.d
  if p.h.job != d.job then .drop 33 none
  else if p.h.kind != (if d.isCount then 11 else 2) then .drop 34 none
  else if d.upeid != 0 && p.h.src == d.upeid then
    if d.hasRelay || d.isFanout then checkChunk c p none else .drop 35 none
  else
    match findPos (· == p.h.src) d.members 0 with
    | none => .drop 35 none
    | some i =>
      if c.isWithdrawn i then .drop 36 none
      else if (d.isFanout || d.isBarrier) && (p.h.fmt != 0 || p.h.len != 0) then .drop 37 (some 2)
      else if !(d.isFanout || d.isBarrier) && !(d.inFmts.contains p.h.fmt) then .drop 37 (some 2)
      else if !(d.isFanout || d.isBarrier) && p.h.fmt == 0x0C && cbBad s p then .drop 37 (some 2)
      else if d.type == 1 && (p.h.weight == 0 || p.h.weight == 0x8000) then .drop 38 (some 3)
      else checkChunk c p (some i)
/-- Combines a contribution into its chunk. -/
def accept (cid i k : Nat) (p : Pkt) (s : State) : State :=
  let s := openChunk cid k (touchCtx cid s)
  match s.ctx cid with
  | none => s
  | some c =>
    let d := c.d
    let ch := c.chunk k
    let first := ch.from_.isEmpty
    let n := d.elemsOf k
    let (els, e0) := if d.isBarrier then ([], Exc.none) else contribution s p.h.fmt n p.payload
    let w := ffDecode fmtBF16 p.h.weight.toNat
    let r := List.zipWith (fun a x => combineElem d.type.toNat d.afmt w first a x.1 x.2) (c.accOf k) els
    let ch := { ch with acc := r.map (·.1), from_ := ch.from_ ++ [i] }
    addExc d.home.toNat (e0.plus (excSum (r.map (·.2)))) (s.setCtx cid (some (restartTimer s (c.setChunk k ch))))
/-- Adds the pairs of a count packet (R231). -/
def addPairs (cid : Nat) : List (List Byte) → State → State
  | [], s => s
  | pr :: rest, s =>
    match s.ctx cid with
    | none => s
    | some c =>
      let ix := u32At pr 0
      let v := signed 32 (u32At pr 4)
      if c.d.elems.toNat ≤ ix then addPairs cid rest (count (evNo 24 0x007 c.d.home.toNat) s)
      else
        let per := c.d.chunkElem.toNat
        let k := ix / per
        let acc := c.accOf k
        let a := unsigned 64 (signed 64 (acc.getD (ix % per) 0) + v)
        addPairs cid rest (modChunk cid k (fun ch => { ch with acc := setAt acc (ix % per) a }) (openChunk cid k s))
/-- Relay data from UPEID: WHEN 3 stages, or the answer of a device that has finished this Opening already (R226, R246). -/
def relayChunk (cid k : Nat) (p : Pkt) (s : State) : State × List LTask :=
  let s := touchCtx cid s
  match s.ctx cid with
  | none => (s, [])
  | some c =>
    let ks := List.range c.d.nch
    let known := c.d.opening && s.lnd.opens.any (fun e => e.1 == c.d.job && e.2 == c.d.openid)
    if known && !(ks.any (fun j => (c.chunk j).relayed)) then
      let c := ks.foldl (fun c j => c.setChunk j { c.chunk j with relayed := true, done := true }) c
      let c := { c with seen := c.allMembers.foldl (fun t i => tset false t i true) c.seen }
      (s.setCtx cid (some c), [.progress cid])
    else
      let s := openChunk cid k s
      let s := s.modCtx cid (fun c => restartTimer s (c.setChunk k { c.chunk k with relayed := true }))
      let (s, loc) := (c.d.stagesOf 3).foldl (fun (acc : State × List Pkt) i =>
        let (s, l) := sendStage cid k i p.payload acc.1
        (s, acc.2 ++ l)) (s, [])
      (s, localTasks loc ++ [.progress cid])
/-- One KIND 2 or KIND 11 packet at its home district. -/
def deliverOne (p : Pkt) (s : State) : State × List LTask :=
  let cid := p.h.ctx
  match s.ctx cid with
  | none =>
    if s.lnd.tombs.any (fun t => t.ctx == cid) then (discard 32 p none s, [])
    else (toPool p false s, [])
  | some c =>
    match checkLand s c p with
    | .drop code refuse =>
      let s := discard code p none s
      (match refuse with | some arg => sendRefused c.d.home.toNat arg p s | none => s, [])
    | .next => (toPool p true s, [])
    | .relay k => relayChunk cid k p (takenLand p s)
    | .ack i =>
      let s := touchCtx cid (takenLand p s)
      (s.modCtx cid (fun c => restartTimer s { c with seen := tset false c.seen i true }), [.progress cid])
    | .counts i =>
      let s := addPairs cid (chopAll 8 p.payload) (touchCtx cid (takenLand p s))
      (s.modCtx cid (fun c => restartTimer s { c with seen := if p.h.last then tset false c.seen i true else c.seen }), [.progress cid])
    | .contrib i k => (accept cid i k p (takenLand p s), [.progress cid])
/-- Runs tasks in order, each before those it sets off; `fuel` bounds them. -/
def runTasks : Nat → List LTask → State → State
  | 0, _, s => s
  | _, [], s => s
  | fuel + 1, t :: rest, s =>
    let (s, more) := match t with
      | .deliver p => deliverOne p s
      | .progress c => progressCtx c s
      | .trigger c => triggerCtx c s
    runTasks fuel (rest ++ more) s
/-- Runs tasks and all that follows from them. The bound is beyond what the chunks, stages and steps of any chain of contexts set off that comes to an end (log entry 94). -/
def landTasks (l : List LTask) (s : State) : State :=
  runTasks (2 ^ 24 * (s.lnd.ctxs.length + s.lnd.pool.length + s.lnd.held.length + l.length + 2)) l s
/-- A contribution or count packet is delivered. -/
def deliverLand (p : Pkt) (s : State) : State := landTasks [.deliver p] s
/-- After a producer has enqueued a packet: the Landing whose result it was goes on. -/
def kickLanding (p : Pkt) (s : State) : State :=
  match p.result with
  | some (cid, _) => landTasks [.progress cid] s
  | none => s

end Sys2Proof.Machine
end

