-- ==== Sys2Proof/Machine/MemOps.lean ====
section
/-! DEFINITION. What lookups and sweeps do for memory-semantic traffic: report records, the filter of dead targets and the notices of a teardown (R322, R323). -/
namespace Sys2Proof.Machine
open Sys2Proof

/-- Writes a 32-byte report record; with the ring full or REPORT = 0 it is counted instead, and RPTOVF rises (R322). -/
def memRecord (words : List Nat) (s : State) : State × Bool :=
  let n := 2 ^ s.mem.rptLog2.toNat
  let h := s.mem.rptHead.toNat
  if !s.mem.report || (h + 1) % n == s.mem.rptTail.toNat % n then (raiseMem 2 (countX xfReportLost 0 s), false)
  else
    let s := wrMem s (s.mem.rptBase.toNat + 32 * h) (words.flatMap (toLE 4))
    (fire 8 { s with mem.rptHead := BitVec.ofNat 16 ((h + 1) % n) }, true)
/-- The time words of a record. -/
def timeWords (t : Nat) : List Nat := [t % 2 ^ 32, t / 2 ^ 32 % 2 ^ 32]
/-- A memory request to a cordoned target has been discarded: at most one DEAD_TARGET record for each pair in 1 ms. -/
def deadTarget (p : Pkt) (s : State) : State :=
  let job := p.h.job
  let dst := p.h.dst
  let mine := fun (d : DeadPair) => d.job == job && d.dst == dst
  let me := (p.h.src, p.h.kind, p.inPort)
  let put := fun (d : DeadPair) (s : State) => { s with mem.dead := (d :: s.mem.dead.filter (fun e => !mine e)).take 4096 }
  let old := s.mem.dead.find? mine
  let n := (old.map (·.count)).getD 0 + 1
  let first := match old with
    | some d => if d.count == 0 then me else d.first
    | none => me
  match old with
  | some d =>
    if s.clk - d.at_ < 1000000 then { s with mem.dead := s.mem.dead.map (fun e => if mine e then { e with count := n, first := first } else e) }
    else write n first put s
  | none => write n first put s
where
  write (n : Nat) (first : Word × Nat × Nat) (put : DeadPair → State → State) (s : State) : State :=
    let (s, ok) := memRecord ([2 ^ 24 + p.h.job.toNat, p.h.dst.toNat, first.1.toNat,
      first.2.1 * 2 ^ 24 + first.2.2 % 2048, n % 2 ^ 32, 0] ++ timeWords s.now) s
    put ⟨p.h.job, p.h.dst, s.clk, if ok then 0 else n, first⟩ (if ok then raiseMem 0 s else s)
/-- A packet of a job in teardown has been discarded: one notice per (JOB, SRC), tracked in a filter of 16,384 (R323). Where none can be made the pair is not tracked (R132, R355). -/
def tdNotice (p : Pkt) (s : State) : State :=
  let job := p.h.job
  if !(tget JobEnt.zero s.fwd.job job.toNat).teardown then s
  else if s.mem.notices.contains (job, p.h.src) then s
  else if s.fwd.mgmtEid == 0 || s.glb.state == .cordoned then sendControl p.district p.h.src 2 0 0 job.toNat 0 s
  else if 16384 ≤ s.mem.notices.length then raiseMem 3 (countX xfNoticeLost 0 s)
  else
    let s := { s with
      mem.notices := (job, p.h.src) :: s.mem.notices,
      mem.jobs := s.mem.jobs.map (fun j => if j.job == job then { j with notices := j.notices + 1 } else j) }
    sendControl p.district p.h.src 2 0 0 job.toNat 0 s
/-- What else a discard at lookup does: DST_CORDONED of a memory request, JOB_TEARDOWN. -/
def afterLookupFail (dcode : Nat) (p : Pkt) (s : State) : State :=
  if dcode == 8 && p.h.isRequest then deadTarget p s
  else if dcode == 5 then tdNotice p s
  else s

end Sys2Proof.Machine
end

