-- ==== Sys2Proof/Machine/Reorder.lean ====
section
/-! DEFINITION. Reordering of a flow that arrives over a bundle (R163, R173 to R175, R250): what an arrival, a timeout or a flush releases, holds or discards. -/
namespace Sys2Proof.Machine
open Sys2Proof

/-- What the reorder logic makes of a packet: it goes on to egress (from the store or not), or it is discarded. -/
inductive RoAct where
  | out (p : Pkt) (d : Dest) (stored : Bool)
  | drop (dcode : Nat) (p : Pkt) (d : Dest)
  deriving DecidableEq, Repr

/-- The length of the cycle of SEQ values other than 0: 2^w - 1 (R174). -/
def seqCycle (c2 : Bool) : Nat := if c2 then 2 ^ 16 - 1 else 2 ^ 32 - 1
/-- The distance from a to b. -/
def seqDist (c2 : Bool) (a b : Nat) : Nat := (b + seqCycle c2 - a % seqCycle c2) % seqCycle c2
/-- The value that follows. -/
def seqAfter (c2 : Bool) (a : Nat) : Nat := if a == seqCycle c2 then 1 else a + 1

/-- The reorder district of a flow (R173). -/
def State.reorderDistrict (s : State) (b : Nat) (h : Hdr) : Nat :=
  let ds := (List.range 16).filter (fun d => (s.distPorts d).any (fun p => s.bundle p == b))
  ds.getD (flowHash h.src h.dst h.tc % max 1 ds.length) 0
/-- The packet belongs to a flow that is reordered: it came over a bundle and carries SEQ (R171, R173). -/
def State.reorders (s : State) (p : Pkt) : Bool :=
  p.flow.isNone && decide (p.inPort < 2048) && s.bundle p.inPort != 0 && !p.h.isMem && !(p.c2 && (p.h.kind == 2 || p.h.kind == 3))

def State.ro (s : State) (d : Nat) : List Reorder := tget [] s.swc.reorder d
def setRo (d : Nat) (l : List Reorder) (s : State) : State := { s with swc.reorder := tset [] s.swc.reorder d l }
def sameRo (c e : Reorder) : Bool := c.src == e.src && c.dst == e.dst && c.tc == e.tc && c.bundle == e.bundle
def putRo (d : Nat) (c : Reorder) (s : State) : State :=
  setRo d (if (s.ro d).any (sameRo c) then (s.ro d).map (fun e => if sameRo c e then c else e) else s.ro d ++ [c]) s
/-- Cells that the reorder store of a district holds. -/
def State.roUsed (s : State) (d : Nat) : Nat := sumOf ((s.ro d).map (fun c => sumOf (c.held.map (fun e => e.1.cells))))
/-- A bypass is counted (REORDER_BYPASS). -/
def countBypass (d : Nat) (s : State) : State := count (evNo 16 0x012 d) s

abbrev HeldSeq := Pkt × Dest × Nat
/-- The held packets in SEQ order: by distance from NEXT, or from the first SEQ held. -/
def Reorder.ordered (c : Reorder) : List HeldSeq :=
  let base := (c.next.getD c.first).toNat
  c.held.mergeSort (fun a b => decide (seqDist c.c2 base a.1.h.seq.toNat ≤ seqDist c.c2 base b.1.h.seq.toNat))
/-- Takes held packets with consecutive SEQ from n on. -/
def takeRun (c2 : Bool) : Nat → Nat → List HeldSeq → List HeldSeq × List HeldSeq × Nat
  | 0, n, l => ([], l, n)
  | fuel + 1, n, l =>
    match l.find? (fun e => e.1.h.seq.toNat == n) with
    | none => ([], l, n)
    | some e =>
      let (a, b, m) := takeRun c2 fuel (seqAfter c2 n) (l.filter (fun x => x.1.h.seq.toNat != n))
      (e :: a, b, m)
/-- Packets leave the context: the first of a run of consecutive markers goes on, the rest are FENCE_MERGED (R250). -/
def roOut (c : Reorder) : List (Pkt × Dest × Bool) → Reorder × List RoAct
  | [] => (c, [])
  | (p, d, st) :: r =>
    let m := if p.h.kind == 9 then some (p.h.job, p.h.fence) else none
    let act : RoAct := if m.isSome && m == c.mark then .drop 52 p d else .out p d st
    let (c', l) := roOut { c with mark := m } r
    (c', act :: l)
def fromStore (l : List HeldSeq) : List (Pkt × Dest × Bool) := l.map (fun e => (e.1, e.2.1, true))
/-- Every held packet is released in SEQ order, skipping gaps. -/
def roFlush (c : Reorder) : Reorder × List RoAct :=
  let l := c.ordered
  let nx := match l.getLast? with
    | some e => some (BitVec.ofNat 32 (seqAfter c.c2 e.1.h.seq.toNat))
    | none => c.next
  roOut { c with held := [], next := nx } (fromStore l)
/-- NEXT moves to the lowest SEQ held and release proceeds. -/
def roGap (c : Reorder) : Reorder × List RoAct :=
  match c.ordered with
  | [] => (c, [])
  | e :: _ =>
    let (run, rest, n) := takeRun c.c2 c.held.length e.1.h.seq.toNat c.held
    roOut { c with held := rest, next := some (BitVec.ofNat 32 n) } (fromStore run)
/-- The packet is released as SEQ = NEXT, followed by every held packet with consecutive SEQ. -/
def roNext (c : Reorder) (p : Pkt) (d : Dest) (n : Nat) : Reorder × List RoAct :=
  let (run, rest, m) := takeRun c.c2 c.held.length n c.held
  roOut { c with held := rest, next := some (BitVec.ofNat 32 m) } ((p, d, false) :: fromStore run)

/-- The contexts that hold packets, but for those named, by the arrival of the oldest packet they hold; the first. -/
def oldestCtx (l : List Reorder) (but : List Reorder) : Option Reorder :=
  let cand := l.filter (fun c => !c.held.isEmpty && !but.any (sameRo c))
  cand.foldl (fun best c =>
    let at_ := fun (c : Reorder) => minOf ((c.held.map (·.2.2)).headD 0) (c.held.map (·.2.2))
    match best with
    | none => some c
    | some b => if at_ c < at_ b then some c else best) none
/-- SEQ 0 starts the context afresh: what it held goes out first. -/
def roStart (d : Nat) (p : Pkt) (dest : Dest) (c : Reorder) (s : State) : State × List RoAct :=
  let (c, before) := roFlush c
  let (c, l) := roOut { c with next := some 1 } [(p, dest, false)]
  (putRo d c s, before ++ l)
/-- The packet that the context expects. -/
def roInOrder (d : Nat) (p : Pkt) (dest : Dest) (c : Reorder) (s : State) : State × List RoAct :=
  let (c, l) := roNext c p dest (seqAfter c.c2 p.h.seq.toNat)
  (putRo d c s, l)
/-- A packet at least 256 ahead: what the context held goes out, and the packet is the next. -/
def roJump (d : Nat) (p : Pkt) (dest : Dest) (c : Reorder) (s : State) : State × List RoAct :=
  let (c, l) := roFlush c
  let (c, l') := roNext { c with held := [] } p dest (seqAfter c.c2 p.h.seq.toNat)
  (putRo d c (count (evNo 16 0x010 d) s), l ++ l')
/-- A packet that cannot be held: what the context held goes out, then the packet. -/
def roPass (d : Nat) (p : Pkt) (dest : Dest) (c : Reorder) (s : State) : State × List RoAct :=
  let (c, l) := roFlush c
  let (c, l') := roOut { c with next := some (BitVec.ofNat 32 (seqAfter c.c2 p.h.seq.toNat)) } [(p, dest, false)]
  (putRo d c (countBypass d s), l ++ l')
/-- The packet is held. -/
def roHold (d : Nat) (p : Pkt) (dest : Dest) (c : Reorder) (s : State) : State :=
  putRo d { c with held := c.held ++ [(p, dest, s.clk)], first := if c.held.isEmpty && c.next.isNone then p.h.seq else c.first } s
/-- An arrival at its reorder district (R174, R175). `forced` names the contexts already released to make room; `fuel` bounds them. -/
def roArrive (d : Nat) (p : Pkt) (dest : Dest) : Nat → List Reorder → State → State × List RoAct
  | 0, _, s => (s, [.out p dest false])
  | fuel + 1, forced, s =>
    let new : Reorder := ⟨p.h.src, p.h.dst, BitVec.ofNat 3 p.h.tc, s.bundle p.inPort, p.c2, none, p.h.seq, none, [], s.clk⟩
    let found := (s.ro d).find? (sameRo new)
    if s.reorderCells d == 0 || s.dist d == .draining then (countBypass d s, [.out p dest false])
    else if found.isNone && 8192 ≤ (s.ro d).length then (countBypass d s, [.out p dest false])
    else
      let c := { found.getD new with last := s.clk }
      let q := p.h.seq.toNat
      let dist := c.next.map (fun n => seqDist c.c2 n.toNat q)
      if q == 0 then roStart d p dest c s
      else if dist == some 0 then roInOrder d p dest c s
      else if c.held.any (fun e => e.1.h.seq.toNat == q) then (putRo d c s, [.drop 21 p dest])
      else if (dist.map (fun x => decide (seqCycle c.c2 / 2 < x))).getD false then (putRo d c s, [.drop 21 p dest])
      else if (dist.map (fun x => decide (256 ≤ x))).getD false then roJump d p dest c s
      else if s.reorderCells d < p.cells then roPass d p dest c s
      else if s.roUsed d + p.cells ≤ s.reorderCells d then (roHold d p dest c s, [])
      else
        match oldestCtx (s.ro d) forced with
        | some o =>
          let (o', l) := roGap o
          let (s, l') := roArrive d p dest fuel (o :: forced) (putRo d o' (count (evNo 16 0x013 d) s))
          (s, l ++ l')
        | none => roPass d p dest c s
/-- TMO in ns; 0 is treated as 1. -/
def State.roTmo (s : State) : Nat := max 1 s.swc.tmo.toNat * 1000
/-- The oldest held packet of the context has waited TMO. -/
def Reorder.due (s : State) (c : Reorder) : Bool := c.held.any (fun e => decide (s.roTmo ≤ s.clk - e.2.2))
/-- Gap and start timeouts of one context until none is due; a gap is counted, a start is not. -/
def roTimeout (d : Nat) : Nat → Reorder → State → State × List RoAct
  | 0, c, s => (putRo d c s, [])
  | fuel + 1, c, s =>
    if !c.due s then (putRo d c s, [])
    else
      let s := if c.next.isSome then count (evNo 16 0x011 d) s else s
      let (c, l) := roGap c
      let (s, l') := roTimeout d fuel c s
      (s, l ++ l')

end Sys2Proof.Machine
end

