-- ==== Sys2Proof/Machine/IngressOps.lean ====
section
/-! DEFINITION. A packet's path from its ingress port to a queue, a Landing or a yard: what a field may hold, the lookup, admission and policing, reordering, replication, and the holds at ingress (R68, R91, R94, R96, R133, R146, R161, R166, R297, R298). -/
namespace Sys2Proof.Machine
open Sys2Proof

/-! ### Fields (R68, R71, R91, R94) -/

/-- A Cezal 3 header that breaks R68 or R71. -/
def fieldBad (h : Hdr) : Bool :=
  let mem := h.isMem
  h.kind == 10 || 12 ≤ h.kind || 4096 < h.len
    || (!mem && h.kind != 9 && h.fence != 0)
    || (match h.kind with
        | 1 => 65536 ≤ h.ctx
        | 2 => false | 3 => false | 11 => false
        | 4 => h.ctx == 0 || 4096 < h.ctx
        | _ => h.ctx != 0)
    || h.flag8
    || (h.schedFlag && !h.isSched)
    || (match h.kind with
        | 6 => 5 < fld h.fmt 4 4 || !(h.atomWidth == 4 || h.atomWidth == 8)
        | 7 => false
        | _ => 0x0F ≤ h.fmt)
    || (!mem && !h.schedFlag && h.slot != 0)
    || (!mem && h.kind != 2 && h.kind != 3 && h.kind != 11 && h.chunk != 0)
    || (h.kind != 2 && h.weight != 0)
/-- A field that R91 does not allow from this partner. -/
def capBad (s : State) (port : Nat) (h : Hdr) : Bool :=
  (h.isSched && !s.cap port 0)
    || ((h.kind == 2 || h.kind == 11) && !s.cap port 1)
    || (h.kind != 6 && h.kind != 7 && h.fmt == 0x0C && !s.cap port 2)
/-- What R93 and R94 do not allow from a Cezal 2 partner: the raw words, before translation. A read length that R68 does not allow is one (R94 carries it into CTX). Two cases are not named by the spec (log entry 90): a packet that is no contribution passes with an FMT that Cezal 2 does not carry, and one with LEN shorter than the ADDR and read length it must hold is PROTO. -/
def c2Bad (b : List Byte) : Bool :=
  let w0 := u32At b 0
  let w4 := u32At b 16
  let kind := fld w0 24 4
  let tc := fld w0 21 3
  let len := fld w0 0 16
  let read := u32At b 32
  tc == 5 || tc == 6 || 10 ≤ kind || bitAt w4 11 || bitAt w4 9 || bitAt w4 8
    || (kind == 4 && (fld w4 14 18 != 0 || read == 0 || 4096 < read))
    || (if c2Extra kind == 0 then 4096 else 4104) < len || len < c2Extra kind

/-! ### Job traffic (R24, R63, R355) -/

/-- TC1 to TC6: TC7 control and TC0 management go on (R24). -/
def Hdr.isJob (h : Hdr) : Bool := decide (1 ≤ h.tc) && decide (h.tc ≤ 6)
/-- Why the device or the district does not let in an arriving packet. -/
def State.notAdmitted (s : State) (port : Nat) (h : Hdr) : Option Nat :=
  if s.glb.state == .cordoned then some 24
  else if h.isJob && (s.glb.state != .inService || s.glb.draining) then some 22
  else if h.isJob && s.dist (districtOf port) == .draining then some 23
  else none

/-! ### Transform flows (R297, R298) -/

/-- The lowest-indexed entry that matches a packet and its resolved next hop. -/
def tfMatch (s : State) (h : Hdr) (hop : Hop) : Option TfEnt :=
  if h.kind != 0 || h.mirror || h.len == 0 || !(tget JobEnt.zero s.fwd.job h.job.toNat).tflow then none
  else
    (s.mil.tf.find? (fun e =>
      let w1 := e.2.w1.toNat
      let w2 := e.2.w2.toNat
      let plen := fld w1 24 6
      bitAt w1 31 && fld w1 21 3 == h.tc && fld w1 0 20 == h.job.toNat
        && h.dst.toNat / 2 ^ (32 - plen) == e.2.w0.toNat / 2 ^ (32 - plen)
        && (match fld w2 30 2, hop with
          | 0, _ => true
          | 1, .port n => n == fld w2 0 11
          | 2, .bundle b => b == fld w2 0 11
          | _, _ => false))).map (·.2)
/-- The binding is a bound transform flow that takes items: not FAULTED, not being unbound. -/
def State.flowBinding (s : State) (id : Nat) : Option Binding :=
  match s.bindOf id with
  | some b => if b.place.kind && b.st != .faulted && !b.closing then some b else none
  | none => none
/-- The item of a packet: its header as translated, then its payload. -/
def flowBytes (p : Pkt) : List Byte := p.h.bytes ++ p.payload

/-! ### The last step of the path -/

/-- A control packet for the management cores (R133, R397): an opcode that the MS9 does not know is counted (R76). -/
def takeControl (p : Pkt) (s : State) : State :=
  let op := fld (u32At p.payload 0) 16 16
  if op == 1 || op == 2 || op == 3 || op == 0x10 || op == 0x11 || op == 0x12 then takenLand p s else discard 30 p none s
/-- Next hop LOCAL (R133): Landings, or the management cores; a mirror copy is never delivered to a Landing (R71). -/
def takeLocal (p : Pkt) (s : State) : State :=
  if p.h.kind == 8 then takeControl p s
  else if p.h.mirror then discard 11 p none s
  else deliverLand p s

/-- The spray point of a packet: its reorder district where it was reordered, else the district it comes from (R170, R173). -/
def State.spoint (s : State) (p : Pkt) : Nat :=
  if s.reorders p then s.reorderDistrict (s.bundle p.inPort) p.h else p.district
/-- The next hop of a destination. -/
def Dest.hop? : Dest → Option Hop
  | .hop h => some h
  | .flow _ h => some h
  | .output h => some h
  | _ => none
/-- The egress port that a packet's lookup has resolved, where it has one: the port it would take now (R164, R181). -/
def State.outPort (s : State) (d : Dest) (p : Pkt) : Option Nat := d.hop?.bind (fun h => chosenPort s (s.spoint p) h p.h)
/-- A hop leads to an endpoint rather than to another switch: the partner of its ports names its NODE (R90). -/
def State.endpointHop (s : State) (hop : Hop) : Bool :=
  let ends := fun (n : Nat) => (s.link n).pNode == 0
  match hop with
  | .port n => ends n
  | .bundle b => (s.bundleUp b).any ends
  | _ => false
/-- One copy of a replication that R146 does not write: Tally and the group's SHORT. -/
def shortRepl (group : Nat) (p : Pkt) (out : Option Nat) (s : State) : State :=
  let s := capture .discard 29 p out (countDiscard 29 p.inPort s)
  { s with fwd.group := tmod GroupEnt.zero s.fwd.group group (fun g => { g with short := satWord (g.short.toNat + 1) }) }
/-- A replication ends: the packet leaves its ingress stage and the counts. -/
def endRepl (p : Pkt) (s : State) : State := returnCredit p (leaveCount p (preLeave p s))
/-- A replication from the member it has reached (R146, R147, R161): it ends, or waits at a full unscheduled queue. -/
def runRepl : Nat → ReplWait → State → State × Option ReplWait
  | 0, w, s => (endRepl w.pkt s, none)
  | fuel + 1, w, s =>
    if w.count ≤ w.idx then (endRepl w.pkt s, none)
    else
      let p := w.pkt
      let next := { w with idx := w.idx + 1 }
      match readMember p.h.epoch (w.base + w.idx) s with
      | (s, .ecc) => (discard 13 p none s, none)
      | (s, .skip) => runRepl fuel next s
      | (s, .at_ _ cordoned hop) =>
        let sp := s.spoint p
        let out := chosenPort s sp hop p.h
        let c := { p with counted := false, cred := false }
        if cordoned || s.hopDraining sp hop p.h then runRepl fuel next (shortRepl w.group c out s)
        else if s.aged p then runRepl fuel next (windfall c out true s)
        else
          match (if s.hopUp hop then out else none) with
          | none => runRepl fuel next (discard 12 c hop.port? s)
          | some port =>
            if s.roomFor port p.h.tc p.cells then
              let pre := if p.counted then s.fencesOf p else []
              runRepl fuel next (pushMarker port p.h.tc pre (writeHop sp hop port c s))
            else if p.h.isSched then runRepl fuel next (schedOverflow port c s)
            else (s, some w)
/-- A KIND 1 packet begins its replication: BASE and COUNT are read once (R147). -/
def startRepl (p : Pkt) (s : State) : State :=
  let g := p.h.ctx % 65536
  let e := tget GroupEnt.zero s.fwd.group g
  let n := fld e.w1.toNat 0 12
  match runRepl (n + 1) ⟨p, fld e.w0.toNat 0 22, n, 0, g⟩ s with
  | (s, none) => s
  | (s, some w) => { s with swc.repl := s.swc.repl ++ [w] }

/-- Toward a port or bundle: written, discarded, or (false) to be held (R161, R164). A mirrored memory request goes no further than the switch before its target (R71; log entry 93). -/
def placeHop (hop : Hop) (p : Pkt) (s : State) : State × Bool :=
  let sp := s.spoint p
  match (if s.hopUp hop then chosenPort s sp hop p.h else none) with
  | none => (discard 12 p hop.port? s, true)
  | some port =>
    if s.aged p then (windfall p (some port) false s, true)
    else if s.hopCut sp hop p.h then (discard 23 p (some port) s, true)
    else if p.h.mirror && p.h.isRequest && s.endpointHop hop then (discard 11 p (some port) s, true)
    else if (s.canWrite sp hop p).isSome then (writeOut sp hop port p s, true)
    else if !p.h.isSched then (s, false)
    else if (s.copiesOver sp hop p.h).isSome then (writeOut sp hop port p s, true)
    else (schedOverflow port p s, true)
/-- Into the input yard of a transform flow; past YCAP a scheduled packet is TF_OVERFLOW, another is held (R298). While the binding does not take items, FAILOPEN of the entry decides (R297). -/
def placeFlow (bid : Nat) (hop : Hop) (p : Pkt) (s : State) : State × Bool :=
  match s.flowBinding bid with
  | none =>
    match tfMatch s p.h hop with
    | some e => if bitAt e.w1.toNat 30 then placeHop hop p s else (raiseMil 3 (discard 48 p (s.outPort (.hop hop) p) s), true)
    | none => (raiseMil 3 (discard 48 p (s.outPort (.hop hop) p) s), true)
  | some b =>
    let bytes := flowBytes p
    if yardUsed (b.yard 0) + alignUp bytes.length 8 ≤ b.place.ycap.toNat then
      (putItem bid 0 (.flow { p with cred := false } hop) bytes (returnCredit p s), true)
    else if p.h.isSched then (raiseMil 2 (discard 49 p (s.outPort (.hop hop) p) s), true)
    else (s, false)
/-- The output of a transform flow toward its next hop (R299): a producer of the MS9, which waits at a limit (R161, R203). -/
def placeOutput (hop : Hop) (p : Pkt) (s : State) : State :=
  match (if s.hopUp hop then chosenPort s p.district hop p.h else none) with
  | none => discard 12 p hop.port? s
  | some port => if s.aged p then windfall p (some port) false s else originateAny false 0 hop p s
def place (dest : Dest) (p : Pkt) (s : State) : State × Bool :=
  match dest with
  | .flow b hop => placeFlow b hop p s
  | .output hop => (placeOutput hop p s, true)
  | .group => (startRepl p s, true)
  | .hop .toLocal => (takeLocal p s, true)
  | .hop hop => placeHop hop p s

/-! ### Ingress FIFOs (R161, R166) -/

def State.fifo (s : State) (port tc : Nat) : List Held := tget [] s.swc.holds (queueKey port tc)
def setFifo (port tc : Nat) (l : List Held) (s : State) : State := { s with swc.holds := tset [] s.swc.holds (queueKey port tc) l }
/-- Holds a packet: those held at a limit stand before those held by the policer. -/
def holdPkt (h : Held) (s : State) : State :=
  let f := s.fifo h.pkt.inPort h.pkt.h.tc
  setFifo h.pkt.inPort h.pkt.h.tc
    (if h.policed then f ++ [h] else f.filter (fun x => !x.policed) ++ [h] ++ f.filter (·.policed)) s
/-- Places a packet, or holds it where its queue has no room or a packet of its class and port is held before it. -/
def toEgress (dest : Dest) (p : Pkt) (s : State) : State :=
  if 2048 ≤ p.inPort then (place dest p s).1
  else if dest matches .output _ then (place dest p s).1
  else if !p.h.isSched && (s.fifo p.inPort p.h.tc).any (fun h => !h.policed) then holdPkt ⟨p, dest, false⟩ s
  else
    match place dest p s with
    | (s, true) => s
    | (s, false) => holdPkt ⟨p, dest, false⟩ s
/-- What the reorder logic answers is carried out in order. -/
def applyRo : List RoAct → State → State
  | [], s => s
  | .drop code p d :: r, s => applyRo r (discard code p (s.outPort d p) s)
  | .out p d stored :: r, s =>
    applyRo r (if stored && s.aged p then windfall p (s.outPort d p) false s else toEgress d p s)
/-- Step 5: the crossbar, by way of the flow's reorder district, but for packets whose next hop is LOCAL (R173). -/
def toCrossbar (dest : Dest) (p : Pkt) (s : State) : State :=
  match dest with
  | .hop .toLocal => toEgress dest p s
  | _ =>
    if s.reorders p then
      let d := s.reorderDistrict (s.bundle p.inPort) p.h
      let (s, acts) := roArrive d p dest ((s.ro d).length + 2) [] s
      applyRo acts s
    else toEgress dest p s

/-! ### Step 4: admission and policing (R166, R202) -/

/-- The bucket of an ingress port filled up to this instant, in quarter bytes: USHARE x 25 bytes/ns for each active receive lane, at most 64 KiB x w. -/
def fillPolicer (port : Nat) (s : State) : State :=
  s.modSched port (fun c => { c with
    bucket := min (65536 * s.width port * 4) (c.bucket + s.plt.plat.ushare.toNat * s.rxLanes port * (s.clk - c.bucketAt)),
    bucketAt := s.clk })
/-- A packet of the port is held by the policer. -/
def State.policerHolds (s : State) (port : Nat) : Bool := (List.range 8).any (fun tc => (s.fifo port tc).any (·.policed))
/-- The packet takes its size in tokens. -/
def chargePolicer (port : Nat) (p : Pkt) (s : State) : State :=
  s.modSched port (fun c => { c with bucket := c.bucket - 4 * p.size })
/-- The timetable row of where a packet goes (R197, R202): a contribution's is its home district's delivery row, the ingress district's while its context is not installed. -/
def State.rowFor (s : State) (p : Pkt) : Dest → Nat
  | .group => 4112
  | .flow _ hop => rowOf hop
  | .output hop => rowOf hop
  | .hop .toLocal => deliveryRow (match s.ctx p.h.ctx with | some c => c.d.home.toNat | none => p.district)
  | .hop hop => rowOf hop
/-- Step 4 of a packet from a fabric port: a scheduled one is admitted against its slot, an unscheduled one is policed. -/
def step4 (dest : Dest) (p : Pkt) (s : State) : State :=
  if p.h.isSched then
    match admitPkt (s.rowFor p dest) p s with
    | (s, none) => toCrossbar dest p s
    | (s, some _) => discard 25 p (s.outPort dest p) s
  else
    let s := fillPolicer p.inPort s
    if s.policerHolds p.inPort || (s.sched p.inPort).bucket < 4 * p.size then holdPkt ⟨p, dest, true⟩ s
    else toCrossbar dest p (chargePolicer p.inPort p s)

/-! ### Steps 2 and 3 -/

/-- After step 11 of R133: the transform-flow table is matched on the resolved next hop. -/
def afterLookup (d : Dest) (p : Pkt) (s : State) : State :=
  match d with
  | .hop .toLocal => step4 d p s
  | .hop hop =>
    match tfMatch s p.h hop with
    | none => step4 d p s
    | some e =>
      let bid := fld e.w3.toNat 0 12
      match s.flowBinding bid with
      | some _ => toCrossbar (.flow bid hop) p s
      | none => if bitAt e.w1.toNat 30 then step4 d p s else raiseMil 3 (discard 48 p (s.outPort d p) s)
  | _ => step4 d p s
/-- A packet begins its lookup (R133, R150, R251); the bits that have flipped in the tables come first. A scheduled packet toward a port that the district's structure no longer builds is a slot violation (R66, R206). -/
def pipeline (upsets : List Upset) (p : Pkt) (s : State) : State :=
  let p := { p with counted := true }
  let s := preEnter p (enterCount p.h.epoch s)
  let s := forEach upsets applyUpset s
  match lookup s p.h p.district with
  | (s, .fail code out) =>
    if code == 12 && p.h.isSched && out.any (fun n => !s.portBuilt n) then discard 25 p out (admitPkt (out.getD 0) p s).1
    else afterLookupFail code p (discard code p out s)
  | (s, .dest d) => afterLookup d p (learnCheck p.inPort p s)
/-- The checks that follow a whole packet whose header holds, in the order of R96 after HCRC: CREDIT, PCRC, PROTO, HOPS; then whether the device admits it. -/
def ingest (upsets : List Upset) (pcrcOk proto : Bool) (p : Pkt) (s : State) : State :=
  let port := p.inPort
  let tc := p.h.tc
  let size := p.inSize
  let cost := creditsOf size
  let s := countN (evNo 4 0x001 port) size (count (evNo 4 0x000 port) s)
  if creditClass tc && tget 0 (s.link port).rxBal tc < cost then setLnkErr port 4 (discard 17 p none s)
  else
    let p := { p with cred := true }
    let s := if creditClass tc then s.modLink port (fun l => { l with rxBal := tmod 0 l.rxBal tc (fun b => b - cost) }) else s
    if !pcrcOk then setLnkErr port 2 (discard 15 p none s)
    else if proto || capBad s port p.h then setLnkErr port 3 (discard 16 p none s)
    else if p.h.hops == 15 then setLnkErr port 6 (discard 18 p none s)
    else
      match s.notAdmitted port p.h with
      | some code => discard code p none s
      | none =>
        if p.c2 && p.h.kind == 2 && !(p.h.fmt == 1 || p.h.fmt == 2) then
          sendRefused (districtOf port) 2 p (discard 37 p none s)
        else pipeline upsets p s
/-- A packet taken whole at a fabric port, as its bytes stand on the wire (R68, R93). -/
def takePacket (port : Nat) (bytes : List Byte) (upsets : List Upset) (s : State) : State :=
  if s.isC2 port then
    let len := u16At bytes 0
    let raw := slice bytes 24 len
    let (h, payload) := translate2 bytes raw
    let p : Pkt := { h := h, payload := payload, tin := s.now, inPort := port, c2 := true, counted := false }
    if !hcrcOk2 bytes then setLnkErr port 1 (discard 14 p none s)
    else ingest upsets (u32At bytes (24 + alignUp len 4) == crc32 raw) (u8At bytes 3 / 16 != 2 || c2Bad bytes || fieldBad h) p s
  else
    let h := hdrOf bytes
    let payload := slice bytes 32 h.len
    let p : Pkt := { h := h, payload := payload, tin := s.now, inPort := port, c2 := false, counted := false }
    if !hcrcOk3 bytes then setLnkErr port 1 (discard 14 p none s)
    else ingest upsets (u32At bytes (32 + alignUp h.len 4) == crc32 payload) (h.ver != 3 || fieldBad h) p s

end Sys2Proof.Machine
end

