-- ==== Sys2Proof/Machine/Landings.lean ====
section
/-! DEFINITION. The commands on Landings: install, uninstall, withdraw, query, trigger, delivery, and the events of time (08_landings.md). -/
namespace Sys2Proof.Machine
open Sys2Proof

/-- LND_CSTAT.STATUS. -/
def lndStatus (st : Nat) (s : State) : State := { s with lnd.status := BitVec.ofNat 8 st }
/-- A command through LND_CMD (R241). -/
def lndCommand (p : HPort) (f : State → State) (s : State) : State :=
  hostWrite p false (fun s => if s.lnd.busy then { s with lnd.reject := true } else f s) s

/-! ### INSTALL (R210 to R213) -/

def stageOf (b : List Byte) : Stage :=
  ⟨BitVec.ofNat 8 (u8At b 0), BitVec.ofNat 8 (u8At b 1), BitVec.ofNat 8 (u8At b 2), BitVec.ofNat 8 (u8At b 3),
    BitVec.ofNat 32 (u32At b 4), BitVec.ofNat 64 (u64At b 8), BitVec.ofNat 32 (u32At b 16), BitVec.ofNat 32 (u32At b 20)⟩
/-- The descriptor that the bytes spell; the stage list ends at its first record with OP 0. -/
def descOf (b : List Byte) : Desc :=
  let w := fun o => BitVec.ofNat 32 (u32At b o)
  let flags := u16At b 12
  let recs := (List.range 8).map (fun i => stageOf (slice b (128 + 32 * i) 32))
  { ctx := BitVec.ofNat 18 (u32At b 0), job := BitVec.ofNat 20 (u32At b 4), type := BitVec.ofNat 8 (u8At b 8),
    home := BitVec.ofNat 8 (u8At b 9), rslots := BitVec.ofNat 16 (u16At b 10),
    persist := bitAt flags 0, linked := bitAt flags 1, opening := bitAt flags 2,
    infmts := w 16, elems := w 20, chunk0 := BitVec.ofNat 16 (u16At b 24), chunkElem := BitVec.ofNat 16 (u16At b 26),
    rfmt := BitVec.ofNat 8 (u8At b 28), rmode := BitVec.ofNat 8 (u8At b 29), seed := w 32, tmo := w 36, upeid := w 40,
    upctx := BitVec.ofNat 18 (u32At b 44), link := BitVec.ofNat 18 (u32At b 48), openid := w 52,
    stages := recs.takeWhile (fun t => t.op != 0),
    members := (List.range (u16At b 14)).map (fun i => w (384 + 4 * i)) }
/-- EXPECT of a descriptor. -/
def expectOf (b : List Byte) : Nat := u16At b 14
/-- Fields that must be 0 or lie in a range, and have no step of R213 of their own. -/
def reservedBad (b : List Byte) : Bool :=
  u32At b 0 / 2 ^ 18 != 0 || u32At b 4 / 2 ^ 20 != 0 || u16At b 30 != 0 || !allZero (slice b 56 72)
    || u32At b 44 / 2 ^ 18 != 0 || u32At b 48 / 2 ^ 18 != 0 || 15 < u8At b 9 || 2 < u8At b 29
/-- Step 4: TYPE, and FLAGS allowed for it (R210, R244). -/
def typeBad (b : List Byte) (d : Desc) : Bool :=
  8 < d.type.toNat || u16At b 12 / 8 != 0
    || (d.opening && (!d.isFanout || d.persist || d.linked))
    || (d.linked && (d.isCount || d.isFanout))
/-- Step 5: R220 and R221. -/
def formatBad (d : Desc) : Bool :=
  let fs := d.inFmts ++ [d.rfmt.toNat]
  let ce := d.chunkElem.toNat
  15 ≤ d.rfmt.toNat || d.infmts.toNat / 2 ^ 15 != 0 || d.afmt?.isNone
    || (if d.isBarrier then false
        else if d.isFanout then 4096 < ce
        else fs.any (fun f => (isMX f && ce % 32 != 0) || (f == 0x0C && ce % 256 != 0) || 4096 < encBytes f ce false))
/-- Step 6: the window. -/
def windowBad (d : Desc) : Bool :=
  if d.isBarrier then d.elems != 0 || 65536 < d.chunk0.toNat + 1
  else
    d.chunkElem == 0 || d.nch == 0 || 4096 < d.nch || 65536 < d.chunk0.toNat + d.nch
      || (if d.isFanout then 2 ^ 24 < d.elems.toNat
          else d.inFmts.any (fun f => 2 ^ 24 < encBytes f d.elems.toNat false))
/-- A FINISH stage's binding lies on a core in HOME's FIN mask (R213 step 7). -/
def finishBound (s : State) (d : Desc) (t : Stage) : Bool :=
  match s.bindOf (t.c.toNat % 4096) with
  | none => false
  | some b => !b.place.kind && b.place.district == d.home.toNat && t.c.toNat < 4096
      && (b.place.cores &&& (s.millRec d.home.toNat).fin) != 0
/-- One stage record by R211 and R212, apart from order. -/
def stageBad (s : State) (d : Desc) (t : Stage) : Bool :=
  let sched := bitAt t.b.toNat 3
  let tc := fld t.b.toNat 0 3
  match t.op.toNat with
  | 1 => t.when_ != 0 || d.isBarrier || d.isFanout || !(t.a.toNat < 15 || t.a == 0xFF) || !finishBound s d t
  | 2 => t.when_ != 0 || d.isBarrier || d.isFanout
  | 3 =>
    !(t.when_ == 0 || t.when_ == 3) || 3 < t.a.toNat || (t.when_ == 3 && (t.a == 2 || d.upeid == 0))
      || (t.when_ == 0 && d.isFanout) || (sched && !(tc == 5 || tc == 6)) || (sched && fld t.e.toNat 20 12 == 0)
      || ((t.a == 1 || t.a == 2) && d.upeid == 0) || ((t.a == 0 || t.a == 3) && 65535 < t.c.toNat)
  | 4 => t.when_ != 1 || !d.isFanout
  | 5 => !(t.when_ == 1 || t.when_ == 2)
  | 6 => !(t.when_ == 1 || t.when_ == 2)
  | _ => true
/-- Step 7: the stage list (R211, R212). -/
def stagesBad (s : State) (b : List Byte) (d : Desc) : Bool :=
  let n := d.stages.length
  let w0 := d.stages.filter (fun t => t.when_ == 0)
  let ops := w0.map (fun t => t.op.toNat)
  let count := fun o => (ops.filter (· == o)).length
  let fin := w0.find? (fun t => t.op == 1)
  let finR := match fin with | some t => t.a == d.rfmt | none => false
  !allZero (slice b (128 + 32 * n) (256 - 32 * n))
    || (List.range n).any (fun i => !allZero (slice b (128 + 32 * i + 24) 8))
    || d.stages.any (stageBad s d)
    || !(List.range (ops.length - 1)).all (fun i => decide (ops.getD i 0 ≤ ops.getD (i + 1) 0))
    || 1 < count 1 || 1 < count 2 || 2 < count 3
    || (count 3 != 0 && !d.isBarrier && count 2 == 0 && !finR)
    || (d.rfmt == 0x0C && !(match fin with | some t => t.a == 0x0C | none => false))
    || (d.isBarrier && d.rfmt != 0)
    || (d.isCount && d.rfmt != 0x0E)
    || (d.isFanout && (!w0.isEmpty || d.upeid == 0 || !(d.stages.any (fun t => t.when_ == 3 && t.op == 3))))
/-- A list has no repeated element. -/
def noRepeat : List Word → Bool
  | [] => true
  | a :: r => !r.contains a && noRepeat r
/-- Step 8: the members (R130). -/
def membersBad (d : Desc) : Bool :=
  let n := d.members.length
  n == 0 || 2048 < n || d.members.any reservedEid || !noRepeat d.members || d.members.contains d.upeid
/-- Step 9: LINKED. -/
def linkBad (s : State) (d : Desc) : Bool :=
  d.linked && (d.persist || (match s.ctx d.link.toNat with
    | none => true
    | some l => !l.d.isCount || l.d.job != d.job || l.d.persist || l.d.elems.toNat != d.nch))
/-- The first failure of R213, 0 if there is none. -/
def installStatus (s : State) (b : List Byte) : Nat :=
  let d := descOf b
  let st := s.glb.state
  if !(st == .ready || st == .inService || st == .quiesced) then 0x0C
  else if reservedBad b then 0x0D
  else if (s.ctx d.ctx.toNat).isSome then 0x01
  else if !(tget JobEnt.zero s.fwd.job d.job.toNat).valid || d.job == 0 then 0x0E
  else if typeBad b d then 0x03
  else if formatBad d then 0x04
  else if windowBad d then 0x05
  else if stagesBad s b d then 0x06
  else if membersBad d then 0x07
  else if linkBad s d then 0x0A
  else if s.dist d.home.toNat != .inService then 0x0F
  else if d.rslots == 0 || 256 < d.rslots.toNat || s.landSlots d.home.toNat < d.rslots.toNat then 0x09
  else if s.lnd.backSize.toNat < s.lnd.backUsed.toNat + d.backing then 0x08
  else 0
/-- A new context. -/
def Ctx.fresh (d : Desc) (raw : List Byte) (resident : Bool) (clk : Nat) : Ctx :=
  { d := d, raw := raw, step := 0, chunks := [], withdrawn := [], seen := [], lowered := [], counts := none, short := 0,
    nCorrected := 0, lateRel := false, toFired := false, timer := none, holdOff := false, resident := resident,
    restoring := false, active := clk, closing := false }
/-- INSTALL of a descriptor's bytes: reserved, journaled, its pool entries delivered first (R213, R216). -/
def installRaw (b : List Byte) (s : State) : State × Nat :=
  let st := installStatus s b
  if st != 0 then (count (evNo 24 0x001 st) s, st)
  else
    let d := descOf b
    let cid := d.ctx.toNat
    let fits := decide (s.slotsUsed d.home.toNat + d.rslots.toNat ≤ s.landSlots d.home.toNat)
    let s := s.setCtx cid (some (Ctx.fresh d b fits s.clk))
    let s := { s with lnd.backUsed := s.lnd.backUsed + BitVec.ofNat 64 d.backing,
                      lnd.tombs := s.lnd.tombs.filter (fun t => t.ctx != cid) }
    let s := journal 4 0 (toLE 4 cid ++ toLE 4 b.length) s
    let s := forEach (chopAll 32 b) journalRaw s
    let mine := s.lnd.pool.filter (fun u => u.ctx == cid)
    let s := { s with lnd.pool := s.lnd.pool.filter (fun u => u.ctx != cid) }
    let s := forEach (mine.filter (fun u => u.job != d.job)) (fun u s => discard 33 u.pkt none s) s
    (landTasks ((mine.filter (fun u => u.job == d.job)).map (fun u => LTask.deliver u.pkt)) s, 0)
/-- The descriptor at LND_ADDR: header, stages, and EXPECT members. -/
def readDesc (s : State) : List Byte :=
  let a := s.lnd.addr.toNat
  rdMem s a (384 + 4 * expectOf (rdMem s a 384))
def execInstall (p : HPort) (s : State) : Out :=
  .next (lndCommand p (fun s =>
    let (s, st) := installRaw (readDesc s) s
    lndStatus st s) s)

/-! ### The other commands -/

/-- Results of the context that a producer has not enqueued yet are discarded (R240). -/
def dropUnsent (cid : Nat) (s : State) : State :=
  let mine := fun (w : Waiting) => (w.pkt.result.map (·.1)) == some cid
  forEach (s.swc.prod.filter mine) (fun w s => leaveCount w.pkt (preLeave w.pkt s)) { s with swc.prod := s.swc.prod.filter (fun w => !mine w) }
def execUninstall (p : HPort) (ctx : BitVec 18) (s : State) : Out :=
  .next (lndCommand p (fun s =>
    match s.ctx ctx.toNat with
    | none => lndStatus 2 s
    | some _ => lndStatus 0 (removeCtx ctx.toNat (dropUnsent ctx.toNat s))) s)
/-- CORR is 1.0. -/
def corrOne (w : Word) : Bool := w == 0x3F800000
def execWithdraw (p : HPort) (ctx : BitVec 18) (s : State) : Out :=
  .next (lndCommand p (fun s =>
    let cid := ctx.toNat
    let i := s.lnd.arg.toNat % 2048
    match s.ctx cid with
    | none => lndStatus 2 s
    | some c =>
      if c.d.linked then lndStatus 0x0B s
      else if c.d.members.length ≤ i then lndStatus 0x0D s
      else if 2 ≤ c.d.type.toNat && !corrOne s.lnd.corr then lndStatus 0x0D s
      else if c.isWithdrawn i then lndStatus 0x0B s
      else
        let c := { c with withdrawn := tset none c.withdrawn i (some s.lnd.corr) }
        let c := if c.timer.isSome then restartTimer s c else c
        let s := journal 6 0 (toLE 4 cid ++ toLE 4 i ++ toLE 4 s.lnd.corr.toNat) (s.setCtx cid (some c))
        lndStatus 0 (landTasks [.progress cid] s)) s)
/-- The bytes that QUERY writes (R242). -/
def queryBytes (s : State) (cid : Nat) : List Byte :=
  match s.ctx cid with
  | none => toLE 1 (if s.lnd.tombs.any (fun t => t.ctx == cid) then 3 else 0) ++ zeros 63
  | some c =>
    let per := fun i =>
      if c.d.isCount || c.d.isFanout then b2n (c.hasSeen i)
      else (c.chunks.filter (fun e => e.2.from_.contains i)).length
    toLE 1 (if c.closing then 2 else 1) ++ toLE 1 (b2n c.resident) ++ toLE 1 c.d.afmt ++ toLE 1 (b2n c.toFired)
      ++ toLE 4 c.step.toNat ++ toLE 2 c.completeCount ++ toLE 2 (if c.resident then s.linesUsed cid c else 0)
      ++ toLE 4 c.short.toNat ++ toLE 2 c.withdrawn.length ++ zeros 2 ++ toLE 4 c.d.backing ++ zeros 40
      ++ c.allMembers.flatMap (fun i => toLE 2 (per i))
def execLndQuery (p : HPort) (ctx : BitVec 18) (s : State) : Out :=
  .next (lndCommand p (fun s => lndStatus 0 (wrMem s s.lnd.addr.toNat (queryBytes s ctx.toNat))) s)
def execLndTrigger (p : HPort) (ctx : BitVec 18) (s : State) : Out :=
  .next (lndCommand p (fun s =>
    match s.ctx ctx.toNat with
    | none => lndStatus 2 s
    | some _ => lndStatus 0 (landTasks [.trigger ctx.toNat] s)) s)

/-! ### Delivery and time -/

/-- A whole Cezal 3 packet that has arrived at a port, as it crosses to its home district. -/
def execLandingDelivery (packet : List Byte) (port : Port) (s : State) : Out :=
  let h := hdrOf packet
  let p : Pkt := { h := h, payload := (packet.drop 32).take h.len, tin := s.now, inPort := port.val, c2 := false, counted := false, cred := true }
  .next (
    if h.kind != 2 && h.kind != 11 then s
    else
      match s.notAdmitted port.val h with
      | some code => discard code { p with cred := false } none s
      | none => deliverLand p (s.modLink port.val (fun l => { l with rxBal := tmod 0 l.rxBal h.tc (fun b => b - creditsOf p.inSize) })))
def execReleaseInstant (dt : Nat) (i : Nat) (s : State) : Out :=
  let s := elapse dt s
  .next (
    match s.lnd.held[i]? with
    | none => s
    | some h =>
      if h.hold || s.now < h.notBefore then s
      else
        let s := { s with lnd.held := s.lnd.held.take i ++ s.lnd.held.drop (i + 1) }
        let (s, loc) := releaseHeld h s
        landTasks (localTasks loc ++ [.progress h.ctx]) s)
def execLandingTimeout (dt : Nat) (ctx : BitVec 18) (s : State) : Out :=
  let s := elapse dt s
  let cid := ctx.toNat
  .next (
    match s.ctx cid with
    | none => s
    | some c =>
      let run := match c.timer with | some t => s.clk - t | none => 0
      if s.glb.state == .quiesced || s.glb.state == .cordoned then s
      else if c.timer.isNone || c.d.tmo == 0 || c.toFired || run < c.d.tmo.toNat * 1000 then s
      else
        let s := raiseLnd 1 (s.setCtx cid (some { c with toFired := true }))
        let (s, t) := eventStages 2 cid (c.d.stagesOf 2) s
        landTasks t s)
def execTombstoneExpire (dt : Nat) (ctx : BitVec 18) (s : State) : Out :=
  let s := elapse dt s
  .next { s with lnd.tombs := s.lnd.tombs.filter (fun t =>
    !(t.ctx == ctx.toNat && decide (s.lnd.tomb.toNat * 1000000 ≤ s.clk - t.at_))) }
def execEaExpire (dt : Nat) (s : State) : Out :=
  let s := elapse dt s
  let old := fun (u : EaUnit) => decide (s.lnd.age.toNat * 1000000 < s.clk - u.at_)
  let gone := s.lnd.pool.filter old
  .next (
    if gone.isEmpty then s
    else
      let s := { s with lnd.pool := s.lnd.pool.filter (fun u => !old u) }
      raiseLnd 3 (forEach gone (fun u s => discard 44 u.pkt none s) s))
def execFanoutCordonCheck (dt : Nat) (ctx : BitVec 18) (s : State) : Out :=
  .next (landTasks [.progress ctx.toNat] (cordonCheck ctx.toNat (elapse dt s)))
def execContextRestoreDone (ctx : BitVec 18) (s : State) : Out :=
  .next (s.modCtx ctx.toNat (fun c => if c.restoring then { c with restoring := false, resident := true } else c))

end Sys2Proof.Machine
end

