-- ==== Sys2Proof/Machine/EgressOps.lean ====
section
/-! DEFINITION. The egress scheduler and what leaves an output queue (R91, R95, R164, R167 to R169, R172, R249), and the windfall sweeper (R165). -/
namespace Sys2Proof.Machine
open Sys2Proof

/-! ### The form in which a packet leaves -/

/-- KIND 6 and 7 carry no format code. -/
def Hdr.hasFmt (h : Hdr) : Bool := h.kind != 6 && h.kind != 7
/-- The packet as its partner may take it: TC5 and TC6 as TC3 where timetables were not negotiated (R91); none where the partner has no such packet (R76, R91, R95). -/
def txForm (s : State) (port : Nat) (p : Pkt) : Option Pkt :=
  let c2 := s.isC2 port
  let bad := if c2 then p.h.kind == 11 || (p.h.hasFmt && !([0, 1, 2, 3, 9, 0x0D, 0x0E] : List Nat).contains p.h.fmt)
    else p.h.hasFmt && p.h.fmt == 0x0C && !s.cap port 2
  if bad || (p.isFly && (c2 || !s.cap port 4)) then none
  else
    let h := if p.h.isSched && (c2 || !s.cap port 0) then p.h.unsched.setTc 3 else p.h
    let h := h.setHops (p.h.hops + 1)
    some { p with h := if s.txLanes port < s.width port then h.setDegraded else h }
/-- Bytes on the link. -/
def linkSize (s : State) (port : Nat) (p : Pkt) : Nat :=
  if s.isC2 port then sizeOf' 24 (p.h.len + c2Extra p.h.kind) else p.size
/-- The credit balance covers the packet (R84). -/
def covered (s : State) (port : Nat) (p : Pkt) : Bool :=
  !creditClass p.h.tc || decide (creditsOf (linkSize s port p) ≤ tget 0 (s.link port).txBal p.h.tc)

/-! ### The scheduler (R167, R168) -/

/-- The head packet of a queue, as an item. -/
def Queue.head? (q : Queue) : Option QItem := q.items.find? QItem.isPkt
/-- The queue has a packet that can go now: one whose credits are there, or one to be discarded. -/
def queueReady (s : State) (port tc : Nat) : Bool :=
  match ((s.queue (queueKey port tc)).head?).bind s.itemPkt with
  | none => false
  | some p =>
    match txForm s port p with
    | none => true
    | some o => covered s port o
/-- The earlier of two virtual times, compared modulo 2^48. -/
def before48 (a b : BitVec 48) : Bool := a != b && decide (2 ^ 47 ≤ (a - b).toNat)
/-- The class with the smallest finish tag; on a tie the higher class, which `classes` names first. -/
def bestOf (s : State) (port : Nat) (classes : List Nat) : Option Nat :=
  (classes.filter (queueReady s port)).foldl (fun best tc =>
    match best with
    | none => some tc
    | some b => if before48 (s.queue (queueKey port tc)).f (s.queue (queueKey port b)).f then some tc else best) none
/-- The guarantee bucket filled up to this instant, in quarter bytes: at most 2 x 4,352 bytes. -/
def fillG (port : Nat) (s : State) : State :=
  s.modSched port (fun c => { c with g := min (2 * 4352 * 4) (c.g + s.plt.plat.ushare.toNat * s.txLanes port * (s.clk - c.gAt)), gAt := s.clk })
/-- The queue to be served (R167). -/
def pickQueue (s : State) (port : Nat) : Option Nat :=
  let sizeAt := fun tc => (((s.queue (queueKey port tc)).head?).bind s.itemPkt).map (fun p => linkSize s port p)
  match bestOf s port [6, 5], bestOf s port [7, 4, 3, 2, 1, 0] with
  | none, u => u
  | some c, none => some c
  | some c, some u =>
    match sizeAt u with
    | some n => if 4 * n ≤ (s.sched port).g then some u else some c
    | none => some c
/-- Takes the head item out of a queue. -/
def popHead (port tc : Nat) (s : State) : State :=
  let (_, rest) := frontMarkers (s.queue (queueKey port tc)).items
  settleQueue port tc (rest.drop 1) true (consumeFront (queueKey port tc) s)
def combId : QItem → Option Nat
  | .comb _ id => some id
  | _ => none
/-- A fence marker has left its egress port: with copies on a bundle it counts when the last of them leaves; a copy made for observation does not count (R71, R249). -/
def markerLeft (p : Pkt) (s : State) : State :=
  if p.h.mirror then s
  else
    let mine := fun (m : MarkWait) => p.marker == some m.id
    match s.lnd.marks.find? mine with
    | none => if p.marker.isSome then s else fenceMark p.h.job p.h.fence s
    | some m =>
      if m.copies ≤ 1 then fenceMark p.h.job p.h.fence { s with lnd.marks := s.lnd.marks.filter (fun m => !mine m) }
      else { s with lnd.marks := s.lnd.marks.map (fun m => if mine m then { m with copies := m.copies - 1 } else m) }
/-- Sends the head packet of a queue: the group's virtual time, the guarantee bucket, credits, the link. -/
def sendHead (port tc : Nat) (p o : Pkt) (s : State) : State :=
  let q := s.queue (queueKey port tc)
  let size := linkSize s port o
  let schd := tc == 5 || tc == 6
  let s := s.modSched port (fun c =>
    if schd then { c with vS := q.headS } else { c with vU := q.headS, g := c.g - 4 * size })
  let s := popHead port tc s
  let s := if creditClass o.h.tc then
      s.modLink port (fun l => { l with txBal := tmod 0 l.txBal o.h.tc (fun b => b - creditsOf size) })
    else s
  let s := s.modLink port (fun l => { l with txPkts := l.txPkts ++ [(o, if s.isC2 port then o.wire2 else o.wire3)] })
  let s := countN (evNo 4 0x003 port) size (count (evNo 4 0x002 port) s)
  let s := modMap port (fun m => if schd then { m with sched := m.sched + size } else { m with unsched := m.unsched + size }) s
  let s := leaveCount p s
  if p.h.kind == 9 then markerLeft p s else s
/-- One transmission opportunity: aged and unsupported heads are discarded, and the first packet that can go is sent (R164, R176). -/
def serve : Nat → Nat → State → State
  | 0, _, s => s
  | fuel + 1, port, s =>
    match pickQueue s port with
    | none => s
    | some tc =>
      let s := consumeFront (queueKey port tc) s
      match (s.queue (queueKey port tc)).head? with
      | none => s
      | some it =>
        let s := match combId it with | some id => closeComb id s | none => s
        match ((s.queue (queueKey port tc)).head?) with
        | none => serve fuel port s
        | some it' =>
          if combId it' != combId it then serve fuel port s
          else
            let s := match combId it' with | some id => freeComb id s | none => s
            match it'.pkt? with
            | none => s
            | some p =>
              if s.aged p then serve fuel port (windfall p (some port) true (popHead port tc s))
              else
                match txForm s port p with
                | none => serve fuel port (discardQ 26 p port (popHead port tc s))
                | some o => sendHead port tc p o s
/-- The packets that the queues of a port hold. -/
def State.queuedAt (s : State) (port : Nat) : Nat := sumOf ((List.range 8).map (fun tc => (s.queue (queueKey port tc)).items.length))

/-! ### Removing packets wherever they are -/

/-- Takes out of a queue every packet that `bad` names, wherever it stands, and hands each to `drop`; with `markers` the drain markers go too, without being consumed. -/
def purgeQueue (bad : Pkt → Bool) (drop : Pkt → Nat → State → State) (key : Nat) (s : State) : State :=
  let q := s.queue key
  let gone := fun (it : QItem) => match s.itemPkt it with | some p => bad p | none => false
  if !q.items.any gone then s
  else
    let out := (q.items.filter gone).filterMap s.itemPkt
    let ids := (q.items.filter gone).filterMap combId
    let head := (q.head?.map gone).getD false
    let s := settleQueue (key / 8) (key % 8) (q.items.filter (fun it => !gone it)) head s
    forEach out (fun p s => drop p (key / 8) s) (forEach ids freeComb s)
/-- Takes out of an ingress FIFO. -/
def purgeFifo (bad : Held → Bool) (drop : Held → State → State) (key : Nat) (s : State) : State :=
  let f := tget [] s.swc.holds key
  forEach (f.filter bad) drop { s with swc.holds := tset [] s.swc.holds key (f.filter (fun h => !bad h)) }
/-- Takes out of a reorder store. -/
def purgeRo (bad : Pkt → Bool) (drop : Pkt → Option Nat → State → State) (d : Nat) (s : State) : State :=
  let out := (s.ro d).flatMap (fun c => c.held.filter (fun e => bad e.1))
  forEach out (fun e s => drop e.1 (s.outPort e.2.1 e.1) s) (setRo d ((s.ro d).map (fun c => { c with held := c.held.filter (fun e => !bad e.1) })) s)
/-- Items of a yard list: those `bad` names that no thread has claimed go; claimed ones stay, marked by `mark`, until their thread reads them. -/
def purgeYard (bad : YItem → Bool) (mark : YItem → YItem) (l : List YItem) : List YItem :=
  (l.filter (fun i => !(bad i && i.claimed.isNone))).map (fun i => if bad i then mark i else i)
/-- The packet of a flow item, with its next hop. -/
def YItem.flow? (i : YItem) : Option (Pkt × Hop) := match i.kind with | .flow p hop => some (p, hop) | _ => none
/-- The egress port of a packet from a yard. -/
def State.flowPort (s : State) (e : Pkt × Hop) : Option Nat := chosenPort s e.1.district e.2 e.1.h
/-- A packet from a yard is discarded. -/
def dropFlow (dcode : Nat) (e : Pkt × Hop) (s : State) : State := discard dcode e.1 (s.flowPort e) s
/-- What a waiting output carries. -/
def FlowOut.flow? (o : FlowOut) : Option (Pkt × Hop) := o.pkt.map (fun p => (p, o.hop))
/-- The item still carries its packet: no output sent, not dropped. -/
def YItem.live (i : YItem) : Bool := !i.sent && !i.gone
/-- Drops the flow items that `bad` names from every yard of a binding; of one whose output has been sent only what its thread has still to read. -/
def purgeBinding (bad : Pkt → Bool) (mark : YItem → YItem) (drop : Pkt × Hop → State → State) (bid : Nat) (s : State) : State :=
  match s.bindOf bid with
  | none => s
  | some b =>
    let named := fun (i : YItem) => !i.gone && (match i.flow? with | some e => bad e.1 | none => false)
    let gone := fun (i : YItem) => i.live && named i
    let outGone := fun (o : FlowOut) => match o.pkt with | some p => bad p | none => false
    let out := (b.oldYards ++ b.yards).flatMap (fun e => (e.2.filter gone).filterMap YItem.flow?) ++ (b.outs.filter outGone).filterMap FlowOut.flow?
    let fix := fun (t : Tab (List YItem)) => (t.map (fun e => (e.1, purgeYard named mark e.2))).filter (fun e => !e.2.isEmpty)
    let s := s.setBind bid (some { b with
      yards := fix b.yards, oldYards := fix b.oldYards,
      outs := b.outs.map (fun o => if outGone o then { o with pkt := none } else o) })
    forEach out drop s
/-- Every yard of a district's bindings. -/
def State.bindingsIn (s : State) (d : Nat) : List Nat :=
  s.mil.binds.filterMap (fun e => match e.2 with
    | some b => if b.place.district == d || (b.oldPlace.map (·.district)) == some d then some e.1 else none
    | none => none)

/-! ### The windfall sweeper (R165) -/

/-- A waiting replication whose packet is aged ends: this copy and every later one are windfall (R161). -/
def sweepRepl (d : Nat) (s : State) : State :=
  let mine := fun (w : ReplWait) => s.spoint w.pkt == d && s.aged w.pkt
  let due := s.swc.repl.filter mine
  forEach due (fun w s => (runRepl (w.count + 1) w s).1) { s with swc.repl := s.swc.repl.filter (fun w => !mine w) }
def sweepDistrict (d : Nat) (s : State) : State :=
  let keys := (s.distPorts d).flatMap (fun p => (List.range 8).map (queueKey p))
  let s := forEach keys (purgeQueue s.aged (fun p port s => windfall p (some port) true s)) s
  let s := forEach keys (purgeFifo (fun h => s.aged h.pkt) (fun h s => windfall h.pkt (s.outPort h.dest h.pkt) false s)) s
  let s := purgeRo s.aged (fun p out s => windfall p out false s) d s
  let s := sweepRepl d s
  forEach (s.bindingsIn d) (purgeBinding s.aged (fun i => { i with aged := true }) (fun e s => windfall e.1 (s.flowPort e) false s)) s

end Sys2Proof.Machine
end

