-- ==== Sys2Proof/Machine/MillOps.lean ====
section
/-! DEFINITION. The Mill's shared operations (R279 to R309): threads and the side of a binding they run on, instruction words, issue and faults, tile registers, yards and items, the order of outputs, engines and their share tables, residency, and handovers. -/
namespace Sys2Proof.Machine
open Sys2Proof

/-! ### The side of a binding that its threads run on -/

def Binding.putSide (b : Binding) (v : Side) : Binding :=
  match b.oldPlace with
  | some _ => { b with oldThreads := v.threads, oldTiles := v.tiles, oldScratch := v.scratch, oldYards := v.yards }
  | none => { b with threads := v.threads, tiles := v.tiles, scratch := v.scratch, yards := v.yards }
def modSide (bid : Nat) (f : Side → Side) (s : State) : State := s.modBind bid (fun b => b.putSide (f b.side))
def setYard (bid y : Nat) (l : List YItem) (s : State) : State := modSide bid (fun v => { v with yards := tset [] v.yards y l }) s
def modItem (bid y id : Nat) (f : YItem → YItem) (s : State) : State :=
  modSide bid (fun v => { v with yards := tset [] v.yards y ((v.yard y).map (fun i => if i.id == id then f i else i)) }) s

/-! ### Threads (R281, R282, R284) -/

def modTh (bid key : Nat) (f : Thread → Thread) (s : State) : State :=
  modSide bid (fun v => { v with threads := tmod Thread.reset v.threads key f }) s
def modThread (t : Th) (f : Thread → Thread) (s : State) : State := modTh (thBid t) (thKey t) f s
/-- Writes a scalar register; a write of X0 is ignored. -/
def setX (t : Th) (n v : Nat) (s : State) : State :=
  if n == 0 then s else modThread t (fun h => { h with x := tset 0 h.x n (BitVec.ofNat 64 v) }) s
/-- The thread with an identity is READY and resident. -/
def State.idReady (s : State) (id : Nat) : Bool :=
  match s.side (id / 128) with
  | some v => (tget Thread.reset v.threads (id % 128)).st == .ready && s.residentOn (id / 128) (id % 128 / 16)
  | none => false
/-- The threads of a core that are READY, by identity. -/
def State.readyOn (s : State) (g : Nat) : List Nat :=
  (s.bindsOn g).flatMap (fun e => (e.2.side.threads.map (fun x => 128 * e.1 + x.1)).filter (fun id => id % 128 / 16 == g % 8 && s.idReady id))
/-- The thread has issued: no thread of the core waits for it any longer. -/
def noteIssue (t : Th) (s : State) : State :=
  let g := s.gcore t
  let s := forEach ((s.bindsOn g).map (·.1)) (fun bid s => modSide bid (fun v => { v with
    threads := (v.threads.map (fun e => (e.1, { e.2 with owe := e.2.owe.filter (· != thId t) }))) }) s) s
  s.modCore g (fun c => { c with lastIssue := thId t + 1 })
/-- The state in which a thread goes on: saved while its core's copy is not resident (R304). -/
def State.goOn (s : State) (bid key : Nat) : ThState := if s.residentOn bid (key / 16) then .ready else .saved
def wake (bid key : Nat) (s : State) : State :=
  let st := s.goOn bid key
  modTh bid key (fun h => { h with st := st, waits := .none }) s

/-! ### Residency (R303, R304) -/

def Place.on (p : Place) (c : Nat) : Bool := p.cores.getLsbD c
def Place.cores' (p : Place) : List Nat := (List.range 8).filter p.on
/-- Tile registers that the image of a place declares. -/
def State.tregs (s : State) (p : Place) : Nat := imgTregs (s.placeImage p)
/-- Thread contexts and tile registers that resident bindings use on a core. -/
def State.coreUse (s : State) (g : Nat) : Nat × Nat :=
  let r := (s.bindsOn g).filter (fun e => e.2.resident.getLsbD (g % 8))
  (sumOf (r.map (fun e => e.2.side.place.threads)), sumOf (r.map (fun e => s.tregs e.2.side.place)))
/-- A binding has work: an item waits in its input yard, or one of its threads is READY or SWITCHED. -/
def Binding.hasWork (b : Binding) : Bool :=
  let v := b.side
  (v.yard 0).any (fun i => i.complete && i.claimed.isNone)
    || v.threads.any (fun e => e.2.st == .ready || e.2.st == .saved || e.2.st == .switched)
/-- The copy of a binding on a core of its gang becomes resident: its saved threads go on. -/
def enterCore (bid c : Nat) (s : State) : State :=
  modSide bid (fun v => { v with threads := v.threads.map (fun e =>
    if e.1 / 16 == c && e.2.st == .saved then (e.1, { e.2 with st := .ready }) else e) })
    (s.modBind bid (fun b => { b with resident := setBit b.resident c true }))
/-- A binding that starts becomes resident on each core of its gang where it fits; a pinned one always (R294 step 7). -/
def settleIn (bid : Nat) (s : State) : State :=
  match s.side bid with
  | none => s
  | some v =>
    forEach v.place.cores' (fun c s =>
      let (th, tr) := s.coreUse (8 * v.place.district + c)
      if v.place.pin || (th + v.place.threads ≤ 16 && tr + s.tregs v.place ≤ 64) then
        enterCore bid c (s.modCore (8 * v.place.district + c) (fun k => { k with lastMade := bid })) else s) s

/-! ### Starting and stopping (R282, R301, R302, R310) -/

/-- The threads of a place at ENTRY, saved until their core is resident. -/
def startThreads (bid entry : Nat) (p : Place) : Tab Thread :=
  p.cores'.zipIdx.flatMap (fun e => (List.range p.threads).map (fun i =>
    (16 * e.1 + i, { Thread.reset with st := .saved, pc := entry, x := tset 0 (tset 0 (tset 0 [] 29 (BitVec.ofNat 64 bid)) 30 (BitVec.ofNat 64 e.2)) 31 (BitVec.ofNat 64 i) })))
/-- The initial contents of a scratch segment. -/
def startScratch (img : List Byte) : Tab Byte := tsetL 0 [] 0 (imgInit img)
/-- The threads of the present place start afresh. -/
def startBinding (bid : Nat) (s : State) : State :=
  match s.bindOf bid with
  | none => s
  | some b =>
    let img := s.placeImage b.place
    settleIn bid (s.setBind bid (some { b with
      threads := startThreads bid (imgEntry img) b.place, tiles := [], scratch := startScratch img, arrived := [], resident := 0 }))
/-- Every old thread has stopped and the old yard is empty: the new threads start and the old reservations are freed. -/
def finishHandover (bid : Nat) (s : State) : State :=
  match s.bindOf bid with
  | none => s
  | some b =>
    match b.oldPlace with
    | none => s
    | some _ =>
      let s := { s with mil.backUsed := s.mil.backUsed - BitVec.ofNat 64 b.oldBackRes }
      let s := s.setBind bid (some { b with
        st := .bound, oldPlace := none, oldThreads := [], oldTiles := [], oldScratch := [], oldYards := [],
        oldScratchRes := 0, oldBackRes := 0 })
      raiseMil 1 (startBinding bid s)
def Side.allStopped (v : Side) : Bool := v.threads.all (fun e => e.2.st == .stopped)
/-- The side takes no further items: an old place, or a binding being unbound. -/
def Binding.ending (b : Binding) : Bool := b.closing || b.oldPlace.isSome
/-! ### Outputs in claim order (R299, R300) -/

/-- The output re-enters step 4: an unscheduled one is policed against the bucket of the port where its input arrived. -/
def sendOutput (p : Pkt) (hop : Hop) (s : State) : State :=
  if s.glb.state == .cordoned then dropFlow 24 (p, hop) s
  else if s.aged p then windfall p (s.flowPort (p, hop)) false s
  else if p.h.isSched then placeOutput hop p s
  else
    let s := fillPolicer p.inPort s
    if s.policerHolds p.inPort || (s.sched p.inPort).bucket < 4 * p.size then holdPkt ⟨p, .output hop, true⟩ s
    else placeOutput hop p (chargePolicer p.inPort p s)
/-- Outputs at the front of the claim order leave; `fuel` bounds them. -/
def releaseOuts (bid : Nat) : Nat → State → State
  | 0, s => s
  | fuel + 1, s =>
    match s.bindOf bid with
    | none => s
    | some b =>
      match b.order with
      | [] => s
      | id :: rest =>
        match b.outs.find? (fun o => o.item == id) with
        | none => s
        | some o =>
          let s := s.setBind bid (some { b with order := rest, outs := b.outs.filter (fun o => o.item != id) })
          let s := match o.pkt with | some p => sendOutput p o.hop s | none => s
          releaseOuts bid fuel s
def releaseAllOuts (bid : Nat) (s : State) : State :=
  releaseOuts bid (((s.bindOf bid).map (fun b => b.order.length)).getD 0 + 1) s
/-- An item leaves the claim order without an output. -/
def leaveOrder (bid id : Nat) (s : State) : State :=
  releaseAllOuts bid (s.modBind bid (fun b =>
    if b.outs.any (fun o => o.item == id) then b else { b with order := b.order.filter (· != id) }))

/-! ### Items (R289 to R291, R296, R298) -/

/-- The current item of a thread in a yard. -/
def State.curItem (s : State) (t : Th) (y : Nat) : Option YItem :=
  match s.side (thBid t), tget none (s.thread t).item y with
  | some v, some id => (v.yard y).find? (fun i => i.id == id)
  | _, _ => none
def setCur (t : Th) (y : Nat) (id : Option Nat) (s : State) : State := modThread t (fun h => { h with item := tset none h.item y id }) s
/-- The thread's item ends: a flow item without an output is TF_DROPPED (R299). -/
def endItem (t : Th) (y : Nat) (s : State) : State :=
  match s.curItem t y with
  | none => setCur t y none s
  | some i =>
    let bid := thBid t
    let s := setCur t y none s
    let s := match s.side bid with
      | some v => setYard bid y ((v.yard y).filter (fun j => j.id != i.id)) s
      | none => s
    match i.flow? with
    | some e =>
      let s := if i.live then dropFlow 50 e s else s
      leaveOrder bid i.id s
    | none => s
/-- The context and chunk of a finish item, where it still runs that FINISH (R296). -/
def State.finishChunk (s : State) (i : YItem) : Option (Nat × Nat × Ctx) :=
  match i.kind with
  | .finish cid pos step =>
    match s.ctx cid with
    | some c =>
      let runs := match (c.chunk pos).running with
        | some j => (match c.d.stages[j]? with | some g => g.op == 1 | none => false)
        | none => false
      if c.step.toNat == step && runs then some (cid, pos, c) else none
    | none => none
  | _ => none
/-- The Mill of the binding's district takes no new work (R367). -/
def State.milStopped (s : State) (d : Nat) : Bool := (tget Gov.reset s.res.gov d).stop
/-- A thread claims the item of a yard that was completed first (R289): an aged flow item is windfall, a descriptor whose context is gone is dropped. The answer is none where nothing can be claimed. -/
def claim (t : Th) (y : Nat) : Nat → State → State × Option YItem
  | 0, s => (s, none)
  | fuel + 1, s =>
    let bid := thBid t
    match s.bindOf bid with
    | none => (s, none)
    | some b =>
      if s.milStopped b.side.place.district || b.closing then (s, none)
      else
        match (b.side.yard y).find? (fun i => i.complete && i.claimed.isNone) with
        | none => (s, none)
        | some i =>
          let drop := fun (s : State) => setYard bid y ((b.side.yard y).filter (fun j => j.id != i.id)) s
          match i.kind with
          | .finish .. => if (s.finishChunk i).isNone then claim t y fuel (drop s) else take t y i s
          | .flow p hop =>
            if s.aged p then claim t y fuel (windfall p (s.flowPort (p, hop)) false (drop s))
            else
              let (s, r) := take t y i s
              (s.modBind bid (fun b => { b with order := b.order ++ [i.id] }), r)
          | .plain => take t y i s
where
  take (t : Th) (y : Nat) (i : YItem) (s : State) : State × Option YItem :=
    let i' := { i with claimed := some (thKey t) }
    (setCur t y (some i.id) (modItem (thBid t) y i.id (fun _ => i') s), some i')
/-- The words that a read of n bytes takes lie in part in LPDDR5X. -/
def YItem.far (i : YItem) (n : Nat) : Bool :=
  let k := min n (i.bytes.length - i.rd)
  ((i.loc.drop (i.rd / 8)).take (divUp (i.rd % 8 + k) 8)).contains .lpddr
/-- What a read of a yard gets: bytes with END, a flushed item, nothing before a fetch from LPDDR5X, or nothing yet. -/
inductive YRead where
  | wait
  | fetch
  | flushed
  | got (bytes : List Byte) (end_ : Bool)
/-- Reads up to `n` bytes of the thread's current item of a yard, claiming one where it has none. -/
def readYard (t : Th) (y n : Nat) (s : State) : State × YRead :=
  let more := fun (i : YItem) (s : State) =>
    if i.far n then (s, YRead.fetch)
    else
    let bytes := (i.bytes.drop i.rd).take n
    let rd := i.rd + bytes.length
    (modItem (thBid t) y i.id (fun i => { i with rd := rd }) s, YRead.got bytes (decide (i.bytes.length ≤ rd)))
  let fresh := fun (s : State) =>
    let len := ((s.side (thBid t)).map (fun v => (v.yard y).length)).getD 0
    match claim t y (len + 1) s with
    | (s, some i) => more i s
    | (s, none) => (s, .wait)
  match s.curItem t y with
  | none => fresh s
  | some i =>
    if i.gone then (endItem t y s, .flushed)
    else if i.bytes.length ≤ i.rd then fresh (endItem t y s)
    else more i s
/-- Yard fetches outstanding in the device (R34). -/
def State.fetchesOut (s : State) : Nat :=
  sumOf (s.mil.binds.map (fun e => match e.2 with
    | some b => ((b.threads ++ b.oldThreads).filter (fun h => match h.2.waits with | .fetch .. => true | _ => false)).length
    | none => 0))
/-- A read that needs the middle of a yard from LPDDR5X: the thread is SWITCHED until the fetch completes, and at the bound of outstanding fetches until one can start (R288). -/
def startFetch (t : Th) (y n : Nat) (s : State) : State :=
  if s.fetchesOut < 1024 then modThread t (fun h => { h with st := .switched, waits := .fetch y n }) s
  else countN (evNo 28 0x011 (s.gcore t / 8)) 1 (modThread t (fun h => { h with st := .switched, waits := .fetchSlot y n }) s)
/-- A thread's fetch completes: the words of its read are at the head of the yard. -/
def fetched (bid key : Nat) (s : State) : State :=
  match s.side bid with
  | none => s
  | some v =>
    let h := tget Thread.reset v.threads key
    match h.waits with
    | .fetch y n =>
      (match tget none h.item y with
      | some id => modItem bid y id (fun i =>
          let a := i.rd / 8
          let k := divUp (i.rd % 8 + n) 8
          { i with loc := i.loc.take a ++ ((i.loc.drop a).take k).map (fun _ => .regs) ++ i.loc.drop (a + k) }) s
      | none => s)
    | _ => s
/-- Threads of a side that wait for an item of, or room in, a yard go on. -/
def wakeYard (bid y : Nat) (s : State) : State :=
  match s.side bid with
  | none => s
  | some v =>
    forEach ((v.threads.filter (fun e => e.2.st == .yardWait && (e.2.waits == .yardItem y || e.2.waits == .yardRoom y))).map (·.1)) (wake bid) s
/-- The copy is saved: running threads, and those whose access completes, are saved as READY; a waiting thread keeps its wait (R304, R309). -/
def leaveCore (bid c : Nat) (s : State) : State :=
  let ends := fun (w : Waits) => match w with | .access => true | .fetch .. => true | _ => false
  let keys := ((s.side bid).map (fun v => (v.threads.filter (fun e => e.1 / 16 == c)).map (·.1))).getD []
  let s := forEach keys (fetched bid) s
  modSide bid (fun v => { v with threads := v.threads.map (fun e =>
    if e.1 / 16 == c && (e.2.st == .ready || (e.2.st == .switched && ends e.2.waits)) then (e.1, { e.2 with st := .saved, waits := .none }) else e) })
    (s.modBind bid (fun b => { b with resident := setBit b.resident c false }))
/-- A flush empties a yard at once (R291): items claimed and unclaimed alike; a flow item counts as TF_FLUSHED. -/
def flushYard (bid y : Nat) (s : State) : State :=
  match s.side bid with
  | none => s
  | some v =>
    let l := v.yard y
    let gone := l.filter YItem.live
    let keep := (l.filter (fun i => i.claimed.isSome && i.complete)).map (fun i => if i.gone then i else { i with flushed := true })
    let s := setYard bid y keep s
    let s := forEach gone (fun i s => match i.flow? with
      | some e => leaveOrder bid i.id (dropFlow 51 e s)
      | none => s) s
    wakeYard bid y s

/-! ### Threads of a side that ends (R301, R302) -/

/-- Nothing of the item remains for its thread: read to its end, and of a flow item the output sent; or dropped. -/
def YItem.over (i : YItem) : Bool :=
  i.gone || (match i.kind with
    | .plain => decide (i.bytes.length ≤ i.rd)
    | .flow .. => i.sent && decide (i.bytes.length ≤ i.rd)
    | .finish .. => false)
/-- A thread has a current item. -/
def Side.holds (v : Side) (h : Thread) : Bool :=
  h.item.any (fun e => match e.2 with
    | some id => (v.yard e.1).any (fun i => i.id == id && !i.over)
    | none => false)
def threadNo (bid key : Nat) : Th := ⟨BitVec.ofNat 12 bid, Fin.ofNat 8 (key / 16), Fin.ofNat 16 (key % 16)⟩
/-- A thread stops: its current items end. -/
def stopThread (bid key : Nat) (s : State) : State :=
  let t := threadNo bid key
  let s := forEach (List.range 8) (fun y s => if (s.curItem t y).isSome then endItem t y s else s) s
  modTh bid key (fun h => { h with st := .stopped, waits := .none }) s
/-- A thread that waits at a yard could go on now. -/
def State.yardServes (s : State) (b : Binding) (w : Waits) : Bool :=
  let v := b.side
  match w with
  | .yardItem y => !b.closing && (v.yard y).any (fun i => i.complete && i.claimed.isNone)
  | .yardRoom y => decide (yardUsed (v.yard y) + 8 ≤ s.yardCap v.place y)
  | _ => false
/-- Threads of an ending side stop once their current items have ended (R302), those of a handover once the old yard is empty (R301); threads that wait for what no running thread can bring stop too. -/
def stopThreads (bid : Nat) (s : State) : State :=
  match s.bindOf bid with
  | none => s
  | some b =>
    if !b.ending then s
    else
      let v := b.side
      if !b.closing && (v.yard 0).any (fun i => i.complete && i.claimed.isNone) then s
      else
        let worked := !b.closing && (v.yard 0).any (fun i => i.claimed.isSome && !i.over)
        let runs := fun (h : Thread) => (v.holds h || worked) &&
          (h.st == .ready || h.st == .saved || h.st == .switched || (h.st == .yardWait && s.yardServes b h.waits))
        let busy := v.threads.any (fun e => runs e.2)
        let stop := fun (h : Thread) =>
          match h.st with
          | .stopped => false
          | .switched => false
          | .yardWait => if v.holds h then !busy else !worked || h.waits == .yardItem 0 || !busy
          | .barrier => if v.holds h then !busy else !worked || !busy
          | _ => !v.holds h && !worked
        forEach ((v.threads.filter (fun e => stop e.2)).map (·.1)) (stopThread bid) s
/-- An unbound binding whose threads have all stopped is freed (R302). -/
def finishUnbind (bid : Nat) (s : State) : State :=
  match s.bindOf bid with
  | none => s
  | some b =>
    if b.closing && b.side.allStopped then
      let left := ((b.oldYards ++ b.yards).flatMap (·.2)).filterMap (fun i => if i.live then i.flow? else none)
      let s := { s with mil.backUsed := s.mil.backUsed - BitVec.ofNat 64 (b.backRes + b.oldBackRes) }
      forEach left (fun e s => raiseMil 3 (dropFlow 48 e s)) (s.setBind bid none)
    else s
/-- What follows when threads of an ending side may have stopped. -/
def settleEnding (bid : Nat) (s : State) : State := finishUnbind bid (stopThreads bid s)

/-! ### Faults (R287) -/

/-- Items that the threads of a side hold are dropped; a flow item counts as TF_DOWN (R298). Outputs that wait behind them are dropped with them. -/
def dropClaimed (bid : Nat) (s : State) : State :=
  match s.bindOf bid with
  | none => s
  | some b =>
    let v := b.side
    let held := (v.yards.flatMap (·.2)).filter (fun i => i.claimed.isSome && i.live)
    let lost := held.filterMap YItem.flow? ++ b.outs.filterMap FlowOut.flow?
    let yards := (v.yards.map (fun e => (e.1, e.2.filter (fun i => i.claimed.isNone)))).filter (fun e => !e.2.isEmpty)
    let s := s.setBind bid (some { (b.putSide { v with yards := yards, threads := v.threads.map (fun e => (e.1, { e.2 with item := [] })) }) with order := [], outs := [] })
    forEach lost (fun e s => raiseMil 3 (dropFlow 48 e s)) s
/-- Queued items of the old side of a faulted binding are dropped (R301). -/
def dropOldYards (bid : Nat) (s : State) : State :=
  match s.bindOf bid with
  | none => s
  | some b =>
    let lost := (b.oldYards.flatMap (·.2)).filterMap (fun i => if i.live then i.flow? else none)
    forEach lost (fun e s => raiseMil 3 (dropFlow 48 e s)) (s.setBind bid (some { b with oldYards := [] }))
/-- A thread faults: the binding enters FAULTED and every thread of it stops. A fault during a handover lets the new binding take over at once (R309). -/
def millFault (code : Nat) (t : Th) (s : State) : State :=
  let bid := thBid t
  let s := if s.mil.fault == 0 then { s with
      mil.fault := BitVec.ofNat 32 (code * 2 ^ 28 + s.gcore t * 2 ^ 20 + t.th.val * 2 ^ 16 + bid),
      mil.faultPc := BitVec.ofNat 32 (s.thread t).pc }
    else s
  let s := raiseMil 0 s
  let s := dropClaimed bid (modSide bid (fun v => { v with threads := v.threads.map (fun e => (e.1, { e.2 with st := .stopped, waits := .none })) }) s)
  match s.bindOf bid with
  | none => s
  | some b =>
    if b.oldPlace.isSome then finishHandover bid (dropOldYards bid s)
    else settleEnding bid (s.setBind bid (some { b with st := .faulted }))

/-! ### Instruction words and issue (R285 to R287) -/

/-- The fields that an instruction uses: registers, FMT, and the bits of MOD and IMM. -/
structure Used where
  d : Bool := false
  s1 : Bool := false
  s2 : Bool := false
  s3 : Bool := false
  fmt : Bool := false
  mod : Nat := 0
  imm : Nat := 0
/-- Every unused field is 0. -/
def Used.holds (u : Used) (i : Ins) : Bool :=
  (u.d || i.d == 0) && (u.s1 || i.s1 == 0) && (u.s2 || i.s2 == 0) && (u.s3 || i.s3 == 0) && (u.fmt || i.fmt == 0)
    && Nat.land i.mod (255 - u.mod) == 0 && Nat.land i.imm (65535 - u.imm) == 0
/-- The opcodes of R286. -/
def knownOps : List Nat :=
  [0x00, 0x01, 0x02, 0x03, 0x04, 0x08, 0x09, 0x0A, 0x0B, 0x0C, 0x20, 0x21, 0x22, 0x30, 0x40, 0x41, 0x42, 0x43, 0x44,
   0x50, 0x60, 0x61, 0x70, 0x71, 0x80, 0x81, 0x90, 0x91, 0xA0, 0xA1, 0xA2, 0xA3]
/-! ### Whose turn it is (R279, R280) -/

/-- The thread has executed YIELD, and a thread that is to issue before it has not (R286). -/
def State.yields (s : State) (id : Nat) : Bool :=
  match s.side (id / 128) with
  | some v => (tget Thread.reset v.threads (id % 128)).owe.any s.idReady
  | none => false
/-- Opcodes of the sequencer's own; the others need the skidder, the vector unit or an engine, where a thread may wait (R280, R286). -/
def seqOps : List Nat := [0x00, 0x01, 0x02, 0x03, 0x04, 0x08, 0x09, 0x0A, 0x80, 0x81, 0x90, 0x91]
/-- Other threads may issue around a READY thread: it waits on a tile, after a YIELD, or on a unit that its instruction needs. -/
def State.passable (s : State) (id : Nat) : Bool :=
  s.tileWaits id || s.yields id || (match s.side (id / 128) with
    | some v => (match v.insAt s (tget Thread.reset v.threads (id % 128)).pc with
      | some (o, _) => knownOps.contains o && !seqOps.contains o
      | none => false)
    | none => false)
/-- The READY threads of a core whose turn comes before a thread's: round robin, starting after the thread that issued last. -/
def State.before (s : State) (g id : Nat) : List Nat :=
  let last := (s.coreOf g).lastIssue
  let turn := fun n => if last ≤ n then n - last else n + 2 ^ 19 - last
  (s.readyOn g).filter (fun n => decide (turn n < turn id))
/-- The thread issues now (R279 to R281): it is READY and resident, it waits on no tile and after no YIELD, and every thread whose turn comes before it lets others issue around it. -/
def State.canIssue (s : State) (t : Th) : Bool :=
  s.glb.state != .cordoned && (s.thread t).st == .ready && s.residentOn (thBid t) t.core.val
    && !s.yields (thId t) && !s.tileWaits (thId t) && (s.before (s.gcore t) (thId t)).all s.passable

/-- What an instruction's effect answers: the next word, another word, the same word again (the thread waits), or a fault. -/
inductive MRes where
  | ok (s : State)
  | jump (pc : Nat) (s : State)
  | again (s : State)
  | fault (code : Nat) (s : State)
/-- The first rule broken, if any. -/
def firstFault : List (Bool × Nat) → Option Nat
  | [] => none
  | (bad, code) :: r => if bad then some code else firstFault r
/-- Runs `f` unless a rule is broken. -/
def guarded (l : List (Bool × Nat)) (s : State) (f : MRes) : MRes :=
  match firstFault l with
  | some c => .fault c s
  | none => f
/-- A thread issues the instruction at its pc, where that is the command's: the word is checked, then `body` is its effect. A thread that may not issue, or that stands at another instruction, does nothing; a word that is no instruction, or that lies beyond the image, faults. -/
def runMill (t : Th) (op : Nat) (used : Ins → Used) (body : Ins → State → MRes) (s : State) : State :=
  match s.side (thBid t) with
  | none => s
  | some v =>
    if !s.canIssue t then s
    else
      let img := s.placeImage v.place
      let pc := (s.thread t).pc
      let w := u64At img (64 + 8 * pc)
      let o := fld w 56 8
      if imgCode img ≤ pc || !knownOps.contains o then millFault 1 t (noteIssue t s)
      else if o != op then s
      else
        let i := insOf w
        let s := noteIssue t s
        if !(used i).holds i then millFault 1 t s
        else
          match body i s with
          | .ok s => settleEnding (thBid t) (modThread t (fun h => { h with pc := pc + 1 }) s)
          | .jump n s => modThread t (fun h => { h with pc := n }) s
          | .again s => settleEnding (thBid t) s
          | .fault c s => millFault c t s
/-- The thread waits in YARD_WAIT; in an ending side a thread that finds nothing to claim in yard 0 stops. -/
def yardWait (t : Th) (w : Waits) (s : State) : State := modThread t (fun h => { h with st := .yardWait, waits := w }) s
/-- The thread is switched out until its access completes. -/
def switchOut (t : Th) (w : Waits) (s : State) : State := modThread t (fun h => { h with st := .switched, waits := w }) s
/-- SEGMENT, TREGS, WYARDS and CODE_WORDS of the image that the thread runs. -/
def State.imageOf (s : State) (t : Th) : List Byte :=
  match s.side (thBid t) with
  | some v => s.placeImage v.place
  | none => []
def State.dOf (s : State) (t : Th) : Nat := s.gcore t / 8

/-- A packet that keeps a thread SWITCHED still waits somewhere. -/
def State.outputWaits (s : State) (id : Nat) : Bool :=
  let mine := fun (p : Pkt) => p.thread == some id
  s.swc.prod.any (fun w => mine w.pkt) || s.swc.holds.any (fun e => e.2.any (fun h => mine h.pkt))
    || (match s.bindOf (id / 128) with
        | some b => b.outs.any (fun o => match o.pkt with | some p => mine p | none => false)
        | none => false)

/-! ### Scratch -/

def State.rdScratch (s : State) (t : Th) (off n : Nat) : List Byte :=
  match s.side (thBid t) with
  | some v => tgetL 0 v.scratch off n
  | none => zeros n
def wrScratch (t : Th) (off : Nat) (b : List Byte) (s : State) : State := modSide (thBid t) (fun v => { v with scratch := tsetL 0 v.scratch off b }) s
/-- The access leaves the binding's segment (R287). -/
def State.offScratch (s : State) (t : Th) (off n : Nat) : Bool := decide (imgSegment (s.imageOf t) < off + n)
def State.offPwin (s : State) (off n : Nat) : Bool := decide (s.mil.pwinSize.toNat < off + n)

/-! ### Tile registers (R283) -/

def tileKey (t : Th) (r : Nat) : Nat := 64 * t.core.val + r
def State.tile (s : State) (t : Th) (r : Nat) : Tile :=
  match s.side (thBid t) with
  | some v => tget Tile.zero v.tiles (tileKey t r)
  | none => Tile.zero
def setTile (t : Th) (r : Nat) (x : Tile) (s : State) : State := modSide (thBid t) (fun v => { v with tiles := tset Tile.zero v.tiles (tileKey t r) x }) s
def Tile.bytes (x : Tile) (off n : Nat) : List Byte := tgetL 0 x.data off n
def Tile.sides (x : Tile) (off n : Nat) : List Byte := tgetL 0 x.side off n
/-- A tile from its data and side bytes. -/
def mkTile (fmt : Nat) (tr : Bool) (data side : List Byte) : Tile := ⟨BitVec.ofNat 8 fmt, tr, tsetL 0 [] 0 data, tsetL 0 [] 0 side⟩
/-- Data bytes of a full tile. -/
def tileBytes (fmt : Nat) : Nat := 128 * elemBits fmt
/-- Side bytes of a full tile. -/
def sideBytes (fmt : Nat) : Nat := if isMX fmt then 32 else if fmt == 0x0C then 128 else 0
/-- The 1,024 values of a tile. -/
def Tile.vals (x : Tile) : List FV :=
  let f := x.fmt.toNat
  if f == 0x0C then
    let str := leNat (x.bytes 0 512)
    (List.range 1024).map (fun i =>
      let ix := packedAt str 4 i
      ffDecode fmtBF16 (u16At (x.sides (32 * (i / 256)) 32) (2 * ix)))
  else (decodeArr f 1024 (x.sides 0 (sideBytes f) ++ x.bytes 0 (tileBytes f)) (fun _ => none)).vals
/-- Scales of 0xFF that a read of the tile decodes (R269). -/
def Tile.exc (x : Tile) : Exc :=
  if isMX x.fmt.toNat then ⟨0, 0, 0, ((x.sides 0 32).filter (· == 0xFF)).length, 0⟩ else Exc.none
/-- A tile of a format other than CB4 from 1,024 values. -/
def tileOf (fmt : Nat) (tr : Bool) (rm : Nat → RMode) (v : List FV) : Tile × Exc :=
  let (b, e) := encodeArr fmt rm v
  let n := sideBytes fmt
  (mkTile fmt tr (b.drop n) (b.take n), e)
/-- A tile register number at or above TREGS (R287). -/
def State.badTile (s : State) (t : Th) (r : Nat) : Bool := decide (imgTregs (s.imageOf t) ≤ r)
/-- The array that tile registers hold, laid out as R265 lays out a format. -/
def tilesArray (fmt : Nat) (l : List Tile) : List Byte :=
  if isMX fmt then l.flatMap (fun x => x.sides 0 32) ++ l.flatMap (fun x => x.bytes 0 (tileBytes fmt))
  else if fmt == 0x0C then
    zeros 4 ++ l.flatMap (fun x => (List.range 4).flatMap (fun b => x.sides (32 * b) 32 ++ x.bytes (128 * b) 128))
  else l.flatMap (fun x => x.bytes 0 (tileBytes fmt))
/-- The rounding mode of RM, with SEED, P and I from X[S2] and X[S3] (R286). -/
def State.rmOf (s : State) (t : Th) (i : Ins) : Nat → RMode :=
  let rm := fld i.mod 4 2
  let seed := s.xr t i.s2 % 2 ^ 32
  let x3 := s.xr t i.s3
  fun k => modeOf rm seed (fld x3 0 16) (fld x3 16 32 + k)

/-! ### Units (R279) and Tally's top-down slots -/

def countSkid (t : Th) (bytes : Nat) (s : State) : State := countN (evNo 28 0x004 (s.gcore t)) (divUp bytes 256) s
/-- One tile on the vector unit: 1,024 elements at 256 a token. -/
def countVec (t : Th) (s : State) : State := countN (evNo 28 0x005 (s.gcore t)) 4 s
def exc (t : Th) (e : Exc) (s : State) : State := addExc (s.dOf t) e s

/-! ### Engines (R263, R306) -/

/-- Draws every element of a list, in an order that the drawing rule gives. -/
def drawAll {α : Type} (f : Nat → Nat) : Nat → List α → List α
  | 0, _ => []
  | fuel + 1, l =>
    let k := f fuel % l.length
    match l[k]? with
    | none => []
    | some x => x :: drawAll f fuel (l.eraseIdx k)
/-- One entry fewer for as many engines as are over, of those with most entries. -/
def trimOver : Nat → List Nat → List Nat
  | 0, l => l
  | n + 1, l =>
    let m := l.foldl max 0
    trimOver n (match findPos (· == m) l 0 with | some k => l.set k (m - 1) | none => l)
/-- Entries for each engine, in proportion to the operations completed: the whole part of its share, at least one where it completed any; what is left over goes one each to engines with a broken share, in the order given. -/
def shareCounts (ops order : List Nat) : List Nat :=
  let tot := sumOf ops
  let base := ops.map (fun n => if n == 0 then 0 else max 1 (64 * n / tot))
  let used := sumOf base
  if 64 < used then trimOver (used - 64) base
  else
    let broken := order.filter (fun k => let n := ops.getD k 0; decide (tot ≤ 64 * n) && 64 * n % tot != 0)
    let more := broken.take (64 - used)
    base.mapIdx (fun k n => n + b2n (more.contains k))
/-- The share table rebuilt (R306). Which engines the leftover entries go to and the order of the entries are not stated; nor is the table of a core on which no engine has completed an operation. -/
def rebuildShare (g : Nat) (s : State) : State :=
  let l := s.engines g
  let c := s.coreOf g
  let ops := l.map (fun e => tget 0 c.ops e)
  let free := Config.shareEntry l ops
  let counts := if ops.all (· == 0) then [] else shareCounts ops (drawAll (fun i => free (64 + i)) l.length (List.range l.length))
  let table := if counts.isEmpty then (List.range 64).map (fun i => l.getD (free i % max 1 l.length) 0)
    else drawAll free 64 ((List.zip l counts).flatMap (fun e => List.replicate e.2 e.1))
  s.modCore g (fun c => { c with
    share := if l.isEmpty then [] else table.zipIdx.map (fun e => (e.2, e.1 + 1)), ops := [] })
/-- A thread has executed STEP or BAR; with the last resident thread of its binding on the core, the step boundary has come. -/
def noteStep (t : Th) (s : State) : State :=
  let bid := thBid t
  let s := modThread t (fun h => { h with stepped := true }) s
  match s.side bid with
  | none => s
  | some v =>
    let mine := (List.range 16).map (fun i => tget Thread.reset v.threads (16 * t.core.val + i))
    if mine.all (fun h => h.st == .stopped || h.stepped) then
      rebuildShare (s.gcore t) (modSide bid (fun v => { v with threads := v.threads.map (fun e =>
        if e.1 / 16 == t.core.val then (e.1, { e.2 with stepped := false }) else e) }) s)
    else s

end Sys2Proof.Machine
end

