-- ==== Sys2Proof/Machine/Memory.lean ====
section
/-! DEFINITION. Job teardown (R323 to R326): START with its sweep of every place that holds packets of the job, the sweep's end, RELEASE and QUERY. -/
namespace Sys2Proof.Machine
open Sys2Proof

/-- MEM_TD_STAT.STATUS. -/
def tdStatus (st : Nat) (s : State) : State := { s with mem.status := BitVec.ofNat 8 st }
/-- A command through MEM_TD_CMD (R326). -/
def tdCommand (p : HPort) (job : BitVec 20) (f : State → State) (s : State) : State :=
  hostWrite p false (fun s =>
    if s.mem.busy then { s with mem.reject := true }
    else if s.glb.state.code < 4 then tdStatus 8 s
    else if job == 0 then tdStatus 1 s
    else f s) s

/-! ### The sweep (R323 step 3, R309) -/

/-- One packet of the job is discarded: counted for the SWEPT record, and its source gets its notice. -/
def tdDrop (p : Pkt) (s : State) : State :=
  tdNotice p { s with mem.sweep := s.mem.sweep.map (fun w => (w.1, w.2.1, w.2.2 + 1)) }
/-- The requests that combining entries of the job hold. -/
def State.combReqs (s : State) (job : BitVec 20) : List Pkt :=
  (s.mem.ents.filter (fun e => e.reqs.any (fun r => r.h.job == job))).flatMap (·.reqs)
/-- Every place that holds packets of the job is emptied of them. -/
def sweepJob (job : BitVec 20) (s : State) : State :=
  let bad := fun (p : Pkt) => p.h.job == job
  let s := forEach (s.combReqs job) tdNotice s
  let s := forEach (s.swc.q.map (·.1)) (purgeQueue bad (fun p port s => tdDrop p (discardQ 5 p port s))) s
  let s := forEach (s.swc.holds.map (·.1)) (purgeFifo (fun h => bad h.pkt) (fun h s => tdDrop h.pkt (discard 5 h.pkt (s.outPort h.dest h.pkt) s))) s
  let s := forEach (List.range 16) (purgeRo bad (fun p out s => tdDrop p (discard 5 p out s))) s
  let repl := s.swc.repl.filter (fun w => bad w.pkt)
  let s := forEach repl (fun w s => tdDrop w.pkt (discard 5 w.pkt none s)) { s with swc.repl := s.swc.repl.filter (fun w => !bad w.pkt) }
  let prod := s.swc.prod.filter (fun w => bad w.pkt && decide (w.pkt.inPort < 2048))
  let s := forEach prod (fun w s => tdDrop w.pkt (dropFlow 5 (w.pkt, w.hop) s))
    { s with swc.prod := s.swc.prod.filter (fun w => !(bad w.pkt && decide (w.pkt.inPort < 2048))) }
  let pool := s.lnd.pool.filter (fun u => bad u.pkt)
  let s := forEach pool (fun u s => tdDrop u.pkt (discard 5 u.pkt none s)) { s with lnd.pool := s.lnd.pool.filter (fun u => !bad u.pkt) }
  forEach (s.mil.binds.map (·.1)) (fun bid s =>
    purgeBinding bad (fun i => { i with flushed := true }) (fun e s => tdDrop e.1 (dropFlow 5 e s)) bid s) s
/-- Every fence of the job is disarmed with a FENCE_ABORT record (R254). -/
def abortFences (job : BitVec 20) (s : State) : State :=
  let mine := s.lnd.fences.filter (fun f => f.job == job)
  forEach mine (fenceRecord 6) { s with lnd.fences := s.lnd.fences.filter (fun f => f.job != job) }

/-! ### The commands -/

def State.tdJob (s : State) (job : BitVec 20) : Option TdJob := s.mem.jobs.find? (fun j => j.job == job)
def setTeardown (job : BitVec 20) (b : Bool) (s : State) : State :=
  { s with fwd.job := tmod JobEnt.zero s.fwd.job job.toNat (fun e => { e with teardown := b }) }
def startTeardown (job : BitVec 20) (s : State) : State :=
  if s.mem.sweep.isSome then tdStatus 7 s
  else if !(tget JobEnt.zero s.fwd.job job.toNat).valid then tdStatus 2 s
  else if (s.tdJob job).isSome then tdStatus 3 s
  else
    let s := setTeardown job true s
    let s := { s with mem.sweep := some (job, s.clk, 0), mem.jobs := s.mem.jobs ++ [⟨job, false, 0⟩] }
    tdStatus 0 (sweepJob job (abortFences job s))
def execTeardownStart (p : HPort) (job : BitVec 20) (s : State) : Out := .next (tdCommand p job (startTeardown job) s)
/-- The sweep ends: whatever has come to hold a packet of the job since START is swept too, then the SWEPT record. -/
def endSweep (s : State) : State :=
  match s.mem.sweep with
  | none => s
  | some (job, _, _) =>
    let s := sweepJob job s
    let n := (s.mem.sweep.map (fun w => w.2.2)).getD 0
    let notices := ((s.tdJob job).map (·.notices)).getD 0
    let s := { s with mem.sweep := none, mem.jobs := s.mem.jobs.map (fun j => if j.job == job then { j with swept := true } else j) }
    raiseMem 1 (memRecord ([2 * 2 ^ 24 + job.toNat, 0, 0, 0, n % 2 ^ 32, notices % 2 ^ 32] ++ timeWords s.now) s).1
def execTeardownSweepEnd (dt : Nat) (s : State) : Out := .next (endSweep (elapse dt s))
def releaseJob (job : BitVec 20) (s : State) : State :=
  match s.tdJob job with
  | none => tdStatus 4 s
  | some j =>
    if !j.swept then tdStatus 5 s
    else if s.lnd.ctxs.any (fun e => match e.2 with | some c => c.d.job == job | none => false) then tdStatus 6 s
    else
      let told := (s.mem.notices.filter (fun e => e.1 == job)).reverse
      let s := setTeardown job false { s with
        mem.jobs := s.mem.jobs.filter (fun j => j.job != job),
        mem.notices := s.mem.notices.filter (fun e => e.1 != job) }
      let s := forEach told (fun e s => sendControl 0 e.2 3 0 0 job.toNat 0 s) s
      tdStatus 0 (memRecord ([3 * 2 ^ 24 + job.toNat, 0, 0, 0, 0, 0] ++ timeWords s.now) s).1
def execTeardownRelease (p : HPort) (job : BitVec 20) (s : State) : Out := .next (tdCommand p job (releaseJob job) s)
def queryTeardown (job : BitVec 20) (s : State) : State :=
  let j := s.tdJob job
  tdStatus 0 { s with
    mem.infoTd := j.isSome, mem.infoSwept := (j.map (·.swept)).getD false,
    mem.infoNotices := BitVec.ofNat 16 (sat 0xFFFF ((j.map (·.notices)).getD 0)) }
def execTeardownQuery (p : HPort) (job : BitVec 20) (s : State) : Out := .next (tdCommand p job (queryTeardown job) s)

end Sys2Proof.Machine
end

