-- ==== Sys2Proof/Machine/OptOps.lean ====
section
/-! DEFINITION. The optical engines' shared operations (R327 to R349): commands to an engine, optical records of the calibration store, sweeps, and the end of a flyover. -/
namespace Sys2Proof.Machine
open Sys2Proof

/-! ### The calibration store's optical records (R125, R126, R349) -/

/-- The store is valid: MAGIC, VERSION and CRC check (R126). -/
def calValid (b : List Byte) : Bool :=
  u32At b 0 == 0x43414C53 && u16At b 4 == 1 && u32At b 60 == crc32c (b.drop 64)
/-- The record of a path, where the store and the record are valid. -/
def State.optRec (s : State) (p : Nat) : Option (List Byte) :=
  let b := s.nv.cal
  let r := slice b (u32At b 28 + 24 * p) 24
  if calValid b && bitAt (u8At r 16) 0 then some r else none

/-! ### Commands to an engine (R329, R331) -/

/-- The service lane that carries an engine's messages: the other of the pair while one is not aligned (R119, R124). -/
def State.engLane (s : State) (e : Nat) : Nat :=
  if (s.svcLane (16 + 2 * e)).st == .aligned || (s.svcLane (17 + 2 * e)).st != .aligned then 16 + 2 * e else 17 + 2 * e
def sendEngRaw (e type : Nat) (seq : Byte) (payload : List Byte) (s : State) : State :=
  sendMsg (s.engLane e) (BitVec.ofNat 8 type) seq payload false s
/-- Sends a command, to be repeated until it is acknowledged. -/
def sendEng (e type : Nat) (payload : List Byte) (fly : Option Nat) (s : State) : State :=
  let g := s.engine e
  let s := sendEngRaw e type g.seq payload s
  s.modEngine e (fun g => { g with seq := g.seq + 1, cmds := g.cmds ++ [⟨g.seq, BitVec.ofNat 8 type, payload, 1, s.clk, fly⟩] })
/-- LOOP: element 0 laser, 1 modulator ring, 2 drop ring; action 0 off, 1 sweep, 2 hold, 3 track, 4 mute, 5 resume. -/
def sendLoop (p element action : Nat) (fly : Option Nat) (s : State) : State :=
  sendEng (p / 64) 0x83 (toLE 1 (p % 64) ++ toLE 1 element ++ toLE 1 action ++ zeros 5) fly s
/-- XC_SET: a crossing connected (1) or released (0). -/
def sendXc (from_ to_ action num : Nat) (s : State) : State :=
  sendEng (from_ / 64) 0x86 (toLE 1 (from_ % 64) ++ toLE 1 (to_ % 64) ++ toLE 1 action ++ toLE 1 num ++ zeros 4) (some num) s
/-- PATH_SET: the path's identity and start values; the laser's bias and tuning are in use from then on. -/
def pathSet (p txheat rxheat lbias ltune : Nat) (s : State) : State :=
  let o := s.optLane ((s.laneOfPath p).getD 0)
  let s := s.modPath p (fun v => { v with lbias := BitVec.ofNat 16 lbias, ltune := BitVec.ofNat 16 ltune })
  sendEng (p / 64) 0x82 (toLE 1 (p % 64) ++ toLE 1 o.pilot.toNat ++ toLE 2 o.txId.toNat ++ toLE 2 txheat ++ toLE 2 rxheat
    ++ toLE 2 lbias ++ toLE 2 ltune) none s
/-- PATH_SET with the start values of the calibration store, or the engine's own defaults (R332). -/
def sendPathSet (p : Nat) (s : State) : State :=
  match s.laneOfPath p with
  | none => s
  | some _ =>
    let r := s.optRec p
    let w := fun off d => match r with | some b => u16At b off | none => d
    pathSet p (w 0 0) (w 2 0) (w 4 (Config.engLbias p).toNat) (w 6 (Config.engLtune p).toNat) s
/-- A ring sweeps from its start; the drop ring only while there is light, else it waits, and before any reading of RXIN until the first (R334). -/
def sweepTx (p : Nat) (s : State) : State :=
  let s := sendLoop p 1 1 none s
  s.modPath p (fun o => { o with txst := .sweep, txMatch := s.clk })
def State.lit (s : State) (p : Nat) : Bool :=
  let r := (s.path p).rxin
  r != 0x8000 && decide (signed 16 s.opt.floor.toNat < signed 16 r.toNat)
def sweepRx (p : Nat) (s : State) : State :=
  if (s.path p).rxin == 0x8000 then s.modPath p (fun o => { o with rxst := .sweep, dark := none, unread := true })
  else if s.lit p then
    let s := sendLoop p 2 1 none s
    s.modPath p (fun o => { o with rxst := .sweep, rxMatch := s.clk, dark := none, unread := false })
  else s.modPath p (fun o => { o with rxst := .sweep, dark := some s.clk, unread := false })
/-- Both rings of a path sweep; those of a LOST engine stay mislocked until its STATUS returns (R331). -/
def sweepBoth (p : Nat) (s : State) : State :=
  if (s.engine (p / 64)).st == .lost then s.modPath p (fun o => { o with txst := .mislock, rxst := .mislock })
  else sweepRx p (sweepTx p s)

/-! ### A lane that rejoins its port (R92, R115, R338) -/

/-- Block lock is held (R104). -/
def Lane.hasLock (v : Lane) : Bool := decide (64 ≤ v.run)
/-- Whether the rings of a lane are LOCKED; a lane without optics has none (R334). -/
def State.ringsLocked (s : State) (l : Nat) : Bool :=
  match s.pathOf l with
  | some q => (s.path q).txst == .locked && (s.path q).rxst == .locked
  | none => true
/-- The lane or its wavelength has been taken out of service by its score, or is under test. -/
def Part.outOfService (x : Part) : Bool := x.st == .drained || x.st == .testing || x.st == .replaced
def State.lanePartOut (s : State) (l : Nat) : Bool :=
  (s.partOf 0 l).outOfService || (match s.pathOf l with | some q => (s.partOf 3 q).outOfService | none => false)
/-- Nothing keeps a lane that is out of use from rejoining its port. -/
def State.mayRejoin (s : State) (l : Nat) : Bool :=
  let v := s.lane l
  v.st == .out && !v.parked && v.recal != .running && s.ringsLocked l
    && !s.lanePartOut l
    && (match s.pathOf l with
        | some q => (s.path q).fly == none && (s.path q).calres != .running
        | none => true)
/-- The receiver of a lane that holds block lock asks for it back with LANE_CTL ON. -/
def rejoin (l : Nat) (s : State) : State :=
  match s.portOfLane l with
  | none => s
  | some p =>
    let pending := (s.link p).laneCtl.any (fun c => (s.link p).laneFor c.idx.toNat == l - p)
    if s.up p && s.mayRejoin l && (s.lane l).hasLock && !(s.link p).rxact.getLsbD (l - p) && !pending then rxLaneOn p (l - p) s else s

/-! ### Flyovers (R342 to R347) -/

/-- FLY_PREP, FLY_ON or FLY_OFF to both partners (R76). -/
def flyNotice (opcode num instant : Nat) (s : State) : State :=
  let f := s.flyOf num
  let one := fun (lane : BitVec 11) (eid : Word) (s : State) =>
    sendControl (districtOf lane.toNat) eid opcode num 0 0 instant s
  one f.laneB f.eidB (one f.laneA f.eidA s)
/-- The paths of a flyover's lanes. -/
def State.flyPaths (s : State) (num : Nat) : Nat × Nat :=
  let f := s.flyOf num
  ((s.pathOf f.laneA.toNat).getD 0, (s.pathOf f.laneB.toNat).getD 0)
/-- Both crossings are released, the lasers come back and modulation resumes (R346). -/
def flyRelease (num : Nat) (s : State) : State :=
  let (a, b) := s.flyPaths num
  let s := sendXc b a 0 num (sendXc a b 0 num s)
  let back := fun (p : Nat) (s : State) =>
    let s := sendLoop p 1 5 (some num) (sendLoop p 0 3 (some num) s)
    s.modPath p (fun o => { o with txst := .locked, rxst := .locked, fly := none, txMatch := s.clk, rxMatch := s.clk })
  back b (back a s)
/-- A lane of a flyover is in use by its port again, in both directions; or it stays out of use until its port trains again, or its port is not up. -/
def State.laneBack (s : State) (l : Nat) : Bool :=
  match s.portOfLane l with
  | none => true
  | some p => !s.up p || (s.lane l).st == .retired || (s.lane l).parked || s.lanePartOut l || ((s.link p).rxact.getLsbD (l - p) && (s.link p).txact.getLsbD (l - p))
/-- RETURNING ends once both lanes have rejoined their ports. -/
def settleFlys (s : State) : State :=
  forEach (s.opt.fly.filter (fun e => e.2.st == .returning)) (fun e s =>
    if s.laneBack e.2.laneA.toNat && s.laneBack e.2.laneB.toNat then s.modFly e.1 (fun f => { f with st := .free }) else s) s
/-- The lanes rejoin by R92: a receiver that holds block lock asks at once, another once it has regained it. -/
def flyLanesBack (num : Nat) (s : State) : State :=
  let f := s.flyOf num
  rejoin f.laneB.toNat (rejoin f.laneA.toNat s)
/-- The lane is in a flyover, from its acceptance until FREE (R348). -/
def State.inFly (s : State) (l : Nat) : Bool :=
  s.opt.fly.any (fun f => f.2.st != .free && (f.2.laneA.toNat == l || f.2.laneB.toNat == l))
/-- Both OFF_ACKs have come and both partners' OFFs are answered: the lasers are muted and the crossings asked for (R344 step 4). -/
def flyCross (num : Nat) (s : State) : State :=
  let f := s.flyOf num
  let (a, b) := s.flyPaths num
  if f.st == .switching && f.ackA && f.ackB && f.poffA && f.poffB && (s.path a).txst != .fly then
    let s := sendLoop b 0 0 (some num) (sendLoop a 0 0 (some num) s)
    let s := sendXc b a 1 num (sendXc a b 1 num s)
    let put := fun (p : Nat) (s : State) => s.modPath p (fun o => { o with txst := .fly, rxst := .fly, fly := some (BitVec.ofNat 8 num), txMatch := s.clk })
    put b (put a s)
  else s
/-- A flyover ends at once, with its REASON (ENGINE where the engine cannot be commanded): FLY_OFF with instant 0, and the way back (R344, R347). -/
def flyEnd (num reason : Nat) (down : Bool) (s : State) : State :=
  let f := s.flyOf num
  if f.st == .free || f.st == .returning then s
  else
    let s := flyNotice 0x12 num 0 s
    let lost := (s.engine ((s.flyPaths num).1 / 64)).st == .lost
    let s := s.modFly num (fun f => { f with reason := BitVec.ofNat 4 (if lost then 7 else reason) })
    let s := if f.st == .prep then s.modFly num (fun f => { f with st := .free })
      else
        let s := if f.st == .switching && (s.path (s.flyPaths num).1).txst != .fly then
            let (a, b) := s.flyPaths num
            (s.modPath a (fun o => { o with fly := none })).modPath b (fun o => { o with fly := none })
          else flyRelease num s
        settleFlys (flyLanesBack num (s.modFly num (fun f => { f with st := .returning })))
    if down then raiseOpt 3 s else s
/-- Every flyover that a condition names ends with a REASON. -/
def flyEndAll (sel : Fly → Bool) (reason : Nat) (s : State) : State :=
  forEach ((s.opt.fly.filter (fun e => e.2.st != .free && sel e.2)).map (·.1)) (fun n s => flyEnd n reason true s) s
/-- The flyovers with a lane of a port. -/
def Fly.onPort (s : State) (port : Nat) (f : Fly) : Bool :=
  s.portOfLane f.laneA.toNat == some port || s.portOfLane f.laneB.toNat == some port

end Sys2Proof.Machine
end

