-- ==== Sys2Proof/Machine/Cordon.lean ====
section
/-! DEFINITION. Self-cordon (R355), the lease commands and the lease's end (R351 to R353, R358), and the device states that a host asks for (R22 to R25). -/
namespace Sys2Proof.Machine
open Sys2Proof

/-! ### Self-cordon -/

/-- Step 3 of R355: every fence is disarmed with a FENCE_ABORT record that holds its values at t0. -/
def abortAllFences (s : State) : State :=
  let s := forEach s.lnd.fences (fenceRecord 6) s
  { s with lnd.fences := [], lnd.marks := [] }
/-- Steps 2 and 3: the flow items in yards, and every packet that the device holds anywhere, are discarded. -/
def dropAll (s : State) : State :=
  let every := fun (_ : Pkt) => true
  let s := forEach (s.mil.binds.map (·.1)) (purgeBinding every (fun i => { i with flushed := true }) (dropFlow 24)) s
  let s := forEach (s.swc.q.map (·.1)) (purgeQueue every (fun p port s => discardQ 24 p port s)) s
  let s := forEach (s.swc.holds.map (·.1)) (purgeFifo (fun _ => true) (fun h s => discard 24 h.pkt (s.outPort h.dest h.pkt) s)) s
  let s := forEach (List.range 16) (purgeRo every (fun p out s => discard 24 p out s)) s
  let repl := s.swc.repl
  let s := forEach repl (fun w s => discard 24 w.pkt none s) { s with swc.repl := [] }
  let prod := s.swc.prod
  let s := forEach prod (fun w s => discard 24 w.pkt (s.flowPort (w.pkt, w.hop)) s) { s with swc.prod := [] }
  let pool := s.lnd.pool
  let s := forEach pool (fun u s => discard 24 u.pkt none s) { s with lnd.pool := [] }
  { s with mem.ents := [] }
/-- A district re-plat in DRAINING ends with code CORDONED and the district keeps its old structure; later it goes on (R65). -/
def cordonReplat (s : State) : State :=
  match s.plt.op with
  | some (d, _) =>
    if s.dist d == .draining then
      fire 1 { (s.setDist d .inService) with plt.op := none, plt.code := 0x17, plt.sect := 0, plt.errOff := 0, plt.busy := false }
    else s
  | none => s
/-- A test ends: RES_CRUISE_EVENT.TESTDONE, and source 10 fires (R394). -/
def endTest (s : State) : State := fire 10 { s with res.cruiseEvent := setBit s.res.cruiseEvent 4 true }
/-- The full self-test is aborted (R370). -/
def abortSelfTest (s : State) : State :=
  if s.res.testBusy then endTest { s with res.testBusy := false, res.testResult := 4, res.testStatus := 0x0D } else s
/-- The lease ends, a drain is abandoned, and RES_CORDON and RES_CORDON_T take the cause and the time. -/
def cordonRecord (cause : Nat) (s : State) : State :=
  let r := { s.res with
    lease := none, cause := BitVec.ofNat 4 cause, done := false,
    count := BitVec.ofNat 16 (sat 0xFFFF (s.res.count.toNat + 1)), cordonT := BitVec.ofNat 64 s.now }
  { s with glb.draining := false, res := r }
/-- Self-cordon, with its cause: 1 EXPIRED, 2 RELEASED, 3 ALARM_A1, 4 ALARM_A2 (R355). It ends the lease and abandons a drain (R25). -/
def selfCordon (cause : Nat) (s : State) : State :=
  if s.glb.state != .inService && s.glb.state != .quiesced then s
  else
    let s := abortSelfTest (cordonReplat (setDev .cordoned (cordonRecord cause s)))
    let s := dropAll (abortAllFences s)
    fire 10 { (flyEndAll (fun _ => true) 6 s) with res.done := true }
/-- The lease has reached one of its two limits (R353). -/
def State.leaseOver (s : State) : Bool :=
  match s.res.lease with
  | some (dl, timer) => decide (dl ≤ s.now) || decide (timer ≤ s.clk)
  | none => true
/-- A lease that has run out ends at once. -/
def checkLease (s : State) : State := if s.leaseOver then selfCordon 1 s else s
def execLeaseExpiry (dt : Nat) (s : State) : Out := .next (checkLease (elapse dt s))

/-! ### Lease commands (R352) -/

def leaseStatus (st : Nat) (s : State) : State := { s with res.leaseStatus := BitVec.ofNat 8 st }
/-- A write to RES_LEASE_CMD. A lease that has run out has ended before it. -/
def leaseCommand (p : HPort) (f : State → State) (s : State) : State :=
  hostWrite p false (fun s => if s.res.leaseBusy then { s with res.leaseReject := true } else f (checkLease s)) s
/-- The deadline check of GRANT and RENEW: LATE, TOO_LONG, or none. -/
def deadlineStatus (s : State) : Nat :=
  if s.res.dl.toNat ≤ s.now then 4 else if s.now + 120000000 < s.res.dl.toNat then 5 else 0
/-- The lease that an acceptance now sets: its DEADLINE limit and its lease-timer limit. -/
def State.newLease (s : State) : Nat × Nat := (s.res.dl.toNat, s.clk + 120000000)
/-- Time left of a lease. -/
def State.leaseTime (s : State) (l : Nat × Nat) : Nat := min (l.1 - s.now) (l.2 - s.clk)
def setLease (l : Nat × Nat) (s : State) : State := { s with res.lease := some l, res.leaseEnd := BitVec.ofNat 64 l.1 }
/-- R358: before READY, the contexts go, tombstoned and without records, the pool is emptied, and TEARDOWN is cleared where a sweep has ended. -/
def clearJobs (s : State) : State :=
  let s := forEach (s.lnd.ctxs.map (·.1)) removeCtx s
  let s := { s with lnd.pool := [], lnd.held := [] }
  let ended := s.mem.jobs.filter (·.swept)
  let s := forEach ended (fun j => setTeardown j.job false) s
  { s with mem.jobs := s.mem.jobs.filter (fun j => !j.swept), mem.notices := s.mem.notices.filter (fun n => !ended.any (fun j => j.job == n.1)) }
/-- Parts restored at boot with a score below DRAIN are drained once the device is IN_SERVICE (R365). -/
def drainRestored (s : State) : State :=
  forEach (s.res.parts.map (·.1)) (fun k s =>
    let p := s.partOf (k / 4096) (k % 4096)
    if (p.st == .inService || p.st == .watch) && decide (s.score (k / 4096) (k % 4096) < s.drainAt (k / 4096)) then drainPart (k / 4096) (k % 4096) s
    else s) s
def execLeaseGrant (p : HPort) (s : State) : Out :=
  .next (leaseCommand p (fun s =>
    let late := deadlineStatus s
    if s.glb.state != .ready && !(s.glb.state == .cordoned && s.res.done) then leaseStatus 2 s
    else if s.res.epoch.toNat ≤ s.res.cur.toNat then leaseStatus 3 s
    else if late != 0 then leaseStatus late s
    else
      let l := s.newLease
      let s := leaseStatus 0 { s with res.cur := s.res.epoch }
      let s := if s.glb.state == .cordoned then setDev .ready (clearJobs s) else s
      drainRestored (setDev .inService (setLease l s))) s)
def execLeaseRenew (p : HPort) (s : State) : Out :=
  .next (leaseCommand p (fun s =>
    let late := deadlineStatus s
    if s.glb.state != .inService && s.glb.state != .quiesced then leaseStatus 2 s
    else if s.res.epoch != s.res.cur then leaseStatus 3 s
    else if late != 0 then leaseStatus late s
    else
      let old := s.res.lease.getD (0, 0)
      leaseStatus 0 (if s.leaseTime old < s.leaseTime s.newLease then setLease s.newLease s else s)) s)
def execLeaseRelease (p : HPort) (s : State) : Out :=
  .next (leaseCommand p (fun s =>
    if s.glb.state != .inService && s.glb.state != .quiesced then leaseStatus 2 s
    else if s.res.epoch != s.res.cur then leaseStatus 3 s
    else selfCordon 2 (leaseStatus 0 s)) s)

/-! ### QUIESCE, RESUME and TRAINING (R22 to R24) -/

/-- The reorder contexts of a district release everything they hold, in SEQ order and skipping gaps. -/
def flushReorder (d : Nat) (s : State) : State :=
  let l := (s.ro d).map roFlush
  applyRo (l.flatMap (·.2)) (setRo d (l.map (·.1)) s)
def execQuiesce (p : HPort) (s : State) : Out :=
  .next (hostWrite p true (fun s =>
    if s.glb.state != .inService then setReqErr s
    else if s.glb.draining then s
    else forEach (List.range 16) flushReorder { s with glb.draining := true }) s)
/-- Every output queue of TC1 to TC6 is empty. -/
def State.jobQueuesEmpty (s : State) : Bool :=
  s.swc.q.all (fun e => e.1 % 8 == 0 || e.1 % 8 == 7 || e.2.items.isEmpty)
/-- Context timers hold the time they have run (R240), or go on from it. -/
def holdTimers (s : State) : State :=
  { s with lnd.ctxs := s.lnd.ctxs.map (fun e => (e.1, e.2.map (fun c => { c with timer := c.timer.map (fun t => s.clk - t) }))) }
def execQuiesceDrainDone (s : State) : Out :=
  .next (
    if s.glb.state == .inService && s.glb.draining && s.jobQueuesEmpty then
      flyEndAll (fun _ => true) 6 (setDev .quiesced (holdTimers { s with glb.draining := false }))
    else s)
def execResume (p : HPort) (s : State) : Out :=
  .next (hostWrite p true (fun s =>
    let s := checkLease s
    if s.glb.state == .quiesced then setDev .inService (holdTimers s) else setReqErr s) s)
def execClrmin (p : HPort) (s : State) : Out :=
  .next (hostWrite p true (fun s => { s with
    glb.tokMin := 0xFFFF, glb.dtokMin := [] }) s)
/-- A port's training has ended: it is up, or it failed and is down, or it is disabled. -/
def State.portTrained (s : State) (p : Nat) : Bool :=
  let l := s.link p
  l.isUp || (l.st == .down && (l.tstat != 0 || l.disable))
def execTrainingComplete (s : State) : Out :=
  .next (
    if s.glb.state == .training && s.ports.all s.portTrained && (!s.inBlock || s.tmb.blk == .joined || s.tmb.blk == .broken)
    then setDev .ready s else s)
/-- Each district's replica path measures its token rate; the slowest is the device's (R19, R20), and MIL_CAP follows it (R278). -/
def takeRates (rates : List Half) (s : State) : State :=
  let now := fun n => rates.getD n 0
  let low := fun (a b : Half) => if a.toNat < b.toNat then a else b
  let slow := (List.range 16).foldl (fun m n => low m (now n)) (now 0)
  { s with
    mil.fp4now := BitVec.ofNat 32 (s.enginesNow * 16384 * slow.toNat / 10 ^ 6),
    glb.tokNow := slow, glb.tokMin := low slow s.glb.tokMin,
    glb.dtokNow := (List.range 16).foldl (fun t n => tset 0 t n (now n)) s.glb.dtokNow,
    glb.dtokMin := (List.range 16).foldl (fun t n => tset 0xFFFF t n (low (now n) (tget 0xFFFF t n))) s.glb.dtokMin }
def execTokrateUpdate (dt : Nat) (rates : List Half) (s : State) : Out := .next (takeRates rates (elapse dt s))

end Sys2Proof.Machine
end

