-- ==== Sys2Proof/Machine/LinkOps.lean ====
section
/-! DEFINITION. What a port does as it goes down and comes up: the moves of a bundle port that is lost (R172), losses at retrain (R96), training records (R88 to R91), framing, replay, and the byte stream of packets (R78 to R87). -/
namespace Sys2Proof.Machine
open Sys2Proof

/-! ### A bundle port leaves UP and DEGRADED (R172, R325) -/

/-- One walk over a queue: what stays, the ports that have received a packet so far, whether a packet has stayed. -/
structure Move where
  stay : List QItem
  took : List Nat
  kept : Bool
/-- The ports of a bundle that a packet moved from one of them is tried on, in order: the one that its flow would now take, then the rest (R172; log entry 93). -/
def moveTargets (s : State) (b port : Nat) (p : Pkt) : List Nat :=
  let first := (chosenPort s (s.spoint p) (.bundle b) p.h).toList
  (first ++ (s.bundleUp b).filter (fun q => !first.contains q)).filter (fun q => q != port)
/-- A packet item goes to the first of those ports whose queue has room; open entries that wait there take note of it (R314, R317). -/
def moveItem (b port tc : Nat) (it : QItem) (m : Move) (s : State) : Move × State :=
  let keep := ({ m with stay := m.stay ++ [it], kept := true }, s)
  match it with
  | .marker ids =>
    let s := forEach m.took (fun q s => pushMarker q tc ids s) s
    if m.kept then ({ m with stay := m.stay ++ [it] }, s) else (m, consumeMarker ids s)
  | _ =>
    match it.pkt? with
    | none => keep
    | some p =>
      match (moveTargets s b port p).find? (fun q => s.roomFor q tc it.cells) with
      | none => keep
      | some q =>
        let s := noteWrite q p s
        let s := match it with
          | .comb _ id => modComb id (fun e => { e with queue := queueKey q tc }) s
          | _ => s
        ({ m with took := if m.took.contains q then m.took else m.took ++ [q] }, pushItem q tc it s)
def moveItems (b port tc : Nat) : List QItem → Move → State → Move × State
  | [], m, s => (m, s)
  | it :: r, m, s =>
    let (m, s) := moveItem b port tc it m s
    moveItems b port tc r m s
/-- The tags of a queue of a port that goes down: every F_q is 0, and so is the start of the packet at its head (R168). -/
def freshTags (port tc : Nat) (s : State) : State := s.modQueue (queueKey port tc) (fun q => { q with f := 0, headS := 0 })
/-- Every combining entry of a bundle's port closes, and its packets move to the bundle's other ports as their limits allow. -/
def bundleDown (port : Nat) (s : State) : State :=
  let b := s.bundle port
  if b == 0 then s
  else
    let s := forEach ((s.mem.ents.filter (fun e => !e.closed && e.queue == queueKey port 4)).map (·.id)) closeComb s
    if (s.bundleUp b).isEmpty then s
    else
      forEach (List.range 8) (fun tc s =>
        let key := queueKey port tc
        let items := (s.queue key).items
        if items.isEmpty then s
        else
          let s := s.modQueue key (fun q => { q with items := [] })
          let (m, s) := moveItems b port tc items ⟨[], [], false⟩ s
          consumeFront key (s.modQueue key (fun q => { q with items := m.stay }))) s

/-! ### Down (R88, R96, R98, R111) -/

/-- A recalibration in progress on a lane ends as ABORTED (R116). -/
def abortRecal (l : Nat) (s : State) : State :=
  s.modLane l (fun v => if v.recal == .running then { v with recal := .aborted } else v)
/-- The lanes of a port. -/
def State.lanesOf (s : State) (p : Nat) : List Nat := rangeFrom p (s.width p)
/-- A lane of a port that goes down: idle, out of use; what a recalibration or an optical calibration was doing ends. -/
def laneDown (l : Nat) (s : State) : State :=
  let s := txIdle l (abortRecal l s)
  let s := s.modLane l (fun v => { v with
    st := if v.st == .retired then .retired else .idle, done := false, pDone := false, applied := false, parked := false, awaiting := false, exit := none })
  match s.pathOf l with
  | some p => s.modPath p (fun o => if o.calres == .running then { o with calres := .aborted } else o)
  | none => s
/-- The packet that a port has half received, where its header is whole; of its payload, what has come. -/
def halfPacket (p : Nat) (s : State) : Option Pkt :=
  let b := (s.link p).rxStream
  if (s.link p).skip then none
  else if s.isC2 p then
    if b.length < 24 then none
    else
      let (h, payload) := translate2 b (b.drop 24)
      some { h := h, payload := payload, tin := s.now, inPort := p, c2 := true, counted := false }
  else if b.length < 32 then none
  else some { h := hdrOf b, payload := b.drop 32, tin := s.now, inPort := p, c2 := false, counted := false }
/-- The port returns to DOWN with a TSTAT, to train again after `wait` ns. Unacknowledged frames, packets not yet framed and a packet half received are LOST. -/
def portDown (p tstat wait : Nat) (s : State) : State :=
  let l := s.link p
  let was := l.isUp
  let half := !l.rxStream.isEmpty && !l.skip
  let lost := half || !l.unacked.isEmpty || !l.txPkts.isEmpty || !l.txRest.isEmpty
  let n := b2n half + l.unacked.length + l.txPkts.length
  let s := if n == 0 then s else countN (evNo 0 (0x100 + 28) p) n s
  let s := forEach (halfPacket p s).toList (fun k s => capture .discard 28 k none s) s
  let s := forEach l.txPkts (fun e s => capture .discard 28 e.1 (some p) s) s
  let s := s.setLink p { Link.reset with
    tstat := BitVec.ofNat 8 tstat, disable := l.disable, pVermax := l.pVermax, pVermin := l.pVermin, pCaps := l.pCaps,
    pNode := l.pNode, pWidth := l.pWidth, pPort := l.pPort, pid := l.pid, rtt := l.rtt, retired := l.retired,
    err := if lost then setBit l.err 7 true else l.err, since := s.clk, wait := wait, pRetry := l.pRetry }
  let s := forEach (s.lanesOf p) laneDown s
  let s := s.modSched p (fun c => { c with vS := 0, vU := 0, g := 0, gAt := s.clk })
  let s := if l.st == .down then s else fire 15 s
  let s := if was then bundleDown p s else s
  let s := forEach (List.range 8) (freshTags p) s
  settleFlys (if was then flyEndAll (Fly.onPort s p) 5 s else s)
/-- The wait before training starts again (R88). -/
def waitFor (tstat : Nat) : Nat := if tstat == 6 || tstat == 7 || tstat == 8 || tstat == 10 then 10 ^ 9 else 10 ^ 8
/-- A retrain: DOWN, then training after the interval of R88. -/
def retrain (p tstat : Nat) (s : State) : State := portDown p tstat (waitFor tstat) s

/-! ### Training (R88 to R90, R107, R126) -/

/-- The lane's record in the calibration store, where both are valid (R125, R126). -/
def State.laneRec (s : State) (l : Nat) : Option (List Byte) :=
  let b := s.nv.cal
  let r := slice b (u32At b 24 + 16 * l) 16
  if calValid b && bitAt (u8At r 1) 0 then some r else none
/-- The start point of a lane's transmit taps and CTLE: the store's, or the built-in values (R106). -/
def State.startTaps (s : State) (l : Nat) : Taps × Byte :=
  match s.laneRec l with
  | some r => (⟨BitVec.ofNat 8 (u8At r 5), BitVec.ofNat 8 (u8At r 4), BitVec.ofNat 8 (u8At r 3), BitVec.ofNat 8 (u8At r 2)⟩, BitVec.ofNat 8 (u8At r 0))
  | none => (Taps.builtin, 16)
/-- A lane's transmitter leaves idle with a training burst (R113). -/
def txOn (l : Nat) (s : State) : State :=
  if (s.lane l).txIdle then emit (.burst l trainingBurst) (s.modLane l (fun v => { v with txIdle := false })) else s
/-- Tuning begins afresh at an instant, from the taps in force: they are the start point (R107). -/
def Lane.tuneAfresh (v : Lane) (t : Nat) : Lane :=
  { v with start := v.taps, tuneAt := t, done := false, pDone := false, applied := false, req := 0, awaiting := false, corrSum := 0, corrN := 0, lastRate := none, fails := 0 }
/-- A pass begins: the receiver adapts from its present values, re-locks at its present boundary and tunes the partner's taps again (R115). -/
def startRecal (l : Nat) (s : State) : State :=
  s.modLane l (fun v => { v with st := .recal, run := 0, hist := 0, passAt := s.clk, passN := 0, passBad := false, tuneAt := s.clk, done := false, awaiting := false,
                                 corrSum := 0, corrN := 0, lastRate := none, fails := 0 })
/-- A lane enters LOCK: locked where a burst found it so while its port was DOWN; with retained state, waiting for the partner's burst at its kept boundary with the taps last used (R113); otherwise hunting from its start point. -/
def laneLock (l : Nat) (s : State) : State :=
  if (s.lane l).st == .retired then s
  else
    let (t, c) := s.startTaps l
    let s := s.modLane l (fun v =>
      if v.st == .locked && v.hasLock then v.tuneAfresh s.clk
      else if v.retain && s.clk ≤ v.idleAt + 10 ^ 9 then { v with st := .idle }.tuneAfresh s.clk
      else { v with st := .hunt, retain := false, exit := none, ctle := c, taps := t, pTaps := ⟨0, 0, 0, 0⟩, cand := 0, run := 0, hist := 0,
                    pol := false }.tuneAfresh s.clk)
    txOn l s
/-- The offered range of versions (R90). -/
def State.verRange (s : State) (p : Nat) : Nat × Nat :=
  match s.cezal p with
  | 0 => (2, 3)
  | 1 => (3, 3)
  | _ => (2, 2)
/-- The port enters LOCK, where it is built, not disabled and its district not in REPLAT; a lane follows once its rings are LOCKED (R334). -/
def startTraining (p : Nat) (s : State) : State :=
  if !s.portBuilt p || (s.link p).disable || s.dist (districtOf p) == .replat then s
  else
    let s := s.modLink p (fun l => { l with st := .lock, since := s.clk, heard := 0, laneOf := [], tsend := 0, tsendAt := 0, rttNow := false, cfgOk := false })
    let s := fire 15 s
    forEach ((s.lanesOf p).filter s.ringsLocked) laneLock s
/-- Every receive lane is DONE, and so is the partner's on every lane: the port goes on to HELLO. -/
def checkLock (p : Nat) (s : State) : State :=
  let all := (s.lanesOf p).filter (fun l => (s.lane l).st != .retired)
  if (s.link p).st == .lock && !all.isEmpty && all.all (fun l => (s.lane l).done && (s.lane l).pDone && s.ringsLocked l) then
    fire 15 (s.modLink p (fun l => { l with st := .hello, since := s.clk, helloAt := 0 }))
  else s
/-- Lanes of a port that are not retired, as a mask. -/
def State.laneMask (s : State) (p : Nat) : Byte :=
  BitVec.ofNat 8 (sumOf ((List.range (s.width p)).map (fun i => if (s.lane (p + i)).st == .retired then 0 else 2 ^ i)))
/-- A TRAIN frame on every lane of the port that is not retired. -/
def sendTrain (p : Nat) (body : Nat → List Byte) (s : State) : State :=
  forEach ((List.range (s.width p)).filter (fun i => (s.laneMask p).getLsbD i)) (fun i s => sendFrame p i 2 (s.link p).nextFseq.toNat 0xFFFF (body i) s) s
def helloBody (s : State) (p i : Nat) : List Byte :=
  let l := s.link p
  let (lo, hi) := s.verRange p
  toLE 1 1 ++ toLE 1 hi ++ toLE 1 lo ++ toLE 1 (s.offered p) ++ toLE 1 (s.width p) ++ toLE 1 i ++ toLE 1 2 ++ zeros 1
    ++ toLE 8 s.nv.devid.toNat ++ toLE 2 p ++ toLE 2 256 ++ toLE 8 s.clk ++ toLE 8 l.tsend.toNat
    ++ toLE 4 (if l.tsend == 0 then 0 else s.clk - l.tsendAt)
def configBody (l : Link) : List Byte := toLE 1 2 ++ toLE 1 l.ver.toNat ++ toLE 1 l.caps.toNat
/-- The credits that the MS9 states, for each built lane (R86). -/
def ownCredit (tc : Nat) : Nat :=
  match tc with
  | 7 => 40 | 4 => 384 | 3 => 256 | 2 => 128 | 1 => 128 | 0 => 40 | _ => 0
def creditBody (s : State) (p : Nat) : List Byte := toLE 1 3 ++ zeros 1 ++ (List.range 8).flatMap (fun tc => toLE 2 (s.width p * ownCredit tc))
/-- The port comes UP (R88): DATA FSEQ 0, credit counts 0, all lanes in use, buckets full, virtual times 0. -/
def portUp (p : Nat) (credit : List Nat) (s : State) : State :=
  let mask := s.laneMask p
  let w := s.width p
  let tab := fun (f : Nat → Nat) => (List.range 8).foldl (fun t tc => tset 0 t tc (f tc)) ([] : Tab Nat)
  let s := s.modLink p (fun l => { l with
    st := if popcount mask.toNat 8 == w then .up else .degraded, tstat := 1, since := s.clk, txact := mask, rxact := mask, txBal := tab (fun tc => credit.getD tc 0), seen := [],
    rxBal := tab (fun tc => w * ownCredit tc), freed := [], told := [], repNext := 0, nextFseq := 0, unacked := [], replay := [], replays := 0,
    ackAt := s.clk, txPkts := [], txRest := [], expect := 0, nak := false, early := [], rxStream := [], skip := false, laneCtl := [] })
  let s := forEach (s.lanesOf p) (fun l s => s.modLane l (fun v => { v with
    st := if v.st == .retired then .retired else .locked,
    recal := if v.recal == .running then .ok else v.recal, passes := if v.recal == .running then 1 else v.passes })) s
  let s := s.modSched p (fun c => { c with bucket := 65536 * w * 4, bucketAt := s.clk, g := 0, gAt := s.clk })
  settleFlys (fire 15 s)

/-! ### Transmit (R79, R80, R82) -/

/-- Fills a body with packets that follow what it holds. -/
def fillBody : List (Pkt × List Byte) → List Byte → List Byte × List (Pkt × List Byte)
  | [], acc => (acc, [])
  | p :: r, acc => if 620 ≤ acc.length then (acc, p :: r) else fillBody r (acc ++ p.2)
/-- The next DATA body: bytes, PKTOFF, the rest of the packet begun, and the packets that wait. -/
def nextBody (l : Link) : List Byte × Nat × List Byte × List (Pkt × List Byte) :=
  let off := if l.txRest.length < 620 && !l.txPkts.isEmpty then l.txRest.length else 0xFFFF
  let (all, pkts) := fillBody l.txPkts l.txRest
  (fit 620 all, off, all.drop 620, pkts)
/-- Frames of the retry buffer of a port. -/
def State.retryFrames (s : State) (p : Nat) : Nat := 256 * s.width p
/-- The next request for the partner's taps, where the lane tunes and the echo of the last is in: what it asks is the receiver's own (a free value), and one that has not lowered the rate of corrected symbols since the one before has failed (R107, R109). -/
def nextRequest (k : Nat) (s : State) : State :=
  let v := s.lane k
  if v.done || !v.hasLock || v.awaiting || v.corrN == 0 then s
  else
    let lower := match v.lastRate with | some (a, n) => decide (v.corrSum * n < a * v.corrN) | none => true
    let fails := if lower then 0 else v.fails + 1
    let s := s.modLane k (fun v => { v with fails := fails, lastRate := some (v.corrSum, v.corrN), corrSum := 0, corrN := 0 })
    if 16 ≤ fails then s
    else
      let (f, s) := takeFree s
      let req := sumOf ((List.range 4).map (fun i => fld f.toNat (2 * i) 2 % 3 * 4 ^ i))
      s.modLane k (fun v => { v with rseq := v.rseq + 1, req := BitVec.ofNat 8 req, awaiting := true })
/-- An EQ codeword on a lane, with the request that is due. -/
def eqSlot (k : Nat) (s : State) : State := sendEq k (nextRequest k s)
/-- One codeword on a lane in use: a replayed frame, a new DATA frame, or IDLE. While the lane's receive direction is recalibrated, its requests go out in place of IDLE frames (log entry 88). -/
def sendOne (p i : Nat) (s : State) : State :=
  let l := s.link p
  match l.replay with
  | f :: r => sendFrame p i 1 f.fseq.toNat f.pktoff.toNat f.body (s.setLink p { l with replay := r })
  | [] =>
    if (l.txRest.isEmpty && l.txPkts.isEmpty) || s.retryFrames p ≤ l.unacked.length then
      if (s.lane (p + i)).st == .recal && !(s.lane (p + i)).done then eqSlot (p + i) s
      else sendFrame p i 0 l.nextFseq.toNat 0xFFFF [] s
    else
      let (body, off, rest, pkts) := nextBody l
      let s := s.setLink p { l with
        unacked := l.unacked ++ [⟨l.nextFseq, BitVec.ofNat 16 off, body⟩], txRest := rest, txPkts := pkts,
        nextFseq := l.nextFseq + 1, ackAt := if l.unacked.isEmpty then s.clk else l.ackAt }
      sendFrame p i 1 l.nextFseq.toNat off body s
/-- A lane's transmitter drives the lane. -/
def State.drives (s : State) (k : Nat) : Bool := (s.lane k).st != .retired && !(s.lane k).txIdle
/-- One codeword of a port that is UP or DEGRADED: a frame where the lane is in use, an EQ codeword where it is not (R80, R110). -/
def upSlot (p i : Nat) (s : State) : State :=
  if (s.link p).txact.getLsbD i then sendOne p i s
  else if s.drives (p + i) then eqSlot (p + i) s
  else s
/-- One frame slot: every lane of the port, in ascending order, sends one codeword. In LOCK that is EQ (R107), after which the port may leave LOCK; in HELLO a slot between records carries FILL. -/
def frameSlot (p : Nat) (s : State) : State :=
  let l := s.link p
  let lanes := (List.range (s.width p)).filter (fun i => s.drives (p + i))
  if l.isUp then forEach (List.range (s.width p)) (upSlot p) s
  else if l.st == .lock then checkLock p (forEach (lanes.filter (fun i => s.ringsLocked (p + i))) (fun i => eqSlot (p + i)) s)
  else if l.st == .hello then forEach lanes (fun i => sendBlocks (p + i) fillBlocks) s
  else if l.st == .config then sendTrain p (fun _ => configBody (s.link p)) s
  else if l.st == .credit then sendTrain p (fun _ => creditBody s p) s
  else s

/-! ### Replay (R81, R83) -/

/-- The replay limit: counted, REPLAY, and a retrain (R83, R96). -/
def replayLimit (p : Nat) (s : State) : State := setLnkErr p 5 (countX xfReplayLimit p (retrain p 0x0C s))
/-- A replay of all unacknowledged frames begins; the sixteenth in a row at one FSEQ retrains the link. -/
def startReplay (p : Nat) (s : State) : State :=
  let l := s.link p
  match l.unacked with
  | [] => s
  | f :: _ =>
    let n := if l.replays != 0 && l.replayFrom == f.fseq then l.replays + 1 else 1
    if 16 ≤ n then replayLimit p s
    else countN (evNo 4 0x010 p) l.unacked.length (s.setLink p { l with replay := l.unacked, replayFrom := f.fseq, replayAt := s.clk, replays := n })
/-- The current replay is over: ACKSEQ has moved, or twice the round trip has passed since it began. -/
def State.mayReplay (s : State) (p : Nat) : Bool :=
  let l := s.link p
  match l.unacked with
  | [] => false
  | f :: _ => l.replays == 0 || l.replayFrom != f.fseq || decide (2 * l.rtt.toNat ≤ s.clk - l.replayAt)
/-- Frames up to one acknowledged leave the retry buffer. -/
def ackTo (fseq : Half) (l : List DataFrame) : List DataFrame :=
  match findPos (fun f => f.fseq == fseq) l 0 with
  | some i => l.drop (i + 1)
  | none => l
/-- ACKSEQ and NAK of a received header. -/
def takeAck (p : Nat) (ack : Half) (nak : Bool) (s : State) : State :=
  let l := s.link p
  let rest := ackTo ack l.unacked
  let s := if rest.length == l.unacked.length then s
    else s.setLink p { l with unacked := rest, ackAt := s.clk, replays := 0, replay := l.replay.filter (fun f => rest.any (fun g => g.fseq == f.fseq)) }
  if nak && s.mayReplay p then startReplay p s else s
/-- One credit return: the difference from the last count seen (R85). -/
def takeReturn (p tc cnt : Nat) (s : State) : State :=
  s.modLink p (fun l =>
    let d := (BitVec.ofNat 13 cnt - tget 0 l.seen tc).toNat
    { l with seen := tset 0 l.seen tc (BitVec.ofNat 13 cnt), txBal := if creditClass tc then tmod 0 l.txBal tc (· + d) else l.txBal })

/-! ### Receive (R79, R81, R96) -/

/-- The packets at the front of a port's byte stream are taken; `fuel` bounds the words. -/
def takeStream (p : Nat) : Nat → State → State
  | 0, s => s
  | fuel + 1, s =>
    let l := s.link p
    let b := l.rxStream
    let c2 := s.isC2 p
    let hl := if c2 then 24 else 32
    if b.length < 4 then s
    else if u32At b 0 == 0 then takeStream p fuel (s.setLink p { l with rxStream := b.drop 4 })
    else if b.length < hl then s
    else if !(if c2 then hcrcOk2 b else hcrcOk3 b) then
      let s := if l.skip then s else takePacket p (b.take hl) [] s
      takeStream p fuel (s.modLink p (fun l => { l with rxStream := b.drop 4, skip := true }))
    else
      let len := u16At b 0
      let n := hl + alignUp len 4 + 4
      if b.length < n then s.setLink p { l with skip := false }
      else
        let bytes := b.take n
        let ok := u32At bytes (n - 4) == crc32 (slice bytes hl len)
        takeStream p fuel (takePacket p bytes [] (s.setLink p { l with rxStream := b.drop n, skip := !ok }))
/-- A DATA body in order. -/
def takeBody (p : Nat) (body : List Byte) (s : State) : State :=
  let s := s.modLink p (fun l => { l with rxStream := l.rxStream ++ body })
  takeStream p ((s.link p).rxStream.length + 1) s
/-- Early frames that now follow are taken; `fuel` bounds them. -/
def takeEarly (p : Nat) : Nat → State → State
  | 0, s => s
  | fuel + 1, s =>
    let l := s.link p
    match l.early.find? (fun e => e.1.fseq == l.expect) with
    | none => s
    | some (f, _) =>
      takeEarly p fuel (takeBody p f.body (s.setLink p { l with expect := l.expect + 1, early := l.early.filter (fun e => e.1.fseq != f.fseq) }))
/-- A DATA frame is bad: it and every later one are discarded, and NAK is set; counted (R81, R96). -/
def badFrame (p : Nat) (s : State) : State :=
  setLnkErr p 0 (countX xfFrameBad p s |>.modLink p (fun l => { l with nak := true, early := [] }))
/-- A DATA frame arrives intact. -/
def takeData (p : Nat) (f : DataFrame) (s : State) : State :=
  let l := s.link p
  if f.fseq == l.expect then
    let s := takeBody p f.body (s.setLink p { l with expect := l.expect + 1, nak := false })
    takeEarly p (l.early.length + 1) s
  else if l.nak then s
  else if (f.fseq - l.expect).toNat < 2 ^ 15 && !(l.early.any (fun e => e.1.fseq == f.fseq)) then
    s.setLink p { l with early := l.early ++ [(f, s.clk)] }
  else s
/-- A frame is lost on a receive lane in use: its codeword is uncorrectable, or its FCRC fails. -/
def loseFrame (p lane : Nat) (s : State) : State :=
  if (s.link p).isUp && (s.link p).rxact.getLsbD lane then badFrame p (addPenalty 0 (p + lane) (10 ^ 7) s) else s
def frameIntact (b : List Byte) : Bool := b.length == 640 && u32At b 636 == crc32c (b.take 636)
/-- A frame on a receive lane in use: its acknowledgement, its credit returns, and the body of a DATA frame. -/
def takeFrame (p lane : Nat) (b : List Byte) (s : State) : State :=
  let l := s.link p
  if !l.isUp || !l.rxact.getLsbD lane then s
  else if !frameIntact b then loseFrame p lane s
  else
    let w := fun i => u32At b (4 * i)
    let s := takeAck p (BitVec.ofNat 16 (fld (w 1) 16 16)) (bitAt (w 1) 0) s
    let s := takeReturn p (fld (w 2) 13 3) (fld (w 2) 0 13) (takeReturn p (fld (w 2) 29 3) (fld (w 2) 16 13) s)
    if fld (w 0) 28 4 == 1 && (s.link p).isUp then
      takeData p ⟨BitVec.ofNat 16 (w 0), BitVec.ofNat 16 (fld (w 3) 16 16), slice b 16 620⟩ s
    else s

end Sys2Proof.Machine
end

