-- ==== Sys2Proof/Machine/Links.lean ====
section
/-! DEFINITION. The commands of the fabric ports (03_cezal_links.md): frames, replay, training, lane degrade, and the port's control register. -/
namespace Sys2Proof.Machine
open Sys2Proof

/-! ### Frames and retry (R80, R81, R83) -/

def execFrameSlot (dt : Nat) (port : Port) (s : State) : Out := .next (frameSlot port.val (elapse dt s))
/-- Twice the round trip since the current replay began, with frames still unacknowledged. -/
def replayTimeout (p : Nat) (s : State) : State :=
  let l := s.link p
  if l.replays == 0 || s.clk - l.replayAt < 2 * l.rtt.toNat then s else startReplay p s
def execReplayTimeout (dt : Nat) (port : Port) (s : State) : Out := .next (replayTimeout port.val (elapse dt s))
/-- 100 µs without ACKSEQ progress while DATA frames are outstanding. -/
def ackTimeout (p : Nat) (s : State) : State :=
  let l := s.link p
  if l.isUp && !l.unacked.isEmpty && decide (100000 ≤ s.clk - l.ackAt) then replayLimit p s else s
def execAckProgressTimeout (dt : Nat) (port : Port) (s : State) : Out := .next (ackTimeout port.val (elapse dt s))
/-- The frame that is expected has not come within 100 ns of a later one. -/
def skewExpiry (p : Nat) (s : State) : State :=
  if (s.link p).early.any (fun e => decide (100 ≤ s.clk - e.2)) then badFrame p s else s
def execSkewWindowExpiry (dt : Nat) (port : Port) (s : State) : Out := .next (skewExpiry port.val (elapse dt s))

/-! ### Training (R87 to R90) -/

/-- A training state is entered; the frames that belong to it go out at once. -/
def enterState (p : Nat) (st : LinkState) (s : State) : State := fire 15 (s.modLink p (fun l => { l with st := st, since := s.clk }))
/-- The version both ranges hold, the highest of them (R90). -/
def commonVersion (lo hi plo phi : Nat) : Option Nat :=
  let v := min hi phi
  if lo ≤ v ∧ plo ≤ v then some v else none
/-- Every lane of the port that is not retired has been heard, and the round trip is measured. -/
def State.helloDone (s : State) (p : Nat) : Bool :=
  let l := s.link p
  let need := (s.lanesOf p).filter (fun k => (s.lane k).st != .retired)
  popcount l.heard.toNat 8 == need.length && l.rttNow
/-- A HELLO record on a lane (R89), and the result of R90. LANEIDX maps the lane where it is one of the port's; a TECHO of 0 is none received yet. -/
def takeHello (p lane : Nat) (b : List Byte) (s : State) : State :=
  let l := s.link p
  let idx := u8At b 5
  if l.st != .hello || u8At b 0 != 1 || s.width p ≤ lane then s
  else
    let echo := u64At b 28
    let rtt := if echo == 0 then l.rtt else BitVec.ofNat 16 (sat 0xFFFF (s.clk - echo - u32At b 36))
    let mapped := decide (idx < s.width p)
    let s := s.setLink p { l with
      heard := if mapped then setBit l.heard idx true else l.heard, laneOf := if mapped then tset 0 l.laneOf idx lane else l.laneOf,
      pVermax := BitVec.ofNat 4 (u8At b 1), pVermin := BitVec.ofNat 4 (u8At b 2), pCaps := BitVec.ofNat 6 (u8At b 3),
      pWidth := BitVec.ofNat 4 (u8At b 4), pNode := BitVec.ofNat 2 (u8At b 6), pid := BitVec.ofNat 64 (u64At b 8),
      pPort := BitVec.ofNat 11 (u16At b 16), pRetry := BitVec.ofNat 16 (u16At b 18),
      tsend := BitVec.ofNat 64 (u64At b 20), tsendAt := s.clk, rtt := rtt, rttNow := l.rttNow || echo != 0 }
    let (lo, hi) := s.verRange p
    if u8At b 1 == 1 then retrain p 6 s
    else if u8At b 4 != s.width p then retrain p 8 s
    else
      match commonVersion lo hi (u8At b 2) (u8At b 1) with
      | none => retrain p 7 s
      | some v =>
        if !s.helloDone p then s
        else
          let caps := Nat.land (Nat.land (s.offered p) (u8At b 3)) (if v == 2 then 0x2A else 0x3F)
          let s := enterState p .config (s.modLink p (fun l => { l with ver := BitVec.ofNat 4 v, caps := BitVec.ofNat 6 caps }))
          sendTrain p (fun _ => configBody (s.link p)) s
def execHello (port : Port) (lane : Fin 8) (b : List Byte) (s : State) : Out := .next (takeHello port.val lane.val b s)
/-- A CONFIG record: both results must be equal. -/
def takeConfig (p : Nat) (b : List Byte) (s : State) : State :=
  let l := s.link p
  if l.st != .config || u8At b 0 != 2 then s
  else if u8At b 1 == l.ver.toNat && u8At b 2 == l.caps.toNat then
    let s := enterState p .credit s
    sendTrain p (fun _ => creditBody s p) s
  else retrain p 9 s
def execConfig (port : Port) (b : List Byte) (s : State) : Out := .next (takeConfig port.val b s)
/-- The partner's credits are enough for one packet in every class that carries them, and at most 4,095 (R87). -/
def creditsOk (c : List Nat) : Bool :=
  c.zipIdx.all (fun e => decide (e.1 ≤ 4095) && (!creditClass e.2 || decide (33 ≤ e.1)))
def takeCredit (p : Nat) (b : List Byte) (s : State) : State :=
  if (s.link p).st != .credit || u8At b 0 != 3 then s
  else
    let c := (List.range 8).map (fun tc => u16At b (2 + 2 * tc))
    if creditsOk c then portUp p c s else retrain p 0x0A s
def execCreditInit (port : Port) (b : List Byte) (s : State) : Out := .next (takeCredit port.val b s)
/-- A training state that exceeds its limit (R88). Which TSTAT a HELLO or CONFIG that runs out gives is the model's own choice (log entry 89): NO_HELLO where no record has come, DESKEW where one has, CONFIG_MISMATCH. -/
def trainingTimeout (p : Nat) (s : State) : State :=
  let l := s.link p
  let past := fun (ns : Nat) => decide (ns ≤ s.clk - l.since)
  match l.st with
  | .lock => if past 1500000000 then retrain p (if (s.lanesOf p).any (fun k => (s.lane k).sigdet) then 3 else 2) s else s
  | .hello => if past (10 ^ 8) then retrain p (if l.heard == 0 then 4 else 5) s else s
  | .config => if past (10 ^ 7) then retrain p 9 s else s
  | .credit => if past (10 ^ 7) then retrain p 0x0B s else s
  | _ => s
def execTrainingStateTimeout (dt : Nat) (port : Port) (s : State) : Out := .next (trainingTimeout port.val (elapse dt s))
/-- A DOWN port starts training again after its interval. -/
def retrainDue (p : Nat) (s : State) : State :=
  let l := s.link p
  if l.st == .down && decide (l.wait ≤ s.clk - l.since) then startTraining p s else s
def execRetrainInterval (dt : Nat) (port : Port) (s : State) : Out := .next (retrainDue port.val (elapse dt s))
/-- In HELLO every lane sends its record every 1 µs. -/
def helloSend (p : Nat) (s : State) : State :=
  let l := s.link p
  if l.st == .hello && (l.helloAt == 0 || decide (1000 ≤ s.clk - l.helloAt)) then
    sendTrain p (helloBody s p) (s.modLink p (fun l => { l with helloAt := s.clk }))
  else s
def execHelloSend (dt : Nat) (port : Port) (s : State) : Out := .next (helloSend port.val (elapse dt s))

/-! ### Lane degrade (R92) -/

/-- Notes the progress of a flyover on a lane: the partner's OFF (on = false, partner), or our OFF answered. -/
def flyLane (l : Nat) (partner : Bool) (s : State) : State :=
  forEach ((s.opt.fly.filter (fun e => e.2.st == .switching)).map (·.1)) (fun n s =>
    flyCross n (s.modFly n (fun f =>
      let f := if f.laneA.toNat == l then (if partner then { f with poffA := true } else { f with ackA := true }) else f
      if f.laneB.toNat == l then (if partner then { f with poffB := true } else { f with ackB := true }) else f))) s
/-- OFF from the partner's receiver: the transmitter leaves the lane and answers OFF_ACK; the last active lane retrains the port. -/
def takeOff (p idx : Nat) (s : State) : State :=
  let l := s.link p
  if !l.isUp || !s.cap p 5 || s.width p ≤ idx then s
  else if l.txList == [idx] then addPenalty 0 (p + idx) (50 * 10 ^ 9) (retrain p 0x0D s)
  else
    let s := s.modLink p (fun l => { l with txact := setBit l.txact idx false })
    settleUp p (flyLane (p + idx) true (sendLaneCtlFrames p 2 idx idx s))
def execLaneCtlOff (port : Port) (idx : BitVec 3) (s : State) : Out := .next (takeOff port.val idx.toNat s)
/-- OFF_ACK: the removal is complete; a recalibration that waited for it begins its pass (R115). -/
def takeOffAck (p idx : Nat) (s : State) : State :=
  let l := s.link p
  if !l.isUp || !(l.laneCtl.any (fun c => !c.on && c.idx.toNat == idx)) then s
  else
    let k := p + l.laneFor idx
    let s := s.setLink p { l with laneCtl := l.laneCtl.filter (fun c => c.on || c.idx.toNat != idx) }
    let s := if (s.lane k).recal == .running then startRecal k s else s
    settleUp p (flyLane k false s)
def execOffAck (port : Port) (idx : BitVec 3) (s : State) : Out := .next (takeOffAck port.val idx.toNat s)
/-- ON from the partner's receiver: the transmitter uses the lane again and answers ON_ACK. -/
def takeOn (p idx : Nat) (s : State) : State :=
  if !(s.link p).isUp || !s.cap p 5 || s.width p ≤ idx || (s.lane (p + idx)).txIdle then s
  else
    let s := sendLaneCtlFrames p 4 idx idx s
    settleFlys (settleUp p (s.modLink p (fun l => { l with txact := setBit l.txact idx true })))
def execLaneCtlOn (port : Port) (idx : BitVec 3) (s : State) : Out := .next (takeOn port.val idx.toNat s)
/-- ON_ACK: the lane is in use on the receive side again. -/
def takeOnAck (p idx : Nat) (s : State) : State :=
  let l := s.link p
  if !l.isUp || !(l.laneCtl.any (fun c => c.on && c.idx.toNat == idx)) then s
  else
    let i := l.laneFor idx
    let s := s.setLink p { l with rxact := setBit l.rxact i true, laneCtl := l.laneCtl.filter (fun c => !c.on || c.idx.toNat != idx) }
    let s := s.modLane (p + i) (fun v => { v with st := .locked, recal := if v.recal == .running then .ok else v.recal })
    settleFlys (settleUp p s)
def execOnAck (port : Port) (idx : BitVec 3) (s : State) : Out := .next (takeOnAck port.val idx.toNat s)
/-- Frames that wait for an answer for 1 µs are sent again. -/
def repeatLaneCtl (p : Nat) (s : State) : State :=
  let l := s.link p
  let due := l.laneCtl.filter (fun c => decide (1000 ≤ s.clk - c.last))
  let s := s.setLink p { l with laneCtl := l.laneCtl.map (fun c => if 1000 ≤ s.clk - c.last then { c with last := s.clk } else c) }
  forEach due (fun c s => sendLaneCtlFrames p (if c.on then 3 else 1) c.idx.toNat (l.laneFor c.idx.toNat) s) s
def execLaneCtlRepeat (dt : Nat) (port : Port) (s : State) : Out :=
  let s := elapse dt s
  .next (if (s.link port.val).isUp then repeatLaneCtl port.val s else s)
/-- A frame unanswered for 1 ms retrains the port; the lane it named is the one lost. -/
def laneCtlTimeout (p : Nat) (s : State) : State :=
  let l := s.link p
  match l.laneCtl.find? (fun c => decide (10 ^ 6 ≤ s.clk - c.first)) with
  | some c => if l.isUp then addPenalty 0 (p + l.laneFor c.idx.toNat) (50 * 10 ^ 9) (retrain p 0x0D s) else s
  | none => s
def execLaneCtlTimeout (dt : Nat) (port : Port) (s : State) : Out := .next (laneCtlTimeout port.val (elapse dt s))

/-! ### LNK_CTRL (R99) -/

def setDisable (p : Nat) (v : Bool) (s : State) : State :=
  if !s.portBuilt p || (s.link p).disable == v then s
  else if v then (portDown p 0x0E 0 s).modLink p (fun l => { l with disable := true })
  else startTraining p (s.modLink p (fun l => { l with disable := false }))
def execLnkDisable (p : HPort) (port : Port) (v : Bool) (s : State) : Out := .next (hostWrite p false (setDisable port.val v) s)
/-- RETRAIN: DOWN, and training at once; a disabled port stays DOWN. -/
def hostRetrain (p : Nat) (s : State) : State :=
  if !s.portBuilt p || (s.link p).disable then s else startTraining p (portDown p 0 0 s)
def execLnkRetrain (p : HPort) (port : Port) (s : State) : Out := .next (hostWrite p false (hostRetrain port.val) s)

end Sys2Proof.Machine
end

