-- ==== Sys2Proof/Machine/MillCmds.lean ====
section
/-! DEFINITION. The Mill's commands from the host (R273, R278, R292 to R302, R310) and the events of its threads that are not instructions: codebooks, program store, bindings, transform-flow table, yard flushes, handovers, completed accesses, ended waits, slice boundaries. -/
namespace Sys2Proof.Machine
open Sys2Proof

/-! ### Codebooks (R273, R278) -/

def cbStatus (st : Nat) (s : State) : State := { s with mil.cbStatus := BitVec.ofNat 8 st }
def cbCommand (p : HPort) (f : State → State) (s : State) : State :=
  hostWrite p false (fun s =>
    if s.mil.cbBusy then { s with mil.cbReject := true }
    else if s.glb.state.code < 3 then cbStatus 2 s
    else f (cbStatus 0 s)) s
def State.cbEntry (s : State) (i : Nat) : CbEnt := tget CbEnt.reset s.mil.cb i
def readCb (i : Nat) (s : State) : State :=
  let e := s.cbEntry i
  { s with
    mil.cbWritten := e.written,
    mil.cbData := tsetL 0 [] 0 ((List.range 8).map (fun k => (e.vals.getD (2 * k + 1) 0) ++ (e.vals.getD (2 * k) 0))) }
def execCbRead (p : HPort) (idx : BitVec 12) (s : State) : Out := .next (cbCommand p (readCb idx.toNat) s)
/-- The 16 values that MIL_CB_DATA0 to 7 hold. -/
def State.cbWords (s : State) : List Half :=
  (List.range 8).flatMap (fun k => let w := tget 0 s.mil.cbData k; [w.extractLsb' 0 16, w.extractLsb' 16 16])
/-- One half of a codebook write as a journal record (R372). -/
def cbJournal (i half : Nat) (v : List Half) : List Byte :=
  toLE 2 i ++ toLE 1 half ++ zeros 1 ++ ((v.drop (8 * half)).take 8).flatMap (fun h => toLE 2 h.toNat)
def writeCb (i : Nat) (s : State) : State :=
  let v := s.cbWords
  let s := { s with mil.cb := tset CbEnt.reset s.mil.cb i ⟨v, true⟩ }
  journal 3 0 (cbJournal i 1 v) (journal 3 0 (cbJournal i 0 v) s)
def execCbWrite (p : HPort) (idx : BitVec 12) (s : State) : Out := .next (cbCommand p (writeCb idx.toNat) s)

/-! ### The program store (R292, R293) -/

def pgmStatus (st : Nat) (s : State) : State := { s with mil.pgmStatus := BitVec.ofNat 8 st }
def pgmCommand (p : HPort) (f : State → State) (s : State) : State :=
  hostWrite p false (fun s =>
    if s.mil.pgmBusy then { s with mil.pgmReject := true }
    else if s.glb.state.code < 3 then pgmStatus 0x0C s
    else f s) s
/-- A binding uses the slot, at its present or its old place. -/
def State.slotUsed (s : State) (d slot : Nat) : Bool :=
  s.mil.binds.any (fun e => match e.2 with
    | some b => (b.place.district == d && b.place.slot == slot)
        || (match b.oldPlace with | some q => q.district == d && q.slot == slot | none => false)
    | none => false)
/-- What R292 asks of an image, beside its size. -/
def imageOk (b : List Byte) : Bool :=
  let code := imgCode b
  let data := imgData b
  let seg := imgSegment b
  decide (64 ≤ b.length) && u32At b 0 == 0x4D494C50 && u16At b 4 == 1
    && decide (1 ≤ imgTregs b) && decide (imgTregs b ≤ 64) && decide (imgWyards b ≤ 7)
    && decide (1 ≤ code) && decide (code ≤ 32760) && b.length == 64 + 8 * code + data
    && decide (data ≤ seg) && seg % 64 == 0 && decide (imgEntry b < code)
    && imgWycap b % 4096 == 0 && (imgWyards b != 0 || imgWycap b == 0)
    && decide (imgKinds b < 4) && allZero (slice b 29 3)
    && digestBytes (Config.sm3 (b.drop 64)) == slice b 32 32
def loadImage (d slot : Nat) (s : State) : State :=
  let len := s.mil.pgmLen.toNat
  if (s.millRec d).slots.toNat ≤ slot then pgmStatus 3 s
  else if s.slotUsed d slot then pgmStatus 4 s
  else if 262144 < len then pgmStatus 2 s
  else
    let b := rdMem s s.mil.pgmAddr.toNat len
    if 262144 < 64 + 8 * imgCode b + imgData b && u32At b 0 == 0x4D494C50 then pgmStatus 2 s
    else if !imageOk b then pgmStatus 1 s
    else pgmStatus 0 { s with mil.store := tset [] s.mil.store (storeKey d slot) b }
def unloadImage (d slot : Nat) (s : State) : State :=
  if (s.millRec d).slots.toNat ≤ slot then pgmStatus 3 s
  else if s.slotUsed d slot then pgmStatus 4 s
  else if (s.image d slot).isEmpty then pgmStatus 6 s
  else pgmStatus 0 { s with mil.store := tset [] s.mil.store (storeKey d slot) [] }
def execPgmLoad (p : HPort) (district : Fin 16) (slot : BitVec 9) (s : State) : Out :=
  .next (pgmCommand p (loadImage district.val slot.toNat) s)
def execPgmUnload (p : HPort) (district : Fin 16) (slot : BitVec 9) (s : State) : Out :=
  .next (pgmCommand p (unloadImage district.val slot.toNat) s)

/-! ### BIND (R294, R295) -/

def bindStatus (st : Nat) (s : State) : State := { s with mil.bindStatus := BitVec.ofNat 8 st }
def bindCommand (p : HPort) (f : State → State) (s : State) : State :=
  hostWrite p false (fun s =>
    if s.mil.bindBusy then { s with mil.bindReject := true }
    else if s.glb.state.code < 4 then bindStatus 0x0C s
    else f s) s
/-- The place that MIL_BIND_ARG0 and ARG1 name. -/
def State.argPlace (s : State) : Place :=
  let a := s.mil.arg0.toNat
  ⟨fld a 28 4, BitVec.ofNat 8 (fld a 20 8), fld a 11 9, fld a 6 5, bitAt a 5, bitAt a 4, s.mil.arg1⟩
/-- Every place that a binding other than one holds: its present one and, in a handover, its old one. -/
def State.placesBut (s : State) (bid : Nat) : List Place :=
  s.mil.binds.flatMap (fun e => match e.2 with
    | some b => if e.1 == bid then [] else b.place :: b.oldPlace.toList
    | none => [])
/-- Bytes of a district's Mill scratch outside the program store (R52, R295), less drained banks. -/
def State.scratchSize (s : State) (d : Nat) : Nat :=
  (s.part d).scratch.toNat * 2 ^ 20 - (s.millRec d).slots.toNat * 2 ^ 18 - s.bankLost d 3
def State.scratchUsed (s : State) (d : Nat) : Nat :=
  sumOf (s.mil.binds.map (fun e => match e.2 with
    | some b => (if b.place.district == d then b.scratchRes else 0)
        + (if (b.oldPlace.map (·.district)) == some d then b.oldScratchRes else 0)
    | none => 0))
/-- What R295 reserves in scratch and in MIL_BACK; a status where it cannot. -/
def reserve (s : State) (p : Place) : Except Nat (Nat × Nat) :=
  let img := s.placeImage p
  let free := s.scratchSize p.district - s.scratchUsed p.district
  let seg := imgSegment img
  if free < seg then .error 9
  else
    let area := imgTregs img * 4224 + p.threads * 512
    let n := if p.pin then 0 else p.cores'.length
    let inScratch := min n ((free - seg) / max 1 area)
    let back := (n - inScratch) * area + p.ycap.toNat + imgWyards img * imgWycap img
    if s.mil.backSize.toNat < s.mil.backUsed.toNat + back then .error 0x0A else .ok (seg + inScratch * area, back)
/-- Step 7: the pinned bindings of every core of the gang. -/
def pinsFit (s : State) (bid : Nat) (p : Place) : Bool :=
  !p.pin || p.cores'.all (fun c =>
    let l := p :: (s.placesBut bid).filter (fun q => q.pin && q.district == p.district && q.on c)
    decide (sumOf (l.map (·.threads)) ≤ 16) && decide (sumOf (l.map s.tregs) ≤ 64))
/-- Steps 3 to 8 of R294. -/
def placeCheck (s : State) (bid : Nat) (p : Place) : Except Nat (Nat × Nat) :=
  let img := s.placeImage p
  let y := p.ycap.toNat
  let r := s.millRec p.district
  let mask := r.cores &&& (if p.kind then r.tf else r.fin)
  if p.threads == 0 || 16 < p.threads || p.cores == 0 || y % 4096 != 0 || y < 65536 || 2 ^ 30 < y then .error 0x0D
  else if img.isEmpty || !bitAt (imgKinds img) (b2n p.kind) then .error 6
  else if p.cores &&& ~~~mask != 0 then .error 7
  else if s.dist p.district != .inService then .error 0x0B
  else if !pinsFit s bid p then .error 8
  else reserve s p
def bindJournal (s : State) (bid : Nat) (p : Place) : List Byte :=
  toLE 4 bid ++ toLE 4 s.mil.arg0.toNat ++ toLE 4 s.mil.arg1.toNat ++ slice (s.placeImage p) 32 12
def Binding.new (p : Place) (sc bk : Nat) : Binding :=
  { st := .bound, place := p, resident := 0, threads := [], tiles := [], scratch := [], yards := [], nextItem := 0,
    order := [], outs := [], arrived := [], closing := false, oldPlace := none, oldThreads := [], oldTiles := [],
    oldScratch := [], oldYards := [], scratchRes := sc, backRes := bk, oldScratchRes := 0, oldBackRes := 0 }
def doBind (bid : Nat) (s : State) : State :=
  let p := s.argPlace
  if s.glb.state == .cordoned then bindStatus 0x0C s
  else if (s.bindOf bid).isSome then bindStatus 4 s
  else
    match placeCheck s bid p with
    | .error c => bindStatus c s
    | .ok (sc, bk) =>
      let s := { s with mil.backUsed := s.mil.backUsed + BitVec.ofNat 64 bk }
      journal 7 0 (bindJournal s bid p) (bindStatus 0 (startBinding bid (s.setBind bid (some (.new p sc bk)))))
def execBind (p : HPort) (id : BitVec 12) (s : State) : Out := .next (bindCommand p (doBind id.toNat) s)
/-- An installed context names the binding in a FINISH stage. -/
def State.ctxNames (s : State) (bid : Nat) : Bool :=
  s.lnd.ctxs.any (fun e => match e.2 with
    | some c => c.d.stages.any (fun t => t.op == 1 && t.c.toNat % 4096 == bid)
    | none => false)
/-- A VALID transform-flow entry names the binding. -/
def State.tfNames (s : State) (bid : Nat) : Bool := s.mil.tf.any (fun e => bitAt e.2.w1.toNat 31 && fld e.2.w3.toNat 0 12 == bid)
def doUnbind (bid : Nat) (s : State) : State :=
  match s.bindOf bid with
  | none => bindStatus 5 s
  | some _ =>
    if s.tfNames bid || s.ctxNames bid then bindStatus 4 s
    else journal 8 0 (toLE 4 bid) (bindStatus 0 (settleEnding bid (s.modBind bid (fun b => { b with closing := true }))))
def execUnbind (p : HPort) (id : BitVec 12) (s : State) : Out := .next (bindCommand p (doUnbind id.toNat) s)
/-- REBIND (R301): new items go to the new input yard at once; a FAULTED binding's queued items are dropped and the new threads start at once. -/
def doRebind (bid : Nat) (s : State) : State :=
  match s.bindOf bid with
  | none => bindStatus 5 s
  | some b =>
    let a := s.argPlace
    let p := { a with kind := b.place.kind, ycap := b.place.ycap }
    if s.glb.state == .cordoned then bindStatus 0x0C s
    else if b.st == .handover || b.closing then bindStatus 4 s
    else if !p.kind && p.district != b.place.district && s.ctxNames bid then bindStatus 4 s
    else
      match placeCheck s bid p with
      | .error c => bindStatus c s
      | .ok (sc, bk) =>
        let s := { s with mil.backUsed := s.mil.backUsed + BitVec.ofNat 64 bk }
        let s := s.setBind bid (some { b with
          st := .handover, place := p, threads := [], tiles := [], scratch := [], yards := [], scratchRes := sc, backRes := bk,
          oldPlace := some b.place, oldThreads := b.threads, oldTiles := b.tiles, oldScratch := b.scratch,
          oldYards := b.yards, oldScratchRes := b.scratchRes, oldBackRes := b.backRes })
        let s := journal 7 0 (bindJournal s bid p) (bindStatus 0 s)
        if b.st == .faulted then finishHandover bid (dropOldYards bid s) else settleEnding bid s
def execRebind (p : HPort) (id : BitVec 12) (s : State) : Out := .next (bindCommand p (doRebind id.toNat) s)
/-- The handover ends once the old yard is empty and every old thread has stopped. -/
def completeHandover (bid : Nat) (s : State) : State :=
  match s.bindOf bid with
  | none => s
  | some b => if b.oldPlace.isSome && (b.side.yard 0).isEmpty && b.side.allStopped then finishHandover bid s else s
def execHandoverComplete (id : BitVec 12) (s : State) : Out := .next (completeHandover id.toNat (settleEnding id.toNat s))
/-- MIL_BIND_INFO of a binding (R310). -/
def bindInfoOf : Option Binding → Word
  | none => 0
  | some b => BitVec.ofNat 32 ((match b.st with | .bound => 1 | .handover => 2 | .faulted => 3) * 2 ^ 30
      + b.place.district * 2 ^ 24 + b.place.cores.toNat * 2 ^ 16 + b.resident.toNat * 2 ^ 8 + b.place.threads)
def execBindQuery (p : HPort) (id : BitVec 12) (s : State) : Out :=
  .next (bindCommand p (fun s => bindStatus 0 { s with mil.bindInfo := bindInfoOf (s.bindOf id.toNat) }) s)
def doRestart (bid : Nat) (s : State) : State :=
  match s.bindOf bid with
  | none => bindStatus 5 s
  | some b => if b.st != .faulted then bindStatus 0x0D s else bindStatus 0 (startBinding bid (s.setBind bid (some { b with st := .bound })))
def execRestart (p : HPort) (id : BitVec 12) (s : State) : Out := .next (bindCommand p (doRestart id.toNat) s)

/-! ### The transform-flow table (R297) -/

def tfStatus (st : Nat) (s : State) : State := { s with mil.tfStatus := BitVec.ofNat 8 st }
def tfCommand (p : HPort) (f : State → State) (s : State) : State :=
  hostWrite p false (fun s =>
    if s.mil.tfBusy then { s with mil.tfReject := true }
    else if s.glb.state.code < 4 then tfStatus 0x0C s
    else f s) s
/-- The fields of an entry break R297. -/
def tfBad (e : TfEnt) : Bool :=
  let w1 := e.w1.toNat
  let w2 := e.w2.toNat
  let plen := fld w1 24 6
  32 < plen || fld e.w0.toNat 0 (32 - plen) != 0 || bitAt w1 20 || (bitAt w1 31 && fld w1 0 20 == 0)
    || fld w2 30 2 == 3 || fld w2 11 19 != 0 || fld e.w3.toNat 12 20 != 0
def writeTf (i : Nat) (s : State) : State :=
  let e : TfEnt := ⟨s.mil.tfData0, s.mil.tfData1, s.mil.tfData2, s.mil.tfData3⟩
  if tfBad e then tfStatus 0x0D s
  else journal 2 0 (toLE 4 i ++ bytesOfWords [e.w0, e.w1, e.w2, e.w3]) (tfStatus 0 { s with mil.tf := tset TfEnt.zero s.mil.tf i e })
def execTfWrite (p : HPort) (idx : BitVec 12) (s : State) : Out := .next (tfCommand p (writeTf idx.toNat) s)
def readTf (i : Nat) (s : State) : State :=
  let e := tget TfEnt.zero s.mil.tf i
  tfStatus 0 { s with mil.tfData0 := e.w0, mil.tfData1 := e.w1, mil.tfData2 := e.w2, mil.tfData3 := e.w3 }
def execTfRead (p : HPort) (idx : BitVec 12) (s : State) : Out := .next (tfCommand p (readTf idx.toNat) s)

/-! ### Yard flush (R291, R310) -/

/-- Items that wait in the new yard of a handover. -/
def flushNew (bid y : Nat) (s : State) : State :=
  match s.bindOf bid with
  | none => s
  | some b =>
    if b.oldPlace.isNone then s
    else forEach ((b.yard y).filterMap YItem.flow?) (dropFlow 51) (s.setBind bid (some { b with yards := tset [] b.yards y [] }))
def doFlush (bid y : Nat) (s : State) : State :=
  match s.bindOf bid with
  | none => bindStatus 5 s
  | some b =>
    if imgWyards (s.placeImage b.side.place) < y || (!b.place.kind && y == 0) then bindStatus 0x0D s
    else bindStatus 0 (settleEnding bid (flushNew bid y (flushYard bid y s)))
def execYardFlush (p : HPort) (id : BitVec 12) (yard : BitVec 3) (s : State) : Out :=
  .next (hostWrite p false (fun s => if s.glb.state.code < 4 then bindStatus 0x0C s else doFlush id.toNat yard.toNat s) s)

/-! ### Waits that end (R281, R290) -/

/-- An access of a switched-out thread completes: the thread goes on, one that waits for a fetch slot starts its fetch where a slot is free, and one whose packet still waits stays. -/
def accessDone (t : Th) (s : State) : State :=
  let h := s.thread t
  if h.st != .switched then s
  else
    match h.waits with
    | .output => if s.outputWaits (thId t) then s else settleEnding (thBid t) (wake (thBid t) (thKey t) s)
    | .fetchSlot y n => if s.fetchesOut < 1024 then modThread t (fun h => { h with waits := .fetch y n }) s else s
    | _ => settleEnding (thBid t) (wake (thBid t) (thKey t) (fetched (thBid t) (thKey t) s))
def execAccessComplete (t : Th) (s : State) : Out := .next (accessDone t s)
/-- What a thread in YARD_WAIT waits for has come. -/
def State.yardReady (s : State) (t : Th) : Bool :=
  match s.bindOf (thBid t) with
  | none => false
  | some b =>
    let v := b.side
    match (s.thread t).waits with
    | .yardItem y => !s.milStopped v.place.district && (v.yard y).any (fun i => i.complete && i.claimed.isNone) && !b.closing
    | .yardRoom y => decide (yardUsed (v.yard y) + 8 ≤ s.yardCap v.place y)
    | _ => false
def execYardWaitEnd (t : Th) (s : State) : Out :=
  .next (if (s.thread t).st == .yardWait && s.yardReady t then wake (thBid t) (thKey t) s else s)

/-! ### Slices (R303, R304) -/

/-- Adds bindings in order while they fit; the answer is those taken. -/
def takeFitting (s : State) : List (Nat × Binding) → Nat → Nat → List Nat
  | [], _, _ => []
  | (bid, b) :: r, th, tr =>
    let p := b.side.place
    if th + p.threads ≤ 16 && tr + s.tregs p ≤ 64 then bid :: takeFitting s r (th + p.threads) (tr + s.tregs p)
    else takeFitting s r th tr
/-- One core chooses its resident set again. -/
def sliceCore (g : Nat) (s : State) : State :=
  let c := g % 8
  let all := s.bindsOn g
  let pins := all.filter (fun e => e.2.side.place.pin)
  let work := all.filter (fun e => !e.2.side.place.pin && e.2.hasWork)
  let idle := all.filter (fun e => !e.2.side.place.pin && !e.2.hasWork && e.2.resident.getLsbD c)
  let th := sumOf (pins.map (fun e => e.2.side.place.threads))
  let tr := sumOf (pins.map (fun e => s.tregs e.2.side.place))
  let last := (s.coreOf g).lastMade
  let order := work.filter (fun e => decide (last < e.1)) ++ work.filter (fun e => decide (e.1 ≤ last))
  let taken := takeFitting s order th tr
  let fits := taken.length == work.length
  let th' := th + sumOf ((work.filter (fun e => taken.contains e.1)).map (fun e => e.2.side.place.threads))
  let tr' := tr + sumOf ((work.filter (fun e => taken.contains e.1)).map (fun e => s.tregs e.2.side.place))
  let stay := pins.map (·.1) ++ taken ++ takeFitting s idle th' tr'
  let was := (all.filter (fun e => e.2.resident.getLsbD c)).map (·.1)
  let leave := was.filter (fun b => !stay.contains b)
  let join := stay.filter (fun b => !was.contains b)
  let made := if fits then (join.getLast?).getD last else (taken.getLast?).getD last
  let s := s.modCore g (fun k => { k with lastMade := made, slicing := !fits })
  let s := forEach leave (fun b s => leaveCore b c s) s
  forEach join (fun b s => count (evNo 28 0x010 g) (enterCore b c s)) s
/-- Every core, at each multiple of 50 µs of the time base. -/
def sliceBoundary (s : State) : State :=
  let k := s.now / 50000
  if k == s.mil.lastSlice then s
  else forEach (List.range 128) sliceCore { s with mil.lastSlice := k }
def execSliceBoundary (dt : Nat) (s : State) : Out := .next (sliceBoundary (elapse dt s))

end Sys2Proof.Machine
end

