-- ==== Sys2Proof/Machine/Mailbox.lean ====
section
/-! DEFINITION. The mailbox (R396): accepting a command and reporting its result. -/
namespace Sys2Proof.Machine
open Sys2Proof

/-- HST_MB_STAT.RESULT and HST_MB_OUT. -/
def mbResult (code out : Nat) (s : State) : State := { s with hst.mbResult := BitVec.ofNat 8 code, hst.mbOut := BitVec.ofNat 32 out }
/-- A mailbox command from a port: from the owner, from UNPLATTED onward, one at a time; its end fires source 13. -/
def mbCommand (p : HPort) (f : State → State) (s : State) : State :=
  hostWrite p false (fun s => if s.hst.mbBusy then { s with hst.mbReject := true } else fire 13 (f s)) s
/-- The buffer's address, and bytes written to it with a result OK. -/
def State.mbAddr (s : State) : Nat := s.hst.mbBuf.toNat
def mbAnswer (bytes : List Byte) (s : State) : State := mbResult 0 bytes.length (wrMem s s.mbAddr bytes)

end Sys2Proof.Machine
end

