-- ==== Sys2Proof/Machine/LaneOps.lean ====
section
/-! DEFINITION. What a fabric lane's receiver does as it is lost and as it comes back (R92, R104), what the lane code corrects (R362), recalibration (R114), and the calibration store's images (R125, R127). -/
namespace Sys2Proof.Machine
open Sys2Proof

/-! ### A lane that is lost, and one that rejoins (R92, R115, R338) -/

/-- A port loses a receive lane: LANE_CTL OFF where lane degrade was negotiated and another lane is active, otherwise a retrain with LANE_LOST. -/
def laneLost (p i : Nat) (s : State) : State :=
  let l := s.link p
  if !l.isUp || !l.rxact.getLsbD i then s
  else if s.cap p 5 && l.rxList.any (· != i) then rxLaneOff p i s
  else addPenalty 0 (p + i) (50 * 10 ^ 9) (retrain p 0x0D s)
/-! ### Codewords (R103, R104, R129) -/

/-- FECMAX over the last 1 ms: what a new codeword leaves of the log. -/
def noteFec (v : Lane) (t n : Nat) : Lane :=
  { v with fecLog := (t, n) :: v.fecLog.filter (fun e => decide (n < e.2) && decide (t < e.1 + 10 ^ 6)) }
/-- FECMAX as it reads at an instant. -/
def Lane.fecmax (v : Lane) (t : Nat) : Nat := maxOf ((v.fecLog.filter (fun e => decide (t < e.1 + 10 ^ 6))).map (·.2))
/-- The number of candidate boundaries: 2,720 symbol positions in either polarity. -/
def candidates : Nat := 5440
/-- A CTLE code that the receiver has settled on by itself: 0 to 40, not stated (R105, R107). -/
def settleCtle (l : Nat) (s : State) : State :=
  let (f, s) := takeFree s
  s.modLane l (fun v => { v with ctle := BitVec.ofNat 8 (f.toNat % 41) })
/-- A scan that measures the lane is disturbed (R118). -/
def disturbEye (l : Nat) (s : State) : State :=
  let c := l / 256
  if (s.eyeOf c).busy && (s.eyeOf c).scan == l then s.modEye c (fun e => { e with intr := true }) else s
/-- What the receiver makes of a codeword's symbols at its boundary and polarity: what it carries, the symbols corrected, and the scrambler's last bits. -/
def Lane.decode (v : Lane) (x : Symbols) : Content × Nat × BitVec 58 :=
  let (b, n, h) := decodeBits v.rxScr.toNat (rxBits (decide (2720 ≤ v.cand)) x)
  (contentOf b, n, BitVec.ofNat 58 h)
/-- The next candidate: one symbol on, and after all positions the other polarity. The last scrambled bits are those that precede its codeword. -/
def Lane.nextCand (v : Lane) (x : Symbols) : Lane :=
  let c := (v.cand + 1) % candidates
  { v with cand := c, run := 0, hist := 0, rxScr := BitVec.ofNat 58 (rxBits (decide (2720 ≤ c)) x >>> 5084) }
/-- A codeword at the candidate while the receiver hunts: 64 valid ones in a row are block lock. -/
def huntOne (l : Nat) (valid : Bool) (x : Symbols) (s : State) : State :=
  let v := s.lane l
  if !valid then s.modLane l (fun v => v.nextCand x)
  else
    let s := s.modLane l (fun v => { v with run := v.run + 1, hist := 0 })
    if v.run + 1 < 64 then s
    else
      rejoin l (settleCtle l (s.modLane l (fun v => { v with
        st := if v.st == .hunt then .locked else v.st, pol := decide (2720 ≤ v.cand), tuneAt := s.clk })))
/-- Block lock is lost: the receiver hunts again from its first candidate; a lane in use is lost. -/
def lockLost (l : Nat) (s : State) : State :=
  let s := disturbEye l (s.modLane l (fun v => { v with st := if v.st == .locked then .hunt else v.st, cand := 0, run := 0, hist := 0, done := false, passBad := true }))
  match s.portOfLane l with
  | none => s
  | some p =>
    if s.up p && (s.link p).rxact.getLsbD (l - p) then
      laneLost p (l - p) (addPenalty 0 l (20 * 10 ^ 9) (count (evNo 8 0x002 l) s))
    else if s.up p then s.modLane l (fun v => { v with st := if v.st == .hunt then .out else v.st })
    else if (s.link p).st == .down then s.modLane l (fun v => { v with st := if v.st == .hunt then .idle else v.st })
    else s
/-- A codeword of a recalibration pass whose tuning is done: 64 valid ones in a row, then each with at most 6 corrections (R115). -/
def Lane.notePass (v : Lane) (valid : Bool) (corrected : Nat) : Lane :=
  if v.st != .recal || !v.done then v
  else if v.passN < 64 then { v with passN := if valid then v.passN + 1 else 0 }
  else if valid && decide (corrected ≤ 6) then { v with passN := v.passN + 1 }
  else { v with passBad := true }
/-- A codeword on a lane that holds block lock: corrections, uncorrectable codewords and the 8 in 64 of R104. -/
def lockedOne (l : Nat) (valid : Bool) (corrected : Nat) (s : State) : State :=
  let s := s.modLane l (fun v => noteFec { (v.notePass valid corrected) with
    hist := (v.hist <<< 1) ||| (if valid then 0 else 1), corrSum := v.corrSum + (if valid then corrected else 16), corrN := v.corrN + 1 }
    s.clk (if valid then corrected else 255))
  let s := if !valid then addPenalty 0 l (10 ^ 9) (count (evNo 8 0x001 l) s)
    else if 9 ≤ corrected then addPenalty 0 l (10 ^ 6) (count (evNo 8 0x000 l) s)
    else s
  if decide (8 ≤ popcount (s.lane l).hist.toNat 64) then lockLost l s else s
/-- The retained state is dropped: the lane hunts from its start point, or stays idle while its port is DOWN. -/
def dropRetained (l : Nat) (s : State) : State :=
  let s := s.modLane l (fun v => { v with retain := false, exit := none, run := 0, cand := 0, hist := 0 })
  match s.portOfLane l with
  | none => s
  | some p =>
    if (s.link p).st == .lock && s.ringsLocked l then laneLock l (s.modLane l (fun v => { v with st := .idle }))
    else s.modLane l (fun v => { v with st := if s.up p then .out else .idle })
/-- One of the first codewords after a burst, at the retained boundary: the first valid one locks the lane, any invalid one of the first 8 drops the retained state (R113). -/
def exitOne (l n : Nat) (valid : Bool) (s : State) : State :=
  if !valid then dropRetained l s
  else
    let up := match s.portOfLane l with | some p => s.up p | none => false
    let s := s.modLane l (fun v => { v with
      st := if v.st == .idle then (if up then .out else .locked) else v.st, run := 64, hist := 0, retain := n + 1 < 8, exit := if n + 1 < 8 then some (n + 1) else none })
    if n == 0 then rejoin l (s.modLane l (fun v => { v with tuneAt := s.clk })) else s
/-- A codeword's time on a lane: its symbols, or no signal. What it carries is for the caller, where the receiver held lock as it came. -/
def takeCodeword (l : Nat) (x : Option Symbols) (s : State) : Content × State :=
  let v := s.lane l
  match x with
  | none =>
    let s := s.modLane l (fun v => { v with sigdet := false })
    (.invalid, if v.exit.isSome then dropRetained l s else if v.hasLock && !v.retain then lockedOne l false 0 s else s.modLane l (fun v => { v with run := 0 }))
  | some x =>
    let (c, n, h) := v.decode x
    let valid := c != .invalid
    let s := s.modLane l (fun v => { v with sigdet := true, rxScr := h })
    match v.exit with
    | some k => (if valid then c else .other, exitOne l k valid s)
    | none =>
      if v.retain || v.st == .off || v.st == .retired then (.other, s)
      else if v.hasLock then (c, lockedOne l valid n s)
      else (.other, if v.st == .idle then s else huntOne l valid x s)

/-! ### Equalisation (R108, R109) -/

/-- The main tap (R106). -/
def mainTap (t : Taps) : Int := 64 - (((signed 8 t.cm2.toNat).natAbs + (signed 8 t.cm1.toNat).natAbs + (signed 8 t.c1.toNat).natAbs + (signed 8 t.c2.toNat).natAbs : Nat) : Int)
/-- The tap of each request field, its range, and how it is written: 0 c-2, 1 c-1, 2 c1, 3 c2. -/
def tapOf (t : Taps) : Nat → Int
  | 0 => signed 8 t.cm2.toNat
  | 1 => signed 8 t.cm1.toNat
  | 2 => signed 8 t.c1.toNat
  | _ => signed 8 t.c2.toNat
def setTap (t : Taps) (i : Nat) (v : Int) : Taps :=
  let b := BitVec.ofInt 8 v
  match i with
  | 0 => { t with cm2 := b }
  | 1 => { t with cm1 := b }
  | 2 => { t with c1 := b }
  | _ => { t with c2 := b }
def tapRange : Nat → Int × Int
  | 0 => (0, 6)
  | 1 => (-20, 0)
  | 2 => (-24, 0)
  | _ => (-6, 0)
/-- One field of REQ: the taps it leaves, and its STAT. A step refused because c0 would fall below 32 is reported as the limit in its own direction: the spec says only that STAT reports the limit (log entry 88). -/
def applyTap (t : Taps) (i req : Nat) : Taps × Nat :=
  if req == 1 || req == 2 then
    let v := if req == 1 then tapOf t i + 1 else tapOf t i - 1
    let n := setTap t i v
    let r := tapRange i
    if v < r.1 ∨ r.2 < v ∨ mainTap n < 32 then (t, if req == 1 then 3 else 2) else (n, 1)
  else (t, 0)
/-- The four fields of a REQ, and the STAT byte. -/
def applyReq (t : Taps) (req : Nat) : Taps × Nat :=
  [0, 1, 2, 3].foldl (fun a i => let (t, st) := applyTap a.1 i (fld req (2 * i) 2); (t, a.2 + st * 2 ^ (2 * i))) (t, 0)
/-- The lane answers EQ requests: in LOCK, or while its partner's receiver has turned it off (R107, R110). -/
def State.answersEq (s : State) (l : Nat) : Bool :=
  match s.portOfLane l with
  | none => false
  | some p => (s.lane l).st != .retired && ((s.link p).st == .lock || ((s.link p).isUp && !(s.link p).txact.getLsbD (l - p)))
/-- The partner's answer to the request that waits for its echo: the steps it made, and the count of corrections begins again. -/
def takeEcho (l block : Nat) (s : State) : State :=
  s.modLane l (fun v =>
    if !v.awaiting || fld block 14 4 != v.rseq.toNat then v
    else
      let step := fun (t : Taps) (i : Nat) =>
        if fld block (26 + 2 * i) 2 == 1 then setTap t i (tapOf t i + (if fld v.req.toNat (2 * i) 2 == 1 then 1 else -1)) else t
      { v with awaiting := false, pTaps := (List.range 4).foldl step v.pTaps, corrSum := 0, corrN := 0 })
/-- An EQ block received: the partner's DONE and its answer; where this side answers requests, PRESET first and then the request, if its RSEQ is a new one. Of PRESET with a request in one block, and of the STAT of a repeated RSEQ, the spec says nothing: log entry 88. -/
def takeEq (l block : Nat) (s : State) : State :=
  let s := takeEcho l block (s.modLane l (fun v => { v with pDone := v.pDone || bitAt block 8 }))
  if !s.answersEq l then s
  else
    s.modLane l (fun v =>
      let v := if bitAt block 9 then { v with taps := v.start } else v
      let rseq := BitVec.ofNat 4 (fld block 10 4)
      if v.applied && v.aecho == rseq then v
      else
        let (t, st) := applyReq v.taps (fld block 18 8)
        { v with taps := t, aecho := rseq, applied := true, stat := BitVec.ofNat 8 st })
/-- The receiver stops requesting and sets DONE: 16 requests in a row have failed, or 1 s has passed. -/
def tuneEnd (l : Nat) (s : State) : State :=
  let v := s.lane l
  if v.done || !v.hasLock || !(v.st == .locked || v.st == .out || v.st == .recal) then s
  else if v.fails < 16 && s.clk - v.tuneAt < 10 ^ 9 then s
  else s.modLane l (fun v => { v with done := true, awaiting := false, passN := 0 })

/-! ### Electrical idle (R112, R113) -/

/-- An idle-entry codeword on a lane that holds lock: boundary, polarity, equalisers and the knowledge of the partner's taps are kept; an idle lane carries nothing, so a port that reads it stops reading it. -/
def idleEnter (l : Nat) (s : State) : State :=
  let s := disturbEye l (s.modLane l (fun v => { v with retain := true, exit := none, kept := v.cand, idleAt := s.clk, sigdet := false, run := 0, hist := 0 }))
  match s.portOfLane l with
  | some p =>
    let s := if s.up p then laneLost p (l - p) s else s
    s.modLane l (fun v => { v with st := if v.st == .retired then .retired else if s.up p && v.st != .locked then v.st else .idle })
  | none => s
/-- The retained state is 1 s old: it is dropped. -/
def retainExpire (l : Nat) (s : State) : State :=
  let v := s.lane l
  if !v.retain || v.exit.isSome || s.clk - v.idleAt < 10 ^ 9 then s
  else
    let s := s.modLane l (fun v => { v with retain := false })
    match s.portOfLane l with
    | some p => if (s.link p).st == .lock && v.st == .idle && s.ringsLocked l then laneLock l s else s
    | none => s
/-- The partner's burst has ended at a codeword boundary: with retained state the lane waits for the first codeword at it, without it a lane of a port in LOCK hunts on. -/
def idleExit (l : Nat) (s : State) : State :=
  let v := s.lane l
  if v.st == .off || v.st == .retired then s
  else s.modLane l (fun v => { v with sigdet := true, exit := if v.retain then some 0 else none, cand := if v.retain then v.kept else v.cand })

/-! ### Recalibration (R114 to R116) -/

/-- Case B of R114. -/
def State.caseB (s : State) (p : Nat) : Bool :=
  s.bundle p != 0 && (s.bundlePorts (s.bundle p)).any (fun q => q != p && s.up q)
def setRecal (l : Nat) (r : RecalResult) (s : State) : State := s.modLane l (fun v => { v with recal := r })
/-- The outcome of a request, as a refusal; none = accepted. -/
def recalRefusal (s : State) (p l : Nat) : Option RecalResult :=
  let q := s.pathOf l
  if (s.lanesOf p).any (fun k => (s.lane k).recal == .running) then some .inProgress
  else if !s.up p then some .notUp
  else if (q.map (fun q => (s.path q).calres == .running)).getD false then some .inProgress
  else if (s.lane l).st == .retired || s.inFly l || !(s.caseA p (l - p) || s.caseB p) then some .busyInService
  else none
/-- The request: case A takes the lane out with LANE_CTL OFF, case B retrains the port. -/
def requestRecal (l : Nat) (s : State) : State :=
  match s.portOfLane l with
  | none => setRecal l .notUp s
  | some p =>
    match recalRefusal s p l with
    | some r => if (s.lane l).recal == .running then s else setRecal l r s
    | none =>
      let s := disturbEye l s
      if s.caseA p (l - p) then
        let s := s.modLane l (fun v => { v with recal := .running, passes := 0, parked := false })
        if (s.link p).rxact.getLsbD (l - p) || (s.link p).laneCtl.any (fun c => c.on && (s.link p).laneFor c.idx.toNat == l - p) then rxLaneOff p (l - p) s
        else if (s.link p).laneCtl.any (fun c => !c.on && (s.link p).laneFor c.idx.toNat == l - p) then s
        else startRecal l s
      else startTraining p ((portDown p 0 0 s).modLane l (fun v => { v with recal := .running, passes := 0 }))
/-- A pass has met R115: block lock, tuning done, 64 valid codewords, and 100,000 more with at most 6 corrections each. -/
def Lane.passMet (v : Lane) : Bool := v.hasLock && v.done && !v.passBad && decide (100064 ≤ v.passN)
/-- A pass ends, where its codewords or its 200 ms have decided it: LANE_CTL ON, another pass, or FAILED. -/
def passEnd (l : Nat) (s : State) : State :=
  let v := s.lane l
  if v.recal != .running || v.st != .recal then s
  else if v.passMet then
    let s := settleCtle l (s.modLane l (fun v => { v with passes := v.passes + 1, st := .out }))
    match s.portOfLane l with
    | some p => rxLaneOn p (l - p) s
    | none => s
  else if v.passBad || 200 * 10 ^ 6 ≤ s.clk - v.passAt then
    let s := s.modLane l (fun v => { v with passes := v.passes + 1 })
    let s := if v.passes == 2 then s.modLane l (fun v => { v with recal := .failed, st := .out, parked := true }) else startRecal l s
    addPenalty 0 l (100 * 10 ^ 9) s
  else s

/-! ### The calibration store (R125 to R127) -/

def calLaneOff : Nat := 64
def calOptOff : Nat := 64 + 32768
def calThermOff : Nat := 64 + 32768 + 49152
def calTotal : Nat := calThermOff + 512
/-- A header over a body that begins at byte 64. -/
def calHeader (writes devid time : Nat) (body : List Byte) : List Byte :=
  toLE 4 0x43414C53 ++ toLE 2 1 ++ toLE 2 writes ++ toLE 8 devid ++ toLE 8 time ++ toLE 4 calLaneOff ++ toLE 4 calOptOff ++ toLE 4 calThermOff
    ++ zeros 24 ++ toLE 4 (crc32c body)
/-- A lane's record as it is now adapted, with the eye height measured. -/
def laneCal (v : Lane) (margin : List Byte) : List Byte :=
  [v.ctle, 1, v.taps.cm2, v.taps.cm1, v.taps.c1, v.taps.c2] ++ fit 2 margin ++ zeros 8
/-- A path's record as its loops now stand (R349). -/
def optCalRec (o : OPath) : List Byte :=
  ([o.txheat, o.rxheat, o.lbias, o.ltune, o.las, o.mod, o.launch, o.rxin]).flatMap (fun w => toLE 2 w.toNat) ++ [1] ++ zeros 7
/-- The image that CAL_CAPTURE builds; `adapted` gives the eye height of each lane. -/
def captureImage (s : State) (adapted : List (Nat × List Byte)) : List Byte :=
  let b := s.nv.cal
  let ok := calValid b
  let old := fun (off n : Nat) => if ok then slice b off n else zeros n
  let lanes := (List.range 2048).flatMap (fun l =>
    let was := old (u32At b 24 + 16 * l) 16
    if (s.lane l).st == .locked && (s.lane l).hasLock then
      laneCal (s.lane l) (match adapted.find? (fun e => e.1 == l) with | some e => e.2 | none => slice was 6 2)
    else was)
  let opts := (List.range 2048).flatMap (fun q =>
    let o := s.path q
    if o.txst == .locked && o.rxst == .locked then optCalRec o else old (u32At b 28 + 24 * q) 24)
  let therm := old (u32At b 32) 512
  let body := lanes ++ opts ++ therm
  calHeader (if ok then u16At b 6 else 0) s.nv.devid.toNat s.now body ++ body
/-- The length that an image's header gives it. -/
def calLength (b : List Byte) : Nat := max (u32At b 24 + 32768) (max (u32At b 28 + 49152) (u32At b 32 + 512))

end Sys2Proof.Machine
end

