-- ==== Sys2Proof/Machine/TmbOps.lean ====
section
/-! DEFINITION. The time base's lock logic and the Block ring (R185 to R195): lock states, offsets, slews and steps, ring messages, elections; and the validation of a timetable image (R196 to R200). -/
namespace Sys2Proof.Machine
open Sys2Proof

/-! ### Admission and lock (R186, R202) -/

/-- ADMIT as it now stands; its fall sets ADMITOFF. -/
def settleAdmit (s : State) : State :=
  let a := s.admitOn
  let s := if s.tmb.admOn && !a then raiseTmb 2 s else s
  { s with tmb.admOn := a }
/-- The source is lost while LOCKED: HOLDOVER. -/
def enterHoldover (s : State) : State :=
  let s := { s with tmb.good := 0 }
  if s.tmb.lock == .locked then settleAdmit (raiseTmb 1 { s with tmb.lock := .holdover, tmb.holdSince := s.clk }) else s
/-- TMB_OFFSET.PS: an offset in 2^-16 ns, in ps, saturating. -/
def offsetPs (o : Int) : Word :=
  let ps := o * 1000 / 65536
  BitVec.ofInt 32 (max (-2147483648) (min 2147483647 ps))
/-- The time base set forward or back by an offset in 2^-16 ns. -/
def shiftTime (o : Int) (s : State) : State := { s with tmb.tb := ((s.tmb.tb : Int) + o).toNat }
/-- One sample within 1 ns, or not, of the source; `need` in a row give LOCKED. -/
def lockSample (o : Int) (need : Nat) (s : State) : State :=
  let g := if o.natAbs ≤ 65536 then s.tmb.good + 1 else 0
  let s := { s with tmb.good := g }
  if need ≤ g then { s with tmb.lock := .locked } else s
/-- The Block as a member sees it (R191, R195, TMB_STATUS.BLK). -/
def State.syncLive (s : State) (r : RingLane) : Bool :=
  match r.syncAt with | some t => decide (s.clk - t ≤ 100000) | none => false
def State.blkNow (s : State) : BlkState :=
  if !s.inBlock then .none
  else if s.plt.plat.time.rttMax.toNat * 1000 < s.tmb.rtt.toNat then .rttExceeded
  else if s.tmb.term != 0 && s.tmb.lock == .locked then
    if s.tmb.master then (if s.tmb.blk == .broken then .broken else .joined)
    else if s.syncLive s.tmb.ring0 && s.syncLive s.tmb.ring1 then .joined else .broken
  else if s.tmb.lock == .holdover && (s.tmb.blk == .joined || s.tmb.blk == .broken) then s.tmb.blk
  else .forming
def settleBlk (s : State) : State := { s with tmb.blk := s.blkNow }
/-- A sample of the offset to a source: the first steps the time base, and `need` in a row within 1 ns lock it. -/
def sample (o : Int) (need : Nat) (s : State) : State :=
  settleBlk (settleAdmit (lockSample o need (if s.tmb.lock == .free then { s with tmb.lock := .acquiring } else s)))
/-- A step of R193: ADMIT is 0 for the 1 ms after it. -/
def stepTime (o : Int) (s : State) : State :=
  { (shiftTime o s) with tmb.stepAt := some s.clk, tmb.offsets := [], tmb.good := 0, tmb.owed := 0, tmb.stepped := true }
/-- A slew: the rate makes the correction as time passes, in place of what was left of the one before. -/
def slewTime (o : Int) (s : State) : State := { s with tmb.owed := o }

/-! ### Ring messages (R189, R192) -/

/-- The common eight bytes. -/
def ringHead (s : State) (hops : Nat) : List Byte := toLE 2 s.plt.plat.time.blockId.toNat ++ toLE 2 s.tmb.term.toNat ++ toLE 1 hops ++ zeros 3
def msgTerm (b : List Byte) : Nat := u16At b 2
def msgHops (b : List Byte) : Nat := u8At b 4
/-- Sends a message with its K28.1 inside, at this instant. -/
def sendMarked (west : Bool) (type : Nat) (body : List Byte) (hops : Nat) (s : State) : State :=
  if s.inBlock then sendSvc (s.ringLane west) type (ringHead s hops ++ body) true s else s
def sendBoth (type : Nat) (body : List Byte) (s : State) : State :=
  sendRing true type (ringHead s 0 ++ body) (sendRing false type (ringHead s 0 ++ body) s)
/-- The message goes on out of the other lane, with HOPS one higher. -/
def forwardRing (lane : Fin 2) (type : Nat) (b : List Byte) (own : Bool) (s : State) : State :=
  if own || msgHops b == 255 then s else sendRing (!isWest lane) type (overlay b 4 (toLE 1 (msgHops b + 1))) s
/-- A Block message that carries this device's BLOCK_ID is taken, and its term is one that the device has seen; another is discarded and counted. -/
def blockMsg (b : List Byte) (f : State → State) (s : State) : State :=
  if !s.inBlock then s
  else if u16At b 0 != s.plt.plat.time.blockId.toNat then countX xfBlockId 0 { s with tmb.blk := .idMismatch }
  else f { s with tmb.topTerm := BitVec.ofNat 16 (max s.tmb.topTerm.toNat (msgTerm b)) }
def State.ring (s : State) (lane : Fin 2) : RingLane := if isWest lane then s.tmb.ring1 else s.tmb.ring0
def State.setRing (s : State) (lane : Fin 2) (r : RingLane) : State :=
  if isWest lane then { s with tmb.ring1 := r } else { s with tmb.ring0 := r }
/-- The arrival of the marker inside the message just received on a ring lane, in 2^-16 ns. -/
def State.markerAt (s : State) (lane : Fin 2) : Nat := (s.svcLane (s.ringLane (isWest lane))).marker

/-! ### Election (R190) -/

def State.candidate (s : State) : Bool := s.plt.plat.time.role == 2
/-- TIME_IN locked. -/
def State.timeInLocked (s : State) : Bool := s.plt.plat.time.source == 1 && s.tmb.lock == .locked
/-- The key (locked, priority, DEVID) a is better than b. -/
def betterKey (a b : Bool × Nat × Nat) : Bool :=
  if a.1 != b.1 then a.1
  else if a.2.1 != b.2.1 then decide (b.2.1 < a.2.1)
  else decide (a.2.2 < b.2.2)
def State.ownKey (s : State) : Bool × Nat × Nat := (s.timeInLocked, s.plt.plat.time.priority.toNat, s.nv.devid.toNat)
def electBody (s : State) : List Byte := toLE 1 (b2n s.timeInLocked) ++ toLE 1 s.plt.plat.time.priority.toNat ++ zeros 6 ++ toLE 8 s.nv.devid.toNat
/-- ANNOUNCE on both lanes. How a master counts its members is not stated. -/
def sendAnnounce (s : State) : State :=
  let (f, s) := takeFree s
  let m := f.toNat % 81
  let s := { s with tmb.members := BitVec.ofNat 8 m }
  sendBoth 0x21 (toLE 8 s.nv.devid.toNat ++ toLE 4 s.tmb.rtt.toNat ++ toLE 1 m ++ zeros 3) s
/-- A candidate that is not master looks for better keys. -/
def startElection (s : State) : State :=
  if s.candidate && !s.tmb.master && s.tmb.electing.isNone then { s with tmb.electing := some s.clk } else s

/-! ### Timetable images (R197, R198, R200) -/

def ttRows : Nat := 4113
def ttHead : Nat := 64 + 8 * ttRows
def rawEntry (b : List Byte) (i : Nat) : Nat × Nat × Nat × Nat :=
  let o := ttHead + 16 * i
  (u32At b o, u32At b (o + 4), u32At b (o + 8), u32At b (o + 12))
def entryOfRaw (w : Nat × Nat × Nat × Nat) : TtEntry :=
  { job := BitVec.ofNat 20 (fld w.1 12 20), cls := bitAt w.1 11, src := BitVec.ofNat 11 w.1, srctype := BitVec.ofNat 2 (fld w.2.1 30 2),
    start := fld w.2.1 0 20, count := fld w.2.2.1 0 21, budget := fld w.2.2.2 0 20 }
/-- The rules of one entry: its zero fields, START, COUNT, and what it names. -/
def entryOk (s : State) (period : Nat) (w : Nat × Nat × Nat × Nat) : Bool :=
  let e := entryOfRaw w
  fld w.2.1 20 10 == 0 && fld w.2.2.1 21 11 == 0 && fld w.2.2.2 20 12 == 0
    && decide (e.start < period) && decide (1 ≤ e.count) && decide (e.count ≤ period - e.start)
    && (match e.srctype.toNat with
        | 0 => s.portBuilt e.src.toNat
        | 1 => e.src != 0 && !(s.bundlePorts e.src.toNat).isEmpty
        | 2 => decide (e.src.toNat < 16) && s.dist e.src.toNat != .off
        | _ => true)
def sameFlow (a b : TtEntry) : Bool := a.job == b.job && a.cls == b.cls && a.srctype == b.srctype && a.src == b.src
/-- Sorted by START, and entries of one flow do not overlap. -/
def rowSorted : List TtEntry → Bool
  | [] => true
  | e :: r => r.all (fun f => decide (e.start ≤ f.start) && (!sameFlow e f || decide (e.start + e.count ≤ f.start))) && rowSorted r
/-- What a row names is built. -/
def rowNamed (s : State) (r : Nat) : Bool :=
  if r < 2048 then s.portBuilt r
  else if r == 2048 then false
  else if r < 4096 then !(s.bundlePorts (r - 2048)).isEmpty
  else if r < 4112 then s.dist (r - 4096) != .off
  else true
def Timetable.rowEntries (t : Timetable) (r : Nat) : List TtEntry :=
  let (f, c) := tget (0, 0) t.dir r
  (t.entries.drop f).take c
/-- Four times a row's capacity in bytes for one slot; none where the row is not checked. -/
def rowCap4 (s : State) (lanes : Nat → Nat) (len r : Nat) : Option Nat :=
  let one := fun (p : Nat) => (100 - s.plt.plat.ushare.toNat) * lanes p * len
  if r < 2048 then some (one r)
  else if r < 4096 then some (sumOf ((s.bundlePorts (r - 2048)).map one))
  else if r < 4112 then some (4 * 3200 * len)
  else none
/-- The byte budgets of a row fit in every slot; the sum over a slot is largest where some entry starts. -/
def rowFits (s : State) (lanes : Nat → Nat) (t : Timetable) (r : Nat) : Bool :=
  match rowCap4 s lanes t.len r with
  | none => true
  | some cap =>
    let es := t.rowEntries r
    es.all (fun e => decide (4 * 64 * sumOf ((es.filter (fun f => decide (f.start ≤ e.start) && decide (e.start < f.start + f.count))).map (·.budget)) ≤ cap))
/-- The image that staged bytes spell, or the code of the first failure (R200). Of an image that is not staged whole, the CRC covers what is there. -/
def ttParse (s : State) (b : List Byte) : Except Nat Timetable :=
  let n := u32At b 12
  let size := ttHead + 16 * n
  if b.length < 64 || u32At b 0 != 0x54544247 || u16At b 4 != 1 then .error 1
  else if crc32c (b.take 60 ++ (b.take size).drop 64) != u32At b 60 then .error 1
  else if 1048576 < n || b.length < size then .error 2
  else
    let sc := u16At b 6
    let period := u32At b 8
    if sc < 1 || 256 < sc || period < 1 || 1048576 < period then .error 3
    else
      let dir := (List.range ttRows).foldl (fun d r =>
        let c := u32At b (64 + 8 * r + 4)
        if c == 0 then d else tset (0, 0) d r (u32At b (64 + 8 * r), c)) ([] : Tab (Nat × Nat))
      let raw := (List.range n).map (rawEntry b)
      let t : Timetable := { slotcode := sc, period := period, ttid := BitVec.ofNat 32 (u32At b 16), generation := BitVec.ofNat 64 (u64At b 24),
                             dir := dir, entries := raw.map entryOfRaw, t0 := 0 }
      if !(raw.all (entryOk s period) && dir.all (fun e => rowNamed s e.1 && decide (e.2.1 + e.2.2 ≤ n)
            && rowSorted (t.rowEntries e.1))) then .error 4
      else if !(dir.all (fun e => rowFits s s.width t e.1)) then .error 5
      else .ok t

end Sys2Proof.Machine
end

