-- ==== Sys2Proof/Machine/Optics.lean ====
section
/-! DEFINITION. The commands of the optical engines and the flyovers (13_optical.md). -/
namespace Sys2Proof.Machine
open Sys2Proof

/-! ### Paths and lanes -/

/-- The paths that the plat names on an engine. -/
def State.namedPaths (s : State) (e : Nat) : List Nat :=
  (s.plt.plat.opt.filter (fun o => !o.2.elec && o.2.oe.toNat == e)).map (fun o => o.2.path)
/-- The plat marks the engine PRESENT. -/
def State.engPresent (s : State) (e : Nat) : Bool := (tget OptEng.none s.plt.plat.eng e).present
def State.engLost (s : State) (p : Nat) : Bool := (s.engine (p / 64)).st == .lost
/-- The rings of a path are LOCKED: its lane enters LOCK with a port that trains, or asks to rejoin one that is up (R334, R338). -/
def ringsReady (p : Nat) (s : State) : State :=
  match s.laneOfPath p with
  | none => s
  | some l =>
    if !s.ringsLocked l then s
    else
      match s.portOfLane l with
      | none => s
      | some port => if (s.link port).st == .lock && (s.lane l).st == .idle then laneLock l s else rejoin l s

/-! ### Engine messages (R329 to R332) -/

/-- The loops of a path start (R334): the laser, then the modulator ring, then the drop ring. -/
def lightPath (p : Nat) (s : State) : State :=
  if (s.path p).txst == .retired then s
  else sweepRx p (sweepTx p (sendLoop p 0 1 none (sendPathSet p s)))
def takeEngHello (e : Nat) (b : List Byte) (s : State) : State :=
  if !s.engPresent e then s
  else
    let fitted := u64At b 12
    let paths := s.namedPaths e
    let s := s.modEngine e (fun g => { g with devid := BitVec.ofNat 64 (u64At b 0), version := BitVec.ofNat 32 (u32At b 8), fitted := BitVec.ofNat 64 fitted, cmds := [], statusAt := s.clk })
    if paths.any (fun p => !bitAt fitted (p % 64)) then
      let s := raiseOpt 4 (s.modEngine e (fun g => { g with st := .mismatch }))
      forEach paths (fun p s => s.modPath p (fun o => if o.txst == .retired then o else { o with txst := .off, rxst := .off })) s
    else
      let r := tget OptEng.none s.plt.plat.eng e
      let s := sendEng e 0x81 ([r.hgain, r.lgain] ++ zeros 6) none (s.modEngine e (fun g => { g with st := .up }))
      forEach paths lightPath s
def execEngHello (lane : EngLane) (codes : List Code) (s : State) : Out :=
  .next (onEngine lane.e lane.second 0x80 codes (fun m => takeEngHello lane.e.val m.payload) s)
/-- An ACK completes the command; a crossing connected for a flyover is noted (R344). -/
def takeAckOf (e : Nat) (seq stat : Byte) (s : State) : State :=
  match (s.engine e).cmds.find? (fun c => c.seq == seq) with
  | none => s
  | some c =>
    let s := s.modEngine e (fun g => { g with cmds := g.cmds.filter (fun c => c.seq != seq) })
    match c.fly with
    | some n => if c.type == 0x86 && u8At c.payload 2 == 1 && stat == 0 then s.modFly n (fun f => { f with crossed := f.crossed + 1 }) else s
    | none => s
def execEngineAck (e : Fin 32) (second : Bool) (codes : List Code) (s : State) : Out :=
  .next (onEngine e second 0x8F codes (fun m => takeAckOf e.val m.seq (BitVec.ofNat 8 (u8At m.payload 0))) s)
def keepaliveAll (s : State) : State :=
  forEach ((List.range 32).filter s.engPresent) (fun e s =>
    (sendEngRaw e 0x84 (s.engine e).seq (toLE 8 s.now) s).modEngine e (fun g => { g with seq := g.seq + 1 })) s
def execKeepalive (dt : Nat) (s : State) : Out := .next (keepaliveAll (elapse dt s))
/-- Commands unacknowledged for 200 µs are sent again, four times in all. -/
def retryEng (e : Nat) (s : State) : State :=
  let due := fun (c : EngCmd) => decide (200000 ≤ s.clk - c.at_)
  let again := (s.engine e).cmds.filter (fun c => due c && decide (c.sends < 4))
  let s := s.modEngine e (fun g => { g with cmds := (g.cmds.filter (fun c => !due c || decide (c.sends < 4))).map (fun c => if due c then { c with sends := c.sends + 1, at_ := s.clk } else c) })
  forEach again (fun c s => sendEngRaw e c.type.toNat c.seq c.payload s) s
def execEngineCmdRetry (dt : Nat) (e : Fin 32) (s : State) : Out := .next (retryEng e.val (elapse dt s))
def loseEngine (e : Nat) (s : State) : State :=
  let g := s.engine e
  if g.st == .up && decide (10 ^ 7 ≤ s.clk - g.statusAt) then raiseOpt 4 (s.modEngine e (fun g => { g with st := .lost })) else s
def execEngineLost (dt : Nat) (e : Fin 32) (s : State) : Out := .next (loseEngine e.val (elapse dt s))
def retryDrop (p : Nat) (s : State) : State :=
  match (s.path p).dark with
  | some t => if (s.path p).rxst == .sweep && !s.engLost p && decide (10 ^ 9 ≤ s.clk - t) then sweepRx p s else s
  | none => s
def execDropRingRetry (dt : Nat) (path : Fin 2048) (s : State) : Out := .next (retryDrop path.val (elapse dt s))

/-! ### STATUS: monitors, identities, loss classes (R330, R335, R340) -/

/-- A monitor reading in 0.01 dBm; none where there is none. -/
def dbm (w : Half) : Option Int := if w == 0x8000 then none else some (signed 16 w.toNat)
/-- a < b, where both are readings. -/
def below (a : Option Int) (b : Int) : Bool := match a with | some x => decide (x < b) | none => false
/-- a - b, where both are readings. -/
def drop2 (a b : Half) : Option Int := match dbm a, dbm b with | some x, some y => some (x - y) | _, _ => none
def above (a : Option Int) (b : Int) : Bool := match a with | some x => decide (b < x) | none => false
/-- A ring's element is at work on its own light. -/
def RingState.lit (r : RingState) : Bool := r != .off && r != .retired && r != .fly
structure Nominal where
  las : Int
  mod : Int
  launch : Int
  rxin : Int
def State.nominal (s : State) (p : Nat) : Option Nominal :=
  (s.optRec p).map (fun r => ⟨signed 16 (u16At r 8), signed 16 (u16At r 10), signed 16 (u16At r 12), signed 16 (u16At r 14)⟩)
def State.deltaOf (s : State) : Int := ((s.opt.delta.toNat : Nat) : Int)
def launchBad (s : State) (p : Nat) : Bool :=
  match s.nominal p with
  | some n => above (drop2 (s.path p).mod (s.path p).launch) (n.mod - n.launch + s.deltaOf)
  | none => false
def rxBad (s : State) (p : Nat) : Bool :=
  match s.nominal p with
  | some n => below (dbm (s.path p).rxin) (n.rxin - s.deltaOf)
  | none => false
/-- The lit, classified paths of the fibre of a path. -/
def fibrePaths (s : State) (p : Nat) (rx : Bool) : List Nat :=
  (rangeFrom (p / 8 * 8) 8).filter (fun q =>
    (s.laneOfPath q).isSome && (s.nominal q).isSome && (if rx then (s.path q).rxst.lit else (s.path q).txst.lit))
def txClass (s : State) (p : Nat) : LossClass :=
  match s.nominal p with
  | none => .none
  | some n =>
    let o := s.path p
    let fibre := fibrePaths s p false
    if below (dbm o.las) (n.las - s.deltaOf) then .laser
    else if above (drop2 o.las o.mod) (n.las - n.mod + s.deltaOf) then .modulator
    else if 2 ≤ fibre.length && fibre.all (launchBad s) then .launchFibre
    else if launchBad s p then .launch
    else .none
def rxClass (s : State) (p : Nat) : LossClass :=
  let fibre := fibrePaths s p true
  if !(s.nominal p).isSome then .none
  else if 2 ≤ fibre.length && fibre.all (rxBad s) then .rxFibre
  else if rxBad s p then .rxChannel
  else .none
/-- One sample of a class: a class that ten in a row meet is set, and one that ten in a row do not meet is cleared. The answer: the sample's class and how many in a row gave it, how many in a row have not met the class set, and the class set. -/
def classStep (cand : LossClass) (run miss : Nat) (cur new : LossClass) : LossClass × Nat × Nat × LossClass :=
  let n := if cand == new then run + 1 else 1
  let m := if new == cur then 0 else miss + 1
  if 10 ≤ n && new != cur then (new, n, 0, new)
  else if 10 ≤ m then (new, n, 0, .none)
  else (new, n, m, cur)
/-- Classifies a path; a class newly set costs 100, and each second it stays set 1 (R340, R362). -/
def classify (p : Nat) (s : State) : State :=
  let o := s.path p
  if o.txst == .fly then s
  else
    let (tc, tr, tm, tx) := classStep o.txCand o.txRun o.txMiss o.txloss (txClass s p)
    let (rc, rr, rm, rx) := classStep o.rxCand o.rxRun o.rxMiss o.rxloss (rxClass s p)
    let was := o.txloss != .none || o.rxloss != .none
    let is := tx != .none || rx != .none
    let secs := if was && is then (s.clk - o.lossAt) / 10 ^ 9 else 0
    let s := s.modPath p (fun o => { o with txCand := tc, txRun := tr, txMiss := tm, txloss := tx, rxCand := rc, rxRun := rr, rxMiss := rm, rxloss := rx,
                                            lossAt := if was then o.lossAt + secs * 10 ^ 9 else s.clk })
    let s := if tx == o.txloss && rx == o.rxloss then s else raiseOpt 2 s
    let set := (if tx != o.txloss && tx != .none then 1 else 0) + (if rx != o.rxloss && rx != .none then 1 else 0)
    let w := set * 100 + secs
    if w == 0 then s else addPenalty 3 p (w * 10 ^ 9) s
/-- The identity expected at the modulator ring's monitor: TX_ID, or in a flyover RX_ID of the other lane (R337, R344). -/
def State.txExpect (s : State) (p : Nat) : Half :=
  match (s.path p).fly with
  | some n =>
    let f := s.flyOf n.toNat
    let other := if s.pathOf f.laneA.toNat == some p then f.laneB.toNat else f.laneA.toNat
    (s.optLane other).rxId
  | none => (s.optLane ((s.laneOfPath p).getD 0)).txId
/-- A ring that sweeps tracks a resonance and verifies; a matching decode locks it. -/
def ringStep (st : RingState) (engine : Nat) (ok : Bool) : RingState :=
  let st : RingState := if st == .sweep && (engine == 2 || engine == 3) then .verify else st
  if st == .verify && ok then .locked else st
/-- The laser relocks, and both rings sweep from their present codes (R341, steps 2 and 3). -/
def calSweep (p : Nat) (s : State) : State :=
  let o := s.path p
  let s := pathSet p o.txheat.toNat o.rxheat.toNat o.lbias.toNat o.ltune.toNat s
  let s := sendLoop p 2 1 none (sendLoop p 1 1 none (sendLoop p 0 1 none s))
  s.modPath p (fun o => { o with calTrim := false, txEng := 1, rxEng := 1, txMatch := s.clk, rxMatch := s.clk })
/-- LAS cannot reach NLAS − DELTA: 50 ms of trimming have passed (R341). -/
def State.lasFails (s : State) (p : Nat) : Bool :=
  (s.path p).calTrim && decide (50 * 10 ^ 6 ≤ s.clk - (s.path p).calAt)
/-- Step 2 of R341 at a reading of LAS: once it reaches NLAS, or within DELTA after 50 ms, the laser relocks; until then its bias takes a further value, which is not stated. -/
def calTrimStep (p : Nat) (s : State) : State :=
  let o := s.path p
  match s.nominal p, dbm o.las with
  | some n, some las =>
    if n.las ≤ las || (s.lasFails p && decide (n.las - s.deltaOf ≤ las)) then calSweep p s
    else if s.lasFails p then s
    else
      let (f, s) := takeFree s
      pathSet p o.txheat.toNat o.rxheat.toNat (f.toNat % 65536) o.ltune.toNat s
  | _, _ => s
/-- The drop ring's light at a reading of RXIN: a sweep that has lost it is held and waits, one that awaited the first reading begins (R334). -/
def dropLight (p : Nat) (s : State) : State :=
  let o := s.path p
  if o.rxst != .sweep then s
  else if o.unread then (if o.rxin == 0x8000 then s else sweepRx p s)
  else if o.dark.isNone && !s.lit p then (sendLoop p 2 2 none s).modPath p (fun o => { o with dark := some s.clk })
  else s
/-- A ring that the engine reports in VERIFY or LOCKED, so that an identity is due of it. -/
def verifying (e : Nat) : Bool := e == 2 || e == 3
/-- One record of STATUS. -/
def takePathStatus (p : Nat) (r : List Byte) (s : State) : State :=
  match s.laneOfPath p with
  | none => s
  | some l =>
    let w := fun off => BitVec.ofNat 16 (u16At r off)
    let s := s.modPath p (fun o => { o with txheat := w 2, rxheat := w 4, las := w 6, mod := w 8, launch := w 10, rxin := w 12, txid := w 14, rxid := w 16 })
    let o := s.path p
    let e := u8At r 0
    let txOk := o.txid == s.txExpect p
    let rxOk := o.rxid == (s.optLane l).rxId
    let tx := ringStep o.txst (e / 16) txOk
    let rx := ringStep o.rxst (e % 16) rxOk
    -- the 0.2 s of R337 run from the instant a ring enters VERIFY
    let txNow := txOk || (verifying (e / 16) && !verifying o.txEng)
    let rxNow := rxOk || (verifying (e % 16) && !verifying o.rxEng)
    let swept := o.calres == .running && !o.calTrim
    let s := s.modPath p (fun o => { o with
      txst := tx, rxst := rx, txMatch := if txNow then s.clk else o.txMatch, rxMatch := if rxNow then s.clk else o.rxMatch,
      txEng := e / 16, rxEng := e % 16,
      calTx := o.calTx || (swept && verifying (e / 16) && txOk), calRx := o.calRx || (swept && verifying (e % 16) && rxOk),
      dark := if rx == .sweep then o.dark else none })
    let s := if tx != o.txst && tx == .locked && o.mislocks != 0 then sendLoop p 1 5 none s else s
    let s := if o.calres == .running && o.calTrim then calTrimStep p s else dropLight p s
    ringsReady p (classify p s)
/-- LAUNCH of a flyover below FLOOR for 1 ms ends it (R347). -/
def flyPower (n : Nat) (s : State) : State :=
  let f := s.flyOf n
  if !(f.st == .on || f.st == .offPending) then s
  else
    let (a, b) := s.flyPaths n
    let low := fun (p : Nat) => below (dbm (s.path p).launch) (signed 16 s.opt.floor.toNat)
    if low a || low b then
      match f.lowSince with
      | none => s.modFly n (fun f => { f with lowSince := some s.clk })
      | some t => if 10 ^ 6 ≤ s.clk - t then flyEnd n 3 true s else s
    else s.modFly n (fun f => { f with lowSince := none })
def takeStatus (e : Nat) (b : List Byte) (s : State) : State :=
  let g := s.engine e
  if !s.engPresent e || g.st == .absent || g.st == .waiting || g.st == .mismatch then s
  else
    let s := s.modEngine e (fun g => { g with st := .up, statusAt := s.clk })
    let s := forEach (List.range 64) (fun i s => takePathStatus (64 * e + i) (slice b (20 * i) 20) s) s
    let s := forEach (s.namedPaths e) (fun p s =>
      let s := if (s.path p).txst == .mislock then sweepTx p (sendPathSet p s) else s
      if (s.path p).rxst == .mislock then sweepRx p (sendPathSet p s) else s) s
    forEach ((s.opt.fly.map (·.1)).filter (fun n => (s.flyPaths n).1 / 64 == e)) flyPower s
def execEngineStatus (lane : EngLane) (codes : List Code) (s : State) : Out :=
  .next (onEngine lane.e lane.second 0x85 codes (fun m => takeStatus lane.e.val m.payload) s)

/-! ### Optical calibration (R341) -/

/-- A pass begins: the laser's bias is trimmed at each reading of LAS; a path without a valid record has no NLAS, and goes on to its sweeps. -/
def startPass (p : Nat) (s : State) : State :=
  let s := s.modPath p (fun o => { o with txst := .cal, rxst := .cal, txMatch := s.clk, rxMatch := s.clk, calAt := s.clk, calTrim := true, calTx := false, calRx := false })
  if (s.nominal p).isSome then s else calSweep p s
def setCalres (p : Nat) (r : CalRes) (s : State) : State := s.modPath p (fun o => { o with calres := r })
/-- The outcome of a request, as a refusal; none = accepted. -/
def optCalRefusal (s : State) (port l p : Nat) : Option CalRes :=
  if !(s.glb.state == .inService || s.glb.state == .quiesced) then some .notUp
  else if (rangeFrom (p / 64 * 64) 64).any (fun q => (s.path q).calres == .running) || s.inFly l
      || (s.lanesOf port).any (fun k => (s.lane k).recal == .running) then some .inProgress
  else if !s.up port then some .notUp
  else if s.engLost p then some .engine
  else if (s.lane l).st == .retired || !(s.caseA port (l - port) || s.caseB port) then some .busyInService
  else none
def requestOptCal (p : Nat) (s : State) : State :=
  match s.laneOfPath p with
  | none => s
  | some l =>
    match s.portOfLane l with
    | none => setCalres p .notUp s
    | some port =>
      match optCalRefusal s port l p with
      | some r => if (s.path p).calres == .running then s else setCalres p r s
      | none =>
        let start := fun (s : State) => startPass p (sendLoop p 1 4 none (s.modPath p (fun o => { o with calres := .running, calPass := 0 })))
        if s.caseA port (l - port) then
          start (if (s.link port).rxact.getLsbD (l - port) then rxLaneOff port (l - port) s else s)
        else startTraining port (start (portDown port 0 0 s))
def execOptCal (p : HPort) (path : Fin 2048) (s : State) : Out := .next (hostWrite p false (requestOptCal path.val) s)
/-- A pass succeeds: modulation resumes and the lane rejoins. -/
def passOk (p : Nat) (s : State) : State :=
  let s := s.modPath p (fun o => { o with calPass := o.calPass + 1, calres := .ok, txst := .locked, rxst := .locked, txMatch := s.clk, rxMatch := s.clk })
  ringsReady p (sendLoop p 1 5 none s)
/-- A pass fails: another pass, after the third FAILED, and with its engine LOST no further one (R331). -/
def passFails (p : Nat) (s : State) : State :=
  let n := (s.path p).calPass + 1
  let s := addPenalty 3 p (100 * 10 ^ 9) (s.modPath p (fun o => { o with calPass := n, calTrim := false }))
  if n < 3 then (if s.engLost p then sweepBoth p (setCalres p .engine s) else startPass p s)
  else
    let s := match s.laneOfPath p with | some l => s.modLane l (fun v => { v with parked := true }) | none => s
    sweepBoth p (setCalres p .failed s)
/-- A pass has ended once both rings have found their identity, and failed where LAS cannot reach NLAS − DELTA or 500 ms have passed (R341). -/
def optPassEnd (p : Nat) (s : State) : State :=
  let o := s.path p
  if o.calres != .running then s
  else if o.calTx && o.calRx then passOk p s
  else if s.lasFails p || decide (500 * 10 ^ 6 ≤ s.clk - o.calAt) then passFails p s
  else s
def execOptCalPassEnd (dt : Nat) (path : Fin 2048) (s : State) : Out := .next (optPassEnd path.val (elapse dt s))

/-! ### Mislock (R337 to R339, R348) -/

/-- The third mislock retires the lane. -/
def retireLane (p l : Nat) (s : State) : State :=
  let s := s.modPath p (fun o => { o with txst := .retired, rxst := .retired })
  let s := raiseOpt 1 (sendLoop p 1 0 none (sendLoop p 2 0 none s))
  let s := match s.portOfLane l with
    | none => s
    | some port =>
      let i := l - port
      let s := laneLost port i s
      let s := s.modLink port (fun k => { k with retired := setBit k.retired i true, txact := setBit k.txact i false })
      if (s.link port).isUp && (s.link port).txList.isEmpty then retrain port 0x0D s else s
  zeroScore 3 p (txIdle l (s.modLane l (fun v => { v with st := .retired })))
/-- The mislocked ring is swept anew; what its lane carried is muted or lost. -/
def mislockSweep (p l : Nat) (drop : Bool) (s : State) : State :=
  let s := match s.portOfLane l with
    | none => s
    | some port =>
      if drop then laneLost port (l - port) s
      else
        let s := sendLoop p 1 4 none s
        if s.up port && !s.cap port 5 then addPenalty 0 l (50 * 10 ^ 9) (retrain port 0x0D s) else s
  if s.engLost p then s.modPath p (fun o => if drop then { o with rxst := .mislock } else { o with txst := .mislock })
  else
    let s := sendPathSet p s
    if drop then sweepRx p s else sweepTx p s
/-- What OPT_MISLOG records of a mislock. -/
def mislogWord (drop : Bool) (seen : Half) (p : Nat) : Word := BitVec.ofNat 32 (b2n drop * 2 ^ 31 + seen.toNat * 2048 + p)
/-- A mislock: logged and counted; the lane leaves service, or is retired, and the ring sweeps again. -/
def mislocked (p l : Nat) (drop : Bool) (seen : Half) (s : State) : State :=
  let n := (s.path p).mislocks.toNat + 1
  let s := { (raiseOpt 0 (count (evNo 36 0x000 p) s)) with opt.mislog := mislogWord drop seen p }
  let s := s.modPath p (fun o => { o with mislocks := BitVec.ofNat 2 n })
  let s := if (s.lane l).recal == .running then s.modLane l (fun v => { v with recal := .aborted, st := if v.st == .recal then .out else v.st }) else s
  let s := s.modPath p (fun o => if drop then { o with rxst := .mislock } else { o with txst := .mislock })
  let s := if drop then
      flyEndAll (fun f => f.st == .switching && (f.laneA.toNat == l || f.laneB.toNat == l)) 8 s
    else s
  if 3 ≤ n then retireLane p l (if (s.path p).calres == .running then setCalres p .failed s else s)
  else
    let s := addPenalty 3 p (150 * 10 ^ 9) s
    if (s.path p).calres == .running then passFails p s
    else mislockSweep p l drop s
/-- A ring with no matching decode for 0.2 s. -/
def checkMislock (p : Nat) (drop : Bool) (seen : Half) (s : State) : State :=
  match s.laneOfPath p with
  | none => s
  | some l =>
    let o := s.path p
    let st := if drop then o.rxst else o.txst
    let late := decide (200000000 ≤ s.clk - (if drop then o.rxMatch else o.txMatch))
    let due := st == .verify || st == .locked
      || (st == .cal && !o.calTrim && verifying (if drop then o.rxEng else o.txEng))
    if !late then s
    else if due then mislocked p l drop seen s
    else if st == .fly && !drop then
      match o.fly with
      | some n => if (s.flyOf n.toNat).crossed < 2 then s else flyEnd n.toNat 4 true s
      | none => s
    else s
def execMislock (dt : Nat) (path : Fin 2048) (drop : Bool) (seen : Half) (s : State) : Out :=
  .next (checkMislock path.val drop seen (elapse dt s))

/-! ### Flyovers (R342 to R347) -/

def flyStatus (st : Nat) (s : State) : State := { s with opt.status := BitVec.ofNat 8 st }
def flyCommand (p : HPort) (f : State → State) (s : State) : State :=
  hostWrite p false (fun s => if s.opt.busy then { s with opt.reject := true } else f s) s
/-- The port keeps another active lane in each direction, is up, and has flyover signalling and lane degrade. -/
def flyPortOk (s : State) (port l : Nat) : Bool :=
  s.up port && s.cap port 4 && s.cap port 5 && (s.link port).txList.any (· != l - port) && (s.link port).rxList.any (· != l - port)
/-- The lane is free for a flyover: its rings LOCKED, in no calibration, recalibration or other flyover. -/
def flyLaneFree (s : State) (l : Nat) : Bool :=
  s.ringsLocked l && (s.lane l).recal != .running && (s.lanePath l).calres != .running && (s.lane l).st != .retired
    && !s.inFly l
/-- The image ACTIVE at an instant passes R200 for the rows of two ports and their bundles with one lane fewer on each (check 8). -/
def flyFits (s : State) (px py at_ : Nat) : Bool :=
  let img := match s.tmb.pending with | some (_, t, a) => if a ≤ at_ then some t else s.tmb.active | none => s.tmb.active
  match img with
  | none => true
  | some t =>
    let lanes := fun (p : Nat) => if p == px || p == py then s.width p - 1 else s.width p
    let rows := [px, py] ++ ([s.bundle px, s.bundle py].filter (· != 0)).map (· + 2048)
    rows.all (rowFits s lanes t)
/-- The code of the first check of R342 that fails. -/
def flyRefusal (s : State) (num la lb at_ : Nat) : Option Nat :=
  let a := s.optLane la
  let b := s.optLane lb
  if s.glb.state != .inService then some 1
  else if (s.flyOf num).st != .free then some 2
  else if la == lb || a.elec || b.elec || !a.fly || !b.fly || a.oe != b.oe || a.lambda != b.lambda || a.pilot != b.pilot then some 3
  else if !flyLaneFree s la || !flyLaneFree s lb then some 4
  else
    match s.portOfLane la, s.portOfLane lb with
    | some px, some py =>
      if px == py || !flyPortOk s px la || !flyPortOk s py lb then some 5
      else if s.engLost a.path then some 9
      else if 8 ≤ (s.opt.fly.filter (fun f => f.2.st != .free && (s.optLane f.2.laneA.toNat).oe == a.oe)).length then some 8
      else if at_ < s.now + 2000000 || s.now + 10 ^ 9 < at_ then some 6
      else if !flyFits s px py at_ then some 7
      else none
    | _, _ => some 5
def flySet (num : Nat) (s : State) : State :=
  let la := fld s.opt.lanes.toNat 0 11
  let lb := fld s.opt.lanes.toNat 16 11
  let t := s.opt.at_.toNat
  match flyRefusal s num la lb t with
  | some c => flyStatus c (count (evNo 36 0x002 c) s)
  | none =>
    let s := s.modFly num (fun _ => { Fly.reset with
      st := .prep, laneA := BitVec.ofNat 11 la, laneB := BitVec.ofNat 11 lb, eidA := s.opt.eidA, eidB := s.opt.eidB, tcut := t })
    flyStatus 0 (flyNotice 0x10 num t s)
def execFlySet (p : HPort) (num : Byte) (s : State) : Out := .next (flyCommand p (flySet num.toNat) s)
/-- The planned end: crossings released, and the lanes rejoin. -/
def flyReturn (num : Nat) (s : State) : State :=
  let s := (flyRelease num s).modFly num (fun f => { f with st := .returning, reason := 1 })
  settleFlys (flyLanesBack num s)
def flyClear (num : Nat) (s : State) : State :=
  let t := s.opt.at_.toNat
  if s.glb.state != .inService then flyStatus 1 s
  else if (s.flyOf num).st != .on then flyStatus 10 s
  else if t == 0 then flyStatus 0 (flyReturn num (flyNotice 0x12 num 0 s))
  else if t < s.now + 2000000 || s.now + 10 ^ 9 < t then flyStatus 6 s
  else flyStatus 0 (flyNotice 0x12 num t (s.modFly num (fun f => { f with st := .offPending, offAt := t })))
def execFlyClear (p : HPort) (num : Byte) (s : State) : Out := .next (flyCommand p (flyClear num.toNat) s)
/-- T_CUT: LANE_CTL OFF on both lanes, except where the receiver has left one already. -/
def flyCut (num : Nat) (s : State) : State :=
  let f := s.flyOf num
  if f.st != .prep || s.now < f.tcut then s
  else
    let txOut := fun (l : Nat) => match s.portOfLane l with | some p => !(s.link p).txact.getLsbD (l - p) | none => true
    let rxOut := fun (l : Nat) => match s.portOfLane l with
      | some p => !(s.link p).rxact.getLsbD (l - p) && !((s.link p).laneCtl.any (fun c => (s.link p).laneFor c.idx.toNat == l - p))
      | none => true
    let a := f.laneA.toNat
    let b := f.laneB.toNat
    let off := fun (l : Nat) (s : State) => match s.portOfLane l with
      | some p => if (s.link p).rxact.getLsbD (l - p) then rxLaneOff p (l - p) s else s
      | none => s
    let s := s.modFly num (fun f => { f with st := .switching, ackA := rxOut a, ackB := rxOut b, poffA := txOut a, poffB := txOut b, crossed := 0 })
    flyCross num (off b (off a s))
def execFlyoverCut (dt : Nat) (num : Byte) (s : State) : Out := .next (flyCut num.toNat (elapse dt s))
def flyDeadline (num : Nat) (s : State) : State :=
  let f := s.flyOf num
  if f.st == .switching && decide (f.tcut + 10 ^ 6 ≤ s.now) && !(f.ackA && f.ackB && f.poffA && f.poffB) then flyEnd num 2 true s else s
def execFlyOffAckDeadline (dt : Nat) (num : Byte) (s : State) : Out := .next (flyDeadline num.toNat (elapse dt s))
/-- LAUNCH averaged over 1 ms on both paths: FLY_ON, or the end with POWER. -/
def flyVerify (num : Nat) (la lb : Half) (s : State) : State :=
  let f := s.flyOf num
  if f.st != .switching || f.crossed < 2 then s
  else
    let floor := signed 16 s.opt.floor.toNat
    if signed 16 la.toNat < floor ∨ signed 16 lb.toNat < floor then flyEnd num 3 true s
    else
      let (a, b) := s.flyPaths num
      let s := (s.modPath a (fun o => { o with txMatch := s.clk })).modPath b (fun o => { o with txMatch := s.clk })
      flyNotice 0x11 num s.now (s.modFly num (fun f => { f with st := .on, lowSince := none }))
def execFlyVerify (dt : Nat) (num : Byte) (launchA launchB : Half) (s : State) : Out :=
  .next (flyVerify num.toNat launchA launchB (elapse dt s))
def flyOffDue (num : Nat) (s : State) : State :=
  let f := s.flyOf num
  if f.st == .offPending && decide (f.offAt ≤ s.now) then flyReturn num s else s
def execFlyOffInstant (dt : Nat) (num : Byte) (s : State) : Out := .next (flyOffDue num.toNat (elapse dt s))
def flyTimeout (num : Nat) (s : State) : State :=
  let f := s.flyOf num
  if f.st == .switching && decide (f.tcut + 5 * 10 ^ 6 ≤ s.now) then flyEnd num 9 true s else s
def execFlySwitchTimeout (dt : Nat) (num : Byte) (s : State) : Out := .next (flyTimeout num.toNat (elapse dt s))

end Sys2Proof.Machine
end

