-- ==== Sys2Proof/Machine/Fences.lean ====
section
/-! DEFINITION. The fence commands and their timeout (R248 to R259). -/
namespace Sys2Proof.Machine
open Sys2Proof

def fncStatus (st : Nat) (s : State) : State := { s with lnd.fncStatus := BitVec.ofNat 8 st }
/-- A command through LND_FNC_CMD: accepted from READY onward (R259). -/
def fncCommand (p : HPort) (f : State → State) (s : State) : State :=
  hostWrite p false (fun s =>
    if s.lnd.fncBusy then { s with lnd.fncReject := true }
    else if s.glb.state.code < 4 then fncStatus 5 s
    else f s) s
def State.keyJob (s : State) : BitVec 20 := BitVec.ofNat 20 (fld s.lnd.fncKey.toNat 12 20)
def State.keyTag (s : State) : BitVec 12 := BitVec.ofNat 12 s.lnd.fncKey.toNat
/-- The fence that LND_FNC_KEY names. -/
def State.keyFence (s : State) : Option Fence :=
  s.lnd.fences.find? (fun f => f.job == s.keyJob && f.tag == s.keyTag)
def execFenceArm (p : HPort) (msi : Bool) (s : State) : Out :=
  .next (fncCommand p (fun s =>
    let expect := BitVec.ofNat 16 s.lnd.fncArg.toNat
    let tmo := BitVec.ofNat 16 (fld s.lnd.fncArg.toNat 16 16)
    if expect == 0 || s.keyJob == 0 then fncStatus 4 s
    else if s.keyFence.isSome then fncStatus 2 s
    else if 4096 ≤ s.lnd.fences.length then fncStatus 1 s
    else
      let id := s.lnd.nextFence
      let f : Fence := ⟨id, s.keyJob, s.keyTag, expect, tmo, s.clk, msi, false, 0, 0, 0, false, false⟩
      let s := { s with lnd.fences := s.lnd.fences ++ [f], lnd.nextFence := id + 1 }
      let s := if s.fwd.stA == .draining then placeAll false s
        else if s.fwd.stB == .draining then placeAll true s else s
      fncStatus 0 s) s)
def execFenceDisarm (p : HPort) (s : State) : Out :=
  .next (fncCommand p (fun s =>
    match s.keyFence with
    | none => fncStatus 3 s
    | some f => fncStatus 0 { s with lnd.fences := s.lnd.fences.filter (fun g => g.id != f.id) }) s)
def execFenceQuery (p : HPort) (s : State) : Out :=
  .next (fncCommand p (fun s =>
    match s.keyFence with
    | none => fncStatus 3 { s with lnd.fncMarks := 0, lnd.fncDrainq := 0, lnd.fncOldpre := 0 }
    | some f =>
      let dq := BitVec.ofNat 32 (b2n f.flipped * 2 ^ 31 + b2n f.oldbank * 2 ^ 30 + f.drainq.toNat % 2 ^ 30)
      fncStatus 0 { s with lnd.fncMarks := f.marks, lnd.fncDrainq := dq, lnd.fncOldpre := f.oldpre }) s)
def execSetexp (p : HPort) (s : State) : Out :=
  .next (fncCommand p (fun s =>
    let expect := BitVec.ofNat 16 s.lnd.fncArg.toNat
    if expect == 0 then fncStatus 4 s
    else
      match s.keyFence with
      | none => fncStatus 3 s
      | some f => fncStatus 0 (settleFences (modFences (fun g => if g.id == f.id then { g with expect := expect } else g) s))) s)
/-- TMO ms after ARM: one FENCE_TIMEOUT record, and the fence stays armed (R254). -/
def execFenceTimeout (dt : Nat) (s : State) : Out :=
  let s := elapse dt s
  let due := fun (f : Fence) => f.tmo != 0 && !f.timedOut && decide (f.tmo.toNat * 1000000 ≤ s.clk - f.armedAt)
  let late := s.lnd.fences.filter due
  .next (forEach late (fenceRecord 5) (modFences (fun f => if due f then { f with timedOut := true } else f) s))

end Sys2Proof.Machine
end

