-- ==== Sys2Proof/Machine/Security.lean ====
section
/-! DEFINITION. Certificates and signatures (R39, R400 to R403), measurements (R405), alarms (R413 to R415), plat keys (R411, R412) and debug unlocks (R416, R417), with the commands of SEC_CMD. -/
namespace Sys2Proof.Machine
open Sys2Proof

/-! ### Signatures and certificates -/

/-- A key or signature of 64 bytes as the standard reads it. -/
def point (b : List Byte) : BitVec 512 := BitVec.ofNat 512 (beNat b)
def pointBytes (k : BitVec 512) : List Byte := toBE 64 k.toNat
/-- The first 8 bytes of SM3 over a public key. -/
def keyId (key : List Byte) : List Byte := (digestBytes (Config.sm3 key)).take 8
/-- SM2 over a digest verifies. -/
def verifies (key : List Byte) (d : Digest) (sig : List Byte) : Bool := Config.sm2Verify (point key) d (point sig)
/-- A SERIAL is on the revocation list of the running firmware; before one runs there is no list. -/
def State.revoked (s : State) (serial : List Byte) : Bool :=
  s.booted && Config.revoked s.sec.fwDigest (BitVec.ofNat 64 (leNat serial))
def certRole (c : List Byte) : Nat := u8At c 6
def certKey (c : List Byte) : List Byte := slice c 28 64
def certSerial (c : List Byte) : List Byte := slice c 12 8
/-- One certificate in its place (R401, R402): issued by a key that holds a role set, with `after` certificates behind it. -/
def certOk (s : State) (issuer : List Byte) (roles after : Nat) (c : List Byte) : Bool :=
  let role := certRole c
  let part := u16At c 8
  u32At c 0 == 0x43455254 && u16At c 4 == 1 && !bitAt role 7 && allZero (slice c 10 2) && allZero (slice c 92 4)
    && (bitAt role 0 || u8At c 7 == 0)
    && slice c 20 8 == keyId issuer && verifies issuer (Config.sm3 (c.take 96)) (slice c 96 64)
    && (List.range 8).all (fun i => i == 0 || !bitAt role i || bitAt roles i)
    && (part == 0 || part == 0x0309) && !s.revoked (certSerial c)
    && (after == 0 || (bitAt role 0 && decide (after ≤ u8At c 7)))
/-- The leaf of a chain that holds. -/
def chainWalk (s : State) : List (List Byte) → List Byte → Nat → Option (List Byte)
  | [], _, _ => none
  | [c], key, roles => if certOk s key roles 0 c then some c else none
  | c :: r, key, roles => if certOk s key roles r.length c then chainWalk s r (certKey c) (certRole c) else none
def chainLen (n : Nat) : Bool := n == 160 || n == 320 || n == 480
/-- The leaf of a chain accepted for a role: 1 FIRMWARE, 2 PLAT, 3 PLATKEY, 4 DEBUG1, 5 DEBUG2, 6 IDENTITY (R402). -/
def chainLeaf (s : State) (role : Nat) (chain : List Byte) : Option (List Byte) :=
  if !chainLen chain.length then none
  else
    match chainWalk s (chopAll 160 chain) (pointBytes Config.rootKey) 0xFF with
    | some c => if bitAt (certRole c) role then some c else none
    | none => none
/-- DIGEST of a container: the 32 bytes that stand 96 before its end (R36). -/
def trailerDigest (b : List Byte) : Digest := digestOf (slice b (b.length - 96) 32)
/-- A container's chain, DIGEST and SIGNATURE check for a role; the chain begins no earlier than `start` (R36, R39). -/
def signedOk (s : State) (role start : Nat) (b : List Byte) : Bool :=
  let n := b.length
  let certLen := u32At b (n - 100)
  decide (100 ≤ n) && chainLen certLen && decide (start + certLen + 100 ≤ n)
    && trailerDigest b == Config.sm3 (b.take (n - 96))
    && (match chainLeaf s role (slice b (n - 100 - certLen) certLen) with
        | some c => verifies (certKey c) (trailerDigest b) (slice b (n - 64) 64)
        | none => false)

/-! ### Measurements and alarms -/

/-- Extending M with data sets it to SM3 over M and the data (R405). -/
def extend (m : Nat) (d : List Byte) (s : State) : State :=
  { s with sec.meas := tset 0 s.sec.meas m (Config.sm3 (digestBytes (tget 0 s.sec.meas m) ++ d)) }
/-- A2 erasure: IK, EK and both plat keys (R415). -/
def eraseKeys (s : State) : State :=
  { s with nv.erased := true, nv.erasing := false, nv.key0.key := none, nv.key1.key := none }
/-- The level at which a sensor acts: the plat's, or the firmware's before one is active (R56, R57). -/
def State.alarmLevel (s : State) (sensor : Nat) : Nat :=
  let a := s.plt.plat.alarm
  (match sensor with | 0 => a.mesh | 1 => a.glitch | 2 => a.temp | 3 => a.sign | _ => a.debug).toNat
def satInc (v : Half) : Half := if v == 0xFFFF then v else v + 1
/-- An event of a sensor: 0 mesh, 1 glitch, 2 storage temperature, 3 signatures, 4 debug (R414). -/
def alarm (sensor : Nat) (s : State) : State :=
  let level := s.alarmLevel sensor
  let s := extend 7 (toLE 1 sensor ++ toLE 1 level) s
  let s := if level == 0 then { s with sec.a0 := satInc s.sec.a0 } else { s with sec.a1 := satInc s.sec.a1, sec.dbg := 0 }
  let s := fire 11 { s with sec.alarmSensor := setBit s.sec.alarmSensor sensor true, sec.alarmLast := BitVec.ofNat 2 level }
  let s := if level == 2 then eraseKeys s else s
  if level == 0 then s else selfCordon (2 + level) s
def execMeshEvent (s : State) : Out := .next (alarm 0 s)
def execSupplyGlitch (s : State) : Out := .next (alarm 1 s)
/-- A BAD_SIGNATURE result: SIGN_N in a row are an event (R413). -/
def sigFail (s : State) : State :=
  let n := s.sec.failsSig.toNat + 1
  if s.plt.plat.alarm.signN.toNat ≤ n then alarm 3 { s with sec.failsSig := 0 } else { s with sec.failsSig := BitVec.ofNat 4 n }
def sigGood (s : State) : State := { s with sec.failsSig := 0 }

/-! ### SEC_CMD -/

def secStatus (st : Nat) (s : State) : State := { s with sec.status := BitVec.ofNat 8 st }
/-- A command of SEC_CMD, accepted in the states that its rule allows (R419). -/
def secCommand (p : HPort) (allowed : DevState → Bool) (f : State → State) (s : State) : State :=
  hostWrite p false (fun s =>
    if s.sec.busy then { s with sec.reject := true }
    else if !allowed s.glb.state then secStatus 2 s
    else f s) s
def anyState (_ : DevState) : Bool := true
/-- Identity keys present and usable: SEC_STATUS.IK. -/
def State.ikUsable (s : State) : Bool := !s.nv.erased && !s.sec.keylock
def State.keySlot (s : State) (slot : Bool) : KeySlot := if slot then s.nv.key1 else s.nv.key0
def setKeySlot (slot : Bool) (k : KeySlot) (s : State) : State := if slot then { s with nv.key1 := k } else { s with nv.key0 := k }
/-- A KEY_LOAD record whose MAGIC, SLOT or reserved bytes are wrong. -/
def keyRecordBad (b : List Byte) : Bool :=
  u32At b 0 != 0x504B4559 || decide (1 < u8At b 4) || !allZero (slice b 5 3) || !allZero (slice b 12 4) || !allZero (slice b 24 8) || !allZero (slice b 148 12)
/-- A certificate chain of the record leads to a PLATKEY leaf that signed it. -/
def keyRecordSigned (s : State) (b : List Byte) : Bool :=
  let certLen := u32At b 144
  chainLen certLen && (match chainLeaf s 3 (slice b 160 certLen) with
    | some c => verifies (certKey c) (Config.sm3 (b.take (160 + certLen))) (slice b (160 + certLen) 64)
    | none => false)
/-- KEY_LOAD's checks in order, and the load (R412). -/
def keyLoad (s : State) : State :=
  let b := rdMem s s.sec.addr.toNat 704
  let slot := u8At b 4 == 1
  if keyRecordBad b then secStatus 8 s
  else if !s.ikUsable then secStatus 4 s
  else if u64At b 16 != s.nv.devid.toNat then secStatus 8 s
  else if !keyRecordSigned s b then secStatus 3 (sigFail s)
  else
    let s := sigGood s
    if u32At b 8 ≤ (s.keySlot slot).keygen.toNat then secStatus 5 s
    else
      match Config.sm2Decrypt s.nv.devid (slice b 32 112) with
      | none => secStatus 8 s
      | some k =>
        if s.plt.sealed == some slot then secStatus 6 s
        else secStatus 0 (setKeySlot slot ⟨some k, BitVec.ofNat 32 (u32At b 8)⟩ s)
def execKeyLoad (p : HPort) (s : State) : Out :=
  .next (secCommand p (fun d => d == .unplatted || d == .ready || d == .quiesced || d == .cordoned) keyLoad s)
def execSecverCommit (p : HPort) (s : State) : Out :=
  .next (secCommand p anyState (fun s =>
    if s.hst.mbBusy then secStatus 2 s
    else if s.sec.secver.toNat ≤ s.nv.fusever.toNat then secStatus 5 s
    else secStatus 0 { s with nv.fusever := s.sec.secver }) s)

/-! ### Debug (R416, R417) -/

/-- No challenge is valid any more. -/
def dropChal (s : State) : State := { s with sec.chal := none }
/-- A fresh challenge; it replaces any other. -/
def newChallenge (s : State) : State :=
  { s with sec.chal := some (Config.challenge s.fresh, s.clk), fresh := s.fresh + 1 }
def execDbgChallenge (p : HPort) (s : State) : Out := .next (secCommand p anyState (fun s => secStatus 0 (newChallenge s)) s)
/-- One failed attempt: DBG_N in a row are an event. -/
def dbgFail (s : State) : State :=
  let n := s.sec.failsDbg.toNat + 1
  if s.plt.plat.alarm.dbgN.toNat ≤ n then alarm 4 { s with sec.failsDbg := 0 } else { s with sec.failsDbg := BitVec.ofNat 4 n }
/-- An unlock response whose level or reserved bytes are wrong. -/
def unlockBad (b : List Byte) : Bool := u8At b 0 == 0 || decide (2 < u8At b 0) || !allZero (slice b 1 7) || !allZero (slice b 12 4)
/-- The leaf certificate that signed the challenge for the response's level. -/
def unlockLeaf (s : State) (ch : Digest) (b : List Byte) : Option (List Byte) :=
  let level := u8At b 0
  let certLen := u32At b 8
  let msg := Config.sm3 (digestBytes ch ++ toLE 8 s.nv.devid.toNat ++ toLE 1 level)
  match if chainLen certLen then chainLeaf s (3 + level) (slice b 16 certLen) else none with
  | some c => if verifies (certKey c) msg (slice b (16 + certLen) 64) then some c else none
  | none => none
/-- The unlock that holds. -/
def unlockDebug (level : Nat) (c : List Byte) (s : State) : State :=
  let s := extend 6 (toLE 1 level ++ certSerial c) s
  { s with sec.keylock := s.sec.keylock || level == 2, sec.dbg := BitVec.ofNat 2 level, sec.failsDbg := 0, sec.dbgSince := true }
/-- An unlock with a response: its status. The challenge is consumed either way. -/
def tryUnlock (b : List Byte) (s : State) : State × Nat :=
  match s.sec.chal with
  | none => (s, 7)
  | some (ch, t) =>
    let s := dropChal s
    if 60000000000 ≤ s.clk - t then (s, 7)
    else if unlockBad b then (s, 8)
    else if u8At b 0 == 2 && s.glb.state != .unplatted then (s, 2)
    else
      match unlockLeaf s ch b with
      | some c => (unlockDebug (u8At b 0) c s, 0)
      | none => (dbgFail s, 3)
def execDbgUnlock (p : HPort) (s : State) : Out :=
  .next (secCommand p anyState (fun s =>
    let (s, st) := tryUnlock (rdMem s s.sec.addr.toNat 560) s
    secStatus st s) s)
def lockDebug (s : State) : State := { s with sec.dbg := 0 }
def execDbgLock (p : HPort) (s : State) : Out := .next (secCommand p anyState (fun s => secStatus 0 (lockDebug s)) s)
def execChallengeExpire (dt : Nat) (s : State) : Out :=
  let s := elapse dt s
  .next (
    match s.sec.chal with
    | some (_, t) => if 60000000000 ≤ s.clk - t then dropChal s else s
    | none => s)

/-! ### Firmware images (R403) -/

/-- What a firmware image fails at: 0 nothing, 1 its header, 2 BAD_SIGNATURE. -/
def fwCheck (s : State) (b : List Byte) : Nat :=
  let n := u32At b 14
  if u32At b 0 != 0x4657494D || u16At b 4 != 1 || u16At b 6 != 0x0309 || u8At b 8 != 0xA1 || 64 < u8At b 9
    || n != b.length || 33554432 < n || n < 64 || !allZero (slice b 18 46) then 1
  else if signedOk s 1 64 b then 0 else 2

end Sys2Proof.Machine
end

