-- ==== Sys2Proof/Machine/PlatCheck.lean ====
section
/-! DEFINITION. The plat container (R36 to R41), the structure that it lays out (R42 to R56), and its validation in the order of R61, with the code, the section and the offset of the first failure (R67). -/
namespace Sys2Proof.Machine
open Sys2Proof

/-- A failure: PLT_STATUS.CODE and SECT, and PLT_ERROFF. -/
structure PErr where
  code : Nat
  sect : Nat
  off : Nat
  deriving DecidableEq, Repr
/-- The first failure of checks in order. -/
def firstErr : List (Unit → Option PErr) → Option PErr
  | [] => none
  | f :: r => match f () with | some e => some e | none => firstErr r
def errIf (bad : Bool) (code sect off : Nat) : Unit → Option PErr := fun _ => if bad then some ⟨code, sect, off⟩ else none

/-! ### Header and directory -/

def isSealed (b : List Byte) : Bool := bitAt (u32At b 12) 0
def isPartial (b : List Byte) : Bool := bitAt (u32At b 12) 1
def platDistrict (b : List Byte) : Nat := u8At b 20
def sections (b : List Byte) : Nat := u8At b 21
def dirEnd (b : List Byte) : Nat := 128 + 16 * sections b
def chainStart (b : List Byte) : Nat := b.length - 100 - u32At b (b.length - 100)
/-- One directory entry: its place, TYPE, REQUIRED, SVER, OFFSET, LENGTH (R38). -/
structure Sect where
  at_ : Nat
  type : Nat
  required : Bool
  sver : Nat
  off : Nat
  len : Nat
def directory (b : List Byte) : List Sect :=
  (List.range (sections b)).map (fun i =>
    let o := 128 + 16 * i
    ⟨o, u8At b o, bitAt (u8At b (o + 1)) 0, u16At b (o + 2), u32At b (o + 4), u32At b (o + 8)⟩)
/-- The firmware knows the section's layout. -/
def Sect.known (e : Sect) : Bool := decide (1 ≤ e.type) && decide (e.type ≤ 9) && e.sver == 1
/-- The exact size of a known layout (R38). -/
def sectLen (type : Nat) (part : Bool) : Nat :=
  match type with
  | 1 => if part then 512 else 8192
  | 2 => if part then 16 else 272
  | 3 => 144 | 4 => 16 | 5 => 16
  | 6 => if part then 8 else 128
  | 7 => if part then 1024 else 16640
  | 8 => 24 | _ => 8
/-- The district-scoped types, which alone a partial plat carries (R41). -/
def districtScoped (t : Nat) : Bool := t == 1 || t == 2 || t == 6 || t == 7
/-- OFFSET of a section that the container carries in a layout that the firmware knows. -/
def sectOff (b : List Byte) (t : Nat) : Option Nat := ((directory b).find? (fun e => e.type == t && e.known)).map (·.off)
def skippedCount (b : List Byte) : Nat := ((directory b).filter (fun e => !e.known)).length
/-- The earliest of the fields at fault that the container carries; else the body of the section named, else 0 (R67). -/
def earliest (b : List Byte) (sect : Nat) (l : List (Option Nat)) : Nat :=
  match l.filterMap id with
  | [] => (sectOff b sect).getD 0
  | a :: r => r.foldl min a

/-! ### The structure a container lays out -/

def optLaneOf (w0 w1 : Nat) : OptLane :=
  { oe := BitVec.ofNat 5 (w0 / 2 ^ 27), fibre := BitVec.ofNat 3 (w0 / 2 ^ 24), lambda := BitVec.ofNat 3 (w0 / 2 ^ 21),
    pilot := BitVec.ofNat 5 (w0 / 2 ^ 16), txId := BitVec.ofNat 16 w0, elec := bitAt w1 31, fly := bitAt w1 30, rxId := BitVec.ofNat 16 w1 }
/-- Entries `n` from lane, district or engine `first` on, each read at its offset. -/
def layTab {α : Type} [DecidableEq α] (d : α) (old : Tab α) (first n : Nat) (f : Nat → α) : Tab α :=
  (List.range n).foldl (fun t i => tset d t (first + i) (f i)) old
/-- The structure in force with the container's sections in place of its own; `part` is the district of a partial plat. -/
def amend (base : Plat) (b : List Byte) (part : Option Nat) : Plat :=
  let on := fun (t : Nat) (f : Nat → Plat → Plat) (p : Plat) => match sectOff b t with | some o => f o p | none => p
  let w := fun a => BitVec.ofNat 32 (u32At b a)
  let h := fun a => BitVec.ofNat 16 (u16At b a)
  let y := fun a => BitVec.ofNat 8 (u8At b a)
  let lane0 := match part with | some d => 128 * d | none => 0
  let lanes := match part with | some _ => 128 | none => 2048
  let dist0 := part.getD 0
  let dists := match part with | some _ => 1 | none => 16
  let skip := match part with | some _ => 0 | none => 16
  let dist := fun o i => DistPart.mk (h (o + skip + 16 * i)) (h (o + skip + 16 * i + 2)) (h (o + skip + 16 * i + 4)) (h (o + skip + 16 * i + 6))
  let p := base
  let p := on 1 (fun o p => { p with ports := layTab 0 p.ports lane0 lanes (fun i => w (o + 4 * i)) }) p
  let p := on 2 (fun o p => { p with
    eap := if part.isSome then p.eap else h o,
    share := if part.isSome then p.share else (List.range 6).map (fun i => y (o + 2 + i)),
    part := layTab DistPart.dflt p.part dist0 dists (dist o) }) p
  let p := on 3 (fun o p => { p with
    ushare := y o, overhead := y (o + 1),
    cls := (List.range 8).map (fun c => (c, ClassRec.mk (h (o + 16 + 16 * c)) (h (o + 18 + 16 * c)) (y (o + 20 + 16 * c)))) }) p
  let p := on 4 (fun o p => { p with learn := y o, bank := y (o + 1), cmpPeriod := h (o + 2), learnRate := w (o + 4) }) p
  let p := on 5 (fun o p => { p with time := ⟨y o, y (o + 1), y (o + 2), y (o + 3), h (o + 4), y (o + 6), y (o + 7), h (o + 8), h (o + 10), y (o + 12)⟩ }) p
  let p := on 6 (fun o p => { p with mill := layTab MillRec.none p.mill dist0 dists (fun i => ⟨y (o + 8 * i), y (o + 8 * i + 1), y (o + 8 * i + 2), h (o + 8 * i + 4)⟩) }) p
  let p := on 7 (fun o p => { p with
    opt := layTab OptLane.none p.opt lane0 lanes (fun i => let v := optLaneOf (u32At b (o + 8 * i)) (u32At b (o + 8 * i + 4)); if v.elec then OptLane.none else v),
    eng := if part.isSome then p.eng else layTab OptEng.none p.eng 0 32 (fun e => ⟨u8At b (o + 16384 + 8 * e) == 1, y (o + 16385 + 8 * e), y (o + 16386 + 8 * e)⟩) }) p
  let p := on 8 (fun o p => { p with res := ⟨h o, h (o + 2), h (o + 4), h (o + 6), h (o + 8), h (o + 10), h (o + 12), h (o + 14), y (o + 16)⟩ }) p
  on 9 (fun o p => { p with alarm := ⟨y o, y (o + 1), y (o + 2), y (o + 3), y (o + 4), y (o + 5), y (o + 6)⟩ }) p

/-! ### Steps 2 to 8 of R61 -/

/-- Steps 2 to 5 over the bytes staged: MAGIC, TOTAL_LEN, format, part. -/
def checkHead (s : State) (b : List Byte) (staged : Nat) : Option PErr :=
  let n := u32At b 16
  firstErr [
    errIf (u32At b 0 != 0x504C4154) 0x01 0 0,
    errIf (n < 404 || 4194304 < n || staged < n) 0x15 0 0,
    errIf (u16At b 4 != 1) 0x02 0 4,
    errIf ((Config.fmtMinMax s.sec.fwDigest).toNat < u16At b 6) 0x02 0 6,
    errIf (u16At b 8 != 0x0309) 0x03 0 8,
    errIf (u8At b 10 != 0xA1) 0x03 0 10,
    errIf (!bitAt (u8At b 11) (b2n s.nv.mem128)) 0x03 0 11]
/-- Step 6: the chain, DIGEST and SIGNATURE. -/
def checkSign (s : State) (b : List Byte) : Option PErr :=
  let n := b.length
  let certLen := u32At b (n - 100)
  if !chainLen certLen || n < 128 + certLen + 100 then some ⟨0x04, 0, n - 100⟩
  else
    match chainLeaf s 2 (slice b (n - 100 - certLen) certLen) with
    | none => some ⟨0x04, 0, n - 100 - certLen⟩
    | some c =>
      if trailerDigest b != Config.sm3 (b.take (n - 96)) then some ⟨0x04, 0, n - 96⟩
      else if !verifies (certKey c) (trailerDigest b) (slice b (n - 64) 64) then some ⟨0x04, 0, n - 64⟩
      else none
/-- Step 7: the container in clear. The header and the directory are the additional data, TAG taken as zeros. One ciphertext runs from the directory's end to the chain, padding between the bodies included: the spec does not say how the bodies are joined (log entry 91). -/
def unsealed (s : State) (b : List Byte) : Except PErr (List Byte) :=
  if !isSealed b then .ok b
  else if !s.ikUsable then .error ⟨0x06, 0, 12⟩
  else if 1 < u8At b 64 then .error ⟨0x05, 0, 64⟩
  else
    match (s.keySlot (u8At b 64 == 1)).key with
    | none => .error ⟨0x05, 0, 64⟩
    | some k =>
      let body := slice b (dirEnd b) (chainStart b - dirEnd b)
      match Config.sm4GcmOpen k (slice b 68 12) (overlay (b.take (dirEnd b)) 80 (zeros 16)) body (slice b 80 16) with
      | some clear => if clear.length == body.length then .ok (overlay b (dirEnd b) clear) else .error ⟨0x05, 0, 80⟩
      | none => .error ⟨0x05, 0, 80⟩
/-- The rules of R38 and R41 for one directory entry. -/
def checkEntry (b : List Byte) (part : Bool) (e : Sect) : Option PErr :=
  let others := (directory b).filter (fun x => x.at_ != e.at_)
  firstErr [
    errIf (others.any (fun x => x.type == e.type)) 0x07 0 e.at_,
    errIf (part && decide (1 ≤ e.type) && decide (e.type ≤ 9) && !districtScoped e.type) 0x07 0 e.at_,
    errIf (e.off % 16 != 0 || e.off < dirEnd b || chainStart b < e.off + e.len) 0x07 0 (e.at_ + 4),
    errIf (others.any (fun x => decide (e.off < x.off + x.len) && decide (x.off < e.off + e.len))) 0x07 0 (e.at_ + 4),
    errIf (e.known && e.len != sectLen e.type part) 0x07 0 (e.at_ + 8),
    errIf (!allZero (slice b (e.at_ + 12) 4)) 0x07 0 (e.at_ + 12)]
/-- Step 8. `part` is the kind of step 1; `want` the district of a load with SRC = 3. -/
def checkDir (b : List Byte) (part : Bool) (want : Option Nat) : Option PErr :=
  let types := (directory b).map (·.type)
  firstErr ([
    errIf (fld (u8At b 11) 2 6 != 0) 0x07 0 11,
    errIf (fld (u32At b 12) 2 30 != 0) 0x07 0 12,
    errIf (!allZero (slice b 22 2)) 0x07 0 22,
    errIf (!part && !allZero (slice b 32 32)) 0x07 0 32,
    errIf (!allZero (slice b 65 3)) 0x07 0 65,
    errIf (!allZero (slice b 96 32)) 0x07 0 96,
    errIf (if part then 16 ≤ platDistrict b else platDistrict b != 0) 0x07 0 20,
    errIf (!isSealed b && u8At b 64 != 0) 0x07 0 64,
    errIf (!isSealed b && !allZero (slice b 68 12)) 0x07 0 68,
    errIf (!isSealed b && !allZero (slice b 80 16)) 0x07 0 80,
    errIf (sections b == 0 || 16 < sections b) 0x07 0 21,
    errIf (isPartial b != part) 0x07 0 12,
    errIf (match want with | some d => platDistrict b != d | none => false) 0x07 0 20]
    ++ (directory b).map (fun e _ => checkEntry b part e)
    ++ [errIf (!part && !(List.range 9).all (fun i => types.contains (i + 1))) 0x07 0 128]
    ++ (directory b).map (fun e => errIf (!e.known && e.required) 0x02 0 (if 1 ≤ e.type ∧ e.type ≤ 9 then e.at_ + 2 else e.at_)))

/-! ### Step 10: each section's own rules -/

def memberEntry : Word := 0x80000000
/-- The ports of a structure that lie in a bundle. -/
def Plat.bundleOf (p : Plat) (n : Nat) : List Word := (p.ports.filter (fun e => decide (0 < entryWidth e.2) && fld e.2.toNat 0 16 == n)).map (·.2)
/-- A lane's entry breaks R42 or R43. -/
def badLane (p : Plat) (l : Nat) : Bool :=
  let e := tget 0 p.ports l
  let n := e.toNat
  let code := fld n 28 4
  let w := entryWidth e
  let b := fld n 0 16
  let mates := p.bundleOf b
  (4 < code && code != 8) || fld n 26 2 == 3 || fld n 16 4 != 0 || 2047 < b
    || (code == 8 && (e != memberEntry || !([2, 4, 8] : List Nat).any (fun k => let q := l / k * k; q != l && decide (l < q + entryWidth (tget 0 p.ports q)) && decide (k ≤ entryWidth (tget 0 p.ports q)))))
    || (0 < w && (l % w != 0 || !(List.range (w - 1)).all (fun j => tget 0 p.ports (l + 1 + j) == memberEntry)))
    || (0 < w && b != 0 && (64 < mates.length || !mates.all (fun m => fld m.toNat 26 6 == fld n 26 6)))
def checkPorts (b : List Byte) (p : Plat) (lane0 lanes : Nat) (o : Nat) : Option PErr :=
  let _ := b
  firstErr ((List.range lanes).map (fun i => errIf (badLane p (lane0 + i)) 0x08 1 (o + 4 * i)))
/-- A die's sum of R45, in MiB. -/
def dieSum (p : Plat) (die : Nat) : Nat :=
  sumOf ((List.range 8).map (fun i =>
    let r := tget DistPart.dflt p.part (8 * die + i)
    r.obuf.toNat + r.land.toNat + r.scratch.toNat + r.yard.toNat)) + 256 + p.eap.toNat / 2
def outside (lo hi n : Nat) : Bool := n < lo || hi < n
/-- One district record (R45). -/
def checkDistRec (b : List Byte) (o : Nat) : Option PErr :=
  firstErr [
    errIf (outside 32 128 (u16At b o)) 0x09 2 o,
    errIf (outside 16 128 (u16At b (o + 2))) 0x09 2 (o + 2),
    errIf (outside 32 160 (u16At b (o + 4))) 0x09 2 (o + 4),
    errIf (outside 4 32 (u16At b (o + 6))) 0x09 2 (o + 6),
    errIf (!allZero (slice b (o + 8) 8)) 0x09 2 (o + 8)]
def checkPartition (b : List Byte) (p : Plat) (part : Option Nat) (o : Nat) : Option PErr :=
  match part with
  | some d => firstErr [fun _ => checkDistRec b o, errIf (2048 < dieSum p (d / 8)) 0x09 2 o]
  | none =>
    let eap := u16At b o
    firstErr ([
      errIf (outside 16 256 eap || eap % 2 != 0) 0x09 2 o]
      ++ (List.range 6).map (fun i => errIf (u8At b (o + 2 + i) == 0) 0x09 2 (o + 2 + i))
      ++ [errIf (90 < sumOf ((List.range 6).map (fun i => u8At b (o + 2 + i)))) 0x09 2 (o + 2),
          errIf (!allZero (slice b (o + 8) 8)) 0x09 2 (o + 8)]
      ++ (List.range 16).map (fun d _ => checkDistRec b (o + 16 + 16 * d))
      ++ [errIf (2048 < dieSum p 0 || 2048 < dieSum p 1) 0x09 2 o])
def checkClasses (b : List Byte) (o : Nat) : Option PErr :=
  firstErr ([
    errIf (outside 5 100 (u8At b o)) 0x0A 3 o,
    errIf (!allZero (slice b (o + 2) 14)) 0x0A 3 (o + 2)]
    ++ (List.range 8).flatMap (fun c =>
      let a := o + 16 + 16 * c
      [errIf (u16At b a < 10) 0x0A 3 a,
       errIf (outside 1 4096 (u16At b (a + 2))) 0x0A 3 (a + 2),
       errIf (u8At b (a + 4) == 0) 0x0A 3 (a + 4),
       errIf (!allZero (slice b (a + 5) 11)) 0x0A 3 (a + 5)]))
def checkTables (b : List Byte) (o : Nat) : Option PErr :=
  firstErr [
    errIf (1 < u8At b o) 0x0B 4 o,
    errIf (1 < u8At b (o + 1)) 0x0B 4 (o + 1),
    errIf (outside 1 3600 (u16At b (o + 2))) 0x0B 4 (o + 2),
    errIf (outside 1 1000000 (u32At b (o + 4))) 0x0B 4 (o + 4),
    errIf (!allZero (slice b (o + 8) 8)) 0x0B 4 (o + 8)]
/-- The service lanes that TIME uses, each with the place of its field (R51). -/
def timeLanes (b : List Byte) (o : Nat) : List (Nat × Nat) :=
  (if u8At b o == 1 then [(3, u8At b (o + 3))] else [])
    ++ (if u8At b (o + 1) != 0 then [(6, u8At b (o + 6)), (7, u8At b (o + 7))] else [])
    ++ (if u8At b (o + 12) != 255 then [(12, u8At b (o + 12))] else [])
/-- TIME's own rules. Where the value that a field may take depends on an earlier field (PRIORITY and BLOCK_ID on ROLE), the offset is the dependent field's own, as it is for KEY_SLOT, IV and TAG on SEALED: R67's earliest field of a combination is read as that of several fields none of which alone has the value it must (log entry 91). -/
def checkTime (b : List Byte) (o : Nat) : Option PErr :=
  let source := u8At b o
  let role := u8At b (o + 1)
  let prio := u8At b (o + 2)
  let tol := u16At b (o + 8)
  let used := timeLanes b o
  firstErr ([
    errIf (2 < source || (source == 0 && role == 0)) 0x0C 5 o,
    errIf (2 < role) 0x0C 5 (o + 1),
    errIf (if role == 2 then prio == 0 else prio != 0) 0x0C 5 (o + 2),
    errIf (15 < u8At b (o + 3)) 0x0C 5 (o + 3),
    errIf (if role == 0 then u16At b (o + 4) != 0 else u16At b (o + 4) == 0) 0x0C 5 (o + 4),
    errIf (15 < u8At b (o + 6)) 0x0C 5 (o + 6),
    errIf (15 < u8At b (o + 7)) 0x0C 5 (o + 7)]
    ++ used.map (fun e => errIf (used.any (fun x => x.1 != e.1 && x.2 == e.2)) 0x0C 5 (o + e.1))
    ++ [
    errIf (outside 16 1024 tol || tol % 8 != 0) 0x0C 5 (o + 8),
    errIf (outside 1 40 (u16At b (o + 10))) 0x0C 5 (o + 10),
    errIf (15 < u8At b (o + 12) && u8At b (o + 12) != 255) 0x0C 5 (o + 12),
    errIf (!allZero (slice b (o + 13) 3)) 0x0C 5 (o + 13)])
/-- SLOTS x 256 KiB is more than half of SCRATCH (R52). -/
def Plat.scratchShort (p : Plat) (d : Nat) : Bool :=
  decide (2 * (tget DistPart.dflt p.part d).scratch.toNat < (tget MillRec.none p.mill d).slots.toNat)
/-- The place of a district's SCRATCH in a container that carries PARTITION. -/
def scratchAt (b : List Byte) (part : Bool) (d : Nat) : Option Nat := (sectOff b 2).map (fun q => if part then q + 4 else q + 20 + 16 * d)
/-- A partial plat's PARTITION may break R52 with the MILL record that it leaves as it is. -/
def checkScratch (b : List Byte) (p : Plat) (part : Option Nat) : Option PErr :=
  match part with
  | some d => if (sectOff b 2).isSome && p.scratchShort d then some ⟨0x0D, 6, earliest b 6 [scratchAt b true d]⟩ else none
  | none => none
def checkMill (b : List Byte) (p : Plat) (dist0 dists : Nat) (part : Bool) (o : Nat) : Option PErr :=
  let slots := fun d => (tget MillRec.none p.mill d).slots.toNat
  firstErr ((List.range dists).flatMap (fun i =>
      let a := o + 8 * i
      let d := dist0 + i
      [errIf (!(List.range 8).all (fun k => !bitAt (u8At b (a + 1)) k || bitAt (u8At b a) k)) 0x0D 6 a,
       errIf (!(List.range 8).all (fun k => !bitAt (u8At b (a + 2)) k || bitAt (u8At b a) k)) 0x0D 6 a,
       errIf (u8At b (a + 3) != 0) 0x0D 6 (a + 3),
       errIf (p.scratchShort d) 0x0D 6 (earliest b 6 [scratchAt b part d, some (a + 4)]),
       errIf (!allZero (slice b (a + 6) 2)) 0x0D 6 (a + 6)])
    ++ [errIf (1024 < sumOf ((List.range 16).map slots)) 0x0D 6 (o + 4)])
/-- A lane's optical entry breaks R53 or R54, apart from its placement in a port: the fault's place in the entry. -/
def badOptLane (b : List Byte) (p : Plat) (l a : Nat) : Option Nat :=
  let w0 := u32At b a
  let w1 := u32At b (a + 4)
  let v := tget OptLane.none p.opt l
  let others := p.opt.filter (fun e => e.1 != l)
  if bitAt w1 31 then (if w0 != 0 then some 0 else if w1 != 2 ^ 31 then some 4 else none)
  else if others.any (fun e => e.2.path == v.path) then some 0
  else if others.any (fun e => e.2.path / 8 == v.path / 8 && e.2.pilot == v.pilot) then some 0
  else if others.any (fun e => e.2.txId == v.txId) then some 0
  else if !(tget OptEng.none p.eng v.oe.toNat).present then some 0
  else if fld w1 16 14 != 0 then some 4
  else none
def checkOptics (b : List Byte) (p : Plat) (lane0 lanes : Nat) (part : Bool) (o : Nat) : Option PErr :=
  firstErr ((List.range lanes).map (fun i _ => (badOptLane b p (lane0 + i) (o + 8 * i)).map (fun x => ⟨0x0E, 7, o + 8 * i + x⟩))
    ++ (if part then [] else (List.range 32).flatMap (fun e =>
      let a := o + 16384 + 8 * e
      [errIf (1 < u8At b a) 0x0E 7 a, errIf (128 < u8At b (a + 1)) 0x0E 7 (a + 1), errIf (128 < u8At b (a + 2)) 0x0E 7 (a + 2), errIf (!allZero (slice b (a + 3) 5)) 0x0E 7 (a + 3)])))
def checkRes (b : List Byte) (p : Plat) (o : Nat) : Option PErr :=
  firstErr ((List.range 4).flatMap (fun k =>
      let a := o + 4 * k
      [errIf (outside 1 999 (u16At b a)) 0x0F 8 a,
       errIf (u16At b (a + 2) == 0 || 999 < u16At b (a + 2)) 0x0F 8 (a + 2),
       errIf (u16At b a ≤ u16At b (a + 2)) 0x0F 8 a])
    ++ [errIf (2 < u8At b (o + 16)) 0x0F 8 (o + 16),
        errIf (u8At b (o + 16) != 0 && p.time.role == 0) 0x0F 8 (earliest b 8 [(sectOff b 5).map (· + 1), some (o + 16)]),
        errIf (!allZero (slice b (o + 17) 7)) 0x0F 8 (o + 17)])
def checkAlarm (b : List Byte) (o : Nat) : Option PErr :=
  firstErr ((List.range 5).map (fun i => errIf (2 < u8At b (o + i)) 0x10 9 (o + i))
    ++ [errIf (outside 1 15 (u8At b (o + 5))) 0x10 9 (o + 5),
        errIf (outside 1 15 (u8At b (o + 6))) 0x10 9 (o + 6),
        errIf (u8At b (o + 7) != 0) 0x10 9 (o + 7)])
/-- Step 10, in TYPE order, over the structure with the container's sections in place. -/
def checkSects (b : List Byte) (p : Plat) (part : Option Nat) : Option PErr :=
  let lane0 := match part with | some d => 128 * d | none => 0
  let lanes := match part with | some _ => 128 | none => 2048
  let at_ := fun (t : Nat) (f : Nat → Option PErr) (_ : Unit) => match sectOff b t with | some o => f o | none => none
  firstErr [
    at_ 1 (checkPorts b p lane0 lanes),
    at_ 2 (checkPartition b p part),
    at_ 3 (checkClasses b),
    at_ 4 (checkTables b),
    at_ 5 (checkTime b),
    fun _ => match sectOff b 6 with
      | some o => checkMill b p (part.getD 0) (match part with | some _ => 1 | none => 16) part.isSome o
      | none => checkScratch b p part,
    at_ 7 (checkOptics b p lane0 lanes part.isSome),
    at_ 8 (checkRes b p),
    at_ 9 (checkAlarm b)]

/-! ### Step 11: rules across sections -/

def Plat.portsIn (p : Plat) (d : Nat) : List (Nat × Word) := p.ports.filter (fun e => decide (0 < entryWidth e.2) && e.1 / 128 == d)
/-- R48 for a district: the static limits of its ports fit its OBUF. -/
def limitsFit (p : Plat) (d : Nat) : Bool :=
  let sum := sumOf ((List.range 8).map (fun tc => (tget (ClassRec.dflt tc) p.cls tc).limit.toNat))
  decide (sumOf ((p.portsIn d).map (fun e => entryWidth e.2 * sum)) ≤ (tget DistPart.dflt p.part d).obuf.toNat * 1024)
/-- The lanes of a port lie on one fibre of one engine, or have no engine (R54). -/
def placed (p : Plat) (l w : Nat) : Bool :=
  let of_ := fun i => tget OptLane.none p.opt (l + i)
  (List.range w).all (fun i => (of_ i).elec == (of_ 0).elec && ((of_ 0).elec || (of_ i).path / 8 == (of_ 0).path / 8))
def checkCross (b : List Byte) (p : Plat) (part : Option Nat) : Option PErr :=
  let lane0 := match part with | some d => 128 * d | none => 0
  let dists := match part with | some d => [d] | none => List.range 16
  let portAt := fun (l : Nat) => (sectOff b 1).map (fun o => o + 4 * (l - lane0))
  let obufAt := fun (d : Nat) => (sectOff b 2).map (fun o => if part.isSome then o else o + 16 + 16 * d)
  firstErr (dists.map (fun d => errIf (!limitsFit p d) 0x0A 3
      (earliest b 3 [((p.portsIn d).head?.bind (fun e => portAt e.1)), obufAt d, (sectOff b 3).map (· + 18)]))
    ++ dists.flatMap (fun d => (p.portsIn d).map (fun e => errIf (!placed p e.1 (entryWidth e.2)) 0x0E 7
      (earliest b 7 [portAt e.1, (sectOff b 7).map (fun o => o + 8 * (e.1 - lane0))]))))

end Sys2Proof.Machine
end

