-- ==== Sys2Proof/Machine/Resilience.lean ====
section
/-! DEFINITION. Commands on scored parts, part tests, the full self-test and the thermal governor (R363 to R370, R380). -/
namespace Sys2Proof.Machine
open Sys2Proof

/-! ### RES_PART_CMD -/

def partStatus (st : Nat) (s : State) : State := { s with res.partStatus := BitVec.ofNat 8 st }
/-- The parts of a kind: 2,048 lanes, 1,536 engines, 4,096 banks, 2,048 wavelengths (R361). -/
def partCount (kind : Nat) : Nat :=
  match kind with | 1 => 1536 | 2 => 4096 | _ => 2048
/-- A command on a part; an index beyond its kind is BAD_FIELD. -/
def partCommand (p : HPort) (kind : BitVec 2) (idx : BitVec 12) (f : Nat → Nat → State → State) (s : State) : State :=
  hostWrite p false (fun s =>
    if s.res.partBusy then { s with res.partReject := true }
    else if partCount kind.toNat ≤ idx.toNat then partStatus 1 s
    else f kind.toNat idx.toNat s) s
def PartState.code : PartState → Nat
  | .inService => 0 | .watch => 1 | .drained => 2 | .drainWait => 3 | .testing => 4 | .replaced => 5
def PartTest.code : PartTest → Nat
  | .none => 0 | .pass => 1 | .fail => 2 | .aborted => 3
def execPartQuery (p : HPort) (kind : BitVec 2) (idx : BitVec 12) (s : State) : Out :=
  .next (partCommand p kind idx (fun k i s =>
    let x := s.partOf k i
    let part := if k == 2 then (Config.bankPart i).toNat else 0
    partStatus 0 { s with res.partInfo := BitVec.ofNat 32 (s.score k i * 2 ^ 22 + x.st.code * 2 ^ 19 + x.test.code * 2 ^ 17 + part * 2 ^ 14) }) s)
/-- DRAIN: at once, whatever the score; a part that is drained, waits, is in test or replaced stays as it is. -/
def execPartDrain (p : HPort) (kind : BitVec 2) (idx : BitVec 12) (s : State) : Out :=
  .next (partCommand p kind idx (fun k i s =>
    let x := s.partOf k i
    partStatus 0 (if x.st == .inService || x.st == .watch then drainPart k i s else s)) s)
/-- The lane of a drained lane or wavelength comes back: it leaves electrical idle and its receiver asks for it (R92). -/
def laneReturn (l : Nat) (s : State) : State := rejoin l (txOn l s)
/-- A drained part goes back into service: what its drain took away is given back. -/
def undoDrain (kind idx : Nat) (s : State) : State :=
  match kind with
  | 0 => laneReturn idx s
  | 3 => (match s.laneOfPath idx with | some l => laneReturn l s | none => s)
  | 1 => { s with mil.withdrawn := tset false s.mil.withdrawn idx false }
  | _ =>
    let d := bankDistrict idx
    match (Config.bankPart idx).toNat with
    | 0 => { s with swc.quarantined := tmod 0 s.swc.quarantined d (· - 1) }
    | 1 => { s with lnd.quarantined := tmod 0 s.lnd.quarantined d (· - 16) }
    | _ => s
/-- The state of a part that nothing keeps out of service. -/
def State.freeState (s : State) (kind idx : Nat) : PartState :=
  if s.score kind idx < s.watchAt kind then .watch else .inService
def returnPart (kind idx : Nat) (s : State) : State :=
  undoDrain kind idx (s.modPart kind idx (fun x => { x with st := s.freeState kind idx }))
def execPartReturn (p : HPort) (kind : BitVec 2) (idx : BitVec 12) (s : State) : Out :=
  .next (partCommand p kind idx (fun k i s =>
    if s.score k i < s.drainAt k then partStatus 9 s
    else partStatus 0 (if (s.partOf k i).st == .drained then returnPart k i s else s)) s)
def execPartZero (p : HPort) (kind : BitVec 2) (idx : BitVec 12) (s : State) : Out :=
  .next (partCommand p kind idx (fun k i s =>
    partStatus 0 (s.modPart k i (fun x => { x with pen := 0, penAt := s.clk }))) s)
/-- The bank has no live allocation: it is drained, and no reservation of its district's scratch or yards is left where it serves them. -/
def State.bankFree (s : State) (i : Nat) : Bool :=
  let part := (Config.bankPart i).toNat
  (s.partOf 2 i).st == .drained && (!(part == 3 || part == 4) || s.scratchUsed (bankDistrict i) == 0)
def startPartTest (kind idx : Nat) (s : State) : State :=
  partStatus 0 (s.modPart kind idx (fun x => { x with wasDrained := x.st == .drained, st := .testing }))
def execPartTest (p : HPort) (kind : BitVec 2) (idx : BitVec 12) (s : State) : Out :=
  .next (partCommand p kind idx (fun k i s =>
    match k with
    | 1 =>
      if (List.range 12).any (fun e => (s.partOf 1 (i / 12 * 12 + e)).st == .testing) then partStatus 7 s
      else startPartTest 1 i { s with mil.withdrawn := tset false s.mil.withdrawn i true }
    | 2 =>
      if (s.partOf 2 i).st == .testing then partStatus 7 s
      else if !s.bankFree i then partStatus 8 s
      else startPartTest 2 i s
    | _ => partStatus 1 s) s)
/-- A part's test ends: 0 passed, 1 failed, 2 aborted. A failure sets the score to 0 and the part stays drained; a bank that passes returns to its partition, an engine to where it was. -/
def partTestEnds (kind idx how : Nat) (s : State) : State :=
  let x := s.partOf kind idx
  let keep := x.wasDrained && kind == 1
  endTest (match how with
    | 1 => zeroScore kind idx (s.modPart kind idx (fun x => { x with st := .drained, test := .fail, wasDrained := false }))
    | _ =>
      let s := s.modPart kind idx (fun x => { x with st := .drained, test := if how == 0 then .pass else .aborted, wasDrained := false })
      if keep then s else returnPart kind idx s)
def execPartTestEnd (kind : BitVec 2) (idx : BitVec 12) (passed : Bool) (s : State) : Out :=
  .next (if (s.partOf kind.toNat idx.toNat).st == .testing then partTestEnds kind.toNat idx.toNat (if passed then 0 else 1) s else s)
def execDrainwaitRelease (kind : BitVec 2) (idx : BitVec 12) (s : State) : Out :=
  .next (
    if (s.partOf kind.toNat idx.toNat).st == .drainWait && s.drainable kind.toNat idx.toNat then
      raiseCruise 1 (drainNow kind.toNat idx.toNat (s.modPart kind.toNat idx.toNat (fun x => { x with st := .drained })))
    else s)
def execCruiseSave (dt : Nat) (s : State) : Out := .next (saveScores (elapse dt s))

/-! ### The full self-test (R369, R370) -/

def execFullSelfTest (p : HPort) (s : State) : Out :=
  .next (hostWrite p false (fun s =>
    if s.res.testBusy then { s with res.testReject := true }
    else if s.glb.state != .quiesced then { s with res.testStatus := 6 }
    else { s with res.testStatus := 0, res.testResult := 1, res.testBusy := true }) s)
def execSelfTestEnd (failedEngines failedBanks : List Nat) (s : State) : Out :=
  .next (
    if !s.res.testBusy then s
    else
      let e := failedEngines.filter (fun i => decide (i < 1536))
      let b := failedBanks.filter (fun i => decide (i < 4096))
      let s := forEach b (zeroScore 2) (forEach e (zeroScore 1) s)
      endTest { s with res.testBusy := false, res.testStatus := 0, res.testResult := if e.isEmpty && b.isEmpty then 2 else 3 })

/-! ### The thermal governor (R366, R379) -/

/-- Engines that a governor has just withdrawn end their tests ABORTED: the `n`-th highest engine of each core of a district. -/
def abortEngineTests (d n : Nat) (s : State) : State :=
  forEach (List.range 8) (fun k s =>
    let i := 96 * d + 12 * k + (12 - n)
    if 1 ≤ n ∧ n ≤ 12 ∧ (s.partOf 1 i).st = .testing then partTestEnds 1 i 2 s else s) s
def State.gov (s : State) (d : Nat) : Gov := tget Gov.reset s.res.gov d
def State.setGov (s : State) (d : Nat) (g : Gov) : State := { s with res.gov := tset Gov.reset s.res.gov d g }
/-- 1/16 degree Celsius of a signed temperature register. -/
def celsius16 (w : Half) : Int := signed 16 w.toNat
def execThermalGovWithdraw (dt : Nat) (d : Fin 16) (s : State) : Out :=
  let s := elapse dt s
  let g := s.gov d.val
  .next (
    if celsius16 g.tj ≤ 1600 ∨ s.clk - g.last < 10000000 ∨ 12 ≤ g.level.toNat then s
    else raisePwr 0 (abortEngineTests d.val (g.level.toNat + 1) (s.setGov d.val { g with level := g.level + 1, last := s.clk })))
def execThermalGovReturn (dt : Nat) (d : Fin 16) (s : State) : Out :=
  let s := elapse dt s
  let g := s.gov d.val
  .next (
    if 1552 < celsius16 g.tj ∨ s.clk - g.last < 100000000 ∨ g.level = 0 then s
    else s.setGov d.val { g with level := g.level - 1, last := s.clk })

end Sys2Proof.Machine
end

