-- ==== Sys2Proof/Machine/Twin.lean ====
section
/-! DEFINITION. Twin mirroring and spare bring-in (R371 to R375): the holder's mirror and its compaction, the device's journal, and a spare's PULL. -/
namespace Sys2Proof.Machine
open Sys2Proof

/-! ### Twin messages (R372) -/

def twinSrc (b : List Byte) : DWord := BitVec.ofNat 64 (u64At b 0)
def twinDst (b : List Byte) : DWord := BitVec.ofNat 64 (u64At b 8)
def twinHops (b : List Byte) : Nat := u8At b 16
/-- A twin message that is not addressed to this device goes on out of the other ring lane; HOPS = 255, or a SRC of its own, ends it. -/
def twinMsg (lane : Fin 2) (type : Nat) (b : List Byte) (f : State → State) (s : State) : State :=
  if !s.inBlock then s
  else if twinDst b == s.nv.devid then f s
  else if twinHops b == 255 || twinSrc b == s.nv.devid then s
  else sendRing (!isWest lane) type (overlay b 16 (toLE 1 (twinHops b + 1))) s

/-! ### The holder (R373) -/

def State.mirror (s : State) (west : Bool) : Mirror := if west then s.res.west else s.res.east
def State.setMirror (s : State) (west : Bool) (m : Mirror) : State :=
  if west then { s with res.west := m } else { s with res.east := m }
/-- The mirror that a device's journal goes to: the one held for it, otherwise the one of the ring lane it comes on. -/
def State.mirrorFor (s : State) (lane : Fin 2) (dev : DWord) : Bool :=
  if s.res.east.st != .none && s.res.east.dev == dev then false
  else if s.res.west.st != .none && s.res.west.dev == dev then true
  else isWest lane
/-- How many continuation records an install's first record announces. -/
def contCount (r : List Byte) : Nat := if u8At r 0 == 4 then divUp (u32At r 12) 32 else 0
/-- The record is an install whose continuation records have not all come. -/
def openRec (r : List Byte) : Bool := decide (r.length < 32 * (1 + contCount r))
/-- What a record is the latest of: table, bank and index, or EID; entry; CTX; binding ID. -/
def recKey (r : List Byte) : List Nat :=
  let cmd := u32At r 8
  let op := fld cmd 28 4
  let tbl := fld cmd 24 4
  match u8At r 0 with
  | 1 =>
    if op == 7 || op == 8 then [2, u32At r 16]
    else if op == 6 then [1, 6, 2, u32At r 16]
    else [1, tbl, fld cmd 23 1, if tbl == 6 then u32At r 16 else u32At r 12]
  | 2 => [3, u32At r 8]
  | 3 => [4, u16At r 8, u8At r 10]
  | 4 => [5, u32At r 8]
  | 5 => [5, u32At r 8]
  | 6 => [6, u32At r 8, u32At r 12]
  | _ => [7, u32At r 8]
/-- A record makes an earlier one superfluous: the same key; an EID inserted in both banks; a context or binding that is gone. -/
def supersedes (new old : List Byte) : Bool :=
  let k := recKey new
  let o := recKey old
  k == o || (k.take 3 == [1, 6, 2] && o.take 2 == [1, 6] && o.drop 3 == k.drop 3)
    || ((u8At new 0 == 4 || u8At new 0 == 5) && o.take 2 == [6, u32At new 8])
/-- Records that only take an earlier one away. -/
def onlyRemoves (r : List Byte) : Bool := u8At r 0 == 5 || u8At r 0 == 8
/-- One more record: it continues an open install, or replaces what it supersedes. -/
def addRec (l : List (List Byte)) (r : List Byte) : List (List Byte) :=
  match l.getLast? with
  | some o =>
    if openRec o then l.dropLast ++ [o ++ r]
    else
      let l := l.filter (fun o => !supersedes r o)
      if onlyRemoves r then l else l ++ [r]
  | none => if onlyRemoves r then [] else [r]
/-- Half of the RES_MIR region holds each mirror: the EAST neighbour's first. -/
def State.mirrorHalf (s : State) : Nat := s.res.mirSize.toNat / 2
def State.mirrorAddr (s : State) (west : Bool) : Nat := s.res.mirBase.toNat + (if west then s.mirrorHalf else 0)
/-- Records in order of SEQ: those already stored are passed over; a mirror that does not fit its half is FULL. -/
def storeRecs (half : Nat) : List (List Byte) → Nat → Mirror → Mirror
  | [], _, m => m
  | r :: l, seq, m =>
    if seq ≤ m.seq.toNat || m.st == .full then storeRecs half l (seq + 1) m
    else
      let recs := addRec m.recs r
      if half < (recs.map List.length).foldl (· + ·) 0 then storeRecs half l (seq + 1) { m with st := .full }
      else storeRecs half l (seq + 1) { m with recs := recs, seq := BitVec.ofNat 64 seq }
/-- A JRNL message: it starts a mirror, continues one without a gap, or, with FIRST = 1, starts it again. -/
def takeJournal (lane : Fin 2) (b : List Byte) (s : State) : State :=
  let src := twinSrc b
  let west := s.mirrorFor lane src
  let m := s.mirror west
  let first := u64At b 24
  let count := u16At b 32
  let recs := (List.range (min 60 count)).map (fun i => slice b (40 + 32 * i) 32)
  let known := m.st != .none && m.dev == src
  if count == 0 || 60 < count || first == 0 then s
  else if known && first != 1 && m.seq.toNat + 1 < first then s
  else
    let m := if !known || first == 1 then ⟨if first == 1 then .complete else .partial_, src, BitVec.ofNat 64 (first - 1), 0, s.clk, []⟩ else m
    let m := storeRecs s.mirrorHalf recs first m
    wrMem (s.setMirror west m) (s.mirrorAddr west) (m.recs.flatMap id)
def execJrnl (lane : Fin 2) (codes : List Code) (s : State) : Out :=
  .next (onRing lane 0x40 codes (fun msg => twinMsg lane 0x40 msg (takeJournal lane msg)) s)
/-- ACK of the highest record stored: every 100 µs while behind, every 10 ms otherwise. -/
def mirrorAck (lane : Fin 2) (s : State) : State :=
  let m := s.mirror (isWest lane)
  let every := if m.seq == m.acked then 10000000 else 100000
  if m.st == .none || s.clk - m.ackAt < every then s
  else
    sendRing (isWest lane) 0x41 (twinHead s.nv.devid m.dev 0 ++ toLE 8 m.seq.toNat)
      (s.setMirror (isWest lane) { m with acked := m.seq, ackAt := s.clk })
def execMirrorAckSend (dt : Nat) (lane : Fin 2) (s : State) : Out := .next (mirrorAck lane (elapse dt s))
/-- SNAP messages of up to 63 records each, from the record numbered `off`. -/
def sendSnaps (west : Bool) (dst : DWord) : Nat → Nat → List Byte → State → State
  | 0, _, _, s => s
  | fuel + 1, off, bytes, s =>
    if bytes.isEmpty then s
    else sendSnaps west dst fuel (off + 63) (bytes.drop 2016)
      (sendRing west 0x44 (twinHead s.nv.devid dst 0 ++ toLE 8 off ++ bytes.take 2016) s)
/-- A PULL from a spare: HDR, the snapshot and END, or NACK with 1 NO_MIRROR or 2 INCOMPLETE. -/
def answerPull (lane : Fin 2) (b : List Byte) (s : State) : State :=
  let west := isWest lane
  let peer := twinSrc b
  let dev : DWord := BitVec.ofNat 64 (u64At b 24)
  let send := fun type body s => sendRing west type (twinHead s.nv.devid peer 0 ++ body) s
  match [s.res.east, s.res.west].find? (fun m => m.st != .none && m.dev == dev) with
  | none => send 0x46 (toLE 1 1) s
  | some m =>
    if m.st != .complete || (m.recs.getLast?.map openRec).getD false then send 0x46 (toLE 1 2) s
    else
      let bytes := m.recs.flatMap id
      let n := bytes.length / 32
      let s := send 0x43 (digestBytes (Config.mirrorDigest dev) ++ toLE 8 n ++ toLE 8 m.seq.toNat) s
      send 0x45 (toLE 4 (crc32c bytes)) (sendSnaps west peer (n + 1) 0 bytes s)
def execPullRequest (lane : Fin 2) (codes : List Code) (s : State) : Out :=
  .next (onRing lane 0x42 codes (fun msg => twinMsg lane 0x42 msg (answerPull lane msg)) s)

/-! ### The device's own mirror (R373) -/

/-- A table entry as a REPAIR record. -/
def repairRec (s : State) (tbl : Nat) (b : Bool) (index : Nat) (w : List Word) : Bool × List Byte :=
  (true, fit 32 (recBytes 1 (s.fwd.wseq.toNat % 2 ^ 32)
    (toLE 4 (cmdWord ⟨9, tbl, b, index, 0, 0, 0, 0⟩) ++ toLE 4 index ++ bytesOfWords w)))
def State.tableRecs (s : State) (tbl : Nat) (b : Bool) : List (Bool × List Byte) :=
  if tbl == 6 then
    (s.bank b).exact.map (fun e => repairRec s 6 b (s.slotOf b (BitVec.ofNat 32 e.1)) (exactWords (BitVec.ofNat 32 e.1) e.2))
  else (tableKeys s tbl b).map (fun i => repairRec s tbl b i (tableWords s tbl b i))
def ctxRecs (cid : Nat) (c : Ctx) : List (Bool × List Byte) :=
  (false, recBytes 4 0 (toLE 4 cid ++ toLE 4 c.raw.length)) :: (chopAll 32 c.raw).map (fun r => (false, fit 32 r))
    ++ c.withdrawn.filterMap (fun e => e.2.map (fun w => (false, recBytes 6 0 (toLE 4 cid ++ toLE 4 e.1 ++ toLE 4 w.toNat))))
/-- MIL_BIND_ARG0 of a binding (R310). -/
def placeArg (p : Place) : Nat :=
  p.district * 2 ^ 28 + p.cores.toNat * 2 ^ 20 + p.slot * 2 ^ 11 + p.threads * 2 ^ 6 + b2n p.kind * 32 + b2n p.pin * 16
/-- The device's own state as journal records: every change that would make it. -/
def State.snapshot (s : State) : List (Bool × List Byte) :=
  ([false, true].flatMap (fun b => [0, 1, 2, 3, 4, 5, 6].flatMap (fun t => s.tableRecs t b)))
    ++ [8, 9, 10].flatMap (fun t => s.tableRecs t false)
    ++ s.mil.tf.map (fun e => (false, recBytes 2 0 (toLE 4 e.1 ++ bytesOfWords [e.2.w0, e.2.w1, e.2.w2, e.2.w3])))
    ++ s.mil.cb.flatMap (fun e => [0, 1].map (fun h => (false, recBytes 3 0 (cbJournal e.1 h e.2.vals))))
    ++ s.lnd.ctxs.flatMap (fun e => match e.2 with | some c => ctxRecs e.1 c | none => [])
    ++ s.mil.binds.filterMap (fun e => e.2.map (fun b => (false, recBytes 7 0 (toLE 4 e.1 ++ toLE 4 (placeArg b.place) ++ toLE 4 b.place.ycap.toNat ++ slice (s.placeImage b.place) 32 12))))
/-- The mirror starts afresh with a full snapshot, SEQ from 1. -/
def sendSnapshot (own : MirOwn) (s : State) : State :=
  let l := s.snapshot.mapIdx (fun i e => JRec.mk (BitVec.ofNat 64 (i + 1)) e.1 e.2)
  let s := { s with res.own := own, res.journal := l, res.nextSeq := BitVec.ofNat 64 (l.length + 1) }
  let groups := (List.range (divUp l.length 60)).map (fun k => (l.drop (60 * k)).take 60)
  forEach groups sendJrnl s
/-- A plat that names a twin starts the mirror; without one it is OFF (R55, R380). -/
def startMirror (s : State) : State :=
  if s.twin == 0 then { s with res.own := .off, res.journal := [] }
  else sendSnapshot (if s.snapshot.isEmpty then .current else .syncing) s
/-- The 64-bit WSEQ, not above the present one, with a given low word. -/
def wideWseq (now : DWord) (low : Nat) : DWord :=
  let c := now.toNat / 2 ^ 32 * 2 ^ 32 + low
  BitVec.ofNat 64 (if now.toNat < c then c - 2 ^ 32 else c)
/-- An ACK frees the records up to SEQ; without progress the oldest unacknowledged are sent again; a LAGGING mirror gets a full snapshot. -/
def mirrorAcked (lane : Fin 2) (b : List Byte) (s : State) : State :=
  let seq := u64At b 24
  let west := s.twin == 2
  if s.twin == 0 || isWest lane != west || twinSrc b != Config.neighbour s.nv.devid (!west) then s
  else if s.res.own == .lagging then sendSnapshot .current s
  else if s.res.nextSeq.toNat ≤ seq then s
  else
    let gone := s.res.journal.filter (fun r => decide (r.seq.toNat ≤ seq))
    let rest := s.res.journal.filter (fun r => decide (seq < r.seq.toNat))
    let s := { s with
      res.journal := rest,
      res.mirAck := (match (gone.filter (·.tab)).getLast? with | some r => wideWseq s.fwd.wseq (u32At r.bytes 4) | none => s.res.mirAck),
      res.own := if rest.isEmpty then .current else s.res.own }
    if gone.isEmpty then sendJrnl (rest.take 60) s else s
def execJrnlAck (lane : Fin 2) (codes : List Code) (s : State) : Out :=
  .next (onRing lane 0x41 codes (fun msg => twinMsg lane 0x41 msg (mirrorAcked lane msg)) s)

/-! ### PULL on a spare (R374, R375) -/

/-- PULL ends: STATUS and RESULT, and source 10. -/
def endPull (status result : Nat) (s : State) : State :=
  fire 10 { s with res.pullOp := none, res.spareBusy := false, res.spareStatus := BitVec.ofNat 8 status, res.spareResult := BitVec.ofNat 4 result }
def execPull (p : HPort) (s : State) : Out :=
  .next (hostWrite p false (fun s =>
    if s.res.spareBusy then { s with res.spareReject := true }
    else if s.glb.state != .ready then { s with res.spareStatus := 2 }
    else
      let s := { s with
        res.spareBusy := true, res.spareStatus := 0, res.spareResult := 1, res.noImage := 0, res.refused := 0,
        res.pullOp := some ⟨false, 0, 0, s.clk, [], 0xFFFFFFFF⟩ }
      sendRing false 0x42 (twinHead s.nv.devid s.res.spareHold 0 ++ toLE 8 s.res.spareDev.toNat) s) s)
/-- ABORT ends a PULL in progress; without one it is WRONG_STATE. -/
def execSpareAbort (p : HPort) (s : State) : Out :=
  .next (hostWrite p false (fun s =>
    if s.res.pullOp.isSome then endPull 0x0D 4 s else { s with res.spareStatus := 2 }) s)
/-- A message of the holder, while a PULL runs. -/
def pullMsg (lane : Fin 2) (type : Nat) (b : List Byte) (f : PullOp → State → State) (s : State) : State :=
  twinMsg lane type b (fun s =>
    match s.res.pullOp with
    | some o => if twinSrc b == s.res.spareHold then f o s else s
    | none => s) s
def execHdr (lane : Fin 2) (codes : List Code) (s : State) : Out :=
  .next (onRing lane 0x43 codes (fun msg => pullMsg lane 0x43 msg (fun o s =>
    if o.hdr then s
    else if s.plt.active != some (digestOf (slice msg 24 32)) then endPull 0x0A 3 s
    else { s with res.pullOp := some { o with hdr := true, total := BitVec.ofNat 64 (u64At msg 56), lastRx := s.clk } })) s)
/-- A table record as REPAIR in the named bank; a record of both banks in both; an insert keeps CORDON, a deleted entry that is cordoned stays (R142). -/
def applyTable (r : List Byte) (s : State) : State :=
  let cmd := u32At r 8
  let op := fld cmd 28 4
  let a : FwdArg := ⟨9, fld cmd 24 4, bitAt cmd 23, u32At r 12, BitVec.ofNat 32 (u32At r 16), BitVec.ofNat 32 (u32At r 20), BitVec.ofNat 32 (u32At r 24), BitVec.ofNat 32 (u32At r 28)⟩
  let cordon := fun b => ((s.exact b a.d0).map (·.cordon)).getD false
  let insert := fun (b : Bool) (w1 : Nat) (s : State) =>
    (fwdDoRepair { a with tbl := 6, bank := b, d1 := BitVec.ofNat 32 (setFld (setFld w1 30 1 (b2n (cordon b))) 31 1 1) } s).1
  match op with
  | 3 => insert a.bank a.d1.toNat s
  | 4 =>
    if cordon a.bank then insert a.bank (setFld a.d1.toNat 29 1 0) s
    else (fwdDoRepair { a with tbl := 6, d1 := 0 } s).1
  | 6 => insert true (setFld a.d1.toNat 29 1 1) (insert false (setFld a.d1.toNat 29 1 1) s)
  | 7 => (fwdDoCordon { a with op := 7 } s).1
  | 8 => (fwdDoUncordon { a with op := 8 } s).1
  | _ => (fwdDoRepair a s).1
/-- A half of a codebook entry as written. -/
def applyCb (r : List Byte) (s : State) : State :=
  let i := u16At r 8 % 4096
  let h := u8At r 10 % 2
  let v := (List.range 8).map (fun k => BitVec.ofNat 16 (u16At r (12 + 2 * k)))
  let old := (s.cbEntry i).vals
  let vals := if h == 0 then v ++ old.drop 8 else old.take 8 ++ v
  journal 3 0 (cbJournal i h vals) { s with mil.cb := tset CbEnt.reset s.mil.cb i ⟨vals, true⟩ }
def applyTf (r : List Byte) (s : State) : State :=
  let w := fun k => BitVec.ofNat 32 (u32At r (12 + 4 * k))
  let e : TfEnt := ⟨w 0, w 1, w 2, w 3⟩
  journal 2 0 (toLE 4 (u32At r 8) ++ bytesOfWords [e.w0, e.w1, e.w2, e.w3]) { s with mil.tf := tset TfEnt.zero s.mil.tf (u32At r 8) e }
def applyInstall (r : List Byte) (s : State) : State :=
  let (s, st) := installRaw ((r.drop 32).take (u32At r 12)) s
  if st == 0 then s else { s with res.refused := BitVec.ofNat 16 (sat 0xFFFF (s.res.refused.toNat + 1)) }
def applyWithdraw (r : List Byte) (s : State) : State :=
  let cid := u32At r 8
  match s.ctx cid with
  | none => s
  | some c =>
    let w : Word := BitVec.ofNat 32 (u32At r 16)
    journal 6 0 (toLE 4 cid ++ toLE 4 (u32At r 12) ++ toLE 4 w.toNat)
      (s.setCtx cid (some { c with withdrawn := tset none c.withdrawn (u32At r 12) (some w) }))
/-- A bind, where the slot that it names holds an image with the record's digest; otherwise NOIMAGE counts it. MIL_BIND_ARG0 and 1 and MIL_BIND_STAT stay as they are. -/
def applyBind (r : List Byte) (s : State) : State :=
  let a0 := s.mil.arg0
  let a1 := s.mil.arg1
  let st := s.mil.bindStatus
  let t := { s with mil.arg0 := BitVec.ofNat 32 (u32At r 12), mil.arg1 := BitVec.ofNat 32 (u32At r 16) }
  let img := t.placeImage t.argPlace
  let t := if !img.isEmpty && slice img 32 12 == slice r 20 12 then doBind (u32At r 8) t
    else { t with res.noImage := BitVec.ofNat 16 (sat 0xFFFF (t.res.noImage.toNat + 1)) }
  { t with mil.arg0 := a0, mil.arg1 := a1, mil.bindStatus := st }
/-- One snapshot record is applied as the command it describes. -/
def applyRec (r : List Byte) (s : State) : State :=
  match u8At r 0 with
  | 1 => { (applyTable r s) with res.spareWseq := BitVec.ofNat 64 (u32At r 4) }
  | 2 => applyTf r s
  | 3 => applyCb r s
  | 4 => applyInstall r s
  | 6 => applyWithdraw r s
  | 7 => applyBind r s
  | _ => s
/-- One 32-byte record of the snapshot: it continues an install, begins one, or is applied. -/
def takeRec (r : List Byte) (s : State) : State :=
  match s.res.pullOp with
  | none => s
  | some o =>
    let unit := o.part ++ r
    let s := { s with res.pullOp := some { o with
      applied := o.applied + 1, part := if openRec unit then unit else [], crc := crcR 0x82F63B78 o.crc r } }
    if openRec unit then s else applyRec unit s
def execTwinSnap (lane : Fin 2) (codes : List Code) (s : State) : Out :=
  .next (onRing lane 0x44 codes (fun msg => pullMsg lane 0x44 msg (fun o s =>
    if !o.hdr || u64At msg 24 != o.applied then s
    else
      let recs := (chopAll 32 (msg.drop 32)).filter (fun r => r.length == 32)
      forEach (recs.take (o.total.toNat - o.applied)) takeRec { s with res.pullOp := some { o with lastRx := s.clk } })) s)
/-- END: with every record applied PULL is done; a CRC that does not match fails it. -/
def execTwinEnd (lane : Fin 2) (codes : List Code) (s : State) : Out :=
  .next (onRing lane 0x45 codes (fun msg => pullMsg lane 0x45 msg (fun o s =>
    if !o.hdr then s
    else if o.applied != o.total.toNat then { s with res.pullOp := some { o with lastRx := s.clk } }
    else if Nat.xor o.crc 0xFFFFFFFF != u32At msg 24 then endPull 0x0B 3 s
    else endPull 0 2 s)) s)
def execNack (lane : Fin 2) (codes : List Code) (s : State) : Out :=
  .next (onRing lane 0x46 codes (fun msg => pullMsg lane 0x46 msg (fun _ s => endPull 0x0C 3 s)) s)
def execPullTimeout (dt : Nat) (s : State) : Out :=
  let s := elapse dt s
  .next (
    match s.res.pullOp with
    | some o => if 1000000 ≤ s.clk - o.lastRx then endPull 0x0B 3 s else s
    | none => s)

end Sys2Proof.Machine
end

