-- ==== Sys2Proof/Machine/PlatOps.lean ====
section
/-! DEFINITION. The plat loader (R59 to R66): boot loads, host loads, the district re-plat, and what taking a structure into force does to ports, lanes, engines and SRAM banks. -/
namespace Sys2Proof.Machine
open Sys2Proof

/-! ### Replaced banks (R364) -/

def State.repairsUsed (s : State) (die : Nat) : Nat :=
  (s.res.parts.filter (fun e => e.1 / 4096 == 2 && e.2.st == .replaced && e.1 % 4096 / 2048 == die)).length
/-- A bank that is drained, or that its restored score would drain, is replaced by a repair bank of its die; without one it stays mapped in service and NOREPAIR rises. -/
def repairBank (i : Nat) (s : State) : State :=
  let x := s.partOf 2 i
  let out := x.st == .drained || x.st == .drainWait
  if x.st == .replaced || x.st == .testing || !(out || decide (s.score 2 i < s.drainAt 2)) then s
  else if s.repairsUsed (i / 2048) < 32 then
    let s := if x.st == .drained then undoDrain 2 i s else s
    s.modPart 2 i (fun x => { x with st := .replaced })
  else raiseCruise 3 (if x.st == .drained then returnPart 2 i s else s.modPart 2 i (fun x => { x with st := s.freeState 2 i }))
/-- The banks of the device, or of one district, at a plat load. -/
def repairBanks (d : Option Nat) (s : State) : State :=
  let mine := (s.res.parts.filter (fun e => e.1 / 4096 == 2 && (match d with | some d => bankDistrict (e.1 % 4096) == d | none => true))).map (fun e => e.1 % 4096)
  forEach mine repairBank s

/-! ### A structure comes into force -/

/-- A lane begins with the structure: built lanes are idle, others off. Its path, where it has one, begins too; retirement and mislocks are cleared where the plat builds the lane (R339). -/
def beginLane (l : Nat) (s : State) : State :=
  let built := s.laneBuilt l
  let s := s.setLane l { Lane.reset with st := if built then .idle else .off, txIdle := true }
  match s.pathOf l with
  | some p => if built then s.modPath p (fun _ => OPath.reset) else s
  | none => s
/-- A lane at its district's re-plat: one that was built and still is goes on in electrical idle with what it retains, no longer retired; its path begins anew. -/
def replatLane (l : Nat) (s : State) : State :=
  if (s.lane l).st == .off || !s.laneBuilt l then beginLane l s
  else
    let s := s.modLane l (fun v => { v with st := .idle })
    match s.pathOf l with
    | some p => s.modPath p (fun _ => OPath.reset)
    | none => s
/-- Present engines wait for ENG_HELLO; an engine that is up lights its new paths at once. -/
def beginEngine (e : Nat) (s : State) : State :=
  if !s.engPresent e then s.modEngine e (fun _ => Engine.reset)
  else if (s.engine e).st == .absent then s.modEngine e (fun g => { g with st := .waiting })
  else s
/-- Service lanes run where TIME names them or their engine is PRESENT (R119). -/
def beginSvc (n : Nat) (s : State) : State :=
  let t := s.plt.plat.time
  let named := (t.role != 0 && (n == t.east.toNat || n == t.west.toNat)) || (t.source == 1 && n == t.todLane.toNat) || n == t.toutLane.toNat
  let on := if n < 16 then named else s.engPresent ((n - 16) / 2)
  s.modSvc n (fun v => if on then (if v.st == .off then { v with st := .aligning } else v) else { v with st := .off })
/-- The Block ring begins to form: a candidate looks for better keys, and a member that takes its time from the ring is ACQUIRING, where it stays while no master sends (R190, R191). -/
def beginBlock (s : State) : State :=
  if !s.inBlock then s
  else { s with
    tmb.blk := .forming, tmb.electing := if s.candidate then some s.clk else none,
    tmb.lock := if s.plt.plat.time.source == 0 && s.tmb.lock == .free then .acquiring else s.tmb.lock }
/-- The bank in force is the plat's, and the background compare begins. -/
def beginTables (s : State) : State :=
  let b := s.plt.plat.bank == 1
  let s := { s with fwd.cur := b, fwd.stA := if b then .free else .live, fwd.stB := if b then .live else .free }
  { s with plt.lastPass := s.clk }
/-- Full plat: banks, lanes, engines, service lanes, the Block, the bank in force, districts in service; ports train. -/
def bringUp (s : State) : State :=
  let s := repairBanks none s
  let s := forEach (List.range 16) (fun d s => s.setDist d .inService) s
  let s := forEach ((s.plt.plat.ports.map (·.1)) ++ (s.plt.plat.opt.map (·.1)).filter (fun l => !(s.plt.plat.ports.any (fun e => e.1 == l)))) beginLane s
  let s := forEach (List.range 80) beginSvc (forEach (List.range 32) beginEngine s)
  let s := startMirror (beginBlock (beginTables s))
  setDev .training (forEach s.ports startTraining s)

/-! ### Loading and validation -/

/-- PLT_STATUS at the end of an operation, and source 1. -/
def platEnds (e : PErr) (s : State) : State :=
  fire 1 { s with plt.code := BitVec.ofNat 8 e.code, plt.sect := BitVec.ofNat 4 e.sect, plt.errOff := BitVec.ofNat 32 e.off, plt.busy := false }
def okErr : PErr := ⟨0, 0, 0⟩
/-- GENERATION that governs a district (R67). -/
def State.govGen (s : State) (d : Nat) : Nat :=
  if tget 0 s.plt.ddigest d == 0 then s.plt.gen.toNat else (tget 0 s.plt.dgen d).toNat
/-- A context is homed in the district, or a program is bound to its cores (R15). -/
def State.districtBusy (s : State) (d : Nat) : Bool :=
  s.lnd.ctxs.any (fun e => match e.2 with | some c => c.d.home.toNat == d | none => false) || !(s.bindingsIn d).isEmpty
/-- Steps 2 to 12 of R61 over staged bytes and the staged length: the container in clear, or the first failure; a BAD_SIGNATURE, and a signature that holds, count (R413). -/
def validate (part : Bool) (want : Option Nat) (room : Nat) (staged : List Byte) (s : State) : State × Except PErr (List Byte) :=
  match checkHead s staged room with
  | some e => (s, .error e)
  | none =>
    let b := staged.take (u32At staged 16)
    match checkSign s b with
    | some e => (sigFail s, .error e)
    | none =>
      let s := sigGood s
      match unsealed s b with
      | .error e => (s, .error e)
      | .ok b =>
        let d := if part then some (platDistrict b) else none
        let p := amend (if part then s.plt.plat else Plat.none) b d
        match firstErr [
          fun _ => checkDir b part want,
          errIf (part && s.plt.active != some (digestOf (slice b 32 32))) 0x11 0 32,
          errIf (part && u64At b 24 ≤ s.govGen (platDistrict b)) 0x12 0 24,
          fun _ => checkSects b p d,
          fun _ => checkCross b p d,
          errIf (part && s.districtBusy (platDistrict b)) 0x13 0 0] with
        | some e => (s, .error e)
        | none => (s, .ok b)
/-- A validated full plat becomes active (R41, R57, R405). Where it carries a section of a known TYPE in a layout that the firmware skips, that part is as before any plat: the spec gives a full plat no other (log entry 91). -/
def activate (slot : Nat) (fallback : Bool) (b : List Byte) (s : State) : State :=
  let dig := trailerDigest b
  extend 3 (digestBytes dig) { s with
    plt.plat := amend Plat.none b none, plt.active := some dig, plt.gen := BitVec.ofNat 64 (u64At b 24),
    plt.sealed := if isSealed b then some (u8At b 64 == 1) else none, plt.skipped := BitVec.ofNat 8 (skippedCount b),
    plt.bootSlot := BitVec.ofNat 2 slot, plt.fallback := fallback }
/-- A validated partial plat is the district's structure (R405, R66). -/
def amendDistrict (b : List Byte) (s : State) : State :=
  let d := platDistrict b
  let dig := trailerDigest b
  extend 4 (toLE 1 d ++ digestBytes dig) { s with
    plt.ddigest := tset 0 s.plt.ddigest d dig, plt.dgen := tset 0 s.plt.dgen d (BitVec.ofNat 64 (u64At b 24)),
    plt.skipped := BitVec.ofNat 8 (skippedCount b) }
def amendPlat (b : List Byte) (s : State) : State := { s with plt.plat := amend s.plt.plat b (some (platDistrict b)) }
/-- The full plat of a flash slot. -/
def State.flashPlat (s : State) (slot : Bool) : List Byte := if slot then s.nv.plat1 else s.nv.plat0
/-- The staged length of a load from flash: the 4 MiB of the slot or entry (R61). -/
def flashRoom : Nat := 4194304
/-- What a flash slot or entry gives, up to the length that its header names: what was written, then what nothing has written. One that holds no plat fails at MAGIC. -/
def flashImage (region : Nat) (b : List Byte) : List Byte :=
  if b.isEmpty then zeros 404
  else
    let n := min flashRoom (u32At b 16)
    b ++ (rangeFrom b.length (n - b.length)).map (Config.flashByte region)
/-- At boot: the active slot, else the other; then each partial plat of the booted plat, in district order (R59). -/
def bootPartial (d : Nat) (s : State) : State :=
  let raw := tget [] s.nv.partials d
  if raw.isEmpty || s.plt.active != some (digestOf (slice raw 32 32)) then s
  else
    match validate true (some d) flashRoom (flashImage 2 raw) s with
    | (s, .ok b) => amendDistrict b (amendPlat b s)
    | (s, .error _) => s
def bootWith (slot : Bool) (fallback : Bool) (b : List Byte) (s : State) : State :=
  let s := activate (b2n slot) fallback b s
  platEnds okErr (bringUp (forEach (List.range 16) bootPartial s))
def bootPlat (s : State) : State :=
  if s.glb.state != .unplatted || s.sec.keylock || s.plt.active.isSome then s
  else
    let a := s.nv.active
    match validate false none flashRoom (flashImage (b2n a) (s.flashPlat a)) s with
    | (s, .ok b) => bootWith a false b s
    | (s, .error _) =>
      match validate false none flashRoom (flashImage (b2n (!a)) (s.flashPlat (!a))) s with
      | (s, .ok b) => bootWith (!a) true b s
      | (s, .error e) => platEnds e s
def execBootPlatLoad (s : State) : Out := .next (bootPlat s)
/-- Step 1's kind for a load: partial for SRC = 3, named by FLAGS for SRC = 0. -/
def loadKind (src : Nat) (staged : List Byte) : Bool := src == 3 || (src == 0 && decide (16 ≤ staged.length) && isPartial staged)
def State.loadSource (s : State) (src d : Nat) : List Byte :=
  match src with
  | 0 => rdMem s s.plt.stage.toNat s.plt.stageLen.toNat
  | 1 => flashImage 0 s.nv.plat0
  | 2 => flashImage 1 s.nv.plat1
  | _ => flashImage 2 (tget [] s.nv.partials d)
/-- A district re-plat begins: DRAINING; its reorder contexts release everything, packets held at ingress for its queues are discarded (R176), its flyovers end, its recalibrations end ABORTED (R63, R116, R347). -/
def startReplat (b : List Byte) (s : State) : State :=
  let d := platDistrict b
  let s := (s.setDist d .draining)
  let s := { s with plt.op := some (d, b), plt.busy := true }
  let s := flushReorder d s
  let out := fun (h : Held) (s : State) => s.outPort h.dest h.pkt
  let s := forEach (s.swc.holds.map (·.1)) (fun key s =>
    purgeFifo (fun h => (out h s).any (fun n => districtOf n == d) && (match h.dest with | .flow _ _ => false | _ => true))
      (fun h s => discard 23 h.pkt (out h s) s) key s) s
  let s := forEach (rangeFrom (128 * d) 128) abortRecal s
  flyEndAll (fun f => f.laneA.toNat / 128 == d || f.laneB.toNat / 128 == d) 6 s
def loadPlat (src d : Nat) (s : State) : State :=
  let staged := s.loadSource src d
  let part := loadKind src staged
  let allowed := if part then s.glb.state == .inService || s.glb.state == .quiesced else s.glb.state == .unplatted && !s.sec.keylock
  if !allowed then platEnds ⟨0x14, 0, 0⟩ s
  else
    match validate part (if src == 3 then some d else none) (if src == 0 then staged.length else flashRoom) staged s with
    | (s, .error e) => platEnds e s
    | (s, .ok b) =>
      if part then startReplat b s
      else platEnds okErr (bringUp (activate 2 false b s))
/-- PLT_CTRL.SRC and DISTRICT as written. -/
def notePltCtrl (src : BitVec 2) (district : BitVec 4) (s : State) : State := { s with plt.ctrlSrc := src, plt.ctrlDistrict := district }
/-- PLT_CTRL.LOAD with its SRC and DISTRICT (R60). -/
def execPlatLoad (p : HPort) (src : BitVec 2) (district : BitVec 4) (s : State) : Out :=
  .next (hostWrite p false (fun s =>
    let s := notePltCtrl src district s
    if s.plt.busy then { s with plt.reject := true } else loadPlat src.toNat district.toNat s) s)
def execPlatAbort (p : HPort) (s : State) : Out :=
  .next (hostWrite p false (fun s =>
    match s.plt.op with
    | some (d, _) =>
      if s.dist d == .draining then platEnds ⟨0x16, 0, 0⟩ { (s.setDist d .inService) with plt.op := none } else s
    | none => s) s)

/-! ### The stages of a district re-plat (R63) -/

/-- The output queues of a district's ports and its reorder store are empty. -/
def State.districtEmpty (s : State) (d : Nat) : Bool :=
  (s.distPorts d).all (fun p => (List.range 8).all (fun tc => (s.queue (queueKey p tc)).items.isEmpty)) && (s.ro d).all (fun c => c.held.isEmpty)
/-- The links go down and the new structure takes effect. -/
def enterReplat (d : Nat) (b : List Byte) (s : State) : State :=
  let s := s.setDist d .replat
  let s := forEach (s.distPorts d) (fun p s => (portDown p 0x0F 0 s).modLink p (fun l => { l with retired := 0 })) s
  let s := setRo d [] s
  let s := repairBanks (some d) (amendPlat b s)
  let s := forEach (rangeFrom (128 * d) 128) (fun l s =>
    let s := if s.portBuilt l then s else s.setLink l Link.reset
    replatLane l s) s
  let up := (List.range 32).filter (fun e => (s.engine e).st == .up)
  forEach ((rangeFrom (128 * d) 128).filterMap s.pathOf) (fun p s => if up.contains (p / 64) then lightPath p s else s) s
def execDistrictDrainDone (d : Fin 16) (s : State) : Out :=
  .next (
    match s.plt.op with
    | some (n, b) => if n == d.val && s.dist n == .draining && s.districtEmpty n then enterReplat n b s else s
    | none => s)
/-- Apply completes: TEST, and the district's ports train. -/
def execReplatApplyDone (d : Fin 16) (s : State) : Out :=
  .next (
    match s.plt.op with
    | some (n, b) =>
      if n == d.val && s.dist n == .replat then
        let s := amendDistrict b (s.setDist n .test)
        forEach (s.distPorts n) startTraining s
      else s
    | none => s)
/-- Training ends, also for a port that failed: IN_SERVICE. -/
def execDistrictTrained (d : Fin 16) (s : State) : Out :=
  .next (
    match s.plt.op with
    | some (n, _) =>
      if n == d.val && s.dist n == .test && (s.distPorts n).all s.portTrained then
        platEnds okErr { (s.setDist n .inService) with plt.op := none }
      else s
    | none => s)

end Sys2Proof.Machine
end

