-- ==== Sys2Proof/Machine/Host.lean ====
section
/-! DEFINITION. The commands at the host ports (15_host.md): PERST# and FLR, the BAR2 window, the host lease, DMA, interrupt holdoffs, and the mailbox. -/
namespace Sys2Proof.Machine
open Sys2Proof

/-! ### The host lease (R390 to R392) -/

/-- The host lease lasts 50 ms. -/
def hostLeaseNs : Nat := 50000000
/-- Ownership moves to a port: source 14 fires on the port that gains it and on the port that loses it. -/
def grantHost (p : HPort) (s : State) : State :=
  let old := s.hst.owner
  let s := { s with hst.owner := some p, hst.leaseEnd := s.clk + hostLeaseNs, hst.pend := none }
  if old == some p then s
  else
    let s := fireOn 14 p s
    match old with
    | some q => fireOn 14 q s
    | none => s
/-- The lease ends: a pending claim is granted at that instant, otherwise there is no owner. -/
def endHostLease (s : State) : State :=
  match s.hst.owner with
  | none => s
  | some q =>
    match s.hst.pend with
    | some c => grantHost c.port s
    | none => fireOn 14 q { s with hst.owner := none, hst.leaseEnd := 0 }
def hostTake (p : HPort) (st : Nat) (s : State) : State := s.modHost p (fun h => { h with takeStatus := BitVec.ofNat 8 st })
def renewHost (s : State) : State := { s with hst.leaseEnd := s.clk + hostLeaseNs }
/-- A claim while the other port owns: pending, with a fresh NONCE. -/
def pendClaim (p q : HPort) (s : State) : State :=
  let (f, s) := takeFree s
  let nonce : Half := BitVec.ofNat 16 f.toNat
  let s := { s with hst.pend := some ⟨p, nonce, s.clk⟩ }
  fireOn 14 q (hostTake p 1 (s.modHost p (fun h => { h with nonce := nonce })))
def execClaim (p : HPort) (s : State) : Out :=
  .next (portWrite p (fun s =>
    match s.hst.owner with
    | none => hostTake p 0 (grantHost p s)
    | some q => if q = p then hostTake p 0 (renewHost s) else pendClaim p q s) s)
def execHostRenew (p : HPort) (s : State) : Out :=
  .next (portWrite p (fun s => if s.hst.owner = some p then hostTake p 0 (renewHost s) else hostTake p 2 s) s)
def execHostYield (p : HPort) (s : State) : Out :=
  .next (portWrite p (fun s => if s.hst.owner = some p then hostTake p 0 (endHostLease s) else hostTake p 2 s) s)
/-- FORCE: the claimant that quotes the NONCE of its pending claim within 10 ms; a claimant that owns already gets OK (R399). -/
def execForce (p : HPort) (nonce : Half) (s : State) : Out :=
  .next (portWrite p (fun s =>
    if s.hst.owner = some p then hostTake p 0 s
    else
      match s.hst.pend with
      | some c => if c.port = p ∧ c.nonce = nonce ∧ s.clk - c.since ≤ 10000000 then hostTake p 0 (grantHost p s) else hostTake p 3 s
      | none => hostTake p 3 s) s)
def execHostLeaseLapse (dt : Nat) (s : State) : Out :=
  let s := elapse dt s
  .next (if s.hst.owner.isSome && decide (s.hst.leaseEnd ≤ s.clk) then endHostLease s else s)

/-! ### PERST# and FLR (R384) -/

/-- The per-port state at its reset values; the port's pending claim is withdrawn, and its host lease ends. -/
def resetPort (p : HPort) (s : State) : State :=
  let s := s.modHost p (fun h => { h with win := 0, irq := [], msix := [], pba := [], dma := [] })
  let s := match s.hst.pend with
    | some c => if c.port = p then { s with hst.pend := none } else s
    | none => s
  if s.hst.owner = some p then endHostLease s else s
/-- PERST# also takes the link down, and holds until it is deasserted; the configuration space returns to its first values. -/
def execPerst (p : HPort) (s : State) : Out :=
  .next ((resetPort p s).modHost p (fun h => { h with perst := true, speed := 0, width := 0, flit := false, cfg := .reset }))
/-- The port answers configuration requests, provided power is good (R383). -/
def answerConfig (p : HPort) (s : State) : State := if s.glb.state == .reset then s else emit (.config p (s.host p).cfg) s
/-- The link trains, configuration requests are answered, and the host sets the limits of R382. -/
def execPerstDeassert (p : HPort) (link : PcieLink) (mps mrrs : BitVec 3) (s : State) : Out :=
  .next (answerConfig p (s.modHost p (fun h => { h with perst := false, speed := link.speed, width := link.width, flit := link.flit, cfg := { h.cfg with mps := mps, mrrs := mrrs } })))
def execFlr (p : HPort) (s : State) : Out := .next (if (s.host p).perst then s else resetPort p s)

/-! ### BAR0 and BAR2 (R387, R388) -/

def execBar0BadAccess (p : HPort) (isWrite : Bool) (s : State) : Out :=
  .next (
    if (s.host p).perst then s
    else
      let s := count (evNo 2 0x002 (portIdx p)) s
      if isWrite then s else emit (.hostRead p none) s)
/-- Bytes read and written through the window: at or beyond the capacity a read gives 0, a write is discarded, and the access is counted. -/
def execBar2Access (p : HPort) (off : BitVec 36) (len : Nat) (wdata : Option (List Byte)) (s : State) : Out :=
  let a := (s.host p).win.toNat * 2 ^ 30 + off.toNat
  let n := match wdata with | some d => d.length | none => len
  let counted := fun (s : State) => if s.capacity < a + n then count (evNo 2 0x001 (portIdx p)) s else s
  .next (
    if (s.host p).perst then s
    else
      match wdata with
      | none => if s.booted then emit (.hostRead p (some (rdMem s a n))) (counted s) else emit (.hostRead p (some (zeros n))) s
      | some d => hostWrite p false (fun s => wrMem (counted s) a d) s)

/-! ### DMA (R393) -/

def State.dmaOf (s : State) (p : HPort) (c : Nat) : DmaCh := tget DmaCh.reset (s.host p).dma c
def modDma (p : HPort) (c : Nat) (f : DmaCh → DmaCh) (s : State) : State :=
  s.modHost p (fun h => { h with dma := tmod DmaCh.reset h.dma c f })
/-- A channel runs while it is enabled and has descriptors before PROD; a stopped one stays so. -/
def DmaCh.settle (d : DmaCh) : DmaCh :=
  if d.st == .stopped then d else { d with st := if d.enable && d.cons != d.prod then .running else .idle }
def execDmaProd (p : HPort) (c : Fin 16) (idx : Half) (s : State) : Out :=
  .next (portWrite p (modDma p c.val (fun d => DmaCh.settle { d with prod := idx })) s)
/-- What a descriptor completes with: 0 OK, 1 NOT_OWNER, 2 RANGE, 3 HOST_ERROR, 4 BAD_DESC. -/
def dmaStatus (p : HPort) (b : List Byte) (hostErr : Bool) (s : State) : Nat :=
  let len := u32At b 16
  let flags := u16At b 20
  if len == 0 || 16777216 < len || 8 ≤ flags || !allZero (slice b 22 2) then 4
  else if !bitAt flags 0 && s.hst.owner != some p then 1
  else if s.capacity < u64At b 8 + len then 2
  else if hostErr then 3
  else 0
/-- What it moves. Toward LPDDR5X, one in progress when ownership moved stops at its next 4 KiB boundary (R392), and one that met an error has written the good data before it. -/
def dmaMove (p : HPort) (b data : List Byte) (started st : Nat) (s : State) : State :=
  let dev := u64At b 8
  let len := u32At b 16
  let toHost := bitAt (u16At b 20) 0
  match st with
  | 0 => if toHost then emit (.hostWrite p (BitVec.ofNat 64 (u64At b 0)) (rdMem s dev len)) s else wrMem s dev (slice data 0 len)
  | 1 => if started == 0 then s else wrMem s dev (data.take (min len (alignUp (dev + started) 4096 - dev)))
  | 3 => if toHost then s else wrMem s dev (data.take len)
  | _ => s
/-- The descriptor at CONS completes: its STATUS is written to the ring and CONS advances; HOST_ERROR and BAD_DESC stop the channel. -/
def dmaDone (p : HPort) (c : Nat) (b data : List Byte) (started : Nat) (hostErr : Bool) (s : State) : State :=
  let d := s.dmaOf p c
  if (s.host p).perst || d.st != .running then s
  else
    let st := dmaStatus p b hostErr s
    let stop := st == 3 || st == 4
    let irq := bitAt (u16At b 20) 1
    let s := dmaMove p b data started st s
    let s := emit (.hostWrite p (d.ring + BitVec.ofNat 64 (32 * d.cons.toNat + 28)) (toLE 4 (2 ^ 31 + st))) s
    let s := modDma p c (fun d => DmaCh.settle { d with
      cons := BitVec.ofNat 16 ((d.cons.toNat + 1) % 2 ^ d.log2.toNat),
      st := if stop then .stopped else d.st, err := if stop then BitVec.ofNat 8 st else d.err, done := d.done || irq }) s
    if irq || stop then fireOn (16 + c) p s else s
def execDmaDescriptorDone (p : HPort) (c : Fin 16) (desc : List Byte) (data : List Byte) (started : Nat) (hostErr : Bool) (s : State) : Out :=
  .next (dmaDone p c.val desc data started hostErr s)
/-- CTRL.RESET: stopped, CONS = PROD = 0, IDLE; it runs again only after ENABLE. -/
def resetDma (d : DmaCh) : DmaCh := { d with enable := false, cons := 0, prod := 0, st := .idle, err := 0 }
def execDmaReset (p : HPort) (c : Fin 16) (s : State) : Out := .next (portWrite p (modDma p c.val resetDma) s)

/-! ### Interrupt holdoffs (R395) -/

/-- A holdoff ends: one message for the firings during it, and a new holdoff from it. -/
def endHoldoff (p : HPort) (src : Nat) (s : State) : State :=
  let h := s.host p
  let m := tget (IrqMap.reset src) h.irq src
  if m.fired && decide (m.holdEnd ≤ s.clk) then
    let m' := { m with fired := false, holdEnd := if m.holdoff == 0 then 0 else s.clk + m.holdoff.toNat * 1000 }
    let s := s.setHost p { h with irq := tset (IrqMap.reset src) h.irq src m' }
    if m.en then sendVector p m.vector.toNat s else s
  else s
def execMsixHoldoffEnd (dt : Nat) (p : HPort) (src : Fin 32) (s : State) : Out := .next (endHoldoff p src.val (elapse dt s))

/-! ### The mailbox (R396) -/

def execFwInfo (p : HPort) (s : State) : Out :=
  .next (mbCommand p (fun s =>
    mbAnswer (toLE 4 s.sec.fwver.toNat ++ toLE 1 (b2n s.sec.bootSlot) ++ zeros 27 ++ digestBytes s.sec.fwDigest) s) s)
/-- A flash region of 4 MiB: what is stored, then what nothing has written; none where it holds nothing. -/
def State.flashRegion (s : State) (region d : Nat) : Option (Nat → Byte) :=
  let of_ := fun (b : List Byte) => if b.isEmpty then none else some (fun i => b.getD i (Config.flashByte region i))
  match region with
  | 0 => of_ s.nv.plat0
  | 1 => of_ s.nv.plat1
  | 2 => of_ (tget [] s.nv.partials d)
  | _ => some (Config.activeRecord s.nv.active)
def execFlashRead (p : HPort) (s : State) : Out :=
  .next (mbCommand p (fun s =>
    let r := s.hst.arg0.toNat
    let n := s.hst.arg3.toNat
    if 3 < r || (r == 2 && 15 < s.hst.arg1.toNat) || 4194304 < s.hst.arg2.toNat + n then mbResult 2 0 s
    else
      match s.flashRegion r s.hst.arg1.toNat with
      | none => mbResult 3 0 s
      | some f => mbAnswer ((rangeFrom s.hst.arg2.toNat n).map f) s) s)
/-- The buffer's bytes, ARG3 of them. -/
def State.mbBytes (s : State) : List Byte := rdMem s s.mbAddr s.hst.arg3.toNat
def State.mbLenBad (s : State) : Bool := s.hst.arg3 == 0 || decide (4194304 < s.hst.arg3.toNat)
def setPlatSlot (slot : Bool) (b : List Byte) (s : State) : State := if slot then { s with nv.plat1 := b } else { s with nv.plat0 := b }
def execPlatWrite (p : HPort) (flashOk : Bool) (s : State) : Out :=
  .next (mbCommand p (fun s =>
    let slot := s.hst.arg0 == 1
    let b := s.mbBytes
    if 1 < s.hst.arg0.toNat || s.mbLenBad then mbResult 2 0 s
    else if u32At b 0 != 0x504C4154 || u32At b 16 != b.length then mbResult 4 0 s
    else if !flashOk then mbResult 6 0 (setPlatSlot slot [] s)
    else mbResult 0 0 (setPlatSlot slot b s)) s)
def execSetActive (p : HPort) (flashOk : Bool) (s : State) : Out :=
  .next (mbCommand p (fun s =>
    if 1 < s.hst.arg0.toNat then mbResult 2 0 s
    else if !flashOk then mbResult 6 0 s
    else mbResult 0 0 { s with nv.active := s.hst.arg0 == 1 }) s)
def execPartialWrite (p : HPort) (flashOk : Bool) (s : State) : Out :=
  .next (mbCommand p (fun s =>
    let d := s.hst.arg0.toNat
    let b := s.mbBytes
    let put := fun (b : List Byte) (s : State) => { s with nv.partials := tset [] s.nv.partials d b }
    if 15 < d || 4194304 < s.hst.arg3.toNat then mbResult 2 0 s
    else if s.hst.arg3 != 0 && (!isPartial b || platDistrict b != d) then mbResult 4 0 s
    else if !flashOk then mbResult 6 0 (put [] s)
    else mbResult 0 0 (put b s)) s)
/-- FW_WRITE: the inactive slot, under the checks of R403 and SECVER at least FUSEVER; a success is tried first at the next boot. -/
def execFwWrite (p : HPort) (flashOk : Bool) (s : State) : Out :=
  .next (mbCommand p (fun s =>
    let b := s.mbBytes
    let slot := !s.sec.bootSlot
    let put := fun (b : List Byte) (s : State) => if slot then { s with nv.fw1 := b } else { s with nv.fw0 := b }
    if fwCheck s b != 0 || u8At b 9 < s.nv.fusever.toNat then mbResult 7 0 (sigFail s)
    else
      let s := sigGood s
      if !flashOk then mbResult 6 0 (put [] s)
      else mbResult 0 0 { (put b s) with nv.fwFirst := slot }) s)
/-- The attestation report (R409), without its signature. -/
def reportBody (s : State) : List Byte :=
  let flags := b2n s.sec.dbgSince + 2 * b2n s.plt.sealed.isSome + 4 * b2n (s.sec.a1 != 0)
  let plat := match s.plt.active with | some d => digestBytes d | none => zeros 32
  toLE 4 0x41545354 ++ toLE 2 1 ++ toLE 2 flags ++ toLE 4 s.hst.arg0.toNat ++ toLE 4 s.hst.arg1.toNat
    ++ toLE 8 s.nv.devid.toNat ++ toLE 8 s.now ++ toLE 4 s.sec.fwver.toNat ++ toLE 1 s.sec.secver.toNat
    ++ toLE 1 s.nv.fusever.toNat ++ toLE 1 s.glb.state.code ++ toLE 1 (b2n s.sec.bootSlot) ++ toLE 4 s.res.cur.toNat
    ++ toLE 2 s.sec.a0.toNat ++ toLE 2 s.sec.a1.toNat ++ zeros 16
    ++ (List.range 8).flatMap (fun m => digestBytes (tget 0 s.sec.meas m)) ++ plat
    ++ pointBytes (Config.ekPub s.nv.devid) ++ toLE 4 320 ++ zeros 28 ++ toLE 320 (Config.idChain s.nv.devid).toNat
def execAttest (p : HPort) (s : State) : Out :=
  .next (mbCommand p (fun s =>
    if !s.ikUsable then mbResult 8 0 s
    else
      let b := reportBody s
      mbAnswer (b ++ pointBytes (Config.sm2Sign s.nv.devid (Config.sm3 b))) s) s)

end Sys2Proof.Machine
end

