-- ==== Sys2Proof/Machine/Lanes.lean ====
section
/-! DEFINITION. The commands of the lanes (04_lanes.md): codewords and equalisation, electrical idle, recalibration, eye scan, service lanes, and the calibration store. -/
namespace Sys2Proof.Machine
open Sys2Proof

def execEqTuneEnd (dt : Nat) (port : Port) (lane : Fin 8) (s : State) : Out :=
  .next (let s := elapse dt s; if lane.val < s.width port.val then tuneEnd (port.val + lane.val) s else s)
def execIdleRetainExpire (dt : Nat) (lane : LaneNo) (s : State) : Out := .next (retainExpire lane.val (elapse dt s))
def execIdleExit (port : Port) (lane : Fin 8) (s : State) : Out :=
  .next (if lane.val < s.width port.val then idleExit (port.val + lane.val) s else s)
def execRecal (p : HPort) (lane : LaneNo) (s : State) : Out := .next (hostWrite p false (requestRecal lane.val) s)
def execRecalPassEnd (dt : Nat) (lane : LaneNo) (s : State) : Out := .next (passEnd lane.val (elapse dt s))

/-! ### Eye scan (R117, R118, R129) -/

/-- Points that the scan in progress has completed. -/
def eyePoints (e : Eye) (t : Nat) : Nat := sat 4096 ((t - e.startAt) * 10 ^ 6 / max 1 e.ptFs)
/-- The count of a point, which no rule states: a free value, fixed as the scan starts. -/
def eyeCount (e : Eye) (i : Nat) : Word := BitVec.ofNat 32 (Config.freeWord (e.base + i)).toNat
/-- The counts of the first `n` points. -/
def Eye.counts (e : Eye) (n : Nat) : Tab Word := tsetL 0 [] 0 ((List.range n).map (eyeCount e))
/-- SRD_EYE_RES of a point: of a running scan, the points completed so far, in ascending order of index. -/
def eyeRead (e : Eye) (t i : Nat) : Word :=
  if e.busy then (if i < eyePoints e t then eyeCount e i else 0) else tget 0 e.res i
/-- The scan in progress ends early: its counts so far remain. -/
def abortEye (c : Nat) (s : State) : State :=
  let e := s.eyeOf c
  if !e.busy then s
  else
    let n := eyePoints e s.clk
    s.modEye c (fun e => { e with busy := false, points := BitVec.ofNat 13 n, res := e.counts n })
/-- A write of SRD_EYE_CTRL: the fields, then ABORT, then START. -/
def writeEye (c : Nat) (v : Nat) (s : State) : State :=
  let s := s.modEye c (fun e => { e with dwell := BitVec.ofNat 8 (fld v 24 8), eye := BitVec.ofNat 2 (fld v 22 2), lane := BitVec.ofNat 8 (fld v 8 8) })
  let s := if bitAt v 1 then abortEye c s else s
  if !bitAt v 0 then s
  else if (s.eyeOf c).busy then s.modEye c (fun e => { e with reject := true })
  else if !s.laneBuilt (256 * c + fld v 8 8) then s
  else
    { (s.modEye c (fun e => { e with points := 0, intr := false, done := false, busy := true, res := [], startAt := s.clk, scan := 256 * c + fld v 8 8, base := s.fresh,
                                     ptFs := 2 ^ (fld v 24 8) * 9412 + 10 ^ 8 })) with fresh := s.fresh + 4096 }
def execEyeStart (p : HPort) (chip : Fin 8) (v : Word) (s : State) : Out :=
  .next (hostWrite p false (writeEye chip.val (setFld v.toNat 0 1 1)) s)
def execEyeAbort (p : HPort) (chip : Fin 8) (s : State) : Out := .next (hostWrite p false (abortEye chip.val) s)
/-- The scan of a lane of a chiplet has completed all 4,096 points. -/
def scanDone (c lane : Nat) (s : State) : State :=
  let e := s.eyeOf c
  if !e.busy || e.scan != 256 * c + lane || eyePoints e s.clk < 4096 then s
  else s.modEye c (fun e => { e with busy := false, done := true, points := 4096, res := e.counts 4096 })
def execEyeScanDone (dt : Nat) (chip : Fin 8) (lane : Byte) (s : State) : Out := .next (scanDone chip.val lane.toNat (elapse dt s))

/-! ### Service lanes (R121 to R124) -/

def execServiceAlign (n : Fin 80) (bits : List Bool) (s : State) : Out :=
  .next (if s.svcOn n.val then s.modSvc n.val (fun v => bits.foldl Svc.takeBit v) else s)
/-- A message that is discarded is counted; one that is whole belongs to a command of its own. -/
def execServiceMessageDiscard (n : Fin 80) (codes : List Code) (s : State) : Out :=
  .next (svcMessage n.val codes (fun m => match m with | .bad why => discardSvc n.val why | _ => id) s)
/-- A K28.1: its arrival on the time base, in 2^-16 ns. -/
def execTimeMarker (n : Fin 80) (stamp : Nat) (s : State) : Out :=
  .next (if s.svcOn n.val then s.modSvc n.val (fun v => { v with marker := stamp }) else s)

/-! ### The calibration store (R127) -/

def readCal (s : State) : State := if s.nv.cal.isEmpty then mbResult 3 0 s else mbAnswer s.nv.cal s
def execCalRead (p : HPort) (s : State) : Out := .next (mbCommand p readCal s)
def execCalCapture (p : HPort) (adapted : List (Nat × List Byte)) (s : State) : Out :=
  .next (mbCommand p (fun s => mbAnswer (captureImage s adapted) s) s)
/-- CAL_WRITE: the image's own checks, its device, the flash; then the writes since manufacture are one more. -/
def writeCal (flashOk : Bool) (s : State) : State :=
  let head := rdMem s s.mbAddr 64
  let n := calLength head
  if u32At head 0 != 0x43414C53 || u16At head 4 != 1 || 131072 < n then mbResult 4 0 s
  else
    let b := rdMem s s.mbAddr n
    if !calValid b then mbResult 4 0 s
    else if u64At b 8 != s.nv.devid.toNat then mbResult 5 0 s
    else if !flashOk then mbResult 6 0 s
    else
      let was := if s.nv.cal.isEmpty then u16At b 6 else u16At s.nv.cal 6
      mbResult 0 0 { s with nv.cal := overlay b 6 (toLE 2 (was + 1)) }
def execCalWrite (p : HPort) (flashOk : Bool) (s : State) : Out := .next (mbCommand p (writeCal flashOk) s)

end Sys2Proof.Machine
end

