-- ==== Sys2Proof/Machine/Module.lean ====
section
/-! DEFINITION. The module (18_module.md): the input stage, the device reset and its causes, the boot ROM, sensors and the trip, the power governor, and COOL_OK (R23, R404, R436 to R444, R449, R454). -/
namespace Sys2Proof.Machine
open Sys2Proof

/-! ### Reset (R23, R443, R449) -/

/-- The trims that the calibration store holds: PWR_SENSn right after reset. The first record that names a sensor counts. -/
def bootTrims (b : List Byte) : Tab Sens :=
  if !calValid b then []
  else (List.range 64).foldr (fun i t =>
    let r := slice b (u32At b 32 + 8 * i) 8
    if u8At r 0 < 64 then tset Sens.reset t (u8At r 0) ⟨true, BitVec.ofNat 16 (u16At r 1), 0⟩ else t) []
/-- The whole device resets: what the module keeps is its fuses, key store and flash, the levels of its lands, the input stage with the trip, and the recorded cause. -/
def deviceReset (cause : Nat) (s : State) : State :=
  let p := s.pwr
  { State.reset with
    nv := s.nv, clk := s.clk, fresh := s.fresh, out := s.out, pending := s.pending,
    pwr := { Pwr.reset with
      coolOk := p.coolOk, dbgEn := p.dbgEn, supply := p.supply, trip := p.trip, vinLost := p.vinLost, thermtrip := p.thermtrip,
      faultLand := p.faultLand, cause := BitVec.ofNat 4 (if p.trip = .none then cause else p.cause.toNat), sens := bootTrims s.nv.cal },
    hst := { Hst.reset with ha.perst := s.hst.ha.perst, hb.perst := s.hst.hb.perst } }
/-- Every junction sensor reads at most `t`, in 1/16 C. -/
def State.sensAtMost (s : State) (t : Int) : Bool := s.pwr.sens.all (fun e => decide (celsius16 e.2.tj ≤ t))
/-- The start condition of R436: the power-up runs, and PGOOD goes high. -/
def tryStart (s : State) : State :=
  let p := s.pwr
  if s.glb.state = .reset ∧ p.pgood = false ∧ p.supply = .on ∧ p.coolOk = true ∧ (p.trip = .none ∨ (p.trip = .cycled ∧ s.sensAtMost 1520 = true)) then
    { s with pwr.pgood := true, pwr.trip := .none, pwr.vinLost := false, pwr.cause := if p.vinLost then 0 else p.cause }
  else s
/-- A supply condition takes the rails down. -/
def supplyLoss (cause : Nat) (to_ : Supply) (fault : Bool) (s : State) : State :=
  if s.pwr.supply != .on then s
  else
    let s := deviceReset cause s
    { s with pwr.supply := to_, pwr.faultLand := s.pwr.faultLand || fault }
def execUndervoltage (s : State) : Out := .next (supplyLoss 3 .off false s)
def execOvervoltage (s : State) : Out := .next (supplyLoss 4 .overvolt true s)
def execOvercurrent (s : State) : Out := .next (supplyLoss 5 .overcurrent true s)
/-- The input stage turns on; THERMTRIP# and FAULT# are released unless a trip still holds the device. -/
def supplyOn (s : State) : State :=
  let hold := s.pwr.trip == .hot || s.pwr.trip == .cooled
  tryStart { s with pwr.supply := .on, pwr.faultLand := s.pwr.faultLand && hold, pwr.thermtrip := s.pwr.thermtrip && hold }
def execVinRise (s : State) : Out :=
  .next (
    match s.pwr.supply with
    | .off => supplyOn s
    | .overcurrent => if s.pwr.vinLost then supplyOn s else s
    | _ => s)
def execVinReturn (s : State) : Out := .next (if s.pwr.supply = .overvolt then supplyOn s else s)
/-- VIN between 37 and 40 V. -/
def vinLow (s : State) : State := if s.pwr.vinlow then s else raisePwr 2 { s with pwr.vinlow := true }
def execVinLow (s : State) : Out := .next (if s.pwr.supply = .on then vinLow s else s)
/-- A member of a Block tells the ring that it leaves (R192). -/
def sendLeave (s : State) : State := if s.inBlock then sendBoth 0x23 (toLE 8 s.nv.devid.toNat) s else s
/-- RESET_IN# low for at least 10 µs: the device resets, in order, so that a member of a Block leaves it first (log entry 95); in RESET after a trip it releases the trip once the sensors are cool (R444). -/
def execResetIn (lowNs : Nat) (s : State) : Out :=
  .next (
    if lowNs < 10000 then s
    else
      match s.pwr.trip with
      | .cooled => tryStart { s with pwr.trip := .none, pwr.thermtrip := false, pwr.faultLand := s.pwr.faultLand && s.pwr.supply != .on }
      | .hot | .cycled => s
      | .none => if s.pwr.supply = .on then tryStart (deviceReset 1 (sendLeave s)) else s)
def execCoolOkFall (s : State) : Out :=
  let s := { s with pwr.coolOk := false }
  .next (if s.glb.state = .reset then s else raisePwr 5 s)
def execCoolOkRise (s : State) : Out := .next (tryStart { s with pwr.coolOk := true })

/-! ### The boot ROM (R404, R406) -/

/-- The firmware image of a slot passes: its checks, and SECVER at or above FUSEVER. A BAD_SIGNATURE counts. -/
def verifySlot (slot : Bool) (s : State) : State × Bool :=
  let b := if slot then s.nv.fw1 else s.nv.fw0
  match fwCheck s b with
  | 0 => (sigGood s, decide (s.nv.fusever.toNat ≤ u8At b 9))
  | 2 => (sigFail s, false)
  | _ => (s, false)
/-- The firmware starts: measurements, versions, and the scores and replaced banks saved in flash (R365). -/
def startFirmware (slot : Bool) (s : State) : State :=
  let b := if slot then s.nv.fw1 else s.nv.fw0
  let dig := trailerDigest b
  let s := extend 2 (slice b 10 4 ++ slice b 9 1 ++ toLE 1 (b2n slot)) (extend 1 (digestBytes dig) s)
  let s := { s with
    sec.secver := BitVec.ofNat 8 (u8At b 9), sec.fwver := BitVec.ofNat 32 (u32At b 10), sec.bootSlot := slot, sec.fwDigest := dig }
  let s := forEach s.nv.savedPen (fun e s => { s with res.parts := tmod Part.reset s.res.parts e.1 (fun x => { x with pen := e.2, penAt := s.clk }) }) s
  let s := forEach s.nv.savedBanks (fun e s => s.modPart 2 e.1 (fun x => { x with st := .replaced })) s
  setDev .unplatted s
/-- Power good: the ROM's steps in order. If neither slot passes the device stays in BOOT. -/
def powerGood (s : State) : State :=
  if !(s.glb.state == .reset && s.pwr.pgood) then s
  else
    let s := extend 0 (digestBytes Config.romDigest) (setDev .boot { s with sec.meas := [] })
    let s := if s.nv.erasing then eraseKeys s else s
    let s := if s.nv.tempLatch then alarm 2 { s with nv.tempLatch := false } else s
    match verifySlot s.nv.fwFirst s with
    | (s, true) => startFirmware s.nv.fwFirst s
    | (s, false) =>
      match verifySlot (!s.nv.fwFirst) s with
      | (s, true) => startFirmware (!s.nv.fwFirst) s
      | (s, false) => s
def execPowerGood (s : State) : Out := .next (powerGood s)

/-! ### Sensors, the trip and the Mill stop (R366, R367, R443, R444) -/

/-- The sensors that a district's governor reads. -/
def govSensors (d : Nat) : List Nat := [3 * d, 3 * d + 1, 3 * d + 2, if d < 8 then 48 + d / 2 else 52 + (d - 8) / 2]
def State.reading (s : State) (n : Nat) : Int := celsius16 (tget Sens.reset s.pwr.sens n).tj
/-- The hottest of some sensors, the first of equal ones. -/
def hottest (s : State) (l : List Nat) (first : Nat) : Nat := l.foldl (fun h n => if s.reading h < s.reading n then n else h) first
/-- Each sensor's reading with its trim. -/
def readSensors (tj : List Half) (s : State) : State :=
  forEach (List.range 64) (fun n s =>
    { s with pwr.sens := tmod Sens.reset s.pwr.sens n (fun x => { x with tj := tj.getD n 0 + x.trimBy }) }) s
/-- RES_GOVn.TJ and STOP. -/
def govern (d : Nat) (s : State) : State :=
  let h := hottest s (govSensors d) (3 * d)
  let t := s.reading h
  s.setGov d { s.gov d with tj := BitVec.ofInt 16 t, stop := decide (1760 ≤ t) || ((s.gov d).stop && decide (1680 < t)) }
/-- A condition since an instant: none while it does not hold; after 1 s of it the event bit is set and the second begins again. -/
def heldSecond (c : Bool) (since : Option Nat) (now : Nat) : Option Nat × Bool :=
  if !c then (none, false)
  else
    match since with
    | none => (some now, false)
    | some t => if 10 ^ 9 ≤ now - t then (some now, true) else (some t, false)
def coolant (inlet outlet : Half) (s : State) : State :=
  let (i, ei) := heldSecond (decide (640 < celsius16 inlet)) s.pwr.inletSince s.clk
  let (d, ed) := heldSecond (decide (celsius16 inlet + 240 < celsius16 outlet)) s.pwr.deltaSince s.clk
  let s := { s with pwr.inlet := inlet, pwr.outlet := outlet, pwr.inletSince := i, pwr.deltaSince := d }
  let s := if ei then raisePwr 3 s else s
  if ed then raisePwr 4 s else s
/-- Voltage, current and power. -/
def electrical (vin iin pin : Half) (vcore : List Half) (s : State) : State :=
  let mx := if s.pwr.pinMax.toNat < pin.toNat then pin else s.pwr.pinMax
  let s := { s with pwr.vin := vin, pwr.iin := iin, pwr.pinNow := pin, pwr.pinMax := mx, pwr.vcore := tsetL 0 s.pwr.vcore 0 (vcore.take 16) }
  let low := decide (37000 ≤ vin.toNat) && decide (vin.toNat < 40000)
  if low && s.pwr.supply == .on then vinLow s else if low then s else { s with pwr.vinlow := false }
/-- The trip at 115 C; while tripped, every sensor at 95 C or below. -/
def tripCheck (s : State) : State :=
  match s.pwr.trip with
  | .none =>
    if s.pwr.pgood && (List.range 64).any (fun n => decide (1840 ≤ s.reading n)) then
      let s := deviceReset 2 s
      { s with pwr.trip := .hot, pwr.thermtrip := true, pwr.faultLand := true }
    else s
  | .hot => if s.sensAtMost 1520 then { s with pwr.trip := .cooled } else s
  | .cooled => s
  | .cycled => tryStart s
/-- VIN below 30 V: the standby rail is off. An overcurrent hold and a cooled trip end with the next rise. -/
def standbyOff (s : State) : State :=
  let s := supplyLoss 3 .off false s
  { s with pwr.vinLost := true, pwr.trip := if s.pwr.trip = .cooled then .cycled else s.pwr.trip }
def execSensorSample (dt : Nat) (tj : List Half) (inlet outlet : Half) (vin iin pin : Half) (vcore : List Half) (s : State) : Out :=
  let s := elapse dt s
  .next (
    if vin.toNat < 30000 then standbyOff s
    else
      let s := electrical vin iin pin vcore (coolant inlet outlet (readSensors tj s))
      let h := hottest s (List.range 64) 0
      let s := { s with pwr.tjSensor := BitVec.ofNat 6 h, pwr.tjMax := (tget Sens.reset s.pwr.sens h).tj }
      tripCheck (if s.pwr.pgood then forEach (List.range 16) govern s else s))

/-! ### The power governor (R35, R439) -/

def execPowerGovWithdraw (dt : Nat) (s : State) : Out :=
  let s := elapse dt s
  .next (
    if s.pwr.pinNow.toNat ≤ 3600 ∨ s.clk - s.pwr.govLast < 1000000 ∨ 12 ≤ s.pwr.plevel.toNat then s
    else
      let n := s.pwr.plevel.toNat + 1
      raisePwr 1 (forEach (List.range 16) (abortEngineTests · n) { s with pwr.plevel := BitVec.ofNat 4 n, pwr.pgov := true, pwr.govLast := s.clk }))
def execPowerGovReturn (dt : Nat) (s : State) : Out :=
  let s := elapse dt s
  .next (
    if 3400 < s.pwr.pinNow.toNat ∨ s.clk - s.pwr.govLast < 100000000 ∨ s.pwr.plevel = 0 then s
    else { s with pwr.plevel := s.pwr.plevel - 1, pwr.pgov := decide (s.pwr.plevel ≠ 1), pwr.govLast := s.clk })
def execClrmax (p : HPort) (s : State) : Out := .next (hostWrite p false (fun s => { s with pwr.pinMax := 0 }) s)

end Sys2Proof.Machine
end

