-- ==== Sys2Proof/Machine/SwitchCore.lean ====
section
/-! DEFINITION. The commands of the switch core (06_switch_core.md): arrival, releases, transmission, sweeps, spraying and reorder upkeep, sampling. -/
namespace Sys2Proof.Machine
open Sys2Proof

def execPacketIngress (port : Port) (bytes : List Byte) (upsets : List Upset) (s : State) : Out :=
  .next (if s.up port.val then takePacket port.val bytes upsets s else s)

/-! ### Releases (R161, R164, R166) -/

/-- The packet at the head of an ingress FIFO, held at a limit, is written once there is room. -/
def releaseHold (port tc : Nat) (s : State) : State :=
  match s.fifo port tc with
  | [] => s
  | h :: rest =>
    if h.policed then s
    else if s.aged h.pkt then windfall h.pkt (s.outPort h.dest h.pkt) false (setFifo port tc rest s)
    else
      match place h.dest h.pkt (setFifo port tc rest s) with
      | (s', true) => s'
      | (_, false) => s
def execIngressHoldRelease (port : Port) (tc : BitVec 3) (s : State) : Out := .next (releaseHold port.val tc.toNat s)
/-- The oldest held packet of the highest class that holds any is released once the bucket holds its size. -/
def releasePoliced (port : Nat) (s : State) : State :=
  let s := fillPolicer port s
  match [7, 4, 3, 2, 1, 0].find? (fun tc => (s.fifo port tc).any (·.policed)) with
  | none => s
  | some tc =>
    let f := s.fifo port tc
    match f.find? (·.policed) with
    | none => s
    | some h =>
      let s' := setFifo port tc (f.eraseP (·.policed)) s
      if s.aged h.pkt then windfall h.pkt (s.outPort h.dest h.pkt) false s'
      else if (s.sched port).bucket < 4 * h.pkt.size then s
      else toCrossbar h.dest h.pkt (chargePolicer port h.pkt s')
def execPolicerRelease (dt : Nat) (port : Port) (s : State) : Out := .next (releasePoliced port.val (elapse dt s))
/-- A producer that waits tries to enqueue its packet (R161, R203); a transform-flow output that is aged by then is windfall (R164). -/
def enqueueProducer (i : Nat) (s : State) : State :=
  match s.swc.prod[i]? with
  | none => s
  | some w =>
    let before := s.swc.prod.take i
    let after := s.swc.prod.drop (i + 1)
    let s0 := { s with swc.prod := before ++ after }
    if !w.stampAtEnqueue && s.aged w.pkt then kickLanding w.pkt (windfall w.pkt (chosenPort s w.pkt.district w.hop w.pkt.h) false s0)
    else if !s.hopUp w.hop then kickLanding w.pkt (discard 12 w.pkt w.hop.port? s0)
    else
      let s1 := originateAny w.stampAtEnqueue w.notBefore w.hop w.pkt s0
      if s1.swc.prod.length == before.length + after.length then kickLanding w.pkt s1
      else { s1 with swc.prod := before ++ s1.swc.prod.drop (before.length + after.length) ++ after }
def execProducerEnqueue (i : Nat) (s : State) : Out := .next (enqueueProducer i s)
/-- A waiting replication goes on from its copy, or ends as windfall. -/
def resumeRepl (i : Nat) (s : State) : State :=
  match s.swc.repl[i]? with
  | none => s
  | some w =>
    let before := s.swc.repl.take i
    let after := s.swc.repl.drop (i + 1)
    match runRepl (w.count + 1) w { s with swc.repl := before ++ after } with
    | (s, none) => s
    | (s, some w') => { s with swc.repl := before ++ w' :: after }
def execReplicationResume (i : Nat) (s : State) : Out := .next (resumeRepl i s)

/-! ### Transmission and sweeping (R165, R167) -/

/-- A port that is UP or DEGRADED serves its queues; a CORDONED device begins no transmission (R355). -/
def transmit (port : Nat) (s : State) : State :=
  if !s.up port || s.glb.state == .cordoned then s
  else
    let s := fillG port s
    serve (s.queuedAt port + 1) port s
def execTransmitOpportunity (dt : Nat) (port : Port) (s : State) : Out := .next (transmit port.val (elapse dt s))
def execWindfallSweep (dt : Nat) (d : Fin 16) (s : State) : Out := .next (sweepDistrict d.val (elapse dt s))

/-! ### Spraying and reorder upkeep (R170, R171, R174) -/

/-- Spray counters of flows that have sent nothing for the largest AGE plus 2 ms are released. -/
def releaseSpray (d : Nat) (s : State) : State :=
  let lim := s.maxAge + 2000000
  { s with swc.spray := tmod [] s.swc.spray d (fun l => l.filter (fun c => decide (s.clk - c.last < lim))) }
def execSprayCounterRelease (dt : Nat) (d : Fin 16) (s : State) : Out := .next (releaseSpray d.val (elapse dt s))
/-- A bucket returns to its home port once that is up and no packet has used it for 1 ms. -/
def returnBucket (b k : Nat) (s : State) : State :=
  let all := s.bundlePorts b
  let home := all.getD (k % max 1 all.length) 0
  match tget none s.swc.bucket (256 * b + k) with
  | none => s
  | some r =>
    if s.up home && decide (1000000 ≤ s.clk - r.last) then { s with swc.bucket := tset none s.swc.bucket (256 * b + k) none } else s
def execBucketReturn (dt : Nat) (bundle : Fin 2048) (k : Byte) (s : State) : Out := .next (returnBucket bundle.val k.toNat (elapse dt s))
/-- Every context of the district whose oldest held packet has waited TMO. -/
def reorderTimeouts (d : Nat) (s : State) : State :=
  forEach ((s.ro d).filter (Reorder.due s)) (fun c s =>
    match (s.ro d).find? (sameRo c) with
    | none => s
    | some c =>
      let (s, acts) := roTimeout d (c.held.length + 1) c s
      applyRo acts s) s
def execReorderTimeout (dt : Nat) (d : Fin 16) (s : State) : Out := .next (reorderTimeouts d.val (elapse dt s))
/-- Contexts with nothing held are retired after 1 ms without arrivals. -/
def retireReorder (d : Nat) (s : State) : State :=
  setRo d ((s.ro d).filter (fun c => !(c.held.isEmpty && decide (1000000 ≤ s.clk - c.last)))) s
def execReorderRetire (dt : Nat) (d : Fin 16) (s : State) : Out := .next (retireReorder d.val (elapse dt s))

/-! ### Sampling (R177, R178) -/

/-- SWC_SMP_PERIOD in ns; 0 is taken as 1 µs. -/
def State.smpPeriodNs (s : State) : Nat := max 1 s.swc.period.toNat * 1000
/-- The age of the head packet of a queue, 0 if it is empty, saturating (R184). -/
def State.headAge (s : State) (p tc : Nat) : Nat :=
  match ((s.queue (queueKey p tc)).head?).bind s.itemPkt with
  | some k => sat 0xFFFFFFFF (s.age k)
  | none => 0
def sampleRecord (s : State) (key : Nat) : List Byte :=
  let q := s.queue key
  toLE 4 (key % 8 * 2048 + key / 8) ++ toLE 4 q.depth ++ toLE 4 (s.headAge (key / 8) (key % 8)) ++ toLE 4 q.smax
/-- One sweep: the marker and a record for each queue, or, where the ring lacks room, SAMPLE_SKIP. -/
def sampleNow (at_ : Nat) (s : State) : State :=
  let all := s.ports.flatMap (fun p => (List.range 8).map (queueKey p))
  let keys := all.filter (fun k => !s.swc.nonempty || (s.queue k).depth != 0 || (s.queue k).smax != 0)
  let n := 2 ^ s.swc.smpSize.toNat
  let h := s.swc.smpHead.toNat % n
  let free := (s.swc.smpTail.toNat % n + n - h - 1) % n
  let recs := (toLE 4 (2 ^ 31) ++ zeros 4 ++ toLE 8 at_) :: keys.map (sampleRecord s)
  if free < recs.length then raiseSwc 1 (count (evNo 16 0x021 0) s)
  else
    let s := forEach recs.zipIdx (fun r s => wrMem s (s.swc.smpBase.toNat + 16 * ((h + r.2) % n)) r.1) s
    let s := forEach all (fun k s => s.modQueue k (fun q => { q with smax := q.depth })) s
    { s with swc.smpHead := BitVec.ofNat 24 ((h + recs.length) % n) }
/-- A sweep at the last multiple of the period on the time base, once. -/
def sampleSweep (s : State) : State :=
  let k := s.now / s.smpPeriodNs
  if k == s.swc.lastSweep then s
  else
    let s := { s with swc.lastSweep := k }
    if s.swc.sample then sampleNow (k * s.smpPeriodNs) s else s
def execSampleSweep (dt : Nat) (s : State) : Out := .next (sampleSweep (elapse dt s))
/-- SWC_QMAX.RESET: MAX becomes the present depth. -/
def execQmaxReset (p : HPort) (port : Port) (tc : BitVec 3) (s : State) : Out :=
  .next (hostWrite p false (fun s => s.modQueue (queueKey port.val tc.toNat) (fun q => { q with maxd := q.depth })) s)

end Sys2Proof.Machine
end

