-- ==== Sys2Proof/Machine/Tally.lean ====
section
/-! DEFINITION. Tally (17_tally.md, R420 to R435): the catalogue, snapshots and their images, and tag records. -/
namespace Sys2Proof.Machine
open Sys2Proof

/-! ### The catalogue (R421 to R424) -/

/-- `n` codes from a first one, of one instance kind: block, code and the size of the kind. -/
def famRun (block code n size : Nat) : List (Nat × Nat × Nat) := (rangeFrom code n).map (fun c => (block, c, size))
/-- The families that R423 and R424 list, in ascending order of event number: block, code, instances. -/
def families : List (Nat × Nat × Nat) :=
  famRun 0 0x101 30 2064 ++ famRun 0 0x120 13 2064 ++ famRun 0 0x130 5 2064
    ++ famRun 2 0x000 3 2
    ++ famRun 4 0x000 4 2048 ++ famRun 4 0x010 1 2048
    ++ famRun 8 0x000 3 2048 ++ famRun 8 0x100 1 80
    ++ famRun 12 0x002 1 256 ++ famRun 12 0x010 1 1 ++ famRun 12 0x011 1 16
    ++ famRun 16 0x000 4 16384 ++ famRun 16 0x010 5 16 ++ famRun 16 0x020 2 1
    ++ famRun 20 0x001 7 4113
    ++ famRun 24 0x000 1 16 ++ famRun 24 0x001 1 256 ++ famRun 24 0x003 4 1 ++ famRun 24 0x007 1 16
    ++ famRun 28 0x000 6 128 ++ famRun 28 0x010 1 128 ++ famRun 28 0x011 1 16 ++ famRun 28 0x012 1 1
    ++ famRun 32 0x000 3 2048
    ++ famRun 36 0x000 1 2048 ++ famRun 36 0x002 1 256
/-- The event number is one that R423 or R424 lists. -/
def listed (ev : Nat) : Bool :=
  families.any (fun f => f.1 == ev / 2 ^ 26 && f.2.1 == ev / 65536 % 1024 && decide (ev % 65536 < f.2.2))
/-- How many listed events have a smaller number. -/
def listedBelow (ev : Nat) : Nat := sumOf (families.map (fun f => min f.2.2 (ev - evNo f.1 f.2.1 0)))
def listedCount : Nat := sumOf (families.map (fun f => f.2.2))
/-- TLY_COUNT: at most 1,048,576 (R422). -/
def State.tlyCount (s : State) : Nat := min 1048576 (listedCount + (Config.moreCounters s.sec.fwDigest).toNat)
/-- The model's own key of a further family's event, where the event number names one (R424). -/
def State.moreKey (s : State) (ev : Nat) : Option Nat := Config.moreFamily s.sec.fwDigest (BitVec.ofNat 32 ev)
def State.evValid (s : State) (ev : Nat) : Bool := listed ev || (s.moreKey ev).isSome
/-- A counter's index: the counters with a smaller event number (R422). -/
def State.evIndex (s : State) (ev : Nat) : Nat := listedBelow ev + Config.moreBelow s.sec.fwDigest (BitVec.ofNat 32 ev)
/-- The selected counter; 0 where the number names none. -/
def State.counter (s : State) (ev : Nat) : DWord :=
  if listed ev then tget 0 s.tly.ctr ev
  else match s.moreKey ev with
    | some k => tget 0 s.tly.ctrX k
    | none => 0
/-- A write of TLY_SEL fills TLY_SELINFO (R425). -/
def tlySel (ev : Word) (s : State) : State :=
  let v := s.evValid ev.toNat
  { s with tly.sel := ev, tly.selValid := v, tly.selIndex := if v then BitVec.ofNat 20 (s.evIndex ev.toNat) else 0 }
def execTlySel (p : HPort) (ev : Word) (s : State) : Out := .next (hostWrite p false (tlySel ev) s)

/-! ### Images (R428) -/

/-- TLY_IMG_BYTES. -/
def State.imgBytes (s : State) : Nat := alignUp (64 + 8 * s.tlyCount) 4096
/-- Ring slots; SIZE below 1 or above 8 is taken as the nearer bound. -/
def State.imgSlots (s : State) : Nat := 2 ^ max 1 (min 8 s.tly.imgSize.toNat)
/-- The value that index `i` has in a frozen copy. -/
def frozenAt (s : State) (im : SnapImage) (i : Nat) : Nat :=
  match im.frozen.find? (fun e => listed e.1 && s.evIndex e.1 == i) with
  | some e => e.2.toNat
  | none =>
    match im.frozenX.find? (fun e => match Config.moreNumber s.sec.fwDigest e.1 with | some n => s.evIndex n.toNat == i | none => false) with
    | some e => e.2.toNat
    | none => 0
/-- The 64-byte header. -/
def imageHead (s : State) (im : SnapImage) (seq : Nat) : List Byte :=
  let v := im.snap
  let flags := b2n v.timed + 2 * b2n v.block + 4 * b2n im.stepped + 8 * b2n v.late + 16 * b2n v.merged + 32 * im.lock.toNat
  toLE 4 0x544C5953 ++ toLE 2 1 ++ toLE 2 flags ++ toLE 2 v.id.toNat ++ zeros 2 ++ toLE 4 s.tlyCount ++ toLE 8 v.treq.toNat
    ++ toLE 8 im.tact.toNat ++ toLE 8 s.nv.devid.toNat ++ toLE 4 (Config.catId s.sec.fwDigest).toNat ++ toLE 4 seq ++ zeros 16
def imageOf (s : State) (im : SnapImage) (seq : Nat) : List Byte :=
  imageHead s im seq ++ (List.range s.tlyCount).flatMap (fun i => toLE 8 (frozenAt s im i))

/-! ### Latching (R426, R429) -/

def lockCode : LockState → Nat
  | .free => 0 | .acquiring => 1 | .locked => 2 | .holdover => 3
/-- A snapshot skipped: counted, and SNAPSKIP. -/
def skipSnap (s : State) : State := countX xfSnapSkip 0 { s with tly.evSnapSkip := true }
/-- Every counter is latched now; the snapshot is skipped where the ring is full or a copy-out runs. -/
def latch (v : Snap) (stepped : Bool) (s : State) : State :=
  let s := if v.block then { s with tly.lastSnap := some (v.id, v.treq) } else s
  if s.tly.copying.isSome || (s.tly.imgHead.toNat + 1) % s.imgSlots == s.tly.imgTail.toNat % s.imgSlots then skipSnap s
  else
    let im : SnapImage := { snap := v, tact := BitVec.ofNat 64 s.now, stepped, lock := BitVec.ofNat 2 (lockCode s.tmb.lock), frozen := s.tly.ctr, frozenX := s.tly.ctrX }
    { s with tly.copying := some im }

/-! ### Requests (R427) -/

def snapStatus (st : Nat) (s : State) : State := { s with tly.status := BitVec.ofNat 8 st }
/-- A pending instant lies within 500 µs of `t`. -/
def snapClose (l : List Snap) (t : Nat) : Bool := l.any (fun v => decide (v.due.toNat ≤ t + 500000) && decide (t ≤ v.due.toNat + 500000))
/-- A request that finds BUSY is ignored and sets REJECT. -/
def snapCmd (p : HPort) (f : State → State) (s : State) : State :=
  hostWrite p false (fun s => if s.tly.busy then { s with tly.reject := true } else f s) s
def snapNow (id : Half) (s : State) : State :=
  if snapClose s.tly.pend s.now then snapStatus 3 s
  else latch { id, treq := 0, due := BitVec.ofNat 64 s.now, timed := false, block := false, late := false, merged := false } false (snapStatus 0 s)
def execSnapNow (p : HPort) (id : Half) (s : State) : Out := .next (snapCmd p (snapNow id) s)
/-- The later of two requests for one instant is merged into the earlier. -/
def mergeSnap (t : DWord) (s : State) : State :=
  { s with tly.pend := s.tly.pend.map (fun v => if v.due == t then { v with merged := true } else v) }
def addSnap (v : Snap) (s : State) : State := { s with tly.pend := s.tly.pend ++ [v] }
/-- The refusals of AT and BLOCK_AT, in the table's order; 0 for none. -/
def snapRefusal (block : Bool) (s : State) : Nat :=
  let t := s.tly.at_.toNat
  if t < s.now + 10 ^ 6 || s.now + 10 ^ 10 < t then 2
  else if snapClose (s.tly.pend.filter (fun v => v.due != s.tly.at_)) t then 3
  else if 8 ≤ s.tly.pend.length && !s.tly.pend.any (fun v => v.due == s.tly.at_) then 4
  else if block && s.tmb.blk != .joined then 5
  else 0
/-- Schedules the snapshot at TLY_AT, or merges it. -/
def schedule (block : Bool) (id : Half) (s : State) : State :=
  if s.tly.pend.any (fun v => v.due == s.tly.at_) then mergeSnap s.tly.at_ s
  else addSnap { id, treq := s.tly.at_, due := s.tly.at_, timed := true, block, late := false, merged := false } s
def snapAt (id : Half) (s : State) : State :=
  let st := snapRefusal false s
  if st != 0 then snapStatus st s else schedule false id (snapStatus 0 s)
def execSnapAt (p : HPort) (id : Half) (s : State) : Out := .next (snapCmd p (snapAt id) s)
/-- SNAP: T, the origin's DEVID and the SNAPID after the common bytes (R430). -/
def snapBody (id : Half) (s : State) : List Byte := toLE 8 s.tly.at_.toNat ++ toLE 8 s.nv.devid.toNat ++ toLE 2 id.toNat ++ zeros 6
def blockAt (id : Half) (s : State) : State :=
  let st := snapRefusal true s
  if st != 0 then snapStatus st s else sendBoth 0x24 (snapBody id s) (schedule true id (snapStatus 0 s))
def execBlockAt (p : HPort) (id : Half) (s : State) : Out := .next (snapCmd p (blockAt id) s)
/-- The list without the first snapshot of an identity. -/
def dropSnap (id : Half) : List Snap → List Snap
  | [] => []
  | v :: r => if v.id = id then r else v :: dropSnap id r
def snapCancel (id : Half) (s : State) : State :=
  if s.tly.pend.any (fun v => v.id == id) then snapStatus 0 { s with tly.pend := dropSnap id s.tly.pend } else snapStatus 6 s
def execSnapCancel (p : HPort) (id : Half) (s : State) : Out := .next (snapCmd p (snapCancel id) s)

/-! ### SNAP from the ring (R430) -/

/-- The latest pending instant, and the list without it. -/
def latestDue (l : List Snap) : Nat := maxOf (l.map (fun v => v.due.toNat))
def dropLatest (m : Nat) : List Snap → List Snap
  | [] => []
  | v :: r => if v.due.toNat = m then r else v :: dropLatest m r
/-- The snapshot of this message is already here, or was the last one taken: it came by the other direction. -/
def State.snapKnown (s : State) (id : Half) (t : DWord) : Bool :=
  s.tly.pend.any (fun v => v.id == id && v.treq == t) || (match s.tly.copying with | some im => im.snap.id == id && im.snap.treq == t | none => false)
    || s.tly.lastSnap == some (id, t)
def takeSnap (id : Half) (t : DWord) (s : State) : State :=
  let v : Snap := { id, treq := t, due := t, timed := true, block := true, late := false, merged := false }
  if s.snapKnown id t then s
  else if t.toNat ≤ s.now then latch { v with late := true } false s
  else if s.tly.pend.any (fun u => u.due == t) then mergeSnap t s
  else if 8 ≤ s.tly.pend.length then addSnap v (skipSnap { s with tly.pend := dropLatest (latestDue s.tly.pend) s.tly.pend })
  else addSnap v s
def blockSnap (lane : Fin 2) (b : List Byte) (s : State) : State :=
  let own := u64At b 16 == s.nv.devid.toNat
  let s := forwardRing lane 0x24 b own s
  if own || s.tmb.blk != .joined then s else takeSnap (BitVec.ofNat 16 (u16At b 24)) (BitVec.ofNat 64 (u64At b 8)) s
def execBlockSnap (lane : Fin 2) (codes : List Code) (s : State) : Out :=
  .next (onRing lane 0x24 codes (fun b => blockMsg b (blockSnap lane b)) s)

/-! ### TACT and the end of copy-out -/

/-- The pending snapshot that falls due first, of those due by `t`. -/
def firstDue (t : Nat) (l : List Snap) : Option Snap :=
  l.foldl (fun o v => if t < v.due.toNat then o else match o with | some u => if v.due.toNat < u.due.toNat then some v else o | none => some v) none
/-- The time base was stepped past the instant: it had it behind it just after its last step (R434). -/
def State.steppedPast (s : State) (v : Snap) : Bool :=
  match s.tmb.stepAt with
  | some t => decide (v.due.toNat + (s.clk - t) ≤ s.now)
  | none => false
def snapshotInstant (s : State) : State :=
  match firstDue s.now s.tly.pend with
  | none => s
  | some v => latch v (s.steppedPast v) { s with tly.pend := dropSnap v.id s.tly.pend }
def execSnapshotInstant (dt : Nat) (s : State) : Out := .next (snapshotInstant (elapse dt s))
/-- The image is written, HEAD and SEQ advance, SNAPDONE is set and source 12 fires (R428). -/
def snapshotCopyDone (s : State) : State :=
  match s.tly.copying with
  | none => s
  | some im =>
    let seq := s.tly.seq + 1
    let s' := wrMem s (s.tly.imgBase.toNat + s.tly.imgHead.toNat % s.imgSlots * s.imgBytes) (imageOf s im seq.toNat)
    let head := BitVec.ofNat 8 ((s.tly.imgHead.toNat + 1) % s.imgSlots)
    fire 12 { s' with tly.copying := none, tly.seq := seq, tly.imgHead := head, tly.evSnapDone := true }
def execSnapshotCopyDone (s : State) : Out := .next (snapshotCopyDone s)

/-! ### Tag records (R432, R433) -/

/-- The record's words: CORE as the core, the words' other bits 0. -/
def tagWords (core : Nat) (r : List Word) : List Word :=
  let w := fun (i : Nat) => (r.getD i 0).toNat
  [putFld (r.getD 0 0) 4 8 core, r.getD 1 0, r.getD 2 0, r.getD 3 0, r.getD 4 0,
   BitVec.ofNat 32 (fld (w 5) 16 16 * 65536 + fld (w 5) 0 7), BitVec.ofNat 32 (fld (w 6) 0 5), 0]
def State.tagSlots (s : State) : Nat := 2 ^ max 7 (min 20 s.tly.tagSize.toNat)
def tagRecord (core : Nat) (r : List Word) (s : State) : State :=
  if !s.tly.tagEnable || !bitAt s.tly.tagDmask.toNat (core / 8) then s
  else
    let (f, s) := takeFree s
    let s := { s with tly.lfsr := tset 0 s.tly.lfsr core (BitVec.ofNat 16 f.toNat) }
    let n := s.tagSlots
    let h := s.tly.tagHead.toNat
    if (h + 1) % n == s.tly.tagTail.toNat % n then count (evNo 28 0x012 0) { s with tly.evTagLost := true }
    else { (wrMem s (s.tly.tagBase.toNat + h % n * 32) (bytesOfWords (tagWords core r))) with tly.tagHead := BitVec.ofNat 20 ((h + 1) % n) }
def execTagRecord (core : Fin 128) (b : List Word) (s : State) : Out := .next (tagRecord core.val b s)

end Sys2Proof.Machine
end

