-- ==== Sys2Proof/Machine/RegRead.lean ====
section
/-! DEFINITION. What BAR0 reads: every register that the chapters give, by its offset (R6, R8, R386, R387, R456). Offsets that no chapter names, and write-only fields, read 0. -/
namespace Sys2Proof.Machine
open Sys2Proof

/-- A word from its fields: low bit and value. -/
def pk (l : List (Nat × Nat)) : Nat := l.foldl (fun a e => a + e.2 * 2 ^ e.1) 0
/-- A STAT register in the layout that the blocks share: STATUS in [15:8], REJECT in [1], BUSY in [0]. -/
def statWord (status : Byte) (reject busy : Bool) : Nat := pk [(8, status.toNat), (1, b2n reject), (0, b2n busy)]
/-- Word `i` of a 32-byte string (R456). -/
def digestWord (d : Digest) (i : Nat) : Nat := fld d.toNat (32 * i) 32

/-! ### GLB and PLT (R1, R19 to R26, R67) -/

def DistState.code : DistState → Nat
  | .inService => 0 | .draining => 1 | .replat => 2 | .test => 3 | .off => 4
/-- ENGOUT: engines of a district that are withdrawn now. Whether those of a core that the plat does not enable count, the spec does not say; the model leaves them out (log entry 91). -/
def State.engOut (s : State) (d : Nat) : Nat :=
  sumOf ((rangeFrom (8 * d) 8).map (fun g => if s.coreOn g then ((List.range 12).filter (s.engineOut g)).length else 0))
def glbReg (s : State) (o : Nat) : Nat :=
  match o with
  | 0x00 => pk [(16, 0x0309), (8, 0xA1), (4, b2n s.nv.mem128)]
  | 0x10 => pk [(8, b2n s.glb.reqErr), (7, b2n s.nv.erased), (0, s.glb.state.code)]
  | 0x20 => pk [(16, s.glb.tokMin.toNat), (0, s.glb.tokNow.toNat)]
  | _ =>
    let n := o % 64 / 4
    if o / 64 == 4 then pk [(16, s.engOut n), (8, (s.distPorts n).length), (0, (s.dist n).code)]
    else if o / 64 == 5 then pk [(16, (tget 0xFFFF s.glb.dtokMin n).toNat), (0, (tget 0 s.glb.dtokNow n).toNat)]
    else 0
def pltReg (s : State) (o : Nat) : Nat :=
  match o with
  | 0x00 => pk [(24, s.plt.skipped.toNat), (8, s.plt.code.toNat), (4, s.plt.sect.toNat), (2, b2n s.plt.reject), (1, b2n s.plt.busy),
                (0, b2n (s.plt.active.isSome && !s.plt.busy))]
  | 0x04 => s.plt.errOff.toNat
  | 0x08 => pk [(4, s.plt.ctrlDistrict.toNat), (1, s.plt.ctrlSrc.toNat)]
  | 0x14 => s.plt.stageLen.toNat
  | 0x18 => pk [(16, 1), (0, (Config.fmtMinMax s.sec.fwDigest).toNat)]
  | 0x50 => pk [(2, b2n s.plt.fallback), (0, s.plt.bootSlot.toNat)]
  | _ =>
    if 0x20 ≤ o ∧ o < 0x40 then digestWord (s.plt.active.getD 0) (o % 32 / 4)
    else if 0x200 ≤ o ∧ o < 0x400 then digestWord (tget 0 s.plt.ddigest (o % 512 / 32)) (o % 32 / 4)
    else 0
def pltPair (s : State) (o : Nat) : Option Nat :=
  match o with
  | 0x0C => some s.plt.stage.toNat
  | 0x40 => some s.plt.gen.toNat
  | _ => if 0x400 ≤ o ∧ o < 0x480 ∧ o % 8 = 0 then some (s.govGen (o % 128 / 8)) else none

/-! ### HST (R394, R395, R398); per-port registers are those of the port that reads -/

def ownCode : Option HPort → Nat
  | none => 0 | some .ha => 1 | some .hb => 2
def DmaState.code : DmaState → Nat
  | .idle => 0 | .running => 1 | .stopped => 2
def dmaReg (d : DmaCh) (o : Nat) : Nat :=
  match o with
  | 0x08 => pk [(31, b2n d.enable), (0, d.log2.toNat)]
  | 0x0C => d.prod.toNat
  | 0x10 => d.cons.toNat
  | 0x14 => pk [(28, d.st.code), (16, d.err.toNat), (0, b2n d.done)]
  | _ => 0
def msixReg (h : HostPort) (o : Nat) : Nat :=
  let e := tget MsixEntry.reset h.msix (o / 16)
  match o % 16 with
  | 0 => fld e.addr.toNat 0 32
  | 4 => fld e.addr.toNat 32 32
  | 8 => e.data.toNat
  | 12 => b2n e.masked
  | _ => 0
def hstReg (s : State) (p : HPort) (o : Nat) : Nat :=
  let h := s.host p
  match o with
  | 0x0000 => pk [(30, ownCode s.hst.owner), (29, portIdx p), (28, b2n s.hst.pend.isSome), (27, b2n h.denied),
                  (0, if s.hst.owner.isSome then sat 0xFFFF ((s.hst.leaseEnd - s.clk) / 1000) else 0)]
  | 0x0008 => pk [(16, h.nonce.toNat), (8, h.takeStatus.toNat)]
  | 0x0010 => h.win.toNat
  | 0x0014 => pk [(4, h.speed.toNat), (1, h.width.toNat), (0, b2n h.flit)]
  | 0x2004 => s.hst.arg0.toNat
  | 0x2008 => s.hst.arg1.toNat
  | 0x200C => s.hst.arg2.toNat
  | 0x2010 => s.hst.arg3.toNat
  | 0x201C => statWord s.hst.mbResult s.hst.mbReject s.hst.mbBusy
  | 0x2020 => s.hst.mbOut.toNat
  | _ =>
    if 0x100 ≤ o ∧ o < 0x180 then
      let m := tget (IrqMap.reset (o % 128 / 4)) h.irq (o % 128 / 4)
      pk [(31, b2n m.en), (16, m.holdoff.toNat), (0, m.vector.toNat)]
    else if 0x1000 ≤ o ∧ o < 0x1400 then dmaReg (s.dmaOf p (o % 0x1000 / 64)) (o % 64)
    else if 0x100000 ≤ o ∧ o < 0x108000 then msixReg h (o - 0x100000)
    else if 0x108000 ≤ o ∧ o < 0x108100 then
      pk ((List.range 32).map (fun i => (i, b2n (tget false h.pba ((o - 0x108000) / 4 * 32 + i)))))
    else 0
def hstPair (s : State) (p : HPort) (o : Nat) : Option Nat :=
  if o = 0x2014 then some s.hst.mbBuf.toNat
  else if 0x1000 ≤ o ∧ o < 0x1400 ∧ o % 64 = 0 then some (s.dmaOf p (o % 0x1000 / 64)).ring.toNat
  else none

/-! ### LNK and SRD (R99, R129) -/

def LinkState.code : LinkState → Nat
  | .down => 0 | .lock => 1 | .hello => 2 | .config => 3 | .credit => 4 | .up => 5 | .degraded => 6
def lnkReg (s : State) (o : Nat) : Nat :=
  let p := o / 256
  let l := s.link p
  if !(decide (p < 2048) && s.portBuilt p) then 0
  else
    match o % 256 with
    | 0x00 => pk [(24, l.tstat.toNat), (20, l.st.code), (16, l.ver.toNat), (10, l.caps.toNat), (6, s.rxLanes p), (0, b2n l.isUp)]
    | 0x04 => pk [(1, b2n l.disable)]
    | 0x08 => pk [(28, l.pVermax.toNat), (24, l.pVermin.toNat), (18, l.pCaps.toNat), (16, l.pNode.toNat), (12, l.pWidth.toNat), (0, l.pPort.toNat)]
    | 0x14 => l.rtt.toNat
    | 0x18 => pk [(24, l.retired.toNat), (8, l.txact.toNat), (0, l.rxact.toNat)]
    | 0x1C => l.err.toNat
    | _ => 0
def lnkPair (s : State) (o : Nat) : Option Nat :=
  if o % 256 = 0x0C ∧ o < 2048 * 256 then some (if s.portBuilt (o / 256) then (s.link (o / 256)).pid.toNat else 0) else none
def LaneState.code : LaneState → Nat
  | .off => 0 | .idle => 1 | .hunt => 2 | .locked => 3 | .out => 4 | .recal => 5 | .retired => 6
def RecalResult.code : RecalResult → Nat
  | .none => 0 | .ok => 1 | .busyInService => 2 | .inProgress => 3 | .notUp => 4 | .running => 5 | .failed => 6 | .aborted => 7
def laneReg (s : State) (k o : Nat) : Nat :=
  let v := s.lane k
  match o with
  | 0x00 => pk [(24, v.ctle.toNat), (16, v.fecmax s.clk), (7, b2n v.pol), (6, b2n v.retain), (5, b2n v.sigdet), (0, v.st.code)]
  | 0x08 => pk [(8, v.passes.toNat), (0, v.recal.code)]
  | 0x0C => pk [(24, v.taps.c2.toNat), (16, v.taps.c1.toNat), (8, v.taps.cm1.toNat), (0, v.taps.cm2.toNat)]
  | _ => 0
def SvcState.code : SvcState → Nat
  | .off => 0 | .aligning => 1 | .aligned => 2
def svcReg (s : State) (n : Nat) : Nat :=
  let v := s.svcLane n
  pk [(7, b2n (decide (n < 16))), (6, b2n v.crc), (5, b2n v.cv), (4, b2n v.abort), (0, v.st.code)]
def eyeReg (s : State) (c o : Nat) : Nat :=
  let e := s.eyeOf c
  match o with
  | 0x0000 => pk [(24, e.dwell.toNat), (22, e.eye.toNat), (8, e.lane.toNat)]
  | 0x0004 => pk [(19, if e.busy then eyePoints e s.clk else e.points.toNat), (3, b2n e.intr), (2, b2n e.reject), (1, b2n e.done), (0, b2n e.busy)]
  | _ => if 0x1000 ≤ o ∧ o < 0x5000 then (eyeRead e s.clk ((o - 0x1000) / 4)).toNat else 0
/-- SRD_CALSTAT.STATE: 0 VALID, 1 ABSENT, 2 CORRUPT, 3 VERSION. -/
def calState (b : List Byte) : Nat :=
  if b.isEmpty then 1 else if calValid b then 0 else if u32At b 0 == 0x43414C53 && u16At b 4 != 1 then 3 else 2
def srdReg (s : State) (o : Nat) : Nat :=
  if o < 0x20000 then laneReg s (o / 64) (o % 64)
  else if 0x40000 ≤ o ∧ o < 0x40500 ∧ o % 16 = 0 then svcReg s (o % 0x10000 / 16)
  else if 0x60000 ≤ o ∧ o < 0xE0000 then eyeReg s ((o - 0x60000) / 0x10000) (o % 0x10000)
  else if o = 0xF0000 then
    let c := calState s.nv.cal
    pk [(16, if c == 0 then u16At s.nv.cal 6 else 0), (4, b2n (c != 0)), (0, c)]
  else 0

/-! ### FWD (R158) -/

def BankState.code : BankState → Nat
  | .free => 0 | .live => 1 | .draining => 2
def fwdReg (s : State) (o : Nat) : Nat :=
  let f := s.fwd
  match o with
  | 0x04 => f.index.toNat
  | 0x08 => f.data0.toNat
  | 0x0C => f.data1.toNat
  | 0x10 => f.data2.toNat
  | 0x14 => f.data3.toNat
  | 0x18 => statWord f.status f.reject f.busy
  | 0x30 => f.batchCnt.toNat
  | 0x34 => f.batchDone.toNat
  | 0x40 => pk [(7, b2n s.drained), (4, f.stB.code), (2, f.stA.code), (0, b2n f.cur)]
  | 0x44 => f.ecntA.toNat
  | 0x48 => f.ecntB.toNat
  | 0x50 => f.mgmtEid.toNat
  | 0x68 => pk [(31, b2n f.lrnEnable), (0, f.lrnLog2.toNat)]
  | 0x6C => f.lrnHead.toNat
  | 0x70 => f.lrnTail.toNat
  | 0x88 => pk [(16, f.cmpPass.toNat), (0, b2n f.cmpEnable)]
  | 0x90 => f.event.toNat
  | 0x94 => f.eccLog.toNat
  | _ => 0
def fwdPair (s : State) (o : Nat) : Option Nat :=
  match o with
  | 0x20 => some s.fwd.wseq.toNat
  | 0x28 => some s.fwd.batch.toNat
  | 0x60 => some s.fwd.lrnBase.toNat
  | 0x80 => some s.fwd.cmpBase.toNat
  | _ => none

/-! ### SWC (R184) -/

def queueReg (s : State) (k o : Nat) : Nat :=
  let p := k / 8
  let c := k % 8
  if !s.portBuilt p then 0
  else
    match o with
    | 0x0 => (s.queue k).depth
    | 0x4 => (s.queue k).maxd
    | 0x8 => s.headAge p c
    | _ => pk [(1, b2n (s.queueHeld p c)), (0, b2n (!s.roomFor p c 17))]
def swcDistReg (s : State) (n o : Nat) : Nat :=
  match o with
  | 0x00 => sumOf ((s.distPorts n).map (fun p => sumOf ((List.range 8).map (s.depth p))))
  | 0x04 => s.roUsed n
  | 0x08 => s.reorderCells n
  | 0x0C => pk [(17, (s.ro n).length), (0, ((tget [] s.swc.spray n).filter (fun c => !c.hashed)).length)]
  | _ => 0
def swcReg (s : State) (o : Nat) : Nat :=
  let w := s.swc
  if o < 0x40000 then queueReg s (o / 16) (o % 16)
  else if o < 0x40200 then swcDistReg s (o % 0x40000 / 32) (o % 32)
  else if 0x80100 ≤ o ∧ o < 0x80180 then
    let n := (o - 0x80100) / 8
    if o % 8 = 0 then (tget 0 w.capsel n).toNat else (tget 0x80000000 w.capflt n).toNat
  else
    match o with
    | 0x80000 => pk [(2, b2n w.nonempty), (1, b2n w.capture), (0, b2n w.sample)]
    | 0x80004 => w.tmo.toNat
    | 0x80008 => w.period.toNat
    | 0x80020 => w.smpSize.toNat
    | 0x80024 => w.capSize.toNat
    | 0x80028 => w.smpHead.toNat
    | 0x8002C => w.smpTail.toNat
    | 0x80030 => w.capHead.toNat
    | 0x80034 => w.capTail.toNat
    | 0x80038 => w.event.toNat
    | _ => 0
def swcPair (s : State) (o : Nat) : Option Nat :=
  match o with
  | 0x80010 => some s.swc.smpBase.toNat
  | 0x80018 => some s.swc.capBase.toNat
  | _ => none

/-! ### TMB (R207) -/

def BlkState.code : BlkState → Nat
  | .none => 0 | .forming => 1 | .joined => 2 | .rttExceeded => 3 | .idMismatch => 4 | .broken => 5
def tmbReg (s : State) (p : HPort) (o : Nat) : Nat :=
  let t := s.tmb
  match o with
  | 0x00 => pk [(24, t.members.toNat), (16, t.hops.toNat), (15, b2n t.master), (14, b2n s.admitOn), (12, s.plt.plat.time.source.toNat % 4),
                (8, lockCode t.lock), (4, t.blk.code)]
  | 0x0C => (tget 0 (s.host p).rdLatch 1).toNat
  | 0x10 => t.offset.toNat
  | 0x14 => pk [(16, t.term.toNat), (0, min 0xFFFF t.rtt.toNat)]
  | 0x20 => b2n t.mapen
  | 0x24 => t.holdLimit.toNat
  | 0x38 => t.stageLen.toNat
  | 0x48 => pk [(8, t.status.toNat), (2, b2n t.pending.isSome), (1, b2n t.reject), (0, b2n t.busy)]
  | 0x4C => ((t.active.map Timetable.ttid).getD 0).toNat
  | 0x50 => ((t.staged.map Timetable.ttid).getD 0).toNat
  | 0x54 => pk ((List.range 8).map (fun i => (i, b2n (tget none t.armed i).isSome)))
  | 0x58 => t.vlog.toNat
  | 0x68 => t.mapSize.toNat
  | 0x6C => t.mapHead.toNat
  | 0x70 => t.mapTail.toNat
  | 0x74 => t.mapPeriod.toNat
  | 0x80 => t.event.toNat
  | _ => 0
def tmbPair (s : State) (o : Nat) : Option Nat :=
  match o with
  | 0x04 => some (s.now % 2 ^ 64)
  | 0x18 => some s.tmb.masterId.toNat
  | 0x30 => some s.tmb.stage.toNat
  | 0x40 => some s.tmb.at_.toNat
  | 0x60 => some s.tmb.mapBase.toNat
  | 0x78 => some s.tmb.fbBase.toNat
  | _ => none

/-! ### LND (R241, R259) -/

def State.homed (s : State) (d : Nat) : List Ctx :=
  s.lnd.ctxs.filterMap (fun e => match e.2 with | some c => if c.d.home.toNat == d then some c else none | none => none)
def lndDistReg (s : State) (n o : Nat) : Nat :=
  match o with
  | 0 => pk [(16, s.slotsUsed n), (0, s.landSlots n)]
  | 4 => sumOf ((s.homed n).map (fun c => c.d.rslots.toNat))
  | 8 => (s.homed n).length
  | _ => 0
def lndReg (s : State) (o : Nat) : Nat :=
  let l := s.lnd
  match o with
  | 0x00C => l.arg.toNat
  | 0x010 => l.corr.toNat
  | 0x014 => statWord l.status l.reject l.busy
  | 0x038 => l.ctxs.length
  | 0x03C => l.pool.length
  | 0x040 => s.poolUnits
  | 0x044 => pk [(16, l.tomb.toNat), (0, l.age.toNat)]
  | 0x058 => pk [(31, b2n l.ringEnable), (0, l.ringLog2.toNat)]
  | 0x05C => l.ringHead.toNat
  | 0x060 => l.ringTail.toNat
  | 0x064 => l.event.toNat
  | 0x300 => l.opens.length
  | 0x404 => l.fncKey.toNat
  | 0x408 => l.fncArg.toNat
  | 0x40C => statWord l.fncStatus l.fncReject l.fncBusy
  | 0x410 => l.fences.length
  | 0x414 => l.fncMarks.toNat
  | 0x418 => l.fncDrainq.toNat
  | 0x41C => l.fncOldpre.toNat
  | _ => if 0x100 ≤ o ∧ o < 0x200 then lndDistReg s (o % 256 / 16) (o % 16) else 0
def lndPair (s : State) (o : Nat) : Option Nat :=
  match o with
  | 0x04 => some s.lnd.addr.toNat
  | 0x20 => some s.lnd.backBase.toNat
  | 0x28 => some s.lnd.backSize.toNat
  | 0x30 => some s.lnd.backUsed.toNat
  | 0x50 => some s.lnd.ringBase.toNat
  | _ => none

/-! ### MIL and MEM (R278, R310, R326) -/

def coreStat (s : State) (g : Nat) : Nat :=
  let (th, tr) := s.coreUse g
  pk [(31, b2n (s.coreOf g).slicing), (27, (s.engines g).length), (22, th), (15, tr), (8, (s.bindsOn g).length)]
def milReg (s : State) (o : Nat) : Nat :=
  let m := s.mil
  match o with
  | 0x00000C => m.pgmLen.toNat
  | 0x000010 => statWord m.pgmStatus m.pgmReject m.pgmBusy
  | 0x000024 => m.arg0.toNat
  | 0x000028 => m.arg1.toNat
  | 0x00002C => statWord m.bindStatus m.bindReject m.bindBusy
  | 0x000030 => m.bindInfo.toNat
  | 0x000044 => m.tfData0.toNat
  | 0x000048 => m.tfData1.toNat
  | 0x00004C => m.tfData2.toNat
  | 0x000050 => m.tfData3.toNat
  | 0x000054 => statWord m.tfStatus m.tfReject m.tfBusy
  | 0x000080 => m.event.toNat
  | 0x000084 => m.fault.toNat
  | 0x000088 => m.faultPc.toNat
  | 0x300004 => statWord m.cbStatus m.cbReject m.cbBusy + 4 * b2n m.cbWritten
  | 0x300040 => s.enginesNow
  | 0x300044 => m.fp4now.toNat
  | _ =>
    if 0x10000 ≤ o ∧ o < 0x10800 ∧ o % 16 = 0 then coreStat s (o % 0x10000 / 16)
    else if 0x300010 ≤ o ∧ o < 0x300030 then (tget 0 m.cbData ((o - 0x300010) / 4)).toNat
    else if 0x300100 ≤ o ∧ o < 0x300140 then (tget 0 m.aexc ((o - 0x300100) / 4)).toNat
    else 0
def milPair (s : State) (o : Nat) : Option Nat :=
  match o with
  | 0x04 => some s.mil.pgmAddr.toNat
  | 0x70 => some s.mil.pwinBase.toNat
  | 0x78 => some s.mil.pwinSize.toNat
  | 0x90 => some s.mil.backBase.toNat
  | 0x98 => some s.mil.backSize.toNat
  | 0xA0 => some s.mil.backUsed.toNat
  | _ => none
def memReg (s : State) (o : Nat) : Nat :=
  let m := s.mem
  match o with
  | 0x00 => pk [(8, m.maxn.toNat), (1, b2n m.report), (0, b2n m.combine)]
  | 0x04 => m.ents.length
  | 0x14 => statWord m.status m.reject m.busy + 4 * b2n m.sweep.isSome
  | 0x18 => pk [(31, b2n m.infoTd), (30, b2n m.infoSwept), (0, m.infoNotices.toNat)]
  | 0x28 => m.rptLog2.toNat
  | 0x2C => m.rptHead.toNat
  | 0x30 => m.rptTail.toNat
  | 0x34 => m.event.toNat
  | _ => 0
def memPair (s : State) (o : Nat) : Option Nat := if o = 0x20 then some s.mem.rptBase.toNat else none

/-! ### OPT (R350) -/

def RingState.code : RingState → Nat
  | .off => 0 | .sweep => 1 | .verify => 2 | .locked => 3 | .mislock => 4 | .retired => 5 | .fly => 6 | .cal => 7
/-- TXLOSS and RXLOSS number their classes apart. -/
def LossClass.code : LossClass → Nat
  | .none => 0 | .laser => 1 | .modulator => 2 | .launch => 3 | .launchFibre => 4 | .rxChannel => 1 | .rxFibre => 2
def CalRes.code : CalRes → Nat
  | .none => 0 | .ok => 1 | .busyInService => 2 | .inProgress => 3 | .notUp => 4 | .running => 5 | .failed => 6 | .aborted => 7 | .engine => 8
def EngState.code : EngState → Nat
  | .absent => 0 | .waiting => 1 | .up => 2 | .lost => 3 | .mismatch => 4
def FlyState.code : FlyState → Nat
  | .free => 0 | .prep => 1 | .switching => 2 | .on => 3 | .offPending => 4 | .returning => 5
def pathReg (s : State) (p o : Nat) : Nat :=
  let v := s.path p
  match o with
  | 0x00 => pk [(29, v.txst.code), (26, v.rxst.code), (24, v.mislocks.toNat), (21, v.txloss.code), (19, v.rxloss.code), (15, v.calres.code),
                (14, b2n v.fly.isSome), (0, (v.fly.getD 0).toNat)]
  | 0x08 => pk [(16, v.las.toNat), (0, v.mod.toNat)]
  | 0x0C => pk [(16, v.launch.toNat), (0, v.rxin.toNat)]
  | 0x10 => pk [(16, v.rxid.toNat), (0, v.txid.toNat)]
  | 0x14 => pk [(16, v.txheat.toNat), (0, v.rxheat.toNat)]
  | 0x18 => pk [(16, v.lbias.toNat), (0, v.ltune.toNat)]
  | _ => 0
/-- Flyovers not FREE that cross an engine. -/
def State.flysOn (s : State) (e : Nat) : Nat :=
  (s.opt.fly.filter (fun f => f.2.st != .free && ((s.flyPaths f.1).1 / 64 == e || (s.flyPaths f.1).2 / 64 == e))).length
def optReg (s : State) (o : Nat) : Nat :=
  if o < 0x10000 then pathReg s (o / 32) (o % 32)
  else if o < 0x10200 then
    let e := o % 0x10000 / 16
    match o % 16 with
    | 0 => pk [(28, s.flysOn e), (0, (s.engine e).st.code)]
    | 4 => (s.engine e).version.toNat
    | _ => 0
  else if 0x21000 ≤ o ∧ o < 0x21800 then
    let f := s.flyOf ((o - 0x21000) / 8)
    if o % 8 = 0 then pk [(28, f.st.code), (24, f.reason.toNat), (0, f.laneA.toNat)] else f.laneB.toNat
  else
    match o with
    | 0x20004 => s.opt.lanes.toNat
    | 0x20008 => s.opt.eidA.toNat
    | 0x2000C => s.opt.eidB.toNat
    | 0x20018 => statWord s.opt.status s.opt.reject s.opt.busy
    | 0x30000 => pk [(16, s.opt.delta.toNat), (0, s.opt.floor.toNat)]
    | 0x30004 => s.opt.event.toNat
    | 0x30008 => s.opt.mislog.toNat
    | _ => 0
def optPair (s : State) (o : Nat) : Option Nat := if o = 0x20010 then some s.opt.at_.toNat else none

/-! ### RES, SEC, TLY and PWR (R380, R419, R435, R455) -/

/-- OWN as it reads: HOLDER_LOST while the ring lane to the holder is not aligned (R372, R379). -/
def State.ownNow (s : State) : Nat :=
  match s.res.own with
  | .off => 0
  | .holderLost => 4
  | o =>
    if (s.svcLane (s.ringLane (s.twin == 2))).st != .aligned then 4
    else (match o with | .syncing => 1 | .current => 2 | _ => 3)
def MirHeld.code : MirHeld → Nat
  | .none => 0 | .partial_ => 1 | .complete => 2 | .full => 3
/-- µs left on the lease timer (R353). -/
def State.leaseLeft (s : State) : Nat := match s.res.lease with | some l => s.leaseTime l / 1000 | none => 0
def resReg (s : State) (o : Nat) : Nat :=
  let r := s.res
  match o with
  | 0x004 => r.epoch.toNat
  | 0x010 => statWord r.leaseStatus r.leaseReject r.leaseBusy
  | 0x014 => r.cur.toNat
  | 0x020 => s.leaseLeft
  | 0x024 => pk [(28, r.cause.toNat), (27, b2n r.done), (0, r.count.toNat)]
  | 0x100 => r.half.toNat
  | 0x108 => statWord r.partStatus r.partReject r.partBusy
  | 0x10C => r.partInfo.toNat
  | 0x110 => r.cruiseEvent.toNat
  | 0x114 => r.cruiseLog.toNat
  | 0x304 => statWord r.testStatus r.testReject r.testBusy + 16 * r.testResult.toNat
  | 0x410 => pk [(29, s.ownNow), (26, r.east.st.code), (24, r.west.st.code), (0, sat (2 ^ 21) r.journal.length)]
  | 0x504 => statWord r.spareStatus r.spareReject r.spareBusy + 16 * r.spareResult.toNat
  | 0x520 => pk [(16, r.noImage.toNat), (0, r.refused.toNat)]
  | _ =>
    if 0x200 ≤ o ∧ o < 0x240 then
      let g := s.gov (o % 64 / 4)
      pk [(31, b2n g.stop), (24, g.level.toNat), (0, g.tj.toNat)]
    else 0
def resPair (s : State) (o : Nat) : Option Nat :=
  match o with
  | 0x008 => some s.res.dl.toNat
  | 0x018 => some s.res.leaseEnd.toNat
  | 0x028 => some s.res.cordonT.toNat
  | 0x400 => some s.res.mirBase.toNat
  | 0x408 => some s.res.mirSize.toNat
  | 0x414 => some s.res.mirAck.toNat
  | 0x508 => some s.res.spareDev.toNat
  | 0x510 => some s.res.spareHold.toNat
  | 0x518 => some s.res.spareWseq.toNat
  | _ => none
def secReg (s : State) (o : Nat) : Nat :=
  let c := s.sec
  match o with
  | 0x00 => pk [(24, s.nv.fusever.toNat), (16, c.secver.toNat), (14, c.dbg.toNat), (13, b2n c.keylock), (12, b2n c.bootSlot),
                (11, b2n s.nv.key1.key.isSome), (10, b2n s.nv.key0.key.isSome), (9, b2n s.ikUsable)]
  | 0x08 => statWord c.status c.reject c.busy
  | 0x14 => pk [(8, c.alarmLast.toNat), (0, c.alarmSensor.toNat)]
  | 0x18 => pk [(16, c.a0.toNat), (0, c.a1.toNat)]
  | 0x1C => pk [(8, c.failsDbg.toNat), (0, c.failsSig.toNat)]
  | 0x40 => c.fwver.toNat
  | _ =>
    if 0x20 ≤ o ∧ o < 0x40 then (match c.chal with | some (d, _) => digestWord d (o % 32 / 4) | none => 0)
    else if 0x100 ≤ o ∧ o < 0x200 then digestWord (tget 0 c.meas (o % 256 / 32)) (o % 32 / 4)
    else 0
def secPair (s : State) (o : Nat) : Option Nat := if o = 0x0C then some s.sec.addr.toNat else none
def tlyReg (s : State) (o : Nat) : Nat :=
  let t := s.tly
  match o with
  | 0x00 => t.sel.toNat
  | 0x04 => pk [(31, b2n t.selValid), (0, t.selIndex.toNat)]
  | 0x10 => s.tlyCount
  | 0x14 => (Config.catId s.sec.fwDigest).toNat
  | 0x2C => pk [(8, t.status.toNat), (4, t.pend.length), (1, b2n t.reject), (0, b2n t.busy)]
  | 0x38 => t.imgSize.toNat
  | 0x3C => s.imgBytes
  | 0x40 => t.imgHead.toNat
  | 0x44 => t.imgTail.toNat
  | 0x50 => pk [(31, b2n t.tagEnable), (16, t.tagShift.toNat), (0, t.tagDmask.toNat)]
  | 0x5C => t.tagSize.toNat
  | 0x60 => t.tagHead.toNat
  | 0x64 => t.tagTail.toNat
  | 0x68 => pk [(2, b2n t.evTagLost), (1, b2n t.evSnapSkip), (0, b2n t.evSnapDone)]
  | _ => 0
def tlyPair (s : State) (o : Nat) : Option Nat :=
  match o with
  | 0x08 => some (s.counter s.tly.sel.toNat).toNat
  | 0x24 => some s.tly.at_.toNat
  | 0x30 => some s.tly.imgBase.toNat
  | 0x54 => some s.tly.tagBase.toNat
  | _ => none
def pwrReg (s : State) (o : Nat) : Nat :=
  let w := s.pwr
  match o with
  | 0x00 => pk [(31, b2n w.pgov), (24, w.plevel.toNat), (2, b2n w.coolOk), (1, b2n w.vinlow), (0, b2n w.dbgEn)]
  | 0x04 => pk [(16, w.iin.toNat), (0, w.vin.toNat)]
  | 0x08 => pk [(16, w.pinMax.toNat), (0, w.pinNow.toNat)]
  | 0x0C => pk [(16, w.outlet.toNat), (0, w.inlet.toNat)]
  | 0x10 => pk [(16, w.tjSensor.toNat), (0, w.tjMax.toNat)]
  | 0x14 => w.cause.toNat
  | 0x18 => w.event.toNat
  | _ =>
    if 0x100 ≤ o ∧ o < 0x200 then
      let x := tget Sens.reset w.sens (o % 256 / 4)
      pk [(31, b2n x.trim), (0, x.tj.toNat)]
    else if 0x200 ≤ o ∧ o < 0x240 then (tget 0 w.vcore (o % 64 / 4)).toNat
    else 0

/-! ### BAR0 (R386, R387) -/

/-- A register that is no part of a 64-bit pair, by its offset. -/
def regVal (s : State) (p : HPort) (off : Nat) : Nat :=
  if off < 0x100000 then glbReg s off
  else if !s.booted then 0
  else if off < 0x200000 then pltReg s (off - 0x100000)
  else if off < 0x400000 then hstReg s p (off - 0x200000)
  else if off < 0x800000 then lnkReg s (off - 0x400000)
  else if off < 0xC00000 then srdReg s (off - 0x800000)
  else if off < 0x1000000 then fwdReg s (off - 0xC00000)
  else if off < 0x1400000 then swcReg s (off - 0x1000000)
  else if off < 0x1800000 then tmbReg s p (off - 0x1400000)
  else if off < 0x1C00000 then lndReg s (off - 0x1800000)
  else if off < 0x2000000 then milReg s (off - 0x1C00000)
  else if off < 0x2400000 then memReg s (off - 0x2000000)
  else if off < 0x2800000 then optReg s (off - 0x2400000)
  else if off < 0x2C00000 then resReg s (off - 0x2800000)
  else if off < 0x3000000 then secReg s (off - 0x2C00000)
  else if off < 0x3800000 then tlyReg s (off - 0x3000000)
  else if off < 0x3C00000 then pwrReg s (off - 0x3800000)
  else 0
/-- The 64-bit value whose low word stands at an offset. -/
def pairVal (s : State) (p : HPort) (off : Nat) : Option Nat :=
  if !s.booted then none
  else if off < 0x100000 then none
  else if off < 0x200000 then pltPair s (off - 0x100000)
  else if off < 0x400000 then hstPair s p (off - 0x200000)
  else if off < 0x800000 then lnkPair s (off - 0x400000)
  else if off < 0xC00000 then none
  else if off < 0x1000000 then fwdPair s (off - 0xC00000)
  else if off < 0x1400000 then swcPair s (off - 0x1000000)
  else if off < 0x1800000 then tmbPair s (off - 0x1400000)
  else if off < 0x1C00000 then lndPair s (off - 0x1800000)
  else if off < 0x2000000 then milPair s (off - 0x1C00000)
  else if off < 0x2400000 then memPair s (off - 0x2000000)
  else if off < 0x2800000 then optPair s (off - 0x2400000)
  else if off < 0x2C00000 then resPair s (off - 0x2800000)
  else if off < 0x3000000 then secPair s (off - 0x2C00000)
  else if off < 0x3800000 then tlyPair s (off - 0x3000000)
  else none
/-- What a register holds now; of a pair, the half at the offset. -/
def readNow (s : State) (p : HPort) (off : Nat) : Nat :=
  match pairVal s p off with
  | some v => fld v 0 32
  | none =>
    match (if 4 ≤ off then pairVal s p (off - 4) else none) with
    | some v => fld v 32 32
    | none => regVal s p off
/-- What a port's 4-byte read returns: of a pair's high half, the word that the port's last read of the low half latched (R6). -/
def readPort (s : State) (p : HPort) (off : Nat) : Nat :=
  match pairVal s p off with
  | some v => fld v 0 32
  | none => if 4 ≤ off ∧ (pairVal s p (off - 4)).isSome then (tget 0 (s.host p).rdLatch (off - 4)).toNat else regVal s p off
/-- The latches that a read of a low word fills: its high word, and for TMB_NOW the fraction (R6, R207). -/
def latchPair (p : HPort) (off : Nat) (s : State) : State :=
  match pairVal s p off with
  | none => s
  | some v =>
    let l := tset 0 (s.host p).rdLatch off (BitVec.ofNat 32 (fld v 32 32))
    let l := if off == 0x1400004 then tset 0 l 1 (BitVec.ofNat 32 (s.tmb.tb % 65536)) else l
    s.modHost p (fun h => { h with rdLatch := l })
/-- A read of a register; of a pair's low word it fills the port's latches. An 8-byte read takes a pair whole, at one instant (R387). -/
def execLowWordRead (p : HPort) (rd : BusRead) (s : State) : Out :=
  .next (
    if (s.host p).perst then s
    else match rd with
      | .pair off =>
        match pairVal s p off.toNat with
        | some v => emit (.hostRead p (some (toLE 8 v))) (latchPair p off.toNat s)
        | none => count (evNo 2 0x002 (portIdx p)) (emit (.hostRead p none) s)
      | .word off =>
        if off.toNat % 4 ≠ 0 then count (evNo 2 0x002 (portIdx p)) (emit (.hostRead p none) s)
        else emit (.hostRead p (some (toLE 4 (readPort s p off.toNat)))) (latchPair p off.toNat s))

end Sys2Proof.Machine
end

