-- ==== Sys2Proof/Machine/TimeBase.lean ====
section
/-! DEFINITION. The commands of the time base, the Block ring and the timetables (07_time_and_timetables.md). -/
namespace Sys2Proof.Machine
open Sys2Proof

/-! ### TIME_IN and time-of-day out (R187, R188) -/

def State.onTimeIn (s : State) : Bool := s.plt.plat.time.source == 1
/-- A valid time-of-day message on TOD_LANE names the instant of the next edge. -/
def takeTod (lane : Nat) (msg : List Byte) (s : State) : State :=
  if s.onTimeIn && lane == s.plt.plat.time.todLane.toNat && bitAt (u8At msg 8) 0 then
    { s with tmb.todNext := some (BitVec.ofNat 64 (u64At msg 0), s.clk) }
  else s
def execTod (lane : Fin 80) (codes : List Code) (s : State) : Out :=
  .next (onMessage lane.val 0x01 codes (fun m => takeTod lane.val m.payload) s)
/-- Distance from the time base to the nearest whole second, in 2^-16 ns. -/
def secondOffset (tb : Nat) : Int :=
  let u := 10 ^ 9 * 65536
  let r := tb % u
  if r ≤ u / 2 then -(r : Int) else ((u - r : Nat) : Int)
/-- What one edge does: the first named one steps the time base; a later one has its phase error taken out by the rate, so that time never runs backward (R185, R187; log entry 95). -/
def ppsEdge (s : State) : State :=
  if !s.onTimeIn then s
  else
    let named := match s.tmb.todNext with
      | some (n, t) => if 10 ^ 8 ≤ s.clk - t then some n else none
      | none => none
    let s := { s with tmb.ppsAt := some s.clk, tmb.todNext := none }
    match named with
    | some n =>
      let o : Int := ((n.toNat * 65536 : Nat) : Int) - (s.tmb.tb : Int)
      if s.tmb.lock == .free then checkLease (settleAdmit { (shiftTime o s) with tmb.lock := .acquiring, tmb.good := 0, tmb.stepped := true })
      else if 65536 * 1000 < o.natAbs then enterHoldover { s with tmb.offset := offsetPs o }
      else sample o 3 (slewTime o { s with tmb.offset := offsetPs o })
    | none =>
      if s.tmb.lock == .free then s
      else
        let o := secondOffset s.tmb.tb
        sample o 3 (slewTime o { s with tmb.offset := offsetPs o })
def execPpsEdge (dt : Nat) (s : State) : Out := .next (ppsEdge (elapse dt s))
def execRef10Loss (s : State) : Out := .next (if s.onTimeIn then enterHoldover s else s)
def ppsMissing (s : State) : State :=
  match s.tmb.ppsAt with
  | some t => if s.onTimeIn && decide (1100000000 ≤ s.clk - t) then enterHoldover s else s
  | none => s
def execPpsMissing (dt : Nat) (s : State) : Out := .next (ppsMissing (elapse dt s))
/-- The next whole second at least 100 ms ahead is announced once, with its K28.1. -/
def todOut (s : State) : State :=
  let lane := s.plt.plat.time.toutLane.toNat
  let n := alignUp (s.now + 10 ^ 8) (10 ^ 9)
  if lane == 255 || n == s.tmb.toutNext then s
  else
    let valid := s.tmb.lock == .locked || s.tmb.lock == .holdover
    sendK281 lane n (sendSvc lane 0x01 (toLE 8 n ++ toLE 1 (b2n valid) ++ zeros 7) false { s with tmb.toutNext := n })
def execTodOut (dt : Nat) (s : State) : Out := .next (todOut (elapse dt s))

/-! ### SYNC and link delay (R192, R193) -/

/-- The direction of a SYNC is the one in use: fewer hops, WEST on a tie, or the other is silent. -/
def State.syncUsed (s : State) (lane : Fin 2) : Bool :=
  let r := s.ring lane
  let o := s.ring (if isWest lane then 0 else 1)
  !s.syncLive o || decide (r.hops.toNat < o.hops.toNat) || (r.hops == o.hops && isWest lane)
/-- The offset that a SYNC gives is filtered, slewed or stepped; a step past the lease end ends the lease (R379). -/
def useSync (lane : Fin 2) (b : List Byte) (s : State) : State :=
  let r := s.ring lane
  let raw : Int := ((u64At b 8 * 65536 + r.delay : Nat) : Int) - (s.markerAt lane : Int)
  let s := if s.tmb.master then s else { s with tmb.hops := BitVec.ofNat 8 (sat 255 (msgHops b + 1)) }
  if s.plt.plat.time.source != 0 || s.tmb.master then s
  else if !s.tmb.stepped then sample raw 16 { (checkLease (stepTime raw s)) with tmb.offset := offsetPs raw }
  else
    let l := (raw :: s.tmb.offsets).take 64
    let f := Config.offsetFilter l
    let s := { s with tmb.offsets := l, tmb.offset := offsetPs f }
    let s := if f.natAbs ≤ 8 * 65536 then slewTime f s else checkLease (stepTime f s)
    sample raw 16 s
def takeSync (lane : Fin 2) (b : List Byte) (s : State) : State :=
  if msgTerm b < s.tmb.term.toNat then s
  else
    let s := s.setRing lane { s.ring lane with syncAt := some s.clk, hops := BitVec.ofNat 8 (msgHops b) }
    let s := if s.syncUsed lane then useSync lane b s else s
    let s := settleBlk s
    if s.tmb.master || msgHops b == 255 then s
    else sendMarked (!isWest lane) 0x02 (toLE 8 s.now) (msgHops b + 1) s
def execSync (lane : Fin 2) (codes : List Code) (s : State) : Out :=
  .next (onRing lane 0x02 codes (fun b => blockMsg b (takeSync lane b)) s)
/-- The master's SYNC on both lanes; a master of SOURCE 0 is its own source, with offset 0. -/
def syncSend (s : State) : State :=
  if !s.tmb.master then s
  else
    let s := if s.plt.plat.time.source == 0 then sample 0 16 s else s
    let t := toLE 8 s.now
    sendMarked true 0x02 t 0 (sendMarked false 0x02 t 0 s)
def execSyncSend (dt : Nat) (s : State) : Out := .next (syncSend (elapse dt s))
/-- DELAY_RESP: T1 as received, T2 the marker's arrival, T3 now. -/
def answerDelay (lane : Fin 2) (b : List Byte) (s : State) : State :=
  sendMarked (isWest lane) 0x04 (slice b 8 8 ++ toLE 8 (s.markerAt lane / 65536) ++ toLE 8 s.now) 0 s
def execDelayReq (lane : Fin 2) (codes : List Code) (s : State) : Out :=
  .next (onRing lane 0x03 codes (fun b => blockMsg b (answerDelay lane b)) s)
def delayReqSend (lane : Fin 2) (s : State) : State :=
  if !s.inBlock then s
  else sendMarked (isWest lane) 0x03 (toLE 8 s.now) 0 (s.setRing lane { s.ring lane with t1 := BitVec.ofNat 64 s.now })
def execDelayReqSend (dt : Nat) (lane : Fin 2) (s : State) : Out := .next (delayReqSend lane (elapse dt s))
/-- (T4 - T1 - (T3 - T2)) / 2, for the lane's last DELAY_REQ. -/
def takeDelayResp (lane : Fin 2) (b : List Byte) (s : State) : State :=
  let r := s.ring lane
  let t1 := u64At b 8
  if t1 != r.t1.toNat then s
  else
    let d : Int := (s.markerAt lane : Int) - ((t1 * 65536 : Nat) : Int) - (((u64At b 24 * 65536 : Nat) : Int) - ((u64At b 16 * 65536 : Nat) : Int))
    s.setRing lane { r with delay := (d / 2).toNat }
def execDelayResp (lane : Fin 2) (codes : List Code) (s : State) : Out :=
  .next (onRing lane 0x04 codes (fun b => blockMsg b (takeDelayResp lane b)) s)

/-! ### Election, ANNOUNCE, PROBE and LEAVE (R189 to R191, R195) -/

def takeElect (lane : Fin 2) (b : List Byte) (s : State) : State :=
  let dev := u64At b 16
  let own := dev == s.nv.devid.toNat
  let s := forwardRing lane 0x20 b own s
  if own || !s.candidate || !betterKey (u8At b 8 != 0, u8At b 9, dev) s.ownKey then s
  else { s with tmb.master := false, tmb.electing := some s.clk }
def execElect (lane : Fin 2) (codes : List Code) (s : State) : Out :=
  .next (onRing lane 0x20 codes (fun b => blockMsg b (takeElect lane b)) s)
def execElectSend (dt : Nat) (s : State) : Out :=
  let s := elapse dt s
  .next (if s.candidate then sendBoth 0x20 (electBody s) s else s)
/-- 1 ms without a better key, for a candidate that is not master: master, under one term more than the highest seen. -/
def electionWin (s : State) : State :=
  match s.tmb.electing with
  | none => s
  | some t =>
    if !s.candidate || s.clk - t < 10 ^ 6 then s
    else
      let s := { s with tmb.master := true, tmb.electing := none, tmb.term := s.tmb.topTerm + 1, tmb.topTerm := s.tmb.topTerm + 1,
                        tmb.masterId := s.nv.devid, tmb.hops := 0 }
      settleBlk (sendAnnounce (raiseTmb 0 s))
def execElectionWin (dt : Nat) (s : State) : Out := .next (electionWin (elapse dt s))
/-- ANNOUNCE: the highest term is followed; its round trip is held against RTT_MAX. -/
def takeAnnounce (lane : Fin 2) (b : List Byte) (s : State) : State :=
  let dev := u64At b 8
  let own := dev == s.nv.devid.toNat
  let s := forwardRing lane 0x21 b own s
  if own || msgTerm b < s.tmb.term.toNat then s
  else
    let new := decide (s.tmb.term.toNat < msgTerm b)
    let s := { s with
      tmb.term := BitVec.ofNat 16 (msgTerm b),
      tmb.master := s.tmb.master && !new, tmb.electing := if new && s.tmb.master then some s.clk else s.tmb.electing,
      tmb.masterId := BitVec.ofNat 64 dev, tmb.rtt := BitVec.ofNat 32 (u32At b 16), tmb.members := BitVec.ofNat 8 (u8At b 20) }
    settleBlk (if new then raiseTmb 0 s else s)
def execAnnounce (lane : Fin 2) (codes : List Code) (s : State) : Out :=
  .next (onRing lane 0x21 codes (fun b => blockMsg b (takeAnnounce lane b)) s)
def execAnnounceSend (dt : Nat) (s : State) : Out :=
  let s := elapse dt s
  .next (if s.tmb.master then sendAnnounce s else s)
/-- PROBE: the master's own gives the round trip; another goes on, or back where the ring is open. -/
def takeProbe (lane : Fin 2) (b : List Byte) (s : State) : State :=
  if u64At b 16 == s.nv.devid.toNat then
    if s.tmb.master && s.tmb.probeAt.isSome then
      settleBlk { s with tmb.rtt := BitVec.ofNat 32 (sat 0xFFFFFFFF (s.now - u64At b 8)), tmb.probeAt := none,
                         tmb.blk := if isWest lane then .forming else .broken }
    else s
  else if msgHops b == 255 then s
  else
    let out := if (s.svcLane (s.ringLane (!isWest lane))).st == .aligned then !isWest lane else isWest lane
    sendRing out 0x22 (overlay b 4 (toLE 1 (msgHops b + 1))) s
def execProbe (lane : Fin 2) (codes : List Code) (s : State) : Out :=
  .next (onRing lane 0x22 codes (fun b => blockMsg b (takeProbe lane b)) s)
def probeSend (s : State) : State :=
  if !s.tmb.master then s
  else sendRing false 0x22 (ringHead s 0 ++ toLE 8 s.now ++ toLE 8 s.nv.devid.toNat) { s with tmb.probeAt := some s.clk }
def execProbeSend (dt : Nat) (s : State) : Out := .next (probeSend (elapse dt s))
def probeTimeout (s : State) : State :=
  match s.tmb.probeAt with
  | some t => if 10 ^ 6 ≤ s.clk - t then settleBlk { s with tmb.probeAt := none, tmb.rtt := 0 } else s
  | none => s
def execProbeTimeout (dt : Nat) (s : State) : Out := .next (probeTimeout (elapse dt s))
/-- LEAVE: one member fewer; where it was the master, re-election. -/
def takeLeave (lane : Fin 2) (b : List Byte) (s : State) : State :=
  let dev := u64At b 8
  let own := dev == s.nv.devid.toNat
  let s := forwardRing lane 0x23 b own s
  if own then s
  else
    let s := { s with tmb.members := if s.tmb.members == 0 then 0 else s.tmb.members - 1 }
    if s.tmb.term != 0 && dev == s.tmb.masterId.toNat then startElection s else s
def execLeave (lane : Fin 2) (codes : List Code) (s : State) : Out :=
  .next (onRing lane 0x23 codes (fun b => blockMsg b (takeLeave lane b)) s)
/-- No SYNC from either direction for a time. -/
def State.silent (s : State) (ns : Nat) : Bool :=
  let old := fun (r : RingLane) => match r.syncAt with | some t => decide (ns ≤ s.clk - t) | none => true
  s.inBlock && !s.tmb.master && old s.tmb.ring0 && old s.tmb.ring1
def execSyncLossHoldover (dt : Nat) (s : State) : Out :=
  let s := elapse dt s
  .next (settleBlk (if s.plt.plat.time.source == 0 && s.silent 100000 then enterHoldover s else s))
def execSyncLossReelect (dt : Nat) (s : State) : Out :=
  let s := elapse dt s
  .next (if s.silent 1000000 then startElection s else s)
def execHoldoverLimit (dt : Nat) (s : State) : Out := .next (settleAdmit (elapse dt s))
def execStepAdmitRestore (dt : Nat) (s : State) : Out := .next (settleAdmit (elapse dt s))

/-! ### Timetables (R199 to R201) -/

def tmbStatus (st : Nat) (s : State) : State := { s with tmb.status := BitVec.ofNat 8 st }
def tmbCommand (p : HPort) (f : State → State) (s : State) : State :=
  hostWrite p false (fun s =>
    if s.tmb.busy then { s with tmb.reject := true }
    else if s.glb.state.code < 4 then tmbStatus 9 s
    else f s) s
/-- The image in the staging buffer, as long as its own header says, of the bytes staged. -/
def State.ttStaged (s : State) : List Byte :=
  let a := s.tmb.stage.toNat
  rdMem s a (min s.tmb.stageLen.toNat (ttHead + 16 * u32At (rdMem s a 64) 12))
/-- The activation pending is of this source. -/
def State.actPending (s : State) (sel : Nat) : Bool := (s.tmb.pending.map (fun e => e.1 == sel)).getD false
def loadTt (s : State) : State :=
  if s.actPending 15 then tmbStatus 10 s
  else
    match ttParse s s.ttStaged with
    | .error c => tmbStatus c s
    | .ok t => tmbStatus 0 { s with tmb.staged := some t }
def execTmbLoad (p : HPort) (s : State) : Out := .next (tmbCommand p loadTt s)
def armTt (n : Nat) (s : State) : State :=
  if 7 < n then tmbStatus 1 s
  else if s.actPending n then tmbStatus 10 s
  else
    let b := s.ttStaged
    match ttParse s b with
    | .error c => tmbStatus c s
    | .ok t =>
      let s := wrMem s (s.tmb.fbBase.toNat + n * (17 * 2 ^ 20)) (b.take (ttHead + 16 * t.entries.length))
      tmbStatus 0 { s with tmb.armed := tset none s.tmb.armed n (some t) }
def execArm (p : HPort) (sel : BitVec 4) (s : State) : Out := .next (tmbCommand p (armTt sel.toNat) s)
def activateTt (sel : Nat) (s : State) : State :=
  let src := if sel == 15 then s.tmb.staged else tget none s.tmb.armed sel
  if 7 < sel && sel != 15 then tmbStatus 1 s
  else if s.tmb.at_.toNat < s.now + 2000000 then tmbStatus 6 s
  else
    match src with
    | none => tmbStatus (if sel == 15 then 8 else 7) s
    | some t => tmbStatus 0 { s with tmb.pending := some (sel, t, s.tmb.at_.toNat) }
def execActivate (p : HPort) (sel : BitVec 4) (s : State) : Out := .next (tmbCommand p (activateTt sel.toNat) s)
def disarmTt (n : Nat) (s : State) : State :=
  if 7 < n then tmbStatus 1 s
  else if s.actPending n then tmbStatus 10 s
  else
    match tget none s.tmb.armed n with
    | none => tmbStatus 7 s
    | some _ => tmbStatus 0 { s with tmb.armed := tset none s.tmb.armed n none }
def execDisarm (p : HPort) (sel : BitVec 4) (s : State) : Out := .next (tmbCommand p (disarmTt sel.toNat) s)
/-- Admission records are kept for the images that packets are still tried against. -/
def pruneUsed (s : State) : State :=
  let keep := fun (o : Option Timetable) (u : SlotUse) => match o with | some t => u.t0 == t.t0 | none => false
  { s with tmb.used := s.tmb.used.filter (fun u => keep s.tmb.active u || keep (s.tmb.old.map (·.1)) u) }
/-- The pending image becomes ACTIVE at its instant; the old one is kept for TOL. -/
def activation (s : State) : State :=
  match s.tmb.pending with
  | none => s
  | some (sel, t, a) =>
    if s.now < a then s
    else
      let s := { s with
        tmb.old := s.tmb.active.map (fun o => (o, a + s.tol)), tmb.active := some { t with t0 := a }, tmb.pending := none,
        tmb.staged := if sel == 15 then none else s.tmb.staged }
      settleAdmit (raiseTmb 4 (pruneUsed s))
def execTimetableActivation (dt : Nat) (s : State) : Out := .next (activation (elapse dt s))
def graceEnd (s : State) : State :=
  match s.tmb.old with
  | some (_, e) => if e < s.now then pruneUsed { s with tmb.old := none } else s
  | none => s
def execActivationGraceEnd (dt : Nat) (s : State) : Out := .next (graceEnd (elapse dt s))

/-! ### Congestion maps (R205) -/

def sat32 (n : Nat) : Nat := sat 0xFFFFFFFF n
def LockState.code : LockState → Nat
  | .free => 0 | .acquiring => 1 | .locked => 2 | .holdover => 3
/-- TMB_MAP_PERIOD in ns; 0 is taken as 1 ms. -/
def State.mapNs (s : State) : Nat := max 1 s.tmb.mapPeriod.toNat * 10 ^ 6
def mapHeader (s : State) (n : Nat) : List Byte :=
  toLE 8 s.tmb.mapStart ++ toLE 8 s.nv.devid.toNat ++ toLE 4 ((s.tmb.active.map (fun t => t.ttid.toNat)).getD 0) ++ toLE 4 n
    ++ toLE 1 (b2n s.admitOn) ++ toLE 1 s.tmb.lock.code ++ zeros 6
def mapRecord (s : State) (p : Nat) : List Byte :=
  let m := tget MapCnt.zero s.tmb.mapCnt p
  ([s.txLanes p * 2048 + p, sat32 (m.sched / 64), sat32 (m.unsched / 64), sat 0xFFFFF m.maxDepth, sat32 (m.heldNs / 1000), sat32 m.viol, sat32 m.ovf, sat32 m.wind]).flatMap (toLE 4)
/-- The counts of a new interval: the depths as they stand. -/
def freshMap (s : State) : Tab MapCnt :=
  s.ports.foldl (fun t p =>
    let d := maxOf ([0, 1, 2, 3, 4, 7].map (s.depth p))
    tset MapCnt.zero t p { MapCnt.zero with maxDepth := d }) []
/-- The map's header and records in the ring, or MAPSKIP where it lacks room. -/
def writeMap (s : State) : State :=
  let n := 2 ^ s.tmb.mapSize.toNat
  let h := s.tmb.mapHead.toNat % n
  let free := (s.tmb.mapTail.toNat % n + n - h - 1) % n
  let recs := mapHeader s s.ports.length :: s.ports.map (mapRecord s)
  if free < recs.length then raiseTmb 5 s
  else
    let s := forEach recs.zipIdx (fun r s => wrMem s (s.tmb.mapBase.toNat + 32 * ((h + r.2) % n)) r.1) s
    { s with tmb.mapHead := BitVec.ofNat 24 ((h + recs.length) % n) }
/-- The interval closes at a multiple of the period, once. -/
def closeMap (s : State) : State :=
  let t := s.now / s.mapNs * s.mapNs
  if t == s.tmb.mapStart then s
  else
    let s := if s.tmb.mapen then writeMap s else s
    { s with tmb.mapCnt := freshMap s, tmb.mapStart := t }
def execMapIntervalClose (dt : Nat) (s : State) : Out := .next (closeMap (elapse dt s))

end Sys2Proof.Machine
end

