-- ==== Sys2Proof/Machine/RegWrite.lean ====
section
/-! DEFINITION. What BAR0 writes do: every writable register by its offset (R7, R8, R386, R390). A write to a command register is the command that it spells, and an OP that its register does not give is refused with that register's status. -/
namespace Sys2Proof.Machine
open Sys2Proof

/-- The state that a command leaves. -/
def after (f : State → Out) (s : State) : State :=
  match f s with
  | .next t => t
  | _ => s
/-- W1C bits (R8). -/
def w1c {n : Nat} (e : BitVec n) (v : Nat) : BitVec n := e &&& ~~~BitVec.ofNat n v
/-- An address with its low `k` bits 0. -/
def aligned (k : Nat) (v : Nat) : DWord := BitVec.ofNat 64 (v / 2 ^ k * 2 ^ k)
/-- The field of `w` bits at `lo` as a bit vector. -/
def bv (w : Nat) (v lo : Nat) : BitVec w := BitVec.ofNat w (v / 2 ^ lo)

/-! ### 64-bit pairs (R7) -/

/-- Every penalty at its value now, under the half-life so far (R361). -/
def settlePenalties (s : State) : State :=
  { s with res.parts := s.res.parts.map (fun e => (e.1, { e.2 with pen := decay e.2.pen (s.clk - e.2.penAt) s.halfLife, penAt := s.clk })) }
def State.noMirror (s : State) : Bool := s.res.east.st == .none && s.res.west.st == .none
def State.noneBound (s : State) : Bool := s.mil.binds.all (fun e => match e.2 with | some b => b.st != .bound | none => true)
/-- The pair at a low offset takes a value; nothing where the offset begins no RW pair. -/
def putPair (lo v : Nat) (s : State) : State :=
  match lo with
  | 0x10000C => { s with plt.stage := aligned 12 v }
  | 0x202014 => { s with hst.mbBuf := aligned 12 v }
  | 0xC00028 => { s with fwd.batch := aligned 5 v }
  | 0xC00060 => { s with fwd.lrnBase := aligned 12 v }
  | 0xC00080 => { s with fwd.cmpBase := aligned 12 v }
  | 0x1080010 => { s with swc.smpBase := aligned 12 v }
  | 0x1080018 => { s with swc.capBase := aligned 12 v }
  | 0x1400030 => { s with tmb.stage := aligned 12 v }
  | 0x1400040 => { s with tmb.at_ := aligned 0 v }
  | 0x1400060 => { s with tmb.mapBase := aligned 12 v }
  | 0x1400078 => { s with tmb.fbBase := aligned 12 v }
  | 0x1800004 => { s with lnd.addr := aligned 6 v }
  | 0x1800020 => if s.lnd.ctxs.isEmpty then { s with lnd.backBase := aligned 14 v } else s
  | 0x1800028 => if s.lnd.ctxs.isEmpty then { s with lnd.backSize := aligned 0 v } else s
  | 0x1800050 => { s with lnd.ringBase := aligned 12 v }
  | 0x1C00004 => { s with mil.pgmAddr := aligned 6 v }
  | 0x1C00070 => { s with mil.pwinBase := aligned 12 v }
  | 0x1C00078 => { s with mil.pwinSize := aligned 0 v }
  | 0x1C00090 => if s.noneBound then { s with mil.backBase := aligned 12 v } else s
  | 0x1C00098 => if s.noneBound then { s with mil.backSize := aligned 0 v } else s
  | 0x2000020 => { s with mem.rptBase := aligned 12 v }
  | 0x2420010 => { s with opt.at_ := aligned 0 v }
  | 0x2800008 => { s with res.dl := aligned 0 v }
  | 0x2800400 => if s.noMirror then { s with res.mirBase := aligned 12 v } else s
  | 0x2800408 => if s.noMirror then { s with res.mirSize := aligned 0 v } else s
  | 0x2800508 => { s with res.spareDev := aligned 0 v }
  | 0x2800510 => { s with res.spareHold := aligned 0 v }
  | 0x2C0000C => { s with sec.addr := aligned 6 v }
  | 0x3000024 => { s with tly.at_ := aligned 0 v }
  | 0x3000030 => { s with tly.imgBase := aligned 12 v }
  | 0x3000054 => { s with tly.tagBase := aligned 12 v }
  | _ => s
/-- The low words of the device-wide RW pairs. -/
def rwPairs : List Nat :=
  [0x10000C, 0x202014, 0xC00028, 0xC00060, 0xC00080, 0x1080010, 0x1080018, 0x1400030, 0x1400040, 0x1400060, 0x1400078, 0x1800004,
   0x1800020, 0x1800028, 0x1800050, 0x1C00004, 0x1C00070, 0x1C00078, 0x1C00090, 0x1C00098, 0x2000020, 0x2420010, 0x2800008,
   0x2800400, 0x2800408, 0x2800508, 0x2800510, 0x2C0000C, 0x3000024, 0x3000030, 0x3000054]
/-- A low word is held in the port's write latch. -/
def holdLow (p : HPort) (lo v : Nat) (s : State) : State :=
  s.modHost p (fun h => { h with wrLatch := tset none h.wrLatch lo (some (BitVec.ofNat 32 v)) })
/-- The value that a high word makes with the low word held, or else with the pair's present low word. -/
def joined (p : HPort) (lo v cur : Nat) (s : State) : Nat :=
  (match tget none (s.host p).wrLatch lo with | some w => w.toNat | none => cur % 2 ^ 32) + v % 2 ^ 32 * 2 ^ 32
def emptyLatch (p : HPort) (lo : Nat) (s : State) : State :=
  s.modHost p (fun h => { h with wrLatch := tset none h.wrLatch lo none })
/-- A write of the high word takes effect with its low word at one instant, and empties the latch. -/
def writeHigh (p : HPort) (lo v : Nat) (s : State) : State :=
  putPair lo (joined p lo v ((pairVal s p lo).getD 0) s) (emptyLatch p lo s)

/-! ### Command registers -/

def wGlbCtrl (p : HPort) (v : Nat) (s : State) : State :=
  let s := if bitAt v 2 then after (execClrmin p) s else s
  match bitAt v 0, bitAt v 1 with
  | true, true => setReqErr s
  | true, false => after (execQuiesce p) s
  | false, true => after (execResume p) s
  | false, false => s
def wPltCtrl (p : HPort) (v : Nat) (s : State) : State :=
  let s := notePltCtrl (bv 2 v 1) (bv 4 v 4) s
  let s := if bitAt v 3 then after (execPlatAbort p) s else s
  if bitAt v 0 then after (execPlatLoad p (bv 2 v 1) (bv 4 v 4)) s else s
def wFwdCmd (p : HPort) (v : Nat) (s : State) : State :=
  let t : BitVec 4 := bv 4 v 24
  let b := bitAt v 23
  match fld v 28 4 with
  | 1 => after (execFwdRead p t b) s
  | 2 => after (execFwdWrite p t b) s
  | 3 => after (execExInsert p t b) s
  | 4 => after (execExDelete p t b) s
  | 5 => after (execExLookup p t b) s
  | 6 => after (execLiveInsert p) s
  | 7 => after (execCordonSet p) s
  | 8 => after (execCordonClr p) s
  | 9 => after (execRepair p t b) s
  | 10 => after (execFlip p) s
  | 11 => after (execConfirm p) s
  | 12 => after (execBatch p) s
  | _ => fwdCommand p (fwdStatus 5) s
def wTmbCmd (p : HPort) (v : Nat) (s : State) : State :=
  match fld v 28 4 with
  | 1 => after (execTmbLoad p) s
  | 2 => after (execArm p (bv 4 v 24)) s
  | 3 => after (execActivate p (bv 4 v 24)) s
  | 4 => after (execDisarm p (bv 4 v 24)) s
  | _ => tmbCommand p (tmbStatus 1) s
def wLndCmd (p : HPort) (v : Nat) (s : State) : State :=
  let c : BitVec 18 := bv 18 v 0
  match fld v 28 4 with
  | 1 => after (execInstall p) s
  | 2 => after (execUninstall p c) s
  | 3 => after (execWithdraw p c) s
  | 4 => after (execLndQuery p c) s
  | 5 => after (execLndTrigger p c) s
  | _ => lndCommand p (lndStatus 0x0D) s
def wFncCmd (p : HPort) (v : Nat) (s : State) : State :=
  match fld v 28 4 with
  | 1 => after (execFenceArm p (bitAt v 0)) s
  | 2 => after (execFenceDisarm p) s
  | 3 => after (execFenceQuery p) s
  | 4 => after (execSetexp p) s
  | _ => fncCommand p (fncStatus 4) s
def wPgmCmd (p : HPort) (v : Nat) (s : State) : State :=
  let d : Fin 16 := ⟨fld v 24 4 % 16, Nat.mod_lt _ (by decide)⟩
  match fld v 28 4 with
  | 1 => after (execPgmLoad p d (bv 9 v 0)) s
  | 2 => after (execPgmUnload p d (bv 9 v 0)) s
  | _ => pgmCommand p (pgmStatus 0x0D) s
def wBind (p : HPort) (v : Nat) (s : State) : State :=
  let id : BitVec 12 := bv 12 v 0
  match fld v 28 4 with
  | 1 => after (execBind p id) s
  | 2 => after (execUnbind p id) s
  | 3 => after (execRebind p id) s
  | 4 => after (execBindQuery p id) s
  | 5 => after (execRestart p id) s
  | _ => bindCommand p (bindStatus 0x0D) s
def wTfCmd (p : HPort) (v : Nat) (s : State) : State :=
  match fld v 28 4 with
  | 1 => after (execTfWrite p (bv 12 v 0)) s
  | 2 => after (execTfRead p (bv 12 v 0)) s
  | _ => tfCommand p (tfStatus 0x0D) s
def wCbCmd (p : HPort) (v : Nat) (s : State) : State :=
  match fld v 28 4 with
  | 1 => after (execCbRead p (bv 12 v 0)) s
  | 2 => after (execCbWrite p (bv 12 v 0)) s
  | _ => cbCommand p (cbStatus 1) s
def wTdCmd (p : HPort) (v : Nat) (s : State) : State :=
  let j : BitVec 20 := bv 20 v 0
  match fld v 28 4 with
  | 1 => after (execTeardownStart p j) s
  | 2 => after (execTeardownRelease p j) s
  | 3 => after (execTeardownQuery p j) s
  | _ => tdCommand p 1 (tdStatus 1) s
def wFlyCmd (p : HPort) (v : Nat) (s : State) : State :=
  match fld v 28 4 with
  | 1 => after (execFlySet p (bv 8 v 0)) s
  | 2 => after (execFlyClear p (bv 8 v 0)) s
  | _ => flyCommand p (flyStatus 0x0B) s
def wLeaseCmd (p : HPort) (v : Nat) (s : State) : State :=
  match fld v 28 4 with
  | 1 => after (execLeaseGrant p) s
  | 2 => after (execLeaseRenew p) s
  | 3 => after (execLeaseRelease p) s
  | _ => leaseCommand p (leaseStatus 1) s
def wPartCmd (p : HPort) (v : Nat) (s : State) : State :=
  let k : BitVec 2 := bv 2 v 26
  let i : BitVec 12 := bv 12 v 0
  match fld v 28 4 with
  | 1 => after (execPartQuery p k i) s
  | 2 => after (execPartDrain p k i) s
  | 3 => after (execPartReturn p k i) s
  | 4 => after (execPartZero p k i) s
  | 5 => after (execPartTest p k i) s
  | _ => if s.res.partBusy then { s with res.partReject := true } else partStatus 1 s
def wTestCmd (p : HPort) (v : Nat) (s : State) : State :=
  if fld v 28 4 == 1 then after (execFullSelfTest p) s
  else if s.res.testBusy then { s with res.testReject := true } else { s with res.testStatus := 1 }
def wSpareCmd (p : HPort) (v : Nat) (s : State) : State :=
  match fld v 28 4 with
  | 1 => after (execPull p) s
  | 2 => after (execSpareAbort p) s
  | _ => if s.res.spareBusy then { s with res.spareReject := true } else { s with res.spareStatus := 1 }
def wSecCmd (p : HPort) (v : Nat) (s : State) : State :=
  match fld v 28 4 with
  | 1 => after (execKeyLoad p) s
  | 2 => after (execSecverCommit p) s
  | 3 => after (execDbgChallenge p) s
  | 4 => after (execDbgUnlock p) s
  | 5 => after (execDbgLock p) s
  | _ => secCommand p anyState (secStatus 1) s
def wSnapCmd (p : HPort) (v : Nat) (s : State) : State :=
  let id : Half := bv 16 v 0
  match fld v 28 4 with
  | 1 => after (execSnapNow p id) s
  | 2 => after (execSnapAt p id) s
  | 3 => after (execBlockAt p id) s
  | 4 => after (execSnapCancel p id) s
  | _ => snapCmd p (snapStatus 1) s
/-- HST_MB_CMD. Whether the flash takes a write, and the eye heights of a capture, are free values here. -/
def wMbCmd (p : HPort) (v : Nat) (s : State) : State :=
  let (f, s) := takeFree s
  let ok := f.getLsbD 0
  match fld v 24 8 with
  | 0x01 => after (execFwInfo p) s
  | 0x10 => after (execFlashRead p) s
  | 0x11 => after (execPlatWrite p ok) s
  | 0x12 => after (execSetActive p ok) s
  | 0x13 => after (execPartialWrite p ok) s
  | 0x14 => after (execFwWrite p ok) s
  | 0x20 => after (execCalRead p) s
  | 0x21 =>
    let eyes := (List.range 2048).map (fun l => (l, toLE 2 (Config.freeWord (s.fresh + l)).toNat))
    after (execCalCapture p eyes) { s with fresh := s.fresh + 2048 }
  | 0x22 => after (execCalWrite p ok) s
  | 0x30 => after (execAttest p) s
  | _ => mbCommand p (mbResult 1 0) s
def wTake (p : HPort) (v : Nat) (s : State) : State :=
  match fld v 28 4 with
  | 1 => after (execClaim p) s
  | 2 => after (execHostRenew p) s
  | 3 => after (execHostYield p) s
  | 4 => after (execForce p (bv 16 v 0)) s
  | _ => hostTake p 4 s

/-! ### The registers of each block -/

def wPlt (p : HPort) (o v : Nat) (s : State) : State :=
  match o with
  | 0x00 => { s with plt.reject := s.plt.reject && !bitAt v 2 }
  | 0x08 => wPltCtrl p v s
  | 0x14 => { s with plt.stageLen := bv 32 v 0 }
  | _ => s
/-- The device-wide registers of HST. -/
def wHst (p : HPort) (o v : Nat) (s : State) : State :=
  match o with
  | 0x2000 => wMbCmd p v s
  | 0x2004 => { s with hst.arg0 := bv 32 v 0 }
  | 0x2008 => { s with hst.arg1 := bv 32 v 0 }
  | 0x200C => { s with hst.arg2 := bv 32 v 0 }
  | 0x2010 => { s with hst.arg3 := bv 32 v 0 }
  | 0x201C => { s with hst.mbReject := s.hst.mbReject && !bitAt v 1 }
  | _ => s
def wLnk (p : HPort) (o v : Nat) (s : State) : State :=
  let n : Port := ⟨o / 256 % 2048, Nat.mod_lt _ (by decide)⟩
  if !s.portBuilt (o / 256) then s
  else
    match o % 256 with
    | 0x04 =>
      let s := after (execLnkDisable p n (bitAt v 1)) s
      if bitAt v 0 then after (execLnkRetrain p n) s else s
    | 0x1C => s.modLink n.val (fun l => { l with err := w1c l.err v })
    | _ => s
def wSrd (p : HPort) (o v : Nat) (s : State) : State :=
  if o < 0x20000 then
    if o % 64 = 4 ∧ bitAt v 0 = true then after (execRecal p ⟨o / 64 % 2048, Nat.mod_lt _ (by decide)⟩) s else s
  else if 0x40000 ≤ o ∧ o < 0x40500 ∧ o % 16 = 0 then
    s.modSvc (o % 0x10000 / 16) (fun x => { x with crc := x.crc && !bitAt v 6, cv := x.cv && !bitAt v 5, abort := x.abort && !bitAt v 4 })
  else if 0x60000 ≤ o ∧ o < 0xE0000 then
    let c := (o - 0x60000) / 0x10000
    match o % 0x10000 with
    | 0x0000 => writeEye c v s
    | 0x0004 => s.modEye c (fun e => { e with reject := e.reject && !bitAt v 2 })
    | _ => s
  else s
def wFwd (p : HPort) (o v : Nat) (s : State) : State :=
  match o with
  | 0x00 => wFwdCmd p v s
  | 0x04 => { s with fwd.index := bv 23 v 0 }
  | 0x08 => { s with fwd.data0 := bv 32 v 0 }
  | 0x0C => { s with fwd.data1 := bv 32 v 0 }
  | 0x10 => { s with fwd.data2 := bv 32 v 0 }
  | 0x14 => { s with fwd.data3 := bv 32 v 0 }
  | 0x18 => { s with fwd.reject := s.fwd.reject && !bitAt v 1 }
  | 0x30 => { s with fwd.batchCnt := bv 32 v 0 }
  | 0x50 => { s with fwd.mgmtEid := bv 32 v 0 }
  | 0x68 => { s with fwd.lrnEnable := bitAt v 31, fwd.lrnLog2 := bv 5 v 0 }
  | 0x70 => { s with fwd.lrnTail := bv 19 v 0 }
  | 0x88 => { s with fwd.cmpEnable := bitAt v 0 }
  | 0x90 => { s with fwd.event := w1c s.fwd.event v }
  | _ => s
/-- The sample sweeps count from now (R177). -/
def restartSweeps (s : State) : State := { s with swc.lastSweep := s.now / s.smpPeriodNs }
def wSwc (p : HPort) (o v : Nat) (s : State) : State :=
  if o < 0x40000 then
    if o % 16 = 4 ∧ bitAt v 31 = true ∧ s.portBuilt (o / 128) = true then
      after (execQmaxReset p ⟨o / 128 % 2048, Nat.mod_lt _ (by decide)⟩ (BitVec.ofNat 3 (o / 16))) s
    else s
  else if 0x80100 ≤ o ∧ o < 0x80180 then
    let n := (o - 0x80100) / 8
    if o % 8 = 0 then { s with swc.capsel := tset 0 s.swc.capsel n (bv 32 v 0 &&& ~~~0x1800#32) }
    else { s with swc.capflt := tset 0x80000000 s.swc.capflt n (bv 32 v 0) }
  else
    match o with
    | 0x80000 =>
      let was := s.swc.sample
      let s := { s with swc.nonempty := bitAt v 2, swc.capture := bitAt v 1, swc.sample := bitAt v 0 }
      if s.swc.sample && !was then restartSweeps s else s
    | 0x80004 => { s with swc.tmo := bv 8 v 0 }
    | 0x80008 => restartSweeps { s with swc.period := bv 16 v 0 }
    | 0x80020 => { s with swc.smpSize := bv 5 v 0 }
    | 0x80024 => { s with swc.capSize := bv 5 v 0 }
    | 0x8002C => { s with swc.smpTail := bv 24 v 0 }
    | 0x80034 =>
      let n := 2 ^ s.swc.capSize.toNat
      { s with swc.capTail := bv 24 v 0, swc.capUnread := (s.swc.capHead.toNat + n - (bv 24 v 0).toNat % n) % n }
    | 0x80038 => { s with swc.event := w1c s.swc.event v }
    | _ => s
def wTmb (p : HPort) (o v : Nat) (s : State) : State :=
  match o with
  | 0x20 => { s with tmb.mapen := bitAt v 0 }
  | 0x24 => settleAdmit { s with tmb.holdLimit := bv 16 v 0 }
  | 0x28 => wTmbCmd p v s
  | 0x38 => { s with tmb.stageLen := bv 32 v 0 }
  | 0x48 => { s with tmb.reject := s.tmb.reject && !bitAt v 1 }
  | 0x68 => { s with tmb.mapSize := bv 24 v 0 }
  | 0x70 => { s with tmb.mapTail := bv 24 v 0 }
  | 0x74 => { s with tmb.mapPeriod := bv 24 v 0 }
  | 0x80 => { s with tmb.event := w1c s.tmb.event v }
  | _ => s
/-- A write of an LND register. What a write of LND_ARG.VALUE [31:11] other than 0 leaves is open; the model drops those bits, and they read 0 (log entry 91). -/
def wLnd (p : HPort) (o v : Nat) (s : State) : State :=
  match o with
  | 0x000 => wLndCmd p v s
  | 0x00C => { s with lnd.arg := BitVec.ofNat 32 (v % 2048) }
  | 0x010 => { s with lnd.corr := bv 32 v 0 }
  | 0x014 => { s with lnd.reject := s.lnd.reject && !bitAt v 1 }
  | 0x044 => { s with lnd.tomb := bv 16 v 16, lnd.age := bv 16 v 0 }
  | 0x058 => { s with lnd.ringEnable := bitAt v 31, lnd.ringLog2 := bv 5 v 0 }
  | 0x060 => { s with lnd.ringTail := bv 20 v 0 }
  | 0x064 => { s with lnd.event := w1c s.lnd.event v }
  | 0x400 => wFncCmd p v s
  | 0x404 => { s with lnd.fncKey := bv 32 v 0 }
  | 0x408 => { s with lnd.fncArg := bv 32 v 0 }
  | 0x40C => { s with lnd.fncReject := s.lnd.fncReject && !bitAt v 1 }
  | _ => s
def wMil (p : HPort) (o v : Nat) (s : State) : State :=
  match o with
  | 0x000000 => wPgmCmd p v s
  | 0x00000C => { s with mil.pgmLen := bv 32 v 0 }
  | 0x000010 => { s with mil.pgmReject := s.mil.pgmReject && !bitAt v 1 }
  | 0x000020 => wBind p v s
  | 0x000024 => { s with mil.arg0 := BitVec.ofNat 32 (v / 16 * 16) }
  | 0x000028 => { s with mil.arg1 := bv 32 v 0 }
  | 0x00002C => { s with mil.bindReject := s.mil.bindReject && !bitAt v 1 }
  | 0x000040 => wTfCmd p v s
  | 0x000044 => { s with mil.tfData0 := bv 32 v 0 }
  | 0x000048 => { s with mil.tfData1 := bv 32 v 0 }
  | 0x00004C => { s with mil.tfData2 := bv 32 v 0 }
  | 0x000050 => { s with mil.tfData3 := bv 32 v 0 }
  | 0x000054 => { s with mil.tfReject := s.mil.tfReject && !bitAt v 1 }
  | 0x000060 => if bitAt v 31 then after (execYardFlush p (bv 12 v 0) (bv 3 v 12)) s else s
  | 0x000080 => { s with mil.event := w1c s.mil.event v }
  | 0x300000 => wCbCmd p v s
  | 0x300004 => { s with mil.cbReject := s.mil.cbReject && !bitAt v 1 }
  | _ =>
    if 0x300010 ≤ o ∧ o < 0x300030 then { s with mil.cbData := tset 0 s.mil.cbData ((o - 0x300010) / 4) (bv 32 v 0) }
    else if 0x300100 ≤ o ∧ o < 0x300140 then { s with mil.aexc := tmod 0 s.mil.aexc ((o - 0x300100) / 4) (fun e => w1c e v) }
    else s
def wMem (p : HPort) (o v : Nat) (s : State) : State :=
  match o with
  | 0x00 => { s with mem.maxn := bv 8 v 8, mem.report := bitAt v 1, mem.combine := bitAt v 0 }
  | 0x10 => wTdCmd p v s
  | 0x14 => { s with mem.reject := s.mem.reject && !bitAt v 1 }
  | 0x28 => { s with mem.rptLog2 := bv 5 v 0 }
  | 0x30 => { s with mem.rptTail := bv 16 v 0 }
  | 0x34 => { s with mem.event := w1c s.mem.event v }
  | _ => s
def wOpt (p : HPort) (o v : Nat) (s : State) : State :=
  if o < 0x10000 then
    if o % 32 = 4 ∧ bitAt v 0 = true then after (execOptCal p ⟨o / 32 % 2048, Nat.mod_lt _ (by decide)⟩) s else s
  else
    match o with
    | 0x20000 => wFlyCmd p v s
    | 0x20004 => { s with opt.lanes := BitVec.ofNat 32 (fld v 16 11 * 65536 + fld v 0 11) }
    | 0x20008 => { s with opt.eidA := bv 32 v 0 }
    | 0x2000C => { s with opt.eidB := bv 32 v 0 }
    | 0x20018 => { s with opt.reject := s.opt.reject && !bitAt v 1 }
    | 0x30000 => { s with opt.delta := bv 16 v 16, opt.floor := bv 16 v 0 }
    | 0x30004 => { s with opt.event := w1c s.opt.event v }
    | _ => s
def wRes (p : HPort) (o v : Nat) (s : State) : State :=
  match o with
  | 0x000 => wLeaseCmd p v s
  | 0x004 => { s with res.epoch := bv 32 v 0 }
  | 0x010 => { s with res.leaseReject := s.res.leaseReject && !bitAt v 1 }
  | 0x100 => { (settlePenalties s) with res.half := bv 16 v 0 }
  | 0x104 => wPartCmd p v s
  | 0x108 => { s with res.partReject := s.res.partReject && !bitAt v 1 }
  | 0x110 => { s with res.cruiseEvent := w1c s.res.cruiseEvent v }
  | 0x300 => wTestCmd p v s
  | 0x304 => { s with res.testReject := s.res.testReject && !bitAt v 1 }
  | 0x500 => wSpareCmd p v s
  | 0x504 => { s with res.spareReject := s.res.spareReject && !bitAt v 1 }
  | _ => s
def wSec (p : HPort) (o v : Nat) (s : State) : State :=
  match o with
  | 0x04 => wSecCmd p v s
  | 0x08 => { s with sec.reject := s.sec.reject && !bitAt v 1 }
  | 0x14 => { s with sec.alarmSensor := w1c s.sec.alarmSensor v }
  | _ => s
def wTly (p : HPort) (o v : Nat) (s : State) : State :=
  match o with
  | 0x00 => tlySel (bv 32 v 0) s
  | 0x20 => wSnapCmd p v s
  | 0x2C => { s with tly.reject := s.tly.reject && !bitAt v 1 }
  | 0x38 => { s with tly.imgSize := bv 8 v 0 }
  | 0x44 => { s with tly.imgTail := bv 8 v 0 }
  | 0x50 => { s with tly.tagEnable := bitAt v 31, tly.tagShift := bv 5 v 16, tly.tagDmask := bv 16 v 0 }
  | 0x5C => { s with tly.tagSize := bv 20 v 0 }
  | 0x64 => { s with tly.tagTail := bv 20 v 0 }
  | 0x68 => { s with
    tly.evTagLost := s.tly.evTagLost && !bitAt v 2, tly.evSnapSkip := s.tly.evSnapSkip && !bitAt v 1,
    tly.evSnapDone := s.tly.evSnapDone && !bitAt v 0 }
  | _ => s
def wPwr (p : HPort) (o v : Nat) (s : State) : State :=
  match o with
  | 0x18 => { s with pwr.event := w1c s.pwr.event v }
  | 0x1C => if bitAt v 0 then after (execClrmax p) s else s
  | _ => s
def wGlb (p : HPort) (o v : Nat) (s : State) : State :=
  match o with
  | 0x10 => { s with glb.reqErr := s.glb.reqErr && !bitAt v 8 }
  | 0x14 => wGlbCtrl p v s
  | _ => s
/-- A register that is no part of an RW pair; read-only registers and reserved offsets ignore the write. -/
def wBlock (p : HPort) (off v : Nat) (s : State) : State :=
  if off < 0x100000 then wGlb p off v s
  else if off < 0x200000 then wPlt p (off - 0x100000) v s
  else if off < 0x400000 then wHst p (off - 0x200000) v s
  else if off < 0x800000 then wLnk p (off - 0x400000) v s
  else if off < 0xC00000 then wSrd p (off - 0x800000) v s
  else if off < 0x1000000 then wFwd p (off - 0xC00000) v s
  else if off < 0x1400000 then wSwc p (off - 0x1000000) v s
  else if off < 0x1800000 then wTmb p (off - 0x1400000) v s
  else if off < 0x1C00000 then wLnd p (off - 0x1800000) v s
  else if off < 0x2000000 then wMil p (off - 0x1C00000) v s
  else if off < 0x2400000 then wMem p (off - 0x2000000) v s
  else if off < 0x2800000 then wOpt p (off - 0x2400000) v s
  else if off < 0x2C00000 then wRes p (off - 0x2800000) v s
  else if off < 0x3000000 then wSec p (off - 0x2C00000) v s
  else if off < 0x3800000 then wTly p (off - 0x3000000) v s
  else if off < 0x3C00000 then wPwr p (off - 0x3800000) v s
  else s
/-- A write from the owner to a device-wide register. -/
def devWrite (p : HPort) (off v : Nat) (s : State) : State :=
  if rwPairs.contains off then holdLow p off v s
  else if 4 ≤ off && rwPairs.contains (off - 4) then writeHigh p (off - 4) v s
  else wBlock p off v s

/-! ### Per-port registers (R390, R394, R395, R398) -/

/-- HST_DMAc: the ring pair, CTRL, PROD and STAT. -/
def wDma (p : HPort) (c : Nat) (off o v : Nat) (s : State) : State :=
  match o with
  | 0x00 => holdLow p off v s
  | 0x04 => modDma p c (fun d => { d with ring := aligned 6 (joined p (off - 4) v d.ring.toNat s) }) (emptyLatch p (off - 4) s)
  | 0x08 => modDma p c (fun d =>
      let d := if bitAt v 30 then resetDma d else d
      DmaCh.settle { d with enable := bitAt v 31, log2 := bv 5 v 0 }) s
  | 0x0C => modDma p c (fun d => DmaCh.settle { d with prod := bv 16 v 0 }) s
  | 0x14 => modDma p c (fun d => { d with done := d.done && !bitAt v 0 }) s
  | _ => s
/-- An MSI-X table word; unmasking a vector whose bit is pending sends its message. -/
def wMsix (p : HPort) (o v : Nat) (s : State) : State :=
  let k := o / 16
  let put := fun (f : MsixEntry → MsixEntry) => s.modHost p (fun h => { h with msix := tmod MsixEntry.reset h.msix k f })
  match o % 16 with
  | 0 => put (fun e => { e with addr := BitVec.ofNat 64 (setFld e.addr.toNat 0 32 v) })
  | 4 => put (fun e => { e with addr := BitVec.ofNat 64 (setFld e.addr.toNat 32 32 v) })
  | 8 => put (fun e => { e with data := bv 32 v 0 })
  | 12 =>
    let s := put (fun e => { e with masked := bitAt v 0 })
    if !bitAt v 0 && tget false (s.host p).pba k then
      sendVector p k (s.modHost p (fun h => { h with pba := tset false h.pba k false }))
    else s
  | _ => s
def wIrq (p : HPort) (n v : Nat) (s : State) : State :=
  s.modHost p (fun h => { h with irq := tmod (IrqMap.reset n) h.irq n (fun m => { m with en := bitAt v 31, holdoff := bv 8 v 16, vector := bv 11 v 0 }) })
/-- A register that a port writes for itself, at an offset within HST; none where the offset is not one. -/
def ownWrite (p : HPort) (o v : Nat) : Option (State → State) :=
  if o = 0x0004 then some (wTake p v)
  else if o = 0x0010 then some (fun s => s.modHost p (fun h => { h with win := bv 8 v 0 }))
  else if 0x100 ≤ o ∧ o < 0x180 then some (wIrq p (o % 128 / 4) v)
  else if 0x1000 ≤ o ∧ o < 0x1400 then some (wDma p (o % 0x1000 / 64) (0x200000 + o) (o % 64) v)
  else if 0x100000 ≤ o ∧ o < 0x108000 then some (wMsix p (o - 0x100000) v)
  else if 0x108000 ≤ o ∧ o < 0x108100 then some id
  else if o = 0 ∧ bitAt v 27 = true then some (fun s => s.modHost p (fun h => { h with denied := false }))
  else none
/-- A 4-byte write to BAR0 (R387, R390). -/
def busWrite (p : HPort) (off v : Nat) (s : State) : State :=
  if (s.host p).perst then s
  else if off % 4 != 0 then count (evNo 2 0x002 (portIdx p)) s
  else
    match (if 0x200000 ≤ off ∧ off < 0x400000 then ownWrite p (off - 0x200000) v else none) with
    | some f => portWrite p f s
    | none => hostWrite p (decide (off < 0x100000)) (devWrite p off v) s
def execRegisterWrite (p : HPort) (off : BitVec 26) (v : Word) (s : State) : Out := .next (busWrite p off.toNat v.toNat s)

end Sys2Proof.Machine
end

