-- ==== Sys2Proof/Machine/Debug.lean ====
section
/-! DEFINITION. The debug lands (R406, R448, R452) and the SMBus (R445). -/
namespace Sys2Proof.Machine
open Sys2Proof

/-! ### Messages (R452) -/

/-- The debug lands are powered: DBG_EN# is low and the rails are up. -/
def State.dbgOn (s : State) : Bool := s.pwr.dbgEn && s.pwr.pgood
/-- Sends a message on the debug lands, and two idle ordered sets after it (R120, R122). -/
def sendDebug (type seq : Byte) (payload : List Byte) (s : State) : State :=
  let (g, rd) := encodeAll s.pwr.dbgTxRd (framed type seq payload ++ idlePair)
  emit (.debug g) { s with pwr.dbgTxRd := rd }
/-- What characters on the debug lands amount to. -/
def State.heardDebug (s : State) (codes : List Code) : MsgRx := parseMsg 80 (decodeAll s.pwr.dbgRd codes).1
/-- STATUS: a code of SEC_CSTAT, or 9 LEVEL, 0x0A NOT_RECOVERY. -/
def dbgStatus (seq : Byte) (st : Nat) (s : State) : State := sendDebug 0xC3 seq (toLE 1 st ++ zeros 3) s
/-- A message of one TYPE, where the lands are powered; its payload is what its layout holds, or it is BAD_FIELD. One to discard is not answered. -/
def onDebug (type : Byte) (codes : List Code) (laid : List Byte → Bool) (f : Byte → List Byte → State → State) (s : State) : State :=
  if !s.dbgOn then s
  else
    let t := { s with pwr.dbgRd := (decodeAll s.pwr.dbgRd codes).2 }
    match s.heardDebug codes with
    | .ok m => if m.type == type then (if laid m.payload then f m.seq m.payload t else dbgStatus m.seq 1 t) else t
    | _ => t
/-- A command that needs a debug level. -/
def atLevel (level : Nat) (seq : Byte) (f : State → State) (s : State) : State :=
  if s.sec.dbg.toNat < level then dbgStatus seq 9 s else f s
def chalReq (seq : Byte) (s : State) : State :=
  let s := newChallenge s
  match s.sec.chal with
  | some (d, _) => sendDebug 0xC1 seq (digestBytes d) s
  | none => s
def execChalReq (codes : List Code) (s : State) : Out := .next (onDebug 0xC0 codes (·.isEmpty) (fun seq _ => chalReq seq) s)
def unlock (seq : Byte) (resp : List Byte) (s : State) : State :=
  let (s, st) := tryUnlock resp s
  dbgStatus seq st s
def execUnlock (seq resp : List Code) (s : State) : Out := .next (onDebug 0xC2 (seq ++ resp) (fun _ => true) unlock s)
def execLock (codes : List Code) (s : State) : Out :=
  .next (onDebug 0xCB codes (·.isEmpty) (fun seq _ s => dbgStatus seq 0 (lockDebug s)) s)
/-- HALT: 0 halts the management cores, 1 resumes them. -/
def halt (seq action : Byte) (s : State) : State :=
  if 1 < action.toNat then dbgStatus seq 1 s else dbgStatus seq 0 { s with pwr.halted := action == 0 }
def execHalt (seq action : List Code) (s : State) : Out :=
  .next (onDebug 0xC8 (seq ++ action) (·.length == 1) (fun seq b => atLevel 2 seq (halt seq (b.getD 0 0))) s)

/-! ### Registers and memories -/

/-- REG_READ: 1 to 256 words of BAR0, as they are now; per-port registers are those of HA. -/
def dbgRegRead (seq : Byte) (off count : Nat) (s : State) : State :=
  if count == 0 || 256 < count || off % 4 != 0 then dbgStatus seq 1 s
  else sendDebug 0xC5 seq (toLE 4 off ++ (List.range count).flatMap (fun i => toLE 4 (readNow s .ha (off + 4 * i)))) s
def execRegRead (seq off count : List Code) (s : State) : Out :=
  .next (onDebug 0xC4 (seq ++ off ++ count) (fun b => b.length == 8 && allZero (slice b 6 2))
    (fun seq b => atLevel 1 seq (dbgRegRead seq (u32At b 0) (u16At b 4))) s)
/-- One byte of a space: 0 management-core memory, 1 Hub SRAM, 2 BAR0. -/
def debugByte (s : State) (space a : Nat) : Byte :=
  match space with
  | 0 => (tget none s.pwr.mgmtMem a).getD (Config.debugByte false a)
  | 1 => (tget none s.pwr.hubSram a).getD (Config.debugByte true a)
  | _ => BitVec.ofNat 8 (fld (readNow s .ha (a / 4 * 4)) (8 * (a % 4)) 8)
def badSpan (space : Byte) (n : Nat) : Bool := 2 < space.toNat || n == 0 || 2032 < n
/-- Space, 7 bytes of 0, address and length. -/
def memLaid (b : List Byte) : Bool := decide (20 ≤ b.length) && allZero (slice b 1 7)
def dbgMemRead (seq space : Byte) (addr len : Nat) (s : State) : State :=
  if badSpan space len then dbgStatus seq 1 s
  else sendDebug 0xCC seq (toLE 8 addr ++ (List.range len).map (fun i => debugByte s space.toNat (addr + i))) s
def execMemRead (seq space addr len : List Code) (s : State) : Out :=
  .next (onDebug 0xC6 (seq ++ space ++ addr ++ len) (fun b => memLaid b && b.length == 20)
    (fun seq b => atLevel 2 seq (dbgMemRead seq (b.getD 0 0) (u64At b 8) (u32At b 16))) s)
/-- A BAR0 word written over the debug lands: it is carried out as the owner's, through HA; but RES_LEASE_CMD takes only what the host that holds the host lease wrote (R351). -/
def debugBusWrite (off v : Nat) (s : State) : State :=
  if off == 0x2800000 then s
  else
  let t := busWrite .ha off v { s with hst.owner := some .ha, hst.ha.perst := false }
  { t with hst.owner := if t.hst.owner = some .ha then s.hst.owner else t.hst.owner, hst.ha.perst := s.hst.ha.perst }
/-- BAR0 words, low address first. -/
def debugBusWrites : Nat → List Word → State → State
  | _, [], s => s
  | off, w :: r, s => debugBusWrites (off + 4) r (debugBusWrite off w.toNat s)
def dbgMemWrite (seq space : Byte) (addr : Nat) (data : List Byte) (s : State) : State :=
  if badSpan space data.length || (space == 2 && (addr % 4 != 0 || data.length % 4 != 0)) then dbgStatus seq 1 s
  else
    dbgStatus seq 0 (match space.toNat with
      | 0 => { s with pwr.mgmtMem := tsetL none s.pwr.mgmtMem addr (data.map some) }
      | 1 => { s with pwr.hubSram := tsetL none s.pwr.hubSram addr (data.map some) }
      | _ => debugBusWrites addr (wordsOf data) s)
def execMemWrite (seq space addr data : List Code) (s : State) : Out :=
  .next (onDebug 0xC7 (seq ++ space ++ addr ++ data) (fun b => memLaid b && b.length == 20 + u32At b 16)
    (fun seq b => atLevel 2 seq (dbgMemWrite seq (b.getD 0 0) (u64At b 8) (b.drop 20))) s)

/-! ### Firmware recovery (R406) -/

/-- A command of BOOT recovery. -/
def inRecovery (seq : Byte) (f : State → State) (s : State) : State :=
  if s.glb.state != .boot then dbgStatus seq 0x0A s else f s
/-- The largest firmware image. -/
def fwMax : Nat := 33554432
def fwChunk (seq : Byte) (off : Nat) (data : List Byte) (s : State) : State :=
  if fwMax < off + data.length then dbgStatus seq 1 s
  else dbgStatus seq 0 { s with pwr.recImage := tsetL 0 s.pwr.recImage off data }
def execFwChunk (seq off data : List Code) (s : State) : Out :=
  .next (onDebug 0xC9 (seq ++ off ++ data) (fun b => decide (4 ≤ b.length)) (fun seq b => inRecovery seq (fwChunk seq (u32At b 0) (b.drop 4))) s)
/-- The assembled image passes: it is written to slot 0 and the device resets. A failure, the flash's too, is BAD_SIGNATURE and the ROM keeps waiting. -/
def fwDone (seq : Byte) (len : Nat) (flashOk : Bool) (s : State) : State :=
  let b := tgetL 0 s.pwr.recImage 0 (min len (fwMax + 1))
  if fwCheck s b != 0 then dbgStatus seq 3 (sigFail s)
  else if !flashOk then dbgStatus seq 3 { s with nv.fw0 := [] }
  else tryStart (deviceReset 6 (dbgStatus seq 0 { s with nv.fw0 := b }))
def execFwDone (seq len : List Code) (flashOk : Bool) (s : State) : Out :=
  .next (onDebug 0xCA (seq ++ len) (·.length == 4) (fun seq b => inRecovery seq (fwDone seq (u32At b 0) flashOk)) s)

/-! ### Lands and SMBus (R445, R448) -/

/-- The lands power up with both running disparities negative. -/
def execDbgEnChange (asserted : Bool) (s : State) : Out := .next { s with pwr.dbgEn := asserted, pwr.dbgRd := false, pwr.dbgTxRd := false }
/-- The register that a command byte names; none is answered with NACK. -/
def smbusReg (s : State) (c : Nat) : Option Nat :=
  if c < 8 then some (pwrReg s (4 * c))
  else if 0x40 ≤ c ∧ c < 0x80 then some (pwrReg s (0x100 + 4 * (c - 0x40)))
  else if 0x80 ≤ c ∧ c < 0x90 then some (pwrReg s (0x200 + 4 * (c - 0x80)))
  else none
/-- The SMBus answers while VIN is at least 30 V. -/
def execSmbusBlockRead (cmd : Byte) (isWrite : Bool) (s : State) : Out :=
  .next (
    if s.pwr.vinLost && s.pwr.supply != .on then s
    else if isWrite then emit (.smbus none) s
    else emit (.smbus ((smbusReg s cmd.toNat).map (BitVec.ofNat 32 ·))) s)

end Sys2Proof.Machine
end

