-- ==== Sys2Proof/Machine/LaneRx.lean ====
section
/-! DEFINITION. What a codeword received on a fabric lane does: block lock first, then what it carries, a link frame, an EQ block or an idle entry. The commands that bring one: CODEWORD_RECEIVED brings any, the others one of a kind (log entry 86). -/
namespace Sys2Proof.Machine
open Sys2Proof

/-- A TRAIN record by its RTYPE (R89). -/
def takeRecord (p lane : Nat) (b : List Byte) (s : State) : State :=
  match u8At b 0 with
  | 1 => takeHello p lane b s
  | 2 => takeConfig p b s
  | 3 => takeCredit p b s
  | _ => s
/-- A LANE_CTL body by its ACTION (R92). -/
def takeLaneCtl (p : Nat) (b : List Byte) (s : State) : State :=
  match u8At b 0 with
  | 1 => takeOff p (u8At b 1) s
  | 2 => takeOffAck p (u8At b 1) s
  | 3 => takeOn p (u8At b 1) s
  | 4 => takeOnAck p (u8At b 1) s
  | _ => s
/-- A link frame received, by its FTYPE: every one acknowledges and returns credits on a port that is up, DATA carries packets, TRAIN a record, LANE_CTL an action. -/
def takeAnyFrame (p lane : Nat) (b : List Byte) (s : State) : State :=
  let s := takeFrame p lane b s
  if !frameIntact b then s
  else
    match fld (u32At b 0) 28 4 with
    | 2 => takeRecord p lane (slice b 16 620) s
    | 3 => takeLaneCtl p (slice b 16 620) s
    | _ => s
/-- What a codeword carried on a lane of a port that is built. -/
def takeContent (p l : Nat) (c : Content) (s : State) : State :=
  match c with
  | .frame b => takeAnyFrame p (l - p) b s
  | .eq block => takeEq l block.toNat s
  | .idle => idleEnter l s
  | .other => s
  | .invalid => loseFrame p (l - p) s
/-- One codeword's time on a built lane: no signal, or its symbols. -/
def receive (l : Nat) (x : Option Symbols) (s : State) : State :=
  match s.portOfLane l with
  | none => s
  | some p =>
    let (c, s) := takeCodeword l x s
    takeContent p l c s
/-- A codeword that the lane's receiver reads as one of a kind; another is not this command's. -/
def receiveIf (kind : Content → Bool) (l : Nat) (x : Symbols) (s : State) : State :=
  if kind ((s.lane l).decode x).1 then receive l (some x) s else s
/-- The symbols that come while there is a signal. -/
def heardIf (signal : Bool) (x : Symbols) : Option Symbols := if signal then some x else none
def Content.isFrame : Content → Bool
  | .frame _ | .invalid => true
  | _ => false
def Content.isEq : Content → Bool
  | .eq _ => true
  | _ => false

def execCodewordReceived (lane : LaneNo) (signal : Bool) (rx : Symbols) (s : State) : Out := .next (receive lane.val (heardIf signal rx) s)
/-- A link frame, or the uncorrectable codeword of one that is lost, on a lane of a port (R81). -/
def execLinkFrameReceived (port : Port) (lane : Fin 8) (signal : Bool) (rx : Symbols) (s : State) : Out :=
  .next (
    if s.width port.val ≤ lane.val then s
    else if signal then receiveIf Content.isFrame (port.val + lane.val) rx s
    else receive (port.val + lane.val) none s)
def execEqRequest (lane : LaneNo) (rx : Symbols) (s : State) : Out := .next (receiveIf Content.isEq lane.val rx s)
def execIdleEnter (rx : LaneNo × Symbols) (s : State) : Out := .next (receiveIf (· == .idle) rx.1.val rx.2 s)

end Sys2Proof.Machine
end

