-- ==== Sys2Proof/Machine/MillScalar.lean ====
section
/-! DEFINITION. Mill instructions of thread control, scalar arithmetic, scratch words, trigger, item end and barrier (R284 to R287, R296, R306, R307). -/
namespace Sys2Proof.Machine
open Sys2Proof

/-! ### Thread control -/

def execMillNop (t : Th) (s : State) : Out := .next (runMill t 0x00 (fun _ => {}) (fun _ s => .ok s) s)
/-- YIELD: the thread issues again only after every other thread of its core that is READY now has issued. -/
def yieldTo (t : Th) (s : State) : State :=
  let others := (s.readyOn (s.gcore t)).filter (· != thId t)
  modThread t (fun h => { h with owe := others }) s
def execMillYield (t : Th) (s : State) : Out := .next (runMill t 0x01 (fun _ => {}) (fun _ s => .ok (yieldTo t s)) s)
/-- A jump to a word of the image; beyond it the thread faults. -/
def jumpTo (t : Th) (n : Nat) (s : State) : MRes := if imgCode (s.imageOf t) ≤ n then .fault 1 s else .jump n s
def execMillJmp (t : Th) (s : State) : Out :=
  .next (runMill t 0x02 (fun _ => { imm := 0xFFFF }) (fun i s => jumpTo t i.imm s) s)
def branch (t : Th) (onZero : Bool) (i : Ins) (s : State) : MRes :=
  guarded [(decide (32 ≤ i.s1), 3)] s (if (s.xr t i.s1 == 0) == onZero then jumpTo t i.imm s else .ok s)
def execMillBrz (t : Th) (s : State) : Out :=
  .next (runMill t 0x03 (fun _ => { s1 := true, imm := 0xFFFF }) (branch t true) s)
def execMillBrnz (t : Th) (s : State) : Out :=
  .next (runMill t 0x04 (fun _ => { s1 := true, imm := 0xFFFF }) (branch t false) s)

/-! ### Scalar arithmetic -/

def movi (t : Th) (i : Ins) (s : State) : MRes :=
  guarded [(decide (32 ≤ i.d), 3)] s (.ok (setX t i.d (setFld (s.xr t i.d) (16 * fld i.mod 0 2) 16 i.imm) s))
def execMillMovi (t : Th) (s : State) : Out :=
  .next (runMill t 0x08 (fun _ => { d := true, mod := 0x03, imm := 0xFFFF }) (movi t) s)
/-- The scalar operations, modulo 2^64; none for a reserved code. -/
def aluOp (op a b : Nat) : Option Nat :=
  let m := 2 ^ 64
  match op with
  | 0 => some ((a + b) % m)
  | 1 => some ((a + (m - b)) % m)
  | 2 => some (a * b % m)
  | 3 => some (Nat.land a b)
  | 4 => some (Nat.lor a b)
  | 5 => some (Nat.xor a b)
  | 6 => some (if 64 ≤ b then 0 else a * 2 ^ b % m)
  | 7 => some (if 64 ≤ b then 0 else a / 2 ^ b)
  | 8 => some (unsigned 64 (signed 64 a / (2 ^ min b 64 : Nat)))
  | 9 => some (b2n (decide (a < b)))
  | 10 => some (b2n (a == b))
  | _ => none
def aluWith (t : Th) (i : Ins) (b : Nat) (s : State) : MRes :=
  match aluOp (fld i.mod 0 4) (s.xr t i.s1) b with
  | none => .fault 1 s
  | some v => .ok (setX t i.d v s)
def alu (t : Th) (i : Ins) (s : State) : MRes :=
  guarded [(decide (11 ≤ fld i.mod 0 4), 1), (decide (32 ≤ i.d) || decide (32 ≤ i.s1) || decide (32 ≤ i.s2), 3)] s
    (aluWith t i (s.xr t i.s2) s)
def execMillAlu (t : Th) (s : State) : Out :=
  .next (runMill t 0x09 (fun _ => { d := true, s1 := true, s2 := true, mod := 0x0F }) (alu t) s)
def alui (t : Th) (i : Ins) (s : State) : MRes :=
  guarded [(decide (11 ≤ fld i.mod 0 4), 1), (decide (32 ≤ i.d) || decide (32 ≤ i.s1), 3)] s (aluWith t i i.imm s)
def execMillAlui (t : Th) (s : State) : Out :=
  .next (runMill t 0x0A (fun _ => { d := true, s1 := true, mod := 0x0F, imm := 0xFFFF }) (alui t) s)

/-! ### Scratch words -/

def wordOff (t : Th) (i : Ins) (s : State) : Nat := (s.xr t i.s1 + 8 * i.imm) % 2 ^ 64
def ldx (t : Th) (i : Ins) (s : State) : MRes :=
  let off := wordOff t i s
  guarded [(decide (32 ≤ i.d) || decide (32 ≤ i.s1), 3), (s.offScratch t off 8, 3)] s
    (.ok (countSkid t 8 (setX t i.d (leNat (s.rdScratch t off 8)) s)))
def execMillLdx (t : Th) (s : State) : Out :=
  .next (runMill t 0x0B (fun _ => { d := true, s1 := true, imm := 0xFFFF }) (ldx t) s)
def stx (t : Th) (i : Ins) (s : State) : MRes :=
  let off := wordOff t i s
  guarded [(decide (32 ≤ i.s2) || decide (32 ≤ i.s1), 3), (s.offScratch t off 8, 3)] s
    (.ok (countSkid t 8 (wrScratch t off (toLE 8 (s.xr t i.s2)) s)))
def execMillStx (t : Th) (s : State) : Out :=
  .next (runMill t 0x0C (fun _ => { s1 := true, s2 := true, imm := 0xFFFF }) (stx t) s)

/-! ### Trigger and item end -/

/-- The job of the thread's current item in yard 0. -/
def State.itemJob (s : State) (t : Th) : Option (BitVec 20) :=
  match s.curItem t 0 with
  | some i => (match i.kind with
    | .flow p _ => some p.h.job
    | .finish .. => some (BitVec.ofNat 20 (u32At i.bytes 4))
    | .plain => none)
  | none => none
def trig (t : Th) (i : Ins) (s : State) : MRes :=
  let cid := s.xr t i.s1 % 2 ^ 18
  let other := match s.ctx cid, s.itemJob t with
    | some c, some j => c.d.job != j
    | _, _ => false
  guarded [(decide (32 ≤ i.s1), 3), (other, 4)] s (.ok (landTasks [.trigger cid] s))
def execMillTrig (t : Th) (s : State) : Out := .next (runMill t 0x80 (fun _ => { s1 := true }) (trig t) s)
/-- The line goes back in OUTFMT, or in the accumulator format; a chunk of which nothing has been written in OUTFMT is converted from its accumulator, in CB4 with free in-band codebooks and indices, since no codebook is named (R271, R272). -/
def handBack (cid pos : Nat) (c : Ctx) (stage : Nat) (s : State) : State :=
  let ch := c.chunk pos
  match c.d.stages[stage]? with
  | none => s
  | some g =>
    let f := g.a.toNat
    if f == 0xFF || ch.outBytes.isSome then s
    else
      let n := c.d.elemsOf pos
      let whole := padded f n
      let (b, e, s) := if f == 0x0C then
          let (r, s) := takeFreeBytes (20 * (whole / 256)) s
          (zeros 4 ++ r, Exc.none, s)
        else
          let (b, e) := encodeArr f (fun _ => .rne) ((c.accOf pos).map (accDecode c.d.afmt) ++ List.replicate (whole - n) FV.zero)
          (b, e, s)
      addExc c.d.home.toNat e (modChunk cid pos (fun ch => { ch with outBytes := some (g.a, b.map (·.toNat)) }) s)
/-- DONE: the current finish item ends, and its chunk's next stages run (R296). -/
def millDone (t : Th) (s : State) : MRes :=
  match s.curItem t 0 with
  | none => .fault 5 s
  | some i =>
    match i.kind with
    | .finish .. =>
      let at_ := s.finishChunk i
      let s := endItem t 0 s
      match at_ with
      | none => .ok s
      | some (cid, pos, c) =>
        match (c.chunk pos).running with
        | none => .ok s
        | some j =>
          let s := handBack cid pos c j s
          let (s, loc) := runStages cid pos ((c.d.stagesOf 0).filter (fun k => decide (j < k))) s
          .ok (landTasks (localTasks loc ++ [.progress cid]) s)
    | _ => .fault 5 s
def execMillDone (t : Th) (s : State) : Out := .next (runMill t 0x81 (fun _ => {}) (fun _ s => millDone t s) s)

/-! ### Barrier and step (R306, R307) -/

/-- Every thread of the side has reached BAR: all go on. -/
def releaseBarrier (bid : Nat) (s : State) : State :=
  match s.bindOf bid with
  | none => s
  | some b =>
    let v := b.side
    if v.threads.all (fun e => tget false b.arrived e.1) then
      let s := s.modBind bid (fun b => { b with arrived := [] })
      forEach ((v.threads.filter (fun e => e.2.st == .barrier)).map (·.1)) (wake bid) s
    else s
def barrier (t : Th) (s : State) : State :=
  let bid := thBid t
  let s := noteStep t (modThread t (fun h => { h with st := .barrier }) s)
  releaseBarrier bid (s.modBind bid (fun b => { b with arrived := tset false b.arrived (thKey t) true }))
def execMillBar (t : Th) (s : State) : Out := .next (runMill t 0x90 (fun _ => {}) (fun _ s => .ok (barrier t s)) s)
def execMillStep (t : Th) (s : State) : Out := .next (runMill t 0x91 (fun _ => {}) (fun _ s => .ok (noteStep t s)) s)

end Sys2Proof.Machine
end

