-- ==== Sys2Proof/Machine/MillTile.lean ====
section
/-! DEFINITION. Mill instructions on tiles: load, store, zero, matmul, element-wise, reduce, quantise and dequantise (R260, R261, R269 to R276, R283, R286). -/
namespace Sys2Proof.Machine
open Sys2Proof

/-! ### Tile loads (R286 TLD) -/

/-- Stored rows become columns, for a format without blocks. -/
def transposeBits (w : Nat) (b : List Byte) : List Byte :=
  let str := leNat b
  packBits w ((List.range 1024).map (fun k => packedAt str w (32 * (k % 32) + k / 32)))
/-- Bytes of a full tile's encoding; of CB4 by its control word. -/
def tileEnc (fmt cbw : Nat) : Nat := encSize fmt 1024 (bitAt cbw 31)
/-- The tile that an encoding spells, with its exceptions; none where a CB4 encoding is invalid (R271). A named codebook is copied into the side area; one never written gives zeros (R272). -/
def tileFrom (s : State) (fmt : Nat) (tr : Bool) (b : List Byte) : Option (Tile × Exc) :=
  if fmt == 0x0C then
    let cbw := u32At b 0
    let named := bitAt cbw 31
    let base := fld cbw 0 12
    if fld cbw 12 18 != 0 || (!named && (bitAt cbw 30 || base != 0)) then none
    else
      let part := fun j =>
        if named then
          match s.cbLook ((if bitAt cbw 30 then base + j else base) % 4096) with
          | some v => (v.flatMap (fun h => toLE 2 h.toNat), slice b (4 + 128 * j) 128, 0)
          | none => (zeros 32, slice b (4 + 128 * j) 128, 1)
        else (slice b (4 + 160 * j) 32, slice b (36 + 160 * j) 128, 0)
      let ps := (List.range 4).map part
      some (mkTile fmt tr (ps.flatMap (fun x => x.2.1)) (ps.flatMap (·.1)), ⟨0, 0, 0, 0, sumOf (ps.map (fun x => x.2.2))⟩)
  else
    let n := sideBytes fmt
    let data := slice b n (tileBytes fmt)
    some (mkTile fmt tr (if tr && !isMX fmt then transposeBits (elemBits fmt) data else data) (slice b 0 n), Exc.none)
/-- Puts a loaded tile in its register, or faults on an invalid encoding. -/
def loaded (t : Th) (i : Ins) (tr : Bool) (b : List Byte) (s : State) : MRes :=
  match tileFrom s i.fmt tr b with
  | none => .fault 2 s
  | some (x, e) => .ok (countSkid t b.length (exc t e (setTile t i.d x s)))
/-- The chunk whose line a handle names, where it is the current item's: none faults (R287 ITEM); a chunk that is gone reads zeros. -/
def State.lineOf (s : State) (t : Th) (handle start : Nat) : Option (YItem × Option (Nat × Nat × Ctx)) :=
  match s.curItem t 0 with
  | some it =>
    (match it.kind with
    | .finish .. => if handle == u32At it.bytes 20 && start < u16At it.bytes 16 then some (it, s.finishChunk it) else none
    | _ => none)
  | none => none
/-- Accumulator elements of a line from an element on, as tile values. -/
def lineVals (c : Option (Nat × Nat × Ctx)) (start : Nat) : List FV :=
  let l := match c with
    | some (_, pos, x) => ((x.accOf pos).drop start).take 1024 |>.map (accDecode x.d.afmt)
    | none => []
  l ++ List.replicate (1024 - l.length) FV.zero
def transposeVals (v : List FV) : List FV := (List.range 1024).map (fun k => v.getD (32 * (k % 32) + k / 32) FV.zero)
/-- The yard read of a TLD: a whole encoding's bytes, or what is left of the item. -/
def tldYard (t : Th) (i : Ins) (tr : Bool) (s : State) : MRes :=
  let y := fld i.imm 0 3
  let ahead := match s.curItem t y with
    | some it => if it.rd < it.bytes.length then some it else none
    | none => none
  let cbw := match ahead with
    | some it => u32At it.bytes it.rd
    | none => match ((s.side (thBid t)).bind (fun v => (v.yard y).find? (fun i => i.complete && i.claimed.isNone))) with
      | some it => u32At it.bytes 0
      | none => 0
  match readYard t y (tileEnc i.fmt cbw) s with
  | (s, .wait) => .again (yardWait t (.yardItem y) s)
  | (s, .fetch) => .again (startFetch t y (tileEnc i.fmt cbw) s)
  | (s, .flushed) => loaded t i tr [] s
  | (s, .got b _) => loaded t i tr b s
def tld (t : Th) (i : Ins) (s : State) : MRes :=
  let src := fld i.mod 0 3
  let tr := bitAt i.mod 3
  let off := s.xr t i.s1
  guarded [(decide (4 ≤ src), 1), (src != 3 && decide (32 ≤ i.s1), 3), (src == 2 && decide (32 ≤ i.s2), 3), (s.badTile t i.d, 3),
      (src == 3 && decide (imgWyards (s.imageOf t) < fld i.imm 0 3), 6), (decide (0x0E < i.fmt), 2), (src == 2 && i.fmt == 0x0C, 2)] s
    (match src with
      | 0 =>
        let n := tileEnc i.fmt (leNat (s.rdScratch t off 4))
        guarded [(s.offScratch t off n, 3)] s (loaded t i tr (s.rdScratch t off n) s)
      | 1 =>
        let a := s.mil.pwinBase.toNat + off
        let n := tileEnc i.fmt (leNat (rdMem s a 4))
        guarded [(s.offPwin off n, 3)] s
          (match loaded t i tr (rdMem s a n) s with
            | .ok s => .ok (switchOut t .access s)
            | r => r)
      | 2 =>
        let start := s.xr t i.s2
        (match s.lineOf t (off % 2 ^ 32) start with
          | none => .fault 5 s
          | some (_, c) =>
            let v := lineVals c start
            let (x, e) := tileOf i.fmt tr (fun _ => .rne) (if tr && !isMX i.fmt then transposeVals v else v)
            .ok (countSkid t (encSize i.fmt 1024 false) (exc t e (setTile t i.d x s))))
      | _ => tldYard t i tr s)
def execMillTld (t : Th) (s : State) : Out :=
  .next (runMill t 0x20 (fun i =>
    let src := fld i.mod 0 3
    { d := true, s1 := src != 3, s2 := src == 2, fmt := true, mod := 0x0F, imm := if src == 3 then 0x7 else 0 }) (tld t) s)

/-! ### Tile stores (R286 TST, R296) -/

/-- A tile converted to a format; CB4 only from CB4. -/
def convert (fmt : Nat) (rm : Nat → RMode) (x : Tile) : Option (Tile × Exc) :=
  if fmt == x.fmt.toNat then some (x, Exc.none)
  else if fmt == 0x0C then none
  else
    let (y, e) := tileOf fmt x.transposed rm x.vals
    some (y, e.plus x.exc)
/-- Elements laid into a packed string of w-bit elements. -/
def layBits (w start : Nat) (els : List Nat) (b : List Byte) : List Byte :=
  toLE b.length ((els.zipIdx).foldl (fun n e => setFld n (w * (start + e.2)) w e.1) (leNat b))
/-- The line in OUTFMT with a tile's elements laid in from an element on; elements beyond N are left out. -/
def layLine (f n start : Nat) (x : Tile) (old : List Byte) : List Byte :=
  let k := min 1024 (n - start)
  if f == 0x0C then
    let j0 := start / 256
    (List.range (divUp k 256)).foldl (fun b j => overlay b (4 + 160 * (j0 + j)) (x.sides (32 * j) 32 ++ x.bytes (128 * j) 128)) old
  else if isMX f then
    let nb := alignUp n 32 / 32
    let j0 := start / 32
    let m := min 32 (nb - j0)
    let w := elemBits f
    let els := (List.range (32 * m)).map (packedAt (leNat (x.bytes 0 (tileBytes f))) w)
    (old.take nb |> fun sc => overlay sc j0 (x.sides 0 m)) ++ layBits w (32 * j0) els (old.drop nb)
  else
    let w := elemBits f
    layBits w start ((List.range k).map (packedAt (leNat (x.bytes 0 (tileBytes f))) w)) old
/-- TST to the chunk's line: elements in OUTFMT, or accumulator elements where OUTFMT is 0xFF; with RM = 2, SEED, P and I are the chunk's (R296). Writes to a chunk that is gone are discarded. -/
def tstLine (t : Th) (i : Ins) (x : Tile) (s : State) : MRes :=
  let start := s.xr t i.s3
  match s.lineOf t (s.xr t i.s2 % 2 ^ 32) start with
  | none => .fault 5 s
  | some (_, none) => .ok s
  | some (it, some (cid, pos, c)) =>
    let f := u8At it.bytes 19
    let n := c.d.elemsOf pos
    let ch := c.chunk pos
    let rm := fun k => modeOf (fld i.mod 4 2) (u32At it.bytes 24) (u16At it.bytes 12) (start + k)
    if f == 0xFF then
      let v := (x.vals.take (n - start)).mapIdx (fun k e => accConvert c.d.afmt (rm k) e)
      let acc := c.accOf pos
      let acc := acc.take start ++ v.map (·.1) ++ acc.drop (start + v.length)
      .ok (countSkid t (accBytes c.d.afmt * v.length) (exc t ((excSum (v.map (·.2))).plus x.exc) (modChunk cid pos (fun ch => { ch with acc := acc }) s)))
    else
      match convert f rm x with
      | none => .fault 2 s
      | some (y, e) =>
        let size := encBytes f n false
        let old := match ch.outBytes with | some (_, b) => b.map (BitVec.ofNat 8) | none => zeros size
        let b := layLine f n start y (fit size old)
        .ok (countSkid t (encSize f (min 1024 (n - start)) false) (exc t e
          (modChunk cid pos (fun ch => { ch with outBytes := some (BitVec.ofNat 8 f, b.map (·.toNat)) }) s)))
def tst (t : Th) (i : Ins) (s : State) : MRes :=
  let dst := fld i.mod 0 3
  let off := s.xr t i.s2
  let x := s.tile t i.s1
  guarded [(decide (3 ≤ dst) || fld i.mod 4 2 == 3, 1), (decide (32 ≤ i.s2) || decide (32 ≤ i.s3) || s.badTile t i.s1, 3),
      (decide (0x0E < i.fmt), 2)] s
    (if dst == 2 then tstLine t i x s
     else
      match convert i.fmt (s.rmOf t i) x with
      | none => .fault 2 s
      | some (y, e) =>
        let b := tilesArray i.fmt [y]
        if dst == 0 then guarded [(s.offScratch t off b.length, 3)] s (.ok (countSkid t b.length (exc t e (wrScratch t off b s))))
        else guarded [(s.offPwin off b.length, 3)] s
          (.ok (switchOut t .access (countSkid t b.length (exc t e (wrMem s (s.mil.pwinBase.toNat + off) b))))))
def execMillTst (t : Th) (s : State) : Out :=
  .next (runMill t 0x21 (fun i => { s1 := true, s2 := true, s3 := fld i.mod 0 3 == 2 || fld i.mod 4 2 == 2, fmt := true, mod := 0x37 }) (tst t) s)

/-! ### TZERO -/

def zeroTile (fmt : Nat) : Tile := mkTile fmt false [] (if isMX fmt then List.replicate 32 127 else [])
def tzero (t : Th) (i : Ins) (s : State) : MRes :=
  guarded [(s.badTile t i.d, 3), (decide (0x0E < i.fmt), 2)] s (.ok (countVec t (setTile t i.d (zeroTile i.fmt) s)))
def execMillTzero (t : Th) (s : State) : Out := .next (runMill t 0x22 (fun _ => { d := true, fmt := true }) (tzero t) s)

/-! ### TMMA (R260, R261, R274) -/

/-- MACs per cell per token in halves (FP32 is 1): the rate groups of R261; none for a format that is no matmul operand. -/
def rate2 (fmt : Nat) : Option Nat :=
  match fmt with
  | 0x08 => some 16 | 0x0B => some 16 | 0x0C => some 16
  | 0x04 => some 8 | 0x05 => some 8 | 0x06 => some 8 | 0x07 => some 8 | 0x09 => some 8 | 0x0A => some 8
  | 0x02 => some 4 | 0x03 => some 4 | 0x01 => some 1 | _ => none
def isIntOperand (fmt : Nat) : Bool := fmt == 0x09 || fmt == 0x0B
/-- The rate of a pair, in halves; none where the pair is of mixed classes or a format is not supported. -/
def pairRate (a b : Nat) : Option Nat :=
  match rate2 a, rate2 b with
  | some x, some y => if isIntOperand a == isIntOperand b then some (min x y) else none
  | _, _ => none
/-- Tokens of a 32 x 32 x 32 operation (R260). -/
def pairTokens (r2 : Nat) : Nat := 64 / r2
/-- Rounds to FP32 to nearest even, with INVALID where a NaN arose. -/
def toFP32 (v : FV) (ops : List FV) : FV × Exc :=
  (ffRne fmtFP32 v, excInv (madeNan v ops))
/-- An operand in FP32, to nearest even, with OVERFLOW where it lies beyond the range (R275). -/
def operand32 (v : FV) : FV × Exc :=
  let (p, o) := ffEncode fmtFP32 .rne v
  (ffDecode fmtFP32 p, excOvf o)
/-- Products added to an accumulator in groups of m, each group with one rounding (R274). -/
def accGroups (m : Nat) : Nat → List (FV × FV) → FV → FV × Exc
  | 0, _, c => (c, Exc.none)
  | _, [], c => (c, Exc.none)
  | fuel + 1, l, c =>
    let g := l.take m
    let sum := g.foldl (fun a p => a.add (p.1.mul p.2)) c
    let (r, e) := accGroups m fuel (l.drop m) (ffRne fmtFP32 sum)
    (r, e.plus ⟨nansMade c g, 0, 0, 0, 0⟩)
/-- One output element of a float pair over K = 32. -/
def dotFloat (mx : Bool) (r2 : Nat) (a b : List FV) (c : FV) : FV × Exc :=
  let l := List.zip a b
  if mx then
    let sum := l.foldl (fun x p => x.add (p.1.mul p.2)) FV.zero
    let tot := c.add sum
    let (p, o) := ffEncode fmtFP32 .rne tot
    (ffDecode fmtFP32 p, ⟨nansMade c l, b2n (o && tot.isFin), 0, 0, 0⟩)
  else accGroups (max 1 (r2 / 2)) 33 l c
/-- Products added to an integer accumulator, m in each token, wrapping modulo 2^32 (R260, R274). -/
def wrapGroups (m : Nat) : Nat → List (Int × Int) → Int → Int × Nat
  | 0, _, c => (c, 0)
  | _, [], c => (c, 0)
  | fuel + 1, l, c =>
    let sum := (l.take m).foldl (fun x p => x + p.1 * p.2) c
    let w := signed 32 (unsigned 32 sum)
    let (r, n) := wrapGroups m fuel (l.drop m) w
    (r, n + b2n (w != sum))
/-- One output element of an integer pair over K = 32. -/
def dotInt (r2 : Nat) (a b : List Int) (c : Int) : Int × Exc :=
  let (v, n) := wrapGroups (max 1 (r2 / 2)) 33 (List.zip a b) c
  (v, ⟨0, 0, n, 0, 0⟩)
def FV.toInt : FV → Int
  | .fin n m e => let q : Int := (m * 2 ^ e.toNat : Nat); if n then -q else q
  | _ => 0
def rows32 {α : Type} (l : List α) : List (List α) := (List.range 32).map (fun i => (l.drop (32 * i)).take 32)
/-- One register pair added to the 1,024 elements of C: element i, j from row i of A and stored row j of B. -/
def mmaFloat (a b : Tile) (r2 : Nat) (c : List FV) : List (FV × Exc) :=
  let ra := rows32 a.vals
  let rb := rows32 b.vals
  let mx := isMX a.fmt.toNat || isMX b.fmt.toNat
  c.zipIdx.map (fun e => dotFloat mx r2 (ra.getD (e.2 / 32) []) (rb.getD (e.2 % 32) []) e.1)
def mmaInt (a b : Tile) (r2 : Nat) (c : List Int) : List (Int × Exc) :=
  let ra := rows32 (a.vals.map FV.toInt)
  let rb := rows32 (b.vals.map FV.toInt)
  c.zipIdx.map (fun e => dotInt r2 (ra.getD (e.2 / 32) []) (rb.getD (e.2 % 32) []) e.1)
/-- The pairs of an operation, in order. -/
def mmaAll (int : Bool) : List (Tile × Tile × Nat) → List FV → List FV × Exc
  | [], c => (c, Exc.none)
  | (a, b, r2) :: rest, c =>
    let (c', e) := if int then
        let r := mmaInt a b r2 (c.map FV.toInt)
        (r.map (fun x => FV.ofInt x.1), excSum (r.map (·.2)))
      else
        let r := mmaFloat a b r2 c
        (r.map (·.1), excSum (r.map (·.2)))
    let (c'', e') := mmaAll int rest c'
    (c'', e.plus (e'.plus (a.exc.plus b.exc)))
/-- What the thread computes is discarded: its item has been flushed or dropped, or is a chunk whose context no longer runs this FINISH (R296, R431). -/
def State.discards (s : State) (t : Th) : Bool :=
  (List.range 8).any (fun y => match s.curItem t y with
    | some i => i.gone || (match i.kind with | .finish .. => (s.finishChunk i).isNone | _ => false)
    | none => false)
/-- A TMMA runs on the engine that the share table names; where no engine of the core is in service its thread waits. -/
def tmma (t : Th) (i : Ins) (s : State) : MRes :=
  let n := fld i.imm 0 4 + 1
  let z := bitAt i.mod 0
  let bad := fun r => decide (64 < r + n) || (rangeFrom r n).any (s.badTile t)
  let pairs := (List.range n).map (fun k => (s.tile t (i.s1 + k), s.tile t (i.s2 + k)))
  let rates := pairs.map (fun p => pairRate p.1.fmt.toNat p.2.fmt.toNat)
  let int := isIntOperand ((pairs.head?.map (fun p => p.1.fmt.toNat)).getD 0)
  let cls := pairs.all (fun p => isIntOperand p.1.fmt.toNat == int)
  let c := s.tile t i.d
  guarded [(decide (32 ≤ i.s3) || s.badTile t i.d || bad i.s1 || bad i.s2, 3),
      (rates.any Option.isNone || !cls || i.fmt != (if int then 0x0E else 0x01), 2), (!z && c.fmt.toNat != i.fmt, 2)] s
    (let start := if z then List.replicate 1024 FV.zero else c.vals
     let (v, e) := mmaAll int ((List.zip pairs rates).map (fun p => (p.1.1, p.1.2, p.2.getD 1))) start
     let (x, e') := tileOf i.fmt false (fun _ => .rne) v
     -- every pair is one operation of 32 x 32 x 32, whatever its formats (R306)
     let tokens := sumOf (rates.map (fun r => pairTokens (r.getD 1)))
     let g := s.gcore t
     match s.engineFor g (s.xr t i.s3 % 64) with
     | none => .again s
     | some k =>
       let s := opSlots g k tokens (s.discards t) (s.modCore g (fun c => { c with ops := tmod 0 c.ops k (· + n) }))
       .ok (exc t (e.plus ⟨e'.inv, 0, 0, 0, 0⟩) (setTile t i.d x s)))
def execMillTmma (t : Th) (s : State) : Out :=
  .next (runMill t 0x30 (fun _ => { d := true, s1 := true, s2 := true, s3 := true, fmt := true, mod := 0x01, imm := 0x000F }) (tmma t) s)

/-! ### Element-wise instructions -/

/-- Results in FP32, converted to FMT under RM, go to T[D]. -/
def putVals (t : Th) (i : Ins) (tr : Bool) (v : List FV) (e : Exc) (s : State) : MRes :=
  let (x, e') := tileOf i.fmt tr (s.rmOf t i) v
  .ok (countVec t (exc t (e.plus e') (setTile t i.d x s)))
/-- Checks that the instructions with FMT under RM share: RM reserved, registers, and a format that they can write. -/
def elemGuards (t : Th) (i : Ins) (tiles : List Nat) (s : State) : List (Bool × Nat) :=
  let rm := fld i.mod 4 2
  [(rm == 3, 1), ((i.d :: tiles).any (s.badTile t) || (rm == 2 && (decide (32 ≤ i.s2) || decide (32 ≤ i.s3))), 3),
    (decide (0x0E < i.fmt) || i.fmt == 0x0C, 2)]
/-- An operation in FP32 on two values: operands first converted to FP32. -/
def fp32Op (f : FV → FV → FV) (a b : FV) : FV × Exc :=
  let (a, e) := operand32 a
  let (b, e') := operand32 b
  let (r, x) := toFP32 (f a b) [a, b]
  (r, x.plus (e.plus e'))
def zipOp (f : FV → FV → FV) (a b : List FV) : List FV × Exc :=
  let r := List.zipWith (fp32Op f) a b
  (r.map (·.1), excSum (r.map (·.2)))
/-- TADD and TMUL. -/
def elemTwo (f : FV → FV → FV) (t : Th) (i : Ins) (s : State) : MRes :=
  guarded (elemGuards t i [i.s1, i.s2] s) s
    (let a := s.tile t i.s1
     let b := s.tile t i.s2
     let (v, e) := zipOp f a.vals b.vals
     putVals t i a.transposed v (e.plus (a.exc.plus b.exc)) s)
/-- The fields of an instruction that converts under RM: S3, and S2 where it has no other use, serve RM = 2. -/
def rmFields (s2 : Bool) (mod : Nat) (i : Ins) : Used :=
  let sr := fld i.mod 4 2 == 2
  { d := true, s1 := true, s2 := s2 || sr, s3 := sr, fmt := true, mod := mod }
def execMillTadd (t : Th) (s : State) : Out := .next (runMill t 0x40 (rmFields true 0x30) (elemTwo FV.add t) s)
def execMillTmul (t : Th) (s : State) : Out := .next (runMill t 0x41 (rmFields true 0x30) (elemTwo FV.mul t) s)
/-- TSCALE: by the FP32 value of X[S2], or column by column by row 0 of T[S2]. -/
def tscale (t : Th) (i : Ins) (s : State) : MRes :=
  let byTile := bitAt i.mod 0
  guarded ((!byTile && decide (32 ≤ i.s2), 3) :: elemGuards t i (if byTile then [i.s1, i.s2] else [i.s1]) s) s
    (let a := s.tile t i.s1
     let b := s.tile t i.s2
     let k := ffDecode fmtFP32 (s.xr t i.s2 % 2 ^ 32)
     let row := b.vals.take 32
     let ks := (List.range 1024).map (fun j => if byTile then row.getD (j % 32) FV.zero else k)
     let (v, e) := zipOp FV.mul a.vals ks
     putVals t i a.transposed v (e.plus (a.exc.plus (if byTile then b.exc else Exc.none))) s)
def execMillTscale (t : Th) (s : State) : Out := .next (runMill t 0x42 (rmFields true 0x31) (tscale t) s)

/-- n / d as an exact value, or one with enough bits and a sticky bit for one rounding. -/
def ratio (neg : Bool) (n d : Nat) : FV :=
  if n == 0 then .fin neg 0 0
  else
    let k := 192 + d.log2 - n.log2
    let q := n * 2 ^ k / d
    .fin neg (2 * q + b2n (n * 2 ^ k % d != 0)) (-(k : Int) - 1)
/-- f(x) of a lookup table: the linear interpolation of R286, which at x = HI is y_256; where the spec states no value (HI at or below LO, a bound or an entry that is no finite number), a free one. -/
def lutValue (lo hi : FV) (loB hiB : Nat) (y : Nat → FV) (x : FV) : FV :=
  let corner := fun (_ : Unit) => ffDecode fmtFP32 (Config.lutCorner (BitVec.ofNat 32 (ffEncode fmtFP32 .rne x).1) (BitVec.ofNat 32 loB) (BitVec.ofNat 32 hiB)).toNat
  if x.isNan then .nan
  else
    match lo, hi with
    | .fin n1 m1 e1, .fin n2 m2 e2 =>
      let (a, b, e) := commonInt n1 m1 e1 n2 m2 e2
      if b ≤ a then corner ()
      else
        match x with
        | .nan => .nan
        | .inf n => if n then y 0 else y 256
        | .fin nx mx ex =>
          -- all at one exponent
          let u := min e ex
          let sh := fun (v : Int) (w : Int) => v * (2 ^ (w - u).toNat : Nat)
          let A := sh a e
          let B := sh b e
          let xi : Int := (mx : Int)
          let X := sh (if nx then -xi else xi) ex
          if X < A then y 0
          else if B < X then y 256
          else if X == B then y 256
          else
            let num := (256 * (X - A)).toNat
            let den := (B - A).toNat
            let k := num / den
            match y k, y (k + 1) with
            | .fin p1 q1 g1, .fin p2 q2 g2 =>
              let (c1, c2, g) := commonInt p1 q1 g1 p2 q2 g2
              let tot := c1 * (den : Int) + (c2 - c1) * ((num % den : Nat) : Int)
              (ratio (decide (tot < 0)) tot.natAbs den).scale g
            | _, _ => corner ()
    | _, _ => corner ()
def tlut (t : Th) (i : Ins) (s : State) : MRes :=
  let off := s.xr t i.s2
  guarded ((decide (32 ≤ i.s2), 3) :: elemGuards t i [i.s1] s ++ [(s.offScratch t off 1036, 3)]) s
    (let b := s.rdScratch t off 1036
     let fp := fun k => ffDecode fmtFP32 (u32At b (4 * k))
     let a := s.tile t i.s1
     let xs := a.vals.map operand32
     let v := xs.map (fun x => lutValue (fp 0) (fp 1) (u32At b 0) (u32At b 4) (fun k => fp (2 + k)) x.1)
     putVals t i a.transposed v ((excSum (xs.map (·.2))).plus a.exc) s)
def execMillTlut (t : Th) (s : State) : Out := .next (runMill t 0x43 (rmFields true 0x30) (tlut t) s)
def tcvt (t : Th) (i : Ins) (s : State) : MRes :=
  guarded (elemGuards t i [i.s1] s) s
    (let a := s.tile t i.s1
     putVals t i a.transposed a.vals a.exc s)
def execMillTcvt (t : Th) (s : State) : Out := .next (runMill t 0x44 (rmFields false 0x30) (tcvt t) s)

/-! ### TRED -/

/-- A row or column reduced: a sum with one FP32 rounding per step, maximumNumber or minimumNumber. -/
def reduceList (op : Nat) (l : List FV) : FV × Exc :=
  match l with
  | [] => (FV.zero, Exc.none)
  | a :: r =>
    r.foldl (fun (acc : FV × Exc) x =>
      match op with
      | 0 => let (v, e) := fp32Op FV.add acc.1 x; (v, acc.2.plus e)
      | 1 => (acc.1.maxNum x, acc.2)
      | _ => (acc.1.minNum x, acc.2)) (if op == 0 then operand32 a else (a, Exc.none))
/-- The tile with row 0 in a format and the other rows' bytes as they were. -/
def rowZero (fmt : Nat) (v : List FV) (old : Tile) : Tile × Exc :=
  let (b, e) := encodeArr fmt (fun _ => .rne) v
  let n := if isMX fmt then 1 else 0
  (⟨BitVec.ofNat 8 fmt, old.transposed, tsetL 0 old.data 0 (b.drop n), tsetL 0 old.side 0 (b.take n)⟩, e)
def tred (t : Th) (i : Ins) (s : State) : MRes :=
  let op := fld i.mod 0 2
  guarded [(op == 3, 1), (s.badTile t i.d || s.badTile t i.s1, 3), (decide (0x0E < i.fmt) || i.fmt == 0x0C, 2)] s
    (let a := s.tile t i.s1
     let vals := a.vals
     let lists := if bitAt i.mod 2 then (List.range 32).map (fun j => (List.range 32).map (fun r => vals.getD (32 * r + j) FV.zero)) else rows32 vals
     let rs := lists.map (reduceList op)
     let (x, e) := rowZero i.fmt (rs.map (·.1)) (s.tile t i.d)
     .ok (countVec t (exc t (e.plus ((excSum (rs.map (·.2))).plus a.exc)) (setTile t i.d x s))))
def execMillTred (t : Th) (s : State) : Out := .next (runMill t 0x50 (fun _ => { d := true, s1 := true, fmt := true, mod := 0x07 }) (tred t) s)

/-! ### TQ and TDQ -/

/-- CB4: each value to its block's nearest codebook entry (R272). -/
def quantTileCb (tr : Bool) (books : List (List Half)) (v : List FV) : Tile × Exc :=
  let r := v.zipIdx.map (fun e => quantCb (books.getD (e.2 / 256) []) e.1)
  (mkTile 0x0C tr (packBits 4 (r.map (·.1))) (books.flatMap (fun b => b.flatMap (fun h => toLE 2 h.toNat))), excSum (r.map (·.2)))
def tqCb (t : Th) (i : Ins) (s : State) : MRes :=
  let named := bitAt i.mod 6
  let a := s.tile t i.s1
  let b := s.tile t i.s2
  guarded [(fld i.mod 4 2 == 3 || (!named && bitAt i.mod 7), 1), (s.badTile t i.d || s.badTile t i.s1 || (!named && s.badTile t i.s2), 3),
      (!named && b.fmt != 2, 2)] s
    (let look := fun j => s.cbLook ((if bitAt i.mod 7 then fld i.imm 0 12 + j else fld i.imm 0 12) % 4096)
     let book := fun j =>
       if named then (look j).getD (List.replicate 16 0)
       else (List.range 16).map (fun k => BitVec.ofNat 16 (u16At (b.bytes (64 * j) 32) (2 * k)))
     let unset := if named then ((List.range 4).filter (fun j => (look j).isNone)).length else 0
     let (x, e) := quantTileCb a.transposed ((List.range 4).map book) a.vals
     .ok (countVec t (exc t (e.plus ((Exc.mk 0 0 0 0 unset).plus a.exc)) (setTile t i.d x s))))
/-- TQ: block scales of an MX format by R270, codebooks of CB4 by R272; the other formats are conversions by R275 (R261). -/
def tq (t : Th) (i : Ins) (s : State) : MRes :=
  if i.fmt == 0x0C then tqCb t i s
  else guarded (elemGuards t i [i.s1] s) s
    (let a := s.tile t i.s1
     putVals t i a.transposed a.vals a.exc s)
def execMillTq (t : Th) (s : State) : Out :=
  .next (runMill t 0x60 (fun i =>
    if i.fmt == 0x0C then
      { d := true, s1 := true, s2 := !bitAt i.mod 6, fmt := true, mod := 0xF0, imm := if bitAt i.mod 6 then 0x0FFF else 0 }
    else rmFields false 0x30 i) (tq t) s)
def tdq (t : Th) (i : Ins) (s : State) : MRes :=
  guarded ((!(i.fmt == 1 || i.fmt == 2), 2) :: elemGuards t i [i.s1] s) s
    (let a := s.tile t i.s1
     putVals t i a.transposed a.vals a.exc s)
def execMillTdq (t : Th) (s : State) : Out := .next (runMill t 0x61 (rmFields false 0x30) (tdq t) s)

end Sys2Proof.Machine
end

