-- ==== Sys2Proof/Machine/MillYard.lean ====
section
/-! DEFINITION. Mill instructions that send packets and that read and write yards (R289 to R291, R298 to R300). -/
namespace Sys2Proof.Machine
open Sys2Proof

/-! ### Yards -/

/-- The yard that IMM[2:0] names is not declared (R287). -/
def badYard (t : Th) (y : Nat) (s : State) : Bool := decide (imgWyards (s.imageOf t) < y)
/-- The item that the thread is writing in a yard. -/
def Side.writing (v : Side) (y key : Nat) : Option YItem := (v.yard y).find? (fun i => !i.complete && i.claimed == some key)
/-- One word goes into the item the thread writes; MOD[4] ends the item, which then stands behind those completed before it. -/
def yput (t : Th) (i : Ins) (s : State) : MRes :=
  let y := fld i.imm 0 3
  let n := fld i.mod 0 4
  guarded [(decide (8 < n), 1), (decide (32 ≤ i.s1), 3), (badYard t y s, 6)] s
    (match s.bindOf (thBid t) with
      | none => .ok s
      | some b =>
        let v := b.side
        if s.yardCap v.place y < yardUsed (v.yard y) + 8 then .again (yardWait t (.yardRoom y) s)
        else
          let valid := if n == 0 then 8 else n
          let last := bitAt i.mod 4
          let word := (toLE 8 (s.xr t i.s1)).take valid
          let word := if last then word else fit 8 word
          let (it, b) := match v.writing y (thKey t) with
            | some it => (it, b)
            | none => (⟨b.nextItem, .plain, [], false, some (thKey t), 0, false, false, false, []⟩, { b with nextItem := b.nextItem + 1 })
          let it := { it with bytes := it.bytes ++ word, complete := last, claimed := if last then none else it.claimed, loc := it.loc ++ [.regs] }
          let v := b.side
          let l := spill (s.yardFree v.place.district) ((v.yard y).filter (fun j => j.id != it.id) ++ [it])
          .ok (countSkid t 8 (s.setBind (thBid t) (some (b.putSide { v with yards := tset [] v.yards y l })))))
def execMillYput (t : Th) (s : State) : Out :=
  .next (runMill t 0xA0 (fun _ => { s1 := true, mod := 0x1F, imm := 0x7 }) (yput t) s)
/-- The words of the bytes read, the last padded with zeros. -/
def wordsRead (b : List Byte) : List Nat := (chopAll 8 b).map leNat
def putWords (t : Th) (d : Nat) (l : List Nat) (s : State) : State := forEach l.zipIdx (fun e s => setX t (d + e.2) e.1 s) s
/-- The next words of the current item, with END or FLUSHED; the thread waits at an empty yard. -/
def yget (t : Th) (i : Ins) (s : State) : MRes :=
  let y := fld i.imm 0 3
  let n := fld i.mod 0 4
  guarded [(n == 0 || 8 < n, 1), (decide (32 < i.d + n) || decide (32 ≤ i.s1), 3), (badYard t y s, 6)] s
    (match readYard t y (8 * n) s with
      | (s, .wait) => .again (yardWait t (.yardItem y) s)
      | (s, .fetch) => .again (startFetch t y (8 * n) s)
      | (s, .flushed) => .ok (setX t i.s1 (2 ^ 16 + 2 ^ 17) s)
      | (s, .got b e) => .ok (countSkid t b.length (setX t i.s1 (b.length + b2n e * 2 ^ 16) (putWords t i.d (wordsRead b) s))))
def execMillYget (t : Th) (s : State) : Out :=
  .next (runMill t 0xA1 (fun _ => { d := true, s1 := true, mod := 0x0F, imm := 0x7 }) (yget t) s)
/-- The rest of the current item is dropped; a flushed one ends. -/
def ynext (t : Th) (i : Ins) (s : State) : MRes :=
  let y := fld i.imm 0 3
  guarded [(badYard t y s, 6)] s
    (match s.curItem t y with
      | none => .ok s
      | some it =>
        if it.gone then .ok (endItem t y s)
        else .ok (modItem (thBid t) y it.id (fun j => { j with rd := j.bytes.length }) s))
def execMillYnext (t : Th) (s : State) : Out := .next (runMill t 0xA2 (fun _ => { imm := 0x7 }) (ynext t) s)
/-- The input yard of a finish binding is not flushed (R291). -/
def yflush (t : Th) (i : Ins) (s : State) : MRes :=
  let y := fld i.imm 0 3
  guarded [(badYard t y s, 6)] s
    (match s.side (thBid t) with
      | some v => if y == 0 && !v.place.kind then .ok s else .ok (flushYard (thBid t) y s)
      | none => .ok s)
def execMillYflush (t : Th) (s : State) : Out := .next (runMill t 0xA3 (fun _ => { imm := 0x7 }) (yflush t) s)

/-! ### SEND and SENDT -/

/-- The first `len` bytes of the tile registers from `r`, in a format; zeros beyond them. -/
def sendPayload (t : Th) (r n fmt len : Nat) (s : State) : List Byte :=
  fit len (tilesArray fmt ((rangeFrom r n).map (s.tile t)))
/-- A register of the run lies beyond T63 or TREGS. -/
def badTiles (t : Th) (r n : Nat) (s : State) : Bool := decide (64 < r + n) || (rangeFrom r n).any (s.badTile t)
/-- A packet of the binding's own has been handed to the switch core: where it waits there, the thread is switched out. -/
def awaitOutput (t : Th) (s : State) : State := if s.outputWaits (thId t) then switchOut t .output s else s
/-- The copies of a SEND to a group (R146): the header as sent, toward each VALID member's next hop. -/
def sendCopies (t : Th) (p : Pkt) (s : State) : State :=
  let d := s.dOf t
  let gi := p.h.ctx % 65536
  match readEnts p.h.epoch [(8, gi)] s with
  | (s, false) => discard 13 p none s
  | (s, true) =>
    let g := tget GroupEnt.zero s.fwd.group gi
    if !bitAt g.w0.toNat 31 then discard 7 p none s
    else
      forEach (rangeFrom (fld g.w0.toNat 0 22) (fld g.w1.toNat 0 12)) (fun i s =>
        match readMember p.h.epoch i s with
        | (s, .ecc) => discard 13 p none s
        | (s, .skip) => s
        | (s, .at_ _ cordoned hop) =>
          if cordoned || s.hopDraining d hop p.h then shortRepl gi p (chosenPort s d hop p.h) s
          else if !s.hopUp hop then discard 12 p hop.port? s
          else originateAny true 0 hop p s) s
/-- SEND: words 0 to 6 from X[S1] to X[S1 + 3]; SRC, JOB, EPOCH and HOPS are the MS9's (R299). -/
def send (t : Th) (i : Ins) (s : State) : MRes :=
  let n := fld i.imm 0 4 + 1
  guarded [(decide (28 < i.s1) || (!bitAt i.mod 0 && decide (32 ≤ i.s3)) || badTiles t i.s2 n s, 3), (decide (0x0E < i.fmt), 2)] s
    (let x := fun k => s.xr t (i.s1 + k)
     let w := fun k => BitVec.ofNat 32 (x (k / 2) / 2 ^ (32 * (k % 2)))
     let (job, s) := match s.itemJob t with
       | some j => (j.toNat, s)
       | none => let (v, s) := takeFree s; (fld v.toNat 0 20, s)
     let h : Hdr := { w0 := w 0, w1 := w 1, w2 := s.fwd.mgmtEid, w3 := putFld (w 3) 12 20 job, w4 := w 4, w5 := w 5, w6 := w 6, weight := 0 }
     let h := (h.setEpoch s.fwd.cur).setHops 0
     let p : Pkt := { h := h, payload := sendPayload t i.s2 n i.fmt h.len s, tin := s.now, inPort := 2048 + s.dOf t, c2 := false,
                      counted := false, thread := some (thId t) }
     let s := countSkid t h.len s
     if s.fwd.mgmtEid == 0 then .ok (discard 27 p none s)
     else if bitAt i.mod 0 then .ok (awaitOutput t (sendCopies t p s))
     else
       let port := s.xr t i.s3 % 2048
       if s.up port then .ok (awaitOutput t (originateAny true 0 (.port port) p s)) else .ok (discard 12 p (some port) s))
def execMillSend (t : Th) (s : State) : Out :=
  .next (runMill t 0x70 (fun i => { s1 := true, s2 := true, s3 := !bitAt i.mod 0, fmt := true, mod := 0x01, imm := 0x000F }) (send t) s)
/-- SENDT: the output of the thread's current flow item, released in claim order (R299, R300). A flushed item's output is dropped, an aged one's is windfall (R291, R298). -/
def sendt (t : Th) (i : Ins) (s : State) : MRes :=
  let n := fld i.imm 0 4 + 1
  let item := match s.curItem t 0 with
    | some it => (match it.kind with | .flow p hop => if it.sent then none else some (it, p, hop) | _ => none)
    | none => none
  guarded [(decide (32 ≤ i.s1) || badTiles t i.s2 n s, 3), (decide (0x0E < i.fmt), 2), (item.isNone, 5)] s
    (match item with
      | none => .ok s
      | some (it, p, hop) =>
        let bid := thBid t
        let len := s.xr t i.s1 % 65536
        let s := countSkid t len (modItem bid 0 it.id (fun j => { j with sent := true }) s)
        if it.flushed then .ok s
        else
          let h := p.h.setLen len
          let h := { h with w4 := putFld h.w4 0 8 i.fmt }
          let o : Pkt := { p with h := h, payload := sendPayload t i.s2 n i.fmt len s, thread := some (thId t), flow := some (s.dOf t) }
          if it.aged then .ok (windfall { o with counted := false, cred := false } (s.flowPort (o, hop)) true s) else
          let s := s.modBind bid (fun b => { b with outs := b.outs ++ [⟨it.id, some o, hop⟩] })
          .ok (awaitOutput t (releaseAllOuts bid s)))
def execMillSendt (t : Th) (s : State) : Out :=
  .next (runMill t 0x71 (fun _ => { s1 := true, s2 := true, fmt := true, imm := 0x000F }) (sendt t) s)

end Sys2Proof.Machine
end

