-- ==== Sys2Proof/Machine/Dispatch.lean ====
section
/-! DEFINITION. One arm per command: a direct call of its meaning. -/
namespace Sys2Proof.Machine
open Sys2Proof

def exec (i : Instr) (s : State) : Host.Outcome State Fault Refusal :=
  match i with
  | .trainingComplete => Sys2Proof.Machine.execTrainingComplete s
  | .quiesce p => Sys2Proof.Machine.execQuiesce p s
  | .quiesceDrainDone => Sys2Proof.Machine.execQuiesceDrainDone s
  | .resume p => Sys2Proof.Machine.execResume p s
  | .clrmin p => Sys2Proof.Machine.execClrmin p s
  | .tokrateUpdate dt rates => Sys2Proof.Machine.execTokrateUpdate dt rates s
  | .powerGood => Sys2Proof.Machine.execPowerGood s
  | .keyLoad p => Sys2Proof.Machine.execKeyLoad p s
  | .secverCommit p => Sys2Proof.Machine.execSecverCommit p s
  | .dbgChallenge p => Sys2Proof.Machine.execDbgChallenge p s
  | .dbgUnlock p => Sys2Proof.Machine.execDbgUnlock p s
  | .dbgLock p => Sys2Proof.Machine.execDbgLock p s
  | .challengeExpire dt => Sys2Proof.Machine.execChallengeExpire dt s
  | .meshEvent => Sys2Proof.Machine.execMeshEvent s
  | .supplyGlitch => Sys2Proof.Machine.execSupplyGlitch s
  | .bootPlatLoad => Sys2Proof.Machine.execBootPlatLoad s
  | .platLoad p src district => Sys2Proof.Machine.execPlatLoad p src district s
  | .platAbort p => Sys2Proof.Machine.execPlatAbort p s
  | .districtDrainDone d => Sys2Proof.Machine.execDistrictDrainDone d s
  | .replatApplyDone d => Sys2Proof.Machine.execReplatApplyDone d s
  | .districtTrained d => Sys2Proof.Machine.execDistrictTrained d s
  | .resetIn lowNs => Sys2Proof.Machine.execResetIn lowNs s
  | .sensorSample dt tj inlet outlet vin iin pin vcore => Sys2Proof.Machine.execSensorSample dt tj inlet outlet vin iin pin vcore s
  | .vinRise => Sys2Proof.Machine.execVinRise s
  | .vinLow => Sys2Proof.Machine.execVinLow s
  | .undervoltage => Sys2Proof.Machine.execUndervoltage s
  | .overvoltage => Sys2Proof.Machine.execOvervoltage s
  | .overcurrent => Sys2Proof.Machine.execOvercurrent s
  | .vinReturn => Sys2Proof.Machine.execVinReturn s
  | .coolOkFall => Sys2Proof.Machine.execCoolOkFall s
  | .coolOkRise => Sys2Proof.Machine.execCoolOkRise s
  | .powerGovWithdraw dt => Sys2Proof.Machine.execPowerGovWithdraw dt s
  | .powerGovReturn dt => Sys2Proof.Machine.execPowerGovReturn dt s
  | .clrmax p => Sys2Proof.Machine.execClrmax p s
  | .smbusBlockRead cmd isWrite => Sys2Proof.Machine.execSmbusBlockRead cmd isWrite s
  | .chalReq codes => Sys2Proof.Machine.execChalReq codes s
  | .unlock seq resp => Sys2Proof.Machine.execUnlock seq resp s
  | .regRead seq off count => Sys2Proof.Machine.execRegRead seq off count s
  | .memRead seq space addr len => Sys2Proof.Machine.execMemRead seq space addr len s
  | .memWrite seq space addr data => Sys2Proof.Machine.execMemWrite seq space addr data s
  | .halt seq action => Sys2Proof.Machine.execHalt seq action s
  | .fwChunk seq off data => Sys2Proof.Machine.execFwChunk seq off data s
  | .fwDone seq len flashOk => Sys2Proof.Machine.execFwDone seq len flashOk s
  | .lock codes => Sys2Proof.Machine.execLock codes s
  | .dbgEnChange asserted => Sys2Proof.Machine.execDbgEnChange asserted s
  | .packetIngress port bytes upsets => Sys2Proof.Machine.execPacketIngress port bytes upsets s
  | .ingressHoldRelease port tc => Sys2Proof.Machine.execIngressHoldRelease port tc s
  | .policerRelease dt port => Sys2Proof.Machine.execPolicerRelease dt port s
  | .producerEnqueue k => Sys2Proof.Machine.execProducerEnqueue k s
  | .replicationResume k => Sys2Proof.Machine.execReplicationResume k s
  | .transmitOpportunity dt port => Sys2Proof.Machine.execTransmitOpportunity dt port s
  | .windfallSweep dt d => Sys2Proof.Machine.execWindfallSweep dt d s
  | .sprayCounterRelease dt d => Sys2Proof.Machine.execSprayCounterRelease dt d s
  | .bucketReturn dt bundle k => Sys2Proof.Machine.execBucketReturn dt bundle k s
  | .reorderTimeout dt d => Sys2Proof.Machine.execReorderTimeout dt d s
  | .reorderRetire dt d => Sys2Proof.Machine.execReorderRetire dt d s
  | .sampleSweep dt => Sys2Proof.Machine.execSampleSweep dt s
  | .qmaxReset p port tc => Sys2Proof.Machine.execQmaxReset p port tc s
  | .frameSlot dt port => Sys2Proof.Machine.execFrameSlot dt port s
  | .linkFrameReceived port lane signal rx => Sys2Proof.Machine.execLinkFrameReceived port lane signal rx s
  | .replayTimeout dt port => Sys2Proof.Machine.execReplayTimeout dt port s
  | .ackProgressTimeout dt port => Sys2Proof.Machine.execAckProgressTimeout dt port s
  | .hello port lane rec => Sys2Proof.Machine.execHello port lane rec s
  | .config port rec => Sys2Proof.Machine.execConfig port rec s
  | .creditInit port rec => Sys2Proof.Machine.execCreditInit port rec s
  | .trainingStateTimeout dt port => Sys2Proof.Machine.execTrainingStateTimeout dt port s
  | .retrainInterval dt port => Sys2Proof.Machine.execRetrainInterval dt port s
  | .helloSend dt port => Sys2Proof.Machine.execHelloSend dt port s
  | .laneCtlOff port idx => Sys2Proof.Machine.execLaneCtlOff port idx s
  | .offAck port idx => Sys2Proof.Machine.execOffAck port idx s
  | .laneCtlOn port idx => Sys2Proof.Machine.execLaneCtlOn port idx s
  | .onAck port idx => Sys2Proof.Machine.execOnAck port idx s
  | .laneCtlRepeat dt port => Sys2Proof.Machine.execLaneCtlRepeat dt port s
  | .laneCtlTimeout dt port => Sys2Proof.Machine.execLaneCtlTimeout dt port s
  | .lnkDisable p port v => Sys2Proof.Machine.execLnkDisable p port v s
  | .lnkRetrain p port => Sys2Proof.Machine.execLnkRetrain p port s
  | .skewWindowExpiry dt port => Sys2Proof.Machine.execSkewWindowExpiry dt port s
  | .codewordReceived lane signal rx => Sys2Proof.Machine.execCodewordReceived lane signal rx s
  | .eqRequest lane rx => Sys2Proof.Machine.execEqRequest lane rx s
  | .eqTuneEnd dt port lane => Sys2Proof.Machine.execEqTuneEnd dt port lane s
  | .idleEnter rx => Sys2Proof.Machine.execIdleEnter rx s
  | .idleRetainExpire dt lane => Sys2Proof.Machine.execIdleRetainExpire dt lane s
  | .idleExit port lane => Sys2Proof.Machine.execIdleExit port lane s
  | .recal p lane => Sys2Proof.Machine.execRecal p lane s
  | .recalPassEnd dt lane => Sys2Proof.Machine.execRecalPassEnd dt lane s
  | .eyeStart p chip v => Sys2Proof.Machine.execEyeStart p chip v s
  | .eyeAbort p chip => Sys2Proof.Machine.execEyeAbort p chip s
  | .eyeScanDone dt chip lane => Sys2Proof.Machine.execEyeScanDone dt chip lane s
  | .serviceAlign n bits => Sys2Proof.Machine.execServiceAlign n bits s
  | .serviceMessageDiscard n codes => Sys2Proof.Machine.execServiceMessageDiscard n codes s
  | .timeMarker n stamp => Sys2Proof.Machine.execTimeMarker n stamp s
  | .calRead p => Sys2Proof.Machine.execCalRead p s
  | .calCapture p adapted => Sys2Proof.Machine.execCalCapture p adapted s
  | .calWrite p flashOk => Sys2Proof.Machine.execCalWrite p flashOk s
  | .fwdRead p tbl bank => Sys2Proof.Machine.execFwdRead p tbl bank s
  | .fwdWrite p tbl bank => Sys2Proof.Machine.execFwdWrite p tbl bank s
  | .exInsert p tbl bank => Sys2Proof.Machine.execExInsert p tbl bank s
  | .exDelete p tbl bank => Sys2Proof.Machine.execExDelete p tbl bank s
  | .exLookup p tbl bank => Sys2Proof.Machine.execExLookup p tbl bank s
  | .liveInsert p => Sys2Proof.Machine.execLiveInsert p s
  | .cordonSet p => Sys2Proof.Machine.execCordonSet p s
  | .cordonClr p => Sys2Proof.Machine.execCordonClr p s
  | .repair p tbl bank => Sys2Proof.Machine.execRepair p tbl bank s
  | .flip p => Sys2Proof.Machine.execFlip p s
  | .confirm p => Sys2Proof.Machine.execConfirm p s
  | .batch p => Sys2Proof.Machine.execBatch p s
  | .segmentDigest => Sys2Proof.Machine.execSegmentDigest s
  | .learnRelay lane codes => Sys2Proof.Machine.execLearnRelay lane codes s
  | .tod lane codes => Sys2Proof.Machine.execTod lane codes s
  | .ppsEdge dt => Sys2Proof.Machine.execPpsEdge dt s
  | .ref10Loss => Sys2Proof.Machine.execRef10Loss s
  | .ppsMissing dt => Sys2Proof.Machine.execPpsMissing dt s
  | .todOut dt => Sys2Proof.Machine.execTodOut dt s
  | .sync lane codes => Sys2Proof.Machine.execSync lane codes s
  | .syncSend dt => Sys2Proof.Machine.execSyncSend dt s
  | .delayReq lane codes => Sys2Proof.Machine.execDelayReq lane codes s
  | .delayReqSend dt lane => Sys2Proof.Machine.execDelayReqSend dt lane s
  | .delayResp lane codes => Sys2Proof.Machine.execDelayResp lane codes s
  | .elect lane codes => Sys2Proof.Machine.execElect lane codes s
  | .electSend dt => Sys2Proof.Machine.execElectSend dt s
  | .electionWin dt => Sys2Proof.Machine.execElectionWin dt s
  | .announce lane codes => Sys2Proof.Machine.execAnnounce lane codes s
  | .announceSend dt => Sys2Proof.Machine.execAnnounceSend dt s
  | .probe lane codes => Sys2Proof.Machine.execProbe lane codes s
  | .probeSend dt => Sys2Proof.Machine.execProbeSend dt s
  | .probeTimeout dt => Sys2Proof.Machine.execProbeTimeout dt s
  | .leave lane codes => Sys2Proof.Machine.execLeave lane codes s
  | .syncLossHoldover dt => Sys2Proof.Machine.execSyncLossHoldover dt s
  | .syncLossReelect dt => Sys2Proof.Machine.execSyncLossReelect dt s
  | .holdoverLimit dt => Sys2Proof.Machine.execHoldoverLimit dt s
  | .stepAdmitRestore dt => Sys2Proof.Machine.execStepAdmitRestore dt s
  | .tmbLoad p => Sys2Proof.Machine.execTmbLoad p s
  | .arm p sel => Sys2Proof.Machine.execArm p sel s
  | .activate p sel => Sys2Proof.Machine.execActivate p sel s
  | .disarm p sel => Sys2Proof.Machine.execDisarm p sel s
  | .timetableActivation dt => Sys2Proof.Machine.execTimetableActivation dt s
  | .activationGraceEnd dt => Sys2Proof.Machine.execActivationGraceEnd dt s
  | .mapIntervalClose dt => Sys2Proof.Machine.execMapIntervalClose dt s
  | .install p => Sys2Proof.Machine.execInstall p s
  | .uninstall p ctx => Sys2Proof.Machine.execUninstall p ctx s
  | .withdraw p ctx => Sys2Proof.Machine.execWithdraw p ctx s
  | .lndQuery p ctx => Sys2Proof.Machine.execLndQuery p ctx s
  | .lndTrigger p ctx => Sys2Proof.Machine.execLndTrigger p ctx s
  | .landingDelivery packet port => Sys2Proof.Machine.execLandingDelivery packet port s
  | .releaseInstant dt k => Sys2Proof.Machine.execReleaseInstant dt k s
  | .landingTimeout dt ctx => Sys2Proof.Machine.execLandingTimeout dt ctx s
  | .tombstoneExpire dt ctx => Sys2Proof.Machine.execTombstoneExpire dt ctx s
  | .eaExpire dt => Sys2Proof.Machine.execEaExpire dt s
  | .fanoutCordonCheck dt ctx => Sys2Proof.Machine.execFanoutCordonCheck dt ctx s
  | .contextRestoreDone ctx => Sys2Proof.Machine.execContextRestoreDone ctx s
  | .fenceArm p msi => Sys2Proof.Machine.execFenceArm p msi s
  | .fenceDisarm p => Sys2Proof.Machine.execFenceDisarm p s
  | .fenceQuery p => Sys2Proof.Machine.execFenceQuery p s
  | .setexp p => Sys2Proof.Machine.execSetexp p s
  | .fenceTimeout dt => Sys2Proof.Machine.execFenceTimeout dt s
  | .cbRead p idx => Sys2Proof.Machine.execCbRead p idx s
  | .cbWrite p idx => Sys2Proof.Machine.execCbWrite p idx s
  | .pgmLoad p district slot => Sys2Proof.Machine.execPgmLoad p district slot s
  | .pgmUnload p district slot => Sys2Proof.Machine.execPgmUnload p district slot s
  | .bind p id => Sys2Proof.Machine.execBind p id s
  | .unbind p id => Sys2Proof.Machine.execUnbind p id s
  | .rebind p id => Sys2Proof.Machine.execRebind p id s
  | .handoverComplete id => Sys2Proof.Machine.execHandoverComplete id s
  | .bindQuery p id => Sys2Proof.Machine.execBindQuery p id s
  | .restart p id => Sys2Proof.Machine.execRestart p id s
  | .tfWrite p idx => Sys2Proof.Machine.execTfWrite p idx s
  | .tfRead p idx => Sys2Proof.Machine.execTfRead p idx s
  | .yardFlush p id yard => Sys2Proof.Machine.execYardFlush p id yard s
  | .millNop t => Sys2Proof.Machine.execMillNop t s
  | .millYield t => Sys2Proof.Machine.execMillYield t s
  | .millJmp t => Sys2Proof.Machine.execMillJmp t s
  | .millBrz t => Sys2Proof.Machine.execMillBrz t s
  | .millBrnz t => Sys2Proof.Machine.execMillBrnz t s
  | .millMovi t => Sys2Proof.Machine.execMillMovi t s
  | .millAlu t => Sys2Proof.Machine.execMillAlu t s
  | .millAlui t => Sys2Proof.Machine.execMillAlui t s
  | .millLdx t => Sys2Proof.Machine.execMillLdx t s
  | .millStx t => Sys2Proof.Machine.execMillStx t s
  | .millTld t => Sys2Proof.Machine.execMillTld t s
  | .millTst t => Sys2Proof.Machine.execMillTst t s
  | .millTzero t => Sys2Proof.Machine.execMillTzero t s
  | .millTmma t => Sys2Proof.Machine.execMillTmma t s
  | .millTadd t => Sys2Proof.Machine.execMillTadd t s
  | .millTmul t => Sys2Proof.Machine.execMillTmul t s
  | .millTscale t => Sys2Proof.Machine.execMillTscale t s
  | .millTlut t => Sys2Proof.Machine.execMillTlut t s
  | .millTcvt t => Sys2Proof.Machine.execMillTcvt t s
  | .millTred t => Sys2Proof.Machine.execMillTred t s
  | .millTq t => Sys2Proof.Machine.execMillTq t s
  | .millTdq t => Sys2Proof.Machine.execMillTdq t s
  | .millSend t => Sys2Proof.Machine.execMillSend t s
  | .millSendt t => Sys2Proof.Machine.execMillSendt t s
  | .millTrig t => Sys2Proof.Machine.execMillTrig t s
  | .millDone t => Sys2Proof.Machine.execMillDone t s
  | .millBar t => Sys2Proof.Machine.execMillBar t s
  | .millStep t => Sys2Proof.Machine.execMillStep t s
  | .millYput t => Sys2Proof.Machine.execMillYput t s
  | .millYget t => Sys2Proof.Machine.execMillYget t s
  | .millYnext t => Sys2Proof.Machine.execMillYnext t s
  | .millYflush t => Sys2Proof.Machine.execMillYflush t s
  | .accessComplete t => Sys2Proof.Machine.execAccessComplete t s
  | .yardWaitEnd t => Sys2Proof.Machine.execYardWaitEnd t s
  | .sliceBoundary dt => Sys2Proof.Machine.execSliceBoundary dt s
  | .teardownStart p job => Sys2Proof.Machine.execTeardownStart p job s
  | .teardownSweepEnd dt => Sys2Proof.Machine.execTeardownSweepEnd dt s
  | .teardownRelease p job => Sys2Proof.Machine.execTeardownRelease p job s
  | .teardownQuery p job => Sys2Proof.Machine.execTeardownQuery p job s
  | .engHello lane codes => Sys2Proof.Machine.execEngHello lane codes s
  | .engineStatus lane codes => Sys2Proof.Machine.execEngineStatus lane codes s
  | .engineAck e second codes => Sys2Proof.Machine.execEngineAck e second codes s
  | .keepalive dt => Sys2Proof.Machine.execKeepalive dt s
  | .engineCmdRetry dt e => Sys2Proof.Machine.execEngineCmdRetry dt e s
  | .engineLost dt e => Sys2Proof.Machine.execEngineLost dt e s
  | .dropRingRetry dt path => Sys2Proof.Machine.execDropRingRetry dt path s
  | .mislock dt path drop seen => Sys2Proof.Machine.execMislock dt path drop seen s
  | .optCal p path => Sys2Proof.Machine.execOptCal p path s
  | .optCalPassEnd dt path => Sys2Proof.Machine.execOptCalPassEnd dt path s
  | .flySet p num => Sys2Proof.Machine.execFlySet p num s
  | .flyClear p num => Sys2Proof.Machine.execFlyClear p num s
  | .flyoverCut dt num => Sys2Proof.Machine.execFlyoverCut dt num s
  | .flyOffAckDeadline dt num => Sys2Proof.Machine.execFlyOffAckDeadline dt num s
  | .flyVerify dt num launchA launchB => Sys2Proof.Machine.execFlyVerify dt num launchA launchB s
  | .flyOffInstant dt num => Sys2Proof.Machine.execFlyOffInstant dt num s
  | .flySwitchTimeout dt num => Sys2Proof.Machine.execFlySwitchTimeout dt num s
  | .leaseGrant p => Sys2Proof.Machine.execLeaseGrant p s
  | .leaseRenew p => Sys2Proof.Machine.execLeaseRenew p s
  | .leaseRelease p => Sys2Proof.Machine.execLeaseRelease p s
  | .leaseExpiry dt => Sys2Proof.Machine.execLeaseExpiry dt s
  | .partQuery p kind idx => Sys2Proof.Machine.execPartQuery p kind idx s
  | .partDrain p kind idx => Sys2Proof.Machine.execPartDrain p kind idx s
  | .partReturn p kind idx => Sys2Proof.Machine.execPartReturn p kind idx s
  | .partZero p kind idx => Sys2Proof.Machine.execPartZero p kind idx s
  | .partTest p kind idx => Sys2Proof.Machine.execPartTest p kind idx s
  | .partTestEnd kind idx passed => Sys2Proof.Machine.execPartTestEnd kind idx passed s
  | .drainwaitRelease kind idx => Sys2Proof.Machine.execDrainwaitRelease kind idx s
  | .cruiseSave dt => Sys2Proof.Machine.execCruiseSave dt s
  | .fullSelfTest p => Sys2Proof.Machine.execFullSelfTest p s
  | .selfTestEnd failedEngines failedBanks => Sys2Proof.Machine.execSelfTestEnd failedEngines failedBanks s
  | .thermalGovWithdraw dt d => Sys2Proof.Machine.execThermalGovWithdraw dt d s
  | .thermalGovReturn dt d => Sys2Proof.Machine.execThermalGovReturn dt d s
  | .jrnl lane codes => Sys2Proof.Machine.execJrnl lane codes s
  | .jrnlAck lane codes => Sys2Proof.Machine.execJrnlAck lane codes s
  | .pull p => Sys2Proof.Machine.execPull p s
  | .spareAbort p => Sys2Proof.Machine.execSpareAbort p s
  | .pullRequest lane codes => Sys2Proof.Machine.execPullRequest lane codes s
  | .hdr lane codes => Sys2Proof.Machine.execHdr lane codes s
  | .twinSnap lane codes => Sys2Proof.Machine.execTwinSnap lane codes s
  | .twinEnd lane codes => Sys2Proof.Machine.execTwinEnd lane codes s
  | .nack lane codes => Sys2Proof.Machine.execNack lane codes s
  | .pullTimeout dt => Sys2Proof.Machine.execPullTimeout dt s
  | .mirrorAckSend dt lane => Sys2Proof.Machine.execMirrorAckSend dt lane s
  | .perst p => Sys2Proof.Machine.execPerst p s
  | .perstDeassert p link mps mrrs => Sys2Proof.Machine.execPerstDeassert p link mps mrrs s
  | .flr p => Sys2Proof.Machine.execFlr p s
  | .bar0BadAccess p isWrite => Sys2Proof.Machine.execBar0BadAccess p isWrite s
  | .bar2Access p off len wdata => Sys2Proof.Machine.execBar2Access p off len wdata s
  | .registerWrite p off v => Sys2Proof.Machine.execRegisterWrite p off v s
  | .lowWordRead p rd => Sys2Proof.Machine.execLowWordRead p rd s
  | .claim p => Sys2Proof.Machine.execClaim p s
  | .hostRenew p => Sys2Proof.Machine.execHostRenew p s
  | .hostYield p => Sys2Proof.Machine.execHostYield p s
  | .force p nonce => Sys2Proof.Machine.execForce p nonce s
  | .hostLeaseLapse dt => Sys2Proof.Machine.execHostLeaseLapse dt s
  | .dmaProd p c idx => Sys2Proof.Machine.execDmaProd p c idx s
  | .dmaDescriptorDone p c desc data started hostErr => Sys2Proof.Machine.execDmaDescriptorDone p c desc data started hostErr s
  | .dmaReset p c => Sys2Proof.Machine.execDmaReset p c s
  | .msixHoldoffEnd dt p src => Sys2Proof.Machine.execMsixHoldoffEnd dt p src s
  | .fwInfo p => Sys2Proof.Machine.execFwInfo p s
  | .flashRead p => Sys2Proof.Machine.execFlashRead p s
  | .platWrite p flashOk => Sys2Proof.Machine.execPlatWrite p flashOk s
  | .setActive p flashOk => Sys2Proof.Machine.execSetActive p flashOk s
  | .partialWrite p flashOk => Sys2Proof.Machine.execPartialWrite p flashOk s
  | .fwWrite p flashOk => Sys2Proof.Machine.execFwWrite p flashOk s
  | .attest p => Sys2Proof.Machine.execAttest p s
  | .tlySel p ev => Sys2Proof.Machine.execTlySel p ev s
  | .snapNow p id => Sys2Proof.Machine.execSnapNow p id s
  | .snapAt p id => Sys2Proof.Machine.execSnapAt p id s
  | .blockAt p id => Sys2Proof.Machine.execBlockAt p id s
  | .snapCancel p id => Sys2Proof.Machine.execSnapCancel p id s
  | .blockSnap lane codes => Sys2Proof.Machine.execBlockSnap lane codes s
  | .snapshotInstant dt => Sys2Proof.Machine.execSnapshotInstant dt s
  | .snapshotCopyDone => Sys2Proof.Machine.execSnapshotCopyDone s
  | .tagRecord core rec => Sys2Proof.Machine.execTagRecord core rec s

end Sys2Proof.Machine
end

