-- ==== Sys2Proof/Machine/Step.lean ====
section
/-! DEFINITION. One step: the command at the front of the queue runs on the state with the queue's rest; on an empty queue one nanosecond of local time passes (DESIGN CHOICE, log entry 2). -/
namespace Sys2Proof.Machine
open Sys2Proof

def step (s : State) : Host.Outcome State Fault Refusal :=
  match s.pending with
  | [] => .next (elapse 1 s)
  | c :: rest => exec c { s with pending := rest }

/-- The command that the word spells, put at the front of the queue; the state unchanged where it spells none. -/
def State.withFetchWord (s : State) (nbits w : Nat) : State :=
  match decodeTableWord nbits w with
  | none => s
  | some c => { s with pending := c :: s.pending }

end Sys2Proof.Machine
end

