-- ==== Sys2Proof/Safety.lean ====
section
/-! DEFINITION. What claims about the MS9 are stated in: who may command it, the form its memory keeps, what no command can undo, and what it means for a command to have an effect. -/
namespace Sys2Proof.Machine
open Sys2Proof

/-- LPDDR5X in its canonical form: addresses strictly rise, and no byte is listed at the value that an unlisted byte reads as (log entry 1). -/
def Memory.wf (s : State) : Bool := twf 0 s.ram

/-- The port's link is up and the port owns the host lease, and firmware runs: its writes to device-wide registers are carried out (R21, R383, R390). -/
def Owner (p : HPort) (s : State) : Prop :=
  (s.host p).perst = false ∧ s.booted = true ∧ s.hst.owner = some p

/-- The port's link is up and firmware runs, and another port or none owns the host lease. -/
def Stranger (p : HPort) (s : State) : Prop :=
  (s.host p).perst = false ∧ s.booted = true ∧ s.hst.owner ≠ some p

/-- The blocks of the state, each one field of it, and seven parts of blocks that most commands leave alone where they change the block: of RES, the device lease and the cordon record (R351 to R355); of HST, the host lease (R383, R384); of SEC, the running firmware (R404); of FWD, the forwarding tables of both banks, the job table and the banks' states (R134, R151); of TMB, the timetables: active, staged, old, armed and pending (R198 to R201); of NV, the plat keys (R411); of PLT, the structure in force and what identifies it (R41, R67). The queue is not among them: no command touches it. -/
inductive Blk where
  | glb | plt | hst | lnk | srd | svc | eye | fwd | swc | tmb | lnd | mil | mem | opt | res | sec | tly | pwr | nv | ram | clk | fresh | out
  | lease | own | fw | tables | timetable | keys | plat
  deriving DecidableEq, Repr

/-- The block is the same in both states. -/
def SameBlk : Blk → State → State → Prop
  | .glb, s, t => t.glb = s.glb
  | .plt, s, t => t.plt = s.plt
  | .hst, s, t => t.hst = s.hst
  | .lnk, s, t => t.lnk = s.lnk
  | .srd, s, t => t.srd = s.srd
  | .svc, s, t => t.svc = s.svc
  | .eye, s, t => t.eye = s.eye
  | .fwd, s, t => t.fwd = s.fwd
  | .swc, s, t => t.swc = s.swc
  | .tmb, s, t => t.tmb = s.tmb
  | .lnd, s, t => t.lnd = s.lnd
  | .mil, s, t => t.mil = s.mil
  | .mem, s, t => t.mem = s.mem
  | .opt, s, t => t.opt = s.opt
  | .res, s, t => t.res = s.res
  | .sec, s, t => t.sec = s.sec
  | .tly, s, t => t.tly = s.tly
  | .pwr, s, t => t.pwr = s.pwr
  | .nv, s, t => t.nv = s.nv
  | .ram, s, t => t.ram = s.ram
  | .clk, s, t => t.clk = s.clk
  | .fresh, s, t => t.fresh = s.fresh
  | .out, s, t => t.out = s.out
  | .lease, s, t =>
    (t.res.leaseStatus, t.res.cur, t.res.lease, t.res.leaseEnd, t.res.cause, t.res.done, t.res.count, t.res.cordonT)
      = (s.res.leaseStatus, s.res.cur, s.res.lease, s.res.leaseEnd, s.res.cause, s.res.done, s.res.count, s.res.cordonT)
  | .own, s, t =>
    (t.hst.owner, t.hst.leaseEnd, t.hst.pend)
      = (s.hst.owner, s.hst.leaseEnd, s.hst.pend)
  | .fw, s, t =>
    (t.sec.secver, t.sec.bootSlot, t.sec.fwver, t.sec.fwDigest)
      = (s.sec.secver, s.sec.bootSlot, s.sec.fwver, s.sec.fwDigest)
  | .tables, s, t =>
    (t.fwd.bankA, t.fwd.bankB, t.fwd.job, t.fwd.cur, t.fwd.stA, t.fwd.stB)
      = (s.fwd.bankA, s.fwd.bankB, s.fwd.job, s.fwd.cur, s.fwd.stA, s.fwd.stB)
  | .timetable, s, t =>
    (t.tmb.active, t.tmb.staged, t.tmb.old, t.tmb.armed, t.tmb.pending)
      = (s.tmb.active, s.tmb.staged, s.tmb.old, s.tmb.armed, s.tmb.pending)
  | .keys, s, t =>
    (t.nv.key0, t.nv.key1)
      = (s.nv.key0, s.nv.key1)
  | .plat, s, t =>
    (t.plt.plat, t.plt.active, t.plt.gen, t.plt.sealed, t.plt.ddigest, t.plt.dgen)
      = (s.plt.plat, s.plt.active, s.plt.gen, s.plt.sealed, s.plt.ddigest, s.plt.dgen)

/-- Where the keys are erased both plat-key slots are empty (R415). -/
def KeysGone (s : State) : Prop := s.nv.erased = true → s.nv.key0.key = none ∧ s.nv.key1.key = none

/-- What leads from one state to a later one changes no block and no part but those listed, and undoes nothing that no command of the MS9 undoes. -/
structure Kept (L : List Blk) (s t : State) : Prop where
  /-- every block that is not listed is as before -/
  same : ∀ b, b ∉ L → SameBlk b s t
  /-- the DEVID is fused (R408) -/
  devid : t.nv.devid = s.nv.devid
  /-- so is the fitted memory (R1) -/
  mem128 : t.nv.mem128 = s.nv.mem128
  /-- the security-version fuses only rise (R407) -/
  fusever : s.nv.fusever.toNat ≤ t.nv.fusever.toNat
  /-- erased keys stay erased (R415) -/
  erased : s.nv.erased = true → t.nv.erased = true
  /-- local time does not run back (R353) -/
  clk : s.clk ≤ t.clk
  /-- what was sent stays sent -/
  out : s.out <:+ t.out
  /-- a command does not touch the queue of the commands that wait -/
  pending : t.pending = s.pending
  /-- LPDDR5X keeps its canonical form -/
  ram : Memory.wf s = true → Memory.wf t = true
  /-- erased key slots stay empty (R415) -/
  gone : KeysGone s → KeysGone t


/-- The port that a device-wide write comes from: commands that are carried out for the owner of the host lease only (R390). -/
def deviceWide : Instr → Option HPort
  | .quiesce p | .resume p | .clrmin p | .keyLoad p | .secverCommit p | .dbgChallenge p | .dbgUnlock p | .dbgLock p | .platLoad p .. | .platAbort p
  | .clrmax p | .qmaxReset p .. | .lnkDisable p .. | .lnkRetrain p .. | .recal p .. | .eyeStart p .. | .eyeAbort p .. | .calRead p | .calCapture p ..
  | .calWrite p .. | .fwdRead p .. | .fwdWrite p .. | .exInsert p .. | .exDelete p .. | .exLookup p .. | .liveInsert p | .cordonSet p | .cordonClr p
  | .repair p .. | .flip p | .confirm p | .batch p | .tmbLoad p | .arm p .. | .activate p .. | .disarm p .. | .install p | .uninstall p ..
  | .withdraw p .. | .lndQuery p .. | .lndTrigger p .. | .fenceArm p .. | .fenceDisarm p | .fenceQuery p | .setexp p | .cbRead p .. | .cbWrite p ..
  | .pgmLoad p .. | .pgmUnload p .. | .bind p .. | .unbind p .. | .rebind p .. | .bindQuery p .. | .restart p .. | .tfWrite p .. | .tfRead p ..
  | .yardFlush p .. | .teardownStart p .. | .teardownRelease p .. | .teardownQuery p .. | .optCal p .. | .flySet p .. | .flyClear p ..
  | .leaseGrant p | .leaseRenew p | .leaseRelease p | .partQuery p .. | .partDrain p .. | .partReturn p .. | .partZero p .. | .partTest p ..
  | .fullSelfTest p | .pull p | .spareAbort p | .fwInfo p | .flashRead p | .platWrite p .. | .setActive p .. | .partialWrite p .. | .fwWrite p ..
  | .attest p | .tlySel p .. | .snapNow p .. | .snapAt p .. | .blockAt p .. | .snapCancel p .. => some p
  | .bar2Access p _ _ (some _) => some p
  | .bar2Access _ _ _ none => none
  | .trainingComplete .. | .quiesceDrainDone .. | .tokrateUpdate .. | .powerGood .. | .challengeExpire .. | .meshEvent .. | .supplyGlitch ..
  | .bootPlatLoad .. | .districtDrainDone .. | .replatApplyDone .. | .districtTrained .. | .resetIn .. | .sensorSample .. | .vinRise .. | .vinLow ..
  | .undervoltage .. | .overvoltage .. | .overcurrent .. | .vinReturn .. | .coolOkFall .. | .coolOkRise .. | .powerGovWithdraw ..
  | .powerGovReturn .. | .smbusBlockRead .. | .chalReq .. | .unlock .. | .regRead .. | .memRead .. | .memWrite .. | .halt .. | .fwChunk ..
  | .fwDone .. | .lock .. | .dbgEnChange .. | .packetIngress .. | .ingressHoldRelease .. | .policerRelease .. | .producerEnqueue ..
  | .replicationResume .. | .transmitOpportunity .. | .windfallSweep .. | .sprayCounterRelease .. | .bucketReturn .. | .reorderTimeout ..
  | .reorderRetire .. | .sampleSweep .. | .frameSlot .. | .linkFrameReceived .. | .replayTimeout .. | .ackProgressTimeout .. | .hello .. | .config ..
  | .creditInit .. | .trainingStateTimeout .. | .retrainInterval .. | .helloSend .. | .laneCtlOff .. | .offAck .. | .laneCtlOn .. | .onAck ..
  | .laneCtlRepeat .. | .laneCtlTimeout .. | .skewWindowExpiry .. | .codewordReceived .. | .eqRequest .. | .eqTuneEnd .. | .idleEnter ..
  | .idleRetainExpire .. | .idleExit .. | .recalPassEnd .. | .eyeScanDone .. | .serviceAlign .. | .serviceMessageDiscard .. | .timeMarker ..
  | .segmentDigest .. | .learnRelay .. | .tod .. | .ppsEdge .. | .ref10Loss .. | .ppsMissing .. | .todOut .. | .sync .. | .syncSend .. | .delayReq ..
  | .delayReqSend .. | .delayResp .. | .elect .. | .electSend .. | .electionWin .. | .announce .. | .announceSend .. | .probe .. | .probeSend ..
  | .probeTimeout .. | .leave .. | .syncLossHoldover .. | .syncLossReelect .. | .holdoverLimit .. | .stepAdmitRestore .. | .timetableActivation ..
  | .activationGraceEnd .. | .mapIntervalClose .. | .landingDelivery .. | .releaseInstant .. | .landingTimeout .. | .tombstoneExpire ..
  | .eaExpire .. | .fanoutCordonCheck .. | .contextRestoreDone .. | .fenceTimeout .. | .handoverComplete .. | .millNop .. | .millYield ..
  | .millJmp .. | .millBrz .. | .millBrnz .. | .millMovi .. | .millAlu .. | .millAlui .. | .millLdx .. | .millStx .. | .millTld .. | .millTst ..
  | .millTzero .. | .millTmma .. | .millTadd .. | .millTmul .. | .millTscale .. | .millTlut .. | .millTcvt .. | .millTred .. | .millTq ..
  | .millTdq .. | .millSend .. | .millSendt .. | .millTrig .. | .millDone .. | .millBar .. | .millStep .. | .millYput .. | .millYget ..
  | .millYnext .. | .millYflush .. | .accessComplete .. | .yardWaitEnd .. | .sliceBoundary .. | .teardownSweepEnd .. | .engHello ..
  | .engineStatus .. | .engineAck .. | .keepalive .. | .engineCmdRetry .. | .engineLost .. | .dropRingRetry .. | .mislock .. | .optCalPassEnd ..
  | .flyoverCut .. | .flyOffAckDeadline .. | .flyVerify .. | .flyOffInstant .. | .flySwitchTimeout .. | .leaseExpiry .. | .partTestEnd ..
  | .drainwaitRelease .. | .cruiseSave .. | .selfTestEnd .. | .thermalGovWithdraw .. | .thermalGovReturn .. | .jrnl .. | .jrnlAck ..
  | .pullRequest .. | .hdr .. | .twinSnap .. | .twinEnd .. | .nack .. | .pullTimeout .. | .mirrorAckSend .. | .perst .. | .perstDeassert .. | .flr ..
  | .bar0BadAccess .. | .registerWrite .. | .lowWordRead .. | .claim .. | .hostRenew .. | .hostYield .. | .force .. | .hostLeaseLapse ..
  | .dmaProd .. | .dmaDescriptorDone .. | .dmaReset .. | .msixHoldoffEnd .. | .blockSnap .. | .snapshotInstant .. | .snapshotCopyDone ..
  | .tagRecord .. => none

/-- An aligned service lane hears one message in the characters (R122). -/
def Hears (s : State) (n : Nat) (codes : List Code) (type seq : Byte) (b : List Byte) : Prop :=
  (s.svcLane n).st = .aligned ∧ s.heard n codes = .ok ⟨type, seq, b⟩
/-- A member of a Block hears a Block message on a ring lane (R191). -/
def HearsRing (s : State) (l : Fin 2) (codes : List Code) (type : Byte) (b : List Byte) : Prop :=
  s.inBlock = true ∧ ∃ seq, Hears s (s.ringLane (isWest l)) codes type seq b
/-- The MS9 hears one message of an engine on either lane of its pair (R124, R329). -/
def HearsEngine (s : State) (e : Fin 32) (second : Bool) (codes : List Code) (type seq : Byte) (b : List Byte) : Prop :=
  Hears s (16 + 2 * e.val + b2n second) codes type seq b
/-- One message on a service lane, as the running disparity of the lane spells it. -/
def Carries (lane type : Nat) (seq : Byte) (payload : List Byte) (marked : Bool) (e : Emission) : Prop :=
  ∃ rd, e = .svc lane (encodeAll rd (msgChars (BitVec.ofNat 8 type) seq payload marked ++ idlePair)).1
/-- The powered debug lands hear one message in the characters (R452). -/
def HearsDebug (s : State) (codes : List Code) (type seq : Byte) (b : List Byte) : Prop :=
  s.dbgOn = true ∧ s.heardDebug codes = .ok ⟨type, seq, b⟩
/-- One message on the debug lands. -/
def CarriesDebug (type seq : Byte) (payload : List Byte) (e : Emission) : Prop :=
  ∃ rd, e = .debug (encodeAll rd (framed type seq payload ++ idlePair)).1
/-- A debug command that leads from `s` to `t` does nothing but answer. -/
def OnlyAnswers (s : State) (type seq : Byte) (payload : List Byte) (t : State) : Prop :=
  ∃ e rx tx, CarriesDebug type seq payload e ∧ t = { s with pwr.dbgRd := rx, pwr.dbgTxRd := tx, out := e :: s.out }

/-- The receiver of a port's lane holds block lock and reads this content from a codeword's symbols, with at most 8 symbols corrected where it is valid; fewer than 8 of the last 64 codewords, this one among them, are invalid (R103, R104). -/
def Reads (s : State) (p i : Nat) (x : Symbols) (c : Content) : Prop :=
  i < s.width p ∧ s.portOfLane (p + i) = some p ∧ (s.lane (p + i)).st = .locked ∧ 64 ≤ (s.lane (p + i)).run ∧ (s.lane (p + i)).exit = none ∧
  (s.lane (p + i)).retain = false ∧ ((s.lane (p + i)).decode x).1 = c ∧ (c ≠ .invalid → ((s.lane (p + i)).decode x).2.1 ≤ 8) ∧
  popcount ((BitVec.shiftLeft (s.lane (p + i)).hist 1) ||| (if c = .invalid then 1 else 0)).toNat 64 < 8
/-- One lane alone carries what a port sends: no other is in use, and no other is driven. -/
def OnlyLane (s : State) (p i : Nat) : Prop :=
  i < s.width p ∧ (s.link p).txact.getLsbD i = true ∧
  ∀ j, j < s.width p → j ≠ i → (s.link p).txact.getLsbD j = false ∧ s.drives (p + j) = false

/-- What holds in the state after reset, and after every step from a state in which it holds: LPDDR5X has its canonical form, and erased key slots are empty. -/
def Inv (s : State) : Prop := Memory.wf s = true ∧ KeysGone s

/-- What no command and no time undoes: the fused identity, the version fuses, an erasure, local time and what was sent (R1, R407, R408, R415). -/
structure Lasts (s t : State) : Prop where
  devid : t.nv.devid = s.nv.devid
  mem128 : t.nv.mem128 = s.nv.mem128
  fusever : s.nv.fusever.toNat ≤ t.nv.fusever.toNat
  erased : s.nv.erased = true → t.nv.erased = true
  clk : s.clk ≤ t.clk
  out : s.out <:+ t.out

/-- The blocks and parts of blocks that a command may change. Everything else it leaves as it is, whatever it answers: the frame of each command, block by block. -/
def touches : Instr → List Blk
  | .trainingComplete .. => [.glb, .hst, .out]
  | .quiesce .. => [.glb, .hst, .lnk, .srd, .svc, .fwd, .swc, .tmb, .lnd, .mil, .mem, .res, .tly, .nv, .ram, .out]
  | .quiesceDrainDone .. => [.glb, .hst, .lnk, .srd, .svc, .fwd, .swc, .tmb, .lnd, .mil, .mem, .opt, .res, .tly, .nv, .ram, .out]
  | .resume .. | .sync .. | .leaseRenew .. | .leaseRelease .. => [.glb, .plt, .hst, .lnk, .srd, .svc, .fwd, .swc, .tmb, .lnd, .mil, .mem, .opt, .res, .tly, .nv, .ram, .out, .lease]
  | .clrmin .. => [.glb, .hst, .tly]
  | .tokrateUpdate .. => [.glb, .tmb, .mil, .tly, .clk, .out]
  | .powerGood .. => [.glb, .plt, .hst, .lnk, .srd, .svc, .fwd, .swc, .tmb, .lnd, .mil, .mem, .opt, .res, .sec, .tly, .nv, .ram, .out, .lease, .fw, .keys]
  | .keyLoad .. | .dbgUnlock .. | .meshEvent .. | .supplyGlitch .. | .fwWrite .. => [.glb, .plt, .hst, .lnk, .srd, .svc, .fwd, .swc, .tmb, .lnd, .mil, .mem, .opt, .res, .sec, .tly, .nv, .ram, .out, .lease, .keys]
  | .secverCommit .. => [.hst, .sec, .tly, .nv]
  | .dbgChallenge .. => [.hst, .sec, .tly, .fresh]
  | .dbgLock .. => [.hst, .sec, .tly]
  | .challengeExpire .. => [.tmb, .sec, .tly, .clk, .out]
  | .bootPlatLoad .. | .platLoad .. => [.glb, .plt, .hst, .lnk, .srd, .svc, .fwd, .swc, .tmb, .lnd, .mil, .mem, .opt, .res, .sec, .tly, .nv, .ram, .out, .lease, .tables, .keys, .plat]
  | .platAbort .. => [.plt, .hst, .tly, .out]
  | .districtDrainDone .. => [.plt, .hst, .lnk, .srd, .svc, .fwd, .swc, .tmb, .lnd, .mil, .mem, .opt, .res, .tly, .nv, .ram, .out, .plat]
  | .replatApplyDone .. => [.plt, .hst, .lnk, .srd, .sec, .out, .plat]
  | .districtTrained .. => [.plt, .hst, .out]
  | .resetIn .. => [.glb, .plt, .hst, .lnk, .srd, .svc, .eye, .fwd, .swc, .tmb, .lnd, .mil, .mem, .opt, .res, .sec, .tly, .pwr, .ram, .out, .lease, .own, .fw, .tables, .timetable, .plat]
  | .sensorSample .. => [.glb, .plt, .hst, .lnk, .srd, .svc, .eye, .fwd, .swc, .tmb, .lnd, .mil, .mem, .opt, .res, .sec, .tly, .pwr, .ram, .clk, .out, .lease, .own, .fw, .tables, .timetable, .plat]
  | .vinRise .. | .vinLow .. | .vinReturn .. | .coolOkFall .. | .coolOkRise .. | .dbgEnChange .. => [.pwr]
  | .undervoltage .. | .overvoltage .. | .overcurrent .. => [.glb, .plt, .hst, .lnk, .srd, .svc, .eye, .fwd, .swc, .tmb, .lnd, .mil, .mem, .opt, .res, .sec, .tly, .pwr, .ram, .lease, .own, .fw, .tables, .timetable, .plat]
  | .powerGovWithdraw .. | .thermalGovWithdraw .. => [.hst, .lnk, .srd, .swc, .tmb, .lnd, .mil, .res, .tly, .pwr, .nv, .clk, .out]
  | .powerGovReturn .. => [.tmb, .tly, .pwr, .clk, .out]
  | .clrmax .. => [.hst, .tly, .pwr]
  | .smbusBlockRead .. => [.out]
  | .chalReq .. => [.sec, .pwr, .fresh, .out]
  | .unlock .. => [.glb, .plt, .hst, .lnk, .srd, .svc, .fwd, .swc, .tmb, .lnd, .mil, .mem, .opt, .res, .sec, .tly, .pwr, .nv, .ram, .out, .lease, .keys]
  | .regRead .. | .memRead .. | .halt .. | .fwChunk .. => [.pwr, .out]
  | .memWrite .. | .registerWrite .. => [.glb, .plt, .hst, .lnk, .srd, .svc, .eye, .fwd, .swc, .tmb, .lnd, .mil, .mem, .opt, .res, .sec, .tly, .pwr, .nv, .ram, .fresh, .out, .lease, .own, .tables, .timetable, .keys, .plat]
  | .fwDone .. => [.glb, .plt, .hst, .lnk, .srd, .svc, .eye, .fwd, .swc, .tmb, .lnd, .mil, .mem, .opt, .res, .sec, .tly, .pwr, .nv, .ram, .out, .lease, .own, .fw, .tables, .timetable, .keys, .plat]
  | .lock .. => [.sec, .pwr, .out]
  | .packetIngress .. | .ingressHoldRelease .. | .producerEnqueue .. | .install .. | .withdraw .. | .lndTrigger .. | .landingDelivery ..
  | .millTrig .. => [.hst, .lnk, .srd, .svc, .fwd, .swc, .tmb, .lnd, .mil, .mem, .res, .tly, .nv, .ram, .out]
  | .policerRelease .. | .reorderTimeout .. | .releaseInstant .. | .landingTimeout .. | .fanoutCordonCheck .. => [.hst, .lnk, .srd, .svc, .fwd, .swc, .tmb, .lnd, .mil, .mem, .res, .tly, .nv, .ram, .clk, .out]
  | .replicationResume .. => [.hst, .lnk, .srd, .fwd, .swc, .tmb, .lnd, .mil, .mem, .res, .tly, .nv, .ram, .out]
  | .transmitOpportunity .. => [.hst, .lnk, .fwd, .swc, .tmb, .lnd, .mem, .tly, .ram, .clk, .out]
  | .windfallSweep .. | .teardownSweepEnd .. => [.hst, .lnk, .srd, .fwd, .swc, .tmb, .lnd, .mil, .mem, .res, .tly, .nv, .ram, .clk, .out]
  | .sprayCounterRelease .. | .bucketReturn .. | .reorderRetire .. => [.swc, .tmb, .tly, .clk, .out]
  | .sampleSweep .. => [.hst, .swc, .tmb, .tly, .ram, .clk, .out]
  | .qmaxReset .. => [.hst, .swc, .tly]
  | .frameSlot .. => [.hst, .lnk, .srd, .tmb, .tly, .clk, .fresh, .out]
  | .linkFrameReceived .. | .codewordReceived .. | .eqRequest .. | .idleEnter .. => [.hst, .lnk, .srd, .svc, .eye, .fwd, .swc, .tmb, .lnd, .mil, .mem, .opt, .res, .tly, .nv, .ram, .fresh, .out]
  | .replayTimeout .. | .ackProgressTimeout .. | .trainingStateTimeout .. | .laneCtlTimeout .. | .mislock .. | .flyOffAckDeadline .. | .flyVerify ..
  | .flySwitchTimeout .. => [.hst, .lnk, .srd, .svc, .fwd, .swc, .tmb, .lnd, .mil, .mem, .opt, .res, .tly, .nv, .ram, .clk, .out]
  | .hello .. | .config .. | .creditInit .. | .laneCtlOff .. | .lnkDisable .. | .lnkRetrain .. | .optCal .. | .flyClear .. => [.hst, .lnk, .srd, .svc, .fwd, .swc, .tmb, .lnd, .mil, .mem, .opt, .res, .tly, .nv, .ram, .out]
  | .retrainInterval .. => [.hst, .lnk, .srd, .tmb, .tly, .clk, .out]
  | .helloSend .. | .laneCtlRepeat .. => [.lnk, .srd, .tmb, .tly, .clk, .out]
  | .offAck .. => [.hst, .lnk, .srd, .svc, .opt, .out]
  | .laneCtlOn .. | .onAck .. => [.hst, .lnk, .srd, .opt, .out]
  | .skewWindowExpiry .. => [.lnk, .tmb, .tly, .clk, .out]
  | .eqTuneEnd .. | .idleRetainExpire .. => [.srd, .tmb, .tly, .clk, .out]
  | .idleExit .. => [.srd]
  | .recal .. => [.hst, .lnk, .srd, .svc, .eye, .fwd, .swc, .tmb, .lnd, .mil, .mem, .opt, .res, .tly, .nv, .ram, .out]
  | .recalPassEnd .. => [.hst, .lnk, .srd, .swc, .tmb, .lnd, .mil, .res, .tly, .nv, .clk, .fresh, .out]
  | .eyeStart .. => [.hst, .eye, .tly, .fresh]
  | .eyeAbort .. => [.hst, .eye, .tly]
  | .eyeScanDone .. => [.eye, .tmb, .tly, .clk, .out]
  | .serviceAlign .. | .timeMarker .. => [.svc]
  | .serviceMessageDiscard .. => [.svc, .tly]
  | .calRead .. | .calCapture .. | .bar2Access .. | .fwInfo .. | .flashRead .. | .attest .. | .snapshotCopyDone .. => [.hst, .tly, .ram, .out]
  | .calWrite .. | .platWrite .. | .setActive .. | .partialWrite .. => [.hst, .tly, .nv, .out]
  | .fwdRead .. | .fwdWrite .. | .exInsert .. | .exDelete .. | .exLookup .. | .liveInsert .. | .cordonSet .. | .cordonClr .. | .repair .. | .batch .. => [.hst, .lnk, .srd, .svc, .fwd, .swc, .lnd, .mil, .res, .tly, .nv, .out, .tables]
  | .flip .. => [.hst, .fwd, .swc, .tmb, .lnd, .tly, .ram, .out, .tables]
  | .confirm .. => [.hst, .fwd, .tly, .tables]
  | .segmentDigest .. => [.plt, .hst, .lnk, .srd, .fwd, .swc, .lnd, .mil, .res, .tly, .nv, .ram, .fresh, .out]
  | .learnRelay .. => [.hst, .svc, .fwd, .tly, .ram, .out]
  | .tod .. | .delayResp .. => [.svc, .tmb, .tly]
  | .ppsEdge .. | .leaseExpiry .. => [.glb, .plt, .hst, .lnk, .srd, .svc, .fwd, .swc, .tmb, .lnd, .mil, .mem, .opt, .res, .tly, .nv, .ram, .clk, .out, .lease]
  | .ref10Loss .. => [.hst, .tmb, .out]
  | .ppsMissing .. | .syncLossHoldover .. | .holdoverLimit .. | .stepAdmitRestore .. | .msixHoldoffEnd .. => [.hst, .tmb, .tly, .clk, .out]
  | .todOut .. | .delayReqSend .. | .electSend .. | .probeSend .. => [.svc, .tmb, .tly, .clk, .out]
  | .syncSend .. => [.hst, .svc, .tmb, .tly, .clk, .out]
  | .delayReq .. | .elect .. | .probe .. | .leave .. | .blockSnap .. => [.svc, .tmb, .tly, .out]
  | .electionWin .. => [.hst, .svc, .tmb, .tly, .clk, .fresh, .out]
  | .announce .. => [.hst, .svc, .tmb, .tly, .out]
  | .announceSend .. => [.svc, .tmb, .tly, .clk, .fresh, .out]
  | .probeTimeout .. | .syncLossReelect .. | .snapshotInstant .. => [.tmb, .tly, .clk, .out]
  | .tmbLoad .. | .activate .. | .disarm .. => [.hst, .tmb, .tly, .timetable]
  | .arm .. => [.hst, .tmb, .tly, .ram, .timetable]
  | .timetableActivation .. => [.hst, .tmb, .tly, .clk, .out, .timetable]
  | .activationGraceEnd .. => [.tmb, .tly, .clk, .out, .timetable]
  | .mapIntervalClose .. => [.hst, .tmb, .tly, .ram, .clk, .out]
  | .uninstall .. => [.hst, .lnk, .svc, .fwd, .swc, .tmb, .lnd, .res, .tly, .ram, .out]
  | .lndQuery .. => [.hst, .lnd, .tly, .ram]
  | .tombstoneExpire .. => [.tmb, .lnd, .tly, .clk, .out]
  | .eaExpire .. => [.hst, .lnk, .fwd, .swc, .tmb, .lnd, .tly, .ram, .clk, .out]
  | .contextRestoreDone .. => [.lnd]
  | .fenceArm .. => [.hst, .swc, .tmb, .lnd, .tly, .ram, .out]
  | .fenceDisarm .. | .fenceQuery .. => [.hst, .lnd, .tly]
  | .setexp .. => [.hst, .lnd, .tly, .ram, .out]
  | .fenceTimeout .. => [.hst, .tmb, .lnd, .tly, .ram, .clk, .out]
  | .cbRead .. | .pgmLoad .. | .pgmUnload .. | .bindQuery .. | .restart .. | .tfRead .. => [.hst, .mil, .tly]
  | .cbWrite .. | .bind .. | .tfWrite .. => [.hst, .svc, .mil, .res, .tly, .out]
  | .unbind .. | .rebind .. => [.hst, .lnk, .svc, .fwd, .swc, .tmb, .lnd, .mil, .mem, .res, .tly, .ram, .out]
  | .handoverComplete .. | .yardFlush .. | .millNop .. | .millYield .. | .millJmp .. | .millBrz .. | .millBrnz .. | .millMovi .. | .millAlu ..
  | .millAlui .. | .millLdx .. | .millStx .. | .millTld .. | .millTst .. | .millTzero .. | .millTmma .. | .millTadd .. | .millTmul ..
  | .millTscale .. | .millTlut .. | .millTcvt .. | .millTred .. | .millTq .. | .millTdq .. | .millSendt .. | .millBar .. | .millStep ..
  | .millYput .. | .millYget .. | .millYnext .. | .millYflush .. | .accessComplete .. => [.hst, .lnk, .fwd, .swc, .tmb, .lnd, .mil, .mem, .tly, .ram, .out]
  | .millSend .. => [.hst, .lnk, .srd, .fwd, .swc, .tmb, .lnd, .mil, .mem, .res, .tly, .nv, .ram, .fresh, .out]
  | .millDone .. => [.hst, .lnk, .srd, .svc, .fwd, .swc, .tmb, .lnd, .mil, .mem, .res, .tly, .nv, .ram, .fresh, .out]
  | .yardWaitEnd .. => [.mil]
  | .sliceBoundary .. => [.tmb, .mil, .tly, .clk, .out]
  | .teardownStart .. | .teardownRelease .. => [.hst, .lnk, .srd, .fwd, .swc, .tmb, .lnd, .mil, .mem, .res, .tly, .nv, .ram, .out, .tables]
  | .teardownQuery .. => [.hst, .mem, .tly]
  | .engHello .. => [.hst, .svc, .opt, .tly, .out]
  | .engineStatus .. => [.hst, .lnk, .srd, .svc, .fwd, .swc, .tmb, .lnd, .mil, .mem, .opt, .res, .tly, .nv, .ram, .fresh, .out]
  | .engineAck .. => [.svc, .opt, .tly]
  | .keepalive .. | .engineCmdRetry .. | .dropRingRetry .. => [.svc, .tmb, .opt, .tly, .clk, .out]
  | .engineLost .. => [.hst, .tmb, .opt, .tly, .clk, .out]
  | .optCalPassEnd .. => [.hst, .lnk, .srd, .svc, .swc, .tmb, .lnd, .mil, .opt, .res, .tly, .nv, .clk, .out]
  | .flySet .. => [.hst, .lnk, .srd, .fwd, .swc, .tmb, .lnd, .mil, .mem, .opt, .res, .tly, .nv, .ram, .out]
  | .flyoverCut .. | .flyOffInstant .. => [.lnk, .srd, .svc, .tmb, .opt, .tly, .clk, .out]
  | .leaseGrant .. => [.glb, .plt, .hst, .lnk, .srd, .svc, .fwd, .swc, .tmb, .lnd, .mil, .mem, .opt, .res, .tly, .nv, .ram, .out, .lease, .tables]
  | .partQuery .. | .partZero .. | .fullSelfTest .. => [.hst, .res, .tly]
  | .partDrain .. | .partReturn .. => [.hst, .lnk, .srd, .swc, .lnd, .mil, .res, .tly, .out]
  | .partTest .. => [.hst, .mil, .res, .tly]
  | .partTestEnd .. | .selfTestEnd .. => [.hst, .lnk, .srd, .swc, .lnd, .mil, .res, .nv, .out]
  | .drainwaitRelease .. => [.hst, .lnk, .srd, .swc, .lnd, .mil, .res, .out]
  | .cruiseSave .. => [.tmb, .tly, .nv, .clk, .out]
  | .thermalGovReturn .. => [.tmb, .res, .tly, .clk, .out]
  | .jrnl .. => [.svc, .res, .tly, .ram, .out]
  | .jrnlAck .. => [.svc, .res, .tly, .out]
  | .pull .. | .hdr .. | .twinEnd .. | .nack .. => [.hst, .svc, .res, .tly, .out]
  | .spareAbort .. => [.hst, .res, .tly, .out]
  | .pullRequest .. => [.svc, .tly, .out]
  | .twinSnap .. => [.hst, .lnk, .srd, .svc, .fwd, .swc, .tmb, .lnd, .mil, .mem, .res, .tly, .nv, .ram, .out, .tables]
  | .pullTimeout .. => [.hst, .tmb, .res, .tly, .clk, .out]
  | .mirrorAckSend .. => [.svc, .tmb, .res, .tly, .clk, .out]
  | .perst .. | .flr .. | .hostYield .. | .force .. => [.hst, .out, .own]
  | .perstDeassert .. => [.hst, .out]
  | .bar0BadAccess .. => [.tly, .out]
  | .lowWordRead .. => [.hst, .tly, .out]
  | .claim .. => [.hst, .fresh, .out, .own]
  | .hostRenew .. => [.hst, .own]
  | .hostLeaseLapse .. => [.hst, .tmb, .tly, .clk, .out, .own]
  | .dmaProd .. | .dmaReset .. => [.hst]
  | .dmaDescriptorDone .. => [.hst, .ram, .out]
  | .tlySel .. | .snapNow .. | .snapAt .. | .snapCancel .. => [.hst, .tly]
  | .blockAt .. => [.hst, .svc, .tly, .out]
  | .tagRecord .. => [.tly, .ram, .fresh]

/-- No capture rule runs, no combining entry is open and no fence is armed: what reaches a queue is then the packet alone (R179, R251, R316). -/
def PlainSwitch (s : State) : Prop :=
  s.swc.capture = false ∧ s.mem.ents = [] ∧ s.mem.combine = false ∧ s.lnd.fences = []

/-- From `s` to `t` exactly one packet joined the queue of a port and its class, at the tail, and it counts in its epoch (R150, R160). -/
def JoinsQueue (port : Nat) (p : Pkt) (s t : State) : Prop :=
  (t.queue (queueKey port p.h.tc)).items =
    (s.queue (queueKey port p.h.tc)).items ++ [.pkt { p with counted := true, cred := false, thread := none }]

/-- The packet is no mirrored memory request whose next hop is its target (R71; log entry 93). -/
def NoMirrorEnd (q : Nat) (p : Pkt) (s : State) : Prop :=
  p.h.mirror = false ∨ p.h.isRequest = false ∨ s.endpointHop (.port q) = false

/-- The thread may issue, and the instruction word at its pc has this opcode and these fields (R285); its binding is neither in a handover nor being unbound, in which a thread may stop behind an instruction (R301, R302). -/
def Issues (t : Th) (op : Nat) (i : Ins) (s : State) : Prop :=
  s.canIssue t = true ∧ (∃ b, s.bindOf (thBid t) = some b ∧ b.oldPlace = none ∧ b.closing = false) ∧ (s.thread t).pc < imgCode (s.imageOf t) ∧
  fld (u64At (s.imageOf t) (64 + 8 * (s.thread t).pc)) 56 8 = op ∧ insOf (u64At (s.imageOf t) (64 + 8 * (s.thread t).pc)) = i

/-- The thread stands READY at the next word. -/
def GoesOn (t : Th) (s u : State) : Prop := (u.thread t).pc = (s.thread t).pc + 1 ∧ (u.thread t).st = .ready

/-- The thread's scalar registers are as before, but for X[d], which holds `v`; X0 still reads 0 (R284). -/
def XSet (t : Th) (d v : Nat) (s u : State) : Prop := ∀ n, u.xr t n = if n = d ∧ d ≠ 0 then v else s.xr t n

/-- The tile registers of the thread's core and binding are as before, but for T[d], which holds `x`. -/
def TileSet (t : Th) (d : Nat) (x : Tile) (s u : State) : Prop := ∀ n, n < 64 → u.tile t n = if n = d then x else s.tile t n

/-- The scalar operations of ALU and ALUI, by MOD[3:0] (R284, R286). -/
def aluResult (op : Nat) (a b : DWord) : DWord :=
  match op with
  | 0 => a + b
  | 1 => a - b
  | 2 => a * b
  | 3 => a &&& b
  | 4 => a ||| b
  | 5 => a ^^^ b
  | 6 => BitVec.shiftLeft a b.toNat
  | 7 => a.ushiftRight b.toNat
  | 8 => a.sshiftRight b.toNat
  | 9 => if a.toNat < b.toNat then 1 else 0
  | _ => if a = b then 1 else 0

/-- The binding of the thread is FAULTED with every thread stopped, MIL_EVENT.FAULT is set, and MIL_FAULT records the first fault (R287). -/
def FaultsWith (t : Th) (code : Nat) (s u : State) : Prop :=
  (∃ b, u.bindOf (thBid t) = some b ∧ b.st = .faulted ∧ ∀ e, e ∈ b.threads → e.2.st = .stopped) ∧ u.mil.event.getLsbD 0 = true ∧
  (s.mil.fault = 0 → u.mil.fault = BitVec.ofNat 32 (code * 2 ^ 28 + s.gcore t * 2 ^ 20 + t.th.val * 2 ^ 16 + thBid t) ∧
    u.mil.faultPc = BitVec.ofNat 32 (s.thread t).pc)

/-- The command completes with a next state of which `P` holds. -/
def Completes (i : Instr) (s : State) (P : State → Prop) : Prop :=
  ∃ t, exec i s = .next t ∧ P t

end Sys2Proof.Machine
end

