-- ==== Sys2Proof/Certificates/Slice0/Obligations.lean ====
section
/-! DEFINITION. The statements for the provers: what every command leaves, what every step keeps, and what reset is. -/

open Sys2Proof Sys2Proof.Machine

/-- The device-state commands complete (R19, R20, R22 to R25): for every state that meets the rule's conditions, exec answers a next state, and it is the one the rules give. QUIESCE sets the drain going; QUIESCE_DRAIN_DONE makes the device QUIESCED once the drain has emptied the job queues; RESUME puts a QUIESCED device back in service and restarts the Landing timers; CLRMIN sets the lowest token rates to 0xFFFF; TRAINING_COMPLETE makes a TRAINING device READY once every built port has trained and the Block is formed or broken; TOKRATE_UPDATE takes the sixteen measured rates, the slowest as the device's, and keeps the minima. The model's own choices in it: log entries 3, 4, 6, 37, 47 and 95. -/
def Obligations.DeviceStatesComplete : Prop :=
  (∀ p s, (s.host p).perst = false → s.hst.owner = some p → s.glb.state = .inService → s.glb.draining = false →
    ∃ t, Sys2Proof.Machine.exec (.quiesce p) s = .next t ∧ t.glb = { s.glb with draining := true }) ∧
  (∀ s, s.glb.state = .inService → s.glb.draining = true → s.jobQueuesEmpty = true →
    ∃ t, Sys2Proof.Machine.exec .quiesceDrainDone s = .next t ∧ t.glb = { s.glb with state := .quiesced, draining := false }) ∧
  (∀ p s, (s.host p).perst = false → s.hst.owner = some p → s.glb.state = .quiesced → s.leaseOver = false →
    ∃ t, Sys2Proof.Machine.exec (.resume p) s = .next t ∧
      t.glb = { s.glb with state := .inService } ∧ t.res = s.res ∧ t.lnd.ctxs = (holdTimers s).lnd.ctxs) ∧
  (∀ p s, (s.host p).perst = false → s.hst.owner = some p →
    ∃ t, Sys2Proof.Machine.exec (.clrmin p) s = .next t ∧
      t.glb.tokMin = 0xFFFF ∧ (∀ d, tget 0xFFFF t.glb.dtokMin d = 0xFFFF) ∧ t.glb.tokNow = s.glb.tokNow ∧ t.glb.state = s.glb.state) ∧
  (∀ s, s.glb.state = .training → s.ports.all s.portTrained = true →
    (s.inBlock = false ∨ s.tmb.blk = .joined ∨ s.tmb.blk = .broken) →
    ∃ t, Sys2Proof.Machine.exec .trainingComplete s = .next t ∧ t.glb = { s.glb with state := .ready }) ∧
  (∀ dt rates s, ∃ t, Sys2Proof.Machine.exec (.tokrateUpdate dt rates) s = .next t ∧
    (∀ d, d < 16 → tget 0 t.glb.dtokNow d = rates.getD d 0 ∧
      (tget 0xFFFF t.glb.dtokMin d).toNat = min (tget 0xFFFF s.glb.dtokMin d).toNat (rates.getD d 0).toNat) ∧
    (∀ d, d < 16 → t.glb.tokNow.toNat ≤ (rates.getD d 0).toNat) ∧ (∃ d, d < 16 ∧ t.glb.tokNow = rates.getD d 0) ∧
    t.glb.tokMin.toNat = min s.glb.tokMin.toNat t.glb.tokNow.toNat ∧ t.clk = s.clk + dt)

/-- The lease commands complete (R352, R353, R355): for every state that meets the rule's conditions, exec answers a next state for GRANT (from READY and from CORDONED), RENEW, RELEASE and the expiry of the lease, and it is the one the rules give. The lease's end (R353): an accepted GRANT or RENEW sets the two limits, DEADLINE in time-base time and 120 ms on the lease timer, RES_LEASE_END shows the first, and the lease ends at either. Beside R353: the epoch and the device state that GRANT, RENEW and RELEASE leave (R352), and the self-cordon at the end (R355). The model's own choices in it: log entries 4 and 46. -/
def Obligations.LeaseCommandsComplete : Prop :=
  (∀ p s, Owner p s → s.res.leaseBusy = false → s.glb.state = .ready → s.res.cur.toNat < s.res.epoch.toNat →
    s.now < s.res.dl.toNat → s.res.dl.toNat ≤ s.now + 120000000 →
    ∃ t, Sys2Proof.Machine.exec (.leaseGrant p) s = .next t ∧
      t.glb = { s.glb with state := .inService } ∧ t.res.cur = s.res.epoch ∧ t.res.leaseStatus = 0 ∧
      t.res.lease = some (s.res.dl.toNat, s.clk + 120000000) ∧ t.res.leaseEnd = BitVec.ofNat 64 s.res.dl.toNat) ∧
  (∀ p s, Owner p s → s.res.leaseBusy = false → s.glb.state = .cordoned → s.res.done = true → s.res.cur.toNat < s.res.epoch.toNat →
    s.now < s.res.dl.toNat → s.res.dl.toNat ≤ s.now + 120000000 →
    ∃ t, Sys2Proof.Machine.exec (.leaseGrant p) s = .next t ∧
      t.glb = { s.glb with state := .inService } ∧ t.res.cur = s.res.epoch ∧ t.res.leaseStatus = 0 ∧
      t.res.lease = some (s.res.dl.toNat, s.clk + 120000000) ∧ t.res.leaseEnd = BitVec.ofNat 64 s.res.dl.toNat) ∧
  (∀ p s, Owner p s → s.res.leaseBusy = false → (s.glb.state = .inService ∨ s.glb.state = .quiesced) → s.leaseOver = false →
    s.res.epoch = s.res.cur → s.now < s.res.dl.toNat → s.res.dl.toNat ≤ s.now + 120000000 →
    ∃ t, Sys2Proof.Machine.exec (.leaseRenew p) s = .next t ∧
      t.glb = s.glb ∧ t.res.leaseStatus = 0 ∧ t.res.cur = s.res.cur ∧
      t.res.lease = (if s.leaseTime (s.res.lease.getD (0, 0)) < s.leaseTime s.newLease then some s.newLease else s.res.lease) ∧
      t.res.leaseEnd = (if s.leaseTime (s.res.lease.getD (0, 0)) < s.leaseTime s.newLease then BitVec.ofNat 64 s.res.dl.toNat else s.res.leaseEnd)) ∧
  (∀ p s, Owner p s → s.res.leaseBusy = false → (s.glb.state = .inService ∨ s.glb.state = .quiesced) → s.leaseOver = false →
    s.res.epoch = s.res.cur →
    ∃ t, Sys2Proof.Machine.exec (.leaseRelease p) s = .next t ∧
      t.glb = { s.glb with state := .cordoned, draining := false } ∧ t.res.leaseStatus = 0 ∧
      t.res.lease = none ∧ t.res.cause = 2 ∧ t.res.done = true ∧ t.res.cordonT = BitVec.ofNat 64 s.now) ∧
  (∀ dt s, (s.glb.state = .inService ∨ s.glb.state = .quiesced) →
    (elapse dt s).leaseOver = true →
    ∃ t, Sys2Proof.Machine.exec (.leaseExpiry dt) s = .next t ∧
      t.glb = { s.glb with state := .cordoned, draining := false } ∧
      t.res.lease = none ∧ t.res.cause = 1 ∧ t.res.done = true ∧ t.res.cordonT = BitVec.ofNat 64 (elapse dt s).now ∧
      t.clk = s.clk + dt) ∧
  (∀ dt s, (elapse dt s).leaseOver = false → ∃ t, Sys2Proof.Machine.exec (.leaseExpiry dt) s = .next t ∧ t = elapse dt s) ∧
  (∀ (s : State) dl timer, s.res.lease = some (dl, timer) → (s.leaseOver = true ↔ dl ≤ s.now ∨ timer ≤ s.clk)) ∧
  (∀ s : State, s.newLease = (s.res.dl.toNat, s.clk + 120000000))

/-- SEC_CMD (R412, R416 to R419): KEY_LOAD, SECVER_COMMIT, DBG_CHALLENGE, DBG_UNLOCK and DBG_LOCK complete with the status and the effect the rules give; what SM2 answers is open. The model's own choices in it: log entries 5, 13 and 75. -/
def Obligations.SecurityCommandsComplete : Prop :=
  (∀ p s b slot, Owner p s → s.sec.busy = false →
    (s.glb.state = .unplatted ∨ s.glb.state = .ready ∨ s.glb.state = .quiesced ∨ s.glb.state = .cordoned) →
    s.ikUsable = true →
    b = rdMem s s.sec.addr.toNat 704 → slot = (u8At b 4 == 1) → keyRecordBad b = false → u64At b 16 = s.nv.devid.toNat →
    Completes (.keyLoad p) s fun t =>
      if keyRecordSigned s b = false then t.sec.status = 3
      else if u32At b 8 ≤ (s.keySlot slot).keygen.toNat then t.sec.status = 5 ∧ t.nv = s.nv
      else
        match Config.sm2Decrypt s.nv.devid (slice b 32 112) with
        | none => t.sec.status = 8 ∧ t.nv = s.nv
        | some k =>
          if s.plt.sealed = some slot then t.sec.status = 6 ∧ t.nv = s.nv
          else t.sec.status = 0 ∧ t.keySlot slot = ⟨some k, BitVec.ofNat 32 (u32At b 8)⟩ ∧ t.keySlot (!slot) = s.keySlot (!slot)) ∧
  (∀ p s, Owner p s → s.sec.busy = false → s.hst.mbBusy = false → s.nv.fusever.toNat < s.sec.secver.toNat →
    Completes (.secverCommit p) s fun t =>
      t = { s with nv.fusever := s.sec.secver, sec.status := 0 }) ∧
  (∀ p s, Owner p s → s.sec.busy = false →
    Completes (.dbgChallenge p) s fun t =>
      t = { s with sec.chal := some (Config.challenge s.fresh, s.clk), sec.status := 0, fresh := s.fresh + 1 }) ∧
  (∀ p s b ch t0, Owner p s → s.sec.busy = false → s.sec.chal = some (ch, t0) → s.clk - t0 < 60000000000 →
    b = rdMem s s.sec.addr.toNat 560 → unlockBad b = false → (u8At b 0 = 2 → s.glb.state = .unplatted) →
    Completes (.dbgUnlock p) s fun t =>
      t.sec.chal = none ∧
      (unlockLeaf (dropChal s) ch b = none → t.sec.status = 3) ∧
      (∀ c, unlockLeaf (dropChal s) ch b = some c →
        t.sec.status = 0 ∧ t.sec.dbg = BitVec.ofNat 2 (u8At b 0) ∧ t.sec.keylock = (s.sec.keylock || u8At b 0 == 2) ∧
        t.sec.failsDbg = 0 ∧ tget 0 t.sec.meas 6 =
          Config.sm3 (digestBytes (tget 0 s.sec.meas 6) ++ (toLE 1 (u8At b 0) ++ certSerial c)))) ∧
  (∀ p s, Owner p s → s.sec.busy = false →
    Completes (.dbgLock p) s fun t => t = { s with sec.dbg := 0, sec.status := 0 }) ∧
  (∀ dt s c t0, s.sec.chal = some (c, t0) → 60000000000 ≤ s.clk + dt - t0 →
    Completes (.challengeExpire dt) s fun t => t = dropChal (elapse dt s))

/-- Alarm events (R413 to R415): MESH_EVENT and SUPPLY_GLITCH extend M7, count, act at the plat's level, and at A1 or A2 end debugging and self-cordon; at A2 the keys are erased. The model's own choices in it: log entries 46, 75 and 79. -/
def Obligations.AlarmEventsComplete : Prop :=
  ∀ s sensor, (sensor = 0 ∨ sensor = 1) →
    Completes (if sensor = 0 then .meshEvent else .supplyGlitch) s fun t =>
      t.sec.alarmLast = BitVec.ofNat 2 (s.alarmLevel sensor) ∧ t.sec.alarmSensor = setBit s.sec.alarmSensor sensor true ∧
      tget 0 t.sec.meas 7 = Config.sm3 (digestBytes (tget 0 s.sec.meas 7) ++ (toLE 1 sensor ++ toLE 1 (s.alarmLevel sensor))) ∧
      (s.alarmLevel sensor = 0 → t.sec.a0 = satInc s.sec.a0 ∧ t.glb = s.glb ∧ t.nv = s.nv) ∧
      (s.alarmLevel sensor ≠ 0 → t.sec.a1 = satInc s.sec.a1 ∧ t.sec.dbg = 0 ∧
        (s.glb.state = .inService ∨ s.glb.state = .quiesced →
          t.glb.state = .cordoned ∧ t.res.lease = none ∧ t.res.cause = BitVec.ofNat 4 (2 + s.alarmLevel sensor))) ∧
      (s.alarmLevel sensor = 2 → t.nv.erased = true ∧ t.nv.key0.key = none ∧ t.nv.key1.key = none)

/-- The plat loader (R59 to R66): a boot load, a host load and an abort complete, and what validation finds is what PLT_STATUS reports. The model's own choices in it: log entries 13, 25 and 26. -/
def Obligations.PlatLoadsComplete : Prop :=
  (∀ s, s.glb.state = .unplatted → s.sec.keylock = false → s.plt.active = none →
    Completes .bootPlatLoad s fun t =>
      t.plt.busy = false ∧
      match validate false none flashRoom (flashImage (b2n s.nv.active) (s.flashPlat s.nv.active)) s with
      | (_, .ok _) => t.plt.code = 0 ∧ t.glb.state = .training
      | (u, .error _) =>
        match validate false none flashRoom (flashImage (b2n (!s.nv.active)) (u.flashPlat (!s.nv.active))) u with
        | (_, .ok _) => t.plt.code = 0 ∧ t.glb.state = .training
        | (_, .error e) => t.plt.code = BitVec.ofNat 8 e.code ∧ t.plt.sect = BitVec.ofNat 4 e.sect ∧ t.plt.errOff = BitVec.ofNat 32 e.off) ∧
  (∀ p src d s staged, Owner p s → s.plt.busy = false → staged = (notePltCtrl src d s).loadSource src.toNat d.toNat →
    loadKind src.toNat staged = false → s.glb.state = .unplatted → s.sec.keylock = false →
    Completes (.platLoad p src d) s fun t =>
      t.plt.busy = false ∧
      match validate false (if src = 3 then some d.toNat else none) (if src = 0 then staged.length else flashRoom) staged (notePltCtrl src d s) with
      | (_, .ok _) => t.plt.code = 0 ∧ t.glb.state = .training
      | (_, .error e) => t.plt.code = BitVec.ofNat 8 e.code ∧ t.plt.sect = BitVec.ofNat 4 e.sect ∧ t.plt.errOff = BitVec.ofNat 32 e.off) ∧
  (∀ p src d s staged, Owner p s → s.plt.busy = false → staged = (notePltCtrl src d s).loadSource src.toNat d.toNat →
    loadKind src.toNat staged = true → (s.glb.state = .inService ∨ s.glb.state = .quiesced) →
    Completes (.platLoad p src d) s fun t =>
      match validate true (if src = 3 then some d.toNat else none) (if src = 0 then staged.length else flashRoom) staged (notePltCtrl src d s) with
      | (_, .ok b) => t.plt.busy = true ∧ t.plt.op = some (platDistrict b, b) ∧ t.dist (platDistrict b) = .draining
      | (_, .error e) => t.plt.busy = false ∧ t.plt.code = BitVec.ofNat 8 e.code ∧ t.plt.sect = BitVec.ofNat 4 e.sect ∧
        t.plt.errOff = BitVec.ofNat 32 e.off) ∧
  (∀ p s d b, Owner p s → s.plt.op = some (d, b) → s.dist d = .draining →
    Completes (.platAbort p) s fun t =>
      t.dist d = .inService ∧ t.plt.op = none ∧ t.plt.code = 0x16 ∧ t.plt.busy = false ∧ t.plt.plat = s.plt.plat)

/-- The stages of a district re-plat (R63 to R67): DRAINING to REPLAT when the district is empty, REPLAT to TEST when the apply completes, TEST to IN_SERVICE when every port's training has ended. The model's own choices in it: log entries 4 and 26. -/
def Obligations.ReplatStagesComplete : Prop :=
  (∀ (d : Fin 16) s b, s.plt.op = some (d.val, b) → s.dist d = .draining → s.districtEmpty d = true →
    Completes (.districtDrainDone d) s fun t =>
      t.dist d = .replat ∧ t.plt.plat = amend s.plt.plat b (some (platDistrict b)) ∧ t.plt.op = s.plt.op) ∧
  (∀ (d : Fin 16) s b, s.plt.op = some (d.val, b) → s.dist d = .replat →
    Completes (.replatApplyDone d) s fun t =>
      t.dist d = .test ∧ tget 0 t.plt.ddigest (platDistrict b) = trailerDigest b ∧
      tget 0 t.plt.dgen (platDistrict b) = BitVec.ofNat 64 (u64At b 24) ∧ t.plt.op = s.plt.op) ∧
  (∀ (d : Fin 16) s b, s.plt.op = some (d.val, b) → s.dist d = .test → (s.distPorts d).all s.portTrained = true →
    Completes (.districtTrained d) s fun t =>
      t.dist d = .inService ∧ t.plt.op = none ∧ t.plt.code = 0 ∧ t.plt.busy = false ∧ t.plt.plat = s.plt.plat)

/-- The module's supply and reset (R436, R438, R440, R443, R449): each condition completes with the device reset, the recorded cause and the lands the rules give. The model's own choices in it: log entries 9 and 80. -/
def Obligations.ModuleResetsComplete : Prop :=
  (∀ s, s.pwr.supply = .on →
    Completes .undervoltage s (fun t => t.glb.state = .reset ∧ t.pwr.pgood = false ∧ t.pwr.supply = .off ∧ t.pwr.faultLand = s.pwr.faultLand ∧
      (s.pwr.trip = .none → t.pwr.cause = 3) ∧ t.nv = s.nv ∧ t.ram = []) ∧
    Completes .overvoltage s (fun t => t.glb.state = .reset ∧ t.pwr.pgood = false ∧ t.pwr.supply = .overvolt ∧ t.pwr.faultLand = true ∧
      (s.pwr.trip = .none → t.pwr.cause = 4) ∧ t.nv = s.nv ∧ t.ram = []) ∧
    Completes .overcurrent s (fun t => t.glb.state = .reset ∧ t.pwr.pgood = false ∧ t.pwr.supply = .overcurrent ∧ t.pwr.faultLand = true ∧
      (s.pwr.trip = .none → t.pwr.cause = 5) ∧ t.nv = s.nv ∧ t.ram = [])) ∧
  (∀ s, s.pwr.supply = .off → s.pwr.trip = .none → s.glb.state = .reset → s.pwr.pgood = false → s.pwr.coolOk = true →
    Completes .vinRise s fun t => t.pwr.supply = .on ∧ t.pwr.pgood = true ∧ t.pwr.faultLand = false ∧ t.pwr.thermtrip = false) ∧
  (∀ s, s.pwr.supply = .overvolt → s.pwr.trip = .none → s.glb.state = .reset → s.pwr.pgood = false → s.pwr.coolOk = true →
    Completes .vinReturn s fun t => t.pwr.supply = .on ∧ t.pwr.pgood = true ∧ t.pwr.faultLand = false) ∧
  (∀ s, s.pwr.supply = .on → s.pwr.vinlow = false →
    Completes .vinLow s fun t => t = { s with pwr.vinlow := true, pwr.event := setBit s.pwr.event 2 true }) ∧
  (∀ ns s, 10000 ≤ ns → s.pwr.supply = .on → s.pwr.trip = .none → s.pwr.vinLost = false → s.pwr.coolOk = true →
    Completes (.resetIn ns) s fun t => t.glb.state = .reset ∧ t.pwr.pgood = true ∧ t.pwr.cause = 1 ∧ t.nv = s.nv ∧ t.ram = [] ∧
      t.hst.owner = none ∧ t.res.lease = none) ∧
  (∀ s, s.glb.state ≠ .reset →
    Completes .coolOkFall s fun t => t = { s with pwr.coolOk := false, pwr.event := setBit s.pwr.event 5 true }) ∧
  (∀ s, s.glb.state = .reset → s.pwr.pgood = false → s.pwr.supply = .on → s.pwr.trip = .none →
    Completes .coolOkRise s fun t => t.pwr.coolOk = true ∧ t.pwr.pgood = true) ∧
  (∀ p s, Owner p s → Completes (.clrmax p) s fun t => t = { s with pwr.pinMax := 0 })

/-- Power good (R404, R406): the boot ROM starts the firmware of the first slot that passes, at UNPLATTED, and stays in BOOT where neither passes. The model's own choices in it: log entries 13, 14, 16 and 76. -/
def Obligations.PowerGoodCompletes : Prop :=
  ∀ s, s.glb.state = .reset → s.pwr.pgood = true → s.nv.erasing = false → s.nv.tempLatch = false →
    Completes .powerGood s fun t =>
      (t.glb.state = .unplatted ∨ t.glb.state = .boot) ∧
      (∀ b, b = (if s.nv.fwFirst then s.nv.fw1 else s.nv.fw0) → fwCheck (setDev .boot s) b = 0 → s.nv.fusever.toNat ≤ u8At b 9 →
        t.glb.state = .unplatted ∧ t.sec.bootSlot = s.nv.fwFirst ∧ t.sec.secver = BitVec.ofNat 8 (u8At b 9) ∧
        t.sec.fwDigest = trailerDigest b) ∧
      t.hst.owner = s.hst.owner

/-- Sensors and the power governor (R35, R366, R367, R439, R443, R444). The model's own choices in it: log entries 3, 4, 44 and 79. -/
def Obligations.ModuleSensorsComplete : Prop :=
  (∀ dt tj inlet outlet vin iin pin vcore s, 30000 ≤ vin.toNat → s.pwr.trip = .none →
    (∀ n, n < 64 → celsius16 (tj.getD n 0 + (tget Sens.reset s.pwr.sens n).trimBy) < 1840) →
    Completes (.sensorSample dt tj inlet outlet vin iin pin vcore) s fun t =>
      (∀ n, n < 64 → (tget Sens.reset t.pwr.sens n).tj = tj.getD n 0 + (tget Sens.reset s.pwr.sens n).trimBy) ∧
      t.pwr.inlet = inlet ∧ t.pwr.outlet = outlet ∧ t.pwr.vin = vin ∧ t.pwr.iin = iin ∧ t.pwr.pinNow = pin ∧
      t.pwr.pinMax.toNat = max s.pwr.pinMax.toNat pin.toNat ∧ t.clk = s.clk + dt ∧ t.glb = s.glb) ∧
  (∀ dt tj inlet outlet vin iin pin vcore s n, 30000 ≤ vin.toNat → s.pwr.trip = .none → s.pwr.pgood = true → n < 64 →
    1840 ≤ celsius16 (tj.getD n 0 + (tget Sens.reset s.pwr.sens n).trimBy) →
    Completes (.sensorSample dt tj inlet outlet vin iin pin vcore) s fun t =>
      t.glb.state = .reset ∧ t.pwr.trip = .hot ∧ t.pwr.thermtrip = true ∧ t.pwr.faultLand = true ∧ t.pwr.cause = 2 ∧ t.pwr.pgood = false) ∧
  (∀ dt s, 3600 < s.pwr.pinNow.toNat → 1000000 ≤ s.clk + dt - s.pwr.govLast → s.pwr.plevel.toNat < 12 →
    Completes (.powerGovWithdraw dt) s fun t =>
      t.pwr.plevel.toNat = s.pwr.plevel.toNat + 1 ∧ t.pwr.pgov = true ∧ t.pwr.govLast = s.clk + dt ∧ t.pwr.event.getLsbD 1 = true) ∧
  (∀ dt s, s.pwr.pinNow.toNat ≤ 3400 → 100000000 ≤ s.clk + dt - s.pwr.govLast → s.pwr.plevel ≠ 0 →
    Completes (.powerGovReturn dt) s fun t =>
      t.pwr.plevel.toNat + 1 = s.pwr.plevel.toNat ∧ (t.pwr.pgov = false ↔ t.pwr.plevel = 0) ∧ t.pwr.govLast = s.clk + dt)

/-- The debug lands (R406, R445, R448, R452): with DBG_EN# low and the rails up every message that the lands hear is answered; one whose payload is not the one of its TYPE is BAD_FIELD; without the level that it needs, or outside BOOT, it is only answered LEVEL or NOT_RECOVERY; with DBG_EN# high or the rails down nothing is. The layout and the limits that a request is held to beyond those of its fields are the model's (log entry 81). The model's own choices in it: log entries 8, 81 and 87. -/
def Obligations.DebugLandsComplete : Prop :=
  (∀ codes seq s, HearsDebug s codes 0xC0 seq [] →
    Completes (.chalReq codes) s fun t =>
      t.sec.chal = some (Config.challenge s.fresh, s.clk) ∧
      ∃ e, CarriesDebug 0xC1 seq (digestBytes (Config.challenge s.fresh)) e ∧ t.out = e :: s.out) ∧
  (∀ x y seq resp ch t0 s u, HearsDebug s (x ++ y) 0xC2 seq resp → s.sec.chal = some (ch, t0) → s.clk - t0 < 60000000000 → unlockBad resp = false →
    (u8At resp 0 = 2 → s.glb.state = .unplatted) → u = dropChal { s with pwr.dbgRd := (decodeAll s.pwr.dbgRd (x ++ y)).2 } →
    Completes (.unlock x y) s fun t =>
      t.sec.chal = none ∧
      (unlockLeaf u ch resp = none → ∃ e, CarriesDebug 0xC3 seq (toLE 1 3 ++ zeros 3) e ∧ t.out.head? = some e) ∧
      (∀ c, unlockLeaf u ch resp = some c →
        t.sec.dbg = BitVec.ofNat 2 (u8At resp 0) ∧ ∃ e, CarriesDebug 0xC3 seq (toLE 1 0 ++ zeros 3) e ∧ t.out = e :: s.out)) ∧
  (∀ codes seq s, HearsDebug s codes 0xCB seq [] →
    Completes (.lock codes) s fun t => t.sec.dbg = 0 ∧ ∃ e, CarriesDebug 0xC3 seq (toLE 1 0 ++ zeros 3) e ∧ t.out = e :: s.out) ∧
  (∀ x y seq (action : Byte) s, HearsDebug s (x ++ y) 0xC8 seq [action] → s.sec.dbg.toNat = 2 → action.toNat ≤ 1 →
    Completes (.halt x y) s fun t =>
      (∃ rx tx, t.pwr = { s.pwr with halted := action == 0, dbgRd := rx, dbgTxRd := tx }) ∧ ∃ e, CarriesDebug 0xC3 seq (toLE 1 0 ++ zeros 3) e ∧ t.out = e :: s.out) ∧
  (∀ x y z seq b s, HearsDebug s (x ++ y ++ z) 0xC4 seq b → b.length = 8 → allZero (slice b 6 2) = true → 1 ≤ s.sec.dbg.toNat →
    u16At b 4 ≠ 0 → u16At b 4 ≤ 256 → u32At b 0 % 4 = 0 →
    Completes (.regRead x y z) s fun t => OnlyAnswers s 0xC5 seq (toLE 4 (u32At b 0) ++
      (List.range (u16At b 4)).flatMap (fun i => toLE 4 (readNow { s with pwr.dbgRd := (decodeAll s.pwr.dbgRd (x ++ y ++ z)).2 } .ha (u32At b 0 + 4 * i)))) t) ∧
  (∀ x y z w seq b s, HearsDebug s (x ++ y ++ z ++ w) 0xC6 seq b → memLaid b = true → b.length = 20 → s.sec.dbg.toNat = 2 → u8At b 0 ≤ 2 →
    u32At b 16 ≠ 0 → u32At b 16 ≤ 2032 →
    Completes (.memRead x y z w) s fun t => OnlyAnswers s 0xCC seq (toLE 8 (u64At b 8) ++ (List.range (u32At b 16)).map (fun i =>
      debugByte { s with pwr.dbgRd := (decodeAll s.pwr.dbgRd (x ++ y ++ z ++ w)).2 } (u8At b 0) (u64At b 8 + i))) t) ∧
  (∀ x y z w seq b s data, HearsDebug s (x ++ y ++ z ++ w) 0xC7 seq b → memLaid b = true → data = b.drop 20 → data.length = u32At b 16 → s.sec.dbg.toNat = 2 →
    data ≠ [] → data.length ≤ 2032 → u8At b 0 ≤ 2 → (u8At b 0 = 2 → u64At b 8 % 4 = 0 ∧ data.length % 4 = 0) →
    Completes (.memWrite x y z w) s fun t =>
      (∃ e, CarriesDebug 0xC3 seq (toLE 1 0 ++ zeros 3) e ∧ t.out.head? = some e) ∧
      (u8At b 0 = 0 → (∀ a, tget none t.pwr.mgmtMem a =
        if u64At b 8 ≤ a ∧ a < u64At b 8 + data.length then some (data.getD (a - u64At b 8) 0) else tget none s.pwr.mgmtMem a)) ∧
      (u8At b 0 = 1 → (∀ a, tget none t.pwr.hubSram a =
        if u64At b 8 ≤ a ∧ a < u64At b 8 + data.length then some (data.getD (a - u64At b 8) 0) else tget none s.pwr.hubSram a)) ∧
      (u8At b 0 = 2 → t.hst.ha.perst = s.hst.ha.perst)) ∧
  (∀ x y z seq b s data, HearsDebug s (x ++ y ++ z) 0xC9 seq b → 4 ≤ b.length → data = b.drop 4 → s.glb.state = .boot → u32At b 0 + data.length ≤ 33554432 →
    Completes (.fwChunk x y z) s fun t =>
      (∀ a, tget 0 t.pwr.recImage a =
        if u32At b 0 ≤ a ∧ a < u32At b 0 + data.length then data.getD (a - u32At b 0) 0 else tget 0 s.pwr.recImage a) ∧
      ∃ e, CarriesDebug 0xC3 seq (toLE 1 0 ++ zeros 3) e ∧ t.out = e :: s.out) ∧
  (∀ x y ok seq b s f, HearsDebug s (x ++ y) 0xCA seq b → b.length = 4 → s.glb.state = .boot →
    f = tgetL 0 s.pwr.recImage 0 (min (u32At b 0) 33554433) →
    Completes (.fwDone x y ok) s fun t =>
      if fwCheck s f = 0 ∧ ok = true then
        t.nv = { s.nv with fw0 := f } ∧ t.glb.state = .reset ∧ (s.pwr.trip = .none → s.pwr.vinLost = false → t.pwr.cause = 6) ∧
        ∃ e, CarriesDebug 0xC3 seq (toLE 1 0 ++ zeros 3) e ∧ t.out = e :: s.out
      else t.glb.state = .boot ∧ ∃ e, CarriesDebug 0xC3 seq (toLE 1 3 ++ zeros 3) e ∧ t.out.head? = some e) ∧
  (∀ asserted s, Completes (.dbgEnChange asserted) s fun t => t = { s with pwr.dbgEn := asserted, pwr.dbgRd := false, pwr.dbgTxRd := false }) ∧
  (∀ cmd s, (s.pwr.supply = .on ∨ s.pwr.vinLost = false) →
    Completes (.smbusBlockRead cmd false) s (fun t =>
      t = { s with out := .smbus ((smbusReg s cmd.toNat).map (BitVec.ofNat 32 ·)) :: s.out }) ∧
    Completes (.smbusBlockRead cmd true) s (fun t => t = { s with out := .smbus none :: s.out })) ∧
  (∀ x y z seq b s, HearsDebug s (x ++ y ++ z) 0xC4 seq b → b.length = 8 → allZero (slice b 6 2) = true → s.sec.dbg = 0 →
    Completes (.regRead x y z) s fun t => OnlyAnswers s 0xC3 seq (toLE 1 9 ++ zeros 3) t) ∧
  (∀ x y z w seq b s, HearsDebug s (x ++ y ++ z ++ w) 0xC6 seq b → memLaid b = true → b.length = 20 → s.sec.dbg.toNat < 2 →
    Completes (.memRead x y z w) s fun t => OnlyAnswers s 0xC3 seq (toLE 1 9 ++ zeros 3) t) ∧
  (∀ x y z w seq b s, HearsDebug s (x ++ y ++ z ++ w) 0xC7 seq b → memLaid b = true → b.length = 20 + u32At b 16 → s.sec.dbg.toNat < 2 →
    Completes (.memWrite x y z w) s fun t => OnlyAnswers s 0xC3 seq (toLE 1 9 ++ zeros 3) t) ∧
  (∀ x y seq b s, HearsDebug s (x ++ y) 0xC8 seq b → b.length = 1 → s.sec.dbg.toNat < 2 →
    Completes (.halt x y) s fun t => OnlyAnswers s 0xC3 seq (toLE 1 9 ++ zeros 3) t) ∧
  (∀ x y z seq b s, HearsDebug s (x ++ y ++ z) 0xC9 seq b → 4 ≤ b.length → s.glb.state ≠ .boot →
    Completes (.fwChunk x y z) s fun t => OnlyAnswers s 0xC3 seq (toLE 1 0x0A ++ zeros 3) t) ∧
  (∀ x y ok seq b s, HearsDebug s (x ++ y) 0xCA seq b → b.length = 4 → s.glb.state ≠ .boot →
    Completes (.fwDone x y ok) s fun t => OnlyAnswers s 0xC3 seq (toLE 1 0x0A ++ zeros 3) t) ∧
  (∀ codes seq b s, HearsDebug s codes 0xC0 seq b → b ≠ [] →
    Completes (.chalReq codes) s fun t => OnlyAnswers s 0xC3 seq (toLE 1 1 ++ zeros 3) t) ∧
  (∀ x y z seq b s, HearsDebug s (x ++ y ++ z) 0xC4 seq b → b.length ≠ 8 →
    Completes (.regRead x y z) s fun t => OnlyAnswers s 0xC3 seq (toLE 1 1 ++ zeros 3) t) ∧
  (∀ codes x y z ok i s, s.dbgOn = false →
    (i = .chalReq codes ∨ i = .lock codes ∨ i = .unlock codes x ∨ i = .regRead codes x y ∨ i = .memRead codes x y z ∨
      i = .memWrite codes x y z ∨ i = .halt codes x ∨ i = .fwChunk codes x y ∨ i = .fwDone codes x ok) →
    Completes i s fun t => t = s)

/-- The host lease (R391): CLAIM, RENEW, YIELD, FORCE and the lapse, with the owner, the end and the status the rules give; RENEW and YIELD of a port that does not own answer NOT_OWNER, and FORCE with a wrong or late nonce, or without a claim, BAD_NONCE. The model's own choices in it: log entries 4, 7 and 28. -/
def Obligations.HostLeaseCommandsComplete : Prop :=
  (∀ p s, (s.host p).perst = false → s.booted = true → s.hst.owner = none →
    Completes (.claim p) s fun t =>
      t.hst.owner = some p ∧ t.hst.leaseEnd = s.clk + 50000000 ∧ (t.host p).takeStatus = 0) ∧
  (∀ p s i, Owner p s → i = .claim p ∨ i = .hostRenew p →
    Completes i s fun t =>
      t.hst.owner = some p ∧ t.hst.leaseEnd = s.clk + 50000000 ∧ t.hst.pend = s.hst.pend ∧ (t.host p).takeStatus = 0) ∧
  (∀ p q s, (s.host p).perst = false → s.booted = true → s.hst.owner = some q → q ≠ p →
    Completes (.claim p) s fun t =>
      t.hst.owner = some q ∧ t.hst.leaseEnd = s.hst.leaseEnd ∧ (t.host p).takeStatus = 1 ∧
      (∃ c, t.hst.pend = some c ∧ c.port = p ∧ c.since = s.clk ∧ (t.host p).nonce = c.nonce ∧
        c.nonce = BitVec.ofNat 16 (Config.freeWord s.fresh).toNat)) ∧
  (∀ p s, Owner p s →
    Completes (.hostYield p) s fun t =>
      (s.hst.pend = none → t.hst.owner = none) ∧
      (∀ c, s.hst.pend = some c → t.hst.owner = some c.port ∧ t.hst.leaseEnd = s.clk + 50000000) ∧
      t.hst.pend = none ∧ (t.host p).takeStatus = 0) ∧
  (∀ p nonce since s, (s.host p).perst = false → s.booted = true → s.hst.owner ≠ some p → s.hst.pend = some ⟨p, nonce, since⟩ →
    s.clk - since ≤ 10000000 →
    Completes (.force p nonce) s fun t =>
      t.hst.owner = some p ∧ t.hst.leaseEnd = s.clk + 50000000 ∧ t.hst.pend = none ∧ (t.host p).takeStatus = 0) ∧
  (∀ dt q s, s.hst.owner = some q → s.hst.leaseEnd ≤ s.clk + dt →
    Completes (.hostLeaseLapse dt) s fun t =>
      (s.hst.pend = none → t.hst.owner = none) ∧
      (∀ c, s.hst.pend = some c → t.hst.owner = some c.port ∧ t.hst.leaseEnd = s.clk + dt + 50000000)) ∧
  (∀ p s i, Stranger p s → (i = .hostRenew p ∨ i = .hostYield p) →
    Completes i s fun t => t = s.modHost p (fun h => { h with takeStatus := 2 })) ∧
  (∀ p nonce s, Stranger p s →
    (∀ c, s.hst.pend = some c → c.port = p → c.nonce = nonce → 10000000 < s.clk - c.since) →
    Completes (.force p nonce) s fun t => t = s.modHost p (fun h => { h with takeStatus := 3 }))

/-- The ports (R382 to R384, R387, R388, R390): PERST# and FLR reset the port and end its lease, from the deassertion of PERST# the port answers configuration requests with the identity and the limits in force (the limits come with that command: log entry 99), a bad access is counted, and the window reads and writes LPDDR5X. The model's own choices in it: log entries 1, 8, 28 and 99. -/
def Obligations.HostPortsComplete : Prop :=
  (∀ p s, Completes (.perst p) s fun t =>
    (t.host p).perst = true ∧ (t.host p).cfg = PciCfg.reset ∧ (t.host p).win = 0 ∧ (t.host p).width = 0 ∧ (t.host p).dma = [] ∧
    t.hst.owner ≠ some p ∧ (∀ c, t.hst.pend = some c → c.port ≠ p) ∧ t.glb = s.glb ∧ t.res = s.res ∧ t.ram = s.ram) ∧
  (∀ p (link : PcieLink) mps mrrs s, Completes (.perstDeassert p link mps mrrs) s fun t =>
    t.host p = { s.host p with perst := false, speed := link.speed, width := link.width, flit := link.flit, cfg := { (s.host p).cfg with mps := mps, mrrs := mrrs } } ∧
    (∀ q, q ≠ p → t.host q = s.host q) ∧ t.hst.owner = s.hst.owner ∧ t.glb = s.glb ∧ t.res = s.res ∧ t.ram = s.ram ∧
    t.out = if s.glb.state = .reset then s.out else .config p { (s.host p).cfg with mps := mps, mrrs := mrrs } :: s.out) ∧
  (∀ p s, (s.host p).perst = false → Completes (.flr p) s fun t =>
    (t.host p).perst = false ∧ (t.host p).cfg = (s.host p).cfg ∧ (t.host p).win = 0 ∧ (t.host p).dma = [] ∧
    t.hst.owner ≠ some p ∧ (∀ c, t.hst.pend = some c → c.port ≠ p) ∧ t.glb = s.glb ∧ t.res = s.res ∧ t.ram = s.ram) ∧
  (∀ p s, (s.host p).perst = false →
    Completes (.bar0BadAccess p true) s (fun t => t = count (evNo 2 0x002 (portIdx p)) s) ∧
    Completes (.bar0BadAccess p false) s (fun t => t = emit (.hostRead p none) (count (evNo 2 0x002 (portIdx p)) s))) ∧
  (∀ p off len a s, (s.host p).perst = false → s.booted = true → a = (s.host p).win.toNat * 2 ^ 30 + off.toNat →
    Completes (.bar2Access p off len none) s fun t =>
      t.out.head? = some (.hostRead p (some (rdMem s a len))) ∧ t.ram = s.ram) ∧
  (∀ p off len data a s, Owner p s → a = (s.host p).win.toNat * 2 ^ 30 + off.toNat →
    Completes (.bar2Access p off len (some data)) s fun t =>
      ∀ b, tget 0 t.ram b = if a ≤ b ∧ b < a + data.length ∧ b < s.capacity then data.getD (b - a) 0 else tget 0 s.ram b)

/-- DMA and interrupt holdoffs (R393, R395): PROD and RESET set the channel, a descriptor that completes moves its bytes, writes its STATUS and advances CONS, and a holdoff's end sends one message. The model's own choices in it: log entries 8, 29 and 30. -/
def Obligations.HostChannelsComplete : Prop :=
  (∀ p (c : Fin 16) idx s, (s.host p).perst = false → s.booted = true →
    Completes (.dmaProd p c idx) s fun t =>
      (t.dmaOf p c.val).prod = idx ∧ (t.dmaOf p c.val).cons = (s.dmaOf p c.val).cons ∧
      ((s.dmaOf p c.val).st ≠ .stopped →
        ((t.dmaOf p c.val).st = .running ↔ (s.dmaOf p c.val).enable = true ∧ (s.dmaOf p c.val).cons ≠ idx))) ∧
  (∀ p (c : Fin 16) s, (s.host p).perst = false → s.booted = true →
    Completes (.dmaReset p c) s fun t =>
      (t.dmaOf p c.val).prod = 0 ∧ (t.dmaOf p c.val).cons = 0 ∧ (t.dmaOf p c.val).st = .idle ∧ (t.dmaOf p c.val).enable = false ∧
      (t.dmaOf p c.val).err = 0 ∧ (t.dmaOf p c.val).ring = (s.dmaOf p c.val).ring) ∧
  (∀ p (c : Fin 16) desc data started s dev len, (s.host p).perst = false → (s.dmaOf p c.val).st = .running → s.hst.owner = some p →
    dev = u64At desc 8 → len = u32At desc 16 → len ≠ 0 → len ≤ 16777216 → u16At desc 20 < 8 → slice desc 22 2 = [0, 0] →
    dev + len ≤ s.capacity → (u16At desc 20) % 2 = 0 → (u16At desc 20) / 2 % 2 = 0 →
    Completes (.dmaDescriptorDone p c desc data started false) s fun t =>
      (∀ a, tget 0 t.ram a = if dev ≤ a ∧ a < dev + len then data.getD (a - dev) 0 else tget 0 s.ram a) ∧
      (t.dmaOf p c.val).cons = BitVec.ofNat 16 (((s.dmaOf p c.val).cons.toNat + 1) % 2 ^ (s.dmaOf p c.val).log2.toNat) ∧
      t.out.head? = some (.hostWrite p ((s.dmaOf p c.val).ring + BitVec.ofNat 64 (32 * (s.dmaOf p c.val).cons.toNat + 28)) (toLE 4 0x80000000))) ∧
  (∀ p (c : Fin 16) desc data started s dev len, (s.host p).perst = false → (s.dmaOf p c.val).st = .running →
    dev = u64At desc 8 → len = u32At desc 16 → len ≠ 0 → len ≤ 16777216 → u16At desc 20 = 1 → slice desc 22 2 = [0, 0] →
    dev + len ≤ s.capacity →
    Completes (.dmaDescriptorDone p c desc data started false) s fun t =>
      t.ram = s.ram ∧
      t.out = .hostWrite p ((s.dmaOf p c.val).ring + BitVec.ofNat 64 (32 * (s.dmaOf p c.val).cons.toNat + 28)) (toLE 4 0x80000000) ::
        .hostWrite p (BitVec.ofNat 64 (u64At desc 0)) (rdMem s dev len) :: s.out) ∧
  (∀ p (c : Fin 16) desc data started s, (s.host p).perst = false → (s.dmaOf p c.val).st = .running → u32At desc 16 = 0 →
    Completes (.dmaDescriptorDone p c desc data started false) s fun t =>
      t.ram = s.ram ∧ (t.dmaOf p c.val).st = .stopped ∧ (t.dmaOf p c.val).err = 4) ∧
  (∀ dt p (src : Fin 32) m s, m = tget (IrqMap.reset src.val) (s.host p).irq src.val → m.fired = true → m.holdEnd ≤ s.clk + dt → m.en = true →
    Completes (.msixHoldoffEnd dt p src) s fun t =>
      (tget (IrqMap.reset src.val) (t.host p).irq src.val).fired = false ∧
      ((tget MsixEntry.reset (s.host p).msix m.vector.toNat).masked = false ∧
        t.out.head? = some (.msix p (tget MsixEntry.reset (s.host p).msix m.vector.toNat).addr (tget MsixEntry.reset (s.host p).msix m.vector.toNat).data) ∨
      (tget MsixEntry.reset (s.host p).msix m.vector.toNat).masked = true ∧ tget false (t.host p).pba m.vector.toNat = true))

/-- The mailbox (R396, R397, R409): each command completes with its RESULT, its output in the buffer and the flash region it writes. The model's own choices in it: log entries 5, 13 and 31. -/
def Obligations.MailboxCommandsComplete : Prop :=
  (∀ p s, Owner p s → s.hst.mbBusy = false →
    Completes (.fwInfo p) s fun t =>
      t.hst.mbResult = 0 ∧ t.hst.mbOut = 64 ∧
      (s.hst.mbBuf.toNat + 64 ≤ s.capacity → rdMem t s.hst.mbBuf.toNat 64 =
        toLE 4 s.sec.fwver.toNat ++ toLE 1 (b2n s.sec.bootSlot) ++ zeros 27 ++ digestBytes s.sec.fwDigest)) ∧
  (∀ p s f, Owner p s → s.hst.mbBusy = false → s.hst.arg0.toNat ≤ 3 → (s.hst.arg0 = 2 → s.hst.arg1.toNat ≤ 15) →
    s.hst.arg2.toNat + s.hst.arg3.toNat ≤ 4194304 → s.flashRegion s.hst.arg0.toNat s.hst.arg1.toNat = some f →
    Completes (.flashRead p) s fun t =>
      t.hst.mbResult = 0 ∧ t.hst.mbOut = BitVec.ofNat 32 s.hst.arg3.toNat ∧ t.nv = s.nv ∧
      (s.hst.mbBuf.toNat + s.hst.arg3.toNat ≤ s.capacity → ∀ i, i < s.hst.arg3.toNat →
        tget 0 t.ram (s.hst.mbBuf.toNat + i) = f (s.hst.arg2.toNat + i))) ∧
  (∀ p ok b s, Owner p s → s.hst.mbBusy = false → s.hst.arg0.toNat ≤ 1 → s.hst.arg3 ≠ 0 → s.hst.arg3.toNat ≤ 4194304 →
    b = rdMem s s.hst.mbBuf.toNat s.hst.arg3.toNat → u32At b 0 = 0x504C4154 → u32At b 16 = s.hst.arg3.toNat →
    Completes (.platWrite p ok) s fun t =>
      if ok = false then t.hst.mbResult = 6
      else t.hst.mbResult = 0 ∧ t.nv = if s.hst.arg0 = 1 then { s.nv with plat1 := b } else { s.nv with plat0 := b }) ∧
  (∀ p ok s, Owner p s → s.hst.mbBusy = false → s.hst.arg0.toNat ≤ 1 →
    Completes (.setActive p ok) s fun t =>
      if ok = false then t.hst.mbResult = 6 ∧ t.nv = s.nv
      else t.hst.mbResult = 0 ∧ t.nv = { s.nv with active := s.hst.arg0 == 1 }) ∧
  (∀ p ok s, Owner p s → s.hst.mbBusy = false → s.hst.arg0.toNat ≤ 15 → s.hst.arg3 = 0 →
    Completes (.partialWrite p ok) s fun t =>
      (t.hst.mbResult = if ok = false then 6 else 0) ∧ tget [] t.nv.partials s.hst.arg0.toNat = []) ∧
  (∀ p b s, Owner p s → s.hst.mbBusy = false → s.hst.arg0.toNat ≤ 15 → s.hst.arg3 ≠ 0 → s.hst.arg3.toNat ≤ 4194304 →
    b = rdMem s s.hst.mbBuf.toNat s.hst.arg3.toNat → isPartial b = true → platDistrict b = s.hst.arg0.toNat →
    Completes (.partialWrite p true) s fun t =>
      t.hst.mbResult = 0 ∧ tget [] t.nv.partials s.hst.arg0.toNat = b ∧
      (∀ d, d ≠ s.hst.arg0.toNat → tget [] t.nv.partials d = tget [] s.nv.partials d)) ∧
  (∀ p ok b s, Owner p s → s.hst.mbBusy = false → b = rdMem s s.hst.mbBuf.toNat s.hst.arg3.toNat →
    Completes (.fwWrite p ok) s fun t =>
      if fwCheck s b = 0 ∧ s.nv.fusever.toNat ≤ u8At b 9 then
        if ok = true then t.hst.mbResult = 0 ∧ t.nv.fwFirst = !s.sec.bootSlot ∧ (if s.sec.bootSlot then t.nv.fw0 = b ∧ t.nv.fw1 = s.nv.fw1 else t.nv.fw1 = b ∧ t.nv.fw0 = s.nv.fw0)
        else t.hst.mbResult = 6 ∧ t.nv.fwFirst = s.nv.fwFirst
      else t.hst.mbResult = 7 ∧ t.nv.fw0 = s.nv.fw0 ∧ t.nv.fw1 = s.nv.fw1) ∧
  (∀ p b s, Owner p s → s.hst.mbBusy = false → s.ikUsable = true → b = reportBody s →
    Completes (.attest p) s fun t =>
      t.hst.mbResult = 0 ∧ t.hst.mbOut.toNat = b.length + 64 ∧
      (s.hst.mbBuf.toNat + b.length + 64 ≤ s.capacity → rdMem t s.hst.mbBuf.toNat (b.length + 64) =
        b ++ pointBytes (Config.sm2Sign s.nv.devid (Config.sm3 b))))

/-- A packet's path (R68, R96, R161, R164, R166): a packet whose header fails its HCRC is discarded and counted, and from an ingress FIFO, a policer, a producer or a waiting replication a packet that may go on joins its output queue. The model's own choices in it: log entries 4, 35, 36, 43, 92 and 93. -/
def Obligations.PacketPathsComplete : Prop :=
  (∀ (port : Port) bytes ups s, s.up port.val = true → s.isC2 port.val = false → hcrcOk3 bytes = false →
    Completes (.packetIngress port bytes ups) s fun t =>
      t = setLnkErr port.val 1 (discard 14 { h := hdrOf bytes, payload := slice bytes 32 (hdrOf bytes).len, tin := s.now, inPort := port.val, c2 := false, counted := false } none s) ∧
      t.fwd = s.fwd ∧ (s.swc.capture = false → t.swc = s.swc)) ∧
  (∀ (port : Port) (tc : BitVec 3) h rest q s, s.fifo port.val tc.toNat = h :: rest → h.policed = false → s.aged h.pkt = false →
    h.dest = .hop (.port q) → s.up q = true → s.dist (districtOf q) ≠ .draining →
    s.roomFor q h.pkt.h.tc h.pkt.cells = true → NoMirrorEnd q h.pkt s → PlainSwitch s →
    Completes (.ingressHoldRelease port tc) s fun t =>
      t.fifo port.val tc.toNat = rest ∧ JoinsQueue q h.pkt s t) ∧
  (∀ dt (port : Port) (tc : Fin 8) h rest q s u, u = fillPolicer port.val (elapse dt s) →
    (∀ k, k < 8 → k ≠ tc.val → s.fifo port.val k = []) → s.fifo port.val tc.val = h :: rest → h.policed = true →
    tc.val ≠ 5 → tc.val ≠ 6 → u.aged h.pkt = false → 4 * h.pkt.size ≤ (u.sched port.val).bucket →
    h.pkt.inPort = port.val → h.pkt.h.tc = tc.val →
    s.reorders h.pkt = false → h.dest = .hop (.port q) → s.up q = true → s.dist (districtOf q) ≠ .draining →
    s.roomFor q h.pkt.h.tc h.pkt.cells = true → NoMirrorEnd q h.pkt s → PlainSwitch s → (∀ e, e ∈ rest → e.policed = true) →
    Completes (.policerRelease dt port) s fun t =>
      t.fifo port.val tc.val = rest ∧ (t.sched port.val).bucket + 4 * h.pkt.size = (u.sched port.val).bucket ∧ JoinsQueue q h.pkt s t) ∧
  (∀ i w q s, s.swc.prod[i]? = some w → w.hop = .port q → s.up q = true → (w.stampAtEnqueue = true ∨ s.aged w.pkt = false) →
    w.notBefore ≤ s.now → w.pkt.h.isSched = false → w.pkt.result = none → s.dist (districtOf q) ≠ .draining → 2048 ≤ w.pkt.inPort → s.fwd.mgmtEid ≠ 0 →
    s.glb.state ≠ .cordoned → s.roomFor q w.pkt.h.tc w.pkt.cells = true → PlainSwitch s →
    Completes (.producerEnqueue i) s fun t =>
      t.swc.prod = s.swc.prod.eraseIdx i ∧ JoinsQueue q (if w.stampAtEnqueue then { w.pkt with tin := s.now } else w.pkt) s t) ∧
  (∀ i w r q s, s.swc.repl[i]? = some w → w.idx + 1 = w.count → r = tget Ent2.zero s.fwd.repl (w.base + w.idx) →
    bitAt r.w1.toNat 31 = true → s.badAt 9 false (w.base + w.idx) = false → s.badAt 6 w.pkt.h.epoch r.w0.toNat = false →
    s.exact w.pkt.h.epoch r.w0 = none → hopOf (fld r.w1.toNat 26 2) (fld r.w1.toNat 0 11) = .port q → s.reorders w.pkt = false →
    s.dist (districtOf q) ≠ .draining → s.aged w.pkt = false → s.up q = true → s.roomFor q w.pkt.h.tc w.pkt.cells = true → PlainSwitch s →
    Completes (.replicationResume i) s fun t =>
      t.swc.repl = s.swc.repl.eraseIdx i ∧ JoinsQueue q { w.pkt with counted := false, cred := false } s t) ∧
  (∀ dt (port : Port) tc p rest o s u, u = fillG port.val (elapse dt s) → s.up port.val = true → s.glb.state ≠ .cordoned →
    pickQueue u port.val = some tc → (s.queue (queueKey port.val tc)).items = .pkt p :: rest → p.h.tc = tc → p.h.kind ≠ 9 →
    u.aged p = false → txForm u port.val p = some o →
    Completes (.transmitOpportunity dt port) s fun t =>
      (t.link port.val).txPkts = (s.link port.val).txPkts ++ [(o, if s.isC2 port.val then o.wire2 else o.wire3)] ∧
      (t.queue (queueKey port.val tc)).items = (frontMarkers rest).2 ∧
      (creditClass o.h.tc = true → tget 0 (t.link port.val).txBal o.h.tc = tget 0 (s.link port.val).txBal o.h.tc - creditsOf (linkSize u port.val o)))

/-- What leaves the ingress stage enters a queue (R87, R150, R160): an unscheduled packet toward a port with room joins that port's queue. The model's own choices in it: log entries 32 and 35. -/
def Obligations.PacketJoinsItsQueue : Prop :=
  ∀ p q s, s.up q = true → s.aged p = false → s.dist (districtOf q) ≠ .draining → s.roomFor q p.h.tc p.cells = true →
    NoMirrorEnd q p s → PlainSwitch s →
    (placeHop (.port q) p s).2 = true ∧ JoinsQueue q p s (placeHop (.port q) p s).1 ∧
    (∀ k, k ≠ queueKey q p.h.tc → ((placeHop (.port q) p s).1.queue k).items = (s.queue k).items)

/-- Upkeep of the switch core (R165, R170, R171, R174, R178, R184): sweeps, retirements, timeouts and resets complete with what the rules leave. The model's own choices in it: log entries 34, 39, 40, 41 and 93. -/
def Obligations.SwitchUpkeepComplete : Prop :=
  (∀ dt (d : Fin 16) s, PlainSwitch s →
    Completes (.windfallSweep dt d) s fun t =>
      t.clk = s.clk + dt ∧ ∀ p, p ∈ s.distPorts d.val → ∀ tc, tc < 8 → ∀ it k, it ∈ (t.queue (queueKey p tc)).items → it = .pkt k → t.aged k = false) ∧
  (∀ dt (d : Fin 16) s, Completes (.sprayCounterRelease dt d) s fun t =>
    (∀ c, c ∈ tget [] t.swc.spray d.val ↔ c ∈ tget [] s.swc.spray d.val ∧ s.clk + dt - c.last < s.maxAge + 2000000) ∧
    (∀ e, e ≠ d.val → tget [] t.swc.spray e = tget [] s.swc.spray e)) ∧
  (∀ dt (b : Fin 2048) (k : Byte) r s, tget none s.swc.bucket (256 * b.val + k.toNat) = some r → 1000000 ≤ s.clk + dt - r.last →
    s.up ((s.bundlePorts b.val).getD (k.toNat % max 1 (s.bundlePorts b.val).length) 0) = true →
    Completes (.bucketReturn dt b k) s fun t =>
      tget none t.swc.bucket (256 * b.val + k.toNat) = none ∧
      (∀ j, j ≠ 256 * b.val + k.toNat → tget none t.swc.bucket j = tget none s.swc.bucket j)) ∧
  (∀ dt (d : Fin 16) c p q at_ s, s.ro d.val = [c] → c.held = [(p, .hop (.port q), at_)] → s.roTmo ≤ s.clk + dt - at_ → p.h.kind ≠ 9 →
    c.next = none → (elapse dt s).aged p = false → p.h.isSched = true → s.up q = true → s.dist (districtOf q) ≠ .draining →
    s.roomFor q p.h.tc p.cells = true → NoMirrorEnd q p s → PlainSwitch s →
    Completes (.reorderTimeout dt d) s fun t =>
      (∃ c', t.ro d.val = [c'] ∧ c'.held = [] ∧ c'.next = some (BitVec.ofNat 32 (seqAfter c.c2 p.h.seq.toNat))) ∧ JoinsQueue q p s t) ∧
  (∀ dt (d : Fin 16) s, Completes (.reorderRetire dt d) s fun t =>
    (∀ c, c ∈ t.ro d.val ↔ c ∈ s.ro d.val ∧ ¬ (c.held = [] ∧ 1000000 ≤ s.clk + dt - c.last)) ∧
    (∀ e, e ≠ d.val → t.ro e = s.ro e)) ∧
  (∀ dt k n s, k = (elapse dt s).now / s.smpPeriodNs → k ≠ s.swc.lastSweep → s.swc.sample = true → s.ports = [] →
    n = 2 ^ s.swc.smpSize.toNat → s.swc.smpHead = s.swc.smpTail → 2 ≤ n → n ≤ 2 ^ 24 → s.swc.smpHead.toNat < n →
    s.swc.smpBase.toNat + 16 * n ≤ s.capacity →
    Completes (.sampleSweep dt) s fun t =>
      t.swc.lastSweep = k ∧ t.swc.smpHead.toNat = (s.swc.smpHead.toNat + 1) % n ∧
      rdMem t (s.swc.smpBase.toNat + 16 * s.swc.smpHead.toNat) 16 = toLE 4 0x80000000 ++ zeros 4 ++ toLE 8 (k * s.smpPeriodNs)) ∧
  (∀ dt k recs s, k = (elapse dt s).now / s.smpPeriodNs → k ≠ s.swc.lastSweep → s.swc.sample = true →
    recs = (s.ports.flatMap (fun p => (List.range 8).map (queueKey p))).filter
      (fun q => !s.swc.nonempty || (s.queue q).depth != 0 || (s.queue q).smax != 0) →
    (s.swc.smpTail.toNat % 2 ^ s.swc.smpSize.toNat + 2 ^ s.swc.smpSize.toNat - s.swc.smpHead.toNat % 2 ^ s.swc.smpSize.toNat - 1) % 2 ^ s.swc.smpSize.toNat
      < recs.length + 1 →
    Completes (.sampleSweep dt) s fun t =>
      t.swc.lastSweep = k ∧ t.swc.smpHead = s.swc.smpHead ∧ t.swc.q = s.swc.q ∧ t.swc.event = setBit s.swc.event 1 true ∧ t.ram = s.ram) ∧
  (∀ p (port : Port) (tc : BitVec 3) s, Owner p s → Completes (.qmaxReset p port tc) s fun t =>
    t = s.modQueue (queueKey port.val tc.toNat) (fun q => { q with maxd := q.depth }))

/-- Commands on the forwarding tables (R135, R140 to R142, R148, R151, R158): what each leaves in the tables, in FWD_INDEX and FWD_DATA, and in FWD_CSTAT. The model's own choices in it: log entries 15 and 18. -/
def Obligations.TableCommandsComplete : Prop :=
  (∀ p (tbl : BitVec 4) b s, Owner p s → s.fwd.busy = false → 3 ≤ s.glb.state.code → tbl ≠ 6 →
    s.fwd.index.toNat < tableSize tbl.toNat → s.badAt tbl.toNat b s.fwd.index.toNat = false →
    Completes (.fwdRead p tbl b) s fun t =>
      [t.fwd.data0, t.fwd.data1, t.fwd.data2, t.fwd.data3] = tableWords s tbl.toNat b s.fwd.index.toNat ∧ t.fwd.status = 0 ∧
      t.fwd.index = s.fwd.index ∧ t.fwd.bankA = s.fwd.bankA ∧ t.fwd.bankB = s.fwd.bankB ∧ t.fwd.wseq = s.fwd.wseq) ∧
  (∀ p (tbl : BitVec 4) b s, Owner p s → s.fwd.busy = false → 3 ≤ s.glb.state.code → tbl.toNat ≤ 5 →
    s.fwd.index.toNat < tableSize tbl.toNat → s.bankState b = .free →
    Completes (.fwdWrite p tbl b) s fun t =>
      t.fwd.status = 0 ∧ t.fwd.wseq = s.fwd.wseq + 1 ∧
      (∀ tb c i, tb ≤ 5 → tableWords t tb c i =
        if tb = tbl.toNat ∧ c = b ∧ i = s.fwd.index.toNat then [s.fwd.data0, s.fwd.data1, 0, 0] else tableWords s tb c i) ∧
      (∀ c e, t.exact c e = s.exact c e)) ∧
  (∀ p (tbl : BitVec 4) b s, Owner p s → s.fwd.busy = false → 3 ≤ s.glb.state.code → tbl.toNat ≤ 5 →
    s.fwd.index.toNat < tableSize tbl.toNat → s.bankState b ≠ .free →
    Completes (.fwdWrite p tbl b) s fun t => t.fwd = { s.fwd with status := 1 }) ∧
  (∀ p b s, Owner p s → s.fwd.busy = false → 3 ≤ s.glb.state.code → s.bankState b = .free →
    (s.exact b s.fwd.data0 = none → (s.bank b).count < 1048576) →
    Completes (.exInsert p 6 b) s fun t =>
      t.fwd.status = 0 ∧ t.fwd.wseq = s.fwd.wseq + 1 ∧ t.fwd.index = BitVec.ofNat 23 (s.slotOf b s.fwd.data0) ∧
      (∀ c e, t.exact c e = if c = b ∧ e = s.fwd.data0 then
        some (exactOf s.fwd.data1 s.fwd.data2 (((s.exact b e).map ExactEnt.cordon).getD false) (s.slotOf b e)) else s.exact c e)) ∧
  (∀ p b x s, Owner p s → s.fwd.busy = false → 3 ≤ s.glb.state.code → s.bankState b = .free → s.exact b s.fwd.data0 = some x →
    Completes (.exDelete p 6 b) s fun t =>
      t.fwd.status = 0 ∧ t.fwd.wseq = s.fwd.wseq + 1 ∧
      (∀ c e, t.exact c e = if c = b ∧ e = s.fwd.data0 then (if x.cordon then some { x with route := false } else none) else s.exact c e)) ∧
  (∀ p b x s, Owner p s → s.fwd.busy = false → 3 ≤ s.glb.state.code → s.exact b s.fwd.data0 = some x →
    s.badAt 6 b s.fwd.data0.toNat = false →
    Completes (.exLookup p 6 b) s fun t =>
      ∃ m, t.fwd = { s.fwd with soft := m, status := 0, index := BitVec.ofNat 23 x.slot.toNat, data1 := BitVec.ofNat 32 (exactWord1 x), data2 := x.tag, data3 := 0 }) ∧
  (∀ p s u, Owner p s → s.fwd.busy = false → 3 ≤ s.glb.state.code → missingStatus s.fwd.data0 [false, true] s = (u, 0) →
    (∀ b, s.exact b s.fwd.data0 = none → (s.bank b).count < 1048576) →
    Completes (.liveInsert p) s fun t =>
      t.fwd.status = 0 ∧ t.fwd.wseq = u.fwd.wseq + 1 ∧
      (∀ c e, t.exact c e = if e = s.fwd.data0 then
        some { exactOf s.fwd.data1 s.fwd.data2 (((s.exact c e).map ExactEnt.cordon).getD false) (s.slotOf c e) with route := true } else s.exact c e)) ∧
  (∀ p s, Owner p s → s.fwd.busy = false → 3 ≤ s.glb.state.code →
    (∀ b, s.exact b s.fwd.data0 = none → (s.bank b).count < 1114112) →
    Completes (.cordonSet p) s fun t =>
      t.fwd.status = 0 ∧ t.fwd.wseq = s.fwd.wseq + 1 ∧
      (∀ c e, t.exact c e = if e = s.fwd.data0 then
        some (match s.exact c e with | some x => { x with cordon := true } | none => ⟨true, false, 0, 0, 0, BitVec.ofNat 22 (s.slotOf c e)⟩) else s.exact c e)) ∧
  (∀ p s, Owner p s → s.fwd.busy = false → 3 ≤ s.glb.state.code →
    (s.exact false s.fwd.data0 ≠ none ∨ s.exact true s.fwd.data0 ≠ none) →
    Completes (.cordonClr p) s fun t =>
      t.fwd.status = 0 ∧ t.fwd.wseq = s.fwd.wseq + 1 ∧
      (∀ c e, t.exact c e = if e = s.fwd.data0 then
        (match s.exact c e with | some x => if x.route then some { x with cordon := false } else none | none => none) else s.exact c e)) ∧
  (∀ p b s, Owner p s → s.fwd.busy = false → 3 ≤ s.glb.state.code → bitAt s.fwd.data1.toNat 31 = true →
    (s.exact b s.fwd.data0 = none → (s.bank b).count < 1114112) →
    Completes (.repair p 6 b) s fun t =>
      t.fwd.status = 0 ∧ t.fwd.wseq = s.fwd.wseq + 1 ∧ t.badAt 6 b s.fwd.data0.toNat = false ∧
      (∀ c e, t.exact c e = if c = b ∧ e = s.fwd.data0 then
        some (exactOf s.fwd.data1 s.fwd.data2 (bitAt s.fwd.data1.toNat 30) (s.slotOf b e)) else s.exact c e))

/-- Routing epochs (R149, R150): FLIP makes the FREE bank LIVE and the LIVE one DRAINING and is refused while one drains, and CONFIRM frees a drained bank. The model's own choices in it: log entry 32. -/
def Obligations.EpochCommandsComplete : Prop :=
  (∀ p s, Owner p s → s.fwd.busy = false → 3 ≤ s.glb.state.code → s.fwd.stA ≠ .draining → s.fwd.stB ≠ .draining →
    Completes (.flip p) s fun t =>
      t.fwd.cur = !s.fwd.cur ∧ t.bankState (!s.fwd.cur) = .live ∧ t.bankState s.fwd.cur = .draining ∧ t.fwd.status = 0 ∧
      t.fwd.bankA = s.fwd.bankA ∧ t.fwd.bankB = s.fwd.bankB ∧ t.fwd.job = s.fwd.job) ∧
  (∀ p s, Owner p s → s.fwd.busy = false → 3 ≤ s.glb.state.code → (s.fwd.stA = .draining ∨ s.fwd.stB = .draining) →
    Completes (.flip p) s fun t => t.fwd = { s.fwd with status := 7 }) ∧
  (∀ p s, Owner p s → s.fwd.busy = false → 3 ≤ s.glb.state.code → s.drained = true →
    Completes (.confirm p) s fun t =>
      t.fwd = (if s.fwd.stA = .draining then { s.fwd with stA := .free, status := 0 } else { s.fwd with stB := .free, status := 0 })) ∧
  (∀ p s, Owner p s → s.fwd.busy = false → 3 ≤ s.glb.state.code → s.drained = false →
    Completes (.confirm p) s fun t => t.fwd = { s.fwd with status := 8 })

/-- BATCH, the background compare and learning relays (R154 to R159). The model's own choices in it: log entries 8, 13 and 92. -/
def Obligations.TableUpkeepCompletes : Prop :=
  (∀ p s, Owner p s → s.fwd.busy = false → 3 ≤ s.glb.state.code → s.fwd.batchCnt = 0 →
    Completes (.batch p) s fun t => t.fwd = { s.fwd with batchDone := 0, status := 0 }) ∧
  (∀ p s r, Owner p s → s.fwd.busy = false → 3 ≤ s.glb.state.code → s.fwd.batchCnt = 1 →
    r = fwdRun (batchArg (rdMem s s.fwd.batch.toNat 32)) s →
    Completes (.batch p) s fun t =>
      t.fwd.status = BitVec.ofNat 8 r.2.st ∧ t.fwd.batchDone = (if r.2.st = 0 then 1 else 0) ∧
      t.fwd.bankA = r.1.fwd.bankA ∧ t.fwd.bankB = r.1.fwd.bankB ∧ t.fwd.wseq = r.1.fwd.wseq) ∧
  (∀ s, segMarked s.fwd.bad s.fwd.cmpNext = [] → segMarked s.fwd.soft s.fwd.cmpNext = [] →
    readSegment s.fwd.cmpNext s = (s, segDigest s s.fwd.cmpNext)) ∧
  (∀ s, s.fwd.cmpEnable = true → s.fwd.cmpBase.toNat + 16 * s.fwd.cmpNext + 16 ≤ s.capacity →
    Completes .segmentDigest s fun t =>
      rdMem t (s.fwd.cmpBase.toNat + 16 * s.fwd.cmpNext) 16 = toLE 8 (readSegment s.fwd.cmpNext s).2 ++ toLE 8 (readSegment s.fwd.cmpNext s).1.fwd.wseq.toNat ∧
      (s.fwd.cmpNext < 17681 → t.fwd.cmpNext = s.fwd.cmpNext + 1 ∧ t.fwd.cmpPass = s.fwd.cmpPass) ∧
      (17681 ≤ s.fwd.cmpNext → t.fwd.cmpNext = 0 ∧ t.fwd.cmpPass = s.fwd.cmpPass + 1 ∧ t.fwd.event.getLsbD 1 = true)) ∧
  (∀ lane codes msg s, HearsRing s lane codes 0x60 msg → u64At msg 20 ≠ s.nv.devid.toNat → s.learnRingOpen = true → s.fwd.lrnHead.toNat < 2 ^ s.fwd.lrnLog2.toNat →
    s.fwd.lrnBase.toNat + 32 * s.fwd.lrnHead.toNat + 32 ≤ s.capacity →
    Completes (.learnRelay lane codes) s fun t =>
      rdMem t (s.fwd.lrnBase.toNat + 32 * s.fwd.lrnHead.toNat) 32 = fit 32 msg ∧
      t.fwd.lrnHead = BitVec.ofNat 19 ((s.fwd.lrnHead.toNat + 1) % 2 ^ s.fwd.lrnLog2.toNat)) ∧
  (∀ lane codes msg s, HearsRing s lane codes 0x60 msg → u64At msg 20 = s.nv.devid.toNat →
    Completes (.learnRelay lane codes) s fun t => t = { s with svc := t.svc })

/-- Fences (R248, R252 to R255, R259): ARM, DISARM, QUERY, SETEXP and the timeout complete with the list of armed fences, the answer and the record that the rules give. The model's own choices in it: log entries 4 and 42. -/
def Obligations.FenceCommandsComplete : Prop :=
  (∀ p msi s, Owner p s → s.lnd.fncBusy = false → 4 ≤ s.glb.state.code → BitVec.ofNat 16 s.lnd.fncArg.toNat ≠ (0 : Half) → s.keyJob ≠ 0 →
    s.keyFence = none → s.lnd.fences.length < 4096 → s.fwd.stA ≠ .draining → s.fwd.stB ≠ .draining →
    Completes (.fenceArm p msi) s fun t =>
      t.lnd = { s.lnd with
        fences := s.lnd.fences ++ [⟨s.lnd.nextFence, s.keyJob, s.keyTag, BitVec.ofNat 16 s.lnd.fncArg.toNat,
          BitVec.ofNat 16 (fld s.lnd.fncArg.toNat 16 16), s.clk, msi, false, 0, 0, 0, false, false⟩],
        nextFence := s.lnd.nextFence + 1, fncStatus := 0 }) ∧
  (∀ p f s, Owner p s → s.lnd.fncBusy = false → 4 ≤ s.glb.state.code → s.keyFence = some f →
    Completes (.fenceDisarm p) s fun t =>
      t.lnd = { s.lnd with fences := s.lnd.fences.filter (fun g => g.id != f.id), fncStatus := 0 }) ∧
  (∀ p f s, Owner p s → s.lnd.fncBusy = false → 4 ≤ s.glb.state.code → s.keyFence = some f →
    Completes (.fenceQuery p) s fun t =>
      t.lnd.fncStatus = 0 ∧ t.lnd.fncMarks = f.marks ∧ t.lnd.fncOldpre = f.oldpre ∧
      t.lnd.fncDrainq.getLsbD 31 = f.flipped ∧ t.lnd.fncDrainq.getLsbD 30 = f.oldbank ∧ t.lnd.fncDrainq.toNat % 2 ^ 30 = f.drainq.toNat % 2 ^ 30 ∧
      t.lnd.fences = s.lnd.fences) ∧
  (∀ p e f s, Owner p s → s.lnd.fncBusy = false → 4 ≤ s.glb.state.code → e = BitVec.ofNat 16 s.lnd.fncArg.toNat → e ≠ 0 → s.keyFence = some f →
    Completes (.setexp p) s fun t =>
      t.lnd.fncStatus = 0 ∧
      t.lnd.fences = (s.lnd.fences.map (fun g => if g.id = f.id then { g with expect := e } else g)).filter (fun g => !g.complete)) ∧
  (∀ dt f n s, s.lnd.fences = [f] → f.tmo ≠ 0 → f.timedOut = false → f.tmo.toNat * 1000000 ≤ s.clk + dt - f.armedAt →
    n = 2 ^ s.lnd.ringLog2.toNat → s.lnd.ringEnable = true → (s.lnd.ringHead.toNat + 1) % n ≠ s.lnd.ringTail.toNat % n →
    s.lnd.ringBase.toNat + 32 * s.lnd.ringHead.toNat + 32 ≤ s.capacity →
    Completes (.fenceTimeout dt) s fun t =>
      t.lnd.fences = [{ f with timedOut := true }] ∧ t.lnd.ringHead = BitVec.ofNat 20 ((s.lnd.ringHead.toNat + 1) % n) ∧
      rdMem t (s.lnd.ringBase.toNat + 32 * s.lnd.ringHead.toNat) 12 = toLE 4 (5 * 2 ^ 24 + f.tag.toNat) ++ toLE 4 f.job.toNat ++ toLE 4 f.marks.toNat)

/-- Job teardown (R323 to R326): START marks the job and empties every queue and fence of it, the end of the sweep marks it swept, RELEASE clears the mark and QUERY reports; START is refused without READY, for job 0, for an invalid job, for one in teardown, and while a sweep runs. The model's own choices in it: log entry 72. -/
def Obligations.TeardownCommandsComplete : Prop :=
  (∀ p (job : BitVec 20) s, Owner p s → s.mem.busy = false → 4 ≤ s.glb.state.code → job ≠ 0 → s.mem.sweep = none →
    (tget JobEnt.zero s.fwd.job job.toNat).valid = true → s.tdJob job = none →
    Completes (.teardownStart p job) s fun t =>
      t.mem.status = 0 ∧ (tget JobEnt.zero t.fwd.job job.toNat) = { tget JobEnt.zero s.fwd.job job.toNat with teardown := true } ∧
      (∀ j, j ≠ job.toNat → tget JobEnt.zero t.fwd.job j = tget JobEnt.zero s.fwd.job j) ∧
      (∃ w, t.mem.sweep = some (job, s.clk, w)) ∧ (t.tdJob job).isSome = true ∧ (∀ f, f ∈ t.lnd.fences → f.job ≠ job)) ∧
  (∀ p (job : BitVec 20) s, Owner p s → s.mem.busy = false → 4 ≤ s.glb.state.code → job ≠ 0 → s.mem.sweep = none →
    (tget JobEnt.zero s.fwd.job job.toNat).valid = true → s.tdJob job = none → s.swc.capture = false → s.mem.ents = [] →
    Completes (.teardownStart p job) s fun t =>
      ∀ key it k, it ∈ (t.queue key).items → it = .pkt k → k.h.job ≠ job) ∧
  (∀ dt (job : BitVec 20) t0 n s, s.mem.sweep = some (job, t0, n) →
    Completes (.teardownSweepEnd dt) s fun t =>
      t.mem.sweep = none ∧ (∀ j, j ∈ t.mem.jobs → j.job = job → j.swept = true) ∧ t.mem.event.getLsbD 1 = true ∧ t.clk = s.clk + dt) ∧
  (∀ p (job : BitVec 20) j s, Owner p s → s.mem.busy = false → 4 ≤ s.glb.state.code → job ≠ 0 → s.tdJob job = some j → j.swept = true →
    (∀ e c, e ∈ s.lnd.ctxs → e.2 = some c → c.d.job ≠ job) →
    Completes (.teardownRelease p job) s fun t =>
      t.mem.status = 0 ∧ (tget JobEnt.zero t.fwd.job job.toNat) = { tget JobEnt.zero s.fwd.job job.toNat with teardown := false } ∧
      t.tdJob job = none ∧ (∀ e, e ∈ t.mem.notices → e.1 ≠ job)) ∧
  (∀ p (job : BitVec 20) s, Owner p s → s.mem.busy = false → 4 ≤ s.glb.state.code → job ≠ 0 →
    Completes (.teardownQuery p job) s fun t =>
      t = { s with mem.status := 0, mem.infoTd := (s.tdJob job).isSome, mem.infoSwept := ((s.tdJob job).map TdJob.swept).getD false,
                   mem.infoNotices := BitVec.ofNat 16 (min 0xFFFF (((s.tdJob job).map TdJob.notices).getD 0)) }) ∧
  (∀ p (job : BitVec 20) s, Owner p s → s.mem.busy = false →
    (s.glb.state.code < 4 → Completes (.teardownStart p job) s fun t => t = { s with mem.status := 8 }) ∧
    (4 ≤ s.glb.state.code → job = 0 → Completes (.teardownStart p job) s fun t => t = { s with mem.status := 1 }) ∧
    (4 ≤ s.glb.state.code → job ≠ 0 → s.mem.sweep ≠ none → Completes (.teardownStart p job) s fun t => t = { s with mem.status := 7 }) ∧
    (4 ≤ s.glb.state.code → job ≠ 0 → s.mem.sweep = none → (tget JobEnt.zero s.fwd.job job.toNat).valid = false →
      Completes (.teardownStart p job) s fun t => t = { s with mem.status := 2 }) ∧
    (4 ≤ s.glb.state.code → job ≠ 0 → s.mem.sweep = none → (tget JobEnt.zero s.fwd.job job.toNat).valid = true → s.tdJob job ≠ none →
      Completes (.teardownStart p job) s fun t => t = { s with mem.status := 3 }))

/-- Landing contexts (R213, R215, R228, R235, R240 to R242): INSTALL, UNINSTALL, WITHDRAW, QUERY and TRIGGER complete with the context, the reservation and the answer that the rules give. The model's own choices in it: log entries 62 and 66. -/
def Obligations.LandingCommandsComplete : Prop :=
  (∀ p b d s, Owner p s → s.lnd.busy = false → b = readDesc s → d = descOf b → installStatus s b = 0 →
    (∀ u, u ∈ s.lnd.pool → u.ctx ≠ d.ctx.toNat) →
    Completes (.install p) s fun t =>
      t.lnd.status = 0 ∧
      t.ctx d.ctx.toNat = some (Ctx.fresh d b (decide (s.slotsUsed d.home.toNat + d.rslots.toNat ≤ s.landSlots d.home.toNat)) s.clk) ∧
      (∀ c, c ≠ d.ctx.toNat → t.ctx c = s.ctx c) ∧ t.lnd.backUsed = s.lnd.backUsed + BitVec.ofNat 64 d.backing ∧
      (∀ x, x ∈ t.lnd.tombs → x.ctx ≠ d.ctx.toNat)) ∧
  (∀ p st s, Owner p s → s.lnd.busy = false → st = installStatus s (readDesc s) → st ≠ 0 → st < 256 →
    Completes (.install p) s fun t =>
      t.lnd = { s.lnd with status := BitVec.ofNat 8 st } ∧ t = { count (evNo 24 0x001 st) s with lnd := t.lnd }) ∧
  (∀ p (ctx : BitVec 18) c s, Owner p s → s.lnd.busy = false → s.ctx ctx.toNat = some c →
    Completes (.uninstall p ctx) s fun t =>
      t.lnd.status = 0 ∧ t.ctx ctx.toNat = none ∧ (∀ k, k ≠ ctx.toNat → t.ctx k = s.ctx k) ∧
      t.lnd.backUsed = s.lnd.backUsed - BitVec.ofNat 64 c.d.backing ∧ (∀ h, h ∈ t.lnd.held → h.ctx ≠ ctx.toNat) ∧
      (⟨ctx.toNat, s.clk⟩ : Tomb) ∈ t.lnd.tombs) ∧
  (∀ p (ctx : BitVec 18) c i s, Owner p s → s.lnd.busy = false → s.ctx ctx.toNat = some c → i = s.lnd.arg.toNat % 2048 →
    c.d.linked = false → i < c.d.members.length → (2 ≤ c.d.type.toNat → corrOne s.lnd.corr = true) → c.isWithdrawn i = false →
    Completes (.withdraw p ctx) s fun t =>
      t.lnd.status = 0 ∧ ∀ c', t.ctx ctx.toNat = some c' → tget none c'.withdrawn i = some s.lnd.corr) ∧
  (∀ p (ctx : BitVec 18) q s, Owner p s → s.lnd.busy = false → q = queryBytes s ctx.toNat → s.lnd.addr.toNat + q.length ≤ s.capacity →
    Completes (.lndQuery p ctx) s fun t =>
      t.lnd = { s.lnd with status := 0 } ∧ rdMem t s.lnd.addr.toNat q.length = q) ∧
  (∀ p (ctx : BitVec 18) c s, Owner p s → s.lnd.busy = false → s.ctx ctx.toNat = some c → c.d.persist = false →
    Completes (.lndTrigger p ctx) s fun t =>
      t.lnd.status = 0 ∧ ∀ c', t.ctx ctx.toNat = some c' → c'.holdOff = true)

/-- Delivery to a Landing (R216, R219, R222, R229): an accepted contribution that does not complete its chunk joins it, an unknown context's packet waits in the early-arrival pool, and a tombstoned context's is discarded, as is every job packet where the device or the district takes none (R20, R63, R355). The model's own choices in it: log entries 63, 65 and 94. -/
def Obligations.LandingDeliveryCompletes : Prop :=
  (∀ packet (port : Port) p u c i k j s,
    p = { h := hdrOf packet, payload := (packet.drop 32).take (hdrOf packet).len, tin := s.now, inPort := port.val, c2 := false, counted := false, cred := true } →
    p.h.kind = 2 → s.notAdmitted port.val p.h = none → u = s.modLink port.val (fun l => { l with rxBal := tmod 0 l.rxBal p.h.tc (fun b => b - creditsOf p.inSize) }) →
    s.ctx p.h.ctx = some c → c.resident = true → checkLand u c p = .contrib i k → k < c.d.nch →
    c.d.isFanout = false → c.d.isCount = false → c.d.linked = false → j < c.d.members.length → j ≠ i → c.isWithdrawn j = false →
    (∀ n, j ∉ (c.chunk n).from_) → (∀ n, (c.chunk n).running = none ∧ (c.chunk n).done = false) →
    Completes (.landingDelivery packet port) s fun t =>
      ∃ c', t.ctx p.h.ctx = some c' ∧ c'.d = c.d ∧ c'.step = c.step ∧
        (c'.chunk k).from_ = (c.chunk k).from_ ++ [i] ∧ (∀ n, n ≠ k → c'.chunk n = c.chunk n) ∧
        (c.d.isBarrier = false → (c'.chunk k).acc = List.zipWith
          (fun a x => (combineElem c.d.type.toNat c.d.afmt (ffDecode fmtBF16 p.h.weight.toNat) (c.chunk k).from_.isEmpty a x.1 x.2).1)
          (c.accOf k) (contribution u p.h.fmt (c.d.elemsOf k) p.payload).1) ∧
        c'.timer = some (if s.glb.state = .quiesced then 0 else s.clk)) ∧
  (∀ packet (port : Port) h s, h = hdrOf packet → h.kind = 2 → s.notAdmitted port.val h = none → s.ctx h.ctx = none →
    s.lnd.tombs.any (fun t => t.ctx == h.ctx) = false →
    (s.lnd.pool.filter (fun u => u.job == h.job)).length < s.eaq h.job → s.lnd.pool.length < s.poolUnits →
    Completes (.landingDelivery packet port) s fun t =>
      ∃ u, t.lnd.pool = s.lnd.pool ++ [u] ∧ u.ctx = h.ctx ∧ u.job = h.job ∧ u.at_ = s.clk ∧ u.pkt.h = h ∧ u.pkt.payload = (packet.drop 32).take h.len ∧
        t.lnd.ctxs = s.lnd.ctxs) ∧
  (∀ packet (port : Port) h s, h = hdrOf packet → h.kind = 2 → s.notAdmitted port.val h = none → s.ctx h.ctx = none →
    s.lnd.tombs.any (fun t => t.ctx == h.ctx) = true → s.swc.capture = false →
    Completes (.landingDelivery packet port) s fun t =>
      t.lnd = s.lnd ∧ t.tly = (countDiscard 32 port.val s).tly) ∧
  (∀ packet (port : Port) h code s, h = hdrOf packet → h.kind = 2 → s.notAdmitted port.val h = some code → s.swc.capture = false →
    Completes (.landingDelivery packet port) s fun t =>
      t.lnd = s.lnd ∧ t.tly = (countDiscard code port.val s).tly)

/-- Landings and time (R215, R216, R228, R229, R233, R237): each instant completes with what the rules leave. The model's own choices in it: log entries 3, 4, 64 and 65. -/
def Obligations.LandingTimersComplete : Prop :=
  (∀ dt i h c st g r q p u s, u = elapse dt s → s.lnd.held[i]? = some h → h.hold = false → h.notBefore ≤ u.now → s.ctx h.ctx = some c →
    c.d.type = 8 →
    (∃ j, j < c.d.members.length ∧ c.memberDone j = false ∧ (s.exact s.fwd.cur (c.d.members.getD j 0)).map (·.cordon) ≠ some true) → c.d.stages[h.stage]? = some st → (st.a = 0 ∨ st.a = 3) →
    g = tget GroupEnt.zero s.fwd.group (st.c.toNat % 65536) → s.badAt 8 false (st.c.toNat % 65536) = false → bitAt g.w0.toNat 31 = true →
    fld g.w1.toNat 0 12 = 1 → r = tget Ent2.zero s.fwd.repl (fld g.w0.toNat 0 22) → s.badAt 9 false (fld g.w0.toNat 0 22) = false →
    bitAt r.w1.toNat 31 = true → s.badAt 6 s.fwd.cur r.w0.toNat = false → s.exact s.fwd.cur r.w0 = none →
    hopOf (fld r.w1.toNat 26 2) (fld r.w1.toNat 0 11) = .port q → s.up q = true → s.dist (districtOf q) ≠ .draining →
    p = resultPkt u c h.pos (resultHdr u c h.pos st r.w0 h.payload.length) h.payload → p.h.isSched = false → s.fwd.mgmtEid ≠ 0 →
    s.glb.state ≠ .cordoned → s.roomFor q p.h.tc p.cells = true → PlainSwitch s →
    Completes (.releaseInstant dt i) s fun t => t.lnd.held = s.lnd.held.eraseIdx i ∧ JoinsQueue q p s t) ∧
  (∀ dt i h s, s.lnd.held[i]? = some h → (h.hold = true ∨ (elapse dt s).now < h.notBefore) →
    Completes (.releaseInstant dt i) s fun t => t = elapse dt s) ∧
  (∀ dt (ctx : BitVec 18) c t0 s, s.ctx ctx.toNat = some c → c.timer = some t0 → c.d.tmo ≠ 0 → c.toFired = false →
    c.d.tmo.toNat * 1000 ≤ s.clk + dt - t0 → s.glb.state ≠ .quiesced → s.glb.state ≠ .cordoned → c.d.stagesOf 2 = [] →
    Completes (.landingTimeout dt ctx) s fun t =>
      t.ctx ctx.toNat = some { c with toFired := true } ∧ t.lnd.event.getLsbD 1 = true ∧ (∀ k, k ≠ ctx.toNat → t.ctx k = s.ctx k)) ∧
  (∀ dt (ctx : BitVec 18) s, Completes (.tombstoneExpire dt ctx) s fun t =>
    (∀ x, x ∈ t.lnd.tombs ↔ x ∈ s.lnd.tombs ∧ ¬ (x.ctx = ctx.toNat ∧ s.lnd.tomb.toNat * 1000000 ≤ s.clk + dt - x.at_)) ∧ t.lnd.ctxs = s.lnd.ctxs) ∧
  (∀ dt s, Completes (.eaExpire dt) s fun t =>
    (∀ u, u ∈ t.lnd.pool ↔ u ∈ s.lnd.pool ∧ s.clk + dt - u.at_ ≤ s.lnd.age.toNat * 1000000) ∧
    ((∃ u, u ∈ s.lnd.pool ∧ s.lnd.age.toNat * 1000000 < s.clk + dt - u.at_) → t.lnd.event.getLsbD 3 = true)) ∧
  (∀ dt (ctx : BitVec 18) c j (gone : Nat → Bool) s, s.ctx ctx.toNat = some c → c.d.isFanout = true → j < c.d.members.length →
    (∀ i, gone i = true ↔ i < c.d.members.length ∧ c.memberDone i = false ∧ ∃ e, s.exact s.fwd.cur (c.d.members.getD i 0) = some e ∧ e.cordon = true) →
    c.memberDone j = false → gone j = false →
    Completes (.fanoutCordonCheck dt ctx) s fun t =>
      ∃ c', t.ctx ctx.toNat = some c' ∧ c'.d = c.d ∧ ∀ i, tget false c'.lowered i = (tget false c.lowered i || gone i)) ∧
  (∀ (ctx : BitVec 18) c s, s.ctx ctx.toNat = some c → c.restoring = true →
    Completes (.contextRestoreDone ctx) s fun t =>
      t.ctx ctx.toNat = some { c with restoring := false, resident := true } ∧ (∀ k, k ≠ ctx.toNat → t.ctx k = s.ctx k))

/-- Codewords, equalisation and idle (R103, R104, R107 to R109, R112, R113, R129): what each leaves of the lane. The model's own choices in it: log entries 8, 51, 52, 86 and 88. -/
def Obligations.LaneReceiversComplete : Prop :=
  (∀ (l : LaneNo) x v s, v = s.lane l.val → s.laneBuilt l.val = true → v.st = .hunt → v.run < 64 → v.exit = none → v.retain = false →
    (v.decode x).1 = .invalid →
    Completes (.codewordReceived l true x) s fun t =>
      t.lane l.val = { (v.nextCand x) with sigdet := true } ∧ (∀ k, k ≠ l.val → t.lane k = s.lane k) ∧ t = { s with srd := t.srd }) ∧
  (∀ (l : LaneNo) x v s, v = s.lane l.val → s.laneBuilt l.val = true → v.st = .hunt → v.run < 63 → v.exit = none → v.retain = false →
    (v.decode x).1 ≠ .invalid →
    Completes (.codewordReceived l true x) s fun t =>
      t.lane l.val = { v with sigdet := true, rxScr := (v.decode x).2.2, run := v.run + 1, hist := 0 } ∧
      (∀ k, k ≠ l.val → t.lane k = s.lane k) ∧ t = { s with srd := t.srd }) ∧
  (∀ (l : LaneNo) x v s, v = s.lane l.val → s.laneBuilt l.val = true → v.st = .hunt → v.run = 63 → v.exit = none → v.retain = false →
    (v.decode x).1 ≠ .invalid → (∀ p, s.portOfLane l.val = some p → s.up p = false) →
    Completes (.codewordReceived l true x) s fun t =>
      (t.lane l.val).st = .locked ∧ (t.lane l.val).run = 64 ∧ (t.lane l.val).pol = decide (2720 ≤ v.cand) ∧
      (t.lane l.val).ctle.toNat ≤ 40 ∧ (∀ k, k ≠ l.val → t.lane k = s.lane k)) ∧
  (∀ (l : LaneNo) x v s, v = s.lane l.val → s.laneBuilt l.val = true → v.st = .locked → 64 ≤ v.run → v.exit = none → v.retain = false →
    (v.decode x).1 = .other → (v.decode x).2.1 ≤ 8 → popcount (BitVec.shiftLeft v.hist 1).toNat 64 < 8 →
    Completes (.codewordReceived l true x) s fun t =>
      (t.lane l.val).st = .locked ∧ (t.lane l.val).hist = BitVec.shiftLeft v.hist 1 ∧ (v.decode x).2.1 ≤ (t.lane l.val).fecmax s.clk ∧
      (t.lane l.val).corrSum = v.corrSum + (v.decode x).2.1 ∧ (t.lane l.val).corrN = v.corrN + 1 ∧ (∀ k, k ≠ l.val → t.lane k = s.lane k)) ∧
  (∀ (l : LaneNo) x v s, v = s.lane l.val → s.laneBuilt l.val = true → v.st = .hunt → v.run < 64 → v.exit = none →
    (∀ p, s.portOfLane l.val = some p → s.up p = false) →
    Completes (.codewordReceived l false x) s fun t =>
      t.lane l.val = { v with sigdet := false, run := 0 } ∧ (∀ k, k ≠ l.val → t.lane k = s.lane k)) ∧
  (∀ (l : LaneNo) x (b : DWord) v s, v = s.lane l.val → s.answersEq l.val = true → v.st ≠ .off → 64 ≤ v.run → v.exit = none → v.retain = false →
    (v.decode x).1 = .eq b → popcount (BitVec.shiftLeft v.hist 1).toNat 64 < 8 → bitAt b.toNat 9 = false →
    (v.applied = false ∨ v.aecho ≠ BitVec.ofNat 4 (fld b.toNat 10 4)) →
    Completes (.eqRequest l x) s fun t =>
      (t.lane l.val).taps = (applyReq v.taps (fld b.toNat 18 8)).1 ∧ (t.lane l.val).stat = BitVec.ofNat 8 (applyReq v.taps (fld b.toNat 18 8)).2 ∧
      (t.lane l.val).aecho = BitVec.ofNat 4 (fld b.toNat 10 4) ∧ (t.lane l.val).applied = true ∧ (t.lane l.val).pDone = (v.pDone || bitAt b.toNat 8)) ∧
  (∀ dt (p : Port) (i : Fin 8) l v s, l = p.val + i.val → i.val < s.width p.val → v = s.lane l → v.done = false → 64 ≤ v.run → v.st = .locked →
    (16 ≤ v.fails ∨ 1000000000 ≤ s.clk + dt - v.tuneAt) →
    Completes (.eqTuneEnd dt p i) s fun t =>
      t.lane l = { v with done := true, awaiting := false, passN := 0 } ∧ t.clk = s.clk + dt ∧ (∀ k, k ≠ l → t.lane k = s.lane k)) ∧
  (∀ (l : LaneNo) x v s, v = s.lane l.val → v.st = .locked → 64 ≤ v.run → v.exit = none → v.retain = false → (v.decode x).1 = .idle →
    popcount (BitVec.shiftLeft v.hist 1).toNat 64 < 8 → (∃ p, s.portOfLane l.val = some p ∧ s.up p = false) →
    Completes (.idleEnter (l, x)) s fun t =>
      (t.lane l.val).st = .idle ∧ (t.lane l.val).retain = true ∧ (t.lane l.val).kept = v.cand ∧ (t.lane l.val).idleAt = s.clk ∧
      (t.lane l.val).sigdet = false ∧ (t.lane l.val).run = 0 ∧ (t.lane l.val).taps = v.taps ∧ (t.lane l.val).pTaps = v.pTaps ∧ (t.lane l.val).ctle = v.ctle) ∧
  (∀ dt (l : LaneNo) v s, v = s.lane l.val → v.retain = true → v.exit = none → 1000000000 ≤ s.clk + dt - v.idleAt →
    (∀ p, s.portOfLane l.val = some p → (s.link p).st ≠ .lock) →
    Completes (.idleRetainExpire dt l) s fun t => t.lane l.val = { v with retain := false }) ∧
  (∀ (p : Port) (i : Fin 8) l v s, l = p.val + i.val → i.val < s.width p.val → v = s.lane l → v.st = .idle → v.retain = true →
    Completes (.idleExit p i) s fun t =>
      t.lane l = { v with sigdet := true, exit := some 0, cand := v.kept } ∧ (∀ k, k ≠ l → t.lane k = s.lane k)) ∧
  (∀ (l : LaneNo) x v s, v = s.lane l.val → v.st = .idle → v.exit = some 0 → (v.decode x).1 = .other → (∃ p, s.portOfLane l.val = some p ∧ s.up p = false) →
    Completes (.codewordReceived l true x) s fun t =>
      (t.lane l.val).st = .locked ∧ (t.lane l.val).run = 64 ∧ (t.lane l.val).exit = some 1 ∧ (t.lane l.val).tuneAt = s.clk) ∧
  (∀ (l : LaneNo) x k v s, v = s.lane l.val → v.st = .idle → v.exit = some k → (v.decode x).1 = .invalid →
    (∃ p, s.portOfLane l.val = some p ∧ (s.link p).st = .down) →
    Completes (.codewordReceived l true x) s fun t =>
      (t.lane l.val).st = .idle ∧ (t.lane l.val).retain = false ∧ (t.lane l.val).exit = none ∧ (t.lane l.val).run = 0)

/-- Recalibration and eye scans (R114 to R118, R129). The model's own choices in it: log entries 7, 53, 54 and 88. -/
def Obligations.LaneMaintenanceCompletes : Prop :=
  (∀ p (l : LaneNo) q r s, Owner p s → s.portOfLane l.val = some q → recalRefusal s q l.val = some r → (s.lane l.val).recal ≠ .running →
    Completes (.recal p l) s fun t => t = s.modLane l.val (fun v => { v with recal := r })) ∧
  (∀ p (l : LaneNo) q s, Owner p s → s.portOfLane l.val = some q → q ≤ l.val → recalRefusal s q l.val = none → s.caseA q (l.val - q) = true →
    Completes (.recal p l) s fun t => (t.lane l.val).recal = .running ∧ (t.lane l.val).passes = 0 ∧ (t.lane l.val).parked = false) ∧
  (∀ dt (l : LaneNo) v s, v = s.lane l.val → v.recal = .running → v.st = .recal → v.passMet = true →
    Completes (.recalPassEnd dt l) s fun t => (t.lane l.val).passes = v.passes + 1 ∧ (t.lane l.val).ctle.toNat ≤ 40) ∧
  (∀ dt (l : LaneNo) v s, v = s.lane l.val → v.recal = .running → v.st = .recal → v.passMet = false →
    (v.passBad = true ∨ 200000000 ≤ s.clk + dt - v.passAt) →
    Completes (.recalPassEnd dt l) s fun t =>
      (t.lane l.val).passes = v.passes + 1 ∧
      if v.passes = 2 then (t.lane l.val).recal = .failed ∧ (t.lane l.val).st = .out ∧ (t.lane l.val).parked = true
      else (t.lane l.val).recal = .running ∧ (t.lane l.val).st = .recal ∧ (t.lane l.val).passAt = s.clk + dt) ∧
  (∀ p (c : Fin 8) (v : Word) s, Owner p s → (s.eyeOf c.val).busy = false → bitAt v.toNat 1 = false → s.laneBuilt (256 * c.val + fld v.toNat 8 8) = true →
    Completes (.eyeStart p c v) s fun t =>
      t.eyeOf c.val = { s.eyeOf c.val with
        dwell := BitVec.ofNat 8 (fld v.toNat 24 8), eye := BitVec.ofNat 2 (fld v.toNat 22 2), lane := BitVec.ofNat 8 (fld v.toNat 8 8),
        points := 0, intr := false, done := false, busy := true, res := [], startAt := s.clk, scan := 256 * c.val + fld v.toNat 8 8, base := s.fresh,
        ptFs := 2 ^ (fld v.toNat 24 8) * 9412 + 100000000 } ∧ t.fresh = s.fresh + 4096) ∧
  (∀ p (c : Fin 8) s, Owner p s → (s.eyeOf c.val).busy = true →
    Completes (.eyeAbort p c) s fun t =>
      (t.eyeOf c.val).busy = false ∧ (t.eyeOf c.val).done = (s.eyeOf c.val).done ∧
      (t.eyeOf c.val).points = BitVec.ofNat 13 (eyePoints (s.eyeOf c.val) s.clk) ∧
      (t.eyeOf c.val).res = (s.eyeOf c.val).counts (eyePoints (s.eyeOf c.val) s.clk) ∧ (∀ k, k ≠ c.val → t.eyeOf k = s.eyeOf k)) ∧
  (∀ dt (c : Fin 8) (lane : Byte) s, (s.eyeOf c.val).busy = true → (s.eyeOf c.val).scan = 256 * c.val + lane.toNat → eyePoints (s.eyeOf c.val) (s.clk + dt) = 4096 →
    Completes (.eyeScanDone dt c lane) s fun t =>
      t.eyeOf c.val = { s.eyeOf c.val with busy := false, done := true, points := 4096, res := (s.eyeOf c.val).counts 4096 } ∧
      (∀ k, k ≠ c.val → t.eyeOf k = s.eyeOf k))

/-- Service lanes and the calibration store (R121 to R127, R129). The model's own choices in it: log entries 55, 56 and 87. -/
def Obligations.ServiceLanesComplete : Prop :=
  (∀ (n : Fin 80) bits s, (s.svcLane n.val).st = .aligning → (s.svcLane n.val).commas = 0 → (s.svcLane n.val).win = 0 →
    bits = [false, false, true, true, true, true, true, false, true, false] ++ [true, true, false, false, false, false, false, true, false, true] ++
      [false, false, true, true, true, true, true, false, true, false] →
    Completes (.serviceAlign n bits) s fun t => (t.svcLane n.val).st = .aligned ∧ ∀ k, k ≠ n.val → t.svcLane k = s.svcLane k) ∧
  (∀ (n : Fin 80) s, (s.svcLane n.val).st = .aligned → (s.svcLane n.val).bad = 0 → (s.svcLane n.val).ph = (s.svcLane n.val).at_ → (s.svcLane n.val).at_.toNat < 10 →
    Completes (.serviceAlign n (List.replicate 40 false)) s fun t => (t.svcLane n.val).st = .aligning ∧ (t.svcLane n.val).cv = true) ∧
  (∀ (n : Fin 80) codes why s, (s.svcLane n.val).st = .aligned → s.heard n.val codes = .bad why →
    Completes (.serviceMessageDiscard n codes) s fun t =>
      t.tly = (count (evNo 8 0x100 n.val) s).tly ∧ (why = .badChar → (t.svcLane n.val).cv = true) ∧ (why = .crc → (t.svcLane n.val).crc = true) ∧
      (why = .abort → (t.svcLane n.val).abort = true) ∧ ∀ k, k ≠ n.val → t.svcLane k = s.svcLane k) ∧
  (∀ (n : Fin 80) stamp s, (s.svcLane n.val).st ≠ .off →
    Completes (.timeMarker n stamp) s fun t => t = s.modSvc n.val (fun v => { v with marker := stamp })) ∧
  (∀ p s, Owner p s → s.hst.mbBusy = false → s.nv.cal ≠ [] →
    Completes (.calRead p) s fun t =>
      t.hst.mbResult = 0 ∧ t.hst.mbOut = BitVec.ofNat 32 s.nv.cal.length ∧
      (s.hst.mbBuf.toNat + s.nv.cal.length ≤ s.capacity → rdMem t s.hst.mbBuf.toNat s.nv.cal.length = s.nv.cal)) ∧
  (∀ p adapted b s, Owner p s → s.hst.mbBusy = false → b = captureImage s adapted →
    Completes (.calCapture p adapted) s fun t =>
      t.hst.mbResult = 0 ∧ t.hst.mbOut = BitVec.ofNat 32 b.length ∧ t.nv = s.nv ∧
      (s.hst.mbBuf.toNat + b.length ≤ s.capacity → rdMem t s.hst.mbBuf.toNat b.length = b)) ∧
  (∀ p ok head n b s, Owner p s → s.hst.mbBusy = false → head = rdMem s s.hst.mbBuf.toNat 64 → u32At head 0 = 0x43414C53 → u16At head 4 = 1 →
    n = calLength head → n ≤ 131072 → b = rdMem s s.hst.mbBuf.toNat n → calValid b = true → u64At b 8 = s.nv.devid.toNat →
    Completes (.calWrite p ok) s fun t =>
      if ok = true then t.hst.mbResult = 0 ∧
        t.nv = { s.nv with cal := overlay b 6 (toLE 2 ((if s.nv.cal = [] then u16At b 6 else u16At s.nv.cal 6) + 1)) }
      else t.hst.mbResult = 6 ∧ t.nv = s.nv)

/-- Frames and retry (R78 to R85, R96): what a frame slot, a received frame and the retry timers leave of the port. The model's own choices in it: log entries 4, 8 and 86. -/
def Obligations.LinkFramesComplete : Prop :=
  (∀ dt (p : Port) i s, (s.link p.val).isUp = true → OnlyLane s p.val i → (s.lane (p.val + i)).st ≠ .recal → (s.link p.val).replay = [] →
    (s.link p.val).txRest = [] → (s.link p.val).txPkts = [] →
    Completes (.frameSlot dt p) s fun t =>
      t.out = .codeword (p.val + i) (encodeCw (s.lane (p.val + i)).txScr
        (frameBlocks (frameBytes (s.link p.val) 0 (s.link p.val).nextFseq.toNat 0xFFFF []))).1 :: (elapse dt s).out ∧
      (t.link p.val).unacked = (s.link p.val).unacked ∧ (t.link p.val).repNext = (s.link p.val).repNext + 2 ∧ t.clk = s.clk + dt) ∧
  (∀ dt (p : Port) i o k s, (s.link p.val).isUp = true → OnlyLane s p.val i → (s.link p.val).replay = [] →
    (s.link p.val).txRest = [] → (s.link p.val).txPkts = [(o, k)] → k.length ≤ 620 → (s.link p.val).unacked.length < s.retryFrames p.val →
    Completes (.frameSlot dt p) s fun t =>
      (t.link p.val).unacked = (s.link p.val).unacked ++ [⟨(s.link p.val).nextFseq, 0, fit 620 k⟩] ∧
      (t.link p.val).nextFseq = (s.link p.val).nextFseq + 1 ∧ (t.link p.val).txPkts = [] ∧ (t.link p.val).txRest = []) ∧
  (∀ (p : Port) (i : Fin 8) x s, (s.link p.val).isUp = true → (s.link p.val).rxact.getLsbD i.val = true → Reads s p.val i.val x .invalid →
    Completes (.linkFrameReceived p i true x) s fun t =>
      (t.link p.val).rxact.getLsbD i.val = true →
        (t.link p.val).nak = true ∧ (t.link p.val).early = [] ∧ (t.link p.val).err.getLsbD 0 = true ∧ (t.link p.val).expect = (s.link p.val).expect) ∧
  (∀ (p : Port) (i : Fin 8) x s, (s.link p.val).isUp = true → (s.link p.val).rxact.getLsbD i.val = true → i.val < s.width p.val →
    s.portOfLane (p.val + i.val) = some p.val →
    Completes (.linkFrameReceived p i false x) s fun t =>
      (t.link p.val).rxact.getLsbD i.val = true →
        (t.link p.val).nak = true ∧ (t.link p.val).early = [] ∧ (t.link p.val).err.getLsbD 0 = true ∧ (t.link p.val).expect = (s.link p.val).expect) ∧
  (∀ (p : Port) (i : Fin 8) x b f s, (s.link p.val).isUp = true → (s.link p.val).rxact.getLsbD i.val = true → Reads s p.val i.val x (.frame b) →
    b.length = 640 → u32At b 636 = crc32c (b.take 636) → fld (u32At b 0) 28 4 = 1 → f = BitVec.ofNat 16 (u32At b 0) → (s.link p.val).unacked = [] →
    (s.link p.val).nak = false → f ≠ (s.link p.val).expect → (f - (s.link p.val).expect).toNat < 32768 → (s.link p.val).early = [] →
    Completes (.linkFrameReceived p i true x) s fun t =>
      (t.link p.val).early = [(⟨f, BitVec.ofNat 16 (fld (u32At b 12) 16 16), slice b 16 620⟩, s.clk)] ∧ (t.link p.val).expect = (s.link p.val).expect) ∧
  (∀ (p : Port) (i : Fin 8) x b s, (s.link p.val).isUp = true → (s.link p.val).rxact.getLsbD i.val = true → Reads s p.val i.val x (.frame b) →
    b.length = 640 → u32At b 636 = crc32c (b.take 636) → fld (u32At b 0) 28 4 = 1 → BitVec.ofNat 16 (u32At b 0) = (s.link p.val).expect →
    (s.link p.val).unacked = [] → (s.link p.val).early = [] → (s.link p.val).rxStream = [] → slice b 16 620 = zeros 620 →
    Completes (.linkFrameReceived p i true x) s fun t =>
      (t.link p.val).expect = (s.link p.val).expect + 1 ∧ (t.link p.val).nak = false ∧ (t.link p.val).rxStream = []) ∧
  (∀ (p : Port) (i : Fin 8) x b tc s, (s.link p.val).isUp = true → (s.link p.val).rxact.getLsbD i.val = true → Reads s p.val i.val x (.frame b) →
    b.length = 640 → u32At b 636 = crc32c (b.take 636) → fld (u32At b 0) 28 4 = 0 → (s.link p.val).unacked = [] →
    tc = fld (u32At b 8) 29 3 → fld (u32At b 8) 13 3 ≠ tc → creditClass tc = true →
    Completes (.linkFrameReceived p i true x) s fun t =>
      tget 0 (t.link p.val).txBal tc = tget 0 (s.link p.val).txBal tc + (BitVec.ofNat 13 (fld (u32At b 8) 16 13) - tget 0 (s.link p.val).seen tc).toNat ∧
      tget 0 (t.link p.val).seen tc = BitVec.ofNat 13 (fld (u32At b 8) 16 13)) ∧
  (∀ dt (p : Port) f rest s, (s.link p.val).unacked = f :: rest → (s.link p.val).replayFrom = f.fseq → 1 ≤ (s.link p.val).replays → (s.link p.val).replays < 15 →
    2 * (s.link p.val).rtt.toNat ≤ s.clk + dt - (s.link p.val).replayAt →
    Completes (.replayTimeout dt p) s fun t =>
      (t.link p.val).replay = f :: rest ∧ (t.link p.val).replays = (s.link p.val).replays + 1 ∧ (t.link p.val).replayAt = s.clk + dt ∧
      (t.link p.val).st = (s.link p.val).st) ∧
  (∀ dt (p : Port) s, (s.link p.val).isUp = true → (s.link p.val).unacked ≠ [] → 100000 ≤ s.clk + dt - (s.link p.val).ackAt → s.opt.fly = [] →
    Completes (.ackProgressTimeout dt p) s fun t =>
      (t.link p.val).st = .down ∧ (t.link p.val).tstat = 0x0C ∧ (t.link p.val).err.getLsbD 5 = true ∧ (t.link p.val).err.getLsbD 7 = true) ∧
  (∀ dt (p : Port) e s, e ∈ (s.link p.val).early → 100 ≤ s.clk + dt - e.2 →
    Completes (.skewWindowExpiry dt p) s fun t => (t.link p.val).nak = true ∧ (t.link p.val).early = [] ∧ (t.link p.val).err.getLsbD 0 = true)

/-- Training (R86 to R90, R99): HELLO, CONFIG and CREDIT lead from state to state, and what R90 refuses or R88 times out leads back to DOWN with its TSTAT. The model's own choices in it: log entries 3, 4, 50 and 89. -/
def Obligations.LinkTrainingCompletes : Prop :=
  (∀ (p : Port) (lane : Fin 8) b v s, (s.link p.val).st = .hello → u8At b 0 = 1 → lane.val < s.width p.val → u8At b 5 < s.width p.val →
    u8At b 1 ≠ 1 → u8At b 4 = s.width p.val → commonVersion (s.verRange p.val).1 (s.verRange p.val).2 (u8At b 2) (u8At b 1) = some v →
    popcount (setBit (s.link p.val).heard (u8At b 5) true).toNat 8 = ((s.lanesOf p.val).filter (fun k => (s.lane k).st != .retired)).length →
    u64At b 28 ≠ 0 →
    Completes (.hello p lane b) s fun t =>
      (t.link p.val).st = .config ∧ (t.link p.val).ver = BitVec.ofNat 4 v ∧ (t.link p.val).pid = BitVec.ofNat 64 (u64At b 8) ∧
      (t.link p.val).rtt = BitVec.ofNat 16 (sat 0xFFFF (s.clk - u64At b 28 - u32At b 36)) ∧
      (t.link p.val).caps = BitVec.ofNat 6 (Nat.land (Nat.land (s.offered p.val) (u8At b 3)) (if v = 2 then 0x2A else 0x3F))) ∧
  (∀ (p : Port) (lane : Fin 8) b s, (s.link p.val).st = .hello → u8At b 0 = 1 → lane.val < s.width p.val → s.opt.fly = [] →
    Completes (.hello p lane b) s fun t =>
      (u8At b 1 = 1 → (t.link p.val).st = .down ∧ (t.link p.val).tstat = 6) ∧
      (u8At b 1 ≠ 1 → u8At b 4 ≠ s.width p.val → (t.link p.val).st = .down ∧ (t.link p.val).tstat = 8) ∧
      (u8At b 1 ≠ 1 → u8At b 4 = s.width p.val → commonVersion (s.verRange p.val).1 (s.verRange p.val).2 (u8At b 2) (u8At b 1) = none →
        (t.link p.val).st = .down ∧ (t.link p.val).tstat = 7)) ∧
  (∀ (p : Port) b s, (s.link p.val).st = .config → u8At b 0 = 2 → s.opt.fly = [] →
    Completes (.config p b) s fun t =>
      if u8At b 1 = (s.link p.val).ver.toNat ∧ u8At b 2 = (s.link p.val).caps.toNat then (t.link p.val).st = .credit
      else (t.link p.val).st = .down ∧ (t.link p.val).tstat = 9) ∧
  (∀ (p : Port) b s, (s.link p.val).st = .credit → u8At b 0 = 3 → s.opt.fly = [] →
    Completes (.creditInit p b) s fun t =>
      if creditsOk ((List.range 8).map (fun tc => u16At b (2 + 2 * tc))) = true then
        (t.link p.val).isUp = true ∧ (t.link p.val).tstat = 1 ∧ (t.link p.val).nextFseq = 0 ∧ (t.link p.val).expect = 0 ∧
        (∀ tc, tc < 8 → tget 0 (t.link p.val).txBal tc = u16At b (2 + 2 * tc) ∧ tget 0 (t.link p.val).rxBal tc = s.width p.val * ownCredit tc)
      else (t.link p.val).st = .down ∧ (t.link p.val).tstat = 0x0A) ∧
  (∀ dt (p : Port) s, s.opt.fly = [] →
    Completes (.trainingStateTimeout dt p) s fun t =>
      ((s.link p.val).st = .hello → 100000000 ≤ s.clk + dt - (s.link p.val).since →
        (t.link p.val).st = .down ∧ (t.link p.val).tstat = if (s.link p.val).heard = 0 then 4 else 5) ∧
      ((s.link p.val).st = .lock → 1500000000 ≤ s.clk + dt - (s.link p.val).since →
        (t.link p.val).st = .down ∧ (t.link p.val).tstat = if (s.lanesOf p.val).any (fun k => (s.lane k).sigdet) = true then 3 else 2) ∧
      ((s.link p.val).st = .config → 10000000 ≤ s.clk + dt - (s.link p.val).since → (t.link p.val).st = .down ∧ (t.link p.val).tstat = 9) ∧
      ((s.link p.val).st = .credit → 10000000 ≤ s.clk + dt - (s.link p.val).since → (t.link p.val).st = .down ∧ (t.link p.val).tstat = 0x0B)) ∧
  (∀ dt (p : Port) s, (s.link p.val).st = .down → (s.link p.val).wait ≤ s.clk + dt - (s.link p.val).since → s.portBuilt p.val = true →
    (s.link p.val).disable = false → s.dist (districtOf p.val) ≠ .replat →
    Completes (.retrainInterval dt p) s fun t => (t.link p.val).st = .lock ∧ (t.link p.val).since = s.clk + dt ∧ (t.link p.val).heard = 0 ∧ (t.link p.val).rttNow = false) ∧
  (∀ dt (p : Port) s, (s.link p.val).st = .hello → 1000 ≤ s.clk + dt - (s.link p.val).helloAt →
    Completes (.helloSend dt p) s fun t =>
      (t.link p.val).helloAt = s.clk + dt ∧
      t.out.length = (elapse dt s).out.length + ((List.range (s.width p.val)).filter (fun i => (s.laneMask p.val).getLsbD i)).length)

/-- Lane degrade and port control (R92, R99): OFF, OFF_ACK, ON and ON_ACK move a lane out of use and back, and LNK_CTRL takes the port down and trains it. The model's own choices in it: log entry 51. -/
def Obligations.LinkLanesComplete : Prop :=
  (∀ (p : Port) (i : BitVec 3) s, (s.link p.val).isUp = true → s.cap p.val 5 = true → i.toNat < s.width p.val → (s.link p.val).txList ≠ [i.toNat] →
    s.width p.val ≤ 8 → s.opt.fly = [] →
    Completes (.laneCtlOff p i) s fun t =>
      (t.link p.val).txact = setBit (s.link p.val).txact i.toNat false ∧ (t.link p.val).st = .degraded) ∧
  (∀ (p : Port) (i : BitVec 3) s, (s.link p.val).isUp = true → s.cap p.val 5 = true → i.toNat < s.width p.val → (s.link p.val).txList = [i.toNat] → s.opt.fly = [] →
    Completes (.laneCtlOff p i) s fun t => (t.link p.val).st = .down ∧ (t.link p.val).tstat = 0x0D) ∧
  (∀ (p : Port) (i : BitVec 3) s, (s.link p.val).isUp = true → (s.link p.val).laneCtl.any (fun c => !c.on && c.idx == i) = true → s.opt.fly = [] →
    Completes (.offAck p i) s fun t =>
      (t.link p.val).laneCtl = (s.link p.val).laneCtl.filter (fun c => c.on || c.idx != i) ∧ (t.link p.val).isUp = true ∧
      ((s.lane (p.val + (s.link p.val).laneFor i.toNat)).recal = .running → (t.lane (p.val + (s.link p.val).laneFor i.toNat)).st = .recal)) ∧
  (∀ (p : Port) (i : BitVec 3) s, (s.link p.val).isUp = true → s.cap p.val 5 = true → i.toNat < s.width p.val → (s.lane (p.val + i.toNat)).txIdle = false → s.opt.fly = [] →
    Completes (.laneCtlOn p i) s fun t => (t.link p.val).txact = setBit (s.link p.val).txact i.toNat true ∧ (t.link p.val).isUp = true) ∧
  (∀ (p : Port) (i : BitVec 3) k s, (s.link p.val).isUp = true → (s.link p.val).laneCtl.any (fun c => c.on && c.idx == i) = true →
    k = (s.link p.val).laneFor i.toNat → s.opt.fly = [] →
    Completes (.onAck p i) s fun t =>
      (t.link p.val).rxact = setBit (s.link p.val).rxact k true ∧ (t.link p.val).laneCtl = (s.link p.val).laneCtl.filter (fun c => !c.on || c.idx != i) ∧
      (t.lane (p.val + k)).st = .locked ∧ ((s.lane (p.val + k)).recal = .running → (t.lane (p.val + k)).recal = .ok)) ∧
  (∀ dt (p : Port) s, (s.link p.val).isUp = true →
    Completes (.laneCtlRepeat dt p) s fun t =>
      (t.link p.val).laneCtl = (s.link p.val).laneCtl.map (fun c => if 1000 ≤ s.clk + dt - c.last then { c with last := s.clk + dt } else c)) ∧
  (∀ dt (p : Port) c s, (s.link p.val).isUp = true → c ∈ (s.link p.val).laneCtl → 1000000 ≤ s.clk + dt - c.first → s.opt.fly = [] →
    Completes (.laneCtlTimeout dt p) s fun t => (t.link p.val).st = .down ∧ (t.link p.val).tstat = 0x0D) ∧
  (∀ h (p : Port) s, Owner h s → s.portBuilt p.val = true → s.opt.fly = [] →
    ((s.link p.val).disable = false → Completes (.lnkDisable h p true) s fun t =>
      (t.link p.val).st = .down ∧ (t.link p.val).disable = true ∧ (t.link p.val).tstat = 0x0E) ∧
    ((s.link p.val).disable = true → s.dist (districtOf p.val) ≠ .replat → Completes (.lnkDisable h p false) s fun t =>
      (t.link p.val).st = .lock ∧ (t.link p.val).disable = false)) ∧
  (∀ h (p : Port) s, Owner h s → s.portBuilt p.val = true → (s.link p.val).disable = false → s.dist (districtOf p.val) ≠ .replat → s.opt.fly = [] →
    Completes (.lnkRetrain h p) s fun t => (t.link p.val).st = .lock ∧ (t.link p.val).since = s.clk ∧ (t.link p.val).tstat = 0)

/-- The Mill's tables and its program store (R273, R278, R292, R293, R297): codebook entries, transform-flow entries and program slots are read, written and refused as the rules say, and no other entry changes. The model's own choices in it: log entry 5. -/
def Obligations.MillTablesComplete : Prop :=
  (∀ p idx s, Owner p s → s.mil.cbBusy = false → 3 ≤ s.glb.state.code →
    Completes (.cbWrite p idx) s fun t =>
      t.mil.cbStatus = 0 ∧ ∀ i, t.cbEntry i = if i = idx.toNat then ⟨s.cbWords, true⟩ else s.cbEntry i) ∧
  (∀ p idx s, Owner p s → s.mil.cbBusy = false → 3 ≤ s.glb.state.code → (s.cbEntry idx.toNat).vals.length = 16 →
    Completes (.cbRead p idx) s fun t =>
      t.mil.cbStatus = 0 ∧ t.mil.cbWritten = (s.cbEntry idx.toNat).written ∧ t.cbWords = (s.cbEntry idx.toNat).vals ∧ t.mil.cb = s.mil.cb) ∧
  (∀ p idx s, Owner p s → s.mil.cbBusy = false → s.glb.state.code < 3 →
    Completes (.cbWrite p idx) s fun t => t.mil = { s.mil with cbStatus := 2 }) ∧
  (∀ p (d : Fin 16) (slot : BitVec 9) b s, Owner p s → s.mil.pgmBusy = false → 3 ≤ s.glb.state.code → slot.toNat < (s.millRec d.val).slots.toNat →
    s.slotUsed d.val slot.toNat = false → s.mil.pgmLen.toNat ≤ 262144 → b = rdMem s s.mil.pgmAddr.toNat s.mil.pgmLen.toNat →
    Completes (.pgmLoad p d slot) s fun t =>
      (imageOk b = true → t.mil.pgmStatus = 0 ∧
        ∀ e k, k < 512 → t.image e k = if e = d.val ∧ k = slot.toNat then b else s.image e k) ∧
      (imageOk b = false → t.mil.store = s.mil.store ∧ (t.mil.pgmStatus = 1 ∨ t.mil.pgmStatus = 2))) ∧
  (∀ p (d : Fin 16) (slot : BitVec 9) s, Owner p s → s.mil.pgmBusy = false → 3 ≤ s.glb.state.code →
    Completes (.pgmLoad p d slot) s fun t =>
      ((s.millRec d.val).slots.toNat ≤ slot.toNat → t.mil = { s.mil with pgmStatus := 3 }) ∧
      (slot.toNat < (s.millRec d.val).slots.toNat → s.slotUsed d.val slot.toNat = true → t.mil = { s.mil with pgmStatus := 4 })) ∧
  (∀ p (d : Fin 16) (slot : BitVec 9) s, Owner p s → s.mil.pgmBusy = false → 3 ≤ s.glb.state.code → slot.toNat < (s.millRec d.val).slots.toNat →
    s.slotUsed d.val slot.toNat = false → s.image d.val slot.toNat ≠ [] →
    Completes (.pgmUnload p d slot) s fun t =>
      t.mil.pgmStatus = 0 ∧ ∀ e k, k < 512 → t.image e k = if e = d.val ∧ k = slot.toNat then [] else s.image e k) ∧
  (∀ p idx e s, Owner p s → s.mil.tfBusy = false → 4 ≤ s.glb.state.code → e = (⟨s.mil.tfData0, s.mil.tfData1, s.mil.tfData2, s.mil.tfData3⟩ : TfEnt) →
    Completes (.tfWrite p idx) s fun t =>
      (tfBad e = false → t.mil.tfStatus = 0 ∧ ∀ i, tget TfEnt.zero t.mil.tf i = if i = idx.toNat then e else tget TfEnt.zero s.mil.tf i) ∧
      (tfBad e = true → t.mil = { s.mil with tfStatus := 0x0D })) ∧
  (∀ p idx s, Owner p s → s.mil.tfBusy = false → 4 ≤ s.glb.state.code →
    Completes (.tfRead p idx) s fun t =>
      (⟨t.mil.tfData0, t.mil.tfData1, t.mil.tfData2, t.mil.tfData3⟩ : TfEnt) = tget TfEnt.zero s.mil.tf idx.toNat ∧ t.mil.tfStatus = 0 ∧ t.mil.tf = s.mil.tf)

/-- Bindings (R291, R294, R295, R301, R302, R310): what BIND, REBIND, UNBIND, RESTART, YARD_FLUSH and a query leave of a binding; a refused BIND reserves nothing. The model's own choices in it: log entries 71 and 97. -/
def Obligations.BindingsComplete : Prop :=
  (∀ p (id : BitVec 12) q sc bk s, Owner p s → s.mil.bindBusy = false → 4 ≤ s.glb.state.code → s.glb.state ≠ .cordoned → s.bindOf id.toNat = none →
    q = s.argPlace → placeCheck s id.toNat q = .ok (sc, bk) →
    Completes (.bind p id) s fun t =>
      t.mil.bindStatus = 0 ∧ t.mil.backUsed = s.mil.backUsed + BitVec.ofNat 64 bk ∧
      (∃ b, t.bindOf id.toNat = some b ∧ b.st = .bound ∧ b.place = q ∧ b.oldPlace = none ∧ b.scratchRes = sc ∧ b.backRes = bk ∧ b.yards = [] ∧
        ∀ e, e ∈ b.threads → e.2.pc = imgEntry (s.placeImage q)) ∧
      (∀ c, c ≠ id.toNat → t.bindOf c = s.bindOf c)) ∧
  (∀ p (id : BitVec 12) c s, Owner p s → s.mil.bindBusy = false → 4 ≤ s.glb.state.code → s.glb.state ≠ .cordoned →
    (if (s.bindOf id.toNat).isSome then c = 4 else placeCheck s id.toNat s.argPlace = .error c) →
    Completes (.bind p id) s fun t => t.mil = { s.mil with bindStatus := BitVec.ofNat 8 c }) ∧
  (∀ p (id : BitVec 12) b q sc bk s, Owner p s → s.mil.bindBusy = false → 4 ≤ s.glb.state.code → s.glb.state ≠ .cordoned →
    s.bindOf id.toNat = some b → b.st = .bound → b.closing = false →
    q = { s.argPlace with kind := b.place.kind, ycap := b.place.ycap } → (b.place.kind = true ∨ q.district = b.place.district ∨ s.ctxNames id.toNat = false) →
    placeCheck s id.toNat q = .ok (sc, bk) →
    Completes (.rebind p id) s fun t =>
      t.mil.bindStatus = 0 ∧ t.mil.backUsed = s.mil.backUsed + BitVec.ofNat 64 bk ∧
      (∃ b', t.bindOf id.toNat = some b' ∧ b'.st = .handover ∧ b'.place = q ∧ b'.oldPlace = some b.place ∧ b'.yards = [] ∧
        (((∃ i, i ∈ b.yard 0 ∧ i.complete = true ∧ i.claimed = none) ∨ ∀ e, e ∈ b.threads → e.2.item = []) → b'.oldYards = b.yards) ∧
        b'.threads = [] ∧ b'.oldBackRes = b.backRes) ∧
      (∀ c, c ≠ id.toNat → t.bindOf c = s.bindOf c)) ∧
  (∀ (id : BitVec 12) b q s, s.bindOf id.toNat = some b → b.oldPlace = some q → b.closing = false →
    tget [] b.oldYards 0 = [] → (∀ e, e ∈ b.oldThreads → e.2.st = .stopped) →
    Completes (.handoverComplete id) s fun t =>
      t.mil.event.getLsbD 1 = true ∧ t.mil.backUsed = s.mil.backUsed - BitVec.ofNat 64 b.oldBackRes ∧
      (∃ b', t.bindOf id.toNat = some b' ∧ b'.st = .bound ∧ b'.place = b.place ∧ b'.oldPlace = none ∧ b'.yards = b.yards ∧
        ∀ e, e ∈ b'.threads → e.2.pc = imgEntry (s.placeImage b.place))) ∧
  (∀ p (id : BitVec 12) b s, Owner p s → s.mil.bindBusy = false → 4 ≤ s.glb.state.code → s.bindOf id.toNat = some b →
    s.tfNames id.toNat = false → s.ctxNames id.toNat = false →
    Completes (.unbind p id) s fun t =>
      t.mil.bindStatus = 0 ∧
      (t.bindOf id.toNat = none ∨ ∃ b', t.bindOf id.toNat = some b' ∧ b'.closing = true) ∧
      (b.oldPlace = none → twf Thread.reset b.threads = true → (∀ e, e ∈ b.threads → e.2.st = .stopped ∨ (e.2.st ≠ .switched ∧ e.2.item = [])) → t.bindOf id.toNat = none ∧
        t.mil.backUsed = s.mil.backUsed - BitVec.ofNat 64 (b.backRes + b.oldBackRes))) ∧
  (∀ p (id : BitVec 12) b s, Owner p s → s.mil.bindBusy = false → 4 ≤ s.glb.state.code → s.bindOf id.toNat = some b →
    (s.tfNames id.toNat = true ∨ s.ctxNames id.toNat = true) →
    Completes (.unbind p id) s fun t => t.mil = { s.mil with bindStatus := 4 }) ∧
  (∀ p (id : BitVec 12) b s, Owner p s → s.mil.bindBusy = false → 4 ≤ s.glb.state.code → s.bindOf id.toNat = some b → b.st = .faulted → b.oldPlace = none →
    Completes (.restart p id) s fun t =>
      t.mil.bindStatus = 0 ∧
      ∃ b', t.bindOf id.toNat = some b' ∧ b'.st = .bound ∧ b'.place = b.place ∧ b'.yards = b.yards ∧
        ∀ e, e ∈ b'.threads → e.2.pc = imgEntry (s.placeImage b.place)) ∧
  (∀ p (id : BitVec 12) s, Owner p s → s.mil.bindBusy = false → 4 ≤ s.glb.state.code →
    Completes (.bindQuery p id) s fun t => t.mil = { s.mil with bindStatus := 0, bindInfo := bindInfoOf (s.bindOf id.toNat) }) ∧
  (∀ p (id : BitVec 12) (y : BitVec 3) b s, Owner p s → 4 ≤ s.glb.state.code → s.bindOf id.toNat = some b → b.oldPlace = none → b.closing = false →
    y.toNat ≤ imgWyards (s.placeImage b.place) → (b.place.kind = true ∨ y ≠ 0) → b.order = [] →
    Completes (.yardFlush p id y) s fun t =>
      t.mil.bindStatus = 0 ∧
      ∃ b', t.bindOf id.toNat = some b' ∧ b'.place = b.place ∧
        b'.yard y.toNat = ((b.yard y.toNat).filter (fun i => i.claimed.isSome && i.complete)).map (fun i => if i.gone = true then i else { i with flushed := true }) ∧
        (∀ z, z ≠ y.toNat → b'.yard z = b.yard z))

/-- Yards that make a thread wait (R290): a read of an empty yard and a YPUT past YCAP put the thread in YARD_WAIT at the same word, and it goes on once an item is there to claim or room is free. Beside R290, an access that completes lets the thread go on (R281), a read of a yard's middle in LPDDR5X switches it out until the fetch completes and at the bound of outstanding fetches until one can start (R34, R288), and a slice boundary leaves every pinned binding resident where it is (R303). The model's own choices in it: log entries 3, 70 and 97. -/
def Obligations.MillWaitsComplete : Prop :=
  (∀ th s d a n y b, Issues th 0xA1 ⟨d, a, 0, 0, 0, n, y⟩ s → a < 32 → d + n ≤ 32 → 1 ≤ n → n ≤ 8 → y < 8 → y ≤ imgWyards (s.imageOf th) →
    s.bindOf (thBid th) = some b → b.oldPlace = none → b.closing = false → (s.curItem th y = none ∨ ∃ it, s.curItem th y = some it ∧ it.flushed = false ∧ it.aged = false ∧ it.bytes.length ≤ it.rd) →
    (∀ i, i ∈ b.yard y → i.complete = true → i.claimed ≠ none) →
    Completes (.millYget th) s fun t =>
      (t.thread th).st = .yardWait ∧ (t.thread th).waits = .yardItem y ∧ (t.thread th).pc = (s.thread th).pc ∧ XSet th 0 0 s t) ∧
  (∀ th s d f tr y b, Issues th 0x20 ⟨d, 0, 0, 0, f, 8 * b2n tr + 3, y⟩ s → d < imgTregs (s.imageOf th) → f ≤ 0x0E → y < 8 → y ≤ imgWyards (s.imageOf th) →
    s.bindOf (thBid th) = some b → b.oldPlace = none → b.closing = false → (s.curItem th y = none ∨ ∃ it, s.curItem th y = some it ∧ it.flushed = false ∧ it.aged = false ∧ it.bytes.length ≤ it.rd) →
    (∀ i, i ∈ b.yard y → i.complete = true → i.claimed ≠ none) →
    Completes (.millTld th) s fun t =>
      (t.thread th).st = .yardWait ∧ (t.thread th).waits = .yardItem y ∧ (t.thread th).pc = (s.thread th).pc ∧ XSet th 0 0 s t ∧
      ∀ n, n < 64 → t.tile th n = s.tile th n) ∧
  (∀ th s a n y last b, Issues th 0xA0 ⟨0, a, 0, 0, 0, n + 16 * b2n last, y⟩ s → a < 32 → n ≤ 8 → y < 8 → y ≤ imgWyards (s.imageOf th) →
    s.bindOf (thBid th) = some b → b.oldPlace = none → b.closing = false → s.yardCap b.place y < yardUsed (b.yard y) + 8 →
    Completes (.millYput th) s fun t =>
      (t.thread th).st = .yardWait ∧ (t.thread th).waits = .yardRoom y ∧ (t.thread th).pc = (s.thread th).pc ∧ XSet th 0 0 s t) ∧
  (∀ (th : Th) b s, s.bindOf (thBid th) = some b → (s.thread th).st = .yardWait → s.yardReady th = true →
    Completes (.yardWaitEnd th) s fun t =>
      t.thread th = { s.thread th with st := s.goOn (thBid th) (thKey th), waits := .none }) ∧
  (∀ (th : Th) s, s.yardReady th = false → Completes (.yardWaitEnd th) s fun t => t = s) ∧
  (∀ (th : Th) b y (s : State), s.bindOf (thBid th) = some b → ((s.thread th).waits = .yardItem y → b.closing = false → s.milStopped b.side.place.district = false →
      (s.yardReady th = true ↔ ∃ i, i ∈ b.side.yard y ∧ i.complete = true ∧ i.claimed = none)) ∧
    ((s.thread th).waits = .yardRoom y → (s.yardReady th = true ↔ yardUsed (b.side.yard y) + 8 ≤ s.yardCap b.side.place y))) ∧
  (∀ (th : Th) b s, s.bindOf (thBid th) = some b → b.oldPlace = none → b.closing = false → (s.thread th).st = .switched →
    ((s.thread th).waits ≠ .output ∨ s.outputWaits (thId th) = false) → (∀ y n, (s.thread th).waits ≠ .fetchSlot y n) →
    Completes (.accessComplete th) s fun t =>
      t.thread th = { s.thread th with st := s.goOn (thBid th) (thKey th), waits := .none }) ∧
  (∀ th s d a n y it b, Issues th 0xA1 ⟨d, a, 0, 0, 0, n, y⟩ s → a < 32 → d + n ≤ 32 → 1 ≤ n → n ≤ 8 → y < 8 → y ≤ imgWyards (s.imageOf th) →
    s.bindOf (thBid th) = some b → b.oldPlace = none → b.closing = false → s.curItem th y = some it → it.gone = false → it.rd < it.bytes.length →
    it.far (8 * n) = true →
    Completes (.millYget th) s fun t =>
      (t.thread th).st = .switched ∧ (t.thread th).waits = (if s.fetchesOut < 1024 then .fetch y (8 * n) else .fetchSlot y (8 * n)) ∧
      (t.thread th).pc = (s.thread th).pc ∧ XSet th 0 0 s t) ∧
  (∀ (th : Th) b y n s, s.bindOf (thBid th) = some b → (s.thread th).st = .switched → (s.thread th).waits = .fetchSlot y n →
    Completes (.accessComplete th) s fun t =>
      t.thread th = if s.fetchesOut < 1024 then { s.thread th with waits := .fetch y n } else s.thread th) ∧
  (∀ dt s, Completes (.sliceBoundary dt) s fun t =>
    t.clk = s.clk + dt ∧ t.mil.lastSlice = (elapse dt s).now / 50000 ∧
    ∀ bid b c, c < 8 → s.bindOf bid = some b → b.side.place.pin = true → b.side.place.cores.getLsbD c = true → b.resident.getLsbD c = true →
      b.side.place.district < 16 → ∃ b', t.bindOf bid = some b' ∧ b'.side.place = b.side.place ∧ b'.resident.getLsbD c = true)

/-- Mill thread control, scalar arithmetic and scratch words (R284 to R286): each instruction completes with the pc, the scalar registers and the scratch segment that R286 gives. The model's own choices in it: log entry 67. -/
def Obligations.MillScalarsComplete : Prop :=
  (∀ th s, Issues th 0x00 ⟨0, 0, 0, 0, 0, 0, 0⟩ s → Completes (.millNop th) s fun t => GoesOn th s t ∧ XSet th 0 0 s t) ∧
  (∀ th s, Issues th 0x01 ⟨0, 0, 0, 0, 0, 0, 0⟩ s →
    Completes (.millYield th) s fun t =>
      GoesOn th s t ∧ XSet th 0 0 s t ∧ ∀ n, n ∈ (t.thread th).owe ↔ n ∈ s.readyOn (s.gcore th) ∧ n ≠ thId th) ∧
  (∀ th s imm, Issues th 0x02 ⟨0, 0, 0, 0, 0, 0, imm⟩ s → imm < imgCode (s.imageOf th) →
    Completes (.millJmp th) s fun t => (t.thread th).pc = imm ∧ (t.thread th).st = .ready ∧ XSet th 0 0 s t) ∧
  (∀ th s a imm, Issues th 0x03 ⟨0, a, 0, 0, 0, 0, imm⟩ s → a < 32 → imm < imgCode (s.imageOf th) →
    Completes (.millBrz th) s fun t =>
      (t.thread th).pc = (if s.xr th a = 0 then imm else (s.thread th).pc + 1) ∧ (t.thread th).st = .ready ∧ XSet th 0 0 s t) ∧
  (∀ th s a imm, Issues th 0x04 ⟨0, a, 0, 0, 0, 0, imm⟩ s → a < 32 → imm < imgCode (s.imageOf th) →
    Completes (.millBrnz th) s fun t =>
      (t.thread th).pc = (if s.xr th a = 0 then (s.thread th).pc + 1 else imm) ∧ (t.thread th).st = .ready ∧ XSet th 0 0 s t) ∧
  (∀ th s d k imm, Issues th 0x08 ⟨d, 0, 0, 0, 0, k, imm⟩ s → d < 32 → k < 4 →
    Completes (.millMovi th) s fun t => GoesOn th s t ∧ XSet th d (setFld (s.xr th d) (16 * k) 16 imm) s t) ∧
  (∀ th s d a b m, Issues th 0x09 ⟨d, a, b, 0, 0, m, 0⟩ s → d < 32 → a < 32 → b < 32 → m < 11 →
    Completes (.millAlu th) s fun t =>
      GoesOn th s t ∧ XSet th d (aluResult m (BitVec.ofNat 64 (s.xr th a)) (BitVec.ofNat 64 (s.xr th b))).toNat s t) ∧
  (∀ th s d a m imm, Issues th 0x0A ⟨d, a, 0, 0, 0, m, imm⟩ s → d < 32 → a < 32 → m < 11 →
    Completes (.millAlui th) s fun t => GoesOn th s t ∧ XSet th d (aluResult m (BitVec.ofNat 64 (s.xr th a)) (BitVec.ofNat 64 imm)).toNat s t) ∧
  (∀ th s d a imm off, Issues th 0x0B ⟨d, a, 0, 0, 0, 0, imm⟩ s → d < 32 → a < 32 → off = (s.xr th a + 8 * imm) % 2 ^ 64 →
    off + 8 ≤ imgSegment (s.imageOf th) →
    Completes (.millLdx th) s fun t => GoesOn th s t ∧ XSet th d (leNat (s.rdScratch th off 8)) s t) ∧
  (∀ th s a b imm off, Issues th 0x0C ⟨0, a, b, 0, 0, 0, imm⟩ s → a < 32 → b < 32 → off = (s.xr th a + 8 * imm) % 2 ^ 64 →
    off + 8 ≤ imgSegment (s.imageOf th) →
    Completes (.millStx th) s fun t =>
      GoesOn th s t ∧ XSet th 0 0 s t ∧ leNat (t.rdScratch th off 8) = s.xr th b ∧
      ∀ k, (k < off ∨ off + 8 ≤ k) → t.rdScratch th k 1 = s.rdScratch th k 1)

/-- TRIG, DONE, BAR and STEP (R228, R286, R296, R306, R307). The model's own choices in it: log entries 65 and 67. -/
def Obligations.MillSyncsComplete : Prop :=
  (∀ th s a cid c, Issues th 0x80 ⟨0, a, 0, 0, 0, 0, 0⟩ s → a < 32 → cid = s.xr th a % 2 ^ 18 → s.ctx cid = some c →
    (∀ j, s.itemJob th = some j → c.d.job = j) → c.d.isFanout = false → c.d.isCount = false → 0 < c.d.nch →
    (∀ k, (c.chunk k).running = none ∧ (c.chunk k).done = false ∧ c.chunkReady k = false) →
    (∀ h, h ∈ s.lnd.held → h.ctx = cid → s.now < h.notBefore) →
    Completes (.millTrig th) s fun t =>
      GoesOn th s t ∧ XSet th 0 0 s t ∧ t.ctx cid = some { c with holdOff := true } ∧
      t.lnd.held = s.lnd.held.map (fun h => if h.ctx == cid then { h with hold := false } else h)) ∧
  (∀ th s it cid pos step, Issues th 0x81 ⟨0, 0, 0, 0, 0, 0, 0⟩ s → s.curItem th 0 = some it → it.kind = .finish cid pos step →
    s.finishChunk it = none →
    Completes (.millDone th) s fun t => GoesOn th s t ∧ XSet th 0 0 s t ∧ t.curItem th 0 = none ∧ t.lnd = s.lnd) ∧
  (∀ th s it cid pos step c j g k, Issues th 0x81 ⟨0, 0, 0, 0, 0, 0, 0⟩ s → s.curItem th 0 = some it → it.kind = .finish cid pos step →
    s.finishChunk it = some (cid, pos, c) → (c.chunk pos).running = some j → c.d.stages[j]? = some g → g.a = 0xFF →
    (∀ n, n ∈ c.d.stagesOf 0 → n ≤ j) → c.d.isFanout = false → c.d.isCount = false → k < c.d.nch → k ≠ pos → (c.chunk k).done = false →
    (∀ n, n ≠ pos → (c.chunk n).running = none ∧ c.chunkReady n = false) →
    Completes (.millDone th) s fun t =>
      GoesOn th s t ∧ XSet th 0 0 s t ∧ t.curItem th 0 = none ∧
      ∃ c', t.ctx cid = some c' ∧ (c'.chunk pos).done = true ∧ (c'.chunk pos).running = none ∧ (c'.chunk pos).acc = (c.chunk pos).acc ∧
        ∀ n, n ≠ pos → c'.chunk n = c.chunk n) ∧
  (∀ th s b, Issues th 0x90 ⟨0, 0, 0, 0, 0, 0, 0⟩ s → s.bindOf (thBid th) = some b → b.oldPlace = none → b.closing = false →
    Completes (.millBar th) s fun t =>
      (t.thread th).pc = (s.thread th).pc + 1 ∧ XSet th 0 0 s t ∧
      ((∃ e, e ∈ b.threads ∧ e.1 ≠ thKey th ∧ tget false b.arrived e.1 = false) → (t.thread th).st = .barrier ∧
        ∃ b', t.bindOf (thBid th) = some b' ∧ tget false b'.arrived (thKey th) = true) ∧
      ((∀ e, e ∈ b.threads → e.1 ≠ thKey th → tget false b.arrived e.1 = true) → (t.thread th).st = .ready ∧
        (∃ b', t.bindOf (thBid th) = some b' ∧ b'.arrived = []) ∧
        ∀ u : Th, u.bind = th.bind → (s.thread u).st = .barrier → (t.thread u).st = s.goOn (thBid u) (thKey u))) ∧
  (∀ th s, Issues th 0x91 ⟨0, 0, 0, 0, 0, 0, 0⟩ s →
    Completes (.millStep th) s fun t =>
      GoesOn th s t ∧ XSet th 0 0 s t ∧
      ((∃ u : Th, u.bind = th.bind ∧ u.core = th.core ∧ u ≠ th ∧ (s.thread u).st ≠ .stopped ∧ (s.thread u).stepped = false) →
        (t.thread th).stepped = true ∧ ∀ i, tget 0 (t.coreOf (s.gcore th)).share i = tget 0 (s.coreOf (s.gcore th)).share i) ∧
      ((∀ u : Th, u.bind = th.bind → u.core = th.core → u ≠ th → (s.thread u).st ≠ .stopped → (s.thread u).stepped = true) →
        (t.thread th).stepped = false ∧ (t.coreOf (s.gcore th)).ops = []))

/-- Faults of the Mill (R287): a rule that a thread breaks stops its binding, and MIL_FAULT and MIL_EVENT say so. The model's own choices in it: log entry 67. -/
def Obligations.MillFaultsStopTheBinding : Prop :=
  (∀ th s b i, s.bindOf (thBid th) = some b → b.oldPlace = none → b.closing = false →
    Issues th 0x00 i s → i ≠ ⟨0, 0, 0, 0, 0, 0, 0⟩ →
    Completes (.millNop th) s (FaultsWith th 1 s)) ∧
  (∀ th s b imm, s.bindOf (thBid th) = some b → b.oldPlace = none → b.closing = false →
    Issues th 0x02 ⟨0, 0, 0, 0, 0, 0, imm⟩ s → imgCode (s.imageOf th) ≤ imm →
    Completes (.millJmp th) s (FaultsWith th 1 s)) ∧
  (∀ th s b d a c m, s.bindOf (thBid th) = some b → b.oldPlace = none → b.closing = false →
    Issues th 0x09 ⟨d, a, c, 0, 0, m, 0⟩ s → m < 16 → 11 ≤ m →
    Completes (.millAlu th) s (FaultsWith th 1 s)) ∧
  (∀ th s b d a c m, s.bindOf (thBid th) = some b → b.oldPlace = none → b.closing = false →
    Issues th 0x09 ⟨d, a, c, 0, 0, m, 0⟩ s → m < 11 → (32 ≤ d ∨ 32 ≤ a ∨ 32 ≤ c) →
    Completes (.millAlu th) s (FaultsWith th 3 s)) ∧
  (∀ th s b d a imm, s.bindOf (thBid th) = some b → b.oldPlace = none → b.closing = false →
    Issues th 0x0B ⟨d, a, 0, 0, 0, 0, imm⟩ s → imgSegment (s.imageOf th) < (s.xr th a + 8 * imm) % 2 ^ 64 + 8 →
    Completes (.millLdx th) s (FaultsWith th 3 s)) ∧
  (∀ th s b d f, s.bindOf (thBid th) = some b → b.oldPlace = none → b.closing = false →
    Issues th 0x22 ⟨d, 0, 0, 0, f, 0, 0⟩ s → imgTregs (s.imageOf th) ≤ d →
    Completes (.millTzero th) s (FaultsWith th 3 s)) ∧
  (∀ th s b a c j, s.bindOf (thBid th) = some b → b.oldPlace = none → b.closing = false →
    Issues th 0x80 ⟨0, a, 0, 0, 0, 0, 0⟩ s → a < 32 → s.ctx (s.xr th a % 2 ^ 18) = some c → s.itemJob th = some j → c.d.job ≠ j →
    Completes (.millTrig th) s (FaultsWith th 4 s)) ∧
  (∀ th s b, s.bindOf (thBid th) = some b → b.oldPlace = none → b.closing = false →
    Issues th 0x81 ⟨0, 0, 0, 0, 0, 0, 0⟩ s → s.curItem th 0 = none →
    Completes (.millDone th) s (FaultsWith th 5 s)) ∧
  (∀ th s b y, s.bindOf (thBid th) = some b → b.oldPlace = none → b.closing = false →
    Issues th 0xA2 ⟨0, 0, 0, 0, 0, 0, y⟩ s → y < 8 → imgWyards (s.imageOf th) < y →
    Completes (.millYnext th) s (FaultsWith th 6 s))

/-- Tile loads, stores and zero (R265, R283, R286, R296): TLD from each of its four sources, TST to each of its three destinations, TZERO. The model's own choices in it: log entries 67 and 68. -/
def Obligations.TileMovesComplete : Prop :=
  (∀ th s d a f tr off n x e, Issues th 0x20 ⟨d, a, 0, 0, f, 8 * b2n tr, 0⟩ s → a < 32 → d < imgTregs (s.imageOf th) → f ≤ 0x0E →
    off = s.xr th a → n = tileEnc f (leNat (s.rdScratch th off 4)) → off + n ≤ imgSegment (s.imageOf th) →
    tileFrom s f tr (s.rdScratch th off n) = some (x, e) →
    Completes (.millTld th) s fun t => GoesOn th s t ∧ XSet th 0 0 s t ∧ TileSet th d x s t) ∧
  (∀ th s d a f tr off n x e, Issues th 0x20 ⟨d, a, 0, 0, f, 8 * b2n tr + 1, 0⟩ s → a < 32 → d < imgTregs (s.imageOf th) → f ≤ 0x0E →
    off = s.xr th a → n = tileEnc f (leNat (rdMem s (s.mil.pwinBase.toNat + off) 4)) → off + n ≤ s.mil.pwinSize.toNat →
    tileFrom s f tr (rdMem s (s.mil.pwinBase.toNat + off) n) = some (x, e) →
    Completes (.millTld th) s fun t =>
      (t.thread th).pc = (s.thread th).pc + 1 ∧ (t.thread th).st = .switched ∧ (t.thread th).waits = .access ∧ XSet th 0 0 s t ∧ TileSet th d x s t) ∧
  (∀ th s d a b f tr it cid pos c, Issues th 0x20 ⟨d, a, b, 0, f, 8 * b2n tr + 2, 0⟩ s → a < 32 → b < 32 → d < imgTregs (s.imageOf th) → f ≤ 0x0E → f ≠ 0x0C →
    s.lineOf th (s.xr th a % 2 ^ 32) (s.xr th b) = some (it, some (cid, pos, c)) →
    Completes (.millTld th) s fun t => GoesOn th s t ∧ XSet th 0 0 s t ∧
      TileSet th d (tileOf f tr (fun _ => .rne)
        (if tr && !isMX f then transposeVals (lineVals (some (cid, pos, c)) (s.xr th b)) else lineVals (some (cid, pos, c)) (s.xr th b))).1 s t) ∧
  (∀ th s d f tr y it x e, Issues th 0x20 ⟨d, 0, 0, 0, f, 8 * b2n tr + 3, y⟩ s → y ≤ imgWyards (s.imageOf th) → y < 8 → d < imgTregs (s.imageOf th) → f ≤ 0x0E →
    s.curItem th y = some it → it.flushed = false → it.aged = false → it.rd < it.bytes.length → it.far (tileEnc f (u32At it.bytes it.rd)) = false →
    tileFrom s f tr ((it.bytes.drop it.rd).take (tileEnc f (u32At it.bytes it.rd))) = some (x, e) →
    Completes (.millTld th) s fun t => GoesOn th s t ∧ XSet th 0 0 s t ∧ TileSet th d x s t ∧
      t.curItem th y = some { it with rd := it.rd + ((it.bytes.drop it.rd).take (tileEnc f (u32At it.bytes it.rd))).length }) ∧
  (∀ th s a b c f m off x e n, Issues th 0x21 ⟨0, a, b, c, f, 16 * m, 0⟩ s → m < 3 → (m ≠ 2 → c = 0) → c < 32 → b < 32 → a < imgTregs (s.imageOf th) →
    f ≤ 0x0E → convert f (s.rmOf th ⟨0, a, b, c, f, 16 * m, 0⟩) (s.tile th a) = some (x, e) → off = s.xr th b → n = (tilesArray f [x]).length →
    off + n ≤ imgSegment (s.imageOf th) →
    Completes (.millTst th) s fun t => GoesOn th s t ∧ XSet th 0 0 s t ∧ t.rdScratch th off n = tilesArray f [x] ∧
      (∀ k, (k < off ∨ off + n ≤ k) → t.rdScratch th k 1 = s.rdScratch th k 1) ∧ ∀ k, t.tile th k = s.tile th k) ∧
  (∀ th s a b c f m off x e n, Issues th 0x21 ⟨0, a, b, c, f, 16 * m + 1, 0⟩ s → m < 3 → (m ≠ 2 → c = 0) → c < 32 → b < 32 → a < imgTregs (s.imageOf th) →
    f ≤ 0x0E → convert f (s.rmOf th ⟨0, a, b, c, f, 16 * m + 1, 0⟩) (s.tile th a) = some (x, e) → off = s.xr th b → n = (tilesArray f [x]).length →
    off + n ≤ s.mil.pwinSize.toNat → s.mil.pwinBase.toNat + off + n ≤ s.capacity →
    Completes (.millTst th) s fun t =>
      (t.thread th).pc = (s.thread th).pc + 1 ∧ (t.thread th).st = .switched ∧ (t.thread th).waits = .access ∧ XSet th 0 0 s t ∧
      ∀ k, tget 0 t.ram k = if s.mil.pwinBase.toNat + off ≤ k ∧ k < s.mil.pwinBase.toNat + off + n then
        (tilesArray f [x]).getD (k - (s.mil.pwinBase.toNat + off)) 0 else tget 0 s.ram k) ∧
  (∀ th s a b c f m it cid pos x, Issues th 0x21 ⟨0, a, b, c, f, 16 * m + 2, 0⟩ s → m < 3 → c < 32 → b < 32 → a < imgTregs (s.imageOf th) → f ≤ 0x0E →
    s.lineOf th (s.xr th b % 2 ^ 32) (s.xr th c) = some (it, some (cid, pos, x)) → s.ctx cid = some x →
    Completes (.millTst th) s fun t =>
      (u8At it.bytes 19 = 0xFF → GoesOn th s t ∧ XSet th 0 0 s t ∧
        ∃ x', t.ctx cid = some x' ∧ (∀ k, k ≠ pos → x'.chunk k = x.chunk k) ∧
          ∀ k, k < (x.accOf pos).length → s.xr th c ≤ k → k < s.xr th c + (s.tile th a).vals.length → k < x.d.elemsOf pos →
            (x'.chunk pos).acc.getD k 0 = (accConvert x.d.afmt (modeOf m (u32At it.bytes 24) (u16At it.bytes 12) k) ((s.tile th a).vals.getD (k - s.xr th c) FV.zero)).1) ∧
      (∀ g y e old, g = u8At it.bytes 19 → g ≠ 0xFF →
        convert g (fun k => modeOf m (u32At it.bytes 24) (u16At it.bytes 12) (s.xr th c + k)) (s.tile th a) = some (y, e) →
        (old = match (x.chunk pos).outBytes with | some (_, l) => l.map (BitVec.ofNat 8) | none => zeros (encBytes g (x.d.elemsOf pos) false)) →
        GoesOn th s t ∧ XSet th 0 0 s t ∧ ∃ x', t.ctx cid = some x' ∧ (∀ k, k ≠ pos → x'.chunk k = x.chunk k) ∧ (x'.chunk pos).acc = (x.chunk pos).acc ∧
          (x'.chunk pos).outBytes = some (BitVec.ofNat 8 g,
            (layLine g (x.d.elemsOf pos) (s.xr th c) y (fit (encBytes g (x.d.elemsOf pos) false) old)).map (fun v => v.toNat)))) ∧
  (∀ th s d f, Issues th 0x22 ⟨d, 0, 0, 0, f, 0, 0⟩ s → d < imgTregs (s.imageOf th) → f ≤ 0x0E →
    Completes (.millTzero th) s fun t => GoesOn th s t ∧ XSet th 0 0 s t ∧ TileSet th d (zeroTile f) s t)

/-- Arithmetic on tiles (R260, R261, R270 to R276, R286): each instruction completes with T[D] as the rules compute it. The model's own choices in it: log entries 17, 67, 68 and 96. -/
def Obligations.TileArithmeticCompletes : Prop :=
  (∀ th s d a b c z n int pairs rates cc, Issues th 0x30 ⟨d, a, b, c, if int then 0x0E else 0x01, b2n z, n⟩ s → n < 16 → c < 32 →
    d < imgTregs (s.imageOf th) → a + n < imgTregs (s.imageOf th) → b + n < imgTregs (s.imageOf th) → a + n < 64 → b + n < 64 →
    pairs = (List.range (n + 1)).map (fun k => (s.tile th (a + k), s.tile th (b + k))) →
    (∀ p, p ∈ pairs → isIntOperand p.1.fmt.toNat = int ∧ ∃ r, pairRate p.1.fmt.toNat p.2.fmt.toNat = some r) →
    rates = pairs.map (fun p => (pairRate p.1.fmt.toNat p.2.fmt.toNat).getD 1) →
    s.engineFor (s.gcore th) (s.xr th c % 64) ≠ none → cc = s.tile th d → (z = false → cc.fmt.toNat = if int then 0x0E else 0x01) →
    Completes (.millTmma th) s fun t => GoesOn th s t ∧ XSet th 0 0 s t ∧
      TileSet th d (tileOf (if int then 0x0E else 0x01) false (fun _ => .rne)
        (mmaAll int ((List.zip pairs rates).map (fun p => (p.1.1, p.1.2, p.2))) (if z then List.replicate 1024 FV.zero else cc.vals)).1).1 s t) ∧
  (∀ th s d a b c f m i, i = (⟨d, a, b, c, f, 16 * m, 0⟩ : Ins) → m < 3 → (m ≠ 2 → c = 0) → b < 32 → c < 32 →
    d < imgTregs (s.imageOf th) → a < imgTregs (s.imageOf th) → b < imgTregs (s.imageOf th) → f ≤ 0x0E → f ≠ 0x0C →
    (Issues th 0x40 i s → Completes (.millTadd th) s fun t => GoesOn th s t ∧ XSet th 0 0 s t ∧
      TileSet th d (tileOf f (s.tile th a).transposed (s.rmOf th i)
        (List.zipWith (fun x y => (fp32Op FV.add x y).1) (s.tile th a).vals (s.tile th b).vals)).1 s t) ∧
    (Issues th 0x41 i s → Completes (.millTmul th) s fun t => GoesOn th s t ∧ XSet th 0 0 s t ∧
      TileSet th d (tileOf f (s.tile th a).transposed (s.rmOf th i)
        (List.zipWith (fun x y => (fp32Op FV.mul x y).1) (s.tile th a).vals (s.tile th b).vals)).1 s t) ∧
    (Issues th 0x42 i s → Completes (.millTscale th) s fun t => GoesOn th s t ∧ XSet th 0 0 s t ∧
      TileSet th d (tileOf f (s.tile th a).transposed (s.rmOf th i)
        (List.zipWith (fun x y => (fp32Op FV.mul x y).1) (s.tile th a).vals
          (List.replicate 1024 (ffDecode fmtFP32 (s.xr th b % 2 ^ 32))))).1 s t)) ∧
  (∀ th s d a b c f m i, i = (⟨d, a, b, c, f, 16 * m + 1, 0⟩ : Ins) → m < 3 → (m ≠ 2 → c = 0) → b < 32 → c < 32 →
    d < imgTregs (s.imageOf th) → a < imgTregs (s.imageOf th) → b < imgTregs (s.imageOf th) → f ≤ 0x0E → f ≠ 0x0C →
    Issues th 0x42 i s → Completes (.millTscale th) s fun t => GoesOn th s t ∧ XSet th 0 0 s t ∧
      TileSet th d (tileOf f (s.tile th a).transposed (s.rmOf th i)
        (List.zipWith (fun x y => (fp32Op FV.mul x y).1) (s.tile th a).vals
          ((List.range 1024).map (fun j => ((s.tile th b).vals.take 32).getD (j % 32) FV.zero)))).1 s t) ∧
  (∀ th s d a b c f m i tab fp, i = (⟨d, a, b, c, f, 16 * m, 0⟩ : Ins) → m < 3 → (m ≠ 2 → c = 0) → b < 32 → c < 32 →
    d < imgTregs (s.imageOf th) → a < imgTregs (s.imageOf th) → f ≤ 0x0E → f ≠ 0x0C → s.xr th b + 1036 ≤ imgSegment (s.imageOf th) →
    tab = s.rdScratch th (s.xr th b) 1036 → fp = (fun k => ffDecode fmtFP32 (u32At tab (4 * k))) →
    Issues th 0x43 i s → Completes (.millTlut th) s fun t => GoesOn th s t ∧ XSet th 0 0 s t ∧
      TileSet th d (tileOf f (s.tile th a).transposed (s.rmOf th i)
        ((s.tile th a).vals.map (fun x => lutValue (fp 0) (fp 1) (u32At tab 0) (u32At tab 4) (fun k => fp (2 + k)) (operand32 x).1))).1 s t) ∧
  (∀ th s d a b c f m i, i = (⟨d, a, b, c, f, 16 * m, 0⟩ : Ins) → m < 3 → (m ≠ 2 → b = 0 ∧ c = 0) → b < 32 → c < 32 →
    d < imgTregs (s.imageOf th) → a < imgTregs (s.imageOf th) → f ≤ 0x0E → f ≠ 0x0C →
    (Issues th 0x44 i s → Completes (.millTcvt th) s fun t => GoesOn th s t ∧ XSet th 0 0 s t ∧
      TileSet th d (tileOf f (s.tile th a).transposed (s.rmOf th i) (s.tile th a).vals).1 s t) ∧
    (Issues th 0x60 i s → Completes (.millTq th) s fun t => GoesOn th s t ∧ XSet th 0 0 s t ∧
      TileSet th d (tileOf f (s.tile th a).transposed (s.rmOf th i) (s.tile th a).vals).1 s t) ∧
    ((f = 1 ∨ f = 2) → Issues th 0x61 i s → Completes (.millTdq th) s fun t => GoesOn th s t ∧ XSet th 0 0 s t ∧
      TileSet th d (tileOf f (s.tile th a).transposed (s.rmOf th i) (s.tile th a).vals).1 s t)) ∧
  (∀ th s d a b m, Issues th 0x60 ⟨d, a, b, 0, 0x0C, 16 * m, 0⟩ s → m < 3 → d < imgTregs (s.imageOf th) → a < imgTregs (s.imageOf th) →
    b < imgTregs (s.imageOf th) → (s.tile th b).fmt = 2 →
    Completes (.millTq th) s fun t => GoesOn th s t ∧ XSet th 0 0 s t ∧
      TileSet th d (quantTileCb (s.tile th a).transposed
        ((List.range 4).map (fun j => (List.range 16).map (fun k => BitVec.ofNat 16 (u16At ((s.tile th b).bytes (64 * j) 32) (2 * k)))))
        (s.tile th a).vals).1 s t) ∧
  (∀ th s d a m step idx, Issues th 0x60 ⟨d, a, 0, 0, 0x0C, 16 * m + 64 + 128 * b2n step, idx⟩ s → m < 3 → idx < 4096 →
    d < imgTregs (s.imageOf th) → a < imgTregs (s.imageOf th) →
    Completes (.millTq th) s fun t => GoesOn th s t ∧ XSet th 0 0 s t ∧
      TileSet th d (quantTileCb (s.tile th a).transposed
        ((List.range 4).map (fun j => (s.cbLook ((if step then idx + j else idx) % 4096)).getD (List.replicate 16 0)))
        (s.tile th a).vals).1 s t) ∧
  (∀ th s d a f op col lists, Issues th 0x50 ⟨d, a, 0, 0, f, op + 4 * b2n col, 0⟩ s → op < 3 → d < imgTregs (s.imageOf th) → a < imgTregs (s.imageOf th) →
    f ≤ 0x0E → f ≠ 0x0C →
    lists = (if col then (List.range 32).map (fun j => (List.range 32).map (fun r => (s.tile th a).vals.getD (32 * r + j) FV.zero))
      else rows32 (s.tile th a).vals) →
    Completes (.millTred th) s fun t => GoesOn th s t ∧ XSet th 0 0 s t ∧
      TileSet th d (rowZero f (lists.map (fun l => (reduceList op l).1)) (s.tile th d)).1 s t)

/-- Yards and packets (R289 to R291, R299, R300): what YPUT, YGET, YNEXT, YFLUSH, SEND and SENDT leave. The model's own choices in it: log entries 67, 69, 70 and 97. -/
def Obligations.MillYardsComplete : Prop :=
  (∀ th s a n y last b v, Issues th 0xA0 ⟨0, a, 0, 0, 0, n + 16 * b2n last, y⟩ s → a < 32 → n ≤ 8 → y < 8 → y ≤ imgWyards (s.imageOf th) →
    s.bindOf (thBid th) = some b → v = b.side → yardUsed (v.yard y) + 8 ≤ s.yardCap v.place y →
    Completes (.millYput th) s fun t => GoesOn th s t ∧ XSet th 0 0 s t ∧
      ∃ b' it, t.bindOf (thBid th) = some b' ∧ (b'.side.yard y).getLast? = some it ∧ it.complete = last ∧
        it.bytes = ((v.writing y (thKey th)).map YItem.bytes).getD [] ++
          (if last then (toLE 8 (s.xr th a)).take (if n = 0 then 8 else n) else fit 8 ((toLE 8 (s.xr th a)).take (if n = 0 then 8 else n)))) ∧
  (∀ th s d a n y it bs, Issues th 0xA1 ⟨d, a, 0, 0, 0, n, y⟩ s → a < 32 → d + n ≤ 32 → 1 ≤ n → n ≤ 8 → y < 8 → y ≤ imgWyards (s.imageOf th) →
    s.curItem th y = some it → it.flushed = false → it.aged = false → it.rd < it.bytes.length → it.far (8 * n) = false →
    bs = (it.bytes.drop it.rd).take (8 * n) →
    Completes (.millYget th) s fun t => GoesOn th s t ∧
      (a ≠ 0 → t.xr th a = bs.length + 2 ^ 16 * b2n (decide (it.bytes.length ≤ it.rd + bs.length))) ∧
      (∀ k, 8 * k < bs.length → d + k ≠ 0 → d + k ≠ a → t.xr th (d + k) = leNat ((bs.drop (8 * k)).take 8)) ∧
      (∀ r, r ≠ a → (r < d ∨ d + n ≤ r) → t.xr th r = s.xr th r) ∧
      t.curItem th y = some { it with rd := it.rd + bs.length }) ∧
  (∀ th s d a n y it, Issues th 0xA1 ⟨d, a, 0, 0, 0, n, y⟩ s → a < 32 → d + n ≤ 32 → 1 ≤ n → n ≤ 8 → y < 8 → y ≤ imgWyards (s.imageOf th) →
    s.curItem th y = some it → it.flushed = true → it.flow? = none →
    Completes (.millYget th) s fun t => GoesOn th s t ∧ XSet th a (2 ^ 16 + 2 ^ 17) s t ∧ t.curItem th y = none) ∧
  (∀ th s y it, Issues th 0xA2 ⟨0, 0, 0, 0, 0, 0, y⟩ s → y < 8 → y ≤ imgWyards (s.imageOf th) →
    s.curItem th y = some it → it.flushed = false → it.aged = false →
    Completes (.millYnext th) s fun t => GoesOn th s t ∧ XSet th 0 0 s t ∧ t.curItem th y = some { it with rd := it.bytes.length }) ∧
  (∀ th s y b, Issues th 0xA3 ⟨0, 0, 0, 0, 0, 0, y⟩ s → y < 8 → y ≤ imgWyards (s.imageOf th) → s.bindOf (thBid th) = some b → b.oldPlace = none → b.order = [] →
    Completes (.millYflush th) s fun t => GoesOn th s t ∧ XSet th 0 0 s t ∧
      ∃ b', t.bindOf (thBid th) = some b' ∧ b'.yard y =
        (if b.place.kind = false ∧ y = 0 then b.yard y
         else ((b.yard y).filter (fun i => i.claimed.isSome && i.complete)).map (fun i => if i.gone = true then i else { i with flushed := true }))) ∧
  (∀ th s a b c f n w (h : BitVec 20 → Hdr) (p : BitVec 20 → Pkt) q, Issues th 0x70 ⟨0, a, b, c, f, 0, n⟩ s → a ≤ 28 → c < 32 → n < 16 →
    b + n < imgTregs (s.imageOf th) → b + n < 64 → f ≤ 0x0E → s.fwd.mgmtEid ≠ 0 →
    (w = fun (k : Nat) => BitVec.ofNat 32 (s.xr th (a + k / 2) / 2 ^ (32 * (k % 2)))) →
    (h = fun job => (Hdr.setEpoch { w0 := w 0, w1 := w 1, w2 := s.fwd.mgmtEid, w3 := putFld (w 3) 12 20 job.toNat, w4 := w 4, w5 := w 5, w6 := w 6, weight := 0 } s.fwd.cur).setHops 0) →
    (p = fun job => { h := h job, payload := sendPayload th b (n + 1) f (h job).len s, tin := s.now, inPort := 2048 + s.dOf th, c2 := false, counted := false, thread := some (thId th) }) →
    q = s.xr th c % 2048 → s.up q = true → s.dist (districtOf q) ≠ .draining → (h 0).isSched = false → s.roomFor q (h 0).tc (p 0).cells = true →
    PlainSwitch s → s.outputWaits (thId th) = false →
    Completes (.millSend th) s fun t => GoesOn th s t ∧ XSet th 0 0 s t ∧
      ∃ job, (∀ j, s.itemJob th = some j → job = j) ∧ JoinsQueue q (p job) s t) ∧
  (∀ th s a b f n it p hop bi o, Issues th 0x71 ⟨0, a, b, 0, f, 0, n⟩ s → a < 32 → n < 16 → b + n < imgTregs (s.imageOf th) → b + n < 64 → f ≤ 0x0E →
    s.curItem th 0 = some it → it.kind = .flow p hop → it.sent = false → it.flushed = false → it.aged = false →
    s.bindOf (thBid th) = some bi → bi.outs = [] → (∃ j r, bi.order = j :: r ∧ j ≠ it.id) →
    o = { p with h := { p.h.setLen (s.xr th a % 65536) with w4 := putFld (p.h.setLen (s.xr th a % 65536)).w4 0 8 f },
                 payload := sendPayload th b (n + 1) f (s.xr th a % 65536) s, thread := some (thId th), flow := some (s.dOf th) } →
    Completes (.millSendt th) s fun t =>
      (t.thread th).pc = (s.thread th).pc + 1 ∧ (t.thread th).st = .switched ∧ (t.thread th).waits = .output ∧ XSet th 0 0 s t ∧
      t.curItem th 0 = some { it with sent := true } ∧
      ∃ b', t.bindOf (thBid th) = some b' ∧ b'.outs = [⟨it.id, some o, hop⟩] ∧ b'.order = bi.order) ∧
  (∀ th s a b f n it p q bi r o u, Issues th 0x71 ⟨0, a, b, 0, f, 0, n⟩ s → a < 32 → n < 16 → b + n < imgTregs (s.imageOf th) → b + n < 64 → f ≤ 0x0E →
    s.curItem th 0 = some it → it.kind = .flow p (.port q) → it.sent = false → it.flushed = false → it.aged = false →
    s.bindOf (thBid th) = some bi → bi.outs = [] → bi.order = it.id :: r →
    o = { p with h := { p.h.setLen (s.xr th a % 65536) with w4 := putFld (p.h.setLen (s.xr th a % 65536)).w4 0 8 f },
                 payload := sendPayload th b (n + 1) f (s.xr th a % 65536) s, thread := some (thId th), flow := some (s.dOf th) } →
    u = fillPolicer o.inPort s → o.inPort < 2048 → s.aged o = false → o.h.isSched = false → u.policerHolds o.inPort = false →
    4 * o.size ≤ (u.sched o.inPort).bucket → s.up q = true → s.dist (districtOf q) ≠ .draining → s.roomFor q o.h.tc o.cells = true → PlainSwitch s → s.outputWaits (thId th) = false →
    Completes (.millSendt th) s fun t => GoesOn th s t ∧ XSet th 0 0 s t ∧ JoinsQueue q o s t ∧
      t.curItem th 0 = some { it with sent := true } ∧ ∃ b', t.bindOf (thBid th) = some b' ∧ b'.outs = [] ∧ b'.order = r)

/-- Optical engines (R329 to R332): what ENG_HELLO, STATUS, ACK and the passing of time leave of an engine. The model's own choices in it: log entries 8, 17, 74, 87 and 98. -/
def Obligations.OpticalEnginesComplete : Prop :=
  (∀ (e : Fin 32) second codes seq b s, HearsEngine s e second codes 0x80 seq b → s.engPresent e.val = true → (∃ p, p ∈ s.namedPaths e.val ∧ bitAt (u64At b 12) (p % 64) = false) →
    Completes (.engHello ⟨e, second⟩ codes) s fun t =>
      (t.engine e.val).st = .mismatch ∧ (t.engine e.val).fitted = BitVec.ofNat 64 (u64At b 12) ∧ t.opt.event.getLsbD 4 = true ∧
      ∀ p, p ∈ s.namedPaths e.val → (s.path p).txst ≠ .retired → (t.path p).txst = .off ∧ (t.path p).rxst = .off) ∧
  (∀ (e : Fin 32) second codes seq b s, HearsEngine s e second codes 0x80 seq b → s.engPresent e.val = true → (∀ p, p ∈ s.namedPaths e.val → bitAt (u64At b 12) (p % 64) = true) →
    Completes (.engHello ⟨e, second⟩ codes) s fun t =>
      (t.engine e.val).st = .up ∧ (t.engine e.val).devid = BitVec.ofNat 64 (u64At b 0) ∧
      (∃ c, c ∈ (t.engine e.val).cmds ∧ c.type = 0x81 ∧
        c.payload = [(tget OptEng.none s.plt.plat.eng e.val).hgain, (tget OptEng.none s.plt.plat.eng e.val).lgain] ++ zeros 6) ∧
      ∀ p, p ∈ s.namedPaths e.val → (s.path p).txst ≠ .retired → (t.path p).txst = .sweep ∧ (t.path p).rxst = .sweep) ∧
  (∀ (e : Fin 32) second codes seq b s, HearsEngine s e second codes 0x85 seq b → s.engPresent e.val = true → ((s.engine e.val).st = .up ∨ (s.engine e.val).st = .lost) → s.opt.fly = [] →
    Completes (.engineStatus ⟨e, second⟩ codes) s fun t =>
      (t.engine e.val).st = .up ∧ (t.engine e.val).statusAt = s.clk ∧
      ∀ (i : Fin 64) o r l, o = t.path (64 * e.val + i.val) → r = slice b (20 * i.val) 20 → s.laneOfPath (64 * e.val + i.val) = some l →
        o.las = BitVec.ofNat 16 (u16At r 6) ∧ o.mod = BitVec.ofNat 16 (u16At r 8) ∧ o.launch = BitVec.ofNat 16 (u16At r 10) ∧
        o.rxin = BitVec.ofNat 16 (u16At r 12) ∧ o.txid = BitVec.ofNat 16 (u16At r 14) ∧ o.rxid = BitVec.ofNat 16 (u16At r 16) ∧
        ((s.path (64 * e.val + i.val)).txst = .verify → (s.path (64 * e.val + i.val)).fly = none → o.txid = (s.optLane l).txId → o.txst = .locked) ∧
        ((s.path (64 * e.val + i.val)).rxst = .verify → o.rxid = (s.optLane l).rxId → o.rxst = .locked)) ∧
  (∀ (e : Fin 32) second codes (seq : Byte) b c s, HearsEngine s e second codes 0x8F seq b → (s.engine e.val).cmds.find? (fun c => c.seq == seq) = some c →
    Completes (.engineAck e second codes) s fun t =>
      (t.engine e.val).cmds = (s.engine e.val).cmds.filter (fun c => c.seq != seq) ∧
      (∀ n, c.fly = some n → (t.flyOf n).crossed = (s.flyOf n).crossed + if c.type = 0x86 ∧ u8At c.payload 2 = 1 ∧ u8At b 0 = 0 then 1 else 0)) ∧
  (∀ dt s, Completes (.keepalive dt) s fun t =>
    t.clk = s.clk + dt ∧ ∀ e, e < 32 → s.engPresent e = true → (t.engine e).seq = (s.engine e).seq + 1 ∧
      ∃ m, m ∈ t.out ∧ Carries (s.engLane e) 0x84 (s.engine e).seq (toLE 8 (elapse dt s).now) false m) ∧
  (∀ dt (e : Fin 32) s, Completes (.engineCmdRetry dt e) s fun t =>
    (∀ c, c ∈ (s.engine e.val).cmds → 200000 ≤ s.clk + dt - c.at_ → c.sends < 4 →
      { c with sends := c.sends + 1, at_ := s.clk + dt } ∈ (t.engine e.val).cmds ∧
      ∃ m, m ∈ t.out ∧ Carries (s.engLane e.val) c.type.toNat c.seq c.payload false m) ∧
    (∀ c, c ∈ (t.engine e.val).cmds → s.clk + dt - c.at_ < 200000)) ∧
  (∀ dt (e : Fin 32) s, (s.engine e.val).st = .up → 10 ^ 7 ≤ s.clk + dt - (s.engine e.val).statusAt →
    Completes (.engineLost dt e) s fun t => (t.engine e.val).st = .lost ∧ t.opt.event.getLsbD 4 = true ∧ t.opt.path = s.opt.path) ∧
  (∀ dt (e : Fin 32) s, s.clk + dt - (s.engine e.val).statusAt < 10 ^ 7 → Completes (.engineLost dt e) s fun t => t.opt = s.opt)

/-- Optical paths (R334, R337 to R341): the drop ring's retry, calibration of one path and mislocks. The model's own choices in it: log entries 4, 74 and 98. -/
def Obligations.OpticalPathsComplete : Prop :=
  (∀ dt (p : Fin 2048) a s, (s.path p.val).dark = some a → (s.path p.val).rxst = .sweep → s.engLost p.val = false → 10 ^ 9 ≤ s.clk + dt - a →
    Completes (.dropRingRetry dt p) s fun t =>
      (t.path p.val).rxst = .sweep ∧
      (s.lit p.val = true → (t.path p.val).dark = none ∧ (t.path p.val).rxMatch = s.clk + dt) ∧
      ((s.path p.val).rxin ≠ 0x8000 → s.lit p.val = false → (t.path p.val).dark = some (s.clk + dt)) ∧
      ((s.path p.val).rxin = 0x8000 → (t.path p.val).dark = none ∧ (t.path p.val).unread = true)) ∧
  (∀ hp (p : Fin 2048) l port r s, Owner hp s → s.laneOfPath p.val = some l → s.portOfLane l = some port → optCalRefusal s port l p.val = some r →
    (s.path p.val).calres ≠ .running →
    Completes (.optCal hp p) s fun t => (t.path p.val).calres = r ∧ t = { s with opt := t.opt } ∧ t.opt = { s.opt with path := t.opt.path } ∧
      ∀ q, q ≠ p.val → t.path q = s.path q) ∧
  (∀ hp (p : Fin 2048) l port s, Owner hp s → s.laneOfPath p.val = some l → s.portOfLane l = some port → optCalRefusal s port l p.val = none →
    s.opt.fly = [] →
    Completes (.optCal hp p) s fun t => (t.path p.val).calres = .running ∧ (t.path p.val).txst = .cal ∧ (t.path p.val).rxst = .cal ∧
      (t.path p.val).calPass = 0) ∧
  (∀ dt (p : Fin 2048) o u s, u = elapse dt s → o = s.path p.val → o.calres = .running →
    Completes (.optCalPassEnd dt p) s fun t =>
      (o.calTx = true → o.calRx = true → (t.path p.val).calres = .ok ∧ (t.path p.val).txst = .locked ∧ (t.path p.val).rxst = .locked) ∧
      ((o.calTx && o.calRx) = false → (u.lasFails p.val = true ∨ 500000000 ≤ s.clk + dt - o.calAt) → o.calPass + 1 < 3 → s.engLost p.val = false →
        (t.path p.val).calres = .running ∧ (t.path p.val).txst = .cal ∧ (t.path p.val).calPass = o.calPass + 1 ∧ (t.path p.val).calAt = s.clk + dt) ∧
      ((o.calTx && o.calRx) = false → (u.lasFails p.val = true ∨ 500000000 ≤ s.clk + dt - o.calAt) → o.calPass + 1 < 3 → s.engLost p.val = true →
        (t.path p.val).calres = .engine) ∧
      ((o.calTx && o.calRx) = false → (u.lasFails p.val = true ∨ 500000000 ≤ s.clk + dt - o.calAt) → 3 ≤ o.calPass + 1 →
        (t.path p.val).calres = .failed ∧ (t.path p.val).txst = if s.engLost p.val = true then .mislock else .sweep) ∧
      ((o.calTx && o.calRx) = false → u.lasFails p.val = false → s.clk + dt - o.calAt < 500000000 → t = u)) ∧
  (∀ dt (p : Fin 2048) drop seen l s, s.laneOfPath p.val = some l → s.opt.fly = [] → s.engLost p.val = false → (s.path p.val).calres ≠ .running →
    (if drop then ((s.path p.val).rxst = .verify ∨ (s.path p.val).rxst = .locked) ∧ 200000000 ≤ s.clk + dt - (s.path p.val).rxMatch
     else ((s.path p.val).txst = .verify ∨ (s.path p.val).txst = .locked) ∧ 200000000 ≤ s.clk + dt - (s.path p.val).txMatch) →
    Completes (.mislock dt p drop seen) s fun t =>
      t.opt.event.getLsbD 0 = true ∧ t.opt.mislog = mislogWord drop seen p.val ∧
      ((s.path p.val).mislocks.toNat < 2 → (t.path p.val).mislocks = (s.path p.val).mislocks + 1 ∧
        (if drop then (t.path p.val).rxst = .sweep else (t.path p.val).txst = .sweep)) ∧
      (2 ≤ (s.path p.val).mislocks.toNat → (t.path p.val).txst = .retired ∧ (t.path p.val).rxst = .retired ∧ t.opt.event.getLsbD 1 = true)) ∧
  (∀ dt (p : Fin 2048) drop seen l o s, s.laneOfPath p.val = some l → s.opt.fly = [] → s.engLost p.val = false → o = s.path p.val → o.calres = .running →
    o.calTrim = false → (if drop then o.rxst = .cal ∧ verifying o.rxEng = true ∧ 200000000 ≤ s.clk + dt - o.rxMatch
      else o.txst = .cal ∧ verifying o.txEng = true ∧ 200000000 ≤ s.clk + dt - o.txMatch) →
    Completes (.mislock dt p drop seen) s fun t =>
      t.opt.event.getLsbD 0 = true ∧ t.opt.mislog = mislogWord drop seen p.val ∧
      (o.mislocks.toNat < 2 → o.calPass + 1 < 3 → (t.path p.val).calres = .running ∧ (t.path p.val).txst = .cal ∧ (t.path p.val).calPass = o.calPass + 1) ∧
      (2 ≤ o.mislocks.toNat → (t.path p.val).calres = .failed ∧ (t.path p.val).txst = .retired ∧ (t.path p.val).rxst = .retired))

/-- Flyovers (R342, R344, R346, R347): SET, CLEAR and each instant of a flyover complete with the STATE and the REASON that the rules give; a refused SET changes nothing else. The model's own choices in it: log entries 74 and 98. -/
def Obligations.FlyoversComplete : Prop :=
  (∀ hp (n : Byte) s, Owner hp s → s.opt.busy = false → flyRefusal s n.toNat (fld s.opt.lanes.toNat 0 11) (fld s.opt.lanes.toNat 16 11) s.opt.at_.toNat = none →
    Completes (.flySet hp n) s fun t =>
      t.opt.status = 0 ∧ t.flyOf n.toNat = { Fly.reset with st := .prep, laneA := BitVec.ofNat 11 (fld s.opt.lanes.toNat 0 11), laneB := BitVec.ofNat 11 (fld s.opt.lanes.toNat 16 11), eidA := s.opt.eidA, eidB := s.opt.eidB, tcut := s.opt.at_.toNat } ∧
      ∀ m, m ≠ n.toNat → t.flyOf m = s.flyOf m) ∧
  (∀ hp (n : Byte) c s, Owner hp s → s.opt.busy = false → flyRefusal s n.toNat (fld s.opt.lanes.toNat 0 11) (fld s.opt.lanes.toNat 16 11) s.opt.at_.toNat = some c →
    Completes (.flySet hp n) s fun t => t.opt = { s.opt with status := BitVec.ofNat 8 c } ∧ t.out = s.out ∧ t.lnk = s.lnk) ∧
  (∀ hp (n : Byte) s, Owner hp s → s.opt.busy = false →
    Completes (.flyClear hp n) s fun t =>
      (s.glb.state ≠ .inService → t.opt = { s.opt with status := 1 }) ∧
      (s.glb.state = .inService → (s.flyOf n.toNat).st ≠ .on → t.opt = { s.opt with status := 10 }) ∧
      (s.glb.state = .inService → (s.flyOf n.toNat).st = .on → s.now + 2000000 ≤ s.opt.at_.toNat → s.opt.at_.toNat ≤ s.now + 10 ^ 9 →
        t.opt.status = 0 ∧ t.flyOf n.toNat = { s.flyOf n.toNat with st := .offPending, offAt := s.opt.at_.toNat }) ∧
      (s.glb.state = .inService → (s.flyOf n.toNat).st = .on → s.opt.at_ ≠ 0 → (s.opt.at_.toNat < s.now + 2000000 ∨ s.now + 10 ^ 9 < s.opt.at_.toNat) →
        t.opt = { s.opt with status := 6 }) ∧
      (s.glb.state = .inService → (s.flyOf n.toNat).st = .on → s.opt.at_ = 0 →
        t.opt.status = 0 ∧ (t.flyOf n.toNat).reason = 1 ∧ ((t.flyOf n.toNat).st = .returning ∨ (t.flyOf n.toNat).st = .free))) ∧
  (∀ dt (n : Byte) s, (s.flyOf n.toNat).st = .prep → (s.flyOf n.toNat).tcut ≤ (elapse dt s).now →
    Completes (.flyoverCut dt n) s fun t => (t.flyOf n.toNat).st = .switching ∧ (t.flyOf n.toNat).crossed = 0) ∧
  (∀ dt (n : Byte) s, (s.flyOf n.toNat).st = .switching → (s.flyOf n.toNat).tcut + 10 ^ 6 ≤ (elapse dt s).now →
    ((s.flyOf n.toNat).ackA && (s.flyOf n.toNat).ackB && (s.flyOf n.toNat).poffA && (s.flyOf n.toNat).poffB) = false →
    (s.engine ((s.flyPaths n.toNat).1 / 64)).st ≠ .lost →
    Completes (.flyOffAckDeadline dt n) s fun t =>
      (t.flyOf n.toNat).reason = 2 ∧ ((t.flyOf n.toNat).st = .returning ∨ (t.flyOf n.toNat).st = .free) ∧ t.opt.event.getLsbD 3 = true) ∧
  (∀ dt (n : Byte) (a b : Half) s, (s.flyOf n.toNat).st = .switching → 2 ≤ (s.flyOf n.toNat).crossed → (s.engine ((s.flyPaths n.toNat).1 / 64)).st ≠ .lost →
    Completes (.flyVerify dt n a b) s fun t =>
      if signed 16 a.toNat < signed 16 s.opt.floor.toNat ∨ signed 16 b.toNat < signed 16 s.opt.floor.toNat then
        (t.flyOf n.toNat).reason = 3 ∧ ((t.flyOf n.toNat).st = .returning ∨ (t.flyOf n.toNat).st = .free) ∧ t.opt.event.getLsbD 3 = true
      else (t.flyOf n.toNat).st = .on) ∧
  (∀ dt (n : Byte) s, (s.flyOf n.toNat).st = .offPending → (s.flyOf n.toNat).offAt ≤ (elapse dt s).now →
    Completes (.flyOffInstant dt n) s fun t =>
      (t.flyOf n.toNat).reason = 1 ∧ ((t.flyOf n.toNat).st = .returning ∨ (t.flyOf n.toNat).st = .free) ∧
      (t.path (s.flyPaths n.toNat).1).txst = .locked ∧ (t.path (s.flyPaths n.toNat).2).txst = .locked ∧ (t.path (s.flyPaths n.toNat).1).fly = none) ∧
  (∀ dt (n : Byte) s, (s.flyOf n.toNat).st = .switching → (s.flyOf n.toNat).tcut + 5 * 10 ^ 6 ≤ (elapse dt s).now →
    (s.engine ((s.flyPaths n.toNat).1 / 64)).st ≠ .lost →
    Completes (.flySwitchTimeout dt n) s fun t =>
      (t.flyOf n.toNat).reason = 9 ∧ ((t.flyOf n.toNat).st = .returning ∨ (t.flyOf n.toNat).st = .free) ∧ t.opt.event.getLsbD 3 = true)

/-- Scored parts (R361 to R365, R369, R380): QUERY, DRAIN, RETURN, ZERO and TEST of a part, the end of a test, the end of a DRAINWAIT and the hourly save. The model's own choices in it: log entries 12, 15, 44 and 45. -/
def Obligations.PartCommandsComplete : Prop :=
  (∀ p (k : BitVec 2) (i : BitVec 12) s, Owner p s → s.res.partBusy = false → i.toNat < partCount k.toNat →
    Completes (.partQuery p k i) s fun t =>
      t.res = { s.res with partStatus := 0, partInfo := BitVec.ofNat 32 (s.score k.toNat i.toNat * 2 ^ 22 + (s.partOf k.toNat i.toNat).st.code * 2 ^ 19 +
        (s.partOf k.toNat i.toNat).test.code * 2 ^ 17 + (if k = 2 then (Config.bankPart i.toNat).toNat else 0) * 2 ^ 14) }) ∧
  (∀ p (k : BitVec 2) (i : BitVec 12) s, Owner p s → s.res.partBusy = false → partCount k.toNat ≤ i.toNat →
    Completes (.partQuery p k i) s fun t => t.res = { s.res with partStatus := 1 }) ∧
  (∀ p (k : BitVec 2) (i : BitVec 12) s, Owner p s → s.res.partBusy = false → i.toNat < partCount k.toNat →
    Completes (.partDrain p k i) s fun t =>
      t.res.partStatus = 0 ∧
      (((s.partOf k.toNat i.toNat).st = .inService ∨ (s.partOf k.toNat i.toNat).st = .watch) →
        (s.drainable k.toNat i.toNat = true → (t.partOf k.toNat i.toNat).st = .drained ∧ t.res.cruiseEvent.getLsbD 1 = true ∧
          (k = 1 → tget false t.mil.withdrawn i.toNat = true)) ∧
        (s.drainable k.toNat i.toNat = false → (t.partOf k.toNat i.toNat).st = .drainWait ∧ t.res.cruiseEvent.getLsbD 2 = true)) ∧
      (((s.partOf k.toNat i.toNat).st ≠ .inService ∧ (s.partOf k.toNat i.toNat).st ≠ .watch) → t.res.parts = s.res.parts)) ∧
  (∀ p (k : BitVec 2) (i : BitVec 12) s, Owner p s → s.res.partBusy = false → i.toNat < partCount k.toNat →
    Completes (.partReturn p k i) s fun t =>
      (s.score k.toNat i.toNat < s.drainAt k.toNat → t.res = { s.res with partStatus := 9 }) ∧
      (s.drainAt k.toNat ≤ s.score k.toNat i.toNat → t.res.partStatus = 0 ∧
        ((s.partOf k.toNat i.toNat).st = .drained →
          (t.partOf k.toNat i.toNat).st = (if s.score k.toNat i.toNat < s.watchAt k.toNat then .watch else .inService) ∧
          (k = 1 → tget false t.mil.withdrawn i.toNat = false)))) ∧
  (∀ p (k : BitVec 2) (i : BitVec 12) s, Owner p s → s.res.partBusy = false → i.toNat < partCount k.toNat →
    Completes (.partZero p k i) s fun t =>
      t.res.partStatus = 0 ∧ t.score k.toNat i.toNat = 1000 ∧ (t.partOf k.toNat i.toNat).st = (s.partOf k.toNat i.toNat).st) ∧
  (∀ p (i : BitVec 12) s, Owner p s → s.res.partBusy = false → i.toNat < 1536 →
    Completes (.partTest p 1 i) s fun t =>
      ((∃ e, e < 12 ∧ (s.partOf 1 (i.toNat / 12 * 12 + e)).st = .testing) → t.res = { s.res with partStatus := 7 }) ∧
      ((∀ e, e < 12 → (s.partOf 1 (i.toNat / 12 * 12 + e)).st ≠ .testing) →
        t.res.partStatus = 0 ∧ (t.partOf 1 i.toNat).st = .testing ∧ tget false t.mil.withdrawn i.toNat = true)) ∧
  (∀ p (i : BitVec 12) s, Owner p s → s.res.partBusy = false →
    Completes (.partTest p 2 i) s fun t =>
      ((s.partOf 2 i.toNat).st = .testing → t.res = { s.res with partStatus := 7 }) ∧
      ((s.partOf 2 i.toNat).st ≠ .testing → s.bankFree i.toNat = false → t.res = { s.res with partStatus := 8 }) ∧
      (s.bankFree i.toNat = true → t.res.partStatus = 0 ∧ (t.partOf 2 i.toNat).st = .testing)) ∧
  (∀ p (k : BitVec 2) (i : BitVec 12) s, Owner p s → s.res.partBusy = false → (k = 0 ∨ k = 3) →
    Completes (.partTest p k i) s fun t => t.res = { s.res with partStatus := 1 }) ∧
  (∀ (k : BitVec 2) (i : BitVec 12) ok s, (s.partOf k.toNat i.toNat).st = .testing →
    Completes (.partTestEnd k i ok) s fun t =>
      t.res.cruiseEvent.getLsbD 4 = true ∧
      (ok = false → (t.partOf k.toNat i.toNat).st = .drained ∧ (t.partOf k.toNat i.toNat).test = .fail ∧ t.score k.toNat i.toNat = 0) ∧
      (ok = true → (t.partOf k.toNat i.toNat).test = .pass ∧
        (t.partOf k.toNat i.toNat).st = (if (s.partOf k.toNat i.toNat).wasDrained = true ∧ k = 1 then .drained else s.freeState k.toNat i.toNat))) ∧
  (∀ (k : BitVec 2) (i : BitVec 12) s, (s.partOf k.toNat i.toNat).st = .drainWait → s.drainable k.toNat i.toNat = true →
    Completes (.drainwaitRelease k i) s fun t => (t.partOf k.toNat i.toNat).st = .drained ∧ t.res.cruiseEvent.getLsbD 1 = true) ∧
  (∀ dt s, Completes (.cruiseSave dt) s fun t =>
    t.clk = s.clk + dt ∧ t.res = s.res ∧
    t.nv.savedPen = s.res.parts.filterMap (fun e =>
      if decay e.2.pen (s.clk + dt - e.2.penAt) s.halfLife = 0 then none else some (e.1, decay e.2.pen (s.clk + dt - e.2.penAt) s.halfLife)))

/-- The full self-test and the thermal governor (R366, R369, R370). The model's own choices in it: log entries 4 and 44. -/
def Obligations.SelfTestAndGovernorComplete : Prop :=
  (∀ p s, Owner p s → s.res.testBusy = false →
    Completes (.fullSelfTest p) s fun t =>
      if s.glb.state = .quiesced then t.res = { s.res with testStatus := 0, testResult := 1, testBusy := true } else t.res = { s.res with testStatus := 6 }) ∧
  (∀ p s, Owner p s → s.res.testBusy = true → Completes (.fullSelfTest p) s fun t => t.res = { s.res with testReject := true }) ∧
  (∀ (e b : List Nat) s, s.res.testBusy = true →
    Completes (.selfTestEnd e b) s fun t =>
      t.res.testBusy = false ∧ t.res.cruiseEvent.getLsbD 4 = true ∧
      t.res.testResult = (if (∀ i, i ∈ e → 1536 ≤ i) ∧ (∀ i, i ∈ b → 4096 ≤ i) then 2 else 3) ∧
      (∀ i, i ∈ e → i < 1536 → t.score 1 i = 0) ∧ (∀ i, i ∈ b → i < 4096 → t.score 2 i = 0)) ∧
  (∀ dt (d : Fin 16) s, 1600 < celsius16 (s.gov d.val).tj → 10000000 ≤ s.clk + dt - (s.gov d.val).last → (s.gov d.val).level.toNat < 12 →
    Completes (.thermalGovWithdraw dt d) s fun t =>
      t.gov d.val = { s.gov d.val with level := (s.gov d.val).level + 1, last := s.clk + dt } ∧ (∀ e, e ≠ d.val → t.gov e = s.gov e) ∧
      t.pwr.event.getLsbD 0 = true) ∧
  (∀ dt (d : Fin 16) s, celsius16 (s.gov d.val).tj ≤ 1552 → 100000000 ≤ s.clk + dt - (s.gov d.val).last → (s.gov d.val).level ≠ 0 →
    Completes (.thermalGovReturn dt d) s fun t =>
      t.gov d.val = { s.gov d.val with level := (s.gov d.val).level - 1, last := s.clk + dt } ∧ ∀ e, e ≠ d.val → t.gov e = s.gov e) ∧
  (∀ dt (d : Fin 16) s, 1552 < celsius16 (s.gov d.val).tj → celsius16 (s.gov d.val).tj ≤ 1600 →
    (Completes (.thermalGovWithdraw dt d) s fun t => t.res = s.res) ∧ Completes (.thermalGovReturn dt d) s fun t => t.res = s.res)

/-- Tally (R425 to R430, R432): the selected counter, snapshot requests and their refusals, the latching of a snapshot, its image in LPDDR5X and tag records. The model's own choices in it: log entries 23, 77, 78, 87 and 100. -/
def Obligations.TallyCommandsComplete : Prop :=
  (∀ p ev s, Owner p s →
    Completes (.tlySel p ev) s fun t =>
      t.tly = { s.tly with sel := ev, selValid := s.evValid ev.toNat, selIndex := if s.evValid ev.toNat then BitVec.ofNat 20 (s.evIndex ev.toNat) else 0 }) ∧
  (∀ p id s, Owner p s → s.tly.busy = false → snapClose s.tly.pend s.now = false → s.tly.copying = none →
    (s.tly.imgHead.toNat + 1) % s.imgSlots ≠ s.tly.imgTail.toNat % s.imgSlots →
    Completes (.snapNow p id) s fun t =>
      t.tly.status = 0 ∧ t.tly.ctr = s.tly.ctr ∧
      ∃ im, t.tly.copying = some im ∧ im.snap.id = id ∧ im.frozen = s.tly.ctr ∧ im.frozenX = s.tly.ctrX ∧ im.tact = BitVec.ofNat 64 s.now) ∧
  (∀ p id s, Owner p s → s.tly.busy = false → snapClose s.tly.pend s.now = true →
    Completes (.snapNow p id) s fun t => t.tly = { s.tly with status := 3 }) ∧
  (∀ p id s, Owner p s → s.tly.busy = false →
    Completes (.snapAt p id) s fun t =>
      ((s.tly.at_.toNat < s.now + 10 ^ 6 ∨ s.now + 10 ^ 10 < s.tly.at_.toNat) → t.tly = { s.tly with status := 2 }) ∧
      (snapRefusal false s = 0 → (∀ v, v ∈ s.tly.pend → v.due ≠ s.tly.at_) →
        t.tly = { s.tly with status := 0, pend := s.tly.pend ++ [⟨id, s.tly.at_, s.tly.at_, true, false, false, false⟩] }) ∧
      (snapRefusal false s = 0 → (∃ v, v ∈ s.tly.pend ∧ v.due = s.tly.at_) →
        t.tly = { s.tly with status := 0, pend := s.tly.pend.map (fun v => if v.due == s.tly.at_ then { v with merged := true } else v) })) ∧
  (∀ p id s, Owner p s → s.tly.busy = false →
    Completes (.blockAt p id) s fun t =>
      (snapRefusal true s ≠ 0 → t.tly = { s.tly with status := BitVec.ofNat 8 (snapRefusal true s) }) ∧
      (snapRefusal true s = 0 → (∀ v, v ∈ s.tly.pend → v.due ≠ s.tly.at_) → t.tly.status = 0 ∧
        t.tly.pend = s.tly.pend ++ [⟨id, s.tly.at_, s.tly.at_, true, true, false, false⟩])) ∧
  (∀ p id s, Owner p s → s.tly.busy = false →
    Completes (.snapCancel p id) s fun t =>
      if (∃ v, v ∈ s.tly.pend ∧ v.id = id) then t.tly = { s.tly with status := 0, pend := dropSnap id s.tly.pend } else t.tly = { s.tly with status := 6 }) ∧
  (∀ (lane : Fin 2) codes b s, HearsRing s lane codes 0x24 b → u16At b 0 = s.plt.plat.time.blockId.toNat → s.tmb.blk = .joined → u64At b 16 ≠ s.nv.devid.toNat → s.snapKnown (BitVec.ofNat 16 (u16At b 24)) (BitVec.ofNat 64 (u64At b 8)) = false →
    s.now < u64At b 8 → (∀ v, v ∈ s.tly.pend → v.due ≠ BitVec.ofNat 64 (u64At b 8)) → s.tly.pend.length < 8 →
    Completes (.blockSnap lane codes) s fun t =>
      t.tly.pend = s.tly.pend ++ [⟨BitVec.ofNat 16 (u16At b 24), BitVec.ofNat 64 (u64At b 8), BitVec.ofNat 64 (u64At b 8), true, true, false, false⟩]) ∧
  (∀ dt v u s, u = elapse dt s → s.tly.pend = [v] → v.due.toNat ≤ u.now → s.tly.copying = none →
    (s.tly.imgHead.toNat + 1) % s.imgSlots ≠ s.tly.imgTail.toNat % s.imgSlots →
    Completes (.snapshotInstant dt) s fun t =>
      t.tly.pend = [] ∧ ∃ im, t.tly.copying = some im ∧ im.snap = v ∧ im.frozen = u.tly.ctr ∧ im.frozenX = u.tly.ctrX ∧ im.tact = BitVec.ofNat 64 u.now) ∧
  (∀ im a s, s.tly.copying = some im → a = s.tly.imgBase.toNat + s.tly.imgHead.toNat % s.imgSlots * s.imgBytes →
    a + (imageOf s im (s.tly.seq + 1).toNat).length ≤ s.capacity →
    Completes .snapshotCopyDone s fun t =>
      rdMem t a (imageOf s im (s.tly.seq + 1).toNat).length = imageOf s im (s.tly.seq + 1).toNat ∧ t.tly.copying = none ∧ t.tly.seq = s.tly.seq + 1 ∧
      t.tly.imgHead = BitVec.ofNat 8 ((s.tly.imgHead.toNat + 1) % s.imgSlots) ∧ t.tly.evSnapDone = true ∧ t.tly.ctr = s.tly.ctr) ∧
  (∀ (c : Fin 128) r s, s.tly.tagEnable = true → bitAt s.tly.tagDmask.toNat (c.val / 8) = true →
    (s.tly.tagHead.toNat + 1) % s.tagSlots ≠ s.tly.tagTail.toNat % s.tagSlots →
    s.tly.tagBase.toNat + s.tly.tagHead.toNat % s.tagSlots * 32 + 32 ≤ s.capacity →
    Completes (.tagRecord c r) s fun t =>
      rdMem t (s.tly.tagBase.toNat + s.tly.tagHead.toNat % s.tagSlots * 32) 32 = bytesOfWords (tagWords c.val r) ∧
      t.tly.tagHead = BitVec.ofNat 20 ((s.tly.tagHead.toNat + 1) % s.tagSlots)) ∧
  (∀ (c : Fin 128) r s, s.tly.tagEnable = true → bitAt s.tly.tagDmask.toNat (c.val / 8) = true →
    (s.tly.tagHead.toNat + 1) % s.tagSlots = s.tly.tagTail.toNat % s.tagSlots →
    Completes (.tagRecord c r) s fun t => t.tly.evTagLost = true ∧ t.ram = s.ram ∧ t.tly.tagHead = s.tly.tagHead)

/-- TIME_IN, the lock and its admission (R186 to R188, R193, R202): messages, edges, their absence, and what time alone changes. The model's own choices in it: log entries 3, 4, 57, 58, 87 and 95. -/
def Obligations.TimeInputsComplete : Prop :=
  (∀ (l : Fin 80) codes seq b s, Hears s l.val codes 0x01 seq b → s.onTimeIn = true → l.val = s.plt.plat.time.todLane.toNat →
    Completes (.tod l codes) s fun t =>
      t.tmb = if bitAt (u8At b 8) 0 then { s.tmb with todNext := some (BitVec.ofNat 64 (u64At b 0), s.clk) } else s.tmb) ∧
  (∀ dt n a u s, u = elapse dt s → s.onTimeIn = true → s.tmb.todNext = some (n, a) → 10 ^ 8 ≤ s.clk + dt - a → s.tmb.lock = .free →
    s.glb.state ≠ .inService → s.glb.state ≠ .quiesced →
    Completes (.ppsEdge dt) s fun t =>
      t.tmb.tb = n.toNat * 65536 ∧ t.tmb.lock = .acquiring ∧ t.tmb.good = 0 ∧ t.tmb.todNext = none ∧ t.tmb.ppsAt = some (s.clk + dt)) ∧
  (∀ dt n a u s, u = elapse dt s → s.onTimeIn = true → s.tmb.todNext = some (n, a) → 10 ^ 8 ≤ s.clk + dt - a → s.tmb.lock = .locked →
    65536 * 1000 < (((n.toNat * 65536 : Nat) : Int) - (u.tmb.tb : Int)).natAbs →
    Completes (.ppsEdge dt) s fun t =>
      t.tmb.tb = u.tmb.tb ∧ t.tmb.lock = .holdover ∧ t.tmb.holdSince = s.clk + dt ∧ t.tmb.event.getLsbD 1 = true) ∧
  (∀ dt n a o u s, u = elapse dt s → s.onTimeIn = true → s.tmb.todNext = some (n, a) → 10 ^ 8 ≤ s.clk + dt - a → s.tmb.lock ≠ .free →
    o = ((n.toNat * 65536 : Nat) : Int) - (u.tmb.tb : Int) → o.natAbs ≤ 65536 →
    Completes (.ppsEdge dt) s fun t =>
      t.tmb.tb = u.tmb.tb ∧ t.tmb.owed = o ∧ t.tmb.good = s.tmb.good + 1 ∧ t.tmb.offset = offsetPs o ∧
      t.tmb.lock = if 2 ≤ s.tmb.good then .locked else s.tmb.lock) ∧
  (∀ dt o u s, u = elapse dt s → s.onTimeIn = true → s.tmb.todNext = none → s.tmb.lock ≠ .free → o = secondOffset u.tmb.tb → o.natAbs ≤ 65536 →
    Completes (.ppsEdge dt) s fun t =>
      t.tmb.tb = u.tmb.tb ∧ t.tmb.owed = o ∧ t.tmb.good = s.tmb.good + 1 ∧ t.tmb.offset = offsetPs o ∧
      t.tmb.lock = if 2 ≤ s.tmb.good then .locked else s.tmb.lock) ∧
  (∀ s, s.onTimeIn = true → Completes .ref10Loss s fun t =>
    t.tmb.good = 0 ∧ t.tmb.tb = s.tmb.tb ∧
    (s.tmb.lock = .locked → t.tmb.lock = .holdover ∧ t.tmb.holdSince = s.clk ∧ t.tmb.event.getLsbD 1 = true) ∧
    (s.tmb.lock ≠ .locked → t.tmb.lock = s.tmb.lock)) ∧
  (∀ dt a s, s.onTimeIn = true → s.tmb.ppsAt = some a → s.tmb.lock = .locked →
    Completes (.ppsMissing dt) s fun t =>
      (1100000000 ≤ s.clk + dt - a → t.tmb.lock = .holdover ∧ t.tmb.holdSince = s.clk + dt ∧ t.tmb.event.getLsbD 1 = true) ∧
      (s.clk + dt - a < 1100000000 → t = elapse dt s)) ∧
  (∀ dt n x u s, u = elapse dt s → x = s.plt.plat.time.toutLane.toNat → x ≠ 255 → n = alignUp (u.now + 10 ^ 8) (10 ^ 9) → n ≠ s.tmb.toutNext →
    Completes (.todOut dt) s fun t =>
      t.tmb.toutNext = n ∧ ∃ rd m, t.out = .k281 x n (encode10 rd .marker).1 :: m :: u.out ∧
        Carries x 0x01 (s.svcLane x).txSeq (toLE 8 n ++ toLE 1 (b2n (s.tmb.lock == .locked || s.tmb.lock == .holdover)) ++ zeros 7) false m) ∧
  (∀ dt s, s.tmb.lock = .holdover → s.tmb.holdLimit.toNat * 1000 < s.clk + dt - s.tmb.holdSince →
    Completes (.holdoverLimit dt) s fun t => t.tmb.admOn = false ∧ t.tmb.lock = .holdover ∧ (s.tmb.admOn = true → t.tmb.event.getLsbD 2 = true)) ∧
  (∀ dt a s, s.tmb.lock = .locked → s.tmb.active.isSome = true → s.plt.plat.time.source ≠ 2 → s.tmb.stepAt = some a → 1000000 ≤ s.clk + dt - a →
    Completes (.stepAdmitRestore dt) s fun t => t.tmb.admOn = true ∧ t.tmb.event = s.tmb.event) ∧
  (∀ dt s, (∃ a, s.tmb.stepAt = some a ∧ s.clk + dt - a < 1000000) →
    Completes (.stepAdmitRestore dt) s fun t => t.tmb.admOn = false)

/-- The Block ring (R189 to R195): SYNC, delay measurement, election, announcements, the probe and silence. The model's own choices in it: log entries 8, 17, 57, 59, 87 and 95. -/
def Obligations.BlockRingComplete : Prop :=
  (∀ (l : Fin 2) codes b s, HearsRing s l codes 0x02 b → u16At b 0 ≠ s.plt.plat.time.blockId.toNat →
    Completes (.sync l codes) s fun t => t.tmb = { s.tmb with blk := .idMismatch } ∧ t.out = s.out) ∧
  (∀ (l : Fin 2) codes b raw s, HearsRing s l codes 0x02 b → u16At b 0 = s.plt.plat.time.blockId.toNat → s.tmb.term.toNat ≤ msgTerm b →
    s.plt.plat.time.source = 0 → s.tmb.master = false → s.glb.state ≠ .inService → s.glb.state ≠ .quiesced →
    (∀ r : RingLane, r = (if isWest l then s.tmb.ring0 else s.tmb.ring1) → s.syncLive r = false ∨ msgHops b < r.hops.toNat) → msgHops b < 255 →
    raw = ((u64At b 8 * 65536 + (s.ring l).delay : Nat) : Int) - (s.markerAt l : Int) →
    Completes (.sync l codes) s fun t =>
      (t.ring l).syncAt = some s.clk ∧ (t.ring l).hops = BitVec.ofNat 8 (msgHops b) ∧ t.tmb.hops = BitVec.ofNat 8 (msgHops b + 1) ∧
      (s.tmb.stepped = false → (t.tmb.tb : Int) = max 0 ((s.tmb.tb : Int) + raw) ∧ t.tmb.offset = offsetPs raw ∧ t.tmb.stepped = true ∧
        t.tmb.lock = if s.tmb.lock = .free then .acquiring else s.tmb.lock) ∧
      (s.tmb.stepped = true → ∀ f, f = Config.offsetFilter ((raw :: s.tmb.offsets).take 64) → t.tmb.offset = offsetPs f ∧
        (f.natAbs ≤ 8 * 65536 → t.tmb.tb = s.tmb.tb ∧ t.tmb.owed = f ∧ t.tmb.stepAt = s.tmb.stepAt) ∧
        (8 * 65536 < f.natAbs → (t.tmb.tb : Int) = max 0 ((s.tmb.tb : Int) + f) ∧ t.tmb.stepAt = some s.clk ∧ t.tmb.admOn = false))) ∧
  (∀ dt s, s.inBlock = true → s.tmb.master = true →
    Completes (.syncSend dt) s fun t =>
      t.tmb.tb = (elapse dt s).tmb.tb ∧
      ∀ west, ∃ q m, m ∈ t.out ∧ Carries (s.ringLane west) 0x02 q (ringHead s 0 ++ toLE 8 (elapse dt s).now) true m) ∧
  (∀ (l : Fin 2) codes b s, HearsRing s l codes 0x03 b → u16At b 0 = s.plt.plat.time.blockId.toNat →
    Completes (.delayReq l codes) s fun t => ∃ m, t.out = m :: s.out ∧
      Carries (s.ringLane (isWest l)) 0x04 (s.svcLane (s.ringLane (isWest l))).txSeq
        (ringHead s 0 ++ (slice b 8 8 ++ toLE 8 (s.markerAt l / 65536) ++ toLE 8 s.now)) true m) ∧
  (∀ dt (l : Fin 2) s, s.inBlock = true →
    Completes (.delayReqSend dt l) s fun t =>
      (t.ring l).t1 = BitVec.ofNat 64 (elapse dt s).now ∧ ∃ m, t.out = m :: (elapse dt s).out ∧
        Carries (s.ringLane (isWest l)) 0x03 (s.svcLane (s.ringLane (isWest l))).txSeq (ringHead s 0 ++ toLE 8 (elapse dt s).now) true m) ∧
  (∀ (l : Fin 2) codes b s, HearsRing s l codes 0x04 b → u16At b 0 = s.plt.plat.time.blockId.toNat →
    Completes (.delayResp l codes) s fun t =>
      t.tmb.tb = s.tmb.tb ∧ (u64At b 8 ≠ (s.ring l).t1.toNat → t.tmb.ring0 = s.tmb.ring0 ∧ t.tmb.ring1 = s.tmb.ring1) ∧
      (u64At b 8 = (s.ring l).t1.toNat →
        (t.ring l).delay = (((s.markerAt l : Int) - ((u64At b 8 * 65536 : Nat) : Int) -
          (((u64At b 24 * 65536 : Nat) : Int) - ((u64At b 16 * 65536 : Nat) : Int))) / 2).toNat)) ∧
  (∀ (l : Fin 2) codes b s, HearsRing s l codes 0x20 b → u16At b 0 = s.plt.plat.time.blockId.toNat → u64At b 16 ≠ s.nv.devid.toNat → s.candidate = true →
    Completes (.elect l codes) s fun t =>
      t.tmb.topTerm = BitVec.ofNat 16 (max s.tmb.topTerm.toNat (msgTerm b)) ∧
      if betterKey (u8At b 8 != 0, u8At b 9, u64At b 16) s.ownKey then t.tmb.master = false ∧ t.tmb.electing = some s.clk
      else t.tmb.master = s.tmb.master ∧ t.tmb.electing = s.tmb.electing) ∧
  (∀ dt s, s.inBlock = true → s.candidate = true →
    Completes (.electSend dt) s fun t => ∀ west, ∃ q m, m ∈ t.out ∧ Carries (s.ringLane west) 0x20 q (ringHead s 0 ++ electBody s) false m) ∧
  (∀ dt a s, s.tmb.electing = some a → s.candidate = true → 10 ^ 6 ≤ s.clk + dt - a →
    Completes (.electionWin dt) s fun t =>
      t.tmb.master = true ∧ t.tmb.term = s.tmb.topTerm + 1 ∧ t.tmb.masterId = s.nv.devid ∧ t.tmb.electing = none ∧ t.tmb.hops = 0 ∧ t.tmb.event.getLsbD 0 = true) ∧
  (∀ (l : Fin 2) codes b s, HearsRing s l codes 0x21 b → u16At b 0 = s.plt.plat.time.blockId.toNat → u64At b 8 ≠ s.nv.devid.toNat → s.tmb.term.toNat < msgTerm b →
    Completes (.announce l codes) s fun t =>
      t.tmb.term = BitVec.ofNat 16 (msgTerm b) ∧ t.tmb.master = false ∧ (s.tmb.master = true → t.tmb.electing = some s.clk) ∧
      (s.tmb.master = false → t.tmb.electing = s.tmb.electing) ∧ t.tmb.masterId = BitVec.ofNat 64 (u64At b 8) ∧
      t.tmb.rtt = BitVec.ofNat 32 (u32At b 16) ∧ t.tmb.members = BitVec.ofNat 8 (u8At b 20) ∧ t.tmb.event.getLsbD 0 = true) ∧
  (∀ dt s, s.inBlock = true → s.tmb.master = true →
    Completes (.announceSend dt) s fun t => t.tmb.members.toNat ≤ 80 ∧ ∀ west, ∃ q m, m ∈ t.out ∧ Carries (s.ringLane west) 0x21 q
      (ringHead s 0 ++ (toLE 8 s.nv.devid.toNat ++ toLE 4 s.tmb.rtt.toNat ++ toLE 1 t.tmb.members.toNat ++ zeros 3)) false m) ∧
  (∀ (l : Fin 2) codes b s, HearsRing s l codes 0x22 b → u16At b 0 = s.plt.plat.time.blockId.toNat → u64At b 16 = s.nv.devid.toNat → s.tmb.master = true →
    s.tmb.probeAt.isSome = true →
    Completes (.probe l codes) s fun t => t.tmb.rtt = BitVec.ofNat 32 (sat 0xFFFFFFFF (s.now - u64At b 8)) ∧ t.tmb.probeAt = none ∧
      (s.plt.plat.time.rttMax.toNat * 1000 < t.tmb.rtt.toNat → t.tmb.blk = .rttExceeded)) ∧
  (∀ dt s, s.inBlock = true → s.tmb.master = true →
    Completes (.probeSend dt) s fun t => t.tmb.probeAt = some (s.clk + dt) ∧ ∃ m, t.out = m :: (elapse dt s).out ∧
      Carries (s.ringLane false) 0x22 (s.svcLane (s.ringLane false)).txSeq (ringHead s 0 ++ toLE 8 (elapse dt s).now ++ toLE 8 s.nv.devid.toNat) false m) ∧
  (∀ dt a s, s.tmb.probeAt = some a → 10 ^ 6 ≤ s.clk + dt - a →
    Completes (.probeTimeout dt) s fun t => t.tmb.probeAt = none ∧ t.tmb.rtt = 0) ∧
  (∀ (l : Fin 2) codes b s, HearsRing s l codes 0x23 b → u16At b 0 = s.plt.plat.time.blockId.toNat → u64At b 8 ≠ s.nv.devid.toNat → s.tmb.members ≠ 0 →
    Completes (.leave l codes) s fun t =>
      t.tmb.members = s.tmb.members - 1 ∧
      (s.tmb.term ≠ 0 → u64At b 8 = s.tmb.masterId.toNat → s.candidate = true → s.tmb.master = false → s.tmb.electing = none → t.tmb.electing = some s.clk)) ∧
  (∀ dt s, s.plt.plat.time.source = 0 → (elapse dt s).silent 100000 = true →
    Completes (.syncLossHoldover dt) s fun t =>
      t.tmb.good = 0 ∧ (s.tmb.lock = .locked → t.tmb.lock = .holdover ∧ t.tmb.holdSince = s.clk + dt ∧ t.tmb.event.getLsbD 1 = true)) ∧
  (∀ dt s, (elapse dt s).silent 1000000 = true → s.candidate = true → s.tmb.electing = none →
    Completes (.syncLossReelect dt) s fun t => t.tmb.electing = some (s.clk + dt) ∧ t.tmb.master = false)

/-- Timetables and congestion maps (R199 to R201, R205): LOAD, ARM, ACTIVATE, DISARM, the activation instant, its grace and the close of a map interval. The model's own choices in it: log entries 60 and 61. -/
def Obligations.TimetableCommandsComplete : Prop :=
  (∀ p s, Owner p s → s.tmb.busy = false → 4 ≤ s.glb.state.code → s.actPending 15 = false →
    Completes (.tmbLoad p) s fun t =>
      (∀ x, ttParse s s.ttStaged = .ok x → t.tmb = { s.tmb with status := 0, staged := some x }) ∧
      (∀ c, ttParse s s.ttStaged = .error c → t.tmb = { s.tmb with status := BitVec.ofNat 8 c })) ∧
  (∀ p s, Owner p s → s.tmb.busy = false → s.glb.state.code < 4 → Completes (.tmbLoad p) s fun t => t.tmb = { s.tmb with status := 9 }) ∧
  (∀ p (n : BitVec 4) x a s, Owner p s → s.tmb.busy = false → 4 ≤ s.glb.state.code → n.toNat ≤ 7 → s.actPending n.toNat = false → ttParse s s.ttStaged = .ok x →
    a = s.tmb.fbBase.toNat + n.toNat * (17 * 2 ^ 20) →
    Completes (.arm p n) s fun t =>
      t.tmb.status = 0 ∧ (∀ k, tget none t.tmb.armed k = if k = n.toNat then some x else tget none s.tmb.armed k) ∧
      (∀ k, k < ttHead + 16 * x.entries.length → a + k < s.capacity → tget 0 t.ram (a + k) = s.ttStaged.getD k 0)) ∧
  (∀ p (n : BitVec 4) s, Owner p s → s.tmb.busy = false → 4 ≤ s.glb.state.code →
    Completes (.activate p n) s fun t =>
      (7 < n.toNat → n ≠ 15 → t.tmb = { s.tmb with status := 1 }) ∧
      ((n.toNat ≤ 7 ∨ n = 15) → s.tmb.at_.toNat < s.now + 2000000 → t.tmb = { s.tmb with status := 6 }) ∧
      (s.now + 2000000 ≤ s.tmb.at_.toNat → n = 15 → s.tmb.staged = none → t.tmb = { s.tmb with status := 8 }) ∧
      (s.now + 2000000 ≤ s.tmb.at_.toNat → n.toNat ≤ 7 → tget none s.tmb.armed n.toNat = none → t.tmb = { s.tmb with status := 7 }) ∧
      (∀ x, s.now + 2000000 ≤ s.tmb.at_.toNat → n = 15 → s.tmb.staged = some x →
        t.tmb = { s.tmb with status := 0, pending := some (15, x, s.tmb.at_.toNat) }) ∧
      (∀ x, s.now + 2000000 ≤ s.tmb.at_.toNat → n.toNat ≤ 7 → tget none s.tmb.armed n.toNat = some x →
        t.tmb = { s.tmb with status := 0, pending := some (n.toNat, x, s.tmb.at_.toNat) })) ∧
  (∀ p (n : BitVec 4) s, Owner p s → s.tmb.busy = false → 4 ≤ s.glb.state.code → n.toNat ≤ 7 →
    Completes (.disarm p n) s fun t =>
      (s.actPending n.toNat = true → t.tmb = { s.tmb with status := 10 }) ∧
      (s.actPending n.toNat = false → tget none s.tmb.armed n.toNat = none → t.tmb = { s.tmb with status := 7 }) ∧
      (s.actPending n.toNat = false → tget none s.tmb.armed n.toNat ≠ none →
        t.tmb.status = 0 ∧ ∀ k, tget none t.tmb.armed k = if k = n.toNat then none else tget none s.tmb.armed k)) ∧
  (∀ dt sel x a s, s.tmb.pending = some (sel, x, a) → a ≤ (elapse dt s).now →
    Completes (.timetableActivation dt) s fun t =>
      t.tmb.active = some { x with t0 := a } ∧ t.tmb.old = s.tmb.active.map (fun o => (o, a + s.tol)) ∧ t.tmb.pending = none ∧
      t.tmb.armed = s.tmb.armed ∧ t.tmb.event.getLsbD 4 = true) ∧
  (∀ dt sel x a s, s.tmb.pending = some (sel, x, a) → (elapse dt s).now < a → Completes (.timetableActivation dt) s fun t => t = elapse dt s) ∧
  (∀ dt o e s, s.tmb.old = some (o, e) → e < (elapse dt s).now → Completes (.activationGraceEnd dt) s fun t => t.tmb.old = none ∧ t.tmb.active = s.tmb.active) ∧
  (∀ dt u h n s, u = elapse dt s → u.now / u.mapNs * u.mapNs ≠ s.tmb.mapStart → s.tmb.mapen = true → n = 2 ^ s.tmb.mapSize.toNat → h = s.tmb.mapHead.toNat % n →
    s.ports.length + 1 ≤ (s.tmb.mapTail.toNat % n + n - h - 1) % n → s.tmb.mapBase.toNat + 32 * h + 32 ≤ s.capacity →
    Completes (.mapIntervalClose dt) s fun t =>
      rdMem t (s.tmb.mapBase.toNat + 32 * h) 32 = mapHeader u s.ports.length ∧
      t.tmb.mapHead = BitVec.ofNat 24 ((h + s.ports.length + 1) % n) ∧ t.tmb.mapStart = u.now / u.mapNs * u.mapNs) ∧
  (∀ dt u h n s, u = elapse dt s → u.now / u.mapNs * u.mapNs ≠ s.tmb.mapStart → s.tmb.mapen = true → n = 2 ^ s.tmb.mapSize.toNat → h = s.tmb.mapHead.toNat % n →
    (s.tmb.mapTail.toNat % n + n - h - 1) % n < s.ports.length + 1 →
    Completes (.mapIntervalClose dt) s fun t =>
      t.ram = s.ram ∧ t.tmb.mapHead = s.tmb.mapHead ∧ t.tmb.event.getLsbD 5 = true ∧ t.tmb.mapStart = u.now / u.mapNs * u.mapNs)

/-- Twin messages on the ring (R372, R373): forwarding, the journal, the holder's mirror, its acknowledgement and what it answers to a PULL. The model's own choices in it: log entries 8, 17, 48 and 87. -/
def Obligations.TwinMirrorComplete : Prop :=
  (∀ (l : Fin 2) codes b (n : Byte) c s, HearsRing s l codes n b → twinDst b ≠ s.nv.devid → twinHops b ≠ 255 → twinSrc b ≠ s.nv.devid →
    ((c = Instr.jrnl l codes ∧ n = 0x40) ∨ (c = Instr.jrnlAck l codes ∧ n = 0x41) ∨ (c = Instr.pullRequest l codes ∧ n = 0x42) ∨ (c = Instr.hdr l codes ∧ n = 0x43) ∨
      (c = Instr.twinSnap l codes ∧ n = 0x44) ∨ (c = Instr.twinEnd l codes ∧ n = 0x45) ∨ (c = Instr.nack l codes ∧ n = 0x46)) →
    Completes c s fun t => t.res = s.res ∧ t.fwd = s.fwd ∧ ∃ m, t.out = m :: s.out ∧
      Carries (s.ringLane (!isWest l)) n.toNat (s.svcLane (s.ringLane (!isWest l))).txSeq (overlay b 16 (toLE 1 (twinHops b + 1))) false m) ∧
  (∀ (l : Fin 2) codes b (n : Byte) c s, HearsRing s l codes n b → twinDst b ≠ s.nv.devid → (twinHops b = 255 ∨ twinSrc b = s.nv.devid) →
    ((c = Instr.jrnl l codes ∧ n = 0x40) ∨ (c = Instr.jrnlAck l codes ∧ n = 0x41) ∨ (c = Instr.pullRequest l codes ∧ n = 0x42) ∨ (c = Instr.hdr l codes ∧ n = 0x43) ∨
      (c = Instr.twinSnap l codes ∧ n = 0x44) ∨ (c = Instr.twinEnd l codes ∧ n = 0x45) ∨ (c = Instr.nack l codes ∧ n = 0x46)) →
    Completes c s fun t => ∃ v, t = { s with svc := v }) ∧
  (∀ (l : Fin 2) codes b r w s, HearsRing s l codes 0x40 b → twinDst b = s.nv.devid → u64At b 24 = 1 → u16At b 32 = 1 → r = slice b 40 32 → onlyRemoves r = false →
    w = s.mirrorFor l (twinSrc b) → 32 ≤ s.mirrorHalf → s.mirrorAddr w + 32 ≤ s.capacity →
    Completes (.jrnl l codes) s fun t => t.mirror w = ⟨.complete, twinSrc b, 1, 0, s.clk, [r]⟩ ∧ rdMem t (s.mirrorAddr w) 32 = r ∧ t.mirror (!w) = s.mirror (!w)) ∧
  (∀ (l : Fin 2) codes b w s, HearsRing s l codes 0x40 b → twinDst b = s.nv.devid → u16At b 32 ≤ 60 → w = s.mirrorFor l (twinSrc b) →
    (s.mirror w).st ≠ .none → (s.mirror w).dev = twinSrc b → u64At b 24 ≠ 1 → (s.mirror w).seq.toNat + 1 < u64At b 24 →
    Completes (.jrnl l codes) s fun t => ∃ v, t = { s with svc := v }) ∧
  (∀ (l : Fin 2) codes b s, HearsRing s l codes 0x41 b → twinDst b = s.nv.devid → s.twin ≠ 0 → isWest l = (s.twin == 2) → twinSrc b = Config.neighbour s.nv.devid (!isWest l) →
    s.res.own ≠ .lagging → u64At b 24 < s.res.nextSeq.toNat →
    Completes (.jrnlAck l codes) s fun t =>
      t.res.journal = s.res.journal.filter (fun r => decide (u64At b 24 < r.seq.toNat)) ∧ t.res.nextSeq = s.res.nextSeq ∧
      t.res.own = if t.res.journal = [] then .current else s.res.own) ∧
  (∀ (l : Fin 2) codes b s, HearsRing s l codes 0x41 b → twinDst b = s.nv.devid → s.twin ≠ 0 → isWest l = (s.twin == 2) → twinSrc b = Config.neighbour s.nv.devid (!isWest l) →
    s.res.own = .lagging →
    Completes (.jrnlAck l codes) s fun t =>
      t.res.own = .current ∧ t.res.journal.map (·.bytes) = s.snapshot.map (·.2) ∧ t.res.journal.map (·.seq.toNat) = (List.range s.snapshot.length).map (fun i => (i + 1) % 2 ^ 64)) ∧
  (∀ dt (l : Fin 2) s, s.inBlock = true → (s.mirror (isWest l)).st ≠ .none → 10000000 ≤ s.clk + dt - (s.mirror (isWest l)).ackAt →
    Completes (.mirrorAckSend dt l) s fun t =>
      (t.mirror (isWest l)).acked = (s.mirror (isWest l)).seq ∧ (t.mirror (isWest l)).ackAt = s.clk + dt ∧
      ∃ m, t.out = m :: (elapse dt s).out ∧ Carries (s.ringLane (isWest l)) 0x41 (s.svcLane (s.ringLane (isWest l))).txSeq
        (twinHead s.nv.devid (s.mirror (isWest l)).dev 0 ++ toLE 8 (s.mirror (isWest l)).seq.toNat) false m) ∧
  (∀ (l : Fin 2) codes b s, HearsRing s l codes 0x42 b → twinDst b = s.nv.devid →
    (s.res.east.st = .none ∨ s.res.east.dev ≠ BitVec.ofNat 64 (u64At b 24)) → (s.res.west.st = .none ∨ s.res.west.dev ≠ BitVec.ofNat 64 (u64At b 24)) →
    Completes (.pullRequest l codes) s fun t => t.res = s.res ∧ ∃ m, t.out = m :: s.out ∧
      Carries (s.ringLane (isWest l)) 0x46 (s.svcLane (s.ringLane (isWest l))).txSeq (twinHead s.nv.devid (twinSrc b) 0 ++ toLE 1 1) false m) ∧
  (∀ (l : Fin 2) codes b s, HearsRing s l codes 0x42 b → twinDst b = s.nv.devid → s.res.east.st = .full → s.res.east.dev = BitVec.ofNat 64 (u64At b 24) →
    Completes (.pullRequest l codes) s fun t => t.res = s.res ∧ ∃ m, t.out = m :: s.out ∧
      Carries (s.ringLane (isWest l)) 0x46 (s.svcLane (s.ringLane (isWest l))).txSeq (twinHead s.nv.devid (twinSrc b) 0 ++ toLE 1 2) false m) ∧
  (∀ (l : Fin 2) codes b x r s, HearsRing s l codes 0x42 b → twinDst b = s.nv.devid → s.res.east = x → x.st = .complete → x.dev = BitVec.ofNat 64 (u64At b 24) →
    x.recs = [r] → openRec r = false → r.length = 32 →
    Completes (.pullRequest l codes) s fun t => t.res = s.res ∧ ∃ q0 q1 q2 m0 m1 m2, t.out = m2 :: m1 :: m0 :: s.out ∧
      Carries (s.ringLane (isWest l)) 0x43 q0 (twinHead s.nv.devid (twinSrc b) 0 ++ (digestBytes (Config.mirrorDigest x.dev) ++ toLE 8 1 ++ toLE 8 x.seq.toNat)) false m0 ∧
      Carries (s.ringLane (isWest l)) 0x44 q1 (twinHead s.nv.devid (twinSrc b) 0 ++ toLE 8 0 ++ r) false m1 ∧
      Carries (s.ringLane (isWest l)) 0x45 q2 (twinHead s.nv.devid (twinSrc b) 0 ++ toLE 4 (crc32c r)) false m2)

/-- PULL on a spare (R374, R375): the request, the digest check, the records, the end, and the ways in which it fails. The model's own choices in it: log entries 8, 49 and 87. -/
def Obligations.SpareBringInComplete : Prop :=
  (∀ p s, Owner p s → s.res.spareBusy = false → s.glb.state = .ready → s.inBlock = true →
    Completes (.pull p) s fun t =>
      t.res.spareBusy = true ∧ t.res.spareResult = 1 ∧ t.res.noImage = 0 ∧ t.res.refused = 0 ∧ t.res.pullOp = some ⟨false, 0, 0, s.clk, [], 0xFFFFFFFF⟩ ∧
      ∃ m, t.out = m :: s.out ∧
      Carries (s.ringLane false) 0x42 (s.svcLane (s.ringLane false)).txSeq (twinHead s.nv.devid s.res.spareHold 0 ++ toLE 8 s.res.spareDev.toNat) false m) ∧
  (∀ p s, Owner p s → s.res.spareBusy = false → s.glb.state ≠ .ready → Completes (.pull p) s fun t => t.res = { s.res with spareStatus := 2 } ∧ t.out = s.out) ∧
  (∀ p s, Owner p s → s.res.spareBusy = true → Completes (.pull p) s fun t => t.res = { s.res with spareReject := true } ∧ t.out = s.out) ∧
  (∀ p s, Owner p s → Completes (.spareAbort p) s fun t =>
    (s.res.pullOp = none → t.res = { s.res with spareStatus := 2 }) ∧
    (s.res.pullOp ≠ none → t.res = { s.res with pullOp := none, spareBusy := false, spareStatus := 0x0D, spareResult := 4 })) ∧
  (∀ (l : Fin 2) codes b o s, HearsRing s l codes 0x43 b → twinDst b = s.nv.devid → s.res.pullOp = some o → twinSrc b = s.res.spareHold → o.hdr = false →
    Completes (.hdr l codes) s fun t =>
      (s.plt.active ≠ some (digestOf (slice b 24 32)) →
        t.res = { s.res with pullOp := none, spareBusy := false, spareStatus := 0x0A, spareResult := 3 } ∧ t.fwd = s.fwd ∧ t.mil = s.mil ∧ t.lnd = s.lnd) ∧
      (s.plt.active = some (digestOf (slice b 24 32)) →
        t.res.pullOp = some { o with hdr := true, total := BitVec.ofNat 64 (u64At b 56), lastRx := s.clk } ∧ t.fwd = s.fwd ∧ t.mil = s.mil ∧ t.lnd = s.lnd)) ∧
  (∀ (l : Fin 2) codes b o r s, HearsRing s l codes 0x44 b → twinDst b = s.nv.devid → s.res.pullOp = some o → twinSrc b = s.res.spareHold → o.hdr = true → o.part = [] →
    u64At b 24 = o.applied → o.applied < o.total.toNat → b.length = 64 → r = b.drop 32 → u8At r 0 = 2 →
    Completes (.twinSnap l codes) s fun t =>
      (∀ k, tget TfEnt.zero t.mil.tf k = if k = u32At r 8 then
        ⟨BitVec.ofNat 32 (u32At r 12), BitVec.ofNat 32 (u32At r 16), BitVec.ofNat 32 (u32At r 20), BitVec.ofNat 32 (u32At r 24)⟩ else tget TfEnt.zero s.mil.tf k) ∧
      t.res.pullOp = some { o with applied := o.applied + 1, lastRx := s.clk, crc := crcR 0x82F63B78 o.crc r }) ∧
  (∀ (l : Fin 2) codes b o s, HearsRing s l codes 0x44 b → twinDst b = s.nv.devid → s.res.pullOp = some o → twinSrc b = s.res.spareHold → o.hdr = true →
    u64At b 24 ≠ o.applied → Completes (.twinSnap l codes) s fun t => ∃ v, t = { s with svc := v }) ∧
  (∀ (l : Fin 2) codes b o s, HearsRing s l codes 0x45 b → twinDst b = s.nv.devid → s.res.pullOp = some o → twinSrc b = s.res.spareHold → o.hdr = true →
    o.applied = o.total.toNat →
    Completes (.twinEnd l codes) s fun t =>
      t.res = { s.res with pullOp := none, spareBusy := false, spareStatus := (if Nat.xor o.crc 0xFFFFFFFF = u32At b 24 then 0 else 0x0B), spareResult := (if Nat.xor o.crc 0xFFFFFFFF = u32At b 24 then 2 else 3) }) ∧
  (∀ (l : Fin 2) codes b o s, HearsRing s l codes 0x46 b → twinDst b = s.nv.devid → s.res.pullOp = some o → twinSrc b = s.res.spareHold →
    Completes (.nack l codes) s fun t => t.res = { s.res with pullOp := none, spareBusy := false, spareStatus := 0x0C, spareResult := 3 } ∧ t.fwd = s.fwd ∧ t.mil = s.mil) ∧
  (∀ dt o s, s.res.pullOp = some o → Completes (.pullTimeout dt) s fun t =>
    (1000000 ≤ s.clk + dt - o.lastRx → t.res = { s.res with pullOp := none, spareBusy := false, spareStatus := 0x0B, spareResult := 3 } ∧ t.fwd = s.fwd) ∧
    (s.clk + dt - o.lastRx < 1000000 → t = elapse dt s)) ∧
  (∀ (l : Fin 2) codes b (n : Byte) c s, HearsRing s l codes n b → twinDst b = s.nv.devid → (s.res.pullOp = none ∨ twinSrc b ≠ s.res.spareHold) →
    ((c = Instr.hdr l codes ∧ n = 0x43) ∨ (c = Instr.twinSnap l codes ∧ n = 0x44) ∨ (c = Instr.twinEnd l codes ∧ n = 0x45) ∨ (c = Instr.nack l codes ∧ n = 0x46)) →
    Completes c s fun t => ∃ v, t = { s with svc := v })

/-- BAR0 (R8, R387, R390): what a write and a read of a single register do: aligned or not, from the owner, from another port, or before firmware runs. The model's own choices in it: log entries 6, 8, 19 and 99. -/
def Obligations.RegisterAccessComplete : Prop :=
  (∀ (p : HPort) (off : BitVec 26) (v : Word) (rd : BusRead) s, (s.host p).perst = true →
    Completes (.registerWrite p off v) s (fun t => t = s) ∧ Completes (.lowWordRead p rd) s (fun t => t = s)) ∧
  (∀ (p : HPort) (off : BitVec 26) (v : Word) s, (s.host p).perst = false → off.toNat % 4 ≠ 0 →
    Completes (.registerWrite p off v) s (fun t => t = { s with tly.ctr := t.tly.ctr } ∧
      ∀ e, tget 0 t.tly.ctr e = if e = evNo 2 2 (portIdx p) then tget 0 s.tly.ctr e + 1 else tget 0 s.tly.ctr e) ∧
    Completes (.lowWordRead p (.word off)) s (fun t => t = { s with tly.ctr := t.tly.ctr, out := .hostRead p none :: s.out } ∧
      ∀ e, tget 0 t.tly.ctr e = if e = evNo 2 2 (portIdx p) then tget 0 s.tly.ctr e + 1 else tget 0 s.tly.ctr e)) ∧
  (∀ (p : HPort) (off : BitVec 26) s, (s.host p).perst = false → pairVal s p off.toNat = none →
    Completes (.lowWordRead p (.pair off)) s (fun t => t = { s with tly.ctr := t.tly.ctr, out := .hostRead p none :: s.out } ∧
      ∀ e, tget 0 t.tly.ctr e = if e = evNo 2 2 (portIdx p) then tget 0 s.tly.ctr e + 1 else tget 0 s.tly.ctr e)) ∧
  (∀ (p : HPort) (off : BitVec 26) (v : Word) s, (s.host p).perst = false → s.booted = false → 0x100000 ≤ off.toNat → off.toNat % 4 = 0 →
    Completes (.registerWrite p off v) s (fun t => t = s)) ∧
  (∀ (p : HPort) (off : BitVec 26) (v : Word) s, Stranger p s → off.toNat % 4 = 0 → (off.toNat < 0x200000 ∨ 0x400000 ≤ off.toNat) →
    Completes (.registerWrite p off v) s (fun t => (t.host p).denied = true ∧ (∀ q, q ≠ p → t.host q = s.host q) ∧ ∀ b, b ≠ .hst → b ≠ .tly → SameBlk b s t)) ∧
  (∀ (p : HPort) (v : Word) s, Owner p s →
    Completes (.registerWrite p 0xC00008#26 v) s (fun t => t = { s with fwd.data0 := v }) ∧
    Completes (.registerWrite p 0xC00050#26 v) s (fun t => t = { s with fwd.mgmtEid := v }) ∧
    Completes (.registerWrite p 0x1C00028#26 v) s (fun t => t = { s with mil.arg1 := v }) ∧
    Completes (.registerWrite p 0x2800004#26 v) s (fun t => t = { s with res.epoch := v }) ∧
    Completes (.registerWrite p 0x1800010#26 v) s (fun t => t = { s with lnd.corr := v }) ∧
    Completes (.registerWrite p 0x1400080#26 v) s (fun t => t = { s with tmb.event := t.tmb.event } ∧
      ∀ i, t.tmb.event.getLsbD i = (s.tmb.event.getLsbD i && !v.getLsbD i)) ∧
    Completes (.registerWrite p 0x1800064#26 v) s (fun t => t = { s with lnd.event := t.lnd.event } ∧
      ∀ i, t.lnd.event.getLsbD i = (s.lnd.event.getLsbD i && !v.getLsbD i)) ∧
    Completes (.registerWrite p 0x1C00080#26 v) s (fun t => t = { s with mil.event := t.mil.event } ∧
      ∀ i, t.mil.event.getLsbD i = (s.mil.event.getLsbD i && !v.getLsbD i))) ∧
  (∀ (p : HPort) (v : Word) s, (s.host p).perst = false → s.booted = true →
    Completes (.registerWrite p 0x200010#26 v) s (fun t => (t.host p).win = BitVec.setWidth 8 v ∧ (∀ q, q ≠ p → t.host q = s.host q) ∧ ∀ b, b ≠ .hst → SameBlk b s t)) ∧
  (∀ (p : HPort) s, (s.host p).perst = false → s.booted = true →
    Completes (.lowWordRead p (.word 0xC00008#26)) s (fun t => t = { s with out := .hostRead p (some (toLE 4 s.fwd.data0.toNat)) :: s.out }) ∧
    Completes (.lowWordRead p (.word 0x1C00028#26)) s (fun t => t = { s with out := .hostRead p (some (toLE 4 s.mil.arg1.toNat)) :: s.out }))

/-- One step: the command at the front of the queue runs on the state with the queue's rest. No command stops the block: each one, in every state, answers a next state. An idle step lets one nanosecond pass, which is the model's choice (log entry 2). -/
def Obligations.StepTakesTheFrontCommand : Prop :=
  (∀ (c : Instr) (rest : List Instr) (s : State), step { s with pending := c :: rest } = exec c { s with pending := rest }) ∧
  (∀ s : State, s.pending = [] → step s = .next (elapse 1 s)) ∧
  (∀ (c : Instr) (s : State), ∃ t, exec c s = .next t ∧ t.pending = s.pending)

/-- Every step, from every state: the invariant is kept, what nothing undoes stays, and the queue loses its front command and nothing else (R1, R407, R408, R415). -/
def Obligations.EveryStepKeepsTheInvariant : Prop :=
  ∀ s t : State, step s = .next t → (Inv s → Inv t) ∧ Lasts s t ∧ t.pending = s.pending.tail

/-- The state after power-on has the invariant and the reset values that the register tables give: the device in RESET with both ports under PERST#, no lease, no epoch, no key erased, empty tables, the minima of the token rates at 0xFFFF. The model's own choices in it: log entries 10 and 11. -/
def Obligations.ResetIsAsTheRulesSay : Prop :=
  Inv State.reset ∧ State.reset.glb.state = .reset ∧ State.reset.glb.tokMin = 0xFFFF ∧ (∀ d, tget 0xFFFF State.reset.glb.dtokMin d = 0xFFFF) ∧
  (∀ p, (State.reset.host p).perst = true ∧ (State.reset.host p).win = 0 ∧ ∀ k, tget 0 (State.reset.host p).rdLatch k = 0) ∧
  State.reset.hst.owner = none ∧ State.reset.res.lease = none ∧ State.reset.res.cur = 0 ∧ State.reset.res.half = 24 ∧
  State.reset.sec.dbg = 0 ∧ State.reset.sec.chal = none ∧ State.reset.nv.erased = false ∧ State.reset.tmb.lock = .free ∧ State.reset.tmb.active = none ∧
  (∀ b e, State.reset.exact b e = none) ∧ (∀ a n, rdMem State.reset a n = zeros n) ∧ State.reset.lnd.fences = [] ∧ State.reset.lnd.ctxs = [] ∧
  State.reset.pending = [] ∧ State.reset.out = []

/-- The frame of every command, block by block: what a command does not list in `touches` is as before. Nothing that arrives on a fabric lane changes the forwarding tables, a timetable, the host lease, the device lease, the running firmware, the keys or the plat (R143, R390). -/
def Obligations.CommandsChangeOnlyTheirBlocks : Prop :=
  (∀ (c : Instr) (s t : State), exec c s = .next t → ∀ b, b ∉ touches c → SameBlk b s t) ∧
  (∀ (c : Instr) (s t : State), exec c s = .next t →
    ((∃ a b g x, c = .linkFrameReceived a b g x) ∨ (∃ a g x, c = .codewordReceived a g x) ∨ (∃ a b d, c = .packetIngress a b d) ∨ (∃ a b d, c = .hello a b d) ∨
      (∃ a b, c = .config a b) ∨ (∃ a b, c = .creditInit a b)) →
    SameBlk .tables s t ∧ SameBlk .timetable s t ∧ SameBlk .own s t ∧ SameBlk .lease s t ∧ SameBlk .fw s t ∧ SameBlk .keys s t ∧ SameBlk .plat s t ∧
    ∀ bank eid, t.exact bank eid = s.exact bank eid)

/-- The host lease guards the device (R384, R390): while a port does not own it, none of its device-wide writes has an effect but HST_STATUS.DENIED and its count in Tally; while its PERST# is asserted, nothing that it writes has any. The model's own choices in it: log entry 6. -/
def Obligations.StrangersAreDenied : Prop :=
  (∀ (c : Instr) p s, deviceWide c = some p → Stranger p s →
    Completes c s fun t => (t.host p).denied = true ∧ (∀ q, q ≠ p → t.host q = s.host q) ∧ t.hst.owner = s.hst.owner ∧
      tget 0 t.tly.ctr (evNo 2 0 (portIdx p)) = tget 0 s.tly.ctr (evNo 2 0 (portIdx p)) + 1 ∧ ∀ b, b ≠ .hst → b ≠ .tly → SameBlk b s t) ∧
  (∀ (c : Instr) p s, (deviceWide c = some p ∨ c = .claim p ∨ c = .hostRenew p ∨ c = .hostYield p ∨ (∃ n, c = .force p n)) →
    (s.host p).perst = true → Completes c s fun t => t = s)

/-- LPDDR5X through the BAR2 window (R1, R388): either port reads back what the owner wrote, nothing else changes, and a memory in canonical form is determined by what its addresses read. The model's own choices in it: log entries 1 and 8. -/
def Obligations.MemoryReadsWhatWasWritten : Prop :=
  (∀ p q off off' (data : List Byte) a s, Owner p s → (s.host q).perst = false → a = (s.host p).win.toNat * 2 ^ 30 + off.toNat →
    a = (s.host q).win.toNat * 2 ^ 30 + off'.toNat → a + data.length ≤ s.capacity →
    Completes (.bar2Access p off data.length (some data)) s fun t =>
      Completes (.bar2Access q off' data.length none) t (fun u => u.out.head? = some (.hostRead q (some data)) ∧ u.ram = t.ram) ∧
      ∀ b n, b + n ≤ a ∨ a + data.length ≤ b → rdMem t b n = rdMem s b n) ∧
  (∀ s t : State, Memory.wf s = true → Memory.wf t = true → (∀ a, tget 0 s.ram a = tget 0 t.ram a) → s.ram = t.ram)

/-- The version fuses (R407): SECVER_COMMIT raises FUSEVER to the running firmware's SECVER, STALE where that is not above it, WRONG_STATE while the mailbox runs; no step lowers it, and the ROM starts no firmware below it. -/
def Obligations.VersionFusesOnlyRise : Prop :=
  (∀ p s, Owner p s → s.sec.busy = false → Completes (.secverCommit p) s fun t =>
    (s.hst.mbBusy = true → t = { s with sec.status := 2 }) ∧
    (s.hst.mbBusy = false → s.sec.secver.toNat ≤ s.nv.fusever.toNat → t = { s with sec.status := 5 }) ∧
    (s.hst.mbBusy = false → s.nv.fusever.toNat < s.sec.secver.toNat → t = { s with nv.fusever := s.sec.secver, sec.status := 0 })) ∧
  (∀ s t : State, step s = .next t → s.nv.fusever.toNat ≤ t.nv.fusever.toNat) ∧
  (∀ s, s.glb.state = .reset → Completes .powerGood s fun t => t.nv.fusever = s.nv.fusever ∧ (t.glb.state = .unplatted → t.nv.fusever.toNat ≤ t.sec.secver.toNat))

/-- 64-bit pairs (R6, R7): reads latch the high word for the port that reads, and a write takes effect with both its words at one instant, when the high word comes. -/
def Obligations.RegisterPairsMoveTogether : Prop :=
  (∀ (p : HPort) (off : BitVec 26) x s, (s.host p).perst = false → off.toNat % 4 = 0 → pairVal s p off.toNat = some x →
    Completes (.lowWordRead p (.word off)) s (fun t =>
      t.out = .hostRead p (some (toLE 4 (x % 2 ^ 32))) :: s.out ∧ tget 0 (t.host p).rdLatch off.toNat = BitVec.ofNat 32 (x / 2 ^ 32) ∧
      (∀ k, k % 4 = 0 → k ≠ off.toNat → tget 0 (t.host p).rdLatch k = tget 0 (s.host p).rdLatch k) ∧
      (∀ q, q ≠ p → t.host q = s.host q) ∧ ∀ b, b ≠ .hst → b ≠ .out → SameBlk b s t)) ∧
  (∀ (p : HPort) (off : BitVec 26) x s, (s.host p).perst = false → off.toNat % 4 = 0 → 4 ≤ off.toNat → pairVal s p off.toNat = none →
    pairVal s p (off.toNat - 4) = some x →
    Completes (.lowWordRead p (.word off)) s (fun t => t = { s with out := .hostRead p (some (toLE 4 (tget 0 (s.host p).rdLatch (off.toNat - 4)).toNat)) :: s.out })) ∧
  (∀ (p : HPort) (off : BitVec 26) x s, (s.host p).perst = false → pairVal s p off.toNat = some x →
    Completes (.lowWordRead p (.pair off)) s (fun t => t.out = .hostRead p (some (toLE 8 x)) :: s.out ∧ ∀ b, b ≠ .hst → b ≠ .out → SameBlk b s t)) ∧
  (∀ p k, tget 0 (State.reset.host p).rdLatch k = 0) ∧
  (∀ (p : HPort) (off : BitVec 26) (v : Word) s, Owner p s → off.toNat ∈ rwPairs →
    Completes (.registerWrite p off v) s (fun t =>
      (∀ q, pairVal t q off.toNat = pairVal s q off.toNat) ∧ (∀ k, tget none (t.host p).wrLatch k = if k = off.toNat then some v else tget none (s.host p).wrLatch k) ∧
      (∀ q, q ≠ p → t.host q = s.host q) ∧ ∀ b, b ≠ .hst → SameBlk b s t)) ∧
  (∀ (p : HPort) (off : BitVec 26) lo k x (v low : Word) s, Owner p s → off.toNat = lo + 4 → pairVal s p lo = some x →
    low = (tget none (s.host p).wrLatch lo).getD (BitVec.ofNat 32 x) →
    (lo, k) ∈ [(0x10000C, 12), (0x202014, 12), (0xC00028, 5), (0xC00060, 12), (0xC00080, 12), (0x1080010, 12), (0x1080018, 12), (0x1400030, 12),
      (0x1400040, 0), (0x1400060, 12), (0x1400078, 12), (0x1800004, 6), (0x1800050, 12), (0x1C00004, 6), (0x1C00070, 12), (0x1C00078, 0), (0x2000020, 12),
      (0x2420010, 0), (0x2800008, 0), (0x2800508, 0), (0x2800510, 0), (0x2C0000C, 6), (0x3000024, 0), (0x3000030, 12), (0x3000054, 12)] →
    Completes (.registerWrite p off v) s (fun t =>
      (∀ q, pairVal t q lo = some (v.toNat * 2 ^ 32 + low.toNat / 2 ^ k * 2 ^ k)) ∧
      (∀ j, tget none (t.host p).wrLatch j = if j = lo then none else tget none (s.host p).wrLatch j) ∧ (∀ q, q ≠ p → t.host q = s.host q))) ∧
  (∀ (p : HPort) (c : Nat) (v w : Word) s, (s.host p).perst = false → s.booted = true → c < 16 →
    Completes (.registerWrite p (BitVec.ofNat 26 (0x201000 + 64 * c)) w) s (fun t =>
      tget none (t.host p).wrLatch (0x201000 + 64 * c) = some w ∧ (t.host p).dma = (s.host p).dma ∧
      Completes (.registerWrite p (BitVec.ofNat 26 (0x201004 + 64 * c)) v) t (fun u =>
        (tget DmaCh.reset (u.host p).dma c).ring = (v ++ w) &&& ~~~0x3F#64 ∧ tget none (u.host p).wrLatch (0x201000 + 64 * c) = none))) ∧
  (∀ (p : HPort) (v w : Word) s, Owner p s →
    (tget none (s.host p).wrLatch 0x1400040 = some w → Completes (.registerWrite p 0x1400044#26 v) s (fun t => t.tmb = { s.tmb with at_ := v ++ w } ∧ t.mil = s.mil)) ∧
    (tget none (s.host p).wrLatch 0x2800008 = some w → Completes (.registerWrite p 0x280000C#26 v) s (fun t => t.res = { s.res with dl := v ++ w } ∧ t.tmb = s.tmb)))
end

