-- ==== Sys2Proof/Laws/EightB.lean ====
section
/-! SUPPORT. Laws of the 8b/10b code and of the framing of messages (R119 to R122): every character that a message holds is decoded as it was encoded, and a receiver whose running disparity agrees hears exactly what was framed. -/
namespace Sys2Proof.Machine
open Sys2Proof

/-- A data byte, or one of the K-codes of R120 that a message may hold. -/
def Char10.plain (c : Char10) : Bool := !c.k || c == .start || c == .stop || c == .marker || c == .abort || c == .comma

theorem decode10_encode10_all :
    ([false, true].all fun p => (List.range 256).all fun n => [false, true].all fun k =>
      !(Char10.plain ⟨k, BitVec.ofNat 8 n⟩) || (decode10 p (encode10 p ⟨k, BitVec.ofNat 8 n⟩).1 == some ⟨k, BitVec.ofNat 8 n⟩ &&
        rdAfter10 p (encode10 p ⟨k, BitVec.ofNat 8 n⟩).1 == (encode10 p ⟨k, BitVec.ofNat 8 n⟩).2)) = true := by
  decide +kernel

/-- A plain character is decoded as it was encoded, and both ends keep one running disparity. -/
theorem decode10_encode10 (p : Bool) (c : Char10) (h : c.plain = true) :
    decode10 p (encode10 p c).1 = some c ∧ rdAfter10 p (encode10 p c).1 = (encode10 p c).2 := by
  obtain ⟨k, b⟩ := c
  have a := List.all_eq_true.mp decode10_encode10_all p (by cases p <;> simp)
  have a := List.all_eq_true.mp a b.toNat (by simp; exact b.isLt)
  have a := List.all_eq_true.mp a k (by cases k <;> simp)
  simpa [h] using a

theorem decodeAll_encodeAll : ∀ (l : List Char10) (p : Bool), (∀ c, c ∈ l → c.plain = true) →
    (decodeAll p (encodeAll p l).1).1 = l.map some
  | [], _, _ => rfl
  | c :: r, p, h => by
    have a := decode10_encode10 p c (h c (by simp))
    have i := decodeAll_encodeAll r (encode10 p c).2 (fun x hx => h x (by simp [hx]))
    simp [encodeAll, decodeAll, a, i]

theorem framed_plain (t q : Byte) (b : List Byte) : ∀ c, c ∈ framed t q b → c.plain = true := by
  intro c hc
  simp only [framed, List.mem_append, List.mem_cons, List.mem_map, List.not_mem_nil, or_false] at hc
  rcases hc with (rfl | ⟨x, -, rfl⟩) | rfl
  · decide
  · simp [Char10.plain]
  · decide

theorem leNat_toLE : ∀ k n : Nat, leNat (toLE k n) = n % 256 ^ k
  | 0, n => by simp [toLE, leNat, Nat.mod_one]
  | k + 1, n => by
    have e : n % 256 ^ (k + 1) = n % 256 + 256 * (n / 256 % 256 ^ k) := by
      rw [Nat.pow_succ, Nat.mul_comm, Nat.mod_mul]
    simp [toLE, leNat, leNat_toLE k, e]
theorem toLE_length : ∀ k n : Nat, (toLE k n).length = k
  | 0, _ => rfl
  | k + 1, n => by simp [toLE, toLE_length k]

theorem crcStepR_lt (p c : Nat) (hp : p < 2 ^ 32) (hc : c < 2 ^ 32) : crcStepR p c < 2 ^ 32 := by
  unfold crcStepR
  split
  · exact Nat.xor_lt_two_pow (by omega) hp
  · omega
theorem crcR_lt (p : Nat) (hp : p < 2 ^ 32) : ∀ (l : List Byte) (c : Nat), c < 2 ^ 32 → crcR p c l < 2 ^ 32
  | [], c, h => by simpa [crcR] using h
  | b :: l, c, h => by
    have h0 : Nat.xor c b.toNat < 2 ^ 32 := Nat.xor_lt_two_pow h (by have := b.isLt; omega)
    have := crcR_lt p hp l ([0, 1, 2, 3, 4, 5, 6, 7].foldl (fun c _ => crcStepR p c) (Nat.xor c b.toNat)) (by
      simp only [List.foldl]
      exact crcStepR_lt p _ hp (crcStepR_lt p _ hp (crcStepR_lt p _ hp (crcStepR_lt p _ hp (crcStepR_lt p _ hp (crcStepR_lt p _ hp (crcStepR_lt p _ hp (crcStepR_lt p _ hp h0))))))))
    simpa [crcR] using this
theorem crc32c_lt (b : List Byte) : crc32c b < 2 ^ 32 :=
  Nat.xor_lt_two_pow (crcR_lt _ (by decide) b _ (by decide)) (by decide)

theorem leAt_append (a b c : List Byte) (n : Nat) (h : b.length = n) : leAt (a ++ b ++ c) a.length n = leNat b := by
  have : slice (a ++ b ++ c) a.length n = b := by
    subst h; simp [slice, List.append_assoc]
  rw [leAt, this]

/-- What a receiver makes of the characters of one message on a lane that carries its TYPE. -/
theorem parseMsg_framed (lane : Nat) (t q : Byte) (b : List Byte) (hl : b.length ≤ 2048) (ht : typeOnLane lane t = true) :
    parseMsg lane ((framed t q b).map some) = .ok ⟨t, q, b⟩ := by
  have mod : b.length % 256 ^ 2 = b.length := Nat.mod_eq_of_lt (by omega)
  generalize hx : [t, q] ++ toLE 2 b.length ++ b = x
  have xl : x.length = 4 + b.length := by rw [← hx]; simp [toLE_length]; omega
  generalize hy : x ++ toLE 4 (crc32c x) = y
  have yl : y.length = 8 + b.length := by rw [← hy]; simp [xl, toLE_length]; omega
  have fr : framed t q b = .start :: y.map (⟨false, ·⟩) ++ [.stop] := by simp only [framed, hx, hy]
  have len : u16At y 2 = b.length := by
    have : y = [t, q] ++ toLE 2 b.length ++ (b ++ toLE 4 (crc32c x)) := by rw [← hy, ← hx]; simp
    rw [this]
    exact (leAt_append [t, q] (toLE 2 b.length) _ 2 (toLE_length _ _)).trans (by rw [leNat_toLE, mod])
  have crc : u32At y (4 + b.length) = crc32c x := by
    rw [← hy, ← xl]
    have := leAt_append x (toLE 4 (crc32c x)) [] 4 (toLE_length _ _)
    rw [List.append_nil] at this
    exact this.trans (by rw [leNat_toLE]; exact Nat.mod_eq_of_lt (crc32c_lt x))
  have tk : y.take (4 + b.length) = x := by rw [← hy, ← xl]; simp
  have u0 : BitVec.ofNat 8 (u8At y 0) = t := by rw [← hy, ← hx]; simp [u8At, leAt, slice, leNat]
  have u1 : BitVec.ofNat 8 (u8At y 1) = q := by rw [← hy, ← hx]; simp [u8At, leAt, slice, leNat]
  have sl : slice y 4 b.length = b := by
    have : y = (([t, q] ++ toLE 2 b.length) ++ b) ++ toLE 4 (crc32c x) := by rw [← hy, ← hx]
    rw [this]; unfold slice; simp [toLE]
  unfold parseMsg
  rw [fr]
  have e1 : (List.map some (Char10.start :: List.map (⟨false, ·⟩) y ++ [Char10.stop])).dropWhile (fun c => c != some .start)
      = some Char10.start :: ((y.map (fun z => some (⟨false, z⟩ : Char10))) ++ [some Char10.stop]) := by simp [Function.comp_def]
  simp only [e1]
  have e2 : ((y.map (fun z => some (⟨false, z⟩ : Char10))) ++ [some Char10.stop]).filter (fun c => c != some Char10.marker)
      = (y.map (fun z => some (⟨false, z⟩ : Char10))) ++ [some Char10.stop] := by
    rw [List.filter_eq_self]
    intro a ha
    simp only [List.mem_append, List.mem_map, List.mem_singleton] at ha
    rcases ha with ⟨z, -, rfl⟩ | rfl
    · simp [Char10.marker]
    · decide
  simp only [e2]
  have e3 : ∀ p : Option Char10 → Bool, (∀ z : Byte, p (some ⟨false, z⟩) = true) → p (some .stop) = false →
      ((y.map (fun z => some (⟨false, z⟩ : Char10))) ++ [some Char10.stop]).takeWhile p = y.map (fun z => some (⟨false, z⟩ : Char10)) := by
    intro p h1 h2
    rw [List.takeWhile_append_of_pos (by intro a ha; simp only [List.mem_map] at ha; obtain ⟨z, -, rfl⟩ := ha; exact h1 z)]
    simp [h2]
  have e4 : (y.map (fun z => some (⟨false, z⟩ : Char10))).filterMap (fun c => c.map (·.byte)) = y := by
    rw [List.filterMap_map]; simp
  rw [e3 _ (fun _ => rfl) rfl, e4]
  have e5 : ((y.map (fun z => some (⟨false, z⟩ : Char10))) ++ [some Char10.stop]).drop y.length = [some .stop] := by
    rw [List.drop_append_of_le_length (by simp)]; simp
  rw [e5]
  have z1 : (Char10.stop == Char10.abort) = false := by decide
  have z2 : (Char10.stop != Char10.stop) = false := by decide
  simp only [z1, z2, len, crc, tk, u0, u1, sl, yl, ht]
  simp
  omega

/-- An aligned lane whose running disparity the sender shares hears the message that was framed. -/
theorem hears_framed (s : State) (n : Nat) (t q : Byte) (b : List Byte) (ha : (s.svcLane n).st = .aligned) (hl : b.length ≤ 2048)
    (ht : typeOnLane n t = true) : Hears s n (encodeAll (s.svcLane n).rd (framed t q b)).1 t q b := by
  refine ⟨ha, ?_⟩
  unfold State.heard
  rw [decodeAll_encodeAll _ _ (framed_plain t q b), parseMsg_framed n t q b hl ht]

/-- Powered debug lands whose running disparity the sender shares hear the message that was framed. -/
theorem hearsDebug_framed (s : State) (t q : Byte) (b : List Byte) (ha : s.dbgOn = true) (hl : b.length ≤ 2048)
    (ht : typeOnLane 80 t = true) : HearsDebug s (encodeAll s.pwr.dbgRd (framed t q b)).1 t q b := by
  refine ⟨ha, ?_⟩
  unfold State.heardDebug
  rw [decodeAll_encodeAll _ _ (framed_plain t q b), parseMsg_framed 80 t q b hl ht]

end Sys2Proof.Machine
end

