-- ==== Sys2Proof/Laws/Tab.lean ====
section
/-! SUPPORT. The laws of sparse tables: read after write, and that every write keeps the canonical form. -/
namespace Sys2Proof.Machine
open Sys2Proof

variable {α : Type}

/-- Keys of a list that rises from above `i` are above `i`. -/
theorem tsorted_some_lt {r : Tab α} {i : Nat} (h : tsorted (some i) r = true) : ∀ e ∈ r, i < e.1 := by
  induction r generalizing i with
  | nil => simp
  | cons e r ih =>
    obtain ⟨j, v⟩ := e
    simp only [tsorted, Bool.and_eq_true, decide_eq_true_eq] at h
    intro e he
    rcases List.mem_cons.1 he with rfl | he
    · exact h.1
    · exact Nat.lt_trans h.1 (ih h.2 e he)

theorem tsorted_weaken {r : Tab α} {b : Option Nat} {i : Nat} (hb : ∀ j, b = some j → j < i)
    (h : tsorted (some i) r = true) : tsorted b r = true := by
  cases r with
  | nil => cases b <;> rfl
  | cons e r =>
    obtain ⟨j, v⟩ := e
    simp only [tsorted, Bool.and_eq_true, decide_eq_true_eq] at h ⊢
    refine ⟨?_, h.2⟩
    cases b with
    | none => rfl
    | some k => exact decide_eq_true (Nat.lt_trans (hb k rfl) h.1)

theorem tget_tins (d : α) (t : Tab α) (k j : Nat) (v : α) :
    tget d (tins t k v) j = if j = k then v else tget d t j := by
  induction t with
  | nil => simp [tins, tget]
  | cons e r ih =>
    obtain ⟨i, u⟩ := e
    simp only [tins]
    split
    · simp [tget]
    · split
      · next h => subst h; simp only [tget]; split <;> simp_all
      · next h1 h2 =>
        simp only [tget, ih]
        by_cases hj : j = i
        · subst hj; rw [if_pos rfl, if_neg (fun h => h2 h.symm), if_pos rfl]
        · rw [if_neg hj, if_neg hj]

theorem tget_tdel (d : α) (t : Tab α) (k j : Nat) : tget d (tdel t k) j = if j = k then d else tget d t j := by
  induction t with
  | nil => simp [tdel, tget]
  | cons e r ih =>
    obtain ⟨i, u⟩ := e
    simp only [tdel, ne_eq, List.filter_cons, decide_not, Bool.not_eq_eq_eq_not, Bool.not_true, decide_eq_false_iff_not] at ih ⊢
    split
    · simp only [tget, ih]; split <;> simp_all
    · simp only [ih, tget]; split <;> simp_all

/-- Read after write. -/
theorem tget_tset [DecidableEq α] (d : α) (t : Tab α) (k j : Nat) (v : α) :
    tget d (tset d t k v) j = if j = k then v else tget d t j := by
  unfold tset
  split
  · next h => subst h; exact tget_tdel _ _ _ _
  · exact tget_tins _ _ _ _ _

@[simp] theorem tget_tset_self [DecidableEq α] (d : α) (t : Tab α) (k : Nat) (v : α) : tget d (tset d t k v) k = v := by
  simp [tget_tset]

theorem tget_tset_of_ne [DecidableEq α] (d : α) (t : Tab α) {k j : Nat} (v : α) (h : j ≠ k) :
    tget d (tset d t k v) j = tget d t j := by
  simp [tget_tset, h]

@[simp] theorem tget_tmod_self [DecidableEq α] (d : α) (t : Tab α) (k : Nat) (f : α → α) :
    tget d (tmod d t k f) k = f (tget d t k) := tget_tset_self _ _ _ _

theorem tget_tmod_of_ne [DecidableEq α] (d : α) (t : Tab α) {k j : Nat} (f : α → α) (h : j ≠ k) :
    tget d (tmod d t k f) j = tget d t j := tget_tset_of_ne _ _ _ h

theorem tsorted_tins {t : Tab α} {b : Option Nat} {k : Nat} (v : α) (hb : ∀ j, b = some j → j < k)
    (h : tsorted b t = true) : tsorted b (tins t k v) = true := by
  induction t generalizing b with
  | nil => cases b <;> simp_all [tins, tsorted]
  | cons e r ih =>
    obtain ⟨i, u⟩ := e
    simp only [tsorted, Bool.and_eq_true] at h
    simp only [tins]
    split
    · next hk =>
      simp only [tsorted, Bool.and_eq_true, decide_eq_true_eq]
      refine ⟨?_, hk, h.2⟩
      cases b with
      | none => rfl
      | some j => exact decide_eq_true (hb j rfl)
    · split
      · next h2 => subst h2; simpa [tsorted] using h
      · next h1 h2 =>
        simp only [tsorted, Bool.and_eq_true]
        exact ⟨h.1, ih (fun j hj => by cases hj; omega) h.2⟩

theorem tsorted_tdel {t : Tab α} {b : Option Nat} (k : Nat) (h : tsorted b t = true) : tsorted b (tdel t k) = true := by
  induction t generalizing b with
  | nil => exact h
  | cons e r ih =>
    obtain ⟨i, u⟩ := e
    simp only [tsorted, Bool.and_eq_true] at h
    have h2 := ih h.2
    simp only [tdel, List.filter_cons] at h2 ⊢
    split
    · simp only [tsorted, Bool.and_eq_true]; exact ⟨h.1, h2⟩
    · refine tsorted_weaken (fun j hj => ?_) h2
      subst hj; simpa using h.1

theorem all_tins {p : Nat × α → Bool} {t : Tab α} {k : Nat} {v : α} (hv : p (k, v) = true) (h : t.all p = true) :
    (tins t k v).all p = true := by
  induction t with
  | nil => simp [tins, hv]
  | cons e r ih =>
    obtain ⟨i, u⟩ := e
    simp only [List.all_cons, Bool.and_eq_true] at h
    simp only [tins]
    split
    · simp [hv, h.1, h.2]
    · split <;> simp_all

/-- A write keeps the canonical form. -/
theorem twf_tset [DecidableEq α] {d : α} {t : Tab α} (k : Nat) (v : α) (h : twf d t = true) : twf d (tset d t k v) = true := by
  simp only [twf, Bool.and_eq_true] at h ⊢
  unfold tset
  split
  · exact ⟨tsorted_tdel k h.1, by
      simp only [tdel, List.all_filter, List.all_eq_true] at h ⊢
      intro e he; simp [h.2 e he]⟩
  · next hv => exact ⟨tsorted_tins v (by simp) h.1, all_tins (by simpa using hv) h.2⟩

theorem twf_tmod [DecidableEq α] {d : α} {t : Tab α} (k : Nat) (f : α → α) (h : twf d t = true) : twf d (tmod d t k f) = true :=
  twf_tset _ _ h

theorem twf_tsetL [DecidableEq α] {d : α} {t : Tab α} (k : Nat) (l : List α) (h : twf d t = true) : twf d (tsetL d t k l) = true := by
  induction l generalizing t k with
  | nil => exact h
  | cons v r ih => exact ih _ (twf_tset _ _ h)

/-- Reading one entry after consecutive writes: an entry of the range reads the value written, every other as before. -/
theorem tget_tsetL [DecidableEq α] (d : α) (t : Tab α) (k : Nat) (l : List α) (j : Nat) :
    tget d (tsetL d t k l) j = if k ≤ j ∧ j < k + l.length then (l[j - k]?).getD d else tget d t j := by
  induction l generalizing t k with
  | nil => simp only [tsetL, List.length_nil]; rw [if_neg (by omega)]
  | cons v r ih =>
    simp only [tsetL, ih, List.length_cons, tget_tset]
    by_cases h1 : j = k
    · subst h1; rw [if_neg (by omega), if_pos rfl, if_pos (by omega)]; simp
    · by_cases h2 : k ≤ j ∧ j < k + (r.length + 1)
      · rw [if_pos (by omega), if_pos h2]
        obtain ⟨m, rfl⟩ : ∃ m, j = k + 1 + m := ⟨j - (k + 1), by omega⟩
        rw [show k + 1 + m - (k + 1) = m by omega, show k + 1 + m - k = m + 1 by omega]; simp
      · rw [if_neg (by omega), if_neg h1, if_neg h2]

end Sys2Proof.Machine
end

