-- ==== Sys2Proof/Laws/Kept.lean ====
section
/-! SUPPORT. How "only these blocks change, and nothing is undone" passes through a change of the state: a change of fields, of the non-volatile store, of memory, of time, and the emission of a message. -/
namespace Sys2Proof.Machine
open Sys2Proof

variable {L W : List Blk} {s₀ s t u : State}

theorem SameBlk.refl (b : Blk) (s : State) : SameBlk b s s := by cases b <;> rfl
theorem SameBlk.trans {b : Blk} (h : SameBlk b s t) (k : SameBlk b t u) : SameBlk b s u := by
  cases b <;> exact Eq.trans k h

theorem Kept.refl (s : State) : Kept L s s :=
  ⟨fun b _ => SameBlk.refl b s, rfl, rfl, Nat.le_refl _, id, Nat.le_refl _, List.suffix_refl _, rfl, id, id⟩
theorem Kept.idRefl : Kept L s (id s) := Kept.refl s
theorem Kept.trans (h : Kept L s t) (k : Kept L t u) : Kept L s u :=
  ⟨fun b hb => (h.same b hb).trans (k.same b hb), k.devid.trans h.devid, k.mem128.trans h.mem128, Nat.le_trans h.fusever k.fusever,
    fun e => k.erased (h.erased e), Nat.le_trans h.clk k.clk, h.out.trans k.out, k.pending.trans h.pending, fun e => k.ram (h.ram e), fun e => k.gone (h.gone e)⟩
theorem Kept.mono (h : Kept W s t) (hw : W ⊆ L) : Kept L s t :=
  { h with same := fun b hb => h.same b (fun hm => hb (hw hm)) }
/-- One more operation, whose blocks are among those listed. -/
theorem Kept.step (k : Kept W t u) (hw : W ⊆ L) (h : Kept L s t) : Kept L s u := h.trans (k.mono hw)

/-! ### Changes of fields -/

theorem Kept.put_glb {glb} (hL : Blk.glb ∈ L) (h : Kept L s₀ s) : Kept L s₀ ⟨glb, s.plt, s.hst, s.lnk, s.srd, s.svc, s.eye, s.fwd, s.swc, s.tmb, s.lnd, s.mil, s.mem, s.opt, s.res, s.sec, s.tly, s.pwr, s.nv, s.ram, s.clk, s.fresh, s.out, s.pending⟩ :=
  h.trans ⟨fun b hb => by cases b <;> first | rfl | exact absurd hL hb, rfl, rfl, Nat.le_refl _, id, Nat.le_refl _, List.suffix_refl _, rfl, id, id⟩
theorem Kept.put_plt {plt} (hL : Blk.plt ∈ L) (he : (plt.plat, plt.active, plt.gen, plt.sealed, plt.ddigest, plt.dgen) = (s.plt.plat, s.plt.active, s.plt.gen, s.plt.sealed, s.plt.ddigest, s.plt.dgen)) (h : Kept L s₀ s) : Kept L s₀ ⟨s.glb, plt, s.hst, s.lnk, s.srd, s.svc, s.eye, s.fwd, s.swc, s.tmb, s.lnd, s.mil, s.mem, s.opt, s.res, s.sec, s.tly, s.pwr, s.nv, s.ram, s.clk, s.fresh, s.out, s.pending⟩ :=
  h.trans ⟨fun b hb => by cases b <;> first | rfl | exact absurd hL hb | exact he, rfl, rfl, Nat.le_refl _, id, Nat.le_refl _, List.suffix_refl _, rfl, id, id⟩
theorem Kept.put_plt_plat {plt} (hL : Blk.plt ∈ L) (hp : Blk.plat ∈ L) (h : Kept L s₀ s) : Kept L s₀ ⟨s.glb, plt, s.hst, s.lnk, s.srd, s.svc, s.eye, s.fwd, s.swc, s.tmb, s.lnd, s.mil, s.mem, s.opt, s.res, s.sec, s.tly, s.pwr, s.nv, s.ram, s.clk, s.fresh, s.out, s.pending⟩ :=
  h.trans ⟨fun b hb => by cases b <;> first | rfl | exact absurd hL hb | exact absurd hp hb, rfl, rfl, Nat.le_refl _, id, Nat.le_refl _, List.suffix_refl _, rfl, id, id⟩
theorem Kept.put_hst {hst} (hL : Blk.hst ∈ L) (he : (hst.owner, hst.leaseEnd, hst.pend) = (s.hst.owner, s.hst.leaseEnd, s.hst.pend)) (h : Kept L s₀ s) : Kept L s₀ ⟨s.glb, s.plt, hst, s.lnk, s.srd, s.svc, s.eye, s.fwd, s.swc, s.tmb, s.lnd, s.mil, s.mem, s.opt, s.res, s.sec, s.tly, s.pwr, s.nv, s.ram, s.clk, s.fresh, s.out, s.pending⟩ :=
  h.trans ⟨fun b hb => by cases b <;> first | rfl | exact absurd hL hb | exact he, rfl, rfl, Nat.le_refl _, id, Nat.le_refl _, List.suffix_refl _, rfl, id, id⟩
theorem Kept.put_hst_own {hst} (hL : Blk.hst ∈ L) (hp : Blk.own ∈ L) (h : Kept L s₀ s) : Kept L s₀ ⟨s.glb, s.plt, hst, s.lnk, s.srd, s.svc, s.eye, s.fwd, s.swc, s.tmb, s.lnd, s.mil, s.mem, s.opt, s.res, s.sec, s.tly, s.pwr, s.nv, s.ram, s.clk, s.fresh, s.out, s.pending⟩ :=
  h.trans ⟨fun b hb => by cases b <;> first | rfl | exact absurd hL hb | exact absurd hp hb, rfl, rfl, Nat.le_refl _, id, Nat.le_refl _, List.suffix_refl _, rfl, id, id⟩
theorem Kept.put_lnk {lnk} (hL : Blk.lnk ∈ L) (h : Kept L s₀ s) : Kept L s₀ ⟨s.glb, s.plt, s.hst, lnk, s.srd, s.svc, s.eye, s.fwd, s.swc, s.tmb, s.lnd, s.mil, s.mem, s.opt, s.res, s.sec, s.tly, s.pwr, s.nv, s.ram, s.clk, s.fresh, s.out, s.pending⟩ :=
  h.trans ⟨fun b hb => by cases b <;> first | rfl | exact absurd hL hb, rfl, rfl, Nat.le_refl _, id, Nat.le_refl _, List.suffix_refl _, rfl, id, id⟩
theorem Kept.put_srd {srd} (hL : Blk.srd ∈ L) (h : Kept L s₀ s) : Kept L s₀ ⟨s.glb, s.plt, s.hst, s.lnk, srd, s.svc, s.eye, s.fwd, s.swc, s.tmb, s.lnd, s.mil, s.mem, s.opt, s.res, s.sec, s.tly, s.pwr, s.nv, s.ram, s.clk, s.fresh, s.out, s.pending⟩ :=
  h.trans ⟨fun b hb => by cases b <;> first | rfl | exact absurd hL hb, rfl, rfl, Nat.le_refl _, id, Nat.le_refl _, List.suffix_refl _, rfl, id, id⟩
theorem Kept.put_svc {svc} (hL : Blk.svc ∈ L) (h : Kept L s₀ s) : Kept L s₀ ⟨s.glb, s.plt, s.hst, s.lnk, s.srd, svc, s.eye, s.fwd, s.swc, s.tmb, s.lnd, s.mil, s.mem, s.opt, s.res, s.sec, s.tly, s.pwr, s.nv, s.ram, s.clk, s.fresh, s.out, s.pending⟩ :=
  h.trans ⟨fun b hb => by cases b <;> first | rfl | exact absurd hL hb, rfl, rfl, Nat.le_refl _, id, Nat.le_refl _, List.suffix_refl _, rfl, id, id⟩
theorem Kept.put_eye {eye} (hL : Blk.eye ∈ L) (h : Kept L s₀ s) : Kept L s₀ ⟨s.glb, s.plt, s.hst, s.lnk, s.srd, s.svc, eye, s.fwd, s.swc, s.tmb, s.lnd, s.mil, s.mem, s.opt, s.res, s.sec, s.tly, s.pwr, s.nv, s.ram, s.clk, s.fresh, s.out, s.pending⟩ :=
  h.trans ⟨fun b hb => by cases b <;> first | rfl | exact absurd hL hb, rfl, rfl, Nat.le_refl _, id, Nat.le_refl _, List.suffix_refl _, rfl, id, id⟩
theorem Kept.put_fwd {fwd} (hL : Blk.fwd ∈ L) (he : (fwd.bankA, fwd.bankB, fwd.job, fwd.cur, fwd.stA, fwd.stB) = (s.fwd.bankA, s.fwd.bankB, s.fwd.job, s.fwd.cur, s.fwd.stA, s.fwd.stB)) (h : Kept L s₀ s) : Kept L s₀ ⟨s.glb, s.plt, s.hst, s.lnk, s.srd, s.svc, s.eye, fwd, s.swc, s.tmb, s.lnd, s.mil, s.mem, s.opt, s.res, s.sec, s.tly, s.pwr, s.nv, s.ram, s.clk, s.fresh, s.out, s.pending⟩ :=
  h.trans ⟨fun b hb => by cases b <;> first | rfl | exact absurd hL hb | exact he, rfl, rfl, Nat.le_refl _, id, Nat.le_refl _, List.suffix_refl _, rfl, id, id⟩
theorem Kept.put_fwd_tables {fwd} (hL : Blk.fwd ∈ L) (hp : Blk.tables ∈ L) (h : Kept L s₀ s) : Kept L s₀ ⟨s.glb, s.plt, s.hst, s.lnk, s.srd, s.svc, s.eye, fwd, s.swc, s.tmb, s.lnd, s.mil, s.mem, s.opt, s.res, s.sec, s.tly, s.pwr, s.nv, s.ram, s.clk, s.fresh, s.out, s.pending⟩ :=
  h.trans ⟨fun b hb => by cases b <;> first | rfl | exact absurd hL hb | exact absurd hp hb, rfl, rfl, Nat.le_refl _, id, Nat.le_refl _, List.suffix_refl _, rfl, id, id⟩
theorem Kept.put_swc {swc} (hL : Blk.swc ∈ L) (h : Kept L s₀ s) : Kept L s₀ ⟨s.glb, s.plt, s.hst, s.lnk, s.srd, s.svc, s.eye, s.fwd, swc, s.tmb, s.lnd, s.mil, s.mem, s.opt, s.res, s.sec, s.tly, s.pwr, s.nv, s.ram, s.clk, s.fresh, s.out, s.pending⟩ :=
  h.trans ⟨fun b hb => by cases b <;> first | rfl | exact absurd hL hb, rfl, rfl, Nat.le_refl _, id, Nat.le_refl _, List.suffix_refl _, rfl, id, id⟩
theorem Kept.put_tmb {tmb} (hL : Blk.tmb ∈ L) (he : (tmb.active, tmb.staged, tmb.old, tmb.armed, tmb.pending) = (s.tmb.active, s.tmb.staged, s.tmb.old, s.tmb.armed, s.tmb.pending)) (h : Kept L s₀ s) : Kept L s₀ ⟨s.glb, s.plt, s.hst, s.lnk, s.srd, s.svc, s.eye, s.fwd, s.swc, tmb, s.lnd, s.mil, s.mem, s.opt, s.res, s.sec, s.tly, s.pwr, s.nv, s.ram, s.clk, s.fresh, s.out, s.pending⟩ :=
  h.trans ⟨fun b hb => by cases b <;> first | rfl | exact absurd hL hb | exact he, rfl, rfl, Nat.le_refl _, id, Nat.le_refl _, List.suffix_refl _, rfl, id, id⟩
theorem Kept.put_tmb_timetable {tmb} (hL : Blk.tmb ∈ L) (hp : Blk.timetable ∈ L) (h : Kept L s₀ s) : Kept L s₀ ⟨s.glb, s.plt, s.hst, s.lnk, s.srd, s.svc, s.eye, s.fwd, s.swc, tmb, s.lnd, s.mil, s.mem, s.opt, s.res, s.sec, s.tly, s.pwr, s.nv, s.ram, s.clk, s.fresh, s.out, s.pending⟩ :=
  h.trans ⟨fun b hb => by cases b <;> first | rfl | exact absurd hL hb | exact absurd hp hb, rfl, rfl, Nat.le_refl _, id, Nat.le_refl _, List.suffix_refl _, rfl, id, id⟩
theorem Kept.put_lnd {lnd} (hL : Blk.lnd ∈ L) (h : Kept L s₀ s) : Kept L s₀ ⟨s.glb, s.plt, s.hst, s.lnk, s.srd, s.svc, s.eye, s.fwd, s.swc, s.tmb, lnd, s.mil, s.mem, s.opt, s.res, s.sec, s.tly, s.pwr, s.nv, s.ram, s.clk, s.fresh, s.out, s.pending⟩ :=
  h.trans ⟨fun b hb => by cases b <;> first | rfl | exact absurd hL hb, rfl, rfl, Nat.le_refl _, id, Nat.le_refl _, List.suffix_refl _, rfl, id, id⟩
theorem Kept.put_mil {mil} (hL : Blk.mil ∈ L) (h : Kept L s₀ s) : Kept L s₀ ⟨s.glb, s.plt, s.hst, s.lnk, s.srd, s.svc, s.eye, s.fwd, s.swc, s.tmb, s.lnd, mil, s.mem, s.opt, s.res, s.sec, s.tly, s.pwr, s.nv, s.ram, s.clk, s.fresh, s.out, s.pending⟩ :=
  h.trans ⟨fun b hb => by cases b <;> first | rfl | exact absurd hL hb, rfl, rfl, Nat.le_refl _, id, Nat.le_refl _, List.suffix_refl _, rfl, id, id⟩
theorem Kept.put_mem {mem} (hL : Blk.mem ∈ L) (h : Kept L s₀ s) : Kept L s₀ ⟨s.glb, s.plt, s.hst, s.lnk, s.srd, s.svc, s.eye, s.fwd, s.swc, s.tmb, s.lnd, s.mil, mem, s.opt, s.res, s.sec, s.tly, s.pwr, s.nv, s.ram, s.clk, s.fresh, s.out, s.pending⟩ :=
  h.trans ⟨fun b hb => by cases b <;> first | rfl | exact absurd hL hb, rfl, rfl, Nat.le_refl _, id, Nat.le_refl _, List.suffix_refl _, rfl, id, id⟩
theorem Kept.put_opt {opt} (hL : Blk.opt ∈ L) (h : Kept L s₀ s) : Kept L s₀ ⟨s.glb, s.plt, s.hst, s.lnk, s.srd, s.svc, s.eye, s.fwd, s.swc, s.tmb, s.lnd, s.mil, s.mem, opt, s.res, s.sec, s.tly, s.pwr, s.nv, s.ram, s.clk, s.fresh, s.out, s.pending⟩ :=
  h.trans ⟨fun b hb => by cases b <;> first | rfl | exact absurd hL hb, rfl, rfl, Nat.le_refl _, id, Nat.le_refl _, List.suffix_refl _, rfl, id, id⟩
theorem Kept.put_res {res} (hL : Blk.res ∈ L) (he : (res.leaseStatus, res.cur, res.lease, res.leaseEnd, res.cause, res.done, res.count, res.cordonT) = (s.res.leaseStatus, s.res.cur, s.res.lease, s.res.leaseEnd, s.res.cause, s.res.done, s.res.count, s.res.cordonT)) (h : Kept L s₀ s) : Kept L s₀ ⟨s.glb, s.plt, s.hst, s.lnk, s.srd, s.svc, s.eye, s.fwd, s.swc, s.tmb, s.lnd, s.mil, s.mem, s.opt, res, s.sec, s.tly, s.pwr, s.nv, s.ram, s.clk, s.fresh, s.out, s.pending⟩ :=
  h.trans ⟨fun b hb => by cases b <;> first | rfl | exact absurd hL hb | exact he, rfl, rfl, Nat.le_refl _, id, Nat.le_refl _, List.suffix_refl _, rfl, id, id⟩
theorem Kept.put_res_lease {res} (hL : Blk.res ∈ L) (hp : Blk.lease ∈ L) (h : Kept L s₀ s) : Kept L s₀ ⟨s.glb, s.plt, s.hst, s.lnk, s.srd, s.svc, s.eye, s.fwd, s.swc, s.tmb, s.lnd, s.mil, s.mem, s.opt, res, s.sec, s.tly, s.pwr, s.nv, s.ram, s.clk, s.fresh, s.out, s.pending⟩ :=
  h.trans ⟨fun b hb => by cases b <;> first | rfl | exact absurd hL hb | exact absurd hp hb, rfl, rfl, Nat.le_refl _, id, Nat.le_refl _, List.suffix_refl _, rfl, id, id⟩
theorem Kept.put_sec {sec} (hL : Blk.sec ∈ L) (he : (sec.secver, sec.bootSlot, sec.fwver, sec.fwDigest) = (s.sec.secver, s.sec.bootSlot, s.sec.fwver, s.sec.fwDigest)) (h : Kept L s₀ s) : Kept L s₀ ⟨s.glb, s.plt, s.hst, s.lnk, s.srd, s.svc, s.eye, s.fwd, s.swc, s.tmb, s.lnd, s.mil, s.mem, s.opt, s.res, sec, s.tly, s.pwr, s.nv, s.ram, s.clk, s.fresh, s.out, s.pending⟩ :=
  h.trans ⟨fun b hb => by cases b <;> first | rfl | exact absurd hL hb | exact he, rfl, rfl, Nat.le_refl _, id, Nat.le_refl _, List.suffix_refl _, rfl, id, id⟩
theorem Kept.put_sec_fw {sec} (hL : Blk.sec ∈ L) (hp : Blk.fw ∈ L) (h : Kept L s₀ s) : Kept L s₀ ⟨s.glb, s.plt, s.hst, s.lnk, s.srd, s.svc, s.eye, s.fwd, s.swc, s.tmb, s.lnd, s.mil, s.mem, s.opt, s.res, sec, s.tly, s.pwr, s.nv, s.ram, s.clk, s.fresh, s.out, s.pending⟩ :=
  h.trans ⟨fun b hb => by cases b <;> first | rfl | exact absurd hL hb | exact absurd hp hb, rfl, rfl, Nat.le_refl _, id, Nat.le_refl _, List.suffix_refl _, rfl, id, id⟩
theorem Kept.put_tly {tly} (hL : Blk.tly ∈ L) (h : Kept L s₀ s) : Kept L s₀ ⟨s.glb, s.plt, s.hst, s.lnk, s.srd, s.svc, s.eye, s.fwd, s.swc, s.tmb, s.lnd, s.mil, s.mem, s.opt, s.res, s.sec, tly, s.pwr, s.nv, s.ram, s.clk, s.fresh, s.out, s.pending⟩ :=
  h.trans ⟨fun b hb => by cases b <;> first | rfl | exact absurd hL hb, rfl, rfl, Nat.le_refl _, id, Nat.le_refl _, List.suffix_refl _, rfl, id, id⟩
theorem Kept.put_pwr {pwr} (hL : Blk.pwr ∈ L) (h : Kept L s₀ s) : Kept L s₀ ⟨s.glb, s.plt, s.hst, s.lnk, s.srd, s.svc, s.eye, s.fwd, s.swc, s.tmb, s.lnd, s.mil, s.mem, s.opt, s.res, s.sec, s.tly, pwr, s.nv, s.ram, s.clk, s.fresh, s.out, s.pending⟩ :=
  h.trans ⟨fun b hb => by cases b <;> first | rfl | exact absurd hL hb, rfl, rfl, Nat.le_refl _, id, Nat.le_refl _, List.suffix_refl _, rfl, id, id⟩
theorem Kept.put_fresh {fresh} (hL : Blk.fresh ∈ L) (h : Kept L s₀ s) : Kept L s₀ ⟨s.glb, s.plt, s.hst, s.lnk, s.srd, s.svc, s.eye, s.fwd, s.swc, s.tmb, s.lnd, s.mil, s.mem, s.opt, s.res, s.sec, s.tly, s.pwr, s.nv, s.ram, s.clk, fresh, s.out, s.pending⟩ :=
  h.trans ⟨fun b hb => by cases b <;> first | rfl | exact absurd hL hb, rfl, rfl, Nat.le_refl _, id, Nat.le_refl _, List.suffix_refl _, rfl, id, id⟩
/-- Several fields at once. -/
theorem Kept.put {glb plt hst lnk srd svc eye fwd swc tmb lnd mil mem opt res sec tly pwr fresh}
    (hd : ∀ b, b ∉ L → SameBlk b s ⟨glb, plt, hst, lnk, srd, svc, eye, fwd, swc, tmb, lnd, mil, mem, opt, res, sec, tly, pwr, s.nv, s.ram, s.clk, fresh, s.out, s.pending⟩)
    (h : Kept L s₀ s) : Kept L s₀ ⟨glb, plt, hst, lnk, srd, svc, eye, fwd, swc, tmb, lnd, mil, mem, opt, res, sec, tly, pwr, s.nv, s.ram, s.clk, fresh, s.out, s.pending⟩ :=
  h.trans ⟨hd, rfl, rfl, Nat.le_refl _, id, Nat.le_refl _, List.suffix_refl _, rfl, id, id⟩
/-- A change of the non-volatile store that leaves the fuses and the erasure alone. -/
theorem Kept.put_nv {erasing key0 key1 tempLatch fw0 fw1 fwFirst plat0 plat1 active partials cal savedPen savedBanks} (hL : Blk.nv ∈ L) (he : (key0, key1) = (s.nv.key0, s.nv.key1)) (h : Kept L s₀ s) :
    Kept L s₀ ⟨s.glb, s.plt, s.hst, s.lnk, s.srd, s.svc, s.eye, s.fwd, s.swc, s.tmb, s.lnd, s.mil, s.mem, s.opt, s.res, s.sec, s.tly, s.pwr, ⟨s.nv.mem128, s.nv.devid, s.nv.fusever, s.nv.erased, erasing, key0, key1, tempLatch, fw0, fw1, fwFirst, plat0, plat1, active, partials, cal, savedPen, savedBanks⟩, s.ram, s.clk, s.fresh, s.out, s.pending⟩ :=
  h.trans ⟨fun b hb => by cases b <;> first | rfl | exact absurd hL hb | exact he, rfl, rfl, Nat.le_refl _, id, Nat.le_refl _, List.suffix_refl _, rfl, id, fun e x => by
    obtain ⟨rfl, rfl⟩ := Prod.mk.inj he
    exact e x⟩
theorem Kept.put_nv_keys {erasing key0 key1 tempLatch fw0 fw1 fwFirst plat0 plat1 active partials cal savedPen savedBanks} (hL : Blk.nv ∈ L) (hp : Blk.keys ∈ L) (hg : KeysGone s → s.nv.erased = true → key0.key = none ∧ key1.key = none) (h : Kept L s₀ s) :
    Kept L s₀ ⟨s.glb, s.plt, s.hst, s.lnk, s.srd, s.svc, s.eye, s.fwd, s.swc, s.tmb, s.lnd, s.mil, s.mem, s.opt, s.res, s.sec, s.tly, s.pwr, ⟨s.nv.mem128, s.nv.devid, s.nv.fusever, s.nv.erased, erasing, key0, key1, tempLatch, fw0, fw1, fwFirst, plat0, plat1, active, partials, cal, savedPen, savedBanks⟩, s.ram, s.clk, s.fresh, s.out, s.pending⟩ :=
  h.trans ⟨fun b hb => by cases b <;> first | rfl | exact absurd hL hb | exact absurd hp hb, rfl, rfl, Nat.le_refl _, id, Nat.le_refl _, List.suffix_refl _, rfl, id, hg⟩

theorem emit_kept {e : Emission} : Kept [.out] s (emit e s) :=
  ⟨fun b hb => by cases b <;> first | rfl | exact absurd (by decide) hb, rfl, rfl, Nat.le_refl _, id, Nat.le_refl _, List.suffix_cons _ _, rfl, id, id⟩
theorem wrMem_kept {a : Nat} {bs : List Byte} : Kept [.ram] s (wrMem s a bs) :=
  ⟨fun b hb => by cases b <;> first | rfl | exact absurd (by decide) hb, rfl, rfl, Nat.le_refl _, id, Nat.le_refl _, List.suffix_refl _, rfl,
    fun e => twf_tsetL _ _ e, id⟩
theorem forEach_kept {α : Type} {l : List α} {f : α → State → State} (hf : ∀ a t, Kept L t (f a t)) : Kept L s (forEach l f s) := by
  unfold forEach
  induction l generalizing s with
  | nil => exact Kept.refl s
  | cons a r ih => exact (hf a s).trans ih
theorem foldl_kept {α β : Type} {l : List α} {f : State × β → α → State × β} {x : State × β}
    (hf : ∀ y a, Kept L y.1 (f y a).1) : Kept L x.1 (l.foldl f x).1 := by
  induction l generalizing x with
  | nil => exact Kept.refl _
  | cons a r ih => exact (hf x a).trans ih

/-! ### What a meaning answers -/

def KeptOut (L : List Blk) (s : State) : Out → Prop
  | .next t => Kept L s t
  | .fault _ => True
  | .refused _ => True
def KeptOpt (L : List Blk) (s : State) : Option State → Prop
  | some t => Kept L s t
  | none => True
def KeptRes (L : List Blk) (s : State) : MRes → Prop
  | .ok t => Kept L s t
  | .jump _ t => Kept L s t
  | .again t => Kept L s t
  | .fault _ t => Kept L s t

theorem Kept.ite {c : Prop} [Decidable c] (h : Kept L s₀ s) (k : Kept L s₀ t) : Kept L s₀ (if c then s else t) := by
  split
  · exact h
  · exact k
theorem Kept.iteFst {α : Type} {x y : State × α} {c : Prop} [Decidable c] (h : Kept L s₀ x.1) (k : Kept L s₀ y.1) :
    Kept L s₀ (if c then x else y).1 := by
  split
  · exact h
  · exact k
theorem Kept.ofFst {α : Type} {a : α} {x : State × α} (e : x = (s, a)) (h : Kept L s₀ x.1) : Kept L s₀ s := by
  subst e; exact h
theorem Kept.ofSnd {α : Type} {a : α} {x : α × State} (e : x = (a, s)) (h : Kept L s₀ x.2) : Kept L s₀ s := by
  subst e; exact h
theorem KeptOpt.get {o : Option State} (e : o = some s) (k : KeptOpt W t o) (hw : W ⊆ L) (h : Kept L s₀ t) : Kept L s₀ s := by
  subst e; exact Kept.step k hw h
theorem KeptRes.ofOk {r : MRes} (e : r = .ok s) (k : KeptRes W t r) (hw : W ⊆ L) (h : Kept L s₀ t) : Kept L s₀ s := by
  subst e; exact Kept.step k hw h
theorem KeptRes.step {r : MRes} (k : KeptRes W t r) (hw : W ⊆ L) (h : Kept L s t) : KeptRes L s r := by
  cases r <;> exact Kept.step k hw h
theorem KeptOut.mono {o : Out} (k : KeptOut W s o) (hw : W ⊆ L) : KeptOut L s o := by
  cases o with
  | next => exact Kept.mono k hw
  | fault => exact trivial
  | refused => exact trivial
theorem Kept.next (h : Kept L s₀ s) : KeptOut L s₀ (.next s) := h
theorem Kept.some (h : Kept L s₀ s) : KeptOpt L s₀ (some s) := h
theorem Kept.none : KeptOpt L s₀ none := trivial
theorem Kept.ok (h : Kept L s₀ s) : KeptRes L s₀ (.ok s) := h
theorem Kept.jump {n : Nat} (h : Kept L s₀ s) : KeptRes L s₀ (.jump n s) := h
theorem Kept.again (h : Kept L s₀ s) : KeptRes L s₀ (.again s) := h
theorem Kept.fault {n : Nat} (h : Kept L s₀ s) : KeptRes L s₀ (.fault n s) := h

end Sys2Proof.Machine
end

