-- ==== Sys2Proof/Laws/KeptShared.lean ====
section
/-! SUPPORT. What each operation and meaning of the files Machine/Ops, Flags, Operands, Geom, LineCode, Threads, LinkPrim, Health, FenceOps, SwcOps, Journal, SvcOps changes, and what it never undoes. -/
set_option linter.unusedTactic false
set_option linter.unreachableTactic false
namespace Sys2Proof.Machine
open Sys2Proof

theorem State.setBind_kept {s : State} {b : Nat} {v : Option Binding} : Kept [.mil] s (State.setBind s b v) := by
  unfold State.setBind
  try dsimp only
  repeat' first
    | with_reducible exact Kept.refl _
    | with_reducible exact Kept.idRefl
    | (fail_if_no_progress ((with_reducible apply Kept.put_mil); decide))

theorem State.setLink_kept {s : State} {p : Nat} {l : Link} : Kept [.lnk] s (State.setLink s p l) := by
  unfold State.setLink
  try dsimp only
  repeat' first
    | with_reducible exact Kept.refl _
    | with_reducible exact Kept.idRefl
    | (fail_if_no_progress ((with_reducible apply Kept.put_lnk); decide))

theorem State.setLane_kept {s : State} {n : Nat} {l : Lane} : Kept [.srd] s (State.setLane s n l) := by
  unfold State.setLane
  try dsimp only
  repeat' first
    | with_reducible exact Kept.refl _
    | with_reducible exact Kept.idRefl
    | (fail_if_no_progress ((with_reducible apply Kept.put_srd); decide))

theorem State.modCore_kept {s : State} {c : Nat} {f : Core → Core} : Kept [.mil] s (State.modCore s c f) := by
  unfold State.modCore
  try dsimp only
  repeat' first
    | with_reducible exact Kept.refl _
    | with_reducible exact Kept.idRefl
    | (fail_if_no_progress ((with_reducible apply Kept.put_mil); decide))

theorem State.modPath_kept {s : State} {n : Nat} {f : OPath → OPath} : Kept [.opt] s (State.modPath s n f) := by
  unfold State.modPath
  try dsimp only
  repeat' first
    | with_reducible exact Kept.refl _
    | with_reducible exact Kept.idRefl
    | (fail_if_no_progress ((with_reducible apply Kept.put_opt); decide))

theorem State.modEngine_kept {s : State} {n : Nat} {f : Engine → Engine} : Kept [.opt] s (State.modEngine s n f) := by
  unfold State.modEngine
  try dsimp only
  repeat' first
    | with_reducible exact Kept.refl _
    | with_reducible exact Kept.idRefl
    | (fail_if_no_progress ((with_reducible apply Kept.put_opt); decide))

theorem countN_kept {ev : Nat} {n : Nat} {s : State} : Kept [.tly] s (countN ev n s) := by
  unfold countN
  try dsimp only
  repeat' first
    | with_reducible exact Kept.refl _
    | with_reducible exact Kept.idRefl
    | (fail_if_no_progress ((with_reducible apply Kept.put_tly); decide))

theorem count_kept {ev : Nat} {s : State} : Kept [.tly] s (count ev s) := by
  unfold count
  try dsimp only
  repeat' first
    | with_reducible exact Kept.refl _
    | with_reducible exact Kept.idRefl
    | with_reducible apply Kept.step countN_kept
    | (fail_if_no_progress ((with_reducible apply Kept.put_tly); decide))
    | decide

theorem State.setHost_kept {s : State} {p : HPort} {h : HostPort} : Kept [.hst] s (State.setHost s p h) := by
  unfold State.setHost
  try dsimp only
  repeat' first
    | with_reducible exact Kept.refl _
    | with_reducible exact Kept.idRefl
    | (fail_if_no_progress ((with_reducible apply Kept.put_hst); decide; with_reducible exact rfl))
    | decide
    | (intro _; intros; try dsimp only)
    | dsimp only
    | split

theorem State.modHost_kept {s : State} {p : HPort} {f : HostPort → HostPort} : Kept [.hst] s (State.modHost s p f) := by
  unfold State.modHost
  try dsimp only
  repeat' first
    | with_reducible exact Kept.refl _
    | with_reducible exact Kept.idRefl
    | with_reducible apply Kept.step State.setHost_kept
    | decide

theorem denyWrite_kept {p : HPort} {s : State} : Kept [.hst, .tly] s (denyWrite p s) := by
  unfold denyWrite
  try dsimp only
  repeat' first
    | with_reducible exact Kept.refl _
    | with_reducible exact Kept.idRefl
    | with_reducible apply Kept.step count_kept
    | with_reducible apply Kept.step State.modHost_kept
    | decide

theorem State.modLink_kept {s : State} {p : Nat} {f : Link → Link} : Kept [.lnk] s (State.modLink s p f) := by
  unfold State.modLink
  try dsimp only
  repeat' first
    | with_reducible exact Kept.refl _
    | with_reducible exact Kept.idRefl
    | with_reducible apply Kept.step State.setLink_kept
    | decide

theorem hostWrite_kept {p : HPort} {glb : Bool} {f : State → State} {s : State} {L : List Blk} (hL : [.hst, .tly] ⊆ L) (hf : ∀ t, Kept L t (f t)) : Kept L s (hostWrite p glb f s) := by
  unfold hostWrite
  try dsimp only
  repeat' first
    | with_reducible exact Kept.refl _
    | with_reducible exact Kept.idRefl
    | with_reducible apply fun h => Kept.trans h (hf _)
    | with_reducible apply Kept.step denyWrite_kept
    | with_reducible apply Kept.ite
    | exact List.Subset.trans (by decide) hL

theorem sendVector_kept {p : HPort} {v : Nat} {s : State} : Kept [.hst, .out] s (sendVector p v s) := by
  unfold sendVector
  try dsimp only
  repeat' first
    | with_reducible exact Kept.refl _
    | with_reducible exact Kept.idRefl
    | with_reducible apply Kept.step State.setHost_kept
    | with_reducible apply Kept.step emit_kept
    | with_reducible apply Kept.ite
    | decide

theorem fireOn_kept {src : Nat} {p : HPort} {s : State} : Kept [.hst, .out] s (fireOn src p s) := by
  unfold fireOn
  try dsimp only
  repeat' first
    | with_reducible exact Kept.refl _
    | with_reducible exact Kept.idRefl
    | with_reducible apply Kept.step State.setHost_kept
    | with_reducible apply Kept.step sendVector_kept
    | with_reducible apply Kept.ite
    | decide

theorem fire_kept {src : Nat} {s : State} : Kept [.hst, .out] s (fire src s) := by
  unfold fire
  try dsimp only
  repeat' first
    | with_reducible exact Kept.refl _
    | with_reducible exact Kept.idRefl
    | with_reducible apply Kept.step fireOn_kept
    | decide

theorem setReqErr_kept {s : State} : Kept [.glb, .hst, .out] s (setReqErr s) := by
  unfold setReqErr
  try dsimp only
  repeat' first
    | with_reducible exact Kept.refl _
    | with_reducible exact Kept.idRefl
    | with_reducible apply Kept.step fire_kept
    | with_reducible apply Kept.ite
    | (fail_if_no_progress ((with_reducible apply Kept.put_glb); decide))
    | decide

theorem countXN_kept {fam : Nat} {inst : Nat} {n : Nat} {s : State} : Kept [.tly] s (countXN fam inst n s) := by
  unfold countXN
  try dsimp only
  repeat' first
    | with_reducible exact Kept.refl _
    | with_reducible exact Kept.idRefl
    | (fail_if_no_progress ((with_reducible apply Kept.put_tly); decide))

theorem State.setQueue_kept {s : State} {q : Nat} {v : Queue} : Kept [.swc] s (State.setQueue s q v) := by
  unfold State.setQueue
  try dsimp only
  repeat' first
    | with_reducible exact Kept.refl _
    | with_reducible exact Kept.idRefl
    | (fail_if_no_progress ((with_reducible apply Kept.put_swc); decide))

theorem State.modQueue_kept {s : State} {q : Nat} {f : Queue → Queue} : Kept [.swc] s (State.modQueue s q f) := by
  unfold State.modQueue
  try dsimp only
  repeat' first
    | with_reducible exact Kept.refl _
    | with_reducible exact Kept.idRefl
    | with_reducible apply Kept.step State.setQueue_kept
    | decide

theorem State.modSvc_kept {s : State} {n : Nat} {f : Svc → Svc} : Kept [.svc] s (State.modSvc s n f) := by
  unfold State.modSvc
  try dsimp only
  repeat' first
    | with_reducible exact Kept.refl _
    | with_reducible exact Kept.idRefl
    | (fail_if_no_progress ((with_reducible apply Kept.put_svc); decide))

theorem sendChars_kept {lane : Nat} {l : List Char10} {s : State} : Kept [.svc, .out] s (sendChars lane l s) := by
  unfold sendChars
  try dsimp only
  repeat' first
    | with_reducible exact Kept.refl _
    | with_reducible exact Kept.idRefl
    | with_reducible apply Kept.step emit_kept
    | with_reducible apply Kept.step State.modSvc_kept
    | decide

theorem takeFree_kept {s : State} : Kept [.fresh] s (takeFree s).2 := by
  unfold takeFree
  try dsimp only
  repeat' first
    | with_reducible exact Kept.refl _
    | with_reducible exact Kept.idRefl
    | (fail_if_no_progress ((with_reducible apply Kept.put_fresh); decide))

theorem takeFreeBytes_kept {a0 : Nat} {a1 : State} : Kept [.fresh] a1 (takeFreeBytes a0 a1).2 := by
  induction a0 generalizing a1 with
  | zero =>
    unfold takeFreeBytes
    try dsimp only
    repeat' first
      | with_reducible exact Kept.refl _
  | succ n ih =>
    unfold takeFreeBytes
    try dsimp only
    repeat' first
      | with_reducible exact Kept.refl _
      | with_reducible exact Kept.idRefl
      | with_reducible apply fun h => Kept.trans h ih
      | with_reducible apply Kept.step takeFree_kept
      | decide

theorem State.modSched_kept {s : State} {p : Nat} {f : Sched → Sched} : Kept [.swc] s (State.modSched s p f) := by
  unfold State.modSched
  try dsimp only
  repeat' first
    | with_reducible exact Kept.refl _
    | with_reducible exact Kept.idRefl
    | (fail_if_no_progress ((with_reducible apply Kept.put_swc); decide))

theorem sendK281_kept {lane : Nat} {instant : Nat} {s : State} : Kept [.svc, .out] s (sendK281 lane instant s) := by
  unfold sendK281
  try dsimp only
  repeat' first
    | with_reducible exact Kept.refl _
    | with_reducible exact Kept.idRefl
    | with_reducible apply Kept.step emit_kept
    | with_reducible apply Kept.step State.modSvc_kept
    | decide

theorem countX_kept {fam : Nat} {inst : Nat} {s : State} : Kept [.tly] s (countX fam inst s) := by
  unfold countX
  try dsimp only
  repeat' first
    | with_reducible exact Kept.refl _
    | with_reducible exact Kept.idRefl
    | with_reducible apply Kept.step countXN_kept
    | (fail_if_no_progress ((with_reducible apply Kept.put_tly); decide))
    | decide

theorem setDev_kept {d : DevState} {s : State} : Kept [.glb, .hst, .out] s (setDev d s) := by
  unfold setDev
  try dsimp only
  repeat' first
    | with_reducible exact Kept.refl _
    | with_reducible exact Kept.idRefl
    | with_reducible apply Kept.step fire_kept
    | with_reducible apply Kept.ite
    | (fail_if_no_progress ((with_reducible apply Kept.put_glb); decide))
    | decide

theorem State.modBind_kept {s : State} {b : Nat} {f : Binding → Binding} : Kept [.mil] s (State.modBind s b f) := by
  unfold State.modBind
  try dsimp only
  repeat' first
    | with_reducible exact Kept.refl _
    | with_reducible exact Kept.idRefl
    | with_reducible apply Kept.step State.setBind_kept
    | decide

theorem sendMsg_kept {lane : Nat} {type : Byte} {seq : Byte} {payload : List Byte} {marked : Bool} {s : State} : Kept [.svc, .out] s (sendMsg lane type seq payload marked s) := by
  unfold sendMsg
  try dsimp only
  repeat' first
    | with_reducible exact Kept.refl _
    | with_reducible exact Kept.idRefl
    | with_reducible apply Kept.step sendChars_kept
    | decide

theorem sendSvc_kept {lane : Nat} {type : Nat} {payload : List Byte} {marked : Bool} {s : State} : Kept [.svc, .out] s (sendSvc lane type payload marked s) := by
  unfold sendSvc
  try dsimp only
  repeat' first
    | with_reducible exact Kept.refl _
    | with_reducible exact Kept.idRefl
    | with_reducible apply Kept.step sendMsg_kept
    | with_reducible apply Kept.step State.modSvc_kept
    | decide

theorem State.modEye_kept {s : State} {n : Nat} {f : Eye → Eye} : Kept [.eye] s (State.modEye s n f) := by
  unfold State.modEye
  try dsimp only
  repeat' first
    | with_reducible exact Kept.refl _
    | with_reducible exact Kept.idRefl
    | (fail_if_no_progress ((with_reducible apply Kept.put_eye); decide))

theorem State.setCtx_kept {s : State} {c : Nat} {v : Option Ctx} : Kept [.lnd] s (State.setCtx s c v) := by
  unfold State.setCtx
  try dsimp only
  repeat' first
    | with_reducible exact Kept.refl _
    | with_reducible exact Kept.idRefl
    | (fail_if_no_progress ((with_reducible apply Kept.put_lnd); decide))

theorem State.modCtx_kept {s : State} {c : Nat} {f : Ctx → Ctx} : Kept [.lnd] s (State.modCtx s c f) := by
  unfold State.modCtx
  try dsimp only
  repeat' first
    | with_reducible exact Kept.refl _
    | with_reducible exact Kept.idRefl
    | with_reducible apply Kept.step State.setCtx_kept
    | decide

theorem countDiscard_kept {dcode : Nat} {ingress : Nat} {s : State} : Kept [.tly] s (countDiscard dcode ingress s) := by
  unfold countDiscard
  try dsimp only
  repeat' first
    | with_reducible exact Kept.refl _
    | with_reducible exact Kept.idRefl
    | with_reducible apply Kept.step count_kept
    | decide

theorem portWrite_kept {p : HPort} {f : State → State} {s : State} {L : List Blk} (hL : [] ⊆ L) (hf : ∀ t, Kept L t (f t)) : Kept L s (portWrite p f s) := by
  unfold portWrite
  try dsimp only
  repeat' first
    | with_reducible exact Kept.refl _
    | with_reducible exact Kept.idRefl
    | with_reducible apply fun h => Kept.trans h (hf _)
    | with_reducible apply Kept.ite

theorem State.setDist_kept {s : State} {d : Nat} {v : DistState} : Kept [.plt] s (State.setDist s d v) := by
  unfold State.setDist
  try dsimp only
  repeat' first
    | with_reducible exact Kept.refl _
    | with_reducible exact Kept.idRefl
    | (fail_if_no_progress ((with_reducible apply Kept.put_plt); decide; with_reducible exact rfl))

theorem State.modLane_kept {s : State} {n : Nat} {f : Lane → Lane} : Kept [.srd] s (State.modLane s n f) := by
  unfold State.modLane
  try dsimp only
  repeat' first
    | with_reducible exact Kept.refl _
    | with_reducible exact Kept.idRefl
    | with_reducible apply Kept.step State.setLane_kept
    | decide

theorem State.modFly_kept {s : State} {n : Nat} {f : Fly → Fly} : Kept [.opt] s (State.modFly s n f) := by
  unfold State.modFly
  try dsimp only
  repeat' first
    | with_reducible exact Kept.refl _
    | with_reducible exact Kept.idRefl
    | (fail_if_no_progress ((with_reducible apply Kept.put_opt); decide))

theorem raiseLnd_kept {i : Nat} {s : State} : Kept [.lnd] s (raiseLnd i s) := by
  unfold raiseLnd
  try dsimp only
  repeat' first
    | with_reducible exact Kept.refl _
    | with_reducible exact Kept.idRefl
    | (fail_if_no_progress ((with_reducible apply Kept.put_lnd); decide))

theorem raiseTmb_kept {i : Nat} {s : State} : Kept [.hst, .tmb, .out] s (raiseTmb i s) := by
  unfold raiseTmb
  try dsimp only
  repeat' first
    | with_reducible exact Kept.refl _
    | with_reducible exact Kept.idRefl
    | with_reducible apply Kept.step fire_kept
    | with_reducible apply Kept.ite
    | (fail_if_no_progress ((with_reducible apply Kept.put_tmb); decide; with_reducible exact rfl))
    | decide

theorem raiseMem_kept {i : Nat} {s : State} : Kept [.hst, .mem, .out] s (raiseMem i s) := by
  unfold raiseMem
  try dsimp only
  repeat' first
    | with_reducible exact Kept.refl _
    | with_reducible exact Kept.idRefl
    | with_reducible apply Kept.step fire_kept
    | with_reducible apply Kept.ite
    | (fail_if_no_progress ((with_reducible apply Kept.put_mem); decide))
    | decide

theorem setLnkErr_kept {p : Nat} {i : Nat} {s : State} : Kept [.lnk] s (setLnkErr p i s) := by
  unfold setLnkErr
  try dsimp only
  repeat' first
    | with_reducible exact Kept.refl _
    | with_reducible exact Kept.idRefl
    | with_reducible apply Kept.step State.modLink_kept
    | decide

theorem raiseFwd_kept {i : Nat} {s : State} : Kept [.hst, .fwd, .out] s (raiseFwd i s) := by
  unfold raiseFwd
  try dsimp only
  repeat' first
    | with_reducible exact Kept.refl _
    | with_reducible exact Kept.idRefl
    | with_reducible apply Kept.step fire_kept
    | with_reducible apply Kept.ite
    | (fail_if_no_progress ((with_reducible apply Kept.put_fwd); decide; with_reducible exact rfl))
    | decide

theorem raiseMil_kept {i : Nat} {s : State} : Kept [.hst, .mil, .out] s (raiseMil i s) := by
  unfold raiseMil
  try dsimp only
  repeat' first
    | with_reducible exact Kept.refl _
    | with_reducible exact Kept.idRefl
    | with_reducible apply Kept.step fire_kept
    | with_reducible apply Kept.ite
    | (fail_if_no_progress ((with_reducible apply Kept.put_mil); decide))
    | decide

theorem raiseCruise_kept {i : Nat} {s : State} : Kept [.hst, .res, .out] s (raiseCruise i s) := by
  unfold raiseCruise
  try dsimp only
  repeat' first
    | with_reducible exact Kept.refl _
    | with_reducible exact Kept.idRefl
    | with_reducible apply Kept.step fire_kept
    | with_reducible apply Kept.ite
    | (fail_if_no_progress ((with_reducible apply Kept.put_res); decide; with_reducible exact rfl))
    | decide

theorem raiseOpt_kept {i : Nat} {s : State} : Kept [.hst, .opt, .out] s (raiseOpt i s) := by
  unfold raiseOpt
  try dsimp only
  repeat' first
    | with_reducible exact Kept.refl _
    | with_reducible exact Kept.idRefl
    | with_reducible apply Kept.step fire_kept
    | with_reducible apply Kept.ite
    | (fail_if_no_progress ((with_reducible apply Kept.put_opt); decide))
    | decide

theorem raisePwr_kept {i : Nat} {s : State} : Kept [.pwr] s (raisePwr i s) := by
  unfold raisePwr
  try dsimp only
  repeat' first
    | with_reducible exact Kept.refl _
    | with_reducible exact Kept.idRefl
    | (fail_if_no_progress ((with_reducible apply Kept.put_pwr); decide))

theorem raiseSwc_kept {i : Nat} {s : State} : Kept [.hst, .swc, .out] s (raiseSwc i s) := by
  unfold raiseSwc
  try dsimp only
  repeat' first
    | with_reducible exact Kept.refl _
    | with_reducible exact Kept.idRefl
    | with_reducible apply Kept.step fire_kept
    | with_reducible apply Kept.ite
    | (fail_if_no_progress ((with_reducible apply Kept.put_swc); decide))
    | decide

theorem sendBlocks_kept {k : Nat} {blocks : List Block} {s : State} : Kept [.srd, .out] s (sendBlocks k blocks s) := by
  unfold sendBlocks
  try dsimp only
  repeat' first
    | with_reducible exact Kept.refl _
    | with_reducible exact Kept.idRefl
    | with_reducible apply Kept.step emit_kept
    | with_reducible apply Kept.step State.modLane_kept
    | decide

theorem sendFrame_kept {p : Nat} {i : Nat} {ftype : Nat} {fseq : Nat} {pktoff : Nat} {body : List Byte} {s : State} : Kept [.lnk, .srd, .out] s (sendFrame p i ftype fseq pktoff body s) := by
  unfold sendFrame
  try dsimp only
  repeat' first
    | with_reducible exact Kept.refl _
    | with_reducible exact Kept.idRefl
    | with_reducible apply Kept.step sendBlocks_kept
    | with_reducible apply Kept.step State.setLink_kept
    | decide

theorem sendLaneCtlFrames_kept {p : Nat} {action : Nat} {idx : Nat} {except : Nat} {s : State} : Kept [.lnk, .srd, .out] s (sendLaneCtlFrames p action idx except s) := by
  unfold sendLaneCtlFrames
  try dsimp only
  repeat' first
    | with_reducible exact Kept.refl _
    | with_reducible exact Kept.idRefl
    | with_reducible apply fun hf h => Kept.trans h (forEach_kept hf)
    | with_reducible apply Kept.step sendFrame_kept
    | decide
    | (intro _; intros; try dsimp only)

theorem rxLaneOff_kept {p : Nat} {i : Nat} {s : State} : Kept [.lnk, .srd, .out] s (rxLaneOff p i s) := by
  unfold rxLaneOff
  try dsimp only
  repeat' first
    | with_reducible exact Kept.refl _
    | with_reducible exact Kept.idRefl
    | with_reducible apply Kept.step State.modLink_kept
    | with_reducible apply Kept.step sendLaneCtlFrames_kept
    | with_reducible apply Kept.step State.modLane_kept
    | with_reducible apply Kept.ite
    | decide

theorem rxLaneOn_kept {p : Nat} {i : Nat} {s : State} : Kept [.lnk, .srd, .out] s (rxLaneOn p i s) := by
  unfold rxLaneOn
  try dsimp only
  repeat' first
    | with_reducible exact Kept.refl _
    | with_reducible exact Kept.idRefl
    | with_reducible apply Kept.step State.modLink_kept
    | with_reducible apply Kept.step sendLaneCtlFrames_kept
    | decide

theorem settleUp_kept {p : Nat} {s : State} : Kept [.hst, .lnk, .out] s (settleUp p s) := by
  unfold settleUp
  try dsimp only
  repeat' first
    | with_reducible exact Kept.refl _
    | with_reducible exact Kept.idRefl
    | with_reducible apply Kept.step fire_kept
    | with_reducible apply Kept.step State.setLink_kept
    | with_reducible apply Kept.ite
    | decide

theorem sendEq_kept {k : Nat} {s : State} : Kept [.srd, .out] s (sendEq k s) := by
  unfold sendEq
  try dsimp only
  repeat' first
    | with_reducible exact Kept.refl _
    | with_reducible exact Kept.idRefl
    | with_reducible apply Kept.step sendBlocks_kept
    | decide

theorem txIdle_kept {lane : Nat} {s : State} : Kept [.srd, .out] s (txIdle lane s) := by
  unfold txIdle
  try dsimp only
  repeat' first
    | with_reducible exact Kept.refl _
    | with_reducible exact Kept.idRefl
    | with_reducible apply Kept.step State.modLane_kept
    | with_reducible apply Kept.step sendBlocks_kept
    | with_reducible apply Kept.ite
    | decide

theorem drainLane_kept {l : Nat} {s : State} : Kept [.lnk, .srd, .out] s (drainLane l s) := by
  unfold drainLane
  try dsimp only
  repeat' first
    | with_reducible exact Kept.refl _
    | with_reducible exact Kept.idRefl
    | with_reducible apply Kept.step rxLaneOff_kept
    | with_reducible apply Kept.step txIdle_kept
    | with_reducible apply Kept.step State.modLink_kept
    | with_reducible apply Kept.ite
    | decide
    | (intro _; intros; try dsimp only)
    | dsimp only
    | split

theorem drainNow_kept {kind : Nat} {idx : Nat} {s : State} : Kept [.lnk, .srd, .swc, .lnd, .mil, .out] s (drainNow kind idx s) := by
  unfold drainNow
  try dsimp only
  repeat' first
    | with_reducible exact Kept.refl _
    | with_reducible exact Kept.idRefl
    | with_reducible apply Kept.step drainLane_kept
    | (fail_if_no_progress ((with_reducible apply Kept.put_swc); decide))
    | (fail_if_no_progress ((with_reducible apply Kept.put_lnd); decide))
    | (fail_if_no_progress ((with_reducible apply Kept.put_mil); decide))
    | (fail_if_no_progress ((with_reducible apply Kept.put); (intro b hb; cases b <;> first | exact rfl | exact absurd (by decide) hb)))
    | decide
    | (intro _; intros; try dsimp only)
    | dsimp only
    | split

theorem State.modPart_kept {s : State} {kind : Nat} {idx : Nat} {f : Part → Part} : Kept [.res] s (State.modPart s kind idx f) := by
  unfold State.modPart
  try dsimp only
  repeat' first
    | with_reducible exact Kept.refl _
    | with_reducible exact Kept.idRefl
    | (fail_if_no_progress ((with_reducible apply Kept.put_res); decide; with_reducible exact rfl))

theorem drainPart_kept {kind : Nat} {idx : Nat} {s : State} : Kept [.hst, .lnk, .srd, .swc, .lnd, .mil, .res, .out] s (drainPart kind idx s) := by
  unfold drainPart
  try dsimp only
  repeat' first
    | with_reducible exact Kept.refl _
    | with_reducible exact Kept.idRefl
    | with_reducible apply Kept.step raiseCruise_kept
    | with_reducible apply Kept.step drainNow_kept
    | with_reducible apply Kept.step State.modPart_kept
    | with_reducible apply Kept.ite
    | decide

theorem saveScores_kept {s : State} : Kept [.nv] s (saveScores s) := by
  unfold saveScores
  try dsimp only
  repeat' first
    | with_reducible exact Kept.refl _
    | with_reducible exact Kept.idRefl
    | with_reducible apply Kept.ite
    | (fail_if_no_progress ((with_reducible apply Kept.put_nv); decide; with_reducible exact rfl))

theorem crossed_kept {kind : Nat} {idx : Nat} {before : Nat} {after : Nat} {s : State} : Kept [.hst, .lnk, .srd, .swc, .lnd, .mil, .res, .nv, .out] s (crossed kind idx before after s) := by
  unfold crossed
  try dsimp only
  repeat' first
    | with_reducible exact Kept.refl _
    | with_reducible exact Kept.idRefl
    | with_reducible apply Kept.step raiseCruise_kept
    | with_reducible apply Kept.step State.modPart_kept
    | with_reducible apply Kept.step saveScores_kept
    | with_reducible apply Kept.step drainPart_kept
    | with_reducible apply Kept.ite
    | (fail_if_no_progress ((with_reducible apply Kept.put_res); decide; with_reducible exact rfl))
    | decide

theorem zeroScore_kept {kind : Nat} {idx : Nat} {s : State} : Kept [.hst, .lnk, .srd, .swc, .lnd, .mil, .res, .nv, .out] s (zeroScore kind idx s) := by
  unfold zeroScore
  try dsimp only
  repeat' first
    | with_reducible exact Kept.refl _
    | with_reducible exact Kept.idRefl
    | with_reducible apply Kept.step crossed_kept
    | with_reducible apply Kept.step State.modPart_kept
    | decide

theorem addPenalty_kept {kind : Nat} {idx : Nat} {w : Nat} {s : State} : Kept [.hst, .lnk, .srd, .swc, .lnd, .mil, .res, .nv, .out] s (addPenalty kind idx w s) := by
  unfold addPenalty
  try dsimp only
  repeat' first
    | with_reducible exact Kept.refl _
    | with_reducible exact Kept.idRefl
    | with_reducible apply Kept.step crossed_kept
    | with_reducible apply Kept.step State.modPart_kept
    | decide

theorem modFences_kept {f : Fence → Fence} {s : State} : Kept [.lnd] s (modFences f s) := by
  unfold modFences
  try dsimp only
  repeat' first
    | with_reducible exact Kept.refl _
    | with_reducible exact Kept.idRefl
    | (fail_if_no_progress ((with_reducible apply Kept.put_lnd); decide))

theorem preEnter_kept {p : Pkt} {s : State} : Kept [.lnd] s (preEnter p s) := by
  unfold preEnter
  try dsimp only
  repeat' first
    | with_reducible exact Kept.refl _
    | with_reducible exact Kept.idRefl
    | with_reducible apply Kept.step modFences_kept
    | with_reducible apply Kept.ite
    | decide

theorem lndRecord_kept {words : List Nat} {msi : Bool} {s : State} : Kept [.hst, .lnd, .tly, .ram, .out] s (lndRecord words msi s) := by
  unfold lndRecord
  try dsimp only
  repeat' first
    | with_reducible exact Kept.refl _
    | with_reducible exact Kept.idRefl
    | with_reducible apply Kept.step raiseLnd_kept
    | with_reducible apply Kept.step count_kept
    | with_reducible apply Kept.step wrMem_kept
    | with_reducible apply Kept.step fire_kept
    | with_reducible apply Kept.ite
    | (fail_if_no_progress ((with_reducible apply Kept.put_lnd); decide))
    | decide

theorem fenceRecord_kept {event : Nat} {f : Fence} {s : State} : Kept [.hst, .lnd, .tly, .ram, .out] s (fenceRecord event f s) := by
  unfold fenceRecord
  try dsimp only
  repeat' first
    | with_reducible exact Kept.refl _
    | with_reducible exact Kept.idRefl
    | with_reducible apply Kept.step lndRecord_kept
    | decide

theorem settleFences_kept {s : State} : Kept [.hst, .lnd, .tly, .ram, .out] s (settleFences s) := by
  unfold settleFences
  try dsimp only
  repeat' first
    | with_reducible exact Kept.refl _
    | with_reducible exact Kept.idRefl
    | with_reducible apply fun hf h => Kept.trans h (forEach_kept hf)
    | with_reducible apply Kept.step fenceRecord_kept
    | (fail_if_no_progress ((with_reducible apply Kept.put_lnd); decide))
    | decide
    | (intro _; intros; try dsimp only)

theorem preLeave_kept {p : Pkt} {s : State} : Kept [.hst, .lnd, .tly, .ram, .out] s (preLeave p s) := by
  unfold preLeave
  try dsimp only
  repeat' first
    | with_reducible exact Kept.refl _
    | with_reducible exact Kept.idRefl
    | with_reducible apply Kept.step settleFences_kept
    | with_reducible apply Kept.step modFences_kept
    | with_reducible apply Kept.ite
    | decide

theorem fenceMark_kept {job : BitVec 20} {tag : BitVec 12} {s : State} : Kept [.hst, .lnd, .tly, .ram, .out] s (fenceMark job tag s) := by
  unfold fenceMark
  try dsimp only
  repeat' first
    | with_reducible exact Kept.refl _
    | with_reducible exact Kept.idRefl
    | with_reducible apply Kept.step count_kept
    | with_reducible apply Kept.step settleFences_kept
    | with_reducible apply Kept.step modFences_kept
    | with_reducible apply Kept.ite
    | decide
    | (intro _; intros; try dsimp only)
    | dsimp only
    | split

theorem consumeMarker_kept {ids : List Nat} {s : State} : Kept [.hst, .lnd, .tly, .ram, .out] s (consumeMarker ids s) := by
  unfold consumeMarker
  try dsimp only
  repeat' first
    | with_reducible exact Kept.refl _
    | with_reducible exact Kept.idRefl
    | with_reducible apply Kept.step settleFences_kept
    | with_reducible apply Kept.step modFences_kept
    | with_reducible apply Kept.ite
    | decide

theorem engineSlots_kept {g : Nat} {tok : Nat} {wanted : Bool} {e : Nat} {s : State} : Kept [.tly] s (engineSlots g tok wanted e s) := by
  unfold engineSlots
  try dsimp only
  repeat' first
    | with_reducible exact Kept.refl _
    | with_reducible exact Kept.idRefl
    | with_reducible apply Kept.step countN_kept
    | with_reducible apply Kept.ite
    | (fail_if_no_progress ((with_reducible apply Kept.put_tly); decide))
    | decide

theorem coreSlots_kept {dt : Nat} {g : Nat} {s : State} : Kept [.tly] s (coreSlots dt g s) := by
  unfold coreSlots
  try dsimp only
  repeat' first
    | with_reducible exact Kept.refl _
    | with_reducible exact Kept.idRefl
    | with_reducible apply fun hf h => Kept.trans h (forEach_kept hf)
    | with_reducible apply Kept.step engineSlots_kept
    | with_reducible apply Kept.ite
    | decide
    | (intro _; intros; try dsimp only)

theorem opSlots_kept {g : Nat} {e : Nat} {tok : Nat} {wasted : Bool} {s : State} : Kept [.tly] s (opSlots g e tok wasted s) := by
  unfold opSlots
  try dsimp only
  repeat' first
    | with_reducible exact Kept.refl _
    | with_reducible exact Kept.idRefl
    | with_reducible apply Kept.step countN_kept
    | with_reducible apply Kept.ite
    | (fail_if_no_progress ((with_reducible apply Kept.put_tly); decide))
    | decide

theorem topDown_kept {dt : Nat} {s : State} : Kept [.tly] s (topDown dt s) := by
  unfold topDown
  try dsimp only
  repeat' first
    | with_reducible exact Kept.refl _
    | with_reducible exact Kept.idRefl
    | with_reducible apply fun hf h => Kept.trans h (forEach_kept hf)
    | with_reducible apply Kept.step coreSlots_kept
    | decide
    | (intro _; intros; try dsimp only)

theorem leaveCount_kept {p : Pkt} {s : State} : Kept [.hst, .fwd, .out] s (leaveCount p s) := by
  unfold leaveCount
  try dsimp only
  repeat' first
    | with_reducible exact Kept.refl _
    | with_reducible exact Kept.idRefl
    | with_reducible apply Kept.step raiseFwd_kept
    | with_reducible apply Kept.ite
    | (fail_if_no_progress ((with_reducible apply Kept.put_fwd); decide; with_reducible exact rfl))
    | decide

theorem consumeFront_kept {key : Nat} {s : State} : Kept [.hst, .swc, .lnd, .tly, .ram, .out] s (consumeFront key s) := by
  unfold consumeFront
  try dsimp only
  repeat' first
    | with_reducible exact Kept.refl _
    | with_reducible exact Kept.idRefl
    | with_reducible apply fun hf h => Kept.trans h (forEach_kept hf)
    | with_reducible apply Kept.step consumeMarker_kept
    | with_reducible apply Kept.step State.setQueue_kept
    | with_reducible apply Kept.ite
    | decide
    | (intro _; intros; try dsimp only)

theorem settleQueue_kept {p : Nat} {tc : Nat} {items : List QItem} {newHead : Bool} {s : State} : Kept [.hst, .swc, .lnd, .tly, .ram, .out] s (settleQueue p tc items newHead s) := by
  unfold settleQueue
  try dsimp only
  repeat' first
    | with_reducible exact Kept.refl _
    | with_reducible exact Kept.idRefl
    | with_reducible apply Kept.step consumeFront_kept
    | with_reducible apply Kept.step State.modQueue_kept
    | with_reducible apply Kept.ite
    | decide
    | (intro _; intros; try dsimp only)
    | dsimp only
    | split

theorem returnCredit_kept {p : Pkt} {s : State} : Kept [.lnk] s (returnCredit p s) := by
  unfold returnCredit
  try dsimp only
  repeat' first
    | with_reducible exact Kept.refl _
    | with_reducible exact Kept.idRefl
    | with_reducible apply Kept.step State.modLink_kept
    | with_reducible apply Kept.ite
    | decide

theorem modComb_kept {id : Nat} {f : CombEnt → CombEnt} {s : State} : Kept [.mem] s (modComb id f s) := by
  unfold modComb
  try dsimp only
  repeat' first
    | with_reducible exact Kept.refl _
    | with_reducible exact Kept.idRefl
    | with_reducible apply Kept.ite
    | (fail_if_no_progress ((with_reducible apply Kept.put_mem); decide))

theorem writeCapture_kept {rule : Nat} {fate : Fate} {dcode : Nat} {p : Pkt} {out : Option Nat} {depth : Nat} {s : State} : Kept [.hst, .swc, .tly, .ram, .out] s (writeCapture rule fate dcode p out depth s) := by
  unfold writeCapture
  try dsimp only
  repeat' first
    | with_reducible exact Kept.refl _
    | with_reducible exact Kept.idRefl
    | with_reducible apply Kept.step wrMem_kept
    | with_reducible apply Kept.step raiseSwc_kept
    | with_reducible apply Kept.step count_kept
    | with_reducible apply Kept.ite
    | (fail_if_no_progress ((with_reducible apply Kept.put_swc); decide))
    | decide

theorem record_kept {fate : Fate} {dcode : Nat} {p : Pkt} {out : Option Nat} {s : State} : Kept [.hst, .swc, .tly, .ram, .out] s (record fate dcode p out s).1 := by
  unfold record
  try dsimp only
  repeat' first
    | with_reducible exact Kept.refl _
    | with_reducible exact Kept.idRefl
    | with_reducible apply Kept.step writeCapture_kept
    | with_reducible apply Kept.ite
    | with_reducible apply Kept.iteFst
    | (fail_if_no_progress ((with_reducible apply Kept.put_swc); decide))
    | decide
    | (intro _; intros; try dsimp only)
    | dsimp only
    | split

theorem modMap_kept {p : Nat} {f : MapCnt → MapCnt} {s : State} : Kept [.tmb] s (modMap p f s) := by
  unfold modMap
  try dsimp only
  repeat' first
    | with_reducible exact Kept.refl _
    | with_reducible exact Kept.idRefl
    | (fail_if_no_progress ((with_reducible apply Kept.put_tmb); decide; with_reducible exact rfl))

theorem pushItem_kept {p : Nat} {tc : Nat} {it : QItem} {s : State} : Kept [.swc, .tmb] s (pushItem p tc it s) := by
  unfold pushItem
  try dsimp only
  repeat' first
    | with_reducible exact Kept.refl _
    | with_reducible exact Kept.idRefl
    | with_reducible apply Kept.step modMap_kept
    | with_reducible apply Kept.step State.setQueue_kept
    | with_reducible apply Kept.ite
    | decide

theorem mirrorCopy_kept {rule : Nat} {p : Pkt} {s : State} : Kept [.hst, .swc, .tmb, .tly, .ram, .out] s (mirrorCopy rule p s) := by
  unfold mirrorCopy
  try dsimp only
  repeat' first
    | with_reducible exact Kept.refl _
    | with_reducible exact Kept.idRefl
    | with_reducible apply Kept.step countN_kept
    | with_reducible apply Kept.step count_kept
    | with_reducible apply Kept.step pushItem_kept
    | with_reducible apply Kept.step record_kept
    | with_reducible apply Kept.step countDiscard_kept
    | with_reducible apply Kept.ite
    | with_reducible apply Kept.iteFst
    | decide

theorem capture_kept {fate : Fate} {dcode : Nat} {p : Pkt} {out : Option Nat} {s : State} : Kept [.hst, .swc, .tmb, .tly, .ram, .out] s (capture fate dcode p out s) := by
  unfold capture
  try dsimp only
  repeat' first
    | with_reducible exact Kept.refl _
    | with_reducible exact Kept.idRefl
    | with_reducible apply Kept.step record_kept
    | with_reducible apply Kept.step mirrorCopy_kept
    | with_reducible apply Kept.ite
    | with_reducible apply Kept.iteFst
    | decide
    | (with_reducible apply Kept.ofFst; with_reducible assumption)
    | (intro _; intros; try dsimp only)
    | dsimp only
    | split

theorem discardQ_kept {dcode : Nat} {p : Pkt} {port : Nat} {s : State} : Kept [.hst, .fwd, .swc, .tmb, .tly, .ram, .out] s (discardQ dcode p port s) := by
  unfold discardQ
  try dsimp only
  repeat' first
    | with_reducible exact Kept.refl _
    | with_reducible exact Kept.idRefl
    | with_reducible apply Kept.step leaveCount_kept
    | with_reducible apply Kept.step capture_kept
    | with_reducible apply Kept.step countDiscard_kept
    | decide

theorem freeComb_kept {id : Nat} {s : State} : Kept [.mem] s (freeComb id s) := by
  unfold freeComb
  try dsimp only
  repeat' first
    | with_reducible exact Kept.refl _
    | with_reducible exact Kept.idRefl
    | (fail_if_no_progress ((with_reducible apply Kept.put_mem); decide))

theorem closeComb_kept {id : Nat} {s : State} : Kept [.hst, .fwd, .swc, .tmb, .lnd, .mem, .tly, .ram, .out] s (closeComb id s) := by
  unfold closeComb
  try dsimp only
  repeat' first
    | with_reducible exact Kept.refl _
    | with_reducible exact Kept.idRefl
    | with_reducible apply Kept.step modComb_kept
    | with_reducible apply Kept.step discardQ_kept
    | with_reducible apply Kept.step freeComb_kept
    | with_reducible apply Kept.step settleQueue_kept
    | with_reducible apply Kept.step State.setQueue_kept
    | with_reducible apply Kept.ite
    | decide
    | (intro _; intros; try dsimp only)
    | dsimp only
    | split

theorem mergeInto_kept {e : CombEnt} {port : Nat} {p : Pkt} {s : State} : Kept [.hst, .lnk, .fwd, .swc, .tmb, .lnd, .mem, .tly, .ram, .out] s (mergeInto e port p s) := by
  unfold mergeInto
  try dsimp only
  repeat' first
    | with_reducible exact Kept.refl _
    | with_reducible exact Kept.idRefl
    | with_reducible apply Kept.step returnCredit_kept
    | with_reducible apply Kept.step leaveCount_kept
    | with_reducible apply Kept.step preLeave_kept
    | with_reducible apply Kept.step count_kept
    | with_reducible apply Kept.step modComb_kept
    | with_reducible apply Kept.step closeComb_kept
    | with_reducible apply Kept.ite
    | decide

theorem discard_kept {dcode : Nat} {p : Pkt} {out : Option Nat} {s : State} : Kept [.hst, .lnk, .fwd, .swc, .tmb, .lnd, .tly, .ram, .out] s (discard dcode p out s) := by
  unfold discard
  try dsimp only
  repeat' first
    | with_reducible exact Kept.refl _
    | with_reducible exact Kept.idRefl
    | with_reducible apply Kept.step returnCredit_kept
    | with_reducible apply Kept.step leaveCount_kept
    | with_reducible apply Kept.step preLeave_kept
    | with_reducible apply Kept.step capture_kept
    | with_reducible apply Kept.step countDiscard_kept
    | decide

theorem openSpray_kept {d : Nat} {h : Hdr} {b : Nat} {s : State} : Kept [.swc, .tly] s (openSpray d h b s).1 := by
  unfold openSpray
  try dsimp only
  repeat' first
    | with_reducible exact Kept.refl _
    | with_reducible exact Kept.idRefl
    | with_reducible apply Kept.step count_kept
    | with_reducible apply Kept.ite
    | with_reducible apply Kept.iteFst
    | (fail_if_no_progress ((with_reducible apply Kept.put_swc); decide))
    | decide
    | (intro _; intros; try dsimp only)
    | dsimp only
    | split

theorem nextSeq_kept {d : Nat} {c : SprayCtr} {c2 : Bool} {s : State} : Kept [.swc] s (nextSeq d c c2 s).1 := by
  unfold nextSeq
  try dsimp only
  repeat' first
    | with_reducible exact Kept.refl _
    | with_reducible exact Kept.idRefl
    | with_reducible apply Kept.ite
    | with_reducible apply Kept.iteFst
    | (fail_if_no_progress ((with_reducible apply Kept.put_swc); decide))

theorem enterCount_kept {b : Bool} {s : State} : Kept [.fwd] s (enterCount b s) := by
  unfold enterCount
  try dsimp only
  repeat' first
    | with_reducible exact Kept.refl _
    | with_reducible exact Kept.idRefl
    | with_reducible apply Kept.ite
    | (fail_if_no_progress ((with_reducible apply Kept.put_fwd); decide; with_reducible exact rfl))

theorem pushMarker_kept {p : Nat} {tc : Nat} {ids : List Nat} {s : State} : Kept [.hst, .swc, .tmb, .lnd, .tly, .ram, .out] s (pushMarker p tc ids s) := by
  unfold pushMarker
  try dsimp only
  repeat' first
    | with_reducible exact Kept.refl _
    | with_reducible exact Kept.idRefl
    | with_reducible apply Kept.step modFences_kept
    | with_reducible apply Kept.step consumeFront_kept
    | with_reducible apply Kept.step pushItem_kept
    | with_reducible apply Kept.ite
    | decide

theorem putQueue_kept {port : Nat} {mk : Pkt → QItem} {pre : List Nat} {p : Pkt} {s : State} : Kept [.hst, .lnk, .fwd, .swc, .tmb, .lnd, .tly, .ram, .out] s (putQueue port mk pre p s) := by
  unfold putQueue
  try dsimp only
  repeat' first
    | with_reducible exact Kept.refl _
    | with_reducible exact Kept.idRefl
    | with_reducible apply Kept.step returnCredit_kept
    | with_reducible apply Kept.step enterCount_kept
    | with_reducible apply Kept.step pushItem_kept
    | with_reducible apply Kept.step countN_kept
    | with_reducible apply Kept.step count_kept
    | with_reducible apply Kept.step capture_kept
    | with_reducible apply Kept.step preLeave_kept
    | with_reducible apply Kept.step pushMarker_kept
    | with_reducible apply Kept.ite
    | decide

theorem noteWrite_kept {port : Nat} {p : Pkt} {s : State} : Kept [.hst, .fwd, .swc, .tmb, .lnd, .mem, .tly, .ram, .out] s (noteWrite port p s) := by
  unfold noteWrite
  try dsimp only
  repeat' first
    | with_reducible exact Kept.refl _
    | with_reducible exact Kept.idRefl
    | with_reducible apply fun hf h => Kept.trans h (forEach_kept hf)
    | with_reducible apply Kept.step closeComb_kept
    | with_reducible apply Kept.ite
    | (fail_if_no_progress ((with_reducible apply Kept.put_mem); decide))
    | decide
    | (intro _; intros; try dsimp only)

theorem schedOverflow_kept {port : Nat} {p : Pkt} {s : State} : Kept [.hst, .lnk, .fwd, .swc, .tmb, .lnd, .tly, .ram, .out] s (schedOverflow port p s) := by
  unfold schedOverflow
  try dsimp only
  repeat' first
    | with_reducible exact Kept.refl _
    | with_reducible exact Kept.idRefl
    | with_reducible apply Kept.step discard_kept
    | with_reducible apply Kept.step raiseSwc_kept
    | with_reducible apply Kept.step modMap_kept
    | with_reducible apply Kept.step count_kept
    | decide

theorem writeMarkerCopies_kept {spoint : Nat} {b : Nat} {p : Pkt} {s : State} : Kept [.hst, .lnk, .fwd, .swc, .tmb, .lnd, .mem, .tly, .ram, .out] s (writeMarkerCopies spoint b p s) := by
  unfold writeMarkerCopies
  try dsimp only
  repeat' first
    | with_reducible exact Kept.refl _
    | with_reducible exact Kept.idRefl
    | with_reducible apply Kept.step openSpray_kept
    | with_reducible apply fun hf h => Kept.trans h (forEach_kept hf)
    | with_reducible apply Kept.step nextSeq_kept
    | with_reducible apply Kept.step discard_kept
    | with_reducible apply Kept.step putQueue_kept
    | with_reducible apply Kept.step noteWrite_kept
    | with_reducible apply Kept.step schedOverflow_kept
    | with_reducible apply Kept.step returnCredit_kept
    | with_reducible apply Kept.step leaveCount_kept
    | with_reducible apply Kept.step preLeave_kept
    | with_reducible apply Kept.ite
    | with_reducible apply Kept.iteFst
    | (fail_if_no_progress ((with_reducible apply Kept.put_lnd); decide))
    | decide
    | (with_reducible apply Kept.ofFst; with_reducible assumption)
    | (intro _; intros; try dsimp only)

theorem writeQueue_kept {port : Nat} {p : Pkt} {s : State} : Kept [.hst, .lnk, .fwd, .swc, .tmb, .lnd, .mem, .tly, .ram, .out] s (writeQueue port p s) := by
  unfold writeQueue
  try dsimp only
  repeat' first
    | with_reducible exact Kept.refl _
    | with_reducible exact Kept.idRefl
    | with_reducible apply Kept.step mergeInto_kept
    | with_reducible apply Kept.step noteWrite_kept
    | with_reducible apply Kept.step putQueue_kept
    | with_reducible apply Kept.step count_kept
    | with_reducible apply Kept.ite
    | (fail_if_no_progress ((with_reducible apply Kept.put_mem); decide))
    | decide
    | (intro _; intros; try dsimp only)
    | dsimp only
    | split

theorem useBucket_kept {b : Nat} {k : Nat} {port : Nat} {s : State} : Kept [.swc] s (useBucket b k port s) := by
  unfold useBucket
  try dsimp only
  repeat' first
    | with_reducible exact Kept.refl _
    | with_reducible exact Kept.idRefl
    | with_reducible apply Kept.ite
    | (fail_if_no_progress ((with_reducible apply Kept.put_swc); decide))

theorem writeHop_kept {spoint : Nat} {hop : Hop} {port : Nat} {p : Pkt} {s : State} : Kept [.hst, .lnk, .fwd, .swc, .tmb, .lnd, .mem, .tly, .ram, .out] s (writeHop spoint hop port p s) := by
  unfold writeHop
  try dsimp only
  repeat' first
    | with_reducible exact Kept.refl _
    | with_reducible exact Kept.idRefl
    | with_reducible apply Kept.step writeQueue_kept
    | with_reducible apply Kept.step useBucket_kept
    | with_reducible apply Kept.step openSpray_kept
    | with_reducible apply Kept.step nextSeq_kept
    | with_reducible apply Kept.ite
    | with_reducible apply Kept.iteFst
    | (fail_if_no_progress ((with_reducible apply Kept.put_swc); decide))
    | decide
    | (with_reducible apply Kept.ofFst; with_reducible assumption)
    | (intro _; intros; try dsimp only)
    | dsimp only
    | split

theorem writeOut_kept {spoint : Nat} {hop : Hop} {port : Nat} {p : Pkt} {s : State} : Kept [.hst, .lnk, .fwd, .swc, .tmb, .lnd, .mem, .tly, .ram, .out] s (writeOut spoint hop port p s) := by
  unfold writeOut
  try dsimp only
  repeat' first
    | with_reducible exact Kept.refl _
    | with_reducible exact Kept.idRefl
    | with_reducible apply Kept.step writeMarkerCopies_kept
    | with_reducible apply Kept.step writeHop_kept
    | decide
    | (intro _; intros; try dsimp only)
    | dsimp only
    | split

theorem waitProd_kept {stampAtEnqueue : Bool} {notBefore : Nat} {hop : Hop} {p : Pkt} {s : State} : Kept [.fwd, .swc, .lnd] s (waitProd stampAtEnqueue notBefore hop p s) := by
  unfold waitProd
  try dsimp only
  repeat' first
    | with_reducible exact Kept.refl _
    | with_reducible exact Kept.idRefl
    | with_reducible apply Kept.step preEnter_kept
    | with_reducible apply Kept.step enterCount_kept
    | with_reducible apply Kept.ite
    | (fail_if_no_progress ((with_reducible apply Kept.put_swc); decide))
    | decide

theorem originate_kept {stampAtEnqueue : Bool} {notBefore : Nat} {hop : Hop} {p : Pkt} {s : State} : Kept [.hst, .lnk, .fwd, .swc, .tmb, .lnd, .mem, .tly, .ram, .out] s (originate stampAtEnqueue notBefore hop p s) := by
  unfold originate
  try dsimp only
  repeat' first
    | with_reducible exact Kept.refl _
    | with_reducible exact Kept.idRefl
    | with_reducible apply Kept.step discard_kept
    | with_reducible apply Kept.step writeOut_kept
    | with_reducible apply Kept.step waitProd_kept
    | with_reducible apply Kept.ite
    | decide
    | (intro _; intros; try dsimp only)
    | dsimp only
    | split

theorem windfall_kept {p : Pkt} {out : Option Nat} {queued : Bool} {s : State} : Kept [.hst, .lnk, .fwd, .swc, .tmb, .lnd, .tly, .ram, .out] s (windfall p out queued s) := by
  unfold windfall
  try dsimp only
  repeat' first
    | with_reducible exact Kept.refl _
    | with_reducible exact Kept.idRefl
    | with_reducible apply Kept.step countDiscard_kept
    | with_reducible apply Kept.step modMap_kept
    | with_reducible apply Kept.step count_kept
    | with_reducible apply Kept.step capture_kept
    | with_reducible apply Kept.step returnCredit_kept
    | with_reducible apply Kept.step leaveCount_kept
    | with_reducible apply Kept.step preLeave_kept
    | with_reducible apply Kept.ite
    | decide
    | (intro _; intros; try dsimp only)
    | dsimp only
    | split

theorem ppsOuts_kept {dt : Nat} {s : State} : Kept [.out] s (ppsOuts dt s) := by
  unfold ppsOuts
  try dsimp only
  repeat' first
    | with_reducible exact Kept.refl _
    | with_reducible exact Kept.idRefl
    | with_reducible apply fun hf h => Kept.trans h (forEach_kept hf)
    | with_reducible apply Kept.step emit_kept
    | with_reducible apply Kept.ite
    | decide
    | (intro _; intros; try dsimp only)

theorem elapse_kept {dt : Nat} {s : State} : Kept [.tmb, .tly, .clk, .out] s (elapse dt s) := by
  unfold elapse
  have hq : ∀ u : State, Kept [.tmb, .tly, .clk, .out] s u → Kept [.tmb, .tly, .clk, .out] s { u with clk := u.clk + dt, tmb.tb := u.tmb.tb + (((dt * 65536 : Nat) : Int) + u.rateTrim dt).toNat, tmb.owed := u.tmb.owed - u.rateTrim dt } := fun u h =>
    h.trans ⟨fun b hb => by cases b <;> first | exact rfl | exact absurd (by decide) hb, rfl, rfl, Nat.le_refl _, id, Nat.le_add_right _ _, List.suffix_refl _, rfl, id, id⟩
  exact hq _ (((Kept.mono topDown_kept (by decide)).trans (Kept.mono ppsOuts_kept (by decide))).trans (forEach_kept fun _ _ => Kept.mono modMap_kept (by decide)))

theorem sendRing_kept {west : Bool} {type : Nat} {payload : List Byte} {s : State} : Kept [.svc, .out] s (sendRing west type payload s) := by
  unfold sendRing
  try dsimp only
  repeat' first
    | with_reducible exact Kept.refl _
    | with_reducible exact Kept.idRefl
    | with_reducible apply Kept.step sendSvc_kept
    | with_reducible apply Kept.ite
    | decide

theorem sendJrnl_kept {l : List JRec} {s : State} : Kept [.svc, .out] s (sendJrnl l s) := by
  unfold sendJrnl
  try dsimp only
  repeat' first
    | with_reducible exact Kept.refl _
    | with_reducible exact Kept.idRefl
    | with_reducible apply Kept.step sendRing_kept
    | decide
    | (intro _; intros; try dsimp only)
    | dsimp only
    | split

theorem journalRec_kept {tab : Bool} {bytes : List Byte} {s : State} : Kept [.svc, .res, .out] s (journalRec tab bytes s) := by
  unfold journalRec
  try dsimp only
  repeat' first
    | with_reducible exact Kept.refl _
    | with_reducible exact Kept.idRefl
    | with_reducible apply Kept.step sendJrnl_kept
    | with_reducible apply Kept.ite
    | (fail_if_no_progress ((with_reducible apply Kept.put_res); decide; with_reducible exact rfl))
    | decide

theorem journal_kept {rkind : Nat} {wseq : Nat} {body : List Byte} {s : State} : Kept [.svc, .res, .out] s (journal rkind wseq body s) := by
  unfold journal
  try dsimp only
  repeat' first
    | with_reducible exact Kept.refl _
    | with_reducible exact Kept.idRefl
    | with_reducible apply Kept.step journalRec_kept
    | (fail_if_no_progress ((with_reducible apply Kept.put_res); decide; with_reducible exact rfl))
    | decide

theorem journalRaw_kept {bytes : List Byte} {s : State} : Kept [.svc, .res, .out] s (journalRaw bytes s) := by
  unfold journalRaw
  try dsimp only
  repeat' first
    | with_reducible exact Kept.refl _
    | with_reducible exact Kept.idRefl
    | with_reducible apply Kept.step journalRec_kept
    | decide

theorem svcMessage_kept {n : Nat} {codes : List Code} {f : MsgRx → State → State} {s : State} {L : List Blk} (hL : [.svc] ⊆ L) (hf : ∀ x0 t, Kept L t (f x0 t)) : Kept L s (svcMessage n codes f s) := by
  unfold svcMessage
  try dsimp only
  repeat' first
    | with_reducible exact Kept.refl _
    | with_reducible exact Kept.idRefl
    | with_reducible apply fun h => Kept.trans h (hf _ _)
    | with_reducible apply Kept.step State.modSvc_kept
    | with_reducible apply Kept.ite
    | with_reducible apply fun hf h => Kept.trans h (foldl_kept hf)
    | exact List.Subset.trans (by decide) hL

theorem discardSvc_kept {n : Nat} {why : SvcDiscard} {s : State} : Kept [.svc, .tly] s (discardSvc n why s) := by
  unfold discardSvc
  try dsimp only
  repeat' first
    | with_reducible exact Kept.refl _
    | with_reducible exact Kept.idRefl
    | with_reducible apply Kept.step count_kept
    | with_reducible apply Kept.step State.modSvc_kept
    | decide
    | (intro _; intros; try dsimp only)
    | dsimp only
    | split

theorem onMessage_kept {n : Nat} {type : Byte} {codes : List Code} {f : SvcMsg → State → State} {s : State} {L : List Blk} (hL : [.svc, .tly] ⊆ L) (hf : ∀ x0 t, Kept L t (f x0 t)) : Kept L s (onMessage n type codes f s) := by
  unfold onMessage
  try dsimp only
  repeat' first
    | with_reducible exact Kept.refl _
    | with_reducible exact Kept.idRefl
    | with_reducible apply fun h => Kept.trans h (hf _ _)
    | with_reducible apply fun hl h0 h => Kept.trans h (svcMessage_kept hl h0)
    | with_reducible apply Kept.step discardSvc_kept
    | with_reducible apply Kept.ite
    | exact List.Subset.trans (by decide) hL
    | exact hL (by decide)
    | exact hL
    | (intro _; intros; try dsimp only)
    | dsimp only
    | split

theorem onEngine_kept {e : Fin 32} {second : Bool} {type : Byte} {codes : List Code} {f : SvcMsg → State → State} {s : State} {L : List Blk} (hL : [.svc, .tly] ⊆ L) (hf : ∀ x0 t, Kept L t (f x0 t)) : Kept L s (onEngine e second type codes f s) := by
  unfold onEngine
  try dsimp only
  repeat' first
    | with_reducible exact Kept.refl _
    | with_reducible exact Kept.idRefl
    | with_reducible apply fun h => Kept.trans h (hf _ _)
    | with_reducible apply fun hl h0 h => Kept.trans h (onMessage_kept hl h0)
    | exact List.Subset.trans (by decide) hL
    | exact hL (by decide)
    | exact hL
    | (intro _; intros; try dsimp only)

theorem onRing_kept {lane : Fin 2} {type : Byte} {codes : List Code} {f : List Byte → State → State} {s : State} {L : List Blk} (hL : [.svc, .tly] ⊆ L) (hf : ∀ x0 t, Kept L t (f x0 t)) : Kept L s (onRing lane type codes f s) := by
  unfold onRing
  try dsimp only
  repeat' first
    | with_reducible exact Kept.refl _
    | with_reducible exact Kept.idRefl
    | with_reducible apply fun h => Kept.trans h (hf _ _)
    | with_reducible apply fun hl h0 h => Kept.trans h (onMessage_kept hl h0)
    | with_reducible apply Kept.ite
    | exact List.Subset.trans (by decide) hL
    | exact hL (by decide)
    | exact hL
    | (intro _; intros; try dsimp only)

end Sys2Proof.Machine
end

