-- ==== Sys2Proof/Laws/KeptSwitch.lean ====
section
/-! SUPPORT. What each operation and meaning of the files Machine/FwdOps, Forwarding, Arith, TtOps, YardOps, LandOps, Landings, Fences, MemOps, Reorder, IngressOps, EgressOps, SwitchCore changes, and what it never undoes. -/
set_option linter.unusedTactic false
set_option linter.unreachableTactic false
namespace Sys2Proof.Machine
open Sys2Proof

theorem eccError_kept {tbl : Nat} {b : Bool} {i : Nat} {s : State} : Kept [.hst, .lnk, .srd, .fwd, .swc, .lnd, .mil, .res, .nv, .out] s (eccError tbl b i s) := by
  unfold eccError
  try dsimp only
  repeat' first
    | with_reducible exact Kept.refl _
    | with_reducible exact Kept.idRefl
    | with_reducible apply Kept.step addPenalty_kept
    | with_reducible apply Kept.step raiseFwd_kept
    | (fail_if_no_progress ((with_reducible apply Kept.put_fwd); decide; with_reducible exact rfl))
    | decide

theorem correctAt_kept {tbl : Nat} {b : Bool} {i : Nat} {s : State} : Kept [.hst, .lnk, .srd, .fwd, .swc, .lnd, .mil, .res, .tly, .nv, .out] s (correctAt tbl b i s) := by
  unfold correctAt
  try dsimp only
  repeat' first
    | with_reducible exact Kept.refl _
    | with_reducible exact Kept.idRefl
    | with_reducible apply Kept.step addPenalty_kept
    | with_reducible apply Kept.step countX_kept
    | with_reducible apply Kept.ite
    | (fail_if_no_progress ((with_reducible apply Kept.put_fwd); decide; with_reducible exact rfl))
    | decide

theorem readEnts_kept {b : Bool} {a1 : List (Nat × Nat)} {a2 : State} : Kept [.hst, .lnk, .srd, .fwd, .swc, .lnd, .mil, .res, .tly, .nv, .out] a2 (readEnts b a1 a2).1 := by
  induction a1 generalizing a2 with
  | nil =>
    unfold readEnts
    try dsimp only
    repeat' first
      | with_reducible exact Kept.refl _
  | cons x r ih =>
    unfold readEnts
    try dsimp only
    repeat' first
      | with_reducible exact Kept.refl _
      | with_reducible exact Kept.idRefl
      | with_reducible apply fun h => Kept.trans h ih
      | with_reducible apply Kept.step eccError_kept
      | with_reducible apply Kept.step correctAt_kept
      | with_reducible apply Kept.ite
      | with_reducible apply Kept.iteFst
      | decide

theorem clearBad_kept {tbl : Nat} {b : Bool} {i : Nat} {s : State} : Kept [.fwd] s (clearBad tbl b i s) := by
  unfold clearBad
  try dsimp only
  repeat' first
    | with_reducible exact Kept.refl _
    | with_reducible exact Kept.idRefl
    | (fail_if_no_progress ((with_reducible apply Kept.put_fwd); decide; with_reducible exact rfl))

theorem readTrie_kept {b : Bool} {eid : Word} {district : Nat} {s : State} : Kept [.hst, .lnk, .srd, .fwd, .swc, .lnd, .mil, .res, .tly, .nv, .out] s (readTrie b eid district s).1 := by
  unfold readTrie
  try dsimp only
  repeat' first
    | with_reducible exact Kept.refl _
    | with_reducible exact Kept.idRefl
    | with_reducible apply Kept.step readEnts_kept
    | with_reducible apply Kept.step countN_kept
    | decide
    | (with_reducible apply Kept.ofFst; with_reducible assumption)
    | (intro _; intros; try dsimp only)
    | dsimp only
    | split

theorem resolve_kept {b : Bool} {eid : Word} {district : Nat} {s : State} : Kept [.hst, .lnk, .srd, .fwd, .swc, .lnd, .mil, .res, .tly, .nv, .out] s (resolve b eid district s).1 := by
  unfold resolve
  try dsimp only
  repeat' first
    | with_reducible exact Kept.refl _
    | with_reducible exact Kept.idRefl
    | with_reducible apply Kept.step readEnts_kept
    | with_reducible apply Kept.step readTrie_kept
    | with_reducible apply Kept.ite
    | with_reducible apply Kept.iteFst
    | decide
    | (with_reducible apply Kept.ofFst; with_reducible assumption)
    | (intro _; intros; try dsimp only)
    | dsimp only
    | split

theorem lookupDst_kept {s : State} {b : Bool} {h : Hdr} {district : Nat} : Kept [.hst, .lnk, .srd, .fwd, .swc, .lnd, .mil, .res, .tly, .nv, .out] s (lookupDst s b h district).1 := by
  unfold lookupDst
  try dsimp only
  repeat' first
    | with_reducible exact Kept.refl _
    | with_reducible exact Kept.idRefl
    | with_reducible apply Kept.step readEnts_kept
    | with_reducible apply Kept.step resolve_kept
    | with_reducible apply Kept.ite
    | with_reducible apply Kept.iteFst
    | decide
    | (with_reducible apply Kept.ofFst; with_reducible assumption)
    | (intro _; intros; try dsimp only)
    | dsimp only
    | split

theorem lookupSrc_kept {s : State} {b : Bool} {h : Hdr} {district : Nat} : Kept [.hst, .lnk, .srd, .fwd, .swc, .lnd, .mil, .res, .tly, .nv, .out] s (lookupSrc s b h district).1 := by
  unfold lookupSrc
  try dsimp only
  repeat' first
    | with_reducible exact Kept.refl _
    | with_reducible exact Kept.idRefl
    | with_reducible apply Kept.step readEnts_kept
    | with_reducible apply Kept.step lookupDst_kept
    | with_reducible apply Kept.ite
    | with_reducible apply Kept.iteFst
    | decide
    | (with_reducible apply Kept.ofFst; with_reducible assumption)
    | (intro _; intros; try dsimp only)
    | dsimp only
    | split

theorem lookup_kept {s : State} {h : Hdr} {district : Nat} : Kept [.hst, .lnk, .srd, .fwd, .swc, .lnd, .mil, .res, .tly, .nv, .out] s (lookup s h district).1 := by
  unfold lookup
  try dsimp only
  repeat' first
    | with_reducible exact Kept.refl _
    | with_reducible exact Kept.idRefl
    | with_reducible apply Kept.step lookupSrc_kept
    | with_reducible apply Kept.step readEnts_kept
    | with_reducible apply Kept.ite
    | with_reducible apply Kept.iteFst
    | decide
    | (with_reducible apply Kept.ofFst; with_reducible assumption)
    | (intro _; intros; try dsimp only)
    | dsimp only
    | split

theorem sendControl_kept {district : Nat} {dst : Word} {opcode : Nat} {arg : Nat} {ctx : Nat} {job : Nat} {instant : Nat} {s : State} : Kept [.hst, .lnk, .srd, .fwd, .swc, .tmb, .lnd, .mil, .mem, .res, .tly, .nv, .ram, .out] s (sendControl district dst opcode arg ctx job instant s) := by
  unfold sendControl
  try dsimp only
  repeat' first
    | with_reducible exact Kept.refl _
    | with_reducible exact Kept.idRefl
    | with_reducible apply Kept.step discard_kept
    | with_reducible apply Kept.step lookup_kept
    | with_reducible apply Kept.step originate_kept
    | with_reducible apply Kept.ite
    | with_reducible apply Kept.iteFst
    | decide
    | (with_reducible apply Kept.ofFst; with_reducible assumption)
    | (intro _; intros; try dsimp only)
    | dsimp only
    | split

theorem State.setBank_kept {s : State} {b : Bool} {v : Bank} : Kept [.fwd, .tables] s (State.setBank s b v) := by
  unfold State.setBank
  try dsimp only
  repeat' first
    | with_reducible exact Kept.refl _
    | with_reducible exact Kept.idRefl
    | with_reducible apply Kept.ite
    | (fail_if_no_progress ((with_reducible apply Kept.put_fwd); decide; with_reducible exact rfl))
    | (fail_if_no_progress ((with_reducible apply Kept.put_fwd_tables); decide; decide))

theorem State.setExact_kept {s : State} {b : Bool} {eid : Word} {v : Option ExactEnt} : Kept [.fwd, .tables] s (State.setExact s b eid v) := by
  unfold State.setExact
  try dsimp only
  repeat' first
    | with_reducible exact Kept.refl _
    | with_reducible exact Kept.idRefl
    | with_reducible apply Kept.step State.setBank_kept
    | decide

theorem readMember_kept {b : Bool} {i : Nat} {s : State} : Kept [.hst, .lnk, .srd, .fwd, .swc, .lnd, .mil, .res, .tly, .nv, .out] s (readMember b i s).1 := by
  unfold readMember
  try dsimp only
  repeat' first
    | with_reducible exact Kept.refl _
    | with_reducible exact Kept.idRefl
    | with_reducible apply Kept.step readEnts_kept
    | with_reducible apply Kept.ite
    | with_reducible apply Kept.iteFst
    | decide
    | (with_reducible apply Kept.ofFst; with_reducible assumption)
    | (intro _; intros; try dsimp only)
    | dsimp only
    | split

theorem applyUpset_kept {u : Upset} {s : State} : Kept [.hst, .lnk, .srd, .fwd, .swc, .lnd, .mil, .res, .nv, .out] s (applyUpset u s) := by
  unfold applyUpset
  try dsimp only
  repeat' first
    | with_reducible exact Kept.refl _
    | with_reducible exact Kept.idRefl
    | with_reducible apply Kept.step addPenalty_kept
    | with_reducible apply Kept.ite
    | (fail_if_no_progress ((with_reducible apply Kept.put_fwd); decide; with_reducible exact rfl))
    | decide
    | (intro _; intros; try dsimp only)
    | dsimp only
    | split

theorem setVlog_kept {w : Word} {s : State} : Kept [.tmb] s (setVlog w s) := by
  unfold setVlog
  try dsimp only
  repeat' first
    | with_reducible exact Kept.refl _
    | with_reducible exact Kept.idRefl
    | (fail_if_no_progress ((with_reducible apply Kept.put_tmb); decide; with_reducible exact rfl))

theorem addUsed_kept {t : Timetable} {row : Nat} {entry : Nat} {occ : Nat} {n : Nat} {s : State} : Kept [.tmb] s (addUsed t row entry occ n s) := by
  unfold addUsed
  try dsimp only
  repeat' first
    | with_reducible exact Kept.refl _
    | with_reducible exact Kept.idRefl
    | (fail_if_no_progress ((with_reducible apply Kept.put_tmb); decide; with_reducible exact rfl))

theorem originateAny_kept {stampAtEnqueue : Bool} {notBefore : Nat} {hop : Hop} {p : Pkt} {s : State} : Kept [.hst, .lnk, .fwd, .swc, .tmb, .lnd, .mem, .tly, .ram, .out] s (originateAny stampAtEnqueue notBefore hop p s) := by
  unfold originateAny
  try dsimp only
  repeat' first
    | with_reducible exact Kept.refl _
    | with_reducible exact Kept.idRefl
    | with_reducible apply Kept.step originate_kept
    | with_reducible apply Kept.step waitProd_kept
    | with_reducible apply Kept.step count_kept
    | with_reducible apply Kept.step addUsed_kept
    | with_reducible apply Kept.ite
    | decide
    | (intro _; intros; try dsimp only)
    | dsimp only
    | split

theorem violation_kept {reason : Nat} {row : Nat} {p : Pkt} {s : State} : Kept [.hst, .tmb, .tly, .out] s (violation reason row p s) := by
  unfold violation
  try dsimp only
  repeat' first
    | with_reducible exact Kept.refl _
    | with_reducible exact Kept.idRefl
    | with_reducible apply Kept.step setVlog_kept
    | with_reducible apply Kept.step count_kept
    | with_reducible apply Kept.step raiseTmb_kept
    | with_reducible apply Kept.step modMap_kept
    | with_reducible apply Kept.ite
    | decide

theorem admitPkt_kept {row : Nat} {p : Pkt} {s : State} : Kept [.hst, .tmb, .tly, .out] s (admitPkt row p s).1 := by
  unfold admitPkt
  try dsimp only
  repeat' first
    | with_reducible exact Kept.refl _
    | with_reducible exact Kept.idRefl
    | with_reducible apply Kept.step violation_kept
    | with_reducible apply Kept.step addUsed_kept
    | with_reducible apply Kept.ite
    | with_reducible apply Kept.iteFst
    | decide
    | (intro _; intros; try dsimp only)
    | dsimp only
    | split

theorem putItem_kept {bid : Nat} {y : Nat} {kind : ItemKind} {bytes : List Byte} {s : State} : Kept [.mil] s (putItem bid y kind bytes s) := by
  unfold putItem
  try dsimp only
  repeat' first
    | with_reducible exact Kept.refl _
    | with_reducible exact Kept.idRefl
    | with_reducible apply Kept.step State.modBind_kept
    | decide

theorem addExc_kept {d : Nat} {e : Exc} {s : State} : Kept [.mil, .tly] s (addExc d e s) := by
  unfold addExc
  try dsimp only
  repeat' first
    | with_reducible exact Kept.refl _
    | with_reducible exact Kept.idRefl
    | with_reducible apply Kept.step countXN_kept
    | with_reducible apply Kept.ite
    | (fail_if_no_progress ((with_reducible apply Kept.put_mil); decide))
    | decide

theorem sendUp_kept {home : Nat} {p : Pkt} {s : State} : Kept [.hst, .lnk, .srd, .fwd, .swc, .tmb, .lnd, .mil, .mem, .res, .tly, .nv, .ram, .out] s (sendUp home p s).1 := by
  unfold sendUp
  try dsimp only
  repeat' first
    | with_reducible exact Kept.refl _
    | with_reducible exact Kept.idRefl
    | with_reducible apply Kept.step lookup_kept
    | with_reducible apply Kept.step discard_kept
    | with_reducible apply Kept.step originateAny_kept
    | decide
    | (with_reducible apply Kept.ofFst; with_reducible assumption)
    | (intro _; intros; try dsimp only)
    | dsimp only
    | split

theorem ackUp_kept {c : Ctx} {s : State} : Kept [.hst, .lnk, .srd, .fwd, .swc, .tmb, .lnd, .mil, .mem, .res, .tly, .nv, .ram, .out] s (ackUp c s).1 := by
  unfold ackUp
  try dsimp only
  repeat' first
    | with_reducible exact Kept.refl _
    | with_reducible exact Kept.idRefl
    | with_reducible apply Kept.step discard_kept
    | with_reducible apply Kept.step sendUp_kept
    | with_reducible apply Kept.ite
    | with_reducible apply Kept.iteFst
    | decide

theorem ctxRecord_kept {event : Nat} {cid : Nat} {msi : Bool} {s : State} : Kept [.hst, .lnd, .tly, .ram, .out] s (ctxRecord event cid msi s) := by
  unfold ctxRecord
  try dsimp only
  repeat' first
    | with_reducible exact Kept.refl _
    | with_reducible exact Kept.idRefl
    | with_reducible apply Kept.step lndRecord_kept
    | with_reducible apply Kept.ite
    | decide
    | (intro _; intros; try dsimp only)
    | dsimp only
    | split

theorem eventStage_kept {event : Nat} {cid : Nat} {i : Nat} {s : State} : Kept [.hst, .lnk, .srd, .fwd, .swc, .tmb, .lnd, .mil, .mem, .res, .tly, .nv, .ram, .out] s (eventStage event cid i s).1 := by
  unfold eventStage
  try dsimp only
  repeat' first
    | with_reducible exact Kept.refl _
    | with_reducible exact Kept.idRefl
    | with_reducible apply Kept.step ackUp_kept
    | with_reducible apply Kept.step ctxRecord_kept
    | decide
    | (with_reducible apply Kept.ofFst; with_reducible assumption)
    | (intro _; intros; try dsimp only)
    | dsimp only
    | split

theorem modChunk_kept {cid : Nat} {k : Nat} {f : Chunk → Chunk} {s : State} : Kept [.lnd] s (modChunk cid k f s) := by
  unfold modChunk
  try dsimp only
  repeat' first
    | with_reducible exact Kept.refl _
    | with_reducible exact Kept.idRefl
    | with_reducible apply Kept.step State.modCtx_kept
    | decide

theorem enterOpening_kept {job : BitVec 20} {openid : Word} {s : State} : Kept [.lnd, .tly] s (enterOpening job openid s) := by
  unfold enterOpening
  try dsimp only
  repeat' first
    | with_reducible exact Kept.refl _
    | with_reducible exact Kept.idRefl
    | with_reducible apply Kept.step count_kept
    | with_reducible apply Kept.ite
    | (fail_if_no_progress ((with_reducible apply Kept.put_lnd); decide))
    | decide

theorem removeCtx_kept {cid : Nat} {s : State} : Kept [.hst, .lnk, .svc, .fwd, .swc, .tmb, .lnd, .res, .tly, .ram, .out] s (removeCtx cid s) := by
  unfold removeCtx
  try dsimp only
  repeat' first
    | with_reducible exact Kept.refl _
    | with_reducible exact Kept.idRefl
    | with_reducible apply Kept.step State.setCtx_kept
    | with_reducible apply Kept.step journal_kept
    | with_reducible apply fun hf h => Kept.trans h (forEach_kept hf)
    | with_reducible apply Kept.step discard_kept
    | (fail_if_no_progress ((with_reducible apply Kept.put_lnd); decide))
    | decide
    | (intro _; intros; try dsimp only)
    | dsimp only
    | split

theorem sendRefused_kept {district : Nat} {arg : Nat} {p : Pkt} {s : State} : Kept [.hst, .lnk, .srd, .fwd, .swc, .tmb, .lnd, .mil, .mem, .res, .tly, .nv, .ram, .out] s (sendRefused district arg p s) := by
  unfold sendRefused
  try dsimp only
  repeat' first
    | with_reducible exact Kept.refl _
    | with_reducible exact Kept.idRefl
    | with_reducible apply Kept.step sendControl_kept
    | decide

theorem takenLand_kept {p : Pkt} {s : State} : Kept [.hst, .lnk, .fwd, .lnd, .tly, .ram, .out] s (takenLand p s) := by
  unfold takenLand
  try dsimp only
  repeat' first
    | with_reducible exact Kept.refl _
    | with_reducible exact Kept.idRefl
    | with_reducible apply Kept.step returnCredit_kept
    | with_reducible apply Kept.step leaveCount_kept
    | with_reducible apply Kept.step preLeave_kept
    | decide

theorem toPool_kept {p : Pkt} {nextStep : Bool} {s : State} : Kept [.hst, .lnk, .srd, .fwd, .swc, .tmb, .lnd, .mil, .mem, .res, .tly, .nv, .ram, .out] s (toPool p nextStep s) := by
  unfold toPool
  try dsimp only
  repeat' first
    | with_reducible exact Kept.refl _
    | with_reducible exact Kept.idRefl
    | with_reducible apply Kept.step raiseLnd_kept
    | with_reducible apply Kept.step sendRefused_kept
    | with_reducible apply Kept.step discard_kept
    | with_reducible apply Kept.step takenLand_kept
    | with_reducible apply Kept.ite
    | (fail_if_no_progress ((with_reducible apply Kept.put_lnd); decide))
    | decide

theorem evictFor_kept {d : Nat} {a1 : List (Nat × Nat × Nat)} {a2 : Nat} {a3 : State} : Kept [.lnd, .tly] a3 (evictFor d a1 a2 a3) := by
  induction a1 generalizing a2 a3 with
  | nil =>
    unfold evictFor
    try dsimp only
    repeat' first
      | with_reducible exact Kept.refl _
  | cons x r ih =>
    unfold evictFor
    try dsimp only
    repeat' first
      | with_reducible exact Kept.refl _
      | with_reducible exact Kept.idRefl
      | with_reducible apply fun h => Kept.trans h ih
      | with_reducible apply Kept.step count_kept
      | with_reducible apply Kept.step State.modCtx_kept
      | with_reducible apply Kept.ite
      | decide

theorem touchCtx_kept {cid : Nat} {s : State} : Kept [.lnd, .tly] s (touchCtx cid s) := by
  unfold touchCtx
  try dsimp only
  repeat' first
    | with_reducible exact Kept.refl _
    | with_reducible exact Kept.idRefl
    | with_reducible apply Kept.step State.setCtx_kept
    | with_reducible apply Kept.step State.modCtx_kept
    | with_reducible apply Kept.step evictFor_kept
    | with_reducible apply Kept.ite
    | decide
    | (intro _; intros; try dsimp only)
    | dsimp only
    | split

theorem openChunk_kept {cid : Nat} {k : Nat} {s : State} : Kept [.lnd] s (openChunk cid k s) := by
  unfold openChunk
  try dsimp only
  repeat' first
    | with_reducible exact Kept.refl _
    | with_reducible exact Kept.idRefl
    | with_reducible apply Kept.step State.setCtx_kept
    | with_reducible apply Kept.ite
    | decide
    | (intro _; intros; try dsimp only)
    | dsimp only
    | split

theorem shortCopy_kept {cid : Nat} {group : Nat} {p : Pkt} {out : Option Nat} {s : State} : Kept [.hst, .fwd, .swc, .tmb, .lnd, .tly, .ram, .out] s (shortCopy cid group p out s) := by
  unfold shortCopy
  try dsimp only
  repeat' first
    | with_reducible exact Kept.refl _
    | with_reducible exact Kept.idRefl
    | with_reducible apply Kept.step capture_kept
    | with_reducible apply Kept.step countDiscard_kept
    | with_reducible apply Kept.step State.modCtx_kept
    | (fail_if_no_progress ((with_reducible apply Kept.put_fwd); decide; with_reducible exact rfl))
    | decide

theorem sendGroup_kept {cid : Nat} {k : Nat} {t : Stage} {payload : List Byte} {s : State} : Kept [.hst, .lnk, .srd, .fwd, .swc, .tmb, .lnd, .mil, .mem, .res, .tly, .nv, .ram, .out] s (sendGroup cid k t payload s) := by
  unfold sendGroup
  try dsimp only
  repeat' first
    | with_reducible exact Kept.refl _
    | with_reducible exact Kept.idRefl
    | with_reducible apply Kept.step readEnts_kept
    | with_reducible apply Kept.step discard_kept
    | with_reducible apply fun hf h => Kept.trans h (forEach_kept hf)
    | with_reducible apply Kept.step readMember_kept
    | with_reducible apply Kept.step shortCopy_kept
    | with_reducible apply Kept.step originateAny_kept
    | with_reducible apply Kept.ite
    | with_reducible apply Kept.iteFst
    | decide
    | (with_reducible apply Kept.ofFst; with_reducible assumption)
    | (intro _; intros; try dsimp only)
    | dsimp only
    | split

theorem sendNow_kept {cid : Nat} {k : Nat} {t : Stage} {payload : List Byte} {s : State} : Kept [.hst, .lnk, .srd, .fwd, .swc, .tmb, .lnd, .mil, .mem, .res, .tly, .nv, .ram, .out] s (sendNow cid k t payload s).1 := by
  unfold sendNow
  try dsimp only
  repeat' first
    | with_reducible exact Kept.refl _
    | with_reducible exact Kept.idRefl
    | with_reducible apply Kept.step sendGroup_kept
    | with_reducible apply Kept.step discard_kept
    | with_reducible apply Kept.step sendUp_kept
    | with_reducible apply Kept.ite
    | with_reducible apply Kept.iteFst
    | decide
    | (with_reducible apply Kept.ofFst; with_reducible assumption)
    | (intro _; intros; try dsimp only)
    | dsimp only
    | split

theorem sendStage_kept {cid : Nat} {k : Nat} {i : Nat} {payload : List Byte} {s : State} : Kept [.hst, .lnk, .srd, .fwd, .swc, .tmb, .lnd, .mil, .mem, .res, .tly, .nv, .ram, .out] s (sendStage cid k i payload s).1 := by
  unfold sendStage
  try dsimp only
  repeat' first
    | with_reducible exact Kept.refl _
    | with_reducible exact Kept.idRefl
    | with_reducible apply Kept.step ctxRecord_kept
    | with_reducible apply Kept.step State.modCtx_kept
    | with_reducible apply Kept.step sendNow_kept
    | with_reducible apply Kept.ite
    | with_reducible apply Kept.iteFst
    | (fail_if_no_progress ((with_reducible apply Kept.put_lnd); decide))
    | decide
    | (with_reducible apply Kept.ofFst; with_reducible assumption)
    | (intro _; intros; try dsimp only)
    | dsimp only
    | split

theorem relayChunk_kept {cid : Nat} {k : Nat} {p : Pkt} {s : State} : Kept [.hst, .lnk, .srd, .fwd, .swc, .tmb, .lnd, .mil, .mem, .res, .tly, .nv, .ram, .out] s (relayChunk cid k p s).1 := by
  unfold relayChunk
  try dsimp only
  repeat' first
    | with_reducible exact Kept.refl _
    | with_reducible exact Kept.idRefl
    | with_reducible apply Kept.step touchCtx_kept
    | with_reducible apply Kept.step State.setCtx_kept
    | with_reducible apply Kept.step openChunk_kept
    | with_reducible apply Kept.step State.modCtx_kept
    | with_reducible apply Kept.step sendStage_kept
    | with_reducible apply Kept.ite
    | with_reducible apply Kept.iteFst
    | with_reducible apply fun hf h => Kept.trans h (foldl_kept hf)
    | decide
    | (with_reducible apply Kept.ofFst; with_reducible assumption)
    | (intro _; intros; try dsimp only)
    | dsimp only
    | split

theorem addPairs_kept {cid : Nat} {a1 : List (List Byte)} {a2 : State} : Kept [.lnd, .tly] a2 (addPairs cid a1 a2) := by
  induction a1 generalizing a2 with
  | nil =>
    unfold addPairs
    try dsimp only
    repeat' first
      | with_reducible exact Kept.refl _
  | cons x r ih =>
    unfold addPairs
    try dsimp only
    repeat' first
      | with_reducible exact Kept.refl _
      | with_reducible exact Kept.idRefl
      | with_reducible apply fun h => Kept.trans h ih
      | with_reducible apply Kept.step count_kept
      | with_reducible apply Kept.step modChunk_kept
      | with_reducible apply Kept.step openChunk_kept
      | with_reducible apply Kept.ite
      | decide
      | (intro _; intros; try dsimp only)
      | dsimp only
      | split

theorem accept_kept {cid : Nat} {i : Nat} {k : Nat} {p : Pkt} {s : State} : Kept [.lnd, .mil, .tly] s (accept cid i k p s) := by
  unfold accept
  try dsimp only
  repeat' first
    | with_reducible exact Kept.refl _
    | with_reducible exact Kept.idRefl
    | with_reducible apply Kept.step openChunk_kept
    | with_reducible apply Kept.step touchCtx_kept
    | with_reducible apply Kept.step addExc_kept
    | with_reducible apply Kept.step State.setCtx_kept
    | with_reducible apply Kept.ite
    | decide
    | (intro _; intros; try dsimp only)
    | dsimp only
    | split

theorem deliverOne_kept {p : Pkt} {s : State} : Kept [.hst, .lnk, .srd, .fwd, .swc, .tmb, .lnd, .mil, .mem, .res, .tly, .nv, .ram, .out] s (deliverOne p s).1 := by
  unfold deliverOne
  try dsimp only
  repeat' first
    | with_reducible exact Kept.refl _
    | with_reducible exact Kept.idRefl
    | with_reducible apply Kept.step discard_kept
    | with_reducible apply Kept.step toPool_kept
    | with_reducible apply Kept.step sendRefused_kept
    | with_reducible apply Kept.step relayChunk_kept
    | with_reducible apply Kept.step takenLand_kept
    | with_reducible apply Kept.step touchCtx_kept
    | with_reducible apply Kept.step State.modCtx_kept
    | with_reducible apply Kept.step addPairs_kept
    | with_reducible apply Kept.step accept_kept
    | with_reducible apply Kept.ite
    | with_reducible apply Kept.iteFst
    | decide
    | (with_reducible apply Kept.ofFst; with_reducible assumption)
    | (intro _; intros; try dsimp only)
    | dsimp only
    | split

theorem copyCounts_kept {cid : Nat} {s : State} : Kept [.lnd] s (copyCounts cid s).1 := by
  unfold copyCounts
  try dsimp only
  repeat' first
    | with_reducible exact Kept.refl _
    | with_reducible exact Kept.idRefl
    | with_reducible apply fun hf h => Kept.trans h (forEach_kept hf)
    | with_reducible apply Kept.step State.modCtx_kept
    | with_reducible apply Kept.ite
    | with_reducible apply Kept.iteFst
    | decide
    | (intro _; intros; try dsimp only)
    | dsimp only
    | split

theorem cordonCheck_kept {cid : Nat} {s : State} : Kept [.lnd] s (cordonCheck cid s) := by
  unfold cordonCheck
  try dsimp only
  repeat' first
    | with_reducible exact Kept.refl _
    | with_reducible exact Kept.idRefl
    | with_reducible apply Kept.step State.setCtx_kept
    | with_reducible apply Kept.ite
    | with_reducible apply fun hf h => Kept.trans h (foldl_kept hf)
    | decide
    | (intro _; intros; try dsimp only)
    | dsimp only
    | split

theorem runStages_kept {cid : Nat} {k : Nat} {a2 : List Nat} {a3 : State} : Kept [.hst, .lnk, .srd, .fwd, .swc, .tmb, .lnd, .mil, .mem, .res, .tly, .nv, .ram, .out] a3 (runStages cid k a2 a3).1 := by
  induction a2 generalizing a3 with
  | nil =>
    unfold runStages
    try dsimp only
    repeat' first
      | with_reducible exact Kept.refl _
      | with_reducible exact Kept.idRefl
      | with_reducible apply Kept.step modChunk_kept
      | with_reducible apply Kept.step putItem_kept
      | with_reducible apply Kept.step addExc_kept
      | with_reducible apply Kept.step sendStage_kept
      | with_reducible apply Kept.ite
      | with_reducible apply Kept.iteFst
      | decide
  | cons x r ih =>
    unfold runStages
    try dsimp only
    repeat' first
      | with_reducible exact Kept.refl _
      | with_reducible exact Kept.idRefl
      | with_reducible apply fun h => Kept.trans h ih
      | with_reducible apply Kept.step modChunk_kept
      | with_reducible apply Kept.step putItem_kept
      | with_reducible apply Kept.step addExc_kept
      | with_reducible apply Kept.step sendStage_kept
      | with_reducible apply Kept.ite
      | with_reducible apply Kept.iteFst
      | decide
      | (with_reducible apply Kept.ofFst; with_reducible assumption)
      | (intro _; intros; try dsimp only)
      | dsimp only
      | split

theorem correctChunk_kept {cid : Nat} {k : Nat} {s : State} : Kept [.lnd, .mil, .tly] s (correctChunk cid k s) := by
  unfold correctChunk
  try dsimp only
  repeat' first
    | with_reducible exact Kept.refl _
    | with_reducible exact Kept.idRefl
    | with_reducible apply Kept.step addExc_kept
    | with_reducible apply Kept.step State.setCtx_kept
    | with_reducible apply Kept.ite
    | with_reducible apply fun hf h => Kept.trans h (foldl_kept hf)
    | decide
    | (intro _; intros; try dsimp only)
    | dsimp only
    | split

theorem progressChunk_kept {cid : Nat} {k : Nat} {s : State} : Kept [.hst, .lnk, .srd, .fwd, .swc, .tmb, .lnd, .mil, .mem, .res, .tly, .nv, .ram, .out] s (progressChunk cid k s).1 := by
  unfold progressChunk
  try dsimp only
  repeat' first
    | with_reducible exact Kept.refl _
    | with_reducible exact Kept.idRefl
    | with_reducible apply Kept.step cordonCheck_kept
    | with_reducible apply Kept.step modChunk_kept
    | with_reducible apply Kept.step runStages_kept
    | with_reducible apply Kept.step correctChunk_kept
    | with_reducible apply Kept.ite
    | with_reducible apply Kept.iteFst
    | decide
    | (with_reducible apply Kept.ofFst; with_reducible assumption)
    | (intro _; intros; try dsimp only)
    | dsimp only
    | split

theorem progressChunks_kept {cid : Nat} {a1 : List Nat} {a2 : State} : Kept [.hst, .lnk, .srd, .fwd, .swc, .tmb, .lnd, .mil, .mem, .res, .tly, .nv, .ram, .out] a2 (progressChunks cid a1 a2).1 := by
  induction a1 generalizing a2 with
  | nil =>
    unfold progressChunks
    try dsimp only
    repeat' first
      | with_reducible exact Kept.refl _
  | cons x r ih =>
    unfold progressChunks
    try dsimp only
    repeat' first
      | with_reducible exact Kept.refl _
      | with_reducible exact Kept.idRefl
      | with_reducible apply fun h => Kept.trans h ih
      | with_reducible apply Kept.step progressChunk_kept
      | decide

theorem eventStages_kept {event : Nat} {cid : Nat} {a2 : List Nat} {a3 : State} : Kept [.hst, .lnk, .srd, .fwd, .swc, .tmb, .lnd, .mil, .mem, .res, .tly, .nv, .ram, .out] a3 (eventStages event cid a2 a3).1 := by
  induction a2 generalizing a3 with
  | nil =>
    unfold eventStages
    try dsimp only
    repeat' first
      | with_reducible exact Kept.refl _
  | cons x r ih =>
    unfold eventStages
    try dsimp only
    repeat' first
      | with_reducible exact Kept.refl _
      | with_reducible exact Kept.idRefl
      | with_reducible apply fun h => Kept.trans h ih
      | with_reducible apply Kept.step eventStage_kept
      | decide

theorem rearmCtx_kept {cid : Nat} {s : State} : Kept [.lnd] s (rearmCtx cid s).1 := by
  unfold rearmCtx
  try dsimp only
  repeat' first
    | with_reducible exact Kept.refl _
    | with_reducible exact Kept.idRefl
    | with_reducible apply Kept.step State.modCtx_kept
    | (fail_if_no_progress ((with_reducible apply Kept.put_lnd); decide))
    | decide

theorem progressCtx_kept {cid : Nat} {s : State} : Kept [.hst, .lnk, .srd, .svc, .fwd, .swc, .tmb, .lnd, .mil, .mem, .res, .tly, .nv, .ram, .out] s (progressCtx cid s).1 := by
  unfold progressCtx
  try dsimp only
  repeat' first
    | with_reducible exact Kept.refl _
    | with_reducible exact Kept.idRefl
    | with_reducible apply Kept.step copyCounts_kept
    | with_reducible apply Kept.step progressChunks_kept
    | with_reducible apply Kept.step eventStages_kept
    | with_reducible apply Kept.step State.setCtx_kept
    | with_reducible apply Kept.step enterOpening_kept
    | with_reducible apply Kept.step rearmCtx_kept
    | with_reducible apply Kept.step removeCtx_kept
    | with_reducible apply Kept.ite
    | with_reducible apply Kept.iteFst
    | decide
    | (with_reducible apply Kept.ofFst; with_reducible assumption)
    | (intro _; intros; try dsimp only)
    | dsimp only
    | split

theorem releaseHeld_kept {h : HeldRes} {s : State} : Kept [.hst, .lnk, .srd, .fwd, .swc, .tmb, .lnd, .mil, .mem, .res, .tly, .nv, .ram, .out] s (releaseHeld h s).1 := by
  unfold releaseHeld
  try dsimp only
  repeat' first
    | with_reducible exact Kept.refl _
    | with_reducible exact Kept.idRefl
    | with_reducible apply Kept.step sendNow_kept
    | decide
    | (with_reducible apply Kept.ofFst; with_reducible assumption)
    | (intro _; intros; try dsimp only)
    | dsimp only
    | split

theorem releaseAll_kept {a0 : List HeldRes} {a1 : State} : Kept [.hst, .lnk, .srd, .fwd, .swc, .tmb, .lnd, .mil, .mem, .res, .tly, .nv, .ram, .out] a1 (releaseAll a0 a1).1 := by
  induction a0 generalizing a1 with
  | nil =>
    unfold releaseAll
    try dsimp only
    repeat' first
      | with_reducible exact Kept.refl _
  | cons x r ih =>
    unfold releaseAll
    try dsimp only
    repeat' first
      | with_reducible exact Kept.refl _
      | with_reducible exact Kept.idRefl
      | with_reducible apply fun h => Kept.trans h ih
      | with_reducible apply Kept.step releaseHeld_kept
      | decide

theorem triggerCtx_kept {cid : Nat} {s : State} : Kept [.hst, .lnk, .srd, .fwd, .swc, .tmb, .lnd, .mil, .mem, .res, .tly, .nv, .ram, .out] s (triggerCtx cid s).1 := by
  unfold triggerCtx
  try dsimp only
  repeat' first
    | with_reducible exact Kept.refl _
    | with_reducible exact Kept.idRefl
    | with_reducible apply Kept.step State.modCtx_kept
    | with_reducible apply Kept.step releaseAll_kept
    | with_reducible apply Kept.ite
    | with_reducible apply Kept.iteFst
    | (fail_if_no_progress ((with_reducible apply Kept.put_lnd); decide))
    | decide
    | (with_reducible apply Kept.ofFst; with_reducible assumption)
    | (intro _; intros; try dsimp only)
    | dsimp only
    | split

theorem runTasks_kept {a0 : Nat} {a1 : List LTask} {a2 : State} : Kept [.hst, .lnk, .srd, .svc, .fwd, .swc, .tmb, .lnd, .mil, .mem, .res, .tly, .nv, .ram, .out] a2 (runTasks a0 a1 a2) := by
  induction a0 generalizing a1 a2 with
  | zero => exact Kept.refl _
  | succ n ih =>
    cases a1 with
    | nil => exact Kept.refl _
    | cons x r =>
      cases x with
      | deliver => exact Kept.trans (Kept.mono deliverOne_kept (by decide)) ih
      | progress => exact Kept.trans (Kept.mono progressCtx_kept (by decide)) ih
      | trigger => exact Kept.trans (Kept.mono triggerCtx_kept (by decide)) ih

theorem landTasks_kept {l : List LTask} {s : State} : Kept [.hst, .lnk, .srd, .svc, .fwd, .swc, .tmb, .lnd, .mil, .mem, .res, .tly, .nv, .ram, .out] s (landTasks l s) := by
  unfold landTasks
  try dsimp only
  repeat' first
    | with_reducible exact Kept.refl _
    | with_reducible exact Kept.idRefl
    | with_reducible apply Kept.step runTasks_kept
    | decide

theorem kickLanding_kept {p : Pkt} {s : State} : Kept [.hst, .lnk, .srd, .svc, .fwd, .swc, .tmb, .lnd, .mil, .mem, .res, .tly, .nv, .ram, .out] s (kickLanding p s) := by
  unfold kickLanding
  try dsimp only
  repeat' first
    | with_reducible exact Kept.refl _
    | with_reducible exact Kept.idRefl
    | with_reducible apply Kept.step landTasks_kept
    | decide
    | (intro _; intros; try dsimp only)
    | dsimp only
    | split

theorem deliverLand_kept {p : Pkt} {s : State} : Kept [.hst, .lnk, .srd, .svc, .fwd, .swc, .tmb, .lnd, .mil, .mem, .res, .tly, .nv, .ram, .out] s (deliverLand p s) := by
  unfold deliverLand
  try dsimp only
  repeat' first
    | with_reducible exact Kept.refl _
    | with_reducible exact Kept.idRefl
    | with_reducible apply Kept.step landTasks_kept
    | decide

theorem memRecord_kept {words : List Nat} {s : State} : Kept [.hst, .mem, .tly, .ram, .out] s (memRecord words s).1 := by
  unfold memRecord
  try dsimp only
  repeat' first
    | with_reducible exact Kept.refl _
    | with_reducible exact Kept.idRefl
    | with_reducible apply Kept.step raiseMem_kept
    | with_reducible apply Kept.step countX_kept
    | with_reducible apply Kept.step wrMem_kept
    | with_reducible apply Kept.step fire_kept
    | with_reducible apply Kept.ite
    | with_reducible apply Kept.iteFst
    | (fail_if_no_progress ((with_reducible apply Kept.put_mem); decide))
    | decide

theorem deadTarget.write_kept {p : Pkt} {n : Nat} {first : Word × Nat × Nat} {put : DeadPair → State → State} {s : State} {L : List Blk} (hL : [.hst, .mem, .tly, .ram, .out] ⊆ L) (hput : ∀ x0 t, Kept L t (put x0 t)) : Kept L s (deadTarget.write p n first put s) := by
  unfold deadTarget.write
  try dsimp only
  repeat' first
    | with_reducible exact Kept.refl _
    | with_reducible exact Kept.idRefl
    | with_reducible apply fun h => Kept.trans h (hput _ _)
    | with_reducible apply Kept.step memRecord_kept
    | with_reducible apply Kept.step raiseMem_kept
    | with_reducible apply Kept.ite
    | with_reducible apply Kept.iteFst
    | exact List.Subset.trans (by decide) hL

theorem deadTarget_kept {p : Pkt} {s : State} : Kept [.hst, .mem, .tly, .ram, .out] s (deadTarget p s) := by
  unfold deadTarget
  try dsimp only
  repeat' first
    | with_reducible exact Kept.refl _
    | with_reducible exact Kept.idRefl
    | with_reducible apply fun hl h0 h => Kept.trans h (deadTarget.write_kept hl h0)
    | with_reducible apply Kept.ite
    | (fail_if_no_progress ((with_reducible apply Kept.put_mem); decide))
    | decide
    | (intro _; intros; try dsimp only)
    | dsimp only
    | split

theorem tdNotice_kept {p : Pkt} {s : State} : Kept [.hst, .lnk, .srd, .fwd, .swc, .tmb, .lnd, .mil, .mem, .res, .tly, .nv, .ram, .out] s (tdNotice p s) := by
  unfold tdNotice
  try dsimp only
  repeat' first
    | with_reducible exact Kept.refl _
    | with_reducible exact Kept.idRefl
    | with_reducible apply Kept.step sendControl_kept
    | with_reducible apply Kept.step raiseMem_kept
    | with_reducible apply Kept.step countX_kept
    | with_reducible apply Kept.ite
    | (fail_if_no_progress ((with_reducible apply Kept.put_mem); decide))
    | decide

theorem afterLookupFail_kept {dcode : Nat} {p : Pkt} {s : State} : Kept [.hst, .lnk, .srd, .fwd, .swc, .tmb, .lnd, .mil, .mem, .res, .tly, .nv, .ram, .out] s (afterLookupFail dcode p s) := by
  unfold afterLookupFail
  try dsimp only
  repeat' first
    | with_reducible exact Kept.refl _
    | with_reducible exact Kept.idRefl
    | with_reducible apply Kept.step deadTarget_kept
    | with_reducible apply Kept.step tdNotice_kept
    | with_reducible apply Kept.ite
    | decide

theorem setRo_kept {d : Nat} {l : List Reorder} {s : State} : Kept [.swc] s (setRo d l s) := by
  unfold setRo
  try dsimp only
  repeat' first
    | with_reducible exact Kept.refl _
    | with_reducible exact Kept.idRefl
    | (fail_if_no_progress ((with_reducible apply Kept.put_swc); decide))

theorem putRo_kept {d : Nat} {c : Reorder} {s : State} : Kept [.swc] s (putRo d c s) := by
  unfold putRo
  try dsimp only
  repeat' first
    | with_reducible exact Kept.refl _
    | with_reducible exact Kept.idRefl
    | with_reducible apply Kept.step setRo_kept
    | with_reducible apply Kept.ite
    | decide

theorem roStart_kept {d : Nat} {p : Pkt} {dest : Dest} {c : Reorder} {s : State} : Kept [.swc] s (roStart d p dest c s).1 := by
  unfold roStart
  try dsimp only
  repeat' first
    | with_reducible exact Kept.refl _
    | with_reducible exact Kept.idRefl
    | with_reducible apply Kept.step putRo_kept
    | decide

theorem countBypass_kept {d : Nat} {s : State} : Kept [.tly] s (countBypass d s) := by
  unfold countBypass
  try dsimp only
  repeat' first
    | with_reducible exact Kept.refl _
    | with_reducible exact Kept.idRefl
    | with_reducible apply Kept.step count_kept
    | decide

theorem roPass_kept {d : Nat} {p : Pkt} {dest : Dest} {c : Reorder} {s : State} : Kept [.swc, .tly] s (roPass d p dest c s).1 := by
  unfold roPass
  try dsimp only
  repeat' first
    | with_reducible exact Kept.refl _
    | with_reducible exact Kept.idRefl
    | with_reducible apply Kept.step putRo_kept
    | with_reducible apply Kept.step countBypass_kept
    | decide

theorem roHold_kept {d : Nat} {p : Pkt} {dest : Dest} {c : Reorder} {s : State} : Kept [.swc] s (roHold d p dest c s) := by
  unfold roHold
  try dsimp only
  repeat' first
    | with_reducible exact Kept.refl _
    | with_reducible exact Kept.idRefl
    | with_reducible apply Kept.step putRo_kept
    | with_reducible apply Kept.ite
    | decide

theorem roJump_kept {d : Nat} {p : Pkt} {dest : Dest} {c : Reorder} {s : State} : Kept [.swc, .tly] s (roJump d p dest c s).1 := by
  unfold roJump
  try dsimp only
  repeat' first
    | with_reducible exact Kept.refl _
    | with_reducible exact Kept.idRefl
    | with_reducible apply Kept.step putRo_kept
    | with_reducible apply Kept.step count_kept
    | decide

theorem roTimeout_kept {d : Nat} {a1 : Nat} {a2 : Reorder} {a3 : State} : Kept [.swc, .tly] a3 (roTimeout d a1 a2 a3).1 := by
  induction a1 generalizing a2 a3 with
  | zero =>
    unfold roTimeout
    try dsimp only
    repeat' first
      | with_reducible exact Kept.refl _
      | with_reducible exact Kept.idRefl
      | with_reducible apply Kept.step putRo_kept
      | with_reducible apply Kept.step count_kept
      | with_reducible apply Kept.ite
      | with_reducible apply Kept.iteFst
      | decide
  | succ n ih =>
    unfold roTimeout
    try dsimp only
    repeat' first
      | with_reducible exact Kept.refl _
      | with_reducible exact Kept.idRefl
      | with_reducible apply fun h => Kept.trans h ih
      | with_reducible apply Kept.step putRo_kept
      | with_reducible apply Kept.step count_kept
      | with_reducible apply Kept.ite
      | with_reducible apply Kept.iteFst
      | decide

theorem roInOrder_kept {d : Nat} {p : Pkt} {dest : Dest} {c : Reorder} {s : State} : Kept [.swc] s (roInOrder d p dest c s).1 := by
  unfold roInOrder
  try dsimp only
  repeat' first
    | with_reducible exact Kept.refl _
    | with_reducible exact Kept.idRefl
    | with_reducible apply Kept.step putRo_kept
    | decide

theorem roArrive_kept {d : Nat} {p : Pkt} {dest : Dest} {a3 : Nat} {a4 : List Reorder} {a5 : State} : Kept [.swc, .tly] a5 (roArrive d p dest a3 a4 a5).1 := by
  induction a3 generalizing a4 a5 with
  | zero =>
    unfold roArrive
    try dsimp only
    repeat' first
      | with_reducible exact Kept.refl _
  | succ n ih =>
    unfold roArrive
    try dsimp only
    repeat' first
      | with_reducible exact Kept.refl _
      | with_reducible exact Kept.idRefl
      | with_reducible apply fun h => Kept.trans h ih
      | with_reducible apply Kept.step countBypass_kept
      | with_reducible apply Kept.step roStart_kept
      | with_reducible apply Kept.step roInOrder_kept
      | with_reducible apply Kept.step putRo_kept
      | with_reducible apply Kept.step roJump_kept
      | with_reducible apply Kept.step roPass_kept
      | with_reducible apply Kept.step roHold_kept
      | with_reducible apply Kept.step count_kept
      | with_reducible apply Kept.ite
      | with_reducible apply Kept.iteFst
      | decide
      | (with_reducible apply Kept.ofFst; with_reducible assumption)
      | (intro _; intros; try dsimp only)
      | dsimp only
      | split

theorem readSegment_kept {n : Nat} {s : State} : Kept [.hst, .lnk, .srd, .fwd, .swc, .lnd, .mil, .res, .tly, .nv, .fresh, .out] s (readSegment n s).1 := by
  unfold readSegment
  try dsimp only
  repeat' first
    | with_reducible exact Kept.refl _
    | with_reducible exact Kept.idRefl
    | with_reducible apply fun hf h => Kept.trans h (forEach_kept hf)
    | with_reducible apply Kept.step correctAt_kept
    | with_reducible apply Kept.step eccError_kept
    | with_reducible apply Kept.step takeFree_kept
    | with_reducible apply Kept.ite
    | with_reducible apply Kept.iteFst
    | decide
    | (with_reducible apply Kept.ofSnd; with_reducible assumption)
    | (intro _; intros; try dsimp only)

theorem segmentDigest_kept {s : State} : Kept [.plt, .hst, .lnk, .srd, .fwd, .swc, .lnd, .mil, .res, .tly, .nv, .ram, .fresh, .out] s (segmentDigest s) := by
  unfold segmentDigest
  try dsimp only
  repeat' first
    | with_reducible exact Kept.refl _
    | with_reducible exact Kept.idRefl
    | with_reducible apply Kept.step readSegment_kept
    | with_reducible apply Kept.step wrMem_kept
    | with_reducible apply Kept.step raiseFwd_kept
    | with_reducible apply Kept.ite
    | with_reducible apply Kept.iteFst
    | (fail_if_no_progress ((with_reducible apply Kept.put_plt); decide; with_reducible exact rfl))
    | (fail_if_no_progress ((with_reducible apply Kept.put_fwd); decide; with_reducible exact rfl))
    | (fail_if_no_progress ((with_reducible apply Kept.put); (intro b hb; cases b <;> first | exact rfl | exact absurd (by decide) hb)))
    | decide

theorem execSegmentDigest_kept {s : State} : KeptOut [.plt, .hst, .lnk, .srd, .fwd, .swc, .lnd, .mil, .res, .tly, .nv, .ram, .fresh, .out] s (execSegmentDigest s) := by
  unfold execSegmentDigest
  try dsimp only
  repeat' first
    | with_reducible exact Kept.refl _
    | with_reducible exact Kept.idRefl
    | with_reducible apply Kept.step segmentDigest_kept
    | with_reducible apply Kept.next
    | decide

theorem fwdDoLookup_kept {a : FwdArg} {s : State} : Kept [.hst, .lnk, .srd, .fwd, .swc, .lnd, .mil, .res, .tly, .nv, .out] s (fwdDoLookup a s).1 := by
  unfold fwdDoLookup
  try dsimp only
  repeat' first
    | with_reducible exact Kept.refl _
    | with_reducible exact Kept.idRefl
    | with_reducible apply Kept.step readEnts_kept
    | with_reducible apply Kept.ite
    | with_reducible apply Kept.iteFst
    | decide
    | (with_reducible apply Kept.ofFst; with_reducible assumption)
    | (intro _; intros; try dsimp only)
    | dsimp only
    | split

theorem fwdStatus_kept {st : Nat} {s : State} : Kept [.fwd, .tly] s (fwdStatus st s) := by
  unfold fwdStatus
  try dsimp only
  repeat' first
    | with_reducible exact Kept.refl _
    | with_reducible exact Kept.idRefl
    | with_reducible apply Kept.step count_kept
    | with_reducible apply Kept.ite
    | (fail_if_no_progress ((with_reducible apply Kept.put_fwd); decide; with_reducible exact rfl))
    | decide

theorem fwdCommand_kept {p : HPort} {f : State → State} {s : State} {L : List Blk} (hL : [.hst, .fwd, .tly] ⊆ L) (hf : ∀ t, Kept L t (f t)) : Kept L s (fwdCommand p f s) := by
  unfold fwdCommand
  try dsimp only
  repeat' first
    | with_reducible exact Kept.refl _
    | with_reducible exact Kept.idRefl
    | with_reducible apply fun h => Kept.trans h (hf _)
    | with_reducible apply fun hl h0 h => Kept.trans h (hostWrite_kept hl h0)
    | with_reducible apply Kept.step fwdStatus_kept
    | with_reducible apply Kept.ite
    | (fail_if_no_progress ((with_reducible apply Kept.put_fwd); exact hL (by decide); with_reducible exact rfl))
    | exact List.Subset.trans (by decide) hL
    | exact hL (by decide)
    | exact hL
    | (intro _; intros; try dsimp only)

theorem fwdDoRead_kept {a : FwdArg} {s : State} : Kept [.hst, .lnk, .srd, .fwd, .swc, .lnd, .mil, .res, .tly, .nv, .out] s (fwdDoRead a s).1 := by
  unfold fwdDoRead
  try dsimp only
  repeat' first
    | with_reducible exact Kept.refl _
    | with_reducible exact Kept.idRefl
    | with_reducible apply Kept.step readEnts_kept
    | with_reducible apply Kept.ite
    | with_reducible apply Kept.iteFst
    | decide
    | (with_reducible apply Kept.ofFst; with_reducible assumption)
    | (intro _; intros; try dsimp only)
    | dsimp only
    | split

theorem tableChanged_kept {a : FwdArg} {index : Nat} {s : State} : Kept [.svc, .fwd, .res, .out] s (tableChanged a index s) := by
  unfold tableChanged
  try dsimp only
  repeat' first
    | with_reducible exact Kept.refl _
    | with_reducible exact Kept.idRefl
    | with_reducible apply Kept.step journal_kept
    | (fail_if_no_progress ((with_reducible apply Kept.put_fwd); decide; with_reducible exact rfl))
    | decide

theorem putEntry_kept {tbl : Nat} {b : Bool} {i : Nat} {d0 : Word} {d1 : Word} {d2 : Word} {s : State} : Kept [.fwd, .tables] s (putEntry tbl b i d0 d1 d2 s) := by
  unfold putEntry
  try dsimp only
  repeat' first
    | with_reducible exact Kept.refl _
    | with_reducible exact Kept.idRefl
    | with_reducible apply Kept.step State.setBank_kept
    | with_reducible apply Kept.step clearBad_kept
    | (fail_if_no_progress ((with_reducible apply Kept.put_fwd); decide; with_reducible exact rfl))
    | (fail_if_no_progress ((with_reducible apply Kept.put_fwd_tables); decide; decide))
    | decide
    | (intro _; intros; try dsimp only)
    | dsimp only
    | split

theorem fwdDoWrite_kept {a : FwdArg} {s : State} : Kept [.svc, .fwd, .res, .out, .tables] s (fwdDoWrite a s).1 := by
  unfold fwdDoWrite
  try dsimp only
  repeat' first
    | with_reducible exact Kept.refl _
    | with_reducible exact Kept.idRefl
    | with_reducible apply Kept.step tableChanged_kept
    | with_reducible apply Kept.step putEntry_kept
    | with_reducible apply Kept.ite
    | with_reducible apply Kept.iteFst
    | decide

theorem fwdDoInsert_kept {a : FwdArg} {s : State} : Kept [.svc, .fwd, .res, .out, .tables] s (fwdDoInsert a s).1 := by
  unfold fwdDoInsert
  try dsimp only
  repeat' first
    | with_reducible exact Kept.refl _
    | with_reducible exact Kept.idRefl
    | with_reducible apply Kept.step tableChanged_kept
    | with_reducible apply Kept.step clearBad_kept
    | with_reducible apply Kept.step State.setExact_kept
    | with_reducible apply Kept.ite
    | with_reducible apply Kept.iteFst
    | decide

theorem fwdDoDelete_kept {a : FwdArg} {s : State} : Kept [.svc, .fwd, .res, .out, .tables] s (fwdDoDelete a s).1 := by
  unfold fwdDoDelete
  try dsimp only
  repeat' first
    | with_reducible exact Kept.refl _
    | with_reducible exact Kept.idRefl
    | with_reducible apply Kept.step tableChanged_kept
    | with_reducible apply Kept.step clearBad_kept
    | with_reducible apply Kept.step State.setExact_kept
    | with_reducible apply Kept.ite
    | with_reducible apply Kept.iteFst
    | decide
    | (intro _; intros; try dsimp only)
    | dsimp only
    | split

theorem missingStatus_kept {eid : Word} {a1 : List Bool} {a2 : State} : Kept [.hst, .lnk, .srd, .fwd, .swc, .lnd, .mil, .res, .tly, .nv, .out] a2 (missingStatus eid a1 a2).1 := by
  induction a1 generalizing a2 with
  | nil =>
    unfold missingStatus
    try dsimp only
    repeat' first
      | with_reducible exact Kept.refl _
  | cons x r ih =>
    unfold missingStatus
    try dsimp only
    repeat' first
      | with_reducible exact Kept.refl _
      | with_reducible exact Kept.idRefl
      | with_reducible apply fun h => Kept.trans h ih
      | with_reducible apply Kept.step resolve_kept
      | with_reducible apply Kept.ite
      | with_reducible apply Kept.iteFst
      | decide
      | (with_reducible apply Kept.ofFst; with_reducible assumption)
      | (intro _; intros; try dsimp only)
      | dsimp only
      | split

theorem fwdDoLive_kept {a : FwdArg} {s : State} : Kept [.hst, .lnk, .srd, .svc, .fwd, .swc, .lnd, .mil, .res, .tly, .nv, .out, .tables] s (fwdDoLive a s).1 := by
  unfold fwdDoLive
  try dsimp only
  repeat' first
    | with_reducible exact Kept.refl _
    | with_reducible exact Kept.idRefl
    | with_reducible apply Kept.step missingStatus_kept
    | with_reducible apply Kept.step clearBad_kept
    | with_reducible apply Kept.step State.setExact_kept
    | with_reducible apply Kept.step tableChanged_kept
    | with_reducible apply Kept.ite
    | with_reducible apply Kept.iteFst
    | decide

theorem fwdDoCordon_kept {a : FwdArg} {s : State} : Kept [.svc, .fwd, .res, .out, .tables] s (fwdDoCordon a s).1 := by
  unfold fwdDoCordon
  try dsimp only
  repeat' first
    | with_reducible exact Kept.refl _
    | with_reducible exact Kept.idRefl
    | with_reducible apply Kept.step State.setExact_kept
    | with_reducible apply Kept.step tableChanged_kept
    | with_reducible apply Kept.ite
    | with_reducible apply Kept.iteFst
    | decide

theorem fwdDoUncordon_kept {a : FwdArg} {s : State} : Kept [.svc, .fwd, .res, .out, .tables] s (fwdDoUncordon a s).1 := by
  unfold fwdDoUncordon
  try dsimp only
  repeat' first
    | with_reducible exact Kept.refl _
    | with_reducible exact Kept.idRefl
    | with_reducible apply Kept.step State.setExact_kept
    | with_reducible apply Kept.step tableChanged_kept
    | with_reducible apply Kept.ite
    | with_reducible apply Kept.iteFst
    | decide

theorem fwdDoRepair_kept {a : FwdArg} {s : State} : Kept [.svc, .fwd, .res, .out, .tables] s (fwdDoRepair a s).1 := by
  unfold fwdDoRepair
  try dsimp only
  repeat' first
    | with_reducible exact Kept.refl _
    | with_reducible exact Kept.idRefl
    | with_reducible apply Kept.step tableChanged_kept
    | with_reducible apply Kept.step clearBad_kept
    | with_reducible apply Kept.step State.setExact_kept
    | with_reducible apply Kept.step putEntry_kept
    | with_reducible apply Kept.ite
    | with_reducible apply Kept.iteFst
    | decide

theorem fwdRun_kept {a : FwdArg} {s : State} : Kept [.hst, .lnk, .srd, .svc, .fwd, .swc, .lnd, .mil, .res, .tly, .nv, .out, .tables] s (fwdRun a s).1 := by
  unfold fwdRun
  try dsimp only
  repeat' first
    | with_reducible exact Kept.refl _
    | with_reducible exact Kept.idRefl
    | with_reducible apply Kept.step fwdDoRead_kept
    | with_reducible apply Kept.step fwdDoWrite_kept
    | with_reducible apply Kept.step fwdDoInsert_kept
    | with_reducible apply Kept.step fwdDoDelete_kept
    | with_reducible apply Kept.step fwdDoLookup_kept
    | with_reducible apply Kept.step fwdDoLive_kept
    | with_reducible apply Kept.step fwdDoCordon_kept
    | with_reducible apply Kept.step fwdDoUncordon_kept
    | with_reducible apply Kept.step fwdDoRepair_kept
    | decide
    | (with_reducible apply Kept.ofFst; with_reducible assumption)
    | (intro _; intros; try dsimp only)
    | dsimp only
    | split

theorem fwdOne_kept {op : Nat} {tbl : Nat} {b : Bool} {s : State} : Kept [.hst, .lnk, .srd, .svc, .fwd, .swc, .lnd, .mil, .res, .tly, .nv, .out, .tables] s (fwdOne op tbl b s) := by
  unfold fwdOne
  try dsimp only
  repeat' first
    | with_reducible exact Kept.refl _
    | with_reducible exact Kept.idRefl
    | with_reducible apply Kept.step fwdRun_kept
    | with_reducible apply Kept.step fwdStatus_kept
    | (fail_if_no_progress ((with_reducible apply Kept.put_fwd); decide; with_reducible exact rfl))
    | decide
    | (with_reducible apply Kept.ofFst; with_reducible assumption)
    | (intro _; intros; try dsimp only)
    | dsimp only
    | split

theorem execLiveInsert_kept {p : HPort} {s : State} : KeptOut [.hst, .lnk, .srd, .svc, .fwd, .swc, .lnd, .mil, .res, .tly, .nv, .out, .tables] s (execLiveInsert p s) := by
  unfold execLiveInsert
  try dsimp only
  repeat' first
    | with_reducible exact Kept.refl _
    | with_reducible exact Kept.idRefl
    | with_reducible apply fun hl h0 h => Kept.trans h (fwdCommand_kept hl h0)
    | with_reducible apply Kept.step fwdOne_kept
    | with_reducible apply Kept.next
    | decide
    | (intro _; intros; try dsimp only)

theorem execFwdRead_kept {p : HPort} {tbl : BitVec 4} {bank : Bool} {s : State} : KeptOut [.hst, .lnk, .srd, .svc, .fwd, .swc, .lnd, .mil, .res, .tly, .nv, .out, .tables] s (execFwdRead p tbl bank s) := by
  unfold execFwdRead
  try dsimp only
  repeat' first
    | with_reducible exact Kept.refl _
    | with_reducible exact Kept.idRefl
    | with_reducible apply fun hl h0 h => Kept.trans h (fwdCommand_kept hl h0)
    | with_reducible apply Kept.step fwdOne_kept
    | with_reducible apply Kept.next
    | decide
    | (intro _; intros; try dsimp only)

theorem writeLearn_kept {note : List Byte} {s : State} : Kept [.hst, .fwd, .ram, .out] s (writeLearn note s) := by
  unfold writeLearn
  try dsimp only
  repeat' first
    | with_reducible exact Kept.refl _
    | with_reducible exact Kept.idRefl
    | with_reducible apply Kept.step wrMem_kept
    | with_reducible apply Kept.step fire_kept
    | (fail_if_no_progress ((with_reducible apply Kept.put_fwd); decide; with_reducible exact rfl))
    | decide

theorem deliverLearn_kept {note : List Byte} {s : State} : Kept [.hst, .svc, .fwd, .tly, .ram, .out] s (deliverLearn note s) := by
  unfold deliverLearn
  try dsimp only
  repeat' first
    | with_reducible exact Kept.refl _
    | with_reducible exact Kept.idRefl
    | with_reducible apply Kept.step writeLearn_kept
    | with_reducible apply Kept.step sendRing_kept
    | with_reducible apply Kept.step raiseFwd_kept
    | with_reducible apply Kept.step countX_kept
    | with_reducible apply Kept.ite
    | decide

theorem learnCheck.go_kept {port : Nat} {p : Pkt} {reason : Nat} {src : Word} {s : State} : Kept [.hst, .svc, .fwd, .tly, .ram, .out] s (learnCheck.go port p reason src s) := by
  unfold learnCheck.go
  try dsimp only
  repeat' first
    | with_reducible exact Kept.refl _
    | with_reducible exact Kept.idRefl
    | with_reducible apply Kept.step count_kept
    | with_reducible apply Kept.step deliverLearn_kept
    | with_reducible apply Kept.ite
    | (fail_if_no_progress ((with_reducible apply Kept.put_fwd); decide; with_reducible exact rfl))
    | decide

theorem execCordonSet_kept {p : HPort} {s : State} : KeptOut [.hst, .lnk, .srd, .svc, .fwd, .swc, .lnd, .mil, .res, .tly, .nv, .out, .tables] s (execCordonSet p s) := by
  unfold execCordonSet
  try dsimp only
  repeat' first
    | with_reducible exact Kept.refl _
    | with_reducible exact Kept.idRefl
    | with_reducible apply fun hl h0 h => Kept.trans h (fwdCommand_kept hl h0)
    | with_reducible apply Kept.step fwdOne_kept
    | with_reducible apply Kept.next
    | decide
    | (intro _; intros; try dsimp only)

theorem execExDelete_kept {p : HPort} {tbl : BitVec 4} {bank : Bool} {s : State} : KeptOut [.hst, .lnk, .srd, .svc, .fwd, .swc, .lnd, .mil, .res, .tly, .nv, .out, .tables] s (execExDelete p tbl bank s) := by
  unfold execExDelete
  try dsimp only
  repeat' first
    | with_reducible exact Kept.refl _
    | with_reducible exact Kept.idRefl
    | with_reducible apply fun hl h0 h => Kept.trans h (fwdCommand_kept hl h0)
    | with_reducible apply Kept.step fwdOne_kept
    | with_reducible apply Kept.next
    | decide
    | (intro _; intros; try dsimp only)

theorem runBatch_kept {a0 : Nat} {a1 : Nat} {a2 : State} : Kept [.hst, .lnk, .srd, .svc, .fwd, .swc, .lnd, .mil, .res, .tly, .nv, .out, .tables] a2 (runBatch a0 a1 a2) := by
  induction a0 generalizing a1 a2 with
  | zero =>
    unfold runBatch
    try dsimp only
    repeat' first
      | with_reducible exact Kept.refl _
      | with_reducible exact Kept.idRefl
      | with_reducible apply Kept.step fwdStatus_kept
      | with_reducible apply Kept.step fwdRun_kept
      | with_reducible apply Kept.ite
      | with_reducible apply Kept.iteFst
      | (fail_if_no_progress ((with_reducible apply Kept.put_fwd); decide; with_reducible exact rfl))
      | decide
  | succ n ih =>
    unfold runBatch
    try dsimp only
    repeat' first
      | with_reducible exact Kept.refl _
      | with_reducible exact Kept.idRefl
      | with_reducible apply fun h => Kept.trans h ih
      | with_reducible apply Kept.step fwdStatus_kept
      | with_reducible apply Kept.step fwdRun_kept
      | with_reducible apply Kept.ite
      | with_reducible apply Kept.iteFst
      | (fail_if_no_progress ((with_reducible apply Kept.put_fwd); decide; with_reducible exact rfl))
      | decide

theorem execBatch_kept {p : HPort} {s : State} : KeptOut [.hst, .lnk, .srd, .svc, .fwd, .swc, .lnd, .mil, .res, .tly, .nv, .out, .tables] s (execBatch p s) := by
  unfold execBatch
  try dsimp only
  repeat' first
    | with_reducible exact Kept.refl _
    | with_reducible exact Kept.idRefl
    | with_reducible apply fun hl h0 h => Kept.trans h (fwdCommand_kept hl h0)
    | with_reducible apply Kept.step runBatch_kept
    | with_reducible apply Kept.next
    | decide
    | (intro _; intros; try dsimp only)

theorem execConfirm_kept {p : HPort} {s : State} : KeptOut [.hst, .fwd, .tly, .tables] s (execConfirm p s) := by
  unfold execConfirm
  try dsimp only
  repeat' first
    | with_reducible exact Kept.refl _
    | with_reducible exact Kept.idRefl
    | with_reducible apply fun hl h0 h => Kept.trans h (fwdCommand_kept hl h0)
    | with_reducible apply Kept.step fwdStatus_kept
    | with_reducible apply Kept.ite
    | (fail_if_no_progress ((with_reducible apply Kept.put_fwd); decide; with_reducible exact rfl))
    | (fail_if_no_progress ((with_reducible apply Kept.put_fwd_tables); decide; decide))
    | with_reducible apply Kept.next
    | decide
    | (intro _; intros; try dsimp only)

theorem takeLearnRelay_kept {msg : List Byte} {s : State} : Kept [.hst, .svc, .fwd, .ram, .out] s (takeLearnRelay msg s) := by
  unfold takeLearnRelay
  try dsimp only
  repeat' first
    | with_reducible exact Kept.refl _
    | with_reducible exact Kept.idRefl
    | with_reducible apply Kept.step writeLearn_kept
    | with_reducible apply Kept.step sendRing_kept
    | with_reducible apply Kept.ite
    | decide

theorem execLearnRelay_kept {lane : Fin 2} {codes : List Code} {s : State} : KeptOut [.hst, .svc, .fwd, .tly, .ram, .out] s (execLearnRelay lane codes s) := by
  unfold execLearnRelay
  try dsimp only
  repeat' first
    | with_reducible exact Kept.refl _
    | with_reducible exact Kept.idRefl
    | with_reducible apply fun hl h0 h => Kept.trans h (onRing_kept hl h0)
    | with_reducible apply Kept.step takeLearnRelay_kept
    | with_reducible apply Kept.next
    | decide
    | (intro _; intros; try dsimp only)

theorem learnCheck_kept {port : Nat} {p : Pkt} {s : State} : Kept [.hst, .lnk, .srd, .svc, .fwd, .swc, .lnd, .mil, .res, .tly, .nv, .ram, .out] s (learnCheck port p s) := by
  unfold learnCheck
  try dsimp only
  repeat' first
    | with_reducible exact Kept.refl _
    | with_reducible exact Kept.idRefl
    | with_reducible apply Kept.step resolve_kept
    | with_reducible apply Kept.step learnCheck.go_kept
    | with_reducible apply Kept.ite
    | with_reducible apply Kept.iteFst
    | (fail_if_no_progress ((with_reducible apply Kept.put_fwd); decide; with_reducible exact rfl))
    | decide
    | (with_reducible apply Kept.ofFst; with_reducible assumption)
    | (intro _; intros; try dsimp only)
    | dsimp only
    | split

theorem execExLookup_kept {p : HPort} {tbl : BitVec 4} {bank : Bool} {s : State} : KeptOut [.hst, .lnk, .srd, .svc, .fwd, .swc, .lnd, .mil, .res, .tly, .nv, .out, .tables] s (execExLookup p tbl bank s) := by
  unfold execExLookup
  try dsimp only
  repeat' first
    | with_reducible exact Kept.refl _
    | with_reducible exact Kept.idRefl
    | with_reducible apply fun hl h0 h => Kept.trans h (fwdCommand_kept hl h0)
    | with_reducible apply Kept.step fwdOne_kept
    | with_reducible apply Kept.next
    | decide
    | (intro _; intros; try dsimp only)

theorem placeMarkers_kept {bank : Bool} {job : BitVec 20} {ids : List Nat} {s : State} : Kept [.hst, .swc, .tmb, .lnd, .tly, .ram, .out] s (placeMarkers bank job ids s) := by
  unfold placeMarkers
  try dsimp only
  repeat' first
    | with_reducible exact Kept.refl _
    | with_reducible exact Kept.idRefl
    | with_reducible apply Kept.step modFences_kept
    | with_reducible apply fun hf h => Kept.trans h (forEach_kept hf)
    | with_reducible apply Kept.step pushMarker_kept
    | with_reducible apply Kept.ite
    | decide
    | (intro _; intros; try dsimp only)

theorem placeAll_kept {bank : Bool} {s : State} : Kept [.hst, .swc, .tmb, .lnd, .tly, .ram, .out] s (placeAll bank s) := by
  unfold placeAll
  try dsimp only
  repeat' first
    | with_reducible exact Kept.refl _
    | with_reducible exact Kept.idRefl
    | with_reducible apply fun hf h => Kept.trans h (forEach_kept hf)
    | with_reducible apply Kept.step placeMarkers_kept
    | decide
    | (intro _; intros; try dsimp only)

theorem execCordonClr_kept {p : HPort} {s : State} : KeptOut [.hst, .lnk, .srd, .svc, .fwd, .swc, .lnd, .mil, .res, .tly, .nv, .out, .tables] s (execCordonClr p s) := by
  unfold execCordonClr
  try dsimp only
  repeat' first
    | with_reducible exact Kept.refl _
    | with_reducible exact Kept.idRefl
    | with_reducible apply fun hl h0 h => Kept.trans h (fwdCommand_kept hl h0)
    | with_reducible apply Kept.step fwdOne_kept
    | with_reducible apply Kept.next
    | decide
    | (intro _; intros; try dsimp only)

theorem doFlip_kept {s : State} : Kept [.hst, .fwd, .swc, .tmb, .lnd, .tly, .ram, .out, .tables] s (doFlip s) := by
  unfold doFlip
  try dsimp only
  repeat' first
    | with_reducible exact Kept.refl _
    | with_reducible exact Kept.idRefl
    | with_reducible apply Kept.step placeAll_kept
    | with_reducible apply Kept.step raiseFwd_kept
    | with_reducible apply Kept.ite
    | (fail_if_no_progress ((with_reducible apply Kept.put_fwd); decide; with_reducible exact rfl))
    | (fail_if_no_progress ((with_reducible apply Kept.put_fwd_tables); decide; decide))
    | decide

theorem execFlip_kept {p : HPort} {s : State} : KeptOut [.hst, .fwd, .swc, .tmb, .lnd, .tly, .ram, .out, .tables] s (execFlip p s) := by
  unfold execFlip
  try dsimp only
  repeat' first
    | with_reducible exact Kept.refl _
    | with_reducible exact Kept.idRefl
    | with_reducible apply fun hl h0 h => Kept.trans h (fwdCommand_kept hl h0)
    | with_reducible apply Kept.step fwdStatus_kept
    | with_reducible apply Kept.step doFlip_kept
    | with_reducible apply Kept.ite
    | with_reducible apply Kept.next
    | decide
    | (intro _; intros; try dsimp only)

theorem execRepair_kept {p : HPort} {tbl : BitVec 4} {bank : Bool} {s : State} : KeptOut [.hst, .lnk, .srd, .svc, .fwd, .swc, .lnd, .mil, .res, .tly, .nv, .out, .tables] s (execRepair p tbl bank s) := by
  unfold execRepair
  try dsimp only
  repeat' first
    | with_reducible exact Kept.refl _
    | with_reducible exact Kept.idRefl
    | with_reducible apply fun hl h0 h => Kept.trans h (fwdCommand_kept hl h0)
    | with_reducible apply Kept.step fwdOne_kept
    | with_reducible apply Kept.next
    | decide
    | (intro _; intros; try dsimp only)

theorem execFwdWrite_kept {p : HPort} {tbl : BitVec 4} {bank : Bool} {s : State} : KeptOut [.hst, .lnk, .srd, .svc, .fwd, .swc, .lnd, .mil, .res, .tly, .nv, .out, .tables] s (execFwdWrite p tbl bank s) := by
  unfold execFwdWrite
  try dsimp only
  repeat' first
    | with_reducible exact Kept.refl _
    | with_reducible exact Kept.idRefl
    | with_reducible apply fun hl h0 h => Kept.trans h (fwdCommand_kept hl h0)
    | with_reducible apply Kept.step fwdOne_kept
    | with_reducible apply Kept.next
    | decide
    | (intro _; intros; try dsimp only)

theorem execExInsert_kept {p : HPort} {tbl : BitVec 4} {bank : Bool} {s : State} : KeptOut [.hst, .lnk, .srd, .svc, .fwd, .swc, .lnd, .mil, .res, .tly, .nv, .out, .tables] s (execExInsert p tbl bank s) := by
  unfold execExInsert
  try dsimp only
  repeat' first
    | with_reducible exact Kept.refl _
    | with_reducible exact Kept.idRefl
    | with_reducible apply fun hl h0 h => Kept.trans h (fwdCommand_kept hl h0)
    | with_reducible apply Kept.step fwdOne_kept
    | with_reducible apply Kept.next
    | decide
    | (intro _; intros; try dsimp only)

theorem shortRepl_kept {group : Nat} {p : Pkt} {out : Option Nat} {s : State} : Kept [.hst, .fwd, .swc, .tmb, .tly, .ram, .out] s (shortRepl group p out s) := by
  unfold shortRepl
  try dsimp only
  repeat' first
    | with_reducible exact Kept.refl _
    | with_reducible exact Kept.idRefl
    | with_reducible apply Kept.step capture_kept
    | with_reducible apply Kept.step countDiscard_kept
    | (fail_if_no_progress ((with_reducible apply Kept.put_fwd); decide; with_reducible exact rfl))
    | decide

theorem placeOutput_kept {hop : Hop} {p : Pkt} {s : State} : Kept [.hst, .lnk, .fwd, .swc, .tmb, .lnd, .mem, .tly, .ram, .out] s (placeOutput hop p s) := by
  unfold placeOutput
  try dsimp only
  repeat' first
    | with_reducible exact Kept.refl _
    | with_reducible exact Kept.idRefl
    | with_reducible apply Kept.step discard_kept
    | with_reducible apply Kept.step windfall_kept
    | with_reducible apply Kept.step originateAny_kept
    | with_reducible apply Kept.ite
    | decide
    | (intro _; intros; try dsimp only)
    | dsimp only
    | split

theorem placeHop_kept {hop : Hop} {p : Pkt} {s : State} : Kept [.hst, .lnk, .fwd, .swc, .tmb, .lnd, .mem, .tly, .ram, .out] s (placeHop hop p s).1 := by
  unfold placeHop
  try dsimp only
  repeat' first
    | with_reducible exact Kept.refl _
    | with_reducible exact Kept.idRefl
    | with_reducible apply Kept.step discard_kept
    | with_reducible apply Kept.step windfall_kept
    | with_reducible apply Kept.step writeOut_kept
    | with_reducible apply Kept.step schedOverflow_kept
    | with_reducible apply Kept.ite
    | with_reducible apply Kept.iteFst
    | decide
    | (intro _; intros; try dsimp only)
    | dsimp only
    | split

theorem placeFlow_kept {bid : Nat} {hop : Hop} {p : Pkt} {s : State} : Kept [.hst, .lnk, .fwd, .swc, .tmb, .lnd, .mil, .mem, .tly, .ram, .out] s (placeFlow bid hop p s).1 := by
  unfold placeFlow
  try dsimp only
  repeat' first
    | with_reducible exact Kept.refl _
    | with_reducible exact Kept.idRefl
    | with_reducible apply Kept.step placeHop_kept
    | with_reducible apply Kept.step raiseMil_kept
    | with_reducible apply Kept.step discard_kept
    | with_reducible apply Kept.step putItem_kept
    | with_reducible apply Kept.step returnCredit_kept
    | with_reducible apply Kept.ite
    | with_reducible apply Kept.iteFst
    | decide
    | (with_reducible apply Kept.ofFst; with_reducible assumption)
    | (intro _; intros; try dsimp only)
    | dsimp only
    | split

theorem endRepl_kept {p : Pkt} {s : State} : Kept [.hst, .lnk, .fwd, .lnd, .tly, .ram, .out] s (endRepl p s) := by
  unfold endRepl
  try dsimp only
  repeat' first
    | with_reducible exact Kept.refl _
    | with_reducible exact Kept.idRefl
    | with_reducible apply Kept.step returnCredit_kept
    | with_reducible apply Kept.step leaveCount_kept
    | with_reducible apply Kept.step preLeave_kept
    | decide

theorem runRepl_kept {a0 : Nat} {a1 : ReplWait} {a2 : State} : Kept [.hst, .lnk, .srd, .fwd, .swc, .tmb, .lnd, .mil, .mem, .res, .tly, .nv, .ram, .out] a2 (runRepl a0 a1 a2).1 := by
  induction a0 generalizing a1 a2 with
  | zero =>
    unfold runRepl
    try dsimp only
    repeat' first
      | with_reducible exact Kept.refl _
      | with_reducible exact Kept.idRefl
      | with_reducible apply Kept.step endRepl_kept
      | with_reducible apply Kept.step readMember_kept
      | with_reducible apply Kept.step discard_kept
      | with_reducible apply Kept.step shortRepl_kept
      | with_reducible apply Kept.step windfall_kept
      | with_reducible apply Kept.step pushMarker_kept
      | with_reducible apply Kept.step writeHop_kept
      | with_reducible apply Kept.step schedOverflow_kept
      | with_reducible apply Kept.ite
      | with_reducible apply Kept.iteFst
      | decide
  | succ n ih =>
    unfold runRepl
    try dsimp only
    repeat' first
      | with_reducible exact Kept.refl _
      | with_reducible exact Kept.idRefl
      | with_reducible apply fun h => Kept.trans h ih
      | with_reducible apply Kept.step endRepl_kept
      | with_reducible apply Kept.step readMember_kept
      | with_reducible apply Kept.step discard_kept
      | with_reducible apply Kept.step shortRepl_kept
      | with_reducible apply Kept.step windfall_kept
      | with_reducible apply Kept.step pushMarker_kept
      | with_reducible apply Kept.step writeHop_kept
      | with_reducible apply Kept.step schedOverflow_kept
      | with_reducible apply Kept.ite
      | with_reducible apply Kept.iteFst
      | decide
      | (with_reducible apply Kept.ofFst; with_reducible assumption)
      | (intro _; intros; try dsimp only)
      | dsimp only
      | split

theorem startRepl_kept {p : Pkt} {s : State} : Kept [.hst, .lnk, .srd, .fwd, .swc, .tmb, .lnd, .mil, .mem, .res, .tly, .nv, .ram, .out] s (startRepl p s) := by
  unfold startRepl
  try dsimp only
  repeat' first
    | with_reducible exact Kept.refl _
    | with_reducible exact Kept.idRefl
    | with_reducible apply Kept.step runRepl_kept
    | (fail_if_no_progress ((with_reducible apply Kept.put_swc); decide))
    | decide
    | (with_reducible apply Kept.ofFst; with_reducible assumption)
    | (intro _; intros; try dsimp only)
    | dsimp only
    | split

theorem takeControl_kept {p : Pkt} {s : State} : Kept [.hst, .lnk, .fwd, .swc, .tmb, .lnd, .tly, .ram, .out] s (takeControl p s) := by
  unfold takeControl
  try dsimp only
  repeat' first
    | with_reducible exact Kept.refl _
    | with_reducible exact Kept.idRefl
    | with_reducible apply Kept.step takenLand_kept
    | with_reducible apply Kept.step discard_kept
    | with_reducible apply Kept.ite
    | decide

theorem takeLocal_kept {p : Pkt} {s : State} : Kept [.hst, .lnk, .srd, .svc, .fwd, .swc, .tmb, .lnd, .mil, .mem, .res, .tly, .nv, .ram, .out] s (takeLocal p s) := by
  unfold takeLocal
  try dsimp only
  repeat' first
    | with_reducible exact Kept.refl _
    | with_reducible exact Kept.idRefl
    | with_reducible apply Kept.step takeControl_kept
    | with_reducible apply Kept.step discard_kept
    | with_reducible apply Kept.step deliverLand_kept
    | with_reducible apply Kept.ite
    | decide

theorem place_kept {dest : Dest} {p : Pkt} {s : State} : Kept [.hst, .lnk, .srd, .svc, .fwd, .swc, .tmb, .lnd, .mil, .mem, .res, .tly, .nv, .ram, .out] s (place dest p s).1 := by
  unfold place
  try dsimp only
  repeat' first
    | with_reducible exact Kept.refl _
    | with_reducible exact Kept.idRefl
    | with_reducible apply Kept.step placeFlow_kept
    | with_reducible apply Kept.step placeOutput_kept
    | with_reducible apply Kept.step startRepl_kept
    | with_reducible apply Kept.step takeLocal_kept
    | with_reducible apply Kept.step placeHop_kept
    | decide
    | (with_reducible apply Kept.ofFst; with_reducible assumption)
    | (intro _; intros; try dsimp only)
    | dsimp only
    | split

theorem setFifo_kept {port : Nat} {tc : Nat} {l : List Held} {s : State} : Kept [.swc] s (setFifo port tc l s) := by
  unfold setFifo
  try dsimp only
  repeat' first
    | with_reducible exact Kept.refl _
    | with_reducible exact Kept.idRefl
    | (fail_if_no_progress ((with_reducible apply Kept.put_swc); decide))

theorem holdPkt_kept {h : Held} {s : State} : Kept [.swc] s (holdPkt h s) := by
  unfold holdPkt
  try dsimp only
  repeat' first
    | with_reducible exact Kept.refl _
    | with_reducible exact Kept.idRefl
    | with_reducible apply Kept.step setFifo_kept
    | with_reducible apply Kept.ite
    | decide

theorem toEgress_kept {dest : Dest} {p : Pkt} {s : State} : Kept [.hst, .lnk, .srd, .svc, .fwd, .swc, .tmb, .lnd, .mil, .mem, .res, .tly, .nv, .ram, .out] s (toEgress dest p s) := by
  unfold toEgress
  try dsimp only
  repeat' first
    | with_reducible exact Kept.refl _
    | with_reducible exact Kept.idRefl
    | with_reducible apply Kept.step place_kept
    | with_reducible apply Kept.step holdPkt_kept
    | with_reducible apply Kept.ite
    | with_reducible apply Kept.iteFst
    | decide
    | (with_reducible apply Kept.ofFst; with_reducible assumption)
    | (intro _; intros; try dsimp only)
    | dsimp only
    | split

theorem applyRo_kept {a0 : List RoAct} {a1 : State} : Kept [.hst, .lnk, .srd, .svc, .fwd, .swc, .tmb, .lnd, .mil, .mem, .res, .tly, .nv, .ram, .out] a1 (applyRo a0 a1) := by
  induction a0 generalizing a1 with
  | nil => exact Kept.refl _
  | cons x r ih =>
    cases x with
    | drop => exact Kept.trans (Kept.mono discard_kept (by decide)) ih
    | out =>
      unfold applyRo
      refine Kept.trans ?_ ih
      split
      · exact Kept.mono windfall_kept (by decide)
      · exact Kept.mono toEgress_kept (by decide)

theorem toCrossbar_kept {dest : Dest} {p : Pkt} {s : State} : Kept [.hst, .lnk, .srd, .svc, .fwd, .swc, .tmb, .lnd, .mil, .mem, .res, .tly, .nv, .ram, .out] s (toCrossbar dest p s) := by
  unfold toCrossbar
  try dsimp only
  repeat' first
    | with_reducible exact Kept.refl _
    | with_reducible exact Kept.idRefl
    | with_reducible apply Kept.step toEgress_kept
    | with_reducible apply Kept.step roArrive_kept
    | with_reducible apply Kept.step applyRo_kept
    | with_reducible apply Kept.ite
    | with_reducible apply Kept.iteFst
    | decide
    | (with_reducible apply Kept.ofFst; with_reducible assumption)
    | (intro _; intros; try dsimp only)
    | dsimp only
    | split

theorem fillPolicer_kept {port : Nat} {s : State} : Kept [.swc] s (fillPolicer port s) := by
  unfold fillPolicer
  try dsimp only
  repeat' first
    | with_reducible exact Kept.refl _
    | with_reducible exact Kept.idRefl
    | with_reducible apply Kept.step State.modSched_kept
    | decide

theorem chargePolicer_kept {port : Nat} {p : Pkt} {s : State} : Kept [.swc] s (chargePolicer port p s) := by
  unfold chargePolicer
  try dsimp only
  repeat' first
    | with_reducible exact Kept.refl _
    | with_reducible exact Kept.idRefl
    | with_reducible apply Kept.step State.modSched_kept
    | decide

theorem step4_kept {dest : Dest} {p : Pkt} {s : State} : Kept [.hst, .lnk, .srd, .svc, .fwd, .swc, .tmb, .lnd, .mil, .mem, .res, .tly, .nv, .ram, .out] s (step4 dest p s) := by
  unfold step4
  try dsimp only
  repeat' first
    | with_reducible exact Kept.refl _
    | with_reducible exact Kept.idRefl
    | with_reducible apply Kept.step admitPkt_kept
    | with_reducible apply Kept.step toCrossbar_kept
    | with_reducible apply Kept.step discard_kept
    | with_reducible apply Kept.step fillPolicer_kept
    | with_reducible apply Kept.step holdPkt_kept
    | with_reducible apply Kept.step chargePolicer_kept
    | with_reducible apply Kept.ite
    | with_reducible apply Kept.iteFst
    | decide
    | (with_reducible apply Kept.ofFst; with_reducible assumption)
    | (intro _; intros; try dsimp only)
    | dsimp only
    | split

theorem afterLookup_kept {d : Dest} {p : Pkt} {s : State} : Kept [.hst, .lnk, .srd, .svc, .fwd, .swc, .tmb, .lnd, .mil, .mem, .res, .tly, .nv, .ram, .out] s (afterLookup d p s) := by
  unfold afterLookup
  try dsimp only
  repeat' first
    | with_reducible exact Kept.refl _
    | with_reducible exact Kept.idRefl
    | with_reducible apply Kept.step step4_kept
    | with_reducible apply Kept.step toCrossbar_kept
    | with_reducible apply Kept.step raiseMil_kept
    | with_reducible apply Kept.step discard_kept
    | with_reducible apply Kept.ite
    | decide
    | (intro _; intros; try dsimp only)
    | dsimp only
    | split

theorem pipeline_kept {upsets : List Upset} {p : Pkt} {s : State} : Kept [.hst, .lnk, .srd, .svc, .fwd, .swc, .tmb, .lnd, .mil, .mem, .res, .tly, .nv, .ram, .out] s (pipeline upsets p s) := by
  unfold pipeline
  try dsimp only
  repeat' first
    | with_reducible exact Kept.refl _
    | with_reducible exact Kept.idRefl
    | with_reducible apply Kept.step preEnter_kept
    | with_reducible apply Kept.step enterCount_kept
    | with_reducible apply fun hf h => Kept.trans h (forEach_kept hf)
    | with_reducible apply Kept.step applyUpset_kept
    | with_reducible apply Kept.step lookup_kept
    | with_reducible apply Kept.step discard_kept
    | with_reducible apply Kept.step admitPkt_kept
    | with_reducible apply Kept.step afterLookupFail_kept
    | with_reducible apply Kept.step afterLookup_kept
    | with_reducible apply Kept.step learnCheck_kept
    | with_reducible apply Kept.ite
    | with_reducible apply Kept.iteFst
    | decide
    | (with_reducible apply Kept.ofFst; with_reducible assumption)
    | (intro _; intros; try dsimp only)
    | dsimp only
    | split

theorem ingest_kept {upsets : List Upset} {pcrcOk : Bool} {proto : Bool} {p : Pkt} {s : State} : Kept [.hst, .lnk, .srd, .svc, .fwd, .swc, .tmb, .lnd, .mil, .mem, .res, .tly, .nv, .ram, .out] s (ingest upsets pcrcOk proto p s) := by
  unfold ingest
  try dsimp only
  repeat' first
    | with_reducible exact Kept.refl _
    | with_reducible exact Kept.idRefl
    | with_reducible apply Kept.step countN_kept
    | with_reducible apply Kept.step count_kept
    | with_reducible apply Kept.step setLnkErr_kept
    | with_reducible apply Kept.step discard_kept
    | with_reducible apply Kept.step State.modLink_kept
    | with_reducible apply Kept.step sendRefused_kept
    | with_reducible apply Kept.step pipeline_kept
    | with_reducible apply Kept.ite
    | decide
    | (intro _; intros; try dsimp only)
    | dsimp only
    | split

theorem takePacket_kept {port : Nat} {bytes : List Byte} {upsets : List Upset} {s : State} : Kept [.hst, .lnk, .srd, .svc, .fwd, .swc, .tmb, .lnd, .mil, .mem, .res, .tly, .nv, .ram, .out] s (takePacket port bytes upsets s) := by
  unfold takePacket
  try dsimp only
  repeat' first
    | with_reducible exact Kept.refl _
    | with_reducible exact Kept.idRefl
    | with_reducible apply Kept.step setLnkErr_kept
    | with_reducible apply Kept.step discard_kept
    | with_reducible apply Kept.step ingest_kept
    | with_reducible apply Kept.ite
    | decide

theorem popHead_kept {port : Nat} {tc : Nat} {s : State} : Kept [.hst, .swc, .lnd, .tly, .ram, .out] s (popHead port tc s) := by
  unfold popHead
  try dsimp only
  repeat' first
    | with_reducible exact Kept.refl _
    | with_reducible exact Kept.idRefl
    | with_reducible apply Kept.step settleQueue_kept
    | with_reducible apply Kept.step consumeFront_kept
    | decide

theorem markerLeft_kept {p : Pkt} {s : State} : Kept [.hst, .lnd, .tly, .ram, .out] s (markerLeft p s) := by
  unfold markerLeft
  try dsimp only
  repeat' first
    | with_reducible exact Kept.refl _
    | with_reducible exact Kept.idRefl
    | with_reducible apply Kept.step fenceMark_kept
    | with_reducible apply Kept.ite
    | (fail_if_no_progress ((with_reducible apply Kept.put_lnd); decide))
    | decide
    | (intro _; intros; try dsimp only)
    | dsimp only
    | split

theorem sendHead_kept {port : Nat} {tc : Nat} {p : Pkt} {o : Pkt} {s : State} : Kept [.hst, .lnk, .fwd, .swc, .tmb, .lnd, .tly, .ram, .out] s (sendHead port tc p o s) := by
  unfold sendHead
  try dsimp only
  repeat' first
    | with_reducible exact Kept.refl _
    | with_reducible exact Kept.idRefl
    | with_reducible apply Kept.step State.modSched_kept
    | with_reducible apply Kept.step popHead_kept
    | with_reducible apply Kept.step State.modLink_kept
    | with_reducible apply Kept.step countN_kept
    | with_reducible apply Kept.step count_kept
    | with_reducible apply Kept.step modMap_kept
    | with_reducible apply Kept.step leaveCount_kept
    | with_reducible apply Kept.step markerLeft_kept
    | with_reducible apply Kept.ite
    | decide

theorem serve_kept {a0 : Nat} {a1 : Nat} {a2 : State} : Kept [.hst, .lnk, .fwd, .swc, .tmb, .lnd, .mem, .tly, .ram, .out] a2 (serve a0 a1 a2) := by
  induction a0 generalizing a1 a2 with
  | zero =>
    unfold serve
    try dsimp only
    repeat' first
      | with_reducible exact Kept.refl _
  | succ n ih =>
    unfold serve
    try dsimp only
    repeat' first
      | with_reducible exact Kept.refl _
      | with_reducible exact Kept.idRefl
      | with_reducible apply fun h => Kept.trans h ih
      | with_reducible apply Kept.step consumeFront_kept
      | with_reducible apply Kept.step closeComb_kept
      | with_reducible apply Kept.step freeComb_kept
      | with_reducible apply Kept.step windfall_kept
      | with_reducible apply Kept.step popHead_kept
      | with_reducible apply Kept.step discardQ_kept
      | with_reducible apply Kept.step sendHead_kept
      | with_reducible apply Kept.ite
      | decide
      | (intro _; intros; try dsimp only)
      | dsimp only
      | split

theorem dropFlow_kept {dcode : Nat} {e : Pkt × Hop} {s : State} : Kept [.hst, .lnk, .fwd, .swc, .tmb, .lnd, .tly, .ram, .out] s (dropFlow dcode e s) := by
  unfold dropFlow
  try dsimp only
  repeat' first
    | with_reducible exact Kept.refl _
    | with_reducible exact Kept.idRefl
    | with_reducible apply Kept.step discard_kept
    | decide

theorem sweepRepl_kept {d : Nat} {s : State} : Kept [.hst, .lnk, .srd, .fwd, .swc, .tmb, .lnd, .mil, .mem, .res, .tly, .nv, .ram, .out] s (sweepRepl d s) := by
  unfold sweepRepl
  try dsimp only
  repeat' first
    | with_reducible exact Kept.refl _
    | with_reducible exact Kept.idRefl
    | with_reducible apply fun hf h => Kept.trans h (forEach_kept hf)
    | with_reducible apply Kept.step runRepl_kept
    | (fail_if_no_progress ((with_reducible apply Kept.put_swc); decide))
    | decide
    | (with_reducible apply Kept.ofFst; with_reducible assumption)
    | (intro _; intros; try dsimp only)

theorem purgeQueue_kept {bad : Pkt → Bool} {drop : Pkt → Nat → State → State} {key : Nat} {s : State} {L : List Blk} (hL : [.hst, .swc, .lnd, .mem, .tly, .ram, .out] ⊆ L) (hdrop : ∀ x0 x1 t, Kept L t (drop x0 x1 t)) : Kept L s (purgeQueue bad drop key s) := by
  unfold purgeQueue
  try dsimp only
  repeat' first
    | with_reducible exact Kept.refl _
    | with_reducible exact Kept.idRefl
    | with_reducible apply fun h => Kept.trans h (hdrop _ _ _)
    | with_reducible apply Kept.step settleQueue_kept
    | with_reducible apply fun hf h => Kept.trans h (forEach_kept hf)
    | with_reducible apply Kept.step freeComb_kept
    | with_reducible apply Kept.ite
    | exact List.Subset.trans (by decide) hL
    | exact hL (by decide)
    | exact hL
    | (intro _; intros; try dsimp only)

theorem purgeRo_kept {bad : Pkt → Bool} {drop : Pkt → Option Nat → State → State} {d : Nat} {s : State} {L : List Blk} (hL : [.swc] ⊆ L) (hdrop : ∀ x0 x1 t, Kept L t (drop x0 x1 t)) : Kept L s (purgeRo bad drop d s) := by
  unfold purgeRo
  try dsimp only
  repeat' first
    | with_reducible exact Kept.refl _
    | with_reducible exact Kept.idRefl
    | with_reducible apply fun h => Kept.trans h (hdrop _ _ _)
    | with_reducible apply fun hf h => Kept.trans h (forEach_kept hf)
    | with_reducible apply Kept.step setRo_kept
    | exact List.Subset.trans (by decide) hL
    | exact hL (by decide)
    | exact hL
    | (intro _; intros; try dsimp only)

theorem purgeBinding_kept {bad : Pkt → Bool} {mark : YItem → YItem} {drop : Pkt × Hop → State → State} {bid : Nat} {s : State} {L : List Blk} (hL : [.mil] ⊆ L) (hdrop : ∀ x0 t, Kept L t (drop x0 t)) : Kept L s (purgeBinding bad mark drop bid s) := by
  unfold purgeBinding
  try dsimp only
  repeat' first
    | with_reducible exact Kept.refl _
    | with_reducible exact Kept.idRefl
    | with_reducible apply fun h => Kept.trans h (hdrop _ _)
    | with_reducible apply Kept.step State.setBind_kept
    | with_reducible apply fun hf h => Kept.trans h (forEach_kept hf)
    | with_reducible apply Kept.ite
    | exact List.Subset.trans (by decide) hL
    | exact hL (by decide)
    | exact hL
    | (intro _; intros; try dsimp only)
    | dsimp only
    | split

theorem purgeFifo_kept {bad : Held → Bool} {drop : Held → State → State} {key : Nat} {s : State} {L : List Blk} (hL : [.swc] ⊆ L) (hdrop : ∀ x0 t, Kept L t (drop x0 t)) : Kept L s (purgeFifo bad drop key s) := by
  unfold purgeFifo
  try dsimp only
  repeat' first
    | with_reducible exact Kept.refl _
    | with_reducible exact Kept.idRefl
    | with_reducible apply fun h => Kept.trans h (hdrop _ _)
    | with_reducible apply fun hf h => Kept.trans h (forEach_kept hf)
    | (fail_if_no_progress ((with_reducible apply Kept.put_swc); exact hL (by decide)))
    | exact List.Subset.trans (by decide) hL
    | exact hL (by decide)
    | exact hL
    | (intro _; intros; try dsimp only)

theorem sweepDistrict_kept {d : Nat} {s : State} : Kept [.hst, .lnk, .srd, .fwd, .swc, .tmb, .lnd, .mil, .mem, .res, .tly, .nv, .ram, .out] s (sweepDistrict d s) := by
  unfold sweepDistrict
  try dsimp only
  repeat' first
    | with_reducible exact Kept.refl _
    | with_reducible exact Kept.idRefl
    | with_reducible apply fun hf h => Kept.trans h (forEach_kept hf)
    | with_reducible apply fun hl h0 h => Kept.trans h (purgeQueue_kept hl h0)
    | with_reducible apply Kept.step windfall_kept
    | with_reducible apply fun hl h0 h => Kept.trans h (purgeFifo_kept hl h0)
    | with_reducible apply fun hl h0 h => Kept.trans h (purgeRo_kept hl h0)
    | with_reducible apply Kept.step sweepRepl_kept
    | with_reducible apply fun hl h0 h => Kept.trans h (purgeBinding_kept hl h0)
    | decide
    | (intro _; intros; try dsimp only)

theorem fillG_kept {port : Nat} {s : State} : Kept [.swc] s (fillG port s) := by
  unfold fillG
  try dsimp only
  repeat' first
    | with_reducible exact Kept.refl _
    | with_reducible exact Kept.idRefl
    | with_reducible apply Kept.step State.modSched_kept
    | decide

theorem execTombstoneExpire_kept {dt : Nat} {ctx : BitVec 18} {s : State} : KeptOut [.tmb, .lnd, .tly, .clk, .out] s (execTombstoneExpire dt ctx s) := by
  unfold execTombstoneExpire
  try dsimp only
  repeat' first
    | with_reducible exact Kept.refl _
    | with_reducible exact Kept.idRefl
    | with_reducible apply Kept.step elapse_kept
    | (fail_if_no_progress ((with_reducible apply Kept.put_lnd); decide))
    | with_reducible apply Kept.next
    | decide

theorem lndCommand_kept {p : HPort} {f : State → State} {s : State} {L : List Blk} (hL : [.hst, .lnd, .tly] ⊆ L) (hf : ∀ t, Kept L t (f t)) : Kept L s (lndCommand p f s) := by
  unfold lndCommand
  try dsimp only
  repeat' first
    | with_reducible exact Kept.refl _
    | with_reducible exact Kept.idRefl
    | with_reducible apply fun h => Kept.trans h (hf _)
    | with_reducible apply fun hl h0 h => Kept.trans h (hostWrite_kept hl h0)
    | with_reducible apply Kept.ite
    | (fail_if_no_progress ((with_reducible apply Kept.put_lnd); exact hL (by decide)))
    | exact List.Subset.trans (by decide) hL
    | exact hL (by decide)
    | exact hL
    | (intro _; intros; try dsimp only)

theorem dropUnsent_kept {cid : Nat} {s : State} : Kept [.hst, .fwd, .swc, .lnd, .tly, .ram, .out] s (dropUnsent cid s) := by
  unfold dropUnsent
  try dsimp only
  repeat' first
    | with_reducible exact Kept.refl _
    | with_reducible exact Kept.idRefl
    | with_reducible apply fun hf h => Kept.trans h (forEach_kept hf)
    | with_reducible apply Kept.step leaveCount_kept
    | with_reducible apply Kept.step preLeave_kept
    | (fail_if_no_progress ((with_reducible apply Kept.put_swc); decide))
    | decide
    | (intro _; intros; try dsimp only)

theorem lndStatus_kept {st : Nat} {s : State} : Kept [.lnd] s (lndStatus st s) := by
  unfold lndStatus
  try dsimp only
  repeat' first
    | with_reducible exact Kept.refl _
    | with_reducible exact Kept.idRefl
    | (fail_if_no_progress ((with_reducible apply Kept.put_lnd); decide))

theorem execReleaseInstant_kept {dt : Nat} {i : Nat} {s : State} : KeptOut [.hst, .lnk, .srd, .svc, .fwd, .swc, .tmb, .lnd, .mil, .mem, .res, .tly, .nv, .ram, .clk, .out] s (execReleaseInstant dt i s) := by
  unfold execReleaseInstant
  try dsimp only
  repeat' first
    | with_reducible exact Kept.refl _
    | with_reducible exact Kept.idRefl
    | with_reducible apply Kept.step elapse_kept
    | with_reducible apply Kept.step releaseHeld_kept
    | with_reducible apply Kept.step landTasks_kept
    | with_reducible apply Kept.ite
    | with_reducible apply Kept.iteFst
    | (fail_if_no_progress ((with_reducible apply Kept.put_lnd); decide))
    | with_reducible apply Kept.next
    | decide
    | (with_reducible apply Kept.ofFst; with_reducible assumption)
    | (intro _; intros; try dsimp only)
    | dsimp only
    | split

theorem execLandingTimeout_kept {dt : Nat} {ctx : BitVec 18} {s : State} : KeptOut [.hst, .lnk, .srd, .svc, .fwd, .swc, .tmb, .lnd, .mil, .mem, .res, .tly, .nv, .ram, .clk, .out] s (execLandingTimeout dt ctx s) := by
  unfold execLandingTimeout
  try dsimp only
  repeat' first
    | with_reducible exact Kept.refl _
    | with_reducible exact Kept.idRefl
    | with_reducible apply Kept.step elapse_kept
    | with_reducible apply Kept.step raiseLnd_kept
    | with_reducible apply Kept.step State.setCtx_kept
    | with_reducible apply Kept.step eventStages_kept
    | with_reducible apply Kept.step landTasks_kept
    | with_reducible apply Kept.ite
    | with_reducible apply Kept.iteFst
    | with_reducible apply Kept.next
    | decide
    | (with_reducible apply Kept.ofFst; with_reducible assumption)
    | (intro _; intros; try dsimp only)
    | dsimp only
    | split

theorem execEaExpire_kept {dt : Nat} {s : State} : KeptOut [.hst, .lnk, .fwd, .swc, .tmb, .lnd, .tly, .ram, .clk, .out] s (execEaExpire dt s) := by
  unfold execEaExpire
  try dsimp only
  repeat' first
    | with_reducible exact Kept.refl _
    | with_reducible exact Kept.idRefl
    | with_reducible apply Kept.step elapse_kept
    | with_reducible apply Kept.step raiseLnd_kept
    | with_reducible apply fun hf h => Kept.trans h (forEach_kept hf)
    | with_reducible apply Kept.step discard_kept
    | with_reducible apply Kept.ite
    | (fail_if_no_progress ((with_reducible apply Kept.put_lnd); decide))
    | with_reducible apply Kept.next
    | decide
    | (intro _; intros; try dsimp only)

theorem execFanoutCordonCheck_kept {dt : Nat} {ctx : BitVec 18} {s : State} : KeptOut [.hst, .lnk, .srd, .svc, .fwd, .swc, .tmb, .lnd, .mil, .mem, .res, .tly, .nv, .ram, .clk, .out] s (execFanoutCordonCheck dt ctx s) := by
  unfold execFanoutCordonCheck
  try dsimp only
  repeat' first
    | with_reducible exact Kept.refl _
    | with_reducible exact Kept.idRefl
    | with_reducible apply Kept.step landTasks_kept
    | with_reducible apply Kept.step cordonCheck_kept
    | with_reducible apply Kept.step elapse_kept
    | with_reducible apply Kept.next
    | decide

theorem installRaw_kept {b : List Byte} {s : State} : Kept [.hst, .lnk, .srd, .svc, .fwd, .swc, .tmb, .lnd, .mil, .mem, .res, .tly, .nv, .ram, .out] s (installRaw b s).1 := by
  unfold installRaw
  try dsimp only
  repeat' first
    | with_reducible exact Kept.refl _
    | with_reducible exact Kept.idRefl
    | with_reducible apply Kept.step count_kept
    | with_reducible apply Kept.step State.setCtx_kept
    | with_reducible apply Kept.step journal_kept
    | with_reducible apply fun hf h => Kept.trans h (forEach_kept hf)
    | with_reducible apply Kept.step journalRaw_kept
    | with_reducible apply Kept.step discard_kept
    | with_reducible apply Kept.step landTasks_kept
    | with_reducible apply Kept.ite
    | with_reducible apply Kept.iteFst
    | (fail_if_no_progress ((with_reducible apply Kept.put_lnd); decide))
    | decide
    | (intro _; intros; try dsimp only)

theorem execInstall_kept {p : HPort} {s : State} : KeptOut [.hst, .lnk, .srd, .svc, .fwd, .swc, .tmb, .lnd, .mil, .mem, .res, .tly, .nv, .ram, .out] s (execInstall p s) := by
  unfold execInstall
  try dsimp only
  repeat' first
    | with_reducible exact Kept.refl _
    | with_reducible exact Kept.idRefl
    | with_reducible apply fun hl h0 h => Kept.trans h (lndCommand_kept hl h0)
    | with_reducible apply Kept.step installRaw_kept
    | with_reducible apply Kept.step lndStatus_kept
    | with_reducible apply Kept.next
    | decide
    | (with_reducible apply Kept.ofFst; with_reducible assumption)
    | (intro _; intros; try dsimp only)

theorem execLndTrigger_kept {p : HPort} {ctx : BitVec 18} {s : State} : KeptOut [.hst, .lnk, .srd, .svc, .fwd, .swc, .tmb, .lnd, .mil, .mem, .res, .tly, .nv, .ram, .out] s (execLndTrigger p ctx s) := by
  unfold execLndTrigger
  try dsimp only
  repeat' first
    | with_reducible exact Kept.refl _
    | with_reducible exact Kept.idRefl
    | with_reducible apply fun hl h0 h => Kept.trans h (lndCommand_kept hl h0)
    | with_reducible apply Kept.step lndStatus_kept
    | with_reducible apply Kept.step landTasks_kept
    | with_reducible apply Kept.next
    | decide
    | (intro _; intros; try dsimp only)
    | dsimp only
    | split

theorem execUninstall_kept {p : HPort} {ctx : BitVec 18} {s : State} : KeptOut [.hst, .lnk, .svc, .fwd, .swc, .tmb, .lnd, .res, .tly, .ram, .out] s (execUninstall p ctx s) := by
  unfold execUninstall
  try dsimp only
  repeat' first
    | with_reducible exact Kept.refl _
    | with_reducible exact Kept.idRefl
    | with_reducible apply fun hl h0 h => Kept.trans h (lndCommand_kept hl h0)
    | with_reducible apply Kept.step lndStatus_kept
    | with_reducible apply Kept.step removeCtx_kept
    | with_reducible apply Kept.step dropUnsent_kept
    | with_reducible apply Kept.next
    | decide
    | (intro _; intros; try dsimp only)
    | dsimp only
    | split

theorem execLndQuery_kept {p : HPort} {ctx : BitVec 18} {s : State} : KeptOut [.hst, .lnd, .tly, .ram] s (execLndQuery p ctx s) := by
  unfold execLndQuery
  try dsimp only
  repeat' first
    | with_reducible exact Kept.refl _
    | with_reducible exact Kept.idRefl
    | with_reducible apply fun hl h0 h => Kept.trans h (lndCommand_kept hl h0)
    | with_reducible apply Kept.step lndStatus_kept
    | with_reducible apply Kept.step wrMem_kept
    | with_reducible apply Kept.next
    | decide
    | (intro _; intros; try dsimp only)

theorem execContextRestoreDone_kept {ctx : BitVec 18} {s : State} : KeptOut [.lnd] s (execContextRestoreDone ctx s) := by
  unfold execContextRestoreDone
  try dsimp only
  repeat' first
    | with_reducible exact Kept.refl _
    | with_reducible exact Kept.idRefl
    | with_reducible apply Kept.step State.modCtx_kept
    | with_reducible apply Kept.ite
    | with_reducible apply Kept.next
    | decide

theorem execWithdraw_kept {p : HPort} {ctx : BitVec 18} {s : State} : KeptOut [.hst, .lnk, .srd, .svc, .fwd, .swc, .tmb, .lnd, .mil, .mem, .res, .tly, .nv, .ram, .out] s (execWithdraw p ctx s) := by
  unfold execWithdraw
  try dsimp only
  repeat' first
    | with_reducible exact Kept.refl _
    | with_reducible exact Kept.idRefl
    | with_reducible apply fun hl h0 h => Kept.trans h (lndCommand_kept hl h0)
    | with_reducible apply Kept.step lndStatus_kept
    | with_reducible apply Kept.step journal_kept
    | with_reducible apply Kept.step State.setCtx_kept
    | with_reducible apply Kept.step landTasks_kept
    | with_reducible apply Kept.ite
    | with_reducible apply Kept.next
    | decide
    | (intro _; intros; try dsimp only)
    | dsimp only
    | split

theorem execLandingDelivery_kept {packet : List Byte} {port : Port} {s : State} : KeptOut [.hst, .lnk, .srd, .svc, .fwd, .swc, .tmb, .lnd, .mil, .mem, .res, .tly, .nv, .ram, .out] s (execLandingDelivery packet port s) := by
  unfold execLandingDelivery
  try dsimp only
  repeat' first
    | with_reducible exact Kept.refl _
    | with_reducible exact Kept.idRefl
    | with_reducible apply Kept.step discard_kept
    | with_reducible apply Kept.step deliverLand_kept
    | with_reducible apply Kept.step State.modLink_kept
    | with_reducible apply Kept.ite
    | with_reducible apply Kept.next
    | decide
    | (intro _; intros; try dsimp only)
    | dsimp only
    | split

theorem fncStatus_kept {st : Nat} {s : State} : Kept [.lnd] s (fncStatus st s) := by
  unfold fncStatus
  try dsimp only
  repeat' first
    | with_reducible exact Kept.refl _
    | with_reducible exact Kept.idRefl
    | (fail_if_no_progress ((with_reducible apply Kept.put_lnd); decide))

theorem fncCommand_kept {p : HPort} {f : State → State} {s : State} {L : List Blk} (hL : [.hst, .lnd, .tly] ⊆ L) (hf : ∀ t, Kept L t (f t)) : Kept L s (fncCommand p f s) := by
  unfold fncCommand
  try dsimp only
  repeat' first
    | with_reducible exact Kept.refl _
    | with_reducible exact Kept.idRefl
    | with_reducible apply fun h => Kept.trans h (hf _)
    | with_reducible apply fun hl h0 h => Kept.trans h (hostWrite_kept hl h0)
    | with_reducible apply Kept.step fncStatus_kept
    | with_reducible apply Kept.ite
    | (fail_if_no_progress ((with_reducible apply Kept.put_lnd); exact hL (by decide)))
    | exact List.Subset.trans (by decide) hL
    | exact hL (by decide)
    | exact hL
    | (intro _; intros; try dsimp only)

theorem execSetexp_kept {p : HPort} {s : State} : KeptOut [.hst, .lnd, .tly, .ram, .out] s (execSetexp p s) := by
  unfold execSetexp
  try dsimp only
  repeat' first
    | with_reducible exact Kept.refl _
    | with_reducible exact Kept.idRefl
    | with_reducible apply fun hl h0 h => Kept.trans h (fncCommand_kept hl h0)
    | with_reducible apply Kept.step fncStatus_kept
    | with_reducible apply Kept.step settleFences_kept
    | with_reducible apply Kept.step modFences_kept
    | with_reducible apply Kept.ite
    | with_reducible apply Kept.next
    | decide
    | (intro _; intros; try dsimp only)
    | dsimp only
    | split

theorem execFenceArm_kept {p : HPort} {msi : Bool} {s : State} : KeptOut [.hst, .swc, .tmb, .lnd, .tly, .ram, .out] s (execFenceArm p msi s) := by
  unfold execFenceArm
  try dsimp only
  repeat' first
    | with_reducible exact Kept.refl _
    | with_reducible exact Kept.idRefl
    | with_reducible apply fun hl h0 h => Kept.trans h (fncCommand_kept hl h0)
    | with_reducible apply Kept.step fncStatus_kept
    | with_reducible apply Kept.step placeAll_kept
    | with_reducible apply Kept.ite
    | (fail_if_no_progress ((with_reducible apply Kept.put_lnd); decide))
    | with_reducible apply Kept.next
    | decide
    | (intro _; intros; try dsimp only)

theorem execFenceTimeout_kept {dt : Nat} {s : State} : KeptOut [.hst, .tmb, .lnd, .tly, .ram, .clk, .out] s (execFenceTimeout dt s) := by
  unfold execFenceTimeout
  try dsimp only
  repeat' first
    | with_reducible exact Kept.refl _
    | with_reducible exact Kept.idRefl
    | with_reducible apply Kept.step elapse_kept
    | with_reducible apply fun hf h => Kept.trans h (forEach_kept hf)
    | with_reducible apply Kept.step fenceRecord_kept
    | with_reducible apply Kept.step modFences_kept
    | with_reducible apply Kept.ite
    | with_reducible apply Kept.next
    | decide
    | (intro _; intros; try dsimp only)

theorem execFenceQuery_kept {p : HPort} {s : State} : KeptOut [.hst, .lnd, .tly] s (execFenceQuery p s) := by
  unfold execFenceQuery
  try dsimp only
  repeat' first
    | with_reducible exact Kept.refl _
    | with_reducible exact Kept.idRefl
    | with_reducible apply fun hl h0 h => Kept.trans h (fncCommand_kept hl h0)
    | with_reducible apply Kept.step fncStatus_kept
    | (fail_if_no_progress ((with_reducible apply Kept.put_lnd); decide))
    | with_reducible apply Kept.next
    | decide
    | (intro _; intros; try dsimp only)
    | dsimp only
    | split

theorem execFenceDisarm_kept {p : HPort} {s : State} : KeptOut [.hst, .lnd, .tly] s (execFenceDisarm p s) := by
  unfold execFenceDisarm
  try dsimp only
  repeat' first
    | with_reducible exact Kept.refl _
    | with_reducible exact Kept.idRefl
    | with_reducible apply fun hl h0 h => Kept.trans h (fncCommand_kept hl h0)
    | with_reducible apply Kept.step fncStatus_kept
    | (fail_if_no_progress ((with_reducible apply Kept.put_lnd); decide))
    | with_reducible apply Kept.next
    | decide
    | (intro _; intros; try dsimp only)
    | dsimp only
    | split

theorem execQmaxReset_kept {p : HPort} {port : Port} {tc : BitVec 3} {s : State} : KeptOut [.hst, .swc, .tly] s (execQmaxReset p port tc s) := by
  unfold execQmaxReset
  try dsimp only
  repeat' first
    | with_reducible exact Kept.refl _
    | with_reducible exact Kept.idRefl
    | with_reducible apply fun hl h0 h => Kept.trans h (hostWrite_kept hl h0)
    | with_reducible apply Kept.step State.modQueue_kept
    | with_reducible apply Kept.next
    | decide
    | (intro _; intros; try dsimp only)

theorem sampleNow_kept {at_ : Nat} {s : State} : Kept [.hst, .swc, .tly, .ram, .out] s (sampleNow at_ s) := by
  unfold sampleNow
  try dsimp only
  repeat' first
    | with_reducible exact Kept.refl _
    | with_reducible exact Kept.idRefl
    | with_reducible apply Kept.step raiseSwc_kept
    | with_reducible apply Kept.step count_kept
    | with_reducible apply fun hf h => Kept.trans h (forEach_kept hf)
    | with_reducible apply Kept.step wrMem_kept
    | with_reducible apply Kept.step State.modQueue_kept
    | with_reducible apply Kept.ite
    | (fail_if_no_progress ((with_reducible apply Kept.put_swc); decide))
    | decide
    | (intro _; intros; try dsimp only)

theorem releaseSpray_kept {d : Nat} {s : State} : Kept [.swc] s (releaseSpray d s) := by
  unfold releaseSpray
  try dsimp only
  repeat' first
    | with_reducible exact Kept.refl _
    | with_reducible exact Kept.idRefl
    | (fail_if_no_progress ((with_reducible apply Kept.put_swc); decide))

theorem enqueueProducer_kept {i : Nat} {s : State} : Kept [.hst, .lnk, .srd, .svc, .fwd, .swc, .tmb, .lnd, .mil, .mem, .res, .tly, .nv, .ram, .out] s (enqueueProducer i s) := by
  unfold enqueueProducer
  try dsimp only
  repeat' first
    | with_reducible exact Kept.refl _
    | with_reducible exact Kept.idRefl
    | with_reducible apply Kept.step kickLanding_kept
    | with_reducible apply Kept.step windfall_kept
    | with_reducible apply Kept.step discard_kept
    | with_reducible apply Kept.step originateAny_kept
    | with_reducible apply Kept.ite
    | (fail_if_no_progress ((with_reducible apply Kept.put_swc); decide))
    | decide
    | (intro _; intros; try dsimp only)
    | dsimp only
    | split

theorem execProducerEnqueue_kept {i : Nat} {s : State} : KeptOut [.hst, .lnk, .srd, .svc, .fwd, .swc, .tmb, .lnd, .mil, .mem, .res, .tly, .nv, .ram, .out] s (execProducerEnqueue i s) := by
  unfold execProducerEnqueue
  try dsimp only
  repeat' first
    | with_reducible exact Kept.refl _
    | with_reducible exact Kept.idRefl
    | with_reducible apply Kept.step enqueueProducer_kept
    | with_reducible apply Kept.next
    | decide

theorem execWindfallSweep_kept {dt : Nat} {d : Fin 16} {s : State} : KeptOut [.hst, .lnk, .srd, .fwd, .swc, .tmb, .lnd, .mil, .mem, .res, .tly, .nv, .ram, .clk, .out] s (execWindfallSweep dt d s) := by
  unfold execWindfallSweep
  try dsimp only
  repeat' first
    | with_reducible exact Kept.refl _
    | with_reducible exact Kept.idRefl
    | with_reducible apply Kept.step sweepDistrict_kept
    | with_reducible apply Kept.step elapse_kept
    | with_reducible apply Kept.next
    | decide

theorem releaseHold_kept {port : Nat} {tc : Nat} {s : State} : Kept [.hst, .lnk, .srd, .svc, .fwd, .swc, .tmb, .lnd, .mil, .mem, .res, .tly, .nv, .ram, .out] s (releaseHold port tc s) := by
  unfold releaseHold
  try dsimp only
  repeat' first
    | with_reducible exact Kept.refl _
    | with_reducible exact Kept.idRefl
    | with_reducible apply Kept.step windfall_kept
    | with_reducible apply Kept.step setFifo_kept
    | with_reducible apply Kept.step place_kept
    | with_reducible apply Kept.ite
    | with_reducible apply Kept.iteFst
    | decide
    | (with_reducible apply Kept.ofFst; with_reducible assumption)
    | (intro _; intros; try dsimp only)
    | dsimp only
    | split

theorem releasePoliced_kept {port : Nat} {s : State} : Kept [.hst, .lnk, .srd, .svc, .fwd, .swc, .tmb, .lnd, .mil, .mem, .res, .tly, .nv, .ram, .out] s (releasePoliced port s) := by
  unfold releasePoliced
  try dsimp only
  repeat' first
    | with_reducible exact Kept.refl _
    | with_reducible exact Kept.idRefl
    | with_reducible apply Kept.step fillPolicer_kept
    | with_reducible apply Kept.step setFifo_kept
    | with_reducible apply Kept.step windfall_kept
    | with_reducible apply Kept.step toCrossbar_kept
    | with_reducible apply Kept.step chargePolicer_kept
    | with_reducible apply Kept.ite
    | decide
    | (intro _; intros; try dsimp only)
    | dsimp only
    | split

theorem transmit_kept {port : Nat} {s : State} : Kept [.hst, .lnk, .fwd, .swc, .tmb, .lnd, .mem, .tly, .ram, .out] s (transmit port s) := by
  unfold transmit
  try dsimp only
  repeat' first
    | with_reducible exact Kept.refl _
    | with_reducible exact Kept.idRefl
    | with_reducible apply Kept.step fillG_kept
    | with_reducible apply Kept.step serve_kept
    | with_reducible apply Kept.ite
    | decide

theorem retireReorder_kept {d : Nat} {s : State} : Kept [.swc] s (retireReorder d s) := by
  unfold retireReorder
  try dsimp only
  repeat' first
    | with_reducible exact Kept.refl _
    | with_reducible exact Kept.idRefl
    | with_reducible apply Kept.step setRo_kept
    | decide

theorem execReorderRetire_kept {dt : Nat} {d : Fin 16} {s : State} : KeptOut [.swc, .tmb, .tly, .clk, .out] s (execReorderRetire dt d s) := by
  unfold execReorderRetire
  try dsimp only
  repeat' first
    | with_reducible exact Kept.refl _
    | with_reducible exact Kept.idRefl
    | with_reducible apply Kept.step retireReorder_kept
    | with_reducible apply Kept.step elapse_kept
    | with_reducible apply Kept.next
    | decide

theorem sampleSweep_kept {s : State} : Kept [.hst, .swc, .tly, .ram, .out] s (sampleSweep s) := by
  unfold sampleSweep
  try dsimp only
  repeat' first
    | with_reducible exact Kept.refl _
    | with_reducible exact Kept.idRefl
    | with_reducible apply Kept.step sampleNow_kept
    | with_reducible apply Kept.ite
    | (fail_if_no_progress ((with_reducible apply Kept.put_swc); decide))
    | decide

theorem execSampleSweep_kept {dt : Nat} {s : State} : KeptOut [.hst, .swc, .tmb, .tly, .ram, .clk, .out] s (execSampleSweep dt s) := by
  unfold execSampleSweep
  try dsimp only
  repeat' first
    | with_reducible exact Kept.refl _
    | with_reducible exact Kept.idRefl
    | with_reducible apply Kept.step sampleSweep_kept
    | with_reducible apply Kept.step elapse_kept
    | with_reducible apply Kept.next
    | decide

theorem returnBucket_kept {b : Nat} {k : Nat} {s : State} : Kept [.swc] s (returnBucket b k s) := by
  unfold returnBucket
  try dsimp only
  repeat' first
    | with_reducible exact Kept.refl _
    | with_reducible exact Kept.idRefl
    | with_reducible apply Kept.ite
    | (fail_if_no_progress ((with_reducible apply Kept.put_swc); decide))
    | decide
    | (intro _; intros; try dsimp only)
    | dsimp only
    | split

theorem execBucketReturn_kept {dt : Nat} {bundle : Fin 2048} {k : Byte} {s : State} : KeptOut [.swc, .tmb, .tly, .clk, .out] s (execBucketReturn dt bundle k s) := by
  unfold execBucketReturn
  try dsimp only
  repeat' first
    | with_reducible exact Kept.refl _
    | with_reducible exact Kept.idRefl
    | with_reducible apply Kept.step returnBucket_kept
    | with_reducible apply Kept.step elapse_kept
    | with_reducible apply Kept.next
    | decide

theorem reorderTimeouts_kept {d : Nat} {s : State} : Kept [.hst, .lnk, .srd, .svc, .fwd, .swc, .tmb, .lnd, .mil, .mem, .res, .tly, .nv, .ram, .out] s (reorderTimeouts d s) := by
  unfold reorderTimeouts
  try dsimp only
  repeat' first
    | with_reducible exact Kept.refl _
    | with_reducible exact Kept.idRefl
    | with_reducible apply fun hf h => Kept.trans h (forEach_kept hf)
    | with_reducible apply Kept.step roTimeout_kept
    | with_reducible apply Kept.step applyRo_kept
    | decide
    | (with_reducible apply Kept.ofFst; with_reducible assumption)
    | (intro _; intros; try dsimp only)
    | dsimp only
    | split

theorem execPolicerRelease_kept {dt : Nat} {port : Port} {s : State} : KeptOut [.hst, .lnk, .srd, .svc, .fwd, .swc, .tmb, .lnd, .mil, .mem, .res, .tly, .nv, .ram, .clk, .out] s (execPolicerRelease dt port s) := by
  unfold execPolicerRelease
  try dsimp only
  repeat' first
    | with_reducible exact Kept.refl _
    | with_reducible exact Kept.idRefl
    | with_reducible apply Kept.step releasePoliced_kept
    | with_reducible apply Kept.step elapse_kept
    | with_reducible apply Kept.next
    | decide

theorem execTransmitOpportunity_kept {dt : Nat} {port : Port} {s : State} : KeptOut [.hst, .lnk, .fwd, .swc, .tmb, .lnd, .mem, .tly, .ram, .clk, .out] s (execTransmitOpportunity dt port s) := by
  unfold execTransmitOpportunity
  try dsimp only
  repeat' first
    | with_reducible exact Kept.refl _
    | with_reducible exact Kept.idRefl
    | with_reducible apply Kept.step transmit_kept
    | with_reducible apply Kept.step elapse_kept
    | with_reducible apply Kept.next
    | decide

theorem execSprayCounterRelease_kept {dt : Nat} {d : Fin 16} {s : State} : KeptOut [.swc, .tmb, .tly, .clk, .out] s (execSprayCounterRelease dt d s) := by
  unfold execSprayCounterRelease
  try dsimp only
  repeat' first
    | with_reducible exact Kept.refl _
    | with_reducible exact Kept.idRefl
    | with_reducible apply Kept.step releaseSpray_kept
    | with_reducible apply Kept.step elapse_kept
    | with_reducible apply Kept.next
    | decide

theorem execReorderTimeout_kept {dt : Nat} {d : Fin 16} {s : State} : KeptOut [.hst, .lnk, .srd, .svc, .fwd, .swc, .tmb, .lnd, .mil, .mem, .res, .tly, .nv, .ram, .clk, .out] s (execReorderTimeout dt d s) := by
  unfold execReorderTimeout
  try dsimp only
  repeat' first
    | with_reducible exact Kept.refl _
    | with_reducible exact Kept.idRefl
    | with_reducible apply Kept.step reorderTimeouts_kept
    | with_reducible apply Kept.step elapse_kept
    | with_reducible apply Kept.next
    | decide

theorem execPacketIngress_kept {port : Port} {bytes : List Byte} {upsets : List Upset} {s : State} : KeptOut [.hst, .lnk, .srd, .svc, .fwd, .swc, .tmb, .lnd, .mil, .mem, .res, .tly, .nv, .ram, .out] s (execPacketIngress port bytes upsets s) := by
  unfold execPacketIngress
  try dsimp only
  repeat' first
    | with_reducible exact Kept.refl _
    | with_reducible exact Kept.idRefl
    | with_reducible apply Kept.step takePacket_kept
    | with_reducible apply Kept.ite
    | with_reducible apply Kept.next
    | decide

theorem execIngressHoldRelease_kept {port : Port} {tc : BitVec 3} {s : State} : KeptOut [.hst, .lnk, .srd, .svc, .fwd, .swc, .tmb, .lnd, .mil, .mem, .res, .tly, .nv, .ram, .out] s (execIngressHoldRelease port tc s) := by
  unfold execIngressHoldRelease
  try dsimp only
  repeat' first
    | with_reducible exact Kept.refl _
    | with_reducible exact Kept.idRefl
    | with_reducible apply Kept.step releaseHold_kept
    | with_reducible apply Kept.next
    | decide

theorem resumeRepl_kept {i : Nat} {s : State} : Kept [.hst, .lnk, .srd, .fwd, .swc, .tmb, .lnd, .mil, .mem, .res, .tly, .nv, .ram, .out] s (resumeRepl i s) := by
  unfold resumeRepl
  try dsimp only
  repeat' first
    | with_reducible exact Kept.refl _
    | with_reducible exact Kept.idRefl
    | with_reducible apply Kept.step runRepl_kept
    | (fail_if_no_progress ((with_reducible apply Kept.put_swc); decide))
    | decide
    | (with_reducible apply Kept.ofFst; with_reducible assumption)
    | (intro _; intros; try dsimp only)
    | dsimp only
    | split

theorem execReplicationResume_kept {i : Nat} {s : State} : KeptOut [.hst, .lnk, .srd, .fwd, .swc, .tmb, .lnd, .mil, .mem, .res, .tly, .nv, .ram, .out] s (execReplicationResume i s) := by
  unfold execReplicationResume
  try dsimp only
  repeat' first
    | with_reducible exact Kept.refl _
    | with_reducible exact Kept.idRefl
    | with_reducible apply Kept.step resumeRepl_kept
    | with_reducible apply Kept.next
    | decide

end Sys2Proof.Machine
end

