-- ==== Sys2Proof/Laws/KeptMill.lean ====
section
/-! SUPPORT. What each operation and meaning of the files Machine/MillOps, MillCmds, MillScalar, MillTile, MillYard, Memory changes, and what it never undoes. -/
set_option linter.unusedTactic false
set_option linter.unreachableTactic false
namespace Sys2Proof.Machine
open Sys2Proof

theorem modSide_kept {bid : Nat} {f : Side → Side} {s : State} : Kept [.mil] s (modSide bid f s) := by
  unfold modSide
  try dsimp only
  repeat' first
    | with_reducible exact Kept.refl _
    | with_reducible exact Kept.idRefl
    | with_reducible apply Kept.step State.modBind_kept
    | decide

theorem modTh_kept {bid : Nat} {key : Nat} {f : Thread → Thread} {s : State} : Kept [.mil] s (modTh bid key f s) := by
  unfold modTh
  try dsimp only
  repeat' first
    | with_reducible exact Kept.refl _
    | with_reducible exact Kept.idRefl
    | with_reducible apply Kept.step modSide_kept
    | decide

theorem modThread_kept {t : Th} {f : Thread → Thread} {s : State} : Kept [.mil] s (modThread t f s) := by
  unfold modThread
  try dsimp only
  repeat' first
    | with_reducible exact Kept.refl _
    | with_reducible exact Kept.idRefl
    | with_reducible apply Kept.step modTh_kept
    | decide

theorem setX_kept {t : Th} {n : Nat} {v : Nat} {s : State} : Kept [.mil] s (setX t n v s) := by
  unfold setX
  try dsimp only
  repeat' first
    | with_reducible exact Kept.refl _
    | with_reducible exact Kept.idRefl
    | with_reducible apply Kept.step modThread_kept
    | with_reducible apply Kept.ite
    | decide

theorem dropClaimed_kept {bid : Nat} {s : State} : Kept [.hst, .lnk, .fwd, .swc, .tmb, .lnd, .mil, .tly, .ram, .out] s (dropClaimed bid s) := by
  unfold dropClaimed
  try dsimp only
  repeat' first
    | with_reducible exact Kept.refl _
    | with_reducible exact Kept.idRefl
    | with_reducible apply Kept.step State.setBind_kept
    | with_reducible apply fun hf h => Kept.trans h (forEach_kept hf)
    | with_reducible apply Kept.step raiseMil_kept
    | with_reducible apply Kept.step dropFlow_kept
    | decide
    | (intro _; intros; try dsimp only)
    | dsimp only
    | split

theorem wake_kept {bid : Nat} {key : Nat} {s : State} : Kept [.mil] s (wake bid key s) := by
  unfold wake
  try dsimp only
  repeat' first
    | with_reducible exact Kept.refl _
    | with_reducible exact Kept.idRefl
    | with_reducible apply Kept.step modTh_kept
    | decide

theorem wakeYard_kept {bid : Nat} {y : Nat} {s : State} : Kept [.mil] s (wakeYard bid y s) := by
  unfold wakeYard
  try dsimp only
  repeat' first
    | with_reducible exact Kept.refl _
    | with_reducible exact Kept.idRefl
    | with_reducible apply fun hf h => Kept.trans h (forEach_kept hf)
    | with_reducible apply Kept.step wake_kept
    | decide
    | (intro _; intros; try dsimp only)
    | dsimp only
    | split

theorem modItem_kept {bid : Nat} {y : Nat} {id : Nat} {f : YItem → YItem} {s : State} : Kept [.mil] s (modItem bid y id f s) := by
  unfold modItem
  try dsimp only
  repeat' first
    | with_reducible exact Kept.refl _
    | with_reducible exact Kept.idRefl
    | with_reducible apply Kept.step modSide_kept
    | with_reducible apply Kept.ite
    | decide

theorem fetched_kept {bid : Nat} {key : Nat} {s : State} : Kept [.mil] s (fetched bid key s) := by
  unfold fetched
  try dsimp only
  repeat' first
    | with_reducible exact Kept.refl _
    | with_reducible exact Kept.idRefl
    | with_reducible apply Kept.step modItem_kept
    | decide
    | (intro _; intros; try dsimp only)
    | dsimp only
    | split

theorem setYard_kept {bid : Nat} {y : Nat} {l : List YItem} {s : State} : Kept [.mil] s (setYard bid y l s) := by
  unfold setYard
  try dsimp only
  repeat' first
    | with_reducible exact Kept.refl _
    | with_reducible exact Kept.idRefl
    | with_reducible apply Kept.step modSide_kept
    | decide

theorem setCur_kept {t : Th} {y : Nat} {id : Option Nat} {s : State} : Kept [.mil] s (setCur t y id s) := by
  unfold setCur
  try dsimp only
  repeat' first
    | with_reducible exact Kept.refl _
    | with_reducible exact Kept.idRefl
    | with_reducible apply Kept.step modThread_kept
    | decide

theorem claim.take_kept {t : Th} {y : Nat} {i : YItem} {s : State} : Kept [.mil] s (claim.take t y i s).1 := by
  unfold claim.take
  try dsimp only
  repeat' first
    | with_reducible exact Kept.refl _
    | with_reducible exact Kept.idRefl
    | with_reducible apply Kept.step setCur_kept
    | with_reducible apply Kept.step modItem_kept
    | decide

theorem claim_kept {t : Th} {y : Nat} {a2 : Nat} {a3 : State} : Kept [.hst, .lnk, .fwd, .swc, .tmb, .lnd, .mil, .tly, .ram, .out] a3 (claim t y a2 a3).1 := by
  induction a2 generalizing a3 with
  | zero =>
    unfold claim
    try dsimp only
    repeat' first
      | with_reducible exact Kept.refl _
  | succ n ih =>
    unfold claim
    try dsimp only
    repeat' first
      | with_reducible exact Kept.refl _
      | with_reducible exact Kept.idRefl
      | with_reducible apply fun h => Kept.trans h ih
      | with_reducible apply Kept.step setYard_kept
      | with_reducible apply Kept.step claim.take_kept
      | with_reducible apply Kept.step windfall_kept
      | with_reducible apply Kept.step State.modBind_kept
      | with_reducible apply Kept.ite
      | with_reducible apply Kept.iteFst
      | decide
      | (with_reducible apply Kept.ofFst; with_reducible assumption)
      | (intro _; intros; try dsimp only)
      | dsimp only
      | split

theorem finishUnbind_kept {bid : Nat} {s : State} : Kept [.hst, .lnk, .fwd, .swc, .tmb, .lnd, .mil, .tly, .ram, .out] s (finishUnbind bid s) := by
  unfold finishUnbind
  try dsimp only
  repeat' first
    | with_reducible exact Kept.refl _
    | with_reducible exact Kept.idRefl
    | with_reducible apply fun hf h => Kept.trans h (forEach_kept hf)
    | with_reducible apply Kept.step raiseMil_kept
    | with_reducible apply Kept.step dropFlow_kept
    | with_reducible apply Kept.step State.setBind_kept
    | with_reducible apply Kept.ite
    | (fail_if_no_progress ((with_reducible apply Kept.put_mil); decide))
    | decide
    | (intro _; intros; try dsimp only)
    | dsimp only
    | split

theorem sendOutput_kept {p : Pkt} {hop : Hop} {s : State} : Kept [.hst, .lnk, .fwd, .swc, .tmb, .lnd, .mem, .tly, .ram, .out] s (sendOutput p hop s) := by
  unfold sendOutput
  try dsimp only
  repeat' first
    | with_reducible exact Kept.refl _
    | with_reducible exact Kept.idRefl
    | with_reducible apply Kept.step dropFlow_kept
    | with_reducible apply Kept.step windfall_kept
    | with_reducible apply Kept.step placeOutput_kept
    | with_reducible apply Kept.step fillPolicer_kept
    | with_reducible apply Kept.step holdPkt_kept
    | with_reducible apply Kept.step chargePolicer_kept
    | with_reducible apply Kept.ite
    | decide

theorem releaseOuts_kept {bid : Nat} {a1 : Nat} {a2 : State} : Kept [.hst, .lnk, .fwd, .swc, .tmb, .lnd, .mil, .mem, .tly, .ram, .out] a2 (releaseOuts bid a1 a2) := by
  induction a1 generalizing a2 with
  | zero =>
    unfold releaseOuts
    try dsimp only
    repeat' first
      | with_reducible exact Kept.refl _
  | succ n ih =>
    unfold releaseOuts
    try dsimp only
    repeat' first
      | with_reducible exact Kept.refl _
      | with_reducible exact Kept.idRefl
      | with_reducible apply fun h => Kept.trans h ih
      | with_reducible apply Kept.step State.setBind_kept
      | with_reducible apply Kept.step sendOutput_kept
      | decide
      | (intro _; intros; try dsimp only)
      | dsimp only
      | split

theorem releaseAllOuts_kept {bid : Nat} {s : State} : Kept [.hst, .lnk, .fwd, .swc, .tmb, .lnd, .mil, .mem, .tly, .ram, .out] s (releaseAllOuts bid s) := by
  unfold releaseAllOuts
  try dsimp only
  repeat' first
    | with_reducible exact Kept.refl _
    | with_reducible exact Kept.idRefl
    | with_reducible apply Kept.step releaseOuts_kept
    | decide

theorem leaveOrder_kept {bid : Nat} {id : Nat} {s : State} : Kept [.hst, .lnk, .fwd, .swc, .tmb, .lnd, .mil, .mem, .tly, .ram, .out] s (leaveOrder bid id s) := by
  unfold leaveOrder
  try dsimp only
  repeat' first
    | with_reducible exact Kept.refl _
    | with_reducible exact Kept.idRefl
    | with_reducible apply Kept.step releaseAllOuts_kept
    | with_reducible apply Kept.step State.modBind_kept
    | with_reducible apply Kept.ite
    | decide

theorem endItem_kept {t : Th} {y : Nat} {s : State} : Kept [.hst, .lnk, .fwd, .swc, .tmb, .lnd, .mil, .mem, .tly, .ram, .out] s (endItem t y s) := by
  unfold endItem
  try dsimp only
  repeat' first
    | with_reducible exact Kept.refl _
    | with_reducible exact Kept.idRefl
    | with_reducible apply Kept.step setCur_kept
    | with_reducible apply Kept.step setYard_kept
    | with_reducible apply Kept.step dropFlow_kept
    | with_reducible apply Kept.step leaveOrder_kept
    | with_reducible apply Kept.ite
    | decide
    | (intro _; intros; try dsimp only)
    | dsimp only
    | split

theorem stopThread_kept {bid : Nat} {key : Nat} {s : State} : Kept [.hst, .lnk, .fwd, .swc, .tmb, .lnd, .mil, .mem, .tly, .ram, .out] s (stopThread bid key s) := by
  unfold stopThread
  try dsimp only
  repeat' first
    | with_reducible exact Kept.refl _
    | with_reducible exact Kept.idRefl
    | with_reducible apply fun hf h => Kept.trans h (forEach_kept hf)
    | with_reducible apply Kept.step endItem_kept
    | with_reducible apply Kept.step modTh_kept
    | with_reducible apply Kept.ite
    | decide
    | (intro _; intros; try dsimp only)

theorem stopThreads_kept {bid : Nat} {s : State} : Kept [.hst, .lnk, .fwd, .swc, .tmb, .lnd, .mil, .mem, .tly, .ram, .out] s (stopThreads bid s) := by
  unfold stopThreads
  try dsimp only
  repeat' first
    | with_reducible exact Kept.refl _
    | with_reducible exact Kept.idRefl
    | with_reducible apply fun hf h => Kept.trans h (forEach_kept hf)
    | with_reducible apply Kept.step stopThread_kept
    | with_reducible apply Kept.ite
    | decide
    | (intro _; intros; try dsimp only)
    | dsimp only
    | split

theorem settleEnding_kept {bid : Nat} {s : State} : Kept [.hst, .lnk, .fwd, .swc, .tmb, .lnd, .mil, .mem, .tly, .ram, .out] s (settleEnding bid s) := by
  unfold settleEnding
  try dsimp only
  repeat' first
    | with_reducible exact Kept.refl _
    | with_reducible exact Kept.idRefl
    | with_reducible apply Kept.step finishUnbind_kept
    | with_reducible apply Kept.step stopThreads_kept
    | decide

theorem exc_kept {t : Th} {e : Exc} {s : State} : Kept [.mil, .tly] s (exc t e s) := by
  unfold exc
  try dsimp only
  repeat' first
    | with_reducible exact Kept.refl _
    | with_reducible exact Kept.idRefl
    | with_reducible apply Kept.step addExc_kept
    | decide

theorem wrScratch_kept {t : Th} {off : Nat} {b : List Byte} {s : State} : Kept [.mil] s (wrScratch t off b s) := by
  unfold wrScratch
  try dsimp only
  repeat' first
    | with_reducible exact Kept.refl _
    | with_reducible exact Kept.idRefl
    | with_reducible apply Kept.step modSide_kept
    | decide

theorem enterCore_kept {bid : Nat} {c : Nat} {s : State} : Kept [.mil] s (enterCore bid c s) := by
  unfold enterCore
  try dsimp only
  repeat' first
    | with_reducible exact Kept.refl _
    | with_reducible exact Kept.idRefl
    | with_reducible apply Kept.step modSide_kept
    | with_reducible apply Kept.step State.modBind_kept
    | with_reducible apply Kept.ite
    | decide

theorem settleIn_kept {bid : Nat} {s : State} : Kept [.mil] s (settleIn bid s) := by
  unfold settleIn
  try dsimp only
  repeat' first
    | with_reducible exact Kept.refl _
    | with_reducible exact Kept.idRefl
    | with_reducible apply fun hf h => Kept.trans h (forEach_kept hf)
    | with_reducible apply Kept.step enterCore_kept
    | with_reducible apply Kept.step State.modCore_kept
    | with_reducible apply Kept.ite
    | decide
    | (intro _; intros; try dsimp only)
    | dsimp only
    | split

theorem startBinding_kept {bid : Nat} {s : State} : Kept [.mil] s (startBinding bid s) := by
  unfold startBinding
  try dsimp only
  repeat' first
    | with_reducible exact Kept.refl _
    | with_reducible exact Kept.idRefl
    | with_reducible apply Kept.step settleIn_kept
    | with_reducible apply Kept.step State.setBind_kept
    | decide
    | (intro _; intros; try dsimp only)
    | dsimp only
    | split

theorem finishHandover_kept {bid : Nat} {s : State} : Kept [.hst, .mil, .out] s (finishHandover bid s) := by
  unfold finishHandover
  try dsimp only
  repeat' first
    | with_reducible exact Kept.refl _
    | with_reducible exact Kept.idRefl
    | with_reducible apply Kept.step State.setBind_kept
    | with_reducible apply Kept.step raiseMil_kept
    | with_reducible apply Kept.step startBinding_kept
    | (fail_if_no_progress ((with_reducible apply Kept.put_mil); decide))
    | decide
    | (intro _; intros; try dsimp only)
    | dsimp only
    | split

theorem dropOldYards_kept {bid : Nat} {s : State} : Kept [.hst, .lnk, .fwd, .swc, .tmb, .lnd, .mil, .tly, .ram, .out] s (dropOldYards bid s) := by
  unfold dropOldYards
  try dsimp only
  repeat' first
    | with_reducible exact Kept.refl _
    | with_reducible exact Kept.idRefl
    | with_reducible apply fun hf h => Kept.trans h (forEach_kept hf)
    | with_reducible apply Kept.step raiseMil_kept
    | with_reducible apply Kept.step dropFlow_kept
    | with_reducible apply Kept.step State.setBind_kept
    | with_reducible apply Kept.ite
    | decide
    | (intro _; intros; try dsimp only)
    | dsimp only
    | split

theorem millFault_kept {code : Nat} {t : Th} {s : State} : Kept [.hst, .lnk, .fwd, .swc, .tmb, .lnd, .mil, .mem, .tly, .ram, .out] s (millFault code t s) := by
  unfold millFault
  try dsimp only
  repeat' first
    | with_reducible exact Kept.refl _
    | with_reducible exact Kept.idRefl
    | with_reducible apply Kept.step raiseMil_kept
    | with_reducible apply Kept.step dropClaimed_kept
    | with_reducible apply Kept.step modSide_kept
    | with_reducible apply Kept.step finishHandover_kept
    | with_reducible apply Kept.step dropOldYards_kept
    | with_reducible apply Kept.step settleEnding_kept
    | with_reducible apply Kept.step State.setBind_kept
    | with_reducible apply Kept.ite
    | (fail_if_no_progress ((with_reducible apply Kept.put_mil); decide))
    | decide
    | (intro _; intros; try dsimp only)
    | dsimp only
    | split

theorem noteIssue_kept {t : Th} {s : State} : Kept [.mil] s (noteIssue t s) := by
  unfold noteIssue
  try dsimp only
  repeat' first
    | with_reducible exact Kept.refl _
    | with_reducible exact Kept.idRefl
    | with_reducible apply fun hf h => Kept.trans h (forEach_kept hf)
    | with_reducible apply Kept.step modSide_kept
    | with_reducible apply Kept.step State.modCore_kept
    | decide
    | (intro _; intros; try dsimp only)

theorem runMill_kept {t : Th} {op : Nat} {used : Ins → Used} {body : Ins → State → MRes} {s : State} {L : List Blk} (hL : [.hst, .lnk, .fwd, .swc, .tmb, .lnd, .mil, .mem, .tly, .ram, .out] ⊆ L) (hbody : ∀ x0 t, KeptRes L t (body x0 t)) : Kept L s (runMill t op used body s) := by
  unfold runMill
  split
  · exact Kept.refl _
  have hn : Kept L s (noteIssue t s) := Kept.mono noteIssue_kept (List.Subset.trans (by decide) hL)
  have hm : ∀ c x, Kept L s x → Kept L s (millFault c t x) := fun _ _ h => Kept.step millFault_kept (List.Subset.trans (by decide) hL) h
  have ht : ∀ (f : Thread → Thread) x, Kept L s x → Kept L s (modThread t f x) := fun _ _ h =>
    Kept.step modThread_kept (List.Subset.trans (by decide) hL) h
  have he : ∀ x, Kept L s x → Kept L s (settleEnding (thBid t) x) := fun _ h =>
    Kept.step settleEnding_kept (List.Subset.trans (by decide) hL) h
  refine Kept.ite (Kept.refl _) (Kept.ite (hm _ _ hn) (Kept.ite (Kept.refl _) (Kept.ite (hm _ _ hn) ?_)))
  generalize hr : body _ _ = r
  have hb : KeptRes L s r := hr ▸ KeptRes.step (hbody _ _) (List.Subset.refl _) hn
  cases r with
  | ok => exact he _ (ht _ _ hb)
  | jump => exact ht _ _ hb
  | again => exact he _ hb
  | fault => exact hm _ _ hb

theorem countVec_kept {t : Th} {s : State} : Kept [.tly] s (countVec t s) := by
  unfold countVec
  try dsimp only
  repeat' first
    | with_reducible exact Kept.refl _
    | with_reducible exact Kept.idRefl
    | with_reducible apply Kept.step countN_kept
    | decide

theorem rebuildShare_kept {g : Nat} {s : State} : Kept [.mil] s (rebuildShare g s) := by
  unfold rebuildShare
  try dsimp only
  repeat' first
    | with_reducible exact Kept.refl _
    | with_reducible exact Kept.idRefl
    | with_reducible apply Kept.step State.modCore_kept
    | with_reducible apply Kept.ite
    | decide

theorem startFetch_kept {t : Th} {y : Nat} {n : Nat} {s : State} : Kept [.mil, .tly] s (startFetch t y n s) := by
  unfold startFetch
  try dsimp only
  repeat' first
    | with_reducible exact Kept.refl _
    | with_reducible exact Kept.idRefl
    | with_reducible apply Kept.step modThread_kept
    | with_reducible apply Kept.step countN_kept
    | with_reducible apply Kept.ite
    | decide

theorem guarded_kept {L : List Blk} {l : List (Bool × Nat)} {s₀ s : State} {f : MRes} (h : Kept L s₀ s) (hf : KeptRes L s₀ f) : KeptRes L s₀ (guarded l s f) := by
  unfold guarded
  split
  · exact Kept.fault h
  · exact hf

theorem noteStep_kept {t : Th} {s : State} : Kept [.mil] s (noteStep t s) := by
  unfold noteStep
  try dsimp only
  repeat' first
    | with_reducible exact Kept.refl _
    | with_reducible exact Kept.idRefl
    | with_reducible apply Kept.step modThread_kept
    | with_reducible apply Kept.step rebuildShare_kept
    | with_reducible apply Kept.step modSide_kept
    | with_reducible apply Kept.ite
    | decide
    | (intro _; intros; try dsimp only)
    | dsimp only
    | split

theorem flushYard_kept {bid : Nat} {y : Nat} {s : State} : Kept [.hst, .lnk, .fwd, .swc, .tmb, .lnd, .mil, .mem, .tly, .ram, .out] s (flushYard bid y s) := by
  unfold flushYard
  try dsimp only
  repeat' first
    | with_reducible exact Kept.refl _
    | with_reducible exact Kept.idRefl
    | with_reducible apply Kept.step setYard_kept
    | with_reducible apply fun hf h => Kept.trans h (forEach_kept hf)
    | with_reducible apply Kept.step leaveOrder_kept
    | with_reducible apply Kept.step dropFlow_kept
    | with_reducible apply Kept.step wakeYard_kept
    | with_reducible apply Kept.ite
    | decide
    | (intro _; intros; try dsimp only)
    | dsimp only
    | split

theorem setTile_kept {t : Th} {r : Nat} {x : Tile} {s : State} : Kept [.mil] s (setTile t r x s) := by
  unfold setTile
  try dsimp only
  repeat' first
    | with_reducible exact Kept.refl _
    | with_reducible exact Kept.idRefl
    | with_reducible apply Kept.step modSide_kept
    | decide

theorem yardWait_kept {t : Th} {w : Waits} {s : State} : Kept [.mil] s (yardWait t w s) := by
  unfold yardWait
  try dsimp only
  repeat' first
    | with_reducible exact Kept.refl _
    | with_reducible exact Kept.idRefl
    | with_reducible apply Kept.step modThread_kept
    | decide

theorem switchOut_kept {t : Th} {w : Waits} {s : State} : Kept [.mil] s (switchOut t w s) := by
  unfold switchOut
  try dsimp only
  repeat' first
    | with_reducible exact Kept.refl _
    | with_reducible exact Kept.idRefl
    | with_reducible apply Kept.step modThread_kept
    | decide

theorem leaveCore_kept {bid : Nat} {c : Nat} {s : State} : Kept [.mil] s (leaveCore bid c s) := by
  unfold leaveCore
  try dsimp only
  repeat' first
    | with_reducible exact Kept.refl _
    | with_reducible exact Kept.idRefl
    | with_reducible apply fun hf h => Kept.trans h (forEach_kept hf)
    | with_reducible apply Kept.step fetched_kept
    | with_reducible apply Kept.step modSide_kept
    | with_reducible apply Kept.step State.modBind_kept
    | with_reducible apply Kept.ite
    | decide
    | (intro _; intros; try dsimp only)

theorem readYard_kept {t : Th} {y : Nat} {n : Nat} {s : State} : Kept [.hst, .lnk, .fwd, .swc, .tmb, .lnd, .mil, .mem, .tly, .ram, .out] s (readYard t y n s).1 := by
  unfold readYard
  try dsimp only
  repeat' first
    | with_reducible exact Kept.refl _
    | with_reducible exact Kept.idRefl
    | with_reducible apply Kept.step modItem_kept
    | with_reducible apply Kept.step claim_kept
    | with_reducible apply Kept.step endItem_kept
    | with_reducible apply Kept.ite
    | with_reducible apply Kept.iteFst
    | decide
    | (with_reducible apply Kept.ofFst; with_reducible assumption)
    | (intro _; intros; try dsimp only)
    | dsimp only
    | split

theorem countSkid_kept {t : Th} {bytes : Nat} {s : State} : Kept [.tly] s (countSkid t bytes s) := by
  unfold countSkid
  try dsimp only
  repeat' first
    | with_reducible exact Kept.refl _
    | with_reducible exact Kept.idRefl
    | with_reducible apply Kept.step countN_kept
    | decide

theorem tdStatus_kept {st : Nat} {s : State} : Kept [.mem] s (tdStatus st s) := by
  unfold tdStatus
  try dsimp only
  repeat' first
    | with_reducible exact Kept.refl _
    | with_reducible exact Kept.idRefl
    | (fail_if_no_progress ((with_reducible apply Kept.put_mem); decide))

theorem queryTeardown_kept {job : BitVec 20} {s : State} : Kept [.mem] s (queryTeardown job s) := by
  unfold queryTeardown
  try dsimp only
  repeat' first
    | with_reducible exact Kept.refl _
    | with_reducible exact Kept.idRefl
    | with_reducible apply Kept.step tdStatus_kept
    | (fail_if_no_progress ((with_reducible apply Kept.put_mem); decide))
    | decide

theorem tdCommand_kept {p : HPort} {job : BitVec 20} {f : State → State} {s : State} {L : List Blk} (hL : [.hst, .mem, .tly] ⊆ L) (hf : ∀ t, Kept L t (f t)) : Kept L s (tdCommand p job f s) := by
  unfold tdCommand
  try dsimp only
  repeat' first
    | with_reducible exact Kept.refl _
    | with_reducible exact Kept.idRefl
    | with_reducible apply fun h => Kept.trans h (hf _)
    | with_reducible apply fun hl h0 h => Kept.trans h (hostWrite_kept hl h0)
    | with_reducible apply Kept.step tdStatus_kept
    | with_reducible apply Kept.ite
    | (fail_if_no_progress ((with_reducible apply Kept.put_mem); exact hL (by decide)))
    | exact List.Subset.trans (by decide) hL
    | exact hL (by decide)
    | exact hL
    | (intro _; intros; try dsimp only)

theorem setTeardown_kept {job : BitVec 20} {b : Bool} {s : State} : Kept [.fwd, .tables] s (setTeardown job b s) := by
  unfold setTeardown
  try dsimp only
  repeat' first
    | with_reducible exact Kept.refl _
    | with_reducible exact Kept.idRefl
    | (fail_if_no_progress ((with_reducible apply Kept.put_fwd); decide; with_reducible exact rfl))
    | (fail_if_no_progress ((with_reducible apply Kept.put_fwd_tables); decide; decide))

theorem tdDrop_kept {p : Pkt} {s : State} : Kept [.hst, .lnk, .srd, .fwd, .swc, .tmb, .lnd, .mil, .mem, .res, .tly, .nv, .ram, .out] s (tdDrop p s) := by
  unfold tdDrop
  try dsimp only
  repeat' first
    | with_reducible exact Kept.refl _
    | with_reducible exact Kept.idRefl
    | with_reducible apply Kept.step tdNotice_kept
    | (fail_if_no_progress ((with_reducible apply Kept.put_mem); decide))
    | decide

theorem sweepJob_kept {job : BitVec 20} {s : State} : Kept [.hst, .lnk, .srd, .fwd, .swc, .tmb, .lnd, .mil, .mem, .res, .tly, .nv, .ram, .out] s (sweepJob job s) := by
  unfold sweepJob
  try dsimp only
  repeat' first
    | with_reducible exact Kept.refl _
    | with_reducible exact Kept.idRefl
    | with_reducible apply fun hf h => Kept.trans h (forEach_kept hf)
    | with_reducible apply Kept.step tdNotice_kept
    | with_reducible apply fun hl h0 h => Kept.trans h (purgeQueue_kept hl h0)
    | with_reducible apply Kept.step tdDrop_kept
    | with_reducible apply Kept.step discardQ_kept
    | with_reducible apply fun hl h0 h => Kept.trans h (purgeFifo_kept hl h0)
    | with_reducible apply Kept.step discard_kept
    | with_reducible apply fun hl h0 h => Kept.trans h (purgeRo_kept hl h0)
    | with_reducible apply Kept.step dropFlow_kept
    | with_reducible apply fun hl h0 h => Kept.trans h (purgeBinding_kept hl h0)
    | (fail_if_no_progress ((with_reducible apply Kept.put_swc); decide))
    | (fail_if_no_progress ((with_reducible apply Kept.put_lnd); decide))
    | (fail_if_no_progress ((with_reducible apply Kept.put); (intro b hb; cases b <;> first | exact rfl | exact absurd (by decide) hb)))
    | decide
    | (intro _; intros; try dsimp only)

theorem abortFences_kept {job : BitVec 20} {s : State} : Kept [.hst, .lnd, .tly, .ram, .out] s (abortFences job s) := by
  unfold abortFences
  try dsimp only
  repeat' first
    | with_reducible exact Kept.refl _
    | with_reducible exact Kept.idRefl
    | with_reducible apply fun hf h => Kept.trans h (forEach_kept hf)
    | with_reducible apply Kept.step fenceRecord_kept
    | (fail_if_no_progress ((with_reducible apply Kept.put_lnd); decide))
    | decide
    | (intro _; intros; try dsimp only)

theorem startTeardown_kept {job : BitVec 20} {s : State} : Kept [.hst, .lnk, .srd, .fwd, .swc, .tmb, .lnd, .mil, .mem, .res, .tly, .nv, .ram, .out, .tables] s (startTeardown job s) := by
  unfold startTeardown
  try dsimp only
  repeat' first
    | with_reducible exact Kept.refl _
    | with_reducible exact Kept.idRefl
    | with_reducible apply Kept.step tdStatus_kept
    | with_reducible apply Kept.step setTeardown_kept
    | with_reducible apply Kept.step sweepJob_kept
    | with_reducible apply Kept.step abortFences_kept
    | with_reducible apply Kept.ite
    | (fail_if_no_progress ((with_reducible apply Kept.put_mem); decide))
    | decide

theorem execTeardownStart_kept {p : HPort} {job : BitVec 20} {s : State} : KeptOut [.hst, .lnk, .srd, .fwd, .swc, .tmb, .lnd, .mil, .mem, .res, .tly, .nv, .ram, .out, .tables] s (execTeardownStart p job s) := by
  unfold execTeardownStart
  try dsimp only
  repeat' first
    | with_reducible exact Kept.refl _
    | with_reducible exact Kept.idRefl
    | with_reducible apply fun hl h0 h => Kept.trans h (tdCommand_kept hl h0)
    | with_reducible apply Kept.step startTeardown_kept
    | with_reducible apply Kept.next
    | decide
    | (intro _; intros; try dsimp only)

theorem releaseJob_kept {job : BitVec 20} {s : State} : Kept [.hst, .lnk, .srd, .fwd, .swc, .tmb, .lnd, .mil, .mem, .res, .tly, .nv, .ram, .out, .tables] s (releaseJob job s) := by
  unfold releaseJob
  try dsimp only
  repeat' first
    | with_reducible exact Kept.refl _
    | with_reducible exact Kept.idRefl
    | with_reducible apply Kept.step tdStatus_kept
    | with_reducible apply Kept.step setTeardown_kept
    | with_reducible apply fun hf h => Kept.trans h (forEach_kept hf)
    | with_reducible apply Kept.step sendControl_kept
    | with_reducible apply Kept.step memRecord_kept
    | with_reducible apply Kept.ite
    | with_reducible apply Kept.iteFst
    | (fail_if_no_progress ((with_reducible apply Kept.put_mem); decide))
    | decide
    | (with_reducible apply Kept.ofFst; with_reducible assumption)
    | (intro _; intros; try dsimp only)
    | dsimp only
    | split

theorem endSweep_kept {s : State} : Kept [.hst, .lnk, .srd, .fwd, .swc, .tmb, .lnd, .mil, .mem, .res, .tly, .nv, .ram, .out] s (endSweep s) := by
  unfold endSweep
  try dsimp only
  repeat' first
    | with_reducible exact Kept.refl _
    | with_reducible exact Kept.idRefl
    | with_reducible apply Kept.step sweepJob_kept
    | with_reducible apply Kept.step raiseMem_kept
    | with_reducible apply Kept.step memRecord_kept
    | with_reducible apply Kept.ite
    | with_reducible apply Kept.iteFst
    | (fail_if_no_progress ((with_reducible apply Kept.put_mem); decide))
    | decide
    | (with_reducible apply Kept.ofFst; with_reducible assumption)
    | (intro _; intros; try dsimp only)
    | dsimp only
    | split

theorem execTeardownSweepEnd_kept {dt : Nat} {s : State} : KeptOut [.hst, .lnk, .srd, .fwd, .swc, .tmb, .lnd, .mil, .mem, .res, .tly, .nv, .ram, .clk, .out] s (execTeardownSweepEnd dt s) := by
  unfold execTeardownSweepEnd
  try dsimp only
  repeat' first
    | with_reducible exact Kept.refl _
    | with_reducible exact Kept.idRefl
    | with_reducible apply Kept.step endSweep_kept
    | with_reducible apply Kept.step elapse_kept
    | with_reducible apply Kept.next
    | decide

theorem execTeardownRelease_kept {p : HPort} {job : BitVec 20} {s : State} : KeptOut [.hst, .lnk, .srd, .fwd, .swc, .tmb, .lnd, .mil, .mem, .res, .tly, .nv, .ram, .out, .tables] s (execTeardownRelease p job s) := by
  unfold execTeardownRelease
  try dsimp only
  repeat' first
    | with_reducible exact Kept.refl _
    | with_reducible exact Kept.idRefl
    | with_reducible apply fun hl h0 h => Kept.trans h (tdCommand_kept hl h0)
    | with_reducible apply Kept.step releaseJob_kept
    | with_reducible apply Kept.next
    | decide
    | (intro _; intros; try dsimp only)

theorem execTeardownQuery_kept {p : HPort} {job : BitVec 20} {s : State} : KeptOut [.hst, .mem, .tly] s (execTeardownQuery p job s) := by
  unfold execTeardownQuery
  try dsimp only
  repeat' first
    | with_reducible exact Kept.refl _
    | with_reducible exact Kept.idRefl
    | with_reducible apply fun hl h0 h => Kept.trans h (tdCommand_kept hl h0)
    | with_reducible apply Kept.step queryTeardown_kept
    | with_reducible apply Kept.next
    | decide
    | (intro _; intros; try dsimp only)

theorem writeCb_kept {i : Nat} {s : State} : Kept [.svc, .mil, .res, .out] s (writeCb i s) := by
  unfold writeCb
  try dsimp only
  repeat' first
    | with_reducible exact Kept.refl _
    | with_reducible exact Kept.idRefl
    | with_reducible apply Kept.step journal_kept
    | (fail_if_no_progress ((with_reducible apply Kept.put_mil); decide))
    | decide

theorem bindStatus_kept {st : Nat} {s : State} : Kept [.mil] s (bindStatus st s) := by
  unfold bindStatus
  try dsimp only
  repeat' first
    | with_reducible exact Kept.refl _
    | with_reducible exact Kept.idRefl
    | (fail_if_no_progress ((with_reducible apply Kept.put_mil); decide))

theorem doRebind_kept {bid : Nat} {s : State} : Kept [.hst, .lnk, .svc, .fwd, .swc, .tmb, .lnd, .mil, .mem, .res, .tly, .ram, .out] s (doRebind bid s) := by
  unfold doRebind
  try dsimp only
  repeat' first
    | with_reducible exact Kept.refl _
    | with_reducible exact Kept.idRefl
    | with_reducible apply Kept.step bindStatus_kept
    | with_reducible apply Kept.step State.setBind_kept
    | with_reducible apply Kept.step journal_kept
    | with_reducible apply Kept.step finishHandover_kept
    | with_reducible apply Kept.step dropOldYards_kept
    | with_reducible apply Kept.step settleEnding_kept
    | with_reducible apply Kept.ite
    | (fail_if_no_progress ((with_reducible apply Kept.put_mil); decide))
    | decide
    | (intro _; intros; try dsimp only)
    | dsimp only
    | split

theorem sliceCore_kept {g : Nat} {s : State} : Kept [.mil, .tly] s (sliceCore g s) := by
  unfold sliceCore
  try dsimp only
  repeat' first
    | with_reducible exact Kept.refl _
    | with_reducible exact Kept.idRefl
    | with_reducible apply Kept.step State.modCore_kept
    | with_reducible apply fun hf h => Kept.trans h (forEach_kept hf)
    | with_reducible apply Kept.step leaveCore_kept
    | with_reducible apply Kept.step count_kept
    | with_reducible apply Kept.step enterCore_kept
    | with_reducible apply Kept.ite
    | decide
    | (intro _; intros; try dsimp only)

theorem sliceBoundary_kept {s : State} : Kept [.mil, .tly] s (sliceBoundary s) := by
  unfold sliceBoundary
  try dsimp only
  repeat' first
    | with_reducible exact Kept.refl _
    | with_reducible exact Kept.idRefl
    | with_reducible apply fun hf h => Kept.trans h (forEach_kept hf)
    | with_reducible apply Kept.step sliceCore_kept
    | with_reducible apply Kept.ite
    | (fail_if_no_progress ((with_reducible apply Kept.put_mil); decide))
    | decide
    | (intro _; intros; try dsimp only)

theorem doRestart_kept {bid : Nat} {s : State} : Kept [.mil] s (doRestart bid s) := by
  unfold doRestart
  try dsimp only
  repeat' first
    | with_reducible exact Kept.refl _
    | with_reducible exact Kept.idRefl
    | with_reducible apply Kept.step bindStatus_kept
    | with_reducible apply Kept.step startBinding_kept
    | with_reducible apply Kept.step State.setBind_kept
    | with_reducible apply Kept.ite
    | decide
    | (intro _; intros; try dsimp only)
    | dsimp only
    | split

theorem bindCommand_kept {p : HPort} {f : State → State} {s : State} {L : List Blk} (hL : [.hst, .mil, .tly] ⊆ L) (hf : ∀ t, Kept L t (f t)) : Kept L s (bindCommand p f s) := by
  unfold bindCommand
  try dsimp only
  repeat' first
    | with_reducible exact Kept.refl _
    | with_reducible exact Kept.idRefl
    | with_reducible apply fun h => Kept.trans h (hf _)
    | with_reducible apply fun hl h0 h => Kept.trans h (hostWrite_kept hl h0)
    | with_reducible apply Kept.step bindStatus_kept
    | with_reducible apply Kept.ite
    | (fail_if_no_progress ((with_reducible apply Kept.put_mil); exact hL (by decide)))
    | exact List.Subset.trans (by decide) hL
    | exact hL (by decide)
    | exact hL
    | (intro _; intros; try dsimp only)

theorem execRestart_kept {p : HPort} {id : BitVec 12} {s : State} : KeptOut [.hst, .mil, .tly] s (execRestart p id s) := by
  unfold execRestart
  try dsimp only
  repeat' first
    | with_reducible exact Kept.refl _
    | with_reducible exact Kept.idRefl
    | with_reducible apply fun hl h0 h => Kept.trans h (bindCommand_kept hl h0)
    | with_reducible apply Kept.step doRestart_kept
    | with_reducible apply Kept.next
    | decide
    | (intro _; intros; try dsimp only)

theorem tfStatus_kept {st : Nat} {s : State} : Kept [.mil] s (tfStatus st s) := by
  unfold tfStatus
  try dsimp only
  repeat' first
    | with_reducible exact Kept.refl _
    | with_reducible exact Kept.idRefl
    | (fail_if_no_progress ((with_reducible apply Kept.put_mil); decide))

theorem flushNew_kept {bid : Nat} {y : Nat} {s : State} : Kept [.hst, .lnk, .fwd, .swc, .tmb, .lnd, .mil, .tly, .ram, .out] s (flushNew bid y s) := by
  unfold flushNew
  try dsimp only
  repeat' first
    | with_reducible exact Kept.refl _
    | with_reducible exact Kept.idRefl
    | with_reducible apply fun hf h => Kept.trans h (forEach_kept hf)
    | with_reducible apply Kept.step dropFlow_kept
    | with_reducible apply Kept.step State.setBind_kept
    | with_reducible apply Kept.ite
    | decide
    | (intro _; intros; try dsimp only)
    | dsimp only
    | split

theorem doFlush_kept {bid : Nat} {y : Nat} {s : State} : Kept [.hst, .lnk, .fwd, .swc, .tmb, .lnd, .mil, .mem, .tly, .ram, .out] s (doFlush bid y s) := by
  unfold doFlush
  try dsimp only
  repeat' first
    | with_reducible exact Kept.refl _
    | with_reducible exact Kept.idRefl
    | with_reducible apply Kept.step bindStatus_kept
    | with_reducible apply Kept.step settleEnding_kept
    | with_reducible apply Kept.step flushNew_kept
    | with_reducible apply Kept.step flushYard_kept
    | with_reducible apply Kept.ite
    | decide
    | (intro _; intros; try dsimp only)
    | dsimp only
    | split

theorem execYardFlush_kept {p : HPort} {id : BitVec 12} {yard : BitVec 3} {s : State} : KeptOut [.hst, .lnk, .fwd, .swc, .tmb, .lnd, .mil, .mem, .tly, .ram, .out] s (execYardFlush p id yard s) := by
  unfold execYardFlush
  try dsimp only
  repeat' first
    | with_reducible exact Kept.refl _
    | with_reducible exact Kept.idRefl
    | with_reducible apply fun hl h0 h => Kept.trans h (hostWrite_kept hl h0)
    | with_reducible apply Kept.step bindStatus_kept
    | with_reducible apply Kept.step doFlush_kept
    | with_reducible apply Kept.ite
    | with_reducible apply Kept.next
    | decide
    | (intro _; intros; try dsimp only)

theorem execSliceBoundary_kept {dt : Nat} {s : State} : KeptOut [.tmb, .mil, .tly, .clk, .out] s (execSliceBoundary dt s) := by
  unfold execSliceBoundary
  try dsimp only
  repeat' first
    | with_reducible exact Kept.refl _
    | with_reducible exact Kept.idRefl
    | with_reducible apply Kept.step sliceBoundary_kept
    | with_reducible apply Kept.step elapse_kept
    | with_reducible apply Kept.next
    | decide

theorem completeHandover_kept {bid : Nat} {s : State} : Kept [.hst, .mil, .out] s (completeHandover bid s) := by
  unfold completeHandover
  try dsimp only
  repeat' first
    | with_reducible exact Kept.refl _
    | with_reducible exact Kept.idRefl
    | with_reducible apply Kept.step finishHandover_kept
    | with_reducible apply Kept.ite
    | decide
    | (intro _; intros; try dsimp only)
    | dsimp only
    | split

theorem execHandoverComplete_kept {id : BitVec 12} {s : State} : KeptOut [.hst, .lnk, .fwd, .swc, .tmb, .lnd, .mil, .mem, .tly, .ram, .out] s (execHandoverComplete id s) := by
  unfold execHandoverComplete
  try dsimp only
  repeat' first
    | with_reducible exact Kept.refl _
    | with_reducible exact Kept.idRefl
    | with_reducible apply Kept.step completeHandover_kept
    | with_reducible apply Kept.step settleEnding_kept
    | with_reducible apply Kept.next
    | decide

theorem cbStatus_kept {st : Nat} {s : State} : Kept [.mil] s (cbStatus st s) := by
  unfold cbStatus
  try dsimp only
  repeat' first
    | with_reducible exact Kept.refl _
    | with_reducible exact Kept.idRefl
    | (fail_if_no_progress ((with_reducible apply Kept.put_mil); decide))

theorem cbCommand_kept {p : HPort} {f : State → State} {s : State} {L : List Blk} (hL : [.hst, .mil, .tly] ⊆ L) (hf : ∀ t, Kept L t (f t)) : Kept L s (cbCommand p f s) := by
  unfold cbCommand
  try dsimp only
  repeat' first
    | with_reducible exact Kept.refl _
    | with_reducible exact Kept.idRefl
    | with_reducible apply fun h => Kept.trans h (hf _)
    | with_reducible apply fun hl h0 h => Kept.trans h (hostWrite_kept hl h0)
    | with_reducible apply Kept.step cbStatus_kept
    | with_reducible apply Kept.ite
    | (fail_if_no_progress ((with_reducible apply Kept.put_mil); exact hL (by decide)))
    | exact List.Subset.trans (by decide) hL
    | exact hL (by decide)
    | exact hL
    | (intro _; intros; try dsimp only)

theorem readCb_kept {i : Nat} {s : State} : Kept [.mil] s (readCb i s) := by
  unfold readCb
  try dsimp only
  repeat' first
    | with_reducible exact Kept.refl _
    | with_reducible exact Kept.idRefl
    | (fail_if_no_progress ((with_reducible apply Kept.put_mil); decide))

theorem execCbRead_kept {p : HPort} {idx : BitVec 12} {s : State} : KeptOut [.hst, .mil, .tly] s (execCbRead p idx s) := by
  unfold execCbRead
  try dsimp only
  repeat' first
    | with_reducible exact Kept.refl _
    | with_reducible exact Kept.idRefl
    | with_reducible apply fun hl h0 h => Kept.trans h (cbCommand_kept hl h0)
    | with_reducible apply Kept.step readCb_kept
    | with_reducible apply Kept.next
    | decide
    | (intro _; intros; try dsimp only)

theorem pgmStatus_kept {st : Nat} {s : State} : Kept [.mil] s (pgmStatus st s) := by
  unfold pgmStatus
  try dsimp only
  repeat' first
    | with_reducible exact Kept.refl _
    | with_reducible exact Kept.idRefl
    | (fail_if_no_progress ((with_reducible apply Kept.put_mil); decide))

theorem unloadImage_kept {d : Nat} {slot : Nat} {s : State} : Kept [.mil] s (unloadImage d slot s) := by
  unfold unloadImage
  try dsimp only
  repeat' first
    | with_reducible exact Kept.refl _
    | with_reducible exact Kept.idRefl
    | with_reducible apply Kept.step pgmStatus_kept
    | with_reducible apply Kept.ite
    | (fail_if_no_progress ((with_reducible apply Kept.put_mil); decide))
    | decide

theorem doUnbind_kept {bid : Nat} {s : State} : Kept [.hst, .lnk, .svc, .fwd, .swc, .tmb, .lnd, .mil, .mem, .res, .tly, .ram, .out] s (doUnbind bid s) := by
  unfold doUnbind
  try dsimp only
  repeat' first
    | with_reducible exact Kept.refl _
    | with_reducible exact Kept.idRefl
    | with_reducible apply Kept.step bindStatus_kept
    | with_reducible apply Kept.step journal_kept
    | with_reducible apply Kept.step settleEnding_kept
    | with_reducible apply Kept.step State.modBind_kept
    | with_reducible apply Kept.ite
    | decide
    | (intro _; intros; try dsimp only)
    | dsimp only
    | split

theorem execUnbind_kept {p : HPort} {id : BitVec 12} {s : State} : KeptOut [.hst, .lnk, .svc, .fwd, .swc, .tmb, .lnd, .mil, .mem, .res, .tly, .ram, .out] s (execUnbind p id s) := by
  unfold execUnbind
  try dsimp only
  repeat' first
    | with_reducible exact Kept.refl _
    | with_reducible exact Kept.idRefl
    | with_reducible apply fun hl h0 h => Kept.trans h (bindCommand_kept hl h0)
    | with_reducible apply Kept.step doUnbind_kept
    | with_reducible apply Kept.next
    | decide
    | (intro _; intros; try dsimp only)

theorem execBindQuery_kept {p : HPort} {id : BitVec 12} {s : State} : KeptOut [.hst, .mil, .tly] s (execBindQuery p id s) := by
  unfold execBindQuery
  try dsimp only
  repeat' first
    | with_reducible exact Kept.refl _
    | with_reducible exact Kept.idRefl
    | with_reducible apply fun hl h0 h => Kept.trans h (bindCommand_kept hl h0)
    | with_reducible apply Kept.step bindStatus_kept
    | (fail_if_no_progress ((with_reducible apply Kept.put_mil); decide))
    | with_reducible apply Kept.next
    | decide
    | (intro _; intros; try dsimp only)

theorem tfCommand_kept {p : HPort} {f : State → State} {s : State} {L : List Blk} (hL : [.hst, .mil, .tly] ⊆ L) (hf : ∀ t, Kept L t (f t)) : Kept L s (tfCommand p f s) := by
  unfold tfCommand
  try dsimp only
  repeat' first
    | with_reducible exact Kept.refl _
    | with_reducible exact Kept.idRefl
    | with_reducible apply fun h => Kept.trans h (hf _)
    | with_reducible apply fun hl h0 h => Kept.trans h (hostWrite_kept hl h0)
    | with_reducible apply Kept.step tfStatus_kept
    | with_reducible apply Kept.ite
    | (fail_if_no_progress ((with_reducible apply Kept.put_mil); exact hL (by decide)))
    | exact List.Subset.trans (by decide) hL
    | exact hL (by decide)
    | exact hL
    | (intro _; intros; try dsimp only)

theorem writeTf_kept {i : Nat} {s : State} : Kept [.svc, .mil, .res, .out] s (writeTf i s) := by
  unfold writeTf
  try dsimp only
  repeat' first
    | with_reducible exact Kept.refl _
    | with_reducible exact Kept.idRefl
    | with_reducible apply Kept.step tfStatus_kept
    | with_reducible apply Kept.step journal_kept
    | with_reducible apply Kept.ite
    | (fail_if_no_progress ((with_reducible apply Kept.put_mil); decide))
    | decide

theorem execTfWrite_kept {p : HPort} {idx : BitVec 12} {s : State} : KeptOut [.hst, .svc, .mil, .res, .tly, .out] s (execTfWrite p idx s) := by
  unfold execTfWrite
  try dsimp only
  repeat' first
    | with_reducible exact Kept.refl _
    | with_reducible exact Kept.idRefl
    | with_reducible apply fun hl h0 h => Kept.trans h (tfCommand_kept hl h0)
    | with_reducible apply Kept.step writeTf_kept
    | with_reducible apply Kept.next
    | decide
    | (intro _; intros; try dsimp only)

theorem doBind_kept {bid : Nat} {s : State} : Kept [.svc, .mil, .res, .out] s (doBind bid s) := by
  unfold doBind
  try dsimp only
  repeat' first
    | with_reducible exact Kept.refl _
    | with_reducible exact Kept.idRefl
    | with_reducible apply Kept.step bindStatus_kept
    | with_reducible apply Kept.step journal_kept
    | with_reducible apply Kept.step startBinding_kept
    | with_reducible apply Kept.step State.setBind_kept
    | with_reducible apply Kept.ite
    | (fail_if_no_progress ((with_reducible apply Kept.put_mil); decide))
    | decide
    | (intro _; intros; try dsimp only)
    | dsimp only
    | split

theorem execBind_kept {p : HPort} {id : BitVec 12} {s : State} : KeptOut [.hst, .svc, .mil, .res, .tly, .out] s (execBind p id s) := by
  unfold execBind
  try dsimp only
  repeat' first
    | with_reducible exact Kept.refl _
    | with_reducible exact Kept.idRefl
    | with_reducible apply fun hl h0 h => Kept.trans h (bindCommand_kept hl h0)
    | with_reducible apply Kept.step doBind_kept
    | with_reducible apply Kept.next
    | decide
    | (intro _; intros; try dsimp only)

theorem execCbWrite_kept {p : HPort} {idx : BitVec 12} {s : State} : KeptOut [.hst, .svc, .mil, .res, .tly, .out] s (execCbWrite p idx s) := by
  unfold execCbWrite
  try dsimp only
  repeat' first
    | with_reducible exact Kept.refl _
    | with_reducible exact Kept.idRefl
    | with_reducible apply fun hl h0 h => Kept.trans h (cbCommand_kept hl h0)
    | with_reducible apply Kept.step writeCb_kept
    | with_reducible apply Kept.next
    | decide
    | (intro _; intros; try dsimp only)

theorem execYardWaitEnd_kept {t : Th} {s : State} : KeptOut [.mil] s (execYardWaitEnd t s) := by
  unfold execYardWaitEnd
  try dsimp only
  repeat' first
    | with_reducible exact Kept.refl _
    | with_reducible exact Kept.idRefl
    | with_reducible apply Kept.step wake_kept
    | with_reducible apply Kept.ite
    | with_reducible apply Kept.next
    | decide

theorem loadImage_kept {d : Nat} {slot : Nat} {s : State} : Kept [.mil] s (loadImage d slot s) := by
  unfold loadImage
  try dsimp only
  repeat' first
    | with_reducible exact Kept.refl _
    | with_reducible exact Kept.idRefl
    | with_reducible apply Kept.step pgmStatus_kept
    | with_reducible apply Kept.ite
    | (fail_if_no_progress ((with_reducible apply Kept.put_mil); decide))
    | decide

theorem pgmCommand_kept {p : HPort} {f : State → State} {s : State} {L : List Blk} (hL : [.hst, .mil, .tly] ⊆ L) (hf : ∀ t, Kept L t (f t)) : Kept L s (pgmCommand p f s) := by
  unfold pgmCommand
  try dsimp only
  repeat' first
    | with_reducible exact Kept.refl _
    | with_reducible exact Kept.idRefl
    | with_reducible apply fun h => Kept.trans h (hf _)
    | with_reducible apply fun hl h0 h => Kept.trans h (hostWrite_kept hl h0)
    | with_reducible apply Kept.step pgmStatus_kept
    | with_reducible apply Kept.ite
    | (fail_if_no_progress ((with_reducible apply Kept.put_mil); exact hL (by decide)))
    | exact List.Subset.trans (by decide) hL
    | exact hL (by decide)
    | exact hL
    | (intro _; intros; try dsimp only)

theorem execPgmLoad_kept {p : HPort} {district : Fin 16} {slot : BitVec 9} {s : State} : KeptOut [.hst, .mil, .tly] s (execPgmLoad p district slot s) := by
  unfold execPgmLoad
  try dsimp only
  repeat' first
    | with_reducible exact Kept.refl _
    | with_reducible exact Kept.idRefl
    | with_reducible apply fun hl h0 h => Kept.trans h (pgmCommand_kept hl h0)
    | with_reducible apply Kept.step loadImage_kept
    | with_reducible apply Kept.next
    | decide
    | (intro _; intros; try dsimp only)

theorem accessDone_kept {t : Th} {s : State} : Kept [.hst, .lnk, .fwd, .swc, .tmb, .lnd, .mil, .mem, .tly, .ram, .out] s (accessDone t s) := by
  unfold accessDone
  try dsimp only
  repeat' first
    | with_reducible exact Kept.refl _
    | with_reducible exact Kept.idRefl
    | with_reducible apply Kept.step settleEnding_kept
    | with_reducible apply Kept.step wake_kept
    | with_reducible apply Kept.step modThread_kept
    | with_reducible apply Kept.step fetched_kept
    | with_reducible apply Kept.ite
    | decide
    | (intro _; intros; try dsimp only)
    | dsimp only
    | split

theorem readTf_kept {i : Nat} {s : State} : Kept [.mil] s (readTf i s) := by
  unfold readTf
  try dsimp only
  repeat' first
    | with_reducible exact Kept.refl _
    | with_reducible exact Kept.idRefl
    | with_reducible apply Kept.step tfStatus_kept
    | (fail_if_no_progress ((with_reducible apply Kept.put_mil); decide))
    | decide

theorem execTfRead_kept {p : HPort} {idx : BitVec 12} {s : State} : KeptOut [.hst, .mil, .tly] s (execTfRead p idx s) := by
  unfold execTfRead
  try dsimp only
  repeat' first
    | with_reducible exact Kept.refl _
    | with_reducible exact Kept.idRefl
    | with_reducible apply fun hl h0 h => Kept.trans h (tfCommand_kept hl h0)
    | with_reducible apply Kept.step readTf_kept
    | with_reducible apply Kept.next
    | decide
    | (intro _; intros; try dsimp only)

theorem execAccessComplete_kept {t : Th} {s : State} : KeptOut [.hst, .lnk, .fwd, .swc, .tmb, .lnd, .mil, .mem, .tly, .ram, .out] s (execAccessComplete t s) := by
  unfold execAccessComplete
  try dsimp only
  repeat' first
    | with_reducible exact Kept.refl _
    | with_reducible exact Kept.idRefl
    | with_reducible apply Kept.step accessDone_kept
    | with_reducible apply Kept.next
    | decide

theorem execPgmUnload_kept {p : HPort} {district : Fin 16} {slot : BitVec 9} {s : State} : KeptOut [.hst, .mil, .tly] s (execPgmUnload p district slot s) := by
  unfold execPgmUnload
  try dsimp only
  repeat' first
    | with_reducible exact Kept.refl _
    | with_reducible exact Kept.idRefl
    | with_reducible apply fun hl h0 h => Kept.trans h (pgmCommand_kept hl h0)
    | with_reducible apply Kept.step unloadImage_kept
    | with_reducible apply Kept.next
    | decide
    | (intro _; intros; try dsimp only)

theorem execRebind_kept {p : HPort} {id : BitVec 12} {s : State} : KeptOut [.hst, .lnk, .svc, .fwd, .swc, .tmb, .lnd, .mil, .mem, .res, .tly, .ram, .out] s (execRebind p id s) := by
  unfold execRebind
  try dsimp only
  repeat' first
    | with_reducible exact Kept.refl _
    | with_reducible exact Kept.idRefl
    | with_reducible apply fun hl h0 h => Kept.trans h (bindCommand_kept hl h0)
    | with_reducible apply Kept.step doRebind_kept
    | with_reducible apply Kept.next
    | decide
    | (intro _; intros; try dsimp only)

theorem stx_kept {t : Th} {i : Ins} {s : State} : KeptRes [.mil, .tly] s (stx t i s) := by
  unfold stx
  try dsimp only
  repeat' first
    | with_reducible exact Kept.refl _
    | with_reducible exact Kept.idRefl
    | with_reducible apply guarded_kept
    | with_reducible apply Kept.step countSkid_kept
    | with_reducible apply Kept.step wrScratch_kept
    | with_reducible apply Kept.ok
    | with_reducible apply Kept.jump
    | with_reducible apply Kept.again
    | with_reducible apply Kept.fault
    | decide

theorem execMillStep_kept {t : Th} {s : State} : KeptOut [.hst, .lnk, .fwd, .swc, .tmb, .lnd, .mil, .mem, .tly, .ram, .out] s (execMillStep t s) := by
  unfold execMillStep
  try dsimp only
  repeat' first
    | with_reducible exact Kept.refl _
    | with_reducible exact Kept.idRefl
    | with_reducible apply fun hl h0 h => Kept.trans h (runMill_kept hl h0)
    | with_reducible apply Kept.step noteStep_kept
    | with_reducible apply Kept.ok
    | with_reducible apply Kept.jump
    | with_reducible apply Kept.again
    | with_reducible apply Kept.fault
    | with_reducible apply Kept.next
    | decide
    | (intro _; intros; try dsimp only)

theorem releaseBarrier_kept {bid : Nat} {s : State} : Kept [.mil] s (releaseBarrier bid s) := by
  unfold releaseBarrier
  try dsimp only
  repeat' first
    | with_reducible exact Kept.refl _
    | with_reducible exact Kept.idRefl
    | with_reducible apply Kept.step State.modBind_kept
    | with_reducible apply fun hf h => Kept.trans h (forEach_kept hf)
    | with_reducible apply Kept.step wake_kept
    | with_reducible apply Kept.ite
    | decide
    | (intro _; intros; try dsimp only)
    | dsimp only
    | split

theorem jumpTo_kept {t : Th} {n : Nat} {s : State} : KeptRes [] s (jumpTo t n s) := by
  unfold jumpTo
  try dsimp only
  repeat' first
    | with_reducible exact Kept.refl _
    | with_reducible exact Kept.idRefl
    | with_reducible apply Kept.ite
    | with_reducible apply Kept.ok
    | with_reducible apply Kept.jump
    | with_reducible apply Kept.again
    | with_reducible apply Kept.fault
    | decide
    | (intro _; intros; try dsimp only)
    | dsimp only
    | split

theorem aluWith_kept {t : Th} {i : Ins} {b : Nat} {s : State} : KeptRes [.mil] s (aluWith t i b s) := by
  unfold aluWith
  try dsimp only
  repeat' first
    | with_reducible exact Kept.refl _
    | with_reducible exact Kept.idRefl
    | with_reducible apply Kept.step setX_kept
    | with_reducible apply Kept.ok
    | with_reducible apply Kept.jump
    | with_reducible apply Kept.again
    | with_reducible apply Kept.fault
    | decide
    | (intro _; intros; try dsimp only)
    | dsimp only
    | split

theorem alu_kept {t : Th} {i : Ins} {s : State} : KeptRes [.mil] s (alu t i s) := by
  unfold alu
  try dsimp only
  repeat' first
    | with_reducible exact Kept.refl _
    | with_reducible exact Kept.idRefl
    | with_reducible apply guarded_kept
    | with_reducible apply KeptRes.step aluWith_kept
    | with_reducible apply Kept.ok
    | with_reducible apply Kept.jump
    | with_reducible apply Kept.again
    | with_reducible apply Kept.fault
    | decide

theorem handBack_kept {cid : Nat} {pos : Nat} {c : Ctx} {stage : Nat} {s : State} : Kept [.lnd, .mil, .tly, .fresh] s (handBack cid pos c stage s) := by
  unfold handBack
  try dsimp only
  repeat' first
    | with_reducible exact Kept.refl _
    | with_reducible exact Kept.idRefl
    | with_reducible apply Kept.step takeFreeBytes_kept
    | with_reducible apply Kept.step addExc_kept
    | with_reducible apply Kept.step modChunk_kept
    | with_reducible apply Kept.ite
    | decide
    | (with_reducible apply Kept.ofSnd; with_reducible assumption)
    | (intro _; intros; try dsimp only)
    | dsimp only
    | split

theorem millDone_kept {t : Th} {s : State} : KeptRes [.hst, .lnk, .srd, .svc, .fwd, .swc, .tmb, .lnd, .mil, .mem, .res, .tly, .nv, .ram, .fresh, .out] s (millDone t s) := by
  unfold millDone
  try dsimp only
  repeat' first
    | with_reducible exact Kept.refl _
    | with_reducible exact Kept.idRefl
    | with_reducible apply Kept.step endItem_kept
    | with_reducible apply Kept.step handBack_kept
    | with_reducible apply Kept.step runStages_kept
    | with_reducible apply Kept.step landTasks_kept
    | with_reducible apply Kept.ok
    | with_reducible apply Kept.jump
    | with_reducible apply Kept.again
    | with_reducible apply Kept.fault
    | decide
    | (with_reducible apply Kept.ofFst; with_reducible assumption)
    | (intro _; intros; try dsimp only)
    | dsimp only
    | split

theorem execMillDone_kept {t : Th} {s : State} : KeptOut [.hst, .lnk, .srd, .svc, .fwd, .swc, .tmb, .lnd, .mil, .mem, .res, .tly, .nv, .ram, .fresh, .out] s (execMillDone t s) := by
  unfold execMillDone
  try dsimp only
  repeat' first
    | with_reducible exact Kept.refl _
    | with_reducible exact Kept.idRefl
    | with_reducible apply fun hl h0 h => Kept.trans h (runMill_kept hl h0)
    | with_reducible apply KeptRes.step millDone_kept
    | with_reducible apply Kept.ok
    | with_reducible apply Kept.jump
    | with_reducible apply Kept.again
    | with_reducible apply Kept.fault
    | with_reducible apply Kept.next
    | decide
    | (intro _; intros; try dsimp only)

theorem ldx_kept {t : Th} {i : Ins} {s : State} : KeptRes [.mil, .tly] s (ldx t i s) := by
  unfold ldx
  try dsimp only
  repeat' first
    | with_reducible exact Kept.refl _
    | with_reducible exact Kept.idRefl
    | with_reducible apply guarded_kept
    | with_reducible apply Kept.step countSkid_kept
    | with_reducible apply Kept.step setX_kept
    | with_reducible apply Kept.ok
    | with_reducible apply Kept.jump
    | with_reducible apply Kept.again
    | with_reducible apply Kept.fault
    | decide

theorem execMillStx_kept {t : Th} {s : State} : KeptOut [.hst, .lnk, .fwd, .swc, .tmb, .lnd, .mil, .mem, .tly, .ram, .out] s (execMillStx t s) := by
  unfold execMillStx
  try dsimp only
  repeat' first
    | with_reducible exact Kept.refl _
    | with_reducible exact Kept.idRefl
    | with_reducible apply fun hl h0 h => Kept.trans h (runMill_kept hl h0)
    | with_reducible apply KeptRes.step stx_kept
    | with_reducible apply Kept.ok
    | with_reducible apply Kept.jump
    | with_reducible apply Kept.again
    | with_reducible apply Kept.fault
    | with_reducible apply Kept.next
    | decide
    | (intro _; intros; try dsimp only)

theorem yieldTo_kept {t : Th} {s : State} : Kept [.mil] s (yieldTo t s) := by
  unfold yieldTo
  try dsimp only
  repeat' first
    | with_reducible exact Kept.refl _
    | with_reducible exact Kept.idRefl
    | with_reducible apply Kept.step modThread_kept
    | decide

theorem execMillYield_kept {t : Th} {s : State} : KeptOut [.hst, .lnk, .fwd, .swc, .tmb, .lnd, .mil, .mem, .tly, .ram, .out] s (execMillYield t s) := by
  unfold execMillYield
  try dsimp only
  repeat' first
    | with_reducible exact Kept.refl _
    | with_reducible exact Kept.idRefl
    | with_reducible apply fun hl h0 h => Kept.trans h (runMill_kept hl h0)
    | with_reducible apply Kept.step yieldTo_kept
    | with_reducible apply Kept.ok
    | with_reducible apply Kept.jump
    | with_reducible apply Kept.again
    | with_reducible apply Kept.fault
    | with_reducible apply Kept.next
    | decide
    | (intro _; intros; try dsimp only)

theorem barrier_kept {t : Th} {s : State} : Kept [.mil] s (barrier t s) := by
  unfold barrier
  try dsimp only
  repeat' first
    | with_reducible exact Kept.refl _
    | with_reducible exact Kept.idRefl
    | with_reducible apply Kept.step noteStep_kept
    | with_reducible apply Kept.step modThread_kept
    | with_reducible apply Kept.step releaseBarrier_kept
    | with_reducible apply Kept.step State.modBind_kept
    | decide

theorem alui_kept {t : Th} {i : Ins} {s : State} : KeptRes [.mil] s (alui t i s) := by
  unfold alui
  try dsimp only
  repeat' first
    | with_reducible exact Kept.refl _
    | with_reducible exact Kept.idRefl
    | with_reducible apply guarded_kept
    | with_reducible apply KeptRes.step aluWith_kept
    | with_reducible apply Kept.ok
    | with_reducible apply Kept.jump
    | with_reducible apply Kept.again
    | with_reducible apply Kept.fault
    | decide

theorem execMillAlui_kept {t : Th} {s : State} : KeptOut [.hst, .lnk, .fwd, .swc, .tmb, .lnd, .mil, .mem, .tly, .ram, .out] s (execMillAlui t s) := by
  unfold execMillAlui
  try dsimp only
  repeat' first
    | with_reducible exact Kept.refl _
    | with_reducible exact Kept.idRefl
    | with_reducible apply fun hl h0 h => Kept.trans h (runMill_kept hl h0)
    | with_reducible apply KeptRes.step alui_kept
    | with_reducible apply Kept.ok
    | with_reducible apply Kept.jump
    | with_reducible apply Kept.again
    | with_reducible apply Kept.fault
    | with_reducible apply Kept.next
    | decide
    | (intro _; intros; try dsimp only)

theorem branch_kept {t : Th} {onZero : Bool} {i : Ins} {s : State} : KeptRes [] s (branch t onZero i s) := by
  unfold branch
  try dsimp only
  repeat' first
    | with_reducible exact Kept.refl _
    | with_reducible exact Kept.idRefl
    | with_reducible apply guarded_kept
    | with_reducible apply KeptRes.step jumpTo_kept
    | with_reducible apply Kept.ite
    | with_reducible apply Kept.ok
    | with_reducible apply Kept.jump
    | with_reducible apply Kept.again
    | with_reducible apply Kept.fault
    | decide
    | (intro _; intros; try dsimp only)
    | dsimp only
    | split

theorem execMillBrz_kept {t : Th} {s : State} : KeptOut [.hst, .lnk, .fwd, .swc, .tmb, .lnd, .mil, .mem, .tly, .ram, .out] s (execMillBrz t s) := by
  unfold execMillBrz
  try dsimp only
  repeat' first
    | with_reducible exact Kept.refl _
    | with_reducible exact Kept.idRefl
    | with_reducible apply fun hl h0 h => Kept.trans h (runMill_kept hl h0)
    | with_reducible apply KeptRes.step branch_kept
    | with_reducible apply Kept.ok
    | with_reducible apply Kept.jump
    | with_reducible apply Kept.again
    | with_reducible apply Kept.fault
    | with_reducible apply Kept.next
    | decide
    | (intro _; intros; try dsimp only)

theorem execMillJmp_kept {t : Th} {s : State} : KeptOut [.hst, .lnk, .fwd, .swc, .tmb, .lnd, .mil, .mem, .tly, .ram, .out] s (execMillJmp t s) := by
  unfold execMillJmp
  try dsimp only
  repeat' first
    | with_reducible exact Kept.refl _
    | with_reducible exact Kept.idRefl
    | with_reducible apply fun hl h0 h => Kept.trans h (runMill_kept hl h0)
    | with_reducible apply KeptRes.step jumpTo_kept
    | with_reducible apply Kept.ok
    | with_reducible apply Kept.jump
    | with_reducible apply Kept.again
    | with_reducible apply Kept.fault
    | with_reducible apply Kept.next
    | decide
    | (intro _; intros; try dsimp only)

theorem execMillAlu_kept {t : Th} {s : State} : KeptOut [.hst, .lnk, .fwd, .swc, .tmb, .lnd, .mil, .mem, .tly, .ram, .out] s (execMillAlu t s) := by
  unfold execMillAlu
  try dsimp only
  repeat' first
    | with_reducible exact Kept.refl _
    | with_reducible exact Kept.idRefl
    | with_reducible apply fun hl h0 h => Kept.trans h (runMill_kept hl h0)
    | with_reducible apply KeptRes.step alu_kept
    | with_reducible apply Kept.ok
    | with_reducible apply Kept.jump
    | with_reducible apply Kept.again
    | with_reducible apply Kept.fault
    | with_reducible apply Kept.next
    | decide
    | (intro _; intros; try dsimp only)

theorem trig_kept {t : Th} {i : Ins} {s : State} : KeptRes [.hst, .lnk, .srd, .svc, .fwd, .swc, .tmb, .lnd, .mil, .mem, .res, .tly, .nv, .ram, .out] s (trig t i s) := by
  unfold trig
  try dsimp only
  repeat' first
    | with_reducible exact Kept.refl _
    | with_reducible exact Kept.idRefl
    | with_reducible apply guarded_kept
    | with_reducible apply Kept.step landTasks_kept
    | with_reducible apply Kept.ok
    | with_reducible apply Kept.jump
    | with_reducible apply Kept.again
    | with_reducible apply Kept.fault
    | decide

theorem execMillTrig_kept {t : Th} {s : State} : KeptOut [.hst, .lnk, .srd, .svc, .fwd, .swc, .tmb, .lnd, .mil, .mem, .res, .tly, .nv, .ram, .out] s (execMillTrig t s) := by
  unfold execMillTrig
  try dsimp only
  repeat' first
    | with_reducible exact Kept.refl _
    | with_reducible exact Kept.idRefl
    | with_reducible apply fun hl h0 h => Kept.trans h (runMill_kept hl h0)
    | with_reducible apply KeptRes.step trig_kept
    | with_reducible apply Kept.ok
    | with_reducible apply Kept.jump
    | with_reducible apply Kept.again
    | with_reducible apply Kept.fault
    | with_reducible apply Kept.next
    | decide
    | (intro _; intros; try dsimp only)

theorem movi_kept {t : Th} {i : Ins} {s : State} : KeptRes [.mil] s (movi t i s) := by
  unfold movi
  try dsimp only
  repeat' first
    | with_reducible exact Kept.refl _
    | with_reducible exact Kept.idRefl
    | with_reducible apply guarded_kept
    | with_reducible apply Kept.step setX_kept
    | with_reducible apply Kept.ok
    | with_reducible apply Kept.jump
    | with_reducible apply Kept.again
    | with_reducible apply Kept.fault
    | decide

theorem execMillMovi_kept {t : Th} {s : State} : KeptOut [.hst, .lnk, .fwd, .swc, .tmb, .lnd, .mil, .mem, .tly, .ram, .out] s (execMillMovi t s) := by
  unfold execMillMovi
  try dsimp only
  repeat' first
    | with_reducible exact Kept.refl _
    | with_reducible exact Kept.idRefl
    | with_reducible apply fun hl h0 h => Kept.trans h (runMill_kept hl h0)
    | with_reducible apply KeptRes.step movi_kept
    | with_reducible apply Kept.ok
    | with_reducible apply Kept.jump
    | with_reducible apply Kept.again
    | with_reducible apply Kept.fault
    | with_reducible apply Kept.next
    | decide
    | (intro _; intros; try dsimp only)

theorem execMillLdx_kept {t : Th} {s : State} : KeptOut [.hst, .lnk, .fwd, .swc, .tmb, .lnd, .mil, .mem, .tly, .ram, .out] s (execMillLdx t s) := by
  unfold execMillLdx
  try dsimp only
  repeat' first
    | with_reducible exact Kept.refl _
    | with_reducible exact Kept.idRefl
    | with_reducible apply fun hl h0 h => Kept.trans h (runMill_kept hl h0)
    | with_reducible apply KeptRes.step ldx_kept
    | with_reducible apply Kept.ok
    | with_reducible apply Kept.jump
    | with_reducible apply Kept.again
    | with_reducible apply Kept.fault
    | with_reducible apply Kept.next
    | decide
    | (intro _; intros; try dsimp only)

theorem execMillNop_kept {t : Th} {s : State} : KeptOut [.hst, .lnk, .fwd, .swc, .tmb, .lnd, .mil, .mem, .tly, .ram, .out] s (execMillNop t s) := by
  unfold execMillNop
  try dsimp only
  repeat' first
    | with_reducible exact Kept.refl _
    | with_reducible exact Kept.idRefl
    | with_reducible apply fun hl h0 h => Kept.trans h (runMill_kept hl h0)
    | with_reducible apply Kept.ok
    | with_reducible apply Kept.jump
    | with_reducible apply Kept.again
    | with_reducible apply Kept.fault
    | with_reducible apply Kept.next
    | decide
    | (intro _; intros; try dsimp only)

theorem execMillBrnz_kept {t : Th} {s : State} : KeptOut [.hst, .lnk, .fwd, .swc, .tmb, .lnd, .mil, .mem, .tly, .ram, .out] s (execMillBrnz t s) := by
  unfold execMillBrnz
  try dsimp only
  repeat' first
    | with_reducible exact Kept.refl _
    | with_reducible exact Kept.idRefl
    | with_reducible apply fun hl h0 h => Kept.trans h (runMill_kept hl h0)
    | with_reducible apply KeptRes.step branch_kept
    | with_reducible apply Kept.ok
    | with_reducible apply Kept.jump
    | with_reducible apply Kept.again
    | with_reducible apply Kept.fault
    | with_reducible apply Kept.next
    | decide
    | (intro _; intros; try dsimp only)

theorem execMillBar_kept {t : Th} {s : State} : KeptOut [.hst, .lnk, .fwd, .swc, .tmb, .lnd, .mil, .mem, .tly, .ram, .out] s (execMillBar t s) := by
  unfold execMillBar
  try dsimp only
  repeat' first
    | with_reducible exact Kept.refl _
    | with_reducible exact Kept.idRefl
    | with_reducible apply fun hl h0 h => Kept.trans h (runMill_kept hl h0)
    | with_reducible apply Kept.step barrier_kept
    | with_reducible apply Kept.ok
    | with_reducible apply Kept.jump
    | with_reducible apply Kept.again
    | with_reducible apply Kept.fault
    | with_reducible apply Kept.next
    | decide
    | (intro _; intros; try dsimp only)

theorem tstLine_kept {t : Th} {i : Ins} {x : Tile} {s : State} : KeptRes [.lnd, .mil, .tly] s (tstLine t i x s) := by
  unfold tstLine
  try dsimp only
  repeat' first
    | with_reducible exact Kept.refl _
    | with_reducible exact Kept.idRefl
    | with_reducible apply Kept.step countSkid_kept
    | with_reducible apply Kept.step exc_kept
    | with_reducible apply Kept.step modChunk_kept
    | with_reducible apply Kept.ite
    | with_reducible apply Kept.ok
    | with_reducible apply Kept.jump
    | with_reducible apply Kept.again
    | with_reducible apply Kept.fault
    | decide
    | (intro _; intros; try dsimp only)
    | dsimp only
    | split

theorem tst_kept {t : Th} {i : Ins} {s : State} : KeptRes [.lnd, .mil, .tly, .ram] s (tst t i s) := by
  unfold tst
  try dsimp only
  repeat' first
    | with_reducible exact Kept.refl _
    | with_reducible exact Kept.idRefl
    | with_reducible apply guarded_kept
    | with_reducible apply KeptRes.step tstLine_kept
    | ((with_reducible apply KeptRes.ofOk); (with_reducible assumption); (with_reducible exact tstLine_kept))
    | with_reducible apply Kept.step countSkid_kept
    | with_reducible apply Kept.step exc_kept
    | with_reducible apply Kept.step wrScratch_kept
    | with_reducible apply Kept.step switchOut_kept
    | with_reducible apply Kept.step wrMem_kept
    | with_reducible apply Kept.ite
    | with_reducible apply Kept.ok
    | with_reducible apply Kept.jump
    | with_reducible apply Kept.again
    | with_reducible apply Kept.fault
    | decide
    | (intro _; intros; try dsimp only)
    | dsimp only
    | split

theorem tqCb_kept {t : Th} {i : Ins} {s : State} : KeptRes [.mil, .tly] s (tqCb t i s) := by
  unfold tqCb
  try dsimp only
  repeat' first
    | with_reducible exact Kept.refl _
    | with_reducible exact Kept.idRefl
    | with_reducible apply guarded_kept
    | with_reducible apply Kept.step countVec_kept
    | with_reducible apply Kept.step exc_kept
    | with_reducible apply Kept.step setTile_kept
    | with_reducible apply Kept.ite
    | with_reducible apply Kept.ok
    | with_reducible apply Kept.jump
    | with_reducible apply Kept.again
    | with_reducible apply Kept.fault
    | decide

theorem putVals_kept {t : Th} {i : Ins} {tr : Bool} {v : List FV} {e : Exc} {s : State} : KeptRes [.mil, .tly] s (putVals t i tr v e s) := by
  unfold putVals
  try dsimp only
  repeat' first
    | with_reducible exact Kept.refl _
    | with_reducible exact Kept.idRefl
    | with_reducible apply Kept.step countVec_kept
    | with_reducible apply Kept.step exc_kept
    | with_reducible apply Kept.step setTile_kept
    | with_reducible apply Kept.ok
    | with_reducible apply Kept.jump
    | with_reducible apply Kept.again
    | with_reducible apply Kept.fault
    | decide

theorem tq_kept {t : Th} {i : Ins} {s : State} : KeptRes [.mil, .tly] s (tq t i s) := by
  unfold tq
  try dsimp only
  repeat' first
    | with_reducible exact Kept.refl _
    | with_reducible exact Kept.idRefl
    | with_reducible apply KeptRes.step tqCb_kept
    | with_reducible apply guarded_kept
    | with_reducible apply KeptRes.step putVals_kept
    | with_reducible apply Kept.ite
    | with_reducible apply Kept.ok
    | with_reducible apply Kept.jump
    | with_reducible apply Kept.again
    | with_reducible apply Kept.fault
    | decide
    | (intro _; intros; try dsimp only)
    | dsimp only
    | split

theorem execMillTq_kept {t : Th} {s : State} : KeptOut [.hst, .lnk, .fwd, .swc, .tmb, .lnd, .mil, .mem, .tly, .ram, .out] s (execMillTq t s) := by
  unfold execMillTq
  try dsimp only
  repeat' first
    | with_reducible exact Kept.refl _
    | with_reducible exact Kept.idRefl
    | with_reducible apply fun hl h0 h => Kept.trans h (runMill_kept hl h0)
    | with_reducible apply KeptRes.step tq_kept
    | with_reducible apply Kept.ite
    | with_reducible apply Kept.ok
    | with_reducible apply Kept.jump
    | with_reducible apply Kept.again
    | with_reducible apply Kept.fault
    | with_reducible apply Kept.next
    | decide
    | (intro _; intros; try dsimp only)

theorem execMillTst_kept {t : Th} {s : State} : KeptOut [.hst, .lnk, .fwd, .swc, .tmb, .lnd, .mil, .mem, .tly, .ram, .out] s (execMillTst t s) := by
  unfold execMillTst
  try dsimp only
  repeat' first
    | with_reducible exact Kept.refl _
    | with_reducible exact Kept.idRefl
    | with_reducible apply fun hl h0 h => Kept.trans h (runMill_kept hl h0)
    | with_reducible apply KeptRes.step tst_kept
    | with_reducible apply Kept.ok
    | with_reducible apply Kept.jump
    | with_reducible apply Kept.again
    | with_reducible apply Kept.fault
    | with_reducible apply Kept.next
    | decide
    | (intro _; intros; try dsimp only)

theorem loaded_kept {t : Th} {i : Ins} {tr : Bool} {b : List Byte} {s : State} : KeptRes [.mil, .tly] s (loaded t i tr b s) := by
  unfold loaded
  try dsimp only
  repeat' first
    | with_reducible exact Kept.refl _
    | with_reducible exact Kept.idRefl
    | with_reducible apply Kept.step countSkid_kept
    | with_reducible apply Kept.step exc_kept
    | with_reducible apply Kept.step setTile_kept
    | with_reducible apply Kept.ok
    | with_reducible apply Kept.jump
    | with_reducible apply Kept.again
    | with_reducible apply Kept.fault
    | decide
    | (intro _; intros; try dsimp only)
    | dsimp only
    | split

theorem tldYard_kept {t : Th} {i : Ins} {tr : Bool} {s : State} : KeptRes [.hst, .lnk, .fwd, .swc, .tmb, .lnd, .mil, .mem, .tly, .ram, .out] s (tldYard t i tr s) := by
  unfold tldYard
  try dsimp only
  repeat' first
    | with_reducible exact Kept.refl _
    | with_reducible exact Kept.idRefl
    | with_reducible apply Kept.step readYard_kept
    | with_reducible apply Kept.step yardWait_kept
    | with_reducible apply Kept.step startFetch_kept
    | with_reducible apply KeptRes.step loaded_kept
    | ((with_reducible apply KeptRes.ofOk); (with_reducible assumption); (with_reducible exact loaded_kept))
    | with_reducible apply Kept.ite
    | with_reducible apply Kept.iteFst
    | with_reducible apply Kept.ok
    | with_reducible apply Kept.jump
    | with_reducible apply Kept.again
    | with_reducible apply Kept.fault
    | decide
    | (with_reducible apply Kept.ofFst; with_reducible assumption)
    | (intro _; intros; try dsimp only)
    | dsimp only
    | split

theorem tld_kept {t : Th} {i : Ins} {s : State} : KeptRes [.hst, .lnk, .fwd, .swc, .tmb, .lnd, .mil, .mem, .tly, .ram, .out] s (tld t i s) := by
  unfold tld
  try dsimp only
  repeat' first
    | with_reducible exact Kept.refl _
    | with_reducible exact Kept.idRefl
    | with_reducible apply guarded_kept
    | with_reducible apply KeptRes.step loaded_kept
    | ((with_reducible apply KeptRes.ofOk); (with_reducible assumption); (with_reducible exact loaded_kept))
    | with_reducible apply Kept.step switchOut_kept
    | with_reducible apply Kept.step countSkid_kept
    | with_reducible apply Kept.step exc_kept
    | with_reducible apply Kept.step setTile_kept
    | with_reducible apply KeptRes.step tldYard_kept
    | with_reducible apply Kept.ite
    | with_reducible apply Kept.ok
    | with_reducible apply Kept.jump
    | with_reducible apply Kept.again
    | with_reducible apply Kept.fault
    | decide
    | (intro _; intros; try dsimp only)
    | dsimp only
    | split

theorem tzero_kept {t : Th} {i : Ins} {s : State} : KeptRes [.mil, .tly] s (tzero t i s) := by
  unfold tzero
  try dsimp only
  repeat' first
    | with_reducible exact Kept.refl _
    | with_reducible exact Kept.idRefl
    | with_reducible apply guarded_kept
    | with_reducible apply Kept.step countVec_kept
    | with_reducible apply Kept.step setTile_kept
    | with_reducible apply Kept.ok
    | with_reducible apply Kept.jump
    | with_reducible apply Kept.again
    | with_reducible apply Kept.fault
    | decide

theorem execMillTzero_kept {t : Th} {s : State} : KeptOut [.hst, .lnk, .fwd, .swc, .tmb, .lnd, .mil, .mem, .tly, .ram, .out] s (execMillTzero t s) := by
  unfold execMillTzero
  try dsimp only
  repeat' first
    | with_reducible exact Kept.refl _
    | with_reducible exact Kept.idRefl
    | with_reducible apply fun hl h0 h => Kept.trans h (runMill_kept hl h0)
    | with_reducible apply KeptRes.step tzero_kept
    | with_reducible apply Kept.ok
    | with_reducible apply Kept.jump
    | with_reducible apply Kept.again
    | with_reducible apply Kept.fault
    | with_reducible apply Kept.next
    | decide
    | (intro _; intros; try dsimp only)

theorem tlut_kept {t : Th} {i : Ins} {s : State} : KeptRes [.mil, .tly] s (tlut t i s) := by
  unfold tlut
  try dsimp only
  repeat' first
    | with_reducible exact Kept.refl _
    | with_reducible exact Kept.idRefl
    | with_reducible apply guarded_kept
    | with_reducible apply KeptRes.step putVals_kept
    | with_reducible apply Kept.ok
    | with_reducible apply Kept.jump
    | with_reducible apply Kept.again
    | with_reducible apply Kept.fault
    | decide

theorem execMillTlut_kept {t : Th} {s : State} : KeptOut [.hst, .lnk, .fwd, .swc, .tmb, .lnd, .mil, .mem, .tly, .ram, .out] s (execMillTlut t s) := by
  unfold execMillTlut
  try dsimp only
  repeat' first
    | with_reducible exact Kept.refl _
    | with_reducible exact Kept.idRefl
    | with_reducible apply fun hl h0 h => Kept.trans h (runMill_kept hl h0)
    | with_reducible apply KeptRes.step tlut_kept
    | with_reducible apply Kept.ok
    | with_reducible apply Kept.jump
    | with_reducible apply Kept.again
    | with_reducible apply Kept.fault
    | with_reducible apply Kept.next
    | decide
    | (intro _; intros; try dsimp only)

theorem tcvt_kept {t : Th} {i : Ins} {s : State} : KeptRes [.mil, .tly] s (tcvt t i s) := by
  unfold tcvt
  try dsimp only
  repeat' first
    | with_reducible exact Kept.refl _
    | with_reducible exact Kept.idRefl
    | with_reducible apply guarded_kept
    | with_reducible apply KeptRes.step putVals_kept
    | with_reducible apply Kept.ok
    | with_reducible apply Kept.jump
    | with_reducible apply Kept.again
    | with_reducible apply Kept.fault
    | decide

theorem tscale_kept {t : Th} {i : Ins} {s : State} : KeptRes [.mil, .tly] s (tscale t i s) := by
  unfold tscale
  try dsimp only
  repeat' first
    | with_reducible exact Kept.refl _
    | with_reducible exact Kept.idRefl
    | with_reducible apply guarded_kept
    | with_reducible apply KeptRes.step putVals_kept
    | with_reducible apply Kept.ite
    | with_reducible apply Kept.ok
    | with_reducible apply Kept.jump
    | with_reducible apply Kept.again
    | with_reducible apply Kept.fault
    | decide

theorem execMillTscale_kept {t : Th} {s : State} : KeptOut [.hst, .lnk, .fwd, .swc, .tmb, .lnd, .mil, .mem, .tly, .ram, .out] s (execMillTscale t s) := by
  unfold execMillTscale
  try dsimp only
  repeat' first
    | with_reducible exact Kept.refl _
    | with_reducible exact Kept.idRefl
    | with_reducible apply fun hl h0 h => Kept.trans h (runMill_kept hl h0)
    | with_reducible apply KeptRes.step tscale_kept
    | with_reducible apply Kept.ok
    | with_reducible apply Kept.jump
    | with_reducible apply Kept.again
    | with_reducible apply Kept.fault
    | with_reducible apply Kept.next
    | decide
    | (intro _; intros; try dsimp only)

theorem tmma_kept {t : Th} {i : Ins} {s : State} : KeptRes [.mil, .tly] s (tmma t i s) := by
  unfold tmma
  try dsimp only
  repeat' first
    | with_reducible exact Kept.refl _
    | with_reducible exact Kept.idRefl
    | with_reducible apply guarded_kept
    | with_reducible apply Kept.step opSlots_kept
    | with_reducible apply Kept.step State.modCore_kept
    | with_reducible apply Kept.step exc_kept
    | with_reducible apply Kept.step setTile_kept
    | with_reducible apply Kept.ite
    | with_reducible apply Kept.ok
    | with_reducible apply Kept.jump
    | with_reducible apply Kept.again
    | with_reducible apply Kept.fault
    | decide
    | (intro _; intros; try dsimp only)
    | dsimp only
    | split

theorem execMillTmma_kept {t : Th} {s : State} : KeptOut [.hst, .lnk, .fwd, .swc, .tmb, .lnd, .mil, .mem, .tly, .ram, .out] s (execMillTmma t s) := by
  unfold execMillTmma
  try dsimp only
  repeat' first
    | with_reducible exact Kept.refl _
    | with_reducible exact Kept.idRefl
    | with_reducible apply fun hl h0 h => Kept.trans h (runMill_kept hl h0)
    | with_reducible apply KeptRes.step tmma_kept
    | with_reducible apply Kept.ok
    | with_reducible apply Kept.jump
    | with_reducible apply Kept.again
    | with_reducible apply Kept.fault
    | with_reducible apply Kept.next
    | decide
    | (intro _; intros; try dsimp only)

theorem elemTwo_kept {f : FV → FV → FV} {t : Th} {i : Ins} {s : State} : KeptRes [.mil, .tly] s (elemTwo f t i s) := by
  unfold elemTwo
  try dsimp only
  repeat' first
    | with_reducible exact Kept.refl _
    | with_reducible exact Kept.idRefl
    | with_reducible apply guarded_kept
    | with_reducible apply KeptRes.step putVals_kept
    | with_reducible apply Kept.ok
    | with_reducible apply Kept.jump
    | with_reducible apply Kept.again
    | with_reducible apply Kept.fault
    | decide

theorem execMillTmul_kept {t : Th} {s : State} : KeptOut [.hst, .lnk, .fwd, .swc, .tmb, .lnd, .mil, .mem, .tly, .ram, .out] s (execMillTmul t s) := by
  unfold execMillTmul
  try dsimp only
  repeat' first
    | with_reducible exact Kept.refl _
    | with_reducible exact Kept.idRefl
    | with_reducible apply fun hl h0 h => Kept.trans h (runMill_kept hl h0)
    | with_reducible apply KeptRes.step elemTwo_kept
    | with_reducible apply Kept.ok
    | with_reducible apply Kept.jump
    | with_reducible apply Kept.again
    | with_reducible apply Kept.fault
    | with_reducible apply Kept.next
    | decide
    | (intro _; intros; try dsimp only)

theorem execMillTld_kept {t : Th} {s : State} : KeptOut [.hst, .lnk, .fwd, .swc, .tmb, .lnd, .mil, .mem, .tly, .ram, .out] s (execMillTld t s) := by
  unfold execMillTld
  try dsimp only
  repeat' first
    | with_reducible exact Kept.refl _
    | with_reducible exact Kept.idRefl
    | with_reducible apply fun hl h0 h => Kept.trans h (runMill_kept hl h0)
    | with_reducible apply KeptRes.step tld_kept
    | with_reducible apply Kept.ite
    | with_reducible apply Kept.ok
    | with_reducible apply Kept.jump
    | with_reducible apply Kept.again
    | with_reducible apply Kept.fault
    | with_reducible apply Kept.next
    | decide
    | (intro _; intros; try dsimp only)

theorem execMillTadd_kept {t : Th} {s : State} : KeptOut [.hst, .lnk, .fwd, .swc, .tmb, .lnd, .mil, .mem, .tly, .ram, .out] s (execMillTadd t s) := by
  unfold execMillTadd
  try dsimp only
  repeat' first
    | with_reducible exact Kept.refl _
    | with_reducible exact Kept.idRefl
    | with_reducible apply fun hl h0 h => Kept.trans h (runMill_kept hl h0)
    | with_reducible apply KeptRes.step elemTwo_kept
    | with_reducible apply Kept.ok
    | with_reducible apply Kept.jump
    | with_reducible apply Kept.again
    | with_reducible apply Kept.fault
    | with_reducible apply Kept.next
    | decide
    | (intro _; intros; try dsimp only)

theorem tred_kept {t : Th} {i : Ins} {s : State} : KeptRes [.mil, .tly] s (tred t i s) := by
  unfold tred
  try dsimp only
  repeat' first
    | with_reducible exact Kept.refl _
    | with_reducible exact Kept.idRefl
    | with_reducible apply guarded_kept
    | with_reducible apply Kept.step countVec_kept
    | with_reducible apply Kept.step exc_kept
    | with_reducible apply Kept.step setTile_kept
    | with_reducible apply Kept.ite
    | with_reducible apply Kept.ok
    | with_reducible apply Kept.jump
    | with_reducible apply Kept.again
    | with_reducible apply Kept.fault
    | decide

theorem tdq_kept {t : Th} {i : Ins} {s : State} : KeptRes [.mil, .tly] s (tdq t i s) := by
  unfold tdq
  try dsimp only
  repeat' first
    | with_reducible exact Kept.refl _
    | with_reducible exact Kept.idRefl
    | with_reducible apply guarded_kept
    | with_reducible apply KeptRes.step putVals_kept
    | with_reducible apply Kept.ok
    | with_reducible apply Kept.jump
    | with_reducible apply Kept.again
    | with_reducible apply Kept.fault
    | decide

theorem execMillTdq_kept {t : Th} {s : State} : KeptOut [.hst, .lnk, .fwd, .swc, .tmb, .lnd, .mil, .mem, .tly, .ram, .out] s (execMillTdq t s) := by
  unfold execMillTdq
  try dsimp only
  repeat' first
    | with_reducible exact Kept.refl _
    | with_reducible exact Kept.idRefl
    | with_reducible apply fun hl h0 h => Kept.trans h (runMill_kept hl h0)
    | with_reducible apply KeptRes.step tdq_kept
    | with_reducible apply Kept.ok
    | with_reducible apply Kept.jump
    | with_reducible apply Kept.again
    | with_reducible apply Kept.fault
    | with_reducible apply Kept.next
    | decide
    | (intro _; intros; try dsimp only)

theorem execMillTcvt_kept {t : Th} {s : State} : KeptOut [.hst, .lnk, .fwd, .swc, .tmb, .lnd, .mil, .mem, .tly, .ram, .out] s (execMillTcvt t s) := by
  unfold execMillTcvt
  try dsimp only
  repeat' first
    | with_reducible exact Kept.refl _
    | with_reducible exact Kept.idRefl
    | with_reducible apply fun hl h0 h => Kept.trans h (runMill_kept hl h0)
    | with_reducible apply KeptRes.step tcvt_kept
    | with_reducible apply Kept.ok
    | with_reducible apply Kept.jump
    | with_reducible apply Kept.again
    | with_reducible apply Kept.fault
    | with_reducible apply Kept.next
    | decide
    | (intro _; intros; try dsimp only)

theorem execMillTred_kept {t : Th} {s : State} : KeptOut [.hst, .lnk, .fwd, .swc, .tmb, .lnd, .mil, .mem, .tly, .ram, .out] s (execMillTred t s) := by
  unfold execMillTred
  try dsimp only
  repeat' first
    | with_reducible exact Kept.refl _
    | with_reducible exact Kept.idRefl
    | with_reducible apply fun hl h0 h => Kept.trans h (runMill_kept hl h0)
    | with_reducible apply KeptRes.step tred_kept
    | with_reducible apply Kept.ok
    | with_reducible apply Kept.jump
    | with_reducible apply Kept.again
    | with_reducible apply Kept.fault
    | with_reducible apply Kept.next
    | decide
    | (intro _; intros; try dsimp only)

theorem ynext_kept {t : Th} {i : Ins} {s : State} : KeptRes [.hst, .lnk, .fwd, .swc, .tmb, .lnd, .mil, .mem, .tly, .ram, .out] s (ynext t i s) := by
  unfold ynext
  try dsimp only
  repeat' first
    | with_reducible exact Kept.refl _
    | with_reducible exact Kept.idRefl
    | with_reducible apply guarded_kept
    | with_reducible apply Kept.step endItem_kept
    | with_reducible apply Kept.step modItem_kept
    | with_reducible apply Kept.ite
    | with_reducible apply Kept.ok
    | with_reducible apply Kept.jump
    | with_reducible apply Kept.again
    | with_reducible apply Kept.fault
    | decide
    | (intro _; intros; try dsimp only)
    | dsimp only
    | split

theorem execMillYnext_kept {t : Th} {s : State} : KeptOut [.hst, .lnk, .fwd, .swc, .tmb, .lnd, .mil, .mem, .tly, .ram, .out] s (execMillYnext t s) := by
  unfold execMillYnext
  try dsimp only
  repeat' first
    | with_reducible exact Kept.refl _
    | with_reducible exact Kept.idRefl
    | with_reducible apply fun hl h0 h => Kept.trans h (runMill_kept hl h0)
    | with_reducible apply KeptRes.step ynext_kept
    | with_reducible apply Kept.ok
    | with_reducible apply Kept.jump
    | with_reducible apply Kept.again
    | with_reducible apply Kept.fault
    | with_reducible apply Kept.next
    | decide
    | (intro _; intros; try dsimp only)

theorem yflush_kept {t : Th} {i : Ins} {s : State} : KeptRes [.hst, .lnk, .fwd, .swc, .tmb, .lnd, .mil, .mem, .tly, .ram, .out] s (yflush t i s) := by
  unfold yflush
  try dsimp only
  repeat' first
    | with_reducible exact Kept.refl _
    | with_reducible exact Kept.idRefl
    | with_reducible apply guarded_kept
    | with_reducible apply Kept.step flushYard_kept
    | with_reducible apply Kept.ite
    | with_reducible apply Kept.ok
    | with_reducible apply Kept.jump
    | with_reducible apply Kept.again
    | with_reducible apply Kept.fault
    | decide
    | (intro _; intros; try dsimp only)
    | dsimp only
    | split

theorem awaitOutput_kept {t : Th} {s : State} : Kept [.mil] s (awaitOutput t s) := by
  unfold awaitOutput
  try dsimp only
  repeat' first
    | with_reducible exact Kept.refl _
    | with_reducible exact Kept.idRefl
    | with_reducible apply Kept.step switchOut_kept
    | with_reducible apply Kept.ite
    | decide

theorem execMillYflush_kept {t : Th} {s : State} : KeptOut [.hst, .lnk, .fwd, .swc, .tmb, .lnd, .mil, .mem, .tly, .ram, .out] s (execMillYflush t s) := by
  unfold execMillYflush
  try dsimp only
  repeat' first
    | with_reducible exact Kept.refl _
    | with_reducible exact Kept.idRefl
    | with_reducible apply fun hl h0 h => Kept.trans h (runMill_kept hl h0)
    | with_reducible apply KeptRes.step yflush_kept
    | with_reducible apply Kept.ok
    | with_reducible apply Kept.jump
    | with_reducible apply Kept.again
    | with_reducible apply Kept.fault
    | with_reducible apply Kept.next
    | decide
    | (intro _; intros; try dsimp only)

theorem putWords_kept {t : Th} {d : Nat} {l : List Nat} {s : State} : Kept [.mil] s (putWords t d l s) := by
  unfold putWords
  try dsimp only
  repeat' first
    | with_reducible exact Kept.refl _
    | with_reducible exact Kept.idRefl
    | with_reducible apply fun hf h => Kept.trans h (forEach_kept hf)
    | with_reducible apply Kept.step setX_kept
    | decide
    | (intro _; intros; try dsimp only)

theorem yget_kept {t : Th} {i : Ins} {s : State} : KeptRes [.hst, .lnk, .fwd, .swc, .tmb, .lnd, .mil, .mem, .tly, .ram, .out] s (yget t i s) := by
  unfold yget
  try dsimp only
  repeat' first
    | with_reducible exact Kept.refl _
    | with_reducible exact Kept.idRefl
    | with_reducible apply guarded_kept
    | with_reducible apply Kept.step readYard_kept
    | with_reducible apply Kept.step yardWait_kept
    | with_reducible apply Kept.step startFetch_kept
    | with_reducible apply Kept.step setX_kept
    | with_reducible apply Kept.step countSkid_kept
    | with_reducible apply Kept.step putWords_kept
    | with_reducible apply Kept.ok
    | with_reducible apply Kept.jump
    | with_reducible apply Kept.again
    | with_reducible apply Kept.fault
    | decide
    | (with_reducible apply Kept.ofFst; with_reducible assumption)
    | (intro _; intros; try dsimp only)
    | dsimp only
    | split

theorem execMillYget_kept {t : Th} {s : State} : KeptOut [.hst, .lnk, .fwd, .swc, .tmb, .lnd, .mil, .mem, .tly, .ram, .out] s (execMillYget t s) := by
  unfold execMillYget
  try dsimp only
  repeat' first
    | with_reducible exact Kept.refl _
    | with_reducible exact Kept.idRefl
    | with_reducible apply fun hl h0 h => Kept.trans h (runMill_kept hl h0)
    | with_reducible apply KeptRes.step yget_kept
    | with_reducible apply Kept.ok
    | with_reducible apply Kept.jump
    | with_reducible apply Kept.again
    | with_reducible apply Kept.fault
    | with_reducible apply Kept.next
    | decide
    | (intro _; intros; try dsimp only)

theorem sendCopies_kept {t : Th} {p : Pkt} {s : State} : Kept [.hst, .lnk, .srd, .fwd, .swc, .tmb, .lnd, .mil, .mem, .res, .tly, .nv, .ram, .out] s (sendCopies t p s) := by
  unfold sendCopies
  try dsimp only
  repeat' first
    | with_reducible exact Kept.refl _
    | with_reducible exact Kept.idRefl
    | with_reducible apply Kept.step readEnts_kept
    | with_reducible apply Kept.step discard_kept
    | with_reducible apply fun hf h => Kept.trans h (forEach_kept hf)
    | with_reducible apply Kept.step readMember_kept
    | with_reducible apply Kept.step shortRepl_kept
    | with_reducible apply Kept.step originateAny_kept
    | with_reducible apply Kept.ite
    | with_reducible apply Kept.iteFst
    | decide
    | (with_reducible apply Kept.ofFst; with_reducible assumption)
    | (intro _; intros; try dsimp only)
    | dsimp only
    | split

theorem send_kept {t : Th} {i : Ins} {s : State} : KeptRes [.hst, .lnk, .srd, .fwd, .swc, .tmb, .lnd, .mil, .mem, .res, .tly, .nv, .ram, .fresh, .out] s (send t i s) := by
  unfold send
  try dsimp only
  repeat' first
    | with_reducible exact Kept.refl _
    | with_reducible exact Kept.idRefl
    | with_reducible apply guarded_kept
    | with_reducible apply Kept.step takeFree_kept
    | with_reducible apply Kept.step countSkid_kept
    | with_reducible apply Kept.step discard_kept
    | with_reducible apply Kept.step awaitOutput_kept
    | with_reducible apply Kept.step sendCopies_kept
    | with_reducible apply Kept.step originateAny_kept
    | with_reducible apply Kept.ite
    | with_reducible apply Kept.ok
    | with_reducible apply Kept.jump
    | with_reducible apply Kept.again
    | with_reducible apply Kept.fault
    | decide
    | (with_reducible apply Kept.ofSnd; with_reducible assumption)
    | (intro _; intros; try dsimp only)
    | dsimp only
    | split

theorem execMillSend_kept {t : Th} {s : State} : KeptOut [.hst, .lnk, .srd, .fwd, .swc, .tmb, .lnd, .mil, .mem, .res, .tly, .nv, .ram, .fresh, .out] s (execMillSend t s) := by
  unfold execMillSend
  try dsimp only
  repeat' first
    | with_reducible exact Kept.refl _
    | with_reducible exact Kept.idRefl
    | with_reducible apply fun hl h0 h => Kept.trans h (runMill_kept hl h0)
    | with_reducible apply KeptRes.step send_kept
    | with_reducible apply Kept.ok
    | with_reducible apply Kept.jump
    | with_reducible apply Kept.again
    | with_reducible apply Kept.fault
    | with_reducible apply Kept.next
    | decide
    | (intro _; intros; try dsimp only)

theorem sendt_kept {t : Th} {i : Ins} {s : State} : KeptRes [.hst, .lnk, .fwd, .swc, .tmb, .lnd, .mil, .mem, .tly, .ram, .out] s (sendt t i s) := by
  unfold sendt
  try dsimp only
  repeat' first
    | with_reducible exact Kept.refl _
    | with_reducible exact Kept.idRefl
    | with_reducible apply guarded_kept
    | with_reducible apply Kept.step countSkid_kept
    | with_reducible apply Kept.step modItem_kept
    | with_reducible apply Kept.step windfall_kept
    | with_reducible apply Kept.step State.modBind_kept
    | with_reducible apply Kept.step awaitOutput_kept
    | with_reducible apply Kept.step releaseAllOuts_kept
    | with_reducible apply Kept.ite
    | with_reducible apply Kept.ok
    | with_reducible apply Kept.jump
    | with_reducible apply Kept.again
    | with_reducible apply Kept.fault
    | decide
    | (intro _; intros; try dsimp only)
    | dsimp only
    | split

theorem execMillSendt_kept {t : Th} {s : State} : KeptOut [.hst, .lnk, .fwd, .swc, .tmb, .lnd, .mil, .mem, .tly, .ram, .out] s (execMillSendt t s) := by
  unfold execMillSendt
  try dsimp only
  repeat' first
    | with_reducible exact Kept.refl _
    | with_reducible exact Kept.idRefl
    | with_reducible apply fun hl h0 h => Kept.trans h (runMill_kept hl h0)
    | with_reducible apply KeptRes.step sendt_kept
    | with_reducible apply Kept.ok
    | with_reducible apply Kept.jump
    | with_reducible apply Kept.again
    | with_reducible apply Kept.fault
    | with_reducible apply Kept.next
    | decide
    | (intro _; intros; try dsimp only)

theorem yput_kept {t : Th} {i : Ins} {s : State} : KeptRes [.mil, .tly] s (yput t i s) := by
  unfold yput
  try dsimp only
  repeat' first
    | with_reducible exact Kept.refl _
    | with_reducible exact Kept.idRefl
    | with_reducible apply guarded_kept
    | with_reducible apply Kept.step yardWait_kept
    | with_reducible apply Kept.step countSkid_kept
    | with_reducible apply Kept.step State.setBind_kept
    | with_reducible apply Kept.ite
    | with_reducible apply Kept.ok
    | with_reducible apply Kept.jump
    | with_reducible apply Kept.again
    | with_reducible apply Kept.fault
    | decide
    | (intro _; intros; try dsimp only)
    | dsimp only
    | split

theorem execMillYput_kept {t : Th} {s : State} : KeptOut [.hst, .lnk, .fwd, .swc, .tmb, .lnd, .mil, .mem, .tly, .ram, .out] s (execMillYput t s) := by
  unfold execMillYput
  try dsimp only
  repeat' first
    | with_reducible exact Kept.refl _
    | with_reducible exact Kept.idRefl
    | with_reducible apply fun hl h0 h => Kept.trans h (runMill_kept hl h0)
    | with_reducible apply KeptRes.step yput_kept
    | with_reducible apply Kept.ok
    | with_reducible apply Kept.jump
    | with_reducible apply Kept.again
    | with_reducible apply Kept.fault
    | with_reducible apply Kept.next
    | decide
    | (intro _; intros; try dsimp only)

end Sys2Proof.Machine
end

