-- ==== Sys2Proof/Laws/KeptLinks.lean ====
section
/-! SUPPORT. What each operation and meaning of the files Machine/Cordon, OptOps, LinkOps, LaneRx, Links, Mailbox, LaneOps, Lanes, TmbOps, TimeBase, Optics changes, and what it never undoes. -/
set_option linter.unusedTactic false
set_option linter.unreachableTactic false
namespace Sys2Proof.Machine
open Sys2Proof

theorem sendEngRaw_kept {e : Nat} {type : Nat} {seq : Byte} {payload : List Byte} {s : State} : Kept [.svc, .out] s (sendEngRaw e type seq payload s) := by
  unfold sendEngRaw
  try dsimp only
  repeat' first
    | with_reducible exact Kept.refl _
    | with_reducible exact Kept.idRefl
    | with_reducible apply Kept.step sendMsg_kept
    | decide

theorem sendEng_kept {e : Nat} {type : Nat} {payload : List Byte} {fly : Option Nat} {s : State} : Kept [.svc, .opt, .out] s (sendEng e type payload fly s) := by
  unfold sendEng
  try dsimp only
  repeat' first
    | with_reducible exact Kept.refl _
    | with_reducible exact Kept.idRefl
    | with_reducible apply Kept.step sendEngRaw_kept
    | with_reducible apply Kept.step State.modEngine_kept
    | decide

theorem sendLoop_kept {p : Nat} {element : Nat} {action : Nat} {fly : Option Nat} {s : State} : Kept [.svc, .opt, .out] s (sendLoop p element action fly s) := by
  unfold sendLoop
  try dsimp only
  repeat' first
    | with_reducible exact Kept.refl _
    | with_reducible exact Kept.idRefl
    | with_reducible apply Kept.step sendEng_kept
    | decide

theorem sweepRx_kept {p : Nat} {s : State} : Kept [.svc, .opt, .out] s (sweepRx p s) := by
  unfold sweepRx
  try dsimp only
  repeat' first
    | with_reducible exact Kept.refl _
    | with_reducible exact Kept.idRefl
    | with_reducible apply Kept.step State.modPath_kept
    | with_reducible apply Kept.step sendLoop_kept
    | with_reducible apply Kept.ite
    | decide

theorem sweepTx_kept {p : Nat} {s : State} : Kept [.svc, .opt, .out] s (sweepTx p s) := by
  unfold sweepTx
  try dsimp only
  repeat' first
    | with_reducible exact Kept.refl _
    | with_reducible exact Kept.idRefl
    | with_reducible apply Kept.step sendLoop_kept
    | with_reducible apply Kept.step State.modPath_kept
    | decide

theorem sweepBoth_kept {p : Nat} {s : State} : Kept [.svc, .opt, .out] s (sweepBoth p s) := by
  unfold sweepBoth
  try dsimp only
  repeat' first
    | with_reducible exact Kept.refl _
    | with_reducible exact Kept.idRefl
    | with_reducible apply Kept.step State.modPath_kept
    | with_reducible apply Kept.step sweepRx_kept
    | with_reducible apply Kept.step sweepTx_kept
    | with_reducible apply Kept.ite
    | decide

theorem sendXc_kept {from_ : Nat} {to_ : Nat} {action : Nat} {num : Nat} {s : State} : Kept [.svc, .opt, .out] s (sendXc from_ to_ action num s) := by
  unfold sendXc
  try dsimp only
  repeat' first
    | with_reducible exact Kept.refl _
    | with_reducible exact Kept.idRefl
    | with_reducible apply Kept.step sendEng_kept
    | decide

theorem settleFlys_kept {s : State} : Kept [.opt] s (settleFlys s) := by
  unfold settleFlys
  try dsimp only
  repeat' first
    | with_reducible exact Kept.refl _
    | with_reducible exact Kept.idRefl
    | with_reducible apply fun hf h => Kept.trans h (forEach_kept hf)
    | with_reducible apply Kept.step State.modFly_kept
    | with_reducible apply Kept.ite
    | decide
    | (intro _; intros; try dsimp only)

theorem rejoin_kept {l : Nat} {s : State} : Kept [.lnk, .srd, .out] s (rejoin l s) := by
  unfold rejoin
  try dsimp only
  repeat' first
    | with_reducible exact Kept.refl _
    | with_reducible exact Kept.idRefl
    | with_reducible apply Kept.step rxLaneOn_kept
    | with_reducible apply Kept.ite
    | decide
    | (intro _; intros; try dsimp only)
    | dsimp only
    | split

theorem flyRelease_kept {num : Nat} {s : State} : Kept [.svc, .opt, .out] s (flyRelease num s) := by
  unfold flyRelease
  try dsimp only
  repeat' first
    | with_reducible exact Kept.refl _
    | with_reducible exact Kept.idRefl
    | with_reducible apply Kept.step sendXc_kept
    | with_reducible apply Kept.step sendLoop_kept
    | with_reducible apply Kept.step State.modPath_kept
    | decide

theorem pathSet_kept {p : Nat} {txheat : Nat} {rxheat : Nat} {lbias : Nat} {ltune : Nat} {s : State} : Kept [.svc, .opt, .out] s (pathSet p txheat rxheat lbias ltune s) := by
  unfold pathSet
  try dsimp only
  repeat' first
    | with_reducible exact Kept.refl _
    | with_reducible exact Kept.idRefl
    | with_reducible apply Kept.step State.modPath_kept
    | with_reducible apply Kept.step sendEng_kept
    | decide

theorem sendPathSet_kept {p : Nat} {s : State} : Kept [.svc, .opt, .out] s (sendPathSet p s) := by
  unfold sendPathSet
  try dsimp only
  repeat' first
    | with_reducible exact Kept.refl _
    | with_reducible exact Kept.idRefl
    | with_reducible apply Kept.step pathSet_kept
    | decide
    | (intro _; intros; try dsimp only)
    | dsimp only
    | split

theorem flyCross_kept {num : Nat} {s : State} : Kept [.svc, .opt, .out] s (flyCross num s) := by
  unfold flyCross
  try dsimp only
  repeat' first
    | with_reducible exact Kept.refl _
    | with_reducible exact Kept.idRefl
    | with_reducible apply Kept.step sendLoop_kept
    | with_reducible apply Kept.step sendXc_kept
    | with_reducible apply Kept.step State.modPath_kept
    | with_reducible apply Kept.ite
    | decide

theorem flyLanesBack_kept {num : Nat} {s : State} : Kept [.lnk, .srd, .out] s (flyLanesBack num s) := by
  unfold flyLanesBack
  try dsimp only
  repeat' first
    | with_reducible exact Kept.refl _
    | with_reducible exact Kept.idRefl
    | with_reducible apply Kept.step rejoin_kept
    | decide

theorem flyNotice_kept {opcode : Nat} {num : Nat} {instant : Nat} {s : State} : Kept [.hst, .lnk, .srd, .fwd, .swc, .tmb, .lnd, .mil, .mem, .res, .tly, .nv, .ram, .out] s (flyNotice opcode num instant s) := by
  unfold flyNotice
  try dsimp only
  repeat' first
    | with_reducible exact Kept.refl _
    | with_reducible exact Kept.idRefl
    | with_reducible apply Kept.step sendControl_kept
    | decide

theorem flyEnd_kept {num : Nat} {reason : Nat} {down : Bool} {s : State} : Kept [.hst, .lnk, .srd, .svc, .fwd, .swc, .tmb, .lnd, .mil, .mem, .opt, .res, .tly, .nv, .ram, .out] s (flyEnd num reason down s) := by
  unfold flyEnd
  try dsimp only
  repeat' first
    | with_reducible exact Kept.refl _
    | with_reducible exact Kept.idRefl
    | with_reducible apply Kept.step flyNotice_kept
    | with_reducible apply Kept.step State.modFly_kept
    | with_reducible apply Kept.step State.modPath_kept
    | with_reducible apply Kept.step flyRelease_kept
    | with_reducible apply Kept.step settleFlys_kept
    | with_reducible apply Kept.step flyLanesBack_kept
    | with_reducible apply Kept.step raiseOpt_kept
    | with_reducible apply Kept.ite
    | decide

theorem flyEndAll_kept {sel : Fly → Bool} {reason : Nat} {s : State} : Kept [.hst, .lnk, .srd, .svc, .fwd, .swc, .tmb, .lnd, .mil, .mem, .opt, .res, .tly, .nv, .ram, .out] s (flyEndAll sel reason s) := by
  unfold flyEndAll
  try dsimp only
  repeat' first
    | with_reducible exact Kept.refl _
    | with_reducible exact Kept.idRefl
    | with_reducible apply fun hf h => Kept.trans h (forEach_kept hf)
    | with_reducible apply Kept.step flyEnd_kept
    | decide
    | (intro _; intros; try dsimp only)

theorem endTest_kept {s : State} : Kept [.hst, .res, .out] s (endTest s) := by
  unfold endTest
  try dsimp only
  repeat' first
    | with_reducible exact Kept.refl _
    | with_reducible exact Kept.idRefl
    | with_reducible apply Kept.step fire_kept
    | (fail_if_no_progress ((with_reducible apply Kept.put_res); decide; with_reducible exact rfl))
    | decide

theorem abortSelfTest_kept {s : State} : Kept [.hst, .res, .out] s (abortSelfTest s) := by
  unfold abortSelfTest
  try dsimp only
  repeat' first
    | with_reducible exact Kept.refl _
    | with_reducible exact Kept.idRefl
    | with_reducible apply Kept.step endTest_kept
    | with_reducible apply Kept.ite
    | (fail_if_no_progress ((with_reducible apply Kept.put_res); decide; with_reducible exact rfl))
    | decide

theorem cordonReplat_kept {s : State} : Kept [.plt, .hst, .out] s (cordonReplat s) := by
  unfold cordonReplat
  try dsimp only
  repeat' first
    | with_reducible exact Kept.refl _
    | with_reducible exact Kept.idRefl
    | with_reducible apply Kept.step fire_kept
    | with_reducible apply Kept.step State.setDist_kept
    | with_reducible apply Kept.ite
    | (fail_if_no_progress ((with_reducible apply Kept.put_plt); decide; with_reducible exact rfl))
    | decide
    | (intro _; intros; try dsimp only)
    | dsimp only
    | split

theorem cordonRecord_kept {cause : Nat} {s : State} : Kept [.glb, .res, .lease] s (cordonRecord cause s) := by
  unfold cordonRecord
  exact Kept.put_res_lease (by decide) (by decide) (Kept.put_glb (by decide) (Kept.refl s))

theorem dropAll_kept {s : State} : Kept [.hst, .lnk, .fwd, .swc, .tmb, .lnd, .mil, .mem, .tly, .ram, .out] s (dropAll s) := by
  unfold dropAll
  try dsimp only
  repeat' first
    | with_reducible exact Kept.refl _
    | with_reducible exact Kept.idRefl
    | with_reducible apply fun hf h => Kept.trans h (forEach_kept hf)
    | with_reducible apply fun hl h0 h => Kept.trans h (purgeBinding_kept hl h0)
    | with_reducible apply Kept.step dropFlow_kept
    | with_reducible apply fun hl h0 h => Kept.trans h (purgeQueue_kept hl h0)
    | with_reducible apply Kept.step discardQ_kept
    | with_reducible apply fun hl h0 h => Kept.trans h (purgeFifo_kept hl h0)
    | with_reducible apply Kept.step discard_kept
    | with_reducible apply fun hl h0 h => Kept.trans h (purgeRo_kept hl h0)
    | (fail_if_no_progress ((with_reducible apply Kept.put_swc); decide))
    | (fail_if_no_progress ((with_reducible apply Kept.put_lnd); decide))
    | (fail_if_no_progress ((with_reducible apply Kept.put_mem); decide))
    | (fail_if_no_progress ((with_reducible apply Kept.put); (intro b hb; cases b <;> first | exact rfl | exact absurd (by decide) hb)))
    | decide
    | (intro _; intros; try dsimp only)

theorem abortAllFences_kept {s : State} : Kept [.hst, .lnd, .tly, .ram, .out] s (abortAllFences s) := by
  unfold abortAllFences
  try dsimp only
  repeat' first
    | with_reducible exact Kept.refl _
    | with_reducible exact Kept.idRefl
    | with_reducible apply fun hf h => Kept.trans h (forEach_kept hf)
    | with_reducible apply Kept.step fenceRecord_kept
    | (fail_if_no_progress ((with_reducible apply Kept.put_lnd); decide))
    | decide
    | (intro _; intros; try dsimp only)

theorem selfCordon_kept {cause : Nat} {s : State} : Kept [.glb, .plt, .hst, .lnk, .srd, .svc, .fwd, .swc, .tmb, .lnd, .mil, .mem, .opt, .res, .tly, .nv, .ram, .out, .lease] s (selfCordon cause s) := by
  unfold selfCordon
  try dsimp only
  repeat' first
    | with_reducible exact Kept.refl _
    | with_reducible exact Kept.idRefl
    | with_reducible apply Kept.step abortSelfTest_kept
    | with_reducible apply Kept.step cordonReplat_kept
    | with_reducible apply Kept.step setDev_kept
    | with_reducible apply Kept.step cordonRecord_kept
    | with_reducible apply Kept.step dropAll_kept
    | with_reducible apply Kept.step abortAllFences_kept
    | with_reducible apply Kept.step fire_kept
    | with_reducible apply Kept.step flyEndAll_kept
    | with_reducible apply Kept.ite
    | (fail_if_no_progress ((with_reducible apply Kept.put_res); decide; with_reducible exact rfl))
    | (fail_if_no_progress ((with_reducible apply Kept.put_res_lease); decide; decide))
    | decide

theorem checkLease_kept {s : State} : Kept [.glb, .plt, .hst, .lnk, .srd, .svc, .fwd, .swc, .tmb, .lnd, .mil, .mem, .opt, .res, .tly, .nv, .ram, .out, .lease] s (checkLease s) := by
  unfold checkLease
  try dsimp only
  repeat' first
    | with_reducible exact Kept.refl _
    | with_reducible exact Kept.idRefl
    | with_reducible apply Kept.step selfCordon_kept
    | with_reducible apply Kept.ite
    | decide

theorem holdTimers_kept {s : State} : Kept [.lnd] s (holdTimers s) := by
  unfold holdTimers
  try dsimp only
  repeat' first
    | with_reducible exact Kept.refl _
    | with_reducible exact Kept.idRefl
    | (fail_if_no_progress ((with_reducible apply Kept.put_lnd); decide))

theorem execResume_kept {p : HPort} {s : State} : KeptOut [.glb, .plt, .hst, .lnk, .srd, .svc, .fwd, .swc, .tmb, .lnd, .mil, .mem, .opt, .res, .tly, .nv, .ram, .out, .lease] s (execResume p s) := by
  unfold execResume
  try dsimp only
  repeat' first
    | with_reducible exact Kept.refl _
    | with_reducible exact Kept.idRefl
    | with_reducible apply fun hl h0 h => Kept.trans h (hostWrite_kept hl h0)
    | with_reducible apply Kept.step checkLease_kept
    | with_reducible apply Kept.step setDev_kept
    | with_reducible apply Kept.step holdTimers_kept
    | with_reducible apply Kept.step setReqErr_kept
    | with_reducible apply Kept.ite
    | with_reducible apply Kept.next
    | decide
    | (intro _; intros; try dsimp only)

theorem flushReorder_kept {d : Nat} {s : State} : Kept [.hst, .lnk, .srd, .svc, .fwd, .swc, .tmb, .lnd, .mil, .mem, .res, .tly, .nv, .ram, .out] s (flushReorder d s) := by
  unfold flushReorder
  try dsimp only
  repeat' first
    | with_reducible exact Kept.refl _
    | with_reducible exact Kept.idRefl
    | with_reducible apply Kept.step applyRo_kept
    | with_reducible apply Kept.step setRo_kept
    | decide

theorem execQuiesce_kept {p : HPort} {s : State} : KeptOut [.glb, .hst, .lnk, .srd, .svc, .fwd, .swc, .tmb, .lnd, .mil, .mem, .res, .tly, .nv, .ram, .out] s (execQuiesce p s) := by
  unfold execQuiesce
  try dsimp only
  repeat' first
    | with_reducible exact Kept.refl _
    | with_reducible exact Kept.idRefl
    | with_reducible apply fun hl h0 h => Kept.trans h (hostWrite_kept hl h0)
    | with_reducible apply Kept.step setReqErr_kept
    | with_reducible apply fun hf h => Kept.trans h (forEach_kept hf)
    | with_reducible apply Kept.step flushReorder_kept
    | with_reducible apply Kept.ite
    | (fail_if_no_progress ((with_reducible apply Kept.put_glb); decide))
    | with_reducible apply Kept.next
    | decide
    | (intro _; intros; try dsimp only)

theorem leaseCommand_kept {p : HPort} {f : State → State} {s : State} {L : List Blk} (hL : [.glb, .plt, .hst, .lnk, .srd, .svc, .fwd, .swc, .tmb, .lnd, .mil, .mem, .opt, .res, .tly, .nv, .ram, .out, .lease] ⊆ L) (hf : ∀ t, Kept L t (f t)) : Kept L s (leaseCommand p f s) := by
  unfold leaseCommand
  try dsimp only
  repeat' first
    | with_reducible exact Kept.refl _
    | with_reducible exact Kept.idRefl
    | with_reducible apply fun h => Kept.trans h (hf _)
    | with_reducible apply fun hl h0 h => Kept.trans h (hostWrite_kept hl h0)
    | with_reducible apply Kept.step checkLease_kept
    | with_reducible apply Kept.ite
    | (fail_if_no_progress ((with_reducible apply Kept.put_res); exact hL (by decide); with_reducible exact rfl))
    | exact List.Subset.trans (by decide) hL
    | exact hL (by decide)
    | exact hL
    | (intro _; intros; try dsimp only)

theorem leaseStatus_kept {st : Nat} {s : State} : Kept [.res, .lease] s (leaseStatus st s) := by
  unfold leaseStatus
  try dsimp only
  repeat' first
    | with_reducible exact Kept.refl _
    | with_reducible exact Kept.idRefl
    | (fail_if_no_progress ((with_reducible apply Kept.put_res); decide; with_reducible exact rfl))
    | (fail_if_no_progress ((with_reducible apply Kept.put_res_lease); decide; decide))

theorem setLease_kept {l : Nat × Nat} {s : State} : Kept [.res, .lease] s (setLease l s) := by
  unfold setLease
  try dsimp only
  repeat' first
    | with_reducible exact Kept.refl _
    | with_reducible exact Kept.idRefl
    | (fail_if_no_progress ((with_reducible apply Kept.put_res); decide; with_reducible exact rfl))
    | (fail_if_no_progress ((with_reducible apply Kept.put_res_lease); decide; decide))

theorem execLeaseRenew_kept {p : HPort} {s : State} : KeptOut [.glb, .plt, .hst, .lnk, .srd, .svc, .fwd, .swc, .tmb, .lnd, .mil, .mem, .opt, .res, .tly, .nv, .ram, .out, .lease] s (execLeaseRenew p s) := by
  unfold execLeaseRenew
  try dsimp only
  repeat' first
    | with_reducible exact Kept.refl _
    | with_reducible exact Kept.idRefl
    | with_reducible apply fun hl h0 h => Kept.trans h (leaseCommand_kept hl h0)
    | with_reducible apply Kept.step leaseStatus_kept
    | with_reducible apply Kept.step setLease_kept
    | with_reducible apply Kept.ite
    | with_reducible apply Kept.next
    | decide
    | (intro _; intros; try dsimp only)

theorem takeRates_kept {rates : List Half} {s : State} : Kept [.glb, .mil] s (takeRates rates s) := by
  unfold takeRates
  try dsimp only
  repeat' first
    | with_reducible exact Kept.refl _
    | with_reducible exact Kept.idRefl
    | with_reducible apply Kept.ite
    | with_reducible apply fun hf h => Kept.trans h (foldl_kept hf)
    | (fail_if_no_progress ((with_reducible apply Kept.put_glb); decide))
    | (fail_if_no_progress ((with_reducible apply Kept.put_mil); decide))
    | (fail_if_no_progress ((with_reducible apply Kept.put); (intro b hb; cases b <;> first | exact rfl | exact absurd (by decide) hb)))

theorem execTokrateUpdate_kept {dt : Nat} {rates : List Half} {s : State} : KeptOut [.glb, .tmb, .mil, .tly, .clk, .out] s (execTokrateUpdate dt rates s) := by
  unfold execTokrateUpdate
  try dsimp only
  repeat' first
    | with_reducible exact Kept.refl _
    | with_reducible exact Kept.idRefl
    | with_reducible apply Kept.step takeRates_kept
    | with_reducible apply Kept.step elapse_kept
    | with_reducible apply Kept.next
    | decide

theorem drainRestored_kept {s : State} : Kept [.hst, .lnk, .srd, .swc, .lnd, .mil, .res, .out] s (drainRestored s) := by
  unfold drainRestored
  try dsimp only
  repeat' first
    | with_reducible exact Kept.refl _
    | with_reducible exact Kept.idRefl
    | with_reducible apply fun hf h => Kept.trans h (forEach_kept hf)
    | with_reducible apply Kept.step drainPart_kept
    | with_reducible apply Kept.ite
    | decide
    | (intro _; intros; try dsimp only)

theorem execClrmin_kept {p : HPort} {s : State} : KeptOut [.glb, .hst, .tly] s (execClrmin p s) := by
  unfold execClrmin
  try dsimp only
  repeat' first
    | with_reducible exact Kept.refl _
    | with_reducible exact Kept.idRefl
    | with_reducible apply fun hl h0 h => Kept.trans h (hostWrite_kept hl h0)
    | (fail_if_no_progress ((with_reducible apply Kept.put_glb); decide))
    | with_reducible apply Kept.next
    | decide
    | (intro _; intros; try dsimp only)

theorem execLeaseRelease_kept {p : HPort} {s : State} : KeptOut [.glb, .plt, .hst, .lnk, .srd, .svc, .fwd, .swc, .tmb, .lnd, .mil, .mem, .opt, .res, .tly, .nv, .ram, .out, .lease] s (execLeaseRelease p s) := by
  unfold execLeaseRelease
  try dsimp only
  repeat' first
    | with_reducible exact Kept.refl _
    | with_reducible exact Kept.idRefl
    | with_reducible apply fun hl h0 h => Kept.trans h (leaseCommand_kept hl h0)
    | with_reducible apply Kept.step leaseStatus_kept
    | with_reducible apply Kept.step selfCordon_kept
    | with_reducible apply Kept.ite
    | with_reducible apply Kept.next
    | decide
    | (intro _; intros; try dsimp only)

theorem execLeaseExpiry_kept {dt : Nat} {s : State} : KeptOut [.glb, .plt, .hst, .lnk, .srd, .svc, .fwd, .swc, .tmb, .lnd, .mil, .mem, .opt, .res, .tly, .nv, .ram, .clk, .out, .lease] s (execLeaseExpiry dt s) := by
  unfold execLeaseExpiry
  try dsimp only
  repeat' first
    | with_reducible exact Kept.refl _
    | with_reducible exact Kept.idRefl
    | with_reducible apply Kept.step checkLease_kept
    | with_reducible apply Kept.step elapse_kept
    | with_reducible apply Kept.next
    | decide

theorem execQuiesceDrainDone_kept {s : State} : KeptOut [.glb, .hst, .lnk, .srd, .svc, .fwd, .swc, .tmb, .lnd, .mil, .mem, .opt, .res, .tly, .nv, .ram, .out] s (execQuiesceDrainDone s) := by
  unfold execQuiesceDrainDone
  try dsimp only
  repeat' first
    | with_reducible exact Kept.refl _
    | with_reducible exact Kept.idRefl
    | with_reducible apply Kept.step flyEndAll_kept
    | with_reducible apply Kept.step setDev_kept
    | with_reducible apply Kept.step holdTimers_kept
    | with_reducible apply Kept.ite
    | (fail_if_no_progress ((with_reducible apply Kept.put_glb); decide))
    | with_reducible apply Kept.next
    | decide

theorem clearJobs_kept {s : State} : Kept [.hst, .lnk, .svc, .fwd, .swc, .tmb, .lnd, .mem, .res, .tly, .ram, .out, .tables] s (clearJobs s) := by
  unfold clearJobs
  try dsimp only
  repeat' first
    | with_reducible exact Kept.refl _
    | with_reducible exact Kept.idRefl
    | with_reducible apply fun hf h => Kept.trans h (forEach_kept hf)
    | with_reducible apply Kept.step removeCtx_kept
    | with_reducible apply Kept.step setTeardown_kept
    | (fail_if_no_progress ((with_reducible apply Kept.put_lnd); decide))
    | (fail_if_no_progress ((with_reducible apply Kept.put_mem); decide))
    | (fail_if_no_progress ((with_reducible apply Kept.put); (intro b hb; cases b <;> first | exact rfl | exact absurd (by decide) hb)))
    | decide
    | (intro _; intros; try dsimp only)

theorem execLeaseGrant_kept {p : HPort} {s : State} : KeptOut [.glb, .plt, .hst, .lnk, .srd, .svc, .fwd, .swc, .tmb, .lnd, .mil, .mem, .opt, .res, .tly, .nv, .ram, .out, .lease, .tables] s (execLeaseGrant p s) := by
  unfold execLeaseGrant
  try dsimp only
  repeat' first
    | with_reducible exact Kept.refl _
    | with_reducible exact Kept.idRefl
    | with_reducible apply fun hl h0 h => Kept.trans h (leaseCommand_kept hl h0)
    | with_reducible apply Kept.step leaseStatus_kept
    | with_reducible apply Kept.step setDev_kept
    | with_reducible apply Kept.step clearJobs_kept
    | with_reducible apply Kept.step drainRestored_kept
    | with_reducible apply Kept.step setLease_kept
    | with_reducible apply Kept.ite
    | (fail_if_no_progress ((with_reducible apply Kept.put_res); decide; with_reducible exact rfl))
    | (fail_if_no_progress ((with_reducible apply Kept.put_res_lease); decide; decide))
    | with_reducible apply Kept.next
    | decide
    | (intro _; intros; try dsimp only)

theorem execTrainingComplete_kept {s : State} : KeptOut [.glb, .hst, .out] s (execTrainingComplete s) := by
  unfold execTrainingComplete
  try dsimp only
  repeat' first
    | with_reducible exact Kept.refl _
    | with_reducible exact Kept.idRefl
    | with_reducible apply Kept.step setDev_kept
    | with_reducible apply Kept.ite
    | with_reducible apply Kept.next
    | decide

theorem takeReturn_kept {p : Nat} {tc : Nat} {cnt : Nat} {s : State} : Kept [.lnk] s (takeReturn p tc cnt s) := by
  unfold takeReturn
  try dsimp only
  repeat' first
    | with_reducible exact Kept.refl _
    | with_reducible exact Kept.idRefl
    | with_reducible apply Kept.step State.modLink_kept
    | with_reducible apply Kept.ite
    | decide

theorem sendTrain_kept {p : Nat} {body : Nat → List Byte} {s : State} : Kept [.lnk, .srd, .out] s (sendTrain p body s) := by
  unfold sendTrain
  try dsimp only
  repeat' first
    | with_reducible exact Kept.refl _
    | with_reducible exact Kept.idRefl
    | with_reducible apply fun hf h => Kept.trans h (forEach_kept hf)
    | with_reducible apply Kept.step sendFrame_kept
    | decide
    | (intro _; intros; try dsimp only)

theorem moveItem_kept {b : Nat} {port : Nat} {tc : Nat} {it : QItem} {m : Move} {s : State} : Kept [.hst, .fwd, .swc, .tmb, .lnd, .mem, .tly, .ram, .out] s (moveItem b port tc it m s).2 := by
  unfold moveItem
  try dsimp only
  repeat' first
    | with_reducible exact Kept.refl _
    | with_reducible exact Kept.idRefl
    | with_reducible apply fun hf h => Kept.trans h (forEach_kept hf)
    | with_reducible apply Kept.step pushMarker_kept
    | with_reducible apply Kept.step consumeMarker_kept
    | with_reducible apply Kept.step noteWrite_kept
    | with_reducible apply Kept.step modComb_kept
    | with_reducible apply Kept.step pushItem_kept
    | with_reducible apply Kept.ite
    | decide
    | (intro _; intros; try dsimp only)
    | dsimp only
    | split

theorem moveItems_kept {b : Nat} {port : Nat} {tc : Nat} {a3 : List QItem} {a4 : Move} {a5 : State} : Kept [.hst, .fwd, .swc, .tmb, .lnd, .mem, .tly, .ram, .out] a5 (moveItems b port tc a3 a4 a5).2 := by
  induction a3 generalizing a4 a5 with
  | nil =>
    unfold moveItems
    try dsimp only
    repeat' first
      | with_reducible exact Kept.refl _
  | cons x r ih =>
    unfold moveItems
    try dsimp only
    repeat' first
      | with_reducible exact Kept.refl _
      | with_reducible exact Kept.idRefl
      | with_reducible apply fun h => Kept.trans h ih
      | with_reducible apply Kept.step moveItem_kept
      | decide

theorem bundleDown_kept {port : Nat} {s : State} : Kept [.hst, .fwd, .swc, .tmb, .lnd, .mem, .tly, .ram, .out] s (bundleDown port s) := by
  unfold bundleDown
  try dsimp only
  repeat' first
    | with_reducible exact Kept.refl _
    | with_reducible exact Kept.idRefl
    | with_reducible apply fun hf h => Kept.trans h (forEach_kept hf)
    | with_reducible apply Kept.step closeComb_kept
    | with_reducible apply Kept.step State.modQueue_kept
    | with_reducible apply Kept.step moveItems_kept
    | with_reducible apply Kept.step consumeFront_kept
    | with_reducible apply Kept.ite
    | decide
    | (with_reducible apply Kept.ofSnd; with_reducible assumption)
    | (intro _; intros; try dsimp only)

theorem nextRequest_kept {k : Nat} {s : State} : Kept [.srd, .fresh] s (nextRequest k s) := by
  unfold nextRequest
  try dsimp only
  repeat' first
    | with_reducible exact Kept.refl _
    | with_reducible exact Kept.idRefl
    | with_reducible apply Kept.step State.modLane_kept
    | with_reducible apply Kept.step takeFree_kept
    | with_reducible apply Kept.ite
    | decide

theorem abortRecal_kept {l : Nat} {s : State} : Kept [.srd] s (abortRecal l s) := by
  unfold abortRecal
  try dsimp only
  repeat' first
    | with_reducible exact Kept.refl _
    | with_reducible exact Kept.idRefl
    | with_reducible apply Kept.step State.modLane_kept
    | with_reducible apply Kept.ite
    | decide

theorem laneDown_kept {l : Nat} {s : State} : Kept [.srd, .opt, .out] s (laneDown l s) := by
  unfold laneDown
  try dsimp only
  repeat' first
    | with_reducible exact Kept.refl _
    | with_reducible exact Kept.idRefl
    | with_reducible apply Kept.step txIdle_kept
    | with_reducible apply Kept.step abortRecal_kept
    | with_reducible apply Kept.step State.modLane_kept
    | with_reducible apply Kept.step State.modPath_kept
    | with_reducible apply Kept.ite
    | decide
    | (intro _; intros; try dsimp only)
    | dsimp only
    | split

theorem freshTags_kept {port : Nat} {tc : Nat} {s : State} : Kept [.swc] s (freshTags port tc s) := by
  unfold freshTags
  try dsimp only
  repeat' first
    | with_reducible exact Kept.refl _
    | with_reducible exact Kept.idRefl
    | with_reducible apply Kept.step State.modQueue_kept
    | decide

theorem portDown_kept {p : Nat} {tstat : Nat} {wait : Nat} {s : State} : Kept [.hst, .lnk, .srd, .svc, .fwd, .swc, .tmb, .lnd, .mil, .mem, .opt, .res, .tly, .nv, .ram, .out] s (portDown p tstat wait s) := by
  unfold portDown
  try dsimp only
  repeat' first
    | with_reducible exact Kept.refl _
    | with_reducible exact Kept.idRefl
    | with_reducible apply Kept.step countN_kept
    | with_reducible apply fun hf h => Kept.trans h (forEach_kept hf)
    | with_reducible apply Kept.step capture_kept
    | with_reducible apply Kept.step State.setLink_kept
    | with_reducible apply Kept.step laneDown_kept
    | with_reducible apply Kept.step State.modSched_kept
    | with_reducible apply Kept.step fire_kept
    | with_reducible apply Kept.step bundleDown_kept
    | with_reducible apply Kept.step freshTags_kept
    | with_reducible apply Kept.step settleFlys_kept
    | with_reducible apply Kept.step flyEndAll_kept
    | with_reducible apply Kept.ite
    | decide
    | (intro _; intros; try dsimp only)

theorem retrain_kept {p : Nat} {tstat : Nat} {s : State} : Kept [.hst, .lnk, .srd, .svc, .fwd, .swc, .tmb, .lnd, .mil, .mem, .opt, .res, .tly, .nv, .ram, .out] s (retrain p tstat s) := by
  unfold retrain
  try dsimp only
  repeat' first
    | with_reducible exact Kept.refl _
    | with_reducible exact Kept.idRefl
    | with_reducible apply Kept.step portDown_kept
    | decide

theorem replayLimit_kept {p : Nat} {s : State} : Kept [.hst, .lnk, .srd, .svc, .fwd, .swc, .tmb, .lnd, .mil, .mem, .opt, .res, .tly, .nv, .ram, .out] s (replayLimit p s) := by
  unfold replayLimit
  try dsimp only
  repeat' first
    | with_reducible exact Kept.refl _
    | with_reducible exact Kept.idRefl
    | with_reducible apply Kept.step setLnkErr_kept
    | with_reducible apply Kept.step countX_kept
    | with_reducible apply Kept.step retrain_kept
    | decide

theorem txOn_kept {l : Nat} {s : State} : Kept [.srd, .out] s (txOn l s) := by
  unfold txOn
  try dsimp only
  repeat' first
    | with_reducible exact Kept.refl _
    | with_reducible exact Kept.idRefl
    | with_reducible apply Kept.step emit_kept
    | with_reducible apply Kept.step State.modLane_kept
    | with_reducible apply Kept.ite
    | decide

theorem checkLock_kept {p : Nat} {s : State} : Kept [.hst, .lnk, .out] s (checkLock p s) := by
  unfold checkLock
  try dsimp only
  repeat' first
    | with_reducible exact Kept.refl _
    | with_reducible exact Kept.idRefl
    | with_reducible apply Kept.step fire_kept
    | with_reducible apply Kept.step State.modLink_kept
    | with_reducible apply Kept.ite
    | decide

theorem takeStream_kept {p : Nat} {a1 : Nat} {a2 : State} : Kept [.hst, .lnk, .srd, .svc, .fwd, .swc, .tmb, .lnd, .mil, .mem, .res, .tly, .nv, .ram, .out] a2 (takeStream p a1 a2) := by
  induction a1 generalizing a2 with
  | zero =>
    unfold takeStream
    try dsimp only
    repeat' first
      | with_reducible exact Kept.refl _
  | succ n ih =>
    unfold takeStream
    try dsimp only
    repeat' first
      | with_reducible exact Kept.refl _
      | with_reducible exact Kept.idRefl
      | with_reducible apply fun h => Kept.trans h ih
      | with_reducible apply Kept.step State.setLink_kept
      | with_reducible apply Kept.step takePacket_kept
      | with_reducible apply Kept.step State.modLink_kept
      | with_reducible apply Kept.ite
      | decide

theorem takeBody_kept {p : Nat} {body : List Byte} {s : State} : Kept [.hst, .lnk, .srd, .svc, .fwd, .swc, .tmb, .lnd, .mil, .mem, .res, .tly, .nv, .ram, .out] s (takeBody p body s) := by
  unfold takeBody
  try dsimp only
  repeat' first
    | with_reducible exact Kept.refl _
    | with_reducible exact Kept.idRefl
    | with_reducible apply Kept.step State.modLink_kept
    | with_reducible apply Kept.step takeStream_kept
    | decide

theorem takeEarly_kept {p : Nat} {a1 : Nat} {a2 : State} : Kept [.hst, .lnk, .srd, .svc, .fwd, .swc, .tmb, .lnd, .mil, .mem, .res, .tly, .nv, .ram, .out] a2 (takeEarly p a1 a2) := by
  induction a1 generalizing a2 with
  | zero =>
    unfold takeEarly
    try dsimp only
    repeat' first
      | with_reducible exact Kept.refl _
  | succ n ih =>
    unfold takeEarly
    try dsimp only
    repeat' first
      | with_reducible exact Kept.refl _
      | with_reducible exact Kept.idRefl
      | with_reducible apply fun h => Kept.trans h ih
      | with_reducible apply Kept.step takeBody_kept
      | with_reducible apply Kept.step State.setLink_kept
      | decide
      | (intro _; intros; try dsimp only)
      | dsimp only
      | split

theorem takeData_kept {p : Nat} {f : DataFrame} {s : State} : Kept [.hst, .lnk, .srd, .svc, .fwd, .swc, .tmb, .lnd, .mil, .mem, .res, .tly, .nv, .ram, .out] s (takeData p f s) := by
  unfold takeData
  try dsimp only
  repeat' first
    | with_reducible exact Kept.refl _
    | with_reducible exact Kept.idRefl
    | with_reducible apply Kept.step takeBody_kept
    | with_reducible apply Kept.step State.setLink_kept
    | with_reducible apply Kept.step takeEarly_kept
    | with_reducible apply Kept.ite
    | decide

theorem eqSlot_kept {k : Nat} {s : State} : Kept [.srd, .fresh, .out] s (eqSlot k s) := by
  unfold eqSlot
  try dsimp only
  repeat' first
    | with_reducible exact Kept.refl _
    | with_reducible exact Kept.idRefl
    | with_reducible apply Kept.step sendEq_kept
    | with_reducible apply Kept.step nextRequest_kept
    | decide

theorem sendOne_kept {p : Nat} {i : Nat} {s : State} : Kept [.lnk, .srd, .fresh, .out] s (sendOne p i s) := by
  unfold sendOne
  try dsimp only
  repeat' first
    | with_reducible exact Kept.refl _
    | with_reducible exact Kept.idRefl
    | with_reducible apply Kept.step sendFrame_kept
    | with_reducible apply Kept.step State.setLink_kept
    | with_reducible apply Kept.step eqSlot_kept
    | with_reducible apply Kept.ite
    | decide
    | (intro _; intros; try dsimp only)
    | dsimp only
    | split

theorem upSlot_kept {p : Nat} {i : Nat} {s : State} : Kept [.lnk, .srd, .fresh, .out] s (upSlot p i s) := by
  unfold upSlot
  try dsimp only
  repeat' first
    | with_reducible exact Kept.refl _
    | with_reducible exact Kept.idRefl
    | with_reducible apply Kept.step sendOne_kept
    | with_reducible apply Kept.step eqSlot_kept
    | with_reducible apply Kept.ite
    | decide

theorem frameSlot_kept {p : Nat} {s : State} : Kept [.hst, .lnk, .srd, .fresh, .out] s (frameSlot p s) := by
  unfold frameSlot
  try dsimp only
  repeat' first
    | with_reducible exact Kept.refl _
    | with_reducible exact Kept.idRefl
    | with_reducible apply fun hf h => Kept.trans h (forEach_kept hf)
    | with_reducible apply Kept.step upSlot_kept
    | with_reducible apply Kept.step checkLock_kept
    | with_reducible apply Kept.step eqSlot_kept
    | with_reducible apply Kept.step sendBlocks_kept
    | with_reducible apply Kept.step sendTrain_kept
    | with_reducible apply Kept.ite
    | decide
    | (intro _; intros; try dsimp only)

theorem startRecal_kept {l : Nat} {s : State} : Kept [.srd] s (startRecal l s) := by
  unfold startRecal
  try dsimp only
  repeat' first
    | with_reducible exact Kept.refl _
    | with_reducible exact Kept.idRefl
    | with_reducible apply Kept.step State.modLane_kept
    | decide

theorem startReplay_kept {p : Nat} {s : State} : Kept [.hst, .lnk, .srd, .svc, .fwd, .swc, .tmb, .lnd, .mil, .mem, .opt, .res, .tly, .nv, .ram, .out] s (startReplay p s) := by
  unfold startReplay
  try dsimp only
  repeat' first
    | with_reducible exact Kept.refl _
    | with_reducible exact Kept.idRefl
    | with_reducible apply Kept.step replayLimit_kept
    | with_reducible apply Kept.step countN_kept
    | with_reducible apply Kept.step State.setLink_kept
    | with_reducible apply Kept.ite
    | decide
    | (intro _; intros; try dsimp only)
    | dsimp only
    | split

theorem portUp_kept {p : Nat} {credit : List Nat} {s : State} : Kept [.hst, .lnk, .srd, .swc, .opt, .out] s (portUp p credit s) := by
  unfold portUp
  try dsimp only
  repeat' first
    | with_reducible exact Kept.refl _
    | with_reducible exact Kept.idRefl
    | with_reducible apply Kept.step State.modLink_kept
    | with_reducible apply fun hf h => Kept.trans h (forEach_kept hf)
    | with_reducible apply Kept.step State.modLane_kept
    | with_reducible apply Kept.step State.modSched_kept
    | with_reducible apply Kept.step settleFlys_kept
    | with_reducible apply Kept.step fire_kept
    | with_reducible apply Kept.ite
    | with_reducible apply fun hf h => Kept.trans h (foldl_kept hf)
    | decide
    | (intro _; intros; try dsimp only)

theorem badFrame_kept {p : Nat} {s : State} : Kept [.lnk, .tly] s (badFrame p s) := by
  unfold badFrame
  try dsimp only
  repeat' first
    | with_reducible exact Kept.refl _
    | with_reducible exact Kept.idRefl
    | with_reducible apply Kept.step setLnkErr_kept
    | with_reducible apply Kept.step State.modLink_kept
    | with_reducible apply Kept.step countX_kept
    | decide

theorem loseFrame_kept {p : Nat} {lane : Nat} {s : State} : Kept [.hst, .lnk, .srd, .swc, .lnd, .mil, .res, .tly, .nv, .out] s (loseFrame p lane s) := by
  unfold loseFrame
  try dsimp only
  repeat' first
    | with_reducible exact Kept.refl _
    | with_reducible exact Kept.idRefl
    | with_reducible apply Kept.step badFrame_kept
    | with_reducible apply Kept.step addPenalty_kept
    | with_reducible apply Kept.ite
    | decide

theorem takeAck_kept {p : Nat} {ack : Half} {nak : Bool} {s : State} : Kept [.hst, .lnk, .srd, .svc, .fwd, .swc, .tmb, .lnd, .mil, .mem, .opt, .res, .tly, .nv, .ram, .out] s (takeAck p ack nak s) := by
  unfold takeAck
  try dsimp only
  repeat' first
    | with_reducible exact Kept.refl _
    | with_reducible exact Kept.idRefl
    | with_reducible apply Kept.step State.setLink_kept
    | with_reducible apply Kept.step startReplay_kept
    | with_reducible apply Kept.ite
    | decide

theorem takeFrame_kept {p : Nat} {lane : Nat} {b : List Byte} {s : State} : Kept [.hst, .lnk, .srd, .svc, .fwd, .swc, .tmb, .lnd, .mil, .mem, .opt, .res, .tly, .nv, .ram, .out] s (takeFrame p lane b s) := by
  unfold takeFrame
  try dsimp only
  repeat' first
    | with_reducible exact Kept.refl _
    | with_reducible exact Kept.idRefl
    | with_reducible apply Kept.step loseFrame_kept
    | with_reducible apply Kept.step takeAck_kept
    | with_reducible apply Kept.step takeReturn_kept
    | with_reducible apply Kept.step takeData_kept
    | with_reducible apply Kept.ite
    | decide

theorem laneLock_kept {l : Nat} {s : State} : Kept [.srd, .out] s (laneLock l s) := by
  unfold laneLock
  try dsimp only
  repeat' first
    | with_reducible exact Kept.refl _
    | with_reducible exact Kept.idRefl
    | with_reducible apply Kept.step State.modLane_kept
    | with_reducible apply Kept.step txOn_kept
    | with_reducible apply Kept.ite
    | decide

theorem startTraining_kept {p : Nat} {s : State} : Kept [.hst, .lnk, .srd, .out] s (startTraining p s) := by
  unfold startTraining
  try dsimp only
  repeat' first
    | with_reducible exact Kept.refl _
    | with_reducible exact Kept.idRefl
    | with_reducible apply Kept.step State.modLink_kept
    | with_reducible apply Kept.step fire_kept
    | with_reducible apply fun hf h => Kept.trans h (forEach_kept hf)
    | with_reducible apply Kept.step laneLock_kept
    | with_reducible apply Kept.ite
    | decide
    | (intro _; intros; try dsimp only)

theorem mbCommand_kept {p : HPort} {f : State → State} {s : State} {L : List Blk} (hL : [.hst, .tly, .out] ⊆ L) (hf : ∀ t, Kept L t (f t)) : Kept L s (mbCommand p f s) := by
  unfold mbCommand
  try dsimp only
  repeat' first
    | with_reducible exact Kept.refl _
    | with_reducible exact Kept.idRefl
    | with_reducible apply fun h => Kept.trans h (hf _)
    | with_reducible apply fun hl h0 h => Kept.trans h (hostWrite_kept hl h0)
    | with_reducible apply Kept.step fire_kept
    | with_reducible apply Kept.ite
    | (fail_if_no_progress ((with_reducible apply Kept.put_hst); exact hL (by decide); with_reducible exact rfl))
    | exact List.Subset.trans (by decide) hL
    | exact hL (by decide)
    | exact hL
    | (intro _; intros; try dsimp only)

theorem mbResult_kept {code : Nat} {out : Nat} {s : State} : Kept [.hst] s (mbResult code out s) := by
  unfold mbResult
  try dsimp only
  repeat' first
    | with_reducible exact Kept.refl _
    | with_reducible exact Kept.idRefl
    | (fail_if_no_progress ((with_reducible apply Kept.put_hst); decide; with_reducible exact rfl))

theorem mbAnswer_kept {bytes : List Byte} {s : State} : Kept [.hst, .ram] s (mbAnswer bytes s) := by
  unfold mbAnswer
  try dsimp only
  repeat' first
    | with_reducible exact Kept.refl _
    | with_reducible exact Kept.idRefl
    | with_reducible apply Kept.step mbResult_kept
    | with_reducible apply Kept.step wrMem_kept
    | decide

theorem settleCtle_kept {l : Nat} {s : State} : Kept [.srd, .fresh] s (settleCtle l s) := by
  unfold settleCtle
  try dsimp only
  repeat' first
    | with_reducible exact Kept.refl _
    | with_reducible exact Kept.idRefl
    | with_reducible apply Kept.step takeFree_kept
    | with_reducible apply Kept.step State.modLane_kept
    | decide

theorem disturbEye_kept {l : Nat} {s : State} : Kept [.eye] s (disturbEye l s) := by
  unfold disturbEye
  try dsimp only
  repeat' first
    | with_reducible exact Kept.refl _
    | with_reducible exact Kept.idRefl
    | with_reducible apply Kept.step State.modEye_kept
    | with_reducible apply Kept.ite
    | decide

theorem retainExpire_kept {l : Nat} {s : State} : Kept [.srd, .out] s (retainExpire l s) := by
  unfold retainExpire
  try dsimp only
  repeat' first
    | with_reducible exact Kept.refl _
    | with_reducible exact Kept.idRefl
    | with_reducible apply Kept.step State.modLane_kept
    | with_reducible apply Kept.step laneLock_kept
    | with_reducible apply Kept.ite
    | decide
    | (intro _; intros; try dsimp only)
    | dsimp only
    | split

theorem setRecal_kept {l : Nat} {r : RecalResult} {s : State} : Kept [.srd] s (setRecal l r s) := by
  unfold setRecal
  try dsimp only
  repeat' first
    | with_reducible exact Kept.refl _
    | with_reducible exact Kept.idRefl
    | with_reducible apply Kept.step State.modLane_kept
    | decide

theorem requestRecal_kept {l : Nat} {s : State} : Kept [.hst, .lnk, .srd, .svc, .eye, .fwd, .swc, .tmb, .lnd, .mil, .mem, .opt, .res, .tly, .nv, .ram, .out] s (requestRecal l s) := by
  unfold requestRecal
  try dsimp only
  repeat' first
    | with_reducible exact Kept.refl _
    | with_reducible exact Kept.idRefl
    | with_reducible apply Kept.step setRecal_kept
    | with_reducible apply Kept.step disturbEye_kept
    | with_reducible apply Kept.step State.modLane_kept
    | with_reducible apply Kept.step rxLaneOff_kept
    | with_reducible apply Kept.step startRecal_kept
    | with_reducible apply Kept.step startTraining_kept
    | with_reducible apply Kept.step portDown_kept
    | with_reducible apply Kept.ite
    | decide
    | (intro _; intros; try dsimp only)
    | dsimp only
    | split

theorem passEnd_kept {l : Nat} {s : State} : Kept [.hst, .lnk, .srd, .swc, .lnd, .mil, .res, .nv, .fresh, .out] s (passEnd l s) := by
  unfold passEnd
  try dsimp only
  repeat' first
    | with_reducible exact Kept.refl _
    | with_reducible exact Kept.idRefl
    | with_reducible apply Kept.step settleCtle_kept
    | with_reducible apply Kept.step State.modLane_kept
    | with_reducible apply Kept.step rxLaneOn_kept
    | with_reducible apply Kept.step startRecal_kept
    | with_reducible apply Kept.step addPenalty_kept
    | with_reducible apply Kept.ite
    | decide
    | (intro _; intros; try dsimp only)
    | dsimp only
    | split

theorem dropRetained_kept {l : Nat} {s : State} : Kept [.srd, .out] s (dropRetained l s) := by
  unfold dropRetained
  try dsimp only
  repeat' first
    | with_reducible exact Kept.refl _
    | with_reducible exact Kept.idRefl
    | with_reducible apply Kept.step State.modLane_kept
    | with_reducible apply Kept.step laneLock_kept
    | with_reducible apply Kept.ite
    | decide
    | (intro _; intros; try dsimp only)
    | dsimp only
    | split

theorem exitOne_kept {l : Nat} {n : Nat} {valid : Bool} {s : State} : Kept [.lnk, .srd, .out] s (exitOne l n valid s) := by
  unfold exitOne
  try dsimp only
  repeat' first
    | with_reducible exact Kept.refl _
    | with_reducible exact Kept.idRefl
    | with_reducible apply Kept.step dropRetained_kept
    | with_reducible apply Kept.step State.modLane_kept
    | with_reducible apply Kept.step rejoin_kept
    | with_reducible apply Kept.ite
    | decide

theorem huntOne_kept {l : Nat} {valid : Bool} {x : Symbols} {s : State} : Kept [.lnk, .srd, .fresh, .out] s (huntOne l valid x s) := by
  unfold huntOne
  try dsimp only
  repeat' first
    | with_reducible exact Kept.refl _
    | with_reducible exact Kept.idRefl
    | with_reducible apply Kept.step State.modLane_kept
    | with_reducible apply Kept.step rejoin_kept
    | with_reducible apply Kept.step settleCtle_kept
    | with_reducible apply Kept.ite
    | decide

theorem tuneEnd_kept {l : Nat} {s : State} : Kept [.srd] s (tuneEnd l s) := by
  unfold tuneEnd
  try dsimp only
  repeat' first
    | with_reducible exact Kept.refl _
    | with_reducible exact Kept.idRefl
    | with_reducible apply Kept.step State.modLane_kept
    | with_reducible apply Kept.ite
    | decide

theorem laneLost_kept {p : Nat} {i : Nat} {s : State} : Kept [.hst, .lnk, .srd, .svc, .fwd, .swc, .tmb, .lnd, .mil, .mem, .opt, .res, .tly, .nv, .ram, .out] s (laneLost p i s) := by
  unfold laneLost
  try dsimp only
  repeat' first
    | with_reducible exact Kept.refl _
    | with_reducible exact Kept.idRefl
    | with_reducible apply Kept.step rxLaneOff_kept
    | with_reducible apply Kept.step addPenalty_kept
    | with_reducible apply Kept.step retrain_kept
    | with_reducible apply Kept.ite
    | decide

theorem lockLost_kept {l : Nat} {s : State} : Kept [.hst, .lnk, .srd, .svc, .eye, .fwd, .swc, .tmb, .lnd, .mil, .mem, .opt, .res, .tly, .nv, .ram, .out] s (lockLost l s) := by
  unfold lockLost
  try dsimp only
  repeat' first
    | with_reducible exact Kept.refl _
    | with_reducible exact Kept.idRefl
    | with_reducible apply Kept.step disturbEye_kept
    | with_reducible apply Kept.step State.modLane_kept
    | with_reducible apply Kept.step laneLost_kept
    | with_reducible apply Kept.step addPenalty_kept
    | with_reducible apply Kept.step count_kept
    | with_reducible apply Kept.ite
    | decide
    | (intro _; intros; try dsimp only)
    | dsimp only
    | split

theorem lockedOne_kept {l : Nat} {valid : Bool} {corrected : Nat} {s : State} : Kept [.hst, .lnk, .srd, .svc, .eye, .fwd, .swc, .tmb, .lnd, .mil, .mem, .opt, .res, .tly, .nv, .ram, .out] s (lockedOne l valid corrected s) := by
  unfold lockedOne
  try dsimp only
  repeat' first
    | with_reducible exact Kept.refl _
    | with_reducible exact Kept.idRefl
    | with_reducible apply Kept.step State.modLane_kept
    | with_reducible apply Kept.step addPenalty_kept
    | with_reducible apply Kept.step count_kept
    | with_reducible apply Kept.step lockLost_kept
    | with_reducible apply Kept.ite
    | decide

theorem takeCodeword_kept {l : Nat} {x : Option Symbols} {s : State} : Kept [.hst, .lnk, .srd, .svc, .eye, .fwd, .swc, .tmb, .lnd, .mil, .mem, .opt, .res, .tly, .nv, .ram, .fresh, .out] s (takeCodeword l x s).2 := by
  unfold takeCodeword
  try dsimp only
  repeat' first
    | with_reducible exact Kept.refl _
    | with_reducible exact Kept.idRefl
    | with_reducible apply Kept.step State.modLane_kept
    | with_reducible apply Kept.step dropRetained_kept
    | with_reducible apply Kept.step lockedOne_kept
    | with_reducible apply Kept.step exitOne_kept
    | with_reducible apply Kept.step huntOne_kept
    | with_reducible apply Kept.ite
    | decide
    | (intro _; intros; try dsimp only)
    | dsimp only
    | split

theorem takeEcho_kept {l : Nat} {block : Nat} {s : State} : Kept [.srd] s (takeEcho l block s) := by
  unfold takeEcho
  try dsimp only
  repeat' first
    | with_reducible exact Kept.refl _
    | with_reducible exact Kept.idRefl
    | with_reducible apply Kept.step State.modLane_kept
    | with_reducible apply Kept.ite
    | with_reducible apply fun hf h => Kept.trans h (foldl_kept hf)
    | decide

theorem takeEq_kept {l : Nat} {block : Nat} {s : State} : Kept [.srd] s (takeEq l block s) := by
  unfold takeEq
  try dsimp only
  repeat' first
    | with_reducible exact Kept.refl _
    | with_reducible exact Kept.idRefl
    | with_reducible apply Kept.step takeEcho_kept
    | with_reducible apply Kept.step State.modLane_kept
    | with_reducible apply Kept.ite
    | decide

theorem idleEnter_kept {l : Nat} {s : State} : Kept [.hst, .lnk, .srd, .svc, .eye, .fwd, .swc, .tmb, .lnd, .mil, .mem, .opt, .res, .tly, .nv, .ram, .out] s (idleEnter l s) := by
  unfold idleEnter
  try dsimp only
  repeat' first
    | with_reducible exact Kept.refl _
    | with_reducible exact Kept.idRefl
    | with_reducible apply Kept.step disturbEye_kept
    | with_reducible apply Kept.step State.modLane_kept
    | with_reducible apply Kept.step laneLost_kept
    | with_reducible apply Kept.ite
    | decide
    | (intro _; intros; try dsimp only)
    | dsimp only
    | split

theorem idleExit_kept {l : Nat} {s : State} : Kept [.srd] s (idleExit l s) := by
  unfold idleExit
  try dsimp only
  repeat' first
    | with_reducible exact Kept.refl _
    | with_reducible exact Kept.idRefl
    | with_reducible apply Kept.step State.modLane_kept
    | with_reducible apply Kept.ite
    | decide

theorem lockSample_kept {o : Int} {need : Nat} {s : State} : Kept [.tmb] s (lockSample o need s) := by
  unfold lockSample
  try dsimp only
  repeat' first
    | with_reducible exact Kept.refl _
    | with_reducible exact Kept.idRefl
    | with_reducible apply Kept.ite
    | (fail_if_no_progress ((with_reducible apply Kept.put_tmb); decide; with_reducible exact rfl))

theorem settleAdmit_kept {s : State} : Kept [.hst, .tmb, .out] s (settleAdmit s) := by
  unfold settleAdmit
  try dsimp only
  repeat' first
    | with_reducible exact Kept.refl _
    | with_reducible exact Kept.idRefl
    | with_reducible apply Kept.step raiseTmb_kept
    | with_reducible apply Kept.ite
    | (fail_if_no_progress ((with_reducible apply Kept.put_tmb); decide; with_reducible exact rfl))
    | decide

theorem shiftTime_kept {o : Int} {s : State} : Kept [.tmb] s (shiftTime o s) := by
  unfold shiftTime
  try dsimp only
  repeat' first
    | with_reducible exact Kept.refl _
    | with_reducible exact Kept.idRefl
    | (fail_if_no_progress ((with_reducible apply Kept.put_tmb); decide; with_reducible exact rfl))

theorem stepTime_kept {o : Int} {s : State} : Kept [.tmb] s (stepTime o s) := by
  unfold stepTime
  try dsimp only
  repeat' first
    | with_reducible exact Kept.refl _
    | with_reducible exact Kept.idRefl
    | with_reducible apply Kept.step shiftTime_kept
    | (fail_if_no_progress ((with_reducible apply Kept.put_tmb); decide; with_reducible exact rfl))
    | decide

theorem settleBlk_kept {s : State} : Kept [.tmb] s (settleBlk s) := by
  unfold settleBlk
  try dsimp only
  repeat' first
    | with_reducible exact Kept.refl _
    | with_reducible exact Kept.idRefl
    | (fail_if_no_progress ((with_reducible apply Kept.put_tmb); decide; with_reducible exact rfl))

theorem enterHoldover_kept {s : State} : Kept [.hst, .tmb, .out] s (enterHoldover s) := by
  unfold enterHoldover
  try dsimp only
  repeat' first
    | with_reducible exact Kept.refl _
    | with_reducible exact Kept.idRefl
    | with_reducible apply Kept.step settleAdmit_kept
    | with_reducible apply Kept.step raiseTmb_kept
    | with_reducible apply Kept.ite
    | (fail_if_no_progress ((with_reducible apply Kept.put_tmb); decide; with_reducible exact rfl))
    | decide

theorem sample_kept {o : Int} {need : Nat} {s : State} : Kept [.hst, .tmb, .out] s (sample o need s) := by
  unfold sample
  try dsimp only
  repeat' first
    | with_reducible exact Kept.refl _
    | with_reducible exact Kept.idRefl
    | with_reducible apply Kept.step settleBlk_kept
    | with_reducible apply Kept.step settleAdmit_kept
    | with_reducible apply Kept.step lockSample_kept
    | with_reducible apply Kept.ite
    | (fail_if_no_progress ((with_reducible apply Kept.put_tmb); decide; with_reducible exact rfl))
    | decide

theorem startElection_kept {s : State} : Kept [.tmb] s (startElection s) := by
  unfold startElection
  try dsimp only
  repeat' first
    | with_reducible exact Kept.refl _
    | with_reducible exact Kept.idRefl
    | with_reducible apply Kept.ite
    | (fail_if_no_progress ((with_reducible apply Kept.put_tmb); decide; with_reducible exact rfl))

theorem slewTime_kept {o : Int} {s : State} : Kept [.tmb] s (slewTime o s) := by
  unfold slewTime
  try dsimp only
  repeat' first
    | with_reducible exact Kept.refl _
    | with_reducible exact Kept.idRefl
    | (fail_if_no_progress ((with_reducible apply Kept.put_tmb); decide; with_reducible exact rfl))

theorem forwardRing_kept {lane : Fin 2} {type : Nat} {b : List Byte} {own : Bool} {s : State} : Kept [.svc, .out] s (forwardRing lane type b own s) := by
  unfold forwardRing
  try dsimp only
  repeat' first
    | with_reducible exact Kept.refl _
    | with_reducible exact Kept.idRefl
    | with_reducible apply Kept.step sendRing_kept
    | with_reducible apply Kept.ite
    | decide

theorem sendBoth_kept {type : Nat} {body : List Byte} {s : State} : Kept [.svc, .out] s (sendBoth type body s) := by
  unfold sendBoth
  try dsimp only
  repeat' first
    | with_reducible exact Kept.refl _
    | with_reducible exact Kept.idRefl
    | with_reducible apply Kept.step sendRing_kept
    | decide

theorem sendAnnounce_kept {s : State} : Kept [.svc, .tmb, .fresh, .out] s (sendAnnounce s) := by
  unfold sendAnnounce
  try dsimp only
  repeat' first
    | with_reducible exact Kept.refl _
    | with_reducible exact Kept.idRefl
    | with_reducible apply Kept.step takeFree_kept
    | with_reducible apply Kept.step sendBoth_kept
    | (fail_if_no_progress ((with_reducible apply Kept.put_tmb); decide; with_reducible exact rfl))
    | decide

theorem blockMsg_kept {b : List Byte} {f : State → State} {s : State} {L : List Blk} (hL : [.tmb, .tly] ⊆ L) (hf : ∀ t, Kept L t (f t)) : Kept L s (blockMsg b f s) := by
  unfold blockMsg
  try dsimp only
  repeat' first
    | with_reducible exact Kept.refl _
    | with_reducible exact Kept.idRefl
    | with_reducible apply fun h => Kept.trans h (hf _)
    | with_reducible apply Kept.step countX_kept
    | with_reducible apply Kept.ite
    | (fail_if_no_progress ((with_reducible apply Kept.put_tmb); exact hL (by decide); with_reducible exact rfl))
    | exact List.Subset.trans (by decide) hL

theorem State.setRing_kept {s : State} {lane : Fin 2} {r : RingLane} : Kept [.tmb] s (State.setRing s lane r) := by
  unfold State.setRing
  try dsimp only
  repeat' first
    | with_reducible exact Kept.refl _
    | with_reducible exact Kept.idRefl
    | with_reducible apply Kept.ite
    | (fail_if_no_progress ((with_reducible apply Kept.put_tmb); decide; with_reducible exact rfl))

theorem sendMarked_kept {west : Bool} {type : Nat} {body : List Byte} {hops : Nat} {s : State} : Kept [.svc, .out] s (sendMarked west type body hops s) := by
  unfold sendMarked
  try dsimp only
  repeat' first
    | with_reducible exact Kept.refl _
    | with_reducible exact Kept.idRefl
    | with_reducible apply Kept.step sendSvc_kept
    | with_reducible apply Kept.ite
    | decide

theorem keepaliveAll_kept {s : State} : Kept [.svc, .opt, .out] s (keepaliveAll s) := by
  unfold keepaliveAll
  try dsimp only
  repeat' first
    | with_reducible exact Kept.refl _
    | with_reducible exact Kept.idRefl
    | with_reducible apply fun hf h => Kept.trans h (forEach_kept hf)
    | with_reducible apply Kept.step State.modEngine_kept
    | with_reducible apply Kept.step sendEngRaw_kept
    | decide
    | (intro _; intros; try dsimp only)

theorem calSweep_kept {p : Nat} {s : State} : Kept [.svc, .opt, .out] s (calSweep p s) := by
  unfold calSweep
  try dsimp only
  repeat' first
    | with_reducible exact Kept.refl _
    | with_reducible exact Kept.idRefl
    | with_reducible apply Kept.step pathSet_kept
    | with_reducible apply Kept.step sendLoop_kept
    | with_reducible apply Kept.step State.modPath_kept
    | decide

theorem ringsReady_kept {p : Nat} {s : State} : Kept [.lnk, .srd, .out] s (ringsReady p s) := by
  unfold ringsReady
  try dsimp only
  repeat' first
    | with_reducible exact Kept.refl _
    | with_reducible exact Kept.idRefl
    | with_reducible apply Kept.step laneLock_kept
    | with_reducible apply Kept.step rejoin_kept
    | with_reducible apply Kept.ite
    | decide
    | (intro _; intros; try dsimp only)
    | dsimp only
    | split

theorem flyVerify_kept {num : Nat} {la : Half} {lb : Half} {s : State} : Kept [.hst, .lnk, .srd, .svc, .fwd, .swc, .tmb, .lnd, .mil, .mem, .opt, .res, .tly, .nv, .ram, .out] s (flyVerify num la lb s) := by
  unfold flyVerify
  try dsimp only
  repeat' first
    | with_reducible exact Kept.refl _
    | with_reducible exact Kept.idRefl
    | with_reducible apply Kept.step flyEnd_kept
    | with_reducible apply Kept.step State.modPath_kept
    | with_reducible apply Kept.step flyNotice_kept
    | with_reducible apply Kept.step State.modFly_kept
    | with_reducible apply Kept.ite
    | decide

theorem calTrimStep_kept {p : Nat} {s : State} : Kept [.svc, .opt, .fresh, .out] s (calTrimStep p s) := by
  unfold calTrimStep
  try dsimp only
  repeat' first
    | with_reducible exact Kept.refl _
    | with_reducible exact Kept.idRefl
    | with_reducible apply Kept.step calSweep_kept
    | with_reducible apply Kept.step takeFree_kept
    | with_reducible apply Kept.step pathSet_kept
    | with_reducible apply Kept.ite
    | decide
    | (with_reducible apply Kept.ofSnd; with_reducible assumption)
    | (intro _; intros; try dsimp only)
    | dsimp only
    | split

theorem dropLight_kept {p : Nat} {s : State} : Kept [.svc, .opt, .out] s (dropLight p s) := by
  unfold dropLight
  try dsimp only
  repeat' first
    | with_reducible exact Kept.refl _
    | with_reducible exact Kept.idRefl
    | with_reducible apply Kept.step sweepRx_kept
    | with_reducible apply Kept.step State.modPath_kept
    | with_reducible apply Kept.step sendLoop_kept
    | with_reducible apply Kept.ite
    | decide

theorem classify_kept {p : Nat} {s : State} : Kept [.hst, .lnk, .srd, .swc, .lnd, .mil, .opt, .res, .nv, .out] s (classify p s) := by
  unfold classify
  try dsimp only
  repeat' first
    | with_reducible exact Kept.refl _
    | with_reducible exact Kept.idRefl
    | with_reducible apply Kept.step State.modPath_kept
    | with_reducible apply Kept.step raiseOpt_kept
    | with_reducible apply Kept.step addPenalty_kept
    | with_reducible apply Kept.ite
    | decide

theorem takePathStatus_kept {p : Nat} {r : List Byte} {s : State} : Kept [.hst, .lnk, .srd, .svc, .swc, .lnd, .mil, .opt, .res, .nv, .fresh, .out] s (takePathStatus p r s) := by
  unfold takePathStatus
  try dsimp only
  repeat' first
    | with_reducible exact Kept.refl _
    | with_reducible exact Kept.idRefl
    | with_reducible apply Kept.step State.modPath_kept
    | with_reducible apply Kept.step sendLoop_kept
    | with_reducible apply Kept.step calTrimStep_kept
    | with_reducible apply Kept.step dropLight_kept
    | with_reducible apply Kept.step ringsReady_kept
    | with_reducible apply Kept.step classify_kept
    | with_reducible apply Kept.ite
    | decide
    | (intro _; intros; try dsimp only)
    | dsimp only
    | split

theorem flyPower_kept {n : Nat} {s : State} : Kept [.hst, .lnk, .srd, .svc, .fwd, .swc, .tmb, .lnd, .mil, .mem, .opt, .res, .tly, .nv, .ram, .out] s (flyPower n s) := by
  unfold flyPower
  try dsimp only
  repeat' first
    | with_reducible exact Kept.refl _
    | with_reducible exact Kept.idRefl
    | with_reducible apply Kept.step State.modFly_kept
    | with_reducible apply Kept.step flyEnd_kept
    | with_reducible apply Kept.ite
    | decide
    | (intro _; intros; try dsimp only)
    | dsimp only
    | split

theorem takeStatus_kept {e : Nat} {b : List Byte} {s : State} : Kept [.hst, .lnk, .srd, .svc, .fwd, .swc, .tmb, .lnd, .mil, .mem, .opt, .res, .tly, .nv, .ram, .fresh, .out] s (takeStatus e b s) := by
  unfold takeStatus
  try dsimp only
  repeat' first
    | with_reducible exact Kept.refl _
    | with_reducible exact Kept.idRefl
    | with_reducible apply Kept.step State.modEngine_kept
    | with_reducible apply fun hf h => Kept.trans h (forEach_kept hf)
    | with_reducible apply Kept.step takePathStatus_kept
    | with_reducible apply Kept.step sweepTx_kept
    | with_reducible apply Kept.step sendPathSet_kept
    | with_reducible apply Kept.step sweepRx_kept
    | with_reducible apply Kept.step flyPower_kept
    | with_reducible apply Kept.ite
    | decide
    | (intro _; intros; try dsimp only)

theorem execEngineStatus_kept {lane : EngLane} {codes : List Code} {s : State} : KeptOut [.hst, .lnk, .srd, .svc, .fwd, .swc, .tmb, .lnd, .mil, .mem, .opt, .res, .tly, .nv, .ram, .fresh, .out] s (execEngineStatus lane codes s) := by
  unfold execEngineStatus
  try dsimp only
  repeat' first
    | with_reducible exact Kept.refl _
    | with_reducible exact Kept.idRefl
    | with_reducible apply fun hl h0 h => Kept.trans h (onEngine_kept hl h0)
    | with_reducible apply Kept.step takeStatus_kept
    | with_reducible apply Kept.next
    | decide
    | (intro _; intros; try dsimp only)

theorem flyReturn_kept {num : Nat} {s : State} : Kept [.lnk, .srd, .svc, .opt, .out] s (flyReturn num s) := by
  unfold flyReturn
  try dsimp only
  repeat' first
    | with_reducible exact Kept.refl _
    | with_reducible exact Kept.idRefl
    | with_reducible apply Kept.step State.modFly_kept
    | with_reducible apply Kept.step flyRelease_kept
    | with_reducible apply Kept.step settleFlys_kept
    | with_reducible apply Kept.step flyLanesBack_kept
    | decide

theorem flyOffDue_kept {num : Nat} {s : State} : Kept [.lnk, .srd, .svc, .opt, .out] s (flyOffDue num s) := by
  unfold flyOffDue
  try dsimp only
  repeat' first
    | with_reducible exact Kept.refl _
    | with_reducible exact Kept.idRefl
    | with_reducible apply Kept.step flyReturn_kept
    | with_reducible apply Kept.ite
    | decide

theorem flyTimeout_kept {num : Nat} {s : State} : Kept [.hst, .lnk, .srd, .svc, .fwd, .swc, .tmb, .lnd, .mil, .mem, .opt, .res, .tly, .nv, .ram, .out] s (flyTimeout num s) := by
  unfold flyTimeout
  try dsimp only
  repeat' first
    | with_reducible exact Kept.refl _
    | with_reducible exact Kept.idRefl
    | with_reducible apply Kept.step flyEnd_kept
    | with_reducible apply Kept.ite
    | decide

theorem execKeepalive_kept {dt : Nat} {s : State} : KeptOut [.svc, .tmb, .opt, .tly, .clk, .out] s (execKeepalive dt s) := by
  unfold execKeepalive
  try dsimp only
  repeat' first
    | with_reducible exact Kept.refl _
    | with_reducible exact Kept.idRefl
    | with_reducible apply Kept.step keepaliveAll_kept
    | with_reducible apply Kept.step elapse_kept
    | with_reducible apply Kept.next
    | decide

theorem retireLane_kept {p : Nat} {l : Nat} {s : State} : Kept [.hst, .lnk, .srd, .svc, .fwd, .swc, .tmb, .lnd, .mil, .mem, .opt, .res, .tly, .nv, .ram, .out] s (retireLane p l s) := by
  unfold retireLane
  try dsimp only
  repeat' first
    | with_reducible exact Kept.refl _
    | with_reducible exact Kept.idRefl
    | with_reducible apply Kept.step State.modPath_kept
    | with_reducible apply Kept.step raiseOpt_kept
    | with_reducible apply Kept.step sendLoop_kept
    | with_reducible apply Kept.step laneLost_kept
    | with_reducible apply Kept.step State.modLink_kept
    | with_reducible apply Kept.step retrain_kept
    | with_reducible apply Kept.step zeroScore_kept
    | with_reducible apply Kept.step txIdle_kept
    | with_reducible apply Kept.step State.modLane_kept
    | with_reducible apply Kept.ite
    | decide
    | (intro _; intros; try dsimp only)
    | dsimp only
    | split

theorem setCalres_kept {p : Nat} {r : CalRes} {s : State} : Kept [.opt] s (setCalres p r s) := by
  unfold setCalres
  try dsimp only
  repeat' first
    | with_reducible exact Kept.refl _
    | with_reducible exact Kept.idRefl
    | with_reducible apply Kept.step State.modPath_kept
    | decide

theorem startPass_kept {p : Nat} {s : State} : Kept [.svc, .opt, .out] s (startPass p s) := by
  unfold startPass
  try dsimp only
  repeat' first
    | with_reducible exact Kept.refl _
    | with_reducible exact Kept.idRefl
    | with_reducible apply Kept.step State.modPath_kept
    | with_reducible apply Kept.step calSweep_kept
    | with_reducible apply Kept.ite
    | decide

theorem passFails_kept {p : Nat} {s : State} : Kept [.hst, .lnk, .srd, .svc, .swc, .lnd, .mil, .opt, .res, .nv, .out] s (passFails p s) := by
  unfold passFails
  try dsimp only
  repeat' first
    | with_reducible exact Kept.refl _
    | with_reducible exact Kept.idRefl
    | with_reducible apply Kept.step addPenalty_kept
    | with_reducible apply Kept.step State.modPath_kept
    | with_reducible apply Kept.step sweepBoth_kept
    | with_reducible apply Kept.step setCalres_kept
    | with_reducible apply Kept.step startPass_kept
    | with_reducible apply Kept.step State.modLane_kept
    | with_reducible apply Kept.ite
    | decide
    | (intro _; intros; try dsimp only)
    | dsimp only
    | split

theorem mislockSweep_kept {p : Nat} {l : Nat} {drop : Bool} {s : State} : Kept [.hst, .lnk, .srd, .svc, .fwd, .swc, .tmb, .lnd, .mil, .mem, .opt, .res, .tly, .nv, .ram, .out] s (mislockSweep p l drop s) := by
  unfold mislockSweep
  try dsimp only
  repeat' first
    | with_reducible exact Kept.refl _
    | with_reducible exact Kept.idRefl
    | with_reducible apply Kept.step laneLost_kept
    | with_reducible apply Kept.step sendLoop_kept
    | with_reducible apply Kept.step addPenalty_kept
    | with_reducible apply Kept.step retrain_kept
    | with_reducible apply Kept.step State.modPath_kept
    | with_reducible apply Kept.step sendPathSet_kept
    | with_reducible apply Kept.step sweepRx_kept
    | with_reducible apply Kept.step sweepTx_kept
    | with_reducible apply Kept.ite
    | decide
    | (intro _; intros; try dsimp only)
    | dsimp only
    | split

theorem mislocked_kept {p : Nat} {l : Nat} {drop : Bool} {seen : Half} {s : State} : Kept [.hst, .lnk, .srd, .svc, .fwd, .swc, .tmb, .lnd, .mil, .mem, .opt, .res, .tly, .nv, .ram, .out] s (mislocked p l drop seen s) := by
  unfold mislocked
  extract_lets n q r s1 s2 s3 s4 s5 s6
  have h1 : Kept [.hst, .lnk, .srd, .svc, .fwd, .swc, .tmb, .lnd, .mil, .mem, .opt, .res, .tly, .nv, .ram, .out] s s1 := Kept.put_opt (by decide) (Kept.step raiseOpt_kept (by decide) (Kept.mono count_kept (by decide)))
  have h2 : Kept [.hst, .lnk, .srd, .svc, .fwd, .swc, .tmb, .lnd, .mil, .mem, .opt, .res, .tly, .nv, .ram, .out] s s2 := Kept.step State.modPath_kept (by decide) h1
  have h3 : Kept [.hst, .lnk, .srd, .svc, .fwd, .swc, .tmb, .lnd, .mil, .mem, .opt, .res, .tly, .nv, .ram, .out] s s3 := Kept.ite (Kept.step State.modLane_kept (by decide) h2) h2
  have h4 : Kept [.hst, .lnk, .srd, .svc, .fwd, .swc, .tmb, .lnd, .mil, .mem, .opt, .res, .tly, .nv, .ram, .out] s s4 := Kept.step State.modPath_kept (by decide) h3
  have h5 : Kept [.hst, .lnk, .srd, .svc, .fwd, .swc, .tmb, .lnd, .mil, .mem, .opt, .res, .tly, .nv, .ram, .out] s s5 := Kept.ite (Kept.step flyEndAll_kept (by decide) h4) h4
  have h6 : Kept [.hst, .lnk, .srd, .svc, .fwd, .swc, .tmb, .lnd, .mil, .mem, .opt, .res, .tly, .nv, .ram, .out] s s6 := Kept.step addPenalty_kept (by decide) h5
  exact Kept.ite (Kept.step retireLane_kept (by decide) (Kept.ite (Kept.step setCalres_kept (by decide) h5) h5))
    (Kept.ite (Kept.step passFails_kept (by decide) h6) (Kept.step mislockSweep_kept (by decide) h6))

theorem checkMislock_kept {p : Nat} {drop : Bool} {seen : Half} {s : State} : Kept [.hst, .lnk, .srd, .svc, .fwd, .swc, .tmb, .lnd, .mil, .mem, .opt, .res, .tly, .nv, .ram, .out] s (checkMislock p drop seen s) := by
  unfold checkMislock
  try dsimp only
  repeat' first
    | with_reducible exact Kept.refl _
    | with_reducible exact Kept.idRefl
    | with_reducible apply Kept.step mislocked_kept
    | with_reducible apply Kept.step flyEnd_kept
    | with_reducible apply Kept.ite
    | decide
    | (intro _; intros; try dsimp only)
    | dsimp only
    | split

theorem execMislock_kept {dt : Nat} {path : Fin 2048} {drop : Bool} {seen : Half} {s : State} : KeptOut [.hst, .lnk, .srd, .svc, .fwd, .swc, .tmb, .lnd, .mil, .mem, .opt, .res, .tly, .nv, .ram, .clk, .out] s (execMislock dt path drop seen s) := by
  unfold execMislock
  try dsimp only
  repeat' first
    | with_reducible exact Kept.refl _
    | with_reducible exact Kept.idRefl
    | with_reducible apply Kept.step checkMislock_kept
    | with_reducible apply Kept.step elapse_kept
    | with_reducible apply Kept.next
    | decide

theorem flyStatus_kept {st : Nat} {s : State} : Kept [.opt] s (flyStatus st s) := by
  unfold flyStatus
  try dsimp only
  repeat' first
    | with_reducible exact Kept.refl _
    | with_reducible exact Kept.idRefl
    | (fail_if_no_progress ((with_reducible apply Kept.put_opt); decide))

theorem flyClear_kept {num : Nat} {s : State} : Kept [.hst, .lnk, .srd, .svc, .fwd, .swc, .tmb, .lnd, .mil, .mem, .opt, .res, .tly, .nv, .ram, .out] s (flyClear num s) := by
  unfold flyClear
  try dsimp only
  repeat' first
    | with_reducible exact Kept.refl _
    | with_reducible exact Kept.idRefl
    | with_reducible apply Kept.step flyStatus_kept
    | with_reducible apply Kept.step flyReturn_kept
    | with_reducible apply Kept.step flyNotice_kept
    | with_reducible apply Kept.step State.modFly_kept
    | with_reducible apply Kept.ite
    | decide

theorem retryEng_kept {e : Nat} {s : State} : Kept [.svc, .opt, .out] s (retryEng e s) := by
  unfold retryEng
  try dsimp only
  repeat' first
    | with_reducible exact Kept.refl _
    | with_reducible exact Kept.idRefl
    | with_reducible apply Kept.step State.modEngine_kept
    | with_reducible apply fun hf h => Kept.trans h (forEach_kept hf)
    | with_reducible apply Kept.step sendEngRaw_kept
    | with_reducible apply Kept.ite
    | decide
    | (intro _; intros; try dsimp only)

theorem execEngineCmdRetry_kept {dt : Nat} {e : Fin 32} {s : State} : KeptOut [.svc, .tmb, .opt, .tly, .clk, .out] s (execEngineCmdRetry dt e s) := by
  unfold execEngineCmdRetry
  try dsimp only
  repeat' first
    | with_reducible exact Kept.refl _
    | with_reducible exact Kept.idRefl
    | with_reducible apply Kept.step retryEng_kept
    | with_reducible apply Kept.step elapse_kept
    | with_reducible apply Kept.next
    | decide

theorem execFlyOffInstant_kept {dt : Nat} {num : Byte} {s : State} : KeptOut [.lnk, .srd, .svc, .tmb, .opt, .tly, .clk, .out] s (execFlyOffInstant dt num s) := by
  unfold execFlyOffInstant
  try dsimp only
  repeat' first
    | with_reducible exact Kept.refl _
    | with_reducible exact Kept.idRefl
    | with_reducible apply Kept.step flyOffDue_kept
    | with_reducible apply Kept.step elapse_kept
    | with_reducible apply Kept.next
    | decide

theorem flyDeadline_kept {num : Nat} {s : State} : Kept [.hst, .lnk, .srd, .svc, .fwd, .swc, .tmb, .lnd, .mil, .mem, .opt, .res, .tly, .nv, .ram, .out] s (flyDeadline num s) := by
  unfold flyDeadline
  try dsimp only
  repeat' first
    | with_reducible exact Kept.refl _
    | with_reducible exact Kept.idRefl
    | with_reducible apply Kept.step flyEnd_kept
    | with_reducible apply Kept.ite
    | decide

theorem execFlyOffAckDeadline_kept {dt : Nat} {num : Byte} {s : State} : KeptOut [.hst, .lnk, .srd, .svc, .fwd, .swc, .tmb, .lnd, .mil, .mem, .opt, .res, .tly, .nv, .ram, .clk, .out] s (execFlyOffAckDeadline dt num s) := by
  unfold execFlyOffAckDeadline
  try dsimp only
  repeat' first
    | with_reducible exact Kept.refl _
    | with_reducible exact Kept.idRefl
    | with_reducible apply Kept.step flyDeadline_kept
    | with_reducible apply Kept.step elapse_kept
    | with_reducible apply Kept.next
    | decide

theorem retryDrop_kept {p : Nat} {s : State} : Kept [.svc, .opt, .out] s (retryDrop p s) := by
  unfold retryDrop
  try dsimp only
  repeat' first
    | with_reducible exact Kept.refl _
    | with_reducible exact Kept.idRefl
    | with_reducible apply Kept.step sweepRx_kept
    | with_reducible apply Kept.ite
    | decide
    | (intro _; intros; try dsimp only)
    | dsimp only
    | split

theorem execFlyVerify_kept {dt : Nat} {num : Byte} {launchA : Half} {launchB : Half} {s : State} : KeptOut [.hst, .lnk, .srd, .svc, .fwd, .swc, .tmb, .lnd, .mil, .mem, .opt, .res, .tly, .nv, .ram, .clk, .out] s (execFlyVerify dt num launchA launchB s) := by
  unfold execFlyVerify
  try dsimp only
  repeat' first
    | with_reducible exact Kept.refl _
    | with_reducible exact Kept.idRefl
    | with_reducible apply Kept.step flyVerify_kept
    | with_reducible apply Kept.step elapse_kept
    | with_reducible apply Kept.next
    | decide

theorem loseEngine_kept {e : Nat} {s : State} : Kept [.hst, .opt, .out] s (loseEngine e s) := by
  unfold loseEngine
  try dsimp only
  repeat' first
    | with_reducible exact Kept.refl _
    | with_reducible exact Kept.idRefl
    | with_reducible apply Kept.step raiseOpt_kept
    | with_reducible apply Kept.step State.modEngine_kept
    | with_reducible apply Kept.ite
    | decide

theorem passOk_kept {p : Nat} {s : State} : Kept [.lnk, .srd, .svc, .opt, .out] s (passOk p s) := by
  unfold passOk
  try dsimp only
  repeat' first
    | with_reducible exact Kept.refl _
    | with_reducible exact Kept.idRefl
    | with_reducible apply Kept.step State.modPath_kept
    | with_reducible apply Kept.step ringsReady_kept
    | with_reducible apply Kept.step sendLoop_kept
    | decide

theorem optPassEnd_kept {p : Nat} {s : State} : Kept [.hst, .lnk, .srd, .svc, .swc, .lnd, .mil, .opt, .res, .nv, .out] s (optPassEnd p s) := by
  unfold optPassEnd
  try dsimp only
  repeat' first
    | with_reducible exact Kept.refl _
    | with_reducible exact Kept.idRefl
    | with_reducible apply Kept.step passOk_kept
    | with_reducible apply Kept.step passFails_kept
    | with_reducible apply Kept.ite
    | decide

theorem execOptCalPassEnd_kept {dt : Nat} {path : Fin 2048} {s : State} : KeptOut [.hst, .lnk, .srd, .svc, .swc, .tmb, .lnd, .mil, .opt, .res, .tly, .nv, .clk, .out] s (execOptCalPassEnd dt path s) := by
  unfold execOptCalPassEnd
  try dsimp only
  repeat' first
    | with_reducible exact Kept.refl _
    | with_reducible exact Kept.idRefl
    | with_reducible apply Kept.step optPassEnd_kept
    | with_reducible apply Kept.step elapse_kept
    | with_reducible apply Kept.next
    | decide

theorem flyCommand_kept {p : HPort} {f : State → State} {s : State} {L : List Blk} (hL : [.hst, .opt, .tly] ⊆ L) (hf : ∀ t, Kept L t (f t)) : Kept L s (flyCommand p f s) := by
  unfold flyCommand
  try dsimp only
  repeat' first
    | with_reducible exact Kept.refl _
    | with_reducible exact Kept.idRefl
    | with_reducible apply fun h => Kept.trans h (hf _)
    | with_reducible apply fun hl h0 h => Kept.trans h (hostWrite_kept hl h0)
    | with_reducible apply Kept.ite
    | (fail_if_no_progress ((with_reducible apply Kept.put_opt); exact hL (by decide)))
    | exact List.Subset.trans (by decide) hL
    | exact hL (by decide)
    | exact hL
    | (intro _; intros; try dsimp only)

theorem execFlyClear_kept {p : HPort} {num : Byte} {s : State} : KeptOut [.hst, .lnk, .srd, .svc, .fwd, .swc, .tmb, .lnd, .mil, .mem, .opt, .res, .tly, .nv, .ram, .out] s (execFlyClear p num s) := by
  unfold execFlyClear
  try dsimp only
  repeat' first
    | with_reducible exact Kept.refl _
    | with_reducible exact Kept.idRefl
    | with_reducible apply fun hl h0 h => Kept.trans h (flyCommand_kept hl h0)
    | with_reducible apply Kept.step flyClear_kept
    | with_reducible apply Kept.next
    | decide
    | (intro _; intros; try dsimp only)

theorem takeAckOf_kept {e : Nat} {seq : Byte} {stat : Byte} {s : State} : Kept [.opt] s (takeAckOf e seq stat s) := by
  unfold takeAckOf
  try dsimp only
  repeat' first
    | with_reducible exact Kept.refl _
    | with_reducible exact Kept.idRefl
    | with_reducible apply Kept.step State.modEngine_kept
    | with_reducible apply Kept.step State.modFly_kept
    | with_reducible apply Kept.ite
    | decide
    | (intro _; intros; try dsimp only)
    | dsimp only
    | split

theorem execEngineAck_kept {e : Fin 32} {second : Bool} {codes : List Code} {s : State} : KeptOut [.svc, .opt, .tly] s (execEngineAck e second codes s) := by
  unfold execEngineAck
  try dsimp only
  repeat' first
    | with_reducible exact Kept.refl _
    | with_reducible exact Kept.idRefl
    | with_reducible apply fun hl h0 h => Kept.trans h (onEngine_kept hl h0)
    | with_reducible apply Kept.step takeAckOf_kept
    | with_reducible apply Kept.next
    | decide
    | (intro _; intros; try dsimp only)

theorem lightPath_kept {p : Nat} {s : State} : Kept [.svc, .opt, .out] s (lightPath p s) := by
  unfold lightPath
  try dsimp only
  repeat' first
    | with_reducible exact Kept.refl _
    | with_reducible exact Kept.idRefl
    | with_reducible apply Kept.step sweepRx_kept
    | with_reducible apply Kept.step sweepTx_kept
    | with_reducible apply Kept.step sendLoop_kept
    | with_reducible apply Kept.step sendPathSet_kept
    | with_reducible apply Kept.ite
    | decide

theorem execEngineLost_kept {dt : Nat} {e : Fin 32} {s : State} : KeptOut [.hst, .tmb, .opt, .tly, .clk, .out] s (execEngineLost dt e s) := by
  unfold execEngineLost
  try dsimp only
  repeat' first
    | with_reducible exact Kept.refl _
    | with_reducible exact Kept.idRefl
    | with_reducible apply Kept.step loseEngine_kept
    | with_reducible apply Kept.step elapse_kept
    | with_reducible apply Kept.next
    | decide

theorem flyCut_kept {num : Nat} {s : State} : Kept [.lnk, .srd, .svc, .opt, .out] s (flyCut num s) := by
  unfold flyCut
  try dsimp only
  repeat' first
    | with_reducible exact Kept.refl _
    | with_reducible exact Kept.idRefl
    | with_reducible apply Kept.step rxLaneOff_kept
    | with_reducible apply Kept.step State.modFly_kept
    | with_reducible apply Kept.step flyCross_kept
    | with_reducible apply Kept.ite
    | decide
    | (intro _; intros; try dsimp only)
    | dsimp only
    | split

theorem execDropRingRetry_kept {dt : Nat} {path : Fin 2048} {s : State} : KeptOut [.svc, .tmb, .opt, .tly, .clk, .out] s (execDropRingRetry dt path s) := by
  unfold execDropRingRetry
  try dsimp only
  repeat' first
    | with_reducible exact Kept.refl _
    | with_reducible exact Kept.idRefl
    | with_reducible apply Kept.step retryDrop_kept
    | with_reducible apply Kept.step elapse_kept
    | with_reducible apply Kept.next
    | decide

theorem flySet_kept {num : Nat} {s : State} : Kept [.hst, .lnk, .srd, .fwd, .swc, .tmb, .lnd, .mil, .mem, .opt, .res, .tly, .nv, .ram, .out] s (flySet num s) := by
  unfold flySet
  try dsimp only
  repeat' first
    | with_reducible exact Kept.refl _
    | with_reducible exact Kept.idRefl
    | with_reducible apply Kept.step flyStatus_kept
    | with_reducible apply Kept.step count_kept
    | with_reducible apply Kept.step State.modFly_kept
    | with_reducible apply Kept.step flyNotice_kept
    | decide
    | (intro _; intros; try dsimp only)
    | dsimp only
    | split

theorem requestOptCal_kept {p : Nat} {s : State} : Kept [.hst, .lnk, .srd, .svc, .fwd, .swc, .tmb, .lnd, .mil, .mem, .opt, .res, .tly, .nv, .ram, .out] s (requestOptCal p s) := by
  unfold requestOptCal
  try dsimp only
  repeat' first
    | with_reducible exact Kept.refl _
    | with_reducible exact Kept.idRefl
    | with_reducible apply Kept.step setCalres_kept
    | with_reducible apply Kept.step startPass_kept
    | with_reducible apply Kept.step sendLoop_kept
    | with_reducible apply Kept.step State.modPath_kept
    | with_reducible apply Kept.step rxLaneOff_kept
    | with_reducible apply Kept.step startTraining_kept
    | with_reducible apply Kept.step portDown_kept
    | with_reducible apply Kept.ite
    | decide
    | (intro _; intros; try dsimp only)
    | dsimp only
    | split

theorem execOptCal_kept {p : HPort} {path : Fin 2048} {s : State} : KeptOut [.hst, .lnk, .srd, .svc, .fwd, .swc, .tmb, .lnd, .mil, .mem, .opt, .res, .tly, .nv, .ram, .out] s (execOptCal p path s) := by
  unfold execOptCal
  try dsimp only
  repeat' first
    | with_reducible exact Kept.refl _
    | with_reducible exact Kept.idRefl
    | with_reducible apply fun hl h0 h => Kept.trans h (hostWrite_kept hl h0)
    | with_reducible apply Kept.step requestOptCal_kept
    | with_reducible apply Kept.next
    | decide
    | (intro _; intros; try dsimp only)

theorem execFlyoverCut_kept {dt : Nat} {num : Byte} {s : State} : KeptOut [.lnk, .srd, .svc, .tmb, .opt, .tly, .clk, .out] s (execFlyoverCut dt num s) := by
  unfold execFlyoverCut
  try dsimp only
  repeat' first
    | with_reducible exact Kept.refl _
    | with_reducible exact Kept.idRefl
    | with_reducible apply Kept.step flyCut_kept
    | with_reducible apply Kept.step elapse_kept
    | with_reducible apply Kept.next
    | decide

theorem execFlySwitchTimeout_kept {dt : Nat} {num : Byte} {s : State} : KeptOut [.hst, .lnk, .srd, .svc, .fwd, .swc, .tmb, .lnd, .mil, .mem, .opt, .res, .tly, .nv, .ram, .clk, .out] s (execFlySwitchTimeout dt num s) := by
  unfold execFlySwitchTimeout
  try dsimp only
  repeat' first
    | with_reducible exact Kept.refl _
    | with_reducible exact Kept.idRefl
    | with_reducible apply Kept.step flyTimeout_kept
    | with_reducible apply Kept.step elapse_kept
    | with_reducible apply Kept.next
    | decide

theorem takeEngHello_kept {e : Nat} {b : List Byte} {s : State} : Kept [.hst, .svc, .opt, .out] s (takeEngHello e b s) := by
  unfold takeEngHello
  try dsimp only
  repeat' first
    | with_reducible exact Kept.refl _
    | with_reducible exact Kept.idRefl
    | with_reducible apply Kept.step State.modEngine_kept
    | with_reducible apply Kept.step raiseOpt_kept
    | with_reducible apply fun hf h => Kept.trans h (forEach_kept hf)
    | with_reducible apply Kept.step State.modPath_kept
    | with_reducible apply Kept.step sendEng_kept
    | with_reducible apply Kept.step lightPath_kept
    | with_reducible apply Kept.ite
    | decide
    | (intro _; intros; try dsimp only)

theorem execFlySet_kept {p : HPort} {num : Byte} {s : State} : KeptOut [.hst, .lnk, .srd, .fwd, .swc, .tmb, .lnd, .mil, .mem, .opt, .res, .tly, .nv, .ram, .out] s (execFlySet p num s) := by
  unfold execFlySet
  try dsimp only
  repeat' first
    | with_reducible exact Kept.refl _
    | with_reducible exact Kept.idRefl
    | with_reducible apply fun hl h0 h => Kept.trans h (flyCommand_kept hl h0)
    | with_reducible apply Kept.step flySet_kept
    | with_reducible apply Kept.next
    | decide
    | (intro _; intros; try dsimp only)

theorem execEngHello_kept {lane : EngLane} {codes : List Code} {s : State} : KeptOut [.hst, .svc, .opt, .tly, .out] s (execEngHello lane codes s) := by
  unfold execEngHello
  try dsimp only
  repeat' first
    | with_reducible exact Kept.refl _
    | with_reducible exact Kept.idRefl
    | with_reducible apply fun hl h0 h => Kept.trans h (onEngine_kept hl h0)
    | with_reducible apply Kept.step takeEngHello_kept
    | with_reducible apply Kept.next
    | decide
    | (intro _; intros; try dsimp only)

theorem execIdleExit_kept {port : Port} {lane : Fin 8} {s : State} : KeptOut [.srd] s (execIdleExit port lane s) := by
  unfold execIdleExit
  try dsimp only
  repeat' first
    | with_reducible exact Kept.refl _
    | with_reducible exact Kept.idRefl
    | with_reducible apply Kept.step idleExit_kept
    | with_reducible apply Kept.ite
    | with_reducible apply Kept.next
    | decide

theorem abortEye_kept {c : Nat} {s : State} : Kept [.eye] s (abortEye c s) := by
  unfold abortEye
  try dsimp only
  repeat' first
    | with_reducible exact Kept.refl _
    | with_reducible exact Kept.idRefl
    | with_reducible apply Kept.step State.modEye_kept
    | with_reducible apply Kept.ite
    | decide

theorem writeEye_kept {c : Nat} {v : Nat} {s : State} : Kept [.eye, .fresh] s (writeEye c v s) := by
  unfold writeEye
  try dsimp only
  repeat' first
    | with_reducible exact Kept.refl _
    | with_reducible exact Kept.idRefl
    | with_reducible apply Kept.step State.modEye_kept
    | with_reducible apply Kept.step abortEye_kept
    | with_reducible apply Kept.ite
    | (fail_if_no_progress ((with_reducible apply Kept.put_fresh); decide))
    | decide

theorem execEyeStart_kept {p : HPort} {chip : Fin 8} {v : Word} {s : State} : KeptOut [.hst, .eye, .tly, .fresh] s (execEyeStart p chip v s) := by
  unfold execEyeStart
  try dsimp only
  repeat' first
    | with_reducible exact Kept.refl _
    | with_reducible exact Kept.idRefl
    | with_reducible apply fun hl h0 h => Kept.trans h (hostWrite_kept hl h0)
    | with_reducible apply Kept.step writeEye_kept
    | with_reducible apply Kept.next
    | decide
    | (intro _; intros; try dsimp only)

theorem readCal_kept {s : State} : Kept [.hst, .ram] s (readCal s) := by
  unfold readCal
  try dsimp only
  repeat' first
    | with_reducible exact Kept.refl _
    | with_reducible exact Kept.idRefl
    | with_reducible apply Kept.step mbResult_kept
    | with_reducible apply Kept.step mbAnswer_kept
    | with_reducible apply Kept.ite
    | decide

theorem writeCal_kept {flashOk : Bool} {s : State} : Kept [.hst, .nv] s (writeCal flashOk s) := by
  unfold writeCal
  try dsimp only
  repeat' first
    | with_reducible exact Kept.refl _
    | with_reducible exact Kept.idRefl
    | with_reducible apply Kept.step mbResult_kept
    | with_reducible apply Kept.ite
    | (fail_if_no_progress ((with_reducible apply Kept.put_nv); decide; with_reducible exact rfl))
    | decide

theorem execIdleRetainExpire_kept {dt : Nat} {lane : LaneNo} {s : State} : KeptOut [.srd, .tmb, .tly, .clk, .out] s (execIdleRetainExpire dt lane s) := by
  unfold execIdleRetainExpire
  try dsimp only
  repeat' first
    | with_reducible exact Kept.refl _
    | with_reducible exact Kept.idRefl
    | with_reducible apply Kept.step retainExpire_kept
    | with_reducible apply Kept.step elapse_kept
    | with_reducible apply Kept.next
    | decide

theorem execRecalPassEnd_kept {dt : Nat} {lane : LaneNo} {s : State} : KeptOut [.hst, .lnk, .srd, .swc, .tmb, .lnd, .mil, .res, .tly, .nv, .clk, .fresh, .out] s (execRecalPassEnd dt lane s) := by
  unfold execRecalPassEnd
  try dsimp only
  repeat' first
    | with_reducible exact Kept.refl _
    | with_reducible exact Kept.idRefl
    | with_reducible apply Kept.step passEnd_kept
    | with_reducible apply Kept.step elapse_kept
    | with_reducible apply Kept.next
    | decide

theorem execCalWrite_kept {p : HPort} {flashOk : Bool} {s : State} : KeptOut [.hst, .tly, .nv, .out] s (execCalWrite p flashOk s) := by
  unfold execCalWrite
  try dsimp only
  repeat' first
    | with_reducible exact Kept.refl _
    | with_reducible exact Kept.idRefl
    | with_reducible apply fun hl h0 h => Kept.trans h (mbCommand_kept hl h0)
    | with_reducible apply Kept.step writeCal_kept
    | with_reducible apply Kept.next
    | decide
    | (intro _; intros; try dsimp only)

theorem execRecal_kept {p : HPort} {lane : LaneNo} {s : State} : KeptOut [.hst, .lnk, .srd, .svc, .eye, .fwd, .swc, .tmb, .lnd, .mil, .mem, .opt, .res, .tly, .nv, .ram, .out] s (execRecal p lane s) := by
  unfold execRecal
  try dsimp only
  repeat' first
    | with_reducible exact Kept.refl _
    | with_reducible exact Kept.idRefl
    | with_reducible apply fun hl h0 h => Kept.trans h (hostWrite_kept hl h0)
    | with_reducible apply Kept.step requestRecal_kept
    | with_reducible apply Kept.next
    | decide
    | (intro _; intros; try dsimp only)

theorem execEyeAbort_kept {p : HPort} {chip : Fin 8} {s : State} : KeptOut [.hst, .eye, .tly] s (execEyeAbort p chip s) := by
  unfold execEyeAbort
  try dsimp only
  repeat' first
    | with_reducible exact Kept.refl _
    | with_reducible exact Kept.idRefl
    | with_reducible apply fun hl h0 h => Kept.trans h (hostWrite_kept hl h0)
    | with_reducible apply Kept.step abortEye_kept
    | with_reducible apply Kept.next
    | decide
    | (intro _; intros; try dsimp only)

theorem scanDone_kept {c lane : Nat} {s : State} : Kept [.eye] s (scanDone c lane s) := by
  unfold scanDone
  try dsimp only
  repeat' first
    | with_reducible exact Kept.refl _
    | with_reducible exact Kept.idRefl
    | with_reducible apply Kept.step State.modEye_kept
    | with_reducible apply Kept.ite
    | decide

theorem execEyeScanDone_kept {dt : Nat} {chip : Fin 8} {lane : Byte} {s : State} : KeptOut [.eye, .tmb, .tly, .clk, .out] s (execEyeScanDone dt chip lane s) := by
  unfold execEyeScanDone
  try dsimp only
  repeat' first
    | with_reducible exact Kept.refl _
    | with_reducible exact Kept.idRefl
    | with_reducible apply Kept.step scanDone_kept
    | with_reducible apply Kept.step elapse_kept
    | with_reducible apply Kept.next
    | decide

theorem execCalRead_kept {p : HPort} {s : State} : KeptOut [.hst, .tly, .ram, .out] s (execCalRead p s) := by
  unfold execCalRead
  try dsimp only
  repeat' first
    | with_reducible exact Kept.refl _
    | with_reducible exact Kept.idRefl
    | with_reducible apply fun hl h0 h => Kept.trans h (mbCommand_kept hl h0)
    | with_reducible apply Kept.step readCal_kept
    | with_reducible apply Kept.next
    | decide
    | (intro _; intros; try dsimp only)

theorem execCalCapture_kept {p : HPort} {adapted : List (Nat × List Byte)} {s : State} : KeptOut [.hst, .tly, .ram, .out] s (execCalCapture p adapted s) := by
  unfold execCalCapture
  try dsimp only
  repeat' first
    | with_reducible exact Kept.refl _
    | with_reducible exact Kept.idRefl
    | with_reducible apply fun hl h0 h => Kept.trans h (mbCommand_kept hl h0)
    | with_reducible apply Kept.step mbAnswer_kept
    | with_reducible apply Kept.next
    | decide
    | (intro _; intros; try dsimp only)

theorem execTimeMarker_kept {n : Fin 80} {stamp : Nat} {s : State} : KeptOut [.svc] s (execTimeMarker n stamp s) := by
  unfold execTimeMarker
  try dsimp only
  repeat' first
    | with_reducible exact Kept.refl _
    | with_reducible exact Kept.idRefl
    | with_reducible apply Kept.step State.modSvc_kept
    | with_reducible apply Kept.ite
    | with_reducible apply Kept.next
    | decide

theorem execEqTuneEnd_kept {dt : Nat} {port : Port} {lane : Fin 8} {s : State} : KeptOut [.srd, .tmb, .tly, .clk, .out] s (execEqTuneEnd dt port lane s) := by
  unfold execEqTuneEnd
  try dsimp only
  repeat' first
    | with_reducible exact Kept.refl _
    | with_reducible exact Kept.idRefl
    | with_reducible apply Kept.step tuneEnd_kept
    | with_reducible apply Kept.step elapse_kept
    | with_reducible apply Kept.ite
    | with_reducible apply Kept.next
    | decide

theorem execServiceMessageDiscard_kept {n : Fin 80} {codes : List Code} {s : State} : KeptOut [.svc, .tly] s (execServiceMessageDiscard n codes s) := by
  unfold execServiceMessageDiscard
  try dsimp only
  repeat' first
    | with_reducible exact Kept.refl _
    | with_reducible exact Kept.idRefl
    | with_reducible apply fun hl h0 h => Kept.trans h (svcMessage_kept hl h0)
    | with_reducible apply Kept.step discardSvc_kept
    | with_reducible apply Kept.next
    | decide
    | (intro _; intros; try dsimp only)
    | dsimp only
    | split

theorem execServiceAlign_kept {n : Fin 80} {bits : List Bool} {s : State} : KeptOut [.svc] s (execServiceAlign n bits s) := by
  unfold execServiceAlign
  try dsimp only
  repeat' first
    | with_reducible exact Kept.refl _
    | with_reducible exact Kept.idRefl
    | with_reducible apply Kept.step State.modSvc_kept
    | with_reducible apply Kept.ite
    | with_reducible apply fun hf h => Kept.trans h (foldl_kept hf)
    | with_reducible apply Kept.next
    | decide

theorem trainingTimeout_kept {p : Nat} {s : State} : Kept [.hst, .lnk, .srd, .svc, .fwd, .swc, .tmb, .lnd, .mil, .mem, .opt, .res, .tly, .nv, .ram, .out] s (trainingTimeout p s) := by
  unfold trainingTimeout
  try dsimp only
  repeat' first
    | with_reducible exact Kept.refl _
    | with_reducible exact Kept.idRefl
    | with_reducible apply Kept.step retrain_kept
    | with_reducible apply Kept.ite
    | decide
    | (intro _; intros; try dsimp only)
    | dsimp only
    | split

theorem flyLane_kept {l : Nat} {partner : Bool} {s : State} : Kept [.svc, .opt, .out] s (flyLane l partner s) := by
  unfold flyLane
  try dsimp only
  repeat' first
    | with_reducible exact Kept.refl _
    | with_reducible exact Kept.idRefl
    | with_reducible apply fun hf h => Kept.trans h (forEach_kept hf)
    | with_reducible apply Kept.step flyCross_kept
    | with_reducible apply Kept.step State.modFly_kept
    | with_reducible apply Kept.ite
    | decide
    | (intro _; intros; try dsimp only)

theorem takeOff_kept {p : Nat} {idx : Nat} {s : State} : Kept [.hst, .lnk, .srd, .svc, .fwd, .swc, .tmb, .lnd, .mil, .mem, .opt, .res, .tly, .nv, .ram, .out] s (takeOff p idx s) := by
  unfold takeOff
  try dsimp only
  repeat' first
    | with_reducible exact Kept.refl _
    | with_reducible exact Kept.idRefl
    | with_reducible apply Kept.step addPenalty_kept
    | with_reducible apply Kept.step retrain_kept
    | with_reducible apply Kept.step State.modLink_kept
    | with_reducible apply Kept.step settleUp_kept
    | with_reducible apply Kept.step flyLane_kept
    | with_reducible apply Kept.step sendLaneCtlFrames_kept
    | with_reducible apply Kept.ite
    | decide

theorem ackTimeout_kept {p : Nat} {s : State} : Kept [.hst, .lnk, .srd, .svc, .fwd, .swc, .tmb, .lnd, .mil, .mem, .opt, .res, .tly, .nv, .ram, .out] s (ackTimeout p s) := by
  unfold ackTimeout
  try dsimp only
  repeat' first
    | with_reducible exact Kept.refl _
    | with_reducible exact Kept.idRefl
    | with_reducible apply Kept.step replayLimit_kept
    | with_reducible apply Kept.ite
    | decide

theorem takeOn_kept {p : Nat} {idx : Nat} {s : State} : Kept [.hst, .lnk, .srd, .opt, .out] s (takeOn p idx s) := by
  unfold takeOn
  try dsimp only
  repeat' first
    | with_reducible exact Kept.refl _
    | with_reducible exact Kept.idRefl
    | with_reducible apply Kept.step sendLaneCtlFrames_kept
    | with_reducible apply Kept.step settleFlys_kept
    | with_reducible apply Kept.step settleUp_kept
    | with_reducible apply Kept.step State.modLink_kept
    | with_reducible apply Kept.ite
    | decide

theorem helloSend_kept {p : Nat} {s : State} : Kept [.lnk, .srd, .out] s (helloSend p s) := by
  unfold helloSend
  try dsimp only
  repeat' first
    | with_reducible exact Kept.refl _
    | with_reducible exact Kept.idRefl
    | with_reducible apply Kept.step sendTrain_kept
    | with_reducible apply Kept.step State.modLink_kept
    | with_reducible apply Kept.ite
    | decide

theorem execHelloSend_kept {dt : Nat} {port : Port} {s : State} : KeptOut [.lnk, .srd, .tmb, .tly, .clk, .out] s (execHelloSend dt port s) := by
  unfold execHelloSend
  try dsimp only
  repeat' first
    | with_reducible exact Kept.refl _
    | with_reducible exact Kept.idRefl
    | with_reducible apply Kept.step helloSend_kept
    | with_reducible apply Kept.step elapse_kept
    | with_reducible apply Kept.next
    | decide

theorem repeatLaneCtl_kept {p : Nat} {s : State} : Kept [.lnk, .srd, .out] s (repeatLaneCtl p s) := by
  unfold repeatLaneCtl
  try dsimp only
  repeat' first
    | with_reducible exact Kept.refl _
    | with_reducible exact Kept.idRefl
    | with_reducible apply Kept.step State.setLink_kept
    | with_reducible apply fun hf h => Kept.trans h (forEach_kept hf)
    | with_reducible apply Kept.step sendLaneCtlFrames_kept
    | with_reducible apply Kept.ite
    | decide
    | (intro _; intros; try dsimp only)

theorem execLaneCtlRepeat_kept {dt : Nat} {port : Port} {s : State} : KeptOut [.lnk, .srd, .tmb, .tly, .clk, .out] s (execLaneCtlRepeat dt port s) := by
  unfold execLaneCtlRepeat
  try dsimp only
  repeat' first
    | with_reducible exact Kept.refl _
    | with_reducible exact Kept.idRefl
    | with_reducible apply Kept.step elapse_kept
    | with_reducible apply Kept.step repeatLaneCtl_kept
    | with_reducible apply Kept.ite
    | with_reducible apply Kept.next
    | decide

theorem skewExpiry_kept {p : Nat} {s : State} : Kept [.lnk, .tly] s (skewExpiry p s) := by
  unfold skewExpiry
  try dsimp only
  repeat' first
    | with_reducible exact Kept.refl _
    | with_reducible exact Kept.idRefl
    | with_reducible apply Kept.step badFrame_kept
    | with_reducible apply Kept.ite
    | decide

theorem takeCredit_kept {p : Nat} {b : List Byte} {s : State} : Kept [.hst, .lnk, .srd, .svc, .fwd, .swc, .tmb, .lnd, .mil, .mem, .opt, .res, .tly, .nv, .ram, .out] s (takeCredit p b s) := by
  unfold takeCredit
  try dsimp only
  repeat' first
    | with_reducible exact Kept.refl _
    | with_reducible exact Kept.idRefl
    | with_reducible apply Kept.step portUp_kept
    | with_reducible apply Kept.step retrain_kept
    | with_reducible apply Kept.ite
    | decide

theorem takeOffAck_kept {p : Nat} {idx : Nat} {s : State} : Kept [.hst, .lnk, .srd, .svc, .opt, .out] s (takeOffAck p idx s) := by
  unfold takeOffAck
  try dsimp only
  repeat' first
    | with_reducible exact Kept.refl _
    | with_reducible exact Kept.idRefl
    | with_reducible apply Kept.step State.setLink_kept
    | with_reducible apply Kept.step startRecal_kept
    | with_reducible apply Kept.step settleUp_kept
    | with_reducible apply Kept.step flyLane_kept
    | with_reducible apply Kept.ite
    | decide

theorem execFrameSlot_kept {dt : Nat} {port : Port} {s : State} : KeptOut [.hst, .lnk, .srd, .tmb, .tly, .clk, .fresh, .out] s (execFrameSlot dt port s) := by
  unfold execFrameSlot
  try dsimp only
  repeat' first
    | with_reducible exact Kept.refl _
    | with_reducible exact Kept.idRefl
    | with_reducible apply Kept.step frameSlot_kept
    | with_reducible apply Kept.step elapse_kept
    | with_reducible apply Kept.next
    | decide

theorem retrainDue_kept {p : Nat} {s : State} : Kept [.hst, .lnk, .srd, .out] s (retrainDue p s) := by
  unfold retrainDue
  try dsimp only
  repeat' first
    | with_reducible exact Kept.refl _
    | with_reducible exact Kept.idRefl
    | with_reducible apply Kept.step startTraining_kept
    | with_reducible apply Kept.ite
    | decide

theorem execRetrainInterval_kept {dt : Nat} {port : Port} {s : State} : KeptOut [.hst, .lnk, .srd, .tmb, .tly, .clk, .out] s (execRetrainInterval dt port s) := by
  unfold execRetrainInterval
  try dsimp only
  repeat' first
    | with_reducible exact Kept.refl _
    | with_reducible exact Kept.idRefl
    | with_reducible apply Kept.step retrainDue_kept
    | with_reducible apply Kept.step elapse_kept
    | with_reducible apply Kept.next
    | decide

theorem execOffAck_kept {port : Port} {idx : BitVec 3} {s : State} : KeptOut [.hst, .lnk, .srd, .svc, .opt, .out] s (execOffAck port idx s) := by
  unfold execOffAck
  try dsimp only
  repeat' first
    | with_reducible exact Kept.refl _
    | with_reducible exact Kept.idRefl
    | with_reducible apply Kept.step takeOffAck_kept
    | with_reducible apply Kept.next
    | decide

theorem laneCtlTimeout_kept {p : Nat} {s : State} : Kept [.hst, .lnk, .srd, .svc, .fwd, .swc, .tmb, .lnd, .mil, .mem, .opt, .res, .tly, .nv, .ram, .out] s (laneCtlTimeout p s) := by
  unfold laneCtlTimeout
  try dsimp only
  repeat' first
    | with_reducible exact Kept.refl _
    | with_reducible exact Kept.idRefl
    | with_reducible apply Kept.step addPenalty_kept
    | with_reducible apply Kept.step retrain_kept
    | with_reducible apply Kept.ite
    | decide
    | (intro _; intros; try dsimp only)
    | dsimp only
    | split

theorem execLaneCtlTimeout_kept {dt : Nat} {port : Port} {s : State} : KeptOut [.hst, .lnk, .srd, .svc, .fwd, .swc, .tmb, .lnd, .mil, .mem, .opt, .res, .tly, .nv, .ram, .clk, .out] s (execLaneCtlTimeout dt port s) := by
  unfold execLaneCtlTimeout
  try dsimp only
  repeat' first
    | with_reducible exact Kept.refl _
    | with_reducible exact Kept.idRefl
    | with_reducible apply Kept.step laneCtlTimeout_kept
    | with_reducible apply Kept.step elapse_kept
    | with_reducible apply Kept.next
    | decide

theorem execLaneCtlOff_kept {port : Port} {idx : BitVec 3} {s : State} : KeptOut [.hst, .lnk, .srd, .svc, .fwd, .swc, .tmb, .lnd, .mil, .mem, .opt, .res, .tly, .nv, .ram, .out] s (execLaneCtlOff port idx s) := by
  unfold execLaneCtlOff
  try dsimp only
  repeat' first
    | with_reducible exact Kept.refl _
    | with_reducible exact Kept.idRefl
    | with_reducible apply Kept.step takeOff_kept
    | with_reducible apply Kept.next
    | decide

theorem setDisable_kept {p : Nat} {v : Bool} {s : State} : Kept [.hst, .lnk, .srd, .svc, .fwd, .swc, .tmb, .lnd, .mil, .mem, .opt, .res, .tly, .nv, .ram, .out] s (setDisable p v s) := by
  unfold setDisable
  try dsimp only
  repeat' first
    | with_reducible exact Kept.refl _
    | with_reducible exact Kept.idRefl
    | with_reducible apply Kept.step State.modLink_kept
    | with_reducible apply Kept.step portDown_kept
    | with_reducible apply Kept.step startTraining_kept
    | with_reducible apply Kept.ite
    | decide

theorem execLnkDisable_kept {p : HPort} {port : Port} {v : Bool} {s : State} : KeptOut [.hst, .lnk, .srd, .svc, .fwd, .swc, .tmb, .lnd, .mil, .mem, .opt, .res, .tly, .nv, .ram, .out] s (execLnkDisable p port v s) := by
  unfold execLnkDisable
  try dsimp only
  repeat' first
    | with_reducible exact Kept.refl _
    | with_reducible exact Kept.idRefl
    | with_reducible apply fun hl h0 h => Kept.trans h (hostWrite_kept hl h0)
    | with_reducible apply Kept.step setDisable_kept
    | with_reducible apply Kept.next
    | decide
    | (intro _; intros; try dsimp only)

theorem hostRetrain_kept {p : Nat} {s : State} : Kept [.hst, .lnk, .srd, .svc, .fwd, .swc, .tmb, .lnd, .mil, .mem, .opt, .res, .tly, .nv, .ram, .out] s (hostRetrain p s) := by
  unfold hostRetrain
  try dsimp only
  repeat' first
    | with_reducible exact Kept.refl _
    | with_reducible exact Kept.idRefl
    | with_reducible apply Kept.step startTraining_kept
    | with_reducible apply Kept.step portDown_kept
    | with_reducible apply Kept.ite
    | decide

theorem execLnkRetrain_kept {p : HPort} {port : Port} {s : State} : KeptOut [.hst, .lnk, .srd, .svc, .fwd, .swc, .tmb, .lnd, .mil, .mem, .opt, .res, .tly, .nv, .ram, .out] s (execLnkRetrain p port s) := by
  unfold execLnkRetrain
  try dsimp only
  repeat' first
    | with_reducible exact Kept.refl _
    | with_reducible exact Kept.idRefl
    | with_reducible apply fun hl h0 h => Kept.trans h (hostWrite_kept hl h0)
    | with_reducible apply Kept.step hostRetrain_kept
    | with_reducible apply Kept.next
    | decide
    | (intro _; intros; try dsimp only)

theorem enterState_kept {p : Nat} {st : LinkState} {s : State} : Kept [.hst, .lnk, .out] s (enterState p st s) := by
  unfold enterState
  try dsimp only
  repeat' first
    | with_reducible exact Kept.refl _
    | with_reducible exact Kept.idRefl
    | with_reducible apply Kept.step fire_kept
    | with_reducible apply Kept.step State.modLink_kept
    | decide

theorem takeHello_kept {p : Nat} {lane : Nat} {b : List Byte} {s : State} : Kept [.hst, .lnk, .srd, .svc, .fwd, .swc, .tmb, .lnd, .mil, .mem, .opt, .res, .tly, .nv, .ram, .out] s (takeHello p lane b s) := by
  unfold takeHello
  try dsimp only
  repeat' first
    | with_reducible exact Kept.refl _
    | with_reducible exact Kept.idRefl
    | with_reducible apply Kept.step State.setLink_kept
    | with_reducible apply Kept.step retrain_kept
    | with_reducible apply Kept.step enterState_kept
    | with_reducible apply Kept.step State.modLink_kept
    | with_reducible apply Kept.step sendTrain_kept
    | with_reducible apply Kept.ite
    | decide
    | (intro _; intros; try dsimp only)
    | dsimp only
    | split

theorem execHello_kept {port : Port} {lane : Fin 8} {b : List Byte} {s : State} : KeptOut [.hst, .lnk, .srd, .svc, .fwd, .swc, .tmb, .lnd, .mil, .mem, .opt, .res, .tly, .nv, .ram, .out] s (execHello port lane b s) := by
  unfold execHello
  try dsimp only
  repeat' first
    | with_reducible exact Kept.refl _
    | with_reducible exact Kept.idRefl
    | with_reducible apply Kept.step takeHello_kept
    | with_reducible apply Kept.next
    | decide

theorem takeOnAck_kept {p : Nat} {idx : Nat} {s : State} : Kept [.hst, .lnk, .srd, .opt, .out] s (takeOnAck p idx s) := by
  unfold takeOnAck
  try dsimp only
  repeat' first
    | with_reducible exact Kept.refl _
    | with_reducible exact Kept.idRefl
    | with_reducible apply Kept.step State.setLink_kept
    | with_reducible apply Kept.step State.modLane_kept
    | with_reducible apply Kept.step settleFlys_kept
    | with_reducible apply Kept.step settleUp_kept
    | with_reducible apply Kept.ite
    | decide

theorem execOnAck_kept {port : Port} {idx : BitVec 3} {s : State} : KeptOut [.hst, .lnk, .srd, .opt, .out] s (execOnAck port idx s) := by
  unfold execOnAck
  try dsimp only
  repeat' first
    | with_reducible exact Kept.refl _
    | with_reducible exact Kept.idRefl
    | with_reducible apply Kept.step takeOnAck_kept
    | with_reducible apply Kept.next
    | decide

theorem takeConfig_kept {p : Nat} {b : List Byte} {s : State} : Kept [.hst, .lnk, .srd, .svc, .fwd, .swc, .tmb, .lnd, .mil, .mem, .opt, .res, .tly, .nv, .ram, .out] s (takeConfig p b s) := by
  unfold takeConfig
  try dsimp only
  repeat' first
    | with_reducible exact Kept.refl _
    | with_reducible exact Kept.idRefl
    | with_reducible apply Kept.step enterState_kept
    | with_reducible apply Kept.step sendTrain_kept
    | with_reducible apply Kept.step retrain_kept
    | with_reducible apply Kept.ite
    | decide

theorem execConfig_kept {port : Port} {b : List Byte} {s : State} : KeptOut [.hst, .lnk, .srd, .svc, .fwd, .swc, .tmb, .lnd, .mil, .mem, .opt, .res, .tly, .nv, .ram, .out] s (execConfig port b s) := by
  unfold execConfig
  try dsimp only
  repeat' first
    | with_reducible exact Kept.refl _
    | with_reducible exact Kept.idRefl
    | with_reducible apply Kept.step takeConfig_kept
    | with_reducible apply Kept.next
    | decide

theorem execLaneCtlOn_kept {port : Port} {idx : BitVec 3} {s : State} : KeptOut [.hst, .lnk, .srd, .opt, .out] s (execLaneCtlOn port idx s) := by
  unfold execLaneCtlOn
  try dsimp only
  repeat' first
    | with_reducible exact Kept.refl _
    | with_reducible exact Kept.idRefl
    | with_reducible apply Kept.step takeOn_kept
    | with_reducible apply Kept.next
    | decide

theorem execSkewWindowExpiry_kept {dt : Nat} {port : Port} {s : State} : KeptOut [.lnk, .tmb, .tly, .clk, .out] s (execSkewWindowExpiry dt port s) := by
  unfold execSkewWindowExpiry
  try dsimp only
  repeat' first
    | with_reducible exact Kept.refl _
    | with_reducible exact Kept.idRefl
    | with_reducible apply Kept.step skewExpiry_kept
    | with_reducible apply Kept.step elapse_kept
    | with_reducible apply Kept.next
    | decide

theorem replayTimeout_kept {p : Nat} {s : State} : Kept [.hst, .lnk, .srd, .svc, .fwd, .swc, .tmb, .lnd, .mil, .mem, .opt, .res, .tly, .nv, .ram, .out] s (replayTimeout p s) := by
  unfold replayTimeout
  try dsimp only
  repeat' first
    | with_reducible exact Kept.refl _
    | with_reducible exact Kept.idRefl
    | with_reducible apply Kept.step startReplay_kept
    | with_reducible apply Kept.ite
    | decide

theorem execReplayTimeout_kept {dt : Nat} {port : Port} {s : State} : KeptOut [.hst, .lnk, .srd, .svc, .fwd, .swc, .tmb, .lnd, .mil, .mem, .opt, .res, .tly, .nv, .ram, .clk, .out] s (execReplayTimeout dt port s) := by
  unfold execReplayTimeout
  try dsimp only
  repeat' first
    | with_reducible exact Kept.refl _
    | with_reducible exact Kept.idRefl
    | with_reducible apply Kept.step replayTimeout_kept
    | with_reducible apply Kept.step elapse_kept
    | with_reducible apply Kept.next
    | decide

theorem execCreditInit_kept {port : Port} {b : List Byte} {s : State} : KeptOut [.hst, .lnk, .srd, .svc, .fwd, .swc, .tmb, .lnd, .mil, .mem, .opt, .res, .tly, .nv, .ram, .out] s (execCreditInit port b s) := by
  unfold execCreditInit
  try dsimp only
  repeat' first
    | with_reducible exact Kept.refl _
    | with_reducible exact Kept.idRefl
    | with_reducible apply Kept.step takeCredit_kept
    | with_reducible apply Kept.next
    | decide

theorem execAckProgressTimeout_kept {dt : Nat} {port : Port} {s : State} : KeptOut [.hst, .lnk, .srd, .svc, .fwd, .swc, .tmb, .lnd, .mil, .mem, .opt, .res, .tly, .nv, .ram, .clk, .out] s (execAckProgressTimeout dt port s) := by
  unfold execAckProgressTimeout
  try dsimp only
  repeat' first
    | with_reducible exact Kept.refl _
    | with_reducible exact Kept.idRefl
    | with_reducible apply Kept.step ackTimeout_kept
    | with_reducible apply Kept.step elapse_kept
    | with_reducible apply Kept.next
    | decide

theorem execTrainingStateTimeout_kept {dt : Nat} {port : Port} {s : State} : KeptOut [.hst, .lnk, .srd, .svc, .fwd, .swc, .tmb, .lnd, .mil, .mem, .opt, .res, .tly, .nv, .ram, .clk, .out] s (execTrainingStateTimeout dt port s) := by
  unfold execTrainingStateTimeout
  try dsimp only
  repeat' first
    | with_reducible exact Kept.refl _
    | with_reducible exact Kept.idRefl
    | with_reducible apply Kept.step trainingTimeout_kept
    | with_reducible apply Kept.step elapse_kept
    | with_reducible apply Kept.next
    | decide

theorem pruneUsed_kept {s : State} : Kept [.tmb] s (pruneUsed s) := by
  unfold pruneUsed
  try dsimp only
  repeat' first
    | with_reducible exact Kept.refl _
    | with_reducible exact Kept.idRefl
    | (fail_if_no_progress ((with_reducible apply Kept.put_tmb); decide; with_reducible exact rfl))

theorem graceEnd_kept {s : State} : Kept [.tmb, .timetable] s (graceEnd s) := by
  unfold graceEnd
  try dsimp only
  repeat' first
    | with_reducible exact Kept.refl _
    | with_reducible exact Kept.idRefl
    | with_reducible apply Kept.step pruneUsed_kept
    | with_reducible apply Kept.ite
    | (fail_if_no_progress ((with_reducible apply Kept.put_tmb); decide; with_reducible exact rfl))
    | (fail_if_no_progress ((with_reducible apply Kept.put_tmb_timetable); decide; decide))
    | decide
    | (intro _; intros; try dsimp only)
    | dsimp only
    | split

theorem execActivationGraceEnd_kept {dt : Nat} {s : State} : KeptOut [.tmb, .tly, .clk, .out, .timetable] s (execActivationGraceEnd dt s) := by
  unfold execActivationGraceEnd
  try dsimp only
  repeat' first
    | with_reducible exact Kept.refl _
    | with_reducible exact Kept.idRefl
    | with_reducible apply Kept.step graceEnd_kept
    | with_reducible apply Kept.step elapse_kept
    | with_reducible apply Kept.next
    | decide

theorem useSync_kept {lane : Fin 2} {b : List Byte} {s : State} : Kept [.glb, .plt, .hst, .lnk, .srd, .svc, .fwd, .swc, .tmb, .lnd, .mil, .mem, .opt, .res, .tly, .nv, .ram, .out, .lease] s (useSync lane b s) := by
  unfold useSync
  try dsimp only
  repeat' first
    | with_reducible exact Kept.refl _
    | with_reducible exact Kept.idRefl
    | with_reducible apply Kept.step sample_kept
    | with_reducible apply Kept.step checkLease_kept
    | with_reducible apply Kept.step stepTime_kept
    | with_reducible apply Kept.step slewTime_kept
    | with_reducible apply Kept.ite
    | (fail_if_no_progress ((with_reducible apply Kept.put_tmb); decide; with_reducible exact rfl))
    | decide

theorem takeSync_kept {lane : Fin 2} {b : List Byte} {s : State} : Kept [.glb, .plt, .hst, .lnk, .srd, .svc, .fwd, .swc, .tmb, .lnd, .mil, .mem, .opt, .res, .tly, .nv, .ram, .out, .lease] s (takeSync lane b s) := by
  unfold takeSync
  try dsimp only
  repeat' first
    | with_reducible exact Kept.refl _
    | with_reducible exact Kept.idRefl
    | with_reducible apply Kept.step State.setRing_kept
    | with_reducible apply Kept.step useSync_kept
    | with_reducible apply Kept.step settleBlk_kept
    | with_reducible apply Kept.step sendMarked_kept
    | with_reducible apply Kept.ite
    | decide

theorem takeLeave_kept {lane : Fin 2} {b : List Byte} {s : State} : Kept [.svc, .tmb, .out] s (takeLeave lane b s) := by
  unfold takeLeave
  try dsimp only
  repeat' first
    | with_reducible exact Kept.refl _
    | with_reducible exact Kept.idRefl
    | with_reducible apply Kept.step forwardRing_kept
    | with_reducible apply Kept.step startElection_kept
    | with_reducible apply Kept.ite
    | (fail_if_no_progress ((with_reducible apply Kept.put_tmb); decide; with_reducible exact rfl))
    | decide

theorem takeDelayResp_kept {lane : Fin 2} {b : List Byte} {s : State} : Kept [.tmb] s (takeDelayResp lane b s) := by
  unfold takeDelayResp
  try dsimp only
  repeat' first
    | with_reducible exact Kept.refl _
    | with_reducible exact Kept.idRefl
    | with_reducible apply Kept.step State.setRing_kept
    | with_reducible apply Kept.ite
    | decide

theorem takeTod_kept {lane : Nat} {msg : List Byte} {s : State} : Kept [.tmb] s (takeTod lane msg s) := by
  unfold takeTod
  try dsimp only
  repeat' first
    | with_reducible exact Kept.refl _
    | with_reducible exact Kept.idRefl
    | with_reducible apply Kept.ite
    | (fail_if_no_progress ((with_reducible apply Kept.put_tmb); decide; with_reducible exact rfl))

theorem writeMap_kept {s : State} : Kept [.hst, .tmb, .ram, .out] s (writeMap s) := by
  unfold writeMap
  try dsimp only
  repeat' first
    | with_reducible exact Kept.refl _
    | with_reducible exact Kept.idRefl
    | with_reducible apply Kept.step raiseTmb_kept
    | with_reducible apply fun hf h => Kept.trans h (forEach_kept hf)
    | with_reducible apply Kept.step wrMem_kept
    | with_reducible apply Kept.ite
    | (fail_if_no_progress ((with_reducible apply Kept.put_tmb); decide; with_reducible exact rfl))
    | decide
    | (intro _; intros; try dsimp only)

theorem closeMap_kept {s : State} : Kept [.hst, .tmb, .ram, .out] s (closeMap s) := by
  unfold closeMap
  try dsimp only
  repeat' first
    | with_reducible exact Kept.refl _
    | with_reducible exact Kept.idRefl
    | with_reducible apply Kept.step writeMap_kept
    | with_reducible apply Kept.ite
    | (fail_if_no_progress ((with_reducible apply Kept.put_tmb); decide; with_reducible exact rfl))
    | decide

theorem execMapIntervalClose_kept {dt : Nat} {s : State} : KeptOut [.hst, .tmb, .tly, .ram, .clk, .out] s (execMapIntervalClose dt s) := by
  unfold execMapIntervalClose
  try dsimp only
  repeat' first
    | with_reducible exact Kept.refl _
    | with_reducible exact Kept.idRefl
    | with_reducible apply Kept.step closeMap_kept
    | with_reducible apply Kept.step elapse_kept
    | with_reducible apply Kept.next
    | decide

theorem tmbStatus_kept {st : Nat} {s : State} : Kept [.tmb] s (tmbStatus st s) := by
  unfold tmbStatus
  try dsimp only
  repeat' first
    | with_reducible exact Kept.refl _
    | with_reducible exact Kept.idRefl
    | (fail_if_no_progress ((with_reducible apply Kept.put_tmb); decide; with_reducible exact rfl))

theorem tmbCommand_kept {p : HPort} {f : State → State} {s : State} {L : List Blk} (hL : [.hst, .tmb, .tly] ⊆ L) (hf : ∀ t, Kept L t (f t)) : Kept L s (tmbCommand p f s) := by
  unfold tmbCommand
  try dsimp only
  repeat' first
    | with_reducible exact Kept.refl _
    | with_reducible exact Kept.idRefl
    | with_reducible apply fun h => Kept.trans h (hf _)
    | with_reducible apply fun hl h0 h => Kept.trans h (hostWrite_kept hl h0)
    | with_reducible apply Kept.step tmbStatus_kept
    | with_reducible apply Kept.ite
    | (fail_if_no_progress ((with_reducible apply Kept.put_tmb); exact hL (by decide); with_reducible exact rfl))
    | exact List.Subset.trans (by decide) hL
    | exact hL (by decide)
    | exact hL
    | (intro _; intros; try dsimp only)

theorem electionWin_kept {s : State} : Kept [.hst, .svc, .tmb, .fresh, .out] s (electionWin s) := by
  unfold electionWin
  try dsimp only
  repeat' first
    | with_reducible exact Kept.refl _
    | with_reducible exact Kept.idRefl
    | with_reducible apply Kept.step settleBlk_kept
    | with_reducible apply Kept.step sendAnnounce_kept
    | with_reducible apply Kept.step raiseTmb_kept
    | with_reducible apply Kept.ite
    | (fail_if_no_progress ((with_reducible apply Kept.put_tmb); decide; with_reducible exact rfl))
    | decide
    | (intro _; intros; try dsimp only)
    | dsimp only
    | split

theorem disarmTt_kept {n : Nat} {s : State} : Kept [.tmb, .timetable] s (disarmTt n s) := by
  unfold disarmTt
  try dsimp only
  repeat' first
    | with_reducible exact Kept.refl _
    | with_reducible exact Kept.idRefl
    | with_reducible apply Kept.step tmbStatus_kept
    | with_reducible apply Kept.ite
    | (fail_if_no_progress ((with_reducible apply Kept.put_tmb); decide; with_reducible exact rfl))
    | (fail_if_no_progress ((with_reducible apply Kept.put_tmb_timetable); decide; decide))
    | decide
    | (intro _; intros; try dsimp only)
    | dsimp only
    | split

theorem probeTimeout_kept {s : State} : Kept [.tmb] s (probeTimeout s) := by
  unfold probeTimeout
  try dsimp only
  repeat' first
    | with_reducible exact Kept.refl _
    | with_reducible exact Kept.idRefl
    | with_reducible apply Kept.step settleBlk_kept
    | with_reducible apply Kept.ite
    | (fail_if_no_progress ((with_reducible apply Kept.put_tmb); decide; with_reducible exact rfl))
    | decide
    | (intro _; intros; try dsimp only)
    | dsimp only
    | split

theorem execProbeTimeout_kept {dt : Nat} {s : State} : KeptOut [.tmb, .tly, .clk, .out] s (execProbeTimeout dt s) := by
  unfold execProbeTimeout
  try dsimp only
  repeat' first
    | with_reducible exact Kept.refl _
    | with_reducible exact Kept.idRefl
    | with_reducible apply Kept.step probeTimeout_kept
    | with_reducible apply Kept.step elapse_kept
    | with_reducible apply Kept.next
    | decide

theorem todOut_kept {s : State} : Kept [.svc, .tmb, .out] s (todOut s) := by
  unfold todOut
  try dsimp only
  repeat' first
    | with_reducible exact Kept.refl _
    | with_reducible exact Kept.idRefl
    | with_reducible apply Kept.step sendK281_kept
    | with_reducible apply Kept.step sendSvc_kept
    | with_reducible apply Kept.ite
    | (fail_if_no_progress ((with_reducible apply Kept.put_tmb); decide; with_reducible exact rfl))
    | decide

theorem execTodOut_kept {dt : Nat} {s : State} : KeptOut [.svc, .tmb, .tly, .clk, .out] s (execTodOut dt s) := by
  unfold execTodOut
  try dsimp only
  repeat' first
    | with_reducible exact Kept.refl _
    | with_reducible exact Kept.idRefl
    | with_reducible apply Kept.step todOut_kept
    | with_reducible apply Kept.step elapse_kept
    | with_reducible apply Kept.next
    | decide

theorem takeProbe_kept {lane : Fin 2} {b : List Byte} {s : State} : Kept [.svc, .tmb, .out] s (takeProbe lane b s) := by
  unfold takeProbe
  try dsimp only
  repeat' first
    | with_reducible exact Kept.refl _
    | with_reducible exact Kept.idRefl
    | with_reducible apply Kept.step settleBlk_kept
    | with_reducible apply Kept.step sendRing_kept
    | with_reducible apply Kept.ite
    | (fail_if_no_progress ((with_reducible apply Kept.put_tmb); decide; with_reducible exact rfl))
    | decide

theorem execProbe_kept {lane : Fin 2} {codes : List Code} {s : State} : KeptOut [.svc, .tmb, .tly, .out] s (execProbe lane codes s) := by
  unfold execProbe
  try dsimp only
  repeat' first
    | with_reducible exact Kept.refl _
    | with_reducible exact Kept.idRefl
    | with_reducible apply fun hl h0 h => Kept.trans h (onRing_kept hl h0)
    | with_reducible apply fun hl h0 h => Kept.trans h (blockMsg_kept hl h0)
    | with_reducible apply Kept.step takeProbe_kept
    | with_reducible apply Kept.next
    | decide
    | (intro _; intros; try dsimp only)

theorem armTt_kept {n : Nat} {s : State} : Kept [.tmb, .ram, .timetable] s (armTt n s) := by
  unfold armTt
  try dsimp only
  repeat' first
    | with_reducible exact Kept.refl _
    | with_reducible exact Kept.idRefl
    | with_reducible apply Kept.step tmbStatus_kept
    | with_reducible apply Kept.step wrMem_kept
    | with_reducible apply Kept.ite
    | (fail_if_no_progress ((with_reducible apply Kept.put_tmb); decide; with_reducible exact rfl))
    | (fail_if_no_progress ((with_reducible apply Kept.put_tmb_timetable); decide; decide))
    | decide
    | (intro _; intros; try dsimp only)
    | dsimp only
    | split

theorem ppsMissing_kept {s : State} : Kept [.hst, .tmb, .out] s (ppsMissing s) := by
  unfold ppsMissing
  try dsimp only
  repeat' first
    | with_reducible exact Kept.refl _
    | with_reducible exact Kept.idRefl
    | with_reducible apply Kept.step enterHoldover_kept
    | with_reducible apply Kept.ite
    | decide
    | (intro _; intros; try dsimp only)
    | dsimp only
    | split

theorem answerDelay_kept {lane : Fin 2} {b : List Byte} {s : State} : Kept [.svc, .out] s (answerDelay lane b s) := by
  unfold answerDelay
  try dsimp only
  repeat' first
    | with_reducible exact Kept.refl _
    | with_reducible exact Kept.idRefl
    | with_reducible apply Kept.step sendMarked_kept
    | decide

theorem execDelayReq_kept {lane : Fin 2} {codes : List Code} {s : State} : KeptOut [.svc, .tmb, .tly, .out] s (execDelayReq lane codes s) := by
  unfold execDelayReq
  try dsimp only
  repeat' first
    | with_reducible exact Kept.refl _
    | with_reducible exact Kept.idRefl
    | with_reducible apply fun hl h0 h => Kept.trans h (onRing_kept hl h0)
    | with_reducible apply fun hl h0 h => Kept.trans h (blockMsg_kept hl h0)
    | with_reducible apply Kept.step answerDelay_kept
    | with_reducible apply Kept.next
    | decide
    | (intro _; intros; try dsimp only)

theorem execElectionWin_kept {dt : Nat} {s : State} : KeptOut [.hst, .svc, .tmb, .tly, .clk, .fresh, .out] s (execElectionWin dt s) := by
  unfold execElectionWin
  try dsimp only
  repeat' first
    | with_reducible exact Kept.refl _
    | with_reducible exact Kept.idRefl
    | with_reducible apply Kept.step electionWin_kept
    | with_reducible apply Kept.step elapse_kept
    | with_reducible apply Kept.next
    | decide

theorem execLeave_kept {lane : Fin 2} {codes : List Code} {s : State} : KeptOut [.svc, .tmb, .tly, .out] s (execLeave lane codes s) := by
  unfold execLeave
  try dsimp only
  repeat' first
    | with_reducible exact Kept.refl _
    | with_reducible exact Kept.idRefl
    | with_reducible apply fun hl h0 h => Kept.trans h (onRing_kept hl h0)
    | with_reducible apply fun hl h0 h => Kept.trans h (blockMsg_kept hl h0)
    | with_reducible apply Kept.step takeLeave_kept
    | with_reducible apply Kept.next
    | decide
    | (intro _; intros; try dsimp only)

theorem execStepAdmitRestore_kept {dt : Nat} {s : State} : KeptOut [.hst, .tmb, .tly, .clk, .out] s (execStepAdmitRestore dt s) := by
  unfold execStepAdmitRestore
  try dsimp only
  repeat' first
    | with_reducible exact Kept.refl _
    | with_reducible exact Kept.idRefl
    | with_reducible apply Kept.step settleAdmit_kept
    | with_reducible apply Kept.step elapse_kept
    | with_reducible apply Kept.next
    | decide

theorem syncSend_kept {s : State} : Kept [.hst, .svc, .tmb, .out] s (syncSend s) := by
  unfold syncSend
  try dsimp only
  repeat' first
    | with_reducible exact Kept.refl _
    | with_reducible exact Kept.idRefl
    | with_reducible apply Kept.step sample_kept
    | with_reducible apply Kept.step sendMarked_kept
    | with_reducible apply Kept.ite
    | decide

theorem execSyncSend_kept {dt : Nat} {s : State} : KeptOut [.hst, .svc, .tmb, .tly, .clk, .out] s (execSyncSend dt s) := by
  unfold execSyncSend
  try dsimp only
  repeat' first
    | with_reducible exact Kept.refl _
    | with_reducible exact Kept.idRefl
    | with_reducible apply Kept.step syncSend_kept
    | with_reducible apply Kept.step elapse_kept
    | with_reducible apply Kept.next
    | decide

theorem probeSend_kept {s : State} : Kept [.svc, .tmb, .out] s (probeSend s) := by
  unfold probeSend
  try dsimp only
  repeat' first
    | with_reducible exact Kept.refl _
    | with_reducible exact Kept.idRefl
    | with_reducible apply Kept.step sendRing_kept
    | with_reducible apply Kept.ite
    | (fail_if_no_progress ((with_reducible apply Kept.put_tmb); decide; with_reducible exact rfl))
    | decide

theorem execRef10Loss_kept {s : State} : KeptOut [.hst, .tmb, .out] s (execRef10Loss s) := by
  unfold execRef10Loss
  try dsimp only
  repeat' first
    | with_reducible exact Kept.refl _
    | with_reducible exact Kept.idRefl
    | with_reducible apply Kept.step enterHoldover_kept
    | with_reducible apply Kept.ite
    | with_reducible apply Kept.next
    | decide

theorem execAnnounceSend_kept {dt : Nat} {s : State} : KeptOut [.svc, .tmb, .tly, .clk, .fresh, .out] s (execAnnounceSend dt s) := by
  unfold execAnnounceSend
  try dsimp only
  repeat' first
    | with_reducible exact Kept.refl _
    | with_reducible exact Kept.idRefl
    | with_reducible apply Kept.step elapse_kept
    | with_reducible apply Kept.step sendAnnounce_kept
    | with_reducible apply Kept.ite
    | with_reducible apply Kept.next
    | decide

theorem ppsEdge_kept {s : State} : Kept [.glb, .plt, .hst, .lnk, .srd, .svc, .fwd, .swc, .tmb, .lnd, .mil, .mem, .opt, .res, .tly, .nv, .ram, .out, .lease] s (ppsEdge s) := by
  unfold ppsEdge
  try dsimp only
  repeat' first
    | with_reducible exact Kept.refl _
    | with_reducible exact Kept.idRefl
    | with_reducible apply Kept.step checkLease_kept
    | with_reducible apply Kept.step settleAdmit_kept
    | with_reducible apply Kept.step shiftTime_kept
    | with_reducible apply Kept.step enterHoldover_kept
    | with_reducible apply Kept.step sample_kept
    | with_reducible apply Kept.step slewTime_kept
    | with_reducible apply Kept.ite
    | (fail_if_no_progress ((with_reducible apply Kept.put_tmb); decide; with_reducible exact rfl))
    | decide
    | (intro _; intros; try dsimp only)
    | dsimp only
    | split

theorem loadTt_kept {s : State} : Kept [.tmb, .timetable] s (loadTt s) := by
  unfold loadTt
  try dsimp only
  repeat' first
    | with_reducible exact Kept.refl _
    | with_reducible exact Kept.idRefl
    | with_reducible apply Kept.step tmbStatus_kept
    | with_reducible apply Kept.ite
    | (fail_if_no_progress ((with_reducible apply Kept.put_tmb); decide; with_reducible exact rfl))
    | (fail_if_no_progress ((with_reducible apply Kept.put_tmb_timetable); decide; decide))
    | decide
    | (intro _; intros; try dsimp only)
    | dsimp only
    | split

theorem execTmbLoad_kept {p : HPort} {s : State} : KeptOut [.hst, .tmb, .tly, .timetable] s (execTmbLoad p s) := by
  unfold execTmbLoad
  try dsimp only
  repeat' first
    | with_reducible exact Kept.refl _
    | with_reducible exact Kept.idRefl
    | with_reducible apply fun hl h0 h => Kept.trans h (tmbCommand_kept hl h0)
    | with_reducible apply Kept.step loadTt_kept
    | with_reducible apply Kept.next
    | decide
    | (intro _; intros; try dsimp only)

theorem delayReqSend_kept {lane : Fin 2} {s : State} : Kept [.svc, .tmb, .out] s (delayReqSend lane s) := by
  unfold delayReqSend
  try dsimp only
  repeat' first
    | with_reducible exact Kept.refl _
    | with_reducible exact Kept.idRefl
    | with_reducible apply Kept.step sendMarked_kept
    | with_reducible apply Kept.step State.setRing_kept
    | with_reducible apply Kept.ite
    | decide

theorem takeAnnounce_kept {lane : Fin 2} {b : List Byte} {s : State} : Kept [.hst, .svc, .tmb, .out] s (takeAnnounce lane b s) := by
  unfold takeAnnounce
  try dsimp only
  repeat' first
    | with_reducible exact Kept.refl _
    | with_reducible exact Kept.idRefl
    | with_reducible apply Kept.step forwardRing_kept
    | with_reducible apply Kept.step settleBlk_kept
    | with_reducible apply Kept.step raiseTmb_kept
    | with_reducible apply Kept.ite
    | (fail_if_no_progress ((with_reducible apply Kept.put_tmb); decide; with_reducible exact rfl))
    | decide

theorem execAnnounce_kept {lane : Fin 2} {codes : List Code} {s : State} : KeptOut [.hst, .svc, .tmb, .tly, .out] s (execAnnounce lane codes s) := by
  unfold execAnnounce
  try dsimp only
  repeat' first
    | with_reducible exact Kept.refl _
    | with_reducible exact Kept.idRefl
    | with_reducible apply fun hl h0 h => Kept.trans h (onRing_kept hl h0)
    | with_reducible apply fun hl h0 h => Kept.trans h (blockMsg_kept hl h0)
    | with_reducible apply Kept.step takeAnnounce_kept
    | with_reducible apply Kept.next
    | decide
    | (intro _; intros; try dsimp only)

theorem execTod_kept {lane : Fin 80} {codes : List Code} {s : State} : KeptOut [.svc, .tmb, .tly] s (execTod lane codes s) := by
  unfold execTod
  try dsimp only
  repeat' first
    | with_reducible exact Kept.refl _
    | with_reducible exact Kept.idRefl
    | with_reducible apply fun hl h0 h => Kept.trans h (onMessage_kept hl h0)
    | with_reducible apply Kept.step takeTod_kept
    | with_reducible apply Kept.next
    | decide
    | (intro _; intros; try dsimp only)

theorem takeElect_kept {lane : Fin 2} {b : List Byte} {s : State} : Kept [.svc, .tmb, .out] s (takeElect lane b s) := by
  unfold takeElect
  try dsimp only
  repeat' first
    | with_reducible exact Kept.refl _
    | with_reducible exact Kept.idRefl
    | with_reducible apply Kept.step forwardRing_kept
    | with_reducible apply Kept.ite
    | (fail_if_no_progress ((with_reducible apply Kept.put_tmb); decide; with_reducible exact rfl))
    | decide

theorem execElect_kept {lane : Fin 2} {codes : List Code} {s : State} : KeptOut [.svc, .tmb, .tly, .out] s (execElect lane codes s) := by
  unfold execElect
  try dsimp only
  repeat' first
    | with_reducible exact Kept.refl _
    | with_reducible exact Kept.idRefl
    | with_reducible apply fun hl h0 h => Kept.trans h (onRing_kept hl h0)
    | with_reducible apply fun hl h0 h => Kept.trans h (blockMsg_kept hl h0)
    | with_reducible apply Kept.step takeElect_kept
    | with_reducible apply Kept.next
    | decide
    | (intro _; intros; try dsimp only)

theorem execSync_kept {lane : Fin 2} {codes : List Code} {s : State} : KeptOut [.glb, .plt, .hst, .lnk, .srd, .svc, .fwd, .swc, .tmb, .lnd, .mil, .mem, .opt, .res, .tly, .nv, .ram, .out, .lease] s (execSync lane codes s) := by
  unfold execSync
  try dsimp only
  repeat' first
    | with_reducible exact Kept.refl _
    | with_reducible exact Kept.idRefl
    | with_reducible apply fun hl h0 h => Kept.trans h (onRing_kept hl h0)
    | with_reducible apply fun hl h0 h => Kept.trans h (blockMsg_kept hl h0)
    | with_reducible apply Kept.step takeSync_kept
    | with_reducible apply Kept.next
    | decide
    | (intro _; intros; try dsimp only)

theorem execDisarm_kept {p : HPort} {sel : BitVec 4} {s : State} : KeptOut [.hst, .tmb, .tly, .timetable] s (execDisarm p sel s) := by
  unfold execDisarm
  try dsimp only
  repeat' first
    | with_reducible exact Kept.refl _
    | with_reducible exact Kept.idRefl
    | with_reducible apply fun hl h0 h => Kept.trans h (tmbCommand_kept hl h0)
    | with_reducible apply Kept.step disarmTt_kept
    | with_reducible apply Kept.next
    | decide
    | (intro _; intros; try dsimp only)

theorem execPpsMissing_kept {dt : Nat} {s : State} : KeptOut [.hst, .tmb, .tly, .clk, .out] s (execPpsMissing dt s) := by
  unfold execPpsMissing
  try dsimp only
  repeat' first
    | with_reducible exact Kept.refl _
    | with_reducible exact Kept.idRefl
    | with_reducible apply Kept.step ppsMissing_kept
    | with_reducible apply Kept.step elapse_kept
    | with_reducible apply Kept.next
    | decide

theorem execPpsEdge_kept {dt : Nat} {s : State} : KeptOut [.glb, .plt, .hst, .lnk, .srd, .svc, .fwd, .swc, .tmb, .lnd, .mil, .mem, .opt, .res, .tly, .nv, .ram, .clk, .out, .lease] s (execPpsEdge dt s) := by
  unfold execPpsEdge
  try dsimp only
  repeat' first
    | with_reducible exact Kept.refl _
    | with_reducible exact Kept.idRefl
    | with_reducible apply Kept.step ppsEdge_kept
    | with_reducible apply Kept.step elapse_kept
    | with_reducible apply Kept.next
    | decide

theorem execDelayResp_kept {lane : Fin 2} {codes : List Code} {s : State} : KeptOut [.svc, .tmb, .tly] s (execDelayResp lane codes s) := by
  unfold execDelayResp
  try dsimp only
  repeat' first
    | with_reducible exact Kept.refl _
    | with_reducible exact Kept.idRefl
    | with_reducible apply fun hl h0 h => Kept.trans h (onRing_kept hl h0)
    | with_reducible apply fun hl h0 h => Kept.trans h (blockMsg_kept hl h0)
    | with_reducible apply Kept.step takeDelayResp_kept
    | with_reducible apply Kept.next
    | decide
    | (intro _; intros; try dsimp only)

theorem execSyncLossReelect_kept {dt : Nat} {s : State} : KeptOut [.tmb, .tly, .clk, .out] s (execSyncLossReelect dt s) := by
  unfold execSyncLossReelect
  try dsimp only
  repeat' first
    | with_reducible exact Kept.refl _
    | with_reducible exact Kept.idRefl
    | with_reducible apply Kept.step elapse_kept
    | with_reducible apply Kept.step startElection_kept
    | with_reducible apply Kept.ite
    | with_reducible apply Kept.next
    | decide

theorem execDelayReqSend_kept {dt : Nat} {lane : Fin 2} {s : State} : KeptOut [.svc, .tmb, .tly, .clk, .out] s (execDelayReqSend dt lane s) := by
  unfold execDelayReqSend
  try dsimp only
  repeat' first
    | with_reducible exact Kept.refl _
    | with_reducible exact Kept.idRefl
    | with_reducible apply Kept.step delayReqSend_kept
    | with_reducible apply Kept.step elapse_kept
    | with_reducible apply Kept.next
    | decide

theorem execElectSend_kept {dt : Nat} {s : State} : KeptOut [.svc, .tmb, .tly, .clk, .out] s (execElectSend dt s) := by
  unfold execElectSend
  try dsimp only
  repeat' first
    | with_reducible exact Kept.refl _
    | with_reducible exact Kept.idRefl
    | with_reducible apply Kept.step elapse_kept
    | with_reducible apply Kept.step sendBoth_kept
    | with_reducible apply Kept.ite
    | with_reducible apply Kept.next
    | decide

theorem execProbeSend_kept {dt : Nat} {s : State} : KeptOut [.svc, .tmb, .tly, .clk, .out] s (execProbeSend dt s) := by
  unfold execProbeSend
  try dsimp only
  repeat' first
    | with_reducible exact Kept.refl _
    | with_reducible exact Kept.idRefl
    | with_reducible apply Kept.step probeSend_kept
    | with_reducible apply Kept.step elapse_kept
    | with_reducible apply Kept.next
    | decide

theorem execHoldoverLimit_kept {dt : Nat} {s : State} : KeptOut [.hst, .tmb, .tly, .clk, .out] s (execHoldoverLimit dt s) := by
  unfold execHoldoverLimit
  try dsimp only
  repeat' first
    | with_reducible exact Kept.refl _
    | with_reducible exact Kept.idRefl
    | with_reducible apply Kept.step settleAdmit_kept
    | with_reducible apply Kept.step elapse_kept
    | with_reducible apply Kept.next
    | decide

theorem execSyncLossHoldover_kept {dt : Nat} {s : State} : KeptOut [.hst, .tmb, .tly, .clk, .out] s (execSyncLossHoldover dt s) := by
  unfold execSyncLossHoldover
  try dsimp only
  repeat' first
    | with_reducible exact Kept.refl _
    | with_reducible exact Kept.idRefl
    | with_reducible apply Kept.step elapse_kept
    | with_reducible apply Kept.step settleBlk_kept
    | with_reducible apply Kept.step enterHoldover_kept
    | with_reducible apply Kept.ite
    | with_reducible apply Kept.next
    | decide

theorem activation_kept {s : State} : Kept [.hst, .tmb, .out, .timetable] s (activation s) := by
  unfold activation
  try dsimp only
  repeat' first
    | with_reducible exact Kept.refl _
    | with_reducible exact Kept.idRefl
    | with_reducible apply Kept.step settleAdmit_kept
    | with_reducible apply Kept.step raiseTmb_kept
    | with_reducible apply Kept.step pruneUsed_kept
    | with_reducible apply Kept.ite
    | (fail_if_no_progress ((with_reducible apply Kept.put_tmb); decide; with_reducible exact rfl))
    | (fail_if_no_progress ((with_reducible apply Kept.put_tmb_timetable); decide; decide))
    | decide
    | (intro _; intros; try dsimp only)
    | dsimp only
    | split

theorem execTimetableActivation_kept {dt : Nat} {s : State} : KeptOut [.hst, .tmb, .tly, .clk, .out, .timetable] s (execTimetableActivation dt s) := by
  unfold execTimetableActivation
  try dsimp only
  repeat' first
    | with_reducible exact Kept.refl _
    | with_reducible exact Kept.idRefl
    | with_reducible apply Kept.step activation_kept
    | with_reducible apply Kept.step elapse_kept
    | with_reducible apply Kept.next
    | decide

theorem activateTt_kept {sel : Nat} {s : State} : Kept [.tmb, .timetable] s (activateTt sel s) := by
  unfold activateTt
  try dsimp only
  repeat' first
    | with_reducible exact Kept.refl _
    | with_reducible exact Kept.idRefl
    | with_reducible apply Kept.step tmbStatus_kept
    | with_reducible apply Kept.ite
    | (fail_if_no_progress ((with_reducible apply Kept.put_tmb); decide; with_reducible exact rfl))
    | (fail_if_no_progress ((with_reducible apply Kept.put_tmb_timetable); decide; decide))
    | decide
    | (intro _; intros; try dsimp only)
    | dsimp only
    | split

theorem execArm_kept {p : HPort} {sel : BitVec 4} {s : State} : KeptOut [.hst, .tmb, .tly, .ram, .timetable] s (execArm p sel s) := by
  unfold execArm
  try dsimp only
  repeat' first
    | with_reducible exact Kept.refl _
    | with_reducible exact Kept.idRefl
    | with_reducible apply fun hl h0 h => Kept.trans h (tmbCommand_kept hl h0)
    | with_reducible apply Kept.step armTt_kept
    | with_reducible apply Kept.next
    | decide
    | (intro _; intros; try dsimp only)

theorem execActivate_kept {p : HPort} {sel : BitVec 4} {s : State} : KeptOut [.hst, .tmb, .tly, .timetable] s (execActivate p sel s) := by
  unfold execActivate
  try dsimp only
  repeat' first
    | with_reducible exact Kept.refl _
    | with_reducible exact Kept.idRefl
    | with_reducible apply fun hl h0 h => Kept.trans h (tmbCommand_kept hl h0)
    | with_reducible apply Kept.step activateTt_kept
    | with_reducible apply Kept.next
    | decide
    | (intro _; intros; try dsimp only)

theorem takeRecord_kept {p : Nat} {lane : Nat} {b : List Byte} {s : State} : Kept [.hst, .lnk, .srd, .svc, .fwd, .swc, .tmb, .lnd, .mil, .mem, .opt, .res, .tly, .nv, .ram, .out] s (takeRecord p lane b s) := by
  unfold takeRecord
  try dsimp only
  repeat' first
    | with_reducible exact Kept.refl _
    | with_reducible exact Kept.idRefl
    | with_reducible apply Kept.step takeHello_kept
    | with_reducible apply Kept.step takeConfig_kept
    | with_reducible apply Kept.step takeCredit_kept
    | decide
    | (intro _; intros; try dsimp only)
    | dsimp only
    | split

theorem takeLaneCtl_kept {p : Nat} {b : List Byte} {s : State} : Kept [.hst, .lnk, .srd, .svc, .fwd, .swc, .tmb, .lnd, .mil, .mem, .opt, .res, .tly, .nv, .ram, .out] s (takeLaneCtl p b s) := by
  unfold takeLaneCtl
  try dsimp only
  repeat' first
    | with_reducible exact Kept.refl _
    | with_reducible exact Kept.idRefl
    | with_reducible apply Kept.step takeOff_kept
    | with_reducible apply Kept.step takeOffAck_kept
    | with_reducible apply Kept.step takeOn_kept
    | with_reducible apply Kept.step takeOnAck_kept
    | decide
    | (intro _; intros; try dsimp only)
    | dsimp only
    | split

theorem takeAnyFrame_kept {p : Nat} {lane : Nat} {b : List Byte} {s : State} : Kept [.hst, .lnk, .srd, .svc, .fwd, .swc, .tmb, .lnd, .mil, .mem, .opt, .res, .tly, .nv, .ram, .out] s (takeAnyFrame p lane b s) := by
  unfold takeAnyFrame
  try dsimp only
  repeat' first
    | with_reducible exact Kept.refl _
    | with_reducible exact Kept.idRefl
    | with_reducible apply Kept.step takeFrame_kept
    | with_reducible apply Kept.step takeRecord_kept
    | with_reducible apply Kept.step takeLaneCtl_kept
    | with_reducible apply Kept.ite
    | decide
    | (intro _; intros; try dsimp only)
    | dsimp only
    | split

theorem takeContent_kept {p : Nat} {l : Nat} {c : Content} {s : State} : Kept [.hst, .lnk, .srd, .svc, .eye, .fwd, .swc, .tmb, .lnd, .mil, .mem, .opt, .res, .tly, .nv, .ram, .out] s (takeContent p l c s) := by
  unfold takeContent
  try dsimp only
  repeat' first
    | with_reducible exact Kept.refl _
    | with_reducible exact Kept.idRefl
    | with_reducible apply Kept.step takeAnyFrame_kept
    | with_reducible apply Kept.step takeEq_kept
    | with_reducible apply Kept.step idleEnter_kept
    | with_reducible apply Kept.step loseFrame_kept
    | decide
    | (intro _; intros; try dsimp only)
    | dsimp only
    | split

theorem receive_kept {l : Nat} {x : Option Symbols} {s : State} : Kept [.hst, .lnk, .srd, .svc, .eye, .fwd, .swc, .tmb, .lnd, .mil, .mem, .opt, .res, .tly, .nv, .ram, .fresh, .out] s (receive l x s) := by
  unfold receive
  try dsimp only
  repeat' first
    | with_reducible exact Kept.refl _
    | with_reducible exact Kept.idRefl
    | with_reducible apply Kept.step takeCodeword_kept
    | with_reducible apply Kept.step takeContent_kept
    | decide
    | (with_reducible apply Kept.ofSnd; with_reducible assumption)
    | (intro _; intros; try dsimp only)
    | dsimp only
    | split

theorem receiveIf_kept {kind : Content → Bool} {l : Nat} {x : Symbols} {s : State} : Kept [.hst, .lnk, .srd, .svc, .eye, .fwd, .swc, .tmb, .lnd, .mil, .mem, .opt, .res, .tly, .nv, .ram, .fresh, .out] s (receiveIf kind l x s) := by
  unfold receiveIf
  try dsimp only
  repeat' first
    | with_reducible exact Kept.refl _
    | with_reducible exact Kept.idRefl
    | with_reducible apply Kept.step receive_kept
    | with_reducible apply Kept.ite
    | decide

theorem execEqRequest_kept {lane : LaneNo} {rx : Symbols} {s : State} : KeptOut [.hst, .lnk, .srd, .svc, .eye, .fwd, .swc, .tmb, .lnd, .mil, .mem, .opt, .res, .tly, .nv, .ram, .fresh, .out] s (execEqRequest lane rx s) := by
  unfold execEqRequest
  try dsimp only
  repeat' first
    | with_reducible exact Kept.refl _
    | with_reducible exact Kept.idRefl
    | with_reducible apply Kept.step receiveIf_kept
    | with_reducible apply Kept.next
    | decide

theorem execIdleEnter_kept {rx : LaneNo × Symbols} {s : State} : KeptOut [.hst, .lnk, .srd, .svc, .eye, .fwd, .swc, .tmb, .lnd, .mil, .mem, .opt, .res, .tly, .nv, .ram, .fresh, .out] s (execIdleEnter rx s) := by
  unfold execIdleEnter
  try dsimp only
  repeat' first
    | with_reducible exact Kept.refl _
    | with_reducible exact Kept.idRefl
    | with_reducible apply Kept.step receiveIf_kept
    | with_reducible apply Kept.next
    | decide

theorem execLinkFrameReceived_kept {port : Port} {lane : Fin 8} {signal : Bool} {rx : Symbols} {s : State} : KeptOut [.hst, .lnk, .srd, .svc, .eye, .fwd, .swc, .tmb, .lnd, .mil, .mem, .opt, .res, .tly, .nv, .ram, .fresh, .out] s (execLinkFrameReceived port lane signal rx s) := by
  unfold execLinkFrameReceived
  try dsimp only
  repeat' first
    | with_reducible exact Kept.refl _
    | with_reducible exact Kept.idRefl
    | with_reducible apply Kept.step receiveIf_kept
    | with_reducible apply Kept.step receive_kept
    | with_reducible apply Kept.ite
    | with_reducible apply Kept.next
    | decide

theorem execCodewordReceived_kept {lane : LaneNo} {signal : Bool} {rx : Symbols} {s : State} : KeptOut [.hst, .lnk, .srd, .svc, .eye, .fwd, .swc, .tmb, .lnd, .mil, .mem, .opt, .res, .tly, .nv, .ram, .fresh, .out] s (execCodewordReceived lane signal rx s) := by
  unfold execCodewordReceived
  try dsimp only
  repeat' first
    | with_reducible exact Kept.refl _
    | with_reducible exact Kept.idRefl
    | with_reducible apply Kept.step receive_kept
    | with_reducible apply Kept.next
    | decide

end Sys2Proof.Machine
end

