-- ==== Sys2Proof/Laws/KeptDevice.lean ====
section
/-! SUPPORT. What each operation and meaning of the files Machine/Resilience, Twin, Security, PlatCheck, PlatOps, Host, Tally, Module, RegRead, RegWrite, Debug changes, and what it never undoes. -/
set_option linter.unusedTactic false
set_option linter.unreachableTactic false
namespace Sys2Proof.Machine
open Sys2Proof

theorem extend_kept {m : Nat} {d : List Byte} {s : State} : Kept [.sec] s (extend m d s) := by
  unfold extend
  try dsimp only
  repeat' first
    | with_reducible exact Kept.refl _
    | with_reducible exact Kept.idRefl
    | (fail_if_no_progress ((with_reducible apply Kept.put_sec); decide; with_reducible exact rfl))

theorem eraseKeys_kept {s : State} : Kept [.nv, .keys] s (eraseKeys s) := by
  exact ⟨fun b hb => by cases b <;> first | exact rfl | exact absurd (by decide) hb, rfl, rfl, Nat.le_refl _, fun _ => rfl,
    Nat.le_refl _, List.suffix_refl _, rfl, id, fun _ _ => ⟨rfl, rfl⟩⟩

theorem alarm_kept {sensor : Nat} {s : State} : Kept [.glb, .plt, .hst, .lnk, .srd, .svc, .fwd, .swc, .tmb, .lnd, .mil, .mem, .opt, .res, .sec, .tly, .nv, .ram, .out, .lease, .keys] s (alarm sensor s) := by
  unfold alarm
  try dsimp only
  repeat' first
    | with_reducible exact Kept.refl _
    | with_reducible exact Kept.idRefl
    | with_reducible apply Kept.step extend_kept
    | with_reducible apply Kept.step fire_kept
    | with_reducible apply Kept.step eraseKeys_kept
    | with_reducible apply Kept.step selfCordon_kept
    | with_reducible apply Kept.ite
    | (fail_if_no_progress ((with_reducible apply Kept.put_sec); decide; with_reducible exact rfl))
    | decide

theorem execMeshEvent_kept {s : State} : KeptOut [.glb, .plt, .hst, .lnk, .srd, .svc, .fwd, .swc, .tmb, .lnd, .mil, .mem, .opt, .res, .sec, .tly, .nv, .ram, .out, .lease, .keys] s (execMeshEvent s) := by
  unfold execMeshEvent
  try dsimp only
  repeat' first
    | with_reducible exact Kept.refl _
    | with_reducible exact Kept.idRefl
    | with_reducible apply Kept.step alarm_kept
    | with_reducible apply Kept.next
    | decide

theorem secStatus_kept {st : Nat} {s : State} : Kept [.sec] s (secStatus st s) := by
  unfold secStatus
  try dsimp only
  repeat' first
    | with_reducible exact Kept.refl _
    | with_reducible exact Kept.idRefl
    | (fail_if_no_progress ((with_reducible apply Kept.put_sec); decide; with_reducible exact rfl))

theorem secCommand_kept {p : HPort} {allowed : DevState → Bool} {f : State → State} {s : State} {L : List Blk} (hL : [.hst, .sec, .tly] ⊆ L) (hf : ∀ t, Kept L t (f t)) : Kept L s (secCommand p allowed f s) := by
  unfold secCommand
  try dsimp only
  repeat' first
    | with_reducible exact Kept.refl _
    | with_reducible exact Kept.idRefl
    | with_reducible apply fun h => Kept.trans h (hf _)
    | with_reducible apply fun hl h0 h => Kept.trans h (hostWrite_kept hl h0)
    | with_reducible apply Kept.step secStatus_kept
    | with_reducible apply Kept.ite
    | (fail_if_no_progress ((with_reducible apply Kept.put_sec); exact hL (by decide); with_reducible exact rfl))
    | exact List.Subset.trans (by decide) hL
    | exact hL (by decide)
    | exact hL
    | (intro _; intros; try dsimp only)

theorem dropChal_kept {s : State} : Kept [.sec] s (dropChal s) := by
  unfold dropChal
  try dsimp only
  repeat' first
    | with_reducible exact Kept.refl _
    | with_reducible exact Kept.idRefl
    | (fail_if_no_progress ((with_reducible apply Kept.put_sec); decide; with_reducible exact rfl))

theorem unlockDebug_kept {level : Nat} {c : List Byte} {s : State} : Kept [.sec] s (unlockDebug level c s) := by
  unfold unlockDebug
  try dsimp only
  repeat' first
    | with_reducible exact Kept.refl _
    | with_reducible exact Kept.idRefl
    | with_reducible apply Kept.step extend_kept
    | (fail_if_no_progress ((with_reducible apply Kept.put_sec); decide; with_reducible exact rfl))
    | decide

theorem dbgFail_kept {s : State} : Kept [.glb, .plt, .hst, .lnk, .srd, .svc, .fwd, .swc, .tmb, .lnd, .mil, .mem, .opt, .res, .sec, .tly, .nv, .ram, .out, .lease, .keys] s (dbgFail s) := by
  unfold dbgFail
  try dsimp only
  repeat' first
    | with_reducible exact Kept.refl _
    | with_reducible exact Kept.idRefl
    | with_reducible apply Kept.step alarm_kept
    | with_reducible apply Kept.ite
    | (fail_if_no_progress ((with_reducible apply Kept.put_sec); decide; with_reducible exact rfl))
    | decide

theorem tryUnlock_kept {b : List Byte} {s : State} : Kept [.glb, .plt, .hst, .lnk, .srd, .svc, .fwd, .swc, .tmb, .lnd, .mil, .mem, .opt, .res, .sec, .tly, .nv, .ram, .out, .lease, .keys] s (tryUnlock b s).1 := by
  unfold tryUnlock
  try dsimp only
  repeat' first
    | with_reducible exact Kept.refl _
    | with_reducible exact Kept.idRefl
    | with_reducible apply Kept.step dropChal_kept
    | with_reducible apply Kept.step unlockDebug_kept
    | with_reducible apply Kept.step dbgFail_kept
    | with_reducible apply Kept.ite
    | with_reducible apply Kept.iteFst
    | decide
    | (intro _; intros; try dsimp only)
    | dsimp only
    | split

theorem execDbgUnlock_kept {p : HPort} {s : State} : KeptOut [.glb, .plt, .hst, .lnk, .srd, .svc, .fwd, .swc, .tmb, .lnd, .mil, .mem, .opt, .res, .sec, .tly, .nv, .ram, .out, .lease, .keys] s (execDbgUnlock p s) := by
  unfold execDbgUnlock
  try dsimp only
  repeat' first
    | with_reducible exact Kept.refl _
    | with_reducible exact Kept.idRefl
    | with_reducible apply fun hl h0 h => Kept.trans h (secCommand_kept hl h0)
    | with_reducible apply Kept.step tryUnlock_kept
    | with_reducible apply Kept.step secStatus_kept
    | with_reducible apply Kept.next
    | decide
    | (with_reducible apply Kept.ofFst; with_reducible assumption)
    | (intro _; intros; try dsimp only)

theorem sigFail_kept {s : State} : Kept [.glb, .plt, .hst, .lnk, .srd, .svc, .fwd, .swc, .tmb, .lnd, .mil, .mem, .opt, .res, .sec, .tly, .nv, .ram, .out, .lease, .keys] s (sigFail s) := by
  unfold sigFail
  try dsimp only
  repeat' first
    | with_reducible exact Kept.refl _
    | with_reducible exact Kept.idRefl
    | with_reducible apply Kept.step alarm_kept
    | with_reducible apply Kept.ite
    | (fail_if_no_progress ((with_reducible apply Kept.put_sec); decide; with_reducible exact rfl))
    | decide

theorem sigGood_kept {s : State} : Kept [.sec] s (sigGood s) := by
  unfold sigGood
  try dsimp only
  repeat' first
    | with_reducible exact Kept.refl _
    | with_reducible exact Kept.idRefl
    | (fail_if_no_progress ((with_reducible apply Kept.put_sec); decide; with_reducible exact rfl))

theorem keyLoad_kept {s : State} : Kept [.glb, .plt, .hst, .lnk, .srd, .svc, .fwd, .swc, .tmb, .lnd, .mil, .mem, .opt, .res, .sec, .tly, .nv, .ram, .out, .lease, .keys] s (keyLoad s) := by
  unfold keyLoad
  dsimp only
  refine Kept.ite (Kept.mono secStatus_kept (by decide)) ?_
  by_cases h : s.nv.erased = true
  · rw [if_pos (show (!s.ikUsable) = true by simp [State.ikUsable, h])]
    exact Kept.mono secStatus_kept (by decide)
  · have hk : ∀ slot k t, t.nv.erased = s.nv.erased → Kept [.nv, .keys] t (setKeySlot slot k t) := fun slot k t e => by
      have he : ¬ t.nv.erased = true := by rw [e]; exact h
      unfold setKeySlot
      split
      · exact Kept.put_nv_keys (by decide) (by decide) (fun _ x => absurd x he) (Kept.refl _)
      · exact Kept.put_nv_keys (by decide) (by decide) (fun _ x => absurd x he) (Kept.refl _)
    have hs : (sigGood s).nv.erased = s.nv.erased := by unfold sigGood; rfl
    repeat' first
      | with_reducible exact Kept.refl _
      | with_reducible apply Kept.step secStatus_kept
      | with_reducible apply Kept.step sigFail_kept
      | with_reducible apply Kept.step sigGood_kept
      | with_reducible apply Kept.step (hk _ _ _ hs)
      | with_reducible apply Kept.ite
      | decide
      | (intro _; intros; try dsimp only)
      | split

theorem execKeyLoad_kept {p : HPort} {s : State} : KeptOut [.glb, .plt, .hst, .lnk, .srd, .svc, .fwd, .swc, .tmb, .lnd, .mil, .mem, .opt, .res, .sec, .tly, .nv, .ram, .out, .lease, .keys] s (execKeyLoad p s) := by
  unfold execKeyLoad
  try dsimp only
  repeat' first
    | with_reducible exact Kept.refl _
    | with_reducible exact Kept.idRefl
    | with_reducible apply fun hl h0 h => Kept.trans h (secCommand_kept hl h0)
    | with_reducible apply Kept.step keyLoad_kept
    | with_reducible apply Kept.next
    | decide
    | (intro _; intros; try dsimp only)

theorem newChallenge_kept {s : State} : Kept [.sec, .fresh] s (newChallenge s) := by
  unfold newChallenge
  try dsimp only
  repeat' first
    | with_reducible exact Kept.refl _
    | with_reducible exact Kept.idRefl
    | (fail_if_no_progress ((with_reducible apply Kept.put_sec); decide; with_reducible exact rfl))
    | (fail_if_no_progress ((with_reducible apply Kept.put_fresh); decide))
    | (fail_if_no_progress ((with_reducible apply Kept.put); (intro b hb; cases b <;> first | exact rfl | exact absurd (by decide) hb)))

theorem lockDebug_kept {s : State} : Kept [.sec] s (lockDebug s) := by
  unfold lockDebug
  try dsimp only
  repeat' first
    | with_reducible exact Kept.refl _
    | with_reducible exact Kept.idRefl
    | (fail_if_no_progress ((with_reducible apply Kept.put_sec); decide; with_reducible exact rfl))

theorem execDbgLock_kept {p : HPort} {s : State} : KeptOut [.hst, .sec, .tly] s (execDbgLock p s) := by
  unfold execDbgLock
  try dsimp only
  repeat' first
    | with_reducible exact Kept.refl _
    | with_reducible exact Kept.idRefl
    | with_reducible apply fun hl h0 h => Kept.trans h (secCommand_kept hl h0)
    | with_reducible apply Kept.step secStatus_kept
    | with_reducible apply Kept.step lockDebug_kept
    | with_reducible apply Kept.next
    | decide
    | (intro _; intros; try dsimp only)

theorem execChallengeExpire_kept {dt : Nat} {s : State} : KeptOut [.tmb, .sec, .tly, .clk, .out] s (execChallengeExpire dt s) := by
  unfold execChallengeExpire
  try dsimp only
  repeat' first
    | with_reducible exact Kept.refl _
    | with_reducible exact Kept.idRefl
    | with_reducible apply Kept.step elapse_kept
    | with_reducible apply Kept.step dropChal_kept
    | with_reducible apply Kept.ite
    | with_reducible apply Kept.next
    | decide
    | (intro _; intros; try dsimp only)
    | dsimp only
    | split

theorem execDbgChallenge_kept {p : HPort} {s : State} : KeptOut [.hst, .sec, .tly, .fresh] s (execDbgChallenge p s) := by
  unfold execDbgChallenge
  try dsimp only
  repeat' first
    | with_reducible exact Kept.refl _
    | with_reducible exact Kept.idRefl
    | with_reducible apply fun hl h0 h => Kept.trans h (secCommand_kept hl h0)
    | with_reducible apply Kept.step secStatus_kept
    | with_reducible apply Kept.step newChallenge_kept
    | with_reducible apply Kept.next
    | decide
    | (intro _; intros; try dsimp only)

theorem execSupplyGlitch_kept {s : State} : KeptOut [.glb, .plt, .hst, .lnk, .srd, .svc, .fwd, .swc, .tmb, .lnd, .mil, .mem, .opt, .res, .sec, .tly, .nv, .ram, .out, .lease, .keys] s (execSupplyGlitch s) := by
  unfold execSupplyGlitch
  try dsimp only
  repeat' first
    | with_reducible exact Kept.refl _
    | with_reducible exact Kept.idRefl
    | with_reducible apply Kept.step alarm_kept
    | with_reducible apply Kept.next
    | decide

theorem execSecverCommit_kept {p : HPort} {s : State} : KeptOut [.hst, .sec, .tly, .nv] s (execSecverCommit p s) := by
  refine Kept.next (secCommand_kept (by decide) (fun t => Kept.ite (Kept.mono secStatus_kept (by decide)) ?_))
  split
  · exact Kept.mono secStatus_kept (by decide)
  · next hv =>
    refine Kept.step secStatus_kept (by decide) ?_
    exact ⟨fun b hb => by cases b <;> first | exact rfl | exact absurd (by decide) hb, rfl, rfl,
      Nat.le_of_lt (Nat.lt_of_not_le hv), id, Nat.le_refl _, List.suffix_refl _, rfl, id, id⟩

theorem laneReturn_kept {l : Nat} {s : State} : Kept [.lnk, .srd, .out] s (laneReturn l s) := by
  unfold laneReturn
  try dsimp only
  repeat' first
    | with_reducible exact Kept.refl _
    | with_reducible exact Kept.idRefl
    | with_reducible apply Kept.step rejoin_kept
    | with_reducible apply Kept.step txOn_kept
    | decide

theorem undoDrain_kept {kind : Nat} {idx : Nat} {s : State} : Kept [.lnk, .srd, .swc, .lnd, .mil, .out] s (undoDrain kind idx s) := by
  unfold undoDrain
  try dsimp only
  repeat' first
    | with_reducible exact Kept.refl _
    | with_reducible exact Kept.idRefl
    | with_reducible apply Kept.step laneReturn_kept
    | (fail_if_no_progress ((with_reducible apply Kept.put_swc); decide))
    | (fail_if_no_progress ((with_reducible apply Kept.put_lnd); decide))
    | (fail_if_no_progress ((with_reducible apply Kept.put_mil); decide))
    | (fail_if_no_progress ((with_reducible apply Kept.put); (intro b hb; cases b <;> first | exact rfl | exact absurd (by decide) hb)))
    | decide
    | (intro _; intros; try dsimp only)
    | dsimp only
    | split

theorem returnPart_kept {kind : Nat} {idx : Nat} {s : State} : Kept [.lnk, .srd, .swc, .lnd, .mil, .res, .out] s (returnPart kind idx s) := by
  unfold returnPart
  try dsimp only
  repeat' first
    | with_reducible exact Kept.refl _
    | with_reducible exact Kept.idRefl
    | with_reducible apply Kept.step undoDrain_kept
    | with_reducible apply Kept.step State.modPart_kept
    | decide

theorem partTestEnds_kept {kind : Nat} {idx : Nat} {how : Nat} {s : State} : Kept [.hst, .lnk, .srd, .swc, .lnd, .mil, .res, .nv, .out] s (partTestEnds kind idx how s) := by
  unfold partTestEnds
  try dsimp only
  repeat' first
    | with_reducible exact Kept.refl _
    | with_reducible exact Kept.idRefl
    | with_reducible apply Kept.step endTest_kept
    | with_reducible apply Kept.step zeroScore_kept
    | with_reducible apply Kept.step State.modPart_kept
    | with_reducible apply Kept.step returnPart_kept
    | with_reducible apply Kept.ite
    | decide
    | (intro _; intros; try dsimp only)
    | dsimp only
    | split

theorem partStatus_kept {st : Nat} {s : State} : Kept [.res] s (partStatus st s) := by
  unfold partStatus
  try dsimp only
  repeat' first
    | with_reducible exact Kept.refl _
    | with_reducible exact Kept.idRefl
    | (fail_if_no_progress ((with_reducible apply Kept.put_res); decide; with_reducible exact rfl))

theorem partCommand_kept {p : HPort} {kind : BitVec 2} {idx : BitVec 12} {f : Nat → Nat → State → State} {s : State} {L : List Blk} (hL : [.hst, .res, .tly] ⊆ L) (hf : ∀ x0 x1 t, Kept L t (f x0 x1 t)) : Kept L s (partCommand p kind idx f s) := by
  unfold partCommand
  try dsimp only
  repeat' first
    | with_reducible exact Kept.refl _
    | with_reducible exact Kept.idRefl
    | with_reducible apply fun h => Kept.trans h (hf _ _ _)
    | with_reducible apply fun hl h0 h => Kept.trans h (hostWrite_kept hl h0)
    | with_reducible apply Kept.step partStatus_kept
    | with_reducible apply Kept.ite
    | (fail_if_no_progress ((with_reducible apply Kept.put_res); exact hL (by decide); with_reducible exact rfl))
    | exact List.Subset.trans (by decide) hL
    | exact hL (by decide)
    | exact hL
    | (intro _; intros; try dsimp only)

theorem execPartQuery_kept {p : HPort} {kind : BitVec 2} {idx : BitVec 12} {s : State} : KeptOut [.hst, .res, .tly] s (execPartQuery p kind idx s) := by
  unfold execPartQuery
  try dsimp only
  repeat' first
    | with_reducible exact Kept.refl _
    | with_reducible exact Kept.idRefl
    | with_reducible apply fun hl h0 h => Kept.trans h (partCommand_kept hl h0)
    | with_reducible apply Kept.step partStatus_kept
    | with_reducible apply Kept.ite
    | (fail_if_no_progress ((with_reducible apply Kept.put_res); decide; with_reducible exact rfl))
    | with_reducible apply Kept.next
    | decide
    | (intro _; intros; try dsimp only)

theorem execPartZero_kept {p : HPort} {kind : BitVec 2} {idx : BitVec 12} {s : State} : KeptOut [.hst, .res, .tly] s (execPartZero p kind idx s) := by
  unfold execPartZero
  try dsimp only
  repeat' first
    | with_reducible exact Kept.refl _
    | with_reducible exact Kept.idRefl
    | with_reducible apply fun hl h0 h => Kept.trans h (partCommand_kept hl h0)
    | with_reducible apply Kept.step partStatus_kept
    | with_reducible apply Kept.step State.modPart_kept
    | with_reducible apply Kept.next
    | decide
    | (intro _; intros; try dsimp only)

theorem execSelfTestEnd_kept {failedEngines : List Nat} {failedBanks : List Nat} {s : State} : KeptOut [.hst, .lnk, .srd, .swc, .lnd, .mil, .res, .nv, .out] s (execSelfTestEnd failedEngines failedBanks s) := by
  unfold execSelfTestEnd
  try dsimp only
  repeat' first
    | with_reducible exact Kept.refl _
    | with_reducible exact Kept.idRefl
    | with_reducible apply fun hf h => Kept.trans h (forEach_kept hf)
    | with_reducible apply Kept.step zeroScore_kept
    | with_reducible apply Kept.step endTest_kept
    | with_reducible apply Kept.ite
    | (fail_if_no_progress ((with_reducible apply Kept.put_res); decide; with_reducible exact rfl))
    | with_reducible apply Kept.next
    | decide
    | (intro _; intros; try dsimp only)

theorem startPartTest_kept {kind : Nat} {idx : Nat} {s : State} : Kept [.res] s (startPartTest kind idx s) := by
  unfold startPartTest
  try dsimp only
  repeat' first
    | with_reducible exact Kept.refl _
    | with_reducible exact Kept.idRefl
    | with_reducible apply Kept.step partStatus_kept
    | with_reducible apply Kept.step State.modPart_kept
    | decide

theorem execPartTest_kept {p : HPort} {kind : BitVec 2} {idx : BitVec 12} {s : State} : KeptOut [.hst, .mil, .res, .tly] s (execPartTest p kind idx s) := by
  unfold execPartTest
  try dsimp only
  repeat' first
    | with_reducible exact Kept.refl _
    | with_reducible exact Kept.idRefl
    | with_reducible apply fun hl h0 h => Kept.trans h (partCommand_kept hl h0)
    | with_reducible apply Kept.step partStatus_kept
    | with_reducible apply Kept.step startPartTest_kept
    | with_reducible apply Kept.ite
    | (fail_if_no_progress ((with_reducible apply Kept.put_mil); decide))
    | with_reducible apply Kept.next
    | decide
    | (intro _; intros; try dsimp only)
    | dsimp only
    | split

theorem abortEngineTests_kept {d : Nat} {n : Nat} {s : State} : Kept [.hst, .lnk, .srd, .swc, .lnd, .mil, .res, .nv, .out] s (abortEngineTests d n s) := by
  unfold abortEngineTests
  try dsimp only
  repeat' first
    | with_reducible exact Kept.refl _
    | with_reducible exact Kept.idRefl
    | with_reducible apply fun hf h => Kept.trans h (forEach_kept hf)
    | with_reducible apply Kept.step partTestEnds_kept
    | with_reducible apply Kept.ite
    | decide
    | (intro _; intros; try dsimp only)

theorem execPartTestEnd_kept {kind : BitVec 2} {idx : BitVec 12} {passed : Bool} {s : State} : KeptOut [.hst, .lnk, .srd, .swc, .lnd, .mil, .res, .nv, .out] s (execPartTestEnd kind idx passed s) := by
  unfold execPartTestEnd
  try dsimp only
  repeat' first
    | with_reducible exact Kept.refl _
    | with_reducible exact Kept.idRefl
    | with_reducible apply Kept.step partTestEnds_kept
    | with_reducible apply Kept.ite
    | with_reducible apply Kept.next
    | decide

theorem State.setGov_kept {s : State} {d : Nat} {g : Gov} : Kept [.res] s (State.setGov s d g) := by
  unfold State.setGov
  try dsimp only
  repeat' first
    | with_reducible exact Kept.refl _
    | with_reducible exact Kept.idRefl
    | (fail_if_no_progress ((with_reducible apply Kept.put_res); decide; with_reducible exact rfl))

theorem execPartDrain_kept {p : HPort} {kind : BitVec 2} {idx : BitVec 12} {s : State} : KeptOut [.hst, .lnk, .srd, .swc, .lnd, .mil, .res, .tly, .out] s (execPartDrain p kind idx s) := by
  unfold execPartDrain
  try dsimp only
  repeat' first
    | with_reducible exact Kept.refl _
    | with_reducible exact Kept.idRefl
    | with_reducible apply fun hl h0 h => Kept.trans h (partCommand_kept hl h0)
    | with_reducible apply Kept.step partStatus_kept
    | with_reducible apply Kept.step drainPart_kept
    | with_reducible apply Kept.ite
    | with_reducible apply Kept.next
    | decide
    | (intro _; intros; try dsimp only)

theorem execCruiseSave_kept {dt : Nat} {s : State} : KeptOut [.tmb, .tly, .nv, .clk, .out] s (execCruiseSave dt s) := by
  unfold execCruiseSave
  try dsimp only
  repeat' first
    | with_reducible exact Kept.refl _
    | with_reducible exact Kept.idRefl
    | with_reducible apply Kept.step saveScores_kept
    | with_reducible apply Kept.step elapse_kept
    | with_reducible apply Kept.next
    | decide

theorem execThermalGovWithdraw_kept {dt : Nat} {d : Fin 16} {s : State} : KeptOut [.hst, .lnk, .srd, .swc, .tmb, .lnd, .mil, .res, .tly, .pwr, .nv, .clk, .out] s (execThermalGovWithdraw dt d s) := by
  unfold execThermalGovWithdraw
  try dsimp only
  repeat' first
    | with_reducible exact Kept.refl _
    | with_reducible exact Kept.idRefl
    | with_reducible apply Kept.step elapse_kept
    | with_reducible apply Kept.step raisePwr_kept
    | with_reducible apply Kept.step abortEngineTests_kept
    | with_reducible apply Kept.step State.setGov_kept
    | with_reducible apply Kept.ite
    | with_reducible apply Kept.next
    | decide

theorem execThermalGovReturn_kept {dt : Nat} {d : Fin 16} {s : State} : KeptOut [.tmb, .res, .tly, .clk, .out] s (execThermalGovReturn dt d s) := by
  unfold execThermalGovReturn
  try dsimp only
  repeat' first
    | with_reducible exact Kept.refl _
    | with_reducible exact Kept.idRefl
    | with_reducible apply Kept.step elapse_kept
    | with_reducible apply Kept.step State.setGov_kept
    | with_reducible apply Kept.ite
    | with_reducible apply Kept.next
    | decide

theorem execDrainwaitRelease_kept {kind : BitVec 2} {idx : BitVec 12} {s : State} : KeptOut [.hst, .lnk, .srd, .swc, .lnd, .mil, .res, .out] s (execDrainwaitRelease kind idx s) := by
  unfold execDrainwaitRelease
  try dsimp only
  repeat' first
    | with_reducible exact Kept.refl _
    | with_reducible exact Kept.idRefl
    | with_reducible apply Kept.step raiseCruise_kept
    | with_reducible apply Kept.step drainNow_kept
    | with_reducible apply Kept.step State.modPart_kept
    | with_reducible apply Kept.ite
    | with_reducible apply Kept.next
    | decide

theorem execPartReturn_kept {p : HPort} {kind : BitVec 2} {idx : BitVec 12} {s : State} : KeptOut [.hst, .lnk, .srd, .swc, .lnd, .mil, .res, .tly, .out] s (execPartReturn p kind idx s) := by
  unfold execPartReturn
  try dsimp only
  repeat' first
    | with_reducible exact Kept.refl _
    | with_reducible exact Kept.idRefl
    | with_reducible apply fun hl h0 h => Kept.trans h (partCommand_kept hl h0)
    | with_reducible apply Kept.step partStatus_kept
    | with_reducible apply Kept.step returnPart_kept
    | with_reducible apply Kept.ite
    | with_reducible apply Kept.next
    | decide
    | (intro _; intros; try dsimp only)

theorem execFullSelfTest_kept {p : HPort} {s : State} : KeptOut [.hst, .res, .tly] s (execFullSelfTest p s) := by
  unfold execFullSelfTest
  try dsimp only
  repeat' first
    | with_reducible exact Kept.refl _
    | with_reducible exact Kept.idRefl
    | with_reducible apply fun hl h0 h => Kept.trans h (hostWrite_kept hl h0)
    | with_reducible apply Kept.ite
    | (fail_if_no_progress ((with_reducible apply Kept.put_res); decide; with_reducible exact rfl))
    | with_reducible apply Kept.next
    | decide
    | (intro _; intros; try dsimp only)

theorem State.setMirror_kept {s : State} {west : Bool} {m : Mirror} : Kept [.res] s (State.setMirror s west m) := by
  unfold State.setMirror
  try dsimp only
  repeat' first
    | with_reducible exact Kept.refl _
    | with_reducible exact Kept.idRefl
    | with_reducible apply Kept.ite
    | (fail_if_no_progress ((with_reducible apply Kept.put_res); decide; with_reducible exact rfl))

theorem mirrorAck_kept {lane : Fin 2} {s : State} : Kept [.svc, .res, .out] s (mirrorAck lane s) := by
  unfold mirrorAck
  try dsimp only
  repeat' first
    | with_reducible exact Kept.refl _
    | with_reducible exact Kept.idRefl
    | with_reducible apply Kept.step sendRing_kept
    | with_reducible apply Kept.step State.setMirror_kept
    | with_reducible apply Kept.ite
    | decide

theorem execMirrorAckSend_kept {dt : Nat} {lane : Fin 2} {s : State} : KeptOut [.svc, .tmb, .res, .tly, .clk, .out] s (execMirrorAckSend dt lane s) := by
  unfold execMirrorAckSend
  try dsimp only
  repeat' first
    | with_reducible exact Kept.refl _
    | with_reducible exact Kept.idRefl
    | with_reducible apply Kept.step mirrorAck_kept
    | with_reducible apply Kept.step elapse_kept
    | with_reducible apply Kept.next
    | decide

theorem sendSnaps_kept {west : Bool} {dst : DWord} {a2 : Nat} {a3 : Nat} {a4 : List Byte} {a5 : State} : Kept [.svc, .out] a5 (sendSnaps west dst a2 a3 a4 a5) := by
  induction a2 generalizing a3 a4 a5 with
  | zero =>
    unfold sendSnaps
    try dsimp only
    repeat' first
      | with_reducible exact Kept.refl _
  | succ n ih =>
    unfold sendSnaps
    try dsimp only
    repeat' first
      | with_reducible exact Kept.refl _
      | with_reducible exact Kept.idRefl
      | with_reducible apply fun h => Kept.trans h ih
      | with_reducible apply Kept.step sendRing_kept
      | with_reducible apply Kept.ite
      | decide

theorem execPull_kept {p : HPort} {s : State} : KeptOut [.hst, .svc, .res, .tly, .out] s (execPull p s) := by
  unfold execPull
  try dsimp only
  repeat' first
    | with_reducible exact Kept.refl _
    | with_reducible exact Kept.idRefl
    | with_reducible apply fun hl h0 h => Kept.trans h (hostWrite_kept hl h0)
    | with_reducible apply Kept.step sendRing_kept
    | with_reducible apply Kept.ite
    | (fail_if_no_progress ((with_reducible apply Kept.put_res); decide; with_reducible exact rfl))
    | with_reducible apply Kept.next
    | decide
    | (intro _; intros; try dsimp only)

theorem endPull_kept {status : Nat} {result : Nat} {s : State} : Kept [.hst, .res, .out] s (endPull status result s) := by
  unfold endPull
  try dsimp only
  repeat' first
    | with_reducible exact Kept.refl _
    | with_reducible exact Kept.idRefl
    | with_reducible apply Kept.step fire_kept
    | (fail_if_no_progress ((with_reducible apply Kept.put_res); decide; with_reducible exact rfl))
    | decide

theorem execSpareAbort_kept {p : HPort} {s : State} : KeptOut [.hst, .res, .tly, .out] s (execSpareAbort p s) := by
  unfold execSpareAbort
  try dsimp only
  repeat' first
    | with_reducible exact Kept.refl _
    | with_reducible exact Kept.idRefl
    | with_reducible apply fun hl h0 h => Kept.trans h (hostWrite_kept hl h0)
    | with_reducible apply Kept.step endPull_kept
    | with_reducible apply Kept.ite
    | (fail_if_no_progress ((with_reducible apply Kept.put_res); decide; with_reducible exact rfl))
    | with_reducible apply Kept.next
    | decide
    | (intro _; intros; try dsimp only)

theorem applyTable_kept {r : List Byte} {s : State} : Kept [.svc, .fwd, .res, .out, .tables] s (applyTable r s) := by
  unfold applyTable
  try dsimp only
  repeat' first
    | with_reducible exact Kept.refl _
    | with_reducible exact Kept.idRefl
    | with_reducible apply Kept.step fwdDoRepair_kept
    | with_reducible apply Kept.step fwdDoCordon_kept
    | with_reducible apply Kept.step fwdDoUncordon_kept
    | with_reducible apply Kept.ite
    | with_reducible apply Kept.iteFst
    | decide
    | (with_reducible apply Kept.ofFst; with_reducible assumption)
    | (intro _; intros; try dsimp only)
    | dsimp only
    | split

theorem applyTf_kept {r : List Byte} {s : State} : Kept [.svc, .mil, .res, .out] s (applyTf r s) := by
  unfold applyTf
  try dsimp only
  repeat' first
    | with_reducible exact Kept.refl _
    | with_reducible exact Kept.idRefl
    | with_reducible apply Kept.step journal_kept
    | (fail_if_no_progress ((with_reducible apply Kept.put_mil); decide))
    | decide

theorem applyCb_kept {r : List Byte} {s : State} : Kept [.svc, .mil, .res, .out] s (applyCb r s) := by
  unfold applyCb
  try dsimp only
  repeat' first
    | with_reducible exact Kept.refl _
    | with_reducible exact Kept.idRefl
    | with_reducible apply Kept.step journal_kept
    | with_reducible apply Kept.ite
    | (fail_if_no_progress ((with_reducible apply Kept.put_mil); decide))
    | decide

theorem applyInstall_kept {r : List Byte} {s : State} : Kept [.hst, .lnk, .srd, .svc, .fwd, .swc, .tmb, .lnd, .mil, .mem, .res, .tly, .nv, .ram, .out] s (applyInstall r s) := by
  unfold applyInstall
  try dsimp only
  repeat' first
    | with_reducible exact Kept.refl _
    | with_reducible exact Kept.idRefl
    | with_reducible apply Kept.step installRaw_kept
    | with_reducible apply Kept.ite
    | with_reducible apply Kept.iteFst
    | (fail_if_no_progress ((with_reducible apply Kept.put_res); decide; with_reducible exact rfl))
    | decide

theorem applyWithdraw_kept {r : List Byte} {s : State} : Kept [.svc, .lnd, .res, .out] s (applyWithdraw r s) := by
  unfold applyWithdraw
  try dsimp only
  repeat' first
    | with_reducible exact Kept.refl _
    | with_reducible exact Kept.idRefl
    | with_reducible apply Kept.step journal_kept
    | with_reducible apply Kept.step State.setCtx_kept
    | decide
    | (intro _; intros; try dsimp only)
    | dsimp only
    | split

theorem applyBind_kept {r : List Byte} {s : State} : Kept [.svc, .mil, .res, .out] s (applyBind r s) := by
  unfold applyBind
  try dsimp only
  repeat' first
    | with_reducible exact Kept.refl _
    | with_reducible exact Kept.idRefl
    | with_reducible apply Kept.step doBind_kept
    | with_reducible apply Kept.ite
    | (fail_if_no_progress ((with_reducible apply Kept.put_mil); decide))
    | (fail_if_no_progress ((with_reducible apply Kept.put_res); decide; with_reducible exact rfl))
    | (fail_if_no_progress ((with_reducible apply Kept.put); (intro b hb; cases b <;> first | exact rfl | exact absurd (by decide) hb)))
    | decide

theorem applyRec_kept {r : List Byte} {s : State} : Kept [.hst, .lnk, .srd, .svc, .fwd, .swc, .tmb, .lnd, .mil, .mem, .res, .tly, .nv, .ram, .out, .tables] s (applyRec r s) := by
  unfold applyRec
  try dsimp only
  repeat' first
    | with_reducible exact Kept.refl _
    | with_reducible exact Kept.idRefl
    | with_reducible apply Kept.step applyTable_kept
    | with_reducible apply Kept.step applyTf_kept
    | with_reducible apply Kept.step applyCb_kept
    | with_reducible apply Kept.step applyInstall_kept
    | with_reducible apply Kept.step applyWithdraw_kept
    | with_reducible apply Kept.step applyBind_kept
    | (fail_if_no_progress ((with_reducible apply Kept.put_res); decide; with_reducible exact rfl))
    | decide
    | (intro _; intros; try dsimp only)
    | dsimp only
    | split

theorem twinMsg_kept {lane : Fin 2} {type : Nat} {b : List Byte} {f : State → State} {s : State} {L : List Blk} (hL : [.svc, .out] ⊆ L) (hf : ∀ t, Kept L t (f t)) : Kept L s (twinMsg lane type b f s) := by
  unfold twinMsg
  try dsimp only
  repeat' first
    | with_reducible exact Kept.refl _
    | with_reducible exact Kept.idRefl
    | with_reducible apply fun h => Kept.trans h (hf _)
    | with_reducible apply Kept.step sendRing_kept
    | with_reducible apply Kept.ite
    | exact List.Subset.trans (by decide) hL

theorem answerPull_kept {lane : Fin 2} {b : List Byte} {s : State} : Kept [.svc, .out] s (answerPull lane b s) := by
  unfold answerPull
  try dsimp only
  repeat' first
    | with_reducible exact Kept.refl _
    | with_reducible exact Kept.idRefl
    | with_reducible apply Kept.step sendRing_kept
    | with_reducible apply Kept.step sendSnaps_kept
    | with_reducible apply Kept.ite
    | decide
    | (intro _; intros; try dsimp only)
    | dsimp only
    | split

theorem execPullRequest_kept {lane : Fin 2} {codes : List Code} {s : State} : KeptOut [.svc, .tly, .out] s (execPullRequest lane codes s) := by
  unfold execPullRequest
  try dsimp only
  repeat' first
    | with_reducible exact Kept.refl _
    | with_reducible exact Kept.idRefl
    | with_reducible apply fun hl h0 h => Kept.trans h (onRing_kept hl h0)
    | with_reducible apply fun hl h0 h => Kept.trans h (twinMsg_kept hl h0)
    | with_reducible apply Kept.step answerPull_kept
    | with_reducible apply Kept.next
    | decide
    | (intro _; intros; try dsimp only)

theorem sendSnapshot_kept {own : MirOwn} {s : State} : Kept [.svc, .res, .out] s (sendSnapshot own s) := by
  unfold sendSnapshot
  try dsimp only
  repeat' first
    | with_reducible exact Kept.refl _
    | with_reducible exact Kept.idRefl
    | with_reducible apply fun hf h => Kept.trans h (forEach_kept hf)
    | with_reducible apply Kept.step sendJrnl_kept
    | (fail_if_no_progress ((with_reducible apply Kept.put_res); decide; with_reducible exact rfl))
    | decide
    | (intro _; intros; try dsimp only)

theorem mirrorAcked_kept {lane : Fin 2} {b : List Byte} {s : State} : Kept [.svc, .res, .out] s (mirrorAcked lane b s) := by
  unfold mirrorAcked
  try dsimp only
  repeat' first
    | with_reducible exact Kept.refl _
    | with_reducible exact Kept.idRefl
    | with_reducible apply Kept.step sendSnapshot_kept
    | with_reducible apply Kept.step sendJrnl_kept
    | with_reducible apply Kept.ite
    | (fail_if_no_progress ((with_reducible apply Kept.put_res); decide; with_reducible exact rfl))
    | decide

theorem execJrnlAck_kept {lane : Fin 2} {codes : List Code} {s : State} : KeptOut [.svc, .res, .tly, .out] s (execJrnlAck lane codes s) := by
  unfold execJrnlAck
  try dsimp only
  repeat' first
    | with_reducible exact Kept.refl _
    | with_reducible exact Kept.idRefl
    | with_reducible apply fun hl h0 h => Kept.trans h (onRing_kept hl h0)
    | with_reducible apply fun hl h0 h => Kept.trans h (twinMsg_kept hl h0)
    | with_reducible apply Kept.step mirrorAcked_kept
    | with_reducible apply Kept.next
    | decide
    | (intro _; intros; try dsimp only)

theorem startMirror_kept {s : State} : Kept [.svc, .res, .out] s (startMirror s) := by
  unfold startMirror
  try dsimp only
  repeat' first
    | with_reducible exact Kept.refl _
    | with_reducible exact Kept.idRefl
    | with_reducible apply Kept.step sendSnapshot_kept
    | with_reducible apply Kept.ite
    | (fail_if_no_progress ((with_reducible apply Kept.put_res); decide; with_reducible exact rfl))
    | decide

theorem execPullTimeout_kept {dt : Nat} {s : State} : KeptOut [.hst, .tmb, .res, .tly, .clk, .out] s (execPullTimeout dt s) := by
  unfold execPullTimeout
  try dsimp only
  repeat' first
    | with_reducible exact Kept.refl _
    | with_reducible exact Kept.idRefl
    | with_reducible apply Kept.step elapse_kept
    | with_reducible apply Kept.step endPull_kept
    | with_reducible apply Kept.ite
    | with_reducible apply Kept.next
    | decide
    | (intro _; intros; try dsimp only)
    | dsimp only
    | split

theorem takeRec_kept {r : List Byte} {s : State} : Kept [.hst, .lnk, .srd, .svc, .fwd, .swc, .tmb, .lnd, .mil, .mem, .res, .tly, .nv, .ram, .out, .tables] s (takeRec r s) := by
  unfold takeRec
  try dsimp only
  repeat' first
    | with_reducible exact Kept.refl _
    | with_reducible exact Kept.idRefl
    | with_reducible apply Kept.step applyRec_kept
    | with_reducible apply Kept.ite
    | (fail_if_no_progress ((with_reducible apply Kept.put_res); decide; with_reducible exact rfl))
    | decide
    | (intro _; intros; try dsimp only)
    | dsimp only
    | split

theorem pullMsg_kept {lane : Fin 2} {type : Nat} {b : List Byte} {f : PullOp → State → State} {s : State} {L : List Blk} (hL : [.svc, .out] ⊆ L) (hf : ∀ x0 t, Kept L t (f x0 t)) : Kept L s (pullMsg lane type b f s) := by
  unfold pullMsg
  try dsimp only
  repeat' first
    | with_reducible exact Kept.refl _
    | with_reducible exact Kept.idRefl
    | with_reducible apply fun h => Kept.trans h (hf _ _)
    | with_reducible apply fun hl h0 h => Kept.trans h (twinMsg_kept hl h0)
    | with_reducible apply Kept.ite
    | exact List.Subset.trans (by decide) hL
    | exact hL (by decide)
    | exact hL
    | (intro _; intros; try dsimp only)
    | dsimp only
    | split

theorem execNack_kept {lane : Fin 2} {codes : List Code} {s : State} : KeptOut [.hst, .svc, .res, .tly, .out] s (execNack lane codes s) := by
  unfold execNack
  try dsimp only
  repeat' first
    | with_reducible exact Kept.refl _
    | with_reducible exact Kept.idRefl
    | with_reducible apply fun hl h0 h => Kept.trans h (onRing_kept hl h0)
    | with_reducible apply fun hl h0 h => Kept.trans h (pullMsg_kept hl h0)
    | with_reducible apply Kept.step endPull_kept
    | with_reducible apply Kept.next
    | decide
    | (intro _; intros; try dsimp only)

theorem execHdr_kept {lane : Fin 2} {codes : List Code} {s : State} : KeptOut [.hst, .svc, .res, .tly, .out] s (execHdr lane codes s) := by
  unfold execHdr
  try dsimp only
  repeat' first
    | with_reducible exact Kept.refl _
    | with_reducible exact Kept.idRefl
    | with_reducible apply fun hl h0 h => Kept.trans h (onRing_kept hl h0)
    | with_reducible apply fun hl h0 h => Kept.trans h (pullMsg_kept hl h0)
    | with_reducible apply Kept.step endPull_kept
    | with_reducible apply Kept.ite
    | (fail_if_no_progress ((with_reducible apply Kept.put_res); decide; with_reducible exact rfl))
    | with_reducible apply Kept.next
    | decide
    | (intro _; intros; try dsimp only)

theorem takeJournal_kept {lane : Fin 2} {b : List Byte} {s : State} : Kept [.res, .ram] s (takeJournal lane b s) := by
  unfold takeJournal
  try dsimp only
  repeat' first
    | with_reducible exact Kept.refl _
    | with_reducible exact Kept.idRefl
    | with_reducible apply Kept.step wrMem_kept
    | with_reducible apply Kept.step State.setMirror_kept
    | with_reducible apply Kept.ite
    | decide

theorem execTwinSnap_kept {lane : Fin 2} {codes : List Code} {s : State} : KeptOut [.hst, .lnk, .srd, .svc, .fwd, .swc, .tmb, .lnd, .mil, .mem, .res, .tly, .nv, .ram, .out, .tables] s (execTwinSnap lane codes s) := by
  unfold execTwinSnap
  try dsimp only
  repeat' first
    | with_reducible exact Kept.refl _
    | with_reducible exact Kept.idRefl
    | with_reducible apply fun hl h0 h => Kept.trans h (onRing_kept hl h0)
    | with_reducible apply fun hl h0 h => Kept.trans h (pullMsg_kept hl h0)
    | with_reducible apply fun hf h => Kept.trans h (forEach_kept hf)
    | with_reducible apply Kept.step takeRec_kept
    | with_reducible apply Kept.ite
    | (fail_if_no_progress ((with_reducible apply Kept.put_res); decide; with_reducible exact rfl))
    | with_reducible apply Kept.next
    | decide
    | (intro _; intros; try dsimp only)

theorem execTwinEnd_kept {lane : Fin 2} {codes : List Code} {s : State} : KeptOut [.hst, .svc, .res, .tly, .out] s (execTwinEnd lane codes s) := by
  unfold execTwinEnd
  try dsimp only
  repeat' first
    | with_reducible exact Kept.refl _
    | with_reducible exact Kept.idRefl
    | with_reducible apply fun hl h0 h => Kept.trans h (onRing_kept hl h0)
    | with_reducible apply fun hl h0 h => Kept.trans h (pullMsg_kept hl h0)
    | with_reducible apply Kept.step endPull_kept
    | with_reducible apply Kept.ite
    | (fail_if_no_progress ((with_reducible apply Kept.put_res); decide; with_reducible exact rfl))
    | with_reducible apply Kept.next
    | decide
    | (intro _; intros; try dsimp only)

theorem execJrnl_kept {lane : Fin 2} {codes : List Code} {s : State} : KeptOut [.svc, .res, .tly, .ram, .out] s (execJrnl lane codes s) := by
  unfold execJrnl
  try dsimp only
  repeat' first
    | with_reducible exact Kept.refl _
    | with_reducible exact Kept.idRefl
    | with_reducible apply fun hl h0 h => Kept.trans h (onRing_kept hl h0)
    | with_reducible apply fun hl h0 h => Kept.trans h (twinMsg_kept hl h0)
    | with_reducible apply Kept.step takeJournal_kept
    | with_reducible apply Kept.next
    | decide
    | (intro _; intros; try dsimp only)

theorem beginLane_kept {l : Nat} {s : State} : Kept [.srd, .opt] s (beginLane l s) := by
  unfold beginLane
  try dsimp only
  repeat' first
    | with_reducible exact Kept.refl _
    | with_reducible exact Kept.idRefl
    | with_reducible apply Kept.step State.setLane_kept
    | with_reducible apply Kept.step State.modPath_kept
    | with_reducible apply Kept.ite
    | decide
    | (intro _; intros; try dsimp only)
    | dsimp only
    | split

theorem validate_kept {part : Bool} {want : Option Nat} {room : Nat} {staged : List Byte} {s : State} : Kept [.glb, .plt, .hst, .lnk, .srd, .svc, .fwd, .swc, .tmb, .lnd, .mil, .mem, .opt, .res, .sec, .tly, .nv, .ram, .out, .lease, .keys] s (validate part want room staged s).1 := by
  unfold validate
  try dsimp only
  repeat' first
    | with_reducible exact Kept.refl _
    | with_reducible exact Kept.idRefl
    | with_reducible apply Kept.step sigFail_kept
    | with_reducible apply Kept.step sigGood_kept
    | with_reducible apply Kept.ite
    | with_reducible apply Kept.iteFst
    | decide
    | (intro _; intros; try dsimp only)
    | dsimp only
    | split

theorem notePltCtrl_kept {src : BitVec 2} {district : BitVec 4} {s : State} : Kept [.plt] s (notePltCtrl src district s) := by
  unfold notePltCtrl
  try dsimp only
  repeat' first
    | with_reducible exact Kept.refl _
    | with_reducible exact Kept.idRefl
    | (fail_if_no_progress ((with_reducible apply Kept.put_plt); decide; with_reducible exact rfl))

theorem platEnds_kept {e : PErr} {s : State} : Kept [.plt, .hst, .out] s (platEnds e s) := by
  unfold platEnds
  try dsimp only
  repeat' first
    | with_reducible exact Kept.refl _
    | with_reducible exact Kept.idRefl
    | with_reducible apply Kept.step fire_kept
    | (fail_if_no_progress ((with_reducible apply Kept.put_plt); decide; with_reducible exact rfl))
    | decide

theorem execPlatAbort_kept {p : HPort} {s : State} : KeptOut [.plt, .hst, .tly, .out] s (execPlatAbort p s) := by
  unfold execPlatAbort
  try dsimp only
  repeat' first
    | with_reducible exact Kept.refl _
    | with_reducible exact Kept.idRefl
    | with_reducible apply fun hl h0 h => Kept.trans h (hostWrite_kept hl h0)
    | with_reducible apply Kept.step platEnds_kept
    | with_reducible apply Kept.step State.setDist_kept
    | with_reducible apply Kept.ite
    | (fail_if_no_progress ((with_reducible apply Kept.put_plt); decide; with_reducible exact rfl))
    | with_reducible apply Kept.next
    | decide
    | (intro _; intros; try dsimp only)
    | dsimp only
    | split

theorem activate_kept {slot : Nat} {fallback : Bool} {b : List Byte} {s : State} : Kept [.plt, .sec, .plat] s (activate slot fallback b s) := by
  unfold activate
  try dsimp only
  repeat' first
    | with_reducible exact Kept.refl _
    | with_reducible exact Kept.idRefl
    | with_reducible apply Kept.step extend_kept
    | with_reducible apply Kept.ite
    | (fail_if_no_progress ((with_reducible apply Kept.put_plt); decide; with_reducible exact rfl))
    | (fail_if_no_progress ((with_reducible apply Kept.put_plt_plat); decide; decide))
    | decide

theorem repairBank_kept {i : Nat} {s : State} : Kept [.hst, .lnk, .srd, .swc, .lnd, .mil, .res, .out] s (repairBank i s) := by
  unfold repairBank
  try dsimp only
  repeat' first
    | with_reducible exact Kept.refl _
    | with_reducible exact Kept.idRefl
    | with_reducible apply Kept.step undoDrain_kept
    | with_reducible apply Kept.step State.modPart_kept
    | with_reducible apply Kept.step raiseCruise_kept
    | with_reducible apply Kept.step returnPart_kept
    | with_reducible apply Kept.ite
    | decide

theorem repairBanks_kept {d : Option Nat} {s : State} : Kept [.hst, .lnk, .srd, .swc, .lnd, .mil, .res, .out] s (repairBanks d s) := by
  unfold repairBanks
  try dsimp only
  repeat' first
    | with_reducible exact Kept.refl _
    | with_reducible exact Kept.idRefl
    | with_reducible apply fun hf h => Kept.trans h (forEach_kept hf)
    | with_reducible apply Kept.step repairBank_kept
    | decide
    | (intro _; intros; try dsimp only)

theorem beginSvc_kept {n : Nat} {s : State} : Kept [.svc] s (beginSvc n s) := by
  unfold beginSvc
  try dsimp only
  repeat' first
    | with_reducible exact Kept.refl _
    | with_reducible exact Kept.idRefl
    | with_reducible apply Kept.step State.modSvc_kept
    | with_reducible apply Kept.ite
    | decide

theorem beginEngine_kept {e : Nat} {s : State} : Kept [.opt] s (beginEngine e s) := by
  unfold beginEngine
  try dsimp only
  repeat' first
    | with_reducible exact Kept.refl _
    | with_reducible exact Kept.idRefl
    | with_reducible apply Kept.step State.modEngine_kept
    | with_reducible apply Kept.ite
    | decide

theorem beginBlock_kept {s : State} : Kept [.tmb] s (beginBlock s) := by
  unfold beginBlock
  try dsimp only
  repeat' first
    | with_reducible exact Kept.refl _
    | with_reducible exact Kept.idRefl
    | with_reducible apply Kept.ite
    | (fail_if_no_progress ((with_reducible apply Kept.put_tmb); decide; with_reducible exact rfl))

theorem beginTables_kept {s : State} : Kept [.plt, .fwd, .tables] s (beginTables s) := by
  unfold beginTables
  try dsimp only
  repeat' first
    | with_reducible exact Kept.refl _
    | with_reducible exact Kept.idRefl
    | with_reducible apply Kept.ite
    | (fail_if_no_progress ((with_reducible apply Kept.put_plt); decide; with_reducible exact rfl))
    | (fail_if_no_progress ((with_reducible apply Kept.put_fwd); decide; with_reducible exact rfl))
    | (fail_if_no_progress ((with_reducible apply Kept.put_fwd_tables); decide; decide))
    | (fail_if_no_progress ((with_reducible apply Kept.put); (intro b hb; cases b <;> first | exact rfl | exact absurd (by decide) hb)))

theorem bringUp_kept {s : State} : Kept [.glb, .plt, .hst, .lnk, .srd, .svc, .fwd, .swc, .tmb, .lnd, .mil, .opt, .res, .out, .tables] s (bringUp s) := by
  unfold bringUp
  try dsimp only
  repeat' first
    | with_reducible exact Kept.refl _
    | with_reducible exact Kept.idRefl
    | with_reducible apply Kept.step repairBanks_kept
    | with_reducible apply fun hf h => Kept.trans h (forEach_kept hf)
    | with_reducible apply Kept.step State.setDist_kept
    | with_reducible apply Kept.step beginLane_kept
    | with_reducible apply Kept.step beginSvc_kept
    | with_reducible apply Kept.step beginEngine_kept
    | with_reducible apply Kept.step startMirror_kept
    | with_reducible apply Kept.step beginBlock_kept
    | with_reducible apply Kept.step beginTables_kept
    | with_reducible apply Kept.step setDev_kept
    | with_reducible apply Kept.step startTraining_kept
    | decide
    | (intro _; intros; try dsimp only)

theorem amendDistrict_kept {b : List Byte} {s : State} : Kept [.plt, .sec, .plat] s (amendDistrict b s) := by
  unfold amendDistrict
  try dsimp only
  repeat' first
    | with_reducible exact Kept.refl _
    | with_reducible exact Kept.idRefl
    | with_reducible apply Kept.step extend_kept
    | (fail_if_no_progress ((with_reducible apply Kept.put_plt); decide; with_reducible exact rfl))
    | (fail_if_no_progress ((with_reducible apply Kept.put_plt_plat); decide; decide))
    | decide

theorem amendPlat_kept {b : List Byte} {s : State} : Kept [.plt, .plat] s (amendPlat b s) := by
  unfold amendPlat
  try dsimp only
  repeat' first
    | with_reducible exact Kept.refl _
    | with_reducible exact Kept.idRefl
    | (fail_if_no_progress ((with_reducible apply Kept.put_plt); decide; with_reducible exact rfl))
    | (fail_if_no_progress ((with_reducible apply Kept.put_plt_plat); decide; decide))

theorem bootPartial_kept {d : Nat} {s : State} : Kept [.glb, .plt, .hst, .lnk, .srd, .svc, .fwd, .swc, .tmb, .lnd, .mil, .mem, .opt, .res, .sec, .tly, .nv, .ram, .out, .lease, .keys, .plat] s (bootPartial d s) := by
  unfold bootPartial
  try dsimp only
  repeat' first
    | with_reducible exact Kept.refl _
    | with_reducible exact Kept.idRefl
    | with_reducible apply Kept.step validate_kept
    | with_reducible apply Kept.step amendDistrict_kept
    | with_reducible apply Kept.step amendPlat_kept
    | with_reducible apply Kept.ite
    | with_reducible apply Kept.iteFst
    | decide
    | (with_reducible apply Kept.ofFst; with_reducible assumption)
    | (intro _; intros; try dsimp only)
    | dsimp only
    | split

theorem bootWith_kept {slot : Bool} {fallback : Bool} {b : List Byte} {s : State} : Kept [.glb, .plt, .hst, .lnk, .srd, .svc, .fwd, .swc, .tmb, .lnd, .mil, .mem, .opt, .res, .sec, .tly, .nv, .ram, .out, .lease, .tables, .keys, .plat] s (bootWith slot fallback b s) := by
  unfold bootWith
  try dsimp only
  repeat' first
    | with_reducible exact Kept.refl _
    | with_reducible exact Kept.idRefl
    | with_reducible apply Kept.step activate_kept
    | with_reducible apply Kept.step platEnds_kept
    | with_reducible apply Kept.step bringUp_kept
    | with_reducible apply fun hf h => Kept.trans h (forEach_kept hf)
    | with_reducible apply Kept.step bootPartial_kept
    | decide
    | (intro _; intros; try dsimp only)

theorem bootPlat_kept {s : State} : Kept [.glb, .plt, .hst, .lnk, .srd, .svc, .fwd, .swc, .tmb, .lnd, .mil, .mem, .opt, .res, .sec, .tly, .nv, .ram, .out, .lease, .tables, .keys, .plat] s (bootPlat s) := by
  unfold bootPlat
  try dsimp only
  repeat' first
    | with_reducible exact Kept.refl _
    | with_reducible exact Kept.idRefl
    | with_reducible apply Kept.step validate_kept
    | with_reducible apply Kept.step bootWith_kept
    | with_reducible apply Kept.step platEnds_kept
    | with_reducible apply Kept.ite
    | with_reducible apply Kept.iteFst
    | decide
    | (with_reducible apply Kept.ofFst; with_reducible assumption)
    | (intro _; intros; try dsimp only)
    | dsimp only
    | split

theorem startReplat_kept {b : List Byte} {s : State} : Kept [.plt, .hst, .lnk, .srd, .svc, .fwd, .swc, .tmb, .lnd, .mil, .mem, .opt, .res, .tly, .nv, .ram, .out] s (startReplat b s) := by
  unfold startReplat
  try dsimp only
  repeat' first
    | with_reducible exact Kept.refl _
    | with_reducible exact Kept.idRefl
    | with_reducible apply Kept.step State.setDist_kept
    | with_reducible apply Kept.step flushReorder_kept
    | with_reducible apply fun hf h => Kept.trans h (forEach_kept hf)
    | with_reducible apply fun hl h0 h => Kept.trans h (purgeFifo_kept hl h0)
    | with_reducible apply Kept.step discard_kept
    | with_reducible apply Kept.step abortRecal_kept
    | with_reducible apply Kept.step flyEndAll_kept
    | (fail_if_no_progress ((with_reducible apply Kept.put_plt); decide; with_reducible exact rfl))
    | decide
    | (intro _; intros; try dsimp only)

theorem loadPlat_kept {src : Nat} {d : Nat} {s : State} : Kept [.glb, .plt, .hst, .lnk, .srd, .svc, .fwd, .swc, .tmb, .lnd, .mil, .mem, .opt, .res, .sec, .tly, .nv, .ram, .out, .lease, .tables, .keys, .plat] s (loadPlat src d s) := by
  unfold loadPlat
  try dsimp only
  repeat' first
    | with_reducible exact Kept.refl _
    | with_reducible exact Kept.idRefl
    | with_reducible apply Kept.step platEnds_kept
    | with_reducible apply Kept.step validate_kept
    | with_reducible apply Kept.step startReplat_kept
    | with_reducible apply Kept.step bringUp_kept
    | with_reducible apply Kept.step activate_kept
    | with_reducible apply Kept.ite
    | with_reducible apply Kept.iteFst
    | decide
    | (with_reducible apply Kept.ofFst; with_reducible assumption)
    | (intro _; intros; try dsimp only)
    | dsimp only
    | split

theorem execReplatApplyDone_kept {d : Fin 16} {s : State} : KeptOut [.plt, .hst, .lnk, .srd, .sec, .out, .plat] s (execReplatApplyDone d s) := by
  unfold execReplatApplyDone
  try dsimp only
  repeat' first
    | with_reducible exact Kept.refl _
    | with_reducible exact Kept.idRefl
    | with_reducible apply Kept.step amendDistrict_kept
    | with_reducible apply Kept.step State.setDist_kept
    | with_reducible apply fun hf h => Kept.trans h (forEach_kept hf)
    | with_reducible apply Kept.step startTraining_kept
    | with_reducible apply Kept.ite
    | with_reducible apply Kept.next
    | decide
    | (intro _; intros; try dsimp only)
    | dsimp only
    | split

theorem execBootPlatLoad_kept {s : State} : KeptOut [.glb, .plt, .hst, .lnk, .srd, .svc, .fwd, .swc, .tmb, .lnd, .mil, .mem, .opt, .res, .sec, .tly, .nv, .ram, .out, .lease, .tables, .keys, .plat] s (execBootPlatLoad s) := by
  unfold execBootPlatLoad
  try dsimp only
  repeat' first
    | with_reducible exact Kept.refl _
    | with_reducible exact Kept.idRefl
    | with_reducible apply Kept.step bootPlat_kept
    | with_reducible apply Kept.next
    | decide

theorem replatLane_kept {l : Nat} {s : State} : Kept [.srd, .opt] s (replatLane l s) := by
  unfold replatLane
  try dsimp only
  repeat' first
    | with_reducible exact Kept.refl _
    | with_reducible exact Kept.idRefl
    | with_reducible apply Kept.step beginLane_kept
    | with_reducible apply Kept.step State.modLane_kept
    | with_reducible apply Kept.step State.modPath_kept
    | with_reducible apply Kept.ite
    | decide
    | (intro _; intros; try dsimp only)
    | dsimp only
    | split

theorem enterReplat_kept {d : Nat} {b : List Byte} {s : State} : Kept [.plt, .hst, .lnk, .srd, .svc, .fwd, .swc, .tmb, .lnd, .mil, .mem, .opt, .res, .tly, .nv, .ram, .out, .plat] s (enterReplat d b s) := by
  unfold enterReplat
  try dsimp only
  repeat' first
    | with_reducible exact Kept.refl _
    | with_reducible exact Kept.idRefl
    | with_reducible apply Kept.step State.setDist_kept
    | with_reducible apply fun hf h => Kept.trans h (forEach_kept hf)
    | with_reducible apply Kept.step State.modLink_kept
    | with_reducible apply Kept.step portDown_kept
    | with_reducible apply Kept.step setRo_kept
    | with_reducible apply Kept.step repairBanks_kept
    | with_reducible apply Kept.step amendPlat_kept
    | with_reducible apply Kept.step State.setLink_kept
    | with_reducible apply Kept.step replatLane_kept
    | with_reducible apply Kept.step lightPath_kept
    | with_reducible apply Kept.ite
    | decide
    | (intro _; intros; try dsimp only)

theorem execDistrictDrainDone_kept {d : Fin 16} {s : State} : KeptOut [.plt, .hst, .lnk, .srd, .svc, .fwd, .swc, .tmb, .lnd, .mil, .mem, .opt, .res, .tly, .nv, .ram, .out, .plat] s (execDistrictDrainDone d s) := by
  unfold execDistrictDrainDone
  try dsimp only
  repeat' first
    | with_reducible exact Kept.refl _
    | with_reducible exact Kept.idRefl
    | with_reducible apply Kept.step enterReplat_kept
    | with_reducible apply Kept.ite
    | with_reducible apply Kept.next
    | decide
    | (intro _; intros; try dsimp only)
    | dsimp only
    | split

theorem execPlatLoad_kept {p : HPort} {src : BitVec 2} {district : BitVec 4} {s : State} : KeptOut [.glb, .plt, .hst, .lnk, .srd, .svc, .fwd, .swc, .tmb, .lnd, .mil, .mem, .opt, .res, .sec, .tly, .nv, .ram, .out, .lease, .tables, .keys, .plat] s (execPlatLoad p src district s) := by
  unfold execPlatLoad
  try dsimp only
  repeat' first
    | with_reducible exact Kept.refl _
    | with_reducible exact Kept.idRefl
    | with_reducible apply fun hl h0 h => Kept.trans h (hostWrite_kept hl h0)
    | with_reducible apply Kept.step notePltCtrl_kept
    | with_reducible apply Kept.step loadPlat_kept
    | with_reducible apply Kept.ite
    | (fail_if_no_progress ((with_reducible apply Kept.put_plt); decide; with_reducible exact rfl))
    | with_reducible apply Kept.next
    | decide
    | (intro _; intros; try dsimp only)

theorem execDistrictTrained_kept {d : Fin 16} {s : State} : KeptOut [.plt, .hst, .out] s (execDistrictTrained d s) := by
  unfold execDistrictTrained
  try dsimp only
  repeat' first
    | with_reducible exact Kept.refl _
    | with_reducible exact Kept.idRefl
    | with_reducible apply Kept.step platEnds_kept
    | with_reducible apply Kept.step State.setDist_kept
    | with_reducible apply Kept.ite
    | (fail_if_no_progress ((with_reducible apply Kept.put_plt); decide; with_reducible exact rfl))
    | with_reducible apply Kept.next
    | decide
    | (intro _; intros; try dsimp only)
    | dsimp only
    | split

theorem tryStart_kept {s : State} : Kept [.pwr] s (tryStart s) := by
  unfold tryStart
  try dsimp only
  repeat' first
    | with_reducible exact Kept.refl _
    | with_reducible exact Kept.idRefl
    | with_reducible apply Kept.ite
    | (fail_if_no_progress ((with_reducible apply Kept.put_pwr); decide))

theorem supplyOn_kept {s : State} : Kept [.pwr] s (supplyOn s) := by
  unfold supplyOn
  try dsimp only
  repeat' first
    | with_reducible exact Kept.refl _
    | with_reducible exact Kept.idRefl
    | with_reducible apply Kept.step tryStart_kept
    | (fail_if_no_progress ((with_reducible apply Kept.put_pwr); decide))
    | decide

theorem execVinReturn_kept {s : State} : KeptOut [.pwr] s (execVinReturn s) := by
  unfold execVinReturn
  try dsimp only
  repeat' first
    | with_reducible exact Kept.refl _
    | with_reducible exact Kept.idRefl
    | with_reducible apply Kept.step supplyOn_kept
    | with_reducible apply Kept.ite
    | with_reducible apply Kept.next
    | decide

theorem deviceReset_kept {cause : Nat} {s : State} : Kept [.glb, .plt, .hst, .lnk, .srd, .svc, .eye, .fwd, .swc, .tmb, .lnd, .mil, .mem, .opt, .res, .sec, .tly, .pwr, .ram, .lease, .own, .fw, .tables, .timetable, .plat] s (deviceReset cause s) := by
  exact ⟨fun b hb => by cases b <;> first | exact rfl | exact absurd (by decide) hb, rfl, rfl, Nat.le_refl _, id,
    Nat.le_refl _, List.suffix_refl _, rfl, fun _ => rfl, id⟩

theorem tripCheck_kept {s : State} : Kept [.glb, .plt, .hst, .lnk, .srd, .svc, .eye, .fwd, .swc, .tmb, .lnd, .mil, .mem, .opt, .res, .sec, .tly, .pwr, .ram, .lease, .own, .fw, .tables, .timetable, .plat] s (tripCheck s) := by
  unfold tripCheck
  try dsimp only
  repeat' first
    | with_reducible exact Kept.refl _
    | with_reducible exact Kept.idRefl
    | with_reducible apply Kept.step deviceReset_kept
    | with_reducible apply Kept.step tryStart_kept
    | with_reducible apply Kept.ite
    | (fail_if_no_progress ((with_reducible apply Kept.put_pwr); decide))
    | decide
    | (intro _; intros; try dsimp only)
    | dsimp only
    | split

theorem sendLeave_kept {s : State} : Kept [.svc, .out] s (sendLeave s) := by
  unfold sendLeave
  try dsimp only
  repeat' first
    | with_reducible exact Kept.refl _
    | with_reducible exact Kept.idRefl
    | with_reducible apply Kept.step sendBoth_kept
    | with_reducible apply Kept.ite
    | decide

theorem verifySlot_kept {slot : Bool} {s : State} : Kept [.glb, .plt, .hst, .lnk, .srd, .svc, .fwd, .swc, .tmb, .lnd, .mil, .mem, .opt, .res, .sec, .tly, .nv, .ram, .out, .lease, .keys] s (verifySlot slot s).1 := by
  unfold verifySlot
  try dsimp only
  repeat' first
    | with_reducible exact Kept.refl _
    | with_reducible exact Kept.idRefl
    | with_reducible apply Kept.step sigGood_kept
    | with_reducible apply Kept.step sigFail_kept
    | with_reducible apply Kept.ite
    | with_reducible apply Kept.iteFst
    | decide
    | (intro _; intros; try dsimp only)
    | dsimp only
    | split

theorem startFirmware_kept {slot : Bool} {s : State} : Kept [.glb, .hst, .res, .sec, .out, .fw] s (startFirmware slot s) := by
  unfold startFirmware
  try dsimp only
  repeat' first
    | with_reducible exact Kept.refl _
    | with_reducible exact Kept.idRefl
    | with_reducible apply Kept.step extend_kept
    | with_reducible apply fun hf h => Kept.trans h (forEach_kept hf)
    | with_reducible apply Kept.step State.modPart_kept
    | with_reducible apply Kept.step setDev_kept
    | with_reducible apply Kept.ite
    | (fail_if_no_progress ((with_reducible apply Kept.put_res); decide; with_reducible exact rfl))
    | (fail_if_no_progress ((with_reducible apply Kept.put_sec); decide; with_reducible exact rfl))
    | (fail_if_no_progress ((with_reducible apply Kept.put_sec_fw); decide; decide))
    | (fail_if_no_progress ((with_reducible apply Kept.put); (intro b hb; cases b <;> first | exact rfl | exact absurd (by decide) hb)))
    | decide
    | (intro _; intros; try dsimp only)

theorem powerGood_kept {s : State} : Kept [.glb, .plt, .hst, .lnk, .srd, .svc, .fwd, .swc, .tmb, .lnd, .mil, .mem, .opt, .res, .sec, .tly, .nv, .ram, .out, .lease, .fw, .keys] s (powerGood s) := by
  unfold powerGood
  try dsimp only
  repeat' first
    | with_reducible exact Kept.refl _
    | with_reducible exact Kept.idRefl
    | with_reducible apply Kept.step extend_kept
    | with_reducible apply Kept.step setDev_kept
    | with_reducible apply Kept.step eraseKeys_kept
    | with_reducible apply Kept.step alarm_kept
    | with_reducible apply Kept.step verifySlot_kept
    | with_reducible apply Kept.step startFirmware_kept
    | with_reducible apply Kept.ite
    | with_reducible apply Kept.iteFst
    | (fail_if_no_progress ((with_reducible apply Kept.put_sec); decide; with_reducible exact rfl))
    | (fail_if_no_progress ((with_reducible apply Kept.put_nv); decide; with_reducible exact rfl))
    | decide
    | (with_reducible apply Kept.ofFst; with_reducible assumption)
    | (intro _; intros; try dsimp only)
    | dsimp only
    | split

theorem execPowerGood_kept {s : State} : KeptOut [.glb, .plt, .hst, .lnk, .srd, .svc, .fwd, .swc, .tmb, .lnd, .mil, .mem, .opt, .res, .sec, .tly, .nv, .ram, .out, .lease, .fw, .keys] s (execPowerGood s) := by
  unfold execPowerGood
  try dsimp only
  repeat' first
    | with_reducible exact Kept.refl _
    | with_reducible exact Kept.idRefl
    | with_reducible apply Kept.step powerGood_kept
    | with_reducible apply Kept.next
    | decide

theorem readSensors_kept {tj : List Half} {s : State} : Kept [.pwr] s (readSensors tj s) := by
  unfold readSensors
  try dsimp only
  repeat' first
    | with_reducible exact Kept.refl _
    | with_reducible exact Kept.idRefl
    | with_reducible apply fun hf h => Kept.trans h (forEach_kept hf)
    | (fail_if_no_progress ((with_reducible apply Kept.put_pwr); decide))
    | decide
    | (intro _; intros; try dsimp only)

theorem execCoolOkRise_kept {s : State} : KeptOut [.pwr] s (execCoolOkRise s) := by
  unfold execCoolOkRise
  try dsimp only
  repeat' first
    | with_reducible exact Kept.refl _
    | with_reducible exact Kept.idRefl
    | with_reducible apply Kept.step tryStart_kept
    | (fail_if_no_progress ((with_reducible apply Kept.put_pwr); decide))
    | with_reducible apply Kept.next
    | decide

theorem coolant_kept {inlet : Half} {outlet : Half} {s : State} : Kept [.pwr] s (coolant inlet outlet s) := by
  unfold coolant
  try dsimp only
  repeat' first
    | with_reducible exact Kept.refl _
    | with_reducible exact Kept.idRefl
    | with_reducible apply Kept.step raisePwr_kept
    | with_reducible apply Kept.ite
    | (fail_if_no_progress ((with_reducible apply Kept.put_pwr); decide))
    | decide

theorem execPowerGovReturn_kept {dt : Nat} {s : State} : KeptOut [.tmb, .tly, .pwr, .clk, .out] s (execPowerGovReturn dt s) := by
  unfold execPowerGovReturn
  try dsimp only
  repeat' first
    | with_reducible exact Kept.refl _
    | with_reducible exact Kept.idRefl
    | with_reducible apply Kept.step elapse_kept
    | with_reducible apply Kept.ite
    | (fail_if_no_progress ((with_reducible apply Kept.put_pwr); decide))
    | with_reducible apply Kept.next
    | decide

theorem supplyLoss_kept {cause : Nat} {to_ : Supply} {fault : Bool} {s : State} : Kept [.glb, .plt, .hst, .lnk, .srd, .svc, .eye, .fwd, .swc, .tmb, .lnd, .mil, .mem, .opt, .res, .sec, .tly, .pwr, .ram, .lease, .own, .fw, .tables, .timetable, .plat] s (supplyLoss cause to_ fault s) := by
  unfold supplyLoss
  try dsimp only
  repeat' first
    | with_reducible exact Kept.refl _
    | with_reducible exact Kept.idRefl
    | with_reducible apply Kept.step deviceReset_kept
    | with_reducible apply Kept.ite
    | (fail_if_no_progress ((with_reducible apply Kept.put_pwr); decide))
    | decide

theorem execUndervoltage_kept {s : State} : KeptOut [.glb, .plt, .hst, .lnk, .srd, .svc, .eye, .fwd, .swc, .tmb, .lnd, .mil, .mem, .opt, .res, .sec, .tly, .pwr, .ram, .lease, .own, .fw, .tables, .timetable, .plat] s (execUndervoltage s) := by
  unfold execUndervoltage
  try dsimp only
  repeat' first
    | with_reducible exact Kept.refl _
    | with_reducible exact Kept.idRefl
    | with_reducible apply Kept.step supplyLoss_kept
    | with_reducible apply Kept.next
    | decide

theorem execVinRise_kept {s : State} : KeptOut [.pwr] s (execVinRise s) := by
  unfold execVinRise
  try dsimp only
  repeat' first
    | with_reducible exact Kept.refl _
    | with_reducible exact Kept.idRefl
    | with_reducible apply Kept.step supplyOn_kept
    | with_reducible apply Kept.ite
    | with_reducible apply Kept.next
    | decide
    | (intro _; intros; try dsimp only)
    | dsimp only
    | split

theorem execResetIn_kept {lowNs : Nat} {s : State} : KeptOut [.glb, .plt, .hst, .lnk, .srd, .svc, .eye, .fwd, .swc, .tmb, .lnd, .mil, .mem, .opt, .res, .sec, .tly, .pwr, .ram, .out, .lease, .own, .fw, .tables, .timetable, .plat] s (execResetIn lowNs s) := by
  unfold execResetIn
  try dsimp only
  repeat' first
    | with_reducible exact Kept.refl _
    | with_reducible exact Kept.idRefl
    | with_reducible apply Kept.step tryStart_kept
    | with_reducible apply Kept.step deviceReset_kept
    | with_reducible apply Kept.step sendLeave_kept
    | with_reducible apply Kept.ite
    | (fail_if_no_progress ((with_reducible apply Kept.put_pwr); decide))
    | with_reducible apply Kept.next
    | decide
    | (intro _; intros; try dsimp only)
    | dsimp only
    | split

theorem execCoolOkFall_kept {s : State} : KeptOut [.pwr] s (execCoolOkFall s) := by
  unfold execCoolOkFall
  try dsimp only
  repeat' first
    | with_reducible exact Kept.refl _
    | with_reducible exact Kept.idRefl
    | with_reducible apply Kept.step raisePwr_kept
    | with_reducible apply Kept.ite
    | (fail_if_no_progress ((with_reducible apply Kept.put_pwr); decide))
    | with_reducible apply Kept.next
    | decide

theorem vinLow_kept {s : State} : Kept [.pwr] s (vinLow s) := by
  unfold vinLow
  try dsimp only
  repeat' first
    | with_reducible exact Kept.refl _
    | with_reducible exact Kept.idRefl
    | with_reducible apply Kept.step raisePwr_kept
    | with_reducible apply Kept.ite
    | (fail_if_no_progress ((with_reducible apply Kept.put_pwr); decide))
    | decide

theorem execVinLow_kept {s : State} : KeptOut [.pwr] s (execVinLow s) := by
  unfold execVinLow
  try dsimp only
  repeat' first
    | with_reducible exact Kept.refl _
    | with_reducible exact Kept.idRefl
    | with_reducible apply Kept.step vinLow_kept
    | with_reducible apply Kept.ite
    | with_reducible apply Kept.next
    | decide

theorem standbyOff_kept {s : State} : Kept [.glb, .plt, .hst, .lnk, .srd, .svc, .eye, .fwd, .swc, .tmb, .lnd, .mil, .mem, .opt, .res, .sec, .tly, .pwr, .ram, .lease, .own, .fw, .tables, .timetable, .plat] s (standbyOff s) := by
  unfold standbyOff
  try dsimp only
  repeat' first
    | with_reducible exact Kept.refl _
    | with_reducible exact Kept.idRefl
    | with_reducible apply Kept.step supplyLoss_kept
    | with_reducible apply Kept.ite
    | (fail_if_no_progress ((with_reducible apply Kept.put_pwr); decide))
    | decide

theorem electrical_kept {vin : Half} {iin : Half} {pin : Half} {vcore : List Half} {s : State} : Kept [.pwr] s (electrical vin iin pin vcore s) := by
  unfold electrical
  try dsimp only
  repeat' first
    | with_reducible exact Kept.refl _
    | with_reducible exact Kept.idRefl
    | with_reducible apply Kept.step vinLow_kept
    | with_reducible apply Kept.ite
    | (fail_if_no_progress ((with_reducible apply Kept.put_pwr); decide))
    | decide

theorem govern_kept {d : Nat} {s : State} : Kept [.res] s (govern d s) := by
  unfold govern
  try dsimp only
  repeat' first
    | with_reducible exact Kept.refl _
    | with_reducible exact Kept.idRefl
    | with_reducible apply Kept.step State.setGov_kept
    | decide

theorem execSensorSample_kept {dt : Nat} {tj : List Half} {inlet : Half} {outlet : Half} {vin : Half} {iin : Half} {pin : Half} {vcore : List Half} {s : State} : KeptOut [.glb, .plt, .hst, .lnk, .srd, .svc, .eye, .fwd, .swc, .tmb, .lnd, .mil, .mem, .opt, .res, .sec, .tly, .pwr, .ram, .clk, .out, .lease, .own, .fw, .tables, .timetable, .plat] s (execSensorSample dt tj inlet outlet vin iin pin vcore s) := by
  unfold execSensorSample
  try dsimp only
  repeat' first
    | with_reducible exact Kept.refl _
    | with_reducible exact Kept.idRefl
    | with_reducible apply Kept.step elapse_kept
    | with_reducible apply Kept.step standbyOff_kept
    | with_reducible apply Kept.step electrical_kept
    | with_reducible apply Kept.step coolant_kept
    | with_reducible apply Kept.step readSensors_kept
    | with_reducible apply Kept.step tripCheck_kept
    | with_reducible apply fun hf h => Kept.trans h (forEach_kept hf)
    | with_reducible apply Kept.step govern_kept
    | with_reducible apply Kept.ite
    | (fail_if_no_progress ((with_reducible apply Kept.put_pwr); decide))
    | with_reducible apply Kept.next
    | decide
    | (intro _; intros; try dsimp only)

theorem execOvervoltage_kept {s : State} : KeptOut [.glb, .plt, .hst, .lnk, .srd, .svc, .eye, .fwd, .swc, .tmb, .lnd, .mil, .mem, .opt, .res, .sec, .tly, .pwr, .ram, .lease, .own, .fw, .tables, .timetable, .plat] s (execOvervoltage s) := by
  unfold execOvervoltage
  try dsimp only
  repeat' first
    | with_reducible exact Kept.refl _
    | with_reducible exact Kept.idRefl
    | with_reducible apply Kept.step supplyLoss_kept
    | with_reducible apply Kept.next
    | decide

theorem execPowerGovWithdraw_kept {dt : Nat} {s : State} : KeptOut [.hst, .lnk, .srd, .swc, .tmb, .lnd, .mil, .res, .tly, .pwr, .nv, .clk, .out] s (execPowerGovWithdraw dt s) := by
  unfold execPowerGovWithdraw
  try dsimp only
  repeat' first
    | with_reducible exact Kept.refl _
    | with_reducible exact Kept.idRefl
    | with_reducible apply Kept.step elapse_kept
    | with_reducible apply Kept.step raisePwr_kept
    | with_reducible apply fun hf h => Kept.trans h (forEach_kept hf)
    | with_reducible apply Kept.step abortEngineTests_kept
    | with_reducible apply Kept.ite
    | (fail_if_no_progress ((with_reducible apply Kept.put_pwr); decide))
    | with_reducible apply Kept.next
    | decide
    | (intro _; intros; try dsimp only)

theorem execOvercurrent_kept {s : State} : KeptOut [.glb, .plt, .hst, .lnk, .srd, .svc, .eye, .fwd, .swc, .tmb, .lnd, .mil, .mem, .opt, .res, .sec, .tly, .pwr, .ram, .lease, .own, .fw, .tables, .timetable, .plat] s (execOvercurrent s) := by
  unfold execOvercurrent
  try dsimp only
  repeat' first
    | with_reducible exact Kept.refl _
    | with_reducible exact Kept.idRefl
    | with_reducible apply Kept.step supplyLoss_kept
    | with_reducible apply Kept.next
    | decide

theorem execClrmax_kept {p : HPort} {s : State} : KeptOut [.hst, .tly, .pwr] s (execClrmax p s) := by
  unfold execClrmax
  try dsimp only
  repeat' first
    | with_reducible exact Kept.refl _
    | with_reducible exact Kept.idRefl
    | with_reducible apply fun hl h0 h => Kept.trans h (hostWrite_kept hl h0)
    | (fail_if_no_progress ((with_reducible apply Kept.put_pwr); decide))
    | with_reducible apply Kept.next
    | decide
    | (intro _; intros; try dsimp only)

theorem grantHost_kept {p : HPort} {s : State} : Kept [.hst, .out, .own] s (grantHost p s) := by
  unfold grantHost
  try dsimp only
  repeat' first
    | with_reducible exact Kept.refl _
    | with_reducible exact Kept.idRefl
    | with_reducible apply Kept.step fireOn_kept
    | with_reducible apply Kept.ite
    | (fail_if_no_progress ((with_reducible apply Kept.put_hst); decide; with_reducible exact rfl))
    | (fail_if_no_progress ((with_reducible apply Kept.put_hst_own); decide; decide))
    | decide
    | (intro _; intros; try dsimp only)
    | dsimp only
    | split

theorem dmaMove_kept {p : HPort} {b : List Byte} {data : List Byte} {started : Nat} {st : Nat} {s : State} : Kept [.ram, .out] s (dmaMove p b data started st s) := by
  unfold dmaMove
  try dsimp only
  repeat' first
    | with_reducible exact Kept.refl _
    | with_reducible exact Kept.idRefl
    | with_reducible apply Kept.step emit_kept
    | with_reducible apply Kept.step wrMem_kept
    | with_reducible apply Kept.ite
    | decide
    | (intro _; intros; try dsimp only)
    | dsimp only
    | split

theorem modDma_kept {p : HPort} {c : Nat} {f : DmaCh → DmaCh} {s : State} : Kept [.hst] s (modDma p c f s) := by
  unfold modDma
  try dsimp only
  repeat' first
    | with_reducible exact Kept.refl _
    | with_reducible exact Kept.idRefl
    | with_reducible apply Kept.step State.modHost_kept
    | decide

theorem dmaDone_kept {p : HPort} {c : Nat} {b : List Byte} {data : List Byte} {started : Nat} {hostErr : Bool} {s : State} : Kept [.hst, .ram, .out] s (dmaDone p c b data started hostErr s) := by
  unfold dmaDone
  try dsimp only
  repeat' first
    | with_reducible exact Kept.refl _
    | with_reducible exact Kept.idRefl
    | with_reducible apply Kept.step dmaMove_kept
    | with_reducible apply Kept.step emit_kept
    | with_reducible apply Kept.step modDma_kept
    | with_reducible apply Kept.step fireOn_kept
    | with_reducible apply Kept.ite
    | decide

theorem hostTake_kept {p : HPort} {st : Nat} {s : State} : Kept [.hst] s (hostTake p st s) := by
  unfold hostTake
  try dsimp only
  repeat' first
    | with_reducible exact Kept.refl _
    | with_reducible exact Kept.idRefl
    | with_reducible apply Kept.step State.modHost_kept
    | decide

theorem endHostLease_kept {s : State} : Kept [.hst, .out, .own] s (endHostLease s) := by
  unfold endHostLease
  try dsimp only
  repeat' first
    | with_reducible exact Kept.refl _
    | with_reducible exact Kept.idRefl
    | with_reducible apply Kept.step grantHost_kept
    | with_reducible apply Kept.step fireOn_kept
    | (fail_if_no_progress ((with_reducible apply Kept.put_hst); decide; with_reducible exact rfl))
    | (fail_if_no_progress ((with_reducible apply Kept.put_hst_own); decide; decide))
    | decide
    | (intro _; intros; try dsimp only)
    | dsimp only
    | split

theorem execHostYield_kept {p : HPort} {s : State} : KeptOut [.hst, .out, .own] s (execHostYield p s) := by
  unfold execHostYield
  try dsimp only
  repeat' first
    | with_reducible exact Kept.refl _
    | with_reducible exact Kept.idRefl
    | with_reducible apply fun hl h0 h => Kept.trans h (portWrite_kept hl h0)
    | with_reducible apply Kept.step hostTake_kept
    | with_reducible apply Kept.step endHostLease_kept
    | with_reducible apply Kept.ite
    | with_reducible apply Kept.next
    | decide
    | (intro _; intros; try dsimp only)

theorem pendClaim_kept {p : HPort} {q : HPort} {s : State} : Kept [.hst, .fresh, .out, .own] s (pendClaim p q s) := by
  unfold pendClaim
  try dsimp only
  repeat' first
    | with_reducible exact Kept.refl _
    | with_reducible exact Kept.idRefl
    | with_reducible apply Kept.step takeFree_kept
    | with_reducible apply Kept.step fireOn_kept
    | with_reducible apply Kept.step hostTake_kept
    | with_reducible apply Kept.step State.modHost_kept
    | (fail_if_no_progress ((with_reducible apply Kept.put_hst); decide; with_reducible exact rfl))
    | (fail_if_no_progress ((with_reducible apply Kept.put_hst_own); decide; decide))
    | decide

theorem renewHost_kept {s : State} : Kept [.hst, .own] s (renewHost s) := by
  unfold renewHost
  try dsimp only
  repeat' first
    | with_reducible exact Kept.refl _
    | with_reducible exact Kept.idRefl
    | (fail_if_no_progress ((with_reducible apply Kept.put_hst); decide; with_reducible exact rfl))
    | (fail_if_no_progress ((with_reducible apply Kept.put_hst_own); decide; decide))

theorem execHostRenew_kept {p : HPort} {s : State} : KeptOut [.hst, .own] s (execHostRenew p s) := by
  unfold execHostRenew
  try dsimp only
  repeat' first
    | with_reducible exact Kept.refl _
    | with_reducible exact Kept.idRefl
    | with_reducible apply fun hl h0 h => Kept.trans h (portWrite_kept hl h0)
    | with_reducible apply Kept.step hostTake_kept
    | with_reducible apply Kept.step renewHost_kept
    | with_reducible apply Kept.ite
    | with_reducible apply Kept.next
    | decide
    | (intro _; intros; try dsimp only)

theorem execAttest_kept {p : HPort} {s : State} : KeptOut [.hst, .tly, .ram, .out] s (execAttest p s) := by
  unfold execAttest
  try dsimp only
  repeat' first
    | with_reducible exact Kept.refl _
    | with_reducible exact Kept.idRefl
    | with_reducible apply fun hl h0 h => Kept.trans h (mbCommand_kept hl h0)
    | with_reducible apply Kept.step mbResult_kept
    | with_reducible apply Kept.step mbAnswer_kept
    | with_reducible apply Kept.ite
    | with_reducible apply Kept.next
    | decide
    | (intro _; intros; try dsimp only)

theorem endHoldoff_kept {p : HPort} {src : Nat} {s : State} : Kept [.hst, .out] s (endHoldoff p src s) := by
  unfold endHoldoff
  try dsimp only
  repeat' first
    | with_reducible exact Kept.refl _
    | with_reducible exact Kept.idRefl
    | with_reducible apply Kept.step State.setHost_kept
    | with_reducible apply Kept.step sendVector_kept
    | with_reducible apply Kept.ite
    | decide

theorem execMsixHoldoffEnd_kept {dt : Nat} {p : HPort} {src : Fin 32} {s : State} : KeptOut [.hst, .tmb, .tly, .clk, .out] s (execMsixHoldoffEnd dt p src s) := by
  unfold execMsixHoldoffEnd
  try dsimp only
  repeat' first
    | with_reducible exact Kept.refl _
    | with_reducible exact Kept.idRefl
    | with_reducible apply Kept.step endHoldoff_kept
    | with_reducible apply Kept.step elapse_kept
    | with_reducible apply Kept.next
    | decide

theorem resetPort_kept {p : HPort} {s : State} : Kept [.hst, .out, .own] s (resetPort p s) := by
  unfold resetPort
  try dsimp only
  repeat' first
    | with_reducible exact Kept.refl _
    | with_reducible exact Kept.idRefl
    | with_reducible apply Kept.step State.modHost_kept
    | with_reducible apply Kept.step endHostLease_kept
    | with_reducible apply Kept.ite
    | (fail_if_no_progress ((with_reducible apply Kept.put_hst); decide; with_reducible exact rfl))
    | (fail_if_no_progress ((with_reducible apply Kept.put_hst_own); decide; decide))
    | decide
    | (intro _; intros; try dsimp only)
    | dsimp only
    | split

theorem execClaim_kept {p : HPort} {s : State} : KeptOut [.hst, .fresh, .out, .own] s (execClaim p s) := by
  unfold execClaim
  try dsimp only
  repeat' first
    | with_reducible exact Kept.refl _
    | with_reducible exact Kept.idRefl
    | with_reducible apply fun hl h0 h => Kept.trans h (portWrite_kept hl h0)
    | with_reducible apply Kept.step hostTake_kept
    | with_reducible apply Kept.step grantHost_kept
    | with_reducible apply Kept.step renewHost_kept
    | with_reducible apply Kept.step pendClaim_kept
    | with_reducible apply Kept.ite
    | with_reducible apply Kept.next
    | decide
    | (intro _; intros; try dsimp only)
    | dsimp only
    | split

theorem execForce_kept {p : HPort} {nonce : Half} {s : State} : KeptOut [.hst, .out, .own] s (execForce p nonce s) := by
  unfold execForce
  try dsimp only
  repeat' first
    | with_reducible exact Kept.refl _
    | with_reducible exact Kept.idRefl
    | with_reducible apply fun hl h0 h => Kept.trans h (portWrite_kept hl h0)
    | with_reducible apply Kept.step hostTake_kept
    | with_reducible apply Kept.step grantHost_kept
    | with_reducible apply Kept.ite
    | with_reducible apply Kept.next
    | decide
    | (intro _; intros; try dsimp only)
    | dsimp only
    | split

theorem setPlatSlot_kept {slot : Bool} {b : List Byte} {s : State} : Kept [.nv] s (setPlatSlot slot b s) := by
  unfold setPlatSlot
  try dsimp only
  repeat' first
    | with_reducible exact Kept.refl _
    | with_reducible exact Kept.idRefl
    | with_reducible apply Kept.ite
    | (fail_if_no_progress ((with_reducible apply Kept.put_nv); decide; with_reducible exact rfl))

theorem execPlatWrite_kept {p : HPort} {flashOk : Bool} {s : State} : KeptOut [.hst, .tly, .nv, .out] s (execPlatWrite p flashOk s) := by
  unfold execPlatWrite
  try dsimp only
  repeat' first
    | with_reducible exact Kept.refl _
    | with_reducible exact Kept.idRefl
    | with_reducible apply fun hl h0 h => Kept.trans h (mbCommand_kept hl h0)
    | with_reducible apply Kept.step mbResult_kept
    | with_reducible apply Kept.step setPlatSlot_kept
    | with_reducible apply Kept.ite
    | with_reducible apply Kept.next
    | decide
    | (intro _; intros; try dsimp only)

theorem execPerst_kept {p : HPort} {s : State} : KeptOut [.hst, .out, .own] s (execPerst p s) := by
  unfold execPerst
  try dsimp only
  repeat' first
    | with_reducible exact Kept.refl _
    | with_reducible exact Kept.idRefl
    | with_reducible apply Kept.step State.modHost_kept
    | with_reducible apply Kept.step resetPort_kept
    | with_reducible apply Kept.next
    | decide

theorem execHostLeaseLapse_kept {dt : Nat} {s : State} : KeptOut [.hst, .tmb, .tly, .clk, .out, .own] s (execHostLeaseLapse dt s) := by
  unfold execHostLeaseLapse
  try dsimp only
  repeat' first
    | with_reducible exact Kept.refl _
    | with_reducible exact Kept.idRefl
    | with_reducible apply Kept.step elapse_kept
    | with_reducible apply Kept.step endHostLease_kept
    | with_reducible apply Kept.ite
    | with_reducible apply Kept.next
    | decide

theorem execFwWrite_kept {p : HPort} {flashOk : Bool} {s : State} : KeptOut [.glb, .plt, .hst, .lnk, .srd, .svc, .fwd, .swc, .tmb, .lnd, .mil, .mem, .opt, .res, .sec, .tly, .nv, .ram, .out, .lease, .keys] s (execFwWrite p flashOk s) := by
  unfold execFwWrite
  try dsimp only
  repeat' first
    | with_reducible exact Kept.refl _
    | with_reducible exact Kept.idRefl
    | with_reducible apply fun hl h0 h => Kept.trans h (mbCommand_kept hl h0)
    | with_reducible apply Kept.step mbResult_kept
    | with_reducible apply Kept.step sigFail_kept
    | with_reducible apply Kept.step sigGood_kept
    | with_reducible apply Kept.ite
    | (fail_if_no_progress ((with_reducible apply Kept.put_nv); decide; with_reducible exact rfl))
    | with_reducible apply Kept.next
    | decide
    | (intro _; intros; try dsimp only)

theorem execDmaReset_kept {p : HPort} {c : Fin 16} {s : State} : KeptOut [.hst] s (execDmaReset p c s) := by
  unfold execDmaReset
  try dsimp only
  repeat' first
    | with_reducible exact Kept.refl _
    | with_reducible exact Kept.idRefl
    | with_reducible apply fun hl h0 h => Kept.trans h (portWrite_kept hl h0)
    | with_reducible apply Kept.step modDma_kept
    | with_reducible apply Kept.next
    | decide
    | (intro _; intros; try dsimp only)

theorem execFlr_kept {p : HPort} {s : State} : KeptOut [.hst, .out, .own] s (execFlr p s) := by
  unfold execFlr
  try dsimp only
  repeat' first
    | with_reducible exact Kept.refl _
    | with_reducible exact Kept.idRefl
    | with_reducible apply Kept.step resetPort_kept
    | with_reducible apply Kept.ite
    | with_reducible apply Kept.next
    | decide

theorem answerConfig_kept {p : HPort} {s : State} : Kept [.out] s (answerConfig p s) := by
  unfold answerConfig
  try dsimp only
  repeat' first
    | with_reducible exact Kept.refl _
    | with_reducible exact Kept.idRefl
    | with_reducible apply Kept.step emit_kept
    | with_reducible apply Kept.ite
    | decide

theorem execPerstDeassert_kept {p : HPort} {link : PcieLink} {mps mrrs : BitVec 3} {s : State} : KeptOut [.hst, .out] s (execPerstDeassert p link mps mrrs s) := by
  unfold execPerstDeassert
  try dsimp only
  repeat' first
    | with_reducible exact Kept.refl _
    | with_reducible exact Kept.idRefl
    | with_reducible apply Kept.step answerConfig_kept
    | with_reducible apply Kept.step State.modHost_kept
    | with_reducible apply Kept.next
    | decide

theorem execPartialWrite_kept {p : HPort} {flashOk : Bool} {s : State} : KeptOut [.hst, .tly, .nv, .out] s (execPartialWrite p flashOk s) := by
  unfold execPartialWrite
  try dsimp only
  repeat' first
    | with_reducible exact Kept.refl _
    | with_reducible exact Kept.idRefl
    | with_reducible apply fun hl h0 h => Kept.trans h (mbCommand_kept hl h0)
    | with_reducible apply Kept.step mbResult_kept
    | with_reducible apply Kept.ite
    | (fail_if_no_progress ((with_reducible apply Kept.put_nv); decide; with_reducible exact rfl))
    | with_reducible apply Kept.next
    | decide
    | (intro _; intros; try dsimp only)

theorem execBar2Access_kept {p : HPort} {off : BitVec 36} {len : Nat} {wdata : Option (List Byte)} {s : State} : KeptOut [.hst, .tly, .ram, .out] s (execBar2Access p off len wdata s) := by
  unfold execBar2Access
  try dsimp only
  repeat' first
    | with_reducible exact Kept.refl _
    | with_reducible exact Kept.idRefl
    | with_reducible apply Kept.step count_kept
    | with_reducible apply Kept.step emit_kept
    | with_reducible apply fun hl h0 h => Kept.trans h (hostWrite_kept hl h0)
    | with_reducible apply Kept.step wrMem_kept
    | with_reducible apply Kept.ite
    | with_reducible apply Kept.next
    | decide
    | (intro _; intros; try dsimp only)
    | dsimp only
    | split

theorem execFwInfo_kept {p : HPort} {s : State} : KeptOut [.hst, .tly, .ram, .out] s (execFwInfo p s) := by
  unfold execFwInfo
  try dsimp only
  repeat' first
    | with_reducible exact Kept.refl _
    | with_reducible exact Kept.idRefl
    | with_reducible apply fun hl h0 h => Kept.trans h (mbCommand_kept hl h0)
    | with_reducible apply Kept.step mbAnswer_kept
    | with_reducible apply Kept.next
    | decide
    | (intro _; intros; try dsimp only)

theorem execSetActive_kept {p : HPort} {flashOk : Bool} {s : State} : KeptOut [.hst, .tly, .nv, .out] s (execSetActive p flashOk s) := by
  unfold execSetActive
  try dsimp only
  repeat' first
    | with_reducible exact Kept.refl _
    | with_reducible exact Kept.idRefl
    | with_reducible apply fun hl h0 h => Kept.trans h (mbCommand_kept hl h0)
    | with_reducible apply Kept.step mbResult_kept
    | with_reducible apply Kept.ite
    | (fail_if_no_progress ((with_reducible apply Kept.put_nv); decide; with_reducible exact rfl))
    | with_reducible apply Kept.next
    | decide
    | (intro _; intros; try dsimp only)

theorem execDmaDescriptorDone_kept {p : HPort} {c : Fin 16} {desc : List Byte} {data : List Byte} {started : Nat} {hostErr : Bool} {s : State} : KeptOut [.hst, .ram, .out] s (execDmaDescriptorDone p c desc data started hostErr s) := by
  unfold execDmaDescriptorDone
  try dsimp only
  repeat' first
    | with_reducible exact Kept.refl _
    | with_reducible exact Kept.idRefl
    | with_reducible apply Kept.step dmaDone_kept
    | with_reducible apply Kept.next
    | decide

theorem execDmaProd_kept {p : HPort} {c : Fin 16} {idx : Half} {s : State} : KeptOut [.hst] s (execDmaProd p c idx s) := by
  unfold execDmaProd
  try dsimp only
  repeat' first
    | with_reducible exact Kept.refl _
    | with_reducible exact Kept.idRefl
    | with_reducible apply fun hl h0 h => Kept.trans h (portWrite_kept hl h0)
    | with_reducible apply Kept.step modDma_kept
    | with_reducible apply Kept.next
    | decide
    | (intro _; intros; try dsimp only)

theorem execFlashRead_kept {p : HPort} {s : State} : KeptOut [.hst, .tly, .ram, .out] s (execFlashRead p s) := by
  unfold execFlashRead
  try dsimp only
  repeat' first
    | with_reducible exact Kept.refl _
    | with_reducible exact Kept.idRefl
    | with_reducible apply fun hl h0 h => Kept.trans h (mbCommand_kept hl h0)
    | with_reducible apply Kept.step mbResult_kept
    | with_reducible apply Kept.step mbAnswer_kept
    | with_reducible apply Kept.ite
    | with_reducible apply Kept.next
    | decide
    | (intro _; intros; try dsimp only)
    | dsimp only
    | split

theorem execBar0BadAccess_kept {p : HPort} {isWrite : Bool} {s : State} : KeptOut [.tly, .out] s (execBar0BadAccess p isWrite s) := by
  unfold execBar0BadAccess
  try dsimp only
  repeat' first
    | with_reducible exact Kept.refl _
    | with_reducible exact Kept.idRefl
    | with_reducible apply Kept.step count_kept
    | with_reducible apply Kept.step emit_kept
    | with_reducible apply Kept.ite
    | with_reducible apply Kept.next
    | decide

theorem skipSnap_kept {s : State} : Kept [.tly] s (skipSnap s) := by
  unfold skipSnap
  try dsimp only
  repeat' first
    | with_reducible exact Kept.refl _
    | with_reducible exact Kept.idRefl
    | with_reducible apply Kept.step countX_kept
    | (fail_if_no_progress ((with_reducible apply Kept.put_tly); decide))
    | decide

theorem latch_kept {v : Snap} {stepped : Bool} {s : State} : Kept [.tly] s (latch v stepped s) := by
  unfold latch
  try dsimp only
  repeat' first
    | with_reducible exact Kept.refl _
    | with_reducible exact Kept.idRefl
    | with_reducible apply Kept.step skipSnap_kept
    | with_reducible apply Kept.ite
    | (fail_if_no_progress ((with_reducible apply Kept.put_tly); decide))
    | decide

theorem snapshotInstant_kept {s : State} : Kept [.tly] s (snapshotInstant s) := by
  unfold snapshotInstant
  try dsimp only
  repeat' first
    | with_reducible exact Kept.refl _
    | with_reducible exact Kept.idRefl
    | with_reducible apply Kept.step latch_kept
    | (fail_if_no_progress ((with_reducible apply Kept.put_tly); decide))
    | decide
    | (intro _; intros; try dsimp only)
    | dsimp only
    | split

theorem snapCmd_kept {p : HPort} {f : State → State} {s : State} {L : List Blk} (hL : [.hst, .tly] ⊆ L) (hf : ∀ t, Kept L t (f t)) : Kept L s (snapCmd p f s) := by
  unfold snapCmd
  try dsimp only
  repeat' first
    | with_reducible exact Kept.refl _
    | with_reducible exact Kept.idRefl
    | with_reducible apply fun h => Kept.trans h (hf _)
    | with_reducible apply fun hl h0 h => Kept.trans h (hostWrite_kept hl h0)
    | with_reducible apply Kept.ite
    | (fail_if_no_progress ((with_reducible apply Kept.put_tly); exact hL (by decide)))
    | exact List.Subset.trans (by decide) hL
    | exact hL (by decide)
    | exact hL
    | (intro _; intros; try dsimp only)

theorem snapStatus_kept {st : Nat} {s : State} : Kept [.tly] s (snapStatus st s) := by
  unfold snapStatus
  try dsimp only
  repeat' first
    | with_reducible exact Kept.refl _
    | with_reducible exact Kept.idRefl
    | (fail_if_no_progress ((with_reducible apply Kept.put_tly); decide))

theorem snapNow_kept {id : Half} {s : State} : Kept [.tly] s (snapNow id s) := by
  unfold snapNow
  try dsimp only
  repeat' first
    | with_reducible exact Kept.refl _
    | with_reducible exact Kept.idRefl
    | with_reducible apply Kept.step snapStatus_kept
    | with_reducible apply Kept.step latch_kept
    | with_reducible apply Kept.ite
    | decide

theorem execSnapNow_kept {p : HPort} {id : Half} {s : State} : KeptOut [.hst, .tly] s (execSnapNow p id s) := by
  unfold execSnapNow
  try dsimp only
  repeat' first
    | with_reducible exact Kept.refl _
    | with_reducible exact Kept.idRefl
    | with_reducible apply fun hl h0 h => Kept.trans h (snapCmd_kept hl h0)
    | with_reducible apply Kept.step snapNow_kept
    | with_reducible apply Kept.next
    | decide
    | (intro _; intros; try dsimp only)

theorem mergeSnap_kept {t : DWord} {s : State} : Kept [.tly] s (mergeSnap t s) := by
  unfold mergeSnap
  try dsimp only
  repeat' first
    | with_reducible exact Kept.refl _
    | with_reducible exact Kept.idRefl
    | with_reducible apply Kept.ite
    | (fail_if_no_progress ((with_reducible apply Kept.put_tly); decide))

theorem addSnap_kept {v : Snap} {s : State} : Kept [.tly] s (addSnap v s) := by
  unfold addSnap
  try dsimp only
  repeat' first
    | with_reducible exact Kept.refl _
    | with_reducible exact Kept.idRefl
    | (fail_if_no_progress ((with_reducible apply Kept.put_tly); decide))

theorem schedule_kept {block : Bool} {id : Half} {s : State} : Kept [.tly] s (schedule block id s) := by
  unfold schedule
  try dsimp only
  repeat' first
    | with_reducible exact Kept.refl _
    | with_reducible exact Kept.idRefl
    | with_reducible apply Kept.step mergeSnap_kept
    | with_reducible apply Kept.step addSnap_kept
    | with_reducible apply Kept.ite
    | decide

theorem blockAt_kept {id : Half} {s : State} : Kept [.svc, .tly, .out] s (blockAt id s) := by
  unfold blockAt
  try dsimp only
  repeat' first
    | with_reducible exact Kept.refl _
    | with_reducible exact Kept.idRefl
    | with_reducible apply Kept.step snapStatus_kept
    | with_reducible apply Kept.step sendBoth_kept
    | with_reducible apply Kept.step schedule_kept
    | with_reducible apply Kept.ite
    | decide

theorem execBlockAt_kept {p : HPort} {id : Half} {s : State} : KeptOut [.hst, .svc, .tly, .out] s (execBlockAt p id s) := by
  unfold execBlockAt
  try dsimp only
  repeat' first
    | with_reducible exact Kept.refl _
    | with_reducible exact Kept.idRefl
    | with_reducible apply fun hl h0 h => Kept.trans h (snapCmd_kept hl h0)
    | with_reducible apply Kept.step blockAt_kept
    | with_reducible apply Kept.next
    | decide
    | (intro _; intros; try dsimp only)

theorem snapshotCopyDone_kept {s : State} : Kept [.hst, .tly, .ram, .out] s (snapshotCopyDone s) := by
  unfold snapshotCopyDone
  try dsimp only
  repeat' first
    | with_reducible exact Kept.refl _
    | with_reducible exact Kept.idRefl
    | with_reducible apply Kept.step wrMem_kept
    | with_reducible apply Kept.step fire_kept
    | (fail_if_no_progress ((with_reducible apply Kept.put_tly); decide))
    | decide
    | (intro _; intros; try dsimp only)
    | dsimp only
    | split

theorem tlySel_kept {ev : Word} {s : State} : Kept [.tly] s (tlySel ev s) := by
  unfold tlySel
  try dsimp only
  repeat' first
    | with_reducible exact Kept.refl _
    | with_reducible exact Kept.idRefl
    | with_reducible apply Kept.ite
    | (fail_if_no_progress ((with_reducible apply Kept.put_tly); decide))

theorem execTlySel_kept {p : HPort} {ev : Word} {s : State} : KeptOut [.hst, .tly] s (execTlySel p ev s) := by
  unfold execTlySel
  try dsimp only
  repeat' first
    | with_reducible exact Kept.refl _
    | with_reducible exact Kept.idRefl
    | with_reducible apply fun hl h0 h => Kept.trans h (hostWrite_kept hl h0)
    | with_reducible apply Kept.step tlySel_kept
    | with_reducible apply Kept.next
    | decide
    | (intro _; intros; try dsimp only)

theorem takeSnap_kept {id : Half} {t : DWord} {s : State} : Kept [.tly] s (takeSnap id t s) := by
  unfold takeSnap
  try dsimp only
  repeat' first
    | with_reducible exact Kept.refl _
    | with_reducible exact Kept.idRefl
    | with_reducible apply Kept.step latch_kept
    | with_reducible apply Kept.step mergeSnap_kept
    | with_reducible apply Kept.step addSnap_kept
    | with_reducible apply Kept.step skipSnap_kept
    | with_reducible apply Kept.ite
    | (fail_if_no_progress ((with_reducible apply Kept.put_tly); decide))
    | decide

theorem blockSnap_kept {lane : Fin 2} {b : List Byte} {s : State} : Kept [.svc, .tly, .out] s (blockSnap lane b s) := by
  unfold blockSnap
  try dsimp only
  repeat' first
    | with_reducible exact Kept.refl _
    | with_reducible exact Kept.idRefl
    | with_reducible apply Kept.step forwardRing_kept
    | with_reducible apply Kept.step takeSnap_kept
    | with_reducible apply Kept.ite
    | decide

theorem execBlockSnap_kept {lane : Fin 2} {codes : List Code} {s : State} : KeptOut [.svc, .tmb, .tly, .out] s (execBlockSnap lane codes s) := by
  unfold execBlockSnap
  try dsimp only
  repeat' first
    | with_reducible exact Kept.refl _
    | with_reducible exact Kept.idRefl
    | with_reducible apply fun hl h0 h => Kept.trans h (onRing_kept hl h0)
    | with_reducible apply fun hl h0 h => Kept.trans h (blockMsg_kept hl h0)
    | with_reducible apply Kept.step blockSnap_kept
    | with_reducible apply Kept.next
    | decide
    | (intro _; intros; try dsimp only)

theorem execSnapshotInstant_kept {dt : Nat} {s : State} : KeptOut [.tmb, .tly, .clk, .out] s (execSnapshotInstant dt s) := by
  unfold execSnapshotInstant
  try dsimp only
  repeat' first
    | with_reducible exact Kept.refl _
    | with_reducible exact Kept.idRefl
    | with_reducible apply Kept.step snapshotInstant_kept
    | with_reducible apply Kept.step elapse_kept
    | with_reducible apply Kept.next
    | decide

theorem snapCancel_kept {id : Half} {s : State} : Kept [.tly] s (snapCancel id s) := by
  unfold snapCancel
  try dsimp only
  repeat' first
    | with_reducible exact Kept.refl _
    | with_reducible exact Kept.idRefl
    | with_reducible apply Kept.step snapStatus_kept
    | with_reducible apply Kept.ite
    | (fail_if_no_progress ((with_reducible apply Kept.put_tly); decide))
    | decide

theorem execSnapCancel_kept {p : HPort} {id : Half} {s : State} : KeptOut [.hst, .tly] s (execSnapCancel p id s) := by
  unfold execSnapCancel
  try dsimp only
  repeat' first
    | with_reducible exact Kept.refl _
    | with_reducible exact Kept.idRefl
    | with_reducible apply fun hl h0 h => Kept.trans h (snapCmd_kept hl h0)
    | with_reducible apply Kept.step snapCancel_kept
    | with_reducible apply Kept.next
    | decide
    | (intro _; intros; try dsimp only)

theorem tagRecord_kept {core : Nat} {r : List Word} {s : State} : Kept [.tly, .ram, .fresh] s (tagRecord core r s) := by
  unfold tagRecord
  try dsimp only
  repeat' first
    | with_reducible exact Kept.refl _
    | with_reducible exact Kept.idRefl
    | with_reducible apply Kept.step takeFree_kept
    | with_reducible apply Kept.step count_kept
    | with_reducible apply Kept.step wrMem_kept
    | with_reducible apply Kept.ite
    | (fail_if_no_progress ((with_reducible apply Kept.put_tly); decide))
    | decide

theorem snapAt_kept {id : Half} {s : State} : Kept [.tly] s (snapAt id s) := by
  unfold snapAt
  try dsimp only
  repeat' first
    | with_reducible exact Kept.refl _
    | with_reducible exact Kept.idRefl
    | with_reducible apply Kept.step snapStatus_kept
    | with_reducible apply Kept.step schedule_kept
    | with_reducible apply Kept.ite
    | decide

theorem execTagRecord_kept {core : Fin 128} {b : List Word} {s : State} : KeptOut [.tly, .ram, .fresh] s (execTagRecord core b s) := by
  unfold execTagRecord
  try dsimp only
  repeat' first
    | with_reducible exact Kept.refl _
    | with_reducible exact Kept.idRefl
    | with_reducible apply Kept.step tagRecord_kept
    | with_reducible apply Kept.next
    | decide

theorem execSnapAt_kept {p : HPort} {id : Half} {s : State} : KeptOut [.hst, .tly] s (execSnapAt p id s) := by
  unfold execSnapAt
  try dsimp only
  repeat' first
    | with_reducible exact Kept.refl _
    | with_reducible exact Kept.idRefl
    | with_reducible apply fun hl h0 h => Kept.trans h (snapCmd_kept hl h0)
    | with_reducible apply Kept.step snapAt_kept
    | with_reducible apply Kept.next
    | decide
    | (intro _; intros; try dsimp only)

theorem execSnapshotCopyDone_kept {s : State} : KeptOut [.hst, .tly, .ram, .out] s (execSnapshotCopyDone s) := by
  unfold execSnapshotCopyDone
  try dsimp only
  repeat' first
    | with_reducible exact Kept.refl _
    | with_reducible exact Kept.idRefl
    | with_reducible apply Kept.step snapshotCopyDone_kept
    | with_reducible apply Kept.next
    | decide

theorem latchPair_kept {p : HPort} {off : Nat} {s : State} : Kept [.hst] s (latchPair p off s) := by
  unfold latchPair
  try dsimp only
  repeat' first
    | with_reducible exact Kept.refl _
    | with_reducible exact Kept.idRefl
    | with_reducible apply Kept.step State.modHost_kept
    | with_reducible apply Kept.ite
    | decide
    | (intro _; intros; try dsimp only)
    | dsimp only
    | split

theorem execLowWordRead_kept {p : HPort} {rd : BusRead} {s : State} : KeptOut [.hst, .tly, .out] s (execLowWordRead p rd s) := by
  unfold execLowWordRead
  try dsimp only
  repeat' first
    | with_reducible exact Kept.refl _
    | with_reducible exact Kept.idRefl
    | with_reducible apply Kept.step emit_kept
    | with_reducible apply Kept.step latchPair_kept
    | with_reducible apply Kept.step count_kept
    | with_reducible apply Kept.ite
    | with_reducible apply Kept.next
    | decide
    | (intro _; intros; try dsimp only)
    | dsimp only
    | split

theorem after_kept {f : State → Out} {s : State} {L : List Blk} (hL : [] ⊆ L) (hf : ∀ t, KeptOut L t (f t)) : Kept L s (after f s) := by
  unfold after
  have h := hf s
  split
  · next e => rw [e] at h; exact h
  · exact Kept.refl _

theorem wSpareCmd_kept {p : HPort} {v : Nat} {s : State} : Kept [.hst, .svc, .res, .tly, .out] s (wSpareCmd p v s) := by
  unfold wSpareCmd
  try dsimp only
  repeat' first
    | with_reducible exact Kept.refl _
    | with_reducible exact Kept.idRefl
    | with_reducible apply fun hl h0 h => Kept.trans h (after_kept hl h0)
    | with_reducible apply KeptOut.mono execPull_kept
    | with_reducible apply KeptOut.mono execSpareAbort_kept
    | with_reducible apply Kept.ite
    | (fail_if_no_progress ((with_reducible apply Kept.put_res); decide; with_reducible exact rfl))
    | decide
    | (intro _; intros; try dsimp only)
    | dsimp only
    | split

theorem wTdCmd_kept {p : HPort} {v : Nat} {s : State} : Kept [.hst, .lnk, .srd, .fwd, .swc, .tmb, .lnd, .mil, .mem, .res, .tly, .nv, .ram, .out, .tables] s (wTdCmd p v s) := by
  unfold wTdCmd
  try dsimp only
  repeat' first
    | with_reducible exact Kept.refl _
    | with_reducible exact Kept.idRefl
    | with_reducible apply fun hl h0 h => Kept.trans h (after_kept hl h0)
    | with_reducible apply KeptOut.mono execTeardownStart_kept
    | with_reducible apply KeptOut.mono execTeardownRelease_kept
    | with_reducible apply KeptOut.mono execTeardownQuery_kept
    | with_reducible apply fun hl h0 h => Kept.trans h (tdCommand_kept hl h0)
    | with_reducible apply Kept.step tdStatus_kept
    | decide
    | (intro _; intros; try dsimp only)
    | dsimp only
    | split

theorem wMem_kept {p : HPort} {o : Nat} {v : Nat} {s : State} : Kept [.hst, .lnk, .srd, .fwd, .swc, .tmb, .lnd, .mil, .mem, .res, .tly, .nv, .ram, .out, .tables] s (wMem p o v s) := by
  unfold wMem
  try dsimp only
  repeat' first
    | with_reducible exact Kept.refl _
    | with_reducible exact Kept.idRefl
    | with_reducible apply Kept.step wTdCmd_kept
    | (fail_if_no_progress ((with_reducible apply Kept.put_mem); decide))
    | decide
    | (intro _; intros; try dsimp only)
    | dsimp only
    | split

theorem wSecCmd_kept {p : HPort} {v : Nat} {s : State} : Kept [.glb, .plt, .hst, .lnk, .srd, .svc, .fwd, .swc, .tmb, .lnd, .mil, .mem, .opt, .res, .sec, .tly, .nv, .ram, .fresh, .out, .lease, .keys] s (wSecCmd p v s) := by
  unfold wSecCmd
  try dsimp only
  repeat' first
    | with_reducible exact Kept.refl _
    | with_reducible exact Kept.idRefl
    | with_reducible apply fun hl h0 h => Kept.trans h (after_kept hl h0)
    | with_reducible apply KeptOut.mono execKeyLoad_kept
    | with_reducible apply KeptOut.mono execSecverCommit_kept
    | with_reducible apply KeptOut.mono execDbgChallenge_kept
    | with_reducible apply KeptOut.mono execDbgUnlock_kept
    | with_reducible apply KeptOut.mono execDbgLock_kept
    | with_reducible apply fun hl h0 h => Kept.trans h (secCommand_kept hl h0)
    | with_reducible apply Kept.step secStatus_kept
    | decide
    | (intro _; intros; try dsimp only)
    | dsimp only
    | split

theorem wSrd_kept {p : HPort} {o : Nat} {v : Nat} {s : State} : Kept [.hst, .lnk, .srd, .svc, .eye, .fwd, .swc, .tmb, .lnd, .mil, .mem, .opt, .res, .tly, .nv, .ram, .fresh, .out] s (wSrd p o v s) := by
  unfold wSrd
  try dsimp only
  repeat' first
    | with_reducible exact Kept.refl _
    | with_reducible exact Kept.idRefl
    | with_reducible apply fun hl h0 h => Kept.trans h (after_kept hl h0)
    | with_reducible apply KeptOut.mono execRecal_kept
    | with_reducible apply Kept.step State.modSvc_kept
    | with_reducible apply Kept.step writeEye_kept
    | with_reducible apply Kept.step State.modEye_kept
    | with_reducible apply Kept.ite
    | decide
    | (intro _; intros; try dsimp only)
    | dsimp only
    | split

theorem wSnapCmd_kept {p : HPort} {v : Nat} {s : State} : Kept [.hst, .svc, .tly, .out] s (wSnapCmd p v s) := by
  unfold wSnapCmd
  try dsimp only
  repeat' first
    | with_reducible exact Kept.refl _
    | with_reducible exact Kept.idRefl
    | with_reducible apply fun hl h0 h => Kept.trans h (after_kept hl h0)
    | with_reducible apply KeptOut.mono execSnapNow_kept
    | with_reducible apply KeptOut.mono execSnapAt_kept
    | with_reducible apply KeptOut.mono execBlockAt_kept
    | with_reducible apply KeptOut.mono execSnapCancel_kept
    | with_reducible apply fun hl h0 h => Kept.trans h (snapCmd_kept hl h0)
    | with_reducible apply Kept.step snapStatus_kept
    | decide
    | (intro _; intros; try dsimp only)
    | dsimp only
    | split

theorem wTly_kept {p : HPort} {o : Nat} {v : Nat} {s : State} : Kept [.hst, .svc, .tly, .out] s (wTly p o v s) := by
  unfold wTly
  try dsimp only
  repeat' first
    | with_reducible exact Kept.refl _
    | with_reducible exact Kept.idRefl
    | with_reducible apply Kept.step tlySel_kept
    | with_reducible apply Kept.step wSnapCmd_kept
    | (fail_if_no_progress ((with_reducible apply Kept.put_tly); decide))
    | decide
    | (intro _; intros; try dsimp only)
    | dsimp only
    | split

theorem restartSweeps_kept {s : State} : Kept [.swc] s (restartSweeps s) := by
  unfold restartSweeps
  try dsimp only
  repeat' first
    | with_reducible exact Kept.refl _
    | with_reducible exact Kept.idRefl
    | (fail_if_no_progress ((with_reducible apply Kept.put_swc); decide))

theorem settlePenalties_kept {s : State} : Kept [.res] s (settlePenalties s) := by
  unfold settlePenalties
  try dsimp only
  repeat' first
    | with_reducible exact Kept.refl _
    | with_reducible exact Kept.idRefl
    | (fail_if_no_progress ((with_reducible apply Kept.put_res); decide; with_reducible exact rfl))

theorem putPair_kept {lo : Nat} {v : Nat} {s : State} : Kept [.plt, .hst, .fwd, .swc, .tmb, .lnd, .mil, .mem, .opt, .res, .sec, .tly] s (putPair lo v s) := by
  unfold putPair
  try dsimp only
  repeat' first
    | with_reducible exact Kept.refl _
    | with_reducible exact Kept.idRefl
    | with_reducible apply Kept.ite
    | (fail_if_no_progress ((with_reducible apply Kept.put_plt); decide; with_reducible exact rfl))
    | (fail_if_no_progress ((with_reducible apply Kept.put_hst); decide; with_reducible exact rfl))
    | (fail_if_no_progress ((with_reducible apply Kept.put_fwd); decide; with_reducible exact rfl))
    | (fail_if_no_progress ((with_reducible apply Kept.put_swc); decide))
    | (fail_if_no_progress ((with_reducible apply Kept.put_tmb); decide; with_reducible exact rfl))
    | (fail_if_no_progress ((with_reducible apply Kept.put_lnd); decide))
    | (fail_if_no_progress ((with_reducible apply Kept.put_mil); decide))
    | (fail_if_no_progress ((with_reducible apply Kept.put_mem); decide))
    | (fail_if_no_progress ((with_reducible apply Kept.put_opt); decide))
    | (fail_if_no_progress ((with_reducible apply Kept.put_res); decide; with_reducible exact rfl))
    | (fail_if_no_progress ((with_reducible apply Kept.put_sec); decide; with_reducible exact rfl))
    | (fail_if_no_progress ((with_reducible apply Kept.put_tly); decide))
    | (fail_if_no_progress ((with_reducible apply Kept.put); (intro b hb; cases b <;> first | exact rfl | exact absurd (by decide) hb)))
    | decide
    | (intro _; intros; try dsimp only)
    | dsimp only
    | split

theorem emptyLatch_kept {p : HPort} {lo : Nat} {s : State} : Kept [.hst] s (emptyLatch p lo s) := by
  unfold emptyLatch
  try dsimp only
  repeat' first
    | with_reducible exact Kept.refl _
    | with_reducible exact Kept.idRefl
    | with_reducible apply Kept.step State.modHost_kept
    | decide

theorem writeHigh_kept {p : HPort} {lo : Nat} {v : Nat} {s : State} : Kept [.plt, .hst, .fwd, .swc, .tmb, .lnd, .mil, .mem, .opt, .res, .sec, .tly] s (writeHigh p lo v s) := by
  unfold writeHigh
  try dsimp only
  repeat' first
    | with_reducible exact Kept.refl _
    | with_reducible exact Kept.idRefl
    | with_reducible apply Kept.step putPair_kept
    | with_reducible apply Kept.step emptyLatch_kept
    | decide

theorem wLeaseCmd_kept {p : HPort} {v : Nat} {s : State} : Kept [.glb, .plt, .hst, .lnk, .srd, .svc, .fwd, .swc, .tmb, .lnd, .mil, .mem, .opt, .res, .tly, .nv, .ram, .out, .lease, .tables] s (wLeaseCmd p v s) := by
  unfold wLeaseCmd
  try dsimp only
  repeat' first
    | with_reducible exact Kept.refl _
    | with_reducible exact Kept.idRefl
    | with_reducible apply fun hl h0 h => Kept.trans h (after_kept hl h0)
    | with_reducible apply KeptOut.mono execLeaseGrant_kept
    | with_reducible apply KeptOut.mono execLeaseRenew_kept
    | with_reducible apply KeptOut.mono execLeaseRelease_kept
    | with_reducible apply fun hl h0 h => Kept.trans h (leaseCommand_kept hl h0)
    | with_reducible apply Kept.step leaseStatus_kept
    | decide
    | (intro _; intros; try dsimp only)
    | dsimp only
    | split

theorem wMbCmd_kept {p : HPort} {v : Nat} {s : State} : Kept [.glb, .plt, .hst, .lnk, .srd, .svc, .fwd, .swc, .tmb, .lnd, .mil, .mem, .opt, .res, .sec, .tly, .nv, .ram, .fresh, .out, .lease, .keys] s (wMbCmd p v s) := by
  unfold wMbCmd
  try dsimp only
  repeat' first
    | with_reducible exact Kept.refl _
    | with_reducible exact Kept.idRefl
    | with_reducible apply Kept.step takeFree_kept
    | with_reducible apply fun hl h0 h => Kept.trans h (after_kept hl h0)
    | with_reducible apply KeptOut.mono execFwInfo_kept
    | with_reducible apply KeptOut.mono execFlashRead_kept
    | with_reducible apply KeptOut.mono execPlatWrite_kept
    | with_reducible apply KeptOut.mono execSetActive_kept
    | with_reducible apply KeptOut.mono execPartialWrite_kept
    | with_reducible apply KeptOut.mono execFwWrite_kept
    | with_reducible apply KeptOut.mono execCalRead_kept
    | with_reducible apply KeptOut.mono execCalCapture_kept
    | with_reducible apply KeptOut.mono execCalWrite_kept
    | with_reducible apply KeptOut.mono execAttest_kept
    | with_reducible apply fun hl h0 h => Kept.trans h (mbCommand_kept hl h0)
    | with_reducible apply Kept.step mbResult_kept
    | (fail_if_no_progress ((with_reducible apply Kept.put_fresh); decide))
    | decide
    | (with_reducible apply Kept.ofSnd; with_reducible assumption)
    | (intro _; intros; try dsimp only)
    | dsimp only
    | split

theorem wHst_kept {p : HPort} {o : Nat} {v : Nat} {s : State} : Kept [.glb, .plt, .hst, .lnk, .srd, .svc, .fwd, .swc, .tmb, .lnd, .mil, .mem, .opt, .res, .sec, .tly, .nv, .ram, .fresh, .out, .lease, .keys] s (wHst p o v s) := by
  unfold wHst
  try dsimp only
  repeat' first
    | with_reducible exact Kept.refl _
    | with_reducible exact Kept.idRefl
    | with_reducible apply Kept.step wMbCmd_kept
    | (fail_if_no_progress ((with_reducible apply Kept.put_hst); decide; with_reducible exact rfl))
    | decide
    | (intro _; intros; try dsimp only)
    | dsimp only
    | split

theorem wTmbCmd_kept {p : HPort} {v : Nat} {s : State} : Kept [.hst, .tmb, .tly, .ram, .timetable] s (wTmbCmd p v s) := by
  unfold wTmbCmd
  try dsimp only
  repeat' first
    | with_reducible exact Kept.refl _
    | with_reducible exact Kept.idRefl
    | with_reducible apply fun hl h0 h => Kept.trans h (after_kept hl h0)
    | with_reducible apply KeptOut.mono execTmbLoad_kept
    | with_reducible apply KeptOut.mono execArm_kept
    | with_reducible apply KeptOut.mono execActivate_kept
    | with_reducible apply KeptOut.mono execDisarm_kept
    | with_reducible apply fun hl h0 h => Kept.trans h (tmbCommand_kept hl h0)
    | with_reducible apply Kept.step tmbStatus_kept
    | decide
    | (intro _; intros; try dsimp only)
    | dsimp only
    | split

theorem wTmb_kept {p : HPort} {o : Nat} {v : Nat} {s : State} : Kept [.hst, .tmb, .tly, .ram, .out, .timetable] s (wTmb p o v s) := by
  unfold wTmb
  try dsimp only
  repeat' first
    | with_reducible exact Kept.refl _
    | with_reducible exact Kept.idRefl
    | with_reducible apply Kept.step settleAdmit_kept
    | with_reducible apply Kept.step wTmbCmd_kept
    | (fail_if_no_progress ((with_reducible apply Kept.put_tmb); decide; with_reducible exact rfl))
    | decide
    | (intro _; intros; try dsimp only)
    | dsimp only
    | split

theorem wCbCmd_kept {p : HPort} {v : Nat} {s : State} : Kept [.hst, .svc, .mil, .res, .tly, .out] s (wCbCmd p v s) := by
  unfold wCbCmd
  try dsimp only
  repeat' first
    | with_reducible exact Kept.refl _
    | with_reducible exact Kept.idRefl
    | with_reducible apply fun hl h0 h => Kept.trans h (after_kept hl h0)
    | with_reducible apply KeptOut.mono execCbRead_kept
    | with_reducible apply KeptOut.mono execCbWrite_kept
    | with_reducible apply fun hl h0 h => Kept.trans h (cbCommand_kept hl h0)
    | with_reducible apply Kept.step cbStatus_kept
    | decide
    | (intro _; intros; try dsimp only)
    | dsimp only
    | split

theorem wGlbCtrl_kept {p : HPort} {v : Nat} {s : State} : Kept [.glb, .plt, .hst, .lnk, .srd, .svc, .fwd, .swc, .tmb, .lnd, .mil, .mem, .opt, .res, .tly, .nv, .ram, .out, .lease] s (wGlbCtrl p v s) := by
  unfold wGlbCtrl
  try dsimp only
  repeat' first
    | with_reducible exact Kept.refl _
    | with_reducible exact Kept.idRefl
    | with_reducible apply fun hl h0 h => Kept.trans h (after_kept hl h0)
    | with_reducible apply KeptOut.mono execClrmin_kept
    | with_reducible apply Kept.step setReqErr_kept
    | with_reducible apply KeptOut.mono execQuiesce_kept
    | with_reducible apply KeptOut.mono execResume_kept
    | with_reducible apply Kept.ite
    | decide
    | (intro _; intros; try dsimp only)
    | dsimp only
    | split

theorem wGlb_kept {p : HPort} {o : Nat} {v : Nat} {s : State} : Kept [.glb, .plt, .hst, .lnk, .srd, .svc, .fwd, .swc, .tmb, .lnd, .mil, .mem, .opt, .res, .tly, .nv, .ram, .out, .lease] s (wGlb p o v s) := by
  unfold wGlb
  try dsimp only
  repeat' first
    | with_reducible exact Kept.refl _
    | with_reducible exact Kept.idRefl
    | with_reducible apply Kept.step wGlbCtrl_kept
    | (fail_if_no_progress ((with_reducible apply Kept.put_glb); decide))
    | decide
    | (intro _; intros; try dsimp only)
    | dsimp only
    | split

theorem wPltCtrl_kept {p : HPort} {v : Nat} {s : State} : Kept [.glb, .plt, .hst, .lnk, .srd, .svc, .fwd, .swc, .tmb, .lnd, .mil, .mem, .opt, .res, .sec, .tly, .nv, .ram, .out, .lease, .tables, .keys, .plat] s (wPltCtrl p v s) := by
  unfold wPltCtrl
  try dsimp only
  repeat' first
    | with_reducible exact Kept.refl _
    | with_reducible exact Kept.idRefl
    | with_reducible apply Kept.step notePltCtrl_kept
    | with_reducible apply fun hl h0 h => Kept.trans h (after_kept hl h0)
    | with_reducible apply KeptOut.mono execPlatAbort_kept
    | with_reducible apply KeptOut.mono execPlatLoad_kept
    | with_reducible apply Kept.ite
    | decide
    | (intro _; intros; try dsimp only)

theorem wPlt_kept {p : HPort} {o : Nat} {v : Nat} {s : State} : Kept [.glb, .plt, .hst, .lnk, .srd, .svc, .fwd, .swc, .tmb, .lnd, .mil, .mem, .opt, .res, .sec, .tly, .nv, .ram, .out, .lease, .tables, .keys, .plat] s (wPlt p o v s) := by
  unfold wPlt
  try dsimp only
  repeat' first
    | with_reducible exact Kept.refl _
    | with_reducible exact Kept.idRefl
    | with_reducible apply Kept.step wPltCtrl_kept
    | (fail_if_no_progress ((with_reducible apply Kept.put_plt); decide; with_reducible exact rfl))
    | decide
    | (intro _; intros; try dsimp only)
    | dsimp only
    | split

theorem wLnk_kept {p : HPort} {o : Nat} {v : Nat} {s : State} : Kept [.hst, .lnk, .srd, .svc, .fwd, .swc, .tmb, .lnd, .mil, .mem, .opt, .res, .tly, .nv, .ram, .out] s (wLnk p o v s) := by
  unfold wLnk
  try dsimp only
  repeat' first
    | with_reducible exact Kept.refl _
    | with_reducible exact Kept.idRefl
    | with_reducible apply fun hl h0 h => Kept.trans h (after_kept hl h0)
    | with_reducible apply KeptOut.mono execLnkDisable_kept
    | with_reducible apply KeptOut.mono execLnkRetrain_kept
    | with_reducible apply Kept.step State.modLink_kept
    | with_reducible apply Kept.ite
    | decide
    | (intro _; intros; try dsimp only)
    | dsimp only
    | split

theorem wFwdCmd_kept {p : HPort} {v : Nat} {s : State} : Kept [.hst, .lnk, .srd, .svc, .fwd, .swc, .tmb, .lnd, .mil, .res, .tly, .nv, .ram, .out, .tables] s (wFwdCmd p v s) := by
  unfold wFwdCmd
  try dsimp only
  repeat' first
    | with_reducible exact Kept.refl _
    | with_reducible exact Kept.idRefl
    | with_reducible apply fun hl h0 h => Kept.trans h (after_kept hl h0)
    | with_reducible apply KeptOut.mono execFwdRead_kept
    | with_reducible apply KeptOut.mono execFwdWrite_kept
    | with_reducible apply KeptOut.mono execExInsert_kept
    | with_reducible apply KeptOut.mono execExDelete_kept
    | with_reducible apply KeptOut.mono execExLookup_kept
    | with_reducible apply KeptOut.mono execLiveInsert_kept
    | with_reducible apply KeptOut.mono execCordonSet_kept
    | with_reducible apply KeptOut.mono execCordonClr_kept
    | with_reducible apply KeptOut.mono execRepair_kept
    | with_reducible apply KeptOut.mono execFlip_kept
    | with_reducible apply KeptOut.mono execConfirm_kept
    | with_reducible apply KeptOut.mono execBatch_kept
    | with_reducible apply fun hl h0 h => Kept.trans h (fwdCommand_kept hl h0)
    | with_reducible apply Kept.step fwdStatus_kept
    | decide
    | (intro _; intros; try dsimp only)
    | dsimp only
    | split

theorem wFwd_kept {p : HPort} {o : Nat} {v : Nat} {s : State} : Kept [.hst, .lnk, .srd, .svc, .fwd, .swc, .tmb, .lnd, .mil, .res, .tly, .nv, .ram, .out, .tables] s (wFwd p o v s) := by
  unfold wFwd
  try dsimp only
  repeat' first
    | with_reducible exact Kept.refl _
    | with_reducible exact Kept.idRefl
    | with_reducible apply Kept.step wFwdCmd_kept
    | (fail_if_no_progress ((with_reducible apply Kept.put_fwd); decide; with_reducible exact rfl))
    | decide
    | (intro _; intros; try dsimp only)
    | dsimp only
    | split

theorem wSwc_kept {p : HPort} {o : Nat} {v : Nat} {s : State} : Kept [.hst, .swc, .tly] s (wSwc p o v s) := by
  unfold wSwc
  try dsimp only
  repeat' first
    | with_reducible exact Kept.refl _
    | with_reducible exact Kept.idRefl
    | with_reducible apply fun hl h0 h => Kept.trans h (after_kept hl h0)
    | with_reducible apply KeptOut.mono execQmaxReset_kept
    | with_reducible apply Kept.step restartSweeps_kept
    | with_reducible apply Kept.ite
    | (fail_if_no_progress ((with_reducible apply Kept.put_swc); decide))
    | decide
    | (intro _; intros; try dsimp only)
    | dsimp only
    | split

theorem wLndCmd_kept {p : HPort} {v : Nat} {s : State} : Kept [.hst, .lnk, .srd, .svc, .fwd, .swc, .tmb, .lnd, .mil, .mem, .res, .tly, .nv, .ram, .out] s (wLndCmd p v s) := by
  unfold wLndCmd
  try dsimp only
  repeat' first
    | with_reducible exact Kept.refl _
    | with_reducible exact Kept.idRefl
    | with_reducible apply fun hl h0 h => Kept.trans h (after_kept hl h0)
    | with_reducible apply KeptOut.mono execInstall_kept
    | with_reducible apply KeptOut.mono execUninstall_kept
    | with_reducible apply KeptOut.mono execWithdraw_kept
    | with_reducible apply KeptOut.mono execLndQuery_kept
    | with_reducible apply KeptOut.mono execLndTrigger_kept
    | with_reducible apply fun hl h0 h => Kept.trans h (lndCommand_kept hl h0)
    | with_reducible apply Kept.step lndStatus_kept
    | decide
    | (intro _; intros; try dsimp only)
    | dsimp only
    | split

theorem wFncCmd_kept {p : HPort} {v : Nat} {s : State} : Kept [.hst, .swc, .tmb, .lnd, .tly, .ram, .out] s (wFncCmd p v s) := by
  unfold wFncCmd
  try dsimp only
  repeat' first
    | with_reducible exact Kept.refl _
    | with_reducible exact Kept.idRefl
    | with_reducible apply fun hl h0 h => Kept.trans h (after_kept hl h0)
    | with_reducible apply KeptOut.mono execFenceArm_kept
    | with_reducible apply KeptOut.mono execFenceDisarm_kept
    | with_reducible apply KeptOut.mono execFenceQuery_kept
    | with_reducible apply KeptOut.mono execSetexp_kept
    | with_reducible apply fun hl h0 h => Kept.trans h (fncCommand_kept hl h0)
    | with_reducible apply Kept.step fncStatus_kept
    | decide
    | (intro _; intros; try dsimp only)
    | dsimp only
    | split

theorem wLnd_kept {p : HPort} {o : Nat} {v : Nat} {s : State} : Kept [.hst, .lnk, .srd, .svc, .fwd, .swc, .tmb, .lnd, .mil, .mem, .res, .tly, .nv, .ram, .out] s (wLnd p o v s) := by
  unfold wLnd
  try dsimp only
  repeat' first
    | with_reducible exact Kept.refl _
    | with_reducible exact Kept.idRefl
    | with_reducible apply Kept.step wLndCmd_kept
    | with_reducible apply Kept.step wFncCmd_kept
    | (fail_if_no_progress ((with_reducible apply Kept.put_lnd); decide))
    | decide
    | (intro _; intros; try dsimp only)
    | dsimp only
    | split

theorem wPgmCmd_kept {p : HPort} {v : Nat} {s : State} : Kept [.hst, .mil, .tly] s (wPgmCmd p v s) := by
  unfold wPgmCmd
  try dsimp only
  repeat' first
    | with_reducible exact Kept.refl _
    | with_reducible exact Kept.idRefl
    | with_reducible apply fun hl h0 h => Kept.trans h (after_kept hl h0)
    | with_reducible apply KeptOut.mono execPgmLoad_kept
    | with_reducible apply KeptOut.mono execPgmUnload_kept
    | with_reducible apply fun hl h0 h => Kept.trans h (pgmCommand_kept hl h0)
    | with_reducible apply Kept.step pgmStatus_kept
    | decide
    | (intro _; intros; try dsimp only)
    | dsimp only
    | split

theorem wBind_kept {p : HPort} {v : Nat} {s : State} : Kept [.hst, .lnk, .svc, .fwd, .swc, .tmb, .lnd, .mil, .mem, .res, .tly, .ram, .out] s (wBind p v s) := by
  unfold wBind
  try dsimp only
  repeat' first
    | with_reducible exact Kept.refl _
    | with_reducible exact Kept.idRefl
    | with_reducible apply fun hl h0 h => Kept.trans h (after_kept hl h0)
    | with_reducible apply KeptOut.mono execBind_kept
    | with_reducible apply KeptOut.mono execUnbind_kept
    | with_reducible apply KeptOut.mono execRebind_kept
    | with_reducible apply KeptOut.mono execBindQuery_kept
    | with_reducible apply KeptOut.mono execRestart_kept
    | with_reducible apply fun hl h0 h => Kept.trans h (bindCommand_kept hl h0)
    | with_reducible apply Kept.step bindStatus_kept
    | decide
    | (intro _; intros; try dsimp only)
    | dsimp only
    | split

theorem wTfCmd_kept {p : HPort} {v : Nat} {s : State} : Kept [.hst, .svc, .mil, .res, .tly, .out] s (wTfCmd p v s) := by
  unfold wTfCmd
  try dsimp only
  repeat' first
    | with_reducible exact Kept.refl _
    | with_reducible exact Kept.idRefl
    | with_reducible apply fun hl h0 h => Kept.trans h (after_kept hl h0)
    | with_reducible apply KeptOut.mono execTfWrite_kept
    | with_reducible apply KeptOut.mono execTfRead_kept
    | with_reducible apply fun hl h0 h => Kept.trans h (tfCommand_kept hl h0)
    | with_reducible apply Kept.step tfStatus_kept
    | decide
    | (intro _; intros; try dsimp only)
    | dsimp only
    | split

theorem wMil_kept {p : HPort} {o : Nat} {v : Nat} {s : State} : Kept [.hst, .lnk, .svc, .fwd, .swc, .tmb, .lnd, .mil, .mem, .res, .tly, .ram, .out] s (wMil p o v s) := by
  unfold wMil
  try dsimp only
  repeat' first
    | with_reducible exact Kept.refl _
    | with_reducible exact Kept.idRefl
    | with_reducible apply Kept.step wPgmCmd_kept
    | with_reducible apply Kept.step wBind_kept
    | with_reducible apply Kept.step wTfCmd_kept
    | with_reducible apply fun hl h0 h => Kept.trans h (after_kept hl h0)
    | with_reducible apply KeptOut.mono execYardFlush_kept
    | with_reducible apply Kept.step wCbCmd_kept
    | with_reducible apply Kept.ite
    | (fail_if_no_progress ((with_reducible apply Kept.put_mil); decide))
    | decide
    | (intro _; intros; try dsimp only)
    | dsimp only
    | split

theorem wFlyCmd_kept {p : HPort} {v : Nat} {s : State} : Kept [.hst, .lnk, .srd, .svc, .fwd, .swc, .tmb, .lnd, .mil, .mem, .opt, .res, .tly, .nv, .ram, .out] s (wFlyCmd p v s) := by
  unfold wFlyCmd
  try dsimp only
  repeat' first
    | with_reducible exact Kept.refl _
    | with_reducible exact Kept.idRefl
    | with_reducible apply fun hl h0 h => Kept.trans h (after_kept hl h0)
    | with_reducible apply KeptOut.mono execFlySet_kept
    | with_reducible apply KeptOut.mono execFlyClear_kept
    | with_reducible apply fun hl h0 h => Kept.trans h (flyCommand_kept hl h0)
    | with_reducible apply Kept.step flyStatus_kept
    | decide
    | (intro _; intros; try dsimp only)
    | dsimp only
    | split

theorem wOpt_kept {p : HPort} {o : Nat} {v : Nat} {s : State} : Kept [.hst, .lnk, .srd, .svc, .fwd, .swc, .tmb, .lnd, .mil, .mem, .opt, .res, .tly, .nv, .ram, .out] s (wOpt p o v s) := by
  unfold wOpt
  try dsimp only
  repeat' first
    | with_reducible exact Kept.refl _
    | with_reducible exact Kept.idRefl
    | with_reducible apply fun hl h0 h => Kept.trans h (after_kept hl h0)
    | with_reducible apply KeptOut.mono execOptCal_kept
    | with_reducible apply Kept.step wFlyCmd_kept
    | with_reducible apply Kept.ite
    | (fail_if_no_progress ((with_reducible apply Kept.put_opt); decide))
    | decide
    | (intro _; intros; try dsimp only)
    | dsimp only
    | split

theorem wPartCmd_kept {p : HPort} {v : Nat} {s : State} : Kept [.hst, .lnk, .srd, .swc, .lnd, .mil, .res, .tly, .out] s (wPartCmd p v s) := by
  unfold wPartCmd
  try dsimp only
  repeat' first
    | with_reducible exact Kept.refl _
    | with_reducible exact Kept.idRefl
    | with_reducible apply fun hl h0 h => Kept.trans h (after_kept hl h0)
    | with_reducible apply KeptOut.mono execPartQuery_kept
    | with_reducible apply KeptOut.mono execPartDrain_kept
    | with_reducible apply KeptOut.mono execPartReturn_kept
    | with_reducible apply KeptOut.mono execPartZero_kept
    | with_reducible apply KeptOut.mono execPartTest_kept
    | with_reducible apply Kept.step partStatus_kept
    | with_reducible apply Kept.ite
    | (fail_if_no_progress ((with_reducible apply Kept.put_res); decide; with_reducible exact rfl))
    | decide
    | (intro _; intros; try dsimp only)
    | dsimp only
    | split

theorem wTestCmd_kept {p : HPort} {v : Nat} {s : State} : Kept [.hst, .res, .tly] s (wTestCmd p v s) := by
  unfold wTestCmd
  try dsimp only
  repeat' first
    | with_reducible exact Kept.refl _
    | with_reducible exact Kept.idRefl
    | with_reducible apply fun hl h0 h => Kept.trans h (after_kept hl h0)
    | with_reducible apply KeptOut.mono execFullSelfTest_kept
    | with_reducible apply Kept.ite
    | (fail_if_no_progress ((with_reducible apply Kept.put_res); decide; with_reducible exact rfl))
    | decide
    | (intro _; intros; try dsimp only)

theorem wRes_kept {p : HPort} {o : Nat} {v : Nat} {s : State} : Kept [.glb, .plt, .hst, .lnk, .srd, .svc, .fwd, .swc, .tmb, .lnd, .mil, .mem, .opt, .res, .tly, .nv, .ram, .out, .lease, .tables] s (wRes p o v s) := by
  unfold wRes
  try dsimp only
  repeat' first
    | with_reducible exact Kept.refl _
    | with_reducible exact Kept.idRefl
    | with_reducible apply Kept.step wLeaseCmd_kept
    | with_reducible apply Kept.step settlePenalties_kept
    | with_reducible apply Kept.step wPartCmd_kept
    | with_reducible apply Kept.step wTestCmd_kept
    | with_reducible apply Kept.step wSpareCmd_kept
    | (fail_if_no_progress ((with_reducible apply Kept.put_res); decide; with_reducible exact rfl))
    | decide
    | (intro _; intros; try dsimp only)
    | dsimp only
    | split

theorem wSec_kept {p : HPort} {o : Nat} {v : Nat} {s : State} : Kept [.glb, .plt, .hst, .lnk, .srd, .svc, .fwd, .swc, .tmb, .lnd, .mil, .mem, .opt, .res, .sec, .tly, .nv, .ram, .fresh, .out, .lease, .keys] s (wSec p o v s) := by
  unfold wSec
  try dsimp only
  repeat' first
    | with_reducible exact Kept.refl _
    | with_reducible exact Kept.idRefl
    | with_reducible apply Kept.step wSecCmd_kept
    | (fail_if_no_progress ((with_reducible apply Kept.put_sec); decide; with_reducible exact rfl))
    | decide
    | (intro _; intros; try dsimp only)
    | dsimp only
    | split

theorem wPwr_kept {p : HPort} {o : Nat} {v : Nat} {s : State} : Kept [.hst, .tly, .pwr] s (wPwr p o v s) := by
  unfold wPwr
  try dsimp only
  repeat' first
    | with_reducible exact Kept.refl _
    | with_reducible exact Kept.idRefl
    | with_reducible apply fun hl h0 h => Kept.trans h (after_kept hl h0)
    | with_reducible apply KeptOut.mono execClrmax_kept
    | with_reducible apply Kept.ite
    | (fail_if_no_progress ((with_reducible apply Kept.put_pwr); decide))
    | decide
    | (intro _; intros; try dsimp only)
    | dsimp only
    | split

theorem wBlock_kept {p : HPort} {off : Nat} {v : Nat} {s : State} : Kept [.glb, .plt, .hst, .lnk, .srd, .svc, .eye, .fwd, .swc, .tmb, .lnd, .mil, .mem, .opt, .res, .sec, .tly, .pwr, .nv, .ram, .fresh, .out, .lease, .tables, .timetable, .keys, .plat] s (wBlock p off v s) := by
  unfold wBlock
  try dsimp only
  repeat' first
    | with_reducible exact Kept.refl _
    | with_reducible exact Kept.idRefl
    | with_reducible apply Kept.step wGlb_kept
    | with_reducible apply Kept.step wPlt_kept
    | with_reducible apply Kept.step wHst_kept
    | with_reducible apply Kept.step wLnk_kept
    | with_reducible apply Kept.step wSrd_kept
    | with_reducible apply Kept.step wFwd_kept
    | with_reducible apply Kept.step wSwc_kept
    | with_reducible apply Kept.step wTmb_kept
    | with_reducible apply Kept.step wLnd_kept
    | with_reducible apply Kept.step wMil_kept
    | with_reducible apply Kept.step wMem_kept
    | with_reducible apply Kept.step wOpt_kept
    | with_reducible apply Kept.step wRes_kept
    | with_reducible apply Kept.step wSec_kept
    | with_reducible apply Kept.step wTly_kept
    | with_reducible apply Kept.step wPwr_kept
    | with_reducible apply Kept.ite
    | decide

theorem wIrq_kept {p : HPort} {n : Nat} {v : Nat} {s : State} : Kept [.hst] s (wIrq p n v s) := by
  unfold wIrq
  try dsimp only
  repeat' first
    | with_reducible exact Kept.refl _
    | with_reducible exact Kept.idRefl
    | with_reducible apply Kept.step State.modHost_kept
    | decide

theorem wTake_kept {p : HPort} {v : Nat} {s : State} : Kept [.hst, .fresh, .out, .own] s (wTake p v s) := by
  unfold wTake
  try dsimp only
  repeat' first
    | with_reducible exact Kept.refl _
    | with_reducible exact Kept.idRefl
    | with_reducible apply fun hl h0 h => Kept.trans h (after_kept hl h0)
    | with_reducible apply KeptOut.mono execClaim_kept
    | with_reducible apply KeptOut.mono execHostRenew_kept
    | with_reducible apply KeptOut.mono execHostYield_kept
    | with_reducible apply KeptOut.mono execForce_kept
    | with_reducible apply Kept.step hostTake_kept
    | decide
    | (intro _; intros; try dsimp only)
    | dsimp only
    | split

theorem holdLow_kept {p : HPort} {lo : Nat} {v : Nat} {s : State} : Kept [.hst] s (holdLow p lo v s) := by
  unfold holdLow
  try dsimp only
  repeat' first
    | with_reducible exact Kept.refl _
    | with_reducible exact Kept.idRefl
    | with_reducible apply Kept.step State.modHost_kept
    | decide

theorem devWrite_kept {p : HPort} {off : Nat} {v : Nat} {s : State} : Kept [.glb, .plt, .hst, .lnk, .srd, .svc, .eye, .fwd, .swc, .tmb, .lnd, .mil, .mem, .opt, .res, .sec, .tly, .pwr, .nv, .ram, .fresh, .out, .lease, .tables, .timetable, .keys, .plat] s (devWrite p off v s) := by
  unfold devWrite
  try dsimp only
  repeat' first
    | with_reducible exact Kept.refl _
    | with_reducible exact Kept.idRefl
    | with_reducible apply Kept.step holdLow_kept
    | with_reducible apply Kept.step writeHigh_kept
    | with_reducible apply Kept.step wBlock_kept
    | with_reducible apply Kept.ite
    | decide

theorem wDma_kept {p : HPort} {c : Nat} {off : Nat} {o : Nat} {v : Nat} {s : State} : Kept [.hst] s (wDma p c off o v s) := by
  unfold wDma
  try dsimp only
  repeat' first
    | with_reducible exact Kept.refl _
    | with_reducible exact Kept.idRefl
    | with_reducible apply Kept.step holdLow_kept
    | with_reducible apply Kept.step modDma_kept
    | with_reducible apply Kept.step emptyLatch_kept
    | with_reducible apply Kept.ite
    | decide
    | (intro _; intros; try dsimp only)
    | dsimp only
    | split

theorem wMsix_kept {p : HPort} {o : Nat} {v : Nat} {s : State} : Kept [.hst, .out] s (wMsix p o v s) := by
  unfold wMsix
  try dsimp only
  repeat' first
    | with_reducible exact Kept.refl _
    | with_reducible exact Kept.idRefl
    | with_reducible apply Kept.step State.modHost_kept
    | with_reducible apply Kept.step sendVector_kept
    | with_reducible apply Kept.ite
    | decide
    | (intro _; intros; try dsimp only)
    | dsimp only
    | split

theorem ownWrite_kept {p : HPort} {o v : Nat} {f : State → State} {s : State} (e : ownWrite p o v = some f) :
    Kept [.hst, .fresh, .out, .own] s (f s) := by
  unfold ownWrite at e
  split at e
  · rw [← Option.some.inj e]; exact Kept.mono wTake_kept (by decide)
  split at e
  · rw [← Option.some.inj e]; exact Kept.mono State.modHost_kept (by decide)
  split at e
  · rw [← Option.some.inj e]; exact Kept.mono wIrq_kept (by decide)
  split at e
  · rw [← Option.some.inj e]; exact Kept.mono wDma_kept (by decide)
  split at e
  · rw [← Option.some.inj e]; exact Kept.mono wMsix_kept (by decide)
  split at e
  · rw [← Option.some.inj e]; exact Kept.refl _
  split at e
  · rw [← Option.some.inj e]; exact Kept.mono State.modHost_kept (by decide)
  · cases e

theorem busWrite_kept {p : HPort} {off : Nat} {v : Nat} {s : State} : Kept [.glb, .plt, .hst, .lnk, .srd, .svc, .eye, .fwd, .swc, .tmb, .lnd, .mil, .mem, .opt, .res, .sec, .tly, .pwr, .nv, .ram, .fresh, .out, .lease, .own, .tables, .timetable, .keys, .plat] s (busWrite p off v s) := by
  unfold busWrite
  refine Kept.ite (Kept.refl _) (Kept.ite (Kept.mono count_kept (by decide)) ?_)
  split
  · next e =>
    split at e
    · exact portWrite_kept (by decide) (fun _ => Kept.mono (ownWrite_kept e) (by decide))
    · cases e
  · exact hostWrite_kept (by decide) (fun _ => Kept.mono devWrite_kept (by decide))

theorem execRegisterWrite_kept {p : HPort} {off : BitVec 26} {v : Word} {s : State} : KeptOut [.glb, .plt, .hst, .lnk, .srd, .svc, .eye, .fwd, .swc, .tmb, .lnd, .mil, .mem, .opt, .res, .sec, .tly, .pwr, .nv, .ram, .fresh, .out, .lease, .own, .tables, .timetable, .keys, .plat] s (execRegisterWrite p off v s) := by
  unfold execRegisterWrite
  try dsimp only
  repeat' first
    | with_reducible exact Kept.refl _
    | with_reducible exact Kept.idRefl
    | with_reducible apply Kept.step busWrite_kept
    | with_reducible apply Kept.next
    | decide

theorem sendDebug_kept {type : Byte} {seq : Byte} {payload : List Byte} {s : State} : Kept [.pwr, .out] s (sendDebug type seq payload s) := by
  unfold sendDebug
  try dsimp only
  repeat' first
    | with_reducible exact Kept.refl _
    | with_reducible exact Kept.idRefl
    | with_reducible apply Kept.step emit_kept
    | (fail_if_no_progress ((with_reducible apply Kept.put_pwr); decide))
    | decide

theorem dbgStatus_kept {seq : Byte} {st : Nat} {s : State} : Kept [.pwr, .out] s (dbgStatus seq st s) := by
  unfold dbgStatus
  try dsimp only
  repeat' first
    | with_reducible exact Kept.refl _
    | with_reducible exact Kept.idRefl
    | with_reducible apply Kept.step sendDebug_kept
    | decide

theorem halt_kept {seq : Byte} {action : Byte} {s : State} : Kept [.pwr, .out] s (halt seq action s) := by
  unfold halt
  try dsimp only
  repeat' first
    | with_reducible exact Kept.refl _
    | with_reducible exact Kept.idRefl
    | with_reducible apply Kept.step dbgStatus_kept
    | with_reducible apply Kept.ite
    | (fail_if_no_progress ((with_reducible apply Kept.put_pwr); decide))
    | decide

theorem onDebug_kept {type : Byte} {codes : List Code} {laid : List Byte → Bool} {f : Byte → List Byte → State → State} {s : State} {L : List Blk} (hL : [.pwr, .out] ⊆ L) (hf : ∀ x0 x1 t, Kept L t (f x0 x1 t)) : Kept L s (onDebug type codes laid f s) := by
  unfold onDebug
  try dsimp only
  repeat' first
    | with_reducible exact Kept.refl _
    | with_reducible exact Kept.idRefl
    | with_reducible apply fun h => Kept.trans h (hf _ _ _)
    | with_reducible apply Kept.step dbgStatus_kept
    | with_reducible apply Kept.ite
    | (fail_if_no_progress ((with_reducible apply Kept.put_pwr); exact hL (by decide)))
    | exact List.Subset.trans (by decide) hL
    | exact hL (by decide)
    | exact hL
    | (intro _; intros; try dsimp only)
    | dsimp only
    | split

theorem atLevel_kept {level : Nat} {seq : Byte} {f : State → State} {s : State} {L : List Blk} (hL : [.pwr, .out] ⊆ L) (hf : ∀ t, Kept L t (f t)) : Kept L s (atLevel level seq f s) := by
  unfold atLevel
  try dsimp only
  repeat' first
    | with_reducible exact Kept.refl _
    | with_reducible exact Kept.idRefl
    | with_reducible apply fun h => Kept.trans h (hf _)
    | with_reducible apply Kept.step dbgStatus_kept
    | with_reducible apply Kept.ite
    | exact List.Subset.trans (by decide) hL

theorem execHalt_kept {seq action : List Code} {s : State} : KeptOut [.pwr, .out] s (execHalt seq action s) := by
  unfold execHalt
  try dsimp only
  repeat' first
    | with_reducible exact Kept.refl _
    | with_reducible exact Kept.idRefl
    | with_reducible apply fun hl h0 h => Kept.trans h (onDebug_kept hl h0)
    | with_reducible apply fun hl h0 h => Kept.trans h (atLevel_kept hl h0)
    | with_reducible apply Kept.step halt_kept
    | with_reducible apply Kept.next
    | decide
    | (intro _; intros; try dsimp only)

theorem debugBusWrite_kept {off : Nat} {v : Nat} {s : State} : Kept [.glb, .plt, .hst, .lnk, .srd, .svc, .eye, .fwd, .swc, .tmb, .lnd, .mil, .mem, .opt, .res, .sec, .tly, .pwr, .nv, .ram, .fresh, .out, .lease, .own, .tables, .timetable, .keys, .plat] s (debugBusWrite off v s) := by
  unfold debugBusWrite
  try dsimp only
  repeat' first
    | with_reducible exact Kept.refl _
    | with_reducible exact Kept.idRefl
    | with_reducible apply Kept.step busWrite_kept
    | with_reducible apply Kept.ite
    | (fail_if_no_progress ((with_reducible apply Kept.put_hst); decide; with_reducible exact rfl))
    | (fail_if_no_progress ((with_reducible apply Kept.put_hst_own); decide; decide))
    | decide

theorem debugBusWrites_kept {a0 : Nat} {a1 : List Word} {a2 : State} : Kept [.glb, .plt, .hst, .lnk, .srd, .svc, .eye, .fwd, .swc, .tmb, .lnd, .mil, .mem, .opt, .res, .sec, .tly, .pwr, .nv, .ram, .fresh, .out, .lease, .own, .tables, .timetable, .keys, .plat] a2 (debugBusWrites a0 a1 a2) := by
  induction a1 generalizing a0 a2 with
  | nil =>
    unfold debugBusWrites
    try dsimp only
    repeat' first
      | with_reducible exact Kept.refl _
  | cons x r ih =>
    unfold debugBusWrites
    try dsimp only
    repeat' first
      | with_reducible exact Kept.refl _
      | with_reducible exact Kept.idRefl
      | with_reducible apply fun h => Kept.trans h ih
      | with_reducible apply Kept.step debugBusWrite_kept
      | decide

theorem unlock_kept {seq : Byte} {resp : List Byte} {s : State} : Kept [.glb, .plt, .hst, .lnk, .srd, .svc, .fwd, .swc, .tmb, .lnd, .mil, .mem, .opt, .res, .sec, .tly, .pwr, .nv, .ram, .out, .lease, .keys] s (unlock seq resp s) := by
  unfold unlock
  try dsimp only
  repeat' first
    | with_reducible exact Kept.refl _
    | with_reducible exact Kept.idRefl
    | with_reducible apply Kept.step tryUnlock_kept
    | with_reducible apply Kept.step dbgStatus_kept
    | decide

theorem execUnlock_kept {seq resp : List Code} {s : State} : KeptOut [.glb, .plt, .hst, .lnk, .srd, .svc, .fwd, .swc, .tmb, .lnd, .mil, .mem, .opt, .res, .sec, .tly, .pwr, .nv, .ram, .out, .lease, .keys] s (execUnlock seq resp s) := by
  unfold execUnlock
  try dsimp only
  repeat' first
    | with_reducible exact Kept.refl _
    | with_reducible exact Kept.idRefl
    | with_reducible apply fun hl h0 h => Kept.trans h (onDebug_kept hl h0)
    | with_reducible apply Kept.step unlock_kept
    | with_reducible apply Kept.next
    | decide
    | (intro _; intros; try dsimp only)

theorem execLock_kept {codes : List Code} {s : State} : KeptOut [.sec, .pwr, .out] s (execLock codes s) := by
  unfold execLock
  try dsimp only
  repeat' first
    | with_reducible exact Kept.refl _
    | with_reducible exact Kept.idRefl
    | with_reducible apply fun hl h0 h => Kept.trans h (onDebug_kept hl h0)
    | with_reducible apply Kept.step dbgStatus_kept
    | with_reducible apply Kept.step lockDebug_kept
    | with_reducible apply Kept.next
    | decide
    | (intro _; intros; try dsimp only)

theorem chalReq_kept {seq : Byte} {s : State} : Kept [.sec, .pwr, .fresh, .out] s (chalReq seq s) := by
  unfold chalReq
  try dsimp only
  repeat' first
    | with_reducible exact Kept.refl _
    | with_reducible exact Kept.idRefl
    | with_reducible apply Kept.step newChallenge_kept
    | with_reducible apply Kept.step sendDebug_kept
    | decide
    | (intro _; intros; try dsimp only)
    | dsimp only
    | split

theorem dbgRegRead_kept {seq : Byte} {off : Nat} {count : Nat} {s : State} : Kept [.pwr, .out] s (dbgRegRead seq off count s) := by
  unfold dbgRegRead
  try dsimp only
  repeat' first
    | with_reducible exact Kept.refl _
    | with_reducible exact Kept.idRefl
    | with_reducible apply Kept.step dbgStatus_kept
    | with_reducible apply Kept.step sendDebug_kept
    | with_reducible apply Kept.ite
    | decide

theorem execRegRead_kept {seq off count : List Code} {s : State} : KeptOut [.pwr, .out] s (execRegRead seq off count s) := by
  unfold execRegRead
  try dsimp only
  repeat' first
    | with_reducible exact Kept.refl _
    | with_reducible exact Kept.idRefl
    | with_reducible apply fun hl h0 h => Kept.trans h (onDebug_kept hl h0)
    | with_reducible apply fun hl h0 h => Kept.trans h (atLevel_kept hl h0)
    | with_reducible apply Kept.step dbgRegRead_kept
    | with_reducible apply Kept.next
    | decide
    | (intro _; intros; try dsimp only)

theorem dbgMemWrite_kept {seq : Byte} {space : Byte} {addr : Nat} {data : List Byte} {s : State} : Kept [.glb, .plt, .hst, .lnk, .srd, .svc, .eye, .fwd, .swc, .tmb, .lnd, .mil, .mem, .opt, .res, .sec, .tly, .pwr, .nv, .ram, .fresh, .out, .lease, .own, .tables, .timetable, .keys, .plat] s (dbgMemWrite seq space addr data s) := by
  unfold dbgMemWrite
  try dsimp only
  repeat' first
    | with_reducible exact Kept.refl _
    | with_reducible exact Kept.idRefl
    | with_reducible apply Kept.step dbgStatus_kept
    | with_reducible apply Kept.step debugBusWrites_kept
    | with_reducible apply Kept.ite
    | (fail_if_no_progress ((with_reducible apply Kept.put_pwr); decide))
    | decide
    | (intro _; intros; try dsimp only)
    | dsimp only
    | split

theorem inRecovery_kept {seq : Byte} {f : State → State} {s : State} {L : List Blk} (hL : [.pwr, .out] ⊆ L) (hf : ∀ t, Kept L t (f t)) : Kept L s (inRecovery seq f s) := by
  unfold inRecovery
  try dsimp only
  repeat' first
    | with_reducible exact Kept.refl _
    | with_reducible exact Kept.idRefl
    | with_reducible apply fun h => Kept.trans h (hf _)
    | with_reducible apply Kept.step dbgStatus_kept
    | with_reducible apply Kept.ite
    | exact List.Subset.trans (by decide) hL

theorem fwChunk_kept {seq : Byte} {off : Nat} {data : List Byte} {s : State} : Kept [.pwr, .out] s (fwChunk seq off data s) := by
  unfold fwChunk
  try dsimp only
  repeat' first
    | with_reducible exact Kept.refl _
    | with_reducible exact Kept.idRefl
    | with_reducible apply Kept.step dbgStatus_kept
    | with_reducible apply Kept.ite
    | (fail_if_no_progress ((with_reducible apply Kept.put_pwr); decide))
    | decide

theorem execFwChunk_kept {seq off data : List Code} {s : State} : KeptOut [.pwr, .out] s (execFwChunk seq off data s) := by
  unfold execFwChunk
  try dsimp only
  repeat' first
    | with_reducible exact Kept.refl _
    | with_reducible exact Kept.idRefl
    | with_reducible apply fun hl h0 h => Kept.trans h (onDebug_kept hl h0)
    | with_reducible apply fun hl h0 h => Kept.trans h (inRecovery_kept hl h0)
    | with_reducible apply Kept.step fwChunk_kept
    | with_reducible apply Kept.next
    | decide
    | (intro _; intros; try dsimp only)

theorem fwDone_kept {seq : Byte} {len : Nat} {flashOk : Bool} {s : State} : Kept [.glb, .plt, .hst, .lnk, .srd, .svc, .eye, .fwd, .swc, .tmb, .lnd, .mil, .mem, .opt, .res, .sec, .tly, .pwr, .nv, .ram, .out, .lease, .own, .fw, .tables, .timetable, .keys, .plat] s (fwDone seq len flashOk s) := by
  unfold fwDone
  try dsimp only
  repeat' first
    | with_reducible exact Kept.refl _
    | with_reducible exact Kept.idRefl
    | with_reducible apply Kept.step dbgStatus_kept
    | with_reducible apply Kept.step sigFail_kept
    | with_reducible apply Kept.step tryStart_kept
    | with_reducible apply Kept.step deviceReset_kept
    | with_reducible apply Kept.ite
    | (fail_if_no_progress ((with_reducible apply Kept.put_nv); decide; with_reducible exact rfl))
    | decide

theorem execFwDone_kept {seq len : List Code} {flashOk : Bool} {s : State} : KeptOut [.glb, .plt, .hst, .lnk, .srd, .svc, .eye, .fwd, .swc, .tmb, .lnd, .mil, .mem, .opt, .res, .sec, .tly, .pwr, .nv, .ram, .out, .lease, .own, .fw, .tables, .timetable, .keys, .plat] s (execFwDone seq len flashOk s) := by
  unfold execFwDone
  try dsimp only
  repeat' first
    | with_reducible exact Kept.refl _
    | with_reducible exact Kept.idRefl
    | with_reducible apply fun hl h0 h => Kept.trans h (onDebug_kept hl h0)
    | with_reducible apply fun hl h0 h => Kept.trans h (inRecovery_kept hl h0)
    | with_reducible apply Kept.step fwDone_kept
    | with_reducible apply Kept.next
    | decide
    | (intro _; intros; try dsimp only)

theorem execChalReq_kept {codes : List Code} {s : State} : KeptOut [.sec, .pwr, .fresh, .out] s (execChalReq codes s) := by
  unfold execChalReq
  try dsimp only
  repeat' first
    | with_reducible exact Kept.refl _
    | with_reducible exact Kept.idRefl
    | with_reducible apply fun hl h0 h => Kept.trans h (onDebug_kept hl h0)
    | with_reducible apply Kept.step chalReq_kept
    | with_reducible apply Kept.next
    | decide
    | (intro _; intros; try dsimp only)

theorem execDbgEnChange_kept {asserted : Bool} {s : State} : KeptOut [.pwr] s (execDbgEnChange asserted s) := by
  unfold execDbgEnChange
  try dsimp only
  repeat' first
    | with_reducible exact Kept.refl _
    | with_reducible exact Kept.idRefl
    | (fail_if_no_progress ((with_reducible apply Kept.put_pwr); decide))
    | with_reducible apply Kept.next

theorem dbgMemRead_kept {seq : Byte} {space : Byte} {addr : Nat} {len : Nat} {s : State} : Kept [.pwr, .out] s (dbgMemRead seq space addr len s) := by
  unfold dbgMemRead
  try dsimp only
  repeat' first
    | with_reducible exact Kept.refl _
    | with_reducible exact Kept.idRefl
    | with_reducible apply Kept.step dbgStatus_kept
    | with_reducible apply Kept.step sendDebug_kept
    | with_reducible apply Kept.ite
    | decide

theorem execMemRead_kept {seq space addr len : List Code} {s : State} : KeptOut [.pwr, .out] s (execMemRead seq space addr len s) := by
  unfold execMemRead
  try dsimp only
  repeat' first
    | with_reducible exact Kept.refl _
    | with_reducible exact Kept.idRefl
    | with_reducible apply fun hl h0 h => Kept.trans h (onDebug_kept hl h0)
    | with_reducible apply fun hl h0 h => Kept.trans h (atLevel_kept hl h0)
    | with_reducible apply Kept.step dbgMemRead_kept
    | with_reducible apply Kept.next
    | decide
    | (intro _; intros; try dsimp only)

theorem execMemWrite_kept {seq space addr data : List Code} {s : State} : KeptOut [.glb, .plt, .hst, .lnk, .srd, .svc, .eye, .fwd, .swc, .tmb, .lnd, .mil, .mem, .opt, .res, .sec, .tly, .pwr, .nv, .ram, .fresh, .out, .lease, .own, .tables, .timetable, .keys, .plat] s (execMemWrite seq space addr data s) := by
  unfold execMemWrite
  try dsimp only
  repeat' first
    | with_reducible exact Kept.refl _
    | with_reducible exact Kept.idRefl
    | with_reducible apply fun hl h0 h => Kept.trans h (onDebug_kept hl h0)
    | with_reducible apply fun hl h0 h => Kept.trans h (atLevel_kept hl h0)
    | with_reducible apply Kept.step dbgMemWrite_kept
    | with_reducible apply Kept.next
    | decide
    | (intro _; intros; try dsimp only)

theorem execSmbusBlockRead_kept {cmd : Byte} {isWrite : Bool} {s : State} : KeptOut [.out] s (execSmbusBlockRead cmd isWrite s) := by
  unfold execSmbusBlockRead
  try dsimp only
  repeat' first
    | with_reducible exact Kept.refl _
    | with_reducible exact Kept.idRefl
    | with_reducible apply Kept.step emit_kept
    | with_reducible apply Kept.ite
    | with_reducible apply Kept.next
    | decide

end Sys2Proof.Machine
end

