-- ==== Sys2Proof/Laws/Memory.lean ====
section
/-! SUPPORT. LPDDR5X (R388): what reads and writes of it can do. -/
namespace Sys2Proof.Machine

@[simp] theorem length_rdMem (s : State) (a n : Nat) : (rdMem s a n).length = n := by simp [rdMem]

/-- One byte of a read. -/
theorem getElem_rdMem (s : State) (a n i : Nat) (h : i < (rdMem s a n).length) :
    (rdMem s a n)[i] = if a + i < s.capacity then tget 0 s.ram (a + i) else 0 := by simp [rdMem]

/-- A read is the reads of its two parts. -/
theorem rdMem_append (s : State) (a m n : Nat) : rdMem s a (m + n) = rdMem s a m ++ rdMem s (a + m) n := by
  simp [rdMem, List.range_add, Function.comp_def, Nat.add_assoc]

/-- Two states whose memory reads the same byte by byte read the same. -/
theorem rdMem_congr {s t : State} {a n : Nat} (hc : t.capacity = s.capacity) (h : ∀ i, i < n → tget 0 t.ram (a + i) = tget 0 s.ram (a + i)) :
    rdMem t a n = rdMem s a n := by
  simp only [rdMem, hc]
  refine List.map_congr_left fun i hi => ?_
  rw [h i (List.mem_range.1 hi)]

/-- Where nothing is listed, a read gives zeros. -/
theorem rdMem_zeros {s : State} {a n : Nat} (h : ∀ i, i < n → tget 0 s.ram (a + i) = 0) : rdMem s a n = zeros n := by
  simp only [rdMem, zeros]
  refine List.ext_getElem (by simp) fun i h1 _ => ?_
  simp only [List.length_map, List.length_range] at h1
  simpa using fun _ => h i h1

/-- A field that lies in the first part of some bytes. -/
theorem leAt_append_left {x y : List Byte} {off n : Nat} (h : off + n ≤ x.length) : leAt (x ++ y) off n = leAt x off n := by
  have e : (List.drop off (x ++ y)).take n = (List.drop off x).take n := by
    rw [List.drop_append_of_le_length (by omega), List.take_append_of_le_length (by simp; omega)]
  simp [leAt, slice, e]

@[simp] theorem wrMem_capacity (s : State) (a : Nat) (b : List Byte) : (wrMem s a b).capacity = s.capacity := rfl

/-- What was written is read back, where it lies within the fitted memory. -/
theorem rdMem_wrMem (s : State) (a : Nat) (b : List Byte) (h : a + b.length ≤ s.capacity) : rdMem (wrMem s a b) a b.length = b := by
  refine List.ext_getElem (by simp) fun i h1 h2 => ?_
  rw [getElem_rdMem, wrMem_capacity, if_pos (by omega)]
  have e : b.take (s.capacity - a) = b := List.take_of_length_le (by omega)
  simp only [wrMem, e, tget_tsetL]
  rw [if_pos (by omega)]
  simp [h2]

/-- A read elsewhere is not touched by a write. -/
theorem rdMem_wrMem_of_ne (s : State) (a c n : Nat) (b : List Byte) (h : c + n ≤ a ∨ a + b.length ≤ c) : rdMem (wrMem s a b) c n = rdMem s c n := by
  refine rdMem_congr rfl fun i hi => ?_
  simp only [wrMem, tget_tsetL]
  rw [if_neg (by simp; omega)]

end Sys2Proof.Machine
end

