-- ==== Sys2Proof/Laws/State.lean ====
section
/-! SUPPORT. What the named updates of the state leave alone, field by field, and what an accessor reads after its own update. -/
namespace Sys2Proof.Machine
open Sys2Proof

@[simp] theorem emit_glb (e : Emission) (s : State) : (emit e s).glb = s.glb := rfl
@[simp] theorem emit_plt (e : Emission) (s : State) : (emit e s).plt = s.plt := rfl
@[simp] theorem emit_hst (e : Emission) (s : State) : (emit e s).hst = s.hst := rfl
@[simp] theorem emit_lnk (e : Emission) (s : State) : (emit e s).lnk = s.lnk := rfl
@[simp] theorem emit_srd (e : Emission) (s : State) : (emit e s).srd = s.srd := rfl
@[simp] theorem emit_svc (e : Emission) (s : State) : (emit e s).svc = s.svc := rfl
@[simp] theorem emit_eye (e : Emission) (s : State) : (emit e s).eye = s.eye := rfl
@[simp] theorem emit_fwd (e : Emission) (s : State) : (emit e s).fwd = s.fwd := rfl
@[simp] theorem emit_swc (e : Emission) (s : State) : (emit e s).swc = s.swc := rfl
@[simp] theorem emit_tmb (e : Emission) (s : State) : (emit e s).tmb = s.tmb := rfl
@[simp] theorem emit_lnd (e : Emission) (s : State) : (emit e s).lnd = s.lnd := rfl
@[simp] theorem emit_mil (e : Emission) (s : State) : (emit e s).mil = s.mil := rfl
@[simp] theorem emit_mem (e : Emission) (s : State) : (emit e s).mem = s.mem := rfl
@[simp] theorem emit_opt (e : Emission) (s : State) : (emit e s).opt = s.opt := rfl
@[simp] theorem emit_res (e : Emission) (s : State) : (emit e s).res = s.res := rfl
@[simp] theorem emit_sec (e : Emission) (s : State) : (emit e s).sec = s.sec := rfl
@[simp] theorem emit_tly (e : Emission) (s : State) : (emit e s).tly = s.tly := rfl
@[simp] theorem emit_pwr (e : Emission) (s : State) : (emit e s).pwr = s.pwr := rfl
@[simp] theorem emit_nv (e : Emission) (s : State) : (emit e s).nv = s.nv := rfl
@[simp] theorem emit_ram (e : Emission) (s : State) : (emit e s).ram = s.ram := rfl
@[simp] theorem emit_clk (e : Emission) (s : State) : (emit e s).clk = s.clk := rfl
@[simp] theorem emit_fresh (e : Emission) (s : State) : (emit e s).fresh = s.fresh := rfl
@[simp] theorem emit_pending (e : Emission) (s : State) : (emit e s).pending = s.pending := rfl

@[simp] theorem countN_glb (ev n : Nat) (s : State) : (countN ev n s).glb = s.glb := rfl
@[simp] theorem countN_plt (ev n : Nat) (s : State) : (countN ev n s).plt = s.plt := rfl
@[simp] theorem countN_hst (ev n : Nat) (s : State) : (countN ev n s).hst = s.hst := rfl
@[simp] theorem countN_lnk (ev n : Nat) (s : State) : (countN ev n s).lnk = s.lnk := rfl
@[simp] theorem countN_srd (ev n : Nat) (s : State) : (countN ev n s).srd = s.srd := rfl
@[simp] theorem countN_svc (ev n : Nat) (s : State) : (countN ev n s).svc = s.svc := rfl
@[simp] theorem countN_eye (ev n : Nat) (s : State) : (countN ev n s).eye = s.eye := rfl
@[simp] theorem countN_fwd (ev n : Nat) (s : State) : (countN ev n s).fwd = s.fwd := rfl
@[simp] theorem countN_swc (ev n : Nat) (s : State) : (countN ev n s).swc = s.swc := rfl
@[simp] theorem countN_tmb (ev n : Nat) (s : State) : (countN ev n s).tmb = s.tmb := rfl
@[simp] theorem countN_lnd (ev n : Nat) (s : State) : (countN ev n s).lnd = s.lnd := rfl
@[simp] theorem countN_mil (ev n : Nat) (s : State) : (countN ev n s).mil = s.mil := rfl
@[simp] theorem countN_mem (ev n : Nat) (s : State) : (countN ev n s).mem = s.mem := rfl
@[simp] theorem countN_opt (ev n : Nat) (s : State) : (countN ev n s).opt = s.opt := rfl
@[simp] theorem countN_res (ev n : Nat) (s : State) : (countN ev n s).res = s.res := rfl
@[simp] theorem countN_sec (ev n : Nat) (s : State) : (countN ev n s).sec = s.sec := rfl
@[simp] theorem countN_pwr (ev n : Nat) (s : State) : (countN ev n s).pwr = s.pwr := rfl
@[simp] theorem countN_nv (ev n : Nat) (s : State) : (countN ev n s).nv = s.nv := rfl
@[simp] theorem countN_ram (ev n : Nat) (s : State) : (countN ev n s).ram = s.ram := rfl
@[simp] theorem countN_clk (ev n : Nat) (s : State) : (countN ev n s).clk = s.clk := rfl
@[simp] theorem countN_fresh (ev n : Nat) (s : State) : (countN ev n s).fresh = s.fresh := rfl
@[simp] theorem countN_out (ev n : Nat) (s : State) : (countN ev n s).out = s.out := rfl
@[simp] theorem countN_pending (ev n : Nat) (s : State) : (countN ev n s).pending = s.pending := rfl

@[simp] theorem count_glb (ev : Nat) (s : State) : (count ev s).glb = s.glb := rfl
@[simp] theorem count_plt (ev : Nat) (s : State) : (count ev s).plt = s.plt := rfl
@[simp] theorem count_hst (ev : Nat) (s : State) : (count ev s).hst = s.hst := rfl
@[simp] theorem count_lnk (ev : Nat) (s : State) : (count ev s).lnk = s.lnk := rfl
@[simp] theorem count_srd (ev : Nat) (s : State) : (count ev s).srd = s.srd := rfl
@[simp] theorem count_svc (ev : Nat) (s : State) : (count ev s).svc = s.svc := rfl
@[simp] theorem count_eye (ev : Nat) (s : State) : (count ev s).eye = s.eye := rfl
@[simp] theorem count_fwd (ev : Nat) (s : State) : (count ev s).fwd = s.fwd := rfl
@[simp] theorem count_swc (ev : Nat) (s : State) : (count ev s).swc = s.swc := rfl
@[simp] theorem count_tmb (ev : Nat) (s : State) : (count ev s).tmb = s.tmb := rfl
@[simp] theorem count_lnd (ev : Nat) (s : State) : (count ev s).lnd = s.lnd := rfl
@[simp] theorem count_mil (ev : Nat) (s : State) : (count ev s).mil = s.mil := rfl
@[simp] theorem count_mem (ev : Nat) (s : State) : (count ev s).mem = s.mem := rfl
@[simp] theorem count_opt (ev : Nat) (s : State) : (count ev s).opt = s.opt := rfl
@[simp] theorem count_res (ev : Nat) (s : State) : (count ev s).res = s.res := rfl
@[simp] theorem count_sec (ev : Nat) (s : State) : (count ev s).sec = s.sec := rfl
@[simp] theorem count_pwr (ev : Nat) (s : State) : (count ev s).pwr = s.pwr := rfl
@[simp] theorem count_nv (ev : Nat) (s : State) : (count ev s).nv = s.nv := rfl
@[simp] theorem count_ram (ev : Nat) (s : State) : (count ev s).ram = s.ram := rfl
@[simp] theorem count_clk (ev : Nat) (s : State) : (count ev s).clk = s.clk := rfl
@[simp] theorem count_fresh (ev : Nat) (s : State) : (count ev s).fresh = s.fresh := rfl
@[simp] theorem count_out (ev : Nat) (s : State) : (count ev s).out = s.out := rfl
@[simp] theorem count_pending (ev : Nat) (s : State) : (count ev s).pending = s.pending := rfl

@[simp] theorem countXN_glb (fam k n : Nat) (s : State) : (countXN fam k n s).glb = s.glb := rfl
@[simp] theorem countXN_plt (fam k n : Nat) (s : State) : (countXN fam k n s).plt = s.plt := rfl
@[simp] theorem countXN_hst (fam k n : Nat) (s : State) : (countXN fam k n s).hst = s.hst := rfl
@[simp] theorem countXN_lnk (fam k n : Nat) (s : State) : (countXN fam k n s).lnk = s.lnk := rfl
@[simp] theorem countXN_srd (fam k n : Nat) (s : State) : (countXN fam k n s).srd = s.srd := rfl
@[simp] theorem countXN_svc (fam k n : Nat) (s : State) : (countXN fam k n s).svc = s.svc := rfl
@[simp] theorem countXN_eye (fam k n : Nat) (s : State) : (countXN fam k n s).eye = s.eye := rfl
@[simp] theorem countXN_fwd (fam k n : Nat) (s : State) : (countXN fam k n s).fwd = s.fwd := rfl
@[simp] theorem countXN_swc (fam k n : Nat) (s : State) : (countXN fam k n s).swc = s.swc := rfl
@[simp] theorem countXN_tmb (fam k n : Nat) (s : State) : (countXN fam k n s).tmb = s.tmb := rfl
@[simp] theorem countXN_lnd (fam k n : Nat) (s : State) : (countXN fam k n s).lnd = s.lnd := rfl
@[simp] theorem countXN_mil (fam k n : Nat) (s : State) : (countXN fam k n s).mil = s.mil := rfl
@[simp] theorem countXN_mem (fam k n : Nat) (s : State) : (countXN fam k n s).mem = s.mem := rfl
@[simp] theorem countXN_opt (fam k n : Nat) (s : State) : (countXN fam k n s).opt = s.opt := rfl
@[simp] theorem countXN_res (fam k n : Nat) (s : State) : (countXN fam k n s).res = s.res := rfl
@[simp] theorem countXN_sec (fam k n : Nat) (s : State) : (countXN fam k n s).sec = s.sec := rfl
@[simp] theorem countXN_pwr (fam k n : Nat) (s : State) : (countXN fam k n s).pwr = s.pwr := rfl
@[simp] theorem countXN_nv (fam k n : Nat) (s : State) : (countXN fam k n s).nv = s.nv := rfl
@[simp] theorem countXN_ram (fam k n : Nat) (s : State) : (countXN fam k n s).ram = s.ram := rfl
@[simp] theorem countXN_clk (fam k n : Nat) (s : State) : (countXN fam k n s).clk = s.clk := rfl
@[simp] theorem countXN_fresh (fam k n : Nat) (s : State) : (countXN fam k n s).fresh = s.fresh := rfl
@[simp] theorem countXN_out (fam k n : Nat) (s : State) : (countXN fam k n s).out = s.out := rfl
@[simp] theorem countXN_pending (fam k n : Nat) (s : State) : (countXN fam k n s).pending = s.pending := rfl

@[simp] theorem countX_glb (fam k : Nat) (s : State) : (countX fam k s).glb = s.glb := rfl
@[simp] theorem countX_plt (fam k : Nat) (s : State) : (countX fam k s).plt = s.plt := rfl
@[simp] theorem countX_hst (fam k : Nat) (s : State) : (countX fam k s).hst = s.hst := rfl
@[simp] theorem countX_lnk (fam k : Nat) (s : State) : (countX fam k s).lnk = s.lnk := rfl
@[simp] theorem countX_srd (fam k : Nat) (s : State) : (countX fam k s).srd = s.srd := rfl
@[simp] theorem countX_svc (fam k : Nat) (s : State) : (countX fam k s).svc = s.svc := rfl
@[simp] theorem countX_eye (fam k : Nat) (s : State) : (countX fam k s).eye = s.eye := rfl
@[simp] theorem countX_fwd (fam k : Nat) (s : State) : (countX fam k s).fwd = s.fwd := rfl
@[simp] theorem countX_swc (fam k : Nat) (s : State) : (countX fam k s).swc = s.swc := rfl
@[simp] theorem countX_tmb (fam k : Nat) (s : State) : (countX fam k s).tmb = s.tmb := rfl
@[simp] theorem countX_lnd (fam k : Nat) (s : State) : (countX fam k s).lnd = s.lnd := rfl
@[simp] theorem countX_mil (fam k : Nat) (s : State) : (countX fam k s).mil = s.mil := rfl
@[simp] theorem countX_mem (fam k : Nat) (s : State) : (countX fam k s).mem = s.mem := rfl
@[simp] theorem countX_opt (fam k : Nat) (s : State) : (countX fam k s).opt = s.opt := rfl
@[simp] theorem countX_res (fam k : Nat) (s : State) : (countX fam k s).res = s.res := rfl
@[simp] theorem countX_sec (fam k : Nat) (s : State) : (countX fam k s).sec = s.sec := rfl
@[simp] theorem countX_pwr (fam k : Nat) (s : State) : (countX fam k s).pwr = s.pwr := rfl
@[simp] theorem countX_nv (fam k : Nat) (s : State) : (countX fam k s).nv = s.nv := rfl
@[simp] theorem countX_ram (fam k : Nat) (s : State) : (countX fam k s).ram = s.ram := rfl
@[simp] theorem countX_clk (fam k : Nat) (s : State) : (countX fam k s).clk = s.clk := rfl
@[simp] theorem countX_fresh (fam k : Nat) (s : State) : (countX fam k s).fresh = s.fresh := rfl
@[simp] theorem countX_out (fam k : Nat) (s : State) : (countX fam k s).out = s.out := rfl
@[simp] theorem countX_pending (fam k : Nat) (s : State) : (countX fam k s).pending = s.pending := rfl

@[simp] theorem countDiscard_glb (c k : Nat) (s : State) : (countDiscard c k s).glb = s.glb := rfl
@[simp] theorem countDiscard_plt (c k : Nat) (s : State) : (countDiscard c k s).plt = s.plt := rfl
@[simp] theorem countDiscard_hst (c k : Nat) (s : State) : (countDiscard c k s).hst = s.hst := rfl
@[simp] theorem countDiscard_lnk (c k : Nat) (s : State) : (countDiscard c k s).lnk = s.lnk := rfl
@[simp] theorem countDiscard_srd (c k : Nat) (s : State) : (countDiscard c k s).srd = s.srd := rfl
@[simp] theorem countDiscard_svc (c k : Nat) (s : State) : (countDiscard c k s).svc = s.svc := rfl
@[simp] theorem countDiscard_eye (c k : Nat) (s : State) : (countDiscard c k s).eye = s.eye := rfl
@[simp] theorem countDiscard_fwd (c k : Nat) (s : State) : (countDiscard c k s).fwd = s.fwd := rfl
@[simp] theorem countDiscard_swc (c k : Nat) (s : State) : (countDiscard c k s).swc = s.swc := rfl
@[simp] theorem countDiscard_tmb (c k : Nat) (s : State) : (countDiscard c k s).tmb = s.tmb := rfl
@[simp] theorem countDiscard_lnd (c k : Nat) (s : State) : (countDiscard c k s).lnd = s.lnd := rfl
@[simp] theorem countDiscard_mil (c k : Nat) (s : State) : (countDiscard c k s).mil = s.mil := rfl
@[simp] theorem countDiscard_mem (c k : Nat) (s : State) : (countDiscard c k s).mem = s.mem := rfl
@[simp] theorem countDiscard_opt (c k : Nat) (s : State) : (countDiscard c k s).opt = s.opt := rfl
@[simp] theorem countDiscard_res (c k : Nat) (s : State) : (countDiscard c k s).res = s.res := rfl
@[simp] theorem countDiscard_sec (c k : Nat) (s : State) : (countDiscard c k s).sec = s.sec := rfl
@[simp] theorem countDiscard_pwr (c k : Nat) (s : State) : (countDiscard c k s).pwr = s.pwr := rfl
@[simp] theorem countDiscard_nv (c k : Nat) (s : State) : (countDiscard c k s).nv = s.nv := rfl
@[simp] theorem countDiscard_ram (c k : Nat) (s : State) : (countDiscard c k s).ram = s.ram := rfl
@[simp] theorem countDiscard_clk (c k : Nat) (s : State) : (countDiscard c k s).clk = s.clk := rfl
@[simp] theorem countDiscard_fresh (c k : Nat) (s : State) : (countDiscard c k s).fresh = s.fresh := rfl
@[simp] theorem countDiscard_out (c k : Nat) (s : State) : (countDiscard c k s).out = s.out := rfl
@[simp] theorem countDiscard_pending (c k : Nat) (s : State) : (countDiscard c k s).pending = s.pending := rfl

@[simp] theorem setLink_glb (s : State) (p : Nat) (l : Link) : (s.setLink p l).glb = s.glb := rfl
@[simp] theorem setLink_plt (s : State) (p : Nat) (l : Link) : (s.setLink p l).plt = s.plt := rfl
@[simp] theorem setLink_hst (s : State) (p : Nat) (l : Link) : (s.setLink p l).hst = s.hst := rfl
@[simp] theorem setLink_srd (s : State) (p : Nat) (l : Link) : (s.setLink p l).srd = s.srd := rfl
@[simp] theorem setLink_svc (s : State) (p : Nat) (l : Link) : (s.setLink p l).svc = s.svc := rfl
@[simp] theorem setLink_eye (s : State) (p : Nat) (l : Link) : (s.setLink p l).eye = s.eye := rfl
@[simp] theorem setLink_fwd (s : State) (p : Nat) (l : Link) : (s.setLink p l).fwd = s.fwd := rfl
@[simp] theorem setLink_swc (s : State) (p : Nat) (l : Link) : (s.setLink p l).swc = s.swc := rfl
@[simp] theorem setLink_tmb (s : State) (p : Nat) (l : Link) : (s.setLink p l).tmb = s.tmb := rfl
@[simp] theorem setLink_lnd (s : State) (p : Nat) (l : Link) : (s.setLink p l).lnd = s.lnd := rfl
@[simp] theorem setLink_mil (s : State) (p : Nat) (l : Link) : (s.setLink p l).mil = s.mil := rfl
@[simp] theorem setLink_mem (s : State) (p : Nat) (l : Link) : (s.setLink p l).mem = s.mem := rfl
@[simp] theorem setLink_opt (s : State) (p : Nat) (l : Link) : (s.setLink p l).opt = s.opt := rfl
@[simp] theorem setLink_res (s : State) (p : Nat) (l : Link) : (s.setLink p l).res = s.res := rfl
@[simp] theorem setLink_sec (s : State) (p : Nat) (l : Link) : (s.setLink p l).sec = s.sec := rfl
@[simp] theorem setLink_tly (s : State) (p : Nat) (l : Link) : (s.setLink p l).tly = s.tly := rfl
@[simp] theorem setLink_pwr (s : State) (p : Nat) (l : Link) : (s.setLink p l).pwr = s.pwr := rfl
@[simp] theorem setLink_nv (s : State) (p : Nat) (l : Link) : (s.setLink p l).nv = s.nv := rfl
@[simp] theorem setLink_ram (s : State) (p : Nat) (l : Link) : (s.setLink p l).ram = s.ram := rfl
@[simp] theorem setLink_clk (s : State) (p : Nat) (l : Link) : (s.setLink p l).clk = s.clk := rfl
@[simp] theorem setLink_fresh (s : State) (p : Nat) (l : Link) : (s.setLink p l).fresh = s.fresh := rfl
@[simp] theorem setLink_out (s : State) (p : Nat) (l : Link) : (s.setLink p l).out = s.out := rfl
@[simp] theorem setLink_pending (s : State) (p : Nat) (l : Link) : (s.setLink p l).pending = s.pending := rfl

@[simp] theorem modLink_glb (s : State) (p : Nat) (f : Link → Link) : (s.modLink p f).glb = s.glb := rfl
@[simp] theorem modLink_plt (s : State) (p : Nat) (f : Link → Link) : (s.modLink p f).plt = s.plt := rfl
@[simp] theorem modLink_hst (s : State) (p : Nat) (f : Link → Link) : (s.modLink p f).hst = s.hst := rfl
@[simp] theorem modLink_srd (s : State) (p : Nat) (f : Link → Link) : (s.modLink p f).srd = s.srd := rfl
@[simp] theorem modLink_svc (s : State) (p : Nat) (f : Link → Link) : (s.modLink p f).svc = s.svc := rfl
@[simp] theorem modLink_eye (s : State) (p : Nat) (f : Link → Link) : (s.modLink p f).eye = s.eye := rfl
@[simp] theorem modLink_fwd (s : State) (p : Nat) (f : Link → Link) : (s.modLink p f).fwd = s.fwd := rfl
@[simp] theorem modLink_swc (s : State) (p : Nat) (f : Link → Link) : (s.modLink p f).swc = s.swc := rfl
@[simp] theorem modLink_tmb (s : State) (p : Nat) (f : Link → Link) : (s.modLink p f).tmb = s.tmb := rfl
@[simp] theorem modLink_lnd (s : State) (p : Nat) (f : Link → Link) : (s.modLink p f).lnd = s.lnd := rfl
@[simp] theorem modLink_mil (s : State) (p : Nat) (f : Link → Link) : (s.modLink p f).mil = s.mil := rfl
@[simp] theorem modLink_mem (s : State) (p : Nat) (f : Link → Link) : (s.modLink p f).mem = s.mem := rfl
@[simp] theorem modLink_opt (s : State) (p : Nat) (f : Link → Link) : (s.modLink p f).opt = s.opt := rfl
@[simp] theorem modLink_res (s : State) (p : Nat) (f : Link → Link) : (s.modLink p f).res = s.res := rfl
@[simp] theorem modLink_sec (s : State) (p : Nat) (f : Link → Link) : (s.modLink p f).sec = s.sec := rfl
@[simp] theorem modLink_tly (s : State) (p : Nat) (f : Link → Link) : (s.modLink p f).tly = s.tly := rfl
@[simp] theorem modLink_pwr (s : State) (p : Nat) (f : Link → Link) : (s.modLink p f).pwr = s.pwr := rfl
@[simp] theorem modLink_nv (s : State) (p : Nat) (f : Link → Link) : (s.modLink p f).nv = s.nv := rfl
@[simp] theorem modLink_ram (s : State) (p : Nat) (f : Link → Link) : (s.modLink p f).ram = s.ram := rfl
@[simp] theorem modLink_clk (s : State) (p : Nat) (f : Link → Link) : (s.modLink p f).clk = s.clk := rfl
@[simp] theorem modLink_fresh (s : State) (p : Nat) (f : Link → Link) : (s.modLink p f).fresh = s.fresh := rfl
@[simp] theorem modLink_out (s : State) (p : Nat) (f : Link → Link) : (s.modLink p f).out = s.out := rfl
@[simp] theorem modLink_pending (s : State) (p : Nat) (f : Link → Link) : (s.modLink p f).pending = s.pending := rfl

@[simp] theorem setLane_glb (s : State) (n : Nat) (l : Lane) : (s.setLane n l).glb = s.glb := rfl
@[simp] theorem setLane_plt (s : State) (n : Nat) (l : Lane) : (s.setLane n l).plt = s.plt := rfl
@[simp] theorem setLane_hst (s : State) (n : Nat) (l : Lane) : (s.setLane n l).hst = s.hst := rfl
@[simp] theorem setLane_lnk (s : State) (n : Nat) (l : Lane) : (s.setLane n l).lnk = s.lnk := rfl
@[simp] theorem setLane_svc (s : State) (n : Nat) (l : Lane) : (s.setLane n l).svc = s.svc := rfl
@[simp] theorem setLane_eye (s : State) (n : Nat) (l : Lane) : (s.setLane n l).eye = s.eye := rfl
@[simp] theorem setLane_fwd (s : State) (n : Nat) (l : Lane) : (s.setLane n l).fwd = s.fwd := rfl
@[simp] theorem setLane_swc (s : State) (n : Nat) (l : Lane) : (s.setLane n l).swc = s.swc := rfl
@[simp] theorem setLane_tmb (s : State) (n : Nat) (l : Lane) : (s.setLane n l).tmb = s.tmb := rfl
@[simp] theorem setLane_lnd (s : State) (n : Nat) (l : Lane) : (s.setLane n l).lnd = s.lnd := rfl
@[simp] theorem setLane_mil (s : State) (n : Nat) (l : Lane) : (s.setLane n l).mil = s.mil := rfl
@[simp] theorem setLane_mem (s : State) (n : Nat) (l : Lane) : (s.setLane n l).mem = s.mem := rfl
@[simp] theorem setLane_opt (s : State) (n : Nat) (l : Lane) : (s.setLane n l).opt = s.opt := rfl
@[simp] theorem setLane_res (s : State) (n : Nat) (l : Lane) : (s.setLane n l).res = s.res := rfl
@[simp] theorem setLane_sec (s : State) (n : Nat) (l : Lane) : (s.setLane n l).sec = s.sec := rfl
@[simp] theorem setLane_tly (s : State) (n : Nat) (l : Lane) : (s.setLane n l).tly = s.tly := rfl
@[simp] theorem setLane_pwr (s : State) (n : Nat) (l : Lane) : (s.setLane n l).pwr = s.pwr := rfl
@[simp] theorem setLane_nv (s : State) (n : Nat) (l : Lane) : (s.setLane n l).nv = s.nv := rfl
@[simp] theorem setLane_ram (s : State) (n : Nat) (l : Lane) : (s.setLane n l).ram = s.ram := rfl
@[simp] theorem setLane_clk (s : State) (n : Nat) (l : Lane) : (s.setLane n l).clk = s.clk := rfl
@[simp] theorem setLane_fresh (s : State) (n : Nat) (l : Lane) : (s.setLane n l).fresh = s.fresh := rfl
@[simp] theorem setLane_out (s : State) (n : Nat) (l : Lane) : (s.setLane n l).out = s.out := rfl
@[simp] theorem setLane_pending (s : State) (n : Nat) (l : Lane) : (s.setLane n l).pending = s.pending := rfl

@[simp] theorem modLane_glb (s : State) (n : Nat) (f : Lane → Lane) : (s.modLane n f).glb = s.glb := rfl
@[simp] theorem modLane_plt (s : State) (n : Nat) (f : Lane → Lane) : (s.modLane n f).plt = s.plt := rfl
@[simp] theorem modLane_hst (s : State) (n : Nat) (f : Lane → Lane) : (s.modLane n f).hst = s.hst := rfl
@[simp] theorem modLane_lnk (s : State) (n : Nat) (f : Lane → Lane) : (s.modLane n f).lnk = s.lnk := rfl
@[simp] theorem modLane_svc (s : State) (n : Nat) (f : Lane → Lane) : (s.modLane n f).svc = s.svc := rfl
@[simp] theorem modLane_eye (s : State) (n : Nat) (f : Lane → Lane) : (s.modLane n f).eye = s.eye := rfl
@[simp] theorem modLane_fwd (s : State) (n : Nat) (f : Lane → Lane) : (s.modLane n f).fwd = s.fwd := rfl
@[simp] theorem modLane_swc (s : State) (n : Nat) (f : Lane → Lane) : (s.modLane n f).swc = s.swc := rfl
@[simp] theorem modLane_tmb (s : State) (n : Nat) (f : Lane → Lane) : (s.modLane n f).tmb = s.tmb := rfl
@[simp] theorem modLane_lnd (s : State) (n : Nat) (f : Lane → Lane) : (s.modLane n f).lnd = s.lnd := rfl
@[simp] theorem modLane_mil (s : State) (n : Nat) (f : Lane → Lane) : (s.modLane n f).mil = s.mil := rfl
@[simp] theorem modLane_mem (s : State) (n : Nat) (f : Lane → Lane) : (s.modLane n f).mem = s.mem := rfl
@[simp] theorem modLane_opt (s : State) (n : Nat) (f : Lane → Lane) : (s.modLane n f).opt = s.opt := rfl
@[simp] theorem modLane_res (s : State) (n : Nat) (f : Lane → Lane) : (s.modLane n f).res = s.res := rfl
@[simp] theorem modLane_sec (s : State) (n : Nat) (f : Lane → Lane) : (s.modLane n f).sec = s.sec := rfl
@[simp] theorem modLane_tly (s : State) (n : Nat) (f : Lane → Lane) : (s.modLane n f).tly = s.tly := rfl
@[simp] theorem modLane_pwr (s : State) (n : Nat) (f : Lane → Lane) : (s.modLane n f).pwr = s.pwr := rfl
@[simp] theorem modLane_nv (s : State) (n : Nat) (f : Lane → Lane) : (s.modLane n f).nv = s.nv := rfl
@[simp] theorem modLane_ram (s : State) (n : Nat) (f : Lane → Lane) : (s.modLane n f).ram = s.ram := rfl
@[simp] theorem modLane_clk (s : State) (n : Nat) (f : Lane → Lane) : (s.modLane n f).clk = s.clk := rfl
@[simp] theorem modLane_fresh (s : State) (n : Nat) (f : Lane → Lane) : (s.modLane n f).fresh = s.fresh := rfl
@[simp] theorem modLane_out (s : State) (n : Nat) (f : Lane → Lane) : (s.modLane n f).out = s.out := rfl
@[simp] theorem modLane_pending (s : State) (n : Nat) (f : Lane → Lane) : (s.modLane n f).pending = s.pending := rfl

@[simp] theorem modSvc_glb (s : State) (n : Nat) (f : Svc → Svc) : (s.modSvc n f).glb = s.glb := rfl
@[simp] theorem modSvc_plt (s : State) (n : Nat) (f : Svc → Svc) : (s.modSvc n f).plt = s.plt := rfl
@[simp] theorem modSvc_hst (s : State) (n : Nat) (f : Svc → Svc) : (s.modSvc n f).hst = s.hst := rfl
@[simp] theorem modSvc_lnk (s : State) (n : Nat) (f : Svc → Svc) : (s.modSvc n f).lnk = s.lnk := rfl
@[simp] theorem modSvc_srd (s : State) (n : Nat) (f : Svc → Svc) : (s.modSvc n f).srd = s.srd := rfl
@[simp] theorem modSvc_eye (s : State) (n : Nat) (f : Svc → Svc) : (s.modSvc n f).eye = s.eye := rfl
@[simp] theorem modSvc_fwd (s : State) (n : Nat) (f : Svc → Svc) : (s.modSvc n f).fwd = s.fwd := rfl
@[simp] theorem modSvc_swc (s : State) (n : Nat) (f : Svc → Svc) : (s.modSvc n f).swc = s.swc := rfl
@[simp] theorem modSvc_tmb (s : State) (n : Nat) (f : Svc → Svc) : (s.modSvc n f).tmb = s.tmb := rfl
@[simp] theorem modSvc_lnd (s : State) (n : Nat) (f : Svc → Svc) : (s.modSvc n f).lnd = s.lnd := rfl
@[simp] theorem modSvc_mil (s : State) (n : Nat) (f : Svc → Svc) : (s.modSvc n f).mil = s.mil := rfl
@[simp] theorem modSvc_mem (s : State) (n : Nat) (f : Svc → Svc) : (s.modSvc n f).mem = s.mem := rfl
@[simp] theorem modSvc_opt (s : State) (n : Nat) (f : Svc → Svc) : (s.modSvc n f).opt = s.opt := rfl
@[simp] theorem modSvc_res (s : State) (n : Nat) (f : Svc → Svc) : (s.modSvc n f).res = s.res := rfl
@[simp] theorem modSvc_sec (s : State) (n : Nat) (f : Svc → Svc) : (s.modSvc n f).sec = s.sec := rfl
@[simp] theorem modSvc_tly (s : State) (n : Nat) (f : Svc → Svc) : (s.modSvc n f).tly = s.tly := rfl
@[simp] theorem modSvc_pwr (s : State) (n : Nat) (f : Svc → Svc) : (s.modSvc n f).pwr = s.pwr := rfl
@[simp] theorem modSvc_nv (s : State) (n : Nat) (f : Svc → Svc) : (s.modSvc n f).nv = s.nv := rfl
@[simp] theorem modSvc_ram (s : State) (n : Nat) (f : Svc → Svc) : (s.modSvc n f).ram = s.ram := rfl
@[simp] theorem modSvc_clk (s : State) (n : Nat) (f : Svc → Svc) : (s.modSvc n f).clk = s.clk := rfl
@[simp] theorem modSvc_fresh (s : State) (n : Nat) (f : Svc → Svc) : (s.modSvc n f).fresh = s.fresh := rfl
@[simp] theorem modSvc_out (s : State) (n : Nat) (f : Svc → Svc) : (s.modSvc n f).out = s.out := rfl
@[simp] theorem modSvc_pending (s : State) (n : Nat) (f : Svc → Svc) : (s.modSvc n f).pending = s.pending := rfl

@[simp] theorem modEye_glb (s : State) (n : Nat) (f : Eye → Eye) : (s.modEye n f).glb = s.glb := rfl
@[simp] theorem modEye_plt (s : State) (n : Nat) (f : Eye → Eye) : (s.modEye n f).plt = s.plt := rfl
@[simp] theorem modEye_hst (s : State) (n : Nat) (f : Eye → Eye) : (s.modEye n f).hst = s.hst := rfl
@[simp] theorem modEye_lnk (s : State) (n : Nat) (f : Eye → Eye) : (s.modEye n f).lnk = s.lnk := rfl
@[simp] theorem modEye_srd (s : State) (n : Nat) (f : Eye → Eye) : (s.modEye n f).srd = s.srd := rfl
@[simp] theorem modEye_svc (s : State) (n : Nat) (f : Eye → Eye) : (s.modEye n f).svc = s.svc := rfl
@[simp] theorem modEye_fwd (s : State) (n : Nat) (f : Eye → Eye) : (s.modEye n f).fwd = s.fwd := rfl
@[simp] theorem modEye_swc (s : State) (n : Nat) (f : Eye → Eye) : (s.modEye n f).swc = s.swc := rfl
@[simp] theorem modEye_tmb (s : State) (n : Nat) (f : Eye → Eye) : (s.modEye n f).tmb = s.tmb := rfl
@[simp] theorem modEye_lnd (s : State) (n : Nat) (f : Eye → Eye) : (s.modEye n f).lnd = s.lnd := rfl
@[simp] theorem modEye_mil (s : State) (n : Nat) (f : Eye → Eye) : (s.modEye n f).mil = s.mil := rfl
@[simp] theorem modEye_mem (s : State) (n : Nat) (f : Eye → Eye) : (s.modEye n f).mem = s.mem := rfl
@[simp] theorem modEye_opt (s : State) (n : Nat) (f : Eye → Eye) : (s.modEye n f).opt = s.opt := rfl
@[simp] theorem modEye_res (s : State) (n : Nat) (f : Eye → Eye) : (s.modEye n f).res = s.res := rfl
@[simp] theorem modEye_sec (s : State) (n : Nat) (f : Eye → Eye) : (s.modEye n f).sec = s.sec := rfl
@[simp] theorem modEye_tly (s : State) (n : Nat) (f : Eye → Eye) : (s.modEye n f).tly = s.tly := rfl
@[simp] theorem modEye_pwr (s : State) (n : Nat) (f : Eye → Eye) : (s.modEye n f).pwr = s.pwr := rfl
@[simp] theorem modEye_nv (s : State) (n : Nat) (f : Eye → Eye) : (s.modEye n f).nv = s.nv := rfl
@[simp] theorem modEye_ram (s : State) (n : Nat) (f : Eye → Eye) : (s.modEye n f).ram = s.ram := rfl
@[simp] theorem modEye_clk (s : State) (n : Nat) (f : Eye → Eye) : (s.modEye n f).clk = s.clk := rfl
@[simp] theorem modEye_fresh (s : State) (n : Nat) (f : Eye → Eye) : (s.modEye n f).fresh = s.fresh := rfl
@[simp] theorem modEye_out (s : State) (n : Nat) (f : Eye → Eye) : (s.modEye n f).out = s.out := rfl
@[simp] theorem modEye_pending (s : State) (n : Nat) (f : Eye → Eye) : (s.modEye n f).pending = s.pending := rfl

@[simp] theorem modPath_glb (s : State) (n : Nat) (f : OPath → OPath) : (s.modPath n f).glb = s.glb := rfl
@[simp] theorem modPath_plt (s : State) (n : Nat) (f : OPath → OPath) : (s.modPath n f).plt = s.plt := rfl
@[simp] theorem modPath_hst (s : State) (n : Nat) (f : OPath → OPath) : (s.modPath n f).hst = s.hst := rfl
@[simp] theorem modPath_lnk (s : State) (n : Nat) (f : OPath → OPath) : (s.modPath n f).lnk = s.lnk := rfl
@[simp] theorem modPath_srd (s : State) (n : Nat) (f : OPath → OPath) : (s.modPath n f).srd = s.srd := rfl
@[simp] theorem modPath_svc (s : State) (n : Nat) (f : OPath → OPath) : (s.modPath n f).svc = s.svc := rfl
@[simp] theorem modPath_eye (s : State) (n : Nat) (f : OPath → OPath) : (s.modPath n f).eye = s.eye := rfl
@[simp] theorem modPath_fwd (s : State) (n : Nat) (f : OPath → OPath) : (s.modPath n f).fwd = s.fwd := rfl
@[simp] theorem modPath_swc (s : State) (n : Nat) (f : OPath → OPath) : (s.modPath n f).swc = s.swc := rfl
@[simp] theorem modPath_tmb (s : State) (n : Nat) (f : OPath → OPath) : (s.modPath n f).tmb = s.tmb := rfl
@[simp] theorem modPath_lnd (s : State) (n : Nat) (f : OPath → OPath) : (s.modPath n f).lnd = s.lnd := rfl
@[simp] theorem modPath_mil (s : State) (n : Nat) (f : OPath → OPath) : (s.modPath n f).mil = s.mil := rfl
@[simp] theorem modPath_mem (s : State) (n : Nat) (f : OPath → OPath) : (s.modPath n f).mem = s.mem := rfl
@[simp] theorem modPath_res (s : State) (n : Nat) (f : OPath → OPath) : (s.modPath n f).res = s.res := rfl
@[simp] theorem modPath_sec (s : State) (n : Nat) (f : OPath → OPath) : (s.modPath n f).sec = s.sec := rfl
@[simp] theorem modPath_tly (s : State) (n : Nat) (f : OPath → OPath) : (s.modPath n f).tly = s.tly := rfl
@[simp] theorem modPath_pwr (s : State) (n : Nat) (f : OPath → OPath) : (s.modPath n f).pwr = s.pwr := rfl
@[simp] theorem modPath_nv (s : State) (n : Nat) (f : OPath → OPath) : (s.modPath n f).nv = s.nv := rfl
@[simp] theorem modPath_ram (s : State) (n : Nat) (f : OPath → OPath) : (s.modPath n f).ram = s.ram := rfl
@[simp] theorem modPath_clk (s : State) (n : Nat) (f : OPath → OPath) : (s.modPath n f).clk = s.clk := rfl
@[simp] theorem modPath_fresh (s : State) (n : Nat) (f : OPath → OPath) : (s.modPath n f).fresh = s.fresh := rfl
@[simp] theorem modPath_out (s : State) (n : Nat) (f : OPath → OPath) : (s.modPath n f).out = s.out := rfl
@[simp] theorem modPath_pending (s : State) (n : Nat) (f : OPath → OPath) : (s.modPath n f).pending = s.pending := rfl

@[simp] theorem modEngine_glb (s : State) (n : Nat) (f : Engine → Engine) : (s.modEngine n f).glb = s.glb := rfl
@[simp] theorem modEngine_plt (s : State) (n : Nat) (f : Engine → Engine) : (s.modEngine n f).plt = s.plt := rfl
@[simp] theorem modEngine_hst (s : State) (n : Nat) (f : Engine → Engine) : (s.modEngine n f).hst = s.hst := rfl
@[simp] theorem modEngine_lnk (s : State) (n : Nat) (f : Engine → Engine) : (s.modEngine n f).lnk = s.lnk := rfl
@[simp] theorem modEngine_srd (s : State) (n : Nat) (f : Engine → Engine) : (s.modEngine n f).srd = s.srd := rfl
@[simp] theorem modEngine_svc (s : State) (n : Nat) (f : Engine → Engine) : (s.modEngine n f).svc = s.svc := rfl
@[simp] theorem modEngine_eye (s : State) (n : Nat) (f : Engine → Engine) : (s.modEngine n f).eye = s.eye := rfl
@[simp] theorem modEngine_fwd (s : State) (n : Nat) (f : Engine → Engine) : (s.modEngine n f).fwd = s.fwd := rfl
@[simp] theorem modEngine_swc (s : State) (n : Nat) (f : Engine → Engine) : (s.modEngine n f).swc = s.swc := rfl
@[simp] theorem modEngine_tmb (s : State) (n : Nat) (f : Engine → Engine) : (s.modEngine n f).tmb = s.tmb := rfl
@[simp] theorem modEngine_lnd (s : State) (n : Nat) (f : Engine → Engine) : (s.modEngine n f).lnd = s.lnd := rfl
@[simp] theorem modEngine_mil (s : State) (n : Nat) (f : Engine → Engine) : (s.modEngine n f).mil = s.mil := rfl
@[simp] theorem modEngine_mem (s : State) (n : Nat) (f : Engine → Engine) : (s.modEngine n f).mem = s.mem := rfl
@[simp] theorem modEngine_res (s : State) (n : Nat) (f : Engine → Engine) : (s.modEngine n f).res = s.res := rfl
@[simp] theorem modEngine_sec (s : State) (n : Nat) (f : Engine → Engine) : (s.modEngine n f).sec = s.sec := rfl
@[simp] theorem modEngine_tly (s : State) (n : Nat) (f : Engine → Engine) : (s.modEngine n f).tly = s.tly := rfl
@[simp] theorem modEngine_pwr (s : State) (n : Nat) (f : Engine → Engine) : (s.modEngine n f).pwr = s.pwr := rfl
@[simp] theorem modEngine_nv (s : State) (n : Nat) (f : Engine → Engine) : (s.modEngine n f).nv = s.nv := rfl
@[simp] theorem modEngine_ram (s : State) (n : Nat) (f : Engine → Engine) : (s.modEngine n f).ram = s.ram := rfl
@[simp] theorem modEngine_clk (s : State) (n : Nat) (f : Engine → Engine) : (s.modEngine n f).clk = s.clk := rfl
@[simp] theorem modEngine_fresh (s : State) (n : Nat) (f : Engine → Engine) : (s.modEngine n f).fresh = s.fresh := rfl
@[simp] theorem modEngine_out (s : State) (n : Nat) (f : Engine → Engine) : (s.modEngine n f).out = s.out := rfl
@[simp] theorem modEngine_pending (s : State) (n : Nat) (f : Engine → Engine) : (s.modEngine n f).pending = s.pending := rfl

@[simp] theorem modFly_glb (s : State) (n : Nat) (f : Fly → Fly) : (s.modFly n f).glb = s.glb := rfl
@[simp] theorem modFly_plt (s : State) (n : Nat) (f : Fly → Fly) : (s.modFly n f).plt = s.plt := rfl
@[simp] theorem modFly_hst (s : State) (n : Nat) (f : Fly → Fly) : (s.modFly n f).hst = s.hst := rfl
@[simp] theorem modFly_lnk (s : State) (n : Nat) (f : Fly → Fly) : (s.modFly n f).lnk = s.lnk := rfl
@[simp] theorem modFly_srd (s : State) (n : Nat) (f : Fly → Fly) : (s.modFly n f).srd = s.srd := rfl
@[simp] theorem modFly_svc (s : State) (n : Nat) (f : Fly → Fly) : (s.modFly n f).svc = s.svc := rfl
@[simp] theorem modFly_eye (s : State) (n : Nat) (f : Fly → Fly) : (s.modFly n f).eye = s.eye := rfl
@[simp] theorem modFly_fwd (s : State) (n : Nat) (f : Fly → Fly) : (s.modFly n f).fwd = s.fwd := rfl
@[simp] theorem modFly_swc (s : State) (n : Nat) (f : Fly → Fly) : (s.modFly n f).swc = s.swc := rfl
@[simp] theorem modFly_tmb (s : State) (n : Nat) (f : Fly → Fly) : (s.modFly n f).tmb = s.tmb := rfl
@[simp] theorem modFly_lnd (s : State) (n : Nat) (f : Fly → Fly) : (s.modFly n f).lnd = s.lnd := rfl
@[simp] theorem modFly_mil (s : State) (n : Nat) (f : Fly → Fly) : (s.modFly n f).mil = s.mil := rfl
@[simp] theorem modFly_mem (s : State) (n : Nat) (f : Fly → Fly) : (s.modFly n f).mem = s.mem := rfl
@[simp] theorem modFly_res (s : State) (n : Nat) (f : Fly → Fly) : (s.modFly n f).res = s.res := rfl
@[simp] theorem modFly_sec (s : State) (n : Nat) (f : Fly → Fly) : (s.modFly n f).sec = s.sec := rfl
@[simp] theorem modFly_tly (s : State) (n : Nat) (f : Fly → Fly) : (s.modFly n f).tly = s.tly := rfl
@[simp] theorem modFly_pwr (s : State) (n : Nat) (f : Fly → Fly) : (s.modFly n f).pwr = s.pwr := rfl
@[simp] theorem modFly_nv (s : State) (n : Nat) (f : Fly → Fly) : (s.modFly n f).nv = s.nv := rfl
@[simp] theorem modFly_ram (s : State) (n : Nat) (f : Fly → Fly) : (s.modFly n f).ram = s.ram := rfl
@[simp] theorem modFly_clk (s : State) (n : Nat) (f : Fly → Fly) : (s.modFly n f).clk = s.clk := rfl
@[simp] theorem modFly_fresh (s : State) (n : Nat) (f : Fly → Fly) : (s.modFly n f).fresh = s.fresh := rfl
@[simp] theorem modFly_out (s : State) (n : Nat) (f : Fly → Fly) : (s.modFly n f).out = s.out := rfl
@[simp] theorem modFly_pending (s : State) (n : Nat) (f : Fly → Fly) : (s.modFly n f).pending = s.pending := rfl

@[simp] theorem setQueue_glb (s : State) (q : Nat) (v : Queue) : (s.setQueue q v).glb = s.glb := rfl
@[simp] theorem setQueue_plt (s : State) (q : Nat) (v : Queue) : (s.setQueue q v).plt = s.plt := rfl
@[simp] theorem setQueue_hst (s : State) (q : Nat) (v : Queue) : (s.setQueue q v).hst = s.hst := rfl
@[simp] theorem setQueue_lnk (s : State) (q : Nat) (v : Queue) : (s.setQueue q v).lnk = s.lnk := rfl
@[simp] theorem setQueue_srd (s : State) (q : Nat) (v : Queue) : (s.setQueue q v).srd = s.srd := rfl
@[simp] theorem setQueue_svc (s : State) (q : Nat) (v : Queue) : (s.setQueue q v).svc = s.svc := rfl
@[simp] theorem setQueue_eye (s : State) (q : Nat) (v : Queue) : (s.setQueue q v).eye = s.eye := rfl
@[simp] theorem setQueue_fwd (s : State) (q : Nat) (v : Queue) : (s.setQueue q v).fwd = s.fwd := rfl
@[simp] theorem setQueue_tmb (s : State) (q : Nat) (v : Queue) : (s.setQueue q v).tmb = s.tmb := rfl
@[simp] theorem setQueue_lnd (s : State) (q : Nat) (v : Queue) : (s.setQueue q v).lnd = s.lnd := rfl
@[simp] theorem setQueue_mil (s : State) (q : Nat) (v : Queue) : (s.setQueue q v).mil = s.mil := rfl
@[simp] theorem setQueue_mem (s : State) (q : Nat) (v : Queue) : (s.setQueue q v).mem = s.mem := rfl
@[simp] theorem setQueue_opt (s : State) (q : Nat) (v : Queue) : (s.setQueue q v).opt = s.opt := rfl
@[simp] theorem setQueue_res (s : State) (q : Nat) (v : Queue) : (s.setQueue q v).res = s.res := rfl
@[simp] theorem setQueue_sec (s : State) (q : Nat) (v : Queue) : (s.setQueue q v).sec = s.sec := rfl
@[simp] theorem setQueue_tly (s : State) (q : Nat) (v : Queue) : (s.setQueue q v).tly = s.tly := rfl
@[simp] theorem setQueue_pwr (s : State) (q : Nat) (v : Queue) : (s.setQueue q v).pwr = s.pwr := rfl
@[simp] theorem setQueue_nv (s : State) (q : Nat) (v : Queue) : (s.setQueue q v).nv = s.nv := rfl
@[simp] theorem setQueue_ram (s : State) (q : Nat) (v : Queue) : (s.setQueue q v).ram = s.ram := rfl
@[simp] theorem setQueue_clk (s : State) (q : Nat) (v : Queue) : (s.setQueue q v).clk = s.clk := rfl
@[simp] theorem setQueue_fresh (s : State) (q : Nat) (v : Queue) : (s.setQueue q v).fresh = s.fresh := rfl
@[simp] theorem setQueue_out (s : State) (q : Nat) (v : Queue) : (s.setQueue q v).out = s.out := rfl
@[simp] theorem setQueue_pending (s : State) (q : Nat) (v : Queue) : (s.setQueue q v).pending = s.pending := rfl

@[simp] theorem modQueue_glb (s : State) (q : Nat) (f : Queue → Queue) : (s.modQueue q f).glb = s.glb := rfl
@[simp] theorem modQueue_plt (s : State) (q : Nat) (f : Queue → Queue) : (s.modQueue q f).plt = s.plt := rfl
@[simp] theorem modQueue_hst (s : State) (q : Nat) (f : Queue → Queue) : (s.modQueue q f).hst = s.hst := rfl
@[simp] theorem modQueue_lnk (s : State) (q : Nat) (f : Queue → Queue) : (s.modQueue q f).lnk = s.lnk := rfl
@[simp] theorem modQueue_srd (s : State) (q : Nat) (f : Queue → Queue) : (s.modQueue q f).srd = s.srd := rfl
@[simp] theorem modQueue_svc (s : State) (q : Nat) (f : Queue → Queue) : (s.modQueue q f).svc = s.svc := rfl
@[simp] theorem modQueue_eye (s : State) (q : Nat) (f : Queue → Queue) : (s.modQueue q f).eye = s.eye := rfl
@[simp] theorem modQueue_fwd (s : State) (q : Nat) (f : Queue → Queue) : (s.modQueue q f).fwd = s.fwd := rfl
@[simp] theorem modQueue_tmb (s : State) (q : Nat) (f : Queue → Queue) : (s.modQueue q f).tmb = s.tmb := rfl
@[simp] theorem modQueue_lnd (s : State) (q : Nat) (f : Queue → Queue) : (s.modQueue q f).lnd = s.lnd := rfl
@[simp] theorem modQueue_mil (s : State) (q : Nat) (f : Queue → Queue) : (s.modQueue q f).mil = s.mil := rfl
@[simp] theorem modQueue_mem (s : State) (q : Nat) (f : Queue → Queue) : (s.modQueue q f).mem = s.mem := rfl
@[simp] theorem modQueue_opt (s : State) (q : Nat) (f : Queue → Queue) : (s.modQueue q f).opt = s.opt := rfl
@[simp] theorem modQueue_res (s : State) (q : Nat) (f : Queue → Queue) : (s.modQueue q f).res = s.res := rfl
@[simp] theorem modQueue_sec (s : State) (q : Nat) (f : Queue → Queue) : (s.modQueue q f).sec = s.sec := rfl
@[simp] theorem modQueue_tly (s : State) (q : Nat) (f : Queue → Queue) : (s.modQueue q f).tly = s.tly := rfl
@[simp] theorem modQueue_pwr (s : State) (q : Nat) (f : Queue → Queue) : (s.modQueue q f).pwr = s.pwr := rfl
@[simp] theorem modQueue_nv (s : State) (q : Nat) (f : Queue → Queue) : (s.modQueue q f).nv = s.nv := rfl
@[simp] theorem modQueue_ram (s : State) (q : Nat) (f : Queue → Queue) : (s.modQueue q f).ram = s.ram := rfl
@[simp] theorem modQueue_clk (s : State) (q : Nat) (f : Queue → Queue) : (s.modQueue q f).clk = s.clk := rfl
@[simp] theorem modQueue_fresh (s : State) (q : Nat) (f : Queue → Queue) : (s.modQueue q f).fresh = s.fresh := rfl
@[simp] theorem modQueue_out (s : State) (q : Nat) (f : Queue → Queue) : (s.modQueue q f).out = s.out := rfl
@[simp] theorem modQueue_pending (s : State) (q : Nat) (f : Queue → Queue) : (s.modQueue q f).pending = s.pending := rfl

@[simp] theorem modSched_glb (s : State) (q : Nat) (f : Sched → Sched) : (s.modSched q f).glb = s.glb := rfl
@[simp] theorem modSched_plt (s : State) (q : Nat) (f : Sched → Sched) : (s.modSched q f).plt = s.plt := rfl
@[simp] theorem modSched_hst (s : State) (q : Nat) (f : Sched → Sched) : (s.modSched q f).hst = s.hst := rfl
@[simp] theorem modSched_lnk (s : State) (q : Nat) (f : Sched → Sched) : (s.modSched q f).lnk = s.lnk := rfl
@[simp] theorem modSched_srd (s : State) (q : Nat) (f : Sched → Sched) : (s.modSched q f).srd = s.srd := rfl
@[simp] theorem modSched_svc (s : State) (q : Nat) (f : Sched → Sched) : (s.modSched q f).svc = s.svc := rfl
@[simp] theorem modSched_eye (s : State) (q : Nat) (f : Sched → Sched) : (s.modSched q f).eye = s.eye := rfl
@[simp] theorem modSched_fwd (s : State) (q : Nat) (f : Sched → Sched) : (s.modSched q f).fwd = s.fwd := rfl
@[simp] theorem modSched_tmb (s : State) (q : Nat) (f : Sched → Sched) : (s.modSched q f).tmb = s.tmb := rfl
@[simp] theorem modSched_lnd (s : State) (q : Nat) (f : Sched → Sched) : (s.modSched q f).lnd = s.lnd := rfl
@[simp] theorem modSched_mil (s : State) (q : Nat) (f : Sched → Sched) : (s.modSched q f).mil = s.mil := rfl
@[simp] theorem modSched_mem (s : State) (q : Nat) (f : Sched → Sched) : (s.modSched q f).mem = s.mem := rfl
@[simp] theorem modSched_opt (s : State) (q : Nat) (f : Sched → Sched) : (s.modSched q f).opt = s.opt := rfl
@[simp] theorem modSched_res (s : State) (q : Nat) (f : Sched → Sched) : (s.modSched q f).res = s.res := rfl
@[simp] theorem modSched_sec (s : State) (q : Nat) (f : Sched → Sched) : (s.modSched q f).sec = s.sec := rfl
@[simp] theorem modSched_tly (s : State) (q : Nat) (f : Sched → Sched) : (s.modSched q f).tly = s.tly := rfl
@[simp] theorem modSched_pwr (s : State) (q : Nat) (f : Sched → Sched) : (s.modSched q f).pwr = s.pwr := rfl
@[simp] theorem modSched_nv (s : State) (q : Nat) (f : Sched → Sched) : (s.modSched q f).nv = s.nv := rfl
@[simp] theorem modSched_ram (s : State) (q : Nat) (f : Sched → Sched) : (s.modSched q f).ram = s.ram := rfl
@[simp] theorem modSched_clk (s : State) (q : Nat) (f : Sched → Sched) : (s.modSched q f).clk = s.clk := rfl
@[simp] theorem modSched_fresh (s : State) (q : Nat) (f : Sched → Sched) : (s.modSched q f).fresh = s.fresh := rfl
@[simp] theorem modSched_out (s : State) (q : Nat) (f : Sched → Sched) : (s.modSched q f).out = s.out := rfl
@[simp] theorem modSched_pending (s : State) (q : Nat) (f : Sched → Sched) : (s.modSched q f).pending = s.pending := rfl

@[simp] theorem setCtx_glb (s : State) (c : Nat) (v : Option Ctx) : (s.setCtx c v).glb = s.glb := rfl
@[simp] theorem setCtx_plt (s : State) (c : Nat) (v : Option Ctx) : (s.setCtx c v).plt = s.plt := rfl
@[simp] theorem setCtx_hst (s : State) (c : Nat) (v : Option Ctx) : (s.setCtx c v).hst = s.hst := rfl
@[simp] theorem setCtx_lnk (s : State) (c : Nat) (v : Option Ctx) : (s.setCtx c v).lnk = s.lnk := rfl
@[simp] theorem setCtx_srd (s : State) (c : Nat) (v : Option Ctx) : (s.setCtx c v).srd = s.srd := rfl
@[simp] theorem setCtx_svc (s : State) (c : Nat) (v : Option Ctx) : (s.setCtx c v).svc = s.svc := rfl
@[simp] theorem setCtx_eye (s : State) (c : Nat) (v : Option Ctx) : (s.setCtx c v).eye = s.eye := rfl
@[simp] theorem setCtx_fwd (s : State) (c : Nat) (v : Option Ctx) : (s.setCtx c v).fwd = s.fwd := rfl
@[simp] theorem setCtx_swc (s : State) (c : Nat) (v : Option Ctx) : (s.setCtx c v).swc = s.swc := rfl
@[simp] theorem setCtx_tmb (s : State) (c : Nat) (v : Option Ctx) : (s.setCtx c v).tmb = s.tmb := rfl
@[simp] theorem setCtx_mil (s : State) (c : Nat) (v : Option Ctx) : (s.setCtx c v).mil = s.mil := rfl
@[simp] theorem setCtx_mem (s : State) (c : Nat) (v : Option Ctx) : (s.setCtx c v).mem = s.mem := rfl
@[simp] theorem setCtx_opt (s : State) (c : Nat) (v : Option Ctx) : (s.setCtx c v).opt = s.opt := rfl
@[simp] theorem setCtx_res (s : State) (c : Nat) (v : Option Ctx) : (s.setCtx c v).res = s.res := rfl
@[simp] theorem setCtx_sec (s : State) (c : Nat) (v : Option Ctx) : (s.setCtx c v).sec = s.sec := rfl
@[simp] theorem setCtx_tly (s : State) (c : Nat) (v : Option Ctx) : (s.setCtx c v).tly = s.tly := rfl
@[simp] theorem setCtx_pwr (s : State) (c : Nat) (v : Option Ctx) : (s.setCtx c v).pwr = s.pwr := rfl
@[simp] theorem setCtx_nv (s : State) (c : Nat) (v : Option Ctx) : (s.setCtx c v).nv = s.nv := rfl
@[simp] theorem setCtx_ram (s : State) (c : Nat) (v : Option Ctx) : (s.setCtx c v).ram = s.ram := rfl
@[simp] theorem setCtx_clk (s : State) (c : Nat) (v : Option Ctx) : (s.setCtx c v).clk = s.clk := rfl
@[simp] theorem setCtx_fresh (s : State) (c : Nat) (v : Option Ctx) : (s.setCtx c v).fresh = s.fresh := rfl
@[simp] theorem setCtx_out (s : State) (c : Nat) (v : Option Ctx) : (s.setCtx c v).out = s.out := rfl
@[simp] theorem setCtx_pending (s : State) (c : Nat) (v : Option Ctx) : (s.setCtx c v).pending = s.pending := rfl

@[simp] theorem modCtx_glb (s : State) (c : Nat) (f : Ctx → Ctx) : (s.modCtx c f).glb = s.glb := rfl
@[simp] theorem modCtx_plt (s : State) (c : Nat) (f : Ctx → Ctx) : (s.modCtx c f).plt = s.plt := rfl
@[simp] theorem modCtx_hst (s : State) (c : Nat) (f : Ctx → Ctx) : (s.modCtx c f).hst = s.hst := rfl
@[simp] theorem modCtx_lnk (s : State) (c : Nat) (f : Ctx → Ctx) : (s.modCtx c f).lnk = s.lnk := rfl
@[simp] theorem modCtx_srd (s : State) (c : Nat) (f : Ctx → Ctx) : (s.modCtx c f).srd = s.srd := rfl
@[simp] theorem modCtx_svc (s : State) (c : Nat) (f : Ctx → Ctx) : (s.modCtx c f).svc = s.svc := rfl
@[simp] theorem modCtx_eye (s : State) (c : Nat) (f : Ctx → Ctx) : (s.modCtx c f).eye = s.eye := rfl
@[simp] theorem modCtx_fwd (s : State) (c : Nat) (f : Ctx → Ctx) : (s.modCtx c f).fwd = s.fwd := rfl
@[simp] theorem modCtx_swc (s : State) (c : Nat) (f : Ctx → Ctx) : (s.modCtx c f).swc = s.swc := rfl
@[simp] theorem modCtx_tmb (s : State) (c : Nat) (f : Ctx → Ctx) : (s.modCtx c f).tmb = s.tmb := rfl
@[simp] theorem modCtx_mil (s : State) (c : Nat) (f : Ctx → Ctx) : (s.modCtx c f).mil = s.mil := rfl
@[simp] theorem modCtx_mem (s : State) (c : Nat) (f : Ctx → Ctx) : (s.modCtx c f).mem = s.mem := rfl
@[simp] theorem modCtx_opt (s : State) (c : Nat) (f : Ctx → Ctx) : (s.modCtx c f).opt = s.opt := rfl
@[simp] theorem modCtx_res (s : State) (c : Nat) (f : Ctx → Ctx) : (s.modCtx c f).res = s.res := rfl
@[simp] theorem modCtx_sec (s : State) (c : Nat) (f : Ctx → Ctx) : (s.modCtx c f).sec = s.sec := rfl
@[simp] theorem modCtx_tly (s : State) (c : Nat) (f : Ctx → Ctx) : (s.modCtx c f).tly = s.tly := rfl
@[simp] theorem modCtx_pwr (s : State) (c : Nat) (f : Ctx → Ctx) : (s.modCtx c f).pwr = s.pwr := rfl
@[simp] theorem modCtx_nv (s : State) (c : Nat) (f : Ctx → Ctx) : (s.modCtx c f).nv = s.nv := rfl
@[simp] theorem modCtx_ram (s : State) (c : Nat) (f : Ctx → Ctx) : (s.modCtx c f).ram = s.ram := rfl
@[simp] theorem modCtx_clk (s : State) (c : Nat) (f : Ctx → Ctx) : (s.modCtx c f).clk = s.clk := rfl
@[simp] theorem modCtx_fresh (s : State) (c : Nat) (f : Ctx → Ctx) : (s.modCtx c f).fresh = s.fresh := rfl
@[simp] theorem modCtx_out (s : State) (c : Nat) (f : Ctx → Ctx) : (s.modCtx c f).out = s.out := rfl
@[simp] theorem modCtx_pending (s : State) (c : Nat) (f : Ctx → Ctx) : (s.modCtx c f).pending = s.pending := rfl

@[simp] theorem setBind_glb (s : State) (b : Nat) (v : Option Binding) : (s.setBind b v).glb = s.glb := rfl
@[simp] theorem setBind_plt (s : State) (b : Nat) (v : Option Binding) : (s.setBind b v).plt = s.plt := rfl
@[simp] theorem setBind_hst (s : State) (b : Nat) (v : Option Binding) : (s.setBind b v).hst = s.hst := rfl
@[simp] theorem setBind_lnk (s : State) (b : Nat) (v : Option Binding) : (s.setBind b v).lnk = s.lnk := rfl
@[simp] theorem setBind_srd (s : State) (b : Nat) (v : Option Binding) : (s.setBind b v).srd = s.srd := rfl
@[simp] theorem setBind_svc (s : State) (b : Nat) (v : Option Binding) : (s.setBind b v).svc = s.svc := rfl
@[simp] theorem setBind_eye (s : State) (b : Nat) (v : Option Binding) : (s.setBind b v).eye = s.eye := rfl
@[simp] theorem setBind_fwd (s : State) (b : Nat) (v : Option Binding) : (s.setBind b v).fwd = s.fwd := rfl
@[simp] theorem setBind_swc (s : State) (b : Nat) (v : Option Binding) : (s.setBind b v).swc = s.swc := rfl
@[simp] theorem setBind_tmb (s : State) (b : Nat) (v : Option Binding) : (s.setBind b v).tmb = s.tmb := rfl
@[simp] theorem setBind_lnd (s : State) (b : Nat) (v : Option Binding) : (s.setBind b v).lnd = s.lnd := rfl
@[simp] theorem setBind_mem (s : State) (b : Nat) (v : Option Binding) : (s.setBind b v).mem = s.mem := rfl
@[simp] theorem setBind_opt (s : State) (b : Nat) (v : Option Binding) : (s.setBind b v).opt = s.opt := rfl
@[simp] theorem setBind_res (s : State) (b : Nat) (v : Option Binding) : (s.setBind b v).res = s.res := rfl
@[simp] theorem setBind_sec (s : State) (b : Nat) (v : Option Binding) : (s.setBind b v).sec = s.sec := rfl
@[simp] theorem setBind_tly (s : State) (b : Nat) (v : Option Binding) : (s.setBind b v).tly = s.tly := rfl
@[simp] theorem setBind_pwr (s : State) (b : Nat) (v : Option Binding) : (s.setBind b v).pwr = s.pwr := rfl
@[simp] theorem setBind_nv (s : State) (b : Nat) (v : Option Binding) : (s.setBind b v).nv = s.nv := rfl
@[simp] theorem setBind_ram (s : State) (b : Nat) (v : Option Binding) : (s.setBind b v).ram = s.ram := rfl
@[simp] theorem setBind_clk (s : State) (b : Nat) (v : Option Binding) : (s.setBind b v).clk = s.clk := rfl
@[simp] theorem setBind_fresh (s : State) (b : Nat) (v : Option Binding) : (s.setBind b v).fresh = s.fresh := rfl
@[simp] theorem setBind_out (s : State) (b : Nat) (v : Option Binding) : (s.setBind b v).out = s.out := rfl
@[simp] theorem setBind_pending (s : State) (b : Nat) (v : Option Binding) : (s.setBind b v).pending = s.pending := rfl

@[simp] theorem modBind_glb (s : State) (b : Nat) (f : Binding → Binding) : (s.modBind b f).glb = s.glb := rfl
@[simp] theorem modBind_plt (s : State) (b : Nat) (f : Binding → Binding) : (s.modBind b f).plt = s.plt := rfl
@[simp] theorem modBind_hst (s : State) (b : Nat) (f : Binding → Binding) : (s.modBind b f).hst = s.hst := rfl
@[simp] theorem modBind_lnk (s : State) (b : Nat) (f : Binding → Binding) : (s.modBind b f).lnk = s.lnk := rfl
@[simp] theorem modBind_srd (s : State) (b : Nat) (f : Binding → Binding) : (s.modBind b f).srd = s.srd := rfl
@[simp] theorem modBind_svc (s : State) (b : Nat) (f : Binding → Binding) : (s.modBind b f).svc = s.svc := rfl
@[simp] theorem modBind_eye (s : State) (b : Nat) (f : Binding → Binding) : (s.modBind b f).eye = s.eye := rfl
@[simp] theorem modBind_fwd (s : State) (b : Nat) (f : Binding → Binding) : (s.modBind b f).fwd = s.fwd := rfl
@[simp] theorem modBind_swc (s : State) (b : Nat) (f : Binding → Binding) : (s.modBind b f).swc = s.swc := rfl
@[simp] theorem modBind_tmb (s : State) (b : Nat) (f : Binding → Binding) : (s.modBind b f).tmb = s.tmb := rfl
@[simp] theorem modBind_lnd (s : State) (b : Nat) (f : Binding → Binding) : (s.modBind b f).lnd = s.lnd := rfl
@[simp] theorem modBind_mem (s : State) (b : Nat) (f : Binding → Binding) : (s.modBind b f).mem = s.mem := rfl
@[simp] theorem modBind_opt (s : State) (b : Nat) (f : Binding → Binding) : (s.modBind b f).opt = s.opt := rfl
@[simp] theorem modBind_res (s : State) (b : Nat) (f : Binding → Binding) : (s.modBind b f).res = s.res := rfl
@[simp] theorem modBind_sec (s : State) (b : Nat) (f : Binding → Binding) : (s.modBind b f).sec = s.sec := rfl
@[simp] theorem modBind_tly (s : State) (b : Nat) (f : Binding → Binding) : (s.modBind b f).tly = s.tly := rfl
@[simp] theorem modBind_pwr (s : State) (b : Nat) (f : Binding → Binding) : (s.modBind b f).pwr = s.pwr := rfl
@[simp] theorem modBind_nv (s : State) (b : Nat) (f : Binding → Binding) : (s.modBind b f).nv = s.nv := rfl
@[simp] theorem modBind_ram (s : State) (b : Nat) (f : Binding → Binding) : (s.modBind b f).ram = s.ram := rfl
@[simp] theorem modBind_clk (s : State) (b : Nat) (f : Binding → Binding) : (s.modBind b f).clk = s.clk := rfl
@[simp] theorem modBind_fresh (s : State) (b : Nat) (f : Binding → Binding) : (s.modBind b f).fresh = s.fresh := rfl
@[simp] theorem modBind_out (s : State) (b : Nat) (f : Binding → Binding) : (s.modBind b f).out = s.out := rfl
@[simp] theorem modBind_pending (s : State) (b : Nat) (f : Binding → Binding) : (s.modBind b f).pending = s.pending := rfl

@[simp] theorem modCore_glb (s : State) (c : Nat) (f : Core → Core) : (s.modCore c f).glb = s.glb := rfl
@[simp] theorem modCore_plt (s : State) (c : Nat) (f : Core → Core) : (s.modCore c f).plt = s.plt := rfl
@[simp] theorem modCore_hst (s : State) (c : Nat) (f : Core → Core) : (s.modCore c f).hst = s.hst := rfl
@[simp] theorem modCore_lnk (s : State) (c : Nat) (f : Core → Core) : (s.modCore c f).lnk = s.lnk := rfl
@[simp] theorem modCore_srd (s : State) (c : Nat) (f : Core → Core) : (s.modCore c f).srd = s.srd := rfl
@[simp] theorem modCore_svc (s : State) (c : Nat) (f : Core → Core) : (s.modCore c f).svc = s.svc := rfl
@[simp] theorem modCore_eye (s : State) (c : Nat) (f : Core → Core) : (s.modCore c f).eye = s.eye := rfl
@[simp] theorem modCore_fwd (s : State) (c : Nat) (f : Core → Core) : (s.modCore c f).fwd = s.fwd := rfl
@[simp] theorem modCore_swc (s : State) (c : Nat) (f : Core → Core) : (s.modCore c f).swc = s.swc := rfl
@[simp] theorem modCore_tmb (s : State) (c : Nat) (f : Core → Core) : (s.modCore c f).tmb = s.tmb := rfl
@[simp] theorem modCore_lnd (s : State) (c : Nat) (f : Core → Core) : (s.modCore c f).lnd = s.lnd := rfl
@[simp] theorem modCore_mem (s : State) (c : Nat) (f : Core → Core) : (s.modCore c f).mem = s.mem := rfl
@[simp] theorem modCore_opt (s : State) (c : Nat) (f : Core → Core) : (s.modCore c f).opt = s.opt := rfl
@[simp] theorem modCore_res (s : State) (c : Nat) (f : Core → Core) : (s.modCore c f).res = s.res := rfl
@[simp] theorem modCore_sec (s : State) (c : Nat) (f : Core → Core) : (s.modCore c f).sec = s.sec := rfl
@[simp] theorem modCore_tly (s : State) (c : Nat) (f : Core → Core) : (s.modCore c f).tly = s.tly := rfl
@[simp] theorem modCore_pwr (s : State) (c : Nat) (f : Core → Core) : (s.modCore c f).pwr = s.pwr := rfl
@[simp] theorem modCore_nv (s : State) (c : Nat) (f : Core → Core) : (s.modCore c f).nv = s.nv := rfl
@[simp] theorem modCore_ram (s : State) (c : Nat) (f : Core → Core) : (s.modCore c f).ram = s.ram := rfl
@[simp] theorem modCore_clk (s : State) (c : Nat) (f : Core → Core) : (s.modCore c f).clk = s.clk := rfl
@[simp] theorem modCore_fresh (s : State) (c : Nat) (f : Core → Core) : (s.modCore c f).fresh = s.fresh := rfl
@[simp] theorem modCore_out (s : State) (c : Nat) (f : Core → Core) : (s.modCore c f).out = s.out := rfl
@[simp] theorem modCore_pending (s : State) (c : Nat) (f : Core → Core) : (s.modCore c f).pending = s.pending := rfl

@[simp] theorem setHost_glb (s : State) (p : HPort) (h : HostPort) : (s.setHost p h).glb = s.glb := by cases p <;> rfl
@[simp] theorem setHost_plt (s : State) (p : HPort) (h : HostPort) : (s.setHost p h).plt = s.plt := by cases p <;> rfl
@[simp] theorem setHost_lnk (s : State) (p : HPort) (h : HostPort) : (s.setHost p h).lnk = s.lnk := by cases p <;> rfl
@[simp] theorem setHost_srd (s : State) (p : HPort) (h : HostPort) : (s.setHost p h).srd = s.srd := by cases p <;> rfl
@[simp] theorem setHost_svc (s : State) (p : HPort) (h : HostPort) : (s.setHost p h).svc = s.svc := by cases p <;> rfl
@[simp] theorem setHost_eye (s : State) (p : HPort) (h : HostPort) : (s.setHost p h).eye = s.eye := by cases p <;> rfl
@[simp] theorem setHost_fwd (s : State) (p : HPort) (h : HostPort) : (s.setHost p h).fwd = s.fwd := by cases p <;> rfl
@[simp] theorem setHost_swc (s : State) (p : HPort) (h : HostPort) : (s.setHost p h).swc = s.swc := by cases p <;> rfl
@[simp] theorem setHost_tmb (s : State) (p : HPort) (h : HostPort) : (s.setHost p h).tmb = s.tmb := by cases p <;> rfl
@[simp] theorem setHost_lnd (s : State) (p : HPort) (h : HostPort) : (s.setHost p h).lnd = s.lnd := by cases p <;> rfl
@[simp] theorem setHost_mil (s : State) (p : HPort) (h : HostPort) : (s.setHost p h).mil = s.mil := by cases p <;> rfl
@[simp] theorem setHost_mem (s : State) (p : HPort) (h : HostPort) : (s.setHost p h).mem = s.mem := by cases p <;> rfl
@[simp] theorem setHost_opt (s : State) (p : HPort) (h : HostPort) : (s.setHost p h).opt = s.opt := by cases p <;> rfl
@[simp] theorem setHost_res (s : State) (p : HPort) (h : HostPort) : (s.setHost p h).res = s.res := by cases p <;> rfl
@[simp] theorem setHost_sec (s : State) (p : HPort) (h : HostPort) : (s.setHost p h).sec = s.sec := by cases p <;> rfl
@[simp] theorem setHost_tly (s : State) (p : HPort) (h : HostPort) : (s.setHost p h).tly = s.tly := by cases p <;> rfl
@[simp] theorem setHost_pwr (s : State) (p : HPort) (h : HostPort) : (s.setHost p h).pwr = s.pwr := by cases p <;> rfl
@[simp] theorem setHost_nv (s : State) (p : HPort) (h : HostPort) : (s.setHost p h).nv = s.nv := by cases p <;> rfl
@[simp] theorem setHost_ram (s : State) (p : HPort) (h : HostPort) : (s.setHost p h).ram = s.ram := by cases p <;> rfl
@[simp] theorem setHost_clk (s : State) (p : HPort) (h : HostPort) : (s.setHost p h).clk = s.clk := by cases p <;> rfl
@[simp] theorem setHost_fresh (s : State) (p : HPort) (h : HostPort) : (s.setHost p h).fresh = s.fresh := by cases p <;> rfl
@[simp] theorem setHost_out (s : State) (p : HPort) (h : HostPort) : (s.setHost p h).out = s.out := by cases p <;> rfl
@[simp] theorem setHost_pending (s : State) (p : HPort) (h : HostPort) : (s.setHost p h).pending = s.pending := by cases p <;> rfl

@[simp] theorem modHost_glb (s : State) (p : HPort) (f : HostPort → HostPort) : (s.modHost p f).glb = s.glb := by cases p <;> rfl
@[simp] theorem modHost_plt (s : State) (p : HPort) (f : HostPort → HostPort) : (s.modHost p f).plt = s.plt := by cases p <;> rfl
@[simp] theorem modHost_lnk (s : State) (p : HPort) (f : HostPort → HostPort) : (s.modHost p f).lnk = s.lnk := by cases p <;> rfl
@[simp] theorem modHost_srd (s : State) (p : HPort) (f : HostPort → HostPort) : (s.modHost p f).srd = s.srd := by cases p <;> rfl
@[simp] theorem modHost_svc (s : State) (p : HPort) (f : HostPort → HostPort) : (s.modHost p f).svc = s.svc := by cases p <;> rfl
@[simp] theorem modHost_eye (s : State) (p : HPort) (f : HostPort → HostPort) : (s.modHost p f).eye = s.eye := by cases p <;> rfl
@[simp] theorem modHost_fwd (s : State) (p : HPort) (f : HostPort → HostPort) : (s.modHost p f).fwd = s.fwd := by cases p <;> rfl
@[simp] theorem modHost_swc (s : State) (p : HPort) (f : HostPort → HostPort) : (s.modHost p f).swc = s.swc := by cases p <;> rfl
@[simp] theorem modHost_tmb (s : State) (p : HPort) (f : HostPort → HostPort) : (s.modHost p f).tmb = s.tmb := by cases p <;> rfl
@[simp] theorem modHost_lnd (s : State) (p : HPort) (f : HostPort → HostPort) : (s.modHost p f).lnd = s.lnd := by cases p <;> rfl
@[simp] theorem modHost_mil (s : State) (p : HPort) (f : HostPort → HostPort) : (s.modHost p f).mil = s.mil := by cases p <;> rfl
@[simp] theorem modHost_mem (s : State) (p : HPort) (f : HostPort → HostPort) : (s.modHost p f).mem = s.mem := by cases p <;> rfl
@[simp] theorem modHost_opt (s : State) (p : HPort) (f : HostPort → HostPort) : (s.modHost p f).opt = s.opt := by cases p <;> rfl
@[simp] theorem modHost_res (s : State) (p : HPort) (f : HostPort → HostPort) : (s.modHost p f).res = s.res := by cases p <;> rfl
@[simp] theorem modHost_sec (s : State) (p : HPort) (f : HostPort → HostPort) : (s.modHost p f).sec = s.sec := by cases p <;> rfl
@[simp] theorem modHost_tly (s : State) (p : HPort) (f : HostPort → HostPort) : (s.modHost p f).tly = s.tly := by cases p <;> rfl
@[simp] theorem modHost_pwr (s : State) (p : HPort) (f : HostPort → HostPort) : (s.modHost p f).pwr = s.pwr := by cases p <;> rfl
@[simp] theorem modHost_nv (s : State) (p : HPort) (f : HostPort → HostPort) : (s.modHost p f).nv = s.nv := by cases p <;> rfl
@[simp] theorem modHost_ram (s : State) (p : HPort) (f : HostPort → HostPort) : (s.modHost p f).ram = s.ram := by cases p <;> rfl
@[simp] theorem modHost_clk (s : State) (p : HPort) (f : HostPort → HostPort) : (s.modHost p f).clk = s.clk := by cases p <;> rfl
@[simp] theorem modHost_fresh (s : State) (p : HPort) (f : HostPort → HostPort) : (s.modHost p f).fresh = s.fresh := by cases p <;> rfl
@[simp] theorem modHost_out (s : State) (p : HPort) (f : HostPort → HostPort) : (s.modHost p f).out = s.out := by cases p <;> rfl
@[simp] theorem modHost_pending (s : State) (p : HPort) (f : HostPort → HostPort) : (s.modHost p f).pending = s.pending := by cases p <;> rfl

@[simp] theorem setDist_glb (s : State) (d : Nat) (v : DistState) : (s.setDist d v).glb = s.glb := rfl
@[simp] theorem setDist_hst (s : State) (d : Nat) (v : DistState) : (s.setDist d v).hst = s.hst := rfl
@[simp] theorem setDist_lnk (s : State) (d : Nat) (v : DistState) : (s.setDist d v).lnk = s.lnk := rfl
@[simp] theorem setDist_srd (s : State) (d : Nat) (v : DistState) : (s.setDist d v).srd = s.srd := rfl
@[simp] theorem setDist_svc (s : State) (d : Nat) (v : DistState) : (s.setDist d v).svc = s.svc := rfl
@[simp] theorem setDist_eye (s : State) (d : Nat) (v : DistState) : (s.setDist d v).eye = s.eye := rfl
@[simp] theorem setDist_fwd (s : State) (d : Nat) (v : DistState) : (s.setDist d v).fwd = s.fwd := rfl
@[simp] theorem setDist_swc (s : State) (d : Nat) (v : DistState) : (s.setDist d v).swc = s.swc := rfl
@[simp] theorem setDist_tmb (s : State) (d : Nat) (v : DistState) : (s.setDist d v).tmb = s.tmb := rfl
@[simp] theorem setDist_lnd (s : State) (d : Nat) (v : DistState) : (s.setDist d v).lnd = s.lnd := rfl
@[simp] theorem setDist_mil (s : State) (d : Nat) (v : DistState) : (s.setDist d v).mil = s.mil := rfl
@[simp] theorem setDist_mem (s : State) (d : Nat) (v : DistState) : (s.setDist d v).mem = s.mem := rfl
@[simp] theorem setDist_opt (s : State) (d : Nat) (v : DistState) : (s.setDist d v).opt = s.opt := rfl
@[simp] theorem setDist_res (s : State) (d : Nat) (v : DistState) : (s.setDist d v).res = s.res := rfl
@[simp] theorem setDist_sec (s : State) (d : Nat) (v : DistState) : (s.setDist d v).sec = s.sec := rfl
@[simp] theorem setDist_tly (s : State) (d : Nat) (v : DistState) : (s.setDist d v).tly = s.tly := rfl
@[simp] theorem setDist_pwr (s : State) (d : Nat) (v : DistState) : (s.setDist d v).pwr = s.pwr := rfl
@[simp] theorem setDist_nv (s : State) (d : Nat) (v : DistState) : (s.setDist d v).nv = s.nv := rfl
@[simp] theorem setDist_ram (s : State) (d : Nat) (v : DistState) : (s.setDist d v).ram = s.ram := rfl
@[simp] theorem setDist_clk (s : State) (d : Nat) (v : DistState) : (s.setDist d v).clk = s.clk := rfl
@[simp] theorem setDist_fresh (s : State) (d : Nat) (v : DistState) : (s.setDist d v).fresh = s.fresh := rfl
@[simp] theorem setDist_out (s : State) (d : Nat) (v : DistState) : (s.setDist d v).out = s.out := rfl
@[simp] theorem setDist_pending (s : State) (d : Nat) (v : DistState) : (s.setDist d v).pending = s.pending := rfl

@[simp] theorem wrMem_glb (s : State) (a : Nat) (bs : List Byte) : (wrMem s a bs).glb = s.glb := rfl
@[simp] theorem wrMem_plt (s : State) (a : Nat) (bs : List Byte) : (wrMem s a bs).plt = s.plt := rfl
@[simp] theorem wrMem_hst (s : State) (a : Nat) (bs : List Byte) : (wrMem s a bs).hst = s.hst := rfl
@[simp] theorem wrMem_lnk (s : State) (a : Nat) (bs : List Byte) : (wrMem s a bs).lnk = s.lnk := rfl
@[simp] theorem wrMem_srd (s : State) (a : Nat) (bs : List Byte) : (wrMem s a bs).srd = s.srd := rfl
@[simp] theorem wrMem_svc (s : State) (a : Nat) (bs : List Byte) : (wrMem s a bs).svc = s.svc := rfl
@[simp] theorem wrMem_eye (s : State) (a : Nat) (bs : List Byte) : (wrMem s a bs).eye = s.eye := rfl
@[simp] theorem wrMem_fwd (s : State) (a : Nat) (bs : List Byte) : (wrMem s a bs).fwd = s.fwd := rfl
@[simp] theorem wrMem_swc (s : State) (a : Nat) (bs : List Byte) : (wrMem s a bs).swc = s.swc := rfl
@[simp] theorem wrMem_tmb (s : State) (a : Nat) (bs : List Byte) : (wrMem s a bs).tmb = s.tmb := rfl
@[simp] theorem wrMem_lnd (s : State) (a : Nat) (bs : List Byte) : (wrMem s a bs).lnd = s.lnd := rfl
@[simp] theorem wrMem_mil (s : State) (a : Nat) (bs : List Byte) : (wrMem s a bs).mil = s.mil := rfl
@[simp] theorem wrMem_mem (s : State) (a : Nat) (bs : List Byte) : (wrMem s a bs).mem = s.mem := rfl
@[simp] theorem wrMem_opt (s : State) (a : Nat) (bs : List Byte) : (wrMem s a bs).opt = s.opt := rfl
@[simp] theorem wrMem_res (s : State) (a : Nat) (bs : List Byte) : (wrMem s a bs).res = s.res := rfl
@[simp] theorem wrMem_sec (s : State) (a : Nat) (bs : List Byte) : (wrMem s a bs).sec = s.sec := rfl
@[simp] theorem wrMem_tly (s : State) (a : Nat) (bs : List Byte) : (wrMem s a bs).tly = s.tly := rfl
@[simp] theorem wrMem_pwr (s : State) (a : Nat) (bs : List Byte) : (wrMem s a bs).pwr = s.pwr := rfl
@[simp] theorem wrMem_nv (s : State) (a : Nat) (bs : List Byte) : (wrMem s a bs).nv = s.nv := rfl
@[simp] theorem wrMem_clk (s : State) (a : Nat) (bs : List Byte) : (wrMem s a bs).clk = s.clk := rfl
@[simp] theorem wrMem_fresh (s : State) (a : Nat) (bs : List Byte) : (wrMem s a bs).fresh = s.fresh := rfl
@[simp] theorem wrMem_out (s : State) (a : Nat) (bs : List Byte) : (wrMem s a bs).out = s.out := rfl
@[simp] theorem wrMem_pending (s : State) (a : Nat) (bs : List Byte) : (wrMem s a bs).pending = s.pending := rfl

@[simp] theorem sendSvc_glb (l t : Nat) (b : List Byte) (m : Bool) (s : State) : (sendSvc l t b m s).glb = s.glb := rfl
@[simp] theorem sendSvc_plt (l t : Nat) (b : List Byte) (m : Bool) (s : State) : (sendSvc l t b m s).plt = s.plt := rfl
@[simp] theorem sendSvc_hst (l t : Nat) (b : List Byte) (m : Bool) (s : State) : (sendSvc l t b m s).hst = s.hst := rfl
@[simp] theorem sendSvc_lnk (l t : Nat) (b : List Byte) (m : Bool) (s : State) : (sendSvc l t b m s).lnk = s.lnk := rfl
@[simp] theorem sendSvc_srd (l t : Nat) (b : List Byte) (m : Bool) (s : State) : (sendSvc l t b m s).srd = s.srd := rfl
@[simp] theorem sendSvc_eye (l t : Nat) (b : List Byte) (m : Bool) (s : State) : (sendSvc l t b m s).eye = s.eye := rfl
@[simp] theorem sendSvc_fwd (l t : Nat) (b : List Byte) (m : Bool) (s : State) : (sendSvc l t b m s).fwd = s.fwd := rfl
@[simp] theorem sendSvc_swc (l t : Nat) (b : List Byte) (m : Bool) (s : State) : (sendSvc l t b m s).swc = s.swc := rfl
@[simp] theorem sendSvc_tmb (l t : Nat) (b : List Byte) (m : Bool) (s : State) : (sendSvc l t b m s).tmb = s.tmb := rfl
@[simp] theorem sendSvc_lnd (l t : Nat) (b : List Byte) (m : Bool) (s : State) : (sendSvc l t b m s).lnd = s.lnd := rfl
@[simp] theorem sendSvc_mil (l t : Nat) (b : List Byte) (m : Bool) (s : State) : (sendSvc l t b m s).mil = s.mil := rfl
@[simp] theorem sendSvc_mem (l t : Nat) (b : List Byte) (m : Bool) (s : State) : (sendSvc l t b m s).mem = s.mem := rfl
@[simp] theorem sendSvc_opt (l t : Nat) (b : List Byte) (m : Bool) (s : State) : (sendSvc l t b m s).opt = s.opt := rfl
@[simp] theorem sendSvc_res (l t : Nat) (b : List Byte) (m : Bool) (s : State) : (sendSvc l t b m s).res = s.res := rfl
@[simp] theorem sendSvc_sec (l t : Nat) (b : List Byte) (m : Bool) (s : State) : (sendSvc l t b m s).sec = s.sec := rfl
@[simp] theorem sendSvc_tly (l t : Nat) (b : List Byte) (m : Bool) (s : State) : (sendSvc l t b m s).tly = s.tly := rfl
@[simp] theorem sendSvc_pwr (l t : Nat) (b : List Byte) (m : Bool) (s : State) : (sendSvc l t b m s).pwr = s.pwr := rfl
@[simp] theorem sendSvc_nv (l t : Nat) (b : List Byte) (m : Bool) (s : State) : (sendSvc l t b m s).nv = s.nv := rfl
@[simp] theorem sendSvc_ram (l t : Nat) (b : List Byte) (m : Bool) (s : State) : (sendSvc l t b m s).ram = s.ram := rfl
@[simp] theorem sendSvc_clk (l t : Nat) (b : List Byte) (m : Bool) (s : State) : (sendSvc l t b m s).clk = s.clk := rfl
@[simp] theorem sendSvc_fresh (l t : Nat) (b : List Byte) (m : Bool) (s : State) : (sendSvc l t b m s).fresh = s.fresh := rfl
@[simp] theorem sendSvc_pending (l t : Nat) (b : List Byte) (m : Bool) (s : State) : (sendSvc l t b m s).pending = s.pending := rfl

@[simp] theorem denyWrite_glb (p : HPort) (s : State) : (denyWrite p s).glb = s.glb := by cases p <;> rfl
@[simp] theorem denyWrite_plt (p : HPort) (s : State) : (denyWrite p s).plt = s.plt := by cases p <;> rfl
@[simp] theorem denyWrite_lnk (p : HPort) (s : State) : (denyWrite p s).lnk = s.lnk := by cases p <;> rfl
@[simp] theorem denyWrite_srd (p : HPort) (s : State) : (denyWrite p s).srd = s.srd := by cases p <;> rfl
@[simp] theorem denyWrite_svc (p : HPort) (s : State) : (denyWrite p s).svc = s.svc := by cases p <;> rfl
@[simp] theorem denyWrite_eye (p : HPort) (s : State) : (denyWrite p s).eye = s.eye := by cases p <;> rfl
@[simp] theorem denyWrite_fwd (p : HPort) (s : State) : (denyWrite p s).fwd = s.fwd := by cases p <;> rfl
@[simp] theorem denyWrite_swc (p : HPort) (s : State) : (denyWrite p s).swc = s.swc := by cases p <;> rfl
@[simp] theorem denyWrite_tmb (p : HPort) (s : State) : (denyWrite p s).tmb = s.tmb := by cases p <;> rfl
@[simp] theorem denyWrite_lnd (p : HPort) (s : State) : (denyWrite p s).lnd = s.lnd := by cases p <;> rfl
@[simp] theorem denyWrite_mil (p : HPort) (s : State) : (denyWrite p s).mil = s.mil := by cases p <;> rfl
@[simp] theorem denyWrite_mem (p : HPort) (s : State) : (denyWrite p s).mem = s.mem := by cases p <;> rfl
@[simp] theorem denyWrite_opt (p : HPort) (s : State) : (denyWrite p s).opt = s.opt := by cases p <;> rfl
@[simp] theorem denyWrite_res (p : HPort) (s : State) : (denyWrite p s).res = s.res := by cases p <;> rfl
@[simp] theorem denyWrite_sec (p : HPort) (s : State) : (denyWrite p s).sec = s.sec := by cases p <;> rfl
@[simp] theorem denyWrite_pwr (p : HPort) (s : State) : (denyWrite p s).pwr = s.pwr := by cases p <;> rfl
@[simp] theorem denyWrite_nv (p : HPort) (s : State) : (denyWrite p s).nv = s.nv := by cases p <;> rfl
@[simp] theorem denyWrite_ram (p : HPort) (s : State) : (denyWrite p s).ram = s.ram := by cases p <;> rfl
@[simp] theorem denyWrite_clk (p : HPort) (s : State) : (denyWrite p s).clk = s.clk := by cases p <;> rfl
@[simp] theorem denyWrite_fresh (p : HPort) (s : State) : (denyWrite p s).fresh = s.fresh := by cases p <;> rfl
@[simp] theorem denyWrite_out (p : HPort) (s : State) : (denyWrite p s).out = s.out := by cases p <;> rfl
@[simp] theorem denyWrite_pending (p : HPort) (s : State) : (denyWrite p s).pending = s.pending := by cases p <;> rfl

@[simp] theorem setLink_link_self (s : State) (p : Nat) (l : Link) : (s.setLink p l).link p = l := tget_tset_self _ _ _ _
theorem setLink_link_of_ne (s : State) {p q : Nat} (l : Link) (h : q ≠ p) : (s.setLink p l).link q = s.link q := tget_tset_of_ne _ _ _ h
@[simp] theorem setLane_lane_self (s : State) (p : Nat) (l : Lane) : (s.setLane p l).lane p = l := tget_tset_self _ _ _ _
theorem setLane_lane_of_ne (s : State) {p q : Nat} (l : Lane) (h : q ≠ p) : (s.setLane p l).lane q = s.lane q := tget_tset_of_ne _ _ _ h
@[simp] theorem setQueue_queue_self (s : State) (p : Nat) (l : Queue) : (s.setQueue p l).queue p = l := tget_tset_self _ _ _ _
theorem setQueue_queue_of_ne (s : State) {p q : Nat} (l : Queue) (h : q ≠ p) : (s.setQueue p l).queue q = s.queue q := tget_tset_of_ne _ _ _ h
@[simp] theorem modLink_link_self (s : State) (p : Nat) (f : Link → Link) : (s.modLink p f).link p = f (s.link p) := tget_tset_self _ _ _ _
theorem modLink_link_of_ne (s : State) {p q : Nat} (f : Link → Link) (h : q ≠ p) : (s.modLink p f).link q = s.link q := tget_tset_of_ne _ _ _ h
@[simp] theorem modLane_lane_self (s : State) (p : Nat) (f : Lane → Lane) : (s.modLane p f).lane p = f (s.lane p) := tget_tset_self _ _ _ _
theorem modLane_lane_of_ne (s : State) {p q : Nat} (f : Lane → Lane) (h : q ≠ p) : (s.modLane p f).lane q = s.lane q := tget_tset_of_ne _ _ _ h
@[simp] theorem modSvc_svcLane_self (s : State) (p : Nat) (f : Svc → Svc) : (s.modSvc p f).svcLane p = f (s.svcLane p) := tget_tset_self _ _ _ _
theorem modSvc_svcLane_of_ne (s : State) {p q : Nat} (f : Svc → Svc) (h : q ≠ p) : (s.modSvc p f).svcLane q = s.svcLane q := tget_tset_of_ne _ _ _ h
@[simp] theorem modEye_eyeOf_self (s : State) (p : Nat) (f : Eye → Eye) : (s.modEye p f).eyeOf p = f (s.eyeOf p) := tget_tset_self _ _ _ _
theorem modEye_eyeOf_of_ne (s : State) {p q : Nat} (f : Eye → Eye) (h : q ≠ p) : (s.modEye p f).eyeOf q = s.eyeOf q := tget_tset_of_ne _ _ _ h
@[simp] theorem modPath_path_self (s : State) (p : Nat) (f : OPath → OPath) : (s.modPath p f).path p = f (s.path p) := tget_tset_self _ _ _ _
theorem modPath_path_of_ne (s : State) {p q : Nat} (f : OPath → OPath) (h : q ≠ p) : (s.modPath p f).path q = s.path q := tget_tset_of_ne _ _ _ h
@[simp] theorem modEngine_engine_self (s : State) (p : Nat) (f : Engine → Engine) : (s.modEngine p f).engine p = f (s.engine p) := tget_tset_self _ _ _ _
theorem modEngine_engine_of_ne (s : State) {p q : Nat} (f : Engine → Engine) (h : q ≠ p) : (s.modEngine p f).engine q = s.engine q := tget_tset_of_ne _ _ _ h
@[simp] theorem modFly_flyOf_self (s : State) (p : Nat) (f : Fly → Fly) : (s.modFly p f).flyOf p = f (s.flyOf p) := tget_tset_self _ _ _ _
theorem modFly_flyOf_of_ne (s : State) {p q : Nat} (f : Fly → Fly) (h : q ≠ p) : (s.modFly p f).flyOf q = s.flyOf q := tget_tset_of_ne _ _ _ h
@[simp] theorem modQueue_queue_self (s : State) (p : Nat) (f : Queue → Queue) : (s.modQueue p f).queue p = f (s.queue p) := tget_tset_self _ _ _ _
theorem modQueue_queue_of_ne (s : State) {p q : Nat} (f : Queue → Queue) (h : q ≠ p) : (s.modQueue p f).queue q = s.queue q := tget_tset_of_ne _ _ _ h
@[simp] theorem modSched_sched_self (s : State) (p : Nat) (f : Sched → Sched) : (s.modSched p f).sched p = f (s.sched p) := tget_tset_self _ _ _ _
theorem modSched_sched_of_ne (s : State) {p q : Nat} (f : Sched → Sched) (h : q ≠ p) : (s.modSched p f).sched q = s.sched q := tget_tset_of_ne _ _ _ h
@[simp] theorem modCore_coreOf_self (s : State) (p : Nat) (f : Core → Core) : (s.modCore p f).coreOf p = f (s.coreOf p) := tget_tset_self _ _ _ _
theorem modCore_coreOf_of_ne (s : State) {p q : Nat} (f : Core → Core) (h : q ≠ p) : (s.modCore p f).coreOf q = s.coreOf q := tget_tset_of_ne _ _ _ h
@[simp] theorem setCtx_ctx_self (s : State) (c : Nat) (v : Option Ctx) : (s.setCtx c v).ctx c = v := tget_tset_self _ _ _ _
theorem setCtx_ctx_of_ne (s : State) {c d : Nat} (v : Option Ctx) (h : d ≠ c) : (s.setCtx c v).ctx d = s.ctx d := tget_tset_of_ne _ _ _ h
@[simp] theorem modCtx_ctx_self (s : State) (c : Nat) (f : Ctx → Ctx) : (s.modCtx c f).ctx c = (s.ctx c).map f := tget_tset_self _ _ _ _
theorem modCtx_ctx_of_ne (s : State) {c d : Nat} (f : Ctx → Ctx) (h : d ≠ c) : (s.modCtx c f).ctx d = s.ctx d := tget_tset_of_ne _ _ _ h
@[simp] theorem setBind_bindOf_self (s : State) (c : Nat) (v : Option Binding) : (s.setBind c v).bindOf c = v := tget_tset_self _ _ _ _
theorem setBind_bindOf_of_ne (s : State) {c d : Nat} (v : Option Binding) (h : d ≠ c) : (s.setBind c v).bindOf d = s.bindOf d := tget_tset_of_ne _ _ _ h
@[simp] theorem modBind_bindOf_self (s : State) (c : Nat) (f : Binding → Binding) : (s.modBind c f).bindOf c = (s.bindOf c).map f := tget_tset_self _ _ _ _
theorem modBind_bindOf_of_ne (s : State) {c d : Nat} (f : Binding → Binding) (h : d ≠ c) : (s.modBind c f).bindOf d = s.bindOf d := tget_tset_of_ne _ _ _ h
@[simp] theorem setHost_host_self (s : State) (p : HPort) (h : HostPort) : (s.setHost p h).host p = h := by cases p <;> rfl
@[simp] theorem modHost_host_self (s : State) (p : HPort) (f : HostPort → HostPort) : (s.modHost p f).host p = f (s.host p) := by
  cases p <;> rfl
theorem setHost_host_of_ne (s : State) {p q : HPort} (h : HostPort) (n : q ≠ p) : (s.setHost p h).host q = s.host q := by
  cases p <;> cases q <;> first | rfl | exact absurd rfl n
@[simp] theorem setHost_owner (s : State) (p : HPort) (h : HostPort) : (s.setHost p h).hst.owner = s.hst.owner := by cases p <;> rfl
@[simp] theorem modHost_owner (s : State) (p : HPort) (f : HostPort → HostPort) : (s.modHost p f).hst.owner = s.hst.owner := by
  cases p <;> rfl
@[simp] theorem setDist_dist_self (s : State) (d : Nat) (v : DistState) : (s.setDist d v).dist d = v := tget_tset_self _ _ _ _
theorem setDist_dist_of_ne (s : State) {d e : Nat} (v : DistState) (h : e ≠ d) : (s.setDist d v).dist e = s.dist e :=
  tget_tset_of_ne _ _ _ h

/-! ### The write gate (R21, R383, R390): all that it can do -/

/-- The owner's write is carried out. -/
theorem hostWrite_owner {p : HPort} {glb : Bool} {f : State → State} {s : State} (hp : (s.host p).perst = false)
    (hb : s.booted = true) (ho : s.hst.owner = some p) : hostWrite p glb f s = f s := by
  simp [hostWrite, hp, hb, ho]
/-- Another port's write is denied. -/
theorem hostWrite_stranger {p : HPort} {glb : Bool} {f : State → State} {s : State} (hp : (s.host p).perst = false)
    (hb : s.booted = true) (ho : s.hst.owner ≠ some p) : hostWrite p glb f s = denyWrite p s := by
  simp [hostWrite, hp, hb, ho]
/-- Nothing arrives while PERST# is asserted. -/
theorem hostWrite_perst {p : HPort} {glb : Bool} {f : State → State} {s : State} (hp : (s.host p).perst = true) :
    hostWrite p glb f s = s := by
  simp [hostWrite, hp]
/-- Before UNPLATTED a write outside GLB does nothing. -/
theorem hostWrite_early {p : HPort} {f : State → State} {s : State} (hb : s.booted = false) : hostWrite p false f s = s := by
  unfold hostWrite
  split
  · rfl
  · simp [hb]
theorem portWrite_up {p : HPort} {f : State → State} {s : State} (hp : (s.host p).perst = false) (hb : s.booted = true) :
    portWrite p f s = f s := by
  simp [portWrite, hp, hb]

/-! ### Memory (R388): read after write -/

/-- A byte in the capacity reads what the write put there. -/
theorem wrMem_tget (s : State) (a : Nat) (bs : List Byte) (j : Nat) :
    tget 0 (wrMem s a bs).ram j =
      if a ≤ j ∧ j < a + (bs.take (s.capacity - a)).length then ((bs.take (s.capacity - a))[j - a]?).getD 0 else tget 0 s.ram j :=
  tget_tsetL _ _ _ _ _
/-- Every memory operation keeps the canonical form. -/
theorem wrMem_wf {s : State} (a : Nat) (bs : List Byte) (h : twf 0 s.ram = true) : twf 0 (wrMem s a bs).ram = true :=
  twf_tsetL _ _ h

end Sys2Proof.Machine
end

