-- ==== Sys2Proof/Laws/Spec.lean ====
section
/-! SUPPORT. What shared operations do, said once: that a block of the state is as before, read off from `Kept`; self-cordon, alarms and the clock; folds over tables. -/
namespace Sys2Proof.Machine
open Sys2Proof

/-! ### One block of the state, read off from `Kept` -/

theorem Kept.e_glb {L : List Blk} {s t : State} (h : Kept L s t) (hb : Blk.glb ∉ L := by decide) : t.glb = s.glb := h.same .glb hb
theorem Kept.e_plt {L : List Blk} {s t : State} (h : Kept L s t) (hb : Blk.plt ∉ L := by decide) : t.plt = s.plt := h.same .plt hb
theorem Kept.e_hst {L : List Blk} {s t : State} (h : Kept L s t) (hb : Blk.hst ∉ L := by decide) : t.hst = s.hst := h.same .hst hb
theorem Kept.e_lnk {L : List Blk} {s t : State} (h : Kept L s t) (hb : Blk.lnk ∉ L := by decide) : t.lnk = s.lnk := h.same .lnk hb
theorem Kept.e_srd {L : List Blk} {s t : State} (h : Kept L s t) (hb : Blk.srd ∉ L := by decide) : t.srd = s.srd := h.same .srd hb
theorem Kept.e_svc {L : List Blk} {s t : State} (h : Kept L s t) (hb : Blk.svc ∉ L := by decide) : t.svc = s.svc := h.same .svc hb
theorem Kept.e_eye {L : List Blk} {s t : State} (h : Kept L s t) (hb : Blk.eye ∉ L := by decide) : t.eye = s.eye := h.same .eye hb
theorem Kept.e_fwd {L : List Blk} {s t : State} (h : Kept L s t) (hb : Blk.fwd ∉ L := by decide) : t.fwd = s.fwd := h.same .fwd hb
theorem Kept.e_swc {L : List Blk} {s t : State} (h : Kept L s t) (hb : Blk.swc ∉ L := by decide) : t.swc = s.swc := h.same .swc hb
theorem Kept.e_tmb {L : List Blk} {s t : State} (h : Kept L s t) (hb : Blk.tmb ∉ L := by decide) : t.tmb = s.tmb := h.same .tmb hb
theorem Kept.e_lnd {L : List Blk} {s t : State} (h : Kept L s t) (hb : Blk.lnd ∉ L := by decide) : t.lnd = s.lnd := h.same .lnd hb
theorem Kept.e_mil {L : List Blk} {s t : State} (h : Kept L s t) (hb : Blk.mil ∉ L := by decide) : t.mil = s.mil := h.same .mil hb
theorem Kept.e_mem {L : List Blk} {s t : State} (h : Kept L s t) (hb : Blk.mem ∉ L := by decide) : t.mem = s.mem := h.same .mem hb
theorem Kept.e_opt {L : List Blk} {s t : State} (h : Kept L s t) (hb : Blk.opt ∉ L := by decide) : t.opt = s.opt := h.same .opt hb
theorem Kept.e_res {L : List Blk} {s t : State} (h : Kept L s t) (hb : Blk.res ∉ L := by decide) : t.res = s.res := h.same .res hb
theorem Kept.e_sec {L : List Blk} {s t : State} (h : Kept L s t) (hb : Blk.sec ∉ L := by decide) : t.sec = s.sec := h.same .sec hb
theorem Kept.e_tly {L : List Blk} {s t : State} (h : Kept L s t) (hb : Blk.tly ∉ L := by decide) : t.tly = s.tly := h.same .tly hb
theorem Kept.e_pwr {L : List Blk} {s t : State} (h : Kept L s t) (hb : Blk.pwr ∉ L := by decide) : t.pwr = s.pwr := h.same .pwr hb
theorem Kept.e_nv {L : List Blk} {s t : State} (h : Kept L s t) (hb : Blk.nv ∉ L := by decide) : t.nv = s.nv := h.same .nv hb
theorem Kept.e_ram {L : List Blk} {s t : State} (h : Kept L s t) (hb : Blk.ram ∉ L := by decide) : t.ram = s.ram := h.same .ram hb
theorem Kept.e_fresh {L : List Blk} {s t : State} (h : Kept L s t) (hb : Blk.fresh ∉ L := by decide) : t.fresh = s.fresh := h.same .fresh hb
theorem Kept.e_out {L : List Blk} {s t : State} (h : Kept L s t) (hb : Blk.out ∉ L := by decide) : t.out = s.out := h.same .out hb
theorem Kept.e_clk {L : List Blk} {s t : State} (h : Kept L s t) (hb : Blk.clk ∉ L := by decide) : t.clk = s.clk := h.same .clk hb

/-! ### Shared operations -/

@[simp] theorem fire_glb (n : Nat) (s : State) : (fire n s).glb = s.glb := fire_kept.same .glb (by decide)
@[simp] theorem fire_res (n : Nat) (s : State) : (fire n s).res = s.res := fire_kept.same .res (by decide)
@[simp] theorem fire_lnd (n : Nat) (s : State) : (fire n s).lnd = s.lnd := fire_kept.same .lnd (by decide)
@[simp] theorem setDev_state (d : DevState) (s : State) : (setDev d s).glb = { s.glb with state := d } := by
  unfold setDev
  split
  · next h => rw [← h]
  · simp
@[simp] theorem setDev_res (d : DevState) (s : State) : (setDev d s).res = s.res := setDev_kept.same .res (by decide)
/-- Self-cordon: all that it does to the device state and to the lease (R355). -/
theorem selfCordon_spec {c : Nat} {s : State} (hs : s.glb.state = .inService ∨ s.glb.state = .quiesced) :
    (selfCordon c s).glb = { s.glb with state := .cordoned, draining := false } ∧
    (selfCordon c s).res.lease = none ∧ (selfCordon c s).res.cause = BitVec.ofNat 4 c ∧ (selfCordon c s).res.done = true ∧
    (selfCordon c s).res.cordonT = BitVec.ofNat 64 s.now ∧ (selfCordon c s).res.leaseStatus = s.res.leaseStatus := by
  have hgu : (s.glb.state != .inService && s.glb.state != .quiesced) = false := by rcases hs with h | h <;> simp [h]
  unfold selfCordon
  rw [hgu]
  simp only [Bool.false_eq_true, if_false]
  have k : ∀ t : State, Kept [.plt, .hst, .lnk, .srd, .svc, .fwd, .swc, .tmb, .lnd, .mil, .mem, .opt, .res, .tly, .nv, .ram, .out] t
      (flyEndAll (fun _ => true) 6 (dropAll (abortAllFences (abortSelfTest (cordonReplat t))))) := fun t =>
    Kept.step flyEndAll_kept (by decide) (Kept.step dropAll_kept (by decide) (Kept.step abortAllFences_kept (by decide)
      (Kept.step abortSelfTest_kept (by decide) (Kept.mono cordonReplat_kept (by decide)))))
  have hg := (k (setDev .cordoned (cordonRecord c s))).same .glb (by decide)
  have hl := (k (setDev .cordoned (cordonRecord c s))).same .lease (by decide)
  generalize flyEndAll (fun _ => true) 6 (dropAll (abortAllFences (abortSelfTest (cordonReplat (setDev .cordoned (cordonRecord c s)))))) = u at *
  simp only [SameBlk, Prod.mk.injEq, setDev_res, setDev_state] at hl hg
  obtain ⟨a1, a2, a3, a4, a5, a6, a7, a8⟩ := hl
  simp only [fire_glb, fire_res, hg, a1, a3, a5, a8]
  simp [cordonRecord]
@[simp] theorem fire_sec (n : Nat) (s : State) : (fire n s).sec = s.sec := fire_kept.same .sec (by decide)
@[simp] theorem fire_nv (n : Nat) (s : State) : (fire n s).nv = s.nv := fire_kept.same .nv (by decide)
/-- An alarm: all that it does to SEC, to the keys, to the device state and to the lease (R413 to R415). -/
theorem alarm_spec (n : Nat) (s : State) :
    (alarm n s).sec = (let x := (extend 7 (toLE 1 n ++ toLE 1 (s.alarmLevel n)) s).sec
      { x with
        a0 := if s.alarmLevel n = 0 then satInc x.a0 else x.a0, a1 := if s.alarmLevel n = 0 then x.a1 else satInc x.a1,
        dbg := if s.alarmLevel n = 0 then x.dbg else 0, alarmSensor := setBit x.alarmSensor n true,
        alarmLast := BitVec.ofNat 2 (s.alarmLevel n) }) := by
  have ks : ∀ c (t : State), (selfCordon c t).sec = t.sec := fun c t => selfCordon_kept.same .sec (by decide)
  unfold alarm
  by_cases h0 : s.alarmLevel n = 0
  · simp [h0, extend]
  · by_cases h2 : s.alarmLevel n = 2
    · simp [h2, ks, eraseKeys, extend]
    · simp [h0, h2, ks, extend]
/-- A failed unlock leaves the challenge as it stands. -/
theorem dbgFail_chal (s : State) : (dbgFail s).sec.chal = s.sec.chal := by
  unfold dbgFail
  simp only
  split
  · rw [alarm_spec]; rfl
  · rfl
/-- The least of some half-words, by a fold. -/
theorem fold_min (f : Nat → Half) (l : List Nat) (m : Half) :
    let r := l.foldl (fun m n => if m.toNat < (f n).toNat then m else f n) m
    r.toNat ≤ m.toNat ∧ (∀ n ∈ l, r.toNat ≤ (f n).toNat) ∧ (r = m ∨ ∃ n ∈ l, r = f n) := by
  induction l generalizing m with
  | nil => simp
  | cons a r ih =>
    simp only [List.foldl_cons]
    have h := ih (if m.toNat < (f a).toNat then m else f a)
    obtain ⟨h1, h2, h3⟩ := h
    have hm : (if m.toNat < (f a).toNat then m else f a).toNat ≤ m.toNat ∧ (if m.toNat < (f a).toNat then m else f a).toNat ≤ (f a).toNat := by
      split <;> omega
    refine ⟨Nat.le_trans h1 hm.1, ?_, ?_⟩
    · intro n hn
      rcases List.mem_cons.1 hn with rfl | hn
      · exact Nat.le_trans h1 hm.2
      · exact h2 n hn
    · rcases h3 with h3 | ⟨n, hn, h3⟩
      · split at h3
        · next hc => left; rw [if_pos hc]; exact h3
        · next hc => right; exact ⟨a, by simp, by rw [if_neg hc]; exact h3⟩
      · right; exact ⟨n, by simp [hn], h3⟩
/-- A table after an entry was written for each key of a list. -/
theorem fold_tset {α : Type} [DecidableEq α] (d : α) (g : Nat → α) (l : List Nat) (t : Tab α) (hl : l.Nodup) (k : Nat) :
    tget d (l.foldl (fun t n => tset d t n (g n)) t) k = if k ∈ l then g k else tget d t k := by
  induction l generalizing t with
  | nil => simp
  | cons a r ih =>
    simp only [List.nodup_cons] at hl
    simp only [List.foldl_cons, ih _ hl.2, List.mem_cons, tget_tset]
    by_cases h1 : k ∈ r
    · have : k ≠ a := fun h => hl.1 (h ▸ h1)
      simp [h1]
    · by_cases h2 : k = a <;> simp [h1, h2]
/-- A table after each entry of a list of keys was changed. -/
theorem fold_tset_self {α : Type} [DecidableEq α] (d : α) (g : Nat → α → α) (l : List Nat) (t : Tab α) (hl : l.Nodup) (k : Nat) :
    tget d (l.foldl (fun t n => tset d t n (g n (tget d t n))) t) k = if k ∈ l then g k (tget d t k) else tget d t k := by
  induction l generalizing t with
  | nil => simp
  | cons a r ih =>
    simp only [List.nodup_cons] at hl
    simp only [List.foldl_cons, ih _ hl.2, List.mem_cons, tget_tset]
    by_cases h1 : k ∈ r
    · have : k ≠ a := fun h => hl.1 (h ▸ h1)
      simp [h1, this]
    · by_cases h2 : k = a
      · subst h2; simp [h1]
      · simp [h1, h2]
/-- Time that elapses adds to the clock. -/
@[simp] theorem elapse_clk (dt : Nat) (s : State) : (elapse dt s).clk = s.clk + dt := by
  have h : Kept [.tmb, .tly, .out] s (forEach (ppsOuts dt (topDown dt s)).heldPorts (fun p => modMap p (fun m => { m with heldNs := m.heldNs + dt })) (ppsOuts dt (topDown dt s))) :=
    ((Kept.mono topDown_kept (by decide)).trans (Kept.mono ppsOuts_kept (by decide))).trans (forEach_kept fun _ _ => Kept.mono modMap_kept (by decide))
  exact congrArg (· + dt) (h.same .clk (by decide))

end Sys2Proof.Machine
end

