-- ==== Sys2Proof/WellFormed.lean ====
section
/-! DEFINITION. Well-formed commands: the lengths and ranges that the spec gives what a command carries (R19, R73, R117, R125, R192, R372, R387, R393, R430, R433, R443). A command that is not well formed cannot reach the block by its interfaces; exec is total all the same. -/
namespace Sys2Proof

/-- The command carries what its interface can carry. -/
def Instr.wellFormed (i : Instr) : Bool :=
  match i with
  | .trainingComplete => true
  | .quiesce _ => true
  | .quiesceDrainDone => true
  | .resume _ => true
  | .clrmin _ => true
  | .tokrateUpdate _ rates => decide (rates.length = 16)
  | .powerGood => true
  | .keyLoad _ => true
  | .secverCommit _ => true
  | .dbgChallenge _ => true
  | .dbgUnlock _ => true
  | .dbgLock _ => true
  | .challengeExpire _ => true
  | .meshEvent => true
  | .supplyGlitch => true
  | .bootPlatLoad => true
  | .platLoad _ _ _ => true
  | .platAbort _ => true
  | .districtDrainDone _ => true
  | .replatApplyDone _ => true
  | .districtTrained _ => true
  | .resetIn _ => true
  | .sensorSample _ tj _ _ _ _ _ vcore => decide (tj.length = 64) && decide (vcore.length = 16)
  | .vinRise => true
  | .vinLow => true
  | .undervoltage => true
  | .overvoltage => true
  | .overcurrent => true
  | .vinReturn => true
  | .coolOkFall => true
  | .coolOkRise => true
  | .powerGovWithdraw _ => true
  | .powerGovReturn _ => true
  | .clrmax _ => true
  | .smbusBlockRead _ _ => true
  | .chalReq _ => true
  | .unlock _ _ => true
  | .regRead _ _ _ => true
  | .memRead _ _ _ _ => true
  | .memWrite _ _ _ _ => true
  | .halt _ _ => true
  | .fwChunk _ _ _ => true
  | .fwDone _ _ _ => true
  | .lock _ => true
  | .dbgEnChange _ => true
  | .packetIngress _ _ _ => true
  | .ingressHoldRelease _ _ => true
  | .policerRelease _ _ => true
  | .producerEnqueue _ => true
  | .replicationResume _ => true
  | .transmitOpportunity _ _ => true
  | .windfallSweep _ _ => true
  | .sprayCounterRelease _ _ => true
  | .bucketReturn _ _ _ => true
  | .reorderTimeout _ _ => true
  | .reorderRetire _ _ => true
  | .sampleSweep _ => true
  | .qmaxReset _ _ _ => true
  | .frameSlot _ _ => true
  | .linkFrameReceived _ _ _ _ => true
  | .replayTimeout _ _ => true
  | .ackProgressTimeout _ _ => true
  | .hello _ _ _ => true
  | .config _ _ => true
  | .creditInit _ _ => true
  | .trainingStateTimeout _ _ => true
  | .retrainInterval _ _ => true
  | .helloSend _ _ => true
  | .laneCtlOff _ _ => true
  | .offAck _ _ => true
  | .laneCtlOn _ _ => true
  | .onAck _ _ => true
  | .laneCtlRepeat _ _ => true
  | .laneCtlTimeout _ _ => true
  | .lnkDisable _ _ _ => true
  | .lnkRetrain _ _ => true
  | .skewWindowExpiry _ _ => true
  | .codewordReceived _ _ _ => true
  | .eqRequest _ _ => true
  | .eqTuneEnd _ _ _ => true
  | .idleEnter _ => true
  | .idleRetainExpire _ _ => true
  | .idleExit _ _ => true
  | .recal _ _ => true
  | .recalPassEnd _ _ => true
  | .eyeStart _ _ _ => true
  | .eyeAbort _ _ => true
  | .eyeScanDone _ _ _ => true
  | .serviceAlign _ _ => true
  | .serviceMessageDiscard _ _ => true
  | .timeMarker _ _ => true
  | .calRead _ => true
  | .calCapture _ adapted => adapted.all (fun e => decide (e.1 < 2048) && decide (e.2.length = 2))
  | .calWrite _ _ => true
  | .fwdRead _ _ _ => true
  | .fwdWrite _ _ _ => true
  | .exInsert _ _ _ => true
  | .exDelete _ _ _ => true
  | .exLookup _ _ _ => true
  | .liveInsert _ => true
  | .cordonSet _ => true
  | .cordonClr _ => true
  | .repair _ _ _ => true
  | .flip _ => true
  | .confirm _ => true
  | .batch _ => true
  | .segmentDigest => true
  | .learnRelay _ _ => true
  | .tod _ _ => true
  | .ppsEdge _ => true
  | .ref10Loss => true
  | .ppsMissing _ => true
  | .todOut _ => true
  | .sync _ _ => true
  | .syncSend _ => true
  | .delayReq _ _ => true
  | .delayReqSend _ _ => true
  | .delayResp _ _ => true
  | .elect _ _ => true
  | .electSend _ => true
  | .electionWin _ => true
  | .announce _ _ => true
  | .announceSend _ => true
  | .probe _ _ => true
  | .probeSend _ => true
  | .probeTimeout _ => true
  | .leave _ _ => true
  | .syncLossHoldover _ => true
  | .syncLossReelect _ => true
  | .holdoverLimit _ => true
  | .stepAdmitRestore _ => true
  | .tmbLoad _ => true
  | .arm _ _ => true
  | .activate _ _ => true
  | .disarm _ _ => true
  | .timetableActivation _ => true
  | .activationGraceEnd _ => true
  | .mapIntervalClose _ => true
  | .install _ => true
  | .uninstall _ _ => true
  | .withdraw _ _ => true
  | .lndQuery _ _ => true
  | .lndTrigger _ _ => true
  | .landingDelivery _ _ => true
  | .releaseInstant _ _ => true
  | .landingTimeout _ _ => true
  | .tombstoneExpire _ _ => true
  | .eaExpire _ => true
  | .fanoutCordonCheck _ _ => true
  | .contextRestoreDone _ => true
  | .fenceArm _ _ => true
  | .fenceDisarm _ => true
  | .fenceQuery _ => true
  | .setexp _ => true
  | .fenceTimeout _ => true
  | .cbRead _ _ => true
  | .cbWrite _ _ => true
  | .pgmLoad _ _ _ => true
  | .pgmUnload _ _ _ => true
  | .bind _ _ => true
  | .unbind _ _ => true
  | .rebind _ _ => true
  | .handoverComplete _ => true
  | .bindQuery _ _ => true
  | .restart _ _ => true
  | .tfWrite _ _ => true
  | .tfRead _ _ => true
  | .yardFlush _ _ _ => true
  | .millNop _ => true
  | .millYield _ => true
  | .millJmp _ => true
  | .millBrz _ => true
  | .millBrnz _ => true
  | .millMovi _ => true
  | .millAlu _ => true
  | .millAlui _ => true
  | .millLdx _ => true
  | .millStx _ => true
  | .millTld _ => true
  | .millTst _ => true
  | .millTzero _ => true
  | .millTmma _ => true
  | .millTadd _ => true
  | .millTmul _ => true
  | .millTscale _ => true
  | .millTlut _ => true
  | .millTcvt _ => true
  | .millTred _ => true
  | .millTq _ => true
  | .millTdq _ => true
  | .millSend _ => true
  | .millSendt _ => true
  | .millTrig _ => true
  | .millDone _ => true
  | .millBar _ => true
  | .millStep _ => true
  | .millYput _ => true
  | .millYget _ => true
  | .millYnext _ => true
  | .millYflush _ => true
  | .accessComplete _ => true
  | .yardWaitEnd _ => true
  | .sliceBoundary _ => true
  | .teardownStart _ _ => true
  | .teardownSweepEnd _ => true
  | .teardownRelease _ _ => true
  | .teardownQuery _ _ => true
  | .engHello _ _ => true
  | .engineStatus _ _ => true
  | .engineAck _ _ _ => true
  | .keepalive _ => true
  | .engineCmdRetry _ _ => true
  | .engineLost _ _ => true
  | .dropRingRetry _ _ => true
  | .mislock _ _ _ _ => true
  | .optCal _ _ => true
  | .optCalPassEnd _ _ => true
  | .flySet _ _ => true
  | .flyClear _ _ => true
  | .flyoverCut _ _ => true
  | .flyOffAckDeadline _ _ => true
  | .flyVerify _ _ _ _ => true
  | .flyOffInstant _ _ => true
  | .flySwitchTimeout _ _ => true
  | .leaseGrant _ => true
  | .leaseRenew _ => true
  | .leaseRelease _ => true
  | .leaseExpiry _ => true
  | .partQuery _ _ _ => true
  | .partDrain _ _ _ => true
  | .partReturn _ _ _ => true
  | .partZero _ _ _ => true
  | .partTest _ _ _ => true
  | .partTestEnd _ _ _ => true
  | .drainwaitRelease _ _ => true
  | .cruiseSave _ => true
  | .fullSelfTest _ => true
  | .selfTestEnd failedEngines failedBanks => failedEngines.all (fun e => decide (e < 1536)) && failedBanks.all (fun b => decide (b < 4096))
  | .thermalGovWithdraw _ _ => true
  | .thermalGovReturn _ _ => true
  | .jrnl _ _ => true
  | .jrnlAck _ _ => true
  | .pull _ => true
  | .spareAbort _ => true
  | .pullRequest _ _ => true
  | .hdr _ _ => true
  | .twinSnap _ _ => true
  | .twinEnd _ _ => true
  | .nack _ _ => true
  | .pullTimeout _ => true
  | .mirrorAckSend _ _ => true
  | .perst _ => true
  | .perstDeassert _ link mps mrrs => decide (1 ≤ link.speed.toNat) && decide (link.speed.toNat ≤ 6) && decide (link.width.toNat ≤ 3) && decide (mps.toNat ≤ 2) && decide (mrrs.toNat ≤ 5)
  | .flr _ => true
  | .bar0BadAccess _ _ => true
  | .bar2Access _ _ _ _ => true
  | .registerWrite _ off _ => decide (off.toNat % 4 = 0)
  | .lowWordRead _ rd => decide (rd.off.toNat % 4 = 0)
  | .claim _ => true
  | .hostRenew _ => true
  | .hostYield _ => true
  | .force _ _ => true
  | .hostLeaseLapse _ => true
  | .dmaProd _ _ _ => true
  | .dmaDescriptorDone _ _ desc _ _ _ => decide (desc.length = 32)
  | .dmaReset _ _ => true
  | .msixHoldoffEnd _ _ _ => true
  | .fwInfo _ => true
  | .flashRead _ => true
  | .platWrite _ _ => true
  | .setActive _ _ => true
  | .partialWrite _ _ => true
  | .fwWrite _ _ => true
  | .attest _ => true
  | .tlySel _ _ => true
  | .snapNow _ _ => true
  | .snapAt _ _ => true
  | .blockAt _ _ => true
  | .snapCancel _ _ => true
  | .blockSnap _ _ => true
  | .snapshotInstant _ => true
  | .snapshotCopyDone => true
  | .tagRecord _ words => decide (words.length = 8)

end Sys2Proof
end

