-- ==== Sys2Proof/Tests/Slice0.lean ====
section
/-! SUPPORT. Tests: ill-formed commands, values from the worked examples of the spec, and for every obligation with hypotheses a state and operands that meet each clause. Each theorem is checked where it stands (Elab.async off): their kernel evaluations would otherwise all wait at once for the files before. -/
set_option Elab.async false
open Sys2Proof Sys2Proof.Machine
namespace Sys2Proof.Tests
/-- IN_SERVICE under a lease, with HA the owner of the host lease and job 7 known. -/
def up : State := { State.reset with
  glb.state := .inService, hst.owner := some .ha, hst.ha.perst := false, res.lease := some (1000000000, 1000000000), res.cur := 1,
  pwr.supply := .on, pwr.pgood := true, pwr.coolOk := true }
/-- A record of `n` bytes, zero but where a value is laid. -/
def record (n : Nat) (l : List (Nat × List Byte)) : List Byte := l.foldl (fun b e => overlay b e.1 e.2) (zeros n)
/-- An x1 port that is UP with one lane of each direction. -/
def upLink : Link := { Link.reset with st := .up, ver := 3, txact := 1, rxact := 1, caps := 63 }
/-- Ports 0, 4 and 8, x1 and UP. -/
def sw : State := { up with plt.plat.ports := [(0, 0x10000000), (4, 0x10000000), (8, 0x10000000)], lnk := [(0, upLink), (4, upLink), (8, upLink)] }
/-- A job packet of class 2 from port 0. -/
def pk : Pkt := { h := mkHdr 0 2 false 8 9 5 7 0 0 0 0 1 0 0 0, payload := [1, 2, 3, 4, 5, 6, 7, 8], tin := 0, inPort := 0, c2 := false, counted := false }
/-- The characters of a message, from negative disparity. -/
def dsay (ty seq : Byte) (b : List Byte) : List Code := (encodeAll false (framed ty seq b)).1
/-- A service lane that is aligned. -/
def heard0 : Svc := { Svc.reset with st := .aligned }
/-- A member of Block 9 with both ring lanes aligned. -/
def inRing (s : State) : State :=
  { s with plt.plat.time := { s.plt.plat.time with source := 0, role := 2, priority := 4, blockId := 9, east := 3, west := 4, rttMax := 5 }, nv.devid := 77, svc := [(3, heard0), (4, heard0)] }
/-- The symbols of a codeword behind scrambled bits of zeros. -/
def cw (l : List Block) : Symbols := (encodeCw 0 l).1
/-- The thread's instruction, read off a concrete state. -/
theorem issues_of {t : Th} {op : Nat} {i : Ins} {s : State} (h1 : s.canIssue t = true)
    (h2 : (s.bindOf (thBid t)).any (fun b => b.oldPlace.isNone && !b.closing) = true) (h3 : (s.thread t).pc < imgCode (s.imageOf t))
    (h4 : fld (u64At (s.imageOf t) (64 + 8 * (s.thread t).pc)) 56 8 = op)
    (h5 : insOf (u64At (s.imageOf t) (64 + 8 * (s.thread t).pc)) = i) : Issues t op i s := by
  refine ⟨h1, ?_, h3, h4, h5⟩
  obtain ⟨b, hb, hc⟩ := Option.any_eq_true .. |>.mp h2
  simp at hc
  exact ⟨b, hb, hc.1, hc.2⟩
/-- A lane at negative disparity hears what is said to it. -/
theorem hears_said {s : State} {n : Nat} {t q : Byte} {b : List Byte} (hr : (s.svcLane n).rd = false) (ha : (s.svcLane n).st = .aligned)
    (hl : b.length ≤ 2048) (ht : typeOnLane n t = true) : Hears s n (dsay t q b) t q b := by
  have h := hears_framed s n t q b ha hl ht
  rw [hr] at h
  exact h
/-- So do the debug lands. -/
theorem hearsDebug_said {s : State} {t q : Byte} {b : List Byte} (hr : s.pwr.dbgRd = false) (ha : s.dbgOn = true)
    (hl : b.length ≤ 2048) (ht : typeOnLane 80 t = true) : HearsDebug s (dsay t q b) t q b := by
  have h := hearsDebug_framed s t q b ha hl ht
  rw [hr] at h
  exact h
theorem ok_of {ε α : Type} {e : Except ε α} {x : α} (h : e.toOption = some x) : e = .ok x := by
  cases e <;> simp_all [Except.toOption]

end Sys2Proof.Tests
namespace Sys2Proof.Tests
/-! ### Commands that are not well formed -/

theorem test_wf_tokrate : (Instr.tokrateUpdate 0 [1, 2]).wellFormed = false := by decide
theorem test_wf_sensor_tj : (Instr.sensorSample 0 [] 0 0 0 0 0 (List.replicate 16 0)).wellFormed = false := by decide
theorem test_wf_sensor_vcore : (Instr.sensorSample 0 (List.replicate 64 0) 0 0 0 0 0 []).wellFormed = false := by decide +kernel
theorem test_wf_capture_lane : (Instr.calCapture .ha [(2048, [1, 2])]).wellFormed = false := by decide
theorem test_wf_capture_bytes : (Instr.calCapture .ha [(2047, [1])]).wellFormed = false := by decide
theorem test_wf_engine : (Instr.selfTestEnd [1536] []).wellFormed = false := by decide
theorem test_wf_bank : (Instr.selfTestEnd [] [4096]).wellFormed = false := by decide
theorem test_wf_speed : (Instr.perstDeassert .ha ⟨7, 3, false⟩ 0 0).wellFormed = false := by decide
theorem test_wf_no_speed : (Instr.perstDeassert .ha ⟨0, 3, false⟩ 0 0).wellFormed = false := by decide
theorem test_wf_mps : (Instr.perstDeassert .ha ⟨5, 3, false⟩ 3 0).wellFormed = false := by decide
theorem test_wf_mrrs : (Instr.perstDeassert .ha ⟨5, 3, false⟩ 0 6).wellFormed = false := by decide
theorem test_wf_write : (Instr.registerWrite .ha 2 0).wellFormed = false := by decide
theorem test_wf_read : (Instr.lowWordRead .ha (.word 1)).wellFormed = false := by decide
theorem test_wf_descriptor : (Instr.dmaDescriptorDone .ha 0 [] [] 0 false).wellFormed = false := by decide
theorem test_wf_tag : (Instr.tagRecord 0 [1, 2, 3]).wellFormed = false := by decide
theorem test_wf_good : (Instr.perstDeassert .ha ⟨6, 3, false⟩ 2 5).wellFormed = true := by decide

/-! ### Values from the worked examples of the spec -/

/-- The header of the expert-combine contribution (03_cezal_links). -/
def hdrEx : Hdr := (mkHdr 2 6 true 0x1000 8 9 0x41A2C 0 0x12345 0x28 2 0 339 0 0x3E80).setHops 1
theorem test_header_words : (hdrEx.w0, hdrEx.w3, hdrEx.w4, hdrEx.w6, hdrEx.weight) = (0x32D11000, 0x41A2C000, 0x48D16802, 0x01530000, 0x3E80) := by decide +kernel
/-- Event numbers of port P768 and core 82 (17_tally). -/
theorem test_event_numbers : (evNo 4 3 768, evNo 28 0 82, evNo 28 3 82) = (0x10030300, 0x70000052, 0x70030052) := by decide
/-- Tarn's tables (05_forwarding). -/
def tarn : State := { up with fwd.bankA := { Bank.reset with
  trie1 := [(164, ⟨0x40000007, 0x80000064⟩)], trie2 := [(496, ⟨0x4000001F, 0x800007D1⟩)], trie3 := [(2043, ⟨0x4000005A, 0⟩)],
  trie4 := [(1442, ⟨0x800007D2, 0⟩)], route := [(2002, ⟨0x80000508, 0⟩)] } }
theorem test_trie_leaf : (trieWalk tarn false 0x0A4C3B27).best = some 2002 ∧
    (trieWalk tarn false 0x0A4C3B27).reads = [(0, 164), (1, 496), (2, 2043), (3, 1442)] := by decide +kernel
theorem test_trie_empty : (trieWalk tarn false 0x0A4C3B47).best = some 2001 := by decide +kernel
theorem test_trie_fallback : (trieWalk tarn false 0x0A410000).best = some 100 := by decide +kernel
theorem test_route : routeHop tarn false 2002 = some (.port 1288) := by decide +kernel
/-- The MXFP8 block of 0.9, 0.1 and -0.003 (10_mill_arithmetic). -/
def mxEx : List FV := [0x3F666666, 0x3DCCCCCD, 0xBB449BA6].map (ffDecode fmtFP32) ++ List.replicate 29 FV.zero
theorem test_mxfp8_scale : (quantBlock 6 (fun _ => .rne) mxEx).1 = 0x76 := by decide +kernel
theorem test_mxfp8_elements : (quantBlock 6 (fun _ => .rne) mxEx).2.1.take 3 = [0x7E, 0x65, 0xBC] := by decide +kernel
/-- Stochastic rounding of 1 + 2^-9 to BF16: up exactly from r >> 8 = 12,582,912 on (10_mill_arithmetic). -/
theorem test_stochastic_down : (ffEncode fmtBF16 (.sr (12582911 * 256)) (ffDecode fmtFP32 0x3F804000)).1 = 0x3F80 := by decide +kernel
theorem test_stochastic_up : (ffEncode fmtBF16 (.sr (12582912 * 256)) (ffDecode fmtFP32 0x3F804000)).1 = 0x3F81 := by decide +kernel
/-- The header's first bytes on the wire (03_cezal_links). -/
theorem test_wire_bytes : (bytesOfWords [hdrEx.w0]) = [0x00, 0x10, 0xD1, 0x32] := by decide +kernel
end Sys2Proof.Tests
namespace Sys2Proof.Tests.W01
/-- The hypotheses of DeviceStatesComplete, clause by clause. -/
theorem test_met_DeviceStatesComplete :
    (∃ (p : HPort) (s : State), (s.host p).perst = false ∧ s.hst.owner = some p ∧ s.glb.state = .inService ∧ s.glb.draining = false) ∧
    (∃ (s : State), s.glb.state = .inService ∧ s.glb.draining = true ∧ s.jobQueuesEmpty = true) ∧
    (∃ (p : HPort) (s : State), (s.host p).perst = false ∧ s.hst.owner = some p ∧ s.glb.state = .quiesced ∧ s.leaseOver = false) ∧
    (∃ (p : HPort) (s : State), (s.host p).perst = false ∧ s.hst.owner = some p) ∧
    (∃ (s : State), s.glb.state = .training ∧ s.ports.all s.portTrained = true ∧ ((s.inBlock = false ∨ s.tmb.blk = .joined ∨ s.tmb.blk = .broken))) :=
  ⟨⟨.ha, up, by decide +kernel, by decide +kernel, by decide +kernel, by decide +kernel⟩,
    ⟨{ up with glb.draining := true }, by decide +kernel, by decide +kernel, by decide +kernel⟩,
    ⟨.ha, { up with glb.state := .quiesced }, by decide +kernel, by decide +kernel, by decide +kernel, by decide +kernel⟩,
    ⟨.ha, { up with glb.tokMin := 5, glb.tokNow := 9, glb.dtokMin := [(3, 7)] }, by decide +kernel, by decide +kernel⟩,
    ⟨{ up with glb.state := .training }, by decide +kernel, by decide +kernel, by decide +kernel⟩⟩
/-- The hypotheses of LeaseCommandsComplete, clause by clause. -/
theorem test_met_LeaseCommandsComplete :
    (∃ (p : HPort) (s : State), Owner p s ∧ s.res.leaseBusy = false ∧ s.glb.state = .ready ∧ s.res.cur.toNat < s.res.epoch.toNat ∧ s.now < s.res.dl.toNat ∧ s.res.dl.toNat ≤ s.now + 120000000) ∧
    (∃ (p : HPort) (s : State), Owner p s ∧ s.res.leaseBusy = false ∧ s.glb.state = .cordoned ∧ s.res.done = true ∧ s.res.cur.toNat < s.res.epoch.toNat ∧ s.now < s.res.dl.toNat ∧ s.res.dl.toNat ≤ s.now + 120000000) ∧
    (∃ (p : HPort) (s : State), Owner p s ∧ s.res.leaseBusy = false ∧ ((s.glb.state = .inService ∨ s.glb.state = .quiesced)) ∧ s.leaseOver = false ∧ s.res.epoch = s.res.cur ∧ s.now < s.res.dl.toNat ∧ s.res.dl.toNat ≤ s.now + 120000000) ∧
    (∃ (p : HPort) (s : State), Owner p s ∧ s.res.leaseBusy = false ∧ ((s.glb.state = .inService ∨ s.glb.state = .quiesced)) ∧ s.leaseOver = false ∧ s.res.epoch = s.res.cur) ∧
    (∃ (dt : Nat) (s : State), ((s.glb.state = .inService ∨ s.glb.state = .quiesced)) ∧ (elapse dt s).leaseOver = true) ∧
    (∃ (dt : Nat) (s : State), (elapse dt s).leaseOver = false) ∧
    (∃ (s : State) (dl : Nat) (timer : Nat), s.res.lease = some (dl, timer)) :=
  ⟨⟨.ha, { up with glb.state := .ready, res.lease := none, res.epoch := 2, res.dl := 120000000 }, ⟨by decide +kernel, by decide +kernel, by decide +kernel⟩, by decide +kernel, by decide +kernel, by decide +kernel, by decide +kernel, by decide +kernel⟩,
    ⟨.ha, { up with glb.state := .cordoned, res.done := true, res.lease := none, res.epoch := 2, res.dl := 120000000 }, ⟨by decide +kernel, by decide +kernel, by decide +kernel⟩, by decide +kernel, by decide +kernel, by decide +kernel, by decide +kernel, by decide +kernel, by decide +kernel⟩,
    ⟨.ha, { up with res.epoch := 1, res.dl := 1 }, ⟨by decide +kernel, by decide +kernel, by decide +kernel⟩, by decide +kernel, by decide +kernel, by decide +kernel, by decide +kernel, by decide +kernel, by decide +kernel⟩,
    ⟨.ha, { up with res.epoch := 1, clk := 7 }, ⟨by decide +kernel, by decide +kernel, by decide +kernel⟩, by decide +kernel, by decide +kernel, by decide +kernel, by decide +kernel⟩,
    ⟨1000000000, { up with clk := 3 }, by decide +kernel, by decide +kernel⟩,
    ⟨5, up, by decide +kernel⟩,
    ⟨up, 1000000000, 1000000000, by decide +kernel⟩⟩
end Sys2Proof.Tests.W01
namespace Sys2Proof.Tests.W02
/-- The hypotheses of SecurityCommandsComplete, clause by clause. -/
theorem test_met_SecurityCommandsComplete :
    (∃ (p : HPort) (s : State) (b : _) (slot : _), Owner p s ∧ s.sec.busy = false ∧ ((s.glb.state = .unplatted ∨ s.glb.state = .ready ∨ s.glb.state = .quiesced ∨ s.glb.state = .cordoned)) ∧ s.ikUsable = true ∧ b = rdMem s s.sec.addr.toNat 704 ∧ slot = (u8At b 4 == 1) ∧ keyRecordBad b = false ∧ u64At b 16 = s.nv.devid.toNat) ∧
    (∃ (p : HPort) (s : State), Owner p s ∧ s.sec.busy = false ∧ s.hst.mbBusy = false ∧ s.nv.fusever.toNat < s.sec.secver.toNat) ∧
    (∃ (p : HPort) (s : State), Owner p s ∧ s.sec.busy = false) ∧
    (∃ (p : HPort) (s : State) (b : _) (ch : _) (t0 : _), Owner p s ∧ s.sec.busy = false ∧ s.sec.chal = some (ch, t0) ∧ s.clk - t0 < 60000000000 ∧ b = rdMem s s.sec.addr.toNat 560 ∧ unlockBad b = false ∧ ((u8At b 0 = 2 → s.glb.state = .unplatted))) ∧
    (∃ (p : HPort) (s : State), Owner p s ∧ s.sec.busy = false) ∧
    (∃ (dt : Nat) (s : State) (c : _) (t0 : _), s.sec.chal = some (c, t0) ∧ 60000000000 ≤ s.clk + dt - t0) :=
  ⟨⟨.ha, { up with glb.state := .ready, ram := [(0, 0x59), (1, 0x45), (2, 0x4B), (3, 0x50), (4, 1)] }, rdMem { up with glb.state := .ready, ram := [(0, 0x59), (1, 0x45), (2, 0x4B), (3, 0x50), (4, 1)] } 0 704, true, ⟨by decide +kernel, by decide +kernel, by decide +kernel⟩, by decide +kernel, by decide +kernel, by decide +kernel, by rfl, by decide +kernel, by decide +kernel, by decide +kernel⟩,
    ⟨.ha, { up with nv.fusever := 4, sec.secver := 5 }, ⟨by decide +kernel, by decide +kernel, by decide +kernel⟩, by decide +kernel, by decide +kernel, by decide +kernel⟩,
    ⟨.ha, up, ⟨by decide +kernel, by decide +kernel, by decide +kernel⟩, by decide +kernel⟩,
    ⟨.ha, { up with sec.chal := some (0, 0), ram := [(0, 1)] }, rdMem { up with sec.chal := some (0, 0), ram := [(0, 1)] } 0 560, 0, 0, ⟨by decide +kernel, by decide +kernel, by decide +kernel⟩, by decide +kernel, by decide +kernel, by decide +kernel, by rfl, by decide +kernel, by decide +kernel⟩,
    ⟨.ha, { up with sec.dbg := 2 }, ⟨by decide +kernel, by decide +kernel, by decide +kernel⟩, by decide +kernel⟩,
    ⟨60000000000, { up with sec.chal := some (0, 0) }, 0, 0, by decide +kernel, by decide +kernel⟩⟩
/-- The hypotheses of AlarmEventsComplete, clause by clause. -/
theorem test_met_AlarmEventsComplete :
    (∃ (sensor : Nat), ((sensor = 0 ∨ sensor = 1))) ∧
    (∃ (sensor : Nat), ((sensor = 0 ∨ sensor = 1))) :=
  ⟨⟨0, by decide +kernel⟩,
    ⟨1, by decide +kernel⟩⟩
end Sys2Proof.Tests.W02
namespace Sys2Proof.Tests.W03
/-- The hypotheses of PlatLoadsComplete, clause by clause. -/
theorem test_met_PlatLoadsComplete :
    (∃ (s : State), s.glb.state = .unplatted ∧ s.sec.keylock = false ∧ s.plt.active = none) ∧
    (∃ (p : HPort) (src : BitVec 2) (d : BitVec 4) (s : State) (staged : _), Owner p s ∧ s.plt.busy = false ∧ staged = (notePltCtrl src d s).loadSource src.toNat d.toNat ∧ loadKind src.toNat staged = false ∧ s.glb.state = .unplatted ∧ s.sec.keylock = false) ∧
    (∃ (p : HPort) (src : BitVec 2) (d : BitVec 4) (s : State) (staged : _), Owner p s ∧ s.plt.busy = false ∧ staged = (notePltCtrl src d s).loadSource src.toNat d.toNat ∧ loadKind src.toNat staged = true ∧ ((s.glb.state = .inService ∨ s.glb.state = .quiesced))) ∧
    (∃ (p : HPort) (s : State) (d : _) (b : List Byte), Owner p s ∧ s.plt.op = some (d, b) ∧ s.dist d = .draining) :=
  ⟨⟨{ up with glb.state := .unplatted, res.lease := none }, by decide +kernel, by decide +kernel, by decide +kernel⟩,
    ⟨.ha, 0, 0, { up with glb.state := .unplatted, plt.stageLen := 40 }, (notePltCtrl 0 0 { up with glb.state := .unplatted, plt.stageLen := 40 }).loadSource 0 0, ⟨by decide +kernel, by decide +kernel, by decide +kernel⟩, by decide +kernel, by decide +kernel, by decide +kernel, by decide +kernel, by decide +kernel⟩,
    ⟨.ha, 3, 2, up, (notePltCtrl 3 2 up).loadSource 3 2, ⟨by decide +kernel, by decide +kernel, by decide +kernel⟩, by decide +kernel, by decide +kernel, by decide +kernel, by decide +kernel⟩,
    ⟨.ha, { up with plt.op := some (3, []), plt.dist := [(3, .draining)], plt.busy := true }, 3, [], ⟨by decide +kernel, by decide +kernel, by decide +kernel⟩, by decide +kernel, by decide +kernel⟩⟩
/-- The hypotheses of ReplatStagesComplete, clause by clause. -/
theorem test_met_ReplatStagesComplete :
    (∃ (d : Fin 16) (s : State) (b : List Byte), s.plt.op = some (d.val, b) ∧ s.dist d = .draining ∧ s.districtEmpty d = true) ∧
    (∃ (d : Fin 16) (s : State) (b : List Byte), s.plt.op = some (d.val, b) ∧ s.dist d = .replat) ∧
    (∃ (d : Fin 16) (s : State) (b : List Byte), s.plt.op = some (d.val, b) ∧ s.dist d = .test ∧ (s.distPorts d).all s.portTrained = true) :=
  ⟨⟨3, { up with plt.op := some (3, []), plt.dist := [(3, .draining)], plt.busy := true }, [], by decide +kernel, by decide +kernel, by decide +kernel⟩,
    ⟨3, { up with plt.op := some (3, zeros 200), plt.dist := [(3, .replat)], plt.busy := true }, zeros 200, by decide +kernel, by decide +kernel⟩,
    ⟨3, { up with plt.op := some (3, zeros 200), plt.dist := [(3, .test)], plt.busy := true }, zeros 200, by decide +kernel, by decide +kernel, by decide +kernel⟩⟩
end Sys2Proof.Tests.W03
namespace Sys2Proof.Tests.W04
/-- The hypotheses of ModuleResetsComplete, clause by clause. -/
theorem test_met_ModuleResetsComplete :
    (∃ (s : State), s.pwr.supply = .on) ∧
    (∃ (s : State), s.pwr.supply = .off ∧ s.pwr.trip = .none ∧ s.glb.state = .reset ∧ s.pwr.pgood = false ∧ s.pwr.coolOk = true) ∧
    (∃ (s : State), s.pwr.supply = .overvolt ∧ s.pwr.trip = .none ∧ s.glb.state = .reset ∧ s.pwr.pgood = false ∧ s.pwr.coolOk = true) ∧
    (∃ (s : State), s.pwr.supply = .on ∧ s.pwr.vinlow = false) ∧
    (∃ (ns : Nat) (s : State), 10000 ≤ ns ∧ s.pwr.supply = .on ∧ s.pwr.trip = .none ∧ s.pwr.vinLost = false ∧ s.pwr.coolOk = true) ∧
    (∃ (s : State), s.glb.state ≠ .reset) ∧
    (∃ (s : State), s.glb.state = .reset ∧ s.pwr.pgood = false ∧ s.pwr.supply = .on ∧ s.pwr.trip = .none) ∧
    (∃ (p : HPort) (s : State), Owner p s) :=
  ⟨⟨{ up with pwr.vinLost := false, ram := [(5, 1)] }, by decide +kernel⟩,
    ⟨{ State.reset with pwr.coolOk := true }, by decide +kernel, by decide +kernel, by decide +kernel, by decide +kernel, by decide +kernel⟩,
    ⟨{ State.reset with pwr.coolOk := true, pwr.supply := .overvolt, pwr.faultLand := true }, by decide +kernel, by decide +kernel, by decide +kernel, by decide +kernel, by decide +kernel⟩,
    ⟨up, by decide +kernel, by decide +kernel⟩,
    ⟨10000, { up with pwr.vinLost := false, ram := [(5, 1)] }, by decide +kernel, by decide +kernel, by decide +kernel, by decide +kernel, by decide +kernel⟩,
    ⟨up, by decide +kernel⟩,
    ⟨{ State.reset with pwr.supply := .on }, by decide +kernel, by decide +kernel, by decide +kernel, by decide +kernel⟩,
    ⟨.ha, { up with pwr.pinMax := 3 }, ⟨by decide +kernel, by decide +kernel, by decide +kernel⟩⟩⟩
/-- The hypotheses of PowerGoodCompletes, clause by clause. -/
theorem test_met_PowerGoodCompletes :
    (∃ (s : State), s.glb.state = .reset ∧ s.pwr.pgood = true ∧ s.nv.erasing = false ∧ s.nv.tempLatch = false) :=
  ⟨{ State.reset with pwr.supply := .on, pwr.pgood := true }, by decide +kernel, by decide +kernel, by decide +kernel, by decide +kernel⟩
/-- The hypotheses of ModuleSensorsComplete, clause by clause. -/
theorem test_met_ModuleSensorsComplete :
    (∃ (tj : List Half) (vin : Half) (s : State), 30000 ≤ vin.toNat ∧ s.pwr.trip = .none ∧ ((∀ n, n < 64 → celsius16 (tj.getD n 0 + (tget Sens.reset s.pwr.sens n).trimBy) < 1840))) ∧
    (∃ (tj : List Half) (vin : Half) (s : State) (n : _), 30000 ≤ vin.toNat ∧ s.pwr.trip = .none ∧ s.pwr.pgood = true ∧ n < 64 ∧ 1840 ≤ celsius16 (tj.getD n 0 + (tget Sens.reset s.pwr.sens n).trimBy)) ∧
    (∃ (dt : Nat) (s : State), 3600 < s.pwr.pinNow.toNat ∧ 1000000 ≤ s.clk + dt - s.pwr.govLast ∧ s.pwr.plevel.toNat < 12) ∧
    (∃ (dt : Nat) (s : State), s.pwr.pinNow.toNat ≤ 3400 ∧ 100000000 ≤ s.clk + dt - s.pwr.govLast ∧ s.pwr.plevel ≠ 0) :=
  ⟨⟨[], 48000, { up with pwr.pinMax := 3 }, by decide +kernel, by decide +kernel, by decide +kernel⟩,
    ⟨[0, 1840], 48000, { up with pwr.pinMax := 3, pwr.sens := [(1, { Sens.reset with trimBy := 3000 })] }, 1, by decide +kernel, by decide +kernel, by decide +kernel, by decide +kernel, by decide +kernel⟩,
    ⟨1000000, { up with pwr.pinNow := 3601 }, by decide +kernel, by decide +kernel, by decide +kernel⟩,
    ⟨100000000, { up with pwr.pinNow := 3400, pwr.plevel := 1, pwr.pgov := true }, by decide +kernel, by decide +kernel, by decide +kernel⟩⟩
end Sys2Proof.Tests.W04
namespace Sys2Proof.Tests.W05
/-- Debug level 2 at the debug lands. -/
def dbg2 : State := { up with pwr.dbgEn := true, sec.dbg := 2 }
/-- The hypotheses of DebugLandsComplete, clause by clause. -/
theorem test_met_DebugLandsComplete :
    (∃ (codes : List Code) (seq : _) (s : State), HearsDebug s codes 0xC0 seq []) ∧
    (∃ (x : List Code) (y : List Code) (seq : _) (resp : _) (ch : _) (t0 : _) (s : State) (u : State), HearsDebug s (x ++ y) 0xC2 seq resp ∧ s.sec.chal = some (ch, t0) ∧ s.clk - t0 < 60000000000 ∧ unlockBad resp = false ∧ ((u8At resp 0 = 2 → s.glb.state = .unplatted)) ∧ u = dropChal { s with pwr.dbgRd := (decodeAll s.pwr.dbgRd (x ++ y)).2 }) ∧
    (∃ (codes : List Code) (seq : _) (s : State), HearsDebug s codes 0xCB seq []) ∧
    (∃ (x : List Code) (y : List Code) (seq : _) (action : Byte) (s : State), HearsDebug s (x ++ y) 0xC8 seq [action] ∧ s.sec.dbg.toNat = 2 ∧ action.toNat ≤ 1) ∧
    (∃ (x : List Code) (y : List Code) (z : List Code) (seq : _) (b : _) (s : State), HearsDebug s (x ++ y ++ z) 0xC4 seq b ∧ b.length = 8 ∧ allZero (slice b 6 2) = true ∧ 1 ≤ s.sec.dbg.toNat ∧ u16At b 4 ≠ 0 ∧ u16At b 4 ≤ 256 ∧ u32At b 0 % 4 = 0) ∧
    (∃ (x : List Code) (y : List Code) (z : List Code) (w : List Code) (seq : _) (b : _) (s : State), HearsDebug s (x ++ y ++ z ++ w) 0xC6 seq b ∧ memLaid b = true ∧ b.length = 20 ∧ s.sec.dbg.toNat = 2 ∧ u8At b 0 ≤ 2 ∧ u32At b 16 ≠ 0 ∧ u32At b 16 ≤ 2032) ∧
    (∃ (x : List Code) (y : List Code) (z : List Code) (w : List Code) (seq : _) (b : _) (s : State) (data : _), HearsDebug s (x ++ y ++ z ++ w) 0xC7 seq b ∧ memLaid b = true ∧ data = b.drop 20 ∧ data.length = u32At b 16 ∧ s.sec.dbg.toNat = 2 ∧ data ≠ [] ∧ data.length ≤ 2032 ∧ u8At b 0 ≤ 2 ∧ ((u8At b 0 = 2 → u64At b 8 % 4 = 0 ∧ data.length % 4 = 0))) ∧
    (∃ (x : List Code) (y : List Code) (z : List Code) (w : List Code) (seq : _) (b : _) (s : State) (data : _), HearsDebug s (x ++ y ++ z ++ w) 0xC7 seq b ∧ memLaid b = true ∧ data = b.drop 20 ∧ data.length = u32At b 16 ∧ s.sec.dbg.toNat = 2 ∧ data ≠ [] ∧ data.length ≤ 2032 ∧ u8At b 0 ≤ 2 ∧ ((u8At b 0 = 2 → u64At b 8 % 4 = 0 ∧ data.length % 4 = 0))) ∧
    (∃ (x : List Code) (y : List Code) (z : List Code) (w : List Code) (seq : _) (b : _) (s : State) (data : _), HearsDebug s (x ++ y ++ z ++ w) 0xC7 seq b ∧ memLaid b = true ∧ data = b.drop 20 ∧ data.length = u32At b 16 ∧ s.sec.dbg.toNat = 2 ∧ data ≠ [] ∧ data.length ≤ 2032 ∧ u8At b 0 ≤ 2 ∧ ((u8At b 0 = 2 → u64At b 8 % 4 = 0 ∧ data.length % 4 = 0))) ∧
    (∃ (x : List Code) (y : List Code) (z : List Code) (seq : _) (b : _) (s : State) (data : _), HearsDebug s (x ++ y ++ z) 0xC9 seq b ∧ 4 ≤ b.length ∧ data = b.drop 4 ∧ s.glb.state = .boot ∧ u32At b 0 + data.length ≤ 33554432) ∧
    (∃ (x : List Code) (y : List Code) (seq : _) (b : _) (s : State) (f : _), HearsDebug s (x ++ y) 0xCA seq b ∧ b.length = 4 ∧ s.glb.state = .boot ∧ f = tgetL 0 s.pwr.recImage 0 (min (u32At b 0) 33554433)) ∧
    (∃ (s : State), ((s.pwr.supply = .on ∨ s.pwr.vinLost = false))) ∧
    (∃ (x : List Code) (y : List Code) (z : List Code) (seq : _) (b : _) (s : State), HearsDebug s (x ++ y ++ z) 0xC4 seq b ∧ b.length = 8 ∧ allZero (slice b 6 2) = true ∧ s.sec.dbg = 0) ∧
    (∃ (x : List Code) (y : List Code) (z : List Code) (w : List Code) (seq : _) (b : _) (s : State), HearsDebug s (x ++ y ++ z ++ w) 0xC6 seq b ∧ memLaid b = true ∧ b.length = 20 ∧ s.sec.dbg.toNat < 2) ∧
    (∃ (x : List Code) (y : List Code) (z : List Code) (w : List Code) (seq : _) (b : _) (s : State), HearsDebug s (x ++ y ++ z ++ w) 0xC7 seq b ∧ memLaid b = true ∧ b.length = 20 + u32At b 16 ∧ s.sec.dbg.toNat < 2) ∧
    (∃ (x : List Code) (y : List Code) (seq : _) (b : _) (s : State), HearsDebug s (x ++ y) 0xC8 seq b ∧ b.length = 1 ∧ s.sec.dbg.toNat < 2) ∧
    (∃ (x : List Code) (y : List Code) (z : List Code) (seq : _) (b : _) (s : State), HearsDebug s (x ++ y ++ z) 0xC9 seq b ∧ 4 ≤ b.length ∧ s.glb.state ≠ .boot) ∧
    (∃ (x : List Code) (y : List Code) (seq : _) (b : _) (s : State), HearsDebug s (x ++ y) 0xCA seq b ∧ b.length = 4 ∧ s.glb.state ≠ .boot) ∧
    (∃ (codes : List Code) (seq : _) (b : _) (s : State), HearsDebug s codes 0xC0 seq b ∧ b ≠ []) ∧
    (∃ (x : List Code) (y : List Code) (z : List Code) (seq : _) (b : _) (s : State), HearsDebug s (x ++ y ++ z) 0xC4 seq b ∧ b.length ≠ 8) ∧
    (∃ (codes : List Code) (x : List Code) (y : List Code) (z : List Code) (ok : Bool) (i : Instr) (s : State), s.dbgOn = false ∧ ((i = .chalReq codes ∨ i = .lock codes ∨ i = .unlock codes x ∨ i = .regRead codes x y ∨ i = .memRead codes x y z ∨ i = .memWrite codes x y z ∨ i = .halt codes x ∨ i = .fwChunk codes x y ∨ i = .fwDone codes x ok))) :=
  ⟨⟨dsay 0xC0 3 [], 3, dbg2, hearsDebug_said (by decide +kernel) (by decide +kernel) (by decide +kernel) (by decide +kernel)⟩,
    ⟨[], dsay 0xC2 3 (record 560 [(0, [1])]), 3, record 560 [(0, [1])], 0, 0, { dbg2 with sec.chal := some (0, 0) }, dropChal { ({ dbg2 with sec.chal := some (0, 0) } : State) with pwr.dbgRd := (decodeAll false ([] ++ dsay 0xC2 3 (record 560 [(0, [1])]))).2 }, by rw [List.nil_append]; exact hearsDebug_said (by decide +kernel) (by decide +kernel) (by decide +kernel) (by decide +kernel), by decide +kernel, by decide +kernel, by decide +kernel, by decide +kernel, by rfl⟩,
    ⟨dsay 0xCB 3 [], 3, dbg2, hearsDebug_said (by decide +kernel) (by decide +kernel) (by decide +kernel) (by decide +kernel)⟩,
    ⟨[], dsay 0xC8 3 [0], 3, 0, dbg2, by rw [List.nil_append]; exact hearsDebug_said (by decide +kernel) (by decide +kernel) (by decide +kernel) (by decide +kernel), by decide +kernel, by decide +kernel⟩,
    ⟨[], [], dsay 0xC4 3 [8, 0, 0, 0, 2, 0, 0, 0], 3, [8, 0, 0, 0, 2, 0, 0, 0], dbg2, by rw [List.nil_append, List.nil_append]; exact hearsDebug_said (by decide +kernel) (by decide +kernel) (by decide +kernel) (by decide +kernel), by decide +kernel, by decide +kernel, by decide +kernel, by decide +kernel, by decide +kernel, by decide +kernel⟩,
    ⟨[], [], [], dsay 0xC6 3 (record 20 [(0, [2]), (8, [4]), (16, [9])]), 3, record 20 [(0, [2]), (8, [4]), (16, [9])], dbg2, by rw [List.nil_append, List.nil_append, List.nil_append]; exact hearsDebug_said (by decide +kernel) (by decide +kernel) (by decide +kernel) (by decide +kernel), by decide +kernel, by decide +kernel, by decide +kernel, by decide +kernel, by decide +kernel, by decide +kernel⟩,
    ⟨[], [], [], dsay 0xC7 3 (record 23 [(8, [4]), (16, [3]), (20, [1, 2, 3])]), 3, record 23 [(8, [4]), (16, [3]), (20, [1, 2, 3])], dbg2, [1, 2, 3], by rw [List.nil_append, List.nil_append, List.nil_append]; exact hearsDebug_said (by decide +kernel) (by decide +kernel) (by decide +kernel) (by decide +kernel), by decide +kernel, by decide +kernel, by decide +kernel, by decide +kernel, by decide +kernel, by decide +kernel, by decide +kernel, by decide +kernel⟩,
    ⟨[], [], [], dsay 0xC7 3 (record 23 [(0, [1]), (8, [4]), (16, [3]), (20, [1, 2, 3])]), 3, record 23 [(0, [1]), (8, [4]), (16, [3]), (20, [1, 2, 3])], dbg2, [1, 2, 3], by rw [List.nil_append, List.nil_append, List.nil_append]; exact hearsDebug_said (by decide +kernel) (by decide +kernel) (by decide +kernel) (by decide +kernel), by decide +kernel, by decide +kernel, by decide +kernel, by decide +kernel, by decide +kernel, by decide +kernel, by decide +kernel, by decide +kernel⟩,
    ⟨[], [], [], dsay 0xC7 3 (record 24 [(0, [2]), (8, [8, 0, 0xC0]), (16, [4]), (20, [1, 2, 3, 4])]), 3, record 24 [(0, [2]), (8, [8, 0, 0xC0]), (16, [4]), (20, [1, 2, 3, 4])], dbg2, [1, 2, 3, 4], by rw [List.nil_append, List.nil_append, List.nil_append]; exact hearsDebug_said (by decide +kernel) (by decide +kernel) (by decide +kernel) (by decide +kernel), by decide +kernel, by decide +kernel, by decide +kernel, by decide +kernel, by decide +kernel, by decide +kernel, by decide +kernel, by decide +kernel⟩,
    ⟨[], [], dsay 0xC9 3 [5, 0, 0, 0, 1, 2, 3], 3, [5, 0, 0, 0, 1, 2, 3], { dbg2 with glb.state := .boot }, [1, 2, 3], by rw [List.nil_append, List.nil_append]; exact hearsDebug_said (by decide +kernel) (by decide +kernel) (by decide +kernel) (by decide +kernel), by decide +kernel, by decide +kernel, by decide +kernel, by decide +kernel⟩,
    ⟨[], dsay 0xCA 3 [3, 0, 0, 0], 3, [3, 0, 0, 0], { dbg2 with glb.state := .boot, pwr.recImage := [(0, 4)] }, tgetL 0 [(0, 4)] 0 3, by rw [List.nil_append]; exact hearsDebug_said (by decide +kernel) (by decide +kernel) (by decide +kernel) (by decide +kernel), by decide +kernel, by decide +kernel, by decide +kernel⟩,
    ⟨up, by decide +kernel⟩,
    ⟨[], [], dsay 0xC4 3 [8, 0, 0, 0, 1, 0, 0, 0], 3, [8, 0, 0, 0, 1, 0, 0, 0], { dbg2 with sec.dbg := 0 }, by rw [List.nil_append, List.nil_append]; exact hearsDebug_said (by decide +kernel) (by decide +kernel) (by decide +kernel) (by decide +kernel), by decide +kernel, by decide +kernel, by decide +kernel⟩,
    ⟨[], [], [], dsay 0xC6 3 (zeros 20), 3, zeros 20, { dbg2 with sec.dbg := 1 }, by rw [List.nil_append, List.nil_append, List.nil_append]; exact hearsDebug_said (by decide +kernel) (by decide +kernel) (by decide +kernel) (by decide +kernel), by decide +kernel, by decide +kernel, by decide +kernel⟩,
    ⟨[], [], [], dsay 0xC7 3 (record 21 [(16, [1])]), 3, record 21 [(16, [1])], { dbg2 with sec.dbg := 1 }, by rw [List.nil_append, List.nil_append, List.nil_append]; exact hearsDebug_said (by decide +kernel) (by decide +kernel) (by decide +kernel) (by decide +kernel), by decide +kernel, by decide +kernel, by decide +kernel⟩,
    ⟨[], dsay 0xC8 3 [1], 3, [1], { dbg2 with sec.dbg := 1 }, by rw [List.nil_append]; exact hearsDebug_said (by decide +kernel) (by decide +kernel) (by decide +kernel) (by decide +kernel), by decide +kernel, by decide +kernel⟩,
    ⟨[], [], dsay 0xC9 3 [5, 0, 0, 0, 1], 3, [5, 0, 0, 0, 1], dbg2, by rw [List.nil_append, List.nil_append]; exact hearsDebug_said (by decide +kernel) (by decide +kernel) (by decide +kernel) (by decide +kernel), by decide +kernel, by decide +kernel⟩,
    ⟨[], dsay 0xCA 3 [3, 0, 0, 0], 3, [3, 0, 0, 0], dbg2, by rw [List.nil_append]; exact hearsDebug_said (by decide +kernel) (by decide +kernel) (by decide +kernel) (by decide +kernel), by decide +kernel, by decide +kernel⟩,
    ⟨dsay 0xC0 3 [1], 3, [1], dbg2, hearsDebug_said (by decide +kernel) (by decide +kernel) (by decide +kernel) (by decide +kernel), by decide +kernel⟩,
    ⟨[], [], dsay 0xC4 3 [1], 3, [1], dbg2, by rw [List.nil_append, List.nil_append]; exact hearsDebug_said (by decide +kernel) (by decide +kernel) (by decide +kernel) (by decide +kernel), by decide +kernel⟩,
    ⟨dsay 0xCB 3 [], [], [], [], true, .lock (dsay 0xCB 3 []), up, by decide +kernel, by decide +kernel⟩⟩
end Sys2Proof.Tests.W05
namespace Sys2Proof.Tests.W06
/-- The hypotheses of HostLeaseCommandsComplete, clause by clause. -/
theorem test_met_HostLeaseCommandsComplete :
    (∃ (p : HPort) (s : State), (s.host p).perst = false ∧ s.booted = true ∧ s.hst.owner = none) ∧
    (∃ (p : HPort) (s : State) (i : Instr), Owner p s ∧ (i = .claim p ∨ i = .hostRenew p)) ∧
    (∃ (p : HPort) (q : HPort) (s : State), (s.host p).perst = false ∧ s.booted = true ∧ s.hst.owner = some q ∧ q ≠ p) ∧
    (∃ (p : HPort) (s : State), Owner p s) ∧
    (∃ (p : HPort) (nonce : Half) (since : _) (s : State), (s.host p).perst = false ∧ s.booted = true ∧ s.hst.owner ≠ some p ∧ s.hst.pend = some ⟨p, nonce, since⟩ ∧ s.clk - since ≤ 10000000) ∧
    (∃ (dt : Nat) (q : HPort) (s : State), s.hst.owner = some q ∧ s.hst.leaseEnd ≤ s.clk + dt) ∧
    (∃ (p : HPort) (s : State) (i : Instr), Stranger p s ∧ ((i = .hostRenew p ∨ i = .hostYield p))) ∧
    (∃ (p : HPort) (nonce : Half) (s : State), Stranger p s ∧ ((∀ c, s.hst.pend = some c → c.port = p → c.nonce = nonce → 10000000 < s.clk - c.since))) :=
  ⟨⟨.hb, { up with hst.owner := none, hst.hb.perst := false, clk := 4 }, by decide +kernel, by decide +kernel, by decide +kernel⟩,
    ⟨.ha, { up with clk := 4 }, Instr.claim .ha, ⟨by decide +kernel, by decide +kernel, by decide +kernel⟩, by decide +kernel⟩,
    ⟨.hb, .ha, { up with hst.hb.perst := false, clk := 4 }, by decide +kernel, by decide +kernel, by decide +kernel, by decide +kernel⟩,
    ⟨.ha, { up with hst.pend := some ⟨.hb, 3, 1⟩, clk := 4 }, ⟨by decide +kernel, by decide +kernel, by decide +kernel⟩⟩,
    ⟨.hb, 3, 1, { up with hst.pend := some ⟨.hb, 3, 1⟩, hst.hb.perst := false, clk := 10000001 }, by decide +kernel, by decide +kernel, by decide +kernel, by decide +kernel, by decide +kernel⟩,
    ⟨6, .ha, { up with hst.leaseEnd := 10, hst.pend := some ⟨.hb, 3, 1⟩, clk := 4 }, by decide +kernel, by decide +kernel⟩,
    ⟨.hb, { up with hst.hb.perst := false }, Instr.hostYield .hb, ⟨by decide +kernel, by decide +kernel, by decide +kernel⟩, by decide +kernel⟩,
    ⟨.hb, 3, { up with hst.pend := some ⟨.hb, 3, 1⟩, hst.hb.perst := false, clk := 10000002 }, ⟨by decide +kernel, by decide +kernel, by decide +kernel⟩, by decide +kernel⟩⟩
/-- The hypotheses of HostPortsComplete, clause by clause. -/
theorem test_met_HostPortsComplete :
    (∃ (p : HPort) (s : State), (s.host p).perst = false) ∧
    (∃ (p : HPort) (s : State), (s.host p).perst = false) ∧
    (∃ (p : HPort) (off : BitVec 36) (a : _) (s : State), (s.host p).perst = false ∧ s.booted = true ∧ a = (s.host p).win.toNat * 2 ^ 30 + off.toNat) ∧
    (∃ (p : HPort) (off : BitVec 36) (a : _) (s : State), Owner p s ∧ a = (s.host p).win.toNat * 2 ^ 30 + off.toNat) :=
  ⟨⟨.ha, { up with hst.pend := some ⟨.ha, 3, 1⟩, hst.ha.win := 3 }, by decide +kernel⟩,
    ⟨.ha, up, by decide +kernel⟩,
    ⟨.ha, 5, 2 ^ 30 + 5, { up with hst.ha.win := 1, ram := [(1073741830, 7)] }, by decide +kernel, by decide +kernel, by decide +kernel⟩,
    ⟨.ha, 5, 5, { up with ram := [(6, 7)] }, ⟨by decide +kernel, by decide +kernel, by decide +kernel⟩, by decide +kernel⟩⟩
end Sys2Proof.Tests.W06
namespace Sys2Proof.Tests.W07
def part4 : List Byte := record 24 [(0, toLE 4 0x504C4154), (12, [2]), (16, toLE 4 24), (20, [1])]
/-- The hypotheses of HostChannelsComplete, clause by clause. -/
theorem test_met_HostChannelsComplete :
    (∃ (p : HPort) (s : State), (s.host p).perst = false ∧ s.booted = true) ∧
    (∃ (p : HPort) (s : State), (s.host p).perst = false ∧ s.booted = true) ∧
    (∃ (p : HPort) (c : Fin 16) (desc : List Byte) (s : State) (dev : _) (len : _), (s.host p).perst = false ∧ (s.dmaOf p c.val).st = .running ∧ s.hst.owner = some p ∧ dev = u64At desc 8 ∧ len = u32At desc 16 ∧ len ≠ 0 ∧ len ≤ 16777216 ∧ u16At desc 20 < 8 ∧ slice desc 22 2 = [0, 0] ∧ dev + len ≤ s.capacity ∧ (u16At desc 20) % 2 = 0 ∧ (u16At desc 20) / 2 % 2 = 0) ∧
    (∃ (p : HPort) (c : Fin 16) (desc : List Byte) (s : State) (dev : _) (len : _), (s.host p).perst = false ∧ (s.dmaOf p c.val).st = .running ∧ dev = u64At desc 8 ∧ len = u32At desc 16 ∧ len ≠ 0 ∧ len ≤ 16777216 ∧ u16At desc 20 = 1 ∧ slice desc 22 2 = [0, 0] ∧ dev + len ≤ s.capacity) ∧
    (∃ (p : HPort) (c : Fin 16) (desc : List Byte) (s : State), (s.host p).perst = false ∧ (s.dmaOf p c.val).st = .running ∧ u32At desc 16 = 0) ∧
    (∃ (dt : Nat) (p : HPort) (src : Fin 32) (m : IrqMap) (s : State), m = tget (IrqMap.reset src.val) (s.host p).irq src.val ∧ m.fired = true ∧ m.holdEnd ≤ s.clk + dt ∧ m.en = true) ∧
    (∃ (dt : Nat) (p : HPort) (src : Fin 32) (m : IrqMap) (s : State), m = tget (IrqMap.reset src.val) (s.host p).irq src.val ∧ m.fired = true ∧ m.holdEnd ≤ s.clk + dt ∧ m.en = true) :=
  ⟨⟨.ha, { up with hst.ha.dma := [(3, { DmaCh.reset with enable := true })] }, by decide +kernel, by decide +kernel⟩,
    ⟨.ha, { up with hst.ha.dma := [(3, { DmaCh.reset with enable := true, prod := 3, ring := 64 })] }, by decide +kernel, by decide +kernel⟩,
    ⟨.ha, 3, record 32 [(8, toLE 8 4), (16, toLE 4 2)], { up with hst.ha.dma := [(3, { DmaCh.reset with enable := true, prod := 1, ring := 64, st := .running })] }, 4, 2, by decide +kernel, by decide +kernel, by decide +kernel, by decide +kernel, by decide +kernel, by decide +kernel, by decide +kernel, by decide +kernel, by decide +kernel, by decide +kernel, by decide +kernel, by decide +kernel⟩,
    ⟨.ha, 3, record 32 [(0, toLE 8 99), (8, toLE 8 4), (16, toLE 4 2), (20, [1])], { up with ram := [(4, 6)], hst.ha.dma := [(3, { DmaCh.reset with enable := true, prod := 1, ring := 64, st := .running })] }, 4, 2, by decide +kernel, by decide +kernel, by decide +kernel, by decide +kernel, by decide +kernel, by decide +kernel, by decide +kernel, by decide +kernel, by decide +kernel⟩,
    ⟨.ha, 3, record 32 [(0, toLE 8 99), (8, toLE 8 4), (20, [1])], { up with hst.ha.dma := [(3, { DmaCh.reset with enable := true, prod := 1, ring := 64, st := .running })] }, by decide +kernel, by decide +kernel, by decide +kernel⟩,
    ⟨5, .ha, 10, ⟨true, 1, 10, 5, true⟩, { up with hst.ha.irq := [(10, ⟨true, 1, 10, 5, true⟩)], hst.ha.msix := [(10, ⟨0x1000, 3, false⟩)] }, by decide +kernel, by decide +kernel, by decide +kernel, by decide +kernel⟩,
    ⟨5, .ha, 10, ⟨true, 1, 10, 5, true⟩, { up with hst.ha.irq := [(10, ⟨true, 1, 10, 5, true⟩)] }, by decide +kernel, by decide +kernel, by decide +kernel, by decide +kernel⟩⟩
/-- The hypotheses of MailboxCommandsComplete, clause by clause. -/
theorem test_met_MailboxCommandsComplete :
    (∃ (p : HPort) (s : State), Owner p s ∧ s.hst.mbBusy = false) ∧
    (∃ (p : HPort) (s : State) (f : Nat → Byte), Owner p s ∧ s.hst.mbBusy = false ∧ s.hst.arg0.toNat ≤ 3 ∧ ((s.hst.arg0 = 2 → s.hst.arg1.toNat ≤ 15)) ∧ s.hst.arg2.toNat + s.hst.arg3.toNat ≤ 4194304 ∧ s.flashRegion s.hst.arg0.toNat s.hst.arg1.toNat = some f) ∧
    (∃ (p : HPort) (b : _) (s : State), Owner p s ∧ s.hst.mbBusy = false ∧ s.hst.arg0.toNat ≤ 1 ∧ s.hst.arg3 ≠ 0 ∧ s.hst.arg3.toNat ≤ 4194304 ∧ b = rdMem s s.hst.mbBuf.toNat s.hst.arg3.toNat ∧ u32At b 0 = 0x504C4154 ∧ u32At b 16 = s.hst.arg3.toNat) ∧
    (∃ (p : HPort) (s : State), Owner p s ∧ s.hst.mbBusy = false ∧ s.hst.arg0.toNat ≤ 1) ∧
    (∃ (p : HPort) (s : State), Owner p s ∧ s.hst.mbBusy = false ∧ s.hst.arg0.toNat ≤ 15 ∧ s.hst.arg3 = 0) ∧
    (∃ (p : HPort) (b : _) (s : State), Owner p s ∧ s.hst.mbBusy = false ∧ s.hst.arg0.toNat ≤ 15 ∧ s.hst.arg3 ≠ 0 ∧ s.hst.arg3.toNat ≤ 4194304 ∧ b = rdMem s s.hst.mbBuf.toNat s.hst.arg3.toNat ∧ isPartial b = true ∧ platDistrict b = s.hst.arg0.toNat) ∧
    (∃ (p : HPort) (b : List Byte) (s : State), Owner p s ∧ s.hst.mbBusy = false ∧ b = rdMem s s.hst.mbBuf.toNat s.hst.arg3.toNat) ∧
    (∃ (p : HPort) (b : _) (s : State), Owner p s ∧ s.hst.mbBusy = false ∧ s.ikUsable = true ∧ b = reportBody s) :=
  ⟨⟨.ha, { up with sec.fwver := 3 }, ⟨by decide +kernel, by decide +kernel, by decide +kernel⟩, by decide +kernel⟩,
    ⟨.ha, { up with hst.arg0 := 1, hst.arg3 := 4, nv.plat1 := [4, 5] }, ({ up with nv.plat1 := [4, 5] }.flashRegion 1 0).getD (fun _ => 0), ⟨by decide +kernel, by decide +kernel, by decide +kernel⟩, by decide +kernel, by decide +kernel, by decide +kernel, by decide +kernel, by rfl⟩,
    ⟨.ha, rdMem { up with hst.arg0 := 1, hst.arg3 := 20, ram := tsetL 0 [] 0 (record 20 [(0, toLE 4 0x504C4154), (16, toLE 4 20)]) } 0 20, { up with hst.arg0 := 1, hst.arg3 := 20, ram := tsetL 0 [] 0 (record 20 [(0, toLE 4 0x504C4154), (16, toLE 4 20)]) }, ⟨by decide +kernel, by decide +kernel, by decide +kernel⟩, by decide +kernel, by decide +kernel, by decide +kernel, by decide +kernel, by decide +kernel, by decide +kernel, by decide +kernel⟩,
    ⟨.ha, { up with hst.arg0 := 1 }, ⟨by decide +kernel, by decide +kernel, by decide +kernel⟩, by decide +kernel, by decide +kernel⟩,
    ⟨.ha, { up with hst.arg0 := 4, nv.partials := [(4, [1])] }, ⟨by decide +kernel, by decide +kernel, by decide +kernel⟩, by decide +kernel, by decide +kernel, by decide +kernel⟩,
    ⟨.ha, rdMem { up with hst.arg0 := 1, hst.arg3 := 24, ram := tsetL 0 [] 0 part4 } 0 24, { up with hst.arg0 := 1, hst.arg3 := 24, ram := tsetL 0 [] 0 part4 }, ⟨by decide +kernel, by decide +kernel, by decide +kernel⟩, by decide +kernel, by decide +kernel, by decide +kernel, by decide +kernel, by decide +kernel, by decide +kernel, by decide +kernel⟩,
    ⟨.ha, [], up, ⟨by decide +kernel, by decide +kernel, by decide +kernel⟩, by decide +kernel, by decide +kernel⟩,
    ⟨.ha, reportBody up, up, ⟨by decide +kernel, by decide +kernel, by decide +kernel⟩, by decide +kernel, by decide +kernel, by rfl⟩⟩
end Sys2Proof.Tests.W07
namespace Sys2Proof.Tests.W08
/-- The hypotheses of PacketPathsComplete, clause by clause. -/
theorem test_met_PacketPathsComplete :
    (∃ (port : Port) (bytes : List Byte) (s : State), s.up port.val = true ∧ s.isC2 port.val = false ∧ hcrcOk3 bytes = false) ∧
    (∃ (port : Port) (tc : BitVec 3) (h : Held) (rest : List Held) (q : Nat) (s : State), s.fifo port.val tc.toNat = h :: rest ∧ h.policed = false ∧ s.aged h.pkt = false ∧ h.dest = .hop (.port q) ∧ s.up q = true ∧ s.dist (districtOf q) ≠ .draining ∧ s.roomFor q h.pkt.h.tc h.pkt.cells = true ∧ NoMirrorEnd q h.pkt s ∧ PlainSwitch s) ∧
    (∃ (dt : Nat) (port : Port) (tc : Fin 8) (h : Held) (rest : List Held) (q : Nat) (s : State) (u : State), u = fillPolicer port.val (elapse dt s) ∧ ((∀ k, k < 8 → k ≠ tc.val → s.fifo port.val k = [])) ∧ s.fifo port.val tc.val = h :: rest ∧ h.policed = true ∧ tc.val ≠ 5 ∧ tc.val ≠ 6 ∧ u.aged h.pkt = false ∧ 4 * h.pkt.size ≤ (u.sched port.val).bucket ∧ h.pkt.inPort = port.val ∧ h.pkt.h.tc = tc.val ∧ s.reorders h.pkt = false ∧ h.dest = .hop (.port q) ∧ s.up q = true ∧ s.dist (districtOf q) ≠ .draining ∧ s.roomFor q h.pkt.h.tc h.pkt.cells = true ∧ NoMirrorEnd q h.pkt s ∧ PlainSwitch s ∧ ((∀ e, e ∈ rest → e.policed = true))) ∧
    (∃ (i : Nat) (w : Waiting) (q : Nat) (s : State), s.swc.prod[i]? = some w ∧ w.hop = .port q ∧ s.up q = true ∧ ((w.stampAtEnqueue = true ∨ s.aged w.pkt = false)) ∧ w.notBefore ≤ s.now ∧ w.pkt.h.isSched = false ∧ w.pkt.result = none ∧ s.dist (districtOf q) ≠ .draining ∧ 2048 ≤ w.pkt.inPort ∧ s.fwd.mgmtEid ≠ 0 ∧ s.glb.state ≠ .cordoned ∧ s.roomFor q w.pkt.h.tc w.pkt.cells = true ∧ PlainSwitch s) ∧
    (∃ (i : Nat) (w : ReplWait) (r : Ent2) (q : Nat) (s : State), s.swc.repl[i]? = some w ∧ w.idx + 1 = w.count ∧ r = tget Ent2.zero s.fwd.repl (w.base + w.idx) ∧ bitAt r.w1.toNat 31 = true ∧ s.badAt 9 false (w.base + w.idx) = false ∧ s.badAt 6 w.pkt.h.epoch r.w0.toNat = false ∧ s.exact w.pkt.h.epoch r.w0 = none ∧ hopOf (fld r.w1.toNat 26 2) (fld r.w1.toNat 0 11) = .port q ∧ s.reorders w.pkt = false ∧ s.dist (districtOf q) ≠ .draining ∧ s.aged w.pkt = false ∧ s.up q = true ∧ s.roomFor q w.pkt.h.tc w.pkt.cells = true ∧ PlainSwitch s) ∧
    (∃ (dt : Nat) (port : Port) (tc : Nat) (p : Pkt) (rest : List QItem) (o : Pkt) (s : State) (u : State), u = fillG port.val (elapse dt s) ∧ s.up port.val = true ∧ s.glb.state ≠ .cordoned ∧ pickQueue u port.val = some tc ∧ (s.queue (queueKey port.val tc)).items = .pkt p :: rest ∧ p.h.tc = tc ∧ p.h.kind ≠ 9 ∧ u.aged p = false ∧ txForm u port.val p = some o) :=
  ⟨⟨0, zeros 64, sw, by decide +kernel, by decide +kernel, by decide +kernel⟩,
    ⟨0, 2, ⟨pk, .hop (.port 4), false⟩, [], 4, { sw with swc.holds := [(2, [⟨pk, .hop (.port 4), false⟩])] }, by decide +kernel, by decide +kernel, by decide +kernel, by decide +kernel, by decide +kernel, by decide +kernel, by decide +kernel, .inl (by decide +kernel), ⟨by decide +kernel, by decide +kernel, by decide +kernel, by decide +kernel⟩⟩,
    ⟨100, 0, 2, ⟨pk, .hop (.port 4), true⟩, [], 4, { sw with swc.holds := [(2, [⟨pk, .hop (.port 4), true⟩])] }, fillPolicer 0 (elapse 100 { sw with swc.holds := [(2, [⟨pk, .hop (.port 4), true⟩])] }), by decide +kernel, by decide +kernel, by decide +kernel, by decide +kernel, by decide +kernel, by decide +kernel, by decide +kernel, by decide +kernel, by decide +kernel, by decide +kernel, by decide +kernel, by decide +kernel, by decide +kernel, by decide +kernel, by decide +kernel, .inl (by decide +kernel), ⟨by decide +kernel, by decide +kernel, by decide +kernel, by decide +kernel⟩, by decide +kernel⟩,
    ⟨0, ⟨{ pk with inPort := 2050 }, .port 4, true, 0⟩, 4, { sw with fwd.mgmtEid := 99, swc.prod := [⟨{ pk with inPort := 2050 }, .port 4, true, 0⟩] }, by decide +kernel, by decide +kernel, by decide +kernel, by decide +kernel, by decide +kernel, by decide +kernel, by decide +kernel, by decide +kernel, by decide +kernel, by decide +kernel, by decide +kernel, by decide +kernel, ⟨by decide +kernel, by decide +kernel, by decide +kernel, by decide +kernel⟩⟩,
    ⟨0, ⟨pk, 0, 3, 2, 0⟩, ⟨0, 0x80000004⟩, 4, { sw with fwd.repl := [(2, ⟨0, 0x80000004⟩)], swc.repl := [⟨pk, 0, 3, 2, 0⟩] }, by decide +kernel, by decide +kernel, by decide +kernel, by decide +kernel, by decide +kernel, by decide +kernel, by decide +kernel, by decide +kernel, by decide +kernel, by decide +kernel, by decide +kernel, by decide +kernel, by decide +kernel, ⟨by decide +kernel, by decide +kernel, by decide +kernel, by decide +kernel⟩⟩,
    ⟨1000, 4, 2, pk, [], (txForm (fillG 4 (elapse 1000 { sw with lnk := [(4, { upLink with txBal := [(2, 40)] })], swc.q := [(34, { Queue.reset with items := [.pkt pk] })] })) 4 pk).getD pk, { sw with lnk := [(4, { upLink with txBal := [(2, 40)] })], swc.q := [(34, { Queue.reset with items := [.pkt pk] })] }, fillG 4 (elapse 1000 { sw with lnk := [(4, { upLink with txBal := [(2, 40)] })], swc.q := [(34, { Queue.reset with items := [.pkt pk] })] }), by decide +kernel, by decide +kernel, by decide +kernel, by decide +kernel, by decide +kernel, by decide +kernel, by decide +kernel, by decide +kernel, by decide +kernel⟩⟩
/-- The hypotheses of PacketJoinsItsQueue, clause by clause. -/
theorem test_met_PacketJoinsItsQueue :
    (∃ (p : Pkt) (q : Nat) (s : State), s.up q = true ∧ s.aged p = false ∧ s.dist (districtOf q) ≠ .draining ∧ s.roomFor q p.h.tc p.cells = true ∧ NoMirrorEnd q p s ∧ PlainSwitch s) :=
  ⟨pk, 4, sw, by decide +kernel, by decide +kernel, by decide +kernel, by decide +kernel, .inl (by decide +kernel), ⟨by decide +kernel, by decide +kernel, by decide +kernel, by decide +kernel⟩⟩
end Sys2Proof.Tests.W08
namespace Sys2Proof.Tests.W09
def rpk : Pkt := { pk with h := mkHdr 0 5 false 8 9 5 7 0 0 8 0 1 3 0 0, tin := 100000000 }
def smp : State := { up with swc.sample := true, swc.period := 10, swc.smpSize := 2 }
/-- The hypotheses of SwitchUpkeepComplete, clause by clause. -/
theorem test_met_SwitchUpkeepComplete :
    (∃ (s : State), PlainSwitch s) ∧
    (∃ (s : State), PlainSwitch s) ∧
    (∃ (dt : Nat) (b : Fin 2048) (k : Byte) (r : Bucket) (s : State), tget none s.swc.bucket (256 * b.val + k.toNat) = some r ∧ 1000000 ≤ s.clk + dt - r.last ∧ s.up ((s.bundlePorts b.val).getD (k.toNat % max 1 (s.bundlePorts b.val).length) 0) = true) ∧
    (∃ (dt : Nat) (d : Fin 16) (c : Reorder) (p : Pkt) (q : Nat) (at_ : Nat) (s : State), s.ro d.val = [c] ∧ c.held = [(p, .hop (.port q), at_)] ∧ s.roTmo ≤ s.clk + dt - at_ ∧ p.h.kind ≠ 9 ∧ c.next = none ∧ (elapse dt s).aged p = false ∧ p.h.isSched = true ∧ s.up q = true ∧ s.dist (districtOf q) ≠ .draining ∧ s.roomFor q p.h.tc p.cells = true ∧ NoMirrorEnd q p s ∧ PlainSwitch s) ∧
    (∃ (dt : Nat) (k : _) (n : Nat) (s : State), k = (elapse dt s).now / s.smpPeriodNs ∧ k ≠ s.swc.lastSweep ∧ s.swc.sample = true ∧ s.ports = [] ∧ n = 2 ^ s.swc.smpSize.toNat ∧ s.swc.smpHead = s.swc.smpTail ∧ 2 ≤ n ∧ n ≤ 2 ^ 24 ∧ s.swc.smpHead.toNat < n ∧ s.swc.smpBase.toNat + 16 * n ≤ s.capacity) ∧
    (∃ (dt : Nat) (k : _) (recs : List Nat) (s : State), k = (elapse dt s).now / s.smpPeriodNs ∧ k ≠ s.swc.lastSweep ∧ s.swc.sample = true ∧ recs = (s.ports.flatMap (fun p => (List.range 8).map (queueKey p))).filter (fun q => !s.swc.nonempty || (s.queue q).depth != 0 || (s.queue q).smax != 0) ∧ (s.swc.smpTail.toNat % 2 ^ s.swc.smpSize.toNat + 2 ^ s.swc.smpSize.toNat - s.swc.smpHead.toNat % 2 ^ s.swc.smpSize.toNat - 1) % 2 ^ s.swc.smpSize.toNat < recs.length + 1) ∧
    (∃ (p : HPort) (s : State), Owner p s) :=
  ⟨⟨{ sw with swc.q := [(34, { Queue.reset with items := [.pkt pk] })] }, ⟨by decide +kernel, by decide +kernel, by decide +kernel, by decide +kernel⟩⟩,
    ⟨{ sw with swc.q := [(34, { Queue.reset with items := [.pkt pk] })] }, ⟨by decide +kernel, by decide +kernel, by decide +kernel, by decide +kernel⟩⟩,
    ⟨1000000, 0, 1, ⟨4, 0⟩, { sw with swc.bucket := [(1, some ⟨4, 0⟩)] }, by decide +kernel, by decide +kernel, by decide +kernel⟩,
    ⟨100000000, 0, ⟨5, 9, 5, 1, false, none, 1, none, [(rpk, .hop (.port 4), 0)], 0⟩, rpk, 4, 0, { sw with swc.reorder := [(0, [⟨5, 9, 5, 1, false, none, 1, none, [(rpk, .hop (.port 4), 0)], 0⟩])] }, by decide +kernel, by decide +kernel, by decide +kernel, by decide +kernel, by decide +kernel, by decide +kernel, by decide +kernel, by decide +kernel, by decide +kernel, by decide +kernel, .inl (by decide +kernel), ⟨by decide +kernel, by decide +kernel, by decide +kernel, by decide +kernel⟩⟩,
    ⟨100000000, (elapse 100000000 smp).now / smp.smpPeriodNs, 4, smp, by decide +kernel, by decide +kernel, by decide +kernel, by decide +kernel, by decide +kernel, by decide +kernel, by decide +kernel, by decide +kernel, by decide +kernel, by decide +kernel⟩,
    ⟨100000000, (elapse 100000000 { smp with swc.smpHead := 3 }).now / smp.smpPeriodNs, [], { smp with swc.smpHead := 3 }, by decide +kernel, by decide +kernel, by decide +kernel, by decide +kernel, by decide +kernel⟩,
    ⟨.ha, { sw with swc.q := [(34, { Queue.reset with items := [.pkt pk], maxd := 5 })] }, ⟨by decide +kernel, by decide +kernel, by decide +kernel⟩⟩⟩
end Sys2Proof.Tests.W09
namespace Sys2Proof.Tests.W10
def ft : State := { sw with fwd.data0 := 9, fwd.data1 := 0x80000004, fwd.data2 := 3, fwd.index := 4, fwd.bankA := { Bank.reset with exact := [(9, some ⟨true, true, 0, 4, 7, 5⟩), (11, some ⟨false, true, 0, 8, 7, 6⟩)] } }
/-- The hypotheses of TableCommandsComplete, clause by clause. -/
theorem test_met_TableCommandsComplete :
    (∃ (p : HPort) (tbl : BitVec 4) (b : Bool) (s : State), Owner p s ∧ s.fwd.busy = false ∧ 3 ≤ s.glb.state.code ∧ tbl ≠ 6 ∧ s.fwd.index.toNat < tableSize tbl.toNat ∧ s.badAt tbl.toNat b s.fwd.index.toNat = false) ∧
    (∃ (p : HPort) (tbl : BitVec 4) (b : Bool) (s : State), Owner p s ∧ s.fwd.busy = false ∧ 3 ≤ s.glb.state.code ∧ tbl.toNat ≤ 5 ∧ s.fwd.index.toNat < tableSize tbl.toNat ∧ s.bankState b = .free) ∧
    (∃ (p : HPort) (tbl : BitVec 4) (b : Bool) (s : State), Owner p s ∧ s.fwd.busy = false ∧ 3 ≤ s.glb.state.code ∧ tbl.toNat ≤ 5 ∧ s.fwd.index.toNat < tableSize tbl.toNat ∧ s.bankState b = .free) ∧
    (∃ (p : HPort) (tbl : BitVec 4) (b : Bool) (s : State), Owner p s ∧ s.fwd.busy = false ∧ 3 ≤ s.glb.state.code ∧ tbl.toNat ≤ 5 ∧ s.fwd.index.toNat < tableSize tbl.toNat ∧ s.bankState b ≠ .free) ∧
    (∃ (p : HPort) (b : Bool) (s : State), Owner p s ∧ s.fwd.busy = false ∧ 3 ≤ s.glb.state.code ∧ s.bankState b = .free ∧ ((s.exact b s.fwd.data0 = none → (s.bank b).count < 1048576))) ∧
    (∃ (p : HPort) (b : Bool) (s : State), Owner p s ∧ s.fwd.busy = false ∧ 3 ≤ s.glb.state.code ∧ s.bankState b = .free ∧ ((s.exact b s.fwd.data0 = none → (s.bank b).count < 1048576))) ∧
    (∃ (p : HPort) (b : Bool) (x : ExactEnt) (s : State), Owner p s ∧ s.fwd.busy = false ∧ 3 ≤ s.glb.state.code ∧ s.bankState b = .free ∧ s.exact b s.fwd.data0 = some x) ∧
    (∃ (p : HPort) (b : Bool) (x : ExactEnt) (s : State), Owner p s ∧ s.fwd.busy = false ∧ 3 ≤ s.glb.state.code ∧ s.exact b s.fwd.data0 = some x ∧ s.badAt 6 b s.fwd.data0.toNat = false) ∧
    (∃ (p : HPort) (s : State) (u : State), Owner p s ∧ s.fwd.busy = false ∧ 3 ≤ s.glb.state.code ∧ missingStatus s.fwd.data0 [false, true] s = (u, 0) ∧ ((∀ b, s.exact b s.fwd.data0 = none → (s.bank b).count < 1048576))) ∧
    (∃ (p : HPort) (s : State), Owner p s ∧ s.fwd.busy = false ∧ 3 ≤ s.glb.state.code ∧ ((∀ b, s.exact b s.fwd.data0 = none → (s.bank b).count < 1114112))) ∧
    (∃ (p : HPort) (s : State), Owner p s ∧ s.fwd.busy = false ∧ 3 ≤ s.glb.state.code ∧ ((∀ b, s.exact b s.fwd.data0 = none → (s.bank b).count < 1114112))) ∧
    (∃ (p : HPort) (s : State), Owner p s ∧ s.fwd.busy = false ∧ 3 ≤ s.glb.state.code ∧ ((s.exact false s.fwd.data0 ≠ none ∨ s.exact true s.fwd.data0 ≠ none))) ∧
    (∃ (p : HPort) (s : State), Owner p s ∧ s.fwd.busy = false ∧ 3 ≤ s.glb.state.code ∧ ((s.exact false s.fwd.data0 ≠ none ∨ s.exact true s.fwd.data0 ≠ none))) ∧
    (∃ (p : HPort) (b : Bool) (s : State), Owner p s ∧ s.fwd.busy = false ∧ 3 ≤ s.glb.state.code ∧ bitAt s.fwd.data1.toNat 31 = true ∧ ((s.exact b s.fwd.data0 = none → (s.bank b).count < 1114112))) :=
  ⟨⟨.ha, 2, true, ft, ⟨by decide +kernel, by decide +kernel, by decide +kernel⟩, by decide +kernel, by decide +kernel, by decide +kernel, by decide +kernel, by decide +kernel⟩,
    ⟨.ha, 2, true, ft, ⟨by decide +kernel, by decide +kernel, by decide +kernel⟩, by decide +kernel, by decide +kernel, by decide +kernel, by decide +kernel, by decide +kernel⟩,
    ⟨.ha, 5, true, ft, ⟨by decide +kernel, by decide +kernel, by decide +kernel⟩, by decide +kernel, by decide +kernel, by decide +kernel, by decide +kernel, by decide +kernel⟩,
    ⟨.ha, 2, false, ft, ⟨by decide +kernel, by decide +kernel, by decide +kernel⟩, by decide +kernel, by decide +kernel, by decide +kernel, by decide +kernel, by decide +kernel⟩,
    ⟨.ha, true, ft, ⟨by decide +kernel, by decide +kernel, by decide +kernel⟩, by decide +kernel, by decide +kernel, by decide +kernel, by decide +kernel⟩,
    ⟨.ha, false, { ft with fwd.stA := .free }, ⟨by decide +kernel, by decide +kernel, by decide +kernel⟩, by decide +kernel, by decide +kernel, by decide +kernel, by decide +kernel⟩,
    ⟨.ha, false, ⟨true, true, 0, 4, 7, 5⟩, { ft with fwd.stA := .free }, ⟨by decide +kernel, by decide +kernel, by decide +kernel⟩, by decide +kernel, by decide +kernel, by decide +kernel, by decide +kernel⟩,
    ⟨.ha, false, ⟨true, true, 0, 4, 7, 5⟩, ft, ⟨by decide +kernel, by decide +kernel, by decide +kernel⟩, by decide +kernel, by decide +kernel, by decide +kernel, by decide +kernel⟩,
    ⟨.ha, { ft with fwd.data0 := 12 }, (missingStatus 12 [false, true] { ft with fwd.data0 := 12 }).1, ⟨by decide +kernel, by decide +kernel, by decide +kernel⟩, by decide +kernel, by decide +kernel, by decide +kernel, by decide +kernel⟩,
    ⟨.ha, ft, ⟨by decide +kernel, by decide +kernel, by decide +kernel⟩, by decide +kernel, by decide +kernel, by decide +kernel⟩,
    ⟨.ha, { ft with fwd.data0 := 12 }, ⟨by decide +kernel, by decide +kernel, by decide +kernel⟩, by decide +kernel, by decide +kernel, by decide +kernel⟩,
    ⟨.ha, ft, ⟨by decide +kernel, by decide +kernel, by decide +kernel⟩, by decide +kernel, by decide +kernel, by decide +kernel⟩,
    ⟨.ha, { ft with fwd.bankB := { Bank.reset with exact := [(9, some ⟨true, false, 0, 0, 0, 0⟩)] } }, ⟨by decide +kernel, by decide +kernel, by decide +kernel⟩, by decide +kernel, by decide +kernel, by decide +kernel⟩,
    ⟨.ha, false, { ft with fwd.data1 := 0xC0000008 }, ⟨by decide +kernel, by decide +kernel, by decide +kernel⟩, by decide +kernel, by decide +kernel, by decide +kernel, by decide +kernel⟩⟩
/-- The hypotheses of EpochCommandsComplete, clause by clause. -/
theorem test_met_EpochCommandsComplete :
    (∃ (p : HPort) (s : State), Owner p s ∧ s.fwd.busy = false ∧ 3 ≤ s.glb.state.code ∧ s.fwd.stA ≠ .draining ∧ s.fwd.stB ≠ .draining) ∧
    (∃ (p : HPort) (s : State), Owner p s ∧ s.fwd.busy = false ∧ 3 ≤ s.glb.state.code ∧ ((s.fwd.stA = .draining ∨ s.fwd.stB = .draining))) ∧
    (∃ (p : HPort) (s : State), Owner p s ∧ s.fwd.busy = false ∧ 3 ≤ s.glb.state.code ∧ s.drained = true) ∧
    (∃ (p : HPort) (s : State), Owner p s ∧ s.fwd.busy = false ∧ 3 ≤ s.glb.state.code ∧ s.drained = false) :=
  ⟨⟨.ha, ft, ⟨by decide +kernel, by decide +kernel, by decide +kernel⟩, by decide +kernel, by decide +kernel, by decide +kernel, by decide +kernel⟩,
    ⟨.ha, { ft with fwd.stB := .draining }, ⟨by decide +kernel, by decide +kernel, by decide +kernel⟩, by decide +kernel, by decide +kernel, by decide +kernel⟩,
    ⟨.ha, { ft with fwd.stB := .draining }, ⟨by decide +kernel, by decide +kernel, by decide +kernel⟩, by decide +kernel, by decide +kernel, by decide +kernel⟩,
    ⟨.ha, { ft with fwd.stB := .draining, fwd.ecntB := 1 }, ⟨by decide +kernel, by decide +kernel, by decide +kernel⟩, by decide +kernel, by decide +kernel, by decide +kernel⟩⟩
/-- The hypotheses of TableUpkeepCompletes, clause by clause. -/
theorem test_met_TableUpkeepCompletes :
    (∃ (p : HPort) (s : State), Owner p s ∧ s.fwd.busy = false ∧ 3 ≤ s.glb.state.code ∧ s.fwd.batchCnt = 0) ∧
    (∃ (p : HPort) (s : State) (r : State × FwdRes), Owner p s ∧ s.fwd.busy = false ∧ 3 ≤ s.glb.state.code ∧ s.fwd.batchCnt = 1 ∧ r = fwdRun (batchArg (rdMem s s.fwd.batch.toNat 32)) s) ∧
    (∃ (s : State), segMarked s.fwd.bad s.fwd.cmpNext = [] ∧ segMarked s.fwd.soft s.fwd.cmpNext = []) ∧
    (∃ (s : State), s.fwd.cmpEnable = true ∧ s.fwd.cmpBase.toNat + 16 * s.fwd.cmpNext + 16 ≤ s.capacity) ∧
    (∃ (s : State), s.fwd.cmpEnable = true ∧ s.fwd.cmpBase.toNat + 16 * s.fwd.cmpNext + 16 ≤ s.capacity) ∧
    (∃ (lane : Fin 2) (codes : List Code) (msg : _) (s : State), HearsRing s lane codes 0x60 msg ∧ u64At msg 20 ≠ s.nv.devid.toNat ∧ s.learnRingOpen = true ∧ s.fwd.lrnHead.toNat < 2 ^ s.fwd.lrnLog2.toNat ∧ s.fwd.lrnBase.toNat + 32 * s.fwd.lrnHead.toNat + 32 ≤ s.capacity) ∧
    (∃ (lane : Fin 2) (codes : List Code) (msg : _) (s : State), HearsRing s lane codes 0x60 msg ∧ u64At msg 20 = s.nv.devid.toNat) :=
  ⟨⟨.ha, { ft with fwd.batchDone := 4 }, ⟨by decide +kernel, by decide +kernel, by decide +kernel⟩, by decide +kernel, by decide +kernel, by decide +kernel⟩,
    ⟨.ha, { ft with fwd.batchCnt := 1, ram := tsetL 0 [] 0 (toLE 4 0x92800000 ++ toLE 4 3 ++ toLE 4 5) }, fwdRun (batchArg (rdMem { ft with fwd.batchCnt := 1, ram := tsetL 0 [] 0 (toLE 4 0x92800000 ++ toLE 4 3 ++ toLE 4 5) } 0 32)) { ft with fwd.batchCnt := 1, ram := tsetL 0 [] 0 (toLE 4 0x92800000 ++ toLE 4 3 ++ toLE 4 5) }, ⟨by decide +kernel, by decide +kernel, by decide +kernel⟩, by decide +kernel, by decide +kernel, by decide +kernel, by rfl⟩,
    ⟨ft, by decide +kernel, by decide +kernel⟩,
    ⟨{ ft with fwd.cmpEnable := true, fwd.cmpNext := 3 }, by decide +kernel, by decide +kernel⟩,
    ⟨{ ft with fwd.cmpEnable := true, fwd.cmpNext := 17681 }, by decide +kernel, by decide +kernel⟩,
    ⟨0, dsay 0x60 0 (record 32 [(20, toLE 8 5)]), record 32 [(20, toLE 8 5)], inRing { ft with fwd.lrnEnable := true, fwd.lrnLog2 := 3, fwd.lrnHead := 6 }, ⟨by decide +kernel, 0, hears_said (by decide +kernel) (by decide +kernel) (by decide +kernel) (by decide +kernel)⟩, by decide +kernel, by decide +kernel, by decide +kernel, by decide +kernel⟩,
    ⟨0, dsay 0x60 0 (record 32 [(20, toLE 8 77)]), record 32 [(20, toLE 8 77)], inRing ft, ⟨by decide +kernel, 0, hears_said (by decide +kernel) (by decide +kernel) (by decide +kernel) (by decide +kernel)⟩, by decide +kernel⟩⟩
end Sys2Proof.Tests.W10
namespace Sys2Proof.Tests.W11
def f1 : Fence := ⟨1, 7, 3, 2, 0, 0, true, false, 0, 0, 0, false, false⟩
def jb : State := { up with fwd.job := [(7, { JobEnt.zero with valid := true })], lnd.fncKey := 0x7003, lnd.fncArg := 2 }
/-- The hypotheses of FenceCommandsComplete, clause by clause. -/
theorem test_met_FenceCommandsComplete :
    (∃ (p : HPort) (s : State), Owner p s ∧ s.lnd.fncBusy = false ∧ 4 ≤ s.glb.state.code ∧ BitVec.ofNat 16 s.lnd.fncArg.toNat ≠ (0 : Half) ∧ s.keyJob ≠ 0 ∧ s.keyFence = none ∧ s.lnd.fences.length < 4096 ∧ s.fwd.stA ≠ .draining ∧ s.fwd.stB ≠ .draining) ∧
    (∃ (p : HPort) (f : Fence) (s : State), Owner p s ∧ s.lnd.fncBusy = false ∧ 4 ≤ s.glb.state.code ∧ s.keyFence = some f) ∧
    (∃ (p : HPort) (f : Fence) (s : State), Owner p s ∧ s.lnd.fncBusy = false ∧ 4 ≤ s.glb.state.code ∧ s.keyFence = some f) ∧
    (∃ (p : HPort) (e : _) (f : Fence) (s : State), Owner p s ∧ s.lnd.fncBusy = false ∧ 4 ≤ s.glb.state.code ∧ e = BitVec.ofNat 16 s.lnd.fncArg.toNat ∧ e ≠ 0 ∧ s.keyFence = some f) ∧
    (∃ (dt : Nat) (f : Fence) (n : Nat) (s : State), s.lnd.fences = [f] ∧ f.tmo ≠ 0 ∧ f.timedOut = false ∧ f.tmo.toNat * 1000000 ≤ s.clk + dt - f.armedAt ∧ n = 2 ^ s.lnd.ringLog2.toNat ∧ s.lnd.ringEnable = true ∧ (s.lnd.ringHead.toNat + 1) % n ≠ s.lnd.ringTail.toNat % n ∧ s.lnd.ringBase.toNat + 32 * s.lnd.ringHead.toNat + 32 ≤ s.capacity) :=
  ⟨⟨.ha, jb, ⟨by decide +kernel, by decide +kernel, by decide +kernel⟩, by decide +kernel, by decide +kernel, by decide +kernel, by decide +kernel, by decide +kernel, by decide +kernel, by decide +kernel, by decide +kernel⟩,
    ⟨.ha, f1, { jb with lnd.fences := [f1] }, ⟨by decide +kernel, by decide +kernel, by decide +kernel⟩, by decide +kernel, by decide +kernel, by decide +kernel⟩,
    ⟨.ha, f1, { jb with lnd.fences := [f1] }, ⟨by decide +kernel, by decide +kernel, by decide +kernel⟩, by decide +kernel, by decide +kernel, by decide +kernel⟩,
    ⟨.ha, 2, f1, { jb with lnd.fences := [f1] }, ⟨by decide +kernel, by decide +kernel, by decide +kernel⟩, by decide +kernel, by decide +kernel, by decide +kernel, by decide +kernel, by decide +kernel⟩,
    ⟨2000000, { f1 with tmo := 2 }, 8, { jb with lnd.fences := [{ f1 with tmo := 2 }], lnd.ringEnable := true, lnd.ringLog2 := 3 }, by decide +kernel, by decide +kernel, by decide +kernel, by decide +kernel, by decide +kernel, by decide +kernel, by decide +kernel, by decide +kernel⟩⟩
/-- The hypotheses of TeardownCommandsComplete, clause by clause. -/
theorem test_met_TeardownCommandsComplete :
    (∃ (p : HPort) (job : BitVec 20) (s : State), Owner p s ∧ s.mem.busy = false ∧ 4 ≤ s.glb.state.code ∧ job ≠ 0 ∧ s.mem.sweep = none ∧ (tget JobEnt.zero s.fwd.job job.toNat).valid = true ∧ s.tdJob job = none) ∧
    (∃ (p : HPort) (job : BitVec 20) (s : State), Owner p s ∧ s.mem.busy = false ∧ 4 ≤ s.glb.state.code ∧ job ≠ 0 ∧ s.mem.sweep = none ∧ (tget JobEnt.zero s.fwd.job job.toNat).valid = true ∧ s.tdJob job = none ∧ s.swc.capture = false ∧ s.mem.ents = []) ∧
    (∃ (job : BitVec 20) (t0 : Nat) (n : Nat) (s : State), s.mem.sweep = some (job, t0, n)) ∧
    (∃ (p : HPort) (job : BitVec 20) (j : TdJob) (s : State), Owner p s ∧ s.mem.busy = false ∧ 4 ≤ s.glb.state.code ∧ job ≠ 0 ∧ s.tdJob job = some j ∧ j.swept = true ∧ ((∀ e c, e ∈ s.lnd.ctxs → e.2 = some c → c.d.job ≠ job))) ∧
    (∃ (p : HPort) (job : BitVec 20) (s : State), Owner p s ∧ s.mem.busy = false ∧ 4 ≤ s.glb.state.code ∧ job ≠ 0) ∧
    (∃ (p : HPort) (s : State), Owner p s ∧ s.mem.busy = false) ∧
    (∃ (p : HPort) (s : State), Owner p s ∧ s.mem.busy = false) ∧
    (∃ (p : HPort) (s : State), Owner p s ∧ s.mem.busy = false) ∧
    (∃ (p : HPort) (s : State), Owner p s ∧ s.mem.busy = false) ∧
    (∃ (p : HPort) (s : State), Owner p s ∧ s.mem.busy = false) ∧
    (∃ (p : HPort) (s : State), Owner p s ∧ s.mem.busy = false) :=
  ⟨⟨.ha, 7, { jb with lnd.fences := [f1] }, ⟨by decide +kernel, by decide +kernel, by decide +kernel⟩, by decide +kernel, by decide +kernel, by decide +kernel, by decide +kernel, by decide +kernel, by decide +kernel⟩,
    ⟨.ha, 7, { sw with fwd.job := [(7, { JobEnt.zero with valid := true })], swc.q := [(34, { Queue.reset with items := [.pkt pk, .pkt { pk with h := mkHdr 0 2 false 8 9 5 6 0 0 0 0 1 0 0 0 }] })] }, ⟨by decide +kernel, by decide +kernel, by decide +kernel⟩, by decide +kernel, by decide +kernel, by decide +kernel, by decide +kernel, by decide +kernel, by decide +kernel, by decide +kernel, by decide +kernel⟩,
    ⟨7, 3, 0, { jb with mem.sweep := some (7, 3, 0), mem.jobs := [⟨7, false, 0⟩] }, by decide +kernel⟩,
    ⟨.ha, 7, ⟨7, true, 0⟩, { jb with mem.jobs := [⟨7, true, 0⟩], fwd.job := [(7, { JobEnt.zero with valid := true, teardown := true })] }, ⟨by decide +kernel, by decide +kernel, by decide +kernel⟩, by decide +kernel, by decide +kernel, by decide +kernel, by decide +kernel, by decide +kernel, by exact fun e _ h => absurd h (List.not_mem_nil (a := e))⟩,
    ⟨.ha, 7, { jb with mem.jobs := [⟨7, true, 4⟩] }, ⟨by decide +kernel, by decide +kernel, by decide +kernel⟩, by decide +kernel, by decide +kernel, by decide +kernel⟩,
    ⟨.ha, jb, ⟨by decide +kernel, by decide +kernel, by decide +kernel⟩, by decide +kernel⟩,
    ⟨.ha, jb, ⟨by decide +kernel, by decide +kernel, by decide +kernel⟩, by decide +kernel⟩,
    ⟨.ha, { jb with mem.sweep := some (7, 3, 0) }, ⟨by decide +kernel, by decide +kernel, by decide +kernel⟩, by decide +kernel⟩,
    ⟨.ha, jb, ⟨by decide +kernel, by decide +kernel, by decide +kernel⟩, by decide +kernel⟩,
    ⟨.ha, { jb with mem.jobs := [⟨7, false, 0⟩] }, ⟨by decide +kernel, by decide +kernel, by decide +kernel⟩, by decide +kernel⟩,
    ⟨.ha, { jb with glb.state := .training }, ⟨by decide +kernel, by decide +kernel, by decide +kernel⟩, by decide +kernel⟩⟩
end Sys2Proof.Tests.W11
namespace Sys2Proof.Tests.W12
def dsc : List Byte := record 392 [(0, toLE 4 9), (4, toLE 4 7), (10, [1]), (14, [2]), (16, toLE 4 2), (20, toLE 4 4), (26, [2]), (28, [1]), (384, toLE 4 5), (388, toLE 4 6)]
def ld : State := { sw with fwd.job := [(7, { JobEnt.zero with valid := true, eaq := 4 })], plt.dist := [(0, .inService)], lnd.backSize := 10000000, ram := tsetL 0 [] 0 dsc, fwd.mgmtEid := 99 }
def cx : Ctx := Ctx.fresh (descOf dsc) dsc true 0
def lc : State := { ld with lnd.ctxs := [(9, some cx)], lnd.backUsed := 200000, lnd.corr := 0x3F800000 }
def fst8 : Stage := ⟨3, 3, 0, 2, 1, 0, 0, 0⟩
def fx : Ctx := { cx with d := { cx.d with type := 8, stages := [fst8] } }
def lf : State := { lc with lnd.ctxs := [(9, some fx)], lnd.held := [⟨9, 0, 0, [1, 2], 0, false⟩], fwd.group := [(1, ⟨0x80000003, 1, 0, 0⟩)], fwd.repl := [(3, ⟨8, 0x80000004⟩)] }
def lpk (ctx : Nat) : List Byte := bytesOfWords [(mkHdr 2 2 false 8 99 6 7 0 ctx 0 1 0 0 1 0).w0, (mkHdr 2 2 false 8 99 6 7 0 ctx 0 1 0 0 1 0).w1, (mkHdr 2 2 false 8 99 6 7 0 ctx 0 1 0 0 1 0).w2, (mkHdr 2 2 false 8 99 6 7 0 ctx 0 1 0 0 1 0).w3, (mkHdr 2 2 false 8 99 6 7 0 ctx 0 1 0 0 1 0).w4, (mkHdr 2 2 false 8 99 6 7 0 ctx 0 1 0 0 1 0).w5, (mkHdr 2 2 false 8 99 6 7 0 ctx 0 1 0 0 1 0).w6, 0] ++ toLE 4 0x40000000 ++ toLE 4 0x3F800000
def lp (ctx : Nat) : Pkt := { h := hdrOf (lpk ctx), payload := ((lpk ctx).drop 32).take (hdrOf (lpk ctx)).len, tin := ld.now, inPort := 0, c2 := false, counted := false, cred := true }
theorem exists_some_iff {α : Type} (o : Option α) (p : α → Bool) : (∃ e, o = some e ∧ p e = true) ↔ o.any p = true := by
  cases o <;> simp
def lg : State := { lf with lnd.held := [], fwd.bankA := { Bank.reset with exact := [(6, some ⟨true, false, 0, 0, 0, 0⟩)] } }
theorem lg_gone (i : Nat) : (i == 1) = true ↔ i < fx.d.members.length ∧ fx.memberDone i = false ∧
    ∃ e, lg.exact lg.fwd.cur (fx.d.members.getD i 0) = some e ∧ e.cordon = true := by
  rw [exists_some_iff]
  by_cases h : i < 2
  · revert i
    decide +kernel
  · have l : fx.d.members.length = 2 := by decide +kernel
    simp only [l, h, false_and, iff_false, beq_iff_eq]
    omega
/-- The hypotheses of LandingCommandsComplete, clause by clause. -/
theorem test_met_LandingCommandsComplete :
    (∃ (p : HPort) (b : _) (d : _) (s : State), Owner p s ∧ s.lnd.busy = false ∧ b = readDesc s ∧ d = descOf b ∧ installStatus s b = 0 ∧ ((∀ u, u ∈ s.lnd.pool → u.ctx ≠ d.ctx.toNat))) ∧
    (∃ (p : HPort) (st : Nat) (s : State), Owner p s ∧ s.lnd.busy = false ∧ st = installStatus s (readDesc s) ∧ st ≠ 0 ∧ st < 256) ∧
    (∃ (p : HPort) (ctx : BitVec 18) (c : _) (s : State), Owner p s ∧ s.lnd.busy = false ∧ s.ctx ctx.toNat = some c) ∧
    (∃ (p : HPort) (ctx : BitVec 18) (c : _) (i : Nat) (s : State), Owner p s ∧ s.lnd.busy = false ∧ s.ctx ctx.toNat = some c ∧ i = s.lnd.arg.toNat % 2048 ∧ c.d.linked = false ∧ i < c.d.members.length ∧ ((2 ≤ c.d.type.toNat → corrOne s.lnd.corr = true)) ∧ c.isWithdrawn i = false) ∧
    (∃ (p : HPort) (ctx : BitVec 18) (q : List Byte) (s : State), Owner p s ∧ s.lnd.busy = false ∧ q = queryBytes s ctx.toNat ∧ s.lnd.addr.toNat + q.length ≤ s.capacity) ∧
    (∃ (p : HPort) (ctx : BitVec 18) (c : _) (s : State), Owner p s ∧ s.lnd.busy = false ∧ s.ctx ctx.toNat = some c ∧ c.d.persist = false) :=
  ⟨⟨.ha, readDesc ld, descOf (readDesc ld), ld, ⟨by decide +kernel, by decide +kernel, by decide +kernel⟩, by decide +kernel, by decide +kernel, by decide +kernel, by decide +kernel, by decide +kernel⟩,
    ⟨.ha, 1, lc, ⟨by decide +kernel, by decide +kernel, by decide +kernel⟩, by decide +kernel, by decide +kernel, by decide +kernel, by decide +kernel⟩,
    ⟨.ha, 9, cx, { lc with lnd.held := [⟨9, 0, 0, [1, 2], 0, false⟩], clk := 77 }, ⟨by decide +kernel, by decide +kernel, by decide +kernel⟩, by decide +kernel, by decide +kernel⟩,
    ⟨.ha, 9, cx, 1, { lc with lnd.arg := 1 }, ⟨by decide +kernel, by decide +kernel, by decide +kernel⟩, by decide +kernel, by decide +kernel, by decide +kernel, by decide +kernel, by decide +kernel, by decide +kernel, by decide +kernel⟩,
    ⟨.ha, 9, queryBytes lc 9, lc, ⟨by decide +kernel, by decide +kernel, by decide +kernel⟩, by decide +kernel, by decide +kernel, by decide +kernel⟩,
    ⟨.ha, 9, cx, lc, ⟨by decide +kernel, by decide +kernel, by decide +kernel⟩, by decide +kernel, by decide +kernel, by decide +kernel⟩⟩
/-- The hypotheses of LandingDeliveryCompletes, clause by clause. -/
theorem test_met_LandingDeliveryCompletes :
    (∃ (packet : List Byte) (port : Port) (p : Pkt) (u : State) (c : Ctx) (i : Nat) (k : Nat) (j : Nat) (s : State), p = { h := hdrOf packet, payload := (packet.drop 32).take (hdrOf packet).len, tin := s.now, inPort := port.val, c2 := false, counted := false, cred := true } ∧ p.h.kind = 2 ∧ s.notAdmitted port.val p.h = none ∧ u = s.modLink port.val (fun l => { l with rxBal := tmod 0 l.rxBal p.h.tc (fun b => b - creditsOf p.inSize) }) ∧ s.ctx p.h.ctx = some c ∧ c.resident = true ∧ checkLand u c p = .contrib i k ∧ k < c.d.nch ∧ c.d.isFanout = false ∧ c.d.isCount = false ∧ c.d.linked = false ∧ j < c.d.members.length ∧ j ≠ i ∧ c.isWithdrawn j = false ∧ ((∀ n, j ∉ (c.chunk n).from_)) ∧ ((∀ n, (c.chunk n).running = none ∧ (c.chunk n).done = false))) ∧
    (∃ (packet : List Byte) (port : Port) (h : Hdr) (s : State), h = hdrOf packet ∧ h.kind = 2 ∧ s.notAdmitted port.val h = none ∧ s.ctx h.ctx = none ∧ s.lnd.tombs.any (fun t => t.ctx == h.ctx) = false ∧ (s.lnd.pool.filter (fun u => u.job == h.job)).length < s.eaq h.job ∧ s.lnd.pool.length < s.poolUnits) ∧
    (∃ (packet : List Byte) (port : Port) (h : Hdr) (s : State), h = hdrOf packet ∧ h.kind = 2 ∧ s.notAdmitted port.val h = none ∧ s.ctx h.ctx = none ∧ s.lnd.tombs.any (fun t => t.ctx == h.ctx) = true ∧ s.swc.capture = false) ∧
    (∃ (packet : List Byte) (port : Port) (h : Hdr) (code : Nat) (s : State), h = hdrOf packet ∧ h.kind = 2 ∧ s.notAdmitted port.val h = some code ∧ s.swc.capture = false) :=
  ⟨⟨lpk 9, 0, lp 9, lc.modLink 0 (fun l => { l with rxBal := tmod 0 l.rxBal (lp 9).h.tc (fun b => b - creditsOf (lp 9).inSize) }), cx, 1, 1, 0, lc, by decide +kernel, by decide +kernel, by decide +kernel, by decide +kernel, by decide +kernel, by decide +kernel, by rfl, by decide +kernel, by decide +kernel, by decide +kernel, by decide +kernel, by decide +kernel, by decide +kernel, by decide +kernel, by exact fun _ => (by decide : 0 ∉ ([] : List Nat)), by exact fun _ => ⟨rfl, rfl⟩⟩,
    ⟨lpk 10, 0, hdrOf (lpk 10), { lc with plt.plat.eap := 3 }, by decide +kernel, by decide +kernel, by decide +kernel, by decide +kernel, by decide +kernel, by decide +kernel, by decide +kernel⟩,
    ⟨lpk 10, 0, hdrOf (lpk 10), { lc with lnd.tombs := [⟨10, 0⟩] }, by decide +kernel, by decide +kernel, by decide +kernel, by decide +kernel, by decide +kernel, by decide +kernel⟩,
    ⟨lpk 10, 0, hdrOf (lpk 10), 22, { lc with glb.state := .ready }, by decide +kernel, by decide +kernel, by decide +kernel, by decide +kernel⟩⟩
/-- The hypotheses of LandingTimersComplete, clause by clause. -/
theorem test_met_LandingTimersComplete :
    (∃ (dt : Nat) (i : Nat) (h : HeldRes) (c : Ctx) (st : Stage) (g : GroupEnt) (r : Ent2) (q : Nat) (p : Pkt) (u : State) (s : State), u = elapse dt s ∧ s.lnd.held[i]? = some h ∧ h.hold = false ∧ h.notBefore ≤ u.now ∧ s.ctx h.ctx = some c ∧ c.d.type = 8 ∧ ((∃ j, j < c.d.members.length ∧ c.memberDone j = false ∧ (s.exact s.fwd.cur (c.d.members.getD j 0)).map (·.cordon) ≠ some true)) ∧ c.d.stages[h.stage]? = some st ∧ ((st.a = 0 ∨ st.a = 3)) ∧ g = tget GroupEnt.zero s.fwd.group (st.c.toNat % 65536) ∧ s.badAt 8 false (st.c.toNat % 65536) = false ∧ bitAt g.w0.toNat 31 = true ∧ fld g.w1.toNat 0 12 = 1 ∧ r = tget Ent2.zero s.fwd.repl (fld g.w0.toNat 0 22) ∧ s.badAt 9 false (fld g.w0.toNat 0 22) = false ∧ bitAt r.w1.toNat 31 = true ∧ s.badAt 6 s.fwd.cur r.w0.toNat = false ∧ s.exact s.fwd.cur r.w0 = none ∧ hopOf (fld r.w1.toNat 26 2) (fld r.w1.toNat 0 11) = .port q ∧ s.up q = true ∧ s.dist (districtOf q) ≠ .draining ∧ p = resultPkt u c h.pos (resultHdr u c h.pos st r.w0 h.payload.length) h.payload ∧ p.h.isSched = false ∧ s.fwd.mgmtEid ≠ 0 ∧ s.glb.state ≠ .cordoned ∧ s.roomFor q p.h.tc p.cells = true ∧ PlainSwitch s) ∧
    (∃ (dt : Nat) (i : Nat) (h : HeldRes) (s : State), s.lnd.held[i]? = some h ∧ ((h.hold = true ∨ (elapse dt s).now < h.notBefore))) ∧
    (∃ (dt : Nat) (ctx : BitVec 18) (c : Ctx) (t0 : Nat) (s : State), s.ctx ctx.toNat = some c ∧ c.timer = some t0 ∧ c.d.tmo ≠ 0 ∧ c.toFired = false ∧ c.d.tmo.toNat * 1000 ≤ s.clk + dt - t0 ∧ s.glb.state ≠ .quiesced ∧ s.glb.state ≠ .cordoned ∧ c.d.stagesOf 2 = []) ∧
    (∃ (ctx : BitVec 18) (c : Ctx) (j : Nat) (gone : Nat → Bool) (s : State), s.ctx ctx.toNat = some c ∧ c.d.isFanout = true ∧ j < c.d.members.length ∧ ((∀ i, gone i = true ↔ i < c.d.members.length ∧ c.memberDone i = false ∧ ∃ e, s.exact s.fwd.cur (c.d.members.getD i 0) = some e ∧ e.cordon = true)) ∧ c.memberDone j = false ∧ gone j = false) ∧
    (∃ (ctx : BitVec 18) (c : Ctx) (s : State), s.ctx ctx.toNat = some c ∧ c.restoring = true) :=
  ⟨⟨100, 0, ⟨9, 0, 0, [1, 2], 0, false⟩, fx, fst8, ⟨0x80000003, 1, 0, 0⟩, ⟨8, 0x80000004⟩, 4, resultPkt (elapse 100 lf) fx 0 (resultHdr (elapse 100 lf) fx 0 fst8 8 2) [1, 2], elapse 100 lf, lf, by decide +kernel, by decide +kernel, by decide +kernel, by decide +kernel, by decide +kernel, by decide +kernel, by exact ⟨1, by decide +kernel, by decide +kernel, by decide +kernel⟩, by decide +kernel, by decide +kernel, by decide +kernel, by decide +kernel, by decide +kernel, by decide +kernel, by decide +kernel, by decide +kernel, by decide +kernel, by decide +kernel, by decide +kernel, by decide +kernel, by decide +kernel, by decide +kernel, by decide +kernel, by decide +kernel, by decide +kernel, by decide +kernel, by decide +kernel, ⟨by decide +kernel, by decide +kernel, by decide +kernel, by decide +kernel⟩⟩,
    ⟨5, 0, ⟨9, 0, 0, [1, 2], 0, true⟩, { lc with lnd.held := [⟨9, 0, 0, [1, 2], 0, true⟩] }, by decide +kernel, by decide +kernel⟩,
    ⟨9000, 9, { cx with timer := some 1, d := { cx.d with tmo := 3 } }, 1, { lc with lnd.ctxs := [(9, some { cx with timer := some 1, d := { cx.d with tmo := 3 } })] }, by decide +kernel, by decide +kernel, by decide +kernel, by decide +kernel, by decide +kernel, by decide +kernel, by decide +kernel, by decide +kernel⟩,
    ⟨9, fx, 0, fun i => i == 1, lg, by decide +kernel, by decide +kernel, by decide +kernel, by exact lg_gone, by decide +kernel, by decide +kernel⟩,
    ⟨9, { cx with restoring := true, resident := false }, { lc with lnd.ctxs := [(9, some { cx with restoring := true, resident := false })] }, by decide +kernel, by decide +kernel⟩⟩
end Sys2Proof.Tests.W12
namespace Sys2Proof.Tests.W13
def lnz : State := { up with plt.plat.ports := [(0, 0x33F00000), (4, 0x10000000)], lnk := [(0, { upLink with txact := 15, rxact := 15 }), (4, upLink)] }
def ln (v : Lane) : State := { lnz with srd := [(1, v)] }
def hunting : Lane := { Lane.reset with st := .hunt }
def lockd : Lane := { Lane.reset with st := .locked, run := 64 }
def atLock (v : Lane) : State := { ln v with lnk := [(0, { upLink with st := .lock })] }
/-- A calibration image of zeros behind a header with this CRC, in the mailbox buffer. -/
def calAt (c : Nat) : State :=
  { up with ram := [(0, 0x53), (1, 0x4C), (2, 0x41), (3, 0x43), (4, 1), (60, BitVec.ofNat 8 c), (61, BitVec.ofNat 8 (c / 256)),
      (62, BitVec.ofNat 8 (c / 256 / 256)), (63, BitVec.ofNat 8 (c / 256 / 256 / 256))] }
theorem calAt_crc (c : Nat) : u32At (rdMem (calAt c) 0 64) 60 = leNat (toLE 4 c) := by rfl
theorem calAt_split (c : Nat) : rdMem (calAt c) 0 49152 = rdMem (calAt c) 0 64 ++ zeros 49088 := by
  rw [show 49152 = 64 + 49088 from rfl, rdMem_append, rdMem_zeros (a := 0 + 64)]
  intro i _
  simp only [calAt, tget, Nat.zero_add]
  repeat rw [if_neg (by omega)]
theorem calAt_valid : calValid (rdMem (calAt (crc32c (zeros 49088))) 0 49152) = true := by
  rw [calAt_split]
  have l : (rdMem (calAt (crc32c (zeros 49088))) 0 64).length = 64 := length_rdMem ..
  have h := calAt_crc (crc32c (zeros 49088))
  rw [leNat_toLE, Nat.mod_eq_of_lt (by have := crc32c_lt (zeros 49088); omega)] at h
  unfold calValid u32At u16At at *
  rw [leAt_append_left (by omega), leAt_append_left (by omega), leAt_append_left (by omega), h, List.drop_left' l]
  generalize crc32c (zeros 49088) = c
  have h0 : leAt (rdMem (calAt c) 0 64) 0 4 = leNat [0x53, 0x4C, 0x41, 0x43] := by rfl
  have h1 : leAt (rdMem (calAt c) 0 64) 4 2 = leNat [1, 0] := by rfl
  simp [h0, h1, leNat]
theorem calAt_devid (c : Nat) : u64At (rdMem (calAt c) 0 49152) 8 = (calAt c).nv.devid.toNat := by
  rw [calAt_split, u64At, leAt_append_left (by simp)]
  have h : slice (rdMem (calAt c) 0 64) 8 8 = zeros 8 := by rfl
  rw [leAt, h]
  exact (by decide +kernel : leNat (zeros 8) = up.nv.devid.toNat)
/-- The hypotheses of LaneReceiversComplete, clause by clause. -/
theorem test_met_LaneReceiversComplete :
    (∃ (l : LaneNo) (x : Symbols) (v : Lane) (s : State), v = s.lane l.val ∧ s.laneBuilt l.val = true ∧ v.st = .hunt ∧ v.run < 64 ∧ v.exit = none ∧ v.retain = false ∧ (v.decode x).1 = .invalid) ∧
    (∃ (l : LaneNo) (x : Symbols) (v : Lane) (s : State), v = s.lane l.val ∧ s.laneBuilt l.val = true ∧ v.st = .hunt ∧ v.run < 63 ∧ v.exit = none ∧ v.retain = false ∧ (v.decode x).1 ≠ .invalid) ∧
    (∃ (l : LaneNo) (x : Symbols) (v : Lane) (s : State), v = s.lane l.val ∧ s.laneBuilt l.val = true ∧ v.st = .hunt ∧ v.run = 63 ∧ v.exit = none ∧ v.retain = false ∧ (v.decode x).1 ≠ .invalid ∧ ((∀ p, s.portOfLane l.val = some p → s.up p = false))) ∧
    (∃ (l : LaneNo) (x : Symbols) (v : Lane) (s : State), v = s.lane l.val ∧ s.laneBuilt l.val = true ∧ v.st = .locked ∧ 64 ≤ v.run ∧ v.exit = none ∧ v.retain = false ∧ (v.decode x).1 = .other ∧ (v.decode x).2.1 ≤ 8 ∧ popcount (BitVec.shiftLeft v.hist 1).toNat 64 < 8) ∧
    (∃ (l : LaneNo) (v : Lane) (s : State), v = s.lane l.val ∧ s.laneBuilt l.val = true ∧ v.st = .hunt ∧ v.run < 64 ∧ v.exit = none ∧ ((∀ p, s.portOfLane l.val = some p → s.up p = false))) ∧
    (∃ (l : LaneNo) (x : Symbols) (b : DWord) (v : Lane) (s : State), v = s.lane l.val ∧ s.answersEq l.val = true ∧ v.st ≠ .off ∧ 64 ≤ v.run ∧ v.exit = none ∧ v.retain = false ∧ (v.decode x).1 = .eq b ∧ popcount (BitVec.shiftLeft v.hist 1).toNat 64 < 8 ∧ bitAt b.toNat 9 = false ∧ ((v.applied = false ∨ v.aecho ≠ BitVec.ofNat 4 (fld b.toNat 10 4)))) ∧
    (∃ (dt : Nat) (p : Port) (i : Fin 8) (l : _) (v : Lane) (s : State), l = p.val + i.val ∧ i.val < s.width p.val ∧ v = s.lane l ∧ v.done = false ∧ 64 ≤ v.run ∧ v.st = .locked ∧ ((16 ≤ v.fails ∨ 1000000000 ≤ s.clk + dt - v.tuneAt))) ∧
    (∃ (l : LaneNo) (x : _) (v : Lane) (s : State), v = s.lane l.val ∧ v.st = .locked ∧ 64 ≤ v.run ∧ v.exit = none ∧ v.retain = false ∧ (v.decode x).1 = .idle ∧ popcount (BitVec.shiftLeft v.hist 1).toNat 64 < 8 ∧ ((∃ p, s.portOfLane l.val = some p ∧ s.up p = false))) ∧
    (∃ (dt : Nat) (l : LaneNo) (v : Lane) (s : State), v = s.lane l.val ∧ v.retain = true ∧ v.exit = none ∧ 1000000000 ≤ s.clk + dt - v.idleAt ∧ ((∀ p, s.portOfLane l.val = some p → (s.link p).st ≠ .lock))) ∧
    (∃ (p : Port) (i : Fin 8) (l : _) (v : Lane) (s : State), l = p.val + i.val ∧ i.val < s.width p.val ∧ v = s.lane l ∧ v.st = .idle ∧ v.retain = true) ∧
    (∃ (l : LaneNo) (x : Symbols) (v : Lane) (s : State), v = s.lane l.val ∧ v.st = .idle ∧ v.exit = some 0 ∧ (v.decode x).1 = .other ∧ ((∃ p, s.portOfLane l.val = some p ∧ s.up p = false))) ∧
    (∃ (l : LaneNo) (x : Symbols) (k : Nat) (v : Lane) (s : State), v = s.lane l.val ∧ v.st = .idle ∧ v.exit = some k ∧ (v.decode x).1 = .invalid ∧ ((∃ p, s.portOfLane l.val = some p ∧ (s.link p).st = .down))) :=
  ⟨⟨1, 0, hunting, ln hunting, by decide +kernel, by decide +kernel, by decide +kernel, by decide +kernel, by decide +kernel, by decide +kernel, by decide +kernel⟩,
    ⟨1, cw fillBlocks, { hunting with run := 62 }, ln { hunting with run := 62 }, by decide +kernel, by decide +kernel, by decide +kernel, by decide +kernel, by decide +kernel, by decide +kernel, by decide +kernel⟩,
    ⟨1, ~~~(cw fillBlocks), { hunting with run := 63, cand := 3000 }, { atLock { hunting with run := 63, cand := 3000 } with lnk := [] }, by decide +kernel, by decide +kernel, by decide +kernel, by decide +kernel, by decide +kernel, by decide +kernel, by decide +kernel, by decide +kernel⟩,
    ⟨1, cw fillBlocks, { lockd with hist := 0x3E }, ln { lockd with hist := 0x3E }, by decide +kernel, by decide +kernel, by decide +kernel, by decide +kernel, by decide +kernel, by decide +kernel, by decide +kernel, by decide +kernel, by decide +kernel⟩,
    ⟨1, { hunting with run := 5 }, { ln { hunting with run := 5 } with lnk := [] }, by decide +kernel, by decide +kernel, by decide +kernel, by decide +kernel, by decide +kernel, by decide +kernel⟩,
    ⟨1, cw (eqBlocks 0x440CF2), 0x440CF2, { lockd with taps := ⟨0, 0xF8, 0xFC, 0⟩ }, { ln { lockd with taps := ⟨0, 0xF8, 0xFC, 0⟩ } with lnk := [(0, { upLink with txact := 13, rxact := 15 })] }, by decide +kernel, by decide +kernel, by decide +kernel, by decide +kernel, by decide +kernel, by decide +kernel, by decide +kernel, by decide +kernel, by decide +kernel, by decide +kernel⟩,
    ⟨10, 0, 1, 1, { lockd with fails := 16 }, ln { lockd with fails := 16 }, by decide +kernel, by decide +kernel, by decide +kernel, by decide +kernel, by decide +kernel, by decide +kernel, by decide +kernel⟩,
    ⟨1, cw idleBlocks, { lockd with cand := 5 }, { ln { lockd with cand := 5 } with lnk := [] }, by decide +kernel, by decide +kernel, by decide +kernel, by decide +kernel, by decide +kernel, by decide +kernel, by decide +kernel, by exact ⟨0, by decide +kernel, by decide +kernel⟩⟩,
    ⟨1000000010, 1, { hunting with retain := true, st := .idle, idleAt := 5 }, ln { hunting with retain := true, st := .idle, idleAt := 5 }, by decide +kernel, by decide +kernel, by decide +kernel, by decide +kernel, by decide +kernel⟩,
    ⟨0, 1, 1, { Lane.reset with st := .idle, retain := true, kept := 77 }, atLock { Lane.reset with st := .idle, retain := true, kept := 77 }, by decide +kernel, by decide +kernel, by decide +kernel, by decide +kernel, by decide +kernel⟩,
    ⟨1, cw fillBlocks, { Lane.reset with st := .idle, retain := true, exit := some 0 }, atLock { Lane.reset with st := .idle, retain := true, exit := some 0 }, by decide +kernel, by decide +kernel, by decide +kernel, by decide +kernel, by exact ⟨0, by decide +kernel, by decide +kernel⟩⟩,
    ⟨1, 0, 3, { Lane.reset with st := .idle, retain := true, exit := some 3 }, { ln { Lane.reset with st := .idle, retain := true, exit := some 3 } with lnk := [] }, by decide +kernel, by decide +kernel, by decide +kernel, by decide +kernel, by exact ⟨0, by decide +kernel, by decide +kernel⟩⟩⟩
/-- The hypotheses of LaneMaintenanceCompletes, clause by clause. -/
theorem test_met_LaneMaintenanceCompletes :
    (∃ (p : HPort) (l : LaneNo) (q : Nat) (r : RecalResult) (s : State), Owner p s ∧ s.portOfLane l.val = some q ∧ recalRefusal s q l.val = some r ∧ (s.lane l.val).recal ≠ .running) ∧
    (∃ (p : HPort) (l : LaneNo) (q : Nat) (s : State), Owner p s ∧ s.portOfLane l.val = some q ∧ q ≤ l.val ∧ recalRefusal s q l.val = none ∧ s.caseA q (l.val - q) = true) ∧
    (∃ (l : LaneNo) (v : Lane) (s : State), v = s.lane l.val ∧ v.recal = .running ∧ v.st = .recal ∧ v.passMet = true) ∧
    (∃ (dt : Nat) (l : LaneNo) (v : Lane) (s : State), v = s.lane l.val ∧ v.recal = .running ∧ v.st = .recal ∧ v.passMet = false ∧ ((v.passBad = true ∨ 200000000 ≤ s.clk + dt - v.passAt))) ∧
    (∃ (dt : Nat) (l : LaneNo) (v : Lane) (s : State), v = s.lane l.val ∧ v.recal = .running ∧ v.st = .recal ∧ v.passMet = false ∧ ((v.passBad = true ∨ 200000000 ≤ s.clk + dt - v.passAt))) ∧
    (∃ (p : HPort) (c : Fin 8) (v : Word) (s : State), Owner p s ∧ (s.eyeOf c.val).busy = false ∧ bitAt v.toNat 1 = false ∧ s.laneBuilt (256 * c.val + fld v.toNat 8 8) = true) ∧
    (∃ (p : HPort) (c : Fin 8) (s : State), Owner p s ∧ (s.eyeOf c.val).busy = true) ∧
    (∃ (dt : Nat) (c : Fin 8) (lane : Byte) (s : State), (s.eyeOf c.val).busy = true ∧ (s.eyeOf c.val).scan = 256 * c.val + lane.toNat ∧ eyePoints (s.eyeOf c.val) (s.clk + dt) = 4096) :=
  ⟨⟨.ha, 1, 0, .notUp, { ln lockd with lnk := [] }, ⟨by decide +kernel, by decide +kernel, by decide +kernel⟩, by decide +kernel, by decide +kernel, by decide +kernel⟩,
    ⟨.ha, 1, 0, { ln lockd with lnk := [(0, { upLink with txact := 15, rxact := 15, caps := 63 })] }, ⟨by decide +kernel, by decide +kernel, by decide +kernel⟩, by decide +kernel, by decide +kernel, by decide +kernel, by decide +kernel⟩,
    ⟨1, { lockd with recal := .running, st := .recal, passes := 2, passN := 200000, done := true }, ln { lockd with recal := .running, st := .recal, passes := 2, passN := 200000, done := true }, by decide +kernel, by decide +kernel, by decide +kernel, by decide +kernel⟩,
    ⟨200000000, 1, { lockd with recal := .running, st := .recal, passes := 2 }, ln { lockd with recal := .running, st := .recal, passes := 2 }, by decide +kernel, by decide +kernel, by decide +kernel, by decide +kernel, by decide +kernel⟩,
    ⟨200000000, 1, { lockd with recal := .running, st := .recal, passes := 1 }, ln { lockd with recal := .running, st := .recal, passes := 1 }, by decide +kernel, by decide +kernel, by decide +kernel, by decide +kernel, by decide +kernel⟩,
    ⟨.ha, 0, 0x03800100, ln lockd, ⟨by decide +kernel, by decide +kernel, by decide +kernel⟩, by decide +kernel, by decide +kernel, by decide +kernel⟩,
    ⟨.ha, 0, { up with eye := [(0, { Eye.reset with busy := true, ptFs := 200000000, startAt := 3 }), (1, { Eye.reset with busy := true })], clk := 1003 }, ⟨by decide +kernel, by decide +kernel, by decide +kernel⟩, by decide +kernel⟩,
    ⟨819200, 0, 0, { up with eye := [(0, { Eye.reset with busy := true, ptFs := 200000000, startAt := 3 })], clk := 1003 }, by decide +kernel, by decide +kernel, by decide +kernel⟩⟩
/-- The hypotheses of ServiceLanesComplete, clause by clause. -/
theorem test_met_ServiceLanesComplete :
    (∃ (n : Fin 80) (bits : List Bool) (s : State), (s.svcLane n.val).st = .aligning ∧ (s.svcLane n.val).commas = 0 ∧ (s.svcLane n.val).win = 0 ∧ bits = [false, false, true, true, true, true, true, false, true, false] ++ [true, true, false, false, false, false, false, true, false, true] ++ [false, false, true, true, true, true, true, false, true, false]) ∧
    (∃ (n : Fin 80) (s : State), (s.svcLane n.val).st = .aligned ∧ (s.svcLane n.val).bad = 0 ∧ (s.svcLane n.val).ph = (s.svcLane n.val).at_ ∧ (s.svcLane n.val).at_.toNat < 10) ∧
    (∃ (n : Fin 80) (codes : List Code) (why : SvcDiscard) (s : State), (s.svcLane n.val).st = .aligned ∧ s.heard n.val codes = .bad why) ∧
    (∃ (n : Fin 80) (codes : List Code) (why : SvcDiscard) (s : State), (s.svcLane n.val).st = .aligned ∧ s.heard n.val codes = .bad why) ∧
    (∃ (n : Fin 80) (codes : List Code) (why : SvcDiscard) (s : State), (s.svcLane n.val).st = .aligned ∧ s.heard n.val codes = .bad why) ∧
    (∃ (n : Fin 80) (s : State), (s.svcLane n.val).st ≠ .off) ∧
    (∃ (p : HPort) (s : State), Owner p s ∧ s.hst.mbBusy = false ∧ s.nv.cal ≠ []) ∧
    (∃ (p : HPort) (adapted : _) (b : _) (s : State), Owner p s ∧ s.hst.mbBusy = false ∧ b = captureImage s adapted) ∧
    (∃ (p : HPort) (head : _) (n : _) (b : _) (s : State), Owner p s ∧ s.hst.mbBusy = false ∧ head = rdMem s s.hst.mbBuf.toNat 64 ∧ u32At head 0 = 0x43414C53 ∧ u16At head 4 = 1 ∧ n = calLength head ∧ n ≤ 131072 ∧ b = rdMem s s.hst.mbBuf.toNat n ∧ calValid b = true ∧ u64At b 8 = s.nv.devid.toNat) :=
  ⟨⟨3, [false, false, true, true, true, true, true, false, true, false] ++ [true, true, false, false, false, false, false, true, false, true] ++ [false, false, true, true, true, true, true, false, true, false], { up with svc := [(3, { Svc.reset with st := .aligning })] }, by decide +kernel, by decide +kernel, by decide +kernel, by decide +kernel⟩,
    ⟨3, { up with svc := [(3, { Svc.reset with st := .aligned })] }, by decide +kernel, by decide +kernel, by decide +kernel, by decide +kernel⟩,
    ⟨3, (encodeAll false [Char10.start]).1 ++ [0x3FF], .badChar, { up with svc := [(3, { Svc.reset with st := .aligned })] }, by decide +kernel, by decide +kernel⟩,
    ⟨3, (encodeAll false [Char10.start, Char10.abort]).1, .abort, { up with svc := [(3, { Svc.reset with st := .aligned })] }, by decide +kernel, by decide +kernel⟩,
    ⟨3, (encodeAll false ([Char10.start] ++ (zeros 8).map (fun b => ⟨false, b⟩) ++ [Char10.stop])).1, .crc, { up with svc := [(3, { Svc.reset with st := .aligned })] }, by decide +kernel, by decide +kernel⟩,
    ⟨3, { up with svc := [(3, { Svc.reset with st := .aligned })] }, by decide +kernel⟩,
    ⟨.ha, { up with nv.cal := [1, 2, 3], hst.mbBuf := 16 }, ⟨by decide +kernel, by decide +kernel, by decide +kernel⟩, by decide +kernel, by decide +kernel⟩,
    ⟨.ha, [(1, [7, 8])], captureImage (ln lockd) [(1, [7, 8])], ln lockd, ⟨by decide +kernel, by decide +kernel, by decide +kernel⟩, by decide +kernel, by rfl⟩,
    ⟨.ha, rdMem (calAt (crc32c (zeros 49088))) 0 64, 49152, rdMem (calAt (crc32c (zeros 49088))) 0 49152, calAt (crc32c (zeros 49088)), ⟨by decide +kernel, by decide +kernel, by decide +kernel⟩, by decide +kernel, by rfl, by decide +kernel, by decide +kernel, by decide +kernel, by decide +kernel, by rfl, by exact calAt_valid, by exact calAt_devid _⟩⟩
end Sys2Proof.Tests.W13
namespace Sys2Proof.Tests.W14
def lockd : Lane := { Lane.reset with st := .locked, run := 64 }
def lk (l : Link) : State := { up with plt.plat.ports := [(0, 0x33F00000)], lnk := [(0, l)], srd := [(0, lockd), (1, lockd), (2, lockd), (3, lockd)] }
def ul : Link := { upLink with txact := 15, rxact := 15 }
def crcd (b : List Byte) : List Byte := fit 636 b ++ toLE 4 (crc32c (fit 636 b))
def one (l : Link) : State := { lk l with srd := [(0, { lockd with txIdle := true }), (1, { lockd with txIdle := true }), (2, lockd), (3, { lockd with txIdle := true })] }
/-- Data frame 5, its payload zeros, and a control frame that grants class 2 credit. -/
def fr5 : List Byte := [5, 0, 0, 0x10] ++ zeros 632 ++ toLE 4 132411059
def frC : List Byte := [0, 0, 0, 0, 0, 0, 0, 0, 0, 0x60, 0x46, 0x40] ++ zeros 624 ++ toLE 4 1583975271
theorem crc_step {c c' d : Nat} (n : Nat) (h : crcR 0x82F63B78 c (zeros 100) = c') (k : crcR 0x82F63B78 c' (zeros n) = d) :
    crcR 0x82F63B78 c (zeros (100 + n)) = d := by
  have e : zeros (100 + n) = zeros 100 ++ zeros n := List.replicate_append_replicate.symm
  rw [e, crcR, List.foldl_append]
  exact (congrArg (fun x => crcR 0x82F63B78 x (zeros n)) h).trans k
theorem crc_head {c d : Nat} (x y : List Byte) (h : crcR 0x82F63B78 0xFFFFFFFF x = c) (k : crcR 0x82F63B78 c y = d) :
    crc32c (x ++ y) = Nat.xor d 0xFFFFFFFF := by
  have e : crcR 0x82F63B78 0xFFFFFFFF (x ++ y) = d := by
    rw [crcR, List.foldl_append]
    exact (congrArg (fun z => crcR 0x82F63B78 z y) h).trans k
  rw [crc32c, e]
theorem fr5_crc : crc32c ([5, 0, 0, 0x10] ++ zeros 632) = 132411059 := by
  have h := crc_head [5, 0, 0, 0x10] (zeros 632) (by decide +kernel : _ = 27387932)
    (crc_step 532 (by decide +kernel : _ = 4165670911) (crc_step 432 (by decide +kernel : _ = 1881001773) (crc_step 332 (by decide +kernel : _ = 1105124417) (crc_step 232 (by decide +kernel : _ = 3788653960) (crc_step 132 (by decide +kernel : _ = 3084985713) (crc_step 32 (by decide +kernel : _ = 1040886991) (by decide +kernel : _ = 4162556236)))))))
  rw [h]; decide
theorem frC_crc : crc32c ([0, 0, 0, 0, 0, 0, 0, 0, 0, 0x60, 0x46, 0x40] ++ zeros 624) = 1583975271 := by
  have h := crc_head [0, 0, 0, 0, 0, 0, 0, 0, 0, 0x60, 0x46, 0x40] (zeros 624) (by decide +kernel : _ = 622705637)
    (crc_step 524 (by decide +kernel : _ = 3913094641) (crc_step 424 (by decide +kernel : _ = 526962998) (crc_step 324 (by decide +kernel : _ = 1297760565) (crc_step 224 (by decide +kernel : _ = 3193912329) (crc_step 124 (by decide +kernel : _ = 1376813903) (crc_step 24 (by decide +kernel : _ = 4106601797) (by decide +kernel : _ = 2710992024)))))))
  rw [h]; decide
/-- A frame is 640 bytes, its CRC over the first 636. -/
theorem framed640 {x : List Byte} {n c : Nat} (hx : x.length + n = 636) (hc : c < 2 ^ 32) (h : crc32c (x ++ zeros n) = c) :
    (x ++ zeros n ++ toLE 4 c).length = 640 ∧ u32At (x ++ zeros n ++ toLE 4 c) 636 = crc32c ((x ++ zeros n ++ toLE 4 c).take 636) := by
  have l : (x ++ zeros n).length = 636 := by simp only [List.length_append, zeros, List.length_replicate, hx]
  refine ⟨by simp only [List.length_append (bs := toLE 4 c), l, toLE_length], ?_⟩
  have a := leAt_append (x ++ zeros n) (toLE 4 c) [] 4 (toLE_length 4 c)
  rw [List.append_nil, l, leNat_toLE, Nat.mod_eq_of_lt (by omega)] at a
  rw [u32At, a, List.take_left' l, h]
theorem fr5_ok : fr5.length = 640 ∧ u32At fr5 636 = crc32c (fr5.take 636) := framed640 (by decide) (by decide) fr5_crc
theorem frC_ok : frC.length = 640 ∧ u32At frC 636 = crc32c (frC.take 636) := framed640 (by decide) (by decide) frC_crc
theorem fr5_zeros : slice fr5 16 620 = zeros 620 := by
  have l : (zeros 620).length = 620 := List.length_replicate
  have e : fr5.drop 16 = zeros 620 ++ toLE 4 132411059 := rfl
  rw [slice, e, List.take_left' l]
  show zeros 620 ++ List.replicate (620 - (zeros 620).length) 0 = _
  rw [l]
  simp
/-- What a decoded codeword holds, tested byte by byte. -/
def holds (x : Symbols) (b : List Byte) : Bool :=
  match lockd.decode x with
  | (.frame c, n, _) => c == b && decide (n ≤ 8)
  | _ => false
theorem of_holds {x : Symbols} {b : List Byte} (h : holds x b = true) : (lockd.decode x).1 = .frame b ∧ (lockd.decode x).2.1 ≤ 8 := by
  unfold holds at h
  split at h
  · next e => rw [e]; simp at h; exact ⟨by rw [h.1], h.2⟩
  · cases h
/-- A lane in lock reads what a codeword holds; the codeword is decoded once, for every state that has the lane. -/
theorem reads_lockd {s : State} {p i : Nat} {x : Symbols} {c : Content} (h1 : i < s.width p) (h2 : s.portOfLane (p + i) = some p)
    (h3 : s.lane (p + i) = lockd) (h4 : (lockd.decode x).1 = c ∧ (lockd.decode x).2.1 ≤ 8) : Reads s p i x c := by
  refine ⟨h1, h2, ?_, ?_, ?_, ?_, ?_, ?_, ?_⟩ <;> rw [h3]
  · rfl
  · decide
  · rfl
  · rfl
  · exact h4.1
  · exact fun _ => h4.2
  · split <;> decide
theorem fr5_read : (lockd.decode (cw (frameBlocks fr5))).1 = .frame fr5 ∧ (lockd.decode (cw (frameBlocks fr5))).2.1 ≤ 8 := of_holds (by decide +kernel)
theorem frC_read : (lockd.decode (cw (frameBlocks frC))).1 = .frame frC ∧ (lockd.decode (cw (frameBlocks frC))).2.1 ≤ 8 := of_holds (by decide +kernel)
theorem zero_read : (lockd.decode 0).1 = .invalid ∧ (lockd.decode 0).2.1 ≤ 8 := by decide +kernel
/-- The hypotheses of LinkFramesComplete, clause by clause. -/
theorem test_met_LinkFramesComplete :
    (∃ (p : Port) (i : Nat) (s : State), (s.link p.val).isUp = true ∧ OnlyLane s p.val i ∧ (s.lane (p.val + i)).st ≠ .recal ∧ (s.link p.val).replay = [] ∧ (s.link p.val).txRest = [] ∧ (s.link p.val).txPkts = []) ∧
    (∃ (p : Port) (i : Nat) (o : Pkt) (k : List Byte) (s : State), (s.link p.val).isUp = true ∧ OnlyLane s p.val i ∧ (s.link p.val).replay = [] ∧ (s.link p.val).txRest = [] ∧ (s.link p.val).txPkts = [(o, k)] ∧ k.length ≤ 620 ∧ (s.link p.val).unacked.length < s.retryFrames p.val) ∧
    (∃ (p : Port) (i : Fin 8) (x : Symbols) (s : State), (s.link p.val).isUp = true ∧ (s.link p.val).rxact.getLsbD i.val = true ∧ Reads s p.val i.val x .invalid) ∧
    (∃ (p : Port) (i : Fin 8) (s : State), (s.link p.val).isUp = true ∧ (s.link p.val).rxact.getLsbD i.val = true ∧ i.val < s.width p.val ∧ s.portOfLane (p.val + i.val) = some p.val) ∧
    (∃ (p : Port) (i : Fin 8) (x : Symbols) (b : List Byte) (f : Half) (s : State), (s.link p.val).isUp = true ∧ (s.link p.val).rxact.getLsbD i.val = true ∧ Reads s p.val i.val x (.frame b) ∧ b.length = 640 ∧ u32At b 636 = crc32c (b.take 636) ∧ fld (u32At b 0) 28 4 = 1 ∧ f = BitVec.ofNat 16 (u32At b 0) ∧ (s.link p.val).unacked = [] ∧ (s.link p.val).nak = false ∧ f ≠ (s.link p.val).expect ∧ (f - (s.link p.val).expect).toNat < 32768 ∧ (s.link p.val).early = []) ∧
    (∃ (p : Port) (i : Fin 8) (x : Symbols) (b : List Byte) (s : State), (s.link p.val).isUp = true ∧ (s.link p.val).rxact.getLsbD i.val = true ∧ Reads s p.val i.val x (.frame b) ∧ b.length = 640 ∧ u32At b 636 = crc32c (b.take 636) ∧ fld (u32At b 0) 28 4 = 1 ∧ BitVec.ofNat 16 (u32At b 0) = (s.link p.val).expect ∧ (s.link p.val).unacked = [] ∧ (s.link p.val).early = [] ∧ (s.link p.val).rxStream = [] ∧ slice b 16 620 = zeros 620) ∧
    (∃ (p : Port) (i : Fin 8) (x : Symbols) (b : List Byte) (tc : Nat) (s : State), (s.link p.val).isUp = true ∧ (s.link p.val).rxact.getLsbD i.val = true ∧ Reads s p.val i.val x (.frame b) ∧ b.length = 640 ∧ u32At b 636 = crc32c (b.take 636) ∧ fld (u32At b 0) 28 4 = 0 ∧ (s.link p.val).unacked = [] ∧ tc = fld (u32At b 8) 29 3 ∧ fld (u32At b 8) 13 3 ≠ tc ∧ creditClass tc = true) ∧
    (∃ (dt : Nat) (p : Port) (f : DataFrame) (rest : List DataFrame) (s : State), (s.link p.val).unacked = f :: rest ∧ (s.link p.val).replayFrom = f.fseq ∧ 1 ≤ (s.link p.val).replays ∧ (s.link p.val).replays < 15 ∧ 2 * (s.link p.val).rtt.toNat ≤ s.clk + dt - (s.link p.val).replayAt) ∧
    (∃ (dt : Nat) (p : Port) (s : State), (s.link p.val).isUp = true ∧ (s.link p.val).unacked ≠ [] ∧ 100000 ≤ s.clk + dt - (s.link p.val).ackAt ∧ s.opt.fly = []) ∧
    (∃ (dt : Nat) (p : Port) (e : DataFrame × Nat) (s : State), e ∈ (s.link p.val).early ∧ 100 ≤ s.clk + dt - e.2) :=
  ⟨⟨0, 2, one { ul with txact := 4 }, by decide +kernel, ⟨by decide +kernel, by decide +kernel, by decide +kernel⟩, by decide +kernel, by decide +kernel, by decide +kernel, by decide +kernel⟩,
    ⟨0, 2, pk, [1, 2, 3], one { ul with txact := 4, txPkts := [(pk, [1, 2, 3])], nextFseq := 9 }, by decide +kernel, ⟨by decide +kernel, by decide +kernel, by decide +kernel⟩, by decide +kernel, by decide +kernel, by decide +kernel, by decide +kernel, by decide +kernel⟩,
    ⟨0, 2, 0, lk { ul with early := [(⟨7, 0, []⟩, 3)] }, by decide +kernel, by decide +kernel, by exact reads_lockd (by decide +kernel) (by decide +kernel) (by decide +kernel) zero_read⟩,
    ⟨0, 2, lk { ul with early := [(⟨7, 0, []⟩, 3)] }, by decide +kernel, by decide +kernel, by decide +kernel, by decide +kernel⟩,
    ⟨0, 2, cw (frameBlocks fr5), fr5, 5, lk { ul with expect := 3 }, by decide +kernel, by decide +kernel, by exact reads_lockd (by decide +kernel) (by decide +kernel) (by decide +kernel) fr5_read, by exact fr5_ok.1, by exact fr5_ok.2, by decide +kernel, by decide +kernel, by decide +kernel, by decide +kernel, by decide +kernel, by decide +kernel, by decide +kernel⟩,
    ⟨0, 2, cw (frameBlocks fr5), fr5, lk { ul with expect := 5 }, by decide +kernel, by decide +kernel, by exact reads_lockd (by decide +kernel) (by decide +kernel) (by decide +kernel) fr5_read, by exact fr5_ok.1, by exact fr5_ok.2, by decide +kernel, by decide +kernel, by decide +kernel, by decide +kernel, by decide +kernel, by exact fr5_zeros⟩,
    ⟨0, 2, cw (frameBlocks frC), frC, 2, lk { ul with expect := 3, seen := [(2, 8190)], txBal := [(2, 4)] }, by decide +kernel, by decide +kernel, by exact reads_lockd (by decide +kernel) (by decide +kernel) (by decide +kernel) frC_read, by exact frC_ok.1, by exact frC_ok.2, by decide +kernel, by decide +kernel, by decide +kernel, by decide +kernel, by decide +kernel⟩,
    ⟨1000, 0, ⟨4, 0, []⟩, [⟨5, 0, []⟩], lk { ul with unacked := [⟨4, 0, []⟩, ⟨5, 0, []⟩], replayFrom := 4, replays := 3, rtt := 100 }, by decide +kernel, by decide +kernel, by decide +kernel, by decide +kernel, by decide +kernel⟩,
    ⟨100000, 0, lk { ul with unacked := [⟨4, 0, []⟩, ⟨5, 0, []⟩] }, by decide +kernel, by decide +kernel, by decide +kernel, by decide +kernel⟩,
    ⟨100, 0, (⟨4, 0, []⟩, 0), lk { ul with early := [(⟨4, 0, []⟩, 0)] }, by decide +kernel, by decide +kernel⟩⟩
/-- The hypotheses of LinkTrainingCompletes, clause by clause. -/
theorem test_met_LinkTrainingCompletes :
    (∃ (p : Port) (lane : Fin 8) (b : List Byte) (v : Nat) (s : State), (s.link p.val).st = .hello ∧ u8At b 0 = 1 ∧ lane.val < s.width p.val ∧ u8At b 5 < s.width p.val ∧ u8At b 1 ≠ 1 ∧ u8At b 4 = s.width p.val ∧ commonVersion (s.verRange p.val).1 (s.verRange p.val).2 (u8At b 2) (u8At b 1) = some v ∧ popcount (setBit (s.link p.val).heard (u8At b 5) true).toNat 8 = ((s.lanesOf p.val).filter (fun k => (s.lane k).st != .retired)).length ∧ u64At b 28 ≠ 0) ∧
    (∃ (p : Port) (lane : Fin 8) (b : List Byte) (s : State), (s.link p.val).st = .hello ∧ u8At b 0 = 1 ∧ lane.val < s.width p.val ∧ s.opt.fly = []) ∧
    (∃ (p : Port) (lane : Fin 8) (b : List Byte) (s : State), (s.link p.val).st = .hello ∧ u8At b 0 = 1 ∧ lane.val < s.width p.val ∧ s.opt.fly = []) ∧
    (∃ (p : Port) (lane : Fin 8) (b : List Byte) (s : State), (s.link p.val).st = .hello ∧ u8At b 0 = 1 ∧ lane.val < s.width p.val ∧ s.opt.fly = []) ∧
    (∃ (p : Port) (b : List Byte) (s : State), (s.link p.val).st = .config ∧ u8At b 0 = 2 ∧ s.opt.fly = []) ∧
    (∃ (p : Port) (b : List Byte) (s : State), (s.link p.val).st = .config ∧ u8At b 0 = 2 ∧ s.opt.fly = []) ∧
    (∃ (p : Port) (b : List Byte) (s : State), (s.link p.val).st = .credit ∧ u8At b 0 = 3 ∧ s.opt.fly = []) ∧
    (∃ (p : Port) (b : List Byte) (s : State), (s.link p.val).st = .credit ∧ u8At b 0 = 3 ∧ s.opt.fly = []) ∧
    (∃ (s : State), s.opt.fly = []) ∧
    (∃ (s : State), s.opt.fly = []) ∧
    (∃ (s : State), s.opt.fly = []) ∧
    (∃ (s : State), s.opt.fly = []) ∧
    (∃ (dt : Nat) (p : Port) (s : State), (s.link p.val).st = .down ∧ (s.link p.val).wait ≤ s.clk + dt - (s.link p.val).since ∧ s.portBuilt p.val = true ∧ (s.link p.val).disable = false ∧ s.dist (districtOf p.val) ≠ .replat) ∧
    (∃ (dt : Nat) (p : Port) (s : State), (s.link p.val).st = .hello ∧ 1000 ≤ s.clk + dt - (s.link p.val).helloAt) :=
  ⟨⟨0, 3, record 40 [(0, [1, 3, 2, 0x3F, 4, 3]), (28, toLE 8 5)], 3, { lk { Link.reset with st := .hello, heard := 7 } with clk := 70 }, by decide +kernel, by decide +kernel, by decide +kernel, by decide +kernel, by decide +kernel, by decide +kernel, by decide +kernel, by decide +kernel, by decide +kernel⟩,
    ⟨0, 3, record 40 [(0, [1, 1, 2, 0x3F, 4, 3]), (28, toLE 8 5)], { lk { Link.reset with st := .hello, heard := 7 } with clk := 70 }, by decide +kernel, by decide +kernel, by decide +kernel, by decide +kernel⟩,
    ⟨0, 3, record 40 [(0, [1, 3, 2, 0x3F, 2, 3]), (28, toLE 8 5)], { lk { Link.reset with st := .hello, heard := 7 } with clk := 70 }, by decide +kernel, by decide +kernel, by decide +kernel, by decide +kernel⟩,
    ⟨0, 3, record 40 [(0, [1, 5, 4, 0x3F, 4, 3]), (28, toLE 8 5)], { lk { Link.reset with st := .hello, heard := 7 } with clk := 70 }, by decide +kernel, by decide +kernel, by decide +kernel, by decide +kernel⟩,
    ⟨0, [2, 3, 63], lk { ul with st := .config }, by decide +kernel, by decide +kernel, by decide +kernel⟩,
    ⟨0, [2, 3, 62], lk { ul with st := .config }, by decide +kernel, by decide +kernel, by decide +kernel⟩,
    ⟨0, record 20 [(0, [3]), (2, (List.range 8).flatMap (fun i => toLE 2 (33 + i)))], lk { ul with st := .credit }, by decide +kernel, by decide +kernel, by decide +kernel⟩,
    ⟨0, record 20 [(0, [3]), (2, (List.range 8).flatMap (fun i => toLE 2 (32 + i)))], lk { ul with st := .credit }, by decide +kernel, by decide +kernel, by decide +kernel⟩,
    ⟨lk { ul with st := .hello }, by decide +kernel⟩,
    ⟨lk { ul with st := .lock }, by decide +kernel⟩,
    ⟨lk { ul with st := .config }, by decide +kernel⟩,
    ⟨lk { ul with st := .credit }, by decide +kernel⟩,
    ⟨100, 0, lk { Link.reset with wait := 100, heard := 3 }, by decide +kernel, by decide +kernel, by decide +kernel, by decide +kernel, by decide +kernel⟩,
    ⟨1000, 0, lk { ul with st := .hello }, by decide +kernel, by decide +kernel⟩⟩
/-- The hypotheses of LinkLanesComplete, clause by clause. -/
theorem test_met_LinkLanesComplete :
    (∃ (p : Port) (i : BitVec 3) (s : State), (s.link p.val).isUp = true ∧ s.cap p.val 5 = true ∧ i.toNat < s.width p.val ∧ (s.link p.val).txList ≠ [i.toNat] ∧ s.width p.val ≤ 8 ∧ s.opt.fly = []) ∧
    (∃ (p : Port) (i : BitVec 3) (s : State), (s.link p.val).isUp = true ∧ s.cap p.val 5 = true ∧ i.toNat < s.width p.val ∧ (s.link p.val).txList = [i.toNat] ∧ s.opt.fly = []) ∧
    (∃ (p : Port) (i : BitVec 3) (s : State), (s.link p.val).isUp = true ∧ (s.link p.val).laneCtl.any (fun c => !c.on && c.idx == i) = true ∧ s.opt.fly = []) ∧
    (∃ (p : Port) (i : BitVec 3) (s : State), (s.link p.val).isUp = true ∧ s.cap p.val 5 = true ∧ i.toNat < s.width p.val ∧ (s.lane (p.val + i.toNat)).txIdle = false ∧ s.opt.fly = []) ∧
    (∃ (p : Port) (i : BitVec 3) (k : Nat) (s : State), (s.link p.val).isUp = true ∧ (s.link p.val).laneCtl.any (fun c => c.on && c.idx == i) = true ∧ k = (s.link p.val).laneFor i.toNat ∧ s.opt.fly = []) ∧
    (∃ (p : Port) (s : State), (s.link p.val).isUp = true) ∧
    (∃ (dt : Nat) (p : Port) (c : LaneCtl) (s : State), (s.link p.val).isUp = true ∧ c ∈ (s.link p.val).laneCtl ∧ 1000000 ≤ s.clk + dt - c.first ∧ s.opt.fly = []) ∧
    (∃ (h : HPort) (p : Port) (s : State), Owner h s ∧ s.portBuilt p.val = true ∧ s.opt.fly = []) ∧
    (∃ (h : HPort) (p : Port) (s : State), Owner h s ∧ s.portBuilt p.val = true ∧ s.opt.fly = []) ∧
    (∃ (h : HPort) (p : Port) (s : State), Owner h s ∧ s.portBuilt p.val = true ∧ (s.link p.val).disable = false ∧ s.dist (districtOf p.val) ≠ .replat ∧ s.opt.fly = []) :=
  ⟨⟨0, 2, lk ul, by decide +kernel, by decide +kernel, by decide +kernel, by decide +kernel, by decide +kernel, by decide +kernel⟩,
    ⟨0, 2, one { ul with txact := 4 }, by decide +kernel, by decide +kernel, by decide +kernel, by decide +kernel, by decide +kernel⟩,
    ⟨0, 2, { lk { ul with rxact := 11, laneCtl := [⟨false, 2, 0, 0⟩] } with srd := [(2, { lockd with recal := .running })] }, by decide +kernel, by decide +kernel, by decide +kernel⟩,
    ⟨0, 2, lk { ul with txact := 11 }, by decide +kernel, by decide +kernel, by decide +kernel, by decide +kernel, by decide +kernel⟩,
    ⟨0, 2, 2, { lk { ul with rxact := 11, laneCtl := [⟨true, 2, 0, 0⟩] } with srd := [(2, { lockd with recal := .running })] }, by decide +kernel, by decide +kernel, by decide +kernel, by decide +kernel⟩,
    ⟨0, lk { ul with laneCtl := [⟨true, 2, 0, 0⟩, ⟨true, 3, 0, 10⟩] }, by decide +kernel⟩,
    ⟨1000000, 0, ⟨true, 2, 0, 0⟩, lk { ul with laneCtl := [⟨true, 2, 0, 0⟩, ⟨true, 3, 0, 10⟩] }, by decide +kernel, by decide +kernel, by decide +kernel, by decide +kernel⟩,
    ⟨.ha, 0, lk ul, ⟨by decide +kernel, by decide +kernel, by decide +kernel⟩, by decide +kernel, by decide +kernel⟩,
    ⟨.ha, 0, lk { Link.reset with disable := true }, ⟨by decide +kernel, by decide +kernel, by decide +kernel⟩, by decide +kernel, by decide +kernel⟩,
    ⟨.ha, 0, lk ul, ⟨by decide +kernel, by decide +kernel, by decide +kernel⟩, by decide +kernel, by decide +kernel, by decide +kernel, by decide +kernel⟩⟩
end Sys2Proof.Tests.W14
namespace Sys2Proof.Tests.W15
def im : List Byte := record 128 [(6, [4, 2]), (8, toLE 4 4), (12, toLE 4 0), (16, toLE 4 64), (20, toLE 4 1), (24, toLE 4 4096), (28, [3])]
def m0 : State := { up with plt.plat.mill := [(0, ⟨255, 15, 240, 8⟩)], plt.dist := [(0, .inService)], plt.plat.part := [(0, { DistPart.dflt with scratch := 8 })], mil.store := [(0, im), (1, im)], mil.backSize := 100000000, mil.arg0 := 0x00F00080 }
def pl : Place := ⟨0, 15, 0, 2, false, false, 65536⟩
def thr (st : ThState) (w : Waits) : Thread := { Thread.reset with st := st, waits := w }
def bd : Binding := ⟨.bound, pl, 15, [(0, thr .stopped .none), (1, thr .stopped .none)], [], [], [], 0, [], [], [], false, none, [], [], [], [], 4096, 70000, 0, 0⟩
def bo : Binding := { bd with st := .handover, oldPlace := some { pl with slot := 1 }, oldThreads := [(0, thr .stopped .none)], oldBackRes := 6000 }
def mb (b : Binding) : State := { m0 with mil.binds := [(5, some b), (6, some bd)], mil.backUsed := 200000 }
/-- The hypotheses of MillTablesComplete, clause by clause. -/
theorem test_met_MillTablesComplete :
    (∃ (p : HPort) (s : State), Owner p s ∧ s.mil.cbBusy = false ∧ 3 ≤ s.glb.state.code) ∧
    (∃ (p : HPort) (idx : BitVec 12) (s : State), Owner p s ∧ s.mil.cbBusy = false ∧ 3 ≤ s.glb.state.code ∧ (s.cbEntry idx.toNat).vals.length = 16) ∧
    (∃ (p : HPort) (s : State), Owner p s ∧ s.mil.cbBusy = false ∧ s.glb.state.code < 3) ∧
    (∃ (p : HPort) (d : Fin 16) (slot : BitVec 9) (b : _) (s : State), Owner p s ∧ s.mil.pgmBusy = false ∧ 3 ≤ s.glb.state.code ∧ slot.toNat < (s.millRec d.val).slots.toNat ∧ s.slotUsed d.val slot.toNat = false ∧ s.mil.pgmLen.toNat ≤ 262144 ∧ b = rdMem s s.mil.pgmAddr.toNat s.mil.pgmLen.toNat) ∧
    (∃ (p : HPort) (s : State), Owner p s ∧ s.mil.pgmBusy = false ∧ 3 ≤ s.glb.state.code) ∧
    (∃ (p : HPort) (s : State), Owner p s ∧ s.mil.pgmBusy = false ∧ 3 ≤ s.glb.state.code) ∧
    (∃ (p : HPort) (d : Fin 16) (slot : BitVec 9) (s : State), Owner p s ∧ s.mil.pgmBusy = false ∧ 3 ≤ s.glb.state.code ∧ slot.toNat < (s.millRec d.val).slots.toNat ∧ s.slotUsed d.val slot.toNat = false ∧ s.image d.val slot.toNat ≠ []) ∧
    (∃ (p : HPort) (e : TfEnt) (s : State), Owner p s ∧ s.mil.tfBusy = false ∧ 4 ≤ s.glb.state.code ∧ e = (⟨s.mil.tfData0, s.mil.tfData1, s.mil.tfData2, s.mil.tfData3⟩ : TfEnt)) ∧
    (∃ (p : HPort) (e : TfEnt) (s : State), Owner p s ∧ s.mil.tfBusy = false ∧ 4 ≤ s.glb.state.code ∧ e = (⟨s.mil.tfData0, s.mil.tfData1, s.mil.tfData2, s.mil.tfData3⟩ : TfEnt)) ∧
    (∃ (p : HPort) (s : State), Owner p s ∧ s.mil.tfBusy = false ∧ 4 ≤ s.glb.state.code) :=
  ⟨⟨.ha, { up with mil.cbData := [(0, 0x10002)] }, ⟨by decide +kernel, by decide +kernel, by decide +kernel⟩, by decide +kernel, by decide +kernel⟩,
    ⟨.ha, 3, { up with mil.cb := [(3, ⟨List.replicate 16 5, true⟩)] }, ⟨by decide +kernel, by decide +kernel, by decide +kernel⟩, by decide +kernel, by decide +kernel, by decide +kernel⟩,
    ⟨.ha, { up with glb.state := .unplatted }, ⟨by decide +kernel, by decide +kernel, by decide +kernel⟩, by decide +kernel, by decide +kernel⟩,
    ⟨.ha, 0, 2, rdMem m0 0 0, m0, ⟨by decide +kernel, by decide +kernel, by decide +kernel⟩, by decide +kernel, by decide +kernel, by decide +kernel, by decide +kernel, by decide +kernel, by decide +kernel⟩,
    ⟨.ha, m0, ⟨by decide +kernel, by decide +kernel, by decide +kernel⟩, by decide +kernel, by decide +kernel⟩,
    ⟨.ha, mb bd, ⟨by decide +kernel, by decide +kernel, by decide +kernel⟩, by decide +kernel, by decide +kernel⟩,
    ⟨.ha, 0, 1, mb bd, ⟨by decide +kernel, by decide +kernel, by decide +kernel⟩, by decide +kernel, by decide +kernel, by decide +kernel, by decide +kernel, by decide +kernel⟩,
    ⟨.ha, ⟨0, 0x80000005, 0, 0⟩, { up with mil.tfData1 := 0x80000005 }, ⟨by decide +kernel, by decide +kernel, by decide +kernel⟩, by decide +kernel, by decide +kernel, by decide +kernel⟩,
    ⟨.ha, ⟨0, 0x80000000, 0, 0⟩, { up with mil.tfData1 := 0x80000000 }, ⟨by decide +kernel, by decide +kernel, by decide +kernel⟩, by decide +kernel, by decide +kernel, by decide +kernel⟩,
    ⟨.ha, { up with mil.tf := [(3, ⟨1, 2, 3, 4⟩)] }, ⟨by decide +kernel, by decide +kernel, by decide +kernel⟩, by decide +kernel, by decide +kernel⟩⟩
/-- The hypotheses of BindingsComplete, clause by clause. -/
theorem test_met_BindingsComplete :
    (∃ (p : HPort) (id : BitVec 12) (q : Place) (sc : _) (bk : _) (s : State), Owner p s ∧ s.mil.bindBusy = false ∧ 4 ≤ s.glb.state.code ∧ s.glb.state ≠ .cordoned ∧ s.bindOf id.toNat = none ∧ q = s.argPlace ∧ placeCheck s id.toNat q = .ok (sc, bk)) ∧
    (∃ (p : HPort) (id : BitVec 12) (c : _) (s : State), Owner p s ∧ s.mil.bindBusy = false ∧ 4 ≤ s.glb.state.code ∧ s.glb.state ≠ .cordoned ∧ ((if (s.bindOf id.toNat).isSome then c = 4 else placeCheck s id.toNat s.argPlace = .error c))) ∧
    (∃ (p : HPort) (id : BitVec 12) (c : _) (s : State), Owner p s ∧ s.mil.bindBusy = false ∧ 4 ≤ s.glb.state.code ∧ s.glb.state ≠ .cordoned ∧ ((if (s.bindOf id.toNat).isSome then c = 4 else placeCheck s id.toNat s.argPlace = .error c))) ∧
    (∃ (p : HPort) (id : BitVec 12) (b : Binding) (q : Place) (sc : _) (bk : _) (s : State), Owner p s ∧ s.mil.bindBusy = false ∧ 4 ≤ s.glb.state.code ∧ s.glb.state ≠ .cordoned ∧ s.bindOf id.toNat = some b ∧ b.st = .bound ∧ b.closing = false ∧ q = { s.argPlace with kind := b.place.kind, ycap := b.place.ycap } ∧ ((b.place.kind = true ∨ q.district = b.place.district ∨ s.ctxNames id.toNat = false)) ∧ placeCheck s id.toNat q = .ok (sc, bk)) ∧
    (∃ (id : BitVec 12) (b : Binding) (q : Place) (s : State), s.bindOf id.toNat = some b ∧ b.oldPlace = some q ∧ b.closing = false ∧ tget [] b.oldYards 0 = [] ∧ ((∀ e, e ∈ b.oldThreads → e.2.st = .stopped))) ∧
    (∃ (p : HPort) (id : BitVec 12) (b : Binding) (s : State), Owner p s ∧ s.mil.bindBusy = false ∧ 4 ≤ s.glb.state.code ∧ s.bindOf id.toNat = some b ∧ s.tfNames id.toNat = false ∧ s.ctxNames id.toNat = false) ∧
    (∃ (p : HPort) (id : BitVec 12) (b : Binding) (s : State), Owner p s ∧ s.mil.bindBusy = false ∧ 4 ≤ s.glb.state.code ∧ s.bindOf id.toNat = some b ∧ ((s.tfNames id.toNat = true ∨ s.ctxNames id.toNat = true))) ∧
    (∃ (p : HPort) (id : BitVec 12) (b : Binding) (s : State), Owner p s ∧ s.mil.bindBusy = false ∧ 4 ≤ s.glb.state.code ∧ s.bindOf id.toNat = some b ∧ b.st = .faulted ∧ b.oldPlace = none) ∧
    (∃ (p : HPort) (s : State), Owner p s ∧ s.mil.bindBusy = false ∧ 4 ≤ s.glb.state.code) ∧
    (∃ (p : HPort) (id : BitVec 12) (y : BitVec 3) (b : Binding) (s : State), Owner p s ∧ 4 ≤ s.glb.state.code ∧ s.bindOf id.toNat = some b ∧ b.oldPlace = none ∧ b.closing = false ∧ y.toNat ≤ imgWyards (s.placeImage b.place) ∧ ((b.place.kind = true ∨ y ≠ 0)) ∧ b.order = []) :=
  ⟨⟨.ha, 5, m0.argPlace, 71744, 73728, { m0 with mil.arg0 := 0x00F00080 }, ⟨by decide +kernel, by decide +kernel, by decide +kernel⟩, by decide +kernel, by decide +kernel, by decide +kernel, by decide +kernel, by decide +kernel, by exact ok_of (by decide +kernel)⟩,
    ⟨.ha, 5, 4, mb bd, ⟨by decide +kernel, by decide +kernel, by decide +kernel⟩, by decide +kernel, by decide +kernel, by decide +kernel, by rw [if_pos (by decide +kernel)]⟩,
    ⟨.ha, 5, 0x0D, { m0 with mil.arg0 := 0 }, ⟨by decide +kernel, by decide +kernel, by decide +kernel⟩, by decide +kernel, by decide +kernel, by decide +kernel, (by rw [if_neg (by decide +kernel)]; rfl)⟩,
    ⟨.ha, 5, bd, { m0.argPlace with kind := false, ycap := 65536 }, 71744, 73728, mb bd, ⟨by decide +kernel, by decide +kernel, by decide +kernel⟩, by decide +kernel, by decide +kernel, by decide +kernel, by decide +kernel, by decide +kernel, by decide +kernel, by decide +kernel, by decide +kernel, by exact ok_of (by decide +kernel)⟩,
    ⟨5, bo, { pl with slot := 1 }, mb bo, by decide +kernel, by decide +kernel, by decide +kernel, by decide +kernel, by decide +kernel⟩,
    ⟨.ha, 5, bd, mb bd, ⟨by decide +kernel, by decide +kernel, by decide +kernel⟩, by decide +kernel, by decide +kernel, by decide +kernel, by decide +kernel, by decide +kernel⟩,
    ⟨.ha, 5, bd, { mb bd with mil.tf := [(3, ⟨0, 0x80000005, 0, 5⟩)] }, ⟨by decide +kernel, by decide +kernel, by decide +kernel⟩, by decide +kernel, by decide +kernel, by decide +kernel, by decide +kernel⟩,
    ⟨.ha, 5, { bd with st := .faulted }, mb { bd with st := .faulted }, ⟨by decide +kernel, by decide +kernel, by decide +kernel⟩, by decide +kernel, by decide +kernel, by decide +kernel, by decide +kernel, by decide +kernel⟩,
    ⟨.ha, mb bd, ⟨by decide +kernel, by decide +kernel, by decide +kernel⟩, by decide +kernel, by decide +kernel⟩,
    ⟨.ha, 5, 1, { bd with yards := [(1, [⟨1, .plain, [1, 2], true, some 3, 0, false, false, false, []⟩, ⟨2, .plain, [1, 2], true, none, 0, false, false, false, []⟩])] }, mb { bd with yards := [(1, [⟨1, .plain, [1, 2], true, some 3, 0, false, false, false, []⟩, ⟨2, .plain, [1, 2], true, none, 0, false, false, false, []⟩])] }, ⟨by decide +kernel, by decide +kernel, by decide +kernel⟩, by decide +kernel, by decide +kernel, by decide +kernel, by decide +kernel, by decide +kernel, by decide +kernel, by decide +kernel⟩⟩
/-- The hypotheses of MillWaitsComplete, clause by clause. -/
theorem test_met_MillWaitsComplete :
    (∃ (th : Th) (b : Binding) (s : State), s.bindOf (thBid th) = some b ∧ b.oldPlace = none ∧ b.closing = false ∧ (s.thread th).st = .switched ∧ (((s.thread th).waits ≠ .output ∨ s.outputWaits (thId th) = false)) ∧ ((∀ y n, (s.thread th).waits ≠ .fetchSlot y n))) ∧
    (∃ (th : Th) (b : Binding) (s : State), s.bindOf (thBid th) = some b ∧ (s.thread th).st = .yardWait ∧ s.yardReady th = true) ∧
    (∃ (th : Th) (s : State), s.yardReady th = false) ∧
    (∃ (th : Th) (b : Binding) (s : State), s.bindOf (thBid th) = some b) ∧
    (∃ (th : Th) (b : Binding) (s : State), s.bindOf (thBid th) = some b) :=
  ⟨⟨⟨5, 0, 0⟩, { bd with threads := [(0, thr .switched .access)] }, mb { bd with threads := [(0, thr .switched .access)] }, by decide +kernel, by decide +kernel, by decide +kernel, by decide +kernel, by decide +kernel, by exact nofun⟩,
    ⟨⟨5, 0, 0⟩, { bd with threads := [(0, thr .yardWait (.yardRoom 1))] }, mb { bd with threads := [(0, thr .yardWait (.yardRoom 1))] }, by decide +kernel, by decide +kernel, by decide +kernel⟩,
    ⟨⟨5, 0, 0⟩, mb bd, by decide +kernel⟩,
    ⟨⟨5, 0, 0⟩, { bd with threads := [(0, thr .yardWait (.yardItem 1))] }, mb { bd with threads := [(0, thr .yardWait (.yardItem 1))] }, by decide +kernel⟩,
    ⟨⟨5, 0, 0⟩, { bd with threads := [(0, thr .yardWait (.yardRoom 1))] }, mb { bd with threads := [(0, thr .yardWait (.yardRoom 1))] }, by decide +kernel⟩⟩
end Sys2Proof.Tests.W15
namespace Sys2Proof.Tests.W16
def ins (op d a b c f m imm : Nat) : Nat := op * 2 ^ 56 + d * 2 ^ 50 + a * 2 ^ 44 + b * 2 ^ 38 + c * 2 ^ 32 + f * 2 ^ 24 + m * 2 ^ 16 + imm
def imw (w : Nat) : List Byte := record 128 [(6, [4, 2]), (8, toLE 4 4), (16, toLE 4 64), (20, toLE 4 1), (24, toLE 4 4096), (28, [3]), (64, toLE 8 w)]
def pl : Place := ⟨0, 1, 0, 2, false, false, 65536⟩
def th0 : Thread := { Thread.reset with st := .ready, x := [(1, 0x18), (2, 5)] }
def bd : Binding := ⟨.bound, pl, 1, [(0, th0), (1, th0)], [], [], [], 0, [], [], [], false, none, [], [], [], [], 4096, 70000, 0, 0⟩
def mb (b : Binding) (w : Nat) : State := { up with plt.plat.mill := [(0, ⟨255, 15, 240, 8⟩)], plt.dist := [(0, .inService)], mil.store := [(0, imw w)], mil.binds := [(5, some b)], fwd.job := [(7, { JobEnt.zero with valid := true, eaq := 4 })] }
def mx (op d a b c f m imm : Nat) : State := mb bd (ins op d a b c f m imm)
def dsc : List Byte := record 392 [(0, toLE 4 9), (4, toLE 4 7), (10, [1]), (14, [2]), (16, toLE 4 2), (20, toLE 4 4), (26, [2]), (28, [1]), (384, toLE 4 5), (388, toLE 4 6)]
def cx : Ctx := Ctx.fresh (descOf dsc) dsc true 0
def fin : Stage := ⟨1, 0, 0xFF, 0, 5, 0, 0, 0⟩
def cfin : Ctx := { cx with d := { cx.d with stages := [fin] }, chunks := [(1, { Chunk.reset with opened := true, resident := true, acc := [1, 2], from_ := [0, 1], running := some 0 })] }
def itm : YItem := ⟨3, .finish 9 1 0, [], true, some 0, 0, false, false, false, []⟩
def bf : Binding := { bd with threads := [(0, { th0 with item := [(0, some 3)] }), (1, th0)], yards := [(0, [itm])] }
def mtrig : State := { mx 0x80 0 3 0 0 0 0 0 with lnd.ctxs := [(9, some cx)], mil.binds := [(5, some { bd with threads := [(0, { th0 with x := [(3, 9)] })] })], lnd.held := [⟨9, 0, 0, [1, 2], 1000, true⟩] }
theorem chunkReady_congr {c : Ctx} {j k : Nat} (l : c.d.linked = false) (h : c.chunk j = c.chunk k) : c.chunkReady j = c.chunkReady k := by
  simp only [Ctx.chunkReady, l, h, Bool.false_eq_true, if_false]
theorem cx_chunks (k : Nat) : (cx.chunk k).running = none ∧ (cx.chunk k).done = false ∧ cx.chunkReady k = false :=
  ⟨rfl, rfl, (chunkReady_congr (k := 0) (by decide +kernel) rfl).trans (by decide +kernel)⟩
theorem cfin_chunks (n : Nat) (h : n ≠ 1) : (cfin.chunk n).running = none ∧ cfin.chunkReady n = false := by
  have e : cfin.chunk n = cfin.chunk 0 := by simp [Ctx.chunk, cfin, tget, h]
  exact ⟨by rw [e]; rfl, (chunkReady_congr (by decide +kernel) e).trans (by decide +kernel)⟩
theorem mtrig_item : mtrig.itemJob ⟨5, 0, 0⟩ = none := by decide +kernel
/-- The hypotheses of MillScalarsComplete, clause by clause. -/
theorem test_met_MillScalarsComplete :
    (∃ (th : Th) (s : State), Issues th 0x00 ⟨0, 0, 0, 0, 0, 0, 0⟩ s) ∧
    (∃ (th : Th) (s : State), Issues th 0x01 ⟨0, 0, 0, 0, 0, 0, 0⟩ s) ∧
    (∃ (th : Th) (s : State) (imm : Nat), Issues th 0x02 ⟨0, 0, 0, 0, 0, 0, imm⟩ s ∧ imm < imgCode (s.imageOf th)) ∧
    (∃ (th : Th) (s : State) (a : Nat) (imm : Nat), Issues th 0x03 ⟨0, a, 0, 0, 0, 0, imm⟩ s ∧ a < 32 ∧ imm < imgCode (s.imageOf th)) ∧
    (∃ (th : Th) (s : State) (a : Nat) (imm : Nat), Issues th 0x03 ⟨0, a, 0, 0, 0, 0, imm⟩ s ∧ a < 32 ∧ imm < imgCode (s.imageOf th)) ∧
    (∃ (th : Th) (s : State) (a : Nat) (imm : Nat), Issues th 0x04 ⟨0, a, 0, 0, 0, 0, imm⟩ s ∧ a < 32 ∧ imm < imgCode (s.imageOf th)) ∧
    (∃ (th : Th) (s : State) (d : Nat) (k : Nat) (imm : Nat), Issues th 0x08 ⟨d, 0, 0, 0, 0, k, imm⟩ s ∧ d < 32 ∧ k < 4) ∧
    (∃ (th : Th) (s : State) (d : Nat) (a : Nat) (b : Nat) (m : Nat), Issues th 0x09 ⟨d, a, b, 0, 0, m, 0⟩ s ∧ d < 32 ∧ a < 32 ∧ b < 32 ∧ m < 11) ∧
    (∃ (th : Th) (s : State) (d : Nat) (a : Nat) (b : Nat) (m : Nat), Issues th 0x09 ⟨d, a, b, 0, 0, m, 0⟩ s ∧ d < 32 ∧ a < 32 ∧ b < 32 ∧ m < 11) ∧
    (∃ (th : Th) (s : State) (d : Nat) (a : Nat) (m : Nat) (imm : Nat), Issues th 0x0A ⟨d, a, 0, 0, 0, m, imm⟩ s ∧ d < 32 ∧ a < 32 ∧ m < 11) ∧
    (∃ (th : Th) (s : State) (d : Nat) (a : Nat) (imm : Nat) (off : Nat), Issues th 0x0B ⟨d, a, 0, 0, 0, 0, imm⟩ s ∧ d < 32 ∧ a < 32 ∧ off = (s.xr th a + 8 * imm) % 2 ^ 64 ∧ off + 8 ≤ imgSegment (s.imageOf th)) ∧
    (∃ (th : Th) (s : State) (a : Nat) (b : Nat) (imm : Nat) (off : Nat), Issues th 0x0C ⟨0, a, b, 0, 0, 0, imm⟩ s ∧ a < 32 ∧ b < 32 ∧ off = (s.xr th a + 8 * imm) % 2 ^ 64 ∧ off + 8 ≤ imgSegment (s.imageOf th)) :=
  ⟨⟨⟨5, 0, 0⟩, mx 0 0 0 0 0 0 0 0, issues_of (by decide +kernel) (by decide +kernel) (by decide +kernel) (by decide +kernel) (by decide +kernel)⟩,
    ⟨⟨5, 0, 0⟩, mx 1 0 0 0 0 0 0 0, issues_of (by decide +kernel) (by decide +kernel) (by decide +kernel) (by decide +kernel) (by decide +kernel)⟩,
    ⟨⟨5, 0, 0⟩, mx 2 0 0 0 0 0 0 3, 3, issues_of (by decide +kernel) (by decide +kernel) (by decide +kernel) (by decide +kernel) (by decide +kernel), by decide +kernel⟩,
    ⟨⟨5, 0, 0⟩, mx 3 0 1 0 0 0 0 3, 1, 3, issues_of (by decide +kernel) (by decide +kernel) (by decide +kernel) (by decide +kernel) (by decide +kernel), by decide +kernel, by decide +kernel⟩,
    ⟨⟨5, 0, 0⟩, mx 3 0 4 0 0 0 0 3, 4, 3, issues_of (by decide +kernel) (by decide +kernel) (by decide +kernel) (by decide +kernel) (by decide +kernel), by decide +kernel, by decide +kernel⟩,
    ⟨⟨5, 0, 0⟩, mx 4 0 1 0 0 0 0 3, 1, 3, issues_of (by decide +kernel) (by decide +kernel) (by decide +kernel) (by decide +kernel) (by decide +kernel), by decide +kernel, by decide +kernel⟩,
    ⟨⟨5, 0, 0⟩, mx 8 31 0 0 0 0 3 65535, 31, 3, 65535, issues_of (by decide +kernel) (by decide +kernel) (by decide +kernel) (by decide +kernel) (by decide +kernel), by decide +kernel, by decide +kernel⟩,
    ⟨⟨5, 0, 0⟩, mx 9 31 1 2 0 0 1 0, 31, 1, 2, 1, issues_of (by decide +kernel) (by decide +kernel) (by decide +kernel) (by decide +kernel) (by decide +kernel), by decide +kernel, by decide +kernel, by decide +kernel, by decide +kernel⟩,
    ⟨⟨5, 0, 0⟩, mx 9 0 1 2 0 0 10 0, 0, 1, 2, 10, issues_of (by decide +kernel) (by decide +kernel) (by decide +kernel) (by decide +kernel) (by decide +kernel), by decide +kernel, by decide +kernel, by decide +kernel, by decide +kernel⟩,
    ⟨⟨5, 0, 0⟩, mx 0xA 31 1 0 0 0 1 40000, 31, 1, 1, 40000, issues_of (by decide +kernel) (by decide +kernel) (by decide +kernel) (by decide +kernel) (by decide +kernel), by decide +kernel, by decide +kernel, by decide +kernel⟩,
    ⟨⟨5, 0, 0⟩, mx 0xB 31 1 0 0 0 0 4, 31, 1, 4, 56, issues_of (by decide +kernel) (by decide +kernel) (by decide +kernel) (by decide +kernel) (by decide +kernel), by decide +kernel, by decide +kernel, by decide +kernel, by decide +kernel⟩,
    ⟨⟨5, 0, 0⟩, mx 0xC 0 1 2 0 0 0 4, 1, 2, 4, 56, issues_of (by decide +kernel) (by decide +kernel) (by decide +kernel) (by decide +kernel) (by decide +kernel), by decide +kernel, by decide +kernel, by decide +kernel, by decide +kernel⟩⟩
/-- The hypotheses of MillSyncsComplete, clause by clause. -/
theorem test_met_MillSyncsComplete :
    (∃ (th : Th) (s : State) (a : Nat) (cid : Nat) (c : Ctx), Issues th 0x80 ⟨0, a, 0, 0, 0, 0, 0⟩ s ∧ a < 32 ∧ cid = s.xr th a % 2 ^ 18 ∧ s.ctx cid = some c ∧ ((∀ j, s.itemJob th = some j → c.d.job = j)) ∧ c.d.isFanout = false ∧ c.d.isCount = false ∧ 0 < c.d.nch ∧ ((∀ k, (c.chunk k).running = none ∧ (c.chunk k).done = false ∧ c.chunkReady k = false)) ∧ ((∀ h, h ∈ s.lnd.held → h.ctx = cid → s.now < h.notBefore))) ∧
    (∃ (th : Th) (s : State) (it : YItem) (cid : Nat) (pos : Nat) (step : Nat), Issues th 0x81 ⟨0, 0, 0, 0, 0, 0, 0⟩ s ∧ s.curItem th 0 = some it ∧ it.kind = .finish cid pos step ∧ s.finishChunk it = none) ∧
    (∃ (th : Th) (s : State) (it : YItem) (cid : Nat) (pos : Nat) (step : Nat) (c : Ctx) (j : Nat) (g : Stage) (k : Nat), Issues th 0x81 ⟨0, 0, 0, 0, 0, 0, 0⟩ s ∧ s.curItem th 0 = some it ∧ it.kind = .finish cid pos step ∧ s.finishChunk it = some (cid, pos, c) ∧ (c.chunk pos).running = some j ∧ c.d.stages[j]? = some g ∧ g.a = 0xFF ∧ ((∀ n, n ∈ c.d.stagesOf 0 → n ≤ j)) ∧ c.d.isFanout = false ∧ c.d.isCount = false ∧ k < c.d.nch ∧ k ≠ pos ∧ (c.chunk k).done = false ∧ ((∀ n, n ≠ pos → (c.chunk n).running = none ∧ c.chunkReady n = false))) ∧
    (∃ (th : Th) (s : State) (b : Binding), Issues th 0x90 ⟨0, 0, 0, 0, 0, 0, 0⟩ s ∧ s.bindOf (thBid th) = some b ∧ b.oldPlace = none ∧ b.closing = false) ∧
    (∃ (th : Th) (s : State) (b : Binding), Issues th 0x90 ⟨0, 0, 0, 0, 0, 0, 0⟩ s ∧ s.bindOf (thBid th) = some b ∧ b.oldPlace = none ∧ b.closing = false) ∧
    (∃ (th : Th) (s : State), Issues th 0x91 ⟨0, 0, 0, 0, 0, 0, 0⟩ s) ∧
    (∃ (th : Th) (s : State), Issues th 0x91 ⟨0, 0, 0, 0, 0, 0, 0⟩ s) :=
  ⟨⟨⟨5, 0, 0⟩, mtrig, 3, 9, cx, issues_of (by decide +kernel) (by decide +kernel) (by decide +kernel) (by decide +kernel) (by decide +kernel), by decide +kernel, by decide +kernel, by decide +kernel, (by intro j h; rw [mtrig_item] at h; cases h), by decide +kernel, by decide +kernel, by decide +kernel, by exact cx_chunks, by decide +kernel⟩,
    ⟨⟨5, 0, 0⟩, { mb bf (ins 0x81 0 0 0 0 0 0 0) with fresh := 0 }, itm, 9, 1, 0, issues_of (by decide +kernel) (by decide +kernel) (by decide +kernel) (by decide +kernel) (by decide +kernel), by decide +kernel, by decide +kernel, by decide +kernel⟩,
    ⟨⟨5, 0, 0⟩, { mb bf (ins 0x81 0 0 0 0 0 0 0) with lnd.ctxs := [(9, some cfin)] }, itm, 9, 1, 0, cfin, 0, fin, 0, issues_of (by decide +kernel) (by decide +kernel) (by decide +kernel) (by decide +kernel) (by decide +kernel), by decide +kernel, by decide +kernel, by decide +kernel, by decide +kernel, by decide +kernel, by decide +kernel, by decide +kernel, by decide +kernel, by decide +kernel, by decide +kernel, by decide +kernel, by decide +kernel, by exact cfin_chunks⟩,
    ⟨⟨5, 0, 0⟩, mx 0x90 0 0 0 0 0 0 0, bd, issues_of (by decide +kernel) (by decide +kernel) (by decide +kernel) (by decide +kernel) (by decide +kernel), by decide +kernel, by decide +kernel, by decide +kernel⟩,
    ⟨⟨5, 0, 0⟩, mb { bd with arrived := [(1, true)], threads := [(0, th0), (1, { th0 with st := .barrier })] } (ins 0x90 0 0 0 0 0 0 0), { bd with arrived := [(1, true)], threads := [(0, th0), (1, { th0 with st := .barrier })] }, issues_of (by decide +kernel) (by decide +kernel) (by decide +kernel) (by decide +kernel) (by decide +kernel), by decide +kernel, by decide +kernel, by decide +kernel⟩,
    ⟨⟨5, 0, 0⟩, mx 0x91 0 0 0 0 0 0 0, issues_of (by decide +kernel) (by decide +kernel) (by decide +kernel) (by decide +kernel) (by decide +kernel)⟩,
    ⟨⟨5, 0, 0⟩, mb { bd with threads := [(0, th0), (1, { th0 with stepped := true })] } (ins 0x91 0 0 0 0 0 0 0), issues_of (by decide +kernel) (by decide +kernel) (by decide +kernel) (by decide +kernel) (by decide +kernel)⟩⟩
/-- The hypotheses of MillFaultsStopTheBinding, clause by clause. -/
theorem test_met_MillFaultsStopTheBinding :
    (∃ (th : Th) (s : State) (b : Binding) (i : Ins), s.bindOf (thBid th) = some b ∧ b.oldPlace = none ∧ b.closing = false ∧ Issues th 0x00 i s ∧ i ≠ ⟨0, 0, 0, 0, 0, 0, 0⟩) ∧
    (∃ (th : Th) (s : State) (b : Binding) (imm : Nat), s.bindOf (thBid th) = some b ∧ b.oldPlace = none ∧ b.closing = false ∧ Issues th 0x02 ⟨0, 0, 0, 0, 0, 0, imm⟩ s ∧ imgCode (s.imageOf th) ≤ imm) ∧
    (∃ (th : Th) (s : State) (b : Binding) (d : Nat) (a : Nat) (c : Nat) (m : Nat), s.bindOf (thBid th) = some b ∧ b.oldPlace = none ∧ b.closing = false ∧ Issues th 0x09 ⟨d, a, c, 0, 0, m, 0⟩ s ∧ m < 16 ∧ 11 ≤ m) ∧
    (∃ (th : Th) (s : State) (b : Binding) (d : Nat) (a : Nat) (c : Nat) (m : Nat), s.bindOf (thBid th) = some b ∧ b.oldPlace = none ∧ b.closing = false ∧ Issues th 0x09 ⟨d, a, c, 0, 0, m, 0⟩ s ∧ m < 11 ∧ ((32 ≤ d ∨ 32 ≤ a ∨ 32 ≤ c))) ∧
    (∃ (th : Th) (s : State) (b : Binding) (d : Nat) (a : Nat) (imm : Nat), s.bindOf (thBid th) = some b ∧ b.oldPlace = none ∧ b.closing = false ∧ Issues th 0x0B ⟨d, a, 0, 0, 0, 0, imm⟩ s ∧ imgSegment (s.imageOf th) < (s.xr th a + 8 * imm) % 2 ^ 64 + 8) ∧
    (∃ (th : Th) (s : State) (b : Binding) (d : Nat) (f : Nat), s.bindOf (thBid th) = some b ∧ b.oldPlace = none ∧ b.closing = false ∧ Issues th 0x22 ⟨d, 0, 0, 0, f, 0, 0⟩ s ∧ imgTregs (s.imageOf th) ≤ d) ∧
    (∃ (th : Th) (s : State) (b : Binding) (a : Nat) (c : Ctx) (j : BitVec 20), s.bindOf (thBid th) = some b ∧ b.oldPlace = none ∧ b.closing = false ∧ Issues th 0x80 ⟨0, a, 0, 0, 0, 0, 0⟩ s ∧ a < 32 ∧ s.ctx (s.xr th a % 2 ^ 18) = some c ∧ s.itemJob th = some j ∧ c.d.job ≠ j) ∧
    (∃ (th : Th) (s : State) (b : Binding), s.bindOf (thBid th) = some b ∧ b.oldPlace = none ∧ b.closing = false ∧ Issues th 0x81 ⟨0, 0, 0, 0, 0, 0, 0⟩ s ∧ s.curItem th 0 = none) ∧
    (∃ (th : Th) (s : State) (b : Binding) (y : Nat), s.bindOf (thBid th) = some b ∧ b.oldPlace = none ∧ b.closing = false ∧ Issues th 0xA2 ⟨0, 0, 0, 0, 0, 0, y⟩ s ∧ y < 8 ∧ imgWyards (s.imageOf th) < y) :=
  ⟨⟨⟨5, 0, 0⟩, mx 0 0 0 0 0 0 0 1, bd, ⟨0, 0, 0, 0, 0, 0, 1⟩, by decide +kernel, by decide +kernel, by decide +kernel, issues_of (by decide +kernel) (by decide +kernel) (by decide +kernel) (by decide +kernel) (by decide +kernel), by decide +kernel⟩,
    ⟨⟨5, 0, 0⟩, mx 2 0 0 0 0 0 0 4, bd, 4, by decide +kernel, by decide +kernel, by decide +kernel, issues_of (by decide +kernel) (by decide +kernel) (by decide +kernel) (by decide +kernel) (by decide +kernel), by decide +kernel⟩,
    ⟨⟨5, 0, 0⟩, mx 9 1 2 3 0 0 11 0, bd, 1, 2, 3, 11, by decide +kernel, by decide +kernel, by decide +kernel, issues_of (by decide +kernel) (by decide +kernel) (by decide +kernel) (by decide +kernel) (by decide +kernel), by decide +kernel, by decide +kernel⟩,
    ⟨⟨5, 0, 0⟩, mx 9 32 2 3 0 0 10 0, bd, 32, 2, 3, 10, by decide +kernel, by decide +kernel, by decide +kernel, issues_of (by decide +kernel) (by decide +kernel) (by decide +kernel) (by decide +kernel) (by decide +kernel), by decide +kernel, by decide +kernel⟩,
    ⟨⟨5, 0, 0⟩, mx 0xB 3 1 0 0 0 0 5, bd, 3, 1, 5, by decide +kernel, by decide +kernel, by decide +kernel, issues_of (by decide +kernel) (by decide +kernel) (by decide +kernel) (by decide +kernel) (by decide +kernel), by decide +kernel⟩,
    ⟨⟨5, 0, 0⟩, mx 0x22 4 0 0 0 1 0 0, bd, 4, 1, by decide +kernel, by decide +kernel, by decide +kernel, issues_of (by decide +kernel) (by decide +kernel) (by decide +kernel) (by decide +kernel) (by decide +kernel), by decide +kernel⟩,
    ⟨⟨5, 0, 0⟩, { mb { bf with threads := [(0, { th0 with item := [(0, some 3)], x := [(3, 9)] })], yards := [(0, [{ itm with bytes := record 16 [(4, toLE 4 6)] }])] } (ins 0x80 0 3 0 0 0 0 0) with lnd.ctxs := [(9, some cx)] }, { bf with threads := [(0, { th0 with item := [(0, some 3)], x := [(3, 9)] })], yards := [(0, [{ itm with bytes := record 16 [(4, toLE 4 6)] }])] }, 3, cx, 6, by decide +kernel, by decide +kernel, by decide +kernel, issues_of (by decide +kernel) (by decide +kernel) (by decide +kernel) (by decide +kernel) (by decide +kernel), by decide +kernel, by decide +kernel, by decide +kernel, by decide +kernel⟩,
    ⟨⟨5, 0, 0⟩, mx 0x81 0 0 0 0 0 0 0, bd, by decide +kernel, by decide +kernel, by decide +kernel, issues_of (by decide +kernel) (by decide +kernel) (by decide +kernel) (by decide +kernel) (by decide +kernel), by decide +kernel⟩,
    ⟨⟨5, 0, 0⟩, mx 0xA2 0 0 0 0 0 0 3, bd, 3, by decide +kernel, by decide +kernel, by decide +kernel, issues_of (by decide +kernel) (by decide +kernel) (by decide +kernel) (by decide +kernel) (by decide +kernel), by decide +kernel, by decide +kernel⟩⟩
end Sys2Proof.Tests.W16
namespace Sys2Proof.Tests.W17
def ins (op d a b c f m imm : Nat) : Nat := op * 2 ^ 56 + d * 2 ^ 50 + a * 2 ^ 44 + b * 2 ^ 38 + c * 2 ^ 32 + f * 2 ^ 24 + m * 2 ^ 16 + imm
def imw (w : Nat) : List Byte := record 128 [(6, [4, 2]), (8, toLE 4 4), (16, toLE 4 65536), (20, toLE 4 1), (24, toLE 4 4096), (28, [3]), (64, toLE 8 w)]
def pl : Place := ⟨0, 1, 0, 2, false, false, 65536⟩
def th0 : Thread := { Thread.reset with st := .ready, x := [(1, 0x18), (2, 5), (3, 9)] }
def tl : Tile := ⟨2, false, [(0, 1), (1, 0x40), (2, 0), (3, 0xC0)], []⟩
def tl8 : Tile := ⟨8, false, [(0, 0x12), (1, 0x34)], [(0, 127), (1, 128)]⟩
def tf1 : Tile := ⟨1, false, [(2, 0x80), (3, 0x3F)], []⟩
def ti : Tile := ⟨9, false, [(0, 3)], []⟩
def bd : Binding := ⟨.bound, pl, 1, [(0, th0), (1, th0)], [(1, tl), (2, tl8), (3, tf1)], [(0x18, 7), (0x1A, 9)], [], 0, [], [], [], false, none, [], [], [], [], 4096, 70000, 0, 0⟩
def mb (b : Binding) (w : Nat) : State := { sw with fwd.mgmtEid := 99, plt.plat.mill := [(0, ⟨255, 15, 240, 8⟩)], plt.dist := [(0, .inService)], mil.store := [(0, imw w)], mil.binds := [(5, some b)], fwd.job := [(7, { JobEnt.zero with valid := true, eaq := 4 })], mil.pwinBase := 4096, mil.pwinSize := 65536, ram := [(0x1018, 7)] }
def mx (op d a b c f m imm : Nat) : State := mb bd (ins op d a b c f m imm)
def dsc : List Byte := record 392 [(0, toLE 4 9), (4, toLE 4 7), (10, [1]), (14, [2]), (16, toLE 4 2), (20, toLE 4 4), (26, [2]), (28, [1]), (384, toLE 4 5), (388, toLE 4 6)]
def cx : Ctx := Ctx.fresh (descOf dsc) dsc true 0
def fin : Stage := ⟨1, 0, 0xFF, 0, 5, 0, 0, 0⟩
def cfin : Ctx := { cx with d := { cx.d with stages := [fin] }, chunks := [(1, { Chunk.reset with opened := true, resident := true, acc := [1, 2], from_ := [0, 1], running := some 0 })] }
def desc (outf : Byte) : List Byte := record 32 [(0, toLE 4 9), (4, toLE 4 7), (12, [1]), (14, [1]), (16, toLE 2 2), (19, [outf]), (20, toLE 4 77)]
def itm (outf : Byte) : YItem := ⟨3, .finish 9 1 0, desc outf, true, some 0, 0, false, false, false, []⟩
def bf (outf : Byte) : Binding := { bd with threads := [(0, { th0 with item := [(0, some 3)], x := [(1, 77), (2, 0)] }), (1, th0)], yards := [(0, [itm outf])] }
def mf (outf : Byte) (w : Nat) : State := { mb (bf outf) w with lnd.ctxs := [(9, some cfin)] }
def yi (b : List Byte) (fl : Bool) : YItem := ⟨4, .plain, b, true, some 0, 0, fl, false, false, []⟩
def by_ (b : List Byte) (fl : Bool) : Binding := { bd with threads := [(0, { th0 with item := [(1, some 4)] }), (1, th0)], yards := [(1, [yi b fl])] }
def fp : Pkt := { pk with h := mkHdr 2 2 false 8 9 5 7 0 0 0 0 1 0 0 0 }
def fitm : YItem := ⟨3, .flow fp (.port 4), [], true, some 0, 0, false, false, false, []⟩
def bfl (ord : List Nat) : Binding := { bd with threads := [(0, { th0 with item := [(0, some 3)] }), (1, th0)], yards := [(0, [fitm])], order := ord }
def oneTile (f : Nat) (tr : Bool) (b : List Byte) : Tile := ((tileFrom (mx 0 0 0 0 0 0 0 0) f tr b).map (·.1)).getD Tile.zero
def oneExc (f : Nat) (tr : Bool) (b : List Byte) : Exc := ((tileFrom (mx 0 0 0 0 0 0 0 0) f tr b).map (·.2)).getD Exc.none
def cvT (f : Nat) (x : Tile) : Tile := ((convert f (fun _ => .rne) x).map (·.1)).getD Tile.zero
def cvE (f : Nat) (x : Tile) : Exc := ((convert f (fun _ => .rne) x).map (·.2)).getD Exc.none
def sch : Sched := { Sched.reset with bucket := 4000 }
def mkSend (h : Hdr) (s : State) : Pkt := { h := h, payload := sendPayload ⟨5, 0, 0⟩ 1 1 2 h.len s, tin := s.now, inPort := 2048 + s.dOf ⟨5, 0, 0⟩, c2 := false, counted := false, thread := some (thId ⟨5, 0, 0⟩) }
def mkSendt (a f : Nat) (s : State) : Pkt := { fp with h := { fp.h.setLen (s.xr ⟨5, 0, 0⟩ a % 65536) with w4 := putFld (fp.h.setLen (s.xr ⟨5, 0, 0⟩ a % 65536)).w4 0 8 f }, payload := sendPayload ⟨5, 0, 0⟩ 1 1 f (s.xr ⟨5, 0, 0⟩ a % 65536) s, thread := some (thId ⟨5, 0, 0⟩), flow := some (s.dOf ⟨5, 0, 0⟩) }
def s6 : State := { mb ({ bf 2 with threads := [(0, { th0 with item := [(0, some 3)], x := [(4, 0x0000000932400008), (5, 0x0000700000000063), (6, 0x100), (7, 0), (3, 4)] })] }) (ins 0x70 0 4 1 3 2 0 0) with lnd.ctxs := [(9, some cfin)] }
def w6 (k : Nat) : Word := BitVec.ofNat 32 (s6.xr ⟨5, 0, 0⟩ (4 + k / 2) / 2 ^ (32 * (k % 2)))
def h6 (job : BitVec 20) : Hdr := (Hdr.setEpoch { w0 := w6 0, w1 := w6 1, w2 := s6.fwd.mgmtEid, w3 := putFld (w6 3) 12 20 job.toNat, w4 := w6 4, w5 := w6 5, w6 := w6 6, weight := 0 } s6.fwd.cur).setHops 0
def p6 (job : BitVec 20) : Pkt := { h := h6 job, payload := sendPayload ⟨5, 0, 0⟩ 1 1 2 (h6 job).len s6, tin := s6.now, inPort := 2048 + s6.dOf ⟨5, 0, 0⟩, c2 := false, counted := false, thread := some (thId ⟨5, 0, 0⟩) }
def far8 : Binding := { bd with threads := [(0, { th0 with item := [(1, some 4)] }), (1, th0)], yards := [(1, [{ yi (zeros 32) false with loc := [.regs, .lpddr, .lpddr, .regs] }])] }
/-- The thread's current item, if it has one, is read to its end. -/
theorem spent_of {o : Option YItem} (h : o.all (fun it => !it.flushed && !it.aged && decide (it.bytes.length ≤ it.rd)) = true) :
    o = none ∨ ∃ it, o = some it ∧ it.flushed = false ∧ it.aged = false ∧ it.bytes.length ≤ it.rd := by
  cases o with
  | none => exact .inl rfl
  | some it => simp at h; exact .inr ⟨it, rfl, h.1.1, h.1.2, h.2⟩
/-- 4,096 bytes in a yard: sixteen items. -/
def full : List YItem := (List.range 16).map (fun k => ⟨4 + k, .plain, zeros 256, true, none, 0, false, false, false, []⟩)
/-- The hypotheses of TileMovesComplete, clause by clause. -/
theorem test_met_TileMovesComplete :
    (∃ (th : Th) (s : State) (d : Nat) (a : Nat) (f : Nat) (tr : Bool) (off : Nat) (n : Nat) (x : Tile) (e : Exc), Issues th 0x20 ⟨d, a, 0, 0, f, 8 * b2n tr, 0⟩ s ∧ a < 32 ∧ d < imgTregs (s.imageOf th) ∧ f ≤ 0x0E ∧ off = s.xr th a ∧ n = tileEnc f (leNat (s.rdScratch th off 4)) ∧ off + n ≤ imgSegment (s.imageOf th) ∧ tileFrom s f tr (s.rdScratch th off n) = some (x, e)) ∧
    (∃ (th : Th) (s : State) (d : Nat) (a : Nat) (f : Nat) (tr : Bool) (off : Nat) (n : Nat) (x : Tile) (e : Exc), Issues th 0x20 ⟨d, a, 0, 0, f, 8 * b2n tr + 1, 0⟩ s ∧ a < 32 ∧ d < imgTregs (s.imageOf th) ∧ f ≤ 0x0E ∧ off = s.xr th a ∧ n = tileEnc f (leNat (rdMem s (s.mil.pwinBase.toNat + off) 4)) ∧ off + n ≤ s.mil.pwinSize.toNat ∧ tileFrom s f tr (rdMem s (s.mil.pwinBase.toNat + off) n) = some (x, e)) ∧
    (∃ (th : Th) (s : State) (d : Nat) (a : Nat) (b : Nat) (f : Nat) (tr : Bool) (it : YItem) (cid : Nat) (pos : Nat) (c : Ctx), Issues th 0x20 ⟨d, a, b, 0, f, 8 * b2n tr + 2, 0⟩ s ∧ a < 32 ∧ b < 32 ∧ d < imgTregs (s.imageOf th) ∧ f ≤ 0x0E ∧ f ≠ 0x0C ∧ s.lineOf th (s.xr th a % 2 ^ 32) (s.xr th b) = some (it, some (cid, pos, c))) ∧
    (∃ (th : Th) (s : State) (d : Nat) (a : Nat) (b : Nat) (f : Nat) (tr : Bool) (it : YItem) (cid : Nat) (pos : Nat) (c : Ctx), Issues th 0x20 ⟨d, a, b, 0, f, 8 * b2n tr + 2, 0⟩ s ∧ a < 32 ∧ b < 32 ∧ d < imgTregs (s.imageOf th) ∧ f ≤ 0x0E ∧ f ≠ 0x0C ∧ s.lineOf th (s.xr th a % 2 ^ 32) (s.xr th b) = some (it, some (cid, pos, c))) ∧
    (∃ (th : Th) (s : State) (d : Nat) (f : Nat) (tr : Bool) (y : Nat) (it : YItem) (x : Tile) (e : Exc), Issues th 0x20 ⟨d, 0, 0, 0, f, 8 * b2n tr + 3, y⟩ s ∧ y ≤ imgWyards (s.imageOf th) ∧ y < 8 ∧ d < imgTregs (s.imageOf th) ∧ f ≤ 0x0E ∧ s.curItem th y = some it ∧ it.flushed = false ∧ it.aged = false ∧ it.rd < it.bytes.length ∧ it.far (tileEnc f (u32At it.bytes it.rd)) = false ∧ tileFrom s f tr ((it.bytes.drop it.rd).take (tileEnc f (u32At it.bytes it.rd))) = some (x, e)) ∧
    (∃ (th : Th) (s : State) (a : Nat) (b : Nat) (c : Nat) (f : Nat) (m : Nat) (off : Nat) (x : Tile) (e : Exc) (n : Nat), Issues th 0x21 ⟨0, a, b, c, f, 16 * m, 0⟩ s ∧ m < 3 ∧ ((m ≠ 2 → c = 0)) ∧ c < 32 ∧ b < 32 ∧ a < imgTregs (s.imageOf th) ∧ f ≤ 0x0E ∧ convert f (s.rmOf th ⟨0, a, b, c, f, 16 * m, 0⟩) (s.tile th a) = some (x, e) ∧ off = s.xr th b ∧ n = (tilesArray f [x]).length ∧ off + n ≤ imgSegment (s.imageOf th)) ∧
    (∃ (th : Th) (s : State) (a : Nat) (b : Nat) (c : Nat) (f : Nat) (m : Nat) (off : Nat) (x : Tile) (e : Exc) (n : Nat), Issues th 0x21 ⟨0, a, b, c, f, 16 * m + 1, 0⟩ s ∧ m < 3 ∧ ((m ≠ 2 → c = 0)) ∧ c < 32 ∧ b < 32 ∧ a < imgTregs (s.imageOf th) ∧ f ≤ 0x0E ∧ convert f (s.rmOf th ⟨0, a, b, c, f, 16 * m + 1, 0⟩) (s.tile th a) = some (x, e) ∧ off = s.xr th b ∧ n = (tilesArray f [x]).length ∧ off + n ≤ s.mil.pwinSize.toNat ∧ s.mil.pwinBase.toNat + off + n ≤ s.capacity) ∧
    (∃ (th : Th) (s : State) (a : Nat) (b : Nat) (c : Nat) (f : Nat) (m : Nat) (it : YItem) (cid : Nat) (pos : Nat) (x : Ctx), Issues th 0x21 ⟨0, a, b, c, f, 16 * m + 2, 0⟩ s ∧ m < 3 ∧ c < 32 ∧ b < 32 ∧ a < imgTregs (s.imageOf th) ∧ f ≤ 0x0E ∧ s.lineOf th (s.xr th b % 2 ^ 32) (s.xr th c) = some (it, some (cid, pos, x)) ∧ s.ctx cid = some x) ∧
    (∃ (th : Th) (s : State) (a : Nat) (b : Nat) (c : Nat) (f : Nat) (m : Nat) (it : YItem) (cid : Nat) (pos : Nat) (x : Ctx), Issues th 0x21 ⟨0, a, b, c, f, 16 * m + 2, 0⟩ s ∧ m < 3 ∧ c < 32 ∧ b < 32 ∧ a < imgTregs (s.imageOf th) ∧ f ≤ 0x0E ∧ s.lineOf th (s.xr th b % 2 ^ 32) (s.xr th c) = some (it, some (cid, pos, x)) ∧ s.ctx cid = some x) ∧
    (∃ (th : Th) (s : State) (d : Nat) (f : Nat), Issues th 0x22 ⟨d, 0, 0, 0, f, 0, 0⟩ s ∧ d < imgTregs (s.imageOf th) ∧ f ≤ 0x0E) :=
  ⟨⟨⟨5, 0, 0⟩, mx 0x20 3 1 0 0 4 8 0, 3, 1, 4, true, 24, 1024, oneTile 4 true ((mx 0 0 0 0 0 0 0 0).rdScratch ⟨5, 0, 0⟩ 0x18 1024), oneExc 4 true ((mx 0 0 0 0 0 0 0 0).rdScratch ⟨5, 0, 0⟩ 0x18 1024), issues_of (by decide +kernel) (by decide +kernel) (by decide +kernel) (by decide +kernel) (by decide +kernel), by decide +kernel, by decide +kernel, by decide +kernel, by decide +kernel, by decide +kernel, by decide +kernel, by decide +kernel⟩,
    ⟨⟨5, 0, 0⟩, mx 0x20 3 1 0 0 4 1 0, 3, 1, 4, false, 24, 1024, oneTile 4 false (rdMem (mx 0 0 0 0 0 0 0 0) 0x1018 1024), oneExc 4 false (rdMem (mx 0 0 0 0 0 0 0 0) 0x1018 1024), issues_of (by decide +kernel) (by decide +kernel) (by decide +kernel) (by decide +kernel) (by decide +kernel), by decide +kernel, by decide +kernel, by decide +kernel, by decide +kernel, by decide +kernel, by decide +kernel, by decide +kernel⟩,
    ⟨⟨5, 0, 0⟩, mf 0xFF (ins 0x20 3 1 2 0 1 2 0), 3, 1, 2, 1, false, itm 0xFF, 9, 1, cfin, issues_of (by decide +kernel) (by decide +kernel) (by decide +kernel) (by decide +kernel) (by decide +kernel), by decide +kernel, by decide +kernel, by decide +kernel, by decide +kernel, by decide +kernel, by decide +kernel⟩,
    ⟨⟨5, 0, 0⟩, mf 0xFF (ins 0x20 3 1 2 0 1 10 0), 3, 1, 2, 1, true, itm 0xFF, 9, 1, cfin, issues_of (by decide +kernel) (by decide +kernel) (by decide +kernel) (by decide +kernel) (by decide +kernel), by decide +kernel, by decide +kernel, by decide +kernel, by decide +kernel, by decide +kernel, by decide +kernel⟩,
    ⟨⟨5, 0, 0⟩, mb (by_ [1, 2, 3, 4, 5, 6, 7, 8, 9] false) (ins 0x20 3 0 0 0 4 3 1), 3, 4, false, 1, yi [1, 2, 3, 4, 5, 6, 7, 8, 9] false, oneTile 4 false [1, 2, 3, 4, 5, 6, 7, 8, 9], oneExc 4 false [1, 2, 3, 4, 5, 6, 7, 8, 9], issues_of (by decide +kernel) (by decide +kernel) (by decide +kernel) (by decide +kernel) (by decide +kernel), by decide +kernel, by decide +kernel, by decide +kernel, by decide +kernel, by decide +kernel, by decide +kernel, by decide +kernel, by decide +kernel, by decide +kernel, by decide +kernel⟩,
    ⟨⟨5, 0, 0⟩, mx 0x21 0 1 1 0 2 0 0, 1, 1, 0, 2, 0, 24, tl, Exc.none, 2048, issues_of (by decide +kernel) (by decide +kernel) (by decide +kernel) (by decide +kernel) (by decide +kernel), by decide +kernel, by decide +kernel, by decide +kernel, by decide +kernel, by decide +kernel, by decide +kernel, by decide +kernel, by decide +kernel, by decide +kernel, by decide +kernel⟩,
    ⟨⟨5, 0, 0⟩, mx 0x21 0 1 1 0 2 1 0, 1, 1, 0, 2, 0, 24, tl, Exc.none, 2048, issues_of (by decide +kernel) (by decide +kernel) (by decide +kernel) (by decide +kernel) (by decide +kernel), by decide +kernel, by decide +kernel, by decide +kernel, by decide +kernel, by decide +kernel, by decide +kernel, by decide +kernel, by decide +kernel, by decide +kernel, by decide +kernel, by decide +kernel⟩,
    ⟨⟨5, 0, 0⟩, mf 0xFF (ins 0x21 0 3 1 2 1 2 0), 3, 1, 2, 1, 0, itm 0xFF, 9, 1, cfin, issues_of (by decide +kernel) (by decide +kernel) (by decide +kernel) (by decide +kernel) (by decide +kernel), by decide +kernel, by decide +kernel, by decide +kernel, by decide +kernel, by decide +kernel, by decide +kernel, by decide +kernel⟩,
    ⟨⟨5, 0, 0⟩, mf 2 (ins 0x21 0 3 1 2 2 2 0), 3, 1, 2, 2, 0, itm 2, 9, 1, cfin, issues_of (by decide +kernel) (by decide +kernel) (by decide +kernel) (by decide +kernel) (by decide +kernel), by decide +kernel, by decide +kernel, by decide +kernel, by decide +kernel, by decide +kernel, by decide +kernel, by decide +kernel⟩,
    ⟨⟨5, 0, 0⟩, mx 0x22 3 0 0 0 8 0 0, 3, 8, issues_of (by decide +kernel) (by decide +kernel) (by decide +kernel) (by decide +kernel) (by decide +kernel), by decide +kernel, by decide +kernel⟩⟩
/-- The hypotheses of TileArithmeticCompletes, clause by clause. -/
theorem test_met_TileArithmeticCompletes :
    (∃ (th : Th) (s : State) (d : Nat) (a : Nat) (b : Nat) (c : Nat) (z : Bool) (n : Nat) (int : Bool) (pairs : List (Tile × Tile)) (rates : List Nat) (cc : Tile), (Issues th 0x30 ⟨d, a, b, c, if int then 0x0E else 0x01, b2n z, n⟩ s) ∧ n < 16 ∧ c < 32 ∧ d < imgTregs (s.imageOf th) ∧ a + n < imgTregs (s.imageOf th) ∧ b + n < imgTregs (s.imageOf th) ∧ a + n < 64 ∧ b + n < 64 ∧ pairs = (List.range (n + 1)).map (fun k => (s.tile th (a + k), s.tile th (b + k))) ∧ ((∀ p, p ∈ pairs → isIntOperand p.1.fmt.toNat = int ∧ ∃ r, pairRate p.1.fmt.toNat p.2.fmt.toNat = some r)) ∧ rates = pairs.map (fun p => (pairRate p.1.fmt.toNat p.2.fmt.toNat).getD 1) ∧ s.engineFor (s.gcore th) (s.xr th c % 64) ≠ none ∧ cc = s.tile th d ∧ ((z = false → cc.fmt.toNat = if int then 0x0E else 0x01))) ∧
    (∃ (th : Th) (s : State) (d : Nat) (a : Nat) (b : Nat) (c : Nat) (f : Nat) (m : Nat) (i : Ins), i = (⟨d, a, b, c, f, 16 * m, 0⟩ : Ins) ∧ m < 3 ∧ ((m ≠ 2 → c = 0)) ∧ b < 32 ∧ c < 32 ∧ d < imgTregs (s.imageOf th) ∧ a < imgTregs (s.imageOf th) ∧ b < imgTregs (s.imageOf th) ∧ f ≤ 0x0E ∧ f ≠ 0x0C) ∧
    (∃ (th : Th) (s : State) (d : Nat) (a : Nat) (b : Nat) (c : Nat) (f : Nat) (m : Nat) (i : Ins), i = (⟨d, a, b, c, f, 16 * m, 0⟩ : Ins) ∧ m < 3 ∧ ((m ≠ 2 → c = 0)) ∧ b < 32 ∧ c < 32 ∧ d < imgTregs (s.imageOf th) ∧ a < imgTregs (s.imageOf th) ∧ b < imgTregs (s.imageOf th) ∧ f ≤ 0x0E ∧ f ≠ 0x0C) ∧
    (∃ (th : Th) (s : State) (d : Nat) (a : Nat) (b : Nat) (c : Nat) (f : Nat) (m : Nat) (i : Ins), i = (⟨d, a, b, c, f, 16 * m, 0⟩ : Ins) ∧ m < 3 ∧ ((m ≠ 2 → c = 0)) ∧ b < 32 ∧ c < 32 ∧ d < imgTregs (s.imageOf th) ∧ a < imgTregs (s.imageOf th) ∧ b < imgTregs (s.imageOf th) ∧ f ≤ 0x0E ∧ f ≠ 0x0C) ∧
    (∃ (th : Th) (s : State) (d : Nat) (a : Nat) (b : Nat) (c : Nat) (f : Nat) (m : Nat) (i : Ins), i = (⟨d, a, b, c, f, 16 * m + 1, 0⟩ : Ins) ∧ m < 3 ∧ ((m ≠ 2 → c = 0)) ∧ b < 32 ∧ c < 32 ∧ d < imgTregs (s.imageOf th) ∧ a < imgTregs (s.imageOf th) ∧ b < imgTregs (s.imageOf th) ∧ f ≤ 0x0E ∧ f ≠ 0x0C ∧ Issues th 0x42 i s) ∧
    (∃ (th : Th) (s : State) (d : Nat) (a : Nat) (b : Nat) (c : Nat) (f : Nat) (m : Nat) (i : Ins) (tab : List Byte) (fp : Nat → FV), i = (⟨d, a, b, c, f, 16 * m, 0⟩ : Ins) ∧ m < 3 ∧ ((m ≠ 2 → c = 0)) ∧ b < 32 ∧ c < 32 ∧ d < imgTregs (s.imageOf th) ∧ a < imgTregs (s.imageOf th) ∧ f ≤ 0x0E ∧ f ≠ 0x0C ∧ s.xr th b + 1036 ≤ imgSegment (s.imageOf th) ∧ tab = s.rdScratch th (s.xr th b) 1036 ∧ fp = (fun k => ffDecode fmtFP32 (u32At tab (4 * k))) ∧ Issues th 0x43 i s) ∧
    (∃ (th : Th) (s : State) (d : Nat) (a : Nat) (b : Nat) (c : Nat) (f : Nat) (m : Nat) (i : Ins), i = (⟨d, a, b, c, f, 16 * m, 0⟩ : Ins) ∧ m < 3 ∧ ((m ≠ 2 → b = 0 ∧ c = 0)) ∧ b < 32 ∧ c < 32 ∧ d < imgTregs (s.imageOf th) ∧ a < imgTregs (s.imageOf th) ∧ f ≤ 0x0E ∧ f ≠ 0x0C) ∧
    (∃ (th : Th) (s : State) (d : Nat) (a : Nat) (b : Nat) (c : Nat) (f : Nat) (m : Nat) (i : Ins), i = (⟨d, a, b, c, f, 16 * m, 0⟩ : Ins) ∧ m < 3 ∧ ((m ≠ 2 → b = 0 ∧ c = 0)) ∧ b < 32 ∧ c < 32 ∧ d < imgTregs (s.imageOf th) ∧ a < imgTregs (s.imageOf th) ∧ f ≤ 0x0E ∧ f ≠ 0x0C) ∧
    (∃ (th : Th) (s : State) (d : Nat) (a : Nat) (b : Nat) (c : Nat) (f : Nat) (m : Nat) (i : Ins), i = (⟨d, a, b, c, f, 16 * m, 0⟩ : Ins) ∧ m < 3 ∧ ((m ≠ 2 → b = 0 ∧ c = 0)) ∧ b < 32 ∧ c < 32 ∧ d < imgTregs (s.imageOf th) ∧ a < imgTregs (s.imageOf th) ∧ f ≤ 0x0E ∧ f ≠ 0x0C) ∧
    (∃ (th : Th) (s : State) (d : Nat) (a : Nat) (b : Nat) (m : Nat), Issues th 0x60 ⟨d, a, b, 0, 0x0C, 16 * m, 0⟩ s ∧ m < 3 ∧ d < imgTregs (s.imageOf th) ∧ a < imgTregs (s.imageOf th) ∧ b < imgTregs (s.imageOf th) ∧ (s.tile th b).fmt = 2) ∧
    (∃ (th : Th) (s : State) (d : Nat) (a : Nat) (m : Nat) (step : Bool) (idx : Nat), Issues th 0x60 ⟨d, a, 0, 0, 0x0C, 16 * m + 64 + 128 * b2n step, idx⟩ s ∧ m < 3 ∧ idx < 4096 ∧ d < imgTregs (s.imageOf th) ∧ a < imgTregs (s.imageOf th)) ∧
    (∃ (th : Th) (s : State) (d : Nat) (a : Nat) (f : Nat) (op : Nat) (col : Bool) (lists : List (List FV)), Issues th 0x50 ⟨d, a, 0, 0, f, op + 4 * b2n col, 0⟩ s ∧ op < 3 ∧ d < imgTregs (s.imageOf th) ∧ a < imgTregs (s.imageOf th) ∧ f ≤ 0x0E ∧ f ≠ 0x0C ∧ (lists = (if col then (List.range 32).map (fun j => (List.range 32).map (fun r => (s.tile th a).vals.getD (32 * r + j) FV.zero)) else rows32 (s.tile th a).vals))) :=
  ⟨⟨⟨5, 0, 0⟩, { mx 0x30 3 1 1 0 1 1 0 with mil.cores := [(0, { Core.reset with share := [(0, 1)] })] }, 3, 1, 1, 0, true, 0, false, [(tl, tl)], [4], tf1, issues_of (by decide +kernel) (by decide +kernel) (by decide +kernel) (by decide +kernel) (by decide +kernel), by decide +kernel, by decide +kernel, by decide +kernel, by decide +kernel, by decide +kernel, by decide +kernel, by decide +kernel, by decide +kernel, (by intro p hp; rw [List.mem_singleton] at hp; subst hp; exact ⟨by decide +kernel, 4, by decide +kernel⟩), by decide +kernel, by decide +kernel, by decide +kernel, by decide +kernel⟩,
    ⟨⟨5, 0, 0⟩, mx 0x40 3 1 2 0 2 0 0, 3, 1, 2, 0, 2, 0, ⟨3, 1, 2, 0, 2, 0, 0⟩, by decide +kernel, by decide +kernel, by decide +kernel, by decide +kernel, by decide +kernel, by decide +kernel, by decide +kernel, by decide +kernel, by decide +kernel, by decide +kernel⟩,
    ⟨⟨5, 0, 0⟩, mx 0x41 3 1 2 0 2 0 0, 3, 1, 2, 0, 2, 0, ⟨3, 1, 2, 0, 2, 0, 0⟩, by decide +kernel, by decide +kernel, by decide +kernel, by decide +kernel, by decide +kernel, by decide +kernel, by decide +kernel, by decide +kernel, by decide +kernel, by decide +kernel⟩,
    ⟨⟨5, 0, 0⟩, mx 0x42 3 1 2 0 2 16 0, 3, 1, 2, 0, 2, 1, ⟨3, 1, 2, 0, 2, 16, 0⟩, by decide +kernel, by decide +kernel, by decide +kernel, by decide +kernel, by decide +kernel, by decide +kernel, by decide +kernel, by decide +kernel, by decide +kernel, by decide +kernel⟩,
    ⟨⟨5, 0, 0⟩, mx 0x42 3 1 2 0 8 1 0, 3, 1, 2, 0, 8, 0, ⟨3, 1, 2, 0, 8, 1, 0⟩, by decide +kernel, by decide +kernel, by decide +kernel, by decide +kernel, by decide +kernel, by decide +kernel, by decide +kernel, by decide +kernel, by decide +kernel, by decide +kernel, issues_of (by decide +kernel) (by decide +kernel) (by decide +kernel) (by decide +kernel) (by decide +kernel)⟩,
    ⟨⟨5, 0, 0⟩, mx 0x43 3 1 1 0 2 0 0, 3, 1, 1, 0, 2, 0, ⟨3, 1, 1, 0, 2, 0, 0⟩, ((mx 0 0 0 0 0 0 0 0).rdScratch ⟨5, 0, 0⟩ 0x18 1036), fun k => ffDecode fmtFP32 (u32At ((mx 0 0 0 0 0 0 0 0).rdScratch ⟨5, 0, 0⟩ 0x18 1036) (4 * k)), by decide +kernel, by decide +kernel, by decide +kernel, by decide +kernel, by decide +kernel, by decide +kernel, by decide +kernel, by decide +kernel, by decide +kernel, by decide +kernel, by rfl, by rfl, issues_of (by decide +kernel) (by decide +kernel) (by decide +kernel) (by decide +kernel) (by decide +kernel)⟩,
    ⟨⟨5, 0, 0⟩, mx 0x44 3 2 0 0 1 16 0, 3, 2, 0, 0, 1, 1, ⟨3, 2, 0, 0, 1, 16, 0⟩, by decide +kernel, by decide +kernel, by decide +kernel, by decide +kernel, by decide +kernel, by decide +kernel, by decide +kernel, by decide +kernel, by decide +kernel⟩,
    ⟨⟨5, 0, 0⟩, mx 0x60 3 1 0 0 8 16 0, 3, 1, 0, 0, 8, 1, ⟨3, 1, 0, 0, 8, 16, 0⟩, by decide +kernel, by decide +kernel, by decide +kernel, by decide +kernel, by decide +kernel, by decide +kernel, by decide +kernel, by decide +kernel, by decide +kernel⟩,
    ⟨⟨5, 0, 0⟩, mx 0x61 3 2 0 0 1 16 0, 3, 2, 0, 0, 1, 1, ⟨3, 2, 0, 0, 1, 16, 0⟩, by decide +kernel, by decide +kernel, by decide +kernel, by decide +kernel, by decide +kernel, by decide +kernel, by decide +kernel, by decide +kernel, by decide +kernel⟩,
    ⟨⟨5, 0, 0⟩, mx 0x60 3 3 1 0 0xC 0 0, 3, 3, 1, 0, issues_of (by decide +kernel) (by decide +kernel) (by decide +kernel) (by decide +kernel) (by decide +kernel), by decide +kernel, by decide +kernel, by decide +kernel, by decide +kernel, by decide +kernel⟩,
    ⟨⟨5, 0, 0⟩, mx 0x60 3 3 0 0 0xC 0xC0 4095, 3, 3, 0, true, 4095, issues_of (by decide +kernel) (by decide +kernel) (by decide +kernel) (by decide +kernel) (by decide +kernel), by decide +kernel, by decide +kernel, by decide +kernel, by decide +kernel⟩,
    ⟨⟨5, 0, 0⟩, mx 0x50 3 1 0 0 2 5 0, 3, 1, 2, 1, true, (List.range 32).map (fun j => (List.range 32).map (fun r => (tl.vals).getD (32 * r + j) FV.zero)), issues_of (by decide +kernel) (by decide +kernel) (by decide +kernel) (by decide +kernel) (by decide +kernel), by decide +kernel, by decide +kernel, by decide +kernel, by decide +kernel, by decide +kernel, by rfl⟩⟩
/-- The hypotheses of MillWaitsComplete, clause by clause. -/
theorem test_met_MillWaitsComplete :
    (∃ (th : Th) (s : State) (d : Nat) (f : Nat) (tr : Bool) (y : Nat) (b : Binding), Issues th 0x20 ⟨d, 0, 0, 0, f, 8 * b2n tr + 3, y⟩ s ∧ d < imgTregs (s.imageOf th) ∧ f ≤ 0x0E ∧ y < 8 ∧ y ≤ imgWyards (s.imageOf th) ∧ s.bindOf (thBid th) = some b ∧ b.oldPlace = none ∧ b.closing = false ∧ ((s.curItem th y = none ∨ ∃ it, s.curItem th y = some it ∧ it.flushed = false ∧ it.aged = false ∧ it.bytes.length ≤ it.rd)) ∧ ((∀ i, i ∈ b.yard y → i.complete = true → i.claimed ≠ none))) ∧
    (∃ (th : Th) (s : State) (d : Nat) (a : Nat) (n : Nat) (y : Nat) (b : Binding), Issues th 0xA1 ⟨d, a, 0, 0, 0, n, y⟩ s ∧ a < 32 ∧ d + n ≤ 32 ∧ 1 ≤ n ∧ n ≤ 8 ∧ y < 8 ∧ y ≤ imgWyards (s.imageOf th) ∧ s.bindOf (thBid th) = some b ∧ b.oldPlace = none ∧ b.closing = false ∧ ((s.curItem th y = none ∨ ∃ it, s.curItem th y = some it ∧ it.flushed = false ∧ it.aged = false ∧ it.bytes.length ≤ it.rd)) ∧ ((∀ i, i ∈ b.yard y → i.complete = true → i.claimed ≠ none))) ∧
    (∃ (th : Th) (s : State) (d : Nat) (a : Nat) (n : Nat) (y : Nat) (b : Binding), Issues th 0xA1 ⟨d, a, 0, 0, 0, n, y⟩ s ∧ a < 32 ∧ d + n ≤ 32 ∧ 1 ≤ n ∧ n ≤ 8 ∧ y < 8 ∧ y ≤ imgWyards (s.imageOf th) ∧ s.bindOf (thBid th) = some b ∧ b.oldPlace = none ∧ b.closing = false ∧ ((s.curItem th y = none ∨ ∃ it, s.curItem th y = some it ∧ it.flushed = false ∧ it.aged = false ∧ it.bytes.length ≤ it.rd)) ∧ ((∀ i, i ∈ b.yard y → i.complete = true → i.claimed ≠ none))) ∧
    (∃ (th : Th) (s : State) (d : Nat) (f : Nat) (tr : Bool) (y : Nat) (b : Binding), Issues th 0x20 ⟨d, 0, 0, 0, f, 8 * b2n tr + 3, y⟩ s ∧ d < imgTregs (s.imageOf th) ∧ f ≤ 0x0E ∧ y < 8 ∧ y ≤ imgWyards (s.imageOf th) ∧ s.bindOf (thBid th) = some b ∧ b.oldPlace = none ∧ b.closing = false ∧ ((s.curItem th y = none ∨ ∃ it, s.curItem th y = some it ∧ it.flushed = false ∧ it.aged = false ∧ it.bytes.length ≤ it.rd)) ∧ ((∀ i, i ∈ b.yard y → i.complete = true → i.claimed ≠ none))) ∧
    (∃ (th : Th) (s : State) (a : Nat) (n : Nat) (y : Nat) (last : Bool) (b : Binding), Issues th 0xA0 ⟨0, a, 0, 0, 0, n + 16 * b2n last, y⟩ s ∧ a < 32 ∧ n ≤ 8 ∧ y < 8 ∧ y ≤ imgWyards (s.imageOf th) ∧ s.bindOf (thBid th) = some b ∧ b.oldPlace = none ∧ b.closing = false ∧ s.yardCap b.place y < yardUsed (b.yard y) + 8) ∧
    (∃ (th : Th) (s : State) (d : Nat) (a : Nat) (n : Nat) (y : Nat) (b : Binding), Issues th 0xA1 ⟨d, a, 0, 0, 0, n, y⟩ s ∧ a < 32 ∧ d + n ≤ 32 ∧ 1 ≤ n ∧ n ≤ 8 ∧ y < 8 ∧ y ≤ imgWyards (s.imageOf th) ∧ s.bindOf (thBid th) = some b ∧ b.oldPlace = none ∧ b.closing = false ∧ ((s.curItem th y = none ∨ ∃ it, s.curItem th y = some it ∧ it.flushed = false ∧ it.aged = false ∧ it.bytes.length ≤ it.rd)) ∧ ((∀ i, i ∈ b.yard y → i.complete = true → i.claimed ≠ none))) ∧
    (∃ (th : Th) (s : State) (d : Nat) (a : Nat) (n : Nat) (y : Nat) (it : YItem) (b : Binding), Issues th 0xA1 ⟨d, a, 0, 0, 0, n, y⟩ s ∧ a < 32 ∧ d + n ≤ 32 ∧ 1 ≤ n ∧ n ≤ 8 ∧ y < 8 ∧ y ≤ imgWyards (s.imageOf th) ∧ s.bindOf (thBid th) = some b ∧ b.oldPlace = none ∧ b.closing = false ∧ s.curItem th y = some it ∧ it.gone = false ∧ it.rd < it.bytes.length ∧ it.far (8 * n) = true) ∧
    (∃ (th : Th) (b : Binding) (y : Nat) (n : Nat) (s : State), s.bindOf (thBid th) = some b ∧ (s.thread th).st = .switched ∧ (s.thread th).waits = .fetchSlot y n) :=
  ⟨⟨⟨5, 0, 0⟩, mb { bd with threads := [(0, { th0 with item := [(1, some 4)] }), (1, th0)], yards := [(1, [{ yi [1, 2] false with rd := 2 }])] } (ins 0x20 3 0 0 0 4 3 1), 3, 4, false, 1, { bd with threads := [(0, { th0 with item := [(1, some 4)] }), (1, th0)], yards := [(1, [{ yi [1, 2] false with rd := 2 }])] }, issues_of (by decide +kernel) (by decide +kernel) (by decide +kernel) (by decide +kernel) (by decide +kernel), by decide +kernel, by decide +kernel, by decide +kernel, by decide +kernel, by decide +kernel, by decide +kernel, by decide +kernel, by exact spent_of (by decide +kernel), by decide +kernel⟩,
    ⟨⟨5, 0, 0⟩, mb { bd with threads := [(0, { th0 with item := [(1, some 4)] }), (1, th0)], yards := [(1, [{ yi [1, 2] false with rd := 2 }])] } (ins 0xA1 4 9 0 0 0 2 1), 4, 9, 2, 1, { bd with threads := [(0, { th0 with item := [(1, some 4)] }), (1, th0)], yards := [(1, [{ yi [1, 2] false with rd := 2 }])] }, issues_of (by decide +kernel) (by decide +kernel) (by decide +kernel) (by decide +kernel) (by decide +kernel), by decide +kernel, by decide +kernel, by decide +kernel, by decide +kernel, by decide +kernel, by decide +kernel, by decide +kernel, by decide +kernel, by decide +kernel, by exact spent_of (by decide +kernel), by decide +kernel⟩,
    ⟨⟨5, 0, 0⟩, mb { bd with threads := [(0, { th0 with item := [(0, some 3)] }), (1, th0)], yards := [(0, [{ fitm with rd := 2 }])], order := [3, 8], outs := [⟨8, some { fp with h := mkHdr 2 2 false 8 9 5 7 0 0 0 0 1 0 0 0 }, .port 4⟩] } (ins 0xA1 4 9 0 0 0 2 0), 4, 9, 2, 0, { bd with threads := [(0, { th0 with item := [(0, some 3)] }), (1, th0)], yards := [(0, [{ fitm with rd := 2 }])], order := [3, 8], outs := [⟨8, some { fp with h := mkHdr 2 2 false 8 9 5 7 0 0 0 0 1 0 0 0 }, .port 4⟩] }, issues_of (by decide +kernel) (by decide +kernel) (by decide +kernel) (by decide +kernel) (by decide +kernel), by decide +kernel, by decide +kernel, by decide +kernel, by decide +kernel, by decide +kernel, by decide +kernel, by decide +kernel, by decide +kernel, by decide +kernel, by exact spent_of (by decide +kernel), by decide +kernel⟩,
    ⟨⟨5, 0, 0⟩, mx 0x20 3 0 0 0 4 3 1, 3, 4, false, 1, bd, issues_of (by decide +kernel) (by decide +kernel) (by decide +kernel) (by decide +kernel) (by decide +kernel), by decide +kernel, by decide +kernel, by decide +kernel, by decide +kernel, by decide +kernel, by decide +kernel, by decide +kernel, by exact spent_of (by decide +kernel), by decide +kernel⟩,
    ⟨⟨5, 0, 0⟩, mb { bd with yards := [(1, full)] } (ins 0xA0 0 1 0 0 0 19 1), 1, 3, 1, true, { bd with yards := [(1, full)] }, issues_of (by decide +kernel) (by decide +kernel) (by decide +kernel) (by decide +kernel) (by decide +kernel), by decide +kernel, by decide +kernel, by decide +kernel, by decide +kernel, by decide +kernel, by decide +kernel, by decide +kernel, by decide +kernel⟩,
    ⟨⟨5, 0, 0⟩, mx 0xA1 4 9 0 0 0 2 1, 4, 9, 2, 1, bd, issues_of (by decide +kernel) (by decide +kernel) (by decide +kernel) (by decide +kernel) (by decide +kernel), by decide +kernel, by decide +kernel, by decide +kernel, by decide +kernel, by decide +kernel, by decide +kernel, by decide +kernel, by decide +kernel, by decide +kernel, by exact spent_of (by decide +kernel), by decide +kernel⟩,
    ⟨⟨5, 0, 0⟩, mb far8 (ins 0xA1 4 9 0 0 0 2 1), 4, 9, 2, 1, { yi (zeros 32) false with loc := [.regs, .lpddr, .lpddr, .regs] }, far8, issues_of (by decide +kernel) (by decide +kernel) (by decide +kernel) (by decide +kernel) (by decide +kernel), by decide +kernel, by decide +kernel, by decide +kernel, by decide +kernel, by decide +kernel, by decide +kernel, by decide +kernel, by decide +kernel, by decide +kernel, by decide +kernel, by decide +kernel, by decide +kernel, by decide +kernel⟩,
    ⟨⟨5, 0, 0⟩, { far8 with threads := [(0, { th0 with st := .switched, waits := .fetchSlot 1 16, item := [(1, some 4)] })] }, 1, 16, mb { far8 with threads := [(0, { th0 with st := .switched, waits := .fetchSlot 1 16, item := [(1, some 4)] })] } 0, by decide +kernel, by decide +kernel, by decide +kernel⟩⟩
/-- The hypotheses of MillYardsComplete, clause by clause. -/
theorem test_met_MillYardsComplete :
    (∃ (th : Th) (s : State) (a : Nat) (n : Nat) (y : Nat) (last : Bool) (b : Binding) (v : Side), Issues th 0xA0 ⟨0, a, 0, 0, 0, n + 16 * b2n last, y⟩ s ∧ a < 32 ∧ n ≤ 8 ∧ y < 8 ∧ y ≤ imgWyards (s.imageOf th) ∧ s.bindOf (thBid th) = some b ∧ v = b.side ∧ yardUsed (v.yard y) + 8 ≤ s.yardCap v.place y) ∧
    (∃ (th : Th) (s : State) (a : Nat) (n : Nat) (y : Nat) (last : Bool) (b : Binding) (v : Side), Issues th 0xA0 ⟨0, a, 0, 0, 0, n + 16 * b2n last, y⟩ s ∧ a < 32 ∧ n ≤ 8 ∧ y < 8 ∧ y ≤ imgWyards (s.imageOf th) ∧ s.bindOf (thBid th) = some b ∧ v = b.side ∧ yardUsed (v.yard y) + 8 ≤ s.yardCap v.place y) ∧
    (∃ (th : Th) (s : State) (d : Nat) (a : Nat) (n : Nat) (y : Nat) (it : YItem) (bs : List Byte), Issues th 0xA1 ⟨d, a, 0, 0, 0, n, y⟩ s ∧ a < 32 ∧ d + n ≤ 32 ∧ 1 ≤ n ∧ n ≤ 8 ∧ y < 8 ∧ y ≤ imgWyards (s.imageOf th) ∧ s.curItem th y = some it ∧ it.flushed = false ∧ it.aged = false ∧ it.rd < it.bytes.length ∧ it.far (8 * n) = false ∧ bs = (it.bytes.drop it.rd).take (8 * n)) ∧
    (∃ (th : Th) (s : State) (d : Nat) (a : Nat) (n : Nat) (y : Nat) (it : YItem), Issues th 0xA1 ⟨d, a, 0, 0, 0, n, y⟩ s ∧ a < 32 ∧ d + n ≤ 32 ∧ 1 ≤ n ∧ n ≤ 8 ∧ y < 8 ∧ y ≤ imgWyards (s.imageOf th) ∧ s.curItem th y = some it ∧ it.flushed = true ∧ it.flow? = none) ∧
    (∃ (th : Th) (s : State) (y : Nat) (it : YItem), Issues th 0xA2 ⟨0, 0, 0, 0, 0, 0, y⟩ s ∧ y < 8 ∧ y ≤ imgWyards (s.imageOf th) ∧ s.curItem th y = some it ∧ it.flushed = false ∧ it.aged = false) ∧
    (∃ (th : Th) (s : State) (y : Nat) (b : Binding), Issues th 0xA3 ⟨0, 0, 0, 0, 0, 0, y⟩ s ∧ y < 8 ∧ y ≤ imgWyards (s.imageOf th) ∧ s.bindOf (thBid th) = some b ∧ b.oldPlace = none ∧ b.order = []) ∧
    (∃ (th : Th) (s : State) (a : Nat) (b : Nat) (c : Nat) (f : Nat) (n : Nat) (w : Nat → Word) (h : BitVec 20 → Hdr) (p : BitVec 20 → Pkt) (q : Nat), Issues th 0x70 ⟨0, a, b, c, f, 0, n⟩ s ∧ a ≤ 28 ∧ c < 32 ∧ n < 16 ∧ b + n < imgTregs (s.imageOf th) ∧ b + n < 64 ∧ f ≤ 0x0E ∧ s.fwd.mgmtEid ≠ 0 ∧ (w = fun (k : Nat) => BitVec.ofNat 32 (s.xr th (a + k / 2) / 2 ^ (32 * (k % 2)))) ∧ (h = fun job => (Hdr.setEpoch { w0 := w 0, w1 := w 1, w2 := s.fwd.mgmtEid, w3 := putFld (w 3) 12 20 job.toNat, w4 := w 4, w5 := w 5, w6 := w 6, weight := 0 } s.fwd.cur).setHops 0) ∧ (p = fun job => { h := h job, payload := sendPayload th b (n + 1) f (h job).len s, tin := s.now, inPort := 2048 + s.dOf th, c2 := false, counted := false, thread := some (thId th) }) ∧ q = s.xr th c % 2048 ∧ s.up q = true ∧ s.dist (districtOf q) ≠ .draining ∧ (h 0).isSched = false ∧ s.roomFor q (h 0).tc (p 0).cells = true ∧ PlainSwitch s ∧ s.outputWaits (thId th) = false) ∧
    (∃ (th : Th) (s : State) (a : Nat) (b : Nat) (f : Nat) (n : Nat) (it : YItem) (p : Pkt) (hop : Hop) (bi : Binding) (o : Pkt), Issues th 0x71 ⟨0, a, b, 0, f, 0, n⟩ s ∧ a < 32 ∧ n < 16 ∧ b + n < imgTregs (s.imageOf th) ∧ b + n < 64 ∧ f ≤ 0x0E ∧ s.curItem th 0 = some it ∧ it.kind = .flow p hop ∧ it.sent = false ∧ it.flushed = false ∧ it.aged = false ∧ s.bindOf (thBid th) = some bi ∧ bi.outs = [] ∧ ((∃ j r, bi.order = j :: r ∧ j ≠ it.id)) ∧ o = { p with h := { p.h.setLen (s.xr th a % 65536) with w4 := putFld (p.h.setLen (s.xr th a % 65536)).w4 0 8 f }, payload := sendPayload th b (n + 1) f (s.xr th a % 65536) s, thread := some (thId th), flow := some (s.dOf th) }) ∧
    (∃ (th : Th) (s : State) (a : Nat) (b : Nat) (f : Nat) (n : Nat) (it : YItem) (p : Pkt) (q : Nat) (bi : Binding) (r : List Nat) (o : Pkt) (u : State), Issues th 0x71 ⟨0, a, b, 0, f, 0, n⟩ s ∧ a < 32 ∧ n < 16 ∧ b + n < imgTregs (s.imageOf th) ∧ b + n < 64 ∧ f ≤ 0x0E ∧ s.curItem th 0 = some it ∧ it.kind = .flow p (.port q) ∧ it.sent = false ∧ it.flushed = false ∧ it.aged = false ∧ s.bindOf (thBid th) = some bi ∧ bi.outs = [] ∧ bi.order = it.id :: r ∧ o = { p with h := { p.h.setLen (s.xr th a % 65536) with w4 := putFld (p.h.setLen (s.xr th a % 65536)).w4 0 8 f }, payload := sendPayload th b (n + 1) f (s.xr th a % 65536) s, thread := some (thId th), flow := some (s.dOf th) } ∧ u = fillPolicer o.inPort s ∧ o.inPort < 2048 ∧ s.aged o = false ∧ o.h.isSched = false ∧ u.policerHolds o.inPort = false ∧ 4 * o.size ≤ (u.sched o.inPort).bucket ∧ s.up q = true ∧ s.dist (districtOf q) ≠ .draining ∧ s.roomFor q o.h.tc o.cells = true ∧ PlainSwitch s ∧ s.outputWaits (thId th) = false) :=
  ⟨⟨⟨5, 0, 0⟩, mx 0xA0 0 1 0 0 0 19 1, 1, 3, 1, true, bd, bd.side, issues_of (by decide +kernel) (by decide +kernel) (by decide +kernel) (by decide +kernel) (by decide +kernel), by decide +kernel, by decide +kernel, by decide +kernel, by decide +kernel, by decide +kernel, by rfl, by decide +kernel⟩,
    ⟨⟨5, 0, 0⟩, mx 0xA0 0 1 0 0 0 3 1, 1, 3, 1, false, bd, bd.side, issues_of (by decide +kernel) (by decide +kernel) (by decide +kernel) (by decide +kernel) (by decide +kernel), by decide +kernel, by decide +kernel, by decide +kernel, by decide +kernel, by decide +kernel, by rfl, by decide +kernel⟩,
    ⟨⟨5, 0, 0⟩, mb (by_ [1, 2, 3, 4, 5, 6, 7, 8, 9] false) (ins 0xA1 4 9 0 0 0 2 1), 4, 9, 2, 1, yi [1, 2, 3, 4, 5, 6, 7, 8, 9] false, [1, 2, 3, 4, 5, 6, 7, 8, 9], issues_of (by decide +kernel) (by decide +kernel) (by decide +kernel) (by decide +kernel) (by decide +kernel), by decide +kernel, by decide +kernel, by decide +kernel, by decide +kernel, by decide +kernel, by decide +kernel, by decide +kernel, by decide +kernel, by decide +kernel, by decide +kernel, by decide +kernel, by decide +kernel⟩,
    ⟨⟨5, 0, 0⟩, mb (by_ [1, 2, 3, 4, 5, 6, 7, 8, 9] true) (ins 0xA1 4 9 0 0 0 2 1), 4, 9, 2, 1, yi [1, 2, 3, 4, 5, 6, 7, 8, 9] true, issues_of (by decide +kernel) (by decide +kernel) (by decide +kernel) (by decide +kernel) (by decide +kernel), by decide +kernel, by decide +kernel, by decide +kernel, by decide +kernel, by decide +kernel, by decide +kernel, by decide +kernel, by decide +kernel, by decide +kernel⟩,
    ⟨⟨5, 0, 0⟩, mb (by_ [1, 2, 3, 4, 5, 6, 7, 8, 9] false) (ins 0xA2 0 0 0 0 0 0 1), 1, yi [1, 2, 3, 4, 5, 6, 7, 8, 9] false, issues_of (by decide +kernel) (by decide +kernel) (by decide +kernel) (by decide +kernel) (by decide +kernel), by decide +kernel, by decide +kernel, by decide +kernel, by decide +kernel, by decide +kernel⟩,
    ⟨⟨5, 0, 0⟩, mb (by_ [1, 2, 3, 4, 5, 6, 7, 8, 9] false) (ins 0xA3 0 0 0 0 0 0 1), 1, by_ [1, 2, 3, 4, 5, 6, 7, 8, 9] false, issues_of (by decide +kernel) (by decide +kernel) (by decide +kernel) (by decide +kernel) (by decide +kernel), by decide +kernel, by decide +kernel, by decide +kernel, by decide +kernel, by decide +kernel⟩,
    ⟨⟨5, 0, 0⟩, s6, 4, 1, 3, 2, 0, w6, h6, p6, 4, issues_of (by decide +kernel) (by decide +kernel) (by decide +kernel) (by decide +kernel) (by decide +kernel), by decide +kernel, by decide +kernel, by decide +kernel, by decide +kernel, by decide +kernel, by decide +kernel, by decide +kernel, by exact funext fun _ => rfl, by exact funext fun _ => rfl, by exact funext fun _ => rfl, by decide +kernel, by decide +kernel, by decide +kernel, by decide +kernel, by decide +kernel, ⟨by decide +kernel, by decide +kernel, by decide +kernel, by decide +kernel⟩, by decide +kernel⟩,
    ⟨⟨5, 0, 0⟩, { mb (bfl [8, 3]) (ins 0x71 0 8 1 0 2 0 0) with fresh := 0 }, 8, 1, 2, 0, fitm, fp, .port 4, bfl [8, 3], mkSendt 8 2 ({ mb (bfl [8, 3]) (ins 0x71 0 8 1 0 2 0 0) with fresh := 0 }), issues_of (by decide +kernel) (by decide +kernel) (by decide +kernel) (by decide +kernel) (by decide +kernel), by decide +kernel, by decide +kernel, by decide +kernel, by decide +kernel, by decide +kernel, by decide +kernel, by decide +kernel, by decide +kernel, by decide +kernel, by decide +kernel, by decide +kernel, by decide +kernel, by exact ⟨8, [3], by decide +kernel, by decide +kernel⟩, by decide +kernel⟩,
    ⟨⟨5, 0, 0⟩, { mb (bfl [3, 8]) (ins 0x71 0 8 1 0 2 0 0) with swc.sched := [(0, sch)] }, 8, 1, 2, 0, fitm, fp, 4, bfl [3, 8], [8], mkSendt 8 2 ({ mb (bfl [3, 8]) (ins 0x71 0 8 1 0 2 0 0) with swc.sched := [(0, sch)] }), fillPolicer 0 ({ mb (bfl [3, 8]) (ins 0x71 0 8 1 0 2 0 0) with swc.sched := [(0, sch)] }), issues_of (by decide +kernel) (by decide +kernel) (by decide +kernel) (by decide +kernel) (by decide +kernel), by decide +kernel, by decide +kernel, by decide +kernel, by decide +kernel, by decide +kernel, by decide +kernel, by decide +kernel, by decide +kernel, by decide +kernel, by decide +kernel, by decide +kernel, by decide +kernel, by decide +kernel, by decide +kernel, by decide +kernel, by decide +kernel, by decide +kernel, by decide +kernel, by decide +kernel, by decide +kernel, by decide +kernel, by decide +kernel, by decide +kernel, ⟨by decide +kernel, by decide +kernel, by decide +kernel, by decide +kernel⟩, by decide +kernel⟩⟩
end Sys2Proof.Tests.W17
namespace Sys2Proof.Tests.W18
def op (tx rx : RingState) : OPath := { OPath.reset with txst := tx, rxst := rx }
def olane (i : Nat) : Nat × OptLane := (i, ⟨0, BitVec.ofNat 3 (i / 4), BitVec.ofNat 3 (i % 4), BitVec.ofNat 5 (i % 4), BitVec.ofNat 16 (100 + i), false, true, BitVec.ofNat 16 (200 + i)⟩)
def o0 : State := { up with svc := [(16, heard0), (17, heard0)], plt.plat.ports := [(0, 0x33F00000), (4, 0x33F00000)], lnk := [(0, { upLink with txact := 15, rxact := 15 }), (4, { upLink with txact := 15, rxact := 15 })], plt.plat.opt := (List.range 8).map olane, plt.plat.eng := [(0, ⟨true, 3, 4⟩)], opt.eng := [(0, { Engine.reset with st := .up, seq := 7 })], opt.path := [0, 1, 2, 3, 8, 9, 10, 11].map (fun p => (p, op .locked .locked)) }
def olk (p : OPath) : State := { o0 with opt.path := [(1, p), (9, op .locked .locked)] }
def fl (st : FlyState) : Fly := { Fly.reset with st := st, laneA := 1, laneB := 5, tcut := 2000000 }
def ofl (f : Fly) : State := { o0 with opt.fly := [(2, f)], opt.path := [(1, { op .fly .fly with fly := some 2 }), (9, { op .fly .fly with fly := some 2 })] }
def cmd : EngCmd := ⟨5, 0x86, [0, 0, 1, 0], 1, 0, some 2⟩
/-- The hypotheses of OpticalEnginesComplete, clause by clause. -/
theorem test_met_OpticalEnginesComplete :
    (∃ (e : Fin 32) (second : _) (codes : _) (seq : _) (b : _) (s : State), HearsEngine s e second codes 0x80 seq b ∧ s.engPresent e.val = true ∧ ((∃ p, p ∈ s.namedPaths e.val ∧ bitAt (u64At b 12) (p % 64) = false))) ∧
    (∃ (e : Fin 32) (second : _) (codes : _) (seq : _) (b : _) (s : State), HearsEngine s e second codes 0x80 seq b ∧ s.engPresent e.val = true ∧ ((∀ p, p ∈ s.namedPaths e.val → bitAt (u64At b 12) (p % 64) = true))) ∧
    (∃ (e : Fin 32) (second : _) (codes : _) (seq : _) (b : _) (s : State), HearsEngine s e second codes 0x85 seq b ∧ s.engPresent e.val = true ∧ (((s.engine e.val).st = .up ∨ (s.engine e.val).st = .lost)) ∧ s.opt.fly = []) ∧
    (∃ (e : Fin 32) (second : Bool) (codes : List Code) (seq : Byte) (b : _) (c : EngCmd) (s : State), HearsEngine s e second codes 0x8F seq b ∧ (s.engine e.val).cmds.find? (fun c => c.seq == seq) = some c) ∧
    (∃ (dt : Nat) (e : Fin 32) (s : State), (s.engine e.val).st = .up ∧ 10 ^ 7 ≤ s.clk + dt - (s.engine e.val).statusAt) ∧
    (∃ (dt : Nat) (e : Fin 32) (s : State), s.clk + dt - (s.engine e.val).statusAt < 10 ^ 7) :=
  ⟨⟨0, false, dsay 0x80 7 (record 24 [(0, toLE 8 5), (12, toLE 8 0xF)]), 7, record 24 [(0, toLE 8 5), (12, toLE 8 0xF)], o0, hears_said (by decide +kernel) (by decide +kernel) (by decide +kernel) (by decide +kernel), by decide +kernel, by exact ⟨8, by decide +kernel, by decide +kernel⟩⟩,
    ⟨0, true, dsay 0x80 7 (record 24 [(0, toLE 8 5), (12, toLE 8 0xFFFF)]), 7, record 24 [(0, toLE 8 5), (12, toLE 8 0xFFFF)], o0, hears_said (by decide +kernel) (by decide +kernel) (by decide +kernel) (by decide +kernel), by decide +kernel, by decide +kernel⟩,
    ⟨0, false, dsay 0x85 7 (record 1280 [(20, toLE 2 0 ++ toLE 2 0 ++ toLE 2 0 ++ toLE 2 11 ++ toLE 2 12 ++ toLE 2 13 ++ toLE 2 14 ++ toLE 2 101 ++ toLE 2 201)]), 7, record 1280 [(20, toLE 2 0 ++ toLE 2 0 ++ toLE 2 0 ++ toLE 2 11 ++ toLE 2 12 ++ toLE 2 13 ++ toLE 2 14 ++ toLE 2 101 ++ toLE 2 201)], olk (op .verify .verify), hears_said (by decide +kernel) (by decide +kernel) (by decide +kernel) (by decide +kernel), by decide +kernel, by decide +kernel, by decide +kernel⟩,
    ⟨0, false, dsay 0x8F 5 (zeros 4), 5, zeros 4, cmd, { ofl (fl .switching) with opt.eng := [(0, { Engine.reset with st := .up, cmds := [cmd] })] }, hears_said (by decide +kernel) (by decide +kernel) (by decide +kernel) (by decide +kernel), by decide +kernel⟩,
    ⟨10000000, 0, o0, by decide +kernel, by decide +kernel⟩,
    ⟨9999999, 0, o0, by decide +kernel⟩⟩
/-- The hypotheses of OpticalPathsComplete, clause by clause. -/
theorem test_met_OpticalPathsComplete :
    (∃ (dt : Nat) (p : Fin 2048) (a : Nat) (s : State), (s.path p.val).dark = some a ∧ (s.path p.val).rxst = .sweep ∧ s.engLost p.val = false ∧ 10 ^ 9 ≤ s.clk + dt - a) ∧
    (∃ (dt : Nat) (p : Fin 2048) (a : Nat) (s : State), (s.path p.val).dark = some a ∧ (s.path p.val).rxst = .sweep ∧ s.engLost p.val = false ∧ 10 ^ 9 ≤ s.clk + dt - a) ∧
    (∃ (dt : Nat) (p : Fin 2048) (a : Nat) (s : State), (s.path p.val).dark = some a ∧ (s.path p.val).rxst = .sweep ∧ s.engLost p.val = false ∧ 10 ^ 9 ≤ s.clk + dt - a) ∧
    (∃ (hp : HPort) (p : Fin 2048) (l : Nat) (port : Nat) (r : CalRes) (s : State), Owner hp s ∧ s.laneOfPath p.val = some l ∧ s.portOfLane l = some port ∧ optCalRefusal s port l p.val = some r ∧ (s.path p.val).calres ≠ .running) ∧
    (∃ (hp : HPort) (p : Fin 2048) (l : Nat) (port : Nat) (s : State), Owner hp s ∧ s.laneOfPath p.val = some l ∧ s.portOfLane l = some port ∧ optCalRefusal s port l p.val = none ∧ s.opt.fly = []) ∧
    (∃ (dt : Nat) (p : Fin 2048) (o : OPath) (u : State) (s : State), u = elapse dt s ∧ o = s.path p.val ∧ o.calres = .running) ∧
    (∃ (dt : Nat) (p : Fin 2048) (o : OPath) (u : State) (s : State), u = elapse dt s ∧ o = s.path p.val ∧ o.calres = .running) ∧
    (∃ (dt : Nat) (p : Fin 2048) (o : OPath) (u : State) (s : State), u = elapse dt s ∧ o = s.path p.val ∧ o.calres = .running) ∧
    (∃ (dt : Nat) (p : Fin 2048) (o : OPath) (u : State) (s : State), u = elapse dt s ∧ o = s.path p.val ∧ o.calres = .running) ∧
    (∃ (dt : Nat) (p : Fin 2048) (o : OPath) (u : State) (s : State), u = elapse dt s ∧ o = s.path p.val ∧ o.calres = .running) ∧
    (∃ (dt : Nat) (p : Fin 2048) (o : OPath) (u : State) (s : State), u = elapse dt s ∧ o = s.path p.val ∧ o.calres = .running) ∧
    (∃ (dt : Nat) (p : Fin 2048) (drop : Bool) (l : Nat) (s : State), s.laneOfPath p.val = some l ∧ s.opt.fly = [] ∧ s.engLost p.val = false ∧ (s.path p.val).calres ≠ .running ∧ ((if drop then ((s.path p.val).rxst = .verify ∨ (s.path p.val).rxst = .locked) ∧ 200000000 ≤ s.clk + dt - (s.path p.val).rxMatch else ((s.path p.val).txst = .verify ∨ (s.path p.val).txst = .locked) ∧ 200000000 ≤ s.clk + dt - (s.path p.val).txMatch))) ∧
    (∃ (dt : Nat) (p : Fin 2048) (drop : Bool) (l : Nat) (s : State), s.laneOfPath p.val = some l ∧ s.opt.fly = [] ∧ s.engLost p.val = false ∧ (s.path p.val).calres ≠ .running ∧ ((if drop then ((s.path p.val).rxst = .verify ∨ (s.path p.val).rxst = .locked) ∧ 200000000 ≤ s.clk + dt - (s.path p.val).rxMatch else ((s.path p.val).txst = .verify ∨ (s.path p.val).txst = .locked) ∧ 200000000 ≤ s.clk + dt - (s.path p.val).txMatch))) ∧
    (∃ (dt : Nat) (p : Fin 2048) (drop : Bool) (l : Nat) (o : OPath) (s : State), s.laneOfPath p.val = some l ∧ s.opt.fly = [] ∧ s.engLost p.val = false ∧ o = s.path p.val ∧ o.calres = .running ∧ o.calTrim = false ∧ ((if drop then o.rxst = .cal ∧ verifying o.rxEng = true ∧ 200000000 ≤ s.clk + dt - o.rxMatch else o.txst = .cal ∧ verifying o.txEng = true ∧ 200000000 ≤ s.clk + dt - o.txMatch))) ∧
    (∃ (dt : Nat) (p : Fin 2048) (drop : Bool) (l : Nat) (o : OPath) (s : State), s.laneOfPath p.val = some l ∧ s.opt.fly = [] ∧ s.engLost p.val = false ∧ o = s.path p.val ∧ o.calres = .running ∧ o.calTrim = false ∧ ((if drop then o.rxst = .cal ∧ verifying o.rxEng = true ∧ 200000000 ≤ s.clk + dt - o.rxMatch else o.txst = .cal ∧ verifying o.txEng = true ∧ 200000000 ≤ s.clk + dt - o.txMatch))) :=
  ⟨⟨1000000000, 1, 0, olk { op .locked .sweep with dark := some 0 }, by decide +kernel, by decide +kernel, by decide +kernel, by decide +kernel⟩,
    ⟨1000000000, 1, 0, { olk { op .locked .sweep with dark := some 0, rxin := 0 } with opt.floor := 0xFF00 }, by decide +kernel, by decide +kernel, by decide +kernel, by decide +kernel⟩,
    ⟨1000000000, 1, 0, olk { op .locked .sweep with dark := some 0, rxin := 0x8000 }, by decide +kernel, by decide +kernel, by decide +kernel, by decide +kernel⟩,
    ⟨.ha, 1, 1, 0, .notUp, { o0 with lnk := [] }, ⟨by decide +kernel, by decide +kernel, by decide +kernel⟩, by decide +kernel, by decide +kernel, by decide +kernel, by decide +kernel⟩,
    ⟨.ha, 1, 1, 0, o0, ⟨by decide +kernel, by decide +kernel, by decide +kernel⟩, by decide +kernel, by decide +kernel, by decide +kernel, by decide +kernel⟩,
    ⟨5, 1, { op .cal .cal with calres := .running, calTx := true, calRx := true }, elapse 5 ({ olk { op .cal .cal with calres := .running, calTx := true, calRx := true } with opt.eng := [(0, { Engine.reset with st := .up })] }), { olk { op .cal .cal with calres := .running, calTx := true, calRx := true } with opt.eng := [(0, { Engine.reset with st := .up })] }, by decide +kernel, by decide +kernel, by decide +kernel⟩,
    ⟨500000000, 1, { op .cal .cal with calres := .running }, elapse 500000000 ({ olk { op .cal .cal with calres := .running } with opt.eng := [(0, { Engine.reset with st := .up })] }), { olk { op .cal .cal with calres := .running } with opt.eng := [(0, { Engine.reset with st := .up })] }, by decide +kernel, by decide +kernel, by decide +kernel⟩,
    ⟨500000000, 1, { op .cal .cal with calres := .running, calPass := 2 }, elapse 500000000 ({ olk { op .cal .cal with calres := .running, calPass := 2 } with opt.eng := [(0, { Engine.reset with st := .up })] }), { olk { op .cal .cal with calres := .running, calPass := 2 } with opt.eng := [(0, { Engine.reset with st := .up })] }, by decide +kernel, by decide +kernel, by decide +kernel⟩,
    ⟨500000000, 1, { op .cal .cal with calres := .running }, elapse 500000000 ({ olk { op .cal .cal with calres := .running } with opt.eng := [(0, { Engine.reset with st := .lost })] }), { olk { op .cal .cal with calres := .running } with opt.eng := [(0, { Engine.reset with st := .lost })] }, by decide +kernel, by decide +kernel, by decide +kernel⟩,
    ⟨499999999, 1, { op .cal .cal with calres := .running }, elapse 499999999 ({ olk { op .cal .cal with calres := .running } with opt.eng := [(0, { Engine.reset with st := .up })] }), { olk { op .cal .cal with calres := .running } with opt.eng := [(0, { Engine.reset with st := .up })] }, by decide +kernel, by decide +kernel, by decide +kernel⟩,
    ⟨500000000, 1, { op .cal .cal with calres := .running, calPass := 2 }, elapse 500000000 ({ olk { op .cal .cal with calres := .running, calPass := 2 } with opt.eng := [(0, { Engine.reset with st := .lost })] }), { olk { op .cal .cal with calres := .running, calPass := 2 } with opt.eng := [(0, { Engine.reset with st := .lost })] }, by decide +kernel, by decide +kernel, by decide +kernel⟩,
    ⟨200000000, 1, true, 1, o0, by decide +kernel, by decide +kernel, by decide +kernel, by decide +kernel, by decide +kernel⟩,
    ⟨200000000, 1, false, 1, olk { op .locked .locked with mislocks := 2 }, by decide +kernel, by decide +kernel, by decide +kernel, by decide +kernel, by decide +kernel⟩,
    ⟨200000000, 1, true, 1, { op .cal .cal with calres := .running, rxEng := 3 }, olk { op .cal .cal with calres := .running, rxEng := 3 }, by decide +kernel, by decide +kernel, by decide +kernel, by decide +kernel, by decide +kernel, by decide +kernel, by decide +kernel⟩,
    ⟨200000000, 1, true, 1, { op .cal .cal with calres := .running, rxEng := 3, calPass := 1, mislocks := 2 }, olk { op .cal .cal with calres := .running, rxEng := 3, calPass := 1, mislocks := 2 }, by decide +kernel, by decide +kernel, by decide +kernel, by decide +kernel, by decide +kernel, by decide +kernel, by decide +kernel⟩⟩
/-- The hypotheses of FlyoversComplete, clause by clause. -/
theorem test_met_FlyoversComplete :
    (∃ (hp : HPort) (n : Byte) (s : State), Owner hp s ∧ s.opt.busy = false ∧ flyRefusal s n.toNat (fld s.opt.lanes.toNat 0 11) (fld s.opt.lanes.toNat 16 11) s.opt.at_.toNat = none) ∧
    (∃ (hp : HPort) (n : Byte) (c : _) (s : State), Owner hp s ∧ s.opt.busy = false ∧ flyRefusal s n.toNat (fld s.opt.lanes.toNat 0 11) (fld s.opt.lanes.toNat 16 11) s.opt.at_.toNat = some c) ∧
    (∃ (hp : HPort) (s : State), Owner hp s ∧ s.opt.busy = false) ∧
    (∃ (hp : HPort) (s : State), Owner hp s ∧ s.opt.busy = false) ∧
    (∃ (hp : HPort) (s : State), Owner hp s ∧ s.opt.busy = false) ∧
    (∃ (hp : HPort) (s : State), Owner hp s ∧ s.opt.busy = false) ∧
    (∃ (dt : Nat) (n : Byte) (s : State), (s.flyOf n.toNat).st = .prep ∧ (s.flyOf n.toNat).tcut ≤ (elapse dt s).now) ∧
    (∃ (dt : Nat) (n : Byte) (s : State), (s.flyOf n.toNat).st = .switching ∧ (s.flyOf n.toNat).tcut + 10 ^ 6 ≤ (elapse dt s).now ∧ ((s.flyOf n.toNat).ackA && (s.flyOf n.toNat).ackB && (s.flyOf n.toNat).poffA && (s.flyOf n.toNat).poffB) = false ∧ (s.engine ((s.flyPaths n.toNat).1 / 64)).st ≠ .lost) ∧
    (∃ (n : Byte) (s : State), (s.flyOf n.toNat).st = .switching ∧ 2 ≤ (s.flyOf n.toNat).crossed ∧ (s.engine ((s.flyPaths n.toNat).1 / 64)).st ≠ .lost) ∧
    (∃ (n : Byte) (s : State), (s.flyOf n.toNat).st = .switching ∧ 2 ≤ (s.flyOf n.toNat).crossed ∧ (s.engine ((s.flyPaths n.toNat).1 / 64)).st ≠ .lost) ∧
    (∃ (dt : Nat) (n : Byte) (s : State), (s.flyOf n.toNat).st = .offPending ∧ (s.flyOf n.toNat).offAt ≤ (elapse dt s).now) ∧
    (∃ (dt : Nat) (n : Byte) (s : State), (s.flyOf n.toNat).st = .switching ∧ (s.flyOf n.toNat).tcut + 5 * 10 ^ 6 ≤ (elapse dt s).now ∧ (s.engine ((s.flyPaths n.toNat).1 / 64)).st ≠ .lost) :=
  ⟨⟨.ha, 2, { o0 with opt.lanes := 0x00050001, opt.at_ := 2000000, opt.eidA := 8 }, ⟨by decide +kernel, by decide +kernel, by decide +kernel⟩, by decide +kernel, by decide +kernel⟩,
    ⟨.ha, 2, 6, { o0 with opt.lanes := 0x00050001, opt.at_ := 1999999 }, ⟨by decide +kernel, by decide +kernel, by decide +kernel⟩, by decide +kernel, by decide +kernel⟩,
    ⟨.ha, { ofl (fl .on) with opt.at_ := 2000000 }, ⟨by decide +kernel, by decide +kernel, by decide +kernel⟩, by decide +kernel⟩,
    ⟨.ha, ofl (fl .on), ⟨by decide +kernel, by decide +kernel, by decide +kernel⟩, by decide +kernel⟩,
    ⟨.ha, { ofl (fl .on) with opt.at_ := 1 }, ⟨by decide +kernel, by decide +kernel, by decide +kernel⟩, by decide +kernel⟩,
    ⟨.ha, ofl (fl .prep), ⟨by decide +kernel, by decide +kernel, by decide +kernel⟩, by decide +kernel⟩,
    ⟨2000000, 2, ofl (fl .prep), by decide +kernel, by decide +kernel⟩,
    ⟨3000000, 2, ofl (fl .switching), by decide +kernel, by decide +kernel, by decide +kernel, by decide +kernel⟩,
    ⟨2, { ofl { fl .switching with crossed := 2 } with opt.floor := 0xFF00 }, by decide +kernel, by decide +kernel, by decide +kernel⟩,
    ⟨2, { ofl { fl .switching with crossed := 2 } with opt.floor := 0xFF00 }, by decide +kernel, by decide +kernel, by decide +kernel⟩,
    ⟨3, 2, ofl { fl .offPending with offAt := 2 }, by decide +kernel, by decide +kernel⟩,
    ⟨7000000, 2, ofl (fl .switching), by decide +kernel, by decide +kernel, by decide +kernel⟩⟩
end Sys2Proof.Tests.W18
namespace Sys2Proof.Tests.W19
def pt (st : PartState) : Part := { Part.reset with st := st }
def rp (k : Nat) (p : Part) : State := { up with res.parts := [(4096 * k + 5, p)] }
def snp : Snap := ⟨7, 5000000, 5000000, true, false, false, false⟩
def tlyS : State := { up with tly.at_ := 5000000 }
def blkS : State := { up with plt.plat.time.role := 1, plt.plat.time.blockId := 9, tmb.blk := .joined, nv.devid := 3 }
def tg : State := { up with tly.tagEnable := true }
def snpIm : SnapImage := { snap := snp, tact := 77, stepped := false, lock := 2, frozen := [(3, 9)], frozenX := [] }
def tlyC : State := { tlyS with tly.imgBase := 4096, tly.copying := some snpIm }
theorem flatMap_length8 (f : Nat → List Byte) (h : ∀ i, (f i).length = 8) (l : List Nat) : (l.flatMap f).length = 8 * l.length := by
  induction l with
  | nil => rfl
  | cons a l ih => simp only [List.flatMap_cons, List.length_append, h, ih, List.length_cons]; omega
theorem imageOf_fits (n : Nat) : 4096 + (imageOf tlyC snpIm n).length ≤ tlyC.capacity := by
  have h : (imageOf tlyC snpIm n).length ≤ 64 + 8 * 1048576 := by
    have : tlyC.tlyCount ≤ 1048576 := Nat.min_le_left ..
    simp only [imageOf, List.length_append, flatMap_length8 _ (fun i => toLE_length 8 _), List.length_range]
    simp only [imageHead, List.length_append, toLE_length, zeros, List.length_replicate]
    omega
  have : tlyC.capacity = 128 * 10 ^ 9 ∨ tlyC.capacity = 256 * 10 ^ 9 := by unfold State.capacity; split <;> simp
  omega
theorem tlyC_at : 4096 = tlyC.tly.imgBase.toNat + tlyC.tly.imgHead.toNat % tlyC.imgSlots * tlyC.imgBytes := by
  rw [show tlyC.tly.imgBase.toNat = 4096 from by decide +kernel, show tlyC.tly.imgHead.toNat = 0 from by decide +kernel, Nat.zero_mod, Nat.zero_mul]
/-- The hypotheses of PartCommandsComplete, clause by clause. -/
theorem test_met_PartCommandsComplete :
    (∃ (p : HPort) (k : BitVec 2) (i : BitVec 12) (s : State), Owner p s ∧ s.res.partBusy = false ∧ i.toNat < partCount k.toNat) ∧
    (∃ (p : HPort) (k : BitVec 2) (i : BitVec 12) (s : State), Owner p s ∧ s.res.partBusy = false ∧ partCount k.toNat ≤ i.toNat) ∧
    (∃ (p : HPort) (k : BitVec 2) (i : BitVec 12) (s : State), Owner p s ∧ s.res.partBusy = false ∧ i.toNat < partCount k.toNat) ∧
    (∃ (p : HPort) (k : BitVec 2) (i : BitVec 12) (s : State), Owner p s ∧ s.res.partBusy = false ∧ i.toNat < partCount k.toNat) ∧
    (∃ (p : HPort) (k : BitVec 2) (i : BitVec 12) (s : State), Owner p s ∧ s.res.partBusy = false ∧ i.toNat < partCount k.toNat) ∧
    (∃ (p : HPort) (k : BitVec 2) (i : BitVec 12) (s : State), Owner p s ∧ s.res.partBusy = false ∧ i.toNat < partCount k.toNat) ∧
    (∃ (p : HPort) (k : BitVec 2) (i : BitVec 12) (s : State), Owner p s ∧ s.res.partBusy = false ∧ i.toNat < partCount k.toNat) ∧
    (∃ (p : HPort) (k : BitVec 2) (i : BitVec 12) (s : State), Owner p s ∧ s.res.partBusy = false ∧ i.toNat < partCount k.toNat) ∧
    (∃ (p : HPort) (i : BitVec 12) (s : State), Owner p s ∧ s.res.partBusy = false ∧ i.toNat < 1536) ∧
    (∃ (p : HPort) (i : BitVec 12) (s : State), Owner p s ∧ s.res.partBusy = false ∧ i.toNat < 1536) ∧
    (∃ (p : HPort) (s : State), Owner p s ∧ s.res.partBusy = false) ∧
    (∃ (p : HPort) (s : State), Owner p s ∧ s.res.partBusy = false) ∧
    (∃ (p : HPort) (s : State), Owner p s ∧ s.res.partBusy = false) ∧
    (∃ (p : HPort) (k : BitVec 2) (s : State), Owner p s ∧ s.res.partBusy = false ∧ ((k = 0 ∨ k = 3))) ∧
    (∃ (k : BitVec 2) (i : BitVec 12) (s : State), (s.partOf k.toNat i.toNat).st = .testing) ∧
    (∃ (k : BitVec 2) (i : BitVec 12) (s : State), (s.partOf k.toNat i.toNat).st = .testing) ∧
    (∃ (k : BitVec 2) (i : BitVec 12) (s : State), (s.partOf k.toNat i.toNat).st = .testing) ∧
    (∃ (k : BitVec 2) (i : BitVec 12) (s : State), (s.partOf k.toNat i.toNat).st = .drainWait ∧ s.drainable k.toNat i.toNat = true) :=
  ⟨⟨.ha, 1, 5, rp 1 (pt .drained), ⟨by decide +kernel, by decide +kernel, by decide +kernel⟩, by decide +kernel, by decide +kernel⟩,
    ⟨.ha, 1, 1536, rp 1 (pt .drained), ⟨by decide +kernel, by decide +kernel, by decide +kernel⟩, by decide +kernel, by decide +kernel⟩,
    ⟨.ha, 1, 5, rp 1 (pt .watch), ⟨by decide +kernel, by decide +kernel, by decide +kernel⟩, by decide +kernel, by decide +kernel⟩,
    ⟨.ha, 0, 5, rp 0 (pt .watch), ⟨by decide +kernel, by decide +kernel, by decide +kernel⟩, by decide +kernel, by decide +kernel⟩,
    ⟨.ha, 1, 5, rp 1 (pt .drained), ⟨by decide +kernel, by decide +kernel, by decide +kernel⟩, by decide +kernel, by decide +kernel⟩,
    ⟨.ha, 1, 5, rp 1 (pt .drained), ⟨by decide +kernel, by decide +kernel, by decide +kernel⟩, by decide +kernel, by decide +kernel⟩,
    ⟨.ha, 1, 5, rp 1 { pt .drained with pen := 2000 * 10 ^ 9 }, ⟨by decide +kernel, by decide +kernel, by decide +kernel⟩, by decide +kernel, by decide +kernel⟩,
    ⟨.ha, 1, 5, rp 1 { pt .watch with pen := 2000 * 10 ^ 9 }, ⟨by decide +kernel, by decide +kernel, by decide +kernel⟩, by decide +kernel, by decide +kernel⟩,
    ⟨.ha, 5, rp 1 (pt .watch), ⟨by decide +kernel, by decide +kernel, by decide +kernel⟩, by decide +kernel, by decide +kernel⟩,
    ⟨.ha, 6, rp 1 (pt .testing), ⟨by decide +kernel, by decide +kernel, by decide +kernel⟩, by decide +kernel, by decide +kernel⟩,
    ⟨.ha, rp 2 (pt .drained), ⟨by decide +kernel, by decide +kernel, by decide +kernel⟩, by decide +kernel⟩,
    ⟨.ha, rp 2 (pt .testing), ⟨by decide +kernel, by decide +kernel, by decide +kernel⟩, by decide +kernel⟩,
    ⟨.ha, rp 2 (pt .testing), ⟨by decide +kernel, by decide +kernel, by decide +kernel⟩, by decide +kernel⟩,
    ⟨.ha, 3, up, ⟨by decide +kernel, by decide +kernel, by decide +kernel⟩, by decide +kernel, by decide +kernel⟩,
    ⟨1, 5, rp 1 { pt .testing with wasDrained := true }, by decide +kernel⟩,
    ⟨1, 5, rp 1 { pt .testing with wasDrained := true }, by decide +kernel⟩,
    ⟨2, 5, rp 2 (pt .testing), by decide +kernel⟩,
    ⟨1, 5, rp 1 (pt .drainWait), by decide +kernel, by decide +kernel⟩⟩
/-- The hypotheses of SelfTestAndGovernorComplete, clause by clause. -/
theorem test_met_SelfTestAndGovernorComplete :
    (∃ (p : HPort) (s : State), Owner p s ∧ s.res.testBusy = false) ∧
    (∃ (p : HPort) (s : State), Owner p s ∧ s.res.testBusy = true) ∧
    (∃ (s : State), s.res.testBusy = true) ∧
    (∃ (s : State), s.res.testBusy = true) ∧
    (∃ (s : State), s.res.testBusy = true) ∧
    (∃ (dt : Nat) (d : Fin 16) (s : State), 1600 < celsius16 (s.gov d.val).tj ∧ 10000000 ≤ s.clk + dt - (s.gov d.val).last ∧ (s.gov d.val).level.toNat < 12) ∧
    (∃ (dt : Nat) (d : Fin 16) (s : State), celsius16 (s.gov d.val).tj ≤ 1552 ∧ 100000000 ≤ s.clk + dt - (s.gov d.val).last ∧ (s.gov d.val).level ≠ 0) ∧
    (∃ (d : Fin 16) (s : State), 1552 < celsius16 (s.gov d.val).tj ∧ celsius16 (s.gov d.val).tj ≤ 1600) :=
  ⟨⟨.ha, { up with glb.state := .quiesced }, ⟨by decide +kernel, by decide +kernel, by decide +kernel⟩, by decide +kernel⟩,
    ⟨.ha, { up with res.testBusy := true }, ⟨by decide +kernel, by decide +kernel, by decide +kernel⟩, by decide +kernel⟩,
    ⟨{ up with res.testBusy := true }, by decide +kernel⟩,
    ⟨{ up with res.testBusy := true }, by decide +kernel⟩,
    ⟨{ up with res.testBusy := true }, by decide +kernel⟩,
    ⟨10000000, 3, { up with res.gov := [(3, ⟨false, 2, 1601, 0⟩)] }, by decide +kernel, by decide +kernel, by decide +kernel⟩,
    ⟨100000000, 3, { up with res.gov := [(3, ⟨false, 2, 1552, 0⟩)] }, by decide +kernel, by decide +kernel, by decide +kernel⟩,
    ⟨3, { up with res.gov := [(3, ⟨false, 2, 1553, 0⟩)] }, by decide +kernel, by decide +kernel⟩⟩
/-- The hypotheses of TallyCommandsComplete, clause by clause. -/
theorem test_met_TallyCommandsComplete :
    (∃ (p : HPort) (s : State), Owner p s) ∧
    (∃ (p : HPort) (s : State), Owner p s ∧ s.tly.busy = false ∧ snapClose s.tly.pend s.now = false ∧ s.tly.copying = none ∧ (s.tly.imgHead.toNat + 1) % s.imgSlots ≠ s.tly.imgTail.toNat % s.imgSlots) ∧
    (∃ (p : HPort) (s : State), Owner p s ∧ s.tly.busy = false ∧ snapClose s.tly.pend s.now = true) ∧
    (∃ (p : HPort) (s : State), Owner p s ∧ s.tly.busy = false) ∧
    (∃ (p : HPort) (s : State), Owner p s ∧ s.tly.busy = false) ∧
    (∃ (p : HPort) (s : State), Owner p s ∧ s.tly.busy = false) ∧
    (∃ (p : HPort) (s : State), Owner p s ∧ s.tly.busy = false) ∧
    (∃ (p : HPort) (s : State), Owner p s ∧ s.tly.busy = false) ∧
    (∃ (p : HPort) (s : State), Owner p s ∧ s.tly.busy = false) ∧
    (∃ (p : HPort) (s : State), Owner p s ∧ s.tly.busy = false) ∧
    (∃ (lane : Fin 2) (codes : List Code) (b : _) (s : State), HearsRing s lane codes 0x24 b ∧ u16At b 0 = s.plt.plat.time.blockId.toNat ∧ s.tmb.blk = .joined ∧ u64At b 16 ≠ s.nv.devid.toNat ∧ s.snapKnown (BitVec.ofNat 16 (u16At b 24)) (BitVec.ofNat 64 (u64At b 8)) = false ∧ s.now < u64At b 8 ∧ ((∀ v, v ∈ s.tly.pend → v.due ≠ BitVec.ofNat 64 (u64At b 8))) ∧ s.tly.pend.length < 8) ∧
    (∃ (dt : Nat) (v : Snap) (u : State) (s : State), u = elapse dt s ∧ s.tly.pend = [v] ∧ v.due.toNat ≤ u.now ∧ s.tly.copying = none ∧ (s.tly.imgHead.toNat + 1) % s.imgSlots ≠ s.tly.imgTail.toNat % s.imgSlots) ∧
    (∃ (c : Fin 128) (s : State), s.tly.tagEnable = true ∧ bitAt s.tly.tagDmask.toNat (c.val / 8) = true ∧ (s.tly.tagHead.toNat + 1) % s.tagSlots ≠ s.tly.tagTail.toNat % s.tagSlots ∧ s.tly.tagBase.toNat + s.tly.tagHead.toNat % s.tagSlots * 32 + 32 ≤ s.capacity) ∧
    (∃ (c : Fin 128) (s : State), s.tly.tagEnable = true ∧ bitAt s.tly.tagDmask.toNat (c.val / 8) = true ∧ (s.tly.tagHead.toNat + 1) % s.tagSlots = s.tly.tagTail.toNat % s.tagSlots) ∧
    (∃ (im : SnapImage) (a : Nat) (s : State), s.tly.copying = some im ∧ a = s.tly.imgBase.toNat + s.tly.imgHead.toNat % s.imgSlots * s.imgBytes ∧ a + (imageOf s im (s.tly.seq + 1).toNat).length ≤ s.capacity) :=
  ⟨⟨.ha, up, ⟨by decide +kernel, by decide +kernel, by decide +kernel⟩⟩,
    ⟨.ha, up, ⟨by decide +kernel, by decide +kernel, by decide +kernel⟩, by decide +kernel, by decide +kernel, by decide +kernel, by decide +kernel⟩,
    ⟨.ha, { up with tly.pend := [{ snp with due := 100 }] }, ⟨by decide +kernel, by decide +kernel, by decide +kernel⟩, by decide +kernel, by decide +kernel⟩,
    ⟨.ha, tlyS, ⟨by decide +kernel, by decide +kernel, by decide +kernel⟩, by decide +kernel⟩,
    ⟨.ha, { tlyS with tly.pend := [snp] }, ⟨by decide +kernel, by decide +kernel, by decide +kernel⟩, by decide +kernel⟩,
    ⟨.ha, up, ⟨by decide +kernel, by decide +kernel, by decide +kernel⟩, by decide +kernel⟩,
    ⟨.ha, up, ⟨by decide +kernel, by decide +kernel, by decide +kernel⟩, by decide +kernel⟩,
    ⟨.ha, { blkS with tly.at_ := 5000000, plt.plat.time.role := 1 }, ⟨by decide +kernel, by decide +kernel, by decide +kernel⟩, by decide +kernel⟩,
    ⟨.ha, { tlyS with tly.pend := [snp] }, ⟨by decide +kernel, by decide +kernel, by decide +kernel⟩, by decide +kernel⟩,
    ⟨.ha, { tlyS with tly.pend := [snp] }, ⟨by decide +kernel, by decide +kernel, by decide +kernel⟩, by decide +kernel⟩,
    ⟨0, dsay 0x24 0 (record 32 [(0, [9]), (8, toLE 8 7000000), (16, toLE 8 4), (24, [5])]), record 32 [(0, [9]), (8, toLE 8 7000000), (16, toLE 8 4), (24, [5])], { inRing up with tmb.blk := .joined }, ⟨by decide +kernel, 0, hears_said (by decide +kernel) (by decide +kernel) (by decide +kernel) (by decide +kernel)⟩, by decide +kernel, by decide +kernel, by decide +kernel, by decide +kernel, by decide +kernel, by decide +kernel, by decide +kernel⟩,
    ⟨6000000, snp, elapse 6000000 ({ tlyS with tly.pend := [snp] } : State), { tlyS with tly.pend := [snp] }, by decide +kernel, by decide +kernel, by decide +kernel, by decide +kernel, by decide +kernel⟩,
    ⟨17, tg, by decide +kernel, by decide +kernel, by decide +kernel, by decide +kernel⟩,
    ⟨17, { tg with tly.tagTail := 1 }, by decide +kernel, by decide +kernel, by decide +kernel⟩,
    ⟨snpIm, 4096, tlyC, by decide +kernel, by exact tlyC_at, by exact imageOf_fits _⟩⟩
end Sys2Proof.Tests.W19
namespace Sys2Proof.Tests.W20
def ti : State := { up with svc := [(3, heard0)], plt.plat.time := { up.plt.plat.time with source := 1, todLane := 3, toutLane := 5, tol := 100 } }
def tr : State := { ti with glb.state := .ready }
def br : State := { up with svc := [(3, heard0), (4, heard0)], plt.plat.time := { up.plt.plat.time with source := 0, role := 2, priority := 4, blockId := 9, east := 3, west := 4, rttMax := 5 }, nv.devid := 77, clk := 500 }
def brr : State := { br with glb.state := .ready }
def rmsg (term hops : Nat) (body : List Byte) : List Byte := toLE 2 9 ++ toLE 2 term ++ toLE 1 hops ++ zeros 3 ++ body ++ zeros 24
def tt0 : Timetable := ⟨1, 10, 5, 3, [], [], 0⟩
/-- The first 60 bytes of a timetable image without entries. -/
def ttHead60 : List Byte := [0x47, 0x42, 0x54, 0x54, 1, 0, 1, 0, 10, 0, 0, 0, 0, 0, 0, 0, 5, 0, 0, 0, 0, 0, 0, 0, 3] ++ zeros 35
/-- A timetable image without entries, staged with this CRC. -/
def ttAt (c : Nat) : State :=
  { up with plt.plat.ports := [(0, 0x10000000), (4, 0x10000000)], tmb.stage := 4096, tmb.stageLen := 32968, tmb.fbBase := 1000000,
            ram := [(4096, 0x47), (4097, 0x42), (4098, 0x54), (4099, 0x54), (4100, 1), (4102, 1), (4104, 10), (4112, 5), (4120, 3),
                    (4156, BitVec.ofNat 8 c), (4157, BitVec.ofNat 8 (c / 256)), (4158, BitVec.ofNat 8 (c / 256 / 256)), (4159, BitVec.ofNat 8 (c / 256 / 256 / 256))] }
theorem ttAt_first (c : Nat) : rdMem (ttAt c) 4096 64 = ttHead60 ++ toLE 4 c := by rfl
theorem ttAt_staged (c : Nat) : (ttAt c).ttStaged = ttHead60 ++ toLE 4 c ++ zeros 32904 := by
  have n : u32At (rdMem (ttAt c) 4096 64) 12 = 0 := by
    rw [ttAt_first, u32At, leAt_append_left (by decide)]
    decide
  show rdMem (ttAt c) 4096 (min 32968 (32968 + 16 * u32At (rdMem (ttAt c) 4096 64) 12)) = _
  rw [n, show min 32968 (32968 + 16 * 0) = 64 + 32904 from rfl, rdMem_append, rdMem_zeros (a := 4096 + 64), ttAt_first]
  intro i _
  simp only [ttAt, tget]
  repeat rw [if_neg (by omega)]
theorem ttAt_field (c off n : Nat) (h : off + n ≤ 60) : leAt (ttHead60 ++ toLE 4 c ++ zeros 32904) off n = leAt ttHead60 off n := by
  rw [List.append_assoc]
  exact leAt_append_left h
theorem leAt_zeros (x : List Byte) (m off n : Nat) (h : x.length ≤ off) : leAt (x ++ zeros m) off n = 0 := by
  have e : ∀ k, leNat (List.replicate k 0) = 0 := fun k => by induction k <;> simp_all [leNat, List.replicate_succ]
  obtain ⟨d, rfl⟩ := Nat.exists_eq_add_of_le h
  simp only [leAt, slice, zeros, List.drop_append, List.drop_replicate]
  rw [List.drop_of_length_le (by omega)]
  simp only [List.nil_append, List.take_replicate, List.replicate_append_replicate, e, List.length_replicate, Nat.add_sub_cancel_left]
theorem ttAt_parse : ttParse (ttAt (crc32c (ttHead60 ++ zeros 32904))) (ttAt (crc32c (ttHead60 ++ zeros 32904))).ttStaged = .ok tt0 := by
  have lt := crc32c_lt (ttHead60 ++ zeros 32904)
  generalize hc : crc32c (ttHead60 ++ zeros 32904) = c at lt ⊢
  rw [ttAt_staged]
  have l60 : ttHead60.length = 60 := by decide
  have len : (ttHead60 ++ toLE 4 c ++ zeros 32904).length = 32968 := by simp only [List.length_append, l60, toLE_length, zeros, List.length_replicate]
  have f0 := ttAt_field c 0 4 (by decide)
  have f4 := ttAt_field c 4 2 (by decide)
  have f6 := ttAt_field c 6 2 (by decide)
  have f8 := ttAt_field c 8 4 (by decide)
  have f12 := ttAt_field c 12 4 (by decide)
  have f16 := ttAt_field c 16 4 (by decide)
  have f24 := ttAt_field c 24 8 (by decide)
  have f60 : leAt (ttHead60 ++ toLE 4 c ++ zeros 32904) 60 4 = c := by
    rw [← l60, leAt_append _ _ _ 4 (toLE_length 4 c), leNat_toLE, Nat.mod_eq_of_lt (by omega)]
  have cr : crc32c ((ttHead60 ++ toLE 4 c ++ zeros 32904).take 60 ++ ((ttHead60 ++ toLE 4 c ++ zeros 32904).take 32968).drop 64) = c := by
    rw [List.take_of_length_le (by omega : _ ≤ 32968), List.append_assoc, List.take_left' l60, ← List.append_assoc,
      List.drop_left' (by simp [l60, toLE_length]), hc]
  have fz : ∀ r, u32At (ttHead60 ++ toLE 4 c ++ zeros 32904) (64 + 8 * r + 4) = 0 := fun r => leAt_zeros _ _ _ _ (by simp [l60, toLE_length]; omega)
  have fd : ∀ (l : List Nat) (d : Tab (Nat × Nat)), l.foldl (fun d r =>
      if u32At (ttHead60 ++ toLE 4 c ++ zeros 32904) (64 + 8 * r + 4) == 0 then d
      else tset (0, 0) d r (u32At (ttHead60 ++ toLE 4 c ++ zeros 32904) (64 + 8 * r), u32At (ttHead60 ++ toLE 4 c ++ zeros 32904) (64 + 8 * r + 4))) d = d := by
    intro l
    induction l with
    | nil => exact fun _ => rfl
    | cons a l ih => intro d; rw [List.foldl_cons, fz]; exact ih d
  have g0 : leAt ttHead60 0 4 = 0x54544247 := by decide
  have g4 : leAt ttHead60 4 2 = 1 := by decide
  have g6 : leAt ttHead60 6 2 = 1 := by decide
  have g8 : leAt ttHead60 8 4 = 10 := by decide
  have g12 : leAt ttHead60 12 4 = 0 := by decide
  have g16 : leAt ttHead60 16 4 = 5 := by decide
  have g24 : leAt ttHead60 24 8 = 3 := by decide
  have hd : ttHead + 16 * 0 = 32968 := by decide
  unfold ttParse
  simp only [u32At, u16At, u64At] at fd ⊢
  simp only [f0, f4, f6, f8, f12, f16, f24, f60, g0, g4, g6, g8, g12, g16, g24, len, hd, cr, fd]
  rw [if_neg (by decide), if_neg (by simp), if_neg (by decide), if_neg (by decide), if_neg (by simp), if_neg (by simp)]
  rfl
def ts : State := ttAt (crc32c (ttHead60 ++ zeros 32904))
def mp : State := { sw with tmb.mapen := true, tmb.mapTail := 127, tmb.mapSize := 7, nv.devid := 77 }
/-- The hypotheses of TimeInputsComplete, clause by clause. -/
theorem test_met_TimeInputsComplete :
    (∃ (l : Fin 80) (codes : List Code) (seq : _) (b : _) (s : State), Hears s l.val codes 0x01 seq b ∧ s.onTimeIn = true ∧ l.val = s.plt.plat.time.todLane.toNat) ∧
    (∃ (l : Fin 80) (codes : List Code) (seq : _) (b : _) (s : State), Hears s l.val codes 0x01 seq b ∧ s.onTimeIn = true ∧ l.val = s.plt.plat.time.todLane.toNat) ∧
    (∃ (dt : Nat) (n : DWord) (a : Nat) (u : State) (s : State), u = elapse dt s ∧ s.onTimeIn = true ∧ s.tmb.todNext = some (n, a) ∧ 10 ^ 8 ≤ s.clk + dt - a ∧ s.tmb.lock = .free ∧ s.glb.state ≠ .inService ∧ s.glb.state ≠ .quiesced) ∧
    (∃ (dt : Nat) (n : DWord) (a : Nat) (u : State) (s : State), u = elapse dt s ∧ s.onTimeIn = true ∧ s.tmb.todNext = some (n, a) ∧ 10 ^ 8 ≤ s.clk + dt - a ∧ s.tmb.lock = .locked ∧ 65536 * 1000 < (((n.toNat * 65536 : Nat) : Int) - (u.tmb.tb : Int)).natAbs) ∧
    (∃ (dt : Nat) (n : DWord) (a : Nat) (o : Int) (u : State) (s : State), u = elapse dt s ∧ s.onTimeIn = true ∧ s.tmb.todNext = some (n, a) ∧ 10 ^ 8 ≤ s.clk + dt - a ∧ s.tmb.lock ≠ .free ∧ o = ((n.toNat * 65536 : Nat) : Int) - (u.tmb.tb : Int) ∧ o.natAbs ≤ 65536) ∧
    (∃ (dt : Nat) (o : Int) (u : State) (s : State), u = elapse dt s ∧ s.onTimeIn = true ∧ s.tmb.todNext = none ∧ s.tmb.lock ≠ .free ∧ o = secondOffset u.tmb.tb ∧ o.natAbs ≤ 65536) ∧
    (∃ (s : State), s.onTimeIn = true) ∧
    (∃ (a : Nat) (s : State), s.onTimeIn = true ∧ s.tmb.ppsAt = some a ∧ s.tmb.lock = .locked) ∧
    (∃ (a : Nat) (s : State), s.onTimeIn = true ∧ s.tmb.ppsAt = some a ∧ s.tmb.lock = .locked) ∧
    (∃ (dt : Nat) (n : Nat) (x : Nat) (u : State) (s : State), u = elapse dt s ∧ x = s.plt.plat.time.toutLane.toNat ∧ x ≠ 255 ∧ n = alignUp (u.now + 10 ^ 8) (10 ^ 9) ∧ n ≠ s.tmb.toutNext) ∧
    (∃ (dt : Nat) (s : State), s.tmb.lock = .holdover ∧ s.tmb.holdLimit.toNat * 1000 < s.clk + dt - s.tmb.holdSince) ∧
    (∃ (dt : Nat) (a : Nat) (s : State), s.tmb.lock = .locked ∧ s.tmb.active.isSome = true ∧ s.plt.plat.time.source ≠ 2 ∧ s.tmb.stepAt = some a ∧ 1000000 ≤ s.clk + dt - a) ∧
    (∃ (dt : Nat) (s : State), ((∃ a, s.tmb.stepAt = some a ∧ s.clk + dt - a < 1000000))) :=
  ⟨⟨3, dsay 1 0 (toLE 8 77 ++ [1]), 0, toLE 8 77 ++ [1], ti, hears_said (by decide +kernel) (by decide +kernel) (by decide +kernel) (by decide +kernel), by decide +kernel, by decide +kernel⟩,
    ⟨3, dsay 1 0 (toLE 8 77 ++ [0]), 0, toLE 8 77 ++ [0], ti, hears_said (by decide +kernel) (by decide +kernel) (by decide +kernel) (by decide +kernel), by decide +kernel, by decide +kernel⟩,
    ⟨100000000, 7000000000, 0, elapse 100000000 { tr with tmb.todNext := some (7000000000, 0) }, { tr with tmb.todNext := some (7000000000, 0) }, by decide +kernel, by decide +kernel, by decide +kernel, by decide +kernel, by decide +kernel, by decide +kernel, by decide +kernel⟩,
    ⟨100000000, 7000000000, 0, elapse 100000000 { ti with tmb.todNext := some (7000000000, 0), tmb.lock := .locked }, { ti with tmb.todNext := some (7000000000, 0), tmb.lock := .locked }, by decide +kernel, by decide +kernel, by decide +kernel, by decide +kernel, by decide +kernel, by decide +kernel⟩,
    ⟨100000000, 1000000000, 0, 9, elapse 100000000 ({ ti with tmb.todNext := some (1000000000, 0), tmb.lock := .acquiring, tmb.good := 2, tmb.tb := (10 ^ 9 - 100000000) * 65536 - 9 }), { ti with tmb.todNext := some (1000000000, 0), tmb.lock := .acquiring, tmb.good := 2, tmb.tb := (10 ^ 9 - 100000000) * 65536 - 9 }, by decide +kernel, by decide +kernel, by decide +kernel, by decide +kernel, by decide +kernel, by decide +kernel, by decide +kernel⟩,
    ⟨100, 65536, elapse 100 { ti with tmb.lock := .acquiring, tmb.good := 2, tmb.tb := (10 ^ 9 - 101) * 65536 }, { ti with tmb.lock := .acquiring, tmb.good := 2, tmb.tb := (10 ^ 9 - 101) * 65536 }, by decide +kernel, by decide +kernel, by decide +kernel, by decide +kernel, by decide +kernel, by decide +kernel⟩,
    ⟨{ ti with tmb.lock := .locked, tmb.good := 2, tmb.tb := (10 ^ 9 - 101) * 65536 }, by decide +kernel⟩,
    ⟨0, { ti with tmb.lock := .locked, tmb.ppsAt := some 0 }, by decide +kernel, by decide +kernel, by decide +kernel⟩,
    ⟨0, { ti with tmb.lock := .locked, tmb.ppsAt := some 0 }, by decide +kernel, by decide +kernel, by decide +kernel⟩,
    ⟨10, 1000000000, 5, elapse 10 { ti with tmb.lock := .locked, tmb.ppsAt := some 0 }, { ti with tmb.lock := .locked, tmb.ppsAt := some 0 }, by decide +kernel, by decide +kernel, by decide +kernel, by decide +kernel, by decide +kernel⟩,
    ⟨20001000, { ti with tmb.lock := .holdover, tmb.admOn := true }, by decide +kernel, by decide +kernel⟩,
    ⟨1000000, 0, { ti with tmb.lock := .locked, tmb.active := some tt0, tmb.stepAt := some 0 }, by decide +kernel, by decide +kernel, by decide +kernel, by decide +kernel, by decide +kernel⟩,
    ⟨999999, { ti with tmb.lock := .locked, tmb.active := some tt0, tmb.stepAt := some 0 }, by exact ⟨0, by decide +kernel, by decide +kernel⟩⟩⟩
/-- The hypotheses of BlockRingComplete, clause by clause. -/
theorem test_met_BlockRingComplete :
    (∃ (l : Fin 2) (codes : List Code) (b : _) (s : State), HearsRing s l codes 0x02 b ∧ u16At b 0 ≠ s.plt.plat.time.blockId.toNat) ∧
    (∃ (l : Fin 2) (codes : List Code) (b : List Byte) (raw : Int) (s : State), HearsRing s l codes 0x02 b ∧ u16At b 0 = s.plt.plat.time.blockId.toNat ∧ s.tmb.term.toNat ≤ msgTerm b ∧ s.plt.plat.time.source = 0 ∧ s.tmb.master = false ∧ s.glb.state ≠ .inService ∧ s.glb.state ≠ .quiesced ∧ ((∀ r : RingLane, r = (if isWest l then s.tmb.ring0 else s.tmb.ring1) → s.syncLive r = false ∨ msgHops b < r.hops.toNat)) ∧ msgHops b < 255 ∧ raw = ((u64At b 8 * 65536 + (s.ring l).delay : Nat) : Int) - (s.markerAt l : Int)) ∧
    (∃ (l : Fin 2) (codes : List Code) (b : List Byte) (raw : Int) (s : State), HearsRing s l codes 0x02 b ∧ u16At b 0 = s.plt.plat.time.blockId.toNat ∧ s.tmb.term.toNat ≤ msgTerm b ∧ s.plt.plat.time.source = 0 ∧ s.tmb.master = false ∧ s.glb.state ≠ .inService ∧ s.glb.state ≠ .quiesced ∧ ((∀ r : RingLane, r = (if isWest l then s.tmb.ring0 else s.tmb.ring1) → s.syncLive r = false ∨ msgHops b < r.hops.toNat)) ∧ msgHops b < 255 ∧ raw = ((u64At b 8 * 65536 + (s.ring l).delay : Nat) : Int) - (s.markerAt l : Int)) ∧
    (∃ (l : Fin 2) (codes : List Code) (b : List Byte) (raw : Int) (s : State), HearsRing s l codes 0x02 b ∧ u16At b 0 = s.plt.plat.time.blockId.toNat ∧ s.tmb.term.toNat ≤ msgTerm b ∧ s.plt.plat.time.source = 0 ∧ s.tmb.master = false ∧ s.glb.state ≠ .inService ∧ s.glb.state ≠ .quiesced ∧ ((∀ r : RingLane, r = (if isWest l then s.tmb.ring0 else s.tmb.ring1) → s.syncLive r = false ∨ msgHops b < r.hops.toNat)) ∧ msgHops b < 255 ∧ raw = ((u64At b 8 * 65536 + (s.ring l).delay : Nat) : Int) - (s.markerAt l : Int)) ∧
    (∃ (s : State), s.inBlock = true ∧ s.tmb.master = true) ∧
    (∃ (l : Fin 2) (codes : List Code) (b : _) (s : State), HearsRing s l codes 0x03 b ∧ u16At b 0 = s.plt.plat.time.blockId.toNat) ∧
    (∃ (s : State), s.inBlock = true) ∧
    (∃ (l : Fin 2) (codes : List Code) (b : _) (s : State), HearsRing s l codes 0x04 b ∧ u16At b 0 = s.plt.plat.time.blockId.toNat) ∧
    (∃ (l : Fin 2) (codes : List Code) (b : _) (s : State), HearsRing s l codes 0x04 b ∧ u16At b 0 = s.plt.plat.time.blockId.toNat) ∧
    (∃ (l : Fin 2) (codes : List Code) (b : _) (s : State), HearsRing s l codes 0x20 b ∧ u16At b 0 = s.plt.plat.time.blockId.toNat ∧ u64At b 16 ≠ s.nv.devid.toNat ∧ s.candidate = true) ∧
    (∃ (l : Fin 2) (codes : List Code) (b : _) (s : State), HearsRing s l codes 0x20 b ∧ u16At b 0 = s.plt.plat.time.blockId.toNat ∧ u64At b 16 ≠ s.nv.devid.toNat ∧ s.candidate = true) ∧
    (∃ (l : Fin 2) (codes : List Code) (b : _) (s : State), HearsRing s l codes 0x20 b ∧ u16At b 0 = s.plt.plat.time.blockId.toNat ∧ u64At b 16 ≠ s.nv.devid.toNat ∧ s.candidate = true) ∧
    (∃ (s : State), s.inBlock = true ∧ s.candidate = true) ∧
    (∃ (dt : Nat) (a : Nat) (s : State), s.tmb.electing = some a ∧ s.candidate = true ∧ 10 ^ 6 ≤ s.clk + dt - a) ∧
    (∃ (l : Fin 2) (codes : List Code) (b : _) (s : State), HearsRing s l codes 0x21 b ∧ u16At b 0 = s.plt.plat.time.blockId.toNat ∧ u64At b 8 ≠ s.nv.devid.toNat ∧ s.tmb.term.toNat < msgTerm b) ∧
    (∃ (s : State), s.inBlock = true ∧ s.tmb.master = true) ∧
    (∃ (l : Fin 2) (codes : List Code) (b : _) (s : State), HearsRing s l codes 0x22 b ∧ u16At b 0 = s.plt.plat.time.blockId.toNat ∧ u64At b 16 = s.nv.devid.toNat ∧ s.tmb.master = true ∧ s.tmb.probeAt.isSome = true) ∧
    (∃ (s : State), s.inBlock = true ∧ s.tmb.master = true) ∧
    (∃ (dt : Nat) (a : Nat) (s : State), s.tmb.probeAt = some a ∧ 10 ^ 6 ≤ s.clk + dt - a) ∧
    (∃ (l : Fin 2) (codes : List Code) (b : _) (s : State), HearsRing s l codes 0x23 b ∧ u16At b 0 = s.plt.plat.time.blockId.toNat ∧ u64At b 8 ≠ s.nv.devid.toNat ∧ s.tmb.members ≠ 0) ∧
    (∃ (dt : Nat) (s : State), s.plt.plat.time.source = 0 ∧ (elapse dt s).silent 100000 = true) ∧
    (∃ (dt : Nat) (s : State), (elapse dt s).silent 1000000 = true ∧ s.candidate = true ∧ s.tmb.electing = none) :=
  ⟨⟨0, dsay 2 0 (toLE 2 8), toLE 2 8, br, ⟨by decide +kernel, 0, hears_said (by decide +kernel) (by decide +kernel) (by decide +kernel) (by decide +kernel)⟩, by decide +kernel⟩,
    ⟨0, dsay 2 0 (rmsg 3 2 (toLE 8 5000)), rmsg 3 2 (toLE 8 5000), 5000 * 65536, brr, ⟨by decide +kernel, 0, hears_said (by decide +kernel) (by decide +kernel) (by decide +kernel) (by decide +kernel)⟩, by decide +kernel, by decide +kernel, by decide +kernel, by decide +kernel, by decide +kernel, by decide +kernel, (by intro r e; subst e; decide +kernel), by decide +kernel, by decide +kernel⟩,
    ⟨1, dsay 2 0 (rmsg 3 2 (toLE 8 5000)), rmsg 3 2 (toLE 8 5000), 5000 * 65536, { brr with tmb.lock := .locked, tmb.stepped := true }, ⟨by decide +kernel, 0, hears_said (by decide +kernel) (by decide +kernel) (by decide +kernel) (by decide +kernel)⟩, by decide +kernel, by decide +kernel, by decide +kernel, by decide +kernel, by decide +kernel, by decide +kernel, (by intro r e; subst e; decide +kernel), by decide +kernel, by decide +kernel⟩,
    ⟨1, dsay 2 0 (rmsg 3 254 (toLE 8 5000)), rmsg 3 254 (toLE 8 5000), 5000 * 65536, { brr with tmb.stepped := true, tmb.ring0 := { RingLane.reset with syncAt := some 450, hops := 255 } }, ⟨by decide +kernel, 0, hears_said (by decide +kernel) (by decide +kernel) (by decide +kernel) (by decide +kernel)⟩, by decide +kernel, by decide +kernel, by decide +kernel, by decide +kernel, by decide +kernel, by decide +kernel, (by intro r e; subst e; decide +kernel), by decide +kernel, by decide +kernel⟩,
    ⟨{ br with tmb.master := true }, by decide +kernel, by decide +kernel⟩,
    ⟨1, dsay 3 0 (rmsg 3 2 (toLE 8 5000)), rmsg 3 2 (toLE 8 5000), { br with svc := [(3, heard0), (4, { heard0 with marker := 70000 })] }, ⟨by decide +kernel, 0, hears_said (by decide +kernel) (by decide +kernel) (by decide +kernel) (by decide +kernel)⟩, by decide +kernel⟩,
    ⟨br, by decide +kernel⟩,
    ⟨1, dsay 4 0 (rmsg 3 2 (toLE 8 5 ++ toLE 8 10 ++ toLE 8 12)), rmsg 3 2 (toLE 8 5 ++ toLE 8 10 ++ toLE 8 12), { br with tmb.ring1 := { RingLane.reset with t1 := 5 }, svc := [(3, heard0), (4, { heard0 with marker := 70000000 })] }, ⟨by decide +kernel, 0, hears_said (by decide +kernel) (by decide +kernel) (by decide +kernel) (by decide +kernel)⟩, by decide +kernel⟩,
    ⟨1, dsay 4 0 (rmsg 3 2 (toLE 8 6 ++ toLE 8 10 ++ toLE 8 12)), rmsg 3 2 (toLE 8 6 ++ toLE 8 10 ++ toLE 8 12), { br with tmb.ring1 := { RingLane.reset with t1 := 5 }, svc := [(3, heard0), (4, { heard0 with marker := 70000000 })] }, ⟨by decide +kernel, 0, hears_said (by decide +kernel) (by decide +kernel) (by decide +kernel) (by decide +kernel)⟩, by decide +kernel⟩,
    ⟨1, dsay 32 0 (rmsg 3 2 ([0, 3] ++ zeros 6 ++ toLE 8 6)), rmsg 3 2 ([0, 3] ++ zeros 6 ++ toLE 8 6), { br with tmb.master := true }, ⟨by decide +kernel, 0, hears_said (by decide +kernel) (by decide +kernel) (by decide +kernel) (by decide +kernel)⟩, by decide +kernel, by decide +kernel, by decide +kernel⟩,
    ⟨1, dsay 32 0 (rmsg 3 2 ([0, 3] ++ zeros 6 ++ toLE 8 78)), rmsg 3 2 ([0, 3] ++ zeros 6 ++ toLE 8 78), { br with tmb.electing := some 4 }, ⟨by decide +kernel, 0, hears_said (by decide +kernel) (by decide +kernel) (by decide +kernel) (by decide +kernel)⟩, by decide +kernel, by decide +kernel, by decide +kernel⟩,
    ⟨1, dsay 32 0 (rmsg 3 2 ([0, 4] ++ zeros 6 ++ toLE 8 78)), rmsg 3 2 ([0, 4] ++ zeros 6 ++ toLE 8 78), { br with tmb.electing := some 4 }, ⟨by decide +kernel, 0, hears_said (by decide +kernel) (by decide +kernel) (by decide +kernel) (by decide +kernel)⟩, by decide +kernel, by decide +kernel, by decide +kernel⟩,
    ⟨br, by decide +kernel, by decide +kernel⟩,
    ⟨1000000, 500, { br with tmb.electing := some 500, tmb.topTerm := 8 }, by decide +kernel, by decide +kernel, by decide +kernel⟩,
    ⟨1, dsay 33 0 (rmsg 3 2 (toLE 8 6 ++ toLE 4 0 ++ [7])), rmsg 3 2 (toLE 8 6 ++ toLE 4 0 ++ [7]), br, ⟨by decide +kernel, 0, hears_said (by decide +kernel) (by decide +kernel) (by decide +kernel) (by decide +kernel)⟩, by decide +kernel, by decide +kernel, by decide +kernel⟩,
    ⟨{ br with tmb.master := true }, by decide +kernel, by decide +kernel⟩,
    ⟨1, dsay 34 0 (rmsg 3 2 (toLE 8 6 ++ toLE 8 77)), rmsg 3 2 (toLE 8 6 ++ toLE 8 77), { br with tmb.master := true, tmb.probeAt := some 5, tmb.tb := 9000 * 65536 }, ⟨by decide +kernel, 0, hears_said (by decide +kernel) (by decide +kernel) (by decide +kernel) (by decide +kernel)⟩, by decide +kernel, by decide +kernel, by decide +kernel, by decide +kernel⟩,
    ⟨{ br with tmb.master := true }, by decide +kernel, by decide +kernel⟩,
    ⟨1000000, 500, { br with tmb.master := true, tmb.probeAt := some 500, tmb.rtt := 9 }, by decide +kernel, by decide +kernel⟩,
    ⟨1, dsay 35 0 (rmsg 3 2 (toLE 8 6 ++ toLE 8 77)), rmsg 3 2 (toLE 8 6 ++ toLE 8 77), { br with tmb.members := 4, tmb.term := 3, tmb.masterId := 6 }, ⟨by decide +kernel, 0, hears_said (by decide +kernel) (by decide +kernel) (by decide +kernel) (by decide +kernel)⟩, by decide +kernel, by decide +kernel, by decide +kernel⟩,
    ⟨100000, { br with tmb.lock := .locked }, by decide +kernel, by decide +kernel⟩,
    ⟨1000000, { br with tmb.lock := .locked }, by decide +kernel, by decide +kernel, by decide +kernel⟩⟩
/-- The hypotheses of TimetableCommandsComplete, clause by clause. -/
theorem test_met_TimetableCommandsComplete :
    (∃ (p : HPort) (s : State), Owner p s ∧ s.tmb.busy = false ∧ 4 ≤ s.glb.state.code ∧ s.actPending 15 = false) ∧
    (∃ (p : HPort) (s : State), Owner p s ∧ s.tmb.busy = false ∧ s.glb.state.code < 4) ∧
    (∃ (p : HPort) (n : BitVec 4) (x : Timetable) (a : Nat) (s : State), Owner p s ∧ s.tmb.busy = false ∧ 4 ≤ s.glb.state.code ∧ n.toNat ≤ 7 ∧ s.actPending n.toNat = false ∧ ttParse s s.ttStaged = .ok x ∧ a = s.tmb.fbBase.toNat + n.toNat * (17 * 2 ^ 20)) ∧
    (∃ (p : HPort) (s : State), Owner p s ∧ s.tmb.busy = false ∧ 4 ≤ s.glb.state.code) ∧
    (∃ (p : HPort) (s : State), Owner p s ∧ s.tmb.busy = false ∧ 4 ≤ s.glb.state.code) ∧
    (∃ (p : HPort) (s : State), Owner p s ∧ s.tmb.busy = false ∧ 4 ≤ s.glb.state.code) ∧
    (∃ (p : HPort) (s : State), Owner p s ∧ s.tmb.busy = false ∧ 4 ≤ s.glb.state.code) ∧
    (∃ (p : HPort) (n : BitVec 4) (s : State), Owner p s ∧ s.tmb.busy = false ∧ 4 ≤ s.glb.state.code ∧ n.toNat ≤ 7) ∧
    (∃ (p : HPort) (n : BitVec 4) (s : State), Owner p s ∧ s.tmb.busy = false ∧ 4 ≤ s.glb.state.code ∧ n.toNat ≤ 7) ∧
    (∃ (dt : Nat) (sel : Nat) (x : Timetable) (a : Nat) (s : State), s.tmb.pending = some (sel, x, a) ∧ a ≤ (elapse dt s).now) ∧
    (∃ (dt : Nat) (sel : Nat) (x : Timetable) (a : Nat) (s : State), s.tmb.pending = some (sel, x, a) ∧ (elapse dt s).now < a) ∧
    (∃ (dt : Nat) (o : Timetable) (e : Nat) (s : State), s.tmb.old = some (o, e) ∧ e < (elapse dt s).now) ∧
    (∃ (dt : Nat) (u : State) (h : Nat) (n : Nat) (s : State), u = elapse dt s ∧ u.now / u.mapNs * u.mapNs ≠ s.tmb.mapStart ∧ s.tmb.mapen = true ∧ n = 2 ^ s.tmb.mapSize.toNat ∧ h = s.tmb.mapHead.toNat % n ∧ s.ports.length + 1 ≤ (s.tmb.mapTail.toNat % n + n - h - 1) % n ∧ s.tmb.mapBase.toNat + 32 * h + 32 ≤ s.capacity) ∧
    (∃ (dt : Nat) (u : State) (h : Nat) (n : Nat) (s : State), u = elapse dt s ∧ u.now / u.mapNs * u.mapNs ≠ s.tmb.mapStart ∧ s.tmb.mapen = true ∧ n = 2 ^ s.tmb.mapSize.toNat ∧ h = s.tmb.mapHead.toNat % n ∧ (s.tmb.mapTail.toNat % n + n - h - 1) % n < s.ports.length + 1) :=
  ⟨⟨.ha, up, ⟨by decide +kernel, by decide +kernel, by decide +kernel⟩, by decide +kernel, by decide +kernel, by decide +kernel⟩,
    ⟨.ha, { up with glb.state := .training }, ⟨by decide +kernel, by decide +kernel, by decide +kernel⟩, by decide +kernel, by decide +kernel⟩,
    ⟨.ha, 2, tt0, 1000000 + 2 * (17 * 2 ^ 20), ts, ⟨by decide +kernel, by decide +kernel, by decide +kernel⟩, by decide +kernel, by decide +kernel, by decide +kernel, by decide +kernel, by exact ttAt_parse, by decide +kernel⟩,
    ⟨.ha, { up with tmb.at_ := 2000000, tmb.staged := some tt0 }, ⟨by decide +kernel, by decide +kernel, by decide +kernel⟩, by decide +kernel, by decide +kernel⟩,
    ⟨.ha, { up with tmb.at_ := 2000000, tmb.armed := [(2, some tt0)] }, ⟨by decide +kernel, by decide +kernel, by decide +kernel⟩, by decide +kernel, by decide +kernel⟩,
    ⟨.ha, up, ⟨by decide +kernel, by decide +kernel, by decide +kernel⟩, by decide +kernel, by decide +kernel⟩,
    ⟨.ha, { up with tmb.at_ := 2000000, tmb.armed := [(2, some tt0)] }, ⟨by decide +kernel, by decide +kernel, by decide +kernel⟩, by decide +kernel, by decide +kernel⟩,
    ⟨.ha, 2, { up with tmb.at_ := 2000000, tmb.armed := [(2, some tt0)] }, ⟨by decide +kernel, by decide +kernel, by decide +kernel⟩, by decide +kernel, by decide +kernel, by decide +kernel⟩,
    ⟨.ha, 2, { up with tmb.pending := some (2, tt0, 5) }, ⟨by decide +kernel, by decide +kernel, by decide +kernel⟩, by decide +kernel, by decide +kernel, by decide +kernel⟩,
    ⟨50, 2, tt0, 50, { up with tmb.pending := some (2, tt0, 50), tmb.active := some { tt0 with ttid := 9 } }, by decide +kernel, by decide +kernel⟩,
    ⟨49, 2, tt0, 50, { up with tmb.pending := some (2, tt0, 50), tmb.active := some { tt0 with ttid := 9 } }, by decide +kernel, by decide +kernel⟩,
    ⟨51, tt0, 50, { up with tmb.old := some (tt0, 50), tmb.active := some { tt0 with ttid := 9 } }, by decide +kernel, by decide +kernel⟩,
    ⟨100000000, elapse 100000000 mp, 0, 128, mp, by decide +kernel, by decide +kernel, by decide +kernel, by decide +kernel, by decide +kernel, by decide +kernel, by decide +kernel⟩,
    ⟨100000000, elapse 100000000 { mp with tmb.mapTail := 3 }, 0, 128, { mp with tmb.mapTail := 3 }, by decide +kernel, by decide +kernel, by decide +kernel, by decide +kernel, by decide +kernel, by decide +kernel⟩⟩
end Sys2Proof.Tests.W20
namespace Sys2Proof.Tests.W21
def br : State := { up with svc := [(3, heard0), (4, heard0)], plt.plat.time := { up.plt.plat.time with source := 0, role := 2, blockId := 9, east := 3, west := 4 }, nv.devid := 77, clk := 500, plt.plat.res := { up.plt.plat.res with twin := 1 }, res.mirBase := 4096, res.mirSize := 8192 }
def tw (dst hops : Nat) (body : List Byte) : List Byte := toLE 8 5 ++ toLE 8 dst ++ toLE 1 hops ++ zeros 7 ++ body
def jr : List Byte := recBytes 2 0 (toLE 4 3 ++ toLE 4 1 ++ toLE 4 2 ++ toLE 4 3 ++ toLE 4 4)
def nb : Nat := (Config.neighbour 77 false).toNat
def twn (dst : Nat) (body : List Byte) : List Byte := toLE 8 nb ++ toLE 8 dst ++ zeros 8 ++ body
def nbw : Nat := (Config.neighbour 77 true).toNat
def twe (dst : Nat) (body : List Byte) : List Byte := toLE 8 nbw ++ toLE 8 dst ++ zeros 8 ++ body
def po : PullOp := ⟨true, 2, 1, 400, [], 0xFFFFFFFF⟩
def pb : State := { br with res.pullOp := some po, res.spareHold := 5, res.spareBusy := true }
theorem twe_src (d : Nat) (x : List Byte) : twinSrc (twe d x) = Config.neighbour 77 true := by
  have h := leAt_append [] (toLE 8 nbw) (toLE 8 d ++ zeros 8 ++ x) 8 (toLE_length 8 nbw)
  rw [leNat_toLE, Nat.mod_eq_of_lt (by unfold nbw; exact (Config.neighbour 77 true).isLt)] at h
  simp only [List.nil_append, List.length_nil, ← List.append_assoc] at h
  unfold twinSrc u64At twe
  rw [h]
  exact BitVec.ofNat_toNat ..
/-- The hypotheses of TwinMirrorComplete, clause by clause. -/
theorem test_met_TwinMirrorComplete :
    (∃ (l : Fin 2) (codes : List Code) (b : _) (n : Byte) (c : Instr) (s : State), HearsRing s l codes n b ∧ twinDst b ≠ s.nv.devid ∧ twinHops b ≠ 255 ∧ twinSrc b ≠ s.nv.devid ∧ (((c = Instr.jrnl l codes ∧ n = 0x40) ∨ (c = Instr.jrnlAck l codes ∧ n = 0x41) ∨ (c = Instr.pullRequest l codes ∧ n = 0x42) ∨ (c = Instr.hdr l codes ∧ n = 0x43) ∨ (c = Instr.twinSnap l codes ∧ n = 0x44) ∨ (c = Instr.twinEnd l codes ∧ n = 0x45) ∨ (c = Instr.nack l codes ∧ n = 0x46)))) ∧
    (∃ (l : Fin 2) (codes : List Code) (b : _) (n : Byte) (c : Instr) (s : State), HearsRing s l codes n b ∧ twinDst b ≠ s.nv.devid ∧ ((twinHops b = 255 ∨ twinSrc b = s.nv.devid)) ∧ (((c = Instr.jrnl l codes ∧ n = 0x40) ∨ (c = Instr.jrnlAck l codes ∧ n = 0x41) ∨ (c = Instr.pullRequest l codes ∧ n = 0x42) ∨ (c = Instr.hdr l codes ∧ n = 0x43) ∨ (c = Instr.twinSnap l codes ∧ n = 0x44) ∨ (c = Instr.twinEnd l codes ∧ n = 0x45) ∨ (c = Instr.nack l codes ∧ n = 0x46)))) ∧
    (∃ (l : Fin 2) (codes : List Code) (b : List Byte) (r : List Byte) (w : Bool) (s : State), HearsRing s l codes 0x40 b ∧ twinDst b = s.nv.devid ∧ u64At b 24 = 1 ∧ u16At b 32 = 1 ∧ r = slice b 40 32 ∧ onlyRemoves r = false ∧ w = s.mirrorFor l (twinSrc b) ∧ 32 ≤ s.mirrorHalf ∧ s.mirrorAddr w + 32 ≤ s.capacity) ∧
    (∃ (l : Fin 2) (codes : List Code) (b : _) (w : Bool) (s : State), HearsRing s l codes 0x40 b ∧ twinDst b = s.nv.devid ∧ u16At b 32 ≤ 60 ∧ w = s.mirrorFor l (twinSrc b) ∧ (s.mirror w).st ≠ .none ∧ (s.mirror w).dev = twinSrc b ∧ u64At b 24 ≠ 1 ∧ (s.mirror w).seq.toNat + 1 < u64At b 24) ∧
    (∃ (l : Fin 2) (codes : List Code) (b : _) (s : State), HearsRing s l codes 0x41 b ∧ twinDst b = s.nv.devid ∧ s.twin ≠ 0 ∧ isWest l = (s.twin == 2) ∧ twinSrc b = Config.neighbour s.nv.devid (!isWest l) ∧ s.res.own ≠ .lagging ∧ u64At b 24 < s.res.nextSeq.toNat) ∧
    (∃ (l : Fin 2) (codes : List Code) (b : _) (s : State), HearsRing s l codes 0x41 b ∧ twinDst b = s.nv.devid ∧ s.twin ≠ 0 ∧ isWest l = (s.twin == 2) ∧ twinSrc b = Config.neighbour s.nv.devid (!isWest l) ∧ s.res.own = .lagging) ∧
    (∃ (dt : Nat) (l : Fin 2) (s : State), s.inBlock = true ∧ (s.mirror (isWest l)).st ≠ .none ∧ 10000000 ≤ s.clk + dt - (s.mirror (isWest l)).ackAt) ∧
    (∃ (l : Fin 2) (codes : List Code) (b : _) (s : State), HearsRing s l codes 0x42 b ∧ twinDst b = s.nv.devid ∧ ((s.res.east.st = .none ∨ s.res.east.dev ≠ BitVec.ofNat 64 (u64At b 24))) ∧ ((s.res.west.st = .none ∨ s.res.west.dev ≠ BitVec.ofNat 64 (u64At b 24)))) ∧
    (∃ (l : Fin 2) (codes : List Code) (b : _) (s : State), HearsRing s l codes 0x42 b ∧ twinDst b = s.nv.devid ∧ s.res.east.st = .full ∧ s.res.east.dev = BitVec.ofNat 64 (u64At b 24)) ∧
    (∃ (l : Fin 2) (codes : List Code) (b : _) (x : Mirror) (r : List Byte) (s : State), HearsRing s l codes 0x42 b ∧ twinDst b = s.nv.devid ∧ s.res.east = x ∧ x.st = .complete ∧ x.dev = BitVec.ofNat 64 (u64At b 24) ∧ x.recs = [r] ∧ openRec r = false ∧ r.length = 32) :=
  ⟨⟨0, dsay 0x40 0 (tw 88 0 (toLE 8 1)), tw 88 0 (toLE 8 1), 0x40, Instr.jrnl 0 (dsay 0x40 0 (tw 88 0 (toLE 8 1))), br, ⟨by decide +kernel, 0, hears_said (by decide +kernel) (by decide +kernel) (by decide +kernel) (by decide +kernel)⟩, by decide +kernel, by decide +kernel, by decide +kernel, by decide +kernel⟩,
    ⟨0, dsay 0x46 0 (tw 88 255 (toLE 8 1)), tw 88 255 (toLE 8 1), 0x46, Instr.nack 0 (dsay 0x46 0 (tw 88 255 (toLE 8 1))), br, ⟨by decide +kernel, 0, hears_said (by decide +kernel) (by decide +kernel) (by decide +kernel) (by decide +kernel)⟩, by decide +kernel, by decide +kernel, by decide +kernel⟩,
    ⟨0, dsay 0x40 0 (tw 77 0 (toLE 8 1 ++ toLE 2 1 ++ zeros 6 ++ jr)), tw 77 0 (toLE 8 1 ++ toLE 2 1 ++ zeros 6 ++ jr), jr, false, br, ⟨by decide +kernel, 0, hears_said (by decide +kernel) (by decide +kernel) (by decide +kernel) (by decide +kernel)⟩, by decide +kernel, by decide +kernel, by decide +kernel, by decide +kernel, by decide +kernel, by decide +kernel, by decide +kernel, by decide +kernel⟩,
    ⟨0, dsay 0x40 0 (tw 77 0 (toLE 8 9 ++ toLE 2 1 ++ zeros 6 ++ jr)), tw 77 0 (toLE 8 9 ++ toLE 2 1 ++ zeros 6 ++ jr), false, { br with res.east := ⟨.complete, 5, 3, 0, 0, [jr]⟩ }, ⟨by decide +kernel, 0, hears_said (by decide +kernel) (by decide +kernel) (by decide +kernel) (by decide +kernel)⟩, by decide +kernel, by decide +kernel, by decide +kernel, by decide +kernel, by decide +kernel, by decide +kernel, by decide +kernel⟩,
    ⟨0, dsay 0x41 0 (twe 77 (toLE 8 1)), twe 77 (toLE 8 1), { br with res.own := .current, res.journal := [⟨1, false, jr⟩, ⟨2, false, jr⟩], res.nextSeq := 3 }, ⟨by decide +kernel, 0, hears_said (by decide +kernel) (by decide +kernel) (by decide +kernel) (by decide +kernel)⟩, by decide +kernel, by decide +kernel, by decide +kernel, by exact twe_src .., by decide +kernel, by decide +kernel⟩,
    ⟨0, dsay 0x41 0 (twe 77 (toLE 8 1)), twe 77 (toLE 8 1), { br with res.own := .lagging, mil.tf := [(3, ⟨1, 2, 3, 4⟩)], res.nextSeq := 30 }, ⟨by decide +kernel, 0, hears_said (by decide +kernel) (by decide +kernel) (by decide +kernel) (by decide +kernel)⟩, by decide +kernel, by decide +kernel, by decide +kernel, by exact twe_src .., by decide +kernel⟩,
    ⟨10000000, 0, { br with res.east := ⟨.complete, 5, 3, 0, 0, [jr]⟩ }, by decide +kernel, by decide +kernel, by decide +kernel⟩,
    ⟨0, dsay 0x42 0 (tw 77 0 (toLE 8 9)), tw 77 0 (toLE 8 9), { br with res.east := ⟨.complete, 5, 3, 0, 0, [jr]⟩ }, ⟨by decide +kernel, 0, hears_said (by decide +kernel) (by decide +kernel) (by decide +kernel) (by decide +kernel)⟩, by decide +kernel, by decide +kernel, by decide +kernel⟩,
    ⟨0, dsay 0x42 0 (tw 77 0 (toLE 8 5)), tw 77 0 (toLE 8 5), { br with res.east := ⟨.full, 5, 3, 0, 0, [jr]⟩ }, ⟨by decide +kernel, 0, hears_said (by decide +kernel) (by decide +kernel) (by decide +kernel) (by decide +kernel)⟩, by decide +kernel, by decide +kernel, by decide +kernel⟩,
    ⟨0, dsay 0x42 0 (tw 77 0 (toLE 8 5)), tw 77 0 (toLE 8 5), ⟨.complete, 5, 3, 0, 0, [jr]⟩, jr, { br with res.east := ⟨.complete, 5, 3, 0, 0, [jr]⟩ }, ⟨by decide +kernel, 0, hears_said (by decide +kernel) (by decide +kernel) (by decide +kernel) (by decide +kernel)⟩, by decide +kernel, by decide +kernel, by decide +kernel, by decide +kernel, by decide +kernel, by decide +kernel, by decide +kernel⟩⟩
/-- The hypotheses of SpareBringInComplete, clause by clause. -/
theorem test_met_SpareBringInComplete :
    (∃ (p : HPort) (s : State), Owner p s ∧ s.res.spareBusy = false ∧ s.glb.state = .ready ∧ s.inBlock = true) ∧
    (∃ (p : HPort) (s : State), Owner p s ∧ s.res.spareBusy = false ∧ s.glb.state ≠ .ready) ∧
    (∃ (p : HPort) (s : State), Owner p s ∧ s.res.spareBusy = true) ∧
    (∃ (p : HPort) (s : State), Owner p s) ∧
    (∃ (p : HPort) (s : State), Owner p s) ∧
    (∃ (l : Fin 2) (codes : List Code) (b : _) (o : PullOp) (s : State), HearsRing s l codes 0x43 b ∧ twinDst b = s.nv.devid ∧ s.res.pullOp = some o ∧ twinSrc b = s.res.spareHold ∧ o.hdr = false) ∧
    (∃ (l : Fin 2) (codes : List Code) (b : _) (o : PullOp) (s : State), HearsRing s l codes 0x43 b ∧ twinDst b = s.nv.devid ∧ s.res.pullOp = some o ∧ twinSrc b = s.res.spareHold ∧ o.hdr = false) ∧
    (∃ (l : Fin 2) (codes : List Code) (b : List Byte) (o : PullOp) (r : List Byte) (s : State), HearsRing s l codes 0x44 b ∧ twinDst b = s.nv.devid ∧ s.res.pullOp = some o ∧ twinSrc b = s.res.spareHold ∧ o.hdr = true ∧ o.part = [] ∧ u64At b 24 = o.applied ∧ o.applied < o.total.toNat ∧ b.length = 64 ∧ r = b.drop 32 ∧ u8At r 0 = 2) ∧
    (∃ (l : Fin 2) (codes : List Code) (b : _) (o : PullOp) (s : State), HearsRing s l codes 0x44 b ∧ twinDst b = s.nv.devid ∧ s.res.pullOp = some o ∧ twinSrc b = s.res.spareHold ∧ o.hdr = true ∧ u64At b 24 ≠ o.applied) ∧
    (∃ (l : Fin 2) (codes : List Code) (b : _) (o : PullOp) (s : State), HearsRing s l codes 0x45 b ∧ twinDst b = s.nv.devid ∧ s.res.pullOp = some o ∧ twinSrc b = s.res.spareHold ∧ o.hdr = true ∧ o.applied = o.total.toNat) ∧
    (∃ (l : Fin 2) (codes : List Code) (b : _) (o : PullOp) (s : State), HearsRing s l codes 0x45 b ∧ twinDst b = s.nv.devid ∧ s.res.pullOp = some o ∧ twinSrc b = s.res.spareHold ∧ o.hdr = true ∧ o.applied = o.total.toNat) ∧
    (∃ (l : Fin 2) (codes : List Code) (b : _) (o : PullOp) (s : State), HearsRing s l codes 0x46 b ∧ twinDst b = s.nv.devid ∧ s.res.pullOp = some o ∧ twinSrc b = s.res.spareHold) ∧
    (∃ (o : PullOp) (s : State), s.res.pullOp = some o) ∧
    (∃ (o : PullOp) (s : State), s.res.pullOp = some o) ∧
    (∃ (l : Fin 2) (codes : List Code) (b : _) (n : Byte) (c : Instr) (s : State), HearsRing s l codes n b ∧ twinDst b = s.nv.devid ∧ ((s.res.pullOp = none ∨ twinSrc b ≠ s.res.spareHold)) ∧ (((c = Instr.hdr l codes ∧ n = 0x43) ∨ (c = Instr.twinSnap l codes ∧ n = 0x44) ∨ (c = Instr.twinEnd l codes ∧ n = 0x45) ∨ (c = Instr.nack l codes ∧ n = 0x46)))) :=
  ⟨⟨.ha, { br with glb.state := .ready, res.spareHold := 5, res.spareDev := 6 }, ⟨by decide +kernel, by decide +kernel, by decide +kernel⟩, by decide +kernel, by decide +kernel, by decide +kernel⟩,
    ⟨.ha, br, ⟨by decide +kernel, by decide +kernel, by decide +kernel⟩, by decide +kernel, by decide +kernel⟩,
    ⟨.ha, { br with glb.state := .ready, res.spareBusy := true }, ⟨by decide +kernel, by decide +kernel, by decide +kernel⟩, by decide +kernel⟩,
    ⟨.ha, pb, ⟨by decide +kernel, by decide +kernel, by decide +kernel⟩⟩,
    ⟨.ha, br, ⟨by decide +kernel, by decide +kernel, by decide +kernel⟩⟩,
    ⟨0, dsay 0x43 0 (tw 77 0 (toLE 8 1 ++ zeros 24 ++ toLE 8 3)), tw 77 0 (toLE 8 1 ++ zeros 24 ++ toLE 8 3), { po with hdr := false }, { pb with res.pullOp := some { po with hdr := false }, plt.active := some (digestOf (toLE 8 1 ++ zeros 24)) }, ⟨by decide +kernel, 0, hears_said (by decide +kernel) (by decide +kernel) (by decide +kernel) (by decide +kernel)⟩, by decide +kernel, by decide +kernel, by decide +kernel, by decide +kernel⟩,
    ⟨0, dsay 0x43 0 (tw 77 0 (toLE 8 1 ++ zeros 24 ++ toLE 8 3)), tw 77 0 (toLE 8 1 ++ zeros 24 ++ toLE 8 3), { po with hdr := false }, { pb with res.pullOp := some { po with hdr := false } }, ⟨by decide +kernel, 0, hears_said (by decide +kernel) (by decide +kernel) (by decide +kernel) (by decide +kernel)⟩, by decide +kernel, by decide +kernel, by decide +kernel, by decide +kernel⟩,
    ⟨0, dsay 0x44 0 (tw 77 0 (toLE 8 1 ++ jr)), tw 77 0 (toLE 8 1 ++ jr), po, jr, pb, ⟨by decide +kernel, 0, hears_said (by decide +kernel) (by decide +kernel) (by decide +kernel) (by decide +kernel)⟩, by decide +kernel, by decide +kernel, by decide +kernel, by decide +kernel, by decide +kernel, by decide +kernel, by decide +kernel, by decide +kernel, by decide +kernel, by decide +kernel⟩,
    ⟨0, dsay 0x44 0 (tw 77 0 (toLE 8 0 ++ jr)), tw 77 0 (toLE 8 0 ++ jr), po, pb, ⟨by decide +kernel, 0, hears_said (by decide +kernel) (by decide +kernel) (by decide +kernel) (by decide +kernel)⟩, by decide +kernel, by decide +kernel, by decide +kernel, by decide +kernel, by decide +kernel⟩,
    ⟨0, dsay 0x45 0 (tw 77 0 (toLE 4 0)), tw 77 0 (toLE 4 0), { po with applied := 2 }, { pb with res.pullOp := some { po with applied := 2 } }, ⟨by decide +kernel, 0, hears_said (by decide +kernel) (by decide +kernel) (by decide +kernel) (by decide +kernel)⟩, by decide +kernel, by decide +kernel, by decide +kernel, by decide +kernel, by decide +kernel⟩,
    ⟨0, dsay 0x45 0 (tw 77 0 (toLE 4 3)), tw 77 0 (toLE 4 3), { po with applied := 2 }, { pb with res.pullOp := some { po with applied := 2 } }, ⟨by decide +kernel, 0, hears_said (by decide +kernel) (by decide +kernel) (by decide +kernel) (by decide +kernel)⟩, by decide +kernel, by decide +kernel, by decide +kernel, by decide +kernel, by decide +kernel⟩,
    ⟨0, dsay 0x46 0 (tw 77 0 [1]), tw 77 0 [1], po, pb, ⟨by decide +kernel, 0, hears_said (by decide +kernel) (by decide +kernel) (by decide +kernel) (by decide +kernel)⟩, by decide +kernel, by decide +kernel, by decide +kernel⟩,
    ⟨po, pb, by decide +kernel⟩,
    ⟨po, pb, by decide +kernel⟩,
    ⟨0, dsay 0x45 0 (tw 77 0 [1]), tw 77 0 [1], 0x45, Instr.twinEnd 0 (dsay 0x45 0 (tw 77 0 [1])), br, ⟨by decide +kernel, 0, hears_said (by decide +kernel) (by decide +kernel) (by decide +kernel) (by decide +kernel)⟩, by decide +kernel, by decide +kernel, by decide +kernel⟩⟩
end Sys2Proof.Tests.W21
namespace Sys2Proof.Tests.W22
def w4 : BitVec 26 := 0x201004
/-- The hypotheses of RegisterAccessComplete, clause by clause. -/
theorem test_met_RegisterAccessComplete :
    (∃ (p : HPort) (s : State), (s.host p).perst = true) ∧
    (∃ (p : HPort) (off : BitVec 26) (s : State), (s.host p).perst = false ∧ off.toNat % 4 ≠ 0) ∧
    (∃ (p : HPort) (off : BitVec 26) (s : State), (s.host p).perst = false ∧ pairVal s p off.toNat = none) ∧
    (∃ (p : HPort) (off : BitVec 26) (s : State), (s.host p).perst = false ∧ s.booted = false ∧ 0x100000 ≤ off.toNat ∧ off.toNat % 4 = 0) ∧
    (∃ (p : HPort) (off : BitVec 26) (s : State), Stranger p s ∧ off.toNat % 4 = 0 ∧ ((off.toNat < 0x200000 ∨ 0x400000 ≤ off.toNat))) ∧
    (∃ (p : HPort) (off : BitVec 26) (s : State), Stranger p s ∧ off.toNat % 4 = 0 ∧ ((off.toNat < 0x200000 ∨ 0x400000 ≤ off.toNat))) ∧
    (∃ (p : HPort) (s : State), Owner p s) ∧
    (∃ (p : HPort) (s : State), (s.host p).perst = false ∧ s.booted = true) ∧
    (∃ (p : HPort) (s : State), (s.host p).perst = false ∧ s.booted = true) :=
  ⟨⟨.ha, State.reset, by decide +kernel⟩,
    ⟨.ha, 0x100011, up, by decide +kernel, by decide +kernel⟩,
    ⟨.ha, 0x100010, up, by decide +kernel, by decide +kernel⟩,
    ⟨.ha, 0x100010, { up with glb.state := .boot }, by decide +kernel, by decide +kernel, by decide +kernel, by decide +kernel⟩,
    ⟨.hb, 0x100010, { up with hst.hb.perst := false }, ⟨by decide +kernel, by decide +kernel, by decide +kernel⟩, by decide +kernel, by decide +kernel⟩,
    ⟨.hb, 0xC00008, { up with hst.hb.perst := false }, ⟨by decide +kernel, by decide +kernel, by decide +kernel⟩, by decide +kernel, by decide +kernel⟩,
    ⟨.ha, { up with tmb.event := 0xF, lnd.event := 0xF, mil.event := 0xF }, ⟨by decide +kernel, by decide +kernel, by decide +kernel⟩⟩,
    ⟨.hb, { up with hst.hb.perst := false }, by decide +kernel, by decide +kernel⟩,
    ⟨.hb, { up with hst.hb.perst := false, fwd.data0 := 8 }, by decide +kernel, by decide +kernel⟩⟩
/-- The hypotheses of EveryStepKeepsTheInvariant, clause by clause. -/
theorem test_met_EveryStepKeepsTheInvariant :
    (∃ (s : State) (t : State), step s = .next t) :=
  ⟨{ State.reset with pending := [.powerGood] }, _, by rfl⟩
/-- The hypotheses of StrangersAreDenied, clause by clause. -/
theorem test_met_StrangersAreDenied :
    (∃ (c : Instr) (p : HPort) (s : State), deviceWide c = some p ∧ Stranger p s) ∧
    (∃ (c : Instr) (p : HPort) (s : State), ((deviceWide c = some p ∨ c = .claim p ∨ c = .hostRenew p ∨ c = .hostYield p ∨ (∃ n, c = .force p n))) ∧ (s.host p).perst = true) :=
  ⟨⟨Instr.flip .hb, .hb, { up with hst.hb.perst := false }, by decide +kernel, ⟨by decide +kernel, by decide +kernel, by decide +kernel⟩⟩,
    ⟨Instr.flip .hb, .hb, up, by decide +kernel, by decide +kernel⟩⟩
/-- The hypotheses of MemoryReadsWhatWasWritten, clause by clause. -/
theorem test_met_MemoryReadsWhatWasWritten :
    (∃ (p : HPort) (q : HPort) (off : BitVec 36) (off' : BitVec 36) (data : List Byte) (a : Nat) (s : State), Owner p s ∧ (s.host q).perst = false ∧ a = (s.host p).win.toNat * 2 ^ 30 + off.toNat ∧ a = (s.host q).win.toNat * 2 ^ 30 + off'.toNat ∧ a + data.length ≤ s.capacity) ∧
    (∃ (s : State) (t : State), Memory.wf s = true ∧ Memory.wf t = true ∧ ((∀ a, tget 0 s.ram a = tget 0 t.ram a))) :=
  ⟨⟨.ha, .hb, 6, 6, [1, 0, 3], 6, { up with hst.hb.perst := false, ram := [(5, 9), (7, 8)] }, ⟨by decide +kernel, by decide +kernel, by decide +kernel⟩, by decide +kernel, by decide +kernel, by decide +kernel, by decide +kernel⟩,
    ⟨{ up with ram := [(5, 9), (7, 8)] }, { up with ram := [(5, 9), (7, 8)] }, by decide +kernel, by decide +kernel, by exact fun _ => rfl⟩⟩
/-- The hypotheses of VersionFusesOnlyRise, clause by clause. -/
theorem test_met_VersionFusesOnlyRise :
    (∃ (p : HPort) (s : State), Owner p s ∧ s.sec.busy = false) ∧
    (∃ (p : HPort) (s : State), Owner p s ∧ s.sec.busy = false) ∧
    (∃ (s : State), s.glb.state = .reset) ∧
    (∃ (s : State) (t : State), step s = .next t) :=
  ⟨⟨.ha, { up with sec.secver := 4 }, ⟨by decide +kernel, by decide +kernel, by decide +kernel⟩, by decide +kernel⟩,
    ⟨.ha, up, ⟨by decide +kernel, by decide +kernel, by decide +kernel⟩, by decide +kernel⟩,
    ⟨State.reset, by decide +kernel⟩,
    ⟨{ State.reset with pending := [.powerGood] }, _, by rfl⟩⟩
/-- The hypotheses of RegisterPairsMoveTogether, clause by clause. -/
theorem test_met_RegisterPairsMoveTogether :
    (∃ (p : HPort) (off : BitVec 26) (x : Nat) (s : State), (s.host p).perst = false ∧ off.toNat % 4 = 0 ∧ pairVal s p off.toNat = some x) ∧
    (∃ (p : HPort) (off : BitVec 26) (x : Nat) (s : State), (s.host p).perst = false ∧ off.toNat % 4 = 0 ∧ 4 ≤ off.toNat ∧ pairVal s p off.toNat = none ∧ pairVal s p (off.toNat - 4) = some x) ∧
    (∃ (p : HPort) (off : BitVec 26) (x : Nat) (s : State), (s.host p).perst = false ∧ pairVal s p off.toNat = some x) ∧
    (∃ (p : HPort) (off : BitVec 26) (s : State), Owner p s ∧ off.toNat ∈ rwPairs) ∧
    (∃ (p : HPort) (off : BitVec 26) (lo : Nat) (k : Nat) (x : Nat) (low : Word) (s : State), Owner p s ∧ off.toNat = lo + 4 ∧ pairVal s p lo = some x ∧ low = (tget none (s.host p).wrLatch lo).getD (BitVec.ofNat 32 x) ∧ (lo, k) ∈ [(0x10000C, 12), (0x202014, 12), (0xC00028, 5), (0xC00060, 12), (0xC00080, 12), (0x1080010, 12), (0x1080018, 12), (0x1400030, 12), (0x1400040, 0), (0x1400060, 12), (0x1400078, 12), (0x1800004, 6), (0x1800050, 12), (0x1C00004, 6), (0x1C00070, 12), (0x1C00078, 0), (0x2000020, 12), (0x2420010, 0), (0x2800008, 0), (0x2800508, 0), (0x2800510, 0), (0x2C0000C, 6), (0x3000024, 0), (0x3000030, 12), (0x3000054, 12)]) ∧
    (∃ (p : HPort) (off : BitVec 26) (lo : Nat) (k : Nat) (x : Nat) (low : Word) (s : State), Owner p s ∧ off.toNat = lo + 4 ∧ pairVal s p lo = some x ∧ low = (tget none (s.host p).wrLatch lo).getD (BitVec.ofNat 32 x) ∧ (lo, k) ∈ [(0x10000C, 12), (0x202014, 12), (0xC00028, 5), (0xC00060, 12), (0xC00080, 12), (0x1080010, 12), (0x1080018, 12), (0x1400030, 12), (0x1400040, 0), (0x1400060, 12), (0x1400078, 12), (0x1800004, 6), (0x1800050, 12), (0x1C00004, 6), (0x1C00070, 12), (0x1C00078, 0), (0x2000020, 12), (0x2420010, 0), (0x2800008, 0), (0x2800508, 0), (0x2800510, 0), (0x2C0000C, 6), (0x3000024, 0), (0x3000030, 12), (0x3000054, 12)]) ∧
    (∃ (p : HPort) (c : Nat) (s : State), (s.host p).perst = false ∧ s.booted = true ∧ c < 16) ∧
    (∃ (p : HPort) (s : State), Owner p s) :=
  ⟨⟨.hb, 0x1400040, 0x500000009, { up with hst.hb.perst := false, tmb.at_ := 0x500000009 }, by decide +kernel, by decide +kernel, by decide +kernel⟩,
    ⟨.hb, 0x1400044, 0x500000009, { up with hst.hb.perst := false, tmb.at_ := 0x500000009, hst.hb.rdLatch := [(0x1400040, 7)] }, by decide +kernel, by decide +kernel, by decide +kernel, by decide +kernel, by decide +kernel⟩,
    ⟨.hb, 0x1400040, 0x500000009, { up with hst.hb.perst := false, tmb.at_ := 0x500000009 }, by decide +kernel, by decide +kernel⟩,
    ⟨.ha, 0x1400040, up, ⟨by decide +kernel, by decide +kernel, by decide +kernel⟩, by decide +kernel⟩,
    ⟨.ha, 0x1400044, 0x1400040, 0, 0x500000009, 9, { up with tmb.at_ := 0x500000009 }, ⟨by decide +kernel, by decide +kernel, by decide +kernel⟩, by decide +kernel, by decide +kernel, by decide +kernel, by decide +kernel⟩,
    ⟨.ha, 0x1C00008, 0x1C00004, 6, 0, 0xFFFFFFFF, { up with hst.ha.wrLatch := [(0x1C00004, some 0xFFFFFFFF)] }, ⟨by decide +kernel, by decide +kernel, by decide +kernel⟩, by decide +kernel, by decide +kernel, by decide +kernel, by decide +kernel⟩,
    ⟨.hb, 15, { up with hst.hb.perst := false }, by decide +kernel, by decide +kernel, by decide +kernel⟩,
    ⟨.ha, { up with hst.ha.wrLatch := [(0x1400040, some 0xFFFF), (0x2800008, some 0xFFFF)] }, ⟨by decide +kernel, by decide +kernel, by decide +kernel⟩⟩⟩
/-- The hypotheses of StepTakesTheFrontCommand, clause by clause. -/
theorem test_met_StepTakesTheFrontCommand :
    (∃ (s : State), s.pending = []) :=
  ⟨up, by decide +kernel⟩
/-- The hypotheses of CommandsChangeOnlyTheirBlocks, clause by clause. -/
theorem test_met_CommandsChangeOnlyTheirBlocks :
    (∃ (c : Instr) (s : State) (t : State), exec c s = .next t) ∧
    (∃ (c : Instr) (s : State) (t : State), exec c s = .next t ∧ (((∃ a b g x, c = .linkFrameReceived a b g x) ∨ (∃ a g x, c = .codewordReceived a g x) ∨ (∃ a b d, c = .packetIngress a b d) ∨ (∃ a b d, c = .hello a b d) ∨ (∃ a b, c = .config a b) ∨ (∃ a b, c = .creditInit a b)))) :=
  ⟨⟨Instr.flip .ha, up, _, by rfl⟩,
    ⟨Instr.creditInit 0 [], up, _, by rfl, by simp⟩⟩
end Sys2Proof.Tests.W22
end

/-! SUPPORT. The frame of every command in one lemma, and the invariant of every step. -/
namespace Sys2Proof.Machine
open Sys2Proof

/-- The frame of every command: beyond the blocks that `touches` lists nothing changes, and nothing permanent is undone.
One case for each command, which is the law of its meaning. -/
theorem exec_kept : ∀ (c : Instr) (s : State), KeptOut (touches c) s (exec c s)
  | .trainingComplete, _ => execTrainingComplete_kept
  | .quiesce .., _ => execQuiesce_kept
  | .quiesceDrainDone, _ => execQuiesceDrainDone_kept
  | .resume .., _ => execResume_kept
  | .clrmin .., _ => execClrmin_kept
  | .tokrateUpdate .., _ => execTokrateUpdate_kept
  | .powerGood, _ => execPowerGood_kept
  | .keyLoad .., _ => execKeyLoad_kept
  | .secverCommit .., _ => execSecverCommit_kept
  | .dbgChallenge .., _ => execDbgChallenge_kept
  | .dbgUnlock .., _ => execDbgUnlock_kept
  | .dbgLock .., _ => execDbgLock_kept
  | .challengeExpire .., _ => execChallengeExpire_kept
  | .meshEvent, _ => execMeshEvent_kept
  | .supplyGlitch, _ => execSupplyGlitch_kept
  | .bootPlatLoad, _ => execBootPlatLoad_kept
  | .platLoad .., _ => execPlatLoad_kept
  | .platAbort .., _ => execPlatAbort_kept
  | .districtDrainDone .., _ => execDistrictDrainDone_kept
  | .replatApplyDone .., _ => execReplatApplyDone_kept
  | .districtTrained .., _ => execDistrictTrained_kept
  | .resetIn .., _ => execResetIn_kept
  | .sensorSample .., _ => execSensorSample_kept
  | .vinRise, _ => execVinRise_kept
  | .vinLow, _ => execVinLow_kept
  | .undervoltage, _ => execUndervoltage_kept
  | .overvoltage, _ => execOvervoltage_kept
  | .overcurrent, _ => execOvercurrent_kept
  | .vinReturn, _ => execVinReturn_kept
  | .coolOkFall, _ => execCoolOkFall_kept
  | .coolOkRise, _ => execCoolOkRise_kept
  | .powerGovWithdraw .., _ => execPowerGovWithdraw_kept
  | .powerGovReturn .., _ => execPowerGovReturn_kept
  | .clrmax .., _ => execClrmax_kept
  | .smbusBlockRead .., _ => execSmbusBlockRead_kept
  | .chalReq .., _ => execChalReq_kept
  | .unlock .., _ => execUnlock_kept
  | .regRead .., _ => execRegRead_kept
  | .memRead .., _ => execMemRead_kept
  | .memWrite .., _ => execMemWrite_kept
  | .halt .., _ => execHalt_kept
  | .fwChunk .., _ => execFwChunk_kept
  | .fwDone .., _ => execFwDone_kept
  | .lock .., _ => execLock_kept
  | .dbgEnChange .., _ => execDbgEnChange_kept
  | .packetIngress .., _ => execPacketIngress_kept
  | .ingressHoldRelease .., _ => execIngressHoldRelease_kept
  | .policerRelease .., _ => execPolicerRelease_kept
  | .producerEnqueue .., _ => execProducerEnqueue_kept
  | .replicationResume .., _ => execReplicationResume_kept
  | .transmitOpportunity .., _ => execTransmitOpportunity_kept
  | .windfallSweep .., _ => execWindfallSweep_kept
  | .sprayCounterRelease .., _ => execSprayCounterRelease_kept
  | .bucketReturn .., _ => execBucketReturn_kept
  | .reorderTimeout .., _ => execReorderTimeout_kept
  | .reorderRetire .., _ => execReorderRetire_kept
  | .sampleSweep .., _ => execSampleSweep_kept
  | .qmaxReset .., _ => execQmaxReset_kept
  | .frameSlot .., _ => execFrameSlot_kept
  | .linkFrameReceived .., _ => execLinkFrameReceived_kept
  | .replayTimeout .., _ => execReplayTimeout_kept
  | .ackProgressTimeout .., _ => execAckProgressTimeout_kept
  | .hello .., _ => execHello_kept
  | .config .., _ => execConfig_kept
  | .creditInit .., _ => execCreditInit_kept
  | .trainingStateTimeout .., _ => execTrainingStateTimeout_kept
  | .retrainInterval .., _ => execRetrainInterval_kept
  | .helloSend .., _ => execHelloSend_kept
  | .laneCtlOff .., _ => execLaneCtlOff_kept
  | .offAck .., _ => execOffAck_kept
  | .laneCtlOn .., _ => execLaneCtlOn_kept
  | .onAck .., _ => execOnAck_kept
  | .laneCtlRepeat .., _ => execLaneCtlRepeat_kept
  | .laneCtlTimeout .., _ => execLaneCtlTimeout_kept
  | .lnkDisable .., _ => execLnkDisable_kept
  | .lnkRetrain .., _ => execLnkRetrain_kept
  | .skewWindowExpiry .., _ => execSkewWindowExpiry_kept
  | .codewordReceived .., _ => execCodewordReceived_kept
  | .eqRequest .., _ => execEqRequest_kept
  | .eqTuneEnd .., _ => execEqTuneEnd_kept
  | .idleEnter .., _ => execIdleEnter_kept
  | .idleRetainExpire .., _ => execIdleRetainExpire_kept
  | .idleExit .., _ => execIdleExit_kept
  | .recal .., _ => execRecal_kept
  | .recalPassEnd .., _ => execRecalPassEnd_kept
  | .eyeStart .., _ => execEyeStart_kept
  | .eyeAbort .., _ => execEyeAbort_kept
  | .eyeScanDone .., _ => execEyeScanDone_kept
  | .serviceAlign .., _ => execServiceAlign_kept
  | .serviceMessageDiscard .., _ => execServiceMessageDiscard_kept
  | .timeMarker .., _ => execTimeMarker_kept
  | .calRead .., _ => execCalRead_kept
  | .calCapture .., _ => execCalCapture_kept
  | .calWrite .., _ => execCalWrite_kept
  | .fwdRead .., _ => execFwdRead_kept
  | .fwdWrite .., _ => execFwdWrite_kept
  | .exInsert .., _ => execExInsert_kept
  | .exDelete .., _ => execExDelete_kept
  | .exLookup .., _ => execExLookup_kept
  | .liveInsert .., _ => execLiveInsert_kept
  | .cordonSet .., _ => execCordonSet_kept
  | .cordonClr .., _ => execCordonClr_kept
  | .repair .., _ => execRepair_kept
  | .flip .., _ => execFlip_kept
  | .confirm .., _ => execConfirm_kept
  | .batch .., _ => execBatch_kept
  | .segmentDigest, _ => execSegmentDigest_kept
  | .learnRelay .., _ => execLearnRelay_kept
  | .tod .., _ => execTod_kept
  | .ppsEdge .., _ => execPpsEdge_kept
  | .ref10Loss, _ => execRef10Loss_kept
  | .ppsMissing .., _ => execPpsMissing_kept
  | .todOut .., _ => execTodOut_kept
  | .sync .., _ => execSync_kept
  | .syncSend .., _ => execSyncSend_kept
  | .delayReq .., _ => execDelayReq_kept
  | .delayReqSend .., _ => execDelayReqSend_kept
  | .delayResp .., _ => execDelayResp_kept
  | .elect .., _ => execElect_kept
  | .electSend .., _ => execElectSend_kept
  | .electionWin .., _ => execElectionWin_kept
  | .announce .., _ => execAnnounce_kept
  | .announceSend .., _ => execAnnounceSend_kept
  | .probe .., _ => execProbe_kept
  | .probeSend .., _ => execProbeSend_kept
  | .probeTimeout .., _ => execProbeTimeout_kept
  | .leave .., _ => execLeave_kept
  | .syncLossHoldover .., _ => execSyncLossHoldover_kept
  | .syncLossReelect .., _ => execSyncLossReelect_kept
  | .holdoverLimit .., _ => execHoldoverLimit_kept
  | .stepAdmitRestore .., _ => execStepAdmitRestore_kept
  | .tmbLoad .., _ => execTmbLoad_kept
  | .arm .., _ => execArm_kept
  | .activate .., _ => execActivate_kept
  | .disarm .., _ => execDisarm_kept
  | .timetableActivation .., _ => execTimetableActivation_kept
  | .activationGraceEnd .., _ => execActivationGraceEnd_kept
  | .mapIntervalClose .., _ => execMapIntervalClose_kept
  | .install .., _ => execInstall_kept
  | .uninstall .., _ => execUninstall_kept
  | .withdraw .., _ => execWithdraw_kept
  | .lndQuery .., _ => execLndQuery_kept
  | .lndTrigger .., _ => execLndTrigger_kept
  | .landingDelivery .., _ => execLandingDelivery_kept
  | .releaseInstant .., _ => execReleaseInstant_kept
  | .landingTimeout .., _ => execLandingTimeout_kept
  | .tombstoneExpire .., _ => execTombstoneExpire_kept
  | .eaExpire .., _ => execEaExpire_kept
  | .fanoutCordonCheck .., _ => execFanoutCordonCheck_kept
  | .contextRestoreDone .., _ => execContextRestoreDone_kept
  | .fenceArm .., _ => execFenceArm_kept
  | .fenceDisarm .., _ => execFenceDisarm_kept
  | .fenceQuery .., _ => execFenceQuery_kept
  | .setexp .., _ => execSetexp_kept
  | .fenceTimeout .., _ => execFenceTimeout_kept
  | .cbRead .., _ => execCbRead_kept
  | .cbWrite .., _ => execCbWrite_kept
  | .pgmLoad .., _ => execPgmLoad_kept
  | .pgmUnload .., _ => execPgmUnload_kept
  | .bind .., _ => execBind_kept
  | .unbind .., _ => execUnbind_kept
  | .rebind .., _ => execRebind_kept
  | .handoverComplete .., _ => execHandoverComplete_kept
  | .bindQuery .., _ => execBindQuery_kept
  | .restart .., _ => execRestart_kept
  | .tfWrite .., _ => execTfWrite_kept
  | .tfRead .., _ => execTfRead_kept
  | .yardFlush .., _ => execYardFlush_kept
  | .millNop .., _ => execMillNop_kept
  | .millYield .., _ => execMillYield_kept
  | .millJmp .., _ => execMillJmp_kept
  | .millBrz .., _ => execMillBrz_kept
  | .millBrnz .., _ => execMillBrnz_kept
  | .millMovi .., _ => execMillMovi_kept
  | .millAlu .., _ => execMillAlu_kept
  | .millAlui .., _ => execMillAlui_kept
  | .millLdx .., _ => execMillLdx_kept
  | .millStx .., _ => execMillStx_kept
  | .millTld .., _ => execMillTld_kept
  | .millTst .., _ => execMillTst_kept
  | .millTzero .., _ => execMillTzero_kept
  | .millTmma .., _ => execMillTmma_kept
  | .millTadd .., _ => execMillTadd_kept
  | .millTmul .., _ => execMillTmul_kept
  | .millTscale .., _ => execMillTscale_kept
  | .millTlut .., _ => execMillTlut_kept
  | .millTcvt .., _ => execMillTcvt_kept
  | .millTred .., _ => execMillTred_kept
  | .millTq .., _ => execMillTq_kept
  | .millTdq .., _ => execMillTdq_kept
  | .millSend .., _ => execMillSend_kept
  | .millSendt .., _ => execMillSendt_kept
  | .millTrig .., _ => execMillTrig_kept
  | .millDone .., _ => execMillDone_kept
  | .millBar .., _ => execMillBar_kept
  | .millStep .., _ => execMillStep_kept
  | .millYput .., _ => execMillYput_kept
  | .millYget .., _ => execMillYget_kept
  | .millYnext .., _ => execMillYnext_kept
  | .millYflush .., _ => execMillYflush_kept
  | .accessComplete .., _ => execAccessComplete_kept
  | .yardWaitEnd .., _ => execYardWaitEnd_kept
  | .sliceBoundary .., _ => execSliceBoundary_kept
  | .teardownStart .., _ => execTeardownStart_kept
  | .teardownSweepEnd .., _ => execTeardownSweepEnd_kept
  | .teardownRelease .., _ => execTeardownRelease_kept
  | .teardownQuery .., _ => execTeardownQuery_kept
  | .engHello .., _ => execEngHello_kept
  | .engineStatus .., _ => execEngineStatus_kept
  | .engineAck .., _ => execEngineAck_kept
  | .keepalive .., _ => execKeepalive_kept
  | .engineCmdRetry .., _ => execEngineCmdRetry_kept
  | .engineLost .., _ => execEngineLost_kept
  | .dropRingRetry .., _ => execDropRingRetry_kept
  | .mislock .., _ => execMislock_kept
  | .optCal .., _ => execOptCal_kept
  | .optCalPassEnd .., _ => execOptCalPassEnd_kept
  | .flySet .., _ => execFlySet_kept
  | .flyClear .., _ => execFlyClear_kept
  | .flyoverCut .., _ => execFlyoverCut_kept
  | .flyOffAckDeadline .., _ => execFlyOffAckDeadline_kept
  | .flyVerify .., _ => execFlyVerify_kept
  | .flyOffInstant .., _ => execFlyOffInstant_kept
  | .flySwitchTimeout .., _ => execFlySwitchTimeout_kept
  | .leaseGrant .., _ => execLeaseGrant_kept
  | .leaseRenew .., _ => execLeaseRenew_kept
  | .leaseRelease .., _ => execLeaseRelease_kept
  | .leaseExpiry .., _ => execLeaseExpiry_kept
  | .partQuery .., _ => execPartQuery_kept
  | .partDrain .., _ => execPartDrain_kept
  | .partReturn .., _ => execPartReturn_kept
  | .partZero .., _ => execPartZero_kept
  | .partTest .., _ => execPartTest_kept
  | .partTestEnd .., _ => execPartTestEnd_kept
  | .drainwaitRelease .., _ => execDrainwaitRelease_kept
  | .cruiseSave .., _ => execCruiseSave_kept
  | .fullSelfTest .., _ => execFullSelfTest_kept
  | .selfTestEnd .., _ => execSelfTestEnd_kept
  | .thermalGovWithdraw .., _ => execThermalGovWithdraw_kept
  | .thermalGovReturn .., _ => execThermalGovReturn_kept
  | .jrnl .., _ => execJrnl_kept
  | .jrnlAck .., _ => execJrnlAck_kept
  | .pull .., _ => execPull_kept
  | .spareAbort .., _ => execSpareAbort_kept
  | .pullRequest .., _ => execPullRequest_kept
  | .hdr .., _ => execHdr_kept
  | .twinSnap .., _ => execTwinSnap_kept
  | .twinEnd .., _ => execTwinEnd_kept
  | .nack .., _ => execNack_kept
  | .pullTimeout .., _ => execPullTimeout_kept
  | .mirrorAckSend .., _ => execMirrorAckSend_kept
  | .perst .., _ => execPerst_kept
  | .perstDeassert .., _ => execPerstDeassert_kept
  | .flr .., _ => execFlr_kept
  | .bar0BadAccess .., _ => execBar0BadAccess_kept
  | .bar2Access .., _ => execBar2Access_kept
  | .registerWrite .., _ => execRegisterWrite_kept
  | .lowWordRead .., _ => execLowWordRead_kept
  | .claim .., _ => execClaim_kept
  | .hostRenew .., _ => execHostRenew_kept
  | .hostYield .., _ => execHostYield_kept
  | .force .., _ => execForce_kept
  | .hostLeaseLapse .., _ => execHostLeaseLapse_kept
  | .dmaProd .., _ => execDmaProd_kept
  | .dmaDescriptorDone .., _ => execDmaDescriptorDone_kept
  | .dmaReset .., _ => execDmaReset_kept
  | .msixHoldoffEnd .., _ => execMsixHoldoffEnd_kept
  | .fwInfo .., _ => execFwInfo_kept
  | .flashRead .., _ => execFlashRead_kept
  | .platWrite .., _ => execPlatWrite_kept
  | .setActive .., _ => execSetActive_kept
  | .partialWrite .., _ => execPartialWrite_kept
  | .fwWrite .., _ => execFwWrite_kept
  | .attest .., _ => execAttest_kept
  | .tlySel .., _ => execTlySel_kept
  | .snapNow .., _ => execSnapNow_kept
  | .snapAt .., _ => execSnapAt_kept
  | .blockAt .., _ => execBlockAt_kept
  | .snapCancel .., _ => execSnapCancel_kept
  | .blockSnap .., _ => execBlockSnap_kept
  | .snapshotInstant .., _ => execSnapshotInstant_kept
  | .snapshotCopyDone, _ => execSnapshotCopyDone_kept
  | .tagRecord .., _ => execTagRecord_kept

/-- A command that answers leads to a state that keeps what `touches` does not list. -/
theorem kept_of_exec {c : Instr} {s t : State} (h : exec c s = .next t) : Kept (touches c) s t := by
  have k := exec_kept c s
  rwa [h] at k

/-! ### The invariant along a step -/

/-- A change that keeps a frame keeps the invariant. -/
theorem Kept.inv {L : List Blk} {s t : State} (k : Kept L s t) (h : Inv s) : Inv t := ⟨k.ram h.1, k.gone h.2⟩

/-- A step on an empty queue lets one nanosecond pass. -/
theorem step_idle {s : State} (h : s.pending = []) : step s = .next (elapse 1 s) := by simp only [step, h]
/-- A step takes the command at the front, which runs on the state with the queue's rest. -/
theorem step_front {s : State} {c : Instr} {rest : List Instr} (h : s.pending = c :: rest) :
    step s = exec c { s with pending := rest } := by simp only [step, h]

/-- What a step leads to keeps the frame of the command it takes, from the state with the queue's rest. -/
theorem kept_of_step {s t : State} (h : step s = .next t) : ∃ L, Kept L { s with pending := s.pending.tail } t := by
  cases hq : s.pending with
  | nil =>
    rw [step_idle hq] at h
    cases h
    exact ⟨_, by rw [List.tail_nil, ← hq]; exact elapse_kept⟩
  | cons c rest =>
    rw [step_front hq] at h
    exact ⟨_, kept_of_exec h⟩

end Sys2Proof.Machine

section
open Sys2Proof Sys2Proof.Machine

/-- Settles O54: a step is a command's frame from the state with the queue's rest, and that state has the memory, the fuses, the keys, the clock and the output of the state before. -/
theorem everyStepKeepsTheInvariant : Obligations.EveryStepKeepsTheInvariant := by
  intro s t h
  obtain ⟨L, k⟩ := kept_of_step h
  have lasts : Lasts s t := ⟨k.devid, k.mem128, k.fusever, k.erased, k.clk, k.out⟩
  exact ⟨fun hi => k.inv hi, lasts, k.pending⟩

end

/-! SUPPORT. LPDDR5X through the BAR2 window, and that a sparse table in canonical form is determined by its reads. -/
namespace Sys2Proof.Machine
open Sys2Proof

/-- No entry stands at or below the bound that a table rises from: a read there gives the default. -/
theorem tget_of_tsorted_le {α : Type} (d : α) {r : Tab α} {i k : Nat} (h : tsorted (some i) r = true) (hk : k ≤ i) :
    tget d r k = d := by
  induction r generalizing i with
  | nil => rfl
  | cons e r ih =>
    have hlt : i < e.1 := tsorted_some_lt h e (by simp)
    simp only [tsorted, Bool.and_eq_true] at h
    rw [tget, if_neg (by omega)]
    exact ih h.2 (by omega)

/-- Rising tables without entries at the default that read the same are the same list. -/
theorem eq_of_tget_eq {α : Type} [DecidableEq α] {d : α} {t u : Tab α} {b c : Option Nat} (ht : tsorted b t = true) (hu : tsorted c u = true)
    (nt : ∀ e ∈ t, e.2 ≠ d) (nu : ∀ e ∈ u, e.2 ≠ d) (h : ∀ k, tget d t k = tget d u k) : t = u := by
  induction t generalizing u b c with
  | nil =>
    cases u with
    | nil => rfl
    | cons f q => exact absurd (by simpa [tget] using (h f.1).symm) (nu f (by simp))
  | cons e r ih =>
    obtain ⟨i, v⟩ := e
    cases u with
    | nil => exact absurd (by simpa [tget] using h i) (nt (i, v) (by simp))
    | cons f q =>
      obtain ⟨j, w⟩ := f
      simp only [tsorted, Bool.and_eq_true] at ht hu
      have hv : v ≠ d := nt (i, v) (by simp)
      have hw : w ≠ d := nu (j, w) (by simp)
      have hi := h i
      have hj := h j
      simp only [tget, if_true] at hi hj
      rcases Nat.lt_trichotomy i j with hlt | rfl | hgt
      · rw [if_neg (by omega), tget_of_tsorted_le d hu.2 (by omega)] at hi
        exact absurd hi hv
      · rw [if_pos rfl] at hi
        subst hi
        have tails : r = q := by
          refine ih ht.2 hu.2 (fun e he => nt e (by simp [he])) (fun e he => nu e (by simp [he])) fun k => ?_
          by_cases hk : k = i
          · rw [tget_of_tsorted_le d ht.2 (by omega), tget_of_tsorted_le d hu.2 (by omega)]
          · simpa [tget, hk] using h k
        rw [tails]
      · rw [if_neg (by omega), tget_of_tsorted_le d ht.2 (by omega)] at hj
        exact absurd hj.symm hw

/-- A table in canonical form is determined by what its keys read. -/
theorem twf_ext {α : Type} [DecidableEq α] {d : α} {t u : Tab α} (ht : twf d t = true) (hu : twf d u = true)
    (h : ∀ k, tget d t k = tget d u k) : t = u := by
  simp only [twf, Bool.and_eq_true, List.all_eq_true, decide_eq_true_eq] at ht hu
  exact eq_of_tget_eq ht.1 hu.1 ht.2 hu.2 h

/-- The address that an offset in the window of a port names (R388). -/
def bar2Addr (s : State) (p : HPort) (off : BitVec 36) : Nat := (s.host p).win.toNat * 2 ^ 30 + off.toNat

/-- The owner's write through the window that lies within the fitted memory is a write of memory, and nothing else. -/
theorem exec_bar2Access_write {p : HPort} {off : BitVec 36} {n : Nat} {d : List Byte} {s : State} (ho : Owner p s)
    (ha : bar2Addr s p off + d.length ≤ s.capacity) :
    exec (.bar2Access p off n (some d)) s = .next (wrMem s (bar2Addr s p off) d) := by
  obtain ⟨hp, hb, hown⟩ := ho
  unfold bar2Addr at ha ⊢
  simp only [exec, execBar2Access, hp, hostWrite_owner hp hb hown, if_neg (Nat.not_lt.mpr ha), Bool.false_eq_true, if_false]

/-- A port's read through the window that lies within the fitted memory answers what memory holds there, and changes nothing else. -/
theorem exec_bar2Access_read {p : HPort} {off : BitVec 36} {n : Nat} {s : State} (hp : (s.host p).perst = false) (hb : s.booted = true)
    (ha : bar2Addr s p off + n ≤ s.capacity) :
    exec (.bar2Access p off n none) s = .next (emit (.hostRead p (some (rdMem s (bar2Addr s p off) n))) s) := by
  unfold bar2Addr at ha ⊢
  simp only [exec, execBar2Access, hp, hb, if_neg (Nat.not_lt.mpr ha), Bool.false_eq_true, if_false, if_true]

end Sys2Proof.Machine

section
open Sys2Proof Sys2Proof.Machine

/-- Settles O58: the write through the window is a write of memory, the read reads memory at the same address, and read after write holds there and elsewhere. -/
theorem memoryReadsWhatWasWritten : Obligations.MemoryReadsWhatWasWritten := by
  refine ⟨?_, fun s t hs ht h => twf_ext hs ht h⟩
  intro p q off off' data a s ho hq ha ha' hfit
  have hb : s.booted = true := ho.2.1
  have hw : bar2Addr s p off = a := ha.symm
  refine ⟨_, exec_bar2Access_write ho (by rw [hw]; exact hfit), ?_, fun b n hbn => ?_⟩
  · have hr : bar2Addr (wrMem s a data) q off' = a := ha'.symm
    rw [hw]
    refine ⟨_, exec_bar2Access_read (s := wrMem s a data) hq hb (by rw [hr]; exact hfit), ?_, rfl⟩
    rw [hr, rdMem_wrMem s a data hfit]
    rfl
  · rw [hw]
    exact rdMem_wrMem_of_ne s a b n data hbn

end

/-! SUPPORT. BAR0 (R6 to R8, R387, R390): which write or read of a register does what. -/
namespace Sys2Proof.Machine
open Sys2Proof

/-! ### A write by the way it takes -/

theorem exec_registerWrite (p : HPort) (off : BitVec 26) (v : Word) (s : State) :
    exec (.registerWrite p off v) s = .next (busWrite p off.toNat v.toNat s) := rfl

section
variable {p : HPort} {off v : Nat} {s : State}

/-- While PERST# is asserted no write arrives. -/
theorem busWrite_perst (hp : (s.host p).perst = true) : busWrite p off v s = s := by simp [busWrite, hp]

/-- A misaligned write counts, and does nothing else (R387). -/
theorem busWrite_misaligned (hp : (s.host p).perst = false) (ha : off % 4 ≠ 0) :
    busWrite p off v s = count (evNo 2 2 (portIdx p)) s := by simp [busWrite, hp, ha]

/-- A write to a register of the port's own takes the port's gate. -/
theorem busWrite_own {f : State → State} (hp : (s.host p).perst = false) (ha : off % 4 = 0) (hr : 0x200000 ≤ off ∧ off < 0x400000)
    (hf : ownWrite p (off - 0x200000) v = some f) : busWrite p off v s = portWrite p f s := by
  simp [busWrite, hp, ha, hr, hf]

/-- Every other write takes the gate of the host lease. -/
theorem busWrite_device (hp : (s.host p).perst = false) (ha : off % 4 = 0)
    (hf : 0x200000 ≤ off → off < 0x400000 → ownWrite p (off - 0x200000) v = none) :
    busWrite p off v s = hostWrite p (decide (off < 0x100000)) (devWrite p off v) s := by
  by_cases hr : 0x200000 ≤ off ∧ off < 0x400000
  · simp [busWrite, hp, ha, hr, hf hr.1 hr.2]
  · simp only [busWrite, hp, ha, if_neg hr, Bool.false_eq_true, if_false, bne_self_eq_false]

/-- The owner's write to a device-wide register is carried out. -/
theorem busWrite_owner (ho : Owner p s) (ha : off % 4 = 0)
    (hf : 0x200000 ≤ off → off < 0x400000 → ownWrite p (off - 0x200000) v = none) : busWrite p off v s = devWrite p off v s := by
  obtain ⟨hp, hb, hown⟩ := ho
  rw [busWrite_device hp ha hf, hostWrite_owner hp hb hown]

/-- A stranger's write to a device-wide register is denied (R390). -/
theorem busWrite_stranger (hs : Stranger p s) (ha : off % 4 = 0)
    (hf : 0x200000 ≤ off → off < 0x400000 → ownWrite p (off - 0x200000) v = none) : busWrite p off v s = denyWrite p s := by
  obtain ⟨hp, hb, hown⟩ := hs
  rw [busWrite_device hp ha hf, hostWrite_stranger hp hb hown]

/-- Before firmware runs a write outside GLB does nothing. -/
theorem busWrite_early (hp : (s.host p).perst = false) (hb : s.booted = false) (ho : 0x100000 ≤ off) (ha : off % 4 = 0) :
    busWrite p off v s = s := by
  have hg : decide (off < 0x100000) = false := decide_eq_false (by omega)
  cases hf : ownWrite p (off - 0x200000) v with
  | none => rw [busWrite_device hp ha fun _ _ => hf, hg, hostWrite_early hb]
  | some f =>
    by_cases hr : 0x200000 ≤ off ∧ off < 0x400000
    · rw [busWrite_own hp ha hr hf]; simp [portWrite, hb]
    · rw [busWrite_device hp ha fun h1 h2 => absurd ⟨h1, h2⟩ hr, hg, hostWrite_early hb]

/-- A register that is no half of an RW pair is its block's. -/
theorem devWrite_block (hl : off ∉ rwPairs) (hh : off - 4 ∉ rwPairs) : devWrite p off v s = wBlock p off v s := by
  simp [devWrite, hl, hh]

/-- The low word of an RW pair is held. -/
theorem devWrite_low (hl : off ∈ rwPairs) : devWrite p off v s = holdLow p off v s := by
  simp [devWrite, hl]

/-- The high word of an RW pair completes it. -/
theorem devWrite_high (hl : off + 4 ∉ rwPairs) (hh : off ∈ rwPairs) : devWrite p (off + 4) v s = writeHigh p off v s := by
  simp [devWrite, hl, hh]

end

/-! ### A read by the way it takes -/

section
variable {p : HPort} {off : BitVec 26} {s : State}

theorem exec_lowWordRead_perst {rd : BusRead} (hp : (s.host p).perst = true) : exec (.lowWordRead p rd) s = .next s := by
  simp [exec, execLowWordRead, hp]

/-- A misaligned read answers nothing and counts (R387). -/
theorem exec_wordRead_misaligned (hp : (s.host p).perst = false) (ha : off.toNat % 4 ≠ 0) :
    exec (.lowWordRead p (.word off)) s = .next (count (evNo 2 2 (portIdx p)) (emit (.hostRead p none) s)) := by
  simp [exec, execLowWordRead, hp, ha]

/-- An aligned read of four bytes fills the latches and answers. -/
theorem exec_wordRead (hp : (s.host p).perst = false) (ha : off.toNat % 4 = 0) :
    exec (.lowWordRead p (.word off)) s =
      .next (emit (.hostRead p (some (toLE 4 (readPort s p off.toNat)))) (latchPair p off.toNat s)) := by
  simp [exec, execLowWordRead, hp, ha]

/-- A read of eight bytes where no pair begins answers nothing and counts. -/
theorem exec_pairRead_none (hp : (s.host p).perst = false) (hv : pairVal s p off.toNat = none) :
    exec (.lowWordRead p (.pair off)) s = .next (count (evNo 2 2 (portIdx p)) (emit (.hostRead p none) s)) := by
  simp [exec, execLowWordRead, hp, hv]

/-- A read of eight bytes takes a pair whole (R387). -/
theorem exec_pairRead {x : Nat} (hp : (s.host p).perst = false) (hv : pairVal s p off.toNat = some x) :
    exec (.lowWordRead p (.pair off)) s = .next (emit (.hostRead p (some (toLE 8 x))) (latchPair p off.toNat s)) := by
  simp [exec, execLowWordRead, hp, hv]

end

/-- Where no pair begins, a read fills no latch. -/
theorem latchPair_none {p : HPort} {off : Nat} {s : State} (hv : pairVal s p off = none) : latchPair p off s = s := by
  simp only [latchPair, hv]

/-- A register that is no half of a pair reads its value. -/
theorem readPort_single {p : HPort} {off : Nat} {s : State} (hv : pairVal s p off = none) (hw : pairVal s p (off - 4) = none) :
    readPort s p off = regVal s p off := by
  simp [readPort, hv, hw]

/-- What a count leaves of the state and of the counters. -/
theorem count_ctr (ev : Nat) (s : State) : count ev s = { s with tly.ctr := (count ev s).tly.ctr } ∧
    ∀ e, tget 0 (count ev s).tly.ctr e = if e = ev then tget 0 s.tly.ctr e + 1 else tget 0 s.tly.ctr e := by
  refine ⟨rfl, fun e => ?_⟩
  by_cases h : e = ev
  · subst h; simp [count, countN]
  · simp [count, countN, h, tget_tmod_of_ne _ _ _ h]

/-- A W1C register after a write: the bits written 1 are 0 (R8). -/
theorem getLsbD_w1c {n : Nat} (e : BitVec n) (v : Word) (i : Nat) :
    (w1c e v.toNat).getLsbD i = (e.getLsbD i && !v.getLsbD i) := by
  by_cases h : i < n
  · simp only [w1c, BitVec.getLsbD_and, BitVec.getLsbD_not, BitVec.getLsbD_ofNat, h, decide_true, Bool.true_and, BitVec.testBit_toNat]
  · simp [BitVec.getLsbD_of_ge _ _ (Nat.le_of_not_lt h)]

/-- All of a word, as the field that a register takes. -/
@[simp] theorem bv_word (v : Word) : bv 32 v.toNat 0 = v := by simp [bv]

/-! ### Registers of the blocks, each by its offset -/

section
variable {p : HPort} {v : Word} {s : State}

theorem wBlock_fwdData0 : wBlock p 0xC00008 v.toNat s = { s with fwd.data0 := v } := by simp [wBlock, wFwd]
theorem wBlock_fwdMgmtEid : wBlock p 0xC00050 v.toNat s = { s with fwd.mgmtEid := v } := by simp [wBlock, wFwd]
theorem wBlock_milArg1 : wBlock p 0x1C00028 v.toNat s = { s with mil.arg1 := v } := by simp [wBlock, wMil]
theorem wBlock_resEpoch : wBlock p 0x2800004 v.toNat s = { s with res.epoch := v } := by simp [wBlock, wRes]
theorem wBlock_lndCorr : wBlock p 0x1800010 v.toNat s = { s with lnd.corr := v } := by simp [wBlock, wLnd]
theorem wBlock_tmbEvent : wBlock p 0x1400080 v.toNat s = { s with tmb.event := w1c s.tmb.event v.toNat } := by simp [wBlock, wTmb]
theorem wBlock_lndEvent : wBlock p 0x1800064 v.toNat s = { s with lnd.event := w1c s.lnd.event v.toNat } := by simp [wBlock, wLnd]
theorem wBlock_milEvent : wBlock p 0x1C00080 v.toNat s = { s with mil.event := w1c s.mil.event v.toNat } := by simp [wBlock, wMil]

end

/-! ### What an access leaves -/

/-- A denied write marks its port DENIED, and no other port (R390). -/
theorem denyWrite_host_self (p : HPort) (s : State) : ((denyWrite p s).host p).denied = true := by
  cases p <;> rfl
theorem denyWrite_host_of_ne {p q : HPort} (s : State) (h : q ≠ p) : (denyWrite p s).host q = s.host q :=
  setHost_host_of_ne s _ h

/-- The owner's write to a register of a block other than HST. -/
theorem completes_ownerWrite {p : HPort} {off : BitVec 26} {v : Word} {s : State} {P : State → Prop} (ho : Owner p s) (ha : off.toNat % 4 = 0)
    (hr : off.toNat < 0x200000 ∨ 0x400000 ≤ off.toNat) (hl : off.toNat ∉ rwPairs) (hh : off.toNat - 4 ∉ rwPairs)
    (h : P (wBlock p off.toNat v.toNat s)) : Completes (.registerWrite p off v) s P := by
  refine ⟨_, exec_registerWrite p off v s, ?_⟩
  rw [busWrite_owner ho ha (by omega), devWrite_block hl hh]
  exact h

/-- A misaligned access counts at the port, and does nothing else. -/
theorem completes_misaligned {p : HPort} {off : BitVec 26} {s : State} (v : Word) (hp : (s.host p).perst = false) (ha : off.toNat % 4 ≠ 0) :
    Completes (.registerWrite p off v) s (fun t => t = { s with tly.ctr := t.tly.ctr } ∧
      ∀ e, tget 0 t.tly.ctr e = if e = evNo 2 2 (portIdx p) then tget 0 s.tly.ctr e + 1 else tget 0 s.tly.ctr e) :=
  ⟨_, by rw [exec_registerWrite, busWrite_misaligned hp ha], count_ctr _ s⟩

/-- A read of a register that is no half of a pair answers its value, and does nothing else. -/
theorem completes_wordRead {p : HPort} {off : BitVec 26} {n : Nat} {s : State} (hp : (s.host p).perst = false) (ha : off.toNat % 4 = 0)
    (hv : pairVal s p off.toNat = none) (hw : pairVal s p (off.toNat - 4) = none) (hn : regVal s p off.toNat = n) :
    Completes (.lowWordRead p (.word off)) s (fun t => t = { s with out := .hostRead p (some (toLE 4 n)) :: s.out }) := by
  refine ⟨_, exec_wordRead hp ha, ?_⟩
  rw [latchPair_none hv, readPort_single hv hw, hn]
  rfl

/-- A write of the port's own window register (R388). -/
theorem busWrite_win {p : HPort} {v : Word} {s : State} (hp : (s.host p).perst = false) (hb : s.booted = true) :
    busWrite p 0x200010 v.toNat s = s.modHost p (fun h => { h with win := BitVec.setWidth 8 v }) := by
  have hw : bv 8 v.toNat 0 = BitVec.setWidth 8 v := by simp [bv, BitVec.ofNat_toNat]
  have hf : ownWrite p (0x200010 - 0x200000) v.toNat = some (fun s => s.modHost p (fun h => { h with win := bv 8 v.toNat 0 })) := rfl
  rw [busWrite_own hp rfl ⟨by decide, by decide⟩ hf, portWrite_up hp hb, hw]

end Sys2Proof.Machine

section
open Sys2Proof Sys2Proof.Machine

/-- Settles O52, clause by clause: each access takes one of the ways above, and ends where that way ends. -/
theorem registerAccessComplete : Obligations.RegisterAccessComplete := by
  refine ⟨fun p off v rd s hp => ?_, fun p off v s hp ha => ?_, fun p off s hp hv => ?_, fun p off v s hp hb ho ha => ?_,
    fun p off v s hs ha hr => ?_, fun p v s ho => ?_, fun p v s hp hb => ?_, fun p s hp hb => ?_⟩
  · exact ⟨⟨_, exec_registerWrite p off v s, busWrite_perst hp⟩, ⟨_, exec_lowWordRead_perst hp, rfl⟩⟩
  · exact ⟨completes_misaligned v hp ha, ⟨_, exec_wordRead_misaligned hp ha, count_ctr _ (emit _ s)⟩⟩
  · exact ⟨_, exec_pairRead_none hp hv, count_ctr _ (emit _ s)⟩
  · exact ⟨_, exec_registerWrite p off v s, busWrite_early hp hb ho ha⟩
  · refine ⟨_, exec_registerWrite p off v s, ?_⟩
    rw [busWrite_stranger hs ha (by omega)]
    refine ⟨denyWrite_host_self p s, fun q hq => denyWrite_host_of_ne s hq, fun b h1 h2 => denyWrite_kept.same b ?_⟩
    simp [h1, h2]
  · refine ⟨?_, ?_, ?_, ?_, ?_, ?_, ?_, ?_⟩ <;> refine completes_ownerWrite ho (by decide) (by decide) (by decide) (by decide) ?_
    · exact wBlock_fwdData0
    · exact wBlock_fwdMgmtEid
    · exact wBlock_milArg1
    · exact wBlock_resEpoch
    · exact wBlock_lndCorr
    · rw [show (0x1400080#26).toNat = 0x1400080 from rfl, wBlock_tmbEvent]
      exact ⟨rfl, getLsbD_w1c _ v⟩
    · rw [show (0x1800064#26).toNat = 0x1800064 from rfl, wBlock_lndEvent]
      exact ⟨rfl, getLsbD_w1c _ v⟩
    · rw [show (0x1C00080#26).toNat = 0x1C00080 from rfl, wBlock_milEvent]
      exact ⟨rfl, getLsbD_w1c _ v⟩
  · refine ⟨_, exec_registerWrite p _ v s, ?_⟩
    rw [show (0x200010#26).toNat = 0x200010 from rfl, busWrite_win hp hb]
    refine ⟨by rw [modHost_host_self], fun q hq => setHost_host_of_ne s _ hq, fun b h1 => State.modHost_kept.same b ?_⟩
    simp [h1]
  · have arg1 : regVal s p 0x1C00028 = s.mil.arg1.toNat := by simp [regVal, hb, milReg]
    have data0 : regVal s p 0xC00008 = s.fwd.data0.toNat := by simp [regVal, hb, fwdReg]
    refine ⟨completes_wordRead hp (by decide) ?_ ?_ data0, completes_wordRead hp (by decide) ?_ ?_ arg1⟩ <;> simp [pairVal, hb, fwdPair, milPair]

end

/-! SUPPORT. 64-bit pairs (R6, R7): the latches of a port, what a pair reads after a write, and how a high word joins the low word held. -/
namespace Sys2Proof.Machine
open Sys2Proof

/-! ### A pair's value, and what it does not depend on -/

@[simp] theorem modHost_booted (s : State) (p : HPort) (f : HostPort → HostPort) : (s.modHost p f).booted = s.booted := by
  cases p <;> rfl
theorem modHost_host_of_ne {p q : HPort} (s : State) (f : HostPort → HostPort) (h : q ≠ p) : (s.modHost p f).host q = s.host q :=
  setHost_host_of_ne s _ h

/-- A change of a port that leaves its DMA channels alone. -/
theorem modHost_dmaOf {p : HPort} {f : HostPort → HostPort} (hf : ∀ h, (f h).dma = h.dma) (s : State) (q : HPort) (c : Nat) :
    (s.modHost p f).dmaOf q c = s.dmaOf q c := by
  by_cases h : q = p
  · subst h; simp only [State.dmaOf, modHost_host_self, hf]
  · simp only [State.dmaOf, modHost_host_of_ne s f h]

section
variable (s : State) (p : HPort) (f : HostPort → HostPort) (o : Nat)

@[simp] theorem modHost_pltPair : pltPair (s.modHost p f) o = pltPair s o := by cases p <;> rfl
@[simp] theorem modHost_lnkPair : lnkPair (s.modHost p f) o = lnkPair s o := by cases p <;> rfl
@[simp] theorem modHost_fwdPair : fwdPair (s.modHost p f) o = fwdPair s o := by cases p <;> rfl
@[simp] theorem modHost_swcPair : swcPair (s.modHost p f) o = swcPair s o := by cases p <;> rfl
@[simp] theorem modHost_tmbPair : tmbPair (s.modHost p f) o = tmbPair s o := by cases p <;> rfl
@[simp] theorem modHost_lndPair : lndPair (s.modHost p f) o = lndPair s o := by cases p <;> rfl
@[simp] theorem modHost_milPair : milPair (s.modHost p f) o = milPair s o := by cases p <;> rfl
@[simp] theorem modHost_memPair : memPair (s.modHost p f) o = memPair s o := by cases p <;> rfl
@[simp] theorem modHost_optPair : optPair (s.modHost p f) o = optPair s o := by cases p <;> rfl
@[simp] theorem modHost_resPair : resPair (s.modHost p f) o = resPair s o := by cases p <;> rfl
@[simp] theorem modHost_secPair : secPair (s.modHost p f) o = secPair s o := by cases p <;> rfl
@[simp] theorem modHost_tlyPair : tlyPair (s.modHost p f) o = tlyPair s o := by cases p <;> rfl

end

/-- Of a port's own state a pair reads its DMA rings only. -/
theorem pairVal_modHost {p : HPort} {f : HostPort → HostPort} (hf : ∀ h, (f h).dma = h.dma) (s : State) (q : HPort) (off : Nat) :
    pairVal (s.modHost p f) q off = pairVal s q off := by
  have buf : (s.modHost p f).hst.mbBuf = s.hst.mbBuf := by cases p <;> rfl
  have host : ∀ o, hstPair (s.modHost p f) q o = hstPair s q o := fun o => by simp only [hstPair, modHost_dmaOf hf, buf]
  simp [pairVal, host]

theorem pairVal_holdLow (p : HPort) (lo v : Nat) (s : State) (q : HPort) (off : Nat) : pairVal (holdLow p lo v s) q off = pairVal s q off := by
  refine pairVal_modHost ?_ s q off; intro; rfl

/-! ### The read latch (R6) -/

section
variable {p : HPort} {off x : Nat} {s : State}

/-- The low word of a pair reads its low half. -/
theorem readPort_low (hv : pairVal s p off = some x) : readPort s p off = x % 2 ^ 32 := by
  simp [readPort, hv, fld]

/-- The high word of a pair reads what the port's read of the low word latched. -/
theorem readPort_high (h4 : 4 ≤ off) (hn : pairVal s p off = none) (hv : pairVal s p (off - 4) = some x) :
    readPort s p off = (tget 0 (s.host p).rdLatch (off - 4)).toNat := by
  simp [readPort, hn, hv, h4]

/-- A read of the low word latches the high word. -/
theorem latchPair_rdLatch_self (ha : off % 4 = 0) (hv : pairVal s p off = some x) :
    tget 0 ((latchPair p off s).host p).rdLatch off = BitVec.ofNat 32 (x / 2 ^ 32) := by
  have hw : BitVec.ofNat 32 (fld x 32 32) = BitVec.ofNat 32 (x / 2 ^ 32) := BitVec.eq_of_toNat_eq (by simp [fld])
  simp only [latchPair, hv, modHost_host_self, hw]
  split
  · rw [tget_tset_of_ne _ _ _ (by omega), tget_tset_self]
  · exact tget_tset_self ..

/-- It fills no other register's latch. -/
theorem latchPair_rdLatch_of_ne {k : Nat} (hk : k % 4 = 0) (hne : k ≠ off) :
    tget 0 ((latchPair p off s).host p).rdLatch k = tget 0 (s.host p).rdLatch k := by
  unfold latchPair
  split
  · rfl
  · simp only [modHost_host_self]
    split
    · rw [tget_tset_of_ne _ _ _ (by omega), tget_tset_of_ne _ _ _ hne]
    · exact tget_tset_of_ne _ _ _ hne

/-- It fills no other port's latch. -/
theorem latchPair_host_of_ne {q : HPort} (hq : q ≠ p) : (latchPair p off s).host q = s.host q := by
  unfold latchPair
  split
  · rfl
  · exact modHost_host_of_ne s _ hq

@[simp] theorem latchPair_out : (latchPair p off s).out = s.out := latchPair_kept.same .out (by decide)

end

/-- A read that answers and fills the port's latches changes the port and what is sent, and no other block. -/
theorem emit_latchPair_same (e : Emission) (p : HPort) (off : Nat) (s : State) (b : Blk) (h1 : b ≠ .hst) (h2 : b ≠ .out) :
    SameBlk b s (emit e (latchPair p off s)) :=
  (latchPair_kept.same b (by simpa using h1)).trans (emit_kept.same b (by simpa using h2))

/-! ### The write latch (R7) -/

/-- The low word that a high word joins: the one held for the port, or else the pair's present one. -/
def lowWord (p : HPort) (lo cur : Nat) (s : State) : Word := (tget none (s.host p).wrLatch lo).getD (BitVec.ofNat 32 cur)

theorem joined_eq_append (p : HPort) (lo cur : Nat) (v : Word) (s : State) : joined p lo v.toNat cur s = (v ++ lowWord p lo cur s).toNat := by
  have hv : v.toNat % 2 ^ 32 = v.toNat := Nat.mod_eq_of_lt v.isLt
  rw [BitVec.toNat_append, ← Nat.shiftLeft_add_eq_or_of_lt (lowWord p lo cur s).isLt, Nat.shiftLeft_eq, joined, lowWord, hv, Nat.add_comm]
  cases tget none (s.host p).wrLatch lo <;> simp

theorem lowWord_held {p : HPort} {lo cur : Nat} {w : Word} {s : State} (h : tget none (s.host p).wrLatch lo = some w) : lowWord p lo cur s = w := by
  simp [lowWord, h]

@[simp] theorem aligned_zero_word (d : DWord) : aligned 0 d.toNat = d := by simp [aligned]

/-- An address with its low bits 0, made of two words (log entry 19). -/
theorem toNat_aligned_append {k : Nat} (hk : k ≤ 32) (v low : Word) :
    (aligned k (v ++ low).toNat).toNat = v.toNat * 2 ^ 32 + low.toNat / 2 ^ k * 2 ^ k := by
  have hpow : 2 ^ 32 = 2 ^ k * 2 ^ (32 - k) := by rw [← Nat.pow_add]; congr 1; omega
  have hdiv : (low.toNat + v.toNat * 2 ^ 32) / 2 ^ k * 2 ^ k = v.toNat * 2 ^ 32 + low.toNat / 2 ^ k * 2 ^ k := by
    rw [hpow, Nat.mul_left_comm, Nat.add_mul_div_left _ _ (Nat.two_pow_pos k)]
    ring
  have hle : low.toNat / 2 ^ k * 2 ^ k ≤ low.toNat := Nat.div_mul_le_self _ _
  have h1 := low.isLt
  have h2 := v.isLt
  rw [BitVec.toNat_append, ← Nat.shiftLeft_add_eq_or_of_lt h1, Nat.shiftLeft_eq, Nat.add_comm, aligned, BitVec.toNat_ofNat, hdiv]
  exact Nat.mod_eq_of_lt (by omega)

/-- A ring's address: the low six bits are 0. -/
theorem aligned_six (d : DWord) : aligned 6 d.toNat = d &&& ~~~0x3F#64 := by
  refine BitVec.eq_of_getLsbD_eq fun i hi => ?_
  have hm : Nat.testBit 0x3F i = decide (i < 6) := Nat.testBit_two_pow_sub_one 6 i
  rw [aligned, ← Nat.shiftRight_eq_div_pow, ← Nat.shiftLeft_eq]
  simp only [BitVec.getLsbD_ofNat, BitVec.getLsbD_and, BitVec.getLsbD_not, Nat.testBit_shiftLeft, Nat.testBit_shiftRight, hi, hm, decide_true,
    Bool.true_and]
  by_cases h6 : i < 6
  · simp [h6, Nat.not_le.mpr h6]
  · simp [h6, Nat.not_lt.mp h6, Nat.add_sub_cancel' (Nat.not_lt.mp h6), BitVec.getLsbD]

section
variable {p : HPort} {lo v : Nat} {s : State}

theorem holdLow_wrLatch (j : Nat) : tget none ((holdLow p lo v s).host p).wrLatch j =
    if j = lo then some (BitVec.ofNat 32 v) else tget none (s.host p).wrLatch j := by
  simp only [holdLow, modHost_host_self, tget_tset]
theorem holdLow_host_of_ne {q : HPort} (h : q ≠ p) : (holdLow p lo v s).host q = s.host q := modHost_host_of_ne s _ h
theorem emptyLatch_wrLatch (j : Nat) : tget none ((emptyLatch p lo s).host p).wrLatch j =
    if j = lo then none else tget none (s.host p).wrLatch j := by
  simp only [emptyLatch, modHost_host_self, tget_tset]
theorem emptyLatch_host_of_ne {q : HPort} (h : q ≠ p) : (emptyLatch p lo s).host q = s.host q := modHost_host_of_ne s _ h

end

/-! ### The RW pairs of the blocks -/

/-- The pairs that take any value at any time, each with the number of its low bits that are 0. -/
def openPairs : List (Nat × Nat) :=
  [(0x10000C, 12), (0x202014, 12), (0xC00028, 5), (0xC00060, 12), (0xC00080, 12), (0x1080010, 12), (0x1080018, 12), (0x1400030, 12),
    (0x1400040, 0), (0x1400060, 12), (0x1400078, 12), (0x1800004, 6), (0x1800050, 12), (0x1C00004, 6), (0x1C00070, 12), (0x1C00078, 0),
    (0x2000020, 12), (0x2420010, 0), (0x2800008, 0), (0x2800508, 0), (0x2800510, 0), (0x2C0000C, 6), (0x3000024, 0), (0x3000030, 12),
    (0x3000054, 12)]

theorem openPairs_rwPairs {e : Nat × Nat} (h : e ∈ openPairs) : e.1 ∈ rwPairs ∧ e.2 ≤ 32 :=
  (by decide : ∀ e ∈ openPairs, e.1 ∈ rwPairs ∧ e.2 ≤ 32) e h

/-- Low words of RW pairs are aligned, and no high word is a low word. -/
theorem rwPairs_layout {lo : Nat} (h : lo ∈ rwPairs) : lo % 4 = 0 ∧ lo + 4 ∉ rwPairs :=
  (by decide : ∀ lo ∈ rwPairs, lo % 4 = 0 ∧ lo + 4 ∉ rwPairs) lo h

/-- No half of an RW pair is a register of the port's own. -/
theorem ownWrite_rwPair {p : HPort} {lo v off : Nat} (h : lo ∈ rwPairs) (ho : off = lo ∨ off = lo + 4) (h1 : 0x200000 ≤ off) (h2 : off < 0x400000) :
    ownWrite p (off - 0x200000) v = none := by
  have only : ∀ lo ∈ rwPairs, 0x1FFFFC ≤ lo → lo < 0x400000 → lo = 0x202014 := by decide
  obtain rfl := only lo h (by omega) (by omega)
  rcases ho with rfl | rfl <;> simp [ownWrite]

theorem putPair_host (lo v : Nat) (s : State) (q : HPort) : (putPair lo v s).host q = s.host q := by
  unfold putPair
  repeat' split
  all_goals rfl

theorem putPair_booted (lo v : Nat) (s : State) : (putPair lo v s).booted = s.booted :=
  congrArg (fun g : Glb => decide (2 ≤ g.state.code)) (putPair_kept.same .glb (by decide))

/-- A pair of a block reads what it took, with its low bits 0. -/
theorem pairVal_putPair {v : Nat} {s : State} (q : HPort) (hb : s.booted = true) :
    ∀ e ∈ openPairs, pairVal (putPair e.1 v s) q e.1 = some (aligned e.2 v).toNat := by
  intro e he
  simp only [openPairs, List.mem_cons, List.not_mem_nil, or_false] at he
  rw [pairVal, putPair_booted, hb]
  rcases he with rfl | rfl | rfl | rfl | rfl | rfl | rfl | rfl | rfl | rfl | rfl | rfl | rfl | rfl | rfl | rfl | rfl | rfl | rfl | rfl | rfl | rfl | rfl | rfl | rfl <;>
    simp [putPair, pltPair, hstPair, fwdPair, swcPair, tmbPair, lndPair, milPair, memPair, optPair, resPair, secPair, tlyPair]

/-- The owner's write of a low word holds it, and does nothing else. -/
theorem busWrite_low {p : HPort} {lo v : Nat} {s : State} (ho : Owner p s) (h : lo ∈ rwPairs) : busWrite p lo v s = holdLow p lo v s := by
  rw [busWrite_owner ho (rwPairs_layout h).1 (ownWrite_rwPair h (.inl rfl)), devWrite_low h]

/-- The owner's write of a high word puts the pair, made of it and the low word held or present, and empties the latch. -/
theorem busWrite_high {p : HPort} {lo x : Nat} {v : Word} {s : State} (ho : Owner p s) (h : lo ∈ rwPairs) (hx : (pairVal s p lo).getD 0 = x) :
    busWrite p (lo + 4) v.toNat s = putPair lo (v ++ lowWord p lo x s).toNat (emptyLatch p lo s) := by
  obtain ⟨ha, hl⟩ := rwPairs_layout h
  rw [busWrite_owner ho (by omega) (ownWrite_rwPair h (.inr rfl)), devWrite_high hl h, writeHigh, joined_eq_append, hx]

/-! ### The ring pair of a DMA channel, a pair of the port's own -/

section
variable {p : HPort} {c o : Nat} {s : State}

/-- A register of a DMA channel is the port's own. -/
theorem ownWrite_dma {v : Nat} (hc : c < 16) (ho : o < 64) :
    ownWrite p (0x1000 + 64 * c + o) v = some (wDma p c (0x201000 + 64 * c + o) o v) := by
  have hch : (0x1000 + 64 * c + o) % 0x1000 / 64 = c := by omega
  have hof : (0x1000 + 64 * c + o) % 64 = o := by omega
  have hab : 0x200000 + (0x1000 + 64 * c + o) = 0x201000 + 64 * c + o := by omega
  rw [ownWrite, if_neg (by omega), if_neg (by omega), if_neg (by omega), if_pos (by omega), hch, hof, hab]

theorem busWrite_dma {v : Nat} (hp : (s.host p).perst = false) (hb : s.booted = true) (hc : c < 16) (ho : o < 64) (ha : o % 4 = 0) :
    busWrite p (0x201000 + 64 * c + o) v s = wDma p c (0x201000 + 64 * c + o) o v s := by
  have hs : 0x201000 + 64 * c + o - 0x200000 = 0x1000 + 64 * c + o := by omega
  rw [busWrite_own hp (by omega) (by omega) (by rw [hs]; exact ownWrite_dma hc ho), portWrite_up hp hb]

/-- The ring's low word is held. -/
theorem busWrite_ringLow {v : Nat} (hp : (s.host p).perst = false) (hb : s.booted = true) (hc : c < 16) :
    busWrite p (0x201000 + 64 * c) v s = holdLow p (0x201000 + 64 * c) v s :=
  busWrite_dma (o := 0) hp hb hc (by decide) rfl

/-- The ring's high word takes effect with its low word, on the channel alone. -/
theorem wDma_ringHigh {off : Nat} {w v : Word} (hw : tget none (s.host p).wrLatch off = some w) :
    (tget DmaCh.reset ((wDma p c (off + 4) 4 v.toNat s).host p).dma c).ring = (v ++ w) &&& ~~~0x3F#64 ∧
    tget none ((wDma p c (off + 4) 4 v.toNat s).host p).wrLatch off = none := by
  have latch := emptyLatch_wrLatch (p := p) (lo := off) (s := s) off
  rw [if_pos rfl] at latch
  constructor
  · simp only [wDma, modDma, modHost_host_self, tget_tmod_self, Nat.add_sub_cancel, joined_eq_append, lowWord_held hw, aligned_six]
  · simpa only [wDma, modDma, modHost_host_self, Nat.add_sub_cancel] using latch

end

end Sys2Proof.Machine

section
open Sys2Proof Sys2Proof.Machine

/-- Settles O60: R6 by the read latch, R7 by the write latch and by what each pair reads after it took a value. -/
theorem registerPairsMoveTogether : Obligations.RegisterPairsMoveTogether := by
  refine ⟨fun p off x s hp ha hv => ?_, fun p off x s hp ha h4 hn hv => ?_, fun p off x s hp hv => ?_, fun p k => ?_, fun p off v s ho hl => ?_,
    fun p off lo k x v low s ho hoff hv hlow hk => ?_, fun p c v w s hp hb hc => ?_, fun p v w s ho => ⟨fun hw => ?_, fun hw => ?_⟩⟩
  · refine ⟨_, exec_wordRead hp ha, ?_, latchPair_rdLatch_self ha hv, fun k hk hne => latchPair_rdLatch_of_ne hk hne,
      fun q hq => latchPair_host_of_ne hq, emit_latchPair_same _ p _ s⟩
    rw [readPort_low hv, emit, latchPair_out]
  · refine ⟨_, exec_wordRead hp ha, ?_⟩
    rw [readPort_high h4 hn hv, latchPair_none hn]
    rfl
  · refine ⟨_, exec_pairRead hp hv, ?_, emit_latchPair_same _ p _ s⟩
    rw [emit, latchPair_out]
  · cases p <;> rfl
  · refine ⟨_, exec_registerWrite p off v s, ?_⟩
    rw [busWrite_low ho hl]
    refine ⟨fun q => pairVal_holdLow p _ _ s q _, fun k => ?_, fun q hq => holdLow_host_of_ne hq, fun b h1 => holdLow_kept.same b (by simpa using h1)⟩
    rw [holdLow_wrLatch, BitVec.ofNat_toNat, BitVec.setWidth_eq]
  · have mem : (lo, k) ∈ openPairs := hk
    obtain ⟨hrw, hk32⟩ := openPairs_rwPairs mem
    have hb : (emptyLatch p lo s).booted = true := (modHost_booted s p _).trans ho.2.1
    refine ⟨_, exec_registerWrite p off v s, ?_⟩
    rw [hoff, busWrite_high (x := x) ho hrw (by rw [hv]; rfl), show lowWord p lo x s = low from hlow.symm]
    refine ⟨fun q => ?_, fun j => ?_, fun q hq => ?_⟩
    · rw [pairVal_putPair q hb _ mem, toNat_aligned_append hk32]
    · rw [putPair_host, emptyLatch_wrLatch]
    · rw [putPair_host, emptyLatch_host_of_ne hq]
  · have n0 : (BitVec.ofNat 26 (0x201000 + 64 * c)).toNat = 0x201000 + 64 * c := by rw [BitVec.toNat_ofNat]; omega
    have n4 : (BitVec.ofNat 26 (0x201004 + 64 * c)).toNat = 0x201000 + 64 * c + 4 := by rw [BitVec.toNat_ofNat]; omega
    refine ⟨_, exec_registerWrite p _ w s, ?_⟩
    rw [n0, busWrite_ringLow hp hb hc]
    have held : tget none ((holdLow p (0x201000 + 64 * c) w.toNat s).host p).wrLatch (0x201000 + 64 * c) = some w := by
      rw [holdLow_wrLatch, if_pos rfl, BitVec.ofNat_toNat, BitVec.setWidth_eq]
    have perst : ((holdLow p (0x201000 + 64 * c) w.toNat s).host p).perst = false := by
      rw [holdLow, modHost_host_self]; exact hp
    have booted : (holdLow p (0x201000 + 64 * c) w.toNat s).booted = true := (modHost_booted s p _).trans hb
    refine ⟨held, by rw [holdLow, modHost_host_self], _, exec_registerWrite p _ v _, ?_⟩
    rw [n4, busWrite_dma (o := 4) perst booted hc (by decide) rfl]
    exact wDma_ringHigh held
  · refine ⟨_, exec_registerWrite p _ v s, ?_⟩
    rw [show (0x1400044#26).toNat = 0x1400040 + 4 from rfl, busWrite_high ho (by decide) rfl, lowWord_held hw]
    simp [putPair, emptyLatch]
  · refine ⟨_, exec_registerWrite p _ v s, ?_⟩
    rw [show (0x280000C#26).toNat = 0x2800008 + 4 from rfl, busWrite_high ho (by decide) rfl, lowWord_held hw]
    simp [putPair, emptyLatch]

end

/-! SUPPORT. The device states and the token rates (R19 to R25): what each of their commands does under its rule's conditions. -/
namespace Sys2Proof.Machine
open Sys2Proof

section
variable {p : HPort} {s : State}

/-- GLB is written before firmware runs too: the owner's write to it is carried out in every device state (R21). -/
theorem hostWrite_glb_owner {f : State → State} (hp : (s.host p).perst = false) (ho : s.hst.owner = some p) : hostWrite p true f s = f s := by
  simp [hostWrite, hp, ho]

/-- A lease that has not run out goes on. -/
theorem checkLease_running (h : s.leaseOver = false) : checkLease s = s := by simp [checkLease, h]

theorem exec_quiesce (hp : (s.host p).perst = false) (ho : s.hst.owner = some p) (hs : s.glb.state = .inService) (hd : s.glb.draining = false) :
    exec (.quiesce p) s = .next (forEach (List.range 16) flushReorder { s with glb.draining := true }) := by
  simp [exec, execQuiesce, hostWrite_glb_owner hp ho, hs, hd]

theorem exec_quiesceDrainDone (hs : s.glb.state = .inService) (hd : s.glb.draining = true) (hq : s.jobQueuesEmpty = true) :
    exec .quiesceDrainDone s = .next (flyEndAll (fun _ => true) 6 (setDev .quiesced (holdTimers { s with glb.draining := false }))) := by
  simp [exec, execQuiesceDrainDone, hs, hd, hq]

theorem exec_resume (hp : (s.host p).perst = false) (ho : s.hst.owner = some p) (hs : s.glb.state = .quiesced) (hl : s.leaseOver = false) :
    exec (.resume p) s = .next (setDev .inService (holdTimers s)) := by
  simp [exec, execResume, hostWrite_glb_owner hp ho, checkLease_running hl, hs]

theorem exec_clrmin (hp : (s.host p).perst = false) (ho : s.hst.owner = some p) :
    exec (.clrmin p) s = .next { s with glb.tokMin := 0xFFFF, glb.dtokMin := [] } := by
  simp [exec, execClrmin, hostWrite_glb_owner hp ho]

theorem exec_trainingComplete (hs : s.glb.state = .training) (ht : s.ports.all s.portTrained = true)
    (hb : s.inBlock = false ∨ s.tmb.blk = .joined ∨ s.tmb.blk = .broken) : exec .trainingComplete s = .next (setDev .ready s) := by
  have formed : (!s.inBlock || s.tmb.blk == .joined || s.tmb.blk == .broken) = true := by rcases hb with h | h | h <;> simp [h]
  simp [exec, execTrainingComplete, hs, ht, formed]

theorem exec_tokrateUpdate (dt : Nat) (rates : List Half) : exec (.tokrateUpdate dt rates) s = .next (takeRates rates (elapse dt s)) := rfl

end

theorem holdTimers_glb (s : State) : (holdTimers s).glb = s.glb := rfl
theorem holdTimers_res (s : State) : (holdTimers s).res = s.res := rfl
theorem setDev_lnd (d : DevState) (s : State) : (setDev d s).lnd = s.lnd := setDev_kept.e_lnd

/-! ### The measured token rates (R19, R20) -/

section
variable (rates : List Half) (s : State)

theorem takeRates_clk : (takeRates rates s).clk = s.clk := takeRates_kept.e_clk

/-- The device's rate is the least of the districts' rates. -/
theorem takeRates_tokNow : (∀ d, d < 16 → (takeRates rates s).glb.tokNow.toNat ≤ (rates.getD d 0).toNat) ∧
    ∃ d, d < 16 ∧ (takeRates rates s).glb.tokNow = rates.getD d 0 := by
  obtain ⟨-, least, attained⟩ := fold_min (fun n => rates.getD n 0) (List.range 16) (rates.getD 0 0)
  refine ⟨fun d hd => least d (List.mem_range.2 hd), ?_⟩
  rcases attained with e | ⟨d, hd, e⟩
  · exact ⟨0, by decide, e⟩
  · exact ⟨d, List.mem_range.1 hd, e⟩

/-- The device's minimum keeps the lower of itself and the new rate. -/
theorem takeRates_tokMin : (takeRates rates s).glb.tokMin.toNat = min s.glb.tokMin.toNat (takeRates rates s).glb.tokNow.toNat := by
  simp only [takeRates]
  split <;> omega

/-- A district's rate is the one measured. -/
theorem takeRates_dtokNow {d : Nat} (hd : d < 16) : tget 0 (takeRates rates s).glb.dtokNow d = rates.getD d 0 :=
  (fold_tset 0 (fun n => rates.getD n 0) _ _ List.nodup_range d).trans (if_pos (List.mem_range.2 hd))

/-- A district's minimum keeps the lower of itself and the new rate. -/
theorem takeRates_dtokMin {d : Nat} (hd : d < 16) : (tget 0xFFFF (takeRates rates s).glb.dtokMin d).toNat =
    min (tget 0xFFFF s.glb.dtokMin d).toNat (rates.getD d 0).toNat := by
  have lower := fold_tset_self 0xFFFF (fun n x => if (rates.getD n 0).toNat < x.toNat then rates.getD n 0 else x)
    (List.range 16) s.glb.dtokMin List.nodup_range d
  rw [if_pos (List.mem_range.2 hd)] at lower
  simp only [takeRates]
  rw [lower]
  split <;> omega

end

end Sys2Proof.Machine

section
open Sys2Proof Sys2Proof.Machine

/-- Settles O1: under its conditions each command runs its meaning, what that does beyond GLB keeps GLB, and the rates are folds of a minimum. -/
theorem deviceStatesComplete : Obligations.DeviceStatesComplete := by
  refine ⟨fun p s hp ho hs hd => ?_, fun s hs hd hq => ?_, fun p s hp ho hs hl => ?_, fun p s hp ho => ?_, fun s hs ht hb => ?_, fun dt rates s => ?_⟩
  · exact ⟨_, exec_quiesce hp ho hs hd, (forEach_kept fun _ _ => flushReorder_kept).e_glb⟩
  · refine ⟨_, exec_quiesceDrainDone hs hd hq, ?_⟩
    rw [flyEndAll_kept.e_glb, setDev_state, holdTimers_glb]
  · refine ⟨_, exec_resume hp ho hs hl, ?_, ?_, ?_⟩
    · rw [setDev_state, holdTimers_glb]
    · rw [setDev_res, holdTimers_res]
    · rw [setDev_lnd]
  · exact ⟨_, exec_clrmin hp ho, rfl, fun _ => rfl, rfl, rfl⟩
  · exact ⟨_, exec_trainingComplete hs ht hb, setDev_state _ _⟩
  · have glb : (elapse dt s).glb = s.glb := elapse_kept.e_glb
    obtain ⟨least, attained⟩ := takeRates_tokNow rates (elapse dt s)
    refine ⟨_, exec_tokrateUpdate dt rates, fun d hd => ⟨takeRates_dtokNow rates _ hd, ?_⟩, least, attained, ?_, ?_⟩
    · rw [takeRates_dtokMin rates _ hd, glb]
    · rw [takeRates_tokMin, glb]
    · rw [takeRates_clk, elapse_clk]

end

section
open Sys2Proof Sys2Proof.Machine

/-- Settles O55: each value is the one that the reset state lists; nothing is written in its memory and its tables, so every read gives the default. -/
theorem resetIsAsTheRulesSay : Obligations.ResetIsAsTheRulesSay := by
  have keys : KeysGone State.reset := fun erased => absurd erased (by decide)
  refine ⟨⟨rfl, keys⟩, rfl, rfl, fun _ => rfl, fun p => ?_, rfl, rfl, rfl, rfl, rfl, rfl, rfl, rfl, rfl, fun b _ => ?_,
    fun _ _ => rdMem_zeros fun _ _ => rfl, rfl, rfl, rfl, rfl⟩
  · cases p <;> exact ⟨rfl, rfl, fun _ => rfl⟩
  · cases b <;> rfl

end

/-! SUPPORT. Sensors, the trip and the power governor (R35, R366, R367, R439, R443, R444): what a sample measures, and when it trips. -/
namespace Sys2Proof.Machine
open Sys2Proof

/-- A bit that was set reads 1. -/
theorem getLsbD_setBit_self {w i : Nat} (v : BitVec w) (hi : i < w) : (setBit v i true).getLsbD i = true := by
  simp only [setBit, if_true, BitVec.getLsbD_or, BitVec.getLsbD_ofNat, Nat.testBit_two_pow_self, hi, decide_true, Bool.and_true, Bool.or_true]

section
variable (tj : List Half) (inlet outlet vin iin pin : Half) (vcore : List Half) (s : State)

/-- What reading the sensors does to their table. -/
def sampledSens (t : Tab Sens) : Tab Sens :=
  (List.range 64).foldl (fun t n => tset Sens.reset t n { tget Sens.reset t n with tj := tj.getD n 0 + (tget Sens.reset t n).trimBy }) t

/-- Reading the sensors changes their table alone. -/
theorem readSensors_eq : readSensors tj s = { s with pwr.sens := sampledSens tj s.pwr.sens } :=
  List.foldl_hom (fun t => ({ s with pwr.sens := t } : State)) fun _ _ => rfl

/-- Each of the 64 sensors reads its measurement with its trim. -/
theorem tj_sampledSens (t : Tab Sens) {n : Nat} (hn : n < 64) :
    (tget Sens.reset (sampledSens tj t) n).tj = tj.getD n 0 + (tget Sens.reset t n).trimBy := by
  have entry : tget Sens.reset (sampledSens tj t) n = { tget Sens.reset t n with tj := tj.getD n 0 + (tget Sens.reset t n).trimBy } :=
    (fold_tset_self Sens.reset (fun n x => { x with tj := tj.getD n 0 + x.trimBy }) _ _ List.nodup_range n).trans (if_pos (List.mem_range.2 hn))
  rw [entry]

/-- The coolant's temperatures are recorded; beside them only how long a limit has been passed and PWR_EVENT change. -/
theorem coolant_pwr : ∃ i d e, (coolant inlet outlet s).pwr =
    { s.pwr with inlet := inlet, outlet := outlet, inletSince := i, deltaSince := d, event := e } := by
  unfold coolant
  dsimp only
  split <;> split <;> exact ⟨_, _, _, rfl⟩

/-- The low-voltage condition changes VINLOW and PWR_EVENT alone. -/
theorem vinLow_pwr : ∃ l e, (vinLow s).pwr = { s.pwr with vinlow := l, event := e } := by
  unfold vinLow
  split <;> exact ⟨_, _, rfl⟩

/-- Voltage, current and power are recorded, and the highest power is kept; beside them only VINLOW, PWR_EVENT and the core voltages change. -/
theorem electrical_pwr : ∃ l e c, (electrical vin iin pin vcore s).pwr =
    { s.pwr with vin := vin, iin := iin, pinNow := pin, pinMax := if s.pwr.pinMax.toNat < pin.toNat then pin else s.pwr.pinMax,
                 vinlow := l, event := e, vcore := c } := by
  unfold electrical
  dsimp only
  split
  · obtain ⟨l, e, h⟩ := vinLow_pwr _
    rw [h]
    exact ⟨_, _, _, rfl⟩
  · split <;> exact ⟨_, _, _, rfl⟩

end

/-- The hottest sensor is shown (R443). -/
def noteHottest (s : State) : State :=
  let h := hottest s (List.range 64) 0
  { s with pwr.tjSensor := BitVec.ofNat 6 h, pwr.tjMax := (tget Sens.reset s.pwr.sens h).tj }

theorem noteHottest_kept {s : State} : Kept [.pwr] s (noteHottest s) := (Kept.refl s).put_pwr (by decide)

/-- The districts' governors take their readings while the rails are up. -/
def governAll (s : State) : State := if s.pwr.pgood then forEach (List.range 16) govern s else s

theorem governAll_kept {s : State} : Kept [.res] s (governAll s) := Kept.ite (forEach_kept fun _ _ => govern_kept) (Kept.refl s)

section
variable (dt : Nat) (tj : List Half) (inlet outlet vin iin pin : Half) (vcore : List Half) (s : State)

/-- The state of a sample before the trip is looked at. -/
def measured : State :=
  governAll (noteHottest (electrical vin iin pin vcore (coolant inlet outlet (readSensors tj (elapse dt s)))))

/-- With the standby rail on, a sample measures and then looks at the trip. -/
theorem exec_sensorSample (hv : 30000 ≤ vin.toNat) : exec (.sensorSample dt tj inlet outlet vin iin pin vcore) s =
    .next (tripCheck (measured dt tj inlet outlet vin iin pin vcore s)) :=
  congrArg Host.Outcome.next (if_neg (Nat.not_lt.mpr hv))

/-- A sample changes PWR, and the governors' readings in RES. -/
theorem measured_kept : Kept [.res, .pwr] (elapse dt s) (measured dt tj inlet outlet vin iin pin vcore s) :=
  ((((readSensors_kept.trans coolant_kept).trans electrical_kept).trans noteHottest_kept).mono (by decide)).trans (governAll_kept.mono (by decide))

/-- What the sample measured is what PWR shows. -/
theorem measured_pwr : ∃ inletSince deltaSince vinlow event vcoreNow sensor hot,
    (measured dt tj inlet outlet vin iin pin vcore s).pwr = { s.pwr with
      sens := sampledSens tj s.pwr.sens, inlet := inlet, outlet := outlet, vin := vin, iin := iin, pinNow := pin,
      pinMax := if s.pwr.pinMax.toNat < pin.toNat then pin else s.pwr.pinMax,
      inletSince := inletSince, deltaSince := deltaSince, vinlow := vinlow, event := event, vcore := vcoreNow,
      tjSensor := sensor, tjMax := hot } := by
  have read : (readSensors tj (elapse dt s)).pwr = { s.pwr with sens := sampledSens tj s.pwr.sens } := by rw [readSensors_eq, elapse_kept.e_pwr]
  obtain ⟨_, _, _, cool⟩ := coolant_pwr inlet outlet (readSensors tj (elapse dt s))
  obtain ⟨_, _, _, elec⟩ := electrical_pwr vin iin pin vcore (coolant inlet outlet (readSensors tj (elapse dt s)))
  rw [cool, read] at elec
  rw [measured, governAll_kept.e_pwr]
  simp only [noteHottest, elec]
  exact ⟨_, _, _, _, _, _, _, rfl⟩

/-- A junction sensor's reading after the measurement. -/
theorem measured_reading {n : Nat} (hn : n < 64) : (measured dt tj inlet outlet vin iin pin vcore s).reading n =
    celsius16 (tj.getD n 0 + (tget Sens.reset s.pwr.sens n).trimBy) := by
  obtain ⟨_, _, _, _, _, _, _, pwr⟩ := measured_pwr dt tj inlet outlet vin iin pin vcore s
  rw [State.reading, pwr, tj_sampledSens tj _ hn]

end

section
variable {s : State}

/-- Below 115 C nothing trips. -/
theorem tripCheck_cool (ht : s.pwr.trip = .none) (hc : ∀ n, n < 64 → s.reading n < 1840) : tripCheck s = s := by
  have cool : (List.range 64).any (fun n => decide (1840 ≤ s.reading n)) = false :=
    List.any_eq_false.2 fun n hn => by simpa using hc n (List.mem_range.1 hn)
  simp [tripCheck, ht, cool]

/-- One sensor at 115 C trips the device (R444). -/
theorem tripCheck_hot {n : Nat} (ht : s.pwr.trip = .none) (hg : s.pwr.pgood = true) (hn : n < 64) (hc : 1840 ≤ s.reading n) :
    tripCheck s = { deviceReset 2 s with pwr := { (deviceReset 2 s).pwr with trip := .hot, thermtrip := true, faultLand := true } } := by
  have hot : (List.range 64).any (fun n => decide (1840 ≤ s.reading n)) = true :=
    List.any_eq_true.2 ⟨n, List.mem_range.2 hn, by simpa using hc⟩
  simp only [tripCheck, ht, hg, hot, Bool.and_self, if_true]

/-- A device reset without a trip records its cause. -/
theorem deviceReset_cause {cause : Nat} (ht : s.pwr.trip = .none) : (deviceReset cause s).pwr.cause = BitVec.ofNat 4 cause := by
  simp [deviceReset, ht]

/-- The governor withdraws one further engine of every core above 3,600 W, 1 ms after its last step (R439). -/
theorem exec_powerGovWithdraw {dt : Nat} (hp : 3600 < s.pwr.pinNow.toNat) (ht : 1000000 ≤ s.clk + dt - s.pwr.govLast)
    (hl : s.pwr.plevel.toNat < 12) : exec (.powerGovWithdraw dt) s =
    .next (raisePwr 1 (forEach (List.range 16) (abortEngineTests · (s.pwr.plevel.toNat + 1)) { elapse dt s with
      pwr := { s.pwr with plevel := BitVec.ofNat 4 (s.pwr.plevel.toNat + 1), pgov := true, govLast := s.clk + dt } })) := by
  have time : (elapse dt s).pwr = s.pwr := elapse_kept.e_pwr
  simp only [exec, execPowerGovWithdraw, time, elapse_clk]
  rw [if_neg (by omega)]

/-- The governor returns one engine of every core at 3,400 W or below, 100 ms after its last step (R439). -/
theorem exec_powerGovReturn {dt : Nat} (hp : s.pwr.pinNow.toNat ≤ 3400) (ht : 100000000 ≤ s.clk + dt - s.pwr.govLast)
    (hl : s.pwr.plevel ≠ 0) : exec (.powerGovReturn dt) s =
    .next { elapse dt s with
      pwr := { s.pwr with plevel := s.pwr.plevel - 1, pgov := decide (s.pwr.plevel ≠ 1), govLast := s.clk + dt } } := by
  have time : (elapse dt s).pwr = s.pwr := elapse_kept.e_pwr
  simp only [exec, execPowerGovReturn, time, elapse_clk]
  rw [if_neg (not_or.mpr ⟨Nat.not_lt.mpr hp, not_or.mpr ⟨Nat.not_lt.mpr ht, hl⟩⟩)]

end
end Sys2Proof.Machine

section
open Sys2Proof Sys2Proof.Machine

/-- Settles O9: a sample measures and then looks at the trip; the governor's two commands pass their guards. -/
theorem moduleSensorsComplete : Obligations.ModuleSensorsComplete := by
  refine ⟨fun dt tj inlet outlet vin iin pin vcore s hv ht hc => ?_, fun dt tj inlet outlet vin iin pin vcore s n hv ht hg hn hc => ?_,
    fun dt s hp ht hl => ?_, fun dt s hp ht hl => ?_⟩
  · have kept := measured_kept dt tj inlet outlet vin iin pin vcore s
    obtain ⟨_, _, _, _, _, _, _, pwr⟩ := measured_pwr dt tj inlet outlet vin iin pin vcore s
    refine ⟨_, exec_sensorSample dt tj inlet outlet vin iin pin vcore s hv, ?_⟩
    rw [tripCheck_cool (by rw [pwr]; exact ht) fun n hn => by rw [measured_reading _ _ _ _ _ _ _ _ _ hn]; exact hc n hn]
    dsimp only
    rw [kept.e_glb, elapse_kept.e_glb, kept.e_clk, elapse_clk, pwr]
    refine ⟨fun n hn => ?_, rfl, rfl, rfl, rfl, rfl, ?_, rfl, rfl⟩
    · dsimp only
      rw [tj_sampledSens tj _ hn]
    · dsimp only
      split <;> omega
  · obtain ⟨_, _, _, _, _, _, _, pwr⟩ := measured_pwr dt tj inlet outlet vin iin pin vcore s
    have trip : (measured dt tj inlet outlet vin iin pin vcore s).pwr.trip = .none := by rw [pwr]; exact ht
    refine ⟨_, exec_sensorSample dt tj inlet outlet vin iin pin vcore s hv, ?_⟩
    rw [tripCheck_hot trip (by rw [pwr]; exact hg) hn (by rw [measured_reading _ _ _ _ _ _ _ _ _ hn]; exact hc)]
    exact ⟨rfl, rfl, rfl, rfl, deviceReset_cause trip, rfl⟩
  · refine ⟨_, exec_powerGovWithdraw hp ht hl, ?_⟩
    rw [raisePwr, (forEach_kept fun _ _ => abortEngineTests_kept).e_pwr]
    exact ⟨by rw [BitVec.toNat_ofNat]; omega, rfl, rfl, getLsbD_setBit_self _ (by decide)⟩
  · refine ⟨_, exec_powerGovReturn hp ht hl, ?_, ?_, rfl⟩
    · dsimp only
      bv_omega
    · rw [decide_eq_false_iff_not, not_not, sub_eq_zero]

end

/-! SUPPORT. The plat loader (R59 to R67): what a load does with what validation finds, and what each stage of a district re-plat leaves in PLT. -/
namespace Sys2Proof.Machine
open Sys2Proof

/-! ### The end of an operation -/

/-- PLT_STATUS at the end of an operation (R67): its code, section and offset, and no longer BUSY. -/
theorem platEnds_plt (e : PErr) (s : State) : (platEnds e s).plt =
    { s.plt with code := BitVec.ofNat 8 e.code, sect := BitVec.ofNat 4 e.sect, errOff := BitVec.ofNat 32 e.off, busy := false } :=
  fire_kept.e_plt

/-- The device goes to TRAINING, whatever the structure that comes into force. -/
theorem bringUp_state (s : State) : (bringUp s).glb.state = .training := by rw [bringUp, setDev_state]

/-- A full plat in force: the operation ends with code 0, and the device trains (R21, R59). -/
theorem platEnds_bringUp (s : State) : (platEnds okErr (bringUp s)).plt.busy = false ∧
    (platEnds okErr (bringUp s)).plt.code = 0 ∧ (platEnds okErr (bringUp s)).glb.state = .training := by
  rw [platEnds_plt, platEnds_kept.e_glb, bringUp_state]
  exact ⟨rfl, rfl, rfl⟩

/-- So a boot ends, from either slot (R59). -/
theorem bootWith_ends (slot fallback : Bool) (b : List Byte) (s : State) : (bootWith slot fallback b s).plt.busy = false ∧
    (bootWith slot fallback b s).plt.code = 0 ∧ (bootWith slot fallback b s).glb.state = .training := by
  dsimp only [bootWith]
  exact platEnds_bringUp _

/-- A failure ends the operation: PLT_STATUS and PLT_ERROFF report it (R67). -/
theorem platEnds_reports (e : PErr) (s : State) : (platEnds e s).plt.busy = false ∧ (platEnds e s).plt.code = BitVec.ofNat 8 e.code ∧
    (platEnds e s).plt.sect = BitVec.ofNat 4 e.sect ∧ (platEnds e s).plt.errOff = BitVec.ofNat 32 e.off := by
  rw [platEnds_plt]
  exact ⟨rfl, rfl, rfl, rfl⟩

/-! ### Loads (R59, R60) -/

section
variable {s u v : State} {b : List Byte} {e f : PErr}
variable (hs : s.glb.state = .unplatted) (hk : s.sec.keylock = false) (ha : s.plt.active = none)
include hs hk ha

/-- The active slot's plat passes: the device boots with it. -/
theorem bootPlat_active (h : validate false none flashRoom (flashImage (b2n s.nv.active) (s.flashPlat s.nv.active)) s = (u, .ok b)) :
    bootPlat s = bootWith s.nv.active false b u := by
  simp [bootPlat, hs, hk, ha, h]

variable (hf : validate false none flashRoom (flashImage (b2n s.nv.active) (s.flashPlat s.nv.active)) s = (u, .error e))
include hf

/-- The active slot's plat fails and the other's passes: the device boots with the other, FALLBACK. -/
theorem bootPlat_fallback (h : validate false none flashRoom (flashImage (b2n (!s.nv.active)) (u.flashPlat (!s.nv.active))) u = (v, .ok b)) :
    bootPlat s = bootWith (!s.nv.active) true b v := by
  simp [bootPlat, hs, hk, ha, hf, h]

/-- Neither slot's plat passes: PLT_STATUS reports the second slot's failure. -/
theorem bootPlat_failed (h : validate false none flashRoom (flashImage (b2n (!s.nv.active)) (u.flashPlat (!s.nv.active))) u = (v, .error f)) :
    bootPlat s = platEnds f v := by
  simp [bootPlat, hs, hk, ha, hf, h]

end

section
variable {p : HPort} {src : BitVec 2} {d : BitVec 4} {s : State} {staged : List Byte} {part : Bool}

/-- The owner's PLT_CTRL.LOAD with no operation running is a load of its source. -/
theorem exec_platLoad (ho : Owner p s) (hb : s.plt.busy = false) :
    exec (.platLoad p src d) s = .next (loadPlat src.toNat d.toNat (notePltCtrl src d s)) := by
  obtain ⟨up, booted, owner⟩ := ho
  simp [exec, execPlatLoad, hostWrite_owner up booted owner, notePltCtrl, hb]

/-- Step 1 of R61: a full plat is loaded at UNPLATTED without KEYLOCK, a partial one in service or QUIESCED. -/
def mayLoad (part : Bool) (s : State) : Bool :=
  if part then s.glb.state == .inService || s.glb.state == .quiesced else s.glb.state == .unplatted && !s.sec.keylock

/-- What a load does with what validation found. -/
def loadEnds (part : Bool) : State × Except PErr (List Byte) → State
  | (s, .error e) => platEnds e s
  | (s, .ok b) => if part then startReplat b s else platEnds okErr (bringUp (activate 2 false b s))

/-- A load that passes step 1 ends as validation of its source says. -/
theorem loadPlat_eq_loadEnds (hst : staged = s.loadSource src.toNat d.toNat) (hk : loadKind src.toNat staged = part) (hm : mayLoad part s = true) :
    loadPlat src.toNat d.toNat s =
      loadEnds part (validate part (if src = 3 then some d.toNat else none) (if src = 0 then staged.length else flashRoom) staged s) := by
  have number (k : BitVec 2) : (src.toNat == k.toNat) = true ↔ src = k := by rw [beq_iff_eq, BitVec.toNat_inj]
  have entry : (src.toNat == 3) = true ↔ src = 3 := number 3
  have memory : (src.toNat == 0) = true ↔ src = 0 := number 0
  unfold mayLoad at hm
  simp only [loadPlat, ← hst, hk, hm, Bool.not_true, Bool.false_eq_true, if_false, entry, memory]
  rfl

end

/-! ### The stages of a district re-plat (R63) -/

/-- A re-plat begins: the district is DRAINING, and the operation holds its container. -/
theorem startReplat_plt (b : List Byte) (s : State) : (startReplat b s).plt =
    { s.plt with dist := tset .off s.plt.dist (platDistrict b) .draining, op := some (platDistrict b, b), busy := true } := by
  dsimp only [startReplat]
  rw [flyEndAll_kept.e_plt, (forEach_kept fun _ _ => abortRecal_kept).e_plt,
    (forEach_kept fun _ _ => purgeFifo_kept (by decide) fun _ _ => discard_kept).e_plt, flushReorder_kept.e_plt]
  rfl

/-- The new structure takes effect: the district is in REPLAT, and its part of the structure in force is the container's. -/
theorem enterReplat_plt (d : Nat) (b : List Byte) (s : State) : (enterReplat d b s).plt =
    { s.plt with dist := tset .off s.plt.dist d .replat, plat := amend s.plt.plat b (some (platDistrict b)) } := by
  dsimp only [enterReplat]
  rw [(forEach_kept fun _ _ => Kept.ite lightPath_kept (Kept.refl _)).e_plt,
    (forEach_kept (L := [.lnk, .srd, .opt]) fun _ _ =>
      Kept.step replatLane_kept (by decide) (Kept.ite (Kept.refl _) (State.setLink_kept.mono (by decide)))).e_plt,
    repairBanks_kept.e_plt]
  simp only [amendPlat, setRo_kept.e_plt,
    (forEach_kept fun _ _ => Kept.step State.modLink_kept (by decide) portDown_kept).e_plt]
  rfl

/-- An amended district takes the container's digest and generation (R66, R67). -/
theorem amendDistrict_plt (b : List Byte) (s : State) : (amendDistrict b s).plt =
    { s.plt with ddigest := tset 0 s.plt.ddigest (platDistrict b) (trailerDigest b),
                 dgen := tset 0 s.plt.dgen (platDistrict b) (BitVec.ofNat 64 (u64At b 24)), skipped := BitVec.ofNat 8 (skippedCount b) } :=
  extend_kept.e_plt

/-- A re-plat ends, by an abort or after its test: the district is in service, and no operation is left. -/
def replatEnds (e : PErr) (n : Nat) (s : State) : State := platEnds e { s.setDist n .inService with plt.op := none }

/-- The end of a re-plat reports its code and leaves the structure in force as it stands. -/
theorem replatEnds_spec (e : PErr) (n : Nat) (s : State) : (replatEnds e n s).dist n = .inService ∧ (replatEnds e n s).plt.op = none ∧
    (replatEnds e n s).plt.code = BitVec.ofNat 8 e.code ∧ (replatEnds e n s).plt.busy = false ∧ (replatEnds e n s).plt.plat = s.plt.plat := by
  rw [State.dist, replatEnds, platEnds_plt]
  exact ⟨setDist_dist_self s n .inService, rfl, rfl, rfl, rfl⟩

section
variable {p : HPort} {d : Fin 16} {n : Nat} {b : List Byte} {s : State}

/-- The owner's abort while the district drains ends the re-plat with code 0x16, the district in service as before (R63). -/
theorem exec_platAbort (ho : Owner p s) (hop : s.plt.op = some (n, b)) (hd : s.dist n = .draining) :
    exec (.platAbort p) s = .next (replatEnds ⟨0x16, 0, 0⟩ n s) := by
  obtain ⟨up, booted, owner⟩ := ho
  simp [exec, execPlatAbort, hostWrite_owner up booted owner, hop, hd, replatEnds]

theorem exec_districtDrainDone (hop : s.plt.op = some (d.val, b)) (hd : s.dist d = .draining) (he : s.districtEmpty d = true) :
    exec (.districtDrainDone d) s = .next (enterReplat d b s) := by
  simp [exec, execDistrictDrainDone, hop, hd, he]

theorem exec_replatApplyDone (hop : s.plt.op = some (d.val, b)) (hd : s.dist d = .replat) : exec (.replatApplyDone d) s =
    .next (forEach ((amendDistrict b (s.setDist d .test)).distPorts d) startTraining (amendDistrict b (s.setDist d .test))) := by
  simp [exec, execReplatApplyDone, hop, hd]

theorem exec_districtTrained (hop : s.plt.op = some (d.val, b)) (hd : s.dist d = .test) (ht : (s.distPorts d).all s.portTrained = true) :
    exec (.districtTrained d) s = .next (replatEnds okErr d s) := by
  simp [exec, execDistrictTrained, hop, hd, ht, replatEnds]

end

end Sys2Proof.Machine

section
open Sys2Proof Sys2Proof.Machine

/-- Settles O5: a boot and a host load end as validation of their source says, a re-plat begins by draining, and an abort ends it. -/
theorem platLoadsComplete : Obligations.PlatLoadsComplete := by
  refine ⟨fun s hs hk ha => ⟨_, rfl, ?_⟩, fun p src d s staged ho hb hst hk hs hl => ⟨_, exec_platLoad ho hb, ?_⟩,
    fun p src d s staged ho hb hst hk hs => ⟨_, exec_platLoad ho hb, ?_⟩, fun p s d b ho hop hd => ⟨_, exec_platAbort ho hop hd, replatEnds_spec _ _ _⟩⟩
  · dsimp only
    rcases first : validate false none flashRoom (flashImage (b2n s.nv.active) (s.flashPlat s.nv.active)) s with ⟨u, e | b⟩
    · dsimp only
      rcases second : validate false none flashRoom (flashImage (b2n (!s.nv.active)) (u.flashPlat (!s.nv.active))) u with ⟨v, f | b⟩
      · rw [bootPlat_failed hs hk ha first second]
        exact platEnds_reports f v
      · rw [bootPlat_fallback hs hk ha first second]
        exact bootWith_ends _ _ b v
    · rw [bootPlat_active hs hk ha first]
      exact bootWith_ends _ _ b u
  · rw [loadPlat_eq_loadEnds hst hk (by simp [mayLoad, notePltCtrl, hs, hl])]
    rcases validate false _ _ staged (notePltCtrl src d s) with ⟨u, e | b⟩
    · exact platEnds_reports e u
    · simp only [loadEnds, Bool.false_eq_true, if_false]
      exact platEnds_bringUp _
  · rw [loadPlat_eq_loadEnds hst hk (by rcases hs with h | h <;> simp [mayLoad, notePltCtrl, h])]
    rcases validate true _ _ staged (notePltCtrl src d s) with ⟨u, e | b⟩
    · exact platEnds_reports e u
    · simp [loadEnds, State.dist, startReplat_plt]

/-- Settles O6: each stage runs on what the stage before left, and writes its own part of PLT. -/
theorem replatStagesComplete : Obligations.ReplatStagesComplete := by
  refine ⟨fun d s b hop hd he => ⟨_, exec_districtDrainDone hop hd he, ?_⟩, fun d s b hop hd => ⟨_, exec_replatApplyDone hop hd, ?_⟩,
    fun d s b hop hd ht => ⟨_, exec_districtTrained hop hd ht, replatEnds_spec _ _ _⟩⟩
  · simp [State.dist, enterReplat_plt]
  · simp only [State.dist, (forEach_kept fun _ _ => startTraining_kept).e_plt, amendDistrict_plt]
    exact ⟨setDist_dist_self s d .test, tget_tset_self _ _ _ _, tget_tset_self _ _ _ _, rfl⟩

end

/-! SUPPORT. Packets on their way to an output queue (R150, R160, R161, R166): what a write to a queue reads of the state, and what it leaves. -/
namespace Sys2Proof.Machine
open Sys2Proof

/-! ### What a write to a queue reads -/

/-- Two states agree in all that a packet meets on its way into a queue: the structure, the links, combining, the queues, capture and the fences. -/
structure SameSwitch (s t : State) : Prop where
  plt : t.plt = s.plt
  lnk : t.lnk = s.lnk
  mem : t.mem = s.mem
  q : t.swc.q = s.swc.q
  capture : t.swc.capture = s.swc.capture
  fences : t.lnd.fences = s.lnd.fences

namespace SameSwitch
variable {s t u : State}

theorem trans (h : SameSwitch s t) (k : SameSwitch t u) : SameSwitch s u :=
  ⟨k.plt.trans h.plt, k.lnk.trans h.lnk, k.mem.trans h.mem, k.q.trans h.q, k.capture.trans h.capture, k.fences.trans h.fences⟩

theorem of_kept {L : List Blk} (k : Kept L s t) (plt : Blk.plt ∉ L := by decide) (lnk : Blk.lnk ∉ L := by decide)
    (mem : Blk.mem ∉ L := by decide) (swc : Blk.swc ∉ L := by decide) (lnd : Blk.lnd ∉ L := by decide) : SameSwitch s t :=
  ⟨k.e_plt plt, k.e_lnk lnk, k.e_mem mem, by rw [k.e_swc swc], by rw [k.e_swc swc], by rw [k.e_lnd lnd]⟩

variable (h : SameSwitch s t)
include h

theorem plain (hs : PlainSwitch s) : PlainSwitch t := by
  obtain ⟨capture, ents, combine, fences⟩ := hs
  exact ⟨h.capture.trans capture, by rw [h.mem, ents], by rw [h.mem, combine], h.fences.trans fences⟩

theorem link (p : Nat) : t.link p = s.link p := by rw [State.link, State.link, h.lnk]
theorem queue (k : Nat) : t.queue k = s.queue k := by rw [State.queue, State.queue, h.q]
theorem up (p : Nat) : t.up p = s.up p := by
  rw [State.up, State.up, h.link, State.portBuilt, State.portBuilt, State.width, State.width, State.entry, State.entry, h.plt]
theorem dist (d : Nat) : t.dist d = s.dist d := by rw [State.dist, State.dist, h.plt]
theorem roomFor (p tc n : Nat) : t.roomFor p tc n = s.roomFor p tc n := by
  have limit : t.limit p tc = s.limit p tc := by
    simp only [State.limit, State.width, State.entry, State.cls, h.plt]
  rw [State.roomFor, State.roomFor, State.depth, State.depth, h.queue, limit]
theorem reorders (p : Pkt) : t.reorders p = s.reorders p := by
  simp only [State.reorders, State.bundle, State.entry, h.plt]
theorem noMirrorEnd {q : Nat} {p : Pkt} (hs : NoMirrorEnd q p s) : NoMirrorEnd q p t := by
  simpa only [NoMirrorEnd, State.endpointHop, h.link] using hs

end SameSwitch

/-! ### What a write to a queue leaves -/

/-- From `s` to `t` a packet joined the queue of a port and its class, every other queue holds what it held, and of SWC only the queues changed. -/
structure Written (port : Nat) (p : Pkt) (s t : State) : Prop where
  joins : JoinsQueue port p s t
  others : ∀ k, k ≠ queueKey port p.h.tc → (t.queue k).items = (s.queue k).items
  swc : t.swc = { s.swc with q := t.swc.q }

section
variable {port : Nat} {p : Pkt} {s t u : State}

theorem queue_of_swc (h : t.swc = s.swc) (k : Nat) : t.queue k = s.queue k := by rw [State.queue, State.queue, h]

/-- What leaves SWC alone may follow. -/
theorem Written.then (h : Written port p s t) (k : u.swc = t.swc) : Written port p s u :=
  ⟨by rw [JoinsQueue, queue_of_swc k]; exact h.joins, fun n hn => by rw [queue_of_swc k]; exact h.others n hn, by rw [k]; exact h.swc⟩

/-- A state with the same queues may stand before it. -/
theorem Written.joins_of_same (h : Written port p t u) (k : SameSwitch s t) : JoinsQueue port p s u := by
  rw [JoinsQueue, ← k.queue]
  exact h.joins

/-- With capture off nothing is recorded and nothing is mirrored. -/
theorem capture_off (fate : Fate) (d : Nat) (out : Option Nat) (h : s.swc.capture = false) : capture fate d p out s = s := by
  simp [capture, record, h]

theorem pushMarker_nil (port tc : Nat) (s : State) : pushMarker port tc [] s = s := rfl

/-- An item pushed stands at the tail of its queue; of SWC nothing else changes. -/
theorem pushItem_spec (port tc : Nat) (it : QItem) (s : State) :
    ((pushItem port tc it s).queue (queueKey port tc)).items = (s.queue (queueKey port tc)).items ++ [it] ∧
    (∀ k, k ≠ queueKey port tc → (pushItem port tc it s).queue k = s.queue k) ∧
    (pushItem port tc it s).swc = { s.swc with q := (pushItem port tc it s).swc.q } := by
  have maps (c : Bool) (f : MapCnt → MapCnt) : (if c then s else modMap port f s).swc = s.swc := by cases c <;> rfl
  refine ⟨?_, fun k hk => ?_, ?_⟩
  · dsimp only [pushItem]
    rw [setQueue_queue_self]
    split
    · split <;> rfl
    · rfl
  · dsimp only [pushItem]
    rw [setQueue_queue_of_ne _ _ hk, queue_of_swc (maps _ _)]
  · dsimp only [pushItem, State.setQueue]
    rw [maps]

/-- A packet written with no fence behind it and no capture joins its queue. -/
theorem putQueue_written (h : s.swc.capture = false) : Written port p s (putQueue port .pkt [] p s) := by
  have before : (returnCredit p (if p.counted then s else enterCount p.h.epoch s)).swc = s.swc :=
    (Kept.step returnCredit_kept (L := [.lnk, .fwd]) (by decide) (Kept.ite (Kept.refl _) (enterCount_kept.mono (by decide)))).e_swc
  dsimp only [putQueue]
  generalize returnCredit p (if p.counted then s else enterCount p.h.epoch s) = s₁ at before
  obtain ⟨items, others, swc⟩ := pushItem_spec port p.h.tc (.pkt { p with counted := true, cred := false, thread := none }) s₁
  generalize pushItem port p.h.tc (.pkt { p with counted := true, cred := false, thread := none }) s₁ = s₂ at items others swc
  have off : s₂.swc.capture = false := by rw [swc, before]; exact h
  rw [capture_off (s := countN _ _ (count _ s₂)) _ _ _ off, pushMarker_nil]
  refine Written.then (t := s₂) ⟨?_, fun k hk => ?_, ?_⟩ preLeave_kept.e_swc
  · rw [JoinsQueue, items, queue_of_swc before]
  · rw [others k hk, queue_of_swc before]
  · rw [swc, before]

variable (h : PlainSwitch s)
include h

/-- Where no entry is open, a packet written closes none and is noted in none. -/
theorem noteWrite_plain : noteWrite port p s = s := by
  obtain ⟨-, ents, -, -⟩ := h
  simp only [noteWrite, ents, List.filter_nil, forEach, List.foldl_nil, ite_self, List.map_nil]
  rw [← ents]

/-- Where combining is off, no packet combines. -/
theorem combinable_plain : combinable s port p = false := by
  obtain ⟨-, -, combine, -⟩ := h
  simp only [combinable, combine, Bool.false_and]

/-- Where no fence is armed, none follows a packet. -/
theorem fencesOf_plain : s.fencesOf p = [] := by
  obtain ⟨-, -, -, fences⟩ := h
  simp [State.fencesOf, fences]

/-- In a plain switch a packet written to a port's queue joins it. -/
theorem writeQueue_written : Written port p s (writeQueue port p s) := by
  have eq : writeQueue port p s = putQueue port .pkt [] p s := by
    simp [writeQueue, mergeEntry, combinable_plain h, noteWrite_plain h, fencesOf_plain h]
  rw [eq]
  exact putQueue_written h.1

end

/-! ### The path to a queue -/

section
variable {q : Nat} {p : Pkt} {s : State}
variable (hup : s.up q = true) (hd : s.dist (districtOf q) ≠ .draining) (hr : s.roomFor q p.h.tc p.cells = true)

include hd in
theorem hopCut_port (sp : Nat) : s.hopCut sp (.port q) p.h = false := by
  simp [State.hopCut, State.hopDraining, chosenPort, hd]

include hr in
theorem canWrite_port (sp : Nat) : s.canWrite sp (.port q) p = some q := by
  simp [State.canWrite, State.portsFor, State.copiesOver, chosenPort, hr]

theorem writeOut_port (sp n : Nat) (p : Pkt) (s : State) : writeOut sp (.port q) n p s = writeQueue n p s := rfl

include hup hd hr

/-- Toward a port that is up, with room in its queue, a packet that is not aged is written there (R161, R164). -/
theorem placeHop_port (ha : s.aged p = false) (hm : NoMirrorEnd q p s) : placeHop (.port q) p s = (writeQueue q p s, true) := by
  have passes : (p.h.mirror && p.h.isRequest && s.endpointHop (.port q)) = false := by
    rcases hm with h | h | h <;> simp [h]
  simp [placeHop, State.hopUp, hup, chosenPort, ha, hopCut_port hd, passes, canWrite_port hr, writeOut_port]

omit hup in
/-- A packet that the MS9 originates toward a port with room is written there (R132, R161). -/
theorem originate_port {stamp : Bool} {notBefore : Nat} (he : s.fwd.mgmtEid ≠ 0) (hc : s.glb.state ≠ .cordoned) (hn : notBefore ≤ s.now) :
    originate stamp notBefore (.port q) p s = writeQueue q (if stamp then { p with tin := s.now } else p) s := by
  simp [originate, show s.fwd.mgmtEid ≠ 0#32 from he, hc, hopCut_port hd, hn, canWrite_port hr, writeOut_port]

end

end Sys2Proof.Machine

section
open Sys2Proof Sys2Proof.Machine

/-- Settles O16: toward a port with room placing is a write to its queue, and that write adds the packet at the tail and leaves every other queue. -/
theorem packetJoinsItsQueue : Obligations.PacketJoinsItsQueue := by
  intro p q s hup ha hd hr hm hs
  rw [placeHop_port hup hd hr ha hm]
  have w : Written q p s (writeQueue q p s) := writeQueue_written hs
  exact ⟨rfl, w.joins, w.others⟩

end

/-! SUPPORT. The paths into and out of an output queue (R68, R96, R146, R161, R164, R166, R167): what each command does with a packet that may go on. -/
namespace Sys2Proof.Machine
open Sys2Proof

/-! ### A header that fails its HCRC (R68, R96) -/

section
variable {port : Nat} {bytes : List Byte} {ups : List Upset} {p : Pkt} {s : State}

theorem takePacket_badHcrc (hc : s.isC2 port = false) (hh : hcrcOk3 bytes = false) : takePacket port bytes ups s =
    setLnkErr port 1 (discard 14 { h := hdrOf bytes, payload := slice bytes 32 (hdrOf bytes).len, tin := s.now, inPort := port, c2 := false, counted := false } none s) := by
  simp [takePacket, hc, hh]

/-- A discard of a packet that has begun no lookup and holds no credits is counted and captured, and nothing else. -/
theorem discard_uncounted (d : Nat) (out : Option Nat) (hn : p.counted = false) (hc : p.cred = false) :
    discard d p out s = capture .discard d p out (countDiscard d p.inPort s) := by
  simp [discard, preLeave, leaveCount, returnCredit, hn, hc]

end

/-! ### Releases from an ingress FIFO (R161, R166) -/

theorem Written.fifo {q : Nat} {p : Pkt} {s t : State} (w : Written q p s t) (port tc : Nat) : t.fifo port tc = s.fifo port tc := by
  rw [State.fifo, State.fifo, w.swc]
theorem Written.sched {q : Nat} {p : Pkt} {s t : State} (w : Written q p s t) (port : Nat) : t.sched port = s.sched port := by
  rw [State.sched, State.sched, w.swc]

theorem setFifo_fifo_self (port tc : Nat) (l : List Held) (s : State) : (setFifo port tc l s).fifo port tc = l := tget_tset_self _ _ _ _
theorem setFifo_same (port tc : Nat) (l : List Held) (s : State) : SameSwitch s (setFifo port tc l s) := ⟨rfl, rfl, rfl, rfl, rfl, rfl⟩
theorem elapse_same (dt : Nat) (s : State) : SameSwitch s (elapse dt s) := .of_kept elapse_kept
theorem fillG_same (port : Nat) (s : State) : SameSwitch s (fillG port s) := ⟨rfl, rfl, rfl, rfl, rfl, rfl⟩

section
variable {port tc q : Nat} {h : Held} {rest : List Held} {s : State}
variable (hf : s.fifo port tc = h :: rest) (hdest : h.dest = .hop (.port q)) (hup : s.up q = true) (hd : s.dist (districtOf q) ≠ .draining)
  (hr : s.roomFor q h.pkt.h.tc h.pkt.cells = true) (hm : NoMirrorEnd q h.pkt s) (ha : s.aged h.pkt = false)
include hdest hup hd hr hm ha

include hf in
/-- The head of a FIFO that is held at a limit is written once there is room. -/
theorem releaseHold_port (hp : h.policed = false) : releaseHold port tc s = writeQueue q h.pkt (setFifo port tc rest s) := by
  have same := setFifo_same port tc rest s
  have placed : placeHop (.port q) h.pkt (setFifo port tc rest s) = (writeQueue q h.pkt (setFifo port tc rest s), true) :=
    placeHop_port ((same.up q).trans hup) (by rw [same.dist]; exact hd) ((same.roomFor _ _ _).trans hr) ha (same.noMirrorEnd hm)
  simp [releaseHold, hf, hp, ha, hdest, place, placed]

/-- A packet of a fabric port that no reordering holds and no earlier packet of its class keeps back is written to its queue. -/
theorem toCrossbar_port (hi : h.pkt.inPort < 2048) (hno : s.reorders h.pkt = false)
    (hheld : (s.fifo h.pkt.inPort h.pkt.h.tc).any (fun e => !e.policed) = false) : toCrossbar h.dest h.pkt s = writeQueue q h.pkt s := by
  have placed := placeHop_port hup hd hr ha hm
  simp [toCrossbar, hdest, hno, toEgress, Nat.not_le.mpr hi, hheld, place, placed]

end

/-- The state after a policed packet left its FIFO with its size in tokens. -/
def tookTokens (port tc : Nat) (p : Pkt) (rest : List Held) (s : State) : State :=
  chargePolicer port p (setFifo port tc rest (fillPolicer port s))

section
variable (port tc : Nat) (p : Pkt) (rest : List Held) (s : State)

theorem tookTokens_same : SameSwitch s (tookTokens port tc p rest s) := ⟨rfl, rfl, rfl, rfl, rfl, rfl⟩
theorem tookTokens_fifo : (tookTokens port tc p rest s).fifo port tc = rest := setFifo_fifo_self _ _ _ _
theorem tookTokens_bucket : ((tookTokens port tc p rest s).sched port).bucket = ((fillPolicer port s).sched port).bucket - 4 * p.size := by
  rw [tookTokens, chargePolicer, modSched_sched_self]
  rfl
theorem tookTokens_aged : (tookTokens port tc p rest s).aged p = (fillPolicer port s).aged p := rfl

end

/-- Where one class alone holds a policed packet, and it is one that is policed, the policer's choice is that class (R166). -/
theorem policedClass {s : State} {port : Nat} {tc : Fin 8} {h : Held} {rest : List Held} (he : ∀ k, k < 8 → k ≠ tc.val → s.fifo port k = [])
    (hf : s.fifo port tc.val = h :: rest) (hp : h.policed = true) (h5 : tc.val ≠ 5) (h6 : tc.val ≠ 6) :
    [7, 4, 3, 2, 1, 0].find? (fun k => (s.fifo port k).any (·.policed)) = some tc.val := by
  have holds : ∀ k, k < 8 → (s.fifo port k).any (·.policed) = decide (k = tc.val) := by
    intro k hk
    by_cases e : k = tc.val
    · simp [e, hf, hp]
    · simp [e, he k hk e]
  simp only [List.find?_cons, List.find?_nil, holds _ (by decide : 7 < 8), holds _ (by decide : 4 < 8), holds _ (by decide : 3 < 8),
    holds _ (by decide : 2 < 8), holds _ (by decide : 1 < 8), holds _ (by decide : 0 < 8)]
  clear holds he hf
  revert h5 h6 tc
  decide


section
variable {port : Nat} {tc : Fin 8} {q : Nat} {h : Held} {rest : List Held} {s : State}
variable (he : ∀ k, k < 8 → k ≠ tc.val → s.fifo port k = []) (hf : s.fifo port tc.val = h :: rest) (hp : h.policed = true)
  (h5 : tc.val ≠ 5) (h6 : tc.val ≠ 6) (ha : (fillPolicer port s).aged h.pkt = false)
  (hb : 4 * h.pkt.size ≤ ((fillPolicer port s).sched port).bucket)
include he hf hp h5 h6 ha hb

/-- The oldest policed packet goes to the crossbar once the bucket holds its size, which it takes (R166). -/
theorem releasePoliced_head : releasePoliced port s =
    toCrossbar h.dest h.pkt (tookTokens port tc.val h.pkt rest s) := by
  have fifo (k : Nat) : (fillPolicer port s).fifo port k = s.fifo port k := rfl
  simp only [releasePoliced, fifo, policedClass he hf hp h5 h6, hf, List.find?_cons, hp, List.eraseP_cons, ha, if_neg (Nat.not_lt.mpr hb),
    cond_true, Bool.false_eq_true, if_false]
  rfl

end

/-! ### A producer that waits (R161) -/

theorem originateAny_unsched {stamp : Bool} {notBefore : Nat} {hop : Hop} {p : Pkt} {s : State} (h : p.h.isSched = false) :
    originateAny stamp notBefore hop p s = originate stamp notBefore hop p s := by
  simp [originateAny, h]

theorem kickLanding_none {p : Pkt} {s : State} (h : p.result = none) : kickLanding p s = s := by simp [kickLanding, h]

section
variable {i q : Nat} {w : Waiting} {s : State}

/-- The state without one of its producers. -/
def dropProd (i : Nat) (s : State) : State := { s with swc.prod := s.swc.prod.eraseIdx i }
theorem dropProd_same (i : Nat) (s : State) : SameSwitch s (dropProd i s) := ⟨rfl, rfl, rfl, rfl, rfl, rfl⟩

/-- A producer whose packet may go on writes it to the queue of its port, and no longer waits. -/
theorem enqueueProducer_port (hw : s.swc.prod[i]? = some w) (hq : w.hop = .port q) (hup : s.up q = true)
    (ha : w.stampAtEnqueue = true ∨ s.aged w.pkt = false) (hn : w.notBefore ≤ s.now) (hu : w.pkt.h.isSched = false) (hres : w.pkt.result = none)
    (hd : s.dist (districtOf q) ≠ .draining) (he : s.fwd.mgmtEid ≠ 0) (hc : s.glb.state ≠ .cordoned)
    (hr : s.roomFor q w.pkt.h.tc w.pkt.cells = true) (hs : PlainSwitch s) :
    enqueueProducer i s = writeQueue q (if w.stampAtEnqueue then { w.pkt with tin := s.now } else w.pkt) (dropProd i s) := by
  have erase : s.swc.prod.take i ++ s.swc.prod.drop (i + 1) = s.swc.prod.eraseIdx i := (List.eraseIdx_eq_take_drop_succ _ _).symm
  have fresh : (!w.stampAtEnqueue && s.aged w.pkt) = false := by rcases ha with h | h <;> simp [h]
  have same := dropProd_same i s
  have sent : originateAny w.stampAtEnqueue w.notBefore (.port q) w.pkt (dropProd i s) =
      writeQueue q (if w.stampAtEnqueue then { w.pkt with tin := s.now } else w.pkt) (dropProd i s) :=
    (originateAny_unsched hu).trans (originate_port (by rw [same.dist]; exact hd) ((same.roomFor _ _ _).trans hr) he hc hn)
  have written := writeQueue_written (port := q) (p := if w.stampAtEnqueue then { w.pkt with tin := s.now } else w.pkt) (same.plain hs)
  have left : (writeQueue q (if w.stampAtEnqueue then { w.pkt with tin := s.now } else w.pkt) (dropProd i s)).swc.prod.length =
      (s.swc.prod.take i).length + (s.swc.prod.drop (i + 1)).length := by
    rw [written.swc, ← List.length_append, erase]
    rfl
  simp only [enqueueProducer, hw, hq, fresh, State.hopUp, hup, erase, Bool.false_eq_true, if_false, Bool.not_true]
  rw [show ({ s with swc.prod := s.swc.prod.eraseIdx i } : State) = dropProd i s from rfl, sent, left]
  simp [kickLanding_none hres]

end

/-! ### A replication that waits (R146, R161) -/

/-- Of all that a packet meets on its way into a queue, and of SWC, only quarantined cells of reorder stores changed. -/
structure OnlyQuarantine (s t : State) : Prop where
  plt : t.plt = s.plt
  lnk : t.lnk = s.lnk
  mem : t.mem = s.mem
  swc : t.swc = { s.swc with quarantined := t.swc.quarantined }
  fences : t.lnd.fences = s.lnd.fences

namespace OnlyQuarantine
variable {s t u : State}

theorem refl (s : State) : OnlyQuarantine s s := ⟨rfl, rfl, rfl, rfl, rfl⟩
theorem trans (h : OnlyQuarantine s t) (k : OnlyQuarantine t u) : OnlyQuarantine s u :=
  ⟨k.plt.trans h.plt, k.lnk.trans h.lnk, k.mem.trans h.mem, by rw [k.swc, h.swc], k.fences.trans h.fences⟩
theorem of_kept {L : List Blk} (k : Kept L s t) (plt : Blk.plt ∉ L := by decide) (lnk : Blk.lnk ∉ L := by decide)
    (mem : Blk.mem ∉ L := by decide) (swc : Blk.swc ∉ L := by decide) (lnd : Blk.lnd ∉ L := by decide) : OnlyQuarantine s t :=
  ⟨k.e_plt plt, k.e_lnk lnk, k.e_mem mem, by rw [k.e_swc swc], by rw [k.e_lnd lnd]⟩
theorem ite {c : Prop} [Decidable c] (h : OnlyQuarantine s t) (k : OnlyQuarantine s u) : OnlyQuarantine s (if c then t else u) := by
  split
  · exact h
  · exact k
theorem same (h : OnlyQuarantine s t) : SameSwitch s t := ⟨h.plt, h.lnk, h.mem, by rw [h.swc], by rw [h.swc], h.fences⟩

end OnlyQuarantine

/-- An SRAM bank that leaves service takes cells of a reorder store, slots of contexts, or nothing that is counted (R363). -/
theorem drainNow_bank (i : Nat) (s : State) : OnlyQuarantine s (drainNow 2 i s) := by
  simp only [drainNow]
  split <;> exact ⟨rfl, rfl, rfl, rfl, rfl⟩

theorem drainPart_bank (i : Nat) (s : State) : OnlyQuarantine s (drainPart 2 i s) := by
  unfold drainPart
  split
  · exact ((OnlyQuarantine.of_kept State.modPart_kept).trans (drainNow_bank i _)).trans (.of_kept raiseCruise_kept)
  · exact (OnlyQuarantine.of_kept State.modPart_kept).trans (.of_kept raiseCruise_kept)

theorem cruiseLog_bank (v : Word) (s : State) : OnlyQuarantine s { s with res.cruiseLog := v } := ⟨rfl, rfl, rfl, rfl, rfl⟩

/-- A penalty on an SRAM bank can take its cells out of use, and leaves links, queues and fences alone (R362, R363). -/
theorem addPenalty_bank (i w : Nat) (s : State) : OnlyQuarantine s (addPenalty 2 i w s) := by
  dsimp only [addPenalty, crossed]
  have watched (t : State) : OnlyQuarantine t (raiseCruise 0 { (t.modPart 2 i (fun p => if p.st == .inService then { p with st := .watch } else p)) with
      res.cruiseLog := cruiseLogOf 1 2 i }) :=
    ((OnlyQuarantine.of_kept State.modPart_kept).trans (cruiseLog_bank _ _)).trans (.of_kept raiseCruise_kept)
  have drained (c : Prop) [Decidable c] (t : State) : OnlyQuarantine t (saveScores (if c then { t with res.cruiseLog := cruiseLogOf 2 2 i }
      else drainPart 2 i { t with res.cruiseLog := cruiseLogOf 2 2 i })) :=
    (cruiseLog_bank _ t).trans (OnlyQuarantine.trans (.ite (.refl _) (drainPart_bank i _)) (.of_kept saveScores_kept))
  exact (OnlyQuarantine.of_kept State.modPart_kept).trans ((OnlyQuarantine.ite (watched _) (.refl _)).trans (.ite (drained _ _) (.refl _)))

/-- A read of an entry that is not uncorrectable corrects at most one bit of it (R134). -/
theorem correctAt_bank (tbl : Nat) (b : Bool) (i : Nat) (s : State) : OnlyQuarantine s (correctAt tbl b i s) := by
  unfold correctAt
  split
  · exact OnlyQuarantine.trans (t := countX xfTableCorrected 0 { s with fwd.soft := tset false s.fwd.soft (badKey tbl b i) false })
      ⟨rfl, rfl, rfl, rfl, rfl⟩ (addPenalty_bank _ _ _)
  · exact .refl s

/-- The marks of single-bit errors are all of FWD that it changes. -/
theorem correctAt_fwd (tbl : Nat) (b : Bool) (i : Nat) (s : State) :
    (correctAt tbl b i s).fwd = { s.fwd with soft := (correctAt tbl b i s).fwd.soft } := by
  unfold correctAt
  split
  · rw [addPenalty_kept.e_fwd]
    rfl
  · rfl

theorem correctAt_tmb (tbl : Nat) (b : Bool) (i : Nat) (s : State) : (correctAt tbl b i s).tmb = s.tmb := by
  unfold correctAt
  split
  · rw [addPenalty_kept.e_tmb]
    rfl
  · rfl

theorem aged_of_same {s t : State} (p : Pkt) (hp : t.plt = s.plt) (ht : t.tmb = s.tmb) : t.aged p = s.aged p := by
  have limit : t.ageNs p.h.tc = s.ageNs p.h.tc := by rw [State.ageNs, State.ageNs, State.cls, State.cls, hp]
  rw [State.aged, State.aged, State.age, State.age, State.now, State.now, ht, limit]

theorem readEnts_one {b : Bool} {tbl i : Nat} {s : State} (h : s.badAt tbl b i = false) : readEnts b [(tbl, i)] s = (correctAt tbl b i s, true) := by
  simp [readEnts, h]

section
variable {b : Bool} {i : Nat} {r : Ent2} {s : State}

/-- The state after both entries of a member have been read. -/
def memberRead (b : Bool) (i : Nat) (r : Ent2) (s : State) : State := correctAt 6 b r.w0.toNat (correctAt 9 b i s)

/-- A member of a replication that is in use, in a list without errors, and without a cordoned EXACT entry, is read with its next hop (R146). -/
theorem readMember_valid (hr : tget Ent2.zero s.fwd.repl i = r) (hv : bitAt r.w1.toNat 31 = true) (h9 : s.badAt 9 false i = false)
    (h6 : s.badAt 6 b r.w0.toNat = false) (he : s.exact b r.w0 = none) :
    readMember b i s = (memberRead b i r s, .at_ r.w0 false (hopOf (fld r.w1.toNat 26 2) (fld r.w1.toNat 0 11))) := by
  have list : s.badAt 9 b i = false := by simpa [State.badAt, badKey, banked] using h9
  have repl : tget Ent2.zero (correctAt 9 b i s).fwd.repl i = r := by rw [correctAt_fwd]; exact hr
  have exact6 : (correctAt 9 b i s).badAt 6 b r.w0.toNat = false := by rw [State.badAt, correctAt_fwd]; exact h6
  have none6 : (memberRead b i r s).exact b r.w0 = none := by
    rw [State.exact, State.bank, memberRead, correctAt_fwd 6, correctAt_fwd 9]
    exact he
  unfold memberRead at none6 ⊢
  simp [readMember, readEnts_one list, repl, hv, readEnts_one exact6, none6]

theorem memberRead_bank : OnlyQuarantine s (memberRead b i r s) := (correctAt_bank 9 b i s).trans (correctAt_bank 6 b _ _)
theorem memberRead_tmb : (memberRead b i r s).tmb = s.tmb := by rw [memberRead, correctAt_tmb, correctAt_tmb]

end

section
variable {i q fuel : Nat} {w : ReplWait} {r : Ent2} {s : State}

/-- The packet of one copy of a replication (R146). -/
def copyOf (p : Pkt) : Pkt := { p with counted := false, cred := false }

/-- The last copy of a replication is written to its queue, and the packet leaves its ingress stage. -/
theorem runRepl_last (hlast : w.idx + 1 = w.count) (hr : tget Ent2.zero s.fwd.repl (w.base + w.idx) = r) (hv : bitAt r.w1.toNat 31 = true)
    (h9 : s.badAt 9 false (w.base + w.idx) = false) (h6 : s.badAt 6 w.pkt.h.epoch r.w0.toNat = false) (he : s.exact w.pkt.h.epoch r.w0 = none)
    (hq : hopOf (fld r.w1.toNat 26 2) (fld r.w1.toNat 0 11) = .port q) (hd : s.dist (districtOf q) ≠ .draining) (ha : s.aged w.pkt = false)
    (hup : s.up q = true) (hroom : s.roomFor q w.pkt.h.tc w.pkt.cells = true) (hs : PlainSwitch s) :
    runRepl (fuel + 2) w s = (endRepl w.pkt (writeQueue q (copyOf w.pkt) (memberRead w.pkt.h.epoch (w.base + w.idx) r s)), none) := by
  have bank := memberRead_bank (b := w.pkt.h.epoch) (i := w.base + w.idx) (r := r) (s := s)
  have read := readMember_valid hr hv h9 h6 he
  have aged := (aged_of_same w.pkt bank.plt memberRead_tmb).trans ha
  generalize memberRead w.pkt.h.epoch (w.base + w.idx) r s = t at bank read aged ⊢
  have open_ (sp : Nat) : t.hopDraining sp (.port q) w.pkt.h = false := by simp [State.hopDraining, chosenPort, bank.same.dist, hd]
  have fences : t.fencesOf w.pkt = [] := fencesOf_plain (bank.same.plain hs)
  have more : ¬ w.count ≤ w.idx := by omega
  simp [runRepl, more, read, hq, open_, aged, State.hopUp, bank.same.up, hup, chosenPort, bank.same.roomFor, hroom, fences, pushMarker_nil,
    hlast, writeHop, copyOf]

/-- The state without one of its replications. -/
def dropRepl (i : Nat) (s : State) : State := { s with swc.repl := s.swc.repl.eraseIdx i }

theorem resumeRepl_none {t : State} (hw : s.swc.repl[i]? = some w) (h : runRepl (w.count + 1) w (dropRepl i s) = (t, none)) : resumeRepl i s = t := by
  have erase : s.swc.repl.take i ++ s.swc.repl.drop (i + 1) = s.swc.repl.eraseIdx i := (List.eraseIdx_eq_take_drop_succ _ _).symm
  unfold dropRepl at h
  simp only [resumeRepl, hw, erase, h]

end

/-! ### A transmission opportunity (R164, R167) -/

section
variable {port tc : Nat} {p o : Pkt} {rest : List QItem} {s : State}

theorem frontMarkers_suffix (l : List QItem) : (frontMarkers l).2 <:+ l := by
  induction l with
  | nil => exact List.suffix_refl _
  | cons it r ih =>
    cases it with
    | marker ids => exact ih.trans (List.suffix_cons _ _)
    | pkt p => exact List.suffix_refl _
    | comb p id => exact List.suffix_refl _

/-- The drain markers at the head of a queue are consumed (R162). -/
theorem consumeFront_items (k : Nat) (s : State) : ((consumeFront k s).queue k).items = (frontMarkers (s.queue k).items).2 := by
  dsimp only [consumeFront]
  split
  · next h =>
    simp only [Bool.and_eq_true, beq_iff_eq] at h
    exact ((frontMarkers_suffix _).eq_of_length h.2).symm
  · rw [queue_of_swc (forEach_kept (L := [.hst, .lnd, .tly, .ram, .out]) fun _ _ => consumeMarker_kept).e_swc, setQueue_queue_self]

/-- A packet at the head keeps the markers behind it. -/
theorem consumeFront_pkt {k : Nat} (h : (s.queue k).items = .pkt p :: rest) : consumeFront k s = s := by
  simp [consumeFront, h, frontMarkers]

theorem settleQueue_items (items : List QItem) (newHead : Bool) :
    ((settleQueue port tc items newHead s).queue (queueKey port tc)).items = (frontMarkers items).2 := by
  have consumed : ((consumeFront (queueKey port tc) (s.modQueue (queueKey port tc) (fun q => { q with items := items }))).queue
      (queueKey port tc)).items = (frontMarkers items).2 := by
    rw [consumeFront_items, modQueue_queue_self]
  dsimp only [settleQueue]
  split
  · split
    · rw [modQueue_queue_self]
      exact consumed
    · exact consumed
  · exact consumed

/-- The head packet taken out leaves what stood behind it, less the markers now at the head. -/
theorem popHead_items (h : (s.queue (queueKey port tc)).items = .pkt p :: rest) :
    ((popHead port tc s).queue (queueKey port tc)).items = (frontMarkers rest).2 := by
  simp only [popHead, h, frontMarkers, List.drop_succ_cons, List.drop_zero]
  exact settleQueue_items _ _

theorem popHead_lnk : (popHead port tc s).lnk = s.lnk := popHead_kept.e_lnk

/-- The link after a packet was sent on it: the packet waits to be framed, and its credits are drawn (R84, R167). -/
def Link.sent (s : State) (port : Nat) (o : Pkt) (l : Link) : Link :=
  { l with
    txBal := if creditClass o.h.tc then tmod 0 l.txBal o.h.tc (fun b => b - creditsOf (linkSize s port o)) else l.txBal,
    txPkts := l.txPkts ++ [(o, if s.isC2 port then o.wire2 else o.wire3)] }

/-- What is counted of a packet sent leaves its link. -/
theorem counted_link (f : MapCnt → MapCnt) (a b c q : Nat) :
    (leaveCount p (modMap port f (countN a b (count c s)))).link q = s.link q := by
  rw [State.link, leaveCount_kept.e_lnk]
  rfl
/-- And its queue. -/
theorem counted_queue (f : MapCnt → MapCnt) (a b c k : Nat) :
    (leaveCount p (modMap port f (countN a b (count c s)))).queue k = s.queue k := by
  rw [State.queue, leaveCount_kept.e_swc]
  rfl

/-- The head of a queue sent: what its link and its queue are then. -/
theorem sendHead_spec (hk : p.h.kind ≠ 9) (h : (s.queue (queueKey port tc)).items = .pkt p :: rest) :
    (sendHead port tc p o s).link port = (s.link port).sent s port o ∧
    ((sendHead port tc p o s).queue (queueKey port tc)).items = (frontMarkers rest).2 := by
  have kind : (p.h.kind == 9) = false := beq_false_of_ne hk
  simp only [sendHead, kind, Bool.false_eq_true, if_false]
  generalize hs₁ : s.modSched port _ = s₁
  have q₁ : (s₁.queue (queueKey port tc)).items = .pkt p :: rest := by rw [← hs₁]; exact h
  have l₁ : s₁.link port = s.link port := by rw [← hs₁]; rfl
  have l₂ : (popHead port tc s₁).link port = s.link port := by rw [State.link, popHead_lnk]; exact l₁
  have q₂ := popHead_items q₁
  generalize popHead port tc s₁ = s₂ at l₂ q₂
  rw [counted_link, counted_queue, modLink_link_self]
  by_cases credits : creditClass o.h.tc = true
  · simp only [credits, if_true, modLink_link_self, l₂, State.isC2, Link.sent]
    exact ⟨rfl, q₂⟩
  · simp only [credits, Bool.false_eq_true, if_false, l₂, State.isC2, Link.sent]
    exact ⟨rfl, q₂⟩

/-- The scheduler's choice is a packet that is neither aged nor barred from the link: it is sent (R167). -/
theorem serve_pkt {fuel : Nat} (hpick : pickQueue s port = some tc) (h : (s.queue (queueKey port tc)).items = .pkt p :: rest)
    (ha : s.aged p = false) (ho : txForm s port p = some o) : serve (fuel + 1) port s = sendHead port tc p o s := by
  have head : (s.queue (queueKey port tc)).head? = some (.pkt p) := by rw [Queue.head?, h]; rfl
  simp [serve, hpick, consumeFront_pkt h, head, combId, QItem.pkt?, ha, ho]

end

end Sys2Proof.Machine

section
open Sys2Proof Sys2Proof.Machine

/-- Settles O15: each path reduces to one write to a queue, or to one sending of a queue's head, from a state that agrees with the first in all that the write reads. -/
theorem packetPathsComplete : Obligations.PacketPathsComplete := by
  refine ⟨fun port bytes ups s hup hc hh => ⟨_, rfl, ?_⟩, fun port tc h rest q s hf hp ha hdest hup hd hr hm hs => ⟨_, rfl, ?_⟩,
    fun dt port tc h rest q s u hu he hf hp h5 h6 ha hb hin htc hno hdest hup hd hr hm hs hrest => ⟨_, rfl, ?_⟩,
    fun i w q s hw hq hup ha hn hu hres hd hinp he hc hr hs => ⟨_, rfl, ?_⟩,
    fun i w r q s hw hlast hr hv h9 h6 hex hq hno hd ha hup hroom hs => ⟨_, rfl, ?_⟩,
    fun dt port tc p rest o s u hu hup hc hpick hitems htc hk ha ho => ⟨_, rfl, ?_⟩⟩
  · rw [if_pos hup, takePacket_badHcrc hc hh]
    refine ⟨rfl, ?_, fun off => ?_⟩
    · rw [discard_uncounted 14 none rfl rfl]
      exact capture_kept.e_fwd
    · rw [discard_uncounted 14 none rfl rfl, capture_off (s := countDiscard _ _ s) _ _ _ off]
      rfl
  · rw [releaseHold_port hf hdest hup hd hr hm ha hp]
    have same := setFifo_same port.val tc.toNat rest s
    have w : Written q h.pkt _ _ := writeQueue_written (same.plain hs)
    exact ⟨(w.fifo _ _).trans (setFifo_fifo_self _ _ _ _), w.joins_of_same same⟩
  · have elapsed := elapse_same dt s
    have fifo (k : Nat) : (elapse dt s).fifo port.val k = s.fifo port.val k := by rw [State.fifo, State.fifo, elapse_kept.e_swc]
    subst hu
    rw [releasePoliced_head (by simpa only [fifo] using he) ((fifo _).trans hf) hp h5 h6 ha hb]
    have charged := elapsed.trans (tookTokens_same port.val tc.val h.pkt rest (elapse dt s))
    have left := tookTokens_fifo port.val tc.val h.pkt rest (elapse dt s)
    have bucket := tookTokens_bucket port.val tc.val h.pkt rest (elapse dt s)
    have aged := (tookTokens_aged port.val tc.val h.pkt rest (elapse dt s)).trans ha
    generalize tookTokens port.val tc.val h.pkt rest (elapse dt s) = v at charged left bucket aged ⊢
    have unheld : (v.fifo h.pkt.inPort h.pkt.h.tc).any (fun e => !e.policed) = false := by
      rw [hin, htc, left, List.any_eq_false]
      exact fun e he => by simp [hrest e he]
    rw [toCrossbar_port hdest ((charged.up q).trans hup) (by rw [charged.dist]; exact hd) ((charged.roomFor _ _ _).trans hr) (charged.noMirrorEnd hm) aged
      (hin ▸ port.isLt) ((charged.reorders _).trans hno) unheld]
    have written : Written q h.pkt v _ := writeQueue_written (charged.plain hs)
    refine ⟨(written.fifo _ _).trans left, ?_, written.joins_of_same charged⟩
    rw [written.sched, bucket]
    omega
  · rw [enqueueProducer_port hw hq hup ha hn hu hres hd he hc hr hs]
    have same := dropProd_same i s
    have written := writeQueue_written (port := q) (p := if w.stampAtEnqueue then { w.pkt with tin := s.now } else w.pkt) (same.plain hs)
    exact ⟨by rw [written.swc]; rfl, written.joins_of_same same⟩
  · have same : SameSwitch s (dropRepl i s) := ⟨rfl, rfl, rfl, rfl, rfl, rfl⟩
    have run := runRepl_last (s := dropRepl i s) (fuel := w.idx) hlast hr.symm hv h9 h6 hex hq hd ha hup ((same.roomFor _ _ _).trans hroom) (same.plain hs)
    rw [show w.idx + 2 = w.count + 1 by omega] at run
    rw [resumeRepl_none hw run]
    have bank := memberRead_bank (b := w.pkt.h.epoch) (i := w.base + w.idx) (r := r) (s := dropRepl i s)
    have written : Written q (copyOf w.pkt) _ (endRepl w.pkt (writeQueue q (copyOf w.pkt) (memberRead w.pkt.h.epoch (w.base + w.idx) r (dropRepl i s)))) :=
      (writeQueue_written (bank.same.plain (same.plain hs))).then endRepl_kept.e_swc
    exact ⟨by rw [written.swc, bank.swc]; rfl, written.joins_of_same (same.trans bank.same)⟩
  · have elapsed := elapse_same dt s
    have filled : SameSwitch s u := hu ▸ elapsed.trans (fillG_same _ _)
    have queue : (u.queue (queueKey port.val tc)).items = .pkt p :: rest := by rw [filled.queue, hitems]
    have link : u.link port.val = s.link port.val := filled.link _
    have c2 : u.isC2 port.val = s.isC2 port.val := by rw [State.isC2, State.isC2, link]
    have glb : (elapse dt s).glb.state ≠ .cordoned := by rw [elapse_kept.e_glb]; exact hc
    have sent : transmit port.val (elapse dt s) = sendHead port.val tc p o u := by
      simp only [transmit, elapsed.up, hup, beq_false_of_ne glb, Bool.not_true, Bool.or_self, Bool.false_eq_true, if_false, ← hu]
      exact serve_pkt hpick queue ha ho
    obtain ⟨l, q⟩ := sendHead_spec (o := o) hk queue
    rw [sent]
    refine ⟨by rw [l, Link.sent, c2, link], q, fun credits => ?_⟩
    rw [l, Link.sent, if_pos credits, tget_tmod_self, link]

end

namespace Sys2Proof.Machine
open Sys2Proof

/-- A port of width 1 that is UP with a transmit bit of a lane beyond its width. -/
def strayLane : State :=
  { State.reset with plt.plat.ports := [(0, 0x10000000)], lnk := [(0, { Link.reset with st := .up, txact := 2, rxact := 1, caps := 63 })] }

end Sys2Proof.Machine

section
open Sys2Proof Sys2Proof.Machine

/-- Refutes O31: no hypothesis bounds the transmit lanes by the width. After the OFF of lane 0 at a port of width 1 whose one transmit bit is that of lane 1, as many lanes are active as the port is wide, so the port stays UP and is not DEGRADED. -/
theorem not_linkLanesComplete : ¬ Obligations.LinkLanesComplete := by
  rintro ⟨laneOff, -⟩
  obtain ⟨t, run, -, degraded⟩ := laneOff 0 0 strayLane (by decide +kernel) (by decide +kernel) (by decide +kernel) (by decide +kernel)
    (by decide +kernel) (by decide +kernel)
  have left : takeOff 0 0 strayLane = t := Host.Outcome.next.inj run
  have stays : ((takeOff 0 0 strayLane).link 0).st = .up := by decide +kernel
  rw [left] at stays
  exact absurd (stays.symm.trans degraded) (by decide)

end

/-! SUPPORT. A port that goes down, and a port in training (R86 to R90, R96, R98). -/
namespace Sys2Proof.Machine
open Sys2Proof

/-- What each step of a `forEach` keeps, the whole keeps. -/
theorem forEach_invariant {α : Type} {P : State → Prop} {l : List α} {f : α → State → State} (hf : ∀ a ∈ l, ∀ t, P t → P (f a t)) {s : State} (h : P s) :
    P (forEach l f s) := by
  induction l generalizing s with
  | nil => exact h
  | cons a r ih => exact ih (fun b hb => hf b (List.mem_cons_of_mem a hb)) (hf a List.mem_cons_self s h)

theorem Kept.link {L : List Blk} {s t : State} (k : Kept L s t) (h : Blk.lnk ∉ L) (p : Nat) : t.link p = s.link p := by
  rw [State.link, State.link, k.e_lnk h]
theorem Kept.width {L : List Blk} {s t : State} (k : Kept L s t) (h : Blk.plt ∉ L) (p : Nat) : t.width p = s.width p := by
  rw [State.width, State.width, State.entry, State.entry, k.e_plt h]
theorem Kept.lane {L : List Blk} {s t : State} (k : Kept L s t) (h : Blk.srd ∉ L) (n : Nat) : t.lane n = s.lane n := by
  rw [State.lane, State.lane, k.e_srd h]

/-! ### Down (R96, R98) -/

/-- What was on its way over a port that goes down, counted and captured as LOST. -/
def lossNoted (p : Nat) (s : State) : State :=
  let l := s.link p
  let n := b2n (!l.rxStream.isEmpty && !l.skip) + l.unacked.length + l.txPkts.length
  let s := if n == 0 then s else countN (evNo 0 (0x100 + 28) p) n s
  let s := forEach (halfPacket p s).toList (fun k s => capture .discard 28 k none s) s
  forEach l.txPkts (fun e s => capture .discard 28 e.1 (some p) s) s

theorem lossNoted_kept {p : Nat} {s : State} : Kept [.hst, .swc, .tmb, .tly, .ram, .out] s (lossNoted p s) := by
  refine Kept.trans ?_ (forEach_kept fun _ _ => capture_kept)
  exact Kept.trans (.ite (.refl s) (countN_kept.mono (by decide))) (forEach_kept fun _ _ => capture_kept)

/-- The link of a port that went down at an instant with a TSTAT: as reset, but for what training has told of the partner. -/
def Link.fallen (l : Link) (tstat wait clk : Nat) : Link :=
  let lost := (!l.rxStream.isEmpty && !l.skip) || !l.unacked.isEmpty || !l.txPkts.isEmpty || !l.txRest.isEmpty
  { Link.reset with
    tstat := BitVec.ofNat 8 tstat, disable := l.disable, pVermax := l.pVermax, pVermin := l.pVermin, pCaps := l.pCaps,
    pNode := l.pNode, pWidth := l.pWidth, pPort := l.pPort, pid := l.pid, rtt := l.rtt, retired := l.retired,
    err := if lost then setBit l.err 7 true else l.err, since := clk, wait := wait, pRetry := l.pRetry }

/-- The lanes of a port that goes down, and its link. -/
def lanesDown (p tstat wait : Nat) (s : State) : State :=
  let l := s.link p
  let s := lossNoted p s
  let s := s.setLink p (l.fallen tstat wait s.clk)
  forEach (s.lanesOf p) laneDown s

/-- The queues of a port that goes down: its scheduler begins afresh, a bundle's packets move to the other ports (R168, R172). -/
def queuesDown (p : Nat) (l : Link) (s : State) : State :=
  let s := s.modSched p (fun c => { c with vS := 0, vU := 0, g := 0, gAt := s.clk })
  let s := if l.st == .down then s else fire 15 s
  let s := if l.isUp then bundleDown p s else s
  forEach (List.range 8) (freshTags p) s

theorem queuesDown_kept {p : Nat} {l : Link} {s : State} : Kept [.hst, .fwd, .swc, .tmb, .lnd, .mem, .tly, .ram, .out] s (queuesDown p l s) := by
  refine Kept.trans ?_ (forEach_kept fun _ _ => freshTags_kept.mono (by decide))
  refine .ite (Kept.trans ?_ bundleDown_kept) ?_
  all_goals exact .ite (State.modSched_kept.mono (by decide)) (Kept.trans (State.modSched_kept.mono (by decide)) (fire_kept.mono (by decide)))

/-- The port down, before its flyovers end. -/
def portReset (p tstat wait : Nat) (s : State) : State := queuesDown p (s.link p) (lanesDown p tstat wait s)

theorem portDown_eq (p tstat wait : Nat) (s : State) : portDown p tstat wait s =
    settleFlys (if (s.link p).isUp then flyEndAll (Fly.onPort (portReset p tstat wait s) p) 5 (portReset p tstat wait s) else portReset p tstat wait s) := rfl

theorem modPath_fly (n : Nat) (f : OPath → OPath) (s : State) : (s.modPath n f).opt.fly = s.opt.fly := rfl

/-- The lanes of a port that goes down end optical calibrations, and no flyover. -/
theorem laneDown_fly (l : Nat) (s : State) : (laneDown l s).opt.fly = s.opt.fly := by
  dsimp only [laneDown]
  generalize hv : State.modLane _ l _ = v
  have idle : v.opt.fly = s.opt.fly := by rw [← hv, State.modLane_kept.e_opt (by decide), txIdle_kept.e_opt (by decide), abortRecal_kept.e_opt (by decide)]
  split
  · exact (modPath_fly _ _ v).trans idle
  · exact idle

section
variable {p tstat wait : Nat} {s : State}

theorem portReset_link : (portReset p tstat wait s).link p = (s.link p).fallen tstat wait s.clk := by
  rw [portReset, queuesDown_kept.link (by decide), lanesDown, (forEach_kept fun _ _ => laneDown_kept).link (by decide), setLink_link_self, lossNoted_kept.e_clk (by decide)]

theorem portReset_fly : (portReset p tstat wait s).opt.fly = s.opt.fly := by
  rw [portReset, queuesDown_kept.e_opt (by decide)]
  refine forEach_invariant (P := fun t => t.opt.fly = s.opt.fly) (fun l _ t h => (laneDown_fly l t).trans h) ?_
  rw [State.setLink_kept.e_opt (by decide), lossNoted_kept.e_opt (by decide)]

theorem settleFlys_none (h : s.opt.fly = []) : settleFlys s = s := by simp [settleFlys, h, forEach]
theorem flyEndAll_none {sel : Fly → Bool} {reason : Nat} (h : s.opt.fly = []) : flyEndAll sel reason s = s := by simp [flyEndAll, h, forEach]

/-- Where no flyover is held, a port goes down without any to end. -/
theorem portDown_unflown (h : s.opt.fly = []) : portDown p tstat wait s = portReset p tstat wait s := by
  have none : (portReset p tstat wait s).opt.fly = [] := portReset_fly.trans h
  rw [portDown_eq, flyEndAll_none none, ite_self, settleFlys_none none]

theorem portDown_link (h : s.opt.fly = []) : (portDown p tstat wait s).link p = (s.link p).fallen tstat wait s.clk := by
  rw [portDown_unflown h, portReset_link]

theorem retrain_link (h : s.opt.fly = []) : (retrain p tstat s).link p = (s.link p).fallen tstat (waitFor tstat) s.clk := portDown_link h

end

/-! ### What frames leave of their port (R85) -/

/-- From one link to another only the reports of freed credits moved on, as every frame sent moves them. -/
def ReportsOnly (l m : Link) : Prop := ∃ told bal next, m = { l with told := told, rxBal := bal, repNext := next }

theorem ReportsOnly.refl (l : Link) : ReportsOnly l l := ⟨l.told, l.rxBal, l.repNext, by cases l; rfl⟩
theorem ReportsOnly.trans {l m n : Link} (h : ReportsOnly l m) (k : ReportsOnly m n) : ReportsOnly l n := by
  obtain ⟨_, _, _, rfl⟩ := h
  obtain ⟨told, bal, next, rfl⟩ := k
  exact ⟨told, bal, next, rfl⟩
theorem ReportsOnly.reported (l : Link) : ReportsOnly l l.reported := ⟨_, _, _, rfl⟩

section
variable {p i ftype fseq pktoff : Nat} {body : List Byte} {s : State}

theorem sendFrame_link : (sendFrame p i ftype fseq pktoff body s).link p = (s.link p).reported := by
  rw [sendFrame, sendBlocks_kept.link (by decide), setLink_link_self]

theorem sendBlocks_out (k : Nat) (blocks : List Block) (s : State) :
    (sendBlocks k blocks s).out = .codeword k (encodeCw (s.lane k).txScr blocks).1 :: s.out := by
  unfold sendBlocks
  generalize encodeCw _ _ = e
  rfl

theorem sendFrame_out : (sendFrame p i ftype fseq pktoff body s).out =
    .codeword (p + i) (encodeCw (s.lane (p + i)).txScr (frameBlocks (frameBytes (s.link p) ftype fseq pktoff body))).1 :: s.out := by
  rw [sendFrame, sendBlocks_out, State.setLink_kept.lane (by decide), State.setLink_kept.e_out (by decide)]

theorem sendTrain_link (body : Nat → List Byte) : ReportsOnly (s.link p) ((sendTrain p body s).link p) :=
  forEach_invariant (P := fun t => ReportsOnly (s.link p) (t.link p)) (fun _ _ t h => h.trans (sendFrame_link (s := t) ▸ .reported _)) (.refl _)

theorem forEach_out_length {α : Type} {f : α → State → State} (hf : ∀ a t, (f a t).out.length = t.out.length + 1) (l : List α) (s : State) :
    (forEach l f s).out.length = s.out.length + l.length := by
  induction l generalizing s with
  | nil => rfl
  | cons a r ih => rw [show forEach (a :: r) f s = forEach r f (f a s) from rfl, ih, hf, List.length_cons]; omega

/-- One frame goes out on each lane that is not retired. -/
theorem sendTrain_out_length (body : Nat → List Byte) :
    (sendTrain p body s).out.length = s.out.length + ((List.range (s.width p)).filter (fun i => (s.laneMask p).getLsbD i)).length :=
  forEach_out_length (fun _ _ => by rw [sendFrame_out, List.length_cons]) _ _

end

/-! ### From state to state (R88) -/

section
variable {p : Nat} {s : State}

theorem enterState_link {st : LinkState} : (enterState p st s).link p = { s.link p with st := st, since := s.clk } := by
  rw [enterState, fire_kept.link (by decide), modLink_link_self]

/-- The link of a port that enters LOCK. -/
def Link.training (l : Link) (clk : Nat) : Link :=
  { l with st := .lock, since := clk, heard := 0, laneOf := [], tsend := 0, tsendAt := 0, rttNow := false, cfgOk := false }

theorem startTraining_link (hb : s.portBuilt p = true) (hd : (s.link p).disable = false) (hr : s.dist (districtOf p) ≠ .replat) :
    (startTraining p s).link p = (s.link p).training s.clk := by
  simp only [startTraining, hb, hd, beq_false_of_ne hr, Bool.not_true, Bool.or_self, Bool.false_eq_true, if_false]
  rw [(forEach_kept fun _ _ => laneLock_kept).link (by decide), fire_kept.link (by decide), modLink_link_self]
  rfl

theorem portUp_link (credit : List Nat) : ∃ l : Link, (portUp p credit s).link p = l ∧ l.isUp = true ∧ l.tstat = 1 ∧ l.nextFseq = 0 ∧ l.expect = 0 ∧
    ∀ tc, tc < 8 → tget 0 l.txBal tc = credit.getD tc 0 ∧ tget 0 l.rxBal tc = s.width p * ownCredit tc := by
  refine ⟨_, rfl, ?_⟩
  dsimp only [portUp]
  rw [settleFlys_kept.link (by decide), fire_kept.link (by decide), State.modSched_kept.link (by decide),
    (forEach_kept fun _ _ => State.modLane_kept).link (by decide), modLink_link_self]
  refine ⟨?_, rfl, rfl, rfl, fun tc h => ?_⟩
  · simp only [Link.isUp]
    split <;> rfl
  · have mem : tc ∈ List.range 8 := List.mem_range.mpr h
    exact ⟨by rw [fold_tset _ _ _ _ List.nodup_range, if_pos mem], by rw [fold_tset _ _ _ _ List.nodup_range, if_pos mem]⟩

/-! ### HELLO (R89, R90) -/

/-- The link after a HELLO record of a partner's lane. -/
def Link.heardOf (l : Link) (width lane clk : Nat) (b : List Byte) : Link :=
  let idx := u8At b 5
  let echo := u64At b 28
  let mapped := decide (idx < width)
  { l with
    heard := if mapped then setBit l.heard idx true else l.heard, laneOf := if mapped then tset 0 l.laneOf idx lane else l.laneOf,
    pVermax := BitVec.ofNat 4 (u8At b 1), pVermin := BitVec.ofNat 4 (u8At b 2), pCaps := BitVec.ofNat 6 (u8At b 3),
    pWidth := BitVec.ofNat 4 (u8At b 4), pNode := BitVec.ofNat 2 (u8At b 6), pid := BitVec.ofNat 64 (u64At b 8),
    pPort := BitVec.ofNat 11 (u16At b 16), pRetry := BitVec.ofNat 16 (u16At b 18),
    tsend := BitVec.ofNat 64 (u64At b 20), tsendAt := clk, rtt := if echo == 0 then l.rtt else BitVec.ofNat 16 (sat 0xFFFF (clk - echo - u32At b 36)),
    rttNow := l.rttNow || echo != 0 }

/-- The state after a HELLO record is noted, before its result. -/
def helloNoted (p lane : Nat) (b : List Byte) (s : State) : State := s.setLink p ((s.link p).heardOf (s.width p) lane s.clk b)

theorem helloNoted_link {lane : Nat} {b : List Byte} : (helloNoted p lane b s).link p = (s.link p).heardOf (s.width p) lane s.clk b :=
  setLink_link_self _ _ _

/-- The port goes on to CONFIG with a version and capabilities. -/
def toConfig (p v caps : Nat) (s : State) : State :=
  let s := enterState p .config (s.modLink p (fun l => { l with ver := BitVec.ofNat 4 v, caps := BitVec.ofNat 6 caps }))
  sendTrain p (fun _ => configBody (s.link p)) s

theorem toConfig_link {v caps : Nat} :
    ReportsOnly { s.link p with ver := BitVec.ofNat 4 v, caps := BitVec.ofNat 6 caps, st := .config, since := s.clk } ((toConfig p v caps s).link p) := by
  dsimp only [toConfig]
  generalize ht : enterState p .config _ = t
  have entered : t.link p = { s.link p with ver := BitVec.ofNat 4 v, caps := BitVec.ofNat 6 caps, st := .config, since := s.clk } := by
    rw [← ht, enterState_link, modLink_link_self]
    rfl
  rw [← entered]
  exact sendTrain_link _

section
variable {lane : Nat} {b : List Byte} (hst : (s.link p).st = .hello) (h0 : u8At b 0 = 1) (hlane : lane < s.width p)
include hst h0 hlane

/-- A HELLO record in HELLO: what R90 makes of it. -/
theorem takeHello_eq : takeHello p lane b s =
    let t := helloNoted p lane b s
    if u8At b 1 == 1 then retrain p 6 t
    else if u8At b 4 != s.width p then retrain p 8 t
    else
      match commonVersion (s.verRange p).1 (s.verRange p).2 (u8At b 2) (u8At b 1) with
      | none => retrain p 7 t
      | some v =>
        if !t.helloDone p then t
        else toConfig p v (Nat.land (Nat.land (s.offered p) (u8At b 3)) (if v == 2 then 0x2A else 0x3F)) t := by
  have goesOn : ¬ ((s.link p).st != .hello || u8At b 0 != 1 || decide (s.width p ≤ lane)) = true := by
    simp [hst, h0, hlane]
  exact if_neg goesOn

end

/-! ### CONFIG, CREDIT and the timeouts (R87, R88) -/

/-- The port goes on to CREDIT. -/
def toCredit (p : Nat) (s : State) : State :=
  let s := enterState p .credit s
  sendTrain p (fun _ => creditBody s p) s

theorem toCredit_st : ((toCredit p s).link p).st = .credit := by
  dsimp only [toCredit]
  obtain ⟨told, bal, next, link⟩ := sendTrain_link (p := p) (s := enterState p .credit s) (fun _ => creditBody (enterState p .credit s) p)
  rw [link, enterState_link]

section
variable {b : List Byte}

theorem takeConfig_same (hst : (s.link p).st = .config) (h0 : u8At b 0 = 2) (hv : u8At b 1 = (s.link p).ver.toNat) (hc : u8At b 2 = (s.link p).caps.toNat) :
    takeConfig p b s = toCredit p s := by
  simp only [takeConfig, hst, h0, hv, hc, bne_self_eq_false, beq_self_eq_true, Bool.or_self, Bool.and_self, Bool.false_eq_true, if_false, if_true]
  rfl

theorem takeConfig_other (hst : (s.link p).st = .config) (h0 : u8At b 0 = 2) (h : ¬ (u8At b 1 = (s.link p).ver.toNat ∧ u8At b 2 = (s.link p).caps.toNat)) :
    takeConfig p b s = retrain p 9 s := by
  simp [takeConfig, hst, h0, h]

variable (hst : (s.link p).st = .credit) (h0 : u8At b 0 = 3)
include hst h0

theorem takeCredit_ok (h : creditsOk ((List.range 8).map (fun tc => u16At b (2 + 2 * tc))) = true) :
    takeCredit p b s = portUp p ((List.range 8).map (fun tc => u16At b (2 + 2 * tc))) s := by
  simp only [takeCredit, hst, h0, h, bne_self_eq_false, Bool.or_self, Bool.false_eq_true, if_false, if_true]

theorem takeCredit_bad (h : ¬ creditsOk ((List.range 8).map (fun tc => u16At b (2 + 2 * tc))) = true) : takeCredit p b s = retrain p 0x0A s := by
  simp only [takeCredit, hst, h0, h, bne_self_eq_false, Bool.or_self, Bool.false_eq_true, if_false]

end

theorem trainingTimeout_lock (hst : (s.link p).st = .lock) (h : 1500000000 ≤ s.clk - (s.link p).since) :
    trainingTimeout p s = retrain p (if (s.lanesOf p).any (fun k => (s.lane k).sigdet) = true then 3 else 2) s := by
  simp only [trainingTimeout, hst, h, decide_true, if_true]
theorem trainingTimeout_hello (hst : (s.link p).st = .hello) (h : 100000000 ≤ s.clk - (s.link p).since) :
    trainingTimeout p s = retrain p (if (s.link p).heard = 0 then 4 else 5) s := by
  simp [trainingTimeout, hst, h]
theorem trainingTimeout_config (hst : (s.link p).st = .config) (h : 10000000 ≤ s.clk - (s.link p).since) : trainingTimeout p s = retrain p 9 s := by
  simp [trainingTimeout, hst, h]
theorem trainingTimeout_credit (hst : (s.link p).st = .credit) (h : 10000000 ≤ s.clk - (s.link p).since) : trainingTimeout p s = retrain p 0x0B s := by
  simp [trainingTimeout, hst, h]

theorem retrainDue_eq (hst : (s.link p).st = .down) (h : (s.link p).wait ≤ s.clk - (s.link p).since) : retrainDue p s = startTraining p s := by
  simp [retrainDue, hst, h]

theorem helloSend_eq (hst : (s.link p).st = .hello) (h : 1000 ≤ s.clk - (s.link p).helloAt) :
    helloSend p s = sendTrain p (helloBody s p) (s.modLink p (fun l => { l with helloAt := s.clk })) := by
  simp [helloSend, hst, h]

end

end Sys2Proof.Machine

section
open Sys2Proof Sys2Proof.Machine

/-- Settles O30: each record and each timeout either enters a state, whose frames change only the reports of credits, or takes the port down, which leaves its link as `Link.fallen` says. -/
theorem linkTrainingCompletes : Obligations.LinkTrainingCompletes := by
  refine ⟨fun p lane b v s hst h0 hlane hidx h1 h4 hv hn he => ⟨_, rfl, ?_⟩, fun p lane b s hst h0 hlane hfly => ⟨_, rfl, ?_⟩,
    fun p b s hst h0 hfly => ⟨_, rfl, ?_⟩, fun p b s hst h0 hfly => ⟨_, rfl, ?_⟩, fun dt p s hfly => ⟨_, rfl, ?_⟩,
    fun dt p s hst hw hb hd hr => ⟨_, rfl, ?_⟩, fun dt p s hst hh => ⟨_, rfl, ?_⟩⟩
  · rw [takeHello_eq hst h0 hlane]
    have heard := helloNoted_link (p := p.val) (lane := lane.val) (b := b) (s := s)
    have done : (helloNoted p.val lane.val b s).helloDone p.val = true := by
      have need : ((helloNoted p.val lane.val b s).lanesOf p.val).filter (fun k => ((helloNoted p.val lane.val b s).lane k).st != .retired) =
          (s.lanesOf p.val).filter (fun k => (s.lane k).st != .retired) := rfl
      simp [State.helloDone, heard, need, Link.heardOf, hidx, hn, he]
    have one : (u8At b 1 == 1) = false := beq_false_of_ne h1
    simp only [one, h4, hv, done, bne_self_eq_false, Bool.not_true, Bool.false_eq_true, if_false]
    generalize helloNoted p.val lane.val b s = t at heard ⊢
    obtain ⟨told, bal, next, link⟩ := toConfig_link (p := p.val) (s := t) (v := v)
      (caps := Nat.land (Nat.land (s.offered p.val) (u8At b 3)) (if (v == 2) = true then 0x2A else 0x3F))
    rw [link, heard]
    refine ⟨rfl, rfl, rfl, ?_, ?_⟩
    · simp [Link.heardOf, he]
    · simp
  · rw [takeHello_eq hst h0 hlane]
    have unflown : (helloNoted p.val lane.val b s).opt.fly = [] := hfly
    generalize helloNoted p.val lane.val b s = t at unflown ⊢
    refine ⟨fun h1 => ?_, fun h1 h4 => ?_, fun h1 h4 hv => ?_⟩
    · simp only [h1, beq_self_eq_true, if_true, retrain_link unflown]
      exact ⟨rfl, rfl⟩
    · simp only [beq_false_of_ne h1, bne_iff_ne.mpr h4, Bool.false_eq_true, if_false, if_true, retrain_link unflown]
      exact ⟨rfl, rfl⟩
    · simp only [beq_false_of_ne h1, h4, hv, bne_self_eq_false, Bool.false_eq_true, if_false, retrain_link unflown]
      exact ⟨rfl, rfl⟩
  · split
    · next same =>
      rw [takeConfig_same hst h0 same.1 same.2]
      exact toCredit_st
    · next other =>
      rw [takeConfig_other hst h0 other, retrain_link hfly]
      exact ⟨rfl, rfl⟩
  · split
    · next ok =>
      obtain ⟨l, link, up, tstat, fseq, expect, tables⟩ := portUp_link (p := p.val) (s := s) ((List.range 8).map (fun tc => u16At b (2 + 2 * tc)))
      rw [takeCredit_ok hst h0 ok, link]
      exact ⟨up, tstat, fseq, expect, fun tc h => by simpa [h] using tables tc h⟩
    · next bad =>
      rw [takeCredit_bad hst h0 bad, retrain_link hfly]
      exact ⟨rfl, rfl⟩
  · have link := elapse_kept.link (s := s) (t := elapse dt s) (by decide) p.val
    have clk := elapse_clk dt s
    have unflown : (elapse dt s).opt.fly = [] := by rw [elapse_kept.e_opt (by decide), hfly]
    have lanes : ((elapse dt s).lanesOf p.val).any (fun k => ((elapse dt s).lane k).sigdet) = (s.lanesOf p.val).any (fun k => (s.lane k).sigdet) := by
      simp only [State.lanesOf, elapse_kept.width (by decide), elapse_kept.lane (by decide)]
    generalize elapse dt s = u at link clk unflown lanes ⊢
    rw [← link, ← clk, ← lanes]
    refine ⟨fun hst late => ?_, fun hst late => ?_, fun hst late => ?_, fun hst late => ?_⟩
    · rw [trainingTimeout_hello hst late, retrain_link unflown]
      exact ⟨rfl, (apply_ite (BitVec.ofNat 8) _ _ _)⟩
    · rw [trainingTimeout_lock hst late, retrain_link unflown]
      exact ⟨rfl, (apply_ite (BitVec.ofNat 8) _ _ _)⟩
    · rw [trainingTimeout_config hst late, retrain_link unflown]
      exact ⟨rfl, rfl⟩
    · rw [trainingTimeout_credit hst late, retrain_link unflown]
      exact ⟨rfl, rfl⟩
  · have link := elapse_kept.link (s := s) (t := elapse dt s) (by decide) p.val
    have clk := elapse_clk dt s
    have built : (elapse dt s).portBuilt p.val = true := by rw [State.portBuilt, elapse_kept.width (by decide)]; exact hb
    have dist : (elapse dt s).dist (districtOf p.val) ≠ .replat := by rw [State.dist, elapse_kept.e_plt (by decide)]; exact hr
    generalize elapse dt s = u at link clk built dist ⊢
    rw [← link] at hst hw hd
    rw [← clk] at hw ⊢
    rw [retrainDue_eq hst hw]
    simp only [startTraining_link built hd dist]
    exact ⟨rfl, rfl, rfl, rfl⟩
  · have link := elapse_kept.link (s := s) (t := elapse dt s) (by decide) p.val
    have clk := elapse_clk dt s
    have mask : (elapse dt s).laneMask p.val = s.laneMask p.val := by simp only [State.laneMask, elapse_kept.width (by decide), elapse_kept.lane (by decide)]
    have width := elapse_kept.width (s := s) (t := elapse dt s) (by decide) p.val
    generalize elapse dt s = u at link clk mask width ⊢
    rw [← link] at hst hh
    rw [← clk] at hh ⊢
    rw [← mask, ← width, helloSend_eq hst hh]
    refine ⟨?_, sendTrain_out_length _⟩
    obtain ⟨told, bal, next, sent⟩ := sendTrain_link (p := p.val) (s := u.modLink p.val (fun l => { l with helloAt := u.clk })) (helloBody u p.val)
    rw [sent, modLink_link_self]

end

/-! SUPPORT. What leaves every port's state, the FSEQ it expects and the lanes it does not read (R81, R92): penalties, packets written to queues, and the end of flyovers. -/
namespace Sys2Proof.Machine
open Sys2Proof

/-- Every port keeps its state and the FSEQ it expects, and none takes a receive lane into use. -/
structure Steady (s t : State) : Prop where
  st : ∀ q, (t.link q).st = (s.link q).st
  expect : ∀ q, (t.link q).expect = (s.link q).expect
  rx : ∀ q i, (t.link q).rxact.getLsbD i = true → (s.link q).rxact.getLsbD i = true

theorem setBit_false_le {w : Nat} (v : BitVec w) (i j : Nat) (h : (setBit v i false).getLsbD j = true) : v.getLsbD j = true := by
  simp only [setBit, Bool.false_eq_true, if_false, BitVec.getLsbD_and, Bool.and_eq_true] at h
  exact h.1

theorem setBit_false_self {w : Nat} (v : BitVec w) (i : Nat) : (setBit v i false).getLsbD i = false := by
  simp only [setBit, Bool.false_eq_true, if_false, BitVec.getLsbD_and, BitVec.getLsbD_not, BitVec.getLsbD_ofNat, Nat.testBit_two_pow_self, Bool.and_true]
  by_cases hi : i < w
  · simp [hi]
  · simp [hi]

theorem setLink_link (s : State) (p q : Nat) (l : Link) : (s.setLink p l).link q = if q = p then l else s.link q := by
  split
  · next e => rw [e, setLink_link_self]
  · next e => rw [setLink_link_of_ne _ _ e]

namespace Steady
variable {s t u : State}

theorem of_lnk (h : t.lnk = s.lnk) : Steady s t := by
  have same (q : Nat) : t.link q = s.link q := by rw [State.link, State.link, h]
  exact ⟨fun q => by rw [same], fun q => by rw [same], fun q i h => by rwa [same] at h⟩
theorem refl (s : State) : Steady s s := of_lnk rfl
theorem trans (h : Steady s t) (k : Steady t u) : Steady s u :=
  ⟨fun q => (k.st q).trans (h.st q), fun q => (k.expect q).trans (h.expect q), fun q i b => h.rx q i (k.rx q i b)⟩
theorem kept {L : List Blk} (k : Kept L t u) (hl : Blk.lnk ∉ L) (h : Steady s t) : Steady s u := h.trans (of_lnk (k.e_lnk hl))
theorem ite {c : Prop} [Decidable c] (h : Steady s t) (k : Steady s u) : Steady s (if c then t else u) := by
  split
  · exact h
  · exact k
theorem ofFst {α : Type} {a : α} {x : State × α} (e : x = (t, a)) (h : Steady s x.1) : Steady s t := by
  subst e
  exact h
theorem forEach {α : Type} {l : List α} {f : α → State → State} (hf : ∀ a t, Steady t (f a t)) (h : Steady s t) : Steady s (forEach l f t) :=
  forEach_invariant (P := Steady s) (fun a _ t k => k.trans (hf a t)) h

theorem of_kept {L : List Blk} (k : Kept L s t) (hl : Blk.lnk ∉ L) : Steady s t := of_lnk (k.e_lnk hl)

/-- A change to one link that keeps its state and what it expects, and takes no lane into use. -/
theorem setLink {p : Nat} {l : Link} (st : l.st = (s.link p).st) (expect : l.expect = (s.link p).expect)
    (rx : ∀ i, l.rxact.getLsbD i = true → (s.link p).rxact.getLsbD i = true) : Steady s (s.setLink p l) := by
  refine ⟨fun q => ?_, fun q => ?_, fun q i => ?_⟩ <;> rw [setLink_link] <;> split
  · next e => rw [e, st]
  · rfl
  · next e => rw [e, expect]
  · rfl
  · next e => rw [e]; exact rx i
  · exact id

/-- The same of a change that any link may take. -/
theorem modLink {p : Nat} {f : Link → Link} (st : ∀ l, (f l).st = l.st) (expect : ∀ l, (f l).expect = l.expect)
    (rx : ∀ l i, (f l).rxact.getLsbD i = true → l.rxact.getLsbD i = true) : Steady s (s.modLink p f) :=
  setLink (st _) (expect _) (rx _)

end Steady

/-! ### Frames sent, and lanes that leave (R92, R363) -/

section
variable {s : State}

theorem sendFrame_steady {p i ftype fseq pktoff : Nat} {body : List Byte} : Steady s (sendFrame p i ftype fseq pktoff body s) := by
  rw [sendFrame]
  obtain ⟨_, _, _, reported⟩ := ReportsOnly.reported (s.link p)
  rw [reported]
  refine Steady.kept sendBlocks_kept (by decide) ?_
  exact .setLink (by dsimp only) (by dsimp only) fun _ => id

theorem sendLaneCtlFrames_steady {p action idx except : Nat} : Steady s (sendLaneCtlFrames p action idx except s) := by
  rw [sendLaneCtlFrames]
  exact .forEach (fun _ _ => sendFrame_steady) (.refl s)

/-- What the receiver no longer reads, before it says so. -/
def rxLaneOut (p i : Nat) (s : State) : State :=
  let idx := (s.link p).partnerIdx i
  let s := s.modLink p (fun l => { l with
    rxact := setBit l.rxact i false,
    laneCtl := l.laneCtl.filter (fun c => c.idx.toNat != idx) ++ [⟨false, BitVec.ofNat 3 idx, s.clk, s.clk⟩] })
  s.modLane (p + i) (fun v => { v with st := if v.st == .retired then .retired else .out })

theorem rxLaneOff_eq {p i : Nat} : rxLaneOff p i s = sendLaneCtlFrames p 1 ((s.link p).partnerIdx i) i (rxLaneOut p i s) := rfl

theorem rxLaneOut_steady {p i : Nat} : Steady s (rxLaneOut p i s) := by
  rw [rxLaneOut]
  exact Steady.kept State.modLane_kept (by decide) (.modLink (fun _ => rfl) (fun _ => rfl) fun _ _ => setBit_false_le _ _ _)

theorem rxLaneOff_steady {p i : Nat} : Steady s (rxLaneOff p i s) := by
  rw [rxLaneOff_eq]
  exact rxLaneOut_steady.trans sendLaneCtlFrames_steady

/-- A lane whose receiver was turned off is not read. -/
theorem rxLaneOff_rx {p i : Nat} : ((rxLaneOff p i s).link p).rxact.getLsbD i = false := by
  have out : ((rxLaneOut p i s).link p).rxact.getLsbD i = false := by
    rw [rxLaneOut, State.modLane_kept.link (by decide), modLink_link_self]
    exact setBit_false_self _ _
  rw [rxLaneOff_eq, Bool.eq_false_iff]
  exact fun h => Bool.eq_false_iff.mp out (sendLaneCtlFrames_steady.rx p i h)

theorem rxLaneOn_steady {p i : Nat} : Steady s (rxLaneOn p i s) := by
  rw [rxLaneOn]
  refine Steady.trans ?_ sendLaneCtlFrames_steady
  exact .modLink (fun _ => by dsimp only) (fun _ => by dsimp only) fun _ _ => id

theorem drainLane_steady {l : Nat} : Steady s (drainLane l s) := by
  unfold drainLane
  split
  · exact .refl s
  · dsimp only
    refine Steady.kept txIdle_kept (by decide) ?_
    refine Steady.trans ?_ (.modLink (fun _ => by dsimp only) (fun _ => by dsimp only) fun _ _ => id)
    exact .ite rxLaneOff_steady (.refl s)

theorem drainNow_steady {kind i : Nat} : Steady s (drainNow kind i s) := by
  unfold drainNow
  split
  · exact drainLane_steady
  · split
    · exact drainLane_steady
    · exact .refl s
  · exact .of_lnk rfl
  · dsimp only
    split <;> exact .of_lnk rfl

theorem drainPart_steady {kind i : Nat} : Steady s (drainPart kind i s) := by
  rw [drainPart]
  split
  · exact Steady.kept raiseCruise_kept (by decide) ((Steady.of_kept State.modPart_kept (by decide)).trans drainNow_steady)
  · exact Steady.kept raiseCruise_kept (by decide) (.of_kept State.modPart_kept (by decide))

theorem crossed_steady {kind i before after : Nat} : Steady s (crossed kind i before after s) := by
  have watched (t : State) : Steady t (raiseCruise 0 { (t.modPart kind i (fun p => if p.st == .inService then { p with st := .watch } else p)) with
      res.cruiseLog := cruiseLogOf 1 kind i }) := Steady.kept raiseCruise_kept (by decide) (.of_lnk rfl)
  have drained (c : Prop) [Decidable c] (t : State) : Steady t (saveScores (if c then { t with res.cruiseLog := cruiseLogOf 2 kind i }
      else drainPart kind i { t with res.cruiseLog := cruiseLogOf 2 kind i })) :=
    Steady.kept saveScores_kept (by decide) (.ite (.of_lnk rfl) (Steady.trans (t := { t with res.cruiseLog := cruiseLogOf 2 kind i }) (.of_lnk rfl) drainPart_steady))
  dsimp only [crossed]
  exact (Steady.ite (watched s) (.refl s)).trans (.ite (drained _ _) (.refl _))

theorem addPenalty_steady {kind i w : Nat} : Steady s (addPenalty kind i w s) := by
  rw [addPenalty]
  exact (Steady.of_kept State.modPart_kept (by decide)).trans crossed_steady

end

/-! ### Packets written to queues, and control packets sent (R84, R132) -/

section
variable {s : State}

theorem returnCredit_steady {p : Pkt} : Steady s (returnCredit p s) := by
  rw [returnCredit]
  refine .ite (.refl s) ?_
  exact .modLink (fun _ => by dsimp only) (fun _ => by dsimp only) fun _ _ => id

theorem discard_steady {dcode : Nat} {p : Pkt} {out : Option Nat} : Steady s (discard dcode p out s) := by
  rw [discard]
  refine Steady.trans ?_ returnCredit_steady
  exact ((Steady.of_kept countDiscard_kept (by decide)).kept capture_kept (by decide)).kept preLeave_kept (by decide) |>.kept leaveCount_kept (by decide)

theorem mergeInto_steady {e : CombEnt} {port : Nat} {p : Pkt} : Steady s (mergeInto e port p s) := by
  have merged : Steady s (modComb e.id (fun e => { e with reqs := e.reqs ++ [{ p with cred := false, counted := false }] })
      (returnCredit p (leaveCount p (preLeave p (count (evNo 32 0x002 port) s))))) := by
    refine Steady.kept modComb_kept (by decide) (Steady.trans ?_ returnCredit_steady)
    exact ((Steady.of_kept count_kept (by decide)).kept preLeave_kept (by decide)).kept leaveCount_kept (by decide)
  rw [mergeInto]
  exact .ite (merged.kept closeComb_kept (by decide)) merged

theorem putQueue_steady {port : Nat} {mk : Pkt → QItem} {pre : List Nat} {p : Pkt} : Steady s (putQueue port mk pre p s) := by
  have credited : Steady s (returnCredit p (if p.counted then s else enterCount p.h.epoch s)) :=
    Steady.trans (.ite (.refl s) (.of_kept enterCount_kept (by decide))) returnCredit_steady
  dsimp only [putQueue]
  generalize returnCredit p _ = t at credited ⊢
  refine Steady.kept preLeave_kept (by decide) (Steady.kept pushMarker_kept (by decide) (Steady.kept capture_kept (by decide) ?_))
  exact ((credited.kept pushItem_kept (by decide)).kept count_kept (by decide)).kept countN_kept (by decide)

theorem schedOverflow_steady {port : Nat} {p : Pkt} : Steady s (schedOverflow port p s) := by
  rw [schedOverflow]
  refine Steady.trans ?_ discard_steady
  exact ((Steady.of_kept count_kept (by decide)).kept modMap_kept (by decide)).kept raiseSwc_kept (by decide)

/-- The copies of a SYNC or fence marker on every port of a bundle. -/
theorem writeMarkerCopies_steady {spoint b : Nat} {p : Pkt} : Steady s (writeMarkerCopies spoint b p s) := by
  dsimp only [writeMarkerCopies]
  refine Steady.trans ?_ returnCredit_steady
  refine Steady.kept leaveCount_kept (by decide) (Steady.kept preLeave_kept (by decide) (.forEach (fun port t => ?_) ?_))
  · have numbered (c : SprayCtr) (c2 : Bool) : Steady t (nextSeq spoint c c2 t).1 := .of_kept nextSeq_kept (by decide)
    refine .ite ((numbered _ _).trans discard_steady) (.ite ?_ ((numbered _ _).trans schedOverflow_steady))
    exact ((numbered _ _).kept noteWrite_kept (by decide)).trans putQueue_steady
  · exact (Steady.of_kept openSpray_kept (by decide)).trans (.of_lnk rfl)

theorem writeQueue_steady {port : Nat} {p : Pkt} : Steady s (writeQueue port p s) := by
  have noted : Steady s (noteWrite port p s) := .of_kept noteWrite_kept (by decide)
  dsimp only [writeQueue]
  split
  · exact mergeInto_steady
  · refine .ite (noted.trans putQueue_steady) (.ite ((noted.kept count_kept (by decide)).trans putQueue_steady) ?_)
    refine Steady.trans (Steady.kept count_kept (by decide) (noted.trans ?_)) putQueue_steady
    exact .of_lnk rfl

theorem writeHop_steady {spoint : Nat} {hop : Hop} {port : Nat} {p : Pkt} : Steady s (writeHop spoint hop port p s) := by
  unfold writeHop
  split
  · next b =>
    split
    · exact (Steady.of_kept useBucket_kept (by decide)).trans writeQueue_steady
    · have sprayed : (openSpray spoint p.h b s).1.lnk = s.lnk := openSpray_kept.e_lnk (by decide)
      dsimp only
      generalize openSpray spoint p.h b s = o at sprayed ⊢
      have numbered : (nextSeq spoint o.2 (o.1.bundleC2 b) o.1).1.lnk = s.lnk := (nextSeq_kept.e_lnk (by decide)).trans sprayed
      split
      · refine Steady.trans ?_ writeQueue_steady
        refine Steady.kept useBucket_kept (by decide) ?_
        exact .of_lnk sprayed
      · refine Steady.trans ?_ writeQueue_steady
        generalize nextSeq spoint o.2 (o.1.bundleC2 b) o.1 = n at numbered ⊢
        exact .of_lnk numbered
  · exact writeQueue_steady

theorem writeOut_steady {spoint : Nat} {hop : Hop} {port : Nat} {p : Pkt} : Steady s (writeOut spoint hop port p s) := by
  unfold writeOut
  split
  · exact writeMarkerCopies_steady
  · exact writeHop_steady

theorem originate_steady {stamp : Bool} {notBefore : Nat} {hop : Hop} {p : Pkt} : Steady s (originate stamp notBefore hop p s) := by
  rw [originate]
  refine .ite discard_steady (.ite (.refl s) (.ite discard_steady ?_))
  split
  · exact writeOut_steady
  · exact .of_kept waitProd_kept (by decide)

/-! ### The tables read (R133, R134) -/

theorem eccError_steady {tbl : Nat} {b : Bool} {i : Nat} : Steady s (eccError tbl b i s) := by
  rw [eccError]
  refine Steady.trans ?_ addPenalty_steady
  refine Steady.kept raiseFwd_kept (by decide) ?_
  exact .of_lnk rfl

theorem correctAt_steady {tbl : Nat} {b : Bool} {i : Nat} : Steady s (correctAt tbl b i s) := .of_lnk (correctAt_bank tbl b i s).lnk

theorem readEnts_steady {b : Bool} (l : List (Nat × Nat)) : Steady s (readEnts b l s).1 := by
  induction l generalizing s with
  | nil => exact .refl s
  | cons e r ih =>
    rw [readEnts]
    split
    · exact eccError_steady
    · exact correctAt_steady.trans ih

theorem readTrie_steady {b : Bool} {eid : Word} {district : Nat} : Steady s (readTrie b eid district s).1 := by
  have walked := readEnts_steady (s := s) (b := b) (trieWalk s b eid).reads
  dsimp only [readTrie]
  split
  · next t h => exact walked.ofFst h
  · next t h =>
    have counted : Steady s (countN (evNo 12 0x011 district) (trieWalk s b eid).errs t) := Steady.kept countN_kept (by decide) (walked.ofFst h)
    split
    · exact counted
    · next i _ =>
      have last := counted.trans (readEnts_steady (b := b) [(5, i)])
      split
      · next u h => exact last.ofFst h
      · next u h => exact last.ofFst h

theorem resolve_steady {b : Bool} {eid : Word} {district : Nat} : Steady s (resolve b eid district s).1 := by
  have read := readEnts_steady (s := s) (b := b) [(6, eid.toNat)]
  dsimp only [resolve]
  split
  · next t h => exact read.ofFst h
  · next t h =>
    have walked : Steady s (readTrie b eid district t).1 := (read.ofFst h).trans readTrie_steady
    split
    · split
      · exact read.ofFst h
      · exact walked
    · exact walked

theorem lookupDst_steady {b : Bool} {h : Hdr} {district : Nat} : Steady s (lookupDst s b h district).1 := by
  have read := readEnts_steady (s := s) (b := b) [(6, h.dst.toNat)]
  dsimp only [lookupDst]
  split
  · next t e => exact read.ofFst e
  · next t e =>
    split
    · exact read.ofFst e
    · have resolved : Steady s (resolve b h.dst district t).1 := (read.ofFst e).trans resolve_steady
      split
      · next e => exact resolved.ofFst e
      · next e => exact resolved.ofFst e

theorem lookupSrc_steady {b : Bool} {h : Hdr} {district : Nat} : Steady s (lookupSrc s b h district).1 := by
  have read := readEnts_steady (s := s) (b := b) [(6, h.src.toNat)]
  dsimp only [lookupSrc]
  split
  · next t e => exact read.ofFst e
  · next t e =>
    split
    · exact read.ofFst e
    · split
      · have group := (read.ofFst e).trans (readEnts_steady (b := b) [(8, h.ctx % 65536)])
        split
        · next e => exact group.ofFst e
        · next e =>
          split
          · exact group.ofFst e
          · exact group.ofFst e
      · exact (read.ofFst e).trans lookupDst_steady

theorem lookup_steady {h : Hdr} {district : Nat} : Steady s (lookup s h district).1 := by
  dsimp only [lookup]
  split
  · exact .refl s
  · split
    · exact .refl s
    · split
      · exact lookupSrc_steady
      · have job := readEnts_steady (s := s) (b := h.epoch) [(10, h.job.toNat)]
        split
        · next e => exact job.ofFst e
        · next e =>
          split
          · exact job.ofFst e
          · split
            · exact job.ofFst e
            · exact (job.ofFst e).trans lookupSrc_steady

theorem sendControl_steady {district : Nat} {dst : Word} {opcode arg ctx job instant : Nat} :
    Steady s (sendControl district dst opcode arg ctx job instant s) := by
  dsimp only [sendControl]
  refine .ite (.refl s) (.ite discard_steady ?_)
  have looked := lookup_steady (s := s) (h := ctlHdr s dst) (district := district)
  split
  · next e => exact (looked.ofFst e).trans discard_steady
  · next e => exact looked.ofFst e
  · next e => exact (looked.ofFst e).trans originate_steady
  · next e => exact looked.ofFst e

/-! ### Flyovers that end (R344, R346, R347) -/

theorem flyNotice_steady {opcode num instant : Nat} : Steady s (flyNotice opcode num instant s) := by
  rw [flyNotice]
  exact Steady.trans sendControl_steady sendControl_steady

/-- A receiver that asks for its lane back does not read it yet. -/
theorem rejoin_steady {l : Nat} : Steady s (rejoin l s) := by
  unfold rejoin
  split
  · exact .refl s
  · exact .ite rxLaneOn_steady (.refl s)

theorem flyLanesBack_steady {num : Nat} : Steady s (flyLanesBack num s) := by
  rw [flyLanesBack]
  exact Steady.trans rejoin_steady rejoin_steady

theorem flyEnd_steady {num reason : Nat} {down : Bool} : Steady s (flyEnd num reason down s) := by
  dsimp only [flyEnd]
  have told : Steady s (flyNotice 0x12 num 0 s) := flyNotice_steady
  generalize flyNotice 0x12 num 0 s = t at told ⊢
  refine .ite (.refl s) ?_
  have ended (u : State) (h : Steady s u) : Steady s (settleFlys (flyLanesBack num (u.modFly num (fun f => { f with st := .returning })))) :=
    Steady.kept settleFlys_kept (by decide) ((h.kept State.modFly_kept (by decide)).trans flyLanesBack_steady)
  have noted (f : Fly → Fly) : Steady s (t.modFly num f) := told.kept State.modFly_kept (by decide)
  generalize hu : t.modFly num _ = u
  have reasoned : Steady s u := hu ▸ noted _
  refine Steady.trans ?_ (.ite (.of_kept raiseOpt_kept (by decide)) (.refl _))
  refine .ite (reasoned.kept State.modFly_kept (by decide)) (ended _ (.ite ?_ (reasoned.kept flyRelease_kept (by decide))))
  exact (reasoned.kept State.modPath_kept (by decide)).kept State.modPath_kept (by decide)

theorem flyEndAll_steady {sel : Fly → Bool} {reason : Nat} : Steady s (flyEndAll sel reason s) := by
  rw [flyEndAll]
  exact .forEach (fun _ _ => flyEnd_steady) (.refl s)

/-! ### A lane that is lost (R92, R104) -/

/-- A port that goes down reads no lane, whatever flyovers end with it. -/
theorem retrain_rx {p tstat i : Nat} : ((retrain p tstat s).link p).rxact.getLsbD i = false := by
  have reset : ((portReset p tstat (waitFor tstat) s).link p).rxact.getLsbD i = false := by
    rw [portReset_link]
    exact BitVec.getLsbD_zero
  have ended : Steady (portReset p tstat (waitFor tstat) s) (retrain p tstat s) := by
    rw [retrain, portDown_eq]
    exact Steady.kept settleFlys_kept (by decide) (.ite flyEndAll_steady (.refl _))
  rw [Bool.eq_false_iff]
  exact fun h => Bool.eq_false_iff.mp reset (ended.rx p i h)

/-- A receive lane of a port that is not read any more, or a port as steady as before. -/
def StaysOrStops (p i : Nat) (s t : State) : Prop := (t.link p).rxact.getLsbD i = false ∨ Steady s t

theorem StaysOrStops.then {p i : Nat} {t u : State} (h : StaysOrStops p i s t) (k : Steady t u) : StaysOrStops p i s u := by
  rcases h with stops | stays
  · exact .inl (Bool.eq_false_iff.mpr fun b => Bool.eq_false_iff.mp stops (k.rx p i b))
  · exact .inr (stays.trans k)
theorem Steady.staysOrStops {p i : Nat} {t u : State} (h : Steady s t) (k : StaysOrStops p i t u) : StaysOrStops p i s u := by
  rcases k with stops | stays
  · exact .inl stops
  · exact .inr (h.trans stays)

theorem laneLost_stops {p i : Nat} : StaysOrStops p i s (laneLost p i s) := by
  dsimp only [laneLost]
  split
  · exact .inr (.refl s)
  · split
    · exact .inl rxLaneOff_rx
    · exact StaysOrStops.then (.inl retrain_rx) addPenalty_steady

theorem Kept.portOfLane {L : List Blk} {s t : State} (k : Kept L s t) (h : Blk.plt ∉ L) (l : Nat) : t.portOfLane l = s.portOfLane l := by
  simp only [State.portOfLane, State.portBuilt, k.width h]
  rfl

theorem lockLost_stops {p l : Nat} (hp : s.portOfLane l = some p) : StaysOrStops p (l - p) s (lockLost l s) := by
  dsimp only [lockLost]
  generalize hu : State.modLane s l _ = u
  have start : Kept [.srd, .eye] s (disturbEye l u) := hu ▸ Kept.trans (State.modLane_kept.mono (by decide)) (disturbEye_kept.mono (by decide))
  have port : (disturbEye l u).portOfLane l = some p := (start.portOfLane (by decide) l).trans hp
  have steady : Steady s (disturbEye l u) := .of_kept start (by decide)
  rw [port]
  dsimp only
  split
  · refine Steady.staysOrStops ?_ laneLost_stops
    exact (steady.kept count_kept (by decide)).trans addPenalty_steady
  · split
    · exact .inr (steady.kept State.modLane_kept (by decide))
    · split
      · exact .inr (steady.kept State.modLane_kept (by decide))
      · exact .inr steady

/-- A codeword on a lane that holds lock: where it costs the lane its lock or its place, the port no longer reads the lane. -/
theorem lockedOne_stops {p l n : Nat} {valid : Bool} (hp : s.portOfLane l = some p) : StaysOrStops p (l - p) s (lockedOne l valid n s) := by
  dsimp only [lockedOne]
  generalize hu : State.modLane s l _ = u
  have start : Kept [.srd] s u := hu ▸ State.modLane_kept
  generalize ht : (if (!valid) = true then _ else _) = t
  have scored : Kept [.hst, .lnk, .srd, .swc, .lnd, .mil, .res, .tly, .nv, .out] u t := by
    rw [← ht]
    have noted (e w : Nat) : Kept [.hst, .lnk, .srd, .swc, .lnd, .mil, .res, .tly, .nv, .out] u (addPenalty 0 l w (count e u)) :=
      Kept.trans (count_kept.mono (by decide)) (addPenalty_kept.mono (by decide))
    exact .ite (noted _ _) (.ite (noted _ _) (.refl u))
  have steady : Steady s t := by
    rw [← ht]
    have noted : Steady s u := .of_kept start (by decide)
    refine .ite ((noted.kept count_kept (by decide)).trans addPenalty_steady) (.ite ((noted.kept count_kept (by decide)).trans addPenalty_steady) noted)
  split
  · exact steady.staysOrStops (lockLost_stops (((scored.portOfLane (by decide) l).trans (start.portOfLane (by decide) l)).trans hp))
  · exact .inr steady

/-- Without a signal the codeword is uncorrectable. -/
theorem takeCodeword_silent {p l : Nat} (hp : s.portOfLane l = some p) :
    (takeCodeword l none s).1 = .invalid ∧ StaysOrStops p (l - p) s (takeCodeword l none s).2 := by
  refine ⟨rfl, ?_⟩
  dsimp only [takeCodeword]
  generalize hu : State.modLane s l _ = u
  have start : Kept [.srd] s u := hu ▸ State.modLane_kept
  have steady : Steady s u := .of_kept start (by decide)
  split
  · exact .inr (steady.kept dropRetained_kept (by decide))
  · split
    · exact steady.staysOrStops (lockedOne_stops ((start.portOfLane (by decide) l).trans hp))
    · exact .inr (steady.kept State.modLane_kept (by decide))

/-! ### Frames lost (R81) -/

theorem badFrame_link {p : Nat} : (badFrame p s).link p = { s.link p with nak := true, early := [], err := setBit (s.link p).err 0 true } := by
  rw [badFrame, setLnkErr, modLink_link_self, modLink_link_self, countX_kept.link (by decide)]

theorem isUp_of_st {l m : Link} (h : m.st = l.st) : m.isUp = l.isUp := by rw [Link.isUp, Link.isUp, h]

/-- A frame is lost where the port is up and reads the lane: it is bad, after a penalty. -/
theorem loseFrame_read {p i : Nat} (up : (s.link p).isUp = true) (rx : (s.link p).rxact.getLsbD i = true) :
    ∃ t, loseFrame p i s = badFrame p t ∧ Steady s t :=
  ⟨_, if_pos (Bool.and_eq_true_iff.mpr ⟨up, rx⟩), addPenalty_steady⟩
theorem loseFrame_unread {p i : Nat} (rx : (s.link p).rxact.getLsbD i = false) : loseFrame p i s = s :=
  if_neg (by rw [rx, Bool.and_false]; exact Bool.false_ne_true)

/-- A frame lost on a lane that the port still reads: NAK, and every later frame is discarded. -/
theorem loseFrame_spec {p i : Nat} {t : State} (h : StaysOrStops p i s t) (hup : (s.link p).isUp = true)
    (reads : ((loseFrame p i t).link p).rxact.getLsbD i = true) :
    ((loseFrame p i t).link p).nak = true ∧ ((loseFrame p i t).link p).early = [] ∧ ((loseFrame p i t).link p).err.getLsbD 0 = true ∧
      ((loseFrame p i t).link p).expect = (s.link p).expect := by
  by_cases rx : (t.link p).rxact.getLsbD i = true
  · have stays : Steady s t := h.resolve_left (by simp [rx])
    obtain ⟨u, lost, steady⟩ := loseFrame_read ((isUp_of_st (stays.st p)).trans hup) rx
    rw [lost, badFrame_link]
    exact ⟨rfl, rfl, getLsbD_setBit_self _ (by decide), (steady.expect p).trans (stays.expect p)⟩
  · rw [loseFrame_unread (Bool.eq_false_iff.mpr rx)] at reads
    exact absurd reads rx

end

end Sys2Proof.Machine

/-! SUPPORT. Frames on a port: the codeword of a slot, a frame received, replays and the skew window (R79 to R85, R96). -/
namespace Sys2Proof.Machine
open Sys2Proof

/-! ### A codeword that the receiver reads (R103, R104) -/

section
variable {p i : Nat} {x : Symbols} {c : Content} {s : State}

/-- A codeword that a locked receiver reads goes on as what it carries, noted on the lane. -/
theorem takeCodeword_reads (h : Reads s p i x c) : ∃ u n, Kept [.srd] s u ∧ (u.lane (p + i)).hist = (s.lane (p + i)).hist ∧ (c ≠ .invalid → n ≤ 8) ∧
    takeCodeword (p + i) (some x) s = (c, lockedOne (p + i) (c != .invalid) n u) := by
  obtain ⟨-, -, st, run, exit, retain, reads, few, -⟩ := h
  refine ⟨s.modLane (p + i) (fun v => { v with sigdet := true, rxScr := ((s.lane (p + i)).decode x).2.2 }), ((s.lane (p + i)).decode x).2.1,
    State.modLane_kept, by rw [modLane_lane_self], few, ?_⟩
  dsimp only [takeCodeword]
  simp only [exit, retain, st, Lane.hasLock, run, reads, decide_true, if_true, Bool.false_or]
  rfl

theorem reads_invalid (h : Reads s p i x .invalid) : ∃ t, StaysOrStops p i s t ∧ receiveIf Content.isFrame (p + i) x s = loseFrame p i t := by
  obtain ⟨u, n, kept, -, -, taken⟩ := takeCodeword_reads h
  obtain ⟨-, port, -, -, -, -, reads, -, -⟩ := h
  refine ⟨lockedOne (p + i) false n u, ?_, ?_⟩
  · have stops := lockedOne_stops (n := n) (valid := false) ((kept.portOfLane (by decide) (p + i)).trans port)
    rw [Nat.add_sub_cancel_left] at stops
    exact (Steady.of_kept kept (by decide)).staysOrStops stops
  · simp only [receiveIf, reads, Content.isFrame, if_true, receive, port, taken, takeContent, Nat.add_sub_cancel_left]
    rfl

/-- A valid codeword with few corrections, where few of the last 64 were invalid, is noted on its lane alone. -/
theorem lockedOne_valid {l n : Nat} (few : n ≤ 8) (hits : popcount ((s.lane l).hist <<< 1).toNat 64 < 8) : Kept [.srd] s (lockedOne l true n s) := by
  dsimp only [lockedOne]
  generalize hu : State.modLane s l _ = u
  have hist : (u.lane l).hist = (s.lane l).hist <<< 1 := by
    rw [← hu, modLane_lane_self]
    exact BitVec.or_zero
  have score : ¬ 9 ≤ n := by omega
  have holds : ¬ 8 ≤ popcount (u.lane l).hist.toNat 64 := by rw [hist]; omega
  simp only [Bool.not_true, Bool.false_eq_true, if_false, score, holds, decide_false]
  rw [← hu]
  exact State.modLane_kept

theorem reads_frame {b : List Byte} (h : Reads s p i x (.frame b)) : ∃ t, Kept [.srd] s t ∧ receiveIf Content.isFrame (p + i) x s = takeAnyFrame p i b t := by
  obtain ⟨u, n, kept, hist, few, taken⟩ := takeCodeword_reads h
  obtain ⟨-, port, -, -, -, -, reads, -, hits⟩ := h
  have hits' : popcount ((u.lane (p + i)).hist <<< 1).toNat 64 < 8 := by
    rw [hist]
    rw [if_neg (by simp)] at hits
    exact (BitVec.or_zero (x := (s.lane (p + i)).hist <<< 1)) ▸ hits
  refine ⟨lockedOne (p + i) true n u, kept.trans (lockedOne_valid (few (by simp)) hits'), ?_⟩
  simp only [receiveIf, reads, Content.isFrame, if_true, receive, port, taken, takeContent, Nat.add_sub_cancel_left]
  rfl

end

/-! ### A frame received (R79, R81, R85) -/

/-- The link after one credit return. -/
def Link.returned (l : Link) (tc cnt : Nat) : Link :=
  let d := (BitVec.ofNat 13 cnt - tget 0 l.seen tc).toNat
  { l with seen := tset 0 l.seen tc (BitVec.ofNat 13 cnt), txBal := if creditClass tc then tmod 0 l.txBal tc (· + d) else l.txBal }

theorem returned_seen_self (l : Link) (tc cnt : Nat) : tget 0 (l.returned tc cnt).seen tc = BitVec.ofNat 13 cnt := tget_tset_self _ _ _ _
theorem returned_txBal_self (l : Link) {tc : Nat} (cnt : Nat) (h : creditClass tc = true) :
    tget 0 (l.returned tc cnt).txBal tc = tget 0 l.txBal tc + (BitVec.ofNat 13 cnt - tget 0 l.seen tc).toNat := by
  dsimp only [Link.returned]
  rw [if_pos h, tget_tmod_self]
theorem returned_seen_of_ne (l : Link) {tc k : Nat} (cnt : Nat) (h : k ≠ tc) : tget 0 (l.returned tc cnt).seen k = tget 0 l.seen k := tget_tset_of_ne _ _ _ h
theorem returned_txBal_of_ne (l : Link) {tc k : Nat} (cnt : Nat) (h : k ≠ tc) : tget 0 (l.returned tc cnt).txBal k = tget 0 l.txBal k := by
  dsimp only [Link.returned]
  split
  · exact tget_tmod_of_ne _ _ _ h
  · rfl

/-- The link after the two credit returns of a frame. -/
def Link.returnedBy (l : Link) (b : List Byte) : Link :=
  (l.returned (fld (u32At b 8) 29 3) (fld (u32At b 8) 16 13)).returned (fld (u32At b 8) 13 3) (fld (u32At b 8) 0 13)

/-- Credit returns change the counts of credits alone. -/
theorem returnedBy_counts (l : Link) (b : List Byte) : ∃ seen bal, l.returnedBy b = { l with seen := seen, txBal := bal } := ⟨_, _, rfl⟩

/-- The state after the two credit returns of a frame. -/
def creditsTaken (p : Nat) (b : List Byte) (s : State) : State :=
  takeReturn p (fld (u32At b 8) 13 3) (fld (u32At b 8) 0 13) (takeReturn p (fld (u32At b 8) 29 3) (fld (u32At b 8) 16 13) s)

section
variable {p i : Nat} {b : List Byte} {s : State}

theorem takeReturn_link {tc cnt : Nat} : (takeReturn p tc cnt s).link p = (s.link p).returned tc cnt := modLink_link_self _ _ _
theorem creditsTaken_link : (creditsTaken p b s).link p = (s.link p).returnedBy b := by
  rw [creditsTaken, takeReturn_link, takeReturn_link]
  rfl
theorem creditsTaken_clk : (creditsTaken p b s).clk = s.clk := by
  rw [creditsTaken, takeReturn_kept.e_clk (by decide), takeReturn_kept.e_clk (by decide)]

/-- Where no frame waits for an acknowledgement, ACKSEQ and NAK change nothing. -/
theorem takeAck_idle {ack : Half} {nak : Bool} (h : (s.link p).unacked = []) : takeAck p ack nak s = s := by
  simp [takeAck, h, ackTo, findPos, State.mayReplay]

variable (hup : (s.link p).isUp = true) (hrx : (s.link p).rxact.getLsbD i = true) (hi : frameIntact b = true) (hack : (s.link p).unacked = [])
include hup hrx hi hack

/-- An intact frame on a lane in use, where no frame waits for an acknowledgement: its credits, its body, its record. -/
theorem takeAnyFrame_eq : takeAnyFrame p i b s =
    let t := creditsTaken p b s
    let u := if (fld (u32At b 0) 28 4 == 1 && (t.link p).isUp) = true then
        takeData p ⟨BitVec.ofNat 16 (u32At b 0), BitVec.ofNat 16 (fld (u32At b 12) 16 16), slice b 16 620⟩ t
      else t
    match fld (u32At b 0) 28 4 with
    | 2 => takeRecord p i (slice b 16 620) u
    | 3 => takeLaneCtl p (slice b 16 620) u
    | _ => u := by
  simp only [takeAnyFrame, takeFrame, hup, hrx, hi, takeAck_idle hack, Bool.not_true, Bool.or_self, Bool.false_eq_true, if_false]
  rfl

/-- An intact frame that is not DATA returns credits only. -/
theorem takeAnyFrame_idle (ht : fld (u32At b 0) 28 4 = 0) : takeAnyFrame p i b s = creditsTaken p b s := by
  rw [takeAnyFrame_eq hup hrx hi hack]
  simp [ht]

/-- An intact DATA frame returns credits, and then its body is taken. -/
theorem takeAnyFrame_data (ht : fld (u32At b 0) 28 4 = 1) : takeAnyFrame p i b s =
    takeData p ⟨BitVec.ofNat 16 (u32At b 0), BitVec.ofNat 16 (fld (u32At b 12) 16 16), slice b 16 620⟩ (creditsTaken p b s) := by
  have up : ((creditsTaken p b s).link p).isUp = true := by rw [creditsTaken_link]; exact hup
  rw [takeAnyFrame_eq hup hrx hi hack]
  simp [ht, up]

end

/-! ### The command that brings a frame (R81) -/

section
variable {p : Port} {i : Fin 8} {x : Symbols} {b : List Byte} {s : State}

/-- An uncorrectable codeword is a frame lost, after the lane has noted it. -/
theorem exec_invalid (reads : Reads s p.val i.val x .invalid) : ∃ t, StaysOrStops p.val i.val s t ∧
    exec (.linkFrameReceived p i true x) s = .next (loseFrame p.val i.val t) := by
  obtain ⟨t, stops, received⟩ := reads_invalid reads
  exact ⟨t, stops, congrArg Host.Outcome.next ((if_neg (Nat.not_le.mpr reads.1)).trans received)⟩

/-- A codeword's time without a signal is one too. -/
theorem exec_silent (hi : i.val < s.width p.val) (hp : s.portOfLane (p.val + i.val) = some p.val) : ∃ t, StaysOrStops p.val i.val s t ∧
    exec (.linkFrameReceived p i false x) s = .next (loseFrame p.val i.val t) := by
  obtain ⟨silent, stops⟩ := takeCodeword_silent hp
  rw [Nat.add_sub_cancel_left] at stops
  have received : receive (p.val + i.val) none s = loseFrame p.val i.val (takeCodeword (p.val + i.val) none s).2 := by
    simp only [receive, hp, takeContent, Nat.add_sub_cancel_left, silent]
  exact ⟨_, stops, congrArg Host.Outcome.next ((if_neg (Nat.not_le.mpr hi)).trans received)⟩

variable (reads : Reads s p.val i.val x (.frame b)) (hup : (s.link p.val).isUp = true) (hrx : (s.link p.val).rxact.getLsbD i.val = true)
  (hlen : b.length = 640) (hcrc : u32At b 636 = crc32c (b.take 636)) (hack : (s.link p.val).unacked = [])
include reads hup hrx hlen hcrc hack

theorem exec_idleFrame (ht : fld (u32At b 0) 28 4 = 0) : ∃ u, u.link p.val = (s.link p.val).returnedBy b ∧
    exec (.linkFrameReceived p i true x) s = .next u := by
  obtain ⟨t, kept, received⟩ := reads_frame reads
  have intact : frameIntact b = true := by simp [frameIntact, hlen, hcrc]
  rw [← kept.link (by decide)] at hup hrx hack ⊢
  rw [takeAnyFrame_idle hup hrx intact hack ht] at received
  exact ⟨_, creditsTaken_link, congrArg Host.Outcome.next ((if_neg (Nat.not_le.mpr reads.1)).trans received)⟩

theorem exec_dataFrame (ht : fld (u32At b 0) 28 4 = 1) : ∃ u, u.link p.val = (s.link p.val).returnedBy b ∧ u.clk = s.clk ∧
    exec (.linkFrameReceived p i true x) s =
      .next (takeData p.val ⟨BitVec.ofNat 16 (u32At b 0), BitVec.ofNat 16 (fld (u32At b 12) 16 16), slice b 16 620⟩ u) := by
  obtain ⟨t, kept, received⟩ := reads_frame reads
  have intact : frameIntact b = true := by simp [frameIntact, hlen, hcrc]
  rw [← kept.link (by decide)] at hup hrx hack ⊢
  rw [takeAnyFrame_data hup hrx intact hack ht] at received
  exact ⟨_, creditsTaken_link, creditsTaken_clk.trans (kept.e_clk (by decide)), congrArg Host.Outcome.next ((if_neg (Nat.not_le.mpr reads.1)).trans received)⟩

end

/-! ### A DATA frame in order, and one that comes early (R81) -/

section
variable {p : Nat} {f : DataFrame} {s : State}

theorem takeData_early (hf : f.fseq ≠ (s.link p).expect) (hn : (s.link p).nak = false) (hd : (f.fseq - (s.link p).expect).toNat < 32768)
    (he : (s.link p).early = []) : (takeData p f s).link p = { s.link p with early := [(f, s.clk)] } := by
  have near : (f.fseq - (s.link p).expect).toNat < 2 ^ 15 := hd
  simp only [takeData, beq_false_of_ne hf, hn, near, he, List.any_nil, Bool.not_false, decide_true, Bool.and_self, Bool.false_eq_true, if_false, if_true,
    List.nil_append, setLink_link_self]

/-- Idle bytes of a DATA body are passed over a word at a time. -/
theorem takeStream_zeros (n : Nat) {fuel : Nat} (hf : n < fuel) (h : (s.link p).rxStream = zeros (4 * n)) :
    (takeStream p fuel s).link p = { s.link p with rxStream := [] } := by
  induction n generalizing fuel s with
  | zero =>
    obtain ⟨k, rfl⟩ := Nat.exists_eq_succ_of_ne_zero (Nat.ne_of_gt hf)
    have empty : (s.link p).rxStream = [] := h
    simp only [takeStream, empty, List.length_nil, Nat.zero_lt_succ, if_true]
    rw [← empty]
  | succ n ih =>
    obtain ⟨k, rfl⟩ := Nat.exists_eq_succ_of_ne_zero (Nat.ne_zero_of_lt hf)
    have split : zeros (4 * (n + 1)) = [0, 0, 0, 0] ++ zeros (4 * n) := by rw [Nat.mul_succ, Nat.add_comm, zeros, List.replicate_add]; rfl
    have long : ¬ (zeros (4 * (n + 1))).length < 4 := by rw [split, List.length_append]; exact Nat.not_lt.mpr (Nat.le_add_right 4 _)
    have word : u32At (zeros (4 * (n + 1))) 0 = 0 := by rw [split]; rfl
    have rest : (zeros (4 * (n + 1))).drop 4 = zeros (4 * n) := by rw [split]; rfl
    simp only [takeStream, h, long, word, rest, if_false, beq_self_eq_true, if_true]
    rw [ih (Nat.lt_of_succ_lt_succ hf) (by rw [setLink_link_self]), setLink_link_self]

/-- A body of idle bytes alone leaves the stream empty. -/
theorem takeBody_zeros (hr : (s.link p).rxStream = []) : (takeBody p (zeros 620) s).link p = s.link p := by
  dsimp only [takeBody]
  generalize hu : State.modLink _ p _ = u
  have link : u.link p = { s.link p with rxStream := zeros 620 } := by
    rw [← hu, modLink_link_self, hr, List.nil_append]
  have stream : (u.link p).rxStream = zeros (4 * 155) := by rw [link]
  rw [takeStream_zeros 155 (by rw [stream, zeros, List.length_replicate]; omega) stream, link, ← hr]

theorem takeEarly_none {fuel : Nat} (h : (s.link p).early = []) : takeEarly p fuel s = s := by
  cases fuel with
  | zero => rfl
  | succ k => simp [takeEarly, h]

theorem takeData_inOrder (hf : f.fseq = (s.link p).expect) : takeData p f s =
    takeEarly p ((s.link p).early.length + 1) (takeBody p f.body (s.setLink p { s.link p with expect := (s.link p).expect + 1, nak := false })) :=
  if_pos (beq_iff_eq.mpr hf)

theorem takeData_zeros (hf : f.fseq = (s.link p).expect) (he : (s.link p).early = []) (hr : (s.link p).rxStream = []) (hb : f.body = zeros 620) :
    (takeData p f s).link p = { s.link p with expect := (s.link p).expect + 1, nak := false } := by
  rw [takeData_inOrder hf, hb]
  generalize hu : State.setLink s p _ = u
  have link : u.link p = { s.link p with expect := (s.link p).expect + 1, nak := false } := by rw [← hu, setLink_link_self]
  have taken : (takeBody p (zeros 620) u).link p = u.link p := takeBody_zeros (by rw [link]; exact hr)
  rw [takeEarly_none (by rw [taken, link]; exact he), taken, link]

end

/-! ### Replays and the skew window (R81, R83) -/

section
variable {p : Nat} {s : State}

theorem setBit_true_le {w : Nat} (v : BitVec w) {i : Nat} (j : Nat) (h : v.getLsbD i = true) : (setBit v j true).getLsbD i = true := by
  simp [setBit, h]

/-- A replay that is not the sixteenth in a row sends every unacknowledged frame again. -/
theorem startReplay_again {f : DataFrame} {rest : List DataFrame} (hu : (s.link p).unacked = f :: rest) (hf : (s.link p).replayFrom = f.fseq)
    (hr : 1 ≤ (s.link p).replays) (hl : (s.link p).replays < 15) : (startReplay p s).link p =
      { s.link p with replay := f :: rest, replayFrom := f.fseq, replayAt := s.clk, replays := (s.link p).replays + 1 } := by
  have again : ((s.link p).replays != 0 && (s.link p).replayFrom == f.fseq) = true := by
    simp only [hf, beq_self_eq_true, Bool.and_true, bne_iff_ne]
    omega
  have few : ¬ 16 ≤ (s.link p).replays + 1 := by omega
  simp only [startReplay, hu, again, if_true, few, if_false]
  rw [countN_kept.link (by decide), setLink_link_self]

theorem replayTimeout_due (hr : 1 ≤ (s.link p).replays) (h : 2 * (s.link p).rtt.toNat ≤ s.clk - (s.link p).replayAt) : replayTimeout p s = startReplay p s := by
  have late : ¬ ((s.link p).replays == 0 || decide (s.clk - (s.link p).replayAt < 2 * (s.link p).rtt.toNat)) = true := by
    simp only [Bool.or_eq_true, beq_iff_eq, decide_eq_true_eq]
    omega
  exact if_neg late

theorem ackTimeout_due (hup : (s.link p).isUp = true) (hu : (s.link p).unacked ≠ []) (h : 100000 ≤ s.clk - (s.link p).ackAt) :
    ackTimeout p s = replayLimit p s := by
  simp [ackTimeout, hup, hu, h]

theorem replayLimit_link (h : s.opt.fly = []) : (replayLimit p s).link p =
    { (s.link p).fallen 0x0C (waitFor 0x0C) s.clk with err := setBit ((s.link p).fallen 0x0C (waitFor 0x0C) s.clk).err 5 true } := by
  rw [replayLimit, setLnkErr, modLink_link_self, countX_kept.link (by decide), retrain_link h]

theorem fallen_err_lost {l : Link} {tstat wait clk : Nat} (h : l.unacked ≠ []) : (l.fallen tstat wait clk).err = setBit l.err 7 true := by
  simp [Link.fallen, h]

theorem skewExpiry_due {e : DataFrame × Nat} (he : e ∈ (s.link p).early) (h : 100 ≤ s.clk - e.2) : skewExpiry p s = badFrame p s :=
  if_pos (List.any_eq_true.mpr ⟨e, he, decide_eq_true h⟩)

end

/-! ### A frame slot (R79, R80) -/

/-- Where one element of a list alone does anything, before it and after, the whole does what it does. -/
theorem forEach_single {α : Type} {l : List α} {a : α} {f : α → State → State} {s : State} (ha : a ∈ l) (hl : l.Nodup)
    (before : ∀ b ∈ l, b ≠ a → f b s = s) (after : ∀ b ∈ l, b ≠ a → f b (f a s) = f a s) : forEach l f s = f a s := by
  have idle (r : List α) (t : State) (h : ∀ b ∈ r, f b t = t) : forEach r f t = t :=
    forEach_invariant (P := fun u => u = t) (fun b hb u e => by rw [e, h b hb]) rfl
  obtain ⟨r, q, rfl⟩ := List.append_of_mem ha
  have apart := List.nodup_append.mp hl
  have first : forEach r f s = s := idle r s fun b hb => before b (by simp [hb]) (apart.2.2 b hb a (by simp))
  have last : forEach q f (f a s) = f a s :=
    idle q _ fun b hb => after b (by simp [hb]) fun e => (List.nodup_cons.mp apart.2.1).1 (e ▸ hb)
  simp only [forEach, List.foldl_append, List.foldl_cons] at first last ⊢
  rw [first, last]

section
variable {p i : Nat} {s : State}

theorem sendBlocks_lane_of_ne {k n : Nat} {blocks : List Block} (h : n ≠ k) : (sendBlocks k blocks s).lane n = s.lane n := by
  unfold sendBlocks
  obtain ⟨c, x⟩ := encodeCw (s.lane k).txScr blocks
  exact modLane_lane_of_ne s (fun v => { v with txScr := x }) h

theorem sendFrame_lane_of_ne {ftype fseq pktoff n : Nat} {body : List Byte} (h : n ≠ p + i) :
    (sendFrame p i ftype fseq pktoff body s).lane n = s.lane n := by
  rw [sendFrame, sendBlocks_lane_of_ne h, State.setLink_kept.lane (by decide)]

theorem reported_repNext (l : Link) : l.reported.repNext = l.repNext + 2 := by simp only [Link.reported]

/-- A lane that is not in use and is not driven sends nothing. -/
theorem upSlot_idle {j : Nat} (ht : (s.link p).txact.getLsbD j = false) (hd : s.drives (p + j) = false) : upSlot p j s = s := by
  simp [upSlot, ht, hd]

/-- The slot of a port that is up and uses one lane alone: the codeword of that lane. -/
theorem frameSlot_onlyLane (hup : (s.link p).isUp = true) (h : OnlyLane s p i) (tx : ((sendOne p i s).link p).txact = (s.link p).txact)
    (lanes : ∀ n, n ≠ p + i → (sendOne p i s).lane n = s.lane n) : frameSlot p s = sendOne p i s := by
  obtain ⟨hi, use, idle⟩ := h
  have slot : upSlot p i s = sendOne p i s := by simp [upSlot, use]
  have all : frameSlot p s = forEach (List.range (s.width p)) (upSlot p) s := by simp [frameSlot, hup]
  rw [all, ← slot]
  refine forEach_single (List.mem_range.mpr hi) List.nodup_range (fun j hj ne => ?_) (fun j hj ne => ?_)
  · exact upSlot_idle (idle j (List.mem_range.mp hj) ne).1 (idle j (List.mem_range.mp hj) ne).2
  · obtain ⟨unused, undriven⟩ := idle j (List.mem_range.mp hj) ne
    rw [slot]
    refine upSlot_idle (by rw [tx]; exact unused) ?_
    rw [State.drives, lanes _ (by omega)]
    exact undriven

/-- With nothing to send or to replay, a lane in use sends an IDLE frame. -/
theorem sendOne_idle (hs : (s.lane (p + i)).st ≠ .recal) (hr : (s.link p).replay = []) (ht : (s.link p).txRest = []) (hp : (s.link p).txPkts = []) :
    sendOne p i s = sendFrame p i 0 (s.link p).nextFseq.toNat 0xFFFF [] s := by
  simp [sendOne, hr, ht, hp, hs]

/-- One packet that fits a body is the next DATA frame's. -/
theorem nextBody_one {l : Link} {o : Pkt} {k : List Byte} (ht : l.txRest = []) (hp : l.txPkts = [(o, k)]) (hk : k.length ≤ 620) :
    nextBody l = (fit 620 k, 0, [], []) := by
  simp [nextBody, ht, hp, fillBody, hk]

/-- The link after the DATA frame of one packet, before the frame is sent. -/
def Link.framed (l : Link) (k : List Byte) (clk : Nat) : Link :=
  { l with unacked := l.unacked ++ [⟨l.nextFseq, 0, fit 620 k⟩], txRest := [], txPkts := [], nextFseq := l.nextFseq + 1,
           ackAt := if l.unacked.isEmpty then clk else l.ackAt }

theorem sendOne_data {o : Pkt} {k : List Byte} (hr : (s.link p).replay = []) (ht : (s.link p).txRest = []) (hp : (s.link p).txPkts = [(o, k)])
    (hk : k.length ≤ 620) (hb : (s.link p).unacked.length < s.retryFrames p) :
    sendOne p i s = sendFrame p i 1 (s.link p).nextFseq.toNat 0 (fit 620 k) (s.setLink p ((s.link p).framed k s.clk)) := by
  have waits : ((s.link p).txRest.isEmpty && (s.link p).txPkts.isEmpty || decide (s.retryFrames p ≤ (s.link p).unacked.length)) = false := by
    simp [ht, hp, hb]
  simp only [sendOne, hr, waits, Bool.false_eq_true, if_false, nextBody_one ht hp hk, Link.framed, BitVec.ofNat_eq_ofNat]

theorem frameSlot_idle (hup : (s.link p).isUp = true) (h : OnlyLane s p i) (hs : (s.lane (p + i)).st ≠ .recal) (hr : (s.link p).replay = [])
    (ht : (s.link p).txRest = []) (hp : (s.link p).txPkts = []) : frameSlot p s = sendFrame p i 0 (s.link p).nextFseq.toNat 0xFFFF [] s := by
  have sent := sendOne_idle hs hr ht hp
  obtain ⟨_, _, _, same⟩ := ReportsOnly.reported (s.link p)
  rw [frameSlot_onlyLane hup h (by rw [sent, sendFrame_link, same]) (by rw [sent]; exact fun n h => sendFrame_lane_of_ne h), sent]

theorem frameSlot_data {o : Pkt} {k : List Byte} (hup : (s.link p).isUp = true) (h : OnlyLane s p i) (hr : (s.link p).replay = [])
    (ht : (s.link p).txRest = []) (hp : (s.link p).txPkts = [(o, k)]) (hk : k.length ≤ 620) (hb : (s.link p).unacked.length < s.retryFrames p) :
    ReportsOnly ((s.link p).framed k s.clk) ((frameSlot p s).link p) := by
  have sent := sendOne_data (i := i) hr ht hp hk hb
  have frame : (sendOne p i s).link p = ((s.link p).framed k s.clk).reported := by rw [sent, sendFrame_link, setLink_link_self]
  obtain ⟨_, _, _, same⟩ := ReportsOnly.reported ((s.link p).framed k s.clk)
  rw [frameSlot_onlyLane hup h (by rw [frame, same, Link.framed])
    (by rw [sent]; exact fun n h => (sendFrame_lane_of_ne h).trans (State.setLink_kept.lane (by decide) n)), frame]
  exact .reported _

/-- Time leaves the lanes in use and the lanes that are driven. -/
theorem OnlyLane.elapse (h : OnlyLane s p i) (dt : Nat) : OnlyLane (elapse dt s) p i := by
  simpa only [OnlyLane, State.drives, elapse_kept.width (by decide), elapse_kept.link (by decide), elapse_kept.lane (by decide)] using h

end

end Sys2Proof.Machine

section
open Sys2Proof Sys2Proof.Machine

/-- Settles O29: a slot is one frame on the one lane in use; a frame received goes through block lock, which can only take the lane out of use, and then through credits and FSEQ; the timers start a replay, or take the port down. -/
theorem linkFramesComplete : Obligations.LinkFramesComplete := by
  refine ⟨fun dt p i s hup only hs hr ht hp => ⟨_, rfl, ?_⟩, fun dt p i o k s hup only hr ht hp hk hb => ⟨_, rfl, ?_⟩,
    fun p i x s hup hrx reads => ?_, fun p i x s hup hrx hi hp => ?_,
    fun p i x b f s hup hrx reads hlen hcrc ht hf hack hnak hne hnear he => ?_,
    fun p i x b s hup hrx reads hlen hcrc ht hf hack he hstream hb => ?_,
    fun p i x b tc s hup hrx reads hlen hcrc ht hack htc hne hc => ?_,
    fun dt p f rest s hu hf hr hl hd => ⟨_, rfl, ?_⟩, fun dt p s hup hu hd hfly => ⟨_, rfl, ?_⟩, fun dt p e s he hd => ⟨_, rfl, ?_⟩⟩
  · have link := elapse_kept.link (s := s) (t := elapse dt s) (by decide) p.val
    have lane := elapse_kept.lane (s := s) (t := elapse dt s) (by decide) (p.val + i)
    have one := only.elapse dt
    have clk := elapse_clk dt s
    generalize elapse dt s = u at link lane one clk ⊢
    rw [← link] at hup hr ht hp ⊢
    rw [← lane] at hs ⊢
    obtain ⟨_, _, _, same⟩ := ReportsOnly.reported (u.link p.val)
    rw [frameSlot_idle hup one hs hr ht hp]
    exact ⟨sendFrame_out, by rw [sendFrame_link, same], by rw [sendFrame_link, reported_repNext], by rw [sendFrame_kept.e_clk (by decide), clk]⟩
  · have link := elapse_kept.link (s := s) (t := elapse dt s) (by decide) p.val
    have room : (elapse dt s).retryFrames p.val = s.retryFrames p.val := by rw [State.retryFrames, State.retryFrames, elapse_kept.width (by decide)]
    rw [← link] at hup hr ht hp hb ⊢
    obtain ⟨_, _, _, sent⟩ := frameSlot_data hup (only.elapse dt) hr ht hp hk (room ▸ hb)
    exact ⟨by rw [sent, Link.framed], by rw [sent, Link.framed], by rw [sent, Link.framed], by rw [sent, Link.framed]⟩
  · obtain ⟨t, stops, run⟩ := exec_invalid reads
    exact ⟨_, run, loseFrame_spec stops hup⟩
  · obtain ⟨t, stops, run⟩ := exec_silent hi hp
    exact ⟨_, run, loseFrame_spec stops hup⟩
  · obtain ⟨u, credits, clk, run⟩ := exec_dataFrame reads hup hrx hlen hcrc hack ht
    obtain ⟨_, _, counts⟩ := returnedBy_counts (s.link p.val) b
    rw [counts] at credits
    have early := takeData_early (p := p.val) (s := u) (f := ⟨BitVec.ofNat 16 (u32At b 0), BitVec.ofNat 16 (fld (u32At b 12) 16 16), slice b 16 620⟩)
      (by rw [credits, ← hf]; exact hne) (by rw [credits]; exact hnak) (by rw [credits, ← hf]; exact hnear) (by rw [credits]; exact he)
    exact ⟨_, run, by rw [early, clk, hf], by rw [early, credits]⟩
  · obtain ⟨u, credits, -, run⟩ := exec_dataFrame reads hup hrx hlen hcrc hack ht
    obtain ⟨_, _, counts⟩ := returnedBy_counts (s.link p.val) b
    rw [counts] at credits
    have taken := takeData_zeros (p := p.val) (s := u) (f := ⟨BitVec.ofNat 16 (u32At b 0), BitVec.ofNat 16 (fld (u32At b 12) 16 16), slice b 16 620⟩)
      (by rw [credits]; exact hf) (by rw [credits]; exact he) (by rw [credits]; exact hstream) hb
    exact ⟨_, run, by rw [taken, credits], by rw [taken], by rw [taken, credits]; exact hstream⟩
  · obtain ⟨u, credits, run⟩ := exec_idleFrame reads hup hrx hlen hcrc hack ht
    have apart : tc ≠ fld (u32At b 8) 13 3 := hne.symm
    refine ⟨_, run, ?_, ?_⟩
    · rw [credits, Link.returnedBy, returned_txBal_of_ne _ _ apart, htc, returned_txBal_self _ _ (htc ▸ hc)]
    · rw [credits, Link.returnedBy, returned_seen_of_ne _ _ apart, htc, returned_seen_self]
  · have link := elapse_kept.link (s := s) (t := elapse dt s) (by decide) p.val
    have clk := elapse_clk dt s
    generalize elapse dt s = u at link clk ⊢
    rw [← link] at hu hf hr hl hd ⊢
    rw [← clk] at hd ⊢
    rw [replayTimeout_due hr hd]
    have again := startReplay_again hu hf hr hl
    exact ⟨by rw [again], by rw [again], by rw [again], by rw [again]⟩
  · have link := elapse_kept.link (s := s) (t := elapse dt s) (by decide) p.val
    have clk := elapse_clk dt s
    have unflown : (elapse dt s).opt.fly = [] := by rw [elapse_kept.e_opt (by decide), hfly]
    generalize elapse dt s = u at link clk unflown ⊢
    rw [← link] at hup hu hd
    rw [← clk] at hd
    rw [ackTimeout_due hup hu hd]
    have limit := replayLimit_link (p := p.val) unflown
    refine ⟨by rw [limit]; rfl, by rw [limit]; rfl, by rw [limit]; exact getLsbD_setBit_self _ (by decide), ?_⟩
    rw [limit, fallen_err_lost hu]
    exact setBit_true_le _ _ (getLsbD_setBit_self _ (by decide))
  · have link := elapse_kept.link (s := s) (t := elapse dt s) (by decide) p.val
    rw [skewExpiry_due (link ▸ he) (elapse_clk dt s ▸ hd)]
    have bad := badFrame_link (p := p.val) (s := elapse dt s)
    exact ⟨by rw [bad], by rw [bad], by rw [bad]; exact getLsbD_setBit_self _ (by decide)⟩

end

/-! SUPPORT. What sending and draining leave of the receivers of the fabric lanes (R92, R362, R363). -/
namespace Sys2Proof.Machine
open Sys2Proof

/-- A lane without what sending, and leaving use, may change of it. -/
def Lane.receiver (v : Lane) : Lane := { v with st := .off, txScr := 0, txIdle := false }

/-- Every receiver is as before, but that a lane may have left use; no port changes state, and none takes a transmit lane into use. -/
structure SameReceivers (s t : State) : Prop where
  lane : ∀ k, (t.lane k).receiver = (s.lane k).receiver
  st : ∀ k, (t.lane k).st = (s.lane k).st ∨ (t.lane k).st = .out ∧ (s.lane k).st ≠ .retired
  port : ∀ q, (t.link q).st = (s.link q).st
  tx : ∀ q i, (t.link q).txact.getLsbD i = true → (s.link q).txact.getLsbD i = true

namespace SameReceivers
variable {s t u : State}

theorem of_same (srd : t.srd = s.srd) (lnk : t.lnk = s.lnk) : SameReceivers s t := by
  have lane (k : Nat) : t.lane k = s.lane k := by rw [State.lane, State.lane, srd]
  have link (q : Nat) : t.link q = s.link q := by rw [State.link, State.link, lnk]
  exact ⟨fun k => by rw [lane], fun k => .inl (by rw [lane]), fun q => by rw [link], fun q i h => by rwa [link] at h⟩
theorem refl (s : State) : SameReceivers s s := of_same rfl rfl
theorem of_kept {L : List Blk} (k : Kept L s t) (srd : Blk.srd ∉ L := by decide) (lnk : Blk.lnk ∉ L := by decide) : SameReceivers s t :=
  of_same (k.e_srd srd) (k.e_lnk lnk)

theorem trans (h : SameReceivers s t) (k : SameReceivers t u) : SameReceivers s u := by
  refine ⟨fun n => (k.lane n).trans (h.lane n), fun n => ?_, fun q => (k.port q).trans (h.port q), fun q i b => h.tx q i (k.tx q i b)⟩
  rcases k.st n with stays | ⟨out, used⟩
  · rw [stays]
    exact h.st n
  · refine .inr ⟨out, fun retired => ?_⟩
    rcases h.st n with same | ⟨-, free⟩
    · exact used (same.trans retired)
    · exact free retired
theorem kept {L : List Blk} (h : SameReceivers s t) (k : Kept L t u) (srd : Blk.srd ∉ L := by decide) (lnk : Blk.lnk ∉ L := by decide) : SameReceivers s u :=
  h.trans (of_kept k srd lnk)
theorem ite {c : Prop} [Decidable c] (h : SameReceivers s t) (k : SameReceivers s u) : SameReceivers s (if c then t else u) := by
  split
  · exact h
  · exact k
/-- What a lane keeps of its receiver, read off. -/
theorem keeps {α : Type} (h : SameReceivers s t) (f : Lane → α) (hf : ∀ v, f v.receiver = f v) (k : Nat) : f (t.lane k) = f (s.lane k) := by
  rw [← hf (t.lane k), h.lane k, hf]
theorem forEach {α : Type} {l : List α} {f : α → State → State} (hf : ∀ a t, SameReceivers t (f a t)) : SameReceivers s (forEach l f s) :=
  forEach_invariant (P := SameReceivers s) (fun a _ t k => k.trans (hf a t)) (refl s)

theorem modLane {n : Nat} {f : Lane → Lane} (lane : ∀ v, (f v).receiver = v.receiver)
    (st : ∀ v, (f v).st = v.st ∨ (f v).st = .out ∧ v.st ≠ .retired) : SameReceivers s (s.modLane n f) := by
  refine ⟨fun k => ?_, fun k => ?_, fun _ => rfl, fun _ _ => id⟩ <;> by_cases e : k = n
  · rw [e, modLane_lane_self, lane]
  · rw [modLane_lane_of_ne _ _ e]
  · rw [e, modLane_lane_self]
    exact st _
  · exact .inl (by rw [modLane_lane_of_ne _ _ e])

theorem setLink {p : Nat} {l : Link} (st : l.st = (s.link p).st) (tx : ∀ i, l.txact.getLsbD i = true → (s.link p).txact.getLsbD i = true) :
    SameReceivers s (s.setLink p l) := by
  refine ⟨fun _ => rfl, fun _ => .inl rfl, fun q => ?_, fun q i => ?_⟩ <;> rw [setLink_link] <;> split
  · next e => rw [e, st]
  · rfl
  · next e => rw [e]; exact tx i
  · exact id
theorem modLink {p : Nat} {f : Link → Link} (st : ∀ l, (f l).st = l.st) (tx : ∀ l i, (f l).txact.getLsbD i = true → l.txact.getLsbD i = true) :
    SameReceivers s (s.modLink p f) :=
  setLink (st _) (tx _)

end SameReceivers

section
variable {s : State}

theorem sendBlocks_receivers {k : Nat} {blocks : List Block} : SameReceivers s (sendBlocks k blocks s) := by
  unfold sendBlocks
  obtain ⟨c, x⟩ := encodeCw (s.lane k).txScr blocks
  have scrambled : SameReceivers s (s.modLane k (fun v => { v with txScr := x })) := .modLane (fun _ => rfl) fun _ => .inl rfl
  exact scrambled.kept emit_kept

theorem sendFrame_receivers {p i ftype fseq pktoff : Nat} {body : List Byte} : SameReceivers s (sendFrame p i ftype fseq pktoff body s) := by
  rw [sendFrame]
  obtain ⟨_, _, _, reported⟩ := ReportsOnly.reported (s.link p)
  rw [reported]
  refine SameReceivers.trans ?_ sendBlocks_receivers
  exact .setLink (by dsimp only) fun _ => id

theorem sendLaneCtlFrames_receivers {p action idx except : Nat} : SameReceivers s (sendLaneCtlFrames p action idx except s) := by
  rw [sendLaneCtlFrames]
  exact .forEach fun _ _ => sendFrame_receivers

/-- A lane leaves use unless it is retired. -/
theorem leaves_or_retired (st : LaneState) :
    (if st == .retired then LaneState.retired else .out) = st ∨ (if st == .retired then LaneState.retired else .out) = .out ∧ st ≠ .retired := by
  by_cases h : st = .retired
  · exact .inl (by simp [h])
  · exact .inr ⟨by simp [h], h⟩

theorem rxLaneOff_receivers {p i : Nat} : SameReceivers s (rxLaneOff p i s) := by
  rw [rxLaneOff_eq]
  refine SameReceivers.trans ?_ sendLaneCtlFrames_receivers
  rw [rxLaneOut]
  refine SameReceivers.trans ?_ (.modLane (fun _ => rfl) fun v => leaves_or_retired v.st)
  exact .modLink (fun _ => rfl) fun _ _ => id

theorem rxLaneOn_receivers {p i : Nat} : SameReceivers s (rxLaneOn p i s) := by
  rw [rxLaneOn]
  refine SameReceivers.trans ?_ sendLaneCtlFrames_receivers
  exact .modLink (fun _ => by dsimp only) fun _ _ => id

theorem txIdle_receivers {l : Nat} : SameReceivers s (txIdle l s) := by
  rw [txIdle]
  have sent : SameReceivers s (sendBlocks l idleBlocks s) := sendBlocks_receivers
  exact .ite (.refl s) (sent.trans (.modLane (fun _ => rfl) fun _ => .inl rfl))

theorem drainLane_receivers {l : Nat} : SameReceivers s (drainLane l s) := by
  unfold drainLane
  split
  · exact .refl s
  · dsimp only
    refine SameReceivers.trans ?_ txIdle_receivers
    refine SameReceivers.trans ?_ (.modLink (fun _ => by dsimp only) fun _ _ => setBit_false_le _ _ _)
    exact .ite rxLaneOff_receivers (.refl s)

theorem drainNow_receivers {kind i : Nat} : SameReceivers s (drainNow kind i s) := by
  unfold drainNow
  split
  · exact drainLane_receivers
  · split
    · exact drainLane_receivers
    · exact .refl s
  · exact .of_same rfl rfl
  · dsimp only
    split <;> exact .of_same rfl rfl

theorem drainPart_receivers {kind i : Nat} : SameReceivers s (drainPart kind i s) := by
  rw [drainPart]
  refine .ite ?_ ?_
  · exact ((SameReceivers.of_kept State.modPart_kept).trans drainNow_receivers).kept raiseCruise_kept
  · exact (SameReceivers.of_kept State.modPart_kept).kept raiseCruise_kept

/-- A score that falls below WATCH changes RES alone, and fires. -/
def watched (kind i before after : Nat) (s : State) : State :=
  if after < s.watchAt kind ∧ s.watchAt kind ≤ before then
    raiseCruise 0 { (s.modPart kind i (fun p => if p.st == .inService then { p with st := .watch } else p)) with res.cruiseLog := cruiseLogOf 1 kind i }
  else s
theorem watched_kept {kind i before after : Nat} : Kept [.hst, .res, .out] s (watched kind i before after s) := by
  have logged : Kept [.hst, .res, .out] s { (s.modPart kind i (fun p => if p.st == .inService then { p with st := .watch } else p)) with
      res.cruiseLog := cruiseLogOf 1 kind i } := Kept.put_res (by decide) rfl (State.modPart_kept.mono (by decide))
  exact .ite (Kept.step raiseCruise_kept (by decide) logged) (Kept.refl s)

/-- One that falls below DRAIN: the part drains, unless it is out already. -/
def drained (kind i before after : Nat) (out : Bool) (s : State) : State :=
  if after < s.drainAt kind ∧ s.drainAt kind ≤ before then
    saveScores (if out then { s with res.cruiseLog := cruiseLogOf 2 kind i } else drainPart kind i { s with res.cruiseLog := cruiseLogOf 2 kind i })
  else s

theorem crossed_eq {kind i before after : Nat} : crossed kind i before after s =
    drained kind i before after ((s.partOf kind i).st == .drained || (s.partOf kind i).st == .replaced) (watched kind i before after s) := rfl

theorem cruiseLog_kept {v : Word} : Kept [.res] s { s with res.cruiseLog := v } := Kept.put_res (by decide) rfl (Kept.refl s)

theorem drained_receivers {kind i before after : Nat} {out : Bool} : SameReceivers s (drained kind i before after out s) := by
  rw [drained]
  have logged : SameReceivers s { s with res.cruiseLog := cruiseLogOf 2 kind i } := .of_kept cruiseLog_kept
  exact .ite (SameReceivers.kept (.ite logged (logged.trans drainPart_receivers)) saveScores_kept) (.refl s)

/-- A penalty leaves the receivers as they are, though the part may drain. -/
theorem addPenalty_receivers {kind i w : Nat} : SameReceivers s (addPenalty kind i w s) := by
  rw [addPenalty, crossed_eq]
  exact ((SameReceivers.of_kept State.modPart_kept).kept watched_kept).trans drained_receivers

/-- A lane that recalibrates cannot be drained. -/
theorem laneDrainable_recal {l : Nat} (h : (s.lane l).st = .recal) : s.laneDrainable l = false := by
  unfold State.laneDrainable
  split
  · rfl
  · simp [h]

theorem drained_recal {l before after : Nat} {out : Bool} (h : (s.lane l).st = .recal) : Kept [.hst, .res, .nv, .out] s (drained 0 l before after out s) := by
  rw [drained]
  have logged : Kept [.hst, .res, .nv, .out] s { s with res.cruiseLog := cruiseLogOf 2 0 l } := cruiseLog_kept.mono (by decide)
  refine .ite (Kept.step saveScores_kept (by decide) (.ite logged ?_)) (Kept.refl s)
  have stays : State.drainable { s with res.cruiseLog := cruiseLogOf 2 0 l } 0 l = false := laneDrainable_recal (s := { s with res.cruiseLog := cruiseLogOf 2 0 l }) h
  rw [drainPart, stays]
  exact Kept.step raiseCruise_kept (by decide) (Kept.step State.modPart_kept (by decide) logged)

/-- Its penalties change no lane and no port. -/
theorem addPenalty_recal {l w : Nat} (h : (s.lane l).st = .recal) : Kept [.hst, .res, .nv, .out] s (addPenalty 0 l w s) := by
  rw [addPenalty, crossed_eq]
  have before : ∀ b a f, Kept [.hst, .res, .out] s (watched 0 l b a (s.modPart 0 l f)) := fun _ _ _ =>
    Kept.trans (State.modPart_kept.mono (by decide)) watched_kept
  exact Kept.trans ((before _ _ _).mono (by decide)) (drained_recal (by rw [(before _ _ _).lane (by decide), h]))

end

end Sys2Proof.Machine

/-! SUPPORT. Codewords on a lane, equalisation and electrical idle, case by case (R103, R104, R107 to R109, R112, R113). -/
namespace Sys2Proof.Machine
open Sys2Proof

/-! ### What a codeword's time comes to (R103, R113) -/

/-- The symbols of a codeword have come in on a lane. -/
def symbolsIn (l : Nat) (x : Symbols) (s : State) : State :=
  s.modLane l (fun v => { v with sigdet := true, rxScr := ((s.lane l).decode x).2.2 })

section
variable {l p : Nat} {x : Symbols} {s : State}

theorem symbolsIn_kept : Kept [.srd] s (symbolsIn l x s) := State.modLane_kept

theorem receive_eq (o : Option Symbols) (hp : s.portOfLane l = some p) :
    receive l o s = takeContent p l (takeCodeword l o s).1 (takeCodeword l o s).2 := by
  unfold receive
  rw [hp]
theorem laneBuilt_port (h : s.laneBuilt l = true) : ∃ p, s.portOfLane l = some p := Option.isSome_iff_exists.mp h

/-- While the receiver hunts, a codeword is one more at the candidate. -/
theorem takeCodeword_hunting (hst : (s.lane l).st = .hunt) (hrun : (s.lane l).run < 64) (hexit : (s.lane l).exit = none) (hret : (s.lane l).retain = false) :
    takeCodeword l (some x) s = (.other, huntOne l (((s.lane l).decode x).1 != .invalid) x (symbolsIn l x s)) := by
  have unlocked : (s.lane l).hasLock = false := decide_eq_false (by omega)
  simp only [takeCodeword, hexit, hret, hst, unlocked, symbolsIn]
  rfl

/-- A receiver that holds lock reads the codeword. -/
theorem takeCodeword_locked (hoff : (s.lane l).st ≠ .off) (hret : (s.lane l).st ≠ .retired) (hrun : 64 ≤ (s.lane l).run) (hexit : (s.lane l).exit = none)
    (hkept : (s.lane l).retain = false) :
    takeCodeword l (some x) s =
      (((s.lane l).decode x).1, lockedOne l (((s.lane l).decode x).1 != .invalid) ((s.lane l).decode x).2.1 (symbolsIn l x s)) := by
  have locked : (s.lane l).hasLock = true := decide_eq_true hrun
  have reads : ((s.lane l).retain || (s.lane l).st == .off || (s.lane l).st == .retired) = false := by simp [hkept, hoff, hret]
  simp only [takeCodeword, hexit, reads, locked, symbolsIn]
  rfl

/-- After a burst it checks the codeword at the retained boundary. -/
theorem takeCodeword_exit {k : Nat} (hexit : (s.lane l).exit = some k) :
    takeCodeword l (some x) s =
      (if ((s.lane l).decode x).1 != .invalid then ((s.lane l).decode x).1 else .other, exitOne l k (((s.lane l).decode x).1 != .invalid) (symbolsIn l x s)) := by
  simp only [takeCodeword, hexit, symbolsIn]

/-- Without a signal a receiver that hunts begins its count again. -/
theorem takeCodeword_none_unlocked (hrun : (s.lane l).run < 64) (hexit : (s.lane l).exit = none) :
    takeCodeword l none s = (.invalid, (s.modLane l (fun v => { v with sigdet := false })).modLane l (fun v => { v with run := 0 })) := by
  have unlocked : (s.lane l).hasLock = false := decide_eq_false (by omega)
  simp only [takeCodeword, hexit, unlocked]
  rfl

/-- Changes to one lane, one after the other. -/
theorem modLane_modLane_lane (f g : Lane → Lane) : ((s.modLane l f).modLane l g).lane l = g (f (s.lane l)) := by
  rw [modLane_lane_self, modLane_lane_self]

end

/-! ### Hunting (R104) -/

section
variable {l : Nat} {x : Symbols} {s : State}

theorem up_of_link_down {p : Nat} (h : s.up p = false) (hb : s.portBuilt p = true) : (s.link p).isUp = false := by
  simpa [State.up, hb] using h

/-- A lane asks for nothing of a port that is not up. -/
theorem rejoin_down (h : ∀ p, s.portOfLane l = some p → s.up p = false) : rejoin l s = s := by
  unfold rejoin
  split
  · rfl
  · next p hp => simp [h p hp]

/-- The CTLE code that a receiver settles on is at most 40. -/
theorem settleCtle_lane : ∃ c : Byte, c.toNat ≤ 40 ∧ (settleCtle l s).lane l = { s.lane l with ctle := c } ∧ ∀ k, k ≠ l → (settleCtle l s).lane k = s.lane k := by
  refine ⟨BitVec.ofNat 8 ((Config.freeWord s.fresh).toNat % 41), ?_, modLane_lane_self _ _ _, fun k hk => modLane_lane_of_ne _ _ hk⟩
  rw [BitVec.toNat_ofNat]
  omega

theorem huntOne_invalid : huntOne l false x s = s.modLane l (fun v => v.nextCand x) := rfl
theorem huntOne_valid (h : (s.lane l).run < 63) : huntOne l true x s = s.modLane l (fun v => { v with run := v.run + 1, hist := 0 }) := by
  have more : (s.lane l).run + 1 < 64 := by omega
  simp only [huntOne, Bool.not_true, Bool.false_eq_true, if_false, more, if_true]

/-- The lane at its 64th valid codeword in a row, where its port does not ask for it back. -/
def lockFound (l : Nat) (s : State) : State :=
  let s := s.modLane l (fun v => { v with run := v.run + 1, hist := 0 })
  settleCtle l (s.modLane l (fun v => { v with st := if v.st == .hunt then .locked else v.st, pol := decide (2720 ≤ v.cand), tuneAt := s.clk }))

theorem lockFound_kept : Kept [.srd, .fresh] s (lockFound l s) :=
  Kept.step settleCtle_kept (by decide) (Kept.step State.modLane_kept (by decide) (State.modLane_kept.mono (by decide)))

theorem huntOne_lock (h : (s.lane l).run = 63) : huntOne l true x s = rejoin l (lockFound l s) := by
  have done : ¬ (s.lane l).run + 1 < 64 := by omega
  simp only [huntOne, Bool.not_true, Bool.false_eq_true, if_false, done]
  rfl

theorem lockFound_lane (hst : (s.lane l).st = .hunt) : ∃ c : Byte, c.toNat ≤ 40 ∧
    (lockFound l s).lane l = { s.lane l with run := (s.lane l).run + 1, hist := 0, st := .locked, pol := decide (2720 ≤ (s.lane l).cand), tuneAt := s.clk, ctle := c } ∧
    ∀ k, k ≠ l → (lockFound l s).lane k = s.lane k := by
  obtain ⟨c, le, self, others⟩ := settleCtle_lane (l := l) (s := (s.modLane l (fun v => { v with run := v.run + 1, hist := 0 })).modLane l
    (fun v => { v with st := if v.st == .hunt then .locked else v.st, pol := decide (2720 ≤ v.cand), tuneAt := s.clk }))
  refine ⟨c, le, self.trans ?_, fun k hk => (others k hk).trans ?_⟩
  · rw [modLane_modLane_lane]
    simp [hst]
  · rw [modLane_lane_of_ne _ _ hk, modLane_lane_of_ne _ _ hk]

end

/-! ### A codeword on a lane that holds lock (R104, R129) -/

/-- A lane after a valid codeword of so many corrections. -/
def Lane.corrected (v : Lane) (n t : Nat) : Lane :=
  noteFec { (v.notePass true n) with hist := (v.hist <<< 1) ||| 0, corrSum := v.corrSum + n, corrN := v.corrN + 1 } t n

theorem notePass_fields (v : Lane) (valid : Bool) (n : Nat) : ∃ k b, v.notePass valid n = { v with passN := k, passBad := b } := by
  unfold Lane.notePass
  split
  · exact ⟨v.passN, v.passBad, rfl⟩
  · split
    · exact ⟨_, _, rfl⟩
    · split
      · exact ⟨_, _, rfl⟩
      · exact ⟨_, _, rfl⟩

theorem corrected_fields (v : Lane) (n t : Nat) : ∃ k b log, v.corrected n t =
    { v with passN := k, passBad := b, fecLog := (t, n) :: log, hist := v.hist <<< 1, corrSum := v.corrSum + n, corrN := v.corrN + 1 } := by
  obtain ⟨k, b, pass⟩ := notePass_fields v true n
  have valid : (v.hist <<< 1) ||| (0 : BitVec 64) = v.hist <<< 1 := BitVec.or_zero
  exact ⟨k, b, _, by rw [Lane.corrected, pass, valid]; rfl⟩

theorem le_maxOf {a : Nat} {l : List Nat} : a ≤ maxOf (a :: l) := by
  have le : ∀ (r : List Nat) (m : Nat), m ≤ r.foldl max m := by
    intro r
    induction r with
    | nil => exact fun m => Nat.le_refl m
    | cons b r ih => exact fun m => Nat.le_trans (Nat.le_max_left m b) (ih (max m b))
  rw [maxOf, List.foldl_cons, Nat.zero_max]
  exact le l a

/-- FECMAX is at least what the newest codeword needed. -/
theorem fecmax_newest {v : Lane} {t n : Nat} {log : List (Nat × Nat)} (h : v.fecLog = (t, n) :: log) : n ≤ v.fecmax t := by
  have recent : decide (t < t + 10 ^ 6) = true := decide_eq_true (by omega)
  rw [Lane.fecmax, h, List.filter_cons_of_pos (p := fun e : Nat × Nat => decide (t < e.1 + 10 ^ 6)) recent]
  exact le_maxOf

section
variable {l n : Nat} {s : State}

/-- Nine corrections or more cost the lane a penalty (R362). -/
def corrections (l n : Nat) (s : State) : State := if 9 ≤ n then addPenalty 0 l (10 ^ 6) (count (evNo 8 0x000 l) s) else s
/-- Eight invalid codewords of the last 64 cost it block lock. -/
def lockChecked (l : Nat) (s : State) : State := if decide (8 ≤ popcount (s.lane l).hist.toNat 64) then lockLost l s else s

theorem lockedOne_true : lockedOne l true n s = lockChecked l (corrections l n (s.modLane l (fun v => v.corrected n s.clk))) := rfl

theorem corrections_receivers : SameReceivers s (corrections l n s) := .ite ((SameReceivers.of_kept count_kept).trans addPenalty_receivers) (.refl s)
theorem corrections_kept : Kept [.hst, .lnk, .srd, .swc, .lnd, .mil, .res, .tly, .nv, .out] s (corrections l n s) :=
  .ite (Kept.step addPenalty_kept (by decide) (count_kept.mono (by decide))) (Kept.refl s)

/-- Where few of the last 64 codewords were invalid, a valid one is noted, and its corrections may cost a penalty. -/
theorem lockedOne_holds (hits : popcount ((s.lane l).hist <<< 1).toNat 64 < 8) :
    lockedOne l true n s = corrections l n (s.modLane l (fun v => v.corrected n s.clk)) := by
  obtain ⟨_, _, _, fields⟩ := corrected_fields (s.lane l) n s.clk
  have hist : ((corrections l n (s.modLane l (fun v => v.corrected n s.clk))).lane l).hist = (s.lane l).hist <<< 1 :=
    (congrArg Lane.hist (corrections_receivers.lane l)).trans (by rw [modLane_lane_self, fields]; rfl)
  rw [lockedOne_true, lockChecked, hist, decide_eq_false (by omega)]
  rfl

theorem corrections_few (few : n ≤ 8) : corrections l n s = s := if_neg (by omega)

end

end Sys2Proof.Machine

namespace Sys2Proof.Machine
open Sys2Proof

/-! ### What the codeword is to the port -/

section
variable {l p : Nat} {x : Symbols} {s : State}

theorem receive_hunting (hb : s.laneBuilt l = true) (hst : (s.lane l).st = .hunt) (hrun : (s.lane l).run < 64) (hexit : (s.lane l).exit = none)
    (hret : (s.lane l).retain = false) : receive l (some x) s = huntOne l (((s.lane l).decode x).1 != .invalid) x (symbolsIn l x s) := by
  obtain ⟨p, hp⟩ := laneBuilt_port hb
  rw [receive_eq _ hp, takeCodeword_hunting hst hrun hexit hret]
  rfl

/-- A valid codeword that a receiver reads goes on as what it carries. -/
theorem receive_locked {c : Content} (hp : s.portOfLane l = some p) (hoff : (s.lane l).st ≠ .off) (hret : (s.lane l).st ≠ .retired) (hrun : 64 ≤ (s.lane l).run)
    (hexit : (s.lane l).exit = none) (hkept : (s.lane l).retain = false) (hc : ((s.lane l).decode x).1 = c) (hv : c ≠ .invalid) :
    receive l (some x) s = takeContent p l c (lockedOne l true ((s.lane l).decode x).2.1 (symbolsIn l x s)) := by
  have valid : (c != .invalid) = true := bne_iff_ne.mpr hv
  rw [receive_eq _ hp, takeCodeword_locked hoff hret hrun hexit hkept, hc, valid]

/-- A valid codeword has been read on a lane, and its corrections noted. -/
def codewordRead (l : Nat) (x : Symbols) (n : Nat) (s : State) : State := (symbolsIn l x s).modLane l (fun v => v.corrected n s.clk)

theorem codewordRead_kept {n : Nat} : Kept [.srd] s (codewordRead l x n s) := Kept.trans symbolsIn_kept State.modLane_kept
theorem codewordRead_lane (n : Nat) : ∃ k b log, (codewordRead l x n s).lane l =
    { s.lane l with sigdet := true, rxScr := ((s.lane l).decode x).2.2, passN := k, passBad := b, fecLog := (s.clk, n) :: log, hist := (s.lane l).hist <<< 1,
                    corrSum := (s.lane l).corrSum + n, corrN := (s.lane l).corrN + 1 } := by
  obtain ⟨k, b, log, fields⟩ := corrected_fields { s.lane l with sigdet := true, rxScr := ((s.lane l).decode x).2.2 } n s.clk
  exact ⟨k, b, log, by rw [codewordRead, symbolsIn, modLane_modLane_lane, fields]⟩
theorem codewordRead_others {n k : Nat} (h : k ≠ l) : (codewordRead l x n s).lane k = s.lane k := by
  rw [codewordRead, symbolsIn, modLane_lane_of_ne _ _ h, modLane_lane_of_ne _ _ h]

/-- Where few of the last 64 codewords were invalid, the lane keeps lock as it reads one. -/
theorem lockedOne_read (hits : popcount ((s.lane l).hist <<< 1).toNat 64 < 8) (n : Nat) :
    lockedOne l true n (symbolsIn l x s) = corrections l n (codewordRead l x n s) := by
  have same : ((symbolsIn l x s).lane l).hist = (s.lane l).hist := by rw [symbolsIn, modLane_lane_self]
  rw [lockedOne_holds (by rw [same]; exact hits)]
  rfl

theorem Kept.up {L : List Blk} {t : State} (k : Kept L s t) (plt : Blk.plt ∉ L) (lnk : Blk.lnk ∉ L) (p : Nat) : t.up p = s.up p := by
  rw [State.up, State.up, State.portBuilt, State.portBuilt, k.width plt, k.link lnk]
theorem SameReceivers.up {t : State} (h : SameReceivers s t) (plt : t.plt = s.plt) (p : Nat) : t.up p = s.up p := by
  rw [State.up, State.up, isUp_of_st (h.port p), State.portBuilt, State.portBuilt, State.width, State.width, State.entry, State.entry, plt]

theorem portBuilt_portOfLane (hp : s.portOfLane l = some p) : s.portBuilt p = true := by
  unfold State.portOfLane at hp
  split at hp
  · next h => exact Option.some.inj hp ▸ h
  · obtain ⟨w, hw, found⟩ := List.exists_of_findSome?_eq_some hp
    dsimp only at found
    split at found
    · next h =>
      rw [Option.some.inj found] at h
      have wide : 0 < w := by
        simp only [List.mem_cons, List.not_mem_nil, or_false] at hw
        omega
      simp only [Bool.and_eq_true, decide_eq_true_eq] at h
      exact decide_eq_true (by omega)
    · exact absurd found (by simp)

/-- No frame is lost to a port that is not up. -/
theorem loseFrame_down {i : Nat} (hb : s.portBuilt p = true) (hup : s.up p = false) : loseFrame p i s = s :=
  if_neg (by simp [up_of_link_down hup hb])

end

section
variable {l p k : Nat} {x : Symbols} {s : State}

theorem receiveIf_kind {kind : Content → Bool} (h : kind ((s.lane l).decode x).1 = true) : receiveIf kind l x s = receive l (some x) s := if_pos h

/-- Without a signal, on a lane whose port is not up, the count alone begins again. -/
theorem receive_silent (hb : s.laneBuilt l = true) (hrun : (s.lane l).run < 64) (hexit : (s.lane l).exit = none)
    (hup : ∀ p, s.portOfLane l = some p → s.up p = false) :
    receive l none s = (s.modLane l (fun v => { v with sigdet := false })).modLane l (fun v => { v with run := 0 }) := by
  obtain ⟨p, hp⟩ := laneBuilt_port hb
  rw [receive_eq _ hp, takeCodeword_none_unlocked hrun hexit]
  exact loseFrame_down (portBuilt_portOfLane hp) (hup p hp)

/-- A codeword checked after a burst, one valid, one not. -/
theorem receive_exit (hp : s.portOfLane l = some p) (hexit : (s.lane l).exit = some k) (hv : (((s.lane l).decode x).1 != .invalid) = true) :
    receive l (some x) s = takeContent p l ((s.lane l).decode x).1 (exitOne l k true (symbolsIn l x s)) := by
  rw [receive_eq _ hp, takeCodeword_exit hexit, hv]
  rfl
theorem receive_exit_invalid (hp : s.portOfLane l = some p) (hexit : (s.lane l).exit = some k) (hc : ((s.lane l).decode x).1 = .invalid) :
    receive l (some x) s = dropRetained l (symbolsIn l x s) := by
  rw [receive_eq _ hp, takeCodeword_exit hexit, hc, bne_self_eq_false]
  rfl

end

/-! ### Equalisation (R108, R109) -/

section
variable {l block : Nat} {s t : State}

/-- A lane goes on answering EQ requests where it is not retired meanwhile, no port changes state and no transmit lane comes into use. -/
theorem answersEq_of (h : s.answersEq l = true) (port : t.portOfLane l = s.portOfLane l) (retired : (t.lane l).st = .retired → (s.lane l).st = .retired)
    (st : ∀ q, (t.link q).st = (s.link q).st) (tx : ∀ q i, (t.link q).txact.getLsbD i = true → (s.link q).txact.getLsbD i = true) : t.answersEq l = true := by
  unfold State.answersEq at h ⊢
  rw [port]
  split at h
  · exact absurd h (by simp)
  · next p hp =>
    simp only [Bool.and_eq_true, Bool.or_eq_true, bne_iff_ne, ne_eq, Bool.not_eq_true', st, isUp_of_st (st p)] at h ⊢
    obtain ⟨used, lock | ⟨up, idle⟩⟩ := h
    · exact ⟨fun r => used (retired r), .inl lock⟩
    · exact ⟨fun r => used (retired r), .inr ⟨up, Bool.eq_false_iff.mpr fun b => Bool.eq_false_iff.mp idle (tx p _ b)⟩⟩

theorem answersEq_port (h : s.answersEq l = true) : (∃ p, s.portOfLane l = some p) ∧ (s.lane l).st ≠ .retired := by
  unfold State.answersEq at h
  split at h
  · exact absurd h (by simp)
  · next p hp =>
    simp only [Bool.and_eq_true, bne_iff_ne] at h
    exact ⟨⟨p, hp⟩, h.1⟩

theorem answersEq_receivers (h : s.answersEq l = true) (k : SameReceivers s t) (port : t.portOfLane l = s.portOfLane l) : t.answersEq l = true := by
  refine answersEq_of h port (fun r => ?_) k.port k.tx
  rcases k.st l with same | ⟨out, -⟩
  · rw [← same, r]
  · rw [out] at r
    exact absurd r (by decide)

/-- The partner's answer is to this receiver's own requests alone. -/
theorem takeEcho_lane : ∃ a t c n, (takeEcho l block s).lane l = { s.lane l with awaiting := a, pTaps := t, corrSum := c, corrN := n } := by
  rw [takeEcho, modLane_lane_self]
  split
  · exact ⟨_, _, _, _, rfl⟩
  · exact ⟨_, _, _, _, rfl⟩

/-- A request with a new RSEQ and without PRESET: its steps are made and reported. -/
theorem takeEq_lane (ha : s.answersEq l = true) (h9 : bitAt block 9 = false)
    (new : (s.lane l).applied = false ∨ (s.lane l).aecho ≠ BitVec.ofNat 4 (fld block 10 4)) :
    ∃ a t c n, (takeEq l block s).lane l = { s.lane l with
      pDone := (s.lane l).pDone || bitAt block 8, awaiting := a, pTaps := t, corrSum := c, corrN := n, taps := (applyReq (s.lane l).taps (fld block 18 8)).1,
      aecho := BitVec.ofNat 4 (fld block 10 4), applied := true, stat := BitVec.ofNat 8 (applyReq (s.lane l).taps (fld block 18 8)).2 } := by
  obtain ⟨a, t, c, n, echo⟩ := takeEcho_lane (l := l) (block := block) (s := s.modLane l (fun v => { v with pDone := v.pDone || bitAt block 8 }))
  rw [modLane_lane_self] at echo
  have kept : Kept [.srd] s (takeEcho l block (s.modLane l (fun v => { v with pDone := v.pDone || bitAt block 8 }))) :=
    Kept.trans State.modLane_kept State.modLane_kept
  have answers := answersEq_of ha (kept.portOfLane (by decide) l) (by rw [echo]; exact id) (fun q => by rw [kept.link (by decide)])
    (fun q i h => by rwa [kept.link (by decide)] at h)
  have fresh : ((s.lane l).applied && (s.lane l).aecho == BitVec.ofNat 4 (fld block 10 4)) = false := by
    rcases new with h | h <;> simp [h]
  refine ⟨a, t, c, n, ?_⟩
  simp only [takeEq, answers, h9, Bool.not_true, Bool.false_eq_true, if_false, modLane_lane_self, echo, fresh]

/-- An EQ codeword is read, and its request answered, whatever its corrections cost the lane. -/
theorem takeEq_read {x : Symbols} {n : Nat} (ha : s.answersEq l = true) (h9 : bitAt block 9 = false)
    (new : (s.lane l).applied = false ∨ (s.lane l).aecho ≠ BitVec.ofNat 4 (fld block 10 4)) :
    let v := (takeEq l block (corrections l n (codewordRead l x n s))).lane l
    v.taps = (applyReq (s.lane l).taps (fld block 18 8)).1 ∧ v.stat = BitVec.ofNat 8 (applyReq (s.lane l).taps (fld block 18 8)).2 ∧
      v.aecho = BitVec.ofNat 4 (fld block 10 4) ∧ v.applied = true ∧ v.pDone = ((s.lane l).pDone || bitAt block 8) := by
  obtain ⟨_, _, _, read⟩ := codewordRead_lane (l := l) (x := x) (s := s) n
  have noted : Kept [.srd] s (codewordRead l x n s) := codewordRead_kept
  have same : SameReceivers (codewordRead l x n s) (corrections l n (codewordRead l x n s)) := corrections_receivers
  have answered : (codewordRead l x n s).answersEq l = true := answersEq_of ha (noted.portOfLane (by decide) l) (by rw [read]; exact id)
    (fun q => by rw [noted.link (by decide)]) (fun q i h => by rwa [noted.link (by decide)] at h)
  have answers := answersEq_receivers answered same (corrections_kept.portOfLane (by decide) l)
  have taps : ((corrections l n (codewordRead l x n s)).lane l).taps = (s.lane l).taps := by rw [same.keeps Lane.taps (fun _ => rfl), read]
  have applied : ((corrections l n (codewordRead l x n s)).lane l).applied = (s.lane l).applied := by rw [same.keeps Lane.applied (fun _ => rfl), read]
  have aecho : ((corrections l n (codewordRead l x n s)).lane l).aecho = (s.lane l).aecho := by rw [same.keeps Lane.aecho (fun _ => rfl), read]
  have done : ((corrections l n (codewordRead l x n s)).lane l).pDone = (s.lane l).pDone := by rw [same.keeps Lane.pDone (fun _ => rfl), read]
  obtain ⟨_, _, _, _, taken⟩ := takeEq_lane answers h9 (by rw [applied, aecho]; exact new)
  rw [taken, taps, done]
  exact ⟨rfl, rfl, rfl, rfl, rfl⟩

/-- Tuning ends: requests failed too often, or for too long. -/
theorem tuneEnd_due (hd : (s.lane l).done = false) (hrun : 64 ≤ (s.lane l).run) (hst : (s.lane l).st = .locked)
    (due : 16 ≤ (s.lane l).fails ∨ 1000000000 ≤ s.clk - (s.lane l).tuneAt) :
    tuneEnd l s = s.modLane l (fun v => { v with done := true, awaiting := false, passN := 0 }) := by
  have locked : (s.lane l).hasLock = true := decide_eq_true hrun
  have expired : ¬ ((s.lane l).fails < 16 ∧ s.clk - (s.lane l).tuneAt < 10 ^ 9) := by omega
  simp only [tuneEnd, hd, locked, hst]
  rw [if_neg (by decide), if_neg (by simpa using expired)]

end

/-! ### Electrical idle (R112, R113) -/

section
variable {l p n : Nat} {s : State}

/-- A lane of a port that is not up goes idle with what it needs to come back. -/
theorem idleEnter_lane (hp : s.portOfLane l = some p) (hup : s.up p = false) (hst : (s.lane l).st ≠ .retired) : (idleEnter l s).lane l =
    { s.lane l with retain := true, exit := none, kept := (s.lane l).cand, idleAt := s.clk, sigdet := false, run := 0, hist := 0, st := .idle } := by
  have kept : Kept [.srd, .eye] s (disturbEye l (s.modLane l (fun v => { v with retain := true, exit := none, kept := v.cand, idleAt := s.clk, sigdet := false, run := 0, hist := 0 }))) :=
    Kept.step disturbEye_kept (by decide) (State.modLane_kept.mono (by decide))
  have port := (kept.portOfLane (by decide) l).trans hp
  have down := (kept.up (by decide) (by decide) p).trans hup
  simp only [idleEnter, port, down, Bool.false_eq_true, if_false, modLane_lane_self, disturbEye_kept.lane (by decide)]
  simp [hst]

/-- A lane belongs to a port that is up. -/
def State.ofUpPort (s : State) (l : Nat) : Bool := match s.portOfLane l with | some p => s.up p | none => false
theorem ofUpPort_down (h : ∀ p, s.portOfLane l = some p → s.up p = false) : s.ofUpPort l = false := by
  unfold State.ofUpPort
  split
  · next p hp => exact h p hp
  · rfl

theorem exitOne_valid : exitOne l 0 true s = rejoin l ((s.modLane l (fun v => { v with
    st := if v.st == .idle then (if s.ofUpPort l then .out else .locked) else v.st, run := 64, hist := 0, retain := true, exit := some 1 })).modLane l
      (fun v => { v with tuneAt := s.clk })) := rfl

/-- The first valid codeword after a burst locks the lane of a port that is not up. -/
theorem exitOne_first (hst : (s.lane l).st = .idle) (hup : ∀ p, s.portOfLane l = some p → s.up p = false) : (exitOne l 0 true s).lane l =
    { s.lane l with st := .locked, run := 64, hist := 0, retain := true, exit := some 1, tuneAt := s.clk } := by
  have unasked (f g : Lane → Lane) : rejoin l ((s.modLane l f).modLane l g) = (s.modLane l f).modLane l g := rejoin_down hup
  rw [exitOne_valid, unasked, modLane_modLane_lane, ofUpPort_down hup]
  simp [hst]

/-- An invalid one drops what was retained: the lane of a port that is DOWN idles. -/
theorem dropRetained_down (hp : s.portOfLane l = some p) (hst : (s.link p).st = .down) : (dropRetained l s).lane l =
    { s.lane l with retain := false, exit := none, run := 0, cand := 0, hist := 0, st := .idle } := by
  have kept (f : Lane → Lane) : Kept [.srd] s (s.modLane l f) := State.modLane_kept
  have port (f : Lane → Lane) : (s.modLane l f).portOfLane l = some p := ((kept f).portOfLane (by decide) l).trans hp
  have link (f : Lane → Lane) : (s.modLane l f).link p = s.link p := (kept f).link (by decide) p
  have down (f : Lane → Lane) : (s.modLane l f).up p = false := by simp [State.up, Link.isUp, link, hst]
  simp only [dropRetained, port, link, hst, down]
  rw [if_neg (by simp), modLane_modLane_lane]
  rfl

/-- The retained state expires after 1 s. -/
theorem retainExpire_due (hret : (s.lane l).retain = true) (hexit : (s.lane l).exit = none) (due : 1000000000 ≤ s.clk - (s.lane l).idleAt)
    (hlock : ∀ p, s.portOfLane l = some p → (s.link p).st ≠ .lock) : retainExpire l s = s.modLane l (fun v => { v with retain := false }) := by
  have waits : (!(s.lane l).retain || (s.lane l).exit.isSome || decide (s.clk - (s.lane l).idleAt < 10 ^ 9)) = false := by
    simp [hret, hexit, due]
  have kept : Kept [.srd] s (s.modLane l (fun v => { v with retain := false })) := State.modLane_kept
  simp only [retainExpire, waits, Bool.false_eq_true, if_false, kept.portOfLane (by decide) l]
  split
  · next p hp => simp [kept.link (by decide), hlock p hp]
  · rfl

/-- The codeword that enters idle, read on a lane in use: the lane idles, its equalisers as they were. -/
theorem idleEnter_read {x : Symbols} (hp : s.portOfLane l = some p) (hup : s.up p = false) (hst : (s.lane l).st = .locked) (n : Nat) :
    let v := (idleEnter l (corrections l n (codewordRead l x n s))).lane l
    v.st = .idle ∧ v.retain = true ∧ v.kept = (s.lane l).cand ∧ v.idleAt = s.clk ∧ v.sigdet = false ∧ v.run = 0 ∧ v.taps = (s.lane l).taps ∧
      v.pTaps = (s.lane l).pTaps ∧ v.ctle = (s.lane l).ctle := by
  obtain ⟨_, _, _, read⟩ := codewordRead_lane (l := l) (x := x) (s := s) n
  have same : SameReceivers (codewordRead l x n s) (corrections l n (codewordRead l x n s)) := corrections_receivers
  have kept : Kept _ s (corrections l n (codewordRead l x n s)) := Kept.trans (codewordRead_kept.mono (by decide)) corrections_kept
  have used : ((corrections l n (codewordRead l x n s)).lane l).st ≠ .retired := by
    rcases same.st l with stays | ⟨out, -⟩
    · rw [stays, read]
      simp [hst]
    · simp [out]
  have lane := idleEnter_lane ((kept.portOfLane (by decide) l).trans hp)
    ((same.up (corrections_kept.e_plt (by decide)) p).trans ((codewordRead_kept.up (by decide) (by decide) p).trans hup)) used
  have cand : ((corrections l n (codewordRead l x n s)).lane l).cand = (s.lane l).cand := by rw [same.keeps Lane.cand (fun _ => rfl), read]
  have taps : ((corrections l n (codewordRead l x n s)).lane l).taps = (s.lane l).taps := by rw [same.keeps Lane.taps (fun _ => rfl), read]
  have pTaps : ((corrections l n (codewordRead l x n s)).lane l).pTaps = (s.lane l).pTaps := by rw [same.keeps Lane.pTaps (fun _ => rfl), read]
  have ctle : ((corrections l n (codewordRead l x n s)).lane l).ctle = (s.lane l).ctle := by rw [same.keeps Lane.ctle (fun _ => rfl), read]
  rw [lane, kept.e_clk]
  exact ⟨rfl, rfl, cand, rfl, rfl, rfl, taps, pTaps, ctle⟩

theorem idleExit_idle (hst : (s.lane l).st = .idle) :
    idleExit l s = s.modLane l (fun v => { v with sigdet := true, exit := if v.retain then some 0 else none, cand := if v.retain then v.kept else v.cand }) := by
  simp only [idleExit, hst]
  rfl

end

end Sys2Proof.Machine

section
open Sys2Proof Sys2Proof.Machine

/-- Settles O26: a codeword is hunted with, read under lock, or checked after a burst; what it carries then goes on from the lane as it left it. A penalty for many corrections may take the lane out of use, and leaves its receiver and its taps. -/
theorem laneReceiversComplete : Obligations.LaneReceiversComplete := by
  refine ⟨fun l x v s hv hb hst hrun hexit hret hc => ?_, fun l x v s hv hb hst hrun hexit hret hc => ?_, fun l x v s hv hb hst hrun hexit hret hc hup => ?_,
    fun l x v s hv hb hst hrun hexit hret hc few hits => ?_, fun l x v s hv hb hst hrun hexit hup => ?_,
    fun l x b v s hv ha hoff hrun hexit hret hc hits h9 new => ?_, fun dt p i l v s hl hi hv hd hrun hst due => ?_,
    fun l x v s hv hst hrun hexit hret hc hits ⟨p, hp, hup⟩ => ?_, fun dt l v s hv hret hexit due hlock => ?_, fun p i l v s hl hi hv hst hret => ?_,
    fun l x v s hv hst hexit hc ⟨p, hp, hup⟩ => ?_, fun l x k v s hv hst hexit hc ⟨p, hp, hdown⟩ => ?_⟩ <;> subst hv
  · have hunts := receive_hunting (x := x) hb hst hrun hexit hret
    rw [hc, bne_self_eq_false, huntOne_invalid] at hunts
    refine ⟨_, congrArg Host.Outcome.next hunts, ?_, fun k hk => ?_, rfl⟩
    · exact modLane_modLane_lane _ _
    · exact (modLane_lane_of_ne _ _ hk).trans (modLane_lane_of_ne _ _ hk)
  · have hunts := receive_hunting (x := x) hb hst (by omega) hexit hret
    rw [bne_iff_ne.mpr hc, huntOne_valid (by rw [symbolsIn, modLane_lane_self]; exact hrun)] at hunts
    refine ⟨_, congrArg Host.Outcome.next hunts, ?_, fun k hk => ?_, rfl⟩
    · exact modLane_modLane_lane _ _
    · exact (modLane_lane_of_ne _ _ hk).trans (modLane_lane_of_ne _ _ hk)
  · have hunts := receive_hunting (x := x) hb hst (by omega) hexit hret
    have kept : Kept [.srd, .fresh] s (lockFound l.val (symbolsIn l.val x s)) := (symbolsIn_kept.mono (by decide)).trans lockFound_kept
    have unasked : rejoin l.val (lockFound l.val (symbolsIn l.val x s)) = lockFound l.val (symbolsIn l.val x s) :=
      rejoin_down fun p hp => (kept.up (by decide) (by decide) p).trans (hup p ((kept.portOfLane (by decide) _).symm.trans hp))
    rw [bne_iff_ne.mpr hc, huntOne_lock (by rw [symbolsIn, modLane_lane_self]; exact hrun), unasked] at hunts
    obtain ⟨c, le, found, others⟩ := lockFound_lane (l := l.val) (s := symbolsIn l.val x s) (by rw [symbolsIn, modLane_lane_self]; exact hst)
    have run : ((symbolsIn l.val x s).lane l.val).run = 63 := by rw [symbolsIn, modLane_lane_self]; exact hrun
    have cand : ((symbolsIn l.val x s).lane l.val).cand = (s.lane l.val).cand := by rw [symbolsIn, modLane_lane_self]
    refine ⟨_, congrArg Host.Outcome.next hunts, by rw [found], by rw [found, run], by rw [found, cand], by rw [found]; exact le, fun k hk => ?_⟩
    exact (others k hk).trans (modLane_lane_of_ne _ _ hk)
  · obtain ⟨p, hp⟩ := laneBuilt_port hb
    have reads := receive_locked hp (by simp [hst]) (by simp [hst]) hrun hexit hret hc (by simp)
    rw [lockedOne_read hits, corrections_few few] at reads
    obtain ⟨_, _, _, lane⟩ := codewordRead_lane (l := l.val) (x := x) (s := s) ((s.lane l.val).decode x).2.1
    refine ⟨_, congrArg Host.Outcome.next reads, ?_, ?_, ?_, ?_, ?_, fun k hk => codewordRead_others hk⟩
    · exact (congrArg Lane.st lane).trans hst
    · exact congrArg Lane.hist lane
    · exact fecmax_newest (congrArg Lane.fecLog lane)
    · exact congrArg Lane.corrSum lane
    · exact congrArg Lane.corrN lane
  · exact ⟨_, congrArg Host.Outcome.next (receive_silent hb hrun hexit hup), modLane_modLane_lane _ _,
      fun k hk => (modLane_lane_of_ne _ _ hk).trans (modLane_lane_of_ne _ _ hk)⟩
  · obtain ⟨⟨p, hp⟩, used⟩ := answersEq_port ha
    have reads := receive_locked hp hoff used hrun hexit hret hc (by simp)
    rw [lockedOne_read hits, ← receiveIf_kind (kind := Content.isEq) (by rw [hc]; rfl)] at reads
    obtain ⟨taps, stat, echo, applied, done⟩ := takeEq_read (x := x) (n := ((s.lane l.val).decode x).2.1) ha h9 new
    exact ⟨_, congrArg Host.Outcome.next reads, taps, stat, echo, applied, done⟩
  · subst hl
    have lane := elapse_kept.lane (s := s) (t := elapse dt s) (by decide) (p.val + i.val)
    have ends := tuneEnd_due (l := p.val + i.val) (s := elapse dt s) (by rw [lane]; exact hd) (by rw [lane]; exact hrun) (by rw [lane]; exact hst)
      (by rw [lane, elapse_clk]; exact due)
    refine ⟨_, congrArg Host.Outcome.next ((if_pos (by rw [elapse_kept.width (by decide)]; exact hi)).trans ends), ?_, elapse_clk dt s, fun k hk => ?_⟩
    · rw [modLane_lane_self, lane]
    · rw [modLane_lane_of_ne _ _ hk, elapse_kept.lane (by decide)]
  · have reads := receive_locked hp (by simp [hst]) (by simp [hst]) hrun hexit hret hc (by simp)
    rw [lockedOne_read hits, ← receiveIf_kind (kind := (· == .idle)) (by rw [hc]; rfl)] at reads
    exact ⟨_, congrArg Host.Outcome.next reads, idleEnter_read hp hup hst _⟩
  · have lane := elapse_kept.lane (s := s) (t := elapse dt s) (by decide) l.val
    have drops := retainExpire_due (l := l.val) (s := elapse dt s) (by rw [lane]; exact hret) (by rw [lane]; exact hexit) (by rw [lane, elapse_clk]; exact due)
      (fun p hp => by rw [elapse_kept.link (by decide)]; exact hlock p ((elapse_kept.portOfLane (by decide) _).symm.trans hp))
    exact ⟨_, congrArg Host.Outcome.next drops, (modLane_lane_self _ _ _).trans (by rw [lane])⟩
  · subst hl
    refine ⟨_, congrArg Host.Outcome.next ((if_pos hi).trans (idleExit_idle hst)), ?_, fun k hk => modLane_lane_of_ne _ _ hk⟩
    rw [modLane_lane_self, hret]
    rfl
  · have first := receive_exit (x := x) hp hexit (by rw [hc]; exact bne_iff_ne.mpr (by simp))
    rw [hc] at first
    have lane := exitOne_first (l := l.val) (s := symbolsIn l.val x s) (by rw [symbolsIn, modLane_lane_self]; exact hst)
      (fun q hq => by
        rw [symbolsIn_kept.portOfLane (by decide), hp] at hq
        rw [symbolsIn_kept.up (by decide) (by decide), ← Option.some.inj hq, hup])
    exact ⟨_, congrArg Host.Outcome.next first, congrArg Lane.st lane, congrArg Lane.run lane, congrArg Lane.exit lane, congrArg Lane.tuneAt lane⟩
  · have drops := receive_exit_invalid (x := x) hp hexit hc
    have lane := dropRetained_down (l := l.val) (s := symbolsIn l.val x s) ((symbolsIn_kept.portOfLane (by decide) _).trans hp)
      (by rw [symbolsIn_kept.link (by decide)]; exact hdown)
    exact ⟨_, congrArg Host.Outcome.next drops, congrArg Lane.st lane, congrArg Lane.retain lane, congrArg Lane.exit lane, congrArg Lane.run lane⟩

end

/-! SUPPORT. Recalibration and eye scans, case by case (R114 to R118). -/
namespace Sys2Proof.Machine
open Sys2Proof

/-! ### Recalibration (R114 to R116) -/

section
variable {l p : Nat} {s : State}

theorem requestRecal_refused {r : RecalResult} (hp : s.portOfLane l = some p) (hr : recalRefusal s p l = some r) (hrun : (s.lane l).recal ≠ .running) :
    requestRecal l s = s.modLane l (fun v => { v with recal := r }) := by
  simp only [requestRecal, hp, hr]
  exact if_neg (by simpa using hrun)

/-- A recalibration of case A begins: the lane is marked, before it leaves use. -/
def recalBegun (l : Nat) (s : State) : State := (disturbEye l s).modLane l (fun v => { v with recal := .running, passes := 0, parked := false })

theorem recalBegun_lane : (recalBegun l s).lane l = { s.lane l with recal := .running, passes := 0, parked := false } := by
  rw [recalBegun, modLane_lane_self, disturbEye_kept.lane (by decide)]

theorem Kept.caseA {L : List Blk} {t : State} (k : Kept L s t) (h : Blk.lnk ∉ L) (i : Nat) : t.caseA p i = s.caseA p i := by
  simp only [State.caseA, State.cap, k.link h]

/-- The lane leaves use, or waits for an OFF that is out already, or begins its pass at once. -/
theorem requestRecal_caseA (hp : s.portOfLane l = some p) (hr : recalRefusal s p l = none) (ha : s.caseA p (l - p) = true) :
    requestRecal l s = rxLaneOff p (l - p) (recalBegun l s) ∨ requestRecal l s = recalBegun l s ∨ requestRecal l s = startRecal l (recalBegun l s) := by
  have caseA : (disturbEye l s).caseA p (l - p) = true := (disturbEye_kept.caseA (by decide) _).trans ha
  simp only [requestRecal, hp, hr, caseA, if_true]
  split
  · exact .inl rfl
  · split
    · exact .inr (.inl rfl)
    · exact .inr (.inr rfl)

/-- The lane of a pass that has met R115, before the port asks for it back. -/
def passMade (l : Nat) (s : State) : State := settleCtle l (s.modLane l (fun v => { v with passes := v.passes + 1, st := .out }))

theorem passMade_lane : ∃ c : Byte, c.toNat ≤ 40 ∧ (passMade l s).lane l = { s.lane l with passes := (s.lane l).passes + 1, st := .out, ctle := c } := by
  obtain ⟨c, le, lane, -⟩ := settleCtle_lane (l := l) (s := s.modLane l (fun v => { v with passes := v.passes + 1, st := .out }))
  exact ⟨c, le, by rw [passMade, lane, modLane_lane_self]⟩

/-- The port asks for a lane back, where it has one. -/
def askedBack (l : Nat) (s : State) : State := match s.portOfLane l with | some p => rxLaneOn p (l - p) s | none => s
theorem askedBack_receivers : SameReceivers s (askedBack l s) := by
  unfold askedBack
  split
  · exact rxLaneOn_receivers
  · exact .refl s

/-- A pass has failed: the third ends the recalibration, another begins again. -/
def passFailed (l : Nat) (s : State) : State :=
  let u := s.modLane l (fun v => { v with passes := v.passes + 1 })
  if (s.lane l).passes == 2 then u.modLane l (fun v => { v with recal := .failed, st := .out, parked := true }) else startRecal l u

theorem passFailed_last (h : (s.lane l).passes = 2) : (passFailed l s).lane l =
    { s.lane l with passes := (s.lane l).passes + 1, recal := .failed, st := .out, parked := true } := by
  simp only [passFailed, h, beq_self_eq_true, if_true, modLane_modLane_lane]
theorem passFailed_again (h : (s.lane l).passes ≠ 2) : (passFailed l s).lane l = { s.lane l with
    passes := (s.lane l).passes + 1, st := .recal, run := 0, hist := 0, passAt := s.clk, passN := 0, passBad := false, tuneAt := s.clk, done := false,
    awaiting := false, corrSum := 0, corrN := 0, lastRate := none, fails := 0 } := by
  have more : ((s.lane l).passes == 2) = false := beq_eq_false_iff_ne.mpr h
  simp only [passFailed, more, Bool.false_eq_true, if_false, startRecal, modLane_modLane_lane]
  rfl

theorem passEnd_eq : passEnd l s =
    if (s.lane l).recal != .running || (s.lane l).st != .recal then s
    else if (s.lane l).passMet then askedBack l (passMade l s)
    else if (s.lane l).passBad || 200 * 10 ^ 6 ≤ s.clk - (s.lane l).passAt then addPenalty 0 l (100 * 10 ^ 9) (passFailed l s) else s := rfl

theorem passEnd_met (hr : (s.lane l).recal = .running) (hst : (s.lane l).st = .recal) (hm : (s.lane l).passMet = true) :
    passEnd l s = askedBack l (passMade l s) := by
  simp [passEnd_eq, hr, hst, hm]
theorem passEnd_failed (hr : (s.lane l).recal = .running) (hst : (s.lane l).st = .recal) (hm : (s.lane l).passMet = false)
    (due : (s.lane l).passBad = true ∨ 200000000 ≤ s.clk - (s.lane l).passAt) : passEnd l s = addPenalty 0 l (100 * 10 ^ 9) (passFailed l s) := by
  simp [passEnd_eq, hr, hst, hm, due]

/-- The penalty of the third failed pass may drain the lane, which is out of use already. -/
theorem scored_last {w : Nat} (h : (s.lane l).passes = 2) : ((addPenalty 0 l w (passFailed l s)).lane l).passes = (s.lane l).passes + 1 ∧
    ((addPenalty 0 l w (passFailed l s)).lane l).recal = .failed ∧ ((addPenalty 0 l w (passFailed l s)).lane l).st = .out ∧
    ((addPenalty 0 l w (passFailed l s)).lane l).parked = true := by
  have same : SameReceivers (passFailed l s) (addPenalty 0 l w (passFailed l s)) := addPenalty_receivers
  have st := same.st l
  rw [passFailed_last h] at st
  rw [same.keeps Lane.passes (fun _ => rfl), same.keeps Lane.recal (fun _ => rfl), same.keeps Lane.parked (fun _ => rfl), passFailed_last h]
  exact ⟨rfl, rfl, st.elim id And.left, rfl⟩

/-- A lane that goes on recalibrating is not drained. -/
theorem scored_again {w : Nat} (h : (s.lane l).passes ≠ 2) : (addPenalty 0 l w (passFailed l s)).lane l = (passFailed l s).lane l :=
  (addPenalty_recal (by rw [passFailed_again h])).lane (by decide) l

end

/-! ### Eye scans (R117, R118) -/

section
variable {c lane : Nat} {s : State}

/-- START set in a value written: every other field is as it was. -/
theorem setFld_start (v : Nat) : setFld v 0 1 1 = 2 * (v / 2) + 1 := by
  simp [setFld, fld]
  omega
theorem start_div (v k : Nat) : setFld v 0 1 1 / 2 ^ (k + 1) = v / 2 ^ (k + 1) := by
  rw [setFld_start, Nat.pow_succ', ← Nat.div_div_eq_div_mul, ← Nat.div_div_eq_div_mul, show (2 * (v / 2) + 1) / 2 = v / 2 by omega]
theorem fld_start (v k w : Nat) : fld (setFld v 0 1 1) (k + 1) w = fld v (k + 1) w := by rw [fld, fld, start_div]
theorem bitAt_start (v k : Nat) : bitAt (setFld v 0 1 1) (k + 1) = bitAt v (k + 1) := by rw [bitAt, bitAt, start_div]
theorem bitAt_start_self (v : Nat) : bitAt (setFld v 0 1 1) 0 = true := by simp [setFld_start, bitAt]

theorem modEye_modEye_eyeOf (f g : Eye → Eye) : ((s.modEye c f).modEye c g).eyeOf c = g (f (s.eyeOf c)) := by
  rw [modEye_eyeOf_self, modEye_eyeOf_self]

/-- The fields of SRD_EYE_CTRL, written. -/
def Eye.control (e : Eye) (v : Nat) : Eye := { e with dwell := BitVec.ofNat 8 (fld v 24 8), eye := BitVec.ofNat 2 (fld v 22 2), lane := BitVec.ofNat 8 (fld v 8 8) }
theorem control_start (e : Eye) (v : Nat) : e.control (setFld v 0 1 1) = e.control v := by
  simp only [Eye.control, fld_start _ 23 8, fld_start _ 21 2, fld_start _ 7 8]
/-- A scan of a lane that begins. -/
def Eye.begun (e : Eye) (scan clk base dwell : Nat) : Eye :=
  { e with points := 0, intr := false, done := false, busy := true, res := [], startAt := clk, scan := scan, base := base, ptFs := 2 ^ dwell * 9412 + 10 ^ 8 }

/-- The engine takes its fields and begins a scan; its counts are the next free values. -/
def startScan (c v : Nat) (s : State) : State :=
  { ((s.modEye c (fun e => e.control v)).modEye c (fun e => e.begun (256 * c + fld v 8 8) s.clk s.fresh (fld v 24 8))) with fresh := s.fresh + 4096 }
theorem startScan_eyeOf {v : Nat} : (startScan c v s).eyeOf c = ((s.eyeOf c).control v).begun (256 * c + fld v 8 8) s.clk s.fresh (fld v 24 8) :=
  modEye_modEye_eyeOf (fun e => e.control v) (fun e => e.begun (256 * c + fld v 8 8) s.clk s.fresh (fld v 24 8))

theorem writeEye_start {v : Nat} (hb : (s.eyeOf c).busy = false) (ha : bitAt v 1 = false) (hl : s.laneBuilt (256 * c + fld v 8 8) = true) :
    writeEye c (setFld v 0 1 1) s = startScan c v s := by
  have idle : ((s.modEye c (fun e => e.control v)).eyeOf c).busy = false := by
    rw [modEye_eyeOf_self]
    exact hb
  have built : (s.modEye c (fun e => e.control v)).laneBuilt (256 * c + fld v 8 8) = true := hl
  have lane : fld (setFld v 0 1 1) 8 8 = fld v 8 8 := fld_start v 7 8
  have dwell : fld (setFld v 0 1 1) 24 8 = fld v 24 8 := fld_start v 23 8
  have abort : bitAt (setFld v 0 1 1) 1 = false := (bitAt_start v 0).trans ha
  have whole : writeEye c (setFld v 0 1 1) s = (let u := s.modEye c (fun e => e.control (setFld v 0 1 1))
      let u := if bitAt (setFld v 0 1 1) 1 then abortEye c u else u
      if !bitAt (setFld v 0 1 1) 0 then u
      else if (u.eyeOf c).busy then u.modEye c (fun e => { e with reject := true })
      else if !u.laneBuilt (256 * c + fld (setFld v 0 1 1) 8 8) then u
      else { (u.modEye c (fun e => e.begun (256 * c + fld (setFld v 0 1 1) 8 8) u.clk u.fresh (fld (setFld v 0 1 1) 24 8))) with fresh := u.fresh + 4096 }) := rfl
  rw [whole]
  simp only [control_start, lane, dwell, abort, bitAt_start_self, idle, built, Bool.not_true, Bool.false_eq_true, if_false]
  rfl

theorem abortEye_busy (hb : (s.eyeOf c).busy = true) : abortEye c s = s.modEye c (fun e =>
    { e with busy := false, points := BitVec.ofNat 13 (eyePoints (s.eyeOf c) s.clk), res := e.counts (eyePoints (s.eyeOf c) s.clk) }) := by
  simp only [abortEye, hb]
  rfl

theorem scanDone_whole (hb : (s.eyeOf c).busy = true) (hs : (s.eyeOf c).scan = 256 * c + lane) (hn : eyePoints (s.eyeOf c) s.clk = 4096) :
    scanDone c lane s = s.modEye c (fun e => { e with busy := false, done := true, points := 4096, res := e.counts 4096 }) := by
  simp only [scanDone, hb, hs, hn, bne_self_eq_false]
  rfl

theorem Kept.eyeOf {L : List Blk} {t : State} (k : Kept L s t) (h : Blk.eye ∉ L) (n : Nat) : t.eyeOf n = s.eyeOf n := by
  rw [State.eyeOf, State.eyeOf, k.e_eye h]

/-- A command that the port's owner writes runs. -/
theorem completes_owner {p : HPort} {i : Instr} {f : State → State} {P : State → Prop} (run : exec i s = .next (hostWrite p false f s)) (ho : Owner p s)
    (h : P (f s)) : Completes i s P := by
  obtain ⟨live, boots, owns⟩ := ho
  exact ⟨f s, by rw [run, hostWrite_owner live boots owns], h⟩

end

end Sys2Proof.Machine

section
open Sys2Proof Sys2Proof.Machine

/-- Settles O27: a request is refused, or marks the lane before it leaves use; a pass ends met or failed, and the penalty of a failed one cannot drain a lane that goes on recalibrating; a scan starts, ends early or ends whole. -/
theorem laneMaintenanceCompletes : Obligations.LaneMaintenanceCompletes := by
  refine ⟨fun p l q r s ho hp hr hrun => ?_, fun p l q s ho hp hq hr ha => ?_, fun dt l v s hv hr hst hm => ?_, fun dt l v s hv hr hst hm due => ?_,
    fun p c v s ho hb ha hl => ?_, fun p c s ho hb => ?_, fun dt c lane s hb hs hn => ?_⟩
  · exact completes_owner rfl ho (requestRecal_refused hp hr hrun)
  · refine completes_owner rfl ho ?_
    rcases requestRecal_caseA hp hr ha with off | waits | begins
    · rw [off]
      have same : SameReceivers (recalBegun l.val s) (rxLaneOff q (l.val - q) (recalBegun l.val s)) := rxLaneOff_receivers
      rw [same.keeps Lane.recal (fun _ => rfl), same.keeps Lane.passes (fun _ => rfl), same.keeps Lane.parked (fun _ => rfl), recalBegun_lane]
      exact ⟨rfl, rfl, rfl⟩
    · rw [waits, recalBegun_lane]
      exact ⟨rfl, rfl, rfl⟩
    · rw [begins, startRecal, modLane_lane_self, recalBegun_lane]
      exact ⟨rfl, rfl, rfl⟩
  · subst hv
    have lane := elapse_kept.lane (s := s) (t := elapse dt s) (by decide) l.val
    rw [← lane] at hr hst hm ⊢
    obtain ⟨c, le, made⟩ := passMade_lane (l := l.val) (s := elapse dt s)
    have same : SameReceivers (passMade l.val (elapse dt s)) (askedBack l.val (passMade l.val (elapse dt s))) := askedBack_receivers
    refine ⟨_, congrArg Host.Outcome.next (passEnd_met hr hst hm), ?_⟩
    dsimp only
    rw [same.keeps Lane.passes (fun _ => rfl), same.keeps Lane.ctle (fun _ => rfl), made]
    exact ⟨rfl, le⟩
  · subst hv
    have lane := elapse_kept.lane (s := s) (t := elapse dt s) (by decide) l.val
    rw [← lane] at hr hst hm due ⊢
    have failed := passEnd_failed hr hst hm (by rw [elapse_clk]; exact due)
    refine ⟨_, congrArg Host.Outcome.next failed, ?_⟩
    by_cases h : ((elapse dt s).lane l.val).passes = 2
    · obtain ⟨passes, rest⟩ := scored_last (w := 100 * 10 ^ 9) h
      exact ⟨passes, by rw [if_pos h]; exact rest⟩
    · dsimp only
      rw [if_neg h, scored_again h, passFailed_again h, elapse_clk, hr]
      exact ⟨rfl, rfl, rfl, rfl⟩
  · refine completes_owner rfl ho ?_
    rw [writeEye_start hb ha hl]
    exact ⟨startScan_eyeOf, rfl⟩
  · refine completes_owner rfl ho ?_
    rw [abortEye_busy hb, modEye_eyeOf_self]
    exact ⟨rfl, rfl, rfl, rfl, fun k hk => modEye_eyeOf_of_ne _ _ hk⟩
  · have eye := fun k => elapse_kept.eyeOf (s := s) (t := elapse dt s) (by decide) k
    have whole := scanDone_whole (c := c.val) (lane := lane.toNat) (s := elapse dt s) (by rw [eye]; exact hb) (by rw [eye]; exact hs) (by rw [eye, elapse_clk]; exact hn)
    refine ⟨_, congrArg Host.Outcome.next whole, ?_, fun k hk => ?_⟩
    · rw [modEye_eyeOf_self, eye]
    · rw [modEye_eyeOf_of_ne _ _ hk, eye]

end

/-! SUPPORT. Service-lane receivers bit by bit, what makes a message bad, and the mailbox's calibration commands (R121 to R127). -/
namespace Sys2Proof.Machine
open Sys2Proof

/-! ### Bits of a service lane between characters (R121) -/

/-- The place after a bit, modulo 10. -/
def nextPh (p : BitVec 4) : BitVec 4 := if p == 9 then 0 else p + 1
/-- The last ten bits after one more. -/
def shiftIn (w : BitVec 10) (b : Bool) : BitVec 10 := (w >>> 1) ||| (if b then 512 else 0)
/-- A lane after bits that end no character and begin none. -/
def Svc.shifted (v : Svc) (bits : List Bool) : Svc := { v with win := bits.foldl shiftIn v.win, ph := nextPh^[bits.length] v.ph }

/-- No bit of these ends the character at one place that is waited for, or completes a comma. -/
def quiet (waits : Bool) (at_ : BitVec 4) : BitVec 4 → BitVec 10 → List Bool → Bool
  | _, _, [] => true
  | p, w, b :: r => !(waits && nextPh p == at_) && !isComma (shiftIn w b) && quiet waits at_ (nextPh p) (shiftIn w b) r

theorem shifted_cons (v : Svc) (b : Bool) (r : List Bool) : v.shifted (b :: r) = (v.shifted [b]).shifted r := rfl

section
variable {v : Svc}

theorem takeBit_aligning (h : v.st = .aligning) (b : Bool) : v.takeBit b = (v.shifted [b]).tryAlign := by
  obtain ⟨crc, cv, abort, st, win, ph, at_, commas, rd, bad, marker, txSeq, txRd⟩ := v
  cases h
  rfl
theorem takeBit_aligned (h : v.st = .aligned) (b : Bool) : v.takeBit b =
    if nextPh v.ph == v.at_ then (v.shifted [b]).takeChar (shiftIn v.win b) else v.shifted [b] := by
  obtain ⟨crc, cv, abort, st, win, ph, at_, commas, rd, bad, marker, txSeq, txRd⟩ := v
  cases h
  rfl

theorem tryAlign_quiet (due : (v.commas != 0 && v.ph == v.at_) = false) (comma : isComma v.win = false) : v.tryAlign = v := by
  simp only [Svc.tryAlign, due, comma, Bool.false_eq_true, if_false]

/-- Quiet bits leave a receiver that aligns as it was. -/
theorem takeBits_quiet {bits : List Bool} (h : v.st = .aligning) (q : quiet (v.commas != 0) v.at_ v.ph v.win bits = true) :
    bits.foldl Svc.takeBit v = v.shifted bits := by
  induction bits generalizing v with
  | nil => rfl
  | cons b r ih =>
    simp only [quiet, Bool.and_eq_true, Bool.not_eq_true'] at q
    obtain ⟨⟨due, comma⟩, rest⟩ := q
    have step : v.takeBit b = v.shifted [b] := (takeBit_aligning h b).trans (tryAlign_quiet due comma)
    rw [List.foldl_cons, step, shifted_cons]
    exact ih h rest

/-- Bits that do not reach the end of an aligned character are kept. -/
theorem takeBits_between {bits : List Bool} (h : v.st = .aligned) (q : ∀ n, n < bits.length → nextPh^[n + 1] v.ph ≠ v.at_) :
    bits.foldl Svc.takeBit v = v.shifted bits := by
  induction bits generalizing v with
  | nil => rfl
  | cons b r ih =>
    have first : (nextPh v.ph == v.at_) = false := beq_eq_false_iff_ne.mpr (q 0 (by simp))
    have step : v.takeBit b = v.shifted [b] := by
      rw [takeBit_aligned h, first]
      rfl
    rw [List.foldl_cons, step, shifted_cons]
    exact ih h fun n hn => q (n + 1) (by simpa using hn)

/-! ### Three commas align (R121) -/

/-- The first comma sets an alignment on trial. -/
theorem tryAlign_first (hc : v.commas = 0) (comma : isComma v.win = true) : v.tryAlign = { v with commas := 1, at_ := v.ph, rd := rdAfter10 false v.win } := by
  have due : (v.commas != 0 && v.ph == v.at_) = false := by simp [hc]
  simp only [Svc.tryAlign, due, comma, Bool.false_and, Bool.false_eq_true, if_false, if_true]
  rfl

/-- A comma at the alignment on trial, valid at the running disparity: the second counts, the third aligns. -/
theorem tryAlign_second (hc : v.commas = 1) (hp : v.ph = v.at_) (valid : (decode10 v.rd v.win).isSome = true) (comma : isComma v.win = true) :
    v.tryAlign = { v with commas := 2, at_ := v.ph, rd := rdAfter10 false v.win } := by
  simp [Svc.tryAlign, hc, hp, valid, comma]
theorem tryAlign_third (hc : v.commas = 2) (hp : v.ph = v.at_) (valid : (decode10 v.rd v.win).isSome = true) (comma : isComma v.win = true) :
    v.tryAlign.st = .aligned := by
  simp [Svc.tryAlign, hc, hp, valid, comma]

end

/-- The bits of K28.5, first bit first. -/
def commaMinus : List Bool := [false, false, true, true, true, true, true, false, true, false]
def commaPlus : List Bool := [true, true, false, false, false, false, false, true, false, true]

theorem isComma_minus : isComma 0x17C = true := by decide
theorem isComma_plus : isComma 0x283 = true := by decide
theorem decode10_minus : (decode10 false 0x17C).isSome = true := by decide
theorem decode10_plus : (decode10 true 0x283).isSome = true := by decide
theorem rdAfter10_minus : rdAfter10 false 0x17C = true := by decide
theorem rdAfter10_plus : rdAfter10 false 0x283 = false := by decide

theorem nextPh_ten_lt : ∀ p : BitVec 4, (nextPh^[10] p).toNat < 10 := by decide
theorem nextPh_ten : ∀ k : BitVec 4, k.toNat < 10 → nextPh^[10] k = k := by decide
theorem nextPh_between : ∀ k : BitVec 4, k.toNat < 10 → ∀ n, n < 9 → nextPh^[n + 1] k ≠ k := by decide

/-- Where no place is waited for, the place does not matter. -/
theorem quiet_free (a b p q : BitVec 4) (w : BitVec 10) (bits : List Bool) : quiet false a p w bits = quiet false b q w bits := by
  induction bits generalizing p q w with
  | nil => rfl
  | cons c r ih =>
    simp only [quiet, Bool.false_and]
    rw [ih]

theorem quiet_minus_first : quiet false 0 0 0 (commaMinus.take 9) = true := by decide
theorem quiet_plus_next : ∀ k : BitVec 4, k.toNat < 10 → quiet true k k 0x17C (commaPlus.take 9) = true := by decide
theorem quiet_minus_next : ∀ k : BitVec 4, k.toNat < 10 → quiet true k k 0x283 (commaMinus.take 9) = true := by decide

theorem shifted_append (v : Svc) (a b : List Bool) : (v.shifted a).shifted b = v.shifted (a ++ b) := by
  induction a generalizing v with
  | nil => rfl
  | cons c r ih => rw [shifted_cons, ih, List.cons_append, shifted_cons v c (r ++ b)]

theorem shifted_ten {v : Svc} {bits : List Bool} {w : BitVec 10} {k : BitVec 4} (hl : bits.length = 10) (hw : bits.foldl shiftIn v.win = w)
    (hk : nextPh^[10] v.ph = k) : v.shifted bits = { v with win := w, ph := k } := by
  rw [Svc.shifted, hl, hw, hk]

section
variable {v : Svc} (h : v.st = .aligning)
include h

/-- Ten bits of which only the last may matter. -/
theorem takeBits_tenth {bits : List Bool} {b : Bool} (q : quiet (v.commas != 0) v.at_ v.ph v.win bits = true) :
    (bits ++ [b]).foldl Svc.takeBit v = (v.shifted (bits ++ [b])).tryAlign := by
  rw [List.foldl_append, takeBits_quiet h q, List.foldl_cons, List.foldl_nil, takeBit_aligning (v := v.shifted bits) h, shifted_append]

theorem align_first (hc : v.commas = 0) (hw : v.win = 0) : ∃ k : BitVec 4, k.toNat < 10 ∧ commaMinus.foldl Svc.takeBit v =
    { v with win := 0x17C, ph := k, commas := 1, at_ := k, rd := true } := by
  have unwaited : (v.commas != 0) = false := by rw [hc]; rfl
  have q : quiet (v.commas != 0) v.at_ v.ph v.win (commaMinus.take 9) = true := by rw [unwaited, hw, quiet_free _ 0 _ 0, quiet_minus_first]
  obtain ⟨k, hk, lt⟩ : ∃ k, nextPh^[10] v.ph = k ∧ k.toNat < 10 := ⟨_, rfl, nextPh_ten_lt _⟩
  have win : v.shifted commaMinus = { v with win := 0x17C, ph := k } := shifted_ten rfl (by rw [hw]; decide) hk
  have tenth := takeBits_tenth (b := false) h q
  have first := tryAlign_first (v := { v with win := 0x17C, ph := k }) hc isComma_minus
  rw [show commaMinus.take 9 ++ [false] = commaMinus from rfl, win, first, rdAfter10_minus] at tenth
  exact ⟨k, lt, tenth⟩

variable (hp : v.ph = v.at_) (hk : v.at_.toNat < 10)
include hp hk

theorem align_second (hc : v.commas = 1) (hw : v.win = 0x17C) (hr : v.rd = true) : commaPlus.foldl Svc.takeBit v =
    { v with win := 0x283, commas := 2, rd := false } := by
  have waits : (v.commas != 0) = true := by rw [hc]; rfl
  have q : quiet (v.commas != 0) v.at_ v.ph v.win (commaPlus.take 9) = true := by rw [waits, hp, hw, quiet_plus_next _ hk]
  have win : v.shifted commaPlus = { v with win := 0x283, ph := v.at_ } := shifted_ten rfl (by rw [hw]; decide) (by rw [hp, nextPh_ten _ hk])
  have tenth := takeBits_tenth (b := true) h q
  have second := tryAlign_second (v := { v with win := 0x283, ph := v.at_ }) hc rfl (by rw [hr]; exact decode10_plus) isComma_plus
  rw [show commaPlus.take 9 ++ [true] = commaPlus from rfl, win, second, rdAfter10_plus] at tenth
  rw [tenth, hp]

theorem align_third (hc : v.commas = 2) (hw : v.win = 0x283) (hr : v.rd = false) : (commaMinus.foldl Svc.takeBit v).st = .aligned := by
  have waits : (v.commas != 0) = true := by rw [hc]; rfl
  have q : quiet (v.commas != 0) v.at_ v.ph v.win (commaMinus.take 9) = true := by rw [waits, hp, hw, quiet_minus_next _ hk]
  have win : v.shifted commaMinus = { v with win := 0x17C, ph := v.at_ } := shifted_ten rfl (by rw [hw]; decide) (by rw [hp, nextPh_ten _ hk])
  have tenth := takeBits_tenth (b := false) h q
  rw [show commaMinus.take 9 ++ [false] = commaMinus from rfl, win] at tenth
  rw [tenth]
  exact tryAlign_third (v := { v with win := 0x17C, ph := v.at_ }) hc rfl (by rw [hr]; exact decode10_minus) isComma_minus

end

/-- Three commas in a row align a receiver that begins. -/
theorem threeCommas_align {v : Svc} (h : v.st = .aligning) (hc : v.commas = 0) (hw : v.win = 0) :
    ((commaMinus ++ commaPlus ++ commaMinus).foldl Svc.takeBit v).st = .aligned := by
  obtain ⟨k, lt, first⟩ := align_first h hc hw
  rw [List.foldl_append, List.foldl_append, first, align_second (v := { v with win := 0x17C, ph := k, commas := 1, at_ := k, rd := true }) h rfl lt rfl rfl rfl]
  exact align_third (v := { v with win := 0x283, ph := k, commas := 2, at_ := k, rd := false }) h rfl lt rfl rfl rfl

/-! ### Invalid characters lose alignment (R121) -/

theorem shiftIn_false (w : BitVec 10) : shiftIn w false = w >>> 1 := BitVec.or_zero
/-- Ten zeros fill the window. -/
theorem zeros_window (w : BitVec 10) : (List.replicate 10 false).foldl shiftIn w = 0 := by
  simp only [List.replicate, List.foldl_cons, List.foldl_nil, shiftIn_false, ← BitVec.shiftRight_add]
  exact BitVec.ushiftRight_eq_zero (by decide)
/-- One, two, three invalid characters keep alignment; four do not. -/
theorem popcount_1 : popcount (1 : BitVec 64).toNat 64 < 4 := by decide
theorem popcount_3 : popcount (3 : BitVec 64).toNat 64 < 4 := by decide
theorem popcount_7 : popcount (7 : BitVec 64).toNat 64 < 4 := by decide
theorem popcount_15 : 4 ≤ popcount (15 : BitVec 64).toNat 64 := by decide
theorem bad_second : ((1 : BitVec 64) <<< 1) ||| (1 : BitVec 64) = 3 := by decide
theorem bad_third : ((3 : BitVec 64) <<< 1) ||| (1 : BitVec 64) = 7 := by decide
theorem bad_fourth : ((7 : BitVec 64) <<< 1) ||| (1 : BitVec 64) = 15 := by decide
theorem decode10_zero : ∀ rd, decode10 rd 0 = none := by decide

section
variable {v : Svc}

/-- An invalid character, where fewer than four of the last 64 are. -/
theorem takeChar_bad {g : Code} (hd : decode10 v.rd g = none) (few : popcount ((v.bad <<< 1) ||| (1 : BitVec 64)).toNat 64 < 4) :
    v.takeChar g = { v with rd := rdAfter10 v.rd g, bad := (v.bad <<< 1) ||| (1 : BitVec 64), cv := true } := by
  have holds : ¬ 4 ≤ popcount ((v.bad <<< 1) ||| (1 : BitVec 64)).toNat 64 := by omega
  simp only [Svc.takeChar, hd, Option.isSome_none, Bool.false_eq_true, if_false, Bool.not_false, Bool.or_true]
  exact if_neg holds
/-- The fourth loses alignment. -/
theorem takeChar_lost {g : Code} (hd : decode10 v.rd g = none) (many : 4 ≤ popcount ((v.bad <<< 1) ||| (1 : BitVec 64)).toNat 64) :
    (v.takeChar g).st = .aligning ∧ (v.takeChar g).cv = true := by
  simp only [Svc.takeChar, hd, Option.isSome_none, Bool.false_eq_true, if_false, Bool.not_false, Bool.or_true]
  rw [if_pos many]
  exact ⟨rfl, rfl⟩

variable (h : v.st = .aligned) (hp : v.ph = v.at_) (hk : v.at_.toNat < 10)
include h hp hk

/-- Ten zeros on an aligned lane are one character. -/
theorem zeros_character : (List.replicate 10 false).foldl Svc.takeBit v = { v with win := 0 }.takeChar 0 := by
  have nine : (List.replicate 9 false).foldl Svc.takeBit v = v.shifted (List.replicate 9 false) :=
    takeBits_between h fun n hn => by rw [hp]; exact nextPh_between _ hk n (by simpa using hn)
  have ten : List.replicate 10 false = List.replicate 9 false ++ [false] := rfl
  have place : nextPh (v.shifted (List.replicate 9 false)).ph = (v.shifted (List.replicate 9 false)).at_ := by
    rw [Svc.shifted, List.length_replicate, ← Function.iterate_succ_apply' nextPh, hp]
    exact nextPh_ten _ hk
  have window : shiftIn (v.shifted (List.replicate 9 false)).win false = 0 := by
    have full := zeros_window v.win
    rw [ten, List.foldl_append, List.foldl_cons, List.foldl_nil] at full
    exact full
  have whole : v.shifted (List.replicate 10 false) = { v with win := 0 } := by
    rw [shifted_ten (List.length_replicate ..) (zeros_window v.win) (k := v.at_) (by rw [hp, nextPh_ten _ hk]), hp]
  rw [ten, List.foldl_append, nine, List.foldl_cons, List.foldl_nil, takeBit_aligned (v := v.shifted (List.replicate 9 false)) h, if_pos (beq_iff_eq.mpr place),
    shifted_append, ← ten, whole, window]

/-- They are an invalid one. -/
theorem zeros_bad {b : BitVec 64} (hb : (v.bad <<< 1) ||| (1 : BitVec 64) = b) (few : popcount b.toNat 64 < 4) :
    ∃ rd, (List.replicate 10 false).foldl Svc.takeBit v = { v with win := 0, rd := rd, bad := b, cv := true } := by
  have bad := takeChar_bad (v := { v with win := 0 }) (decode10_zero v.rd) (hb ▸ few)
  rw [zeros_character h hp hk, bad, hb]
  exact ⟨_, rfl⟩
theorem zeros_lost {b : BitVec 64} (hb : (v.bad <<< 1) ||| (1 : BitVec 64) = b) (many : 4 ≤ popcount b.toNat 64) :
    ((List.replicate 10 false).foldl Svc.takeBit v).st = .aligning ∧ ((List.replicate 10 false).foldl Svc.takeBit v).cv = true := by
  rw [zeros_character h hp hk]
  exact takeChar_lost (v := { v with win := 0 }) (decode10_zero v.rd) (hb ▸ many)

/-- Four invalid characters in a row lose alignment. -/
theorem fortyZeros_lose (hb : v.bad = 0) :
    ((List.replicate 40 false).foldl Svc.takeBit v).st = .aligning ∧ ((List.replicate 40 false).foldl Svc.takeBit v).cv = true := by
  have forty : List.replicate 40 false = List.replicate 10 false ++ List.replicate 10 false ++ List.replicate 10 false ++ List.replicate 10 false := rfl
  have first : (v.bad <<< 1) ||| (1 : BitVec 64) = 1 := by rw [hb]; decide
  obtain ⟨r1, one⟩ := zeros_bad h hp hk first popcount_1
  obtain ⟨r2, two⟩ := zeros_bad (v := { v with win := 0, rd := r1, bad := 1, cv := true }) h hp hk bad_second popcount_3
  obtain ⟨r3, three⟩ := zeros_bad (v := { v with win := 0, rd := r2, bad := 3, cv := true }) h hp hk bad_third popcount_7
  have four := zeros_lost (v := { v with win := 0, rd := r3, bad := 7, cv := true }) h hp hk bad_fourth popcount_15
  rw [forty, List.foldl_append, List.foldl_append, List.foldl_append, one, two, three]
  exact four

end

/-! ### Messages to discard (R122) -/

/-- A receiver whose invalid characters were counted: four of the last 64 lose alignment. -/
def Svc.judged (u : Svc) : Svc := if 4 ≤ popcount u.bad.toNat 64 then { u with st := .aligning, commas := 0, bad := 0 } else u

theorem takeChar_eq (v : Svc) (g : Code) : v.takeChar g = Svc.judged { v with
    rd := rdAfter10 v.rd g, bad := (v.bad <<< 1) ||| (if (decode10 v.rd g).isSome then 0 else 1), cv := v.cv || !(decode10 v.rd g).isSome } := rfl
theorem judged_rd (u : Svc) : u.judged.rd = u.rd := by
  unfold Svc.judged
  split <;> rfl
theorem judged_cv (u : Svc) : u.judged.cv = u.cv := by
  unfold Svc.judged
  split <;> rfl
theorem takeChar_rd (v : Svc) (g : Code) : (v.takeChar g).rd = rdAfter10 v.rd g := by rw [takeChar_eq, judged_rd]
theorem takeChar_cv (v : Svc) (g : Code) : (v.takeChar g).cv = (v.cv || !(decode10 v.rd g).isSome) := by rw [takeChar_eq, judged_cv]
theorem decodeAll_cons (rd : Bool) (g : Code) (r : List Code) : (decodeAll rd (g :: r)).1 = decode10 rd g :: (decodeAll (rdAfter10 rd g) r).1 := rfl

theorem takeChars_cv_stays (codes : List Code) (v : Svc) (h : v.cv = true) : (codes.foldl Svc.takeChar v).cv = true := by
  induction codes generalizing v with
  | nil => exact h
  | cons g r ih =>
    rw [List.foldl_cons]
    exact ih (v.takeChar g) (by rw [takeChar_cv, h, Bool.true_or])
/-- A lane has seen a violation where one of the characters is invalid at its running disparity. -/
theorem takeChars_cv (codes : List Code) (v : Svc) (h : none ∈ (decodeAll v.rd codes).1) : (codes.foldl Svc.takeChar v).cv = true := by
  induction codes generalizing v with
  | nil => exact absurd h List.not_mem_nil
  | cons g r ih =>
    rw [decodeAll_cons] at h
    rw [List.foldl_cons]
    rcases List.mem_cons.mp h with bad | rest
    · exact takeChars_cv_stays r (v.takeChar g) (by rw [takeChar_cv, ← bad, Option.isSome_none, Bool.not_false, Bool.or_true])
    · exact ih (v.takeChar g) (by rw [takeChar_rd]; exact rest)

/-- A message is discarded for a bad character only where one was heard. -/
theorem parseMsg_badChar {lane : Nat} {l : List (Option Char10)} (h : parseMsg lane l = .bad .badChar) : none ∈ l := by
  unfold parseMsg at h
  split at h
  · exact absurd h (by simp)
  · next c r started =>
    dsimp only at h
    split at h
    · exact absurd h (by simp)
    · next rest ends =>
      have inner : none ∈ r.filter (fun c => c != some .marker) := List.mem_of_mem_drop (by rw [ends]; exact List.mem_cons_self)
      have tail : none ∈ c :: r := List.mem_cons_of_mem c (List.mem_of_mem_filter inner)
      rw [← started] at tail
      exact (List.dropWhile_sublist _).subset tail
    · repeat' split at h
      all_goals exact absurd h (by simp)

section
variable {n : Nat} {s : State}

/-- Bits on a lane in use go to its receiver. -/
theorem serviceAlign_completes {n : Fin 80} {bits : List Bool} {P : State → Prop} (h : (s.svcLane n.val).st ≠ .off)
    (holds : P (s.modSvc n.val fun v => bits.foldl Svc.takeBit v)) : Completes (.serviceAlign n bits) s P :=
  ⟨_, congrArg Host.Outcome.next (if_pos (bne_iff_ne.mpr h)), holds⟩
/-- What comes in as a message to discard is discarded. -/
theorem svcMessage_discard {codes : List Code} {why : SvcDiscard} (h : (s.svcLane n).st = .aligned) (heard : s.heard n codes = .bad why) :
    svcMessage n codes (fun m => match m with | .bad why => discardSvc n why | _ => id) s =
      discardSvc n why (s.modSvc n fun v => codes.foldl Svc.takeChar v) := by
  have aligned : ((s.svcLane n).st != .aligned) = false := by rw [h]; rfl
  rw [svcMessage, heard, aligned]
  rfl
theorem discardSvc_badChar : (discardSvc n .badChar s).svcLane n = s.svcLane n := rfl
theorem discardSvc_tly (why : SvcDiscard) : (discardSvc n why s).tly = (count (evNo 8 0x100 n) s).tly := by
  cases why <;> rfl
theorem discardSvc_others (why : SvcDiscard) {k : Nat} (h : k ≠ n) : (discardSvc n why s).svcLane k = s.svcLane k := by
  cases why with
  | crc | abort => exact modSvc_svcLane_of_ne (count (evNo 8 0x100 n) s) _ h
  | badChar | kcode | noEnd | reservedType => rfl
theorem discardSvc_crc : ((discardSvc n .crc s).svcLane n).crc = true := congrArg Svc.crc (modSvc_svcLane_self (count (evNo 8 0x100 n) s) n fun v => { v with crc := true })
theorem discardSvc_abort : ((discardSvc n .abort s).svcLane n).abort = true :=
  congrArg Svc.abort (modSvc_svcLane_self (count (evNo 8 0x100 n) s) n fun v => { v with abort := true })

end

/-! ### The mailbox (R127, R396) -/

section
variable {p : HPort} {s : State}

theorem setHost_mb (q : HPort) (h : HostPort) : (s.setHost q h).hst.mbResult = s.hst.mbResult ∧ (s.setHost q h).hst.mbOut = s.hst.mbOut := by
  cases q <;> exact ⟨rfl, rfl⟩
theorem sendVector_mb (q : HPort) (v : Nat) : (sendVector q v s).hst.mbResult = s.hst.mbResult ∧ (sendVector q v s).hst.mbOut = s.hst.mbOut := by
  unfold sendVector
  dsimp only
  split
  · exact setHost_mb _ _
  · exact ⟨rfl, rfl⟩
theorem fireOn_mb (src : Nat) (q : HPort) : (fireOn src q s).hst.mbResult = s.hst.mbResult ∧ (fireOn src q s).hst.mbOut = s.hst.mbOut := by
  unfold fireOn
  dsimp only
  split
  · exact ⟨rfl, rfl⟩
  · split
    · exact setHost_mb _ _
    · exact ⟨(sendVector_mb _ _).1.trans (setHost_mb _ _).1, (sendVector_mb _ _).2.trans (setHost_mb _ _).2⟩
/-- An interrupt leaves the mailbox's result. -/
theorem fire_mb (src : Nat) : (fire src s).hst.mbResult = s.hst.mbResult ∧ (fire src s).hst.mbOut = s.hst.mbOut :=
  ⟨(fireOn_mb _ _).1.trans (fireOn_mb _ _).1, (fireOn_mb _ _).2.trans (fireOn_mb _ _).2⟩

/-- A mailbox command of the port's owner runs, and its end fires source 13. -/
theorem completes_mailbox {i : Instr} {f : State → State} {P : State → Prop} (run : exec i s = .next (mbCommand p f s)) (ho : Owner p s)
    (hb : s.hst.mbBusy = false) (h : P (fire 13 (f s))) : Completes i s P := by
  refine completes_owner run ho ?_
  dsimp only
  rw [if_neg (by rw [hb]; exact Bool.false_ne_true)]
  exact h

/-- What a reader finds after an answer: the result, the length, and the bytes where the buffer holds them. -/
theorem mbAnswer_reads (b : List Byte) : (fire 13 (mbAnswer b s)).hst.mbResult = 0 ∧ (fire 13 (mbAnswer b s)).hst.mbOut = BitVec.ofNat 32 b.length ∧
    (fire 13 (mbAnswer b s)).nv = s.nv ∧
    (s.hst.mbBuf.toNat + b.length ≤ s.capacity → rdMem (fire 13 (mbAnswer b s)) s.hst.mbBuf.toNat b.length = b) := by
  have kept : Kept [.hst, .ram] s (mbAnswer b s) := mbAnswer_kept
  refine ⟨(fire_mb 13).1, (fire_mb 13).2, (fire_nv 13 _).trans kept.e_nv, fun room => ?_⟩
  have same : rdMem (fire 13 (mbAnswer b s)) s.hst.mbBuf.toNat b.length = rdMem (wrMem s s.hst.mbBuf.toNat b) s.hst.mbBuf.toNat b.length := by
    refine rdMem_congr ?_ fun i _ => ?_
    · rw [State.capacity, State.capacity, fire_nv]
      rfl
    · rw [fire_kept.e_ram (by decide)]
      rfl
  rw [same, rdMem_wrMem s _ b room]

/-- CAL_WRITE of an image of this device that passes every check: the flash decides. -/
theorem writeCal_valid {ok : Bool} (hm : u32At (rdMem s s.hst.mbBuf.toNat 64) 0 = 0x43414C53) (hv : u16At (rdMem s s.hst.mbBuf.toNat 64) 4 = 1) {n : Nat}
    (hn : n = calLength (rdMem s s.hst.mbBuf.toNat 64)) (hl : n ≤ 131072) {b : List Byte} (hb : b = rdMem s s.hst.mbBuf.toNat n) (hc : calValid b = true)
    (hd : u64At b 8 = s.nv.devid.toNat) :
    writeCal ok s = if !ok then mbResult 6 0 s else
      mbResult 0 0 { s with nv.cal := overlay b 6 (toLE 2 ((if s.nv.cal.isEmpty then u16At b 6 else u16At s.nv.cal 6) + 1)) } := by
  have head : (u32At (rdMem s s.hst.mbBuf.toNat 64) 0 != 0x43414C53 || u16At (rdMem s s.hst.mbBuf.toNat 64) 4 != 1 || decide (131072 < n)) = false := by
    rw [hm, hv, decide_eq_false (Nat.not_lt.mpr hl)]
    rfl
  have image : (!calValid b) = false := by rw [hc, Bool.not_true]
  have device : (u64At b 8 != s.nv.devid.toNat) = false := by rw [hd, bne_self_eq_false]
  unfold writeCal State.mbAddr
  dsimp only
  rw [← hn, ← hb, head, image, device]
  rfl

end

end Sys2Proof.Machine

section
open Sys2Proof Sys2Proof.Machine

/-- Settles O28: three commas align a receiver and four invalid characters lose it; a discard for a bad character has seen one; the calibration commands answer through the mailbox, whose interrupt leaves what they answer. -/
theorem serviceLanesComplete : Obligations.ServiceLanesComplete := by
  refine ⟨fun n bits s hst hc hw hb => ?_, fun n s hst hb hp hk => ?_, fun n codes why s hst hh => ?_, fun n stamp s hst => ?_, fun p s ho hb hc => ?_,
    fun p adapted b s ho hb hi => ?_, fun p ok head n b s ho hb hh hm hv hn hl hi hc hd => ?_⟩
  · have aligned : (bits.foldl Svc.takeBit (s.svcLane n.val)).st = .aligned := by
      rw [hb]
      exact threeCommas_align hst hc hw
    refine serviceAlign_completes (by rw [hst]; decide) ⟨?_, fun k hk => modSvc_svcLane_of_ne s _ hk⟩
    rw [modSvc_svcLane_self]
    exact aligned
  · have lost := fortyZeros_lose hst hp hk hb
    refine serviceAlign_completes (by rw [hst]; decide) ?_
    rw [modSvc_svcLane_self]
    exact lost
  · refine ⟨_, congrArg Host.Outcome.next (svcMessage_discard hst hh), discardSvc_tly why, fun bad => ?_, fun crc => ?_, fun abort => ?_, fun k hk => ?_⟩
    · rw [bad] at hh ⊢
      rw [discardSvc_badChar, modSvc_svcLane_self]
      exact takeChars_cv codes (s.svcLane n.val) (parseMsg_badChar hh)
    · rw [crc]
      exact discardSvc_crc
    · rw [abort]
      exact discardSvc_abort
    · rw [discardSvc_others why hk]
      exact modSvc_svcLane_of_ne s _ hk
  · exact ⟨_, congrArg Host.Outcome.next (if_pos (bne_iff_ne.mpr hst)), rfl⟩
  · have full : s.nv.cal.isEmpty = false := List.isEmpty_eq_false_iff.mpr hc
    have answer : readCal s = mbAnswer s.nv.cal s := by rw [readCal, full]; rfl
    obtain ⟨result, out, -, bytes⟩ := mbAnswer_reads (s := s) s.nv.cal
    rw [← answer] at result out bytes
    exact completes_mailbox rfl ho hb ⟨result, out, bytes⟩
  · subst hi
    exact completes_mailbox rfl ho hb (mbAnswer_reads _)
  · rw [hh] at hm hv hn
    have valid := writeCal_valid (ok := ok) hm hv hn hl hi hc hd
    refine completes_mailbox rfl ho hb ?_
    rw [valid, fire_nv, (fire_mb 13).1]
    cases ok with
    | false => exact ⟨rfl, rfl⟩
    | true =>
      refine ⟨rfl, ?_⟩
      show { s.nv with cal := overlay b 6 (toLE 2 ((if s.nv.cal.isEmpty then u16At b 6 else u16At s.nv.cal 6) + 1)) } = _
      simp only [List.isEmpty_iff]

end

/-! SUPPORT. The frame of each command, read off from the law of its meaning, and what the commands of the fabric lanes have in common (R143, R390). -/
namespace Sys2Proof.Machine
open Sys2Proof

/-- The blocks that what arrives on a fabric lane may change. -/
def fabricTouches : List Blk := [.hst, .lnk, .srd, .svc, .eye, .fwd, .swc, .tmb, .lnd, .mil, .mem, .opt, .res, .tly, .nv, .ram, .fresh, .out]

/-- What arrives on a fabric lane, from a symbol to a packet and the records of training. -/
def OnFabric (c : Instr) : Prop :=
  (∃ a b g x, c = .linkFrameReceived a b g x) ∨ (∃ a g x, c = .codewordReceived a g x) ∨ (∃ a b d, c = .packetIngress a b d) ∨ (∃ a b d, c = .hello a b d) ∨
    (∃ a b, c = .config a b) ∨ (∃ a b, c = .creditInit a b)

theorem touches_subset_fabricTouches {c : Instr} (h : OnFabric c) : touches c ⊆ fabricTouches := by
  rcases h with ⟨a, b, g, x, rfl⟩ | ⟨a, g, x, rfl⟩ | ⟨a, b, d, rfl⟩ | ⟨a, b, d, rfl⟩ | ⟨a, b, rfl⟩ | ⟨a, b, rfl⟩ <;>
    simp [touches, fabricTouches]

/-- A bank of the tables as before holds the same EXACT entries. -/
theorem State.exact_of_bank {s t : State} {b : Bool} (h : t.bank b = s.bank b) (eid : Word) : t.exact b eid = s.exact b eid := by
  rw [State.exact, State.exact, h]

theorem SameBlk.bank {s t : State} (h : SameBlk .tables s t) (b : Bool) : t.bank b = s.bank b := by
  simp only [SameBlk, Prod.mk.injEq] at h
  obtain ⟨bankA, bankB, -⟩ := h
  rw [State.bank, State.bank, bankA, bankB]

end Sys2Proof.Machine

section
open Sys2Proof Sys2Proof.Machine

/-- Settles O56: the frame is that of `exec_kept`, and no block that is guarded is among those that the commands of the fabric lanes touch. -/
theorem commandsChangeOnlyTheirBlocks : Obligations.CommandsChangeOnlyTheirBlocks := by
  refine ⟨fun c s t run b untouched => (kept_of_exec run).same b untouched, fun c s t run fabric => ?_⟩
  have kept : Kept fabricTouches s t := (kept_of_exec run).mono (touches_subset_fabricTouches fabric)
  have tables : SameBlk .tables s t := kept.same .tables (by decide)
  exact ⟨tables, kept.same .timetable (by decide), kept.same .own (by decide), kept.same .lease (by decide), kept.same .fw (by decide),
    kept.same .keys (by decide), kept.same .plat (by decide), fun bank eid => State.exact_of_bank (tables.bank bank) eid⟩

end

/-! SUPPORT. Commands on the forwarding tables (R135, R140 to R142, R148, R151, R158): what a command answers into FWD, and what each write leaves in the banks. -/
namespace Sys2Proof.Machine
open Sys2Proof

/-! ### A command and its answer (R158) -/

/-- What a single command is given: its operands from FWD_INDEX and FWD_DATA. -/
def fwdArgs (op tbl : Nat) (b : Bool) (s : State) : FwdArg :=
  ⟨op, tbl, b, s.fwd.index.toNat, s.fwd.data0, s.fwd.data1, s.fwd.data2, s.fwd.data3⟩

/-- The owner's command runs from TRAINING onward, while none is busy. -/
theorem completes_fwdCommand {p : HPort} {i : Instr} {f : State → State} {s : State} {P : State → Prop}
    (run : exec i s = .next (fwdCommand p f s)) (ho : Owner p s) (hb : s.fwd.busy = false) (hc : 3 ≤ s.glb.state.code) (h : P (f s)) :
    Completes i s P := by
  refine completes_owner run ho ?_
  dsimp only
  rw [if_neg (by rw [hb]; exact Bool.false_ne_true), if_neg (by omega)]
  exact h

theorem fwdStatus_fwd (st : Nat) (s : State) : (fwdStatus st s).fwd = { s.fwd with status := BitVec.ofNat 8 st } := by
  dsimp only [fwdStatus]
  split <;> rfl

section
variable {op tbl : Nat} {b : Bool} {s u : State} {st i : Nat}

/-- A command without data answers FWD_INDEX and FWD_CSTAT. -/
theorem fwdOne_fwd (h : fwdRun (fwdArgs op tbl b s) s = (u, ⟨st, i, none⟩)) :
    (fwdOne op tbl b s).fwd = { u.fwd with index := BitVec.ofNat 23 i, status := BitVec.ofNat 8 st } := by
  rw [fwdArgs] at h
  rw [fwdOne, h, fwdStatus_fwd]

/-- A command that reads answers FWD_DATA also. -/
theorem fwdOne_data {w0 w1 w2 w3 : Word} (h : fwdRun (fwdArgs op tbl b s) s = (u, ⟨st, i, some [w0, w1, w2, w3]⟩)) :
    (fwdOne op tbl b s).fwd = { u.fwd with index := BitVec.ofNat 23 i, data0 := w0, data1 := w1, data2 := w2, data3 := w3, status := BitVec.ofNat 8 st } := by
  rw [fwdArgs] at h
  rw [fwdOne, h, fwdStatus_fwd]
  rfl

/-- A change that is accepted counts in FWD_WSEQ; the journal leaves FWD alone. -/
theorem tableChanged_fwd (a : FwdArg) (i : Nat) (s : State) : (tableChanged a i s).fwd = { s.fwd with wseq := s.fwd.wseq + 1 } := by
  rw [tableChanged, journal_kept.e_fwd]

/-- A command that is refused changes FWD_CSTAT alone. -/
theorem fwdOne_refused (h : fwdRun (fwdArgs op tbl b s) s = (s, ⟨st, s.fwd.index.toNat, none⟩)) :
    (fwdOne op tbl b s).fwd = { s.fwd with status := BitVec.ofNat 8 st } := by
  rw [fwdOne_fwd h, BitVec.ofNat_toNat, BitVec.setWidth_eq]

end

/-! ### The banks, and what does not depend on the rest of FWD -/

section
variable {s t : State} {b c : Bool}

theorem bank_of_fwd (hA : t.fwd.bankA = s.fwd.bankA) (hB : t.fwd.bankB = s.fwd.bankB) (b : Bool) : t.bank b = s.bank b := by
  rw [State.bank, State.bank, hA, hB]
theorem slotOf_of_bank (h : t.bank b = s.bank b) (eid : Word) : t.slotOf b eid = s.slotOf b eid := by
  simp only [State.slotOf, State.exact_of_bank h, h]
theorem setBank_bank (s : State) (b c : Bool) (k : Bank) : (s.setBank b k).bank c = if c = b then k else s.bank c := by
  cases b <;> cases c <;> rfl
theorem setBank_wseq (s : State) (b : Bool) (k : Bank) : (s.setBank b k).fwd.wseq = s.fwd.wseq := by
  cases b <;> rfl
theorem setExact_wseq (s : State) (b : Bool) (eid : Word) (v : Option ExactEnt) : (s.setExact b eid v).fwd.wseq = s.fwd.wseq := setBank_wseq s b _
theorem setExact_bank_of_ne (h : c ≠ b) (eid : Word) (v : Option ExactEnt) : (s.setExact b eid v).bank c = s.bank c := by
  rw [State.setExact, setBank_bank, if_neg h]

/-- An EXACT entry, read after a write of one (R140). -/
theorem setExact_exact (s : State) (b : Bool) (eid : Word) (v : Option ExactEnt) (c : Bool) (e : Word) :
    (s.setExact b eid v).exact c e = if c = b ∧ e = eid then v else s.exact c e := by
  by_cases hc : c = b
  · subst hc
    simp only [State.exact, State.setExact, setBank_bank, if_true, tget_tset, BitVec.toNat_inj, true_and]
  · rw [State.exact_of_bank (setExact_bank_of_ne hc eid v), if_neg fun h => hc h.1]

theorem clearBad_bank (tbl : Nat) (b : Bool) (i : Nat) (s : State) (c : Bool) : (clearBad tbl b i s).bank c = s.bank c := rfl
theorem clearBad_exact (tbl : Nat) (b : Bool) (i : Nat) (s : State) (c : Bool) (e : Word) : (clearBad tbl b i s).exact c e = s.exact c e := rfl
theorem clearBad_wseq (tbl : Nat) (b : Bool) (i : Nat) (s : State) : (clearBad tbl b i s).fwd.wseq = s.fwd.wseq := rfl
/-- A write of an entry makes it readable again (R134, R151). -/
theorem clearBad_badAt (tbl : Nat) (b : Bool) (i : Nat) (s : State) : (clearBad tbl b i s).badAt tbl b i = false :=
  tget_tset_self false s.fwd.bad (badKey tbl b i) false

end

/-! ### A command that changes a table (R157, R158) -/

/-- A command left FWD as the tables in `u` stand, counted one change, and answered OK with an index. -/
def Changed (i : Nat) (u t : State) : Prop := t.fwd = { u.fwd with wseq := u.fwd.wseq + 1, index := BitVec.ofNat 23 i, status := 0 }

section
variable {i : Nat} {u t : State}

theorem Changed.status (h : Changed i u t) : t.fwd.status = 0 := congrArg Fwd.status h
theorem Changed.index (h : Changed i u t) : t.fwd.index = BitVec.ofNat 23 i := congrArg Fwd.index h
theorem Changed.wseq {w : DWord} (h : Changed i u t) (hu : u.fwd.wseq = w) : t.fwd.wseq = w + 1 := (congrArg Fwd.wseq h).trans (congrArg (· + 1) hu)
theorem Changed.bank (h : Changed i u t) (b : Bool) : t.bank b = u.bank b := bank_of_fwd (by rw [h]) (by rw [h]) b
theorem Changed.exact (h : Changed i u t) (b : Bool) (eid : Word) : t.exact b eid = u.exact b eid := State.exact_of_bank (h.bank b) eid
theorem Changed.badAt (h : Changed i u t) (tbl : Nat) (b : Bool) (k : Nat) : t.badAt tbl b k = u.badAt tbl b k := by
  rw [State.badAt, State.badAt, h]

/-- A command of the owner that is accepted and changes a table. -/
theorem completes_changed {p : HPort} {c : Instr} {op tbl : Nat} {b : Bool} {s : State} {P : State → Prop}
    (run : exec c s = .next (fwdCommand p (fwdOne op tbl b) s)) (ho : Owner p s) (hb : s.fwd.busy = false) (hc : 3 ≤ s.glb.state.code)
    (h : fwdRun (fwdArgs op tbl b s) s = (tableChanged (fwdArgs op tbl b s) i u, ⟨0, i, none⟩)) (holds : ∀ t, Changed i u t → P t) :
    Completes c s P := by
  refine completes_fwdCommand run ho hb hc (holds _ ?_)
  rw [Changed, fwdOne_fwd h, tableChanged_fwd]
  rfl

end

/-! ### READ and WRITE of indexed tables (R135, R148) -/

/-- The indexed tables of a bank, by number (R135). -/
def Bank.indexed (k : Bank) : Nat → Tab Ent2
  | 0 => k.trie1
  | 1 => k.trie2
  | 2 => k.trie3
  | 3 => k.trie4
  | 4 => k.trie5
  | _ => k.route
/-- The bank with one of its indexed tables replaced. -/
def Bank.setIndexed (k : Bank) (tbl : Nat) (t : Tab Ent2) : Bank :=
  match tbl with
  | 0 => { k with trie1 := t }
  | 1 => { k with trie2 := t }
  | 2 => { k with trie3 := t }
  | 3 => { k with trie4 := t }
  | 4 => { k with trie5 := t }
  | _ => { k with route := t }

theorem indexed_setIndexed {tbl tb : Nat} (h : tbl ≤ 5) (h' : tb ≤ 5) (k : Bank) (t : Tab Ent2) :
    (k.setIndexed tbl t).indexed tb = if tb = tbl then t else k.indexed tb := by
  interval_cases tbl <;> interval_cases tb <;> rfl
theorem setIndexed_exact {tbl : Nat} (h : tbl ≤ 5) (k : Bank) (t : Tab Ent2) : (k.setIndexed tbl t).exact = k.exact := by
  interval_cases tbl <;> rfl

section
variable {tbl tb : Nat} {b c : Bool} {i j : Nat} {s t : State}

theorem tableWords_indexed (h : tb ≤ 5) : tableWords s tb b i =
    [(tget Ent2.zero ((s.bank b).indexed tb) i).w0, (tget Ent2.zero ((s.bank b).indexed tb) i).w1, 0, 0] := by
  interval_cases tb <;> rfl
theorem putEntry_indexed {d0 d1 d2 : Word} (h : tbl ≤ 5) : putEntry tbl b i d0 d1 d2 s =
    clearBad tbl b i (s.setBank b ((s.bank b).setIndexed tbl (tset Ent2.zero ((s.bank b).indexed tbl) i ⟨d0, d1⟩))) := by
  interval_cases tbl <;> rfl
theorem putEntry_bank {d0 d1 d2 : Word} (h : tbl ≤ 5) : (putEntry tbl b i d0 d1 d2 s).bank c =
    if c = b then (s.bank b).setIndexed tbl (tset Ent2.zero ((s.bank b).indexed tbl) i ⟨d0, d1⟩) else s.bank c := by
  rw [putEntry_indexed h, clearBad_bank, setBank_bank]
theorem putEntry_wseq {d0 d1 d2 : Word} (h : tbl ≤ 5) : (putEntry tbl b i d0 d1 d2 s).fwd.wseq = s.fwd.wseq := by
  rw [putEntry_indexed h, clearBad_wseq, setBank_wseq]

/-- An indexed entry, read after a write of one. -/
theorem putEntry_tableWords {d0 d1 d2 : Word} (h : tbl ≤ 5) (h' : tb ≤ 5) : tableWords (putEntry tbl b i d0 d1 d2 s) tb c j =
    if tb = tbl ∧ c = b ∧ j = i then [d0, d1, 0, 0] else tableWords s tb c j := by
  rw [tableWords_indexed h', putEntry_bank h]
  by_cases hc : c = b
  · subst hc
    rw [if_pos rfl, indexed_setIndexed h h']
    by_cases ht : tb = tbl
    · subst ht
      rw [if_pos rfl, tget_tset]
      by_cases hj : j = i
      · simp [hj]
      · simp [hj, tableWords_indexed h']
    · simp [ht, tableWords_indexed h']
  · simp [hc, tableWords_indexed h']

theorem putEntry_exact {d0 d1 d2 : Word} (h : tbl ≤ 5) (c : Bool) (e : Word) : (putEntry tbl b i d0 d1 d2 s).exact c e = s.exact c e := by
  rw [State.exact, State.exact, putEntry_bank h]
  by_cases hc : c = b
  · rw [if_pos hc, setIndexed_exact h, hc]
  · rw [if_neg hc]

theorem tableWords_of_bank (h : tb ≤ 5) (hb : t.bank c = s.bank c) : tableWords t tb c i = tableWords s tb c i := by
  rw [tableWords_indexed h, tableWords_indexed h, hb]

/-- Every entry reads as four words. -/
theorem tableWords_four (s : State) (tbl : Nat) (b : Bool) (i : Nat) : ∃ w0 w1 w2 w3, tableWords s tbl b i = [w0, w1, w2, w3] := by
  unfold tableWords
  dsimp only
  split <;> exact ⟨_, _, _, _, rfl⟩

/-- The marks of single-bit errors are no part of what an entry reads as. -/
theorem tableWords_correctAt : tableWords (correctAt tbl b i s) tb c j = tableWords s tb c j := by
  simp only [tableWords, State.bank]
  rw [correctAt_fwd]
theorem correctAt_bank_eq : (correctAt tbl b i s).bank c = s.bank c := by
  rw [State.bank, State.bank, correctAt_fwd]

/-- READ of an indexed entry that is within its table and not uncorrectable. -/
theorem fwdDoRead_indexed {a : FwdArg} (h6 : a.tbl ≠ 6) (hi : a.index < tableSize a.tbl) (good : s.badAt a.tbl a.bank a.index = false) :
    fwdDoRead a s = (correctAt a.tbl a.bank a.index s, ⟨0, a.index, some (tableWords s a.tbl a.bank a.index)⟩) := by
  have used : (tableSize a.tbl == 0) = false := beq_false_of_ne (by omega)
  have indexed : (a.tbl == 6) = false := beq_false_of_ne h6
  rw [fwdDoRead, used, indexed, if_neg Bool.false_ne_true, if_neg (by omega), if_neg Bool.false_ne_true, readEnts_one good]
  dsimp only
  rw [tableWords_correctAt]

/-- An entry of a bank's indexed tables may be written where it is within its table. -/
theorem entryStatus_indexed {a : FwdArg} (h : a.tbl ≤ 5) (hi : a.index < tableSize a.tbl) : entryStatus a = 0 := by
  have used : (tableSize a.tbl == 0) = false := beq_false_of_ne (by omega)
  have exact : (a.tbl == 6) = false := beq_false_of_ne (by omega)
  have group : (a.tbl == 8) = false := beq_false_of_ne (by omega)
  have repl : (a.tbl == 9) = false := beq_false_of_ne (by omega)
  simp [entryStatus, used, exact, group, repl, Nat.not_le.mpr hi]

/-- WRITE into a FREE bank (R148). -/
theorem fwdDoWrite_free {a : FwdArg} (h : a.tbl ≤ 5) (hi : a.index < tableSize a.tbl) (free : s.bankState a.bank = .free) :
    fwdDoWrite a s = (tableChanged a a.index (putEntry a.tbl a.bank a.index a.d0 a.d1 a.d2 s), ⟨0, a.index, none⟩) := by
  simp [fwdDoWrite, entryStatus_indexed h hi, free]
/-- WRITE into a bank in use is BANK_LIVE (R148). -/
theorem fwdDoWrite_inUse {a : FwdArg} (h : a.tbl ≤ 5) (hi : a.index < tableSize a.tbl) (used : s.bankState a.bank ≠ .free) :
    fwdDoWrite a s = (s, ⟨1, a.index, none⟩) := by
  have ofBank : banked a.tbl = true := decide_eq_true (by omega)
  simp [fwdDoWrite, entryStatus_indexed h hi, used, ofBank]

end

/-! ### EXACT: one bank (R140 to R142, R151) -/

section
variable {a : FwdArg} {s : State}

/-- One EXACT entry written and its marks cleared: what the entries then read. -/
def putExact (b : Bool) (eid : Word) (v : Option ExactEnt) (s : State) : State := clearBad 6 b eid.toNat (s.setExact b eid v)

theorem putExact_exact (b : Bool) (eid : Word) (v : Option ExactEnt) (s : State) (c : Bool) (e : Word) :
    (putExact b eid v s).exact c e = if c = b ∧ e = eid then v else s.exact c e := by
  rw [putExact, clearBad_exact, setExact_exact]
theorem putExact_wseq (b : Bool) (eid : Word) (v : Option ExactEnt) (s : State) : (putExact b eid v s).fwd.wseq = s.fwd.wseq := by
  rw [putExact, clearBad_wseq, setExact_wseq]
theorem putExact_badAt (b : Bool) (eid : Word) (v : Option ExactEnt) (s : State) : (putExact b eid v s).badAt 6 b eid.toNat = false :=
  clearBad_badAt _ _ _ _

/-- A limit on the entries of a bank does not hold back an entry that is there, nor a new one below it (R141). -/
theorem withinLimit {b : Bool} {eid : Word} {n : Nat} (room : s.exact b eid = none → (s.bank b).count < n) :
    (s.exact b eid == none && decide (n ≤ (s.bank b).count)) = false := by
  by_cases h : s.exact b eid = none
  · rw [decide_eq_false (Nat.not_le.mpr (room h)), Bool.and_false]
  · rw [beq_false_of_ne h, Bool.false_and]

/-- EX_INSERT into a FREE bank with room (R141, R142). -/
theorem fwdDoInsert_free (h6 : a.tbl = 6) (free : s.bankState a.bank = .free) (room : s.exact a.bank a.d0 = none → (s.bank a.bank).count < 1048576) :
    fwdDoInsert a s = (tableChanged a (s.slotOf a.bank a.d0)
      (putExact a.bank a.d0 (some (exactOf a.d1 a.d2 (((s.exact a.bank a.d0).map ExactEnt.cordon).getD false) (s.slotOf a.bank a.d0))) s),
        ⟨0, s.slotOf a.bank a.d0, none⟩) := by
  rw [fwdDoInsert, h6, free, if_neg (by decide), if_neg (by decide)]
  dsimp only
  rw [withinLimit room]
  rfl

/-- EX_DELETE in a FREE bank: a cordoned entry stays without a route (R142). -/
theorem fwdDoDelete_found {x : ExactEnt} (h6 : a.tbl = 6) (free : s.bankState a.bank = .free) (found : s.exact a.bank a.d0 = some x) :
    fwdDoDelete a s = (tableChanged a (s.slotOf a.bank a.d0) (putExact a.bank a.d0 (if x.cordon then some { x with route := false } else none) s),
      ⟨0, s.slotOf a.bank a.d0, none⟩) := by
  simp [fwdDoDelete, h6, free, found, putExact]

theorem slotOf_found {b : Bool} {eid : Word} {x : ExactEnt} (h : s.exact b eid = some x) : s.slotOf b eid = x.slot.toNat := by
  simp only [State.slotOf, h]

/-- EX_LOOKUP of an entry that is not uncorrectable. -/
theorem fwdDoLookup_found {x : ExactEnt} (h6 : a.tbl = 6) (found : s.exact a.bank a.d0 = some x) (good : s.badAt 6 a.bank a.d0.toNat = false) :
    fwdDoLookup a s = (correctAt 6 a.bank a.d0.toNat s, ⟨0, x.slot.toNat, some [a.d0, BitVec.ofNat 32 (exactWord1 x), x.tag, 0]⟩) := by
  have found' : (correctAt 6 a.bank a.d0.toNat s).exact a.bank a.d0 = some x := (State.exact_of_bank correctAt_bank_eq _).trans found
  simp [fwdDoLookup, h6, readEnts_one good, found', slotOf_found found', exactWords]

/-- REPAIR of an EXACT entry with PRESENT set, within the reserve (R141, R151). -/
theorem fwdDoRepair_present (h6 : a.tbl = 6) (present : bitAt a.d1.toNat 31 = true)
    (room : s.exact a.bank a.d0 = none → (s.bank a.bank).count < 1114112) :
    fwdDoRepair a s = (tableChanged a (s.slotOf a.bank a.d0)
      (putExact a.bank a.d0 (some (exactOf a.d1 a.d2 (bitAt a.d1.toNat 30) (s.slotOf a.bank a.d0))) s), ⟨0, s.slotOf a.bank a.d0, none⟩) := by
  rw [fwdDoRepair, h6, if_pos (by decide)]
  dsimp only
  rw [if_pos present, withinLimit room]
  rfl

end

/-! ### EXACT: both banks at one instant (R142, R151) -/

/-- One entry written in both banks, each as its own bank gives it. -/
def putBoth (put : Bool → Option ExactEnt → State → State) (v : Bool → State → Option ExactEnt) (s : State) : State :=
  put true (v true (put false (v false s) s)) (put false (v false s) s)

/-- The entry that a LIVE_INSERT writes in a bank. -/
def liveEntry (d1 d2 eid : Word) (b : Bool) (s : State) : Option ExactEnt :=
  some { exactOf d1 d2 (((s.exact b eid).map ExactEnt.cordon).getD false) (s.slotOf b eid) with route := true }
/-- The entry that a CORDON_SET writes in a bank. -/
def cordonedEntry (eid : Word) (b : Bool) (s : State) : Option ExactEnt :=
  some (match s.exact b eid with
    | some x => { x with cordon := true }
    | none => ⟨true, false, 0, 0, 0, BitVec.ofNat 22 (s.slotOf b eid)⟩)
/-- The entry that a CORDON_CLR leaves in a bank. -/
def uncordonedEntry (eid : Word) (b : Bool) (s : State) : Option ExactEnt :=
  match s.exact b eid with
  | some x => if x.route then some { x with cordon := false } else none
  | none => none

section
variable {s t : State} {eid : Word}

theorem liveEntry_of_bank {d1 d2 : Word} {b : Bool} (h : t.bank b = s.bank b) : liveEntry d1 d2 eid b t = liveEntry d1 d2 eid b s := by
  rw [liveEntry, liveEntry, State.exact_of_bank h, slotOf_of_bank h]
theorem cordonedEntry_of_bank {b : Bool} (h : t.bank b = s.bank b) : cordonedEntry eid b t = cordonedEntry eid b s := by
  rw [cordonedEntry, cordonedEntry, State.exact_of_bank h, slotOf_of_bank h]
theorem uncordonedEntry_of_bank {b : Bool} (h : t.bank b = s.bank b) : uncordonedEntry eid b t = uncordonedEntry eid b s := by
  rw [uncordonedEntry, uncordonedEntry, State.exact_of_bank h]

/-- The second bank's entry does not depend on what the first was given. -/
theorem putBoth_exact {put : Bool → Option ExactEnt → State → State} {v : Bool → State → Option ExactEnt}
    (reads : ∀ b x t c e, (put b x t).exact c e = if c = b ∧ e = eid then x else t.exact c e)
    (own : ∀ x t, v true (put false x t) = v true t) (s : State) (c : Bool) (e : Word) :
    (putBoth put v s).exact c e = if e = eid then v c s else s.exact c e := by
  rw [putBoth, reads, own, reads]
  cases c <;> simp

theorem putBoth_putExact (d1 d2 : Word) (s : State) (c : Bool) (e : Word) :
    (putBoth (fun b => putExact b eid) (liveEntry d1 d2 eid) s).exact c e = if e = eid then liveEntry d1 d2 eid c s else s.exact c e :=
  putBoth_exact (fun b x t c e => putExact_exact b eid x t c e) (fun x _ => liveEntry_of_bank (setExact_bank_of_ne (by decide) eid x)) s c e
theorem putBoth_setExact {v : Bool → State → Option ExactEnt} (own : ∀ s t, t.bank true = s.bank true → v true t = v true s) (s : State) (c : Bool) (e : Word) :
    (putBoth (fun b x u => u.setExact b eid x) v s).exact c e = if e = eid then v c s else s.exact c e :=
  putBoth_exact (fun b x t c e => setExact_exact t b eid x c e) (fun x t => own t _ (setExact_bank_of_ne (by decide) eid x)) s c e

theorem any_withinLimit {n : Nat} (room : ∀ b, s.exact b eid = none → (s.bank b).count < n) :
    ([false, true].any fun b => s.exact b eid == none && decide (n ≤ (s.bank b).count)) = false := by
  simp only [List.any_cons, List.any_nil, withinLimit (room _), Bool.or_false]

/-- LIVE_INSERT of an EID without a route in any bank in use (R151). -/
theorem fwdDoLive_missing {a : FwdArg} (missing : missingStatus a.d0 [false, true] s = (t, 0))
    (room : ∀ b, t.exact b a.d0 = none → (t.bank b).count < 1048576) :
    fwdDoLive a s = (tableChanged a (t.slotOf t.fwd.cur a.d0) (putBoth (fun b => putExact b a.d0) (liveEntry a.d1 a.d2 a.d0) t),
      ⟨0, t.slotOf t.fwd.cur a.d0, none⟩) := by
  rw [fwdDoLive, missing]
  dsimp only
  rw [any_withinLimit room]
  rfl
/-- CORDON_SET within the reserve (R141, R142). -/
theorem fwdDoCordon_room {a : FwdArg} (room : ∀ b, s.exact b a.d0 = none → (s.bank b).count < 1114112) :
    fwdDoCordon a s = (tableChanged a (s.slotOf s.fwd.cur a.d0) (putBoth (fun b x u => u.setExact b a.d0 x) (cordonedEntry a.d0) s),
      ⟨0, s.slotOf s.fwd.cur a.d0, none⟩) := by
  rw [fwdDoCordon, any_withinLimit room]
  rfl
/-- CORDON_CLR of an EID that a bank holds (R142). -/
theorem fwdDoUncordon_found {a : FwdArg} (found : s.exact false a.d0 ≠ none ∨ s.exact true a.d0 ≠ none) :
    fwdDoUncordon a s = (tableChanged a (s.slotOf s.fwd.cur a.d0) (putBoth (fun b x u => u.setExact b a.d0 x) (uncordonedEntry a.d0) s),
      ⟨0, s.slotOf s.fwd.cur a.d0, none⟩) := by
  have held : (s.exact false a.d0 == none && s.exact true a.d0 == none) = false := by
    rcases found with h | h <;> rw [beq_false_of_ne h] <;> simp
  rw [fwdDoUncordon, held]
  rfl

end

end Sys2Proof.Machine

section
open Sys2Proof Sys2Proof.Machine

/-- Settles O18, clause by clause: each command passes its checks, and what it writes reads back at its own entry and nowhere else. -/
theorem tableCommandsComplete : Obligations.TableCommandsComplete := by
  refine ⟨fun p tbl b s ho hb hc h6 hi good => ?_, fun p tbl b s ho hb hc h5 hi free => ?_, fun p tbl b s ho hb hc h5 hi used => ?_,
    fun p b s ho hb hc free room => ?_, fun p b x s ho hb hc free found => ?_, fun p b x s ho hb hc found good => ?_,
    fun p s u ho hb hc missing room => ?_, fun p s ho hb hc room => ?_, fun p s ho hb hc found => ?_, fun p b s ho hb hc present room => ?_⟩
  · have indexed : tbl.toNat ≠ 6 := fun h => h6 (BitVec.eq_of_toNat_eq h)
    obtain ⟨w0, w1, w2, w3, words⟩ := tableWords_four s tbl.toNat b s.fwd.index.toNat
    have run : fwdRun (fwdArgs 1 tbl.toNat b s) s = (correctAt tbl.toNat b s.fwd.index.toNat s, ⟨0, s.fwd.index.toNat, some [w0, w1, w2, w3]⟩) := by
      rw [← words]
      exact fwdDoRead_indexed indexed hi good
    refine completes_fwdCommand rfl ho hb hc ?_
    rw [fwdOne_data run, correctAt_fwd, words]
    exact ⟨rfl, rfl, by rw [BitVec.ofNat_toNat, BitVec.setWidth_eq], rfl, rfl, rfl⟩
  · refine completes_changed rfl ho hb hc (fwdDoWrite_free h5 hi free) fun t done => ⟨done.status, done.wseq (putEntry_wseq h5), fun tb c i htb => ?_, fun c e => ?_⟩
    · rw [tableWords_of_bank htb (done.bank c)]
      exact putEntry_tableWords h5 htb
    · rw [done.exact]
      exact putEntry_exact h5 c e
  · exact completes_fwdCommand rfl ho hb hc (fwdOne_refused (fwdDoWrite_inUse h5 hi used))
  · refine completes_changed rfl ho hb hc (fwdDoInsert_free rfl free room) fun t done => ⟨done.status, done.wseq (putExact_wseq _ _ _ s), done.index, fun c e => ?_⟩
    rw [done.exact, putExact_exact]
    exact ite_congr rfl (fun h => by rw [h.2]; rfl) fun _ => rfl
  · refine completes_changed rfl ho hb hc (fwdDoDelete_found rfl free found) fun t done => ⟨done.status, done.wseq (putExact_wseq _ _ _ s), fun c e => ?_⟩
    rw [done.exact, putExact_exact]
    rfl
  · refine completes_fwdCommand rfl ho hb hc ⟨(correctAt 6 b s.fwd.data0.toNat s).fwd.soft, ?_⟩
    have run : fwdRun (fwdArgs 5 6 b s) s = (_, ⟨_, _, _⟩) := fwdDoLookup_found rfl found good
    exact (fwdOne_data run).trans (by rw [correctAt_fwd]; rfl)
  · have same (c : Bool) : u.bank c = s.bank c := by
      have kept := missingStatus_kept (eid := s.fwd.data0) (a1 := [false, true]) (a2 := s)
      rw [missing] at kept
      exact SameBlk.bank (kept.same .tables (by decide)) c
    have roomLeft (c : Bool) (new : u.exact c s.fwd.data0 = none) : (u.bank c).count < 1048576 := by
      rw [State.exact_of_bank (same c)] at new
      rw [same]
      exact room c new
    refine completes_changed rfl ho hb hc (fwdDoLive_missing missing roomLeft) fun t done => ⟨done.status, done.wseq rfl, fun c e => ?_⟩
    rw [done.exact, putBoth_putExact, State.exact_of_bank (same c)]
    exact ite_congr rfl (fun h => by rw [h, liveEntry_of_bank (same c)]; rfl) fun _ => rfl
  · refine completes_changed rfl ho hb hc (fwdDoCordon_room room) fun t done => ⟨done.status, done.wseq rfl, fun c e => ?_⟩
    rw [done.exact, putBoth_setExact fun _ _ => cordonedEntry_of_bank]
    exact ite_congr rfl (fun h => by rw [h]; rfl) fun _ => rfl
  · refine completes_changed rfl ho hb hc (fwdDoUncordon_found found) fun t done => ⟨done.status, done.wseq rfl, fun c e => ?_⟩
    rw [done.exact, putBoth_setExact fun _ _ => uncordonedEntry_of_bank]
    exact ite_congr rfl (fun h => by rw [h]; rfl) fun _ => rfl
  · refine completes_changed rfl ho hb hc (fwdDoRepair_present rfl present room) fun t done => ⟨done.status, done.wseq (putExact_wseq _ _ _ s), ?_, fun c e => ?_⟩
    · exact (done.badAt 6 b _).trans (putExact_badAt b s.fwd.data0 _ s)
    · rw [done.exact, putExact_exact]
      exact ite_congr rfl (fun h => by rw [h.2]; rfl) fun _ => rfl

end

/-! SUPPORT. Routing epochs (R149, R150): what FLIP and CONFIRM leave of the banks and their states. -/
namespace Sys2Proof.Machine
open Sys2Proof

/-- The two banks with the epoch of new packets and the state of each, as a FLIP turns them (R149). -/
def flipped (s : State) : State :=
  if s.fwd.cur then { s with fwd.cur := false, fwd.stA := .live, fwd.stB := .draining }
  else { s with fwd.cur := true, fwd.stB := .live, fwd.stA := .draining }

/-- Markers and DRAINED change nothing of the tables. -/
theorem doFlip_tables (s : State) : SameBlk .tables (flipped s) (doFlip s) := by
  have marked : SameBlk .tables (flipped s) (placeAll s.fwd.cur (flipped s)) := placeAll_kept.same .tables (by decide)
  have raised (t : State) : SameBlk .tables t (if t.drained then raiseFwd 0 t else t) := by
    split
    · exact raiseFwd_kept.same .tables (by decide)
    · exact SameBlk.refl _ _
  exact marked.trans (raised _)

/-- The FREE bank is LIVE, the LIVE one DRAINING, and the entries are as before. -/
theorem flipped_spec (s : State) : (flipped s).fwd.cur = !s.fwd.cur ∧ (flipped s).bankState (!s.fwd.cur) = .live ∧ (flipped s).bankState s.fwd.cur = .draining ∧
    (flipped s).fwd.bankA = s.fwd.bankA ∧ (flipped s).fwd.bankB = s.fwd.bankB ∧ (flipped s).fwd.job = s.fwd.job := by
  unfold flipped
  cases h : s.fwd.cur <;> exact ⟨rfl, rfl, rfl, rfl, rfl, rfl⟩

theorem doFlip_spec (s : State) : (doFlip s).fwd.cur = !s.fwd.cur ∧ (doFlip s).bankState (!s.fwd.cur) = .live ∧ (doFlip s).bankState s.fwd.cur = .draining ∧
    (doFlip s).fwd.bankA = s.fwd.bankA ∧ (doFlip s).fwd.bankB = s.fwd.bankB ∧ (doFlip s).fwd.job = s.fwd.job := by
  have tables := doFlip_tables s
  simp only [SameBlk, Prod.mk.injEq] at tables
  obtain ⟨bankA, bankB, job, cur, stA, stB⟩ := tables
  have states (b : Bool) : (doFlip s).bankState b = (flipped s).bankState b := by rw [State.bankState, State.bankState, stA, stB]
  rw [states, states, bankA, bankB, job, cur]
  exact flipped_spec s

end Sys2Proof.Machine

section
open Sys2Proof Sys2Proof.Machine

/-- Settles O19: FLIP turns the banks, and the markers that it places leave them alone; CONFIRM frees the bank that drained. -/
theorem epochCommandsComplete : Obligations.EpochCommandsComplete := by
  refine ⟨fun p s ho hb hc hA hB => ?_, fun p s ho hb hc drains => ?_, fun p s ho hb hc drained => ?_, fun p s ho hb hc waits => ?_⟩
  · refine completes_fwdCommand rfl ho hb hc ?_
    rw [if_neg (by simp [hA, hB])]
    obtain ⟨cur, live, draining, bankA, bankB, job⟩ := doFlip_spec s
    exact ⟨cur, live, draining, rfl, bankA, bankB, job⟩
  · refine completes_fwdCommand rfl ho hb hc ?_
    rw [if_pos (by simpa using drains), fwdStatus_fwd]
    rfl
  · refine completes_fwdCommand rfl ho hb hc ?_
    rw [drained, if_neg (by decide)]
    dsimp only
    rw [fwdStatus_fwd]
    by_cases h : s.fwd.stA = .draining
    · simp [h]
    · simp [h]
  · refine completes_fwdCommand rfl ho hb hc ?_
    rw [waits, if_pos (by decide), fwdStatus_fwd]
    rfl

end

/-! SUPPORT. BATCH, the background compare and learning relays (R154 to R159): one record of a batch, what reading a segment leaves, and a relay heard on the ring. -/
namespace Sys2Proof.Machine
open Sys2Proof

/-! ### BATCH (R159) -/

section
variable {s : State}

theorem runBatch_end (i : Nat) (s : State) : (runBatch 0 i s).fwd = { s.fwd with batchDone := BitVec.ofNat 32 i, status := 0 } := by
  rw [runBatch, fwdStatus_fwd]
  rfl

/-- The record of a batch that runs next, as the memory now holds it. -/
def batchRun (i : Nat) (s : State) : State × FwdRes := fwdRun (batchArg (rdMem s (s.fwd.batch.toNat + 32 * i) 32)) s

/-- A record that is OK leads on to the next. -/
theorem runBatch_ok {fuel i : Nat} (ok : (batchRun i s).2.st = 0) : runBatch (fuel + 1) i s = runBatch fuel (i + 1) (batchRun i s).1 := by
  rw [batchRun] at ok ⊢
  rw [runBatch]
  dsimp only
  rw [if_pos (by rw [ok]; rfl)]
/-- The batch stops at a record that is not. -/
theorem runBatch_stop {fuel i : Nat} (bad : (batchRun i s).2.st ≠ 0) : (runBatch (fuel + 1) i s).fwd =
    { (batchRun i s).1.fwd with batchDone := BitVec.ofNat 32 i, status := BitVec.ofNat 8 (batchRun i s).2.st } := by
  rw [batchRun] at bad ⊢
  rw [runBatch]
  dsimp only
  rw [if_neg (by simpa using bad), fwdStatus_fwd]

/-- A batch of one record. -/
theorem runBatch_one (s : State) : (runBatch 1 0 s).fwd = { (batchRun 0 s).1.fwd with
    batchDone := if (batchRun 0 s).2.st = 0 then 1 else 0, status := BitVec.ofNat 8 (batchRun 0 s).2.st } := by
  by_cases ok : (batchRun 0 s).2.st = 0
  · rw [runBatch_ok ok, runBatch_end, if_pos ok, ok]
    rfl
  · rw [runBatch_stop ok, if_neg ok]
    rfl

end

/-! ### The background compare (R156, R157) -/

/-- Of FWD only the marks of single-bit errors, the log of uncorrectable ones and the events changed, and the fitted memory is the same: what a read of entries leaves (R134). -/
structure OnlyErrors (s t : State) : Prop where
  fwd : t.fwd = { s.fwd with soft := t.fwd.soft, eccLog := t.fwd.eccLog, event := t.fwd.event }
  mem128 : t.nv.mem128 = s.nv.mem128

namespace OnlyErrors
variable {s t u : State}

theorem refl (s : State) : OnlyErrors s s := ⟨rfl, rfl⟩
theorem trans (h : OnlyErrors s t) (k : OnlyErrors t u) : OnlyErrors s u := ⟨by rw [k.fwd, h.fwd], k.mem128.trans h.mem128⟩
theorem of_kept {L : List Blk} (k : Kept L s t) (fwd : Blk.fwd ∉ L := by decide) : OnlyErrors s t := ⟨by rw [k.e_fwd fwd], k.mem128⟩
theorem raiseFwd (i : Nat) : OnlyErrors s (raiseFwd i s) := by
  rw [Machine.raiseFwd]
  split
  · exact .refl s
  · exact OnlyErrors.trans (t := { s with fwd.event := setBit s.fwd.event i true }) ⟨rfl, rfl⟩ (.of_kept fire_kept)
theorem correctAt (tbl : Nat) (b : Bool) (i : Nat) : OnlyErrors s (correctAt tbl b i s) :=
  ⟨by rw [correctAt_fwd], correctAt_kept.mem128⟩
theorem eccLog (v : Word) : OnlyErrors s { s with fwd.eccLog := v } := ⟨rfl, rfl⟩
theorem eccError (tbl : Nat) (b : Bool) (i : Nat) : OnlyErrors s (eccError tbl b i s) := by
  rw [Machine.eccError]
  exact ((eccLog _).trans (.raiseFwd 3)).trans (.of_kept addPenalty_kept)
theorem forEach {α : Type} {f : α → State → State} (hf : ∀ a u, OnlyErrors u (f a u)) (l : List α) : OnlyErrors s (forEach l f s) :=
  forEach_invariant (P := OnlyErrors s) (fun a _ u h => h.trans (hf a u)) (.refl s)

/-- The compare's read of a segment. -/
theorem readSegment (n : Nat) : OnlyErrors s (readSegment n s).1 := by
  rcases place : segmentOf n with ⟨tbl, b, k⟩
  have read : OnlyErrors s (Machine.forEach (segMarked s.fwd.bad n) (Machine.eccError tbl b) (Machine.forEach (segMarked s.fwd.soft n) (Machine.correctAt tbl b) s)) :=
    (OnlyErrors.forEach (fun i _ => .correctAt _ _ i) _).trans (.forEach (fun i _ => .eccError _ _ i) _)
  rw [Machine.readSegment, place]
  dsimp only
  split
  · exact read
  · exact read.trans (.of_kept takeFree_kept)

theorem capacity (h : OnlyErrors s t) : t.capacity = s.capacity := by rw [State.capacity, State.capacity, h.mem128]
theorem cmpBase (h : OnlyErrors s t) : t.fwd.cmpBase = s.fwd.cmpBase := by rw [h.fwd]
theorem cmpPass (h : OnlyErrors s t) : t.fwd.cmpPass = s.fwd.cmpPass := by rw [h.fwd]

end OnlyErrors

section
variable {s : State}

/-- A segment without marked entries is read as it stands. -/
theorem readSegment_unmarked {n : Nat} (bad : segMarked s.fwd.bad n = []) (soft : segMarked s.fwd.soft n = []) : readSegment n s = (s, segDigest s n) := by
  rw [readSegment]
  dsimp only
  rw [bad, soft]
  rfl

/-- The record of a segment: its digest, and FWD_WSEQ as it was read (R157). -/
def segRecord (n : Nat) (s : State) : List Byte := toLE 8 (readSegment n s).2 ++ toLE 8 (readSegment n s).1.fwd.wseq.toNat
/-- The segment that comes next is read, and its record written. -/
def segWritten (s : State) : State :=
  wrMem (readSegment s.fwd.cmpNext s).1 ((readSegment s.fwd.cmpNext s).1.fwd.cmpBase.toNat + 16 * s.fwd.cmpNext) (segRecord s.fwd.cmpNext s)

theorem segRecord_length (n : Nat) (s : State) : (segRecord n s).length = 16 := by
  rw [segRecord, List.length_append, toLE_length, toLE_length]

theorem segWritten_cmpPass : (segWritten s).fwd.cmpPass = s.fwd.cmpPass := (OnlyErrors.readSegment _).cmpPass

/-- The record reads back from its place, where memory is fitted there. -/
theorem segWritten_rdMem (room : s.fwd.cmpBase.toNat + 16 * s.fwd.cmpNext + 16 ≤ s.capacity) :
    rdMem (segWritten s) (s.fwd.cmpBase.toNat + 16 * s.fwd.cmpNext) 16 = segRecord s.fwd.cmpNext s := by
  have read : OnlyErrors s (readSegment s.fwd.cmpNext s).1 := .readSegment _
  have back := rdMem_wrMem (readSegment s.fwd.cmpNext s).1 (s.fwd.cmpBase.toNat + 16 * s.fwd.cmpNext) (segRecord s.fwd.cmpNext s)
    (by rw [segRecord_length, read.capacity]; exact room)
  rw [segRecord_length] at back
  rw [segWritten, read.cmpBase]
  exact back

theorem segmentDigest_within (on : s.fwd.cmpEnable = true) (h : s.fwd.cmpNext < 17681) :
    segmentDigest s = { segWritten s with fwd.cmpNext := s.fwd.cmpNext + 1 } := by
  rw [segmentDigest, on, if_neg (by decide)]
  exact if_pos h
theorem segmentDigest_last (on : s.fwd.cmpEnable = true) (h : 17681 ≤ s.fwd.cmpNext) : segmentDigest s = raiseFwd 1 { segWritten s with
    fwd.cmpNext := 0, fwd.cmpPass := (segWritten s).fwd.cmpPass + 1, plt.lastPass := (segWritten s).clk } := by
  rw [segmentDigest, on, if_neg (by decide)]
  exact if_neg (Nat.not_lt.mpr h)

theorem raiseFwd_rdMem (i a n : Nat) (s : State) : rdMem (raiseFwd i s) a n = rdMem s a n := by
  have kept : Kept [.hst, .fwd, .out] s (raiseFwd i s) := raiseFwd_kept
  refine rdMem_congr ?_ fun _ _ => by rw [kept.e_ram]
  rw [State.capacity, State.capacity, kept.e_nv]
theorem raiseFwd_event (i : Nat) (hi : i < 4) (s : State) : (raiseFwd i s).fwd.event.getLsbD i = true := by
  rw [raiseFwd]
  split
  · next h => exact h
  · rw [fire_kept.e_fwd]
    exact getLsbD_setBit_self _ hi

end

/-! ### Learning relays (R154, R155) -/

section
variable {s : State} {lane : Fin 2} {codes : List Code} {type : Byte} {msg : List Byte}

/-- The state in which the user of a ring message runs: the lane has taken its characters. -/
def heardOn (lane : Fin 2) (codes : List Code) (s : State) : State :=
  s.modSvc (s.ringLane (isWest lane)) (fun v => codes.foldl Svc.takeChar v)

/-- A message heard on a ring lane reaches the user of its TYPE. -/
theorem onRing_hears {f : List Byte → State → State} (h : HearsRing s lane codes type msg) : onRing lane type codes f s = f msg (heardOn lane codes s) := by
  obtain ⟨member, seq, aligned, heard⟩ := h
  have on : ((s.svcLane (s.ringLane (isWest lane))).st != .aligned) = false := by rw [aligned]; rfl
  rw [onRing, if_pos member, onMessage, svcMessage, on, heard, if_neg Bool.false_ne_true]
  dsimp only
  rw [if_pos (beq_self_eq_true type)]
  rfl

/-- A record goes to the notification ring at its head, which moves on. -/
theorem writeLearn_reads {note : List Byte} (len : note.length = 32) (room : s.fwd.lrnBase.toNat + 32 * s.fwd.lrnHead.toNat + 32 ≤ s.capacity) :
    rdMem (writeLearn note s) (s.fwd.lrnBase.toNat + 32 * s.fwd.lrnHead.toNat) 32 = note ∧
    (writeLearn note s).fwd.lrnHead = BitVec.ofNat 19 ((s.fwd.lrnHead.toNat + 1) % 2 ^ s.fwd.lrnLog2.toNat) := by
  have back := rdMem_wrMem s (s.fwd.lrnBase.toNat + 32 * s.fwd.lrnHead.toNat) note (by rw [len]; exact room)
  rw [len] at back
  refine ⟨Eq.trans (rdMem_congr ?_ fun i _ => ?_) back, ?_⟩
  · rw [State.capacity, State.capacity, writeLearn, fire_nv]
  · rw [writeLearn, fire_kept.e_ram]
  · rw [writeLearn, fire_kept.e_fwd]

theorem fit_length (n : Nat) (b : List Byte) : (fit n b).length = n := by simp [fit, slice]

/-- A relay of another device's notification goes to the notification ring, where that can take it. -/
theorem takeLearnRelay_ring (other : u64At msg 20 ≠ s.nv.devid.toNat) (ring : s.learnRingOpen = true) :
    takeLearnRelay msg (heardOn lane codes s) = writeLearn (fit 32 msg) (heardOn lane codes s) := by
  have away : (u64At msg 20 == (heardOn lane codes s).nv.devid.toNat) = false := beq_false_of_ne other
  have takes : (heardOn lane codes s).learnRingOpen = true := ring
  rw [takeLearnRelay, away, takes, if_neg Bool.false_ne_true, if_pos rfl]
/-- One's own notification has been round the ring. -/
theorem takeLearnRelay_home (home : u64At msg 20 = s.nv.devid.toNat) : takeLearnRelay msg (heardOn lane codes s) = heardOn lane codes s :=
  if_pos (beq_iff_eq.mpr home)

end

end Sys2Proof.Machine

section
open Sys2Proof Sys2Proof.Machine

/-- Settles O20: a batch runs record by record, a segment's record reads back from its place, and a relay goes to the ring or has come home. -/
theorem tableUpkeepCompletes : Obligations.TableUpkeepCompletes := by
  refine ⟨fun p s ho hb hc empty => ?_, fun p s r ho hb hc one hr => ?_, fun s bad soft => readSegment_unmarked bad soft, fun s on room => ?_,
    fun lane codes msg s heard other ring head room => ?_, fun lane codes msg s heard home => ?_⟩
  · refine completes_fwdCommand rfl ho hb hc ?_
    rw [empty]
    exact runBatch_end 0 s
  · subst hr
    refine completes_fwdCommand rfl ho hb hc ?_
    rw [one]
    have run : batchRun 0 s = fwdRun (batchArg (rdMem s s.fwd.batch.toNat 32)) s := rfl
    rw [← run, show (1 : Word).toNat = 1 from rfl, runBatch_one]
    exact ⟨rfl, rfl, rfl, rfl, rfl⟩
  · by_cases h : s.fwd.cmpNext < 17681
    · refine ⟨_, congrArg Host.Outcome.next (segmentDigest_within on h), segWritten_rdMem room, fun _ => ⟨rfl, segWritten_cmpPass⟩, fun last => absurd h (by omega)⟩
    · refine ⟨_, congrArg Host.Outcome.next (segmentDigest_last on (Nat.not_lt.mp h)), ?_, fun within => absurd within h, fun _ => ⟨?_, ?_, raiseFwd_event 1 (by decide) _⟩⟩
      · exact (raiseFwd_rdMem 1 _ _ _).trans (segWritten_rdMem room)
      · rw [(OnlyErrors.raiseFwd 1).fwd]
      · rw [(OnlyErrors.raiseFwd 1).fwd, segWritten_cmpPass]
  · refine ⟨_, congrArg Host.Outcome.next (onRing_hears heard), ?_⟩
    rw [takeLearnRelay_ring other ring]
    exact writeLearn_reads (s := heardOn lane codes s) (fit_length 32 msg) room
  · refine ⟨_, congrArg Host.Outcome.next (onRing_hears heard), ?_⟩
    rw [takeLearnRelay_home home]
    rfl

end

/-! SUPPORT. The windfall sweeper (R165): what it does adds nothing to an output queue, and leaves no aged packet in the queues of its district. -/
namespace Sys2Proof.Machine
open Sys2Proof

/-! ### Queues that only lose what they hold -/

/-- From `s` to `t` no queue gained an item, ages and their limits stand as they were, no local time passed, and no capture rule runs. -/
structure Thinned (s t : State) : Prop where
  plt : t.plt = s.plt
  tb : t.tmb.tb = s.tmb.tb
  clk : t.clk = s.clk
  off : t.swc.capture = false
  items : ∀ k, (t.queue k).items ⊆ (s.queue k).items

namespace Thinned
variable {s t u : State} {p : Pkt}

theorem refl (off : s.swc.capture = false) : Thinned s s := ⟨rfl, rfl, rfl, off, fun _ => List.Subset.refl _⟩

theorem aged (h : Thinned s t) (p : Pkt) : t.aged p = s.aged p := by
  have limit : t.ageNs p.h.tc = s.ageNs p.h.tc := by rw [State.ageNs, State.ageNs, State.cls, State.cls, h.plt]
  rw [State.aged, State.aged, State.age, State.age, State.now, State.now, h.tb, limit]

theorem forEach {α : Type} {l : List α} {f : α → State → State} (hf : ∀ a ∈ l, ∀ u, Thinned s u → Thinned s (f a u)) (h : Thinned s t) :
    Thinned s (forEach l f t) := forEach_invariant hf h

variable (h : Thinned s t)
include h

/-- A change that leaves the queues, the structure and time alone. -/
theorem step (plt : u.plt = t.plt) (tb : u.tmb.tb = t.tmb.tb) (clk : u.clk = t.clk) (capture : u.swc.capture = t.swc.capture)
    (q : u.swc.q = t.swc.q) : Thinned s u :=
  ⟨plt.trans h.plt, tb.trans h.tb, clk.trans h.clk, capture.trans h.off, fun k => by rw [State.queue, q]; exact h.items k⟩

theorem putFwd (f : Fwd) : Thinned s { t with fwd := f } := h.step rfl rfl rfl rfl rfl

theorem kept {L : List Blk} (k : Kept L t u) (hL : ∀ b ∈ [Blk.plt, .tmb, .clk, .swc], b ∉ L) : Thinned s u := by
  have swc : u.swc = t.swc := k.same .swc (hL _ (by decide))
  have tmb : u.tmb = t.tmb := k.same .tmb (hL _ (by decide))
  exact h.step (k.same .plt (hL _ (by decide))) (by rw [tmb]) (k.same .clk (hL _ (by decide))) (by rw [swc]) (by rw [swc])

/-- A queue that is written holds only what it held. -/
theorem setQueue {k : Nat} {q : Queue} (hq : q.items ⊆ (t.queue k).items) : Thinned s (t.setQueue k q) := by
  refine ⟨h.plt, h.tb, h.clk, h.off, fun n => ?_⟩
  by_cases e : n = k
  · subst e
    rw [setQueue_queue_self]
    exact List.Subset.trans hq (h.items n)
  · rw [setQueue_queue_of_ne _ _ e]
    exact h.items n

/-- New tags for a queue take nothing from it. -/
theorem modQueue {k : Nat} {f : Queue → Queue} (hf : ∀ q, (f q).items = q.items) : Thinned s (t.modQueue k f) :=
  h.setQueue (by rw [hf]; exact List.Subset.refl _)

/-! ### Discards (R164) -/

theorem modMap (n : Nat) (f : MapCnt → MapCnt) : Thinned s (modMap n f t) := h.step rfl rfl rfl rfl rfl

theorem capture (fate : Fate) (d : Nat) (out : Option Nat) : Thinned s (capture fate d p out t) := by
  rw [capture_off fate d out h.off]
  exact h

theorem windfall (out : Option Nat) (queued : Bool) : Thinned s (windfall p out queued t) := by
  have counted : Thinned s (countDiscard 1 p.inPort t) := h.step rfl rfl rfl rfl rfl
  dsimp only [Machine.windfall]
  refine kept (kept (t := if queued then _ else _) ?_ leaveCount_kept (by decide)) returnCredit_kept (by decide)
  have captured (v : State) (hv : Thinned s v) : Thinned s (if queued then Machine.capture .windfall 1 p out v
      else preLeave p (Machine.capture .windfall 1 p out v)) := by
    split
    · exact hv.capture _ _ _
    · exact (hv.capture _ _ _).kept preLeave_kept (by decide)
  cases out with
  | none => exact captured _ counted
  | some q => exact captured _ (modMap (counted.kept count_kept (by decide)) _ _)

theorem discard (d : Nat) (out : Option Nat) : Thinned s (discard d p out t) :=
  (((h.kept countDiscard_kept (by decide)).capture _ _ _).kept preLeave_kept (by decide)).kept leaveCount_kept (by decide) |>.kept returnCredit_kept (by decide)

theorem shortRepl (g : Nat) (out : Option Nat) : Thinned s (shortRepl g p out t) :=
  ((h.kept countDiscard_kept (by decide)).capture .discard 29 out).putFwd _

/-! ### Items that leave a queue (R162) -/

theorem consumeFront (k : Nat) : Thinned s (consumeFront k t) := by
  dsimp only [Machine.consumeFront]
  split
  · exact h
  · exact (h.setQueue (frontMarkers_suffix _).subset).forEach fun _ _ _ hu => hu.kept consumeMarker_kept (by decide)

theorem settleQueue {port tc : Nat} {l : List QItem} (hl : l ⊆ (t.queue (queueKey port tc)).items) (newHead : Bool) :
    Thinned s (settleQueue port tc l newHead t) := by
  have consumed : Thinned s (Machine.consumeFront (queueKey port tc) (t.modQueue (queueKey port tc) (fun q => { q with items := l }))) :=
    (h.setQueue hl).consumeFront _
  dsimp only [Machine.settleQueue]
  split
  · split
    · exact consumed.modQueue fun _ => rfl
    · exact consumed
  · exact consumed

end Thinned

theorem queueKey_div_mod (k : Nat) : queueKey (k / 8) (k % 8) = k := Nat.div_add_mod k 8

/-! ### The places that the sweeper looks through (R165) -/

section
variable {bad : Pkt → Bool} {drop : Pkt → Nat → State → State} {s t : State}

/-- The packet of an item is one that `bad` names. -/
def itemNamed (bad : Pkt → Bool) (t : State) (it : QItem) : Bool := match t.itemPkt it with | some p => bad p | none => false

/-- A queue without the packets named, the first step of purging it. -/
def purgedQueue (bad : Pkt → Bool) (key : Nat) (t : State) : State :=
  settleQueue (key / 8) (key % 8) ((t.queue key).items.filter (fun it => !itemNamed bad t it)) (((t.queue key).head?.map (itemNamed bad t)).getD false) t

theorem purgeQueue_eq (key : Nat) : purgeQueue bad drop key t =
    if !(t.queue key).items.any (itemNamed bad t) then t
    else forEach (((t.queue key).items.filter (itemNamed bad t)).filterMap t.itemPkt) (fun p => drop p (key / 8))
      (forEach (((t.queue key).items.filter (itemNamed bad t)).filterMap combId) freeComb (purgedQueue bad key t)) := rfl

/-- What then stands in the queue is no packet that was named. -/
theorem purgedQueue_items {key : Nat} {k : Pkt} (hk : .pkt k ∈ ((purgedQueue bad key t).queue key).items) : bad k = false := by
  have settled := settleQueue_items (port := key / 8) (tc := key % 8) (s := t) ((t.queue key).items.filter (fun it => !itemNamed bad t it))
    (((t.queue key).head?.map (itemNamed bad t)).getD false)
  rw [queueKey_div_mod] at settled
  rw [purgedQueue, settled] at hk
  have kept := List.of_mem_filter ((frontMarkers_suffix _).subset hk)
  simpa only [itemNamed, State.itemPkt, Bool.not_eq_true'] using kept

theorem Thinned.purgedQueue (h : Thinned s t) (key : Nat) : Thinned s (purgedQueue bad key t) :=
  h.settleQueue (by rw [queueKey_div_mod]; exact List.filter_subset_self ..) _

variable (hdrop : ∀ {s u} p n, Thinned s u → Thinned s (drop p n u))
include hdrop

/-- What a purge does with the packets that it took out. -/
theorem Thinned.handOn (h : Thinned s t) (out : List Pkt) (ids : List Nat) (n : Nat) :
    Thinned s (Machine.forEach out (fun p => drop p n) (Machine.forEach ids freeComb t)) :=
  .forEach (fun p _ _ hu => hdrop p n hu) (.forEach (fun _ _ _ hu => hu.kept freeComb_kept (by decide)) h)

theorem Thinned.purgeQueue (h : Thinned s t) (key : Nat) : Thinned s (purgeQueue bad drop key t) := by
  rw [purgeQueue_eq]
  split
  · exact h
  · exact (h.purgedQueue key).handOn hdrop _ _ _

variable (off : t.swc.capture = false) {key : Nat} {k : Pkt}
include off

/-- The packets named are gone from a queue that was purged. -/
theorem purgeQueue_items (hk : .pkt k ∈ ((purgeQueue bad drop key t).queue key).items) : bad k = false := by
  rw [purgeQueue_eq] at hk
  split at hk
  · next untouched =>
    simp only [Bool.not_eq_true', List.any_eq_false, Bool.not_eq_true] at untouched
    exact untouched _ hk
  · have purged := (Thinned.refl off).purgedQueue (bad := bad) key
    exact purgedQueue_items (((Thinned.refl purged.off).handOn hdrop _ _ _).items key hk)

/-- Purging queue after queue clears every one of them. -/
theorem purgeQueues_items {l : List Nat} (hl : key ∈ l) (hk : .pkt k ∈ ((forEach l (purgeQueue bad drop) t).queue key).items) : bad k = false := by
  induction l generalizing t with
  | nil => exact absurd hl List.not_mem_nil
  | cons a r ih =>
    have first := (Thinned.refl off).purgeQueue (bad := bad) hdrop a
    rcases List.mem_cons.mp hl with rfl | later
    · have rest : Thinned _ (forEach r (purgeQueue bad drop) (purgeQueue bad drop key t)) :=
        .forEach (fun b _ _ hu => hu.purgeQueue hdrop b) (.refl first.off)
      exact purgeQueue_items hdrop off (rest.items key hk)
    · exact ih first.off later hk

end

namespace Thinned
variable {s t : State} (h : Thinned s t)
include h

theorem purgeFifo {bad : Held → Bool} {drop : Held → State → State} (hdrop : ∀ {s u} x, Thinned s u → Thinned s (drop x u)) (key : Nat) :
    Thinned s (purgeFifo bad drop key t) :=
  Thinned.forEach (fun x _ _ hu => hdrop x hu) (h.step rfl rfl rfl rfl rfl)

theorem purgeRo {bad : Pkt → Bool} {drop : Pkt → Option Nat → State → State} (hdrop : ∀ {s u} p o, Thinned s u → Thinned s (drop p o u)) (d : Nat) :
    Thinned s (purgeRo bad drop d t) :=
  Thinned.forEach (fun _ _ _ hu => hdrop _ _ hu) (h.step rfl rfl rfl rfl rfl)

theorem purgeBinding {bad : Pkt → Bool} {mark : YItem → YItem} {drop : Pkt × Hop → State → State}
    (hdrop : ∀ {s u} x, Thinned s u → Thinned s (drop x u)) (bid : Nat) : Thinned s (purgeBinding bad mark drop bid t) := by
  unfold Machine.purgeBinding
  split
  · exact h
  · exact Thinned.forEach (fun x _ _ hu => hdrop x hu) (h.step rfl rfl rfl rfl rfl)

/-! ### Replications that wait (R134, R161, R165) -/

/-- A penalty on an SRAM bank takes no packet and no time (R362, R363). -/
theorem addPenalty (i w : Nat) : Thinned s (addPenalty 2 i w t) := by
  have bank := addPenalty_bank i w t
  have tmb : (Machine.addPenalty 2 i w t).tmb = t.tmb := addPenalty_kept.same .tmb (by decide)
  exact h.step bank.plt (by rw [tmb]) (addPenalty_kept.same .clk (by decide)) (by rw [bank.swc]) (by rw [bank.swc])

theorem readEnts (b : Bool) (l : List (Nat × Nat)) : Thinned s (readEnts b l t).1 := by
  induction l generalizing t with
  | nil => exact h
  | cons e r ih =>
    obtain ⟨tbl, i⟩ := e
    rw [Machine.readEnts]
    split
    · exact ((h.putFwd _).kept raiseFwd_kept (by decide)).addPenalty _ _
    · refine ih ?_
      rw [correctAt]
      split
      · exact ((h.putFwd _).kept countX_kept (by decide)).addPenalty _ _
      · exact h

theorem readMember (b : Bool) (i : Nat) : Thinned s (readMember b i t).1 := by
  have list := h.readEnts b [(9, i)]
  dsimp only [Machine.readMember]
  split
  · next u e => rwa [e] at list
  · next u e =>
    rw [e] at list
    have entry := list.readEnts b [(6, (tget Ent2.zero u.fwd.repl i).w0.toNat)]
    split
    · exact list
    · split
      · next v e => rwa [e] at entry
      · next v e => rwa [e] at entry

/-- Of a replication whose packet is aged no copy is written to a queue. -/
theorem runRepl_aged {fuel : Nat} {w : ReplWait} (ha : s.aged w.pkt = true) : Thinned s (runRepl fuel w t).1 := by
  induction fuel generalizing t w with
  | zero => exact h.kept endRepl_kept (by decide)
  | succ fuel ih =>
    have member := h.readMember w.pkt.h.epoch (w.base + w.idx)
    rw [runRepl]
    split
    · exact h.kept endRepl_kept (by decide)
    · dsimp only
      split
      · next u e => rw [e] at member; exact member.discard _ _
      · next u e => rw [e] at member; exact ih member ha
      · next u eid cordoned hop e =>
        rw [e] at member
        split
        · exact ih (member.shortRepl _ _) ha
        · rw [if_pos ((member.aged _).trans ha)]
          exact ih (member.windfall _ _) ha

theorem sweepRepl (d : Nat) : Thinned s (sweepRepl d t) := by
  refine Thinned.forEach (fun w hw u hu => hu.runRepl_aged ?_) (h.step rfl rfl rfl rfl rfl)
  have mine := List.of_mem_filter hw
  rw [Bool.and_eq_true] at mine
  exact (h.aged _).symm.trans mine.2

end Thinned

/-! ### A sweep of a district (R165) -/

section
variable {d : Nat} {s : State}

/-- The output queues of a district's ports. -/
def sweepKeys (d : Nat) (s : State) : List Nat := (s.distPorts d).flatMap (fun p => (List.range 8).map (queueKey p))
theorem mem_sweepKeys {p tc : Nat} (hp : p ∈ s.distPorts d) (htc : tc < 8) : queueKey p tc ∈ sweepKeys d s :=
  List.mem_flatMap.mpr ⟨p, hp, List.mem_map_of_mem (List.mem_range.mpr htc)⟩

/-- The state after the first step of a sweep, that through the output queues. -/
def queuesSwept (d : Nat) (s : State) : State :=
  forEach (sweepKeys d s) (purgeQueue s.aged (fun p port s => windfall p (some port) true s)) s

theorem queuesSwept_thinned (off : s.swc.capture = false) : Thinned s (queuesSwept d s) :=
  .forEach (fun key _ _ hu => hu.purgeQueue (fun _ _ hv => hv.windfall _ _) key) (.refl off)

/-- The further steps of a sweep put no packet in a queue. -/
theorem Thinned.sweepDistrict {r : State} (h : Thinned r (queuesSwept d s)) : Thinned r (sweepDistrict d s) := by
  have fifos := Thinned.forEach (l := sweepKeys d s) (fun key _ _ hu => hu.purgeFifo (bad := fun x => (queuesSwept d s).aged x.pkt)
    (drop := fun x s => Machine.windfall x.pkt (s.outPort x.dest x.pkt) false s) (fun _ hv => hv.windfall _ _) key) h
  exact .forEach (fun bid _ _ hu => hu.purgeBinding (fun _ hv => hv.windfall _ _) bid)
    ((fifos.purgeRo (fun _ _ hv => hv.windfall _ _) d).sweepRepl d)

/-- A sweep leaves no aged packet in the queues of its district. -/
theorem sweepDistrict_unaged (off : s.swc.capture = false) {p tc : Nat} (hp : p ∈ s.distPorts d) (htc : tc < 8) {k : Pkt}
    (hk : .pkt k ∈ ((sweepDistrict d s).queue (queueKey p tc)).items) : (sweepDistrict d s).aged k = false := by
  have queues := queuesSwept_thinned (d := d) off
  rw [queues.sweepDistrict.aged]
  have rest := (Thinned.refl queues.off).sweepDistrict
  exact purgeQueues_items (fun _ _ hv => hv.windfall _ _) off (mem_sweepKeys hp htc) (rest.items _ hk)

end

end Sys2Proof.Machine

/-! SUPPORT. Upkeep of spray counters, hash buckets, reorder contexts and sampling (R170, R171, R174, R177, R178): what each command leaves in SWC. -/
namespace Sys2Proof.Machine
open Sys2Proof

section
variable {s : State} {d : Nat}

/-! ### Spray counters, hash buckets and idle contexts (R170, R171, R174) -/

theorem releaseSpray_mem {c : SprayCtr} : c ∈ tget [] (releaseSpray d s).swc.spray d ↔
    c ∈ tget [] s.swc.spray d ∧ s.clk - c.last < s.maxAge + 2000000 := by
  rw [releaseSpray, tget_tmod_self, List.mem_filter, decide_eq_true_eq]
theorem releaseSpray_others {e : Nat} (h : e ≠ d) : tget [] (releaseSpray d s).swc.spray e = tget [] s.swc.spray e :=
  tget_tmod_of_ne _ _ _ h

/-- A bucket whose home port is up and that no packet has used for 1 ms returns to it (R171). -/
theorem returnBucket_idle {b k : Nat} {r : Bucket} (used : tget none s.swc.bucket (256 * b + k) = some r) (idle : 1000000 ≤ s.clk - r.last)
    (home : s.up ((s.bundlePorts b).getD (k % max 1 (s.bundlePorts b).length) 0) = true) :
    returnBucket b k s = { s with swc.bucket := tset none s.swc.bucket (256 * b + k) none } := by
  simp only [returnBucket, used, home, idle, decide_true, Bool.and_self, if_true]

/-- The bucket alone is at its home again. -/
theorem returnBucket_reads {b k : Nat} {r : Bucket} (used : tget none s.swc.bucket (256 * b + k) = some r) (idle : 1000000 ≤ s.clk - r.last)
    (home : s.up ((s.bundlePorts b).getD (k % max 1 (s.bundlePorts b).length) 0) = true) (j : Nat) :
    tget none (returnBucket b k s).swc.bucket j = if j = 256 * b + k then none else tget none s.swc.bucket j := by
  rw [returnBucket_idle used idle home]
  simp only [tget_tset]

theorem SameSwitch.bundlePorts {t : State} (h : SameSwitch s t) (b : Nat) : t.bundlePorts b = s.bundlePorts b := by
  simp only [State.bundlePorts, State.ports, State.bundle, State.entry, h.plt]

@[simp] theorem setRo_ro_self (l : List Reorder) : (setRo d l s).ro d = l := tget_tset_self _ _ _ _
theorem setRo_ro_of_ne (l : List Reorder) {e : Nat} (h : e ≠ d) : (setRo d l s).ro e = s.ro e := tget_tset_of_ne _ _ _ h

theorem setRo_same (d : Nat) (l : List Reorder) (s : State) : SameSwitch s (setRo d l s) := ⟨rfl, rfl, rfl, rfl, rfl, rfl⟩
theorem setRo_aged (d : Nat) (l : List Reorder) (s : State) (p : Pkt) : (setRo d l s).aged p = s.aged p := rfl

theorem retireReorder_mem {c : Reorder} : c ∈ (retireReorder d s).ro d ↔ c ∈ s.ro d ∧ ¬ (c.held = [] ∧ 1000000 ≤ s.clk - c.last) := by
  rw [retireReorder, setRo_ro_self, List.mem_filter]
  simp only [Bool.not_eq_true', Bool.and_eq_false_iff, List.isEmpty_eq_false_iff, decide_eq_false_iff_not, not_and_or, ne_eq]

/-! ### Held packets that time out (R174) -/

/-- A context whose one held packet has gone on: nothing is held, and the packet's successor is expected. -/
def Reorder.released (c : Reorder) (p : Pkt) : Reorder :=
  { c with held := [], next := some (BitVec.ofNat 32 (seqAfter c.c2 p.h.seq.toNat)), mark := none }

section
variable {c : Reorder} {p : Pkt} {dest : Dest} {at_ : Nat}

theorem sameRo_self (c : Reorder) : sameRo c c = true := by simp [sameRo]

theorem roGap_one (held : c.held = [(p, dest, at_)]) (kind : p.h.kind ≠ 9) : roGap c = (c.released p, [.out p dest true]) := by
  simp [roGap, Reorder.ordered, held, takeRun, fromStore, roOut, kind, Reorder.released]

/-- A start that times out releases the packet and is not counted as a gap (log entry 39). -/
theorem roTimeout_start {fuel : Nat} (held : c.held = [(p, dest, at_)]) (kind : p.h.kind ≠ 9) (start : c.next = none)
    (due : s.roTmo ≤ s.clk - at_) : roTimeout d (fuel + 2) c s = (putRo d (c.released p) s, [.out p dest true]) := by
  have late : c.due s = true := by simp [Reorder.due, held, due]
  have settled : (c.released p).due s = false := rfl
  simp [roTimeout, late, start, roGap_one held kind, settled]

theorem putRo_only (only : s.ro d = [c]) : putRo d (c.released p) s = setRo d [c.released p] s := by
  have same : sameRo (c.released p) c = true := sameRo_self c
  simp [putRo, only, same]

/-- Where a district has one context, its timeouts are those of that context. -/
theorem reorderTimeouts_one (only : s.ro d = [c]) (held : c.held = [(p, dest, at_)]) (kind : p.h.kind ≠ 9) (start : c.next = none)
    (due : s.roTmo ≤ s.clk - at_) : reorderTimeouts d s = applyRo [.out p dest true] (setRo d [c.released p] s) := by
  have late : c.due s = true := by simp [Reorder.due, held, due]
  have run := roTimeout_start (d := d) (fuel := 0) held kind start due
  simp [reorderTimeouts, only, late, forEach, sameRo_self, held, run, putRo_only only]

theorem Written.ro {q : Nat} {t : State} (w : Written q p s t) (d : Nat) : t.ro d = s.ro d := by
  rw [State.ro, State.ro, w.swc]

/-- A scheduled packet that reordering releases is written to the queue of its port, if that is up and has room (R161, R174). -/
theorem applyRo_port {q : Nat} (sched : p.h.isSched = true) (hup : s.up q = true) (hd : s.dist (districtOf q) ≠ .draining)
    (hr : s.roomFor q p.h.tc p.cells = true) (ha : s.aged p = false) (hm : NoMirrorEnd q p s) :
    applyRo [.out p (.hop (.port q)) true] s = writeQueue q p s := by
  have placed : place (.hop (.port q)) p s = (writeQueue q p s, true) := placeHop_port hup hd hr ha hm
  simp [applyRo, ha, toEgress, placed, sched]

end

/-! ### Sampling (R177, R178) -/

/-- The queues that a sweep would record. -/
def State.smpKeys (s : State) : List Nat :=
  (s.ports.flatMap (fun p => (List.range 8).map (queueKey p))).filter
    (fun q => !s.swc.nonempty || (s.queue q).depth != 0 || (s.queue q).smax != 0)
/-- The records for which the ring has room. -/
def State.smpFree (s : State) : Nat :=
  (s.swc.smpTail.toNat % 2 ^ s.swc.smpSize.toNat + 2 ^ s.swc.smpSize.toNat - s.swc.smpHead.toNat % 2 ^ s.swc.smpSize.toNat - 1) % 2 ^ s.swc.smpSize.toNat

/-- A sweep is due once in each period. -/
theorem sampleSweep_due {k : Nat} (hk : k = s.now / s.smpPeriodNs) (new : k ≠ s.swc.lastSweep) (on : s.swc.sample = true) :
    sampleSweep s = sampleNow (k * s.smpPeriodNs) { s with swc.lastSweep := k } := by
  subst hk
  simp only [sampleSweep, beq_false_of_ne new, on, Bool.false_eq_true, if_false, if_true]
  rfl

/-- A ring without room for every record of a sweep takes none (R177). -/
theorem sampleNow_skip {at_ : Nat} (full : s.smpFree < s.smpKeys.length + 1) : sampleNow at_ s = raiseSwc 1 (count (evNo 16 0x021 0) s) := by
  refine if_pos ?_
  rw [List.length_cons, List.length_map]
  exact full

theorem setBit_true_of_set {w i : Nat} {v : BitVec w} (h : v.getLsbD i = true) : setBit v i true = v := by
  refine BitVec.eq_of_getLsbD_eq fun j hj => ?_
  simp only [setBit, if_true, BitVec.getLsbD_or, BitVec.getLsbD_ofNat, Nat.testBit_two_pow, hj, decide_true, Bool.true_and]
  by_cases e : i = j
  · subst e; simp [h]
  · simp [e]

/-- The event is set, whether or not it stood before. -/
theorem raiseSwc_swc (i : Nat) : (raiseSwc i s).swc = { s.swc with event := setBit s.swc.event i true } := by
  rw [raiseSwc]
  split
  · next h => rw [setBit_true_of_set h]
  · rw [fire_kept.e_swc]

/-- The marker that begins a sweep's records. -/
def smpMarker (at_ : Nat) : List Byte := toLE 4 0x80000000 ++ zeros 4 ++ toLE 8 at_

theorem smpMarker_length (at_ : Nat) : (smpMarker at_).length = 16 := by
  simp [smpMarker, toLE_length, zeros]

/-- Where no port is built a sweep writes its marker alone. -/
theorem sampleNow_marker {at_ n : Nat} (bare : s.ports = []) (hn : n = 2 ^ s.swc.smpSize.toNat) (empty : s.swc.smpHead = s.swc.smpTail) (two : 2 ≤ n)
    (head : s.swc.smpHead.toNat < n) : sampleNow at_ s =
      { wrMem s (s.swc.smpBase.toNat + 16 * s.swc.smpHead.toNat) (smpMarker at_) with
        swc.smpHead := BitVec.ofNat 24 ((s.swc.smpHead.toNat + 1) % n) } := by
  have room : ¬ (s.swc.smpHead.toNat + n - s.swc.smpHead.toNat - 1) % n < 1 := by
    rw [show s.swc.smpHead.toNat + n - s.swc.smpHead.toNat - 1 = n - 1 by omega, Nat.mod_eq_of_lt (by omega)]
    omega
  simp only [sampleNow, bare, List.flatMap_nil, List.filter_nil, List.map_nil, List.length_singleton, ← hn, ← empty, Nat.mod_eq_of_lt head,
    if_neg room, forEach, List.zipIdx_cons, List.zipIdx_nil, List.foldl_cons, List.foldl_nil, Nat.add_zero]
  rfl

theorem sampleNow_marker_rdMem {at_ n : Nat} (bare : s.ports = []) (hn : n = 2 ^ s.swc.smpSize.toNat) (empty : s.swc.smpHead = s.swc.smpTail)
    (two : 2 ≤ n) (head : s.swc.smpHead.toNat < n) (fits : s.swc.smpBase.toNat + 16 * n ≤ s.capacity) :
    rdMem (sampleNow at_ s) (s.swc.smpBase.toNat + 16 * s.swc.smpHead.toNat) 16 = smpMarker at_ := by
  have back := rdMem_wrMem s (s.swc.smpBase.toNat + 16 * s.swc.smpHead.toNat) (smpMarker at_)
    (by rw [smpMarker_length]; exact Nat.le_trans (by omega) fits)
  rw [smpMarker_length] at back
  rw [sampleNow_marker bare hn empty two head]
  exact back

section
variable {k : Nat} (hk : k = s.now / s.smpPeriodNs) (new : k ≠ s.swc.lastSweep) (on : s.swc.sample = true)
include hk new on

theorem sampleSweep_marker {n : Nat} (bare : s.ports = []) (hn : n = 2 ^ s.swc.smpSize.toNat) (empty : s.swc.smpHead = s.swc.smpTail)
    (two : 2 ≤ n) (most : n ≤ 2 ^ 24) (head : s.swc.smpHead.toNat < n) (fits : s.swc.smpBase.toNat + 16 * n ≤ s.capacity) :
    (sampleSweep s).swc.lastSweep = k ∧ (sampleSweep s).swc.smpHead.toNat = (s.swc.smpHead.toNat + 1) % n ∧
    rdMem (sampleSweep s) (s.swc.smpBase.toNat + 16 * s.swc.smpHead.toNat) 16 = smpMarker (k * s.smpPeriodNs) := by
  have back := sampleNow_marker_rdMem (s := { s with swc.lastSweep := k }) (at_ := k * s.smpPeriodNs) bare hn empty two head fits
  rw [sampleSweep_due hk new on]
  refine ⟨?_, ?_, back⟩
  · rw [sampleNow_marker (s := { s with swc.lastSweep := k }) bare hn empty two head]
    rfl
  · rw [sampleNow_marker (s := { s with swc.lastSweep := k }) bare hn empty two head]
    exact Nat.mod_eq_of_lt (Nat.lt_of_lt_of_le (Nat.mod_lt _ (by omega)) most)

/-- A sweep that is skipped keeps the queues with their largest depths (log entry 40). -/
theorem sampleSweep_skip (full : s.smpFree < s.smpKeys.length + 1) :
    (sampleSweep s).swc = { s.swc with lastSweep := k, event := setBit s.swc.event 1 true } ∧ (sampleSweep s).ram = s.ram := by
  have skip := sampleNow_skip (s := { s with swc.lastSweep := k }) (at_ := k * s.smpPeriodNs) full
  rw [sampleSweep_due hk new on, skip]
  exact ⟨raiseSwc_swc 1, raiseSwc_kept.e_ram⟩

end

/-! ### What local time that passes leaves (R185) -/

section
variable (dt : Nat) (s : State)

@[simp] theorem elapse_swc : (elapse dt s).swc = s.swc := elapse_kept.e_swc
@[simp] theorem elapse_ram : (elapse dt s).ram = s.ram := elapse_kept.e_ram
@[simp] theorem elapse_ro (d : Nat) : (elapse dt s).ro d = s.ro d := by rw [State.ro, State.ro, elapse_swc]
@[simp] theorem elapse_roTmo : (elapse dt s).roTmo = s.roTmo := by rw [State.roTmo, State.roTmo, elapse_swc]
@[simp] theorem elapse_smpPeriodNs : (elapse dt s).smpPeriodNs = s.smpPeriodNs := by rw [State.smpPeriodNs, State.smpPeriodNs, elapse_swc]
@[simp] theorem elapse_capacity : (elapse dt s).capacity = s.capacity := by rw [State.capacity, State.capacity, elapse_kept.e_nv]
@[simp] theorem elapse_ports : (elapse dt s).ports = s.ports := by rw [State.ports, State.ports, elapse_kept.e_plt]
@[simp] theorem elapse_distPorts (d : Nat) : (elapse dt s).distPorts d = s.distPorts d := by rw [State.distPorts, State.distPorts, elapse_ports]
@[simp] theorem elapse_maxAge : (elapse dt s).maxAge = s.maxAge := by
  have limit : (elapse dt s).ageNs = s.ageNs := funext fun tc => by rw [State.ageNs, State.ageNs, State.cls, State.cls, elapse_kept.e_plt]
  rw [State.maxAge, State.maxAge, limit]

end

end

end Sys2Proof.Machine

section
open Sys2Proof Sys2Proof.Machine

/-- Settles O17: a sweep takes packets out of queues and puts none in, and purges each queue of the aged ones; a timeout hands its one packet on to a queue; the rest are filters and single writes of SWC, and a sweep of samples writes its marker or skips. -/
theorem switchUpkeepComplete : Obligations.SwitchUpkeepComplete := by
  refine ⟨fun dt d s hs => ⟨_, rfl, ?_, fun p hp tc htc it k hit hk => ?_⟩, fun dt d s => ⟨_, rfl, fun c => ?_, fun e he => ?_⟩,
    fun dt b k r s used idle home => ⟨_, rfl, ?_⟩,
    fun dt d c p q at_ s only held due kind start ha sched hup hd hr hm hs => ⟨_, rfl, ?_⟩,
    fun dt d s => ⟨_, rfl, fun c => ?_, fun e he => ?_⟩,
    fun dt k n s hk new on bare hn empty two most head fits => ⟨_, rfl, ?_⟩,
    fun dt k recs s hk new on hrecs full => ⟨_, rfl, ?_⟩,
    fun p port tc s ho => completes_owner rfl ho rfl⟩
  · have off := ((elapse_same dt s).plain hs).1
    rw [(queuesSwept_thinned off).sweepDistrict.clk, elapse_clk]
  · subst hk
    exact sweepDistrict_unaged ((elapse_same dt s).plain hs).1 (by rwa [elapse_distPorts]) htc hit
  · rw [releaseSpray_mem, elapse_maxAge, elapse_swc, elapse_clk]
  · rw [releaseSpray_others he, elapse_swc]
  · have elapsed := elapse_same dt s
    have reads := returnBucket_reads (s := elapse dt s) (by rwa [elapse_swc]) (by rwa [elapse_clk])
      (by rwa [elapsed.bundlePorts, elapsed.up])
    simp only [elapse_swc] at reads
    exact ⟨(reads _).trans (if_pos rfl), fun j hj => (reads j).trans (if_neg hj)⟩
  · rw [reorderTimeouts_one ((elapse_ro ..).trans only) held kind start (by rwa [elapse_roTmo, elapse_clk])]
    have same : SameSwitch s (setRo d.val [c.released p] (elapse dt s)) := (elapse_same dt s).trans (setRo_same _ _ _)
    rw [applyRo_port sched ((same.up q).trans hup) (by rwa [same.dist]) ((same.roomFor _ _ _).trans hr)
      ((setRo_aged ..).trans ha) (same.noMirrorEnd hm)]
    have written : Written q p _ (writeQueue q p (setRo d.val [c.released p] (elapse dt s))) := writeQueue_written (same.plain hs)
    exact ⟨⟨c.released p, (written.ro _).trans (setRo_ro_self _), rfl, rfl⟩, written.joins_of_same same⟩
  · rw [retireReorder_mem, elapse_ro, elapse_clk]
  · rw [retireReorder, setRo_ro_of_ne _ he, elapse_ro]
  · have marker := sampleSweep_marker (s := elapse dt s) (k := k) (by rwa [elapse_smpPeriodNs]) (by rwa [elapse_swc]) (by rwa [elapse_swc])
      ((elapse_ports ..).trans bare) (by rwa [elapse_swc]) (by rwa [elapse_swc]) two most (by rwa [elapse_swc])
      (by rwa [elapse_swc, elapse_capacity])
    rwa [elapse_swc, elapse_smpPeriodNs] at marker
  · have short : (elapse dt s).smpFree < (elapse dt s).smpKeys.length + 1 := by
      simp only [State.smpFree, State.smpKeys, State.queue, elapse_swc, elapse_ports]
      rw [hrecs] at full
      exact full
    obtain ⟨swc, ram⟩ := sampleSweep_skip (k := k) (by rwa [elapse_smpPeriodNs]) (by rwa [elapse_swc]) (by rwa [elapse_swc]) short
    rw [elapse_swc] at swc
    exact ⟨by rw [swc], by rw [swc], by rw [swc], by rw [swc], ram.trans (elapse_ram ..)⟩

end

/-! SUPPORT. The time base (R185 to R188, R193, R202): what the operations that TIME_IN, the Block ring and the timetables share leave in TMB. Each theorem is checked where it stands (Elab.async off): waiting for the files before, many at once would each hold a thread's memory. -/
namespace Sys2Proof.Machine
open Sys2Proof
set_option Elab.async false

/-! ### What local time that passes leaves in TMB (R185, R205) -/

/-- Of TMB, time that passes changes the time base, what is owed of a correction, and the counts of the congestion map. -/
theorem elapse_tmb (dt : Nat) (s : State) :
    ∃ tb owed mapCnt, (elapse dt s).tmb = { s.tmb with tb := tb, owed := owed, mapCnt := mapCnt } := by
  have before : (ppsOuts dt (topDown dt s)).tmb = s.tmb := by rw [ppsOuts_kept.e_tmb, topDown_kept.e_tmb]
  have counted : ∃ mapCnt, (forEach (ppsOuts dt (topDown dt s)).heldPorts (fun p => modMap p (fun m => { m with heldNs := m.heldNs + dt }))
      (ppsOuts dt (topDown dt s))).tmb = { s.tmb with mapCnt := mapCnt } := by
    refine forEach_invariant (P := fun t => ∃ mapCnt, t.tmb = { s.tmb with mapCnt := mapCnt }) (fun p _ t ⟨m, h⟩ => ?_) ⟨s.tmb.mapCnt, before⟩
    exact ⟨_, by rw [modMap, h]⟩
  obtain ⟨mapCnt, h⟩ := counted
  exact ⟨_, _, mapCnt, by rw [elapse, h]⟩

section
variable (dt : Nat) (s : State)

@[simp] theorem elapse_lock : (elapse dt s).tmb.lock = s.tmb.lock := by obtain ⟨_, _, _, h⟩ := elapse_tmb dt s; rw [h]
@[simp] theorem elapse_good : (elapse dt s).tmb.good = s.tmb.good := by obtain ⟨_, _, _, h⟩ := elapse_tmb dt s; rw [h]
@[simp] theorem elapse_holdSince : (elapse dt s).tmb.holdSince = s.tmb.holdSince := by obtain ⟨_, _, _, h⟩ := elapse_tmb dt s; rw [h]
@[simp] theorem elapse_holdLimit : (elapse dt s).tmb.holdLimit = s.tmb.holdLimit := by obtain ⟨_, _, _, h⟩ := elapse_tmb dt s; rw [h]
@[simp] theorem elapse_stepAt : (elapse dt s).tmb.stepAt = s.tmb.stepAt := by obtain ⟨_, _, _, h⟩ := elapse_tmb dt s; rw [h]
@[simp] theorem elapse_todNext : (elapse dt s).tmb.todNext = s.tmb.todNext := by obtain ⟨_, _, _, h⟩ := elapse_tmb dt s; rw [h]
@[simp] theorem elapse_ppsAt : (elapse dt s).tmb.ppsAt = s.tmb.ppsAt := by obtain ⟨_, _, _, h⟩ := elapse_tmb dt s; rw [h]
@[simp] theorem elapse_toutNext : (elapse dt s).tmb.toutNext = s.tmb.toutNext := by obtain ⟨_, _, _, h⟩ := elapse_tmb dt s; rw [h]
@[simp] theorem elapse_admOn : (elapse dt s).tmb.admOn = s.tmb.admOn := by obtain ⟨_, _, _, h⟩ := elapse_tmb dt s; rw [h]
@[simp] theorem elapse_event : (elapse dt s).tmb.event = s.tmb.event := by obtain ⟨_, _, _, h⟩ := elapse_tmb dt s; rw [h]
@[simp] theorem elapse_active : (elapse dt s).tmb.active = s.tmb.active := by obtain ⟨_, _, _, h⟩ := elapse_tmb dt s; rw [h]
@[simp] theorem elapse_plt : (elapse dt s).plt = s.plt := elapse_kept.e_plt
@[simp] theorem elapse_glb : (elapse dt s).glb = s.glb := elapse_kept.e_glb
@[simp] theorem elapse_nv : (elapse dt s).nv = s.nv := elapse_kept.e_nv
@[simp] theorem elapse_svc : (elapse dt s).svc = s.svc := elapse_kept.e_svc
@[simp] theorem elapse_onTimeIn : (elapse dt s).onTimeIn = s.onTimeIn := by rw [State.onTimeIn, State.onTimeIn, elapse_plt]
@[simp] theorem elapse_svcLane (n : Nat) : (elapse dt s).svcLane n = s.svcLane n := by rw [State.svcLane, State.svcLane, elapse_svc]

end

/-- A command whose next state is known. -/
theorem completes_next {i : Instr} {s t : State} {P : State → Prop} (run : exec i s = .next t) (h : P t) : Completes i s P := ⟨t, run, h⟩

/-! ### Events, ADMIT and HOLDOVER (R186, R202) -/

section
variable {s : State}

/-- The event is set, whether or not it stood before, and nothing else of TMB changes. -/
theorem raiseTmb_tmb (i : Nat) : (raiseTmb i s).tmb = { s.tmb with event := setBit s.tmb.event i true } := by
  rw [raiseTmb]
  split
  · next h => rw [setBit_true_of_set h]
  · rw [fire_kept.e_tmb]

/-- ADMIT is taken as it now stands, and its fall is an event. -/
theorem settleAdmit_tmb : (settleAdmit s).tmb =
    { s.tmb with admOn := s.admitOn, event := if s.tmb.admOn && !s.admitOn then setBit s.tmb.event 2 true else s.tmb.event } := by
  rw [settleAdmit]
  split
  · rw [raiseTmb_tmb]
  · rfl

/-- Where ADMIT is 0, LOCK stays, and ADMITOFF is set if ADMIT stood at 1 before. -/
theorem settleAdmit_off (h : s.admitOn = false) : (settleAdmit s).tmb.admOn = false ∧ (settleAdmit s).tmb.lock = s.tmb.lock ∧
    (s.tmb.admOn = true → (settleAdmit s).tmb.event.getLsbD 2 = true) := by
  rw [settleAdmit_tmb, h]
  refine ⟨rfl, rfl, fun stood => ?_⟩
  dsimp only
  rw [stood]
  exact getLsbD_setBit_self _ (by decide)

/-- No event is taken back where ADMIT is settled. -/
theorem settleAdmit_event_le {i : Nat} (h : s.tmb.event.getLsbD i = true) : (settleAdmit s).tmb.event.getLsbD i = true := by
  rw [settleAdmit_tmb]
  dsimp only
  split
  · exact setBit_true_le _ 2 h
  · exact h

/-- For 1 ms after a step ADMIT is 0 (R193, R202). -/
theorem admitOn_stepped {a : Nat} (h : s.tmb.stepAt = some a) (recent : s.clk - a < 1000000) : s.admitOn = false := by
  have wait : decide (1000000 ≤ s.clk - a) = false := decide_eq_false (by omega)
  rw [State.admitOn, h]
  dsimp only
  rw [wait, Bool.and_false]
/-- In HOLDOVER, past its limit, ADMIT is 0 (R186, R202). -/
theorem admitOn_holdover_over (h : s.tmb.lock = .holdover) (passed : s.tmb.holdLimit.toNat * 1000 < s.clk - s.tmb.holdSince) : s.admitOn = false := by
  have late : decide (s.clk - s.tmb.holdSince ≤ s.tmb.holdLimit.toNat * 1000) = false := decide_eq_false (by omega)
  rw [State.admitOn, h, late]
  simp
/-- While LOCKED with a timetable ACTIVE and the last step 1 ms ago, ADMIT is 1 (R202). -/
theorem admitOn_locked {a : Nat} (h : s.tmb.lock = .locked) (image : s.tmb.active.isSome = true) (source : s.plt.plat.time.source ≠ 2)
    (step : s.tmb.stepAt = some a) (past : 1000000 ≤ s.clk - a) : s.admitOn = true := by
  rw [State.admitOn, h, image, step, bne_iff_ne.mpr source]
  simpa using past

/-- What the loss of the source does (R186): the good samples no longer count, and a LOCKED time base enters HOLDOVER. -/
theorem enterHoldover_reads (s : State) : (enterHoldover s).tmb.good = 0 ∧ (enterHoldover s).tmb.tb = s.tmb.tb ∧
    (s.tmb.lock = .locked → (enterHoldover s).tmb.lock = .holdover ∧ (enterHoldover s).tmb.holdSince = s.clk ∧
      (enterHoldover s).tmb.event.getLsbD 1 = true) ∧
    (s.tmb.lock ≠ .locked → (enterHoldover s).tmb.lock = s.tmb.lock) := by
  by_cases h : s.tmb.lock = .locked
  · have entered : enterHoldover s = settleAdmit (raiseTmb 1 { s with tmb := { s.tmb with good := 0, lock := .holdover, holdSince := s.clk } }) := by
      simp only [enterHoldover, h, beq_self_eq_true, if_true]
    have held : (enterHoldover s).tmb.event.getLsbD 1 = true := by
      rw [entered]
      refine settleAdmit_event_le ?_
      rw [raiseTmb_tmb]
      exact getLsbD_setBit_self _ (by decide)
    refine ⟨?_, ?_, fun _ => ⟨?_, ?_, held⟩, fun other => absurd h other⟩ <;> rw [entered, settleAdmit_tmb, raiseTmb_tmb]
  · have stays : enterHoldover s = { s with tmb.good := 0 } := by
      simp only [enterHoldover, beq_false_of_ne h, Bool.false_eq_true, if_false]
    rw [stays]
    exact ⟨rfl, rfl, fun locked => absurd locked h, fun _ => rfl⟩

/-! ### Samples, slews and steps (R186, R193) -/

/-- Consecutive samples within 1 ns, after one more. -/
def State.goodAfter (s : State) (o : Int) : Nat := if o.natAbs ≤ 65536 then s.tmb.good + 1 else 0
/-- LOCK after one more sample where `need` good ones in a row lock: the first sample begins to acquire. -/
def State.lockAfter (s : State) (o : Int) (need : Nat) : LockState :=
  if need ≤ s.goodAfter o then .locked else if s.tmb.lock = .free then .acquiring else s.tmb.lock

theorem lockSample_tmb (o : Int) (need : Nat) : (lockSample o need s).tmb =
    { s.tmb with good := s.goodAfter o, lock := if need ≤ s.goodAfter o then .locked else s.tmb.lock } := by
  have counted : lockSample o need s = if need ≤ s.goodAfter o then { s with tmb := { s.tmb with good := s.goodAfter o, lock := .locked } }
    else { s with tmb.good := s.goodAfter o } := rfl
  rw [counted]
  split <;> rfl

/-- What a sample leaves of TMB: the count of good ones and LOCK move on, ADMIT and BLK are settled, and the rest is as before. -/
theorem sample_tmb (o : Int) (need : Nat) (s : State) : ∃ adm event blk, (sample o need s).tmb =
    { s.tmb with good := s.goodAfter o, lock := s.lockAfter o need, admOn := adm, event := event, blk := blk } := by
  have settled : ∀ t : State, ∃ adm event blk, (settleBlk (settleAdmit t)).tmb = { t.tmb with admOn := adm, event := event, blk := blk } :=
    fun t => ⟨_, _, _, by rw [settleBlk, settleAdmit_tmb]⟩
  obtain ⟨adm, event, blk, h⟩ := settled (lockSample o need (if s.tmb.lock == .free then { s with tmb.lock := .acquiring } else s))
  refine ⟨adm, event, blk, ?_⟩
  rw [sample, h, lockSample_tmb, State.lockAfter]
  by_cases free : s.tmb.lock = .free
  · rw [if_pos (beq_iff_eq.mpr free), if_pos free]
    rfl
  · rw [if_neg (fun h => free (beq_iff_eq.mp h)), if_neg free]

/-- Set forward or back by its offset to an instant, the time base stands at that instant. -/
theorem shiftTime_to (n : Nat) (s : State) : shiftTime ((n : Int) - (s.tmb.tb : Int)) s = { s with tmb.tb := n } := by
  rw [shiftTime, show (s.tmb.tb : Int) + ((n : Int) - (s.tmb.tb : Int)) = (n : Int) by omega]
  rfl

/-- A lease is no concern of a device that is neither IN_SERVICE nor QUIESCED (R353, R355). -/
theorem checkLease_idle (h1 : s.glb.state ≠ .inService) (h2 : s.glb.state ≠ .quiesced) : checkLease s = s := by
  rw [checkLease]
  split
  · rw [selfCordon, bne_iff_ne.mpr h1, bne_iff_ne.mpr h2]
    rfl
  · rfl

/-! ### TIME_IN (R187) -/

/-- A message of one TYPE that an aligned lane hears reaches its user. -/
theorem onMessage_hears {n : Nat} {codes : List Code} {type seq : Byte} {msg : List Byte} {f : SvcMsg → State → State}
    (h : Hears s n codes type seq msg) : onMessage n type codes f s = f ⟨type, seq, msg⟩ (s.modSvc n (fun v => codes.foldl Svc.takeChar v)) := by
  obtain ⟨aligned, heard⟩ := h
  have on : ((s.svcLane n).st != .aligned) = false := by rw [aligned]; rfl
  rw [onMessage, svcMessage, on, heard, if_neg Bool.false_ne_true]
  dsimp only
  rw [if_pos (beq_self_eq_true type)]

/-- A time-of-day message on TOD_LANE names the next edge where it is valid. -/
theorem takeTod_tmb {lane : Nat} {msg : List Byte} (on : s.onTimeIn = true) (named : lane = s.plt.plat.time.todLane.toNat) :
    (takeTod lane msg s).tmb = if bitAt (u8At msg 8) 0 then { s.tmb with todNext := some (BitVec.ofNat 64 (u64At msg 0), s.clk) } else s.tmb := by
  rw [takeTod, on, beq_iff_eq.mpr named, Bool.true_and, Bool.true_and]
  split <;> rfl

/-- The state in which an edge is judged: it is the last edge, and the instant named for it is used up. -/
def edgeTaken (s : State) : State := { s with tmb := { s.tmb with ppsAt := some s.clk, todNext := none } }
/-- The same, with the offset that the edge shows. -/
def edgeOff (o : Int) (s : State) : State := { (edgeTaken s) with tmb.offset := offsetPs o }
/-- The state after the edge that steps the time base to its named instant, before ADMIT is settled. -/
def edgeStepped (n : DWord) (s : State) : State :=
  { s with tmb := { s.tmb with tb := n.toNat * 65536, ppsAt := some s.clk, todNext := none, lock := .acquiring, good := 0, stepped := true } }
/-- An edge whose offset is taken out by the rate, as a sample of the source. -/
def edgeSampled (o : Int) (s : State) : State := sample o 3 (slewTime o (edgeOff o s))

section
variable {n : DWord} {a : Nat} (on : s.onTimeIn = true)
include on

section
variable (named : s.tmb.todNext = some (n, a)) (early : 10 ^ 8 ≤ s.clk - a)
include named early

/-- The first named edge steps the time base; what becomes of a lease then is no concern before the device is IN_SERVICE. -/
theorem ppsEdge_first (free : s.tmb.lock = .free) (h1 : s.glb.state ≠ .inService) (h2 : s.glb.state ≠ .quiesced) :
    ppsEdge s = settleAdmit (edgeStepped n s) := by
  have stepped : ppsEdge s = checkLease (settleAdmit
      { (shiftTime (((n.toNat * 65536 : Nat) : Int) - ((edgeTaken s).tmb.tb : Int)) (edgeTaken s)) with tmb.lock := .acquiring, tmb.good := 0, tmb.stepped := true }) := by
    simp only [ppsEdge, on, named, early, free, if_true, Bool.not_true, Bool.false_eq_true, if_false, beq_self_eq_true]
    rfl
  rw [stepped, shiftTime_to, checkLease_idle]
  · rfl
  · rw [settleAdmit_kept.e_glb]
    exact h1
  · rw [settleAdmit_kept.e_glb]
    exact h2

/-- A named edge more than 1 µs away is the loss of the source (R187). -/
theorem ppsEdge_far (locked : s.tmb.lock = .locked) (far : 65536 * 1000 < (((n.toNat * 65536 : Nat) : Int) - (s.tmb.tb : Int)).natAbs) :
    (ppsEdge s).tmb.tb = s.tmb.tb ∧ (ppsEdge s).tmb.lock = .holdover ∧ (ppsEdge s).tmb.holdSince = s.clk ∧ (ppsEdge s).tmb.event.getLsbD 1 = true := by
  have lost : ppsEdge s = enterHoldover (edgeOff (((n.toNat * 65536 : Nat) : Int) - (s.tmb.tb : Int)) s) := by
    have held : (s.tmb.lock == .free) = false := by rw [locked]; rfl
    simp only [ppsEdge, on, named, early, held, far, if_true, Bool.not_true, Bool.false_eq_true, if_false]
    rfl
  obtain ⟨-, tb, entered, -⟩ := enterHoldover_reads (edgeOff (((n.toNat * 65536 : Nat) : Int) - (s.tmb.tb : Int)) s)
  rw [lost]
  exact ⟨tb, entered locked⟩

/-- A nearer one is a sample. -/
theorem ppsEdge_named {o : Int} (held : s.tmb.lock ≠ .free) (ho : o = ((n.toNat * 65536 : Nat) : Int) - (s.tmb.tb : Int)) (near : o.natAbs ≤ 65536) :
    ppsEdge s = edgeSampled o s := by
  subst ho
  have close : ¬ 65536 * 1000 < (((n.toNat * 65536 : Nat) : Int) - (s.tmb.tb : Int)).natAbs := by omega
  simp only [ppsEdge, on, named, early, beq_false_of_ne held, close, if_true, Bool.not_true, Bool.false_eq_true, if_false]
  rfl

end

/-- An edge without a name is a sample of the nearest whole second (log entry 58). -/
theorem ppsEdge_unnamed (none : s.tmb.todNext = none) (held : s.tmb.lock ≠ .free) : ppsEdge s = edgeSampled (secondOffset s.tmb.tb) s := by
  simp only [ppsEdge, on, none, beq_false_of_ne held, Bool.not_true, Bool.false_eq_true, if_false]
  rfl

end

/-- A good sample never steps: the correction is owed, and the third in a row locks (R186, R187). -/
theorem edgeSampled_reads {o : Int} (held : s.tmb.lock ≠ .free) (near : o.natAbs ≤ 65536) :
    (edgeSampled o s).tmb.tb = s.tmb.tb ∧ (edgeSampled o s).tmb.owed = o ∧ (edgeSampled o s).tmb.good = s.tmb.good + 1 ∧
    (edgeSampled o s).tmb.offset = offsetPs o ∧ (edgeSampled o s).tmb.lock = if 2 ≤ s.tmb.good then .locked else s.tmb.lock := by
  obtain ⟨adm, event, blk, h⟩ := sample_tmb o 3 (slewTime o (edgeOff o s))
  have good : (slewTime o (edgeOff o s)).goodAfter o = s.tmb.good + 1 := if_pos near
  rw [edgeSampled, h]
  refine ⟨rfl, rfl, good, rfl, ?_⟩
  change State.lockAfter _ o 3 = _
  rw [State.lockAfter, good]
  by_cases enough : 2 ≤ s.tmb.good
  · rw [if_pos enough, if_pos (by omega)]
  · rw [if_neg enough, if_neg (by omega)]
    exact if_neg held

/-- TIME_IN is lost where 1.1 s pass without an edge. -/
theorem ppsMissing_eq {a : Nat} (on : s.onTimeIn = true) (last : s.tmb.ppsAt = some a) :
    ppsMissing s = if 1100000000 ≤ s.clk - a then enterHoldover s else s := by
  simp only [ppsMissing, last, on, Bool.true_and, decide_eq_true_eq]

/-- A message sent is the next emission, with the SEQ that the lane counts (R122). -/
theorem sendSvc_out (lane type : Nat) (payload : List Byte) (marked : Bool) (s : State) : ∃ m,
    (sendSvc lane type payload marked s).out = m :: s.out ∧ Carries lane type (s.svcLane lane).txSeq payload marked m :=
  ⟨_, rfl, _, rfl⟩
theorem sendK281_out (lane at_ : Nat) (s : State) : ∃ rd, (sendK281 lane at_ s).out = .k281 lane at_ (encode10 rd .marker).1 :: s.out := ⟨_, rfl⟩

/-- The whole second announced next on TOUT_LANE goes out as a message with its mark behind it (R188). -/
theorem todOut_sends {x n : Nat} (hx : x = s.plt.plat.time.toutLane.toNat) (built : x ≠ 255) (hn : n = alignUp (s.now + 10 ^ 8) (10 ^ 9))
    (new : n ≠ s.tmb.toutNext) : (todOut s).tmb.toutNext = n ∧ ∃ rd m, (todOut s).out = .k281 x n (encode10 rd .marker).1 :: m :: s.out ∧
      Carries x 0x01 (s.svcLane x).txSeq (toLE 8 n ++ toLE 1 (b2n (s.tmb.lock == .locked || s.tmb.lock == .holdover)) ++ zeros 7) false m := by
  have sent : todOut s = sendK281 x n (sendSvc x 0x01
      (toLE 8 n ++ toLE 1 (b2n (s.tmb.lock == .locked || s.tmb.lock == .holdover)) ++ zeros 7) false { s with tmb.toutNext := n }) := by
    subst hx hn
    simp only [todOut, beq_false_of_ne built, beq_false_of_ne new, Bool.or_self, Bool.false_eq_true, if_false]
  obtain ⟨m, message, carried⟩ := sendSvc_out x 0x01
    (toLE 8 n ++ toLE 1 (b2n (s.tmb.lock == .locked || s.tmb.lock == .holdover)) ++ zeros 7) false { s with tmb.toutNext := n }
  obtain ⟨rd, mark⟩ := sendK281_out x n (sendSvc x 0x01
    (toLE 8 n ++ toLE 1 (b2n (s.tmb.lock == .locked || s.tmb.lock == .holdover)) ++ zeros 7) false { s with tmb.toutNext := n })
  rw [sent]
  exact ⟨by rw [sendK281_kept.e_tmb, sendSvc_tmb], rd, m, by rw [mark, message], carried⟩

end

end Sys2Proof.Machine

section
open Sys2Proof Sys2Proof.Machine
set_option Elab.async false

/-- Settles O47: an edge steps the time base, is a sample, or is the source's loss; ADMIT stands as LOCK, the holdover limit and the last step give it. -/
theorem timeInputsComplete : Obligations.TimeInputsComplete := by
  refine ⟨fun l codes seq b s heard on lane => ?_, fun dt n a u s hu on named early free idle1 idle2 => ?_,
    fun dt n a u s hu on named early locked far => ?_, fun dt n a o u s hu on named early held ho near => ?_,
    fun dt o u s hu on none held ho near => ?_, fun s on => ?_, fun dt a s on last locked => ?_,
    fun dt n x u s hu hx built hn new => ?_, fun dt s held passed => ?_, fun dt a s locked image source step past => ?_,
    fun dt s ⟨a, step, recent⟩ => ?_⟩
  · refine completes_next (congrArg Host.Outcome.next (onMessage_hears heard)) ?_
    exact takeTod_tmb on lane
  · subst hu
    have first := ppsEdge_first (s := elapse dt s) (by simpa using on) (by simpa using named) (by simpa using early) (by simpa using free)
      (by simpa using idle1) (by simpa using idle2)
    refine completes_next (congrArg Host.Outcome.next first) ?_
    rw [settleAdmit_tmb]
    exact ⟨rfl, rfl, rfl, rfl, congrArg some (elapse_clk dt s)⟩
  · subst hu
    have lost := ppsEdge_far (s := elapse dt s) (by simpa using on) (by simpa using named) (by simpa using early) (by simpa using locked) far
    rw [elapse_clk] at lost
    exact completes_next rfl lost
  · subst hu
    have sampled := ppsEdge_named (s := elapse dt s) (by simpa using on) (by simpa using named) (by simpa using early) (by simpa using held) ho near
    have reads := edgeSampled_reads (s := elapse dt s) (by simpa using held) near
    rw [elapse_good, elapse_lock] at reads
    exact completes_next (congrArg Host.Outcome.next sampled) reads
  · subst hu ho
    have sampled := ppsEdge_unnamed (s := elapse dt s) (by simpa using on) (by simpa using none) (by simpa using held)
    have reads := edgeSampled_reads (s := elapse dt s) (by simpa using held) near
    rw [elapse_good, elapse_lock] at reads
    exact completes_next (congrArg Host.Outcome.next sampled) reads
  · exact ⟨_, congrArg Host.Outcome.next (if_pos on), enterHoldover_reads s⟩
  · refine ⟨_, congrArg Host.Outcome.next (ppsMissing_eq (by simpa using on) ((elapse_ppsAt dt s).trans last)), fun late => ?_, fun soon => ?_⟩
    · rw [if_pos (by rwa [elapse_clk])]
      obtain ⟨-, -, entered, -⟩ := enterHoldover_reads (elapse dt s)
      rw [elapse_clk] at entered
      exact entered ((elapse_lock dt s).trans locked)
    · exact if_neg (by rw [elapse_clk]; omega)
  · subst hu
    have sends := todOut_sends (s := elapse dt s) (by simpa using hx) built hn (by simpa using new)
    rw [elapse_lock, elapse_svcLane] at sends
    exact completes_next rfl sends
  · have fallen := settleAdmit_off (s := elapse dt s) (admitOn_holdover_over (by simpa using held) (by simpa using passed))
    rw [elapse_lock, elapse_admOn] at fallen
    obtain ⟨off, lock, event⟩ := fallen
    exact completes_next rfl ⟨off, lock.trans held, event⟩
  · have stands : (elapse dt s).admitOn = true := admitOn_locked (a := a) (by simpa using locked) (by simpa using image) (by simpa using source)
      (by simpa using step) (by simpa using past)
    refine completes_next rfl ?_
    rw [settleAdmit_tmb, stands]
    exact ⟨rfl, by simp⟩
  · obtain ⟨off, -⟩ := settleAdmit_off (s := elapse dt s) (admitOn_stepped (by simpa using step) (by simpa using recent))
    exact completes_next rfl off

end

/-! SUPPORT. The Block ring (R189 to R195): what a message heard on a ring lane, a message sent and time alone leave in TMB and on the ring. Each theorem is checked where it stands (Elab.async off): waiting for the files before, many at once would each hold a thread's memory. -/
namespace Sys2Proof.Machine
open Sys2Proof
set_option Elab.async false

/-! ### What time that passes leaves of a member of the Block -/

section
variable (dt : Nat) (s : State)

@[simp] theorem elapse_master : (elapse dt s).tmb.master = s.tmb.master := by obtain ⟨_, _, _, h⟩ := elapse_tmb dt s; rw [h]
@[simp] theorem elapse_term : (elapse dt s).tmb.term = s.tmb.term := by obtain ⟨_, _, _, h⟩ := elapse_tmb dt s; rw [h]
@[simp] theorem elapse_topTerm : (elapse dt s).tmb.topTerm = s.tmb.topTerm := by obtain ⟨_, _, _, h⟩ := elapse_tmb dt s; rw [h]
@[simp] theorem elapse_rtt : (elapse dt s).tmb.rtt = s.tmb.rtt := by obtain ⟨_, _, _, h⟩ := elapse_tmb dt s; rw [h]
@[simp] theorem elapse_electing : (elapse dt s).tmb.electing = s.tmb.electing := by obtain ⟨_, _, _, h⟩ := elapse_tmb dt s; rw [h]
@[simp] theorem elapse_probeAt : (elapse dt s).tmb.probeAt = s.tmb.probeAt := by obtain ⟨_, _, _, h⟩ := elapse_tmb dt s; rw [h]
@[simp] theorem elapse_inBlock : (elapse dt s).inBlock = s.inBlock := by rw [State.inBlock, State.inBlock, elapse_plt]
@[simp] theorem elapse_candidate : (elapse dt s).candidate = s.candidate := by rw [State.candidate, State.candidate, elapse_plt]
@[simp] theorem elapse_ringLane (west : Bool) : (elapse dt s).ringLane west = s.ringLane west := by rw [State.ringLane, State.ringLane, elapse_plt]
@[simp] theorem elapse_ringHead (hops : Nat) : ringHead (elapse dt s) hops = ringHead s hops := by rw [ringHead, ringHead, elapse_plt, elapse_term]
@[simp] theorem elapse_electBody : electBody (elapse dt s) = electBody s := by
  rw [electBody, electBody, State.timeInLocked, State.timeInLocked, elapse_plt, elapse_lock, elapse_nv]

end

/-! ### Messages sent on the ring (R189, R192) -/

section
variable {s : State}

theorem sendMarked_member (member : s.inBlock = true) (west : Bool) (type : Nat) (body : List Byte) (hops : Nat) :
    sendMarked west type body hops s = sendSvc (s.ringLane west) type (ringHead s hops ++ body) true s := if_pos member
theorem sendRing_member (member : s.inBlock = true) (west : Bool) (type : Nat) (payload : List Byte) :
    sendRing west type payload s = sendSvc (s.ringLane west) type payload false s := if_pos member

theorem sendMarked_out (member : s.inBlock = true) (west : Bool) (type : Nat) (body : List Byte) : ∃ m,
    (sendMarked west type body 0 s).out = m :: s.out ∧
      Carries (s.ringLane west) type (s.svcLane (s.ringLane west)).txSeq (ringHead s 0 ++ body) true m := by
  rw [sendMarked_member member]
  exact sendSvc_out ..

theorem sendRing_out (member : s.inBlock = true) (west : Bool) (type : Nat) (payload : List Byte) : ∃ m,
    (sendRing west type payload s).out = m :: s.out ∧ Carries (s.ringLane west) type (s.svcLane (s.ringLane west)).txSeq payload false m := by
  rw [sendRing_member member]
  exact sendSvc_out ..

theorem sendSvc_inBlock (lane type : Nat) (payload : List Byte) (marked : Bool) (s : State) : (sendSvc lane type payload marked s).inBlock = s.inBlock := by
  rw [State.inBlock, State.inBlock, sendSvc_plt]
theorem sendSvc_ringLane (lane type : Nat) (payload : List Byte) (marked : Bool) (s : State) (west : Bool) :
    (sendSvc lane type payload marked s).ringLane west = s.ringLane west := by
  rw [State.ringLane, State.ringLane, sendSvc_plt]
theorem sendSvc_ringHead (lane type : Nat) (payload : List Byte) (marked : Bool) (s : State) (hops : Nat) :
    ringHead (sendSvc lane type payload marked s) hops = ringHead s hops := by
  rw [ringHead, ringHead, sendSvc_plt, sendSvc_tmb]

/-- Of two messages sent one after the other, one on each ring lane, each is among the emissions. -/
theorem sendSvc_both (type : Nat) (payload : List Byte) (marked : Bool) (s : State) (west : Bool) : ∃ q m,
    m ∈ (sendSvc (s.ringLane true) type payload marked (sendSvc (s.ringLane false) type payload marked s)).out ∧
      Carries (s.ringLane west) type q payload marked m := by
  obtain ⟨m, first, carried⟩ := sendSvc_out (s.ringLane false) type payload marked s
  obtain ⟨m', second, carried'⟩ := sendSvc_out (s.ringLane true) type payload marked (sendSvc (s.ringLane false) type payload marked s)
  cases west with
  | false => exact ⟨_, m, by rw [second, first]; exact List.mem_cons_of_mem _ List.mem_cons_self, carried⟩
  | true => exact ⟨_, m', by rw [second]; exact List.mem_cons_self, carried'⟩

theorem sendBoth_out (member : s.inBlock = true) (type : Nat) (body : List Byte) (west : Bool) : ∃ q m,
    m ∈ (sendBoth type body s).out ∧ Carries (s.ringLane west) type q (ringHead s 0 ++ body) false m := by
  rw [sendBoth, sendRing_member member, sendRing_member ((sendSvc_inBlock ..).trans member), sendSvc_ringLane]
  exact sendSvc_both ..

/-- The master's state as it sends SYNC: a master of SOURCE 0 is its own source, with offset 0. -/
def selfSampled (s : State) : State := if s.plt.plat.time.source == 0 then sample 0 16 s else s
theorem selfSampled_reads (s : State) : (selfSampled s).tmb.tb = s.tmb.tb ∧ (selfSampled s).tmb.term = s.tmb.term ∧ (selfSampled s).plt = s.plt := by
  rw [selfSampled]
  split
  · obtain ⟨adm, event, blk, h⟩ := sample_tmb 0 16 s
    rw [h]
    exact ⟨rfl, rfl, sample_kept.e_plt⟩
  · exact ⟨rfl, rfl, rfl⟩

/-- The master's SYNC goes out on both lanes, and leaves its time base as it is (R192). -/
theorem syncSend_sends (member : s.inBlock = true) (master : s.tmb.master = true) : (syncSend s).tmb.tb = s.tmb.tb ∧
    ∀ west, ∃ q m, m ∈ (syncSend s).out ∧ Carries (s.ringLane west) 0x02 q (ringHead s 0 ++ toLE 8 s.now) true m := by
  obtain ⟨tb, term, plt⟩ := selfSampled_reads s
  have sent : syncSend s = sendMarked true 0x02 (toLE 8 (selfSampled s).now) 0 (sendMarked false 0x02 (toLE 8 (selfSampled s).now) 0 (selfSampled s)) := by
    rw [syncSend, master]
    rfl
  have joined : (selfSampled s).inBlock = true := by rw [State.inBlock, plt]; exact member
  have now : (selfSampled s).now = s.now := by rw [State.now, State.now, tb]
  have head : ringHead (selfSampled s) 0 = ringHead s 0 := by rw [ringHead, ringHead, term, plt]
  have lane : ∀ west, (selfSampled s).ringLane west = s.ringLane west := fun west => by rw [State.ringLane, State.ringLane, plt]
  rw [sent, sendMarked_member joined, sendMarked_member ((sendSvc_inBlock ..).trans joined), sendSvc_ringLane, sendSvc_ringHead, now, head]
  refine ⟨tb, fun west => ?_⟩
  rw [← lane west]
  exact sendSvc_both 0x02 (ringHead s 0 ++ toLE 8 s.now) true (selfSampled s) west

/-- A ring lane after a change of its record. -/
theorem setRing_ring_self (lane : Fin 2) (r : RingLane) (s : State) : (s.setRing lane r).ring lane = r := by
  unfold State.setRing State.ring
  cases isWest lane <;> rfl
theorem setRing_kept (lane : Fin 2) (r : RingLane) (s : State) : Kept [.tmb] s (s.setRing lane r) := by
  unfold State.setRing
  split <;> exact Kept.put_tmb (by decide) rfl (Kept.refl s)
theorem ring_of_tmb {t : State} (lane : Fin 2) (h : t.tmb = s.tmb) : t.ring lane = s.ring lane := by rw [State.ring, State.ring, h]

/-- DELAY_REQ goes out with the instant that the lane keeps as T1 (R192). -/
theorem delayReqSend_sends (member : s.inBlock = true) (lane : Fin 2) : ((delayReqSend lane s).ring lane).t1 = BitVec.ofNat 64 s.now ∧
    ∃ m, (delayReqSend lane s).out = m :: s.out ∧ Carries (s.ringLane (isWest lane)) 0x03 (s.svcLane (s.ringLane (isWest lane))).txSeq
      (ringHead s 0 ++ toLE 8 s.now) true m := by
  have marked : ∃ u : State, u.plt = s.plt ∧ u.svc = s.svc ∧ u.out = s.out ∧ u.tmb.term = s.tmb.term ∧ (u.ring lane).t1 = BitVec.ofNat 64 s.now ∧
      delayReqSend lane s = sendMarked (isWest lane) 0x03 (toLE 8 s.now) 0 u := by
    refine ⟨s.setRing lane { s.ring lane with t1 := BitVec.ofNat 64 s.now }, (setRing_kept ..).e_plt, (setRing_kept ..).e_svc, (setRing_kept ..).e_out, ?_, ?_, ?_⟩
    · unfold State.setRing
      split <;> rfl
    · rw [setRing_ring_self]
    · rw [delayReqSend, member]
      rfl
  obtain ⟨u, plt, svc, out, term, t1, sent⟩ := marked
  obtain ⟨m, sent', carried⟩ := sendMarked_out (s := u) (by rw [State.inBlock, plt]; exact member) (isWest lane) 0x03 (toLE 8 s.now)
  rw [State.svcLane, svc, State.ringLane, plt, ringHead, plt, term] at carried
  rw [sent]
  exact ⟨by rw [ring_of_tmb lane sendMarked_kept.e_tmb, t1], m, by rw [sent', out], carried⟩

/-- The master's PROBE goes out EAST, and is outstanding (R191). -/
theorem probeSend_sends (member : s.inBlock = true) (master : s.tmb.master = true) : (probeSend s).tmb.probeAt = some s.clk ∧
    ∃ m, (probeSend s).out = m :: s.out ∧ Carries (s.ringLane false) 0x22 (s.svcLane (s.ringLane false)).txSeq
      (ringHead s 0 ++ toLE 8 s.now ++ toLE 8 s.nv.devid.toNat) false m := by
  have asks : ∃ u : State, u.plt = s.plt ∧ u.svc = s.svc ∧ u.out = s.out ∧ u.tmb.probeAt = some s.clk ∧
      probeSend s = sendRing false 0x22 (ringHead s 0 ++ toLE 8 s.now ++ toLE 8 s.nv.devid.toNat) u :=
    ⟨{ s with tmb.probeAt := some s.clk }, rfl, rfl, rfl, rfl, by rw [probeSend, master]; rfl⟩
  obtain ⟨u, plt, svc, out, probe, sent⟩ := asks
  obtain ⟨m, sent', carried⟩ := sendRing_out (s := u) (by rw [State.inBlock, plt]; exact member) false 0x22
    (ringHead s 0 ++ toLE 8 s.now ++ toLE 8 s.nv.devid.toNat)
  rw [State.svcLane, svc, State.ringLane, plt] at carried
  rw [sent]
  exact ⟨by rw [sendRing_kept.e_tmb, probe], m, by rw [sent', out], carried⟩

/-! ### Messages heard on the ring (R191) -/

theorem judged_marker (v : Svc) : v.judged.marker = v.marker := by
  unfold Svc.judged
  split <;> rfl
theorem judged_txSeq (v : Svc) : v.judged.txSeq = v.txSeq := by
  unfold Svc.judged
  split <;> rfl
/-- What the characters of a message leave of a lane's marker and of what it counts to send. -/
theorem takeChars_sends (codes : List Code) (v : Svc) :
    (codes.foldl Svc.takeChar v).marker = v.marker ∧ (codes.foldl Svc.takeChar v).txSeq = v.txSeq := by
  induction codes generalizing v with
  | nil => exact ⟨rfl, rfl⟩
  | cons g r ih =>
    obtain ⟨marker, txSeq⟩ := ih (v.takeChar g)
    rw [List.foldl_cons]
    exact ⟨marker.trans (by rw [takeChar_eq, judged_marker]), txSeq.trans (by rw [takeChar_eq, judged_txSeq])⟩

/-- The state in which the user of a Block message runs: the lane has taken its characters, and the term is one that the device has seen. -/
def ringUser (lane : Fin 2) (codes : List Code) (b : List Byte) (s : State) : State :=
  { (heardOn lane codes s) with tmb.topTerm := BitVec.ofNat 16 (max s.tmb.topTerm.toNat (msgTerm b)) }

section
variable {lane : Fin 2} {codes : List Code} {type : Byte} {b : List Byte}

theorem heardOn_svcLane (n : Nat) : ((heardOn lane codes s).svcLane n).marker = (s.svcLane n).marker ∧
    ((heardOn lane codes s).svcLane n).txSeq = (s.svcLane n).txSeq := by
  by_cases h : n = s.ringLane (isWest lane)
  · subst h
    rw [heardOn, modSvc_svcLane_self]
    exact takeChars_sends codes _
  · rw [heardOn, modSvc_svcLane_of_ne _ _ h]
    exact ⟨rfl, rfl⟩

/-- A Block message with this device's BLOCK_ID is its user's. -/
theorem completes_ring {i : Instr} {f : List Byte → State → State} {P : State → Prop}
    (run : exec i s = .next (onRing lane type codes (fun b => blockMsg b (f b)) s)) (heard : HearsRing s lane codes type b)
    (own : u16At b 0 = s.plt.plat.time.blockId.toNat) (h : P (f b (ringUser lane codes b s))) : Completes i s P := by
  have member : (!(heardOn lane codes s).inBlock) = false := by rw [show (heardOn lane codes s).inBlock = true from heard.1]; rfl
  have same : (u16At b 0 != (heardOn lane codes s).plt.plat.time.blockId.toNat) = false := bne_eq_false_iff_eq.mpr own
  refine completes_next run ?_
  rw [onRing_hears heard, blockMsg, member, same]
  exact h

/-- Another BLOCK_ID is reported and counted, and the message is discarded. -/
theorem blockMsg_other {f : State → State} (member : s.inBlock = true) (other : u16At b 0 ≠ s.plt.plat.time.blockId.toNat) :
    blockMsg b f s = countX xfBlockId 0 { s with tmb.blk := .idMismatch } := by
  rw [blockMsg, member, bne_iff_ne.mpr other]
  rfl

@[simp] theorem ringUser_tmb : (ringUser lane codes b s).tmb = { s.tmb with topTerm := BitVec.ofNat 16 (max s.tmb.topTerm.toNat (msgTerm b)) } := rfl
@[simp] theorem ringUser_plt : (ringUser lane codes b s).plt = s.plt := rfl
@[simp] theorem ringUser_nv : (ringUser lane codes b s).nv = s.nv := rfl
@[simp] theorem ringUser_glb : (ringUser lane codes b s).glb = s.glb := rfl
@[simp] theorem ringUser_clk : (ringUser lane codes b s).clk = s.clk := rfl
@[simp] theorem ringUser_out : (ringUser lane codes b s).out = s.out := rfl
@[simp] theorem ringUser_now : (ringUser lane codes b s).now = s.now := rfl
@[simp] theorem ringUser_ring (l : Fin 2) : (ringUser lane codes b s).ring l = s.ring l := rfl
@[simp] theorem ringUser_ringLane (west : Bool) : (ringUser lane codes b s).ringLane west = s.ringLane west := rfl
@[simp] theorem ringUser_ringHead (hops : Nat) : ringHead (ringUser lane codes b s) hops = ringHead s hops := rfl
@[simp] theorem ringUser_inBlock : (ringUser lane codes b s).inBlock = s.inBlock := rfl
@[simp] theorem ringUser_candidate : (ringUser lane codes b s).candidate = s.candidate := rfl
@[simp] theorem ringUser_ownKey : (ringUser lane codes b s).ownKey = s.ownKey := rfl
@[simp] theorem ringUser_txSeq (n : Nat) : ((ringUser lane codes b s).svcLane n).txSeq = (s.svcLane n).txSeq := (heardOn_svcLane n).2
@[simp] theorem ringUser_markerAt (l : Fin 2) : (ringUser lane codes b s).markerAt l = s.markerAt l := (heardOn_svcLane _).1

end

/-! ### Link delay (R192) -/

section
variable {lane : Fin 2} {b : List Byte}

/-- A response to another request than the lane's last is no response. -/
theorem takeDelayResp_other (other : u64At b 8 ≠ (s.ring lane).t1.toNat) : takeDelayResp lane b s = s := if_pos (bne_iff_ne.mpr other)
theorem takeDelayResp_own (own : u64At b 8 = (s.ring lane).t1.toNat) : takeDelayResp lane b s = s.setRing lane { s.ring lane with
    delay := (((s.markerAt lane : Int) - ((u64At b 8 * 65536 : Nat) : Int) -
      (((u64At b 24 * 65536 : Nat) : Int) - ((u64At b 16 * 65536 : Nat) : Int))) / 2).toNat } :=
  if_neg (by rw [own, bne_self_eq_false]; exact Bool.false_ne_true)
theorem setRing_tb (r : RingLane) : (s.setRing lane r).tmb.tb = s.tmb.tb := by
  unfold State.setRing
  split <;> rfl

/-! ### Election (R189, R190, R195) -/

@[simp] theorem settleBlk_tmb : (settleBlk s).tmb = { s.tmb with blk := s.blkNow } := rfl

theorem forwardRing_candidate (type : Nat) (own : Bool) : (forwardRing lane type b own s).candidate = s.candidate := by
  rw [State.candidate, State.candidate, forwardRing_kept.e_plt]
theorem forwardRing_ownKey (type : Nat) (own : Bool) : (forwardRing lane type b own s).ownKey = s.ownKey := by
  rw [State.ownKey, State.ownKey, State.timeInLocked, State.timeInLocked, forwardRing_kept.e_plt, forwardRing_kept.e_tmb, forwardRing_kept.e_nv]

/-- A candidate yields to a better key, and to no other. -/
theorem takeElect_tmb (other : u64At b 16 ≠ s.nv.devid.toNat) (runs : s.candidate = true) : (takeElect lane b s).tmb =
    if betterKey (u8At b 8 != 0, u8At b 9, u64At b 16) s.ownKey then { s.tmb with master := false, electing := some s.clk } else s.tmb := by
  rw [takeElect, beq_false_of_ne other]
  dsimp only
  rw [forwardRing_candidate, forwardRing_ownKey, runs]
  cases betterKey (u8At b 8 != 0, u8At b 9, u64At b 16) s.ownKey with
  | true =>
    rw [if_pos rfl, if_neg (by decide), forwardRing_kept.e_tmb, forwardRing_kept.e_clk]
  | false =>
    rw [if_neg Bool.false_ne_true, if_pos (by decide), forwardRing_kept.e_tmb]

/-- The state of a candidate that has won, before it announces itself. -/
def elected (s : State) : State :=
  { s with tmb := { s.tmb with master := true, electing := none, term := s.tmb.topTerm + 1, topTerm := s.tmb.topTerm + 1, masterId := s.nv.devid, hops := 0 } }

/-- ANNOUNCE counts the members by a number that the spec does not state (log entry 59). -/
def announcedMembers (s : State) : Nat := (Config.freeWord s.fresh).toNat % 81
theorem sendAnnounce_eq (s : State) : sendAnnounce s =
    sendBoth 0x21 (toLE 8 s.nv.devid.toNat ++ toLE 4 s.tmb.rtt.toNat ++ toLE 1 (announcedMembers s) ++ zeros 3)
      { s with fresh := s.fresh + 1, tmb.members := BitVec.ofNat 8 (announcedMembers s) } := rfl
theorem sendAnnounce_tmb (s : State) : (sendAnnounce s).tmb = { s.tmb with members := BitVec.ofNat 8 (announcedMembers s) } := by
  rw [sendAnnounce_eq, sendBoth_kept.e_tmb]
theorem announcedMembers_toNat (s : State) : (BitVec.ofNat 8 (announcedMembers s)).toNat = announcedMembers s ∧ announcedMembers s ≤ 80 := by
  have few : announcedMembers s < 81 := Nat.mod_lt _ (by decide)
  exact ⟨Nat.mod_eq_of_lt (by omega), by omega⟩

/-- The message goes out on both lanes with the members as they now stand. -/
theorem sendAnnounce_sends (member : s.inBlock = true) : (sendAnnounce s).tmb.members.toNat ≤ 80 ∧
    ∀ west, ∃ q m, m ∈ (sendAnnounce s).out ∧ Carries (s.ringLane west) 0x21 q
      (ringHead s 0 ++ (toLE 8 s.nv.devid.toNat ++ toLE 4 s.tmb.rtt.toNat ++ toLE 1 (sendAnnounce s).tmb.members.toNat ++ zeros 3)) false m := by
  obtain ⟨count, few⟩ := announcedMembers_toNat s
  rw [sendAnnounce_tmb]
  dsimp only
  rw [count]
  refine ⟨few, fun west => ?_⟩
  rw [sendAnnounce_eq]
  exact sendBoth_out (s := { s with fresh := s.fresh + 1, tmb.members := BitVec.ofNat 8 (announcedMembers s) }) member 0x21 _ west

/-- 1 ms without a better key makes a candidate the master, under a new term (R190). -/
theorem electionWin_reads {a : Nat} (since : s.tmb.electing = some a) (runs : s.candidate = true) (due : 10 ^ 6 ≤ s.clk - a) :
    (electionWin s).tmb.master = true ∧ (electionWin s).tmb.term = s.tmb.topTerm + 1 ∧ (electionWin s).tmb.masterId = s.nv.devid ∧
    (electionWin s).tmb.electing = none ∧ (electionWin s).tmb.hops = 0 ∧ (electionWin s).tmb.event.getLsbD 0 = true := by
  have won : electionWin s = settleBlk (sendAnnounce (raiseTmb 0 (elected s))) := by
    have wait : (decide (s.clk - a < 10 ^ 6)) = false := decide_eq_false (by omega)
    simp only [electionWin, since, runs, wait, Bool.not_true, Bool.or_self, Bool.false_eq_true, if_false]
    rfl
  rw [won, settleBlk_tmb, sendAnnounce_tmb, raiseTmb_tmb]
  exact ⟨rfl, rfl, rfl, rfl, rfl, getLsbD_setBit_self _ (by decide)⟩

/-- ANNOUNCE under a higher term is followed (R190, R191). -/
theorem takeAnnounce_newer (other : u64At b 8 ≠ s.nv.devid.toNat) (newer : s.tmb.term.toNat < msgTerm b) : ∃ blk, (takeAnnounce lane b s).tmb =
    { s.tmb with
      term := BitVec.ofNat 16 (msgTerm b), master := false, electing := if s.tmb.master then some s.clk else s.tmb.electing,
      masterId := BitVec.ofNat 64 (u64At b 8), rtt := BitVec.ofNat 32 (u32At b 16), members := BitVec.ofNat 8 (u8At b 20),
      event := setBit s.tmb.event 0 true, blk := blk } := by
  have late : ¬ msgTerm b < s.tmb.term.toNat := by omega
  rw [takeAnnounce, beq_false_of_ne other]
  dsimp only
  rw [forwardRing_kept.e_tmb, forwardRing_kept.e_clk, decide_eq_false late, decide_eq_true newer, Bool.or_self, if_neg Bool.false_ne_true, if_pos rfl,
    settleBlk_tmb, raiseTmb_tmb, Bool.not_true, Bool.and_false, Bool.true_and]
  exact ⟨_, rfl⟩

/-- A round trip over RTT_MAX is reported (R191). -/
theorem blkNow_rttExceeded (member : s.inBlock = true) (long : s.plt.plat.time.rttMax.toNat * 1000 < s.tmb.rtt.toNat) : s.blkNow = .rttExceeded := by
  rw [State.blkNow, member, if_pos long]
  rfl

/-- The master's own PROBE gives the round trip. -/
theorem takeProbe_own (own : u64At b 16 = s.nv.devid.toNat) (master : s.tmb.master = true) (out : s.tmb.probeAt.isSome = true) :
    takeProbe lane b s = settleBlk { s with tmb := { s.tmb with rtt := BitVec.ofNat 32 (sat 0xFFFFFFFF (s.now - u64At b 8)), probeAt := none, blk := if isWest lane then .forming else .broken } } := by
  rw [takeProbe, if_pos (beq_iff_eq.mpr own), master, out]
  rfl

theorem probeTimeout_due {a : Nat} (since : s.tmb.probeAt = some a) (due : 10 ^ 6 ≤ s.clk - a) :
    probeTimeout s = settleBlk { s with tmb := { s.tmb with probeAt := none, rtt := 0 } } := by
  simp only [probeTimeout, since, due, if_true]

theorem startElection_begins (runs : s.candidate = true) (slave : s.tmb.master = false) (rest : s.tmb.electing = none) :
    startElection s = { s with tmb.electing := some s.clk } := by
  rw [startElection, runs, slave, rest]
  rfl
theorem startElection_members (s : State) : (startElection s).tmb.members = s.tmb.members := by
  rw [startElection]
  split <;> rfl

/-- 1 ms of silence makes a candidate look for better keys (R195). -/
theorem syncLossReelect_reads (silent : s.silent 1000000 = true) (runs : s.candidate = true) (rest : s.tmb.electing = none) :
    (startElection s).tmb.electing = some s.clk ∧ (startElection s).tmb.master = false := by
  have slave : s.tmb.master = false := by
    rw [State.silent] at silent
    simp only [Bool.and_eq_true, Bool.not_eq_true'] at silent
    exact silent.1.1.2
  rw [startElection_begins runs slave rest]
  exact ⟨rfl, slave⟩

/-- The state after a member has left, before what follows from its having been the master. -/
def memberGone (lane : Fin 2) (b : List Byte) (s : State) : State :=
  { (forwardRing lane 0x23 b false s) with tmb := { s.tmb with members := s.tmb.members - 1 } }
theorem takeLeave_eq (other : u64At b 8 ≠ s.nv.devid.toNat) (any : s.tmb.members ≠ 0) : takeLeave lane b s =
    if s.tmb.term != 0 && u64At b 8 == s.tmb.masterId.toNat then startElection (memberGone lane b s) else memberGone lane b s := by
  rw [takeLeave, beq_false_of_ne other]
  dsimp only
  rw [forwardRing_kept.e_tmb, beq_false_of_ne any]
  rfl

/-- LEAVE: one member fewer, and a candidate that hears the master leave looks for better keys (log entry 59). -/
theorem takeLeave_reads (other : u64At b 8 ≠ s.nv.devid.toNat) (any : s.tmb.members ≠ 0) : (takeLeave lane b s).tmb.members = s.tmb.members - 1 ∧
    (s.tmb.term ≠ 0 → u64At b 8 = s.tmb.masterId.toNat → s.candidate = true → s.tmb.master = false → s.tmb.electing = none →
      (takeLeave lane b s).tmb.electing = some s.clk) := by
  rw [takeLeave_eq other any]
  refine ⟨?_, fun term left runs slave rest => ?_⟩
  · split
    · exact startElection_members _
    · rfl
  · have candidate : (memberGone lane b s).candidate = true := (forwardRing_candidate 0x23 false).trans runs
    rw [bne_iff_ne.mpr term, beq_iff_eq.mpr left, Bool.and_self, if_pos rfl, startElection_begins candidate slave rest]
    exact congrArg some forwardRing_kept.e_clk

/-! ### SYNC (R192, R193) -/

/-- The state after a SYNC is noted on its lane. -/
def syncSeen (lane : Fin 2) (b : List Byte) (s : State) : State :=
  s.setRing lane { s.ring lane with syncAt := some s.clk, hops := BitVec.ofNat 8 (msgHops b) }

theorem syncSeen_ring : (syncSeen lane b s).ring lane = { s.ring lane with syncAt := some s.clk, hops := BitVec.ofNat 8 (msgHops b) } :=
  setRing_ring_self ..
theorem syncSeen_otherRing : (syncSeen lane b s).ring (if isWest lane then 0 else 1) = if isWest lane then s.tmb.ring0 else s.tmb.ring1 := by
  unfold syncSeen State.setRing State.ring
  cases isWest lane <;> rfl
theorem syncSeen_kept (lane : Fin 2) (b : List Byte) (s : State) : Kept [.tmb] s (syncSeen lane b s) := setRing_kept ..

/-- Beside the lane's record TMB is as before. -/
theorem syncSeen_tmb : ∃ r0 r1, (syncSeen lane b s).tmb = { s.tmb with ring0 := r0, ring1 := r1 } := by
  unfold syncSeen State.setRing
  split
  · exact ⟨_, _, rfl⟩
  · exact ⟨_, _, rfl⟩

/-- A SYNC with fewer hops than the other direction's last, or none from there of late, is the one in use. -/
theorem syncSeen_used (short : msgHops b < 255)
    (first : ∀ r : RingLane, r = (if isWest lane then s.tmb.ring0 else s.tmb.ring1) → s.syncLive r = false ∨ msgHops b < r.hops.toNat) :
    (syncSeen lane b s).syncUsed lane = true := by
  have hops : (BitVec.ofNat 8 (msgHops b)).toNat = msgHops b := Nat.mod_eq_of_lt (by omega)
  have live : ∀ r, (syncSeen lane b s).syncLive r = s.syncLive r := fun r => by rw [State.syncLive, State.syncLive, (syncSeen_kept lane b s).e_clk]
  rw [State.syncUsed, syncSeen_ring, syncSeen_otherRing, live]
  dsimp only
  rw [hops]
  rcases first _ rfl with silent | fewer
  · rw [silent]
    rfl
  · rw [decide_eq_true fewer, Bool.or_true, Bool.true_or]

/-- The offset that a SYNC gives, in 2^-16 ns. -/
def syncOffset (lane : Fin 2) (b : List Byte) (s : State) : Int := ((u64At b 8 * 65536 + (s.ring lane).delay : Nat) : Int) - (s.markerAt lane : Int)

theorem syncSeen_offset : syncOffset lane b (syncSeen lane b s) = syncOffset lane b s := by
  rw [syncOffset, syncOffset, syncSeen_ring, State.markerAt, State.markerAt, State.ringLane, State.ringLane, State.svcLane, State.svcLane,
    (syncSeen_kept lane b s).e_plt, (syncSeen_kept lane b s).e_svc]

/-- An offset filtered with those before it (R193). -/
def offsetFiltered (raw : Int) (s : State) : Int := Config.offsetFilter ((raw :: s.tmb.offsets).take 64)
/-- The state with the filtered offset noted. -/
def filterTaken (raw : Int) (s : State) : State :=
  { s with tmb := { s.tmb with offsets := (raw :: s.tmb.offsets).take 64, offset := offsetPs (offsetFiltered raw s) } }
/-- The state with an offset taken: the first steps the time base, and a later one is filtered, and slews or steps it. -/
def offsetTaken (raw : Int) (s : State) : State :=
  if s.tmb.stepped then
    if (offsetFiltered raw s).natAbs ≤ 8 * 65536 then slewTime (offsetFiltered raw s) (filterTaken raw s) else stepTime (offsetFiltered raw s) (filterTaken raw s)
  else { (stepTime raw s) with tmb.offset := offsetPs raw }

theorem stepTime_tmb (o : Int) (s : State) : (stepTime o s).tmb =
    { s.tmb with tb := ((s.tmb.tb : Int) + o).toNat, stepAt := some s.clk, offsets := [], good := 0, owed := 0, stepped := true } := rfl

/-- The first offset steps the time base. -/
theorem offsetTaken_first {raw : Int} (first : s.tmb.stepped = false) : (offsetTaken raw s).tmb = { s.tmb with
    tb := ((s.tmb.tb : Int) + raw).toNat, stepAt := some s.clk, offsets := [], good := 0, owed := 0, stepped := true, offset := offsetPs raw } := by
  rw [offsetTaken, first]
  rfl

/-- A later one of at most 8 ns slews it. -/
theorem offsetTaken_near {raw : Int} (later : s.tmb.stepped = true) (near : (offsetFiltered raw s).natAbs ≤ 8 * 65536) : (offsetTaken raw s).tmb =
    { s.tmb with offsets := (raw :: s.tmb.offsets).take 64, offset := offsetPs (offsetFiltered raw s), owed := offsetFiltered raw s } := by
  rw [offsetTaken, if_pos later, if_pos near]
  rfl
/-- A later one of more than 8 ns steps it. -/
theorem offsetTaken_far {raw : Int} (later : s.tmb.stepped = true) (far : 8 * 65536 < (offsetFiltered raw s).natAbs) : (offsetTaken raw s).tmb =
    { s.tmb with tb := ((s.tmb.tb : Int) + offsetFiltered raw s).toNat, stepAt := some s.clk, offsets := [], good := 0, owed := 0, stepped := true,
                 offset := offsetPs (offsetFiltered raw s) } := by
  rw [offsetTaken, if_pos later, if_neg (by omega)]
  rfl

theorem offsetTaken_clk (raw : Int) (s : State) : (offsetTaken raw s).clk = s.clk := by
  unfold offsetTaken
  split
  · split <;> rfl
  · rfl

/-- What an offset takes it leaves the ring lanes, the hops and LOCK alone. -/
theorem offsetTaken_rest (raw : Int) (s : State) : (offsetTaken raw s).tmb.ring0 = s.tmb.ring0 ∧ (offsetTaken raw s).tmb.ring1 = s.tmb.ring1 ∧
    (offsetTaken raw s).tmb.hops = s.tmb.hops ∧ (offsetTaken raw s).tmb.lock = s.tmb.lock := by
  unfold offsetTaken
  split
  · split <;> exact ⟨rfl, rfl, rfl, rfl⟩
  · exact ⟨rfl, rfl, rfl, rfl⟩

/-- The state with the hops of a SYNC in use taken. -/
def hopsTaken (b : List Byte) (s : State) : State := { s with tmb.hops := BitVec.ofNat 8 (msgHops b + 1) }

section
variable (source : s.plt.plat.time.source = 0) (slave : s.tmb.master = false) (short : msgHops b < 255)
  (h1 : s.glb.state ≠ .inService) (h2 : s.glb.state ≠ .quiesced)
include source slave short h1 h2

/-- A SYNC in use is a sample of its master (R193); what becomes of a lease then is no concern before the device is IN_SERVICE. -/
theorem useSync_eq : useSync lane b s = sample (syncOffset lane b s) 16 (offsetTaken (syncOffset lane b s) (hopsTaken b s)) := by
  have hops : sat 255 (msgHops b + 1) = msgHops b + 1 := if_pos (by omega)
  have idle : ∀ (o : Int) (u : State), u.glb = s.glb → checkLease (stepTime o u) = stepTime o u := fun o u same =>
    checkLease_idle (by rw [show (stepTime o u).glb = s.glb from same]; exact h1) (by rw [show (stepTime o u).glb = s.glb from same]; exact h2)
  have used : useSync lane b s = if !(hopsTaken b s).tmb.stepped
      then sample (syncOffset lane b s) 16 { (checkLease (stepTime (syncOffset lane b s) (hopsTaken b s))) with tmb.offset := offsetPs (syncOffset lane b s) }
      else sample (syncOffset lane b s) 16 (if (offsetFiltered (syncOffset lane b s) (hopsTaken b s)).natAbs ≤ 8 * 65536
        then slewTime (offsetFiltered (syncOffset lane b s) (hopsTaken b s)) (filterTaken (syncOffset lane b s) (hopsTaken b s))
        else checkLease (stepTime (offsetFiltered (syncOffset lane b s) (hopsTaken b s)) (filterTaken (syncOffset lane b s) (hopsTaken b s)))) := by
    rw [useSync, slave, hops]
    exact if_neg (show ¬ (s.plt.plat.time.source != 0 || s.tmb.master) = true by rw [slave, source]; decide)
  rw [used, idle _ (hopsTaken b s) rfl, idle _ (filterTaken _ (hopsTaken b s)) rfl, offsetTaken]
  cases (hopsTaken b s).tmb.stepped <;> rfl

end

/-- Right after a step ADMIT is 0. -/
theorem sample_admOn_stepped {o : Int} {need : Nat} (step : s.tmb.stepAt = some s.clk) : (sample o need s).tmb.admOn = false := by
  have judged : ∀ u : State, u.tmb.stepAt = some s.clk → u.clk = s.clk → (settleBlk (settleAdmit u)).tmb.admOn = false := fun u step' clk => by
    rw [settleBlk_tmb, settleAdmit_tmb]
    exact admitOn_stepped step' (by rw [clk]; omega)
  refine judged (lockSample o need (if s.tmb.lock == .free then { s with tmb.lock := .acquiring } else s)) ?_ ?_
  · rw [lockSample_tmb]
    split <;> exact step
  · rw [lockSample_kept.e_clk]
    split <;> rfl

/-- The state with a SYNC in use noted, before its offset is taken. -/
def syncNoted (lane : Fin 2) (b : List Byte) (s : State) : State := hopsTaken b (syncSeen lane b s)

theorem syncNoted_clk : (syncNoted lane b s).clk = s.clk := (syncSeen_kept lane b s).e_clk
theorem syncNoted_ring : (syncNoted lane b s).ring lane = { s.ring lane with syncAt := some s.clk, hops := BitVec.ofNat 8 (msgHops b) } := syncSeen_ring
/-- Beside the lane's record and the hops TMB is as before. -/
theorem syncNoted_tmb : ∃ r0 r1, (syncNoted lane b s).tmb = { s.tmb with ring0 := r0, ring1 := r1, hops := BitVec.ofNat 8 (msgHops b + 1) } := by
  obtain ⟨r0, r1, seen⟩ := syncSeen_tmb (s := s) (lane := lane) (b := b)
  exact ⟨r0, r1, by rw [syncNoted, hopsTaken, seen]⟩
theorem syncNoted_tb : (syncNoted lane b s).tmb.tb = s.tmb.tb := by obtain ⟨_, _, h⟩ := syncNoted_tmb (s := s) (lane := lane) (b := b); rw [h]
theorem syncNoted_lock : (syncNoted lane b s).tmb.lock = s.tmb.lock := by obtain ⟨_, _, h⟩ := syncNoted_tmb (s := s) (lane := lane) (b := b); rw [h]
theorem syncNoted_stepped : (syncNoted lane b s).tmb.stepped = s.tmb.stepped := by obtain ⟨_, _, h⟩ := syncNoted_tmb (s := s) (lane := lane) (b := b); rw [h]
theorem syncNoted_stepAt : (syncNoted lane b s).tmb.stepAt = s.tmb.stepAt := by obtain ⟨_, _, h⟩ := syncNoted_tmb (s := s) (lane := lane) (b := b); rw [h]
theorem syncNoted_filtered (raw : Int) : offsetFiltered raw (syncNoted lane b s) = offsetFiltered raw s := by
  obtain ⟨_, _, h⟩ := syncNoted_tmb (s := s) (lane := lane) (b := b)
  rw [offsetFiltered, offsetFiltered, h]

/-- The state in which a SYNC in use is judged as a sample: it is noted, and its offset is taken. -/
def syncTaken (lane : Fin 2) (b : List Byte) (s : State) : State := offsetTaken (syncOffset lane b s) (syncNoted lane b s)

theorem syncTaken_clk : (syncTaken lane b s).clk = s.clk := (offsetTaken_clk _ _).trans syncNoted_clk
/-- It holds what the lane's record and the hops are from now on, and LOCK as before. -/
theorem syncTaken_rest : (syncTaken lane b s).ring lane = { s.ring lane with syncAt := some s.clk, hops := BitVec.ofNat 8 (msgHops b) } ∧
    (syncTaken lane b s).tmb.hops = BitVec.ofNat 8 (msgHops b + 1) ∧ (syncTaken lane b s).tmb.lock = s.tmb.lock := by
  obtain ⟨ring0, ring1, hops, lock⟩ := offsetTaken_rest (syncOffset lane b s) (syncNoted lane b s)
  have ring : (syncTaken lane b s).ring lane = (syncNoted lane b s).ring lane := by rw [State.ring, State.ring, syncTaken, ring0, ring1]
  exact ⟨ring.trans syncNoted_ring, hops, lock.trans syncNoted_lock⟩
theorem syncTaken_first (first : s.tmb.stepped = false) : (syncTaken lane b s).tmb.tb = ((s.tmb.tb : Int) + syncOffset lane b s).toNat ∧
    (syncTaken lane b s).tmb.offset = offsetPs (syncOffset lane b s) ∧ (syncTaken lane b s).tmb.stepped = true ∧ (syncTaken lane b s).tmb.good = 0 := by
  rw [syncTaken, offsetTaken_first (syncNoted_stepped.trans first), syncNoted_tb]
  exact ⟨rfl, rfl, rfl, rfl⟩

section
variable (later : s.tmb.stepped = true)
include later

theorem syncTaken_near (near : (offsetFiltered (syncOffset lane b s) s).natAbs ≤ 8 * 65536) :
    (syncTaken lane b s).tmb.offset = offsetPs (offsetFiltered (syncOffset lane b s) s) ∧ (syncTaken lane b s).tmb.tb = s.tmb.tb ∧
    (syncTaken lane b s).tmb.owed = offsetFiltered (syncOffset lane b s) s ∧ (syncTaken lane b s).tmb.stepAt = s.tmb.stepAt := by
  rw [syncTaken, offsetTaken_near (syncNoted_stepped.trans later) (by rw [syncNoted_filtered]; exact near), syncNoted_filtered]
  exact ⟨rfl, syncNoted_tb, rfl, syncNoted_stepAt⟩
theorem syncTaken_far (far : 8 * 65536 < (offsetFiltered (syncOffset lane b s) s).natAbs) :
    (syncTaken lane b s).tmb.offset = offsetPs (offsetFiltered (syncOffset lane b s) s) ∧
    (syncTaken lane b s).tmb.tb = ((s.tmb.tb : Int) + offsetFiltered (syncOffset lane b s) s).toNat ∧ (syncTaken lane b s).tmb.stepAt = some s.clk := by
  rw [syncTaken, offsetTaken_far (syncNoted_stepped.trans later) (by rw [syncNoted_filtered]; exact far), syncNoted_filtered, syncNoted_tb, syncNoted_clk]
  exact ⟨rfl, rfl, rfl⟩

end

section
variable (known : s.tmb.term.toNat ≤ msgTerm b) (source : s.plt.plat.time.source = 0) (slave : s.tmb.master = false) (short : msgHops b < 255)
  (h1 : s.glb.state ≠ .inService) (h2 : s.glb.state ≠ .quiesced)
  (used : ∀ r : RingLane, r = (if isWest lane then s.tmb.ring0 else s.tmb.ring1) → s.syncLive r = false ∨ msgHops b < r.hops.toNat)
include known source slave short h1 h2 used

/-- A SYNC in use is one sample; what goes on along the ring changes TMB no more. -/
theorem takeSync_tmb : (takeSync lane b s).tmb = (settleBlk (sample (syncOffset lane b s) 16 (syncTaken lane b s))).tmb := by
  obtain ⟨r0, r1, seen⟩ := syncSeen_tmb (s := s) (lane := lane) (b := b)
  have kept := syncSeen_kept lane b s
  have sampled := useSync_eq (s := syncSeen lane b s) (lane := lane) (b := b) (by rw [kept.e_plt]; exact source)
    ((congrArg Tmb.master seen).trans slave) short (by rw [kept.e_glb]; exact h1) (by rw [kept.e_glb]; exact h2)
  rw [syncSeen_offset] at sampled
  have passed : ∀ u : State, (if u.tmb.master || msgHops b == 255 then u
      else sendMarked (!isWest lane) 0x02 (toLE 8 u.now) (msgHops b + 1) u).tmb = u.tmb := fun u => by
    split
    · rfl
    · exact sendMarked_kept.e_tmb
  have taken : (takeSync lane b s).tmb = (settleBlk (if (syncSeen lane b s).syncUsed lane then useSync lane b (syncSeen lane b s) else syncSeen lane b s)).tmb := by
    rw [takeSync, if_neg (Nat.not_lt.mpr known)]
    exact passed _
  rw [taken, syncSeen_used short used, if_pos rfl, sampled, syncTaken, syncNoted]

/-- Of that sample TMB shows the counts, LOCK, ADMIT and BLK, and the rest as the SYNC was taken. -/
theorem takeSync_sample : ∃ adm event blk, (takeSync lane b s).tmb = { (syncTaken lane b s).tmb with
    good := (syncTaken lane b s).goodAfter (syncOffset lane b s), lock := (syncTaken lane b s).lockAfter (syncOffset lane b s) 16,
    admOn := adm, event := event, blk := blk } := by
  obtain ⟨adm, event, blk, h⟩ := sample_tmb (syncOffset lane b s) 16 (syncTaken lane b s)
  rw [takeSync_tmb known source slave short h1 h2 used, settleBlk_tmb, h]
  exact ⟨_, _, _, rfl⟩

theorem takeSync_lane : ((takeSync lane b s).ring lane).syncAt = some s.clk ∧ ((takeSync lane b s).ring lane).hops = BitVec.ofNat 8 (msgHops b) ∧
    (takeSync lane b s).tmb.hops = BitVec.ofNat 8 (msgHops b + 1) := by
  obtain ⟨adm, event, blk, h⟩ := takeSync_sample known source slave short h1 h2 used
  obtain ⟨ring, hops, -⟩ := syncTaken_rest (s := s) (lane := lane) (b := b)
  have same : (takeSync lane b s).ring lane = (syncTaken lane b s).ring lane := by rw [State.ring, State.ring, h]
  rw [same, ring, h]
  exact ⟨rfl, rfl, hops⟩

theorem takeSync_first (first : s.tmb.stepped = false) : ((takeSync lane b s).tmb.tb : Int) = max 0 ((s.tmb.tb : Int) + syncOffset lane b s) ∧
    (takeSync lane b s).tmb.offset = offsetPs (syncOffset lane b s) ∧ (takeSync lane b s).tmb.stepped = true ∧
    (takeSync lane b s).tmb.lock = if s.tmb.lock = .free then .acquiring else s.tmb.lock := by
  obtain ⟨adm, event, blk, h⟩ := takeSync_sample known source slave short h1 h2 used
  obtain ⟨tb, offset, stepped, good⟩ := syncTaken_first (lane := lane) (b := b) first
  obtain ⟨-, -, lock⟩ := syncTaken_rest (s := s) (lane := lane) (b := b)
  have few : (syncTaken lane b s).goodAfter (syncOffset lane b s) < 16 := by
    rw [State.goodAfter, good]
    split <;> omega
  rw [h]
  dsimp only
  rw [tb, offset, stepped, State.lockAfter, if_neg (by omega), lock]
  exact ⟨by omega, rfl, rfl, rfl⟩

theorem takeSync_later (later : s.tmb.stepped = true) : (takeSync lane b s).tmb.offset = offsetPs (offsetFiltered (syncOffset lane b s) s) ∧
    ((offsetFiltered (syncOffset lane b s) s).natAbs ≤ 8 * 65536 → (takeSync lane b s).tmb.tb = s.tmb.tb ∧
      (takeSync lane b s).tmb.owed = offsetFiltered (syncOffset lane b s) s ∧ (takeSync lane b s).tmb.stepAt = s.tmb.stepAt) ∧
    (8 * 65536 < (offsetFiltered (syncOffset lane b s) s).natAbs →
      ((takeSync lane b s).tmb.tb : Int) = max 0 ((s.tmb.tb : Int) + offsetFiltered (syncOffset lane b s) s) ∧
      (takeSync lane b s).tmb.stepAt = some s.clk ∧ (takeSync lane b s).tmb.admOn = false) := by
  obtain ⟨adm, event, blk, h⟩ := takeSync_sample known source slave short h1 h2 used
  by_cases near : (offsetFiltered (syncOffset lane b s) s).natAbs ≤ 8 * 65536
  · obtain ⟨offset, tb, owed, stepAt⟩ := syncTaken_near later near
    rw [h]
    dsimp only
    exact ⟨offset, fun _ => ⟨tb, owed, stepAt⟩, fun far => absurd near (Nat.not_le.mpr far)⟩
  · obtain ⟨offset, tb, stepAt⟩ := syncTaken_far later (Nat.lt_of_not_le near)
    have off : (takeSync lane b s).tmb.admOn = false := by
      rw [takeSync_tmb known source slave short h1 h2 used, settleBlk_tmb]
      dsimp only
      exact sample_admOn_stepped (stepAt.trans (congrArg some syncTaken_clk.symm))
    have step : ((takeSync lane b s).tmb.tb : Int) = max 0 ((s.tmb.tb : Int) + offsetFiltered (syncOffset lane b s) s) := by
      rw [h]
      dsimp only
      rw [tb]
      omega
    exact ⟨by rw [h]; exact offset, fun close => absurd close near, fun _ => ⟨step, by rw [h]; exact stepAt, off⟩⟩

end

end

end

end Sys2Proof.Machine

section
open Sys2Proof Sys2Proof.Machine
set_option Elab.async false

/-- Settles O48, clause by clause: a message heard runs its user on a state that shows all that the user reads, and a message sent is the next emission on its lane. -/
theorem blockRingComplete : Obligations.BlockRingComplete := by
  refine ⟨fun l codes b s heard other => ?_, fun l codes b raw s heard own known source slave h1 h2 used short hraw => ?_, fun dt s member master => ?_,
    fun l codes b s heard own => ?_, fun dt l s member => ?_, fun l codes b s heard own => ?_, fun l codes b s heard own other runs => ?_,
    fun dt s member runs => ?_, fun dt a s since runs due => ?_, fun l codes b s heard own other newer => ?_, fun dt s member master => ?_,
    fun l codes b s heard own home master out => ?_, fun dt s member master => ?_, fun dt a s since due => ?_,
    fun l codes b s heard own other any => ?_, fun dt s source silent => ?_, fun dt s silent runs rest => ?_⟩
  · refine completes_next (congrArg Host.Outcome.next ((onRing_hears heard).trans (blockMsg_other heard.1 other))) ?_
    exact ⟨rfl, rfl⟩
  · refine completes_ring rfl heard own ?_
    have offset : syncOffset l b (ringUser l codes b s) = raw := by rw [syncOffset, ringUser_ring, ringUser_markerAt, hraw]
    obtain ⟨syncAt, laneHops, hops⟩ := takeSync_lane (s := ringUser l codes b s) known source slave short h1 h2 used
    refine ⟨syncAt, laneHops, hops, fun first => ?_, fun later f hf => ?_⟩
    · have stepped := takeSync_first (s := ringUser l codes b s) known source slave short h1 h2 used first
      rw [offset] at stepped
      exact stepped
    · have filtered := takeSync_later (s := ringUser l codes b s) known source slave short h1 h2 used later
      have same : offsetFiltered (syncOffset l b (ringUser l codes b s)) (ringUser l codes b s) = f := by rw [offset, hf]; rfl
      rw [same] at filtered
      exact filtered
  · have sends := syncSend_sends (s := elapse dt s) (by simpa using member) (by simpa using master)
    simp only [elapse_ringLane, elapse_ringHead] at sends
    exact completes_next rfl sends
  · refine completes_ring rfl heard own ?_
    have answer := sendMarked_out (s := ringUser l codes b s) heard.1 (isWest l) 0x04
      (slice b 8 8 ++ toLE 8 (s.markerAt l / 65536) ++ toLE 8 s.now)
    rw [ringUser_txSeq, ringUser_ringLane, ringUser_ringHead, ringUser_out] at answer
    rw [answerDelay, ringUser_markerAt, ringUser_now]
    exact answer
  · have sends := delayReqSend_sends (s := elapse dt s) (by simpa using member) l
    rw [elapse_ringLane, elapse_ringHead, elapse_svcLane] at sends
    exact completes_next rfl sends
  · refine completes_ring rfl heard own ?_
    by_cases answers : u64At b 8 = (s.ring l).t1.toNat
    · rw [takeDelayResp_own (s := ringUser l codes b s) answers, ringUser_markerAt]
      exact ⟨setRing_tb _, fun other => absurd answers other, fun _ => by rw [setRing_ring_self]⟩
    · rw [takeDelayResp_other (s := ringUser l codes b s) answers]
      exact ⟨rfl, fun _ => ⟨rfl, rfl⟩, fun own => absurd own answers⟩
  · refine completes_ring rfl heard own ?_
    rw [takeElect_tmb (s := ringUser l codes b s) other runs, ringUser_ownKey]
    split
    · exact ⟨rfl, rfl, rfl⟩
    · exact ⟨rfl, rfl, rfl⟩
  · have sends := sendBoth_out (s := elapse dt s) (by simpa using member) 0x20 (electBody (elapse dt s))
    simp only [elapse_ringLane, elapse_ringHead, elapse_electBody] at sends
    exact completes_next (congrArg Host.Outcome.next (if_pos (by simpa using runs))) (by rw [elapse_electBody]; exact sends)
  · have won := electionWin_reads (s := elapse dt s) (by simpa using since) (by simpa using runs) (by simpa using due)
    rw [elapse_topTerm, elapse_nv] at won
    exact completes_next rfl won
  · refine completes_ring rfl heard own ?_
    obtain ⟨blk, followed⟩ := takeAnnounce_newer (s := ringUser l codes b s) (lane := l) other newer
    rw [followed]
    exact ⟨rfl, rfl, fun was => if_pos was, fun was => if_neg (by rw [ringUser_tmb]; simp [was]), rfl, rfl, rfl, getLsbD_setBit_self _ (by decide)⟩
  · have sends := sendAnnounce_sends (s := elapse dt s) (by simpa using member)
    simp only [elapse_ringLane, elapse_ringHead, elapse_nv, elapse_rtt] at sends
    exact completes_next (congrArg Host.Outcome.next (if_pos (by simpa using master))) sends
  · refine completes_ring rfl heard own ?_
    rw [takeProbe_own (s := ringUser l codes b s) home master out, settleBlk_tmb]
    exact ⟨rfl, rfl, fun long => blkNow_rttExceeded heard.1 long⟩
  · have sends := probeSend_sends (s := elapse dt s) (by simpa using member) (by simpa using master)
    rw [elapse_ringLane, elapse_ringHead, elapse_svcLane, elapse_clk, elapse_nv] at sends
    exact completes_next rfl sends
  · refine completes_next (congrArg Host.Outcome.next (probeTimeout_due (a := a) (by simpa using since) (by simpa using due))) ?_
    exact ⟨rfl, rfl⟩
  · refine completes_ring rfl heard own ?_
    exact takeLeave_reads (s := ringUser l codes b s) other any
  · obtain ⟨good, -, entered, -⟩ := enterHoldover_reads (elapse dt s)
    rw [elapse_lock, elapse_clk] at entered
    have lost : ((elapse dt s).plt.plat.time.source == 0 && (elapse dt s).silent 100000) = true := by rw [silent, elapse_plt, source]; rfl
    refine completes_next (congrArg (fun u => Host.Outcome.next (settleBlk u)) (if_pos lost)) ?_
    rw [settleBlk_tmb]
    exact ⟨good, entered⟩
  · have begins := syncLossReelect_reads (s := elapse dt s) silent (by simpa using runs) (by simpa using rest)
    rw [elapse_clk] at begins
    exact completes_next (congrArg Host.Outcome.next (if_pos silent)) begins

end

/-! SUPPORT. Timetables and congestion maps (R199 to R201, R205): the commands of the host, the activation of an image and the close of a map interval. Each theorem is checked where it stands (Elab.async off): waiting for the files before, many at once would each hold a thread's memory. -/
namespace Sys2Proof.Machine
open Sys2Proof
set_option Elab.async false

/-! ### What time that passes leaves of timetables and maps -/

section
variable (dt : Nat) (s : State)

@[simp] theorem elapse_pending : (elapse dt s).tmb.pending = s.tmb.pending := by obtain ⟨_, _, _, h⟩ := elapse_tmb dt s; rw [h]
@[simp] theorem elapse_armed : (elapse dt s).tmb.armed = s.tmb.armed := by obtain ⟨_, _, _, h⟩ := elapse_tmb dt s; rw [h]
@[simp] theorem elapse_old : (elapse dt s).tmb.old = s.tmb.old := by obtain ⟨_, _, _, h⟩ := elapse_tmb dt s; rw [h]
@[simp] theorem elapse_mapen : (elapse dt s).tmb.mapen = s.tmb.mapen := by obtain ⟨_, _, _, h⟩ := elapse_tmb dt s; rw [h]
@[simp] theorem elapse_mapStart : (elapse dt s).tmb.mapStart = s.tmb.mapStart := by obtain ⟨_, _, _, h⟩ := elapse_tmb dt s; rw [h]
@[simp] theorem elapse_mapHead : (elapse dt s).tmb.mapHead = s.tmb.mapHead := by obtain ⟨_, _, _, h⟩ := elapse_tmb dt s; rw [h]
@[simp] theorem elapse_mapTail : (elapse dt s).tmb.mapTail = s.tmb.mapTail := by obtain ⟨_, _, _, h⟩ := elapse_tmb dt s; rw [h]
@[simp] theorem elapse_mapSize : (elapse dt s).tmb.mapSize = s.tmb.mapSize := by obtain ⟨_, _, _, h⟩ := elapse_tmb dt s; rw [h]
@[simp] theorem elapse_mapBase : (elapse dt s).tmb.mapBase = s.tmb.mapBase := by obtain ⟨_, _, _, h⟩ := elapse_tmb dt s; rw [h]
theorem elapse_tol : (elapse dt s).tol = s.tol := by rw [State.tol, State.tol, elapse_plt]

end

section
variable {s : State}

/-! ### Commands (R199, R200) -/

/-- An owner's command that finds TMB free runs, unless the device is not READY. -/
theorem completes_tmbCommand {p : HPort} {i : Instr} {f : State → State} {P : State → Prop} (run : exec i s = .next (tmbCommand p f s)) (ho : Owner p s)
    (free : s.tmb.busy = false) (h : P (if s.glb.state.code < 4 then tmbStatus 9 s else f s)) : Completes i s P := by
  refine completes_owner run ho ?_
  rw [free, if_neg Bool.false_ne_true]
  exact h

/-- An image that passes has all its entries in the bytes staged (R200). -/
theorem ttParse_size {b : List Byte} {x : Timetable} (h : ttParse s b = .ok x) : ttHead + 16 * x.entries.length ≤ b.length := by
  unfold ttParse at h
  dsimp only at h
  split at h
  · cases h
  split at h
  · cases h
  split at h
  · cases h
  next size =>
  split at h
  · cases h
  split at h
  · cases h
  split at h
  · cases h
  cases h
  simp only [Bool.or_eq_true, decide_eq_true_eq, not_or, Nat.not_lt] at size
  simpa using size.2

/-- Memory with an image kept for a source (R199). -/
def ttKept (n : Nat) (x : Timetable) (s : State) : State :=
  wrMem s (s.tmb.fbBase.toNat + n * (17 * 2 ^ 20)) (s.ttStaged.take (ttHead + 16 * x.entries.length))
/-- The source is armed with it. -/
def ttArmed (n : Nat) (x : Timetable) (s : State) : State := { s with tmb.armed := tset none s.tmb.armed n (some x) }

theorem armTt_ok {n : Nat} {x : Timetable} (few : n ≤ 7) (rest : s.actPending n = false) (ok : ttParse s s.ttStaged = .ok x) :
    armTt n s = tmbStatus 0 (ttArmed n x (ttKept n x s)) := by
  rw [armTt, if_neg (Nat.not_lt.mpr few), rest, if_neg Bool.false_ne_true]
  dsimp only
  rw [ok, ttArmed, ttKept]

theorem armTt_reads {n : Nat} {x : Timetable} (few : n ≤ 7) (rest : s.actPending n = false) (ok : ttParse s s.ttStaged = .ok x) :
    (armTt n s).tmb.status = 0 ∧ (armTt n s).tmb.armed = tset none s.tmb.armed n (some x) ∧ (armTt n s).ram = (ttKept n x s).ram := by
  have status : ∀ u : State, (tmbStatus 0 (ttArmed n x u)).tmb.status = 0 ∧ (tmbStatus 0 (ttArmed n x u)).tmb.armed = tset none u.tmb.armed n (some x) ∧
    (tmbStatus 0 (ttArmed n x u)).ram = u.ram := fun _ => ⟨rfl, rfl, rfl⟩
  have kept : (ttKept n x s).tmb = s.tmb := wrMem_tmb ..
  have reads := status (ttKept n x s)
  rw [kept] at reads
  rw [armTt_ok few rest ok]
  exact reads

/-- The bytes of the image stand at its place, where memory is fitted there. -/
theorem ttKept_ram {n k a : Nat} {x : Timetable} (ok : ttParse s s.ttStaged = .ok x) (ha : a = s.tmb.fbBase.toNat + n * (17 * 2 ^ 20))
    (within : k < ttHead + 16 * x.entries.length) (fitted : a + k < s.capacity) : tget 0 (ttKept n x s).ram (a + k) = s.ttStaged.getD k 0 := by
  subst ha
  have long := ttParse_size ok
  have read := wrMem_tget s (s.tmb.fbBase.toNat + n * (17 * 2 ^ 20)) (s.ttStaged.take (ttHead + 16 * x.entries.length))
    (s.tmb.fbBase.toNat + n * (17 * 2 ^ 20) + k)
  rw [List.take_take, if_pos ⟨Nat.le_add_right .., by rw [List.length_take]; omega⟩, Nat.add_sub_cancel_left, List.getElem?_take_of_lt (by omega)] at read
  exact read.trans List.getD_eq_getElem?_getD.symm

/-- The image that ACTIVATE would take. -/
def State.ttSource (s : State) (sel : Nat) : Option Timetable := if sel == 15 then s.tmb.staged else tget none s.tmb.armed sel
theorem ttSource_armed {sel : Nat} (few : sel ≤ 7) : s.ttSource sel = tget none s.tmb.armed sel :=
  if_neg (by rw [beq_false_of_ne (by omega)]; exact Bool.false_ne_true)

/-- A source that there is none of is no source (log entry 19). -/
theorem activateTt_unnamed {sel : Nat} (many : 7 < sel) (other : sel ≠ 15) : activateTt sel s = tmbStatus 1 s := by
  rw [activateTt, decide_eq_true many, bne_iff_ne.mpr other]
  rfl

section
variable {sel : Nat} (named : sel ≤ 7 ∨ sel = 15)
include named

theorem source_known : (decide (7 < sel) && sel != 15) = false := by
  rw [Bool.and_eq_false_iff, decide_eq_false_iff_not, bne_eq_false_iff_eq]
  omega
/-- TMB_AT has to be 2 ms ahead. -/
theorem activateTt_early (early : s.tmb.at_.toNat < s.now + 2000000) : activateTt sel s = tmbStatus 6 s := by
  simp only [activateTt, source_known named, early, Bool.false_eq_true, if_false, if_true]

section
variable (time : s.now + 2000000 ≤ s.tmb.at_.toNat)
include time

theorem activateTt_none (none : s.ttSource sel = none) : activateTt sel s = tmbStatus (if sel == 15 then 8 else 7) s := by
  rw [State.ttSource] at none
  simp only [activateTt, source_known named, Nat.not_lt.mpr time, none, Bool.false_eq_true, if_false]
theorem activateTt_some {x : Timetable} (source : s.ttSource sel = some x) : activateTt sel s =
    tmbStatus 0 { s with tmb.pending := some (sel, x, s.tmb.at_.toNat) } := by
  rw [State.ttSource] at source
  simp only [activateTt, source_known named, Nat.not_lt.mpr time, source, Bool.false_eq_true, if_false]

end

end

section
variable {n : Nat} (few : n ≤ 7)
include few

theorem disarmTt_pending (waits : s.actPending n = true) : disarmTt n s = tmbStatus 10 s := by
  rw [disarmTt, if_neg (Nat.not_lt.mpr few), if_pos waits]
theorem disarmTt_rest (rest : s.actPending n = false) : disarmTt n s =
    if tget none s.tmb.armed n = none then tmbStatus 7 s else tmbStatus 0 { s with tmb.armed := tset none s.tmb.armed n none } := by
  rw [disarmTt, if_neg (Nat.not_lt.mpr few), rest, if_neg Bool.false_ne_true]
  cases tget none s.tmb.armed n <;> rfl

end

/-! ### Activation (R199, R201) -/

/-- The state in which a pending image takes over, before ADMIT is settled. -/
def activated (sel : Nat) (x : Timetable) (a : Nat) (s : State) : State :=
  { s with tmb := { s.tmb with
      old := s.tmb.active.map (fun o => (o, a + s.tol)), active := some { x with t0 := a }, pending := none, staged := if sel == 15 then none else s.tmb.staged } }

/-- At its instant the pending image becomes ACTIVE; the old one is kept for TOL. -/
theorem activation_due {sel a : Nat} {x : Timetable} (waits : s.tmb.pending = some (sel, x, a)) (due : a ≤ s.now) :
    (activation s).tmb.active = some { x with t0 := a } ∧ (activation s).tmb.old = s.tmb.active.map (fun o => (o, a + s.tol)) ∧
    (activation s).tmb.pending = none ∧ (activation s).tmb.armed = s.tmb.armed ∧ (activation s).tmb.event.getLsbD 4 = true := by
  have takes : activation s = settleAdmit (raiseTmb 4 (pruneUsed (activated sel x a s))) := by
    simp only [activation, waits, if_neg (Nat.not_lt.mpr due)]
    rfl
  have event : (activation s).tmb.event.getLsbD 4 = true := by
    rw [takes]
    refine settleAdmit_event_le ?_
    rw [raiseTmb_tmb]
    exact getLsbD_setBit_self _ (by decide)
  refine ⟨?_, ?_, ?_, ?_, event⟩ <;> rw [takes, settleAdmit_tmb, raiseTmb_tmb] <;> rfl
/-- Before its instant nothing happens. -/
theorem activation_early {sel a : Nat} {x : Timetable} (waits : s.tmb.pending = some (sel, x, a)) (early : s.now < a) : activation s = s := by
  simp only [activation, waits, if_pos early]
/-- After its grace the old image is gone. -/
theorem graceEnd_due {o : Timetable} {e : Nat} (old : s.tmb.old = some (o, e)) (due : e < s.now) :
    (graceEnd s).tmb.old = none ∧ (graceEnd s).tmb.active = s.tmb.active := by
  have gone : graceEnd s = pruneUsed { s with tmb.old := none } := by simp only [graceEnd, old, if_pos due]
  rw [gone]
  exact ⟨rfl, rfl⟩

/-! ### Congestion maps (R205) -/

theorem mapHeader_length (s : State) (n : Nat) : (mapHeader s n).length = 32 := by
  simp only [mapHeader, List.length_append, toLE_length, zeros, List.length_replicate]
theorem mapRecord_length (s : State) (p : Nat) : (mapRecord s p).length = 32 := by
  simp only [mapRecord, List.flatMap_cons, List.flatMap_nil, List.length_append, toLE_length, List.length_nil]

/-- In a ring of `n` places another place than the head is reached by fewer than `n` steps. -/
theorem ring_step_ne {h i n : Nat} (head : h < n) (some' : 0 < i) (few : i < n) : (h + i) % n ≠ h := by
  rcases Nat.lt_or_ge (h + i) n with within | past
  · rw [Nat.mod_eq_of_lt within]
    omega
  · rw [Nat.mod_eq_sub_mod past, Nat.mod_eq_of_lt (by omega)]
    omega

/-- The places of the map ring, and the records that it has room for. -/
def State.mapSlots (s : State) : Nat := 2 ^ s.tmb.mapSize.toNat
def State.mapFree (s : State) : Nat :=
  (s.tmb.mapTail.toNat % s.mapSlots + s.mapSlots - s.tmb.mapHead.toNat % s.mapSlots - 1) % s.mapSlots
/-- The records of a map: its header and one per port. -/
def mapRecords (s : State) : List (List Byte) := mapHeader s s.ports.length :: s.ports.map (mapRecord s)
theorem mapRecords_length (s : State) : (mapRecords s).length = s.ports.length + 1 := by rw [mapRecords, List.length_cons, List.length_map]
/-- The address of the ring's head. -/
def State.mapFirst (s : State) : Nat := s.tmb.mapBase.toNat + 32 * (s.tmb.mapHead.toNat % s.mapSlots)
/-- The address of a record, counted from the head. -/
def State.mapPlace (s : State) (i : Nat) : Nat := s.tmb.mapBase.toNat + 32 * ((s.tmb.mapHead.toNat % s.mapSlots + i) % s.mapSlots)
@[simp] theorem elapse_mapSlots (dt : Nat) (s : State) : (elapse dt s).mapSlots = s.mapSlots := by rw [State.mapSlots, State.mapSlots, elapse_mapSize]
@[simp] theorem elapse_mapFree (dt : Nat) (s : State) : (elapse dt s).mapFree = s.mapFree := by
  rw [State.mapFree, State.mapFree, elapse_mapSlots, elapse_mapTail, elapse_mapHead]
@[simp] theorem elapse_mapFirst (dt : Nat) (s : State) : (elapse dt s).mapFirst = s.mapFirst := by
  rw [State.mapFirst, State.mapFirst, elapse_mapBase, elapse_mapHead, elapse_mapSlots]
/-- Memory with the records in the ring. -/
def mapWritten (s : State) : State :=
  forEach (mapRecords s).zipIdx (fun r t => wrMem t (t.tmb.mapBase.toNat + 32 * ((s.tmb.mapHead.toNat % s.mapSlots + r.2) % s.mapSlots)) r.1) s

theorem mapPlace_zero (s : State) : s.mapPlace 0 = s.mapFirst := by
  rw [State.mapPlace, State.mapFirst, Nat.add_zero, Nat.mod_mod]
/-- The records after the header stand elsewhere. -/
theorem mapPlace_apart {i : Nat} (any : 0 < i) (few : i < s.mapSlots) : s.mapFirst + 32 ≤ s.mapPlace i ∨ s.mapPlace i + 32 ≤ s.mapFirst := by
  have head : s.tmb.mapHead.toNat % s.mapSlots < s.mapSlots := Nat.mod_lt _ (Nat.two_pow_pos _)
  have apart := ring_step_ne head any few
  rw [State.mapFirst, State.mapPlace]
  omega

/-- The header reads back from the head, where memory is fitted there and the ring has room. -/
theorem mapWritten_rdMem (room : s.ports.length + 1 ≤ s.mapFree) (fits : s.mapFirst + 32 ≤ s.capacity) :
    rdMem (mapWritten s) s.mapFirst 32 = mapHeader s s.ports.length := by
  have slots : s.mapFree < s.mapSlots := Nat.mod_lt _ (Nat.two_pow_pos _)
  have back : rdMem (wrMem s (s.mapPlace 0) (mapHeader s s.ports.length)) s.mapFirst 32 = mapHeader s s.ports.length := by
    have read := rdMem_wrMem s s.mapFirst (mapHeader s s.ports.length) (by rw [mapHeader_length]; exact fits)
    rw [mapHeader_length] at read
    rw [mapPlace_zero]
    exact read
  have rest : (mapWritten s).tmb = s.tmb ∧ rdMem (mapWritten s) s.mapFirst 32 = mapHeader s s.ports.length :=
    forEach_invariant (P := fun t => t.tmb = s.tmb ∧ rdMem t s.mapFirst 32 = mapHeader s s.ports.length)
      (l := (s.ports.map (mapRecord s)).zipIdx 1) (fun r hr t ⟨tmb, kept⟩ => by
        obtain ⟨low, high, record⟩ := List.mem_zipIdx (x := r.1) (i := r.2) hr
        rw [List.length_map] at high
        rw [List.getElem_map] at record
        refine ⟨tmb, (rdMem_wrMem_of_ne t _ _ _ _ ?_).trans kept⟩
        rw [tmb, record, mapRecord_length]
        exact mapPlace_apart (by omega) (by omega)) ⟨rfl, back⟩
  exact rest.2

/-- What memory reads is no matter of TMB. -/
theorem rdMem_putTmb (m : Tmb) (s : State) (a n : Nat) : rdMem { s with tmb := m } a n = rdMem s a n := rfl

theorem writeMap_room (room : s.ports.length + 1 ≤ s.mapFree) : writeMap s =
    { (mapWritten s) with tmb := { (mapWritten s).tmb with mapHead := BitVec.ofNat 24 ((s.tmb.mapHead.toNat % s.mapSlots + (s.ports.length + 1)) % s.mapSlots) } } := by
  have written : writeMap s = if s.mapFree < (mapRecords s).length then raiseTmb 5 s else
      { (mapWritten s) with tmb.mapHead := BitVec.ofNat 24 ((s.tmb.mapHead.toNat % s.mapSlots + (mapRecords s).length) % s.mapSlots) } := by
    rfl
  rw [written, mapRecords_length, if_neg (Nat.not_lt.mpr room)]
/-- A ring without room for the whole map takes none of it. -/
theorem writeMap_full (full : s.mapFree < s.ports.length + 1) : writeMap s = raiseTmb 5 s := by
  rw [← mapRecords_length] at full
  exact if_pos full

/-- The interval closes at a new multiple of the period. -/
theorem closeMap_due (new : s.now / s.mapNs * s.mapNs ≠ s.tmb.mapStart) (on : s.tmb.mapen = true) : closeMap s =
    { (writeMap s) with tmb := { (writeMap s).tmb with mapCnt := freshMap (writeMap s), mapStart := s.now / s.mapNs * s.mapNs } } := by
  rw [closeMap, beq_false_of_ne new, on]
  rfl

section
variable (new : s.now / s.mapNs * s.mapNs ≠ s.tmb.mapStart) (on : s.tmb.mapen = true)
include new on

theorem closeMap_room (room : s.ports.length + 1 ≤ s.mapFree) (fits : s.mapFirst + 32 ≤ s.capacity) :
    rdMem (closeMap s) s.mapFirst 32 = mapHeader s s.ports.length ∧
    (closeMap s).tmb.mapHead = BitVec.ofNat 24 ((s.tmb.mapHead.toNat % s.mapSlots + (s.ports.length + 1)) % s.mapSlots) ∧
    (closeMap s).tmb.mapStart = s.now / s.mapNs * s.mapNs := by
  rw [closeMap_due new on, writeMap_room room]
  refine ⟨?_, rfl, rfl⟩
  rw [rdMem_putTmb, rdMem_putTmb]
  exact mapWritten_rdMem room fits
theorem closeMap_full (full : s.mapFree < s.ports.length + 1) : (closeMap s).ram = s.ram ∧ (closeMap s).tmb.mapHead = s.tmb.mapHead ∧
    (closeMap s).tmb.event.getLsbD 5 = true ∧ (closeMap s).tmb.mapStart = s.now / s.mapNs * s.mapNs := by
  rw [closeMap_due new on, writeMap_full full, raiseTmb_tmb]
  exact ⟨raiseTmb_kept.e_ram, rfl, getLsbD_setBit_self _ (by decide), rfl⟩

end

end

end Sys2Proof.Machine

section
open Sys2Proof Sys2Proof.Machine
set_option Elab.async false

/-- Settles O49: a command answers with its status or takes its image, an image takes over at its instant, and a map is written whole or not at all. -/
theorem timetableCommandsComplete : Obligations.TimetableCommandsComplete := by
  refine ⟨fun p s ho free ready rest => ?_, fun p s ho free early => ?_, fun p n x a s ho free ready few rest ok ha => ?_,
    fun p n s ho free ready => ?_, fun p n s ho free ready few => ?_, fun dt sel x a s waits due => ?_, fun dt sel x a s waits early => ?_,
    fun dt o e s old due => ?_, fun dt u h n s hu new on hn hh room fits => ?_, fun dt u h n s hu new on hn hh full => ?_⟩
  · refine completes_tmbCommand rfl ho free ?_
    rw [if_neg (Nat.not_lt.mpr ready), loadTt, rest, if_neg Bool.false_ne_true]
    exact ⟨fun x ok => by rw [ok]; rfl, fun c bad => by rw [bad]; rfl⟩
  · refine completes_tmbCommand rfl ho free ?_
    rw [if_pos early]
    rfl
  · refine completes_tmbCommand rfl ho free ?_
    obtain ⟨status, armed, ram⟩ := armTt_reads few rest ok
    rw [if_neg (Nat.not_lt.mpr ready), armed, ram]
    exact ⟨status, fun k => tget_tset none s.tmb.armed n.toNat k (some x), fun k within fitted => ttKept_ram ok ha within fitted⟩
  · refine completes_tmbCommand rfl ho free ?_
    rw [if_neg (Nat.not_lt.mpr ready)]
    have fifteen : ∀ {m : BitVec 4}, m = 15 → m.toNat = 15 := fun h => by rw [h]; rfl
    refine ⟨fun many other => ?_, fun named early => ?_, fun time h15 none => ?_, fun time few none => ?_, fun x time h15 source => ?_, fun x time few source => ?_⟩
    · rw [activateTt_unnamed many (fun h => other (BitVec.eq_of_toNat_eq h))]
      rfl
    · rw [activateTt_early (named.imp_right fifteen) early]
      rfl
    · rw [fifteen h15, activateTt_none (.inr rfl) time none]
      rfl
    · rw [activateTt_none (.inl few) time ((ttSource_armed few).trans none), if_neg (by rw [beq_false_of_ne (by omega)]; exact Bool.false_ne_true)]
      rfl
    · rw [fifteen h15, activateTt_some (.inr rfl) time source]
      rfl
    · rw [activateTt_some (.inl few) time ((ttSource_armed few).trans source)]
      rfl
  · refine completes_tmbCommand rfl ho free ?_
    rw [if_neg (Nat.not_lt.mpr ready)]
    refine ⟨fun waits => ?_, fun rest none => ?_, fun rest armed => ?_⟩
    · rw [disarmTt_pending few waits]
      rfl
    · rw [disarmTt_rest few rest, if_pos none]
      rfl
    · rw [disarmTt_rest few rest, if_neg armed]
      exact ⟨rfl, fun k => tget_tset none s.tmb.armed n.toNat k none⟩
  · have takes := activation_due (s := elapse dt s) ((elapse_pending dt s).trans waits) due
    rw [elapse_active, elapse_armed, elapse_tol] at takes
    exact completes_next rfl takes
  · exact completes_next rfl (activation_early ((elapse_pending dt s).trans waits) early)
  · have gone := graceEnd_due (s := elapse dt s) ((elapse_old dt s).trans old) due
    rw [elapse_active] at gone
    exact completes_next rfl gone
  · subst hu hn hh
    have closed := closeMap_room (s := elapse dt s) (by simpa using new) (by simpa using on) (by rw [elapse_ports, elapse_mapFree]; exact room)
      (by rw [elapse_mapFirst, elapse_capacity]; exact fits)
    rw [elapse_ports, elapse_mapFirst, elapse_mapHead, elapse_mapSlots] at closed
    exact completes_next rfl closed
  · subst hu hn hh
    have skipped := closeMap_full (s := elapse dt s) (by simpa using new) (by simpa using on) (by rw [elapse_ports, elapse_mapFree]; exact full)
    rw [elapse_ram, elapse_mapHead] at skipped
    exact completes_next rfl skipped

end

/-! SUPPORT. What leaves every Landing as it is (R230, R251, R363): of LND only the completion ring, the events, the fences with their markers, and the slots taken out of use change. Each theorem is checked where it stands, in this part and the next (Elab.async off): waiting for the files before, many at once would each hold a thread's memory. -/
namespace Sys2Proof.Machine
open Sys2Proof
set_option Elab.async false

/-- Of LND only the head of the completion ring, the events, the fences and the marker copies awaited, and the slots quarantined changed: no context, and nothing that waits for one. -/
structure SameLandings (s t : State) : Prop where
  lnd : t.lnd = { s.lnd with
    quarantined := t.lnd.quarantined, ringHead := t.lnd.ringHead, event := t.lnd.event, fences := t.lnd.fences, marks := t.lnd.marks, nextMark := t.lnd.nextMark }

namespace SameLandings
variable {s t u : State}

theorem refl (s : State) : SameLandings s s := ⟨rfl⟩
theorem trans (h : SameLandings s t) (k : SameLandings t u) : SameLandings s u := ⟨by rw [k.lnd, h.lnd]⟩
theorem of_eq (h : t.lnd = s.lnd) : SameLandings s t := ⟨by rw [h]⟩
theorem of_kept {L : List Blk} (k : Kept L s t) (hl : Blk.lnd ∉ L := by decide) : SameLandings s t := of_eq (k.e_lnd hl)
theorem kept {L : List Blk} (h : SameLandings s t) (k : Kept L t u) (hl : Blk.lnd ∉ L := by decide) : SameLandings s u := h.trans (of_kept k hl)
theorem ite {c : Prop} [Decidable c] (h : SameLandings s t) (k : SameLandings s u) : SameLandings s (if c then t else u) := by
  split
  · exact h
  · exact k
theorem ofFst {α : Type} {a : α} {x : State × α} (e : x = (t, a)) (h : SameLandings s x.1) : SameLandings s t := by
  subst e
  exact h
theorem forEach {α : Type} {l : List α} {f : α → State → State} (hf : ∀ a t, SameLandings t (f a t)) (h : SameLandings s t) :
    SameLandings s (forEach l f t) :=
  forEach_invariant (P := SameLandings s) (fun a _ t k => k.trans (hf a t)) h

variable (h : SameLandings s t)
include h

theorem ctxs : t.lnd.ctxs = s.lnd.ctxs := by rw [h.lnd]
theorem held : t.lnd.held = s.lnd.held := by rw [h.lnd]
theorem pool : t.lnd.pool = s.lnd.pool := by rw [h.lnd]
theorem tombs : t.lnd.tombs = s.lnd.tombs := by rw [h.lnd]
theorem backUsed : t.lnd.backUsed = s.lnd.backUsed := by rw [h.lnd]
theorem ctx (k : Nat) : t.ctx k = s.ctx k := by rw [State.ctx, State.ctx, h.ctxs]

end SameLandings

/-! ### Parts that leave service (R363) -/

section
variable {s : State}

theorem drainNow_sameLandings {kind i : Nat} : SameLandings s (drainNow kind i s) := by
  unfold drainNow
  split
  · exact .of_kept drainLane_kept
  · split
    · exact .of_kept drainLane_kept
    · exact .refl s
  · exact .of_eq rfl
  · dsimp only
    split <;> exact ⟨rfl⟩

theorem drainPart_sameLandings {kind i : Nat} : SameLandings s (drainPart kind i s) := by
  rw [drainPart]
  refine .ite (.kept (.trans (.of_kept State.modPart_kept) drainNow_sameLandings) raiseCruise_kept) ?_
  exact .kept (.of_kept State.modPart_kept) raiseCruise_kept

theorem crossed_sameLandings {kind i before after : Nat} : SameLandings s (crossed kind i before after s) := by
  have logged (v : Word) (t : State) : SameLandings t { t with res.cruiseLog := v } := .of_eq rfl
  dsimp only [crossed]
  refine SameLandings.trans (.ite (.kept (.trans (.of_kept State.modPart_kept) (logged _ _)) raiseCruise_kept) (.refl s)) (.ite ?_ (.refl _))
  exact .kept (.trans (logged _ _) (.ite (.refl _) drainPart_sameLandings)) saveScores_kept

theorem addPenalty_sameLandings {kind i w : Nat} : SameLandings s (addPenalty kind i w s) := by
  rw [addPenalty]
  exact (SameLandings.of_kept State.modPart_kept).trans crossed_sameLandings

end

/-! ### Records and fences (R230, R251, R255) -/

section
variable {s : State}

theorem raiseLnd_sameLandings {i : Nat} : SameLandings s (raiseLnd i s) := ⟨rfl⟩
theorem modFences_sameLandings {f : Fence → Fence} : SameLandings s (modFences f s) := ⟨rfl⟩

theorem lndRecord_sameLandings {words : List Nat} {msi : Bool} : SameLandings s (lndRecord words msi s) := by
  have headed (v : BitVec 20) (t : State) : SameLandings t { t with lnd.ringHead := v } := ⟨rfl⟩
  dsimp only [lndRecord]
  refine .ite (.trans (.of_kept count_kept) raiseLnd_sameLandings) ?_
  have recorded (a : Nat) (b : List Byte) (v : BitVec 20) : SameLandings s (raiseLnd 0 { wrMem s a b with lnd.ringHead := v }) :=
    ((SameLandings.of_kept wrMem_kept).trans (headed _ _)).trans raiseLnd_sameLandings
  exact .ite ((recorded _ _ _).kept fire_kept) (recorded _ _ _)

theorem ctxRecord_sameLandings {event cid : Nat} {msi : Bool} : SameLandings s (ctxRecord event cid msi s) := by
  unfold ctxRecord
  split
  · exact .refl s
  · exact lndRecord_sameLandings

theorem settleFences_sameLandings : SameLandings s (settleFences s) := by
  have fewer (l : List Fence) : SameLandings s { s with lnd.fences := l } := ⟨rfl⟩
  rw [settleFences]
  exact .forEach (fun _ _ => lndRecord_sameLandings) (fewer _)

theorem preEnter_sameLandings {p : Pkt} : SameLandings s (preEnter p s) := modFences_sameLandings
theorem preLeave_sameLandings {p : Pkt} : SameLandings s (preLeave p s) := by
  rw [preLeave]
  exact .ite (.refl s) (modFences_sameLandings.trans settleFences_sameLandings)
theorem consumeMarker_sameLandings {ids : List Nat} : SameLandings s (consumeMarker ids s) := modFences_sameLandings.trans settleFences_sameLandings

end

/-! ### Packets written to queues, and discards (R84, R132) -/

section
variable {s : State}

theorem consumeFront_sameLandings {key : Nat} : SameLandings s (consumeFront key s) := by
  rw [consumeFront]
  exact .ite (.refl s) (.forEach (fun _ _ => consumeMarker_sameLandings) (.of_kept State.setQueue_kept))

theorem settleQueue_sameLandings {port tc : Nat} {items : List QItem} {newHead : Bool} : SameLandings s (settleQueue port tc items newHead s) := by
  have consumed : SameLandings s (consumeFront (queueKey port tc) (s.modQueue (queueKey port tc) (fun q => { q with items := items }))) :=
    (SameLandings.of_kept State.modQueue_kept).trans consumeFront_sameLandings
  dsimp only [settleQueue]
  split
  · exact .ite (consumed.kept State.modQueue_kept) consumed
  · exact consumed

theorem pushMarker_sameLandings {port tc : Nat} {ids : List Nat} : SameLandings s (pushMarker port tc ids s) := by
  rw [pushMarker]
  exact .ite (.refl s) ((modFences_sameLandings.kept pushItem_kept).trans consumeFront_sameLandings)

theorem discard_sameLandings {dcode : Nat} {p : Pkt} {out : Option Nat} : SameLandings s (discard dcode p out s) := by
  rw [discard]
  have counted : SameLandings s (capture .discard dcode p out (countDiscard dcode p.inPort s)) := (SameLandings.of_kept countDiscard_kept).kept capture_kept
  exact ((counted.trans preLeave_sameLandings).kept leaveCount_kept).kept returnCredit_kept

theorem closeComb_sameLandings {id : Nat} : SameLandings s (closeComb id s) := by
  dsimp only [closeComb]
  split
  · exact .refl s
  · refine .ite (.refl s) (.ite (.of_kept modComb_kept) ?_)
    split
    · exact .refl s
    · refine .ite ?_ (.kept (.of_kept State.setQueue_kept) modComb_kept)
      exact (settleQueue_sameLandings.kept freeComb_kept).kept discardQ_kept

theorem mergeInto_sameLandings {e : CombEnt} {port : Nat} {p : Pkt} : SameLandings s (mergeInto e port p s) := by
  have merged : SameLandings s (modComb e.id (fun e => { e with reqs := e.reqs ++ [{ p with cred := false, counted := false }] })
      (returnCredit p (leaveCount p (preLeave p (count (evNo 32 0x002 port) s))))) :=
    ((((SameLandings.of_kept count_kept).trans preLeave_sameLandings).kept leaveCount_kept).kept returnCredit_kept).kept modComb_kept
  rw [mergeInto]
  exact .ite (merged.trans closeComb_sameLandings) merged

theorem putQueue_sameLandings {port : Nat} {mk : Pkt → QItem} {pre : List Nat} {p : Pkt} : SameLandings s (putQueue port mk pre p s) := by
  have credited : SameLandings s (returnCredit p (if p.counted then s else enterCount p.h.epoch s)) :=
    .kept (.ite (.refl s) (.of_kept enterCount_kept)) returnCredit_kept
  dsimp only [putQueue]
  generalize returnCredit p _ = t at credited ⊢
  refine SameLandings.trans (SameLandings.trans (SameLandings.kept ?_ capture_kept) pushMarker_sameLandings) preLeave_sameLandings
  exact ((credited.kept pushItem_kept).kept count_kept).kept countN_kept

theorem noteWrite_sameLandings {port : Nat} {p : Pkt} : SameLandings s (noteWrite port p s) := by
  have noted (l : List CombEnt) (t : State) : SameLandings t { t with mem.ents := l } := .of_eq rfl
  dsimp only [noteWrite]
  exact SameLandings.trans (.ite (.forEach (fun _ _ => closeComb_sameLandings) (.refl s)) (.refl s)) (noted _ _)

theorem schedOverflow_sameLandings {port : Nat} {p : Pkt} : SameLandings s (schedOverflow port p s) := by
  rw [schedOverflow]
  exact (((SameLandings.of_kept count_kept).kept modMap_kept).kept raiseSwc_kept).trans discard_sameLandings

theorem writeMarkerCopies_sameLandings {spoint b : Nat} {p : Pkt} : SameLandings s (writeMarkerCopies spoint b p s) := by
  have marked (l : List MarkWait) (n : Nat) (t : State) : SameLandings t { t with lnd.marks := l, lnd.nextMark := n } := ⟨rfl⟩
  dsimp only [writeMarkerCopies]
  refine .kept (.kept (.trans (.forEach (fun port t => ?_) ((SameLandings.of_kept openSpray_kept).trans (marked _ _ _))) preLeave_sameLandings)
    leaveCount_kept) returnCredit_kept
  have numbered (c : SprayCtr) (c2 : Bool) : SameLandings t (nextSeq spoint c c2 t).1 := .of_kept nextSeq_kept
  refine .ite ((numbered _ _).trans discard_sameLandings) (.ite ?_ ((numbered _ _).trans schedOverflow_sameLandings))
  exact ((numbered _ _).trans noteWrite_sameLandings).trans putQueue_sameLandings

theorem writeQueue_sameLandings {port : Nat} {p : Pkt} : SameLandings s (writeQueue port p s) := by
  have opened (n : Nat) (l : List CombEnt) (t : State) : SameLandings t { t with mem.nextEnt := n, mem.ents := l } := .of_eq rfl
  have noted : SameLandings s (noteWrite port p s) := noteWrite_sameLandings
  dsimp only [writeQueue]
  split
  · exact mergeInto_sameLandings
  · refine .ite (noted.trans putQueue_sameLandings) (.ite ((noted.kept count_kept).trans putQueue_sameLandings) ?_)
    exact ((noted.trans (opened _ _ _)).kept count_kept).trans putQueue_sameLandings

theorem writeHop_sameLandings {spoint : Nat} {hop : Hop} {port : Nat} {p : Pkt} : SameLandings s (writeHop spoint hop port p s) := by
  unfold writeHop
  split
  · next b =>
    split
    · exact (SameLandings.of_kept useBucket_kept).trans writeQueue_sameLandings
    · have sprayed : SameLandings s (openSpray spoint p.h b s).1 := .of_kept openSpray_kept
      dsimp only
      generalize openSpray spoint p.h b s = o at sprayed ⊢
      have touched (l : Tab (List SprayCtr)) (t : State) : SameLandings t { t with swc.spray := l } := .of_eq rfl
      have turned (l : Tab Nat) (t : State) : SameLandings t { t with swc.rr := l } := .of_eq rfl
      refine .ite ?_ ?_
      · exact ((sprayed.trans (touched _ _)).kept useBucket_kept).trans writeQueue_sameLandings
      · exact ((sprayed.kept nextSeq_kept).trans (turned _ _)).trans writeQueue_sameLandings
  · exact writeQueue_sameLandings

theorem writeOut_sameLandings {spoint : Nat} {hop : Hop} {port : Nat} {p : Pkt} : SameLandings s (writeOut spoint hop port p s) := by
  unfold writeOut
  split
  · exact writeMarkerCopies_sameLandings
  · exact writeHop_sameLandings

theorem waitProd_sameLandings {stamp : Bool} {notBefore : Nat} {hop : Hop} {p : Pkt} : SameLandings s (waitProd stamp notBefore hop p s) := by
  have waits (l : List Waiting) (t : State) : SameLandings t { t with swc.prod := l } := .of_eq rfl
  dsimp only [waitProd]
  exact SameLandings.trans (.ite (.refl s) (.trans (.of_kept enterCount_kept) preEnter_sameLandings)) (waits _ _)

theorem originate_sameLandings {stamp : Bool} {notBefore : Nat} {hop : Hop} {p : Pkt} : SameLandings s (originate stamp notBefore hop p s) := by
  rw [originate]
  refine .ite discard_sameLandings (.ite (.refl s) (.ite discard_sameLandings ?_))
  split
  · exact writeOut_sameLandings
  · exact waitProd_sameLandings

theorem originateAny_sameLandings {stamp : Bool} {notBefore : Nat} {hop : Hop} {p : Pkt} : SameLandings s (originateAny stamp notBefore hop p s) := by
  rw [originateAny]
  refine .ite originate_sameLandings (.ite originate_sameLandings (.ite originate_sameLandings (.ite waitProd_sameLandings ?_)))
  split
  · exact (SameLandings.of_kept count_kept).trans originate_sameLandings
  · exact waitProd_sameLandings
  · split
    · exact (SameLandings.of_kept addUsed_kept).trans originate_sameLandings
    · exact waitProd_sameLandings

end

/-! ### The tables read (R133, R134) -/

section
variable {s : State}

theorem eccError_sameLandings {tbl : Nat} {b : Bool} {i : Nat} : SameLandings s (eccError tbl b i s) := by
  have logged (v : Word) : SameLandings s { s with fwd.eccLog := v } := .of_eq rfl
  rw [eccError]
  exact ((logged _).kept raiseFwd_kept).trans addPenalty_sameLandings

theorem correctAt_sameLandings {tbl : Nat} {b : Bool} {i : Nat} : SameLandings s (correctAt tbl b i s) := by
  have cleared (v : Tab Bool) : SameLandings s { s with fwd.soft := v } := .of_eq rfl
  rw [correctAt]
  exact .ite (((cleared _).kept countX_kept).trans addPenalty_sameLandings) (.refl s)

theorem readEnts_sameLandings {b : Bool} (l : List (Nat × Nat)) : SameLandings s (readEnts b l s).1 := by
  induction l generalizing s with
  | nil => exact .refl s
  | cons e r ih =>
    rw [readEnts]
    split
    · exact eccError_sameLandings
    · exact correctAt_sameLandings.trans ih

theorem readTrie_sameLandings {b : Bool} {eid : Word} {district : Nat} : SameLandings s (readTrie b eid district s).1 := by
  have walked := readEnts_sameLandings (s := s) (b := b) (trieWalk s b eid).reads
  dsimp only [readTrie]
  split
  · next t h => exact walked.ofFst h
  · next t h =>
    have counted := (walked.ofFst h).kept (countN_kept (ev := evNo 12 0x011 district) (n := (trieWalk s b eid).errs))
    split
    · exact counted
    · next i _ =>
      have last := counted.trans (readEnts_sameLandings (b := b) [(5, i)])
      split
      · next u h => exact last.ofFst h
      · next u h => exact last.ofFst h

theorem resolve_sameLandings {b : Bool} {eid : Word} {district : Nat} : SameLandings s (resolve b eid district s).1 := by
  have read := readEnts_sameLandings (s := s) (b := b) [(6, eid.toNat)]
  dsimp only [resolve]
  split
  · next t h => exact read.ofFst h
  · next t h =>
    have walked : SameLandings s (readTrie b eid district t).1 := (read.ofFst h).trans readTrie_sameLandings
    split
    · split
      · exact read.ofFst h
      · exact walked
    · exact walked

theorem lookupDst_sameLandings {b : Bool} {h : Hdr} {district : Nat} : SameLandings s (lookupDst s b h district).1 := by
  have read := readEnts_sameLandings (s := s) (b := b) [(6, h.dst.toNat)]
  dsimp only [lookupDst]
  split
  · next t e => exact read.ofFst e
  · next t e =>
    split
    · exact read.ofFst e
    · have resolved : SameLandings s (resolve b h.dst district t).1 := (read.ofFst e).trans resolve_sameLandings
      split
      · next e => exact resolved.ofFst e
      · next e => exact resolved.ofFst e

theorem lookupSrc_sameLandings {b : Bool} {h : Hdr} {district : Nat} : SameLandings s (lookupSrc s b h district).1 := by
  have read := readEnts_sameLandings (s := s) (b := b) [(6, h.src.toNat)]
  dsimp only [lookupSrc]
  split
  · next t e => exact read.ofFst e
  · next t e =>
    split
    · exact read.ofFst e
    · split
      · have group := (read.ofFst e).trans (readEnts_sameLandings (b := b) [(8, h.ctx % 65536)])
        split
        · next e => exact group.ofFst e
        · next e =>
          split
          · exact group.ofFst e
          · exact group.ofFst e
      · exact (read.ofFst e).trans lookupDst_sameLandings

theorem lookup_sameLandings {h : Hdr} {district : Nat} : SameLandings s (lookup s h district).1 := by
  dsimp only [lookup]
  split
  · exact .refl s
  · split
    · exact .refl s
    · split
      · exact lookupSrc_sameLandings
      · have job := readEnts_sameLandings (s := s) (b := h.epoch) [(10, h.job.toNat)]
        split
        · next e => exact job.ofFst e
        · next e =>
          split
          · exact job.ofFst e
          · split
            · exact job.ofFst e
            · exact (job.ofFst e).trans lookupSrc_sameLandings

theorem readMember_sameLandings {b : Bool} {i : Nat} : SameLandings s (readMember b i s).1 := by
  have list := readEnts_sameLandings (s := s) (b := b) [(9, i)]
  dsimp only [readMember]
  split
  · next t e => exact list.ofFst e
  · next t e =>
    split
    · exact list.ofFst e
    · have entry := (list.ofFst e).trans (readEnts_sameLandings (b := b) [(6, (tget Ent2.zero t.fwd.repl i).w0.toNat)])
      split
      · next e => exact entry.ofFst e
      · next e => exact entry.ofFst e

theorem sendControl_sameLandings {district : Nat} {dst : Word} {opcode arg ctx job instant : Nat} :
    SameLandings s (sendControl district dst opcode arg ctx job instant s) := by
  dsimp only [sendControl]
  refine .ite (.refl s) (.ite discard_sameLandings ?_)
  have looked := lookup_sameLandings (s := s) (h := ctlHdr s dst) (district := district)
  split
  · next e => exact (looked.ofFst e).trans discard_sameLandings
  · next e => exact looked.ofFst e
  · next e => exact (looked.ofFst e).trans originate_sameLandings
  · next e => exact looked.ofFst e

theorem sendUp_sameLandings {home : Nat} {p : Pkt} : SameLandings s (sendUp home p s).1 := by
  have looked := lookup_sameLandings (s := s) (h := p.h) (district := home)
  dsimp only [sendUp]
  split
  · next e => exact (looked.ofFst e).trans discard_sameLandings
  · next e => exact looked.ofFst e
  · next e => exact (looked.ofFst e).trans originateAny_sameLandings
  · next e => exact looked.ofFst e

theorem ackUp_sameLandings {c : Ctx} : SameLandings s (ackUp c s).1 := by
  dsimp only [ackUp]
  split
  · dsimp only
    exact discard_sameLandings
  · exact sendUp_sameLandings

theorem takenLand_sameLandings {p : Pkt} : SameLandings s (takenLand p s) := (preLeave_sameLandings.kept leaveCount_kept).kept returnCredit_kept

theorem dropUnsent_sameLandings {cid : Nat} : SameLandings s (dropUnsent cid s) := by
  have fewer (l : List Waiting) : SameLandings s { s with swc.prod := l } := .of_eq rfl
  dsimp only [dropUnsent]
  exact .forEach (fun _ _ => preLeave_sameLandings.kept leaveCount_kept) (fewer _)

end

end Sys2Proof.Machine

/-! SUPPORT. Tasks of Landings (R226, R228, R235): which tasks run, and what no task undoes of a context. -/
namespace Sys2Proof.Machine
open Sys2Proof
set_option Elab.async false

/-! ### Tasks, one by one -/

/-- What one task does, and what it sets off. -/
def runTask (t : LTask) (s : State) : State × List LTask :=
  match t with
  | .deliver p => deliverOne p s
  | .progress c => progressCtx c s
  | .trigger c => triggerCtx c s

section
variable {s u v : State} {t t' : LTask}

theorem runTasks_nil (fuel : Nat) (s : State) : runTasks fuel [] s = s := by cases fuel <;> rfl
theorem runTasks_cons (fuel : Nat) (t : LTask) (rest : List LTask) (s : State) :
    runTasks (fuel + 1) (t :: rest) s = runTasks fuel (rest ++ (runTask t s).2) (runTask t s).1 := by cases t <;> rfl

/-- The bound on the tasks lets at least two run. -/
theorem landTasks_runs (l : List LTask) (s : State) : ∃ fuel, landTasks l s = runTasks (fuel + 2) l s := by
  have two : 2 ≤ 2 ^ 24 * (s.lnd.ctxs.length + s.lnd.pool.length + s.lnd.held.length + l.length + 2) := by omega
  obtain ⟨fuel, h⟩ := Nat.exists_eq_add_of_le' two
  exact ⟨fuel, by rw [landTasks, h]⟩

theorem landTasks_nil (s : State) : landTasks [] s = s := runTasks_nil _ s
/-- A task that sets nothing off. -/
theorem landTasks_one (h : runTask t s = (u, [])) : landTasks [t] s = u := by
  obtain ⟨fuel, run⟩ := landTasks_runs [t] s
  rw [run, runTasks_cons, h]
  exact runTasks_nil _ u
/-- A task that sets one off, which sets nothing off. -/
theorem landTasks_two (h : runTask t s = (u, [t'])) (h' : runTask t' u = (v, [])) : landTasks [t] s = v := by
  obtain ⟨fuel, run⟩ := landTasks_runs [t] s
  rw [run, runTasks_cons, h, List.nil_append, runTasks_cons, h']
  exact runTasks_nil _ v

end

/-! ### What no task undoes of a context -/

/-- The descriptor and the withdrawals stay, and a hold that has ended stays ended unless the context rearms (R228, R235). -/
structure CtxLasts (c c' : Ctx) : Prop where
  d : c'.d = c.d
  withdrawn : c'.withdrawn = c.withdrawn
  holdOff : c.d.persist = false → c.holdOff = true → c'.holdOff = true

namespace CtxLasts
variable {a b c : Ctx}

theorem refl (c : Ctx) : CtxLasts c c := ⟨rfl, rfl, fun _ h => h⟩
theorem trans (h : CtxLasts a b) (k : CtxLasts b c) : CtxLasts a c :=
  ⟨k.d.trans h.d, k.withdrawn.trans h.withdrawn, fun p o => k.holdOff (h.d ▸ p) (h.holdOff p o)⟩
/-- A change of a chunk is none of those. -/
theorem setChunk (c : Ctx) (k : Nat) (ch : Chunk) : CtxLasts c (c.setChunk k ch) := ⟨rfl, rfl, fun _ h => h⟩
theorem foldChunks (l : List Nat) (f : Ctx → Nat → Chunk) (c : Ctx) : CtxLasts c (l.foldl (fun c k => c.setChunk k (f c k)) c) := by
  induction l generalizing c with
  | nil => exact refl c
  | cons k r ih => exact (setChunk c k _).trans (ih _)

end CtxLasts

/-- Every context of the later state was one of the earlier, and lasts. -/
def CtxsLast (s t : State) : Prop := ∀ k c', t.ctx k = some c' → ∃ c, s.ctx k = some c ∧ CtxLasts c c'

namespace CtxsLast
variable {s t u : State}

theorem of_ctx (h : ∀ k, t.ctx k = s.ctx k) : CtxsLast s t := fun k c' e => ⟨c', by rw [← h, e], .refl c'⟩
theorem refl (s : State) : CtxsLast s s := of_ctx fun _ => rfl
theorem trans (h : CtxsLast s t) (k : CtxsLast t u) : CtxsLast s u := by
  intro n c'' e
  obtain ⟨c', e', l'⟩ := k n c'' e
  obtain ⟨c, e'', l⟩ := h n c' e'
  exact ⟨c, e'', l.trans l'⟩
theorem same (h : CtxsLast s t) (k : SameLandings t u) : CtxsLast s u := h.trans (of_ctx k.ctx)
theorem of_same (k : SameLandings s t) : CtxsLast s t := of_ctx k.ctx
theorem of_ctxs (h : t.lnd.ctxs = s.lnd.ctxs) : CtxsLast s t := of_ctx fun k => by rw [State.ctx, State.ctx, h]
theorem of_kept {L : List Blk} (k : Kept L s t) (hl : Blk.lnd ∉ L := by decide) : CtxsLast s t := of_same (.of_kept k hl)
theorem kept {L : List Blk} (h : CtxsLast s t) (k : Kept L t u) (hl : Blk.lnd ∉ L := by decide) : CtxsLast s u := h.trans (of_kept k hl)
theorem ite {c : Prop} [Decidable c] (h : CtxsLast s t) (k : CtxsLast s u) : CtxsLast s (if c then t else u) := by
  split
  · exact h
  · exact k
theorem iteFst {α : Type} {a b : α} {c : Prop} [Decidable c] (h : CtxsLast s t) (k : CtxsLast s u) : CtxsLast s (if c then (t, a) else (u, b)).1 := by
  split
  · exact h
  · exact k
theorem ofFst {α : Type} {a : α} {x : State × α} (e : x = (t, a)) (h : CtxsLast s x.1) : CtxsLast s t := by
  subst e
  exact h
theorem forEach {α : Type} {l : List α} {f : α → State → State} (hf : ∀ a t, CtxsLast t (f a t)) (h : CtxsLast s t) : CtxsLast s (forEach l f t) :=
  forEach_invariant (P := CtxsLast s) (fun a _ t k => k.trans (hf a t)) h

/-- Another context in the place of one that it follows on, or none. -/
theorem put {k : Nat} {v : Option Ctx} (h : ∀ c', v = some c' → ∃ c, s.ctx k = some c ∧ CtxLasts c c') : CtxsLast s (s.setCtx k v) := by
  intro n c' e
  by_cases hn : n = k
  · rw [hn, setCtx_ctx_self] at e
    rw [hn]
    exact h c' e
  · rw [setCtx_ctx_of_ne _ _ hn] at e
    exact ⟨c', e, .refl c'⟩
theorem setCtx {k : Nat} {c c' : Ctx} (hc : s.ctx k = some c) (h : CtxLasts c c') : CtxsLast s (s.setCtx k (some c')) :=
  put fun _ e => ⟨c, hc, Option.some.inj e ▸ h⟩
theorem clear (k : Nat) : CtxsLast s (s.setCtx k none) := put fun _ e => nomatch e
theorem modCtx_of {k : Nat} {f : Ctx → Ctx} (h : ∀ c, s.ctx k = some c → CtxLasts c (f c)) : CtxsLast s (s.modCtx k f) :=
  put fun c' e => by
    obtain ⟨c, hc, rfl⟩ := Option.map_eq_some_iff.mp e
    exact ⟨c, hc, h c hc⟩
theorem modCtx {k : Nat} {f : Ctx → Ctx} (h : ∀ c, CtxLasts c (f c)) : CtxsLast s (s.modCtx k f) := modCtx_of fun c _ => h c
theorem modChunk {cid k : Nat} {f : Chunk → Chunk} : CtxsLast s (modChunk cid k f s) := modCtx fun c => .setChunk c k _

end CtxsLast

/-! ### Residency, chunks and results (R227, R228, R237) -/

section
variable {s : State}

theorem evictFor_ctxsLast {d : Nat} {l : List (Nat × Nat × Nat)} {need : Nat} : CtxsLast s (evictFor d l need s) := by
  induction l generalizing s need with
  | nil => exact .refl s
  | cons e r ih =>
    rw [evictFor]
    refine .ite (.refl s) (.trans (.kept ?_ count_kept) ih)
    exact .modCtx fun c => ⟨rfl, rfl, fun _ h => h⟩

theorem touchCtx_ctxsLast {cid : Nat} : CtxsLast s (touchCtx cid s) := by
  dsimp only [touchCtx]
  split
  · exact .refl s
  · next c hc =>
    have active : CtxsLast s (s.setCtx cid (some { c with active := s.clk })) := .setCtx hc ⟨rfl, rfl, fun _ h => h⟩
    exact .ite active (.ite active ((active.trans evictFor_ctxsLast).trans (.modCtx fun c => ⟨rfl, rfl, fun _ h => h⟩)))

theorem openChunk_ctxsLast {cid k : Nat} : CtxsLast s (openChunk cid k s) := by
  dsimp only [openChunk]
  split
  · exact .refl s
  · next c hc => exact .ite (.refl s) (.setCtx hc (.setChunk c k _))

theorem shortCopy_ctxsLast {cid group : Nat} {p : Pkt} {out : Option Nat} : CtxsLast s (shortCopy cid group p out s) := by
  have counted (v : Tab GroupEnt) (t : State) : CtxsLast t { t with fwd.group := v } := .of_ctxs rfl
  rw [shortCopy]
  exact (((CtxsLast.of_kept countDiscard_kept).kept capture_kept).trans (counted _ _)).trans (.modCtx fun c => ⟨rfl, rfl, fun _ h => h⟩)

theorem sendGroup_ctxsLast {cid k : Nat} {t : Stage} {payload : List Byte} : CtxsLast s (sendGroup cid k t payload s) := by
  dsimp only [sendGroup]
  split
  · exact .refl s
  · have read := CtxsLast.of_same (readEnts_sameLandings (s := s) (b := s.fwd.cur) [(8, t.c.toNat % 65536)])
    split
    · next e => exact (read.ofFst e).same discard_sameLandings
    · next u e =>
      refine .ite ((read.ofFst e).same discard_sameLandings) (.forEach (fun i v => ?_) (read.ofFst e))
      have member := CtxsLast.of_same (readMember_sameLandings (s := v) (b := v.fwd.cur) (i := i))
      split
      · next e => exact (member.ofFst e).same discard_sameLandings
      · next e => exact member.ofFst e
      · next e =>
        refine .ite ((member.ofFst e).trans shortCopy_ctxsLast) (.ite ((member.ofFst e).same discard_sameLandings) ?_)
        exact (member.ofFst e).same originateAny_sameLandings

theorem sendNow_ctxsLast {cid k : Nat} {t : Stage} {payload : List Byte} : CtxsLast s (sendNow cid k t payload s).1 := by
  dsimp only [sendNow]
  split
  · exact .refl s
  · exact .iteFst sendGroup_ctxsLast (.iteFst (.of_same discard_sameLandings) (.of_same sendUp_sameLandings))

theorem sendStage_ctxsLast {cid k i : Nat} {payload : List Byte} : CtxsLast s (sendStage cid k i payload s).1 := by
  have holds (l : List HeldRes) (t : State) : CtxsLast t { t with lnd.held := l } := .of_ctxs rfl
  dsimp only [sendStage]
  split
  · exact .refl s
  · split
    · exact .refl s
    · have late (c : Prop) [Decidable c] : CtxsLast s (if c then ctxRecord 3 cid false (s.modCtx cid (fun c => { c with lateRel := true })) else s) := by
        refine .ite (.same ?_ ctxRecord_sameLandings) (.refl s)
        exact .modCtx fun c => ⟨rfl, rfl, fun _ h => h⟩
      exact .iteFst ((late _).trans (holds _ _)) ((late _).trans sendNow_ctxsLast)

end

/-! ### Stages of a chunk (R226, R235) -/

section
variable {s : State}

theorem runStages_ctxsLast {cid k : Nat} (l : List Nat) : CtxsLast s (runStages cid k l s).1 := by
  induction l generalizing s with
  | nil => exact .modChunk
  | cons i r ih =>
    rw [runStages]
    split
    · exact .refl s
    · split
      · exact .refl s
      · split
        · exact CtxsLast.modChunk.kept putItem_kept
        · exact (CtxsLast.modChunk.kept addExc_kept).trans ih
        · dsimp only
          have sent (p : List Byte) (f : Chunk → Chunk) : CtxsLast s (sendStage cid k i p (Machine.modChunk cid k f s)).1 :=
            CtxsLast.modChunk.trans sendStage_ctxsLast
          exact .iteFst (sent _ _) ((sent _ _).trans ih)
        · exact ih

theorem correctChunk_ctxsLast {cid k : Nat} : CtxsLast s (correctChunk cid k s) := by
  dsimp only [correctChunk]
  split
  · exact .refl s
  · next c hc =>
    refine .ite (.refl s) (.kept ?_ addExc_kept)
    exact .setCtx hc ⟨rfl, rfl, fun _ h => h⟩

theorem cordonCheck_ctxsLast {cid : Nat} : CtxsLast s (cordonCheck cid s) := by
  dsimp only [cordonCheck]
  split
  · exact .refl s
  · next c hc => exact .ite (.refl s) (.setCtx hc ⟨rfl, rfl, fun _ h => h⟩)

theorem progressChunk_ctxsLast {cid k : Nat} : CtxsLast s (progressChunk cid k s).1 := by
  dsimp only [progressChunk]
  split
  · exact .refl s
  · refine .iteFst (.refl s) (.iteFst (.iteFst (CtxsLast.modChunk.trans cordonCheck_ctxsLast) (.refl s)) ?_)
    split
    · exact .iteFst (runStages_ctxsLast _) (.refl s)
    · exact .iteFst ((CtxsLast.modChunk.trans correctChunk_ctxsLast).trans (runStages_ctxsLast _)) (.refl s)

theorem progressChunks_ctxsLast {cid : Nat} (l : List Nat) : CtxsLast s (progressChunks cid l s).1 := by
  induction l generalizing s with
  | nil => exact .refl s
  | cons k r ih => exact progressChunk_ctxsLast.trans ih

theorem copyCounts_ctxsLast {cid : Nat} : CtxsLast s (copyCounts cid s).1 := by
  dsimp only [copyCounts]
  split
  · exact .refl s
  · exact .iteFst (.refl s) (.forEach (fun _ _ => .modCtx fun c => ⟨rfl, rfl, fun _ h => h⟩) (.refl s))

/-! ### The end of a window (R226, R240, R245) -/

theorem eventStage_ctxsLast {event cid i : Nat} : CtxsLast s (eventStage event cid i s).1 := by
  dsimp only [eventStage]
  split
  · exact .refl s
  · split
    · exact .refl s
    · split
      · exact .of_same ackUp_sameLandings
      · exact .of_same ctxRecord_sameLandings
      · exact .refl s
      · exact .refl s

theorem eventStages_ctxsLast {event cid : Nat} (l : List Nat) : CtxsLast s (eventStages event cid l s).1 := by
  induction l generalizing s with
  | nil => exact .refl s
  | cons i r ih => exact eventStage_ctxsLast.trans ih

theorem enterOpening_ctxsLast {job : BitVec 20} {openid : Word} : CtxsLast s (enterOpening job openid s) := by
  have entered (l : List (BitVec 20 × Word)) : CtxsLast s { s with lnd.opens := l } := .of_ctxs rfl
  dsimp only [enterOpening]
  exact .ite ((entered _).kept count_kept) (entered _)

theorem removeCtx_ctxsLast {cid : Nat} : CtxsLast s (removeCtx cid s) := by
  dsimp only [removeCtx]
  split
  · exact .refl s
  · refine .forEach (fun _ _ => .of_same discard_sameLandings) (.kept (.trans (.clear cid) ?_) journal_kept)
    exact .of_ctxs rfl

/-- A context that rearms is a persistent one. -/
theorem rearmCtx_ctxsLast {cid : Nat} (h : ∀ c, s.ctx cid = some c → c.d.persist = true) : CtxsLast s (rearmCtx cid s).1 := by
  have emptied (l : List EaUnit) (t : State) : CtxsLast t { t with lnd.pool := l } := .of_ctxs rfl
  dsimp only [rearmCtx]
  refine .trans ?_ (emptied _ _)
  exact .modCtx_of fun c hc => ⟨rfl, rfl, fun p => nomatch (h c hc).symm.trans p⟩

theorem progressCtx_ctxsLast {cid : Nat} : CtxsLast s (progressCtx cid s).1 := by
  dsimp only [progressCtx]
  have chunks : CtxsLast s (progressChunks cid (match (copyCounts cid s).1.ctx cid with | some c => List.range c.d.nch | none => []) (copyCounts cid s).1).1 :=
    copyCounts_ctxsLast.trans (progressChunks_ctxsLast _)
  generalize progressChunks cid _ (copyCounts cid s).1 = x at chunks ⊢
  split
  · exact chunks
  · next c hc =>
    split
    · exact chunks
    · have closing : CtxsLast x.1 (eventStages 1 cid (c.d.stagesOf 1) (x.1.setCtx cid (some { c with closing := true }))).1 :=
        .trans (.setCtx (c' := { c with closing := true }) hc ⟨rfl, rfl, fun _ h => h⟩) (eventStages_ctxsLast _)
      generalize eventStages 1 cid _ _ = y at closing ⊢
      have opened : CtxsLast x.1 (if c.d.opening then enterOpening c.d.job c.d.openid y.1 else y.1) := .ite (closing.trans enterOpening_ctxsLast) closing
      split
      · next persists =>
        refine (chunks.trans opened).trans (rearmCtx_ctxsLast fun c' h => ?_)
        obtain ⟨b, hb, lasts⟩ := opened cid c' h
        rw [lasts.d, ← Option.some.inj (hc.symm.trans hb)]
        exact persists
      · exact (chunks.trans opened).trans removeCtx_ctxsLast

/-! ### Triggers (R228) -/

theorem releaseHeld_ctxsLast {h : HeldRes} : CtxsLast s (releaseHeld h s).1 := by
  dsimp only [releaseHeld]
  split
  · exact .refl s
  · split
    · exact .refl s
    · exact sendNow_ctxsLast

theorem releaseAll_ctxsLast (l : List HeldRes) : CtxsLast s (releaseAll l s).1 := by
  induction l generalizing s with
  | nil => exact .refl s
  | cons h r ih => exact releaseHeld_ctxsLast.trans ih

/-- The hold has ended before what it held is sent. -/
theorem triggerCtx_holdOff {cid : Nat} {c : Ctx} (hc : s.ctx cid = some c) :
    CtxsLast (s.modCtx cid (fun c => { c with holdOff := true })) (triggerCtx cid s).1 := by
  have holds (l : List HeldRes) (t : State) : CtxsLast t { t with lnd.held := l } := .of_ctxs rfl
  simp only [triggerCtx, hc]
  exact (holds _ _).trans (releaseAll_ctxsLast _)

theorem triggerCtx_ctxsLast {cid : Nat} : CtxsLast s (triggerCtx cid s).1 := by
  cases hc : s.ctx cid with
  | none =>
    simp only [triggerCtx, hc]
    exact .refl s
  | some c =>
    refine .trans ?_ (triggerCtx_holdOff hc)
    exact .modCtx fun c => ⟨rfl, rfl, fun _ _ => rfl⟩

/-! ### Delivery (R216 to R219, R231) -/

theorem toPool_ctxsLast {p : Pkt} {nextStep : Bool} : CtxsLast s (toPool p nextStep s) := by
  have waits (l : List EaUnit) (t : State) : CtxsLast t { t with lnd.pool := l } := .of_ctxs rfl
  dsimp only [toPool]
  refine .ite ?_ ((CtxsLast.of_same takenLand_sameLandings).trans (waits _ _))
  exact ((CtxsLast.of_same discard_sameLandings).same sendControl_sameLandings).same raiseLnd_sameLandings

theorem accept_ctxsLast {cid i k : Nat} {p : Pkt} : CtxsLast s (accept cid i k p s) := by
  have opened : CtxsLast s (openChunk cid k (touchCtx cid s)) := touchCtx_ctxsLast.trans openChunk_ctxsLast
  dsimp only [accept]
  split
  · exact opened
  · next c hc =>
    refine .kept (opened.trans ?_) addExc_kept
    exact .setCtx hc ⟨rfl, rfl, fun _ h => h⟩

theorem addPairs_ctxsLast {cid : Nat} (l : List (List Byte)) : CtxsLast s (addPairs cid l s) := by
  induction l generalizing s with
  | nil => exact .refl s
  | cons pr r ih =>
    rw [addPairs]
    split
    · exact .refl s
    · exact .ite ((CtxsLast.of_kept count_kept).trans ih) ((openChunk_ctxsLast.trans .modChunk).trans ih)

/-- The WHEN 3 stages, run for what arrived from UPEID. -/
theorem relayStages_ctxsLast {cid k : Nat} {payload : List Byte} {a : State × List Pkt} (l : List Nat) : CtxsLast a.1 (l.foldl (fun (acc : State × List Pkt) i =>
    let (s, m) := sendStage cid k i payload acc.1
    (s, acc.2 ++ m)) a).1 := by
  induction l generalizing a with
  | nil => exact .refl a.1
  | cons i r ih => exact sendStage_ctxsLast.trans (ih (a := (_, _)))

theorem relayChunk_ctxsLast {cid k : Nat} {p : Pkt} : CtxsLast s (relayChunk cid k p s).1 := by
  have touched : CtxsLast s (touchCtx cid s) := touchCtx_ctxsLast
  dsimp only [relayChunk]
  split
  · exact touched
  · next c hc =>
    refine .iteFst (touched.trans (.setCtx hc ?_)) ?_
    · exact (CtxLasts.foldChunks _ (fun c j => { c.chunk j with relayed := true, done := true }) c).trans ⟨rfl, rfl, fun _ h => h⟩
    · refine .trans ((touched.trans (openChunk_ctxsLast (cid := cid) (k := k))).trans ?_) (relayStages_ctxsLast (a := (_, [])) _)
      exact .modCtx fun c => ⟨rfl, rfl, fun _ h => h⟩

theorem deliverOne_ctxsLast {p : Pkt} : CtxsLast s (deliverOne p s).1 := by
  have taken : CtxsLast s (takenLand p s) := .of_same takenLand_sameLandings
  dsimp only [deliverOne]
  split
  · exact .iteFst (.of_same discard_sameLandings) toPool_ctxsLast
  · split
    · next refuse _ =>
      cases refuse with
      | none => exact .of_same discard_sameLandings
      | some arg => exact (CtxsLast.of_same discard_sameLandings).same sendControl_sameLandings
    · exact toPool_ctxsLast
    · exact taken.trans relayChunk_ctxsLast
    · exact (taken.trans touchCtx_ctxsLast).trans (.modCtx fun c => ⟨rfl, rfl, fun _ h => h⟩)
    · exact ((taken.trans touchCtx_ctxsLast).trans (addPairs_ctxsLast _)).trans (.modCtx fun c => ⟨rfl, rfl, fun _ h => h⟩)
    · exact taken.trans accept_ctxsLast

/-! ### Whatever follows -/

theorem runTask_ctxsLast (t : LTask) : CtxsLast s (runTask t s).1 := by
  cases t with
  | deliver p => exact deliverOne_ctxsLast
  | progress cid => exact progressCtx_ctxsLast
  | trigger cid => exact triggerCtx_ctxsLast

theorem runTasks_ctxsLast (fuel : Nat) (l : List LTask) : CtxsLast s (runTasks fuel l s) := by
  induction fuel generalizing s l with
  | zero => exact .refl s
  | succ fuel ih =>
    cases l with
    | nil => exact .refl s
    | cons t r =>
      rw [runTasks_cons]
      exact (runTask_ctxsLast t).trans (ih _)

/-- No context that tasks leave is new, and each lasts. -/
theorem landTasks_ctxsLast (l : List LTask) : CtxsLast s (landTasks l s) := runTasks_ctxsLast _ l

end

end Sys2Proof.Machine

/-! SUPPORT. The commands through LND_CMD (R213, R240 to R242). -/
namespace Sys2Proof.Machine
open Sys2Proof
set_option Elab.async false

section
variable {s : State}

/-- A command that the port's owner writes to LND_CMD runs while none is busy. -/
theorem completes_lndCommand {p : HPort} {i : Instr} {f : State → State} {P : State → Prop} (run : exec i s = .next (lndCommand p f s)) (ho : Owner p s)
    (idle : s.lnd.busy = false) (h : P (f s)) : Completes i s P := by
  refine completes_owner run ho ?_
  rw [idle]
  exact h

theorem lndStatus_ctx {st : Nat} (k : Nat) : (lndStatus st s).ctx k = s.ctx k := rfl

/-- What an accepted INSTALL leaves of LND where nothing waits in the pool for the context (R213, R215). -/
def Lnd.installed (l : Lnd) (d : Desc) (c : Ctx) : Lnd :=
  { l with ctxs := tset none l.ctxs d.ctx.toNat (some c), backUsed := l.backUsed + BitVec.ofNat 64 d.backing, tombs := l.tombs.filter (fun t => t.ctx != d.ctx.toNat) }

theorem installRaw_accepted {b : List Byte} (hs : installStatus s b = 0) (hp : ∀ u, u ∈ s.lnd.pool → u.ctx ≠ (descOf b).ctx.toNat) :
    (installRaw b s).2 = 0 ∧ (installRaw b s).1.lnd = s.lnd.installed (descOf b)
      (Ctx.fresh (descOf b) b (decide (s.slotsUsed (descOf b).home.toNat + (descOf b).rslots.toNat ≤ s.landSlots (descOf b).home.toNat)) s.clk) := by
  have journaled {t : State} : (forEach (chopAll 32 b) journalRaw (journal 4 0 (toLE 4 (descOf b).ctx.toNat ++ toLE 4 b.length) t)).lnd = t.lnd :=
    (journal_kept.trans (forEach_kept fun _ _ => journalRaw_kept)).e_lnd (by decide)
  have waiting : s.lnd.pool.filter (fun u => u.ctx == (descOf b).ctx.toNat) = [] :=
    List.filter_eq_nil_iff.mpr fun u hu => by simpa using hp u hu
  have others : s.lnd.pool.filter (fun u => u.ctx != (descOf b).ctx.toNat) = s.lnd.pool :=
    List.filter_eq_self.mpr fun u hu => by simpa using hp u hu
  simp only [installRaw, hs, bne_self_eq_false, Bool.false_eq_true, if_false]
  rw [journaled]
  have pool (v : Option Ctx) : (s.setCtx (descOf b).ctx.toNat v).lnd.pool = s.lnd.pool := rfl
  simp only [pool, waiting, others, List.filter_nil, List.map_nil, landTasks_nil]
  exact ⟨trivial, rfl⟩

theorem installRaw_refused {b : List Byte} (hs : installStatus s b ≠ 0) :
    installRaw b s = (count (evNo 24 0x001 (installStatus s b)) s, installStatus s b) := by
  dsimp only [installRaw]
  rw [if_pos (bne_iff_ne.mpr hs)]

/-- What a context that goes away leaves of LND: its reservation is free, what it held is dropped, and a tombstone stands (R215, R240). -/
def Lnd.removed (l : Lnd) (cid : Nat) (c : Ctx) (clk : Nat) : Lnd :=
  { l with
    ctxs := tset none l.ctxs cid none
    backUsed := l.backUsed - BitVec.ofNat 64 c.d.backing
    held := l.held.filter (fun h => h.ctx != cid)
    pool := l.pool.filter (fun u => !(u.ctx == cid && u.nextStep))
    tombs := l.tombs.filter (fun t => t.ctx != cid) ++ [⟨cid, clk⟩] }

theorem removeCtx_leaves {cid : Nat} {c : Ctx} (hc : s.ctx cid = some c) : SameLandings { s with lnd := s.lnd.removed cid c s.clk } (removeCtx cid s) := by
  simp only [removeCtx, hc]
  exact .forEach (fun _ _ => discard_sameLandings) (.of_kept journal_kept)

theorem journal_ctx {rkind wseq : Nat} {body : List Byte} (k : Nat) : (journal rkind wseq body s).ctx k = s.ctx k :=
  (SameLandings.of_kept journal_kept).ctx k

end

end Sys2Proof.Machine

section
open Sys2Proof Sys2Proof.Machine
set_option Elab.async false

/-- Settles O23: INSTALL reserves or is refused, UNINSTALL leaves a tombstone, WITHDRAW and TRIGGER leave a mark that no task undoes, and QUERY writes its answer. -/
theorem landingCommandsComplete : Obligations.LandingCommandsComplete := by
  refine ⟨fun p b d s ho hb hr hd hs hp => ?_, fun p st s ho hb hst hne hlt => ?_, fun p ctx c s ho hb hc => ?_, fun p ctx c i s ho hb hc hi linked hm hcorr hw => ?_,
    fun p ctx q s ho hb hq hfit => ?_, fun p ctx c s ho hb hc hpersist => ?_⟩
  · subst hd hr
    refine completes_lndCommand rfl ho hb ?_
    obtain ⟨zero, leaves⟩ := installRaw_accepted hs hp
    generalize installRaw (readDesc s) s = x at zero leaves ⊢
    simp only [lndStatus, State.ctx, leaves, zero, Lnd.installed]
    refine ⟨rfl, tget_tset_self .., fun c hne => tget_tset_of_ne _ _ _ hne, trivial, fun x hx => ?_⟩
    simpa using (List.mem_filter.mp hx).2
  · refine completes_lndCommand rfl ho hb ?_
    subst hst
    simp only [installRaw_refused hne, lndStatus, (count_kept (s := s)).e_lnd (by decide)]
    exact ⟨trivial, trivial⟩
  · refine completes_lndCommand rfl ho hb ?_
    have dropped : SameLandings s (dropUnsent ctx.toNat s) := dropUnsent_sameLandings
    have clk : (dropUnsent ctx.toNat s).clk = s.clk := dropUnsent_kept.e_clk (by decide)
    have leaves := removeCtx_leaves ((dropped.ctx _).trans hc)
    rw [clk] at leaves
    simp only [hc]
    generalize removeCtx ctx.toNat (dropUnsent ctx.toNat s) = t at leaves ⊢
    have ctxs : t.lnd.ctxs = tset none s.lnd.ctxs ctx.toNat none := leaves.ctxs.trans (by rw [← dropped.ctxs]; rfl)
    refine ⟨rfl, ?_, fun k hk => ?_, ?_, fun h hh => ?_, ?_⟩
    · exact (congrArg (tget none · _) ctxs).trans (tget_tset_self ..)
    · exact (congrArg (tget none · _) ctxs).trans (tget_tset_of_ne _ _ _ hk)
    · exact leaves.backUsed.trans (by rw [← dropped.backUsed]; rfl)
    · have kept : h ∈ t.lnd.held := hh
      rw [leaves.held] at kept
      simpa using (List.mem_filter.mp kept).2
    · change _ ∈ t.lnd.tombs
      rw [leaves.tombs]
      exact List.mem_append_right _ (List.mem_singleton_self _)
  · refine completes_lndCommand rfl ho hb ?_
    subst hi
    simp only [hc, linked, Bool.false_eq_true, if_false, hw]
    rw [if_neg (by omega), if_neg (by simpa using hcorr)]
    refine ⟨rfl, fun c' h => ?_⟩
    rw [lndStatus_ctx] at h
    obtain ⟨c₁, h₁, lasts⟩ := landTasks_ctxsLast _ _ c' h
    rw [journal_ctx, setCtx_ctx_self] at h₁
    rw [lasts.withdrawn, ← Option.some.inj h₁]
    split <;> simp only [restartTimer, tget_tset_self]
  · refine completes_lndCommand rfl ho hb ?_
    subst hq
    generalize queryBytes s ctx.toNat = q at hfit ⊢
    have read : rdMem (lndStatus 0 (wrMem s s.lnd.addr.toNat q)) s.lnd.addr.toNat q.length = rdMem (wrMem s s.lnd.addr.toNat q) s.lnd.addr.toNat q.length :=
      rdMem_congr rfl fun _ _ => rfl
    exact ⟨rfl, read.trans (rdMem_wrMem s _ q hfit)⟩
  · refine completes_lndCommand rfl ho hb ?_
    simp only [hc]
    refine ⟨rfl, fun c' h => ?_⟩
    rw [lndStatus_ctx] at h
    obtain ⟨fuel, runs⟩ := landTasks_runs [.trigger ctx.toNat] s
    have last : CtxsLast (s.modCtx ctx.toNat (fun c => { c with holdOff := true })) (landTasks [.trigger ctx.toNat] s) := by
      rw [runs, runTasks_cons]
      exact (triggerCtx_holdOff hc).trans (runTasks_ctxsLast _ _)
    obtain ⟨c₁, h₁, lasts⟩ := last _ c' h
    rw [modCtx_ctx_self, hc] at h₁
    obtain rfl := Option.some.inj h₁
    exact lasts.holdOff hpersist rfl

end

/-! SUPPORT. A contribution that its chunk takes, and a window that has to wait (R216, R222, R226). -/
namespace Sys2Proof.Machine
open Sys2Proof
set_option Elab.async false

/-! ### A window that has to wait -/

section
variable {s : State} {cid : Nat} {c : Ctx}

/-- Nothing of the chunk can go on: it is done, or no stage of it runs and it waits for a contribution. -/
def Ctx.Rests (c : Ctx) (k : Nat) : Prop := (c.chunk k).done = true ∨ (c.chunk k).running = none ∧ c.chunkReady k = false

theorem progressChunk_rests {k : Nat} (hc : s.ctx cid = some c) (hf : c.d.isFanout = false) (rests : c.Rests k) : progressChunk cid k s = (s, []) := by
  simp only [progressChunk, hc]
  rcases rests with done | ⟨idle, waits⟩
  · rw [if_pos done]
  · simp only [hf, idle, waits, Bool.false_eq_true, if_false, ite_self]

theorem progressChunks_rest {l : List Nat} (hc : s.ctx cid = some c) (hf : c.d.isFanout = false) (rest : ∀ k, k ∈ l → c.Rests k) :
    progressChunks cid l s = (s, []) := by
  induction l with
  | nil => rfl
  | cons k r ih =>
    simp only [progressChunks, progressChunk_rests hc hf (rest k (List.mem_cons_self ..)), ih fun n hn => rest n (List.mem_cons_of_mem _ hn), List.append_nil]

theorem copyCounts_other (hc : s.ctx cid = some c) (hn : c.d.isCount = false) : copyCounts cid s = (s, []) := by
  simp only [copyCounts, hc, hn, Bool.not_false, Bool.true_or, if_true]

theorem windowComplete_waits {k : Nat} (hf : c.d.isFanout = false) (hk : k < c.d.nch) (open_ : (c.chunk k).done = false) : windowComplete s cid c = false := by
  have one : (List.range c.d.nch).all (fun k => (c.chunk k).done) = false := List.all_eq_false.mpr ⟨k, List.mem_range.mpr hk, by simp [open_]⟩
  simp only [windowComplete, hf, one, Bool.false_and, Bool.false_eq_true, if_false]

/-- Where every chunk rests and one is open, the window waits. -/
theorem progressCtx_rests {k : Nat} (hc : s.ctx cid = some c) (hf : c.d.isFanout = false) (hn : c.d.isCount = false) (hk : k < c.d.nch)
    (open_ : (c.chunk k).done = false) (rest : ∀ n, c.Rests n) : progressCtx cid s = (s, []) := by
  simp only [progressCtx, copyCounts_other hc hn, hc, progressChunks_rest hc hf fun n _ => rest n, windowComplete_waits hf hk open_, Bool.not_false, if_true,
    List.append_nil]

/-- A chunk waits for a member that has neither contributed nor been withdrawn. -/
theorem chunkReady_awaits {j k : Nat} (hf : c.d.isFanout = false) (hn : c.d.isCount = false) (linked : c.d.linked = false) (hj : j < c.d.members.length)
    (away : c.isWithdrawn j = false) (new : j ∉ (c.chunk k).from_) : c.chunkReady k = false := by
  simp only [Ctx.chunkReady, hf, hn, linked, Bool.false_eq_true, if_false]
  exact List.all_eq_false.mpr ⟨j, List.mem_range.mpr hj, by simpa [away] using new⟩

end

/-! ### A contribution joins its chunk -/

theorem chunk_setChunk_self (c : Ctx) (k : Nat) (ch : Chunk) : (c.setChunk k ch).chunk k = ch := tget_tset_self ..
theorem chunk_setChunk_of_ne (c : Ctx) {k n : Nat} (ch : Chunk) (h : n ≠ k) : (c.setChunk k ch).chunk n = c.chunk n := tget_tset_of_ne _ _ _ h

/-- The window is the same but for the line in which one chunk of it is held. -/
structure SameWindow (k : Nat) (c c' : Ctx) : Prop where
  d : c'.d = c.d
  step : c'.step = c.step
  withdrawn : c'.withdrawn = c.withdrawn
  chunk : ∃ o r, c'.chunk k = { c.chunk k with opened := o, resident := r }
  others : ∀ n, n ≠ k → c'.chunk n = c.chunk n

namespace SameWindow
variable {k : Nat} {c c' c'' : Ctx}

theorem of_chunks (d : c'.d = c.d) (step : c'.step = c.step) (withdrawn : c'.withdrawn = c.withdrawn) (chunks : c'.chunks = c.chunks) : SameWindow k c c' :=
  have same (n : Nat) : c'.chunk n = c.chunk n := by rw [Ctx.chunk, chunks, Ctx.chunk]
  ⟨d, step, withdrawn, ⟨(c.chunk k).opened, (c.chunk k).resident, same k⟩, fun n _ => same n⟩
theorem trans (h : SameWindow k c c') (w : SameWindow k c' c'') : SameWindow k c c'' := by
  obtain ⟨o, r, e⟩ := h.chunk
  obtain ⟨o', r', e'⟩ := w.chunk
  exact ⟨w.d.trans h.d, w.step.trans h.step, w.withdrawn.trans h.withdrawn, ⟨o', r', by rw [e', e]⟩, fun n hn => (w.others n hn).trans (h.others n hn)⟩
theorem accOf (h : SameWindow k c c') : c'.accOf k = c.accOf k := by
  obtain ⟨o, r, e⟩ := h.chunk
  rw [Ctx.chunk, Ctx.chunk] at e
  simp only [Ctx.accOf, e, h.d]

end SameWindow

section
variable {s t : State} {cid : Nat} {c : Ctx}

theorem openChunk_window (k : Nat) (hc : s.ctx cid = some c) : ∃ c', (openChunk cid k s).ctx cid = some c' ∧ SameWindow k c c' := by
  simp only [openChunk, hc]
  split
  · exact ⟨c, hc, .of_chunks rfl rfl rfl rfl⟩
  · exact ⟨_, setCtx_ctx_self .., rfl, rfl, rfl, ⟨true, _, chunk_setChunk_self ..⟩, fun n hn => chunk_setChunk_of_ne c _ hn⟩

theorem touchCtx_resident (hc : s.ctx cid = some c) (hr : c.resident = true) : touchCtx cid s = s.setCtx cid (some { c with active := s.clk }) := by
  simp only [touchCtx, hc, hr, Bool.true_or, if_true]

theorem contribution_congr (fmt n : Nat) (payload : List Byte) (h : t.mil = s.mil) : contribution t fmt n payload = contribution s fmt n payload := by
  have look : t.cbLook = s.cbLook := by
    unfold State.cbLook
    rw [h]
  simp only [contribution, look]

/-- The contribution of member `i` stands in chunk `k`, combined with what was there, and the timer runs anew (R222, R229). -/
structure Joined (s : State) (p : Pkt) (i k : Nat) (c c' : Ctx) : Prop where
  d : c'.d = c.d
  step : c'.step = c.step
  withdrawn : c'.withdrawn = c.withdrawn
  timer : c'.timer = some (if s.glb.state = .quiesced then 0 else s.clk)
  from_ : (c'.chunk k).from_ = (c.chunk k).from_ ++ [i]
  acc : c.d.isBarrier = false → (c'.chunk k).acc = List.zipWith
    (fun a x => (combineElem c.d.type.toNat c.d.afmt (ffDecode fmtBF16 p.h.weight.toNat) (c.chunk k).from_.isEmpty a x.1 x.2).1)
    (c.accOf k) (contribution s p.h.fmt (c.d.elemsOf k) p.payload).1
  running : (c'.chunk k).running = (c.chunk k).running
  done : (c'.chunk k).done = (c.chunk k).done
  others : ∀ n, n ≠ k → c'.chunk n = c.chunk n

theorem accept_joins {i k : Nat} {p : Pkt} (hc : s.ctx cid = some c) (hr : c.resident = true) :
    ∃ c', (accept cid i k p s).ctx cid = some c' ∧ Joined s p i k c c' := by
  have touched : SameWindow k c { c with active := s.clk } := .of_chunks rfl rfl rfl rfl
  have opens := openChunk_window (s := touchCtx cid s) (c := { c with active := s.clk }) k (by rw [touchCtx_resident hc hr, setCtx_ctx_self])
  have kept : Kept [.lnd] (touchCtx cid s) (openChunk cid k (touchCtx cid s)) := openChunk_kept
  have mil := (kept.e_mil (by decide)).trans (touchCtx_kept.e_mil (by decide))
  have glb := (kept.e_glb (by decide)).trans (touchCtx_kept.e_glb (by decide))
  have clk := (kept.e_clk (by decide)).trans (touchCtx_kept.e_clk (by decide))
  dsimp only [accept]
  generalize openChunk cid k (touchCtx cid s) = v at opens mil glb clk ⊢
  obtain ⟨c₁, h₁, w₁⟩ := opens
  have w := touched.trans w₁
  obtain ⟨o, line, e⟩ := w.chunk
  simp only [h₁]
  refine ⟨_, ((SameLandings.of_kept addExc_kept).ctx cid).trans (setCtx_ctx_self ..), w.d, w.step, w.withdrawn, ?_, ?_, fun nb => ?_, ?_, ?_, fun n hn => ?_⟩
  · simp only [restartTimer, glb, clk, beq_iff_eq]
  · exact (congrArg Chunk.from_ (chunk_setChunk_self ..)).trans (by rw [e])
  · refine (congrArg Chunk.acc (chunk_setChunk_self ..)).trans ?_
    simp only [w.d, e, nb, w.accOf, contribution_congr _ _ _ mil, Bool.false_eq_true, if_false, List.map_zipWith]
  · exact (congrArg Chunk.running (chunk_setChunk_self ..)).trans (by rw [e])
  · exact (congrArg Chunk.done (chunk_setChunk_self ..)).trans (by rw [e])
  · exact (chunk_setChunk_of_ne c₁ _ hn).trans (w.others n hn)

/-! ### A packet that crosses to its home district -/

/-- The packet that the bytes spell, as it crosses from its port. -/
def crossing (packet : List Byte) (port : Port) (s : State) : Pkt :=
  { h := hdrOf packet, payload := (packet.drop 32).take (hdrOf packet).len, tin := s.now, inPort := port.val, c2 := false, counted := false, cred := true }
/-- The port's balance pays for it. -/
def charged (packet : List Byte) (port : Port) (s : State) : State :=
  s.modLink port.val (fun l => { l with rxBal := tmod 0 l.rxBal (hdrOf packet).tc (fun b => b - creditsOf (crossing packet port s).inSize) })

variable {packet : List Byte} {port : Port} {t : State}

theorem landingDelivery_admitted (hkind : (hdrOf packet).kind = 2) (hadm : s.notAdmitted port.val (hdrOf packet) = none)
    (delivered : landTasks [.deliver (crossing packet port s)] (charged packet port s) = t) : exec (.landingDelivery packet port) s = .next t := by
  have run : exec (.landingDelivery packet port) s = execLandingDelivery packet port s := rfl
  simp only [run, execLandingDelivery, hkind, hadm, bne_self_eq_false, Bool.false_and, Bool.false_eq_true, if_false]
  exact congrArg Host.Outcome.next delivered

theorem landingDelivery_refused {code : Nat} (hkind : (hdrOf packet).kind = 2) (hadm : s.notAdmitted port.val (hdrOf packet) = some code) (hoff : s.swc.capture = false) :
    exec (.landingDelivery packet port) s = .next (countDiscard code port.val s) := by
  have run : exec (.landingDelivery packet port) s = execLandingDelivery packet port s := rfl
  simp only [run, execLandingDelivery, hkind, hadm, bne_self_eq_false, Bool.false_and, Bool.false_eq_true, if_false]
  have off : (countDiscard code port.val s).swc.capture = false := hoff
  rw [discard_uncounted _ _ rfl rfl, capture_off _ _ _ off]

/-- A packet that counts in no epoch leaves nothing behind but its credits. -/
theorem discard_credited {code : Nat} {p : Pkt} (hn : p.counted = false) (hoff : s.swc.capture = false) :
    discard code p none s = returnCredit p (countDiscard code p.inPort s) := by
  have off : (countDiscard code p.inPort s).swc.capture = false := hoff
  simp only [discard, capture_off _ _ _ off, preLeave, leaveCount, hn, Bool.not_false, if_true]

theorem deliverOne_tombstoned {p : Pkt} (hc : s.ctx p.h.ctx = none) (ht : s.lnd.tombs.any (fun t => t.ctx == p.h.ctx) = true) :
    deliverOne p s = (discard 32 p none s, []) := by
  simp only [deliverOne, hc, ht, if_true]

theorem deliverOne_early {p : Pkt} (hc : s.ctx p.h.ctx = none) (ht : s.lnd.tombs.any (fun t => t.ctx == p.h.ctx) = false)
    (hquota : (s.lnd.pool.filter (fun u => u.job == p.h.job)).length < s.eaq p.h.job) (hroom : s.lnd.pool.length < s.poolUnits) :
    deliverOne p s = ({ takenLand p s with
      lnd.pool := (takenLand p s).lnd.pool ++ [⟨p.h.ctx, p.h.job, { p with counted := false, cred := false }, (takenLand p s).clk, false⟩] }, []) := by
  have fits : ¬ (s.eaq p.h.job ≤ (s.lnd.pool.filter (fun u => u.job == p.h.job)).length ∨ s.poolUnits ≤ s.lnd.pool.length) := by omega
  simp only [deliverOne, hc, ht, toPool, fits, if_false, Bool.false_eq_true]

theorem deliverOne_accepted {p : Pkt} {c : Ctx} {i k : Nat} (hc : s.ctx p.h.ctx = some c) (hcheck : checkLand s c p = .contrib i k) :
    deliverOne p s = (accept p.h.ctx i k p (takenLand p s), [.progress p.h.ctx]) := by
  simp only [deliverOne, hc, hcheck]

end

end Sys2Proof.Machine

section
open Sys2Proof Sys2Proof.Machine
set_option Elab.async false

/-- Settles O24: a contribution joins its chunk and the window waits for the member that is missing; without a context the packet joins the pool, or is discarded where the context's tombstone stands; a packet that is not admitted is discarded. -/
theorem landingDeliveryCompletes : Obligations.LandingDeliveryCompletes := by
  refine ⟨fun packet port p u c i k j s hp hkind hadm hu hc hr hcheck hk hf hn linked hj hji hw hnew hidle => ?_, fun packet port h s hh hkind hadm hc htomb hquota hroom => ?_,
    fun packet port h s hh hkind hadm hc htomb hoff => ?_, fun packet port h code s hh hkind hadm hoff => ?_⟩
  · obtain rfl : crossing packet port s = p := hp.symm
    obtain rfl : charged packet port s = u := hu.symm
    have taken : SameLandings (charged packet port s) (takenLand (crossing packet port s) (charged packet port s)) := takenLand_sameLandings
    have kept := takenLand_kept (p := crossing packet port s) (s := charged packet port s)
    have hc' : (charged packet port s).ctx (crossing packet port s).h.ctx = some c := hc
    obtain ⟨c', hres, joined⟩ := accept_joins (i := i) (k := k) (p := crossing packet port s) ((taken.ctx _).trans hc') hr
    have rest (n : Nat) : c'.Rests n := by
      have idle : (c'.chunk n).running = none := by
        by_cases hn : n = k
        · rw [hn, joined.running, (hidle k).1]
        · rw [joined.others n hn, (hidle n).1]
      have new : j ∉ (c'.chunk n).from_ := by
        by_cases hn : n = k
        · rw [hn, joined.from_]
          simpa [hji] using hnew k
        · rw [joined.others n hn]
          exact hnew n
      refine .inr ⟨idle, chunkReady_awaits (by rw [joined.d, hf]) (by rw [joined.d, hn]) (by rw [joined.d, linked]) (by rw [joined.d]; exact hj) ?_ new⟩
      rw [Ctx.isWithdrawn, joined.withdrawn]
      exact hw
    have waits := progressCtx_rests hres (by rw [joined.d, hf]) (by rw [joined.d, hn]) (by rw [joined.d]; exact hk) (joined.done.trans (hidle k).2) rest
    refine completes_next (landingDelivery_admitted hkind hadm (landTasks_two (deliverOne_accepted hc' hcheck) waits))
      ⟨c', hres, joined.d, joined.step, joined.from_, joined.others, fun nb => ?_, ?_⟩
    · rw [joined.acc nb, contribution_congr _ _ _ (kept.e_mil (by decide))]
    · rw [joined.timer, kept.e_glb (by decide), kept.e_clk (by decide)]
      rfl
  · subst hh
    have taken : SameLandings (charged packet port s) (takenLand (crossing packet port s) (charged packet port s)) := takenLand_sameLandings
    have kept := takenLand_kept (p := crossing packet port s) (s := charged packet port s)
    have waits := deliverOne_early (p := crossing packet port s) (s := charged packet port s) hc htomb hquota hroom
    refine completes_next (landingDelivery_admitted hkind hadm (landTasks_one waits)) ⟨⟨(hdrOf packet).ctx, (hdrOf packet).job,
      { crossing packet port s with counted := false, cred := false }, (takenLand (crossing packet port s) (charged packet port s)).clk, false⟩, ?_, rfl, rfl, ?_, rfl, rfl, ?_⟩
    · exact congrArg (· ++ _) taken.pool
    · exact kept.e_clk (by decide)
    · exact taken.ctxs
  · subst hh
    have gone := deliverOne_tombstoned (p := crossing packet port s) (s := charged packet port s) hc htomb
    have off : (charged packet port s).swc.capture = false := hoff
    rw [discard_credited rfl off] at gone
    have kept := returnCredit_kept (p := crossing packet port s) (s := countDiscard 32 port.val (charged packet port s))
    exact completes_next (landingDelivery_admitted hkind hadm (landTasks_one gone)) ⟨kept.e_lnd (by decide), kept.e_tly (by decide)⟩
  · subst hh
    exact completes_next (landingDelivery_refused hkind hadm hoff) ⟨(count_kept (s := s)).e_lnd (by decide), rfl⟩

end

/-! SUPPORT. FANOUT windows (R208, R233): the acknowledgements that cordoned members leave out, and a window that a member holds open. -/
namespace Sys2Proof.Machine
open Sys2Proof
set_option Elab.async false

/-- The member's EXACT entry stands and is CORDONED. -/
def State.cordoned (s : State) (eid : Word) : Bool := (s.exact s.fwd.cur eid).map (·.cordon) == some true

theorem cordoned_iff {s : State} {eid : Word} : s.cordoned eid = true ↔ ∃ e, s.exact s.fwd.cur eid = some e ∧ e.cordon = true := by
  simp [State.cordoned, beq_iff_eq, Option.map_eq_some_iff]

section
variable {cord : Word → Bool} {c c' c'' : Ctx}

/-- The member is still awaited and is cordoned. -/
def Ctx.Falls (cord : Word → Bool) (c : Ctx) (i : Nat) : Prop := i < c.d.members.length ∧ c.memberDone i = false ∧ cord (c.d.members.getD i 0) = true

/-- Of what the window waits for only cordoned members fell away. -/
structure Lowers (cord : Word → Bool) (c c' : Ctx) : Prop where
  d : c'.d = c.d
  seen : c'.seen = c.seen
  withdrawn : c'.withdrawn = c.withdrawn
  keeps : ∀ i, tget false c.lowered i = true → tget false c'.lowered i = true
  falls : ∀ i, tget false c'.lowered i = true → tget false c.lowered i = true ∨ c.Falls cord i

namespace Lowers

theorem refl (c : Ctx) : Lowers cord c c := ⟨rfl, rfl, rfl, fun _ h => h, fun _ h => .inl h⟩
theorem setChunk (c : Ctx) (k : Nat) (ch : Chunk) : Lowers cord c (c.setChunk k ch) := ⟨rfl, rfl, rfl, fun _ h => h, fun _ h => .inl h⟩

theorem memberDone (h : Lowers cord c c') {i : Nat} (done : c.memberDone i = true) : c'.memberDone i = true := by
  simp only [Ctx.memberDone, Ctx.hasSeen, Ctx.isWithdrawn, h.seen, h.withdrawn, Bool.or_eq_true] at done ⊢
  exact done.imp_right (h.keeps i)

theorem trans (h : Lowers cord c c') (k : Lowers cord c' c'') : Lowers cord c c'' := by
  refine ⟨k.d.trans h.d, k.seen.trans h.seen, k.withdrawn.trans h.withdrawn, fun i l => k.keeps i (h.keeps i l), fun i l => ?_⟩
  rcases k.falls i l with l' | ⟨member, waits, out⟩
  · exact h.falls i l'
  · rw [h.d] at member out
    refine .inr ⟨member, ?_, out⟩
    cases done : c.memberDone i with
    | false => rfl
    | true => exact absurd (h.memberDone done) (by simp [waits])

/-- A member that is awaited and not cordoned is still awaited. -/
theorem awaits (h : Lowers cord c c') {i : Nat} (waits : c.memberDone i = false) (stands : cord (c.d.members.getD i 0) = false) : c'.memberDone i = false := by
  have kept : tget false c'.lowered i = false := by
    rcases hl : tget false c'.lowered i with _ | _
    · rfl
    · rcases h.falls i hl with l | ⟨-, -, out⟩
      · simp [Ctx.memberDone, l] at waits
      · exact absurd (stands.symm.trans out) Bool.false_ne_true
  simp only [Ctx.memberDone, Ctx.hasSeen, Ctx.isWithdrawn, h.seen, h.withdrawn, kept, Bool.or_false] at waits ⊢
  simp only [Bool.or_eq_false_iff] at waits ⊢
  exact waits.1

/-- Where the cordoned members fall away at once, no more of them do later. -/
theorem lowered_of_fallen (h : Lowers cord c c') {gone : Nat → Bool} (hg : ∀ i, gone i = true ↔ c.Falls cord i)
    (fell : ∀ i, gone i = true → tget false c'.lowered i = true) (i : Nat) : tget false c'.lowered i = (tget false c.lowered i || gone i) := by
  rw [Bool.eq_iff_iff, Bool.or_eq_true, hg]
  exact ⟨h.falls i, fun l => l.elim (h.keeps i) fun f => fell i ((hg i).mpr f)⟩

end Lowers
end

/-- Of the state one context changed, and of it only what the fall of cordoned members and the end of chunks change. -/
structure CtxLowers (cid : Nat) (s t : State) : Prop where
  frame : t = { s with lnd.ctxs := t.lnd.ctxs }
  ctx : ∀ c, s.ctx cid = some c → ∃ c', t.ctx cid = some c' ∧ Lowers s.cordoned c c'

namespace CtxLowers
variable {cid : Nat} {s t u : State}

theorem refl (s : State) : CtxLowers cid s s := ⟨rfl, fun c hc => ⟨c, hc, .refl c⟩⟩
theorem cordoned (h : CtxLowers cid s t) : t.cordoned = s.cordoned := by rw [h.frame]; rfl
theorem trans (h : CtxLowers cid s t) (k : CtxLowers cid t u) : CtxLowers cid s u := by
  refine ⟨by rw [k.frame, h.frame], fun c hc => ?_⟩
  obtain ⟨c', hc', l⟩ := h.ctx c hc
  obtain ⟨c'', hc'', l'⟩ := k.ctx c' hc'
  exact ⟨c'', hc'', l.trans (h.cordoned ▸ l')⟩
theorem setCtx {c c' : Ctx} (hc : s.ctx cid = some c) (h : Lowers s.cordoned c c') : CtxLowers cid s (s.setCtx cid (some c')) :=
  ⟨rfl, fun _ hd => ⟨c', setCtx_ctx_self .., Option.some.inj (hc.symm.trans hd) ▸ h⟩⟩

end CtxLowers

section
variable {s : State} {cid : Nat} {c : Ctx}

/-- The context after the cordons have been looked at. -/
def Ctx.fall (cord : Word → Bool) (c : Ctx) : Ctx :=
  { c with lowered := (c.allMembers.filter (fun i => !c.memberDone i && cord (c.d.members.getD i 0))).foldl (fun t i => tset false t i true) c.lowered }

theorem fall_lowered {cord : Word → Bool} (i : Nat) : tget false (c.fall cord).lowered i = true ↔ tget false c.lowered i = true ∨ c.Falls cord i := by
  have low : i ∈ c.allMembers.filter (fun i => !c.memberDone i && cord (c.d.members.getD i 0)) ↔ c.Falls cord i := by simp [Ctx.allMembers, Ctx.Falls]
  have distinct : (c.allMembers.filter (fun i => !c.memberDone i && cord (c.d.members.getD i 0))).Nodup := List.nodup_range.filter _
  rw [Ctx.fall, fold_tset false (fun _ => true) _ _ distinct, ← low]
  split
  · next member => exact iff_of_true rfl (.inr member)
  · next member => exact (or_iff_left member).symm

theorem fall_lowers {cord : Word → Bool} : Lowers cord c (c.fall cord) :=
  ⟨rfl, rfl, rfl, fun i l => (fall_lowered i).mpr (.inl l), fun i => (fall_lowered i).mp⟩

theorem cordonCheck_fanout (hc : s.ctx cid = some c) (hf : c.d.isFanout = true) : cordonCheck cid s = s.setCtx cid (some (c.fall s.cordoned)) := by
  simp only [cordonCheck, hc, hf, Bool.not_true, Bool.false_eq_true, if_false]
  rfl

theorem cordonCheck_lowers (hc : s.ctx cid = some c) (hf : c.d.isFanout = true) : CtxLowers cid s (cordonCheck cid s) := by
  rw [cordonCheck_fanout hc hf]
  exact .setCtx hc fall_lowers

/-- A FANOUT chunk sets nothing off. -/
theorem progressChunk_fanout {k : Nat} (hc : s.ctx cid = some c) (hf : c.d.isFanout = true) : ∃ t, progressChunk cid k s = (t, []) ∧ CtxLowers cid s t := by
  simp only [progressChunk, hc, hf, if_true]
  split
  · exact ⟨s, rfl, .refl s⟩
  · split
    · have ends : modChunk cid k (fun ch => { ch with done := true }) s = s.setCtx cid (some (c.setChunk k { c.chunk k with done := true })) := by
        rw [modChunk, State.modCtx, hc]
        rfl
      rw [ends]
      exact ⟨_, rfl, (CtxLowers.setCtx hc (.setChunk ..)).trans (cordonCheck_lowers (setCtx_ctx_self ..) hf)⟩
    · exact ⟨s, rfl, .refl s⟩

theorem progressChunks_fanout (l : List Nat) (hc : s.ctx cid = some c) (hf : c.d.isFanout = true) : ∃ t, progressChunks cid l s = (t, []) ∧ CtxLowers cid s t := by
  induction l generalizing s c with
  | nil => exact ⟨s, rfl, .refl s⟩
  | cons k r ih =>
    obtain ⟨t, one, lowers⟩ := progressChunk_fanout (k := k) hc hf
    obtain ⟨c', hc', l⟩ := lowers.ctx c hc
    obtain ⟨u, more, lowers'⟩ := ih hc' (by rw [l.d, hf])
    exact ⟨u, by simp only [progressChunks, one, more, List.append_nil], lowers.trans lowers'⟩

/-- The window waits for a member that has not acknowledged and is not cordoned. -/
theorem windowComplete_fanout {j : Nat} (hf : c.d.isFanout = true) (hj : j < c.d.members.length) (waits : c.memberDone j = false) : windowComplete s cid c = false := by
  have one : c.allMembers.all c.memberDone = false := List.all_eq_false.mpr ⟨j, List.mem_range.mpr hj, by simp [waits]⟩
  simp only [windowComplete, hf, one, Bool.and_false, Bool.false_and, if_true]

theorem progressCtx_fanout {j : Nat} (hc : s.ctx cid = some c) (hf : c.d.isFanout = true) (hj : j < c.d.members.length) (waits : c.memberDone j = false)
    (stands : s.cordoned (c.d.members.getD j 0) = false) : ∃ t, progressCtx cid s = (t, []) ∧ CtxLowers cid s t := by
  have other : c.d.isCount = false := by
    simp only [Desc.isFanout, beq_iff_eq] at hf
    simp [Desc.isCount, hf]
  obtain ⟨t, chunks, lowers⟩ := progressChunks_fanout (List.range c.d.nch) hc hf
  obtain ⟨c', hc', l⟩ := lowers.ctx c hc
  have open_ : windowComplete t cid c' = false := windowComplete_fanout (by rw [l.d, hf]) (by rw [l.d]; exact hj) (l.awaits waits stands)
  exact ⟨t, by simp only [progressCtx, copyCounts_other hc other, hc, chunks, hc', open_, Bool.not_false, if_true, List.append_nil], lowers⟩

end
end Sys2Proof.Machine

/-! SUPPORT. A SEND to a group of one member (R146, R227), and a result whose instant has come (R228). -/
namespace Sys2Proof.Machine
open Sys2Proof
set_option Elab.async false

section
variable {s : State} {q : Nat} {p : Pkt}

/-- A packet that joins a queue for the first time counts in its epoch, which is all of FWD that changes (R150). -/
theorem writeQueue_fwd (h : PlainSwitch s) (new : p.counted = false) : (writeQueue q p s).fwd = (enterCount p.h.epoch s).fwd := by
  have eq : writeQueue q p s = putQueue q .pkt [] p s := by
    simp [writeQueue, mergeEntry, combinable_plain h, noteWrite_plain h, fencesOf_plain h]
  have before : (returnCredit p (enterCount p.h.epoch s)).swc.capture = false := by
    rw [returnCredit_kept.e_swc, enterCount_kept.e_swc]
    exact h.1
  have pushed (it : QItem) : (pushItem q p.h.tc it (returnCredit p (enterCount p.h.epoch s))).swc.capture = false := by
    rw [(pushItem_spec ..).2.2]
    exact before
  rw [eq]
  simp only [putQueue, preLeave, new, Bool.not_false, if_true, Bool.false_eq_true, if_false, pushMarker_nil]
  rw [capture_off _ _ _ (by rw [countN_kept.e_swc, count_kept.e_swc, pushed]), countN_kept.e_fwd, count_kept.e_fwd, pushItem_kept.e_fwd, returnCredit_kept.e_fwd]

theorem exact_of_banks {t : State} (hA : t.fwd.bankA = s.fwd.bankA) (hB : t.fwd.bankB = s.fwd.bankB) (b : Bool) (eid : Word) : t.exact b eid = s.exact b eid := by
  rw [State.exact, State.exact, State.bank, State.bank, hA, hB]

theorem cordoned_of_fwd {t : State} (hA : t.fwd.bankA = s.fwd.bankA) (hB : t.fwd.bankB = s.fwd.bankB) (cur : t.fwd.cur = s.fwd.cur) : t.cordoned = s.cordoned := by
  funext eid
  rw [State.cordoned, State.cordoned, exact_of_banks hA hB, cur]

theorem writeQueue_cordoned (h : PlainSwitch s) (new : p.counted = false) : (writeQueue q p s).cordoned = s.cordoned := by
  have fwd := writeQueue_fwd (q := q) h new
  have counts : (enterCount p.h.epoch s).fwd = { s.fwd with ecntA := (enterCount p.h.epoch s).fwd.ecntA, ecntB := (enterCount p.h.epoch s).fwd.ecntB } := by
    rw [enterCount]
    split <;> rfl
  rw [counts] at fwd
  exact cordoned_of_fwd (by rw [fwd]) (by rw [fwd]) (by rw [fwd])

variable {c : Ctx} {cid k : Nat} {st : Stage} {payload : List Byte} {r : Ent2} {base : Nat}

/-- The state after the group and its only member have been read. -/
def groupRead (gi base : Nat) (r : Ent2) (s : State) : State := memberRead s.fwd.cur base r (correctAt 8 s.fwd.cur gi s)

theorem groupRead_same (gi : Nat) : SameSwitch s (groupRead gi base r s) := (correctAt_bank ..).same.trans memberRead_bank.same
theorem groupRead_kept (gi : Nat) : Kept [.hst, .lnk, .srd, .fwd, .swc, .lnd, .mil, .res, .tly, .nv, .out] s (groupRead gi base r s) :=
  correctAt_kept.trans (correctAt_kept.trans correctAt_kept)
theorem groupRead_fwd (gi : Nat) : (groupRead gi base r s).fwd = { s.fwd with soft := (groupRead gi base r s).fwd.soft } := by
  simp only [groupRead, memberRead]
  rw [correctAt_fwd 6, correctAt_fwd 9, correctAt_fwd 8]
theorem groupRead_now (gi : Nat) : (groupRead gi base r s).now = s.now := by rw [State.now, State.now, groupRead, memberRead_tmb, correctAt_tmb]
theorem groupRead_landings (gi : Nat) : SameLandings s (groupRead gi base r s) :=
  correctAt_sameLandings.trans (correctAt_sameLandings.trans correctAt_sameLandings)

/-- The packet of the copy that a SEND makes for a member. -/
def copyTo (s : State) (c : Ctx) (k : Nat) (st : Stage) (payload : List Byte) (r : Ent2) : Pkt := resultPkt s c k (resultHdr s c k st r.w0 payload.length) payload

theorem readMember_group {gi : Nat} (hr : r = tget Ent2.zero s.fwd.repl base) (h9 : s.badAt 9 false base = false) (hrv : bitAt r.w1.toNat 31 = true)
    (h6 : s.badAt 6 s.fwd.cur r.w0.toNat = false) (he : s.exact s.fwd.cur r.w0 = none) (hq : hopOf (fld r.w1.toNat 26 2) (fld r.w1.toNat 0 11) = .port q) :
    readMember s.fwd.cur base (correctAt 8 s.fwd.cur gi s) = (groupRead gi base r s, .at_ r.w0 false (.port q)) := by
  have fwd := correctAt_fwd 8 s.fwd.cur gi s
  rw [← hq]
  exact readMember_valid (by rw [fwd]; exact hr.symm) hrv (by rw [State.badAt, fwd]; exact h9) (by rw [State.badAt, fwd]; exact h6)
    ((exact_of_banks (s := s) (by rw [fwd]) (by rw [fwd]) _ _).trans he)

theorem copyTo_groupRead (gi : Nat) : copyTo (groupRead gi base r s) c k st payload r = copyTo s c k st payload r := by
  have fwd := groupRead_fwd (s := s) (base := base) (r := r) gi
  have mgmt : (groupRead gi base r s).fwd.mgmtEid = s.fwd.mgmtEid := by rw [fwd]
  have epoch : (groupRead gi base r s).fwd.cur = s.fwd.cur := by rw [fwd]
  simp only [copyTo, resultPkt, resultHdr, groupRead_now, mgmt, epoch]

/-- The copy goes to the queue of a port that is up and has room. -/
theorem originate_copy (gi : Nat) (hd : s.dist (districtOf q) ≠ .draining) (hu : p.h.isSched = false) (hm : s.fwd.mgmtEid ≠ 0) (hcord : s.glb.state ≠ .cordoned)
    (hroom : s.roomFor q p.h.tc p.cells = true) (stamped : p.tin = s.now) :
    originateAny true 0 (.port q) p (groupRead gi base r s) = writeQueue q p (groupRead gi base r s) := by
  have same := groupRead_same (s := s) (base := base) (r := r) gi
  have kept := groupRead_kept (s := s) (base := base) (r := r) gi
  have tables := groupRead_fwd (s := s) (base := base) (r := r) gi
  have written := originate_port (s := groupRead gi base r s) (q := q) (stamp := true) (notBefore := 0) (p := p) (by rw [same.dist]; exact hd)
    ((same.roomFor ..).trans hroom) (by rw [tables]; exact hm) (by rw [kept.e_glb (by decide)]; exact hcord) (Nat.zero_le _)
  rw [originateAny_unsched hu, written, if_pos rfl, groupRead_now, ← stamped]

/-- A SEND to a group whose only member is not cordoned and stands behind a port with room is a write to that port's queue. -/
theorem sendGroup_port {g : GroupEnt} (hc : s.ctx cid = some c) (hg : g = tget GroupEnt.zero s.fwd.group (st.c.toNat % 65536)) (h8 : s.badAt 8 false (st.c.toNat % 65536) = false)
    (hv : bitAt g.w0.toNat 31 = true) (hone : fld g.w1.toNat 0 12 = 1) (hr : r = tget Ent2.zero s.fwd.repl (fld g.w0.toNat 0 22))
    (h9 : s.badAt 9 false (fld g.w0.toNat 0 22) = false) (hrv : bitAt r.w1.toNat 31 = true) (h6 : s.badAt 6 s.fwd.cur r.w0.toNat = false)
    (he : s.exact s.fwd.cur r.w0 = none) (hq : hopOf (fld r.w1.toNat 26 2) (fld r.w1.toNat 0 11) = .port q) (hup : s.up q = true)
    (hd : s.dist (districtOf q) ≠ .draining) (hu : (copyTo s c k st payload r).h.isSched = false) (hm : s.fwd.mgmtEid ≠ 0) (hcord : s.glb.state ≠ .cordoned)
    (hroom : s.roomFor q (copyTo s c k st payload r).h.tc (copyTo s c k st payload r).cells = true) :
    sendGroup cid k st payload s = writeQueue q (copyTo s c k st payload r) (groupRead (st.c.toNat % 65536) (fld g.w0.toNat 0 22) r s) := by
  generalize hgi : st.c.toNat % 65536 = gi at hg h8
  have fwd := correctAt_fwd 8 s.fwd.cur gi s
  have group8 : s.badAt 8 s.fwd.cur gi = false := by simpa [State.badAt, badKey, banked] using h8
  have group : tget GroupEnt.zero (correctAt 8 s.fwd.cur gi s).fwd.group gi = g := by rw [fwd]; exact hg.symm
  have cur : (correctAt 8 s.fwd.cur gi s).fwd.cur = s.fwd.cur := by rw [fwd]
  have read := readMember_group (gi := gi) hr h9 hrv h6 he hq
  have same := groupRead_same (s := s) (base := fld g.w0.toNat 0 22) (r := r) gi
  have copy := copyTo_groupRead (s := s) (c := c) (k := k) (st := st) (payload := payload) (base := fld g.w0.toNat 0 22) (r := r) gi
  have sent := originate_copy (s := s) (base := fld g.w0.toNat 0 22) (r := r) gi hd hu hm hcord hroom rfl
  have open_ : (groupRead gi (fld g.w0.toNat 0 22) r s).hopDraining c.d.home.toNat (.port q) (copyTo s c k st payload r).h = false := by
    simp [State.hopDraining, chosenPort, same.dist, hd]
  have up : (groupRead gi (fld g.w0.toNat 0 22) r s).hopUp (.port q) = true := by simp [State.hopUp, same.up, hup]
  rw [copyTo] at copy
  simp only [sendGroup, hc, hgi, readEnts_one group8, group, hv, hone, Bool.not_true, Bool.false_eq_true, if_false, rangeFrom, forEach, List.range_one, List.map_cons, List.map_nil,
    List.foldl_cons, List.foldl_nil, Nat.zero_add, cur, read, copy, open_, up, Bool.or_false, sent]

theorem sendNow_group (hc : s.ctx cid = some c) (ha : st.a = 0 ∨ st.a = 3) : sendNow cid k st payload s = (sendGroup cid k st payload s, []) := by
  have group : (st.a == 0 || st.a == 3) = true := by simpa using ha
  simp only [sendNow, hc, group, if_true]

/-- A copy written to a queue leaves a FANOUT window waiting for a member that is not cordoned. -/
theorem written_fanout_waits {j : Nat} (plain : PlainSwitch s) (new : p.counted = false) (hc : s.ctx cid = some c) (hf : c.d.isFanout = true) (hj : j < c.d.members.length)
    (waits : c.memberDone j = false) (stands : s.cordoned (c.d.members.getD j 0) = false) :
    ∃ t, progressCtx cid (writeQueue q p s) = (t, []) ∧ t.lnd.held = s.lnd.held ∧ JoinsQueue q p s t := by
  have landings : SameLandings s (writeQueue q p s) := writeQueue_sameLandings
  have written : Written q p s (writeQueue q p s) := writeQueue_written plain
  obtain ⟨t, goes, lowers⟩ := progressCtx_fanout ((landings.ctx cid).trans hc) hf hj waits (by rw [writeQueue_cordoned plain new]; exact stands)
  refine ⟨t, goes, ?_, (written.then (u := t) ?_).joins⟩
  · rw [lowers.frame]
    exact landings.held
  · rw [lowers.frame]

/-- The state without one of the held results. -/
def dropHeld (i : Nat) (s : State) : State := { s with lnd.held := s.lnd.held.eraseIdx i }

theorem releaseInstant_due {i dt : Nat} {h : HeldRes} {t u v : State} (hu : u = elapse dt s) (hh : u.lnd.held[i]? = some h) (free : h.hold = false) (due : h.notBefore ≤ u.now)
    (sent : releaseHeld h (dropHeld i u) = (t, [])) (goes : progressCtx h.ctx t = (v, [])) : exec (.releaseInstant dt i) s = .next v := by
  have run : exec (.releaseInstant dt i) s = execReleaseInstant dt i s := rfl
  have waits : (h.hold || decide (u.now < h.notBefore)) = false := by simpa [free] using due
  unfold dropHeld at sent
  rw [List.eraseIdx_eq_take_drop_succ] at sent
  subst hu
  simp only [run, execReleaseInstant, hh, waits, Bool.false_eq_true, if_false, sent, localTasks, List.map_nil, List.nil_append]
  exact congrArg Host.Outcome.next (landTasks_one goes)

theorem releaseInstant_early {i dt : Nat} {h : HeldRes} (hh : s.lnd.held[i]? = some h) (waits : h.hold = true ∨ (elapse dt s).now < h.notBefore) :
    exec (.releaseInstant dt i) s = .next (elapse dt s) := by
  have run : exec (.releaseInstant dt i) s = execReleaseInstant dt i s := rfl
  have held : (elapse dt s).lnd.held[i]? = some h := by rw [elapse_kept.e_lnd]; exact hh
  have stays : (h.hold || decide ((elapse dt s).now < h.notBefore)) = true := by simpa using waits
  simp only [run, execReleaseInstant, held, stays, if_true]

theorem landingTimeout_fires {dt : Nat} {ctx : BitVec 18} {t0 : Nat} (hc : s.ctx ctx.toNat = some c) (ht : c.timer = some t0) (hz : c.d.tmo ≠ 0) (new : c.toFired = false)
    (due : c.d.tmo.toNat * 1000 ≤ s.clk + dt - t0) (hq : s.glb.state ≠ .quiesced) (hcord : s.glb.state ≠ .cordoned) (none_ : c.d.stagesOf 2 = []) :
    exec (.landingTimeout dt ctx) s = .next (raiseLnd 1 ((elapse dt s).setCtx ctx.toNat (some { c with toFired := true }))) := by
  have run : exec (.landingTimeout dt ctx) s = execLandingTimeout dt ctx s := rfl
  have ctx' : (elapse dt s).ctx ctx.toNat = some c := ((SameLandings.of_kept elapse_kept).ctx _).trans hc
  have runs : ((elapse dt s).glb.state == .quiesced || (elapse dt s).glb.state == .cordoned) = false := by simp [elapse_glb, hq, hcord]
  have on : (c.d.tmo == 0) = false := beq_eq_false_iff_ne.mpr hz
  have late : decide (s.clk + dt - t0 < c.d.tmo.toNat * 1000) = false := decide_eq_false (by omega)
  simp only [run, execLandingTimeout, ctx', runs, ht, on, new, late, none_, eventStages, landTasks_nil, elapse_clk, Option.isNone_some, Bool.or_false, Bool.false_eq_true,
    if_false]

end
end Sys2Proof.Machine

section
open Sys2Proof Sys2Proof.Machine
set_option Elab.async false

/-- Settles O25: a result whose instant has come joins its queue while the window waits for a member; a timeout is told once; tombstones and what waited too long in the pool expire; each awaited member that is cordoned falls away, no other; and a restore leaves the context resident. -/
theorem landingTimersComplete : Obligations.LandingTimersComplete := by
  refine ⟨fun dt i h c st g r q p u s hu hh free due hc htype hj hst ha hg h8 hv hone hr h9 hrv h6 he hq hup hd hp hun hm hcord hroom plain => ?_,
    fun dt i h s hh waits => completes_next (releaseInstant_early hh waits) rfl,
    fun dt ctx c t0 s hc ht hz new due hq hcord none_ => ?_, fun dt ctx s => ?_, fun dt s => ?_, fun dt ctx c j gone s hc hf hj hgone waits stays => ?_, fun ctx c s hc hr => ?_⟩
  · obtain ⟨j, hj, waits, stands⟩ := hj
    have lnd : u.lnd = s.lnd := hu ▸ elapse_kept.e_lnd
    have fwd : u.fwd = s.fwd := hu ▸ elapse_kept.e_fwd
    have same : SameSwitch s (dropHeld i u) := .trans (t := u) (by rw [hu]; exact elapse_same dt s) ⟨rfl, rfl, rfl, rfl, rfl, rfl⟩
    have hc' : (dropHeld i u).ctx h.ctx = some c := (congrArg (fun l : Lnd => tget none l.ctxs h.ctx) lnd).trans hc
    have hp' : copyTo (dropHeld i u) c h.pos st h.payload r = p := hp.symm
    have fwd' : (dropHeld i u).fwd = s.fwd := fwd
    have glb : (dropHeld i u).glb = s.glb := hu ▸ elapse_glb (dt := dt) (s := s)
    have sent := sendGroup_port (s := dropHeld i u) (q := q) (payload := h.payload) (k := h.pos) hc' (by rw [fwd']; exact hg) (by rw [State.badAt, fwd']; exact h8) hv hone
      (by rw [fwd']; exact hr) (by rw [State.badAt, fwd']; exact h9) hrv (by rw [State.badAt, fwd']; exact h6)
      (by rw [fwd', exact_of_banks (s := s) (by rw [fwd']) (by rw [fwd'])]; exact he)
      hq ((same.up q).trans hup) (by rw [same.dist]; exact hd) (by rw [hp']; exact hun) (by rw [fwd']; exact hm) (by rw [glb]; exact hcord)
      (by rw [hp']; exact (same.roomFor ..).trans hroom)
    rw [hp'] at sent
    have read := groupRead_same (s := dropHeld i u) (base := fld g.w0.toNat 0 22) (r := r) (st.c.toNat % 65536)
    have landings := groupRead_landings (s := dropHeld i u) (base := fld g.w0.toNat 0 22) (r := r) (st.c.toNat % 65536)
    have tables := groupRead_fwd (s := dropHeld i u) (base := fld g.w0.toNat 0 22) (r := r) (st.c.toNat % 65536)
    have released : releaseHeld h (dropHeld i u) = (writeQueue q p (groupRead (st.c.toNat % 65536) (fld g.w0.toNat 0 22) r (dropHeld i u)), []) := by
      simp only [releaseHeld, hc', hst, sendNow_group hc' ha, sent]
    generalize groupRead (st.c.toNat % 65536) (fld g.w0.toNat 0 22) r (dropHeld i u) = v at read landings tables released
    rw [fwd'] at tables
    have cord : v.cordoned = s.cordoned := cordoned_of_fwd (by rw [tables]) (by rw [tables]) (by rw [tables])
    obtain ⟨t, goes, held, joins⟩ := written_fanout_waits (q := q) (p := p) (read.plain (same.plain plain)) (hp ▸ rfl) ((landings.ctx _).trans hc')
      (beq_iff_eq.mpr htype) hj waits (by rw [cord]; exact beq_eq_false_iff_ne.mpr stands)
    refine completes_next (releaseInstant_due hu (by rw [lnd]; exact hh) free due released goes) ⟨?_, ?_⟩
    · rw [held, landings.held, ← lnd]
      rfl
    · rw [JoinsQueue, ← (same.trans read).queue]
      exact joins
  · refine completes_next (landingTimeout_fires hc ht hz new due hq hcord none_) ⟨?_, getLsbD_setBit_self _ (by decide), fun k hk => ?_⟩
    · exact (raiseLnd_sameLandings.ctx _).trans (setCtx_ctx_self ..)
    · exact (raiseLnd_sameLandings.ctx k).trans ((setCtx_ctx_of_ne _ _ hk).trans ((SameLandings.of_kept elapse_kept).ctx k))
  · have lnd : (elapse dt s).lnd = s.lnd := elapse_kept.e_lnd
    refine completes_next rfl ⟨fun x => ?_, ?_⟩
    · simp [lnd, imp_iff_not_or]
    · change (elapse dt s).lnd.ctxs = s.lnd.ctxs
      rw [lnd]
  · have lnd : (elapse dt s).lnd = s.lnd := elapse_kept.e_lnd
    refine completes_next rfl ?_
    rw [lnd, elapse_clk]
    split
    · next young =>
      simp only [List.isEmpty_iff, List.filter_eq_nil_iff, decide_eq_true_eq] at young
      refine ⟨fun u => ?_, fun ⟨u, hu, old⟩ => absurd old (young u hu)⟩
      rw [lnd]
      exact ⟨fun hu => ⟨hu, Nat.le_of_not_lt (young u hu)⟩, And.left⟩
    · refine ⟨fun u => ?_, fun _ => getLsbD_setBit_self _ (by decide)⟩
      have left (l : List EaUnit) (t : State) : SameLandings t (raiseLnd 3 (forEach l (fun u s => discard 44 u.pkt none s) t)) :=
        .trans (.forEach (fun _ _ => discard_sameLandings) (.refl t)) raiseLnd_sameLandings
      rw [(left _ _).pool]
      simp
  · have ctx' : (elapse dt s).ctx ctx.toNat = some c := ((SameLandings.of_kept elapse_kept).ctx _).trans hc
    have cord : (elapse dt s).cordoned = s.cordoned := cordoned_of_fwd (by rw [elapse_kept.e_fwd]) (by rw [elapse_kept.e_fwd]) (by rw [elapse_kept.e_fwd])
    have falls (i : Nat) : gone i = true ↔ c.Falls s.cordoned i := by rw [hgone, Ctx.Falls, cordoned_iff]
    have checked : cordonCheck ctx.toNat (elapse dt s) = (elapse dt s).setCtx ctx.toNat (some (c.fall s.cordoned)) := by rw [cordonCheck_fanout ctx' hf, cord]
    have fell : CtxLowers ctx.toNat (elapse dt s) (cordonCheck ctx.toNat (elapse dt s)) := cordonCheck_lowers ctx' hf
    have stands : s.cordoned (c.d.members.getD j 0) = false := by
      cases h : s.cordoned (c.d.members.getD j 0) with
      | false => rfl
      | true => exact absurd ((falls j).mpr ⟨hj, waits, h⟩) (by simp [stays])
    have lowers : Lowers s.cordoned c (c.fall s.cordoned) := fall_lowers
    have ctx'' : (cordonCheck ctx.toNat (elapse dt s)).ctx ctx.toNat = some (c.fall s.cordoned) := by rw [checked, setCtx_ctx_self]
    have cord' := fell.cordoned.trans cord
    obtain ⟨t, goes, more⟩ := progressCtx_fanout (j := j) ctx'' hf hj (lowers.awaits waits stands) (by rw [cord']; exact stands)
    obtain ⟨c', hc', last⟩ := more.ctx _ ctx''
    have all := lowers.trans (cord' ▸ last)
    refine completes_next (congrArg Host.Outcome.next (landTasks_one goes)) ⟨c', hc', all.d, all.lowered_of_fallen falls fun i hi => ?_⟩
    exact last.keeps i ((fall_lowered i).mpr (.inr ((falls i).mp hi)))
  · refine completes_next rfl ⟨?_, fun k hk => modCtx_ctx_of_ne _ _ hk⟩
    rw [modCtx_ctx_self, hc, Option.map_some, if_pos hr]

end

/-! SUPPORT. A Mill instruction of a binding that is neither in a handover nor being unbound (R279 to R285, R301, R302): what issuing it leaves of the binding, and where the thread stands after it. -/
namespace Sys2Proof.Machine
open Sys2Proof
set_option Elab.async false

/-! ### Tables of threads -/

theorem tget_map_keyed {α : Type} {d : α} {f : Nat → α → α} {l : Tab α} {k : Nat} (h : f k d = d) :
    tget d (l.map (fun e => (e.1, f e.1 e.2))) k = f k (tget d l k) := by
  induction l with
  | nil => exact h.symm
  | cons e r ih =>
    simp only [List.map_cons, tget]
    split
    · next hk => rw [hk]
    · exact ih

theorem tget_mem {α : Type} {d : α} {l : Tab α} {k : Nat} (h : tget d l k ≠ d) : (k, tget d l k) ∈ l := by
  induction l with
  | nil => exact absurd rfl h
  | cons e r ih =>
    simp only [tget] at h ⊢
    split at h
    · next hk =>
      rw [if_pos hk, hk]
      exact List.mem_cons_self ..
    · next hk =>
      rw [if_neg hk]
      exact List.mem_cons_of_mem _ (ih h)

theorem keys_tins {α : Type} {l : Tab α} {k n : Nat} {v : α} : n ∈ (tins l k v).map (·.1) ↔ n = k ∨ n ∈ l.map (·.1) := by
  induction l with
  | nil => simp [tins]
  | cons e r ih =>
    simp only [tins]
    split
    · simp
    · split
      · next hk => simp [hk]
      · simp only [List.map_cons, List.mem_cons, ih]
        exact or_left_comm

/-- The thread but for what it owes a turn. -/
def Thread.unowed (h : Thread) : Thread := { h with owe := [] }
/-- The thread but for that, and for whether it has stepped. -/
def Thread.bare (h : Thread) : Thread := { h with owe := [], stepped := false }

theorem unowed_fields {h k : Thread} (e : h.unowed = k.unowed) : h.st = k.st ∧ h.pc = k.pc ∧ h.x = k.x ∧ h.stepped = k.stepped ∧ h.item = k.item := by
  injection e with st _ pc x stepped _ item
  exact ⟨st, pc, x, stepped, item⟩
theorem bare_fields {h k : Thread} (e : h.bare = k.bare) : h.st = k.st ∧ h.pc = k.pc ∧ h.x = k.x := by
  injection e with st _ pc x
  exact ⟨st, pc, x⟩

/-- The tables list the same threads, alike in what `f` keeps. -/
structure Alike (f : Thread → Thread) (l l' : Tab Thread) : Prop where
  thread : ∀ k, f (tget Thread.reset l' k) = f (tget Thread.reset l k)
  keys : ∀ k, k ∈ l'.map (·.1) ↔ k ∈ l.map (·.1)

namespace Alike
variable {f : Thread → Thread} {l l' l'' : Tab Thread}

theorem refl (l : Tab Thread) : Alike f l l := ⟨fun _ => rfl, fun _ => Iff.rfl⟩
theorem trans (h : Alike f l l') (k : Alike f l' l'') : Alike f l l'' := ⟨fun n => (k.thread n).trans (h.thread n), fun n => (k.keys n).trans (h.keys n)⟩
theorem bare (h : Alike Thread.unowed l l') : Alike Thread.bare l l' :=
  ⟨fun n => congrArg (fun h : Thread => { h with stepped := false }) (h.thread n), h.keys⟩
theorem mapped {g : Nat → Thread → Thread} (hr : ∀ k, g k Thread.reset = Thread.reset) (hg : ∀ k h, f (g k h) = f h) : Alike f l (l.map (fun e => (e.1, g e.1 e.2))) :=
  ⟨fun k => by rw [tget_map_keyed (hr k), hg], fun k => by simp [List.map_map, Function.comp_def]⟩
/-- A thread of the table changes in what `f` drops. -/
theorem modified {g : Thread → Thread} {k : Nat} (here : k ∈ l.map (·.1)) (new : g (tget Thread.reset l k) ≠ Thread.reset)
    (hg : f (g (tget Thread.reset l k)) = f (tget Thread.reset l k)) : Alike f l (tmod Thread.reset l k g) := by
  refine ⟨fun n => ?_, fun n => ?_⟩
  · by_cases hn : n = k
    · rw [hn, tget_tmod_self, hg]
    · rw [tget_tmod_of_ne _ _ _ hn]
  · rw [tmod, tset, if_neg new, keys_tins]
    exact or_iff_right_of_imp fun e => e ▸ here

end Alike

theorem keys_tmod {l : Tab Thread} {g : Thread → Thread} {k n : Nat} (here : k ∈ l.map (·.1)) (new : g (tget Thread.reset l k) ≠ Thread.reset) :
    n ∈ (tmod Thread.reset l k g).map (·.1) ↔ n ∈ l.map (·.1) := by
  rw [tmod, tset, if_neg new, keys_tins]
  exact or_iff_right_of_imp fun e => e ▸ here

/-- A thread that does not stand stopped is listed. -/
theorem key_of_running {l : Tab Thread} {k : Nat} (h : (tget Thread.reset l k).st ≠ .stopped) : k ∈ l.map (·.1) :=
  List.mem_map.mpr ⟨_, tget_mem fun e => h (by rw [e]; rfl), rfl⟩

/-! ### A binding with one side, which takes work -/

theorem modThread_coreOf (t : Th) (f : Thread → Thread) (s : State) (g : Nat) : (modThread t f s).coreOf g = s.coreOf g := rfl

/-- The thread's binding, neither in a handover nor being unbound. -/
structure Settled (t : Th) (s : State) (b : Binding) : Prop where
  bind : s.bindOf (thBid t) = some b
  place : b.oldPlace = none
  takes : b.closing = false

namespace Settled
variable {t : Th} {s u : State} {b : Binding}

theorem side_eq (h : Settled t s b) : b.side = ⟨b.place, b.threads, b.tiles, b.scratch, b.yards⟩ := by rw [Binding.side, h.place]
theorem side (h : Settled t s b) : s.side (thBid t) = some ⟨b.place, b.threads, b.tiles, b.scratch, b.yards⟩ := by
  rw [State.side, h.bind, Option.map_some, h.side_eq]
theorem thread (h : Settled t s b) : s.thread t = tget Thread.reset b.threads (thKey t) := by rw [State.thread, h.side]
theorem gcore (h : Settled t s b) : s.gcore t = 8 * b.place.district + t.core.val := by rw [State.gcore, h.side]
theorem of_binds (h : Settled t s b) (e : u.mil.binds = s.mil.binds) : Settled t u b := ⟨by rw [State.bindOf, e]; exact h.bind, h.place, h.takes⟩
theorem of_mil (h : Settled t s b) (e : u.mil = s.mil) : Settled t u b := h.of_binds (by rw [e])
/-- It is also the binding of each other thread that has it. -/
theorem other {w : Th} (h : Settled t s b) (e : w.bind = t.bind) : Settled w s b := ⟨by rw [thBid, e]; exact h.bind, h.place, h.takes⟩
theorem goOn (h : Settled t s b) (k : Nat) : s.goOn (thBid t) k = if b.resident.getLsbD (k / 16) then .ready else .saved := by
  rw [State.goOn, State.residentOn, h.bind]

/-- The binding's side is changed. -/
theorem modSide {f : Side → Side} (h : Settled t s b) : Settled t (modSide (thBid t) f s)
    { b with
      threads := (f ⟨b.place, b.threads, b.tiles, b.scratch, b.yards⟩).threads
      tiles := (f ⟨b.place, b.threads, b.tiles, b.scratch, b.yards⟩).tiles
      scratch := (f ⟨b.place, b.threads, b.tiles, b.scratch, b.yards⟩).scratch
      yards := (f ⟨b.place, b.threads, b.tiles, b.scratch, b.yards⟩).yards } := by
  refine ⟨?_, h.place, h.takes⟩
  rw [Machine.modSide, modBind_bindOf_self, h.bind, Option.map_some, Binding.putSide, h.place, ← h.side_eq]
theorem modThread {f : Thread → Thread} (h : Settled t s b) : Settled t (modThread t f s) { b with threads := tmod Thread.reset b.threads (thKey t) f } :=
  h.modSide (f := fun v => { v with threads := tmod Thread.reset v.threads (thKey t) f })
theorem setYard {y : Nat} {l : List YItem} (h : Settled t s b) : Settled t (setYard (thBid t) y l s) { b with yards := tset [] b.yards y l } :=
  h.modSide (f := fun v => { v with yards := tset [] v.yards y l })

theorem modThread_thread {f : Thread → Thread} (h : Settled t s b) : (Machine.modThread t f s).thread t = f (s.thread t) := by
  rw [h.modThread.thread, h.thread, tget_tmod_self]

/-- Where its instructions stand is no part of what a thread holds. -/
theorem curItem_pc {y n : Nat} (h : Settled t s b) : (Machine.modThread t (fun h => { h with pc := n }) s).curItem t y = s.curItem t y := by
  simp only [State.curItem, h.modThread.side, h.side, h.modThread_thread, Side.yard]
  cases tget none (s.thread t).item y <;> rfl

/-- Nothing of the binding is to end. -/
theorem settleEnding (h : Settled t s b) : settleEnding (thBid t) s = s := by
  have goes : stopThreads (thBid t) s = s := by simp [stopThreads, h.bind, Binding.ending, h.place, h.takes]
  rw [Machine.settleEnding, goes]
  simp [finishUnbind, h.bind, h.takes]

end Settled

/-! ### Issuing -/

section
variable {t : Th} {s u v : State} {b b' : Binding} {op : Nat} {i : Ins}

/-- No thread of a binding waits any longer for one that has issued (R286). -/
def forgive (id bid : Nat) (s : State) : State :=
  modSide bid (fun v => { v with threads := v.threads.map (fun e => (e.1, { e.2 with owe := e.2.owe.filter (· != id) })) }) s

theorem noteIssue_eq : noteIssue t s = (forEach ((s.bindsOn (s.gcore t)).map (·.1)) (forgive (thId t)) s).modCore (s.gcore t) (fun c => { c with lastIssue := thId t + 1 }) := rfl

/-- Of the thread's binding no more changed than what its threads owe. -/
structure OnlyOwed (t : Th) (s : State) (b : Binding) (u : State) : Prop where
  settled : ∃ l, Settled t u { b with threads := l } ∧ Alike Thread.unowed b.threads l
  cores : u.mil.cores = s.mil.cores

theorem OnlyOwed.forgive {id bid : Nat} (h : OnlyOwed t s b u) : OnlyOwed t s b (forgive id bid u) := by
  obtain ⟨⟨l, settled, alike⟩, cores⟩ := h
  refine ⟨?_, cores⟩
  by_cases hb : thBid t = bid
  · subst hb
    refine ⟨_, settled.modSide (f := fun v => { v with threads := v.threads.map (fun e => (e.1, { e.2 with owe := e.2.owe.filter (· != id) })) }), alike.trans ?_⟩
    exact .mapped (g := fun _ h => { h with owe := h.owe.filter (· != id) }) (fun _ => rfl) (fun _ _ => rfl)
  · exact ⟨l, ⟨(modBind_bindOf_of_ne _ _ hb).trans settled.bind, settled.place, settled.takes⟩, alike⟩

/-- What issuing leaves of the thread's binding and of its core. -/
structure HasIssued (t : Th) (s : State) (b : Binding) (l : Tab Thread) (u : State) : Prop where
  settled : Settled t u { b with threads := l }
  alike : Alike Thread.unowed b.threads l
  core : u.coreOf (s.gcore t) = { s.coreOf (s.gcore t) with lastIssue := thId t + 1 }
  kept : Kept [.mil] s u

theorem noteIssue_issued (h : Settled t s b) : ∃ l, HasIssued t s b l (noteIssue t s) := by
  have forgiven : OnlyOwed t s b (forEach ((s.bindsOn (s.gcore t)).map (·.1)) (forgive (thId t)) s) :=
    forEach_invariant (P := OnlyOwed t s b) (fun _ _ _ k => k.forgive) ⟨⟨b.threads, h, .refl _⟩, rfl⟩
  obtain ⟨⟨l, settled, alike⟩, cores⟩ := forgiven
  refine ⟨l, ⟨settled.bind, settled.place, settled.takes⟩, alike, ?_, noteIssue_kept⟩
  rw [noteIssue_eq, modCore_coreOf_self, State.coreOf, State.coreOf, cores]

namespace HasIssued
variable {l : Tab Thread}

theorem thread (h : HasIssued t s b l u) (hs : Settled t s b) :
    (u.thread t).st = (s.thread t).st ∧ (u.thread t).pc = (s.thread t).pc ∧ (u.thread t).x = (s.thread t).x ∧ (u.thread t).stepped = (s.thread t).stepped ∧
      (u.thread t).item = (s.thread t).item := by
  rw [h.settled.thread, hs.thread]
  exact unowed_fields (h.alike.thread _)
theorem gcore (h : HasIssued t s b l u) (hs : Settled t s b) : u.gcore t = s.gcore t := by rw [h.settled.gcore, hs.gcore]
theorem xr (h : HasIssued t s b l u) (hs : Settled t s b) (n : Nat) : u.xr t n = s.xr t n := by
  obtain ⟨-, -, x, -⟩ := h.thread hs
  rw [State.xr, State.xr, x]
theorem curItem (h : HasIssued t s b l u) (hs : Settled t s b) (y : Nat) : u.curItem t y = s.curItem t y := by
  obtain ⟨-, -, -, -, item⟩ := h.thread hs
  simp only [State.curItem, h.settled.side, hs.side, item, Side.yard]
  cases tget none (s.thread t).item y <;> rfl
theorem ctx (h : HasIssued t s b l u) (k : Nat) : u.ctx k = s.ctx k := by rw [State.ctx, State.ctx, h.kept.e_lnd]

end HasIssued

/-- A thread that may issue is READY on a core where its binding is resident. -/
theorem canIssue_ready (h : s.canIssue t = true) : (s.thread t).st = .ready ∧ s.residentOn (thBid t) t.core.val = true := by
  simp only [State.canIssue, Bool.and_eq_true, beq_iff_eq] at h
  exact ⟨h.1.1.1.1.2, h.1.1.1.2⟩

/-- A thread that issues has a binding that takes work, and issuing leaves of it what `HasIssued` says. -/
theorem issues_issued (issues : Issues t op i s) : ∃ b l, Settled t s b ∧ HasIssued t s b l (noteIssue t s) := by
  obtain ⟨-, ⟨b, hb, place, takes⟩, -⟩ := issues
  have hs : Settled t s b := ⟨hb, place, takes⟩
  obtain ⟨l, issued⟩ := noteIssue_issued hs
  exact ⟨b, l, hs, issued⟩

/-- An instruction that is issued, and whose effect leaves the binding taking work, ends with the thread at the next word. -/
theorem runMill_ok {used : Ins → Used} {body : Ins → State → MRes} (issues : Issues t op i s) (known : knownOps.contains op = true) (holds : (used i).holds i = true)
    (run : body i (noteIssue t s) = .ok v) (hv : Settled t v b') : runMill t op used body s = modThread t (fun h => { h with pc := (s.thread t).pc + 1 }) v := by
  obtain ⟨may, ⟨b, hb, place, takes⟩, inside, opcode, fields⟩ := issues
  have hs : Settled t s b := ⟨hb, place, takes⟩
  have image : s.imageOf t = s.placeImage b.place := by rw [State.imageOf, hs.side]
  rw [image] at inside opcode fields
  have word : (decide (imgCode (s.placeImage b.place) ≤ (s.thread t).pc) || !knownOps.contains op) = false := by
    simpa only [known, Bool.not_true, Bool.or_false, decide_eq_false_iff_not, Nat.not_le] using inside
  simp only [runMill, hs.side, may, opcode, word, fields, holds, run, bne_self_eq_false, Bool.not_true, Bool.false_eq_true, if_false]
  exact hv.modThread.settleEnding

theorem goesOn_of (hv : Settled t v b') (st : (v.thread t).st = .ready) : GoesOn t s (modThread t (fun h => { h with pc := (s.thread t).pc + 1 }) v) := by
  rw [GoesOn, hv.modThread_thread]
  exact ⟨rfl, st⟩

theorem xSet_of (hv : Settled t v b') {n : Nat} (x : (v.thread t).x = (s.thread t).x) : XSet t 0 0 s (modThread t (fun h => { h with pc := n }) v) := by
  intro k
  have same : ((modThread t (fun h => { h with pc := n }) v).thread t).x = (s.thread t).x := by rw [hv.modThread_thread]; exact x
  simp only [State.xr, same, ne_eq, not_true_eq_false, and_false, if_false]

/-- A command that runs an instruction after which its thread is READY, with its registers as they were. -/
theorem completes_issue {ins : Instr} {used : Ins → Used} {body : Ins → State → MRes} {P : State → Prop} (hexec : exec ins s = .next (runMill t op used body s))
    (issues : Issues t op i s) (known : knownOps.contains op = true) (holds : (used i).holds i = true) (run : body i (noteIssue t s) = .ok v) (hv : Settled t v b')
    (st : (v.thread t).st = (s.thread t).st) (x : (v.thread t).x = (s.thread t).x) (h : P (modThread t (fun h => { h with pc := (s.thread t).pc + 1 }) v)) :
    Completes ins s fun u => GoesOn t s u ∧ XSet t 0 0 s u ∧ P u :=
  ⟨_, hexec.trans (congrArg Host.Outcome.next (runMill_ok issues known holds run hv)), goesOn_of hv (st.trans (canIssue_ready issues.1).1), xSet_of hv x, h⟩

end
end Sys2Proof.Machine

/-! SUPPORT. TRIG and DONE (R228, R286, R296): a trigger with nothing due, and a finish item that ends. -/
namespace Sys2Proof.Machine
open Sys2Proof
set_option Elab.async false

section
variable {s u : State} {cid : Nat} {c : Ctx}

/-- Every held result of a context waits no longer for its trigger. -/
def freed (cid : Nat) (l : List HeldRes) : List HeldRes := l.map (fun h => if h.ctx == cid then { h with hold := false } else h)

/-- A context whose hold has ended, before the instant of what it holds. -/
def triggered (cid : Nat) (s : State) : State := { s.modCtx cid (fun c => { c with holdOff := true }) with lnd.held := freed cid s.lnd.held }

theorem triggered_ctx (hc : s.ctx cid = some c) : (triggered cid s).ctx cid = some { c with holdOff := true } := by
  have same : (triggered cid s).ctx cid = (s.modCtx cid (fun c => { c with holdOff := true })).ctx cid := rfl
  rw [same, modCtx_ctx_self, hc, Option.map_some]

theorem triggerCtx_waits (hc : s.ctx cid = some c) (early : ∀ h, h ∈ s.lnd.held → h.ctx = cid → s.now < h.notBefore) :
    triggerCtx cid s = (triggered cid s, [.progress cid]) := by
  have not_due (h : HeldRes) (hh : h ∈ freed cid s.lnd.held) : (h.ctx == cid && decide (h.notBefore ≤ s.now)) = false := by
    obtain ⟨k, hk, rfl⟩ := List.mem_map.mp hh
    have waits := early k hk
    by_cases mine : k.ctx = cid
    · simpa [mine] using waits mine
    · simp [mine]
  have due : (freed cid s.lnd.held).filter (fun h => h.ctx == cid && decide (h.notBefore ≤ s.now)) = [] :=
    List.filter_eq_nil_iff.mpr fun h hh => by simp [not_due h hh]
  have rest : (freed cid s.lnd.held).filter (fun h => !(h.ctx == cid && decide (h.notBefore ≤ s.now))) = freed cid s.lnd.held :=
    List.filter_eq_self.mpr fun h hh => by simp [not_due h hh]
  have now (f : Ctx → Ctx) : (s.modCtx cid f).now = s.now := rfl
  have held (f : Ctx → Ctx) : (s.modCtx cid f).lnd.held = s.lnd.held := rfl
  unfold freed at due rest
  simp only [triggerCtx, hc, held, now, due, rest, releaseAll, localTasks, List.map_nil, List.nil_append]
  rfl

/-- A trigger with nothing due, of a window that waits. -/
theorem landTasks_trigger {k : Nat} (hc : s.ctx cid = some c) (early : ∀ h, h ∈ s.lnd.held → h.ctx = cid → s.now < h.notBefore) (hf : c.d.isFanout = false)
    (hn : c.d.isCount = false) (hk : k < c.d.nch) (open_ : (c.chunk k).done = false) (rest : ∀ n, c.Rests n) : landTasks [.trigger cid] s = triggered cid s :=
  landTasks_two (triggerCtx_waits hc early) (progressCtx_rests (triggered_ctx hc) hf hn hk open_ rest)

/-- The only stage left of a chunk has ended: the chunk is done. -/
def Ctx.finished (c : Ctx) (k : Nat) : Ctx := c.setChunk k { c.chunk k with running := none, done := true }

theorem finished_rests {pos n : Nat} (idle : ∀ n, n ≠ pos → (c.chunk n).running = none ∧ c.chunkReady n = false) : (c.finished pos).Rests n := by
  by_cases hn : n = pos
  · left
    rw [hn, Ctx.finished, chunk_setChunk_self]
  · obtain ⟨running, ready⟩ := idle n hn
    have same : (c.finished pos).chunk n = c.chunk n := chunk_setChunk_of_ne _ _ hn
    refine .inr ⟨by rw [same, running], ?_⟩
    simp only [Ctx.chunkReady, same] at ready ⊢
    exact ready

theorem runStages_nil {pos : Nat} (hc : s.ctx cid = some c) : runStages cid pos [] s = (s.setCtx cid (some (c.finished pos)), []) := by
  rw [runStages, modChunk, State.modCtx, hc]
  rfl

/-- After its last stage a chunk leaves the window waiting for another. -/
theorem landTasks_finished {pos k : Nat} (hf : c.d.isFanout = false) (hn : c.d.isCount = false) (hk : k < c.d.nch) (other : k ≠ pos)
    (open_ : (c.chunk k).done = false) (idle : ∀ n, n ≠ pos → (c.chunk n).running = none ∧ c.chunkReady n = false) :
    landTasks [.progress cid] (s.setCtx cid (some (c.finished pos))) = s.setCtx cid (some (c.finished pos)) :=
  landTasks_one (progressCtx_rests (setCtx_ctx_self ..) hf hn hk (by rw [Ctx.finished, chunk_setChunk_of_ne _ _ other, open_]) fun _ => finished_rests idle)

theorem finishChunk_ctx {it : YItem} {pos : Nat} (h : s.finishChunk it = some (cid, pos, c)) : s.ctx cid = some c := by
  simp only [State.finishChunk] at h
  split at h
  · split at h
    · next hc =>
      simp only [Option.ite_none_right_eq_some, Option.some.injEq, Prod.mk.injEq] at h
      obtain ⟨-, rfl, -, rfl⟩ := h
      exact hc
    · exact nomatch h
  · exact nomatch h

variable {t : Th} {b : Binding} {it : YItem} {pos step : Nat}

/-- A finish item that ends is no longer the thread's, which otherwise stands as before. -/
theorem endItem_finish (h : Settled t s b) (cur : s.curItem t 0 = some it) (kind : it.kind = .finish cid pos step) :
    Kept [.mil] s (endItem t 0 s) ∧ ∃ b', Settled t (endItem t 0 s) b' ∧ (endItem t 0 s).curItem t 0 = none ∧
      ((endItem t 0 s).thread t).st = (s.thread t).st ∧ ((endItem t 0 s).thread t).x = (s.thread t).x := by
  have flow : it.flow? = none := by simp [YItem.flow?, kind]
  have cleared := h.modThread (f := fun h => { h with item := tset none h.item 0 none })
  have ended : endItem t 0 s = setYard (thBid t) 0 ((tget [] b.yards 0).filter (fun j => j.id != it.id)) (setCur t 0 none s) := by
    simp only [endItem, cur, flow, setCur, cleared.side, Side.yard]
  rw [ended]
  have settled := cleared.setYard (y := 0) (l := (tget [] b.yards 0).filter (fun j => j.id != it.id))
  have thread : (setYard (thBid t) 0 ((tget [] b.yards 0).filter (fun j => j.id != it.id)) (setCur t 0 none s)).thread t =
      { s.thread t with item := tset none (s.thread t).item 0 none } := by
    rw [← h.modThread_thread (f := fun h => { h with item := tset none h.item 0 none }), cleared.thread]
    exact settled.thread
  refine ⟨modThread_kept.trans modSide_kept, _, settled, ?_, by rw [thread], by rw [thread]⟩
  simp only [State.curItem, thread, tget_tset_self]
  split
  · next e => exact nomatch e
  · rfl

theorem finishChunk_congr {it : YItem} (h : ∀ k, u.ctx k = s.ctx k) : u.finishChunk it = s.finishChunk it := by simp only [State.finishChunk, h]

/-- What was to come back in OUTFMT 0xFF, the accumulator format, is in place already. -/
theorem handBack_raw {j : Nat} {g : Stage} (hg : c.d.stages[j]? = some g) (raw : g.a = 0xFF) : handBack cid pos c j s = s := by
  simp only [handBack, hg, raw]
  rfl

/-- DONE of a chunk whose FINISH is its last stage, and whose line comes back as it is. -/
theorem millDone_last {j : Nat} {g : Stage} (cur : s.curItem t 0 = some it) (kind : it.kind = .finish cid pos step) (fin : s.finishChunk it = some (cid, pos, c))
    (run : (c.chunk pos).running = some j) (hg : c.d.stages[j]? = some g) (raw : g.a = 0xFF) (last : ∀ n, n ∈ c.d.stagesOf 0 → n ≤ j)
    (hc : (endItem t 0 s).ctx cid = some c)
    (ends : landTasks [.progress cid] ((endItem t 0 s).setCtx cid (some (c.finished pos))) = (endItem t 0 s).setCtx cid (some (c.finished pos))) :
    millDone t s = .ok ((endItem t 0 s).setCtx cid (some (c.finished pos))) := by
  have left : (c.d.stagesOf 0).filter (fun k => decide (j < k)) = [] := List.filter_eq_nil_iff.mpr fun n hn => by simpa using last n hn
  simp only [millDone, cur, kind, fin, run, handBack_raw hg raw, left, runStages_nil hc, localTasks, List.map_nil, List.nil_append, ends]

/-- TRIG of a context of the thread's own job runs. -/
theorem trig_ok {i : Ins} {v : State} (ha : i.s1 < 32) (hcid : cid = s.xr t i.s1 % 2 ^ 18) (hc : s.ctx cid = some c) (job : ∀ j, s.itemJob t = some j → c.d.job = j)
    (ends : landTasks [.trigger cid] s = v) : trig t i s = .ok v := by
  have inside : decide (32 ≤ i.s1) = false := decide_eq_false (by omega)
  subst hcid
  cases hj : s.itemJob t with
  | none => simp only [trig, guarded, firstFault, inside, hc, hj, ends, Bool.false_eq_true, if_false]
  | some j => simp only [trig, guarded, firstFault, inside, hc, hj, ends, job j hj, bne_self_eq_false, Bool.false_eq_true, if_false]

end
end Sys2Proof.Machine

/-! SUPPORT. BAR and STEP (R306, R307): the step boundary of a binding on a core, and the barrier of all its threads. -/
namespace Sys2Proof.Machine
open Sys2Proof
set_option Elab.async false

/-! ### The step boundary -/

theorem thKey_lt (t : Th) : thKey t / 16 = t.core.val := by
  have := t.th.isLt
  unfold thKey
  omega

theorem thKey_ne {t w : Th} (hb : w.bind = t.bind) (hc : w.core = t.core) (ne : w ≠ t) : thKey w ≠ thKey t := by
  intro e
  refine ne ?_
  obtain ⟨bind, core, th⟩ := w
  obtain ⟨bind', core', th'⟩ := t
  simp only [thKey] at e hb hc
  subst hb hc
  rw [Th.mk.injEq]
  exact ⟨rfl, rfl, Fin.ext (by omega)⟩

/-- Every thread of the binding on the core has stopped or has stepped. -/
def boundary (t : Th) (l : Tab Thread) : Bool := ((List.range 16).map (fun i => tget Thread.reset l (16 * t.core.val + i))).all (fun h => h.st == .stopped || h.stepped)

theorem boundary_iff {t : Th} {l : Tab Thread} : boundary t l = true ↔
    ∀ w : Th, w.bind = t.bind → w.core = t.core → (tget Thread.reset l (thKey w)).st = .stopped ∨ (tget Thread.reset l (thKey w)).stepped = true := by
  simp only [boundary, List.all_map, List.all_eq_true, List.mem_range, Function.comp_apply, Bool.or_eq_true, beq_iff_eq]
  refine ⟨fun h w _ hc => ?_, fun h i hi => h ⟨t.bind, t.core, ⟨i, hi⟩⟩ rfl rfl⟩
  rw [thKey, hc]
  exact h w.th.val w.th.isLt

/-- The table after a thread has executed STEP or BAR. -/
def stepping (t : Th) (l : Tab Thread) : Tab Thread := tmod Thread.reset l (thKey t) (fun h => { h with stepped := true })
/-- A thread after the boundary of a core. -/
def Thread.pastOn (core k : Nat) (h : Thread) : Thread := if k / 16 == core then { h with stepped := false } else h
/-- The table after the boundary. -/
def past (t : Th) (l : Tab Thread) : Tab Thread := l.map (fun e => (e.1, e.2.pastOn t.core.val e.1))

theorem pastOn_reset (core k : Nat) : Thread.reset.pastOn core k = Thread.reset := by
  rw [Thread.pastOn]
  split <;> rfl
theorem tget_past {t : Th} {l : Tab Thread} {k : Nat} : tget Thread.reset (past t l) k = (tget Thread.reset l k).pastOn t.core.val k :=
  tget_map_keyed (f := fun k (h : Thread) => h.pastOn t.core.val k) (pastOn_reset _ _)
theorem pastOn_bare (core k : Nat) (h : Thread) : (h.pastOn core k).bare = h.bare := by
  rw [Thread.pastOn]
  split <;> rfl

section
variable {t : Th} {s : State} {b : Binding}

theorem noteStep_waits (h : Settled t s b) (before : boundary t (stepping t b.threads) = false) : noteStep t s = modThread t (fun h => { h with stepped := true }) s := by
  unfold boundary stepping at before
  simp only [noteStep, h.modThread.side, before, Bool.false_eq_true, if_false]

theorem noteStep_boundary (h : Settled t s b) (at_ : boundary t (stepping t b.threads) = true) : noteStep t s =
    rebuildShare (s.gcore t) (modSide (thBid t) (fun v => { v with threads := past t v.threads }) (modThread t (fun h => { h with stepped := true }) s)) := by
  have gcore : (modThread t (fun h => { h with stepped := true }) s).gcore t = s.gcore t := by rw [h.modThread.gcore, h.gcore]
  have same (l : Tab Thread) : l.map (fun e => if e.1 / 16 == t.core.val then (e.1, { e.2 with stepped := false }) else e) = past t l :=
    List.map_congr_left fun e _ => by
      rw [Thread.pastOn]
      split <;> rfl
  unfold boundary stepping at at_
  simp only [noteStep, h.modThread.side, at_, if_true, gcore, same]

theorem rebuildShare_settled {g : Nat} (h : Settled t s b) : Settled t (rebuildShare g s) b := h.of_binds rfl
theorem rebuildShare_ops {g : Nat} : ((rebuildShare g s).coreOf g).ops = [] := by simp only [rebuildShare, modCore_coreOf_self]

/-- At the boundary each thread of the core may step anew. -/
theorem noteStep_past (h : Settled t s b) (at_ : boundary t (stepping t b.threads) = true) : Settled t (noteStep t s) { b with threads := past t (stepping t b.threads) } ∧
    (noteStep t s).thread t = { s.thread t with stepped := false } ∧ ((noteStep t s).coreOf (s.gcore t)).ops = [] := by
  rw [noteStep_boundary h at_]
  have settled : Settled t (rebuildShare (s.gcore t) (modSide (thBid t) (fun v => { v with threads := past t v.threads }) (modThread t (fun h => { h with stepped := true }) s)))
      { b with threads := past t (stepping t b.threads) } := rebuildShare_settled (h.modThread.modSide (f := fun v => { v with threads := past t v.threads }))
  refine ⟨settled, ?_, rebuildShare_ops⟩
  have mine : tget Thread.reset (past t (stepping t b.threads)) (thKey t) = { tget Thread.reset b.threads (thKey t) with stepped := false } := by
    rw [tget_past, stepping, tget_tmod_self, Thread.pastOn, thKey_lt, beq_self_eq_true, if_pos rfl]
  rw [h.thread]
  exact settled.thread.trans mine

/-- What a step leaves of the binding's threads. -/
theorem noteStep_settled (h : Settled t s b) (runs : (s.thread t).st ≠ .stopped) : ∃ l, Settled t (noteStep t s) { b with threads := l } ∧ Alike Thread.bare b.threads l := by
  rw [h.thread] at runs
  have stepped : Alike Thread.bare b.threads (stepping t b.threads) := .modified (key_of_running runs) (fun e => runs (congrArg Thread.st e)) rfl
  cases hb : boundary t (stepping t b.threads) with
  | false =>
    rw [noteStep_waits h hb]
    exact ⟨_, h.modThread, stepped⟩
  | true =>
    refine ⟨past t (stepping t b.threads), (noteStep_past h hb).1, stepped.trans ?_⟩
    exact .mapped (g := fun k h => h.pastOn t.core.val k) (pastOn_reset _) (pastOn_bare _)

/-- The step of a thread that has issued is the last of its core where each other thread has stopped or has stepped. -/
theorem boundary_issued {l : Tab Thread} (hs : Settled t s b) (alike : Alike Thread.unowed b.threads l) : boundary t (stepping t l) = true ↔
    ∀ w : Th, w.bind = t.bind → w.core = t.core → w ≠ t → (s.thread w).st = .stopped ∨ (s.thread w).stepped = true := by
  have other (w : Th) (hb : w.bind = t.bind) (hc : w.core = t.core) (ne : w ≠ t) :
      (tget Thread.reset (stepping t l) (thKey w)).st = (s.thread w).st ∧ (tget Thread.reset (stepping t l) (thKey w)).stepped = (s.thread w).stepped := by
    obtain ⟨st, -, -, stepped, -⟩ := unowed_fields (alike.thread (thKey w))
    rw [stepping, tget_tmod_of_ne _ _ _ (thKey_ne hb hc ne), (hs.other hb).thread]
    exact ⟨st, stepped⟩
  rw [boundary_iff]
  refine ⟨fun h w hb hc ne => ?_, fun h w hb hc => ?_⟩
  · obtain ⟨st, stepped⟩ := other w hb hc ne
    rw [← st, ← stepped]
    exact h w hb hc
  · by_cases ne : w = t
    · subst ne
      right
      rw [stepping, tget_tmod_self]
    · obtain ⟨st, stepped⟩ := other w hb hc ne
      rw [st, stepped]
      exact h w hb hc ne

/-! ### The barrier -/

/-- A thread that goes on from where it waited. -/
def Thread.woken (st : ThState) (h : Thread) : Thread := { h with st := st, waits := .none }

/-- Threads that are woken, each perhaps more than once, go on; the others stand as they did. -/
theorem wakeAll_settled (ks : List Nat) (h : Settled t s b) : ∃ l, Settled t (forEach ks (wake (thBid t)) s) { b with threads := l } ∧
    ∀ k, tget Thread.reset l k = if k ∈ ks then (tget Thread.reset b.threads k).woken (s.goOn (thBid t) k) else tget Thread.reset b.threads k := by
  induction ks generalizing s b with
  | nil => exact ⟨b.threads, h, fun k => by simp⟩
  | cons a r ih =>
    have first : Settled t (wake (thBid t) a s) { b with threads := tmod Thread.reset b.threads a (Thread.woken (s.goOn (thBid t) a)) } :=
      h.modSide (f := fun v => { v with threads := tmod Thread.reset v.threads a (Thread.woken (s.goOn (thBid t) a)) })
    obtain ⟨l, settled, threads⟩ := ih first
    refine ⟨l, settled, fun k => ?_⟩
    have goes : (wake (thBid t) a s).goOn (thBid t) k = s.goOn (thBid t) k := (first.goOn k).trans (h.goOn k).symm
    rw [threads k, goes]
    by_cases hk : k = a
    · simp only [hk, tget_tmod_self, List.mem_cons_self, if_true]
      split <;> rfl
    · simp only [tget_tmod_of_ne _ _ _ hk, List.mem_cons, hk, false_or]

/-- The binding's threads before a barrier is looked at: the thread waits at it, the others stand as they did. -/
structure AtBarrier (t : Th) (s u : State) (b : Binding) (l : Tab Thread) : Prop where
  settled : Settled t u { b with threads := l, arrived := tset false b.arrived (thKey t) true }
  keys : ∀ k, k ∈ l.map (·.1) ↔ k ∈ b.threads.map (·.1)
  others : ∀ k, k ≠ thKey t → (tget Thread.reset l k).st = (tget Thread.reset b.threads k).st
  waits : (tget Thread.reset l (thKey t)).st = .barrier
  x : (tget Thread.reset l (thKey t)).x = (s.thread t).x

/-- A thread reaches BAR. -/
def reach (t : Th) (s : State) : State :=
  (noteStep t (modThread t (fun h => { h with st := .barrier }) s)).modBind (thBid t) (fun b => { b with arrived := tset false b.arrived (thKey t) true })

theorem barrier_eq : barrier t s = releaseBarrier (thBid t) (reach t s) := rfl

theorem reach_atBarrier {l : Tab Thread} (h : Settled t s { b with threads := l }) (alike : Alike Thread.unowed b.threads l) (runs : (s.thread t).st ≠ .stopped) :
    ∃ l', AtBarrier t s (reach t s) b l' := by
  have arrives := h.modThread (f := fun h => { h with st := .barrier })
  have waits : ((modThread t (fun h => { h with st := .barrier }) s).thread t) = { s.thread t with st := .barrier } := h.modThread_thread
  obtain ⟨l', stepped, bare⟩ := noteStep_settled arrives (by rw [waits]; exact nofun)
  have runs' : (tget Thread.reset l (thKey t)).st ≠ .stopped := h.thread ▸ runs
  replace bare : Alike Thread.bare (tmod Thread.reset l (thKey t) (fun h => { h with st := .barrier })) l' := bare
  have listed (k : Nat) := keys_tmod (n := k) (g := fun h => { h with st := .barrier }) (key_of_running runs') (fun e => nomatch congrArg Thread.st e)
  have mine := bare_fields (bare.thread (thKey t))
  rw [tget_tmod_self] at mine
  refine ⟨l', ⟨?_, stepped.place, stepped.takes⟩, fun k => ?_, fun k hk => ?_, mine.1, ?_⟩
  · rw [reach, modBind_bindOf_self, stepped.bind]
    rfl
  · exact (bare.keys k).trans ((listed k).trans (alike.keys k))
  · have st := (bare_fields (bare.thread k)).1
    rw [tget_tmod_of_ne _ _ _ hk] at st
    exact st.trans (unowed_fields (alike.thread k)).1
  · rw [mine.2.2, h.thread]

theorem modThread_pc_st {w : Th} {n : Nat} (h : Settled t s b) (hw : w.bind = t.bind) : ((modThread t (fun h => { h with pc := n }) s).thread w).st = (s.thread w).st := by
  rw [(h.modThread.other hw).thread, (h.other hw).thread]
  by_cases same : thKey w = thKey t
  · rw [same, tget_tmod_self]
  · rw [tget_tmod_of_ne _ _ _ same]

variable {l : Tab Thread} {u : State}

/-- While a thread has not arrived the barrier stands. -/
theorem barrier_stands (h : AtBarrier t s u b l) (away : ∃ e, e ∈ b.threads ∧ e.1 ≠ thKey t ∧ tget false b.arrived e.1 = false) : releaseBarrier (thBid t) u = u := by
  obtain ⟨e, he, hne, new⟩ := away
  obtain ⟨e', he', key⟩ := List.mem_map.mp ((h.keys e.1).mpr (List.mem_map_of_mem he))
  have some_ : l.all (fun e => tget false (tset false b.arrived (thKey t) true) e.1) = false :=
    List.all_eq_false.mpr ⟨e', he', by rw [key, tget_tset_of_ne _ _ _ hne, new]; exact Bool.false_ne_true⟩
  simp only [releaseBarrier, h.settled.bind, h.settled.side_eq, some_, Bool.false_eq_true, if_false]

/-- With the last of them every thread that waits at the barrier goes on. -/
theorem barrier_released (h : AtBarrier t s u b l) (all : ∀ e, e ∈ b.threads → e.1 ≠ thKey t → tget false b.arrived e.1 = true) :
    ∃ l', Settled t (releaseBarrier (thBid t) u) { b with threads := l', arrived := [] } ∧
      ∀ k, (tget Thread.reset l k).st = .barrier → tget Thread.reset l' k = (tget Thread.reset l k).woken (if b.resident.getLsbD (k / 16) then .ready else .saved) := by
  have every : l.all (fun e => tget false (tset false b.arrived (thKey t) true) e.1) = true := by
    refine List.all_eq_true.mpr fun e he => ?_
    by_cases mine : e.1 = thKey t
    · rw [mine, tget_tset_self]
    · obtain ⟨e', he', key⟩ := List.mem_map.mp ((h.keys e.1).mp (List.mem_map_of_mem he))
      rw [tget_tset_of_ne _ _ _ mine, ← key]
      exact all e' he' (by rw [key]; exact mine)
  have opens : Settled t (u.modBind (thBid t) (fun b => { b with arrived := [] })) { b with threads := l, arrived := [] } :=
    ⟨by rw [modBind_bindOf_self, h.settled.bind]; rfl, h.settled.place, h.settled.takes⟩
  obtain ⟨l', settled, threads⟩ := wakeAll_settled ((l.filter (fun e => e.2.st == .barrier)).map (·.1)) opens
  refine ⟨l', ?_, fun k hk => ?_⟩
  · simp only [releaseBarrier, h.settled.bind, h.settled.side_eq, every, if_true]
    exact settled
  · have listed : k ∈ (l.filter (fun e => e.2.st == .barrier)).map (·.1) :=
      List.mem_map.mpr ⟨_, List.mem_filter.mpr ⟨tget_mem (d := Thread.reset) fun e => (nomatch (congrArg Thread.st e).symm.trans hk), by simpa using hk⟩, rfl⟩
    rw [threads k, if_pos listed, opens.goOn]

end
end Sys2Proof.Machine

section
open Sys2Proof Sys2Proof.Machine
set_option Elab.async false

/-- Settles O36: TRIG ends a context's hold, DONE ends a finish item and its chunk's last stage, BAR waits until every thread of the binding has arrived, and STEP comes to the boundary with the last thread of the core. -/
theorem millSyncsComplete : Obligations.MillSyncsComplete := by
  refine ⟨fun th s a cid c issues ha hcid hc hjob hf hn hpos hidle hearly => ?_, fun th s it cid pos step issues cur kind gone => ?_,
    fun th s it cid pos step c j g k issues cur kind hfin hrun hg hraw hlast hf hn hk other open_ hidle => ?_, fun th s b issues hb place takes => ?_, fun th s issues => ?_⟩
  · obtain ⟨b, l, hs, issued⟩ := issues_issued issues
    obtain ⟨st, -, x, -⟩ := issued.thread hs
    have hc' : (noteIssue th s).ctx cid = some c := (issued.ctx cid).trans hc
    have held : (noteIssue th s).lnd.held = s.lnd.held := by rw [issued.kept.e_lnd]
    have now : (noteIssue th s).now = s.now := by rw [State.now, State.now, issued.kept.e_tmb]
    have ends := landTasks_trigger (s := noteIssue th s) hc' (by rw [held, now]; exact hearly) hf hn hpos (hidle 0).2.1 (fun n => .inr ⟨(hidle n).1, (hidle n).2.2⟩)
    have job : (noteIssue th s).itemJob th = s.itemJob th := by rw [State.itemJob, State.itemJob, issued.curItem hs]
    have run : trig th ⟨0, a, 0, 0, 0, 0, 0⟩ (noteIssue th s) = .ok (triggered cid (noteIssue th s)) :=
      trig_ok ha (by rw [issued.xr hs]; exact hcid) hc' (by rw [job]; exact hjob) ends
    have settled : Settled th (triggered cid (noteIssue th s)) { b with threads := l } := issued.settled.of_mil rfl
    have lnd (n : Nat) : (modThread th (fun h => { h with pc := n }) (triggered cid (noteIssue th s))).lnd = (triggered cid (noteIssue th s)).lnd :=
      modThread_kept.e_lnd
    refine completes_issue rfl issues (by decide) (by simp [Used.holds]) run settled st x ⟨?_, ?_⟩
    · exact (congrArg (fun l : Lnd => tget none l.ctxs cid) (lnd _)).trans (triggered_ctx hc')
    · rw [lnd, ← held]
      rfl
  · obtain ⟨b, l, hs, issued⟩ := issues_issued issues
    obtain ⟨st, -, x, -⟩ := issued.thread hs
    have cur' := (issued.curItem hs 0).trans cur
    obtain ⟨kept, b', settled, none_, st', x'⟩ := endItem_finish issued.settled cur' kind
    have gone' : (noteIssue th s).finishChunk it = none := by rw [finishChunk_congr issued.ctx, gone]
    have run : millDone th (noteIssue th s) = .ok (endItem th 0 (noteIssue th s)) := by simp only [millDone, cur', kind, gone']
    refine completes_issue rfl issues (by decide) rfl run settled (st'.trans st) (x'.trans x) ⟨?_, ?_⟩
    · rw [settled.curItem_pc, none_]
    · rw [modThread_kept.e_lnd, kept.e_lnd, issued.kept.e_lnd]
  · obtain ⟨b, l, hs, issued⟩ := issues_issued issues
    obtain ⟨st, -, x, -⟩ := issued.thread hs
    have cur' := (issued.curItem hs 0).trans cur
    obtain ⟨kept, b', settled, none_, st', x'⟩ := endItem_finish issued.settled cur' kind
    have hfin' : (noteIssue th s).finishChunk it = some (cid, pos, c) := by rw [finishChunk_congr issued.ctx, hfin]
    have hc : (endItem th 0 (noteIssue th s)).ctx cid = some c := by
      rw [State.ctx, kept.e_lnd, issued.kept.e_lnd]
      exact finishChunk_ctx hfin
    have run : millDone th (noteIssue th s) = .ok ((endItem th 0 (noteIssue th s)).setCtx cid (some (c.finished pos))) :=
      millDone_last cur' kind hfin' hrun hg hraw hlast hc (landTasks_finished hf hn hk other open_ hidle)
    have settled' : Settled th ((endItem th 0 (noteIssue th s)).setCtx cid (some (c.finished pos))) b' := settled.of_mil rfl
    refine completes_issue rfl issues (by decide) rfl run settled' (st'.trans st) (x'.trans x) ⟨?_, c.finished pos, ?_, ?_, ?_, ?_, fun n hn => chunk_setChunk_of_ne _ _ hn⟩
    · rw [settled'.curItem_pc]
      exact none_
    · rw [State.ctx, modThread_kept.e_lnd]
      exact setCtx_ctx_self ..
    · rw [Ctx.finished, chunk_setChunk_self]
    · rw [Ctx.finished, chunk_setChunk_self]
    · rw [Ctx.finished, chunk_setChunk_self]
  · have hs : Settled th s b := ⟨hb, place, takes⟩
    obtain ⟨ready, here⟩ := canIssue_ready issues.1
    obtain ⟨l, issued⟩ := noteIssue_issued hs
    obtain ⟨st, -, x, -⟩ := issued.thread hs
    obtain ⟨l', at_⟩ := reach_atBarrier issued.settled issued.alike (by rw [st, ready]; exact nofun)
    have resident : (if b.resident.getLsbD (thKey th / 16) then ThState.ready else .saved) = .ready := by
      rw [State.residentOn, hb] at here
      rw [thKey_lt]
      exact if_pos here
    by_cases away : ∃ e, e ∈ b.threads ∧ e.1 ≠ thKey th ∧ tget false b.arrived e.1 = false
    · have run := congrArg MRes.ok ((barrier_eq (t := th)).trans (barrier_stands at_ away))
      refine completes_next (congrArg Host.Outcome.next (runMill_ok issues (by decide) rfl run at_.settled))
        ⟨?_, xSet_of at_.settled ?_, fun _ => ⟨?_, _, at_.settled.modThread.bind, by simp only [tget_tset_self]⟩, fun all => ?_⟩
      · rw [at_.settled.modThread_thread]
      · rw [at_.settled.thread, at_.x, x]
      · rw [at_.settled.modThread_thread]
        exact (congrArg Thread.st at_.settled.thread).trans at_.waits
      · obtain ⟨e, he, hne, new⟩ := away
        exact absurd ((all e he hne).symm.trans new) nofun
    · have all (e : Nat × Thread) (he : e ∈ b.threads) (hne : e.1 ≠ thKey th) : tget false b.arrived e.1 = true :=
        Bool.eq_true_of_not_eq_false fun new => away ⟨e, he, hne, new⟩
      obtain ⟨l'', settled, woken⟩ := barrier_released at_ all
      have run := congrArg MRes.ok (barrier_eq (t := th) (s := noteIssue th s))
      have mine := settled.thread.trans (woken (thKey th) at_.waits)
      refine completes_next (congrArg Host.Outcome.next (runMill_ok issues (by decide) rfl run settled))
        ⟨?_, xSet_of settled ?_, fun some_ => absurd some_ away, fun _ => ⟨?_, ⟨_, settled.modThread.bind, rfl⟩, fun u hu waits => ?_⟩⟩
      · rw [settled.modThread_thread]
      · rw [mine]
        exact at_.x.trans x
      · rw [settled.modThread_thread, mine]
        exact resident
      · have hu' := hs.other hu
        have st : (tget Thread.reset l' (thKey u)).st = .barrier := by
          by_cases same : thKey u = thKey th
          · rw [same]
            exact at_.waits
          · rw [at_.others _ same, ← hu'.thread]
            exact waits
        have theirs := (settled.other hu).thread.trans (woken (thKey u) st)
        rw [modThread_pc_st settled hu, theirs, hu'.goOn]
        rfl
  · obtain ⟨b, l, hs, issued⟩ := issues_issued issues
    obtain ⟨st, -, x, -⟩ := issued.thread hs
    have last := boundary_issued hs issued.alike
    cases hbound : boundary th (stepping th l) with
    | false =>
      have run := congrArg MRes.ok (noteStep_waits issued.settled hbound)
      have settled := issued.settled.modThread (f := fun h => { h with stepped := true })
      have thread := issued.settled.modThread_thread (f := fun h => { h with stepped := true })
      refine completes_issue rfl issues (by decide) rfl run settled (by rw [thread]; exact st) (by rw [thread]; exact x) ⟨fun _ => ⟨?_, fun i => ?_⟩, fun all => ?_⟩
      · rw [settled.modThread_thread, thread]
      · rw [modThread_coreOf, modThread_coreOf, issued.core]
      · exact absurd (last.mpr fun w hb hc ne => Classical.or_iff_not_imp_left.mpr (all w hb hc ne)) (by rw [hbound]; exact nofun)
    | true =>
      obtain ⟨settled, thread, ops⟩ := noteStep_past issued.settled hbound
      rw [issued.gcore hs] at ops
      refine completes_issue rfl issues (by decide) rfl rfl settled (by rw [thread]; exact st) (by rw [thread]; exact x) ⟨fun ⟨w, hb, hc, ne, runs, new⟩ => ?_, fun _ => ⟨?_, ?_⟩⟩
      · rcases last.mp hbound w hb hc ne with stopped | stepped
        · exact absurd stopped runs
        · exact absurd (new.symm.trans stepped) nofun
      · rw [settled.modThread_thread, thread]
      · rw [modThread_coreOf]
        exact ops

end

/-! SUPPORT. Fences (R248, R252 to R255, R259): when a command on the fences runs, what the completion ring takes of a record, and what the records of fences leave of LND. -/
namespace Sys2Proof.Machine
open Sys2Proof

section
variable {s : State}

/-! ### A command on the fences and its answer (R259) -/

/-- The owner's command runs from READY onward, while none is busy. -/
theorem completes_fncCommand {p : HPort} {i : Instr} {f : State → State} {P : State → Prop} (run : exec i s = .next (fncCommand p f s)) (ho : Owner p s)
    (idle : s.lnd.fncBusy = false) (ready : 4 ≤ s.glb.state.code) (h : P (f s)) : Completes i s P := by
  refine completes_owner run ho ?_
  dsimp only
  rw [if_neg (by rw [idle]; exact Bool.false_ne_true), if_neg (by omega)]
  exact h

theorem fncStatus_lnd (st : Nat) (s : State) : (fncStatus st s).lnd = { s.lnd with fncStatus := BitVec.ofNat 8 st } := rfl

theorem b2n_le (a : Bool) : b2n a ≤ 1 := by cases a <;> decide
theorem decide_b2n (a : Bool) : decide (b2n a = 1) = a := by cases a <;> rfl

/-- Two flags above a number of 30 bits, as DRAINQ answers them: each reads back. -/
theorem flagged_fields (a b : Bool) (n : Nat) :
    (BitVec.ofNat 32 (b2n a * 2 ^ 31 + b2n b * 2 ^ 30 + n % 2 ^ 30)).getLsbD 31 = a ∧
    (BitVec.ofNat 32 (b2n a * 2 ^ 31 + b2n b * 2 ^ 30 + n % 2 ^ 30)).getLsbD 30 = b ∧
    (BitVec.ofNat 32 (b2n a * 2 ^ 31 + b2n b * 2 ^ 30 + n % 2 ^ 30)).toNat % 2 ^ 30 = n % 2 ^ 30 := by
  have ha := b2n_le a
  have hb := b2n_le b
  have bit31 : (b2n a * 2 ^ 31 + b2n b * 2 ^ 30 + n % 2 ^ 30) / 2 ^ 31 % 2 = b2n a := by omega
  have bit30 : (b2n a * 2 ^ 31 + b2n b * 2 ^ 30 + n % 2 ^ 30) / 2 ^ 30 % 2 = b2n b := by omega
  refine ⟨?_, ?_, ?_⟩
  · rw [BitVec.getLsbD_ofNat, Nat.testBit_eq_decide_div_mod_eq, bit31, decide_b2n]
    rfl
  · rw [BitVec.getLsbD_ofNat, Nat.testBit_eq_decide_div_mod_eq, bit30, decide_b2n]
    rfl
  · rw [BitVec.toNat_ofNat]
    omega

/-! ### Records in the completion ring (R230, R255) -/

/-- A record moves at most the ring's head and sets events. -/
theorem lndRecord_lnd (words : List Nat) (msi : Bool) (s : State) :
    ∃ head event, (lndRecord words msi s).lnd = { s.lnd with ringHead := head, event := event } := by
  simp only [lndRecord]
  split
  · refine ⟨s.lnd.ringHead, setBit s.lnd.event 4 true, ?_⟩
    simp only [raiseLnd, count_kept.e_lnd]
  · split
    · exact ⟨_, _, fire_lnd _ _⟩
    · exact ⟨_, _, rfl⟩

/-- Records of fences move at most the ring's head and set events. -/
theorem fenceRecords_lnd (event : Nat) (l : List Fence) (s : State) :
    ∃ head events, (forEach l (fenceRecord event) s).lnd = { s.lnd with ringHead := head, event := events } :=
  forEach_invariant (P := fun t => ∃ head events, t.lnd = { s.lnd with ringHead := head, event := events })
    (fun f _ t ⟨_, _, before⟩ => by
      obtain ⟨head, events, recorded⟩ := lndRecord_lnd _ _ _
      exact ⟨head, events, recorded.trans (by rw [before])⟩)
    ⟨_, _, rfl⟩

/-- The fences that are complete leave the list; beside that only the ring and the events change (R252). -/
theorem settleFences_lnd (s : State) : ∃ head events, (settleFences s).lnd =
    { s.lnd with fences := s.lnd.fences.filter (fun f => !f.complete), ringHead := head, event := events } :=
  fenceRecords_lnd 4 _ { s with lnd.fences := s.lnd.fences.filter (fun f => !f.complete) }

/-- Where the next record of the completion ring goes. -/
def State.ringPlace (s : State) : Nat := s.lnd.ringBase.toNat + 32 * s.lnd.ringHead.toNat
/-- The completion ring is enabled and has room for one more record. -/
def RingOpen (s : State) : Prop :=
  s.lnd.ringEnable = true ∧ (s.lnd.ringHead.toNat + 1) % 2 ^ s.lnd.ringLog2.toNat ≠ s.lnd.ringTail.toNat % 2 ^ s.lnd.ringLog2.toNat

theorem RingOpen.of_lnd {t : State} (h : RingOpen s) (same : t.lnd = s.lnd) : RingOpen t := by rw [RingOpen, same]; exact h

/-- A ring with room takes the record at its head, which moves on. -/
theorem lndRecord_open {words : List Nat} {msi : Bool} (ring : RingOpen s) :
    (lndRecord words msi s).lnd = { s.lnd with ringHead := BitVec.ofNat 20 ((s.lnd.ringHead.toNat + 1) % 2 ^ s.lnd.ringLog2.toNat), event := setBit s.lnd.event 0 true } ∧
    ∀ a n, rdMem (lndRecord words msi s) a n = rdMem (wrMem s s.ringPlace (words.flatMap (toLE 4))) a n := by
  obtain ⟨on, free⟩ := ring
  have taken : (!s.lnd.ringEnable || (s.lnd.ringHead.toNat + 1) % 2 ^ s.lnd.ringLog2.toNat == s.lnd.ringTail.toNat % 2 ^ s.lnd.ringLog2.toNat) = false := by
    rw [on, beq_false_of_ne free]
    rfl
  simp only [lndRecord, taken, Bool.false_eq_true, if_false]
  split
  · refine ⟨fire_lnd _ _, fun a n => rdMem_congr ?_ fun i _ => ?_⟩
    · rw [State.capacity, State.capacity, fire_nv]
      rfl
    · rw [fire_kept.e_ram]
      rfl
  · exact ⟨rfl, fun _ _ => rfl⟩

/-- The eight words of a fence record (R255). -/
def fenceWords (event : Nat) (f : Fence) (now : Nat) : List Nat :=
  [event * 2 ^ 24 + f.tag.toNat, f.job.toNat, f.marks.toNat, f.expect.toNat,
    b2n f.flipped * 2 ^ 31 + b2n f.oldbank * 2 ^ 30 + sat 0xFFFFF f.drainq.toNat, f.oldpre.toNat, now % 2 ^ 32, now / 2 ^ 32 % 2 ^ 32]

theorem fenceRecord_eq (event : Nat) (f : Fence) (s : State) : fenceRecord event f s = lndRecord (fenceWords event f s.now) f.msi s := rfl

theorem fenceWords_bytes (event : Nat) (f : Fence) (now : Nat) : ∃ rest,
    (fenceWords event f now).flatMap (toLE 4) = (toLE 4 (event * 2 ^ 24 + f.tag.toNat) ++ toLE 4 f.job.toNat ++ toLE 4 f.marks.toNat) ++ rest := by
  refine ⟨((fenceWords event f now).drop 3).flatMap (toLE 4), ?_⟩
  simp only [fenceWords, List.drop, List.flatMap_cons, List.append_assoc]

/-- A fence's record reads back from the ring's head: its event and TAG, JOB, and MARKS. -/
theorem fenceRecord_rdMem {event : Nat} {f : Fence} (ring : RingOpen s) (room : s.ringPlace + 32 ≤ s.capacity) :
    rdMem (fenceRecord event f s) s.ringPlace 12 = toLE 4 (event * 2 ^ 24 + f.tag.toNat) ++ toLE 4 f.job.toNat ++ toLE 4 f.marks.toNat := by
  obtain ⟨rest, bytes⟩ := fenceWords_bytes event f s.now
  have all := rdMem_wrMem s s.ringPlace ((fenceWords event f s.now).flatMap (toLE 4)) room
  rw [fenceRecord_eq, (lndRecord_open ring).2]
  rw [show ((fenceWords event f s.now).flatMap (toLE 4)).length = 12 + 20 from rfl, rdMem_append, bytes] at all
  rw [bytes]
  exact List.append_inj_left all (by simp [toLE_length])

/-! ### The timeout (R254) -/

/-- The fence's timeout is due: TMO ms have passed since ARM, and it has not been told. -/
def Fence.due (clk : Nat) (f : Fence) : Bool := f.tmo != 0 && !f.timedOut && decide (f.tmo.toNat * 1000000 ≤ clk - f.armedAt)

theorem Fence.due_of {clk : Nat} {f : Fence} (tmo : f.tmo ≠ 0) (untold : f.timedOut = false) (late : f.tmo.toNat * 1000000 ≤ clk - f.armedAt) :
    f.due clk = true := by
  rw [Fence.due, bne_iff_ne.mpr tmo, untold, decide_eq_true late]
  rfl

/-- The fences that are due are marked as told, and a record of each is written. -/
def tellLate (s : State) : State :=
  forEach (s.lnd.fences.filter (Fence.due s.clk)) (fenceRecord 5) (modFences (fun f => if f.due s.clk then { f with timedOut := true } else f) s)

theorem exec_fenceTimeout (dt : Nat) (s : State) : exec (.fenceTimeout dt) s = .next (tellLate (elapse dt s)) := rfl

/-- The one fence armed times out: its record is written, and it stays armed. -/
theorem tellLate_one {f : Fence} (one : s.lnd.fences = [f]) (late : f.due s.clk = true) :
    tellLate s = fenceRecord 5 f { s with lnd.fences := [{ f with timedOut := true }] } := by
  rw [tellLate, modFences, one, List.filter_cons_of_pos late, List.filter_nil, List.map_singleton, if_pos late]
  rfl

/-- What the timeout of the one fence armed leaves of the fences and the ring, where memory is fitted at the ring's head. -/
theorem tellLate_one_spec {f : Fence} (one : s.lnd.fences = [f]) (late : f.due s.clk = true) (ring : RingOpen s) (room : s.ringPlace + 32 ≤ s.capacity) :
    (tellLate s).lnd.fences = [{ f with timedOut := true }] ∧
    (tellLate s).lnd.ringHead = BitVec.ofNat 20 ((s.lnd.ringHead.toNat + 1) % 2 ^ s.lnd.ringLog2.toNat) ∧
    rdMem (tellLate s) s.ringPlace 12 = toLE 4 (5 * 2 ^ 24 + f.tag.toNat) ++ toLE 4 f.job.toNat ++ toLE 4 f.marks.toNat := by
  have told : RingOpen { s with lnd.fences := [{ f with timedOut := true }] } := ring
  have lnd := (lndRecord_open (words := fenceWords 5 f s.now) (msi := f.msi) told).1
  rw [tellLate_one one late]
  refine ⟨?_, ?_, fenceRecord_rdMem told room⟩
  · exact congrArg Lnd.fences lnd
  · exact congrArg Lnd.ringHead lnd

@[simp] theorem elapse_lnd (dt : Nat) (s : State) : (elapse dt s).lnd = s.lnd := elapse_kept.e_lnd
theorem elapse_ringPlace (dt : Nat) (s : State) : (elapse dt s).ringPlace = s.ringPlace := by rw [State.ringPlace, State.ringPlace, elapse_lnd]

end

end Sys2Proof.Machine

section
open Sys2Proof Sys2Proof.Machine

/-- Settles O21: each command passes its checks and writes the list of armed fences or its answer; the records of fences change the ring alone, and the timeout's reads back from the ring's head. -/
theorem fenceCommandsComplete : Obligations.FenceCommandsComplete := by
  refine ⟨fun p msi s ho idle ready expect job new few hA hB => ?_, fun p f s ho idle ready found => ?_, fun p f s ho idle ready found => ?_,
    fun p e f s ho idle ready he expect found => ?_, fun dt f n s one tmo untold late hn on free room => ?_⟩
  · refine completes_fncCommand rfl ho idle ready ?_
    dsimp only
    rw [beq_false_of_ne expect, beq_false_of_ne job, if_neg (by decide), new, if_neg (by simp), if_neg (by omega), if_neg (by simpa using hA), if_neg (by simpa using hB)]
    rfl
  · refine completes_fncCommand rfl ho idle ready ?_
    rw [found]
    rfl
  · refine completes_fncCommand rfl ho idle ready ?_
    rw [found]
    obtain ⟨flipped, oldbank, drainq⟩ := flagged_fields f.flipped f.oldbank f.drainq.toNat
    exact ⟨rfl, rfl, rfl, flipped, oldbank, drainq, rfl⟩
  · subst he
    refine completes_fncCommand rfl ho idle ready ?_
    dsimp only
    rw [if_neg (by simpa using expect), found]
    dsimp only
    obtain ⟨head, events, settled⟩ := settleFences_lnd (modFences (fun g => if g.id == f.id then { g with expect := BitVec.ofNat 16 s.lnd.fncArg.toNat } else g) s)
    rw [fncStatus_lnd, settled]
    refine ⟨rfl, ?_⟩
    simp only [modFences, beq_iff_eq]
  · subst hn
    have waits : (elapse dt s).lnd.fences = [f] := by rw [elapse_lnd, one]
    have due : f.due (elapse dt s).clk = true := Fence.due_of tmo untold (by rw [elapse_clk]; exact late)
    have ring : RingOpen (elapse dt s) := .of_lnd (s := s) ⟨on, free⟩ (elapse_lnd dt s)
    have told := tellLate_one_spec waits due ring (by rw [elapse_ringPlace, elapse_capacity]; exact room)
    rw [elapse_lnd, elapse_ringPlace] at told
    exact completes_next (exec_fenceTimeout dt s) told

end

/-! SUPPORT. The Mill's codebooks, program store and transform-flow table (R273, R278, R292, R293, R297, R310): when a command on them runs, and what it leaves of each. -/
namespace Sys2Proof.Machine
open Sys2Proof

section
variable {p : HPort} {i : Instr} {f : State → State} {s : State} {P : State → Prop}

/-! ### When a command runs -/

/-- The owner's command on the codebooks runs from TRAINING onward, while none is busy; before, it answers status 2. -/
theorem completes_cbCommand (run : exec i s = .next (cbCommand p f s)) (ho : Owner p s) (idle : s.mil.cbBusy = false)
    (h : P (if s.glb.state.code < 3 then cbStatus 2 s else f (cbStatus 0 s))) : Completes i s P := by
  refine completes_owner run ho ?_
  rw [idle, if_neg Bool.false_ne_true]
  exact h

/-- The owner's command on the program store runs from TRAINING onward, while none is busy. -/
theorem completes_pgmCommand (run : exec i s = .next (pgmCommand p f s)) (ho : Owner p s) (idle : s.mil.pgmBusy = false) (trains : 3 ≤ s.glb.state.code)
    (h : P (f s)) : Completes i s P := by
  refine completes_owner run ho ?_
  rw [idle, if_neg Bool.false_ne_true, if_neg (by omega)]
  exact h

/-- The owner's command on the transform-flow table runs from READY onward, while none is busy. -/
theorem completes_tfCommand (run : exec i s = .next (tfCommand p f s)) (ho : Owner p s) (idle : s.mil.tfBusy = false) (ready : 4 ≤ s.glb.state.code)
    (h : P (f s)) : Completes i s P := by
  refine completes_owner run ho ?_
  rw [idle, if_neg Bool.false_ne_true, if_neg (by omega)]
  exact h

/-! ### Codebooks (R273, R278) -/

/-- A list of even length is its pairs in order. -/
theorem flatMap_pairs {l : List Half} {n : Nat} (h : l.length = 2 * n) :
    (List.range n).flatMap (fun k => [l.getD (2 * k) 0, l.getD (2 * k + 1) 0]) = l := by
  induction n generalizing l with
  | zero => simp [List.length_eq_zero_iff.mp h]
  | succ n ih =>
    obtain _ | ⟨a, _ | ⟨b, r⟩⟩ := l
    · simp at h
    · simp at h
      omega
    · have rest : r.length = 2 * n := by simp at h; omega
      rw [List.range_succ_eq_map, List.flatMap_cons, List.flatMap_map]
      exact congrArg (a :: b :: ·) (ih rest)

theorem halves_append (x y : Half) : (x ++ y).extractLsb' 0 16 = y ∧ (x ++ y).extractLsb' 16 16 = x := by
  constructor
  · exact BitVec.extractLsb'_append_eq_right
  · exact BitVec.extractLsb'_append_eq_left

/-- The data registers after a READ spell the entry's 16 values. -/
theorem readCb_cbWords {n : Nat} (full : (s.cbEntry n).vals.length = 16) : (readCb n s).cbWords = (s.cbEntry n).vals := by
  have word (k : Nat) (hk : k < 8) : tget 0 (readCb n s).mil.cbData k = (s.cbEntry n).vals.getD (2 * k + 1) 0 ++ (s.cbEntry n).vals.getD (2 * k) 0 := by
    simp [readCb, tget_tsetL, hk]
  refine (List.flatMap_congr fun k hk => ?_).trans (flatMap_pairs (n := 8) full)
  obtain ⟨low, high⟩ := halves_append ((s.cbEntry n).vals.getD (2 * k + 1) 0) ((s.cbEntry n).vals.getD (2 * k) 0)
  rw [word k (List.mem_range.mp hk)]
  exact congrArg₂ (fun x y => [x, y]) low high

/-- A WRITE leaves of the Mill all but the entry, which holds what the data registers spell; the journal is no part of it. -/
theorem writeCb_mil (n : Nat) (s : State) : (writeCb n s).mil = { s.mil with cb := tset CbEnt.reset s.mil.cb n ⟨s.cbWords, true⟩ } := by
  simp only [writeCb, journal_kept.e_mil]

/-! ### The program store (R292, R293) -/

/-- Slots of 16 districts do not meet in the store. -/
theorem storeKey_inj {d e k n : Nat} (hk : k < 512) (hn : n < 512) : storeKey e k = storeKey d n ↔ e = d ∧ k = n := by
  unfold storeKey
  omega

/-- A write to the store reads back at its slot, and nowhere else. -/
theorem image_of_store {u : State} {d e k n : Nat} {b : List Byte} (stored : u.mil.store = tset [] s.mil.store (storeKey d n) b) (hk : k < 512) (hn : n < 512) :
    u.image e k = if e = d ∧ k = n then b else s.image e k := by
  simp only [State.image, stored, tget_tset, storeKey_inj hk hn]

theorem imageOk_length {b : List Byte} (ok : imageOk b = true) : b.length = 64 + 8 * imgCode b + imgData b := by
  simp only [imageOk, Bool.and_eq_true, beq_iff_eq] at ok
  omega

section
variable {d n : Nat} {b : List Byte} (named : n < (s.millRec d).slots.toNat) (free : s.slotUsed d n = false)
include named free

/-- An image that passes goes to its free slot. -/
theorem loadImage_ok (small : s.mil.pgmLen.toNat ≤ 262144) (hb : b = rdMem s s.mil.pgmAddr.toNat s.mil.pgmLen.toNat) (ok : imageOk b = true) :
    loadImage d n s = pgmStatus 0 { s with mil.store := tset [] s.mil.store (storeKey d n) b } := by
  have size : b.length = s.mil.pgmLen.toNat := by rw [hb, length_rdMem]
  have fits : ¬ 262144 < 64 + 8 * imgCode b + imgData b := by
    have := imageOk_length ok
    omega
  rw [loadImage, if_neg (by omega), free, if_neg Bool.false_ne_true, if_neg (by omega), ← hb]
  dsimp only
  rw [ok, decide_eq_false fits]
  rfl

/-- An image that fails leaves its status alone. -/
theorem loadImage_bad (small : s.mil.pgmLen.toNat ≤ 262144) (hb : b = rdMem s s.mil.pgmAddr.toNat s.mil.pgmLen.toNat) (bad : imageOk b = false) :
    loadImage d n s = pgmStatus 1 s ∨ loadImage d n s = pgmStatus 2 s := by
  rw [loadImage, if_neg (by omega), free, if_neg Bool.false_ne_true, if_neg (by omega), ← hb]
  dsimp only
  rw [bad]
  split
  · exact .inr rfl
  · exact .inl rfl

/-- UNLOAD empties a slot that holds an image and that no binding uses. -/
theorem unloadImage_ok (holds : s.image d n ≠ []) : unloadImage d n s = pgmStatus 0 { s with mil.store := tset [] s.mil.store (storeKey d n) [] } := by
  rw [unloadImage, if_neg (by omega), free, if_neg Bool.false_ne_true, if_neg (by simpa using holds)]

end

theorem loadImage_beyond {d n : Nat} (beyond : (s.millRec d).slots.toNat ≤ n) : loadImage d n s = pgmStatus 3 s := by rw [loadImage, if_pos beyond]
theorem loadImage_used {d n : Nat} (named : n < (s.millRec d).slots.toNat) (used : s.slotUsed d n = true) : loadImage d n s = pgmStatus 4 s := by
  rw [loadImage, if_neg (by omega), if_pos used]

/-! ### The transform-flow table (R297) -/

/-- The entry that MIL_TF_DATA0 to 3 hold. -/
def Mil.tfData (m : Mil) : TfEnt := ⟨m.tfData0, m.tfData1, m.tfData2, m.tfData3⟩

theorem writeTf_ok {n : Nat} (ok : tfBad s.mil.tfData = false) :
    (writeTf n s).mil = { s.mil with tf := tset TfEnt.zero s.mil.tf n s.mil.tfData, tfStatus := 0 } := by
  unfold Mil.tfData at ok
  simp only [writeTf, ok, Bool.false_eq_true, if_false, journal_kept.e_mil]
  rfl
theorem writeTf_bad {n : Nat} (bad : tfBad s.mil.tfData = true) : writeTf n s = tfStatus 0x0D s := by
  unfold Mil.tfData at bad
  simp only [writeTf, bad, if_true]

end

end Sys2Proof.Machine

section
open Sys2Proof Sys2Proof.Machine

/-- Settles O32: each command passes its checks, and what it writes reads back at its own entry and nowhere else. -/
theorem millTablesComplete : Obligations.MillTablesComplete := by
  refine ⟨fun p idx s ho idle trains => ?_, fun p idx s ho idle trains full => ?_, fun p idx s ho idle early => ?_,
    fun p d slot b s ho idle trains named free small hb => ?_, fun p d slot s ho idle trains => ?_, fun p d slot s ho idle trains named free holds => ?_,
    fun p idx e s ho idle ready he => ?_, fun p idx s ho idle ready => ?_⟩
  · refine completes_cbCommand rfl ho idle ?_
    rw [if_neg (by omega)]
    refine ⟨?_, fun i => ?_⟩
    · rw [writeCb_mil]
      rfl
    · rw [State.cbEntry, writeCb_mil]
      exact tget_tset ..
  · refine completes_cbCommand rfl ho idle ?_
    rw [if_neg (by omega)]
    exact ⟨rfl, rfl, readCb_cbWords (s := cbStatus 0 s) full, rfl⟩
  · refine completes_cbCommand rfl ho idle ?_
    rw [if_pos early]
    rfl
  · refine completes_pgmCommand rfl ho idle trains ⟨fun ok => ?_, fun bad => ?_⟩
    · rw [loadImage_ok named free small hb ok]
      exact ⟨rfl, fun e k hk => image_of_store rfl hk slot.isLt⟩
    · rcases loadImage_bad named free small hb bad with h | h
      · rw [h]
        exact ⟨rfl, .inl rfl⟩
      · rw [h]
        exact ⟨rfl, .inr rfl⟩
  · refine completes_pgmCommand rfl ho idle trains ⟨fun beyond => ?_, fun named used => ?_⟩
    · rw [loadImage_beyond beyond]
      rfl
    · rw [loadImage_used named used]
      rfl
  · refine completes_pgmCommand rfl ho idle trains ?_
    rw [unloadImage_ok named free holds]
    exact ⟨rfl, fun e k hk => image_of_store rfl hk slot.isLt⟩
  · replace he : e = s.mil.tfData := he
    subst he
    refine completes_tfCommand rfl ho idle ready ⟨fun ok => ?_, fun bad => ?_⟩
    · rw [writeTf_ok ok]
      exact ⟨rfl, fun i => tget_tset ..⟩
    · rw [writeTf_bad bad]
      rfl
  · exact completes_tfCommand rfl ho idle ready ⟨rfl, rfl, rfl⟩

end

/-! SUPPORT. Mill instructions on tiles (R269, R278, R283 to R286): what issuing leaves of all that an instruction reads, and where a binding stands after one that writes a tile register. -/
namespace Sys2Proof.Machine
open Sys2Proof

section
variable {t : Th} {s u v : State} {b b' : Binding} {l : Tab Thread} {op d : Nat} {i : Ins} {x : Tile} {ins : Instr} {P Q : State → Prop}

/-! ### What an instruction reads -/

namespace Settled

theorem imageOf (h : Settled t s b) : s.imageOf t = s.placeImage b.place := by rw [State.imageOf, h.side]
theorem tile (h : Settled t s b) (n : Nat) : s.tile t n = tget Tile.zero b.tiles (tileKey t n) := by rw [State.tile, h.side]
theorem rdScratch (h : Settled t s b) (off n : Nat) : s.rdScratch t off n = tgetL 0 b.scratch off n := by rw [State.rdScratch, h.side]

end Settled

theorem forgive_mil (id bid : Nat) (s : State) : (forgive id bid s).mil = { s.mil with binds := (forgive id bid s).mil.binds } := rfl

/-- Issuing writes of the Mill its bindings and its cores. -/
theorem noteIssue_mil : (noteIssue t s).mil = { s.mil with binds := (noteIssue t s).mil.binds, cores := (noteIssue t s).mil.cores } := by
  have forgiven (bids : List Nat) : (forEach bids (forgive (thId t)) s).mil = { s.mil with binds := (forEach bids (forgive (thId t)) s).mil.binds } :=
    forEach_invariant (P := fun u => u.mil = { s.mil with binds := u.mil.binds }) (fun id _ u h => by rw [forgive_mil, h]) rfl
  rw [noteIssue_eq, State.modCore, forgiven]

theorem cbLook_congr (cb : u.mil.cb = s.mil.cb) : u.cbLook = s.cbLook := by
  unfold State.cbLook
  rw [cb]

/-- An encoding spells the same tile where the codebooks are the same. -/
theorem tileFrom_congr {f : Nat} {tr : Bool} {bs : List Byte} (cb : u.mil.cb = s.mil.cb) : tileFrom u f tr bs = tileFrom s f tr bs := by
  simp only [tileFrom, cbLook_congr cb]

/-- All that an instruction of the thread reads is the same in both states. -/
structure SameReads (t : Th) (s u : State) : Prop where
  image : u.imageOf t = s.imageOf t
  gcore : u.gcore t = s.gcore t
  xr : ∀ n, u.xr t n = s.xr t n
  tile : ∀ n, u.tile t n = s.tile t n
  scratch : ∀ off n, u.rdScratch t off n = s.rdScratch t off n
  curItem : ∀ y, u.curItem t y = s.curItem t y
  cb : u.mil.cb = s.mil.cb
  pwinBase : u.mil.pwinBase = s.mil.pwinBase
  pwinSize : u.mil.pwinSize = s.mil.pwinSize
  engineFor : ∀ n, u.engineFor (s.gcore t) n = s.engineFor (s.gcore t) n
  kept : Kept [.mil] s u

theorem HasIssued.reads (h : HasIssued t s b l (noteIssue t s)) (hs : Settled t s b) : SameReads t s (noteIssue t s) where
  image := by rw [h.settled.imageOf, hs.imageOf, State.placeImage, State.placeImage, State.image, State.image, noteIssue_mil]
  gcore := h.gcore hs
  xr := h.xr hs
  tile n := by rw [h.settled.tile, hs.tile]
  scratch off n := by rw [h.settled.rdScratch, hs.rdScratch]
  curItem := h.curItem hs
  cb := by rw [noteIssue_mil]
  pwinBase := by rw [noteIssue_mil]
  pwinSize := by rw [noteIssue_mil]
  engineFor n := by
    have withdrawn : (noteIssue t s).mil.withdrawn = s.mil.withdrawn := by rw [noteIssue_mil]
    have out (e : Nat) : (noteIssue t s).engineOut (s.gcore t) e = s.engineOut (s.gcore t) e := by
      rw [State.engineOut, State.engineOut, State.govLevel, State.govLevel, withdrawn, h.kept.e_pwr, h.kept.e_res]
    have on : (noteIssue t s).coreOn (s.gcore t) = s.coreOn (s.gcore t) := by rw [State.coreOn, State.coreOn, State.millRec, State.millRec, h.kept.e_plt]
    have engines : (noteIssue t s).engines (s.gcore t) = s.engines (s.gcore t) := by simp only [State.engines, on, out]
    simp only [State.engineFor, engines, h.core]
  kept := h.kept

namespace SameReads
variable (h : SameReads t s u)
include h

theorem badTile (n : Nat) : u.badTile t n = s.badTile t n := by rw [State.badTile, State.badTile, h.image]
theorem offScratch (off n : Nat) : u.offScratch t off n = s.offScratch t off n := by rw [State.offScratch, State.offScratch, h.image]
theorem offPwin (off n : Nat) : u.offPwin off n = s.offPwin off n := by rw [State.offPwin, State.offPwin, h.pwinSize]
theorem rmOf (i : Ins) : u.rmOf t i = s.rmOf t i := by simp only [State.rmOf, h.xr]
theorem capacity : u.capacity = s.capacity := by rw [State.capacity, State.capacity, h.kept.e_nv]
theorem rdMem (a n : Nat) : rdMem u a n = rdMem s a n := rdMem_congr h.capacity fun i _ => by rw [h.kept.e_ram]
theorem ctx (k : Nat) : u.ctx k = s.ctx k := by rw [State.ctx, State.ctx, h.kept.e_lnd]
theorem lineOf (handle start : Nat) : u.lineOf t handle start = s.lineOf t handle start := by
  simp only [State.lineOf, h.curItem, finishChunk_congr h.ctx]

end SameReads

/-- Before an instruction's effect: the thread's binding takes work, all that the instruction reads is as it was, and so are the thread's state and registers. -/
structure Ready (t : Th) (s u : State) (b : Binding) : Prop extends SameReads t s u where
  settled : Settled t u b
  st : (u.thread t).st = .ready
  x : (u.thread t).x = (s.thread t).x

theorem issues_ready (issues : Issues t op i s) : ∃ b, Ready t s (noteIssue t s) b := by
  obtain ⟨b, l, hs, issued⟩ := issues_issued issues
  obtain ⟨st, -, x, -⟩ := issued.thread hs
  exact ⟨_, issued.reads hs, issued.settled, st.trans (canIssue_ready issues.1).1, x⟩

/-! ### Rules that an instruction checks (R287) -/

/-- No rule of the list is broken. -/
def Passes (l : List (Bool × Nat)) : Prop := ∀ g ∈ l, g.1 = false

theorem passes_nil : Passes [] := fun _ h => nomatch h
theorem Passes.cons {bad : Bool} {code : Nat} {l : List (Bool × Nat)} (h : bad = false) (r : Passes l) : Passes ((bad, code) :: l) :=
  List.forall_mem_cons.mpr ⟨h, r⟩
theorem Passes.append {l r : List (Bool × Nat)} (hl : Passes l) (hr : Passes r) : Passes (l ++ r) := List.forall_mem_append.mpr ⟨hl, hr⟩

theorem guarded_passes {rules : List (Bool × Nat)} {m : MRes} (h : Passes rules) : guarded rules s m = m := by
  have none_ : firstFault rules = none := by
    induction rules with
    | nil => rfl
    | cons g r ih =>
      obtain ⟨bad, rest⟩ := List.forall_mem_cons.mp h
      rw [firstFault, bad, if_neg Bool.false_ne_true]
      exact ih rest
  rw [guarded, none_]

/-- A number below a bound does not reach it. -/
theorem not_beyond {n m : Nat} (h : n < m) : decide (m ≤ n) = false := decide_eq_false (by omega)
theorem not_above {n m : Nat} (h : n ≤ m) : decide (m < n) = false := decide_eq_false (by omega)

/-! ### What an instruction writes -/

@[simp] theorem exc_binds (e : Exc) (s : State) : (exc t e s).mil.binds = s.mil.binds := by
  simp only [exc, addExc]
  split <;> rfl

theorem Settled.setTile (h : Settled t s b) : Settled t (setTile t d x s) { b with tiles := tset Tile.zero b.tiles (tileKey t d) x } :=
  h.modSide (f := fun v => { v with tiles := tset Tile.zero v.tiles (tileKey t d) x })

theorem tileKey_inj {n m : Nat} : tileKey t n = tileKey t m ↔ n = m := by
  unfold tileKey
  omega

/-- A tile register after a write to it and to others. -/
theorem tileSet_of (ready : Ready t s u b) (hv : Settled t v b') (tiles : b'.tiles = tset Tile.zero b.tiles (tileKey t d) x) : TileSet t d x s v := by
  intro n _
  rw [hv.tile, tiles, tget_tset, ← ready.tile n, ready.settled.tile]
  simp only [tileKey_inj]

theorem Completes.imp (h : Completes ins s P) (imp : ∀ u, P u → Q u) : Completes ins s Q := by
  obtain ⟨u, run, hu⟩ := h
  exact ⟨u, run, imp u hu⟩

/-- An instruction after which the thread goes on: its registers are as they were. -/
theorem completes_ready {used : Ins → Used} {body : Ins → State → MRes} (hexec : exec ins s = .next (runMill t op used body s))
    (issues : Issues t op i s) (known : knownOps.contains op = true) (holds : (used i).holds i = true) (ready : Ready t s (noteIssue t s) b)
    (run : body i (noteIssue t s) = .ok v) (hv : Settled t v b') (threads : b'.threads = b.threads)
    (h : P (modThread t (fun h => { h with pc := (s.thread t).pc + 1 }) v)) : Completes ins s fun u => GoesOn t s u ∧ XSet t 0 0 s u ∧ P u := by
  have thread : v.thread t = (noteIssue t s).thread t := by rw [hv.thread, ready.settled.thread, threads]
  refine completes_issue hexec issues known holds run hv ?_ ?_ h
  · rw [thread, ready.st, (canIssue_ready issues.1).1]
  · rw [thread, ready.x]

/-- An instruction's effect goes on with the tile in T[D]; beside that it writes flags and counts alone. -/
def Puts (t : Th) (d : Nat) (x : Tile) (u : State) (r : MRes) : Prop := ∃ v, r = .ok v ∧ v.mil.binds = (setTile t d x u).mil.binds

theorem Puts.vec {e : Exc} : Puts t d x u (.ok (countVec t (exc t e (setTile t d x u)))) := ⟨_, rfl, exc_binds ..⟩
theorem Puts.skid {e : Exc} {n : Nat} : Puts t d x u (.ok (countSkid t n (exc t e (setTile t d x u)))) := ⟨_, rfl, exc_binds ..⟩

/-- An instruction that writes one tile register. -/
theorem completes_tile {used : Ins → Used} {body : Ins → State → MRes} (hexec : exec ins s = .next (runMill t op used body s))
    (issues : Issues t op i s) (known : knownOps.contains op = true) (holds : (used i).holds i = true)
    (puts : ∀ u, SameReads t s u → Puts t d x u (body i u)) :
    Completes ins s fun u => GoesOn t s u ∧ XSet t 0 0 s u ∧ TileSet t d x s u := by
  obtain ⟨b, ready⟩ := issues_ready issues
  obtain ⟨v, run, binds⟩ := puts _ ready.toSameReads
  have hv := ready.settled.setTile.of_binds (u := v) binds
  exact completes_ready hexec issues known holds ready run hv rfl (tileSet_of ready hv.modThread rfl)

/-- An instruction whose access switches the thread out. -/
theorem completes_access {used : Ins → Used} {body : Ins → State → MRes} (hexec : exec ins s = .next (runMill t op used body s))
    (issues : Issues t op i s) (known : knownOps.contains op = true) (holds : (used i).holds i = true) (ready : Ready t s (noteIssue t s) b)
    (run : body i (noteIssue t s) = .ok (switchOut t .access v)) (hv : Settled t v b') (threads : b'.threads = b.threads)
    (h : P (modThread t (fun h => { h with pc := (s.thread t).pc + 1 }) (switchOut t .access v))) :
    Completes ins s fun u => (u.thread t).pc = (s.thread t).pc + 1 ∧ (u.thread t).st = .switched ∧ (u.thread t).waits = .access ∧ XSet t 0 0 s u ∧ P u := by
  have out : Settled t (switchOut t .access v) _ := hv.modThread
  have thread : (switchOut t .access v).thread t = { v.thread t with st := .switched, waits := .access } := hv.modThread_thread
  refine completes_next (hexec.trans (congrArg Host.Outcome.next (runMill_ok issues known holds run out))) ⟨?_, ?_, ?_, xSet_of out ?_, h⟩
  · rw [out.modThread_thread]
  · rw [out.modThread_thread, thread]
  · rw [out.modThread_thread, thread]
  · rw [thread, ← ready.x, hv.thread, ready.settled.thread, threads]

end

/-! ### Unused fields (R285) -/

/-- A field that lies below the bits of a mask. -/
theorem land_low {n k c : Nat} (h : n < 2 ^ k) : Nat.land n (c * 2 ^ k) = 0 := by
  refine Nat.eq_of_testBit_eq fun j => ?_
  rw [Nat.zero_testBit]
  refine (Nat.testBit_and n _ j).trans ?_
  by_cases hj : j < k
  · rw [Nat.testBit_mul_two_pow, decide_eq_false (by omega), Bool.false_and, Bool.and_false]
  · rw [Nat.testBit_lt_two_pow (Nat.lt_of_lt_of_le h (Nat.pow_le_pow_right (by decide) (by omega))), Bool.false_and]

/-- A field that lies above the bits of a mask. -/
theorem land_high {n k : Nat} : Nat.land (2 ^ k * n) (2 ^ k - 1) = 0 := by
  refine (Nat.and_two_pow_sub_one_eq_mod _ k).trans ?_
  exact Nat.mul_mod_right ..

theorem fld_low {n w : Nat} (h : n < 2 ^ w) : fld n 0 w = n := by rw [fld, Nat.pow_zero, Nat.div_one, Nat.mod_eq_of_lt h]

/-- Each field serves the instruction or is 0. -/
theorem Used.holds_of {v : Used} {i : Ins} (d : v.d = true ∨ i.d = 0) (s1 : v.s1 = true ∨ i.s1 = 0) (s2 : v.s2 = true ∨ i.s2 = 0) (s3 : v.s3 = true ∨ i.s3 = 0)
    (fmt : v.fmt = true ∨ i.fmt = 0) (mod : Nat.land i.mod (255 - v.mod) = 0) (imm : Nat.land i.imm (65535 - v.imm) = 0) : v.holds i = true := by
  have field {a : Bool} {n : Nat} (h : a = true ∨ n = 0) : (a || n == 0) = true := by simpa using h
  rw [Used.holds, field d, field s1, field s2, field s3, field fmt, mod, imm]
  rfl

end Sys2Proof.Machine

/-! SUPPORT. Arithmetic on tiles (R260, R261, R270 to R276, R286): the rules that the instructions under RM share, and the values that each puts in T[D]. -/
namespace Sys2Proof.Machine
open Sys2Proof

section
variable {t : Th} {s u : State} {op m k : Nat} {i : Ins} {ins : Instr} {tiles : List Nat}

/-! ### The fields of an instruction under RM -/

theorem fld_rm (hm : m < 4) (hk : k < 16) : fld (16 * m + k) 4 2 = m := by
  unfold fld
  omega

/-- RM uses bits 5 and 4 of MOD; below them lie bits of each instruction's own. -/
theorem land_rm (hm : m < 3) : Nat.land (16 * m) 207 = 0 := (by decide : ∀ m < 3, Nat.land (16 * m) 207 = 0) m hm
theorem land_rm_bit (hm : m < 3) (hk : k < 2) : Nat.land (16 * m + k) 206 = 0 := (by decide : ∀ m < 3, ∀ k < 2, Nat.land (16 * m + k) 206 = 0) m hm k hk

theorem bitAt_eq {n j : Nat} {a : Bool} (h : n / 2 ^ j % 2 = b2n a) : bitAt n j = a := by
  rw [bitAt, h]
  exact decide_b2n a

/-- What the instructions under RM ask of their fields: RM is not reserved, the registers exist, and FMT is one that they can write. -/
structure Converts (t : Th) (s : State) (i : Ins) (tiles : List Nat) : Prop where
  rm : fld i.mod 4 2 ≠ 3
  s2 : i.s2 < 32
  s3 : i.s3 < 32
  regs : ∀ r ∈ i.d :: tiles, r < imgTregs (s.imageOf t)
  fmt : i.fmt ≤ 0x0E
  noCb : i.fmt ≠ 0x0C

theorem Converts.of_rm (rm : fld i.mod 4 2 = m) (hm : m < 3) (s2 : i.s2 < 32) (s3 : i.s3 < 32) (regs : ∀ r ∈ i.d :: tiles, r < imgTregs (s.imageOf t))
    (fmt : i.fmt ≤ 0x0E) (noCb : i.fmt ≠ 0x0C) : Converts t s i tiles := ⟨by omega, s2, s3, regs, fmt, noCb⟩

theorem Converts.fewer {less : List Nat} (h : Converts t s i tiles) (sub : less ⊆ tiles) : Converts t s i less :=
  { h with regs := fun r hr => h.regs r (List.cons_subset_cons _ sub hr) }

theorem Converts.passes (h : Converts t s i tiles) (reads : SameReads t s u) : Passes (elemGuards t i tiles u) := by
  have regs : (i.d :: tiles).any (u.badTile t) = false :=
    List.any_eq_false.mpr fun r hr => by rw [reads.badTile, State.badTile, not_beyond (h.regs r hr)]; exact Bool.false_ne_true
  refine .cons (beq_false_of_ne h.rm) (.cons ?_ (.cons ?_ passes_nil))
  · rw [regs, not_beyond h.s2, not_beyond h.s3]
    simp
  · rw [not_above h.fmt, beq_false_of_ne h.noCb]
    rfl

/-- The unused fields of an instruction under RM are 0: S3, and S2 where it has no other use, serve RM = 2 alone. -/
theorem rmFields_holds {s2 : Bool} {mask : Nat} (rm : fld i.mod 4 2 = m) (h2 : s2 = false → m ≠ 2 → i.s2 = 0) (h3 : m ≠ 2 → i.s3 = 0)
    (hmod : Nat.land i.mod (255 - mask) = 0) (himm : i.imm = 0) : (rmFields s2 mask i).holds i = true := by
  have sr (n : Nat) (h : m ≠ 2 → n = 0) : (fld i.mod 4 2 == 2) = true ∨ n = 0 := by
    by_cases hm : m = 2
    · exact .inl (by rw [rm, hm]; rfl)
    · exact .inr (h hm)
  refine Used.holds_of (.inl rfl) (.inl rfl) ?_ (sr _ h3) (.inl rfl) hmod (by rw [himm]; exact Nat.zero_and _)
  cases s2 with
  | true => exact .inl rfl
  | false => exact sr _ (h2 rfl)

/-- Results in FP32 go to T[D] in FMT under RM. -/
theorem putVals_puts {tr : Bool} {vals : List FV} {e : Exc} (reads : SameReads t s u) :
    Puts t i.d (tileOf i.fmt tr (s.rmOf t i) vals).1 u (putVals t i tr vals e u) := by
  rw [← reads.rmOf]
  exact .vec

/-! ### Element-wise instructions (R275, R286) -/

theorem zipOp_vals (f : FV → FV → FV) (x y : List FV) : (zipOp f x y).1 = List.zipWith (fun a b => (fp32Op f a b).1) x y := List.map_zipWith ..

theorem elemTwo_puts {f : FV → FV → FV} (h : Converts t s i [i.s1, i.s2]) (reads : SameReads t s u) :
    Puts t i.d (tileOf i.fmt (s.tile t i.s1).transposed (s.rmOf t i)
      (List.zipWith (fun a b => (fp32Op f a b).1) (s.tile t i.s1).vals (s.tile t i.s2).vals)).1 u (elemTwo f t i u) := by
  rw [elemTwo, guarded_passes (h.passes reads), reads.tile, reads.tile, ← zipOp_vals]
  exact putVals_puts reads

/-- TSCALE by the FP32 value of X[S2]. -/
theorem tscale_puts_scalar (h : Converts t s i [i.s1]) (scalar : bitAt i.mod 0 = false) (reads : SameReads t s u) :
    Puts t i.d (tileOf i.fmt (s.tile t i.s1).transposed (s.rmOf t i)
      (List.zipWith (fun a b => (fp32Op FV.mul a b).1) (s.tile t i.s1).vals (List.replicate 1024 (ffDecode fmtFP32 (s.xr t i.s2 % 2 ^ 32))))).1 u
      (tscale t i u) := by
  have rules : Passes ((!false && decide (32 ≤ i.s2), 3) :: elemGuards t i [i.s1] u) := .cons (by rw [not_beyond h.s2]; rfl) (h.passes reads)
  have ks : (List.range 1024).map (fun _ => ffDecode fmtFP32 (s.xr t i.s2 % 2 ^ 32)) = List.replicate 1024 (ffDecode fmtFP32 (s.xr t i.s2 % 2 ^ 32)) := by
    rw [List.map_const', List.length_range]
  simp only [tscale, scalar, Bool.false_eq_true, if_false, guarded_passes rules, reads.tile, reads.xr, ← zipOp_vals, ks]
  exact putVals_puts reads

/-- TSCALE column by column by row 0 of T[S2]. -/
theorem tscale_puts_row (h : Converts t s i [i.s1, i.s2]) (row : bitAt i.mod 0 = true) (reads : SameReads t s u) :
    Puts t i.d (tileOf i.fmt (s.tile t i.s1).transposed (s.rmOf t i)
      (List.zipWith (fun a b => (fp32Op FV.mul a b).1) (s.tile t i.s1).vals
        ((List.range 1024).map (fun j => ((s.tile t i.s2).vals.take 32).getD (j % 32) FV.zero)))).1 u (tscale t i u) := by
  have rules : Passes ((!true && decide (32 ≤ i.s2), 3) :: elemGuards t i [i.s1, i.s2] u) := .cons rfl (h.passes reads)
  simp only [tscale, row, if_true, guarded_passes rules, reads.tile, ← zipOp_vals]
  exact putVals_puts reads

theorem tlut_puts {tab : List Byte} {fp : Nat → FV} (h : Converts t s i [i.s1]) (inside : s.xr t i.s2 + 1036 ≤ imgSegment (s.imageOf t))
    (htab : tab = s.rdScratch t (s.xr t i.s2) 1036) (hfp : fp = fun k => ffDecode fmtFP32 (u32At tab (4 * k))) (reads : SameReads t s u) :
    Puts t i.d (tileOf i.fmt (s.tile t i.s1).transposed (s.rmOf t i)
      ((s.tile t i.s1).vals.map (fun x => lutValue (fp 0) (fp 1) (u32At tab 0) (u32At tab 4) (fun k => fp (2 + k)) (operand32 x).1))).1 u (tlut t i u) := by
  subst htab hfp
  have rules : Passes ((decide (32 ≤ i.s2), 3) :: elemGuards t i [i.s1] u ++ [(u.offScratch t (u.xr t i.s2) 1036, 3)]) := by
    refine .append (.cons (not_beyond h.s2) (h.passes reads)) (.cons ?_ passes_nil)
    rw [reads.offScratch, reads.xr]
    exact decide_eq_false (by omega)
  rw [tlut, guarded_passes rules, reads.tile, reads.xr, reads.scratch]
  dsimp only
  rw [List.map_map]
  exact putVals_puts reads

/-- TCVT, and TQ and TDQ of a format other than CB4, convert. -/
theorem tcvt_puts (h : Converts t s i [i.s1]) (reads : SameReads t s u) :
    Puts t i.d (tileOf i.fmt (s.tile t i.s1).transposed (s.rmOf t i) (s.tile t i.s1).vals).1 u (tcvt t i u) := by
  rw [tcvt, guarded_passes (h.passes reads), reads.tile]
  exact putVals_puts reads
theorem tq_puts (h : Converts t s i [i.s1]) (reads : SameReads t s u) :
    Puts t i.d (tileOf i.fmt (s.tile t i.s1).transposed (s.rmOf t i) (s.tile t i.s1).vals).1 u (tq t i u) := by
  rw [tq, beq_false_of_ne h.noCb, if_neg Bool.false_ne_true]
  exact tcvt_puts h reads
theorem tdq_puts (h : Converts t s i [i.s1]) (source : i.fmt = 1 ∨ i.fmt = 2) (reads : SameReads t s u) :
    Puts t i.d (tileOf i.fmt (s.tile t i.s1).transposed (s.rmOf t i) (s.tile t i.s1).vals).1 u (tdq t i u) := by
  have written : (!(i.fmt == 1 || i.fmt == 2)) = false := by rcases source with h | h <;> rw [h] <;> rfl
  rw [tdq, guarded_passes (.cons written (h.passes reads)), reads.tile]
  exact putVals_puts reads

/-! ### TQ with codebooks (R272, R273) -/

/-- TQ in CB4 with the codebooks that T[S2] holds. -/
theorem tqCb_puts_tile (hm : fld i.mod 4 2 ≠ 3) (inBand : bitAt i.mod 6 = false) (noStep : bitAt i.mod 7 = false) (hd : i.d < imgTregs (s.imageOf t))
    (ha : i.s1 < imgTregs (s.imageOf t)) (hb : i.s2 < imgTregs (s.imageOf t)) (bf16 : (s.tile t i.s2).fmt = 2) (reads : SameReads t s u) :
    Puts t i.d (quantTileCb (s.tile t i.s1).transposed
      ((List.range 4).map (fun j => (List.range 16).map (fun k => BitVec.ofNat 16 (u16At ((s.tile t i.s2).bytes (64 * j) 32) (2 * k)))))
      (s.tile t i.s1).vals).1 u (tqCb t i u) := by
  have rules : Passes [(fld i.mod 4 2 == 3 || (!false && false), 1), (u.badTile t i.d || u.badTile t i.s1 || (!false && u.badTile t i.s2), 3),
      (!false && (s.tile t i.s2).fmt != 2, 2)] := by
    simp only [reads.badTile]
    refine .cons (by rw [beq_false_of_ne hm]; rfl) (.cons ?_ (.cons (by rw [bf16]; rfl) passes_nil))
    rw [State.badTile, State.badTile, State.badTile, not_beyond hd, not_beyond ha, not_beyond hb]
    rfl
  simp only [tqCb, inBand, noStep, reads.tile, guarded_passes rules, Bool.false_eq_true, if_false]
  exact .vec

/-- TQ in CB4 with codebooks of the table: one for the tile, or one for each block of 256. -/
theorem tqCb_puts_named {step : Bool} {idx : Nat} (hm : fld i.mod 4 2 ≠ 3) (named : bitAt i.mod 6 = true) (steps : bitAt i.mod 7 = step)
    (hidx : fld i.imm 0 12 = idx) (hd : i.d < imgTregs (s.imageOf t)) (ha : i.s1 < imgTregs (s.imageOf t)) (reads : SameReads t s u) :
    Puts t i.d (quantTileCb (s.tile t i.s1).transposed
      ((List.range 4).map (fun j => (s.cbLook ((if step then idx + j else idx) % 4096)).getD (List.replicate 16 0))) (s.tile t i.s1).vals).1 u (tqCb t i u) := by
  have rules : Passes [(fld i.mod 4 2 == 3 || (!true && step), 1), (u.badTile t i.d || u.badTile t i.s1 || (!true && u.badTile t i.s2), 3),
      (!true && (s.tile t i.s2).fmt != 2, 2)] := by
    simp only [reads.badTile]
    refine .cons (by rw [beq_false_of_ne hm]; rfl) (.cons ?_ (.cons rfl passes_nil))
    rw [State.badTile, State.badTile, not_beyond hd, not_beyond ha]
    rfl
  simp only [tqCb, named, steps, hidx, reads.tile, cbLook_congr reads.cb, guarded_passes rules, if_true]
  exact .vec

/-! ### TRED -/

theorem tred_puts {kind : Nat} {col : Bool} {lists : List (List FV)} (hop : fld i.mod 0 2 = kind) (hk : kind < 3) (hcol : bitAt i.mod 2 = col)
    (hd : i.d < imgTregs (s.imageOf t)) (ha : i.s1 < imgTregs (s.imageOf t)) (hf : i.fmt ≤ 0x0E) (noCb : i.fmt ≠ 0x0C)
    (hl : lists = if col then (List.range 32).map (fun j => (List.range 32).map (fun r => (s.tile t i.s1).vals.getD (32 * r + j) FV.zero))
      else rows32 (s.tile t i.s1).vals) (reads : SameReads t s u) :
    Puts t i.d (rowZero i.fmt (lists.map (fun l => (reduceList kind l).1)) (s.tile t i.d)).1 u (tred t i u) := by
  have rules : Passes [(kind == 3, 1), (u.badTile t i.d || u.badTile t i.s1, 3), (decide (0x0E < i.fmt) || i.fmt == 0x0C, 2)] := by
    refine .cons (beq_false_of_ne (by omega)) (.cons ?_ (.cons ?_ passes_nil))
    · rw [reads.badTile, reads.badTile, State.badTile, State.badTile, not_beyond hd, not_beyond ha]
      rfl
    · rw [not_above hf, beq_false_of_ne noCb]
      rfl
  have values : (lists.map (reduceList kind)).map (·.1) = lists.map (fun l => (reduceList kind l).1) := List.map_map
  simp only [tred, hop, hcol, reads.tile, guarded_passes rules, ← hl, ← values]
  exact .vec

/-! ### TMMA (R260, R261, R274) -/

/-- The rate of each pair beside it, as an operation takes them. -/
theorem zip_rates (f : Tile × Tile → Nat) (l : List (Tile × Tile)) :
    (List.zip l (l.map f)).map (fun p => (p.1.1, p.1.2, p.2)) = l.map (fun p => (p.1, p.2, f p)) := by
  induction l with
  | nil => rfl
  | cons p r ih => exact congrArg _ ih

theorem zip_optional_rates (f : Tile × Tile → Option Nat) (l : List (Tile × Tile)) :
    (List.zip l (l.map f)).map (fun p => (p.1.1, p.1.2, p.2.getD 1)) = l.map (fun p => (p.1, p.2, (f p).getD 1)) := by
  induction l with
  | nil => rfl
  | cons p r ih => exact congrArg _ ih

/-- Tile registers from `a` on that all exist. -/
theorem registers_exist {a n : Nat} (h : a + n < imgTregs (s.imageOf t)) (few : a + n < 64) :
    (decide (64 < a + (n + 1)) || (rangeFrom a (n + 1)).any (s.badTile t)) = false := by
  have all : (rangeFrom a (n + 1)).any (s.badTile t) = false := List.any_eq_false.mpr fun r hr => by
    obtain ⟨j, hj, rfl⟩ := List.mem_map.mp hr
    have := List.mem_range.mp hj
    rw [State.badTile, not_beyond (by omega)]
    exact Bool.false_ne_true
  rw [all, decide_eq_false (by omega)]
  rfl

/-- The tile that a TMMA computes of its pairs, added to the 1,024 elements of `start`. -/
def mmaTile (int : Bool) (pairs : List (Tile × Tile)) (start : List FV) : Tile :=
  (tileOf (if int then 0x0E else 0x01) false (fun _ => .rne) (mmaAll int (pairs.map (fun p => (p.1, p.2, (pairRate p.1.fmt.toNat p.2.fmt.toNat).getD 1))) start).1).1

theorem tmma_puts {n : Nat} {z int : Bool} {pairs : List (Tile × Tile)} (hn : fld i.imm 0 4 = n) (hz : bitAt i.mod 0 = z)
    (hf : i.fmt = if int then 0x0E else 0x01) (hc : i.s3 < 32) (hd : i.d < imgTregs (s.imageOf t))
    (ha : i.s1 + n < imgTregs (s.imageOf t)) (hb : i.s2 + n < imgTregs (s.imageOf t)) (a64 : i.s1 + n < 64) (b64 : i.s2 + n < 64)
    (hp : pairs = (List.range (n + 1)).map (fun k => (s.tile t (i.s1 + k), s.tile t (i.s2 + k))))
    (classes : ∀ p, p ∈ pairs → isIntOperand p.1.fmt.toNat = int ∧ ∃ r, pairRate p.1.fmt.toNat p.2.fmt.toNat = some r)
    (engine : s.engineFor (s.gcore t) (s.xr t i.s3 % 64) ≠ none) (format : z = false → (s.tile t i.d).fmt.toNat = i.fmt) (reads : SameReads t s u) :
    Puts t i.d (mmaTile int pairs (if z then List.replicate 1024 FV.zero else (s.tile t i.d).vals)) u (tmma t i u) := by
  have first : isIntOperand ((pairs.head?.map (fun p => p.1.fmt.toNat)).getD 0) = int := by
    rw [hp, List.range_succ_eq_map] at classes ⊢
    exact (classes _ (List.mem_cons_self ..)).1
  have same : pairs.all (fun p => isIntOperand p.1.fmt.toNat == int) = true := List.all_eq_true.mpr fun p hp => beq_iff_eq.mpr (classes p hp).1
  have rated : (pairs.map (fun p => pairRate p.1.fmt.toNat p.2.fmt.toNat)).any Option.isNone = false := List.any_eq_false.mpr fun r hr => by
    obtain ⟨p, hp, rfl⟩ := List.mem_map.mp hr
    obtain ⟨-, r, hr⟩ := classes p hp
    rw [hr]
    exact Bool.false_ne_true
  obtain ⟨e, he⟩ := Option.ne_none_iff_exists'.mp engine
  have rules : Passes [(decide (32 ≤ i.s3) || s.badTile t i.d || (decide (64 < i.s1 + (n + 1)) || (rangeFrom i.s1 (n + 1)).any (s.badTile t))
        || (decide (64 < i.s2 + (n + 1)) || (rangeFrom i.s2 (n + 1)).any (s.badTile t)), 3),
      ((pairs.map (fun p => pairRate p.1.fmt.toNat p.2.fmt.toNat)).any Option.isNone || !(pairs.all (fun p => isIntOperand p.1.fmt.toNat == int))
        || i.fmt != (if int then 0x0E else 0x01), 2), (!z && (s.tile t i.d).fmt.toNat != i.fmt, 2)] := by
    refine .cons ?_ (.cons ?_ (.cons ?_ passes_nil))
    · rw [registers_exist ha a64, registers_exist hb b64, State.badTile, not_beyond hc, not_beyond hd]
      rfl
    · rw [rated, same, hf]
      simp
    · cases z with
      | true => rfl
      | false => simp [format rfl]
  have bad : u.badTile t = s.badTile t := funext reads.badTile
  have tiles : (List.range (n + 1)).map (fun k => (s.tile t (i.s1 + k), s.tile t (i.s2 + k))) = pairs := hp.symm
  simp only [tmma, hn, hz, reads.tile, reads.gcore, reads.xr, reads.engineFor, bad, tiles, first, he, zip_optional_rates]
  rw [guarded_passes rules, mmaTile, ← hf]
  exact ⟨_, rfl, exc_binds ..⟩

end

end Sys2Proof.Machine

section
open Sys2Proof Sys2Proof.Machine

/-- Settles O39: each instruction passes its rules, and beside T[D] it writes flags and counts alone. -/
theorem tileArithmeticCompletes : Obligations.TileArithmeticCompletes := by
  have rm {m : Nat} (hm : m < 3) : fld (16 * m) 4 2 = m := fld_rm (k := 0) (by omega) (by decide)
  refine ⟨fun th s d a b c z n int pairs rates cc issues hn hc hd ha hb a64 b64 hp classes hr engine hcc format => ?_,
    fun th s d a b c f m i hi hm h3 hb hc hd ha hbt hf noCb => ?_,
    fun th s d a b c f m i hi hm h3 hb hc hd ha hbt hf noCb issues => ?_,
    fun th s d a b c f m i tab fp hi hm h3 hb hc hd ha hf noCb inside htab hfp issues => ?_,
    fun th s d a b c f m i hi hm h23 hb hc hd ha hf noCb => ?_,
    fun th s d a b m issues hm hd ha hb bf16 => ?_, fun th s d a m step idx issues hm hidx hd ha => ?_,
    fun th s d a f op col lists issues hop hd ha hf noCb hl => ?_⟩
  · subst hr hcc
    have one : b2n z ≤ 1 := b2n_le z
    have hmod : Nat.land (b2n z) 254 = 0 := land_low (k := 1) (c := 127) (by omega)
    have himm : Nat.land n 65520 = 0 := land_low (k := 4) (c := 4095) hn
    rw [zip_rates]
    exact completes_tile rfl issues (by decide) (Used.holds_of (.inl rfl) (.inl rfl) (.inl rfl) (.inl rfl) (.inl rfl) hmod himm) fun u reads =>
      tmma_puts (fld_low (w := 4) hn) (bitAt_eq (show b2n z / 2 ^ 0 % 2 = b2n z by omega)) rfl hc hd ha hb a64 b64 hp classes engine format reads
  · subst hi
    have two : Converts th s ⟨d, a, b, c, f, 16 * m, 0⟩ [a, b] := .of_rm (rm hm) hm hb hc (by simp [hd, ha, hbt]) hf noCb
    have one : Converts th s ⟨d, a, b, c, f, 16 * m, 0⟩ [a] := two.fewer (by simp)
    have even : bitAt (16 * m) 0 = false := bitAt_eq (a := false) (show 16 * m / 2 ^ 0 % 2 = 0 by omega)
    have fields : (rmFields true 0x30 ⟨d, a, b, c, f, 16 * m, 0⟩).holds ⟨d, a, b, c, f, 16 * m, 0⟩ = true := rmFields_holds (rm hm) nofun h3 (land_rm hm) rfl
    refine ⟨fun issues => ?_, fun issues => ?_, fun issues => ?_⟩
    · exact completes_tile rfl issues (by decide) fields fun u reads => elemTwo_puts two reads
    · exact completes_tile rfl issues (by decide) fields fun u reads => elemTwo_puts two reads
    · exact completes_tile rfl issues (by decide) (rmFields_holds (rm hm) nofun h3 (land_rm_bit (k := 0) hm (by decide)) rfl) fun u reads => tscale_puts_scalar one even reads
  · subst hi
    have conv : Converts th s ⟨d, a, b, c, f, 16 * m + 1, 0⟩ [a, b] :=
      .of_rm (fld_rm (by omega) (by decide)) hm hb hc (by simp [hd, ha, hbt]) hf noCb
    exact completes_tile rfl issues (by decide) (rmFields_holds (fld_rm (by omega) (by decide)) nofun h3 (land_rm_bit hm (by decide)) rfl) fun u reads =>
      tscale_puts_row conv (bitAt_eq (a := true) (show (16 * m + 1) / 2 ^ 0 % 2 = 1 by omega)) reads
  · subst hi
    have conv : Converts th s ⟨d, a, b, c, f, 16 * m, 0⟩ [a] := .of_rm (rm hm) hm hb hc (by simp [hd, ha]) hf noCb
    exact completes_tile rfl issues (by decide) (rmFields_holds (rm hm) nofun h3 (land_rm hm) rfl) fun u reads => tlut_puts conv inside htab hfp reads
  · subst hi
    have conv : Converts th s ⟨d, a, b, c, f, 16 * m, 0⟩ [a] := .of_rm (rm hm) hm hb hc (by simp [hd, ha]) hf noCb
    have fields : (rmFields false 0x30 ⟨d, a, b, c, f, 16 * m, 0⟩).holds ⟨d, a, b, c, f, 16 * m, 0⟩ = true :=
      rmFields_holds (rm hm) (fun _ h => (h23 h).1) (fun h => (h23 h).2) (land_rm hm) rfl
    refine ⟨fun issues => ?_, fun issues => ?_, fun fp issues => ?_⟩
    · exact completes_tile rfl issues (by decide) fields fun u reads => tcvt_puts conv reads
    · refine completes_tile rfl issues (by decide) ?_ fun u reads => tq_puts conv reads
      dsimp only
      rw [beq_false_of_ne noCb]
      exact fields
    · exact completes_tile rfl issues (by decide) fields fun u reads => tdq_puts conv fp reads
  · have inBand : bitAt (16 * m) 6 = false := bitAt_eq (a := false) (show 16 * m / 2 ^ 6 % 2 = 0 by omega)
    have noStep : bitAt (16 * m) 7 = false := bitAt_eq (a := false) (show 16 * m / 2 ^ 7 % 2 = 0 by omega)
    refine completes_tile rfl issues (by decide) ?_ fun u reads => tqCb_puts_tile (by rw [rm hm]; omega) inBand noStep hd ha hb bf16 reads
    dsimp only
    rw [beq_self_eq_true, if_pos rfl, inBand]
    exact Used.holds_of (.inl rfl) (.inl rfl) (.inl rfl) (.inr rfl) (.inl rfl) (land_high (k := 4)) (Nat.zero_and _)
  · have one : b2n step ≤ 1 := b2n_le step
    have rms : fld (16 * m + 64 + 128 * b2n step) 4 2 = m := by
      unfold fld
      omega
    have named : bitAt (16 * m + 64 + 128 * b2n step) 6 = true := bitAt_eq (a := true) (show (16 * m + 64 + 128 * b2n step) / 2 ^ 6 % 2 = 1 by omega)
    have steps : bitAt (16 * m + 64 + 128 * b2n step) 7 = step := bitAt_eq (by omega)
    have hmod : Nat.land (16 * m + 64 + 128 * b2n step) 15 = 0 := by
      rw [show 16 * m + 64 + 128 * b2n step = 16 * (m + 4 + 8 * b2n step) by omega]
      exact land_high (k := 4) ..
    refine completes_tile rfl issues (by decide) ?_ fun u reads => tqCb_puts_named (by rw [rms]; omega) named steps (fld_low (w := 12) hidx) hd ha reads
    dsimp only
    rw [beq_self_eq_true, if_pos rfl, named]
    exact Used.holds_of (.inl rfl) (.inl rfl) (.inr rfl) (.inr rfl) (.inl rfl) hmod (land_low (k := 12) (c := 15) hidx)
  · have one : b2n col ≤ 1 := b2n_le col
    have hfld : fld (op + 4 * b2n col) 0 2 = op := by
      unfold fld
      omega
    refine completes_tile rfl issues (by decide) ?_ fun u reads => tred_puts hfld hop (bitAt_eq (show (op + 4 * b2n col) / 2 ^ 2 % 2 = b2n col by omega)) hd ha hf noCb hl reads
    exact Used.holds_of (.inl rfl) (.inl rfl) (.inr rfl) (.inr rfl) (.inl rfl) (land_low (k := 3) (c := 31) (show op + 4 * b2n col < 2 ^ 3 by omega)) (Nat.zero_and _)

end

/-! SUPPORT. TLD, TST and TZERO (R265, R283, R286, R296): the rules that each checks, and where a loaded tile comes from and a stored one goes to. -/
namespace Sys2Proof.Machine
open Sys2Proof

/-! ### Consecutive entries of a table -/

section
variable {α : Type}

theorem tgetL_eq_map (d : α) (l : Tab α) (k n : Nat) : tgetL d l k n = (List.range n).map (fun i => tget d l (k + i)) := by
  induction n generalizing k with
  | zero => rfl
  | succ n ih =>
    rw [tgetL, ih, List.range_succ_eq_map, List.map_cons, List.map_map]
    exact congrArg _ (List.map_congr_left fun i _ => congrArg _ (by simp; omega))

/-- What was written is read back. -/
theorem tgetL_tsetL_self [DecidableEq α] (d : α) (l : Tab α) (k : Nat) (vs : List α) : tgetL d (tsetL d l k vs) k vs.length = vs := by
  rw [tgetL_eq_map]
  refine List.ext_getElem (by simp) fun i _ hi => ?_
  rw [List.getElem_map, List.getElem_range, tget_tsetL, if_pos (by omega)]
  simp [hi]

/-- An entry outside what was written reads as before. -/
theorem tgetL_tsetL_outside [DecidableEq α] (d : α) (l : Tab α) {k j : Nat} {vs : List α} (h : j < k ∨ k + vs.length ≤ j) :
    tgetL d (tsetL d l k vs) j 1 = tgetL d l j 1 := by
  simp only [tgetL, tget_tsetL]
  rw [if_neg (by omega)]

end

section
variable {t : Th} {s u : State} {b b' : Binding} {i : Ins} {x : Tile} {e : Exc} {tr : Bool} {k n src : Nat} {bs : List Byte}

/-! ### TZERO -/

theorem tzero_puts (hd : i.d < imgTregs (s.imageOf t)) (hf : i.fmt ≤ 0x0E) (reads : SameReads t s u) : Puts t i.d (zeroTile i.fmt) u (tzero t i u) := by
  have rules : Passes [(u.badTile t i.d, 3), (decide (0x0E < i.fmt), 2)] :=
    .cons (by rw [reads.badTile, State.badTile, not_beyond hd]) (.cons (not_above hf) passes_nil)
  rw [tzero, guarded_passes rules]
  exact ⟨_, rfl, rfl⟩

/-! ### The fields of a TLD -/

/-- What a TLD asks of its fields: MOD names one of the four sources, its registers and its yard exist, and FMT is one that the source gives. -/
structure Loads (t : Th) (s : State) (i : Ins) (src : Nat) (tr : Bool) : Prop where
  mod : i.mod = 8 * b2n tr + src
  known : src < 4
  s1 : i.s1 < 32
  s2 : i.s2 < 32
  d : i.d < imgTregs (s.imageOf t)
  yard : src = 3 → fld i.imm 0 3 ≤ imgWyards (s.imageOf t)
  fmt : i.fmt ≤ 0x0E
  noCb : src = 2 → i.fmt ≠ 0x0C

theorem Loads.source (h : Loads t s i src tr) : fld i.mod 0 3 = src := by
  have := h.known
  rw [h.mod, fld]
  omega
theorem Loads.turns (h : Loads t s i src tr) : bitAt i.mod 3 = tr := by
  have := h.known
  have := b2n_le tr
  rw [h.mod]
  exact bitAt_eq (by omega)

/-- The unused fields of a TLD are 0: S1 serves all sources but a yard, S2 a line, and IMM a yard. -/
theorem Loads.holds (h : Loads t s i src tr) (h1 : src = 3 → i.s1 = 0) (h2 : src ≠ 2 → i.s2 = 0) (h3 : i.s3 = 0) (himm : i.imm = 0 ∨ src = 3 ∧ i.imm < 8) :
    Used.holds { d := true, s1 := fld i.mod 0 3 != 3, s2 := fld i.mod 0 3 == 2, fmt := true, mod := 0x0F, imm := if fld i.mod 0 3 == 3 then 0x7 else 0 } i = true := by
  have := h.known
  have := b2n_le tr
  have low : i.mod < 2 ^ 4 := by
    rw [h.mod]
    omega
  rw [h.source]
  refine Used.holds_of (.inl rfl) ?_ ?_ (.inr h3) (.inl rfl) (land_low (k := 4) (c := 15) low) ?_
  · by_cases hs : src = 3
    · exact .inr (h1 hs)
    · exact .inl (bne_iff_ne.mpr hs)
  · by_cases hs : src = 2
    · exact .inl (beq_iff_eq.mpr hs)
    · exact .inr (h2 hs)
  · rcases himm with none_ | ⟨rfl, low⟩
    · rw [none_]
      exact Nat.zero_and _
    · exact land_low (k := 3) (c := 8191) low

theorem Loads.passes (h : Loads t s i src tr) (reads : SameReads t s u) :
    Passes [(decide (4 ≤ src), 1), (src != 3 && decide (32 ≤ i.s1), 3), (src == 2 && decide (32 ≤ i.s2), 3), (u.badTile t i.d, 3),
      (src == 3 && decide (imgWyards (u.imageOf t) < fld i.imm 0 3), 6), (decide (0x0E < i.fmt), 2), (src == 2 && i.fmt == 0x0C, 2)] := by
  refine .cons (not_beyond h.known) (.cons ?_ (.cons ?_ (.cons ?_ (.cons ?_ (.cons (not_above h.fmt) (.cons ?_ passes_nil))))))
  · rw [not_beyond h.s1, Bool.and_false]
  · rw [not_beyond h.s2, Bool.and_false]
  · rw [reads.badTile, State.badTile, not_beyond h.d]
  · rw [reads.image]
    by_cases hs : src = 3
    · rw [not_above (h.yard hs), Bool.and_false]
    · rw [beq_false_of_ne hs, Bool.false_and]
  · by_cases hs : src = 2
    · rw [beq_false_of_ne (h.noCb hs), Bool.and_false]
    · rw [beq_false_of_ne hs, Bool.false_and]

/-! ### Loads -/

theorem loaded_puts (spells : tileFrom u i.fmt tr bs = some (x, e)) : Puts t i.d x u (loaded t i tr bs u) := by
  rw [loaded, spells]
  exact .skid

/-- From the binding's scratch segment. -/
theorem tld_scratch (h : Loads t s i 0 tr) (hn : n = tileEnc i.fmt (leNat (s.rdScratch t (s.xr t i.s1) 4)))
    (inside : s.xr t i.s1 + n ≤ imgSegment (s.imageOf t)) (spells : tileFrom s i.fmt tr (s.rdScratch t (s.xr t i.s1) n) = some (x, e)) (reads : SameReads t s u) :
    Puts t i.d x u (tld t i u) := by
  have rules : Passes [(u.offScratch t (s.xr t i.s1) n, 3)] := .cons (by rw [reads.offScratch]; exact not_above inside) passes_nil
  subst hn
  simp only [tld, h.source, h.turns, guarded_passes (h.passes reads), reads.xr, reads.scratch, guarded_passes rules]
  exact loaded_puts ((tileFrom_congr reads.cb).trans spells)

/-- From the Mill's window of LPDDR5X: the access switches the thread out. -/
theorem tld_window (h : Loads t s i 1 tr) (hn : n = tileEnc i.fmt (leNat (rdMem s (s.mil.pwinBase.toNat + s.xr t i.s1) 4)))
    (inside : s.xr t i.s1 + n ≤ s.mil.pwinSize.toNat) (spells : tileFrom s i.fmt tr (rdMem s (s.mil.pwinBase.toNat + s.xr t i.s1) n) = some (x, e))
    (reads : SameReads t s u) : ∃ v, tld t i u = .ok (switchOut t .access v) ∧ v.mil.binds = (setTile t i.d x u).mil.binds := by
  have rules : Passes [(u.offPwin (s.xr t i.s1) n, 3)] := .cons (by rw [reads.offPwin]; exact not_above inside) passes_nil
  obtain ⟨v, run, binds⟩ := loaded_puts (t := t) ((tileFrom_congr reads.cb).trans spells)
  refine ⟨v, ?_, binds⟩
  subst hn
  simp only [tld, h.source, h.turns, guarded_passes (h.passes reads), reads.xr, reads.rdMem, reads.pwinBase, guarded_passes rules, run]

/-- From the line of the current item's chunk. -/
theorem tld_line {it : YItem} {c : Option (Nat × Nat × Ctx)} (h : Loads t s i 2 tr) (line : s.lineOf t (s.xr t i.s1 % 2 ^ 32) (s.xr t i.s2) = some (it, c))
    (reads : SameReads t s u) : Puts t i.d (tileOf i.fmt tr (fun _ => .rne)
      (if tr && !isMX i.fmt then transposeVals (lineVals c (s.xr t i.s2)) else lineVals c (s.xr t i.s2))).1 u (tld t i u) := by
  simp only [tld, h.source, h.turns, guarded_passes (h.passes reads), reads.xr, reads.lineOf, line]
  exact .skid

/-! ### Loads from a yard (R289, R290) -/

/-- Bytes of an item that a read of a yard takes. -/
def YItem.ahead (it : YItem) (n : Nat) : List Byte := (it.bytes.drop it.rd).take n
/-- The item after that read. -/
def YItem.past (n : Nat) (it j : YItem) : YItem := { j with rd := it.rd + (it.ahead n).length }

/-- A read takes the bytes ahead of the thread's item where they are at hand. -/
theorem readYard_ahead {y : Nat} {it : YItem} (cur : u.curItem t y = some it) (stays : it.gone = false) (more : it.rd < it.bytes.length) (near : it.far n = false) :
    ∃ last, readYard t y n u = (modItem (thBid t) y it.id (it.past n) u, .got (it.ahead n) last) := by
  have left : ¬ it.bytes.length ≤ it.rd := by omega
  simp only [readYard, cur, stays, near, left, Bool.false_eq_true, if_false]
  exact ⟨_, rfl⟩

theorem Settled.modItem {y id : Nat} {f : YItem → YItem} (h : Settled t s b) : Settled t (modItem (thBid t) y id f s)
    { b with yards := tset [] b.yards y ((tget [] b.yards y).map (fun i => if i.id == id then f i else i)) } :=
  h.modSide (f := fun v => { v with yards := tset [] v.yards y ((v.yard y).map (fun i => if i.id == id then f i else i)) })

/-- The current item is the one of the binding's yard that the thread has claimed. -/
theorem Settled.curItem_eq {y : Nat} (h : Settled t s b) : s.curItem t y =
    (tget none (tget Thread.reset b.threads (thKey t)).item y).bind fun id => (tget [] b.yards y).find? (fun i => i.id == id) := by
  simp only [State.curItem, h.side, h.thread, Side.yard]
  cases tget none (tget Thread.reset b.threads (thKey t)).item y <;> rfl

theorem curItem_congr {y : Nat} (h : Settled t s b) (hu : Settled t u b') (threads : b'.threads = b.threads) (yards : b'.yards = b.yards) :
    u.curItem t y = s.curItem t y := by rw [h.curItem_eq, hu.curItem_eq, threads, yards]

/-- A change of the thread's item that keeps its identity leaves it the thread's. -/
theorem curItem_modItem {y : Nat} {it : YItem} {f : YItem → YItem} (h : Settled t s b) (cur : s.curItem t y = some it) (same : ∀ j, (f j).id = j.id) :
    (modItem (thBid t) y it.id f s).curItem t y = some (f it) := by
  have ids (j : YItem) : (if j.id == it.id then f j else j).id = j.id := by
    split
    · exact same j
    · rfl
  rw [h.curItem_eq] at cur
  obtain ⟨id, claimed, found⟩ := Option.bind_eq_some_iff.mp cur
  have moved : ((tget [] b.yards y).map (fun j => if j.id == it.id then f j else j)).find? (fun j => j.id == id) = some (f it) := by
    simp only [List.find?_map, Function.comp_def, ids, found, Option.map_some, beq_self_eq_true, if_true]
  rw [h.modItem.curItem_eq, claimed, Option.bind_some, tget_tset_self, moved]

theorem tld_yard {y : Nat} {it : YItem} (h : Loads t s i 3 tr) (hy : fld i.imm 0 3 = y) (cur : s.curItem t y = some it) (stays : it.gone = false)
    (more : it.rd < it.bytes.length) (hn : n = tileEnc i.fmt (u32At it.bytes it.rd)) (near : it.far n = false)
    (spells : tileFrom s i.fmt tr (it.ahead n) = some (x, e)) (reads : SameReads t s u) :
    Puts t i.d x (modItem (thBid t) y it.id (it.past n) u) (tld t i u) := by
  have cur' := (reads.curItem y).trans cur
  obtain ⟨last, read⟩ := readYard_ahead cur' stays more near
  have ahead : tldYard t i tr u = loaded t i tr (it.ahead n) (modItem (thBid t) y it.id (it.past n) u) := by
    subst hn
    simp only [tldYard, hy, cur', more, if_true, read]
  simp only [tld, h.source, h.turns, guarded_passes (h.passes reads), ahead]
  exact loaded_puts ((tileFrom_congr (s := s) (show _ = s.mil.cb from reads.cb)).trans spells)

/-! ### The fields of a TST -/

/-- What a TST asks of its fields: MOD names one of the three destinations and an RM that is not reserved, and the registers and FMT exist. -/
structure Stores (t : Th) (s : State) (i : Ins) (dst m : Nat) : Prop where
  mod : i.mod = 16 * m + dst
  known : dst < 3
  rounds : m < 3
  s1 : i.s1 < imgTregs (s.imageOf t)
  s2 : i.s2 < 32
  s3 : i.s3 < 32
  fmt : i.fmt ≤ 0x0E

theorem Stores.dest {dst m : Nat} (h : Stores t s i dst m) : fld i.mod 0 3 = dst := by
  have := h.known
  rw [h.mod, fld]
  omega
theorem Stores.rm {dst m : Nat} (h : Stores t s i dst m) : fld i.mod 4 2 = m := by
  have := h.known
  have := h.rounds
  rw [h.mod]
  exact fld_rm (by omega) (by omega)

theorem Stores.passes {dst m : Nat} (h : Stores t s i dst m) (reads : SameReads t s u) :
    Passes [(decide (3 ≤ dst) || m == 3, 1), (decide (32 ≤ i.s2) || decide (32 ≤ i.s3) || u.badTile t i.s1, 3), (decide (0x0E < i.fmt), 2)] := by
  refine .cons ?_ (.cons ?_ (.cons (not_above h.fmt) passes_nil))
  · rw [not_beyond h.known, beq_false_of_ne (Nat.ne_of_lt h.rounds)]
    rfl
  · rw [not_beyond h.s2, not_beyond h.s3, reads.badTile, State.badTile, not_beyond h.s1]
    rfl

/-- The unused fields of a TST are 0: S3 serves a line, and RM = 2. -/
theorem Stores.holds {dst m : Nat} (h : Stores t s i dst m) (hd : i.d = 0) (h3 : dst ≠ 2 → m ≠ 2 → i.s3 = 0) (himm : i.imm = 0) :
    Used.holds { s1 := true, s2 := true, s3 := fld i.mod 0 3 == 2 || fld i.mod 4 2 == 2, fmt := true, mod := 0x37 } i = true := by
  have low : Nat.land i.mod 200 = 0 := by
    rw [h.mod]
    exact (by decide : ∀ m < 3, ∀ k < 3, Nat.land (16 * m + k) 200 = 0) m h.rounds dst h.known
  refine Used.holds_of (.inr hd) (.inl rfl) (.inl rfl) ?_ (.inl rfl) low (by rw [himm]; exact Nat.zero_and _)
  rw [h.dest, h.rm]
  by_cases line : dst = 2
  · exact .inl (by rw [line]; rfl)
  by_cases sr : m = 2
  · exact .inl (by rw [sr]; exact Bool.or_true _)
  · exact .inr (h3 line sr)

theorem Settled.wrScratch {off : Nat} (h : Settled t s b) : Settled t (wrScratch t off bs s) { b with scratch := tsetL 0 b.scratch off bs } :=
  h.modSide (f := fun v => { v with scratch := tsetL 0 v.scratch off bs })

/-! ### Stores -/

/-- To the binding's scratch segment. -/
theorem tst_scratch {m : Nat} (h : Stores t s i 0 m) (conv : convert i.fmt (s.rmOf t i) (s.tile t i.s1) = some (x, e))
    (inside : s.xr t i.s2 + (tilesArray i.fmt [x]).length ≤ imgSegment (s.imageOf t)) (reads : SameReads t s u) :
    ∃ n, tst t i u = .ok (countSkid t n (exc t e (wrScratch t (s.xr t i.s2) (tilesArray i.fmt [x]) u))) := by
  have rules : Passes [(u.offScratch t (s.xr t i.s2) (tilesArray i.fmt [x]).length, 3)] := .cons (by rw [reads.offScratch]; exact not_above inside) passes_nil
  simp only [tst, h.dest, h.rm, guarded_passes (h.passes reads), reads.xr, reads.tile, reads.rmOf, conv]
  exact ⟨_, guarded_passes rules⟩

/-- To the Mill's window of LPDDR5X: the access switches the thread out. -/
theorem tst_window {m : Nat} (h : Stores t s i 1 m) (conv : convert i.fmt (s.rmOf t i) (s.tile t i.s1) = some (x, e))
    (inside : s.xr t i.s2 + (tilesArray i.fmt [x]).length ≤ s.mil.pwinSize.toNat) (reads : SameReads t s u) :
    ∃ n, tst t i u = .ok (switchOut t .access (countSkid t n (exc t e (wrMem u (s.mil.pwinBase.toNat + s.xr t i.s2) (tilesArray i.fmt [x]))))) := by
  have rules : Passes [(u.offPwin (s.xr t i.s2) (tilesArray i.fmt [x]).length, 3)] := .cons (by rw [reads.offPwin]; exact not_above inside) passes_nil
  simp only [tst, h.dest, h.rm, guarded_passes (h.passes reads), reads.xr, reads.tile, reads.rmOf, conv, reads.pwinBase]
  exact ⟨_, guarded_passes rules⟩

/-! ### Stores to a line (R296) -/

section
variable {it : YItem} {cid pos m : Nat} {c : Ctx}

/-- The mode of an element of a tile that goes to the item's line from element `start` on. -/
def YItem.lineRm (it : YItem) (rm start : Nat) : Nat → RMode := fun k => modeOf rm (u32At it.bytes 24) (u16At it.bytes 12) (start + k)

/-- The chunk's accumulator with a tile's values laid in from an element on; values beyond N are left out. -/
def Ctx.accLaid (c : Ctx) (pos start : Nat) (rm : Nat → RMode) (vals : List FV) : List Nat :=
  let v := (vals.take (c.d.elemsOf pos - start)).mapIdx (fun k e => accConvert c.d.afmt (rm k) e)
  (c.accOf pos).take start ++ v.map (·.1) ++ (c.accOf pos).drop (start + v.length)

/-- What the chunk's line holds in OUTFMT; zeros where nothing has been written in it. -/
def Ctx.lineBytes (c : Ctx) (pos outfmt : Nat) : List Byte :=
  match (c.chunk pos).outBytes with
  | some (_, l) => l.map (BitVec.ofNat 8)
  | none => zeros (encBytes outfmt (c.d.elemsOf pos) false)

/-- An element on which a value is laid. -/
theorem accLaid_getD {start : Nat} {rm : Nat → RMode} {vals : List FV} (inAcc : k < (c.accOf pos).length) (from_ : start ≤ k) (below : k < start + vals.length)
    (inChunk : k < c.d.elemsOf pos) : (c.accLaid pos start rm vals).getD k 0 = (accConvert c.d.afmt (rm (k - start)) (vals.getD (k - start) FV.zero)).1 := by
  have before : ((c.accOf pos).take start).length = start := List.length_take_of_le (by omega)
  have here : k - start < vals.length := by omega
  have kept : k - start < c.d.elemsOf pos - start := by omega
  simp only [Ctx.accLaid, List.append_assoc, List.getD_eq_getElem?_getD]
  rw [List.getElem?_append_right (by omega), before, List.getElem?_append_left (by simp; omega)]
  simp [here, kept]

/-- Elements go to the line in the accumulator format where OUTFMT is 0xFF. -/
theorem tst_line_raw (h : Stores t s i 2 m) (line : s.lineOf t (s.xr t i.s2 % 2 ^ 32) (s.xr t i.s3) = some (it, some (cid, pos, c)))
    (raw : u8At it.bytes 19 = 0xFF) (reads : SameReads t s u) :
    ∃ n e, tst t i u = .ok (countSkid t n (exc t e (modChunk cid pos
      (fun ch => { ch with acc := c.accLaid pos (s.xr t i.s3) (it.lineRm m (s.xr t i.s3)) (s.tile t i.s1).vals }) u))) := by
  simp only [tst, h.dest, h.rm, guarded_passes (h.passes reads), tstLine, reads.xr, reads.tile, reads.lineOf, line, raw, beq_self_eq_true, if_true, Ctx.accLaid, YItem.lineRm]
  exact ⟨_, _, rfl⟩

/-- Elements go to the line in OUTFMT. -/
theorem tst_line_out {y : Tile} (h : Stores t s i 2 m) (line : s.lineOf t (s.xr t i.s2 % 2 ^ 32) (s.xr t i.s3) = some (it, some (cid, pos, c)))
    (out : u8At it.bytes 19 ≠ 0xFF) (conv : convert (u8At it.bytes 19) (it.lineRm m (s.xr t i.s3)) (s.tile t i.s1) = some (y, e)) (reads : SameReads t s u) :
    ∃ n, tst t i u = .ok (countSkid t n (exc t e (modChunk cid pos (fun ch => { ch with outBytes := some (BitVec.ofNat 8 (u8At it.bytes 19),
      (layLine (u8At it.bytes 19) (c.d.elemsOf pos) (s.xr t i.s3) y
        (fit (encBytes (u8At it.bytes 19) (c.d.elemsOf pos) false) (c.lineBytes pos (u8At it.bytes 19)))).map (fun v => v.toNat)) }) u))) := by
  unfold YItem.lineRm at conv
  simp only [tst, h.dest, h.rm, guarded_passes (h.passes reads), tstLine, reads.xr, reads.tile, reads.lineOf, line, beq_false_of_ne out, conv]
  exact ⟨_, rfl⟩

/-- An instruction that beside flags and counts changes one chunk of a context. -/
theorem completes_line {f : Chunk → Chunk} {op : Nat} {ins : Instr} {used : Ins → Used} {body : Ins → State → MRes}
    (hexec : exec ins s = .next (runMill t op used body s)) (issues : Issues t op i s) (known : knownOps.contains op = true) (holds : (used i).holds i = true)
    (ready : Ready t s (noteIssue t s) b) (hc : s.ctx cid = some c)
    (run : body i (noteIssue t s) = .ok (countSkid t n (exc t e (modChunk cid pos f (noteIssue t s))))) :
    Completes ins s fun u => GoesOn t s u ∧ XSet t 0 0 s u ∧
      ∃ c', u.ctx cid = some c' ∧ (∀ k, k ≠ pos → c'.chunk k = c.chunk k) ∧ c'.chunk pos = f (c.chunk pos) := by
  have hv : Settled t (countSkid t n (exc t e (modChunk cid pos f (noteIssue t s)))) b := ready.settled.of_binds (exc_binds ..)
  refine completes_ready hexec issues known holds ready run hv rfl ⟨c.setChunk pos (f (c.chunk pos)), ?_, fun k hk => chunk_setChunk_of_ne _ _ hk, chunk_setChunk_self ..⟩
  rw [State.ctx, modThread_kept.e_lnd, countSkid_kept.e_lnd, exc_kept.e_lnd]
  exact (modCtx_ctx_self ..).trans (by rw [ready.ctx, hc, Option.map_some])

end

end

end Sys2Proof.Machine

section
open Sys2Proof Sys2Proof.Machine

/-- Settles O38: each instruction passes its rules; a load writes T[D], a store writes its destination, and an access to the window switches the thread out. -/
theorem tileMovesComplete : Obligations.TileMovesComplete := by
  refine ⟨fun th s d a f tr off n x e issues ha hd hf hoff hn inside spells => ?_, fun th s d a f tr off n x e issues ha hd hf hoff hn inside spells => ?_,
    fun th s d a b f tr it cid pos c issues ha hb hd hf noCb line => ?_,
    fun th s d f tr y it x e issues hy y8 hd hf cur flushed aged more near spells => ?_,
    fun th s a b c f m off x e n issues hm h3 hc hb ha hf conv hoff hn inside => ?_,
    fun th s a b c f m off x e n issues hm h3 hc hb ha hf conv hoff hn inside fitted => ?_,
    fun th s a b c f m it cid pos x issues hm hc hb ha hf line hx => ?_, fun th s d f issues hd hf => ?_⟩
  · subst hoff
    have loads : Loads th s ⟨d, a, 0, 0, f, 8 * b2n tr, 0⟩ 0 tr := ⟨rfl, by decide, ha, Nat.zero_lt_succ _, hd, nofun, hf, nofun⟩
    exact completes_tile rfl issues (by decide) (loads.holds nofun (fun _ => rfl) rfl (.inl rfl)) fun u reads => tld_scratch loads hn inside spells reads
  · subst hoff
    have loads : Loads th s ⟨d, a, 0, 0, f, 8 * b2n tr + 1, 0⟩ 1 tr := ⟨rfl, by decide, ha, Nat.zero_lt_succ _, hd, nofun, hf, nofun⟩
    obtain ⟨b, ready⟩ := issues_ready issues
    obtain ⟨v, run, binds⟩ := tld_window loads hn inside spells ready.toSameReads
    have hv := ready.settled.setTile.of_binds (u := v) binds
    exact completes_access rfl issues (by decide) (loads.holds nofun (fun _ => rfl) rfl (.inl rfl)) ready run hv rfl (tileSet_of ready hv.modThread.modThread rfl)
  · have loads : Loads th s ⟨d, a, b, 0, f, 8 * b2n tr + 2, 0⟩ 2 tr := ⟨rfl, by decide, ha, hb, hd, nofun, hf, fun _ => noCb⟩
    exact completes_tile rfl issues (by decide) (loads.holds nofun (fun h => absurd rfl h) rfl (.inl rfl)) fun u reads => tld_line loads line reads
  · have low : fld y 0 3 = y := fld_low (w := 3) y8
    have loads : Loads th s ⟨d, 0, 0, 0, f, 8 * b2n tr + 3, y⟩ 3 tr :=
      ⟨rfl, by decide, Nat.zero_lt_succ _, Nat.zero_lt_succ _, hd, fun _ => low.symm ▸ hy, hf, nofun⟩
    have stays : it.gone = false := by rw [YItem.gone, flushed, aged]; rfl
    obtain ⟨b, ready⟩ := issues_ready issues
    obtain ⟨v, run, binds⟩ := tld_yard loads low cur stays more rfl near spells ready.toSameReads
    have read := ready.settled.modItem (y := y) (id := it.id) (f := it.past (tileEnc f (u32At it.bytes it.rd)))
    have hv := read.setTile.of_binds (u := v) binds
    refine completes_ready rfl issues (by decide) (loads.holds (fun _ => rfl) (fun _ => rfl) rfl (.inr ⟨rfl, y8⟩)) ready run hv rfl
      ⟨tileSet_of ready hv.modThread rfl, ?_⟩
    rw [hv.curItem_pc, curItem_congr read hv rfl rfl]
    exact curItem_modItem ready.settled ((ready.curItem y).trans cur) fun _ => rfl
  · subst hoff hn
    have stores : Stores th s ⟨0, a, b, c, f, 16 * m, 0⟩ 0 m := ⟨rfl, by decide, hm, ha, hb, hc, hf⟩
    obtain ⟨bd, ready⟩ := issues_ready issues
    obtain ⟨n, run⟩ := tst_scratch stores conv inside ready.toSameReads
    have hv := (ready.settled.wrScratch (off := s.xr th b) (bs := tilesArray f [x])).of_binds
      (u := countSkid th n (exc th e (wrScratch th (s.xr th b) (tilesArray f [x]) (noteIssue th s)))) (exc_binds ..)
    refine completes_ready rfl issues (by decide) (stores.holds rfl (fun _ => h3) rfl) ready run hv rfl ⟨?_, fun k outside => ?_, fun k => ?_⟩
    · rw [hv.modThread.rdScratch]
      exact tgetL_tsetL_self ..
    · rw [hv.modThread.rdScratch, ← ready.scratch, ready.settled.rdScratch]
      exact tgetL_tsetL_outside _ _ outside
    · rw [hv.modThread.tile, ← ready.tile, ready.settled.tile]
  · subst hoff hn
    have stores : Stores th s ⟨0, a, b, c, f, 16 * m + 1, 0⟩ 1 m := ⟨rfl, by decide, hm, ha, hb, hc, hf⟩
    obtain ⟨bd, ready⟩ := issues_ready issues
    obtain ⟨n, run⟩ := tst_window stores conv inside ready.toSameReads
    have hv := ready.settled.of_binds (u := countSkid th n (exc th e (wrMem (noteIssue th s) (s.mil.pwinBase.toNat + s.xr th b) (tilesArray f [x])))) (exc_binds ..)
    refine completes_access rfl issues (by decide) (stores.holds rfl (fun _ => h3) rfl) ready run hv rfl fun k => ?_
    have whole : (tilesArray f [x]).take (s.capacity - (s.mil.pwinBase.toNat + s.xr th b)) = tilesArray f [x] := List.take_of_length_le (by omega)
    rw [modThread_kept.e_ram, switchOut, modThread_kept.e_ram, countSkid_kept.e_ram, exc_kept.e_ram, wrMem_tget, ready.capacity, whole, ready.kept.e_ram,
      List.getD_eq_getElem?_getD]
  · have stores : Stores th s ⟨0, a, b, c, f, 16 * m + 2, 0⟩ 2 m := ⟨rfl, by decide, hm, ha, hb, hc, hf⟩
    have holds := stores.holds rfl (fun h => absurd rfl h) rfl
    obtain ⟨bd, ready⟩ := issues_ready issues
    by_cases raw : u8At it.bytes 19 = 0xFF
    · obtain ⟨n, e, run⟩ := tst_line_raw stores line raw ready.toSameReads
      refine (completes_line rfl issues (by decide) holds ready hx run).imp fun u ⟨goes, regs, x', hx', others, mine⟩ =>
        ⟨fun _ => ⟨goes, regs, x', hx', others, fun k inAcc from_ below inChunk => ?_⟩, fun g y e old hg out => absurd (hg.trans raw) out⟩
      rw [mine, accLaid_getD inAcc from_ below inChunk, YItem.lineRm, Nat.add_sub_cancel' from_]
    · cases conv : convert (u8At it.bytes 19) (it.lineRm m (s.xr th c)) (s.tile th a) with
      | none =>
        refine ⟨_, rfl, fun h => absurd h raw, fun g y e old hg _ hconv => ?_⟩
        subst hg
        exact nomatch conv.symm.trans hconv
      | some r =>
        obtain ⟨n, run⟩ := tst_line_out stores line raw conv ready.toSameReads
        refine (completes_line rfl issues (by decide) holds ready hx run).imp fun u ⟨goes, regs, x', hx', others, mine⟩ =>
          ⟨fun h => absurd h raw, fun g y e old hg _ hconv hold => ⟨goes, regs, x', hx', others, by rw [mine], ?_⟩⟩
        subst hg hold
        obtain rfl := Option.some.inj (conv.symm.trans hconv)
        exact congrArg Chunk.outBytes mine
  · exact completes_tile rfl issues (by decide) (Used.holds_of (.inl rfl) (.inr rfl) (.inr rfl) (.inr rfl) (.inl rfl) (Nat.zero_and _) (Nat.zero_and _)) fun u reads =>
      tzero_puts hd hf reads

end

/-! SUPPORT. Who commands the device (R384, R390) and what one step runs: every command answers, and the device-wide ones pass the write gate. -/
namespace Sys2Proof.Machine
open Sys2Proof

/-- No command stops the block. -/
theorem exec_answers (c : Instr) (s : State) : ∃ t, exec c s = .next t := by
  cases c <;> exact ⟨_, rfl⟩

/-- A write of data through the BAR2 window passes the write gate like a register write. -/
theorem exec_bar2Access_gated {p : HPort} {off : BitVec 36} {n : Nat} {d : List Byte} {s : State} :
    ∃ f, exec (.bar2Access p off n (some d)) s = .next (hostWrite p false f s) := by
  cases hp : (s.host p).perst with
  | true =>
    refine ⟨id, ?_⟩
    rw [hostWrite_perst hp]
    exact congrArg Host.Outcome.next (if_pos hp)
  | false => exact ⟨_, congrArg Host.Outcome.next (if_neg (by rw [hp]; exact Bool.false_ne_true))⟩

/-- What a device-wide command does, it does behind the write gate of the port that gives it. -/
theorem exec_deviceWide {c : Instr} {p : HPort} {s : State} (h : deviceWide c = some p) : ∃ glb f, exec c s = .next (hostWrite p glb f s) := by
  cases c
  case bar2Access q off n data =>
    cases data with
    | none => cases h
    | some d =>
      cases h
      exact ⟨false, exec_bar2Access_gated⟩
  all_goals cases h <;> exact ⟨_, _, rfl⟩

/-- The claim on the host lease stands behind PERST# alone. -/
theorem exec_hostLease {c : Instr} {p : HPort} {s : State} (h : c = .claim p ∨ c = .hostRenew p ∨ c = .hostYield p ∨ ∃ n, c = .force p n) :
    ∃ f, exec c s = .next (portWrite p f s) := by
  rcases h with rfl | rfl | rfl | ⟨n, rfl⟩ <;> exact ⟨_, rfl⟩

theorem portWrite_perst {p : HPort} {f : State → State} {s : State} (hp : (s.host p).perst = true) : portWrite p f s = s := if_pos hp

/-- A denied write counts once, under the port's own event (R390). -/
theorem denyWrite_counts (p : HPort) (s : State) :
    tget 0 (denyWrite p s).tly.ctr (evNo 2 0 (portIdx p)) = tget 0 s.tly.ctr (evNo 2 0 (portIdx p)) + 1 := by
  rw [denyWrite, (count_ctr _ _).2, if_pos rfl]
  cases p <;> rfl

theorem denyWrite_owner (p : HPort) (s : State) : (denyWrite p s).hst.owner = s.hst.owner := by
  cases p <;> rfl

end Sys2Proof.Machine

section
open Sys2Proof Sys2Proof.Machine

/-- Settles O53: a step is the front command's meaning, every meaning answers, and the frame of a command leaves the queue alone. -/
theorem stepTakesTheFrontCommand : Obligations.StepTakesTheFrontCommand := by
  refine ⟨fun c rest s => step_front rfl, fun s h => step_idle h, fun c s => ?_⟩
  obtain ⟨t, h⟩ := exec_answers c s
  exact ⟨t, h, (kept_of_exec h).pending⟩

/-- Settles O57: a device-wide command is a gated write, and the gate lets a stranger's write do nothing but be denied and counted. -/
theorem strangersAreDenied : Obligations.StrangersAreDenied := by
  refine ⟨fun c p s wide ⟨hp, hb, ho⟩ => ?_, fun c p s names hp => ?_⟩
  · obtain ⟨glb, f, run⟩ := exec_deviceWide (s := s) wide
    rw [hostWrite_stranger hp hb ho] at run
    exact completes_next run ⟨denyWrite_host_self p s, fun q hq => denyWrite_host_of_ne s hq, denyWrite_owner p s, denyWrite_counts p s,
      fun b h1 h2 => denyWrite_kept.same b (by simp [h1, h2])⟩
  · rcases names with wide | lease
    · obtain ⟨glb, f, run⟩ := exec_deviceWide (s := s) wide
      exact completes_next run (hostWrite_perst hp)
    · obtain ⟨f, run⟩ := exec_hostLease (s := s) lease
      exact completes_next run (portWrite_perst hp)

end

/-! SUPPORT. SEC (R400 to R419): when a command of SEC_CMD runs, what an alarm changes beside SEC, and the version fuses through the boot ROM. -/
namespace Sys2Proof.Machine
open Sys2Proof

section
variable {p : HPort} {i : Instr} {f : State → State} {s t u : State} {P : State → Prop} {sensor : Nat}

/-- The owner's command of SEC_CMD runs in a state that its rule allows, while none is busy (R419). -/
theorem completes_secCommand {allowed : DevState → Bool} (run : exec i s = .next (secCommand p allowed f s)) (ho : Owner p s) (idle : s.sec.busy = false)
    (ok : allowed s.glb.state = true) (h : P (f s)) : Completes i s P := by
  refine completes_owner run ho ?_
  rw [idle, if_neg Bool.false_ne_true, ok]
  exact h

/-! ### Alarms (R413 to R415) -/

/-- An alarm as it stands before its self-cordon: counted and told, and at A2 with the keys erased. -/
def alarmNoted (sensor : Nat) (s : State) : State :=
  let level := s.alarmLevel sensor
  let s := extend 7 (toLE 1 sensor ++ toLE 1 level) s
  let s := if level == 0 then { s with sec.a0 := satInc s.sec.a0 } else { s with sec.a1 := satInc s.sec.a1, sec.dbg := 0 }
  let s := fire 11 { s with sec.alarmSensor := setBit s.sec.alarmSensor sensor true, sec.alarmLast := BitVec.ofNat 2 level }
  if level == 2 then eraseKeys s else s

theorem alarm_silent (h : s.alarmLevel sensor = 0) : alarm sensor s = alarmNoted sensor s := by
  simp only [alarm, alarmNoted, h, beq_self_eq_true, if_true]

theorem alarm_cordons (h : s.alarmLevel sensor ≠ 0) : alarm sensor s = selfCordon (2 + s.alarmLevel sensor) (alarmNoted sensor s) :=
  if_neg (by simpa using h)

theorem alarmNoted_kept : Kept [.hst, .sec, .nv, .out, .keys] s (alarmNoted sensor s) := by
  unfold alarmNoted
  try dsimp only
  repeat' first
    | with_reducible exact Kept.refl _
    | with_reducible apply Kept.step extend_kept
    | with_reducible apply Kept.step fire_kept
    | with_reducible apply Kept.step eraseKeys_kept
    | with_reducible apply Kept.ite
    | (fail_if_no_progress ((with_reducible apply Kept.put_sec); decide; with_reducible exact rfl))
    | decide

/-- The keys go at A2 and at no other level. -/
theorem alarmNoted_nv (sensor : Nat) (s : State) : (alarmNoted sensor s).nv = if s.alarmLevel sensor = 2 then (eraseKeys s).nv else s.nv := by
  unfold alarmNoted
  by_cases h : s.alarmLevel sensor = 2
  · simp [h, eraseKeys, extend]
  · by_cases h0 : s.alarmLevel sensor = 0 <;> simp [h, h0, extend]

/-- A self-cordon leaves a device that is not in service or quiesced as it is. -/
theorem selfCordon_idle {c : Nat} (h1 : s.glb.state ≠ .inService) (h2 : s.glb.state ≠ .quiesced) : selfCordon c s = s :=
  if_pos (by simp [h1, h2])

/-- What an alarm does to the key slots and the fuses, its erasure does: a self-cordon touches neither. -/
theorem alarm_keys (sensor : Nat) (s : State) : SameBlk .keys (alarmNoted sensor s) (alarm sensor s) := by
  by_cases h : s.alarmLevel sensor = 0
  · exact alarm_silent h ▸ SameBlk.refl .keys _
  · exact alarm_cordons h ▸ selfCordon_kept.same .keys (by decide)

/-! ### The boot ROM (R404, R407) -/

/-- In BOOT, with the version fuses of the state that the ROM began in. -/
structure InBoot (v : Byte) (t : State) : Prop where
  boot : t.glb.state = .boot
  fuses : t.nv.fusever = v

theorem InBoot.of_same {v : Byte} (h : InBoot v s) (hg : t.glb = s.glb) (hn : t.nv.fusever = s.nv.fusever) : InBoot v t :=
  ⟨hg ▸ h.boot, hn.trans h.fuses⟩

theorem InBoot.alarm {v : Byte} (h : InBoot v s) : InBoot v (alarm sensor s) := by
  have noted : InBoot v (alarmNoted sensor s) := h.of_same (alarmNoted_kept.same .glb (by decide)) (by
    rw [alarmNoted_nv]
    split <;> rfl)
  by_cases hl : s.alarmLevel sensor = 0
  · rwa [alarm_silent hl]
  · rwa [alarm_cordons hl, selfCordon_idle (by simp [noted.boot]) (by simp [noted.boot])]

theorem InBoot.sigFail {v : Byte} (h : InBoot v s) : InBoot v (sigFail s) := by
  unfold Machine.sigFail
  dsimp only
  split
  · exact InBoot.alarm (h.of_same rfl rfl)
  · exact h.of_same rfl rfl

theorem InBoot.verifySlot {v : Byte} (slot : Bool) (h : InBoot v s) : InBoot v (verifySlot slot s).1 := by
  unfold Machine.verifySlot
  dsimp only
  split
  · exact h.of_same rfl rfl
  · exact h.sigFail
  · exact h

/-- The ROM passes no firmware below the fuses (R407). -/
theorem verifySlot_floor {slot : Bool} (h : verifySlot slot s = (t, true)) :
    s.nv.fusever.toNat ≤ u8At (if slot then s.nv.fw1 else s.nv.fw0) 9 ∧ t.nv = s.nv := by
  unfold verifySlot at h
  dsimp only at h
  split at h
  · obtain ⟨rfl, ok⟩ := Prod.mk.inj h
    exact ⟨of_decide_eq_true ok, rfl⟩
  · exact absurd (Prod.mk.inj h).2 Bool.false_ne_true
  · exact absurd (Prod.mk.inj h).2 Bool.false_ne_true

theorem u8At_lt (b : List Byte) (off : Nat) : u8At b off < 256 := by
  unfold u8At leAt
  generalize hd : slice b off 1 = d
  have short : d.length ≤ 1 := by
    rw [← hd]
    simp [slice]
  match d, short with
  | [], _ => exact Nat.zero_lt_succ _
  | [x], _ => exact x.isLt

theorem startFirmware_secver (slot : Bool) (s : State) :
    (startFirmware slot s).sec.secver = BitVec.ofNat 8 (u8At (if slot then s.nv.fw1 else s.nv.fw0) 9) := by
  have pens (l : Tab Nat) (u : State) :
      (forEach l (fun e s => { s with res.parts := tmod Part.reset s.res.parts e.1 (fun x => { x with pen := e.2, penAt := s.clk }) }) u).sec = u.sec := by
    refine (forEach_kept (L := [.res]) fun e w => ?_).e_sec
    exact Kept.put_res (by decide) rfl (Kept.refl w)
  unfold startFirmware
  dsimp only
  rw [setDev_kept.e_sec, (forEach_kept fun _ _ => State.modPart_kept).e_sec, pens]

/-- Firmware that starts after it passed reports a SECVER at or above the fuses (R407). -/
theorem startFirmware_floor {v : Byte} {slot : Bool} (h : InBoot v s) (passed : verifySlot slot s = (t, true)) :
    (startFirmware slot t).nv.fusever = v ∧ (startFirmware slot t).nv.fusever.toNat ≤ (startFirmware slot t).sec.secver.toNat := by
  obtain ⟨above, nv⟩ := verifySlot_floor passed
  have fuses : (startFirmware slot t).nv.fusever = v := by rw [startFirmware_kept.e_nv, nv, h.fuses]
  refine ⟨fuses, ?_⟩
  rw [fuses, startFirmware_secver, nv, BitVec.toNat_ofNat, Nat.mod_eq_of_lt (u8At_lt _ _), ← h.fuses]
  exact above

/-- The ROM's first steps: BOOT, the first measurement, an erasure that power cut short, and the temperature latch. -/
def romReady (s : State) : State :=
  let s := extend 0 (digestBytes Config.romDigest) (setDev .boot { s with sec.meas := [] })
  let s := if s.nv.erasing then eraseKeys s else s
  if s.nv.tempLatch then alarm 2 { s with nv.tempLatch := false } else s
/-- The ROM's last steps: the slot to try first, then the other. -/
def romStart (s : State) : State :=
  match verifySlot s.nv.fwFirst s with
  | (s, true) => startFirmware s.nv.fwFirst s
  | (s, false) =>
    match verifySlot (!s.nv.fwFirst) s with
    | (s, true) => startFirmware (!s.nv.fwFirst) s
    | (s, false) => s

theorem powerGood_runs (h : s.glb.state = .reset) (good : s.pwr.pgood = true) : powerGood s = romStart (romReady s) := by
  rw [powerGood, if_neg (by simp [h, good])]
  rfl

theorem powerGood_waits (good : s.pwr.pgood = false) : powerGood s = s := if_pos (by simp [good])

theorem inBoot_romReady (s : State) : InBoot s.nv.fusever (romReady s) := by
  have start : InBoot s.nv.fusever (extend 0 (digestBytes Config.romDigest) (setDev .boot { s with sec.meas := [] })) :=
    ⟨by rw [extend_kept.e_glb, setDev_state], by rw [extend_kept.e_nv, setDev_kept.e_nv]⟩
  unfold romReady
  generalize extend 0 (digestBytes Config.romDigest) (setDev .boot { s with sec.meas := [] }) = u at start
  have wiped : InBoot s.nv.fusever (if u.nv.erasing then eraseKeys u else u) := by
    split
    · exact start.of_same rfl rfl
    · exact start
  dsimp only
  generalize (if u.nv.erasing then eraseKeys u else u) = w at wiped
  split
  · exact InBoot.alarm (wiped.of_same rfl rfl)
  · exact wiped

theorem romStart_floor {v : Byte} (h : InBoot v s) :
    (romStart s).nv.fusever = v ∧ ((romStart s).glb.state = .unplatted → (romStart s).nv.fusever.toNat ≤ (romStart s).sec.secver.toNat) := by
  have next := h.verifySlot s.nv.fwFirst
  unfold romStart
  cases hv : verifySlot s.nv.fwFirst s with
  | mk u ok =>
    rw [hv] at next
    cases ok with
    | true =>
      simp only [(verifySlot_floor hv).2]
      exact (startFirmware_floor h hv).imp_right fun x _ => x
    | false =>
      have last := next.verifySlot (!u.nv.fwFirst)
      cases hw : verifySlot (!u.nv.fwFirst) u with
      | mk w ok =>
        simp only [hw] at last ⊢
        cases ok with
        | true =>
          simp only [(verifySlot_floor hw).2]
          exact (startFirmware_floor next hw).imp_right fun x _ => x
        | false => exact ⟨last.fuses, fun un => absurd (last.boot.symm.trans un) (by decide)⟩

theorem powerGood_floor (h : s.glb.state = .reset) :
    (powerGood s).nv.fusever = s.nv.fusever ∧ ((powerGood s).glb.state = .unplatted → (powerGood s).nv.fusever.toNat ≤ (powerGood s).sec.secver.toNat) := by
  cases good : s.pwr.pgood with
  | true => exact powerGood_runs h good ▸ romStart_floor (inBoot_romReady s)
  | false =>
    rw [powerGood_waits good]
    exact ⟨rfl, fun un => absurd (h.symm.trans un) (by decide)⟩

end
end Sys2Proof.Machine

section
open Sys2Proof Sys2Proof.Machine

/-- Settles O59: SECVER_COMMIT by its cases, the rise from the frame of a step, and the ROM by the floor that a slot's check sets. -/
theorem versionFusesOnlyRise : Obligations.VersionFusesOnlyRise := by
  refine ⟨fun p s ho idle => ?_, fun s t h => ?_, fun s h => completes_next rfl (powerGood_floor h)⟩
  · refine completes_secCommand rfl ho idle rfl ⟨fun busy => if_pos busy, fun free low => ?_, fun free above => ?_⟩
    · rw [free, if_neg Bool.false_ne_true, if_pos low]
      rfl
    · rw [free, if_neg Bool.false_ne_true, if_neg (Nat.not_le.2 above)]
      rfl
  · obtain ⟨L, k⟩ := kept_of_step h
    exact k.fusever

/-- The outcome of an alarm event, whichever sensor gave it (R413 to R415). -/
theorem alarm_outcome (s : State) (sensor : Nat) :
    let t := alarm sensor s
    t.sec.alarmLast = BitVec.ofNat 2 (s.alarmLevel sensor) ∧ t.sec.alarmSensor = setBit s.sec.alarmSensor sensor true ∧
      tget 0 t.sec.meas 7 = Config.sm3 (digestBytes (tget 0 s.sec.meas 7) ++ (toLE 1 sensor ++ toLE 1 (s.alarmLevel sensor))) ∧
      (s.alarmLevel sensor = 0 → t.sec.a0 = satInc s.sec.a0 ∧ t.glb = s.glb ∧ t.nv = s.nv) ∧
      (s.alarmLevel sensor ≠ 0 → t.sec.a1 = satInc s.sec.a1 ∧ t.sec.dbg = 0 ∧
        (s.glb.state = .inService ∨ s.glb.state = .quiesced →
          t.glb.state = .cordoned ∧ t.res.lease = none ∧ t.res.cause = BitVec.ofNat 4 (2 + s.alarmLevel sensor))) ∧
      (s.alarmLevel sensor = 2 → t.nv.erased = true ∧ t.nv.key0.key = none ∧ t.nv.key1.key = none) := by
  intro t
  have sec := alarm_spec sensor s
  refine ⟨congrArg (·.alarmLast) sec, congrArg (·.alarmSensor) sec, ?_, fun silent => ?_, fun loud => ⟨?_, ?_, fun live => ?_⟩, fun worst => ?_⟩
  · exact (congrArg (fun x => tget 0 x.meas 7) sec).trans (tget_tset_self _ _ _ _)
  · refine ⟨(congrArg (·.a0) sec).trans (if_pos silent), ?_, ?_⟩
    · rw [show t = alarmNoted sensor s from alarm_silent silent, alarmNoted_kept.e_glb]
    · rw [show t = alarmNoted sensor s from alarm_silent silent, alarmNoted_nv, silent]
      rfl
  · exact (congrArg (·.a1) sec).trans (if_neg loud)
  · exact (congrArg (·.dbg) sec).trans (if_neg loud)
  · have noted : (alarmNoted sensor s).glb.state = .inService ∨ (alarmNoted sensor s).glb.state = .quiesced := by rwa [alarmNoted_kept.e_glb]
    obtain ⟨glb, lease, cause, _⟩ := selfCordon_spec (c := 2 + s.alarmLevel sensor) noted
    rw [← alarm_cordons loud] at glb lease cause
    exact ⟨glb ▸ rfl, lease, cause⟩
  · have wiped : (alarmNoted sensor s).nv = (eraseKeys s).nv := by rw [alarmNoted_nv, if_pos worst]
    have loud : s.alarmLevel sensor ≠ 0 := by omega
    have keys : (t.nv.key0, t.nv.key1) = ((eraseKeys s).nv.key0, (eraseKeys s).nv.key1) := wiped ▸ alarm_keys sensor s
    obtain ⟨key0, key1⟩ := Prod.mk.inj keys
    refine ⟨?_, key0 ▸ rfl, key1 ▸ rfl⟩
    rw [show t = _ from alarm_cordons loud]
    exact selfCordon_kept.erased (by rw [wiped]; rfl)

/-- Settles O4: a mesh event and a supply glitch are the alarms of sensors 0 and 1. -/
theorem alarmEventsComplete : Obligations.AlarmEventsComplete := by
  intro s sensor which
  rcases which with rfl | rfl <;> exact completes_next rfl (alarm_outcome s _)

end

/-! SUPPORT. KEY_LOAD and debug unlocks (R412, R416, R417): their checks in order, past those that a good record passes. -/
namespace Sys2Proof.Machine
open Sys2Proof

section
variable {s : State} {b : List Byte}

/-- KEY_LOAD once its signature holds: the generation, the decryption, the slot in use, and the load. -/
def keyInstall (b : List Byte) (s : State) : State :=
  let slot := u8At b 4 == 1
  if u32At b 8 ≤ (s.keySlot slot).keygen.toNat then secStatus 5 s
  else
    match Config.sm2Decrypt s.nv.devid (slice b 32 112) with
    | none => secStatus 8 s
    | some k => if s.plt.sealed == some slot then secStatus 6 s else secStatus 0 (setKeySlot slot ⟨some k, BitVec.ofNat 32 (u32At b 8)⟩ s)

/-- A record in form, for this device, while the identity keys are usable: only its signature is still to check. -/
theorem keyLoad_formed (hb : b = rdMem s s.sec.addr.toNat 704) (form : keyRecordBad b = false) (keys : s.ikUsable = true)
    (mine : u64At b 16 = s.nv.devid.toNat) :
    keyLoad s = if keyRecordSigned s b = false then secStatus 3 (sigFail s) else keyInstall b (sigGood s) := by
  unfold keyLoad
  rw [← hb]
  dsimp only
  rw [form, keys, if_neg Bool.false_ne_true, if_neg (by decide), if_neg (by simp [mine])]
  cases keyRecordSigned s b <;> rfl

@[simp] theorem keySlot_setKeySlot_self (slot : Bool) (k : KeySlot) (s : State) : (setKeySlot slot k s).keySlot slot = k := by cases slot <;> rfl
@[simp] theorem keySlot_setKeySlot_not (slot : Bool) (k : KeySlot) (s : State) : (setKeySlot slot k s).keySlot (!slot) = s.keySlot (!slot) := by
  cases slot <;> rfl

/-- What KEY_LOAD leaves once its signature holds (R412). -/
theorem keyInstall_outcome (b : List Byte) (s : State) :
    if u32At b 8 ≤ (s.keySlot (u8At b 4 == 1)).keygen.toNat then (keyInstall b s).sec.status = 5 ∧ (keyInstall b s).nv = s.nv
    else
      match Config.sm2Decrypt s.nv.devid (slice b 32 112) with
      | none => (keyInstall b s).sec.status = 8 ∧ (keyInstall b s).nv = s.nv
      | some k =>
        if s.plt.sealed = some (u8At b 4 == 1) then (keyInstall b s).sec.status = 6 ∧ (keyInstall b s).nv = s.nv
        else (keyInstall b s).sec.status = 0 ∧ (keyInstall b s).keySlot (u8At b 4 == 1) = ⟨some k, BitVec.ofNat 32 (u32At b 8)⟩ ∧
          (keyInstall b s).keySlot (!(u8At b 4 == 1)) = s.keySlot (!(u8At b 4 == 1)) := by
  unfold keyInstall
  generalize (u8At b 4 == 1) = slot
  dsimp only
  split
  · exact ⟨rfl, rfl⟩
  · cases Config.sm2Decrypt s.nv.devid (slice b 32 112) with
    | none => exact ⟨rfl, rfl⟩
    | some k =>
      dsimp only
      by_cases used : s.plt.sealed = some slot
      · rw [if_pos used, if_pos (beq_iff_eq.2 used)]
        exact ⟨rfl, rfl⟩
      · rw [if_neg used, if_neg (by simpa using used)]
        exact ⟨rfl, keySlot_setKeySlot_self slot _ s, keySlot_setKeySlot_not slot _ s⟩

/-- A response in form to a challenge of the last 60 s: only its signature is still to check (R416). -/
theorem tryUnlock_formed {ch : Digest} {t0 : Nat} (hc : s.sec.chal = some (ch, t0)) (fresh : s.clk - t0 < 60000000000) (form : unlockBad b = false)
    (place : u8At b 0 = 2 → s.glb.state = .unplatted) :
    tryUnlock b s = match unlockLeaf (dropChal s) ch b with
      | some c => (unlockDebug (u8At b 0) c (dropChal s), 0)
      | none => (dbgFail (dropChal s), 3) := by
  have here : (u8At b 0 == 2 && (dropChal s).glb.state != .unplatted) = false := by
    by_cases two : u8At b 0 = 2
    · simp [dropChal, place two]
    · simp [two]
  unfold tryUnlock
  rw [hc]
  exact (if_neg (Nat.not_le.2 fresh : ¬ 60000000000 ≤ (dropChal s).clk - t0)).trans
    ((if_neg (by rw [form]; exact Bool.false_ne_true)).trans (if_neg (by rw [here]; exact Bool.false_ne_true)))

end
end Sys2Proof.Machine

section
open Sys2Proof Sys2Proof.Machine

/-- Settles O3: each command by its checks in order. -/
theorem securityCommandsComplete : Obligations.SecurityCommandsComplete := by
  refine ⟨fun p s b slot ho idle place keys hb hslot form mine => ?_, fun p s ho idle free above => ?_, fun p s ho idle => ?_,
    fun p s b ch t0 ho idle hc fresh hb form place => ?_, fun p s ho idle => ?_, fun dt s c t0 hc late => ?_⟩
  · refine completes_secCommand rfl ho idle (by rcases place with h | h | h | h <;> rw [h] <;> rfl) ?_
    subst hslot
    rw [keyLoad_formed hb form keys mine]
    by_cases unsigned : keyRecordSigned s b = false
    · rw [if_pos unsigned, if_pos unsigned]
      rfl
    · rw [if_neg unsigned, if_neg unsigned]
      exact keyInstall_outcome b (sigGood s)
  · refine completes_secCommand rfl ho idle rfl ?_
    rw [free, if_neg Bool.false_ne_true, if_neg (Nat.not_le.2 above)]
    rfl
  · exact completes_secCommand rfl ho idle rfl rfl
  · refine completes_secCommand rfl ho idle rfl ?_
    rw [← hb, tryUnlock_formed hc fresh form place]
    cases hl : unlockLeaf (dropChal s) ch b with
    | none => exact ⟨dbgFail_chal (dropChal s), fun _ => rfl, fun c some => absurd some (by simp)⟩
    | some c =>
      refine ⟨rfl, fun none => absurd none (by simp), fun d same => ?_⟩
      cases same
      exact ⟨rfl, rfl, rfl, rfl, tget_tset_self _ _ _ _⟩
  · exact completes_secCommand rfl ho idle rfl rfl
  · refine completes_next rfl ?_
    have here : (elapse dt s).sec.chal = some (c, t0) := by rw [elapse_kept.e_sec, hc]
    have gone : 60000000000 ≤ (elapse dt s).clk - t0 := by rwa [elapse_clk]
    rw [here]
    exact if_pos gone

end

/-! SUPPORT. The device lease (R352 to R355): when a command of RES_LEASE_CMD runs, and what an accepted GRANT, RENEW or RELEASE leaves of the lease. -/
namespace Sys2Proof.Machine
open Sys2Proof

section
variable {p : HPort} {i : Instr} {f : State → State} {s t u v : State} {P : State → Prop}

/-- The owner's command of RES_LEASE_CMD runs, after the check of the lease, while none is busy. -/
theorem completes_leaseCommand (run : exec i s = .next (leaseCommand p f s)) (ho : Owner p s) (idle : s.res.leaseBusy = false)
    (holds : checkLease s = s) (h : P (f s)) : Completes i s P := by
  refine completes_owner run ho ?_
  rw [idle, if_neg Bool.false_ne_true, holds]
  exact h

/-- A DEADLINE ahead by no more than 120 ms is neither LATE nor TOO_LONG. -/
theorem deadlineStatus_ok (soon : s.now < s.res.dl.toNat) (near : s.res.dl.toNat ≤ s.now + 120000000) : deadlineStatus s = 0 := by
  rw [deadlineStatus, if_neg (Nat.not_le.2 soon), if_neg (Nat.not_lt.2 near)]

/-- What shows of the lease: the epoch, the last command's status, the two limits and RES_LEASE_END. -/
structure LeaseIs (cur : Word) (status : BitVec 8) (l : Option (Nat × Nat)) (last : BitVec 64) (s : State) : Prop where
  cur : s.res.cur = cur
  status : s.res.leaseStatus = status
  lease : s.res.lease = l
  last : s.res.leaseEnd = last

theorem LeaseIs.of_same {cur : Word} {status : BitVec 8} {l : Option (Nat × Nat)} {last : BitVec 64} (h : LeaseIs cur status l last s) (same : SameBlk .lease s t) :
    LeaseIs cur status l last t := by
  obtain ⟨c, st, le, en⟩ := h
  simp only [SameBlk, Prod.mk.injEq] at same
  obtain ⟨e1, e2, e3, e4, _⟩ := same
  exact ⟨e2.trans c, e1.trans st, e3.trans le, e4.trans en⟩

/-- A GRANT past its checks, with the limits that it sets. -/
def granted (l : Nat × Nat) (s : State) : State :=
  let s := leaseStatus 0 { s with res.cur := s.res.epoch }
  let s := if s.glb.state == .cordoned then setDev .ready (clearJobs s) else s
  drainRestored (setDev .inService (setLease l s))

theorem granted_glb (l : Nat × Nat) (s : State) : (granted l s).glb = { s.glb with state := .inService } := by
  unfold granted
  dsimp only
  rw [drainRestored_kept.e_glb, setDev_state, setLease_kept.e_glb]
  split
  · rw [setDev_state, clearJobs_kept.e_glb]
    rfl
  · rfl

theorem granted_lease (l : Nat × Nat) (s : State) : LeaseIs s.res.epoch 0 (some l) (BitVec.ofNat 64 l.1) (granted l s) := by
  unfold granted
  dsimp only
  refine LeaseIs.of_same ?_ (drainRestored_kept.same .lease (by decide))
  refine LeaseIs.of_same ?_ (setDev_kept.same .lease (by decide))
  have start : LeaseIs s.res.epoch 0 s.res.lease s.res.leaseEnd (leaseStatus 0 { s with res.cur := s.res.epoch }) := ⟨rfl, rfl, rfl, rfl⟩
  generalize leaseStatus 0 { s with res.cur := s.res.epoch } = u at start
  have ready : LeaseIs s.res.epoch 0 s.res.lease s.res.leaseEnd (if u.glb.state == .cordoned then setDev .ready (clearJobs u) else u) := by
    split
    · exact (start.of_same (clearJobs_kept.same .lease (by decide))).of_same (setDev_kept.same .lease (by decide))
    · exact start
  exact ⟨ready.cur, ready.status, rfl, rfl⟩

/-- GRANT from READY, or from CORDONED once the cordon is done, with a new epoch and a DEADLINE in reach (R352). -/
theorem grant_accepted (ho : Owner p s) (idle : s.res.leaseBusy = false) (place : s.glb.state = .ready ∨ s.glb.state = .cordoned ∧ s.res.done = true)
    (newer : s.res.cur.toNat < s.res.epoch.toNat) (soon : s.now < s.res.dl.toNat) (near : s.res.dl.toNat ≤ s.now + 120000000) :
    Completes (.leaseGrant p) s (· = granted s.newLease s) := by
  have still : checkLease s = s := by rcases place with h | ⟨h, _⟩ <;> exact checkLease_idle (by simp [h]) (by simp [h])
  refine completes_leaseCommand rfl ho idle still ?_
  have open_ : (s.glb.state != .ready && !(s.glb.state == .cordoned && s.res.done)) = false := by
    rcases place with h | ⟨h, d⟩
    · rw [h]; rfl
    · rw [h, d]; rfl
  rw [open_, if_neg Bool.false_ne_true, if_neg (Nat.not_le.2 newer), deadlineStatus_ok soon near, if_neg (by decide)]
  rfl

end

/-- A held lease runs on while no limit is reached. -/
theorem leaseOver_iff {s : State} {dl timer : Nat} (h : s.res.lease = some (dl, timer)) : s.leaseOver = true ↔ dl ≤ s.now ∨ timer ≤ s.clk := by
  simp [State.leaseOver, h]

end Sys2Proof.Machine

section
open Sys2Proof Sys2Proof.Machine

/-- Settles O2: GRANT from both states is one lemma, RENEW keeps the longer lease, and RELEASE and the expiry are self-cordons. -/
theorem leaseCommandsComplete : Obligations.LeaseCommandsComplete := by
  refine ⟨fun p s ho idle place newer soon near => ?_, fun p s ho idle place done newer soon near => ?_, fun p s ho idle live runs same soon near => ?_,
    fun p s ho idle live runs same => ?_, fun dt s live ended => ?_, fun dt s runs => completes_next rfl (checkLease_running runs),
    fun s dl timer h => leaseOver_iff h, fun s => rfl⟩
  · obtain ⟨t, run, rfl⟩ := grant_accepted ho idle (.inl place) newer soon near
    obtain ⟨cur, status, lease, last⟩ := granted_lease s.newLease s
    exact ⟨_, run, granted_glb _ s, cur, status, lease, last⟩
  · obtain ⟨t, run, rfl⟩ := grant_accepted ho idle (.inr ⟨place, done⟩) newer soon near
    obtain ⟨cur, status, lease, last⟩ := granted_lease s.newLease s
    exact ⟨_, run, granted_glb _ s, cur, status, lease, last⟩
  · refine completes_leaseCommand rfl ho idle (checkLease_running runs) ?_
    have open_ : (s.glb.state != .inService && s.glb.state != .quiesced) = false := by rcases live with h | h <;> rw [h] <;> rfl
    rw [open_, if_neg Bool.false_ne_true, if_neg (by simpa using same), deadlineStatus_ok soon near, if_neg (by decide)]
    by_cases longer : s.leaseTime (s.res.lease.getD (0, 0)) < s.leaseTime s.newLease
    · simp only [if_pos longer]
      exact ⟨rfl, rfl, rfl, rfl, rfl⟩
    · simp only [if_neg longer]
      exact ⟨rfl, rfl, rfl, rfl, rfl⟩
  · refine completes_leaseCommand rfl ho idle (checkLease_running runs) ?_
    have open_ : (s.glb.state != .inService && s.glb.state != .quiesced) = false := by rcases live with h | h <;> rw [h] <;> rfl
    rw [open_, if_neg Bool.false_ne_true, if_neg (by simpa using same)]
    obtain ⟨glb, lease, cause, done, since, status⟩ := selfCordon_spec (c := 2) (s := leaseStatus 0 s) live
    exact ⟨glb, status, lease, cause, done, since⟩
  · have there : (elapse dt s).glb = s.glb := elapse_kept.e_glb
    obtain ⟨glb, lease, cause, done, since, _⟩ := selfCordon_spec (c := 1) (s := elapse dt s) (by rwa [there])
    refine completes_next (congrArg Host.Outcome.next (if_pos ended)) ⟨glb.trans (by rw [there]), lease, cause, done, since, ?_⟩
    rw [selfCordon_kept.e_clk, elapse_clk]

end

/-! SUPPORT. The module's supply and reset (R436 to R449): what a loss of supply and a start leave. -/
namespace Sys2Proof.Machine
open Sys2Proof

section
variable {s : State}

/-- The start condition of R436 holds without a trip: PGOOD goes high. -/
theorem tryStart_starts (hg : s.glb.state = .reset) (low : s.pwr.pgood = false) (on : s.pwr.supply = .on) (cool : s.pwr.coolOk = true) (trip : s.pwr.trip = .none) :
    tryStart s = { s with pwr.pgood := true, pwr.trip := .none, pwr.vinLost := false, pwr.cause := if s.pwr.vinLost then 0 else s.pwr.cause } :=
  if_pos ⟨hg, low, on, cool, .inl trip⟩

/-- A loss of supply resets the device; the cause is recorded where no trip holds one already (R443). -/
theorem supplyLoss_outcome (cause : Nat) (to_ : Supply) (fault : Bool) (on : s.pwr.supply = .on) :
    let t := supplyLoss cause to_ fault s
    t.glb.state = .reset ∧ t.pwr.pgood = false ∧ t.pwr.supply = to_ ∧ t.pwr.faultLand = (s.pwr.faultLand || fault) ∧
      (s.pwr.trip = .none → t.pwr.cause = BitVec.ofNat 4 cause) ∧ t.nv = s.nv ∧ t.ram = [] := by
  have run : supplyLoss cause to_ fault s =
      { deviceReset cause s with pwr.supply := to_, pwr.faultLand := (deviceReset cause s).pwr.faultLand || fault } := if_neg (by simp [on])
  rw [run]
  exact ⟨rfl, rfl, rfl, rfl, fun none => congrArg (BitVec.ofNat 4) (if_pos none), rfl, rfl⟩

/-- The input stage turns on with no trip: the device starts, and the lands are released. -/
theorem supplyOn_outcome (hg : s.glb.state = .reset) (low : s.pwr.pgood = false) (cool : s.pwr.coolOk = true) (trip : s.pwr.trip = .none) :
    let t := supplyOn s
    t.pwr.supply = .on ∧ t.pwr.pgood = true ∧ t.pwr.faultLand = false ∧ t.pwr.thermtrip = false := by
  have free : (s.pwr.trip == .hot || s.pwr.trip == .cooled) = false := by rw [trip]; rfl
  unfold supplyOn
  rw [free, tryStart_starts (s := { s with pwr.supply := .on, pwr.faultLand := _, pwr.thermtrip := _ }) hg low rfl cool trip]
  exact ⟨rfl, rfl, Bool.and_false _, Bool.and_false _⟩

/-- RESET_IN# resets a device that runs from its supply without a trip, and it starts again (R449). -/
theorem resetIn_restarts {ns : Nat} (long : 10000 ≤ ns) (on : s.pwr.supply = .on) (trip : s.pwr.trip = .none) :
    exec (.resetIn ns) s = .next (tryStart (deviceReset 1 (sendLeave s))) := by
  refine congrArg Host.Outcome.next ?_
  rw [if_neg (Nat.not_lt.2 long), trip]
  exact if_pos on

end
end Sys2Proof.Machine

section
open Sys2Proof Sys2Proof.Machine

/-- Settles O7: a loss of supply, a start, and RESET_IN# as reset and start; the rest are single writes of the module's record. -/
theorem moduleResetsComplete : Obligations.ModuleResetsComplete := by
  refine ⟨fun s on => ⟨?_, ?_, ?_⟩, fun s off trip hg low cool => ?_, fun s high trip hg low cool => ?_, fun s on low => ?_,
    fun ns s long on trip kept cool => ?_, fun s hg => ?_, fun s hg low on trip => ?_, fun p s ho => completes_owner rfl ho rfl⟩
  · obtain ⟨hg, low, supply, fault, rest⟩ := supplyLoss_outcome 3 .off false on
    exact completes_next rfl ⟨hg, low, supply, fault.trans (Bool.or_false _), rest⟩
  · obtain ⟨hg, low, supply, fault, rest⟩ := supplyLoss_outcome 4 .overvolt true on
    exact completes_next rfl ⟨hg, low, supply, fault.trans (Bool.or_true _), rest⟩
  · obtain ⟨hg, low, supply, fault, rest⟩ := supplyLoss_outcome 5 .overcurrent true on
    exact completes_next rfl ⟨hg, low, supply, fault.trans (Bool.or_true _), rest⟩
  · have run : exec .vinRise s = .next (supplyOn s) := by
      refine congrArg Host.Outcome.next ?_
      rw [off]
    exact completes_next run (supplyOn_outcome hg low cool trip)
  · obtain ⟨on, good, fault, _⟩ := supplyOn_outcome hg low cool trip
    exact completes_next (congrArg Host.Outcome.next (if_pos high)) ⟨on, good, fault⟩
  · have run : exec .vinLow s = .next (vinLow s) := congrArg Host.Outcome.next (if_pos on)
    exact completes_next run (if_neg (by simp [low]))
  · have pwr : (sendLeave s).pwr = s.pwr := sendLeave_kept.e_pwr
    have nv : (sendLeave s).nv = s.nv := sendLeave_kept.e_nv
    refine completes_next (resetIn_restarts long on trip) ?_
    have cause : (deviceReset 1 (sendLeave s)).pwr.cause = 1 := congrArg (BitVec.ofNat 4) (if_pos (by rwa [pwr]))
    have lost : (deviceReset 1 (sendLeave s)).pwr.vinLost = false := (congrArg Pwr.vinLost pwr).trans kept
    rw [tryStart_starts (s := deviceReset 1 (sendLeave s)) rfl rfl ((congrArg Pwr.supply pwr).trans on) ((congrArg Pwr.coolOk pwr).trans cool) ((congrArg Pwr.trip pwr).trans trip)]
    exact ⟨rfl, rfl, (if_neg (by simp [lost])).trans cause, nv, rfl, rfl, rfl⟩
  · exact completes_next (congrArg Host.Outcome.next (if_neg hg)) rfl
  · refine completes_next rfl ?_
    rw [tryStart_starts (s := { s with pwr.coolOk := true }) hg low on rfl trip]
    exact ⟨rfl, rfl⟩

end

/-! SUPPORT. The host ports (R382 to R391): an interrupt changes nothing of a port but its map and its pending bits, and what a grant, an end and a reset leave of the host lease. -/
namespace Sys2Proof.Machine
open Sys2Proof

section
variable {p q : HPort} {i : Instr} {f : State → State} {s t u : State} {P : State → Prop}

/-- A host port's write to HST runs behind PERST# and the boot alone. -/
theorem completes_portWrite (run : exec i s = .next (portWrite p f s)) (live : (s.host p).perst = false) (boots : s.booted = true) (h : P (f s)) :
    Completes i s P :=
  completes_next (run.trans (congrArg Host.Outcome.next (portWrite_up live boots))) h

/-! ### What an interrupt changes -/

/-- Of the ports, only interrupt maps and pending bits differ. -/
def Signalled (s t : State) : Prop := ∀ q, ∃ irq pba, t.host q = { s.host q with irq := irq, pba := pba }

theorem Signalled.refl (s : State) : Signalled s s := fun _ => ⟨_, _, rfl⟩

/-- Only the host lease or the rest of the state changed. -/
theorem signalled_of_ports (ha : t.hst.ha = s.hst.ha) (hb : t.hst.hb = s.hst.hb) : Signalled s t := by
  intro q
  cases q with
  | ha => exact ⟨s.hst.ha.irq, s.hst.ha.pba, ha⟩
  | hb => exact ⟨s.hst.hb.irq, s.hst.hb.pba, hb⟩

theorem Signalled.trans (h : Signalled s t) (k : Signalled t u) : Signalled s u := by
  intro q
  obtain ⟨i1, b1, e1⟩ := h q
  obtain ⟨i2, b2, e2⟩ := k q
  exact ⟨i2, b2, by rw [e2, e1]⟩

theorem signalled_setHost {irq : Tab IrqMap} {pba : Tab Bool} : Signalled s (s.setHost p { s.host p with irq := irq, pba := pba }) := by
  intro q
  by_cases h : q = p
  · subst h
    exact ⟨_, _, setHost_host_self s q _⟩
  · exact ⟨_, _, setHost_host_of_ne s _ h⟩

theorem signalled_sendVector (p : HPort) (v : Nat) (s : State) : Signalled s (sendVector p v s) := by
  unfold sendVector
  dsimp only
  split
  · exact signalled_setHost
  · exact fun q => ⟨_, _, rfl⟩

theorem signalled_fireOn (src : Nat) (p : HPort) (s : State) : Signalled s (fireOn src p s) := by
  unfold fireOn
  dsimp only
  split
  · exact Signalled.refl s
  · split
    · exact signalled_setHost
    · exact signalled_setHost.trans (signalled_sendVector _ _ _)

theorem sendVector_host_of_ne {v : Nat} (h : q ≠ p) : (sendVector p v s).host q = s.host q := by
  unfold sendVector
  dsimp only
  split
  · exact setHost_host_of_ne s _ h
  · rfl

/-- An interrupt of one port leaves the other alone. -/
theorem fireOn_host_of_ne {src : Nat} (h : q ≠ p) : (fireOn src p s).host q = s.host q := by
  unfold fireOn
  dsimp only
  split
  · rfl
  · split
    · exact setHost_host_of_ne s _ h
    · exact (sendVector_host_of_ne h).trans (setHost_host_of_ne s _ h)

/-! ### The host lease -/

/-- The host lease: its owner, its end and the claim that waits. -/
def State.hostLease (s : State) : Option HPort × Nat × Option Claim := (s.hst.owner, s.hst.leaseEnd, s.hst.pend)

theorem hostLease_fireOn (src : Nat) (p : HPort) (s : State) : (fireOn src p s).hostLease = s.hostLease := fireOn_kept.same .own (by decide)
theorem hostLease_modHost (p : HPort) (g : HostPort → HostPort) (s : State) : (s.modHost p g).hostLease = s.hostLease := State.modHost_kept.same .own (by decide)
theorem hostLease_hostTake (p : HPort) (n : Nat) (s : State) : (hostTake p n s).hostLease = s.hostLease := hostTake_kept.same .own (by decide)

theorem hostTake_status (p : HPort) (n : Nat) (s : State) : ((hostTake p n s).host p).takeStatus = BitVec.ofNat 8 n := by
  rw [hostTake, modHost_host_self]

theorem hostLease_grantHost (p : HPort) (s : State) : (grantHost p s).hostLease = (some p, s.clk + 50000000, none) := by
  unfold grantHost
  dsimp only
  split
  · rfl
  · split
    · rw [hostLease_fireOn, hostLease_fireOn]
      rfl
    · rw [hostLease_fireOn]
      rfl

theorem signalled_grantHost (p : HPort) (s : State) : Signalled s (grantHost p s) := by
  unfold grantHost
  dsimp only
  split
  · exact signalled_of_ports rfl rfl
  · split
    · refine Signalled.trans (Signalled.trans ?_ (signalled_fireOn 14 p _)) (signalled_fireOn 14 _ _)
      exact signalled_of_ports rfl rfl
    · exact Signalled.trans (signalled_of_ports rfl rfl) (signalled_fireOn 14 p _)

/-- The lease ends with the claim that waits granted, and else without an owner (R391). -/
theorem hostLease_endHostLease (h : s.hst.owner = some q) :
    (endHostLease s).hostLease = s.hst.pend.elim (none, 0, none) fun c => (some c.port, s.clk + 50000000, none) := by
  unfold endHostLease
  rw [h]
  cases hp : s.hst.pend with
  | some c => exact hostLease_grantHost c.port s
  | none => exact (hostLease_fireOn 14 q _).trans (congrArg (fun c => (none, 0, c)) hp)

theorem endHostLease_idle (h : s.hst.owner = none) : endHostLease s = s := by
  rw [endHostLease, h]

theorem signalled_endHostLease (s : State) : Signalled s (endHostLease s) := by
  unfold endHostLease
  split
  · exact Signalled.refl s
  · split
    · exact signalled_grantHost _ s
    · exact Signalled.trans (signalled_of_ports rfl rfl) (signalled_fireOn 14 _ _)

/-- A claim while another port owns waits, with a fresh nonce that its port can read (R391). -/
theorem pendClaim_outcome (h : q ≠ p) (other : s.hst.owner = some q) :
    let t := pendClaim p q s
    t.hst.owner = some q ∧ t.hst.leaseEnd = s.hst.leaseEnd ∧ (t.host p).takeStatus = 1 ∧
      ∃ c, t.hst.pend = some c ∧ c.port = p ∧ c.since = s.clk ∧ (t.host p).nonce = c.nonce ∧
        c.nonce = BitVec.ofNat 16 (Config.freeWord s.fresh).toNat := by
  intro t
  let nonce : Half := BitVec.ofNat 16 (Config.freeWord s.fresh).toNat
  let w := hostTake p 1 (State.modHost { s with fresh := s.fresh + 1, hst.pend := some ⟨p, nonce, s.clk⟩ } p (fun h => { h with nonce := nonce }))
  have lease : t.hostLease = (some q, s.hst.leaseEnd, some ⟨p, nonce, s.clk⟩) := by
    calc t.hostLease = w.hostLease := hostLease_fireOn 14 q w
      _ = (s.hst.owner, s.hst.leaseEnd, some ⟨p, nonce, s.clk⟩) := (hostLease_hostTake p 1 _).trans (hostLease_modHost p _ _)
      _ = _ := by rw [other]
  have port : t.host p = w.host p := fireOn_host_of_ne (Ne.symm h)
  refine ⟨congrArg (·.1) lease, congrArg (·.2.1) lease, ?_, ⟨p, nonce, s.clk⟩, congrArg (·.2.2) lease, rfl, rfl, ?_, rfl⟩
  · rw [port]
    exact hostTake_status p 1 _
  · rw [port]
    simp only [w, hostTake, modHost_host_self]

end
end Sys2Proof.Machine

section
open Sys2Proof Sys2Proof.Machine

/-- Settles O11: the own block of a grant, of an end and of a pending claim; the status is the last thing each command writes. -/
theorem hostLeaseCommandsComplete : Obligations.HostLeaseCommandsComplete := by
  refine ⟨fun p s live boots free => ?_, fun p s i ho which => ?_, fun p q s live boots other ne => ?_, fun p s ho => ?_,
    fun p nonce since s live boots stranger claim soon => ?_, fun dt q s held late => ?_, fun p s i ⟨live, boots, stranger⟩ which => ?_,
    fun p nonce s ⟨live, boots, stranger⟩ bad => ?_⟩
  · refine completes_portWrite rfl live boots ?_
    rw [free]
    have own := (hostLease_hostTake p 0 (grantHost p s)).trans (hostLease_grantHost p s)
    simp only [State.hostLease, Prod.mk.injEq] at own
    obtain ⟨owner, last, _⟩ := own
    exact ⟨owner, last, hostTake_status p 0 _⟩
  · obtain ⟨live, boots, owns⟩ := ho
    have own := hostLease_hostTake p 0 (renewHost s)
    simp only [State.hostLease, Prod.mk.injEq] at own
    obtain ⟨owner, last, pend⟩ := own
    have outcome := And.intro (owner.trans owns) (And.intro last (And.intro pend (hostTake_status p 0 (renewHost s))))
    rcases which with rfl | rfl
    · refine completes_portWrite rfl live boots ?_
      rw [owns]
      dsimp only
      rw [if_pos rfl]
      exact outcome
    · refine completes_portWrite rfl live boots ?_
      rw [if_pos owns]
      exact outcome
  · refine completes_portWrite rfl live boots ?_
    rw [other]
    dsimp only
    rw [if_neg ne]
    exact pendClaim_outcome ne other
  · obtain ⟨live, boots, owns⟩ := ho
    refine completes_portWrite rfl live boots ?_
    rw [if_pos owns]
    have own := (hostLease_hostTake p 0 (endHostLease s)).trans (hostLease_endHostLease owns)
    refine ⟨fun none => ?_, fun c some => ?_, ?_, hostTake_status p 0 _⟩
    · rw [none] at own
      exact congrArg (·.1) own
    · rw [some] at own
      exact ⟨congrArg (·.1) own, congrArg (·.2.1) own⟩
    · cases hp : s.hst.pend with
      | none => rw [hp] at own; exact congrArg (·.2.2) own
      | some c => rw [hp] at own; exact congrArg (·.2.2) own
  · refine completes_portWrite rfl live boots ?_
    rw [if_neg stranger, claim]
    dsimp only
    rw [if_pos ⟨rfl, rfl, soon⟩]
    have own := (hostLease_hostTake p 0 (grantHost p s)).trans (hostLease_grantHost p s)
    exact ⟨congrArg (·.1) own, congrArg (·.2.1) own, congrArg (·.2.2) own, hostTake_status p 0 _⟩
  · have here : (elapse dt s).hst = s.hst := elapse_kept.e_hst
    have run : exec (.hostLeaseLapse dt) s = .next (endHostLease (elapse dt s)) := by
      refine congrArg Host.Outcome.next (if_pos ?_)
      rw [here, held, elapse_clk, decide_eq_true late]
      rfl
    have own := hostLease_endHostLease (s := elapse dt s) (q := q) (by rw [here, held])
    rw [here, elapse_clk] at own
    refine completes_next run ⟨fun none => ?_, fun c some => ?_⟩
    · rw [none] at own
      exact congrArg (·.1) own
    · rw [some] at own
      exact ⟨congrArg (·.1) own, congrArg (·.2.1) own⟩
  · rcases which with rfl | rfl <;> exact completes_portWrite rfl live boots (if_neg stranger)
  · refine completes_portWrite rfl live boots ?_
    rw [if_neg stranger]
    cases hp : s.hst.pend with
    | none => rfl
    | some c =>
      refine if_neg fun ⟨mine, same, soon⟩ => ?_
      exact absurd (bad c hp mine same) (Nat.not_lt.2 soon)

end

/-! SUPPORT. PERST#, FLR and the BAR2 window (R382 to R390): what a reset of a port leaves of it and of the host lease. -/
namespace Sys2Proof.Machine
open Sys2Proof

section
variable {p q : HPort} {s t : State}

/-- A port as a reset leaves it, its link and configuration aside: no window, no interrupts, no channels. -/
def portCleared (p : HPort) (s : State) : State := s.modHost p (fun h => { h with win := 0, irq := [], msix := [], pba := [], dma := [] })
/-- The port's pending claim is withdrawn. -/
def claimDropped (p : HPort) (s : State) : State :=
  match s.hst.pend with
  | some c => if c.port = p then { s with hst.pend := none } else s
  | none => s

theorem resetPort_parts (p : HPort) (s : State) : resetPort p s =
    let u := claimDropped p (portCleared p s)
    if u.hst.owner = some p then endHostLease u else u := rfl

theorem claimDropped_pend (p : HPort) (s : State) : ∀ c, (claimDropped p s).hst.pend = some c → c.port ≠ p := by
  intro c hc
  unfold claimDropped at hc
  split at hc
  · next d hd =>
    split at hc
    · cases hc
    · next ne =>
      rw [hd] at hc
      cases hc
      exact ne
  · next none =>
    rw [none] at hc
    cases hc

theorem claimDropped_host (p q : HPort) (s : State) : (claimDropped p s).host q = s.host q := by
  unfold claimDropped
  split
  · split
    · cases q <;> rfl
    · rfl
  · rfl

/-- A reset ends the port's lease and withdraws its claim (R384). -/
theorem resetPort_lease (p : HPort) (s : State) : (resetPort p s).hst.owner ≠ some p ∧ ∀ c, (resetPort p s).hst.pend = some c → c.port ≠ p := by
  rw [resetPort_parts]
  have dropped := claimDropped_pend p (portCleared p s)
  generalize claimDropped p (portCleared p s) = u at dropped
  dsimp only
  split
  · next owns =>
    have own := hostLease_endHostLease owns
    cases hp : u.hst.pend with
    | none =>
      rw [hp] at own
      refine ⟨?_, fun c hc => absurd ((congrArg (·.2.2) own).symm.trans hc) (by simp)⟩
      rw [show (endHostLease u).hst.owner = none from congrArg (·.1) own]
      simp
    | some c =>
      rw [hp] at own
      refine ⟨?_, fun d hd => absurd ((congrArg (·.2.2) own).symm.trans hd) (by simp)⟩
      rw [show (endHostLease u).hst.owner = some c.port from congrArg (·.1) own]
      exact fun same => dropped c hp (Option.some.inj same)
  · next free => exact ⟨free, dropped⟩

/-- The end of a lease leaves the reset port reset. -/
theorem resetPort_port (p : HPort) (s : State) : ∃ irq pba, (resetPort p s).host p = { s.host p with win := 0, irq := irq, msix := [], pba := pba, dma := [] } := by
  rw [resetPort_parts]
  have cleared : (claimDropped p (portCleared p s)).host p = { s.host p with win := 0, irq := [], msix := [], pba := [], dma := [] } := by
    rw [claimDropped_host, portCleared, modHost_host_self]
  generalize claimDropped p (portCleared p s) = u at cleared
  dsimp only
  split
  · obtain ⟨irq, pba, e⟩ := signalled_endHostLease u p
    exact ⟨irq, pba, e.trans (by rw [cleared])⟩
  · exact ⟨[], [], cleared⟩

theorem hst_modHost_owner (p : HPort) (f : HostPort → HostPort) (s : State) : (s.modHost p f).hst.owner = s.hst.owner ∧ (s.modHost p f).hst.pend = s.hst.pend :=
  ⟨congrArg (·.1) (hostLease_modHost p f s), congrArg (·.2.2) (hostLease_modHost p f s)⟩

/-- A byte of memory after a write: the byte written, where the write reaches it inside the capacity. -/
theorem wrMem_byte (s : State) (a : Nat) (d : List Byte) (b : Nat) :
    tget 0 (wrMem s a d).ram b = if a ≤ b ∧ b < a + d.length ∧ b < s.capacity then d.getD (b - a) 0 else tget 0 s.ram b := by
  rw [wrMem_tget, List.length_take]
  by_cases h : a ≤ b ∧ b < a + d.length ∧ b < s.capacity
  · obtain ⟨lo, hi, cap⟩ := h
    rw [if_pos ⟨lo, by omega⟩, if_pos ⟨lo, hi, cap⟩, List.getElem?_take_of_lt (by omega), List.getD_eq_getElem?_getD]
  · rw [if_neg h, if_neg (by omega)]

end
end Sys2Proof.Machine

section
open Sys2Proof Sys2Proof.Machine

/-- Settles O12: PERST# and FLR are a reset of the port; the window reads and writes memory behind the count of what lies beyond it. -/
theorem hostPortsComplete : Obligations.HostPortsComplete := by
  refine ⟨fun p s => ?_, fun p link mps mrrs s => ?_, fun p s live => ?_, fun p s live => ?_, fun p off len a s live boots ha => ?_,
    fun p off len data a s ho ha => ?_⟩
  · obtain ⟨irq, pba, port⟩ := resetPort_port p s
    obtain ⟨owner, claim⟩ := resetPort_lease p s
    refine completes_next rfl ⟨?_, ?_, ?_, ?_, ?_, ?_, ?_, ?_, ?_, ?_⟩
    · rw [modHost_host_self]
    · rw [modHost_host_self]
    · rw [modHost_host_self, port]
    · rw [modHost_host_self]
    · rw [modHost_host_self, port]
    · rwa [(hst_modHost_owner p _ _).1]
    · rwa [(hst_modHost_owner p _ _).2]
    · rw [State.modHost_kept.e_glb, resetPort_kept.e_glb]
    · rw [State.modHost_kept.e_res, resetPort_kept.e_res]
    · rw [State.modHost_kept.e_ram, resetPort_kept.e_ram]
  · refine completes_next rfl ?_
    unfold answerConfig
    rw [State.modHost_kept.e_glb, modHost_host_self]
    have others (q : HPort) (ne : q ≠ p) := modHost_host_of_ne s (fun h => { h with
      perst := false, speed := link.speed, width := link.width, flit := link.flit, cfg := { h.cfg with mps := mps, mrrs := mrrs } }) ne
    by_cases off : s.glb.state = .reset
    · rw [if_pos (beq_iff_eq.2 off), if_pos off]
      exact ⟨modHost_host_self s p _, others, (hst_modHost_owner p _ s).1, State.modHost_kept.e_glb, State.modHost_kept.e_res, State.modHost_kept.e_ram,
        State.modHost_kept.e_out⟩
    · rw [if_neg (by simpa using off), if_neg off]
      refine ⟨modHost_host_self s p _, others, (hst_modHost_owner p _ s).1, State.modHost_kept.e_glb, State.modHost_kept.e_res, State.modHost_kept.e_ram,
        congrArg (_ :: ·) State.modHost_kept.e_out⟩
  · have run : exec (.flr p) s = .next (resetPort p s) := congrArg Host.Outcome.next (if_neg (by simp [live]))
    obtain ⟨irq, pba, port⟩ := resetPort_port p s
    obtain ⟨owner, claim⟩ := resetPort_lease p s
    refine completes_next run ⟨?_, ?_, ?_, ?_, owner, claim, resetPort_kept.e_glb, resetPort_kept.e_res, resetPort_kept.e_ram⟩
    · rw [port, live]
    · rw [port]
    · rw [port]
    · rw [port]
  · exact ⟨completes_next rfl (if_neg (by simp [live])), completes_next rfl (if_neg (by simp [live]))⟩
  · have reads : ∃ u, exec (.bar2Access p off len none) s = .next (emit (.hostRead p (some (rdMem s a len))) u) ∧ u.ram = s.ram := by
      refine ⟨if s.capacity < a + len then count (evNo 2 0x001 (portIdx p)) s else s, ?_, ?_⟩
      · subst ha
        exact congrArg Host.Outcome.next ((if_neg (by simp [live])).trans (if_pos boots))
      · split
        · exact count_kept.e_ram
        · rfl
    obtain ⟨u, run, ram⟩ := reads
    exact completes_next run ⟨rfl, ram⟩
  · obtain ⟨live, boots, owns⟩ := ho
    have counted : ∃ u, exec (.bar2Access p off len (some data)) s = .next (wrMem u a data) ∧ u.ram = s.ram ∧ u.capacity = s.capacity := by
      refine ⟨if s.capacity < a + data.length then count (evNo 2 0x001 (portIdx p)) s else s, ?_, ?_, ?_⟩
      · subst ha
        exact congrArg Host.Outcome.next ((if_neg (by simp [live])).trans (hostWrite_owner live boots owns))
      · split
        · exact count_kept.e_ram
        · rfl
      · split
        · exact congrArg (fun n : Nv => if n.mem128 then _ else _) count_kept.e_nv
        · rfl
    obtain ⟨u, run, ram, cap⟩ := counted
    exact completes_next run fun b => by rw [wrMem_byte, ram, cap]

end

/-! SUPPORT. What a self-cordon, an alarm and a failed signature leave of the flash (R355, R413): a cordoned device sends no notices of its flyovers, so no lookup ages its tables. -/
namespace Sys2Proof.Machine
open Sys2Proof

section
variable {s : State} {num reason opcode instant c sensor : Nat} {down : Bool} {sel : Fly → Bool}

theorem sendControl_cordoned (h : s.glb.state = .cordoned) (d : Nat) (dst : Word) (arg ctx job : Nat) : sendControl d dst opcode arg ctx job instant s = s :=
  if_pos (by rw [h]; rfl)

theorem flyNotice_cordoned (h : s.glb.state = .cordoned) : flyNotice opcode num instant s = s := by
  unfold flyNotice
  dsimp only
  rw [sendControl_cordoned h, sendControl_cordoned h]

/-- A flyover of a cordoned device ends without a notice (R347). -/
theorem flyEnd_cordoned (h : s.glb.state = .cordoned) : Kept [.hst, .lnk, .srd, .svc, .tmb, .opt, .out] s (flyEnd num reason down s) := by
  unfold flyEnd
  rw [flyNotice_cordoned h]
  dsimp only
  repeat' first
    | with_reducible exact Kept.refl _
    | with_reducible apply Kept.step State.modFly_kept
    | with_reducible apply Kept.step State.modPath_kept
    | with_reducible apply Kept.step flyRelease_kept
    | with_reducible apply Kept.step settleFlys_kept
    | with_reducible apply Kept.step flyLanesBack_kept
    | with_reducible apply Kept.step raiseOpt_kept
    | with_reducible apply Kept.ite
    | decide

theorem flyEndAll_cordoned (h : s.glb.state = .cordoned) : (flyEndAll sel reason s).nv = s.nv := by
  have both : (flyEndAll sel reason s).glb.state = .cordoned ∧ (flyEndAll sel reason s).nv = s.nv :=
    forEach_invariant (P := fun t => t.glb.state = .cordoned ∧ t.nv = s.nv)
      (fun n _ t k => ⟨by rw [(flyEnd_cordoned k.1).e_glb, k.1], by rw [(flyEnd_cordoned k.1).e_nv, k.2]⟩) ⟨h, rfl⟩
  exact both.2

/-- A self-cordon leaves the fuses, the keys and the flash (R355). -/
theorem selfCordon_nv (c : Nat) (s : State) : (selfCordon c s).nv = s.nv := by
  unfold selfCordon
  split
  · rfl
  · have down : Kept [.plt, .hst, .lnk, .fwd, .swc, .tmb, .lnd, .mil, .mem, .res, .tly, .ram, .out] (setDev .cordoned (cordonRecord c s))
        (dropAll (abortAllFences (abortSelfTest (cordonReplat (setDev .cordoned (cordonRecord c s)))))) :=
      Kept.step dropAll_kept (by decide) (Kept.step abortAllFences_kept (by decide) (Kept.step abortSelfTest_kept (by decide) (Kept.mono cordonReplat_kept (by decide))))
    have cordoned : (dropAll (abortAllFences (abortSelfTest (cordonReplat (setDev .cordoned (cordonRecord c s)))))).glb.state = .cordoned := by
      rw [down.e_glb, setDev_state]
    dsimp only
    rw [fire_nv]
    dsimp only
    rw [flyEndAll_cordoned cordoned, down.e_nv, setDev_kept.e_nv, cordonRecord_kept.e_nv]

/-- What an alarm does to the flash and the keys, its erasure does. -/
theorem alarm_nv (sensor : Nat) (s : State) : (alarm sensor s).nv = if s.alarmLevel sensor = 2 then (eraseKeys s).nv else s.nv := by
  by_cases h : s.alarmLevel sensor = 0
  · rw [alarm_silent h, alarmNoted_nv]
  · rw [alarm_cordons h, selfCordon_nv, alarmNoted_nv]

/-- A failed signature leaves the firmware slots and the order in which they are tried. -/
theorem sigFail_fw (s : State) : (sigFail s).nv.fw0 = s.nv.fw0 ∧ (sigFail s).nv.fw1 = s.nv.fw1 ∧ (sigFail s).nv.fwFirst = s.nv.fwFirst := by
  unfold sigFail
  dsimp only
  split
  · rw [alarm_nv]
    split <;> exact ⟨rfl, rfl, rfl⟩
  · exact ⟨rfl, rfl, rfl⟩

end
end Sys2Proof.Machine

/-! SUPPORT. The mailbox (R396, R409): what a reader finds once a command has ended. -/
namespace Sys2Proof.Machine
open Sys2Proof

section
variable {p : HPort} {i : Instr} {f : State → State} {s u : State} {P : State → Prop}

/-- A mailbox command that ends with a result: the result, and the flash as the command left it. -/
theorem mbResult_reads (code out : Nat) (u : State) :
    (fire 13 (mbResult code out u)).hst.mbResult = BitVec.ofNat 8 code ∧ (fire 13 (mbResult code out u)).nv = u.nv :=
  ⟨(fire_mb 13).1, fire_nv 13 _⟩

/-- A mailbox command whose meaning in this state is a result and a state of the flash. -/
theorem completes_mbResult {code out : Nat} (run : exec i s = .next (mbCommand p f s)) (ho : Owner p s) (idle : s.hst.mbBusy = false)
    (ends : f s = mbResult code out u) (h : ∀ t : State, t.hst.mbResult = BitVec.ofNat 8 code → t.nv = u.nv → P t) : Completes i s P := by
  refine completes_mailbox run ho idle ?_
  rw [ends]
  exact h _ (mbResult_reads code out u).1 (mbResult_reads code out u).2

theorem fwInfo_length (s : State) :
    (toLE 4 s.sec.fwver.toNat ++ toLE 1 (b2n s.sec.bootSlot) ++ zeros 27 ++ digestBytes s.sec.fwDigest).length = 64 := by
  simp only [List.length_append, toLE_length, digestBytes, zeros, List.length_replicate]

/-- An answer's bytes stand in the buffer, one by one. -/
theorem mbAnswer_byte {b : List Byte} (room : s.hst.mbBuf.toNat + b.length ≤ s.capacity) {k : Nat} (hk : k < b.length) :
    tget 0 (fire 13 (mbAnswer b s)).ram (s.hst.mbBuf.toNat + k) = b.getD k 0 := by
  have ram : (fire 13 (mbAnswer b s)).ram = (wrMem s s.hst.mbBuf.toNat b).ram := fire_kept.e_ram
  rw [ram, wrMem_byte, if_pos ⟨Nat.le_add_right _ _, by omega, by omega⟩, Nat.add_sub_cancel_left]

/-! ### The commands -/

/-- A firmware slot takes an image. -/
def fwSlot (slot : Bool) (b : List Byte) (s : State) : State := if slot then { s with nv.fw1 := b } else { s with nv.fw0 := b }

theorem fwSlot_fwFirst (slot : Bool) (b : List Byte) (s : State) : (fwSlot slot b s).nv.fwFirst = s.nv.fwFirst := by cases slot <;> rfl

theorem flashRead_answers (h : Owner p s) (idle : s.hst.mbBusy = false) (region : s.hst.arg0.toNat ≤ 3) (part : s.hst.arg0 = 2 → s.hst.arg1.toNat ≤ 15)
    (inside : s.hst.arg2.toNat + s.hst.arg3.toNat ≤ 4194304) {g : Nat → Byte} (stored : s.flashRegion s.hst.arg0.toNat s.hst.arg1.toNat = some g) :
    Completes (.flashRead p) s (· = fire 13 (mbAnswer ((rangeFrom s.hst.arg2.toNat s.hst.arg3.toNat).map g) s)) := by
  refine completes_mailbox rfl h idle ?_
  have open_ : ¬ (decide (3 < s.hst.arg0.toNat) || s.hst.arg0.toNat == 2 && decide (15 < s.hst.arg1.toNat) ||
      decide (4194304 < s.hst.arg2.toNat + s.hst.arg3.toNat)) = true := by
    have two : s.hst.arg0.toNat = 2 → s.hst.arg1.toNat ≤ 15 := fun e => part (BitVec.eq_of_toNat_eq e)
    simp only [Bool.or_eq_true, Bool.and_eq_true, decide_eq_true_eq, beq_iff_eq]
    rintro ((h3 | ⟨h2, h15⟩) | h4)
    · omega
    · have := two h2
      omega
    · omega
  dsimp only
  rw [if_neg open_, stored]

theorem mbLen_ok (some_ : s.hst.arg3 ≠ 0) (inside : s.hst.arg3.toNat ≤ 4194304) : s.mbLenBad = false := by
  rw [State.mbLenBad, beq_false_of_ne some_, decide_eq_false (Nat.not_lt.2 inside)]
  rfl

theorem pointBytes_length (k : BitVec 512) : (pointBytes k).length = 64 := by simp only [pointBytes, toBE, List.length_reverse, toLE_length]

theorem digestBytes_length (d : Digest) : (digestBytes d).length = 32 := toLE_length 32 _

/-- The eight measurement registers in a row. -/
theorem meas_length (s : State) : ((List.range 8).flatMap (fun m => digestBytes (tget 0 s.sec.meas m))).length = 256 := by
  simp only [List.length_flatMap, digestBytes_length]
  rfl

/-- The attestation report has 768 bytes, its signature aside (R409). -/
theorem reportBody_length (s : State) : (reportBody s).length = 768 := by
  unfold reportBody
  dsimp only
  cases s.plt.active <;>
    simp only [List.length_append, toLE_length, meas_length, digestBytes_length, zeros, List.length_replicate, pointBytes_length]

end
end Sys2Proof.Machine

section
open Sys2Proof Sys2Proof.Machine

/-- Settles O14: each command's checks pass, and it ends with an answer or a result. -/
theorem mailboxCommandsComplete : Obligations.MailboxCommandsComplete := by
  refine ⟨fun p s ho idle => ?_, fun p s g ho idle region part inside stored => ?_, fun p ok b s ho idle slot some_ inside hb magic len => ?_,
    fun p ok s ho idle slot => ?_, fun p ok s ho idle dist empty => ?_, fun p b s ho idle dist some_ inside hb isPart mine => ?_,
    fun p ok b s ho idle hb => ?_, fun p b s ho idle keys hb => ?_⟩
  · refine completes_mailbox rfl ho idle ?_
    obtain ⟨result, out, _, read⟩ := mbAnswer_reads (s := s) (toLE 4 s.sec.fwver.toNat ++ toLE 1 (b2n s.sec.bootSlot) ++ zeros 27 ++ digestBytes s.sec.fwDigest)
    rw [fwInfo_length] at out read
    exact ⟨result, out, read⟩
  · obtain ⟨t, run, rfl⟩ := flashRead_answers ho idle region part inside stored
    have len : ((rangeFrom s.hst.arg2.toNat s.hst.arg3.toNat).map g).length = s.hst.arg3.toNat := by simp [rangeFrom]
    obtain ⟨result, out, nv, _⟩ := mbAnswer_reads (s := s) ((rangeFrom s.hst.arg2.toNat s.hst.arg3.toNat).map g)
    rw [len] at out
    refine ⟨_, run, result, out, nv, fun room k hk => ?_⟩
    rw [mbAnswer_byte (by rwa [len]) (by rwa [len])]
    simp [rangeFrom, hk, Nat.add_comm]
  · have bytes : s.mbBytes = b := hb.symm
    have head : (u32At b 0 != 0x504C4154 || u32At b 16 != b.length) = false := by
      rw [magic, len, hb, length_rdMem]
      simp
    have open_ : (decide (1 < s.hst.arg0.toNat) || s.mbLenBad) = false := by
      rw [mbLen_ok some_ inside, decide_eq_false (Nat.not_lt.2 slot)]
      rfl
    have ends (u : State) : (if decide (1 < s.hst.arg0.toNat) || s.mbLenBad then mbResult 2 0 s
        else if u32At b 0 != 0x504C4154 || u32At b 16 != b.length then mbResult 4 0 s else u) = u := by
      rw [open_, head, if_neg Bool.false_ne_true, if_neg Bool.false_ne_true]
    cases ok with
    | false =>
      refine completes_mbResult (code := 6) (out := 0) (u := setPlatSlot (s.hst.arg0 == 1) [] s) rfl ho idle ?_ fun t result _ => result
      dsimp only
      rw [bytes, ends]
      rfl
    | true =>
      refine completes_mbResult (code := 0) (out := 0) (u := setPlatSlot (s.hst.arg0 == 1) b s) rfl ho idle ?_ fun t result nv => ⟨result, nv.trans ?_⟩
      · dsimp only
        rw [bytes, ends]
        rfl
      · by_cases one : s.hst.arg0 = 1
        · rw [if_pos one, beq_iff_eq.2 one]
          rfl
        · rw [if_neg one, beq_false_of_ne one]
          rfl
  · cases ok with
    | false => exact completes_mbResult (code := 6) (out := 0) (u := s) rfl ho idle (if_neg (Nat.not_lt.2 slot)) fun t result nv => ⟨result, nv⟩
    | true =>
      exact completes_mbResult (code := 0) (out := 0) (u := { s with nv.active := s.hst.arg0 == 1 }) rfl ho idle (if_neg (Nat.not_lt.2 slot))
        fun t result nv => ⟨result, nv⟩
  · have bytes : s.mbBytes = [] := by rw [State.mbBytes, empty]; rfl
    have open_ : (decide (15 < s.hst.arg0.toNat) || decide (4194304 < s.hst.arg3.toNat)) = false := by
      rw [empty, decide_eq_false (Nat.not_lt.2 dist)]
      rfl
    have none_ : (s.hst.arg3 != 0 && (!isPartial [] || platDistrict [] != s.hst.arg0.toNat)) = false := by rw [empty]; rfl
    have put : tget [] (tset [] s.nv.partials s.hst.arg0.toNat []) s.hst.arg0.toNat = [] := tget_tset_self _ _ _ _
    refine completes_mbResult (code := if ok = false then 6 else 0) (out := 0) (u := { s with nv.partials := tset [] s.nv.partials s.hst.arg0.toNat [] }) rfl ho idle ?_
      fun t result nv => ⟨?_, by rw [nv, put]⟩
    · dsimp only
      rw [bytes, open_, none_]
      cases ok <;> rfl
    · rw [result]
      cases ok <;> rfl
  · have bytes : s.mbBytes = b := hb.symm
    have open_ : (decide (15 < s.hst.arg0.toNat) || decide (4194304 < s.hst.arg3.toNat)) = false := by
      rw [decide_eq_false (Nat.not_lt.2 inside), decide_eq_false (Nat.not_lt.2 dist)]
      rfl
    have form : (s.hst.arg3 != 0 && (!isPartial b || platDistrict b != s.hst.arg0.toNat)) = false := by rw [isPart, mine]; simp
    refine completes_mbResult (code := 0) (out := 0) (u := { s with nv.partials := tset [] s.nv.partials s.hst.arg0.toNat b }) rfl ho idle ?_
      fun t result nv => ⟨result, ?_, fun d ne => ?_⟩
    · dsimp only
      rw [bytes, open_, form]
      rfl
    · rw [nv]
      exact tget_tset_self _ _ _ _
    · rw [nv]
      exact tget_tset_of_ne _ _ _ ne
  · have bytes : s.mbBytes = b := hb.symm
    by_cases good : fwCheck s b = 0 ∧ s.nv.fusever.toNat ≤ u8At b 9
    · simp only [if_pos good]
      obtain ⟨passes, above⟩ := good
      have open_ : (fwCheck s b != 0 || decide (u8At b 9 < s.nv.fusever.toNat)) = false := by
        rw [passes, decide_eq_false (Nat.not_lt.2 above)]
        rfl
      cases ok with
      | false =>
        refine completes_mbResult (code := 6) (out := 0) (u := fwSlot (!s.sec.bootSlot) [] (sigGood s)) rfl ho idle ?_ fun t result nv =>
          ⟨result, by rw [nv, fwSlot_fwFirst]; rfl⟩
        dsimp only
        rw [bytes, open_]
        rfl
      | true =>
        refine completes_mbResult (code := 0) (out := 0) (u := { fwSlot (!s.sec.bootSlot) b (sigGood s) with nv.fwFirst := !s.sec.bootSlot }) rfl ho idle ?_
          fun t result nv => ⟨result, by rw [nv], ?_⟩
        · dsimp only
          rw [bytes, open_]
          rfl
        · rw [nv]
          cases s.sec.bootSlot <;> exact ⟨rfl, rfl⟩
    · have bad : (fwCheck s b != 0 || decide (u8At b 9 < s.nv.fusever.toNat)) = true := by
        rw [Bool.or_eq_true, bne_iff_ne, decide_eq_true_eq, ← Nat.not_le]
        exact Decidable.or_iff_not_imp_left.2 fun h above => good ⟨Decidable.not_not.1 h, above⟩
      simp only [if_neg good]
      obtain ⟨fw0, fw1, _⟩ := sigFail_fw s
      refine completes_mbResult (code := 7) (out := 0) (u := sigFail s) rfl ho idle ?_ fun t result nv => ⟨result, by rw [nv, fw0], by rw [nv, fw1]⟩
      dsimp only
      rw [bytes, if_pos bad]
  · have len : b.length = 768 := hb ▸ reportBody_length s
    have signed : (b ++ pointBytes (Config.sm2Sign s.nv.devid (Config.sm3 b))).length = b.length + 64 := by
      rw [List.length_append, pointBytes_length]
    obtain ⟨result, out, _, read⟩ := mbAnswer_reads (s := s) (b ++ pointBytes (Config.sm2Sign s.nv.devid (Config.sm3 b)))
    rw [signed] at out read
    refine completes_mailbox rfl ho idle ?_
    dsimp only
    rw [keys, ← hb, if_neg (by decide)]
    exact ⟨result, by rw [out, len]; rfl, read⟩

end

/-! SUPPORT. DMA channels (R393) and interrupt holdoffs (R395): a channel after a write of its registers, and what a descriptor that completes leaves. -/
namespace Sys2Proof.Machine
open Sys2Proof

section
variable {p q : HPort} {s t : State} {c : Nat}

theorem dmaOf_modDma (p : HPort) (c : Nat) (f : DmaCh → DmaCh) (s : State) : (modDma p c f s).dmaOf p c = f (s.dmaOf p c) := by
  simp only [State.dmaOf, modDma, modHost_host_self, tget_tmod_self]

/-- An interrupt leaves every channel. -/
theorem Signalled.dmaOf (h : Signalled s t) : t.dmaOf p c = s.dmaOf p c := by
  obtain ⟨irq, pba, e⟩ := h p
  rw [State.dmaOf, e]
  rfl

theorem host_congr (h : t.hst = s.hst) : t.host p = s.host p := by cases p <;> simp only [State.host, h]

/-- A settled channel keeps its indices and its ring. -/
theorem settle_fields (d : DmaCh) : d.settle.prod = d.prod ∧ d.settle.cons = d.cons ∧ d.settle.ring = d.ring ∧ d.settle.err = d.err := by
  unfold DmaCh.settle
  split <;> exact ⟨rfl, rfl, rfl, rfl⟩

theorem settle_running {d : DmaCh} (h : d.st ≠ .stopped) : d.settle.st = .running ↔ d.enable = true ∧ d.cons ≠ d.prod := by
  unfold DmaCh.settle
  rw [if_neg (by simpa using h)]
  cases he : d.enable <;> by_cases hc : d.cons = d.prod <;> simp [hc]

theorem settle_stopped {d : DmaCh} (h : d.st = .stopped) : d.settle = d := if_pos (by rw [h]; rfl)

/-! ### Descriptors -/

/-- Bytes cut or filled to a length, one by one. -/
theorem fit_getD {n k : Nat} (b : List Byte) (h : k < n) : (fit n b).getD k 0 = b.getD k 0 := by
  simp only [fit, slice, List.drop_zero, List.getD_eq_getElem?_getD]
  by_cases short : k < b.length
  · rw [List.getElem?_append_left (by rw [List.length_take]; omega), List.getElem?_take_of_lt h]
  · rw [List.getElem?_append_right (by rw [List.length_take]; omega), List.getElem?_eq_none (l := b) (by omega), List.getElem?_replicate]
    split <;> rfl

/-- What a descriptor that completes with a status leaves, its interrupt aside: the move, its STATUS in the ring, and CONS (R393). -/
def dmaCompleted (p : HPort) (c : Nat) (b data : List Byte) (started st : Nat) (s : State) : State :=
  let d := s.dmaOf p c
  let stop := st == 3 || st == 4
  modDma p c (fun d => DmaCh.settle { d with
      cons := BitVec.ofNat 16 ((d.cons.toNat + 1) % 2 ^ d.log2.toNat),
      st := if stop then .stopped else d.st, err := if stop then BitVec.ofNat 8 st else d.err, done := d.done || bitAt (u16At b 20) 1 })
    (emit (.hostWrite p (d.ring + BitVec.ofNat 64 (32 * d.cons.toNat + 28)) (toLE 4 (2 ^ 31 + st))) (dmaMove p b data started st s))

theorem dmaDone_running {b data : List Byte} {started st : Nat} {err : Bool} (live : (s.host p).perst = false) (runs : (s.dmaOf p c).st = .running)
    (status : dmaStatus p b err s = st) :
    dmaDone p c b data started err s = if bitAt (u16At b 20) 1 || (st == 3 || st == 4) then fireOn (16 + c) p (dmaCompleted p c b data started st s)
      else dmaCompleted p c b data started st s := by
  subst status
  exact if_neg (by rw [live, runs]; decide)

theorem dmaMove_hst (p : HPort) (b data : List Byte) (started st : Nat) (s : State) : (dmaMove p b data started st s).hst = s.hst := by
  unfold dmaMove
  dsimp only
  split <;> (try split) <;> rfl

theorem dmaCompleted_ch {b data : List Byte} {started st : Nat} : (dmaCompleted p c b data started st s).dmaOf p c =
    let d := s.dmaOf p c
    DmaCh.settle { d with
      cons := BitVec.ofNat 16 ((d.cons.toNat + 1) % 2 ^ d.log2.toNat),
      st := if st == 3 || st == 4 then .stopped else d.st, err := if st == 3 || st == 4 then BitVec.ofNat 8 st else d.err, done := d.done || bitAt (u16At b 20) 1 } := by
  unfold dmaCompleted
  dsimp only
  rw [dmaOf_modDma, State.dmaOf, State.dmaOf, host_congr ((show (emit _ _).hst = _ from rfl).trans (dmaMove_hst p b data started st s))]

theorem dmaCompleted_ram {b data : List Byte} {started st : Nat} : (dmaCompleted p c b data started st s).ram = (dmaMove p b data started st s).ram :=
  modDma_kept.e_ram

theorem dmaCompleted_out {b data : List Byte} {started st : Nat} : (dmaCompleted p c b data started st s).out =
    .hostWrite p ((s.dmaOf p c).ring + BitVec.ofNat 64 (32 * (s.dmaOf p c).cons.toNat + 28)) (toLE 4 (2 ^ 31 + st)) :: (dmaMove p b data started st s).out :=
  modDma_kept.e_out

/-- A descriptor in form whose device range lies in the fitted memory completes with OK, toward LPDDR5X for the owner only (R392, R393). -/
theorem dmaStatus_ok {b : List Byte} {dev len : Nat} (hd : dev = u64At b 8) (hl : len = u32At b 16) (some_ : len ≠ 0) (short : len ≤ 16777216)
    (flags : u16At b 20 < 8) (rest : slice b 22 2 = [0, 0]) (room : dev + len ≤ s.capacity) (mine : bitAt (u16At b 20) 0 = true ∨ s.hst.owner = some p) :
    dmaStatus p b false s = 0 := by
  subst hd hl
  have form : (u32At b 16 == 0 || decide (16777216 < u32At b 16) || decide (8 ≤ u16At b 20) || !allZero (slice b 22 2)) = false := by
    rw [beq_false_of_ne some_, decide_eq_false (Nat.not_lt.2 short), decide_eq_false (Nat.not_le.2 flags), rest]
    rfl
  have allowed : (!bitAt (u16At b 20) 0 && s.hst.owner != some p) = false := by
    rcases mine with h | h <;> rw [h] <;> simp
  unfold dmaStatus
  dsimp only
  rw [form, allowed, if_neg Bool.false_ne_true, if_neg Bool.false_ne_true, if_neg (Nat.not_lt.2 room), if_neg Bool.false_ne_true]

/-- A descriptor of no length is BAD_DESC. -/
theorem dmaStatus_empty {b : List Byte} {err : Bool} (none_ : u32At b 16 = 0) : dmaStatus p b err s = 4 := by
  unfold dmaStatus
  dsimp only
  rw [none_]
  exact if_pos rfl

/-! ### Holdoffs -/

/-- A message or a pending bit leaves the interrupt maps. -/
theorem sendVector_irq (p : HPort) (v : Nat) (s : State) : ((sendVector p v s).host p).irq = (s.host p).irq := by
  unfold sendVector
  dsimp only
  split
  · rw [setHost_host_self]
  · rfl

/-- A vector sends its message, or pends where it is masked. -/
theorem sendVector_outcome {p : HPort} {v : Nat} {s : State} {e : MsixEntry} (he : tget MsixEntry.reset (s.host p).msix v = e) :
    e.masked = false ∧ (sendVector p v s).out.head? = some (.msix p e.addr e.data) ∨ e.masked = true ∧ tget false ((sendVector p v s).host p).pba v = true := by
  unfold sendVector
  dsimp only
  rw [he]
  cases hm : e.masked with
  | false => exact .inl ⟨rfl, rfl⟩
  | true =>
    refine .inr ⟨rfl, ?_⟩
    rw [if_pos rfl, setHost_host_self]
    exact tget_tset_self false (s.host p).pba v true

/-- The holdoff of a source that fired during it ends: one message, or a pending bit where the vector is masked (R395). -/
theorem endHoldoff_fires {src : Nat} {m : IrqMap} (hm : m = tget (IrqMap.reset src) (s.host p).irq src) (fired : m.fired = true) (done : m.holdEnd ≤ s.clk)
    (en : m.en = true) : endHoldoff p src s = sendVector p m.vector.toNat (s.setHost p { s.host p with
      irq := (tset (IrqMap.reset src) (s.host p).irq src { m with fired := false, holdEnd := if m.holdoff == 0 then 0 else s.clk + m.holdoff.toNat * 1000 }) }) := by
  unfold endHoldoff
  dsimp only
  rw [← hm, fired, decide_eq_true done, en]
  rfl

end
end Sys2Proof.Machine

section
open Sys2Proof Sys2Proof.Machine

/-- Settles O13: the channel's record after a write and after a descriptor, and the interrupt map after a holdoff. -/
theorem hostChannelsComplete : Obligations.HostChannelsComplete := by
  refine ⟨fun p c idx s live boots => ?_, fun p c s live boots => ?_,
    fun p c desc data started s dev len live runs owns hd hl some_ short flags rest room toDevice quiet => ?_,
    fun p c desc data started s dev len live runs hd hl some_ short flags rest room => ?_, fun p c desc data started s live runs none_ => ?_,
    fun dt p src m s hm fired done en => ?_⟩
  · refine completes_portWrite rfl live boots ?_
    rw [dmaOf_modDma]
    obtain ⟨prod, cons, _⟩ := settle_fields { s.dmaOf p c.val with prod := idx }
    exact ⟨prod, cons, fun st => settle_running st⟩
  · refine completes_portWrite rfl live boots ?_
    rw [dmaOf_modDma]
    exact ⟨rfl, rfl, rfl, rfl, rfl, rfl⟩
  · have even : bitAt (u16At desc 20) 0 = false := by simp [bitAt, toDevice]
    have silent : bitAt (u16At desc 20) 1 = false := by simp [bitAt, quiet]
    have status := dmaStatus_ok (p := p) hd hl some_ short flags rest room (.inr owns)
    refine completes_next (congrArg Host.Outcome.next ((dmaDone_running live runs status).trans (if_neg (by rw [silent]; decide)))) ⟨fun a => ?_, ?_, ?_⟩
    · have move : dmaMove p desc data started 0 s = wrMem s dev (slice data 0 len) := by
        subst hd hl
        exact if_neg (by rw [even]; exact Bool.false_ne_true)
      rw [dmaCompleted_ram, move, wrMem_byte, show (slice data 0 len).length = len from fit_length len data, show slice data 0 len = fit len data from rfl]
      by_cases inside : dev ≤ a ∧ a < dev + len
      · obtain ⟨lo, hi⟩ := inside
        rw [if_pos ⟨lo, hi, by omega⟩, if_pos ⟨lo, hi⟩, fit_getD data (by omega)]
      · rw [if_neg inside, if_neg fun h => inside ⟨h.1, h.2.1⟩]
    · rw [dmaCompleted_ch]
      exact (settle_fields _).2.1
    · rw [dmaCompleted_out]
      rfl
  · have odd : bitAt (u16At desc 20) 0 = true := by rw [flags]; rfl
    have silent : bitAt (u16At desc 20) 1 = false := by rw [flags]; rfl
    have status := dmaStatus_ok (p := p) hd hl some_ short (by omega) rest room (.inl odd)
    have move : dmaMove p desc data started 0 s = emit (.hostWrite p (BitVec.ofNat 64 (u64At desc 0)) (rdMem s dev len)) s := by
      subst hd hl
      exact if_pos odd
    refine completes_next (congrArg Host.Outcome.next ((dmaDone_running live runs status).trans (if_neg (by rw [silent]; decide)))) ⟨?_, ?_⟩
    · rw [dmaCompleted_ram, move]
      rfl
    · rw [dmaCompleted_out, move]
      rfl
  · have status := dmaStatus_empty (p := p) (err := false) (s := s) none_
    refine completes_next (congrArg Host.Outcome.next ((dmaDone_running live runs status).trans (if_pos (by rw [Bool.or_eq_true]; exact .inr rfl)))) ?_
    have ch := (signalled_fireOn (16 + c.val) p (dmaCompleted p c.val desc data started 4 s)).dmaOf (p := p) (c := c.val)
    rw [dmaCompleted_ch, settle_stopped rfl] at ch
    refine ⟨?_, congrArg (·.st) ch, congrArg (·.err) ch⟩
    rw [fireOn_kept.e_ram, dmaCompleted_ram]
    rfl
  · have here : (elapse dt s).host p = s.host p := host_congr elapse_kept.e_hst
    have run := endHoldoff_fires (s := elapse dt s) (p := p) (src := src.val) (m := m) (by rw [here]; exact hm) fired (by rwa [elapse_clk]) en
    rw [here] at run
    refine completes_next (congrArg Host.Outcome.next run) ?_
    have port := setHost_host_self (elapse dt s) p { s.host p with
      irq := (tset (IrqMap.reset src.val) (s.host p).irq src.val { m with fired := false, holdEnd := if m.holdoff == 0 then 0 else (elapse dt s).clk + m.holdoff.toNat * 1000 }) }
    refine ⟨?_, sendVector_outcome (by rw [port])⟩
    rw [sendVector_irq, port, tget_tset_self]

end

/-! SUPPORT. Scored parts (R361 to R370): a part's record and its score after each operation, and what of RES those operations leave alone. -/
namespace Sys2Proof.Machine
open Sys2Proof

section
variable {s t u : State} {kind idx : Nat}

/-- Setting a bit that is set changes nothing. -/
theorem setBit_of_set {w : Nat} {v : BitVec w} {i : Nat} (h : v.getLsbD i = true) : setBit v i true = v := by
  have wide : i < w := BitVec.lt_of_getLsbD h
  refine BitVec.eq_of_getLsbD_eq fun j hj => ?_
  simp only [setBit, if_true, BitVec.getLsbD_or, BitVec.getLsbD_ofNat, Nat.testBit_two_pow, hj, decide_true, Bool.true_and]
  by_cases e : i = j
  · subst e
    simp [h]
  · simp [e]

theorem raiseCruise_res (i : Nat) (s : State) : (raiseCruise i s).res = { s.res with cruiseEvent := setBit s.res.cruiseEvent i true } := by
  unfold raiseCruise
  split
  · next h => rw [setBit_of_set h]
  · rw [fire_res]

theorem endTest_res (s : State) : (endTest s).res = { s.res with cruiseEvent := setBit s.res.cruiseEvent 4 true } := fire_res _ _

theorem drainPart_res (kind idx : Nat) (s : State) : (drainPart kind idx s).res =
    if s.drainable kind idx then { (s.modPart kind idx (fun p => { p with st := .drained })).res with cruiseEvent := setBit s.res.cruiseEvent 1 true }
    else { (s.modPart kind idx (fun p => { p with st := .drainWait })).res with cruiseEvent := setBit s.res.cruiseEvent 2 true } := by
  unfold drainPart
  split
  · rw [raiseCruise_res, drainNow_kept.e_res]
    rfl
  · rw [raiseCruise_res]
    rfl

theorem partOf_modPart (kind idx : Nat) (f : Part → Part) (s : State) : (s.modPart kind idx f).partOf kind idx = f (s.partOf kind idx) := tget_tset_self _ _ _ _

theorem partOf_congr (h : t.res.parts = s.res.parts) : t.partOf kind idx = s.partOf kind idx := by rw [State.partOf, h]; rfl

/-- A score depends on the part's penalty and its instant, on the time and on the half-life. -/
theorem score_congr (pen : (t.partOf kind idx).pen = (s.partOf kind idx).pen) (at_ : (t.partOf kind idx).penAt = (s.partOf kind idx).penAt)
    (clk : t.clk = s.clk) (half : t.res.half = s.res.half) : t.score kind idx = s.score kind idx := by
  rw [State.score, State.score, State.penalty, State.penalty, State.halfLife, State.halfLife, pen, at_, clk, half]

/-- No penalty stays none. -/
theorem decay_zero (dt half : Nat) : decay 0 dt half = 0 := by
  have fold (l : List (Nat × Nat)) (g : Nat × Nat → Bool) : l.foldl (fun p e => if g e then p * e.2 / 2 ^ 64 else p) 0 = 0 := by
    induction l with
    | nil => rfl
    | cons e r ih =>
      rw [List.foldl_cons, Nat.zero_mul, Nat.zero_div, ite_self]
      exact ih
  unfold decay
  dsimp only
  split
  · rfl
  · rw [fold, Nat.zero_div]

/-- No time passes, no penalty fades. -/
theorem decay_now (pen half : Nat) : decay pen 0 half = pen := by
  have fold (l : List (Nat × Nat)) : l.foldl (fun p e => if bitAt (0 % half * 2 ^ 32 / half) (31 - e.1) then p * e.2 / 2 ^ 64 else p) pen = pen := by
    have none_ (k : Nat) : bitAt (0 % half * 2 ^ 32 / half) k = false := by simp [bitAt]
    induction l with
    | nil => rfl
    | cons e r ih =>
      rw [List.foldl_cons, none_, if_neg Bool.false_ne_true]
      exact ih
  unfold decay
  dsimp only
  rw [Nat.zero_div, if_neg (by decide), fold, Nat.pow_zero, Nat.div_one]

theorem scoreOf_full : scoreOf 0 = 1000 := by decide

/-- A penalty of a full score leaves none of it. -/
theorem scoreOf_empty {pen : Nat} (h : 1000 * 10 ^ 9 ≤ pen) : scoreOf pen = 0 := by
  unfold scoreOf divUp
  have : 1000 ≤ (pen + 10 ^ 9 - 1) / 10 ^ 9 := by
    rw [Nat.le_div_iff_mul_le (by norm_num)]
    omega
  omega

/-! ### Crossings of WATCH and DRAIN -/

/-- Past a crossing the penalties stand, other parts are as before, and of RES only the parts, the events and the log changed. -/
structure Crossed (kind idx : Nat) (s t : State) : Prop where
  res : t.res = { s.res with parts := t.res.parts, cruiseEvent := t.res.cruiseEvent, cruiseLog := t.res.cruiseLog }
  clk : t.clk = s.clk
  others : ∀ j, j ≠ partKey kind idx → tget Part.reset t.res.parts j = tget Part.reset s.res.parts j
  pen : (t.partOf kind idx).pen = (s.partOf kind idx).pen
  penAt : (t.partOf kind idx).penAt = (s.partOf kind idx).penAt
  test : (t.partOf kind idx).test = (s.partOf kind idx).test

namespace Crossed

theorem trans (h : Crossed kind idx s t) (k : Crossed kind idx t u) : Crossed kind idx s u where
  res := by rw [k.res, h.res]
  clk := k.clk.trans h.clk
  others j hj := (k.others j hj).trans (h.others j hj)
  pen := k.pen.trans h.pen
  penAt := k.penAt.trans h.penAt
  test := k.test.trans h.test

/-- Only the events and the log changed. -/
theorem of_parts (res : t.res = { s.res with cruiseEvent := t.res.cruiseEvent, cruiseLog := t.res.cruiseLog }) (clk : t.clk = s.clk) : Crossed kind idx s t := by
  have parts : t.res.parts = s.res.parts := by rw [res]
  have same : t.partOf kind idx = s.partOf kind idx := partOf_congr parts
  exact ⟨by rw [parts]; exact res, clk, fun j _ => by rw [parts], by rw [same], by rw [same], by rw [same]⟩

theorem refl (s : State) : Crossed kind idx s s := of_parts rfl rfl

theorem raise (i : Nat) (s : State) : Crossed kind idx s (raiseCruise i s) :=
  of_parts (by rw [raiseCruise_res]) raiseCruise_kept.e_clk

theorem save (s : State) : Crossed kind idx s (saveScores s) := of_parts rfl rfl

theorem log (v : Word) (s : State) : Crossed kind idx s { s with res.cruiseLog := v } := of_parts rfl rfl

theorem drainNow (s : State) : Crossed kind idx s (drainNow kind idx s) := of_parts (by rw [drainNow_kept.e_res]) drainNow_kept.e_clk

theorem modPart {f : Part → Part} (pen : (f (s.partOf kind idx)).pen = (s.partOf kind idx).pen) (at_ : (f (s.partOf kind idx)).penAt = (s.partOf kind idx).penAt)
    (test : (f (s.partOf kind idx)).test = (s.partOf kind idx).test) : Crossed kind idx s (s.modPart kind idx f) where
  res := rfl
  clk := rfl
  others j hj := tget_tset_of_ne _ _ _ hj
  pen := by rw [partOf_modPart, pen]
  penAt := by rw [partOf_modPart, at_]
  test := by rw [partOf_modPart, test]

theorem drainPart (s : State) : Crossed kind idx s (drainPart kind idx s) := by
  unfold Machine.drainPart
  split
  · exact ((modPart (f := fun p => { p with st := .drained }) rfl rfl rfl).trans (drainNow _)).trans (raise 1 _)
  · exact (modPart (f := fun p => { p with st := .drainWait }) rfl rfl rfl).trans (raise 2 _)

theorem score (h : Crossed kind idx s t) : t.score kind idx = s.score kind idx := score_congr h.pen h.penAt h.clk (by rw [h.res])

end Crossed

theorem crossed_watched (before after : Nat) (s : State) : Crossed kind idx s (watched kind idx before after s) := by
  unfold watched
  split
  · refine (Crossed.trans ?_ (.log _ _)).trans (.raise 0 _)
    exact .modPart (by split <;> rfl) (by split <;> rfl) (by split <;> rfl)
  · exact .refl s

theorem watched_drained {before after : Nat} (h : (s.partOf kind idx).st = .drained) : ((watched kind idx before after s).partOf kind idx).st = .drained := by
  unfold watched
  split
  · rw [partOf_congr (s := s.modPart kind idx (fun p => if p.st == .inService then { p with st := .watch } else p)) (by rw [raiseCruise_res]), partOf_modPart, h]
    exact h
  · exact h

theorem crossed_drainedStep {before after : Nat} {out : Bool} (h : Crossed kind idx s u) : Crossed kind idx s (drained kind idx before after out u) := by
  have logged := h.trans (.log (cruiseLogOf 2 kind idx) u)
  unfold drained
  revert logged
  generalize ({ u with res.cruiseLog := cruiseLogOf 2 kind idx } : State) = v
  intro logged
  have out_ : Crossed kind idx s (if out then v else drainPart kind idx v) := by
    cases out with
    | true => exact logged
    | false => exact logged.trans (.drainPart v)
  revert out_
  generalize (if out then v else drainPart kind idx v) = w
  intro out_
  split
  · exact out_.trans (.save w)
  · exact h

/-- Every penalty just raised crosses like this (R361). -/
theorem crossed_crossed (before after : Nat) (s : State) : Crossed kind idx s (crossed kind idx before after s) := by
  rw [crossed_eq]
  exact crossed_drainedStep (crossed_watched before after s)

/-- A part that is out already keeps its record where it falls below DRAIN. -/
theorem drained_parts {before after : Nat} : (drained kind idx before after true u).res.parts = u.res.parts := by
  have noted {out : Bool} {w : Word} (ho : out = true) :
      (saveScores (if out then { u with res.cruiseLog := w } else drainPart kind idx { u with res.cruiseLog := w })).res.parts = u.res.parts := by
    rw [if_pos ho]
    rfl
  unfold drained
  split
  · exact noted rfl
  · rfl

/-- A drained part stays drained. -/
theorem crossed_drained {before after : Nat} (h : (s.partOf kind idx).st = .drained) : ((crossed kind idx before after s).partOf kind idx).st = .drained := by
  have out_ : ((s.partOf kind idx).st == .drained || (s.partOf kind idx).st == .replaced) = true := by rw [h]; rfl
  rw [crossed_eq, out_, partOf_congr drained_parts]
  exact watched_drained h

/-- A part with a new penalty, from now on. -/
def penalised (kind idx pen : Nat) (s : State) : State := s.modPart kind idx (fun p => { p with pen := pen, penAt := s.clk })

theorem penalised_part (kind idx pen : Nat) (s : State) : (penalised kind idx pen s).partOf kind idx = { s.partOf kind idx with pen := pen, penAt := s.clk } :=
  partOf_modPart kind idx _ s

theorem penalised_others {pen j : Nat} (h : j ≠ partKey kind idx) : tget Part.reset (penalised kind idx pen s).res.parts j = tget Part.reset s.res.parts j :=
  tget_tset_of_ne _ _ _ h

theorem penalised_score (kind idx pen : Nat) (s : State) : (penalised kind idx pen s).score kind idx = scoreOf pen := by
  have part := penalised_part kind idx pen s
  have clk : (penalised kind idx pen s).clk = s.clk := rfl
  rw [State.score, State.penalty, part, clk]
  dsimp only
  rw [Nat.sub_self, decay_now]

theorem zeroScore_eq (kind idx : Nat) (s : State) :
    zeroScore kind idx s = crossed kind idx (s.score kind idx) 0 (penalised kind idx (max (s.penalty kind idx) (1000 * 10 ^ 9)) s) := rfl

/-- A part whose score is set to 0 has none left; other parts and the rest of RES but the events and the log stay (R368). -/
structure Zeroed (kind idx : Nat) (s t : State) : Prop where
  score : t.score kind idx = 0
  others : ∀ j, j ≠ partKey kind idx → tget Part.reset t.res.parts j = tget Part.reset s.res.parts j
  res : t.res = { s.res with parts := t.res.parts, cruiseEvent := t.res.cruiseEvent, cruiseLog := t.res.cruiseLog }
  clk : t.clk = s.clk
  test : (t.partOf kind idx).test = (s.partOf kind idx).test
  drained : (s.partOf kind idx).st = .drained → (t.partOf kind idx).st = .drained

theorem zeroed_of_penalised {pen before : Nat} (full : scoreOf pen = 0) : Zeroed kind idx s (crossed kind idx before 0 (penalised kind idx pen s)) := by
  have part := penalised_part kind idx pen s
  have score := penalised_score kind idx pen s
  have k := crossed_crossed (kind := kind) (idx := idx) before 0 (penalised kind idx pen s)
  exact ⟨k.score.trans (score.trans full), fun j hj => (k.others j hj).trans (penalised_others hj), k.res, k.clk, by rw [k.test, part],
    fun d => crossed_drained (by rw [part]; exact d)⟩

theorem zeroed_zeroScore (kind idx : Nat) (s : State) : Zeroed kind idx s (zeroScore kind idx s) := by
  rw [zeroScore_eq]
  refine zeroed_of_penalised (scoreOf_empty ?_)
  omega

end
end Sys2Proof.Machine

/-! SUPPORT. The part commands and the tests of parts (R363 to R370, R380): when a command of RES_PART_CMD runs, and a part as each one leaves it. -/
namespace Sys2Proof.Machine
open Sys2Proof

section
variable {p : HPort} {i : Instr} {k : BitVec 2} {n : BitVec 12} {f : Nat → Nat → State → State} {s t : State} {P : State → Prop} {kind idx : Nat}

/-- The owner's command on a part of its kind runs while none is busy. -/
theorem completes_partCommand (run : exec i s = .next (partCommand p k n f s)) (ho : Owner p s) (idle : s.res.partBusy = false)
    (inside : n.toNat < partCount k.toNat) (h : P (f k.toNat n.toNat s)) : Completes i s P := by
  refine completes_owner run ho ?_
  rw [idle, if_neg Bool.false_ne_true, if_neg (Nat.not_le.2 inside)]
  exact h

/-- An index beyond its kind is BAD_FIELD. -/
theorem completes_partBeyond (run : exec i s = .next (partCommand p k n f s)) (ho : Owner p s) (idle : s.res.partBusy = false)
    (beyond : partCount k.toNat ≤ n.toNat) (h : P (partStatus 1 s)) : Completes i s P := by
  refine completes_owner run ho ?_
  rw [idle, if_neg Bool.false_ne_true, if_pos beyond]
  exact h

/-- A part at its end of an operation that leaves the record of the parts: the status of a command changes none. -/
theorem partOf_partStatus (st : Nat) (s : State) : (partStatus st s).partOf kind idx = s.partOf kind idx := rfl

theorem partStatus_info (info : Word) (s : State) : (partStatus 0 { s with res.partInfo := info }).res = { s.res with partStatus := 0, partInfo := info } := rfl

theorem partStatus_score (st : Nat) (s : State) : (partStatus st s).score kind idx = s.score kind idx := score_congr rfl rfl rfl rfl

/-! ### DRAIN and RETURN -/

theorem drainPart_part (kind idx : Nat) (s : State) : (drainPart kind idx s).partOf kind idx =
    { s.partOf kind idx with st := if s.drainable kind idx then .drained else .drainWait } := by
  have res := drainPart_res kind idx s
  cases hd : s.drainable kind idx with
  | true =>
    rw [hd, if_pos rfl] at res
    rw [partOf_congr (s := s.modPart kind idx (fun p => { p with st := .drained })) (congrArg (·.parts) res), partOf_modPart, if_pos rfl]
  | false =>
    rw [hd, if_neg Bool.false_ne_true] at res
    rw [partOf_congr (s := s.modPart kind idx (fun p => { p with st := .drainWait })) (congrArg (·.parts) res), partOf_modPart, if_neg Bool.false_ne_true]

/-- A drained engine is withdrawn from its Mill (R363). -/
theorem drainPart_withdrawn (idx : Nat) (s : State) : tget false (drainPart 1 idx s).mil.withdrawn idx = true := by
  have run : drainPart 1 idx s = raiseCruise 1 (drainNow 1 idx (s.modPart 1 idx (fun p => { p with st := .drained }))) := if_pos rfl
  rw [run, raiseCruise_kept.e_mil (by decide)]
  exact tget_tset_self false s.mil.withdrawn idx true

theorem freeState_congr (score : t.score kind idx = s.score kind idx) (plt : t.plt = s.plt) : t.freeState kind idx = s.freeState kind idx := by
  have watch : t.watchAt kind = s.watchAt kind := by
    unfold State.watchAt
    rw [plt]
  rw [State.freeState, State.freeState, score, watch]

theorem returnPart_part (kind idx : Nat) (s : State) : (returnPart kind idx s).partOf kind idx = { s.partOf kind idx with st := s.freeState kind idx } := by
  have back : (returnPart kind idx s).partOf kind idx = (s.modPart kind idx (fun x => { x with st := s.freeState kind idx })).partOf kind idx :=
    partOf_congr (congrArg (·.parts) (undoDrain_kept.e_res (by decide)))
  rw [back, partOf_modPart]

/-- An engine that returns is withdrawn no longer (R364). -/
theorem returnPart_withdrawn (idx : Nat) (s : State) : tget false (returnPart 1 idx s).mil.withdrawn idx = false :=
  tget_tset_self false s.mil.withdrawn idx false

/-- RETURN of a part in its kind (R364). -/
def partReturns (k i : Nat) (s : State) : State :=
  if s.score k i < s.drainAt k then partStatus 9 s
  else partStatus 0 (if (s.partOf k i).st == .drained then returnPart k i s else s)

theorem exec_partReturn (p : HPort) (k : BitVec 2) (i : BitVec 12) (s : State) : exec (.partReturn p k i) s = .next (partCommand p k i partReturns s) := rfl

theorem partReturns_low (low : s.score kind idx < s.drainAt kind) : (partReturns kind idx s).res = { s.res with partStatus := 9 } := by
  rw [partReturns, if_pos low]
  rfl

theorem partReturns_high (high : s.drainAt kind ≤ s.score kind idx) : (partReturns kind idx s).res.partStatus = 0 ∧ ((s.partOf kind idx).st = .drained →
    ((partReturns kind idx s).partOf kind idx).st = s.freeState kind idx ∧ (kind = 1 → tget false (partReturns kind idx s).mil.withdrawn idx = false)) := by
  rw [partReturns, if_neg (Nat.not_lt.2 high)]
  refine ⟨rfl, fun drained => ?_⟩
  rw [drained, if_pos (by rfl), partOf_partStatus, returnPart_part]
  refine ⟨rfl, fun one => ?_⟩
  subst one
  exact returnPart_withdrawn idx s

/-! ### Tests -/

/-- A part under test, with what it was before. -/
theorem startPartTest_part (kind idx : Nat) (s : State) :
    (startPartTest kind idx s).partOf kind idx = { s.partOf kind idx with wasDrained := (s.partOf kind idx).st == .drained, st := .testing } := by
  rw [startPartTest, partOf_partStatus, partOf_modPart]

theorem endTest_part (s : State) : (endTest s).partOf kind idx = s.partOf kind idx := partOf_congr (by rw [endTest_res])
theorem endTest_event (s : State) : (endTest s).res.cruiseEvent.getLsbD 4 = true := by
  rw [endTest_res]
  exact getLsbD_setBit_self _ (by decide)
theorem endTest_score (s : State) : (endTest s).score kind idx = s.score kind idx :=
  score_congr (by rw [endTest_part]) (by rw [endTest_part]) endTest_kept.e_clk (by rw [endTest_res])

/-- A test that fails leaves the part drained, its score 0 (R369). -/
theorem partTestEnds_failed (kind idx : Nat) (s : State) :
    let t := partTestEnds kind idx 1 s
    (t.partOf kind idx).st = .drained ∧ (t.partOf kind idx).test = .fail ∧ t.score kind idx = 0 := by
  have run : partTestEnds kind idx 1 s =
      endTest (zeroScore kind idx (s.modPart kind idx (fun x => { x with st := .drained, test := .fail, wasDrained := false }))) := rfl
  rw [run]
  have part := partOf_modPart kind idx (fun x => { x with st := .drained, test := .fail, wasDrained := false }) s
  generalize s.modPart kind idx (fun x => { x with st := .drained, test := .fail, wasDrained := false }) = u at part
  have zeroed := zeroed_zeroScore kind idx u
  dsimp only
  rw [endTest_part, endTest_score]
  exact ⟨zeroed.drained (by rw [part]), by rw [zeroed.test, part], zeroed.score⟩

/-- A test that does not fail returns the part, an engine that was drained aside (R369). -/
theorem partTestEnds_ended (kind idx : Nat) {how : Nat} (hw : how ≠ 1) (s : State) :
    ((partTestEnds kind idx how s).partOf kind idx).test = (if how == 0 then .pass else .aborted) ∧
      ((partTestEnds kind idx how s).partOf kind idx).st = (if (s.partOf kind idx).wasDrained && kind == 1 then .drained else s.freeState kind idx) := by
  have run : partTestEnds kind idx how s =
      let u := s.modPart kind idx (fun x => { x with st := .drained, test := if how == 0 then .pass else .aborted, wasDrained := false })
      endTest (if (s.partOf kind idx).wasDrained && kind == 1 then u else returnPart kind idx u) := by
    unfold partTestEnds
    split
    · exact absurd rfl hw
    · rfl
  rw [run]
  have part := partOf_modPart kind idx (fun x => { x with st := .drained, test := if how == 0 then .pass else .aborted, wasDrained := false }) s
  have free : (s.modPart kind idx (fun x => { x with st := .drained, test := if how == 0 then .pass else .aborted, wasDrained := false })).freeState kind idx = s.freeState kind idx :=
    freeState_congr (score_congr (by rw [part]) (by rw [part]) rfl rfl) rfl
  generalize s.modPart kind idx (fun x => { x with st := .drained, test := if how == 0 then .pass else .aborted, wasDrained := false }) = u at part free
  dsimp only
  rw [endTest_part]
  split
  · rw [part]
    exact ⟨rfl, rfl⟩
  · rw [returnPart_part, part, free]
    exact ⟨rfl, rfl⟩

/-- A wait that ends drains the part (R363). -/
theorem drainNow_drains (kind idx : Nat) (s : State) :
    let t := raiseCruise 1 (drainNow kind idx (s.modPart kind idx (fun x => { x with st := .drained })))
    (t.partOf kind idx).st = .drained ∧ t.res.cruiseEvent.getLsbD 1 = true := by
  dsimp only
  rw [raiseCruise_res]
  refine ⟨?_, getLsbD_setBit_self _ (by decide)⟩
  rw [partOf_congr (s := s.modPart kind idx (fun x => { x with st := .drained })) (by rw [raiseCruise_res, drainNow_kept.e_res (by decide)]), partOf_modPart]

end
end Sys2Proof.Machine

section
open Sys2Proof Sys2Proof.Machine

/-- Settles O44: each command on a part of its kind, by its branches; what the part's record becomes is said once for each operation. -/
theorem partCommandsComplete : Obligations.PartCommandsComplete := by
  refine ⟨fun p k i s ho idle inside => ?_, fun p k i s ho idle beyond => ?_, fun p k i s ho idle inside => ?_, fun p k i s ho idle inside => ?_,
    fun p k i s ho idle inside => ?_, fun p i s ho idle inside => ?_, fun p i s ho idle => ?_, fun p k i s ho idle which => ?_,
    fun k i ok s testing => ?_, fun k i s waits ready => ?_, fun dt s => ?_⟩
  · refine completes_partCommand rfl ho idle inside ?_
    have bank : (if k.toNat == 2 then (Config.bankPart i.toNat).toNat else 0) = if k = 2 then (Config.bankPart i.toNat).toNat else 0 := by
      by_cases two : k = 2
      · rw [two]
        rfl
      · rw [if_neg two]
        exact if_neg fun h => two (BitVec.eq_of_toNat_eq (beq_iff_eq.1 h : k.toNat = 2))
    dsimp only
    rw [bank]
    exact partStatus_info _ s
  · exact completes_partBeyond rfl ho idle beyond rfl
  · refine completes_partCommand rfl ho idle inside ⟨rfl, fun live => ?_, fun ⟨notIn, notWatch⟩ => ?_⟩
    · have takes : ((s.partOf k.toNat i.toNat).st == .inService || (s.partOf k.toNat i.toNat).st == .watch) = true := by
        rcases live with h | h <;> rw [h] <;> rfl
      dsimp only
      rw [takes, if_pos rfl]
      have part := drainPart_part k.toNat i.toNat s
      have res := drainPart_res k.toNat i.toNat s
      refine ⟨fun able => ?_, fun unable => ?_⟩
      · rw [able, if_pos rfl] at part res
        refine ⟨congrArg Part.st part, ?_, fun one => ?_⟩
        · exact (congrArg (fun r => r.cruiseEvent.getLsbD 1) res).trans (getLsbD_setBit_self _ (by decide))
        · subst one
          exact drainPart_withdrawn i.toNat s
      · rw [unable, if_neg Bool.false_ne_true] at part res
        exact ⟨congrArg Part.st part, (congrArg (fun r => r.cruiseEvent.getLsbD 2) res).trans (getLsbD_setBit_self _ (by decide))⟩
    · dsimp only
      rw [beq_false_of_ne notIn, beq_false_of_ne notWatch]
      rfl
  · refine completes_partCommand (exec_partReturn p k i s) ho idle inside ⟨partReturns_low, fun high => ?_⟩
    obtain ⟨status, back⟩ := partReturns_high high
    exact ⟨status, fun drained => ⟨(back drained).1, fun one => (back drained).2 (by rw [one]; rfl)⟩⟩
  · refine completes_partCommand rfl ho idle inside ⟨rfl, ?_, ?_⟩
    · exact (partStatus_score 0 (penalised k.toNat i.toNat 0 s)).trans ((penalised_score k.toNat i.toNat 0 s).trans scoreOf_full)
    · have st := congrArg Part.st (penalised_part k.toNat i.toNat 0 s)
      exact st
  · refine completes_partCommand rfl ho idle inside ⟨fun ⟨e, he, busy⟩ => ?_, fun quiet => ?_⟩
    · have any : (List.range 12).any (fun e => (s.partOf 1 (i.toNat / 12 * 12 + e)).st == .testing) = true :=
        List.any_eq_true.2 ⟨e, List.mem_range.2 he, beq_iff_eq.2 busy⟩
      exact congrArg State.res (if_pos any)
    · have none_ : ¬ (List.range 12).any (fun e => (s.partOf 1 (i.toNat / 12 * 12 + e)).st == .testing) = true := by
        rw [List.any_eq_true]
        rintro ⟨e, he, busy⟩
        exact quiet e (List.mem_range.1 he) (beq_iff_eq.1 busy)
      have run : (if (List.range 12).any (fun e => (s.partOf 1 (i.toNat / 12 * 12 + e)).st == .testing) then partStatus 7 s
          else startPartTest 1 i.toNat { s with mil.withdrawn := tset false s.mil.withdrawn i.toNat true }) = _ := if_neg none_
      refine ⟨congrArg (fun t : State => t.res.partStatus) run, ?_, ?_⟩
      · exact (congrArg (fun t : State => (t.partOf 1 i.toNat).st) run).trans (congrArg Part.st (startPartTest_part 1 i.toNat _))
      · exact (congrArg (fun t : State => tget false t.mil.withdrawn i.toNat) run).trans (tget_tset_self false s.mil.withdrawn i.toNat true)
  · refine completes_partCommand rfl ho idle i.isLt ⟨fun busy => ?_, fun quiet taken => ?_, fun free => ?_⟩
    · exact congrArg State.res (if_pos (beq_iff_eq.2 busy))
    · exact congrArg State.res ((if_neg (by simpa using quiet)).trans (if_pos (by rw [taken]; rfl)))
    · have drained : (s.partOf 2 i.toNat).st = .drained := by
        unfold State.bankFree at free
        exact beq_iff_eq.1 (Bool.and_eq_true_iff.1 free).1
      have run : (if (s.partOf 2 i.toNat).st == .testing then partStatus 7 s else if !s.bankFree i.toNat then partStatus 8 s else startPartTest 2 i.toNat s) = _ :=
        (if_neg (by rw [drained]; decide)).trans (if_neg (by rw [free]; decide))
      exact ⟨congrArg (fun t : State => t.res.partStatus) run,
        (congrArg (fun t : State => (t.partOf 2 i.toNat).st) run).trans (congrArg Part.st (startPartTest_part 2 i.toNat s))⟩
  · have outside : Completes (.partTest p k i) s (· = partStatus 1 s) := by
      by_cases beyond : partCount k.toNat ≤ i.toNat
      · exact completes_partBeyond rfl ho idle beyond rfl
      · refine completes_partCommand rfl ho idle (Nat.not_le.1 beyond) ?_
        rcases which with rfl | rfl <;> rfl
    obtain ⟨t, run, rfl⟩ := outside
    exact completes_next run rfl
  · have run : exec (.partTestEnd k i ok) s = .next (partTestEnds k.toNat i.toNat (if ok then 0 else 1) s) :=
      congrArg Host.Outcome.next (if_pos (beq_iff_eq.2 testing))
    refine completes_next run ⟨endTest_event _, fun failed => ?_, fun passed => ?_⟩
    · subst failed
      exact partTestEnds_failed k.toNat i.toNat s
    · subst passed
      obtain ⟨test, st⟩ := partTestEnds_ended k.toNat i.toNat (how := 0) (by decide) s
      refine ⟨test, st.trans ?_⟩
      have engine : ((s.partOf k.toNat i.toNat).wasDrained && k.toNat == 1) = decide ((s.partOf k.toNat i.toNat).wasDrained = true ∧ k = 1) := by
        rw [Bool.decide_and, Bool.decide_eq_true]
        congr 1
        by_cases one : k = 1
        · subst one
          rfl
        · rw [decide_eq_false one]
          exact beq_false_of_ne fun h => one (BitVec.eq_of_toNat_eq h)
      rw [engine]
      simp only [decide_eq_true_eq]
  · have run : exec (.drainwaitRelease k i) s =
        .next (raiseCruise 1 (drainNow k.toNat i.toNat (s.modPart k.toNat i.toNat (fun x => { x with st := .drained })))) :=
      congrArg Host.Outcome.next (if_pos (by rw [waits, ready]; rfl))
    exact completes_next run (drainNow_drains k.toNat i.toNat s)
  · have res : (elapse dt s).res = s.res := elapse_kept.e_res (by decide)
    have half : (elapse dt s).halfLife = s.halfLife := by rw [State.halfLife, State.halfLife, res]
    refine completes_next rfl ⟨elapse_clk dt s, res, ?_⟩
    unfold saveScores
    dsimp only
    rw [res, half, elapse_clk]

end

/-! SUPPORT. The full self-test and the thermal governor (R366, R369, R370): the parts that a self-test fails, and what the end of engine tests leaves of the governors. -/
namespace Sys2Proof.Machine
open Sys2Proof

section
variable {s t u : State} {kind idx : Nat}

/-! ### The parts that fail a self-test -/

/-- A score that is 0 stays 0 while scores are set to 0. -/
theorem zeroScore_keeps_zero {k a : Nat} (h : s.score kind idx = 0) : (zeroScore k a s).score kind idx = 0 := by
  have zeroed := zeroed_zeroScore k a s
  by_cases same : partKey kind idx = partKey k a
  · have part : (zeroScore k a s).partOf kind idx = (zeroScore k a s).partOf k a := by rw [State.partOf, same]; rfl
    have score : (zeroScore k a s).score kind idx = (zeroScore k a s).score k a := by
      rw [State.score, State.score, State.penalty, State.penalty, part]
    exact score.trans zeroed.score
  · have part : (zeroScore k a s).partOf kind idx = s.partOf kind idx := zeroed.others _ same
    rw [score_congr (by rw [part]) (by rw [part]) zeroed.clk (by rw [zeroed.res])]
    exact h

theorem zeroScores_keep_zero {k : Nat} (l : List Nat) (h : s.score kind idx = 0) : (forEach l (zeroScore k) s).score kind idx = 0 :=
  forEach_invariant (P := fun t => t.score kind idx = 0) (fun _ _ _ zero => zeroScore_keeps_zero zero) h

/-- Every part of a list has its score set to 0. -/
theorem zeroScores_zero {k : Nat} {l : List Nat} {s : State} (h : idx ∈ l) : (forEach l (zeroScore k) s).score k idx = 0 := by
  induction l generalizing s with
  | nil => exact absurd h List.not_mem_nil
  | cons a r ih =>
    rcases List.mem_cons.1 h with rfl | rest
    · exact zeroScores_keep_zero r (zeroed_zeroScore k idx s).score
    · exact ih rest

/-- Of the failed indices those beyond their kind do not count. -/
theorem filter_below_isEmpty (l : List Nat) (n : Nat) : (l.filter (fun i => decide (i < n))).isEmpty = decide (∀ i, i ∈ l → n ≤ i) := by
  rw [Bool.eq_iff_iff, List.isEmpty_iff, List.filter_eq_nil_iff, decide_eq_true_eq]
  exact ⟨fun h i hi => Nat.not_lt.1 fun lt => h i hi (decide_eq_true lt), fun h i hi lt => Nat.not_lt.2 (h i hi) (of_decide_eq_true lt)⟩

/-- The self-test with its failed parts ends: the result, and no score left of what failed (R369). -/
def selfTestEnds (e b : List Nat) (s : State) : State :=
  endTest { forEach b (zeroScore 2) (forEach e (zeroScore 1) s) with
    res.testBusy := false, res.testStatus := 0, res.testResult := if e.isEmpty && b.isEmpty then 2 else 3 }

theorem exec_selfTestEnd {e b : List Nat} (busy : s.res.testBusy = true) :
    exec (.selfTestEnd e b) s = .next (selfTestEnds (e.filter (fun i => decide (i < 1536))) (b.filter (fun i => decide (i < 4096))) s) :=
  congrArg Host.Outcome.next (if_neg (by rw [busy]; decide))

theorem selfTestEnds_score (e b : List Nat) (s : State) :
    (selfTestEnds e b s).score kind idx = (forEach b (zeroScore 2) (forEach e (zeroScore 1) s)).score kind idx := by
  rw [selfTestEnds, endTest_score]
  exact score_congr rfl rfl rfl rfl

/-! ### The governors -/

theorem gov_setGov_self (d : Nat) (g : Gov) (s : State) : (s.setGov d g).gov d = g := tget_tset_self Gov.reset s.res.gov d g
theorem gov_setGov_of_ne {d e : Nat} (g : Gov) (s : State) (h : e ≠ d) : (s.setGov d g).gov e = s.gov e := tget_tset_of_ne _ _ _ h
theorem gov_congr (h : t.res.gov = s.res.gov) (d : Nat) : t.gov d = s.gov d := by rw [State.gov, h]; rfl

/-- The end of a part's test leaves every governor. -/
theorem partTestEnds_gov (kind idx how : Nat) (s : State) : (partTestEnds kind idx how s).res.gov = s.res.gov := by
  have ended : (partTestEnds kind idx how s).res.gov = _ := congrArg (·.gov) (endTest_res _)
  rw [ended]
  split
  · rw [(zeroed_zeroScore kind idx _).res]
    rfl
  · dsimp only
    split
    · rfl
    · rw [returnPart, undoDrain_kept.e_res (by decide)]
      rfl

theorem abortEngineTests_gov (d n : Nat) (s : State) : (abortEngineTests d n s).res.gov = s.res.gov := by
  unfold abortEngineTests
  refine forEach_invariant (P := fun t => t.res.gov = s.res.gov) (fun k _ t same => ?_) rfl
  dsimp only
  split
  · exact (partTestEnds_gov _ _ _ t).trans same
  · exact same

end
end Sys2Proof.Machine

section
open Sys2Proof Sys2Proof.Machine

/-- Settles O45: the self-test by its requests and its end, and the governor by its two steps. -/
theorem selfTestAndGovernorComplete : Obligations.SelfTestAndGovernorComplete := by
  refine ⟨fun p s ho idle => ?_, fun p s ho busy => ?_, fun e b s busy => ?_, fun dt d s hot late room => ?_, fun dt d s cool late held => ?_,
    fun dt d s warm mild => ⟨?_, ?_⟩⟩
  · refine completes_owner rfl ho ?_
    dsimp only
    rw [idle, if_neg Bool.false_ne_true]
    by_cases quiet : s.glb.state = .quiesced
    · rw [if_pos quiet, quiet]
      rfl
    · rw [if_neg quiet, if_pos (by simpa using quiet)]
  · refine completes_owner rfl ho ?_
    dsimp only
    rw [busy, if_pos rfl]
  · refine completes_next (exec_selfTestEnd busy) ⟨?_, endTest_event _, ?_, fun i hi lt => ?_, fun i hi lt => ?_⟩
    · rw [selfTestEnds, endTest_res]
    · rw [selfTestEnds, endTest_res]
      dsimp only
      rw [filter_below_isEmpty, filter_below_isEmpty, ← Bool.decide_and]
      simp only [decide_eq_true_eq]
    · rw [selfTestEnds_score]
      exact zeroScores_keep_zero _ (zeroScores_zero (List.mem_filter.2 ⟨hi, decide_eq_true lt⟩))
    · rw [selfTestEnds_score]
      exact zeroScores_zero (List.mem_filter.2 ⟨hi, decide_eq_true lt⟩)
  · have res : (elapse dt s).res = s.res := elapse_kept.e_res (by decide)
    have gov : (elapse dt s).gov d.val = s.gov d.val := gov_congr (by rw [res]) d.val
    have run : exec (.thermalGovWithdraw dt d) s = .next (raisePwr 0 (abortEngineTests d.val ((s.gov d.val).level.toNat + 1)
        ((elapse dt s).setGov d.val { s.gov d.val with level := (s.gov d.val).level + 1, last := (elapse dt s).clk }))) := by
      rw [← gov]
      refine congrArg Host.Outcome.next (if_neg ?_)
      rw [gov, elapse_clk]
      omega
    refine completes_next run ⟨?_, fun e he => ?_, getLsbD_setBit_self _ (by decide)⟩
    · rw [gov_congr ((congrArg (·.gov) (raisePwr_kept.e_res (by decide))).trans (abortEngineTests_gov _ _ _)) d.val, gov_setGov_self, elapse_clk]
    · rw [gov_congr ((congrArg (·.gov) (raisePwr_kept.e_res (by decide))).trans (abortEngineTests_gov _ _ _)) e, gov_setGov_of_ne _ _ he]
      exact gov_congr (by rw [res]) e
  · have res : (elapse dt s).res = s.res := elapse_kept.e_res (by decide)
    have gov : (elapse dt s).gov d.val = s.gov d.val := gov_congr (by rw [res]) d.val
    have run : exec (.thermalGovReturn dt d) s =
        .next ((elapse dt s).setGov d.val { s.gov d.val with level := (s.gov d.val).level - 1, last := (elapse dt s).clk }) := by
      rw [← gov]
      refine congrArg Host.Outcome.next (if_neg ?_)
      rw [gov, elapse_clk]
      rintro (h | h | h)
      · omega
      · omega
      · exact held h
    refine completes_next run ⟨?_, fun e he => ?_⟩
    · rw [gov_setGov_self, elapse_clk]
    · rw [gov_setGov_of_ne _ _ he]
      exact gov_congr (by rw [res]) e
  · have res : (elapse dt s).res = s.res := elapse_kept.e_res (by decide)
    have gov : (elapse dt s).gov d.val = s.gov d.val := gov_congr (by rw [res]) d.val
    exact completes_next (congrArg Host.Outcome.next (if_pos (.inl (by rw [gov]; exact mild)))) res
  · have res : (elapse dt s).res = s.res := elapse_kept.e_res (by decide)
    have gov : (elapse dt s).gov d.val = s.gov d.val := gov_congr (by rw [res]) d.val
    exact completes_next (congrArg Host.Outcome.next (if_pos (.inl (by rw [gov]; exact warm)))) res

end

/-! SUPPORT. Tally (R425 to R433): when a snapshot command runs, what latching leaves, and the memory that an image or a tag record takes. -/
namespace Sys2Proof.Machine
open Sys2Proof

section
variable {p : HPort} {i : Instr} {f : State → State} {s t u : State} {P : State → Prop} {dt : Nat}

/-- The owner's snapshot command runs while none is busy (R427). -/
theorem completes_snapCmd (run : exec i s = .next (snapCmd p f s)) (ho : Owner p s) (idle : s.tly.busy = false) (h : P (f s)) : Completes i s P := by
  refine completes_owner run ho ?_
  rw [idle, if_neg Bool.false_ne_true]
  exact h

/-! ### What time alone changes of Tally -/

/-- Of Tally only counters and the slots of the engines changed. -/
def OnlyCounted (s t : State) : Prop := t.tly = { s.tly with ctr := t.tly.ctr, slots := t.tly.slots }

theorem OnlyCounted.refl (s : State) : OnlyCounted s s := rfl
theorem OnlyCounted.trans (h : OnlyCounted s t) (k : OnlyCounted t u) : OnlyCounted s u := by
  unfold OnlyCounted at *
  rw [k, h]
theorem OnlyCounted.of_same (h : t.tly = s.tly) : OnlyCounted s t := by rw [OnlyCounted, h]

theorem onlyCounted_forEach {α : Type} {g : α → State → State} (hg : ∀ a t, OnlyCounted t (g a t)) (l : List α) (s : State) : OnlyCounted s (forEach l g s) :=
  forEach_invariant (P := OnlyCounted s) (fun a _ t h => h.trans (hg a t)) (.refl s)

theorem onlyCounted_engineSlots (g tok : Nat) (wanted : Bool) (e : Nat) (s : State) : OnlyCounted s (engineSlots g tok wanted e s) := by
  unfold engineSlots
  dsimp only
  split <;> rfl

theorem onlyCounted_elapse (dt : Nat) (s : State) : OnlyCounted s (elapse dt s) := by
  have core (g : Nat) (t : State) : OnlyCounted t (coreSlots dt g t) := by
    unfold coreSlots
    dsimp only
    split
    · exact .refl t
    · exact onlyCounted_forEach (fun e t => onlyCounted_engineSlots g _ _ e t) _ t
  have down : OnlyCounted s (ppsOuts dt (topDown dt s)) := (onlyCounted_forEach core _ s).trans (.of_same (ppsOuts_kept.e_tly (by decide)))
  unfold elapse
  dsimp only
  exact down.trans (.of_same ((forEach_kept fun _ _ => modMap_kept).e_tly (by decide)))

/-! ### Latching (R426) -/

/-- The counters as a snapshot takes them now. -/
def imageNow (v : Snap) (stepped : Bool) (s : State) : SnapImage :=
  { snap := v, tact := BitVec.ofNat 64 s.now, stepped, lock := BitVec.ofNat 2 (lockCode s.tmb.lock), frozen := s.tly.ctr, frozenX := s.tly.ctrX }

/-- With room in the ring and no copy-out every counter is latched. -/
theorem latch_copies {v : Snap} {stepped : Bool} (free : s.tly.copying = none)
    (room : (s.tly.imgHead.toNat + 1) % s.imgSlots ≠ s.tly.imgTail.toNat % s.imgSlots) :
    (latch v stepped s).tly.copying = some (imageNow v stepped s) ∧ (latch v stepped s).tly.ctr = s.tly.ctr ∧
      (latch v stepped s).tly.status = s.tly.status ∧ (latch v stepped s).tly.pend = s.tly.pend := by
  have open_ : ¬ (s.tly.copying.isSome || (s.tly.imgHead.toNat + 1) % s.imgSlots == s.tly.imgTail.toNat % s.imgSlots) = true := by
    rw [free]
    simpa using room
  cases hb : v.block with
  | true =>
    have run : latch v stepped s = { s with tly.lastSnap := some (v.id, v.treq), tly.copying := some (imageNow v stepped s) } := by
      unfold latch
      rw [hb]
      exact if_neg open_
    rw [run]
    exact ⟨rfl, rfl, rfl, rfl⟩
  | false =>
    have run : latch v stepped s = { s with tly.copying := some (imageNow v stepped s) } := by
      unfold latch
      rw [hb]
      exact if_neg open_
    rw [run]
    exact ⟨rfl, rfl, rfl, rfl⟩

/-! ### Scheduling (R427) -/

theorem schedule_adds {block : Bool} {id : Half} (alone : ∀ v, v ∈ s.tly.pend → v.due ≠ s.tly.at_) :
    schedule block id s = addSnap { id, treq := s.tly.at_, due := s.tly.at_, timed := true, block, late := false, merged := false } s := by
  refine if_neg ?_
  rw [List.any_eq_true]
  rintro ⟨v, hv, same⟩
  exact alone v hv (beq_iff_eq.1 same)

theorem schedule_merges {block : Bool} {id : Half} (meets : ∃ v, v ∈ s.tly.pend ∧ v.due = s.tly.at_) : schedule block id s = mergeSnap s.tly.at_ s := by
  obtain ⟨v, hv, same⟩ := meets
  have any : s.tly.pend.any (fun v => v.due == s.tly.at_) = true := List.any_eq_true.2 ⟨v, hv, by rw [same]; exact beq_self_eq_true _⟩
  exact if_pos any

/-- An AT that is too near or too far is BAD_TIME before all else. -/
theorem snapRefusal_time {block : Bool} (off : s.tly.at_.toNat < s.now + 10 ^ 6 ∨ s.now + 10 ^ 10 < s.tly.at_.toNat) : snapRefusal block s = 2 := by
  unfold snapRefusal
  rw [if_pos (by rw [Bool.or_eq_true, decide_eq_true_eq, decide_eq_true_eq]; exact off)]

theorem u64At_lt (b : List Byte) (off : Nat) : u64At b off < 2 ^ 64 := by
  have bound (l : List Byte) : leNat l < 256 ^ l.length := by
    induction l with
    | nil => exact Nat.one_pos
    | cons x r ih =>
      have := x.isLt
      rw [leNat, List.length_cons, Nat.pow_succ]
      omega
  have len : (slice b off 8).length = 8 := by simp [slice]
  have := bound (slice b off 8)
  rw [len] at this
  exact this

/-- The instant that a SNAP message names. -/
theorem snapInstant_toNat (b : List Byte) (off : Nat) : (BitVec.ofNat 64 (u64At b off)).toNat = u64At b off := by
  rw [BitVec.toNat_ofNat, Nat.mod_eq_of_lt (u64At_lt b off)]

/-- A SNAP that is news, with an instant ahead, adds its snapshot while there is a place (R430). -/
theorem takeSnap_adds {id : Half} {at_ : DWord} (news : s.snapKnown id at_ = false) (ahead : s.now < at_.toNat) (alone : ∀ v, v ∈ s.tly.pend → v.due ≠ at_)
    (room : s.tly.pend.length < 8) :
    (takeSnap id at_ s).tly.pend = s.tly.pend ++ [{ id, treq := at_, due := at_, timed := true, block := true, late := false, merged := false }] := by
  have none_ : ¬ s.tly.pend.any (fun u => u.due == at_) = true := by
    rw [List.any_eq_true]
    rintro ⟨v, hv, same⟩
    exact alone v hv (beq_iff_eq.1 same)
  unfold takeSnap
  dsimp only
  rw [news, if_neg Bool.false_ne_true, if_neg (Nat.not_le.2 ahead), if_neg none_, if_neg (Nat.not_le.2 room)]
  rfl

/-- Another member's SNAP goes on along the ring and is taken by a member that has joined (R430). -/
theorem blockSnap_joined {lane : Fin 2} {b : List Byte} (joined : s.tmb.blk = .joined) (other : u64At b 16 ≠ s.nv.devid.toNat) :
    blockSnap lane b s = takeSnap (BitVec.ofNat 16 (u16At b 24)) (BitVec.ofNat 64 (u64At b 8)) (forwardRing lane 0x24 b false s) := by
  have not_own : (u64At b 16 == s.nv.devid.toNat) = false := beq_false_of_ne other
  unfold blockSnap
  dsimp only
  rw [not_own, forwardRing_kept.e_tmb (by decide), joined]
  rfl

/-! ### Images and tag records (R428, R432) -/

theorem snapshotCopyDone_copies {im : SnapImage} (h : s.tly.copying = some im) : snapshotCopyDone s =
    fire 12 { wrMem s (s.tly.imgBase.toNat + s.tly.imgHead.toNat % s.imgSlots * s.imgBytes) (imageOf s im (s.tly.seq + 1).toNat) with
      tly.copying := none, tly.seq := s.tly.seq + 1, tly.imgHead := BitVec.ofNat 8 ((s.tly.imgHead.toNat + 1) % s.imgSlots), tly.evSnapDone := true } := by
  simp only [snapshotCopyDone, h]

/-- A tag record that its district keeps: the core's sampler takes its next value first. -/
def tagTaken (core : Nat) (s : State) : State :=
  { s with fresh := s.fresh + 1, tly.lfsr := tset 0 s.tly.lfsr core (BitVec.ofNat 16 (Config.freeWord s.fresh).toNat) }

theorem tagRecord_kept_district {core : Nat} {r : List Word} (on : s.tly.tagEnable = true) (keeps : bitAt s.tly.tagDmask.toNat (core / 8) = true) :
    tagRecord core r s = if (s.tly.tagHead.toNat + 1) % s.tagSlots == s.tly.tagTail.toNat % s.tagSlots then
        count (evNo 28 0x012 0) { tagTaken core s with tly.evTagLost := true }
      else { wrMem (tagTaken core s) (s.tly.tagBase.toNat + s.tly.tagHead.toNat % s.tagSlots * 32) (bytesOfWords (tagWords core r)) with
        tly.tagHead := BitVec.ofNat 20 ((s.tly.tagHead.toNat + 1) % s.tagSlots) } := by
  have open_ : (!s.tly.tagEnable || !bitAt s.tly.tagDmask.toNat (core / 8)) = false := by rw [on, keeps]; rfl
  unfold tagRecord
  rw [open_]
  rfl

/-- Memory that a write has filled reads as written, in every state with that memory. -/
theorem rdMem_written {a : Nat} {b : List Byte} (fits : a + b.length ≤ s.capacity) (ram : t.ram = (wrMem s a b).ram) (nv : t.nv = s.nv) : rdMem t a b.length = b := by
  have same : rdMem t a b.length = rdMem (wrMem s a b) a b.length := rdMem_congr (by rw [State.capacity, nv]; rfl) fun i _ => by rw [ram]
  rw [same, rdMem_wrMem s a b fits]

theorem tagWords_length (core : Nat) (r : List Word) : (bytesOfWords (tagWords core r)).length = 32 := by
  simp only [bytesOfWords, List.length_flatMap, toLE_length, tagWords]
  rfl

end
end Sys2Proof.Machine

section
open Sys2Proof Sys2Proof.Machine

/-- Settles O46: a snapshot command by its refusals and its effect, and the two records by what they write. -/
theorem tallyCommandsComplete : Obligations.TallyCommandsComplete := by
  refine ⟨fun p ev s ho => completes_owner rfl ho rfl, fun p id s ho idle far free room => ?_, fun p id s ho idle close => ?_, fun p id s ho idle => ?_,
    fun p id s ho idle => ?_, fun p id s ho idle => ?_, fun lane codes b s heard own joined other news ahead alone room => ?_,
    fun dt v u s hu pend due free room => ?_, fun im a s copying ha fits => ?_, fun c r s on keeps room fits => ?_, fun c r s on keeps full => ?_⟩
  · have latched := latch_copies (s := snapStatus 0 s) (v := { id, treq := 0, due := BitVec.ofNat 64 s.now, timed := false, block := false, late := false, merged := false })
      (stepped := false) free room
    obtain ⟨copying, ctr, status, _⟩ := latched
    refine completes_snapCmd rfl ho idle ?_
    rw [snapNow, far, if_neg Bool.false_ne_true]
    exact ⟨status, ctr, _, copying, rfl, rfl, rfl, rfl⟩
  · refine completes_snapCmd rfl ho idle ?_
    rw [snapNow, close]
    rfl
  · refine completes_snapCmd rfl ho idle ⟨fun off => ?_, fun ok alone => ?_, fun ok meets => ?_⟩
    · rw [snapAt, snapRefusal_time off]
      rfl
    · rw [snapAt, ok, schedule_adds (s := snapStatus 0 s) alone]
      rfl
    · rw [snapAt, ok, schedule_merges (s := snapStatus 0 s) meets]
      rfl
  · refine completes_snapCmd rfl ho idle ⟨fun refused => ?_, fun ok alone => ?_⟩
    · rw [blockAt]
      exact congrArg State.tly (if_pos (by simpa using refused))
    · rw [blockAt, ok, schedule_adds (s := snapStatus 0 s) alone]
      exact ⟨congrArg (·.status) (sendBoth_kept.e_tly (by decide)), congrArg (·.pend) (sendBoth_kept.e_tly (by decide))⟩
  · refine completes_snapCmd rfl ho idle ?_
    rw [snapCancel]
    by_cases here : ∃ v, v ∈ s.tly.pend ∧ v.id = id
    · obtain ⟨v, hv, same⟩ := here
      have any : s.tly.pend.any (fun v => v.id == id) = true := List.any_eq_true.2 ⟨v, hv, beq_iff_eq.2 same⟩
      rw [if_pos ⟨v, hv, same⟩, any]
      rfl
    · have none_ : ¬ s.tly.pend.any (fun v => v.id == id) = true := by
        rw [List.any_eq_true]
        rintro ⟨v, hv, same⟩
        exact here ⟨v, hv, beq_iff_eq.1 same⟩
      rw [if_neg here, if_neg none_]
      rfl
  · refine completes_ring rfl heard own ?_
    rw [blockSnap_joined (s := ringUser lane codes b s) joined other]
    have hop : Kept [.svc, .out] (ringUser lane codes b s) (forwardRing lane 0x24 b false (ringUser lane codes b s)) := forwardRing_kept
    have tly : (forwardRing lane 0x24 b false (ringUser lane codes b s)).tly = s.tly := hop.e_tly (by decide)
    have now : (forwardRing lane 0x24 b false (ringUser lane codes b s)).now = s.now := by rw [State.now, hop.e_tmb (by decide)]; rfl
    rw [takeSnap_adds (by rw [State.snapKnown, tly]; exact news) (by rw [now, snapInstant_toNat]; exact ahead) (by rw [tly]; exact alone) (by rw [tly]; exact room), tly]
  · have counted : OnlyCounted s u := hu ▸ onlyCounted_elapse dt s
    have pend_u : u.tly.pend = [v] := by rw [counted, pend]
    have first : firstDue u.now u.tly.pend = some v := by
      rw [pend_u]
      exact if_neg (Nat.not_lt.2 due)
    have dropped : dropSnap v.id u.tly.pend = [] := by
      rw [pend_u]
      exact if_pos rfl
    have run : exec (.snapshotInstant dt) s = .next (latch v (u.steppedPast v) { u with tly.pend := [] }) := by
      subst hu
      refine congrArg Host.Outcome.next ?_
      simp only [snapshotInstant, first, dropped]
    have slots : u.imgSlots = s.imgSlots := by rw [State.imgSlots, counted]; rfl
    obtain ⟨copying, _, _, none_⟩ := latch_copies (s := { u with tly.pend := [] }) (v := v) (stepped := u.steppedPast v) (by rw [counted]; exact free)
      (by
        show (u.tly.imgHead.toNat + 1) % u.imgSlots ≠ u.tly.imgTail.toNat % u.imgSlots
        rw [slots, counted]
        exact room)
    exact completes_next run ⟨none_, _, copying, rfl, rfl, rfl, rfl⟩
  · refine completes_next (congrArg Host.Outcome.next (snapshotCopyDone_copies copying)) ⟨?_, ?_, ?_, ?_, ?_, ?_⟩
    · rw [← ha]
      exact rdMem_written fits (fire_kept.e_ram (by decide)) (fire_nv _ _)
    · rw [fire_kept.e_tly (by decide)]
    · rw [fire_kept.e_tly (by decide)]
    · rw [fire_kept.e_tly (by decide)]
    · rw [fire_kept.e_tly (by decide)]
    · rw [fire_kept.e_tly (by decide)]
      rfl
  · refine completes_next (congrArg Host.Outcome.next ((tagRecord_kept_district on keeps).trans (if_neg (by simpa using room)))) ⟨?_, rfl⟩
    have read := rdMem_written (s := tagTaken c.val s) (t := wrMem (tagTaken c.val s) (s.tly.tagBase.toNat + s.tly.tagHead.toNat % s.tagSlots * 32) (bytesOfWords (tagWords c.val r)))
      (by rw [tagWords_length]; exact fits) rfl rfl
    rw [tagWords_length] at read
    exact read
  · refine completes_next (congrArg Host.Outcome.next ((tagRecord_kept_district on keeps).trans (if_pos (by simpa using full)))) ⟨rfl, rfl, rfl⟩

end

/-! SUPPORT. The twin mirror (R371 to R373): whose a twin message is, what the holder stores and acknowledges, and what it sends to a spare. -/
namespace Sys2Proof.Machine
open Sys2Proof

section
variable {s t u : State} {lane : Fin 2} {codes : List Code} {type : Byte} {b : List Byte} {i : Instr} {P : State → Prop} {f : State → State} {n : Nat}

@[simp] theorem heardOn_res : (heardOn lane codes s).res = s.res := rfl
@[simp] theorem heardOn_nv : (heardOn lane codes s).nv = s.nv := rfl
@[simp] theorem heardOn_inBlock : (heardOn lane codes s).inBlock = s.inBlock := rfl
@[simp] theorem heardOn_ringLane (west : Bool) : (heardOn lane codes s).ringLane west = s.ringLane west := rfl
@[simp] theorem heardOn_out : (heardOn lane codes s).out = s.out := rfl
@[simp] theorem heardOn_txSeq (n : Nat) : ((heardOn lane codes s).svcLane n).txSeq = (s.svcLane n).txSeq := (heardOn_svcLane n).2
theorem heardOn_same : ∃ v, heardOn lane codes s = { s with svc := v } := ⟨_, rfl⟩

/-- A message sent on a ring lane, from a state that the lanes' characters only have changed. -/
theorem heardOn_sends (heard : HearsRing s lane codes type b) (west : Bool) (ty : Nat) (payload : List Byte) : ∃ m,
    (sendRing west ty payload (heardOn lane codes s)).out = m :: s.out ∧ Carries (s.ringLane west) ty (s.svcLane (s.ringLane west)).txSeq payload false m := by
  obtain ⟨m, sent, carried⟩ := sendRing_out (s := heardOn lane codes s) heard.1 west ty payload
  rw [heardOn_ringLane, heardOn_txSeq] at carried
  exact ⟨m, sent, carried⟩

/-- A ring message reaches its user. -/
theorem completes_onRing {f : List Byte → State → State} (run : exec i s = .next (onRing lane type codes f s)) (heard : HearsRing s lane codes type b)
    (h : P (f b (heardOn lane codes s))) : Completes i s P :=
  completes_next (run.trans (congrArg Host.Outcome.next (onRing_hears heard))) h

/-- A twin message for this device is its user's. -/
theorem twinMsg_own (member : s.inBlock = true) (own : twinDst b = s.nv.devid) : twinMsg lane n b f s = f s := by
  rw [twinMsg, member, own]
  simp
/-- One for another device goes on out of the other ring lane, one hop further. -/
theorem twinMsg_forward (member : s.inBlock = true) (other : twinDst b ≠ s.nv.devid) (far : twinHops b ≠ 255) (src : twinSrc b ≠ s.nv.devid) :
    twinMsg lane n b f s = sendRing (!isWest lane) n (overlay b 16 (toLE 1 (twinHops b + 1))) s := by
  rw [twinMsg, member, beq_false_of_ne other, beq_false_of_ne far, beq_false_of_ne src]
  rfl
/-- One that has gone round, or that this device sent, ends here. -/
theorem twinMsg_ends (other : twinDst b ≠ s.nv.devid) (last : twinHops b = 255 ∨ twinSrc b = s.nv.devid) : twinMsg lane n b f s = s := by
  have ends : (twinHops b == 255 || twinSrc b == s.nv.devid) = true := by simpa using last
  rw [twinMsg, beq_false_of_ne other, ends]
  simp

/-- The user of a twin message for this device. -/
theorem completes_twin {f : List Byte → State → State} (run : exec i s = .next (onRing lane type codes (fun msg => twinMsg lane n msg (f msg)) s))
    (heard : HearsRing s lane codes type b) (own : twinDst b = s.nv.devid) (h : P (f b (heardOn lane codes s))) : Completes i s P :=
  completes_onRing run heard ((congrArg P (twinMsg_own (s := heardOn lane codes s) heard.1 own)).mpr h)

/-- The commands that carry a twin message, each with its TYPE (R372). -/
def TwinCommand (lane : Fin 2) (codes : List Code) (c : Instr) (type : Byte) : Prop :=
  (c = .jrnl lane codes ∧ type = 0x40) ∨ (c = .jrnlAck lane codes ∧ type = 0x41) ∨ (c = .pullRequest lane codes ∧ type = 0x42) ∨ (c = .hdr lane codes ∧ type = 0x43) ∨
    (c = .twinSnap lane codes ∧ type = 0x44) ∨ (c = .twinEnd lane codes ∧ type = 0x45) ∨ (c = .nack lane codes ∧ type = 0x46)
theorem exec_twinCommand (is : TwinCommand lane codes i type) (s : State) :
    ∃ f : List Byte → State → State, exec i s = .next (onRing lane type codes (fun msg => twinMsg lane type.toNat msg (f msg)) s) := by
  rcases is with ⟨rfl, rfl⟩ | ⟨rfl, rfl⟩ | ⟨rfl, rfl⟩ | ⟨rfl, rfl⟩ | ⟨rfl, rfl⟩ | ⟨rfl, rfl⟩ | ⟨rfl, rfl⟩ <;> exact ⟨_, rfl⟩

/-! ### The holder's mirrors -/

theorem setMirror_self (s : State) (w : Bool) (m : Mirror) : (s.setMirror w m).mirror w = m := by cases w <;> rfl
theorem setMirror_other (s : State) (w : Bool) (m : Mirror) : (s.setMirror w m).mirror (!w) = s.mirror (!w) := by cases w <;> rfl
theorem setMirror_addr (s : State) (w v : Bool) (m : Mirror) : (s.setMirror w m).mirrorAddr v = s.mirrorAddr v := by cases w <;> rfl
theorem mirror_congr (res : t.res = s.res) (w : Bool) : t.mirror w = s.mirror w := by rw [State.mirror, State.mirror, res]

theorem slice_length (b : List Byte) (off n : Nat) : (slice b off n).length = n := by simp [slice]

/-- The first record stored in an empty mirror that has room for it. -/
theorem storeRecs_first {half : Nat} {r : List Byte} {m : Mirror} (seq : m.seq = 0) (st : m.st = .complete) (empty : m.recs = []) (keeps : onlyRemoves r = false)
    (len : r.length = 32) (room : 32 ≤ half) : storeRecs half [r] 1 m = { m with recs := [r], seq := 1 } := by
  have added : addRec m.recs r = [r] := by rw [empty, addRec, List.getLast?_nil, keeps]; rfl
  have fits : ¬ half < (([r].map List.length).foldl (· + ·) 0) := by simp [len]; omega
  have new : ((decide (1 ≤ m.seq.toNat)) || m.st == .full) = false := by rw [seq, st]; rfl
  rw [storeRecs, new, if_neg Bool.false_ne_true, added, if_neg fits]
  rfl

/-- A journal that starts, with one record: the mirror holds it alone, and its bytes stand in memory. -/
theorem takeJournal_starts {r : List Byte} {w : Bool} (first : u64At b 24 = 1) (count : u16At b 32 = 1) (hr : r = slice b 40 32) (keeps : onlyRemoves r = false)
    (hw : w = s.mirrorFor lane (twinSrc b)) (room : 32 ≤ s.mirrorHalf) :
    takeJournal lane b s = wrMem (s.setMirror w ⟨.complete, twinSrc b, 1, 0, s.clk, [r]⟩) (s.mirrorAddr w) r := by
  have len : r.length = 32 := by rw [hr, slice_length]
  have recs : (List.range (min 60 1)).map (fun i => slice b (40 + 32 * i) 32) = [r] := by rw [hr]; rfl
  unfold takeJournal
  dsimp only
  rw [first, count, recs, ← hw]
  simp only [Nat.reduceLT, beq_self_eq_true, Bool.or_true, bne_self_eq_false, Bool.and_false, Bool.false_and, decide_false, Nat.reduceBEq, Bool.or_self, Bool.false_eq_true, if_false, if_true]
  rw [storeRecs_first rfl rfl rfl keeps len room]
  simp

/-- A journal that lacks records before its first is not stored. -/
theorem takeJournal_gap (held : (s.mirror (s.mirrorFor lane (twinSrc b))).st ≠ .none) (dev : (s.mirror (s.mirrorFor lane (twinSrc b))).dev = twinSrc b)
    (first : u64At b 24 ≠ 1) (gap : (s.mirror (s.mirrorFor lane (twinSrc b))).seq.toNat + 1 < u64At b 24) : takeJournal lane b s = s := by
  unfold takeJournal
  dsimp only
  split
  · rfl
  · exact if_pos (by simp [held, dev, first, gap])

/-! ### The device's own journal -/

/-- Who the device's own mirror is held by: the neighbour on the side that the plat names (R55). -/
def FromHolder (s : State) (lane : Fin 2) (b : List Byte) : Prop :=
  s.twin ≠ 0 ∧ isWest lane = (s.twin == 2) ∧ twinSrc b = Config.neighbour s.nv.devid (!isWest lane)
theorem FromHolder.taken (h : FromHolder s lane b) :
    (s.twin == 0 || isWest lane != (s.twin == 2) || twinSrc b != Config.neighbour s.nv.devid (!(s.twin == 2))) = false := by
  obtain ⟨twin, side, src⟩ := h
  rw [beq_false_of_ne twin, src, ← side]
  simp

/-- An acknowledgement frees the records up to its SEQ. -/
theorem mirrorAcked_frees (from_ : FromHolder s lane b) (own : s.res.own ≠ .lagging) (sent : u64At b 24 < s.res.nextSeq.toNat) :
    (mirrorAcked lane b s).res.journal = s.res.journal.filter (fun r => decide (u64At b 24 < r.seq.toNat)) ∧ (mirrorAcked lane b s).res.nextSeq = s.res.nextSeq ∧
    (mirrorAcked lane b s).res.own = if (mirrorAcked lane b s).res.journal = [] then .current else s.res.own := by
  unfold mirrorAcked
  simp only [from_.taken, Bool.false_eq_true, if_false, beq_false_of_ne own, if_neg (Nat.not_le.mpr sent)]
  split
  · rw [sendJrnl_kept.e_res (by decide)]
    simp only [List.isEmpty_iff, and_self]
  · simp only [List.isEmpty_iff, and_self]

/-- A full snapshot: its records in order, SEQ from 1 (R373). -/
theorem sendSnapshot_res (own : MirOwn) (s : State) : (sendSnapshot own s).res.own = own ∧
    (sendSnapshot own s).res.journal = s.snapshot.mapIdx (fun i e => JRec.mk (BitVec.ofNat 64 (i + 1)) e.1 e.2) := by
  unfold sendSnapshot
  rw [(forEach_kept fun l t => sendJrnl_kept (l := l) (s := t)).e_res (by decide)]
  exact ⟨rfl, rfl⟩
theorem mirrorAcked_lagging (from_ : FromHolder s lane b) (own : s.res.own = .lagging) : mirrorAcked lane b s = sendSnapshot .current s := by
  unfold mirrorAcked
  simp only [from_.taken, Bool.false_eq_true, if_false, own]
  rfl

theorem mapIdx_seqs (l : List (Bool × List Byte)) : (l.mapIdx (fun i e => JRec.mk (BitVec.ofNat 64 (i + 1)) e.1 e.2)).map (·.bytes) = l.map (·.2) ∧
    (l.mapIdx (fun i e => JRec.mk (BitVec.ofNat 64 (i + 1)) e.1 e.2)).map (·.seq.toNat) = (List.range l.length).map (fun i => (i + 1) % 2 ^ 64) := by
  constructor <;> refine List.ext_getElem (by simp) fun i _ _ => ?_
  · simp
  · simp [BitVec.toNat_ofNat]

/-- The acknowledgement of a mirror, once its interval is over (R373). -/
theorem mirrorAck_due (held : (s.mirror (isWest lane)).st ≠ .none) (due : 10000000 ≤ s.clk - (s.mirror (isWest lane)).ackAt) :
    mirrorAck lane s = sendRing (isWest lane) 0x41 (twinHead s.nv.devid (s.mirror (isWest lane)).dev 0 ++ toLE 8 (s.mirror (isWest lane)).seq.toNat)
      (s.setMirror (isWest lane) { s.mirror (isWest lane) with acked := (s.mirror (isWest lane)).seq, ackAt := s.clk }) := by
  have every : (if (s.mirror (isWest lane)).seq == (s.mirror (isWest lane)).acked then 10000000 else 100000) ≤ s.clk - (s.mirror (isWest lane)).ackAt := by
    split <;> omega
  refine if_neg ?_
  simp only [beq_false_of_ne held, Bool.false_or, decide_eq_true_eq]
  exact Nat.not_lt.mpr every

/-! ### What the holder answers to a spare -/

/-- The message that answers a PULL, of the holder to the spare. -/
def sendPeer (lane : Fin 2) (b : List Byte) (type : Nat) (body : List Byte) (s : State) : State :=
  sendRing (isWest lane) type (twinHead s.nv.devid (twinSrc b) 0 ++ body) s

theorem answerPull_none (east : s.res.east.st = .none ∨ s.res.east.dev ≠ BitVec.ofNat 64 (u64At b 24)) (west : s.res.west.st = .none ∨ s.res.west.dev ≠ BitVec.ofNat 64 (u64At b 24)) :
    answerPull lane b s = sendPeer lane b 0x46 (toLE 1 1) s := by
  have missing : [s.res.east, s.res.west].find? (fun m => m.st != .none && m.dev == BitVec.ofNat 64 (u64At b 24)) = none := by
    simp only [List.find?_eq_none, List.mem_cons, List.not_mem_nil, or_false, Bool.and_eq_true, bne_iff_ne, beq_iff_eq]
    rintro m (rfl | rfl) ⟨held, dev⟩
    · exact east.elim held (absurd dev)
    · exact west.elim held (absurd dev)
  simp only [answerPull, missing, sendPeer]

theorem found_east (st : s.res.east.st ≠ .none) (dev : s.res.east.dev = BitVec.ofNat 64 (u64At b 24)) :
    [s.res.east, s.res.west].find? (fun m => m.st != .none && m.dev == BitVec.ofNat 64 (u64At b 24)) = some s.res.east :=
  List.find?_cons_of_pos (by rw [dev, bne_iff_ne.mpr st]; simp)
theorem answerPull_full (full : s.res.east.st = .full) (dev : s.res.east.dev = BitVec.ofNat 64 (u64At b 24)) :
    answerPull lane b s = sendPeer lane b 0x46 (toLE 1 2) s := by
  have found := found_east (by rw [full]; decide) dev
  simp only [answerPull, found, full, sendPeer]
  rfl
theorem answerPull_complete {r : List Byte} (st : s.res.east.st = .complete) (dev : s.res.east.dev = BitVec.ofNat 64 (u64At b 24)) (recs : s.res.east.recs = [r])
    (closed : openRec r = false) (len : r.length = 32) :
    answerPull lane b s = sendPeer lane b 0x45 (toLE 4 (crc32c r)) (sendPeer lane b 0x44 (toLE 8 0 ++ r)
      (sendPeer lane b 0x43 (digestBytes (Config.mirrorDigest s.res.east.dev) ++ toLE 8 1 ++ toLE 8 s.res.east.seq.toNat) s)) := by
  have found := found_east (by rw [st]; decide) dev
  have bytes : [r].flatMap id = r := by simp
  have some_ : r.isEmpty = false := by cases r with | nil => cases len | cons => rfl
  simp only [answerPull, found, st, recs, sendPeer]
  simp only [List.getLast?_singleton, Option.map_some, Option.getD_some, closed, bne_self_eq_false, Bool.or_self, Bool.false_eq_true, if_false, bytes, len]
  rw [sendSnaps, some_, if_neg Bool.false_ne_true, List.drop_eq_nil_of_le (by omega), List.take_of_length_le (by omega), sendSnaps, if_pos List.isEmpty_nil, ← dev, List.append_assoc]

theorem sendPeer_kept {ty : Nat} {body : List Byte} : Kept [.svc, .out] s (sendPeer lane b ty body s) := sendRing_kept
/-- Each message to the spare is the next emission on the ring lane that it asked on. -/
theorem sendPeer_out (plt : s.plt = u.plt) (nv : s.nv = u.nv) (member : u.inBlock = true) (ty : Nat) (body : List Byte) : ∃ m,
    (sendPeer lane b ty body s).out = m :: s.out ∧
      Carries (u.ringLane (isWest lane)) ty (s.svcLane (u.ringLane (isWest lane))).txSeq (twinHead u.nv.devid (twinSrc b) 0 ++ body) false m := by
  have same : s.ringLane (isWest lane) = u.ringLane (isWest lane) := by rw [State.ringLane, State.ringLane, plt]
  have member' : s.inBlock = true := by rw [State.inBlock, plt]; exact member
  obtain ⟨m, sent, carried⟩ := sendRing_out member' (isWest lane) ty (twinHead s.nv.devid (twinSrc b) 0 ++ body)
  rw [same, nv] at carried
  exact ⟨m, sent, carried⟩
/-- Three messages to the spare, one after the other. -/
theorem sendPeer_three (member : s.inBlock = true) (t0 t1 t2 : Nat) (x0 x1 x2 : List Byte) : ∃ q0 q1 q2 m0 m1 m2,
    (sendPeer lane b t2 x2 (sendPeer lane b t1 x1 (sendPeer lane b t0 x0 s))).out = m2 :: m1 :: m0 :: s.out ∧
    Carries (s.ringLane (isWest lane)) t0 q0 (twinHead s.nv.devid (twinSrc b) 0 ++ x0) false m0 ∧
    Carries (s.ringLane (isWest lane)) t1 q1 (twinHead s.nv.devid (twinSrc b) 0 ++ x1) false m1 ∧
    Carries (s.ringLane (isWest lane)) t2 q2 (twinHead s.nv.devid (twinSrc b) 0 ++ x2) false m2 := by
  have first : Kept [.svc, .out] s (sendPeer lane b t0 x0 s) := sendPeer_kept
  have second : Kept [.svc, .out] s (sendPeer lane b t1 x1 (sendPeer lane b t0 x0 s)) := first.trans sendPeer_kept
  obtain ⟨m0, sent0, carried0⟩ := sendPeer_out (lane := lane) (b := b) (s := s) rfl rfl member t0 x0
  obtain ⟨m1, sent1, carried1⟩ := sendPeer_out (lane := lane) (b := b) (first.e_plt (by decide)) (first.e_nv (by decide)) member t1 x1
  obtain ⟨m2, sent2, carried2⟩ := sendPeer_out (lane := lane) (b := b) (second.e_plt (by decide)) (second.e_nv (by decide)) member t2 x2
  exact ⟨_, _, _, m0, m1, m2, by rw [sent2, sent1, sent0], carried0, carried1, carried2⟩

end
end Sys2Proof.Machine

section
open Sys2Proof Sys2Proof.Machine
/-- Settles O50: a twin message goes on, ends, or reaches its user; the user is the journal's store, its acknowledgement, or the answer to a PULL. -/
theorem twinMirrorComplete : Obligations.TwinMirrorComplete := by
  unfold Obligations.TwinMirrorComplete
  refine ⟨?_, ?_, ?_, ?_, ?_, ?_, ?_, ?_, ?_, ?_⟩
  · intro l codes b n c s heard other far src is
    obtain ⟨f, run⟩ := exec_twinCommand is s
    refine completes_onRing run heard ?_
    rw [twinMsg_forward (s := heardOn l codes s) heard.1 other far src]
    exact ⟨(sendRing_kept.e_res (by decide)), sendRing_kept.e_fwd (by decide), heardOn_sends heard ..⟩
  · intro l codes b n c s heard other last is
    obtain ⟨f, run⟩ := exec_twinCommand is s
    refine completes_onRing run heard ?_
    rw [twinMsg_ends (s := heardOn l codes s) other last]
    exact heardOn_same
  · intro l codes b r w s heard own first count hr keeps hw room fits
    refine completes_twin rfl heard own ?_
    rw [takeJournal_starts (s := heardOn l codes s) first count hr keeps hw room]
    have len : r.length = 32 := by rw [hr, slice_length]
    refine ⟨setMirror_self .., ?_, setMirror_other ..⟩
    have read := rdMem_wrMem ((heardOn l codes s).setMirror w ⟨.complete, twinSrc b, 1, 0, s.clk, [r]⟩) (s.mirrorAddr w) (b := r)
    rw [len] at read
    exact read (by cases w <;> exact fits)
  · intro l codes b w s heard own _ hw held dev first gap
    subst hw
    refine completes_twin rfl heard own ?_
    rw [takeJournal_gap (s := heardOn l codes s) held dev first gap]
    exact heardOn_same
  · intro l codes b s heard own twin side src lag sent
    exact completes_twin rfl heard own (mirrorAcked_frees (s := heardOn l codes s) ⟨twin, side, src⟩ lag sent)
  · intro l codes b s heard own twin side src lag
    refine completes_twin rfl heard own ?_
    obtain ⟨current, records⟩ := sendSnapshot_res .current (heardOn l codes s)
    rw [mirrorAcked_lagging (s := heardOn l codes s) ⟨twin, side, src⟩ lag, current, records]
    exact ⟨rfl, mapIdx_seqs s.snapshot⟩
  · intro dt l s member held due
    have same : (elapse dt s).mirror (isWest l) = s.mirror (isWest l) := mirror_congr (elapse_kept.e_res (by decide)) _
    have run := mirrorAck_due (s := elapse dt s) (lane := l) (by rw [same]; exact held) (by rw [same, elapse_clk]; exact due)
    rw [same, elapse_nv] at run
    have kept : Kept [.res] (elapse dt s) ((elapse dt s).setMirror (isWest l) { s.mirror (isWest l) with acked := (s.mirror (isWest l)).seq, ackAt := (elapse dt s).clk }) :=
      State.setMirror_kept
    refine completes_next rfl ?_
    rw [run, mirror_congr (sendRing_kept.e_res (by decide)), setMirror_self, elapse_clk]
    refine ⟨rfl, rfl, ?_⟩
    obtain ⟨m, sent, carried⟩ := sendRing_out (by rw [State.inBlock, kept.e_plt (by decide), elapse_plt]; exact member) (isWest l) 0x41
      (twinHead s.nv.devid (s.mirror (isWest l)).dev 0 ++ toLE 8 (s.mirror (isWest l)).seq.toNat)
    rw [kept.e_out (by decide)] at sent
    rw [State.ringLane, State.svcLane, kept.e_plt (by decide), kept.e_svc (by decide), elapse_plt, elapse_svc] at carried
    rw [elapse_clk] at sent
    exact ⟨m, sent, carried⟩
  · intro l codes b s heard own east west
    refine completes_twin rfl heard own ?_
    rw [answerPull_none (s := heardOn l codes s) east west]
    exact ⟨(sendRing_kept.e_res (by decide)), heardOn_sends heard ..⟩
  · intro l codes b s heard own full dev
    refine completes_twin rfl heard own ?_
    rw [answerPull_full (s := heardOn l codes s) full dev]
    exact ⟨(sendRing_kept.e_res (by decide)), heardOn_sends heard ..⟩
  · intro l codes b x r s heard own hx st dev recs closed len
    subst hx
    refine completes_twin rfl heard own ?_
    rw [answerPull_complete (s := heardOn l codes s) st dev recs closed len]
    obtain ⟨q0, q1, q2, m0, m1, m2, sent, carried0, carried1, carried2⟩ := sendPeer_three (lane := l) (b := b) (s := heardOn l codes s) heard.1
      0x43 0x44 0x45 (digestBytes (Config.mirrorDigest s.res.east.dev) ++ toLE 8 1 ++ toLE 8 s.res.east.seq.toNat) (toLE 8 0 ++ r) (toLE 4 (crc32c r))
    refine ⟨((sendPeer_kept.trans sendPeer_kept).trans sendPeer_kept).e_res (by decide), q0, q1, q2, m0, m1, m2, sent, carried0, ?_, carried2⟩
    rw [List.append_assoc]
    exact carried1
end

/-! SUPPORT. PULL on a spare (R374, R375): whose messages it hears, how it ends, and one record of the snapshot applied. -/
namespace Sys2Proof.Machine
open Sys2Proof

section
variable {s t : State} {lane : Fin 2} {codes : List Code} {type : Byte} {b r : List Byte} {i : Instr} {P : State → Prop} {o : PullOp} {n : Nat}

/-- What the end of a PULL leaves of RES. -/
theorem endPull_res (status result : Nat) (s : State) : (endPull status result s).res =
    { s.res with pullOp := none, spareBusy := false, spareStatus := BitVec.ofNat 8 status, spareResult := BitVec.ofNat 4 result } := fire_res _ _

/-- The holder's message reaches a PULL that runs. -/
theorem completes_pull {f : List Byte → PullOp → State → State} (run : exec i s = .next (onRing lane type codes (fun msg => pullMsg lane n msg (f msg)) s))
    (heard : HearsRing s lane codes type b) (own : twinDst b = s.nv.devid) (op : s.res.pullOp = some o) (src : twinSrc b = s.res.spareHold)
    (h : P (f b o (heardOn lane codes s))) : Completes i s P := by
  refine completes_twin (f := fun msg u => match u.res.pullOp with
    | some o => if twinSrc msg == u.res.spareHold then f msg o u else u
    | none => u) run heard own ?_
  simp only [heardOn_res, op, src, beq_self_eq_true, if_true]
  exact h

/-- A message of another device, or without a PULL, changes nothing. -/
theorem pullMsg_other {f : PullOp → State → State} (member : s.inBlock = true) (own : twinDst b = s.nv.devid)
    (other : s.res.pullOp = none ∨ twinSrc b ≠ s.res.spareHold) : pullMsg lane n b f s = s := by
  rw [pullMsg, twinMsg_own member own]
  cases op : s.res.pullOp with
  | none => rfl
  | some o => exact if_neg (by simpa [op] using other)

/-- The commands that carry a message for a PULL, each with its TYPE (R374). -/
def PullCommand (lane : Fin 2) (codes : List Code) (c : Instr) (type : Byte) : Prop :=
  (c = .hdr lane codes ∧ type = 0x43) ∨ (c = .twinSnap lane codes ∧ type = 0x44) ∨ (c = .twinEnd lane codes ∧ type = 0x45) ∨ (c = .nack lane codes ∧ type = 0x46)
theorem exec_pullCommand (is : PullCommand lane codes i type) (s : State) :
    ∃ f : List Byte → PullOp → State → State, exec i s = .next (onRing lane type codes (fun msg => pullMsg lane type.toNat msg (f msg)) s) := by
  rcases is with ⟨rfl, rfl⟩ | ⟨rfl, rfl⟩ | ⟨rfl, rfl⟩ | ⟨rfl, rfl⟩ <;> exact ⟨_, rfl⟩

/-- The spare's state as its request goes out (R374). -/
def pullStarted (s : State) : State :=
  { s with res.spareBusy := true, res.spareStatus := 0, res.spareResult := 1, res.noImage := 0, res.refused := 0, res.pullOp := some ⟨false, 0, 0, s.clk, [], 0xFFFFFFFF⟩ }
/-- What PULL does on the owner's port. -/
def pullAsked (s : State) : State :=
  if s.res.spareBusy then { s with res.spareReject := true }
  else if s.glb.state != .ready then { s with res.spareStatus := 2 }
  else sendRing false 0x42 (twinHead s.nv.devid s.res.spareHold 0 ++ toLE 8 s.res.spareDev.toNat) (pullStarted s)
theorem exec_pull (p : HPort) (s : State) : exec (.pull p) s = .next (hostWrite p false pullAsked s) := rfl
theorem pullAsked_sends (idle : s.res.spareBusy = false) (ready : s.glb.state = .ready) :
    pullAsked s = sendRing false 0x42 (twinHead s.nv.devid s.res.spareHold 0 ++ toLE 8 s.res.spareDev.toNat) (pullStarted s) := by
  rw [pullAsked, idle, ready]
  rfl
theorem pullAsked_unready (idle : s.res.spareBusy = false) (other : s.glb.state ≠ .ready) : pullAsked s = { s with res.spareStatus := 2 } := by
  rw [pullAsked, idle, bne_iff_ne.mpr other]
  rfl
theorem pullAsked_busy (busy : s.res.spareBusy = true) : pullAsked s = { s with res.spareReject := true } := if_pos busy

/-! ### Records -/

/-- The journal leaves a PULL as it stands. -/
theorem journal_pullOp (kind wseq : Nat) (body : List Byte) (s : State) : (journal kind wseq body s).res.pullOp = s.res.pullOp := by
  unfold journal journalRec
  dsimp only
  split
  · rfl
  · split
    · rfl
    · rw [sendJrnl_kept.e_res (by decide)]

/-- A TF record is whole: no continuation records follow it. -/
theorem closed_tf (len : r.length = 32) (kind : u8At r 0 = 2) : openRec r = false := by
  rw [openRec, contCount, kind, len]
  rfl

theorem chopAll_one (len : r.length = 32) : (chopAll 32 r).filter (fun r => r.length == 32) = [r] := by
  have pieces : chopAll 32 r = [r] := by
    cases r with
    | nil => cases len
    | cons a l =>
      rw [chopAll, len, chop, List.take_of_length_le (by omega), List.drop_eq_nil_of_le (by omega)]
      · rfl
      · exact fun h => nomatch h
  rw [pieces, List.filter_cons_of_pos (by rw [len]; rfl), List.filter_nil]

/-- The TF entry that a record spells (R371). -/
def recTf (r : List Byte) : TfEnt :=
  ⟨BitVec.ofNat 32 (u32At r 12), BitVec.ofNat 32 (u32At r 16), BitVec.ofNat 32 (u32At r 20), BitVec.ofNat 32 (u32At r 24)⟩
theorem applyTf_tf (r : List Byte) (s : State) : (applyTf r s).mil.tf = tset TfEnt.zero s.mil.tf (u32At r 8) (recTf r) := by
  unfold applyTf
  rw [journal_kept.e_mil (by decide)]
  rfl
theorem applyTf_pullOp (r : List Byte) (s : State) : (applyTf r s).res.pullOp = s.res.pullOp := journal_pullOp ..

/-- A whole TF record is applied and counted. -/
theorem takeRec_tf (op : s.res.pullOp = some o) (whole : o.part = []) (len : r.length = 32) (kind : u8At r 0 = 2) :
    takeRec r s = applyTf r { s with res.pullOp := some { o with applied := o.applied + 1, crc := crcR 0x82F63B78 o.crc r } } := by
  unfold takeRec
  simp only [op, whole, List.nil_append, closed_tf len kind, Bool.false_eq_true, if_false, applyRec, kind]

end
end Sys2Proof.Machine

section
open Sys2Proof Sys2Proof.Machine
/-- Settles O51: the command sends the request or is refused; the holder's messages reach the PULL that runs, and each end of it leaves its STATUS and RESULT. -/
theorem spareBringInComplete : Obligations.SpareBringInComplete := by
  unfold Obligations.SpareBringInComplete
  refine ⟨?_, ?_, ?_, ?_, ?_, ?_, ?_, ?_, ?_, ?_, ?_⟩
  · intro p s ho idle ready member
    refine completes_owner (exec_pull p s) ho ?_
    rw [pullAsked_sends idle ready, sendRing_kept.e_res (by decide)]
    exact ⟨rfl, rfl, rfl, rfl, rfl, sendRing_out (s := pullStarted s) member ..⟩
  · intro p s ho idle other
    refine completes_owner (exec_pull p s) ho ?_
    rw [pullAsked_unready idle other]
    exact ⟨rfl, rfl⟩
  · intro p s ho busy
    refine completes_owner (exec_pull p s) ho ?_
    rw [pullAsked_busy busy]
    exact ⟨rfl, rfl⟩
  · intro p s ho
    refine completes_owner rfl ho ⟨fun idle => ?_, fun runs => ?_⟩
    · simp only [idle, Option.isSome_none, Bool.false_eq_true, if_false]
    · rw [if_pos (Option.isSome_iff_ne_none.mpr runs), endPull_res]
      rfl
  · intro l codes b o s heard own op src fresh
    refine completes_pull rfl heard own op src ⟨fun other => ?_, fun same => ?_⟩
    · have differs : ((heardOn l codes s).plt.active != some (digestOf (slice b 24 32))) = true := bne_iff_ne.mpr other
      simp only [fresh, Bool.false_eq_true, if_false, differs, if_true]
      exact ⟨endPull_res .., endPull_kept.e_fwd (by decide), endPull_kept.e_mil (by decide), (endPull_kept.e_lnd (by decide))⟩
    · have matches_ : ((heardOn l codes s).plt.active != some (digestOf (slice b 24 32))) = false := bne_eq_false_iff_eq.mpr same
      simp only [fresh, Bool.false_eq_true, if_false, matches_]
      exact ⟨rfl, rfl, rfl, rfl⟩
  · intro l codes b o r s heard own op src hdr whole off more len hr kind
    have len' : r.length = 32 := by rw [hr, List.length_drop, len]
    refine completes_pull rfl heard own op src ?_
    have next : (!o.hdr || u64At b 24 != o.applied) = false := by rw [hdr, off]; simp
    have one : [r].take (o.total.toNat - o.applied) = [r] := List.take_of_length_le (by simp; omega)
    simp only [next, Bool.false_eq_true, if_false, ← hr, chopAll_one len', one]
    rw [show ∀ u : State, forEach [r] takeRec u = takeRec r u from fun _ => rfl, takeRec_tf (o := { o with lastRx := s.clk }) rfl whole len' kind]
    refine ⟨fun k => ?_, ?_⟩
    · rw [applyTf_tf, tget_tset]
      rfl
    · rw [applyTf_pullOp, whole]
  · intro l codes b o s heard own op src hdr off
    refine completes_pull rfl heard own op src ?_
    rw [bne_iff_ne.mpr off, Bool.or_true, if_pos rfl]
    exact heardOn_same
  · intro l codes b o s heard own op src hdr all
    refine completes_pull rfl heard own op src ?_
    simp only [hdr, all, bne_self_eq_false, Bool.not_true, Bool.false_eq_true, if_false]
    by_cases crc : Nat.xor o.crc 0xFFFFFFFF = u32At b 24
    · simp only [crc, bne_self_eq_false, Bool.false_eq_true, if_false, if_true, endPull_res]
      rfl
    · rw [if_pos (bne_iff_ne.mpr crc), endPull_res, if_neg crc, if_neg crc]
      rfl
  · intro l codes b o s heard own op src
    refine completes_pull rfl heard own op src ?_
    exact ⟨endPull_res .., endPull_kept.e_fwd (by decide), (endPull_kept.e_mil (by decide))⟩
  · intro dt o s op
    have op' : (elapse dt s).res.pullOp = some o := by rw [elapse_kept.e_res (by decide), op]
    refine completes_next rfl ⟨fun late => ?_, fun early => ?_⟩
    · simp only [op', elapse_clk, if_pos late, endPull_res]
      exact ⟨by rw [elapse_kept.e_res (by decide)]; rfl, (endPull_kept.e_fwd (by decide)).trans (elapse_kept.e_fwd (by decide))⟩
    · simp only [op', elapse_clk, if_neg (Nat.not_le.mpr early)]
  · intro l codes b n c s heard own other is
    obtain ⟨f, run⟩ := exec_pullCommand is s
    refine completes_onRing run heard ?_
    rw [pullMsg_other (s := heardOn l codes s) heard.1 own other]
    exact heardOn_same
end

/-! SUPPORT. YIELD in a state whose binding table is not in canonical form (R286): a key that is listed twice, first without a binding. -/
namespace Sys2Proof.Machine
open Sys2Proof

/-- Core 0 of a cluster, one thread, the image of slot 0. -/
def yieldPlace (d : Nat) : Place := ⟨d, 1, 0, 1, true, false, 0⟩
/-- A resident binding of one READY thread. -/
def yieldBinding (d key : Nat) : Binding :=
  { Binding.new (yieldPlace d) 0 0 with resident := 1, threads := [(key, { Thread.reset with st := .ready })] }
/-- An image of one word, YIELD. -/
def yieldImage : List Byte := zeros 8 ++ toLE 4 1 ++ zeros 52 ++ toLE 8 (2 ^ 56)
def yieldThread : Th := ⟨0, 0, 0⟩
/-- Binding 5 stands in the table twice, and its second entry lists a thread by a key beyond the 128 of a binding, which is the identity of a thread of binding 6 on another cluster. -/
def yieldState : State :=
  { State.reset with
    mil.store := [(storeKey 0 0, yieldImage)]
    mil.binds := [(0, some (yieldBinding 0 0)), (5, none), (5, some (yieldBinding 0 130)), (6, some (yieldBinding 1 2))] }
def yieldNext : State := runMill yieldThread 0x01 (fun _ => {}) (fun _ s => .ok (yieldTo yieldThread s)) yieldState

theorem exec_yield : exec (.millYield yieldThread) yieldState = .next yieldNext := rfl
theorem yieldState_issues : Issues yieldThread 0x01 ⟨0, 0, 0, 0, 0, 0, 0⟩ yieldState :=
  ⟨by decide, ⟨yieldBinding 0 0, by decide⟩, by decide⟩
/-- Thread 770, of binding 6, counts as READY on core 0 by the second entry of binding 5. -/
theorem yieldState_readyOn : 770 ∈ yieldState.readyOn (yieldState.gcore yieldThread) := by decide
/-- Issuing takes both entries of binding 5 out, before YIELD reads the READY threads. -/
theorem yieldNext_owe : 770 ∉ (yieldNext.thread yieldThread).owe := by decide

end Sys2Proof.Machine

section
open Sys2Proof Sys2Proof.Machine
/-- Refutes O35: in a state whose binding table is not in canonical form, a thread that is READY on the core when YIELD issues is not among those that the thread then waits for. -/
theorem not_millScalarsComplete : ¬ Obligations.MillScalarsComplete := by
  unfold Obligations.MillScalarsComplete
  rintro ⟨-, yields, -⟩
  obtain ⟨t, run, -, -, owe⟩ := yields yieldThread yieldState yieldState_issues
  obtain rfl : yieldNext = t := by injection exec_yield.symm.trans run
  exact yieldNext_owe ((owe 770).mpr ⟨yieldState_readyOn, by decide⟩)
end

/-! SUPPORT. Faults of the Mill (R287): an instruction that breaks a rule, and what the fault leaves of the binding and of MIL. -/
namespace Sys2Proof.Machine
open Sys2Proof

section
variable {t : Th} {s u v : State} {b : Binding} {op code : Nat} {i : Ins} {ins : Instr} {used : Ins → Used} {body : Ins → State → MRes}

/-! ### What the record of a fault is kept by -/

/-- The record of a fault stays, and so does MIL_EVENT.FAULT. -/
structure KeepsFault (s u : State) : Prop where
  fault : u.mil.fault = s.mil.fault
  faultPc : u.mil.faultPc = s.mil.faultPc
  event : s.mil.event.getLsbD 0 = true → u.mil.event.getLsbD 0 = true

theorem KeepsFault.of_mil (h : u.mil = s.mil) : KeepsFault s u := ⟨by rw [h], by rw [h], by rw [h]; exact id⟩
theorem KeepsFault.setBind (bid : Nat) (v : Option Binding) : KeepsFault s (s.setBind bid v) := ⟨rfl, rfl, id⟩
theorem KeepsFault.trans (h : KeepsFault s u) (k : KeepsFault u v) : KeepsFault s v :=
  ⟨k.fault.trans h.fault, k.faultPc.trans h.faultPc, k.event ∘ h.event⟩

theorem setBit_keeps {w : Nat} {v : BitVec w} (i : Nat) {j : Nat} (h : v.getLsbD j = true) : (setBit v i true).getLsbD j = true := by
  rw [setBit, if_pos rfl, BitVec.getLsbD_or, h, Bool.true_or]
theorem raiseMil_keepsFault (i : Nat) (s : State) : KeepsFault s (raiseMil i s) := by
  unfold raiseMil
  split
  · exact .of_mil rfl
  · refine .trans (u := { s with mil.event := setBit s.mil.event i true }) ⟨rfl, rfl, setBit_keeps i⟩ (.of_mil fire_kept.e_mil)
theorem raiseMil_binds (i : Nat) (s : State) : (raiseMil i s).mil.binds = s.mil.binds := by
  unfold raiseMil
  split
  · rfl
  · rw [fire_kept.e_mil]
theorem raiseMil_event (s : State) : (raiseMil 0 s).mil.event.getLsbD 0 = true := by
  unfold raiseMil
  split
  · assumption
  · rw [fire_kept.e_mil]
    exact getLsbD_setBit_self _ (by decide)
theorem dropFlows_keepsFault (l : List (Pkt × Hop)) (s : State) : KeepsFault s (forEach l (fun e s => raiseMil 3 (dropFlow 48 e s)) s) :=
  forEach_invariant (P := KeepsFault s) (fun _ _ _ h => h.trans (.trans (.of_mil dropFlow_kept.e_mil) (raiseMil_keepsFault ..))) (.of_mil rfl)
theorem dropFlows_binds (l : List (Pkt × Hop)) (s : State) : (forEach l (fun e s => raiseMil 3 (dropFlow 48 e s)) s).mil.binds = s.mil.binds :=
  forEach_invariant (P := fun u => u.mil.binds = s.mil.binds) (fun _ _ _ h => (raiseMil_binds ..).trans ((congrArg Mil.binds dropFlow_kept.e_mil).trans h)) rfl

/-! ### The binding of a thread that faults -/

/-- Every thread of a table is stopped. -/
def Stopped (l : Tab Thread) : Prop := ∀ e ∈ l, e.2.st = .stopped
theorem Stopped.mapped {l : Tab Thread} {f : Thread → Thread} (h : ∀ x ∈ l, (f x.2).st = .stopped) : Stopped (l.map (fun e => (e.1, f e.2))) := by
  intro e he
  obtain ⟨x, hx, rfl⟩ := List.mem_map.mp he
  exact h x hx

/-- The binding after what its threads hold, and the outputs behind it, are dropped (R298). -/
def claimsDropped (b : Binding) : Binding :=
  { (b.putSide { b.side with
      yards := (b.side.yards.map (fun e => (e.1, e.2.filter (fun i => i.claimed.isNone)))).filter (fun e => !e.2.isEmpty)
      threads := b.side.threads.map (fun e => (e.1, { e.2 with item := [] })) }) with order := [], outs := [] }
/-- The flow items and outputs that are dropped. -/
def claimsLost (b : Binding) : List (Pkt × Hop) :=
  ((b.side.yards.flatMap (·.2)).filter (fun i => i.claimed.isSome && i.live)).filterMap YItem.flow? ++ b.outs.filterMap FlowOut.flow?
theorem dropClaimed_eq {bid : Nat} (h : s.bindOf bid = some b) :
    dropClaimed bid s = forEach (claimsLost b) (fun e s => raiseMil 3 (dropFlow 48 e s)) (s.setBind bid (some (claimsDropped b))) := by
  unfold dropClaimed
  rw [h]
  rfl
theorem claimsDropped_threads (place : b.oldPlace = none) : (claimsDropped b).threads = b.threads.map (fun e => (e.1, { e.2 with item := [] })) := by
  simp only [claimsDropped, Binding.putSide, place, Binding.side]
theorem claimsDropped_place (place : b.oldPlace = none) : (claimsDropped b).oldPlace = none ∧ (claimsDropped b).closing = b.closing := by
  simp only [claimsDropped, Binding.putSide, place, and_self]

/-- A binding is put in the table, and flow items are dropped. -/
theorem Settled.put {b' : Binding} (place : b'.oldPlace = none) (takes : b'.closing = false) : Settled t (s.setBind (thBid t) (some b')) b' :=
  ⟨setBind_bindOf_self .., place, takes⟩

theorem dropClaimed_settled (h : Settled t s b) (stopped : Stopped b.threads) : Settled t (dropClaimed (thBid t) s) (claimsDropped b) ∧
    Stopped (claimsDropped b).threads ∧ KeepsFault s (dropClaimed (thBid t) s) := by
  have dropped := dropFlows_keepsFault (claimsLost b) (s.setBind (thBid t) (some (claimsDropped b)))
  have binds := dropFlows_binds (claimsLost b) (s.setBind (thBid t) (some (claimsDropped b)))
  rw [← dropClaimed_eq h.bind] at dropped binds
  obtain ⟨place, takes⟩ := claimsDropped_place h.place
  refine ⟨(Settled.put place (takes.trans h.takes)).of_binds binds, ?_, (KeepsFault.setBind ..).trans dropped⟩
  rw [claimsDropped_threads h.place]
  exact .mapped (f := fun h => { h with item := [] }) stopped

/-- MIL_FAULT keeps the first fault (R287). -/
def noteFault (w pc : Word) (s : State) : State := if s.mil.fault == 0 then { s with mil.fault := w, mil.faultPc := pc } else s
theorem noteFault_binds (w pc : Word) : (noteFault w pc s).mil.binds = s.mil.binds := by
  unfold noteFault
  split <;> rfl
theorem noteFault_first {w pc : Word} (first : s.mil.fault = 0) : (noteFault w pc s).mil.fault = w ∧ (noteFault w pc s).mil.faultPc = pc := by
  rw [noteFault, if_pos (beq_iff_eq.mpr first)]
  exact ⟨rfl, rfl⟩

/-- The threads of a binding stop, whatever they wait for. -/
def stopAll (bid : Nat) (s : State) : State :=
  modSide bid (fun v => { v with threads := v.threads.map (fun e => (e.1, { e.2 with st := .stopped, waits := .none })) }) s
theorem stopAll_settled (h : Settled t s b) : Settled t (stopAll (thBid t) s) { b with threads := b.threads.map (fun e => (e.1, { e.2 with st := .stopped, waits := .none })) } :=
  h.modSide (f := fun v => { v with threads := v.threads.map (fun e => (e.1, { e.2 with st := .stopped, waits := .none })) })

theorem stopAll_keepsFault (bid : Nat) (s : State) : KeepsFault s (stopAll bid s) := KeepsFault.setBind ..

/-- What becomes of the binding, once its threads have stopped. -/
def faultBinding (bid : Nat) (s : State) : State :=
  match s.bindOf bid with
  | none => s
  | some b =>
    if b.oldPlace.isSome then finishHandover bid (dropOldYards bid s)
    else settleEnding bid (s.setBind bid (some { b with st := .faulted }))
theorem faultBinding_settled (h : Settled t s b) : faultBinding (thBid t) s = s.setBind (thBid t) (some { b with st := .faulted }) := by
  unfold faultBinding
  rw [h.bind]
  refine (if_neg (by rw [h.place]; exact Bool.false_ne_true)).trans ?_
  exact (Settled.put (t := t) (b' := { b with st := .faulted }) h.place h.takes).settleEnding

theorem millFault_eq : millFault code t u = faultBinding (thBid t) (dropClaimed (thBid t) (stopAll (thBid t) (raiseMil 0
    (noteFault (BitVec.ofNat 32 (code * 2 ^ 28 + u.gcore t * 2 ^ 20 + t.th.val * 2 ^ 16 + thBid t)) (BitVec.ofNat 32 (u.thread t).pc) u)))) := rfl

/-- The binding stops, and the record of the fault stays. -/
theorem stops_settled (h : Settled t s b) : KeepsFault s (faultBinding (thBid t) (dropClaimed (thBid t) (stopAll (thBid t) s))) ∧
    ∃ b', (faultBinding (thBid t) (dropClaimed (thBid t) (stopAll (thBid t) s))).bindOf (thBid t) = some b' ∧ b'.st = .faulted ∧ Stopped b'.threads := by
  obtain ⟨settled, stopped, dropped⟩ := dropClaimed_settled (stopAll_settled h) (.mapped (f := fun h => { h with st := .stopped, waits := .none }) fun _ _ => rfl)
  rw [faultBinding_settled settled]
  exact ⟨((stopAll_keepsFault ..).trans dropped).trans (KeepsFault.setBind ..), _, setBind_bindOf_self .., rfl, stopped⟩

/-- A fault of a thread whose binding takes work, with the words of its record. -/
theorem faults_settled {w pc : Word} (h : Settled t u b) (hv : v = faultBinding (thBid t) (dropClaimed (thBid t) (stopAll (thBid t) (raiseMil 0 (noteFault w pc u))))) :
    (∃ b', v.bindOf (thBid t) = some b' ∧ b'.st = .faulted ∧ Stopped b'.threads) ∧ v.mil.event.getLsbD 0 = true ∧
      (u.mil.fault = 0 → v.mil.fault = w ∧ v.mil.faultPc = pc) := by
  have noted : KeepsFault (noteFault w pc u) (raiseMil 0 (noteFault w pc u)) := raiseMil_keepsFault ..
  obtain ⟨kept, stops⟩ := stops_settled (h.of_binds ((raiseMil_binds 0 _).trans (noteFault_binds w pc)))
  rw [← hv] at kept stops
  refine ⟨stops, kept.event (raiseMil_event _), fun first => ?_⟩
  obtain ⟨word, at_⟩ := noteFault_first (s := u) (w := w) (pc := pc) first
  exact ⟨(kept.fault.trans noted.fault).trans word, (kept.faultPc.trans noted.faultPc).trans at_⟩

/-- An instruction that is issued and faults. -/
theorem faultsWith_issued (issues : Issues t op i s) (code : Nat) : FaultsWith t code s (millFault code t (noteIssue t s)) := by
  obtain ⟨b, l, hs, issued⟩ := issues_issued issues
  obtain ⟨-, pc, -⟩ := issued.thread hs
  obtain ⟨stops, event, first⟩ := faults_settled issued.settled (millFault_eq (code := code))
  refine ⟨stops, event, fun clear => ?_⟩
  rw [← issued.gcore hs, ← pc]
  exact first (by rw [noteIssue_mil]; exact clear)

/-! ### Which rule is broken -/

/-- An instruction word with a field that is not 0 where the instruction does not use it. -/
theorem runMill_unused (issues : Issues t op i s) (known : knownOps.contains op = true) (holds : (used i).holds i = false) :
    runMill t op used body s = millFault 1 t (noteIssue t s) := by
  obtain ⟨may, ⟨b, hb, place, takes⟩, inside, opcode, fields⟩ := issues
  have hs : Settled t s b := ⟨hb, place, takes⟩
  rw [hs.imageOf] at inside opcode fields
  have word : (decide (imgCode (s.placeImage b.place) ≤ (s.thread t).pc) || !knownOps.contains op) = false := by
    simpa only [known, Bool.not_true, Bool.or_false, decide_eq_false_iff_not, Nat.not_le] using inside
  simp only [runMill, hs.side, may, opcode, word, fields, holds, bne_self_eq_false, Bool.not_true, Bool.not_false, Bool.false_eq_true, if_false, if_true]
/-- An instruction whose effect is a fault. -/
theorem runMill_fault (issues : Issues t op i s) (known : knownOps.contains op = true) (holds : (used i).holds i = true) (run : body i (noteIssue t s) = .fault code (noteIssue t s)) :
    runMill t op used body s = millFault code t (noteIssue t s) := by
  obtain ⟨may, ⟨b, hb, place, takes⟩, inside, opcode, fields⟩ := issues
  have hs : Settled t s b := ⟨hb, place, takes⟩
  rw [hs.imageOf] at inside opcode fields
  have word : (decide (imgCode (s.placeImage b.place) ≤ (s.thread t).pc) || !knownOps.contains op) = false := by
    simpa only [known, Bool.not_true, Bool.or_false, decide_eq_false_iff_not, Nat.not_le] using inside
  simp only [runMill, hs.side, may, opcode, word, fields, holds, run, bne_self_eq_false, Bool.not_true, Bool.false_eq_true, if_false]

theorem completes_fault (hexec : exec ins s = .next (runMill t op used body s)) (issues : Issues t op i s) (known : knownOps.contains op = true)
    (holds : (used i).holds i = true) (run : body i (noteIssue t s) = .fault code (noteIssue t s)) : Completes ins s (FaultsWith t code s) :=
  completes_next (hexec.trans (congrArg Host.Outcome.next (runMill_fault issues known holds run))) (faultsWith_issued issues code)

theorem guarded_breaks {rules : List (Bool × Nat)} {m : MRes} (h : firstFault rules = some code) : guarded rules s m = .fault code s := by
  rw [guarded, h]

/-- The fields of an instruction word fit their bits. -/
theorem insOf_bounds (w : Nat) : (insOf w).mod < 2 ^ 8 ∧ (insOf w).imm < 2 ^ 16 := ⟨Nat.mod_lt _ (by decide), Nat.mod_lt _ (by decide)⟩
theorem Issues.bounds (h : Issues t op i s) : i.mod < 2 ^ 8 ∧ i.imm < 2 ^ 16 := by
  obtain ⟨-, -, -, -, fields⟩ := h
  rw [← fields]
  exact insOf_bounds _

/-- An instruction without fields, in a word that has some. -/
theorem Issues.fields_unused (h : Issues t op i s) (some_ : i ≠ ⟨0, 0, 0, 0, 0, 0, 0⟩) : Used.holds {} i = false := by
  obtain ⟨mod, imm⟩ := h.bounds
  refine Bool.eq_false_iff.mpr fun holds => some_ ?_
  have low8 : Nat.land i.mod 255 = i.mod := (Nat.and_two_pow_sub_one_eq_mod i.mod 8).trans (Nat.mod_eq_of_lt mod)
  have low16 : Nat.land i.imm 65535 = i.imm := (Nat.and_two_pow_sub_one_eq_mod i.imm 16).trans (Nat.mod_eq_of_lt imm)
  simp only [Used.holds, Nat.sub_zero, low8, low16, Bool.false_or, Bool.and_eq_true, beq_iff_eq] at holds
  obtain ⟨⟨⟨⟨⟨⟨d, s1⟩, s2⟩, s3⟩, fmt⟩, mod0⟩, imm0⟩ := holds
  cases i
  simp_all

end
end Sys2Proof.Machine

section
open Sys2Proof Sys2Proof.Machine
/-- Settles O37: an instruction that breaks a rule answers that rule's code, and the fault stops the binding, records itself and raises its event. -/
theorem millFaultsStopTheBinding : Obligations.MillFaultsStopTheBinding := by
  unfold Obligations.MillFaultsStopTheBinding
  refine ⟨?_, ?_, ?_, ?_, ?_, ?_, ?_, ?_, ?_⟩
  · intro th s b i _ _ _ issues some_
    exact completes_next (congrArg Host.Outcome.next (runMill_unused issues (by decide) (issues.fields_unused some_))) (faultsWith_issued issues 1)
  · intro th s b imm _ _ _ issues beyond
    obtain ⟨_, ready⟩ := issues_ready issues
    refine completes_fault rfl issues (by decide) (Used.holds_of (.inr rfl) (.inr rfl) (.inr rfl) (.inr rfl) (.inr rfl) (Nat.zero_and _) (Nat.and_zero _)) ?_
    exact if_pos (by rw [ready.image]; exact beyond)
  · intro th s b d a c m _ _ _ issues m16 reserved
    refine completes_fault rfl issues (by decide) (Used.holds_of (.inl rfl) (.inl rfl) (.inl rfl) (.inr rfl) (.inr rfl) (land_low (k := 4) (c := 15) m16) (Nat.zero_and _)) ?_
    refine guarded_breaks ?_
    rw [fld_low (w := 4) m16]
    exact if_pos (decide_eq_true reserved)
  · intro th s b d a c m _ _ _ issues m11 beyond
    have m16 : m < 2 ^ 4 := by omega
    refine completes_fault rfl issues (by decide) (Used.holds_of (.inl rfl) (.inl rfl) (.inl rfl) (.inr rfl) (.inr rfl) (land_low (k := 4) (c := 15) m16) (Nat.zero_and _)) ?_
    refine guarded_breaks ?_
    rw [fld_low (w := 4) m16]
    refine (if_neg (by simpa using m11)).trans (if_pos ?_)
    simpa [or_assoc] using beyond
  · intro th s b d a imm _ _ _ issues beyond
    obtain ⟨_, ready⟩ := issues_ready issues
    refine completes_fault rfl issues (by decide) (Used.holds_of (.inl rfl) (.inl rfl) (.inr rfl) (.inr rfl) (.inr rfl) (Nat.zero_and _) (Nat.and_zero _)) ?_
    refine guarded_breaks ?_
    have off : (noteIssue th s).offScratch th (wordOff th ⟨d, a, 0, 0, 0, 0, imm⟩ (noteIssue th s)) 8 = true := by
      rw [ready.offScratch, wordOff, ready.xr]
      exact decide_eq_true beyond
    simp only [firstFault, off, if_true]
    split <;> rfl
  · intro th s b d f _ _ _ issues beyond
    obtain ⟨_, ready⟩ := issues_ready issues
    refine completes_fault rfl issues (by decide) (Used.holds_of (.inl rfl) (.inr rfl) (.inr rfl) (.inr rfl) (.inl rfl) (Nat.zero_and _) (Nat.zero_and _)) ?_
    exact guarded_breaks (if_pos (by rw [ready.badTile]; exact decide_eq_true beyond))
  · intro th s b a c j _ _ _ issues ha hc hj other
    obtain ⟨_, ready⟩ := issues_ready issues
    refine completes_fault rfl issues (by decide) (Used.holds_of (.inr rfl) (.inl rfl) (.inr rfl) (.inr rfl) (.inr rfl) (Nat.zero_and _) (Nat.zero_and _)) ?_
    refine guarded_breaks ?_
    have job : (noteIssue th s).itemJob th = some j := by
      unfold State.itemJob at hj ⊢
      rw [ready.curItem]
      exact hj
    simp only [firstFault, ready.xr, ready.ctx, hc, job, bne_iff_ne.mpr other, not_beyond ha, Bool.false_eq_true, if_false, if_true]
  · intro th s b _ _ _ issues none_
    obtain ⟨_, ready⟩ := issues_ready issues
    refine completes_fault rfl issues (by decide) (Used.holds_of (.inr rfl) (.inr rfl) (.inr rfl) (.inr rfl) (.inr rfl) (Nat.zero_and _) (Nat.zero_and _)) ?_
    simp only [millDone, ready.curItem, none_]
  · intro th s b y _ _ _ issues y8 undeclared
    obtain ⟨_, ready⟩ := issues_ready issues
    refine completes_fault rfl issues (by decide) (Used.holds_of (.inr rfl) (.inr rfl) (.inr rfl) (.inr rfl) (.inr rfl) (Nat.zero_and _) (land_low (k := 3) (c := 8191) y8)) ?_
    refine guarded_breaks (if_pos ?_)
    rw [fld_low (w := 3) y8, badYard, ready.image]
    exact decide_eq_true undeclared
end

/-! SUPPORT. A slice boundary in a state whose binding table lists one key twice (R303). -/
namespace Sys2Proof.Machine
open Sys2Proof

/-- Binding 0 stands in the table twice: pinned and resident on core 0 of cluster 0, and unpinned with more threads than a core has contexts, resident on core 0 of cluster 1. -/
def sliceState : State :=
  { State.reset with
    mil.lastSlice := 1
    mil.binds := [(0, some { Binding.new ⟨0, 1, 0, 1, true, true, 0⟩ 0 0 with resident := 1 }),
      (0, some { Binding.new ⟨1, 1, 0, 17, true, false, 0⟩ 0 0 with resident := 1 })] }
def sliceNext : State := sliceBoundary (elapse 0 sliceState)
theorem exec_slice : exec (.sliceBoundary 0) sliceState = .next sliceNext := rfl
/-- Cluster 1 takes binding 0 off its core, and with it the pinned entry. -/
theorem sliceNext_resident : (sliceNext.bindOf 0).map (fun b => b.resident.getLsbD 0) = some false := by decide +kernel

end Sys2Proof.Machine

section
open Sys2Proof Sys2Proof.Machine
/-- Refutes O34: in a state whose binding table lists a key twice, the boundary takes a pinned binding off its core, as the unpinned entry of the same key does not fit on another. -/
theorem not_millWaitsComplete : ¬ Obligations.MillWaitsComplete := by
  unfold Obligations.MillWaitsComplete
  rintro ⟨-, -, -, -, -, -, -, -, -, slices⟩
  obtain ⟨t, run, -, -, stays⟩ := slices 0 sliceState
  obtain rfl : sliceNext = t := by injection exec_slice.symm.trans run
  obtain ⟨b', bound, -, resident⟩ := stays 0 _ 0 (by decide) rfl rfl rfl rfl (by decide)
  have off := sliceNext_resident
  rw [bound, Option.map_some, resident] at off
  exact Bool.noConfusion (Option.some.inj off)
end

/-! SUPPORT. Words that the Mill moves between a thread's registers and its yards (R284, R289 to R291). -/
namespace Sys2Proof.Machine
open Sys2Proof

section
variable {t : Th} {s u v w : State} {b b' : Binding} {op y n : Nat} {i : Ins} {ins : Instr} {it : YItem}

/-! ### Scalar registers -/

/-- From `s` to `u` the thread's registers changed, and nothing else of its binding. -/
def RegsOnly (t : Th) (s u : State) : Prop := ∀ b, Settled t s b → ∃ l, Settled t u { b with threads := l } ∧
  (u.thread t).item = (s.thread t).item ∧ (u.thread t).st = (s.thread t).st

theorem RegsOnly.refl : RegsOnly t s s := fun b h => ⟨b.threads, h, rfl, rfl⟩
theorem RegsOnly.trans (h : RegsOnly t s u) (k : RegsOnly t u v) : RegsOnly t s v := fun b hb => by
  obtain ⟨l, settled, item, st⟩ := h b hb
  obtain ⟨l', settled', item', st'⟩ := k _ settled
  exact ⟨l', settled', item'.trans item, st'.trans st⟩
theorem RegsOnly.curItem (h : RegsOnly t s u) (hs : Settled t s b) (y : Nat) : u.curItem t y = s.curItem t y := by
  obtain ⟨l, settled, item, -⟩ := h b hs
  rw [settled.thread, hs.thread] at item
  rw [settled.curItem_eq, hs.curItem_eq]
  exact congrArg (fun x => (tget none x y).bind _) item

theorem setX_regsOnly (n v : Nat) : RegsOnly t s (setX t n v s) := by
  unfold setX
  split
  · exact .refl
  · intro b h
    exact ⟨_, h.modThread, by rw [h.modThread_thread], by rw [h.modThread_thread]⟩

/-- A register after a write. -/
theorem xr_setX (h : Settled t s b) (n v m : Nat) : (setX t n v s).xr t m = if m = n ∧ n ≠ 0 then v % 2 ^ 64 else s.xr t m := by
  unfold setX
  by_cases hn : n = 0
  · simp [hn]
  · have thread : ((modThread t (fun h => { h with x := tset 0 h.x n (BitVec.ofNat 64 v) }) s).thread t).x = tset 0 (s.thread t).x n (BitVec.ofNat 64 v) := by
      rw [h.modThread_thread]
    rw [if_neg (by simpa using hn), State.xr, State.xr, thread, tget_tset]
    by_cases hm : m = n
    · subst hm
      rw [if_neg (by simpa using hn), if_pos rfl, if_pos ⟨rfl, hn⟩, BitVec.toNat_ofNat]
    · simp only [hm, if_false, false_and]

theorem putWords_regsOnly (d : Nat) (l : List Nat) : RegsOnly t s (putWords t d l s) :=
  forEach_invariant (P := RegsOnly t s) (fun _ _ _ h => h.trans (setX_regsOnly _ _)) .refl

/-- Registers after words have been put in them from one on. -/
theorem xr_putFrom (d k : Nat) (l : List Nat) (h : Settled t s b) (m : Nat) :
    (forEach (l.zipIdx k) (fun e s => setX t (d + e.2) e.1 s) s).xr t m =
      if d + k ≤ m ∧ m < d + k + l.length ∧ m ≠ 0 then l.getD (m - (d + k)) 0 % 2 ^ 64 else s.xr t m := by
  induction l generalizing s b k with
  | nil => exact (if_neg (by simp only [List.length_nil]; omega)).symm
  | cons a r ih =>
    obtain ⟨l', settled, -⟩ := setX_regsOnly (d + k) a b h
    rw [List.zipIdx_cons]
    refine (ih (k + 1) settled).trans ?_
    rw [xr_setX h, List.length_cons]
    by_cases here : m = d + k
    · subst here
      by_cases zero : d + k = 0
      · simp [zero]
      · simp
    · by_cases inside : d + (k + 1) ≤ m ∧ m < d + (k + 1) + r.length ∧ m ≠ 0
      · have next : m - (d + k) = (m - (d + (k + 1))) + 1 := by omega
        rw [if_pos inside, if_pos (by omega), next, List.getD_cons_succ]
      · rw [if_neg inside, if_neg fun h => here h.1, if_neg (by omega)]
theorem xr_putWords (h : Settled t s b) (d : Nat) (l : List Nat) (m : Nat) :
    (putWords t d l s).xr t m = if d ≤ m ∧ m < d + l.length ∧ m ≠ 0 then l.getD (m - d) 0 % 2 ^ 64 else s.xr t m := xr_putFrom d 0 l h m
theorem xr_pc (h : Settled t s b) (n m : Nat) : (modThread t (fun h => { h with pc := n }) s).xr t m = s.xr t m := by
  rw [State.xr, State.xr, h.modThread_thread]

/-! ### The words of a byte string -/

theorem chop_getElem? (fuel : Nat) (l : List Byte) (room : l.length ≤ n * fuel) (k : Nat) :
    (chop n fuel l)[k]? = if n * k < l.length then some ((l.drop (n * k)).take n) else none := by
  induction fuel generalizing l k with
  | zero => exact (if_neg (by omega)).symm
  | succ fuel ih =>
    cases l with
    | nil => simp [chop]
    | cons a r =>
      rw [chop]
      · have shorter : ((a :: r).drop n).length ≤ n * fuel := by
          rw [List.length_drop]
          rw [Nat.mul_succ] at room
          omega
        cases k with
        | zero => simp
        | succ k =>
          rw [List.getElem?_cons_succ, ih _ shorter, List.length_drop, List.drop_drop, Nat.mul_succ, Nat.add_comm n]
          congr 1
          exact propext (by omega)
      · exact fun h => nomatch h

/-- The words read from a byte string, each from its place (R290). -/
theorem wordsRead_getElem? (l : List Byte) (k : Nat) : (wordsRead l)[k]? = if 8 * k < l.length then some (leNat ((l.drop (8 * k)).take 8)) else none := by
  rw [wordsRead, List.getElem?_map, chopAll, chop_getElem? _ _ (by omega)]
  split <;> rfl
theorem wordsRead_length (l : List Byte) (h : l.length ≤ 8 * n) : (wordsRead l).length ≤ n := by
  have beyond := wordsRead_getElem? l n
  rw [if_neg (by omega)] at beyond
  exact List.getElem?_eq_none_iff.mp beyond

theorem leNat_lt (l : List Byte) : leNat l < 256 ^ l.length := by
  induction l with
  | nil => exact Nat.one_pos
  | cons x r ih =>
    have := x.isLt
    rw [leNat, List.length_cons, Nat.pow_succ]
    omega
theorem leNat_word (l : List Byte) : leNat (l.take 8) < 2 ^ 64 :=
  Nat.lt_of_lt_of_le (leNat_lt _) (Nat.pow_le_pow_right (n := 256) (by decide) (List.length_take_le 8 l))

/-! ### YGET (R290) -/

/-- What YGET asks of its fields: a count of words, registers that exist, and a yard that the image declares. -/
structure Gets (t : Th) (s : State) (d a n y : Nat) : Prop where
  s1 : a < 32
  dest : d + n ≤ 32
  one : 1 ≤ n
  most : n ≤ 8
  yard : y < 8
  declared : y ≤ imgWyards (s.imageOf t)

/-- YGET's word, in the fields of R285. -/
def getIns (d a n y : Nat) : Ins := ⟨d, a, 0, 0, 0, n, y⟩

theorem Gets.holds {d a n y : Nat} (h : Gets t s d a n y) : Used.holds { d := true, s1 := true, mod := 0x0F, imm := 0x7 } (getIns d a n y) = true :=
  Used.holds_of (.inl rfl) (.inl rfl) (.inr rfl) (.inr rfl) (.inr rfl) (land_low (k := 4) (c := 15) (Nat.lt_of_le_of_lt h.most (by decide)))
    (land_low (k := 3) (c := 8191) h.yard)
/-- YGET's effect where its fields are good: what the read of the yard answers. -/
def got (t : Th) (d a n y : Nat) (s : State) : MRes :=
  match readYard t y (8 * n) s with
  | (s, .wait) => .again (yardWait t (.yardItem y) s)
  | (s, .fetch) => .again (startFetch t y (8 * n) s)
  | (s, .flushed) => .ok (setX t a (2 ^ 16 + 2 ^ 17) s)
  | (s, .got b e) => .ok (countSkid t b.length (setX t a (b.length + b2n e * 2 ^ 16) (putWords t d (wordsRead b) s)))
theorem yget_passes {d a n y : Nat} (h : Gets t s d a n y) (reads : SameReads t s u) : yget t (getIns d a n y) u = got t d a n y u := by
  have modn : fld n 0 4 = n := fld_low (w := 4) (Nat.lt_of_le_of_lt h.most (by decide))
  have immy : fld y 0 3 = y := fld_low (w := 3) h.yard
  have rules : Passes [(n == 0 || decide (8 < n), 1), (decide (32 < d + n) || decide (32 ≤ a), 3), (badYard t y u, 6)] := by
    refine .cons ?_ (.cons ?_ (.cons ?_ passes_nil))
    · rw [beq_false_of_ne (Nat.ne_of_gt h.one), not_above h.most]; rfl
    · rw [not_above h.dest, not_beyond h.s1]; rfl
    · rw [badYard, reads.image]; exact not_above h.declared
  unfold yget getIns
  dsimp only
  rw [modn, immy]
  exact guarded_passes rules

/-- A read whose bytes are at hand, with its END. -/
theorem readYard_got {k : Nat} (cur : u.curItem t y = some it) (stays : it.gone = false) (more : it.rd < it.bytes.length) (near : it.far k = false) :
    readYard t y k u = (modItem (thBid t) y it.id (it.past k) u, .got (it.ahead k) (decide (it.bytes.length ≤ it.rd + (it.ahead k).length))) := by
  have left : ¬ it.bytes.length ≤ it.rd := by omega
  simp only [readYard, cur, stays, near, left, Bool.false_eq_true, if_false]
  rfl

theorem modItem_thread {id : Nat} {f : YItem → YItem} (h : Settled t s b) : (modItem (thBid t) y id f s).thread t = s.thread t := by
  rw [h.modItem.thread, h.thread]
theorem countSkid_mil (n : Nat) : (countSkid t n s).mil = s.mil := countSkid_kept.e_mil
theorem xr_congr (h : u.thread t = s.thread t) (m : Nat) : u.xr t m = s.xr t m := by rw [State.xr, State.xr, h]
theorem countSkid_thread (n : Nat) (h : Settled t s b) : (countSkid t n s).thread t = s.thread t := by
  rw [(h.of_mil (countSkid_mil n)).thread, h.thread]

/-- The registers after a read: its words from X[D] on, and its status in X[S1]. -/
def readRegs (s : State) (t : Th) (d a : Nat) (l : List Byte) (last : Bool) (m : Nat) : Nat :=
  if m = a ∧ a ≠ 0 then (l.length + b2n last * 2 ^ 16) % 2 ^ 64
  else if d ≤ m ∧ m < d + (wordsRead l).length ∧ m ≠ 0 then (wordsRead l).getD (m - d) 0 % 2 ^ 64
  else s.xr t m

/-- A read of a yard that gets bytes: they stand in the registers, and the item is read further. -/
theorem completes_got {d a : Nat} (issues : Issues t 0xA1 (getIns d a n y) s) (gets : Gets t s d a n y) (cur : s.curItem t y = some it) (stays : it.gone = false)
    (more : it.rd < it.bytes.length) (near : it.far (8 * n) = false) :
    Completes (.millYget t) s fun v => GoesOn t s v ∧
      (∀ m, v.xr t m = readRegs s t d a (it.ahead (8 * n)) (decide (it.bytes.length ≤ it.rd + (it.ahead (8 * n)).length)) m) ∧
      v.curItem t y = some (it.past (8 * n) it) := by
  obtain ⟨b, ready⟩ := issues_ready issues
  have cur' := (ready.curItem y).trans cur
  have read := ready.settled.modItem (y := y) (id := it.id) (f := it.past (8 * n))
  have words : RegsOnly t _ _ := putWords_regsOnly (t := t) (s := modItem (thBid t) y it.id (it.past (8 * n)) (noteIssue t s)) d (wordsRead (it.ahead (8 * n)))
  obtain ⟨_, put, -⟩ := words _ read
  have regs := words.trans (setX_regsOnly a ((it.ahead (8 * n)).length + b2n (decide (it.bytes.length ≤ it.rd + (it.ahead (8 * n)).length)) * 2 ^ 16))
  obtain ⟨_, set, _, st⟩ := regs _ read
  have settled := set.of_mil (countSkid_mil (t := t) (it.ahead (8 * n)).length)
  have run := yget_passes gets ready.toSameReads
  rw [got, readYard_got cur' stays more near] at run
  refine completes_next (congrArg Host.Outcome.next (runMill_ok issues (by decide) gets.holds run settled)) ⟨goesOn_of settled ?_, fun m => ?_, ?_⟩
  · rw [countSkid_thread _ set, st, modItem_thread ready.settled, ready.st]
  · rw [xr_pc settled, xr_congr (countSkid_thread _ set), xr_setX put, xr_putWords read, xr_congr (modItem_thread ready.settled), ready.xr, readRegs]
  · rw [settled.curItem_pc, curItem_congr set settled rfl rfl, regs.curItem read]
    exact curItem_modItem ready.settled cur' fun _ => rfl

/-- The words of a read, each in its register. -/
theorem readRegs_word {d a k : Nat} {l : List Byte} {last : Bool} (inside : 8 * k < l.length) (zero : d + k ≠ 0) (other : d + k ≠ a) :
    readRegs s t d a l last (d + k) = leNat ((l.drop (8 * k)).take 8) := by
  have word := wordsRead_getElem? l k
  rw [if_pos inside] at word
  obtain ⟨here, -⟩ := List.getElem?_eq_some_iff.mp word
  rw [readRegs, if_neg fun h => other h.1, if_pos (by omega), Nat.add_sub_cancel_left, List.getD_eq_getElem?_getD, word, Option.getD_some,
    Nat.mod_eq_of_lt (leNat_word _)]
theorem readRegs_status {d a : Nat} {l : List Byte} {last : Bool} (set : a ≠ 0) (short : l.length < 2 ^ 16) :
    readRegs s t d a l last a = l.length + 2 ^ 16 * b2n last := by
  have : b2n last ≤ 1 := by cases last <;> decide
  rw [readRegs, if_pos ⟨rfl, set⟩, Nat.mod_eq_of_lt (by omega), Nat.mul_comm]
theorem readRegs_other {d a m : Nat} {l : List Byte} {last : Bool} (most : l.length ≤ 8 * n) (other : m ≠ a) (outside : m < d ∨ d + n ≤ m) :
    readRegs s t d a l last m = s.xr t m := by
  have := wordsRead_length l most
  rw [readRegs, if_neg fun h => other h.1, if_neg (by omega)]
theorem ahead_length (it : YItem) (k : Nat) : (it.ahead k).length ≤ k := List.length_take_le k _

/-! ### Items that end or are passed over -/

/-- An item without a packet ends: it leaves its yard and is no longer the thread's. -/
theorem endItem_plain (h : Settled t s b) (cur : s.curItem t y = some it) (plain : it.flow? = none) :
    ∃ b', Settled t (endItem t y s) b' ∧ (endItem t y s).curItem t y = none ∧
      ((endItem t y s).thread t).st = (s.thread t).st ∧ ((endItem t y s).thread t).x = (s.thread t).x := by
  have cleared : Settled t (setCur t y none s) _ := h.modThread (f := fun h => { h with item := tset none h.item y none })
  have ended : endItem t y s = setYard (thBid t) y ((tget [] b.yards y).filter (fun j => j.id != it.id)) (setCur t y none s) := by
    simp only [endItem, cur, plain, cleared.side, Side.yard]
  rw [ended]
  have settled := cleared.setYard (y := y) (l := (tget [] b.yards y).filter (fun j => j.id != it.id))
  have thread : (setYard (thBid t) y ((tget [] b.yards y).filter (fun j => j.id != it.id)) (setCur t y none s)).thread t =
      { s.thread t with item := tset none (s.thread t).item y none } := by
    have same : (setCur t y none s).thread t = { s.thread t with item := tset none (s.thread t).item y none } := h.modThread_thread
    rw [← same, cleared.thread]
    exact settled.thread
  refine ⟨_, settled, ?_, by rw [thread], by rw [thread]⟩
  rw [settled.curItem_eq, ← settled.thread, thread, tget_tset_self]
  rfl

/-- A read of an item that has been flushed ends it (R291). -/
theorem completes_flushed {d a : Nat} (issues : Issues t 0xA1 (getIns d a n y) s) (gets : Gets t s d a n y) (cur : s.curItem t y = some it) (gone : it.gone = true)
    (plain : it.flow? = none) :
    Completes (.millYget t) s fun v => GoesOn t s v ∧ XSet t a (2 ^ 16 + 2 ^ 17) s v ∧ v.curItem t y = none := by
  obtain ⟨b, ready⟩ := issues_ready issues
  have cur' := (ready.curItem y).trans cur
  obtain ⟨b', ended, none_, st, x⟩ := endItem_plain ready.settled cur' plain
  have regs : RegsOnly t (endItem t y (noteIssue t s)) _ := setX_regsOnly a (2 ^ 16 + 2 ^ 17)
  obtain ⟨_, settled, _, st'⟩ := regs _ ended
  have run := yget_passes gets ready.toSameReads
  have flushed : readYard t y (8 * n) (noteIssue t s) = (endItem t y (noteIssue t s), .flushed) := by
    simp only [readYard, cur', gone, if_true]
  rw [got, flushed] at run
  refine completes_next (congrArg Host.Outcome.next (runMill_ok issues (by decide) gets.holds run settled)) ⟨goesOn_of settled ?_, fun m => ?_, ?_⟩
  · rw [st', st, ready.st]
  · have before : (endItem t y (noteIssue t s)).xr t m = s.xr t m := by rw [← ready.xr, State.xr, State.xr, x]
    rw [xr_pc settled, xr_setX ended, before]
    rfl
  · rw [settled.curItem_pc, regs.curItem ended, none_]

end
end Sys2Proof.Machine

/-! SUPPORT. YPUT, YNEXT and YFLUSH (R289 to R291): the item that a thread writes, the rest of an item passed over, and a yard that is emptied. -/
namespace Sys2Proof.Machine
open Sys2Proof

section
variable {t : Th} {s u v w : State} {b b' : Binding} {op y n : Nat} {i : Ins} {ins : Instr} {it : YItem} {last : Bool}

/-! ### YPUT -/

/-- Where words lie does not change what an item is: the last of a list stays the last. -/
theorem layWords_last (w : List WordAt) (l : List YItem) (x : YItem) : ∃ loc, (layWords w (l ++ [x])).getLast? = some { x with loc := loc } := by
  induction l generalizing w with
  | nil => exact ⟨_, rfl⟩
  | cons a r ih =>
    obtain ⟨loc, last⟩ := ih (w.drop a.left.length)
    refine ⟨loc, ?_⟩
    rw [List.cons_append, layWords, List.getLast?_cons, last]
    rfl
theorem spill_last (room : Nat) (l : List YItem) (x : YItem) : ∃ loc, (spill room (l ++ [x])).getLast? = some { x with loc := loc } := layWords_last ..

/-- The bytes that a YPUT adds: whole words, but for the last of an item (R286). -/
def putBytes (x n : Nat) (last : Bool) : List Byte :=
  if last then (toLE 8 x).take (if n = 0 then 8 else n) else fit 8 ((toLE 8 x).take (if n = 0 then 8 else n))
/-- The item that a thread writes, or the one that it begins. -/
def Binding.writes (b : Binding) (y key : Nat) : YItem :=
  (b.side.writing y key).getD ⟨b.nextItem, .plain, [], false, some key, 0, false, false, false, []⟩
/-- That item, a word longer. -/
def YItem.extended (it : YItem) (word : List Byte) (last : Bool) : YItem :=
  { it with bytes := it.bytes ++ word, complete := last, claimed := if last then none else it.claimed, loc := it.loc ++ [.regs] }
/-- The yard with that item at its end. -/
def putYard (s : State) (b : Binding) (y key : Nat) (word : List Byte) (last : Bool) : List YItem :=
  spill (s.yardFree b.place.district) ((tget [] b.yards y).filter (fun j => j.id != (b.writes y key).id) ++ [(b.writes y key).extended word last])
theorem putYard_last (s : State) (b : Binding) (y key : Nat) (word : List Byte) (last : Bool) : ∃ it, (putYard s b y key word last).getLast? = some it ∧
    it.complete = last ∧ it.bytes = ((b.side.writing y key).map YItem.bytes).getD [] ++ word := by
  obtain ⟨loc, at_⟩ := spill_last (s.yardFree b.place.district) ((tget [] b.yards y).filter (fun j => j.id != (b.writes y key).id)) ((b.writes y key).extended word last)
  refine ⟨_, at_, rfl, ?_⟩
  rw [YItem.extended, Binding.writes]
  cases b.side.writing y key <;> rfl

/-- What YPUT asks of its fields. -/
structure Writes (t : Th) (s : State) (a n y : Nat) : Prop where
  s1 : a < 32
  most : n ≤ 8
  yard : y < 8
  declared : y ≤ imgWyards (s.imageOf t)
/-- YPUT's word, in the fields of R285. -/
def putIns (a n y : Nat) (last : Bool) : Ins := ⟨0, a, 0, 0, 0, n + 16 * b2n last, y⟩

theorem Writes.count {a : Nat} (h : Writes t s a n y) : fld (n + 16 * b2n last) 0 4 = n := by
  have := h.most
  rw [fld, Nat.pow_zero, Nat.div_one]
  omega
theorem Writes.ends {a : Nat} (h : Writes t s a n y) : bitAt (n + 16 * b2n last) 4 = last := by
  have := h.most
  cases last
  · exact (by decide : ∀ n < 9, bitAt (n + 16 * b2n false) 4 = false) n (by omega)
  · exact (by decide : ∀ n < 9, bitAt (n + 16 * b2n true) 4 = true) n (by omega)
theorem Writes.holds {a : Nat} (h : Writes t s a n y) : Used.holds { s1 := true, mod := 0x1F, imm := 0x7 } (putIns a n y last) = true := by
  have := h.most
  have fits : n + 16 * b2n last < 2 ^ 5 := by cases last <;> simp only [b2n, Bool.false_eq_true, if_false, if_true] <;> omega
  exact Used.holds_of (.inr rfl) (.inl rfl) (.inr rfl) (.inr rfl) (.inr rfl) (land_low (k := 5) (c := 7) fits) (land_low (k := 3) (c := 8191) h.yard)

theorem Writes.passes {a : Nat} (h : Writes t s a n y) (reads : SameReads t s u) : Passes [(decide (8 < n), 1), (decide (32 ≤ a), 3), (badYard t y u, 6)] := by
  refine .cons (not_above h.most) (.cons (not_beyond h.s1) (.cons ?_ passes_nil))
  rw [badYard, reads.image]
  exact not_above h.declared

/-- YPUT of a yard with room. -/
theorem yput_room {a : Nat} (h : Writes t s a n y) (reads : SameReads t s u) (hu : Settled t u b) (room : yardUsed (tget [] b.yards y) + 8 ≤ u.yardCap b.place y) :
    ∃ next, yput t (putIns a n y last) u = .ok (countSkid t 8 (u.setBind (thBid t)
      (some { b with nextItem := next, yards := tset [] b.yards y (putYard u b y (thKey t) (putBytes (s.xr t a) n last) last) }))) := by
  have immy : fld y 0 3 = y := fld_low (w := 3) h.yard
  have full : ¬ u.yardCap b.place y < yardUsed (tget [] b.yards y) + 8 := Nat.not_lt.mpr room
  unfold yput putIns
  dsimp only
  rw [h.count, h.ends, immy, guarded_passes (h.passes reads), hu.bind]
  simp only [hu.side_eq, Side.yard, if_neg full, reads.xr]
  have side : b.side = ⟨b.place, b.threads, b.tiles, b.scratch, b.yards⟩ := hu.side_eq
  cases found : (⟨b.place, b.threads, b.tiles, b.scratch, b.yards⟩ : Side).writing y (thKey t) with
  | none =>
    refine ⟨b.nextItem + 1, ?_⟩
    simp only [Binding.side, Binding.putSide, hu.place, putYard, Binding.writes, found, Option.getD_none, YItem.extended, putBytes, beq_iff_eq]
  | some it =>
    refine ⟨b.nextItem, ?_⟩
    simp only [Binding.side, Binding.putSide, hu.place, putYard, Binding.writes, found, Option.getD_some, YItem.extended, putBytes, beq_iff_eq]

theorem yardCap_issued (p : Place) : (noteIssue t s).yardCap p y = s.yardCap p y := by
  rw [State.yardCap, State.yardCap, State.placeImage, State.placeImage, State.image, State.image, noteIssue_mil]

/-- YPUT of a thread that issues, into a yard with room. -/
theorem completes_yput {a : Nat} (issues : Issues t 0xA0 (putIns a n y last) s) (h : Writes t s a n y) (hb : s.bindOf (thBid t) = some b)
    (room : yardUsed (b.side.yard y) + 8 ≤ s.yardCap b.side.place y) :
    Completes (.millYput t) s fun v => GoesOn t s v ∧ XSet t 0 0 s v ∧ ∃ b' it, v.bindOf (thBid t) = some b' ∧ (b'.side.yard y).getLast? = some it ∧
      it.complete = last ∧ it.bytes = ((b.side.writing y (thKey t)).map YItem.bytes).getD [] ++ putBytes (s.xr t a) n last := by
  obtain ⟨b1, l, hs, issued⟩ := issues_issued issues
  obtain rfl : b1 = b := Option.some.inj (hs.bind.symm.trans hb)
  obtain ⟨st, -, x, -⟩ := issued.thread hs
  rw [hs.side_eq] at room
  obtain ⟨next, run⟩ := yput_room (last := last) h (issued.reads hs) issued.settled (by rw [yardCap_issued]; exact room)
  have put : Settled t ((noteIssue t s).setBind (thBid t) _) _ := Settled.put (b' := { b1 with
    threads := l, nextItem := next
    yards := tset [] b1.yards y (putYard (noteIssue t s) { b1 with threads := l } y (thKey t) (putBytes (s.xr t a) n last) last) }) hs.place hs.takes
  have settled := put.of_mil (countSkid_mil (t := t) 8)
  have thread := (countSkid_thread 8 put).trans (put.thread.trans issued.settled.thread.symm)
  refine completes_issue rfl issues (by decide) h.holds run settled (by rw [thread, st]) (by rw [thread, x]) ?_
  obtain ⟨it, at_, complete, bytes⟩ := putYard_last (noteIssue t s) { b1 with threads := l } y (thKey t) (putBytes (s.xr t a) n last) last
  refine ⟨_, it, settled.modThread.bind, ?_, complete, bytes.trans ?_⟩
  · rw [settled.modThread.side_eq, Side.yard, tget_tset_self]
    exact at_
  · rw [hs.side_eq, issued.settled.side_eq]
    rfl

/-! ### YNEXT and YFLUSH -/

/-- What the two ask of their only field. -/
structure Names (t : Th) (s : State) (y : Nat) : Prop where
  yard : y < 8
  declared : y ≤ imgWyards (s.imageOf t)
/-- A word whose only field names a yard. -/
def yardIns (y : Nat) : Ins := ⟨0, 0, 0, 0, 0, 0, y⟩
theorem Names.holds (h : Names t s y) : Used.holds { imm := 0x7 } (yardIns y) = true :=
  Used.holds_of (.inr rfl) (.inr rfl) (.inr rfl) (.inr rfl) (.inr rfl) (Nat.zero_and _) (land_low (k := 3) (c := 8191) h.yard)
theorem Names.passes (h : Names t s y) (reads : SameReads t s u) : Passes [(badYard t y u, 6)] := by
  refine .cons ?_ passes_nil
  rw [badYard, reads.image]
  exact not_above h.declared
theorem Names.imm (h : Names t s y) : fld (yardIns y).imm 0 3 = y := fld_low (w := 3) h.yard

/-- YNEXT passes over what the thread has not read of its item. -/
theorem completes_ynext (issues : Issues t 0xA2 (yardIns y) s) (h : Names t s y) (cur : s.curItem t y = some it) (stays : it.gone = false) :
    Completes (.millYnext t) s fun v => GoesOn t s v ∧ XSet t 0 0 s v ∧ v.curItem t y = some { it with rd := it.bytes.length } := by
  obtain ⟨b, ready⟩ := issues_ready issues
  have cur' := (ready.curItem y).trans cur
  have read := ready.settled.modItem (y := y) (id := it.id) (f := fun j => { j with rd := j.bytes.length })
  have run : ynext t (yardIns y) (noteIssue t s) = .ok (modItem (thBid t) y it.id (fun j => { j with rd := j.bytes.length }) (noteIssue t s)) := by
    unfold ynext
    dsimp only
    rw [h.imm, guarded_passes (h.passes ready.toSameReads), cur']
    simp only [stays, Bool.false_eq_true, if_false]
  refine completes_ready rfl issues (by decide) h.holds ready run read rfl ?_
  rw [read.curItem_pc]
  exact curItem_modItem ready.settled cur' fun _ => rfl

/-- What a flush leaves in a yard: what threads have claimed, marked (R291). -/
def flushed (l : List YItem) : List YItem := (l.filter (fun i => i.claimed.isSome && i.complete)).map (fun i => if i.gone then i else { i with flushed := true })

/-- Leaving an empty claim order changes nothing. -/
theorem leaveOrder_empty (h : Settled t s b) (order : b.order = []) (id : Nat) : Settled t (leaveOrder (thBid t) id s) b := by
  have same : (if b.outs.any (fun o => o.item == id) then b else { b with order := b.order.filter (· != id) }) = b := by
    rw [order, List.filter_nil, ← order, ite_self]
  have left : Settled t (s.modBind (thBid t) (fun b => if b.outs.any (fun o => o.item == id) then b else { b with order := b.order.filter (· != id) })) b := by
    refine ⟨?_, h.place, h.takes⟩
    rw [modBind_bindOf_self, h.bind, Option.map_some, same]
  have stays : releaseAllOuts (thBid t) (s.modBind (thBid t) (fun b => if b.outs.any (fun o => o.item == id) then b else { b with order := b.order.filter (· != id) })) =
      s.modBind (thBid t) (fun b => if b.outs.any (fun o => o.item == id) then b else { b with order := b.order.filter (· != id) }) := by
    rw [releaseAllOuts, releaseOuts, left.bind]
    simp only [order]
  rw [leaveOrder, stays]
  exact left

/-- The threads of a yard that go on (R290). -/
def yardWaiters (l : Tab Thread) (y : Nat) : List Nat :=
  (l.filter (fun e => e.2.st == .yardWait && (e.2.waits == .yardItem y || e.2.waits == .yardRoom y))).map (·.1)
theorem wakeYard_settled_eq (h : Settled t s b) : wakeYard (thBid t) y s = forEach (yardWaiters b.threads y) (wake (thBid t)) s := by
  unfold wakeYard
  rw [h.side]
  rfl

/-- A flush of a yard of a binding without claims in order: the yard holds what threads have claimed, and each thread that waited at it goes on. -/
theorem flushYard_settled (h : Settled t s b) (order : b.order = []) : ∃ l, Settled t (flushYard (thBid t) y s) { b with threads := l, yards := tset [] b.yards y (flushed (tget [] b.yards y)) } ∧
    ∀ k, tget Thread.reset l k = (tget Thread.reset b.threads k).woken (s.goOn (thBid t) k) ∨ tget Thread.reset l k = tget Thread.reset b.threads k := by
  have kept : Settled t _ _ := h.setYard (y := y) (l := flushed (tget [] b.yards y))
  have dropped : ∀ gone : List YItem, Settled t (forEach gone (fun i s => match i.flow? with | some e => leaveOrder (thBid t) i.id (dropFlow 51 e s) | none => s)
      (setYard (thBid t) y (flushed (tget [] b.yards y)) s)) { b with yards := tset [] b.yards y (flushed (tget [] b.yards y)) } := fun gone =>
    forEach_invariant (P := fun u => Settled t u _) (fun i _ u hu => by
      cases i.flow? with
      | none => exact hu
      | some e => exact leaveOrder_empty (hu.of_mil dropFlow_kept.e_mil) order i.id) kept
  have emptied := dropped ((tget [] b.yards y).filter YItem.live)
  have run : flushYard (thBid t) y s = wakeYard (thBid t) y (forEach ((tget [] b.yards y).filter YItem.live)
      (fun i s => match i.flow? with | some e => leaveOrder (thBid t) i.id (dropFlow 51 e s) | none => s) (setYard (thBid t) y (flushed (tget [] b.yards y)) s)) := by
    unfold flushYard
    rw [h.side]
    rfl
  rw [run, wakeYard_settled_eq emptied]
  obtain ⟨l, settled, threads⟩ := wakeAll_settled _ emptied
  refine ⟨l, settled, fun k => ?_⟩
  rw [threads k, emptied.goOn, h.goOn]
  split
  · exact .inl rfl
  · exact .inr rfl

/-- A thread that issues stands READY, woken or not. -/
theorem woken_ready (hu : Settled t u b) (resident : u.residentOn (thBid t) t.core.val = true) (ready : (u.thread t).st = .ready) {l : Tab Thread}
    (woken : tget Thread.reset l (thKey t) = (tget Thread.reset b.threads (thKey t)).woken (u.goOn (thBid t) (thKey t)) ∨ tget Thread.reset l (thKey t) = tget Thread.reset b.threads (thKey t)) :
    (tget Thread.reset l (thKey t)).st = .ready ∧ (tget Thread.reset l (thKey t)).x = (u.thread t).x := by
  have core : thKey t / 16 = t.core.val := by
    have := t.th.isLt
    rw [thKey]
    omega
  rw [hu.thread] at ready ⊢
  rcases woken with h | h
  · rw [h, State.goOn, core, resident]
    exact ⟨rfl, rfl⟩
  · rw [h]
    exact ⟨ready, rfl⟩

/-- YFLUSH empties the yard, but for the input yard of a finish binding (R291). -/
theorem completes_yflush (issues : Issues t 0xA3 (yardIns y) s) (h : Names t s y) (hb : s.bindOf (thBid t) = some b) (order : b.order = []) :
    Completes (.millYflush t) s fun v => GoesOn t s v ∧ XSet t 0 0 s v ∧ ∃ b', v.bindOf (thBid t) = some b' ∧
      b'.yard y = if b.place.kind = false ∧ y = 0 then b.yard y else flushed (b.yard y) := by
  obtain ⟨b1, l, hs, issued⟩ := issues_issued issues
  obtain rfl : b1 = b := Option.some.inj (hs.bind.symm.trans hb)
  obtain ⟨st, -, x, -⟩ := issued.thread hs
  have reads := issued.reads hs
  have ready : ((noteIssue t s).thread t).st = .ready := st.trans (canIssue_ready issues.1).1
  have run : yflush t (yardIns y) (noteIssue t s) = .ok (if y == 0 && !b1.place.kind then noteIssue t s else flushYard (thBid t) y (noteIssue t s)) := by
    unfold yflush
    dsimp only
    rw [h.imm, guarded_passes (h.passes reads), issued.settled.side]
    dsimp only
    split <;> rfl
  by_cases input : b1.place.kind = false ∧ y = 0
  · have stays : (y == 0 && !b1.place.kind) = true := by rw [input.1, input.2]; rfl
    rw [stays, if_pos rfl] at run
    refine completes_issue rfl issues (by decide) h.holds run issued.settled st x ⟨_, issued.settled.modThread.bind, ?_⟩
    rw [if_pos input]
    rfl
  · have goes : (y == 0 && !b1.place.kind) = false := by
      rw [Bool.and_eq_false_iff]
      by_cases hy : y = 0
      · exact .inr (by simpa [hy] using input)
      · exact .inl (beq_false_of_ne hy)
    rw [goes, if_neg Bool.false_ne_true] at run
    obtain ⟨l', settled, woken⟩ := flushYard_settled (y := y) issued.settled order
    have resident : (noteIssue t s).residentOn (thBid t) t.core.val = true := by
      have before := (canIssue_ready issues.1).2
      rw [State.residentOn, hs.bind] at before
      rw [State.residentOn, issued.settled.bind]
      exact before
    obtain ⟨st', x'⟩ := woken_ready issued.settled resident ready (woken (thKey t))
    refine completes_issue rfl issues (by decide) h.holds run settled ?_ ?_ ⟨_, settled.modThread.bind, ?_⟩
    · rw [settled.thread, st', (canIssue_ready issues.1).1]
    · rw [settled.thread, x', x]
    · rw [if_neg input]
      exact tget_tset_self ..

end
end Sys2Proof.Machine

/-! SUPPORT. SEND and SENDT (R299, R300): the packet that each makes, and where the switch core puts it. -/
namespace Sys2Proof.Machine
open Sys2Proof

section
variable {t : Th} {s u v : State} {b b' : Binding} {n q : Nat} {i : Ins} {it : YItem} {p : Pkt}

/-! ### A thread whose packet may wait -/

/-- The outputs of a binding that wait for their turn (R300). -/
def State.outsOf (s : State) (bid : Nat) : List FlowOut := ((s.bindOf bid).map Binding.outs).getD []
/-- The output is the thread's. -/
def FlowOut.isOf (o : FlowOut) (id : Nat) : Bool := (o.pkt.map (fun p => p.thread == some id)).getD false
theorem outputWaits_eq (id : Nat) : s.outputWaits id = (s.swc.prod.any (fun w => w.pkt.thread == some id) ||
    s.swc.holds.any (fun e => e.2.any (fun h => h.pkt.thread == some id)) || (s.outsOf (id / 128)).any (fun o => o.isOf id)) := by
  have outs : (match s.bindOf (id / 128) with
      | some b => b.outs.any (fun o => match o.pkt with | some p => p.thread == some id | none => false)
      | none => false) = (s.outsOf (id / 128)).any (fun o => o.isOf id) := by
    rw [State.outsOf]
    cases s.bindOf (id / 128) with
    | none => rfl
    | some b =>
      refine congrArg b.outs.any (funext fun o => ?_)
      rw [FlowOut.isOf]
      cases o.pkt <;> rfl
  exact congrArg (_ || ·) outs
theorem thId_bid : thId t / 128 = thBid t := by
  have := t.core.isLt
  have := t.th.isLt
  rw [thId, thKey]
  omega

/-- No packet of the thread waits where none waited before, and the packet that has been sent was written to its queue. -/
theorem outputWaits_none (prod : v.swc.prod = s.swc.prod) (holds : v.swc.holds = s.swc.holds)
    (outs : v.outsOf (thBid t) = s.outsOf (thBid t) ∨ v.outsOf (thBid t) = []) (none_ : s.outputWaits (thId t) = false) : v.outputWaits (thId t) = false := by
  rw [outputWaits_eq, Bool.or_eq_false_iff, thId_bid] at none_ ⊢
  obtain ⟨waits, mine⟩ := none_
  rw [prod, holds]
  refine ⟨waits, ?_⟩
  rcases outs with h | h
  · rw [h, mine]
  · rw [h, List.any_nil]

/-! ### A packet of the thread's own toward a port -/

/-- What an originated packet asks of a state, to join the queue of a port at once (R161, R166). -/
structure Open (q : Nat) (p : Pkt) (s : State) : Prop where
  up : s.up q = true
  district : s.dist (districtOf q) ≠ .draining
  unsched : p.h.isSched = false
  room : s.roomFor q p.h.tc p.cells = true
  plain : PlainSwitch s

theorem Open.same (h : Open q p s) (k : SameSwitch s u) : Open q p u :=
  ⟨by rw [k.up]; exact h.up, by rw [k.dist]; exact h.district, h.unsched, by rw [k.roomFor]; exact h.room, k.plain h.plain⟩

/-- It joins the queue: nothing stands in its way, and the device sends in its own name where the packet is its own. -/
theorem originateAny_open (h : Open q p s) {stamp : Bool} (named : p.inPort < 2048 ∨ s.fwd.mgmtEid ≠ 0) (serves : s.glb.state ≠ .cordoned) :
    originateAny stamp 0 (.port q) p s = writeQueue q (if stamp then { p with tin := s.now } else p) s := by
  rw [originateAny_unsched h.unsched]
  rcases named with outer | named
  · have own : ¬ 2048 ≤ p.inPort := Nat.not_le.mpr outer
    simp [originate, own, serves, hopCut_port h.district, canWrite_port h.room, writeOut_port]
  · exact originate_port h.district h.room named serves (Nat.zero_le _)

/-- What is written to a queue is all that changes of SWC. -/
theorem Written.waits (h : Written q p s u) : u.swc.prod = s.swc.prod ∧ u.swc.holds = s.swc.holds := by
  rw [h.swc]
  exact ⟨rfl, rfl⟩

theorem canIssue_serves (h : s.canIssue t = true) : s.glb.state ≠ .cordoned := by
  simp only [State.canIssue, Bool.and_eq_true, bne_iff_ne] at h
  exact h.1.1.1.1.1

/-! ### SEND -/

/-- SEND's word toward a port, in the fields of R285. -/
def sendIns (a b c f n : Nat) : Ins := ⟨0, a, b, c, f, 0, n⟩
/-- What SEND and SENDT ask of the tile registers and FMT that they name. -/
structure Payload (t : Th) (s : State) (b n f : Nat) : Prop where
  count : n < 16
  tiles : b + n < imgTregs (s.imageOf t)
  regs : b + n < 64
  fmt : f ≤ 0x0E
theorem Payload.good {b n f : Nat} (h : Payload t s b n f) (reads : SameReads t s u) : badTiles t b (n + 1) u = false := by
  have := h.tiles
  have := h.regs
  rw [badTiles, not_above (by omega), Bool.false_or, List.any_eq_false]
  intro r hr
  obtain ⟨k, hk, rfl⟩ := List.mem_map.mp hr
  have := List.mem_range.mp hk
  rw [reads.badTile, State.badTile, not_beyond (by omega)]
  exact Bool.false_ne_true
theorem Payload.imm {b n f : Nat} (h : Payload t s b n f) : fld n 0 4 = n := fld_low (w := 4) h.count

/-- The word of the header that two registers hold. -/
def sendWord (s : State) (t : Th) (a k : Nat) : Word := BitVec.ofNat 32 (s.xr t (a + k / 2) / 2 ^ (32 * (k % 2)))
/-- The header of a SEND, for a job (R299). -/
def sendHdr (s : State) (t : Th) (a job : Nat) : Hdr :=
  let h : Hdr := ⟨sendWord s t a 0, sendWord s t a 1, s.fwd.mgmtEid, putFld (sendWord s t a 3) 12 20 job, sendWord s t a 4, sendWord s t a 5, sendWord s t a 6, 0⟩
  (h.setEpoch s.fwd.cur).setHops 0
/-- The packet of a SEND. -/
def sendPkt (s : State) (t : Th) (a b f n job : Nat) : Pkt :=
  { h := sendHdr s t a job, payload := sendPayload t b (n + 1) f (sendHdr s t a job).len s, tin := s.now, inPort := 2048 + s.dOf t, c2 := false, counted := false,
    thread := some (thId t) }
/-- The job of a SEND, and the state once it is known: a free value where the thread has no item (R299). -/
def sendJob (t : Th) (s : State) : Nat × State :=
  match s.itemJob t with
  | some j => (j.toNat, s)
  | none => (fld (takeFree s).1.toNat 0 20, (takeFree s).2)
theorem sendJob_spec : (∃ job : BitVec 20, (sendJob t s).1 = job.toNat ∧ ∀ j, s.itemJob t = some j → job = j) ∧ ∃ k, (sendJob t s).2 = { s with fresh := k } := by
  unfold sendJob
  cases s.itemJob t with
  | none =>
    refine ⟨⟨BitVec.ofNat 20 (fld (takeFree s).1.toNat 0 20), ?_, nofun⟩, _, rfl⟩
    rw [BitVec.toNat_ofNat, Nat.mod_eq_of_lt]
    exact Nat.mod_lt _ (by decide)
  | some j => exact ⟨⟨j, rfl, fun k h => Option.some.inj h⟩, s.fresh, rfl⟩

/-- What SEND does once its job is known, in the state that this leaves. -/
def sendAs (t : Th) (a b c f n job : Nat) (s w : State) : MRes :=
  let h : Hdr := ⟨sendWord s t a 0, sendWord s t a 1, w.fwd.mgmtEid, putFld (sendWord s t a 3) 12 20 job, sendWord s t a 4, sendWord s t a 5, sendWord s t a 6, 0⟩
  let h := (h.setEpoch w.fwd.cur).setHops 0
  let p : Pkt := { h := h, payload := sendPayload t b (fld n 0 4 + 1) f h.len w, tin := w.now, inPort := 2048 + w.dOf t, c2 := false, counted := false, thread := some (thId t) }
  let v := countSkid t h.len w
  if v.fwd.mgmtEid == 0 then .ok (discard 27 p none v)
  else if v.up (v.xr t c % 2048) then .ok (awaitOutput t (originateAny true 0 (.port (v.xr t c % 2048)) p v)) else .ok (discard 12 p (some (v.xr t c % 2048)) v)
theorem send_eq (a b c f : Nat) : send t (sendIns a b c f n) s = guarded
    [(decide (28 < a) || (!bitAt 0 0 && decide (32 ≤ c)) || badTiles t b (fld n 0 4 + 1) s, 3), (decide (0x0E < f), 2)] s
    (sendAs t a b c f n (sendJob t s).1 s (sendJob t s).2) := by
  have port : bitAt (sendIns a b c f n).mod 0 = false := show bitAt 0 0 = false by decide
  unfold send sendJob sendAs
  simp only [port, Bool.false_eq_true, if_false]
  cases s.itemJob t <;> rfl

/-- SEND toward a port that is up: the packet is on its way. -/
theorem send_port {a b c f : Nat} (ha : a ≤ 28) (hc : c < 32) (load : Payload t s b n f) (reads : SameReads t s u) (named : u.fwd.mgmtEid ≠ 0) (up : u.up (u.xr t c % 2048) = true) :
    ∃ (job : BitVec 20) (k len : Nat), (∀ j, u.itemJob t = some j → job = j) ∧ send t (sendIns a b c f n) u =
      .ok (awaitOutput t (originateAny true 0 (.port (u.xr t c % 2048)) (sendPkt u t a b f n job.toNat) (countSkid t len { u with fresh := k }))) := by
  obtain ⟨⟨job, hj, item⟩, k, hw⟩ := sendJob_spec (t := t) (s := u)
  have rules : Passes [(decide (28 < a) || (!bitAt 0 0 && decide (32 ≤ c)) || badTiles t b (fld n 0 4 + 1) u, 3), (decide (0x0E < f), 2)] := by
    refine .cons ?_ (.cons (not_above load.fmt) passes_nil)
    rw [load.imm, load.good reads, not_above ha, not_beyond hc]
    rfl
  refine ⟨job, k, (sendHdr u t a job.toNat).len, item, ?_⟩
  rw [send_eq, guarded_passes rules, hj, hw, sendAs, load.imm]
  dsimp only
  have name (len : Nat) : (countSkid t len { u with fresh := k }).fwd.mgmtEid = u.fwd.mgmtEid := by rw [countSkid_kept.e_fwd]
  have port (len : Nat) : (countSkid t len { u with fresh := k }).xr t c = u.xr t c := by
    rw [State.xr, State.xr, State.thread, State.thread, State.side, State.side, State.bindOf, State.bindOf, countSkid_mil]
  have open_ (len : Nat) : (countSkid t len { u with fresh := k }).up (u.xr t c % 2048) = true := by
    rw [(SameSwitch.of_kept countSkid_kept).up]
    exact up
  rw [name, if_neg (by simpa using named), port, if_pos (open_ _)]
  rfl

theorem sendPayload_congr {r f len : Nat} (reads : SameReads t s u) : sendPayload t r n f len u = sendPayload t r n f len s := by
  rw [sendPayload, sendPayload, List.map_congr_left fun k _ => reads.tile k]
theorem dOf_congr (reads : SameReads t s u) : u.dOf t = s.dOf t := by rw [State.dOf, State.dOf, reads.gcore]
theorem sendPkt_congr {a f r job : Nat} (reads : SameReads t s u) : sendPkt u t a r f n job = sendPkt s t a r f n job := by
  have hdr : sendHdr u t a job = sendHdr s t a job := by simp only [sendHdr, sendWord, reads.xr, reads.kept.e_fwd]
  rw [sendPkt, sendPkt, hdr, sendPayload_congr reads, dOf_congr reads, State.now, State.now, reads.kept.e_tmb]
theorem itemJob_congr (reads : SameReads t s u) : u.itemJob t = s.itemJob t := by
  unfold State.itemJob
  rw [reads.curItem]

/-- Of a thread whose packet has joined its queue nothing waits. -/
theorem awaitOutput_none (h : v.outputWaits (thId t) = false) : awaitOutput t v = v := by rw [awaitOutput, h, if_neg Bool.false_ne_true]

theorem outsOf_congr (h : v.mil.binds = s.mil.binds) (bid : Nat) : v.outsOf bid = s.outsOf bid := by rw [State.outsOf, State.outsOf, State.bindOf, State.bindOf, h]
theorem outsOf_issued {l : Tab Thread} (hs : Settled t s b) (issued : HasIssued t s b l (noteIssue t s)) : (noteIssue t s).outsOf (thBid t) = s.outsOf (thBid t) := by
  rw [State.outsOf, State.outsOf, hs.bind, issued.settled.bind]
  rfl

theorem sendHdr_w0 (a job : Nat) : (sendHdr s t a job).w0 = putFld (putFld (sendWord s t a 0) 20 1 (b2n s.fwd.cur)) 16 4 0 := rfl
/-- The job is no part of what the queue of a port asks. -/
theorem Open.for_job {a r f : Nat} (h : Open q (sendPkt s t a r f n 0) s) (job : Nat) : Open q (sendPkt s t a r f n job) s := by
  have w0 : (sendHdr s t a job).w0 = (sendHdr s t a 0).w0 := by rw [sendHdr_w0, sendHdr_w0]
  have tc : (sendHdr s t a job).tc = (sendHdr s t a 0).tc := by rw [Hdr.tc, Hdr.tc, w0]
  have len : (sendHdr s t a job).len = (sendHdr s t a 0).len := by rw [Hdr.len, Hdr.len, w0]
  have pkt (job : Nat) : (sendPkt s t a r f n job).h = sendHdr s t a job := rfl
  have cells : (sendPkt s t a r f n job).cells = (sendPkt s t a r f n 0).cells := by
    rw [Pkt.cells, Pkt.cells, Pkt.size, Pkt.size, pkt, pkt, Hdr.size, Hdr.size, len]
  rw [← pkt, ← pkt] at tc
  refine ⟨h.up, h.district, ?_, ?_, h.plain⟩
  · rw [Hdr.isSched, tc]
    exact h.unsched
  · rw [tc, cells]
    exact h.room

/-- SEND of a packet for which the port's queue has room. -/
theorem completes_send {a r c f : Nat} (issues : Issues t 0x70 (sendIns a r c f n) s) (ha : a ≤ 28) (hc : c < 32) (load : Payload t s r n f) (named : s.fwd.mgmtEid ≠ 0)
    (free : Open (s.xr t c % 2048) (sendPkt s t a r f n 0) s) (none_ : s.outputWaits (thId t) = false) :
    Completes (.millSend t) s fun v => GoesOn t s v ∧ XSet t 0 0 s v ∧
      ∃ job : BitVec 20, (∀ j, s.itemJob t = some j → job = j) ∧ JoinsQueue (s.xr t c % 2048) (sendPkt s t a r f n job.toNat) s v := by
  obtain ⟨b, l, hs, issued⟩ := issues_issued issues
  obtain ⟨st, -, x, -⟩ := issued.thread hs
  have reads := issued.reads hs
  have port : (!bitAt (sendIns a r c f n).mod 0) = true := by
    rw [show (sendIns a r c f n).mod = 0 from rfl]
    decide
  have holds : Used.holds { s1 := true, s2 := true, s3 := !bitAt (sendIns a r c f n).mod 0, fmt := true, mod := 0x01, imm := 0x000F } (sendIns a r c f n) = true :=
    Used.holds_of (.inr rfl) (.inl rfl) (.inl rfl) (.inl port) (.inl rfl) (Nat.zero_and _) (land_low (k := 4) (c := 4095) load.count)
  have same : SameSwitch s (noteIssue t s) := .of_kept issued.kept
  obtain ⟨job, k, len, item, run⟩ := send_port (u := noteIssue t s) ha hc load reads (by rw [issued.kept.e_fwd]; exact named) (by rw [same.up, reads.xr]; exact free.up)
  rw [reads.xr, sendPkt_congr reads] at run
  have skid : SameSwitch s (countSkid t len { noteIssue t s with fresh := k }) :=
    same.trans (SameSwitch.trans (t := { noteIssue t s with fresh := k }) ⟨rfl, rfl, rfl, rfl, rfl, rfl⟩ (.of_kept countSkid_kept))
  have here : Open (s.xr t c % 2048) (sendPkt s t a r f n job.toNat) (countSkid t len { noteIssue t s with fresh := k }) :=
    (free.for_job job.toNat).same skid
  have now : (countSkid t len { noteIssue t s with fresh := k }).now = s.now := by
    rw [State.now, State.now, countSkid_kept.e_tmb, ← issued.kept.e_tmb]
  have fwd : (countSkid t len { noteIssue t s with fresh := k }).fwd = s.fwd := countSkid_kept.e_fwd.trans issued.kept.e_fwd
  have glb : (countSkid t len { noteIssue t s with fresh := k }).glb = s.glb := countSkid_kept.e_glb.trans issued.kept.e_glb
  have swc : (countSkid t len { noteIssue t s with fresh := k }).swc = s.swc := countSkid_kept.e_swc.trans issued.kept.e_swc
  have mil : (countSkid t len { noteIssue t s with fresh := k }).mil = (noteIssue t s).mil := countSkid_mil len
  have sent : originateAny true 0 (.port (s.xr t c % 2048)) (sendPkt s t a r f n job.toNat) (countSkid t len { noteIssue t s with fresh := k }) =
      writeQueue (s.xr t c % 2048) (sendPkt s t a r f n job.toNat) (countSkid t len { noteIssue t s with fresh := k }) := by
    rw [originateAny_open here (.inr (by rw [fwd]; exact named)) (by rw [glb]; exact canIssue_serves issues.1), if_pos rfl, now]
    rfl
  have written : Written _ _ _ _ := writeQueue_written (port := s.xr t c % 2048) (p := sendPkt s t a r f n job.toNat) here.plain
  obtain ⟨prod, holds'⟩ := written.waits
  have milv := (writeQueue_kept (port := s.xr t c % 2048) (p := sendPkt s t a r f n job.toNat)).e_mil.trans mil
  have idle := outputWaits_none (t := t) (s := s) (prod.trans (by rw [swc])) (holds'.trans (by rw [swc]))
    (.inl ((outsOf_congr (congrArg Mil.binds milv) (thBid t)).trans (outsOf_issued hs issued))) none_
  rw [sent, awaitOutput_none idle] at run
  have settled := issued.settled.of_mil milv
  have thread := settled.thread.trans issued.settled.thread.symm
  refine completes_issue rfl issues (by decide) holds run settled (by rw [thread, st]) (by rw [thread, x]) ⟨job, fun j hj => item j (by rw [itemJob_congr reads]; exact hj), ?_⟩
  have joins := written.joins_of_same skid
  exact (Written.then (u := modThread t _ _) written modThread_kept.e_swc).joins_of_same skid

end
end Sys2Proof.Machine

/-! SUPPORT. SENDT (R299, R300): the output of a flow item waits for its turn, or leaves at once. -/
namespace Sys2Proof.Machine
open Sys2Proof

section
variable {t : Th} {s u v w : State} {b b' : Binding} {n q a r f : Nat} {it : YItem} {p : Pkt} {hop : Hop}

/-- SENDT's word, in the fields of R285. -/
def sendtIns (a r f n : Nat) : Ins := ⟨0, a, r, 0, f, 0, n⟩
/-- The output of a flow item: the packet with its length, its format and its payload. -/
def outPkt (s : State) (t : Th) (a r f n : Nat) (p : Pkt) : Pkt :=
  { p with
    h := { p.h.setLen (s.xr t a % 65536) with w4 := putFld (p.h.setLen (s.xr t a % 65536)).w4 0 8 f }
    payload := sendPayload t r (n + 1) f (s.xr t a % 65536) s
    thread := some (thId t)
    flow := some (s.dOf t) }
theorem outPkt_congr (reads : SameReads t s u) : outPkt u t a r f n p = outPkt s t a r f n p := by
  rw [outPkt, outPkt, reads.xr, sendPayload_congr reads, dOf_congr reads]

/-- The item's output is sent: what its thread holds of it. -/
def sentItem (t : Th) (it : YItem) (s : State) : State := modItem (thBid t) 0 it.id (fun j => { j with sent := true }) s
/-- The output stands last among those of the binding. -/
def withOut (o : FlowOut) (b : Binding) : Binding := { b with outs := b.outs ++ [o] }
/-- The output has been handed over. -/
def handOver (t : Th) (len : Nat) (it : YItem) (o : FlowOut) (s : State) : State := (countSkid t len (sentItem t it s)).modBind (thBid t) (withOut o)

/-- A flow item of the thread whose output may be sent. -/
structure Flows (t : Th) (s : State) (it : YItem) (p : Pkt) (hop : Hop) : Prop where
  cur : s.curItem t 0 = some it
  kind : it.kind = .flow p hop
  unsent : it.sent = false
  kept : it.flushed = false
  young : it.aged = false

theorem Settled.sentItem (h : Settled t s b) : Settled t (sentItem t it s)
    { b with yards := tset [] b.yards 0 ((tget [] b.yards 0).map (fun i => if i.id == it.id then { i with sent := true } else i)) } := h.modItem

/-- SENDT hands the output over. -/
theorem sendt_hands (flows : Flows t s it p hop) (ha : a < 32) (load : Payload t s r n f) (reads : SameReads t s u) (hu : Settled t u b) :
    sendt t (sendtIns a r f n) u = .ok (awaitOutput t (releaseAllOuts (thBid t) (handOver t (s.xr t a % 65536) it ⟨it.id, some (outPkt s t a r f n p), hop⟩ u))) := by
  have rules : Passes [(decide (32 ≤ a) || badTiles t r (n + 1) u, 3), (decide (0x0E < f), 2), ((some (it, p, hop)).isNone, 5)] := by
    refine .cons ?_ (.cons (not_above load.fmt) (.cons rfl passes_nil))
    rw [load.good reads, not_beyond ha]
    rfl
  have sent := hu.sentItem (it := it)
  have skid := sent.of_mil (countSkid_mil (t := t) (s.xr t a % 65536))
  have tiles (k : Nat) : (countSkid t (s.xr t a % 65536) (sentItem t it u)).tile t k = s.tile t k := by
    rw [skid.tile, ← reads.tile, hu.tile]
  have payload : sendPayload t r (n + 1) f (s.xr t a % 65536) (countSkid t (s.xr t a % 65536) (sentItem t it u)) = sendPayload t r (n + 1) f (s.xr t a % 65536) s := by
    rw [sendPayload, sendPayload, List.map_congr_left fun k _ => tiles k]
  have core : (countSkid t (s.xr t a % 65536) (sentItem t it u)).dOf t = s.dOf t := by
    rw [← dOf_congr reads, State.dOf, State.dOf, skid.gcore, hu.gcore]
  unfold sendt sendtIns
  simp only [load.imm, reads.curItem, reads.xr, flows.cur, flows.kind, flows.unsent, flows.kept, flows.young, Bool.false_eq_true, if_false, guarded_passes rules]
  have hands : sendPayload t r (n + 1) f (s.xr t a % 65536) (countSkid t (s.xr t a % 65536) (modItem (thBid t) 0 it.id (fun j => { j with sent := true }) u)) =
      sendPayload t r (n + 1) f (s.xr t a % 65536) s := payload
  have core' : (countSkid t (s.xr t a % 65536) (modItem (thBid t) 0 it.id (fun j => { j with sent := true }) u)).dOf t = s.dOf t := core
  rw [hands, core']
  rfl

/-! ### Where the output waits for its turn -/

theorem curItem_modThread {y : Nat} {g : Thread → Thread} (h : Settled t s b) (same : ∀ x, (g x).item = x.item) : (modThread t g s).curItem t y = s.curItem t y := by
  rw [h.modThread.curItem_eq, h.curItem_eq, tget_tmod_self, same]

theorem handOver_settled (h : Settled t u b) (len : Nat) (it : YItem) (o : FlowOut) : Settled t (handOver t len it o u)
    { b with
      yards := tset [] b.yards 0 ((tget [] b.yards 0).map (fun i => if i.id == it.id then { i with sent := true } else i))
      outs := b.outs ++ [o] } := by
  have skid := h.sentItem (it := it).of_mil (countSkid_mil (t := t) len)
  refine ⟨?_, h.place, h.takes⟩
  rw [handOver, modBind_bindOf_self, skid.bind]
  rfl
theorem handOver_kept (len : Nat) (o : FlowOut) : Kept [.mil, .tly] u (handOver t len it o u) :=
  ((modSide_kept.mono (by simp)).trans (countSkid_kept.mono (by simp))).trans (State.modBind_kept.mono (by simp))
theorem handOver_curItem (h : Settled t u b) (cur : u.curItem t 0 = some it) (len : Nat) (o : FlowOut) :
    (handOver t len it o u).curItem t 0 = some { it with sent := true } := by
  rw [curItem_congr h.sentItem (handOver_settled h len it o) rfl rfl]
  exact curItem_modItem h cur fun _ => rfl

/-- Outputs wait while the one whose turn it is has not been sent. -/
theorem releaseAllOuts_blocked {bid id : Nat} {rest : List Nat} (hb : s.bindOf bid = some b) (order : b.order = id :: rest) (missing : b.outs.find? (fun o => o.item == id) = none) :
    releaseAllOuts bid s = s := by
  rw [releaseAllOuts, releaseOuts, hb]
  simp only [order, missing]

/-- SENDT of an output whose turn has not come: its thread is switched out. -/
theorem completes_sendt_waits {j : Nat} {rest : List Nat} (issues : Issues t 0x71 (sendtIns a r f n) s) (ha : a < 32) (load : Payload t s r n f) (flows : Flows t s it p hop)
    (hb : s.bindOf (thBid t) = some b) (outs : b.outs = []) (order : b.order = j :: rest) (other : j ≠ it.id) :
    Completes (.millSendt t) s fun v => (v.thread t).pc = (s.thread t).pc + 1 ∧ (v.thread t).st = .switched ∧ (v.thread t).waits = .output ∧ XSet t 0 0 s v ∧
      v.curItem t 0 = some { it with sent := true } ∧
      ∃ b', v.bindOf (thBid t) = some b' ∧ b'.outs = [⟨it.id, some (outPkt s t a r f n p), hop⟩] ∧ b'.order = b.order := by
  obtain ⟨b1, l, hs, issued⟩ := issues_issued issues
  obtain rfl : b1 = b := Option.some.inj (hs.bind.symm.trans hb)
  obtain ⟨-, -, x, -⟩ := issued.thread hs
  have reads := issued.reads hs
  have holds : Used.holds { s1 := true, s2 := true, fmt := true, imm := 0x000F } (sendtIns a r f n) = true :=
    Used.holds_of (.inr rfl) (.inl rfl) (.inl rfl) (.inr rfl) (.inl rfl) (Nat.zero_and _) (land_low (k := 4) (c := 4095) load.count)
  have run := sendt_hands flows ha load reads issued.settled
  have handed := handOver_settled issued.settled (s.xr t a % 65536) it ⟨it.id, some (outPkt s t a r f n p), hop⟩
  have missing : (b1.outs ++ [(⟨it.id, some (outPkt s t a r f n p), hop⟩ : FlowOut)]).find? (fun o => o.item == j) = none := by
    rw [outs, List.nil_append, List.find?_singleton, if_neg (by simpa using fun h => other h.symm)]
  have waits : (handOver t (s.xr t a % 65536) it ⟨it.id, some (outPkt s t a r f n p), hop⟩ (noteIssue t s)).outputWaits (thId t) = true := by
    rw [outputWaits_eq, thId_bid, State.outsOf, handed.bind]
    simp [outs, FlowOut.isOf, outPkt]
  rw [releaseAllOuts_blocked handed.bind order missing, awaitOutput, waits, if_pos rfl] at run
  have out : Settled t (switchOut t .output (handOver t (s.xr t a % 65536) it ⟨it.id, some (outPkt s t a r f n p), hop⟩ (noteIssue t s))) _ :=
    handed.modThread (f := fun h => { h with st := .switched, waits := .output })
  have thread : (switchOut t .output (handOver t (s.xr t a % 65536) it ⟨it.id, some (outPkt s t a r f n p), hop⟩ (noteIssue t s))).thread t =
      { (noteIssue t s).thread t with st := .switched, waits := .output } := by
    rw [issued.settled.thread]
    exact handed.modThread_thread.trans (by rw [handed.thread])
  refine completes_next (congrArg Host.Outcome.next (runMill_ok issues (by decide) holds run out)) ⟨?_, ?_, ?_, xSet_of out ?_, ?_, _, out.modThread.bind, ?_, rfl⟩
  · rw [out.modThread_thread]
  · rw [out.modThread_thread, thread]
  · rw [out.modThread_thread, thread]
  · rw [thread, x]
  · rw [out.curItem_pc]
    exact (curItem_modThread (g := fun h => { h with st := .switched, waits := .output }) handed fun _ => rfl).trans (handOver_curItem issued.settled ((reads.curItem 0).trans flows.cur) ..)
  · show b1.outs ++ _ = _
    rw [outs, List.nil_append]

/-! ### Where its turn has come -/

/-- The policer of a port reads nothing of the Mill. -/
theorem fillPolicer_congr (kept : Kept [.mil, .tly] s u) (port : Nat) : (fillPolicer port u).swc = (fillPolicer port s).swc := by
  simp only [fillPolicer, State.modSched, State.sched, State.width, State.entry, State.rxLanes, State.link, kept.e_swc, kept.e_plt, kept.e_lnk, kept.e_clk]
theorem policerHolds_congr (h : u.swc = s.swc) (port : Nat) : u.policerHolds port = s.policerHolds port := by
  simp only [State.policerHolds, State.fifo, h]

theorem charged_same (port : Nat) (p : Pkt) (s : State) : SameSwitch s (chargePolicer port p (fillPolicer port s)) := ⟨rfl, rfl, rfl, rfl, rfl, rfl⟩
theorem charged_mil (port : Nat) (p : Pkt) (s : State) : (chargePolicer port p (fillPolicer port s)).mil = s.mil := rfl
theorem charged_waits (port : Nat) (p : Pkt) (s : State) : (chargePolicer port p (fillPolicer port s)).swc.prod = s.swc.prod ∧
    (chargePolicer port p (fillPolicer port s)).swc.holds = s.swc.holds := ⟨rfl, rfl⟩

/-- An output that the policer lets pass joins the queue of its port (R299). -/
theorem sendOutput_open (serves : s.glb.state ≠ .cordoned) (young : s.aged p = false) (outer : p.inPort < 2048) (passes : (fillPolicer p.inPort s).policerHolds p.inPort = false)
    (tokens : 4 * p.size ≤ ((fillPolicer p.inPort s).sched p.inPort).bucket) (free : Open q p s) :
    sendOutput p (.port q) s = writeQueue q p (chargePolicer p.inPort p (fillPolicer p.inPort s)) := by
  have same : SameSwitch s (chargePolicer p.inPort p (fillPolicer p.inPort s)) := ⟨rfl, rfl, rfl, rfl, rfl, rfl⟩
  have young' : (chargePolicer p.inPort p (fillPolicer p.inPort s)).aged p = false := young
  have up : (chargePolicer p.inPort p (fillPolicer p.inPort s)).up q = true := (free.same same).up
  have placed : placeOutput (.port q) p (chargePolicer p.inPort p (fillPolicer p.inPort s)) = writeQueue q p (chargePolicer p.inPort p (fillPolicer p.inPort s)) := by
    simp only [placeOutput, State.hopUp, up, chosenPort, young', Bool.false_eq_true, if_false, if_true]
    exact originateAny_open (free.same same) (.inl outer) serves
  have pays : (decide (((fillPolicer p.inPort s).sched p.inPort).bucket < 4 * p.size)) = false := not_above tokens
  have serves' : (s.glb.state == .cordoned) = false := beq_false_of_ne serves
  simp only [sendOutput, serves', young, free.unsched, passes, pays, Bool.or_false, Bool.false_eq_true, if_false, placed]

/-- The output whose turn it is leaves; with no other sent, none follows it. -/
theorem releaseAllOuts_first {bid : Nat} {rest : List Nat} {o : FlowOut} (hb : s.bindOf bid = some b) (order : b.order = o.item :: rest) (outs : b.outs = [o]) (pkt : o.pkt = some p) :
    releaseAllOuts bid s = sendOutput p o.hop (s.setBind bid (some { b with order := rest, outs := [] })) := by
  have found : b.outs.find? (fun x => x.item == o.item) = some o := by rw [outs, List.find?_singleton, if_pos (beq_self_eq_true _)]
  have left : b.outs.filter (fun x => x.item != o.item) = [] := by rw [outs]; simp
  have after : (sendOutput p o.hop (s.setBind bid (some { b with order := rest, outs := [] }))).bindOf bid = some { b with order := rest, outs := [] } := by
    rw [State.bindOf, sendOutput_kept.e_mil]
    exact setBind_bindOf_self ..
  rw [releaseAllOuts, releaseOuts, hb]
  simp only [order, found, left, pkt, Option.map_some, Option.getD_some, List.length_cons]
  rw [releaseOuts, after]
  cases rest <;> rfl

/-- Where the first output leaves, the binding keeps its threads and its yards. -/
theorem Settled.releases {rest : List Nat} {o : FlowOut} (h : Settled t s b) (order : b.order = o.item :: rest) (outs : b.outs = [o]) (pkt : o.pkt = some p) :
    ∃ w, releaseAllOuts (thBid t) s = sendOutput p o.hop w ∧ Settled t w { b with order := rest, outs := [] } ∧ Kept [.mil] s w :=
  ⟨_, releaseAllOuts_first h.bind order outs pkt, Settled.put h.place h.takes, State.setBind_kept⟩

/-- SENDT of the output whose turn it is, with tokens and room for it. -/
theorem completes_sendt_leaves {rest : List Nat} (issues : Issues t 0x71 (sendtIns a r f n) s) (ha : a < 32) (load : Payload t s r n f) (flows : Flows t s it p (.port q))
    (hb : s.bindOf (thBid t) = some b) (outs : b.outs = []) (order : b.order = it.id :: rest) (outer : p.inPort < 2048) (young : s.aged (outPkt s t a r f n p) = false)
    (passes : (fillPolicer p.inPort s).policerHolds p.inPort = false) (tokens : 4 * (outPkt s t a r f n p).size ≤ ((fillPolicer p.inPort s).sched p.inPort).bucket)
    (free : Open q (outPkt s t a r f n p) s) (none_ : s.outputWaits (thId t) = false) :
    Completes (.millSendt t) s fun v => GoesOn t s v ∧ XSet t 0 0 s v ∧ JoinsQueue q (outPkt s t a r f n p) s v ∧ v.curItem t 0 = some { it with sent := true } ∧
      ∃ b', v.bindOf (thBid t) = some b' ∧ b'.outs = [] ∧ b'.order = rest := by
  obtain ⟨b1, l, hs, issued⟩ := issues_issued issues
  obtain rfl : b1 = b := Option.some.inj (hs.bind.symm.trans hb)
  obtain ⟨st, -, x, -⟩ := issued.thread hs
  have reads := issued.reads hs
  have holds : Used.holds { s1 := true, s2 := true, fmt := true, imm := 0x000F } (sendtIns a r f n) = true :=
    Used.holds_of (.inr rfl) (.inl rfl) (.inl rfl) (.inr rfl) (.inl rfl) (Nat.zero_and _) (land_low (k := 4) (c := 4095) load.count)
  have run := sendt_hands flows ha load reads issued.settled
  have port : (outPkt s t a r f n p).inPort = p.inPort := rfl
  generalize outPkt s t a r f n p = o at *
  rw [← port] at outer passes tokens
  generalize s.xr t a % 65536 = len at run
  have handed := handOver_settled issued.settled len it ⟨it.id, some o, .port q⟩
  obtain ⟨w, leaves, released, put⟩ := handed.releases (rest := rest) (p := o) (o := ⟨it.id, some o, .port q⟩) order (by rw [outs, List.nil_append]) rfl
  have kept : Kept [.mil, .tly] s w := ((issued.kept.mono (by simp)).trans (handOver_kept ..)).trans (put.mono (by simp))
  have swc := fillPolicer_congr kept o.inPort
  have same : SameSwitch s w := .of_kept kept
  have sent := sendOutput_open (s := w) (p := o) (q := q) (by rw [kept.e_glb]; exact canIssue_serves issues.1) (by rw [aged_of_same _ kept.e_plt kept.e_tmb]; exact young) outer
    ((policerHolds_congr swc _).trans passes) (by rw [State.sched]; exact swc ▸ tokens) (free.same same)
  have charged : SameSwitch s (chargePolicer o.inPort o (fillPolicer o.inPort w)) := same.trans (charged_same ..)
  have written : Written _ _ _ _ := writeQueue_written (port := q) (p := o) (charged.plain free.plain)
  obtain ⟨prod, held⟩ := written.waits
  obtain ⟨prod', held'⟩ := charged_waits o.inPort o w
  have written_kept := writeQueue_kept (port := q) (p := o) (s := chargePolicer o.inPort o (fillPolicer o.inPort w))
  have settled := released.of_mil (written_kept.e_mil.trans (charged_mil ..))
  have idle := outputWaits_none (t := t) (s := s) ((prod.trans prod').trans (congrArg Swc.prod kept.e_swc)) ((held.trans held').trans (congrArg Swc.holds kept.e_swc)) (.inr (by rw [State.outsOf, settled.bind]; rfl)) none_
  have goes : sendt t (sendtIns a r f n) (noteIssue t s) = .ok (writeQueue q o (chargePolicer o.inPort o (fillPolicer o.inPort w))) := by
    rw [run, leaves, sent, awaitOutput_none idle]
  have thread : _ = (noteIssue t s).thread t := settled.thread.trans issued.settled.thread.symm
  refine completes_issue rfl issues (by decide) holds goes settled (by rw [thread, st]) (by rw [thread, x]) ⟨?_, ?_, _, settled.modThread.bind, rfl, rfl⟩
  · exact (Written.then (u := modThread t _ _) written modThread_kept.e_swc).joins_of_same charged
  · rw [settled.curItem_pc, curItem_congr handed settled rfl rfl]
    exact handOver_curItem issued.settled ((reads.curItem 0).trans flows.cur) ..

end
end Sys2Proof.Machine


section
open Sys2Proof Sys2Proof.Machine
/-- Settles O40: each of the six instructions passes its own checks, runs on the state in which it was counted, and leaves the yard or the queue that its rule names. -/
theorem millYardsComplete : Obligations.MillYardsComplete := by
  unfold Obligations.MillYardsComplete
  refine ⟨?_, ?_, ?_, ?_, ?_, ?_, ?_, ?_⟩
  · rintro th s a n y last b _ issues ha hn hy declared hb rfl room
    exact completes_yput issues ⟨ha, hn, hy, declared⟩ hb room
  · rintro th s d a n y it _ issues ha hd one most hy declared cur kept young more near rfl
    obtain ⟨v, run, goes, regs, item⟩ := completes_got issues ⟨ha, hd, one, most, hy, declared⟩ cur (by rw [YItem.gone, kept, young]; rfl) more near
    have short := ahead_length it (8 * n)
    refine ⟨v, run, goes, fun set => ?_, fun k inside zero other => ?_, fun r other outside => ?_, item⟩
    · exact (regs a).trans (readRegs_status set (by omega))
    · exact (regs (d + k)).trans (readRegs_word inside zero other)
    · exact (regs r).trans (readRegs_other short other outside)
  · intro th s d a n y it issues ha hd one most hy declared cur gone plain
    exact completes_flushed issues ⟨ha, hd, one, most, hy, declared⟩ cur (by rw [YItem.gone, gone]; rfl) plain
  · intro th s y it issues hy declared cur kept young
    exact completes_ynext issues ⟨hy, declared⟩ cur (by rw [YItem.gone, kept, young]; rfl)
  · intro th s y b issues hy declared hb _ order
    exact completes_yflush issues ⟨hy, declared⟩ hb order
  · rintro th s a b c f n w h p q issues ha hc count tiles regs fmt named rfl rfl rfl rfl up district unsched room plain none_
    exact completes_send issues ha hc ⟨count, tiles, regs, fmt⟩ named ⟨up, district, unsched, room, plain⟩ none_
  · rintro th s a b f n it p hop bi _ issues ha count tiles regs fmt cur kind unsent kept young hb outs ⟨j, r, order, other⟩ rfl
    exact completes_sendt_waits issues ha ⟨count, tiles, regs, fmt⟩ ⟨cur, kind, unsent, kept, young⟩ hb outs order other
  · rintro th s a b f n it p q bi r _ _ issues ha count tiles regs fmt cur kind unsent kept young hb outs order rfl rfl outer fresh unsched passes tokens up district room plain none_
    exact completes_sendt_leaves issues ha ⟨count, tiles, regs, fmt⟩ ⟨cur, kind, unsent, kept, young⟩ hb outs order outer fresh passes tokens ⟨up, district, unsched, room, plain⟩ none_
end

/-! SUPPORT. What the host's commands leave of a binding whose threads start or end (R301, R302, R310). -/
namespace Sys2Proof.Machine
open Sys2Proof

section
variable {s u v : State} {b b' b0 : Binding} {bid : Nat} {P Q : Binding → Prop}

/-! ### One binding changes -/

/-- No more of MIL than one binding and events changed: the status, the bytes used of MIL_BACK and every other binding stay. -/
structure Beside (bid : Nat) (s u : State) : Prop where
  status : u.mil.bindStatus = s.mil.bindStatus
  used : u.mil.backUsed = s.mil.backUsed
  others : ∀ c, c ≠ bid → u.bindOf c = s.bindOf c

theorem Beside.trans (h : Beside bid s u) (k : Beside bid u v) : Beside bid s v :=
  ⟨k.status.trans h.status, k.used.trans h.used, fun c hc => (k.others c hc).trans (h.others c hc)⟩
theorem Beside.of_mil (h : u.mil = s.mil) : Beside bid s u := ⟨by rw [h], by rw [h], fun c _ => by rw [State.bindOf, h, State.bindOf]⟩
theorem Beside.setBind (v : Option Binding) : Beside bid s (s.setBind bid v) := ⟨rfl, rfl, fun _ hc => setBind_bindOf_of_ne _ _ hc⟩
theorem Beside.modCore (g : Nat) (f : Core → Core) : Beside bid s (s.modCore g f) := ⟨rfl, rfl, fun _ _ => rfl⟩
theorem raiseMil_beside (i : Nat) : Beside bid s (raiseMil i s) := by
  unfold raiseMil
  split
  · exact .of_mil rfl
  · exact .trans (u := { s with mil.event := setBit s.mil.event i true }) ⟨rfl, rfl, fun _ _ => rfl⟩ (.of_mil fire_kept.e_mil)
theorem raiseMil_raised {i : Nat} (hi : i < 4) : (raiseMil i s).mil.event.getLsbD i = true := by
  unfold raiseMil
  split
  · assumption
  · rw [fire_kept.e_mil]
    exact getLsbD_setBit_self _ hi
theorem forEach_beside {α : Type} {l : List α} {f : α → State → State} (h : ∀ a u, Beside bid u (f a u)) : Beside bid s (forEach l f s) :=
  forEach_invariant (P := Beside bid s) (fun a _ u k => k.trans (h a u)) (.of_mil rfl)
theorem dropFlows_beside (l : List (Pkt × Hop)) : Beside bid s (forEach l (fun e s => raiseMil 3 (dropFlow 48 e s)) s) :=
  forEach_beside fun _ _ => .trans (.of_mil dropFlow_kept.e_mil) (raiseMil_beside 3)

/-- The binding stands in the table and is so. -/
def Has (bid : Nat) (P : Binding → Prop) (s : State) : Prop := ∃ b, s.bindOf bid = some b ∧ P b

theorem Has.of_mil (e : u.mil = s.mil) (h : Has bid P s) : Has bid P u := by
  obtain ⟨b, hb, p⟩ := h
  exact ⟨b, by rw [State.bindOf, e]; exact hb, p⟩
theorem Has.modBind {f : Binding → Binding} (h : Has bid P s) (hf : ∀ b, P b → Q (f b)) : Has bid Q (s.modBind bid f) := by
  obtain ⟨b, hb, p⟩ := h
  exact ⟨f b, by rw [modBind_bindOf_self, hb, Option.map_some], hf b p⟩
theorem Has.mono (h : Has bid P s) (hp : ∀ b, P b → Q b) : Has bid Q s := by
  obtain ⟨b, hb, p⟩ := h
  exact ⟨b, hb, hp b p⟩

/-- No more of MIL than the binding changed, and what held of it holds. -/
structure Keeping (bid : Nat) (P : Binding → Prop) (s u : State) : Prop where
  beside : Beside bid s u
  keeps : Has bid P s → Has bid P u

theorem Keeping.of_mil (h : u.mil = s.mil) : Keeping bid P s u := ⟨.of_mil h, .of_mil h⟩
theorem Keeping.trans (h : Keeping bid P s u) (k : Keeping bid P u v) : Keeping bid P s v := ⟨h.beside.trans k.beside, k.keeps ∘ h.keeps⟩
theorem Keeping.modBind {f : Binding → Binding} (hf : ∀ b, P b → P (f b)) : Keeping bid P s (s.modBind bid f) := ⟨.setBind _, fun h => h.modBind hf⟩
theorem Keeping.setBind (hb : s.bindOf bid = some b) (hp : P b → P b') : Keeping bid P s (s.setBind bid (some b')) := by
  refine ⟨.setBind _, ?_⟩
  rintro ⟨b1, at_, p⟩
  obtain rfl : b = b1 := Option.some.inj (hb.symm.trans at_)
  exact ⟨b', setBind_bindOf_self .., hp p⟩
theorem forEach_keeping {α : Type} {l : List α} {f : α → State → State} (h : ∀ a u, Keeping bid P u (f a u)) : Keeping bid P s (forEach l f s) :=
  forEach_invariant (P := Keeping bid P s) (fun a _ u k => k.trans (h a u)) (.of_mil rfl)

/-! ### Items and threads end -/

/-- What is untouched where items of the binding's threads end: which item a thread has, the yards and the claim order. -/
structure Endable (P : Binding → Prop) : Prop where
  items : ∀ b key y id, P b → P (b.putSide { b.side with threads := tmod Thread.reset b.side.threads key (fun h => { h with item := tset none h.item y id }) })
  yards : ∀ b l, P b → P (b.putSide { b.side with yards := l })
  order : ∀ b o l, P b → P { b with order := o, outs := l }

theorem releaseOuts_keeping (h : Endable P) (n : Nat) : Keeping bid P s (releaseOuts bid n s) := by
  induction n generalizing s with
  | zero => exact .of_mil rfl
  | succ n ih =>
    unfold releaseOuts
    split
    · exact .of_mil rfl
    · next b hb =>
      split
      · exact .of_mil rfl
      · next id rest _ =>
        split
        · exact .of_mil rfl
        · next o _ =>
          dsimp only
          have left : Keeping bid P s (s.setBind bid (some { b with order := rest, outs := b.outs.filter (fun o => o.item != id) })) := .setBind hb (h.order b _ _)
          split
          · exact (left.trans (.of_mil sendOutput_kept.e_mil)).trans ih
          · exact left.trans ih
theorem leaveOrder_keeping (h : Endable P) (id : Nat) : Keeping bid P s (leaveOrder bid id s) := by
  refine .trans (.modBind fun b p => ?_) (releaseOuts_keeping h _)
  split
  · exact p
  · exact h.order b _ b.outs p
theorem endItem_keeping (h : Endable P) (t : Th) (y : Nat) : Keeping (thBid t) P s (endItem t y s) := by
  have cur (u : State) : Keeping (thBid t) P u (setCur t y none u) := .modBind fun b => h.items b _ y none
  unfold endItem
  split
  · exact cur s
  · next i _ =>
    have taken (v : Side) : Keeping (thBid t) P s (setYard (thBid t) y ((v.yard y).filter (fun j => j.id != i.id)) (setCur t y none s)) :=
      (cur s).trans (.modBind fun b => h.yards b _)
    have dropped (e : Pkt × Hop) (w : State) (gone : Keeping (thBid t) P s w) : Keeping (thBid t) P s (leaveOrder (thBid t) i.id (if i.live then dropFlow 50 e w else w)) := by
      refine .trans (gone.trans ?_) (leaveOrder_keeping h i.id)
      split
      · exact .of_mil dropFlow_kept.e_mil
      · exact .of_mil rfl
    dsimp only
    cases (setCur t y none s).side (thBid t) with
    | none =>
      cases i.flow? with
      | none => exact cur s
      | some e => exact dropped e _ (cur s)
    | some v =>
      cases i.flow? with
      | none => exact taken v
      | some e => exact dropped e _ (taken v)

theorem threadNo_bid (small : bid < 4096) (key : Nat) : thBid (threadNo bid key) = bid := by
  rw [thBid, threadNo, BitVec.toNat_ofNat, Nat.mod_eq_of_lt small]

/-- A thread of the side stops. -/
def stopAt (key : Nat) (b : Binding) : Binding :=
  b.putSide { b.side with threads := tmod Thread.reset b.side.threads key (fun h => { h with st := .stopped, waits := .none }) }
/-- Before a thread stops its items end. -/
theorem stopThread_ends (h : Endable P) (small : bid < 4096) (key : Nat) :
    ∃ w, Keeping bid P s w ∧ stopThread bid key s = w.modBind bid (stopAt key) := by
  refine ⟨_, forEach_keeping fun y u => ?_, rfl⟩
  split
  · have ends : Keeping (thBid (threadNo bid key)) P u (endItem (threadNo bid key) y u) := endItem_keeping h _ y
    rwa [threadNo_bid small] at ends
  · exact .of_mil rfl
theorem stopThread_keeping (h : Endable P) (small : bid < 4096) (key : Nat) (stops : ∀ b, P b → P (stopAt key b)) : Keeping bid P s (stopThread bid key s) := by
  obtain ⟨w, ends, run⟩ := stopThread_ends (s := s) h small key
  rw [run]
  exact ends.trans (.modBind stops)

/-- Of the binding no more changed than what its threads hold: where it stands, what it reserves, and in a handover all that is new. -/
structure Frame (b0 b : Binding) : Prop where
  st : b.st = b0.st
  place : b.place = b0.place
  old : b.oldPlace = b0.oldPlace
  closing : b.closing = b0.closing
  back : b.backRes = b0.backRes
  oldBack : b.oldBackRes = b0.oldBackRes
  new : b0.oldPlace.isSome = true → b.threads = b0.threads ∧ b.yards = b0.yards

theorem Frame.refl : Frame b b := ⟨rfl, rfl, rfl, rfl, rfl, rfl, fun _ => ⟨rfl, rfl⟩⟩
theorem Frame.putSide (h : Frame b0 b) (v : Side) : Frame b0 (b.putSide v) := by
  unfold Binding.putSide
  split
  · exact ⟨h.st, h.place, h.old, h.closing, h.back, h.oldBack, h.new⟩
  · next none_ =>
    refine ⟨h.st, h.place, h.old, h.closing, h.back, h.oldBack, fun old => ?_⟩
    rw [← h.old, none_] at old
    exact absurd old Bool.false_ne_true
theorem frame_endable (b0 : Binding) : Endable (Frame b0) :=
  ⟨fun _ _ _ _ h => h.putSide _, fun _ _ h => h.putSide _, fun _ _ _ h => ⟨h.st, h.place, h.old, h.closing, h.back, h.oldBack, h.new⟩⟩

theorem stopThreads_keeping (h : Endable P) (small : bid < 4096) (stops : ∀ key b, P b → P (stopAt key b)) : Keeping bid P s (stopThreads bid s) := by
  unfold stopThreads
  split
  · exact .of_mil rfl
  · split
    · exact .of_mil rfl
    · dsimp only
      split
      · exact .of_mil rfl
      · exact forEach_keeping fun key _ => stopThread_keeping h small key (stops key)
theorem stopThreads_frame (small : bid < 4096) : Keeping bid (Frame b0) s (stopThreads bid s) :=
  stopThreads_keeping (frame_endable b0) small fun _ _ h => h.putSide _

/-- A binding that is not being unbound is not freed. -/
theorem finishUnbind_open (hb : s.bindOf bid = some b) (open_ : b.closing = false) : finishUnbind bid s = s := by
  unfold finishUnbind
  rw [hb]
  simp only [open_, Bool.false_and, Bool.false_eq_true, if_false]

/-! ### Threads start -/

/-- A copy of the binding is made resident: no more than its threads and its resident cores change, and no thread moves. -/
structure Entered (b b' : Binding) : Prop where
  same : b' = { b with threads := b'.threads, resident := b'.resident }
  pc : ∀ e ∈ b'.threads, ∃ e' ∈ b.threads, e.2.pc = e'.2.pc

theorem Entered.refl : Entered b b := ⟨rfl, fun e he => ⟨e, he, rfl⟩⟩
theorem Entered.old (h : Entered b b') : b'.oldPlace = b.oldPlace := by rw [h.same]

/-- The threads of the core go on. -/
def entered (c : Nat) (b : Binding) : Binding :=
  { b with
    resident := setBit b.resident c true
    threads := b.threads.map (fun e => if e.1 / 16 == c && e.2.st == .saved then (e.1, { e.2 with st := .ready }) else e) }
theorem Entered.enter (h : Entered b b') (c : Nat) : Entered b (entered c b') := by
  refine ⟨?_, fun e he => ?_⟩
  · rw [entered]
    conv => lhs; rw [h.same]
  · obtain ⟨x, hx, rfl⟩ := List.mem_map.mp he
    obtain ⟨y, hy, pc⟩ := h.pc x hx
    refine ⟨y, hy, ?_⟩
    split <;> exact pc
theorem enterCore_bindOf (hb : s.bindOf bid = some b) (old : b.oldPlace = none) (c : Nat) : (enterCore bid c s).bindOf bid = some (entered c b) := by
  rw [enterCore, modSide, modBind_bindOf_self, modBind_bindOf_self, hb, Option.map_some, Option.map_some]
  simp only [Binding.putSide, Binding.side, old, entered]

theorem settleIn_entered (hb : s.bindOf bid = some b) (old : b.oldPlace = none) : Beside bid s (settleIn bid s) ∧ Has bid (Entered b) (settleIn bid s) := by
  unfold settleIn
  split
  · exact ⟨.of_mil rfl, b, hb, .refl⟩
  · dsimp only
    refine forEach_invariant (P := fun u => Beside bid s u ∧ Has bid (Entered b) u) (fun c _ u h => ?_) ⟨.of_mil rfl, b, hb, .refl⟩
    obtain ⟨beside, b1, at_, entered⟩ := h
    split
    · exact ⟨beside.trans (((Beside.modCore _ _).trans (.setBind _)).trans (.setBind _)), _, enterCore_bindOf (s := u.modCore _ _) at_ (entered.old.trans old) c, entered.enter c⟩
    · exact ⟨beside, b1, at_, entered⟩

/-- The binding as its threads start. -/
def started (s : State) (bid : Nat) (b : Binding) : Binding :=
  { b with threads := startThreads bid (imgEntry (s.placeImage b.place)) b.place, tiles := [], scratch := startScratch (s.placeImage b.place), arrived := [], resident := 0 }
theorem startThreads_pc {entry : Nat} {p : Place} : ∀ e ∈ startThreads bid entry p, e.2.pc = entry := by
  intro e he
  obtain ⟨x, -, hx⟩ := List.mem_flatMap.mp he
  obtain ⟨i, -, rfl⟩ := List.mem_map.mp hx
  rfl
/-- The binding has started: every thread of it stands at ENTRY. -/
structure Starts (entry : Nat) (b b' : Binding) : Prop where
  st : b'.st = b.st
  place : b'.place = b.place
  old : b'.oldPlace = none
  yards : b'.yards = b.yards
  scratch : b'.scratchRes = b.scratchRes
  back : b'.backRes = b.backRes
  pc : ∀ e ∈ b'.threads, e.2.pc = entry

theorem startBinding_starts (hb : s.bindOf bid = some b) (old : b.oldPlace = none) : Beside bid s (startBinding bid s) ∧ Has bid (Starts (imgEntry (s.placeImage b.place)) b) (startBinding bid s) := by
  unfold startBinding
  rw [hb]
  obtain ⟨beside, entered⟩ := settleIn_entered (s := s.setBind bid (some (started s bid b))) (setBind_bindOf_self ..) old
  refine ⟨(Beside.setBind _).trans beside, entered.mono fun b' h => ?_⟩
  have pc : ∀ e ∈ b'.threads, e.2.pc = imgEntry (s.placeImage b.place) := fun e he => by
    obtain ⟨x, hx, same⟩ := h.pc e he
    exact same.trans (startThreads_pc x hx)
  rw [h.same]
  exact ⟨rfl, rfl, old, rfl, rfl, rfl, pc⟩

end
end Sys2Proof.Machine

/-! SUPPORT. The host's binding commands on a state that meets their checks (R291, R294, R301, R302, R310). -/
namespace Sys2Proof.Machine
open Sys2Proof

section
variable {s u v w : State} {b b' b0 : Binding} {bid sc bk : Nat} {q : Place} {p : HPort} {i : Instr} {P : State → Prop}

/-- A binding command that the checks before it let pass. -/
theorem completes_bindCommand {f : State → State} (run : exec i s = .next (bindCommand p f s)) (ho : Owner p s) (free : s.mil.bindBusy = false) (up : 4 ≤ s.glb.state.code) (h : P (f s)) :
    Completes i s P := by
  refine completes_owner run ho ?_
  rw [free, if_neg Bool.false_ne_true, if_neg (Nat.not_lt.mpr up)]
  exact h

/-- MIL_BIND shows the status; of MIL nothing else changed. -/
structure Answered (c : Nat) (w t : State) : Prop where
  status : t.mil.bindStatus = BitVec.ofNat 8 c
  used : t.mil.backUsed = w.mil.backUsed
  binds : ∀ n, t.bindOf n = w.bindOf n
theorem answered_of_mil {c : Nat} (h : v.mil = (bindStatus c w).mil) : Answered c w v :=
  ⟨by rw [h]; rfl, by rw [h]; rfl, fun n => by rw [State.bindOf, h]; rfl⟩
theorem answered_journal {c kind seq : Nat} {body : List Byte} : Answered c w (journal kind seq body (bindStatus c w)) := answered_of_mil journal_kept.e_mil

/-! ### BIND -/

/-- Bytes of MIL_BACK are reserved. -/
def addBack (bk : Nat) (s : State) : State := { s with mil.backUsed := s.mil.backUsed + BitVec.ofNat 64 bk }

/-- Bytes of MIL_BACK are freed. -/
def takeBack (bk : Nat) (s : State) : State := { s with mil.backUsed := s.mil.backUsed - BitVec.ofNat 64 bk }

theorem doBind_bound (serves : s.glb.state ≠ .cordoned) (none_ : s.bindOf bid = none) (check : placeCheck s bid s.argPlace = .ok (sc, bk)) :
    ∃ w, Answered 0 w (doBind bid s) ∧ w.mil.backUsed = s.mil.backUsed + BitVec.ofNat 64 bk ∧ Has bid (Starts (imgEntry (s.placeImage s.argPlace)) (.new s.argPlace sc bk)) w ∧
      ∀ c, c ≠ bid → w.bindOf c = s.bindOf c := by
  have placed : Beside bid _ ((addBack bk s).setBind bid (some (.new s.argPlace sc bk))) := .setBind _
  obtain ⟨beside, starts⟩ := startBinding_starts (s := (addBack bk s).setBind bid (some (.new s.argPlace sc bk))) (setBind_bindOf_self ..) rfl
  have run : doBind bid s = journal 7 0 (bindJournal (addBack bk s) bid s.argPlace) (bindStatus 0 (startBinding bid
      ((addBack bk s).setBind bid (some (.new s.argPlace sc bk))))) := by
    unfold doBind
    simp only [beq_false_of_ne serves, none_, check, Option.isSome_none, Bool.false_eq_true, if_false]
    rfl
  rw [run]
  exact ⟨_, answered_journal, beside.used, starts, (placed.trans beside).others⟩

theorem doBind_refused {c : Nat} (serves : s.glb.state ≠ .cordoned) (why : if (s.bindOf bid).isSome then c = 4 else placeCheck s bid s.argPlace = .error c) :
    doBind bid s = bindStatus c s := by
  unfold doBind
  dsimp only
  rw [beq_false_of_ne serves, if_neg Bool.false_ne_true]
  split at why
  · next bound => rw [if_pos bound, why]
  · next free => rw [if_neg free, why]

/-! ### REBIND -/

/-- The binding in the handover that a REBIND begins. -/
def handedOver (b : Binding) (q : Place) (sc bk : Nat) : Binding :=
  { b with
    st := .handover, place := q, threads := [], tiles := [], scratch := [], yards := [], scratchRes := sc, backRes := bk,
    oldPlace := some b.place, oldThreads := b.threads, oldTiles := b.tiles, oldScratch := b.scratch,
    oldYards := b.yards, oldScratchRes := b.scratchRes, oldBackRes := b.backRes }
theorem doRebind_bound (serves : s.glb.state ≠ .cordoned) (hb : s.bindOf bid = some b) (bound : b.st = .bound) (open_ : b.closing = false)
    (hq : q = { s.argPlace with kind := b.place.kind, ycap := b.place.ycap }) (stays : b.place.kind = true ∨ q.district = b.place.district ∨ s.ctxNames bid = false)
    (check : placeCheck s bid q = .ok (sc, bk)) : ∃ body, doRebind bid s =
      settleEnding bid (journal 7 0 body (bindStatus 0 ((addBack bk s).setBind bid (some (handedOver b q sc bk))))) := by
  subst hq
  have named : (!b.place.kind && s.argPlace.district != b.place.district && s.ctxNames bid) = false := by
    rcases stays with h | h | h
    · rw [h]; rfl
    · rw [show s.argPlace.district = b.place.district from h, bne_self_eq_false, Bool.and_false]; rfl
    · rw [h, Bool.and_false]
  have fresh : (b.st == BindState.handover || b.closing) = false := by rw [bound, open_]; rfl
  have whole : (b.st == BindState.faulted) = false := by rw [bound]; rfl
  unfold doRebind
  rw [hb]
  dsimp only
  rw [beq_false_of_ne serves, fresh, named, check, whole]
  exact ⟨_, rfl⟩

/-- Where no thread of the old side has an item, stopping them leaves its yards. -/
structure Idle (l : Tab (List YItem)) (b : Binding) : Prop where
  old : b.oldPlace.isSome = true
  yards : b.oldYards = l
  items : ∀ k, (tget Thread.reset b.oldThreads k).item = []
theorem Idle.side {l : Tab (List YItem)} (h : Idle l b) : b.side.threads = b.oldThreads ∧ b.side.yards = b.oldYards := by
  obtain ⟨q, hq⟩ := Option.isSome_iff_exists.mp h.old
  rw [Binding.side, hq]
  exact ⟨rfl, rfl⟩
theorem Idle.stopAt {l : Tab (List YItem)} (h : Idle l b) (key : Nat) : Idle l (stopAt key b) := by
  obtain ⟨threads, yards⟩ := h.side
  obtain ⟨q, hq⟩ := Option.isSome_iff_exists.mp h.old
  have put : Machine.stopAt key b = { b with
      oldThreads := tmod Thread.reset b.side.threads key (fun h => { h with st := .stopped, waits := .none })
      oldTiles := b.side.tiles, oldScratch := b.side.scratch, oldYards := b.side.yards } := by
    rw [Machine.stopAt, Binding.putSide, hq]
  rw [put, threads, yards]
  refine ⟨h.old, h.yards, fun k => ?_⟩
  dsimp only
  by_cases hk : k = key
  · rw [hk, tget_tmod_self]
    exact h.items key
  · rw [tget_tmod_of_ne _ _ _ hk]
    exact h.items k
theorem curItem_idle {l : Tab (List YItem)} {t : Th} (h : Has (thBid t) (Idle l) s) (y : Nat) : s.curItem t y = none := by
  obtain ⟨b, hb, idle⟩ := h
  have side : s.side (thBid t) = some b.side := by rw [State.side, hb, Option.map_some]
  have item : (s.thread t).item = [] := by
    rw [State.thread, side]
    dsimp only
    rw [idle.side.1]
    exact idle.items (thKey t)
  rw [State.curItem, side, item]
  rfl
theorem stopThread_idle {l : Tab (List YItem)} (small : bid < 4096) (key : Nat) (h : Has bid (Idle l) s) : Has bid (Idle l) (stopThread bid key s) := by
  have none_ (y : Nat) : s.curItem (threadNo bid key) y = none := curItem_idle (by rwa [threadNo_bid small]) y
  have ends : forEach (List.range 8) (fun y s => if (s.curItem (threadNo bid key) y).isSome then endItem (threadNo bid key) y s else s) s = s := by
    refine forEach_invariant (P := fun u => u = s) (fun y _ u hu => ?_) rfl
    rw [hu, none_ y]
    rfl
  rw [stopThread, ends]
  exact h.modBind fun _ p => p.stopAt key
theorem stopThreads_idle {l : Tab (List YItem)} (small : bid < 4096) (h : Has bid (Idle l) s) : Has bid (Idle l) (stopThreads bid s) := by
  unfold stopThreads
  split
  · exact h
  · split
    · exact h
    · dsimp only
      split
      · exact h
      · exact forEach_invariant (P := Has bid (Idle l)) (fun key _ _ k => stopThread_idle small key k) h
/-- A thread table without items has none at any key. -/
theorem items_none {l : Tab Thread} (h : ∀ e ∈ l, e.2.item = []) (k : Nat) : (tget Thread.reset l k).item = [] := by
  by_cases hk : tget Thread.reset l k = Thread.reset
  · rw [hk]; rfl
  · exact h _ (tget_mem hk)

/-- Threads of the old side go on while an item waits in its input yard. -/
theorem stopThreads_fed (hb : s.bindOf bid = some b) (open_ : b.closing = false) (fed : ∃ i, i ∈ b.side.yard 0 ∧ i.complete = true ∧ i.claimed = none) : stopThreads bid s = s := by
  obtain ⟨i, hi, complete, claimed⟩ := fed
  have any : (b.side.yard 0).any (fun i => i.complete && i.claimed.isNone) = true := List.any_eq_true.mpr ⟨i, hi, by rw [complete, claimed]; rfl⟩
  unfold stopThreads
  rw [hb]
  dsimp only
  rw [open_, any]
  split <;> rfl

/-- A REBIND hands the binding over: the reservations of the new place are added, and the old side keeps its yards where it has work or no items. -/
theorem settleEnding_handed (small : bid < 4096) (hw : w.bindOf bid = some (handedOver b q sc bk)) (open_ : b.closing = false) :
    Beside bid w (settleEnding bid w) ∧ ∃ b', (settleEnding bid w).bindOf bid = some b' ∧ Frame (handedOver b q sc bk) b' ∧
      (((∃ i, i ∈ b.yard 0 ∧ i.complete = true ∧ i.claimed = none) ∨ ∀ e, e ∈ b.threads → e.2.item = []) → b'.oldYards = b.yards) := by
  have keeping : Keeping bid (Frame (handedOver b q sc bk)) w (stopThreads bid w) := stopThreads_frame small
  obtain ⟨b', hb', frame⟩ := keeping.keeps ⟨_, hw, .refl⟩
  rw [settleEnding, finishUnbind_open hb' (frame.closing.trans open_)]
  refine ⟨keeping.beside, b', hb', frame, fun h => ?_⟩
  rcases h with fed | items
  · rw [stopThreads_fed hw open_ fed, hw] at hb'
    rw [← Option.some.inj hb']
    rfl
  · obtain ⟨b1, hb1, idle⟩ := stopThreads_idle (s := w) (l := b.yards) small ⟨_, hw, rfl, rfl, items_none items⟩
    rw [Option.some.inj (hb'.symm.trans hb1)]
    exact idle.yards

/-! ### The end of a handover -/

theorem stopThreads_stopped (hb : s.bindOf bid = some b) (stopped : ∀ e ∈ b.side.threads, e.2.st = .stopped) : stopThreads bid s = s := by
  unfold stopThreads
  rw [hb]
  dsimp only
  split
  · rfl
  · split
    · rfl
    · rw [List.filter_eq_nil_iff.mpr fun e he => by simp [stopped e he]]
      rfl
/-- The binding once its handover has ended, before its threads start. -/
def takenOver (b : Binding) : Binding :=
  { b with st := .bound, oldPlace := none, oldThreads := [], oldTiles := [], oldScratch := [], oldYards := [], oldScratchRes := 0, oldBackRes := 0 }
theorem handover_ends (hb : s.bindOf bid = some b) (old : b.oldPlace = some q) (open_ : b.closing = false) (empty : tget [] b.oldYards 0 = [])
    (stopped : ∀ e, e ∈ b.oldThreads → e.2.st = .stopped) :
    completeHandover bid (settleEnding bid s) = raiseMil 1 (startBinding bid
      ((takeBack b.oldBackRes s).setBind bid (some (takenOver b)))) := by
  have side : b.side = ⟨q, b.oldThreads, b.oldTiles, b.oldScratch, b.oldYards⟩ := by rw [Binding.side, old]
  have all : b.side.allStopped = true := by
    rw [side]
    exact List.all_eq_true.mpr fun e he => by rw [stopped e he]; rfl
  have drained : (b.side.yard 0).isEmpty = true := by
    rw [side, Side.yard, empty]
    rfl
  rw [settleEnding, stopThreads_stopped hb (by rw [side]; exact stopped), finishUnbind_open hb open_, completeHandover, hb]
  dsimp only
  rw [all, drained, old]
  rw [Option.isSome_some, Bool.and_self, Bool.and_self, if_pos rfl, finishHandover, hb]
  dsimp only
  rw [old]
  rfl

/-! ### UNBIND -/

/-- Every thread but those of the list has stopped. -/
structure StoppedBut (ks : List Nat) (b : Binding) : Prop where
  old : b.oldPlace = none
  wf : twf Thread.reset b.threads = true
  stopped : ∀ k, (tget Thread.reset b.threads k).st = .stopped ∨ k ∈ ks
theorem StoppedBut.threads {ks ks' : List Nat} {key : Nat} {f : Thread → Thread} (h : StoppedBut ks b)
    (keep : ∀ k, ((tget Thread.reset (tmod Thread.reset b.threads key f) k).st = .stopped) ∨ k ∈ ks') :
    StoppedBut ks' (b.putSide { b.side with threads := tmod Thread.reset b.side.threads key f }) := by
  have put : b.putSide { b.side with threads := tmod Thread.reset b.side.threads key f } = { b with threads := tmod Thread.reset b.threads key f } := by
    simp only [Binding.putSide, Binding.side, h.old]
  rw [put]
  exact ⟨h.old, twf_tmod _ _ h.wf, keep⟩
theorem stoppedBut_endable (ks : List Nat) : Endable (StoppedBut ks) where
  items b key y id h := h.threads fun k => by
    by_cases hk : k = key
    · rw [hk, tget_tmod_self]
      exact h.stopped key
    · rw [tget_tmod_of_ne _ _ _ hk]
      exact h.stopped k
  yards b l h := by
    have put : b.putSide { b.side with yards := l } = { b with yards := l } := by simp only [Binding.putSide, Binding.side, h.old]
    rw [put]
    exact ⟨h.old, h.wf, h.stopped⟩
  order b o l h := ⟨h.old, h.wf, h.stopped⟩
theorem StoppedBut.stopAt {key : Nat} {ks : List Nat} (h : StoppedBut (key :: ks) b) : StoppedBut ks (stopAt key b) :=
  h.threads fun k => by
    by_cases hk : k = key
    · rw [hk, tget_tmod_self]
      exact .inl rfl
    · rw [tget_tmod_of_ne _ _ _ hk]
      exact (h.stopped k).imp_right fun m => (List.mem_cons.mp m).resolve_left hk
theorem stopThread_stops {key : Nat} {ks : List Nat} (small : bid < 4096) (h : Has bid (StoppedBut (key :: ks)) s) : Has bid (StoppedBut ks) (stopThread bid key s) := by
  obtain ⟨w, ends, run⟩ := stopThread_ends (s := s) (stoppedBut_endable (key :: ks)) small key
  rw [run]
  exact (ends.keeps h).modBind fun _ p => p.stopAt
theorem stopThread_each (small : bid < 4096) {ks : List Nat} (h : Has bid (StoppedBut ks) s) : Has bid (StoppedBut []) (forEach ks (stopThread bid) s) := by
  induction ks generalizing s with
  | nil => exact h
  | cons key ks ih =>
    rw [forEach, List.foldl_cons]
    exact ih (stopThread_stops small h)

theorem below_of_mem {α : Type} {l : Tab α} {n : Nat} (sorted : tsorted (some n) l = true) {e : Nat × α} (he : e ∈ l) : n < e.1 := by
  induction l generalizing n with
  | nil => exact absurd he List.not_mem_nil
  | cons x r ih =>
    obtain ⟨k, v⟩ := x
    simp only [tsorted, Bool.and_eq_true] at sorted
    obtain ⟨above, rest⟩ := sorted
    have above : n < k := of_decide_eq_true above
    rcases List.mem_cons.mp he with rfl | here
    · exact above
    · exact above.trans (ih rest here)
theorem tget_of_mem {α : Type} {d : α} {l : Tab α} {n : Option Nat} (sorted : tsorted n l = true) {e : Nat × α} (he : e ∈ l) : tget d l e.1 = e.2 := by
  induction l generalizing n with
  | nil => exact absurd he List.not_mem_nil
  | cons x r ih =>
    obtain ⟨k, v⟩ := x
    simp only [tsorted, Bool.and_eq_true] at sorted
    rcases List.mem_cons.mp he with rfl | here
    · rw [tget, if_pos rfl]
    · rw [tget, if_neg (Nat.ne_of_gt (below_of_mem sorted.2 here)), ih sorted.2 here]
theorem StoppedBut.all (h : StoppedBut [] b) : b.side.allStopped = true := by
  have side : b.side = ⟨b.place, b.threads, b.tiles, b.scratch, b.yards⟩ := by rw [Binding.side, h.old]
  rw [side, Side.allStopped, List.all_eq_true]
  intro e he
  have sorted : tsorted none b.threads = true := by
    have := h.wf
    rw [twf, Bool.and_eq_true] at this
    exact this.1
  rcases h.stopped e.1 with st | none_
  · rw [tget_of_mem sorted he] at st
    exact beq_iff_eq.mpr st
  · exact absurd none_ List.not_mem_nil

/-- Threads of a binding being unbound that neither hold an item nor are switched out all stop. -/
theorem stopThreads_closing (small : bid < 4096) (hb : s.bindOf bid = some b) (closing : b.closing = true) (old : b.oldPlace = none) (wf : twf Thread.reset b.threads = true)
    (free : ∀ e, e ∈ b.threads → e.2.st = .stopped ∨ (e.2.st ≠ .switched ∧ e.2.item = [])) : Has bid (StoppedBut []) (stopThreads bid s) := by
  have side : b.side = ⟨b.place, b.threads, b.tiles, b.scratch, b.yards⟩ := by rw [Binding.side, old]
  have ending : b.ending = true := by rw [Binding.ending, closing]; rfl
  unfold stopThreads
  rw [hb]
  dsimp only
  rw [ending, closing]
  simp only [Bool.not_true, Bool.false_and, Bool.false_eq_true, if_false]
  refine stopThread_each small ⟨b, hb, old, wf, fun k => ?_⟩
  by_cases ended : (tget Thread.reset b.threads k).st = .stopped
  · exact .inl ended
  · have listed := tget_mem (d := Thread.reset) (l := b.threads) (k := k) fun h => ended (by rw [h]; rfl)
    obtain ⟨here, items⟩ := (free _ listed).resolve_left ended
    have without : b.side.holds (tget Thread.reset b.threads k) = false := by
      rw [Side.holds, show (tget Thread.reset b.threads k).item = [] from items]
      rfl
    refine .inr (List.mem_map.mpr ⟨(k, tget Thread.reset b.threads k), List.mem_filter.mpr ⟨by rw [side]; exact listed, ?_⟩, rfl⟩)
    dsimp only
    rw [without]
    cases st : (tget Thread.reset b.threads k).st with
    | stopped => exact absurd st ended
    | switched => exact absurd st here
    | ready => rfl
    | saved => rfl
    | yardWait => rfl
    | barrier => rfl

theorem finishUnbind_freed (hb : s.bindOf bid = some b) (closing : b.closing = true) (all : b.side.allStopped = true) :
    (finishUnbind bid s).bindOf bid = none ∧ (finishUnbind bid s).mil.backUsed = s.mil.backUsed - BitVec.ofNat 64 (b.backRes + b.oldBackRes) := by
  unfold finishUnbind
  rw [hb]
  dsimp only
  rw [closing, all]
  constructor
  · rw [Bool.and_self, if_pos rfl, State.bindOf, dropFlows_binds]
    exact setBind_bindOf_self ..
  · exact (dropFlows_beside (bid := bid) _).used
end
end Sys2Proof.Machine

/-! SUPPORT. UNBIND, the end of a handover, RESTART and YARD_FLUSH of one binding (R291, R301, R302, R310). -/
namespace Sys2Proof.Machine
open Sys2Proof

section
variable {s t w : State} {b : Binding} {bid : Nat} {q : Place}

/-- The binding, of which no more is to be claimed. -/
def closed (b : Binding) : Binding := { b with closing := true }
theorem doUnbind_free (hb : s.bindOf bid = some b) (tf : s.tfNames bid = false) (ctx : s.ctxNames bid = false) :
    doUnbind bid s = journal 8 0 (toLE 4 bid) (bindStatus 0 (settleEnding bid (s.modBind bid closed))) := by
  unfold doUnbind
  rw [hb, tf, ctx]
  rfl
theorem doUnbind_named (hb : s.bindOf bid = some b) (named : s.tfNames bid = true ∨ s.ctxNames bid = true) : doUnbind bid s = bindStatus 4 s := by
  unfold doUnbind
  rw [hb, Bool.or_eq_true_iff.mpr named]
  rfl

/-- A binding being unbound is freed, or stays without further claims. -/
theorem settleEnding_closed (small : bid < 4096) (hb : s.bindOf bid = some b) (closing : b.closing = true) :
    (settleEnding bid s).bindOf bid = none ∨ ∃ b', (settleEnding bid s).bindOf bid = some b' ∧ b'.closing = true := by
  obtain ⟨b', at_, frame⟩ := (stopThreads_frame (s := s) (b0 := b) small).keeps ⟨b, hb, .refl⟩
  have closing' := frame.closing.trans closing
  rw [settleEnding]
  cases all : b'.side.allStopped with
  | true => exact .inl (finishUnbind_freed at_ closing' all).1
  | false =>
    have stays : finishUnbind bid (stopThreads bid s) = stopThreads bid s := by
      unfold finishUnbind
      rw [at_]
      dsimp only
      rw [all, Bool.and_false, if_neg Bool.false_ne_true]
    rw [stays]
    exact .inr ⟨b', at_, closing'⟩
/-- It is freed at once where no thread of it has work, and its reservations are given back. -/
theorem settleEnding_freed (small : bid < 4096) (hb : s.bindOf bid = some b) (closing : b.closing = true) (old : b.oldPlace = none) (wf : twf Thread.reset b.threads = true)
    (free : ∀ e, e ∈ b.threads → e.2.st = .stopped ∨ (e.2.st ≠ .switched ∧ e.2.item = [])) :
    (settleEnding bid s).bindOf bid = none ∧ (settleEnding bid s).mil.backUsed = s.mil.backUsed - BitVec.ofNat 64 (b.backRes + b.oldBackRes) := by
  have keeping : Keeping bid (Frame b) s (stopThreads bid s) := stopThreads_frame small
  obtain ⟨b', at_, frame⟩ := keeping.keeps ⟨b, hb, .refl⟩
  obtain ⟨b1, at1, stopped⟩ := stopThreads_closing small hb closing old wf free
  obtain rfl : b' = b1 := Option.some.inj (at_.symm.trans at1)
  rw [settleEnding, ← keeping.beside.used, ← frame.back, ← frame.oldBack]
  exact finishUnbind_freed at_ (frame.closing.trans closing) stopped.all

theorem doRestart_starts (hb : s.bindOf bid = some b) (faulted : b.st = .faulted) :
    doRestart bid s = bindStatus 0 (startBinding bid (s.setBind bid (some { b with st := .bound }))) := by
  have st : (b.st != BindState.faulted) = false := by rw [faulted]; rfl
  unfold doRestart
  rw [hb]
  dsimp only
  rw [st, if_neg Bool.false_ne_true]

theorem doFlush_flushed (small : bid < 4096) {y : Nat} (hb : s.bindOf bid = some b) (old : b.oldPlace = none) (open_ : b.closing = false) (order : b.order = [])
    (declared : y ≤ imgWyards (s.placeImage b.place)) (writable : b.place.kind = true ∨ y ≠ 0) :
    ∃ l w, Answered 0 w (doFlush bid y s) ∧ w.bindOf bid = some { b with threads := l, yards := tset [] b.yards y (flushed (tget [] b.yards y)) } := by
  have here : thBid (threadNo bid 0) = bid := threadNo_bid small 0
  obtain ⟨l, settled, -⟩ := flushYard_settled (t := threadNo bid 0) (y := y) ⟨by rw [here]; exact hb, old, open_⟩ order
  have ends := settled.settleEnding
  have at_ := settled.bind
  rw [here] at ends at_
  have new : flushNew bid y (flushYard bid y s) = flushYard bid y s := by
    unfold flushNew
    rw [at_]
    dsimp only
    rw [old, Option.isNone_none, if_pos rfl]
  have bad : (decide (imgWyards (s.placeImage b.side.place) < y) || (!b.place.kind && y == 0)) = false := by
    rw [show b.side.place = b.place by rw [Binding.side, old], decide_eq_false (Nat.not_lt.mpr declared), Bool.false_or]
    rcases writable with h | h
    · rw [h]; rfl
    · rw [beq_false_of_ne h, Bool.and_false]
  have run : doFlush bid y s = bindStatus 0 (flushYard bid y s) := by
    unfold doFlush
    rw [hb]
    dsimp only
    rw [bad, if_neg Bool.false_ne_true, new, ends]
  exact ⟨l, _, answered_of_mil (congrArg State.mil run), at_⟩

end
end Sys2Proof.Machine

section
open Sys2Proof Sys2Proof.Machine
/-- Settles O33: each command passes its checks, changes one binding beside the bytes reserved of MIL_BACK, and answers in MIL_BIND. -/
theorem bindingsComplete : Obligations.BindingsComplete := by
  unfold Obligations.BindingsComplete
  refine ⟨?_, ?_, ?_, ?_, ?_, ?_, ?_, ?_, ?_⟩
  · rintro p id _ sc bk s ho free up serves none_ rfl check
    obtain ⟨w, answered, used, ⟨b, hb, starts⟩, others⟩ := doBind_bound serves none_ check
    exact completes_bindCommand rfl ho free up ⟨answered.status, answered.used.trans used,
      ⟨b, (answered.binds _).trans hb, starts.st, starts.place, starts.old, starts.scratch, starts.back, starts.yards, starts.pc⟩,
      fun c hc => (answered.binds c).trans (others c hc)⟩
  · rintro p id c s ho free up serves why
    exact completes_bindCommand rfl ho free up (by rw [doBind_refused serves why]; rfl)
  · rintro p id b q sc bk s ho free up serves hb bound open_ hq stays check
    obtain ⟨body, run⟩ := doRebind_bound serves hb bound open_ hq stays check
    have answered : Answered 0 _ _ := answered_journal (kind := 7) (seq := 0) (body := body) (w := (addBack bk s).setBind id.toNat (some (handedOver b q sc bk)))
    obtain ⟨beside, b', at_, frame, work⟩ := settleEnding_handed id.isLt ((answered.binds id.toNat).trans (setBind_bindOf_self ..)) open_
    obtain ⟨threads, yards⟩ := frame.new rfl
    refine completes_bindCommand rfl ho free up ?_
    rw [run]
    exact ⟨beside.status.trans answered.status, beside.used.trans answered.used,
      ⟨b', at_, frame.st, frame.place, frame.old, yards, work, threads, frame.oldBack⟩,
      fun c hc => ((beside.others c hc).trans (answered.binds c)).trans (setBind_bindOf_of_ne _ _ hc)⟩
  · rintro id b q s hb old open_ empty stopped
    obtain ⟨beside, b', at_, starts⟩ := startBinding_starts (s := (takeBack b.oldBackRes s).setBind id.toNat (some (takenOver b))) (setBind_bindOf_self ..) rfl
    have raised : Beside 0 _ (raiseMil 1 _) := raiseMil_beside (s := startBinding id.toNat ((takeBack b.oldBackRes s).setBind id.toNat (some (takenOver b)))) 1
    refine completes_next (congrArg Host.Outcome.next (handover_ends hb old open_ empty stopped)) ⟨raiseMil_raised (by decide), raised.used.trans beside.used, b', ?_, starts.st, starts.place, starts.old, starts.yards, starts.pc⟩
    rw [State.bindOf, raiseMil_binds]
    exact at_
  · rintro p id b s ho free up hb tf ctx
    refine completes_bindCommand rfl ho free up ?_
    rw [doUnbind_free hb tf ctx]
    have answered : Answered 0 _ _ := answered_journal (kind := 8) (seq := 0) (body := toLE 4 id.toNat) (w := settleEnding id.toNat (s.modBind id.toNat closed))
    have closing : (s.modBind id.toNat closed).bindOf id.toNat = some (closed b) := by rw [modBind_bindOf_self, hb, Option.map_some]
    rw [answered.binds, answered.used]
    exact ⟨answered.status, settleEnding_closed id.isLt closing rfl, fun old wf ended => settleEnding_freed (b := closed b) id.isLt closing rfl old wf ended⟩
  · rintro p id b s ho free up hb named
    exact completes_bindCommand rfl ho free up (by rw [doUnbind_named hb named]; rfl)
  · rintro p id b s ho free up hb faulted old
    obtain ⟨-, b', at_, starts⟩ := startBinding_starts (s := s.setBind id.toNat (some { b with st := .bound })) (setBind_bindOf_self ..) old
    refine completes_bindCommand rfl ho free up ?_
    rw [doRestart_starts hb faulted]
    exact ⟨rfl, b', at_, starts.st, starts.place, starts.yards, starts.pc⟩
  · rintro p id s ho free up
    exact completes_bindCommand rfl ho free up rfl
  · rintro p id y b s ho up hb old open_ declared writable order
    have yard : b.place.kind = true ∨ y.toNat ≠ 0 := writable.imp_right fun h k => h (BitVec.eq_of_toNat_eq k)
    obtain ⟨l, w, answered, at_⟩ := doFlush_flushed id.isLt hb old open_ order declared yard
    refine completes_owner rfl ho ?_
    rw [if_neg (Nat.not_lt.mpr up)]
    exact ⟨answered.status, _, (answered.binds _).trans at_, rfl, tget_tset_self .., fun z hz => tget_tset_of_ne _ _ _ hz⟩
end

/-! SUPPORT. What a packet that the device sends in its own name, and a discard, leave of the job table, the teardown records, the fences and the queues (R132, R252, R323). -/
namespace Sys2Proof.Machine
open Sys2Proof

section
variable {s t u : State} {p : Pkt}

/-- With capture off and no combining entry: no entry comes to be, and what a queue gains belongs to no job. -/
structure Gains (s t : State) : Prop where
  off : t.swc.capture = false
  ents : t.mem.ents = []
  items : ∀ key k, .pkt k ∈ (t.queue key).items → .pkt k ∈ (s.queue key).items ∨ k.h.job = 0

/-- The job table and the teardown records stay, fences only leave, and what queues gain belongs to no job. -/
structure Calm (s t : State) : Prop where
  job : t.fwd.job = s.fwd.job
  sweep : t.mem.sweep = s.mem.sweep
  jobs : t.mem.jobs = s.mem.jobs
  notices : t.mem.notices = s.mem.notices
  fences : ∀ f ∈ t.lnd.fences, ∃ g ∈ s.lnd.fences, f.job = g.job
  queues : s.swc.capture = false → s.mem.ents = [] → Gains s t

/-- A packet that the device sends in its own name: a control packet, of no job. -/
structure Own (p : Pkt) : Prop where
  kind : p.h.kind = 8
  job : p.h.job = 0
  inner : 2048 ≤ p.inPort

namespace Calm

theorem same (job : t.fwd.job = s.fwd.job) (mem : t.mem = s.mem) (fences : ∀ f ∈ t.lnd.fences, ∃ g ∈ s.lnd.fences, f.job = g.job)
    (capture : t.swc.capture = s.swc.capture) (items : ∀ key k, .pkt k ∈ (t.queue key).items → .pkt k ∈ (s.queue key).items ∨ k.h.job = 0) : Calm s t :=
  ⟨job, by rw [mem], by rw [mem], by rw [mem], fences, fun off ents => ⟨capture.trans off, by rw [mem]; exact ents, items⟩⟩
/-- A change of FWD but its job table, or of SWC but capture and queues, or of what no part of it names. -/
theorem fields (job : t.fwd.job = s.fwd.job) (mem : t.mem = s.mem) (fences : t.lnd.fences = s.lnd.fences) (capture : t.swc.capture = s.swc.capture) (q : t.swc.q = s.swc.q) : Calm s t :=
  .same job mem (fun f hf => ⟨f, by rw [← fences]; exact hf, rfl⟩) capture fun key k hk => .inl (by rw [State.queue, q] at hk; exact hk)
theorem kept {L : List Blk} (k : Kept L s t) (free : Blk.fwd ∉ L ∧ Blk.mem ∉ L ∧ Blk.lnd ∉ L ∧ Blk.swc ∉ L) : Calm s t := by
  obtain ⟨fwd, mem, lnd, swc⟩ := free
  exact .fields (by rw [k.e_fwd fwd]) (k.e_mem mem) (by rw [k.e_lnd lnd]) (by rw [k.e_swc swc]) (by rw [k.e_swc swc])
theorem refl (s : State) : Calm s s := .fields rfl rfl rfl rfl rfl
theorem trans (h : Calm s t) (k : Calm t u) : Calm s u := by
  refine ⟨k.job.trans h.job, k.sweep.trans h.sweep, k.jobs.trans h.jobs, k.notices.trans h.notices, fun f hf => ?_, fun off ents => ?_⟩
  · obtain ⟨g, hg, fg⟩ := k.fences f hf
    obtain ⟨g', hg', gg'⟩ := h.fences g hg
    exact ⟨g', hg', fg.trans gg'⟩
  · have first := h.queues off ents
    have second := k.queues first.off first.ents
    exact ⟨second.off, second.ents, fun key k hk => (second.items key k hk).elim (first.items key k) .inr⟩
theorem ite {c : Prop} [Decidable c] (h : Calm s t) (k : Calm s u) : Calm s (if c then t else u) := by
  split
  · exact h
  · exact k
theorem forEach {α : Type} {l : List α} {f : α → State → State} (h : ∀ a u, Calm u (f a u)) : Calm s (forEach l f s) :=
  forEach_invariant (P := Calm s) (fun a _ u k => k.trans (h a u)) (.refl s)

/-- A change of MEM but its teardown records, in which no entry comes to be. -/
theorem mem {m : Mem} (sweep : m.sweep = s.mem.sweep) (jobs : m.jobs = s.mem.jobs) (notices : m.notices = s.mem.notices) (ents : s.mem.ents = [] → m.ents = []) : Calm s { s with mem := m } :=
  ⟨rfl, sweep, jobs, notices, fun f hf => ⟨f, hf, rfl⟩, fun off h => ⟨off, ents h, fun _ _ => .inl⟩⟩
theorem raiseMem (i : Nat) : Calm s (raiseMem i s) := by
  unfold Machine.raiseMem
  split
  · exact .refl s
  · exact .trans (.mem (m := { s.mem with event := setBit s.mem.event i true }) rfl rfl rfl id) (.kept fire_kept (by decide))
theorem memRecord (words : List Nat) : Calm s (memRecord words s).1 := by
  have stored (h : Half) (u : State) : Calm u { u with mem.rptHead := h } := .mem (m := { u.mem with rptHead := h }) rfl rfl rfl id
  unfold Machine.memRecord
  dsimp only
  split
  · exact (Calm.kept countX_kept (by decide)).trans (.raiseMem 2)
  · exact ((Calm.kept wrMem_kept (by decide)).trans (stored _ _)).trans (.kept fire_kept (by decide))

/-! ### Records of fences (R230, R252) -/

theorem lndRecord (words : List Nat) (msi : Bool) : Calm s (lndRecord words msi s) := by
  have raised (i : Nat) (u : State) : Calm u (raiseLnd i u) := .fields rfl rfl rfl rfl rfl
  have stored (h : BitVec 20) (u : State) : Calm u (raiseLnd 0 { u with lnd.ringHead := h }) := .fields rfl rfl rfl rfl rfl
  unfold Machine.lndRecord
  dsimp only
  split
  · exact (Calm.kept count_kept (by decide)).trans (raised 4 _)
  · split
    · exact ((Calm.kept wrMem_kept (by decide)).trans (stored _ _)).trans (.kept fire_kept (by decide))
    · exact (Calm.kept wrMem_kept (by decide)).trans (stored _ _)
theorem fenceRecord (event : Nat) (f : Fence) : Calm s (fenceRecord event f s) := .lndRecord ..
/-- Fences that `keep` does not name leave, each with its record. -/
theorem fencesLeave (keep gone : Fence → Bool) (event : Nat) :
    Calm s (Machine.forEach (s.lnd.fences.filter gone) (Machine.fenceRecord event) { s with lnd.fences := s.lnd.fences.filter keep }) :=
  .trans (t := { s with lnd.fences := s.lnd.fences.filter keep }) (.same rfl rfl (fun f hf => ⟨f, List.mem_of_mem_filter hf, rfl⟩) rfl fun _ _ => .inl)
    (.forEach fun f _ => .fenceRecord event f)
theorem modFences {g : Fence → Fence} (hg : ∀ f, (g f).job = f.job) : Calm s (modFences g s) := by
  refine .same rfl rfl (fun f hf => ?_) rfl fun _ _ => .inl
  obtain ⟨x, hx, rfl⟩ := List.mem_map.mp hf
  exact ⟨x, hx, hg x⟩
theorem settleFences : Calm s (settleFences s) := .fencesLeave (fun f => !f.complete) Fence.complete 4
theorem preLeave (p : Pkt) : Calm s (preLeave p s) := by
  unfold Machine.preLeave
  split
  · exact .refl s
  · exact (Calm.modFences fun f => by split <;> rfl).trans .settleFences
theorem preEnter (p : Pkt) : Calm s (preEnter p s) := .modFences fun f => by split <;> rfl
theorem consumeMarker (ids : List Nat) : Calm s (consumeMarker ids s) := (Calm.modFences fun f => by split <;> rfl).trans .settleFences

/-! ### Discards -/

theorem raiseFwd (i : Nat) : Calm s (raiseFwd i s) := by
  unfold Machine.raiseFwd
  split
  · exact .refl s
  · exact .trans (t := { s with fwd.event := setBit s.fwd.event i true }) (.fields rfl rfl rfl rfl rfl) (.kept fire_kept (by decide))
theorem leaveCount (p : Pkt) : Calm s (leaveCount p s) := by
  have left : Calm s (if p.h.epoch then { s with fwd.ecntB := s.fwd.ecntB - 1 } else { s with fwd.ecntA := s.fwd.ecntA - 1 }) :=
    .ite (.fields rfl rfl rfl rfl rfl) (.fields rfl rfl rfl rfl rfl)
  unfold Machine.leaveCount
  split
  · exact .refl s
  · exact .ite (left.trans (.raiseFwd 0)) left
theorem capture (fate : Fate) (d : Nat) (out : Option Nat) : Calm s (capture fate d p out s) := by
  cases off : s.swc.capture with
  | false =>
    rw [capture_off fate d out off]
    exact .refl s
  | true =>
    have kept := capture_kept (fate := fate) (dcode := d) (p := p) (out := out) (s := s)
    exact ⟨by rw [kept.e_fwd (by decide)], by rw [kept.e_mem (by decide)], by rw [kept.e_mem (by decide)], by rw [kept.e_mem (by decide)], fun f hf => ⟨f, by rw [← kept.e_lnd (by decide)]; exact hf, rfl⟩,
      fun h => absurd (off.symm.trans h) Bool.true_eq_false_eq_False⟩
theorem discard (d : Nat) (out : Option Nat) : Calm s (discard d p out s) :=
  (((Calm.kept countDiscard_kept (by decide)).trans (.capture .discard d out)).trans (.preLeave p)).trans ((Calm.leaveCount p).trans (.kept returnCredit_kept (by decide)))
theorem discardQ (d port : Nat) : Calm s (discardQ d p port s) :=
  ((Calm.kept countDiscard_kept (by decide)).trans (.capture .discard d (some port))).trans (.leaveCount p)
theorem dropFlow (d : Nat) (e : Pkt × Hop) : Calm s (dropFlow d e s) := .discard ..

/-! ### Queues -/

theorem setQueue {key : Nat} {q : Queue} (hq : ∀ k, .pkt k ∈ q.items → .pkt k ∈ (s.queue key).items ∨ k.h.job = 0) : Calm s (s.setQueue key q) := by
  refine .same rfl rfl (fun f hf => ⟨f, hf, rfl⟩) rfl fun n k hk => ?_
  by_cases here : n = key
  · subst here
    rw [setQueue_queue_self] at hk
    exact hq k hk
  · rw [setQueue_queue_of_ne _ _ here] at hk
    exact .inl hk
theorem modQueue {key : Nat} {f : Queue → Queue} (hf : ∀ q, (f q).items = q.items) : Calm s (s.modQueue key f) :=
  .setQueue fun k hk => .inl (by rw [hf] at hk; exact hk)
theorem consumeFront (key : Nat) : Calm s (consumeFront key s) := by
  unfold Machine.consumeFront
  dsimp only
  split
  · exact .refl s
  · exact .trans (.setQueue fun k hk => .inl ((frontMarkers_suffix _).subset hk)) (.forEach fun i _ => .consumeMarker [i])
theorem settleQueue {port tc : Nat} {l : List QItem} (hl : l ⊆ (s.queue (queueKey port tc)).items) (newHead : Bool) : Calm s (settleQueue port tc l newHead s) := by
  have consumed : Calm s (Machine.consumeFront (queueKey port tc) (s.modQueue (queueKey port tc) (fun q => { q with items := l }))) :=
    .trans (.setQueue fun k hk => .inl (hl hk)) (.consumeFront _)
  unfold Machine.settleQueue
  dsimp only
  split
  · exact .ite (consumed.trans (.modQueue fun _ => rfl)) consumed
  · exact consumed
theorem pushItem {port tc : Nat} {it : QItem} (hit : ∀ k, it = .pkt k → k.h.job = 0) : Calm s (pushItem port tc it s) := by
  obtain ⟨items, others, swc⟩ := pushItem_spec port tc it s
  have kept := pushItem_kept (p := port) (tc := tc) (it := it) (s := s)
  refine .same (by rw [kept.e_fwd (by decide)]) (kept.e_mem (by decide)) (fun f hf => ⟨f, by rw [← kept.e_lnd (by decide)]; exact hf, rfl⟩) (by rw [swc]) fun key k hk => ?_
  by_cases here : key = queueKey port tc
  · subst here
    rw [items] at hk
    exact (List.mem_append.mp hk).imp_right fun h => hit k (List.mem_singleton.mp h).symm
  · rw [others key here] at hk
    exact .inl hk
theorem pushMarker (port tc : Nat) (ids : List Nat) : Calm s (pushMarker port tc ids s) := by
  unfold Machine.pushMarker
  split
  · exact .refl s
  · exact ((Calm.modFences fun f => by split <;> rfl).trans (.pushItem (it := .marker ids) fun _ h => QItem.noConfusion h)).trans (.consumeFront _)
theorem enterCount (b : Bool) : Calm s (enterCount b s) := .ite (.fields rfl rfl rfl rfl rfl) (.fields rfl rfl rfl rfl rfl)
theorem putQueue {port : Nat} {pre : List Nat} (own : Own p) : Calm s (putQueue port .pkt pre p s) := by
  unfold Machine.putQueue
  dsimp only
  refine .trans (.trans (.trans (.trans (.trans (t := returnCredit p _) ?_ (.pushItem fun k hk => ?_)) ((Calm.kept count_kept (by decide)).trans (.kept countN_kept (by decide)))) (.capture ..)) (.pushMarker ..)) (.preLeave p)
  · exact .trans (.ite (.refl s) (.enterCount _)) (.kept returnCredit_kept (by decide))
  · rw [← QItem.pkt.inj hk]
    exact own.job

/-! ### The way of a control packet to a queue -/

theorem noteWrite {port : Nat} (own : Own p) : Calm s (noteWrite port p s) := by
  have request : p.h.isRequest = false := by rw [Hdr.isRequest, own.kind]; rfl
  unfold Machine.noteWrite
  dsimp only
  rw [request, if_neg Bool.false_ne_true]
  exact ⟨rfl, rfl, rfl, rfl, fun f hf => ⟨f, hf, rfl⟩, fun off ents => ⟨off, by rw [show s.mem.ents = [] from ents]; rfl, fun _ _ => .inl⟩⟩
theorem writeQueue {port : Nat} (own : Own p) : Calm s (writeQueue port p s) := by
  have single (u : State) : combinable u port p = false := by
    unfold combinable
    rw [decide_eq_false (Nat.not_lt.mpr own.inner)]
    simp only [Bool.and_false, Bool.false_and]
  have merges : mergeEntry s port p = none := by rw [mergeEntry, single]; rfl
  unfold Machine.writeQueue
  rw [merges]
  dsimp only
  rw [single]
  exact (Calm.noteWrite own).trans (.putQueue own)
theorem useBucket (b k port : Nat) : Calm s (useBucket b k port s) := .ite (.refl s) (.fields rfl rfl rfl rfl rfl)
theorem spray (l : Tab (List SprayCtr)) : Calm s { s with swc.spray := l } := .fields rfl rfl rfl rfl rfl
theorem openSpray (d : Nat) (h : Hdr) (b : Nat) : Calm s (openSpray d h b s).1 := by
  unfold Machine.openSpray
  split
  · exact .refl s
  · dsimp only
    split
    · exact (Calm.spray _).trans (.kept count_kept (by decide))
    · exact .spray _
theorem nextSeq (d : Nat) (c : SprayCtr) (c2 : Bool) : Calm s (nextSeq d c c2 s).1 := .spray _
theorem ownSetSeq (own : Own p) (v : Word) : Own { p with h := p.h.setSeq v } := ⟨own.kind, own.job, own.inner⟩
theorem writeHop {hop : Hop} {d port : Nat} (own : Own p) : Calm s (writeHop d hop port p s) := by
  unfold Machine.writeHop
  split
  · next b =>
    split
    · exact (Calm.useBucket ..).trans (.writeQueue own)
    · have opened := Calm.openSpray (s := s) d p.h b
      dsimp only
      generalize Machine.openSpray d p.h b s = o at opened
      split
      · exact (opened.trans (.spray _)).trans ((Calm.useBucket ..).trans (.writeQueue (ownSetSeq own 0)))
      · have turned (u : State) : Calm u { u with swc.rr := tset 0 u.swc.rr b port } := .fields rfl rfl rfl rfl rfl
        exact (opened.trans (.nextSeq ..)).trans ((turned _).trans (.writeQueue (ownSetSeq own _)))
  · exact .writeQueue own
theorem waitProd (stamp : Bool) (n : Nat) (hop : Hop) : Calm s (waitProd stamp n hop p s) := by
  unfold Machine.waitProd
  exact .trans (.ite (.refl s) ((Calm.enterCount _).trans (.preEnter p))) (.fields rfl rfl rfl rfl rfl)
theorem writeOut {hop : Hop} {d port : Nat} (own : Own p) : Calm s (writeOut d hop port p s) := by
  have single : s.copiesOver d hop p.h = none := by
    unfold State.copiesOver
    split
    · rw [own.kind]; rfl
    · rfl
  rw [Machine.writeOut, single]
  exact .writeHop own
theorem originate {stamp : Bool} {n : Nat} {hop : Hop} (own : Own p) : Calm s (originate stamp n hop p s) := by
  have stamped : Own (if stamp then { p with tin := s.now } else p) := by
    split
    · exact ⟨own.kind, own.job, own.inner⟩
    · exact own
  unfold Machine.originate
  refine .ite (.discard ..) (.ite (.refl s) (.ite (.discard ..) ?_))
  split
  · exact .writeOut stamped
  · exact .waitProd ..

/-! ### The lookup of a control packet (R133, R134) -/

theorem bank (h : OnlyQuarantine s t) (k : OnlyErrors s t) : Calm s t :=
  .fields (by rw [k.fwd]) h.mem h.fences (by rw [h.swc]) (by rw [h.swc])
theorem correctAt (tbl : Nat) (b : Bool) (i : Nat) : Calm s (correctAt tbl b i s) := .bank (correctAt_bank ..) (.correctAt ..)
theorem eccError (tbl : Nat) (b : Bool) (i : Nat) : Calm s (eccError tbl b i s) :=
  have logged (v : Word) : Calm s { s with fwd.eccLog := v } := .fields rfl rfl rfl rfl rfl
  ((logged _).trans (.raiseFwd 3)).trans (.bank (addPenalty_bank ..) (.of_kept addPenalty_kept))
theorem readEnts (b : Bool) (l : List (Nat × Nat)) : Calm s (readEnts b l s).1 := by
  induction l generalizing s with
  | nil => exact .refl s
  | cons e r ih =>
    obtain ⟨tbl, i⟩ := e
    rw [Machine.readEnts]
    split
    · exact .eccError ..
    · exact (Calm.correctAt ..).trans ih
theorem readTrie (b : Bool) (eid : Word) (d : Nat) : Calm s (readTrie b eid d s).1 := by
  have walked := Calm.readEnts (s := s) b (trieWalk s b eid).reads
  unfold Machine.readTrie
  dsimp only
  generalize Machine.readEnts b (trieWalk s b eid).reads s = r at walked
  obtain ⟨u, _ | _⟩ := r
  · exact walked
  · have counted : Calm s (countN (evNo 12 0x011 d) (trieWalk s b eid).errs u) := walked.trans (.kept countN_kept (by decide))
    dsimp only
    split
    · exact counted
    · next i _ =>
      have route := Calm.readEnts (s := countN (evNo 12 0x011 d) (trieWalk s b eid).errs u) b [(5, i)]
      generalize Machine.readEnts b [(5, i)] (countN (evNo 12 0x011 d) (trieWalk s b eid).errs u) = r at route
      obtain ⟨w, _ | _⟩ := r
      · exact counted.trans route
      · exact counted.trans route
theorem resolve (b : Bool) (eid : Word) (d : Nat) : Calm s (resolve b eid d s).1 := by
  have entry := Calm.readEnts (s := s) b [(6, eid.toNat)]
  unfold Machine.resolve
  generalize Machine.readEnts b [(6, eid.toNat)] s = r at entry
  obtain ⟨u, _ | _⟩ := r
  · exact entry
  · dsimp only
    split
    · split
      · exact entry
      · exact entry.trans (.readTrie ..)
    · exact entry.trans (.readTrie ..)
theorem lookupDst (b : Bool) (h : Hdr) (d : Nat) : Calm s (lookupDst s b h d).1 := by
  have entry := Calm.readEnts (s := s) b [(6, h.dst.toNat)]
  unfold Machine.lookupDst
  generalize Machine.readEnts b [(6, h.dst.toNat)] s = r at entry
  obtain ⟨u, _ | _⟩ := r
  · exact entry
  · have hop := Calm.resolve (s := u) b h.dst d
    dsimp only
    split
    · exact entry
    · generalize Machine.resolve b h.dst d u = r at hop
      obtain ⟨w, _ | x⟩ := r
      · exact entry.trans hop
      · exact entry.trans hop
theorem lookupSrc (b : Bool) (h : Hdr) (d : Nat) : Calm s (lookupSrc s b h d).1 := by
  have entry := Calm.readEnts (s := s) b [(6, h.src.toNat)]
  unfold Machine.lookupSrc
  generalize Machine.readEnts b [(6, h.src.toNat)] s = r at entry
  obtain ⟨u, _ | _⟩ := r
  · exact entry
  · dsimp only
    split
    · exact entry
    · split
      · have group := Calm.readEnts (s := u) b [(8, h.ctx % 65536)]
        generalize Machine.readEnts b [(8, h.ctx % 65536)] u = r at group
        obtain ⟨w, _ | _⟩ := r
        · exact entry.trans group
        · dsimp only
          split
          · exact entry.trans group
          · exact entry.trans group
      · exact entry.trans (.lookupDst ..)
theorem lookup (h : Hdr) (d : Nat) : Calm s (lookup s h d).1 := by
  unfold Machine.lookup
  dsimp only
  split
  · exact .refl s
  · split
    · exact .refl s
    · split
      · exact .lookupSrc ..
      · have entry := Calm.readEnts (s := s) h.epoch [(10, h.job.toNat)]
        generalize Machine.readEnts h.epoch [(10, h.job.toNat)] s = r at entry
        obtain ⟨u, _ | _⟩ := r
        · exact entry
        · dsimp only
          split
          · exact entry
          · split
            · exact entry
            · exact entry.trans (.lookupSrc ..)

/-- A control packet of the device leaves by its way, or is counted where it finds none. -/
theorem sendControl (d : Nat) (dst : Word) (op arg ctx job instant : Nat) : Calm s (sendControl d dst op arg ctx job instant s) := by
  have own : Own { h := ctlHdr s dst, payload := ctlPayload op arg ctx job instant, tin := s.now, inPort := 2048 + d, c2 := false, counted := false } :=
    ⟨by cases h : s.fwd.cur <;> simp only [Hdr.kind, ctlHdr, mkHdr, h] <;> decide, by simp only [Hdr.job, ctlHdr, mkHdr]; decide, Nat.le_add_right ..⟩
  have look := Calm.lookup (s := s) (ctlHdr s dst) d
  unfold Machine.sendControl
  dsimp only
  split
  · exact .refl s
  · split
    · exact .discard ..
    · generalize Machine.lookup s (ctlHdr s dst) d = r at look
      obtain ⟨u, answer⟩ := r
      rcases answer with ⟨c, o⟩ | dest
      · exact look.trans (.discard ..)
      · cases dest with
        | group => exact look
        | flow _ _ => exact look
        | output _ => exact look
        | hop way =>
          cases way with
          | toLocal => exact look
          | port n => exact look.trans (.originate own)
          | bundle b => exact look.trans (.originate own)
          | drop => exact look.trans (.originate own)

end Calm
end
end Sys2Proof.Machine

/-! SUPPORT. Job teardown (R323 to R326): what the sweep of a job leaves, and the three commands. -/
namespace Sys2Proof.Machine
open Sys2Proof

section
variable {s t u : State} {p : Pkt} {job : BitVec 20}

/-- The job table stays, a sweep in progress and the teardown records only count on, fences only leave, and what queues gain belongs to no job. -/
structure Sweeping (s t : State) : Prop where
  job : t.fwd.job = s.fwd.job
  sweep : t.mem.sweep.map (fun w => (w.1, w.2.1)) = s.mem.sweep.map (fun w => (w.1, w.2.1))
  jobs : t.mem.jobs.map (·.job) = s.mem.jobs.map (·.job)
  fences : ∀ f ∈ t.lnd.fences, ∃ g ∈ s.lnd.fences, f.job = g.job
  queues : s.swc.capture = false → s.mem.ents = [] → Gains s t

theorem Calm.sweeping (h : Calm s t) : Sweeping s t := ⟨h.job, by rw [h.sweep], by rw [h.jobs], h.fences, h.queues⟩

namespace Sweeping

theorem refl (s : State) : Sweeping s s := (Calm.refl s).sweeping
theorem trans (h : Sweeping s t) (k : Sweeping t u) : Sweeping s u := by
  refine ⟨k.job.trans h.job, k.sweep.trans h.sweep, k.jobs.trans h.jobs, fun f hf => ?_, fun off ents => ?_⟩
  · obtain ⟨g, hg, fg⟩ := k.fences f hf
    obtain ⟨g', hg', gg'⟩ := h.fences g hg
    exact ⟨g', hg', fg.trans gg'⟩
  · have first := h.queues off ents
    have second := k.queues first.off first.ents
    exact ⟨second.off, second.ents, fun key k hk => (second.items key k hk).elim (first.items key k) .inr⟩
theorem ite {c : Prop} [Decidable c] (h : Sweeping s t) (k : Sweeping s u) : Sweeping s (if c then t else u) := by
  split
  · exact h
  · exact k
theorem forEach {α : Type} {l : List α} {f : α → State → State} (h : ∀ a u, Sweeping u (f a u)) : Sweeping s (forEach l f s) :=
  forEach_invariant (P := Sweeping s) (fun a _ u k => k.trans (h a u)) (.refl s)
theorem fields (job : t.fwd.job = s.fwd.job) (mem : t.mem = s.mem) (fences : t.lnd.fences = s.lnd.fences) (capture : t.swc.capture = s.swc.capture) (q : t.swc.q = s.swc.q) : Sweeping s t :=
  (Calm.fields job mem fences capture q).sweeping
/-- A change of the teardown records, or of entries that are freed. -/
theorem mem {m : Mem} (sweep : m.sweep.map (fun w => (w.1, w.2.1)) = s.mem.sweep.map (fun w => (w.1, w.2.1))) (jobs : m.jobs.map (·.job) = s.mem.jobs.map (·.job))
    (ents : s.mem.ents = [] → m.ents = []) : Sweeping s { s with mem := m } :=
  ⟨rfl, sweep, jobs, fun f hf => ⟨f, hf, rfl⟩, fun off h => ⟨off, ents h, fun _ _ => .inl⟩⟩

/-! ### A packet of the job (R324) -/

theorem tdNotice (p : Pkt) : Sweeping s (tdNotice p s) := by
  have told (n : List (BitVec 20 × Word)) : Sweeping s { s with mem.notices := n, mem.jobs := s.mem.jobs.map (fun j => if j.job == p.h.job then { j with notices := j.notices + 1 } else j) } := by
    refine .mem (m := { s.mem with notices := n, jobs := s.mem.jobs.map (fun j => if j.job == p.h.job then { j with notices := j.notices + 1 } else j) }) rfl ?_ id
    rw [List.map_map]
    refine List.map_congr_left fun j _ => ?_
    dsimp only [Function.comp]
    split <;> rfl
  unfold Machine.tdNotice
  exact .ite (.refl s) (.ite (.refl s) (.ite (Calm.sendControl ..).sweeping (.ite ((Calm.kept countX_kept (by decide)).trans (.raiseMem 3)).sweeping ((told _).trans (Calm.sendControl ..).sweeping))))
theorem tdDrop (p : Pkt) : Sweeping s (tdDrop p s) := by
  refine .trans (.mem (m := { s.mem with sweep := s.mem.sweep.map (fun w => (w.1, w.2.1, w.2.2 + 1)) }) ?_ rfl id) (.tdNotice p)
  rw [Option.map_map]
  rfl

/-! ### The places that a sweep looks through (R323 step 3) -/

theorem freeComb (id : Nat) : Sweeping s (freeComb id s) :=
  .mem (m := { s.mem with ents := s.mem.ents.filter (fun e => e.id != id) }) rfl rfl fun h => by rw [h]; rfl
theorem purgedQueue (bad : Pkt → Bool) (key : Nat) : Sweeping s (purgedQueue bad key s) :=
  (Calm.settleQueue (by rw [queueKey_div_mod]; exact List.filter_subset_self ..) _).sweeping

section
variable {bad : Pkt → Bool} {drop : Pkt → Nat → State → State} (hdrop : ∀ p n u, Sweeping u (drop p n u))
include hdrop

theorem handOn (out : List Pkt) (ids : List Nat) (n : Nat) : Sweeping s (Machine.forEach out (fun p => drop p n) (Machine.forEach ids Machine.freeComb s)) :=
  .trans (.forEach fun id _ => .freeComb id) (.forEach fun p u => hdrop p n u)
theorem purgeQueue (key : Nat) : Sweeping s (purgeQueue bad drop key s) := by
  rw [purgeQueue_eq]
  exact .ite (.refl s) ((Sweeping.purgedQueue bad key).trans (.handOn hdrop ..))

variable (off : s.swc.capture = false) (ents : s.mem.ents = []) (stays : ∀ k : Pkt, k.h.job = 0 → bad k = false)
include off ents stays

/-- A queue that is purged holds no more of the packets named. -/
theorem purgeQueue_clear {key : Nat} {k : Pkt} (hk : .pkt k ∈ ((Machine.purgeQueue bad drop key s).queue key).items) : bad k = false := by
  rw [purgeQueue_eq] at hk
  split at hk
  · next untouched =>
    simp only [Bool.not_eq_true', List.any_eq_false, Bool.not_eq_true] at untouched
    exact untouched _ hk
  · have purged := (Sweeping.purgedQueue (s := s) bad key).queues off ents
    exact ((handOn hdrop _ _ _).queues purged.off purged.ents |>.items key k hk).elim purgedQueue_items (stays k)
theorem purgeQueues_clear {l : List Nat} {key : Nat} {k : Pkt} (hk : .pkt k ∈ ((Machine.forEach l (Machine.purgeQueue bad drop) s).queue key).items) :
    bad k = false ∨ (key ∉ l ∧ .pkt k ∈ (s.queue key).items) := by
  induction l generalizing s with
  | nil => exact .inr ⟨List.not_mem_nil, hk⟩
  | cons a r ih =>
    have first := (Sweeping.purgeQueue (s := s) (bad := bad) hdrop a).queues off ents
    refine (ih first.off first.ents hk).elim .inl fun later => ?_
    obtain ⟨absent, held⟩ := later
    by_cases here : key = a
    · subst here
      exact .inl (purgeQueue_clear hdrop off ents stays held)
    · exact (first.items key k held).elim (fun h => .inr ⟨fun m => (List.mem_cons.mp m).elim here absent, h⟩) fun h => .inl (stays k h)
end

theorem purgeFifo {bad : Held → Bool} {drop : Held → State → State} (hdrop : ∀ x u, Sweeping u (drop x u)) (key : Nat) : Sweeping s (purgeFifo bad drop key s) := by
  have held (l : Tab (List Held)) : Sweeping s { s with swc.holds := l } := .fields rfl rfl rfl rfl rfl
  exact (held _).trans (.forEach hdrop)
theorem purgeRo {bad : Pkt → Bool} {drop : Pkt → Option Nat → State → State} (hdrop : ∀ p o u, Sweeping u (drop p o u)) (d : Nat) : Sweeping s (purgeRo bad drop d s) := by
  have held (l : List Reorder) : Sweeping s (setRo d l s) := .fields rfl rfl rfl rfl rfl
  exact (held _).trans (.forEach fun _ _ => hdrop ..)
theorem purgeBinding {bad : Pkt → Bool} {mark : YItem → YItem} {drop : Pkt × Hop → State → State} (hdrop : ∀ e u, Sweeping u (drop e u)) (bid : Nat) :
    Sweeping s (purgeBinding bad mark drop bid s) := by
  have bound (v : Option Binding) : Sweeping s (s.setBind bid v) := .fields rfl rfl rfl rfl rfl
  unfold Machine.purgeBinding
  split
  · exact .refl s
  · exact (bound _).trans (.forEach hdrop)

theorem discarded (d : Nat) (p : Pkt) (out : Option Nat) : Sweeping s (Machine.tdDrop p (discard d p out s)) := (Calm.discard d out).sweeping.trans (.tdDrop p)
theorem discardedQ (d : Nat) (p : Pkt) (port : Nat) : Sweeping s (Machine.tdDrop p (discardQ d p port s)) := (Calm.discardQ d port).sweeping.trans (.tdDrop p)
theorem flowDropped (d : Nat) (p : Pkt) (e : Pkt × Hop) : Sweeping s (Machine.tdDrop p (dropFlow d e s)) := (Calm.dropFlow d e).sweeping.trans (.tdDrop p)

end Sweeping

/-- The first steps of a sweep: the combining entries and the output queues. -/
def toldComb (job : BitVec 20) (s : State) : State := forEach (s.combReqs job) tdNotice s
def sweptQueues (job : BitVec 20) (s : State) : State :=
  forEach ((toldComb job s).swc.q.map (·.1)) (purgeQueue (fun p => p.h.job == job) (fun p port s => tdDrop p (discardQ 5 p port s))) (toldComb job s)
theorem sweptQueues_sweeping (job : BitVec 20) (s : State) : Sweeping s (sweptQueues job s) :=
  .trans (.forEach fun p _ => .tdNotice p) (.forEach fun key _ => .purgeQueue (fun p n _ => .discardedQ 5 p n) key)
/-- The further steps, through ingress FIFOs, reorder stores, replications, producers, the pool of Landing and the yards of the Mill, put nothing of a job in a queue. -/
theorem sweepJob_rest (job : BitVec 20) (s : State) : Sweeping (sweptQueues job s) (sweepJob job s) := by
  have repl (u : State) (l : List ReplWait) : Sweeping u { u with swc.repl := l } := .fields rfl rfl rfl rfl rfl
  have prod (u : State) (l : List Waiting) : Sweeping u { u with swc.prod := l } := .fields rfl rfl rfl rfl rfl
  have pool (u : State) (l : List EaUnit) : Sweeping u { u with lnd.pool := l } := .fields rfl rfl rfl rfl rfl
  unfold sweepJob
  extract_lets bad told queues fifos stores replicated _ unreplicated produced _ unproduced pooled _ unpooled
  have fromQueues : queues = sweptQueues job s := rfl
  have toFifos : Sweeping queues fifos := .forEach fun key _ => .purgeFifo (fun h _ => .discarded 5 h.pkt _) key
  have toStores : Sweeping fifos stores := .forEach fun d _ => .purgeRo (fun p out _ => .discarded 5 p out) d
  have toRepl : Sweeping stores unreplicated := (repl stores _).trans (.forEach fun w _ => .discarded 5 w.pkt none)
  have toProd : Sweeping unreplicated unproduced := (prod unreplicated _).trans (.forEach fun w _ => .flowDropped 5 w.pkt (w.pkt, w.hop))
  have toPool : Sweeping unproduced unpooled := (pool unproduced _).trans (.forEach fun u _ => .discarded 5 u.pkt none)
  rw [← fromQueues]
  exact ((((toFifos.trans toStores).trans toRepl).trans toProd).trans toPool).trans (.forEach fun bid _ => .purgeBinding (fun e _ => .flowDropped 5 e.1 e) bid)
theorem sweepJob_sweeping (job : BitVec 20) (s : State) : Sweeping s (sweepJob job s) := (sweptQueues_sweeping job s).trans (sweepJob_rest job s)

/-- After the sweep no queue holds a packet of the job. -/
theorem sweepJob_clear (off : s.swc.capture = false) (ents : s.mem.ents = []) (some_ : job ≠ 0) {key : Nat} {k : Pkt} (hk : .pkt k ∈ ((sweepJob job s).queue key).items) : k.h.job ≠ job := by
  have stays (p : Pkt) (h : p.h.job = 0) : (p.h.job == job) = false := by
    rw [h]
    exact beq_false_of_ne some_.symm
  have told : Gains s (toldComb job s) := (Sweeping.forEach fun p _ => .tdNotice p).queues off ents
  have swept := (sweptQueues_sweeping job s).queues off ents
  rcases ((sweepJob_rest job s).queues swept.off swept.ents).items key k hk with held | none_
  · rcases Sweeping.purgeQueues_clear (fun p n _ => .discardedQ 5 p n) told.off told.ents stays held with other | ⟨absent, before⟩
    · exact ne_of_beq_false other
    · exfalso
      refine absent (List.mem_map.mpr ⟨_, tget_mem (d := Queue.reset) fun empty => ?_, rfl⟩)
      rw [State.queue, empty] at before
      exact absurd before List.not_mem_nil
  · rw [none_]
    exact some_.symm
end
end Sys2Proof.Machine

/-! SUPPORT. START, the end of the sweep, RELEASE and QUERY of a job's teardown (R323 to R326). -/
namespace Sys2Proof.Machine
open Sys2Proof

section
variable {s t : State} {p : HPort} {job : BitVec 20} {i : Instr} {P : State → Prop}

/-- A teardown command that the checks before it let pass. -/
theorem completes_tdCommand {f : State → State} (run : exec i s = .next (tdCommand p job f s)) (ho : Owner p s) (free : s.mem.busy = false) (up : 4 ≤ s.glb.state.code) (some_ : job ≠ 0)
    (h : P (f s)) : Completes i s P := by
  refine completes_owner run ho ?_
  rw [free, if_neg Bool.false_ne_true, if_neg (Nat.not_lt.mpr up), beq_false_of_ne some_, if_neg Bool.false_ne_true]
  exact h

/-! ### START (R323) -/

theorem abortFences_calm : Calm s (abortFences job s) := .fencesLeave (fun f => f.job != job) (fun f => f.job == job) 6
theorem abortFences_none : ∀ f ∈ (abortFences job s).lnd.fences, f.job ≠ job := by
  intro f hf
  have told : Calm { s with lnd.fences := s.lnd.fences.filter (fun f => f.job != job) } (abortFences job s) := .forEach fun f _ => .fenceRecord 6 f
  obtain ⟨g, hg, same⟩ := told.fences f hf
  rw [same]
  exact bne_iff_ne.mp (List.mem_filter.mp hg).2

/-- The job in teardown, with its sweep begun. -/
def tearing (job : BitVec 20) (s : State) : State :=
  { setTeardown job true s with mem.sweep := some (job, s.clk, 0), mem.jobs := s.mem.jobs ++ [⟨job, false, 0⟩] }
/-- START tears the job down: its fences are gone, and with capture off and no combining entry its packets too. -/
theorem startTeardown_torn (idle : s.mem.sweep = none) (valid : (tget JobEnt.zero s.fwd.job job.toNat).valid = true) (fresh : s.tdJob job = none) :
    ∃ w, startTeardown job s = tdStatus 0 w ∧ Sweeping (tearing job s) w ∧ (∀ f ∈ w.lnd.fences, f.job ≠ job) ∧
      (s.swc.capture = false → s.mem.ents = [] → job ≠ 0 → ∀ key k, .pkt k ∈ (w.queue key).items → k.h.job ≠ job) := by
  refine ⟨sweepJob job (abortFences job (tearing job s)), ?_, abortFences_calm.sweeping.trans (sweepJob_sweeping _ _), fun f hf => ?_, fun off ents some_ key k hk => ?_⟩
  · unfold startTeardown
    simp only [idle, valid, fresh, Option.isSome_none, Bool.not_true, Bool.false_eq_true, if_false]
    exact congrArg (fun w => tdStatus 0 (sweepJob job (abortFences job w))) rfl
  · obtain ⟨g, hg, same⟩ := (sweepJob_sweeping job (abortFences job (tearing job s))).fences f hf
    rw [same]
    exact abortFences_none g hg
  · have begun : Gains (tearing job s) (abortFences job (tearing job s)) := abortFences_calm.queues off ents
    exact sweepJob_clear begun.off begun.ents some_ hk

theorem Sweeping.sweep_of {c n : Nat} (h : Sweeping s t) (on : s.mem.sweep = some (job, c, n)) : ∃ w, t.mem.sweep = some (job, c, w) := by
  have same := h.sweep
  rw [on, Option.map_some, Option.map_eq_some_iff] at same
  obtain ⟨⟨j, c', w⟩, at_, eq⟩ := same
  obtain ⟨rfl, rfl⟩ := Prod.mk.inj eq
  exact ⟨w, at_⟩
theorem tdJob_isSome : (s.tdJob job).isSome = true ↔ job ∈ s.mem.jobs.map (·.job) := by
  rw [State.tdJob, List.find?_isSome, List.mem_map]
  exact exists_congr fun j => and_congr_right fun _ => beq_iff_eq

/-! ### The end of the sweep (R324) -/

theorem raiseMem_raised {k : Nat} (hk : k < 4) : (raiseMem k s).mem.event.getLsbD k = true := by
  unfold raiseMem
  split
  · assumption
  · rw [fire_kept.e_mem]
    exact getLsbD_setBit_self _ hk
/-- The job is swept. -/
def sweptOf (job : BitVec 20) (s : State) : State :=
  { s with mem.sweep := none, mem.jobs := s.mem.jobs.map (fun j => if j.job == job then { j with swept := true } else j) }
theorem endSweep_eq {c n : Nat} (on : s.mem.sweep = some (job, c, n)) : ∃ words, endSweep s = raiseMem 1 (memRecord words (sweptOf job (sweepJob job s))).1 := by
  unfold endSweep
  rw [on]
  exact ⟨_, rfl⟩
theorem sweptOf_swept : ∀ j ∈ (sweptOf job s).mem.jobs, j.job = job → j.swept = true := by
  intro j hj same
  obtain ⟨k, -, rfl⟩ := List.mem_map.mp hj
  by_cases here : k.job = job
  · rw [if_pos (beq_iff_eq.mpr here)]
  · rw [if_neg (beq_eq_false_iff_ne.mpr here ▸ Bool.false_ne_true)] at same
    exact absurd same here

/-! ### RELEASE (R325) -/

/-- The job is out of teardown, and its records are gone. -/
def released (job : BitVec 20) (s : State) : State :=
  setTeardown job false { s with mem.jobs := s.mem.jobs.filter (fun j => j.job != job), mem.notices := s.mem.notices.filter (fun e => e.1 != job) }
theorem releaseJob_calm {j : TdJob} (known : s.tdJob job = some j) (swept : j.swept = true) (free : ∀ e c, e ∈ s.lnd.ctxs → e.2 = some c → c.d.job ≠ job) :
    ∃ w, releaseJob job s = tdStatus 0 w ∧ Calm (released job s) w := by
  unfold releaseJob
  rw [known]
  dsimp only
  rw [swept, Bool.not_true, if_neg Bool.false_ne_true]
  split
  · next bound =>
    obtain ⟨e, he, mine⟩ := List.any_eq_true.mp bound
    cases hc : e.2 with
    | none => rw [hc] at mine; exact absurd mine Bool.false_ne_true
    | some c => rw [hc] at mine; exact absurd (beq_iff_eq.mp mine) (free e c he hc)
  · exact ⟨_, rfl, .trans (.forEach fun e _ => .sendControl ..) (.memRecord _)⟩

theorem sat_eq_min (m n : Nat) : sat m n = min m n := by
  rw [sat, Nat.min_comm, Nat.min_def]

end
end Sys2Proof.Machine

section
open Sys2Proof Sys2Proof.Machine
/-- Settles O22: what the sweep does with each packet of the job leaves the job table, the other records of teardown and the fences of other jobs, and puts only packets of no job in a queue. -/
theorem teardownCommandsComplete : Obligations.TeardownCommandsComplete := by
  unfold Obligations.TeardownCommandsComplete
  refine ⟨?_, ?_, ?_, ?_, ?_, ?_⟩
  · intro p job s ho free up some_ idle valid fresh
    obtain ⟨w, run, torn, unfenced, -⟩ := startTeardown_torn idle valid fresh
    refine completes_tdCommand rfl ho free up some_ ?_
    rw [run]
    have entry (k : Nat) : tget JobEnt.zero w.fwd.job k = tget JobEnt.zero (tmod JobEnt.zero s.fwd.job job.toNat (fun e => { e with teardown := true })) k := by
      rw [torn.job]
      rfl
    have listed : job ∈ w.mem.jobs.map (·.job) := by
      rw [torn.jobs]
      exact List.mem_map.mpr ⟨⟨job, false, 0⟩, List.mem_append_right _ (List.mem_singleton.mpr rfl), rfl⟩
    obtain ⟨n, sweeps⟩ := Sweeping.sweep_of (s := tearing job s) (n := 0) torn rfl
    exact ⟨rfl, (entry _).trans (tget_tmod_self ..), fun k hk => (entry k).trans (tget_tmod_of_ne _ _ _ hk), ⟨n, sweeps⟩, tdJob_isSome.mpr listed, unfenced⟩
  · intro p job s ho free up some_ idle valid fresh off ents
    obtain ⟨w, run, -, -, clear⟩ := startTeardown_torn idle valid fresh
    refine completes_tdCommand rfl ho free up some_ ?_
    rw [run]
    rintro key _ k hk rfl
    exact clear off ents some_ key k hk
  · intro dt job c n s on
    have on' : (elapse dt s).mem.sweep = some (job, c, n) := by rw [elapse_kept.e_mem, on]
    obtain ⟨words, run⟩ := endSweep_eq on'
    have told := (Calm.memRecord (s := sweptOf job (sweepJob job (elapse dt s))) words).trans (.raiseMem 1)
    refine completes_next (congrArg Host.Outcome.next run) ⟨told.sweep, ?_, raiseMem_raised (by decide), ?_⟩
    · rw [told.jobs]
      exact sweptOf_swept
    · rw [← run, endSweep_kept.e_clk, elapse_clk]
  · intro p job j s ho free up some_ known swept unbound
    obtain ⟨w, run, calm⟩ := releaseJob_calm known swept unbound
    refine completes_tdCommand rfl ho free up some_ ?_
    rw [run]
    have entry : tget JobEnt.zero w.fwd.job job.toNat = tget JobEnt.zero (tmod JobEnt.zero s.fwd.job job.toNat (fun e => { e with teardown := false })) job.toNat := by
      rw [calm.job]
      rfl
    refine ⟨rfl, entry.trans (tget_tmod_self ..), ?_, fun e he => ?_⟩
    · have gone : ¬(w.tdJob job).isSome = true := by
        rw [tdJob_isSome, calm.jobs, List.mem_map]
        rintro ⟨k, hk, same⟩
        exact bne_iff_ne.mp (List.mem_filter.mp hk).2 same
      exact Option.not_isSome_iff_eq_none.mp gone
    · have kept : e ∈ (released job s).mem.notices := calm.notices ▸ he
      exact bne_iff_ne.mp (List.mem_filter.mp kept).2
  · intro p job s ho free up some_
    refine completes_tdCommand rfl ho free up some_ ?_
    rw [← sat_eq_min]
    rfl
  · intro p job s ho free
    refine ⟨fun low => ?_, fun up none_ => ?_, fun up some_ busy => ?_, fun up some_ idle invalid => ?_, fun up some_ idle valid known => ?_⟩
    · refine completes_owner rfl ho ?_
      rw [free, if_neg Bool.false_ne_true, if_pos low]
      rfl
    · refine completes_owner rfl ho ?_
      rw [free, if_neg Bool.false_ne_true, if_neg (Nat.not_lt.mpr up), none_]
      rfl
    · refine completes_tdCommand rfl ho free up some_ ?_
      rw [startTeardown, if_pos (Option.isSome_iff_ne_none.mpr busy)]
      rfl
    · refine completes_tdCommand rfl ho free up some_ ?_
      rw [startTeardown, idle, invalid]
      rfl
    · refine completes_tdCommand rfl ho free up some_ ?_
      rw [startTeardown, idle, valid, Option.isSome_none, Bool.not_true, if_neg Bool.false_ne_true, if_neg Bool.false_ne_true, if_pos (Option.isSome_iff_ne_none.mpr known)]
      rfl
end

/-! SUPPORT. Flyovers (R342 to R347): what commands to an engine, the way back of the lanes and each instant leave of a flyover. -/
namespace Sys2Proof.Machine
open Sys2Proof

section
variable {s t u : State} {n e r : Nat}

/-! ### Commands to an engine (R329, R331) -/

/-- Of the optics no more changed than the engines. -/
structure EngOnly (s t : State) : Prop where
  opt : t.opt = { s.opt with eng := t.opt.eng }
  plt : t.plt = s.plt
  clk : t.clk = s.clk

theorem EngOnly.refl (s : State) : EngOnly s s := ⟨rfl, rfl, rfl⟩
theorem EngOnly.trans (h : EngOnly s t) (k : EngOnly t u) : EngOnly s u := ⟨by rw [k.opt, h.opt], k.plt.trans h.plt, k.clk.trans h.clk⟩
theorem EngOnly.fly (h : EngOnly s t) : t.opt.fly = s.opt.fly := by rw [h.opt]
theorem EngOnly.path (h : EngOnly s t) : t.opt.path = s.opt.path := by rw [h.opt]
theorem EngOnly.event (h : EngOnly s t) : t.opt.event = s.opt.event := by rw [h.opt]
theorem sendEng_only {type : Nat} {payload : List Byte} {fly : Option Nat} : EngOnly s (sendEng e type payload fly s) := by
  have raw := sendMsg_kept (lane := s.engLane e) (type := BitVec.ofNat 8 type) (seq := (s.engine e).seq) (payload := payload) (marked := false) (s := s)
  refine ⟨?_, raw.e_plt (by decide), raw.e_clk (by decide)⟩
  rw [sendEng, State.modEngine, sendEngRaw]
  dsimp only
  rw [raw.e_opt (by decide)]
theorem sendLoop_only {p element action : Nat} {fly : Option Nat} : EngOnly s (sendLoop p element action fly s) := sendEng_only
theorem sendXc_only {a b action num : Nat} : EngOnly s (sendXc a b action num s) := sendEng_only

/-! ### The way back (R346) -/

/-- The path carries its own light again. -/
def litAgain (c : Nat) (o : OPath) : OPath := { o with txst := .locked, rxst := .locked, fly := none, txMatch := c, rxMatch := c }
/-- The laser and the modulator ring of a path come back. -/
def loopsBack (n p : Nat) (s : State) : State := sendLoop p 1 5 (some n) (sendLoop p 0 3 (some n) s)
def pathBack (n p : Nat) (s : State) : State := (loopsBack n p s).modPath p (litAgain (loopsBack n p s).clk)
/-- Both crossings are released. -/
def crossingsBack (n : Nat) (s : State) : State := sendXc (s.flyPaths n).2 (s.flyPaths n).1 0 n (sendXc (s.flyPaths n).1 (s.flyPaths n).2 0 n s)
theorem flyRelease_eq (n : Nat) (s : State) : flyRelease n s = pathBack n (s.flyPaths n).2 (pathBack n (s.flyPaths n).1 (crossingsBack n s)) := rfl
theorem loopsBack_only {p : Nat} : EngOnly s (loopsBack n p s) := sendLoop_only.trans sendLoop_only
theorem crossingsBack_only : EngOnly s (crossingsBack n s) := sendXc_only.trans sendXc_only

/-- A change of the optics in which flyovers, events and FLOOR stay. -/
structure SameFlys (s t : State) : Prop where
  fly : t.opt.fly = s.opt.fly
  event : t.opt.event = s.opt.event
theorem SameFlys.trans (h : SameFlys s t) (k : SameFlys t u) : SameFlys s u := ⟨k.fly.trans h.fly, k.event.trans h.event⟩
theorem SameFlys.of_opt (h : t.opt = s.opt) : SameFlys s t := ⟨by rw [h], by rw [h]⟩
theorem SameFlys.modPath (p : Nat) (f : OPath → OPath) : SameFlys s (s.modPath p f) := ⟨rfl, rfl⟩
theorem EngOnly.sameFlys (h : EngOnly s t) : SameFlys s t := ⟨h.fly, h.event⟩
theorem SameFlys.flyOf (h : SameFlys s t) (n : Nat) : t.flyOf n = s.flyOf n := by rw [State.flyOf, h.fly, State.flyOf]

theorem pathBack_flys {p : Nat} : SameFlys s (pathBack n p s) := loopsBack_only.sameFlys.trans (.modPath _ _)
theorem pathBack_path (p : Nat) : (pathBack n p s).path p = litAgain (loopsBack n p s).clk (s.path p) := by
  rw [pathBack, modPath_path_self, State.path, loopsBack_only.path, State.path]
theorem pathBack_other {p q : Nat} (h : q ≠ p) : (pathBack n p s).path q = s.path q := by
  rw [pathBack, modPath_path_of_ne _ _ h, State.path, loopsBack_only.path, State.path]
theorem flyRelease_flys : SameFlys s (flyRelease n s) := (crossingsBack_only.sameFlys.trans pathBack_flys).trans pathBack_flys
/-- After the release both paths of the flyover carry their own light. -/
theorem flyRelease_lit : ((flyRelease n s).path (s.flyPaths n).1).txst = .locked ∧ ((flyRelease n s).path (s.flyPaths n).2).txst = .locked ∧
    ((flyRelease n s).path (s.flyPaths n).1).fly = none := by
  rw [flyRelease_eq, pathBack_path]
  by_cases one : (s.flyPaths n).1 = (s.flyPaths n).2
  · rw [one, pathBack_path]
    exact ⟨rfl, rfl, rfl⟩
  · rw [pathBack_other one, pathBack_path]
    exact ⟨rfl, rfl, rfl⟩

/-- The flyover ends with the reason: its lanes return, or it is free. -/
def Ended (n : Nat) (r : BitVec 4) (t : State) : Prop := (t.flyOf n).reason = r ∧ ((t.flyOf n).st = .returning ∨ (t.flyOf n).st = .free)
theorem Ended.same {r : BitVec 4} (h : Ended n r s) (k : t.opt.fly = s.opt.fly) : Ended n r t := by
  rw [Ended, State.flyOf, k]
  exact h

/-- Where lanes are back a flyover that returns is free; its reason, the paths and the events stay. -/
theorem settleFlys_ended {r : BitVec 4} (h : Ended n r s) : Ended n r (settleFlys s) ∧ (settleFlys s).opt.path = s.opt.path ∧ (settleFlys s).opt.event = s.opt.event := by
  refine forEach_invariant (P := fun u => Ended n r u ∧ u.opt.path = s.opt.path ∧ u.opt.event = s.opt.event) (fun e _ u hu => ?_) ⟨h, rfl, rfl⟩
  obtain ⟨ended, path, event⟩ := hu
  split
  · refine ⟨?_, path, event⟩
    rw [Ended]
    by_cases here : n = e.1
    · subst here
      rw [modFly_flyOf_self]
      exact ⟨ended.1, .inr rfl⟩
    · rw [modFly_flyOf_of_ne _ _ here]
      exact ended
  · exact ⟨ended, path, event⟩

/-- The lanes rejoin, and RETURNING ends once both have. -/
def settleBack (n : Nat) (s : State) : State := settleFlys (flyLanesBack n s)
theorem settleBack_ended {r : BitVec 4} (h : Ended n r s) : Ended n r (settleBack n s) ∧ (settleBack n s).opt.path = s.opt.path ∧ (settleBack n s).opt.event = s.opt.event := by
  have back : (flyLanesBack n s).opt = s.opt := flyLanesBack_kept.e_opt (by decide)
  obtain ⟨ended, path, event⟩ := settleFlys_ended (h.same (congrArg Opt.fly back))
  exact ⟨ended, path.trans (by rw [back]), event.trans (by rw [back])⟩

/-- The planned end of a flyover (R346). -/
theorem flyReturn_ended (n : Nat) (s : State) : Ended n 1 (flyReturn n s) ∧ (flyReturn n s).opt.path = (flyRelease n s).opt.path := by
  have returning : Ended n 1 ((flyRelease n s).modFly n (fun f => { f with st := .returning, reason := 1 })) := by
    rw [Ended, modFly_flyOf_self]
    exact ⟨rfl, .inl rfl⟩
  obtain ⟨ended, path, -⟩ := settleBack_ended returning
  exact ⟨ended, path⟩

/-! ### A flyover that ends at once (R344, R347) -/

theorem raiseOpt_raised {k : Nat} (hk : k < 5) : (raiseOpt k s).opt.event.getLsbD k = true := by
  unfold raiseOpt
  split
  · assumption
  · rw [fire_kept.e_opt (by decide)]
    exact getLsbD_setBit_self _ hk
theorem raiseOpt_fly (k : Nat) : (raiseOpt k s).opt.fly = s.opt.fly := by
  unfold raiseOpt
  split
  · rfl
  · rw [fire_kept.e_opt (by decide)]
theorem raiseOpt_path (k : Nat) : (raiseOpt k s).opt.path = s.opt.path := by
  unfold raiseOpt
  split
  · rfl
  · rw [fire_kept.e_opt (by decide)]
theorem flyNotice_opt {op num instant : Nat} : (flyNotice op num instant s).opt = s.opt := flyNotice_kept.e_opt (by decide)
theorem flyNotice_paths {op num instant k : Nat} : (flyNotice op num instant s).flyPaths k = s.flyPaths k := by
  unfold State.flyPaths State.flyOf State.pathOf State.optLane
  rw [flyNotice_opt, flyNotice_kept.e_plt (by decide)]

/-- The reason that a flyover ends with is noted. -/
def reasoned (n : Nat) (r : BitVec 4) (s : State) : State := s.modFly n (fun f => { f with reason := r })
/-- Its crossings are released, or were never asked for. -/
def unfly (n : Nat) (st : FlyState) (s : State) : State :=
  if st == .switching && (s.path (s.flyPaths n).1).txst != .fly then
    (s.modPath (s.flyPaths n).1 (fun o => { o with fly := none })).modPath (s.flyPaths n).2 (fun o => { o with fly := none })
  else flyRelease n s
theorem unfly_flys (st : FlyState) : SameFlys s (unfly n st s) := by
  unfold unfly
  split
  · exact (SameFlys.modPath _ _).trans (.modPath _ _)
  · exact flyRelease_flys
/-- A flyover that had begun to switch ends with its reason, and OPT_EVENT says so; its engine can be commanded. -/
theorem flyEnd_ended {reason : Nat} (switching : (s.flyOf n).st = .switching) (here : (s.engine ((s.flyPaths n).1 / 64)).st ≠ .lost) :
    Ended n (BitVec.ofNat 4 reason) (flyEnd n reason true s) ∧ (flyEnd n reason true s).opt.event.getLsbD 3 = true := by
  have answers : ((flyNotice 0x12 n 0 s).engine (((flyNotice 0x12 n 0 s).flyPaths n).1 / 64)).st ≠ .lost := by
    rw [flyNotice_paths, State.engine, flyNotice_opt]
    exact here
  have run : flyEnd n reason true s = raiseOpt 3 (settleBack n ((unfly n .switching (reasoned n (BitVec.ofNat 4 reason) (flyNotice 0x12 n 0 s))).modFly n (fun f => { f with st := .returning }))) := by
    unfold flyEnd
    simp only [switching, beq_false_of_ne answers]
    rfl
  have returning : Ended n (BitVec.ofNat 4 reason) ((unfly n .switching (reasoned n (BitVec.ofNat 4 reason) (flyNotice 0x12 n 0 s))).modFly n (fun f => { f with st := .returning })) := by
    rw [Ended, modFly_flyOf_self, (unfly_flys _).flyOf, reasoned, modFly_flyOf_self]
    exact ⟨rfl, .inl rfl⟩
  rw [run]
  exact ⟨(settleBack_ended returning).1.same (raiseOpt_fly 3), raiseOpt_raised (by decide)⟩

end
end Sys2Proof.Machine

/-! SUPPORT. The commands and the instants of a flyover (R342 to R347). -/
namespace Sys2Proof.Machine
open Sys2Proof

section
variable {s t u : State} {n : Nat} {p : HPort} {i : Instr} {P : State → Prop}

/-- A flyover command while none is in progress. -/
theorem completes_flyCommand {f : State → State} (run : exec i s = .next (flyCommand p f s)) (ho : Owner p s) (free : s.opt.busy = false) (h : P (f s)) : Completes i s P := by
  refine completes_owner run ho ?_
  rw [free, if_neg Bool.false_ne_true]
  exact h

/-! ### The optics after time has passed -/

theorem elapse_opt (dt : Nat) : (elapse dt s).opt = s.opt := elapse_kept.e_opt (by decide)
theorem elapse_flyOf (dt : Nat) : (elapse dt s).flyOf n = s.flyOf n := by rw [State.flyOf, elapse_opt, State.flyOf]
theorem elapse_flyPaths (dt : Nat) : (elapse dt s).flyPaths n = s.flyPaths n := by
  unfold State.flyPaths State.flyOf State.pathOf State.optLane
  rw [elapse_opt, elapse_kept.e_plt (by decide)]
theorem elapse_engine (dt e : Nat) : (elapse dt s).engine e = s.engine e := by rw [State.engine, elapse_opt, State.engine]

theorem flyNotice_flyOf {op num instant : Nat} : (flyNotice op num instant s).flyOf n = s.flyOf n := by rw [State.flyOf, flyNotice_opt, State.flyOf]

/-! ### SET and CLEAR (R342, R346) -/

/-- A flyover as SET prepares it. -/
def prepared (s : State) : Fly :=
  { Fly.reset with st := .prep, laneA := BitVec.ofNat 11 (fld s.opt.lanes.toNat 0 11), laneB := BitVec.ofNat 11 (fld s.opt.lanes.toNat 16 11), eidA := s.opt.eidA, eidB := s.opt.eidB, tcut := s.opt.at_.toNat }
theorem flySet_opt (ok : flyRefusal s n (fld s.opt.lanes.toNat 0 11) (fld s.opt.lanes.toNat 16 11) s.opt.at_.toNat = none) :
    (flySet n s).opt = { (s.modFly n (fun _ => prepared s)).opt with status := 0 } := by
  have run : flySet n s = flyStatus 0 (flyNotice 0x10 n s.opt.at_.toNat (s.modFly n (fun _ => prepared s))) := by
    unfold flySet
    dsimp only
    rw [ok]
    rfl
  rw [run]
  exact congrArg (fun o : Opt => { o with status := 0 }) flyNotice_opt
theorem flySet_refused {c : Nat} (bad : flyRefusal s n (fld s.opt.lanes.toNat 0 11) (fld s.opt.lanes.toNat 16 11) s.opt.at_.toNat = some c) :
    flySet n s = flyStatus c (count (evNo 36 0x002 c) s) := by
  unfold flySet
  dsimp only
  rw [bad]

/-- The flyover is to end at an instant. -/
def offAt (s : State) (f : Fly) : Fly := { f with st := .offPending, offAt := s.opt.at_.toNat }
theorem flyClear_instant (serves : s.glb.state = .inService) (on : (s.flyOf n).st = .on) (early : s.now + 2000000 ≤ s.opt.at_.toNat) (late : s.opt.at_.toNat ≤ s.now + 10 ^ 9) :
    (flyClear n s).opt.status = 0 ∧ (flyClear n s).flyOf n = offAt s (s.flyOf n) := by
  have run : flyClear n s = flyStatus 0 (flyNotice 0x12 n s.opt.at_.toNat (s.modFly n (offAt s))) := by
    unfold flyClear
    dsimp only
    rw [serves, on, if_neg (by decide), if_neg (by decide), if_neg (by rw [beq_iff_eq]; omega), if_neg (by rw [Bool.or_eq_true, decide_eq_true_eq, decide_eq_true_eq]; omega)]
    rfl
  rw [run]
  exact ⟨rfl, flyNotice_flyOf.trans (modFly_flyOf_self ..)⟩
theorem flyClear_now (serves : s.glb.state = .inService) (on : (s.flyOf n).st = .on) (now : s.opt.at_ = 0) : flyClear n s = flyStatus 0 (flyReturn n (flyNotice 0x12 n 0 s)) := by
  unfold flyClear
  dsimp only
  rw [serves, on, now]
  rfl

/-! ### T_CUT and the end of the switching (R344) -/

theorem flyCross_fly : (flyCross n s).opt.fly = s.opt.fly := by
  unfold flyCross
  extract_lets f
  have crossings (a b : Nat) : SameFlys s (sendXc b a 1 n (sendXc a b 1 n (sendLoop b 0 0 (some n) (sendLoop a 0 0 (some n) s)))) :=
    (((sendLoop_only.trans sendLoop_only).trans sendXc_only).trans sendXc_only).sameFlys
  split
  next a b _ =>
    split
    · exact (((crossings a b).trans (.modPath _ _)).trans (.modPath _ _)).fly
    · rfl
theorem flyCut_switching (prep : (s.flyOf n).st = .prep) (due : (s.flyOf n).tcut ≤ s.now) : ((flyCut n s).flyOf n).st = .switching ∧ ((flyCut n s).flyOf n).crossed = 0 := by
  unfold flyCut
  extract_lets f txOut rxOut a b off cut
  have quiet (l : Nat) (u : State) : (off l u).opt = u.opt := by
    dsimp only [off]
    split
    · split
      · exact rxLaneOff_kept.e_opt (by decide)
      · rfl
    · rfl
  have pending : (f.st != .prep || decide (s.now < f.tcut)) = false := by
    rw [show f.st = .prep from prep, decide_eq_false (Nat.not_lt.mpr due)]
    rfl
  have after : (flyCross n (off b (off a cut))).flyOf n = cut.flyOf n := by rw [State.flyOf, flyCross_fly, quiet, quiet, State.flyOf]
  rw [pending, if_neg Bool.false_ne_true, after, modFly_flyOf_self]
  exact ⟨rfl, rfl⟩

/-! ### The end of the switching (R344) -/

theorem flyDeadline_ended (switching : (s.flyOf n).st = .switching) (due : (s.flyOf n).tcut + 10 ^ 6 ≤ s.now)
    (open_ : ((s.flyOf n).ackA && (s.flyOf n).ackB && (s.flyOf n).poffA && (s.flyOf n).poffB) = false) : flyDeadline n s = flyEnd n 2 true s := by
  unfold flyDeadline
  dsimp only
  rw [switching, open_, decide_eq_true due]
  rfl
theorem flyTimeout_ended (switching : (s.flyOf n).st = .switching) (due : (s.flyOf n).tcut + 5 * 10 ^ 6 ≤ s.now) : flyTimeout n s = flyEnd n 9 true s := by
  unfold flyTimeout
  dsimp only
  rw [switching, decide_eq_true due]
  rfl
theorem flyOffDue_returns (pending : (s.flyOf n).st = .offPending) (due : (s.flyOf n).offAt ≤ s.now) : flyOffDue n s = flyReturn n s := by
  unfold flyOffDue
  dsimp only
  rw [pending, decide_eq_true due]
  rfl
/-- Both crossings stand, and LAUNCH decides: below FLOOR the flyover ends with POWER, else it is ON (R344). -/
theorem flyVerify_low {la lb : Half} (switching : (s.flyOf n).st = .switching) (crossed : 2 ≤ (s.flyOf n).crossed)
    (low : signed 16 la.toNat < signed 16 s.opt.floor.toNat ∨ signed 16 lb.toNat < signed 16 s.opt.floor.toNat) : flyVerify n la lb s = flyEnd n 3 true s := by
  unfold flyVerify
  dsimp only
  rw [switching, decide_eq_false (Nat.not_lt.mpr crossed), if_pos low]
  rfl
theorem flyVerify_on {la lb : Half} (switching : (s.flyOf n).st = .switching) (crossed : 2 ≤ (s.flyOf n).crossed)
    (high : ¬(signed 16 la.toNat < signed 16 s.opt.floor.toNat ∨ signed 16 lb.toNat < signed 16 s.opt.floor.toNat)) : ((flyVerify n la lb s).flyOf n).st = .on := by
  unfold flyVerify
  dsimp only
  rw [switching, decide_eq_false (Nat.not_lt.mpr crossed), if_neg high, if_neg (by decide), flyNotice_flyOf, modFly_flyOf_self]

end
end Sys2Proof.Machine

section
open Sys2Proof Sys2Proof.Machine
/-- Settles O43: a notice to the partners leaves the optics, a command to an engine leaves the flyovers, and where lanes are back no more than the state of a flyover that returns changes. -/
theorem flyoversComplete : Obligations.FlyoversComplete := by
  unfold Obligations.FlyoversComplete
  refine ⟨?_, ?_, ?_, ?_, ?_, ?_, ?_, ?_⟩
  · intro hp n s ho free ok
    have opt := flySet_opt ok
    have flyOf (k : Nat) : (flySet n.toNat s).flyOf k = (s.modFly n.toNat (fun _ => prepared s)).flyOf k := by rw [State.flyOf, opt, State.flyOf]
    refine completes_flyCommand rfl ho free ⟨by rw [opt], ?_, fun m hm => ?_⟩
    · rw [flyOf, modFly_flyOf_self]
      rfl
    · rw [flyOf, modFly_flyOf_of_ne _ _ hm]
  · intro hp n c s ho free bad
    refine completes_flyCommand rfl ho free ?_
    rw [flySet_refused bad]
    have counted : Kept [.tly] s (count (evNo 36 0x002 c) s) := count_kept
    exact ⟨congrArg (fun o : Opt => { o with status := BitVec.ofNat 8 c }) (counted.e_opt (by decide)), counted.e_out (by decide), counted.e_lnk (by decide)⟩
  · intro hp n s ho free
    refine completes_flyCommand rfl ho free ⟨fun out => ?_, fun serves off => ?_, fun serves on early late => ?_, fun serves on some_ bad => ?_, fun serves on now => ?_⟩
    · rw [flyClear]
      dsimp only
      rw [if_pos (bne_iff_ne.mpr out)]
      rfl
    · rw [flyClear]
      dsimp only
      rw [serves, if_neg (by decide), if_pos (bne_iff_ne.mpr off)]
      rfl
    · exact flyClear_instant serves on early late
    · have later : ¬(s.opt.at_.toNat == 0) = true := by
        rw [beq_iff_eq]
        exact fun h => some_ (BitVec.eq_of_toNat_eq h)
      rw [flyClear]
      dsimp only
      rw [serves, on, if_neg (by decide), if_neg (by decide), if_neg later, if_pos (by rw [Bool.or_eq_true, decide_eq_true_eq, decide_eq_true_eq]; exact bad)]
      rfl
    · rw [flyClear_now serves on now]
      obtain ⟨ended, -⟩ := flyReturn_ended n.toNat (flyNotice 0x12 n.toNat 0 s)
      exact ⟨rfl, ended.1, ended.2⟩
  · intro dt n s prep due
    exact completes_next rfl (flyCut_switching (by rw [elapse_flyOf, prep]) (by rw [elapse_flyOf]; exact due))
  · intro dt n s switching due open_ here
    refine completes_next rfl ?_
    rw [flyDeadline_ended (by rw [elapse_flyOf, switching]) (by rw [elapse_flyOf]; exact due) (by rw [elapse_flyOf]; exact open_)]
    obtain ⟨ended, event⟩ := flyEnd_ended (s := elapse dt s) (n := n.toNat) (reason := 2) (by rw [elapse_flyOf, switching]) (by rw [elapse_engine, elapse_flyPaths]; exact here)
    exact ⟨ended.1, ended.2, event⟩
  · intro dt n a b s switching crossed here
    refine completes_next rfl ?_
    split
    · next low =>
      rw [flyVerify_low (by rw [elapse_flyOf, switching]) (by rw [elapse_flyOf]; exact crossed) (by rw [elapse_opt]; exact low)]
      obtain ⟨ended, event⟩ := flyEnd_ended (s := elapse dt s) (n := n.toNat) (reason := 3) (by rw [elapse_flyOf, switching]) (by rw [elapse_engine, elapse_flyPaths]; exact here)
      exact ⟨ended.1, ended.2, event⟩
    · next high => exact flyVerify_on (by rw [elapse_flyOf, switching]) (by rw [elapse_flyOf]; exact crossed) (by rw [elapse_opt]; exact high)
  · intro dt n s pending due
    refine completes_next rfl ?_
    rw [flyOffDue_returns (by rw [elapse_flyOf, pending]) (by rw [elapse_flyOf]; exact due)]
    obtain ⟨ended, path⟩ := flyReturn_ended n.toNat (elapse dt s)
    obtain ⟨first, second, landed⟩ := flyRelease_lit (s := elapse dt s) (n := n.toNat)
    rw [elapse_flyPaths] at first second landed
    have paths (q : Nat) : (flyReturn n.toNat (elapse dt s)).path q = (flyRelease n.toNat (elapse dt s)).path q := by rw [State.path, path, State.path]
    exact ⟨ended.1, ended.2, by rw [paths]; exact first, by rw [paths]; exact second, by rw [paths]; exact landed⟩
  · intro dt n s switching due here
    refine completes_next rfl ?_
    rw [flyTimeout_ended (by rw [elapse_flyOf, switching]) (by rw [elapse_flyOf]; exact due)]
    obtain ⟨ended, event⟩ := flyEnd_ended (s := elapse dt s) (n := n.toNat) (reason := 9) (by rw [elapse_flyOf, switching]) (by rw [elapse_engine, elapse_flyPaths]; exact here)
    exact ⟨ended.1, ended.2, event⟩
end

/-! SUPPORT. Optical paths and engines (R329 to R341): what a step of the optics leaves of an engine, of a path and of the others. -/
namespace Sys2Proof.Machine
open Sys2Proof

section
variable {s t u : State} {p q e : Nat}

/-! ### Engines under commands (R329, R331) -/

/-- An engine under commands: all but its SEQ and its commands stays, and no command is lost. -/
structure Engine.Commanded (g h : Engine) : Prop where
  same : h = { g with seq := h.seq, cmds := h.cmds }
  cmds : ∀ c, c ∈ g.cmds → c ∈ h.cmds

theorem Engine.Commanded.refl (g : Engine) : g.Commanded g := ⟨rfl, fun _ h => h⟩
theorem Engine.Commanded.trans {g h k : Engine} (a : g.Commanded h) (b : h.Commanded k) : g.Commanded k :=
  ⟨by rw [b.same, a.same], fun c m => b.cmds c (a.cmds c m)⟩
theorem Engine.Commanded.st {g h : Engine} (a : g.Commanded h) : h.st = g.st := by rw [a.same]
theorem Engine.Commanded.statusAt {g h : Engine} (a : g.Commanded h) : h.statusAt = g.statusAt := by rw [a.same]
theorem Engine.Commanded.devid {g h : Engine} (a : g.Commanded h) : h.devid = g.devid := by rw [a.same]
theorem Engine.Commanded.fitted {g h : Engine} (a : g.Commanded h) : h.fitted = g.fitted := by rw [a.same]

/-- A step of the optics that commands engines at most: flyovers and OPT_MISLOG stay, and no event is taken back. -/
structure Commands (s t : State) : Prop where
  plt : t.plt = s.plt
  clk : t.clk = s.clk
  fly : t.opt.fly = s.opt.fly
  mislog : t.opt.mislog = s.opt.mislog
  event : ∀ k, s.opt.event.getLsbD k = true → t.opt.event.getLsbD k = true
  eng : ∀ e, (s.engine e).Commanded (t.engine e)

theorem Commands.trans (h : Commands s t) (k : Commands t u) : Commands s u :=
  ⟨k.plt.trans h.plt, k.clk.trans h.clk, k.fly.trans h.fly, k.mislog.trans h.mislog, fun i hi => k.event i (h.event i hi), fun e => (h.eng e).trans (k.eng e)⟩
theorem engine_of_opt (h : t.opt = s.opt) (e : Nat) : t.engine e = s.engine e := by rw [State.engine, h, State.engine]
theorem Commands.of_same (opt : t.opt = s.opt) (plt : t.plt = s.plt) (clk : t.clk = s.clk) : Commands s t :=
  ⟨plt, clk, by rw [opt], by rw [opt], by rw [opt]; exact fun _ h => h, fun e => by rw [engine_of_opt opt]; exact .refl _⟩
theorem Commands.laneOfPath (h : Commands s t) (p : Nat) : t.laneOfPath p = s.laneOfPath p := by rw [State.laneOfPath, h.plt, State.laneOfPath]
theorem Commands.optLane (h : Commands s t) (l : Nat) : t.optLane l = s.optLane l := by rw [State.optLane, h.plt, State.optLane]
theorem Commands.engLost (h : Commands s t) (p : Nat) : t.engLost p = s.engLost p := by rw [State.engLost, (h.eng _).st, State.engLost]

theorem sendEng_engine {type : Nat} {payload : List Byte} {fly : Option Nat} :
    (sendEng e type payload fly s).engine e =
      { s.engine e with seq := (s.engine e).seq + 1, cmds := (s.engine e).cmds ++ [⟨(s.engine e).seq, BitVec.ofNat 8 type, payload, 1, s.clk, fly⟩] } := by
  have raw : Kept [.svc, .out] s (sendEngRaw e type (s.engine e).seq payload s) := sendMsg_kept
  rw [sendEng, modEngine_engine_self, State.engine, raw.e_opt (by decide), raw.e_clk (by decide), State.engine]
theorem sendEng_commands {type : Nat} {payload : List Byte} {fly : Option Nat} : Commands s (sendEng e type payload fly s) := by
  have raw : Kept [.svc, .out] s (sendEngRaw e type (s.engine e).seq payload s) := sendMsg_kept
  have only : EngOnly s (sendEng e type payload fly s) := sendEng_only
  refine ⟨only.plt, only.clk, only.fly, by rw [only.opt], fun _ h => by rw [only.event]; exact h, fun k => ?_⟩
  by_cases here : k = e
  · rw [here, sendEng_engine]
    exact ⟨rfl, fun _ h => List.mem_append_left _ h⟩
  · rw [sendEng, modEngine_engine_of_ne _ _ here, engine_of_opt (raw.e_opt (by decide))]
    exact .refl _

/-! ### One path and the others -/

/-- A step of the optics that changes no path but one. -/
structure AtPath (p : Nat) (s t : State) : Prop extends Commands s t where
  other : ∀ q, q ≠ p → t.path q = s.path q

theorem AtPath.trans (h : AtPath p s t) (k : AtPath p t u) : AtPath p s u := ⟨h.toCommands.trans k.toCommands, fun q hq => (k.other q hq).trans (h.other q hq)⟩
theorem AtPath.modPath (f : OPath → OPath) : AtPath p s (s.modPath p f) :=
  ⟨⟨rfl, rfl, rfl, rfl, fun _ h => h, fun _ => .refl _⟩, fun _ hq => modPath_path_of_ne _ _ hq⟩

/-- What a path keeps while its loops are commanded, its losses classified and its light awaited: the states of its rings, what its monitors read and its calibration's count. -/
def OPath.still (o : OPath) : OPath :=
  { OPath.reset with txst := o.txst, rxst := o.rxst, mislocks := o.mislocks, calres := o.calres, calPass := o.calPass, calAt := o.calAt, fly := o.fly,
                     las := o.las, mod := o.mod, launch := o.launch, rxin := o.rxin, rxid := o.rxid, txid := o.txid }

/-- A step that leaves what the path keeps. -/
structure Rests (p : Nat) (s t : State) : Prop extends AtPath p s t where
  still : (t.path p).still = (s.path p).still

theorem Rests.trans (h : Rests p s t) (k : Rests p t u) : Rests p s u := ⟨h.toAtPath.trans k.toAtPath, k.still.trans h.still⟩
theorem Rests.of_path (h : Commands s t) (path : ∀ q, t.path q = s.path q) : Rests p s t := ⟨⟨h, fun q _ => path q⟩, by rw [path]⟩
theorem Rests.of_same (opt : t.opt = s.opt) (plt : t.plt = s.plt) (clk : t.clk = s.clk) : Rests p s t :=
  .of_path (.of_same opt plt clk) fun q => by rw [State.path, opt, State.path]
theorem Rests.of_kept {L : List Blk} (k : Kept L s t) (free : Blk.opt ∉ L ∧ Blk.plt ∉ L ∧ Blk.clk ∉ L) : Rests p s t := by
  obtain ⟨opt, plt, clk⟩ := free
  exact .of_same (k.e_opt opt) (k.e_plt plt) (k.e_clk clk)
theorem Rests.refl (p : Nat) (s : State) : Rests p s s := .of_same rfl rfl rfl
theorem Rests.modPath {f : OPath → OPath} (h : (f (s.path p)).still = (s.path p).still) : Rests p s (s.modPath p f) :=
  ⟨.modPath f, by rw [modPath_path_self]; exact h⟩
theorem Rests.ite {c : Prop} [Decidable c] {a b : State} (ha : Rests p s a) (hb : Rests p s b) : Rests p s (if c then a else b) := by
  split
  · exact ha
  · exact hb
theorem Rests.txst (h : Rests p s t) : (t.path p).txst = (s.path p).txst := (congrArg OPath.txst h.still :)
theorem Rests.rxst (h : Rests p s t) : (t.path p).rxst = (s.path p).rxst := (congrArg OPath.rxst h.still :)
theorem Rests.calres (h : Rests p s t) : (t.path p).calres = (s.path p).calres := (congrArg OPath.calres h.still :)
theorem Rests.calPass (h : Rests p s t) : (t.path p).calPass = (s.path p).calPass := (congrArg OPath.calPass h.still :)
theorem Rests.calAt (h : Rests p s t) : (t.path p).calAt = (s.path p).calAt := (congrArg OPath.calAt h.still :)
theorem Rests.mislocks (h : Rests p s t) : (t.path p).mislocks = (s.path p).mislocks := (congrArg OPath.mislocks h.still :)

/-! ### What rests -/

theorem sendEng_path {type : Nat} {payload : List Byte} {fly : Option Nat} (q : Nat) : (sendEng e type payload fly s).path q = s.path q := by
  rw [State.path, sendEng_only.path, State.path]
theorem sendLoop_path {element action : Nat} {fly : Option Nat} (q : Nat) : (sendLoop p element action fly s).path q = s.path q := sendEng_path q
theorem sendLoop_clk {element action : Nat} {fly : Option Nat} : (sendLoop p element action fly s).clk = s.clk := sendEng_commands.clk
theorem sendEng_rests {type : Nat} {payload : List Byte} {fly : Option Nat} : Rests p s (sendEng e type payload fly s) := .of_path sendEng_commands sendEng_path
theorem sendLoop_rests {element action : Nat} {fly : Option Nat} : Rests p s (sendLoop q element action fly s) := sendEng_rests
theorem pathSet_rests {a b c d : Nat} : Rests p s (pathSet p a b c d s) :=
  .trans (.modPath (f := fun v => { v with lbias := BitVec.ofNat 16 c, ltune := BitVec.ofNat 16 d }) rfl) sendEng_rests
theorem sendPathSet_rests : Rests p s (sendPathSet p s) := by
  unfold sendPathSet
  split
  · exact .refl p s
  · exact pathSet_rests
theorem raiseOpt_rests {k : Nat} : Rests p s (raiseOpt k s) := by
  have kept : Kept [.hst, .opt, .out] s (raiseOpt k s) := raiseOpt_kept
  have path (q : Nat) : (raiseOpt k s).path q = s.path q := by rw [State.path, raiseOpt_path, State.path]
  refine .of_path ⟨(kept.e_plt (by decide)), kept.e_clk (by decide), raiseOpt_fly k, ?_, fun i hi => ?_, fun e => ?_⟩ path
  all_goals
    unfold raiseOpt
    split
  · rfl
  · rw [fire_kept.e_opt (by decide)]
  · exact hi
  · rw [fire_kept.e_opt (by decide)]
    exact setBit_keeps _ hi
  · exact .refl _
  · rw [engine_of_opt (fire_kept.e_opt (by decide))]
    exact .refl _
theorem addPenalty_rests {kind idx w : Nat} : Rests p s (addPenalty kind idx w s) := .of_kept addPenalty_kept (by decide)
theorem zeroScore_rests {kind idx : Nat} : Rests p s (zeroScore kind idx s) := .of_kept zeroScore_kept (by decide)
theorem ringsReady_rests : Rests p s (ringsReady q s) := .of_kept ringsReady_kept (by decide)
theorem takeFree_rests : Rests p s (takeFree s).2 := .of_kept takeFree_kept (by decide)
/-- The laser and both rings of a path sweep. -/
def loopsSweep (p : Nat) (s : State) : State := sendLoop p 2 1 none (sendLoop p 1 1 none (sendLoop p 0 1 none s))
/-- A path whose rings have just been told to sweep in a pass. -/
def passSwept (c : Nat) (o : OPath) : OPath := { o with calTrim := false, txEng := 1, rxEng := 1, txMatch := c, rxMatch := c }
theorem loopsSweep_rests : Rests p s (loopsSweep p s) := (sendLoop_rests.trans sendLoop_rests).trans sendLoop_rests
theorem passSwept_rests {c : Nat} : Rests p s (s.modPath p (passSwept c)) := .modPath rfl
theorem calSweep_rests : Rests p s (calSweep p s) := by
  unfold calSweep
  extract_lets o set swept
  have laser : Rests p s set := pathSet_rests
  exact (laser.trans loopsSweep_rests).trans passSwept_rests

/-! ### A ring sweeps (R334) -/

theorem sweepTx_path : (sweepTx p s).path p = { s.path p with txst := .sweep, txMatch := s.clk } := by
  rw [sweepTx, modPath_path_self, sendLoop_path, sendLoop_clk]
theorem sweepTx_txst : ((sweepTx p s).path p).txst = .sweep := by rw [sweepTx_path]
theorem sweepTx_mislocks : ((sweepTx p s).path p).mislocks = (s.path p).mislocks := by rw [sweepTx_path]
theorem sweepTx_at : AtPath p s (sweepTx p s) := by
  have loop : Rests p s (sendLoop p 1 1 none s) := sendLoop_rests
  unfold sweepTx
  exact loop.toAtPath.trans (.modPath _)
/-- The drop ring sweeps, or waits; of what the path keeps no more than RXST changes. -/
theorem sweepRx_still : AtPath p s (sweepRx p s) ∧ ((sweepRx p s).path p).still = { (s.path p).still with rxst := .sweep } := by
  unfold sweepRx
  split
  · exact ⟨.modPath _, by rw [modPath_path_self]; rfl⟩
  · split
    · exact ⟨sendLoop_rests.toAtPath.trans (.modPath _), by rw [modPath_path_self, sendLoop_path]; rfl⟩
    · exact ⟨.modPath _, by rw [modPath_path_self]; rfl⟩
theorem sweepRx_at : AtPath p s (sweepRx p s) := sweepRx_still.1
theorem sweepRx_rxst : ((sweepRx p s).path p).rxst = .sweep := (congrArg OPath.rxst sweepRx_still.2 :)
theorem sweepRx_calres : ((sweepRx p s).path p).calres = (s.path p).calres := (congrArg OPath.calres sweepRx_still.2 :)
theorem sweepRx_mislocks : ((sweepRx p s).path p).mislocks = (s.path p).mislocks := (congrArg OPath.mislocks sweepRx_still.2 :)
theorem sweepRx_txst : ((sweepRx p s).path p).txst = (s.path p).txst := (congrArg OPath.txst sweepRx_still.2 :)
/-- A drop ring that sweeps already keeps its state. -/
theorem sweepRx_rests (h : (s.path p).rxst = .sweep) : Rests p s (sweepRx p s) := by
  refine ⟨sweepRx_at, sweepRx_still.2.trans ?_⟩
  rw [← h]
  rfl

/-! ### A pass of a calibration begins (R341) -/

/-- A path at the start of a pass. -/
def passBegun (c : Nat) (o : OPath) : OPath := { o with txst := .cal, rxst := .cal, txMatch := c, rxMatch := c, calAt := c, calTrim := true, calTx := false, calRx := false }
theorem startPass_still : AtPath p s (startPass p s) ∧ ((startPass p s).path p).still = (passBegun s.clk (s.path p)).still := by
  have begun : (s.modPath p (passBegun s.clk)).path p = passBegun s.clk (s.path p) := modPath_path_self ..
  have swept : Rests p (s.modPath p (passBegun s.clk)) (calSweep p (s.modPath p (passBegun s.clk))) := calSweep_rests
  have first : AtPath p s (s.modPath p (passBegun s.clk)) := .modPath _
  rw [← begun]
  unfold startPass
  extract_lets v
  split
  · exact ⟨first, rfl⟩
  · exact ⟨first.trans swept.toAtPath, swept.still⟩

end
end Sys2Proof.Machine

/-! SUPPORT. Optical calibration and mislocks (R337 to R341): what they leave of the path, also where its port goes down. -/
namespace Sys2Proof.Machine
open Sys2Proof

section
variable {s t u : State} {p q l : Nat}

/-! ### A lane that leaves its port (R88, R338) -/

/-- A step that leaves what a path keeps, unless it ends the path's calibration. -/
structure Leaves (p : Nat) (s t : State) : Prop extends Commands s t where
  still : (s.path p).calres ≠ .running → (t.path p).still = (s.path p).still

theorem Leaves.trans (h : Leaves p s t) (k : Leaves p t u) : Leaves p s u := by
  refine ⟨h.toCommands.trans k.toCommands, fun idle => ?_⟩
  have same := h.still idle
  have calres : (t.path p).calres = (s.path p).calres := (congrArg OPath.calres same :)
  exact (k.still (by rw [calres]; exact idle)).trans same
theorem Rests.leaves (h : Rests p s t) : Leaves p s t := ⟨h.toCommands, fun _ => h.still⟩
theorem Leaves.ite {c : Prop} [Decidable c] {a b : State} (ha : Leaves p s a) (hb : Leaves p s b) : Leaves p s (if c then a else b) := by
  split
  · exact ha
  · exact hb

theorem laneDown_leaves : Leaves p s (laneDown l s) := by
  unfold laneDown
  extract_lets idle down
  have idles : Rests p s idle := .trans (.of_kept abortRecal_kept (by decide)) (.of_kept txIdle_kept (by decide))
  have same : Rests p s down := idles.trans (.of_kept State.modLane_kept (by decide))
  refine same.leaves.trans ?_
  split
  next r _ =>
    by_cases here : r = p
    · subst here
      refine ⟨(AtPath.modPath _).toCommands, fun idle => ?_⟩
      rw [modPath_path_self, if_neg (by rw [beq_iff_eq]; exact idle)]
    · exact ⟨(AtPath.modPath _).toCommands, fun _ => by rw [modPath_path_of_ne _ _ (Ne.symm here)]⟩
  · exact (Rests.refl p _).leaves

section
variable {port tstat wait : Nat}

theorem portReset_leaves : Leaves p s (portReset port tstat wait s) := by
  have noted : Kept [.hst, .swc, .tmb, .tly, .ram, .out] s (lossNoted port s) := lossNoted_kept
  have fallen : Rests p s ((lossNoted port s).setLink port ((s.link port).fallen tstat wait (lossNoted port s).clk)) :=
    (Rests.of_kept noted (by decide)).trans (.of_kept State.setLink_kept (by decide))
  have lanes : Leaves p s (lanesDown port tstat wait s) :=
    forEach_invariant (P := Leaves p s) (fun _ _ _ h => h.trans laneDown_leaves) fallen.leaves
  have queues : Rests p (lanesDown port tstat wait s) (portReset port tstat wait s) :=
    .of_kept queuesDown_kept (by decide)
  exact lanes.trans queues.leaves
/-- Where no flyover is held, a port that goes down ends calibrations of its paths and no more. -/
theorem retrain_leaves (h : s.opt.fly = []) : Leaves p s (retrain port tstat s) := by
  rw [retrain, portDown_unflown h]
  exact portReset_leaves
theorem laneLost_leaves {i : Nat} (h : s.opt.fly = []) : Leaves p s (laneLost port i s) := by
  unfold laneLost
  refine .ite (Rests.refl p s).leaves (.ite ?_ ((retrain_leaves h).trans addPenalty_rests.leaves))
  exact (Rests.of_kept rxLaneOff_kept (by decide)).leaves

end

/-! ### The drop ring's retry (R334) -/

theorem elapse_path (dt : Nat) : (elapse dt s).path q = s.path q := by rw [State.path, elapse_opt, State.path]
theorem elapse_engLost (dt : Nat) : (elapse dt s).engLost p = s.engLost p := by rw [State.engLost, elapse_engine, State.engLost]
theorem elapse_laneOfPath (dt : Nat) : (elapse dt s).laneOfPath p = s.laneOfPath p := by rw [State.laneOfPath, elapse_kept.e_plt (by decide), State.laneOfPath]
theorem elapse_lit (dt : Nat) : (elapse dt s).lit p = s.lit p := by
  unfold State.lit
  rw [elapse_path, elapse_opt]

theorem sweepRx_unread (h : (s.path p).rxin = 0x8000) : ((sweepRx p s).path p).dark = none ∧ ((sweepRx p s).path p).unread = true := by
  rw [sweepRx, if_pos (beq_iff_eq.mpr h), modPath_path_self]
  exact ⟨rfl, rfl⟩
theorem read_of_lit (h : s.lit p = true) : ¬((s.path p).rxin == 0x8000) = true := by
  intro unread
  rw [State.lit, bne, unread] at h
  exact Bool.false_ne_true h
theorem sweepRx_lit (h : s.lit p = true) : ((sweepRx p s).path p).dark = none ∧ ((sweepRx p s).path p).rxMatch = s.clk := by
  rw [sweepRx, if_neg (read_of_lit h), if_pos h, modPath_path_self]
  have loop : (sendLoop p 2 1 none s).clk = s.clk := sendLoop_clk
  exact ⟨rfl, loop⟩
theorem sweepRx_dark (h : (s.path p).rxin ≠ 0x8000) (dark : s.lit p = false) : ((sweepRx p s).path p).dark = some s.clk := by
  rw [sweepRx, if_neg (by rw [beq_iff_eq]; exact h), dark, if_neg Bool.false_ne_true, modPath_path_self]

theorem retryDrop_sweeps {a : Nat} (dark : (s.path p).dark = some a) (sweeps : (s.path p).rxst = .sweep) (here : s.engLost p = false) (due : 10 ^ 9 ≤ s.clk - a) :
    retryDrop p s = sweepRx p s := by
  unfold retryDrop
  rw [dark, sweeps, here]
  exact if_pos (by rw [decide_eq_true due]; rfl)

/-! ### A calibration begins and its passes end (R341) -/

/-- A path whose calibration was accepted. -/
def calAsked (o : OPath) : OPath := { o with calres := .running, calPass := 0 }
/-- A calibration that was accepted begins. -/
def optCalStart (p : Nat) (s : State) : State := startPass p (sendLoop p 1 4 none (s.modPath p calAsked))
theorem passBegun_still (c : Nat) (o : OPath) : (passBegun c o).still = { o.still with txst := .cal, rxst := .cal, calAt := c } := rfl
theorem optCalStart_still : ((optCalStart p s).path p).still = (passBegun s.clk (calAsked (s.path p))).still := by
  rw [optCalStart, startPass_still.2, sendLoop_path, sendLoop_clk, modPath_path_self]
  rfl
/-- A path in the first pass of its calibration. -/
def Calibrates (p : Nat) (s : State) : Prop :=
  (s.path p).calres = .running ∧ (s.path p).txst = .cal ∧ (s.path p).rxst = .cal ∧ (s.path p).calPass = 0
theorem Calibrates.of_opt (h : t.opt = s.opt) (k : Calibrates p s) : Calibrates p t := by
  rw [Calibrates, State.path, h]
  exact k
theorem begun_of_still {c : Nat} {o v : OPath} (h : v.still = (passBegun c o).still) : v.calres = o.calres ∧ v.txst = .cal ∧ v.rxst = .cal ∧ v.calPass = o.calPass ∧ v.calAt = c :=
  ⟨(congrArg OPath.calres h :), (congrArg OPath.txst h :), (congrArg OPath.rxst h :), (congrArg OPath.calPass h :), (congrArg OPath.calAt h :)⟩
theorem optCalStart_calibrates : Calibrates p (optCalStart p s) := by
  obtain ⟨calres, txst, rxst, calPass, -⟩ := begun_of_still (optCalStart_still (s := s) (p := p))
  exact ⟨calres, txst, rxst, calPass⟩
theorem requestOptCal_accepted {port : Nat} (lane : s.laneOfPath p = some l) (own : s.portOfLane l = some port) (ok : optCalRefusal s port l p = none) :
    Calibrates p (requestOptCal p s) := by
  have start (u : State) : Calibrates p (startPass p (sendLoop p 1 4 none (u.modPath p calAsked))) := optCalStart_calibrates
  unfold requestOptCal
  rw [lane]
  dsimp only
  rw [own]
  dsimp only
  rw [ok]
  dsimp only
  split
  · exact start _
  · exact .of_opt (startTraining_kept.e_opt (by decide)) (start _)
theorem requestOptCal_refused {port : Nat} {r : CalRes} (lane : s.laneOfPath p = some l) (own : s.portOfLane l = some port) (bad : optCalRefusal s port l p = some r)
    (idle : (s.path p).calres ≠ .running) : requestOptCal p s = setCalres p r s := by
  unfold requestOptCal
  rw [lane]
  dsimp only
  rw [own]
  dsimp only
  rw [bad]
  exact if_neg (by rw [beq_iff_eq]; exact idle)

/-- Both rings sweep, or wait for their engine. -/
theorem sweepBoth_path : AtPath p s (sweepBoth p s) ∧ ((sweepBoth p s).path p).calres = (s.path p).calres ∧
    ((sweepBoth p s).path p).txst = if s.engLost p = true then .mislock else .sweep := by
  unfold sweepBoth State.engLost
  split
  · exact ⟨.modPath _, by rw [modPath_path_self], by rw [modPath_path_self]⟩
  · have tx : AtPath p s (sweepTx p s) := sweepTx_at
    have rx : AtPath p (sweepTx p s) (sweepRx p (sweepTx p s)) := sweepRx_at
    exact ⟨tx.trans rx, by rw [sweepRx_calres, sweepTx_path], by rw [sweepRx_txst, sweepTx_path]⟩

theorem modPath_congr {f g : OPath → OPath} (h : f (s.path p) = g (s.path p)) : s.modPath p f = s.modPath p g := by rw [State.modPath, h, State.modPath]
/-- A path in which a pass has failed. -/
def passMissed (o : OPath) : OPath := { o with calPass := o.calPass + 1, calTrim := false }
/-- A failed pass costs the path's score. -/
def passCosts (p : Nat) (s : State) : State := addPenalty 3 p (100 * 10 ^ 9) (s.modPath p passMissed)
theorem passCosts_rests : Rests p (s.modPath p passMissed) (passCosts p s) := by
  unfold passCosts
  exact addPenalty_rests
theorem passCosts_at : AtPath p s (passCosts p s) := (AtPath.modPath passMissed).trans passCosts_rests.toAtPath
theorem passCosts_still : ((passCosts p s).path p).still = (passMissed (s.path p)).still := by
  rw [passCosts_rests.still, modPath_path_self]

theorem passCosts_eq : addPenalty 3 p (100 * 10 ^ 9) (s.modPath p (fun o => { o with calPass := (s.path p).calPass + 1, calTrim := false })) = passCosts p s :=
  congrArg (addPenalty 3 p (100 * 10 ^ 9)) (modPath_congr rfl)
/-- Before the third pass has failed another begins. -/
theorem passFails_again (few : (s.path p).calPass + 1 < 3) (here : s.engLost p = false) :
    AtPath p s (passFails p s) ∧ ((passFails p s).path p).still = (passBegun s.clk (passMissed (s.path p))).still := by
  have lost : (passCosts p s).engLost p = false := by rw [passCosts_at.engLost, here]
  have run : passFails p s = startPass p (passCosts p s) := by
    unfold passFails
    extract_lets n v
    have costs : v = passCosts p s := passCosts_eq
    rw [if_pos few, costs, lost, if_neg Bool.false_ne_true]
  rw [run, startPass_still.2]
  refine ⟨passCosts_at.trans startPass_still.1, ?_⟩
  have still : ((passCosts p s).path p).still = (passMissed (s.path p)).still := passCosts_still
  rw [passCosts_at.clk, passBegun_still, still, passBegun_still]
/-- With its engine LOST a path takes no further pass. -/
theorem passFails_engine (few : (s.path p).calPass + 1 < 3) (gone : s.engLost p = true) :
    AtPath p s (passFails p s) ∧ ((passFails p s).path p).calres = .engine := by
  have lost : (passCosts p s).engLost p = true := by rw [passCosts_at.engLost, gone]
  have engine : AtPath p (passCosts p s) (setCalres p .engine (passCosts p s)) := .modPath _
  unfold passFails
  extract_lets n v
  have costs : v = passCosts p s := passCosts_eq
  rw [if_pos few, costs, if_pos lost]
  exact ⟨(passCosts_at.trans engine).trans sweepBoth_path.1, by rw [sweepBoth_path.2.1, setCalres, modPath_path_self]⟩
/-- The third pass that fails ends the calibration. -/
theorem passFails_third (many : 3 ≤ (s.path p).calPass + 1) :
    AtPath p s (passFails p s) ∧ ((passFails p s).path p).calres = .failed ∧
    ((passFails p s).path p).txst = if s.engLost p = true then .mislock else .sweep := by
  unfold passFails
  extract_lets n v w
  have costs : v = passCosts p s := passCosts_eq
  rw [if_neg (Nat.not_lt.mpr many)]
  have parked : Rests p (passCosts p s) w := by
    rw [← costs]
    dsimp only [w]
    split
    · exact .of_kept State.modLane_kept (by decide)
    · exact .refl p _
  clear_value w
  have failed : AtPath p w (setCalres p .failed w) := .modPath _
  have before : AtPath p s (setCalres p .failed w) := (passCosts_at.trans parked.toAtPath).trans failed
  refine ⟨before.trans sweepBoth_path.1, ?_, ?_⟩
  · rw [sweepBoth_path.2.1, setCalres, modPath_path_self]
  · rw [sweepBoth_path.2.2, before.engLost]
theorem passFails_at : AtPath p s (passFails p s) := by
  by_cases few : (s.path p).calPass + 1 < 3
  · by_cases gone : s.engLost p = true
    · exact (passFails_engine few gone).1
    · exact (passFails_again few (Bool.eq_false_of_not_eq_true gone)).1
  · exact (passFails_third (Nat.not_lt.mp few)).1

end
end Sys2Proof.Machine

/-! SUPPORT. Mislocks (R337 to R339, R348): what is noted of one, how its ring sweeps again and how the third retires the lane. -/
namespace Sys2Proof.Machine
open Sys2Proof

section
variable {s t u v : State} {p q l : Nat} {drop : Bool} {seen : Half}

/-! ### What is noted (R338) -/

/-- A path at a mislock of one of its rings. -/
def missed (drop : Bool) (o : OPath) : OPath :=
  if drop then { o with mislocks := BitVec.ofNat 2 (o.mislocks.toNat + 1), rxst := .mislock } else { o with mislocks := BitVec.ofNat 2 (o.mislocks.toNat + 1), txst := .mislock }
theorem missed_calres (drop : Bool) (o : OPath) : (missed drop o).calres = o.calres := by cases drop <;> rfl
theorem missed_calPass (drop : Bool) (o : OPath) : (missed drop o).calPass = o.calPass := by cases drop <;> rfl
theorem missed_mislocks (drop : Bool) (o : OPath) : (missed drop o).mislocks = o.mislocks + 1 := by
  have up : BitVec.ofNat 2 (o.mislocks.toNat + 1) = o.mislocks + 1 := BitVec.eq_of_toNat_eq (by simp)
  cases drop <;> exact up

/-- A mislock is noted: in OPT_EVENT, in OPT_MISLOG and in its path. -/
structure Noted (p : Nat) (drop : Bool) (seen : Half) (s v : State) : Prop where
  fly : v.opt.fly = s.opt.fly
  lost : v.engLost p = s.engLost p
  event : v.opt.event.getLsbD 0 = true
  mislog : v.opt.mislog = mislogWord drop seen p
  path : v.path p = missed drop (s.path p)

/-- What follows once a mislock is noted. -/
def mislockEnds (p l : Nat) (drop : Bool) (n : Nat) (v : State) : State :=
  if 3 ≤ n then retireLane p l (if (v.path p).calres == .running then setCalres p .failed v else v)
  else if ((addPenalty 3 p (150 * 10 ^ 9) v).path p).calres == .running then passFails p (addPenalty 3 p (150 * 10 ^ 9) v)
  else mislockSweep p l drop (addPenalty 3 p (150 * 10 ^ 9) v)

theorem mislocked_ends (h : s.opt.fly = []) : ∃ v, Noted p drop seen s v ∧ mislocked p l drop seen s = mislockEnds p l drop ((s.path p).mislocks.toNat + 1) v := by
  unfold mislocked
  extract_lets n a o c d e f g w
  have counted : Rests p s (count (evNo 36 0 p) s) := .of_kept count_kept (by decide)
  have raised : Rests p s a := counted.trans raiseOpt_rests
  have event : a.opt.event.getLsbD 0 = true := raiseOpt_raised (by decide)
  have path : a.path p = s.path p := by rw [State.path, raiseOpt_path, count_kept.e_opt (by decide), State.path]
  clear_value a
  have logged : c.opt = { a.opt with mislog := mislogWord drop seen p } := rfl
  clear_value c
  have counts : d.opt = { c.opt with path := d.opt.path } := rfl
  have mislocks : d.path p = { c.path p with mislocks := BitVec.ofNat 2 n } := modPath_path_self ..
  clear_value d
  have aborted : e.opt = d.opt := by
    dsimp only [e]
    split
    · exact State.modLane_kept.e_opt (by decide)
    · rfl
  clear_value e
  have holds : f.opt = { e.opt with path := f.opt.path } := rfl
  have mislock : f.path p = if drop then { e.path p with rxst := .mislock } else { e.path p with txst := .mislock } := modPath_path_self ..
  clear_value f
  have opt : f.opt = { a.opt with mislog := mislogWord drop seen p, path := f.opt.path } := by rw [holds, aborted, counts, logged]
  have unflown : g = f := by
    dsimp only [g]
    split
    · exact flyEndAll_none (by rw [opt]; exact raised.fly.trans h)
    · rfl
  refine ⟨g, ?_, ?_⟩
  · rw [unflown]
    refine ⟨by rw [opt]; exact raised.fly, ?_, by rw [opt]; exact event, by rw [opt], ?_⟩
    · rw [← raised.engLost, State.engLost, State.engine, opt, State.engLost, State.engine]
    · have before : c.path p = s.path p := by rw [State.path, logged, ← path, State.path]
      have between : e.path p = d.path p := by rw [State.path, aborted, State.path]
      rw [mislock, between, mislocks, before]
      cases drop <;> rfl
  · dsimp only [w]
    clear_value g
    rfl

/-! ### The ring sweeps again, or the lane is retired (R338, R339) -/

theorem mislockSweep_swept (fly : s.opt.fly = []) (here : s.engLost p = false) (idle : (s.path p).calres ≠ .running) :
    Commands s (mislockSweep p l drop s) ∧ ((mislockSweep p l drop s).path p).mislocks = (s.path p).mislocks ∧
    if drop then ((mislockSweep p l drop s).path p).rxst = .sweep else ((mislockSweep p l drop s).path p).txst = .sweep := by
  unfold mislockSweep
  extract_lets mutes off set
  have leaves : Leaves p s off := by
    dsimp only [off]
    split
    · exact (Rests.refl p s).leaves
    · split
      · exact laneLost_leaves fly
      · have muted : Rests p s mutes := sendLoop_rests
        exact .ite ((muted.leaves.trans (retrain_leaves (muted.fly.trans fly))).trans addPenalty_rests.leaves) muted.leaves
  have sent : Rests p off set := sendPathSet_rests
  have mislocks : (set.path p).mislocks = (s.path p).mislocks := sent.mislocks.trans (congrArg OPath.mislocks (leaves.still idle) :)
  rw [leaves.engLost, here, if_neg Bool.false_ne_true]
  have before := leaves.toCommands.trans sent.toCommands
  cases drop with
  | true => exact ⟨before.trans sweepRx_at.toCommands, sweepRx_mislocks.trans mislocks, sweepRx_rxst⟩
  | false => exact ⟨before.trans sweepTx_at.toCommands, sweepTx_mislocks.trans mislocks, sweepTx_txst⟩

/-- A port loses a lane for good, and retrains where that was its last. -/
def laneGone (port i : Nat) (s : State) : State :=
  let s := (laneLost port i s).modLink port (fun k => { k with retired := setBit k.retired i true, txact := setBit k.txact i false })
  if (s.link port).isUp && (s.link port).txList.isEmpty then retrain port 0x0D s else s
theorem laneGone_leaves {port i : Nat} (fly : s.opt.fly = []) : Leaves p s (laneGone port i s) := by
  unfold laneGone
  extract_lets gone
  have left : Leaves p s (laneLost port i s) := laneLost_leaves fly
  have noted : Rests p (laneLost port i s) gone := .of_kept State.modLink_kept (by decide)
  have leaves := left.trans noted.leaves
  exact .ite (leaves.trans (retrain_leaves (leaves.fly.trans fly))) leaves

/-- A path whose lane is retired. -/
def pathRetired (o : OPath) : OPath := { o with txst := .retired, rxst := .retired }
theorem retired_of_still {o r : OPath} (h : r.still = (pathRetired o).still) : r.txst = .retired ∧ r.rxst = .retired ∧ r.calres = o.calres :=
  ⟨(congrArg OPath.txst h :), (congrArg OPath.rxst h :), (congrArg OPath.calres h :)⟩
theorem retireLane_retired (fly : s.opt.fly = []) (idle : (s.path p).calres ≠ .running) :
    Commands s (retireLane p l s) ∧ (retireLane p l s).opt.event.getLsbD 1 = true ∧
    ((retireLane p l s).path p).txst = .retired ∧ ((retireLane p l s).path p).rxst = .retired ∧ ((retireLane p l s).path p).calres = (s.path p).calres := by
  unfold retireLane
  extract_lets a b c
  have first : AtPath p s a := .modPath _
  have path : a.path p = pathRetired (s.path p) := modPath_path_self ..
  have muted : Rests p a b := .trans (sendLoop_rests.trans sendLoop_rests) raiseOpt_rests
  have raised : b.opt.event.getLsbD 1 = true := raiseOpt_raised (by decide)
  have leaves : Leaves p b c := by
    dsimp only [c]
    split
    · exact (Rests.refl p b).leaves
    · exact laneGone_leaves ((muted.fly.trans first.fly).trans fly)
  have off : Rests p c (c.modLane l fun v => { v with st := .retired }) := .of_kept State.modLane_kept (by decide)
  have idled : Rests p c (txIdle l (c.modLane l fun v => { v with st := .retired })) := off.trans (.of_kept txIdle_kept (by decide))
  have last := idled.trans (zeroScore_rests (kind := 3) (idx := p))
  have quiet : (b.path p).calres ≠ .running := by
    rw [muted.calres, path]
    exact idle
  refine ⟨(first.toCommands.trans muted.toCommands).trans (leaves.toCommands.trans last.toCommands), (leaves.toCommands.trans last.toCommands).event 1 raised, retired_of_still ?_⟩
  rw [last.still, leaves.still quiet, muted.still, path]

end
end Sys2Proof.Machine

/-! SUPPORT. The end of a pass (R341) and a mislock that is due (R337, R338). -/
namespace Sys2Proof.Machine
open Sys2Proof

section
variable {s t v : State} {p l : Nat} {drop : Bool} {seen : Half}

/-! ### The end of a pass (R341) -/

theorem passOk_ok : ((passOk p s).path p).calres = .ok ∧ ((passOk p s).path p).txst = .locked ∧ ((passOk p s).path p).rxst = .locked := by
  unfold passOk
  extract_lets v
  have rests : Rests p v (ringsReady p (sendLoop p 1 5 none v)) := sendLoop_rests.trans ringsReady_rests
  rw [rests.calres, rests.txst, rests.rxst, modPath_path_self]
  exact ⟨rfl, rfl, rfl⟩
theorem optPassEnd_both (running : (s.path p).calres = .running) (tx : (s.path p).calTx = true) (rx : (s.path p).calRx = true) : optPassEnd p s = passOk p s := by
  rw [optPassEnd, running, tx, rx]
  rfl
theorem optPassEnd_one (running : (s.path p).calres = .running) (open_ : ((s.path p).calTx && (s.path p).calRx) = false) :
    optPassEnd p s = if s.lasFails p || decide (500 * 10 ^ 6 ≤ s.clk - (s.path p).calAt) then passFails p s else s := by
  rw [optPassEnd, running, open_]
  rfl

/-! ### A mislock that is due (R337, R338) -/

/-- At an instant a ring of a path is due for a mislock: for 0.2 s it has found no identity. -/
def MislockDue (drop : Bool) (clk : Nat) (o : OPath) : Prop :=
  200000000 ≤ clk - (if drop then o.rxMatch else o.txMatch) ∧
  ((if drop then o.rxst else o.txst) = .verify ∨ (if drop then o.rxst else o.txst) = .locked ∨
    ((if drop then o.rxst else o.txst) = .cal ∧ o.calTrim = false ∧ verifying (if drop then o.rxEng else o.txEng) = true))
theorem checkMislock_due (lane : s.laneOfPath p = some l) (due : MislockDue drop s.clk (s.path p)) : checkMislock p drop seen s = mislocked p l drop seen s := by
  obtain ⟨late, ring⟩ := due
  unfold checkMislock
  rw [lane]
  dsimp only
  rw [decide_eq_true late, if_neg (by decide)]
  refine if_pos ?_
  obtain verify | locked | ⟨cal, swept, engine⟩ := ring
  · rw [verify]
    rfl
  · rw [locked]
    rfl
  · rw [cal, swept, engine]
    rfl
/-- A mislock that is due as time passes is noted, and the rest follows. -/
theorem mislock_noted {dt : Nat} (lane : s.laneOfPath p = some l) (fly : s.opt.fly = []) (due : MislockDue drop (s.clk + dt) (s.path p)) :
    ∃ v, Noted p drop seen s v ∧ checkMislock p drop seen (elapse dt s) = mislockEnds p l drop ((s.path p).mislocks.toNat + 1) v := by
  have none : (elapse dt s).opt.fly = s.opt.fly := congrArg Opt.fly (elapse_opt dt)
  have path : (elapse dt s).path p = s.path p := elapse_path dt
  obtain ⟨v, noted, run⟩ := mislocked_ends (s := elapse dt s) (p := p) (l := l) (drop := drop) (seen := seen) (none.trans fly)
  refine ⟨v, ⟨noted.fly.trans none, noted.lost.trans (elapse_engLost dt), noted.event, noted.mislog, by rw [noted.path, path]⟩, ?_⟩
  rw [checkMislock_due ((elapse_laneOfPath dt).trans lane) (by rw [elapse_clk, path]; exact due), run, path]

/-- The third mislock of a path, whose calibration FAILED where one was running. -/
theorem mislockEnds_third {n : Nat} (fly : v.opt.fly = []) (many : 3 ≤ n) :
    Commands v (mislockEnds p l drop n v) ∧ (mislockEnds p l drop n v).opt.event.getLsbD 1 = true ∧
    ((mislockEnds p l drop n v).path p).txst = .retired ∧ ((mislockEnds p l drop n v).path p).rxst = .retired ∧
    ((v.path p).calres = .running → ((mislockEnds p l drop n v).path p).calres = .failed) := by
  rw [mislockEnds, if_pos many]
  split
  next running =>
    have failed : AtPath p v (setCalres p .failed v) := .modPath _
    have path : (setCalres p .failed v).path p = { v.path p with calres := .failed } := modPath_path_self ..
    obtain ⟨commands, event, txst, rxst, calres⟩ := retireLane_retired (l := l) (failed.fly.trans fly) (by rw [path]; exact CalRes.noConfusion)
    exact ⟨failed.toCommands.trans commands, event, txst, rxst, fun _ => by rw [calres, path]⟩
  next idle =>
    rw [beq_iff_eq] at idle
    obtain ⟨commands, event, txst, rxst, -⟩ := retireLane_retired (l := l) fly idle
    exact ⟨commands, event, txst, rxst, fun running => absurd running idle⟩

/-- Before the third mislock the ring sweeps again. -/
theorem mislockEnds_sweeps {n : Nat} (fly : v.opt.fly = []) (few : n < 3) (here : v.engLost p = false) (idle : (v.path p).calres ≠ .running) :
    Commands v (mislockEnds p l drop n v) ∧ ((mislockEnds p l drop n v).path p).mislocks = (v.path p).mislocks ∧
    if drop then ((mislockEnds p l drop n v).path p).rxst = .sweep else ((mislockEnds p l drop n v).path p).txst = .sweep := by
  have costs : Rests p v (addPenalty 3 p (150 * 10 ^ 9) v) := addPenalty_rests
  rw [mislockEnds, if_neg (Nat.not_le.mpr few), costs.calres, if_neg (by rw [beq_iff_eq]; exact idle)]
  obtain ⟨commands, mislocks, sweeps⟩ := mislockSweep_swept (l := l) (drop := drop) (costs.fly.trans fly) (costs.engLost p ▸ here) (costs.calres ▸ idle)
  exact ⟨costs.toCommands.trans commands, mislocks.trans costs.mislocks, sweeps⟩
/-- In a calibration the pass fails. -/
theorem mislockEnds_passFails {n : Nat} (few : n < 3) (running : (v.path p).calres = .running) :
    ∃ w, Rests p v w ∧ mislockEnds p l drop n v = passFails p w := by
  have costs : Rests p v (addPenalty 3 p (150 * 10 ^ 9) v) := addPenalty_rests
  refine ⟨_, costs, ?_⟩
  rw [mislockEnds, if_neg (Nat.not_le.mpr few), costs.calres, if_pos (by rw [beq_iff_eq]; exact running)]

end
end Sys2Proof.Machine

section
open Sys2Proof Sys2Proof.Machine
/-- Settles O42: commands to an engine, penalties and the loss of a lane leave what a path keeps, unless a port that goes down ends the path's calibration. -/
theorem opticalPathsComplete : Obligations.OpticalPathsComplete := by
  unfold Obligations.OpticalPathsComplete
  refine ⟨?_, ?_, ?_, ?_, ?_, ?_⟩
  · intro dt p a s dark sweeps here due
    have clk : (elapse dt s).clk = s.clk + dt := elapse_clk dt s
    have path : (elapse dt s).path p.val = s.path p.val := elapse_path dt
    have lit : (elapse dt s).lit p.val = s.lit p.val := elapse_lit dt
    refine completes_next rfl ?_
    rw [retryDrop_sweeps (a := a) (by rw [path, dark]) (by rw [path, sweeps]) (by rw [elapse_engLost, here]) (by rw [clk]; exact due)]
    refine ⟨sweepRx_rxst, fun light => ?_, fun read out => ?_, fun unread => ?_⟩
    · rw [← clk]
      exact sweepRx_lit (lit.trans light)
    · rw [← clk]
      exact sweepRx_dark (by rw [path]; exact read) (lit.trans out)
    · exact sweepRx_unread (by rw [path]; exact unread)
  · intro hp p l port r s ho lane own bad idle
    refine completes_owner rfl ho ?_
    rw [requestOptCal_refused lane own bad idle]
    refine ⟨?_, rfl, rfl, fun q other => modPath_path_of_ne _ _ other⟩
    rw [setCalres, modPath_path_self]
  · intro hp p l port s ho lane own ok _
    exact completes_owner rfl ho (requestOptCal_accepted lane own ok)
  · intro dt p o u s hu ho running
    subst hu ho
    have clk : (elapse dt s).clk = s.clk + dt := elapse_clk dt s
    have path : (elapse dt s).path p.val = s.path p.val := elapse_path dt
    have lost : (elapse dt s).engLost p.val = s.engLost p.val := elapse_engLost dt
    refine completes_next (t := optPassEnd p.val (elapse dt s)) rfl ?_
    rw [← path, ← lost, ← clk]
    rw [← path] at running
    generalize elapse dt s = u at running
    have fails (open_ : ((u.path p.val).calTx && (u.path p.val).calRx) = false) (due : u.lasFails p.val = true ∨ 500000000 ≤ u.clk - (u.path p.val).calAt) :
        optPassEnd p.val u = passFails p.val u := by
      rw [optPassEnd_one running open_]
      exact if_pos (by rw [Bool.or_eq_true, decide_eq_true_eq]; exact due)
    refine ⟨fun tx rx => ?_, fun open_ due few here => ?_, fun open_ due few gone => ?_, fun open_ due many => ?_, fun open_ well early => ?_⟩
    · rw [optPassEnd_both running tx rx]
      exact passOk_ok
    · obtain ⟨calres, txst, -, calPass, calAt⟩ := begun_of_still (passFails_again few here).2
      rw [fails open_ due]
      exact ⟨calres.trans running, txst, calPass, calAt⟩
    · rw [fails open_ due]
      exact (passFails_engine few gone).2
    · rw [fails open_ due]
      exact (passFails_third many).2
    · rw [optPassEnd_one running open_, well]
      exact if_neg (by rw [Bool.false_or, decide_eq_true_eq]; exact Nat.not_le.mpr early)
  · intro dt p drop seen l s lane fly here idle due
    have due : MislockDue drop (s.clk + dt) (s.path p.val) := by
      cases drop with
      | true => exact ⟨due.2, due.1.elim .inl (fun locked => .inr (.inl locked))⟩
      | false => exact ⟨due.2, due.1.elim .inl (fun locked => .inr (.inl locked))⟩
    obtain ⟨v, noted, run⟩ := mislock_noted (seen := seen) lane fly due
    have quiet : (v.path p.val).calres ≠ .running := by
      rw [noted.path, missed_calres]
      exact idle
    refine completes_next (t := checkMislock p.val drop seen (elapse dt s)) rfl ?_
    rw [run]
    by_cases few : (s.path p.val).mislocks.toNat + 1 < 3
    · obtain ⟨commands, mislocks, sweeps⟩ := mislockEnds_sweeps (l := l) (drop := drop) (noted.fly.trans fly) few (noted.lost.trans here) quiet
      refine ⟨commands.event 0 noted.event, commands.mislog.trans noted.mislog, fun _ => ⟨?_, sweeps⟩, fun many => absurd many (by omega)⟩
      rw [mislocks, noted.path, missed_mislocks]
    · obtain ⟨commands, event, txst, rxst, -⟩ := mislockEnds_third (p := p.val) (l := l) (drop := drop) (noted.fly.trans fly) (Nat.not_lt.mp few)
      exact ⟨commands.event 0 noted.event, commands.mislog.trans noted.mislog, fun early => absurd early (by omega), fun _ => ⟨txst, rxst, event⟩⟩
  · intro dt p drop seen l o s lane fly here ho running swept due
    subst ho
    have due : MislockDue drop (s.clk + dt) (s.path p.val) := by
      cases drop with
      | true => exact ⟨due.2.2, .inr (.inr ⟨due.1, swept, due.2.1⟩)⟩
      | false => exact ⟨due.2.2, .inr (.inr ⟨due.1, swept, due.2.1⟩)⟩
    obtain ⟨v, noted, run⟩ := mislock_noted (seen := seen) lane fly due
    have runs : (v.path p.val).calres = .running := by rw [noted.path, missed_calres, running]
    refine completes_next (t := checkMislock p.val drop seen (elapse dt s)) rfl ?_
    rw [run]
    by_cases few : (s.path p.val).mislocks.toNat + 1 < 3
    · obtain ⟨w, costs, ends⟩ := mislockEnds_passFails (p := p.val) (l := l) (drop := drop) few runs
      have passes : (s.path p.val).calPass = (w.path p.val).calPass := by rw [costs.calPass, noted.path, missed_calPass]
      have commands := costs.toCommands.trans (passFails_at (p := p.val) (s := w)).toCommands
      rw [ends, passes]
      refine ⟨commands.event 0 noted.event, commands.mislog.trans noted.mislog, fun _ again => ?_, fun many => absurd many (by omega)⟩
      obtain ⟨calres, txst, -, calPass, -⟩ := begun_of_still (passFails_again again ((costs.engLost p.val).trans (noted.lost.trans here))).2
      exact ⟨calres.trans (costs.calres.trans runs), txst, calPass⟩
    · obtain ⟨commands, event, txst, rxst, calres⟩ := mislockEnds_third (p := p.val) (l := l) (drop := drop) (noted.fly.trans fly) (Nat.not_lt.mp few)
      exact ⟨commands.event 0 noted.event, commands.mislog.trans noted.mislog, fun early => absurd early (by omega), fun _ => ⟨calres runs, txst, rxst⟩⟩
end

/-! SUPPORT. STATUS of an engine (R330, R334, R337, R340): what a record leaves of its path. -/
namespace Sys2Proof.Machine
open Sys2Proof

section
variable {s t u : State} {p q e l : Nat}

/-! ### What a record leaves in rest -/

theorem calTrimStep_rests : Rests p s (calTrimStep p s) := by
  unfold calTrimStep
  extract_lets o
  split
  · refine .ite calSweep_rests (.ite (.refl p s) ?_)
    have drawn : Rests p s (takeFree s).2 := takeFree_rests
    exact drawn.trans pathSet_rests
  · exact .refl p s
/-- The drop ring is held and awaits light. -/
def ringHeld (c : Nat) (o : OPath) : OPath := { o with dark := some c }
theorem ringHeld_still (c : Nat) (o : OPath) : (ringHeld c o).still = o.still := rfl
theorem dropLight_rests : Rests p s (dropLight p s) := by
  unfold dropLight
  extract_lets o
  split
  · exact .refl p s
  next sweeps =>
    have sweeps : (s.path p).rxst = .sweep := by
      rw [bne_iff_ne, not_not] at sweeps
      exact sweeps
    have held : Rests p s (sendLoop p 2 2 none s) := sendLoop_rests
    have waits : Rests p (sendLoop p 2 2 none s) ((sendLoop p 2 2 none s).modPath p (ringHeld s.clk)) := .modPath (ringHeld_still _ _)
    exact .ite (.ite (.refl p s) (sweepRx_rests sweeps)) (.ite (held.trans waits) (.refl p s))
theorem classify_rests : Rests p s (classify p s) := by
  unfold classify
  extract_lets o
  split
  · exact .refl p s
  · split
    split
    extract_lets now seconds first noted fresh weight
    have classed : Rests p s first := .modPath rfl
    have raised : Rests p first noted := .ite (.refl p first) raiseOpt_rests
    exact (classed.trans raised).trans (.ite (.refl p noted) addPenalty_rests)

/-! ### A record of STATUS (R330) -/

/-- What a record of STATUS says of a path, and what it makes of rings that await an identity. -/
structure Reported (r : List Byte) (c : OptLane) (o v : OPath) : Prop where
  las : v.las = BitVec.ofNat 16 (u16At r 6)
  mod : v.mod = BitVec.ofNat 16 (u16At r 8)
  launch : v.launch = BitVec.ofNat 16 (u16At r 10)
  rxin : v.rxin = BitVec.ofNat 16 (u16At r 12)
  txid : v.txid = BitVec.ofNat 16 (u16At r 14)
  rxid : v.rxid = BitVec.ofNat 16 (u16At r 16)
  tx : o.txst = .verify → o.fly = none → v.txid = c.txId → v.txst = .locked
  rx : o.rxst = .verify → v.rxid = c.rxId → v.rxst = .locked

/-- From one path to another the monitors stay, and each ring that is not mislocked keeps its state. -/
structure Resumed (o v : OPath) : Prop where
  las : v.las = o.las
  mod : v.mod = o.mod
  launch : v.launch = o.launch
  rxin : v.rxin = o.rxin
  txid : v.txid = o.txid
  rxid : v.rxid = o.rxid
  tx : o.txst ≠ .mislock → v.txst = o.txst
  rx : o.rxst ≠ .mislock → v.rxst = o.rxst

theorem Resumed.of_still {o v : OPath} (h : v.still = o.still) : Resumed o v :=
  ⟨(congrArg OPath.las h :), (congrArg OPath.mod h :), (congrArg OPath.launch h :), (congrArg OPath.rxin h :), (congrArg OPath.txid h :), (congrArg OPath.rxid h :),
    fun _ => (congrArg OPath.txst h :), fun _ => (congrArg OPath.rxst h :)⟩
theorem Resumed.trans {o v w : OPath} (h : Resumed o v) (k : Resumed v w) : Resumed o w :=
  ⟨k.las.trans h.las, k.mod.trans h.mod, k.launch.trans h.launch, k.rxin.trans h.rxin, k.txid.trans h.txid, k.rxid.trans h.rxid,
    fun live => (k.tx (by rw [h.tx live]; exact live)).trans (h.tx live), fun live => (k.rx (by rw [h.rx live]; exact live)).trans (h.rx live)⟩
theorem Reported.resumed {r : List Byte} {c : OptLane} {o v w : OPath} (h : Reported r c o v) (k : Resumed v w) : Reported r c o w := by
  refine ⟨k.las.trans h.las, k.mod.trans h.mod, k.launch.trans h.launch, k.rxin.trans h.rxin, k.txid.trans h.txid, k.rxid.trans h.rxid, fun verify own id => ?_, fun verify id => ?_⟩
  · have locked := h.tx verify own (k.txid ▸ id)
    exact (k.tx (by rw [locked]; exact RingState.noConfusion)).trans locked
  · have locked := h.rx verify (k.rxid ▸ id)
    exact (k.rx (by rw [locked]; exact RingState.noConfusion)).trans locked

/-- A path as its monitors read in a record. -/
def recordRead (r : List Byte) (o : OPath) : OPath :=
  { o with txheat := BitVec.ofNat 16 (u16At r 2), rxheat := BitVec.ofNat 16 (u16At r 4), las := BitVec.ofNat 16 (u16At r 6), mod := BitVec.ofNat 16 (u16At r 8),
           launch := BitVec.ofNat 16 (u16At r 10), rxin := BitVec.ofNat 16 (u16At r 12), txid := BitVec.ofNat 16 (u16At r 14), rxid := BitVec.ofNat 16 (u16At r 16) }

/-- A ring in VERIFY locks at its identity. -/
theorem ringStep_locks {st : RingState} {ok : Bool} (engine : Nat) (verify : st = .verify) (matched : ok = true) : ringStep st engine ok = .locked := by
  rw [verify, matched]
  rfl
/-- Without a flyover a path expects its own identity. -/
theorem txExpect_own (lane : s.laneOfPath p = some l) (own : (s.path p).fly = none) : s.txExpect p = (s.optLane l).txId := by
  rw [State.txExpect, own, lane]
  rfl

theorem takePathStatus_reported {r : List Byte} (lane : s.laneOfPath p = some l) :
    AtPath p s (takePathStatus p r s) ∧ Reported r (s.optLane l) (s.path p) ((takePathStatus p r s).path p) := by
  unfold takePathStatus
  split
  next none =>
    rw [lane] at none
    cases none
  next k found =>
    obtain rfl : l = k := Option.some.inj (lane.symm.trans found)
    extract_lets w a o en txOk rxOk tx rx txNow rxNow swept b c d
    have readings : AtPath p s a := .modPath _
    have seen : o = recordRead r (s.path p) := modPath_path_self ..
    have states : AtPath p a b := .modPath _
    have path : (b.path p).las = o.las ∧ (b.path p).mod = o.mod ∧ (b.path p).launch = o.launch ∧ (b.path p).rxin = o.rxin ∧ (b.path p).txid = o.txid ∧
        (b.path p).rxid = o.rxid ∧ (b.path p).txst = tx ∧ (b.path p).rxst = rx := by
      rw [modPath_path_self]
      exact ⟨rfl, rfl, rfl, rfl, rfl, rfl, rfl, rfl⟩
    clear_value b
    have resumes : Rests p b c := .ite sendLoop_rests (.refl p b)
    clear_value c
    have light : Rests p c d := .ite calTrimStep_rests dropLight_rests
    clear_value d
    have rest : Rests p b (ringsReady p (classify p d)) := ((resumes.trans light).trans classify_rests).trans ringsReady_rests
    refine ⟨(readings.trans states).trans rest.toAtPath, ?_⟩
    obtain ⟨las, mod, launch, rxin, txid, rxid, txst, rxst⟩ := path
    refine Reported.resumed (v := b.path p) ⟨?_, ?_, ?_, ?_, ?_, ?_, fun verify own id => ?_, fun verify id => ?_⟩ (.of_still rest.still)
    · rw [las, seen, recordRead]
    · rw [mod, seen, recordRead]
    · rw [launch, seen, recordRead]
    · rw [rxin, seen, recordRead]
    · rw [txid, seen, recordRead]
    · rw [rxid, seen, recordRead]
    · have expects : a.txExpect p = (a.optLane l).txId := txExpect_own ((readings.laneOfPath p).trans lane) ((congrArg OPath.fly seen).trans own)
      have matched : txOk = true := by rw [beq_iff_eq, expects, readings.optLane, ← txid, id]
      exact txst.trans (ringStep_locks _ ((congrArg OPath.txst seen).trans verify) matched)
    · have matched : rxOk = true := by rw [beq_iff_eq, readings.optLane, ← rxid, id]
      exact rxst.trans (ringStep_locks _ ((congrArg OPath.rxst seen).trans verify) matched)

end
end Sys2Proof.Machine

/-! SUPPORT. Messages of an engine (R329 to R332): ENG_HELLO and STATUS over all the paths of the engine, and what is sent to engines. -/
namespace Sys2Proof.Machine
open Sys2Proof

section
variable {s t u : State} {p q e l : Nat}

/-! ### A step for each path -/

/-- Where each step changes one path of its own, the step of an index finds that path as it was, and leaves it so. -/
theorem forEach_own {f : Nat → State → State} {g : Nat → Nat} (inj : ∀ i j, g i = g j → i = j) (own : ∀ i u, AtPath (g i) u (f i u)) {is : List Nat} (nodup : is.Nodup) (s : State) :
    (∀ q, (∀ i ∈ is, g i ≠ q) → (forEach is f s).path q = s.path q) ∧
    ∀ i ∈ is, ∃ u, Commands s u ∧ u.path (g i) = s.path (g i) ∧ (forEach is f s).path (g i) = (f i u).path (g i) := by
  induction is generalizing s with
  | nil => exact ⟨fun _ _ => rfl, fun i h => absurd h List.not_mem_nil⟩
  | cons a r ih =>
    obtain ⟨fresh, nodup⟩ := List.nodup_cons.mp nodup
    obtain ⟨rest, each⟩ := ih nodup (f a s)
    refine ⟨fun q hq => (rest q fun i hi => hq i (List.mem_cons_of_mem a hi)).trans ((own a s).other q (hq a List.mem_cons_self).symm), fun i hi => ?_⟩
    obtain rfl | later := List.mem_cons.mp hi
    · exact ⟨s, .of_same rfl rfl rfl, rfl, rest _ fun j hj same => fresh (inj j i same ▸ hj)⟩
    · obtain ⟨u, commands, path, ends⟩ := each i later
      exact ⟨u, (own a s).toCommands.trans commands, path.trans ((own a s).other _ fun same => fresh (inj i a same ▸ later)), ends⟩
theorem forEach_commands {α : Type} {f : α → State → State} (h : ∀ a u, Commands u (f a u)) (is : List α) (s : State) : Commands s (forEach is f s) :=
  forEach_invariant (P := Commands s) (fun a _ _ k => k.trans (h a _)) (.of_same rfl rfl rfl)

/-- Where each step brings both rings of its path to a state unless they are retired, all paths of the list come to it. -/
theorem forEach_turns {f : Nat → State → State} {x : RingState} (hx : x ≠ .retired) (own : ∀ i u, AtPath i u (f i u))
    (turns : ∀ i u, (u.path i).txst ≠ .retired → ((f i u).path i).txst = x ∧ ((f i u).path i).rxst = x) {is : List Nat}
    (live : (s.path p).txst ≠ .retired) (h : p ∈ is ∨ ((s.path p).txst = x ∧ (s.path p).rxst = x)) :
    ((forEach is f s).path p).txst = x ∧ ((forEach is f s).path p).rxst = x := by
  induction is generalizing s with
  | nil => exact h.elim (fun none => absurd none List.not_mem_nil) id
  | cons a r ih =>
    by_cases here : p = a
    · subst here
      obtain ⟨tx, rx⟩ := turns p s live
      exact ih (by rw [tx]; exact hx) (.inr ⟨tx, rx⟩)
    · have same : (f a s).path p = s.path p := (own a s).other p here
      refine ih (by rw [same]; exact live) ?_
      rw [same]
      exact h.imp_left fun listed => (List.mem_cons.mp listed).resolve_left here

/-! ### ENG_HELLO (R329, R332, R334) -/

theorem lightPath_at : AtPath p s (lightPath p s) := by
  have set : Rests p s (sendPathSet p s) := sendPathSet_rests
  have laser : Rests p (sendPathSet p s) (sendLoop p 0 1 none (sendPathSet p s)) := sendLoop_rests
  unfold lightPath
  split
  · exact (Rests.refl p s).toAtPath
  · exact (set.trans laser).toAtPath.trans (sweepTx_at.trans sweepRx_at)
theorem lightPath_sweeps (live : (s.path p).txst ≠ .retired) : ((lightPath p s).path p).txst = .sweep ∧ ((lightPath p s).path p).rxst = .sweep := by
  rw [lightPath, if_neg (by rw [beq_iff_eq]; exact live)]
  exact ⟨sweepRx_txst.trans sweepTx_txst, sweepRx_rxst⟩
/-- A path of an engine that does not fit goes dark. -/
def goesDark (o : OPath) : OPath := if o.txst == .retired then o else { o with txst := .off, rxst := .off }
theorem goesDark_off {o : OPath} (live : o.txst ≠ .retired) : (goesDark o).txst = .off ∧ (goesDark o).rxst = .off := by
  rw [goesDark, if_neg (by rw [beq_iff_eq]; exact live)]
  exact ⟨rfl, rfl⟩

/-! ### STATUS (R330) -/

theorem takePathStatus_at {r : List Byte} : AtPath p s (takePathStatus p r s) := by
  cases lane : s.laneOfPath p with
  | some l => exact (takePathStatus_reported lane).1
  | none =>
    unfold takePathStatus
    rw [lane]
    exact (Rests.refl p s).toAtPath

/-- The mislocked rings of a path sweep again. -/
def resumePath (p : Nat) (s : State) : State :=
  let s := if (s.path p).txst == .mislock then sweepTx p (sendPathSet p s) else s
  if (s.path p).rxst == .mislock then sweepRx p (sendPathSet p s) else s
theorem Resumed.refl (o : OPath) : Resumed o o := .of_still rfl
/-- A drop ring that was mislocked sweeps; nothing else of what the path keeps has changed. -/
theorem Resumed.of_rx {o v : OPath} (h : v.still = { o.still with rxst := .sweep }) (mislocked : o.rxst = .mislock) : Resumed o v :=
  ⟨(congrArg OPath.las h :), (congrArg OPath.mod h :), (congrArg OPath.launch h :), (congrArg OPath.rxin h :), (congrArg OPath.txid h :), (congrArg OPath.rxid h :),
    fun _ => (congrArg OPath.txst h :), fun live => absurd mislocked live⟩
theorem Resumed.of_tx {o : OPath} {c : Nat} (mislocked : o.txst = .mislock) : Resumed o { o with txst := .sweep, txMatch := c } :=
  ⟨rfl, rfl, rfl, rfl, rfl, rfl, fun live => absurd mislocked live, fun _ => rfl⟩
/-- A step that changes one path, whose monitors and locked rings stay. -/
structure Resumes (p : Nat) (s t : State) : Prop extends AtPath p s t where
  resumed : Resumed (s.path p) (t.path p)
theorem Resumes.trans (h : Resumes p s t) (k : Resumes p t u) : Resumes p s u := ⟨h.toAtPath.trans k.toAtPath, h.resumed.trans k.resumed⟩
theorem Rests.resumes (h : Rests p s t) : Resumes p s t := ⟨h.toAtPath, .of_still h.still⟩
theorem Resumes.each (h : Resumes p s t) (q : Nat) : Resumed (s.path q) (t.path q) := by
  by_cases here : q = p
  · subst here
    exact h.resumed
  · rw [h.other q here]
    exact .refl _
theorem sweepTx_resumes (mislocked : (s.path p).txst = .mislock) : Resumes p s (sweepTx p (sendPathSet p s)) := by
  have set : Rests p s (sendPathSet p s) := sendPathSet_rests
  refine set.resumes.trans ⟨sweepTx_at, ?_⟩
  rw [sweepTx_path]
  exact .of_tx (set.txst.trans mislocked)
theorem sweepRx_resumes (mislocked : (s.path p).rxst = .mislock) : Resumes p s (sweepRx p (sendPathSet p s)) := by
  have set : Rests p s (sendPathSet p s) := sendPathSet_rests
  exact set.resumes.trans ⟨sweepRx_at, .of_rx sweepRx_still.2 (set.rxst.trans mislocked)⟩
theorem resumePath_resumes : Resumes p s (resumePath p s) := by
  unfold resumePath
  extract_lets v
  have first : Resumes p s v := by
    dsimp only [v]
    split
    next mislocked => exact sweepTx_resumes (beq_iff_eq.mp mislocked)
    · exact (Rests.refl p s).resumes
  clear_value v
  split
  next mislocked => exact first.trans (sweepRx_resumes (beq_iff_eq.mp mislocked))
  · exact first

/-- The records of a STATUS on the paths of an engine. -/
def takeRecords (e : Nat) (b : List Byte) (s : State) : State := forEach (List.range 64) (fun i s => takePathStatus (64 * e + i) (slice b (20 * i) 20) s) s
theorem takeRecords_reported {b : List Byte} {i : Nat} (hi : i < 64) (lane : s.laneOfPath (64 * e + i) = some l) :
    Reported (slice b (20 * i) 20) (s.optLane l) (s.path (64 * e + i)) ((takeRecords e b s).path (64 * e + i)) := by
  obtain ⟨-, each⟩ := forEach_own (f := fun i s => takePathStatus (64 * e + i) (slice b (20 * i) 20) s) (g := fun i => 64 * e + i)
    (fun i j same => Nat.add_left_cancel same) (fun _ _ => takePathStatus_at) (List.nodup_range (n := 64)) s
  obtain ⟨u, commands, path, ends⟩ := each i (List.mem_range.mpr hi)
  have reported := (takePathStatus_reported (r := slice b (20 * i) 20) ((commands.laneOfPath (64 * e + i)).trans lane)).2
  rw [commands.optLane, path] at reported
  rw [takeRecords, ends]
  exact reported
theorem takeRecords_commands {b : List Byte} : Commands s (takeRecords e b s) := forEach_commands (fun _ _ => takePathStatus_at.toCommands) _ s

/-- The mislocked rings of an engine's paths sweep again. -/
def resumePaths (e : Nat) (s : State) : State := forEach (s.namedPaths e) resumePath s
theorem resumePaths_resumed : Commands s (resumePaths e s) ∧ ∀ q, Resumed (s.path q) ((resumePaths e s).path q) :=
  forEach_invariant (P := fun u => Commands s u ∧ ∀ q, Resumed (s.path q) (u.path q))
    (fun _ _ _ h => ⟨h.1.trans resumePath_resumes.toCommands, fun q => (h.2 q).trans (resumePath_resumes.each q)⟩) ⟨.of_same rfl rfl rfl, fun _ => .refl _⟩

/-- An engine whose STATUS has come. -/
def told (c : Nat) (g : Engine) : Engine := { g with st := .up, statusAt := c }
/-- STATUS of an engine that is UP or LOST, where no flyover is held. -/
theorem takeStatus_eq {b : List Byte} (here : s.engPresent e = true) (live : (s.engine e).st = .up ∨ (s.engine e).st = .lost) (fly : s.opt.fly = []) :
    takeStatus e b s = resumePaths e (takeRecords e b (s.modEngine e (told s.clk))) := by
  have heard : (!s.engPresent e || (s.engine e).st == .absent || (s.engine e).st == .waiting || (s.engine e).st == .mismatch) = false := by
    obtain up | lost := live
    · rw [here, up]
      rfl
    · rw [here, lost]
      rfl
  unfold takeStatus
  extract_lets g v w x
  rw [heard, if_neg Bool.false_ne_true]
  have first : v = s.modEngine e (told s.clk) := rfl
  have held : v.opt.fly = [] := fly
  clear_value v
  have records : w = takeRecords e b v := rfl
  clear_value w
  have resumes : x = resumePaths e w := rfl
  clear_value x
  have none : x.opt.fly = [] := by
    rw [resumes, records]
    exact resumePaths_resumed.1.fly.trans (takeRecords_commands.fly.trans held)
  rw [none, List.map_nil, List.filter_nil, forEach, List.foldl_nil, resumes, records, first]

/-- After a STATUS its engine is UP, and each path shows what its record says. -/
theorem takeStatus_up {b : List Byte} (here : s.engPresent e = true) (live : (s.engine e).st = .up ∨ (s.engine e).st = .lost) (fly : s.opt.fly = []) :
    ((takeStatus e b s).engine e).st = .up ∧ ((takeStatus e b s).engine e).statusAt = s.clk ∧
    ∀ i l, i < 64 → s.laneOfPath (64 * e + i) = some l →
      Reported (slice b (20 * i) 20) (s.optLane l) (s.path (64 * e + i)) ((takeStatus e b s).path (64 * e + i)) := by
  have engine : (s.modEngine e (told s.clk)).engine e = told s.clk (s.engine e) := modEngine_engine_self ..
  have records : Commands (s.modEngine e (told s.clk)) (takeRecords e b (s.modEngine e (told s.clk))) := takeRecords_commands
  obtain ⟨resumes, resumed⟩ := resumePaths_resumed (s := takeRecords e b (s.modEngine e (told s.clk))) (e := e)
  have commanded := (records.trans resumes).eng e
  rw [engine] at commanded
  rw [takeStatus_eq here live fly]
  refine ⟨commanded.st, commanded.statusAt, fun i l hi lane => ?_⟩
  have reported := takeRecords_reported (s := s.modEngine e (told s.clk)) (e := e) (b := b) hi lane
  exact reported.resumed (resumed _)

end
end Sys2Proof.Machine

/-! SUPPORT. Commands to engines over time (R329, R331): keepalives, repetitions and acknowledgements. -/
namespace Sys2Proof.Machine
open Sys2Proof

section
variable {s t u : State} {p q e l n : Nat}

theorem forEach_cons {α : Type} (a : α) (r : List α) (f : α → State → State) (s : State) : forEach (a :: r) f s = forEach r f (f a s) := rfl

/-! ### A message on its way to an engine -/

/-- A step that only sends: nothing sent is taken back, time and the engines' lanes stay. -/
structure Sends (s t : State) : Prop where
  clk : t.clk = s.clk
  now : t.now = s.now
  lane : ∀ e, t.engLane e = s.engLane e
  out : ∀ m, m ∈ s.out → m ∈ t.out

theorem Sends.refl (s : State) : Sends s s := ⟨rfl, rfl, fun _ => rfl, fun _ h => h⟩
theorem Sends.trans (h : Sends s t) (k : Sends t u) : Sends s u :=
  ⟨k.clk.trans h.clk, k.now.trans h.now, fun e => (k.lane e).trans (h.lane e), fun m hm => k.out m (h.out m hm)⟩
theorem Sends.modEngine (f : Engine → Engine) : Sends s (s.modEngine e f) := ⟨rfl, rfl, fun _ => rfl, fun _ h => h⟩
theorem engLane_congr (h : ∀ k, (t.svcLane k).st = (s.svcLane k).st) (e : Nat) : t.engLane e = s.engLane e := by rw [State.engLane, h, h, State.engLane]
theorem elapse_engLane (dt : Nat) : (elapse dt s).engLane e = s.engLane e := engLane_congr (fun k => by rw [State.svcLane, elapse_kept.e_svc (by decide), State.svcLane]) e
theorem sendMsg_svcSt {lane : Nat} {type seq : Byte} {payload : List Byte} {marked : Bool} (k : Nat) :
    ((sendMsg lane type seq payload marked s).svcLane k).st = (s.svcLane k).st := by
  unfold sendMsg sendChars
  generalize encodeAll _ _ = codes
  obtain ⟨g, rd⟩ := codes
  change ((s.modSvc lane (fun v => { v with txRd := rd })).svcLane k).st = _
  by_cases here : k = lane
  · subst here
    rw [modSvc_svcLane_self]
  · rw [modSvc_svcLane_of_ne _ _ here]
theorem sendMsg_out {lane type : Nat} {seq : Byte} {payload : List Byte} {marked : Bool} :
    ∃ m, (sendMsg lane (BitVec.ofNat 8 type) seq payload marked s).out = m :: s.out ∧ Carries lane type seq payload marked m := by
  unfold sendMsg sendChars
  exact ⟨_, rfl, (s.svcLane lane).txRd, rfl⟩
theorem sendEngRaw_sends {type : Nat} {seq : Byte} {payload : List Byte} :
    Sends s (sendEngRaw e type seq payload s) ∧ ∃ m, m ∈ (sendEngRaw e type seq payload s).out ∧ Carries (s.engLane e) type seq payload false m := by
  have raw : Kept [.svc, .out] s (sendEngRaw e type seq payload s) := sendMsg_kept
  obtain ⟨m, out, carries⟩ := sendMsg_out (s := s) (lane := s.engLane e) (type := type) (seq := seq) (payload := payload) (marked := false)
  have out : (sendEngRaw e type seq payload s).out = m :: s.out := out
  refine ⟨⟨(raw.e_clk (by decide)), by rw [State.now, raw.e_tmb (by decide), State.now], engLane_congr sendMsg_svcSt, fun m hm => ?_⟩, ⟨m, ?_, carries⟩⟩
  · rw [out]
    exact List.mem_cons_of_mem _ hm
  · rw [out]
    exact List.mem_cons_self

/-! ### Keepalives (R331) -/

/-- The engine's keepalive is sent, and its SEQ goes on. -/
def keepaliveOne (e : Nat) (s : State) : State :=
  (sendEngRaw e 0x84 (s.engine e).seq (toLE 8 s.now) s).modEngine e (fun g => { g with seq := g.seq + 1 })
theorem keepaliveOne_other (h : q ≠ e) : (keepaliveOne e s).engine q = s.engine q := by
  have raw : Kept [.svc, .out] s (sendEngRaw e 0x84 (s.engine e).seq (toLE 8 s.now) s) := sendMsg_kept
  rw [keepaliveOne, modEngine_engine_of_ne _ _ h, engine_of_opt (raw.e_opt (by decide))]
theorem keepaliveOne_sends : Sends s (keepaliveOne e s) ∧ ((keepaliveOne e s).engine e).seq = (s.engine e).seq + 1 ∧
    ∃ m, m ∈ (keepaliveOne e s).out ∧ Carries (s.engLane e) 0x84 (s.engine e).seq (toLE 8 s.now) false m := by
  have raw : Kept [.svc, .out] s (sendEngRaw e 0x84 (s.engine e).seq (toLE 8 s.now) s) := sendMsg_kept
  obtain ⟨sends, carries⟩ := sendEngRaw_sends (s := s) (e := e) (type := 0x84) (seq := (s.engine e).seq) (payload := toLE 8 s.now)
  have seq : ((keepaliveOne e s).engine e).seq = (s.engine e).seq + 1 := by rw [keepaliveOne, modEngine_engine_self, engine_of_opt (raw.e_opt (by decide))]
  rw [keepaliveOne] at seq ⊢
  exact ⟨sends.trans (.modEngine _), seq, carries⟩
/-- Each engine of a list has its keepalive. -/
theorem forEach_keepalive {es : List Nat} (nodup : es.Nodup) (s : State) : Sends s (forEach es keepaliveOne s) ∧
    (∀ q, q ∉ es → (forEach es keepaliveOne s).engine q = s.engine q) ∧
    ∀ e ∈ es, ((forEach es keepaliveOne s).engine e).seq = (s.engine e).seq + 1 ∧
      ∃ m, m ∈ (forEach es keepaliveOne s).out ∧ Carries (s.engLane e) 0x84 (s.engine e).seq (toLE 8 s.now) false m := by
  induction es generalizing s with
  | nil => exact ⟨.refl s, fun _ _ => rfl, fun e h => absurd h List.not_mem_nil⟩
  | cons a r ih =>
    obtain ⟨fresh, nodup⟩ := List.nodup_cons.mp nodup
    obtain ⟨sends, others, each⟩ := ih nodup (keepaliveOne a s)
    obtain ⟨first, seq, m, sent, carries⟩ := keepaliveOne_sends (s := s) (e := a)
    rw [forEach_cons]
    refine ⟨first.trans sends, fun q hq => ?_, fun e he => ?_⟩
    · exact (others q (List.not_mem_of_not_mem_cons hq)).trans (keepaliveOne_other (List.ne_of_not_mem_cons hq))
    · obtain rfl | later := List.mem_cons.mp he
      · exact ⟨(congrArg Engine.seq (others e fresh)).trans seq, m, sends.out m sent, carries⟩
      · have same : (keepaliveOne a s).engine e = s.engine e := keepaliveOne_other fun here => fresh (here ▸ later)
        have told := each e later
        rw [same, first.lane, first.now] at told
        exact told

/-! ### Repetitions (R331) -/

/-- Every command of a list is sent. -/
theorem forEach_repeats (cs : List EngCmd) (s : State) :
    Sends s (forEach cs (fun c s => sendEngRaw e c.type.toNat c.seq c.payload s) s) ∧
    ∀ c ∈ cs, ∃ m, m ∈ (forEach cs (fun c s => sendEngRaw e c.type.toNat c.seq c.payload s) s).out ∧ Carries (s.engLane e) c.type.toNat c.seq c.payload false m := by
  induction cs generalizing s with
  | nil => exact ⟨.refl s, fun e h => absurd h List.not_mem_nil⟩
  | cons a r ih =>
    obtain ⟨sends, each⟩ := ih (sendEngRaw e a.type.toNat a.seq a.payload s)
    obtain ⟨first, m, sent, carries⟩ := sendEngRaw_sends (s := s) (e := e) (type := a.type.toNat) (seq := a.seq) (payload := a.payload)
    rw [forEach_cons]
    refine ⟨first.trans sends, fun c hc => ?_⟩
    obtain rfl | later := List.mem_cons.mp hc
    · exact ⟨m, sends.out m sent, carries⟩
    · have told := each c later
      rw [first.lane] at told
      exact told

/-- Of the commands of an engine those that are due and not sent four times are sent again; the others that are due end. -/
theorem retryEng_sent {c : EngCmd} (sent : c ∈ (s.engine e).cmds) (due : 200000 ≤ s.clk - c.at_) (few : c.sends < 4) :
    { c with sends := c.sends + 1, at_ := s.clk } ∈ ((retryEng e s).engine e).cmds ∧ ∃ m, m ∈ (retryEng e s).out ∧ Carries (s.engLane e) c.type.toNat c.seq c.payload false m := by
  unfold retryEng
  extract_lets isDue again v
  have cmds : (v.engine e).cmds = ((s.engine e).cmds.filter (fun c => !isDue c || decide (c.sends < 4))).map (fun c => if isDue c then { c with sends := c.sends + 1, at_ := s.clk } else c) := by
    rw [modEngine_engine_self]
  have lane : v.engLane e = s.engLane e := (Sends.modEngine _).lane e
  clear_value v
  have now : isDue c = true := decide_eq_true due
  have kept : Kept [.svc, .out] v (forEach again (fun c s => sendEngRaw e c.type.toNat c.seq c.payload s) v) := forEach_kept fun _ _ => sendMsg_kept
  obtain ⟨-, each⟩ := forEach_repeats (e := e) again v
  rw [lane] at each
  refine ⟨?_, each c (List.mem_filter.mpr ⟨sent, by rw [now, decide_eq_true few]; rfl⟩)⟩
  rw [engine_of_opt (kept.e_opt (by decide)), cmds]
  exact List.mem_map.mpr ⟨c, List.mem_filter.mpr ⟨sent, by rw [decide_eq_true few, Bool.or_true]⟩, if_pos now⟩
/-- After the repetitions no command is due. -/
theorem retryEng_fresh {c : EngCmd} (held : c ∈ ((retryEng e s).engine e).cmds) : s.clk - c.at_ < 200000 := by
  unfold retryEng at held
  extract_lets isDue again v at held
  have cmds : (v.engine e).cmds = ((s.engine e).cmds.filter (fun c => !isDue c || decide (c.sends < 4))).map (fun c => if isDue c then { c with sends := c.sends + 1, at_ := s.clk } else c) := by
    rw [modEngine_engine_self]
  clear_value v
  have kept : Kept [.svc, .out] v (forEach again (fun c s => sendEngRaw e c.type.toNat c.seq c.payload s) v) := forEach_kept fun _ _ => sendMsg_kept
  rw [engine_of_opt (kept.e_opt (by decide)), cmds] at held
  obtain ⟨d, -, same⟩ := List.mem_map.mp held
  by_cases due : isDue d = true
  · rw [← same, if_pos due, Nat.sub_self]
    decide
  · rw [← same, if_neg due]
    exact Nat.not_le.mp fun late => due (decide_eq_true late)

/-! ### Acknowledgements and the silence of an engine (R329, R331) -/

/-- An ACK ends its command; a crossing that it connects is noted in the command's flyover. -/
theorem takeAckOf_found {seq stat : Byte} {c : EngCmd} (found : (s.engine e).cmds.find? (fun c => c.seq == seq) = some c) :
    ((takeAckOf e seq stat s).engine e).cmds = (s.engine e).cmds.filter (fun c => c.seq != seq) ∧
    ∀ n, c.fly = some n → ((takeAckOf e seq stat s).flyOf n).crossed = (s.flyOf n).crossed + if c.type = 0x86 ∧ u8At c.payload 2 = 1 ∧ stat = 0 then 1 else 0 := by
  unfold takeAckOf
  rw [found]
  dsimp -zeta only
  extract_lets v
  have cmds : (v.engine e).cmds = (s.engine e).cmds.filter (fun c => c.seq != seq) := by rw [modEngine_engine_self]
  have fly (n : Nat) : v.flyOf n = s.flyOf n := rfl
  clear_value v
  have met : (c.type == 0x86 && u8At c.payload 2 == 1 && stat == 0) = true ↔ (c.type = 0x86 ∧ u8At c.payload 2 = 1 ∧ stat = 0) := by
    rw [Bool.and_eq_true, Bool.and_eq_true, beq_iff_eq, beq_iff_eq, beq_iff_eq, and_assoc]
  split
  next n own =>
    split
    next connects =>
      refine ⟨cmds, fun k hk => ?_⟩
      obtain rfl : n = k := Option.some.inj (own.symm.trans hk)
      rw [modFly_flyOf_self, if_pos (met.mp connects), fly]
    next other =>
      exact ⟨cmds, fun k _ => by rw [if_neg (fun connects => other (met.mpr connects)), fly, Nat.add_zero]⟩
  next none => exact ⟨cmds, fun k hk => by rw [none] at hk; cases hk⟩

/-- An engine whose STATUS has been missing for 10 ms is LOST. -/
theorem loseEngine_lost (up : (s.engine e).st = .up) (silent : 10 ^ 7 ≤ s.clk - (s.engine e).statusAt) :
    ((loseEngine e s).engine e).st = .lost ∧ (loseEngine e s).opt.event.getLsbD 4 = true ∧ (loseEngine e s).opt.path = s.opt.path := by
  unfold loseEngine
  extract_lets g
  rw [if_pos (by rw [up, decide_eq_true silent]; rfl)]
  have raised : Rests 0 (s.modEngine e (fun g => { g with st := .lost })) (raiseOpt 4 (s.modEngine e (fun g => { g with st := .lost }))) := raiseOpt_rests
  refine ⟨?_, raiseOpt_raised (by decide), raiseOpt_path 4⟩
  rw [(raised.eng e).st, modEngine_engine_self]
theorem loseEngine_heard (heard : s.clk - (s.engine e).statusAt < 10 ^ 7) : loseEngine e s = s := by
  unfold loseEngine
  extract_lets g
  exact if_neg (by rw [Bool.and_eq_true, decide_eq_true_eq]; exact fun h => absurd h.2 (Nat.not_le.mpr heard))

end
end Sys2Proof.Machine

/-! SUPPORT. ENG_HELLO (R329, R332): an engine that does not fit the plat, and one that does. -/
namespace Sys2Proof.Machine
open Sys2Proof

section
variable {s : State} {p e : Nat} {b : List Byte}

/-- A path named on the engine is not fitted: MISMATCH, and the engine's paths go dark. -/
theorem takeEngHello_mismatch (here : s.engPresent e = true) (gap : ∃ p, p ∈ s.namedPaths e ∧ bitAt (u64At b 12) (p % 64) = false) :
    ((takeEngHello e b s).engine e).st = .mismatch ∧ ((takeEngHello e b s).engine e).fitted = BitVec.ofNat 64 (u64At b 12) ∧
    (takeEngHello e b s).opt.event.getLsbD 4 = true ∧
    ∀ p, p ∈ s.namedPaths e → (s.path p).txst ≠ .retired → ((takeEngHello e b s).path p).txst = .off ∧ ((takeEngHello e b s).path p).rxst = .off := by
  have misses : (s.namedPaths e).any (fun p => !bitAt (u64At b 12) (p % 64)) = true := by
    obtain ⟨p, named, unfit⟩ := gap
    exact List.any_eq_true.mpr ⟨p, named, by rw [unfit]; rfl⟩
  unfold takeEngHello
  extract_lets fitted paths v w r x
  rw [here, if_neg (by decide), if_pos misses]
  have st : (w.engine e).st = .mismatch ∧ (w.engine e).fitted = BitVec.ofNat 64 (u64At b 12) := by
    have raised : Rests 0 (v.modEngine e (fun g => { g with st := .mismatch })) w := raiseOpt_rests
    rw [(raised.eng e).st, (raised.eng e).fitted, modEngine_engine_self, modEngine_engine_self]
    exact ⟨rfl, rfl⟩
  have event : w.opt.event.getLsbD 4 = true := raiseOpt_raised (by decide)
  have same (q : Nat) : w.path q = s.path q := by
    rw [State.path, raiseOpt_path]
    rfl
  clear_value w
  have own (i : Nat) (u : State) : AtPath i u (u.modPath i goesDark) := .modPath _
  have dark : Commands w (forEach paths (fun p s => s.modPath p goesDark) w) := forEach_commands (fun i u => (own i u).toCommands) _ _
  refine ⟨(dark.eng e).st.trans st.1, (dark.eng e).fitted.trans st.2, dark.event 4 event, fun p named live => ?_⟩
  refine forEach_turns (f := fun p s => s.modPath p goesDark) (by decide) own (fun i u on => ?_) (by rw [same]; exact live) (.inl named)
  rw [modPath_path_self]
  exact goesDark_off on
/-- All its paths are fitted: the engine is UP, PULSE goes out and the loops of its paths start. -/
theorem takeEngHello_up (here : s.engPresent e = true) (fits : ∀ p, p ∈ s.namedPaths e → bitAt (u64At b 12) (p % 64) = true) :
    ((takeEngHello e b s).engine e).st = .up ∧ ((takeEngHello e b s).engine e).devid = BitVec.ofNat 64 (u64At b 0) ∧
    (∃ c, c ∈ ((takeEngHello e b s).engine e).cmds ∧ c.type = 0x81 ∧
      c.payload = [(tget OptEng.none s.plt.plat.eng e).hgain, (tget OptEng.none s.plt.plat.eng e).lgain] ++ zeros 6) ∧
    ∀ p, p ∈ s.namedPaths e → (s.path p).txst ≠ .retired → ((takeEngHello e b s).path p).txst = .sweep ∧ ((takeEngHello e b s).path p).rxst = .sweep := by
  have meets : (s.namedPaths e).any (fun p => !bitAt (u64At b 12) (p % 64)) = false := by
    rw [List.any_eq_false]
    intro p named
    rw [fits p named]
    exact Bool.false_ne_true
  unfold takeEngHello
  extract_lets fitted paths v w r x
  rw [here, if_neg (by decide), if_neg (by rw [meets]; exact Bool.false_ne_true)]
  have told : (x.engine e).st = .up ∧ (x.engine e).devid = BitVec.ofNat 64 (u64At b 0) ∧
      ∃ c, c ∈ (x.engine e).cmds ∧ c.type = 0x81 ∧ c.payload = [r.hgain, r.lgain] ++ zeros 6 := by
    rw [sendEng_engine, modEngine_engine_self, modEngine_engine_self]
    exact ⟨rfl, rfl, _, List.mem_append_right _ List.mem_cons_self, rfl, rfl⟩
  have same (q : Nat) : x.path q = s.path q := sendEng_path q
  obtain ⟨st, devid, c, sent, type, payload⟩ := told
  clear_value x
  have lit : Commands x (forEach paths lightPath x) := forEach_commands (fun _ _ => lightPath_at.toCommands) _ _
  refine ⟨(lit.eng e).st.trans st, (lit.eng e).devid.trans devid, ⟨c, (lit.eng e).cmds c sent, type, payload⟩, fun p named live => ?_⟩
  exact forEach_turns (by decide) (fun _ _ => lightPath_at) (fun _ _ => lightPath_sweeps) (by rw [same]; exact live) (.inl named)

/-! ### A message heard of an engine (R124) -/

theorem byte_zero (b : List Byte) (k : Nat) : BitVec.ofNat 8 (u8At b k) = 0 ↔ u8At b k = 0 := by
  have small := u8At_lt b k
  constructor
  · intro zero
    have same := congrArg BitVec.toNat zero
    rw [BitVec.toNat_ofNat, Nat.mod_eq_of_lt small] at same
    exact same
  · intro zero
    rw [zero]
    rfl

/-- The optics as an engine's message finds them. -/
structure SameOptics (s u : State) : Prop where
  opt : u.opt = s.opt
  plt : u.plt = s.plt
  clk : u.clk = s.clk
theorem SameOptics.engine {u : State} (h : SameOptics s u) (e : Nat) : u.engine e = s.engine e := engine_of_opt h.opt e
theorem SameOptics.path {u : State} (h : SameOptics s u) (q : Nat) : u.path q = s.path q := by rw [State.path, h.opt, State.path]
theorem SameOptics.flyOf {u : State} (h : SameOptics s u) (n : Nat) : u.flyOf n = s.flyOf n := by rw [State.flyOf, h.opt, State.flyOf]
theorem SameOptics.engPresent {u : State} (h : SameOptics s u) (e : Nat) : u.engPresent e = s.engPresent e := by rw [State.engPresent, h.plt, State.engPresent]
theorem SameOptics.namedPaths {u : State} (h : SameOptics s u) (e : Nat) : u.namedPaths e = s.namedPaths e := by rw [State.namedPaths, h.plt, State.namedPaths]
theorem SameOptics.laneOfPath {u : State} (h : SameOptics s u) (p : Nat) : u.laneOfPath p = s.laneOfPath p := by rw [State.laneOfPath, h.plt, State.laneOfPath]
theorem SameOptics.optLane {u : State} (h : SameOptics s u) (l : Nat) : u.optLane l = s.optLane l := by rw [State.optLane, h.plt, State.optLane]

/-- A message that is heard does what it is for. -/
theorem completes_engine {i : Instr} {e : Fin 32} {second : Bool} {codes : List Code} {type seq : Byte} {f : SvcMsg → State → State} {P : State → Prop}
    (run : exec i s = .next (onEngine e second type codes f s)) (hears : HearsEngine s e second codes type seq b)
    (h : ∀ u, SameOptics s u → P (f ⟨type, seq, b⟩ u)) : Completes i s P := by
  refine completes_next run ?_
  rw [onEngine, onMessage_hears hears]
  exact h _ ⟨rfl, rfl, rfl⟩

end
end Sys2Proof.Machine

section
open Sys2Proof Sys2Proof.Machine
/-- Settles O41: commands to an engine leave all but its SEQ and its commands, a record of STATUS changes its own path alone, and what follows leaves the monitors and the rings that are not mislocked. -/
theorem opticalEnginesComplete : Obligations.OpticalEnginesComplete := by
  unfold Obligations.OpticalEnginesComplete
  refine ⟨?_, ?_, ?_, ?_, ?_, ?_, ?_, ?_⟩
  · intro e second codes seq b s hears here gap
    refine completes_engine rfl hears fun u same => ?_
    rw [← same.engPresent] at here
    rw [← same.namedPaths] at gap
    obtain ⟨st, fitted, event, dark⟩ := takeEngHello_mismatch here gap
    refine ⟨st, fitted, event, fun p named live => dark p ?_ ?_⟩
    · rw [same.namedPaths]
      exact named
    · rw [same.path]
      exact live
  · intro e second codes seq b s hears here fits
    refine completes_engine rfl hears fun u same => ?_
    rw [← same.engPresent] at here
    rw [← same.namedPaths] at fits
    obtain ⟨st, devid, sent, lit⟩ := takeEngHello_up here fits
    refine ⟨st, devid, ?_, fun p named live => lit p ?_ ?_⟩
    · rw [← same.plt]
      exact sent
    · rw [same.namedPaths]
      exact named
    · rw [same.path]
      exact live
  · intro e second codes seq b s hears here live fly
    refine completes_engine rfl hears fun u same => ?_
    rw [← same.engPresent] at here
    rw [← same.engine] at live
    rw [← same.opt] at fly
    obtain ⟨up, at_, reported⟩ := takeStatus_up (b := b) here live fly
    refine ⟨up, at_.trans same.clk, fun i o r l ho hr lane => ?_⟩
    have shows := reported i.val l i.isLt ((same.laneOfPath _).trans lane)
    rw [same.optLane, same.path, ← ho, ← hr] at shows
    exact ⟨shows.las, shows.mod, shows.launch, shows.rxin, shows.txid, shows.rxid, shows.tx, shows.rx⟩
  · intro e second codes seq b c s hears found
    refine completes_engine rfl hears fun u same => ?_
    rw [← same.engine] at found
    obtain ⟨cmds, crossed⟩ := takeAckOf_found (stat := BitVec.ofNat 8 (u8At b 0)) found
    refine ⟨cmds.trans (by rw [same.engine]), fun n own => (crossed n own).trans ?_⟩
    simp only [same.flyOf, byte_zero]
  · intro dt s
    obtain ⟨sends, -, each⟩ := forEach_keepalive (List.nodup_range.filter (elapse dt s).engPresent) (elapse dt s)
    refine completes_next (t := keepaliveAll (elapse dt s)) rfl ⟨sends.clk.trans (elapse_clk dt s), fun e few here => ?_⟩
    have present : (elapse dt s).engPresent e = true := by rw [State.engPresent, elapse_kept.e_plt (by decide)]; exact here
    have kept := each e (List.mem_filter.mpr ⟨List.mem_range.mpr few, present⟩)
    rw [elapse_engine, elapse_engLane] at kept
    exact kept
  · intro dt e s
    have clk : (elapse dt s).clk = s.clk + dt := elapse_clk dt s
    have engine : (elapse dt s).engine e.val = s.engine e.val := elapse_engine dt e.val
    have lane : (elapse dt s).engLane e.val = s.engLane e.val := elapse_engLane dt
    refine completes_next (t := retryEng e.val (elapse dt s)) rfl ?_
    rw [← clk, ← engine, ← lane]
    exact ⟨fun c sent due few => retryEng_sent sent due few, fun c held => retryEng_fresh held⟩
  · intro dt e s up silent
    have clk : (elapse dt s).clk = s.clk + dt := elapse_clk dt s
    have engine : (elapse dt s).engine e.val = s.engine e.val := elapse_engine dt e.val
    refine completes_next (t := loseEngine e.val (elapse dt s)) rfl ?_
    obtain ⟨lost, event, path⟩ := loseEngine_lost (s := elapse dt s) (e := e.val) (by rw [engine, up]) (by rw [engine, clk]; exact silent)
    exact ⟨lost, event, path.trans (congrArg Opt.path (elapse_opt dt))⟩
  · intro dt e s heard
    have clk : (elapse dt s).clk = s.clk + dt := elapse_clk dt s
    have engine : (elapse dt s).engine e.val = s.engine e.val := elapse_engine dt e.val
    refine completes_next (t := loseEngine e.val (elapse dt s)) rfl ?_
    rw [loseEngine_heard (by rw [engine, clk]; exact heard)]
    exact elapse_opt dt
end
